-- ==== Sys2Proof/Word.lean ====
section
/-! DEFINITION. The words of the FY8 and their plainest arithmetic. Everything is little-endian (R2). -/

namespace Sys2Proof

/-- A scalar register, address or operand value: 64 bits (R140). -/
abbrev Word := BitVec 64

/-- A byte of any memory. -/
abbrev Byte := BitVec 8

/-- A vector of eight granules of 264 bits: 256 data bits and one scale byte each (R218). -/
abbrev Vec := BitVec 2112

/-- A word of a bundle: header, slot word or literal word (R262). -/
abbrev BWord := BitVec 32

end Sys2Proof
end

