-- ==== Sys2Proof/Machine/Map.lean ====
section
/-! DEFINITION. Sparse maps: a list of pairs in one canonical form, keys strictly rising and no entry
equal to what an unlisted key reads as. Every memory, tile and accumulator of the machine is one. -/

namespace Sys2Proof

/-- A sparse map from natural keys. -/
abbrev SMap (α : Type) := List (Nat × α)

/-- A memory of bytes, as a list of `Host.Cell`. -/
abbrev Mem := SMap Byte

namespace SMap

/-- What key `k` reads as; `d` where it is not listed. -/
def get {α : Type} (d : α) : SMap α → Nat → α
  | [], _ => d
  | (a, v) :: m, k => if k = a then v else get d m k

/-- The map without key `k`. -/
def erase {α : Type} : SMap α → Nat → SMap α
  | [], _ => []
  | (a, v) :: m, k => if k = a then m else (a, v) :: erase m k

/-- The map with `k` listed as `v`. -/
def insert {α : Type} : SMap α → Nat → α → SMap α
  | [], k, v => [(k, v)]
  | (a, w) :: m, k, v =>
    if k < a then (k, v) :: (a, w) :: m
    else if k = a then (k, v) :: m
    else (a, w) :: insert m k v

/-- Write `v` at `k`: writing what an unlisted key reads as removes the entry. -/
def set {α : Type} [DecidableEq α] (d : α) (m : SMap α) (k : Nat) (v : α) : SMap α :=
  if v = d then erase m k else insert m k v

/-- Keys strictly rising from `lo` on, and no entry equal to the default. -/
def wfFrom {α : Type} [DecidableEq α] (d : α) : Nat → SMap α → Bool
  | _, [] => true
  | lo, (a, v) :: m => decide (lo ≤ a) && decide (v ≠ d) && wfFrom d (a + 1) m

/-- The canonical form. -/
def wf {α : Type} [DecidableEq α] (d : α) (m : SMap α) : Bool := wfFrom d 0 m

/-- The entries whose key satisfies `p`. -/
def restrict {α : Type} (m : SMap α) (p : Nat → Bool) : SMap α := m.filter fun e => p e.1

end SMap

namespace Mem

/-- One byte; unlisted bytes read zero (R12, R115). -/
def read (m : Mem) (a : Nat) : Byte := SMap.get 0 m a

/-- Write one byte. -/
def write (m : Mem) (a : Nat) (b : Byte) : Mem := SMap.set 0 m a b

/-- The canonical form of a memory. -/
def wf (m : Mem) : Bool := SMap.wf 0 m

/-- `n` bytes from `a` upwards. -/
def readBytes (m : Mem) (a : Nat) : Nat → List Byte
  | 0 => []
  | n + 1 => read m a :: readBytes m (a + 1) n

/-- The listed cells of a block of bytes at `a`: those that are not zero. -/
def cells (a : Nat) : List Byte → Mem
  | [] => []
  | b :: bs => if b = 0 then cells (a + 1) bs else (a, b) :: cells (a + 1) bs

/-- Write bytes from `a` upwards: the cells below, the block, the cells above. -/
def writeBytes (m : Mem) (a : Nat) (bs : List Byte) : Mem :=
  (SMap.restrict m fun k => decide (k < a)) ++ cells a bs ++
    SMap.restrict m fun k => decide (a + bs.length ≤ k)

/-- `n` bytes from `a` as a little-endian number (R2). -/
def readLE (m : Mem) (a n : Nat) : Nat :=
  (readBytes m a n).foldr (fun b acc => b.toNat + 256 * acc) 0

/-- Set `n` bytes from `a` to zero. -/
def zero (m : Mem) (a n : Nat) : Mem := SMap.restrict m fun k => k < a || a + n ≤ k

end Mem

/-- The little-endian number of a list of bytes (R2). -/
def bytesToNat (bs : List Byte) : Nat := bs.foldr (fun b acc => b.toNat + 256 * acc) 0

/-- The `n` low bytes of a number, lowest first (R2). -/
def natToBytes : Nat → Nat → List Byte
  | 0, _ => []
  | n + 1, v => BitVec.ofNat 8 v :: natToBytes n (v / 256)

/-- Bits `[hi:lo]` of a number. -/
def bitsOf (v lo width : Nat) : Nat := v / 2 ^ lo % 2 ^ width

/-- The signed value of the low `w` bits of a number. -/
def signed (w v : Nat) : Int :=
  let u := v % 2 ^ w
  if 2 ^ (w - 1) ≤ u then (u : Int) - (2 ^ w : Nat) else u

/-- `n` bytes of a byte list from offset `o`, as a number; bytes beyond the list read zero. -/
def fieldLE (bs : List Byte) (o n : Nat) : Nat := bytesToNat ((bs.drop o).take n)

/-- The list with the byte at `o` onwards replaced by `new`. -/
def spliceBytes (bs : List Byte) (o : Nat) (new : List Byte) : List Byte :=
  bs.take o ++ new ++ bs.drop (o + new.length)

/-- The list with element `i` replaced, if there is one. -/
def setAt {α : Type} : List α → Nat → α → List α
  | [], _, _ => []
  | _ :: l, 0, v => v :: l
  | a :: l, i + 1, v => a :: setAt l i v

end Sys2Proof
end

