-- ==== Sys2Proof/Syntax.lean ====
section
/-! DEFINITION. The syntax of the FY8: the operands of slot instructions, the data that the module's
other steps carry, and the one inductive `Instr` with a constructor for every row of
spec/opcode_table.json. A slot instruction is one slot word with its literal (R262, R266); a step of
the rest of the module carries as its arguments what its surroundings put in (a packet, a host
access, what the boot finds). -/

namespace Sys2Proof

/-- The six slots of a bundle, in slot order (R139). -/
inductive Slot where
  | s | v0 | v1 | m | c0 | c1
  deriving DecidableEq, Repr

/-- The four opcode maps: V0 and V1 share one, C0 and C1 share one (R273). -/
inductive SlotClass where
  | s | v | m | c
  deriving DecidableEq, Repr

/-- The identity specifiers 48-55 of a scalar slot (R269). -/
inductive IdReg where
  | coreId | quadId | dieId | pkgId | gangRank | gangSize | icyc | tagDone
  deriving DecidableEq, Repr

/-- A 6-bit operand specifier of a scalar slot (R269): takes, named registers, constants 0-15,
identity specifiers; 56-63 are reserved. -/
inductive SSpec where
  | take  (n : Fin 16)
  | x     (n : Fin 16)
  | const (n : Fin 16)
  | ident (r : IdReg)
  deriving DecidableEq, Repr

/-- A 6-bit operand specifier of a vector slot (R269): takes, v registers, streams, result queues,
broadcasts of x registers; 42-47 are reserved. -/
inductive VSpec where
  | take   (n : Fin 16)
  | v      (n : Fin 16)
  | stream (n : Fin 8)
  | queue  (n : Fin 2)
  | bcast  (n : Fin 16)
  deriving DecidableEq, Repr

/-- A scalar operand that a literal word may replace (R266). -/
inductive SOpnd where
  | spec (s : SSpec)
  | lit  (v : BWord)
  deriving DecidableEq, Repr

/-- A vector operand B that a literal word may replace (R266). -/
inductive VOpnd where
  | spec (s : VSpec)
  | lit  (v : BWord)
  deriving DecidableEq, Repr

/-- A 13-bit immediate or the literal word in its place (R266). -/
inductive Imm where
  | imm13 (v : BitVec 13)
  | lit   (v : BWord)
  deriving DecidableEq, Repr

/-- A branch distance in words: OFF18 or the literal in its place (R266). -/
inductive Off where
  | off18 (v : BitVec 18)
  | lit   (v : BWord)
  deriving DecidableEq, Repr

/-- An optional displacement literal added to operand A (R266). -/
abbrev Disp := Option BWord

/-- A named write-back W, 0-15 (R267); 0 writes only the take. -/
abbrev WReg := Fin 16

/-- Element types (R271). -/
inductive Ty where
  | f32 | bf16 | f16 | e4m3 | e5m2 | e2m1 | s8 | z8 | s16 | z16 | s32 | z32 | a32 | i4
  deriving DecidableEq, Repr

/-- Rounding modes named by an instruction (R226). -/
inductive Rm where
  | rne | rtz | sr | dyn
  deriving DecidableEq, Repr

/-- Down-conversion overflow policies (R228). -/
inductive Pol where
  | sat | inf | nan | trap
  deriving DecidableEq, Repr

/-- Conditions of CMP and VCMP (R272). -/
inductive Cond where
  | eq | ne | lt | ge | le | gt | zlt | zge | zle | zgt | un | ord
  deriving DecidableEq, Repr

/-- Access sizes of LD (R267). -/
inductive LdSz where
  | bz | hz | wz | d | bs | hs | ws
  deriving DecidableEq, Repr

/-- Access sizes of ST (R353). -/
inductive StSz where
  | b | h | w | d
  deriving DecidableEq, Repr

/-- Atomic operations (R357). -/
inductive AmoOp where
  | swap | add | and | or | xor | min | max | minz | maxz | fadd | fmin | fmax
  deriving DecidableEq, Repr

/-- The forms of MOVX (R291): DIR and KIND. -/
inductive MovxForm where
  | rdX | rdT | wrX
  deriving DecidableEq, Repr

/-- A function of the module: 0 is PF 0, 1-16 the VFs (R46). -/
abbrev Fn := Fin 17

/-- A data packet (R33): the header's fields and its data flits, each a 64-byte line, with their check codes. -/
structure Packet where
  type  : BitVec 8
  hop   : BitVec 3
  cls   : BitVec 2
  dst   : BitVec 11
  src   : BitVec 11
  dfn   : BitVec 8
  sfn   : BitVec 8
  gang  : BitVec 32
  pseq  : BitVec 32
  addr  : BitVec 64
  be    : List (BitVec 64)
  opnd  : BitVec 32
  flits : List (List Byte)
  /-- HCC, the header's check code, and the code of each data flit (R33, R34). -/
  hcc   : BitVec 32
  codes : List (BitVec 32)
  deriving DecidableEq, Repr

/-- A control packet of VC 5 (R32). -/
structure Control where
  ctype : BitVec 8
  hop   : BitVec 3
  dst   : BitVec 11
  src   : BitVec 11
  arg16 : BitVec 16
  arg32 : BitVec 32
  /-- CCC, the packet's own check code (R32). -/
  ccc   : BitVec 32
  deriving DecidableEq, Repr

/-- What a flit of a link carries: the manual does not say how the far end tells. DESIGN CHOICE: log entry 41. -/
inductive FlitKind where
  | idle | head | data | ctl
  deriving DecidableEq, Repr

/-- A flit (R24): 64 bytes and its check code, in its virtual channel. -/
structure Flit where
  kind  : FlitKind
  vc    : Fin 6
  bytes : List Byte
  code  : BitVec 32
  deriving DecidableEq, Repr

/-- A link frame (R25): its eight flits, and its trailer: sequence number, the number acknowledged, whether the frame after
that one is asked for again, credit returns of VCs 0 to 5, link CRC. -/
structure Frame where
  flits   : List Flit
  seq     : BitVec 12
  ackSeq  : BitVec 12
  nak     : Bool
  credits : List (BitVec 8)
  crc     : BitVec 32
  deriving DecidableEq, Repr

/-- One firmware image in the boot flash (R14): what the ROM reads of it. -/
structure FwImage where
  body      : List Byte
  digest    : BitVec 256
  version   : BitVec 32
  keyDigest : BitVec 256
  sigDigest : BitVec 256
  readable  : Bool
  deriving DecidableEq, Repr

/-- What a boot meets (R12): the four images in flash and what the self-test and training find. -/
structure BootFindings where
  /-- Service processor, memory controller, port sequencer, scrub (R15). -/
  images    : List FwImage
  romDigest : BitVec 256
  /-- Bad physical core position of each of the 16 rows, row = 4 * die + r (R18). -/
  badCore   : List (Option Nat)
  quads     : BitVec 64
  slices    : BitVec 128
  ways      : BitVec 1536
  channels  : BitVec 256
  ports     : BitVec 20
  /-- Some die-to-die boundary has more failed lanes than its two spares (R19). -/
  dieLinkBroken : Bool
  deriving DecidableEq, Repr

/-- What an error-correcting read found (R21). -/
inductive EccFinding where
  | clean | corrected | uncorrectable
  deriving DecidableEq, Repr

/-- Units named by fault log entries (R256). -/
inductive UnitKind where
  | core | copyEngine | sequencer | slice | channel | port | serviceProc | hostIf
  deriving DecidableEq, Repr

/-- A configuration request of the host (R13, R46): a read of a register, or a new size of BAR 2, as a power of two. -/
inductive ConfigReq where
  | read (fn : Fn) (reg : Nat)
  | resizeBar2 (fn : Fn) (log2 : Nat)
  deriving DecidableEq, Repr

/-- A host access to memory: a read of `len` bytes, or a write. -/
inductive HostAccess where
  | read  (len : Nat)
  | write (bytes : List Byte)
  deriving DecidableEq, Repr

/-- A command of a ring: which function, ring and index it came from, its 64 bytes (R61), and its number among the
commands fetched. -/
structure Cmd where
  fn   : Fn
  ring : Fin 64
  idx  : Nat
  data : List Byte
  serial : Nat
  deriving DecidableEq, Repr

/-- A core's arrays of 32-bit words with a correction code, the scratchpad apart (R21): spill memory, tile registers,
accumulators, and the shadow storage that holds a saved context of the core. -/
inductive CoreArray where
  | spill
  | tile (n : Fin 8)
  | acc (z : Fin 8)
  | shadow
  deriving DecidableEq, Repr

/-- What a late report of a failed core access says (R417), or a word of the core's own arrays whose data can no longer be
corrected (R21). -/
inductive LateFault where
  | uncorrectable | checkFail
  | word (a : CoreArray) (n : Fin 8192)
  deriving DecidableEq, Repr

/-- Why a YIELD ends early (R297). -/
inductive YieldWhy where
  | count | stop | delivery | barrier | tag
  deriving DecidableEq, Repr

/-- What an engine met when its command completed: nothing amiss, a fault of the line at byte
`done` of its transfer, or an ending by its partition (R370). -/
inductive EngineEnd where
  | ok
  | uncorrectable (done : Nat)
  | checkFail (done : Nat)
  | aborted
  deriving DecidableEq, Repr

/-- What the surroundings of a step put in, beside the arguments of its constructor: the command
that runs (R62), the data packet or control packets that arrived (R32, R33), the core or the channel
that a step of the core or of a near-bank run concerns. A step that uses none leaves it aside. -/
structure Input where
  cmd  : Cmd
  pkt  : Packet
  ctl  : Control
  ctl2 : Control
  core : Fin 256
  chan : Fin 256
  /-- The fabric port by which it came, 20 for none; of a control packet, whether it is the last of its flit that goes on. -/
  port : Fin 21
  last : Bool
  deriving DecidableEq, Repr

/-- Every row of spec/opcode_table.json: a slot instruction (R262-R277) or a step of the rest of the
module (95_what_each_step_holds). -/
inductive Instr where
  -- Package, power and bring-up
  | powerOnReset (b : BootFindings)
  | perst (b : BootFindings)
  | hostConfigRequest (r : ConfigReq)
  | powerWindowEnd (watts : Nat)
  | junctionTemperature (die : Fin 4) (celsius : Nat)
  | pwrCapWrite (fn : Fn) (v : Word)
  | patrolScrub (dpa : Nat) (found : EccFinding)
  | corrected (unit : UnitKind) (index : Nat)
  | controlDrop (port : Fin 20)
  | flrVf (vf : Fin 16)
  -- Scale-up fabric
  | linkFrameReceive (port : Fin 20) (f : Frame)
  | linkNakReceive (port : Fin 20) (seq : BitVec 12)
  | portLossOfLock (port : Fin 20)
  | replayLimit (port : Fin 20)
  | retrainDone (port : Fin 20) (ok : Bool) (flight : BitVec 8) (neigh : BitVec 11) (nport : BitVec 5)
  | portEnableWrite (fn : Fn) (port : Fin 20) (v : Word)
  | portRetrain (fn : Fn) (port : Fin 20)
  | fabIdWrite (fn : Fn) (v : Word)
  | routeTableWrite (fn : Fn) (dest : Fin 2048) (v : BitVec 32)
  | packetForward (vc : Fin 6) (p : Packet)
  | dataPacketAccept (port : Option (Fin 20)) (p : Packet)
  | ackTimeout (src : BitVec 11) (sfn dfn : BitVec 8) (cls : BitVec 2)
  | fabricTimeout (core : Fin 256) (dest : Fin 2048)
  -- Scheduler, call sheet and gang switching
  | slotBoundary (group : List Nat)
  | sequencerStateSave (port : Fin 20)
  | dispatch (part : Fin 16)
  | lnchEntry (part : Fin 16)
  | qosWindowEnd (channel : Fin 256)
  | perfCounterUpdate (part : Fin 16)
  | periodicSlate (part : Fin 16)
  -- Translation, host interface and commands
  | tlbWalkDone (core : Fin 256)
  | parkedRetry (core : Fin 256) (tag : Fin 64)
  | hostBar2Access (fn : Fn) (off : Nat) (a : HostAccess)
  | hostCxlMemAccess (hpa : Nat) (a : HostAccess)
  | qwidxWrite (fn : Fn) (ring : Fin 64) (v : Word)
  | ringEnable (fn : Fn) (ring : Fin 64)
  | ringDisable (fn : Fn) (ring : Fin 64)
  | ringDrained (fn : Fn) (ring : Fin 64)
  | ringBlockWrite (fn : Fn) (ring : Fin 64) (off : Nat) (v : Word)
  | commandFetch (fn : Fn) (ring : Fin 64)
  | commandStart (fn : Fn) (ring : Fin 64)
  | commandComplete (fn : Fn) (ring : Fin 64) (idx : Nat)
  | sumctlGo (fn : Fn)
  | registerWrite (fn : Fn) (off : Nat) (v : Word)
  -- The core's own steps
  | bundleIssue (core : Fin 256)
  | loadDataArrive (core : Fin 256) (id : Nat)
  | uncorrectableReport (core : Fin 256) (id : Nat) (why : LateFault)
  | rejoinMeet (quad : Fin 64)
  | writePerform (id : Nat)
  | readServe (id : Nat)
  | perfBroadcast (die : Fin 4)
  | combiningEntryApply (channel : Fin 256)
  | dramRowClose (channel : Fin 256) (bank : Fin 32)
  | polderPumpDone (core : Fin 256) (polder : Fin 32) (lost : List (Fin 1024))
  | streamRefill (core : Fin 256) (stream : Fin 8)
  | streamDrain (core : Fin 256) (stream : Fin 8)
  | copyComplete (core : Fin 256) (tag : Fin 64) (e : EngineEnd)
  | yieldEnd (core : Fin 256) (why : YieldWhy)
  | wfiWake (core : Fin 256) (events : BitVec 4)
  -- Collectives
  | collDeadlineCut (part : Fin 16) (entry : Fin 256)
  -- S slot: core control
  | yield (a : SSpec)
  | trap (imm : BitVec 13)
  -- S slot: integer
  | add (a : SSpec) (b : SOpnd) (w : WReg) (s : Bool)
  | sub (a : SSpec) (b : SOpnd) (w : WReg) (s : Bool)
  | mul (a : SSpec) (b : SOpnd) (w : WReg) (s : Bool)
  | mulh (a : SSpec) (b : SOpnd) (w : WReg)
  | mulhz (a : SSpec) (b : SOpnd) (w : WReg)
  | div (a : SSpec) (b : SOpnd) (w : WReg) (s : Bool)
  | divz (a : SSpec) (b : SOpnd) (w : WReg) (s : Bool)
  | rem (a : SSpec) (b : SOpnd) (w : WReg) (s : Bool)
  | remz (a : SSpec) (b : SOpnd) (w : WReg) (s : Bool)
  | and (a : SSpec) (b : SOpnd) (w : WReg)
  | or (a : SSpec) (b : SOpnd) (w : WReg)
  | xor (a : SSpec) (b : SOpnd) (w : WReg)
  | andn (a : SSpec) (b : SOpnd) (w : WReg)
  | shl (a : SSpec) (b : SOpnd) (w : WReg) (s : Bool)
  | shr (a : SSpec) (b : SOpnd) (w : WReg) (s : Bool)
  | sra (a : SSpec) (b : SOpnd) (w : WReg) (s : Bool)
  | rot (a : SSpec) (b : SOpnd) (w : WReg) (s : Bool)
  | clz (a : SSpec) (w : WReg) (s : Bool)
  | ctz (a : SSpec) (w : WReg) (s : Bool)
  | popc (a : SSpec) (w : WReg) (s : Bool)
  | min (a : SSpec) (b : SOpnd) (w : WReg)
  | max (a : SSpec) (b : SOpnd) (w : WReg)
  | minz (a : SSpec) (b : SOpnd) (w : WReg)
  | maxz (a : SSpec) (b : SOpnd) (w : WReg)
  | cmp (a : SSpec) (b : SOpnd) (w : WReg) (c : Cond)
  | sel (a : SSpec) (b : SOpnd) (w : WReg) (c : SSpec)
  | agen (a : SSpec) (b : SOpnd) (w : WReg) (k : Fin 16)
  | bfi (a : SSpec) (b : SOpnd) (w : WReg) (v : SSpec)
  | movx (a : SSpec) (w : WReg) (idx : Fin 16) (f : MovxForm)
  | li (w : WReg) (i : Imm)
  | addi (a : SSpec) (w : WReg) (i : Imm)
  | andi (a : SSpec) (w : WReg) (i : Imm)
  | ori (a : SSpec) (w : WReg) (i : Imm)
  | xori (a : SSpec) (w : WReg) (i : Imm)
  | shli (a : SSpec) (w : WReg) (s : Bool) (n : BitVec 6)
  | shri (a : SSpec) (w : WReg) (s : Bool) (n : BitVec 6)
  | srai (a : SSpec) (w : WReg) (s : Bool) (n : BitVec 6)
  | bfx (a : SSpec) (w : WReg) (x : Bool) (len : BitVec 6) (pos : BitVec 6)
  -- S slot: memory, atomics, fences, messages
  | ld (a : SSpec) (d : Disp) (w : WReg) (land : BitVec 10) (sz : LdSz)
  | st (a : SSpec) (d : Disp) (b : SSpec) (w : WReg) (na sp : Bool) (sz : StSz)
  | spl (a : SSpec) (off : BitVec 11)
  | fil (w : WReg) (off : BitVec 11)
  | amo (a : SSpec) (d : Disp) (b : SSpec) (w : WReg) (nr w32 : Bool) (op : AmoOp)
  | amocas (a : SSpec) (d : Disp) (b : SSpec) (w : WReg) (w32 : Bool) (e : SSpec)
  | fence (scope : BitVec 4) (kind : BitVec 2)
  | mqrd (a : SSpec) (w : WReg)
  | mqrel (a : SSpec)
  -- S slot: transfers of control
  | br (o : Off)
  | beqz (a : SSpec) (o : Off)
  | bnez (a : SSpec) (o : Off)
  | bltz (a : SSpec) (o : Off)
  | bgez (a : SSpec) (o : Off)
  | bmz (o : Off)
  | bmnz (o : Off)
  | loop (n : Fin 16) (o : Off)
  | call (o : Off)
  | jt (a : SSpec) (b : SOpnd)
  | calli (a : SSpec) (b : SOpnd) (w : WReg)
  | ret (a : SSpec)
  -- S slot: tags and barriers
  | twait (a : SSpec) (w : WReg)
  | twany (a : SSpec) (w : WReg)
  | tffr (a : SSpec) (w : WReg)
  | tclr (a : SSpec)
  | binit (a : SSpec) (b : SOpnd)
  | barr (a : SSpec)
  | bwait (a : SSpec) (b : SOpnd) (w : WReg)
  | btest (a : SSpec) (b : SOpnd) (w : WReg)
  | binv (a : SSpec)
  -- S slot: system
  | csrr (w : WReg) (c : BitVec 12)
  | csrw (a : SSpec) (c : BitVec 12)
  | sbindRd (a : SSpec) (off : BitVec 8) (s : Fin 8)
  | sbindWr (a : SSpec) (off : BitVec 8) (s : Fin 8)
  | sunbind (s : Fin 8)
  | lnch (a : SSpec) (w : WReg)
  | adjrd (a : SSpec) (b : SOpnd) (w : WReg) (sp : Bool)
  | adjclr (a : SSpec) (b : SOpnd) (w : WReg) (sp : Bool)
  | tlbinvPart (a : SSpec) (w : WReg)
  | tlbinvIpa (a : SSpec) (b : SOpnd) (w : WReg)
  | tlbinvAll (w : WReg)
  | scrub (a : SSpec) (w : WReg)
  | voteRd (w : WReg)
  | voteAbort (w : WReg)
  | voteCommit (w : WReg)
  | wfi (a : SSpec) (w : WReg)
  -- V slots
  | vadd (a : VSpec) (b : VOpnd) (t : Ty) (p : BitVec 2)
  | vsub (a : VSpec) (b : VOpnd) (t : Ty) (p : BitVec 2)
  | vmul (a : VSpec) (b : VOpnd) (t : Ty) (p : BitVec 2)
  | vfma (a : VSpec) (b : VOpnd) (c : VSpec) (t : Ty) (p : BitVec 2)
  | vfms (a : VSpec) (b : VOpnd) (c : VSpec) (t : Ty) (p : BitVec 2)
  | vfnma (a : VSpec) (b : VOpnd) (c : VSpec) (t : Ty) (p : BitVec 2)
  | vdiv (a : VSpec) (b : VOpnd) (t : Ty) (p : BitVec 2)
  | vsqrt (a : VSpec) (t : Ty) (p : BitVec 2)
  | vrsq (a : VSpec) (t : Ty) (p : BitVec 2)
  | vrcp (a : VSpec) (t : Ty) (p : BitVec 2)
  | vexp2 (a : VSpec) (t : Ty) (p : BitVec 2)
  | vlog2 (a : VSpec) (t : Ty) (p : BitVec 2)
  | vmin (a : VSpec) (b : VOpnd) (t : Ty)
  | vmax (a : VSpec) (b : VOpnd) (t : Ty)
  | vabs (a : VSpec) (t : Ty) (p : BitVec 2)
  | vneg (a : VSpec) (t : Ty) (p : BitVec 2)
  | vcps (a : VSpec) (b : VOpnd) (t : Ty)
  | vand (a : VSpec) (b : VOpnd) (t : Ty)
  | vor (a : VSpec) (b : VOpnd) (t : Ty)
  | vxor (a : VSpec) (b : VOpnd) (t : Ty)
  | vnot (a : VSpec) (t : Ty)
  | vshl (a : VSpec) (b : VOpnd) (t : Ty)
  | vshr (a : VSpec) (b : VOpnd) (t : Ty)
  | vsra (a : VSpec) (b : VOpnd) (t : Ty)
  | vmulh (a : VSpec) (b : VOpnd) (t : Ty)
  | vcmp (a : VSpec) (b : VOpnd) (c : Cond) (t : Ty)
  | vsel (a : VSpec) (b : VOpnd) (c : VSpec) (t : Ty)
  | vclass (a : VSpec) (t : Ty)
  | vcvt (a : VSpec) (td : Ty) (pol : Pol) (m : Rm) (ts : Ty)
  | vpack (a : VSpec) (b : VOpnd) (g : Fin 8)
  | vunpk (a : VSpec) (g : Fin 8)
  | vscl (a : VSpec) (b : VOpnd) (t : Ty) (p : BitVec 2)
  | vanc (a : VSpec) (b : VOpnd) (t : Ty) (p : BitVec 2)
  | vdanc (a : VSpec) (b : VOpnd) (t : Ty) (p : BitVec 2)
  | vqdec (a : VSpec) (b : VOpnd) (c : VSpec) (t : Ty) (p : BitVec 2)
  | vbcst (a : VSpec) (t : Ty)
  | viota (a : VSpec) (t : Ty)
  | vperm (a : VSpec) (b : VOpnd) (t : Ty)
  | vslide (a : VSpec) (b : VOpnd) (c : VSpec) (t : Ty)
  | vzip (a : VSpec) (b : VOpnd) (t : Ty) (hi : Bool)
  | vunzip (a : VSpec) (b : VOpnd) (t : Ty) (hi : Bool)
  | vmov (a : VSpec) (n : Fin 16) (t : Ty)
  | vsw (a : VSpec) (n : Fin 8) (t : Ty)
  | vext (a : VSpec) (b : VOpnd) (t : Ty)
  | vrsum (a : VSpec) (t : Ty) (p : BitVec 2)
  | vrmax (a : VSpec) (t : Ty)
  | vrmin (a : VSpec) (t : Ty)
  | vscan (a : VSpec) (t : Ty) (p : BitVec 2)
  | vdot (a : VSpec) (b : VOpnd) (t : Ty) (p : BitVec 2)
  | mpush (a : VSpec) (t : Ty)
  | mset (a : VSpec) (t : Ty)
  -- M slot
  | mop (z a b : Fin 8) (k : BitVec 8) (neg : Bool)
  | mopz (z a b : Fin 8) (k : BitVec 8) (neg : Bool)
  | mr1 (z a b : Fin 8) (k : BitVec 8) (neg : Bool)
  | mr1z (z a b : Fin 8) (k : BitVec 8) (neg : Bool)
  | mzero (z : Fin 8)
  | macc (z s : Fin 8) (neg : Bool)
  | mscl (z : Fin 8) (e : BitVec 7)
  | mdrain (z : Fin 8) (q : Fin 2) (pol : Pol) (clr : Bool) (m : Rm) (first rows : BitVec 4) (t : Ty)
  | mfmt (v : BitVec 7)
  | msave (z : Fin 8) (h : Bool) (p : Fin 32)
  | mload (z : Fin 8) (h : Bool) (p : Fin 32)
  -- C slots
  | cpy (g : Fin 64) (a b : SSpec) (c : SOpnd)
  | cpyp (g : Fin 64) (a b : SSpec) (c : SOpnd)
  | cstrp (g : Fin 64) (a b : SSpec) (c : SOpnd)
  | ctld (g : Fin 64) (n : Fin 8) (b : SSpec) (c : SOpnd)
  | ctst (g : Fin 64) (n : Fin 8) (b : SSpec) (c : SOpnd)
  | cqst (g : Fin 64) (q : Fin 2) (b : SSpec) (c : SOpnd)
  | cfill (g : Fin 64) (a b : SSpec) (c : SOpnd)
  | czero (g : Fin 64) (a : SSpec) (c : SOpnd)
  | cpref (a : SSpec) (c : SOpnd)
  | cflush (g : Fin 64) (a : SSpec) (c : SOpnd)
  | cmsg (g : Fin 64) (a b : SSpec)
  | fwr (g : Fin 64) (a b : SSpec) (c : SOpnd)
  | famo (g : Fin 64) (a b : SSpec) (c : SOpnd)
  | freq (g : Fin 64) (a b : SSpec) (c : SOpnd)
  | flnch (g : Fin 64) (a : SSpec) (c : SOpnd)
  | ttset (a b : SSpec)
  | trdy (a : SSpec)
  | rcut (a : SSpec)
  | rpick (a : SSpec)
  | rstat (w : WReg) (a : SSpec)
  | nbld (g : Fin 64) (a b : SSpec)
  | nbx (g : Fin 64) (a : SSpec) (c : SOpnd)
  | nbq (w : WReg) (a b : SSpec)
  | msat (g : Fin 64) (a b : SSpec) (c : SOpnd)
  | hsig (a b : SSpec) (c : SOpnd)
  -- Steps listed at the end of the table
  | powerLoss (fuseWriting oneAbove : Bool)
  | linkTrained (port : Fin 20) (flight : BitVec 8) (neigh : BitVec 11) (nport : BitVec 5)
  | tokenWaitEnd (channel : Fin 256) (part : Fin 16)
  | designatedWaysCleared (part : Fin 16) (slice : Fin 128)
  -- Without arguments
  -- Package, power and bring-up
  | powerApplied
  | thermtrip
  | flrPf0
  -- Scale-up fabric
  | packetInject
  | writePacket
  | atomicPacket
  | reqPacket
  | launchPacket
  | reducePacket
  | pickupPacket
  | ackPacket
  | dropPacket
  | lrefusePacket
  -- Scheduler, call sheet and gang switching
  | votePhasePrepare
  | votePhaseOk
  | votePhaseRefuse
  | votePhaseAbort
  | votePhaseCommit
  | votePhaseCommitted
  | voteAbsent
  | levelRequest
  | levelReport
  | levellingCapture
  | voteStall
  | commitResend
  | coreStop
  | swapDone
  | saveWriteback
  | coreEnded
  -- Translation, host interface and commands
  | commandNop
  | register
  | unregister
  | launch
  | hKernelLaunch
  | lperm
  | attest
  | summary
  | slate
  | pcreate
  | pdestroy
  | hdmmap
  | psetS2inv
  | psetS2root
  | psetQos
  | psetWaymask
  | psetWindow
  | psetDrange
  | psetPmbase
  | sheetGangdef
  | sheetCell
  | sheetLength
  | sheetAgeq
  | sheetStart
  | sheetStop
  | sheetResolve
  | sheetGangdel
  -- The core's own steps
  | fetchLinesArrive
  | trapEntry
  | matrixOpComplete
  | mdrainGroupPush
  | matrixIntCode
  | mfmtEffect
  | messageDelivery
  | creditReturn
  | barrierApply
  | fenceRelease
  -- Near-bank runs
  | nbRunDequeue
  | nbGuardDone
  | nbRowBoundary
  | nbSuspendDone
  | nbWindowClose
  | nbResumeDone
  | nbTokensReady
  | nbRunFinish
  -- Collectives
  | cutPacket
  -- S slot: core control
  | nop
  | endI
  | eret
  -- S slot: system
  | dmodeFwd
  | dmodeRew
  -- V slots
  | minv
  | mpop
  -- M slot
  | mfence
  -- Steps listed at the end of the table
  | perstDeassert
  | tlbinvComplete
  | scrubComplete
  deriving DecidableEq, Repr

end Sys2Proof
end

