-- ==== Sys2Proof/Machine/Num.lean ====
section
/-! DEFINITION. Number formats (R214-R231): decoding of element codes to exact values, exact
arithmetic on them, and one rounding at the end. -/

namespace Sys2Proof.Machine

/-- A rounding mode in force (R226); stochastic rounding carries its 32 bits (R227). -/
inductive RMode where
  | rne | rtz | sr (bits : Nat) | rup | rdn
  deriving DecidableEq, Repr

/-- A floating-point format (R215): exponent and fraction widths, bias, the greatest finite code, and
whether it has infinities and NaNs. -/
structure Fmt where
  ebits  : Nat
  mbits  : Nat
  bias   : Nat
  maxFin : Nat
  hasInf : Bool
  hasNan : Bool
  nan    : Nat
  deriving DecidableEq, Repr

def fp32 : Fmt := ⟨8, 23, 127, 0x7F7FFFFF, true, true, 0x7FC00000⟩
def fp16 : Fmt := ⟨5, 10, 15, 0x7BFF, true, true, 0x7E00⟩
def bf16 : Fmt := ⟨8, 7, 127, 0x7F7F, true, true, 0x7FC0⟩
def e4m3 : Fmt := ⟨4, 3, 7, 0x7E, false, true, 0x7F⟩
def e5m2 : Fmt := ⟨5, 2, 15, 0x7B, true, true, 0x7E⟩
def e2m1 : Fmt := ⟨2, 1, 1, 0x7, false, false, 0⟩

/-- Bits of a code. -/
def Fmt.width (f : Fmt) : Nat := 1 + f.ebits + f.mbits

/-- An exact value: NaN, an infinity, or (-1)^s * n / d * 2^e with d > 0. -/
inductive Val where
  | nan
  | inf (s : Bool)
  | fin (s : Bool) (n d : Nat) (e : Int)
  deriving DecidableEq, Repr

/-- The value of a code (R215-R217). -/
def Fmt.decode (f : Fmt) (c : Nat) : Val :=
  let s := c.testBit (f.ebits + f.mbits)
  let ex := bitsOf c f.mbits f.ebits
  let m := bitsOf c 0 f.mbits
  let mag := c % 2 ^ (f.ebits + f.mbits)
  if f.maxFin < mag then
    if f.hasInf ∧ m = 0 then .inf s else .nan
  else if ex = 0 then .fin s m 1 (1 - (f.bias : Int) - f.mbits)
  else .fin s (2 ^ f.mbits + m) 1 ((ex : Int) - f.bias - f.mbits)

/-- x * 2^k as a ratio of naturals. -/
def shiftRatio (n d : Nat) (k : Int) : Nat × Nat :=
  match k with
  | .ofNat k => (n * 2 ^ k, d)
  | .negSucc k => (n, d * 2 ^ (k + 1))

/-- ⌊log2 (n / d * 2^e)⌋, for n and d above zero. -/
def floorLog2 (n d : Nat) (e : Int) : Int :=
  let k : Int := (Nat.log2 n : Int) - Nat.log2 d
  let (a, b) := shiftRatio n d (-k)
  if b ≤ a then k + e else k - 1 + e

/-- Round n / d to a natural in a mode; whether it went away from zero, and whether it was exact. -/
def roundNat (mode : RMode) (neg : Bool) (n d : Nat) : Nat × Bool × Bool :=
  let q := n / d
  let r := n % d
  if r = 0 then (q, false, true)
  else
    let up := match mode with
      | .rne => decide (d < 2 * r) || (decide (2 * r = d) && q % 2 == 1)
      | .rtz => false
      | .sr bits => decide (bits < 2 ^ 32 * r / d)
      | .rup => !neg
      | .rdn => neg
    (if up then q + 1 else q, up, false)

/-- Round n / d * 2^e to `f`'s precision and least exponent, with no greatest exponent (R228): the
result is m * 2^q. -/
def Fmt.roundUnbounded (f : Fmt) (mode : RMode) (neg : Bool) (n d : Nat) (e : Int) :
    Nat × Int × Bool × Bool :=
  let q := max (floorLog2 n d e - f.mbits) (1 - (f.bias : Int) - f.mbits)
  let (a, b) := shiftRatio n d (e - q)
  let (m, up, exact) := roundNat mode neg a b
  if m = 2 ^ (f.mbits + 1) then (2 ^ f.mbits, q + 1, up, exact) else (m, q, up, exact)

/-- The magnitude code of m * 2^q, if it does not exceed the greatest finite value. -/
def Fmt.encodeMag (f : Fmt) (m : Nat) (q : Int) : Option Nat :=
  let code : Int := if m < 2 ^ f.mbits then m
    else (q + f.bias + f.mbits) * 2 ^ f.mbits + (m - 2 ^ f.mbits : Nat)
  if code.toNat ≤ f.maxFin then some code.toNat else none

/-- The sign bit of a code. -/
def Fmt.signBit (f : Fmt) (s : Bool) : Nat := if s then 2 ^ (f.ebits + f.mbits) else 0

def Fmt.infCode (f : Fmt) (s : Bool) : Nat := f.signBit s + f.maxFin + 1

/-- Round a value into a format as arithmetic does (R214): an overflow gives infinity or the greatest
finite value as the mode chooses. -/
def Fmt.round (f : Fmt) (mode : RMode) (v : Val) : Nat :=
  match v with
  | .nan => f.nan
  | .inf s => f.infCode s
  | .fin s n d e =>
    if n = 0 then f.signBit s
    else
      let (m, q, up, exact) := f.roundUnbounded mode s n d e
      match f.encodeMag m q with
      | some c => f.signBit s + c
      | none =>
        let toInf := match mode with
          | .rne => true
          | .rtz => false
          | .rup => !s
          | .rdn => s
          | .sr _ => up || exact
        if toInf then f.infCode s else f.signBit s + f.maxFin

/-- What a conversion to a code comes to: a code, or CVT_OVERFLOW under policy TRAP (R228, R229). -/
inductive Conv where
  | code (c : Nat)
  /-- A NaN into E2M1, which has none: code 0, and the granule's scale becomes 0xFF. -/
  | nanScale
  | overflow
  deriving DecidableEq, Repr

/-- The canonical NaN of a format (R228). -/
def Fmt.canonNan (f : Fmt) : Conv := if f.hasNan then .code f.nan else .nanScale

/-- Overflow of R228. -/
def Fmt.overflow (f : Fmt) (pol : Pol) (s : Bool) : Conv :=
  match pol with
  | .sat => .code (f.signBit s + f.maxFin)
  | .inf => if f.hasInf then .code (f.infCode s) else f.canonNan
  | .nan => f.canonNan
  | .trap => .overflow

/-- ConvertFloat of R228. -/
def Fmt.convert (f : Fmt) (mode : RMode) (pol : Pol) (v : Val) : Conv :=
  match v with
  | .nan => f.canonNan
  | .inf s => f.overflow pol s
  | .fin s n d e =>
    if n = 0 then .code (f.signBit s)
    else
      let (m, q, _, _) := f.roundUnbounded mode s n d e
      match f.encodeMag m q with
      | some c => .code (f.signBit s + c)
      | none => f.overflow pol s

/-! ### Exact arithmetic -/

def Val.neg : Val → Val
  | .nan => .nan
  | .inf s => .inf (!s)
  | .fin s n d e => .fin (!s) n d e

def Val.abs : Val → Val
  | .nan => .nan
  | .inf _ => .inf false
  | .fin _ n d e => .fin false n d e

def Val.sign : Val → Bool
  | .nan => false
  | .inf s => s
  | .fin s _ _ _ => s

def Val.isNan : Val → Bool
  | .nan => true
  | _ => false

def Val.isZero : Val → Bool
  | .fin _ n _ _ => n == 0
  | _ => false

def Val.isFin : Val → Bool
  | .fin _ _ _ _ => true
  | _ => false

/-- The exact product; infinity times zero is NaN. -/
def Val.mul : Val → Val → Val
  | .nan, _ => .nan
  | _, .nan => .nan
  | .inf s, .inf t => .inf (s != t)
  | .inf s, .fin t n _ _ => if n = 0 then .nan else .inf (s != t)
  | .fin s n _ _, .inf t => if n = 0 then .nan else .inf (s != t)
  | .fin s n d e, .fin t m c g => .fin (s != t) (n * m) (d * c) (e + g)

/-- The exact quotient. -/
def Val.div : Val → Val → Val
  | .nan, _ => .nan
  | _, .nan => .nan
  | .inf _, .inf _ => .nan
  | .inf s, .fin t _ _ _ => .inf (s != t)
  | .fin s _ _ _, .inf t => .fin (s != t) 0 1 0
  | .fin s n d e, .fin t m c g =>
    if m = 0 then (if n = 0 then .nan else .inf (s != t))
    else .fin (s != t) (n * c) (d * m) (e - g)

/-- The signed numerator of a finite value over denominator 1, at exponent `g` ≤ e. -/
def signedAt (s : Bool) (n : Nat) (e g : Int) : Int :=
  let m : Nat := n * 2 ^ (e - g).toNat
  if s then -(m : Int) else m

/-- A finite value from a signed numerator; `z` is the sign of a zero. -/
def Val.ofInt (x : Int) (d : Nat) (e : Int) (z : Bool) : Val :=
  if x = 0 then .fin z 0 1 0 else .fin (decide (x < 0)) x.natAbs d e

/-- The exact sum. A zero sum of two zeros of one sign keeps it; any other is +0, or -0 when rounding
toward -∞ (R214). -/
def Val.add (rdn : Bool) : Val → Val → Val
  | .nan, _ => .nan
  | _, .nan => .nan
  | .inf s, .inf t => if s = t then .inf s else .nan
  | .inf s, .fin _ _ _ _ => .inf s
  | .fin _ _ _ _, .inf t => .inf t
  | .fin s n d e, .fin t m c g =>
    let l := min e g
    let x := signedAt s (n * c) e l + signedAt t (m * d) g l
    let z := if n = 0 ∧ m = 0 ∧ s = t then s else rdn
    Val.ofInt x (d * c) l z

/-- Scale by a power of two. -/
def Val.scale (k : Int) : Val → Val
  | .fin s n d e => .fin s n d (e + k)
  | v => v

/-- The exact sum of terms: NaN, or infinities of both signs, give NaN (R231, R232); a zero sum is +0,
or -0 when every term is -0. -/
def Val.sum (terms : List Val) : Val :=
  match terms with
  | [] => .fin false 0 1 0
  | t :: ts => ts.foldl (Val.add false) t

/-- Order of two values; none when either is NaN. -/
def Val.cmp : Val → Val → Option Ordering
  | .nan, _ => none
  | _, .nan => none
  | .inf s, .inf t => some (if s = t then .eq else if s then .lt else .gt)
  | .inf s, .fin _ _ _ _ => some (if s then .lt else .gt)
  | .fin _ _ _ _, .inf t => some (if t then .gt else .lt)
  | .fin s n d e, .fin t m c g =>
    let l := min e g
    let x := signedAt s (n * c) e l
    let y := signedAt t (m * d) g l
    some (if x < y then .lt else if y < x then .gt else .eq)

/-- Round a finite value to an integer in a mode. -/
def Val.toInt (mode : RMode) (s : Bool) (n d : Nat) (e : Int) : Int :=
  let (a, b) := shiftRatio n d e
  let (q, _, _) := roundNat mode s a b
  if s then -(q : Int) else q

/-! ### Scales, integers and A32 -/

/-- The E8M0 value of a scale byte: its exponent, or none for NaN (R219). -/
def e8m0 (s : Nat) : Option Int := if s = 255 then none else some ((s : Int) - 127)

/-- A value under an E8M0 scale (R219). -/
def Val.withScale (v : Val) (s : Nat) : Val :=
  match e8m0 s with
  | some k => v.scale k
  | none => .nan

/-- The value an integer code reads as under FMTE (R222); none is INT_CODE. -/
def intCode (t : Ty) (fmte : Nat) (c : Nat) : Option Int :=
  let sub (k : Nat) (mostNeg : Int) : Option Int :=
    match k with
    | 0 => some mostNeg
    | 1 => some (mostNeg + 1)
    | 2 => some 0
    | _ => none
  match t with
  | .s8 => if c = 0x80 ∧ fmte.testBit 2 then sub (bitsOf fmte 0 2) (-128) else some (signed 8 c)
  | .z8 => some c
  | .i4 =>
    if fmte.testBit 3 then some c
    else if c = 0x8 ∧ fmte.testBit 4 then sub (bitsOf fmte 5 2) (-8)
    else some (signed 4 c)
  | .s16 => some (signed 16 c)
  | .z16 => some c
  | .s32 => some (signed 32 c)
  | _ => some c

/-- The width of an element type in bits (R215, R218). -/
def Ty.width : Ty → Nat
  | .f32 | .s32 | .z32 | .a32 => 32
  | .bf16 | .f16 | .s16 | .z16 => 16
  | .e4m3 | .e5m2 | .s8 | .z8 => 8
  | .e2m1 | .i4 => 4

/-- The format of a floating type; FP32 for the others. -/
def Ty.fmt : Ty → Fmt
  | .bf16 => Machine.bf16 | .f16 => fp16 | .e4m3 => Machine.e4m3 | .e5m2 => Machine.e5m2
  | .e2m1 => Machine.e2m1 | _ => fp32

def Ty.isFloat (t : Ty) : Bool :=
  match t with
  | .f32 | .bf16 | .f16 | .e4m3 | .e5m2 | .e2m1 => true
  | _ => false

def Ty.isScaled (t : Ty) : Bool :=
  match t with
  | .e4m3 | .e5m2 | .e2m1 => true
  | _ => false

/-- Whether a type's reserved code is in force: symmetric s8 or i4 (R221, R222). -/
def symmetric (t : Ty) (fmte : Nat) : Bool :=
  match t with
  | .s8 => fmte.testBit 2
  | .i4 => !fmte.testBit 3 && fmte.testBit 4
  | _ => false

/-- Whether the group of an integer type's width is symmetric: s8 and z8 are of the group of width 8 (R221, R229). -/
def groupSymmetric (t : Ty) (fmte : Nat) : Bool :=
  match t with
  | .z8 => fmte.testBit 2
  | _ => symmetric t fmte

/-- The range a conversion to an integer type may give (R229). -/
def intRange (t : Ty) (fmte : Nat) : Int × Int :=
  match t with
  | .s8 => if symmetric t fmte then (-127, 127) else (-128, 127)
  | .z8 => (0, 255)
  | .i4 => if fmte.testBit 3 then (0, 15) else if symmetric t fmte then (-7, 7) else (-8, 7)
  | .s16 => (-32768, 32767)
  | .z16 => (0, 65535)
  | .z32 => (0, 4294967295)
  | _ => (-2147483648, 2147483647)

/-- The code of an integer at a width. -/
def intToCode (w : Nat) (x : Int) : Nat := (x % (2 ^ w : Nat)).toNat

/-- ConvertInt of R229. -/
def convertInt (t : Ty) (fmte : Nat) (mode : RMode) (pol : Pol) (v : Val) : Conv :=
  let (lo, hi) := intRange t fmte
  let clip (x : Int) : Conv :=
    if x < lo ∨ hi < x then
      match pol with
      | .trap => .overflow
      | _ => .code (intToCode (Ty.width t) (if x < lo then lo else hi))
    else .code (intToCode (Ty.width t) x)
  match v with
  | .nan => if groupSymmetric t fmte then .code (2 ^ (Ty.width t - 1)) else .code 0
  | .inf s => match pol with
    | .trap => .overflow
    | _ => .code (intToCode (Ty.width t) (if s then lo else hi))
  | .fin s n d e => clip (Val.toInt mode s n d e)

/-- The anchor increase that brings |x * 2^-(a + k)| into range, from k upwards (R225). -/
def a32Request (mode : RMode) (s : Bool) (n d : Nat) (e a : Int) : Nat → Nat → Nat
  | 0, k => k
  | fuel + 1, k =>
    if 2 ^ 31 - 1 < (Val.toInt mode s n d (e - a - k)).natAbs
    then a32Request mode s n d e a fuel (k + 1) else k

/-- An anchor beyond any exponent of a value acts as one far out. -/
def clampAnchor (a : Int) : Int := max (-4096) (min 4096 a)

/-- ToA32 of R225 in a rounding mode: the element and the request. -/
def toA32In (mode : RMode) (v : Val) (a : Int) : Int × Nat :=
  let a := clampAnchor a
  match v with
  | .fin s n d e =>
    let x := Val.toInt mode s n d (e - a)
    if x.natAbs ≤ 2 ^ 31 - 1 then (x, 0)
    else (if s then -(2 ^ 31 - 1) else 2 ^ 31 - 1, min (a32Request mode s n d e a 254 1) 254)
  | _ => (0, 0xFF)

def toA32 (v : Val) (a : Int) : Int × Nat := toA32In .rne v a

/-- The value of an A32 element at an anchor (R224). -/
def a32Val (n : Int) (a : Int) : Val := Val.ofInt n 1 (clampAnchor a) false

/-- FromA32 of R225, to FP32. -/
def fromA32 (n : Int) (a : Int) (mode : RMode) : Nat := fp32.round mode (a32Val n a)

/-- FP32 addition by RNE, as atomics and adjoint cells perform it (R235, R357). -/
def fadd32 (a b : Nat) : Nat := fp32.round .rne (Val.add false (fp32.decode a) (fp32.decode b))

/-- The MX scale rule of R230: the exponent X, from the finite inputs. -/
def mxExponent (emax : Int) (vs : List Val) : Int :=
  let logs := vs.filterMap fun v => match v with
    | .fin _ n d e => if n = 0 then none else some (floorLog2 n d e)
    | _ => none
  match logs with
  | [] => 0
  | l :: ls => max (-127) (min 127 (ls.foldl max l - emax))

/-- Emax of R230. -/
def Ty.emax : Ty → Int
  | .e4m3 => 8 | .e5m2 => 15 | _ => 2

/-! ### Roots, powers and logarithms: correctly rounded through exact or guarded values -/

/-- ⌊√n⌋, one bit at a time. -/
def isqrtAux (n : Nat) : Nat → Nat → Nat
  | 0, r => r
  | k + 1, r => let c := r + 2 ^ k
    if c * c ≤ n then isqrtAux n k c else isqrtAux n k r

def isqrt (n : Nat) : Nat := isqrtAux n (Nat.log2 n / 2 + 1) 0

/-- √(n * 2^e) as a value whose rounding is that of the true root: the root's floor, 64 bits
further down than n, followed by a digit that says whether anything is left. -/
def sqrtVal (n : Nat) (e : Int) : Val :=
  let e' := if e % 2 = 0 then e else e - 1
  let n' := if e % 2 = 0 then n else 2 * n
  let big := n' * 2 ^ 128
  let r := isqrt big
  let sticky := if r * r = big then 0 else 1
  .fin false (2 * r + sticky) 1 (e' / 2 - 65)

/-- 1 / √(n * 2^e) in the same way, for n above zero. -/
def rsqrtVal (n : Nat) (e : Int) : Val :=
  let e' := if e % 2 = 0 then e else e - 1
  let n' := if e % 2 = 0 then n else 2 * n
  -- 1/√(n' 2^e') = √(2^240 / n') * 2^(-120 - e'/2)
  let big := 2 ^ 240 / n'
  let r := isqrt big
  let sticky := if r * r * n' = 2 ^ 240 then 0 else 1
  .fin false (2 * r + sticky) 1 (-121 - e' / 2)

/-- Fraction bits of the fixed-point series. -/
def fixBits : Nat := 200

/-- z + z^3/3 + z^5/5 + ... in fixed point, for z = atanh's argument. -/
def atanhSeries (z2 : Nat) : Nat → Nat → Nat → Nat → Nat
  | 0, _, _, acc => acc
  | fuel + 1, k, zk, acc =>
    atanhSeries z2 fuel (k + 1) (zk * z2 / 2 ^ fixBits) (acc + zk / (2 * k + 1))

/-- ln((1 + z) / (1 - z)) / 2 for z = a / b at most 1/3, in fixed point. -/
def atanhFix (a b : Nat) : Nat :=
  let z := a * 2 ^ fixBits / b
  atanhSeries (z * z / 2 ^ fixBits) 70 0 z 0

/-- ln 2 / 2 in fixed point. -/
def halfLn2 : Nat := atanhFix 1 3

/-- log2 of n * 2^e, for n above zero. The series' error is far below half a unit of any result's
last place. -/
def log2Val (n : Nat) (e : Int) : Val :=
  let k := Nat.log2 n
  if n = 2 ^ k then Val.ofInt (k + e) 1 0 false
  else
    -- m = n / 2^k in (1, 2): log2 m = atanh((m - 1)/(m + 1)) / (ln 2 / 2)
    let frac := atanhFix (n - 2 ^ k) (n + 2 ^ k) * 2 ^ fixBits / halfLn2
    let x : Int := (k + e) * (2 ^ fixBits : Nat) + frac
    .fin (decide (x < 0)) (2 * x.natAbs + 1) 1 (-(fixBits : Int) - 1)

/-- 1 + y + y^2/2! + ... in fixed point. -/
def expSeries (y : Nat) : Nat → Nat → Nat → Nat → Nat
  | 0, _, _, acc => acc
  | fuel + 1, k, t, acc =>
    expSeries y fuel (k + 1) (t * y / 2 ^ fixBits / (k + 1)) (acc + t)

/-- 2^x for x = (-1)^s * n * 2^e; a magnitude of 4,096 or more lies beyond every format. -/
def exp2Val (s : Bool) (n : Nat) (e : Int) : Val :=
  if n = 0 then .fin false 1 1 0
  else if 12 ≤ floorLog2 n 1 e then .fin false 1 1 (if s then -4096 else 4096)
  else
  let x := signedAt s n (max e (-fixBits)) (-fixBits)   -- e ≥ -fixBits in every format
  let ip := x / (2 ^ fixBits : Nat)
  let f := (x % (2 ^ fixBits : Nat)).toNat
  if f = 0 then .fin false 1 1 ip
  else
    let y := f * (2 * halfLn2) / 2 ^ fixBits
    let v := expSeries y 60 0 (2 ^ fixBits) 0
    .fin false (2 * v + 1) 1 (ip - fixBits - 1)

/-! ### Q16N -/

/-- The magnitudes of Q16N, as 256ths (R223). -/
def q16Mag : Nat → Nat
  | 0 => 0 | 1 => 26 | 2 => 52 | 3 => 80 | 4 => 111 | 5 => 147 | 6 => 191 | _ => 256

/-- The value of a Q16N code other than 8 (R223): code 0 gives +0. -/
def q16Val (c q : Nat) (scale : Val) : Val :=
  let neg := c.testBit 3
  let mag : Val := .fin neg (q16Mag (c % 8) * q) 255 (-8)
  if c % 16 = 0 then
    match scale with
    | .nan => .nan
    | .inf _ => .nan
    | .fin _ _ _ _ => .fin false 0 1 0
  else mag.mul scale

end Sys2Proof.Machine
end

