-- ==== Sys2Proof/Machine/Crypto.lean ====
section
/-! DEFINITION. The check codes and digests the manual names: CRC-32C (R22, R240, R259) and
SHA3-256 (R14, R17, R72, R283). -/

namespace Sys2Proof.Machine

/-- One bit of a reflected CRC. -/
def crcBit (poly c : Nat) : Nat := if c % 2 = 1 then (c / 2) ^^^ poly else c / 2

def crcBits (poly : Nat) : Nat → Nat → Nat
  | 0, c => c
  | n + 1, c => crcBits poly n (crcBit poly c)

/-- CRC-32C (Castagnoli): reflected polynomial 0x82F63B78, all ones in and out. -/
def crc32c (bs : List Byte) : Nat :=
  (bs.foldl (fun c b => crcBits 0x82F63B78 8 (c ^^^ b.toNat)) 0xFFFFFFFF) ^^^ 0xFFFFFFFF

/-! ### Keccak-f[1600] -/

/-- A lane of 64 bits rotated left. -/
def rotl64 (x n : Nat) : Nat := (x * 2 ^ n + x / 2 ^ (64 - n)) % 2 ^ 64

def lane (st : List Nat) (x y : Nat) : Nat := st.getD (x % 5 + 5 * (y % 5)) 0

/-- Rotation offsets of ρ, lane x + 5y. -/
def rhoOff : List Nat :=
  [0, 1, 62, 28, 27, 36, 44, 6, 55, 20, 3, 10, 43, 25, 39, 41, 45, 15, 21, 8, 18, 2, 61, 56, 14]

/-- Round constants of ι. -/
def iotaRc : List Nat :=
  [0x0000000000000001, 0x0000000000008082, 0x800000000000808A, 0x8000000080008000,
   0x000000000000808B, 0x0000000080000001, 0x8000000080008081, 0x8000000000008009,
   0x000000000000008A, 0x0000000000000088, 0x0000000080008009, 0x000000008000000A,
   0x000000008000808B, 0x800000000000008B, 0x8000000000008089, 0x8000000000008003,
   0x8000000000008002, 0x8000000000000080, 0x000000000000800A, 0x800000008000000A,
   0x8000000080008081, 0x8000000000008080, 0x0000000080000001, 0x8000000080008008]

/-- One round: θ, ρ and π, χ, ι. -/
def keccakRound (st : List Nat) (rc : Nat) : List Nat :=
  let c := (List.range 5).map fun x =>
    lane st x 0 ^^^ lane st x 1 ^^^ lane st x 2 ^^^ lane st x 3 ^^^ lane st x 4
  let d := (List.range 5).map fun x => c.getD ((x + 4) % 5) 0 ^^^ rotl64 (c.getD ((x + 1) % 5) 0) 1
  let th := (List.range 25).map fun i => st.getD i 0 ^^^ d.getD (i % 5) 0
  -- π: B[y, 2x + 3y] = rot(A[x, y]); the lane at (X, Y) comes from x = X + 3Y, y = X
  let b := (List.range 25).map fun i =>
    let x := (i % 5 + 3 * (i / 5)) % 5
    let y := i % 5
    rotl64 (lane th x y) (rhoOff.getD (x + 5 * y) 0)
  let ch := (List.range 25).map fun i =>
    let x := i % 5
    let y := i / 5
    lane b x y ^^^ ((2 ^ 64 - 1 - lane b (x + 1) y) &&& lane b (x + 2) y)
  match ch with
  | a :: rest => (a ^^^ rc) :: rest
  | [] => []

def keccakF (st : List Nat) : List Nat := iotaRc.foldl keccakRound st

/-- Absorb blocks of 136 bytes, the rate of SHA3-256. -/
def absorb : Nat → List Nat → List Byte → List Nat
  | 0, st, _ => st
  | n + 1, st, bs =>
    let blk := bs.take 136
    let st' := (List.range 25).map fun i =>
      st.getD i 0 ^^^ (if i < 17 then fieldLE blk (8 * i) 8 else 0)
    absorb n (keccakF st') (bs.drop 136)

/-- SHA3-256 as 32 bytes: suffix 01, padding 10*1. -/
def sha3_256 (bs : List Byte) : List Byte :=
  let fill := 136 - bs.length % 136
  let padded := if fill = 1 then bs ++ [0x86] else bs ++ [0x06] ++ List.replicate (fill - 2) 0 ++ [0x80]
  let st := absorb (padded.length / 136) (List.replicate 25 0) padded
  (List.range 4).flatMap fun i => natToBytes 8 (st.getD i 0)

end Sys2Proof.Machine
end

