-- ==== Sys2Proof/Config.lean ====
section
/-! DEFINITION. What an FY8 leaves open and the model does not fix: free values, as constants with
no body, so that no proof can lean on a value of theirs. -/

namespace Sys2Proof.Config

/-- Which of the values that the manual allows a read in the shadow of a pending write returns (R141, R142): `n` is the
count of free values drawn. DESIGN CHOICE: log entry 9. -/
opaque shadowIndex : Nat → Nat

/-- A read stream's vector may hold the bytes before or after a racing write (R331); so may a read
of a copy's footprint (R206). DESIGN CHOICE: log entry 9. -/
opaque raceNew : Nat → Bool

/-- The seed of the root key pair, derived from the device secret alone (R16). DESIGN CHOICE: log entry 11. -/
opaque rootPair : BitVec 256 → BitVec 256

/-- The seed of the identity key pair of a boot, derived from the device secret and the digests of the ROM and of the
images loaded (R16). DESIGN CHOICE: log entry 11. -/
opaque identityPair : BitVec 256 → List (BitVec 256) → BitVec 256

/-- The public key (1,312 bytes) of an ML-DSA-44 pair (R16). DESIGN CHOICE: log entry 11. -/
opaque publicKey : BitVec 256 → Nat → BitVec 8

/-- The ML-DSA-44 signature (2,420 bytes) that a pair's private key makes over a digest (R16, R17, R72). DESIGN CHOICE:
log entry 11. -/
opaque signature : BitVec 256 → BitVec 256 → Nat → BitVec 8

/-- Whether an ML-DSA-44 signature of a firmware image verifies (R14): public key digest, digest of
the body, security version, signature digest. DESIGN CHOICE: log entry 11. -/
opaque verifies : BitVec 256 → BitVec 256 → BitVec 32 → BitVec 256 → Bool

/-- A word of a function's configuration space (R46): the manual names the capabilities and no layout. DESIGN CHOICE: log
entry 45. -/
opaque configWord : Nat → Nat → BitVec 32

/-- The device physical address at which the code area of a registered kernel lies: the manual says
only that no partition reaches it (R64). DESIGN CHOICE: log entry 12. -/
opaque codeArea : Nat → Nat

/-- The set of a line in its home slice of L2 (R90, R166): the manual gives the number of sets and no index. DESIGN CHOICE:
log entry 38. -/
opaque l2Set : Nat → Nat

/-- The set of a translation in an L2 TLB (R86), by the page's first VA. DESIGN CHOICE: log entry 38. -/
opaque tlbSet : Nat → Nat

/-- Whether the word that an access of HBM reads is found with an error that is corrected (R21). DESIGN CHOICE: log entry
9. -/
opaque corrects : Nat → Bool

/-- The cycles of a walk (R86, R95): each of its table reads costs the figure of its path, which the model does not time.
DESIGN CHOICE: log entry 9. -/
opaque walkCycles : Nat → Nat

/-- How long after the reading of its image an NBLD completes (R392): at most 3,200 cycles. DESIGN CHOICE: log entry 9. -/
opaque loadCycles : Nat → Nat

end Sys2Proof.Config
end

