-- ==== Sys2Proof/Machine/Types.lean ====
section
/-! DEFINITION. The data that a core is made of: levels, causes, takes and registers with their
pending writes, streams, tiles, queues of the engines, and the core itself. All of it is plain
data. -/

namespace Sys2Proof.Machine

/-- The three privilege levels (R246). -/
inductive Level where
  | u | s | h
  deriving DecidableEq, Repr

/-- The cause codes of R255. -/
inductive Cause where
  | illegalOpcode | headerReserved | fetchCheck | fetchRange | privileged | breakpoint | trapInstr
  | controlIntegrity | callDepth | tandemMismatch | tandemSibling
  | operandReserved | shadowRead | queueFull | queueEmpty | copyqFull | matqFull | streamUnbound
  | streamEnd | maskOverflow | maskUnderflow | tileConfig | tileBusy | csrAccess | spillRange
  | xlateS1 | xlateS2 | accessKind | misaligned | polderUndeclared | windowCode | msgTarget
  | msgqFull | msgqEmpty
  | barrierStore | barrierRange | tagBusy | fabricTimeout | lnchFull | barrierState
  | cvtOverflow | intCode | divZero | typeReserved
  | reelFull | reelEmpty | reelMismatch | diffRemote | diffShape | diffKind | diffUndeclared
  | collEntry | collSeq | collCheck | spillFull | rankRange
  | ownership | checkFail | uncorrectable | voteStall | nestedTrap | corrected | imageCheck
  | controlDrop
  deriving DecidableEq, Repr

/-- A clock of four entries, one per die (R201). -/
abbrev Clk := Vector Nat 4

/-- A take: what its entry held 16 claims earlier, the claimed result, the issue cycle of the claim
and the cycle at which the result has landed (R140, R141). `load` names the access whose data has
not arrived yet. -/
structure Take (α : Type) where
  seq    : Nat
  old    : α
  val    : α
  issued : Nat
  land   : Nat
  load   : Option Nat
  deriving DecidableEq, Repr

/-- One write still pending on a named register (R142). -/
structure Pend (α : Type) where
  val    : α
  issued : Nat
  land   : Nat
  load   : Option Nat
  deriving DecidableEq, Repr

/-- A named register: the value before the earliest pending write, and the pending writes in issue
order (R142). -/
structure Reg (α : Type) where
  cur  : α
  pend : List (Pend α)
  deriving DecidableEq, Repr

/-- The scalar takes and named registers of one level (R246). -/
structure Bank where
  takes : List (Take Word)
  x     : Vector (Reg Word) 16
  deriving DecidableEq, Repr

/-- A load, or an atomic that returns a value, in flight (R352, R356): the issue cycle that its
landing offset names, the claims it lands in, the data once it has arrived with the clock of the
die that served it (R201), and what a late report makes of it (R352, R417). -/
structure Load where
  id      : Nat
  level   : Level
  seq     : Nat
  w       : WReg
  land    : Nat
  addr    : Word
  acquire : Bool
  data    : Option Word
  clk     : Clk
  err     : Option Cause
  deriving DecidableEq, Repr

/-- A vector in a stream's buffer. For a write stream, the nibbles and the granule scales that it stores
(R330), and the earliest cycle at which it may drain. -/
structure SVec where
  val  : Vec
  nib  : BitVec 512
  gran : BitVec 8
  due  : Nat
  deriving DecidableEq, Repr

/-- A stream (R144, R303): its binding, the pattern block and the operand added to BASE, the vectors
moved through its operand side and on its scratchpad side, the earliest cycle of its next movement,
and its buffer of at most 16. -/
structure Stream where
  bound  : Bool
  wr     : Bool
  diff   : Bool
  block  : List Byte
  add    : Word
  pos    : Nat
  moved  : Nat
  next   : Nat
  buf    : List SVec
  deriving DecidableEq, Repr

/-- A tile register: its configuration register and its 16,384 data bytes followed by 512 scale
bytes (R146, R147). -/
structure Tile where
  cfg   : BitVec 64
  bytes : Mem
  deriving DecidableEq, Repr

/-- An accumulator: element (i, j) at 64 i + j, unlisted elements +0 (R148). -/
abbrev Acc := SMap (BitVec 32)

/-- A completion tag (R362): free, busy (with a TCLR waiting for its completion or not), or done
with a status. -/
inductive TagState where
  | free
  | busy (cleared : Bool)
  | done (status : BitVec 8)
  deriving DecidableEq, Repr

/-- An operation in the matrix op queue with what it captured at issue (R334, R348). -/
structure MatOp where
  op     : Instr
  ofs    : BitVec 32
  fmte   : BitVec 7
  frm    : BitVec 64
  srseed : Word
  deriving DecidableEq, Repr

/-- The engine's progress on the operation in flight (R347, R348): engine cycles since its start, the
k it resumed from, the row groups pushed, and whether a push is pending. -/
structure MatProg where
  started : Bool
  elapsed : Nat
  kDone   : Nat
  pushed  : Nat
  from_   : Nat
  pending : Bool
  deriving DecidableEq, Repr

/-- The trap registers of one handler level (R251). -/
structure TrapRegs where
  cause : BitVec 64
  pc    : BitVec 64
  info  : BitVec 64
  deriving DecidableEq, Repr

/-- A cause raised at a bundle: its code, the slot that raised it (R251) and the detail of R252. -/
structure Trap where
  cause : Cause
  slot  : Nat
  info  : Word
  deriving DecidableEq, Repr

/-- Why a core holds, with what the hold needs to know (R143). -/
inductive Hold where
  /-- Data of a load or of a fill has not arrived. -/
  | data
  /-- A stream's buffer is empty, full, or draining. -/
  | stream (s : Fin 8)
  /-- The scratchpad banks or the tile are locked by a transfer. -/
  | lock
  /-- The core's own MSAVE or MLOAD alone holds the banks (R344). -/
  | ownLock
  /-- TWAIT, TWANY. -/
  | tags (mask : Word)
  /-- BWAIT: the barrier reference and the phase last seen. -/
  | barrier (ref : Word) (phase : BitVec 32)
  /-- A fence, a DMODE, an adjoint access or a rewind write waits for earlier accesses. -/
  | fence
  /-- An acquire atomic has not landed (R203). -/
  | acquire
  /-- A CMSG waits for a credit on its way (R162). -/
  | credit
  /-- YIELD, with the cycles left (R297). -/
  | yield (left : Nat)
  /-- WFI, with the cycles left where a limit is set (R312). -/
  | wfi (left : Option Nat)
  /-- REJOIN (R152). -/
  | rejoin
  /-- TLBINV of everything, a partition, or one granule of it (R309). -/
  | tlbinv (kind : Nat) (a b : Word)
  /-- SCRUB of a quad (R310). -/
  | scrub (quad : Nat)
  /-- MFENCE: counts as issue, not as hold (R346). -/
  | mfence
  /-- A polder last written by another context is pumped in; the scratchpad offset touched (R115). -/
  | polder (p : Fin 32) (off : Nat)
  /-- The fetch buffer waits for its lines (R143). -/
  | fetch
  deriving DecidableEq, Repr

/-- A core's part in its launch. -/
inductive RunState where
  /-- No launch placed. -/
  | idle
  | running
  /-- END has issued and the core waits for its work to be performed (R297). -/
  | ending
  /-- Counted as ended for its launch (R66). -/
  | ended
  /-- Stopped at a safe point, its state to be saved (R103). -/
  | stopped
  /-- Stopped by a cause at H, or by its launch's end (R250). -/
  | dead
  deriving DecidableEq, Repr

/-- What a pending stop is for (R103, R250). -/
inductive StopKind where
  | save | noSave
  deriving DecidableEq, Repr

/-- One entry of the differentiable region table (R233). -/
structure DiffRegion where
  hbm    : Bool
  type   : Ty
  a32    : Bool
  anchor : Int
  base   : Nat
  len    : Nat
  adj    : Nat
  deriving DecidableEq, Repr

/-- One entry of the live map (R103): the fields it marks live, as its 16 bytes. -/
structure LiveEntry where
  offset : Nat
  masks  : List Byte
  deriving DecidableEq, Repr

/-- What the kernel image's header declares (R283). -/
structure KHeader where
  tandem   : Bool
  entry    : Nat
  codeOff  : Nat
  codeLen  : Nat
  quads    : Nat
  nx       : Nat
  nv       : Nat
  tiles    : BitVec 8
  accs     : BitVec 8
  streams  : BitVec 8
  tags     : Nat
  polders  : BitVec 32
  barriers : Nat
  mqMax    : Nat
  q0Max    : Nat
  q1Max    : Nat
  cqMax    : Nat
  moqMax   : Nat
  sDepth   : Nat
  spill    : Nat
  spDist   : Nat
  lmOff    : Nat
  lmCount  : Nat
  reel     : Nat
  diffs    : List DiffRegion
  deriving DecidableEq, Repr

/-- A header that declares nothing, the state of a core without a launch. -/
def KHeader.none : KHeader :=
  { tandem := false, entry := 0, codeOff := 0, codeLen := 0, quads := 0, nx := 0, nv := 0,
    tiles := 0, accs := 0, streams := 0, tags := 0, polders := 0, barriers := 0, mqMax := 0,
    q0Max := 0, q1Max := 0, cqMax := 0, moqMax := 0, sDepth := 0, spill := 0, spDist := 0,
    lmOff := 0, lmCount := 0, reel := 0, diffs := [] }

/-- An entry of a core's message queue: its sender's launch core index, the sender's clock (R201) and
the sender's core. -/
structure MqEntry where
  sender : Nat
  clk    : Clk
  deriving DecidableEq, Repr

/-- A combined translation, as a TLB holds it (R85, R86). -/
structure TlbEntry where
  part   : Nat
  vbase  : Nat
  size   : Nat
  /-- DPA, or host IOVA where `host`. -/
  base   : Nat
  host   : Bool
  rd     : Bool
  wr     : Bool
  /-- The stage-2 leaf's own permissions, to tell whose denial a fault is (R85). -/
  rd2    : Bool
  wr2    : Bool
  so     : Bool
  diff   : Bool
  /-- 0 ordinary, 1 memory-side, 2 compute-capable (R84). -/
  mtype  : Nat
  /-- The IPA of the page's first byte, for invalidation by range (R82). -/
  ibase  : Nat
  deriving DecidableEq, Repr

/-- A walk under way (R86): what it will fill, the 64 KiB VA that missed, and whether it made the walk itself or merged
with one of its partition's. -/
structure Walk where
  entry : TlbEntry
  page  : Nat
  own   : Bool
  deriving DecidableEq, Repr

/-- A core waiting at a barrier of this core, with the phase it last saw (R365). -/
structure Waiter where
  barrier : Nat
  core    : Fin 256
  phase   : BitVec 32
  deriving DecidableEq, Repr

/-- One core (R139-R154). -/
structure Core where
  run     : RunState
  /-- Cycle of its last issue in the launch that it runs or ran (R94). -/
  issuedAt : Option Nat
  /-- The launch the core runs, its index in it, and the partition. -/
  launch  : Option Nat
  lidx    : Nat
  part    : Nat
  handle  : Nat
  hdr     : KHeader
  level   : Level
  /-- The level its launch runs at: U, or H for an H kernel (R397). Above it a handler runs. -/
  base    : Level
  /-- Byte offset in the kernel image at U and S, DPA at H (R247). -/
  pc      : Word
  /-- The issue clock in which results land: every issue cycle of the core, at any level. -/
  clk     : Nat
  /-- Empty issue cycles still to come: folded bundles and those of a taken transfer (R154, R265). -/
  skip    : Nat
  icyc    : BitVec 64
  holdCyc : BitVec 64
  /-- Cycles until a handler's first bundle issues (R248). -/
  entryWait : Nat
  wait    : Option Hold
  /-- What a waiting instruction was answered. -/
  answer  : Option Word
  stop    : Option StopKind
  brkSkip : Bool
  /-- Offset of the bundle issued last, where it was a safe point (R103, R297). -/
  lastSp  : Option Nat
  /-- Offset of the stop bundle of a stopped core (R103). -/
  stopAt  : Nat
  seq     : Nat
  bankU   : Bank
  bankS   : Bank
  bankH   : Bank
  vtakes  : List (Take Vec)
  v       : Vector (Reg Vec) 16
  loads   : List Load
  streams : Vector Stream 8
  tiles   : Vector Tile 8
  acc     : Vector Acc 8
  q0      : List Vec
  q1      : List Vec
  tags    : Vector TagState 64
  /-- Copy command queue entries held, by tag, oldest first (R149). -/
  copyq   : List (Fin 64)
  mops    : List MatOp
  mprog   : MatProg
  /-- MSAVEs and MLOADs that the engine has started; the last has given up the banks in the engine cycle under way; a tile
  transfer that holds the banks keeps it waiting (R143, R159, R344). -/
  saves   : Nat
  unlocking : Bool
  saveHeld : Bool
  mask    : List (BitVec 512)
  shadow  : Vector Word 32
  ssp     : Nat
  spad    : Mem
  /-- Launch that last wrote each polder (R115). -/
  writers : Vector (Option Nat) 32
  /-- Lines of the scratchpad, by line number, whose data is uncorrectable (R21, R23). -/
  badSpad : SMap Nat
  /-- Words of its other arrays whose data is uncorrectable (R21, R23). -/
  badWords : List (CoreArray × Nat)
  spill   : Mem
  fmte    : BitVec 64
  /-- Pending MFMT writes: value and issue cycles left (R345). -/
  fmtp    : List (BitVec 7 × Nat)
  frm     : BitVec 64
  srseed  : BitVec 64
  shadowchk : BitVec 64
  dmode   : BitVec 64
  reelBase  : BitVec 64
  reelLimit : BitVec 64
  reelPtr   : BitVec 64
  trapVec : BitVec 64
  trapS   : TrapRegs
  trapH   : TrapRegs
  mqBase  : BitVec 64
  mqHead  : BitVec 32
  mqTail  : BitVec 32
  /-- The entries between MQ_HEAD and MQ_TAIL, oldest first. -/
  mqEntries : List MqEntry
  /-- Message credits left, by target launch core (R162). -/
  credits : List Nat
  liveBase : BitVec 64
  gang    : BitVec 32
  rank    : BitVec 11
  gsize   : BitVec 12
  pkgId   : BitVec 11
  perf    : Vector (BitVec 64) 16
  /-- Counts already in the partition's totals (R96). -/
  perfSeen : Vector (BitVec 64) 16
  rc      : Clk
  wc      : Clk
  /-- Packets not yet acknowledged or dropped, by destination module (R40). -/
  fabOut  : SMap Nat
  /-- Gang-active cycle at which a count last rose from zero or fell, by destination (R40, R116). -/
  fabSince : SMap Nat
  /-- The bundle whose GANG or POD fence waited when a fabric count expired: it traps (R40, R359). -/
  fabLate : Option Word
  joined  : Bool
  /-- REJOIN raised (R152). -/
  rejoin  : Bool
  /-- A sibling ended while decoupled (R152). -/
  lonely  : Bool
  /-- Causes of failed stores, raised at the next bundle (R417). -/
  late    : List (Cause × Word)
  /-- Code lines in the fetch buffer: of the image, or of HBM for an H handler (R100, R143). -/
  fbuf    : List (Bool × Nat)
  l1tlb   : List TlbEntry
  /-- Walks whose translation has not yet filled the TLBs (R86). -/
  walks   : List Walk
  /-- Clocks of the units counted in the current phase, by barrier (R201). -/
  barClk  : SMap Clk
  /-- Clocks of the last completed phase, by barrier (R208). -/
  flipClk : SMap Clk
  /-- The cores waiting at this core's barriers, in the order their requests were applied (R365). -/
  waiters : List Waiter
  deriving DecidableEq, Repr

end Sys2Proof.Machine
end

