-- ==== Sys2Proof/Machine/Module.lean ====
section
/-! DEFINITION. The data of the module outside its cores: accesses in flight, engine commands,
partitions, launches. All of it is plain data. -/

namespace Sys2Proof.Machine

/-- Operations on a barrier line that travel on the message path (R363-R365). -/
inductive BarOp where
  | init (target : Word)
  | unit
  | inv
  | wait (phase : BitVec 32)
  /-- A core stopped at its BWAIT is a waiter no longer (R365). -/
  | leave
  | test (phase : BitVec 32) (load : Nat)
  /-- Bytes of an engine's completion (R371). -/
  | count (bytes : Nat)
  deriving DecidableEq, Repr

/-- What an access in flight does at its home. -/
inductive MemKind where
  /-- A core load of `len` bytes, sign-extended or not, for the load `id`. -/
  | load (len : Nat) (sext : Bool)
  | store (bytes : List Byte)
  | amo (op : AmoOp) (w32 : Bool) (b : Word) (ret comm : Bool)
  | cas (w32 : Bool) (b e : Word)
  /-- Accumulate the FP32 value `x` into an adjoint cell (R235). -/
  | accum (a32 : Bool) (anchor : Int) (x : BitVec 32)
  /-- A CMSG to launch core `target` (R381). -/
  | msg (target : Fin 256) (bytes : List Byte) (cmd : Nat)
  /-- An operation on barrier `index` of core `owner`. -/
  | bar (owner : Fin 256) (index : Nat) (op : BarOp)
  /-- The answer to a BWAIT on its way back to the waiting core (R363, R365). -/
  | wake (v : Word)
  deriving DecidableEq, Repr

/-- A run of bytes of device memory; `side` where its page is memory-side or compute-capable. -/
structure Seg where
  addr : Nat
  len  : Nat
  side : Bool
  deriving DecidableEq, Repr

/-- What a taped write leaves in the reel (R240, R241): ADDR and KIND of its record, and where the
record's bytes lie. -/
structure Tape where
  addr : Word
  kind : Nat
  segs : List Seg
  deriving DecidableEq, Repr

/-- A line that an L2 slice holds (R90, R166): its owner tag, its place, the line of memory that it copies or the line of
an expanded view (R173), its bytes, and what a read of it finds: 0 sound, 1 uncorrectable, 2 a wrong check code. -/
structure L2Line where
  tag   : Nat
  slice : Nat
  set   : Nat
  way   : Nat
  /-- The window of an expanded line; `line` is then a line of VAs. -/
  win   : Option Nat
  line  : Nat
  data  : List Byte
  dirty : Bool
  bad   : Nat
  deriving DecidableEq, Repr

/-- An access of a core on its way to its home, or waiting there (R193, R201). -/
structure MemOp where
  id    : Nat
  core  : Fin 256
  launch : Option Nat
  part  : Nat
  /-- Owner tag of the access in L2: the partition, or 0 in H mode (R90). -/
  tag   : Nat
  /-- The no-allocate hint (R90). -/
  na    : Bool
  kind  : MemKind
  dpa   : Nat
  va    : Word
  /-- Die of the home. -/
  home  : Fin 4
  /-- A memory-side line or compute-capable page: performed at the channel (R193). -/
  side  : Bool
  /-- A memory-side page, whose atomics combine (R171). -/
  ms    : Bool
  /-- Served through memory window `index` (R172). -/
  win   : Option Nat
  /-- Write number on the issuing die; 0 for a read (R201). -/
  num   : Nat
  clk   : Clk
  /-- Earliest cycle at which it can arrive (messages and barrier operations, R154). -/
  due   : Nat
  /-- Accesses that must be performed before it: reel records (R241), release (R203). -/
  after : List Nat
  /-- An acquire atomic that returns nothing: later accesses wait for it (R203). -/
  acq   : Bool
  /-- It touches a differentiable region, an adjoint area or the reel (R237). -/
  diff  : Bool
  tape  : Option Tape
  /-- A delivery that found no translation for its pump: gang-active time of its next try (R89, R115). -/
  parked : Option Nat
  /-- The home found the access's line failed (R417), or a window met a reserved code (R352). -/
  bad   : Option Cause
  /-- What a served read or a value-returning atomic answers, with the clock of the serving die. -/
  result : Option (Word × Clk)
  deriving DecidableEq, Repr

/-- The key of a combining entry (R171): location, operation, width and partition. -/
structure CombKey where
  dpa  : Nat
  /-- An AMO operation, or none for A32 contributions to an adjoint cell (R235). -/
  op   : Option AmoOp
  w32  : Bool
  part : Nat
  deriving DecidableEq, Repr

/-- A combining entry: its merged operand and the cores with an operation in it (R171, R205). A merged
A32 sum is exact, without limit (R235). -/
structure CombEntry where
  key   : CombKey
  val   : Int
  cores : List (Fin 256)
  since : Nat
  deriving DecidableEq, Repr

/-- A command issued in a C slot that has not completed (R366-R369). -/
structure EngCmd where
  id     : Nat
  core   : Fin 256
  launch : Option Nat
  lidx   : Nat
  part   : Nat
  level  : Level
  op     : Instr
  tag    : Option (Fin 64)
  a      : Word
  b      : Word
  c      : Word
  /-- Spill blocks read at issue. -/
  block  : List Byte
  /-- Vectors popped by CQST; bytes read by CMSG. -/
  vecs   : List Vec
  bytes  : List Byte
  /-- REEL_PTR after the command lowered or before it advanced it (R241, R243). -/
  reel   : Word
  rewind : Bool
  /-- Its footprint touches a differentiable region, an adjoint area or the reel (R237). -/
  diff   : Bool
  /-- Where its reel records lie (R241). -/
  segs   : List Seg
  rc     : Clk
  wc     : Clk
  hdr    : KHeader
  fmte   : BitVec 64
  parked : Bool
  issued : Nat
  /-- Earliest cycle of its next line, or of its completion (R369, R378). -/
  due    : Nat
  /-- Accesses and commands that must come first (R388, R396). -/
  after  : List Nat
  /-- Fabric packets neither acknowledged nor dropped, and the first failure met (R382). -/
  pkts   : Nat
  status : BitVec 8
  /-- The run of an NBX, by channel. -/
  chan   : Option (Fin 256)
  /-- Pieces already moved, packets already sent (R89, R369). -/
  moved  : Nat
  /-- The cycle in which it last moved a line: running commands take turns (R369). -/
  movedAt : Nat
  /-- All its lines have moved: the status with which it completes. -/
  ended  : Option (BitVec 8)
  /-- Bytes that its lines have replaced in its own source: scratchpad or not, address, old bytes (R372). -/
  olds   : List (Bool × Nat × List Byte)
  /-- Gang-active time at which a parked command next tries its walk (R89, R116). -/
  retry  : Nat
  /-- TCFG of the tile of a transfer, at its issue. -/
  cfg    : BitVec 64
  /-- The channel at which its request waits (R91, R187). -/
  waitAt : Option (Fin 256)
  /-- Bytes that a completed near-bank run counts at its barrier (R371). -/
  count  : Nat
  /-- The MSAVE or MLOAD, by number, that had the banks at its issue (R344). -/
  behind : Option Nat
  deriving DecidableEq, Repr

/-- A message credit on its way back to its sender (R162). -/
structure CreditRet where
  launch : Option Nat
  sender : Nat
  target : Nat
  core   : Fin 256
  due    : Nat
  deriving DecidableEq, Repr

/-- One memory window, as read at launch start (R172). -/
structure Window where
  trapcode : Bool
  wr       : Bool
  sfmt     : Nat
  efmt     : Nat
  wbase    : Nat
  wlen     : Nat
  sbase    : Nat
  scale    : Nat
  gscale   : Nat
  deriving DecidableEq, Repr

/-- A registered kernel (R64): its header and its image. -/
structure Kernel where
  handle : Nat
  hdr    : KHeader
  image  : List Byte
  /-- Byte offsets in the image that start a bundle (R247). -/
  starts : List Nat
  live   : List LiveEntry
  deriving DecidableEq, Repr

/-- A range: base and length in bytes. -/
structure Range where
  base : Nat
  len  : Nat
  deriving DecidableEq, Repr

/-- One fault log entry of 32 bytes (R256). -/
structure FaultEntry where
  cause  : Cause
  flags  : BitVec 8
  part   : Nat
  unit   : Nat
  index  : Nat
  detail : Nat
  time   : Nat
  addr   : Word
  gang   : BitVec 32
  pc     : BitVec 32
  deriving DecidableEq, Repr

end Sys2Proof.Machine
end

