-- ==== Sys2Proof/Machine/Uncore.lean ====
section
/-! DEFINITION. The data of partitions and launches. All of it is plain data. -/

namespace Sys2Proof.Machine

/-- A partition's descriptor fields and what the device keeps for it (R81, R82). -/
structure Partition where
  exists_  : Bool
  kind     : Nat
  critical : Bool
  waymask  : BitVec 16
  rings    : Nat
  quads    : BitVec 64
  slices   : BitVec 128
  chans    : BitVec 256
  ports    : BitVec 20
  seqs     : BitVec 20
  s2root   : Nat
  target   : Nat
  rate     : Nat
  pmbase   : Nat
  seqsave  : Nat
  dranges  : List Range
  iova     : List Range
  kernels  : List Kernel
  windows  : List (Option Window)
  meters   : Vector (BitVec 64) 16
  totals   : Vector (BitVec 64) 16
  deriving DecidableEq, Repr

/-- No partition. -/
def Partition.absent : Partition :=
  { exists_ := false, kind := 0, critical := false, waymask := 0, rings := 0, quads := 0,
    slices := 0, chans := 0, ports := 0, seqs := 0, s2root := 0, target := 0, rate := 0,
    pmbase := 0, seqsave := 0, dranges := [], iova := [], kernels := [], windows := [],
    meters := Vector.replicate 16 0, totals := Vector.replicate 16 0 }

/-- Where a launch stands. -/
inductive LaunchState where
  | queued
  | running
  /-- Pre-empted or switched out, its contexts saved (R99, R106). -/
  | out
  | done
  deriving DecidableEq, Repr

/-- The source of a queued launch (R97): a ring, the launch inbox, LNCH. -/
inductive LaunchSource where
  | ring (n : Fin 64)
  | inbox
  | lnch
  deriving DecidableEq, Repr

/-- A launch (R66, R97). -/
structure Launch where
  id      : Nat
  part    : Nat
  /-- An H kernel (R397). -/
  hker    : Bool
  handle  : Nat
  hdr     : KHeader
  source  : LaunchSource
  state   : LaunchState
  /-- It stands in the dispatcher's queue (R97), no longer only in the inbox or the LNCH queue. -/
  entered : Bool
  /-- Base level, and the effective level it started with (R97, R99). -/
  base    : Nat
  eff     : Nat
  /-- Cycles waited before `since`, and the cycle from which waiting or running is counted. -/
  waited  : Nat
  since   : Nat
  /-- Gang-active cycles before `since` (R116). -/
  active  : Nat
  /-- Quads asked for, and quads placed on (R98). -/
  nquads  : Nat
  quads   : List Nat
  args    : List Byte
  gang    : BitVec 32
  rank    : Nat
  gsize   : Nat
  /-- Module and function of each rank (R33). -/
  members : List (Nat × Nat)
  /-- The command that completes when it ends (R66). -/
  cmd     : Option Cmd
  /-- CYCLE at its first issue, and the core-cycles charged to it (R63). -/
  first   : Option Nat
  charged : Nat
  /-- It left its quads because its cell ended, not by a pre-emption (R99, R106). -/
  swapped : Bool
  /-- Cycle from which a vote may be held for it in a fixed partition (R108). -/
  voteAt  : Nat
  /-- Cycle at which the halt of its cores was complete (R116). -/
  haltAt  : Option Nat
  ended   : Nat
  /-- TRAP_CAUSE of the first cause that ended it (R66, R250). -/
  fault   : Option Word
  /-- Accesses that must be performed before it is placed (R306). -/
  after   : List Nat
  /-- Polders of it that lie in its save area: 32 times the launch core, plus the polder (R115). -/
  copies  : List Nat
  /-- Code area of an H kernel's copy (R397). -/
  code    : Nat
  deriving DecidableEq, Repr

/-- A gang declared by GANGDEF (R107). -/
structure GangDef where
  gang     : BitVec 32
  part     : Nat
  spill    : Nat
  spillLen : Nat
  save     : Nat
  quads    : Nat
  fill     : Nat
  /-- Packets sent to and received from other members (R110). -/
  sent     : BitVec 32
  received : BitVec 32
  /-- A launch of it has completed here since its GANGDEF (R109). -/
  finished : Bool
  /-- This module has withdrawn from the gang (R70, R250). -/
  withdrawn : Bool
  deriving DecidableEq, Repr

/-- What a live map entry marks live (R103), or everything declared. -/
structure LiveMask where
  takes   : BitVec 16
  vtakes  : BitVec 16
  x       : BitVec 16
  v       : BitVec 16
  tiles   : BitVec 8
  accs    : BitVec 8
  streams : BitVec 8
  q       : BitVec 2
  deriving DecidableEq, Repr

/-- Where a saved context stands (R106). -/
inductive SavedAt where
  /-- In the bank that the swap or the pre-emption wrote. -/
  | bank
  /-- Its image in the save area is complete. -/
  | memory
  /-- Read into the alternate bank. -/
  | staged
  deriving DecidableEq, Repr

/-- A context out of its core (R106, R257): the core's state as it stood, and its image. -/
structure Saved where
  launch : Nat
  core   : Fin 256
  ctx    : Core
  at_    : SavedAt
  live   : LiveMask
  /-- It stopped at a wait with no live map entry (R103). -/
  atWait : Bool
  entry  : List Byte
  /-- DPA of the image once written. -/
  home   : Option Nat
  /-- Cycle by which the image is written. -/
  due    : Nat
  deriving DecidableEq, Repr

end Sys2Proof.Machine
end

