-- ==== Sys2Proof/Machine/Chip.lean ====
section
/-! DEFINITION. The data of the rest of the module: boot and power, the fabric interface, collectives,
near-bank runs, rings and slates, the call sheet and its votes. All of it is plain data. -/

namespace Sys2Proof.Machine

/-! ### Boot and power -/

/-- A key slot in fuses (R14). -/
structure KeySlot where
  digest  : BitVec 256
  revoked : Bool
  deriving DecidableEq, Repr

/-- Boot state (R12-R20). -/
structure Boot where
  /-- The rails are up (R7). -/
  powered : Bool
  /-- PERST# is asserted. -/
  perst   : Bool
  stage   : Nat
  failed  : Bool
  fcode   : Nat
  image   : Nat
  /-- The boot counter in fuses (R12). -/
  count   : Nat
  keys    : List KeySlot
  /-- Fused minimum versions: service processor, memory controller, port sequencer, scrub (R14). -/
  minVers : List (BitVec 32)
  /-- Digests of the ROM and the four images, and the images' versions (R16, R17). -/
  digests : List (BitVec 256)
  vers    : List (BitVec 32)
  /-- Fused bad core positions, by row (R18). -/
  badCore : List (Option Nat)
  /-- The unique device secret in fuses (R16). -/
  secret  : BitVec 256
  /-- The key pairs derived at step 5: the root's, from the secret alone, and this boot's identity, each by the seed of its
  pair; and the root key's certificate of the identity key (R16). -/
  root    : BitVec 256
  identity : BitVec 256
  certificate : List Byte
  /-- Ports that have failed since the last boot's step 4: absent from the next (R20, R26). -/
  failedPorts : BitVec 20
  deriving DecidableEq, Repr

/-- The power controller (R10, R11). -/
structure Power where
  cap     : Nat
  /-- The cap in force in the current window. -/
  inForce : Nat
  last    : Nat
  gated   : Nat
  /-- The last complete window was over its cap. -/
  exceeded : Bool
  /-- Issue gate by die: 1 cycle in 1, 2 or 4. -/
  gate    : Vector Nat 4
  deriving DecidableEq, Repr

/-! ### Fabric -/

/-- A data packet at an output port (R43): the input port it came by, or 20 for the module's own injection, the virtual
channel in which it leaves, and the cycle from which it is ready (R42). -/
structure OutPkt where
  src   : Fin 21
  vc    : Fin 5
  ready : Nat
  pkt   : Packet
  deriving DecidableEq, Repr

/-- A control packet at an output port; `last` of the control flit that it came in. -/
structure OutCtl where
  src   : Fin 21
  last  : Bool
  ready : Nat
  ctl   : Control
  deriving DecidableEq, Repr

/-- One fabric port (R24-R26, R43, R44). -/
structure Port where
  up       : Bool
  training : Bool
  down     : Bool
  absent   : Bool
  flight   : BitVec 8
  neigh    : BitVec 11
  nport    : BitVec 5
  enable   : Bool
  /-- Packets bound for the port, and control packets (R26, R43). -/
  queue    : List OutPkt
  ctlQueue : List OutCtl
  /-- The data packet that is leaving, and its flits left. -/
  cur      : Option (OutPkt × List Flit)
  /-- The source served last, by virtual channel. -/
  served   : Vector (Fin 21) 5
  /-- Credits held at the far end, by virtual channel. -/
  credit   : Vector Nat 6
  /-- Flits of the frame being filled, its sequence number, and frames not yet acknowledged (R25). -/
  tx       : List Flit
  txSeq    : BitVec 12
  buffer   : List Frame
  /-- Sequence numbers of the frame last acknowledged by the far end and of the one expected from it. -/
  acked    : BitVec 12
  rxSeq    : BitVec 12
  /-- A NAK is due in the next trailer. -/
  nak      : Bool
  /-- An acknowledgement is due. -/
  owesAck  : Bool
  /-- Credits to return, by virtual channel. -/
  owed     : Vector Nat 6
  /-- Flits of a data packet received so far. -/
  rx       : List Flit
  /-- Frames replayed: cycle and number, newest first (R26, R44); and the cycle of the latest retrain. -/
  replays  : List (Nat × Nat)
  trained  : Nat
  /-- Control packets dropped silently since the last CONTROL_DROP entry (R32), and CUTs that the port's sequencer
  dropped, by destination function (R133). -/
  drops    : Nat
  cutDrops : SMap Nat
  deriving DecidableEq, Repr

/-- What the source keeps of a packet (R40): its stream and PSEQ, and who issued it. -/
structure SentPkt where
  dst    : Nat
  sfn    : Nat
  cls    : Nat
  pseq   : Nat
  gang   : BitVec 32
  /-- Issuing core, its launch and command; none for a sequencer's packet. -/
  core   : Option (Fin 256)
  launch : Option Nat
  cmd    : Option Nat
  /-- Tile table entry of a sequencer's packet, and its sequence number (R131). -/
  entry  : Option (Nat × Nat)
  deriving DecidableEq, Repr

/-- A packet that waits to be injected, or one to the module itself on its way (R42, R111). -/
structure WaitPkt where
  pkt   : Packet
  info  : SentPkt
  part  : Nat
  /-- It leaves by sequencers (R31). -/
  seq   : Bool
  due   : Nat
  deriving DecidableEq, Repr

/-- An ACK in progress (R39). -/
structure AckRun where
  src   : Nat
  sfn   : Nat
  cls   : Nat
  first : Nat
  count : Nat
  since : Nat
  deriving DecidableEq, Repr

/-- The routes and streams of the fabric interface. -/
structure Fabric where
  fabId  : BitVec 64
  ports  : Vector Port 20
  /-- Route table; an unlisted entry names no route (R29). -/
  routes : SMap (BitVec 32)
  /-- Next PSEQ of each stream: key dst + 2048 * class + 8192 * source function. -/
  streams : SMap Nat
  sent   : List SentPkt
  /-- Packets held since a PREPARE (R111). -/
  held   : List WaitPkt
  /-- Records of a spillway that wait to be applied again here (R114). -/
  again  : List Packet
  /-- Packets to the module itself (R382). -/
  own    : List WaitPkt
  acks   : List AckRun
  deriving DecidableEq, Repr

/-! ### Collectives -/

/-- The sequencer at work for a partition (R117): its port, the context whose events count (R95), and the channels at
which the run under way has been admitted (R91). -/
structure SeqWork where
  port : Fin 20
  ctx  : Option (Option Nat × Fin 256)
  paid : List (Fin 256)
  deriving DecidableEq, Repr

/-- An input block of an entry: where it came from, its index, value, checksum, rescale request. -/
structure CollIn where
  /-- Child slot, ring step, or A2A2 pair. -/
  key   : Nat
  block : Nat
  data  : List Byte
  cksum : Nat
  resc  : Nat
  fold  : Nat
  deriving DecidableEq, Repr

/-- A tile table entry and its working state (R120-R136). -/
structure TileEntry where
  idx     : Nat
  desc    : List Byte
  seq     : Nat
  dchk    : Nat
  /-- STATE and REASON of R136. -/
  state   : Nat
  reason  : Nat
  drop    : Nat
  fired   : Bool
  /-- What the entry's core, gang and rank were. -/
  launch  : Option Nat
  part    : Nat
  gang    : BitVec 32
  rank    : Nat
  size    : Nat
  members : List (Nat × Nat)
  /-- Presence mask, as the final state gave it and with what RPICK has folded in; ranks picked up into PICK, not yet
  folded (R134-R136). -/
  base    : BitVec 2048
  present : BitVec 2048
  pending : BitVec 2048
  ckerr   : Nat
  stale   : Nat
  resc    : List Nat
  /-- Gang-active cycle of TRDY, and gang-active microseconds at the final state. -/
  start   : Nat
  active  : Nat
  ins     : List CollIn
  /-- Slots that arrived ROUGH, and slots cut (R132). -/
  rough   : List Nat
  cut     : List Nat
  /-- Roots of cut subtrees known here. -/
  cuts    : List Nat
  /-- MISSING of the FINAL packets. -/
  missing : Option Nat
  /-- DST blocks written. -/
  done    : Nat
  /-- Its sum has been sent up, or its first ring chunk sent. -/
  sent    : Bool
  /-- Ring steps, A2A2 chunks or pickups already passed on. -/
  passed  : List Nat
  /-- Late roots whose pickups lie in PICK, and whether rough; those that RPICK has folded in (R134, R135). -/
  picks   : List (Nat × Bool)
  folded  : List (Nat × Bool)
  /-- Accesses that must be performed before SRC is read (R388). -/
  after   : List Nat
  /-- Gang-active time of the next try of an entry that has parked (R89, R137). -/
  parked  : Option Nat
  /-- The channel at which it waits, and the cycle of its next try (R91, R187). -/
  waitAt  : Option (Fin 256)
  waitTill : Nat
  /-- Writes that must have been performed before SRC is read (R201, R388). -/
  rc      : Clk
  /-- The STATUS record has been zeroed (R122). -/
  zeroed  : Bool
  /-- The STATUS record and the barrier count of a final state are due (R130, R136). -/
  report  : Bool
  /-- RPICKs not yet run (R390). -/
  rpicks  : Nat
  /-- Where its core is, for the barrier count. -/
  core    : Fin 256
  hdr     : KHeader
  deriving DecidableEq, Repr

/-! ### Near-bank compute -/

inductive NbState where
  | queued | guard | run | tokenWait | suspending | window | resuming | finish
  deriving DecidableEq, Repr

/-- A near-bank run (R184-R191). -/
structure NbRun where
  cmd    : Nat
  part   : Nat
  desc   : List Byte
  image  : List Byte
  /-- DPAs of the planes' pages translated, and IPAs their walks rest on. -/
  planes : List (Option Nat)
  ipas   : List Nat
  state  : NbState
  mpc    : Nat
  /-- Steps since RUN was last entered. -/
  steps  : Nat
  /-- a0-a3 of the 32 banks: 4 * bank + k. -/
  accs   : List (BitVec 32)
  clamp  : Nat
  singular : Nat
  nanSeen : Nat
  susp   : Nat
  rows   : List (BitVec 8)
  /-- Cycle at which it left QUEUED, and at which it entered its state. -/
  start  : Nat
  since  : Nat
  /-- REASON of its record once it ends, 0 for DONE (R191). -/
  ended  : Option Nat
  /-- REASON of what ends it at the next boundary (R187). -/
  kill   : Option Nat
  /-- Lines that its guard sweep has written back (R186). -/
  written : Nat
  /-- Cycle from which no request has waited in the window that is open (R404). -/
  quiet  : Nat
  deriving DecidableEq, Repr

/-! ### Quality of service (R91, R92) -/

/-- A channel's counts for one partition. -/
structure QosCount where
  chan   : Fin 256
  part   : Nat
  reads  : Nat
  late   : Nat
  rc     : Nat
  /-- Tokens in units of 1/8,192 line: a rate of RC fills 25 * RC of them a cycle. -/
  tokens : Nat
  /-- Cycle up to which tokens are filled. -/
  filled : Nat
  /-- Requests that wait at the ingress for a token, oldest first, and the cycle each began to wait. -/
  waiting : List (Nat × Nat)
  deriving DecidableEq, Repr

/-! ### Host interface -/

/-- One ring (R53-R60). -/
structure Ring where
  base    : Word
  size    : Word
  widx    : Nat
  ridx    : Nat
  enable  : Bool
  /-- 0 DISABLED, 1 ACTIVE, 2 HALTED. -/
  state   : Nat
  draining : Bool
  reason  : Nat
  prio    : Word
  cqbase  : Word
  cqridx  : Nat
  /-- Completions written, counted modulo 2N. -/
  written : Nat
  /-- CQBASE and N as last validated. -/
  cqOk    : Word
  nOk     : Nat
  deriving DecidableEq, Repr

def Ring.reset : Ring := ⟨0, 0, 0, 0, false, 0, false, 0, 0, 0, 0, 0, 0, 0⟩

/-- Where a fetched command stands. -/
inductive CmdState where
  | fetched
  | running
  /-- Its result is ready to be written. -/
  | done (status : Nat) (r0 r1 : Nat)
  deriving DecidableEq, Repr

structure CmdRun where
  cmd   : Cmd
  state : CmdState
  deriving DecidableEq, Repr

/-- A launch permission entry (R67). -/
structure Lperm where
  index   : Nat
  handle  : Nat
  srcMod  : Nat
  srcFn   : Nat
  maxPrio : Nat
  deriving DecidableEq, Repr

/-- The registers of a function beside its rings (R37, R50, R74). -/
structure FnRegs where
  sumAddr : Word
  sumLen  : Word
  sumDone : Bool
  sumShort : Bool
  sumLength : Nat
  rqbase  : Vector Word 16
  /-- MSI-X table words by word index, mask bits apart. -/
  msix    : SMap Word
  rings   : Vector Ring 64
  /-- Size of BAR 2, as a power of two: 30 to 39 (R46). -/
  bar2    : Nat
  deriving DecidableEq, Repr

/-- The function's registers after reset; BAR 2 opens at its largest size. DESIGN CHOICE: log entry 45. -/
def FnRegs.reset : FnRegs :=
  ⟨0, 0, false, false, 0, Vector.replicate 16 0, [], Vector.replicate 64 Ring.reset, 39⟩

/-- An HDM decoder (R49). -/
structure Hdm where
  decoder : Nat
  part    : Nat
  base    : Nat
  len     : Nat
  hpa     : Nat
  deriving DecidableEq, Repr

/-- A partition's slate chain (R73). -/
structure Slates where
  next    : Nat
  /-- Digest of the latest slate. -/
  digest  : List Byte
  /-- The 16 latest, newest first: sequence number and bytes. -/
  kept    : List (Nat × List Byte)
  final   : Option (Nat × List Byte)
  /-- Cycle of creation. -/
  created : Nat
  sampled : Nat
  deriving DecidableEq, Repr

def Slates.none : Slates := ⟨0, [], [], Option.none, 0, 0⟩

/-- What the device keeps for a partition beside its descriptor. -/
structure PartRt where
  lperm    : List Lperm
  tiles    : List TileEntry
  /-- LASTSEQ by index; unlisted 0xFFFF_FFFF (R122). -/
  lastSeq  : SMap Nat
  /-- Collective packets ahead of their TTSET (R125). -/
  early    : List Packet
  /-- The table of a partition whose sequencers are another's, as their saved SRAM holds it (R118). -/
  stowed   : List TileEntry
  work     : SeqWork
  /-- Near-bank slots: 4 * channel + slot (R177). -/
  slots    : SMap (List Byte)
  /-- NBQ counts: 4 * channel + kind (R192). -/
  nbCounts : SMap Nat
  slates   : Slates
  /-- The gang resident, 0 for the single-module launches, none where nothing is (R38). -/
  resident : Option (BitVec 32)
  /-- A reset of the function waits for its launches to stop (R70). -/
  isReset  : Bool
  /-- Source served last (R97): 0 the rings, 1 the inbox, 2 LNCH. -/
  served   : Nat
  /-- The launch chosen, until it starts (R97). -/
  chosen   : Option Nat
  /-- Cycle of the next update of the counter page, the stores of an update not yet made, by event, and the cycle of the next
  (R96). -/
  pmDue    : Nat
  pmQueue  : List (Nat × Word)
  pmAt     : Nat
  /-- The state of its sequencers lies in its save area (R118). -/
  seqOut   : Bool
  /-- Class, TARGET and RATE that apply from the next window (R82). -/
  qosNext  : Option (Bool × Nat × Nat)
  /-- Slices in which designated ways are still being cleared, those ways, and the cycle at which that ends (R90, R93). -/
  clearing : BitVec 128
  clearWays : BitVec 16
  clearAt  : Nat
  /-- 2 MiB frames that a PDESTROY under way is to zero (R69). -/
  frames   : Option (List Nat)
  deriving DecidableEq, Repr

def PartRt.none : PartRt :=
  ⟨[], [], [], [], [], ⟨0, Option.none, []⟩, [], [], Slates.none, Option.none, false, 2, Option.none, 0, [], 0, false, Option.none, 0, 0, 0, Option.none⟩

/-! ### Call sheet and votes (R107-R112) -/

structure SheetSlot where
  gang     : BitVec 32
  micros   : Nat
  /-- Values that take effect at the slot's next start. -/
  nextGang : BitVec 32
  nextPart : Nat
  nextMicros : Nat
  part     : Nat
  filled   : Bool
  deriving DecidableEq, Repr

structure Sheet where
  running  : Bool
  stopping : Bool
  slot     : Nat
  /-- Cycle at which the slot began, and the parity of the sheet round. -/
  began    : Nat
  round    : Bool
  slots    : Vector SheetSlot 16
  /-- Age quantum in microseconds (R107). -/
  ageq     : Nat
  /-- The partition whose contexts are on the sliced quads, and the one whose were there last (R93). -/
  tenant   : Nat
  last     : Nat
  /-- PREPAREs for the next slot that came before this module's boundary: module, gang. -/
  early    : List (Nat × BitVec 32)
  /-- Cycle up to which the tenant's hold is counted, and cycles not yet a microsecond, by partition (R71). -/
  heldAt   : Nat
  carry    : SMap Nat
  deriving DecidableEq, Repr

def Sheet.reset : Sheet :=
  { running := false, stopping := false, slot := 0, began := 0, round := false,
    slots := Vector.replicate 16 ⟨0, 1000, 0, 0, 1000, 0, false⟩, ageq := 100, tenant := 0, last := 0,
    early := [], heldAt := 0, carry := [] }

inductive VoteState where
  | prepared | levelling | swapping
  /-- Swapped: kept to answer or resend COMMIT (R112). -/
  | done
  deriving DecidableEq, Repr

/-- One gang vote that the module takes part in (R110-R112). -/
structure Vote where
  slot     : Nat
  round    : Bool
  group    : List Nat
  /-- Partition and gang that the cell names: 0 where it is idle, 0x8000_0000 and above for single-module
  launches. -/
  part     : Nat
  incoming : BitVec 32
  /-- Partitions and gangs on the module that leave; gang 0 for single-module launches. -/
  outgoing : List (Nat × BitVec 32)
  state    : VoteState
  /-- Cycle of PREPARE. -/
  since    : Nat
  prepares : List Nat
  oks      : List Nat
  sentOk   : Bool
  /-- Own refusal reason. -/
  refused  : Option Nat
  /-- Sweep being answered, the cycle it reached this module, and children's sums received in it: module, sent,
  received. -/
  sweep    : Nat
  asked    : Bool
  sweepAt  : Nat
  reports  : List (Nat × Option Nat × Option Nat)
  /-- The root's sums of the last sweep, where they balanced, and the cycle of its first completed sweep. -/
  last     : Option (Nat × Nat)
  firstAt  : Option Nat
  /-- Cycle by which the module's own cores had halted. -/
  haltAt   : Option Nat
  /-- Cycle of the latest report, or of the latest request after it. -/
  reported : Option Nat
  /-- Cycle of the commit, and of the latest COMMIT sent; modules that have answered. -/
  swapAt   : Nat
  resent   : Nat
  committed : List Nat
  stalled  : Bool
  deriving DecidableEq, Repr

end Sys2Proof.Machine
end

