-- ==== Sys2Proof/Machine/State.lean ====
section
/-! DEFINITION. The state of one module: its cores, its memories, the accesses and commands in flight,
its partitions, and the model's own agenda; the reasons a step can stop; and the state after
reset. -/

namespace Sys2Proof.Machine

/-- Why the machine stops with a fault. -/
inductive Fault where
  /-- Raised by every step while the module is held in reset by a power failure or a thermal trip,
  where the manual gives no step but POWER_APPLIED (R7, R10). Safe: nothing runs. -/
  | noPower
  deriving DecidableEq, Repr

/-- Why an instruction has no meaning here. -/
inductive Refusal where
  /-- Raised by `exec` for an instruction that has no meaning yet. Safe: nothing is claimed of it. -/
  | notModelled (mnemonic : String)
  deriving DecidableEq, Repr

/-- A core whose bundle was refused with a cause, and the words of that bundle (R251). -/
structure Refused where
  core : Fin 256
  trap : Trap
  blen : Nat
  deriving DecidableEq, Repr

/-- How the bundle being issued has fared so far. -/
inductive IssueResult where
  | ok
  | trapped (t : Trap)
  | held (h : Hold)
  /-- Refused, with the causes that TRAP_ENTRY takes next. -/
  | refused (l : List Refused)
  deriving DecidableEq, Repr

/-- The bundle being issued: the core, the slot whose instruction acts, and the core as it stood
before the bundle, from which every operand is read (R139). DESIGN CHOICE: log entry 8. -/
structure Issue where
  core   : Fin 256
  slot   : Slot
  pre    : Core
  /-- Offset of the bundle's header in words, for SRBits (R227). -/
  ofs    : BitVec 32
  /-- Words of the bundle (R251). -/
  blen   : Nat
  /-- The instruction transferred control (R154). -/
  taken  : Bool
  /-- The instructions of the bundle, by slot. -/
  slots  : List (Slot × Instr)
  /-- Streams that the bundle binds or releases, at its end (R303). -/
  binds  : List (Fin 8 × Stream)
  result : IssueResult
  deriving DecidableEq, Repr

/-- A step to take, with what its surroundings put in. -/
structure Event where
  instr : Instr
  inp   : Input
  deriving DecidableEq, Repr

/-- What has reached the module and waits for its cycle, or for a channel (R42, R91, R187). -/
structure Arrival where
  due  : Nat
  chan : Option (Fin 256)
  ev   : Event
  deriving DecidableEq, Repr

/-- What leaves the module: an MSI-X message (R46), a link frame, what the host is answered. DESIGN CHOICE: log entry
10. -/
inductive OutMsg where
  | msix (fn : Fn) (vector : Nat)
  /-- A link frame through a port (R25). -/
  | frame (port : Fin 20) (f : Frame)
  /-- The answer to a configuration request: retry status or the normal one (R13), and a register's word (R46). -/
  | config (retry : Bool)
  | configData (v : BitVec 32)
  /-- THERMTRIP is driven (R10). -/
  | thermtrip
  /-- Data of a host read, or Unsupported Request (R47). -/
  | hostData (bytes : List Byte)
  | unsupported
  deriving DecidableEq, Repr

/-- The module. -/
structure State where
  /-- Steps that come before the cores' own, in order. DESIGN CHOICE: log entry 7. -/
  agenda : List Event
  /-- What the surroundings put into the step being taken. -/
  inp    : Input
  /-- The core that issues next when the agenda is empty. DESIGN CHOICE: log entry 7. -/
  turn   : Nat
  issue  : Issue
  /-- Free values drawn so far. DESIGN CHOICE: log entry 9. -/
  free   : Nat
  /-- Accesses, commands and launches numbered so far. -/
  nextId : Nat
  cycle  : Nat
  cores  : Vector Core 256
  mem    : Mem
  hostMem : Mem
  /-- Lines of HBM (by line number) that an error-correcting read has found failed: 1 uncorrectable,
  2 check code mismatch (R22, R23). -/
  badLines : SMap Nat
  /-- Corrected errors not yet logged, and the cycle of the first: key UNIT + 8 * INDEX (R21, R255). -/
  ecc    : SMap (Nat × Nat)
  /-- Lines that the L2 slices hold, and the trees of their sets (R90, R166). -/
  l2     : List L2Line
  plru   : SMap Nat
  /-- Exposed lines that the host may have cached, by line number (R49). -/
  hostLines : SMap Nat
  /-- Packets and host accesses that have reached the module and not yet taken effect, in order (R42, R91, R187). -/
  arrivals : List Arrival
  memq   : List MemOp
  comb   : Vector (List CombEntry) 256
  /-- Write numbers given out, by die (R201). -/
  dieNum : Clk
  /-- PERF_d, by die (R201). -/
  perf   : Vector Clk 4
  credRet : List CreditRet
  cmds   : List EngCmd
  l2tlb  : Vector (List TlbEntry) 64
  /-- TLBs of the port sequencers (R86), and their SRAM of 256 KiB each (R117). -/
  seqTlb : Vector (List TlbEntry) 20
  seqSram : Vector Mem 20
  parts  : Vector Partition 17
  /-- What is kept of a partition beside its descriptor. -/
  rt     : Vector PartRt 17
  /-- The degraded-unit map (R20). -/
  degQuads  : BitVec 64
  degSlices : BitVec 128
  degWays   : BitVec 1536
  degChans  : BitVec 256
  degPorts  : BitVec 20
  boot   : Boot
  power  : Power
  fabric : Fabric
  /-- Function registers and rings (R50, R53), and SLATE_BASE by partition. -/
  fns    : Vector FnRegs 17
  slateBase : Vector Word 17
  /-- Fetched commands that have not completed (R59). -/
  cmdRuns : List CmdRun
  hdm    : List Hdm
  genesis : List Byte
  /-- Near-bank runs by channel, the one under way first (R185). -/
  nb     : Vector (List NbRun) 256
  qos    : List QosCount
  /-- Open DRAM rows: 32 * channel + bank, row + 1 (R167). -/
  openRows : SMap Nat
  sheet  : Sheet
  votes  : List Vote
  /-- Launches placed or queued, and those ended that polders may still name. -/
  launches : List Launch
  gangs  : List GangDef
  /-- Contexts out of their cores, in shadow storage or in a save area (R106). -/
  saved  : List Saved
  /-- Fault logs by function, newest first (R256), and which have lost entries. -/
  flog   : Vector (List FaultEntry) 17
  flogLost : Vector Bool 17
  /-- FN_ERR by function (R52). -/
  fnErr  : Vector (BitVec 64) 17
  fnErrVec : Vector (BitVec 64) 17
  /-- Mask and pending bits of the MSI-X vectors, by function (R46). PRESUMED: log entry 6. -/
  msixMask : Vector (BitVec 2048) 17
  msixPend : Vector (BitVec 2048) 17
  /-- What has left the module, oldest first. DESIGN CHOICE: log entry 10. -/
  out    : List OutMsg
  /-- DPA of the default H handler that boot step 3 puts into HVEC (R247). DESIGN CHOICE: log entry 5. -/
  hvecBoot : BitVec 38
  deriving DecidableEq, Repr

/-! ### Reset -/

def Clk.zero : Clk := Vector.replicate 4 0

/-- Takes and registers at reset: zero (R140; log entry 4 for the S and H banks). -/
def Take.reset (α : Type) (z : α) : Take α := ⟨0, z, z, 0, 0, none⟩
def Reg.reset {α : Type} (z : α) : Reg α := ⟨z, []⟩
def Bank.reset : Bank :=
  ⟨List.replicate 16 (Take.reset Word 0), Vector.replicate 16 (Reg.reset 0)⟩
def Stream.reset : Stream := ⟨false, false, false, [], 0, 0, 0, 0, []⟩
def Tile.reset : Tile := ⟨0, []⟩
def TrapRegs.reset : TrapRegs := ⟨0, 0, 0⟩
def MatProg.reset : MatProg := ⟨false, 0, 0, 0, 0, false⟩

/-- A core after reset or a scrub. -/
def Core.reset : Core :=
  { run := .idle, issuedAt := none, launch := none, lidx := 0, part := 0, handle := 0, hdr := KHeader.none,
    level := .u, base := .u, pc := 0, clk := 0, skip := 0, icyc := 0, holdCyc := 0, entryWait := 0,
    wait := none, answer := none, stop := none, brkSkip := false, lastSp := none, stopAt := 0, seq := 0, bankU := Bank.reset,
    bankS := Bank.reset, bankH := Bank.reset, vtakes := List.replicate 16 (Take.reset Vec 0),
    v := Vector.replicate 16 (Reg.reset 0), loads := [],
    streams := Vector.replicate 8 Stream.reset, tiles := Vector.replicate 8 Tile.reset,
    acc := Vector.replicate 8 [], q0 := [], q1 := [], tags := Vector.replicate 64 .free,
    copyq := [], mops := [], mprog := MatProg.reset, saves := 0, unlocking := false, saveHeld := false,
    mask := [],
    shadow := Vector.replicate 32 0, ssp := 0, spad := [],
    writers := Vector.replicate 32 none, badSpad := [], badWords := [], spill := [], fmte := 0, fmtp := [], frm := 0,
    srseed := 0, shadowchk := 0, dmode := 0, reelBase := 0, reelLimit := 0, reelPtr := 0,
    trapVec := 0#2 ++ BitVec.allOnes 38 ++ 0#24, trapS := TrapRegs.reset, trapH := TrapRegs.reset, mqBase := 0, mqHead := 0,
    mqTail := 0, mqEntries := [], credits := [], liveBase := 0, gang := 0, rank := 0, gsize := 1,
    pkgId := 0, perf := Vector.replicate 16 0, perfSeen := Vector.replicate 16 0, rc := Clk.zero, wc := Clk.zero, fabOut := [], fabSince := [],
    fabLate := none, joined := false, rejoin := false, lonely := false, late := [], fbuf := [], l1tlb := [], walks := [],
    barClk := [], flipClk := [], waiters := [] }

def Packet.zero : Packet :=
  { type := 0, hop := 0, cls := 0, dst := 0, src := 0, dfn := 0, sfn := 0, gang := 0, pseq := 0,
    addr := 0, be := [], opnd := 0, flits := [], hcc := 0, codes := [] }

def Control.zero : Control :=
  { ctype := 0, hop := 0, dst := 0, src := 0, arg16 := 0, arg32 := 0, ccc := 0 }

def Cmd.zero : Cmd := ⟨0, 0, 0, [], 0⟩

def Input.reset : Input := ⟨Cmd.zero, Packet.zero, Control.zero, Control.zero, 0, 0, 20, false⟩

def Issue.reset : Issue := ⟨0, .s, Core.reset, 0, 1, false, [], [], .ok⟩

/-- Fuses at reset: log entry 2. -/
def Boot.reset : Boot :=
  { powered := true, perst := false, stage := 0, failed := false, fcode := 0, image := 0, count := 0,
    keys := List.replicate 4 ⟨0, false⟩, minVers := List.replicate 4 0,
    digests := List.replicate 5 0, vers := List.replicate 4 0, badCore := List.replicate 16 none,
    secret := 0, root := 0, identity := 0, certificate := [], failedPorts := 0 }

def Power.reset : Power := ⟨2400, 2400, 0, 0, false, Vector.replicate 4 1⟩

/-- Credits of a link: 48 flits in each data VC, 16 control flits (R43). -/
def fullCredit : Vector Nat 6 := #v[48, 48, 48, 48, 48, 16]

def Port.reset : Port :=
  { up := false, training := false, down := false, absent := false, flight := 0, neigh := 0, nport := 0,
    enable := true, queue := [], ctlQueue := [], cur := none, served := Vector.replicate 5 20, credit := fullCredit,
    tx := [], txSeq := 0, buffer := [], acked := BitVec.allOnes 12, rxSeq := 0, nak := false, owesAck := false,
    owed := Vector.replicate 6 0, rx := [], replays := [], trained := 0, drops := 0, cutDrops := [] }

/-- Every route entry resets to no route (R29). -/
def Fabric.reset : Fabric :=
  { fabId := 0, ports := Vector.replicate 20 Port.reset, routes := [], streams := [], sent := [], held := [], again := [],
    own := [], acks := [] }

/-- The module right after reset. -/
def State.reset : State :=
  { agenda := [], inp := Input.reset, turn := 0, issue := Issue.reset, free := 0, nextId := 0,
    cycle := 0, cores := Vector.replicate 256 Core.reset, mem := [], hostMem := [], badLines := [], ecc := [], l2 := [], plru := [],
    hostLines := [], arrivals := [], memq := [],
    comb := Vector.replicate 256 [], dieNum := Clk.zero,
    perf := Vector.replicate 4 Clk.zero, credRet := [], cmds := [],
    l2tlb := Vector.replicate 64 [], seqTlb := Vector.replicate 20 [], seqSram := Vector.replicate 20 [], parts := Vector.replicate 17 Partition.absent,
    rt := Vector.replicate 17 PartRt.none, degQuads := 0, degSlices := 0, degWays := 0, degChans := 0,
    degPorts := 0, boot := Boot.reset, power := Power.reset, fabric := Fabric.reset,
    fns := Vector.replicate 17 FnRegs.reset, slateBase := Vector.replicate 17 0, cmdRuns := [], hdm := [],
    genesis := [], nb := Vector.replicate 256 [], qos := [], openRows := [], sheet := Sheet.reset,
    votes := [],
    launches := [], gangs := [], saved := [], flog := Vector.replicate 17 [], flogLost := Vector.replicate 17 false,
    fnErr := Vector.replicate 17 0, fnErrVec := Vector.replicate 17 0,
    msixMask := Vector.replicate 17 (BitVec.allOnes 2048), msixPend := Vector.replicate 17 0, out := [],
    hvecBoot := BitVec.allOnes 38 }

end Sys2Proof.Machine
end

