-- ==== Sys2Proof/Machine/Ops.lean ====
section
/-! DEFINITION. The named operations over cores and registers: reading and claiming takes, writing
named registers, logging faults, holding, taking a trap and returning from one. -/

namespace Sys2Proof.Machine

/-! ### Cores -/

def State.coreAt (s : State) (c : Fin 256) : Core := s.cores[c]

def State.setCore (s : State) (c : Fin 256) (k : Core) : State :=
  { s with cores := s.cores.set c k }

def State.mapCore (s : State) (c : Fin 256) (f : Core → Core) : State := s.setCore c (f (s.coreAt c))

/-- The core whose bundle is being issued, as it stands now. -/
def State.cur (s : State) : Core := s.coreAt s.issue.core

/-- That core with a change. -/
def State.upd (s : State) (f : Core → Core) : State := s.mapCore s.issue.core f

/-- That core as it stood before the bundle: every operand is read from it (R139). -/
def State.pre (s : State) : Core := s.issue.pre

def quadOf (c : Fin 256) : Fin 64 := ⟨c.val / 4, by omega⟩
def dieOf (c : Fin 256) : Fin 4 := ⟨c.val / 64, by omega⟩

/-- The four cores of a quad. -/
def coresOfQuad (q : Fin 64) : List (Fin 256) :=
  [⟨4 * q.val, by omega⟩, ⟨4 * q.val + 1, by omega⟩, ⟨4 * q.val + 2, by omega⟩,
   ⟨4 * q.val + 3, by omega⟩]

def allCores : List (Fin 256) := List.finRange 256

/-! ### Numbering, messages, meters -/

/-- A fresh number for an access, command or launch. -/
def State.fresh (s : State) : Nat × State := (s.nextId, { s with nextId := s.nextId + 1 })

/-- Put a step at the end of the agenda. -/
def State.post (s : State) (i : Instr) (inp : Input) : State :=
  { s with agenda := s.agenda ++ [⟨i, inp⟩] }

/-- A step about one core. -/
def State.postCore (s : State) (i : Instr) (c : Fin 256) : State :=
  s.post i { Input.reset with core := c }

/-- Add to a meter of a partition (R71); partition 0 stands for none. -/
def State.meter (s : State) (part : Nat) (m : Fin 16) (n : Nat) : State :=
  if h : part < 17 then
    if part = 0 then s else
    let p := s.parts[part]
    let p' := { p with meters := p.meters.set m (p.meters[m] + BitVec.ofNat 64 n) }
    { s with parts := s.parts.set part p' }
  else s

/-- The commit of the call sheet's vote that is being swapped (R111). -/
def State.swapFrom (s : State) : Option Nat :=
  (s.votes.find? fun v => v.state = .swapping && (v.part = 0 || decide (0x80000000 ≤ v.incoming.toNat) ||
    (if h : v.part < 17 then s.parts[v.part].kind = 1 else false))).map (·.swapAt)

/-- The cycle up to which the tenant has held its cells: for a gang to the halt or the end of its cores (R116), and not
beyond the commit of the vote that ends the cell. -/
def State.holdTo (s : State) : Nat :=
  let h := s.sheet
  let upTo := s.swapFrom.getD s.cycle
  match (if p : h.tenant < 17 then s.rt[h.tenant].resident else none) with
  | none => upTo
  | some g =>
    if g = 0 then upTo
    else match s.launches.find? fun l => l.part = h.tenant && l.gang = g && l.state = .running with
      | some l => min upTo (l.haltAt.getD s.cycle)
      | none => h.heldAt

/-- Count the time for which the tenant has held its cells, in whole microseconds (R71). -/
def State.chargeHold (s : State) : State :=
  let h := s.sheet
  let upTo := max h.heldAt s.holdTo
  let n := SMap.get 0 h.carry h.tenant + (upTo - h.heldAt)
  if h.tenant = 0 then { s with sheet := { h with heldAt := s.cycle } }
  else
    let h' : Sheet := { h with heldAt := upTo, carry := SMap.set 0 h.carry h.tenant (n % 1600) }
    { s with sheet := h' }.meter h.tenant 15 (n / 1600)

/-- Signal an MSI-X vector: the message leaves, or its pending bit is set while masked (R46). -/
def State.signal (s : State) (fn : Fn) (v : Nat) : State :=
  if s.msixMask[fn].getLsbD v then
    { s with msixPend := s.msixPend.set fn (s.msixPend[fn] ||| BitVec.ofNat 2048 (2 ^ (v % 2048))) }
  else { s with out := s.out ++ [.msix fn v] }

/-- Cores waiting in WFI are woken by an event (R312). -/
def State.wakeWfi (s : State) (ev : BitVec 4) : State :=
  allCores.foldl (fun s c => match (s.coreAt c).wait with
    | some (.wfi _) => s.post (.wfiWake c ev) Input.reset
    | _ => s) s

/-- An event that ends the YIELD of a core early (R297). -/
def State.wakeYield (s : State) (c : Fin 256) (why : YieldWhy) : State :=
  match (s.coreAt c).wait with
  | some (.yield _) => s.post (.yieldEnd c why) Input.reset
  | _ => s

/-- Set a bit of FN_ERR; on its rise the vector of FN_ERRVEC is signalled if EN is 1 (R52), and a
rise on PF 0 ends a WFI (R312). -/
def State.raiseErr (s : State) (fn : Fn) (bit : Nat) : State :=
  if s.fnErr[fn].getLsbD bit then s
  else
    let s := { s with fnErr := s.fnErr.set fn (s.fnErr[fn] ||| BitVec.ofNat 64 (2 ^ bit)) }
    let s := if fn = 0 then s.wakeWfi 8 else s
    let v := s.fnErrVec[fn]
    if v.getLsbD 11 then s.signal fn (bitsOf v.toNat 0 11) else s

/-- The class of a cause: which handler takes it (R255). -/
inductive CauseClass where
  | toS | toH | logS | logH
  deriving DecidableEq, Repr

def Cause.code : Cause → Nat
  | .illegalOpcode => 0x00 | .headerReserved => 0x01 | .fetchCheck => 0x02 | .fetchRange => 0x03
  | .privileged => 0x04 | .breakpoint => 0x05 | .trapInstr => 0x06 | .controlIntegrity => 0x07
  | .callDepth => 0x08 | .tandemMismatch => 0x09 | .tandemSibling => 0x0A
  | .operandReserved => 0x10 | .shadowRead => 0x11 | .queueFull => 0x12 | .queueEmpty => 0x13
  | .copyqFull => 0x14 | .matqFull => 0x15 | .streamUnbound => 0x16 | .streamEnd => 0x17
  | .maskOverflow => 0x18 | .maskUnderflow => 0x19 | .tileConfig => 0x1A | .tileBusy => 0x1B
  | .csrAccess => 0x1C | .spillRange => 0x1D
  | .xlateS1 => 0x20 | .xlateS2 => 0x21 | .accessKind => 0x22 | .misaligned => 0x23
  | .polderUndeclared => 0x24 | .windowCode => 0x25 | .msgTarget => 0x26 | .msgqFull => 0x27
  | .msgqEmpty => 0x28
  | .barrierStore => 0x30 | .barrierRange => 0x31 | .tagBusy => 0x32 | .fabricTimeout => 0x33
  | .lnchFull => 0x34 | .barrierState => 0x35
  | .cvtOverflow => 0x40 | .intCode => 0x41 | .divZero => 0x42 | .typeReserved => 0x43
  | .reelFull => 0x50 | .reelEmpty => 0x51 | .reelMismatch => 0x52 | .diffRemote => 0x53
  | .diffShape => 0x54 | .diffKind => 0x55 | .diffUndeclared => 0x56
  | .collEntry => 0x60 | .collSeq => 0x61 | .collCheck => 0x62 | .spillFull => 0x63
  | .rankRange => 0x64
  | .ownership => 0x70 | .checkFail => 0x71 | .uncorrectable => 0x72 | .voteStall => 0x73
  | .nestedTrap => 0x74 | .corrected => 0x75 | .imageCheck => 0x76 | .controlDrop => 0x77

def Cause.cls : Cause → CauseClass
  | .xlateS2 | .ownership | .checkFail | .uncorrectable | .nestedTrap => .toH
  | .barrierState | .collSeq | .collCheck | .spillFull | .imageCheck => .logS
  | .voteStall | .corrected | .controlDrop => .logH
  | _ => .toS

/-- Microseconds since boot step 6 (R256); CYCLE counts 1,600 to the microsecond. -/
def State.micros (s : State) : Nat := s.cycle / 1600

/-- Enter a fault into one function's log: its 256 latest entries (R256). -/
def State.logOne (s : State) (fn : Fn) (e : FaultEntry) : State :=
  let old := s.flog[fn]
  let e' := if s.flogLost[fn] then { e with flags := e.flags ||| 4 } else e
  let s := { s with flog := s.flog.set fn ((e' :: old).take 256),
                    flogLost := s.flogLost.set fn (decide (256 ≤ old.length)) }
  s.raiseErr fn 1

/-- A fault log entry goes to the function of its partition, and PF 0's log takes every H entry and a
copy of every other (R256). An entry taken by H ends a WFI (R312). -/
def State.logFault (s : State) (e : FaultEntry) : State :=
  let s := if h : 0 < e.part ∧ e.part < 17 then
      if e.flags.getLsbD 1 then s else s.logOne ⟨e.part, h.2⟩ e
    else s
  let s := s.logOne 0 e
  if e.flags.getLsbD 1 then s.wakeWfi 2 else s

/-- Causes whose detail is an address (R252). -/
def Cause.addressed : Cause → Bool
  | .xlateS1 | .xlateS2 | .accessKind | .misaligned | .polderUndeclared | .windowCode | .barrierStore | .diffRemote
  | .diffShape | .diffKind | .diffUndeclared | .ownership | .checkFail | .uncorrectable => true
  | _ => false

/-- A fault log entry of a core: ADDR holds the detail where that is an address (R256). -/
def State.logCore (s : State) (c : Fin 256) (cause : Cause) (flags : BitVec 8) (info : Word) : State :=
  let k := s.coreAt c
  let addr := if cause.addressed then info else 0
  s.logFault { cause := cause, flags := flags, part := k.part, unit := 0, index := c.val, detail := 0,
               time := s.micros, addr := addr, gang := k.gang, pc := k.pc.setWidth 32 }

/-- A fault log entry of a shared unit acting for a partition (R256). -/
def State.logUnit (s : State) (cause : Cause) (flags : BitVec 8) (part unit index detail : Nat)
    (addr : Word) (gang : BitVec 32) : State :=
  s.logFault { cause := cause, flags := flags, part := part, unit := unit, index := index,
               detail := detail, time := s.micros, addr := addr, gang := gang, pc := 0 }

/-! ### Results of a slot -/

/-- What an instruction of a slot comes to: a value and a state, a cause that refuses the bundle, or
a hold. -/
inductive SlotRes (α : Type) where
  | ok (a : α) (s : State)
  | trap (t : Trap)
  | hold (h : Hold)
  deriving DecidableEq, Repr

def SlotRes.bind {α β : Type} (r : SlotRes α) (k : α → State → SlotRes β) : SlotRes β :=
  match r with
  | .ok a s => k a s
  | .trap t => .trap t
  | .hold h => .hold h

/-- The slot's number in TRAP_CAUSE (R251). -/
def Slot.num : Slot → Nat
  | .s => 0 | .v0 => 1 | .v1 => 2 | .m => 3 | .c0 => 4 | .c1 => 5

/-- Raise a cause of the slot being run. -/
def raise {α : Type} (s : State) (c : Cause) (info : Word) : SlotRes α :=
  .trap ⟨c, Slot.num s.issue.slot, info⟩

/-- Go on if a condition holds; raise a cause otherwise. -/
def need {α : Type} (s : State) (b : Bool) (c : Cause) (info : Word) (k : SlotRes α) : SlotRes α :=
  if b then k else raise s c info

/-! ### Takes and named registers -/

def Core.bank (k : Core) : Level → Bank
  | .u => k.bankU | .s => k.bankS | .h => k.bankH

def Core.setBank (k : Core) (l : Level) (b : Bank) : Core :=
  match l with
  | .u => { k with bankU := b } | .s => { k with bankS := b } | .h => { k with bankH := b }

/-- What a register can be seen to hold: one settled value, or one of several while writes are
pending on it (R141, R142). -/
inductive Seen (α : Type) where
  | settled (v : α)
  | shadow (cands : List α)
  deriving DecidableEq, Repr

/-- A take at issue cycle `clk` (R141): the new value once landed, else the old or the new one. -/
def Take.see {α : Type} (t : Take α) (clk : Nat) : Seen α :=
  match t.load with
  | none => if t.land ≤ clk then .settled t.val else .shadow [t.old, t.val]
  | some _ => .shadow [t.old]

/-- A pending write that has elapsed. -/
def Pend.elapsed {α : Type} (p : Pend α) (clk : Nat) : Bool := p.load.isNone && decide (p.land ≤ clk)

/-- The register with the elapsed writes at the front of its list taken over. -/
def Reg.settle {α : Type} (cur : α) (clk : Nat) : List (Pend α) → Reg α
  | [] => ⟨cur, []⟩
  | p :: l => if p.elapsed clk then Reg.settle p.val clk l else ⟨cur, p :: l⟩

/-- A named register at issue cycle `clk` (R142): once every write has elapsed, the last in issue
order; before that, the value before the earliest pending write or the value of a write since. -/
def Reg.see {α : Type} (r : Reg α) (clk : Nat) : Seen α :=
  match Reg.settle r.cur clk r.pend with
  | ⟨c, []⟩ => .settled c
  | ⟨c, l⟩ => .shadow (c :: (l.filter fun p => p.load.isNone).map (·.val))

/-- Which candidate a shadowed read returns is a free value. DESIGN CHOICE: log entry 9. -/
def pick {α : Type} (d : α) (n : Nat) (cands : List α) : α :=
  cands.getD (Config.shadowIndex n % cands.length) d

/-- Read what is seen: SHADOW_READ if SHADOWCHK.EN is set and the read is in a shadow (R254);
otherwise a free choice among the candidates. `spec` is the specifier, for TRAP_INFO (R252). -/
def readSeen {α : Type} (s : State) (d : α) (x : Seen α) (info : Word) : SlotRes α :=
  match x with
  | .settled v => .ok v s
  | .shadow cands =>
    if s.pre.shadowchk.getLsbD 0 then raise s .shadowRead info
    else .ok (pick d s.free cands) { s with free := s.free + 1 }

/-- A new claim of a take (R140): the oldest entry becomes t0 and holds, until the result lands, the
result claimed 16 claims earlier. An entry whose load has not brought its data keeps its old value,
since that load's take write is dropped (R170). -/
def claimTake {α : Type} (takes : List (Take α)) (seq : Nat) (z v : α) (clk lat : Nat)
    (load : Option Nat) : List (Take α) :=
  let old := match takes[15]? with
    | some t => match t.load with
      | none => t.val
      | some _ => t.old
    | none => z
  ⟨seq, old, v, clk, clk + lat, load⟩ :: takes.take 15

/-- Add a pending write to a named register (R142). -/
def Reg.write {α : Type} (r : Reg α) (clk : Nat) (p : Pend α) : Reg α :=
  let r' := Reg.settle r.cur clk r.pend
  ⟨r'.cur, r'.pend ++ [p]⟩

/-- A scalar result with latency `lat` (R141, R287): claims a take and, for W from 1 to 15, writes
xW too. -/
def Core.result (k : Core) (v : Word) (lat : Nat) (w : WReg) (load : Option Nat) : Core :=
  let b := k.bank k.level
  let takes := claimTake b.takes k.seq 0 v k.clk lat load
  let x := if w = 0 then b.x
    else b.x.set w ((b.x[w]).write k.clk ⟨v, k.clk, k.clk + lat, load⟩)
  { k.setBank k.level ⟨takes, x⟩ with seq := k.seq + 1 }

/-- Write a named register alone (LOOP, R295; MOVX.WR, R291). -/
def Core.writeX (k : Core) (l : Level) (w : Fin 16) (v : Word) (lat : Nat) : Core :=
  if w = 0 then k else
  let b := k.bank l
  k.setBank l { b with x := b.x.set w ((b.x[w]).write k.clk ⟨v, k.clk, k.clk + lat, none⟩) }

/-- A vector result with latency `lat`: claims a vector take (R140). -/
def Core.vresult (k : Core) (v : Vec) (lat : Nat) : Core :=
  { k with vtakes := claimTake k.vtakes k.seq 0 v k.clk lat none, seq := k.seq + 1 }

/-- Claim a scalar result for the core being issued. -/
def State.result (s : State) (v : Word) (lat : Nat) (w : WReg) : State :=
  s.upd fun k => k.result v lat w none

/-- Claim a vector result for the core being issued. -/
def State.vresult (s : State) (v : Vec) (lat : Nat) : State := s.upd fun k => k.vresult v lat

/-! ### Landing -/

/-- A take whose result lands now: at trap entry (R248). -/
def Take.landNow {α : Type} (clk : Nat) (t : Take α) : Take α := { t with land := Nat.min t.land clk }

def Pend.landNow {α : Type} (clk : Nat) (p : Pend α) : Pend α := { p with land := Nat.min p.land clk }

def Reg.landNow {α : Type} (clk : Nat) (r : Reg α) : Reg α :=
  Reg.settle r.cur clk (r.pend.map (Pend.landNow clk))

def Bank.landNow (clk : Nat) (b : Bank) : Bank :=
  ⟨b.takes.map (Take.landNow clk), b.x.map (Reg.landNow clk)⟩

/-- Every result of the interrupted context lands; a load still on its way lands when its data
arrives, and the handler waits for it (R248). -/
def Core.landAll (k : Core) : Core :=
  { k with
    bankU := k.bankU.landNow k.clk, bankS := k.bankS.landNow k.clk, bankH := k.bankH.landNow k.clk,
    vtakes := k.vtakes.map (Take.landNow k.clk), v := k.v.map (Reg.landNow k.clk),
    loads := k.loads.map fun l => { l with land := Nat.min l.land k.clk } }

/-! ### Trap entry and return -/

def Level.num : Level → Nat
  | .u => 0 | .s => 1 | .h => 2

/-- SOFF of TRAP_VEC (R247). -/
def Core.soff (k : Core) : Nat := bitsOf k.trapVec.toNat 0 24

/-- HVEC of TRAP_VEC (R247). -/
def Core.hvec (k : Core) : Nat := bitsOf k.trapVec.toNat 24 38

/-- TRAP_CAUSE as trap entry writes it (R251). -/
def trapCauseWord (cause : Cause) (slot : Nat) (from_ : Level) (joined : Bool) (blen : Nat) : BitVec 64 :=
  BitVec.ofNat 64 (cause.code + 2 ^ 8 * slot + 2 ^ 11 * from_.num + 2 ^ 13 * joined.toNat + 2 ^ 16 * blen)

/-- The last landing of the results in flight, in issue cycles from now (R248). -/
def Core.landingLeft (k : Core) : Nat :=
  let regs {α : Type} (v : Vector (Reg α) 16) : List Nat := v.toList.flatMap fun r => r.pend.map (·.land)
  let bank (b : Bank) : List Nat := b.takes.map (·.land) ++ regs b.x
  let all := bank k.bankU ++ bank k.bankS ++ bank k.bankH ++ k.vtakes.map (·.land) ++ regs k.v ++
    k.loads.map (·.land)
  all.foldl Nat.max k.clk - k.clk

/-- Enter the handler of level `l` (R248): results land, the trap registers of the level are written,
its bank and its entry are selected, and its first bundle issues 12 cycles after the last landing: 11 empty
cycles stand between. -/
def Core.enter (k : Core) (l : Level) (cause : Cause) (slot : Nat) (info : Word) (blen : Nat) : Core :=
  let k' := k.landAll
  let regs : TrapRegs :=
    ⟨trapCauseWord cause slot k.level k.joined blen, k.pc &&& 0xFFFFFFFFFC#64, info⟩
  match l with
  | .s => { k' with trapS := regs, level := .s, pc := BitVec.ofNat 64 (4 * k.soff),
                    entryWait := k.landingLeft + 11,
                    skip := 0, wait := none, answer := none, brkSkip := false }
  | _ => { k' with trapH := regs, level := .h, pc := BitVec.ofNat 64 (4 * k.hvec),
                   entryWait := k.landingLeft + 11,
                   skip := 0, wait := none, answer := none, brkSkip := false }

/-- What becomes of a cause at a level (R250). -/
inductive TrapTo where
  | handler (l : Level) (cause : Cause) (info : Word)
  | endLaunch (cause : Cause)
  | stopCore (cause : Cause)
  deriving DecidableEq, Repr

/-- TRAP_INFO of NESTED_TRAP: the original cause, and its SLOT and PPRIV as in TRAP_CAUSE (R252). -/
def nestedInfo (t : Trap) (l : Level) : Word :=
  BitVec.ofNat 64 (t.cause.code + 2 ^ 8 * t.slot + 2 ^ 11 * l.num)

/-- The table of R250. -/
def Core.trapTo (k : Core) (t : Trap) : TrapTo :=
  match k.level, t.cause.cls with
  | .u, .toH => .handler .h t.cause t.info
  | .u, _ => if k.soff = 0 then .endLaunch t.cause else .handler .s t.cause t.info
  | .s, .toH => .handler .h t.cause t.info
  | .s, _ => .handler .h .nestedTrap (nestedInfo t .s)
  | .h, _ => .stopCore t.cause

/-- End a launch by a cause, given as its TRAP_CAUSE word (R66, R250): its first cause is kept, its other cores stop at their
next safe point without a save. -/
def State.endLaunch (s : State) (launch : Option Nat) (cause : Word) : State :=
  match launch with
  | none => s
  | some id =>
    { s with
      launches := s.launches.map fun l =>
        if l.id = id ∧ l.fault.isNone then { l with fault := some cause } else l
      cores := s.cores.map fun k =>
        if k.launch = some id ∧ k.run = .running then { k with stop := some .noSave } else k }

/-- A core that ends while decoupled in tandem leaves its siblings to TANDEM_MISMATCH (R152). -/
def State.leaveQuad (s : State) (c : Fin 256) : State :=
  let k := s.coreAt c
  if k.hdr.tandem && !k.joined then
    ((coresOfQuad (quadOf c)).filter (· ≠ c)).foldl
      (fun s c => s.mapCore c fun k => { k with lonely := true }) s
  else s

/-- One core of the launch stops for good, and its launch ends by the cause, whose TRAP_CAUSE word is given. -/
def State.killCore (s : State) (c : Fin 256) (cause : Cause) (word : Word) (flags : BitVec 8) (info : Word) : State :=
  let k := s.coreAt c
  let s := (s.logCore c cause flags info).leaveQuad c
  let s := s.endLaunch k.launch word
  let s := s.mapCore c fun k => { k with run := .dead, wait := none, stop := none }
  s.postCore .coreEnded c

/-- A cause takes the core to the H handler. -/
def Core.goesToH (k : Core) (t : Trap) : Bool :=
  match k.trapTo t with
  | .handler .h _ _ => true
  | _ => false

/-- The table of R250 for a core of a joined quad: where the cause of one takes it to the H handler, the others, each with its
own cause, run that handler with it (R153). DEDUCED: log entry 32. -/
def Core.trapWith (k : Core) (h : Bool) (t : Trap) : TrapTo :=
  match k.trapTo t with
  | .handler .s cause info => .handler (if h then .h else .s) cause info
  | .endLaunch cause => if h then .handler .h cause t.info else .endLaunch cause
  | x => x

/-- Take a cause on one core (R248, R250), where `h` with joined siblings that go to H. An expired fabric count is reported
once (R40). Entry to a handler writes no fault log entry: the default H handler writes its own (R247). DEDUCED: log
entry 32. -/
def State.takeTrapOn (s : State) (c : Fin 256) (h : Bool) (t : Trap) : State :=
  let k := s.coreAt c
  let s := if t.cause = .fabricTimeout then s.mapCore c fun k => { k with fabLate := none } else s
  let word (cause : Cause) : Word := trapCauseWord cause t.slot k.level k.joined s.issue.blen
  match k.trapWith h t with
  | .handler l cause info =>
    s.mapCore c fun k => k.enter l cause t.slot info s.issue.blen
  | .endLaunch cause => s.killCore c cause (word cause) 8 t.info
  | .stopCore cause => s.killCore c cause (word cause) 10 t.info

/-- The other cores of a joined quad (R153). -/
def State.siblings (s : State) (c : Fin 256) : List (Fin 256) :=
  if (s.coreAt c).joined then (coresOfQuad (quadOf c)).filter (· ≠ c) else []

/-- TAKE A TRAP: the core takes the cause; in tandem its joined siblings record TANDEM_SIBLING
(R153). -/
def State.takeTrap (s : State) (c : Fin 256) (t : Trap) : State :=
  let sibs := s.siblings c
  let h := (s.coreAt c).goesToH t
  let s := s.takeTrapOn c h t
  sibs.foldl (fun s b => s.takeTrapOn b h ⟨.tandemSibling, 6, 0⟩) s

/-- The level in TRAP_CAUSE.PPRIV (R251); 3 is not produced. -/
def pprivOf (cause : BitVec 64) : Level :=
  match bitsOf cause.toNat 11 2 with
  | 0 => .u | 1 => .s | _ => .h

/-- The trap registers of a handler level (R251). -/
def Core.trapRegs (k : Core) (l : Level) : TrapRegs := if l = .h then k.trapH else k.trapS

/-- RETURN FROM A TRAP (R253): to the level in PPRIV and the bundle at TRAP_PC, which issues 3 cycles
after ERET. A BRK on it is ignored once. The two cycles between count neither in ICYC nor as a
hold (R248). -/
def Core.eret (k : Core) : Core :=
  let r := k.trapRegs k.level
  { k with level := pprivOf r.cause, pc := r.pc, brkSkip := true, entryWait := 2 }

end Sys2Proof.Machine
end

