-- ==== Sys2Proof/Machine/Mem.lean ====
section
/-! DEFINITION. Scratchpads, barrier lines, differentiable ranges and the addresses of HBM: what an
address names and what forbids an access to it (R78, R79, R155-R165, R233, R234). -/

namespace Sys2Proof.Machine

/-! ### Scratchpad -/

/-- Bytes of a scratchpad (R155). -/
def spadSize : Nat := 0x200000

/-- Polders that the bytes [off, off + len) touch. -/
def poldersOf (off len : Nat) : List Nat :=
  if len = 0 then [] else
  (List.range ((off + len - 1) / 65536 + 1 - off / 65536)).map (· + off / 65536)

/-- The first byte of [off, off + len) that lies beyond the scratchpad or in an undeclared polder
(R157). -/
def badPolder (h : KHeader) (off len : Nat) : Option Nat :=
  if spadSize < off + len ∧ spadSize ≤ off then some off
  else
    match (poldersOf off len).find? (fun p => !(h.polders.getLsbD p)) with
    | some p => some (max off (65536 * p))
    | none => if spadSize < off + len then some spadSize else none

/-- A scratchpad offset as TRAP_INFO gives it (R252). -/
def spadInfo (off : Nat) : Word := BitVec.ofNat 64 (off + 2 ^ 63)

/-- A polder of the bytes that another context wrote last: it is pumped first (R115). -/
def foreignPolder (k : Core) (off len : Nat) : Option (Fin 32) :=
  match (poldersOf off len).find? (fun p =>
      if h : p < 32 then (match k.writers[p] with | some w => some w ≠ k.launch | none => false)
      else false) with
  | some p => some (Fin.ofNat 32 p)
  | none => none

/-- A failed line that a read finds (R22, R23): uncorrectable data or a wrong check code. -/
def lineFault (s : State) (dpa : Nat) : Option Cause :=
  match SMap.get 0 s.badLines (dpa / 64) with
  | 0 => none
  | 1 => some .uncorrectable
  | _ => some .checkFail

/-- The offset of the first failed line that the bytes [off, off + len) touch (R21, R23). -/
def Core.failedLine (k : Core) (off len : Nat) : Option Nat :=
  (k.badSpad.find? fun e => decide (64 * e.1 < off + len) && decide (off < 64 * e.1 + 64)).map fun e => 64 * e.1

/-- The offset of the first failed line that a write of [off, off + len) would change in part: its old check code is
checked first (R22). -/
def Core.failedPart (k : Core) (off len : Nat) : Option Nat :=
  (k.badSpad.find? fun e => decide (64 * e.1 < off + len) && decide (off < 64 * e.1 + 64) &&
    !(decide (off ≤ 64 * e.1) && decide (64 * e.1 + 64 ≤ off + len))).map fun e => 64 * e.1

/-- Failed lines that a write of [off, off + len) replaces whole are sound again (R23). -/
def renewed (m : SMap Nat) (off len : Nat) : SMap Nat :=
  SMap.restrict m fun l => !(decide (off ≤ 64 * l) && decide (64 * l + 64 ≤ off + len))

/-- A write or read of the core's own arrays found after the bundle that asked for it (R417). -/
def Core.lateFault (k : Core) (off : Nat) : Core :=
  { k with late := k.late ++ [(.uncorrectable, BitVec.ofNat 64 (off + 2 ^ 63))] }

/-- The byte offset of the first failed word among the bytes [off, off + len) of one of the core's arrays (R21, R23). -/
def Core.failedWord (k : Core) (a : CoreArray) (off len : Nat) : Option Nat :=
  (k.badWords.find? fun e => e.1 = a && decide (4 * e.2 < off + len) && decide (off < 4 * e.2 + 4)).map fun e => 4 * e.2

/-- Failed words that a write of [off, off + len) replaces whole are sound again. -/
def Core.renewWords (k : Core) (a : CoreArray) (off len : Nat) : Core :=
  { k with badWords := k.badWords.filter fun e => !(e.1 = a && decide (off ≤ 4 * e.2) && decide (4 * e.2 + 4 ≤ off + len)) }

/-- A word has failed. -/
def Core.failWord (k : Core) (a : CoreArray) (n : Nat) : Core :=
  { k with badWords := (a, n) :: k.badWords.filter fun e => e ≠ (a, n) }

/-- Write bytes into a scratchpad for a context; it is then the last writer of the polders touched
(R115). -/
def Core.spadWriteBy (k : Core) (who : Option Nat) (off : Nat) (bs : List Byte) : Core :=
  let w := (poldersOf off bs.length).foldl
    (fun (w : Vector (Option Nat) 32) p => if h : p < 32 then w.set p who else w) k.writers
  { k with spad := k.spad.writeBytes off bs, writers := w, badSpad := renewed k.badSpad off bs.length }

/-- Write bytes into a scratchpad for the context on the core. -/
def Core.spadWrite (k : Core) (off : Nat) (bs : List Byte) : Core := k.spadWriteBy k.launch off bs

/-- The bank of a scratchpad offset (R155). -/
def bankOf (off : Nat) : Nat := off / 64 % 32

/-- The banks of [off, off + len). -/
def banksOf (off len : Nat) : BitVec 32 :=
  if len = 0 then 0
  else if 2048 ≤ len then BitVec.allOnes 32
  else ((List.range ((off + len - 1) / 64 + 1 - off / 64)).map (fun i => bankOf (off + 64 * i))).foldl
    (fun (m : BitVec 32) b => m ||| BitVec.ofNat 32 (2 ^ b)) 0

/-! ### Tile configuration (R146) -/

def tcfgRows (c : BitVec 64) : Nat := bitsOf c.toNat 0 8
def tcfgRbytes (c : BitVec 64) : Nat := bitsOf c.toNat 8 8
def tcfgType (c : BitVec 64) : Nat := bitsOf c.toNat 16 4

/-- The tile types of R146. -/
def tileType (n : Nat) : Option Ty :=
  match n with
  | 0 => some .f32 | 1 => some .bf16 | 2 => some .f16 | 3 => some .e4m3 | 4 => some .e5m2
  | 5 => some .e2m1 | 6 => some .s8 | 7 => some .z8 | 13 => some .i4 | _ => none

/-- Element width of a tile's type. -/
def tileWidth (cfg : BitVec 64) : Nat := Ty.width ((tileType (tcfgType cfg)).getD .f32)

/-- Rows and row bytes of the stored matrix: with T, element (i, k) is element (k, i) of it (R378). -/
def storedShape (cfg : BitVec 64) (t : Bool) : Nat × Nat :=
  let w := tileWidth cfg
  if t then (tcfgRbytes cfg * 8 / w, tcfgRows cfg * w / 8) else (tcfgRows cfg, tcfgRbytes cfg)

/-- Blocks of a tile transfer: 16 rows by 16 words of the stored matrix (R158). -/
def tileBlocks (cfg : BitVec 64) (t : Bool) : Nat :=
  (((storedShape cfg t).2 + 63) / 64) * (((storedShape cfg t).1 + 15) / 16)

/-- The tile operand of a CTLD or CTST. -/
def transferTile : Instr → Option (Fin 8)
  | .ctld _ n _ _ => some n
  | .ctst _ n _ _ => some n
  | _ => none

/-- The banks that a tile transfer with a scratchpad end locks from its issue until its bytes have moved: all
of them when its footprint spans two blocks or more (R159). -/
def lockedByCmd (c : EngCmd) : BitVec 32 :=
  match transferTile c.op with
  | none => 0
  | some _ =>
    if c.b.getLsbD 63 && c.ended.isNone then
      let off := bitsOf c.b.toNat 0 21
      let data := if 2 ≤ tileBlocks c.cfg (c.c.getLsbD 0) then BitVec.allOnes 32
        else if c.c.getLsbD 1 then banksOf off 1024
        else banksOf off (tcfgRows c.cfg * tcfgRbytes c.cfg)
      let soff := off + 2 ^ 64 + (bitsOf c.c.toNat 32 32) - (if c.c.getLsbD 63 then 2 ^ 32 else 0)
      if c.c.getLsbD 2 then data ||| banksOf (soff % 2 ^ 64) 512 else data
    else 0

/-- Banks locked on a core by those of its tile transfers that satisfy `p`. -/
def locksOf (s : State) (c : Fin 256) (p : EngCmd → Bool) : BitVec 32 :=
  (s.cmds.filter (fun m => m.core = c && p m)).foldl (fun acc m => acc ||| lockedByCmd m) 0

/-- Where an MSAVE or MLOAD has its 32 KiB (R344). -/
def saveOff : Instr → Option Nat
  | .msave _ h p => some (65536 * p.val + 32768 * h.toNat)
  | .mload _ h p => some (65536 * p.val + 32768 * h.toNat)
  | _ => none

/-- The core's own MSAVE or MLOAD holds all 32 banks from its start to start + 18 (R344). -/
def ownLock (k : Core) : Bool :=
  k.unlocking || match k.mops with
  | op :: _ => k.mprog.started && (saveOff op.op).isSome
  | [] => false

/-- A tile transfer was issued while the MSAVE or MLOAD that is now at work had the banks: it comes after it. -/
def EngCmd.comesAfter (m : EngCmd) (k : Core) : Bool := ownLock k && m.launch = k.launch && m.behind = some k.saves

/-- Banks locked on a core by its tile transfers: not by one that itself waits for them. -/
def lockedBanks (s : State) (c : Fin 256) : BitVec 32 := locksOf s c fun m => !m.comesAfter (s.coreAt c)

/-! ### Barrier lines (R164) -/

/-- The declared polders in ascending order. -/
def declaredPolders (h : KHeader) : List Nat := (List.range 32).filter fun p => h.polders.getLsbD p

/-- Offset of barrier `b`'s line in its core's scratchpad. -/
def barrierOff (h : KHeader) (b : Nat) : Option Nat :=
  if b < h.barriers then
    (declaredPolders h)[b / 16]?.map fun p => 65536 * p + 0xFC00 + 64 * (b % 16)
  else none

/-- The barrier whose line holds offset `off`. -/
def barrierAt (h : KHeader) (off : Nat) : Option Nat :=
  (List.range h.barriers).find? fun b => match barrierOff h b with
    | some o => decide (o ≤ off) && decide (off < o + 64)
    | none => false

/-- Whether the bytes [off, off + len) touch a barrier line (R165). -/
def touchesBarrier (h : KHeader) (off len : Nat) : Bool :=
  (List.range h.barriers).any fun b => match barrierOff h b with
    | some o => decide (o < off + len) && decide (off < o + 64)
    | none => false

/-! ### Differentiable ranges (R233, R234) -/

/-- Whether a range touches a region's primal range. -/
def DiffRegion.touches (r : DiffRegion) (a len : Nat) : Bool :=
  decide (r.base < a + len) && decide (a < r.base + r.len)

/-- Whether a range lies wholly in a region's primal range. -/
def DiffRegion.covers (r : DiffRegion) (a len : Nat) : Bool :=
  decide (r.base ≤ a) && decide (a + len ≤ r.base + r.len)

/-- The region of a space that a range touches first. -/
def regionAt (h : KHeader) (hbm : Bool) (a len : Nat) : Option DiffRegion :=
  h.diffs.find? fun r => r.hbm = hbm && r.touches a len

/-- Whether a range touches the adjoint area of an HBM region. -/
def touchesAdjoint (h : KHeader) (a len : Nat) : Bool :=
  h.diffs.any fun r => r.hbm &&
    (let n := r.len / (Ty.width r.type / 8) * 4
     decide (r.adj < a + len) && decide (a < r.adj + n))
where
  Ty.width : Ty → Nat
  | .f32 => 32
  | _ => 16

/-- Element size of a region (R234). -/
def DiffRegion.esize (r : DiffRegion) : Nat := if r.type = .f32 then 4 else 2

/-- AdjointAddress of R234. -/
def DiffRegion.cell (r : DiffRegion) (p : Nat) : Nat := r.adj + 4 * ((p - r.base) / r.esize)

/-! ### Device physical addresses (R78, R79) -/

def chanOf (dpa : Nat) : Nat := bitsOf dpa 31 8

/-- DPA[39] = 0 and the channel offset below 0x4800_0000 (R79). -/
def mappedDpa (dpa : Nat) : Bool := decide (dpa < 2 ^ 39) && decide (bitsOf dpa 0 31 < 0x48000000)

def lineOf (dpa : Nat) : Nat := dpa / 64

/-- Fold(A) of R78. -/
def foldA (a : Nat) : Nat := (bitsOf a 6 16 ^^^ bitsOf a 22 16) ^^^ bitsOf a 38 1

/-- The slices among which a line's home is chosen (R78): the partition's on the line's die, or all of
its slices; for partition 0 (H mode, PF 0) the non-degraded slices of the line's die. -/
def homeSlices (s : State) (part : Nat) (dpa : Nat) : List Nat :=
  let die := chanOf dpa / 64
  let onDie := (List.range 32).map (· + 32 * die)
  if h : part < 17 then
    if part = 0 then onDie.filter fun k => !(s.degSlices.getLsbD k)
    else
      let own := s.parts[part].slices
      let mine := onDie.filter fun k => own.getLsbD k
      if mine.isEmpty then (List.range 128).filter fun k => own.getLsbD k else mine
  else []

/-- A slice, or the one of its pair where it is degraded (R19). -/
def wholeSlice (s : State) (k : Nat) : Nat :=
  if s.degSlices.getLsbD k then (if k % 2 = 0 then k + 1 else k - 1) else k

/-- The home slice of a line (R78); the lines of a degraded slice are homed in its pair (R19). -/
def homeSlice (s : State) (part dpa : Nat) : Nat :=
  let sl := homeSlices s part dpa
  wholeSlice s (sl.getD (foldA dpa % sl.length) 0)

/-- The die of a line's home: its slice's for an ordinary line, its channel's for a memory-side line
or a compute-capable page (R193). -/
def homeDie (s : State) (part dpa mtype : Nat) : Fin 4 :=
  if mtype = 0 then Fin.ofNat 4 (homeSlice s part dpa / 32) else Fin.ofNat 4 (chanOf dpa / 64)

end Sys2Proof.Machine
end

