-- ==== Sys2Proof/Machine/L2.lean ====
section
/-! DEFINITION. L2 as its lines stand, by owner tag (R90, R166), what an access of a tag sees of memory, and the accounts
of a channel: rows, tokens, counts (R71, R91, R95, R167). -/

namespace Sys2Proof.Machine

/-- A mapped DPA of a channel that is not degraded (R19, R79). -/
def presentDpa (s : State) (dpa : Nat) : Bool := mappedDpa dpa && !(s.degChans.getLsbD (chanOf dpa))

/-! ### Lines (R90) -/

/-- The line of memory that L2 holds under a tag: a lookup hits only a line whose tag is the requester's. -/
def State.l2At (s : State) (tag line : Nat) : Option L2Line :=
  s.l2.find? fun e => e.tag = tag && e.win = none && e.line = line

/-- The expanded line of a memory window that L2 holds under a tag (R173). -/
def State.l2Win (s : State) (tag i line : Nat) : Option L2Line :=
  s.l2.find? fun e => e.tag = tag && e.win = some i && e.line = line

/-- One byte of HBM as an access of a tag sees it. -/
def State.peekByte (s : State) (tag a : Nat) : Byte :=
  match s.l2At tag (a / 64) with
  | some e => e.data.getD (a % 64) 0
  | none => s.mem.read a

/-- Bytes of HBM as an access of a tag sees them: from L2 where it holds the line, else from the channel. -/
def State.peek (s : State) (tag a n : Nat) : List Byte :=
  if s.l2.isEmpty then s.mem.readBytes a n else (List.range n).map fun i => s.peekByte tag (a + i)

/-- The same bytes as a little-endian number (R2). -/
def State.peekLE (s : State) (tag a n : Nat) : Nat := bytesToNat (s.peek tag a n)

/-- Bytes of a memory-side line or a compute-capable page come from the channel, whatever L2 holds (R166, R171). -/
def State.look (s : State) (tag a n : Nat) (side : Bool) : List Byte :=
  if side then s.mem.readBytes a n else s.peek tag a n

def State.lookLE (s : State) (tag a n : Nat) (side : Bool) : Nat := bytesToNat (s.look tag a n side)

/-- A line of L2 with the bytes [a, a + n) of `bs` that fall into it written; one that is written whole is sound (R23). -/
def L2Line.write (e : L2Line) (a : Nat) (bs : List Byte) : L2Line :=
  let data := (List.range 64).map fun j =>
    let x := 64 * e.line + j
    if a ≤ x ∧ x < a + bs.length then bs.getD (x - a) 0 else e.data.getD j 0
  { e with data := data, dirty := true,
           bad := if a ≤ 64 * e.line ∧ 64 * e.line + 64 ≤ a + bs.length then 0 else e.bad }

/-- A line of L2 under a tag is touched by a range. -/
def L2Line.meets (e : L2Line) (tag a n : Nat) : Bool :=
  e.tag = tag && e.win = none && decide (64 * e.line < a + n) && decide (a < 64 * e.line + 64)

/-- The bytes that the channel is left with where a tag writes a range: of lines that L2 holds under it, its own. -/
def State.missedBytes (s : State) (tag a : Nat) (bs : List Byte) : List Byte :=
  bs.zipIdx.map fun (b, i) => if (s.l2At tag ((a + i) / 64)).isSome then s.mem.read (a + i) else b

/-- Write bytes as a tag does: into the lines that L2 holds under it, which are then dirty, else to HBM. A line of HBM that
is replaced whole is sound again (R23). -/
def State.poke (s : State) (tag a : Nat) (bs : List Byte) : State :=
  if s.l2.any (·.meets tag a bs.length) then
    { s with
      l2 := s.l2.map fun e => if e.meets tag a bs.length then e.write a bs else e
      mem := s.mem.writeBytes a (s.missedBytes tag a bs)
      badLines := SMap.restrict s.badLines fun l =>
        !(decide (a ≤ 64 * l) && decide (64 * l + 64 ≤ a + bs.length) && (s.l2At tag l).isNone) }
  else { s with mem := s.mem.writeBytes a bs, badLines := renewed s.badLines a bs.length }

/-- The same past L2 where the line is memory-side or compute-capable (R166). -/
def State.put (s : State) (tag a : Nat) (bs : List Byte) (side : Bool) : State :=
  if side then { s with mem := s.mem.writeBytes a bs, badLines := renewed s.badLines a bs.length } else s.poke tag a bs

/-- Bytes over segments of memory. -/
def State.pokeSegs (s : State) (tag : Nat) : List Seg → List Byte → State
  | [], _ => s
  | g :: rest, bs => State.pokeSegs (s.put tag g.addr (bs.take g.len) g.side) tag rest (bs.drop g.len)

/-- The bytes of segments of memory. -/
def State.peekSegs (s : State) (tag : Nat) (l : List Seg) : List Byte := l.flatMap fun g => s.look tag g.addr g.len g.side

/-- A failed line that an access of a tag meets (R22, R23): L2's own copy, or the channel's where L2 has none. -/
def tagFault (s : State) (tag dpa : Nat) : Option Cause :=
  match s.l2At tag (dpa / 64) with
  | some e => match e.bad with
    | 0 => none
    | 1 => some .uncorrectable
    | _ => some .checkFail
  | none => lineFault s dpa

/-- A line fails: L2's copy under a tag, or the channel's (R21, R23): 1 uncorrectable, 2 a check-code mismatch. -/
def State.failLine (s : State) (tag dpa code : Nat) : State :=
  if (s.l2At tag (dpa / 64)).isSome then
    { s with l2 := s.l2.map fun e => if e.tag = tag ∧ e.win = none ∧ e.line = dpa / 64 then { e with bad := code } else e }
  else { s with badLines := SMap.set 0 s.badLines (dpa / 64) code }

/-- The same for a line that L2 may hold or may not. -/
def sideFault (s : State) (tag dpa : Nat) (side : Bool) : Option Cause :=
  if side then lineFault s dpa else tagFault s tag dpa

/-! ### Counts of a context (R95) -/

/-- Count an event of R95 for a core's context. -/
def Core.count (k : Core) (ev : Fin 16) (n : Nat) : Core :=
  { k with perf := k.perf.set ev (k.perf[ev] + BitVec.ofNat 64 n) }

/-- CRC-32C of bytes 0x0100-0xF7FF of an image (R259). -/
def imageCrcOf (bs : List Byte) : Nat := crc32c ((bs.drop 0x100).take 0xF700)

/-- Count an event of a context: on its core, or in its saved counts and its image (R95, R261). -/
def State.countCtx (s : State) (launch : Option Nat) (c : Fin 256) (ev : Fin 16) (n : Nat) : State :=
  if (s.coreAt c).launch = launch then s.mapCore c fun k => k.count ev n
  else
    match s.saved.find? fun x => some x.launch = launch && x.core = c with
    | none => s
    | some x =>
      let s := { s with saved := s.saved.map fun z =>
        if z.launch = x.launch && z.core = c then { z with ctx := z.ctx.count ev n } else z }
      match x.home with
      | none => s
      | some a =>
        let t := x.ctx.part
        let ok := s.peekLE t (a + 80) 4 = imageCrcOf (s.peek t a 0x10000)
        let o := a + 0x1140 + 8 * ev.val
        let s := s.poke t o (natToBytes 8 (s.peekLE t o 8 + n))
        if ok then s.poke t (a + 80) (natToBytes 4 (imageCrcOf (s.peek t a 0x10000))) else s

/-! ### Rows of a channel (R167) -/

/-- The DRAM row of an access to HBM opens, and closes the one that its bank had open (R167): row + 1,
and the cycle of the latest access, in units of 32,768. -/
def State.openRow (s : State) (dpa : Nat) : State :=
  let bank := 32 * (chanOf dpa % 256) + bitsOf dpa 11 5
  { s with openRows := SMap.set 0 s.openRows bank (bitsOf dpa 16 15 + 1 + 32768 * s.cycle) }

/-! ### Quality of service at a channel (R91, R92) -/

def State.qosAt (s : State) (ch : Fin 256) (part : Nat) : Option QosCount :=
  s.qos.find? fun q => q.chan = ch && q.part = part

def State.updQos (s : State) (ch : Fin 256) (part : Nat) (f : QosCount → QosCount) : State :=
  { s with qos := s.qos.map fun q => if q.chan = ch && q.part = part then f q else q }

/-- The bucket as it stands at a cycle: RC/256 * 0.78125 lines a cycle, 64 lines deep (R91). -/
def QosCount.fillTo (q : QosCount) (cycle : Nat) : QosCount :=
  { q with tokens := min (64 * 8192) (q.tokens + 25 * q.rc * (cycle - q.filled)), filled := cycle }

def bestEffort (s : State) (part : Nat) : Bool :=
  if h : part < 17 then part ≠ 0 && s.parts[part].exists_ && !s.parts[part].critical else false

/-- A best-effort partition has `n` tokens at a channel. -/
def hasTokens (s : State) (ch : Fin 256) (part n : Nat) : Bool :=
  match s.qosAt ch part with
  | some q => !bestEffort s part || decide (n * 8192 ≤ (q.fillTo s.cycle).tokens)
  | none => true

def State.spendTokens (s : State) (ch : Fin 256) (part n : Nat) : State :=
  if bestEffort s part then
    s.updQos ch part fun q => let q := q.fillTo s.cycle; { q with tokens := q.tokens - n * 8192 }
  else s

/-- A request served in a window of a near-bank run (R404). -/
def State.noteWindow (s : State) (ch : Fin 256) : State :=
  match (s.nb[ch]).head? with
  | some r =>
    if r.state = .window then { s with nb := s.nb.set ch ({ r with quiet := s.cycle } :: (s.nb[ch]).drop 1) } else s
  | none => s

/-- A line that a partition reads or writes at a channel (R91, R167): its row opens; a best-effort partition spends a
token; a critical one's read is counted, and whether it took longer than TARGET is a free value, since the model has no
path times. DESIGN CHOICE: log entry 9. -/
def State.channelUse (s : State) (dpa part : Nat) (rd : Bool) : State :=
  let ch : Fin 256 := Fin.ofNat 256 (chanOf dpa)
  let s := (s.openRow dpa).noteWindow ch
  if bestEffort s part then s.spendTokens ch part 1
  else if rd then
    let slow := Config.raceNew s.free
    ({ s with free := s.free + 1 }).updQos ch part fun q =>
      { q with reads := q.reads + 1, late := q.late + slow.toNat }
  else s

/-- A near-bank run holds a channel (R187, R404): from its entry into RUN, outside its windows, to the 56th
cycle after its last boundary. -/
def nbHolds (s : State) (ch : Nat) : Bool :=
  match (s.nb[Fin.ofNat 256 ch]).head? with
  | none => false
  | some r => match r.state with
    | .run | .tokenWait => decide (r.since ≤ s.cycle)
    | .suspending | .resuming => true
    | .finish => decide (s.cycle < r.since + 56)
    | _ => false

/-! ### Who asks (R90) -/

/-- The ways in which a requester may allocate (R90). -/
inductive Alloc where
  /-- Any enabled way: core accesses, table reads, host accesses. -/
  | any
  /-- The ways of the partition's WAYMASK: copy engines and sequencers. -/
  | ways
  /-- None: a no-allocate hint, and the device's own accesses. -/
  | no
  deriving DecidableEq, Repr

/-- A requester: its owner tag, the partition charged, the context whose events count, and where it allocates. -/
structure Req where
  tag   : Nat
  part  : Nat
  ctx   : Option (Option Nat × Fin 256)
  alloc : Alloc
  deriving DecidableEq, Repr

/-- Count an event for a requester's context. -/
def State.note (s : State) (q : Req) (ev : Fin 16) (n : Nat) : State :=
  match q.ctx with
  | some (l, c) => s.countCtx l c ev n
  | none => s

/-- One more corrected error of a unit, not yet in the fault log (R21): key UNIT + 8 * INDEX. -/
def State.noteEcc (s : State) (k : Nat) : State :=
  let e := SMap.get (0, 0) s.ecc k
  { s with ecc := SMap.set (0, 0) s.ecc k (e.1 + 1, if e.1 = 0 then s.cycle else e.2) }

/-- Whether an access of HBM meets an error that is corrected is a free value: it counts for the channel, and for the
requester's context (R21, R95). -/
def State.correctRead (s : State) (q : Req) (dpa : Nat) : State :=
  let found := Config.corrects s.free
  let s := { s with free := s.free + 1 }
  if found then (s.noteEcc (4 + 8 * chanOf dpa)).note q 14 1 else s

/-- A line of HBM read for a requester: the channel, meter 7, event 7 (R71, R91, R95). -/
def State.hbmRead (s : State) (q : Req) (dpa : Nat) : State :=
  ((((s.channelUse dpa q.part true).meter q.part 7 64)).note q 7 1).correctRead q dpa

/-- A line of HBM written for a requester: the channel, meter 8, event 8. -/
def State.hbmWrite (s : State) (q : Req) (dpa : Nat) : State :=
  (((s.channelUse dpa q.part false).meter q.part 8 64)).note q 8 1

/-- The ways of a slice that are whole (R19) and open to a requester (R90): engines allocate in no way of a slice that is
still being cleared (R106). -/
def waysFor (s : State) (q : Req) (slice : Nat) : Nat → Bool := fun w =>
  !(s.degWays.getLsbD (12 * slice + w)) &&
    match q.alloc with
    | .any => true
    | .no => false
    | .ways =>
      if h : q.part < 17 then
        if q.part = 0 then true
        else (s.parts[q.part].waymask).getLsbD w &&
          !(s.rt.toList.any fun r => r.clearing.getLsbD slice && r.clearWays.getLsbD w)
      else false

/-- A core's or an engine's access to an exposed line that the host may have cached: a back-invalidate snoop takes it from
the host first (R49, R95). -/
def State.snoop (s : State) (q : Req) (dpa : Nat) : State :=
  if q.ctx.isSome && SMap.get 0 s.hostLines (dpa / 64) ≠ 0 then
    { s with hostLines := SMap.set 0 s.hostLines (dpa / 64) 0 }.note q 15 1
  else s

/-! ### Replacement: tree pseudo-LRU over 12 ways (R166) -/

/-- The way that a set's tree names among those allowed: at each node the half used longer ago, if it has an allowed
way. DESIGN CHOICE: log entry 38. -/
def treeWay (t : Nat) (ok : Nat → Bool) : Nat → Nat → Nat → Nat → Option Nat
  | 0, _, _, _ => none
  | fuel + 1, node, lo, hi =>
    if hi ≤ lo + 1 then (if ok lo then some lo else none)
    else
      let mid := (lo + hi + 1) / 2
      let l := treeWay t ok fuel (2 * node) lo mid
      let h := treeWay t ok fuel (2 * node + 1) mid hi
      if t.testBit node then h <|> l else l <|> h

/-- The tree after a way's use: each node on its path names the other half. -/
def treeTouch (w : Nat) : Nat → Nat → Nat → Nat → Nat → Nat
  | 0, _, _, _, t => t
  | fuel + 1, node, lo, hi, t =>
    if hi ≤ lo + 1 then t
    else
      let mid := (lo + hi + 1) / 2
      let t0 := if t.testBit node then t - 2 ^ node else t
      if w < mid then treeTouch w fuel (2 * node) lo mid (t0 + 2 ^ node)
      else treeTouch w fuel (2 * node + 1) mid hi t0

/-- The key of a set in the table of trees: 2,048 sets a slice. -/
def setKey (slice set : Nat) : Nat := 2048 * slice + set

/-- A line's use shows in its set's tree. -/
def State.touchWay (s : State) (slice set w : Nat) : State :=
  { s with plru := SMap.set 0 s.plru (setKey slice set) (treeTouch w 5 1 0 12 (SMap.get 0 s.plru (setKey slice set))) }

/-- The set of a line in its home slice: the manual gives 2,048 sets and no index. DESIGN CHOICE: log entry 38. -/
def setOf (line : Nat) : Nat := Config.l2Set line % 2048

/-- The lines of one set of a slice. -/
def State.setLines (s : State) (slice set : Nat) : List L2Line :=
  s.l2.filter fun e => e.slice = slice && e.set = set

/-- The way in which a requester's line is put: one that holds nothing, else the tree's choice. -/
def State.newWay (s : State) (q : Req) (slice set : Nat) : Option Nat :=
  let held := (s.setLines slice set).map (·.way)
  let ok := waysFor s q slice
  match (List.range 12).find? fun w => ok w && !held.contains w with
  | some w => some w
  | none => treeWay (SMap.get 0 s.plru (setKey slice set)) ok 5 1 0 12

/-- The line that a requester's new line would replace. -/
def State.victim (s : State) (q : Req) (slice set : Nat) : Option L2Line :=
  match s.newWay q slice set with
  | none => none
  | some w => (s.setLines slice set).find? (·.way = w)

end Sys2Proof.Machine
end

