-- ==== Sys2Proof/Machine/Xlate.lean ====
section
/-! DEFINITION. Two-stage translation (R83-R89): table walks, combined entries, the TLBs and the
causes of a failed access. -/

namespace Sys2Proof.Machine

/-- Accesses by what they need of a page (R85). -/
inductive AccKind where
  | read | write | atomic
  deriving DecidableEq, Repr

def AccKind.reads : AccKind → Bool
  | .write => false
  | _ => true

def AccKind.writes : AccKind → Bool
  | .read => false
  | _ => true

/-- A leaf found by a walk of one stage: output base, page size and the entry's flags (R84). -/
structure Leaf where
  base  : Nat
  size  : Nat
  rd    : Bool
  wr    : Bool
  so    : Bool
  diff  : Bool
  mtype : Nat
  host  : Bool
  deriving DecidableEq, Repr

/-- What a table entry is at a level (R83, R84). -/
inductive Pte where
  | bad
  | table (addr : Nat)
  | leaf (l : Leaf)
  deriving DecidableEq, Repr

/-- Page size of a leaf at a level (R83). -/
def pageSize (level : Nat) : Nat :=
  match level with
  | 1 => 2 ^ 30 | 2 => 2 ^ 21 | _ => 2 ^ 16

/-- Alignment of the table that a level-n entry points to (R83). -/
def nextTableAlign (level : Nat) : Nat := if level = 2 then 256 else 4096

/-- Read a table entry (R84). `stage2` tells which stage's rules apply; reserved bits set, a broken
alignment or LEAF rule, and a reserved MTYPE make it bad (R85). -/
def parsePte (stage2 : Bool) (level : Nat) (e : Nat) : Pte :=
  let addr := bitsOf e 8 52 * 256
  if !e.testBit 0 || bitsOf e 60 3 ≠ 0 then .bad
  else if e.testBit 1 then
    let mt := bitsOf e 6 2
    if level = 0 || addr % pageSize level ≠ 0 then .bad
    else if stage2 && (e.testBit 4 || e.testBit 5 || mt = 3 || (mt = 2 && level ≠ 2)) then .bad
    else if !stage2 && (mt = 2 || mt = 3 || e.testBit 63) then .bad
    else .leaf { base := addr, size := pageSize level, rd := e.testBit 2, wr := e.testBit 3,
                 so := e.testBit 4, diff := e.testBit 5, mtype := mt, host := e.testBit 63 }
  else if level = 3 || bitsOf e 2 6 ≠ 0 || e.testBit 63 || addr % nextTableAlign level ≠ 0 then .bad
  else .table addr

/-- Index of a level into its table (R83). -/
def levelIndex (level a : Nat) : Nat :=
  match level with
  | 0 => bitsOf a 39 9 | 1 => bitsOf a 30 9 | 2 => bitsOf a 21 9 | _ => bitsOf a 16 5

/-- A cause, with the stage's own reason kept apart from permissions. -/
abbrev XRes (α : Type) := Except Cause α

/-- A stage-2 walk from S2ROOT (R83): three levels, tables at DPAs, read under owner tag 0 (R90). An entry in a failed line
is not used (R23). -/
def walk2 (s : State) (ipa : Nat) : Nat → Nat → Nat → XRes Leaf
  | 0, _, _ => .error .xlateS2
  | fuel + 1, level, table =>
    if table + 4096 ≤ 2 ^ 39 then
      match tagFault s 0 (table + 8 * levelIndex level ipa) with
      | some c => .error c
      | none => match parsePte true level (s.peekLE 0 (table + 8 * levelIndex level ipa) 8) with
        | .bad => .error .xlateS2
        | .leaf l => .ok l
        | .table t => walk2 s ipa fuel (level + 1) t
    else .error .xlateS2

/-- Stage 2 for an IPA: its leaf, or XLATE_S2 (R85). -/
def stage2 (s : State) (part : Nat) (ipa : Nat) : XRes Leaf :=
  if h : part < 17 then walk2 s ipa 3 1 s.parts[part].s2root else .error .xlateS2

/-- A DPA that stage 2 gives must lie in a channel the partition owns, at a mapped offset (R85). -/
def ownedDpa (s : State) (part dpa : Nat) : Bool :=
  if h : part < 17 then
    presentDpa s dpa && s.parts[part].chans.getLsbD (chanOf dpa)
  else false

/-- An IOVA that stage 2 gives must lie in a host IOVA window (R85). -/
def ownedIova (s : State) (part a : Nat) : Bool :=
  if h : part < 17 then
    s.parts[part].iova.any fun r => decide (r.base ≤ a) && decide (a < r.base + r.len)
  else false

/-- Where an IPA lands through a stage-2 leaf. -/
def leafAddr (l : Leaf) (a : Nat) : Nat := l.base + a % l.size

/-- The device reads a table or block at an IPA: stage 2 alone, read permission, device memory
(R84, R172). -/
def ipaToDpa (s : State) (part ipa : Nat) : XRes Nat :=
  match stage2 s part ipa with
  | .error c => .error c
  | .ok l =>
    if !l.rd then .error .xlateS2
    else if l.host then .error .xlateS2
    else if ownedDpa s part (leafAddr l ipa) then .ok (leafAddr l ipa)
    else .error .ownership

/-- A stage-1 walk from IPA 0 (R83): four levels; each table address is an IPA that stage 2
translates (R84). -/
def walk1 (s : State) (part va : Nat) : Nat → Nat → Nat → XRes Leaf
  | 0, _, _ => .error .xlateS1
  | fuel + 1, level, table =>
    match ipaToDpa s part (table + 8 * levelIndex level va) with
    | .error c => .error c
    | .ok d => match tagFault s part d with
      | some c => .error c
      | none => match parsePte false level (s.peekLE part d 8) with
      | .bad => .error .xlateS1
      | .leaf l => if l.base + l.size ≤ 2 ^ 39 then .ok l else .error .xlateS1
      | .table t => if t < 2 ^ 39 then walk1 s part va fuel (level + 1) t else .error .xlateS1

/-- The combined entry of a VA (R85): the smaller page, compute-capable if stage 2 says so, memory-side
if either does. DIFF on a compute-capable or host page is a stage-1 fault. -/
def walk (s : State) (part va : Nat) : XRes TlbEntry :=
  if 2 ^ 48 ≤ va then .error .xlateS1
  else
    match walk1 s part va 4 0 0 with
    | .error c => .error c
    | .ok l1 =>
      let ipa := leafAddr l1 va
      match stage2 s part ipa with
      | .error c => .error c
      | .ok l2 =>
        let size := min l1.size l2.size
        let mt := if l2.mtype = 2 then 2 else if l1.mtype = 1 ∨ l2.mtype = 1 then 1 else 0
        if l1.diff && (mt = 2 || l2.host) then .error .xlateS1
        else
          .ok { part := part, vbase := va - va % size, size := size,
                base := leafAddr l2 ipa - va % size, host := l2.host, rd := l1.rd, wr := l1.wr,
                rd2 := l2.rd, wr2 := l2.wr, so := l1.so, diff := l1.diff, mtype := mt,
                ibase := ipa - va % size }

/-- A TLB entry serves a VA of its partition. -/
def TlbEntry.hits (t : TlbEntry) (part va : Nat) : Bool :=
  t.part = part && decide (t.vbase ≤ va) && decide (va < t.vbase + t.size)

/-- Where an access lands. -/
structure Phys where
  addr  : Nat
  host  : Bool
  diff  : Bool
  mtype : Nat
  deriving DecidableEq, Repr

/-- Check an entry against an access (R85): a permission that the stage-1 leaf denies is XLATE_S1, one
that only stage 2 denies XLATE_S2; then the window or the channel. -/
def TlbEntry.check (t : TlbEntry) (s : State) (level : Level) (kind : AccKind) (va : Nat) : XRes Phys :=
  let a := t.base + (va - t.vbase)
  if (kind.reads && !t.rd) || (kind.writes && !t.wr) || (t.so && level = .u) then .error .xlateS1
  else if (kind.reads && !t.rd2) || (kind.writes && !t.wr2) then .error .xlateS2
  else if t.host then
    if ownedIova s t.part a then .ok ⟨a, true, t.diff, t.mtype⟩ else .error .xlateS2
  else if ownedDpa s t.part a then .ok ⟨a, false, t.diff, t.mtype⟩ else .error .ownership

/-- Look a VA up: the core's L1 TLB, its quad's L2 TLB, a walk (R86). The entry, whether the L1 missed
and whether both missed. -/
def lookup (s : State) (c : Fin 256) (part va : Nat) : XRes (TlbEntry × Bool × Bool) :=
  match (s.coreAt c).l1tlb.find? (·.hits part va) with
  | some t => .ok (t, false, false)
  | none =>
    match s.l2tlb[quadOf c].find? (·.hits part va) with
    | some t => .ok (t, true, false)
    | none => match walk s part va with
      | .ok t => .ok (t, true, true)
      | .error e => .error e

/-- The cause of an access that finds no translation: a denial of the stage-1 leaf comes before what stage 2 finds
(R85). DEDUCED: log entry 31. -/
def missCause (s : State) (part : Nat) (level : Level) (kind : AccKind) (va : Nat) (e : Cause) : Cause :=
  match walk1 s part va 4 0 0 with
  | .ok l => if (kind.reads && !l.rd) || (kind.writes && !l.wr) || (l.so && level = .u) then .xlateS1 else e
  | .error _ => e

/-- Translate an access of a core at U or S. -/
def translate (s : State) (c : Fin 256) (part : Nat) (level : Level) (kind : AccKind) (va : Nat) : XRes Phys :=
  if 2 ^ 48 ≤ va then .error .xlateS1 else
  match lookup s c part va with
  | .error e => .error (missCause s part level kind va e)
  | .ok (t, _, _) => t.check s level kind va

/-- The table reads of a stage-2 walk (R83, R86). -/
def reads2 (s : State) (ipa : Nat) : Nat → Nat → Nat → List Nat
  | 0, _, _ => []
  | fuel + 1, level, table =>
    if table + 4096 ≤ 2 ^ 39 then
      let d := table + 8 * levelIndex level ipa
      d :: match parsePte true level (s.peekLE 0 d 8) with
        | .table t => reads2 s ipa fuel (level + 1) t
        | _ => []
    else []

def stage2Reads (s : State) (part ipa : Nat) : List (Nat × Nat) :=
  if h : part < 17 then (reads2 s ipa 3 1 s.parts[part].s2root).map fun d => (0, d) else []

/-- The table reads of a walk (R86), each with its owner tag (R90): stage 2 for each stage-1 entry, the entry, and stage
2 for the page. -/
def reads1 (s : State) (part va : Nat) : Nat → Nat → Nat → List (Nat × Nat)
  | 0, _, _ => []
  | fuel + 1, level, table =>
    let ipa := table + 8 * levelIndex level va
    stage2Reads s part ipa ++ match ipaToDpa s part ipa with
      | .error _ => []
      | .ok d => (part, d) :: match parsePte false level (s.peekLE part d 8) with
        | .bad => []
        | .leaf l => stage2Reads s part (leafAddr l va)
        | .table t => reads1 s part va fuel (level + 1) t

def walkReads (s : State) (part va : Nat) : List (Nat × Nat) := reads1 s part va 4 0 0

/-- A TLB of so many sets of eight ways takes an entry: the oldest of a full set leaves (R86). -/
def tlbInsert (t : TlbEntry) (l : List TlbEntry) : List TlbEntry :=
  if l.contains t then l
  else
    let same (e : TlbEntry) : Bool := Config.tlbSet e.vbase % 2048 = Config.tlbSet t.vbase % 2048
    if l.length < 8 then t :: l
    else if (l.filter same).length < 8 then t :: l
    else t :: (l.reverse.eraseP same).reverse

/-- A quad's L2 TLB takes an entry. -/
def State.fillL2Tlb (s : State) (q : Fin 64) (t : TlbEntry) : State :=
  { s with l2tlb := s.l2tlb.set q (tlbInsert t s.l2tlb[q]) }

/-- A walk completes: its combined translation fills the TLBs, 512 entries in the L1, the oldest leaving, and 16,384 in the
L2, eight ways to a set (R86). -/
def fillTlb (s : State) (c : Fin 256) : State :=
  match (s.coreAt c).walks with
  | [] => s
  | w :: ws =>
    (s.mapCore c fun k => { k with walks := ws, l1tlb := (w.entry :: k.l1tlb).take 512 }).fillL2Tlb (quadOf c) w.entry

/-- Translations of a partition and an IPA range leave every TLB and walker (R88). -/
def dropTlb (s : State) (p : TlbEntry → Bool) : State :=
  { s with
    cores := s.cores.map fun k =>
      { k with l1tlb := k.l1tlb.filter (fun t => !p t), walks := k.walks.filter (fun w => !p w.entry) }
    l2tlb := s.l2tlb.map fun l => l.filter fun t => !p t
    seqTlb := s.seqTlb.map fun l => l.filter fun t => !p t }

/-- A copy engine's entry for a VA: its quad's L2 TLB, else a walk (R86); and whether it missed. -/
def lookupQuad (s : State) (q : Fin 64) (part va : Nat) : XRes (TlbEntry × Bool) :=
  match s.l2tlb[q].find? (·.hits part va) with
  | some t => .ok (t, false)
  | none => (walk s part va).map fun t => (t, true)

/-- A sequencer's entry for a VA: its own TLB, else a walk (R86). -/
def lookupSeq (s : State) (q : Fin 20) (part va : Nat) : XRes (TlbEntry × Bool) :=
  match s.seqTlb[q].find? (·.hits part va) with
  | some t => .ok (t, false)
  | none => (walk s part va).map fun t => (t, true)

/-- Check what a lookup found against an access. -/
def checkFound (s : State) (part : Nat) (level : Level) (kind : AccKind) (va : Nat) (r : XRes (TlbEntry × Bool)) :
    XRes Phys :=
  if 2 ^ 48 ≤ va then .error .xlateS1 else
  match r with
  | .error e => .error (missCause s part level kind va e)
  | .ok (t, _) => t.check s level kind va

/-- A sequencer's TLB takes an entry: 64, the oldest leaving (R86). -/
def State.fillSeqTlb (s : State) (q : Fin 20) (t : TlbEntry) : State :=
  { s with seqTlb := s.seqTlb.set q ((t :: s.seqTlb[q]).take 64) }

/-- A read or write of the device itself at a VA of a partition, with no TLB of its own (R86). -/
def translateEngine (s : State) (part : Nat) (level : Level) (kind : AccKind) (va : Nat) : XRes Phys :=
  match walk s part va with
  | .error e => .error (missCause s part level kind va e)
  | .ok t => t.check s level kind va

/-! ### Memory windows (R172) -/

/-- The lowest enabled window whose range, its scale view included, holds a VA. -/
def windowAt (s : State) (part va : Nat) : Option (Nat × Window) :=
  if h : part < 17 then
    let ws := s.parts[part].windows
    (List.range ws.length).findSome? fun i =>
      match ws.getD i none with
      | some w =>
        let len := if w.efmt = 2 then w.wlen + w.wlen / 32 else w.wlen
        if w.wbase ≤ va ∧ va < w.wbase + len then some (i, w) else none
      | none => none
  else none

end Sys2Proof.Machine
end

