-- ==== Sys2Proof/Machine/Window.lean ====
section
/-! DEFINITION. Memory windows at the channel controllers (R172-R174): decoding of stored elements on
a read, encoding of whole blocks on a write. -/

namespace Sys2Proof.Machine

/-- Read bytes at a VA for a window: both stages, as an engine does. -/
def readVa (s : State) (part : Nat) (va n : Nat) : XRes Nat :=
  match translateEngine s part .s .read va with
  | .error c => .error c
  | .ok p =>
    if p.host then .ok (s.hostMem.readLE p.addr n)
    else match sideFault s part p.addr (p.mtype ≠ 0) with
      | some c => .error c
      | none => .ok (s.lookLE part p.addr n (p.mtype ≠ 0))

/-- The stored code of element `e` (R173, R223). -/
def storedCode (s : State) (part : Nat) (w : Window) (e : Nat) : XRes Nat :=
  if w.sfmt = 3 then readVa s part (w.sbase + e) 1
  else match readVa s part (w.sbase + e / 2) 1 with
    | .error c => .error c
    | .ok b => .ok (if e % 2 = 0 then b % 16 else b / 16)

/-- The block scale byte of element `e`: per 64 elements for Q16N, per 32 otherwise (R172). -/
def storedScale (s : State) (part : Nat) (w : Window) (e : Nat) : XRes Nat :=
  readVa s part (w.scale + e / (if w.sfmt = 1 then 64 else 32)) 1

/-- The group scale of element `e` (R172). -/
def groupScale (s : State) (part : Nat) (w : Window) (e : Nat) : XRes Val :=
  if w.sfmt = 1 then
    match readVa s part (w.gscale + 4 * (e / 16384)) 4 with
    | .error c => .error c
    | .ok b => .ok (fp32.decode b)
  else .ok (.fin false 1 1 0)

/-- Element `e` decoded, and whether its code is the reserved one under TRAPCODE (R173). -/
def windowElem (s : State) (part : Nat) (w : Window) (e : Nat) : XRes (Val × Bool) :=
  match storedCode s part w e, storedScale s part w e, groupScale s part w e with
  | .ok c, .ok q, .ok g =>
    match w.sfmt with
    | 1 =>
      if c = 8 then .ok (.fin false 0 1 0, w.trapcode)
      else .ok (q16Val c q g, false)
    | 2 => .ok ((e2m1.decode c).withScale q, false)
    | _ => .ok ((e4m3.decode c).withScale q, false)
  | .error x, _, _ => .error x
  | _, .error x, _ => .error x
  | _, _, .error x => .error x

/-- Elements `e` to `e + n - 1`, and whether any code is reserved under TRAPCODE. -/
def windowElems (s : State) (part : Nat) (w : Window) (e : Nat) : Nat → XRes (List Val × Bool)
  | 0 => .ok ([], false)
  | n + 1 =>
    match windowElem s part w e, windowElems s part w (e + 1) n with
    | .ok (v, r), .ok (vs, rs) => .ok (v :: vs, r || rs)
    | .error x, _ => .error x
    | _, .error x => .error x

/-- The code a conversion gives; NaN scale and overflow do not arise under SAT with a NaN code. -/
def Conv.get : Conv → Nat
  | .code c => c
  | _ => 0

/-- One byte of the expanded view (R173). -/
def windowByte (s : State) (part : Nat) (w : Window) (off : Nat) : XRes (Byte × Bool) :=
  if w.efmt = 1 then
    match windowElem s part w (off / 2) with
    | .error x => .error x
    | .ok (v, r) =>
      .ok (BitVec.ofNat 8 ((bf16.convert .rne .sat v).get / 2 ^ (8 * (off % 2))), r)
  else
    let e := if off < w.wlen then off else 32 * (off - w.wlen)
    match windowElems s part w (e - e % 32) 32 with
    | .error x => .error x
    | .ok (vs, r) =>
      let x := mxExponent 8 vs
      if off < w.wlen then
        .ok (BitVec.ofNat 8 (e4m3.convert .rne .sat ((vs.getD (e % 32) .nan).scale (-x))).get, r)
      else .ok (BitVec.ofNat 8 (x + 127).toNat, r)

/-- `n` bytes of the expanded view from `off`. -/
def windowBytes (s : State) (part : Nat) (w : Window) (off : Nat) : Nat → XRes (List Byte × Bool)
  | 0 => .ok ([], false)
  | n + 1 =>
    match windowByte s part w off, windowBytes s part w (off + 1) n with
    | .ok (b, r), .ok (bs, rs) => .ok (b :: bs, r || rs)
    | .error x, _ => .error x
    | _, .error x => .error x

/-- Write one byte at a VA as the window's controller does. -/
def writeVa (s : State) (part : Nat) (va : Nat) (b : Byte) : State :=
  match translateEngine s part .s .write va with
  | .error _ => s
  | .ok p => if p.host then { s with hostMem := s.hostMem.write p.addr b } else s.put part p.addr [b] (p.mtype ≠ 0)

/-- Write the code of element `e`. -/
def writeCode (s : State) (part : Nat) (w : Window) (e c : Nat) : State :=
  if w.sfmt = 3 then writeVa s part (w.sbase + e) (BitVec.ofNat 8 c)
  else
    let va := w.sbase + e / 2
    match readVa s part va 1 with
    | .error _ => s
    | .ok old =>
      writeVa s part va (BitVec.ofNat 8
        (if e % 2 = 0 then old / 16 * 16 + c % 16 else c % 16 * 16 + old % 16))

/-- |x|, for finite values, as a ratio compared through cross products: the largest of a list. -/
def amaxOf (vs : List Val) : Val :=
  vs.foldl (fun m v => if v.isFin then (match Val.cmp m v.abs with | some .lt => v.abs | _ => m) else m)
    (.fin false 0 1 0)

/-- The Q16N code whose value is nearest, ties to the even code (R174). -/
def q16Nearest (v : Val) (q : Nat) (g : Val) : Nat :=
  match v with
  | .nan => 8
  | .inf s => (if s then 15 else 7)
  | .fin s _ _ _ =>
    let a := v.abs
    -- distance of |x| from each magnitude, exactly
    let dist (c : Nat) : Val := (Val.add false a ((q16Val c q g).abs.neg)).abs
    let best := (List.range 8).foldl (fun b c =>
      match Val.cmp (dist c) (dist b) with
      | some .lt => c
      | some .eq => if c % 2 = 0 ∧ b % 2 = 1 then c else b
      | _ => b) 0
    if best = 0 then 0 else (if s then 8 + best else best)

/-- Ceil(255 * amax / S), at most 255; zero when amax is 0 or S is not above 0 (R174). -/
def q16Scale (vs : List Val) (g : Val) : Nat :=
  match amaxOf vs, g with
  | .fin _ n d e, .fin false m c h =>
    if n = 0 ∨ m = 0 then 0
    else
      let (a, b) := shiftRatio (255 * n * c) (d * m) (e - h)
      min 255 ((a + b - 1) / b)
  | _, _ => 0

/-- Encode one block of 64 elements starting at `e` (R174). -/
def encodeBlock (s : State) (part : Nat) (w : Window) (e : Nat) (vs : List Val) : State :=
  if w.sfmt = 1 then
    match groupScale s part w e with
    | .error _ => s
    | .ok g =>
      let q := q16Scale vs g
      let s := writeVa s part (w.scale + e / 64) (BitVec.ofNat 8 q)
      (List.range 64).foldl (fun s i => writeCode s part w (e + i) (q16Nearest (vs.getD i .nan) q g)) s
  else
    let f := if w.sfmt = 2 then e2m1 else e4m3
    let emax : Int := if w.sfmt = 2 then 2 else 8
    [0, 32].foldl (fun s o =>
      let half := (vs.drop o).take 32
      let x := mxExponent emax half
      let conv (v : Val) : Conv := f.convert .rne .sat (v.scale (-x))
      let bad := half.any fun v => conv v = .nanScale
      let s := writeVa s part (w.scale + (e + o) / 32)
        (if bad then 255 else BitVec.ofNat 8 (x + 127).toNat)
      (List.range 32).foldl (fun s i =>
        writeCode s part w (e + o + i) (conv (half.getD i .nan)).get) s) s

/-- Addresses of the stored bytes of the block of 64 elements at `e`: its codes, its scales, its group scale (R172). -/
def blockVas (w : Window) (e : Nat) : List Nat :=
  [w.sbase + (if w.sfmt = 3 then e else e / 2), w.scale + e / (if w.sfmt = 1 then 64 else 32)] ++
    (if w.sfmt = 1 then [w.gscale + 4 * (e / 16384)] else [])

/-- What keeps a block from being encoded: a code or scale byte with no write translation, or a failed line that it would
change in part (R22). -/
def blockFault (s : State) (part : Nat) (w : Window) (e : Nat) : Option (Cause × Nat) :=
  ((blockVas w e).take 2).findSome? fun va =>
    match translateEngine s part .s .write va with
    | .error c => some (c, va)
    | .ok p => if p.host then none else (sideFault s part p.addr (p.mtype ≠ 0)).map fun c => (c, va)

/-- Encode what an expanded range of bytes changes (R174): each block of 64 elements they touch is decoded, changed and
encoded again. A block whose stored bytes cannot be written is logged and left. DEDUCED: log entry 39. -/
def windowWrite (s : State) (part : Nat) (w : Window) (off : Nat) (bs : List Byte) : State :=
  let esz := if w.efmt = 1 then 2 else 1
  let first := off / (64 * esz)
  let last := (off + bs.length - 1) / (64 * esz)
  if bs.isEmpty || w.wlen < off + bs.length then s else
  (List.range (last + 1 - first)).foldl (fun s i =>
    let blk := first + i
    let e0 := 64 * blk
    match blockFault s part w e0 with
    | some (c, va) =>
      s.logUnit c (if c.cls = .toH then 2 else 0) part 3 (homeSlice s part va) 0 (BitVec.ofNat 64 va) 0
    | none =>
    match windowBytes s part w (e0 * esz) (64 * esz), windowElems s part w e0 64 with
    | .ok (old, _), .ok (ovs, _) =>
      let new := (List.range (64 * esz)).map fun j =>
        let p := e0 * esz + j
        if off ≤ p ∧ p < off + bs.length then bs.getD (p - off) 0 else old.getD j 0
      let vs := (List.range 64).map fun j =>
        let p := (e0 + j) * esz
        if off < p + esz ∧ p < off + bs.length then
          if esz = 2 then bf16.decode (fieldLE new (2 * j) 2)
          else
            -- an element of the E4M3 view under the scale of its granule
            let x := mxExponent 8 ((ovs.drop (j / 32 * 32)).take 32)
            (e4m3.decode (fieldLE new j 1)).scale x
        else ovs.getD j .nan
      encodeBlock s part w e0 vs
    | .error c, _ =>
      s.logUnit c (if c.cls = .toH then 2 else 0) part 3 (homeSlice s part (w.wbase + off)) 0 (BitVec.ofNat 64 (w.wbase + off)) 0
    | _, _ => s) s

/-- The first element whose stored bytes an expanded byte comes from. -/
def elemAt (w : Window) (off : Nat) : Nat :=
  if w.efmt = 1 then off / 2 else if off < w.wlen then off else 32 * (off - w.wlen)

/-- The elements at the two ends of what an access reads: one of the scale view reads whole granules (R172). -/
def accessElems (w : Window) (off len : Nat) : List Nat :=
  if off < w.wlen then [elemAt w off] else [elemAt w off, elemAt w (off + len - 1) + 31]

/-- A window of a partition. -/
def windowNo (s : State) (part i : Nat) : Option Window :=
  if h : part < 17 then (s.parts[part].windows).getD i none else none

/-- What an access of a tag sees through a window (R173, R174): the expanded line that L2 holds, else the stored bytes
decoded; and whether a code is the reserved one under TRAPCODE. -/
def windowView (s : State) (tag part i : Nat) (w : Window) (va n : Nat) : XRes (List Byte × Bool) :=
  match s.l2Win tag i (va / 64) with
  | some e => match e.bad with
    | 0 => .ok ((e.data.drop (va % 64)).take n, false)
    | 1 => .error .uncorrectable
    | _ => .error .checkFail
  | none => windowBytes s part w (va - w.wbase) n

end Sys2Proof.Machine
end

