-- ==== Sys2Proof/Machine/Cache.lean ====
section
/-! DEFINITION. What an access does to L2 and to its channel (R90, R91, R95, R166, R173, R174): hits, fills, replacement,
write-back, and the walks whose table reads L2 allocates (R86). -/

namespace Sys2Proof.Machine

/-! ### Write-back -/

/-- The stored bytes' addresses of an expanded line, where they translate. -/
def storedPlaces (s : State) (part : Nat) (w : Window) (va : Nat) : List Nat :=
  (blockVas w (elemAt w (va - w.wbase))).filterMap fun a =>
    match translateEngine s part .s .read a with
    | .ok p => if p.host then none else some p.addr
    | .error _ => none

/-- A line leaves L2 (R166): a dirty one is written back, an expanded one by encoding it (R174). The requester whose access
replaces it counts the write-back; the bytes are its owner's. -/
def State.writeBack (s : State) (q : Req) (e : L2Line) : State :=
  if !e.dirty then s
  else
    let s := s.note q 2 1
    match e.win with
    | none =>
      let s := { s with mem := s.mem.writeBytes (64 * e.line) e.data, badLines := SMap.set 0 s.badLines e.line e.bad }
      s.hbmWrite { q with part := e.tag } (64 * e.line)
    | some i =>
      match windowNo s e.tag i with
      | some w =>
        let s := (storedPlaces s e.tag w (64 * e.line)).foldl (fun s a => s.hbmWrite { q with part := e.tag } a) s
        windowWrite s e.tag w (64 * e.line - w.wbase) e.data
      | none => s

/-- Lines leave L2, dirty ones written back. -/
def State.flushLines (s : State) (q : Req) (p : L2Line → Bool) : State :=
  let es := s.l2.filter p
  let s := { s with l2 := s.l2.filter fun e => !p e }
  es.foldl (fun s e => s.writeBack q e) s

/-- Lines leave L2 with nothing written back: their memory is zeroed. -/
def State.dropLines (s : State) (p : L2Line → Bool) : State := { s with l2 := s.l2.filter fun e => !p e }

/-! ### Accesses of one line -/

/-- How an access uses a line: a read, a write of a part of it, a write of all of it, a read and write at once. -/
inductive LineUse where
  | read | part | full | atomic
  deriving DecidableEq, Repr

/-- A line of L2 as an allocation finds its way: its slice, its set, and the lines that stand there. -/
def placeOf (s : State) (q : Req) (a : Nat) : Nat × Nat := (homeSlice s q.tag a, setOf (a / 64))

/-- A new line takes its way; the one that stood there leaves (R166). -/
def State.allocate (s : State) (q : Req) (win : Option Nat) (a : Nat) (data : List Byte) (bad : Nat) : State :=
  let (slice, set) := placeOf s q a
  match s.newWay q slice set with
  | none => s
  | some w =>
    let s := s.flushLines q fun e => e.slice = slice && e.set = set && e.way = w
    let e : L2Line := ⟨q.tag, slice, set, w, win, a / 64, data, false, bad⟩
    ({ s with l2 := e :: s.l2 }).touchWay slice set w

/-- An access at the channel itself. -/
def State.channelAccess (s : State) (q : Req) (dpa : Nat) (u : LineUse) : State :=
  match u with
  | .read => s.hbmRead q dpa
  | .atomic => (s.hbmRead q dpa).hbmWrite q dpa
  | _ => s.hbmWrite q dpa

/-- An access of a line of HBM (R90, R91, R95, R166): a hit touches its set's tree; a miss reads the line from its channel,
unless it is written whole, and allocates where the requester may. What bypasses L2 goes to the channel. -/
def State.access (s : State) (q : Req) (dpa : Nat) (side : Bool) (u : LineUse) : State :=
  let s := s.snoop q dpa
  if side then s.channelAccess q dpa u
  else match s.l2At q.tag (dpa / 64) with
  | some e => (s.note q 0 1).touchWay e.slice e.set e.way
  | none =>
    let s := s.note q 1 1
    let line := dpa / 64 * 64
    match s.newWay q (placeOf s q line).1 (placeOf s q line).2 with
    | none => s.channelAccess q dpa u
    | some _ =>
      let s := if u = .full then s else s.hbmRead q dpa
      if u ≠ .full && (lineFault s dpa).isSome then s
      else s.allocate q none line (s.mem.readBytes line 64) 0

/-- An access of an expanded line (R173): a miss builds it from its stored line; one that holds a code that traps, or that
cannot be built, does not enter L2. -/
def State.accessWin (s : State) (q : Req) (i : Nat) (w : Window) (va : Nat) : State :=
  let s := (storedPlaces s q.part w va).foldl (fun s a => s.snoop q a) s
  match s.l2Win q.tag i (va / 64) with
  | some e => (s.note q 0 1).touchWay e.slice e.set e.way
  | none =>
    let s := s.note q 1 1
    let line := va / 64 * 64
    let s := (storedPlaces s q.part w va).foldl (fun s a => s.hbmRead q a) s
    match windowBytes s q.part w (line - w.wbase) 64 with
    | .ok (bs, false) => s.allocate q (some i) line bs 0
    | _ => s

/-- Write bytes of an expanded line (R174): into L2 where it holds the line, else encoded at once. -/
def State.pokeWin (s : State) (q : Req) (i : Nat) (w : Window) (va : Nat) (bs : List Byte) : State :=
  match s.l2Win q.tag i (va / 64) with
  | some _ =>
    { s with l2 := s.l2.map fun e =>
        if e.tag = q.tag ∧ e.win = some i ∧ e.line = va / 64 then e.write va bs else e }
  | none =>
    let s := (storedPlaces s q.part w va).foldl (fun s a => s.hbmWrite q a) s
    windowWrite s q.part w (va - w.wbase) bs

/-! ### What an access waits for (R91, R187) -/

/-- The channels that an access of a line uses: none where L2 answers, its own on a miss, that of a dirty line that it
replaces. -/
def accessChans (s : State) (q : Req) (dpa : Nat) (side : Bool) (u : LineUse) : List (Fin 256) :=
  let own : Fin 256 := Fin.ofNat 256 (chanOf dpa)
  if side then [own]
  else match s.l2At q.tag (dpa / 64) with
  | some _ => []
  | none =>
    let (slice, set) := placeOf s q dpa
    match s.newWay q slice set with
    | none => [own]
    | some _ =>
      (if u = .full then [] else [own]) ++ match s.victim q slice set with
        | some e => if e.dirty && e.win = none then [Fin.ofNat 256 (chanOf (64 * e.line))] else []
        | none => []

/-- The channels that an access through a window uses. -/
def winChans (s : State) (q : Req) (i : Nat) (w : Window) (va : Nat) : List (Fin 256) :=
  match s.l2Win q.tag i (va / 64) with
  | some _ => []
  | none => (storedPlaces s q.part w va).map fun a => Fin.ofNat 256 (chanOf a)

/-- A channel keeps a request of `n` lines waiting: a near-bank run holds it (R187), or the partition has fewer tokens there
(R91). -/
def chanBusy (s : State) (part n : Nat) (ch : Fin 256) : Bool :=
  nbHolds s ch.val || (bestEffort s part && !hasTokens s ch part n)

/-- The first of the channels at which a request waits: each stands in the list once for each of its lines, of which a
full bucket serves 64. -/
def busyChan (s : State) (part : Nat) (l : List (Fin 256)) : Option (Fin 256) :=
  l.find? fun ch => chanBusy s part (min 64 (l.count ch)) ch

/-- A request for a line waits at a channel. -/
def reqWaits (s : State) (q : Req) (dpa : Nat) (side : Bool) (u : LineUse) : Bool :=
  (busyChan s q.part (accessChans s q dpa side u)).isSome

/-! ### Walks (R86, R95) -/

/-- The table reads of a walk, each through L2 under its tag (R86, R90). -/
def State.tableReads (s : State) (q : Req) (part va : Nat) : State :=
  (walkReads s part va).foldl (fun s (x : Nat × Nat) =>
    s.access { q with tag := x.1, alloc := .any } x.2 false .read) s

/-- A walk is made (R86): its table reads, events 5 and 6 (R95). -/
def State.walkFor (s : State) (q : Req) (part va : Nat) : State :=
  let s := (s.note q 5 1).note q 6 (Config.walkCycles s.free)
  ({ s with free := s.free + 1 }).tableReads q part va

/-- Another core's walk of the partition for the same 64 KiB VA is under way (R86). -/
def walkUnderWay (s : State) (die : Fin 4) (part va : Nat) : Bool :=
  (s.cores.toList.zip allCores).any fun (e : Core × Fin 256) =>
    dieOf e.2 = die && e.1.walks.any fun w => w.entry.part = part && w.page = va / 65536

/-- A core's access of a VA: a miss leaves a walk whose translation will fill the TLBs, and counts; a walk for the same
64 KiB VA already under way on the die serves it (R86, R95). -/
def noteMiss (s : State) (c : Fin 256) (part va : Nat) : State :=
  let q : Req := ⟨part, part, some ((s.coreAt c).launch, c), .any⟩
  match lookup s c part va with
  | .ok (t, l1miss, l2miss) =>
    if !l1miss then s
    else
      let own := l2miss && !walkUnderWay s (dieOf c) part va
      let s := s.note q 3 1
      let s := if l2miss then s.note q 4 1 else s
      let s := if own then s.walkFor q part va else s
      s.mapCore c fun k => { k with walks := k.walks ++ [⟨t, va / 65536, own⟩] }
  | .error _ => ((s.note q 3 1).note q 4 1).walkFor q part va

/-- A copy engine's access of a VA: a miss in its quad's L2 TLB is a walk that fills it (R86, R95). -/
def State.noteQuad (s : State) (q : Req) (c : Fin 256) (part va : Nat) : State :=
  match lookupQuad s (quadOf c) part va with
  | .ok (t, miss) => if miss then ((s.note q 4 1).walkFor q part va).fillL2Tlb (quadOf c) t else s
  | .error _ => (s.note q 4 1).walkFor q part va

/-- A sequencer's access of a VA: a miss in its TLB is a walk that fills it (R86, R95). -/
def State.noteSeq (s : State) (q : Req) (p : Fin 20) (part va : Nat) : State :=
  match lookupSeq s p part va with
  | .ok (t, miss) => if miss then (s.walkFor q part va).fillSeqTlb p t else s
  | .error _ => s.walkFor q part va

end Sys2Proof.Machine
end

