-- ==== Sys2Proof/Machine/Access.lean ====
section
/-! DEFINITION. Accesses on their way to their homes and there (R171, R193-R204): clocks, per-location
order, combining entries, atomics, and the arrival of load data. -/

namespace Sys2Proof.Machine

/-! ### Clocks (R201) -/

def Clk.max (a b : Clk) : Clk := Vector.zipWith Nat.max a b

def Clk.le (a b : Clk) : Bool := (Vector.zipWith (fun x y => decide (x ≤ y)) a b).toList.all id

/-- The largest n such that every write of die `d` numbered n or less has been performed. -/
def performedPrefix (s : State) (d : Fin 4) : Nat :=
  let pending := (s.memq.filter fun o => dieOf o.core = d && o.num ≠ 0 && o.result.isNone).map (·.num)
  match pending with
  | [] => s.dieNum[d]
  | n :: ns => ns.foldl Nat.min n - 1

/-- Die `d` sees the prefix of its own writes. -/
def State.seePerformed (s : State) (d : Fin 4) : State :=
  { s with perf := s.perf.set d ((s.perf[d]).set d (performedPrefix s d)) }

/-- A broadcast of die `d`: its performed prefix reaches the other dies (R201). -/
def State.broadcast (s : State) (d : Fin 4) : State :=
  let n := performedPrefix s d
  { s with perf := s.perf.map fun v => v.set d n }

/-- Number a write of a core (R201): its clock is WC as it stood before, and WC's own entry becomes
the number. -/
def State.numberWrite (s : State) (c : Fin 256) : Nat × Clk × State :=
  let d := dieOf c
  let n := s.dieNum[d] + 1
  let k := s.coreAt c
  (n, k.wc, { s with dieNum := s.dieNum.set d n }.setCore c { k with wc := k.wc.set d n })

/-! ### Atomic operations (R357) -/

/-- Order of FP32 codes for fmin and fmax: -0 below +0. -/
def fless (a b : Nat) : Bool :=
  match Val.cmp (fp32.decode a) (fp32.decode b) with
  | some .lt => true
  | some .eq => a.testBit 31 && !b.testBit 31
  | _ => false

def fminCode (a b : Nat) : Nat :=
  if (fp32.decode a).isNan || (fp32.decode b).isNan then fp32.nan else if fless b a then b else a

def fmaxCode (a b : Nat) : Nat :=
  if (fp32.decode a).isNan || (fp32.decode b).isNan then fp32.nan else if fless a b then b else a

/-- New(op, old, b) of R357, on `w` bits. -/
def amoNew (op : AmoOp) (w old b : Nat) : Nat :=
  match op with
  | .swap => b % 2 ^ w
  | .add => (old + b) % 2 ^ w
  | .and => old &&& b % 2 ^ w
  | .or => old ||| b % 2 ^ w
  | .xor => old ^^^ b % 2 ^ w
  | .min => if signed w b < signed w old then b % 2 ^ w else old
  | .max => if signed w old < signed w b then b % 2 ^ w else old
  | .minz => min old (b % 2 ^ w)
  | .maxz => max old (b % 2 ^ w)
  | .fadd => fadd32 old (b % 2 ^ 32)
  | .fmin => fminCode old (b % 2 ^ 32)
  | .fmax => fmaxCode old (b % 2 ^ 32)

/-- Whether an operation can be combined: it stands in the table of R171. -/
def amoCombines : AmoOp → Bool
  | .swap => false
  | _ => true

def atomWidth (w32 : Bool) : Nat := if w32 then 4 else 8

/-! ### Combining entries (R171) -/

/-- Apply an entry to DRAM: a read and a write of its line for its partition (R71). -/
def State.applyEntry (s : State) (e : CombEntry) : State :=
  let n := atomWidth e.key.w32
  let old := s.mem.readLE e.key.dpa n
  match e.key.op with
  | some op =>
    { s with mem := s.mem.writeBytes e.key.dpa (natToBytes n (amoNew op (8 * n) old e.val.toNat)) }.channelAccess
      ⟨0, e.key.part, none, .no⟩ e.key.dpa .atomic
  | none => s

/-- Apply every entry of a channel that satisfies `p`, oldest first. -/
def State.applyCombined (s : State) (ch : Fin 256) (p : CombEntry → Bool) : State :=
  let es := s.comb[ch]
  (es.filter p).foldl State.applyEntry { s with comb := s.comb.set ch (es.filter fun e => !p e) }

/-- Any other access to a line applies its entries first (R171). -/
def State.applyLine (s : State) (dpa : Nat) : State :=
  s.applyCombined (Fin.ofNat 256 (chanOf dpa)) fun e => e.key.dpa / 64 = dpa / 64

/-- A FENCE at NMEM or wider applies the entries with an operation of the core (R171, R205). -/
def State.applyCore (s : State) (c : Fin 256) : State :=
  (List.finRange 256).foldl (fun s ch =>
    if (s.comb[ch]).isEmpty then s else s.applyCombined ch fun e => e.cores.contains c) s

/-- Merge an operand into an entry (R171). -/
def mergeVal (op : AmoOp) (w32 : Bool) (a b : Nat) : Nat := amoNew op (8 * atomWidth w32) a b

/-- Enter a commutative atomic into its channel's combining buffer (R171): merged with the entry of
the same key, else a new entry; the oldest of a full buffer is applied first. A packet's atomic has no
core here. -/
def State.combineBy (s : State) (c : Option (Fin 256)) (key : CombKey) (op : AmoOp) (v : Nat) : State :=
  let ch : Fin 256 := Fin.ofNat 256 (chanOf key.dpa)
  let es := s.comb[ch]
  if es.any (·.key == key) then
    let es' := es.map fun e =>
      if e.key == key then
        { e with val := (mergeVal op key.w32 e.val.toNat v : Nat),
                 cores := (c.toList.filter fun c => !e.cores.contains c) ++ e.cores }
      else e
    let s := { s with comb := s.comb.set ch es' }
    match c with
    | some c => s.mapCore c fun k => k.count 12 1
    | none => s
  else
    let s := if 64 ≤ es.length then
        match es with
        | e :: rest => ({ s with comb := s.comb.set ch rest }).applyEntry e
        | [] => s
      else s
    let e : CombEntry := ⟨key, (v % 2 ^ (8 * atomWidth key.w32) : Nat), c.toList, s.cycle⟩
    { s with comb := s.comb.set ch (s.comb[ch] ++ [e]) }

def State.combine (s : State) (c : Fin 256) (key : CombKey) (op : AmoOp) (v : Nat) : State :=
  (s.snoop ⟨key.part, key.part, some ((s.coreAt c).launch, c), .no⟩ key.dpa).combineBy (some c) key op v

/-! ### Order at the home -/

/-- Commutative atomics, as R204 honours them: relaxed, no old value, an operation of the table. -/
def MemOp.commutes (o : MemOp) : Bool :=
  match o.kind with
  | .amo op _ _ ret comm => comm && !ret && amoCombines op
  | .accum _ _ _ => true
  | _ => false

/-- Two accesses touch one line. -/
def MemOp.sameLine (a b : MemOp) : Bool := a.dpa / 64 = b.dpa / 64 && a.win = b.win

/-- Messages and barrier operations do not go to a line of L2 or HBM. -/
def MemOp.onPath (o : MemOp) : Bool :=
  match o.kind with
  | .msg _ _ _ => true
  | .bar _ _ _ => true
  | .wake _ => true
  | _ => false

/-- An earlier access of the same core to the same line, still waiting, goes first (R195), unless both
commute (R204). -/
def blockedByOrder (s : State) (o : MemOp) : Bool :=
  s.memq.any fun e => e.id < o.id && e.core = o.core && !e.onPath && !o.onPath && e.sameLine o &&
    e.result.isNone && !(e.commutes && o.commutes)

/-- What must be performed before it still waits (R203, R241). -/
def blockedByAfter (s : State) (o : MemOp) : Bool :=
  s.memq.any fun e => o.after.contains e.id

/-- The requester that an access is (R90). -/
def MemOp.req (o : MemOp) : Req := ⟨o.tag, o.part, some (o.launch, o.core), if o.na then .no else .any⟩

/-- How an access uses its line (R166): a read-modify-write is a write of a part. -/
def MemOp.use (o : MemOp) : LineUse :=
  match o.kind with
  | .load _ _ => .read
  | .store _ => .part
  | _ => .atomic

/-- The channels that an access uses (R91, R187). -/
def MemOp.chans (s : State) (o : MemOp) : List (Fin 256) :=
  if o.onPath then []
  else match o.win with
    | some i => (match windowNo s o.part i with
      | some w => winChans s o.req i w o.va.toNat
      | none => [])
    | none => accessChans s o.req o.dpa o.side o.use

/-- An access waits at its channel (R187). -/
def MemOp.nbWaits (s : State) (o : MemOp) : Bool := (o.chans s).any fun ch => nbHolds s ch.val

/-- A best-effort request waits at its channel's ingress for a token (R91). -/
def MemOp.tokenWaits (s : State) (o : MemOp) : Bool :=
  s.qos.any fun q => q.waiting.any fun w => w.1 = o.id

/-- An access can be performed or served at its home (R201): its clock is covered there. Messages and
barrier operations carry their clock and wait for nothing but their way (R201, R363). -/
def MemOp.ready (s : State) (o : MemOp) : Bool :=
  o.result.isNone && decide (o.due ≤ s.cycle) && (o.onPath || Clk.le o.clk s.perf[o.home]) &&
  !blockedByOrder s o && !blockedByAfter s o && !o.nbWaits s && !o.tokenWaits s

/-! ### Effects at the home -/

def State.dropOp (s : State) (id : Nat) : State := { s with memq := s.memq.filter (·.id ≠ id) }

def State.answerOp (s : State) (id : Nat) (v : Word) (clk : Clk) : State :=
  { s with memq := s.memq.map fun o => if o.id = id then { o with result := some (v, clk) } else o }

/-- The access carries a cause to its core (R352, R417). -/
def State.markBad (s : State) (id : Nat) (c : Cause) : State :=
  { s with memq := s.memq.map fun o => if o.id = id then { o with bad := some c } else o }

/-- A failed access answers with its cause alone. -/
def State.answerBad (s : State) (id : Nat) (c : Cause) (clk : Clk) : State :=
  (s.answerOp id 0 clk).markBad id c

/-- Extend a loaded value to 64 bits (R352). -/
def extend (len : Nat) (sext : Bool) (v : Nat) : Word :=
  if sext then BitVec.ofInt 64 (signed (8 * len) v) else BitVec.ofNat 64 v

/-- The bytes that an access finds at its home, as its owner tag sees them. -/
def State.homeLE (s : State) (o : MemOp) (n : Nat) : Nat := s.lookLE o.tag o.dpa n o.side

/-- Bytes written by an access at its home. -/
def State.homePut (s : State) (o : MemOp) (bs : List Byte) : State := s.put o.tag o.dpa bs o.side

/-- An access reaches its line: the line's combining entries are applied first (R171), and L2 and the channel take part. -/
def State.atLine (s : State) (o : MemOp) : State := (s.applyLine o.dpa).access o.req o.dpa o.side o.use

/-- The combining entries of the stored bytes that an access through a window rests on are applied first (R171, R204). -/
def State.applyStored (s : State) (part : Nat) (w : Window) (va : Nat) : State :=
  (storedPlaces s part w va).foldl (fun s a => s.applyLine a) s

/-- Serve a read at its home (R193-R195, R201): its value, with the PERF vector of the home's die. -/
def State.serveRead (s : State) (o : MemOp) : State :=
  match o.kind with
  | .load len sext =>
    match o.win with
    | some i =>
      match windowNo s o.part i with
      | some w =>
        let s := (s.applyStored o.part w o.va.toNat).accessWin o.req i w o.va.toNat
        match windowView s o.tag o.part i w o.va.toNat len with
        | .ok (bs, r) =>
          let s := s.answerOp o.id (extend len sext (bytesToNat bs)) s.perf[o.home]
          if r then s.markBad o.id .windowCode else s
        | .error c => s.answerBad o.id c s.perf[o.home]
      | none => s.answerOp o.id 0 s.perf[o.home]
    | none =>
      let fault := sideFault s o.tag o.dpa o.side
      let s := s.atLine o
      let s := s.answerOp o.id (extend len sext (s.homeLE o len)) s.perf[o.home]
      match fault with
      | none => s
      | some c => s.markBad o.id c
  | _ => s

/-- A failed store or atomic that returns nothing: not performed, its cause raised at the core's next
bundle (R417). -/
def State.reportLate (s : State) (o : MemOp) (c : Cause) : State :=
  (s.dropOp o.id).mapCore o.core fun k => { k with late := k.late ++ [(c, o.va)] }

/-- A report that reaches a core already stopped is raised at the bundle that would issue next, and the stop is taken
after ERET. -/
def State.rouse (s : State) (c : Fin 256) : State :=
  let k := s.coreAt c
  if k.run = .stopped && (!k.late.isEmpty || k.loads.any fun l => l.err.isSome) then
    s.mapCore c fun k => { k with run := .running, stop := some .save, wait := none }
  else s

/-- Accumulate into the code of an adjoint cell (R235): one application, saturating once; whether it saturated or the
contribution is not finite. -/
def accumCode (old : Nat) (a32 : Bool) (anchor : Int) (x : BitVec 32) : Nat × Bool :=
  if a32 then
    let (n, f) := toA32 (fp32.decode x.toNat) anchor
    if f = 0xFF then (old, true)
    else
      let t := signed 32 old + n
      let lim : Int := 2 ^ 31 - 1
      let t' := max (-lim) (min lim t)
      (intToCode 32 t', decide (t' ≠ t))
  else (fadd32 old x.toNat, false)

/-- Accumulate into an adjoint cell of a memory. -/
def accumCell (m : Mem) (a : Nat) (a32 : Bool) (anchor : Int) (x : BitVec 32) : Mem × Bool :=
  let (v, f) := accumCode (m.readLE a 4) a32 anchor x
  (m.writeBytes a (natToBytes 4 v), f)

/-- Set DMODE_STAT.ASAT of a core (R236). -/
def Core.setAsat (k : Core) : Core := { k with dmode := k.dmode ||| 2 }

/-- The bytes of a reel record (R240). A capture that finds a failed line sets POISON and leaves OLD
zero (R241). -/
def reelRecord (addr : Word) (len kind : Nat) (old : List Byte) (poison : Bool) : List Byte :=
  let pad := (16 - len % 16) % 16
  let head := natToBytes 8 addr.toNat ++ natToBytes 4 len ++
    [BitVec.ofNat 8 (kind + if poison then 0x80 else 0), 0, 0, 0]
  let body := (if poison then List.replicate len 0 else old) ++ List.replicate pad 0
  head ++ body ++ natToBytes 4 (32 + len + pad) ++ natToBytes 4 (crc32c head) ++ List.replicate 8 0

/-- Write the record of a taped write before the write is performed (R241). -/
def State.writeTape (s : State) (o : MemOp) (len : Nat) : State :=
  match o.tape with
  | none => s
  | some t =>
    let poison := (sideFault s o.tag o.dpa o.side).isSome
    let r := reelRecord t.addr len t.kind (s.look o.tag o.dpa len o.side) poison
    s.pokeSegs o.tag t.segs r

/-- Replace the bytes at an access's home by what `f` makes of them. -/
def State.modify (s : State) (o : MemOp) (n : Nat) (f : Nat → Nat) : State :=
  s.homePut o (natToBytes n (f (s.homeLE o n)))

/-- Perform a write or an atomic at its home as one indivisible access (R193, R202). -/
def State.performWrite (s : State) (o : MemOp) : State :=
  let fault := if o.tape.isSome || o.win.isSome then none else sideFault s o.tag o.dpa o.side
  match o.kind with
  | .store bs =>
    match o.win with
    | some i => match windowNo s o.part i with
      | some w =>
        let s := s.applyStored o.part w o.va.toNat
        let s := if o.na then s else s.accessWin o.req i w o.va.toNat
        (s.dropOp o.id).pokeWin o.req i w o.va.toNat bs
      | none => s.dropOp o.id
    | none => match fault with
      | some c => s.reportLate o c
      | none => (((s.applyLine o.dpa).writeTape o bs.length).access o.req o.dpa o.side o.use).homePut o bs |>.dropOp o.id
  | .amo op w32 b ret comm =>
    let n := atomWidth w32
    match fault with
    | some c =>
      if ret then s.answerBad o.id c s.perf[o.home] else s.reportLate o c
    | none =>
      if comm && !ret && amoCombines op && o.ms then
        (s.combine o.core ⟨o.dpa, some op, w32, o.part⟩ op b.toNat).dropOp o.id
      else
        let s := s.atLine o
        let old := s.homeLE o n
        let s := s.modify o n fun old => amoNew op (8 * n) old b.toNat
        if ret then s.answerOp o.id (extend n w32 old) s.perf[o.home]
        else
          let s := s.dropOp o.id
          if o.acq then s.mapCore o.core fun k =>
            { k with rc := Clk.max k.rc s.perf[o.home], wc := Clk.max k.wc s.perf[o.home] } else s
  | .cas w32 b e =>
    let n := atomWidth w32
    match fault with
    | some c => s.answerBad o.id c s.perf[o.home]
    | none =>
      let s := s.atLine o
      let old := s.homeLE o n
      let s := s.modify o n fun old =>
        if old = e.toNat % 2 ^ (8 * n) then b.toNat % 2 ^ (8 * n) else old
      s.answerOp o.id (extend n w32 old) s.perf[o.home]
  | .accum a32 anchor x =>
    match fault with
    | some c => s.reportLate o c
    | none =>
    if !a32 && o.ms then
      (s.combine o.core ⟨o.dpa, some .fadd, true, o.part⟩ .fadd x.toNat).dropOp o.id
    else
      let s := s.atLine o
      let sat := (accumCode (s.homeLE o 4) a32 anchor x).2
      let s := (s.modify o 4 fun old => (accumCode old a32 anchor x).1).dropOp o.id
      if sat then s.mapCore o.core Core.setAsat else s
  | _ => s

/-! ### Data reaches the core (R143, R170) -/

/-- The value arrives in the take of claim `seq`; a take claimed again since is not written (R170). -/
def deliverTake (seq : Nat) (v : Option Word) (t : Take Word) : Take Word :=
  if t.seq = seq ∧ t.load.isSome then
    match v with
    | some x => { t with val := x, load := none }
    | none => { t with val := t.old, load := none }
  else t

/-- The value arrives in a pending register write; a failed access leaves the register unwritten
(R417). -/
def deliverReg (id : Nat) (v : Option Word) (r : Reg Word) : Reg Word :=
  match v with
  | some x =>
    { r with
      pend := r.pend.map fun p => if p.load = some id then { p with val := x, load := none } else p }
  | none => { r with pend := r.pend.filter fun p => p.load ≠ some id }

/-- Deliver the data of load `id` to its core: into its bank's take and register. -/
def Core.deliver (k : Core) (id : Nat) (v : Word) (clk : Clk) (bad : Option Cause) : Core :=
  match k.loads.find? (·.id = id) with
  | none => k
  | some l =>
    let write : Option Word := match bad with
      | none => some v
      | some .windowCode => some v
      | some _ => none
    let b := k.bank l.level
    let b' : Bank := ⟨b.takes.map (deliverTake l.seq write), b.x.map (deliverReg id write)⟩
    { k.setBank l.level b' with
      loads := k.loads.map fun e =>
        if e.id = id then { e with data := some v, clk := clk, err := bad } else e }

/-- A load's answer reaches its core. -/
def State.deliverOp (s : State) (o : MemOp) : State :=
  match o.result with
  | none => s
  | some (v, clk) => (s.dropOp o.id).mapCore o.core fun k => k.deliver o.id v clk o.bad

/-- A load whose data is late at its landing cycle (R143). -/
def Core.lateLoad (k : Core) : Bool :=
  k.loads.any fun l => decide (l.land ≤ k.clk) && l.data.isNone

/-- A load that has landed with a cause: it is raised at the bundle due to issue (R352, R417). -/
def Core.landedErr (k : Core) : Option Load :=
  k.loads.find? fun l => decide (l.land ≤ k.clk) && l.err.isSome && l.level = k.level

/-- Landed loads leave; their clocks are merged into RC and WC (R201). -/
def Core.mergeLanded (k : Core) : Core :=
  let landed := k.loads.filter fun l => decide (l.land ≤ k.clk) && l.data.isSome && l.err.isNone
  let rc := landed.foldl (fun c l => Clk.max c l.clk) k.rc
  { k with rc := rc, wc := if landed.isEmpty then k.wc else Clk.max k.wc rc,
           loads := k.loads.filter fun l => !(decide (l.land ≤ k.clk) && l.data.isSome && l.err.isNone) }

/-- Every earlier write, CMSG and BARR of a core has been performed (R205, R213). -/
def writesDone (s : State) (c : Fin 256) : Bool :=
  !(s.memq.any fun o => o.core = c && o.num ≠ 0 && o.result.isNone)

end Sys2Proof.Machine
end

