-- ==== Sys2Proof/Machine/Rewind.lean ====
section
/-! DEFINITION. Sending accesses on their way, adjoint cells, and the reel (R234-R245). -/

namespace Sys2Proof.Machine

/-! ### Sending an access -/

/-- What an access carries beside its kind and address. -/
structure OpOpts where
  write : Bool
  win   : Option Nat := none
  due   : Nat := 0
  after : List Nat := []
  acq   : Bool := false
  diff  : Bool := false
  tape  : Option Tape := none
  na    : Bool := false
  deriving DecidableEq, Repr

/-- The owner tag of a core's accesses in L2 (R78, R90): its partition, or 0 in H mode. -/
def Core.tag (k : Core) : Nat := if k.level = .h then 0 else k.part

/-- Send an access of core `c` to the home of `p` (R193, R201). A write takes a write number and carries
WC; a read carries RC. An honoured commutative atomic carries no clock (R204). -/
def State.send (s : State) (c : Fin 256) (kind : MemKind) (p : Phys) (va : Word) (o : OpOpts) :
    Nat × State :=
  let id := s.nextId
  let k := s.coreAt c
  let s := { s with nextId := id + 1 }
  let (num, clk, s) := if o.write then s.numberWrite c else (0, k.rc, s)
  let op : MemOp :=
    { id := id, core := c, launch := k.launch, part := k.part, kind := kind, dpa := p.addr, va := va,
      tag := k.tag, na := o.na, home := homeDie s k.tag p.addr p.mtype, side := decide (p.mtype ≠ 0),
      ms := decide (p.mtype = 1), win := o.win, num := num,
      clk := clk, due := o.due, after := o.after, acq := o.acq,
      diff := o.diff, tape := o.tape, parked := none, bad := none,
      result := none }
  let op := if op.commutes then { op with clk := Clk.zero } else op
  (id, { s with memq := s.memq ++ [op] })

/-- Differentiable accesses or reel records of the core not yet performed: PEND of DMODE_STAT
(R236). -/
def pendDiff (s : State) (c : Fin 256) : Bool := s.memq.any fun o => o.core = c && o.diff

/-- Engine commands of the core whose footprint DMODE waits for (R237). -/
def pendDiffCmd (s : State) (c : Fin 256) : Bool := s.cmds.any fun m => m.core = c && m.diff

/-! ### Adjoint cells (R235) -/

/-- An element code widened exactly to FP32 (R235). -/
def widenTo32 (t : Ty) (c : Nat) : Nat :=
  match t with
  | .bf16 => c % 2 ^ 16 * 2 ^ 16
  | .f16 => fp32.round .rne (fp16.decode (c % 2 ^ 16))
  | _ => c % 2 ^ 32

/-- An FP32 code narrowed to a region's type by RNE with policy SAT (R242). -/
def narrowFrom32 (t : Ty) (c : Nat) : Nat :=
  match t with
  | .bf16 => (bf16.convert .rne .sat (fp32.decode c)).get
  | .f16 => (fp16.convert .rne .sat (fp32.decode c)).get
  | _ => c

/-- The FP32 value of a cell's code (R235). -/
def cellValue (r : DiffRegion) (n : Nat) : Nat := if r.a32 then fromA32 (signed 32 n) r.anchor .rne else n

/-- Read and clear a cell of a memory: its FP32 value, and the memory after (R235). -/
def readClear (m : Mem) (r : DiffRegion) (a : Nat) : Nat × Mem :=
  (cellValue r (m.readLE a 4), m.writeBytes a [0, 0, 0, 0])

/-- Read and clear a cell of HBM at its home. -/
def State.clearCell (s : State) (q : Req) (r : DiffRegion) (p : Phys) : Nat × State :=
  let side : Bool := p.mtype ≠ 0
  let s := (s.applyLine p.addr).access q p.addr side .atomic
  (cellValue r (s.lookLE q.tag p.addr 4 side), s.put q.tag p.addr [0, 0, 0, 0] side)

/-- Read a cell of HBM at its home. -/
def State.seeCell (s : State) (q : Req) (r : DiffRegion) (p : Phys) : Nat × State :=
  let s := (s.applyLine p.addr).access q p.addr (p.mtype ≠ 0) .read
  (cellValue r (s.lookLE q.tag p.addr 4 (p.mtype ≠ 0)), s)

/-- A cell's value, uncleared. -/
def readCell (m : Mem) (r : DiffRegion) (a : Nat) : Nat := (readClear m r a).1

/-- Accumulate into a scratchpad cell, in the core's banks (R235). -/
def Core.accumSpad (k : Core) (r : DiffRegion) (off : Nat) (x : Nat) : Core :=
  let (m, sat) := accumCell k.spad (r.cell off) r.a32 r.anchor (BitVec.ofNat 32 x)
  let k := { k with spad := m }
  if sat then k.setAsat else k

/-! ### The reel (R239-R243) -/

def reelBase (k : Core) : Nat := bitsOf k.reelBase.toNat 6 42 * 64
def reelLimit (k : Core) : Nat := bitsOf k.reelLimit.toNat 6 42 * 64
def reelPtr (k : Core) : Nat := bitsOf k.reelPtr.toNat 4 44 * 16

/-- The size of a record of `len` old bytes (R240). -/
def recordSize (len : Nat) : Nat := 32 + 16 * ((len + 15) / 16)

/-- A range of VAs split at 64 KiB granules. -/
def splitPages : Nat → Nat → Nat → List (Nat × Nat)
  | 0, _, _ => []
  | fuel + 1, a, n =>
    if n = 0 then [] else
    let step := min n (65536 - a % 65536)
    (a, step) :: splitPages fuel (a + step) (n - step)

/-- A core's translation of its reel: its pages need both RD and WR (R239). -/
def reelXlate (s : State) (c : Fin 256) (a : Nat) : XRes Phys :=
  let k := s.coreAt c
  translate s c k.part k.level .atomic a

/-- Translate a range of the reel by `tr`, whose pages need both RD and WR and must not be DIFF (R234, R239).
The first failure comes with its address. -/
def reelSegs (tr : Nat → XRes Phys) : List (Nat × Nat) → Except (Cause × Nat) (List Seg)
  | [] => .ok []
  | (a, n) :: rest =>
    match tr a with
    | .error e => .error (e, a)
    | .ok p =>
      if p.host then .error (.accessKind, a)
      else if p.diff then .error (.diffKind, a)
      else match reelSegs tr rest with
        | .ok l => .ok (⟨p.addr, n, p.mtype ≠ 0⟩ :: l)
        | .error e => .error e

/-- Reel space for records of total size `z` (R241): REEL_FULL, or a cause of the reel range, or where
the records lie. -/
def reserveReel (s : State) (c : Fin 256) (z : Nat) : Except (Cause × Word) (List Seg) :=
  let k := s.coreAt c
  let p := reelPtr k
  if p < reelBase k ∨ reelLimit k < p + z then .error (.reelFull, k.reelPtr)
  else match reelSegs (reelXlate s c) (splitPages (z / 65536 + 2) p z) with
    | .ok l => .ok l
    | .error (e, a) => .error (e, BitVec.ofNat 64 a)

def Core.setReelPtr (k : Core) (p : Nat) : Core :=
  { k with reelPtr := BitVec.ofNat 64 (p % 2 ^ 48 / 16 * 16) }

/-- The segments of `segs` that hold bytes [o, o + n). -/
def sliceSegs : List Seg → Nat → Nat → List Seg
  | [], _, _ => []
  | g :: rest, o, n =>
    if n = 0 then []
    else if g.len ≤ o then sliceSegs rest (o - g.len) n
    else
      let t := min n (g.len - o)
      ⟨g.addr + o, t, g.side⟩ :: sliceSegs rest 0 (n - t)

/-- A failed line among `n` bytes of memory, as a tag sees them (R23). -/
def segFault (s : State) (tag a n : Nat) : Option Cause :=
  ((s.badLines.find? fun e => decide (64 * e.1 < a + n) && decide (a < 64 * e.1 + 64) && (s.l2At tag e.1).isNone).bind
    fun e => lineFault s (64 * e.1)) <|>
  ((s.l2.find? fun e => e.meets tag a n && e.bad ≠ 0).bind fun e => tagFault s tag (64 * e.line))

/-- Check and read the record below `ptr` of a context's reel (PopRecord of R243): its old bytes and its start, or a cause
with TRAP_INFO's value. `addr`, `len`, `kind` are what the record must say. -/
def popRecord (s : State) (k : Core) (tr : Nat → XRes Phys) (ptr : Nat) (addr : Word) (len kind : Nat) :
    Except (Cause × Word) (List Byte × Nat) :=
  let at_ (a n : Nat) : Except (Cause × Word) (List Byte) :=
    match reelSegs tr (splitPages (n / 65536 + 2) a n) with
    | .ok l => match l.findSome? fun g => segFault s k.tag g.addr g.len with
      | some e => .error (e, BitVec.ofNat 64 a)
      | none => .ok (s.peekSegs k.tag l)
    | .error (e, x) => .error (e, BitVec.ofNat 64 x)
  if ptr < reelBase k + 32 ∨ reelLimit k < ptr then .error (.reelEmpty, k.reelPtr)
  else match at_ (ptr - 16) 16 with
    | .error e => .error e
    | .ok t =>
      let size := fieldLE t 0 4
      if size < 32 ∨ ptr < size ∨ ptr - size < reelBase k then .error (.reelMismatch, k.reelPtr)
      else
        let start := ptr - size
        match at_ start 16 with
        | .error e => .error e
        | .ok h =>
          if crc32c h ≠ fieldLE t 4 4 ∨ fieldLE h 0 8 ≠ addr.toNat ∨ fieldLE h 8 4 ≠ len ∨
              fieldLE h 12 1 ≠ kind then .error (.reelMismatch, k.reelPtr)
          else match at_ (start + 16) len with
            | .error e => .error e
            | .ok old => .ok (old, start)

/-- Send the record of a write to the core's own scratchpad to the reel (R241): the old bytes are
those of its banks at issue. -/
def State.sendRecord (s : State) (c : Fin 256) (segs : List Seg) (rec : List Byte) : State :=
  match segs with
  | [] => s
  | g :: rest =>
    let (_, s) := s.send c (.store (rec.take g.len)) ⟨g.addr, false, false, g.side.toNat⟩ 0 { write := true, diff := true }
    State.sendRecord s c rest (rec.drop g.len)

/-- Bytes of an adjoint cell of an HBM region: checked and translated as a store to it (R416). -/
def cellPhys (s : State) (c : Fin 256) (part : Nat) (level : Level) (a : Nat) :
    Except (Cause × Word) Phys :=
  match translate s c part level .write a with
  | .error e => .error (e, BitVec.ofNat 64 a)
  | .ok p =>
    if p.host then .error (.accessKind, BitVec.ofNat 64 a)
    else if p.diff then .error (.diffKind, BitVec.ofNat 64 a)
    else .ok p

/-- The core's earlier differentiable accesses are performed and its clocks are covered at a home: then
the core may act there at once. -/
def diffQuiet (s : State) (c : Fin 256) (home : Fin 4) : Bool :=
  let k := s.coreAt c
  !pendDiff s c && Clk.le k.wc s.perf[home] && Clk.le k.rc s.perf[home]

end Sys2Proof.Machine
end

