-- ==== Sys2Proof/Machine/Hold.lean ====
section
/-! DEFINITION. Holds, and the outcome of a slot instruction (R143). -/

namespace Sys2Proof.Machine

/-- Where launch core `j` of a launch runs: core j mod 4 of its quad j div 4 (R257, R381). -/
def launchCore (s : State) (launch : Option Nat) (j : Nat) : Option (Fin 256) :=
  match launch with
  | none => none
  | some id =>
    match s.launches.find? (·.id = id) with
    | none => none
    | some l =>
      match l.quads[j / 4]? with
      | some q => if h : 4 * q + j % 4 < 256 then some ⟨4 * q + j % 4, h⟩ else none
      | none => none

/-- The CMSG figure of a path between two cores (R154); the issuing core counts as within its quad. -/
def msgLatency (a b : Fin 256) : Nat :=
  if quadOf a = quadOf b then 24 else if dieOf a = dieOf b then 60 else 108

/-- When an operation on a barrier arrives (R363). -/
def barLatency (a b : Fin 256) : Nat := if a = b then 1 else msgLatency a b

/-- The first cycle of a wait sends what the wait asks for: a BWAIT's request (R365). -/
def State.startWait (s : State) (c : Fin 256) (h : Hold) : State :=
  match h with
  | .barrier ref phase =>
    match launchCore s (s.coreAt c).launch (bitsOf ref.toNat 16 8) with
    | some o =>
      (s.send c (.bar o (bitsOf ref.toNat 0 16) (.wait phase)) ⟨0, false, false, 0⟩ 0
        { write := false, due := s.cycle + barLatency c o }).2
    | none => s
  | _ => s

/-- A core leaves the BWAIT at which it holds (R365): it is a waiter no longer, and what is under way of its request is of no
use. -/
def State.leaveWait (s : State) (c : Fin 256) : State :=
  match (s.coreAt c).wait with
  | some (.barrier ref _) =>
    let mine (o : MemOp) : Bool := o.core = c && o.launch = (s.coreAt c).launch && match o.kind with
      | .bar _ _ (.wait _) | .wake _ => true
      | _ => false
    let s := ({ s with memq := s.memq.filter fun o => !mine o }).mapCore c fun k => { k with answer := none }
    match launchCore s (s.coreAt c).launch (bitsOf ref.toNat 16 8) with
    | some o =>
      (s.send c (.bar o (bitsOf ref.toNat 0 16) .leave) ⟨0, false, false, 0⟩ 0
        { write := false, due := s.cycle + barLatency c o }).2
    | none => s
  | _ => s

/-- One cycle of a hold (R143): HOLD_CYC and meters 0 and 1 count it; ICYC stands still. HOLD_CYC is
the context's, and a handler's own holds count in it too (R248). The wait of an MFENCE is no hold
(R346). -/
def State.holdOn (s : State) (c : Fin 256) (h : Hold) : State :=
  if h = .mfence then s.mapCore c fun k => { k with wait := some h } else
  let k := s.coreAt c
  let s := if k.wait = some h then s else s.startWait c h
  let s := s.mapCore c fun k => { k with wait := some h, holdCyc := k.holdCyc + 1 }
  (s.meter k.part 0 1).meter k.part 1 1

/-- Record how the bundle fared. -/
def State.mark (s : State) (r : IssueResult) : State := { s with issue := { s.issue with result := r } }

/-- The outcome of a slot instruction run in state `s`: its effect; or the trap, taken; or one cycle
of the hold. -/
def finish (s : State) (r : SlotRes Unit) : Host.Outcome State Fault Refusal :=
  match r with
  | .ok _ s' => .next s'
  | .trap t => .next ((s.takeTrap s.issue.core t).mark (.trapped t))
  | .hold h => .next ((s.holdOn s.issue.core h).mark (.held h))

end Sys2Proof.Machine
end

