-- ==== Sys2Proof/Machine/Regs.lean ====
section
/-! DEFINITION. Register space: what a read of a function's register window returns (R4, R50, R79). -/

namespace Sys2Proof.Machine

def bit (b : Bool) (n : Nat) : Nat := if b then 2 ^ n else 0

/-- FN_INFO (R51). -/
def fnInfo (s : State) (fn : Fn) : Nat :=
  let p := s.parts[fn]
  fn.val + bit (if fn = 0 then s.boot.stage = 7 else p.exists_) 5 + bit (fn ≠ 0 && p.exists_ && p.kind = 1) 6

/-- BOOT_STAT (R15). -/
def bootStat (s : State) : Nat :=
  s.boot.stage % 8 + bit s.boot.failed 3 + 2 ^ 4 * (s.boot.fcode % 256) + 2 ^ 12 * (s.boot.image % 16) +
    2 ^ 32 * (s.boot.count % 2 ^ 32)

/-- PWR_CAP (R11). -/
def pwrCapWord (s : State) : Nat :=
  s.power.cap % 4096 + 2 ^ 16 * (s.power.last % 4096) + 2 ^ 32 * (s.power.gated % 65536)

/-- Frames replayed in the last complete 1 ms window: windows count from cycle 0 (R44). DESIGN CHOICE: log entry 41. -/
def Port.lastWindow (p : Port) (cycle : Nat) : Nat :=
  ((p.replays.filter fun e => e.1 / 1600000 + 1 = cycle / 1600000).map (·.2)).sum

/-- PORT_STAT (R44). -/
def portStat (p : Port) (cycle : Nat) : Nat :=
  bit p.up 0 + bit p.training 1 + bit p.down 2 + bit p.absent 3 + 2 ^ 4 * p.flight.toNat +
    2 ^ 16 * p.neigh.toNat + 2 ^ 27 * p.nport.toNat + 2 ^ 32 * (p.lastWindow cycle % 65536)

/-- A route table entry (R29): one never written names no route. -/
def routeEntry (s : State) (d : Nat) : BitVec 32 := SMap.get 0xFFFFF#32 s.fabric.routes d

/-- A register of a ring's block (R53-R56). -/
def ringReg (r : Ring) (o : Nat) : Word :=
  match o with
  | 0x00 => r.base
  | 0x08 => r.size
  | 0x10 => BitVec.ofNat 64 r.widx
  | 0x18 => BitVec.ofNat 64 r.ridx
  | 0x20 => BitVec.ofNat 64 (bit r.enable 0 + 2 * r.state + bit r.draining 3 + 2 ^ 8 * r.reason)
  | 0x28 => r.prio
  | 0x30 => r.cqbase
  | _ => BitVec.ofNat 64 r.cqridx

/-- A VF's ring beyond its quota is absent (R81). -/
def ringPresent (s : State) (fn : Fn) (q : Nat) : Bool :=
  decide (q < 64) && (fn = 0 || decide (q < s.parts[fn].rings))

/-- A meter of a partition (R71); meter 15 counts the cells held up to now. -/
def meterAt (s : State) (p m : Nat) : Word :=
  if h : p < 17 ∧ m < 16 then ((if m = 15 then s.chargeHold else s).parts[p]'h.1).meters[m]'h.2 else 0

/-- The 64-bit word at an 8-aligned offset of function `fn`'s window; a range marked PF 0 reads zero from
a VF (R50). -/
def fnRead (s : State) (fn : Fn) (off : Nat) : Word :=
  let pf : Bool := fn = 0
  let f := s.fns[fn]
  let n (v : Nat) : Word := BitVec.ofNat 64 v
  if off = 0x0000 then n (fnInfo s fn)
  else if off = 0x0008 then s.fnErr[fn]
  else if off = 0x0010 then s.fnErrVec[fn]
  else if off = 0x0040 then f.sumAddr
  else if off = 0x0048 then f.sumLen
  else if off = 0x0050 then n (bit f.sumDone 2 + bit f.sumShort 3 + 2 ^ 32 * f.sumLength)
  else if 0x0D00 ≤ off ∧ off < 0x0E00 then n (bitsOf s.msixPend[fn].toNat (8 * (off - 0x0D00)) 64)
  else if 0x0E00 ≤ off ∧ off < 0x0E80 then (if pf then 0 else meterAt s fn.val ((off - 0x0E00) / 8))
  else if off = 0x0F00 then n (bootStat s)
  else if off = 0x0F10 then (if pf then n (pwrCapWord s) else 0)
  else if 0x1000 ≤ off ∧ off < 0x2000 then
    let q := (off - 0x1000) / 64
    if ringPresent s fn q then ringReg (f.rings.toList.getD q Ring.reset) (off % 64) else 0
  else if 0x4000 ≤ off ∧ off < 0x6000 then
    (if pf then n ((routeEntry s ((off - 0x4000) / 4)).toNat + 2 ^ 32 * (routeEntry s ((off - 0x4000) / 4 + 1)).toNat)
     else 0)
  else if 0x6000 ≤ off ∧ off < 0x6140 then
    if pf then
      match s.fabric.ports.toList[(off - 0x6000) / 16]? with
      | some p => if off % 16 = 0 then n (portStat p s.cycle) else n (bit p.enable 0)
      | none => 0
    else 0
  else if off = 0x6200 then (if pf then s.fabric.fabId else 0)
  else if 0x6800 ≤ off ∧ off < 0x6880 then (if pf then 0 else f.rqbase.toList.getD ((off - 0x6800) / 8) 0)
  else if 0x7000 ≤ off ∧ off < 0x7800 then
    (if pf then meterAt s ((off - 0x7000) / 0x80 + 1) ((off - 0x7000) % 0x80 / 8) else 0)
  else if 0x7800 ≤ off ∧ off < 0x7880 then
    (if pf then s.slateBase.toList.getD ((off - 0x7800) / 8 + 1) 0 else 0)
  else if 0x8000 ≤ off ∧ off < 0x10000 then
    let w := SMap.get 0 f.msix ((off - 0x8000) / 8)
    if off % 16 = 8 then w ||| n (bit (s.msixMask[fn].getLsbD ((off - 0x8000) / 16)) 32) else w
  else 0

/-- A write to a register; after a refused boot writes are dropped (R14). -/
def State.booted (s : State) (k : State → State) : State := if s.boot.failed then s else k s

/-- The 64-bit register at offset `off` of function `fn`'s window. After a refused boot every register but
BOOT_STAT reads all ones (R14). -/
def regRead (s : State) (fn off : Nat) : Word :=
  if h : fn < 17 then
    if s.boot.failed && off / 8 * 8 ≠ 0x0F00 then BitVec.allOnes 64 else fnRead s ⟨fn, h⟩ (off / 8 * 8)
  else 0

end Sys2Proof.Machine
end

