-- ==== Sys2Proof/WellFormed.lean ====
section
/-! DEFINITION. Which terms of `Instr` stand for something the FY8 can be given: a slot instruction
whose fields the encoding admits (R267-R277, R314, R335, R367), or a step whose data has the shape
the manual gives it (R25, R33, R61). -/

namespace Sys2Proof

/-- The floating types F of R314. -/
def Ty.isF : Ty → Bool
  | .f32 | .bf16 | .f16 => true
  | _ => false

/-- The integer types I of R314. -/
def Ty.isI : Ty → Bool
  | .s8 | .z8 | .s16 | .z16 | .s32 | .z32 => true
  | _ => false

/-- The scaled types X of R314. -/
def Ty.isX : Ty → Bool
  | .e4m3 | .e5m2 | .e2m1 => true
  | _ => false

/-- The unsigned integer types, written z (R271). -/
def Ty.isZ : Ty → Bool
  | .z8 | .z16 | .z32 => true
  | _ => false

/-- P on VADD, VSUB: a rounding mode on F, wrap or saturate on I, zero on a32 (R314). Types the
instruction does not allow pass here; they are refused as types. -/
def pArith (t : Ty) (p : BitVec 2) : Bool :=
  if t.isI then p.toNat < 2 else if t = .a32 then p = 0 else true

/-- P on VABS, VNEG: zero on F, wrap or saturate on I (R314). -/
def pAbs (t : Ty) (p : BitVec 2) : Bool :=
  if t.isI then p.toNat < 2 else if t.isF then p = 0 else true

/-- P on VRSUM, VDOT, VSCAN: a mode on F and X, zero on I (R314). -/
def pReduce (t : Ty) (p : BitVec 2) : Bool :=
  if t.isI then p = 0 else true

/-- The condition codes each type allows to VCMP (R272). -/
def condAllowed (c : Cond) (t : Ty) : Bool :=
  match c with
  | .eq | .ne => true
  | .lt | .ge | .le | .gt => !t.isZ
  | .zlt | .zge | .zle | .zgt => t.isZ
  | .un | .ord => t.isF || t.isX

/-- The types VSCAN allows (R314). -/
def scanAllowed : Ty → Bool
  | .f32 | .bf16 | .f16 | .s32 | .z32 => true
  | _ => false

/-- The CSR numbers of R300. -/
def csrAssigned (c : BitVec 12) : Bool :=
  let n := c.toNat
  n < 7 || (8 ≤ n && n ≤ 10) || n = 0x10 || (0x20 ≤ n && n ≤ 0x2B) || (0x30 ≤ n && n ≤ 0x33) ||
  (0x40 ≤ n && n ≤ 0x43) || (0x50 ≤ n && n ≤ 0x54) || n = 0x60 || n = 0x70

/-- An atomic operation that needs the 32-bit form (R357). -/
def AmoOp.isFloat : AmoOp → Bool
  | .fadd | .fmin | .fmax => true
  | _ => false

/-- The types an instruction allows (R272, R314, R323, R341): breaking this raises TYPE_RESERVED. -/
def typesOk : Instr → Bool
  | .vadd _ _ t _ | .vsub _ _ t _ => t.isF || t.isI || t = .a32
  | .vmul _ _ t _ | .vmin _ _ t | .vmax _ _ t | .vabs _ t _ | .vneg _ t _ => t.isF || t.isI
  | .vfma _ _ _ t _ | .vfms _ _ _ t _ | .vfnma _ _ _ t _ | .vdiv _ _ t _ | .vsqrt _ t _
  | .vrsq _ t _ | .vrcp _ t _ | .vexp2 _ t _ | .vlog2 _ t _ | .vcps _ _ t
  | .vanc _ _ t _ | .vdanc _ _ t _ => t.isF
  | .vshl _ _ t | .vshr _ _ t | .vsra _ _ t | .vmulh _ _ t | .viota _ t => t.isI
  | .vcmp _ _ c t => (t.isF || t.isI || t.isX) && condAllowed c t
  | .vclass _ t => t.isF || t.isX
  | .vcvt _ td _ _ ts => td ≠ .a32 && ts ≠ .a32
  | .vscl _ _ t _ => t.isX
  | .vqdec _ _ _ t _ => t = .bf16 || t = .f32
  | .vperm _ _ t => t ≠ .e2m1 && t ≠ .i4
  | .vrsum _ t _ | .vrmax _ t | .vrmin _ t | .vdot _ _ t _ => t.isF || t.isI || t.isX
  | .vscan _ t _ => scanAllowed t
  | .mdrain _ _ _ _ _ _ _ t => t ≠ .a32
  | _ => true

/-- The fields an instruction's encoding admits beyond its types (R272, R288-R295, R314, R335,
R353, R357): breaking this raises ILLEGAL_OPCODE. -/
def fieldsOk : Instr → Bool
  | .cmp _ _ _ c => c ≠ .un && c ≠ .ord
  | .bfx _ _ _ len pos => pos.toNat + len.toNat + 1 ≤ 64
  | .st _ _ _ _ na sp _ => !(na && sp)
  | .amo _ _ _ w nr w32 op => (!nr || w = 0) && (!op.isFloat || w32)
  | .loop n _ => n ≠ 0
  | .csrr _ c | .csrw _ c => csrAssigned c
  | .vadd _ _ t p | .vsub _ _ t p => pArith t p
  | .vmul _ _ t p => pArith t p
  | .vabs _ t p | .vneg _ t p => pAbs t p
  | .vrsum _ t p | .vscan _ t p | .vdot _ _ t p => pReduce t p
  | .vpack _ _ g | .vunpk _ g => g ≠ 0
  | .mdrain _ _ _ _ _ first rows _ => first.toNat + rows.toNat + 1 ≤ 16
  | _ => true

/-- A line of 64 bytes. -/
def lineOk (l : List Byte) : Bool := l.length = 64

/-- The shape of a data packet: at most four data flits, a mask for each (R33). -/
def Packet.ok (p : Packet) : Bool :=
  p.flits.length ≤ 4 && p.be.length = p.flits.length && p.codes.length = p.flits.length && p.flits.all lineOk

/-- The shape of the data that the module's other steps carry. -/
def stepOk : Instr → Bool
  | .powerOnReset b | .perst b => b.images.length = 4 && b.badCore.length = 16
  | .linkFrameReceive _ f =>
    f.flits.length = 8 && f.flits.all (fun l => lineOk l.bytes) && f.credits.length = 6
  | .packetForward _ p | .dataPacketAccept _ p => p.ok
  | _ => true

/-- A well-formed instruction. -/
def Instr.wellFormed (i : Instr) : Bool := typesOk i && fieldsOk i && stepOk i

end Sys2Proof
end

