-- ==== Sys2Proof/Decode.lean ====
section
/-! DEFINITION. The decoder of slot words (R262-R277) and, after it, the encoder. A slot word is
decoded by the map of its slot class, with the literal word that follows it if LIMM says so. What
the encoding does not admit is refused under one of the three causes of R268, in the order of R249:
ILLEGAL_OPCODE before OPERAND_RESERVED before TYPE_RESERVED. -/

namespace Sys2Proof

/-- Why a slot word is refused at fetch (R268). -/
inductive DecErr where
  | illegalOpcode
  /-- The reserved specifier, and its operand position: A 0, B 1, C 2, and 3 for W (R252). -/
  | operandReserved (spec pos : Nat)
  | typeReserved
  deriving DecidableEq, Repr

/-- What decoding a slot word gives. -/
abbrev Dec := Except DecErr Instr

/-! ### Codes of operands, types and modes -/

def IdReg.ofCode : Nat → IdReg
  | 0 => .coreId | 1 => .quadId | 2 => .dieId | 3 => .pkgId
  | 4 => .gangRank | 5 => .gangSize | 6 => .icyc | _ => .tagDone

def IdReg.code : IdReg → Nat
  | .coreId => 0 | .quadId => 1 | .dieId => 2 | .pkgId => 3
  | .gangRank => 4 | .gangSize => 5 | .icyc => 6 | .tagDone => 7

/-- A scalar specifier (R269). -/
def SSpec.ofBits (b : BitVec 6) : Option SSpec :=
  let n := b.toNat
  let r : Fin 16 := Fin.ofNat 16 n
  if n < 16 then some (.take r)
  else if n < 32 then some (.x r)
  else if n < 48 then some (.const r)
  else if n < 56 then some (.ident (IdReg.ofCode (n - 48)))
  else none

def SSpec.toBits : SSpec → BitVec 6
  | .take n  => BitVec.ofNat 6 n.val
  | .x n     => BitVec.ofNat 6 (16 + n.val)
  | .const n => BitVec.ofNat 6 (32 + n.val)
  | .ident r => BitVec.ofNat 6 (48 + r.code)

/-- A vector specifier (R269). -/
def VSpec.ofBits (b : BitVec 6) : Option VSpec :=
  let n := b.toNat
  if n < 16 then some (.take (Fin.ofNat 16 n))
  else if n < 32 then some (.v (Fin.ofNat 16 n))
  else if n < 40 then some (.stream (Fin.ofNat 8 n))
  else if n < 42 then some (.queue (Fin.ofNat 2 n))
  else if n < 48 then none
  else some (.bcast (Fin.ofNat 16 n))

def VSpec.toBits : VSpec → BitVec 6
  | .take n   => BitVec.ofNat 6 n.val
  | .v n      => BitVec.ofNat 6 (16 + n.val)
  | .stream n => BitVec.ofNat 6 (32 + n.val)
  | .queue n  => BitVec.ofNat 6 (40 + n.val)
  | .bcast n  => BitVec.ofNat 6 (48 + n.val)

/-- A named write-back: 16-31 are reserved (R267, R268). -/
def wOfBits (b : BitVec 5) : Option WReg :=
  if h : b.toNat < 16 then some ⟨b.toNat, h⟩ else none

def wToBits (w : WReg) : BitVec 5 := BitVec.ofNat 5 w.val

/-- Element types (R271); 14 and 15 are reserved. -/
def Ty.ofBits (b : BitVec 4) : Option Ty :=
  match b.toNat with
  | 0 => some .f32 | 1 => some .bf16 | 2 => some .f16 | 3 => some .e4m3 | 4 => some .e5m2
  | 5 => some .e2m1 | 6 => some .s8 | 7 => some .z8 | 8 => some .s16 | 9 => some .z16
  | 10 => some .s32 | 11 => some .z32 | 12 => some .a32 | 13 => some .i4 | _ => none

def Ty.toBits : Ty → BitVec 4
  | .f32 => 0 | .bf16 => 1 | .f16 => 2 | .e4m3 => 3 | .e5m2 => 4 | .e2m1 => 5 | .s8 => 6
  | .z8 => 7 | .s16 => 8 | .z16 => 9 | .s32 => 10 | .z32 => 11 | .a32 => 12 | .i4 => 13

def Rm.ofBits (b : BitVec 2) : Rm :=
  match b.toNat with
  | 0 => .rne | 1 => .rtz | 2 => .sr | _ => .dyn

def Rm.toBits : Rm → BitVec 2
  | .rne => 0 | .rtz => 1 | .sr => 2 | .dyn => 3

def Pol.ofBits (b : BitVec 2) : Pol :=
  match b.toNat with
  | 0 => .sat | 1 => .inf | 2 => .nan | _ => .trap

def Pol.toBits : Pol → BitVec 2
  | .sat => 0 | .inf => 1 | .nan => 2 | .trap => 3

/-- Condition codes (R272). -/
def Cond.ofCode : Nat → Option Cond
  | 0 => some .eq | 1 => some .ne | 2 => some .lt | 3 => some .ge | 4 => some .le | 5 => some .gt
  | 6 => some .zlt | 7 => some .zge | 8 => some .zle | 9 => some .zgt | 10 => some .un
  | 11 => some .ord | _ => none

def Cond.code : Cond → Nat
  | .eq => 0 | .ne => 1 | .lt => 2 | .ge => 3 | .le => 4 | .gt => 5
  | .zlt => 6 | .zge => 7 | .zle => 8 | .zgt => 9 | .un => 10 | .ord => 11

def LdSz.ofBits (b : BitVec 3) : Option LdSz :=
  match b.toNat with
  | 0 => some .bz | 1 => some .hz | 2 => some .wz | 3 => some .d
  | 4 => some .bs | 5 => some .hs | 6 => some .ws | _ => none

def LdSz.toBits : LdSz → BitVec 3
  | .bz => 0 | .hz => 1 | .wz => 2 | .d => 3 | .bs => 4 | .hs => 5 | .ws => 6

def StSz.ofBits (b : BitVec 2) : StSz :=
  match b.toNat with
  | 0 => .b | 1 => .h | 2 => .w | _ => .d

def StSz.toBits : StSz → BitVec 2
  | .b => 0 | .h => 1 | .w => 2 | .d => 3

/-- Atomic operation codes (R357). -/
def AmoOp.ofCode : Nat → Option AmoOp
  | 0 => some .swap | 1 => some .add | 2 => some .and | 3 => some .or | 4 => some .xor
  | 5 => some .min | 6 => some .max | 7 => some .minz | 8 => some .maxz | 9 => some .fadd
  | 10 => some .fmin | 11 => some .fmax | _ => none

def AmoOp.code : AmoOp → Nat
  | .swap => 0 | .add => 1 | .and => 2 | .or => 3 | .xor => 4 | .min => 5 | .max => 6
  | .minz => 7 | .maxz => 8 | .fadd => 9 | .fmin => 10 | .fmax => 11

/-! ### Fields of a slot word (R267) -/

def fOp (w : BWord) : BitVec 8 := w.extractLsb' 24 8
def fA (w : BWord) : BitVec 6 := w.extractLsb' 18 6
def fB (w : BWord) : BitVec 6 := w.extractLsb' 12 6
def fW (w : BWord) : BitVec 5 := w.extractLsb' 7 5
def fF (w : BWord) : BitVec 7 := w.extractLsb' 0 7
def fWi (w : BWord) : BitVec 5 := w.extractLsb' 13 5
def fImm (w : BWord) : BitVec 13 := w.extractLsb' 0 13
def fOff (w : BWord) : BitVec 18 := w.extractLsb' 0 18
def fLand (w : BWord) : BitVec 10 := w.extractLsb' 3 10
def fSz (w : BWord) : BitVec 3 := w.extractLsb' 0 3
def fC (w : BWord) : BitVec 6 := w.extractLsb' 6 6
def fT (w : BWord) : BitVec 4 := w.extractLsb' 2 4
def fP (w : BWord) : BitVec 2 := w.extractLsb' 0 2
def fZ (w : BWord) : BitVec 3 := w.extractLsb' 21 3
def fTA (w : BWord) : BitVec 3 := w.extractLsb' 18 3
def fTB (w : BWord) : BitVec 3 := w.extractLsb' 15 3
def fK (w : BWord) : BitVec 8 := w.extractLsb' 7 8
def fFL (w : BWord) : BitVec 7 := w.extractLsb' 0 7
def fTag (w : BWord) : BitVec 6 := w.extractLsb' 18 6
def fCA (w : BWord) : BitVec 6 := w.extractLsb' 12 6
def fCB (w : BWord) : BitVec 6 := w.extractLsb' 6 6
def fCC (w : BWord) : BitVec 6 := w.extractLsb' 0 6

/-! ### Checks, in the order of R249 -/

/-- A field condition: failing it is ILLEGAL_OPCODE (R268). -/
def needI (b : Bool) (k : Dec) : Dec := if b then k else .error .illegalOpcode

/-- A type condition: failing it is TYPE_RESERVED (R268). -/
def needT (b : Bool) (k : Dec) : Dec := if b then k else .error .typeReserved

/-- Continue with a value, or refuse with an error where there is none. -/
def orErr {α : Type} (e : DecErr) (o : Option α) (k : α → Dec) : Dec :=
  match o with
  | some a => k a
  | none => .error e

def withS (pos : Nat) (b : BitVec 6) (k : SSpec → Dec) : Dec :=
  orErr (.operandReserved b.toNat pos) (SSpec.ofBits b) k
def withV (pos : Nat) (b : BitVec 6) (k : VSpec → Dec) : Dec :=
  orErr (.operandReserved b.toNat pos) (VSpec.ofBits b) k
def withW (b : BitVec 5) (k : WReg → Dec) : Dec := orErr (.operandReserved b.toNat 3) (wOfBits b) k

/-- The specifier field that a literal replaces must be zero (R266). -/
def litOk (b : BitVec 6) (lit : Option BWord) : Bool := lit.isNone || b == 0

def withSO (pos : Nat) (b : BitVec 6) (lit : Option BWord) (k : SOpnd → Dec) : Dec :=
  match lit with
  | some v => k (.lit v)
  | none => withS pos b fun s => k (.spec s)

def withVO (pos : Nat) (b : BitVec 6) (lit : Option BWord) (k : VOpnd → Dec) : Dec :=
  match lit with
  | some v => k (.lit v)
  | none => withV pos b fun s => k (.spec s)

/-- Refuse an instruction whose remaining fields or types its row does not admit. -/
def checked (i : Instr) : Dec := needI (fieldsOk i) (needT (typesOk i) (.ok i))

/-! ### Formats -/

/-- SA binary with an optional 32-bit form in F[0] (R288). -/
def saBinW (w : BWord) (lit : Option BWord) (k : SSpec → SOpnd → WReg → Bool → Instr) : Dec :=
  needI ((fF w).extractLsb' 1 6 == 0 && litOk (fB w) lit) <|
  withS 0 (fA w) fun a => withSO 1 (fB w) lit fun b => withW (fW w) fun r =>
  .ok (k a b r ((fF w).getLsbD 0))

/-- SA binary without a 32-bit form: F is zero. -/
def saBin (w : BWord) (lit : Option BWord) (k : SSpec → SOpnd → WReg → Instr) : Dec :=
  needI (fF w == 0 && litOk (fB w) lit) <|
  withS 0 (fA w) fun a => withSO 1 (fB w) lit fun b => withW (fW w) fun r => .ok (k a b r)

/-- SA unary with a 32-bit form: B is zero and no literal. -/
def saUnW (w : BWord) (lit : Option BWord) (k : SSpec → WReg → Bool → Instr) : Dec :=
  needI ((fF w).extractLsb' 1 6 == 0 && fB w == 0 && lit.isNone) <|
  withS 0 (fA w) fun a => withW (fW w) fun r => .ok (k a r ((fF w).getLsbD 0))

/-- SA unary: B and F zero, no literal, with a result. -/
def saUn (w : BWord) (lit : Option BWord) (k : SSpec → WReg → Instr) : Dec :=
  needI (fF w == 0 && fB w == 0 && lit.isNone) <|
  withS 0 (fA w) fun a => withW (fW w) fun r => .ok (k a r)

/-- SA unary without a result: B, F and W zero, no literal. -/
def saUnN (w : BWord) (lit : Option BWord) (k : SSpec → Instr) : Dec :=
  needI (fF w == 0 && fB w == 0 && fW w == 0 && lit.isNone) <|
  withS 0 (fA w) fun a => .ok (k a)

/-- SA binary without a result: F and W zero. -/
def saBinN (w : BWord) (lit : Option BWord) (k : SSpec → SOpnd → Instr) : Dec :=
  needI (fF w == 0 && fW w == 0 && litOk (fB w) lit) <|
  withS 0 (fA w) fun a => withSO 1 (fB w) lit fun b => .ok (k a b)

/-- A slot word whose 24 bits below the opcode are zero, without a literal. -/
def bare (w : BWord) (lit : Option BWord) (i : Instr) : Dec :=
  needI (w.extractLsb' 0 24 == 0 && lit.isNone) (.ok i)

/-- SI with an immediate or a literal (R292). -/
def siImm (w : BWord) (lit : Option BWord) (k : SSpec → WReg → Imm → Instr) : Dec :=
  needI (lit.isNone || fImm w == 0) <|
  withS 0 (fA w) fun a => withW (fWi w) fun r =>
  .ok (k a r (match lit with | some v => .lit v | none => .imm13 (fImm w)))

/-- SI shift (R292): n in [5:0], the 32-bit form in [6]. -/
def siShift (w : BWord) (lit : Option BWord) (k : SSpec → WReg → Bool → BitVec 6 → Instr) : Dec :=
  needI ((fImm w).extractLsb' 7 6 == 0 && lit.isNone) <|
  withS 0 (fA w) fun a => withW (fWi w) fun r =>
  .ok (k a r ((fImm w).getLsbD 6) ((fImm w).extractLsb' 0 6))

/-- The branch distance of an SB word (R266). -/
def offOf (w : BWord) (lit : Option BWord) : Off :=
  match lit with
  | some v => .lit v
  | none => .off18 (fOff w)

/-- SB with an operand A (R293). -/
def sbA (w : BWord) (lit : Option BWord) (k : SSpec → Off → Instr) : Dec :=
  needI (lit.isNone || fOff w == 0) <| withS 0 (fA w) fun a => .ok (k a (offOf w lit))

/-- SB with A zero (R293). -/
def sbN (w : BWord) (lit : Option BWord) (k : Off → Instr) : Dec :=
  needI ((lit.isNone || fOff w == 0) && fA w == 0) (.ok (k (offOf w lit)))

/-- P for a type that decodes; a reserved type is refused later. -/
def withT (w : BWord) (k : Ty → Dec) : Dec := orErr .typeReserved (Ty.ofBits (fT w)) k

/-- The field conditions of a vector instruction that depend on its type are checked before its
operands (R249). -/
def preFields (w : BWord) (i : Ty → Instr) : Bool :=
  match Ty.ofBits (fT w) with
  | some t => fieldsOk (i t)
  | none => true

/-- VA with operands A and B (R314). -/
def vaAB (w : BWord) (lit : Option BWord) (pz : Bool) (k : VSpec → VOpnd → Ty → BitVec 2 → Instr) : Dec :=
  needI (fC w == 0 && litOk (fB w) lit && (!pz || fP w == 0) &&
    preFields w (fun t => k (.take 0) (.spec (.take 0)) t (fP w))) <|
  withV 0 (fA w) fun a => withVO 1 (fB w) lit fun b => withT w fun t => checked (k a b t (fP w))

/-- VA with operands A, B and C (R314). -/
def vaABC (w : BWord) (lit : Option BWord) (pz : Bool)
    (k : VSpec → VOpnd → VSpec → Ty → BitVec 2 → Instr) : Dec :=
  needI (litOk (fB w) lit && (!pz || fP w == 0)) <|
  withV 0 (fA w) fun a => withVO 1 (fB w) lit fun b => withV 2 (fC w) fun c => withT w fun t =>
  checked (k a b c t (fP w))

/-- VA with operand A alone (R314). -/
def vaA (w : BWord) (lit : Option BWord) (pz : Bool) (k : VSpec → Ty → BitVec 2 → Instr) : Dec :=
  needI (fC w == 0 && fB w == 0 && lit.isNone && (!pz || fP w == 0) &&
    preFields w (fun t => k (.take 0) t (fP w))) <|
  withV 0 (fA w) fun a => withT w fun t => checked (k a t (fP w))

/-- MX outer products (R335). -/
def mxOuter (w : BWord) (k : Fin 8 → Fin 8 → Fin 8 → BitVec 8 → Bool → Instr) : Dec :=
  needI ((fFL w).extractLsb' 1 6 == 0) <|
  .ok (k (fZ w).toFin (fTA w).toFin (fTB w).toFin (fK w) ((fFL w).getLsbD 0))

/-- CX with A, B and C, tagged (R367). -/
def cxABC (w : BWord) (lit : Option BWord) (k : Fin 64 → SSpec → SSpec → SOpnd → Instr) : Dec :=
  needI (litOk (fCC w) lit) <|
  withS 0 (fCA w) fun a => withS 1 (fCB w) fun b => withSO 2 (fCC w) lit fun c =>
  .ok (k (fTag w).toFin a b c)

/-- CX with A and C, tagged; B is zero (R367). -/
def cxAC (w : BWord) (lit : Option BWord) (k : Fin 64 → SSpec → SOpnd → Instr) : Dec :=
  needI (litOk (fCC w) lit && fCB w == 0) <|
  withS 0 (fCA w) fun a => withSO 2 (fCC w) lit fun c => .ok (k (fTag w).toFin a c)

/-- CX with A and B, tagged; C is zero (R367). -/
def cxAB (w : BWord) (lit : Option BWord) (k : Fin 64 → SSpec → SSpec → Instr) : Dec :=
  needI (lit.isNone && fCC w == 0) <|
  withS 0 (fCA w) fun a => withS 1 (fCB w) fun b => .ok (k (fTag w).toFin a b)

/-- CX with A alone, untagged (R367). -/
def cxA (w : BWord) (lit : Option BWord) (k : SSpec → Instr) : Dec :=
  needI (lit.isNone && fTag w == 0 && fCB w == 0 && fCC w == 0) <|
  withS 0 (fCA w) fun a => .ok (k a)

/-! ### The four maps (R274-R277) -/

/-- Decode a slot word of the S map. -/
def decodeS (w : BWord) (lit : Option BWord) : Dec :=
  match (fOp w).toNat with
  | 0x01 => bare w lit .nop
  | 0x02 => bare w lit .endI
  | 0x03 => saUnN w lit .yield
  | 0x04 => needI (fA w == 0 && fWi w == 0 && lit.isNone) (.ok (.trap (fImm w)))
  | 0x05 => bare w lit .eret
  | 0x10 => saBinW w lit .add
  | 0x11 => saBinW w lit .sub
  | 0x12 => saBinW w lit .mul
  | 0x13 => saBin w lit .mulh
  | 0x14 => saBin w lit .mulhz
  | 0x15 => saBinW w lit .div
  | 0x16 => saBinW w lit .divz
  | 0x17 => saBinW w lit .rem
  | 0x18 => saBinW w lit .remz
  | 0x19 => saBin w lit .and
  | 0x1A => saBin w lit .or
  | 0x1B => saBin w lit .xor
  | 0x1C => saBin w lit .andn
  | 0x1D => saBinW w lit .shl
  | 0x1E => saBinW w lit .shr
  | 0x1F => saBinW w lit .sra
  | 0x20 => saBinW w lit .rot
  | 0x21 => saUnW w lit .clz
  | 0x22 => saUnW w lit .ctz
  | 0x23 => saUnW w lit .popc
  | 0x24 => saBin w lit .min
  | 0x25 => saBin w lit .max
  | 0x26 => saBin w lit .minz
  | 0x27 => saBin w lit .maxz
  | 0x28 =>
    needI ((fF w).toNat < 10 && litOk (fB w) lit) <| orErr .illegalOpcode (Cond.ofCode (fF w).toNat) fun c =>
    withS 0 (fA w) fun a => withSO 1 (fB w) lit fun b => withW (fW w) fun r => .ok (.cmp a b r c)
  | 0x29 =>
    needI ((fF w).getLsbD 6 == false && litOk (fB w) lit) <|
    withS 0 (fA w) fun a => withSO 1 (fB w) lit fun b => withW (fW w) fun r =>
    withS 2 ((fF w).extractLsb' 0 6) fun c => .ok (.sel a b r c)
  | 0x2A =>
    needI ((fF w).extractLsb' 4 3 == 0 && litOk (fB w) lit) <|
    withS 0 (fA w) fun a => withSO 1 (fB w) lit fun b => withW (fW w) fun r =>
    .ok (.agen a b r ((fF w).extractLsb' 0 4).toFin)
  | 0x2B =>
    needI ((fF w).getLsbD 6 == false && litOk (fB w) lit) <|
    withS 0 (fA w) fun a => withSO 1 (fB w) lit fun b => withW (fW w) fun r =>
    withS 2 ((fF w).extractLsb' 0 6) fun v => .ok (.bfi a b r v)
  | 0x2C =>
    needI ((fF w).getLsbD 6 == false && fB w == 0 && lit.isNone && (fF w).extractLsb' 0 2 != 3) <|
    withS 0 (fA w) fun a => withW (fW w) fun r =>
    .ok (.movx a r ((fF w).extractLsb' 2 4).toFin
      (if (fF w).getLsbD 0 then .wrX else if (fF w).getLsbD 1 then .rdT else .rdX))
  | 0x30 => needI (fA w == 0) (siImm w lit fun _ r i => .li r i)
  | 0x31 => siImm w lit .addi
  | 0x32 => siImm w lit .andi
  | 0x33 => siImm w lit .ori
  | 0x34 => siImm w lit .xori
  | 0x35 => siShift w lit .shli
  | 0x36 => siShift w lit .shri
  | 0x37 => siShift w lit .srai
  | 0x38 =>
    needI (lit.isNone && ((fImm w).extractLsb' 0 6).toNat + ((fImm w).extractLsb' 6 6).toNat + 1 ≤ 64) <|
    withS 0 (fA w) fun a => withW (fWi w) fun r =>
    .ok (.bfx a r ((fImm w).getLsbD 12) ((fImm w).extractLsb' 6 6) ((fImm w).extractLsb' 0 6))
  | 0x40 =>
    orErr .illegalOpcode (LdSz.ofBits (fSz w)) fun z =>
    withS 0 (fA w) fun a => withW (fWi w) fun r => .ok (.ld a lit r (fLand w) z)
  | 0x41 =>
    needI ((fF w).extractLsb' 4 3 == 0 && !((fF w).getLsbD 3 && (fF w).getLsbD 2)) <|
    withS 0 (fA w) fun a => withS 1 (fB w) fun b => withW (fW w) fun r =>
    .ok (.st a lit b r ((fF w).getLsbD 3) ((fF w).getLsbD 2) (StSz.ofBits ((fF w).extractLsb' 0 2)))
  | 0x42 =>
    needI ((fImm w).extractLsb' 11 2 == 0 && fWi w == 0 && lit.isNone) <|
    withS 0 (fA w) fun a => .ok (.spl a ((fImm w).extractLsb' 0 11))
  | 0x43 =>
    needI ((fImm w).extractLsb' 11 2 == 0 && fA w == 0 && lit.isNone) <|
    withW (fWi w) fun r => .ok (.fil r ((fImm w).extractLsb' 0 11))
  | 0x44 =>
    orErr .illegalOpcode (AmoOp.ofCode ((fF w).extractLsb' 0 4).toNat) fun op =>
    needI ((fF w).getLsbD 6 == false && (!(fF w).getLsbD 5 || fW w == 0) &&
      (!op.isFloat || (fF w).getLsbD 4)) <|
    withS 0 (fA w) fun a => withS 1 (fB w) fun b => withW (fW w) fun r =>
    .ok (.amo a lit b r ((fF w).getLsbD 5) ((fF w).getLsbD 4) op)
  | 0x45 =>
    withS 0 (fA w) fun a => withS 1 (fB w) fun b => withW (fW w) fun r =>
    withS 2 ((fF w).extractLsb' 0 6) fun e => .ok (.amocas a lit b r ((fF w).getLsbD 6) e)
  | 0x46 =>
    needI (fA w == 0 && fB w == 0 && fW w == 0 && (fF w).getLsbD 6 == false && lit.isNone) <|
    .ok (.fence ((fF w).extractLsb' 2 4) ((fF w).extractLsb' 0 2))
  | 0x47 => saUn w lit .mqrd
  | 0x48 => saUnN w lit .mqrel
  | 0x50 => sbN w lit .br
  | 0x51 => sbA w lit .beqz
  | 0x52 => sbA w lit .bnez
  | 0x53 => sbA w lit .bltz
  | 0x54 => sbA w lit .bgez
  | 0x55 => sbN w lit .bmz
  | 0x56 => sbN w lit .bmnz
  | 0x57 =>
    needI ((lit.isNone || fOff w == 0) && 17 ≤ (fA w).toNat && (fA w).toNat < 32) <|
    .ok (.loop (Fin.ofNat 16 (fA w).toNat) (offOf w lit))
  | 0x58 => sbN w lit .call
  | 0x59 => saBinN w lit .jt
  | 0x5A => saBin w lit .calli
  | 0x5B => saUnN w lit .ret
  | 0x60 => saUn w lit .twait
  | 0x61 => saUn w lit .twany
  | 0x62 => saUn w lit .tffr
  | 0x63 => saUnN w lit .tclr
  | 0x64 => saBinN w lit .binit
  | 0x65 => saUnN w lit .barr
  | 0x66 => saBin w lit .bwait
  | 0x67 => saBin w lit .btest
  | 0x68 => saUnN w lit .binv
  | 0x70 =>
    needI (fA w == 0 && (fImm w).getLsbD 12 == false && lit.isNone && csrAssigned ((fImm w).extractLsb' 0 12)) <|
    withW (fWi w) fun r => .ok (.csrr r ((fImm w).extractLsb' 0 12))
  | 0x71 =>
    needI (fWi w == 0 && (fImm w).getLsbD 12 == false && lit.isNone && csrAssigned ((fImm w).extractLsb' 0 12)) <|
    withS 0 (fA w) fun a => .ok (.csrw a ((fImm w).extractLsb' 0 12))
  | 0x72 =>
    needI (fWi w == 0 && (fImm w).getLsbD 12 == false && lit.isNone) <|
    withS 0 (fA w) fun a =>
    if (fImm w).getLsbD 3 then .ok (.sbindWr a ((fImm w).extractLsb' 4 8) ((fImm w).extractLsb' 0 3).toFin)
    else .ok (.sbindRd a ((fImm w).extractLsb' 4 8) ((fImm w).extractLsb' 0 3).toFin)
  | 0x73 =>
    needI (w.extractLsb' 3 21 == 0 && lit.isNone) <| .ok (.sunbind ((fImm w).extractLsb' 0 3).toFin)
  | 0x74 => saUn w lit .lnch
  | 0x75 =>
    needI (w.extractLsb' 1 23 == 0 && lit.isNone) <|
    .ok (if w.getLsbD 0 then .dmodeRew else .dmodeFwd)
  | 0x76 => saBinW w lit .adjrd
  | 0x77 => saBinW w lit .adjclr
  | 0x7C =>
    match (fF w).toNat with
    | 0 => needI (fB w == 0 && lit.isNone) (withS 0 (fA w) fun a => withW (fW w) fun r => .ok (.tlbinvPart a r))
    | 1 =>
      needI (litOk (fB w) lit) <|
      withS 0 (fA w) fun a => withSO 1 (fB w) lit fun b => withW (fW w) fun r => .ok (.tlbinvIpa a b r)
    | 2 => needI (fA w == 0 && fB w == 0 && lit.isNone) (withW (fW w) fun r => .ok (.tlbinvAll r))
    | _ => .error .illegalOpcode
  | 0x7D => saUn w lit .scrub
  | 0x7E =>
    needI (fA w == 0 && fB w == 0 && lit.isNone) <|
    match (fF w).toNat with
    | 0 => withW (fW w) fun r => .ok (.voteRd r)
    | 1 => withW (fW w) fun r => .ok (.voteAbort r)
    | 2 => withW (fW w) fun r => .ok (.voteCommit r)
    | _ => .error .illegalOpcode
  | 0x7F => saUn w lit .wfi
  | _ => .error .illegalOpcode

/-- Decode a slot word of the V map (R275, R314). -/
def decodeV (w : BWord) (lit : Option BWord) : Dec :=
  match (fOp w).toNat with
  | 0x01 => vaAB w lit false .vadd
  | 0x02 => vaAB w lit false .vsub
  | 0x03 => vaAB w lit false .vmul
  | 0x04 => vaABC w lit false .vfma
  | 0x05 => vaABC w lit false .vfms
  | 0x06 => vaABC w lit false .vfnma
  | 0x07 => vaAB w lit false .vdiv
  | 0x08 => vaA w lit false .vsqrt
  | 0x09 => vaA w lit false .vrsq
  | 0x0A => vaA w lit false .vrcp
  | 0x0B => vaA w lit false .vexp2
  | 0x0C => vaA w lit false .vlog2
  | 0x0D => vaAB w lit true fun a b t _ => .vmin a b t
  | 0x0E => vaAB w lit true fun a b t _ => .vmax a b t
  | 0x0F => vaA w lit false .vabs
  | 0x10 => vaA w lit false .vneg
  | 0x11 => vaAB w lit true fun a b t _ => .vcps a b t
  | 0x20 => vaAB w lit true fun a b t _ => .vand a b t
  | 0x21 => vaAB w lit true fun a b t _ => .vor a b t
  | 0x22 => vaAB w lit true fun a b t _ => .vxor a b t
  | 0x23 => vaA w lit true fun a t _ => .vnot a t
  | 0x24 => vaAB w lit true fun a b t _ => .vshl a b t
  | 0x25 => vaAB w lit true fun a b t _ => .vshr a b t
  | 0x26 => vaAB w lit true fun a b t _ => .vsra a b t
  | 0x27 => vaAB w lit true fun a b t _ => .vmulh a b t
  | 0x30 =>
    orErr .illegalOpcode (Cond.ofCode (fC w).toNat) fun c =>
    needI (litOk (fB w) lit && fP w == 0) <|
    withV 0 (fA w) fun a => withVO 1 (fB w) lit fun b => withT w fun t => checked (.vcmp a b c t)
  | 0x31 => vaABC w lit true fun a b c t _ => .vsel a b c t
  | 0x32 => vaA w lit true fun a t _ => .vclass a t
  | 0x40 =>
    needI (w.extractLsb' 6 4 == 0 && fP w == 0 && lit.isNone) <|
    withV 0 (fA w) fun a =>
    orErr .typeReserved (Ty.ofBits (w.extractLsb' 14 4)) fun td => withT w fun ts =>
    checked (.vcvt a td (Pol.ofBits (w.extractLsb' 12 2)) (Rm.ofBits (w.extractLsb' 10 2)) ts)
  | 0x41 =>
    needI (fC w == 0 && fP w == 0 && litOk (fB w) lit && fT w != 0 && !(8 ≤ (fT w).toNat && (fT w).toNat < 14)) <|
    withV 0 (fA w) fun a => withVO 1 (fB w) lit fun b =>
    needT ((fT w).toNat < 8) (.ok (.vpack a b (Fin.ofNat 8 (fT w).toNat)))
  | 0x42 =>
    needI (fC w == 0 && fB w == 0 && fP w == 0 && lit.isNone && fT w != 0 &&
      !(8 ≤ (fT w).toNat && (fT w).toNat < 14)) <|
    withV 0 (fA w) fun a => needT ((fT w).toNat < 8) (.ok (.vunpk a (Fin.ofNat 8 (fT w).toNat)))
  | 0x43 => vaAB w lit false .vscl
  | 0x44 => vaAB w lit false .vanc
  | 0x45 => vaAB w lit false .vdanc
  | 0x46 => vaABC w lit false .vqdec
  | 0x50 => vaA w lit true fun a t _ => .vbcst a t
  | 0x51 => vaA w lit true fun a t _ => .viota a t
  | 0x52 => vaAB w lit true fun a b t _ => .vperm a b t
  | 0x53 => vaABC w lit true fun a b c t _ => .vslide a b c t
  | 0x54 =>
    needI ((fP w).getLsbD 1 == false) (vaAB w lit false fun a b t p => .vzip a b t (p.getLsbD 0))
  | 0x55 =>
    needI ((fP w).getLsbD 1 == false) (vaAB w lit false fun a b t p => .vunzip a b t (p.getLsbD 0))
  | 0x56 =>
    needI (fB w == 0 && fP w == 0 && lit.isNone && 16 ≤ (fC w).toNat && (fC w).toNat < 32) <|
    withV 0 (fA w) fun a => withT w fun t => .ok (.vmov a (Fin.ofNat 16 (fC w).toNat) t)
  | 0x57 =>
    needI (fB w == 0 && fP w == 0 && lit.isNone && 32 ≤ (fC w).toNat && (fC w).toNat < 40) <|
    withV 0 (fA w) fun a => withT w fun t => .ok (.vsw a (Fin.ofNat 8 (fC w).toNat) t)
  | 0x58 => vaAB w lit true fun a b t _ => .vext a b t
  | 0x60 => vaA w lit false .vrsum
  | 0x61 => vaA w lit true fun a t _ => .vrmax a t
  | 0x62 => vaA w lit true fun a t _ => .vrmin a t
  | 0x63 => vaA w lit false .vscan
  | 0x64 => vaAB w lit false .vdot
  | 0x70 => vaA w lit true fun a t _ => .mpush a t
  | 0x71 => bare w lit .minv
  | 0x72 => bare w lit .mpop
  | 0x73 => vaA w lit true fun a t _ => .mset a t
  | _ => .error .illegalOpcode

/-- Decode a slot word of the M map (R276, R335); the format takes no literal (R263). -/
def decodeM (w : BWord) (lit : Option BWord) : Dec :=
  needI lit.isNone <|
  match (fOp w).toNat with
  | 0x01 => mxOuter w .mop
  | 0x02 => mxOuter w .mopz
  | 0x03 => mxOuter w .mr1
  | 0x04 => mxOuter w .mr1z
  | 0x08 => needI (w.extractLsb' 0 21 == 0) (.ok (.mzero (fZ w).toFin))
  | 0x09 => needI (w.extractLsb' 1 17 == 0) (.ok (.macc (fZ w).toFin (fTA w).toFin (w.getLsbD 0)))
  | 0x0A => needI (w.extractLsb' 7 14 == 0) (.ok (.mscl (fZ w).toFin (fFL w)))
  | 0x10 =>
    needI (w.extractLsb' 4 3 == 0 && (w.extractLsb' 11 4).toNat + (w.extractLsb' 7 4).toNat + 1 ≤ 16) <|
    orErr .typeReserved (Ty.ofBits (w.extractLsb' 0 4)) fun t =>
    checked (.mdrain (fZ w).toFin (w.extractLsb' 20 1).toFin (Pol.ofBits (w.extractLsb' 18 2)) (w.getLsbD 17)
      (Rm.ofBits (w.extractLsb' 15 2)) (w.extractLsb' 11 4) (w.extractLsb' 7 4) t)
  | 0x18 => needI (w.extractLsb' 7 17 == 0) (.ok (.mfmt (fFL w)))
  | 0x20 =>
    needI (w.extractLsb' 6 15 == 0) (.ok (.msave (fZ w).toFin (w.getLsbD 5) (w.extractLsb' 0 5).toFin))
  | 0x21 =>
    needI (w.extractLsb' 6 15 == 0) (.ok (.mload (fZ w).toFin (w.getLsbD 5) (w.extractLsb' 0 5).toFin))
  | 0x28 => needI (w.extractLsb' 0 24 == 0) (.ok .mfence)
  | _ => .error .illegalOpcode

/-- Decode a slot word of the C map (R277, R367). -/
def decodeC (w : BWord) (lit : Option BWord) : Dec :=
  match (fOp w).toNat with
  | 0x01 => cxABC w lit .cpy
  | 0x02 => cxABC w lit .cpyp
  | 0x03 => cxABC w lit .cstrp
  | 0x04 =>
    needI ((fCA w).extractLsb' 3 3 == 4 && litOk (fCC w) lit) <|
    withS 1 (fCB w) fun b => withSO 2 (fCC w) lit fun c =>
    .ok (.ctld (fTag w).toFin ((fCA w).extractLsb' 0 3).toFin b c)
  | 0x05 =>
    needI ((fCA w).extractLsb' 3 3 == 4 && litOk (fCC w) lit) <|
    withS 1 (fCB w) fun b => withSO 2 (fCC w) lit fun c =>
    .ok (.ctst (fTag w).toFin ((fCA w).extractLsb' 0 3).toFin b c)
  | 0x06 =>
    needI ((fCA w).extractLsb' 1 5 == 16 && litOk (fCC w) lit) <|
    withS 1 (fCB w) fun b => withSO 2 (fCC w) lit fun c =>
    .ok (.cqst (fTag w).toFin ((fCA w).extractLsb' 0 1).toFin b c)
  | 0x07 => cxABC w lit .cfill
  | 0x08 => cxAC w lit .czero
  | 0x09 =>
    needI (litOk (fCC w) lit && fTag w == 0 && fCB w == 0) <|
    withS 0 (fCA w) fun a => withSO 2 (fCC w) lit fun c => .ok (.cpref a c)
  | 0x0A => cxAC w lit .cflush
  | 0x20 => cxAB w lit .cmsg
  | 0x21 => cxABC w lit .fwr
  | 0x22 => cxABC w lit .famo
  | 0x23 => cxABC w lit .freq
  | 0x24 => cxAC w lit .flnch
  | 0x30 =>
    needI (lit.isNone && fTag w == 0 && fCC w == 0) <|
    withS 0 (fCA w) fun a => withS 1 (fCB w) fun b => .ok (.ttset a b)
  | 0x31 => cxA w lit .trdy
  | 0x32 => cxA w lit .rcut
  | 0x33 => cxA w lit .rpick
  | 0x34 =>
    needI (lit.isNone && w.getLsbD 23 == false && fCB w == 0 && fCC w == 0) <|
    withW (w.extractLsb' 18 5) fun r => withS 0 (fCA w) fun a => .ok (.rstat r a)
  | 0x40 => cxAB w lit .nbld
  | 0x41 => cxAC w lit .nbx
  | 0x42 =>
    needI (lit.isNone && w.getLsbD 23 == false && fCC w == 0) <|
    withW (w.extractLsb' 18 5) fun r => withS 0 (fCA w) fun a => withS 1 (fCB w) fun b => .ok (.nbq r a b)
  | 0x43 => cxABC w lit .msat
  | 0x50 =>
    needI (litOk (fCC w) lit && fTag w == 0) <|
    withS 0 (fCA w) fun a => withS 1 (fCB w) fun b => withSO 2 (fCC w) lit fun c => .ok (.hsig a b c)
  | _ => .error .illegalOpcode

/-- Decode a slot word by the map of its class, with the literal that follows it. -/
def decodeSlot (cls : SlotClass) (w : BWord) (lit : Option BWord) : Dec :=
  match cls with
  | .s => decodeS w lit
  | .v => decodeV w lit
  | .m => decodeM w lit
  | .c => decodeC w lit

/-! ### Bytes and the opcode table's words -/

/-- A 32-bit word from four bytes, the first at the lowest address (R2). -/
def wordOfBytes : List Byte → Option (BWord × List Byte)
  | b0 :: b1 :: b2 :: b3 :: rest => some (b3 ++ b2 ++ b1 ++ b0, rest)
  | _ => none

/-- The four bytes of a word as memory holds them. -/
def bytesOfWord (w : BWord) : List Byte :=
  [w.extractLsb' 0 8, w.extractLsb' 8 8, w.extractLsb' 16 8, w.extractLsb' 24 8]

/-- Decode one slot word from bytes by the map of a class, total on any bytes: the instruction and
the bytes behind it. -/
def decodeBytes (cls : SlotClass) (bytes : List Byte) : Option (Instr × List Byte) :=
  match wordOfBytes bytes with
  | some (w, rest) => match decodeSlot cls w none with
    | .ok i => some (i, rest)
    | .error _ => none
  | none => none

/-- The first class, in slot order, whose map admits the word. A slot word alone does not say which
map it belongs to: the header's PRES bit does (R262, R273). DEDUCED: log entry 13. -/
def classOfWord (bytes : List Byte) : Option (SlotClass × Instr) :=
  match decodeBytes .s bytes with
  | some (i, _) => some (.s, i)
  | none => match decodeBytes .v bytes with
    | some (i, _) => some (.v, i)
    | none => match decodeBytes .m bytes with
      | some (i, _) => some (.m, i)
      | none => match decodeBytes .c bytes with
        | some (i, _) => some (.c, i)
        | none => none

/-- The instruction that a word of the opcode table stands for. -/
def decodeTableWord (nbits w : Nat) : Option Instr :=
  if nbits ≤ 32 then (classOfWord (bytesOfWord (BitVec.ofNat 32 w))).map (·.2) else none

/-! ### The encoder -/

/-- A slot word with its class and literal. -/
structure Encoded where
  cls  : SlotClass
  word : BWord
  lit  : Option BWord
  deriving DecidableEq, Repr

def SOpnd.bits : SOpnd → BitVec 6
  | .spec s => s.toBits
  | .lit _ => 0

def SOpnd.litOf : SOpnd → Option BWord
  | .spec _ => none
  | .lit v => some v

def VOpnd.bits : VOpnd → BitVec 6
  | .spec s => s.toBits
  | .lit _ => 0

def VOpnd.litOf : VOpnd → Option BWord
  | .spec _ => none
  | .lit v => some v

def Imm.bits : Imm → BitVec 13
  | .imm13 v => v
  | .lit _ => 0

def Imm.litOf : Imm → Option BWord
  | .imm13 _ => none
  | .lit v => some v

def Off.bits : Off → BitVec 18
  | .off18 v => v
  | .lit _ => 0

def Off.litOf : Off → Option BWord
  | .off18 _ => none
  | .lit v => some v

def bit1 (b : Bool) : BitVec 1 := BitVec.ofBool b

/-- Format SA (R267). -/
def packSA (op : BitVec 8) (a b : BitVec 6) (w : BitVec 5) (f : BitVec 7) : BWord := op ++ a ++ b ++ w ++ f

/-- Format SI (R267). -/
def packSI (op : BitVec 8) (a : BitVec 6) (w : BitVec 5) (i : BitVec 13) : BWord := op ++ a ++ w ++ i

/-- Format SB (R267). -/
def packSB (op : BitVec 8) (a : BitVec 6) (o : BitVec 18) : BWord := op ++ a ++ o

/-- Format VA (R267). -/
def packVA (op : BitVec 8) (a b c : BitVec 6) (t : BitVec 4) (p : BitVec 2) : BWord :=
  op ++ a ++ b ++ c ++ t ++ p

/-- Format MX (R267). -/
def packMX (op : BitVec 8) (z a b : BitVec 3) (k : BitVec 8) (f : BitVec 7) : BWord :=
  op ++ z ++ a ++ b ++ k ++ f

/-- Format CX (R267). -/
def packCX (op : BitVec 8) (g a b c : BitVec 6) : BWord := op ++ g ++ a ++ b ++ c

def encSAw (op : BitVec 8) (a : SSpec) (b : SOpnd) (w : WReg) (s : Bool) : Encoded :=
  ⟨.s, packSA op a.toBits b.bits (wToBits w) (0#6 ++ bit1 s), b.litOf⟩

def encSA (op : BitVec 8) (a : SSpec) (b : SOpnd) (w : WReg) (f : BitVec 7) : Encoded :=
  ⟨.s, packSA op a.toBits b.bits (wToBits w) f, b.litOf⟩

def encSAu (op : BitVec 8) (a : SSpec) (w : WReg) (f : BitVec 7) : Encoded :=
  ⟨.s, packSA op a.toBits 0 (wToBits w) f, none⟩

def encSI (op : BitVec 8) (a : SSpec) (w : WReg) (i : Imm) : Encoded :=
  ⟨.s, packSI op a.toBits (wToBits w) i.bits, i.litOf⟩

def encSIx (op : BitVec 8) (a : BitVec 6) (w : BitVec 5) (i : BitVec 13) : Encoded :=
  ⟨.s, packSI op a w i, none⟩

def encSB (op : BitVec 8) (a : BitVec 6) (o : Off) : Encoded := ⟨.s, packSB op a o.bits, o.litOf⟩

def encV2 (op : BitVec 8) (a : VSpec) (b : VOpnd) (t : Ty) (p : BitVec 2) : Encoded :=
  ⟨.v, packVA op a.toBits b.bits 0 t.toBits p, b.litOf⟩

def encV3 (op : BitVec 8) (a : VSpec) (b : VOpnd) (c : VSpec) (t : Ty) (p : BitVec 2) : Encoded :=
  ⟨.v, packVA op a.toBits b.bits c.toBits t.toBits p, b.litOf⟩

def encV1 (op : BitVec 8) (a : VSpec) (t : Ty) (p : BitVec 2) : Encoded :=
  ⟨.v, packVA op a.toBits 0 0 t.toBits p, none⟩

def encMX (op : BitVec 8) (z a b : Fin 8) (k : BitVec 8) (f : BitVec 7) : Encoded :=
  ⟨.m, packMX op (BitVec.ofNat 3 z.val) (BitVec.ofNat 3 a.val) (BitVec.ofNat 3 b.val) k f, none⟩

def encCX (op : BitVec 8) (g : Fin 64) (a b : BitVec 6) (c : SOpnd) : Encoded :=
  ⟨.c, packCX op (BitVec.ofNat 6 g.val) a b c.bits, c.litOf⟩

def encCX0 (op : BitVec 8) (g a b : BitVec 6) : Encoded := ⟨.c, packCX op g a b 0, none⟩

/-- The slot word and literal of a well-formed slot instruction; a step of the rest of the module
has no encoding. -/
def encode : Instr → Option Encoded
  | .nop => some ⟨.s, packSA 0x01 0 0 0 0, none⟩
  | .endI => some ⟨.s, packSA 0x02 0 0 0 0, none⟩
  | .yield a => some ⟨.s, packSA 0x03 a.toBits 0 0 0, none⟩
  | .trap i => some (encSIx 0x04 0 0 i)
  | .eret => some ⟨.s, packSA 0x05 0 0 0 0, none⟩
  | .add a b w s => some (encSAw 0x10 a b w s)
  | .sub a b w s => some (encSAw 0x11 a b w s)
  | .mul a b w s => some (encSAw 0x12 a b w s)
  | .mulh a b w => some (encSA 0x13 a b w 0)
  | .mulhz a b w => some (encSA 0x14 a b w 0)
  | .div a b w s => some (encSAw 0x15 a b w s)
  | .divz a b w s => some (encSAw 0x16 a b w s)
  | .rem a b w s => some (encSAw 0x17 a b w s)
  | .remz a b w s => some (encSAw 0x18 a b w s)
  | .and a b w => some (encSA 0x19 a b w 0)
  | .or a b w => some (encSA 0x1A a b w 0)
  | .xor a b w => some (encSA 0x1B a b w 0)
  | .andn a b w => some (encSA 0x1C a b w 0)
  | .shl a b w s => some (encSAw 0x1D a b w s)
  | .shr a b w s => some (encSAw 0x1E a b w s)
  | .sra a b w s => some (encSAw 0x1F a b w s)
  | .rot a b w s => some (encSAw 0x20 a b w s)
  | .clz a w s => some (encSAu 0x21 a w (0#6 ++ bit1 s))
  | .ctz a w s => some (encSAu 0x22 a w (0#6 ++ bit1 s))
  | .popc a w s => some (encSAu 0x23 a w (0#6 ++ bit1 s))
  | .min a b w => some (encSA 0x24 a b w 0)
  | .max a b w => some (encSA 0x25 a b w 0)
  | .minz a b w => some (encSA 0x26 a b w 0)
  | .maxz a b w => some (encSA 0x27 a b w 0)
  | .cmp a b w c => some (encSA 0x28 a b w (BitVec.ofNat 7 c.code))
  | .sel a b w c => some (encSA 0x29 a b w (0#1 ++ c.toBits))
  | .agen a b w k => some (encSA 0x2A a b w (0#3 ++ BitVec.ofNat 4 k.val))
  | .bfi a b w v => some (encSA 0x2B a b w (0#1 ++ v.toBits))
  | .movx a w idx f =>
    some (encSAu 0x2C a w (0#1 ++ BitVec.ofNat 4 idx.val ++
      (match f with | .rdX => 0#2 | .rdT => 2#2 | .wrX => 1#2)))
  | .li w i => some ⟨.s, packSI 0x30 0 (wToBits w) i.bits, i.litOf⟩
  | .addi a w i => some (encSI 0x31 a w i)
  | .andi a w i => some (encSI 0x32 a w i)
  | .ori a w i => some (encSI 0x33 a w i)
  | .xori a w i => some (encSI 0x34 a w i)
  | .shli a w s n => some (encSIx 0x35 a.toBits (wToBits w) (0#6 ++ bit1 s ++ n))
  | .shri a w s n => some (encSIx 0x36 a.toBits (wToBits w) (0#6 ++ bit1 s ++ n))
  | .srai a w s n => some (encSIx 0x37 a.toBits (wToBits w) (0#6 ++ bit1 s ++ n))
  | .bfx a w x len pos => some (encSIx 0x38 a.toBits (wToBits w) (bit1 x ++ len ++ pos))
  | .ld a d w land sz =>
    some ⟨.s, 0x40#8 ++ a.toBits ++ wToBits w ++ land ++ sz.toBits, d⟩
  | .st a d b w na sp sz =>
    some ⟨.s, packSA 0x41 a.toBits b.toBits (wToBits w) (0#3 ++ bit1 na ++ bit1 sp ++ sz.toBits), d⟩
  | .spl a off => some (encSIx 0x42 a.toBits 0 (0#2 ++ off))
  | .fil w off => some (encSIx 0x43 0 (wToBits w) (0#2 ++ off))
  | .amo a d b w nr w32 op =>
    some ⟨.s, packSA 0x44 a.toBits b.toBits (wToBits w)
      (0#1 ++ bit1 nr ++ bit1 w32 ++ BitVec.ofNat 4 op.code), d⟩
  | .amocas a d b w w32 e =>
    some ⟨.s, packSA 0x45 a.toBits b.toBits (wToBits w) (bit1 w32 ++ e.toBits), d⟩
  | .fence scope kind => some ⟨.s, packSA 0x46 0 0 0 (0#1 ++ scope ++ kind), none⟩
  | .mqrd a w => some (encSAu 0x47 a w 0)
  | .mqrel a => some (encSAu 0x48 a 0 0)
  | .br o => some (encSB 0x50 0 o)
  | .beqz a o => some (encSB 0x51 a.toBits o)
  | .bnez a o => some (encSB 0x52 a.toBits o)
  | .bltz a o => some (encSB 0x53 a.toBits o)
  | .bgez a o => some (encSB 0x54 a.toBits o)
  | .bmz o => some (encSB 0x55 0 o)
  | .bmnz o => some (encSB 0x56 0 o)
  | .loop n o => some (encSB 0x57 (BitVec.ofNat 6 (16 + n.val)) o)
  | .call o => some (encSB 0x58 0 o)
  | .jt a b => some (encSA 0x59 a b 0 0)
  | .calli a b w => some (encSA 0x5A a b w 0)
  | .ret a => some (encSAu 0x5B a 0 0)
  | .twait a w => some (encSAu 0x60 a w 0)
  | .twany a w => some (encSAu 0x61 a w 0)
  | .tffr a w => some (encSAu 0x62 a w 0)
  | .tclr a => some (encSAu 0x63 a 0 0)
  | .binit a b => some (encSA 0x64 a b 0 0)
  | .barr a => some (encSAu 0x65 a 0 0)
  | .bwait a b w => some (encSA 0x66 a b w 0)
  | .btest a b w => some (encSA 0x67 a b w 0)
  | .binv a => some (encSAu 0x68 a 0 0)
  | .csrr w c => some (encSIx 0x70 0 (wToBits w) (0#1 ++ c))
  | .csrw a c => some (encSIx 0x71 a.toBits 0 (0#1 ++ c))
  | .sbindRd a off s => some (encSIx 0x72 a.toBits 0 (0#1 ++ off ++ 0#1 ++ BitVec.ofNat 3 s.val))
  | .sbindWr a off s => some (encSIx 0x72 a.toBits 0 (0#1 ++ off ++ 1#1 ++ BitVec.ofNat 3 s.val))
  | .sunbind s => some (encSIx 0x73 0 0 (0#10 ++ BitVec.ofNat 3 s.val))
  | .lnch a w => some (encSAu 0x74 a w 0)
  | .dmodeFwd => some (encSIx 0x75 0 0 0)
  | .dmodeRew => some (encSIx 0x75 0 0 1)
  | .adjrd a b w sp => some (encSAw 0x76 a b w sp)
  | .adjclr a b w sp => some (encSAw 0x77 a b w sp)
  | .tlbinvPart a w => some (encSAu 0x7C a w 0)
  | .tlbinvIpa a b w => some (encSA 0x7C a b w 1)
  | .tlbinvAll w => some ⟨.s, packSA 0x7C 0 0 (wToBits w) 2, none⟩
  | .scrub a w => some (encSAu 0x7D a w 0)
  | .voteRd w => some ⟨.s, packSA 0x7E 0 0 (wToBits w) 0, none⟩
  | .voteAbort w => some ⟨.s, packSA 0x7E 0 0 (wToBits w) 1, none⟩
  | .voteCommit w => some ⟨.s, packSA 0x7E 0 0 (wToBits w) 2, none⟩
  | .wfi a w => some (encSAu 0x7F a w 0)
  | .vadd a b t p => some (encV2 0x01 a b t p)
  | .vsub a b t p => some (encV2 0x02 a b t p)
  | .vmul a b t p => some (encV2 0x03 a b t p)
  | .vfma a b c t p => some (encV3 0x04 a b c t p)
  | .vfms a b c t p => some (encV3 0x05 a b c t p)
  | .vfnma a b c t p => some (encV3 0x06 a b c t p)
  | .vdiv a b t p => some (encV2 0x07 a b t p)
  | .vsqrt a t p => some (encV1 0x08 a t p)
  | .vrsq a t p => some (encV1 0x09 a t p)
  | .vrcp a t p => some (encV1 0x0A a t p)
  | .vexp2 a t p => some (encV1 0x0B a t p)
  | .vlog2 a t p => some (encV1 0x0C a t p)
  | .vmin a b t => some (encV2 0x0D a b t 0)
  | .vmax a b t => some (encV2 0x0E a b t 0)
  | .vabs a t p => some (encV1 0x0F a t p)
  | .vneg a t p => some (encV1 0x10 a t p)
  | .vcps a b t => some (encV2 0x11 a b t 0)
  | .vand a b t => some (encV2 0x20 a b t 0)
  | .vor a b t => some (encV2 0x21 a b t 0)
  | .vxor a b t => some (encV2 0x22 a b t 0)
  | .vnot a t => some (encV1 0x23 a t 0)
  | .vshl a b t => some (encV2 0x24 a b t 0)
  | .vshr a b t => some (encV2 0x25 a b t 0)
  | .vsra a b t => some (encV2 0x26 a b t 0)
  | .vmulh a b t => some (encV2 0x27 a b t 0)
  | .vcmp a b c t => some ⟨.v, packVA 0x30 a.toBits b.bits (BitVec.ofNat 6 c.code) t.toBits 0, b.litOf⟩
  | .vsel a b c t => some (encV3 0x31 a b c t 0)
  | .vclass a t => some (encV1 0x32 a t 0)
  | .vcvt a td pol m ts =>
    some ⟨.v, 0x40#8 ++ a.toBits ++ td.toBits ++ pol.toBits ++ m.toBits ++ 0#4 ++ ts.toBits ++ 0#2, none⟩
  | .vpack a b g => some ⟨.v, packVA 0x41 a.toBits b.bits 0 (BitVec.ofNat 4 g.val) 0, b.litOf⟩
  | .vunpk a g => some ⟨.v, packVA 0x42 a.toBits 0 0 (BitVec.ofNat 4 g.val) 0, none⟩
  | .vscl a b t p => some (encV2 0x43 a b t p)
  | .vanc a b t p => some (encV2 0x44 a b t p)
  | .vdanc a b t p => some (encV2 0x45 a b t p)
  | .vqdec a b c t p => some (encV3 0x46 a b c t p)
  | .vbcst a t => some (encV1 0x50 a t 0)
  | .viota a t => some (encV1 0x51 a t 0)
  | .vperm a b t => some (encV2 0x52 a b t 0)
  | .vslide a b c t => some (encV3 0x53 a b c t 0)
  | .vzip a b t hi => some (encV2 0x54 a b t (0#1 ++ bit1 hi))
  | .vunzip a b t hi => some (encV2 0x55 a b t (0#1 ++ bit1 hi))
  | .vmov a n t => some ⟨.v, packVA 0x56 a.toBits 0 (BitVec.ofNat 6 (16 + n.val)) t.toBits 0, none⟩
  | .vsw a n t => some ⟨.v, packVA 0x57 a.toBits 0 (BitVec.ofNat 6 (32 + n.val)) t.toBits 0, none⟩
  | .vext a b t => some (encV2 0x58 a b t 0)
  | .vrsum a t p => some (encV1 0x60 a t p)
  | .vrmax a t => some (encV1 0x61 a t 0)
  | .vrmin a t => some (encV1 0x62 a t 0)
  | .vscan a t p => some (encV1 0x63 a t p)
  | .vdot a b t p => some (encV2 0x64 a b t p)
  | .mpush a t => some (encV1 0x70 a t 0)
  | .minv => some ⟨.v, packVA 0x71 0 0 0 0 0, none⟩
  | .mpop => some ⟨.v, packVA 0x72 0 0 0 0 0, none⟩
  | .mset a t => some (encV1 0x73 a t 0)
  | .mop z a b k neg => some (encMX 0x01 z a b k (0#6 ++ bit1 neg))
  | .mopz z a b k neg => some (encMX 0x02 z a b k (0#6 ++ bit1 neg))
  | .mr1 z a b k neg => some (encMX 0x03 z a b k (0#6 ++ bit1 neg))
  | .mr1z z a b k neg => some (encMX 0x04 z a b k (0#6 ++ bit1 neg))
  | .mzero z => some (encMX 0x08 z 0 0 0 0)
  | .macc z s neg => some (encMX 0x09 z s 0 0 (0#6 ++ bit1 neg))
  | .mscl z e => some (encMX 0x0A z 0 0 0 e)
  | .mdrain z q pol clr m first rows t =>
    some ⟨.m, 0x10#8 ++ BitVec.ofNat 3 z.val ++ BitVec.ofNat 1 q.val ++ pol.toBits ++ bit1 clr ++ m.toBits ++
      first ++ rows ++ 0#3 ++ t.toBits, none⟩
  | .mfmt v => some (encMX 0x18 0 0 0 0 v)
  | .msave z h p => some (encMX 0x20 z 0 0 0 (0#1 ++ bit1 h ++ BitVec.ofNat 5 p.val))
  | .mload z h p => some (encMX 0x21 z 0 0 0 (0#1 ++ bit1 h ++ BitVec.ofNat 5 p.val))
  | .mfence => some (encMX 0x28 0 0 0 0 0)
  | .cpy g a b c => some (encCX 0x01 g a.toBits b.toBits c)
  | .cpyp g a b c => some (encCX 0x02 g a.toBits b.toBits c)
  | .cstrp g a b c => some (encCX 0x03 g a.toBits b.toBits c)
  | .ctld g n b c => some (encCX 0x04 g (4#3 ++ BitVec.ofNat 3 n.val) b.toBits c)
  | .ctst g n b c => some (encCX 0x05 g (4#3 ++ BitVec.ofNat 3 n.val) b.toBits c)
  | .cqst g q b c => some (encCX 0x06 g (16#5 ++ BitVec.ofNat 1 q.val) b.toBits c)
  | .cfill g a b c => some (encCX 0x07 g a.toBits b.toBits c)
  | .czero g a c => some (encCX 0x08 g a.toBits 0 c)
  | .cpref a c => some (encCX 0x09 0 a.toBits 0 c)
  | .cflush g a c => some (encCX 0x0A g a.toBits 0 c)
  | .cmsg g a b => some (encCX0 0x20 (BitVec.ofNat 6 g.val) a.toBits b.toBits)
  | .fwr g a b c => some (encCX 0x21 g a.toBits b.toBits c)
  | .famo g a b c => some (encCX 0x22 g a.toBits b.toBits c)
  | .freq g a b c => some (encCX 0x23 g a.toBits b.toBits c)
  | .flnch g a c => some (encCX 0x24 g a.toBits 0 c)
  | .ttset a b => some (encCX0 0x30 0 a.toBits b.toBits)
  | .trdy a => some (encCX0 0x31 0 a.toBits 0)
  | .rcut a => some (encCX0 0x32 0 a.toBits 0)
  | .rpick a => some (encCX0 0x33 0 a.toBits 0)
  | .rstat w a => some (encCX0 0x34 (0#1 ++ wToBits w) a.toBits 0)
  | .nbld g a b => some (encCX0 0x40 (BitVec.ofNat 6 g.val) a.toBits b.toBits)
  | .nbx g a c => some (encCX 0x41 g a.toBits 0 c)
  | .nbq w a b => some (encCX0 0x42 (0#1 ++ wToBits w) a.toBits b.toBits)
  | .msat g a b c => some (encCX 0x43 g a.toBits b.toBits c)
  | .hsig a b c => some (encCX 0x50 0 a.toBits b.toBits c)
  | _ => none

/-- Decode what the encoder made. -/
def decodeEncoded (e : Encoded) : Dec := decodeSlot e.cls e.word e.lit

end Sys2Proof
end

