-- ==== Sys2Proof/Machine/Operands.lean ====
section
/-! DEFINITION. Scalar operands (R266, R269, R270): every form a scalar slot can name. All of them
are read from the core as it stood before the bundle (R139). -/

namespace Sys2Proof.Machine

/-- TRAP_INFO of an operand cause: the specifier in [5:0], the operand position in [8:6], A 0, B 1,
C 2 (R252). -/
def opndInfo (spec pos : Nat) : Word := BitVec.ofNat 64 (spec + 64 * pos)

/-- TAGDONE: bit i is set when tag i has completed and is not yet retired (R302). -/
def Core.tagDone (k : Core) : Word :=
  (List.finRange 64).foldl (fun (w : Word) i => match k.tags[i] with
    | .done _ => w ||| BitVec.ofNat 64 (2 ^ i.val)
    | _ => w) 0

/-- An identity specifier reads its CSR zero-extended; ICYC reads the issue cycle of the bundle
(R270, R301). -/
def identValue (s : State) : IdReg → Word
  | .coreId => BitVec.ofNat 64 s.issue.core.val
  | .quadId => BitVec.ofNat 64 (s.issue.core.val / 4)
  | .dieId => BitVec.ofNat 64 (s.issue.core.val / 64)
  | .pkgId => s.pre.pkgId.setWidth 64
  | .gangRank => s.pre.rank.setWidth 64
  | .gangSize => s.pre.gsize.setWidth 64
  | .icyc => s.pre.icyc
  | .tagDone => s.pre.tagDone

/-- Take `n` of the level's bank, as it is seen at the bundle's issue (R141). -/
def Core.seeTake (k : Core) (l : Level) (n : Fin 16) : Seen Word :=
  ((k.bank l).takes.getD n.val (Take.reset Word 0)).see k.clk

/-- x`n` of the level's bank; x0 reads zero (R142). -/
def Core.seeX (k : Core) (l : Level) (n : Fin 16) : Seen Word :=
  if n = 0 then .settled 0 else ((k.bank l).x[n]).see k.clk

/-- A scalar specifier (R269). -/
def readS (s : State) (sp : SSpec) (pos : Nat) : SlotRes Word :=
  let info := opndInfo sp.toBits.toNat pos
  match sp with
  | .take n => readSeen s 0 (s.pre.seeTake s.pre.level n) info
  | .x n => readSeen s 0 (s.pre.seeX s.pre.level n) info
  | .const n => .ok (BitVec.ofNat 64 n.val) s
  | .ident r => .ok (identValue s r) s

/-- A literal word as a 64-bit operand (R266). -/
def litWord (v : BWord) : Word := v.signExtend 64

/-- An operand that a literal may replace (R266). -/
def readSO (s : State) (o : SOpnd) (pos : Nat) : SlotRes Word :=
  match o with
  | .spec sp => readS s sp pos
  | .lit v => .ok (litWord v) s

/-- IMM13 or the literal in its place, sign-extended (R266, R292). -/
def immWord : Imm → Word
  | .imm13 v => v.signExtend 64
  | .lit v => litWord v

/-- A branch distance in words (R293). -/
def offWords : Off → Word
  | .off18 v => v.signExtend 64
  | .lit v => litWord v

/-- A byte displacement: the literal, or 0 (R266). -/
def dispWord : Disp → Word
  | some v => litWord v
  | none => 0

end Sys2Proof.Machine
end

