-- ==== Sys2Proof/Machine/Control.lean ====
section
/-! DEFINITION. Transfers of control and core control (R293-R298). -/

namespace Sys2Proof.Machine

/-- Take a transfer: the target's bundle is the next to issue (R294). -/
def State.transfer (s : State) (target : Word) : State :=
  { s.upd (fun k => { k with pc := target }) with issue := { s.issue with taken := true } }

/-- Target of an SB instruction: off words from the bundle's header word (R293). -/
def sbTarget (s : State) (o : Off) : Word := s.pre.pc + 4 * offWords o

/-- A conditional branch on one operand (R293). -/
def branchOn (s : State) (a : SSpec) (o : Off) (p : Word → Bool) : SlotRes Unit :=
  (readS s a 0).bind fun x s => .ok () (if p x then s.transfer (sbTarget s o) else s)

/-- The current mask: the top entry, or all ones (R150). -/
def Core.curMask (k : Core) : BitVec 512 := k.mask.headD (BitVec.allOnes 512)

def execBr (o : Off) (s : State) : Host.Outcome State Fault Refusal :=
  finish s (.ok () (s.transfer (sbTarget s o)))

def execBeqz (a : SSpec) (o : Off) (s : State) : Host.Outcome State Fault Refusal :=
  finish s (branchOn s a o (· == 0))

def execBnez (a : SSpec) (o : Off) (s : State) : Host.Outcome State Fault Refusal :=
  finish s (branchOn s a o (· != 0))

def execBltz (a : SSpec) (o : Off) (s : State) : Host.Outcome State Fault Refusal :=
  finish s (branchOn s a o (·.slt 0))

def execBgez (a : SSpec) (o : Off) (s : State) : Host.Outcome State Fault Refusal :=
  finish s (branchOn s a o (fun x => !x.slt 0))

/-- BMZ and BMNZ test the mask left by every bundle before the branch's own (R293). -/
def execBmz (o : Off) (s : State) : Host.Outcome State Fault Refusal :=
  finish s (.ok () (if s.pre.curMask = 0 then s.transfer (sbTarget s o) else s))

def execBmnz (o : Off) (s : State) : Host.Outcome State Fault Refusal :=
  finish s (.ok () (if s.pre.curMask = 0 then s else s.transfer (sbTarget s o)))

/-- LOOP: xN := a - 1, also in a take; branches when that is not zero (R295). -/
def execLoop (n : Fin 16) (o : Off) (s : State) : Host.Outcome State Fault Refusal :=
  finish s ((readS s (.x n) 0).bind fun x s =>
    let s := s.result (x - 1) 1 n
    .ok () (if x - 1 = 0 then s else s.transfer (sbTarget s o)))

/-- The address of the first bundle after this one (R296). -/
def returnAddr (s : State) : Word := s.pre.pc + BitVec.ofNat 64 (4 * s.issue.blen)

/-- Push a return address and transfer, or CALL_DEPTH (R151, R296). -/
def doCall (s : State) (target : Word) (w : WReg) : SlotRes Unit :=
  if h : s.pre.ssp < 32 then
    let ra := returnAddr s
    let s := s.upd fun k => { k with shadow := k.shadow.set s.pre.ssp ra, ssp := s.pre.ssp + 1 }
    .ok () ((s.result ra 1 w).transfer target)
  else raise s .callDepth 0

def execCall (o : Off) (s : State) : Host.Outcome State Fault Refusal :=
  finish s (doCall s (sbTarget s o) 0)

def execCalli (a : SSpec) (b : SOpnd) (w : WReg) (s : State) : Host.Outcome State Fault Refusal :=
  finish s ((readS s a 0).bind fun x s => (readSO s b 1).bind fun y s => doCall s (x + y) w)

def execJt (a : SSpec) (b : SOpnd) (s : State) : Host.Outcome State Fault Refusal :=
  finish s ((readS s a 0).bind fun x s => (readSO s b 1).bind fun y s => .ok () (s.transfer (x + y)))

/-- RET pops the top entry and compares it with its target (R151, R296). -/
def execRet (a : SSpec) (s : State) : Host.Outcome State Fault Refusal :=
  finish s ((readS s a 0).bind fun x s =>
    if s.pre.ssp = 0 then raise s .controlIntegrity 0
    else
      need s (s.pre.shadow.toList.getD (s.pre.ssp - 1) 0 == x) .controlIntegrity 0
        (.ok () ((s.upd fun k => { k with ssp := s.pre.ssp - 1 }).transfer x)))

/-! ### Core control -/

def execNop (s : State) : Host.Outcome State Fault Refusal := finish s (.ok () s)

/-- END: the core's last bundle (R297). It waits for its work to be performed before it counts as
ended. While decoupled in tandem it leaves its siblings to TANDEM_MISMATCH (R152). -/
def execEndI (s : State) : Host.Outcome State Fault Refusal :=
  let s := s.upd fun k => { k with run := .ending }
  finish s (.ok () (s.leaveQuad s.issue.core))

/-- YIELD: after its bundle the core holds for Min(a, 65,535) cycles, or until an event (R297). -/
def execYield (a : SSpec) (s : State) : Host.Outcome State Fault Refusal :=
  finish s ((readS s a 0).bind fun x s =>
    let n := min x.toNat 65535
    .ok () (if n = 0 then s else s.upd fun k => { k with wait := some (.yield n) }))

/-- TRAP raises TRAP_INSTR with its operand sign-extended (R298). -/
def execTrap (i : BitVec 13) (s : State) : Host.Outcome State Fault Refusal :=
  finish s (raise s .trapInstr (i.signExtend 64))

/-- ERET returns as R253 gives; in U it raises PRIVILEGED (R298). -/
def execEret (s : State) : Host.Outcome State Fault Refusal :=
  finish s (need s (s.pre.level ≠ .u) .privileged 0
    (.ok () { s.upd (·.eret) with issue := { s.issue with taken := true } }))

end Sys2Proof.Machine
end

