-- ==== Sys2Proof/Machine/Fetch.lean ====
section
/-! DEFINITION. Bundles as memory holds them, and how a core fetches one: header fields, slot words and
literals (R247, R262-R265). -/

namespace Sys2Proof.Machine

/-- Slots in slot order (R262). -/
def slotOrder : List Slot := [.s, .v0, .v1, .m, .c0, .c1]

def Slot.cls : Slot → SlotClass
  | .s => .s | .v0 => .v | .v1 => .v | .m => .m | .c0 => .c | .c1 => .c

/-- Fields of a header word (R263). -/
def hdPres (h : Nat) : Nat := bitsOf h 0 6
def hdLimm (h : Nat) : Nat := bitsOf h 6 6
def hdIdle (h : Nat) : Nat := bitsOf h 12 4
def hdSp (h : Nat) : Bool := h.testBit 16
def hdTnd (h : Nat) : Nat := bitsOf h 17 2
def hdBrk (h : Nat) : Bool := h.testBit 19
def hdChk (h : Nat) : Nat := bitsOf h 24 8

def pop6 (n : Nat) : Nat := ((List.range 6).filter n.testBit).length

/-- Words of a bundle (R262). -/
def bundleWords (h : Nat) : Nat := 1 + pop6 (hdPres h) + pop6 (hdLimm h)

/-- Header reserved: bits [23:20], TND 11, a literal of an absent slot or of M (R263). -/
def hdReserved (h : Nat) : Bool :=
  bitsOf h 20 4 ≠ 0 || hdTnd h = 3 || (List.range 6).any (fun i => (hdLimm h).testBit i && !(hdPres h).testBit i) ||
    (hdLimm h).testBit 3

/-- A slot's word and literal. -/
structure SlotWord where
  slot : Slot
  word : BWord
  lit  : Option BWord
  deriving DecidableEq, Repr

/-- The slot words behind a header (R262). -/
def slotWords (h : Nat) : List Slot → List Nat → List SlotWord
  | [], _ => []
  | sl :: rest, ws =>
    let i := Slot.num sl
    if (hdPres h).testBit i then
      match ws, (hdLimm h).testBit i with
      | w :: l :: ws', true => ⟨sl, BitVec.ofNat 32 w, some (BitVec.ofNat 32 l)⟩ :: slotWords h rest ws'
      | w :: ws', _ => ⟨sl, BitVec.ofNat 32 w, none⟩ :: slotWords h rest ws'
      | [], _ => []
    else slotWords h rest ws

/-- The check byte of the words behind a header (R264). -/
def xorBytes (ws : List Nat) : Nat :=
  ws.foldl (fun acc w => acc ^^^ bitsOf w 0 8 ^^^ bitsOf w 8 8 ^^^ bitsOf w 16 8 ^^^ bitsOf w 24 8) 0

/-- The header of a bundle that holds slot words, its check byte set (R263, R264). -/
def headerFor (ws : List SlotWord) : Nat :=
  let pres := (ws.map fun w => 2 ^ Slot.num w.slot).foldl (· + ·) 0
  let limm := (ws.map fun w => if w.lit.isSome then 2 ^ Slot.num w.slot else 0).foldl (· + ·) 0
  let words := ws.flatMap fun w => w.word.toNat :: (w.lit.map (·.toNat)).toList
  pres + 64 * limm + 2 ^ 24 * xorBytes words

/-- A bundle as read: its offset, header and words behind it. -/
structure RawBundle where
  at_   : Nat
  head  : Nat
  words : List Nat
  deriving DecidableEq, Repr

def RawBundle.len (b : RawBundle) : Nat := bundleWords b.head
def RawBundle.slots (b : RawBundle) : List SlotWord := slotWords b.head slotOrder b.words
def RawBundle.next (b : RawBundle) : Nat := b.at_ + 4 * b.len

/-- The 32-bit words of a list of bytes. -/
def wordsOf : List Byte → List Nat
  | a :: b :: c :: d :: rest => (a.toNat + 256 * b.toNat + 65536 * c.toNat + 16777216 * d.toNat) :: wordsOf rest
  | _ => []

/-! ### Fetching (R100, R143, R247) -/

/-- A kernel of a partition by its handle (R64). -/
def kernelOf (s : State) (part handle : Nat) : Option Kernel :=
  if h : part < 17 then s.parts[part].kernels.find? (·.handle = handle) else none

/-- `n` bytes of code at a core's address `pc`: of its kernel image at U and S, of HBM at H
(owner tag 0, R90). -/
def codeBytes (s : State) (k : Core) (pc n : Nat) : List Byte :=
  if k.level = .h then s.peek 0 pc n
  else match kernelOf s k.part k.handle with
    | some x => (x.image.drop pc).take n
    | none => []

/-- A bundle may be fetched at a core's address: one of the image's bundle starts at U and S, a word of HBM
at H (R247). -/
def mayFetch (s : State) (k : Core) : Bool :=
  let pc := k.pc.toNat
  if k.level = .h then pc % 4 = 0 && presentDpa s pc
  else match kernelOf s k.part k.handle with
    | some x => x.starts.contains pc
    | none => false

/-- The bundle at a core's address. -/
def bundleAt (s : State) (c : Fin 256) : RawBundle :=
  let k := s.coreAt c
  let pc := k.pc.toNat
  let head := bytesToNat (codeBytes s k pc 4)
  ⟨pc, head, wordsOf (codeBytes s k (pc + 4) (4 * (bundleWords head - 1)))⟩

/-- Code lines that a bundle lies in. -/
def RawBundle.lines (h : Bool) (b : RawBundle) : List (Bool × Nat) :=
  (List.range (b.len * 4 / 64 + 2)).filterMap fun i =>
    let l := b.at_ / 64 + i
    if 64 * l < b.at_ + 4 * b.len then some (h, l) else none

/-- The bundle's lines are in the core's fetch buffer. -/
def fetched (k : Core) (b : RawBundle) : Bool := (b.lines (k.level = .h)).all k.fbuf.contains

/-- A cause that falls on the bundle at which a core stands: BLEN is that bundle's (R251). -/
def State.onBundle (s : State) (c : Fin 256) : State :=
  { s with issue := { s.issue with blen := (bundleAt s c).len } }

end Sys2Proof.Machine
end

