-- ==== Sys2Proof/Machine/Image.lean ====
section
/-! DEFINITION. Context images (R257-R261): the bytes of a saved core, and events that reach a context
while it is out. -/

namespace Sys2Proof.Machine

/-- `n` zero bytes. -/
def zeros (n : Nat) : List Byte := List.replicate n 0

/-! ### What is live (R103) -/

def lowMask (n w : Nat) : BitVec w := BitVec.ofNat w (2 ^ n - 1)

/-- Every item that the header declares. -/
def liveAll (h : KHeader) : LiveMask :=
  { takes := BitVec.allOnes 16, vtakes := BitVec.allOnes 16, x := lowMask h.nx 16 &&& ~~~1,
    v := lowMask h.nv 16, tiles := h.tiles, accs := h.accs, streams := h.streams, q := 3 }

/-- The masks of a live map entry, from its 16 bytes. -/
def liveOfEntry (e : List Byte) : LiveMask :=
  let f (o n w : Nat) : BitVec w := BitVec.ofNat w (fieldLE e o n)
  { takes := f 4 2 16, vtakes := f 6 2 16, x := f 8 2 16, v := f 10 2 16, tiles := f 12 1 8,
    accs := f 13 1 8, streams := f 14 1 8, q := f 15 1 2 }

/-! ### The image (R258, R259, R348) -/

/-- FMTEP: the newest MFMT whose cycles have not passed (R345). -/
def fmtepWord (k : Core) : Nat :=
  match k.fmtp.getLast? with
  | some (v, n) => if n = 0 then 0 else v.toNat + 2 ^ 7 + 2 ^ 8 * min n 3
  | none => 0

/-- The CSR area. -/
def imageCsrs (k : Core) : List Nat :=
  (k.tiles.toList.map fun (t : Tile) => t.cfg.toNat) ++
  [k.fmte.toNat, k.frm.toNat, k.srseed.toNat, k.shadowchk.toNat, (k.dmode &&& 3).toNat,
   k.reelBase.toNat, k.reelLimit.toNat, k.reelPtr.toNat, k.trapVec.toNat,
   k.trapS.cause.toNat, k.trapS.pc.toNat, k.trapS.info.toNat,
   k.mqBase.toNat, k.mqHead.toNat, k.mqTail.toNat,
   (List.range 64).foldl (fun acc i => if h : i < 64 then
      (match k.tags[i] with | .done _ => acc + 2 ^ i | _ => acc) else acc) 0,
   k.liveBase.toNat, k.ssp, fmtepWord k]

def inUse (k : Core) : Nat :=
  (List.range 64).foldl (fun acc i => if h : i < 64 then
    (match k.tags[i] with | .free => acc | _ => acc + 2 ^ i) else acc) 0

/-- One matrix op queue entry (R348). -/
def matOpBytes (o : MatOp) : List Byte :=
  let word := match encode o.op with | some e => e.word.toNat | none => 0
  natToBytes 4 word ++ natToBytes 4 o.ofs.toNat ++ natToBytes 1 o.fmte.toNat ++
    natToBytes 1 (o.frm.toNat % 8) ++ natToBytes 1 1 ++ zeros 5 ++
    natToBytes 8 (match o.op with | .mdrain _ _ _ _ _ _ _ _ => o.srseed.toNat | _ => 0) ++ zeros 40

def matProgBytes (p : MatProg) : List Byte :=
  natToBytes 4 p.started.toNat ++ natToBytes 4 p.kDone ++ natToBytes 4 p.pushed ++
    natToBytes 1 p.pending.toNat ++ zeros 51

/-- One copy queue entry: its slot word and operands (the layout is the model's choice, log entry
20). -/
def copyBytes (s : State) (c : Fin 256) (t : Fin 64) : List Byte :=
  match s.cmds.find? fun m => m.core = c && m.tag = some t with
  | some m =>
    let word := match encode m.op with | some e => e.word.toNat | none => 0
    natToBytes 4 word ++ natToBytes 4 t.val ++ natToBytes 8 m.a.toNat ++ natToBytes 8 m.b.toNat ++
      natToBytes 8 m.c.toNat ++ zeros 32
  | none => natToBytes 4 0 ++ natToBytes 4 t.val ++ zeros 56

/-- One stream: its block with the operand added to BASE, flags at byte 49 and the vectors consumed at
byte 56 (the last two places are the model's choice, log entry 20). -/
def streamBytes (st : Stream) : List Byte :=
  if !st.bound then zeros 64 else
  let base := BitVec.ofNat 64 (fieldLE st.block 0 8) + st.add
  natToBytes 8 base.toNat ++ ((st.block ++ zeros 64).drop 8).take 41 ++
    natToBytes 1 (1 + 2 * st.wr.toNat + 4 * st.diff.toNat) ++ zeros 6 ++ natToBytes 8 st.pos

/-- The value that a take or register has once everything has landed. -/
def Take.final {α : Type} (t : Take α) : α := match t.load with | none => t.val | some _ => t.old

def Reg.final {α : Type} (r : Reg α) : α :=
  match (r.pend.filter fun p => p.load.isNone).getLast? with
  | some p => p.val
  | none => r.cur

def liveBits {n : Nat} (m : BitVec n) : List Nat := (List.range n).filter fun i => m.getLsbD i

/-- The bytes of an image beyond its head, as pieces at their offsets; items not live are not
written. -/
def imagePieces (s : State) (x : Saved) : List (Nat × List Byte) :=
  let k := x.ctx
  let b := k.bankU
  let vb (v : Vec) : List Byte := natToBytes 264 v.toNat
  [(0x0100, (imageCsrs k).flatMap (natToBytes 8) ++ zeros (8 * 37)),
   (0x0300, ((k.mask.reverse.flatMap fun (m : BitVec 512) => natToBytes 64 m.toNat) ++ zeros 1024).take 1024),
   (0x0700, k.shadow.toList.flatMap fun (w : Word) => natToBytes 8 w.toNat)] ++
  ((liveBits x.live.streams).map fun i => (0x0800 + 64 * i, streamBytes (k.streams.toList.getD i Stream.reset))) ++
  [(0x0A00, ((k.copyq.flatMap (copyBytes s x.core)) ++ zeros 1024).take 1024),
   (0x0E00, ((k.mops.flatMap matOpBytes) ++ zeros 256).take 256 ++ matProgBytes k.mprog),
   (0x0F40, ((k.credits.flatMap (natToBytes 2)) ++ zeros 512).take 512),
   (0x1140, k.perf.toList.flatMap fun (w : Word) => natToBytes 8 w.toNat)] ++
  ((liveBits x.live.x).map fun i => (0x11C0 + 8 * i, natToBytes 8 ((b.x.toList.getD i (Reg.reset 0)).final).toNat)) ++
  ((liveBits x.live.takes).map fun i => (0x1240 + 8 * i, natToBytes 8 ((b.takes.getD i (Take.reset Word 0)).final).toNat)) ++
  [(0x12C0, zeros 64)] ++
  ((liveBits x.live.vtakes).map fun i => (0x1300 + 264 * i, vb ((k.vtakes.getD i (Take.reset Vec 0)).final))) ++
  ((liveBits x.live.v).map fun i => (0x2380 + 264 * i, vb ((k.v.toList.getD i (Reg.reset 0)).final))) ++
  (if x.live.q.getLsbD 0 then [(0x3400, k.q0.flatMap vb)] else []) ++
  (if x.live.q.getLsbD 1 then [(0x7600, k.q1.flatMap vb)] else []) ++
  [(0xB800, k.spill.readBytes 0 16384)]

/-- The tag mask or barrier reference of the wait at which a context stopped (R259). -/
def waitWord (k : Core) : Nat :=
  match k.wait with
  | some (.tags m) => m.toNat
  | some (.barrier r _) => r.toNat
  | _ => 0

def isWait : Option Hold → Bool
  | some (.tags _) => true
  | some (.barrier _ _) => true
  | some .mfence => true
  | some .fence => true
  | _ => false

/-- The head, its CRC-32C still to be set. -/
def imageHead (x : Saved) (lidx : Nat) : List Byte :=
  let k := x.ctx
  natToBytes 4 0x43585443 ++ natToBytes 2 1 ++ natToBytes 1 lidx ++
    natToBytes 1 (k.joined.toNat + 2 * k.rejoin.toNat + 4 * k.mprog.started.toNat + 8 * (isWait k.wait).toNat) ++
    natToBytes 4 k.pc.toNat ++ natToBytes 2 k.handle ++ zeros 2 ++ natToBytes 8 k.icyc.toNat ++
    natToBytes 8 k.holdCyc.toNat ++ (if x.atWait then List.replicate 16 0xFF else x.entry) ++
    natToBytes 1 k.q0.length ++ natToBytes 1 k.q1.length ++ natToBytes 1 k.copyq.length ++
    natToBytes 1 k.mops.length ++ natToBytes 1 k.ssp ++ natToBytes 1 k.mask.length ++ zeros 2 ++
    natToBytes 8 (waitWord k) ++ natToBytes 8 (inUse k) ++ natToBytes 4 k.gang.toNat ++
    natToBytes 2 k.rank.toNat ++ natToBytes 1 k.part ++ zeros 177

/-- CRC-32C of bytes 0x0100-0xF7FF of an image at a DPA, under an owner tag. -/
def imageCrc (s : State) (tag a : Nat) : Nat := imageCrcOf (s.peek tag a 0x10000)

/-- Write an image at a DPA (R106, R257). -/
def writeImage (s : State) (x : Saved) (a : Nat) : State :=
  let t := x.ctx.part
  let s0 := s.poke t a (imageHead x x.ctx.lidx)
  let s1 := (imagePieces s x).foldl (fun (u : State) (e : Nat × List Byte) => u.poke t (a + e.1) e.2) s0
  let s2 := s1.poke t (a + 0xF800) (zeros 2048)
  s2.poke t (a + 80) (natToBytes 4 (imageCrc s2 t a))

/-! ### Events that reach a context while it is out (R213, R261) -/

/-- A change to a context's tags or counts: on its core, or in its bank and its image. An image whose
CRC holds keeps a CRC that holds. -/
def State.updCtx (s : State) (launch : Option Nat) (c : Fin 256) (f : Core → Core) : State :=
  if (s.coreAt c).launch = launch then s.mapCore c f
  else
    match s.saved.find? fun x => some x.launch = launch && x.core = c with
    | none => s
    | some x =>
      let y := { x with ctx := f x.ctx }
      let s := { s with saved := s.saved.map fun z => if z.launch = x.launch && z.core = c then y else z }
      match x.home with
      | none => s
      | some a =>
        let t := x.ctx.part
        let ok := s.peekLE t (a + 80) 4 = imageCrc s t a
        let s := s.poke t (a + 0x1B8) (natToBytes 8 ((imageCsrs y.ctx).getD 23 0))
        let s := s.poke t (a + 64) (natToBytes 8 (inUse y.ctx))
        let s := s.poke t (a + 0x1140) ((x.ctx.perf.toList.zip y.ctx.perf.toList).zipIdx.flatMap
          fun (e : (Word × Word) × Nat) =>
            natToBytes 8 (s.peekLE t (a + 0x1140 + 8 * e.2) 8 + (e.1.2 - e.1.1).toNat))
        if ok then s.poke t (a + 80) (natToBytes 4 (imageCrc s t a)) else s

/-- The context of a launch on a core, wherever it is. -/
def State.ctx (s : State) (launch : Option Nat) (c : Fin 256) : Option Core :=
  if (s.coreAt c).launch = launch then some (s.coreAt c)
  else (s.saved.find? fun x => some x.launch = launch && x.core = c).map (·.ctx)

end Sys2Proof.Machine
end

