-- ==== Sys2Proof/Machine/Pattern.lean ====
section
/-! DEFINITION. Pattern blocks and the vectors of streams in the scratchpad (R144, R304, R330). -/

namespace Sys2Proof.Machine

/-! ### Pattern blocks (R304) -/

def blkBase (b : List Byte) : Word := BitVec.ofNat 64 (fieldLE b 0 8)
def blkCount (b : List Byte) (i : Nat) : Nat := fieldLE b (8 + 8 * i) 4
def blkStride (b : List Byte) (i : Nat) : Int := signed 32 (fieldLE b (12 + 8 * i) 4)
def blkSbase (b : List Byte) : Word := BitVec.ofNat 64 (fieldLE b 40 8)
def blkScl (b : List Byte) : Bool := (fieldLE b 48 1).testBit 0

/-- The 64 bytes of a pattern block, by the second port of spill memory (R160). -/
def readBlock (k : Core) (off : Nat) : List Byte := k.spill.readBytes off 64

def blkTotal (b : List Byte) : Nat := blkCount b 0 * blkCount b 1 * blkCount b 2 * blkCount b 3

/-- Sum of i_k * STRIDE_k for item `n` in pattern order, i0 innermost (R144). -/
def blkOffset (b : List Byte) (n : Nat) : Int :=
  let i0 := n % blkCount b 0
  let i1 := n / blkCount b 0 % blkCount b 1
  let i2 := n / (blkCount b 0 * blkCount b 1) % blkCount b 2
  let i3 := n / (blkCount b 0 * blkCount b 1 * blkCount b 2)
  (i0 : Int) * blkStride b 0 + i1 * blkStride b 1 + i2 * blkStride b 2 + i3 * blkStride b 3

/-- Address of item `n`, formed in 64 bits. -/
def blkAddr (b : List Byte) (add : Word) (n : Nat) : Word :=
  blkBase b + add + BitVec.ofInt 64 (blkOffset b n)

def blkScaleAddr (b : List Byte) (n : Nat) : Word := blkSbase b + BitVec.ofNat 64 (8 * n)

/-- Data bytes and scale bytes of a vector (R218): granule g holds 32 data bytes and a scale byte. -/
def vecOf (data scales : List Byte) : Vec :=
  BitVec.ofNat 2112 ((List.range 8).foldr (fun g acc =>
    bytesToNat ((data.drop (32 * g)).take 32) + 2 ^ 256 * (scales.getD g 0x7F).toNat + 2 ^ 264 * acc) 0)

def vecData (v : Vec) : List Byte :=
  (List.range 8).flatMap fun g => natToBytes 32 (bitsOf v.toNat (264 * g) 256)

def vecScales (v : Vec) : List Byte :=
  (List.range 8).map fun g => BitVec.ofNat 8 (bitsOf v.toNat (264 * g + 256) 8)

/-! ### The vectors of a stream -/

/-- Index in the pattern of the `n`-th vector moved: reversed while the stream runs in rewind (R242). -/
def Stream.index (st : Stream) (rewind : Bool) (n : Nat) : Nat :=
  if st.diff && rewind then blkTotal st.block - 1 - n else n

/-- The byte ranges that a vector covers: its data and, with SCL, its scales. -/
def Stream.ranges (st : Stream) (n : Nat) : List (Word × Nat) :=
  (blkAddr st.block st.add n, 256) ::
    (if blkScl st.block then [(blkScaleAddr st.block n, 8)] else [])

def Core.setStream (k : Core) (i : Fin 8) (st : Stream) : Core :=
  { k with streams := k.streams.set i st }

/-- The bytes of a vector in the scratchpad; without SCL, scales read 0x7F (R155). -/
def loadVector (m : Mem) (st : Stream) (n : Nat) : Vec :=
  vecOf (m.readBytes (blkAddr st.block st.add n).toNat 256)
    (if blkScl st.block then m.readBytes (blkScaleAddr st.block n).toNat 8 else List.replicate 8 0x7F)

/-- New bytes over old ones by nibble: those whose mask bit is 0 stay. -/
def mergeNibbles (nib : BitVec 512) (new old : List Byte) : List Byte :=
  (List.range old.length).map fun i =>
    let n := new.getD i 0
    let o := old.getD i 0
    let lo := if nib.getLsbD (2 * i) then n &&& 0x0F else o &&& 0x0F
    let hi := if nib.getLsbD (2 * i + 1) then n &&& 0xF0 else o &&& 0xF0
    lo ||| hi

def mergeScales (gran : BitVec 8) (new old : List Byte) : List Byte :=
  (List.range old.length).map fun g => if gran.getLsbD g then new.getD g 0 else old.getD g 0

/-- The first failed line that a vector's store would change in part (R22, R23): one of its data lines whose 64 bytes are
not all active, or the line of its scales. -/
def Core.failedStore (k : Core) (st : Stream) (n : Nat) (v : SVec) : Option Nat :=
  if k.badSpad.isEmpty then none else
  let a := (blkAddr st.block st.add n).toNat
  let data := (List.range 4).findSome? fun i =>
    if bitsOf v.nib.toNat (128 * i) 128 = 2 ^ 128 - 1 then k.failedPart (a + 64 * i) 64 else k.failedLine (a + 64 * i) 64
  match data with
  | some o => some o
  | none => if blkScl st.block then k.failedPart (blkScaleAddr st.block n).toNat 8 else none

/-- A line that a vector's store replaces whole. -/
def wholeLine (st : Stream) (n : Nat) (v : SVec) (l : Nat) : Bool :=
  (List.range 4).any fun i => decide ((blkAddr st.block st.add n).toNat + 64 * i = 64 * l) &&
    decide (bitsOf v.nib.toNat (128 * i) 128 = 2 ^ 128 - 1)

/-- Store a vector at its place: bytes of inactive elements are not written, nor the scale byte of a
granule with no active element (R330). -/
def Core.putVector (k : Core) (st : Stream) (n : Nat) (v : SVec) : Core :=
  let bad := SMap.restrict k.badSpad fun l => !wholeLine st n v l
  let a := (blkAddr st.block st.add n).toNat
  let k := k.spadWrite a (mergeNibbles v.nib (vecData v.val) (k.spad.readBytes a 256))
  let k := if blkScl st.block then
    let a := (blkScaleAddr st.block n).toNat
    k.spadWrite a (mergeScales v.gran (vecScales v.val) (k.spad.readBytes a 8))
  else k
  { k with badSpad := bad }

/-- The store of a buffered vector. One that finds a failed line is not performed, and its report is late (R417). -/
def Core.storeVector (k : Core) (st : Stream) (n : Nat) (v : SVec) : Core :=
  match k.failedStore st n v with
  | some o => k.lateFault o
  | none => k.putVector st n v

/-- The buffered vectors of a write stream reach the banks, oldest first. -/
def Core.drainAll (k : Core) (i : Fin 8) : Core :=
  let st := k.streams[i]
  if !st.wr then k
  else
    let k := (st.buf.zip (List.range st.buf.length)).foldl
      (fun k (v, j) => k.storeVector st (st.moved + j) v) k
    k.setStream i { st with moved := st.moved + st.buf.length, buf := [] }

/-- A write stream with a vector in its buffer that overlaps a range. -/
def Stream.overlaps (st : Stream) (off len : Nat) : Bool :=
  st.wr && (List.range st.buf.length).any fun j =>
    (st.ranges (st.moved + j)).any fun (a, n) => decide (a.toNat < off + len) && decide (off < a.toNat + n)

/-- Earlier stream writes to the bytes of a later write of the core are performed first (R195, R330). -/
def Core.drainFor (k : Core) (off len : Nat) : Core :=
  (List.finRange 8).foldl (fun k i => if (k.streams[i]).overlaps off len then k.drainAll i else k) k

/-- Every stream write of the core is performed. -/
def Core.drainEvery (k : Core) : Core := (List.finRange 8).foldl Core.drainAll k

/-- The core's own load of bytes that a buffered stream write covers returns the old or the new bytes
(R330): a free value chooses. DESIGN CHOICE: log entry 9. -/
def State.drainMaybe (s : State) (c : Fin 256) (off len : Nat) : State :=
  if (List.finRange 8).any fun i => ((s.coreAt c).streams[i]).overlaps off len then
    let s' := { s with free := s.free + 1 }
    if Config.raceNew s.free then s'.mapCore c (·.drainFor off len) else s'
  else s

end Sys2Proof.Machine
end

