-- ==== Sys2Proof/Machine/MemInstr.lean ====
section
/-! DEFINITION. Loads, stores, spill memory, atomics and fences (R350-R359), with their rewind
effects (R242, R243). -/

namespace Sys2Proof.Machine

/-! ### Where an access lands -/

/-- What an access of the S slot reaches. -/
inductive Target where
  /-- An offset of the core's own scratchpad. -/
  | spad (off : Nat)
  /-- HBM, with its page. -/
  | hbm (p : Phys)
  /-- A memory window: a line of its expanded view, homed by its VA. DESIGN CHOICE: log entry 38. -/
  | window (i : Nat) (p : Phys)
  /-- A register of a function (R80). -/
  | reg (fn off : Nat)
  deriving DecidableEq, Repr

/-- TRAP_INFO of a memory address: VA or DPA (R252). -/
def addrInfo (a : Word) : Word := a

/-- The function whose window lies in register space (R79); the window of a VF that does not exist is as a reserved range
(R80). -/
def windowFn (s : State) (f : Nat) : Nat :=
  if h : f < 17 then (if f = 0 || s.parts[f].exists_ then f else 17) else 17

/-- H mode names DPAs (R80): register space takes aligned 8-byte accesses alone, and an address beyond
HBM and registers, an unmapped offset, or a degraded channel (R19) raises OWNERSHIP. -/
def hTarget (s : State) (a : Word) (len : Nat) : Except Cause Target :=
  let n := a.toNat
  if 2 ^ 39 ≤ n ∧ n < 2 ^ 40 then
    if len = 8 then .ok (.reg (windowFn s ((n - 2 ^ 39) / 65536)) (n % 65536)) else .error .ownership
  else if presentDpa s n then .ok (.hbm ⟨n, false, false, 0⟩) else .error .ownership

/-- Translate a memory address of the S slot at the level in force: a window first (R172), then both
stages; a host page is ACCESS_KIND (R85). -/
def memTarget (s : State) (kind : AccKind) (a : Word) (len : Nat) : Except Cause Target :=
  let k := s.pre
  let c := s.issue.core
  if k.level = .h then hTarget s a len
  else
    match windowAt s k.part a.toNat with
    | some (i, w) =>
      if kind = .atomic then .error .accessKind
      else if kind = .write && !w.wr then .error .xlateS1
      else
        let stored := (accessElems w (a.toNat - w.wbase) len).flatMap fun e => (blockVas w e).zipIdx.map fun (va, i) =>
          translate s c k.part k.level (if kind = AccKind.write ∧ i < 2 then .atomic else .read) va
        match stored.mapM id with
        | .error x => .error x
        | .ok ps => if ps.any (·.host) then .error .accessKind else .ok (.window i ⟨a.toNat, false, false, 0⟩)
    | none =>
      match translate s c k.part k.level kind a.toNat with
      | .error x => .error x
      | .ok p => if p.host then .error .accessKind else .ok (.hbm p)

/-- The TLBs take part in an access of a core at U or S: the pages of the stored bytes, where a window serves it. -/
def State.noteAccess (s : State) (c : Fin 256) (t : Target) (a : Nat) : State :=
  let k := s.coreAt c
  match t with
  | .hbm _ => if k.level = .h then s else noteMiss s c k.part a
  | .window i _ => (match windowNo s k.part i with
    | some w => (blockVas w (elemAt w (a - w.wbase))).foldl (fun s v => noteMiss s c k.part v) s
    | none => s)
  | _ => s

/-- A differentiable access is one made in U (R238). -/
def diffLevel (k : Core) : Bool := k.level = .u

/-- The mode in force (R236). -/
def Core.rewinding (k : Core) : Bool := k.dmode.getLsbD 0

/-- What an access is under the differentiable regions: ordinary, of one region, or refused (R234,
R242, R244). -/
inductive DiffRes where
  | plain
  | region (r : DiffRegion)
  | refuse (c : Cause)
  deriving DecidableEq, Repr

/-- An access of [a, a + len) to HBM on a page with or without DIFF (R234). -/
def diffHbm (k : Core) (page : Bool) (a len : Nat) : DiffRes :=
  if !diffLevel k then .plain
  else if page then
    if touchesAdjoint k.hdr a len || (decide (reelBase k < a + len) && decide (a < reelLimit k)) then
      .refuse .diffKind
    else match regionAt k.hdr true a len with
      | some r => if r.covers a len then .region r else .refuse .diffUndeclared
      | none => .refuse .diffUndeclared
  else match regionAt k.hdr true a len with
    | some _ => .refuse .diffUndeclared
    | none => .plain

/-- An access to the scratchpad (R234). -/
def diffSpad (k : Core) (a len : Nat) : DiffRes :=
  if !diffLevel k then .plain
  else match regionAt k.hdr false a len with
    | some r => .region r
    | none => .plain

/-- Exactly one aligned element of a region (R242). -/
def oneElement (r : DiffRegion) (a len : Nat) : Bool :=
  r.covers a len && len = r.esize && (a - r.base) % r.esize = 0

/-- Differentiable checks of a target: for an atomic any region is DIFF_KIND; for LD and ST the range
must be one element (R242, R244). A region over a window's range is DIFF_KIND (R244). -/
def diffOf (s : State) (t : Target) (a len : Nat) (atomic : Bool) : DiffRes :=
  let k := s.pre
  let res := match t with
    | .spad off => diffSpad k off len
    | .hbm p => diffHbm k p.diff a len
    | .window _ _ => if diffLevel k && (regionAt k.hdr true a len).isSome then .refuse .diffKind else .plain
    | .reg _ _ => .plain
  match res with
  | .region r =>
    if atomic then .refuse .diffKind
    else if oneElement r (match t with | .spad off => off | _ => a) len then .region r
    else .refuse .diffShape
  | x => x

/-- Holds of a scratchpad access: a locked bank (R156, R159, R344), a polder to be pumped (R115). -/
def spadHold (s : State) (off len : Nat) : Option Hold :=
  let k := s.cur
  if (banksOf off len &&& lockedBanks s s.issue.core) ≠ 0 then some .lock
  else if ownLock k then some .ownLock
  else match foreignPolder k off len with
    | some p => some (.polder p (max off (65536 * p.val)))
    | none => none

/-- Hold if there is a reason to. -/
def orHold {α : Type} (h : Option Hold) (k : SlotRes α) : SlotRes α :=
  match h with
  | some x => .hold x
  | none => k

/-- Steps 2 to 4 of R351 for a scratchpad offset or a memory address. -/
def reach {α : Type} (s : State) (spad : Bool) (kind : AccKind) (a : Word) (len : Nat)
    (k : Target → Word → SlotRes α) : SlotRes α :=
  let info := if spad then spadInfo (a.toNat % 2 ^ 63) else addrInfo a
  need s (a.toNat % len = 0) .misaligned info <|
  if spad then
    match badPolder s.pre.hdr a.toNat len with
    | some x => raise s .polderUndeclared (spadInfo (x % 2 ^ 63))
    | none => k (.spad a.toNat) info
  else
    match memTarget s kind a len with
    | .error c => raise s c info
    | .ok t => k t info

/-- A scalar load claims its take, landing when its data arrives (R352, R356). -/
def State.awaitLoad (s : State) (id : Nat) (lat : Nat) (w : WReg) (a : Word) (acquire : Bool) : State :=
  s.upd fun k =>
    let l : Load := { id := id, level := k.level, seq := k.seq, w := w, land := k.clk + lat, addr := a,
                      acquire := acquire, data := none, clk := Clk.zero, err := none }
    let k' := k.result 0 lat w (some id)
    { k' with loads := k'.loads ++ [l] }

/-- A read at issue of the core's own scratchpad finds no failed line (R21, R23, R417). -/
def soundSpad {α : Type} (s : State) (off len : Nat) (k : SlotRes α) : SlotRes α :=
  match s.cur.failedLine off len with
  | some _ => raise s .uncorrectable (spadInfo off)
  | none => k

/-- A read of spill memory at issue finds no failed word: the fault is precise at the bundle (R23, R417). -/
def soundSpill {α : Type} (s : State) (off len : Nat) (k : SlotRes α) : SlotRes α :=
  match s.pre.failedWord .spill off len with
  | some x => raise s .uncorrectable (spadInfo x)
  | none => k

/-- A write at issue changes no failed line in part (R22, R23, R417). -/
def soundPart {α : Type} (s : State) (off len : Nat) (k : SlotRes α) : SlotRes α :=
  match s.cur.failedPart off len with
  | some _ => raise s .uncorrectable (spadInfo off)
  | none => k

/-! ### LD -/

def LdSz.bytes : LdSz → Nat
  | .bz | .bs => 1 | .hz | .hs => 2 | .wz | .ws => 4 | .d => 8

def LdSz.signed : LdSz → Bool
  | .bs | .hs | .ws => true
  | _ => false

/-- The value that a load in REWIND contributes: xW, in the region's type, widened (R242, R352). -/
def contribution (r : DiffRegion) (v : Word) : Nat := widenTo32 r.type (v.toNat % 2 ^ (8 * r.esize))

/-- The contribution of a rewind load to a scratchpad cell; W = 0 contributes nothing. -/
def ldRewindSpad (s : State) (r : DiffRegion) (off : Nat) (w : WReg) : SlotRes Unit :=
  (readS s (.x w) 0).bind fun v s =>
    if w = 0 then .ok () (s.result 0 4 w)
    else soundSpad s (r.cell off) 4 <| .ok () ((s.upd fun k => k.accumSpad r off (contribution r v)).result 0 4 w)

/-- The contribution of a rewind load to an HBM cell (R235, R242, R416). -/
def ldRewindHbm (s : State) (r : DiffRegion) (a : Word) (w : WReg) (land : Nat) : SlotRes Unit :=
  let cell := r.cell a.toNat
  match cellPhys s s.issue.core s.pre.part s.pre.level cell with
  | .error (c, info) => raise s c info
  | .ok p => (readS s (.x w) 0).bind fun v s =>
    let s := if w = 0 then s else
      (s.send s.issue.core (.accum r.a32 r.anchor (BitVec.ofNat 32 (contribution r v))) p
        (BitVec.ofNat 64 cell) { write := true, diff := true }).2
    .ok () (s.result 0 land w)

def execLd (a : SSpec) (d : Disp) (w : WReg) (land : BitVec 10) (sz : LdSz) (s : State) :
    Host.Outcome State Fault Refusal :=
  finish s ((readS s a 0).bind fun x s =>
    let addr := x + dispWord d
    let len := LdSz.bytes sz
    reach s (land = 0) .read addr len fun t info =>
      match diffOf s t addr.toNat len false, t with
      | .refuse c, _ => raise s c info
      | .region r, .spad off =>
        orHold (spadHold s off len) <|
        if s.pre.rewinding then orHold (spadHold s (r.cell off) 4) <| ldRewindSpad s r off w
        else soundSpad s off len <| .ok () (s.result (extend len (LdSz.signed sz) (s.cur.spad.readLE off len)) 4 w)
      | .plain, .spad off =>
        orHold (spadHold s off len) <|
        let s := s.drainMaybe s.issue.core off len
        soundSpad s off len <| .ok () (s.result (extend len (LdSz.signed sz) (s.cur.spad.readLE off len)) 4 w)
      | .plain, .reg fn off => .ok () (s.result (regRead s fn off) land.toNat w)
      | .region _, .reg _ _ => .ok () s
      | df, .hbm p =>
        match df, s.pre.rewinding with
        | .region r, true => ldRewindHbm s r addr w land.toNat
        | _, _ =>
          let (id, s) := (s.noteAccess s.issue.core t addr.toNat).send s.issue.core (.load len (LdSz.signed sz)) p addr
            { write := false, diff := (match df with | .region _ => true | _ => false) }
          .ok () (s.awaitLoad id land.toNat w addr false)
      | _, .window i p =>
        let (id, s) := (s.noteAccess s.issue.core t addr.toNat).send s.issue.core (.load len (LdSz.signed sz)) p addr
          { write := false, win := some i }
        .ok () (s.awaitLoad id land.toNat w addr false))

/-! ### ST -/

def StSz.bytes : StSz → Nat
  | .b => 1 | .h => 2 | .w => 4 | .d => 8

/-- KIND of a record (R240). -/
def recSt : Nat := 1

/-- A rewind store: the element is restored from its record and its take receives the cell, read and
cleared (R242, R243). The core holds until its earlier differentiable accesses are performed. -/
def stRewind (s : State) (r : DiffRegion) (t : Target) (addr : Word) (len : Nat) (na : Bool) (w : WReg) :
    SlotRes Unit :=
  let c := s.issue.core
  match t with
  | .spad off =>
    if pendDiff s c then .hold .fence else
    match popRecord s s.cur (reelXlate s c) (reelPtr s.cur) (spadInfo off) len recSt with
    | .error (e, info) => raise s e info
    | .ok (old, start) =>
      soundSpad s (r.cell off) 4 <| soundPart s off len <|
      let (v, m) := readClear s.cur.spad r (r.cell off)
      let s := s.upd fun k => ({ k with spad := m }.spadWrite off old).setReelPtr start
      .ok () (s.result (BitVec.ofNat 64 v) 4 w)
  | .hbm p =>
    match cellPhys s c s.pre.part s.pre.level (r.cell addr.toNat) with
    | .error (e, info) => raise s e info
    | .ok cp =>
      let tag := s.pre.tag
      let q : Req := ⟨tag, s.pre.part, some (s.pre.launch, c), if na then .no else .any⟩
      if !diffQuiet s c (homeDie s tag p.addr p.mtype) || reqWaits s q cp.addr (cp.mtype ≠ 0) .atomic ||
        reqWaits s q p.addr (p.mtype ≠ 0) .part then .hold .fence else
      match popRecord s s.cur (reelXlate s c) (reelPtr s.cur) addr len recSt with
      | .error (e, info) => raise s e info
      | .ok (old, start) =>
        match sideFault s tag cp.addr (cp.mtype ≠ 0), sideFault s tag p.addr (p.mtype ≠ 0) with
        | some e, _ => raise s e (BitVec.ofNat 64 (r.cell addr.toNat))
        | _, some e => raise s e addr
        | none, none =>
        let (v, s) := s.clearCell { q with alloc := .any } r cp
        let s := (s.applyLine p.addr).access q p.addr (p.mtype ≠ 0) .part
        let s := (s.put tag p.addr old (p.mtype ≠ 0)).upd fun k => k.setReelPtr start
        .ok () (s.result (BitVec.ofNat 64 v) 4 w)
  | _ => .ok () s

/-- A taped store (R241): reel space is reserved, REEL_PTR advances, and the record is written before
the element. -/
def stTaped (s : State) (t : Target) (addr : Word) (bs : List Byte) (na : Bool) (w : WReg) : SlotRes Unit :=
  let c := s.issue.core
  let z := recordSize bs.length
  match reserveReel s c z with
  | .error (e, info) => raise s e info
  | .ok segs =>
    let s := s.upd fun k => k.setReelPtr (reelPtr k + z)
    match t with
    | .spad off =>
      let old := s.cur.spad.readBytes off bs.length
      let s := s.sendRecord c segs (reelRecord (spadInfo off) bs.length recSt old (s.cur.failedLine off bs.length).isSome)
      let s := s.upd fun k => k.spadWrite off bs
      .ok () (s.result 0 1 w)
    | .hbm p =>
      let (_, s) := (s.noteAccess c t addr.toNat).send c (.store bs) p addr
        { write := true, diff := true, tape := some ⟨addr, recSt, segs⟩, na := na }
      .ok () (s.result 0 1 w)
    | _ => .ok () s

/-- NA makes the store allocate no line of L2 (R90), and a window's write encode at once (R174). -/
def execSt (a : SSpec) (d : Disp) (b : SSpec) (w : WReg) (na sp : Bool) (sz : StSz) (s : State) :
    Host.Outcome State Fault Refusal :=
  finish s ((readS s a 0).bind fun x s => (readS s b 1).bind fun y s =>
    let addr := x + dispWord d
    let len := StSz.bytes sz
    let bs := natToBytes len y.toNat
    reach s sp .write addr len fun t info =>
      match diffOf s t addr.toNat len false with
      | .refuse c => raise s c info
      | .region r =>
        match t with
        | .spad off =>
          need s (!touchesBarrier s.pre.hdr off len) .barrierStore info <|
          orHold (spadHold s off len) <|
          if s.pre.rewinding then orHold (spadHold s (r.cell off) 4) <| stRewind s r t addr len na w
          else stTaped s t addr bs na w
        | _ => if s.pre.rewinding then stRewind s r t addr len na w else stTaped s t addr bs na w
      | .plain =>
        match t with
        | .spad off =>
          need s (!touchesBarrier s.pre.hdr off len) .barrierStore info <|
          orHold (spadHold s off len) <|
          let s := s.upd (·.drainFor off len)
          soundPart s off len <|
          .ok () ((s.upd fun k => k.spadWrite off bs).result 0 1 w)
        | .hbm p =>
          let (_, s) := (s.noteAccess s.issue.core t addr.toNat).send s.issue.core (.store bs) p addr { write := true, na := na }
          .ok () (s.result 0 1 w)
        | .window i p =>
          let (_, s) := (s.noteAccess s.issue.core t addr.toNat).send s.issue.core (.store bs) p addr
            { write := true, win := some i, na := na }
          .ok () (s.result 0 1 w)
        | .reg fn off =>
          let s := if h : fn < 17 then s.post (.registerWrite ⟨fn, h⟩ off y) Input.reset else s
          .ok () (s.result 0 1 w))
/-! ### Spill memory (R160, R354) -/

/-- The spill bytes in force: the header's, or 16 KiB in S and H (R246). -/
def Core.spillLimit (k : Core) : Nat := if k.level = .u then k.hdr.spill else 16384

def execSpl (a : SSpec) (off : BitVec 11) (s : State) : Host.Outcome State Fault Refusal :=
  finish s ((readS s a 0).bind fun x s =>
    let o := 8 * off.toNat
    need s (o + 8 ≤ s.pre.spillLimit) .spillRange 0
      (.ok () (s.upd fun k => { k.renewWords .spill o 8 with spill := k.spill.writeBytes o (natToBytes 8 x.toNat) })))

def execFil (w : WReg) (off : BitVec 11) (s : State) : Host.Outcome State Fault Refusal :=
  let o := 8 * off.toNat
  finish s (need s (o + 8 ≤ s.pre.spillLimit) .spillRange 0
    (soundSpill s o 8 (.ok () (s.result (BitVec.ofNat 64 (s.pre.spill.readLE o 8)) 1 w))))

/-! ### Atomics (R355-R358) -/

/-- The atomic operand with its displacement (R355). -/
structure Atomic where
  addr  : Nat
  scope : Nat
  order : Nat
  comm  : Bool
  spad  : Bool
  landq : Nat
  deriving DecidableEq, Repr

def atomicOf (x : Word) (d : Disp) : Atomic :=
  { addr := (bitsOf x.toNat 0 48 + (dispWord d).toNat) % 2 ^ 48, scope := bitsOf x.toNat 48 4,
    order := bitsOf x.toNat 52 2, comm := x.getLsbD 54, spad := x.getLsbD 55,
    landq := bitsOf x.toNat 56 8 }

def Atomic.acquires (t : Atomic) : Bool := t.order = 1 || t.order = 3
def Atomic.releases (t : Atomic) : Bool := t.order = 2 || t.order = 3

/-- What a release atomic waits for at its home: every earlier access of the core (R203). -/
def releaseAfter (s : State) (t : Atomic) : List Nat :=
  if t.releases then (s.memq.filter fun o => o.core = s.issue.core).map (·.id) else []

/-- A release at GANG or POD also waits for the fabric counts (R203). -/
def fabricQuiet (k : Core) : Bool := k.fabOut.isEmpty

/-- The common course of AMO and AMOCAS: the checks of R351, then the access. `new` gives the stored
value from the old one. -/
def atomic (s : State) (x : Word) (d : Disp) (w : WReg) (w32 ret : Bool) (new : Nat → Nat)
    (kind : Atomic → MemKind) : SlotRes Unit :=
  let t := atomicOf x d
  let len := atomWidth w32
  let a := BitVec.ofNat 64 t.addr
  need s (t.scope < 9) .operandReserved (opndInfo 0 0) <|
  reach s t.spad .atomic a len fun tgt info =>
    match diffOf s tgt t.addr len true, tgt with
    | .refuse c, _ => raise s c info
    | _, .reg _ _ => raise s .ownership info
    | _, .spad off =>
      need s (!touchesBarrier s.pre.hdr off len) .barrierStore info <|
      orHold (spadHold s off len) <|
      let s := s.upd (·.drainFor off len)
      soundSpad s off len <|
      let old := s.cur.spad.readLE off len
      let s := s.upd fun k => k.spadWrite off (natToBytes len (new old))
      .ok () (if ret then s.result (extend len w32 old) 4 w else s)
    | _, .window _ _ => raise s .accessKind info
    | _, .hbm p =>
      if t.releases && 7 ≤ t.scope && !fabricQuiet s.cur then .hold .fence
      else
        let (id, s) := (s.noteAccess s.issue.core tgt t.addr).send s.issue.core (kind t) p a
          { write := true, after := releaseAfter s t, acq := t.acquires && !ret }
        .ok () (if ret then s.awaitLoad id (max 1 (4 * t.landq)) w a t.acquires else s)

/-- COMM is honoured on a relaxed atomic that returns nothing, for an operation of the combining table
(R204). -/
def Atomic.honoured (t : Atomic) (op : AmoOp) (ret : Bool) : Bool :=
  t.comm && t.order = 0 && !ret && amoCombines op

def execAmo (a : SSpec) (d : Disp) (b : SSpec) (w : WReg) (nr w32 : Bool) (op : AmoOp) (s : State) :
    Host.Outcome State Fault Refusal :=
  finish s ((readS s a 0).bind fun x s => (readS s b 1).bind fun y s =>
    let len := atomWidth w32
    atomic s x d w w32 (!nr) (fun old => amoNew op (8 * len) old y.toNat)
      (fun t => .amo op w32 y (!nr) (t.honoured op (!nr))))

def execAmocas (a : SSpec) (d : Disp) (b : SSpec) (w : WReg) (w32 : Bool) (e : SSpec) (s : State) :
    Host.Outcome State Fault Refusal :=
  finish s ((readS s a 0).bind fun x s => (readS s b 1).bind fun y s => (readS s e 2).bind fun z s =>
    let n := 8 * atomWidth w32
    atomic s x d w w32 true
      (fun old => if old = z.toNat % 2 ^ n then y.toNat % 2 ^ n else old)
      (fun _ => .cas w32 y z))

/-! ### Fences (R205, R359) -/

/-- Every earlier read has landed: its data is there. -/
def readsLanded (k : Core) : Bool := k.loads.all fun l => l.data.isSome

/-- Merge the clocks of the reads that a fence waited for. -/
def Core.mergeAll (k : Core) : Core :=
  let rc := k.loads.foldl (fun c l => Clk.max c l.clk) k.rc
  { k with rc := rc, wc := Clk.max k.wc rc }

/-- Write streams have drained (R330). -/
def streamsDrained (k : Core) : Bool := k.streams.all fun st => !(st.bound && st.wr) || st.buf.isEmpty

/-- The core's contributions to adjoint cells of HBM have reached them: ASAT has been reported (R235). -/
def accumsDone (s : State) (c : Fin 256) : Bool :=
  !(s.memq.any fun o => o.core = c && (match o.kind with | .accum _ _ _ => true | _ => false))

/-- The conditions of R205, R235 and R40 for a kind (1 acquire, 2 release, 3 full) and a scope. DEDUCED: log entry 40. -/
def fenceMet (s : State) (c : Fin 256) (kind scope : Nat) : Bool :=
  let k := s.coreAt c
  let fab : Bool := 7 ≤ scope
  if scope = 0 then true
  else
    readsLanded k && (!(kind = 3 || fab && kind = 2) || writesDone s c && streamsDrained k) &&
      (!fab || fabricQuiet k) && (decide (scope < 5) || accumsDone s c)

/-- What a met FENCE does: the clocks of the reads it waited for are merged, and at NMEM or wider the core's combining
entries are applied (R171, R204, R205). -/
def State.endFence (s : State) (c : Fin 256) (scope : Nat) : State :=
  if scope = 0 then s
  else
    let s := s.mapCore c Core.mergeAll
    if 5 ≤ scope then s.applyCore c else s

def execFence (scope : BitVec 4) (kind : BitVec 2) (s : State) : Host.Outcome State Fault Refusal :=
  let sc := scope.toNat
  let kd := kind.toNat
  let c := s.issue.core
  finish s (
    need s (kd ≠ 0 && sc < 9) .operandReserved 0 <|
    if 7 ≤ sc && s.cur.fabLate = some s.pre.pc then raise s .fabricTimeout 0
    else if !fenceMet s c kd sc then .hold .fence
    else .ok () (s.endFence c sc))

end Sys2Proof.Machine
end

