-- ==== Sys2Proof/Machine/Polder.lean ====
section
/-! DEFINITION. Polders passing between contexts: pump-out and pump-in (R115, R400). -/

namespace Sys2Proof.Machine

def State.launchById (s : State) (id : Nat) : Option Launch := s.launches.find? (·.id = id)

/-- Gang-active cycles of a launch: from its placement or commit to the halt of its cores (R116). -/
def State.activeOf (s : State) (launch : Option Nat) : Nat :=
  match launch.bind s.launchById with
  | none => 0
  | some l => l.active + if l.state = .running then min s.cycle (l.haltAt.getD s.cycle) - l.since else 0

/-- The clock of a launch's parked commands (R89, R116): gang-active time; the module's own for an H kernel. -/
def State.retryClock (s : State) (launch : Option Nat) : Nat :=
  if (launch.bind s.launchById).isSome then s.activeOf launch else s.cycle

def State.gangDef (s : State) (part : Nat) (g : BitVec 32) : Option GangDef :=
  s.gangs.find? fun d => d.part = part && d.gang = g

/-- The set bits of a quad bitmap, ascending. -/
def ownedQuads (m : BitVec 64) : List Nat := (List.range 64).filter fun q => m.getLsbD q

def indexIn (l : List Nat) (q : Nat) : Nat := l.findIdx (· = q)

/-- The save area of a launch and the index by which a quad is counted in it (R257): the gang's own,
counted within the launch; or the partition's GANG 0, counted over the owned quads, if it covers
them. -/
def saveAreaOf (s : State) (l : Launch) (quad : Nat) : Option (GangDef × Nat) :=
  if l.gang ≠ 0 then
    (s.gangDef l.part l.gang).map fun d => (d, indexIn l.quads quad)
  else
    match s.gangDef l.part 0 with
    | none => none
    | some d =>
      if h : l.part < 17 then
        let i := indexIn (ownedQuads s.parts[l.part].quads) quad
        if i < d.quads then some (d, i) else none
      else none

/-- IPA of a polder's copy in a save area (R115). -/
def polderIpa (d : GangDef) (qi core p : Nat) : Nat :=
  d.save + 65536 * ((4 * qi + core) * 32) + 65536 * p

/-- A 64 KiB granule of a save area: stage 2 alone, with the right asked for (R107, R119). -/
def saveDpa (s : State) (part ipa : Nat) (wr : Bool) : XRes Nat :=
  match stage2 s part ipa with
  | .error c => .error c
  | .ok l =>
    if l.host || (if wr then !l.wr else !l.rd) then .error .xlateS2
    else if ownedDpa s part (leafAddr l ipa) then .ok (leafAddr l ipa)
    else .error .ownership

/-- The key of a core's polder among a launch's saved copies. -/
def copyKey (l : Launch) (c : Fin 256) (p : Nat) : Nat :=
  32 * (4 * indexIn l.quads (c.val / 4) + c.val % 4) + p

def State.setCopies (s : State) (id : Nat) (f : List Nat → List Nat) : State :=
  { s with launches := s.launches.map fun l => if l.id = id then { l with copies := f l.copies } else l }

/-- Failed lines of a polder, in order. -/
def failedIn (k : Core) (p : Nat) : List Nat :=
  (k.badSpad.map (·.1)).filter fun l => decide (l / 1024 = p)

/-- The lines of a polder reach a save area; a failed one is not written, and the fault log names it (R23). -/
def pumpLines (s : State) (c : Fin 256) (l : Launch) (a p : Nat) : State :=
  let k := s.coreAt c
  match failedIn k p with
  | [] => s.poke l.part a (k.spad.readBytes (65536 * p) 65536)
  | bad =>
    let s := (List.range 1024).foldl (fun (s : State) i =>
      if bad.contains (1024 * p + i) then s
      else s.poke l.part (a + 64 * i) (k.spad.readBytes (65536 * p + 64 * i) 64)) s
    bad.foldl (fun (s : State) n => s.logUnit .uncorrectable 2 l.part 0 c.val 0x02 (spadInfo (64 * n)) l.gang) s

/-- Pump-out of a polder to its last writer's save area (R115); nothing where that context has none,
and its bytes are then discarded (R400). -/
def pumpOut (s : State) (c : Fin 256) (p : Nat) (writer : Nat) : Except (Cause × Nat) State :=
  match s.launchById writer with
  | none => .ok s
  | some l =>
    match saveAreaOf s l (c.val / 4) with
    | none => .ok s
    | some (d, qi) =>
      let ipa := polderIpa d qi (c.val % 4) p
      match saveDpa s l.part ipa true with
      | .error e => .error (e, ipa)
      | .ok a =>
        let s := pumpLines s c l a p
        .ok ((s.meter l.part 8 65536).setCopies writer (copyKey l c p :: ·))

/-- Pump-in of the toucher's own copy, or zeros (R115). -/
def pumpIn (s : State) (c : Fin 256) (p : Nat) (toucher : Option Nat) : Except (Cause × Nat) State :=
  let zero := s.mapCore c fun k =>
    { k with spad := k.spad.zero (65536 * p) 65536, badSpad := renewed k.badSpad (65536 * p) 65536 }
  match toucher.bind s.launchById with
  | none => .ok zero
  | some l =>
    if !l.copies.contains (copyKey l c p) then .ok zero
    else match saveAreaOf s l (c.val / 4) with
      | none => .ok zero
      | some (d, qi) =>
        let ipa := polderIpa d qi (c.val % 4) p
        match saveDpa s l.part ipa false with
        | .error e => .error (e, ipa)
        | .ok a =>
          match segFault s l.part a 65536 with
          | some e => .error (e, ipa)
          | none =>
          let bytes := s.peek l.part a 65536
          .ok ((zero.mapCore c fun k => { k with spad := k.spad.writeBytes (65536 * p) bytes }).setCopies
            l.id (·.filter (· ≠ copyKey l c p)))

/-- Hand a polder over to the context `who` that touches it (R115). A failed walk leaves it as it is,
with the save-area IPA. -/
def State.pumpAs (s : State) (c : Fin 256) (p : Fin 32) (who : Option Nat) : Except (Cause × Nat) State :=
  match (s.coreAt c).writers[p] with
  | none => .ok s
  | some w =>
    if some w = who then .ok s
    else match pumpOut s c p.val w with
      | .error e => .error e
      | .ok s => match pumpIn s c p.val who with
        | .error e => .error e
        | .ok s => .ok (s.mapCore c fun k => { k with writers := k.writers.set p who })

def State.pump (s : State) (c : Fin 256) (p : Fin 32) : Except (Cause × Nat) State :=
  s.pumpAs c p (s.coreAt c).launch

/-- Hand over every polder of [off, off + len) to a context. -/
def State.pumpRange (s : State) (c : Fin 256) (who : Option Nat) (off len : Nat) :
    Except (Cause × Nat) State :=
  (poldersOf off len).foldl (fun r p => match r with
    | .ok s => s.pumpAs c (Fin.ofNat 32 p) who
    | .error e => .error e) (.ok s)

/-- Lines of a polder that its pump-out finds uncorrectable (R21, R23). -/
def State.findLost (s : State) (c : Fin 256) (p : Fin 32) (lost : List (Fin 1024)) : State :=
  lost.foldl (fun s l => s.mapCore c fun k =>
    { k with badSpad := SMap.set 0 k.badSpad (1024 * p.val + l.val) 1 }) s

/-- POLDER_PUMP_DONE: the pump of a core's hold ends (R115); `lost` are the lines that the pump-out finds uncorrectable
(R23). A failed walk raises its cause to H at
the touching bundle, with the touched offset in TRAP_INFO and the save-area IPA in the log. -/
def execPolderPumpDone (core : Fin 256) (polder : Fin 32) (lost : List (Fin 1024)) (s : State) :
    Host.Outcome State Fault Refusal :=
  match (s.coreAt core).wait with
  | some (.polder p off) =>
    if p ≠ polder then .next s
    else
      let s := s.findLost core polder lost
      match s.pump core polder with
      | .ok s => .next (s.mapCore core fun k => { k with wait := none })
      | .error (e, ipa) =>
        let g := core :: s.siblings core
        let s := (g.foldl (fun s c => s.mapCore c fun k => { k with wait := none }) s).onBundle core
        let k := s.coreAt core
        let t : Trap := ⟨e, 0, spadInfo off⟩
        if k.level = .h then
          let w := trapCauseWord e 0 .h k.joined s.issue.blen
          .next (s.killCore core e w 10 (BitVec.ofNat 64 ipa))
        else .next ((s.logCore core e 3 (BitVec.ofNat 64 ipa)).takeTrap core t)
  | _ => .next s

end Sys2Proof.Machine
end

