-- ==== Sys2Proof/Machine/Sync.lean ====
section
/-! DEFINITION. Message queues, completion tags and barriers (R161-R165, R360-R365). -/

namespace Sys2Proof.Machine

/-! ### The message queue (R161, R162, R360, R361) -/

/-- Entries waiting: MQ_TAIL - MQ_HEAD, modulo 2^32. -/
def Core.mqWaiting (k : Core) : Nat := (k.mqTail - k.mqHead).toNat

/-- Scratchpad offset of entry `n`. -/
def Core.mqOffset (k : Core) (n : Nat) : Nat :=
  64 * bitsOf k.mqBase.toNat 6 15 + 64 * (n % k.hdr.mqMax)

/-- The clocks of the first entries merged (R201). -/
def Core.acquireClk (k : Core) (clk : Clk) : Core :=
  let rc := Clk.max k.rc clk
  { k with rc := rc, wc := Clk.max k.wc rc }

def execMqrd (a : SSpec) (w : WReg) (s : State) : Host.Outcome State Fault Refusal :=
  finish s ((readS s a 0).bind fun x s =>
    if x.toNat < s.pre.mqWaiting then
      let s := s.upd fun k =>
        (k.mqEntries.take (x.toNat + 1)).foldl (fun k e => k.acquireClk e.clk) k
      .ok () (s.result (BitVec.ofNat 64 (s.pre.mqOffset (s.pre.mqHead.toNat + x.toNat))) 1 w)
    else .ok () (s.result (BitVec.allOnes 64) 1 w))

/-- Each released entry sends one credit back to its sender (R162). -/
def State.returnCredits (s : State) (c : Fin 256) (es : List MqEntry) : State :=
  let k := s.coreAt c
  es.foldl (fun s e =>
    match launchCore s k.launch e.sender with
    | some o =>
      { s with
        credRet := s.credRet ++
          [{ launch := k.launch, sender := e.sender, target := k.lidx, core := o,
             due := s.cycle + msgLatency c o }] }
    | none => s) s

def execMqrel (a : SSpec) (s : State) : Host.Outcome State Fault Refusal :=
  finish s ((readS s a 0).bind fun x s =>
    need s (x.toNat ≤ s.pre.mqWaiting) .msgqEmpty 0 <|
    let es := s.pre.mqEntries.take x.toNat
    let s := s.upd fun k =>
      { k with mqHead := k.mqHead + BitVec.ofNat 32 x.toNat, mqEntries := k.mqEntries.drop x.toNat }
    .ok () (s.returnCredits s.issue.core es))

/-- The credit that reaches a core next: of those that are due, the one due first (R154, R162). -/
def nextCredit (s : State) (c : Fin 256) : Option CreditRet :=
  (s.credRet.filter fun r => r.core = c && decide (r.due ≤ s.cycle)).foldl (fun b r => match b with
    | some x => if r.due < x.due then some r else some x
    | none => some r) none

/-- CREDIT_RETURN: a credit on its way to the core arrives (R162). -/
def execCreditReturn (s : State) : Host.Outcome State Fault Refusal :=
  let c := s.inp.core
  match nextCredit s c with
  | none => .next s
  | some r =>
    let s := { s with credRet := s.credRet.erase r }
    .next (s.updCtx r.launch c fun k =>
      { k with credits := setAt k.credits r.target (k.credits.getD r.target 0 + 1) })

/-- Earliest first, own core's first within a cycle, then in order (R156, R363). -/
def earlier (owner : Fin 256) (a b : MemOp) : Bool :=
  if a.due ≠ b.due then a.due < b.due
  else if (a.core = owner) ≠ (b.core = owner) then a.core = owner
  else a.id < b.id

def firstOp (owner : Fin 256) : List MemOp → Option MemOp
  | [] => none
  | o :: l => match firstOp owner l with
    | some p => if earlier owner p o then some p else some o
    | none => some o

/-- A delivery that parked waits for its next try (R89, R115). -/
def MemOp.awake (s : State) (o : MemOp) : Bool :=
  match o.parked with
  | some t => decide (t ≤ s.retryClock o.launch)
  | none => true

/-- A message to a core from a sender that comes before another of the same sender (R163). -/
def MemOp.before (e o : MemOp) : Bool :=
  match e.kind, o.kind with
  | .msg t _ _, .msg u _ _ => t = u && e.core = o.core && e.launch = o.launch && decide (e.id < o.id)
  | _, _ => false

/-- The banks of a core's scratchpad that a delivery finds locked (R156, R159, R344). -/
def bankFree (s : State) (c : Fin 256) (off : Nat) : Bool :=
  (banksOf off 64 &&& lockedBanks s c) = 0 && !ownLock (s.coreAt c)

/-- A CMSG that can be delivered to a core: its queue accepts deliveries (R161), the bank of its entry is free, and no
earlier one of its sender is still to come. -/
def nextMessage (s : State) (c : Fin 256) : Option MemOp :=
  let k := s.coreAt c
  firstOp c (s.memq.filter fun o => (match o.kind with
    | .msg t _ _ => decide (t = c) && decide (o.launch = k.launch)
    | _ => false) && o.ready s && o.awake s && k.mqBase.getLsbD 63 && bankFree s c (k.mqOffset k.mqTail.toNat) &&
    !(s.memq.any fun e => e.before o))

/-- Interval after which what could not be translated is tried again: 10 us (R89). -/
def retryCycles : Nat := 16000

/-- A delivery whose pump finds no translation parks (R89, R115): the first time with a fault log entry that names the
save-area IPA. -/
def State.parkOp (s : State) (o : MemOp) (c : Fin 256) (cause : Cause) (ipa : Nat) : State :=
  let s := { s with memq := s.memq.map fun e =>
    if e.id = o.id then { e with parked := some (s.retryClock o.launch + retryCycles) } else e }
  if o.parked.isSome then s
  else s.logUnit cause (if cause.cls = .toH then 2 else 0) o.part 0 c.val 0 (BitVec.ofNat 64 ipa)
    ((s.ctx o.launch c).getD Core.reset).gang

/-- A command completes into its tag (R362): done with a status, or free if a TCLR released it. -/
def Core.tagComplete (k : Core) (t : Fin 64) (status : BitVec 8) : Core :=
  match k.tags[t] with
  | .busy true => { k with tags := k.tags.set t .free, copyq := k.copyq.filter (· ≠ t) }
  | _ => { k with tags := k.tags.set t (.done status) }

/-- Completion statuses of R370 that the core machine names. -/
def stOk : BitVec 8 := 0x00
def stBarrierStore : BitVec 8 := 0x04

/-- A command of a core leaves; its tag completes. -/
def State.completeCmd (s : State) (id : Nat) (status : BitVec 8) : State :=
  match s.cmds.find? (·.id = id) with
  | none => s
  | some m =>
    let s := { s with cmds := s.cmds.filter (·.id ≠ id) }
    match m.tag with
    | some t => (s.updCtx m.launch m.core fun k => k.tagComplete t status).wakeYield m.core .tag
    | none => s

/-- MESSAGE_DELIVERY: the 64 bytes reach the target's ring, then MQ_TAIL advances (R163); an entry on a
barrier line is never delivered, and its credit returns at once (R381). The ring's polder is first handed over (R115). -/
def execMessageDelivery (s : State) : Host.Outcome State Fault Refusal :=
  let c := s.inp.core
  match nextMessage s c with
  | none => .next s
  | some o =>
    match o.kind with
    | .msg _ bytes cmd =>
      let k := s.coreAt c
      let off := k.mqOffset k.mqTail.toNat
      if touchesBarrier k.hdr off 64 then
        .next (((s.dropOp o.id).updCtx o.launch o.core fun q =>
          { q with credits := setAt q.credits k.lidx (q.credits.getD k.lidx 0 + 1) }).completeCmd cmd
          stBarrierStore)
      else match s.pump c (Fin.ofNat 32 (off / 65536)) with
        | .error (e, ipa) => .next (s.parkOp o c e ipa)
        | .ok s =>
          let s := (s.dropOp o.id).mapCore c fun k =>
            { k.spadWrite off bytes with
              mqTail := k.mqTail + 1, mqEntries := k.mqEntries ++ [⟨(s.coreAt o.core).lidx, o.clk⟩] }
          .next ((s.completeCmd cmd stOk).wakeYield c .delivery)
    | _ => .next s

/-! ### Completion tags (R362) -/

/-- Tags of a mask, those below the header's TAGS. -/
def tagsOf (k : Core) (a : Word) : List (Fin 64) :=
  (List.finRange 64).filter fun t => a.getLsbD t.val && decide (t.val < k.hdr.tags)

def isBusy : TagState → Bool
  | .busy _ => true
  | _ => false

def doneStatus : TagState → Option (BitVec 8)
  | .done st => some st
  | _ => none

/-- Retire a done tag: it is free, and so is its copy-queue entry (R149). -/
def Core.retire (k : Core) (t : Fin 64) : Core :=
  { k with tags := k.tags.set t .free, copyq := k.copyq.filter (· ≠ t) }

/-- The mask of tags that satisfy a test. -/
def maskOf (l : List (Fin 64)) : Word :=
  l.foldl (fun (m : Word) t => m ||| BitVec.ofNat 64 (2 ^ t.val)) 0

/-- The done tags of a mask. -/
def doneTags (s : State) (a : Word) : List (Fin 64) := (tagsOf s.pre a).filter fun t => (doneStatus s.pre.tags[t]).isSome

/-- Retire tags; the result is the mask of some of them. -/
def retireTags (s : State) (done shown : List (Fin 64)) (w : WReg) : SlotRes Unit :=
  .ok () ((s.upd fun k => done.foldl Core.retire k).result (maskOf shown) 1 w)

def execTwait (a : SSpec) (w : WReg) (s : State) : Host.Outcome State Fault Refusal :=
  finish s ((readS s a 0).bind fun x s =>
    if (tagsOf s.pre x).any fun t => isBusy s.pre.tags[t] then .hold (.tags x)
    else retireTags s (doneTags s x) ((doneTags s x).filter fun t => doneStatus s.pre.tags[t] ≠ some stOk) w)

def execTwany (a : SSpec) (w : WReg) (s : State) : Host.Outcome State Fault Refusal :=
  finish s ((readS s a 0).bind fun x s =>
    let l := tagsOf s.pre x
    if (l.any fun t => (doneStatus s.pre.tags[t]).isSome) || !(l.any fun t => isBusy s.pre.tags[t]) then
      retireTags s (doneTags s x) (doneTags s x) w
    else .hold (.tags x))

def execTffr (a : SSpec) (w : WReg) (s : State) : Host.Outcome State Fault Refusal :=
  finish s ((readS s a 0).bind fun x s =>
    match (tagsOf s.pre x).find? fun t => (doneStatus s.pre.tags[t]).isSome with
    | some t =>
      let st := (doneStatus s.pre.tags[t]).getD 0
      let s := s.upd fun k => k.retire t
      .ok () (s.result (BitVec.ofNat 64 (t.val + 256 * st.toNat)) 1 w)
    | none => .ok () (s.result 64 1 w))

/-- TCLR retires done tags and marks busy ones to be free at completion; neither acquires. -/
def execTclr (a : SSpec) (s : State) : Host.Outcome State Fault Refusal :=
  finish s ((readS s a 0).bind fun x s =>
    .ok () (s.upd fun k => (tagsOf s.pre x).foldl (fun k t =>
      match s.pre.tags[t] with
      | .done _ => k.retire t
      | .busy _ => { k with tags := k.tags.set t (.busy true) }
      | .free => k) k))

/-! ### Barrier lines (R164) -/

/-- The fields of a barrier line. -/
structure BarLine where
  target  : Nat
  count   : Nat
  phase   : Nat
  state   : Nat
  waiters : Nat
  deriving DecidableEq, Repr

def readBarLine (m : Mem) (off : Nat) : BarLine :=
  ⟨m.readLE off 8, m.readLE (off + 8) 8, m.readLE (off + 16) 4, m.readLE (off + 20) 1,
   m.readLE (off + 24) 4⟩

def writeBarLine (m : Mem) (off : Nat) (b : BarLine) : Mem :=
  m.writeBytes off (natToBytes 8 b.target ++ natToBytes 8 b.count ++ natToBytes 4 b.phase ++
    natToBytes 1 b.state ++ [0, 0, 0] ++ natToBytes 4 b.waiters)

/-- The answer of BWAIT and BTEST: status in [1:0], PHASE in [63:32] (R365). -/
def barAnswer (status phase : Nat) : Word := BitVec.ofNat 64 (status + 2 ^ 32 * (phase % 2 ^ 32))

/-- Answer waiters of a barrier: the word travels back to each (R363). -/
def State.wakeWaiters (s : State) (l : Option Nat) (owner : Fin 256) (ws : List Waiter) (v : Word)
    (clk : Clk) : State :=
  ws.foldl (fun s w =>
    let id := s.nextId
    let o : MemOp :=
      { id := id, core := w.core, launch := l, part := (s.coreAt w.core).part,
        kind := .wake v, dpa := 0, va := 0, tag := 0, na := false, ms := false, home := dieOf w.core, side := false, win := none, num := 0,
        clk := clk, due := s.cycle + (if w.core = owner then 0 else msgLatency owner w.core), after := [],
        acq := false, diff := false, tape := none, parked := none, bad := none, result := none }
    { s with nextId := id + 1, memq := s.memq ++ [o] }) s

/-- The context of a launch on a core; a core at rest where there is none. -/
def State.ctxOf (s : State) (l : Option Nat) (c : Fin 256) : Core := (s.ctx l c).getD Core.reset

/-- Store a barrier line of a context in its core's banks. -/
def State.setBar (s : State) (l : Option Nat) (owner : Fin 256) (off : Nat) (b : BarLine) : State :=
  s.mapCore owner fun k => k.spadWriteBy l off (natToBytes 8 b.target ++ natToBytes 8 b.count ++
    natToBytes 4 b.phase ++ natToBytes 1 b.state ++ [0, 0, 0] ++ natToBytes 4 b.waiters)

/-- A discarded unit or count is logged to S with the barrier index (R164). -/
def State.logBarrier (s : State) (l : Option Nat) (owner : Fin 256) (index : Nat) : State :=
  let k := s.ctxOf l owner
  s.logUnit .barrierState 0 k.part 0 index 0 0 k.gang

/-- Add units to a barrier (R164): PHASE rises by COUNT div TARGET when COUNT reaches it, and the flip
releases every waiter whose phase no longer matches (R364). -/
def State.addUnits (s : State) (l : Option Nat) (owner : Fin 256) (index off n : Nat) (clk : Clk) : State :=
  let k := s.ctxOf l owner
  let b := readBarLine (s.coreAt owner).spad off
  if b.state ≠ 1 then s.logBarrier l owner index
  else
    let s := s.wakeYield owner .barrier
    let acc := Clk.max (SMap.get Clk.zero k.barClk index) clk
    let total := b.count + n
    if total < b.target ∨ b.target = 0 then
      (s.setBar l owner off { b with count := total }).updCtx l owner fun k =>
        { k with barClk := SMap.set Clk.zero k.barClk index acc }
    else
      let phase := (b.phase + total / b.target) % 2 ^ 32
      let goes (w : Waiter) : Bool := w.barrier = index && w.phase.toNat ≠ phase
      let out := k.waiters.filter goes
      let s := s.setBar l owner off
        { b with count := total % b.target, phase := phase, waiters := b.waiters - out.length }
      let s := s.updCtx l owner fun k =>
        { k with
          barClk := SMap.set Clk.zero k.barClk index Clk.zero
          flipClk := SMap.set Clk.zero k.flipClk index acc
          waiters := k.waiters.filter fun w => !goes w }
      s.wakeWaiters l owner out (barAnswer 0 phase) acc

/-- Release every waiter of a barrier with a status, without an acquire (R364). -/
def State.releaseAll (s : State) (l : Option Nat) (owner : Fin 256) (index : Nat) (v : Word) : State :=
  let out := (s.ctxOf l owner).waiters.filter (·.barrier = index)
  let s := s.updCtx l owner fun k => { k with waiters := k.waiters.filter (·.barrier ≠ index) }
  s.wakeWaiters l owner out v Clk.zero

/-- Apply one operation on a barrier line at the owning core's banks (R363-R365). -/
def State.applyBar (s : State) (o : MemOp) (owner : Fin 256) (index off : Nat) (op : BarOp) : State :=
  let l := o.launch
  let k := s.ctxOf l owner
  let b := readBarLine (s.coreAt owner).spad off
  match op with
  | .init t =>
    let s := (s.dropOp o.id).releaseAll l owner index (barAnswer 1 b.phase)
    let s := s.setBar l owner off { target := t.toNat, count := 0, phase := b.phase, state := 1, waiters := 0 }
    s.updCtx l owner fun k => { k with barClk := SMap.set Clk.zero k.barClk index Clk.zero }
  | .inv =>
    let s := (s.dropOp o.id).releaseAll l owner index (barAnswer 2 b.phase)
    s.setBar l owner off { b with state := 2, waiters := 0 }
  | .unit => (s.dropOp o.id).addUnits l owner index off 1 o.clk
  | .count n => (s.dropOp o.id).addUnits l owner index off n Clk.zero
  | .wait p =>
    let s := s.dropOp o.id
    let w : Waiter := ⟨index, o.core, p⟩
    if b.state ≠ 1 then s.wakeWaiters l owner [w] (barAnswer 2 b.phase) Clk.zero
    else if b.phase ≠ p.toNat then
      s.wakeWaiters l owner [w] (barAnswer 0 b.phase) (SMap.get Clk.zero k.flipClk index)
    else
      (s.setBar l owner off { b with waiters := b.waiters + 1 }).updCtx l owner fun k =>
        { k with waiters := k.waiters ++ [w] }
  | .leave =>
    let s := s.dropOp o.id
    let goes (w : Waiter) : Bool := w.barrier = index && w.core = o.core
    let n := (k.waiters.filter goes).length
    if n = 0 then s
    else
      (s.setBar l owner off { b with waiters := b.waiters - n }).updCtx l owner fun k =>
        { k with waiters := k.waiters.filter fun w => !goes w }
  | .test p _ =>
    if b.state ≠ 1 then s.answerOp o.id (barAnswer 2 b.phase) Clk.zero
    else if b.phase ≠ p.toNat then
      s.answerOp o.id (barAnswer 0 b.phase) (SMap.get Clk.zero k.flipClk index)
    else s.answerOp o.id (barAnswer 3 b.phase) Clk.zero

/-- An operation that finds its barrier's line failed is not applied: BTEST answers with the cause, a completion count is
logged, and any other raises the cause at its core's next bundle (R22, R23, R417). -/
def State.failBar (s : State) (o : MemOp) (owner : Fin 256) (off : Nat) (op : BarOp) : State :=
  match op with
  | .test _ _ => s.answerBad o.id .uncorrectable Clk.zero
  | .leave => (s.dropOp o.id).updCtx o.launch owner fun k =>
      { k with waiters := k.waiters.filter fun w => w.core ≠ o.core }
  | .count _ => (s.dropOp o.id).logUnit .uncorrectable 2 o.part 0 owner.val 0 (spadInfo off) (s.coreAt owner).gang
  | _ => ((s.dropOp o.id).mapCore o.core fun k => k.lateFault off).rouse o.core

/-- The next barrier operation that a core owns, or the next answer that reaches it. -/
def nextBarOp (s : State) (c : Fin 256) : Option MemOp :=
  firstOp c (s.memq.filter fun o => (match o.kind with
    | .bar w i _ => decide (w = c) && o.awake s && (match barrierOff (s.ctxOf o.launch c).hdr i with
      | some off => bankFree s c off
      | none => true)
    | .wake _ => decide (o.core = c)
    | _ => false) && o.ready s)

/-- BARRIER_APPLY: one operation on a barrier line of the core is applied, or an answer to its BWAIT
arrives (R363). The first touch of the line's polder hands it over (R115, R164). A context that is out
of its core is reached all the same (R213). -/
def execBarrierApply (s : State) : Host.Outcome State Fault Refusal :=
  let c := s.inp.core
  match nextBarOp s c with
  | none => .next s
  | some o =>
    match o.kind with
    | .wake v =>
      .next ((s.dropOp o.id).updCtx o.launch c fun k =>
        match k.wait with
        | some (.barrier _ _) => { k.acquireClk o.clk with answer := some v }
        | _ => k)
    | .bar _ index op =>
      match barrierOff (s.ctxOf o.launch c).hdr index with
      | none => .next (s.dropOp o.id)
      | some off =>
        match s.pumpAs c (Fin.ofNat 32 (off / 65536)) o.launch with
        | .error (e, ipa) => .next (s.parkOp o c e ipa)
        | .ok s =>
          if ((s.coreAt c).failedLine off 64).isSome then .next (s.failBar o c off op)
          else .next (s.applyBar o c index off op)
    | _ => .next s

/-- Check a barrier reference (R363): its core and its line's index. -/
def barRef {α : Type} (s : State) (r : Word) (k : Fin 256 → Nat → SlotRes α) : SlotRes α :=
  let n := r.toNat
  let index := bitsOf n 0 16
  match barrierOff s.pre.hdr index, decide (n < 2 ^ 24) with
  | some off, true =>
    match launchCore s s.pre.launch (bitsOf n 16 8) with
    | none => raise s .msgTarget 0
    | some o =>
      if diffLevel s.pre && (regionAt s.pre.hdr false off 64).isSome then raise s .diffKind (spadInfo off)
      else k o index
  | _, _ => raise s .barrierRange 0

/-- Send an operation to a barrier (R363). -/
def State.sendBar (s : State) (o : Fin 256) (index : Nat) (op : BarOp) (write : Bool) : Nat × State :=
  s.send s.issue.core (.bar o index op) ⟨0, false, false, 0⟩ 0
    { write := write, due := s.cycle + barLatency s.issue.core o }

def execBinit (a : SSpec) (b : SOpnd) (s : State) : Host.Outcome State Fault Refusal :=
  finish s ((readS s a 0).bind fun x s => (readSO s b 1).bind fun y s =>
    barRef s x fun o index =>
    need s (y ≠ 0) .barrierRange 0 <|
    .ok () (s.sendBar o index (.init y) false).2)

def execBarr (a : SSpec) (s : State) : Host.Outcome State Fault Refusal :=
  finish s ((readS s a 0).bind fun x s => barRef s x fun o index =>
    .ok () (s.sendBar o index .unit true).2)

def execBinv (a : SSpec) (s : State) : Host.Outcome State Fault Refusal :=
  finish s ((readS s a 0).bind fun x s => barRef s x fun o index =>
    .ok () (s.sendBar o index .inv false).2)

/-- BWAIT: the first cycle of the hold sends the request; the answer ends it (R365). -/
def execBwait (a : SSpec) (b : SOpnd) (w : WReg) (s : State) : Host.Outcome State Fault Refusal :=
  finish s ((readS s a 0).bind fun x s => (readSO s b 1).bind fun y s =>
    barRef s x fun _ _ =>
    match s.pre.answer with
    | some v => .ok () ((s.upd fun k => { k with answer := none }).result v 1 w)
    | none => .hold (.barrier x (y.setWidth 32)))

/-- The latency of a BTEST's result (R363). -/
def btestLatency (a b : Fin 256) : Nat :=
  if a = b then 2 else 2 * msgLatency a b + 2

def execBtest (a : SSpec) (b : SOpnd) (w : WReg) (s : State) : Host.Outcome State Fault Refusal :=
  finish s ((readS s a 0).bind fun x s => (readSO s b 1).bind fun y s =>
    barRef s x fun o index =>
    let (id, s) := s.sendBar o index (.test (y.setWidth 32) 0) false
    .ok () (s.awaitLoad id (btestLatency s.issue.core o) w x false))

end Sys2Proof.Machine
end

