-- ==== Sys2Proof/Machine/Streams.lean ====
section
/-! DEFINITION. Streams: binding, pops and pushes, refills and drains (R144, R145, R303-R305, R330,
R331), and their rewind forms (R242). -/

namespace Sys2Proof.Machine

/-! ### The checks of a vector -/

/-- TRAP_INFO of a stream cause: the stream's index (R252). -/
def streamInfo (i : Fin 8) (pos : Nat) : Word := BitVec.ofNat 64 (i.val + 64 * pos)

/-- The checks of a vector about to be moved (R145, R304, R305): its bytes lie in declared polders, and
all of them in the stream's region, or none in any. -/
def vectorCause (k : Core) (st : Stream) (n : Nat) : Option (Cause × Word) :=
  let bad := (st.ranges n).findSome? fun (a, len) =>
    (badPolder k.hdr a.toNat len).map fun x => (Cause.polderUndeclared, spadInfo (x % 2 ^ 63))
  match bad with
  | some b => some b
  | none =>
    if !diffLevel k then none
    else (st.ranges n).findSome? fun (a, len) =>
      match regionAt k.hdr false a.toNat len with
      | some r =>
        if !st.diff then some (.diffShape, spadInfo a.toNat)
        else if r.covers a.toNat len then none else some (.diffShape, spadInfo a.toNat)
      | none => if st.diff then some (.diffShape, spadInfo a.toNat) else none

/-- A reason that the banks of a vector cannot be reached in this cycle. -/
def vectorHold (s : State) (st : Stream) (n : Nat) : Option Hold :=
  (st.ranges n).findSome? fun (a, len) => spadHold s a.toNat len

/-! ### SBIND and SUNBIND (R303) -/

/-- The block's fields (R303, R304). -/
def blockCause (b : List Byte) (add : Word) : Option Cause :=
  if (List.range 4).any (fun i => blkCount b i = 0) || (fieldLE b 48 1) / 2 ≠ 0 || fieldLE b 49 15 ≠ 0 then
    some .streamUnbound
  else if (blkBase b + add).toNat % 64 ≠ 0 || (List.range 4).any (fun i => blkStride b i % 64 ≠ 0) then
    some .misaligned
  else none

/-- A stream whose first vector has any byte in a KIND 1 range is bound differentiable (R305). -/
def firstTouches (k : Core) (st : Stream) : Bool :=
  diffLevel k && (st.ranges 0).any fun (a, len) => (regionAt k.hdr false a.toNat len).isSome

/-- Put a stream's new binding at the end of the bundle. -/
def State.bindLater (s : State) (i : Fin 8) (st : Stream) : State :=
  { s with issue := { s.issue with binds := s.issue.binds ++ [(i, st)] } }

def doBind (s : State) (wr : Bool) (a : Word) (off : Nat) (i : Fin 8) : SlotRes Unit :=
  let b := readBlock s.pre off
  need s (off + 64 ≤ s.pre.spillLimit) .spillRange 0 <|
  soundSpill s off 64 <|
  match blockCause b a with
  | some .misaligned => raise s .misaligned (spadInfo ((blkBase b + a).toNat % 2 ^ 63))
  | some c => raise s c (streamInfo i 0)
  | none =>
    let old := s.pre.streams[i]
    if old.bound && old.wr && !old.buf.isEmpty then .hold (.stream i)
    else
      let st : Stream := { bound := true, wr := wr, diff := false, block := b, add := a, pos := 0,
                           moved := 0, next := s.cycle + 3, buf := [] }
      .ok () (s.bindLater i { st with diff := firstTouches s.pre st })

def execSbindRd (a : SSpec) (off : BitVec 8) (i : Fin 8) (s : State) : Host.Outcome State Fault Refusal :=
  finish s ((readS s a 0).bind fun x s => doBind s false x (64 * off.toNat) i)

def execSbindWr (a : SSpec) (off : BitVec 8) (i : Fin 8) (s : State) : Host.Outcome State Fault Refusal :=
  finish s ((readS s a 0).bind fun x s => doBind s true x (64 * off.toNat) i)

/-- SUNBIND of a write stream holds until its buffer has drained; of a read stream it discards (R145). -/
def execSunbind (i : Fin 8) (s : State) : Host.Outcome State Fault Refusal :=
  let old := s.pre.streams[i]
  finish s (
    if !old.bound then .ok () s
    else if old.wr && !old.buf.isEmpty then .hold (.stream i)
    else .ok () (s.bindLater i Stream.reset))

/-- At the end of a bundle its bindings take effect; a vector that the bundle itself pushed into a stream
it releases is written first. -/
def State.applyBinds (s : State) : State :=
  s.issue.binds.foldl (fun s (i, st) => s.upd fun k => (k.drainAll i).setStream i st) s

/-! ### Pops -/

/-- The region of a vector of a stream bound differentiable. -/
def Stream.region (k : Core) (st : Stream) (n : Nat) : Option DiffRegion :=
  regionAt k.hdr false (blkAddr st.block st.add n).toNat 256

/-- KIND of a stream's record (R240). -/
def recStream : Nat := 2

/-- Read and clear the cells of a range of a scratchpad region, one element after another: the values
as codes of the region's type (R242). -/
def clearCells (m : Mem) (r : DiffRegion) (off : Nat) : Nat → List Nat × Mem
  | 0 => ([], m)
  | n + 1 =>
    let (v, m) := readClear m r (r.cell off)
    let (vs, m) := clearCells m r (off + r.esize) n
    (narrowFrom32 r.type v :: vs, m)

/-- Ranges written at issue change no failed line in part (R22, R23). -/
def soundRanges {α : Type} (s : State) (rs : List (Word × Nat)) (k : SlotRes α) : SlotRes α :=
  match rs.findSome? fun (a, n) => s.cur.failedPart a.toNat n with
  | some o => raise s .uncorrectable (spadInfo o)
  | none => k

/-- A rewind pop of a write stream (R242, R243): the vector's ranges are restored from their records,
last written first, and the cleared cells come as the vector, scales 0x7F. -/
def popRewind (s : State) (st : Stream) (i : Fin 8) (pos : Nat) : SlotRes Vec :=
  let c := s.issue.core
  let n := st.index true st.pos
  match st.region s.cur n with
  | none => raise s .diffShape (streamInfo i pos)
  | some r =>
    if pendDiff s c then .hold .fence else
    let restore (res : Except (Cause × Word) (List (Nat × List Byte) × Nat)) (x : Word × Nat) :=
      match res with
      | .error e => .error e
      | .ok (l, ptr) =>
        match popRecord s s.cur (reelXlate s c) ptr (spadInfo x.1.toNat) x.2 recStream with
        | .error e => .error e
        | .ok (old, start) => .ok ((x.1.toNat, old) :: l, start)
    match (st.ranges n).reverse.foldl restore (.ok ([], reelPtr s.cur)) with
    | .error (e, info) => raise s e info
    | .ok (olds, ptr) =>
      let a := (blkAddr st.block st.add n).toNat
      orHold (spadHold s (r.cell a) (1024 / r.esize)) <| soundSpad s (r.cell a) (1024 / r.esize) <|
      soundRanges s (st.ranges n) <|
      let (codes, m) := clearCells s.cur.spad r a (256 / r.esize)
      let s := s.upd fun k =>
        let k := olds.foldl (fun k (o, bs) => k.spadWrite o bs) { k with spad := m }
        (k.setStream i { st with pos := st.pos + 1, moved := st.moved + 1 }).setReelPtr ptr
      .ok (vecOf (codes.flatMap (natToBytes r.esize)) (List.replicate 8 0x7F)) s

/-- The first failed line of a vector's ranges. -/
def failedVector (k : Core) (st : Stream) (n : Nat) : Option Nat :=
  (st.ranges n).findSome? fun (a, len) => k.failedLine a.toNat len

/-- An operand read of stream `i` at operand position `pos` (R145). -/
def popStream (s : State) (i : Fin 8) (pos : Nat) : SlotRes Vec :=
  let st := s.cur.streams[i]
  let rew := s.pre.rewinding && diffLevel s.pre
  let rev := st.diff && rew
  need s (st.bound && (st.wr = rev)) .streamUnbound (streamInfo i pos) <|
  need s (st.pos < blkTotal st.block) .streamEnd (streamInfo i pos) <|
  match vectorCause s.pre st (st.index rew st.pos) with
  | some (c, info) => raise s c info
  | none =>
    if rev then orHold (vectorHold s st (st.index true st.pos)) (popRewind s st i pos)
    else match st.buf with
      | v :: rest =>
        .ok v.val (s.upd fun k => k.setStream i { st with pos := st.pos + 1, buf := rest })
      | [] =>
        match vectorHold s st st.pos with
        | some (.polder p o) => .hold (.polder p o)
        | _ => match failedVector s.cur st st.pos with
          | some o => raise s .uncorrectable (spadInfo o)
          | none => .hold (.stream i)

/-! ### Pushes -/

/-- A taped push (R241): its records are reserved and sent, and the vector is performed at once. -/
def pushTaped (s : State) (st : Stream) (i : Fin 8) (v : SVec) : SlotRes Unit :=
  let c := s.issue.core
  let rs := st.ranges st.pos
  let z := (rs.map fun (_, n) => recordSize n).foldl (· + ·) 0
  match reserveReel s c z with
  | .error (e, info) => raise s e info
  | .ok segs =>
    let recs := rs.flatMap fun (a, n) =>
      reelRecord (spadInfo a.toNat) n recStream (s.cur.spad.readBytes a.toNat n)
        (s.cur.failedLine a.toNat n).isSome
    let s := (s.upd fun k => k.setReelPtr (reelPtr k + z)).sendRecord c segs recs
    .ok () (s.upd fun k => (k.putVector st st.pos v).setStream i
      { st with pos := st.pos + 1, moved := st.moved + 1 })

/-- A push to a read stream in rewind accumulates each active element into its cell (R242). -/
def pushRewind (s : State) (st : Stream) (i : Fin 8) (v : SVec) : SlotRes Unit :=
  let n := st.index true st.pos
  match st.region s.cur n with
  | none => raise s .diffShape (streamInfo i 2)
  | some r =>
    let a := (blkAddr st.block st.add n).toNat
    orHold (spadHold s (r.cell a) (1024 / r.esize)) <| soundSpad s (r.cell a) (1024 / r.esize) <|
    let data := vecData v.val
    let s := s.upd fun k =>
      (List.range (256 / r.esize)).foldl (fun k j =>
        if v.nib.getLsbD (2 * r.esize * j) then
          k.accumSpad r (a + r.esize * j) (widenTo32 r.type (fieldLE data (r.esize * j) r.esize))
        else k) k
    .ok () (s.upd fun k => k.setStream i { st with pos := st.pos + 1, moved := st.moved + 1 })

/-- Push a vector into stream `i` (R145, R330, R331). -/
def pushStream (s : State) (i : Fin 8) (v : SVec) : SlotRes Unit :=
  let st := s.cur.streams[i]
  let rew := s.pre.rewinding && diffLevel s.pre
  let rev := st.diff && rew
  need s (st.bound && (st.wr ≠ rev)) .streamUnbound (streamInfo i 2) <|
  need s (st.pos < blkTotal st.block) .streamEnd (streamInfo i 2) <|
  let n := st.index rew st.pos
  match vectorCause s.pre st n with
  | some (c, info) => raise s c info
  | none =>
    match (st.ranges n).find? fun (a, len) => touchesBarrier s.pre.hdr a.toNat len with
    | some (a, _) => raise s .barrierStore (spadInfo a.toNat)
    | none =>
      if rev then orHold (vectorHold s st n) (pushRewind s st i v)
      else if st.diff && diffLevel s.pre then orHold (vectorHold s st n) (pushTaped s st i v)
      else if 16 ≤ st.buf.length then .hold (.stream i)
      else match vectorHold s st n with
        | some (.polder p o) => .hold (.polder p o)
        | _ =>
          let s := s.upd fun k => (st.ranges n).foldl (fun k (a, len) =>
            (List.finRange 8).foldl (fun k j =>
              if j ≠ i ∧ (k.streams[j]).overlaps a.toNat len then k.drainAll j else k) k) k
          .ok () (s.upd fun k => k.setStream i
            { st with pos := st.pos + 1, buf := st.buf ++ [{ v with due := s.cycle + 4 }] })

/-! ### Refills and drains (R144, R330, R331) -/

/-- A read stream can take its next vector ahead: within its depth, its banks free. -/
def refillReady (s : State) (c : Fin 256) (i : Fin 8) : Bool :=
  let k := s.coreAt c
  let st := k.streams[i]
  let n := st.moved
  st.bound && !st.wr && !(st.diff && k.rewinding) && decide (n < blkTotal st.block) &&
    decide (st.buf.length < min 16 (max 1 k.hdr.sDepth)) && decide (st.next ≤ s.cycle) &&
    (vectorCause k st n).isNone && !ownLock k && (failedVector k st n).isNone &&
    (st.ranges n).all fun (a, len) =>
      (banksOf a.toNat len &&& lockedBanks s c) = 0 && (foreignPolder k a.toNat len).isNone

/-- STREAM_REFILL: the next vector is read ahead (R331). -/
def execStreamRefill (core : Fin 256) (stream : Fin 8) (s : State) : Host.Outcome State Fault Refusal :=
  if !refillReady s core stream then .next s
  else .next (s.mapCore core fun k =>
    let st := k.streams[stream]
    let v := loadVector k.spad st st.moved
    k.setStream stream { st with moved := st.moved + 1, next := s.cycle + 1,
                                 buf := st.buf ++ [⟨v, 0, 0, 0⟩] })

/-- A write stream's oldest vector can reach the banks. -/
def drainReady (s : State) (c : Fin 256) (i : Fin 8) : Bool :=
  let k := s.coreAt c
  let st := k.streams[i]
  st.bound && st.wr && decide (st.next ≤ s.cycle) && !ownLock k &&
    match st.buf with
    | v :: _ => decide (v.due ≤ s.cycle) && (st.ranges st.moved).all fun (a, len) =>
        (banksOf a.toNat len &&& lockedBanks s c) = 0 && (foreignPolder k a.toNat len).isNone
    | [] => false

/-- STREAM_DRAIN: the oldest vector of a write stream is written to the banks (R330). -/
def execStreamDrain (core : Fin 256) (stream : Fin 8) (s : State) : Host.Outcome State Fault Refusal :=
  if !drainReady s core stream then .next s
  else .next ((s.mapCore core fun k =>
    let st := k.streams[stream]
    match st.buf with
    | v :: rest =>
      (k.storeVector st st.moved v).setStream stream
        { st with moved := st.moved + 1, next := s.cycle + 1, buf := rest }
    | [] => k).rouse core)

end Sys2Proof.Machine
end

