-- ==== Sys2Proof/Machine/Csr.lean ====
section
/-! DEFINITION. The CSRs, launches from a core, the rewind mode and adjoint access (R299-R302,
R306-R308). -/

namespace Sys2Proof.Machine

/-! ### Reading (R300, R301) -/

/-- DMODE_STAT as read: MODE, ASAT and PEND (R236). -/
def dmodeStat (s : State) (c : Fin 256) : Word :=
  (s.coreAt c).dmode &&& 3 ||| (if pendDiff s c || pendDiffCmd s c then 4 else 0)

/-- The value of a CSR, as the level in force may read it; none where it may not (R300). -/
def csrRead (s : State) (n : Nat) : Option Word :=
  let k := s.pre
  let c := s.issue.core
  match n with
  | 0x000 => some (BitVec.ofNat 64 c.val)
  | 0x001 => some (BitVec.ofNat 64 (c.val / 4))
  | 0x002 => some (BitVec.ofNat 64 (c.val / 64))
  | 0x003 => some (k.pkgId.setWidth 64)
  | 0x004 => some (k.gang.setWidth 64)
  | 0x005 => some (k.rank.setWidth 64)
  | 0x006 => some (k.gsize.setWidth 64)
  | 0x008 => some k.icyc
  | 0x009 => some (BitVec.ofNat 64 s.cycle)
  | 0x00A => some k.holdCyc
  | 0x010 => some k.tagDone
  | 0x028 => some k.fmte
  | 0x029 => some k.frm
  | 0x02A => some k.srseed
  | 0x02B => some k.shadowchk
  | 0x030 => some (dmodeStat s c)
  | 0x031 => some k.reelBase
  | 0x032 => some k.reelLimit
  | 0x033 => some k.reelPtr
  | 0x040 => if k.level = .u then none else some (k.trapRegs k.level).cause
  | 0x041 => if k.level = .u then none else some (k.trapRegs k.level).pc
  | 0x042 => if k.level = .u then none else some (k.trapRegs k.level).info
  | 0x043 => some k.trapVec
  | 0x050 => some k.mqBase
  | 0x051 => some (BitVec.ofNat 64 k.hdr.mqMax)
  | 0x052 => some (k.mqHead.setWidth 64)
  | 0x053 => some (k.mqTail.setWidth 64)
  | 0x054 => some (BitVec.ofNat 64 (k.hdr.mqMax - k.mqWaiting))
  | 0x060 => some k.liveBase
  | 0x070 => if k.level = .h then some (BitVec.ofNat 64 k.ssp) else none
  | _ =>
    if h : 0x020 ≤ n ∧ n < 0x028 then some (k.tiles[n - 0x020]'(by omega)).cfg else none

def execCsrr (w : WReg) (c : BitVec 12) (s : State) : Host.Outcome State Fault Refusal :=
  finish s (match csrRead s c.toNat with
    | some v => .ok () (s.result v 1 w)
    | none => raise s .csrAccess 0)

/-! ### Writing -/

/-- A value with the bits of a mask alone: reserved bits read zero (R4). -/
def masked (v : Word) (lo width : Nat) : Word := BitVec.ofNat 64 (2 ^ lo * bitsOf v.toNat lo width)

/-- The tiles that a matrix operation or a tile transfer names (R147). -/
def tilesNamed : Instr → List (Fin 8)
  | .mop _ a b _ _ => [a, b]
  | .mopz _ a b _ _ => [a, b]
  | .mr1 _ a b _ _ => [a, b]
  | .mr1z _ a b _ _ => [a, b]
  | .ctld _ n _ _ => [n]
  | .ctst _ n _ _ => [n]
  | _ => []

/-- An issued operation that has not completed names the tile; an M or C instruction of the same bundle
counts as issued (R147, R299). -/
def tileBusy (s : State) (c : Fin 256) (t : Fin 8) : Bool :=
  ((s.coreAt c).mops.any fun o => (tilesNamed o.op).contains t) ||
  (s.cmds.any fun m => m.core = c && (tilesNamed m.op).contains t) ||
  (s.issue.slots.any fun x => (tilesNamed x.2).contains t)

/-- The shape rules of R146. -/
def tcfgOk (v : Word) : Bool :=
  let rows := tcfgRows v
  let rb := tcfgRbytes v
  decide (1 ≤ rows) && decide (rows ≤ 128) && decide (16 ≤ rb) && decide (rb ≤ 128) && rb % 16 == 0 &&
    (tileType (tcfgType v)).isSome

def writeTcfg (s : State) (t : Fin 8) (v : Word) : SlotRes Unit :=
  need s (!tileBusy s s.issue.core t) .tileBusy 0 <|
  if tcfgRows v = 0 then .ok () (s.upd fun k => { k.renewWords (.tile t) 0 16896 with tiles := k.tiles.set t Tile.reset })
  else need s (tcfgOk v) .tileConfig 0 <|
    .ok () (s.upd fun k => { k with tiles := k.tiles.set t { (k.tiles[t]) with cfg := masked v 0 20 } })

/-- MQ_BASE (R161): the queue must be empty, its area inside the scratchpad, in declared polders and in
no differentiable region (R244). -/
def writeMqBase (s : State) (v : Word) : SlotRes Unit :=
  let k := s.pre
  let base := 64 * bitsOf v.toNat 6 15
  let len := 64 * k.hdr.mqMax
  need s (k.mqTail = k.mqHead) .csrAccess 0 <|
  need s (base + len ≤ spadSize) .csrAccess 0 <|
  match badPolder k.hdr base len with
  | some x => raise s .polderUndeclared (spadInfo x)
  | none =>
    if (regionAt k.hdr false base len).isSome then raise s .diffKind (spadInfo base)
    else .ok () (s.upd fun k => { k with mqBase := masked v 6 15 ||| masked v 63 1 })

/-- TRAP_VEC (R247, R413): SOFF in S, or in U while it reads 0; both fields in H. -/
def writeTrapVec (s : State) (v : Word) : SlotRes Unit :=
  let k := s.pre
  match k.level with
  | .h => .ok () (s.upd fun k => { k with trapVec := masked v 0 62 })
  | .s => .ok () (s.upd fun k => { k with trapVec := masked k.trapVec 24 38 ||| masked v 0 24 })
  | .u => need s (k.soff = 0) .csrAccess 0 <|
    .ok () (s.upd fun k => { k with trapVec := masked k.trapVec 24 38 ||| masked v 0 24 })

/-- Write a trap register of the level in force (R251). -/
def writeTrapReg (s : State) (f : TrapRegs → TrapRegs) : SlotRes Unit :=
  match s.pre.level with
  | .u => raise s .csrAccess 0
  | .s => .ok () (s.upd fun k => { k with trapS := f k.trapS })
  | .h => .ok () (s.upd fun k => { k with trapH := f k.trapH })

/-- A CSR write (R300). -/
def csrWrite (s : State) (n : Nat) (v : Word) : SlotRes Unit :=
  let k := s.pre
  let set (f : Core → Core) : SlotRes Unit := .ok () (s.upd f)
  match n with
  | 0x029 => need s (bitsOf v.toNat 0 3 < 5) .csrAccess 0 (set fun k => { k with frm := masked v 0 3 })
  | 0x02A => set fun k => { k with srseed := v }
  | 0x02B => set fun k => { k with shadowchk := masked v 0 1 }
  | 0x030 => set fun k => { k with dmode := if v.getLsbD 1 then k.dmode &&& ~~~2 else k.dmode }
  | 0x031 => need s (k.level ≠ .u) .csrAccess 0 (set fun k => { k with reelBase := masked v 6 42 })
  | 0x032 => need s (k.level ≠ .u) .csrAccess 0 (set fun k => { k with reelLimit := masked v 6 42 })
  | 0x033 => need s (k.level ≠ .u) .csrAccess 0 (set fun k => { k with reelPtr := masked v 4 44 })
  | 0x040 => need s (k.level ≠ .u) .csrAccess 0 (.ok () s)
  | 0x041 => writeTrapReg s fun r => { r with pc := masked v 2 38 }
  | 0x042 => writeTrapReg s fun r => { r with info := v }
  | 0x043 => writeTrapVec s v
  | 0x050 => writeMqBase s v
  | 0x060 => need s (k.level = .h) .csrAccess 0 (set fun k => { k with liveBase := masked v 0 32 })
  | 0x070 => need s (k.level = .h && bitsOf v.toNat 0 6 ≤ 32) .csrAccess 0
      (set fun k => { k with ssp := bitsOf v.toNat 0 6 })
  | _ =>
    if h : 0x020 ≤ n ∧ n < 0x028 then writeTcfg s ⟨n - 0x020, by omega⟩ v else .ok () s

def execCsrw (a : SSpec) (c : BitVec 12) (s : State) : Host.Outcome State Fault Refusal :=
  finish s ((readS s a 0).bind fun x s => csrWrite s c.toNat x)

/-! ### LNCH (R306) -/

/-- Launches that wait in a source of a partition, oldest first. -/
def waitingIn (s : State) (part : Nat) (p : LaunchSource → Bool) : List Launch :=
  s.launches.filter fun l => l.part = part && l.state = .queued && p l.source

def isLnch : LaunchSource → Bool
  | .lnch => true
  | _ => false

def isInbox : LaunchSource → Bool
  | .inbox => true
  | _ => false

/-- Quads that a partition owns. -/
def quadCount (s : State) (part : Nat) : Nat :=
  if h : part < 17 then (ownedQuads s.parts[part].quads).length else 0

/-- Why a launch record is refused (R67): PRIORITY, NO_HANDLE, QUADS, FIELD. -/
def recordReason (s : State) (part maxPrio : Nat) (r : List Byte) : Option Nat :=
  if maxPrio < fieldLE r 2 1 then some 0x02
  else if (kernelOf s part (fieldLE r 0 2)).isNone then some 0x03
  else if fieldLE r 3 1 = 0 ∨ quadCount s part < fieldLE r 3 1 then some 0x05
  else if 56 < fieldLE r 4 1 ∨ fieldLE r 5 3 ≠ 0 then some 0x06
  else none

/-- A launch made from a launch record (R67). -/
def launchOfRecord (s : State) (part : Nat) (src : LaunchSource) (r : List Byte) (after : List Nat) : Launch :=
  { id := s.nextId, part := part, hker := false, handle := fieldLE r 0 2,
    hdr := ((kernelOf s part (fieldLE r 0 2)).map (·.hdr)).getD KHeader.none,
    source := src, state := .queued, entered := false, base := fieldLE r 2 1, eff := fieldLE r 2 1,
    waited := 0, since := s.cycle, active := 0, nquads := fieldLE r 3 1, quads := [],
    args := (r.drop 8).take (fieldLE r 4 1), gang := 0, rank := 0, gsize := 1, members := [],
    cmd := none, first := none, charged := 0, swapped := false, voteAt := 0, haltAt := none, ended := 0, fault := none, after := after, copies := [], code := 0 }

def State.queueLaunch (s : State) (l : Launch) : State :=
  { s with nextId := s.nextId + 1, launches := s.launches ++ [l] }

def execLnch (a : SSpec) (w : WReg) (s : State) : Host.Outcome State Fault Refusal :=
  finish s ((readS s a 0).bind fun x s =>
    let part := s.pre.part
    need s (x.toNat % 64 = 0) .misaligned x <|
    need s (x.toNat + 64 ≤ s.pre.spillLimit) .spillRange 0 <|
    need s ((waitingIn s part isLnch).length < 16) .lnchFull 0 <|
    soundSpill s x.toNat 64 <|
    let r := readBlock s.pre x.toNat
    match recordReason s part 10 r with
    | some c => .ok () (s.result (BitVec.ofNat 64 c) 16 w)
    | none =>
      let after := (s.memq.filter fun o => o.core = s.issue.core && o.num ≠ 0 && o.result.isNone).map (·.id)
      .ok () ((s.queueLaunch (launchOfRecord s part .lnch r after)).result 0 16 w))

/-! ### DMODE (R237, R307) -/

/-- The waits of DMODE: differentiable accesses of the core and its engines, and a full fence at CORE
(R213, R237). -/
def diffDone (s : State) (c : Fin 256) : Bool := !pendDiff s c && !pendDiffCmd s c

def setMode (s : State) (rew : Bool) : SlotRes Unit :=
  let c := s.issue.core
  match (List.finRange 8).find? fun i => (s.pre.streams[i]).bound && (s.pre.streams[i]).diff with
  | some i =>
    let st := s.pre.streams[i]
    raise s .diffKind (spadInfo (blkAddr st.block st.add 0).toNat)
  | none =>
    if !(diffDone s c && fenceMet s c 3 1) then .hold .fence
    else
      let s := (s.applyCore c).upd Core.mergeAll
      .ok () (s.upd fun k => { k with dmode := k.dmode &&& 2 ||| (if rew then 1 else 0) })

def execDmodeFwd (s : State) : Host.Outcome State Fault Refusal := finish s (setMode s false)

def execDmodeRew (s : State) : Host.Outcome State Fault Refusal := finish s (setMode s true)

/-! ### ADJRD and ADJCLR (R308) -/

/-- Where an element and its cell lie. -/
inductive CellAt where
  | spad (r : DiffRegion) (off : Nat)
  | hbm (r : DiffRegion) (p : Phys)
  deriving DecidableEq, Repr

/-- Check the address of a primal element in the order of R308, then its cell. -/
def adjTarget (s : State) (sp clear : Bool) (a : Word) : Except (Cause × Word) CellAt :=
  let k := s.pre
  let n := a.toNat
  if sp then
    match badPolder k.hdr n 1 with
    | some x => .error (.polderUndeclared, spadInfo (x % 2 ^ 63))
    | none =>
      match regionAt k.hdr false n 1 with
      | none => .error (.diffUndeclared, spadInfo n)
      | some r =>
        if (n - r.base) % r.esize = 0 then .ok (.spad r n) else .error (.misaligned, spadInfo n)
  else
    let page : Except Cause Bool :=
      if k.level = .h then
        match hTarget s a 1 with
        | .ok _ => .ok false
        | .error c => .error c
      else match windowAt s k.part n with
        | some _ => .ok false
        | none => match translate s s.issue.core k.part k.level .read n with
          | .error c => .error c
          | .ok p => if p.host then .error .accessKind else .ok p.diff
    match page with
    | .error c => .error (c, a)
    | .ok diff =>
      if diff && (touchesAdjoint k.hdr n 1 || (decide (reelBase k ≤ n) && decide (n < reelLimit k))) then
        .error (.diffKind, a)
      else match regionAt k.hdr true n 1, diff with
        | some r, true =>
          if (n - r.base) % r.esize ≠ 0 then .error (.misaligned, a)
          else
            match translate s s.issue.core k.part k.level (if clear then .atomic else .read) (r.cell n) with
            | .error c => .error (c, BitVec.ofNat 64 (r.cell n))
            | .ok p =>
              if p.host then .error (.accessKind, BitVec.ofNat 64 (r.cell n))
              else if p.diff then .error (.diffKind, BitVec.ofNat 64 (r.cell n))
              else .ok (.hbm r p)
        | _, _ => .error (.diffUndeclared, a)

/-- Read a cell, and clear it for ADJCLR, once earlier differentiable accesses are performed. -/
def adjAccess (s : State) (sp clear : Bool) (a : Word) (w : WReg) : SlotRes Unit :=
  let c := s.issue.core
  match adjTarget s sp clear a with
  | .error (e, info) => raise s e info
  | .ok t =>
    if !diffDone s c then .hold .fence else
    match t with
    | .spad r off =>
      orHold (spadHold s (r.cell off) 4) <| soundSpad s (r.cell off) 4 <|
      let (v, m) := readClear s.cur.spad r (r.cell off)
      let s := if clear then s.upd fun k => { k with spad := m } else s
      .ok () (s.result (BitVec.ofNat 64 v) 4 w)
    | .hbm r p =>
      if !diffQuiet s c (homeDie s s.pre.part p.addr p.mtype) then .hold .fence else
      let q : Req := ⟨s.pre.tag, s.pre.part, some (s.pre.launch, c), .any⟩
      let use : LineUse := if clear then .atomic else .read
      if reqWaits s q p.addr (p.mtype ≠ 0) use then .hold .fence else
      match sideFault s q.tag p.addr (p.mtype ≠ 0) with
      | some e => raise s e (BitVec.ofNat 64 (r.cell a.toNat))
      | none =>
      let (v, s) := if clear then s.clearCell q r p else s.seeCell q r p
      .ok () (s.result (BitVec.ofNat 64 v) 4 w)

def execAdjrd (a : SSpec) (b : SOpnd) (w : WReg) (sp : Bool) (s : State) : Host.Outcome State Fault Refusal :=
  finish s ((readS s a 0).bind fun x s => (readSO s b 1).bind fun y s =>
    adjAccess s sp false (x + y) w)

def execAdjclr (a : SSpec) (b : SOpnd) (w : WReg) (sp : Bool) (s : State) : Host.Outcome State Fault Refusal :=
  finish s ((readS s a 0).bind fun x s => (readSO s b 1).bind fun y s =>
    adjAccess s sp true (x + y) w)

end Sys2Proof.Machine
end

