-- ==== Sys2Proof/Machine/Flags.lean ====
section
/-! DEFINITION. The FY8 has no flag register: what other machines keep in flags it computes as
conditions (R272). -/

namespace Sys2Proof.Machine

/-- The condition codes on 64-bit values (R272, R290). UN and ORD do not stand in CMP. -/
def condHolds (c : Cond) (a b : Word) : Bool :=
  match c with
  | .eq => a == b
  | .ne => a != b
  | .lt => a.slt b
  | .ge => b.sle a
  | .le => a.sle b
  | .gt => b.slt a
  | .zlt => a.ult b
  | .zge => b.ule a
  | .zle => a.ule b
  | .zgt => b.ult a
  | .un => false
  | .ord => false

/-- The condition codes on two values of a float type (R272): ordered conditions are false on NaN, and
-0 equals +0. -/
def condVal (c : Cond) (a b : Val) : Bool :=
  let o := Val.cmp a b
  match c with
  | .eq => o = some .eq
  | .ne => o ≠ some .eq
  | .lt => o = some .lt
  | .ge => o = some .gt || o = some .eq
  | .le => o = some .lt || o = some .eq
  | .gt => o = some .gt
  | .un => o.isNone
  | .ord => o.isSome
  | .zlt | .zge | .zle | .zgt => false

/-- The condition codes on two integers, signed or unsigned as their type reads them (R272). -/
def condInt (c : Cond) (a b : Int) : Bool :=
  match c with
  | .eq => a = b
  | .ne => a ≠ b
  | .lt | .zlt => a < b
  | .ge | .zge => b ≤ a
  | .le | .zle => a ≤ b
  | .gt | .zgt => b < a
  | .un => false
  | .ord => true

end Sys2Proof.Machine
end

