-- ==== Sys2Proof/Machine/Vector.lean ====
section
/-! DEFINITION. Vectors: elements, masks, operands and results of the V slots (R218, R219, R226, R227,
R313-R315), and the arithmetic, bitwise, compare and select instructions (R316-R322). -/

namespace Sys2Proof.Machine

/-! ### Elements (R218) -/

/-- Elements of a vector at a width. -/
def elemCount (w : Nat) : Nat := 2048 / w

/-- Code of element `n` at width `w`. -/
def elem (w : Nat) (v : Vec) (n : Nat) : Nat := bitsOf v.toNat (264 * (w * n / 256) + w * n % 256) w

/-- Scale byte of granule `g`. -/
def granScale (v : Vec) (g : Nat) : Nat := bitsOf v.toNat (264 * g + 256) 8

/-- Granule of element `n`. -/
def granOf (w n : Nat) : Nat := w * n / 256

/-- A little-endian number of digits of `w` bits. -/
def packDigits (w : Nat) : List Nat → Nat
  | [] => 0
  | d :: ds => d % 2 ^ w + 2 ^ w * packDigits w ds

/-- A vector from its element codes and its eight scale bytes. -/
def packVec (w : Nat) (es scales : List Nat) : Vec :=
  BitVec.ofNat 2112 (packDigits 264 ((List.range 8).map fun g =>
    packDigits w ((es.drop (256 / w * g)).take (256 / w)) + 2 ^ 256 * (scales.getD g 0x7F % 256)))

/-- A value in every element, as a broadcast or a literal forms it (R266, R270): scales 0x7F, 0 for
a32. -/
def bcastVec (t : Ty) (v : Nat) : Vec :=
  let w := Ty.width t
  packVec w (List.replicate (elemCount w) v) (List.replicate 8 (if t = .a32 then 0 else 0x7F))

/-! ### Masks (R150, R315) -/

/-- Element `n` is active when the bit of its lowest nibble is 1. -/
def activeAt (m : BitVec 512) (w n : Nat) : Bool := m.getLsbD (w * n / 4)

/-- Granule `g` has an active element. -/
def granActive (m : BitVec 512) (w g : Nat) : Bool :=
  (List.range (256 / w)).any fun j => activeAt m w (256 / w * g + j)

/-- Element results, or the cause of the first that raises one. -/
def collect {α : Type} : List (Except Cause α) → Except Cause (List α)
  | [] => .ok []
  | .error c :: _ => .error c
  | .ok a :: l => match collect l with
    | .ok as => .ok (a :: as)
    | .error c => .error c

/-- The elements of a result under the mask: an inactive one is code 0 and is not computed. -/
def maskedElems (m : BitVec 512) (w : Nat) (f : Nat → Except Cause Nat) : Except Cause (List Nat) :=
  collect ((List.range (elemCount w)).map fun n => if activeAt m w n then f n else .ok 0)

/-- The scale bytes of a result under the mask (R315). -/
def maskedScales (m : BitVec 512) (w : Nat) (f : Nat → Nat) : List Nat :=
  (List.range 8).map fun g => if granActive m w g then f g else 0x7F

/-- Whether results of a type carry a scale or a request of their own (R219). -/
def carriesScale (t : Ty) : Bool := Ty.isScaled t || t = .a32

/-- Scales of a result: the instruction's where the type carries one, else 0x7F. -/
def outScales (m : BitVec 512) (t : Ty) (f : Nat → Nat) : List Nat :=
  maskedScales m (Ty.width t) fun g => if carriesScale t then f g else 0x7F

/-! ### Operands -/

/-- Vector take `n`, as it is seen at the bundle's issue. -/
def Core.seeVTake (k : Core) (n : Fin 16) : Seen Vec :=
  (k.vtakes.getD n.val (Take.reset Vec 0)).see k.clk

/-- Pop a result queue (R149). -/
def popQueue (s : State) (q : Fin 2) (info : Word) : SlotRes Vec :=
  match (if q = 0 then s.cur.q0 else s.cur.q1) with
  | [] => raise s .queueEmpty info
  | v :: rest =>
    .ok v (s.upd fun k => if q = 0 then { k with q0 := rest } else { k with q1 := rest })

/-- A vector specifier read for elements of type `t` (R269, R270). -/
def readV (s : State) (sp : VSpec) (pos : Nat) (t : Ty) : SlotRes Vec :=
  let info := opndInfo sp.toBits.toNat pos
  match sp with
  | .take n => readSeen s 0 (s.pre.seeVTake n) info
  | .v n => readSeen s 0 ((s.pre.v[n]).see s.pre.clk) info
  | .stream i => popStream s i pos
  | .queue q => popQueue s q info
  | .bcast n =>
    (readSeen s 0 (s.pre.seeX s.pre.level n) info).bind fun x s => .ok (bcastVec t x.toNat) s

/-- Operand B, which a literal may replace (R266). -/
def readVO (s : State) (o : VOpnd) (t : Ty) : SlotRes Vec :=
  match o with
  | .spec sp => readV s sp 1 t
  | .lit v => .ok (bcastVec t v.toNat) s

/-! ### Rounding (R226, R227) -/

/-- SRBits of R227. -/
def srBits (seed : Word) (ofs : BitVec 32) (slot p i : Nat) : Nat :=
  let h : Word := seed ^^^ (ofs.setWidth 64 <<< 24) ^^^ BitVec.ofNat 64 (slot * 2 ^ 21) ^^^
    BitVec.ofNat 64 (p * 2 ^ 9) ^^^ BitVec.ofNat 64 i
  let z := h + 0x9E3779B97F4A7C15
  let z := (z ^^^ (z >>> 30)) * 0xBF58476D1CE4E5B9
  let z := (z ^^^ (z >>> 27)) * 0x94D049BB133111EB
  let z := z ^^^ (z >>> 31)
  (z >>> 32).toNat

/-- A rounding mode as an instruction names it, for element `i` of part `p` (R226). -/
def modeOf (rm : Rm) (frm : BitVec 64) (seed : Word) (ofs : BitVec 32) (slot p i : Nat) : RMode :=
  let sr := RMode.sr (srBits seed ofs slot p i)
  match rm with
  | .rne => .rne
  | .rtz => .rtz
  | .sr => sr
  | .dyn => match bitsOf frm.toNat 0 3 with
    | 0 => .rne | 1 => .rtz | 2 => sr | 3 => .rup | _ => .rdn

/-- The mode of a V-slot instruction for element `i`. -/
def vmode (s : State) (rm : Rm) (i : Nat) : RMode :=
  modeOf rm s.pre.frm s.pre.srseed s.issue.ofs (Slot.num s.issue.slot) 0 i

def pMode (s : State) (p : BitVec 2) (i : Nat) : RMode := vmode s (Rm.ofBits p) i

/-- Rounding towards -∞ decides the sign of an exact zero sum (R214). -/
def isRdn : RMode → Bool
  | .rdn => true
  | _ => false

/-! ### Values (R219, R222) -/

/-- The integer that an element of an integer type reads as, or INT_CODE. -/
def elemInt (t : Ty) (fmte : BitVec 64) (v : Vec) (n : Nat) : Except Cause Int :=
  match intCode t fmte.toNat (elem (Ty.width t) v n) with
  | some x => .ok x
  | none => .error .intCode

/-- The value of an element of any type, its granule's scale included. -/
def elemVal (t : Ty) (fmte : BitVec 64) (v : Vec) (n : Nat) : Except Cause Val :=
  if Ty.isFloat t then
    let x := (Ty.fmt t).decode (elem (Ty.width t) v n)
    .ok (if Ty.isScaled t then x.withScale (granScale v (granOf (Ty.width t) n)) else x)
  else match elemInt t fmte v n with
    | .ok x => .ok (Val.ofInt x 1 0 false)
    | .error c => .error c

/-! ### Results -/

/-- The outcome of a vector computation: a result claimed with latency `lat`, or its cause. -/
def vdone (s : State) (r : Except Cause Vec) (lat : Nat) : SlotRes Unit :=
  match r with
  | .ok v => .ok () (s.vresult v lat)
  | .error c => raise s c 0

/-- An element-wise result of type `t` under the mask of the bundle. -/
def vmap (s : State) (t : Ty) (f : Nat → Except Cause Nat) (scale : Nat → Nat) : Except Cause Vec :=
  match maskedElems s.pre.curMask (Ty.width t) f with
  | .ok es => .ok (packVec (Ty.width t) es (outScales s.pre.curMask t scale))
  | .error c => .error c

/-- An element-wise instruction of one operand. -/
def vun (s : State) (a : VSpec) (t : Ty) (lat : Nat) (f : Vec → Nat → Except Cause Nat) :
    Host.Outcome State Fault Refusal :=
  finish s ((readV s a 0 t).bind fun x s => vdone s (vmap s t (f x) (granScale x)) lat)

/-- An element-wise instruction of two operands; scales as A's. -/
def vbin (s : State) (a : VSpec) (b : VOpnd) (t : Ty) (lat : Nat) (f : Vec → Vec → Nat → Except Cause Nat) :
    Host.Outcome State Fault Refusal :=
  finish s ((readV s a 0 t).bind fun x s => (readVO s b t).bind fun y s =>
    vdone s (vmap s t (f x y) (granScale x)) lat)

/-- An element-wise instruction of three operands. -/
def vter (s : State) (a : VSpec) (b : VOpnd) (c : VSpec) (t : Ty) (lat : Nat)
    (f : Vec → Vec → Vec → Nat → Except Cause Nat) : Host.Outcome State Fault Refusal :=
  finish s ((readV s a 0 t).bind fun x s => (readVO s b t).bind fun y s => (readV s c 2 t).bind fun z s =>
    vdone s (vmap s t (f x y z) (granScale x)) lat)

/-! ### Floating-point elements (R316) -/

/-- Code of the value of element `n`, of a type of F. -/
def fcode (t : Ty) (v : Vec) (n : Nat) : Val := (Ty.fmt t).decode (elem (Ty.width t) v n)

/-- Round an element's exact value by P. -/
def froundP (s : State) (t : Ty) (p : BitVec 2) (n : Nat) (v : Val) : Except Cause Nat :=
  .ok ((Ty.fmt t).round (pMode s p n) v)

/-- A sum whose zero takes its sign from the mode. -/
def faddP (s : State) (p : BitVec 2) (n : Nat) (a b : Val) : Val := Val.add (isRdn (pMode s p n)) a b

/-! ### Integer elements (R317) -/

/-- The range that saturation of arithmetic keeps to: the type's, or ±127 for symmetric s8. -/
def satRange (t : Ty) (fmte : BitVec 64) : Int × Int := intRange t fmte.toNat

/-- Wrap or saturate an exact integer result (R317). -/
def intResult (s : State) (t : Ty) (p : BitVec 2) (x : Int) : Nat :=
  let (lo, hi) := satRange t s.pre.fmte
  intToCode (Ty.width t) (if p = 0 then x else max lo (min hi x))

/-- An integer operation on two elements. -/
def ibin (s : State) (t : Ty) (p : BitVec 2) (f : Int → Int → Int) (x y : Vec) (n : Nat) : Except Cause Nat :=
  match elemInt t s.pre.fmte x n, elemInt t s.pre.fmte y n with
  | .ok a, .ok b => .ok (intResult s t p (f a b))
  | .error c, _ => .error c
  | _, .error c => .error c

def iun (s : State) (t : Ty) (p : BitVec 2) (f : Int → Int) (x : Vec) (n : Nat) : Except Cause Nat :=
  match elemInt t s.pre.fmte x n with
  | .ok a => .ok (intResult s t p (f a))
  | .error c => .error c

/-- A signed type (R215). -/
def signedTy : Ty → Bool
  | .s8 | .s16 | .s32 => true
  | _ => false

/-! ### A32 sums (R127, R318) -/

/-- The anchor increase that would have held a sum (R127). -/
def sumRequest (x : Int) : Nat → Nat → Nat
  | 0, k => k
  | fuel + 1, k => if 2 ^ (31 + k) ≤ x.natAbs then sumRequest x fuel (k + 1) else k

/-- One lane of an A32 sum: saturated, with the request that it raises. -/
def a32Sum (x : Int) : Int × Nat :=
  if 2 ^ 31 - 1 < x.natAbs then (if x < 0 then -(2 ^ 31 - 1) else 2 ^ 31 - 1, sumRequest x 64 1)
  else (x, 0)

/-- VADD.a32 and VSUB.a32 (R318): the block's request is written into both of its granules. -/
def va32 (s : State) (sub : Bool) (x y : Vec) : Except Cause Vec :=
  let m := s.pre.curMask
  let lane (n : Nat) : Int × Nat :=
    let a := signed 32 (elem 32 x n)
    let b := signed 32 (elem 32 y n)
    a32Sum (if sub then a - b else a + b)
  let req (blk : Nat) : Nat :=
    let own := ((List.range 16).map fun j =>
      if activeAt m 32 (16 * blk + j) then (lane (16 * blk + j)).2 else 0).foldl Nat.max 0
    let ops := [granScale x (2 * blk), granScale x (2 * blk + 1), granScale y (2 * blk),
                granScale y (2 * blk + 1)].foldl Nat.max 0
    Nat.max own ops
  vmap s .a32 (fun n => .ok (intToCode 32 (lane n).1)) fun g => req (g / 2)

/-! ### VADD to VCPS -/

def execVadd (a : VSpec) (b : VOpnd) (t : Ty) (p : BitVec 2) (s : State) : Host.Outcome State Fault Refusal :=
  if t = .a32 then
    finish s ((readV s a 0 t).bind fun x s => (readVO s b t).bind fun y s => vdone s (va32 s false x y) 3)
  else vbin s a b t 3 fun x y n =>
    if Ty.isFloat t then froundP s t p n (faddP s p n (fcode t x n) (fcode t y n))
    else ibin s t p (· + ·) x y n

def execVsub (a : VSpec) (b : VOpnd) (t : Ty) (p : BitVec 2) (s : State) : Host.Outcome State Fault Refusal :=
  if t = .a32 then
    finish s ((readV s a 0 t).bind fun x s => (readVO s b t).bind fun y s => vdone s (va32 s true x y) 3)
  else vbin s a b t 3 fun x y n =>
    if Ty.isFloat t then froundP s t p n (faddP s p n (fcode t x n) (fcode t y n).neg)
    else ibin s t p (· - ·) x y n

def execVmul (a : VSpec) (b : VOpnd) (t : Ty) (p : BitVec 2) (s : State) : Host.Outcome State Fault Refusal :=
  vbin s a b t 4 fun x y n =>
    if Ty.isFloat t then froundP s t p n ((fcode t x n).mul (fcode t y n))
    else ibin s t p (· * ·) x y n

/-- a * b + c with one rounding; the signs of the product and of c as the instruction says. -/
def fma (s : State) (t : Ty) (p : BitVec 2) (np nc : Bool) (x y z : Vec) (n : Nat) : Except Cause Nat :=
  let ab := (fcode t x n).mul (fcode t y n)
  let c := fcode t z n
  froundP s t p n (faddP s p n (if np then ab.neg else ab) (if nc then c.neg else c))

def execVfma (a : VSpec) (b : VOpnd) (c : VSpec) (t : Ty) (p : BitVec 2) (s : State) :
    Host.Outcome State Fault Refusal := vter s a b c t 5 (fma s t p false false)

def execVfms (a : VSpec) (b : VOpnd) (c : VSpec) (t : Ty) (p : BitVec 2) (s : State) :
    Host.Outcome State Fault Refusal := vter s a b c t 5 (fma s t p false true)

def execVfnma (a : VSpec) (b : VOpnd) (c : VSpec) (t : Ty) (p : BitVec 2) (s : State) :
    Host.Outcome State Fault Refusal := vter s a b c t 5 (fma s t p true false)

def execVdiv (a : VSpec) (b : VOpnd) (t : Ty) (p : BitVec 2) (s : State) : Host.Outcome State Fault Refusal :=
  vbin s a b t 12 fun x y n => froundP s t p n ((fcode t x n).div (fcode t y n))

/-- √a (R316). -/
def vsqrtVal : Val → Val
  | .nan => .nan
  | .inf s => if s then .nan else .inf false
  | .fin s n d e => if n = 0 then .fin s 0 d e else if s then .nan else sqrtVal n e

/-- 1/√a (R316). -/
def vrsqVal : Val → Val
  | .nan => .nan
  | .inf s => if s then .nan else .fin false 0 1 0
  | .fin s n _ e => if n = 0 then .inf s else if s then .nan else rsqrtVal n e

/-- 2^a (R316). -/
def vexp2Val : Val → Val
  | .nan => .nan
  | .inf s => if s then .fin false 0 1 0 else .inf false
  | .fin s n _ e => exp2Val s n e

/-- log2 a (R316). -/
def vlog2Val : Val → Val
  | .nan => .nan
  | .inf s => if s then .nan else .inf false
  | .fin s n _ e => if n = 0 then .inf true else if s then .nan else log2Val n e

def execVsqrt (a : VSpec) (t : Ty) (p : BitVec 2) (s : State) : Host.Outcome State Fault Refusal :=
  vun s a t 12 fun x n => froundP s t p n (vsqrtVal (fcode t x n))

def execVrsq (a : VSpec) (t : Ty) (p : BitVec 2) (s : State) : Host.Outcome State Fault Refusal :=
  vun s a t 12 fun x n => froundP s t p n (vrsqVal (fcode t x n))

def execVrcp (a : VSpec) (t : Ty) (p : BitVec 2) (s : State) : Host.Outcome State Fault Refusal :=
  vun s a t 12 fun x n => froundP s t p n ((Val.fin false 1 1 0).div (fcode t x n))

def execVexp2 (a : VSpec) (t : Ty) (p : BitVec 2) (s : State) : Host.Outcome State Fault Refusal :=
  vun s a t 8 fun x n => froundP s t p n (vexp2Val (fcode t x n))

def execVlog2 (a : VSpec) (t : Ty) (p : BitVec 2) (s : State) : Host.Outcome State Fault Refusal :=
  vun s a t 8 fun x n => froundP s t p n (vlog2Val (fcode t x n))

/-- Total order of values other than NaN: -0 below +0 (R316, R232). -/
def valLess (a b : Val) : Bool :=
  match Val.cmp a b with
  | some .lt => true
  | some .eq => a.sign && !b.sign
  | _ => false

/-- The smaller or larger of two codes of a float type; NaN gives the canonical NaN. -/
def fminmax (big : Bool) (t : Ty) (x y : Vec) (n : Nat) : Nat :=
  let a := fcode t x n
  let b := fcode t y n
  if a.isNan || b.isNan then (Ty.fmt t).nan
  else if valLess a b = big then elem (Ty.width t) y n else elem (Ty.width t) x n

def execVmin (a : VSpec) (b : VOpnd) (t : Ty) (s : State) : Host.Outcome State Fault Refusal :=
  vbin s a b t 3 fun x y n =>
    if Ty.isFloat t then .ok (fminmax false t x y n) else ibin s t 0 min x y n

def execVmax (a : VSpec) (b : VOpnd) (t : Ty) (s : State) : Host.Outcome State Fault Refusal :=
  vbin s a b t 3 fun x y n =>
    if Ty.isFloat t then .ok (fminmax true t x y n) else ibin s t 0 max x y n

/-- A code with its sign bit set as wanted; NaN gives the canonical NaN. -/
def withSign (t : Ty) (x : Vec) (n : Nat) (sign : Bool → Bool) : Nat :=
  let c := elem (Ty.width t) x n
  let top := 2 ^ (Ty.width t - 1)
  if (fcode t x n).isNan then (Ty.fmt t).nan
  else c % top + if sign (decide (top ≤ c)) then top else 0

def execVabs (a : VSpec) (t : Ty) (p : BitVec 2) (s : State) : Host.Outcome State Fault Refusal :=
  vun s a t 3 fun x n =>
    if Ty.isFloat t then .ok (withSign t x n fun _ => false)
    else iun s t p (fun v => (v.natAbs : Int)) x n

def execVneg (a : VSpec) (t : Ty) (p : BitVec 2) (s : State) : Host.Outcome State Fault Refusal :=
  vun s a t 3 fun x n =>
    if Ty.isFloat t then .ok (withSign t x n not) else iun s t p (fun v => -v) x n

def execVcps (a : VSpec) (b : VOpnd) (t : Ty) (s : State) : Host.Outcome State Fault Refusal :=
  vbin s a b t 3 fun x y n =>
    if (fcode t y n).isNan then .ok (Ty.fmt t).nan
    else .ok (withSign t x n fun _ => decide (2 ^ (Ty.width t - 1) ≤ elem (Ty.width t) y n))

/-! ### Bitwise, shifts, VMULH (R317, R319) -/

/-- A bitwise operation on the codes. -/
def vbits (a : VSpec) (b : VOpnd) (t : Ty) (f : Nat → Nat → Nat) (s : State) :
    Host.Outcome State Fault Refusal :=
  vbin s a b t 2 fun x y n => .ok (f (elem (Ty.width t) x n) (elem (Ty.width t) y n))

def execVand (a : VSpec) (b : VOpnd) (t : Ty) (s : State) : Host.Outcome State Fault Refusal :=
  vbits a b t (· &&& ·) s

def execVor (a : VSpec) (b : VOpnd) (t : Ty) (s : State) : Host.Outcome State Fault Refusal :=
  vbits a b t (· ||| ·) s

def execVxor (a : VSpec) (b : VOpnd) (t : Ty) (s : State) : Host.Outcome State Fault Refusal :=
  vbits a b t (· ^^^ ·) s

def execVnot (a : VSpec) (t : Ty) (s : State) : Host.Outcome State Fault Refusal :=
  vun s a t 2 fun x n => .ok (2 ^ Ty.width t - 1 - elem (Ty.width t) x n)

/-- A shift of codes as bits; the count is b's element modulo the width. -/
def vshift (a : VSpec) (b : VOpnd) (t : Ty) (f : Nat → Nat → Nat) (s : State) :
    Host.Outcome State Fault Refusal :=
  vbin s a b t 3 fun x y n =>
    .ok (f (elem (Ty.width t) x n) (elem (Ty.width t) y n % Ty.width t) % 2 ^ Ty.width t)

def execVshl (a : VSpec) (b : VOpnd) (t : Ty) (s : State) : Host.Outcome State Fault Refusal :=
  vshift a b t (fun x n => x * 2 ^ n) s

def execVshr (a : VSpec) (b : VOpnd) (t : Ty) (s : State) : Host.Outcome State Fault Refusal :=
  vshift a b t (fun x n => x / 2 ^ n) s

def execVsra (a : VSpec) (b : VOpnd) (t : Ty) (s : State) : Host.Outcome State Fault Refusal :=
  vshift a b t (fun x n =>
    if signedTy t then intToCode (Ty.width t) (signed (Ty.width t) x / (2 ^ n : Nat)) else x / 2 ^ n) s

def execVmulh (a : VSpec) (b : VOpnd) (t : Ty) (s : State) : Host.Outcome State Fault Refusal :=
  vbin s a b t 4 fun x y n => ibin s t 0 (fun u v => u * v / (2 ^ Ty.width t : Nat)) x y n

/-! ### Compare, select, class (R320-R322) -/

def execVcmp (a : VSpec) (b : VOpnd) (c : Cond) (t : Ty) (s : State) : Host.Outcome State Fault Refusal :=
  finish s ((readV s a 0 t).bind fun x s => (readVO s b t).bind fun y s =>
    let ones := 2 ^ Ty.width t - 1
    let f (n : Nat) : Except Cause Nat :=
      if Ty.isFloat t then
        match elemVal t s.pre.fmte x n, elemVal t s.pre.fmte y n with
        | .ok u, .ok v => .ok (if condVal c u v then ones else 0)
        | .error e, _ => .error e
        | _, .error e => .error e
      else
        match elemInt t s.pre.fmte x n, elemInt t s.pre.fmte y n with
        | .ok u, .ok v => .ok (if condInt c u v then ones else 0)
        | .error e, _ => .error e
        | _, .error e => .error e
    vdone s (vmap s t f fun _ => 0x7F) 2)

def execVsel (a : VSpec) (b : VOpnd) (c : VSpec) (t : Ty) (s : State) : Host.Outcome State Fault Refusal :=
  finish s ((readV s a 0 t).bind fun x s => (readVO s b t).bind fun y s => (readV s c 2 t).bind fun z s =>
    let w := Ty.width t
    vdone s (vmap s t (fun n => .ok (if elem w z n ≠ 0 then elem w x n else elem w y n))
      fun g => if elem w z (256 / w * g) ≠ 0 then granScale x g else granScale y g) 2)

/-- Class of a code (R322). -/
def classOf (f : Fmt) (c : Nat) : Nat :=
  let neg := c.testBit (f.ebits + f.mbits)
  match f.decode c with
  | .nan => 8
  | .inf s => if s then 0 else 7
  | .fin _ n _ _ =>
    if n = 0 then if neg then 3 else 4
    else if bitsOf c f.mbits f.ebits = 0 then if neg then 2 else 5
    else if neg then 1 else 6

def execVclass (a : VSpec) (t : Ty) (s : State) : Host.Outcome State Fault Refusal :=
  finish s ((readV s a 0 t).bind fun x s =>
    let w := Ty.width t
    vdone s (vmap s t (fun n =>
      if Ty.isScaled t && granScale x (granOf w n) = 0xFF then .ok 8
      else .ok (classOf (Ty.fmt t) (elem w x n))) fun _ => 0x7F) 2)

end Sys2Proof.Machine
end

