-- ==== Sys2Proof/Machine/VectorConv.lean ====
section
/-! DEFINITION. Vector conversions, movement, stream writes, reductions and the mask instructions
(R323-R333). -/

namespace Sys2Proof.Machine

/-! ### Conversions (R323-R327) -/

/-- One conversion's code, or its cause; a NaN into E2M1 is told apart (R228). -/
inductive ConvOut where
  | code (c : Nat)
  | nanScale
  deriving DecidableEq, Repr

def ConvOut.get : ConvOut → Nat
  | .code c => c
  | .nanScale => 0

def convOut : Conv → Except Cause ConvOut
  | .code c => .ok (.code c)
  | .nanScale => .ok .nanScale
  | .overflow => .error .cvtOverflow

/-- Convert values into the elements of a type (R228-R230): `x n` is the value of element `n`, absent
where none is converted. A scaled type chooses each granule's scale over its own active converted
elements. -/
def convertElems (s : State) (t : Ty) (pol : Pol) (mode : Nat → RMode) (x : Nat → Option (Except Cause Val)) :
    Except Cause Vec :=
  let w := Ty.width t
  let m := s.pre.curMask
  let vals := collect ((List.range (elemCount w)).map fun n =>
    if activeAt m w n then
      match x n with
      | some (.ok v) => .ok (some v)
      | some (.error c) => .error c
      | none => .ok none
    else .ok none)
  match vals with
  | .error c => .error c
  | .ok vs =>
    let per := 256 / w
    let exps := (List.range 8).map fun g =>
      mxExponent (Ty.emax t) (((vs.drop (per * g)).take per).filterMap id)
    let conv (n : Nat) (v : Val) : Except Cause ConvOut :=
      if Ty.isScaled t then
        convOut ((Ty.fmt t).convert (mode n) pol (v.scale (-(exps.getD (n / per) 0))))
      else if Ty.isFloat t then convOut ((Ty.fmt t).convert (mode n) pol v)
      else convOut (convertInt t s.pre.fmte.toNat (mode n) pol v)
    match collect ((vs.zip (List.range vs.length)).map fun (v, n) =>
        match v with
        | some v => conv n v
        | none => .ok (.code 0)) with
    | .error c => .error c
    | .ok es =>
      let scale (g : Nat) : Nat :=
        let seg := (es.drop (per * g)).take per
        if ((vs.drop (per * g)).take per).all (·.isNone) then 0x7F
        else if seg.any (fun e => match e with
          | .nanScale => true
          | _ => false) then 0xFF
        else (exps.getD g 0 + 127).toNat
      .ok (packVec w (es.map (·.get))
        ((List.range 8).map fun g => if Ty.isScaled t then scale g else 0x7F))

def execVcvt (a : VSpec) (td : Ty) (pol : Pol) (m : Rm) (ts : Ty) (s : State) :
    Host.Outcome State Fault Refusal :=
  finish s ((readV s a 0 ts).bind fun x s =>
    let count := min (elemCount (Ty.width ts)) (elemCount (Ty.width td))
    vdone s (convertElems s td pol (vmode s m) fun n =>
      if n < count then some (elemVal ts s.pre.fmte x n) else none) 3)

/-- Granules moved whole, masked nibble by nibble (R315, R324): `src g` is the source of granule `g`. -/
def moveGranules (s : State) (src : Nat → Option (Vec × Nat)) : Vec :=
  let m := s.pre.curMask
  let es := (List.range 512).map fun n =>
    if activeAt m 4 n then
      match src (n / 64) with
      | some (v, g) => elem 4 v (64 * g + n % 64)
      | none => 0
    else 0
  packVec 4 es (maskedScales m 4 fun g => match src g with
    | some (v, h) => granScale v h
    | none => 0x7F)

def execVpack (a : VSpec) (b : VOpnd) (g : Fin 8) (s : State) : Host.Outcome State Fault Refusal :=
  finish s ((readV s a 0 .f32).bind fun x s => (readVO s b .f32).bind fun y s =>
    .ok () (s.vresult (moveGranules s fun i =>
      if i < g.val then some (x, i) else some (y, i - g.val)) 3))

def execVunpk (a : VSpec) (g : Fin 8) (s : State) : Host.Outcome State Fault Refusal :=
  finish s ((readV s a 0 .f32).bind fun x s =>
    .ok () (s.vresult (moveGranules s fun i =>
      if i < 8 - g.val then some (x, i + g.val) else none) 3))

/-- VSCL: the values under both scales, re-scaled by the MX rule (R325). -/
def execVscl (a : VSpec) (b : VOpnd) (t : Ty) (p : BitVec 2) (s : State) : Host.Outcome State Fault Refusal :=
  finish s ((readV s a 0 t).bind fun x s => (readVO s b .z8).bind fun y s =>
    vdone s (convertElems s t .sat (pMode s p) fun n =>
      match elemVal t s.pre.fmte x n with
      | .ok v => some (.ok (v.withScale (elem 8 y (n / 32))))
      | .error c => some (.error c)) 3)

/-- Element k of the anchors operand, for the block of element `n` (R326). -/
def anchorOf (b : Vec) (n : Nat) : Int := signed 32 (elem 32 b (n / 16))

def execVanc (a : VSpec) (b : VOpnd) (t : Ty) (p : BitVec 2) (s : State) : Host.Outcome State Fault Refusal :=
  finish s ((readV s a 0 t).bind fun x s => (readVO s b .s32).bind fun y s =>
    let m := s.pre.curMask
    let conv (n : Nat) := toA32In (pMode s p n) (fcode t x n) (anchorOf y n)
    let req (blk : Nat) : Nat := ((List.range 16).map fun j =>
      if activeAt m 32 (16 * blk + j) then (conv (16 * blk + j)).2 else 0).foldl Nat.max 0
    vdone s (vmap s .a32 (fun n => .ok (intToCode 32 (conv n).1)) fun g => req (g / 2)) 3)

def execVdanc (a : VSpec) (b : VOpnd) (t : Ty) (p : BitVec 2) (s : State) : Host.Outcome State Fault Refusal :=
  finish s ((readV s a 0 .a32).bind fun x s => (readVO s b .s32).bind fun y s =>
    vdone s (vmap s t (fun n =>
      if n < 64 then .ok ((Ty.fmt t).round (pMode s p n) (a32Val (signed 32 (elem 32 x n)) (anchorOf y n)))
      else .ok 0) fun _ => 0x7F) 3)

/-- VQDEC (R327). -/
def execVqdec (a : VSpec) (b : VOpnd) (c : VSpec) (t : Ty) (p : BitVec 2) (s : State) :
    Host.Outcome State Fault Refusal :=
  finish s ((readV s a 0 .i4).bind fun x s => (readVO s b .z8).bind fun y s =>
    (readV s c 2 .f32).bind fun z s =>
    let scale := fp32.decode (elem 32 z 0)
    vdone s (convertElems s t .sat (pMode s p) fun n =>
      let code := elem 4 x n
      if code = 8 then
        if bitsOf s.pre.fmte.toNat 5 2 = 3 then some (.error .intCode)
        else some (.ok (.fin false 0 1 0))
      else some (.ok (q16Val code (elem 8 y (n / 64)) scale))) 3)

/-! ### Movement (R328, R329) -/

/-- Element codes moved: `src n` supplies element `n`; a granule takes the scale of the granule that
supplies its element 0. -/
def vmove (s : State) (t : Ty) (src : Nat → Vec × Nat) : Except Cause Vec :=
  let w := Ty.width t
  vmap s t (fun n => .ok (elem w (src n).1 (src n).2)) fun g =>
    let e := src (256 / w * g)
    granScale e.1 (granOf w e.2)

def execVbcst (a : VSpec) (t : Ty) (s : State) : Host.Outcome State Fault Refusal :=
  finish s ((readV s a 0 t).bind fun x s => vdone s (vmove s t fun _ => (x, 0)) 2)

def execViota (a : VSpec) (t : Ty) (s : State) : Host.Outcome State Fault Refusal :=
  vun s a t 2 fun x n => .ok ((elem (Ty.width t) x 0 + n) % 2 ^ Ty.width t)

def execVperm (a : VSpec) (b : VOpnd) (t : Ty) (s : State) : Host.Outcome State Fault Refusal :=
  finish s ((readV s a 0 t).bind fun x s => (readVO s b t).bind fun y s =>
    let w := Ty.width t
    vdone s (vmove s t fun n => (x, elem w y n % elemCount w)) 4)

def execVext (a : VSpec) (b : VOpnd) (t : Ty) (s : State) : Host.Outcome State Fault Refusal :=
  finish s ((readV s a 0 t).bind fun x s => (readVO s b t).bind fun y s =>
    let w := Ty.width t
    vdone s (vmove s t fun _ => (x, elem w y 0 % elemCount w)) 4)

def execVslide (a : VSpec) (b : VOpnd) (c : VSpec) (t : Ty) (s : State) : Host.Outcome State Fault Refusal :=
  finish s ((readV s a 0 t).bind fun x s => (readVO s b t).bind fun y s => (readV s c 2 t).bind fun z s =>
    let e := elemCount (Ty.width t)
    let k := min (elem 32 z 0) e
    vdone s (vmove s t fun n => if n < e - k then (x, n + k) else (y, n - (e - k))) 4)

def execVzip (a : VSpec) (b : VOpnd) (t : Ty) (hi : Bool) (s : State) : Host.Outcome State Fault Refusal :=
  finish s ((readV s a 0 t).bind fun x s => (readVO s b t).bind fun y s =>
    let h := if hi then elemCount (Ty.width t) / 2 else 0
    vdone s (vmove s t fun n => if n % 2 = 0 then (x, n / 2 + h) else (y, n / 2 + h)) 4)

def execVunzip (a : VSpec) (b : VOpnd) (t : Ty) (hi : Bool) (s : State) : Host.Outcome State Fault Refusal :=
  finish s ((readV s a 0 t).bind fun x s => (readVO s b t).bind fun y s =>
    let e := elemCount (Ty.width t)
    let p := if hi then 1 else 0
    vdone s (vmove s t fun n => if n < e / 2 then (x, 2 * n + p) else (y, 2 * (n - e / 2) + p)) 4)

/-- VMOV writes vN and its take (R329). -/
def execVmov (a : VSpec) (n : Fin 16) (t : Ty) (s : State) : Host.Outcome State Fault Refusal :=
  finish s ((readV s a 0 t).bind fun x s =>
    match vmove s t fun i => (x, i) with
    | .error c => raise s c 0
    | .ok v =>
      let s := s.upd fun k =>
        { k with v := k.v.set n ((k.v[n]).write k.clk ⟨v, k.clk, k.clk + 2, none⟩) }
      .ok () (s.vresult v 2))

/-! ### Stream writes (R330) -/

/-- The nibbles and granules that a push stores, by the elements active under the mask. -/
def pushMask (m : BitVec 512) (w : Nat) : BitVec 512 × BitVec 8 :=
  let nib := packDigits 1 ((List.range 512).map fun i => if activeAt m w (4 * i / w) then 1 else 0)
  let gran := packDigits 1 ((List.range 8).map fun g => if granActive m w g then 1 else 0)
  (BitVec.ofNat 512 nib, BitVec.ofNat 8 gran)

def execVsw (a : VSpec) (n : Fin 8) (t : Ty) (s : State) : Host.Outcome State Fault Refusal :=
  finish s ((readV s a 0 t).bind fun x s =>
    let (nib, gran) := pushMask s.pre.curMask (Ty.width t)
    pushStream s n ⟨x, nib, gran, 0⟩)

/-! ### Reductions (R332) -/

/-- The type of a reduction's result. -/
def reduceTy (t : Ty) : Ty :=
  match t with
  | .f32 | .bf16 | .f16 => t
  | .s8 | .s16 | .s32 => .s32
  | .z8 | .z16 | .z32 => .z32
  | _ => .f32

/-- One code in every element of a reduction's result, unmasked, scales 0x7F. -/
def reduceVec (t : Ty) (c : Nat) : Vec :=
  let w := Ty.width (reduceTy t)
  packVec w (List.replicate (elemCount w) c) (List.replicate 8 0x7F)

/-- The values of the active elements. -/
def activeVals (s : State) (t : Ty) (x : Vec) : Except Cause (List Val) :=
  collect (((List.range (elemCount (Ty.width t))).filter fun n => activeAt s.pre.curMask (Ty.width t) n).map
    fun n => elemVal t s.pre.fmte x n)

def activeInts (s : State) (t : Ty) (x : Vec) : Except Cause (List Int) :=
  collect (((List.range (elemCount (Ty.width t))).filter fun n => activeAt s.pre.curMask (Ty.width t) n).map
    fun n => elemInt t s.pre.fmte x n)

/-- The exact sum of terms, NaN and infinities as R231 gives; the mode decides the sign of an exact zero. -/
def sumVals (rdn : Bool) : List Val → Val
  | [] => .fin false 0 1 0
  | v :: vs => vs.foldl (Val.add rdn) v

/-- The one rounding of a sum, in the result type. -/
def roundSum (s : State) (t : Ty) (p : BitVec 2) (i : Nat) (vs : List Val) : Nat :=
  let mode := pMode s p i
  (Ty.fmt (reduceTy t)).round mode (sumVals (isRdn mode) vs)

/-- Saturate an exact integer sum to the result type's range. -/
def satSum (t : Ty) (x : Int) : Nat :=
  let (lo, hi) := intRange (reduceTy t) 0
  intToCode 32 (max lo (min hi x))

def isIntTy (t : Ty) : Bool := !Ty.isFloat t

/-- A sum reduction over values and over integers. -/
def reduceSum (s : State) (t : Ty) (p : BitVec 2) (vals : Except Cause (List Val))
    (ints : Except Cause (List Int)) : Except Cause Vec :=
  if isIntTy t then
    match ints with
    | .ok l => .ok (reduceVec t (satSum t (l.foldl (· + ·) 0)))
    | .error c => .error c
  else
    match vals with
    | .ok l => .ok (reduceVec t (roundSum s t p 0 l))
    | .error c => .error c

def execVrsum (a : VSpec) (t : Ty) (p : BitVec 2) (s : State) : Host.Outcome State Fault Refusal :=
  finish s ((readV s a 0 t).bind fun x s =>
    vdone s (reduceSum s t p (activeVals s t x) (activeInts s t x)) 6)

/-- Pairwise products of two lists. -/
def products {α : Type} (f : α → α → α) (a b : Except Cause (List α)) : Except Cause (List α) :=
  match a, b with
  | .ok l, .ok m => .ok (List.zipWith f l m)
  | .error c, _ => .error c
  | _, .error c => .error c

def execVdot (a : VSpec) (b : VOpnd) (t : Ty) (p : BitVec 2) (s : State) : Host.Outcome State Fault Refusal :=
  finish s ((readV s a 0 t).bind fun x s => (readVO s b t).bind fun y s =>
    vdone s (reduceSum s t p (products Val.mul (activeVals s t x) (activeVals s t y))
      (products (· * ·) (activeInts s t x) (activeInts s t y))) 6)

/-- The largest or smallest of values: NaN if any is; -0 below +0; NaN for none (R332). -/
def extremeVal (big : Bool) : List Val → Val
  | [] => .nan
  | v :: vs => vs.foldl (fun m x =>
      if m.isNan || x.isNan then .nan else if valLess m x = big then x else m) v

def extremeInt (big : Bool) (t : Ty) (l : List Int) : Int :=
  let (lo, hi) := intRange (reduceTy t) 0
  l.foldl (fun m x => if big then max m x else min m x) (if big then lo else hi)

def reduceExtreme (s : State) (big : Bool) (t : Ty) (x : Vec) : Except Cause Vec :=
  if isIntTy t then
    match activeInts s t x with
    | .ok l => .ok (reduceVec t (intToCode 32 (extremeInt big t l)))
    | .error c => .error c
  else
    match activeVals s t x with
    | .ok l => .ok (reduceVec t ((Ty.fmt (reduceTy t)).round .rne (extremeVal big l)))
    | .error c => .error c

def execVrmax (a : VSpec) (t : Ty) (s : State) : Host.Outcome State Fault Refusal :=
  finish s ((readV s a 0 t).bind fun x s => vdone s (reduceExtreme s true t x) 6)

def execVrmin (a : VSpec) (t : Ty) (s : State) : Host.Outcome State Fault Refusal :=
  finish s ((readV s a 0 t).bind fun x s => vdone s (reduceExtreme s false t x) 6)

/-- VSCAN: exact prefix sums over active elements, each rounded once (R232, R332). -/
def execVscan (a : VSpec) (t : Ty) (p : BitVec 2) (s : State) : Host.Outcome State Fault Refusal :=
  finish s ((readV s a 0 t).bind fun x s =>
    let m := s.pre.curMask
    let upTo (n : Nat) := (List.range (n + 1)).filter fun i => activeAt m (Ty.width t) i
    vdone s (vmap s t (fun n =>
      if isIntTy t then
        match collect ((upTo n).map fun i => elemInt t s.pre.fmte x i) with
        | .ok l => .ok (satSum t (l.foldl (· + ·) 0))
        | .error c => .error c
      else .ok (roundSum s t p n ((upTo n).map fun i => fcode t x i))) fun _ => 0x7F) 6)

/-! ### Mask stack (R333) -/

/-- The mask derived from a vector: all nibbles of an element are 1 when its code has any bit set. -/
def derivedMask (t : Ty) (x : Vec) : BitVec 512 :=
  let w := Ty.width t
  BitVec.ofNat 512 (packDigits 1 ((List.range 512).map fun i => if elem w x (4 * i / w) ≠ 0 then 1 else 0))

def execMpush (a : VSpec) (t : Ty) (s : State) : Host.Outcome State Fault Refusal :=
  finish s ((readV s a 0 t).bind fun x s =>
    need s (s.cur.mask.length < 16) .maskOverflow 0
      (.ok () (s.upd fun k => { k with mask := (k.curMask &&& derivedMask t x) :: k.mask })))

def execMset (a : VSpec) (t : Ty) (s : State) : Host.Outcome State Fault Refusal :=
  finish s ((readV s a 0 t).bind fun x s =>
    match s.cur.mask with
    | [] => raise s .maskUnderflow 0
    | _ :: rest => .ok () (s.upd fun k => { k with mask := derivedMask t x :: rest }))

def execMinv (s : State) : Host.Outcome State Fault Refusal :=
  finish s (match s.cur.mask with
    | [] => raise s .maskUnderflow 0
    | top :: rest =>
      .ok () (s.upd fun k =>
        { k with mask := (rest.headD (BitVec.allOnes 512) &&& ~~~top) :: rest }))

def execMpop (s : State) : Host.Outcome State Fault Refusal :=
  finish s (match s.cur.mask with
    | [] => raise s .maskUnderflow 0
    | _ :: rest => .ok () (s.upd fun k => { k with mask := rest }))

end Sys2Proof.Machine
end

