-- ==== Sys2Proof/Machine/Matrix.lean ====
section
/-! DEFINITION. The matrix engine: operations at issue, their progress by engine cycle, and their
effects (R148, R231, R334-R349). -/

namespace Sys2Proof.Machine

/-! ### Tiles as operands (R337) -/

/-- Element k of row i of a tile of width `w`. -/
def tileElem (t : Tile) (w i k : Nat) : Nat :=
  let bit := 8 * (i * tcfgRbytes t.cfg) + w * k
  let b := (Mem.read t.bytes (bit / 8)).toNat
  if w < 8 then bitsOf b (bit % 8) w else Mem.readLE t.bytes (bit / 8) (w / 8)

/-- The scale byte of k-group G of row i. -/
def tileScale (t : Tile) (i g : Nat) : Nat :=
  (Mem.read t.bytes (16384 + (i * tcfgRbytes t.cfg + 32 * g) / 32)).toNat

/-- The type of a configured tile. -/
def Tile.ty (t : Tile) : Ty := (tileType (tcfgType t.cfg)).getD .f32

def Tile.released (t : Tile) : Bool := tcfgRows t.cfg = 0

/-- Elements of a k-group at a width (R231). -/
def groupLen (w : Nat) : Nat := 256 / w

/-- The allowed pairs of tile types (R337). -/
def pairOk (a b : Ty) : Bool :=
  let f8 (t : Ty) := t = .e4m3 || t = .e5m2
  let f16 (t : Ty) := t = .bf16 || t = .f16
  let i8 (t : Ty) := t = .s8 || t = .z8
  (f8 a && f8 b) || (f16 a && f16 b) || (i8 a && i8 b) ||
    (a = b && (a = .e2m1 || a = .f32 || a = .i4))

/-- The value of an element under the captured FMTE; none is a reserved code under TRAP (R222). -/
def tileVal (t : Tile) (fmte : BitVec 7) (i k : Nat) : Option Val :=
  let w := Ty.width t.ty
  let c := tileElem t w i k
  if Ty.isFloat t.ty then some ((Ty.fmt t.ty).decode c)
  else (intCode t.ty fmte.toNat c).map fun x => Val.ofInt x 1 0 false

def tileScaleVal (t : Tile) (v : Val) (i g : Nat) : Val :=
  if Ty.isScaled t.ty then v.withScale (tileScale t i g) else v

/-! ### Accumulators -/

def accGet (a : Acc) (i j : Nat) : BitVec 32 := SMap.get 0 a (64 * i + j)

/-- Accumulate of R339: an exact zero term keeps the accumulator's bits. -/
def accumulate (c : BitVec 32) (v : Val) : BitVec 32 :=
  if v.isZero then c
  else BitVec.ofNat 32 (fp32.round .rne (Val.add false (fp32.decode c.toNat) v))

/-- An accumulator with every element given, row by row. -/
def accOf (f : Nat → Nat → BitVec 32) : Acc :=
  (List.range 8192).filterMap fun n =>
    let v := f (n / 64) (n % 64)
    if v = 0 then none else some (n, v)

/-- The MOP-family operations: accumulator, tiles, k count, and whether products are grouped, negated
and added to zero (R335, R339). -/
structure Outer where
  z     : Fin 8
  a     : Fin 8
  b     : Fin 8
  n     : Nat
  neg   : Bool
  zero  : Bool
  rank1 : Bool
  deriving DecidableEq, Repr

def outerOf : Instr → Option Outer
  | .mop z a b k neg => some ⟨z, a, b, k.toNat + 1, neg, false, false⟩
  | .mopz z a b k neg => some ⟨z, a, b, k.toNat + 1, neg, true, false⟩
  | .mr1 z a b k neg => some ⟨z, a, b, k.toNat + 1, neg, false, true⟩
  | .mr1z z a b k neg => some ⟨z, a, b, k.toNat + 1, neg, true, true⟩
  | _ => none

/-- The product of k index `k` of element (i, j), without its scales. -/
def productAt (ta tb : Tile) (fmte : BitVec 7) (i j k : Nat) : Val :=
  match tileVal ta fmte i k, tileVal tb fmte j k with
  | some x, some y => x.mul y
  | _, _ => .fin false 0 1 0

/-- One k-group's contribution to an element, of the k indices in [lo, hi) (R339). -/
def addGroup (o : Outer) (ta tb : Tile) (fmte : BitVec 7) (i j g lo hi : Nat) (c : BitVec 32) : BitVec 32 :=
  let scaled (v : Val) : Val :=
    let v := tileScaleVal tb (tileScaleVal ta v i g) j g
    if o.neg then v.neg else v
  let ks := (List.range (hi - lo)).map (· + lo)
  if o.rank1 then ks.foldl (fun c k => accumulate c (scaled (productAt ta tb fmte i j k))) c
  else accumulate c (scaled (Val.sum (ks.map fun k => productAt ta tb fmte i j k)))

/-- Apply the products of k in [lo, hi), which starts at a k-group boundary, to an accumulator. -/
def applyOuter (o : Outer) (ta tb : Tile) (fmte : BitVec 7) (lo hi : Nat) (z : Acc) : Acc :=
  let z := if o.zero && lo = 0 then [] else z
  let gl := groupLen (Ty.width ta.ty)
  let gs := (List.range ((hi + gl - 1) / gl - lo / gl)).map (· + lo / gl)
  accOf fun i j =>
    let c := accGet z i j
    if i < tcfgRows ta.cfg ∧ j < tcfgRows tb.cfg then
      gs.foldl (fun c g => addGroup o ta tb fmte i j g (gl * g) (min hi (gl * (g + 1))) c) c
    else c

/-- Some reserved code reads as TRAP under FMTE (R221, R222). -/
def trapSub (fmte : BitVec 7) : Bool :=
  (fmte.getLsbD 2 && bitsOf fmte.toNat 0 2 = 3) ||
    (!fmte.getLsbD 3 && fmte.getLsbD 4 && bitsOf fmte.toNat 5 2 = 3)

/-- The lowest k below `n`, from `lo` on, at which a tile row holds a reserved code under TRAP (R349). -/
def reservedAt (ta tb : Tile) (fmte : BitVec 7) (lo n : Nat) : Option Nat :=
  if !trapSub fmte then none else
  ((List.range (n - lo)).map (· + lo)).find? fun k =>
    (List.range (tcfgRows ta.cfg)).any (fun i => (tileVal ta fmte i k).isNone) ||
    (List.range (tcfgRows tb.cfg)).any (fun j => (tileVal tb fmte j k).isNone)

/-! ### Engine cycles (R148, R336) -/

/-- Cycles of `n` k steps at a width. -/
def rateCycles (w n : Nat) : Nat :=
  match w with
  | 4 => (n + 1) / 2
  | 8 => n
  | 16 => 2 * n
  | _ => 8 * n

/-- Row groups of an MDRAIN (R342). -/
def drainGroups (rows : Nat) (t : Ty) : Nat := rows / (32 / Ty.width t)

def drainRows (rows : BitVec 4) : Nat := 8 * (rows.toNat + 1)

/-- Engine cycles of the operation at the head of the queue, from where it resumed (R336, R347). -/
def opCycles (k : Core) (o : MatOp) : Nat :=
  match outerOf o.op with
  | some u => 12 + rateCycles (Ty.width (k.tiles[u.a]).ty) (u.n - k.mprog.from_)
  | none => match o.op with
    | .mzero _ => 2
    | .macc _ _ _ => 16
    | .mscl _ _ => 16
    | .mdrain _ _ _ _ _ _ rows t => 8 + drainGroups (drainRows rows) t - k.mprog.from_
    | _ => 18

/-! ### MDRAIN (R341-R343) -/

/-- Codes and scales of one granule's values in a type (R228-R230). -/
def drainGranule (t : Ty) (pol : Pol) (fmte : Nat) (vs : List (Val × RMode)) : Except Cause (List Nat × Nat) :=
  let x := mxExponent (Ty.emax t) (vs.map (·.1))
  let conv (e : Val × RMode) : Except Cause ConvOut :=
    if Ty.isScaled t then convOut ((Ty.fmt t).convert e.2 pol (e.1.scale (-x)))
    else if Ty.isFloat t then convOut ((Ty.fmt t).convert e.2 pol e.1)
    else convOut (convertInt t fmte e.2 pol e.1)
  match collect (vs.map conv) with
  | .error c => .error c
  | .ok es =>
    let scale := if !Ty.isScaled t then 0x7F
      else if es.contains .nanScale then 0xFF else (x + 127).toNat
    .ok (es.map (·.get), scale)

/-- The vector of row group `p` (R342). -/
def drainVec (z : Acc) (o : MatOp) (t : Ty) (pol : Pol) (m : Rm) (first p : Nat) : Except Cause Vec :=
  let w := Ty.width t
  let g := 32 / w
  let per := 256 / w
  let code (n : Nat) : BitVec 32 := accGet z (first + g * p + n / 64) (n % 64)
  if t = .f32 then
    .ok (packVec 32 ((List.range 64).map fun n => (code n).toNat) (List.replicate 8 0x7F))
  else
    match collect ((List.range 8).map fun gr =>
        drainGranule t pol o.fmte.toNat ((List.range per).map fun j =>
          let n := per * gr + j
          (fp32.decode (code n).toNat, modeOf m o.frm o.srseed o.ofs 3 p n))) with
    | .ok gs => .ok (packVec w (gs.flatMap (·.1)) (gs.map (·.2)))
    | .error c => .error c

/-- Rows of group p set to +0 (R342). -/
def clearRows (z : Acc) (lo n : Nat) : Acc := SMap.restrict z fun k => k < 64 * lo || 64 * (lo + n) ≤ k

/-- The push due in this engine cycle, and the rows it reads, first and count: the group of the MDRAIN in flight (R343). -/
structure Push where
  q   : Fin 2
  vec : Except Cause Vec
  z   : Fin 8
  rows : Nat × Nat
  clr : Bool
  deriving DecidableEq, Repr

def dueGroup (k : Core) (rows : Nat) (t : Ty) : Option Nat :=
  let p := k.mprog.pushed
  if p < drainGroups rows t && (k.mprog.pending || k.mprog.elapsed = 8 + p - k.mprog.from_) then some p
  else none

def duePush (k : Core) : Option Push :=
  match k.mops with
  | o :: _ =>
    if !k.mprog.started then none else
    match o.op with
    | .mdrain z q pol clr m first rows t =>
      match dueGroup k (drainRows rows) t with
      | some p =>
        let g := 32 / Ty.width t
        some { q := q, vec := drainVec k.acc[z] o t pol m (8 * first.toNat) p, z := z,
               rows := (8 * first.toNat + g * p, g), clr := clr }
      | none => none
    | _ => none
  | [] => none

/-- Vectors that the bundle due pops from a queue: operand reads and the pops of a CQST (R149). -/
def popsOf (q : Fin 2) : Instr → Nat
  | i => (vspecsOf i).countP (fun v => v == .queue q)
where
  /-- The vector specifiers that an instruction reads. -/
  vspecsOf : Instr → List VSpec
  | .vadd a b _ _ => a :: ofB b | .vsub a b _ _ => a :: ofB b | .vmul a b _ _ => a :: ofB b
  | .vfma a b c _ _ => a :: c :: ofB b | .vfms a b c _ _ => a :: c :: ofB b
  | .vfnma a b c _ _ => a :: c :: ofB b | .vdiv a b _ _ => a :: ofB b
  | .vsqrt a _ _ => [a] | .vrsq a _ _ => [a] | .vrcp a _ _ => [a] | .vexp2 a _ _ => [a]
  | .vlog2 a _ _ => [a] | .vmin a b _ => a :: ofB b | .vmax a b _ => a :: ofB b
  | .vabs a _ _ => [a] | .vneg a _ _ => [a] | .vcps a b _ => a :: ofB b
  | .vand a b _ => a :: ofB b | .vor a b _ => a :: ofB b | .vxor a b _ => a :: ofB b
  | .vnot a _ => [a] | .vshl a b _ => a :: ofB b | .vshr a b _ => a :: ofB b
  | .vsra a b _ => a :: ofB b | .vmulh a b _ => a :: ofB b | .vcmp a b _ _ => a :: ofB b
  | .vsel a b c _ => a :: c :: ofB b | .vclass a _ => [a] | .vcvt a _ _ _ _ => [a]
  | .vpack a b _ => a :: ofB b | .vunpk a _ => [a] | .vscl a b _ _ => a :: ofB b
  | .vanc a b _ _ => a :: ofB b | .vdanc a b _ _ => a :: ofB b
  | .vqdec a b c _ _ => a :: c :: ofB b | .vbcst a _ => [a] | .viota a _ => [a]
  | .vperm a b _ => a :: ofB b | .vslide a b c _ => a :: c :: ofB b
  | .vzip a b _ _ => a :: ofB b | .vunzip a b _ _ => a :: ofB b | .vmov a _ _ => [a]
  | .vsw a _ _ => [a] | .vext a b _ => a :: ofB b | .vrsum a _ _ => [a] | .vrmax a _ => [a]
  | .vrmin a _ => [a] | .vscan a _ _ => [a] | .vdot a b _ _ => a :: ofB b
  | .mpush a _ => [a] | .mset a _ => [a]
  | _ => []
  ofB : VOpnd → List VSpec
  | .spec v => [v]
  | .lit _ => []

/-- The bound of a queue: the smaller of its depth and its declared maximum (R149). -/
def queueMax (k : Core) (q : Fin 2) : Nat := min 64 (if q = 0 then k.hdr.q0Max else k.hdr.q1Max)

def queueOf (k : Core) (q : Fin 2) : List Vec := if q = 0 then k.q0 else k.q1

/-- The reserved code that the engine reads in this cycle: INT_CODE in cycle L(k + 1) (R349). -/
def dueIntCode (k : Core) : Option (Outer × MatOp × Nat) :=
  match k.mops with
  | o :: _ =>
    match outerOf o.op, k.mprog.started with
    | some u, true =>
      let ta := k.tiles[u.a]
      let tb := k.tiles[u.b]
      match reservedAt ta tb o.fmte k.mprog.from_ u.n with
      | some kk =>
        if k.mprog.elapsed = 12 + rateCycles (Ty.width ta.ty) (kk + 1 - k.mprog.from_) then some (u, o, kk)
        else none
      | none => none
    | _, _ => none
  | [] => none

/-- The first failed word among the rows that the push due reads (R21, R23). -/
def pushFault (k : Core) : Option Nat :=
  match duePush k with
  | none => none
  | some p => k.failedWord (.acc p.z) (256 * p.rows.1) (256 * p.rows.2)

/-- A cause that the engine raises in this cycle (R149, R349), given the pops of the bundle due. -/
def engineCause (k : Core) (pops : Fin 2 → Nat) : Option Cause :=
  match duePush k with
  | some p =>
    if (pushFault k).isSome then some .uncorrectable else
    match p.vec with
    | .error c => some c
    | .ok _ =>
      if queueMax k p.q ≤ (queueOf k p.q).length - pops p.q then some .queueFull else none
  | none => if (dueIntCode k).isSome then some .intCode else none

/-! ### Progress -/

def Core.setAcc (k : Core) (z : Fin 8) (a : Acc) : Core := { k with acc := k.acc.set z a }

/-- Apply the k-groups of the outer product in flight up to k index `hi`. -/
def Core.advanceOuter (k : Core) (u : Outer) (o : MatOp) (hi : Nat) : Core :=
  let k' := k.setAcc u.z (applyOuter u k.tiles[u.a] k.tiles[u.b] o.fmte k.mprog.kDone hi k.acc[u.z])
  { k' with mprog := { k.mprog with kDone := hi } }

/-- Bytes of an accumulator as MSAVE lays them out (R344). -/
def accBytes (a : Acc) : List Byte :=
  (List.range 8192).flatMap fun n => natToBytes 4 (SMap.get 0 a n).toNat

def accOfBytes (m : Mem) (off : Nat) : Acc :=
  accOf fun i j => BitVec.ofNat 32 (m.readLE (off + 256 * i + 4 * j) 4)

/-- The bytes of a tile that an outer product over `n` k indices reads: its rows, and its scales. -/
def tileReads (k : Core) (t : Fin 8) (n : Nat) : List (CoreArray × Nat × Nat) :=
  let x := k.tiles[t]
  let rows := (List.range (tcfgRows x.cfg)).map fun i => (CoreArray.tile t, i * tcfgRbytes x.cfg, (n * Ty.width x.ty + 7) / 8)
  if Ty.isScaled x.ty then (.tile t, 16384, 512) :: rows else rows

/-- What an operation reads of the core's own arrays. -/
def Core.opReads (k : Core) (o : MatOp) : List (CoreArray × Nat × Nat) :=
  match outerOf o.op with
  | some u =>
    tileReads k u.a u.n ++ tileReads k u.b u.n ++ if u.zero && k.mprog.kDone = 0 then [] else [(.acc u.z, 0, 32768)]
  | none => match o.op with
    | .macc z y _ => [(.acc z, 0, 32768), (.acc y, 0, 32768)]
    | .mscl z _ => [(.acc z, 0, 32768)]
    | .msave z _ _ => [(.acc z, 0, 32768)]
    | _ => []

/-- The first failed word that an operation reads (R21, R23). -/
def Core.opFault (k : Core) (o : MatOp) : Option Nat :=
  if k.badWords.isEmpty then none else (k.opReads o).findSome? fun e => k.failedWord e.1 e.2.1 e.2.2

/-- An accumulator that an operation gives every element: its failed words are sound again. -/
def Core.opRenews (k : Core) (o : MatOp) : Core :=
  match outerOf o.op with
  | some u => k.renewWords (.acc u.z) 0 32768
  | none => match o.op with
    | .mzero z => k.renewWords (.acc z) 0 32768
    | .mload z _ _ => k.renewWords (.acc z) 0 32768
    | _ => k

/-- What an operation computes at its completion (R339, R340, R344). -/
def Core.opResult (k : Core) (o : MatOp) : Core :=
  match outerOf o.op with
  | some u => k.advanceOuter u o u.n
  | none =>
    match o.op with
    | .mzero z => k.setAcc z []
    | .macc z y neg =>
      let b := k.acc[y]
      let a := k.acc[z]
      k.setAcc z (accOf fun i j =>
        let v := fp32.decode (accGet b i j).toNat
        BitVec.ofNat 32 (fp32.round .rne
          (Val.add false (fp32.decode (accGet a i j).toNat) (if neg then v.neg else v))))
    | .mscl z e =>
      let a := k.acc[z]
      k.setAcc z (accOf fun i j =>
        BitVec.ofNat 32 (fp32.round .rne ((fp32.decode (accGet a i j).toNat).scale e.toInt)))
    | .msave z h p => k.spadWrite (65536 * p.val + 32768 * h.toNat) (accBytes k.acc[z])
    | .mload z h p =>
      let off := 65536 * p.val + 32768 * h.toNat
      match k.failedLine off 32768 with
      | some o => k.lateFault o
      | none => k.setAcc z (accOfBytes k.spad off)
    | _ => k

/-- The effect of an operation at its completion. One that reads a failed word has none, and the core hears of it at its next
bundle. DESIGN CHOICE: log entry 29. -/
def Core.opEffect (k : Core) (o : MatOp) : Core :=
  match k.opFault o with
  | some x => k.lateFault x
  | none => (k.opResult o).opRenews o

/-- The operation in flight completes: its effect, and its entry leaves the queue (R334). -/
def Core.opComplete (k : Core) : Core :=
  match k.mops with
  | o :: rest =>
    if k.mprog.started && decide (opCycles k o ≤ k.mprog.elapsed) then
      { k.opEffect o with mops := rest, mprog := MatProg.reset, unlocking := (saveOff o.op).isSome }
    else k
  | [] => k

/-- Pending MFMT writes whose four cycles have passed take effect (R345). -/
def Core.fmtEffect (k : Core) : Core :=
  k.fmtp.foldl (fun (k : Core) (e : BitVec 7 × Nat) =>
    if e.2 = 0 then { k with fmte := e.1.setWidth 64, fmtp := k.fmtp.filter (·.2 ≠ 0) } else k) k

/-- The operation at the head of the queue starts (R334). An MSAVE or MLOAD finds what the core's earlier stream writes put
into its bytes (R344). -/
def Core.opStart (k : Core) : Core :=
  match k.mops with
  | [] => k
  | o :: _ =>
    if k.mprog.started then k
    else
      let k : Core := { k with mprog := { k.mprog with started := true } }
      match saveOff o.op with
      | some off => { k.drainFor off 32768 with saves := k.saves + 1 }
      | none => k

/-- The start of an engine cycle: a completed operation leaves, and the next one starts (R334). -/
def Core.engineOpen (k : Core) : Core := k.fmtEffect.opComplete.opStart

/-- The push of this cycle is made (R343). -/
def Core.enginePush (k : Core) : Core :=
  match duePush k with
  | some p =>
    match p.vec with
    | .ok v =>
      let k := if p.q = 0 then { k with q0 := k.q0 ++ [v] } else { k with q1 := k.q1 ++ [v] }
      let k := if p.clr then k.setAcc p.z (clearRows k.acc[p.z] p.rows.1 p.rows.2) else k
      { k with mprog := { k.mprog with pushed := k.mprog.pushed + 1, pending := false } }
    | .error _ => k
  | none => k

/-- The end of an engine cycle: its push is made, its cycle counted; pending MFMT writes come one issue
cycle closer. An MSAVE or MLOAD moves from start + 2 on, while no tile transfer holds its banks (R156, R159, R344). -/
def Core.engineClose (k : Core) : Core :=
  let k := k.enginePush
  let k := { k with fmtp := k.fmtp.map fun (e : BitVec 7 × Nat) => (e.1, e.2 - 1) }
  let k : Core := { k with unlocking := false }
  if k.mprog.started && !(k.saveHeld && decide (2 ≤ k.mprog.elapsed)) then
    { k with mprog := { k.mprog with elapsed := k.mprog.elapsed + 1 } }
  else k

/-- What an engine cause leaves behind: a drain keeps its push pending (R343), an outer product holds the
k-groups before the offending one (R349). -/
def Core.engineTrapped (k : Core) : Core :=
  let k : Core := { k with unlocking := false }
  match dueIntCode k with
  | some (u, o, kk) =>
    let gl := groupLen (Ty.width (k.tiles[u.a]).ty)
    k.advanceOuter u o (kk / gl * gl)
  | none => if (duePush k).isSome then { k with mprog := { k.mprog with pending := true } } else k

/-! ### The engine's own steps -/

/-- The engine of a core moves: its context, not a handler, runs (R334, R248). -/
def engineRuns (k : Core) : Bool := k.level = k.base

/-- MATRIX_OP_COMPLETE. -/
def execMatrixOpComplete (s : State) : Host.Outcome State Fault Refusal :=
  .next (if engineRuns (s.coreAt s.inp.core) then s.mapCore s.inp.core (·.opComplete) else s)

/-- MDRAIN_GROUP_PUSH: the group due is pushed, if no cause stands against it (R343). -/
def execMdrainGroupPush (s : State) : Host.Outcome State Fault Refusal :=
  let k := s.coreAt s.inp.core
  .next (if engineRuns k && (engineCause k fun _ => 0).isNone then s.mapCore s.inp.core (·.enginePush) else s)

/-- MATRIX_INT_CODE: the cause is raised at the bundle due, with SLOT 7 (R251, R349). -/
def execMatrixIntCode (s : State) : Host.Outcome State Fault Refusal :=
  let k := s.coreAt s.inp.core
  .next (if engineRuns k && (dueIntCode k).isSome then
      ((s.mapCore s.inp.core fun k => { k.engineTrapped with skip := 0 }).onBundle s.inp.core).takeTrap s.inp.core
        ⟨.intCode, 7, 0⟩
    else s)

/-- MFMT_EFFECT. -/
def execMfmtEffect (s : State) : Host.Outcome State Fault Refusal :=
  .next (s.mapCore s.inp.core (·.fmtEffect))

/-! ### At issue (R334-R346) -/

/-- Enter the matrix op queue, with what the operation captures (R334). -/
def enqueue (s : State) (i : Instr) : SlotRes Unit :=
  let k := s.pre
  need s (s.cur.mops.length < min 4 k.hdr.moqMax) .matqFull 0 <|
  let o : MatOp := { op := i, ofs := s.issue.ofs, fmte := k.fmte.setWidth 7, frm := k.frm, srseed := k.srseed }
  .ok () (s.upd fun k => { k with mops := k.mops ++ [o] })

/-- The meter of a tile width (R71, R337). -/
def macMeter (w : Nat) : Fin 16 :=
  match w with
  | 4 => 3 | 8 => 4 | 16 => 5 | _ => 6

/-- The target of a tile transfer under way. -/
def transferTarget : Instr → Option (Fin 8)
  | .ctld _ n _ _ => some n
  | _ => none

/-- A tile that an uncompleted transfer still writes (R338). -/
def tileLoading (s : State) (t : Fin 8) : Bool :=
  s.cmds.any fun m => m.core = s.issue.core && transferTarget m.op = some t

/-- The checks of R337 and the hold of R338. -/
def issueOuter (s : State) (i : Instr) : SlotRes Unit :=
  match outerOf i with
  | none => .ok () s
  | some u =>
    let ta := s.pre.tiles[u.a]
    let tb := s.pre.tiles[u.b]
    if tileLoading s u.a || tileLoading s u.b then .hold .lock else
    let w := Ty.width ta.ty
    need s (!ta.released && !tb.released) .tileConfig 0 <|
    need s (tcfgRows tb.cfg ≤ 64) .tileConfig 0 <|
    need s (u.n * w ≤ 8 * tcfgRbytes ta.cfg && u.n * Ty.width tb.ty ≤ 8 * tcfgRbytes tb.cfg) .tileConfig 0 <|
    need s (pairOk ta.ty tb.ty) .tileConfig 0 <|
    (enqueue s i).bind fun _ s =>
      .ok () (s.meter s.pre.part (macMeter w) (tcfgRows ta.cfg * tcfgRows tb.cfg * u.n))

def execMop (z a b : Fin 8) (k : BitVec 8) (neg : Bool) (s : State) : Host.Outcome State Fault Refusal :=
  finish s (issueOuter s (.mop z a b k neg))

def execMopz (z a b : Fin 8) (k : BitVec 8) (neg : Bool) (s : State) : Host.Outcome State Fault Refusal :=
  finish s (issueOuter s (.mopz z a b k neg))

def execMr1 (z a b : Fin 8) (k : BitVec 8) (neg : Bool) (s : State) : Host.Outcome State Fault Refusal :=
  finish s (issueOuter s (.mr1 z a b k neg))

def execMr1z (z a b : Fin 8) (k : BitVec 8) (neg : Bool) (s : State) : Host.Outcome State Fault Refusal :=
  finish s (issueOuter s (.mr1z z a b k neg))

def execMzero (z : Fin 8) (s : State) : Host.Outcome State Fault Refusal :=
  finish s (enqueue s (.mzero z))

/-- An MACC source outside the header's ACCS raises TILE_CONFIG (R340). -/
def execMacc (z y : Fin 8) (neg : Bool) (s : State) : Host.Outcome State Fault Refusal :=
  finish s (need s (s.pre.hdr.accs.getLsbD y.val) .tileConfig 0 (enqueue s (.macc z y neg)))

def execMscl (z : Fin 8) (e : BitVec 7) (s : State) : Host.Outcome State Fault Refusal :=
  finish s (enqueue s (.mscl z e))

def execMdrain (z : Fin 8) (q : Fin 2) (pol : Pol) (clr : Bool) (m : Rm) (first rows : BitVec 4) (t : Ty)
    (s : State) : Host.Outcome State Fault Refusal :=
  finish s (enqueue s (.mdrain z q pol clr m first rows t))

/-- MFMT: the write waits four issue cycles (R345). -/
def execMfmt (v : BitVec 7) (s : State) : Host.Outcome State Fault Refusal :=
  finish s (.ok () (s.upd fun k => { k with fmtp := k.fmtp ++ [(v, 4)] }))

/-- The checks of R344: a declared polder, no KIND 1 range, no barrier line under an MSAVE. -/
def issueSave (s : State) (i : Instr) (save h : Bool) (p : Fin 32) : SlotRes Unit :=
  let off := 65536 * p.val + 32768 * h.toNat
  need s (s.pre.hdr.polders.getLsbD p.val) .polderUndeclared (spadInfo off) <|
  need s (regionAt s.pre.hdr false off 32768).isNone .diffKind (spadInfo off) <|
  need s (!(save && touchesBarrier s.pre.hdr off 32768)) .barrierStore (spadInfo off) <|
  match foreignPolder s.cur off 32768 with
  | some q => .hold (.polder q off)
  | none => enqueue s i

def execMsave (z : Fin 8) (h : Bool) (p : Fin 32) (s : State) : Host.Outcome State Fault Refusal :=
  finish s (issueSave s (.msave z h p) true h p)

def execMload (z : Fin 8) (h : Bool) (p : Fin 32) (s : State) : Host.Outcome State Fault Refusal :=
  finish s (issueSave s (.mload z h p) false h p)

/-- MFENCE waits until the queue is empty; in a handler it has no effect (R346). -/
def execMfence (s : State) : Host.Outcome State Fault Refusal :=
  finish s (if engineRuns s.pre && !s.cur.mops.isEmpty then .hold .mfence else .ok () s)

end Sys2Proof.Machine
end

