-- ==== Sys2Proof/Machine/Engine.lean ====
section
/-! DEFINITION. What every C-slot command shares (R366-R371): engine addresses, tags, the engine's
reads and writes, completion and the barrier count. -/

namespace Sys2Proof.Machine

/-! ### Engine addresses (R366) -/

/-- An engine address: an offset of the issuing core's scratchpad, or a VA (a DPA in H). -/
inductive EngAddr where
  | spad (off : Nat)
  | mem (a : Nat)
  deriving DecidableEq, Repr

def EngAddr.plus : EngAddr → Nat → EngAddr
  | .spad o, n => .spad (o + n)
  | .mem a, n => .mem (a + n)

def EngAddr.num : EngAddr → Nat
  | .spad o => o
  | .mem a => a

/-- As TRAP_INFO gives it (R252). -/
def EngAddr.info : EngAddr → Word
  | .spad o => spadInfo (o % 2 ^ 63)
  | .mem a => BitVec.ofNat 64 a

def EngAddr.isSpad : EngAddr → Bool
  | .spad _ => true
  | .mem _ => false

/-- The address that 64 bits name, its required zeros not looked at. -/
def engAddrOf (x : Word) : EngAddr :=
  if x.getLsbD 63 then .spad (x.toNat % 2 ^ 63) else .mem x.toNat

/-- The bits that must be zero are. -/
def engAddrOk (l : Level) (x : Word) : Bool :=
  if x.getLsbD 63 then bitsOf x.toNat 21 42 = 0 else l = .h || bitsOf x.toNat 48 16 = 0

/-- Require an engine address at operand position `pos`. -/
def needAddr {α : Type} (s : State) (x : Word) (pos : Nat) (k : EngAddr → SlotRes α) : SlotRes α :=
  need s (engAddrOk s.pre.level x) .operandReserved (opndInfo 0 pos) (k (engAddrOf x))

/-- A range of bytes at an engine address. -/
abbrev EngRange := EngAddr × Nat

/-- POLDER_UNDECLARED over the scratchpad parts of a footprint (R157, R368). -/
def footprintBad (k : Core) (rs : List EngRange) : Option Word :=
  rs.findSome? fun (e, n) => match e with
    | .spad o => (badPolder k.hdr o n).map fun x => spadInfo (x % 2 ^ 63)
    | .mem _ => none

def needFootprint {α : Type} (s : State) (rs : List EngRange) (k : SlotRes α) : SlotRes α :=
  match footprintBad s.pre rs with
  | some info => raise s .polderUndeclared info
  | none => k

/-! ### Tags and the command queue (R149, R367) -/

def tagFree (t : TagState) : Bool :=
  match t with
  | .free => true
  | _ => false

/-- The first checks of a tagged instruction: TAG_BUSY for a tag that was busy or done before the bundle
or that the bundle's other C slot took; COPYQ_FULL. -/
def needTag {α : Type} (s : State) (g : Fin 64) (k : SlotRes α) : SlotRes α :=
  need s (tagFree s.pre.tags[g] && tagFree s.cur.tags[g]) .tagBusy 0 <|
  need s (s.cur.copyq.length < min 16 s.pre.hdr.cqMax) .copyqFull 0 k

/-- A spill block (R368): aligned, within the spill bytes. -/
def needBlock {α : Type} (s : State) (off : Word) (len : Nat) (k : List Byte → SlotRes α) : SlotRes α :=
  need s (off.toNat + len ≤ s.pre.spillLimit) .spillRange 0 <|
  need s (off.toNat % 64 = 0) .misaligned off <|
  soundSpill s off.toNat len <| k (s.pre.spill.readBytes off.toNat len)

/-- A command as its instruction hands it to an engine. -/
def newCmd (s : State) (op : Instr) (tag : Option (Fin 64)) (a b c : Word) : EngCmd :=
  let k := s.cur
  { id := s.nextId, core := s.issue.core, launch := k.launch, lidx := k.lidx, part := k.part,
    level := s.pre.level, op := op, tag := tag, a := a, b := b, c := c, block := [], vecs := [],
    bytes := [], reel := k.reelPtr, rewind := false, diff := false, segs := [], rc := k.rc, wc := k.wc,
    hdr := s.pre.hdr, fmte := s.pre.fmte, parked := false, issued := s.cycle, due := s.cycle + 4,
    after := [], pkts := 0, status := 0, chan := none, moved := 0, movedAt := 0, ended := none, olds := [],
    retry := 0, cfg := 0, waitAt := none, count := 0, behind := if ownLock k then some k.saves else none }

/-- The command starts: its tag is busy and it holds a queue entry (R367). -/
def State.startCmd (s : State) (m : EngCmd) : State :=
  let s := { s with nextId := s.nextId + 1, cmds := s.cmds ++ [m] }
  match m.tag with
  | some g => s.upd fun k => { k with tags := k.tags.set g (.busy false), copyq := k.copyq ++ [g] }
  | none => s

/-- A footprint touches a differentiable region, an adjoint area or the reel (R237). -/
def diffFoot (k : Core) (rs : List EngRange) : Bool :=
  k.level = .u && rs.any fun x => match x.1 with
    | .spad o => k.hdr.diffs.any fun r => !r.hbm && (r.touches o x.2 ||
        (decide (r.adj < o + x.2) && decide (o < r.adj + 4 * (r.len / r.esize))))
    | .mem a => (regionAt k.hdr true a x.2).isSome || touchesAdjoint k.hdr a x.2 ||
        (decide (reelBase k < a + x.2) && decide (a < reelLimit k))

/-- A command starts on a footprint. -/
def State.startOn (s : State) (m : EngCmd) (rs : List EngRange) : State :=
  s.startCmd { m with diff := m.diff || diffFoot s.pre rs }

def State.setCmd (s : State) (m : EngCmd) : State :=
  { s with cmds := s.cmds.map fun e => if e.id = m.id then m else e }

/-! ### Statuses (R370) -/

def stXlate : BitVec 8 := 0x01
def stUncorrectable : BitVec 8 := 0x02
def stCheckFail : BitVec 8 := 0x03
def stBarrierRange : BitVec 8 := 0x05
def stReelMismatch : BitVec 8 := 0x06
def stWindowCode : BitVec 8 := 0x07
def stDiff : BitVec 8 := 0x08
def stAccessKind : BitVec 8 := 0x09
def stNoRoute : BitVec 8 := 0x0A
def stNoPort : BitVec 8 := 0x0B
def stFabricTimeout : BitVec 8 := 0x0C
def stAborted : BitVec 8 := 0x0D
def stNbImage : BitVec 8 := 0x0E
def stNbSlot : BitVec 8 := 0x0F
def stNbRange : BitVec 8 := 0x10
def stBusy : BitVec 8 := 0x11
def stNbXlate : BitVec 8 := 0x12

/-! ### The engine's reads and writes -/

/-- Why an engine stops at a piece: a near-bank run or the want of a token at a channel (R91, R187), a lock on a
scratchpad bank (R156), a translation cause that parks it (R89), failed data, which ends it and of which H is told (R22, R23),
a status, or a status whose cause is logged. -/
inductive EngStop where
  | wait (ch : Fin 256)
  | lock
  | park (c : Cause) (addr : Nat)
  | failed (c : Cause) (addr : Nat)
  | fail (st : BitVec 8)
  | logged (st : BitVec 8) (c : Cause) (flags : BitVec 8)
  deriving DecidableEq, Repr

abbrev EngRes (α : Type) := Except EngStop α

/-- The core as the checks of differentiable accesses see a command: its context at the level of issue
(R238). -/
def EngCmd.ctx (m : EngCmd) (s : State) : Core := { s.ctxOf m.launch m.core with level := m.level, hdr := m.hdr }

/-- The no-allocate bit of a command's control (R90, R372-R374, R378, R380). -/
def EngCmd.na (m : EngCmd) : Bool :=
  match m.op with
  | .cpy _ _ _ _ => m.c.getLsbD 57
  | .cfill _ _ _ _ => m.c.getLsbD 57
  | .czero _ _ _ => m.c.getLsbD 57
  | .cpyp _ _ _ _ => (fieldLE m.block 49 1).testBit 1
  | .cstrp _ _ _ _ => (fieldLE m.block 14 1).testBit 1
  | .ctld _ _ _ _ => m.c.getLsbD 4
  | .ctst _ _ _ _ => m.c.getLsbD 4
  | .cqst _ _ _ _ => m.c.getLsbD 18
  | _ => false

/-- A command as a requester of lines (R90): its engine allocates in the partition's designated ways. -/
def EngCmd.req (m : EngCmd) : Req :=
  ⟨if m.level = .h then 0 else m.part, m.part, some (m.launch, m.core), if m.na then .no else .ways⟩

/-- A line of an engine's memory end: the page against the header's KIND 2 ranges (R377). -/
def engDiff (s : State) (m : EngCmd) (page : Bool) (a n : Nat) : Bool :=
  match diffHbm (m.ctx s) page a n with
  | .refuse _ => false
  | _ => true

/-- What stops an engine that meets a cause: failed data gives a status (R23), all else parks it (R89). -/
def engStop (c : Cause) (addr : Nat) : EngStop :=
  match c with
  | .checkFail => .failed c addr
  | .uncorrectable => .failed c addr
  | _ => .park c addr

/-- The status of failed data. -/
def failedStatus (c : Cause) : BitVec 8 := if c = .checkFail then stCheckFail else stUncorrectable

/-- Translate a memory end of a command through its quad's TLB (R86): untranslated in H (R80). -/
def engPhys (s : State) (m : EngCmd) (kind : AccKind) (a : Nat) : EngRes Phys :=
  if m.level = .h then
    if presentDpa s a then .ok ⟨a, false, false, 0⟩ else .error (.park .ownership a)
  else match checkFound s m.part m.level kind a (lookupQuad s (quadOf m.core) m.part a) with
    | .ok p => .ok p
    | .error c => .error (engStop c a)

/-- The TLB takes part in an engine's access. -/
def State.engTlb (s : State) (m : EngCmd) (a : Nat) : State :=
  if m.level = .h then s else s.noteQuad m.req m.core m.part a

/-- A window that an engine's memory end meets. -/
def engWindow (s : State) (m : EngCmd) (a : Nat) : Option (Nat × Window) :=
  if m.level = .h then none else windowAt s m.part a

/-- The banks of its core's scratchpad that a command finds locked (R156, R159, R344): a transfer waits for those issued
before it, every other command for all. -/
def lockedFor (s : State) (m : EngCmd) : BitVec 32 :=
  let k := s.coreAt m.core
  locksOf s m.core (fun e => e.id ≠ m.id && ((transferTile m.op).isNone || decide (e.id < m.id))) |||
    if ownLock k && ((transferTile m.op).isNone || m.comesAfter k) then BitVec.allOnes 32 else 0

/-- A scratchpad end of a command comes into its reach: the banks are free, earlier stream writes of its core drained
(R206), the polders handed over (R115). -/
def State.reachSpad (s : State) (m : EngCmd) (o n : Nat) : EngRes State :=
  if (banksOf o n &&& lockedFor s m) ≠ 0 then .error .lock
  else match s.pumpRange m.core m.launch o n with
    | .error (c, a) => .error (engStop c a)
    | .ok s => .ok (if (s.coreAt m.core).launch = m.launch then s.mapCore m.core (·.drainFor o n) else s)

/-- The TLB takes part in an engine's access through a window: for the pages of the stored bytes. -/
def State.engTlbWin (s : State) (m : EngCmd) (w : Window) (a : Nat) : State :=
  (blockVas w (elemAt w (a - w.wbase))).foldl (fun s v => s.engTlb m v) s

/-- Read `n` bytes that lie in one line. -/
def engRead (s : State) (m : EngCmd) (e : EngAddr) (n : Nat) : EngRes (List Byte × State) :=
  match e with
  | .spad o =>
    match s.reachSpad m o n with
    | .error x => .error x
    | .ok s =>
      if ((s.coreAt m.core).failedLine o n).isSome then .error (engStop .uncorrectable (EngAddr.spad o).info.toNat)
      else .ok ((s.coreAt m.core).spad.readBytes o n, s)
  | .mem a =>
    match engWindow s m a with
    | some (i, w) =>
      if !engDiff s m false a n then .error (.fail stDiff) else
      match busyChan s m.part (winChans s m.req i w a) with
      | some ch => .error (.wait ch)
      | none =>
        let s := ((s.engTlbWin m w a).applyStored m.part w a).accessWin m.req i w a
        match windowView s m.req.tag m.part i w a n with
        | .ok (bs, r) => if r then .error (.fail stWindowCode) else .ok (bs, s)
        | .error c => .error (engStop c a)
    | none =>
      match engPhys s m .read a with
      | .error x => .error x
      | .ok p =>
        if !engDiff s m p.diff a n then .error (.fail stDiff)
        else if p.host then .ok (s.hostMem.readBytes p.addr n, (s.engTlb m a).meter m.part 12 n)
        else
          let side : Bool := p.mtype ≠ 0
          match busyChan s m.part (accessChans s m.req p.addr side .read),
                sideFault s m.req.tag p.addr side with
          | some ch, _ => .error (.wait ch)
          | none, some c => .error (engStop c a)
          | none, none =>
            let s := ((s.engTlb m a).applyLine p.addr).access m.req p.addr side .read
            .ok (s.look m.req.tag p.addr n side, s)

/-- Write bytes that lie in one line. A barrier line takes none (R165). -/
def engWrite (s : State) (m : EngCmd) (e : EngAddr) (bs : List Byte) : EngRes State :=
  match e with
  | .spad o =>
    if touchesBarrier m.hdr o bs.length then .error (.fail stBarrierStore)
    else match s.reachSpad m o bs.length with
      | .error x => .error x
      | .ok s =>
        if ((s.coreAt m.core).failedPart o bs.length).isSome then .error (engStop .uncorrectable (EngAddr.spad o).info.toNat)
        else .ok (s.mapCore m.core fun k => k.spadWriteBy m.launch o bs)
  | .mem a =>
    match engWindow s m a with
    | some (i, w) =>
      if !w.wr then .error (.fail stXlate)
      else if !engDiff s m false a bs.length then .error (.fail stDiff)
      else match busyChan s m.part (winChans s m.req i w a) with
        | some ch => .error (.wait ch)
        | none =>
          let s := (s.engTlbWin m w a).applyStored m.part w a
          let s := if m.na then s else s.accessWin m.req i w a
          match (if (s.l2Win m.req.tag i (a / 64)).isSome then none
              else blockFault s m.part w (elemAt w (a - w.wbase) / 64 * 64)) with
          | some (c, x) => .error (engStop c x)
          | none => .ok (s.pokeWin m.req i w a bs)
    | none =>
      match engPhys s m .write a with
      | .error x => .error x
      | .ok p =>
        if !engDiff s m p.diff a bs.length then .error (.fail stDiff)
        else if p.host then
          .ok { (s.engTlb m a).meter m.part 13 bs.length with hostMem := s.hostMem.writeBytes p.addr bs }
        else
          let side : Bool := p.mtype ≠ 0
          let use : LineUse := if bs.length = 64 then .full else .part
          match busyChan s m.part (accessChans s m.req p.addr side use),
                (if bs.length = 64 then none else sideFault s m.req.tag p.addr side) with
          | some ch, _ => .error (.wait ch)
          | none, some c => .error (engStop c a)
          | none, none =>
            let s := ((s.engTlb m a).applyLine p.addr).access m.req p.addr side use
            .ok (s.put m.req.tag p.addr bs side)

/-! ### Pieces of a move -/

/-- What a piece writes: bytes of a source, or bytes of its own. -/
inductive EngSrc where
  | from_ (e : EngAddr)
  | data (bs : List Byte)
  deriving DecidableEq, Repr

/-- A piece of a move, within one line at each end. -/
structure Piece where
  dst : EngAddr
  src : EngSrc
  len : Nat
  deriving DecidableEq, Repr

def EngSrc.drop : EngSrc → Nat → EngSrc
  | .from_ e, n => .from_ (e.plus n)
  | .data bs, n => .data (bs.drop n)

/-- Cut a run at the lines of both ends. -/
def cutRun : Nat → EngAddr → EngSrc → Nat → List Piece
  | 0, _, _, _ => []
  | fuel + 1, d, x, n =>
    if n = 0 then []
    else
      let room := 64 - d.num % 64
      let room := match x with
        | .from_ e => min room (64 - e.num % 64)
        | .data _ => room
      let t := min n room
      let x' := match x with
        | .from_ e => .from_ e
        | .data bs => .data (bs.take t)
      ⟨d, x', t⟩ :: cutRun fuel (d.plus t) (x.drop t) (n - t)

/-- The lines of a range. -/
def rangeLines (x : EngRange) : List Piece := cutRun (x.2 + 1) x.1 (.data (List.replicate x.2 0)) x.2

/-- Two pieces of one line of the destination: they move in one cycle. -/
def Piece.sameLine (a b : Piece) : Bool := a.dst.isSpad = b.dst.isSpad && a.dst.num / 64 = b.dst.num / 64

/-- The pieces that move next: those of one line. -/
def nextLine : List Piece → List Piece
  | [] => []
  | p :: ps => p :: ps.takeWhile p.sameLine

/-- Bytes over which earlier bytes are laid, where they were replaced at addresses in the range. -/
def underlay (spad : Bool) (a : Nat) (bs : List Byte) (olds : List (Bool × Nat × List Byte)) : List Byte :=
  bs.zipIdx.map fun (b, i) =>
    match olds.find? fun o => o.1 = spad && decide (o.2.1 ≤ a + i) && decide (a + i < o.2.1 + o.2.2.length) with
    | some o => o.2.2.getD (a + i - o.2.1) b
    | none => b

/-- A piece's destination lies in the source of its own command (R372). -/
def inOwnSource (own : List EngRange) (p : Piece) : Bool :=
  own.any fun x => x.1.isSpad = p.dst.isSpad && decide (p.dst.num < x.1.num + x.2) && decide (x.1.num < p.dst.num + p.len)

/-- Move one piece. What the command has itself replaced in its source is read as it stood before the command or as it
stands now: a free value (R372). `own` are the ranges of its source. DESIGN CHOICE: log entry 9. -/
def movePiece (s : State) (m : EngCmd) (own : List EngRange) (p : Piece) : EngRes (State × EngCmd) :=
  match p.src with
  | .data bs => (engWrite s m p.dst bs).map fun s => (s, m)
  | .from_ e =>
    match engRead s m e p.len with
    | .error x => .error x
    | .ok (now, s) =>
      let bs := if m.olds ≠ [] && !Config.raceNew s.free then underlay e.isSpad e.num now m.olds else now
      let s := { s with free := s.free + 1 }
      let kept : EngRes (State × EngCmd) :=
        if inOwnSource own p then (engRead s m p.dst p.len).map fun (r : List Byte × State) =>
          (r.2, { m with olds := m.olds ++ [(p.dst.isSpad, p.dst.num, r.1)] })
        else .ok (s, m)
      match kept with
      | .error x => .error x
      | .ok (s, m) => (engWrite s m p.dst bs).map fun s => (s, m)

/-- Move pieces in order, and why they stopped. -/
def movePieces (own : List EngRange) : State → EngCmd → List Piece → State × EngCmd × Option EngStop
  | s, m, [] => (s, m, none)
  | s, m, p :: ps =>
    match movePiece s m own p with
    | .ok (s, m) => movePieces own s { m with moved := m.moved + 1 } ps
    | .error x => (s, m, some x)

/-! ### Completion (R369-R371) -/

/-- The barrier a completion counts at, and its bytes (R371). -/
structure BarCount where
  ref   : Nat
  bytes : Nat
  deriving DecidableEq, Repr

/-- The core and index that a barrier reference names, checked at completion. -/
def barrierOf (s : State) (m : EngCmd) (ref : Nat) : Option (Fin 256 × Nat) :=
  let index := bitsOf ref 0 16
  if ref < 2 ^ 24 ∧ index < m.hdr.barriers then
    (launchCore s m.launch (bitsOf ref 16 8)).map fun c => (c, index)
  else none

/-- An operation on a barrier line on behalf of a context (R363). -/
def State.sendCount (s : State) (l : Option Nat) (part : Nat) (from_ owner : Fin 256) (index n : Nat) : State :=
  let o : MemOp :=
    { id := s.nextId, core := from_, launch := l, part := part, kind := .bar owner index (.count n),
      dpa := 0, va := 0, tag := part, na := false, ms := false, home := dieOf owner, side := false, win := none, num := 0, clk := Clk.zero,
      due := s.cycle + barLatency from_ owner, after := [], acq := false, diff := false, tape := none, parked := none,
      bad := none, result := none }
  { s with nextId := s.nextId + 1, memq := s.memq ++ [o] }

/-- A command completes: its tag is set with the first failure met, then its bytes are added to its
barrier, whatever the status (R370, R371). -/
def State.finishCmd (s : State) (m : EngCmd) (st : BitVec 8) (bar : Option BarCount) : State :=
  match bar with
  | none => s.completeCmd m.id st
  | some b =>
    match barrierOf s m b.ref with
    | none => s.completeCmd m.id (if st = stOk then stBarrierRange else st)
    | some (c, index) => (s.completeCmd m.id st).sendCount m.launch m.part m.core c index b.bytes

/-- Causes that a fault log entry records as taken by H. -/
def hFlag (c : Cause) : BitVec 8 := if c.cls = .toH then 2 else 0

/-- Park a command (R89): a fault log entry of the copy engine the first time, a retry 10 us of gang-active time later. -/
def State.parkCmd (s : State) (m : EngCmd) (c : Cause) (addr : Nat) : State :=
  let s := s.setCmd { m with parked := true, retry := s.retryClock m.launch + retryCycles }
  if m.parked then s
  else
    let s := s.logUnit c (hFlag c) m.part 1 m.core.val 0 (BitVec.ofNat 64 addr) (s.ctxOf m.launch m.core).gang
    s.countCtx m.launch m.core 10 1

/-- A command whose request waits at a channel, for the run that holds it (R187) or for a token, which its context's
token-wait counter counts (R91, R95). -/
def State.waitCmd (s : State) (m : EngCmd) (ch : Fin 256) : State :=
  let s := s.setCmd { m with due := s.cycle + 1, waitAt := some ch }
  if nbHolds s ch then s
  else s.countCtx m.launch m.core 9 1

/-- A command stops: it waits, parks or ends with a status. -/
def State.stopCmd (s : State) (m : EngCmd) (bar : Option BarCount) : EngStop → State
  | .wait ch => s.waitCmd m ch
  | .lock => s.setCmd { m with due := s.cycle + 1 }
  | .park c a => s.parkCmd m c a
  | .failed c a =>
    (s.logUnit c 2 m.part 1 m.core.val (failedStatus c).toNat (BitVec.ofNat 64 a) (s.ctxOf m.launch m.core).gang).finishCmd m
      (failedStatus c) bar
  | .fail st => s.finishCmd m st bar
  | .logged st c flags =>
    (s.logUnit c flags m.part 1 m.core.val st.toNat m.reel (s.ctxOf m.launch m.core).gang).finishCmd m st bar

/-- A line has moved: the next one moves a cycle later, or the command completes then (R369). -/
def State.lineMoved (s : State) (m : EngCmd) (last : Bool) : State :=
  s.setCmd { m with due := s.cycle + 1, movedAt := s.cycle, parked := false, ended := if last then some stOk else none }

/-- One step of a command that moves pieces: its next line (R194, R369), or its completion after the last. -/
def State.runPieces (s : State) (m : EngCmd) (own : List EngRange) (ps : List Piece) (bar : Option BarCount) : State :=
  match m.ended with
  | some st => s.finishCmd m st bar
  | none =>
    let (s', m', stop) := movePieces own s m (nextLine (ps.drop m.moved))
    match stop with
    | none => s'.lineMoved m' (decide (ps.length ≤ m'.moved))
    | some x => s'.stopCmd m' bar x

/-- Accesses and commands that must come first are done (R388, R396). -/
def afterDone (s : State) (ids : List Nat) : Bool :=
  !(s.memq.any fun o => ids.contains o.id) && !(s.cmds.any fun c => ids.contains c.id)

/-- A command can run: its reads wait on every write that Max(WC, RC) names (R206); a parked one for its next try, while
its launch is on its cores (R89, R116). -/
def EngCmd.ready (s : State) (m : EngCmd) : Bool :=
  decide (m.due ≤ s.cycle) && afterDone s m.after && (!m.parked || decide (m.retry ≤ s.retryClock m.launch)) &&
    s.perf.all fun p => Clk.le (Clk.max m.rc m.wc) p

/-- A command that moves lines through its core's engine (R369). -/
def EngCmd.moves (m : EngCmd) : Bool :=
  match m.op with
  | .cpy _ _ _ _ | .cpyp _ _ _ _ | .cstrp _ _ _ _ | .ctld _ _ _ _ | .ctst _ _ _ _ | .cqst _ _ _ _ | .cfill _ _ _ _
  | .czero _ _ _ | .cflush _ _ _ | .msat _ _ _ _ => true
  | _ => false

/-- It is a running command's turn on its core's engine (R369): no other has moved a line in this cycle, and none that
can run has waited longer. -/
def EngCmd.onTurn (s : State) (m : EngCmd) : Bool :=
  !m.moves || m.ended.isSome || s.cmds.all fun e =>
    e.core ≠ m.core || e.id = m.id || !e.moves || e.ended.isSome ||
      (decide (e.movedAt < s.cycle) && (!e.ready s || decide (m.movedAt < e.movedAt) ||
        (m.movedAt = e.movedAt && decide (m.id < e.id))))

/-- 64-byte lines that a range touches. -/
def linesOf (a n : Nat) : Nat := if n = 0 then 0 else (a + n - 1) / 64 + 1 - a / 64

end Sys2Proof.Machine
end

