-- ==== Sys2Proof/Machine/Copy.lean ====
section
/-! DEFINITION. Copies, fills, tile and queue transfers (R372-R380), taped and reversed copies (R241-R243,
R377, R416), and the completion of commands. -/

namespace Sys2Proof.Machine

/-! ### Differentiable ends (R242, R244, R377) -/

/-- What a footprint's differentiable bytes come to. -/
inductive EndDiff where
  | plain
  | region (r : DiffRegion)
  | mixed (e : EngAddr)
  deriving DecidableEq, Repr

/-- The region that a range lies in, touches in part, or does not touch. -/
def rangeDiff (k : Core) (x : EngRange) : EndDiff :=
  if !diffLevel k || x.2 = 0 then .plain else
  match regionAt k.hdr (!x.1.isSpad) x.1.num x.2 with
  | none => .plain
  | some r => if r.covers x.1.num x.2 then .region r else .mixed x.1

/-- The same of a list of ranges: all in one region, or none in any. -/
def footDiff (k : Core) : List EngRange → EndDiff
  | [] => .plain
  | [x] => rangeDiff k x
  | x :: xs =>
    let d := rangeDiff k x
    if d = footDiff k xs then d else .mixed x.1

/-- The first differentiable address of a footprint, where a cause forbids any. -/
def firstDiff (k : Core) (rs : List EngRange) : Option EngAddr :=
  (rs.find? fun x => rangeDiff k x ≠ .plain).map (·.1)

def needNoDiff {α : Type} (s : State) (rs : List EngRange) (c : Cause) (k : SlotRes α) : SlotRes α :=
  match firstDiff s.pre rs with
  | some e => raise s c e.info
  | none => k

/-! ### Runs of copies -/

/-- One run of a copy: destination, source, bytes. -/
structure Run where
  dst : EngAddr
  src : EngAddr
  len : Nat
  deriving DecidableEq, Repr

def cpyLen (c : Word) : Nat := bitsOf c.toNat 0 32
def cpyBar (c : Word) : Option BarCount :=
  if c.getLsbD 56 then some ⟨bitsOf c.toNat 32 24, cpyLen c⟩ else none

/-- Blocks of a CPYP: destination at the offset, source 64 bytes on (R373). -/
def pairDst (b : List Byte) : List Byte := b.take 64
def pairSrc (b : List Byte) : List Byte := b.drop 64
def pairUnit (b : List Byte) : Nat := 2 ^ fieldLE b 50 1

/-- Unit `n` of a pattern. -/
def unitAddr (base : Word) (blk : List Byte) (n : Nat) : EngAddr := engAddrOf (blkAddr blk base n)

def pairRuns (a b : Word) (blk : List Byte) : List Run :=
  (List.range (blkTotal (pairDst blk))).map fun n =>
    ⟨unitAddr a (pairDst blk) n, unitAddr b (pairSrc blk) n, pairUnit blk⟩

/-- Join consecutive units of one innermost loop of the destination that adjoin there (R240, R377). -/
def joinUnits (inner : Nat) : List (Nat × EngAddr × Nat) → List (EngAddr × Nat)
  | [] => []
  | (n, e, l) :: rest =>
    match joinUnits inner rest with
    | (e', l') :: more =>
      if (n + 1) % inner ≠ 0 ∧ e' = e.plus l then (e, l + l') :: more else (e, l) :: (e', l') :: more
    | [] => [(e, l)]

/-- Fields of a striping block (R374). -/
def strW (b : List Byte) : Nat := 2 ^ fieldLE b 12 1
def strRows (b : List Byte) : Nat := fieldLE b 4 4
def strPitch (b : List Byte) : Nat := fieldLE b 8 4
def strRow0 (b : List Byte) : Nat := fieldLE b 0 4

/-- Offset of a matrix row in the bank-striped layout (R176). -/
def stripeOff (w i : Nat) : Nat :=
  let p := 2048 / w
  65536 * (i / 32 / p) + 2048 * (i % 32) + w * (i / 32 % p)

def stripeRuns (a b : Word) (blk : List Byte) : List Run :=
  (List.range (strRows blk)).map fun r =>
    let row := (engAddrOf a).plus (strPitch blk * r)
    let str := (engAddrOf b).plus (stripeOff (strW blk) (strRow0 blk + r))
    if fieldLE blk 13 1 = 0 then ⟨str, row, strW blk⟩ else ⟨row, str, strW blk⟩

/-- The runs of a copy command. -/
def copyRuns (m : EngCmd) : List Run :=
  match m.op with
  | .cpy _ _ _ _ => [⟨engAddrOf m.a, engAddrOf m.b, cpyLen m.c⟩]
  | .cpyp _ _ _ _ => pairRuns m.a m.b m.block
  | .cstrp _ _ _ _ => stripeRuns m.a m.b m.block
  | _ => []

/-- Bytes that a copy's completion counts (R371). -/
def copyBar (m : EngCmd) : Option BarCount :=
  match m.op with
  | .cpy _ _ _ _ => cpyBar m.c
  | .cpyp _ _ _ _ =>
    if (fieldLE m.block 49 1).testBit 0 then
      some ⟨fieldLE m.block 56 8, blkTotal (pairDst m.block) * pairUnit m.block⟩ else none
  | .cstrp _ _ _ _ =>
    if (fieldLE m.block 14 1).testBit 0 then some ⟨fieldLE m.block 16 8, strRows m.block * strW m.block⟩
    else none
  | _ => none

/-- The contiguous ranges that its records name (R240). -/
def recordRuns (m : EngCmd) : List EngRange :=
  match m.op with
  | .cpyp _ _ _ _ =>
    let d := pairDst m.block
    joinUnits (blkCount d 0) ((List.range (blkTotal d)).map fun n => (n, unitAddr m.a d n, pairUnit m.block))
  | _ => (copyRuns m).map fun r => (r.dst, r.len)

def recordsSize (rs : List EngRange) : Nat := (rs.map fun r => recordSize r.2).foldl (· + ·) 0

/-! ### Issue of a copy -/

/-- The differentiable part of a copy's issue (R377, R241-R243), then its start. -/
def issueCopy (s : State) (m : EngCmd) : SlotRes Unit :=
  let runs := copyRuns m
  let dsts := runs.map fun r => (r.dst, r.len)
  let srcs := runs.map fun r => (r.src, r.len)
  needFootprint s (dsts ++ srcs) <|
  let rew := s.pre.rewinding && diffLevel s.pre
  let m := { m with diff := diffFoot s.pre (dsts ++ srcs) }
  match footDiff s.pre dsts, footDiff s.pre srcs with
  | .mixed e, _ => raise s .diffShape e.info
  | _, .mixed e => raise s .diffShape e.info
  | .plain, .plain => .ok () (s.startCmd m)
  | .plain, .region _ => .ok () (s.startCmd { m with rewind := rew, diff := true })
  | .region r, src =>
    match src with
    | .region q =>
      if q.type ≠ r.type then raise s .diffShape ((srcs.headD (engAddrOf 0, 0)).1).info
      else tape rew m
    | _ => tape rew m
where
  tape (rew : Bool) (m : EngCmd) : SlotRes Unit :=
    let z := recordsSize (recordRuns m)
    let ptr := reelPtr s.cur
    if rew then
      .ok () ((s.startCmd { m with rewind := true, diff := true, reel := s.cur.reelPtr }).upd
        fun k => k.setReelPtr (ptr + 2 ^ 48 - z % 2 ^ 48))
    else match reserveReel s s.issue.core z with
      | .error (e, info) => raise s e info
      | .ok segs =>
        .ok () ((s.startCmd { m with diff := true, reel := s.cur.reelPtr, segs := segs }).upd
          fun k => k.setReelPtr (ptr + z))

def execCpy (g : Fin 64) (a b : SSpec) (c : SOpnd) (s : State) : Host.Outcome State Fault Refusal :=
  finish s ((readS s a 0).bind fun x s => (readS s b 1).bind fun y s => (readSO s c 2).bind fun z s =>
    needTag s g <|
    need s (cpyLen z ≠ 0 && bitsOf z.toNat 58 6 = 0) .operandReserved (opndInfo 0 2) <|
    needAddr s x 0 fun _ => needAddr s y 1 fun _ =>
    issueCopy s (newCmd s (.cpy g a b c) (some g) x y z))

/-- The form of a pattern pair (R373). -/
def pairOkForm (b : List Byte) : Bool :=
  let d := pairDst b
  let x := pairSrc b
  (List.range 4).all (fun i => blkCount d i ≠ 0 && blkCount x i ≠ 0) && fieldLE d 48 1 = 0 &&
    fieldLE d 49 1 < 4 && fieldLE d 50 1 ≤ 11 && fieldLE d 51 5 = 0 && fieldLE x 48 16 = 0 &&
    blkTotal d = blkTotal x

def execCpyp (g : Fin 64) (a b : SSpec) (c : SOpnd) (s : State) : Host.Outcome State Fault Refusal :=
  finish s ((readS s a 0).bind fun x s => (readS s b 1).bind fun y s => (readSO s c 2).bind fun z s =>
    needTag s g <|
    needBlock s z 128 fun blk =>
    need s (pairOkForm blk) .operandReserved (opndInfo 0 2) <|
    needAddr s x 0 fun _ => needAddr s y 1 fun _ =>
    issueCopy s { newCmd s (.cpyp g a b c) (some g) x y z with block := blk })

/-- The form of a striping block (R374). -/
def stripeOkForm (b : List Byte) : Bool :=
  let w := fieldLE b 12 1
  strRows b ≠ 0 && 6 ≤ w && w ≤ 11 && strPitch b % 64 = 0 && decide (2 ^ w ≤ strPitch b) &&
    fieldLE b 13 1 < 2 && fieldLE b 14 1 < 4 && fieldLE b 15 1 = 0 && fieldLE b 24 40 = 0

def execCstrp (g : Fin 64) (a b : SSpec) (c : SOpnd) (s : State) : Host.Outcome State Fault Refusal :=
  finish s ((readS s a 0).bind fun x s => (readS s b 1).bind fun y s => (readSO s c 2).bind fun z s =>
    needTag s g <|
    needBlock s z 64 fun blk =>
    need s (stripeOkForm blk) .operandReserved (opndInfo 0 2) <|
    needAddr s x 0 fun _ => needAddr s y 1 fun eb =>
    need s ((engAddrOf x).num % 64 = 0) .misaligned (engAddrOf x).info <|
    need s (eb.num % 2 ^ 21 = 0) .misaligned eb.info <|
    issueCopy s { newCmd s (.cstrp g a b c) (some g) x y z with block := blk })

/-- A CSTRP moves nothing unless its page is a compute-capable one, named by a VA, that holds its rows
(R374). -/
def stripePage (s : State) (m : EngCmd) : EngRes Bool :=
  if m.level = .h || (engAddrOf m.b).isSpad then .ok false
  else match engPhys s m .read (engAddrOf m.b).num with
    | .error x => .error x
    | .ok p => .ok (p.mtype = 2 && !p.host &&
        decide (strRow0 m.block + strRows m.block ≤ 1024 * (2048 / strW m.block)))

/-! ### Taped copies: the records (R241) -/

/-- Old bytes of a range, from memory as it stands, and whether a line of it has failed. -/
def oldBytes (s : State) (m : EngCmd) : List Piece → EngRes (List Byte × Bool)
  | [] => .ok ([], false)
  | p :: ps =>
    match engRead s m p.dst p.len, oldBytes s m ps with
    | .ok (bs, _), .ok (rest, bad) => .ok (bs ++ rest, bad)
    | .error (.failed _ _), .ok (rest, _) => .ok (List.replicate p.len 0 ++ rest, true)
    | .error (.fail _), .ok (rest, bad) => .ok (List.replicate p.len 0 ++ rest, bad)
    | .error x, _ => .error x
    | _, .error x => .error x

/-- Write the records of a taped command before its bytes. -/
def tapeRecords (s : State) (m : EngCmd) (kind : Nat) : List Seg → List EngRange → EngRes State
  | _, [] => .ok s
  | segs, (e, n) :: rest =>
    match oldBytes s m (rangeLines (e, n)) with
    | .error x => .error x
    | .ok (old, bad) =>
      let z := recordSize n
      let r := reelRecord e.info n kind old bad
      let total := (segs.map (·.len)).foldl (· + ·) 0
      tapeRecords (s.pokeSegs m.req.tag (sliceSegs segs 0 z) r) m kind (sliceSegs segs z (total - z)) rest

/-- The records of a taped command are written before its first line; a command taped or untaped has none left. -/
def State.taped (s : State) (m : EngCmd) (kind : Nat) (rs : List EngRange) : EngRes (State × EngCmd) :=
  if m.segs.isEmpty then .ok (s, m) else (tapeRecords s m kind m.segs rs).map fun s => (s, { m with segs := [] })

/-- KIND of the records of copies, CTST and CQST (R240). -/
def recCtst : Nat := 3
def recCqst : Nat := 4
def recCopy : Nat := 5

/-! ### Reversed copies (R242, R243, R416) -/

/-- Addresses of the elements of a region whose first byte lies in a range. -/
def elemsIn (r : DiffRegion) (a n : Nat) : List Nat :=
  (List.range n).filterMap fun i =>
    if r.base ≤ a + i ∧ (a + i - r.base) % r.esize = 0 ∧ a + i < r.base + r.len then some (a + i) else none

/-- Where a cell lies: in the scratchpad, or in HBM. -/
inductive CellPlace where
  | spad (off : Nat)
  | hbm (p : Phys)
  deriving DecidableEq, Repr

/-- Reach an element's cell (R416). -/
def cellPlace (s : State) (m : EngCmd) (r : DiffRegion) (a : Nat) : EngRes (CellPlace × State) :=
  let c := r.cell a
  if !r.hbm then
    match s.reachSpad m c 4 with
    | .error x => .error x
    | .ok s =>
      if ((s.coreAt m.core).failedLine c 4).isSome then .error (engStop .uncorrectable (EngAddr.spad c).info.toNat)
      else .ok (.spad c, s)
  else match engPhys s m .write c with
    | .error x => .error x
    | .ok p =>
      let side : Bool := p.mtype ≠ 0
      if p.diff then .error (.logged stDiff .diffKind 0)
      else if p.host then .error (.logged stAccessKind .accessKind 0)
      else match busyChan s m.part (accessChans s m.req p.addr side .atomic),
                 sideFault s m.req.tag p.addr side with
        | some ch, _ => .error (.wait ch)
        | none, some x => .error (engStop x c)
        | none, none => .ok (.hbm p, s.engTlb m c)

/-- Read and clear one cell: its FP32 code. -/
def takeCell (s : State) (m : EngCmd) (r : DiffRegion) : CellPlace → Nat × State
  | .spad o =>
    let k := s.coreAt m.core
    (cellValue r (k.spad.readLE o 4), s.mapCore m.core fun k => k.spadWriteBy m.launch o [0, 0, 0, 0])
  | .hbm p => s.clearCell m.req r p

/-- Accumulate an FP32 code into a cell. -/
def giveCell (s : State) (m : EngCmd) (r : DiffRegion) (x : CellPlace) (v : Nat) : State :=
  let code (old : Nat) : Nat × Bool := accumCode old r.a32 r.anchor (BitVec.ofNat 32 v)
  let asat (s : State) (old : Nat) : State := if (code old).2 then s.updCtx m.launch m.core Core.setAsat else s
  match x with
  | .spad o =>
    let old := (s.coreAt m.core).spad.readLE o 4
    asat (s.mapCore m.core fun k => k.spadWriteBy m.launch o (natToBytes 4 (code old).1)) old
  | .hbm p =>
    let side : Bool := p.mtype ≠ 0
    let s := (s.applyLine p.addr).access m.req p.addr side .atomic
    let old := s.lookLE m.req.tag p.addr 4 side
    asat (s.put m.req.tag p.addr (natToBytes 4 (code old).1) side) old

/-- The cells of a list of elements, all of them reached before any effect. -/
def placesOf (s : State) (m : EngCmd) (r : DiffRegion) : List Nat → EngRes (List CellPlace × State)
  | [] => .ok ([], s)
  | a :: rest =>
    match cellPlace s m r a with
    | .error e => .error e
    | .ok (x, s) => (placesOf s m r rest).map fun (l : List CellPlace × State) => (x :: l.1, l.2)

/-- Check the records of ranges, last written first: their old bytes. -/
def popAll (s : State) (k : Core) (tr : Nat → XRes Phys) (kind : Nat) :
    Nat → List EngRange → Except (Cause × Word) (List (EngAddr × List Byte) × Nat)
  | ptr, [] => .ok ([], ptr)
  | ptr, (e, n) :: rest =>
    match popRecord s k tr ptr e.info n kind with
    | .error x => .error x
    | .ok (old, start) =>
      match popAll s k tr kind start rest with
      | .error x => .error x
      | .ok (l, p) => .ok ((e, old) :: l, p)

/-- Write bytes over a range, line by line. -/
def writeRange (s : State) (m : EngCmd) (e : EngAddr) (bs : List Byte) : EngRes State :=
  (cutRun (bs.length + 1) e (.data bs) bs.length).foldl (fun r p => match r, p.src with
    | .ok s, .data d => engWrite s m p.dst d
    | r, _ => r) (.ok s)

/-- Write old bytes back over their ranges. -/
def writeBack (s : State) (m : EngCmd) (olds : List (EngAddr × List Byte)) : EngRes State :=
  olds.foldl (fun (r : EngRes State) (x : EngAddr × List Byte) => match r with
    | .ok s => writeRange s m x.1 x.2
    | r => r) (.ok s)

/-- Accumulate codes of a region's type into cells. -/
def giveAll (s : State) (m : EngCmd) (r : DiffRegion) (xs : List CellPlace) (vs : List Nat) : State :=
  (xs.zip vs).foldl (fun s (x, v) => giveCell s m r x v) s

def takeAll (s : State) (m : EngCmd) (r : DiffRegion) (xs : List CellPlace) : List Nat × State :=
  xs.foldl (fun (acc : List Nat × State) x =>
    let (v, s) := takeCell acc.2 m r x
    (acc.1 ++ [v], s)) ([], s)

/-- Read lines in order. -/
def readLines (m : EngCmd) : State → List Piece → EngRes (List Byte × State)
  | s, [] => .ok ([], s)
  | s, p :: ps =>
    match engRead s m p.dst p.len with
    | .error x => .error x
    | .ok (b, s) => (readLines m s ps).map fun (r : List Byte × State) => (b ++ r.1, r.2)

/-- Where a copy puts the byte at an address of its source, or has that of its destination from; a later unit prevails
(R373). -/
def otherEnd (ps : List Piece) (ofSrc : Bool) (a : EngAddr) : Option EngAddr :=
  ps.reverse.findSome? fun p => match p.src with
    | .data _ => none
    | .from_ e =>
      let (x, y) := if ofSrc then (e, p.dst) else (p.dst, e)
      if x.isSpad = a.isSpad ∧ x.num ≤ a.num ∧ a.num < x.num + p.len then some (y.plus (a.num - x.num)) else none

/-- The other ends of the bytes of a piece's last element that lie beyond the piece of `n` bytes at `e`. What the copy does not
move has none. DESIGN CHOICE: log entry 46. -/
def tailEnds (ps : List Piece) (ofSrc : Bool) (e : EngAddr) (n esize : Nat) (es : List Nat) : List EngAddr :=
  match es.getLast? with
  | none => []
  | some a => (List.range (a + esize - (e.num + n))).filterMap fun i => otherEnd ps ofSrc (e.plus (n + i))

/-- One piece of a reversed copy, its records already checked (R242, R243): `old` are the bytes that its record holds, `ps` all
the pieces. An element goes with the piece of its first byte. -/
def reversePiece (s : State) (m : EngCmd) (ps : List Piece) (dr sr : Option DiffRegion) (old : List Byte) (d x : EngAddr)
    (n : Nat) : EngRes State :=
  match dr, sr with
  | some q, none =>
    -- ordinary to region: the cleared cells go over the source bytes
    let es := elemsIn q d.num n
    match placesOf s m q es with
    | .error e => .error e
    | .ok (xs, s) =>
      let (vs, s) := takeAll s m q xs
      let bytes := vs.flatMap fun v => natToBytes q.esize (narrowFrom32 q.type v)
      let off := es.headD d.num - d.num
      match writeRange s m d old with
      | .error e => .error e
      | .ok s => ((tailEnds ps false d n q.esize es).zip (bytes.drop (n - off))).foldl
          (fun (r : EngRes State) b => r.bind fun s => engWrite s m b.1 [b.2])
          (writeRange s m (x.plus off) (bytes.take (n - off)))
  | some q, some p =>
    let es := elemsIn q d.num n
    match placesOf s m q es with
    | .error e => .error e
    | .ok (xs, s) => match placesOf s m p (es.map fun a => x.num + (a - d.num)) with
      | .error e => .error e
      | .ok (ys, s) =>
        let (vs, s) := takeAll s m q xs
        (writeRange s m d old).map fun s => giveAll s m p ys vs
  | none, some p =>
    -- region to ordinary: the destination bytes go into the source's cells
    let es := elemsIn p x.num n
    let tail : List Piece := (tailEnds ps true x n p.esize es).map fun e => ⟨e, .data [0], 1⟩
    match placesOf s m p es with
    | .error e => .error e
    | .ok (ys, s) => (readLines m s (⟨d, .data [], n⟩ :: tail)).map fun (r : List Byte × State) =>
      giveAll r.2 m p ys (es.map fun a => widenTo32 p.type (fieldLE r.1 (a - x.num) p.esize))
  | none, none => .ok s

/-- The region of an end of a command, as judged at issue. -/
def endRegion (s : State) (m : EngCmd) (x : EngRange) : Option DiffRegion :=
  match rangeDiff (m.ctx s) x with
  | .region r => some r
  | _ => none

/-- The pieces of a copy, in order. -/
def copyPieces (m : EngCmd) : List Piece :=
  (copyRuns m).flatMap fun r => cutRun (r.len + 1) r.dst (.from_ r.src) r.len

/-- The engine's translation of a reel (R416). -/
def engXlate (s : State) (m : EngCmd) (a : Nat) : XRes Phys :=
  checkFound s m.part m.level .atomic a (lookupQuad s (quadOf m.core) m.part a)

/-- What a record that is not as it must be does to a copy (R243, R234): it ends, and the cause is logged to S. -/
def recordStop (c : Cause) (a : Nat) : EngStop :=
  match c with
  | .reelEmpty => .logged stReelMismatch .reelEmpty 0
  | .reelMismatch => .logged stReelMismatch .reelMismatch 0
  | .diffKind => .logged stDiff .diffKind 0
  | .accessKind => .logged stAccessKind .accessKind 0
  | c => engStop c a

/-- The records of a reversed copy, checked in its engine before anything is restored (R243); the old bytes in the order
of the copy. A reversed copy that has its records holds them. -/
def State.reelRead (s : State) (m : EngCmd) : EngRes EngCmd :=
  match (copyRuns m).head?.bind fun r => endRegion s m (r.dst, r.len) with
  | none => .ok m
  | some _ =>
    if m.bytes ≠ [] then .ok m
    else match popAll s (m.ctx s) (engXlate s m) recCopy (bitsOf m.reel.toNat 4 44 * 16) (recordRuns m).reverse with
      | .error (c, a) => .error (recordStop c a.toNat)
      | .ok (olds, _) => .ok { m with bytes := olds.reverse.flatMap (·.2) }

/-- A step of a copy in REWIND (R242): every record is checked, then its pieces are reversed from the last to the first,
one a step. -/
def State.reverseCopy (s : State) (m : EngCmd) : State :=
  match m.ended with
  | some st => s.finishCmd m st (copyBar m)
  | none =>
    let runs := copyRuns m
    let dr := runs.head?.bind fun r => endRegion s m (r.dst, r.len)
    let sr := runs.head?.bind fun r => endRegion s m (r.src, r.len)
    match s.reelRead m with
    | .error x => s.stopCmd m (copyBar m) x
    | .ok m =>
      let ps := (copyPieces m).reverse
      match ps.drop m.moved with
      | [] => s.lineMoved m true
      | p :: rest =>
        let at_ := (rest.map (·.len)).foldl (· + ·) 0
        match p.src with
        | .data _ => s.lineMoved m true
        | .from_ x => match reversePiece s m (copyPieces m) dr sr ((m.bytes.drop at_).take p.len) p.dst x p.len with
          | .ok s => s.lineMoved { m with moved := m.moved + 1 } rest.isEmpty
          | .error e => s.stopCmd m (copyBar m) e

/-- A step of a copy (R372-R374, R377). -/
def State.runCopy (s : State) (m : EngCmd) : State :=
  let page : EngRes Bool := match m.op, m.ended with
    | .cstrp _ _ _ _, none => stripePage s m
    | _, _ => .ok true
  match page with
  | .error x => s.stopCmd m (copyBar m) x
  | .ok false => s.finishCmd m stNbRange (copyBar m)
  | .ok true =>
    if m.rewind then s.reverseCopy m
    else match s.taped m recCopy (recordRuns m) with
      | .error x => s.stopCmd m (copyBar m) x
      | .ok (s, m) => s.runPieces m ((copyRuns m).map fun r => (r.src, r.len)) (copyPieces m) (copyBar m)

/-! ### CFILL, CZERO, CPREF, CFLUSH (R375, R376) -/

def execCfill (g : Fin 64) (a b : SSpec) (c : SOpnd) (s : State) : Host.Outcome State Fault Refusal :=
  finish s ((readS s a 0).bind fun x s => (readS s b 1).bind fun y s => (readSO s c 2).bind fun z s =>
    needTag s g <|
    need s (cpyLen z ≠ 0 && bitsOf z.toNat 58 6 = 0) .operandReserved (opndInfo 0 2) <|
    needAddr s x 0 fun ea =>
    need s (ea.num % 8 = 0 && cpyLen z % 8 = 0) .misaligned ea.info <|
    needFootprint s [(ea, cpyLen z)] <|
    needNoDiff s [(ea, cpyLen z)] .diffKind <|
    .ok () (s.startOn (newCmd s (.cfill g a b c) (some g) x y z) [(ea, cpyLen z)]))

def execCzero (g : Fin 64) (a : SSpec) (c : SOpnd) (s : State) : Host.Outcome State Fault Refusal :=
  finish s ((readS s a 0).bind fun x s => (readSO s c 2).bind fun z s =>
    needTag s g <|
    need s (cpyLen z ≠ 0 && bitsOf z.toNat 58 6 = 0) .operandReserved (opndInfo 0 2) <|
    needAddr s x 0 fun ea =>
    need s (ea.num % 64 = 0 && cpyLen z % 64 = 0) .misaligned ea.info <|
    needFootprint s [(ea, cpyLen z)] <|
    needNoDiff s [(ea, cpyLen z)] .diffKind <|
    .ok () (s.startOn (newCmd s (.czero g a c) (some g) x 0 z) [(ea, cpyLen z)]))

/-- A line of memory is requested into L2 by an engine (R376): one that does not translate, or that lies in the scratchpad,
is left; an expanded line is built. -/
def State.prefetch (s : State) (m : EngCmd) (a : Nat) : State :=
  match engWindow s m a with
  | some (i, w) =>
    if (busyChan s m.part (winChans s m.req i w a)).isSome then s
    else ((s.engTlbWin m w a).applyStored m.part w a).accessWin m.req i w a
  | none => match engPhys s m .read a with
    | .error _ => s
    | .ok p =>
      if p.host || p.mtype ≠ 0 || (busyChan s m.part (accessChans s m.req p.addr false .read)).isSome then s
      else ((s.engTlb m a).applyLine p.addr).access m.req p.addr false .read

/-- CPREF changes no value and ends at once (R376). A request that would wait at its channel is dropped. DESIGN CHOICE: log
entry 38. -/
def execCpref (a : SSpec) (c : SOpnd) (s : State) : Host.Outcome State Fault Refusal :=
  finish s ((readS s a 0).bind fun x s => (readSO s c 2).bind fun z s =>
    need s (cpyLen z ≠ 0 && cpyLen z ≤ 2 ^ 20 && bitsOf z.toNat 32 32 = 0) .operandReserved (opndInfo 0 2) <|
    needAddr s x 0 fun e => .ok () (match e with
      | .spad _ => s
      | .mem _ =>
        let m := newCmd s (.cpref a c) none x 0 z
        (rangeLines (e, cpyLen z)).foldl (fun s p => s.prefetch m p.dst.num) s))

def execCflush (g : Fin 64) (a : SSpec) (c : SOpnd) (s : State) : Host.Outcome State Fault Refusal :=
  finish s ((readS s a 0).bind fun x s => (readSO s c 2).bind fun z s =>
    needTag s g <|
    need s (cpyLen z ≠ 0 && bitsOf z.toNat 32 32 = 0) .operandReserved (opndInfo 0 2) <|
    needAddr s x 0 fun ea =>
    need s (!ea.isSpad) .operandReserved (opndInfo 0 0) <|
    .ok () (s.startCmd (newCmd s (.cflush g a c) (some g) x 0 z)))

/-- The 8-byte value repeated over one piece; pieces start and end at multiples of 8. -/
def fillBytes (v : Word) (n : Nat) : List Byte :=
  ((List.replicate (n / 8 + 1) (natToBytes 8 v.toNat)).flatten).take n

def State.runFill (s : State) (m : EngCmd) : State :=
  let n := cpyLen m.c
  s.runPieces m [] (cutRun (n + 1) (engAddrOf m.a) (.data (fillBytes m.b n)) n) (cpyBar m.c)

/-- One line of a CFLUSH (R376): the line that L2 holds under the requester's tag is written back and leaves, combining
entries of a memory-side line are applied, an expanded line is dropped. -/
def flushLine (s : State) (m : EngCmd) (a : Nat) : EngRes State :=
  match engWindow s m a with
  | some (i, w) =>
    match busyChan s m.part ((storedPlaces s m.part w a).map fun x => Fin.ofNat 256 (chanOf x)), s.l2Win m.req.tag i (a / 64) with
    | _, none => .ok s
    | some ch, some _ => .error (.wait ch)
    | none, some _ => .ok (s.flushLines m.req fun e => e.tag = m.req.tag && e.win = some i && e.line = a / 64)
  | none => match engPhys s m .read a with
    | .error x => .error x
    | .ok p =>
      if p.host then .ok s
      else if p.mtype ≠ 0 then .ok ((s.engTlb m a).applyLine p.addr)
      else match s.l2At m.req.tag (p.addr / 64), busyChan s m.part [Fin.ofNat 256 (chanOf p.addr)] with
        | none, _ => .ok (s.engTlb m a)
        | some e, some ch => if e.dirty then .error (.wait ch) else
          .ok ((s.engTlb m a).dropLines fun e => e.tag = m.req.tag && e.win = none && e.line = p.addr / 64)
        | some _, none =>
          .ok ((s.engTlb m a).flushLines m.req fun e => e.tag = m.req.tag && e.win = none && e.line = p.addr / 64)

/-- A step of a CFLUSH: its next line. -/
def State.runFlush (s : State) (m : EngCmd) : State :=
  match m.ended with
  | some st => s.finishCmd m st none
  | none => match (rangeLines (engAddrOf m.a, cpyLen m.c)).drop m.moved with
    | [] => s.lineMoved m true
    | p :: rest => match flushLine s m p.dst.num with
      | .ok s => s.lineMoved { m with moved := m.moved + 1 } rest.isEmpty
      | .error x => s.stopCmd m none x

/-! ### Tile transfers (R378, R379) -/

/-- The tile control's fields. -/
def tcT (c : Word) : Bool := c.getLsbD 0
def tcSkew (c : Word) : Bool := c.getLsbD 1
def tcScl (c : Word) : Bool := c.getLsbD 2
def tcBar (c : Word) : Bool := c.getLsbD 3
def tcSoff (c : Word) : Int := signed 32 (bitsOf c.toNat 32 32)

/-- Data bytes of a tile. -/
def tileLen (cfg : BitVec 64) : Nat := tcfgRows cfg * tcfgRbytes cfg

/-- Bytes of a transfer's data footprint: whole blocks in the skewed layout (R158). -/
def tileFoot (cfg : BitVec 64) (c : Word) : Nat :=
  if tcSkew c then
    let (r, b) := storedShape cfg (tcT c)
    1024 * (((b + 63) / 64) * ((r + 15) / 16))
  else tileLen cfg

/-- Bit offset, from the transfer's address, of the bit that is bit `x` of the tile's row `r` (R158,
R378). -/
def tileBit (cfg : BitVec 64) (c : Word) (r x : Nat) : Nat :=
  if tcSkew c then
    let w := tileWidth cfg
    let (row, bit) := if tcT c then (x / w, w * r + x % w) else (r, x)
    let blocks := ((storedShape cfg (tcT c)).2 + 63) / 64
    let word := bit / 32
    let off := 1024 * (row / 16 * blocks + word / 16) + 64 * (row % 16) + 4 * ((row % 16 + word % 16) % 16)
    8 * off + bit % 32
  else 8 * (r * tcfgRbytes cfg) + x

/-- The scale bytes' address. -/
def scaleAddr (b c : Word) : EngAddr :=
  engAddrOf (b + BitVec.ofInt 64 (tcSoff c))

/-- Ranges of a tile transfer: its data, then its scales. -/
def tileRanges (cfg : BitVec 64) (b c : Word) : List EngRange :=
  (engAddrOf b, tileFoot cfg c) :: (if tcScl c then [(scaleAddr b c, 512)] else [])

/-- The bytes of a tile as its transfer lays them out, over what the footprint holds. -/
def layTile (cfg : BitVec 64) (c : Word) (tile : Mem) (old : List Byte) : List Byte :=
  if !tcSkew c then tile.readBytes 0 (tileLen cfg) else
  let unit := min 8 (tileWidth cfg)
  let per := 8 * tcfgRbytes cfg / unit
  let cells := (List.range (tcfgRows cfg * per)).foldl (fun (m : Mem) n =>
    let r := n / per
    let x := unit * (n % per)
    let from_ := 8 * (r * tcfgRbytes cfg) + x
    let to_ := tileBit cfg c r x
    let v := bitsOf (tile.read (from_ / 8)).toNat (from_ % 8) unit
    let o := (m.read (to_ / 8)).toNat
    let o' := o - bitsOf o (to_ % 8) unit * 2 ^ (to_ % 8) + v * 2 ^ (to_ % 8)
    m.write (to_ / 8) (BitVec.ofNat 8 o')) (Mem.writeBytes [] 0 old)
  cells.readBytes 0 old.length

/-- The tile that a transfer's footprint holds. -/
def gatherTile (cfg : BitVec 64) (c : Word) (foot : List Byte) : List Byte :=
  if !tcSkew c then foot else
  let m : Mem := Mem.writeBytes [] 0 foot
  let unit := min 8 (tileWidth cfg)
  (List.range (tileLen cfg)).map fun i =>
    let r := i / tcfgRbytes cfg
    let x := 8 * (i % tcfgRbytes cfg)
    let part (o : Nat) : Nat :=
      let b := tileBit cfg c r (x + o)
      bitsOf (m.read (b / 8)).toNat (b % 8) unit * 2 ^ o
    BitVec.ofNat 8 (if unit = 8 then part 0 else part 0 + part 4)

/-- The operand and tile checks of a transfer (R368, R378, R379). -/
def tileChecks (s : State) (load : Bool) (n : Fin 8) (y z : Word) (k : BitVec 64 → SlotRes Unit) : SlotRes Unit :=
  let cfg := (s.pre.tiles[n]).cfg
  needAddr s y 1 fun e =>
  need s (!(tcSkew z && !e.isSpad) && !(tcT z && !tcSkew z) && bitsOf z.toNat 5 3 = 0)
    .operandReserved (opndInfo 0 2) <|
  need s (e.num % (if tcSkew z then 1024 else 64) = 0) .misaligned e.info <|
  need s (!tcScl z || tcSoff z % 64 = 0) .misaligned (scaleAddr y z).info <|
  needFootprint s (tileRanges cfg y z) <|
  need s (load || (tileRanges cfg y z).all fun (x, len) => match x with
      | .spad o => !touchesBarrier s.pre.hdr o len
      | .mem _ => true) .barrierStore e.info <|
  need s (!(s.pre.tiles[n]).released && !(tcT z && tcfgRows cfg * tileWidth cfg % 32 ≠ 0)) .tileConfig 0 <|
  need s (!tileLoading s n && !(load && s.cur.mops.any fun o => (tilesNamed o.op).contains n)) .tileBusy 0 <|
  k cfg

/-- The cycle in which a transfer's bytes have moved, with a scratchpad end: the one before its completion (R378), in
which the lock ends (R159). A memory end moves from then on, line by line. -/
def tileDue (s : State) (cfg : BitVec 64) (y z : Word) : Nat :=
  if (engAddrOf y).isSpad then s.cycle + 2 + tileBlocks cfg (tcT z) else s.cycle + 4

/-- The region of a transfer's data, and its agreement with the tile's TYPE. -/
def tileDiff (s : State) (cfg : BitVec 64) (y z : Word) : Except Word (Option DiffRegion) :=
  match footDiff s.pre (tileRanges cfg y z) with
  | .plain => .ok none
  | .mixed e => .error e.info
  | .region r => if tileType (tcfgType cfg) = some r.type then .ok (some r) else .error (engAddrOf y).info

def execCtld (g : Fin 64) (n : Fin 8) (b : SSpec) (c : SOpnd) (s : State) : Host.Outcome State Fault Refusal :=
  finish s ((readS s b 1).bind fun y s => (readSO s c 2).bind fun z s =>
    needTag s g <|
    tileChecks s true n y z fun cfg =>
    match tileDiff s cfg y z with
    | .error info => raise s .diffShape info
    | .ok r =>
      let m := newCmd s (.ctld g n b c) (some g) 0 y z
      .ok () (s.startOn { m with due := tileDue s cfg y z, rewind := r.isSome && s.pre.rewinding, cfg := cfg }
        (tileRanges cfg y z)))

/-- Tile data and scales after a load. -/
def loadedTile (t : Tile) (data scales : List Byte) : Tile :=
  { t with bytes := (Mem.writeBytes (Mem.writeBytes t.bytes 0 data) 16384 scales) }

/-- Whether a region's elements of a transfer, tile element by tile element: value code and address. -/
def tileElems (t : Tile) (y z : Word) : List (Nat × Nat) :=
  let w := tileWidth t.cfg
  let per := 8 * tcfgRbytes t.cfg / w
  (List.range (tcfgRows t.cfg * per)).map fun n =>
    (tileElem t w (n / per) (n % per), (engAddrOf y).num + tileBit t.cfg z (n / per) (w * (n % per)) / 8)

/-- A line of a transfer's footprint holds a word of the tile: those of padded rows are never read or written (R158). -/
def lineUsed (cfg : BitVec 64) (c : Word) (base : EngAddr) (p : Piece) : Bool :=
  let l := (p.dst.num - base.num) / 64
  let (rows, bytes) := storedShape cfg (tcT c)
  !tcSkew c || decide (l / 16 / max 1 ((bytes + 63) / 64) * 16 + l % 16 < rows)

/-- A line of a skewed footprint that a transfer changes in part: its block's columns do not fill it. -/
def linePadded (cfg : BitVec 64) (c : Word) (base : EngAddr) (p : Piece) : Bool :=
  let l := (p.dst.num - base.num) / 64
  let bytes := (storedShape cfg (tcT c)).2
  tcSkew c && decide (bytes < 64 * (l / 16 % max 1 ((bytes + 63) / 64)) + 64)

/-- The lines of a transfer's data, in order. -/
def dataLines (m : EngCmd) : List Piece :=
  (rangeLines (engAddrOf m.b, tileFoot m.cfg m.c)).filter (lineUsed m.cfg m.c (engAddrOf m.b))

/-- The lines of a transfer's scales. -/
def scaleLines (m : EngCmd) : List Piece := if tcScl m.c then rangeLines (scaleAddr m.b m.c, 512) else []

/-- Bytes read line by line, as a memory from the address of the first byte of the footprint. -/
def laidOut (base : EngAddr) : List Piece → List Byte → Mem → Mem
  | [], _, m => m
  | p :: ps, bs, m => laidOut base ps (bs.drop p.len) (m.writeBytes (p.dst.num - base.num) (bs.take p.len))

/-- The pieces that a transfer moves in one step: all of them, behind its lock, with a scratchpad end; else a line. -/
def tileStep (m : EngCmd) (ps : List Piece) : List Piece :=
  if (engAddrOf m.b).isSpad then ps else (ps.drop m.moved).take 1

/-- The bytes and barrier of a transfer's completion (R371). -/
def tileBar (m : EngCmd) : Option BarCount :=
  if tcBar m.c then some ⟨bitsOf m.c.toNat 8 24, tileLen m.cfg + if tcScl m.c then 512 else 0⟩ else none

/-- A step of a CTLD (R378): its next line is read; after the last the tile's bytes are written. In rewind the elements of
the line are accumulated into their cells (R242). -/
def State.runCtld (s : State) (m : EngCmd) (n : Fin 8) : State :=
  match m.ended with
  | some st => s.finishCmd m st (tileBar m)
  | none =>
    let t := (s.ctxOf m.launch m.core).tiles[n]
    let base := engAddrOf m.b
    if m.rewind then
      let ps := tileStep m (dataLines m)
      match endRegion s m (base, 1) with
      | none => s.finishCmd m stOk (tileBar m)
      | some r =>
        let es := (tileElems t m.b m.c).filter fun e =>
          ps.any fun p => decide (p.dst.num ≤ e.2) && decide (e.2 < p.dst.num + p.len)
        match placesOf s m r (es.map (·.2)) with
        | .error x => s.stopCmd m (tileBar m) x
        | .ok (xs, s) =>
          let m' := { m with moved := m.moved + ps.length }
          (giveAll s m r xs (es.map fun e => widenTo32 r.type e.1)).lineMoved m'
            (decide ((dataLines m).length ≤ m'.moved))
    else
      let all := dataLines m ++ scaleLines m
      let ps := tileStep m all
      match readLines m s ps with
      | .error x => s.stopCmd m (tileBar m) x
      | .ok (bs, s) =>
        let m' := { m with moved := m.moved + ps.length, bytes := m.bytes ++ bs }
        if m'.moved < all.length then s.lineMoved m' false
        else
          let nd := ((dataLines m).map (·.len)).foldl (· + ·) 0
          let foot := (laidOut base (dataLines m) (m'.bytes.take nd) []).readBytes 0 (tileFoot m.cfg m.c)
          let scales := if tcScl m.c then m'.bytes.drop nd else List.replicate 512 0x7F
          (s.updCtx m.launch m.core fun k =>
            { k.renewWords (.tile n) 0 16896 with
              tiles := k.tiles.set n (loadedTile t (gatherTile m.cfg m.c foot) scales) }).lineMoved
            { m' with bytes := [] } true

/-- The cause that a core instruction raises where an engine would end with a status (R234, R242, R368): `data` where the
restored range itself was refused. -/
def stopCause (data : Bool) : EngStop → Option (Cause × Option Nat)
  | .park c a => some (c, some a)
  | .failed c a => some (c, some a)
  | .logged _ c _ => some (c, none)
  | .fail st =>
    some (if st = stBarrierStore then .barrierStore
      else if data then .diffUndeclared else .diffKind, none)
  | _ => none

/-- A rewind instruction that restores at its bundle stops there: it traps, or holds. -/
def raiseStop {α : Type} (s : State) (m : EngCmd) (data : Bool) (x : EngStop) : SlotRes α :=
  match stopCause data x with
  | some (c, some a) => raise s c (BitVec.ofNat 64 a)
  | some (c, none) => raise s c (engAddrOf m.b).info
  | none => .hold .fence

/-- A rewind write of ranges at its bundle (R242, R243): the records are checked, last first, the cells of the elements
read and cleared, the ranges restored; the cells' codes in the region's type. -/
def restoreAt (s : State) (m : EngCmd) (r : DiffRegion) (kind : Nat) (rs : List EngRange) (elems : List Nat)
    (k : List Byte → State → SlotRes Unit) : SlotRes Unit :=
  let c := s.issue.core
  if pendDiff s c || pendDiffCmd s c then .hold .fence else
  match popAll s s.cur (reelXlate s c) kind (reelPtr s.cur) rs.reverse with
  | .error (e, info) => raise s e info
  | .ok (olds, ptr) =>
    match placesOf s m r elems with
    | .error x => raiseStop s m false x
    | .ok (xs, s1) =>
      let (vs, s2) := takeAll s1 m r xs
      match writeBack s2 m olds with
      | .error x => raiseStop s m true x
      | .ok s3 => k (vs.flatMap fun v => natToBytes r.esize (narrowFrom32 r.type v)) (s3.upd fun k => k.setReelPtr ptr)

/-- CTST in REWIND: the read-and-cleared cells go into the tile. -/
def ctstRewind (s : State) (m : EngCmd) (n : Fin 8) (r : DiffRegion) (rs : List EngRange) : SlotRes Unit :=
  let t := s.cur.tiles[n]
  restoreAt s m r recCtst rs ((tileElems t m.b m.c).map (·.2)) fun data s =>
    .ok () ((s.upd fun k =>
      { k.renewWords (.tile n) 0 16896 with tiles := k.tiles.set n (loadedTile t data (List.replicate 512 0x7F)) }).startCmd
      { m with rewind := true, diff := true })

def execCtst (g : Fin 64) (n : Fin 8) (b : SSpec) (c : SOpnd) (s : State) : Host.Outcome State Fault Refusal :=
  finish s ((readS s b 1).bind fun y s => (readSO s c 2).bind fun z s =>
    needTag s g <|
    tileChecks s false n y z fun cfg =>
    let m := { newCmd s (.ctst g n b c) (some g) 0 y z with due := tileDue s cfg y z, cfg := cfg }
    let rs := tileRanges cfg y z
    match tileDiff s cfg y z with
    | .error info => raise s .diffShape info
    | .ok none => .ok () (s.startOn m rs)
    | .ok (some r) =>
      if s.pre.rewinding then ctstRewind s m n r rs
      else match reserveReel s s.issue.core (recordsSize rs) with
        | .error (e, info) => raise s e info
        | .ok segs =>
          .ok () ((s.startCmd { m with diff := true, segs := segs }).upd fun k =>
            k.setReelPtr (reelPtr k + recordsSize rs)))

/-- The pieces that a CTST writes over a footprint's old bytes. -/
def ctstPieces (m : EngCmd) (t : Tile) (old : List Byte) : List Piece :=
  let foot := tileFoot m.cfg m.c
  let data := (cutRun (foot + 1) (engAddrOf m.b) (.data (layTile m.cfg m.c t.bytes old)) foot).filter
    (lineUsed m.cfg m.c (engAddrOf m.b))
  data ++ if tcScl m.c then cutRun 513 (scaleAddr m.b m.c) (.data (Mem.readBytes t.bytes 16384 512)) 512 else []

/-- A failed line that a skewed transfer would change in part (R22, R23). -/
def footFailed (s : State) (m : EngCmd) : Bool :=
  (dataLines m).any fun p => linePadded m.cfg m.c (engAddrOf m.b) p &&
    ((s.coreAt m.core).failedLine p.dst.num p.len).isSome

/-- A step of a CTST: all its lines, behind its lock, with a scratchpad end; else its next line (R159, R210). -/
def State.runCtst (s : State) (m : EngCmd) (n : Fin 8) : State :=
  match m.ended, m.rewind with
  | some st, _ => s.finishCmd m st (tileBar m)
  | none, true => s.lineMoved m true
  | none, false =>
    let t := (s.ctxOf m.launch m.core).tiles[n]
    match (s.ctxOf m.launch m.core).failedWord (.tile n) 0 16896 with
    | some x => s.stopCmd m (tileBar m) (engStop .uncorrectable (x + 2 ^ 63))
    | none =>
    match s.taped m recCtst (tileRanges m.cfg m.b m.c) with
    | .error x => s.stopCmd m (tileBar m) x
    | .ok (s, m) =>
      match engAddrOf m.b with
      | .mem _ => s.runPieces m [] (ctstPieces m t []) (tileBar m)
      | .spad o =>
        match s.reachSpad m o (tileFoot m.cfg m.c) with
        | .error x => s.stopCmd m (tileBar m) x
        | .ok s =>
          if footFailed s m then s.stopCmd m (tileBar m) (engStop .uncorrectable (EngAddr.spad o).info.toNat)
          else
            let old := (s.coreAt m.core).spad.readBytes o (tileFoot m.cfg m.c)
            match movePieces [] s m (ctstPieces m t old) with
            | (s, m, none) => s.lineMoved m true
            | (s, m, some x) => s.stopCmd m (tileBar m) x

/-! ### CQST (R380) -/

def qcN (c : Word) : Nat := bitsOf c.toNat 0 16
def qcScl (c : Word) : Bool := c.getLsbD 16

def qstRanges (y z : Word) : List EngRange :=
  (engAddrOf y, 256 * qcN z) ::
    (if qcScl z then [((engAddrOf y).plus (256 * qcN z), 8 * qcN z)] else [])

/-- CQST in REWIND (R242): the ranges are restored and the read-and-cleared rows pushed. -/
def cqstRewind (s : State) (m : EngCmd) (q : Fin 2) (r : DiffRegion) (rs : List EngRange) : SlotRes Unit :=
  let nv := qcN m.c
  need s ((queueOf s.cur q).length + nv ≤ queueMax s.pre q) .queueFull (BitVec.ofNat 64 q.val) <|
  restoreAt s m r recCqst rs (elemsIn r (engAddrOf m.b).num (256 * nv)) fun data s =>
    let rows := (List.range nv).map fun i => vecOf ((data.drop (256 * i)).take 256) (List.replicate 8 0x7F)
    .ok () ((s.upd fun k => if q = 0 then { k with q0 := k.q0 ++ rows } else { k with q1 := k.q1 ++ rows }).startCmd
      { m with rewind := true, diff := true })

def execCqst (g : Fin 64) (q : Fin 2) (b : SSpec) (c : SOpnd) (s : State) : Host.Outcome State Fault Refusal :=
  finish s ((readS s b 1).bind fun y s => (readSO s c 2).bind fun z s =>
    needTag s g <|
    needAddr s y 1 fun e =>
    need s (qcN z ≠ 0 && qcN z ≤ 64 && bitsOf z.toNat 19 5 = 0 && bitsOf z.toNat 48 16 = 0)
      .operandReserved (opndInfo 0 2) <|
    let rs := qstRanges y z
    let shape := footDiff s.pre rs
    let isRew := s.pre.rewinding && diffLevel s.pre && (match shape with | .region _ => true | _ => false)
    need s (isRew || qcN z ≤ (queueOf s.cur q).length) .queueEmpty (BitVec.ofNat 64 q.val) <|
    need s (e.num % 64 = 0) .misaligned e.info <|
    needFootprint s rs <|
    need s (rs.all fun (x, len) => match x with
      | .spad o => !touchesBarrier s.pre.hdr o len
      | .mem _ => true) .barrierStore e.info <|
    let m := { newCmd s (.cqst g q b c) (some g) 0 y z with vecs := (queueOf s.cur q).take (qcN z) }
    let pop (s : State) : State := s.upd fun k =>
      if q = 0 then { k with q0 := k.q0.drop (qcN z) } else { k with q1 := k.q1.drop (qcN z) }
    match shape with
    | .mixed x => raise s .diffShape x.info
    | .plain => .ok () ((pop s).startOn m rs)
    | .region r =>
      if isRew then cqstRewind s m q r rs
      else match reserveReel s s.issue.core (recordsSize rs) with
        | .error (c, info) => raise s c info
        | .ok segs =>
          .ok () (((pop s).startCmd { m with diff := true, segs := segs }).upd fun k =>
            k.setReelPtr (reelPtr k + recordsSize rs)))

/-- The bytes and barrier of a CQST's completion (R371). -/
def cqstBar (m : EngCmd) : Option BarCount :=
  if m.c.getLsbD 17 then some ⟨bitsOf m.c.toNat 24 24, 256 * qcN m.c + if qcScl m.c then 8 * qcN m.c else 0⟩ else none

/-- A step of a CQST: its next line. -/
def State.runCqst (s : State) (m : EngCmd) : State :=
  if m.rewind && m.ended.isNone then s.lineMoved m true else
  match s.taped m recCqst (qstRanges m.b m.c) with
  | .error x => s.stopCmd m (cqstBar m) x
  | .ok (s, m) =>
    let n := 256 * qcN m.c
    let ps := cutRun (n + 1) (engAddrOf m.b) (.data (m.vecs.flatMap vecData)) n ++
      (if qcScl m.c then cutRun (8 * qcN m.c + 1) ((engAddrOf m.b).plus n) (.data (m.vecs.flatMap vecScales)) (8 * qcN m.c)
       else [])
    s.runPieces m [] ps (cqstBar m)

end Sys2Proof.Machine
end

