-- ==== Sys2Proof/Machine/Signal.lean ====
section
/-! DEFINITION. Messages between cores, memory-side atomics and host signals (R162, R163, R381, R395,
R396). -/

namespace Sys2Proof.Machine

/-! ### CMSG (R162, R381) -/

/-- A credit for target `t` is on its way to the sender (R162). -/
def creditComing (s : State) (c : Fin 256) (t : Nat) : Bool :=
  s.credRet.any fun r => r.core = c && r.target = t && r.launch = (s.coreAt c).launch

def execCmsg (g : Fin 64) (a b : SSpec) (s : State) : Host.Outcome State Fault Refusal :=
  finish s ((readS s a 0).bind fun x s => (readS s b 1).bind fun y s =>
    needTag s g <|
    needAddr s y 1 fun e =>
    match e with
    | .mem _ => raise s .operandReserved (opndInfo 0 1)
    | .spad off =>
      match launchCore s s.pre.launch x.toNat with
      | none => raise s .msgTarget 0
      | some t =>
        need s (off % 64 = 0) .misaligned e.info <|
        needFootprint s [(e, 64)] <|
        needNoDiff s [(e, 64)] .diffKind <|
        orHold (spadHold s off 64) <| soundSpad s off 64 <|
        let left := s.cur.credits.getD x.toNat 0
        if left = 0 then
          if creditComing s s.issue.core x.toNat then .hold .credit else raise s .msgqFull 0
        else
          let bytes := s.cur.spad.readBytes off 64
          let m := { newCmd s (.cmsg g a b) (some g) x y 0 with bytes := bytes }
          let s := s.startOn m [(e, 64)]
          let s := s.upd fun k => { k with credits := setAt k.credits x.toNat (left - 1) }
          .ok () (s.send s.issue.core (.msg t bytes m.id) ⟨0, false, false, 0⟩ 0
            { write := true, due := s.cycle + msgLatency s.issue.core t }).2)

/-! ### MSAT (R395) -/

/-- AMO codes (R357). -/
def amoOf : Nat → Option AmoOp
  | 0 => some .swap | 1 => some .add | 2 => some .and | 3 => some .or | 4 => some .xor
  | 5 => some .min | 6 => some .max | 7 => some .minz | 8 => some .maxz | 9 => some .fadd
  | 10 => some .fmin | 11 => some .fmax | _ => none

def amoFloat : AmoOp → Bool
  | .fadd | .fmin | .fmax => true
  | _ => false

def msN (c : Word) : Nat := bitsOf c.toNat 0 16
def msOp (c : Word) : Option AmoOp := amoOf (bitsOf c.toNat 16 4)
def msW32 (c : Word) : Bool := c.getLsbD 20
def msComm (c : Word) : Bool := c.getLsbD 21

/-- The form of the atomic control. -/
def msOk (c : Word) : Bool :=
  msN c ≠ 0 && bitsOf c.toNat 22 42 = 0 && (match msOp c with
    | none => false
    | some op => op ≠ .swap && (!amoFloat op || msW32 c))

def execMsat (g : Fin 64) (a b : SSpec) (c : SOpnd) (s : State) : Host.Outcome State Fault Refusal :=
  finish s ((readS s a 0).bind fun x s => (readS s b 1).bind fun y s => (readSO s c 2).bind fun z s =>
    needTag s g <|
    needAddr s x 0 fun ea => needAddr s y 1 fun eb =>
    need s (!ea.isSpad) .operandReserved (opndInfo 0 0) <|
    need s eb.isSpad .operandReserved (opndInfo 0 1) <|
    need s (msOk z) .operandReserved (opndInfo 0 2) <|
    let w := atomWidth (msW32 z)
    need s (ea.num % w = 0) .misaligned ea.info <|
    need s (eb.num % w = 0) .misaligned eb.info <|
    needFootprint s [(eb, w * msN z)] <|
    needNoDiff s [(ea, w * msN z)] .diffKind <|
    .ok () (s.startOn (newCmd s (.msat g a b c) (some g) x y z) [(ea, w * msN z), (eb, w * msN z)]))

/-- One element: combined with COMM, else performed at once on its memory-side line. -/
def msatElem (s : State) (m : EngCmd) (op : AmoOp) (j : Nat) : EngRes State :=
  let w := atomWidth (msW32 m.c)
  let a := (engAddrOf m.a).num + j * w
  if (engWindow s m a).isSome then .error (.fail stAccessKind)
  else match engPhys s m .atomic a with
    | .error x => .error x
    | .ok p =>
      let ch : Fin 256 := Fin.ofNat 256 (chanOf p.addr)
      if p.host || p.mtype ≠ 1 then .error (.fail stAccessKind)
      else if !engDiff s m p.diff a w then .error (.fail stDiff)
      else if chanBusy s m.part 1 ch then .error (.wait ch)
      else match engRead s m ((engAddrOf m.b).plus (j * w)) w with
        | .error x => .error x
        | .ok (bs, s) =>
          match lineFault s p.addr with
          | some c => .error (engStop c a)
          | none =>
            let s := s.engTlb m a
            let v := bytesToNat bs
            if msComm m.c && amoCombines op then
              .ok (s.combine m.core ⟨p.addr, some op, msW32 m.c, m.part⟩ op v)
            else
              let s := (s.applyLine p.addr).access m.req p.addr true .atomic
              let old := s.mem.readLE p.addr w
              .ok (s.put m.req.tag p.addr (natToBytes w (amoNew op (8 * w) old v)) true)

/-- Elements in order, and why they stopped. -/
def msatElems (m : EngCmd) (op : AmoOp) : State → Nat → Nat → State × Nat × Option EngStop
  | s, j, 0 => (s, j, none)
  | s, j, n + 1 =>
    match msatElem s m op j with
    | .ok s => msatElems m op s (j + 1) n
    | .error x => (s, j, some x)

/-- A step of an MSAT: the elements of its next line. -/
def State.runMsat (s : State) (m : EngCmd) : State :=
  match m.ended, msOp m.c with
  | some st, _ => s.finishCmd m st none
  | none, none => s.finishCmd m stOk none
  | none, some op =>
    let w := atomWidth (msW32 m.c)
    let room := (64 - ((engAddrOf m.a).num + m.moved * w) % 64 + w - 1) / w
    let (s, j, stop) := msatElems m op s m.moved (min room (msN m.c - m.moved))
    match stop with
    | none => s.lineMoved { m with moved := j } (decide (msN m.c ≤ j))
    | some x => s.stopCmd { m with moved := j } none x

/-! ### HSIG (R396) -/

/-- The core's writes, messages and units not yet performed. -/
def pendingWrites (s : State) (c : Fin 256) : List Nat :=
  (s.memq.filter fun o => o.core = c && (o.num ≠ 0 || (match o.kind with | .bar _ _ .unit => true | _ => false)) &&
    o.result.isNone).map (·.id)

def execHsig (a b : SSpec) (c : SOpnd) (s : State) : Host.Outcome State Fault Refusal :=
  finish s ((readS s a 0).bind fun x s => (readS s b 1).bind fun y s => (readSO s c 2).bind fun z s =>
    needAddr s z 2 fun e =>
    need s (e.num % 8 = 0) .misaligned e.info <|
    needFootprint s (if z = 0 then [] else [(e, 8)]) <|
    .ok () (s.startOn { newCmd s (.hsig a b c) none x y z with after := pendingWrites s s.issue.core }
      (if z = 0 then [] else [(e, 8)])))

/-- The writes of the core's streams are performed, while it still runs the command's launch (R330, R396). -/
def State.drainStreams (s : State) (m : EngCmd) : State :=
  if (s.coreAt m.core).launch = m.launch then s.mapCore m.core Core.drainEvery else s

/-- The core's stream writes, the write of c, then the message; a write that fails translation is skipped and logged to S, and one that waits at its
channel or bank is tried again. -/
def State.runHsig (s : State) (m : EngCmd) : State :=
  let s := s.drainStreams m
  let fn : Fn := if m.level = .h then 0 else Fin.ofNat 17 m.part
  let send (s : State) : State := (s.signal fn (bitsOf m.a.toNat 0 11)).finishCmd m stOk none
  let log (s : State) (c : Cause) (st a : Nat) : State :=
    s.logUnit c (hFlag c) m.part 1 m.core.val st (BitVec.ofNat 64 a) (s.ctxOf m.launch m.core).gang
  if m.c = 0 then send s
  else match engWrite s m (engAddrOf m.c) (natToBytes 8 m.b.toNat) with
    | .ok s => send s
    | .error (.wait ch) => s.waitCmd m ch
    | .error .lock => s.setCmd { m with due := s.cycle + 1 }
    | .error (.park c a) => send (s.logUnit c 0 m.part 1 m.core.val 0 (BitVec.ofNat 64 a) (s.ctxOf m.launch m.core).gang)
    | .error x => send (match stopCause true x with
      | some (c, _) => log s c 0 (engAddrOf m.c).num
      | none => s)

end Sys2Proof.Machine
end

