-- ==== Sys2Proof/Machine/Link.lean ====
section
/-! DEFINITION. Packets as bytes, the output ports' queues and arbitration, and the link's frames (R24-R26, R29-R34,
R43, R44). -/

namespace Sys2Proof.Machine

/-! ### Check codes and bytes (R24, R32-R34) -/

/-- The check code of a line (R22). -/
def lineCode (bs : List Byte) : BitVec 32 := BitVec.ofNat 32 (crc32c bs)

/-- Bytes 0-59 of a header flit (R33). -/
def headerBytes (p : Packet) : List Byte :=
  let be := (p.be.flatMap fun (m : BitVec 64) => natToBytes 8 m.toNat) ++ zeros 32
  natToBytes 1 p.type.toNat ++
    natToBytes 1 (p.hop.toNat + 2 ^ 3 * p.cls.toNat + 2 ^ 5 * p.flits.length) ++ natToBytes 2 p.dst.toNat ++
    natToBytes 2 p.src.toNat ++ natToBytes 1 p.dfn.toNat ++ natToBytes 1 p.sfn.toNat ++
    natToBytes 4 p.gang.toNat ++ natToBytes 4 p.pseq.toNat ++ natToBytes 8 p.addr.toNat ++ be.take 32 ++
    natToBytes 4 p.opnd.toNat

/-- Bytes 0-11 of a control packet (R32). -/
def ctlBytes (c : Control) : List Byte :=
  natToBytes 1 c.ctype.toNat ++ natToBytes 1 c.hop.toNat ++ natToBytes 2 c.dst.toNat ++ natToBytes 2 c.src.toNat ++
    natToBytes 2 c.arg16.toNat ++ natToBytes 4 c.arg32.toNat

end Sys2Proof.Machine

namespace Sys2Proof

open Machine

/-- HCC holds (R33, R34). -/
def Packet.hccOk (p : Packet) : Bool := p.hcc = lineCode (headerBytes p)

/-- Every data flit's check code holds (R34). -/
def Packet.flitsOk (p : Packet) : Bool := p.codes = p.flits.map lineCode

/-- A packet with its header's check code: at a hop of its way. -/
def Packet.atHop (p : Packet) (h : Nat) : Packet :=
  let p : Packet := { p with hop := BitVec.ofNat 3 h }
  { p with hcc := lineCode (headerBytes p) }

/-- A packet as its source forms it: the codes of its lines, HOP 0, HCC. -/
def Packet.sealed (p : Packet) : Packet := ({ p with codes := p.flits.map lineCode } : Packet).atHop 0

/-- CCC holds (R32). -/
def Control.cccOk (c : Control) : Bool := c.ccc = lineCode (ctlBytes c)

def Control.atHop (c : Control) (h : Nat) : Control :=
  let c : Control := { c with hop := BitVec.ofNat 3 h }
  { c with ccc := lineCode (ctlBytes c) }

/-- The 68 bytes of a flit on a link. -/
def Flit.raw (f : Flit) : List Byte := f.bytes ++ natToBytes 4 f.code.toNat

end Sys2Proof

namespace Sys2Proof.Machine

/-- The header flit of a data packet. -/
def headerFlit (p : Packet) : List Byte := headerBytes p ++ natToBytes 4 p.hcc.toNat

/-- The packet that a header flit and its data flits make. -/
def packetOfBytes (b : List Byte) (codes : List (BitVec 32)) : Packet :=
  let f := fieldLE b
  let n := min 4 (bitsOf (f 1 1) 5 3)
  { type := BitVec.ofNat 8 (f 0 1), hop := BitVec.ofNat 3 (f 1 1), cls := BitVec.ofNat 2 (bitsOf (f 1 1) 3 2),
    dst := BitVec.ofNat 11 (f 2 2), src := BitVec.ofNat 11 (f 4 2), dfn := BitVec.ofNat 8 (f 6 1),
    sfn := BitVec.ofNat 8 (f 7 1), gang := BitVec.ofNat 32 (f 8 4), pseq := BitVec.ofNat 32 (f 12 4),
    addr := BitVec.ofNat 64 (f 16 8), be := (List.range n).map fun i => BitVec.ofNat 64 (f (24 + 8 * i) 8),
    opnd := BitVec.ofNat 32 (f 56 4),
    flits := (List.range n).map fun i => (b.drop (64 + 64 * i)).take 64, hcc := BitVec.ofNat 32 (f 60 4), codes := codes }

/-- The control packet in 16 bytes. -/
def ctlOfBytes (b : List Byte) : Control :=
  let f := fieldLE b
  { ctype := BitVec.ofNat 8 (f 0 1), hop := BitVec.ofNat 3 (f 1 1), dst := BitVec.ofNat 11 (f 2 2),
    src := BitVec.ofNat 11 (f 4 2), arg16 := BitVec.ofNat 16 (f 6 2), arg32 := BitVec.ofNat 32 (f 8 4),
    ccc := BitVec.ofNat 32 (f 12 4) }

/-- CTYPE values that are not reserved (R32). -/
def ctypeKnown (c : Control) : Bool := [0x01, 0x02, 0x03, 0x10, 0x11, 0x12].contains c.ctype.toNat

/-- The flits of a data packet in a virtual channel: check code zero for the header (R24, R33). -/
def packetFlits (vc : Fin 5) (p : Packet) : List Flit :=
  ⟨.head, vc.castSucc, headerFlit p, 0⟩ ::
    (p.flits.zip p.codes).map fun (e : List Byte × BitVec 32) => ⟨.data, vc.castSucc, e.1, e.2⟩

/-- A control flit: one to four packets, check code zero (R24, R32). -/
def controlFlit (cs : List Control) : Flit :=
  ⟨.ctl, 5, ((cs.flatMap fun c => ctlBytes c ++ natToBytes 4 c.ccc.toNat) ++ zeros 64).take 64, 0⟩

def idleFlit : Flit := ⟨.idle, 0, zeros 64, 0⟩

/-- The packets of a control flit; a quarter of zeros holds none. -/
def controlsOf (f : Flit) : List Control :=
  ((List.range 4).map fun i => (f.bytes.drop (16 * i)).take 16).filterMap fun b =>
    if b.all (· = 0) then none else some (ctlOfBytes b)

/-! ### Routes and ports (R29-R32, R44) -/

/-- The module's own number (R27). -/
def selfMod (s : State) : Nat := s.fabric.fabId.toNat % 2048

/-- The die of a port (R24). -/
def dieOfPort (p : Fin 20) : Fin 4 := Fin.ofNat 4 (p.val / 5)

/-- Output port of a class for a destination; none names no route (R29). -/
def routePort (s : State) (cls dst : Nat) : Option (Fin 20) :=
  let p := bitsOf (routeEntry s dst).toNat (5 * cls) 5
  if h : p < 20 then some ⟨p, h⟩ else none

def State.updPort (s : State) (p : Fin 20) (f : Port → Port) : State :=
  { s with fabric := { s.fabric with ports := s.fabric.ports.set p (f s.fabric.ports[p]) } }

/-- What a port does with a packet routed to it. -/
inductive PortUse where
  | dead | wait | ready
  deriving DecidableEq, Repr

/-- A port that is absent, down, stopped or never trained drops; one that retrains makes packets wait
for credit (R26, R44). -/
def Port.use (p : Port) : PortUse :=
  if p.absent || p.down || !p.enable then .dead
  else if p.training then .wait
  else if p.up then .ready else .dead

/-- Put a data packet on a port, ready from a cycle; none where the port drops it. -/
def State.emitData (s : State) (n : Fin 20) (e : OutPkt) : Option State :=
  match s.fabric.ports[n].use with
  | .dead => none
  | _ => some (s.updPort n fun q => { q with queue := q.queue ++ [e] })

/-- A control packet dropped silently counts for its port (R32). -/
def State.countDrop (s : State) (n : Fin 20) : State := s.updPort n fun q => { q with drops := q.drops + 1 }

/-- A port returns credits of a virtual channel to its far end (R25). -/
def Port.owe (q : Port) (vc : Fin 6) (n : Nat) : Port := { q with owed := q.owed.set vc (q.owed[vc] + n) }

/-- Flits that came by an input port leave its buffer. -/
def State.returnFlits (s : State) (src : Fin 21) (vc : Fin 6) (n : Nat) : State :=
  if h : src.val < 20 then s.updPort ⟨src.val, h⟩ fun q => q.owe vc n else s

/-- Put a control packet on a port (R32). -/
def State.emitControl (s : State) (n : Fin 20) (e : OutCtl) : State :=
  match s.fabric.ports[n].use with
  | .dead => (s.countDrop n).returnFlits e.src 5 e.last.toNat
  | _ => s.updPort n fun q => { q with ctlQueue := q.ctlQueue ++ [e] }

/-- Cycles from injection to the first port, of a data packet and of a control packet (R42). -/
def injectLatency : Nat := 60
def injectCtlLatency : Nat := 20

/-- Cycles of a transit module, port to port (R42). -/
def transitLatency : Nat := 30
def transitCtlLatency : Nat := 12

/-- Cycles of ejection (R42). -/
def ejectLatency : Nat := 90
def ejectCtlLatency : Nat := 8

/-- Send a control packet: by PORT3, never to the module itself; one without a route counts for port 0
(R32, R42; PRESUMED, log entry 21). -/
def State.sendControl (s : State) (c : Control) : State :=
  if c.dst.toNat = selfMod s then s
  else match routePort s 3 c.dst.toNat with
    | none => s.countDrop 0
    | some n => s.emitControl n ⟨20, false, s.cycle + injectCtlLatency, c⟩

/-- A control packet of this module. -/
def ctlOf (s : State) (ctype dst arg16 arg32 : Nat) : Control :=
  Control.atHop
    { ctype := BitVec.ofNat 8 ctype, hop := 0, dst := BitVec.ofNat 11 dst, src := BitVec.ofNat 11 (selfMod s),
      arg16 := BitVec.ofNat 16 arg16, arg32 := BitVec.ofNat 32 arg32, ccc := 0 } 0

/-! ### Arbitration (R43) -/

/-- Sources after the one served last, in turn. -/
def sourcesAfter (last : Fin 21) : List (Fin 21) := (List.range 21).map fun i => Fin.ofNat 21 (last.val + 1 + i)

/-- The packet of a virtual channel that is granted: of the next source that has one ready, its oldest. -/
def Port.grantIn (q : Port) (cycle : Nat) (vc : Fin 5) : Option OutPkt :=
  if (q.queue.filter fun e => e.vc = vc).isEmpty then none
  else (sourcesAfter q.served[vc]).findSome? fun src =>
    match q.queue.find? fun e => e.vc = vc && e.src = src with
    | some e => if e.ready ≤ cycle && decide (1 + e.pkt.flits.length ≤ q.credit[vc.castSucc]) then some e else none
    | none => none

/-- The data packet that is granted: of the highest virtual channel that has one with credit at the far end. -/
def Port.grant (q : Port) (cycle : Nat) : Option OutPkt :=
  [4, 3, 2, 1, 0].findSome? fun (vc : Fin 5) => q.grantIn cycle vc

/-- The next flit of a data packet leaves. -/
def Port.sendData (q : Port) (e : OutPkt) (fs : List Flit) : Port :=
  match fs with
  | [] => { q with cur := none }
  | f :: rest => { q with tx := q.tx ++ [f], cur := if rest.isEmpty then none else some (e, rest) }

/-- The virtual channel in which a packet came, whose buffer it leaves. -/
def OutPkt.inVc (e : OutPkt) : Fin 6 := Fin.ofNat 6 (e.vc.val - 1)

/-- A sent sum of LEVEL: its received sum goes in the same flit (R110). -/
def levelSent (c : Control) : Bool := c.ctype = 0x11 && !c.arg16.getLsbD 13 && !c.arg16.getLsbD 12

/-- Control packets ready to leave in one flit. -/
def Port.readyCtl (q : Port) (cycle : Nat) : List OutCtl :=
  let l := q.ctlQueue.takeWhile fun e => decide (e.ready ≤ cycle)
  if (l.drop 3).head?.any (fun e => levelSent e.ctl) then l.take 3 else l.take 4

/-- Something is due to the far end that only a trailer carries. -/
def Port.owes (q : Port) : Bool := q.nak || q.owesAck || q.owed.toList.any (· ≠ 0)

/-- The flit of a cycle: a ready control flit, else the data packet under way or the one granted now, else an idle flit
where a frame has begun or a trailer is owed (R25, R43). The source whose buffer a flit leaves, and its virtual channel
there, with it. -/
def Port.sendFlit (q : Port) (cycle : Nat) : Port × List (Fin 21 × Fin 6) :=
  let cs := q.readyCtl cycle
  if !cs.isEmpty && q.credit[(5 : Fin 6)] ≠ 0 then
    ({ q with tx := q.tx ++ [controlFlit (cs.map (·.ctl))], ctlQueue := q.ctlQueue.drop cs.length,
              credit := q.credit.set (5 : Fin 6) (q.credit[(5 : Fin 6)] - 1) },
      (cs.filter (·.last)).map fun e => (e.src, 5))
  else match q.cur with
    | some (e, fs) => (q.sendData e fs, [(e.src, e.inVc)])
    | none => match q.grant cycle with
      | some e =>
        let fs := packetFlits e.vc e.pkt
        let q : Port := { q with
          queue := q.queue.erase e, served := q.served.set e.vc e.src
          credit := q.credit.set e.vc.castSucc (q.credit[e.vc.castSucc] - fs.length) }
        (q.sendData e fs, [(e.src, e.inVc)])
      | none => (if q.tx.isEmpty && !q.owes then q else { q with tx := q.tx ++ [idleFlit] }, [])

/-! ### Frames (R25) -/

/-- CRC-32 of the link (R25), in the bit order of Ethernet (PRESUMED, log entry 21). -/
def linkCrc (bs : List Byte) : Nat :=
  (bs.foldl (fun c b => crcBits 0xEDB88320 8 (c ^^^ b.toNat)) 0xFFFFFFFF) ^^^ 0xFFFFFFFF

/-- The link CRC of a frame: over its 544 flit bytes. -/
def frameCrc (fs : List Flit) : BitVec 32 := BitVec.ofNat 32 (linkCrc ((fs.flatMap Flit.raw).take 544))

/-- The trailer's credit returns are eight bits each; what does not fit waits for the next. -/
def Port.closeFrame (q : Port) : Port × Option Frame :=
  if q.tx.length < 8 then (q, none)
  else
    let fs := q.tx.take 8
    let f : Frame :=
      { flits := fs, seq := q.txSeq, ackSeq := q.rxSeq - 1, nak := q.nak,
        credits := q.owed.toList.map fun n => BitVec.ofNat 8 (min n 255), crc := frameCrc fs }
    ({ q with tx := q.tx.drop 8, txSeq := q.txSeq + 1, buffer := q.buffer ++ [f], nak := false, owesAck := false,
              owed := q.owed.map fun n => n - min n 255 }, some f)

/-- The replay buffer of 128 frames has room, and the port sends. -/
def Port.sends (q : Port) : Bool := q.up && q.enable && decide (q.buffer.length < 128)

/-- One cycle of a port's sending side: one flit, and the frame that it fills. -/
def State.sendCycle (s : State) (n : Fin 20) : State :=
  let q := s.fabric.ports[n]
  if !q.sends || (q.queue.isEmpty && q.ctlQueue.isEmpty && q.cur.isNone && q.tx.isEmpty && !q.owes) then s
  else
    let (q, freed) := q.sendFlit s.cycle
    let (q, frame) := q.closeFrame
    let s := s.updPort n fun _ => q
    let s := freed.foldl (fun s e => s.returnFlits e.1 e.2 1) s
    match frame with
    | some f => { s with out := s.out ++ [.frame n f] }
    | none => s

/-- A cycle of every port. -/
def State.linkCycle (s : State) : State :=
  if s.fabric.ports.toList.any (·.up) then (List.finRange 20).foldl State.sendCycle s else s

/-- The far end has every frame up to a sequence number. -/
def Port.acknowledge (q : Port) (ack : BitVec 12) : Port :=
  { q with acked := ack, buffer := q.buffer.filter fun f => decide (2048 ≤ (ack - f.seq).toNat) }

/-- Credits come back. -/
def Port.regain (q : Port) (cs : List (BitVec 8)) : Port :=
  { q with credit := Vector.ofFn fun vc => q.credit[vc] + (cs.getD vc.val 0).toNat }

/-- Replays of the last millisecond since the port came up: any window of 1 ms that ends now (R26). -/
def Port.recentReplays (q : Port) (cycle : Nat) : Nat :=
  ((q.replays.filter fun e => decide (cycle < e.1 + 1600000) && decide (q.trained ≤ e.1)).map (·.2)).sum

/-- Frames are replayed. -/
def Port.noteReplays (q : Port) (cycle n : Nat) : Port :=
  { q with replays := (cycle, n) :: q.replays.filter fun e => decide (cycle < e.1 + 3200000) }

end Sys2Proof.Machine
end

