-- ==== Sys2Proof/Machine/Fabric.lean ====
section
/-! DEFINITION. The sending side of the fabric: streams, counts, and the commands FWR,
FAMO, FREQ and FLNCH (R24-R45, R382-R386). -/

namespace Sys2Proof.Machine

/-! ### Streams and counts (R33, R39-R41) -/

/-- The streams of this module by destination, class and source function. -/
def streamKey (dst cls sfn : Nat) : Nat := dst + 2048 * cls + 8192 * sfn

/-- The next PSEQ of a stream. -/
def State.takePseq (s : State) (dst cls sfn : Nat) : Nat × State :=
  let k := streamKey dst cls sfn
  let n := SMap.get 0 s.fabric.streams k
  (n, { s with fabric := { s.fabric with streams := SMap.set 0 s.fabric.streams k ((n + 1) % 2 ^ 32) } })

def State.mapGang (s : State) (part : Nat) (g : BitVec 32) (f : GangDef → GangDef) : State :=
  { s with gangs := s.gangs.map fun d => if d.part = part && d.gang = g then f d else d }

/-- Packets of a gang injected to other members (R110). -/
def State.gangSent (s : State) (part : Nat) (g : BitVec 32) : State :=
  s.mapGang part g fun d => { d with sent := d.sent + 1 }

/-- Packets of a gang applied, captured, or counted as received because they were dropped (R110). -/
def State.gangReceived (s : State) (part : Nat) (g : BitVec 32) : State :=
  s.mapGang part g fun d => { d with received := d.received + 1 }

/-- Lower a context's outstanding count for a destination (R40). An ACK or a DROP starts its 200 us again; a packet that
was never sent does not. -/
def State.lowerCount (s : State) (launch : Option Nat) (core : Fin 256) (dst n : Nat) (answered : Bool) : State :=
  let now := s.activeOf launch
  s.updCtx launch core fun k =>
    { k with fabOut := SMap.set 0 k.fabOut dst (SMap.get 0 k.fabOut dst - n)
             fabSince := if answered then SMap.set 0 k.fabSince dst now else k.fabSince }

/-- One of a command's packets has ended, well or with a status; the command completes with its last
one (R382). -/
def State.cmdPacketDone (s : State) (id : Nat) (st : BitVec 8) (n : Nat) : State :=
  match s.cmds.find? (·.id = id) with
  | none => s
  | some m =>
    let m := { m with pkts := m.pkts - n, status := if m.status = stOk then st else m.status }
    let s := s.setCmd m
    if m.pkts = 0 then s.finishCmd m m.status none else s

/-- A packet of a core has ended (R39, R40): by an ACK or a DROP, or unsent. -/
def State.packetEnded (s : State) (r : SentPkt) (st : BitVec 8) (answered : Bool) : State :=
  let s := match r.core with
    | some c => if r.dst = selfMod s then s else s.lowerCount r.launch c r.dst 1 answered
    | none => s
  match r.cmd with
  | some id => s.cmdPacketDone id st 1
  | none => s

def State.packetDone (s : State) (r : SentPkt) (st : BitVec 8) : State := s.packetEnded r st true

/-! ### Injection (R30, R31, R71, R110, R111) -/

/-- Why a packet is not sent at injection, or is dropped by its own module. -/
inductive SendFail where
  | noRoute | noPort | portDown
  deriving DecidableEq, Repr

def SendFail.status : SendFail → BitVec 8
  | .noRoute => stNoRoute
  | .noPort => stNoPort
  | .portDown => 0x23

/-- A gang is out of the module until a vote commits it again (R114). -/
def switchedOut (s : State) (part : Nat) (g : BitVec 32) : Bool :=
  g ≠ 0 && (if h : part < 17 then s.rt[part].resident ≠ some g else true) &&
    s.launches.any fun l => l.part = part && l.gang = g && l.state = .out

/-- Injection of a gang is stopped: it is outgoing in a vote under way (R111), or out (R114). -/
def gangHeld (s : State) (part : Nat) (g : BitVec 32) : Bool :=
  g ≠ 0 && (s.votes.any (fun v => v.outgoing.contains (part, g)) || switchedOut s part g)

/-- Packets to the module itself: 60 + 90 + NDATA cycles (R42). -/
def ownLatency (p : Packet) : Nat := injectLatency + ejectLatency + p.flits.length

def samePacketStream (a b : Packet) : Bool :=
  a.src = b.src && a.sfn = b.sfn && a.dst = b.dst && a.cls = b.cls

/-- A packet to the module itself is on its way: not sooner than those of its stream before it (R41). -/
def State.sendOwn (s : State) (w : WaitPkt) : State :=
  let due := (s.fabric.own.filter fun e => samePacketStream e.pkt w.pkt).foldl (fun n e => max n e.due)
    (s.cycle + ownLatency w.pkt)
  { s with fabric := { s.fabric with own := s.fabric.own ++ [{ w with due := due }] }
           arrivals := s.arrivals ++ [⟨due, none, ⟨.dataPacketAccept none w.pkt, Input.reset⟩⟩] }

/-- The first hop of a partition's packet must be a port of its own, and for a sequencer's packet a sequencer of its own
(R31). -/
def ownsPort (s : State) (part : Nat) (n : Fin 20) (seq : Bool) : Bool :=
  if h : part < 17 then s.parts[part].ports.getLsbD n.val && (!seq || s.parts[part].seqs.getLsbD n.val) else false

/-- Send a packet at its first hop (R29-R31). -/
def State.transmit (s : State) (w : WaitPkt) : Except SendFail State :=
  let dst := w.pkt.dst.toNat
  if dst = selfMod s then .ok (s.sendOwn w)
  else match routePort s w.pkt.cls.toNat dst with
    | none => .error .noRoute
    | some n =>
      if !ownsPort s w.part n w.seq then .error .noPort
      else
        let s := s.gangSent w.part w.pkt.gang
        match s.emitData n ⟨20, 0, s.cycle + injectLatency, w.pkt⟩ with
        | none => .error .portDown
        | some s =>
          .ok ({ s with fabric := { s.fabric with sent := s.fabric.sent ++ [w.info] } }.meter w.part 9
            (64 * w.pkt.flits.length))

/-- A packet is sent now. One that its own module drops counts as sent and as received (R110). -/
def State.sendNow (s : State) (w : WaitPkt) : State × Option SendFail :=
  match s.transmit w with
  | .ok s => (s, none)
  | .error .portDown => ((s.gangSent w.part w.pkt.gang).gangReceived w.part w.pkt.gang, some .portDown)
  | .error e => (s, some e)

/-- A packet that was formed is sent, or held while its gang prepares for a switch (R111), and behind those of its gang and
stream that are still held (R41). -/
def State.inject (s : State) (w : WaitPkt) : State × Option SendFail :=
  if gangHeld s w.part w.pkt.gang ||
      s.fabric.held.any fun e => e.pkt.gang = w.pkt.gang && samePacketStream e.pkt w.pkt then
    ({ s with fabric := { s.fabric with held := s.fabric.held ++ [w] } }, none)
  else s.sendNow w

/-! ### The commands (R382-R386) -/

/-- Module and function of a rank of the core's gang (R33, R382). -/
def memberOf (s : State) (launch : Option Nat) (part rank : Nat) : Nat × Nat :=
  match launch.bind s.launchById with
  | none => (selfMod s, part)
  | some l => if l.gsize ≤ 1 then (selfMod s, part) else l.members.getD rank (selfMod s, part)

/-- The class of a fabric command. -/
def fabClass (m : EngCmd) : Nat :=
  match m.op with
  | .fwr _ _ _ _ => bitsOf m.c.toNat 11 1
  | .famo _ _ _ _ => bitsOf m.c.toNat 11 1
  | .freq _ _ _ _ => 2
  | _ => 3

def isFabric : Instr → Bool
  | .fwr _ _ _ _ => true
  | .famo _ _ _ _ => true
  | .freq _ _ _ _ => true
  | .flnch _ _ _ => true
  | _ => false

def fabLines (c : Word) : Nat := bitsOf c.toNat 12 20

/-- Packets that a command sends. -/
def fabPackets (m : EngCmd) : Nat :=
  match m.op with
  | .fwr _ _ _ _ => (fabLines m.c + 3) / 4
  | _ => 1

def fabRank (m : EngCmd) : Nat := bitsOf m.c.toNat 0 11

/-- The command starts: its packets count from its issue (R40). -/
def startFabric (s : State) (m : EngCmd) (rs : List EngRange) : SlotRes Unit :=
  let n := fabPackets m
  let dst := (memberOf s m.launch m.part (fabRank m)).1
  let now := s.activeOf m.launch
  let s := s.startOn { m with pkts := n } rs
  .ok () (if dst = selfMod s then s else s.upd fun k =>
    { k with fabSince := if SMap.get 0 k.fabOut dst = 0 then SMap.set 0 k.fabSince dst now else k.fabSince
             fabOut := SMap.set 0 k.fabOut dst (SMap.get 0 k.fabOut dst + n) })

/-- Require a rank below GANG_SIZE. -/
def needRank {α : Type} (s : State) (r : Nat) (k : SlotRes α) : SlotRes α :=
  need s (r < s.pre.gsize.toNat) .rankRange 0 k

def execFwr (g : Fin 64) (a b : SSpec) (c : SOpnd) (s : State) : Host.Outcome State Fault Refusal :=
  finish s ((readS s a 0).bind fun x s => (readS s b 1).bind fun y s => (readSO s c 2).bind fun z s =>
    needTag s g <|
    need s (bitsOf x.toNat 48 16 = 0) .operandReserved (opndInfo 0 0) <|
    needAddr s y 1 fun e =>
    need s (fabLines z ≠ 0 && bitsOf z.toNat 32 32 = 0) .operandReserved (opndInfo 0 2) <|
    needRank s (bitsOf z.toNat 0 11) <|
    need s (x.toNat % 64 = 0) .misaligned x <|
    need s (e.num % 64 = 0) .misaligned e.info <|
    let rs := [(e, 64 * fabLines z)]
    needFootprint s rs <|
    needNoDiff s rs .diffRemote <|
    startFabric s (newCmd s (.fwr g a b c) (some g) x y z) rs)

/-- The form of FAMO's control (R382, R384). -/
def famoOk (c : Word) : Bool :=
  bitsOf c.toNat 18 46 = 0 && (match amoOf (bitsOf c.toNat 12 4) with
    | none => false
    | some op => !amoFloat op || c.getLsbD 16)

def execFamo (g : Fin 64) (a b : SSpec) (c : SOpnd) (s : State) : Host.Outcome State Fault Refusal :=
  finish s ((readS s a 0).bind fun x s => (readS s b 1).bind fun y s => (readSO s c 2).bind fun z s =>
    needTag s g <|
    need s (bitsOf x.toNat 48 16 = 0) .operandReserved (opndInfo 0 0) <|
    need s (famoOk z) .operandReserved (opndInfo 0 2) <|
    needRank s (bitsOf z.toNat 0 11) <|
    need s (x.toNat % atomWidth (z.getLsbD 16) = 0) .misaligned x <|
    startFabric s (newCmd s (.famo g a b c) (some g) x y z) [])

def execFreq (g : Fin 64) (a b : SSpec) (c : SOpnd) (s : State) : Host.Outcome State Fault Refusal :=
  finish s ((readS s a 0).bind fun x s => (readS s b 1).bind fun y s => (readSO s c 2).bind fun z s =>
    needTag s g <|
    need s (bitsOf x.toNat 4 60 = 0) .operandReserved (opndInfo 0 0) <|
    needAddr s y 1 fun e =>
    need s (bitsOf z.toNat 11 53 = 0) .operandReserved (opndInfo 0 2) <|
    needRank s (bitsOf z.toNat 0 11) <|
    need s (e.num % 64 = 0) .misaligned e.info <|
    needFootprint s [(e, 64)] <|
    needNoDiff s [(e, 64)] .diffRemote <|
    startFabric s (newCmd s (.freq g a b c) (some g) x y z) [(e, 64)])

def execFlnch (g : Fin 64) (a : SSpec) (c : SOpnd) (s : State) : Host.Outcome State Fault Refusal :=
  finish s ((readS s a 0).bind fun x s => (readSO s c 2).bind fun z s =>
    needTag s g <|
    needAddr s x 0 fun e =>
    need s (bitsOf z.toNat 11 53 = 0) .operandReserved (opndInfo 0 2) <|
    needRank s (bitsOf z.toNat 0 11) <|
    need s (e.num % 64 = 0) .misaligned e.info <|
    needFootprint s [(e, 64)] <|
    needNoDiff s [(e, 64)] .diffRemote <|
    startFabric s (newCmd s (.flnch g a c) (some g) x 0 z) [(e, 64)])

/-! ### Forming packets -/

/-- The source of packet `i` of a command: its engine address and its lines. -/
def fabSource (m : EngCmd) (i : Nat) : EngAddr × Nat :=
  match m.op with
  | .fwr _ _ _ _ => ((engAddrOf m.b).plus (256 * i), min 4 (fabLines m.c - 4 * i))
  | .freq _ _ _ _ => (engAddrOf m.b, 1)
  | .flnch _ _ _ => (engAddrOf m.a, 1)
  | _ => (.mem 0, 0)

/-- A source line lies on a DIFF page. -/
def onDiffPage (s : State) (m : EngCmd) (e : EngAddr) : Bool :=
  match e with
  | .mem a => m.level ≠ .h && (match engPhys s m .read a with
    | .ok p => p.diff
    | .error _ => false)
  | .spad _ => false

/-- Read the `n` lines of a packet; a source line on a DIFF page ends the command with DIFF (R382). -/
def packetSource (s : State) (m : EngCmd) (e : EngAddr) : Nat → EngRes (List (List Byte) × State)
  | 0 => .ok ([], s)
  | n + 1 => (packetSource s m e n).bind fun r =>
    let x := e.plus (64 * n)
    if onDiffPage r.2 m x then .error (.fail stDiff)
    else (engRead r.2 m x 64).map fun l => (r.1 ++ [l.1], l.2)

/-- The data flits, byte enables, address, type and OPND of packet `i` (R33, R35, R383-R386). -/
def fabBody (m : EngCmd) (i : Nat) (lines : List (List Byte)) : Nat × Nat × Nat × List (BitVec 64) × List (List Byte) :=
  match m.op with
  | .fwr _ _ _ _ =>
    (0x01, m.a.toNat + 256 * i, 0, lines.map fun _ => BitVec.allOnes 64, lines)
  | .famo _ _ _ _ =>
    let w := atomWidth (m.c.getLsbD 16)
    let o := m.a.toNat % 64
    (0x02, m.a.toNat - o, bitsOf m.c.toNat 12 6, [BitVec.ofNat 64 ((2 ^ w - 1) * 2 ^ o)],
     [spliceBytes (zeros 64) o (natToBytes w m.b.toNat)])
  | .freq _ _ _ _ => (0x03, m.a.toNat, 0, [BitVec.allOnes 64], lines)
  | _ => (0x04, 0, 0, [BitVec.allOnes 64], lines)

/-- A command with packets still to inject (R382). -/
def unsent (m : EngCmd) : Bool := isFabric m.op && decide (m.moved < fabPackets m)

/-- The command of a core whose next packet is injected: ready, and none earlier of its stream waits. Those of a gang that is
out stay until it is back (R114). -/
def nextInject (s : State) (c : Fin 256) : Option EngCmd :=
  let mine := s.cmds.filter fun m => m.core = c && unsent m
  let stream (m : EngCmd) : Nat × Nat × Nat × Option Nat :=
    ((memberOf s m.launch m.part (fabRank m)).1, fabClass m, m.part, m.launch)
  mine.find? fun m => m.ready s && !(switchedOut s m.part (s.ctxOf m.launch m.core).gang) && !(mine.any fun e => e.id < m.id && stream e = stream m)

/-- The next packets of a command are given up: they leave the counts (R40). -/
def State.abandon (s : State) (m : EngCmd) (st : BitVec 8) : State :=
  let n := fabPackets m - m.moved
  let dst := (memberOf s m.launch m.part (fabRank m)).1
  let s := if dst = selfMod s then s else s.lowerCount m.launch m.core dst n false
  (s.setCmd { m with moved := fabPackets m }).cmdPacketDone m.id st n

/-- Why a fabric command stops at its source. -/
def State.stopFabric (s : State) (m : EngCmd) : EngStop → State
  | .fail st => s.abandon m st
  | .failed c a =>
    (s.logUnit c 2 m.part 1 m.core.val (failedStatus c).toNat (BitVec.ofNat 64 a) (s.ctxOf m.launch m.core).gang).abandon m
      (failedStatus c)
  | x => s.stopCmd m none x

/-- Form the next packet of a command and inject it. One that is not sent uses up a PSEQ of its stream as well: the manual
does not say. DESIGN CHOICE: log entry 42. -/
def State.injectNext (s : State) (m : EngCmd) : State :=
  let (e, n) := fabSource m m.moved
  match packetSource s m e n with
  | .error x => s.stopFabric m x
  | .ok (lines, s) =>
    let (typ, addr, opnd, be, flits) := fabBody m m.moved lines
    let (dst, dfn) := memberOf s m.launch m.part (fabRank m)
    let cls := fabClass m
    let (pseq, s) := s.takePseq dst cls m.part
    let gang := (s.ctxOf m.launch m.core).gang
    let p : Packet := Packet.sealed
      { Packet.zero with
        type := BitVec.ofNat 8 typ, cls := BitVec.ofNat 2 cls, dst := BitVec.ofNat 11 dst,
        src := BitVec.ofNat 11 (selfMod s), dfn := BitVec.ofNat 8 dfn, sfn := BitVec.ofNat 8 m.part,
        gang := gang, pseq := BitVec.ofNat 32 pseq, addr := BitVec.ofNat 64 addr, be := be,
        opnd := BitVec.ofNat 32 opnd, flits := flits }
    let info : SentPkt :=
      { dst := dst, sfn := m.part, cls := cls, pseq := pseq, gang := gang, core := some m.core,
        launch := m.launch, cmd := some m.id, entry := none }
    let s := s.setCmd { m with moved := m.moved + 1, parked := false }
    let (s, bad) := s.inject { pkt := p, info := info, part := m.part, seq := false, due := s.cycle }
    match bad with
    | none => s
    | some f => s.packetEnded info f.status (decide (f = .portDown))

/-- FABRIC_TIMEOUT: a count above zero for 200 us of gang-active time with no ACK or DROP is cleared,
and the commands whose packets it named end (R40, R116, R382). The packets' records stay, so that a later DROP still counts
for their gang (R110). -/
def execFabricTimeout (core : Fin 256) (dest : Fin 2048) (s : State) : Host.Outcome State Fault Refusal :=
  let k := s.coreAt core
  let d := dest.val
  if SMap.get 0 k.fabOut d = 0 ∨ s.activeOf k.launch < SMap.get 0 k.fabSince d + 320000 then .next s
  else
    let mine (r : SentPkt) : Bool := r.core = some core && r.launch = k.launch && r.dst = d
    let lost := s.fabric.sent.filter mine
    let forget (r : SentPkt) : SentPkt := if mine r then { r with core := none, cmd := none } else r
    let s := { s with fabric := { s.fabric with sent := s.fabric.sent.map forget } }
    let s := s.mapCore core fun k =>
      { k with fabOut := SMap.set 0 k.fabOut d 0, fabSince := SMap.set 0 k.fabSince d 0,
               fabLate := if k.wait = some .fence then some k.pc else k.fabLate,
               wait := if k.wait = some .fence then none else k.wait }
    .next (lost.foldl (fun s r => match r.cmd with
      | some id => s.cmdPacketDone id stFabricTimeout 1
      | none => s) s)

end Sys2Proof.Machine
end

