-- ==== Sys2Proof/Machine/Coll.lean ====
section
/-! DEFINITION. Collectives (R117-R137, R387-R391): the tile table, the schedules, deadlines, cuts and
pickups. -/

namespace Sys2Proof.Machine

/-! ### Descriptors (R120, R121) -/

def TileEntry.op (e : TileEntry) : Nat := fieldLE e.desc 0 1
def TileEntry.sched (e : TileEntry) : Nat := fieldLE e.desc 1 1
def TileEntry.src (e : TileEntry) : Nat := fieldLE e.desc 8 8
def TileEntry.dst (e : TileEntry) : Nat := fieldLE e.desc 16 8
def TileEntry.nblk (e : TileEntry) : Nat := fieldLE e.desc 24 4
def TileEntry.deadline (e : TileEntry) : Nat := fieldLE e.desc 28 4
def TileEntry.stage (e : TileEntry) : Nat := fieldLE e.desc 32 8
def TileEntry.pick (e : TileEntry) : Nat := fieldLE e.desc 40 8
def TileEntry.statusAt (e : TileEntry) : Nat := fieldLE e.desc 48 8
def TileEntry.barrier (e : TileEntry) : Nat := fieldLE e.desc 56 8

def opReduce : Nat := 1
def opGather : Nat := 2
def opAll : Nat := 3
def opBcast : Nat := 4
def opMax : Nat := 5

/-- Whether an operation may use a schedule (R121). -/
def schedOk (op sched : Nat) : Bool :=
  match op with
  | 1 => sched = 0 || sched = 1
  | 2 => sched = 0
  | 3 => sched = 2
  | 4 => sched = 1
  | 5 => sched = 1
  | _ => false

/-- A descriptor's form (R120, R121). -/
def descOk (d : List Byte) : Bool :=
  let f := fieldLE d
  schedOk (f 0 1) (f 1 1) && f 2 2 = 0 && f 8 8 % 64 = 0 && f 16 8 % 64 = 0 && f 32 8 % 64 = 0 &&
    f 40 8 % 64 = 0 && f 48 8 % 64 = 0 && decide (1 ≤ f 24 4) && decide (f 24 4 ≤ 1048576) &&
    decide (f 28 4 ≤ 1000000) && (f 28 4 = 0 || (f 0 1 = 1 && f 1 1 = 1)) && (f 28 4 ≠ 0 || f 40 8 = 0)

/-- DST bytes of an operation (R121). -/
def TileEntry.dstBlocks (e : TileEntry) : Nat :=
  if e.op = opGather ∨ e.op = opAll then e.nblk * e.size else e.nblk

/-- Ceil(sqrt n) (R121). -/
def gridSide (n : Nat) : Nat := if isqrt n * isqrt n = n then isqrt n else isqrt n + 1

/-! ### The tree (R130, R132) -/

def treeParent (k : Nat) : Nat := (k - 1) / 2
def treeSlot (k : Nat) : Nat := k - 2 * treeParent k - 1
/-- Slots of a rank that hold a child. -/
def treeSlots (n k : Nat) : List Nat := [0, 1].filter fun j => 2 * k + 1 + j < n
def treeChild (k j : Nat) : Nat := 2 * k + 1 + j

/-- Levels below a rank. -/
def treeHeight (n : Nat) : Nat → Nat → Nat
  | 0, _ => 0
  | fuel + 1, k => if 2 * k + 1 < n then treeHeight n fuel (2 * k + 1) + 1 else 0

/-- Whether rank `r` lies in the subtree of root `t`. -/
def inSubtree (t : Nat) : Nat → Nat → Bool
  | 0, r => r = t
  | fuel + 1, r => r = t || (decide (0 < r) && inSubtree t fuel (treeParent r))

/-- The ranks of a subtree less the subtrees of other roots below it. -/
def subtreeMask (n t : Nat) (less : List Nat) : BitVec 2048 :=
  (List.range n).foldl (fun (m : BitVec 2048) r =>
    if inSubtree t 12 r && !(less.any fun u => u ≠ t && inSubtree t 12 u && inSubtree u 12 r)
    then m ||| BitVec.ofNat 2048 (2 ^ (r % 2048)) else m) 0

/-- Roots of cuts known here strictly below a rank. -/
def TileEntry.cutsBelow (e : TileEntry) (t : Nat) : List Nat := e.cuts.filter fun u => u ≠ t && inSubtree t 12 u

/-- Ranks that a pickup brings: the subtree of its root less what was cut below; a rough one brings none until a cut
below it is known (R134). -/
def TileEntry.pickMask (e : TileEntry) (p : Nat × Bool) : BitVec 2048 :=
  if p.2 && (e.cutsBelow p.1).isEmpty then 0 else subtreeMask e.size p.1 (e.cutsBelow p.1)

def TileEntry.maskOf (e : TileEntry) (l : List (Nat × Bool)) : BitVec 2048 :=
  l.foldl (fun m p => m ||| e.pickMask p) 0

/-- The masks follow the cuts and pickups known. -/
def TileEntry.refresh (e : TileEntry) : TileEntry :=
  if e.state < 2 then e
  else
    let present := e.base ||| e.maskOf e.folded
    { e with present := present, pending := e.maskOf e.picks &&& ~~~present }

/-- A CUT names one more root. -/
def TileEntry.noteCut (e : TileEntry) (root : Nat) : TileEntry :=
  ({ e with cuts := if e.cuts.contains root then e.cuts else e.cuts ++ [root] } : TileEntry).refresh

def popcount (m : BitVec 2048) : Nat := (List.range 2048).countP fun i => m.getLsbD i

/-! ### Sums (R127, R128) -/

/-- The 16 lanes of a block. -/
def lanesOf (bs : List Byte) : List Int := (List.range 16).map fun j => signed 32 (fieldLE bs (4 * j) 4)

def laneBytes (l : List Int) : List Byte := l.flatMap fun x => natToBytes 4 (intToCode 32 x)

/-- The smallest anchor increase that would have held a sum. -/
def rescaleOf (s : Int) : Nat → Nat → Nat
  | 0, k => k
  | fuel + 1, k => if s ≥ 2 ^ (31 + k) ∨ s ≤ -(2 ^ (31 + k)) then rescaleOf s fuel (k + 1) else k

/-- One lane's sum, saturated, with its rescale request. -/
def laneSum (xs : List Int) : Int × Nat :=
  let s := xs.foldl (· + ·) 0
  let lim : Int := 2 ^ 31 - 1
  if s > lim then (lim, rescaleOf s 32 1) else if s < -lim then (-lim, rescaleOf s 32 1) else (s, 0)

/-- The linear checksum of a block (R128). -/
def linearSum (bs : List Byte) : Nat :=
  (((lanesOf bs).zipIdx.foldl (fun (a : Int) (e : Int × Nat) => a + (e.2 + 1) * e.1) 0) % (2 ^ 32 : Nat)).toNat

/-- Add blocks (R127, R128). -/
def addBlocks (key block : Nat) (xs : List CollIn) : CollIn :=
  let rows := xs.map fun x => lanesOf x.data
  let sums := (List.range 16).map fun j => laneSum (rows.map fun r => r.getD j 0)
  { key := key, block := block, data := laneBytes (sums.map (·.1)),
    cksum := (xs.foldl (fun a x => a + x.cksum) 0) % 2 ^ 32,
    resc := (sums.map (·.2)).foldl Nat.max ((xs.map (·.resc)).foldl Nat.max 0),
    fold := xs.foldl (fun a x => a + x.fold) 0 }

/-- The maximum of blocks of int16 (R126). -/
def maxBlocks (key block : Nat) (xs : List CollIn) : CollIn :=
  let data := (List.range 32).flatMap fun j =>
    let vs := xs.map fun x => signed 16 (fieldLE x.data (2 * j) 2)
    natToBytes 2 (intToCode 16 (vs.foldl max (vs.headD 0)))
  { key := key, block := block, data := data, cksum := linearSum data, resc := 0,
    fold := xs.foldl (fun a x => a + x.fold) 0 }

def TileEntry.merge (e : TileEntry) (key block : Nat) (xs : List CollIn) : CollIn :=
  if e.op = opMax then maxBlocks key block xs else addBlocks key block xs

/-! ### Results of a sequencer's work -/

/-- Why an entry stops: a fault that parks it (R137), a channel at which it waits (R91, R187), a differentiable page
(R137), or a reason and a drop code that end it. -/
inductive CollStop where
  | park (c : Cause) (a : Nat)
  | wait (ch : Fin 256)
  | diff (a : Nat)
  | fail (reason drop : Nat)
  deriving DecidableEq, Repr

/-- Work done so far stays done when the entry ends; a park and a wait leave everything as it was. -/
inductive CollOut (α : Type) where
  | ok (a : α) (s : State)
  | stop (x : CollStop) (s : State)
  deriving DecidableEq, Repr

def CollOut.bind {α β : Type} (r : CollOut α) (k : α → State → CollOut β) : CollOut β :=
  match r with
  | .ok a s => k a s
  | .stop x s => .stop x s

/-- Reasons of R136. -/
def rsSeq : Nat := 1
def rsDrop : Nat := 2
def rsDiff : Nat := 3
def rsNoPort : Nat := 4
def rsXlate : Nat := 5
def rsAborted : Nat := 6

def State.partRt (s : State) (part : Nat) : PartRt := if h : part < 17 then s.rt[part] else PartRt.none

def State.setRt (s : State) (part : Nat) (f : PartRt → PartRt) : State :=
  if h : part < 17 then { s with rt := s.rt.set part (f s.rt[part]) } else s

/-- A collective's cause in the fault log of its partition (R256). -/
def State.logSeq (s : State) (c : Cause) (part idx : Nat) (addr : Nat) (g : BitVec 32) : State :=
  s.logUnit c (hFlag c) part 2 idx 0 (BitVec.ofNat 64 addr) g

/-- A sequencer as a requester of lines (R90, R95). -/
def seqReq (s : State) (part : Nat) : Req := ⟨part, part, (s.partRt part).work.ctx, .ways⟩

/-- Translate a sequencer's line through its TLB (R86, R137): no differentiable page, no host page. -/
def collPhys (s : State) (part : Nat) (kind : AccKind) (va : Nat) : CollOut Phys :=
  let port := (s.partRt part).work.port
  match checkFound s part .u kind va (lookupSeq s port part va) with
  | .error c => .stop (.park c va) s
  | .ok p =>
    if p.host then .stop (.park .accessKind va) s
    else if p.diff then .stop (.diff va) s
    else .ok p (s.noteSeq (seqReq s part) port part va)

/-- A line's channels admit the sequencer: each keeps it waiting until its first request there is admitted, which stands for
the whole run. DESIGN CHOICE: log entry 43. -/
def collAdmit (s : State) (part : Nat) (chans : List (Fin 256)) : CollOut Unit :=
  let new := chans.filter fun ch => !(s.partRt part).work.paid.contains ch
  match busyChan s part new with
  | some ch => .stop (.wait ch) s
  | none =>
    let w := (s.partRt part).work
    .ok () (s.setRt part fun r => { r with work := { w with paid := new ++ w.paid } })

def collRead (s : State) (part va : Nat) : CollOut (List Byte) :=
  (collPhys s part .read va).bind fun p s =>
    let side : Bool := p.mtype ≠ 0
    (collAdmit s part (accessChans s (seqReq s part) p.addr side .read)).bind fun _ s =>
      match sideFault s part p.addr side with
      | some c => .stop (.fail rsDrop 0x04) (s.logUnit c 2 part 4 (chanOf p.addr) 0 (BitVec.ofNat 64 p.addr) 0)
      | none =>
        let s := (s.applyLine p.addr).access (seqReq s part) p.addr side .read
        .ok (s.look part p.addr 64 side) s

def collWrite (s : State) (part va : Nat) (bs : List Byte) : CollOut Unit :=
  (collPhys s part .write va).bind fun p s =>
    let side : Bool := p.mtype ≠ 0
    (collAdmit s part (accessChans s (seqReq s part) p.addr side .full)).bind fun _ s =>
      let s := (s.applyLine p.addr).access (seqReq s part) p.addr side .full
      .ok () (s.put part p.addr bs side)

/-- Write consecutive lines. -/
def collWrites (s : State) (part : Nat) : List (Nat × List Byte) → CollOut Unit
  | [] => .ok () s
  | (va, bs) :: l => (collWrite s part va bs).bind fun _ s => collWrites s part l

/-- Own contribution: block `b` of SRC as an input. -/
def readSrc (s : State) (part : Nat) (e : TileEntry) (off b : Nat) : CollOut CollIn :=
  (collRead s part (e.src + 64 * (off + b))).bind fun bs s =>
    .ok { key := 0, block := b, data := bs, cksum := linearSum bs, resc := 0, fold := 1 } s

def readSrcs (s : State) (part : Nat) (e : TileEntry) (off : Nat) : List Nat → CollOut (List CollIn)
  | [] => .ok [] s
  | b :: l => (readSrc s part e off b).bind fun x s =>
      (readSrcs s part e off l).bind fun xs s => .ok (x :: xs) s

/-! ### Packets (R124, R125) -/

/-- What a group of blocks says in its head line beside the blocks. -/
structure Head where
  flags   : Nat
  slot    : Nat
  rank    : Nat
  missing : Nat
  step    : Nat
  deriving DecidableEq, Repr

def headBytes (e : TileEntry) (h : Head) (bs : List CollIn) : List Byte :=
  let ck := bs.flatMap fun b => natToBytes 4 b.cksum
  let rs := bs.flatMap fun b => natToBytes 1 b.resc
  natToBytes 4 ((bs.map (·.block)).headD 0) ++ natToBytes 1 e.idx ++ natToBytes 1 h.flags ++
    natToBytes 1 bs.length ++ natToBytes 1 h.slot ++ natToBytes 2 ((bs.map (·.fold)).headD 0) ++
    natToBytes 2 h.rank ++ natToBytes 2 h.missing ++ natToBytes 2 h.step ++ (ck ++ zeros 12).take 12 ++
    (rs ++ zeros 3).take 3 ++ [0] ++ natToBytes 4 e.dchk ++ zeros 28

/-- Groups of up to three blocks. -/
def groups3 : Nat → List CollIn → List (List CollIn)
  | 0, _ => []
  | _, [] => []
  | fuel + 1, l => l.take 3 :: groups3 fuel (l.drop 3)

/-- Send one packet of blocks to a rank. -/
def sendGroup (s : State) (part : Nat) (e : TileEntry) (dst : Nat) (pick : Bool) (h : Head) (addr : Nat)
    (bs : List CollIn) : CollOut Unit :=
  let (mod_, dfn) := e.members.getD dst (selfMod s, part)
  let (pseq, s) := s.takePseq mod_ 0 part
  let flits := headBytes e h bs :: bs.map (·.data)
  let p : Packet := Packet.sealed
    { Packet.zero with
      type := if pick then 0x06 else 0x05, dst := BitVec.ofNat 11 mod_,
      src := BitVec.ofNat 11 (selfMod s), dfn := BitVec.ofNat 8 dfn, sfn := BitVec.ofNat 8 part,
      gang := e.gang, pseq := BitVec.ofNat 32 pseq, addr := BitVec.ofNat 64 addr,
      be := flits.map fun _ => BitVec.allOnes 64, opnd := BitVec.ofNat 32 e.seq, flits := flits }
  let info : SentPkt :=
    { dst := mod_, sfn := part, cls := 0, pseq := pseq, gang := e.gang, core := none, launch := e.launch,
      cmd := none, entry := some (e.idx, e.seq) }
  let (s, bad) := s.inject { pkt := p, info := info, part := part, seq := true, due := s.cycle }
  match bad with
  | none => .ok () s
  | some .noPort => .stop (.fail rsNoPort 0) s
  | some .noRoute => .stop (.fail rsDrop 0x02) s
  | some .portDown => .stop (.fail rsDrop 0x03) s

/-- Send blocks to a rank, each at an address. -/
def sendBlocks (s : State) (part : Nat) (e : TileEntry) (dst : Nat) (pick : Bool) (h : Head)
    (addr : Nat → Nat) (bs : List CollIn) : CollOut Unit :=
  (groups3 bs.length bs).foldl (fun r g => r.bind fun _ s =>
    sendGroup s part e dst pick h (addr ((g.map (·.block)).headD 0)) g) (.ok () s)

/-- The half of STAGE of this sequence number (R125). -/
def TileEntry.half (e : TileEntry) : Nat :=
  if e.op = opAll then e.stage + 64 * e.nblk * gridSide e.size * gridSide e.size * (e.seq % 2)
  else e.stage + 128 * e.nblk * (e.seq % 2)

def TileEntry.inAt (e : TileEntry) (key block : Nat) : Option CollIn :=
  e.ins.find? fun x => x.key = key && x.block = block

/-- The inputs of a key over a range of blocks, if all have arrived. -/
def TileEntry.inputs (e : TileEntry) (key lo hi : Nat) : Option (List CollIn) :=
  (List.range (hi - lo)).mapM fun i => e.inAt key (lo + i)

/-- Raise the rescale bytes of the result (R127, R136). -/
def noteResc (e : TileEntry) (bs : List CollIn) : TileEntry :=
  { e with resc := bs.foldl (fun (l : List Nat) b => setAt l b.block (max (l.getD b.block 0) b.resc)) e.resc }

/-- A result block whose checksum does not agree (R128). -/
def ckBad (e : TileEntry) (b : CollIn) : Bool :=
  e.op = opReduce && b.resc = 0 && linearSum b.data ≠ b.cksum

/-- A consumer's check of result blocks, each at its address: every mismatch is counted and logged (R128). -/
def checkBlocks (s : State) (part : Nat) (e : TileEntry) (addr : Nat → Nat) (bs : List CollIn) : State × TileEntry :=
  (bs.filter (ckBad e)).foldl (fun r b =>
    (r.1.logSeq .collCheck part e.idx (addr b.block) e.gang, { r.2 with ckerr := r.2.ckerr + 1 })) (s, e)

/-! ### RING (R130) -/

/-- Blocks of chunk `c`. -/
def chunkLo (e : TileEntry) (c : Nat) : Nat := c * e.nblk / e.size
def chunkHi (e : TileEntry) (c : Nat) : Nat := (c + 1) * e.nblk / e.size

def flagFinal : Nat := 4
def flagRough : Nat := 1
def flagPick : Nat := 2

/-- Step `t` of REDUCE_SUM over the ring. -/
def ringStep (s : State) (part t : Nat) (e : TileEntry) : CollOut TileEntry :=
  let n := e.size
  let k := e.rank
  if e.passed.contains t then .ok e s else
  let c := (k + 2 * n - t) % n
  let lo := chunkLo e c
  let hi := chunkHi e c
  let prev := if t = 0 then some [] else e.inputs (t - 1) lo hi
  match prev with
  | none => .ok e s
  | some xs =>
    let done (e : TileEntry) : TileEntry := { e with passed := t :: e.passed }
    if t < n then
      (readSrcs s part e 0 ((List.range (hi - lo)).map (· + lo))).bind fun own s =>
        let bs := own.map fun o => match xs.find? (·.block = o.block) with
          | some x => addBlocks t o.block [x, o]
          | none => addBlocks t o.block [o]
        if t + 1 = n then
          (collWrites s part (bs.map fun b => (e.dst + 64 * b.block, b.data))).bind fun _ s =>
            let (s, e) := checkBlocks s part e (fun b => e.dst + 64 * b) bs
            (sendBlocks s part e ((k + 1) % n) false ⟨flagFinal, 0, k, 0, t⟩ (fun b => e.dst + 64 * b) bs).bind
              fun _ s => .ok (done (noteResc { e with done := e.done + bs.length } bs)) s
        else
          (sendBlocks s part e ((k + 1) % n) false ⟨0, 0, k, 0, t⟩ (fun b => e.half + 64 * b) bs).bind
            fun _ s => .ok (done e) s
    else
      (sendBlocks s part e ((k + 1) % n) false ⟨flagFinal, 0, k, 0, t⟩ (fun b => e.dst + 64 * b) xs).bind
        fun _ s => .ok (done e) s

/-- Step `t` of ALL_GATHER. -/
def gatherStep (s : State) (part t : Nat) (e : TileEntry) : CollOut TileEntry :=
  let n := e.size
  let k := e.rank
  if e.passed.contains t then .ok e s else
  let origin := (k + n - t) % n
  let send (s : State) (e : TileEntry) (bs : List CollIn) : CollOut TileEntry :=
    (sendBlocks s part e ((k + 1) % n) false ⟨0, 0, k, 0, t⟩ (fun b => e.dst + 64 * (e.nblk * origin + b)) bs).bind
      fun _ s => .ok { e with passed := t :: e.passed } s
  if t = 0 then
    (readSrcs s part e 0 (List.range e.nblk)).bind fun bs s =>
      (collWrites s part (bs.map fun b => (e.dst + 64 * (e.nblk * k + b.block), b.data))).bind fun _ s =>
        send s { e with done := e.done + bs.length } bs
  else match e.inputs (t - 1) 0 e.nblk with
    | none => .ok e s
    | some bs => send s e bs

/-! ### TREE (R130-R134) -/

/-- Marks that a forwarded FINAL block and a passed pickup leave in `passed`. -/
def markFinal (b : Nat) : Nat := b
def markPick (e : TileEntry) (j : Nat) : Nat := e.nblk + j

def keyFinal : Nat := 2
def keyPick : Nat := 3
def keyPicked : Nat := 4
/-- Of a pickup that is itself rough. -/
def keyPickRough : Nat := 5

def isPickKey (k : Nat) : Bool := k = keyPick || k = keyPickRough

def TileEntry.slotDone (e : TileEntry) (j : Nat) : Bool := (e.inputs j 0 e.nblk).isSome

/-- A CUT control packet (R133). -/
def cutPacket (s : State) (e : TileEntry) (dst : Nat) (down : Bool) (root : Nat) : Control :=
  let m := e.members.getD dst (0, 0)
  ctlOf s 0x12 m.1 (e.idx + bit down 8 + 2 ^ 9 * m.2) (root + 2 ^ 16 * (e.seq % 2 ^ 16))

/-- A sequencer's control packet leaves only by a port and a sequencer of its partition (R31); else it is dropped, as
control packets are (R32). -/
def State.sendSeqControl (s : State) (part : Nat) (c : Control) : State :=
  match routePort s 3 c.dst.toNat with
  | some n => if c.dst.toNat = selfMod s || ownsPort s part n true then s.sendControl c else s.countDrop n
  | none => s.sendControl c

/-- Send a CUT to each child. -/
def cutsDown (s : State) (e : TileEntry) (roots : List Nat) : State :=
  (treeSlots e.size e.rank).foldl (fun s j =>
    roots.foldl (fun s r => s.sendSeqControl e.part (cutPacket s e (treeChild e.rank j) true r)) s) s

/-- Send a CUT to the parent. -/
def cutUp (s : State) (e : TileEntry) (root : Nat) : State :=
  s.sendSeqControl e.part (cutPacket s e (treeParent e.rank) false root)

/-- Send blocks to every child. -/
def sendDown (s : State) (part : Nat) (e : TileEntry) (pick : Bool) (h : Head) (addr : Nat → Nat)
    (bs : List CollIn) : CollOut Unit :=
  (treeSlots e.size e.rank).foldl (fun r j => r.bind fun _ s =>
    sendBlocks s part e (treeChild e.rank j) pick h addr bs) (.ok () s)

/-- Rank 0's result: written, then sent down with its cuts. -/
def treeRoot (s : State) (part : Nat) (e : TileEntry) (bs : List CollIn) : CollOut TileEntry :=
  (collWrites s part (bs.map fun b => (e.dst + 64 * b.block, b.data))).bind fun _ s =>
    let miss := e.cuts.length
    let h : Head := ⟨if e.op = opBcast then 0 else flagFinal, 0, 0, miss, 0⟩
    let (s, e) := checkBlocks s part e (fun b => e.dst + 64 * b) bs
    (sendDown s part e false h (fun b => e.dst + 64 * b) bs).bind fun _ s =>
      let e := noteResc { e with sent := true, done := e.nblk, missing := some miss,
                                 ins := e.ins ++ bs.map fun b => { b with key := keyFinal } } bs
      .ok e (cutsDown s e e.cuts)

/-- The way up: the sum once every slot has arrived or been cut. -/
def treeUp (s : State) (part : Nat) (e : TileEntry) : CollOut TileEntry :=
  let slots := treeSlots e.size e.rank
  if e.sent then .ok e s
  else if e.op = opBcast then
    if e.rank = 0 then (readSrcs s part e 0 (List.range e.nblk)).bind fun bs s => treeRoot s part e bs
    else .ok { e with sent := true } s
  else if !(slots.all fun j => e.slotDone j || e.cut.contains j) then .ok e s
  else
    (readSrcs s part e 0 (List.range e.nblk)).bind fun own s =>
      let bs := own.map fun o =>
        e.merge 0 o.block (o :: ((slots.filter fun j => !e.cut.contains j).filterMap fun j => e.inAt j o.block))
      if e.rank = 0 then treeRoot s part e bs
      else
        let slot := treeSlot e.rank
        let rough := !e.cut.isEmpty || e.rough.any fun j => !e.cut.contains j
        (sendBlocks s part e (treeParent e.rank) false ⟨if rough then flagRough else 0, slot, e.rank, 0, 0⟩
          (fun b => e.half + 64 * (e.nblk * slot + b)) bs).bind fun _ s => .ok { e with sent := true } s

/-- A late slot that has completed travels as a pickup (R134). -/
def treeLate (s : State) (part j : Nat) (e : TileEntry) : CollOut TileEntry :=
  if !(e.sent && e.cut.contains j) || e.passed.contains (markPick e j) then .ok e s
  else match e.inputs j 0 e.nblk with
    | none => .ok e s
    | some bs =>
      let root := treeChild e.rank j
      let h : Head := ⟨flagPick + (if e.rough.contains j then flagRough else 0), 0, root, 0, 0⟩
      let e' := { e with passed := markPick e j :: e.passed }
      if e.rank = 0 then
        (sendDown s part e true h (fun b => e.pick + 64 * b) bs).bind fun _ s =>
          let key := if e.rough.contains j then keyPickRough else keyPick
          .ok { e' with ins := e'.ins ++ bs.map fun b => { b with key := key, fold := root } } s
      else
        (sendBlocks s part e (treeParent e.rank) true h (fun b => e.pick + 64 * b) bs).bind fun _ s => .ok e' s

/-- The way down: blocks of the result pass on to the children. -/
def treeDown (s : State) (part : Nat) (e : TileEntry) : CollOut TileEntry :=
  if e.rank = 0 then .ok e s else
  let bs := e.ins.filter fun x => x.key = keyFinal && !e.passed.contains (markFinal x.block)
  if bs.isEmpty then .ok e s else
  let h : Head := ⟨if e.op = opBcast then 0 else flagFinal, 0, e.rank, e.missing.getD 0, 0⟩
  bs.foldl (fun r b => r.bind fun e s =>
    (sendDown s part e false h (fun i => e.dst + 64 * i) [b]).bind fun _ s =>
      .ok { e with passed := markFinal b.block :: e.passed } s) (.ok e s)

/-- One block of a pickup is added into PICK (R127). -/
def pickBlock (s : State) (part : Nat) (e : TileEntry) (b : CollIn) : CollOut TileEntry :=
  (collRead s part (e.pick + 64 * b.block)).bind fun old s =>
    let had := (e.inAt keyPicked b.block).getD ⟨keyPicked, b.block, [], 0, 0, 0⟩
    let x := addBlocks keyPicked b.block [{ had with data := old }, b]
    (collWrite s part (e.pick + 64 * b.block) x.data).bind fun _ s =>
      .ok { e with ins := { x with data := [] } :: e.ins.filter fun y => !(y.key = keyPicked && y.block = b.block) } s

/-- Pickups that have arrived whole are added into PICK, and wait for RPICK (R134). -/
def treePick (s : State) (part : Nat) (e : TileEntry) : CollOut TileEntry :=
  let roots := ((e.ins.filter fun x => isPickKey x.key).map fun x => (x.fold, decide (x.key = keyPickRough))).eraseDups
  roots.foldl (fun r (p : Nat × Bool) => r.bind fun e s =>
    let bs := e.ins.filter fun x => isPickKey x.key && x.fold = p.1
    if bs.length < e.nblk then .ok e s
    else
      (bs.foldl (fun (r : CollOut TileEntry) b => r.bind fun e s => pickBlock s part e b) (.ok e s)).bind fun e s =>
        .ok ({ e with ins := e.ins.filter fun x => !(isPickKey x.key && x.fold = p.1),
                      picks := e.picks ++ [p] } : TileEntry).refresh s) (.ok e s)

/-! ### A2A2 (R130) -/

/-- Keys of A2A2 inputs: a stage-1 chunk by its place, a chunk for DST by its source. -/
def keyDirect (source : Nat) : Nat := 4096 + source

/-- Deliver a chunk for destination `d` from source `src` to DST: the module's own, or by packets. -/
def a2aFinal (s : State) (part d src : Nat) (e : TileEntry) (bs : List CollIn) : CollOut TileEntry :=
  if d = e.rank then
    (collWrites s part (bs.map fun b => (e.dst + 64 * (e.nblk * src + b.block), b.data))).bind fun _ s =>
      .ok { e with done := e.done + bs.length } s
  else
    (sendBlocks s part e d false ⟨0, 0, e.rank, 0, 1⟩ (fun b => e.dst + 64 * (e.nblk * src + b)) bs).bind
      fun _ s => .ok e s

/-- Own chunk for destination `d`: to its intermediate, or straight on. -/
def a2aOwn (s : State) (part d : Nat) (e : TileEntry) : CollOut TileEntry :=
  let g := gridSide e.size
  let k := e.rank
  if e.passed.contains (8192 + d) then .ok e s else
  let mid := g * (k / g) + d % g
  (readSrcs s part e (e.nblk * d) (List.range e.nblk)).bind fun bs s =>
    let e' := { e with passed := (8192 + d) :: e.passed }
    if e.size ≤ mid ∨ mid = k then a2aFinal s part d k e' bs
    else
      (sendBlocks s part e mid false ⟨0, 0, k, 0, 0⟩
        (fun b => e.half + 64 * (e.nblk * ((k % g) * g + d / g) + b)) bs).bind fun _ s => .ok e' s

/-- A chunk staged here goes to its destination. -/
def a2aStage2 (s : State) (part place : Nat) (e : TileEntry) : CollOut TileEntry :=
  let g := gridSide e.size
  if e.passed.contains place then .ok e s
  else match e.inputs place 0 e.nblk with
    | none => .ok e s
    | some bs =>
      let src := g * (e.rank / g) + place / g
      let d := g * (place % g) + e.rank % g
      a2aFinal s part d src { e with passed := place :: e.passed } bs

/-! ### Running an entry -/

/-- Run steps over an entry. -/
def runSteps (f : Nat → TileEntry → State → CollOut TileEntry) (l : List Nat) (e : TileEntry) (s : State) :
    CollOut TileEntry :=
  l.foldl (fun r t => r.bind fun e s => f t e s) (.ok e s)

/-- What TRDY has set going. -/
def collStarted (s : State) (part : Nat) (e : TileEntry) : CollOut TileEntry :=
  let n := e.size
  if n ≤ 1 then
    if e.sent then .ok e s
    else (readSrcs s part e 0 (List.range e.nblk)).bind fun own s =>
      let bs := if e.op = opReduce then own.map fun o => addBlocks 0 o.block [o] else own
      (collWrites s part (bs.map fun b => (e.dst + 64 * b.block, b.data))).bind fun _ s =>
        .ok (noteResc { e with sent := true, done := e.dstBlocks } bs) s
  else if e.op = opAll then
    (runSteps (fun d e s => a2aOwn s part d e) (List.range n) e s).bind fun e s =>
      runSteps (fun p e s => a2aStage2 s part p e) (List.range (gridSide n * gridSide n)) e s
  else if e.op = opGather then
    runSteps (fun t e s => gatherStep s part t e) (List.range (n - 1)) e s
  else if e.sched = 0 then
    runSteps (fun t e s => ringStep s part t e) (List.range (2 * n - 2)) e s
  else
    (treeUp s part e).bind fun e s => runSteps (fun j e s => treeLate s part j e) (treeSlots n e.rank) e s

/-- Every rank of the gang. -/
def allRanks (n : Nat) : BitVec 2048 := BitVec.ofNat 2048 (2 ^ n - 1)

/-- A final state is reached (R130, R134). -/
def collFinish (s : State) (e : TileEntry) : TileEntry :=
  if 2 ≤ e.state ∨ e.done < e.dstBlocks then e
  else
    let miss := if e.sched = 1 ∧ e.op = opReduce then e.missing.getD 0 else 0
    if e.cuts.length < miss then e
    else
      let us := if e.fired then (s.activeOf e.launch - e.start) / 1600 else 0
      let mask := e.cuts.foldl (fun m r => m &&& ~~~(subtreeMask e.size r [])) (allRanks e.size)
      ({ e with state := if miss = 0 then 2 else 3, report := true, active := us,
                base := if miss = 0 then allRanks e.size else mask } : TileEntry).refresh

/-- The pending mask of R134: ranks of cut subtrees whose pickups PICK does not yet hold. -/
def TileEntry.pendingMask (e : TileEntry) : BitVec 2048 :=
  if e.state = 3 then allRanks e.size &&& ~~~(e.present ||| e.pending) else 0

/-- The STATUS record (R136). -/
def statusBytes (e : TileEntry) : List Byte :=
  let resc := (e.resc ++ List.replicate (e.nblk - e.resc.length) 0).take e.nblk
  let body := natToBytes 4 e.seq ++ natToBytes 1 e.state ++ natToBytes 1 e.reason ++ natToBytes 1 e.drop ++ [0] ++
    natToBytes 2 (popcount e.present) ++ natToBytes 2 (popcount e.pending) ++
    natToBytes 4 (resc.countP (· ≠ 0)) ++ natToBytes 4 e.ckerr ++ natToBytes 4 e.stale ++ natToBytes 8 e.active ++
    zeros 32 ++ natToBytes 256 e.present.toNat ++ resc.flatMap (natToBytes 1)
  body ++ zeros ((64 - body.length % 64) % 64)

/-- Lines of a byte list at a VA. -/
def asLines (va : Nat) (bs : List Byte) : List (Nat × List Byte) :=
  (List.range ((bs.length + 63) / 64)).map fun i => (va + 64 * i, (bs.drop (64 * i)).take 64)

/-- The barrier of an entry receives its DST bytes (R130). A reference that names no barrier of its
launch adds nothing. -/
def collCount (s : State) (part : Nat) (e : TileEntry) : State :=
  let ref := e.barrier
  let index := bitsOf ref 0 16
  if ref < 2 ^ 24 ∧ index < e.hdr.barriers then
    match launchCore s e.launch (bitsOf ref 16 8) with
    | some c => s.sendCount e.launch part e.core c index (64 * e.dstBlocks)
    | none => s
  else s

/-- The status record, then the count (R136). -/
def collReport (s : State) (part : Nat) (e : TileEntry) : CollOut TileEntry :=
  if !e.report then .ok e s
  else (collWrites s part (asLines e.statusAt (statusBytes e))).bind fun _ s =>
    .ok { e with report := false } (collCount s part e)

/-- One block of PICK is folded into DST, and PICK zeroed (R135). -/
def foldBlock (s : State) (part : Nat) (e : TileEntry) (b : Nat) : CollOut TileEntry :=
  (collRead s part (e.dst + 64 * b)).bind fun d s =>
  (collRead s part (e.pick + 64 * b)).bind fun p s =>
    let base := (e.inAt keyFinal b).getD ⟨keyFinal, b, d, linearSum d, 0, 0⟩
    let more := (e.inAt keyPicked b).getD ⟨keyPicked, b, p, linearSum p, 0, 0⟩
    let x := addBlocks keyFinal b [{ base with data := d }, { more with data := p }]
    (collWrites s part [(e.dst + 64 * b, x.data), (e.pick + 64 * b, zeros 64)]).bind fun _ s =>
      let (s, e) := checkBlocks s part e (fun i => e.dst + 64 * i) [x]
      .ok (noteResc { e with ins := x :: e.ins.filter fun y =>
        !(y.block = b && (y.key = keyFinal || y.key = keyPicked)) } [x]) s

/-- One RPICK (R135): PICK is folded into DST, then zeroed; with nothing picked up it only reports. -/
def collFold (s : State) (part : Nat) (e : TileEntry) : CollOut TileEntry :=
  if e.state ≠ 3 ∨ e.pending = 0 then .ok { e with report := true } s
  else
    ((List.range e.nblk).foldl (fun (r : CollOut TileEntry) b => r.bind fun e s => foldBlock s part e b) (.ok e s)).bind
      fun e s =>
        let e := ({ e with report := true, folded := e.folded ++ e.picks, picks := [] } : TileEntry).refresh
        .ok { e with state := if e.present = allRanks e.size then 2 else 3 } s

/-- RPICKs in the order of their issue: each folds, then writes the record and counts (R390). -/
def collFolds (s : State) (part : Nat) : Nat → TileEntry → CollOut TileEntry
  | 0, e => .ok e s
  | n + 1, e => (collFolds s part n e).bind fun e s =>
      if e.rpicks = 0 || e.report then .ok e s
      else (collFold s part { e with rpicks := e.rpicks - 1 }).bind fun e s => collReport s part e

/-- Everything that an entry can do now. -/
def collBody (s : State) (part : Nat) (e : TileEntry) : CollOut TileEntry :=
  let zero : CollOut TileEntry :=
    if e.zeroed then .ok e s
    else (collWrites s part (asLines e.statusAt (zeros (64 * ((320 + e.nblk + 63) / 64))))).bind fun _ s =>
      .ok { e with zeroed := true } s
  zero.bind fun e s =>
    let open_ := e.fired && afterDone s e.after && s.perf.all (Clk.le e.rc)
    let e := if open_ then { e with after := [], rc := Clk.zero } else e
    let run : CollOut TileEntry := if e.state = 4 then .ok e s else
      (if e.sched = 1 then treeDown s part e else .ok e s).bind fun e s =>
        (if open_ then collStarted s part e else .ok e s).bind fun e s =>
          (if e.sched = 1 then treePick s part e else .ok e s).bind fun e s => .ok (collFinish s e) s
    run.bind fun e s => (collReport s part e).bind fun e s =>
      if e.state < 2 then .ok e s else collFolds s part e.rpicks e

def State.tileEntry (s : State) (part idx : Nat) : Option TileEntry :=
  (s.partRt part).tiles.find? (·.idx = idx)

def State.setEntry (s : State) (part : Nat) (e : TileEntry) : State :=
  s.setRt part fun r => { r with tiles := e :: r.tiles.filter (·.idx ≠ e.idx) }

/-- End an entry FAILED, unless it has reached a final state (R125, R130, R131). -/
def failEntry (e : TileEntry) (reason drop active : Nat) : TileEntry :=
  if 2 ≤ e.state then e
  else { e with state := 4, reason := reason, drop := drop, report := true, parked := none, active := active }

/-- An entry's deadline clock, in gang-active microseconds. -/
def activeUs (s : State) (e : TileEntry) : Nat := if e.fired then (s.activeOf e.launch - e.start) / 1600 else 0

/-- An entry parks: a log entry the first time, a retry 10 us of gang-active time later (R89, R137). -/
def State.parkEntry (s : State) (part : Nat) (e : TileEntry) (c : Cause) (a : Nat) : State :=
  let s := if e.parked.isSome then s else (s.logSeq c part e.idx a e.gang).countCtx e.launch e.core 10 1
  s.setEntry part { e with parked := some (s.retryClock e.launch + retryCycles), waitAt := none }

/-- An entry waits at a channel, and tries again in the next cycle; the want of a token counts in its context (R91). -/
def State.waitEntry (s : State) (part : Nat) (e : TileEntry) (ch : Fin 256) : State :=
  let s := s.setEntry part { e with waitAt := some ch, waitTill := s.cycle + 1 }
  if nbHolds s ch then s else s.countCtx e.launch e.core 9 1

/-- The sequencer takes up an entry for its context. -/
def State.takeEntry (s : State) (part : Nat) (e : TileEntry) : State :=
  s.setRt part fun r => { r with work := { r.work with ctx := some (e.launch, e.core), paid := [] } }

/-- The record and the count of an entry that has just reached its end. -/
def State.reportEntry (s : State) (part : Nat) (e : TileEntry) : State :=
  match collReport (s.takeEntry part e) part e with
  | .ok e s => s.setEntry part e
  | .stop (.park c a) _ => s.parkEntry part e c a
  | .stop (.wait ch) _ => s.waitEntry part e ch
  | .stop _ _ => s.setEntry part { e with report := false }

/-- Run an entry on: it parks at a fault (R89, R137), waits at a channel (R91, R187), and ends FAILED at any other
stop. -/
def State.collRun (s : State) (part idx : Nat) : State :=
  match s.tileEntry part idx with
  | none => s
  | some e =>
    let ended (s' : State) (r d : Nat) : State :=
      s'.reportEntry part (failEntry ((s'.tileEntry part idx).getD e) r d (activeUs s e))
    match collBody (s.takeEntry part e) part { e with waitAt := none } with
    | .ok e' s' => s'.setEntry part { e' with parked := none }
    | .stop (.park c a) _ => s.parkEntry part e c a
    | .stop (.wait ch) _ => s.waitEntry part e ch
    | .stop (.diff a) s' => ended (s'.logSeq .diffRemote part idx a e.gang) rsDiff 0
    | .stop (.fail r d) s' => ended s' r d

/-- End an entry FAILED and report it. -/
def State.collFail (s : State) (part idx reason drop : Nat) : State :=
  match s.tileEntry part idx with
  | none => s
  | some e => (s.setEntry part (failEntry e reason drop (activeUs s e))).collRun part idx

/-- The packet of an entry's sequence number has been dropped, or not sent (R131): the entry ends, if it is still set for
that number. -/
def State.collLost (s : State) (part : Nat) (en : Nat × Nat) (reason drop : Nat) : State :=
  match s.tileEntry part en.1 with
  | some e => if e.seq = en.2 then s.collFail part en.1 reason drop else s
  | none => s

/-- The parked entries of a launch that ends are completed with XLATE (R89, R136). -/
def State.dropParkedEntries (s : State) (part launch : Nat) : State :=
  ((s.partRt part).tiles.filter fun e => e.launch = some launch && e.parked.isSome && decide (e.state < 4)).foldl
    (fun s e => s.collFail part e.idx rsXlate 0) s

/-! ### Arrival (R125) -/

/-- Whether blocks of a packet go straight to DST (R125). -/
def toDst (e : TileEntry) (flags step : Nat) : Bool :=
  e.op = opGather || e.op = opBcast || flags / 4 % 2 = 1 || (e.op = opAll && step = 1)

/-- The key of a packet's blocks. -/
def keyOf (e : TileEntry) (addr flags slot step : Nat) : Nat :=
  if e.op = opAll then
    if step = 1 then keyDirect ((addr - e.dst) / (64 * e.nblk)) else (addr - e.half) / (64 * e.nblk)
  else if e.sched = 0 then step
  else if toDst e flags step then keyFinal
  else slot

/-- The blocks of a packet (R124). -/
def blocksOf (key : Nat) (head : List Byte) (flits : List (List Byte)) : List CollIn :=
  flits.zipIdx.map fun (f : List Byte × Nat) =>
    { key := key, block := fieldLE head 0 4 + f.2, data := f.1, cksum := fieldLE head (16 + 4 * f.2) 4,
      resc := fieldLE head (28 + f.2) 1, fold := fieldLE head 8 2 }

/-- A REDUCE that matches its entry, already written, is used by the schedule. -/
def useReduce (s : State) (part : Nat) (e : TileEntry) (p : Packet) : State × TileEntry :=
  let head := p.flits.headD []
  let flags := fieldLE head 5 1
  let step := fieldLE head 14 2
  let bs := blocksOf (keyOf e p.addr.toNat flags (fieldLE head 7 1) step) head (p.flits.drop 1)
  let direct := toDst e flags step
  let final := flags / 4 % 2 = 1
  let lo := fieldLE head 0 4
  let (s, e) := if final then checkBlocks s part e (fun b => p.addr.toNat + 64 * (b - lo)) bs else (s, e)
  let e' := { e with ins := e.ins ++ bs, done := e.done + (if direct then bs.length else 0),
                     rough := if !direct && e.sched = 1 && flags % 2 = 1 && !e.rough.contains (fieldLE head 7 1)
                       then fieldLE head 7 1 :: e.rough else e.rough,
                     missing := if final then some (fieldLE head 12 2) else e.missing }
  (s, if final then noteResc e' bs else e')

/-- A PICKUP that matches its entry (R134): from a child it goes on up, from the parent down, and every
member adds it. -/
def usePickup (s : State) (part : Nat) (e : TileEntry) (p : Packet) : CollOut TileEntry :=
  let head := p.flits.headD []
  let root := fieldLE head 10 2
  let bs := blocksOf (if fieldLE head 5 1 % 2 = 1 then keyPickRough else keyPick) head (p.flits.drop 1)
  let h : Head := ⟨fieldLE head 5 1, 0, root, 0, 0⟩
  let fromParent := e.rank ≠ 0 && e.members.getD (treeParent e.rank) (0, 0) = (p.src.toNat, p.sfn.toNat)
  let addr (b : Nat) : Nat := e.pick + 64 * b
  if e.rank ≠ 0 && !fromParent then
    (sendBlocks s part e (treeParent e.rank) true h addr bs).bind fun _ s => .ok e s
  else
    (sendDown s part e true h addr bs).bind fun _ s =>
      .ok { e with ins := e.ins ++ bs.map fun b => { b with fold := root } } s

/-- Sequencers that a partition owns, ascending. -/
def ownedSeqs (s : State) (part : Nat) : List Nat :=
  if h : part < 17 then (List.range 20).filter fun p => s.parts[part].seqs.getLsbD p else []

/-- The sequencer of the port by which a packet came handles it; what a core starts falls to the partition's first
(R117). DESIGN CHOICE: log entry 43. -/
def State.atSequencer (s : State) (part : Nat) (port : Fin 21) : State :=
  let p : Fin 20 := if h : port.val < 20 then ⟨port.val, h⟩ else Fin.ofNat 20 ((ownedSeqs s part).headD 0)
  s.setRt part fun r => { r with work := { r.work with port := p } }

/-- The table of R125 for a packet that has passed the checks of R38 and, for a REDUCE, stands ready to
be written: the state after it. `write` lays its blocks down. -/
def State.collArrive (s : State) (part : Nat) (p : Packet) (port : Fin 21) (write : State → State) : State :=
  let s := s.atSequencer part port
  let head := p.flits.headD []
  let idx := fieldLE head 4 1
  let seq := p.opnd.toNat
  let dchk := fieldLE head 32 4
  let isPick := p.type = 0x06
  let w (s : State) : State := if isPick then s else write s
  let last := SMap.get 0xFFFFFFFF (s.partRt part).lastSeq idx
  let bad (s : State) : State :=
    (s.logSeq .collSeq part idx p.addr.toNat p.gang).collFail part idx rsSeq 0
  match s.tileEntry part idx with
  | some e =>
    if seq = e.seq ∧ dchk = e.dchk then
      if isPick then
        match usePickup s part e p with
        | .ok e s => (s.setEntry part e).collRun part idx
        | .stop (.fail r d) s => s.collFail part idx r d
        | .stop _ s => s
      else
        let (s, e) := useReduce (w s) part e p
        (s.setEntry part e).collRun part idx
    else if seq = (last + 1) % 2 ^ 32 then
      (w s).setRt part fun r => { r with early := r.early ++ [p] }
    else if isPick ∧ (seq + 1) % 2 ^ 32 = e.seq then s.setEntry part { e with stale := e.stale + 1 }
    else bad s
  | none =>
    if seq = (last + 1) % 2 ^ 32 then (w s).setRt part fun r => { r with early := r.early ++ [p] }
    else bad s

/-! ### Instructions (R387-R391) -/

/-- A rank sends to another under A2A2 (R130): along its row as to an intermediate, along its column as from one, or
straight where the intermediate is no rank. -/
def a2aPath (n k d : Nat) : Bool :=
  let g := gridSide n
  k / g = d / g || k % g = d % g || decide (n ≤ g * (k / g) + d % g)

/-- Ranks that a schedule sends to (R122). -/
def sendsTo (op sched n k : Nat) : List Nat :=
  if n ≤ 1 then []
  else if op = opAll then (List.range n).filter fun d => d ≠ k && a2aPath n k d
  else if sched = 0 then [(k + 1) % n]
  else (treeSlots n k).map (treeChild k) ++ if op ≠ opBcast ∧ k ≠ 0 then [treeParent k] else []

/-- PORT0 towards a module is a port and a sequencer of the partition; its own module needs none. -/
def seqReach (s : State) (part m : Nat) : Bool :=
  m = selfMod s || (match routePort s 0 m with
    | some n => if h : part < 17 then s.parts[part].ports.getLsbD n.val && s.parts[part].seqs.getLsbD n.val else false
    | none => false)

/-- A partition that owns no sequencer has no tile table (R118); an index is 0 to 255. -/
def needTable {α : Type} (s : State) (a : Word) (k : SlotRes α) : SlotRes α :=
  let own := if h : s.pre.part < 17 then s.parts[s.pre.part].seqs ≠ 0 else false
  need s (own && decide (a.toNat < 256)) .collEntry 0 k

def execTtset (a b : SSpec) (s : State) : Host.Outcome State Fault Refusal :=
  finish s ((readS s a 0).bind fun x s => (readS s b 1).bind fun y s =>
    needBlock s y 64 fun d =>
    needTable s x <|
    let part := s.pre.part
    let idx := x.toNat
    let seq := fieldLE d 4 4
    let n := s.pre.gsize.toNat
    let k := s.pre.rank.toNat
    let members := match s.pre.launch.bind s.launchById with
      | some l => if l.gsize ≤ 1 then [(selfMod s, part)] else l.members
      | none => [(selfMod s, part)]
    let prior := match s.tileEntry part idx with
      | some e => decide (e.state < 2)
      | none => false
    let last := SMap.get 0xFFFFFFFF (s.partRt part).lastSeq idx
    let reach := (sendsTo (fieldLE d 0 1) (fieldLE d 1 1) n k).all fun r =>
      seqReach s part (members.getD r (selfMod s, part)).1
    need s (seq = (last + 1) % 2 ^ 32 && !prior && descOk d && reach) .collEntry 0 <|
    let e : TileEntry :=
      { idx := idx, desc := d, seq := seq, dchk := crc32c (d.take 48), state := 0, reason := 0, drop := 0,
        fired := false, launch := s.pre.launch, part := part, gang := s.pre.gang, rank := k, size := max n 1,
        members := members, base := 0, present := 0, pending := 0, ckerr := 0, stale := 0,
        resc := List.replicate (fieldLE d 24 4) 0, start := 0, active := 0, ins := [], rough := [], cut := [],
        cuts := [], missing := none, done := 0, sent := false, passed := [], picks := [], folded := [], after := [],
        parked := none, waitAt := none, waitTill := 0, rc := Clk.zero, zeroed := false, report := false, rpicks := 0, core := s.issue.core,
        hdr := s.pre.hdr }
    let early := (s.partRt part).early
    let mine (p : Packet) : Bool := fieldLE (p.flits.headD []) 4 1 = idx && p.opnd.toNat = seq
    let s := (s.setEntry part e).setRt part fun r =>
      { r with lastSeq := SMap.set 0xFFFFFFFF r.lastSeq idx seq, early := r.early.filter fun p => !mine p }
    .ok () ((early.filter mine).foldl (fun s p => s.collArrive part p 20 id) ((s.atSequencer part 20).collRun part idx)))

def execTrdy (a : SSpec) (s : State) : Host.Outcome State Fault Refusal :=
  finish s ((readS s a 0).bind fun x s => needTable s x <|
    let part := s.pre.part
    match s.tileEntry part x.toNat with
    | none => raise s .collEntry 0
    | some e =>
      need s (!e.fired) .collEntry 0 <|
      .ok () ((s.setEntry part
        { e with fired := true, state := max e.state 1, start := s.activeOf s.pre.launch,
                 launch := s.pre.launch, core := s.issue.core, hdr := s.pre.hdr,
                 after := pendingWrites s s.issue.core, rc := s.pre.rc }).atSequencer part 20 |>.collRun part x.toNat))

/-- Cut every slot that has not delivered all its blocks (R132). -/
def State.cutSlots (s : State) (part : Nat) (e : TileEntry) : State :=
  let missing := (treeSlots e.size e.rank).filter fun j => !e.slotDone j && !e.cut.contains j
  let roots := missing.map (treeChild e.rank)
  let e := { e with cut := missing ++ e.cut }
  let e := if e.rank = 0 then roots.foldl TileEntry.noteCut e else e
  let s := if e.rank = 0 then s else
    roots.foldl (fun s r => cutUp s e r) s
  (s.setEntry part e).collRun part e.idx

/-- An entry runs: it has been fired and has reached no final state. -/
def TileEntry.running (e : TileEntry) : Bool := e.fired && e.state = 1

/-- RCUT (R389). -/
def execRcut (a : SSpec) (s : State) : Host.Outcome State Fault Refusal :=
  finish s ((readS s a 0).bind fun x s => needTable s x <|
    let part := s.pre.part
    match s.tileEntry part x.toNat with
    | none => raise s .collEntry 0
    | some e =>
      need s e.running .collEntry 0 <|
      .ok () (if e.op = opReduce ∧ e.sched = 1 ∧ e.deadline ≠ 0 then
          (if e.sent then s else s.cutSlots part e)
        else s.collFail part x.toNat rsAborted 0))

/-- RPICK (R390). -/
def execRpick (a : SSpec) (s : State) : Host.Outcome State Fault Refusal :=
  finish s ((readS s a 0).bind fun x s => needTable s x <|
    let part := s.pre.part
    match s.tileEntry part x.toNat with
    | none => raise s .collEntry 0
    | some e =>
      need s (e.state = 2 || e.state = 3) .collEntry 0 <|
      .ok () (((s.setEntry part { e with rpicks := e.rpicks + 1 }).atSequencer part 20).collRun part x.toNat))

/-- The word that RSTAT reads (R391). -/
def rstatWord : Option TileEntry → Word
  | none => 7
  | some e => BitVec.ofNat 64 (e.state + 2 ^ 8 * e.reason + 2 ^ 16 * (popcount e.present % 65536) +
      2 ^ 32 * (popcount e.pending % 65536) + 2 ^ 48 * (e.seq % 65536))

def execRstat (w : WReg) (a : SSpec) (s : State) : Host.Outcome State Fault Refusal :=
  finish s ((readS s a 0).bind fun x s => needTable s x <|
    .ok () (s.result (rstatWord (s.tileEntry s.pre.part x.toNat)) 64 w))

/-! ### Deadlines and cuts (R132, R133) -/

/-- Gang-active cycle at which a rank cuts: DEADLINE + 20 (h - 1) us after its TRDY. -/
def cutAt (e : TileEntry) : Nat :=
  e.start + 1600 * (e.deadline + 20 * (treeHeight e.size 12 e.rank - 1))

/-- The cut of an entry is due: it has not sent its sum, and some slot has neither delivered its blocks nor been cut. A
rank that FINAL has already made ROUGH cuts as any other, and its pickup is rough (R132, R134). -/
def cutDue (s : State) (e : TileEntry) : Bool :=
  e.fired && (e.state = 1 || e.state = 3) && e.op = opReduce && e.sched = 1 && e.deadline ≠ 0 && !e.sent &&
    (treeSlots e.size e.rank).any (fun j => !e.slotDone j && !e.cut.contains j) &&
    decide (cutAt e ≤ s.activeOf e.launch)

/-- An entry has work that it can take up. -/
def collDue (s : State) (e : TileEntry) : Bool :=
  (match e.parked, e.waitAt with
    | some c, _ => decide (c ≤ s.retryClock e.launch)
    | none, some _ => decide (e.waitTill ≤ s.cycle)
    | none, none => e.fired && (!e.after.isEmpty || e.rc ≠ Clk.zero) && afterDone s e.after && s.perf.all (Clk.le e.rc)) ||
    cutDue s e

/-- COLL_DEADLINE_CUT: the cut is made if it is due; an entry that waited or parked goes on (R89, R132,
R388). -/
def execCollDeadlineCut (part : Fin 16) (entry : Fin 256) (s : State) : Host.Outcome State Fault Refusal :=
  let p := part.val + 1
  match s.tileEntry p entry.val with
  | none => .next s
  | some e =>
    if !collDue s e then .next s
    else if cutDue s e then .next (s.cutSlots p e)
    else .next (s.collRun p entry.val)

/-- The port by which the step's control packet came; where none is named, the one of the route back to its source. -/
def arrivalPort (s : State) (c : Control) : Fin 20 :=
  if h : s.inp.port.val < 20 then ⟨s.inp.port.val, h⟩ else (routePort s 3 c.src.toNat).getD 0

/-- CUT_PACKET: a CUT goes on up to rank 0, or is noted and passed down; one that matches no entry is
dropped and counted (R133). -/
def execCutPacket (s : State) : Host.Outcome State Fault Refusal :=
  let c := s.inp.ctl
  let part := bitsOf c.arg16.toNat 9 5
  let idx := bitsOf c.arg16.toNat 0 8
  let root := bitsOf c.arg32.toNat 0 11
  if c.ctype ≠ 0x12 ∨ c.dst.toNat ≠ selfMod s then .next s
  else if !c.cccOk then .next (s.countDrop (arrivalPort s c))
  else
    let lost : State := s.updPort (arrivalPort s c) fun q =>
      { q with cutDrops := SMap.set 0 q.cutDrops part (SMap.get 0 q.cutDrops part + 1) }
    match s.tileEntry part idx with
    | none => .next lost
    | some e =>
      if e.seq % 2 ^ 16 ≠ bitsOf c.arg32.toNat 16 16 then .next lost
      else if c.arg16.getLsbD 8 then
        let e := e.noteCut root
        .next (((cutsDown s e [root]).setEntry part e).collRun part idx)
      else if e.rank = 0 then
        let e := e.noteCut root
        .next (((if e.sent then cutsDown s e [root] else s).setEntry part e).collRun part idx)
      else .next (cutUp s e root)

/-! ### Sequencer save areas (R118, R119) -/

/-- Rounds of an entry's DST: 1, or one for each rank. -/
def TileEntry.rounds (e : TileEntry) : Nat := e.dstBlocks / max e.nblk 1

/-- Table state of one entry in a save area: its working counters are the blocks written of each round, and those over. -/
def entryRecord (s : State) (part idx : Nat) : List Byte :=
  let last := natToBytes 4 (SMap.get 0xFFFFFFFF (s.partRt part).lastSeq idx)
  match s.tileEntry part idx with
  | none => zeros 64 ++ last ++ zeros 956
  | some e =>
    let ns := if e.fired then (s.activeOf e.launch - e.start) * 5 / 8 else 0
    e.desc ++ last ++ natToBytes 4 e.dchk ++ natToBytes 1 e.state ++ natToBytes 1 e.reason ++ zeros 6 ++ natToBytes 8 ns ++
      zeros 40 ++ natToBytes 256 e.present.toNat ++ natToBytes 256 e.pendingMask.toNat ++
      natToBytes 4 (e.done / max e.rounds 1) ++ natToBytes 4 (e.done % max e.rounds 1) ++ zeros 376

/-- DPA of a sequencer's record, or the cause of the stage-2 fault. -/
def seqRecord (s : State) (part port : Nat) (wr : Bool) (off : Nat) : XRes Nat :=
  if h : part < 17 then
    saveDpa s part (s.parts[part].seqsave + 0x80000 * indexIn (ownedSeqs s part) port + off) wr
  else .error .xlateS2

/-- End every running entry of a partition FAILED, ABORTED. -/
def State.abortEntries (s : State) (part : Nat) : State :=
  (s.partRt part).tiles.foldl (fun s e => s.collFail part e.idx rsAborted 0) s

/-- A save or a restore that fails (R119). -/
def State.seqFault (s : State) (part port : Nat) (c : Option Cause) : State :=
  let s := match c with
    | some c => s.logSeq c part port 0 0
    | none => s
  (s.logUnit .imageCheck 0 part 2 port 0 0 0).abortEntries part

/-- The 64 KiB pieces of a record: the sequencer's SRAM, then the table state. -/
def seqPieces (s : State) (part port : Nat) : List (List Byte) :=
  let table := (List.range 256).flatMap (entryRecord s part)
  (List.range 8).map fun i =>
    if i < 4 then (s.seqSram[Fin.ofNat 20 port]).readBytes (65536 * i) 65536 else (table.drop (65536 * (i - 4))).take 65536

/-- Write a record's pieces; a stage-2 fault ends the partition's entries (R119). -/
def State.saveSequencer (s : State) (part port : Nat) : State :=
  let r := (seqPieces s part port).zipIdx.foldl (fun (r : XRes State) (p : List Byte × Nat) => match r with
    | .error c => .error c
    | .ok s => match seqRecord s part port true (65536 * p.2) with
      | .error c => .error c
      | .ok a => .ok ((s.poke part a p.1).meter part 8 65536)) (.ok s)
  match r with
  | .ok s => s
  | .error c => s.seqFault part port (some c)

/-- A sequencer's SRAM is cleared, and with the last of a partition's its table leaves (R93, R118). -/
def State.clearSequencers (s : State) (part : Nat) : State :=
  let own := ownedSeqs s part
  ({ s with seqSram := Vector.ofFn fun i => if own.contains i.val then [] else s.seqSram[i] }).setRt part fun r =>
    { r with stowed := r.tiles, tiles := [] }

/-- What a restore checks of an entry's record (R119): STATE, SEQ, and the count. -/
def recordOk (s : State) (part a : Nat) : Bool :=
  let at_ (o n : Nat) := s.peekLE part (a + o) n
  decide (at_ 72 1 ≤ 4) && (at_ 0 1 = 0 || (at_ 4 4 = at_ 64 4 && decide (at_ 640 4 ≤ at_ 24 4)))

/-- An entry as its record gives it: the descriptor, its check, STATE, REASON, the clock, the masks and the counters; the
rest of its working state is the sequencers' own. -/
def restoreEntry (s : State) (part a : Nat) (e : TileEntry) : TileEntry :=
  let at_ (o n : Nat) := s.peekLE part (a + o) n
  let present := BitVec.ofNat 2048 (at_ 128 256)
  let waiting := BitVec.ofNat 2048 (at_ 384 256)
  let e : TileEntry := { e with
    desc := s.peek part a 64, dchk := at_ 68 4, state := at_ 72 1, reason := at_ 73 1, base := present, present := present,
    pending := if at_ 72 1 = 3 then allRanks e.size &&& ~~~(present ||| waiting) else 0,
    start := s.activeOf e.launch - at_ 80 8 * 8 / 5 }
  { e with done := at_ 640 4 * max e.rounds 1 + at_ 644 4 }

/-- Restore a partition's sequencers from their records (R118, R119): each its SRAM, the table from the first. -/
def State.restoreSequencers (s : State) (part : Nat) : State :=
  let own := ownedSeqs s part
  let s := (s.meter part 7 (0x80000 * own.length)).setRt part fun r => { r with tiles := r.stowed, stowed := [] }
  let bases (port : Nat) : XRes (List Nat) := (List.range 8).mapM fun i => seqRecord s part port false (65536 * i)
  match own.mapM bases with
  | .error c => s.seqFault part (own.headD 0) (some c)
  | .ok [] => s
  | .ok (first :: rest) =>
    let place (as : List Nat) (i : Nat) : Nat := as.getD (4 + i / 64) 0 + 1024 * (i % 64)
    if (first :: rest).any (fun as => (List.range 256).any fun i => !recordOk s part (place as i)) then
      s.seqFault part (own.headD 0) none
    else
      let sram (k : Nat) : List Byte := (List.range 4).flatMap fun i => s.peek part (((first :: rest).getD k []).getD i 0) 65536
      let arrays : Vector Mem 20 := Vector.ofFn fun i =>
        if own.contains i.val then Mem.writeBytes [] 0 (sram (indexIn own i.val)) else s.seqSram[i]
      let s := { s with seqSram := arrays }
      s.setRt part fun r =>
        { r with tiles := r.tiles.map fun e => restoreEntry s part (place first e.idx) e
                 lastSeq := (List.range 256).foldl (fun m i =>
                   SMap.set 0xFFFFFFFF m i (s.peekLE part (place first i + 64) 4)) r.lastSeq }

/-- SEQUENCER_STATE_SAVE: at a tenant switch a sequencer's state goes to its partition's save area
(R119). It acts for the sliced partition that held it last. -/
def execSequencerStateSave (port : Fin 20) (s : State) : Host.Outcome State Fault Refusal :=
  let part := s.sheet.last
  if (ownedSeqs s part).contains port.val then .next (s.saveSequencer part port.val) else .next s

end Sys2Proof.Machine
end

