-- ==== Sys2Proof/Machine/Accept.lean ====
section
/-! DEFINITION. The receiving side of the fabric (R25-R45): frames, ports, forwarding, acceptance at the
destination, request queues, launch packets, spillways, acknowledgements and drops. -/

namespace Sys2Proof.Machine

/-! ### Drops and acknowledgements (R39, R40) -/

/-- Reasons of R39. -/
def dropHops : Nat := 0x01
def dropNoRoute : Nat := 0x02
def dropPortDown : Nat := 0x03
def dropCheck : Nat := 0x04
def dropXlate : Nat := 0x05
def dropDiff : Nat := 0x06
def dropQfull : Nat := 0x07
def dropForeign : Nat := 0x08
def dropBadtype : Nat := 0x09
def dropNoFunction : Nat := 0x0A

/-- A packet of this module has been dropped: its command's status, or its entry's end (R40, R131). -/
def State.packetDropped (s : State) (r : SentPkt) (reason : Nat) : State :=
  let s := s.packetDone r (BitVec.ofNat 8 (0x20 + reason))
  match r.entry with
  | some e => s.collLost r.sfn e rsDrop reason
  | none => s

def SentPkt.is (r : SentPkt) (dst sfn cls pseq : Nat) : Bool :=
  r.dst = dst && r.sfn = sfn && r.cls = cls && r.pseq = pseq

/-- Take the record of a packet out of the source's list. -/
def State.takeSent (s : State) (p : SentPkt → Bool) : Option SentPkt × State :=
  match s.fabric.sent.find? p with
  | none => (none, s)
  | some r => (some r, { s with fabric := { s.fabric with sent := s.fabric.sent.erase r } })

/-- Drop a packet here (R39): the source is told, or is this module itself. -/
def State.dropPacket (s : State) (p : Packet) (reason : Nat) : State :=
  if p.src.toNat = selfMod s then
    match s.takeSent (·.is p.dst.toNat p.sfn.toNat p.cls.toNat p.pseq.toNat) with
    | (some r, s) => (s.gangReceived p.sfn.toNat p.gang).packetDropped r reason
    | (none, s) => s
  else
    s.sendControl (ctlOf s 0x02 p.src.toNat (p.sfn.toNat % 32 + 2 ^ 5 * p.cls.toNat + 2 ^ 8 * reason) p.pseq.toNat)

def State.sendAck (s : State) (a : AckRun) : State :=
  s.sendControl (ctlOf s 0x01 a.src (a.sfn % 32 + 2 ^ 5 * a.cls + 2 ^ 8 * a.count) a.first)

def State.setAcks (s : State) (f : List AckRun → List AckRun) : State :=
  { s with fabric := { s.fabric with acks := f s.fabric.acks } }

/-- A packet that was applied or captured enters its stream's ACK (R39). -/
def State.ackPacket (s : State) (p : Packet) : State :=
  let mine (a : AckRun) : Bool := a.src = p.src.toNat && a.sfn = p.sfn.toNat && a.cls = p.cls.toNat
  let fresh : AckRun := ⟨p.src.toNat, p.sfn.toNat, p.cls.toNat, p.pseq.toNat, 1, s.cycle⟩
  let rest := s.fabric.acks.filter fun a => !mine a
  match s.fabric.acks.find? mine with
  | none => s.setAcks fun l => l ++ [fresh]
  | some a =>
    if (a.first + a.count) % 2 ^ 32 = p.pseq.toNat then
      let a := { a with count := a.count + 1 }
      if 32 ≤ a.count then (s.sendAck a).setAcks fun _ => rest else s.setAcks fun _ => rest ++ [a]
    else (s.sendAck a).setAcks fun _ => rest ++ [fresh]

/-- ACK_TIMEOUT: 256 cycles after the first packet it covers (R39). -/
def execAckTimeout (src : BitVec 11) (sfn _dfn : BitVec 8) (cls : BitVec 2) (s : State) :
    Host.Outcome State Fault Refusal :=
  let mine (a : AckRun) : Bool := a.src = src.toNat && a.sfn = sfn.toNat && a.cls = cls.toNat
  match s.fabric.acks.find? mine with
  | none => .next s
  | some a =>
    .next (if a.since + 256 ≤ s.cycle then (s.sendAck a).setAcks fun l => l.filter fun a => !mine a else s)

/-- A control packet of one type at its destination: one whose CCC fails is dropped and counted for its port (R32). -/
def onControl (s : State) (ctype : BitVec 8) (k : Control → State) : Host.Outcome State Fault Refusal :=
  let c := s.inp.ctl
  if c.ctype ≠ ctype ∨ c.dst.toNat ≠ selfMod s then .next s
  else if !c.cccOk then .next (s.countDrop (arrivalPort s c))
  else .next (k c)

/-- ACK_PACKET (R40). -/
def execAckPacket (s : State) : Host.Outcome State Fault Refusal :=
  onControl s 0x01 fun c =>
    let a := c.arg16.toNat
    (List.range (bitsOf a 8 8)).foldl (fun s i =>
      match s.takeSent (·.is c.src.toNat (bitsOf a 0 5) (bitsOf a 5 2) ((c.arg32.toNat + i) % 2 ^ 32)) with
      | (some r, s) => s.packetDone r stOk
      | (none, s) => s) s

/-- DROP_PACKET (R40, R110): the module that dropped the packet names its stream and PSEQ; the record is
the one to that module, or else the oldest of that function, class and PSEQ (PRESUMED, log entry 21). -/
def execDropPacket (s : State) : Host.Outcome State Fault Refusal :=
  onControl s 0x02 fun c =>
    let a := c.arg16.toNat
    let here (r : SentPkt) : Bool := r.is c.src.toNat (bitsOf a 0 5) (bitsOf a 5 2) c.arg32.toNat
    let any (r : SentPkt) : Bool := r.is r.dst (bitsOf a 0 5) (bitsOf a 5 2) c.arg32.toNat
    match s.takeSent (if s.fabric.sent.any here then here else any) with
    | (some r, s) =>
      ((s.gangReceived r.sfn r.gang).countCtx r.launch (r.core.getD 0) 11 (if r.core.isSome then 1 else 0)).packetDropped r
        (bitsOf a 8 8)
    | (none, s) => s

/-- A refused launch record's reason becomes its command's status (R386). -/
def State.launchRefused (s : State) (id reason : Nat) : State :=
  match s.cmds.find? (·.id = id) with
  | none => s
  | some m => s.setCmd { m with status := if m.status = stOk then BitVec.ofNat 8 (0x30 + reason) else m.status }

/-- LREFUSE_PACKET (R67, R386). -/
def execLrefusePacket (s : State) : Host.Outcome State Fault Refusal :=
  onControl s 0x03 fun c =>
    let fn := bitsOf c.arg16.toNat 0 5
    let mine (r : SentPkt) : Bool :=
      r.dst = c.src.toNat && r.cls = 3 && r.pseq = c.arg32.toNat && (match r.cmd with
        | some id => s.cmds.any fun m => m.id = id && (memberOf s m.launch m.part (fabRank m)).2 = fn
        | none => false)
    match (s.fabric.sent.find? mine).bind (·.cmd) with
    | some id => s.launchRefused id (bitsOf c.arg16.toNat 8 8)
    | none => s

/-! ### Packets as requesters (R90) -/

/-- A packet's accesses: under its partition's tag, in no way of L2. -/
def pktReq (part : Nat) : Req := ⟨part, part, none, .no⟩

/-- The device's own write of a line of a partition, in one access of it. -/
def State.writeOwn (s : State) (part a : Nat) (bs : List Byte) (u : LineUse) : State :=
  ((s.applyLine a).access (pktReq part) a false u).poke part a bs

/-! ### Spillways (R113) -/

/-- A line of a gang's spillway. -/
def spillLine (s : State) (part : Nat) (d : GangDef) (o : Nat) : XRes Nat :=
  match saveDpa s part (d.spill + o - o % 64) true with
  | .ok a => .ok (a + o % 64)
  | .error c => .error c

/-- Records that a spillway holds at most (R113). -/
def spillCap (d : GangDef) : Nat := (d.spillLen - 64) / 320

/-- Where a spillway's next record begins, its control line at `ctl`. -/
def spillNext (s : State) (part : Nat) (d : GangDef) (ctl : Nat) : Nat := 64 + 320 * (s.peekLE part (ctl + 8) 8 % spillCap d)

/-- The channel at which a capture waits (R91, R187): of its control line, and of its record's lines. -/
def spillWaits (s : State) (part : Nat) (d : GangDef) : Option (Fin 256) :=
  match spillLine s part d 0 with
  | .error _ => none
  | .ok ctl =>
    let record := (List.range 5).filterMap fun i => match spillLine s part d (spillNext s part d ctl + 64 * i) with
      | .ok a => some (accessChans s (pktReq part) a false .full)
      | .error _ => none
    busyChan s part (accessChans s (pktReq part) ctl false .atomic ++ record.flatten)

/-- Capture a packet into its gang's spillway: none where it is full, with the cause of a fault. The record is the header
flit as captured and the data flits (R113). -/
def spill (s : State) (part : Nat) (d : GangDef) (p : Packet) : Except (Option Cause) State :=
  match spillLine s part d 0 with
  | .error c => .error (some c)
  | .ok ctl => match tagFault s part ctl with
  | some c => .error (some c)
  | none =>
    let head := s.peekLE part ctl 8
    let tail := s.peekLE part (ctl + 8) 8
    if spillCap d ≤ tail - head then .error none
    else
      let record := (headerFlit p ++ p.flits.flatten ++ zeros 256).take 320
      let base := spillNext s part d ctl
      let r := (List.range 5).foldl (fun (r : XRes State) i => match r with
        | .error c => .error c
        | .ok s => match spillLine s part d (base + 64 * i) with
          | .error c => .error c
          | .ok a => .ok (s.writeOwn part a ((record.drop (64 * i)).take 64) .full)) (.ok s)
      match r with
      | .error c => .error (some c)
      | .ok s => .ok (s.writeOwn part (ctl + 8) (natToBytes 8 (tail + 1) ++ natToBytes 8 (spillCap d)) .atomic)

/-- A capture that fails is logged (R113). -/
def State.logSpill (s : State) (part : Nat) (g : BitVec 32) (why : Option Cause) : State :=
  let s := match why with
    | some c => s.logUnit c 2 part 7 0 0 0 g
    | none => s
  s.logUnit .spillFull 0 part 7 0 dropForeign 0 g

/-! ### Acceptance (R38) -/

/-- What becomes of a packet at its destination. -/
inductive Fate where
  | applied
  | captured
  /-- A launch record refused: it still counts as applied (R67). -/
  | refused (reason : Nat)
  /-- Dropped without a notice (R34). -/
  | silent
  /-- It waits at a channel (R91, R187). -/
  | waits (ch : Fin 256)
  | drop (reason : Nat)
  deriving DecidableEq, Repr

/-- Packet types allowed in a class (R28). -/
def typeAllowed (cls type : Nat) : Bool :=
  match cls with
  | 0 => type = 1 || type = 2 || type = 5 || type = 6
  | 1 => type = 1 || type = 2
  | 2 => type = 3
  | _ => type = 4

/-- The gang is resident in a partition: committed or placed there and not given up by a commit since, or the packet is of a
single-module launch (R38). -/
def residentGang (s : State) (part : Nat) (g : BitVec 32) : Bool :=
  g = 0 || (!(s.votes.any fun v => v.state = .swapping && v.outgoing.contains (part, g)) &&
    ((s.partRt part).resident = some g || s.launches.any fun l => l.part = part && l.gang = g && l.state = .running))

/-- Lines that a packet writes at its address. -/
def lineCount (p : Packet) : Nat :=
  match p.type.toNat with
  | 1 => p.flits.length
  | 2 => 1
  | 5 => p.flits.length - 1
  | 6 => p.flits.length - 1
  | _ => 0

/-- Translate the lines of a packet (R38): at U, for writing; a host page is no fabric target. -/
def packetLines (s : State) (part : Nat) (kind : AccKind) (va : Nat) : Nat → Except (Cause × Nat) (List Phys)
  | 0 => .ok []
  | n + 1 =>
    match packetLines s part kind va n with
    | .error x => .error x
    | .ok l =>
      match translateEngine s part .u kind (va + 64 * n) with
      | .error c => .error (c, va + 64 * n)
      | .ok p => if p.host then .error (.accessKind, va + 64 * n) else .ok (l ++ [p])

/-- A line under its byte enables. -/
def mergeLine (be : BitVec 64) (new old : List Byte) : List Byte :=
  (List.range 64).map fun i => if be.getLsbD i then new.getD i 0 else old.getD i 0

/-- How a write under a mask uses its line. -/
def maskUse (be : BitVec 64) : LineUse := if be = BitVec.allOnes 64 then .full else .part

/-- Write a line of a packet; a failed line that is not written whole is logged and left (R23). -/
def State.writeLine (s : State) (part : Nat) (p : Phys) (be : BitVec 64) (bs : List Byte) : State :=
  let side : Bool := p.mtype ≠ 0
  match if maskUse be = .full then none else sideFault s part p.addr side with
  | some c => s.logUnit c 2 part 4 (chanOf p.addr) 0 (BitVec.ofNat 64 p.addr) 0
  | none =>
    let s := (s.applyLine p.addr).access (pktReq part) p.addr side (maskUse be)
    s.put part p.addr (mergeLine be bs (s.look part p.addr 64 side)) side

/-- Lines of a packet in ascending order (R211). -/
def State.writeLines (s : State) (part : Nat) (ps : List Phys) (be : List (BitVec 64)) (ls : List (List Byte)) : State :=
  (ps.zip (be.zip ls)).foldl (fun s (e : Phys × BitVec 64 × List Byte) => s.writeLine part e.1 e.2.1 e.2.2) s

/-- The bytes that an ATOMIC's mask enables: exactly `w` aligned bytes, at an offset (R35). -/
def atomicAt (be : BitVec 64) (w : Nat) : Option Nat :=
  (List.range (64 / w)).findSome? fun i =>
    if be.toNat = (2 ^ w - 1) * 2 ^ (w * i) then some (w * i) else none

/-- The operation, the offset and the width of an ATOMIC packet; none where OPND or the mask names none. The manual names
BADTYPE for the mask; an operation that is reserved, or one of floating point at 64 bits, is dropped likewise. DESIGN CHOICE:
log entry 44. -/
def packetAtomic (p : Packet) : Option (AmoOp × Nat × Bool) :=
  let w32 := p.opnd.getLsbD 4
  match amoOf (bitsOf p.opnd.toNat 0 4), atomicAt (p.be.headD 0) (atomWidth w32) with
  | some op, some o => if amoFloat op && !w32 then none else some (op, o, w32)
  | _, _ => none

/-- Perform an ATOMIC packet (R35, R384); a failed line is logged and left. -/
def State.applyAtomic (s : State) (part : Nat) (ph : Phys) (p : Packet) : Fate × State :=
  match packetAtomic p with
  | none => (.drop dropBadtype, s)
  | some (op, o, w32) =>
    let w := atomWidth w32
    let a := ph.addr + o
    let v := fieldLE (p.flits.headD []) o w
    let side : Bool := ph.mtype ≠ 0
    match sideFault s part a side with
    | some c => (.applied, s.logUnit c 2 part 4 (chanOf a) 0 (BitVec.ofNat 64 a) p.gang)
    | none =>
      if p.opnd.getLsbD 5 && amoCombines op && ph.mtype = 1 then
        (.applied, s.combineBy none ⟨a, some op, w32, part⟩ op v)
      else
        let s := (s.applyLine a).access (pktReq part) a side .atomic
        (.applied, s.put part a (natToBytes w (amoNew op (8 * w) (s.lookLE part a w side) v)) side)

/-- A SIZE of a request queue that the manual admits (R37). -/
def reqSizeOk (size : Nat) : Bool := decide (16 ≤ size) && decide (size ≤ 65536) && 2 ^ Nat.log2 size = size

/-- Append a record to a request queue (R37); a control line that has failed is logged and left (R23). RQBASE is a VA of
the partition (PRESUMED, log entry 21). -/
def State.applyReq (s : State) (part : Nat) (p : Packet) : Fate × State :=
  let base := if h : part < 17 then ((s.fns[part]).rqbase.toList.getD (bitsOf p.addr.toNat 0 4) 0).toNat else 0
  let xl (c : Cause) (a : Nat) : Fate × State :=
    (.drop dropXlate, s.logUnit c 0 part 5 0 dropXlate (BitVec.ofNat 64 a) p.gang)
  if base = 0 then (.drop dropQfull, s)
  else match packetLines s part .write base 1 with
  | .error (c, a) => xl c a
  | .ok [] => (.drop dropQfull, s)
  | .ok (ctl :: _) =>
    let side : Bool := ctl.mtype ≠ 0
    let used := accessChans s (pktReq part) ctl.addr side .atomic
    match ctl.diff, busyChan s part used, sideFault s part ctl.addr side with
    | true, _, _ => (.drop dropDiff, s)
    | false, some ch, _ => (.waits ch, s)
    | false, none, some c => (.applied, s.logUnit c 2 part 4 (chanOf ctl.addr) 0 (BitVec.ofNat 64 ctl.addr) p.gang)
    | false, none, none =>
      let s1 := s.applyLine ctl.addr
      let head := s1.lookLE part ctl.addr 8 side
      let tail := s1.lookLE part (ctl.addr + 8) 8 side
      let size := s1.lookLE part (ctl.addr + 16) 4 side
      if !reqSizeOk size then (.drop dropQfull, s1)
      else match packetLines s part .write (base + 64 * (1 + tail % size)) 1 with
      | .error (c, a) => xl c a
      | .ok recs =>
        if recs.any (·.diff) then (.drop dropDiff, s)
        else if size ≤ (tail + 2 ^ 64 - head) % 2 ^ 64 then (.drop dropQfull, s1)
        else match busyChan s part (used ++ recs.flatMap fun r => accessChans s (pktReq part) r.addr (r.mtype ≠ 0) .full) with
          | some ch => (.waits ch, s)
          | none =>
            let s := (s1.writeLines part recs [BitVec.allOnes 64] p.flits).access (pktReq part) ctl.addr side .atomic
            (.applied, s.put part (ctl.addr + 8) (natToBytes 8 ((tail + 1) % 2 ^ 64)) side)

/-- The launch permission entry that a record meets first (R67). -/
def lpermFor (s : State) (part : Nat) (src sfn handle : Nat) : Option Lperm :=
  let hits := (s.partRt part).lperm.filter fun e =>
    (e.srcMod = src || e.srcMod = 0x7FF) && (e.srcFn = sfn || e.srcFn = 0) && e.handle = handle
  hits.find? fun e => hits.all fun f => decide (e.index ≤ f.index)

/-- A launch record is checked, then queued or refused (R67). -/
def State.applyLaunch (s : State) (part : Nat) (p : Packet) : Fate × State :=
  let r := p.flits.headD []
  match lpermFor s part p.src.toNat p.sfn.toNat (fieldLE r 0 2) with
  | none => (.refused 0x01, s)
  | some e =>
    let why := match recordReason s part e.maxPrio r with
      | some 0x01 => some 0x01
      | some 0x02 => some 0x02
      | some 0x03 => some 0x03
      | x => if 16 ≤ ((waitingIn s part isInbox).filter fun l => !l.entered).length then some 0x04 else x
    match why with
    | some c => (.refused c, s)
    | none => (.applied, s.queueLaunch (launchOfRecord s part .inbox r []))

/-- A packet's type is not reserved, and its class allows it (R28, R35). -/
def typeOk (p : Packet) : Bool := typeAllowed p.cls.toNat p.type.toNat

/-- The masks of the lines that a packet writes at its address. -/
def lineMasks (p : Packet) : List (BitVec 64) := if p.type = 0x05 then p.be.drop 1 else p.be

/-- The channels that a packet's lines use; those of a pickup are its sequencer's. -/
def packetChans (s : State) (part : Nat) (p : Packet) (ps : List Phys) : List (Fin 256) :=
  match p.type.toNat with
  | 2 => ps.flatMap fun ph => accessChans s (pktReq part) ph.addr (ph.mtype ≠ 0) .atomic
  | 6 => []
  | _ => (ps.zip (lineMasks p)).flatMap fun (e : Phys × BitVec 64) =>
    accessChans s (pktReq part) e.1.addr (e.1.mtype ≠ 0) (maskUse e.2)

/-- The walks of a packet's lines read the tables (R86), once for each 64 KiB. -/
def State.packetWalks (s : State) (part va n : Nat) : State :=
  (((List.range n).map fun i => (va + 64 * i) / 65536).dedup).foldl (fun s g =>
    s.tableReads (pktReq part) part (65536 * g)) s

/-- What a packet whose lines have translated does (R35). -/
def State.applyPacket (s : State) (part : Nat) (port : Fin 21) (p : Packet) (ps : List Phys) : Fate × State :=
  match p.type.toNat, ps with
  | 1, ps => (.applied, s.writeLines part ps p.be p.flits)
  | 2, ph :: _ => s.applyAtomic part ph p
  | 3, _ => s.applyReq part p
  | 4, _ => s.applyLaunch part p
  | _, [] => (.drop dropBadtype, s)
  | _, ps =>
    if (ownedSeqs s part).isEmpty then
      (.applied, s.logSeq .collSeq part (fieldLE (p.flits.headD []) 4 1) p.addr.toNat p.gang)
    else (.applied, s.collArrive part p port fun s => s.writeLines part ps (p.be.drop 1) (p.flits.drop 1))

/-- The checks of R38, in order, and the packet's effect. What its class does not allow, and a reserved type, goes before
all that looks at its gang (R28, R35; DEDUCED, log entry 21). -/
def State.fateOf (s : State) (port : Fin 21) (p : Packet) : Fate × State :=
  let part := p.dfn.toNat
  if !p.hccOk then (.silent, s)
  else if !p.flitsOk then (.drop dropCheck, s.logUnit .checkFail 2 0 5 0 dropCheck 0 p.gang)
  else if !typeOk p then (.drop dropBadtype, s)
  else if h : part < 17 then
    if part = 0 ∨ !(s.parts[part].exists_) then (.drop dropNoFunction, s)
    else if !residentGang s part p.gang then
      match s.gangDef part p.gang with
      | none => (.drop dropForeign, s)
      | some d => match spillWaits s part d with
        | some ch => (.waits ch, s)
        | none => match spill s part d p with
          | .ok s => (.captured, s)
          | .error why => (.drop dropForeign, s.logSpill part p.gang why)
    else match packetLines s part (if p.type = 0x02 then .atomic else .write) p.addr.toNat (lineCount p) with
      | .error (c, a) => (.drop dropXlate, s.logUnit c 0 part 5 0 dropXlate (BitVec.ofNat 64 a) p.gang)
      | .ok ps =>
        if ps.any (·.diff) then (.drop dropDiff, s)
        else match busyChan s part (packetChans s part p ps) with
          | some ch => (.waits ch, s)
          | none => (s.packetWalks part p.addr.toNat ps.length).applyPacket part port p ps
  else (.drop dropNoFunction, s)

/-- A packet from another module ends here: counted, acknowledged or dropped (R39, R71, R110). -/
def State.settle (s : State) (p : Packet) (f : Fate) : State :=
  let got (s : State) : State :=
    ((s.gangReceived p.dfn.toNat p.gang).meter p.dfn.toNat 10 (64 * p.flits.length))
  match f with
  | .silent => s
  | .waits _ => s
  | .drop r => s.dropPacket p r
  | .applied => (got s).ackPacket p
  | .captured => (got s).ackPacket p
  | .refused r =>
    (((got s).sendControl (ctlOf s 0x03 p.src.toNat (p.dfn.toNat % 32 + 2 ^ 8 * r) p.pseq.toNat))).ackPacket p

/-- A packet of the module itself ends here (R382). -/
def State.settleOwn (s : State) (w : WaitPkt) (f : Fate) : State :=
  match f with
  | .drop r => s.packetDropped w.info r
  | .refused r => (match w.info.cmd with
    | some id => s.launchRefused id r
    | none => s).packetDone w.info stOk
  | _ => s.packetDone w.info stOk

/-- The data packet that an arrival brings. -/
def Arrival.packet (a : Arrival) : Option Packet :=
  match a.ev.instr with
  | .dataPacketAccept _ p => some p
  | _ => none

/-- The channel at which an earlier packet of the same stream waits: none overtakes it (R41). -/
def streamWait (s : State) (p : Packet) : Option (Fin 256) :=
  (s.arrivals.find? fun a => a.chan.isSome && a.packet.any (samePacketStream p)).bind (·.chan)

/-- A packet waits at a channel, and is tried again in the next cycle. -/
def State.deferPacket (s : State) (port : Fin 21) (p : Packet) (ch : Fin 256) : State :=
  let from_ : Option (Fin 20) := if h : port.val < 20 then some ⟨port.val, h⟩ else none
  { s with arrivals := s.arrivals ++ [⟨s.cycle + 1, some ch, ⟨.dataPacketAccept from_ p, Input.reset⟩⟩] }

/-- A record of a spillway ends here: it has been counted and acknowledged as it was captured (R113, R114). -/
def State.settleAgain (s : State) (p : Packet) (f : Fate) : State :=
  match f with
  | .drop r => s.dropPacket p r
  | .refused r =>
    if p.src.toNat = selfMod s then s
    else s.sendControl (ctlOf s 0x03 p.src.toNat (p.dfn.toNat % 32 + 2 ^ 8 * r) p.pseq.toNat)
  | _ => s

/-- Apply a record of a spillway here, or let it wait at its channel (R91, R187). -/
def State.applyAgain (s : State) (p : Packet) : State :=
  match s.fateOf 20 p with
  | (.waits ch, _) => ({ s with fabric := { s.fabric with again := s.fabric.again ++ [p] } }).deferPacket 20 p ch
  | (f, s) => s.settleAgain p f

/-- Accept a packet: a record that has waited, one of the module's own, when its latency has passed (R42), or one from a
port. -/
def State.acceptPacket (s : State) (port : Fin 21) (p : Packet) : State :=
  if p.dst.toNat ≠ selfMod s then s
  else match streamWait s p with
  | some ch => s.deferPacket port p ch
  | none =>
    if s.fabric.again.contains p then
      ({ s with fabric := { s.fabric with again := s.fabric.again.erase p } }).applyAgain p
    else if p.src.toNat = selfMod s then
      match s.fabric.own.find? (·.pkt = p) with
      | none => s
      | some w =>
        if s.cycle < w.due then s
        else match s.fateOf port p with
          | (.waits ch, _) => s.deferPacket port p ch
          | (f, s) => ({ s with fabric := { s.fabric with own := s.fabric.own.erase w } }).settleOwn w f
    else match s.fateOf port p with
      | (.waits ch, _) => s.deferPacket port p ch
      | (f, s) => s.settle p f

/-- DATA_PACKET_ACCEPT (R38). -/
def execDataPacketAccept (port : Option (Fin 20)) (p : Packet) (s : State) : Host.Outcome State Fault Refusal :=
  .next (s.acceptPacket (match port with
    | some n => n.castSucc
    | none => 20) p)

/-- A packet of one type arrives at its destination. -/
def State.arriveAs (s : State) (type : BitVec 8) : State :=
  if s.inp.pkt.type = type then s.acceptPacket s.inp.port s.inp.pkt else s

/-- WRITE_PACKET (R35). -/
def execWritePacket (s : State) : Host.Outcome State Fault Refusal := .next (s.arriveAs 0x01)
/-- ATOMIC_PACKET (R35). -/
def execAtomicPacket (s : State) : Host.Outcome State Fault Refusal := .next (s.arriveAs 0x02)
/-- REQ_PACKET (R37). -/
def execReqPacket (s : State) : Host.Outcome State Fault Refusal := .next (s.arriveAs 0x03)
/-- LAUNCH_PACKET (R67). -/
def execLaunchPacket (s : State) : Host.Outcome State Fault Refusal := .next (s.arriveAs 0x04)
/-- REDUCE_PACKET (R125). -/
def execReducePacket (s : State) : Host.Outcome State Fault Refusal := .next (s.arriveAs 0x05)
/-- PICKUP_PACKET (R134). -/
def execPickupPacket (s : State) : Host.Outcome State Fault Refusal := .next (s.arriveAs 0x06)

/-! ### Injection and forwarding (R30, R111) -/

/-- A sent packet that failed at its first hop. -/
def State.injectFailed (s : State) (w : WaitPkt) (f : SendFail) : State :=
  let s := s.packetEnded w.info f.status (decide (f = .portDown))
  match w.info.entry with
  | none => s
  | some e => match f with
    | .noPort => s.collLost w.part e rsNoPort 0
    | .noRoute => s.collLost w.part e rsDrop dropNoRoute
    | .portDown => s.collLost w.part e rsDrop dropPortDown

/-- The held packet that may leave now (R111). -/
def nextHeld (s : State) : Option WaitPkt := s.fabric.held.find? fun w => !gangHeld s w.part w.pkt.gang

/-- PACKET_INJECT: the next packet of the fabric interface is injected: one held through a vote, or the
next of a core's commands (R31, R111, R382). -/
def execPacketInject (s : State) : Host.Outcome State Fault Refusal :=
  match nextHeld s with
  | some w =>
    match ({ s with fabric := { s.fabric with held := s.fabric.held.erase w } }).sendNow w with
    | (s, none) => .next s
    | (s, some f) => .next (s.injectFailed w f)
  | none => match nextInject s s.inp.core with
    | some m => .next (s.injectNext m)
    | none => .next s

/-- A packet that is not sent on leaves the buffer in which it came (R25). -/
def State.leaveBuffer (s : State) (src : Fin 21) (vc : Nat) (p : Packet) : State :=
  s.returnFlits src (Fin.ofNat 6 vc) (1 + p.flits.length)

/-- Forward a data packet (R30, R34): HCC and codes are checked, then its type (R28, R35), its hops, its route. -/
def State.forwardData (s : State) (vc : Nat) (p : Packet) : State :=
  let gone (s : State) : State := s.leaveBuffer s.inp.port vc p
  if !p.hccOk then gone s
  else if !p.flitsOk then (gone (s.logUnit .checkFail 2 0 5 0 dropCheck 0 p.gang)).dropPacket p dropCheck
  else if !typeOk p then (gone s).dropPacket p dropBadtype
  else if vc = 4 then (gone s).dropPacket p dropHops
  else match routePort s p.cls.toNat p.dst.toNat with
    | none => (gone s).dropPacket p dropNoRoute
    | some n => match s.emitData n ⟨s.inp.port, Fin.ofNat 5 (vc + 1), s.cycle + transitLatency, p.atHop (vc + 1)⟩ with
      | none => (gone s).dropPacket p dropPortDown
      | some s => s

/-- A control packet goes no further: it is counted for the port by which it came (R32). -/
def State.loseControl (s : State) (c : Control) : State :=
  (s.countDrop (arrivalPort s c)).returnFlits s.inp.port 5 s.inp.last.toNat

/-- Forward a control packet: dropped silently on any failure (R32). -/
def State.forwardControl (s : State) (c : Control) : State :=
  if !c.cccOk || !ctypeKnown c || decide (4 ≤ c.hop.toNat) then s.loseControl c
  else match routePort s 3 c.dst.toNat with
    | none => s.loseControl c
    | some n => s.emitControl n ⟨s.inp.port, s.inp.last, s.cycle + transitCtlLatency, c.atHop (c.hop.toNat + 1)⟩

/-- PACKET_FORWARD: a packet for another module; on VC 5 the control packet of the input. -/
def execPacketForward (vc : Fin 6) (p : Packet) (s : State) : Host.Outcome State Fault Refusal :=
  if vc.val = 5 then
    .next (if s.inp.ctl.dst.toNat = selfMod s then s else s.forwardControl s.inp.ctl)
  else .next (if p.dst.toNat = selfMod s then s else s.forwardData vc.val p)

/-! ### Links and ports (R25, R26, R44, R45) -/

/-- An event of the fabric interface with the port by which it came. -/
def evPort (i : Instr) (port : Fin 20) : Event := ⟨i, { Input.reset with port := port.castSucc }⟩

def State.arriveAt (s : State) (due : Nat) (e : Event) : State := { s with arrivals := s.arrivals ++ [⟨due, none, e⟩] }

def State.nextWork (s : State) (e : Event) : State := { s with agenda := s.agenda ++ [e] }

/-- A data packet has come by a port: to the module itself in its ejection time, or on its way (R30, R42). -/
def State.packetCame (s : State) (port : Fin 20) (fs : List Flit) : State :=
  match fs with
  | [] => s
  | f :: rest =>
    let p := packetOfBytes (f.bytes ++ rest.flatMap (·.bytes)) (rest.map (·.code))
    if p.dst.toNat = selfMod s then
      (s.leaveBuffer port.castSucc f.vc.val p).arriveAt (s.cycle + ejectLatency) (evPort (.dataPacketAccept (some port) p) port)
    else s.nextWork (evPort (.packetForward f.vc p) port)

/-- The step that takes a control packet at its destination (R32, R110). -/
def controlStep (c : Control) : Option Instr :=
  match c.ctype.toNat with
  | 0x01 => some .ackPacket
  | 0x02 => some .dropPacket
  | 0x03 => some .lrefusePacket
  | 0x10 => match bitsOf c.arg16.toNat 4 3 with
    | 0 => some .votePhasePrepare
    | 1 => some .votePhaseOk
    | 2 => some .votePhaseRefuse
    | 3 => some .votePhaseCommit
    | 4 => some .votePhaseAbort
    | 5 => some .votePhaseCommitted
    | _ => none
  | 0x11 => some (if c.arg16.getLsbD 13 then .levelRequest else .levelReport)
  | 0x12 => some .cutPacket
  | _ => none

/-- A control packet is for another module, and whole. -/
def passesOn (s : State) (c : Control) : Bool := c.cccOk && c.dst.toNat ≠ selfMod s

/-- A control packet has come by a port, with the second sum of its report where it is one (R32, R110). -/
def State.controlCame (s : State) (port : Fin 20) (c d : Control) (last : Bool) : State :=
  let inp : Input := { Input.reset with ctl := c, ctl2 := d, port := port.castSucc, last := last }
  if passesOn s c then s.nextWork ⟨.packetForward 5 Packet.zero, inp⟩
  else match if c.cccOk then controlStep c else none with
    | some i => s.arriveAt (s.cycle + ejectCtlLatency) ⟨i, inp⟩
    | none => s.countDrop port

/-- The control packets of a flit, in turn: the two sums of a report together (R110). -/
def State.controlsCame (s : State) (port : Fin 20) : List Control → State
  | [] => s
  | [c] => s.controlCame port c Control.zero true
  | c :: d :: rest =>
    if levelSent c && d.ctype = 0x11 && !passesOn s c && d.cccOk then
      (s.controlCame port c d false).controlsCame port rest
    else (s.controlCame port c Control.zero (!(d :: rest).any (passesOn s))).controlsCame port (d :: rest)

/-- A flit leaves the receiving link (R25, R33): a control flit at once, the flits of a data packet with its last. -/
def State.takeFlit (s : State) (port : Fin 20) (f : Flit) : State :=
  let got (fs : List Flit) : State :=
    let n := min 4 (bitsOf (fieldLE ((fs.map (·.bytes)).headD []) 1 1) 5 3)
    if fs.length = 1 + n then (s.updPort port fun q => { q with rx := [] }).packetCame port fs
    else s.updPort port fun q => { q with rx := fs }
  match f.kind with
  | .idle => s
  | .ctl =>
    let cs := controlsOf f
    (if cs.any (passesOn s) then s else s.returnFlits port.castSucc 5 1).controlsCame port cs
  | .head => got [f]
  | .data => if (s.fabric.ports[port]).rx.isEmpty then s else got ((s.fabric.ports[port]).rx ++ [f])

/-- LINK_FRAME_RECEIVE: a bad CRC sets a NAK; the frame due passes its flits on, once and in sequence; what its trailer
acknowledges or asks for again holds for any sound frame (R25). DESIGN CHOICE: log entry 41. -/
def execLinkFrameReceive (port : Fin 20) (f : Frame) (s : State) : Host.Outcome State Fault Refusal :=
  let q := s.fabric.ports[port]
  if !q.up then .next s
  else if frameCrc f.flits ≠ f.crc then .next (s.updPort port fun q => { q with nak := true })
  else
    let s := s.updPort port fun q => q.acknowledge f.ackSeq
    let s := if f.nak then s.nextWork (evPort (.linkNakReceive port (f.ackSeq + 1)) port) else s
    if f.seq ≠ q.rxSeq then .next s
    else
      let s := s.updPort port fun q => ({ q with
        rxSeq := q.rxSeq + 1, owesAck := q.owesAck || f.flits.any fun x => x.kind ≠ .idle } : Port).regain f.credits
      .next (f.flits.foldl (fun s x => s.takeFlit port x) s)

/-- The frames of the replay buffer from a sequence number on. -/
def Port.framesFrom (q : Port) (seq : BitVec 12) : List Frame := q.buffer.filter fun f => decide ((f.seq - seq).toNat < 2048)

/-- LINK_NAK_RECEIVE: every frame from the NAKed one on goes out again, from the replay buffer of 128 (R25). A NAK that
names a frame the buffer no longer holds is ignored: the manual does not say. DESIGN CHOICE: log entry 41. -/
def execLinkNakReceive (port : Fin 20) (seq : BitVec 12) (s : State) : Host.Outcome State Fault Refusal :=
  let q := s.fabric.ports[port]
  let fs := q.framesFrom seq
  if !q.up ∨ !fs.any (fun f => f.seq = seq) then .next s
  else
    let s := s.updPort port fun q => q.noteReplays s.cycle fs.length
    .next { s with out := s.out ++ fs.map (OutMsg.frame port) }

/-- Start one retrain (R26, R44). -/
def State.retrain (s : State) (port : Fin 20) : State :=
  s.updPort port fun q => if q.absent || q.down then q else { q with up := false, training := true }

/-- PORT_LOSS_OF_LOCK. -/
def execPortLossOfLock (port : Fin 20) (s : State) : Host.Outcome State Fault Refusal := .next (s.retrain port)

/-- REPLAY_LIMIT: more than 64 replays within 1 ms (R26). -/
def execReplayLimit (port : Fin 20) (s : State) : Host.Outcome State Fault Refusal :=
  .next (if 64 < s.fabric.ports[port].recentReplays s.cycle then s.retrain port else s)

/-- What is bound for a port is dropped with PORT_DOWN (R26, R44), and leaves the buffers in which it came. -/
def State.dropQueues (s : State) (port : Fin 20) : State :=
  let q := s.fabric.ports[port]
  let s := s.updPort port fun q =>
    { q with queue := [], ctlQueue := [], cur := none, drops := q.drops + q.ctlQueue.length }
  let s := q.ctlQueue.foldl (fun s e => s.returnFlits e.src 5 e.last.toNat) s
  let s := match q.cur with
    | some (e, fs) => (s.returnFlits e.src e.inVc fs.length).dropPacket e.pkt dropPortDown
    | none => s
  q.queue.foldl (fun s e => (s.leaveBuffer e.src e.inVc.val e.pkt).dropPacket e.pkt dropPortDown) s

/-- A port comes up with what its training learned (R27). The link's numbers, credits and replay buffer stand over a
retrain, and the frames not yet acknowledged go out again: replay loses nothing (R25). DESIGN CHOICE: log entry 41. -/
def State.portUp (s : State) (port : Fin 20) (flight : BitVec 8) (neigh : BitVec 11) (nport : BitVec 5) : State :=
  let s := s.updPort port fun q =>
    { q with up := true, training := false, flight := flight, neigh := neigh, nport := nport, trained := s.cycle }
  { s with out := s.out ++ (s.fabric.ports[port]).buffer.map (OutMsg.frame port) }

/-- RETRAIN_DONE: the port comes up, or is DOWN for the rest of the boot and in the fault log (R26). The
cause code of that entry is the model's choice (PRESUMED, log entry 21). -/
def execRetrainDone (port : Fin 20) (ok : Bool) (flight : BitVec 8) (neigh : BitVec 11) (nport : BitVec 5)
    (s : State) : Host.Outcome State Fault Refusal :=
  if !s.fabric.ports[port].training then .next s
  else if ok then .next (s.portUp port flight neigh nport)
  else
    let s := s.updPort port fun q => { q with up := false, training := false, down := true }
    let s := { s with boot := { s.boot with failedPorts := s.boot.failedPorts ||| BitVec.ofNat 20 (2 ^ port.val) } }
    .next ((s.logUnit .uncorrectable 2 0 5 port.val 0 0 0).dropQueues port)

/-- LINK_TRAINED: the first training (R27). -/
def execLinkTrained (port : Fin 20) (flight : BitVec 8) (neigh : BitVec 11) (nport : BitVec 5) (s : State) :
    Host.Outcome State Fault Refusal :=
  let q := s.fabric.ports[port]
  .next (if q.absent || q.down || q.up then s else s.portUp port flight neigh nport)

/-- PORT_CTL (R44), PF 0 only. -/
def State.writePortCtl (s : State) (port : Fin 20) (v : Word) : State :=
  let s := s.updPort port fun q => { q with enable := v.getLsbD 0 }
  let s := if v.getLsbD 0 then s else s.dropQueues port
  if v.getLsbD 1 then s.retrain port else s

def execPortEnableWrite (fn : Fn) (port : Fin 20) (v : Word) (s : State) : Host.Outcome State Fault Refusal :=
  .next (s.booted fun s => if fn = 0 then s.writePortCtl port v else s)

def execPortRetrain (fn : Fn) (port : Fin 20) (s : State) : Host.Outcome State Fault Refusal :=
  .next (s.booted fun s => if fn = 0 then s.retrain port else s)

/-- FAB_ID (R27, R45): ignored while any partition exists. -/
def State.writeFabId (s : State) (v : Word) : State :=
  if s.parts.any (·.exists_) then s
  else { s with fabric := { s.fabric with fabId := v &&& 0x7FF },
                cores := s.cores.map fun k => { k with pkgId := v.setWidth 11 } }

def execFabIdWrite (fn : Fn) (v : Word) (s : State) : Host.Outcome State Fault Refusal :=
  .next (s.booted fun s => if fn = 0 then s.writeFabId v else s)

/-- A route table entry (R29), PF 0 only. -/
def State.writeRoute (s : State) (dest : Nat) (v : BitVec 32) : State :=
  { s with fabric := { s.fabric with routes := SMap.set 0xFFFFF#32 s.fabric.routes dest (v &&& 0xFFFFF#32) } }

def execRouteTableWrite (fn : Fn) (dest : Fin 2048) (v : BitVec 32) (s : State) :
    Host.Outcome State Fault Refusal :=
  .next (s.booted fun s => if fn = 0 then s.writeRoute dest.val v else s)

/-- CONTROL_DROP: one entry per port and second for what was dropped silently, and one for the CUTs that
a function's sequencer dropped (R32, R133, R255). -/
def execControlDrop (port : Fin 20) (s : State) : Host.Outcome State Fault Refusal :=
  let q := s.fabric.ports[port]
  let s := s.updPort port fun q => { q with drops := 0, cutDrops := [] }
  let s := if q.drops = 0 then s else s.logUnit .controlDrop 2 0 5 port.val (min q.drops 0xFFFF) 0 0
  .next (q.cutDrops.foldl (fun s e => s.logUnit .controlDrop 2 e.1 2 port.val (min e.2 0xFFFF) 0 0) s)

end Sys2Proof.Machine
end

