-- ==== Sys2Proof/Machine/NearBank.lean ====
section
/-! DEFINITION. Near-bank compute (R175-R192, R392-R394, R404): microprograms, row steps, runs and the
instructions NBLD, NBX and NBQ. -/

namespace Sys2Proof.Machine

/-! ### Microprogram images (R178, R179, R182) -/

def imLen (im : List Byte) : Nat := fieldLE im 0 1
def imSize (im : List Byte) : Nat := if fieldLE im 1 1 = 0 then 4 else 2
def imRead (im : List Byte) (p : Nat) : Bool := (fieldLE im 2 1).testBit p
def imWrite (im : List Byte) (p : Nat) : Bool := (fieldLE im 2 1).testBit (4 + p)
def imNames (im : List Byte) (p : Nat) : Bool := imRead im p || imWrite im p
def imBreg (im : List Byte) (i : Nat) : Nat := fieldLE im (4 + 4 * i) 4

/-- A micro-op: UOP, D, A, B, C (R179). -/
structure Uop where
  op : Nat
  d  : Nat
  a  : Nat
  b  : Nat
  c  : Nat
  deriving DecidableEq, Repr

def uopOf (w : Nat) : Uop := ⟨bitsOf w 26 6, bitsOf w 22 4, bitsOf w 18 4, bitsOf w 14 4, bitsOf w 10 4⟩

def imUops (im : List Byte) : List Uop := (List.range (imLen im)).map fun i => uopOf (fieldLE im (64 + 4 * i) 4)

/-- A micro-op is assigned and sets no bits that its table row does not allow (R178, R179). -/
def uopOk (im : List Byte) (w : Nat) : Bool :=
  let u := uopOf w
  bitsOf w 0 10 = 0 &&
  match u.op with
  | 0x00 => u.d = 0 && u.a = 0 && u.b = 0 && u.c = 0
  | 0x01 => u.d < 8 && u.a < 4 && u.b = 0 && u.c = 0 && imRead im u.a
  | 0x02 => u.d < 4 && u.b = 0 && u.c = 0 && imWrite im u.d
  | 0x03 | 0x04 | 0x05 | 0x07 | 0x08 => u.d < 8 && u.c = 0
  | 0x06 | 0x09 => u.d < 8
  | 0x0A => u.d < 4 && u.b = 0 && u.c = 0
  | 0x0B => u.d < 8 && u.b = 0 && u.c = 0
  | _ => false

/-- Planes read and written, counted (R182). -/
def imPlanes (im : List Byte) : Nat :=
  ((List.range 4).filter (imRead im)).length + ((List.range 4).filter (imWrite im)).length

/-- Elements of a segment: the largest E with E * z * (R + Wn) at most 1,024 (R182). -/
def segElems (im : List Byte) : Option Nat :=
  [256, 128, 64, 32, 16].find? fun e => decide (e * imSize im * imPlanes im ≤ 1024)

/-- NBLD takes the image (R178). -/
def imageOk (im : List Byte) : Bool :=
  let n := imLen im
  0 < n && n ≤ 16 && fieldLE im 1 1 ≤ 1 && bitsOf (fieldLE im 2 1) 0 4 ≠ 0 && fieldLE im 3 1 = 0 &&
  fieldLE im 36 28 = 0 && fieldLE im (64 + 4 * n) (64 - 4 * n) = 0 &&
  ((List.range n).all fun i => uopOk im (fieldLE im (64 + 4 * i) 4)) && (segElems im).isSome

/-! ### Micro-op arithmetic (R180, R181) -/

def nbNan : Nat := fp32.nan

def nb2 (f : Val → Val → Val) (a b : Nat) : Nat := fp32.round .rne (f (fp32.decode a) (fp32.decode b))

/-- Any NaN operand gives the canonical NaN; MIN(-0, +0) is -0 and MAX(-0, +0) is +0. -/
def nbMin (a b : Nat) : Nat :=
  match Val.cmp (fp32.decode a) (fp32.decode b) with
  | none => nbNan
  | some .lt => a
  | some .gt => b
  | some .eq => if a.testBit 31 then a else b

def nbMax (a b : Nat) : Nat :=
  match Val.cmp (fp32.decode a) (fp32.decode b) with
  | none => nbNan
  | some .lt => b
  | some .gt => a
  | some .eq => if a.testBit 31 then b else a

/-- The correctly rounded square root of a code that is not negative. -/
def nbSqrt (v : Nat) : Nat :=
  match fp32.decode v with
  | .fin _ 0 _ _ => v
  | .fin _ n _ e => fp32.round .rne (sqrtVal n e)
  | .inf _ => v
  | .nan => nbNan

/-- What RSQDIV comes to in a lane: the value, held, CLAMP, SINGULAR. -/
structure RsqRes where
  val  : Nat
  held : Bool
  clamp : Bool
  sing : Bool
  deriving DecidableEq, Repr

def rsqdiv (m v eps : Nat) : RsqRes :=
  let mv := fp32.decode m
  let vv := fp32.decode v
  if mv.isNan || vv.isNan then ⟨0, true, false, false⟩
  else
    let neg := vv.sign && !vv.isZero
    let d := nb2 (Val.add false) (nbSqrt (if neg || vv.isZero then 0 else v)) eps
    if (fp32.decode d).isZero then
      ⟨if mv.isZero then 0 else (if mv.sign then 2 ^ 31 else 0) + fp32.maxFin, false, neg, true⟩
    else ⟨nb2 Val.div m d, false, neg, false⟩

/-! ### One lane of a row step (R182) -/

/-- A lane: its registers, the values recorded for its planes and accumulators, and its flags. -/
structure Lane where
  l    : List Nat
  held : Bool
  wrs  : List (Nat × Nat)
  accs : List (Nat × Nat)
  clamp : Nat
  sing : Nat
  nans : Nat
  deriving DecidableEq, Repr

def Lane.zero : Lane := ⟨List.replicate 8 0, false, [], [], 0, 0, 0⟩

/-- A source: a lane register, or a bank register (R179). -/
def Lane.src (im : List Byte) (x : Lane) (i : Nat) : Nat := if i < 8 then x.l.getD i 0 else imBreg im (i - 8)

def Lane.put (x : Lane) (d v : Nat) : Lane := { x with l := setAt x.l d v }

/-- An element of a plane as FP32: BF16 widens exactly (R180). -/
def widenElem (im : List Byte) (c : Nat) : Nat := if imSize im = 2 then c * 65536 else c

/-- A written element: to BF16, to nearest even with policy SAT, NaN canonical (R180). -/
def narrowElem (im : List Byte) (v : Nat) : Nat :=
  if imSize im = 2 then (match bf16.convert .rne .sat (fp32.decode v) with
    | .code c => c
    | _ => bf16.nan)
  else v

/-- Execute one micro-op in a lane; `elem` gives the plane's element. -/
def execUop (im : List Byte) (elem : Nat → Nat) (x : Lane) (u : Uop) : Lane :=
  let a := x.src im u.a
  let b := x.src im u.b
  let c := x.src im u.c
  match u.op with
  | 0x01 => x.put u.d (elem u.a)
  | 0x02 => { x with wrs := x.wrs ++ [(u.d, a)] }
  | 0x03 => x.put u.d (nb2 (Val.add false) a b)
  | 0x04 => x.put u.d (nb2 (fun p q => Val.add false p q.neg) a b)
  | 0x05 => x.put u.d (nb2 Val.mul a b)
  | 0x06 => x.put u.d (fp32.round .rne
      (Val.add false (Val.mul (fp32.decode a) (fp32.decode b)) (fp32.decode c)))
  | 0x07 => x.put u.d (nbMin a b)
  | 0x08 => x.put u.d (nbMax a b)
  | 0x09 =>
    let r := rsqdiv a b c
    { x.put u.d r.val with
      held := x.held || r.held, clamp := x.clamp + r.clamp.toNat, sing := x.sing + r.sing.toNat,
      nans := x.nans + r.held.toNat }
  | 0x0A => { x with accs := x.accs ++ [(u.d, a)] }
  | 0x0B => x.put u.d (if (fp32.decode a).isNan then nbNan else a % 2 ^ 31)
  | _ => x

/-! ### Descriptors and places (R176, R184) -/

def rdSlot (d : List Byte) : Nat := fieldLE d 0 1
def rdW (d : List Byte) : Nat := 2 ^ fieldLE d 1 1
def rdRow0 (d : List Byte) : Nat := fieldLE d 4 4
def rdRows (d : List Byte) : Nat := fieldLE d 8 4
def rdPlane (d : List Byte) (i : Nat) : Nat := fieldLE d (16 + 8 * i) 8
def rdStatus (d : List Byte) : Nat := fieldLE d 48 8

/-- Rows of a page divided by 1,024: P. -/
def rdP (d : List Byte) : Nat := 2048 / rdW d

/-- The form of a descriptor (R184). -/
def runDescOk (d : List Byte) : Bool :=
  let w := fieldLE d 1 1
  rdSlot d ≤ 3 && 6 ≤ w && w ≤ 11 && rdRows d ≠ 0 && fieldLE d 2 2 = 0 && fieldLE d 12 4 = 0 &&
  fieldLE d 56 8 = 0

/-- The byte offset of matrix row `i` in its page (R176). -/
def rowOffset (w i : Nat) : Nat :=
  let p := 2048 / w
  65536 * (i / 32 / p) + 2048 * (i % 32) + w * (i / 32 % p)

/-- Row steps of a matrix row: G (R182). -/
def segsOf (im d : List Byte) : Nat :=
  match segElems im with
  | some e => (rdW d / imSize im + e - 1) / e
  | none => 1

/-- The rows of a bank, ascending. -/
def bankRows (d : List Byte) (b : Nat) : List Nat :=
  let first := rdRow0 d + (b + 32 - rdRow0 d % 32) % 32
  if rdRow0 d + rdRows d ≤ first then []
  else (List.range ((rdRow0 d + rdRows d - first + 31) / 32)).map fun i => first + 32 * i

/-- Rows in the fullest bank. -/
def maxBankRows (d : List Byte) : Nat := (rdRows d + 31) / 32

/-- Channel steps of a run: S (R183). -/
def nbSteps (r : NbRun) : Nat := segsOf r.image r.desc * maxBankRows r.desc

/-! ### The row step of one unit (R182) -/

/-- What a unit did in a row step: its lanes, and where its elements lie. -/
def stepLanes (m : Mem) (r : NbRun) (row seg : Nat) : List Lane :=
  let im := r.image
  let z := imSize im
  let n := rdW r.desc / z
  let e := (segElems im).getD 16
  let us := imUops im
  (List.range e).map fun i =>
    let col := seg * e + i
    let active := decide (col < n)
    let elem (p : Nat) : Nat :=
      if active then
        widenElem im (m.readLE ((r.planes.getD p none).getD 0 + rowOffset (rdW r.desc) row + z * col) z)
      else 0
    let x := us.foldl (execUop im elem) Lane.zero
    if active then x else { x with held := true, clamp := 0, sing := 0, nans := 0 }

/-- The writes of the row step, in program order, then lane order. -/
def stepWrites (m : Mem) (r : NbRun) (row seg : Nat) (lanes : List Lane) : Mem :=
  let z := imSize r.image
  let e := (segElems r.image).getD 16
  let n := ((imUops r.image).filter fun u => u.op = 2).length
  (List.range n).foldl (fun (m : Mem) k =>
    (List.range e).foldl (fun (m : Mem) i =>
      let x := lanes.getD i Lane.zero
      match x.held, x.wrs[k]? with
      | false, some (p, v) =>
        m.writeBytes ((r.planes.getD p none).getD 0 + rowOffset (rdW r.desc) row + z * (seg * e + i))
          (natToBytes z (narrowElem r.image v))
      | _, _ => m) m) m

/-- The accumulators of a bank after the row step: lanes ascending, each ACC in program order. -/
def stepAccs (accs : List (BitVec 32)) (bank : Nat) (lanes : List Lane) : List (BitVec 32) :=
  lanes.foldl (fun acc x =>
    if x.held then acc
    else x.accs.foldl (fun acc (d, v) =>
      let i := 4 * bank + d
      setAt acc i (BitVec.ofNat 32 (fadd32 (acc.getD i 0).toNat v))) acc) accs

def sumBy (f : Lane → Nat) (ls : List Lane) : Nat := (ls.map f).foldl (· + ·) 0

/-! ### Counts (R192) -/

/-- A cumulative count of a partition at a channel, saturating. -/
def State.addNbCount (s : State) (part : Nat) (ch : Fin 256) (kind n : Nat) : State :=
  s.setRt part fun rt =>
    let key := 4 * ch.val + kind
    { rt with nbCounts := SMap.set 0 rt.nbCounts key (min 0xFFFFFFFF (SMap.get 0 rt.nbCounts key + n)) }

/-- The row that a segment opened is closed, and with it whatever the bank had open (R167, R183). -/
def State.closeRow (s : State) (ch : Fin 256) (bank : Nat) : State :=
  { s with openRows := SMap.set 0 s.openRows (32 * ch.val + bank) 0 }

/-- One unit's row step. -/
def unitStep (ch : Fin 256) (k : Nat) (acc : State × NbRun) (bank : Nat) : State × NbRun :=
  let (s, r) := acc
  let g := segsOf r.image r.desc
  match (bankRows r.desc bank)[k / g]? with
  | none => (s, r)
  | some row =>
    let lanes := stepLanes s.mem r row (k % g)
    let cl := sumBy (·.clamp) lanes
    let si := sumBy (·.sing) lanes
    let na := sumBy (·.nans) lanes
    let s := ({ s with mem := stepWrites s.mem r row (k % g) lanes }).closeRow ch bank
    let s := (((s.addNbCount r.part ch 0 cl).addNbCount r.part ch 1 si).addNbCount r.part ch 2 na).addNbCount
      r.part ch 3 1
    let s := s.meter r.part 11 1
    let i := row - rdRow0 r.desc
    let old := r.rows.getD i 0
    let flags : BitVec 8 := BitVec.ofNat 8
      ((if k % g + 1 = g then 1 else 0) + (if cl = 0 then 0 else 2) + (if si = 0 then 0 else 4) +
        (if na = 0 then 0 else 8))
    (s, { r with accs := stepAccs r.accs bank lanes, clamp := r.clamp + cl, singular := r.singular + si,
                 nanSeen := r.nanSeen + na, rows := setAt r.rows i (old ||| flags) })

/-- Lines of the planes that channel step `k` reads or writes. -/
def stepLines (r : NbRun) (k : Nat) : List Nat :=
  let g := segsOf r.image r.desc
  let z := imSize r.image
  let e := (segElems r.image).getD 16
  let w := rdW r.desc
  (List.range 32).flatMap fun bank =>
    match (bankRows r.desc bank)[k / g]? with
    | none => []
    | some row =>
      (List.range 4).flatMap fun p =>
        match imNames r.image p, r.planes.getD p none with
        | true, some base =>
          let a := base + rowOffset w row + z * e * (k % g)
          let len := min (z * e) (w - z * e * (k % g))
          (List.range (linesOf a len)).map fun i => a / 64 * 64 + 64 * i
        | _, _ => []

/-! ### Translation of planes (R184, R190) -/

/-- IPAs of the stage-1 tables that a walk reads (R190). -/
def tableIpas (s : State) (part va : Nat) : Nat → Nat → Nat → List Nat
  | 0, _, _ => []
  | fuel + 1, level, table =>
    table ::
      match ipaToDpa s part (table + 8 * levelIndex level va) with
      | .error _ => []
      | .ok d => match parsePte false level (s.peekLE part d 8) with
        | .table t => tableIpas s part va fuel (level + 1) t
        | _ => []

/-- 64 KiB granules of IPA that a plane's translation rests on: its page's and its tables'. -/
def planeIpas (s : State) (part va : Nat) : List Nat :=
  let page := match walk s part va with
    | .ok t => (List.range 32).map fun i => (t.ibase + (va - t.vbase)) / 2 ^ 21 * 32 + i
    | .error _ => []
  page ++ (tableIpas s part va 4 0 0).map (· / 65536)

/-- What an image does with a plane. -/
def planeKind (im : List Byte) (p : Nat) : AccKind :=
  match imRead im p, imWrite im p with
  | true, true => .atomic
  | false, true => .write
  | _, _ => .read

/-- A plane's page: 2 MiB aligned, translated in the engine for what the image does with it (R393), compute-capable. -/
def planeOf (s : State) (m : EngCmd) (im : List Byte) (d : List Byte) (p : Nat) : Option Nat :=
  let va := rdPlane d p
  if m.level = .h || va % 2 ^ 21 ≠ 0 then none
  else match engPhys s m (planeKind im p) va with
    | .ok q => if q.mtype = 2 && !q.host then some q.addr else none
    | .error _ => none

/-- REASONs of R191. -/
def nbSlot : Nat := 1
def nbRange : Nat := 2
def nbBusy : Nat := 3
def nbXlate : Nat := 4
def nbCheck : Nat := 5
def nbUncorr : Nat := 6
def nbAborted : Nat := 7

/-- The completion status of a REASON (R370, R393). -/
def nbStatus : Nat → BitVec 8
  | 0 => stOk | 1 => stNbSlot | 2 => stNbRange | 3 => stBusy | 4 => stNbXlate | 5 => stCheckFail
  | 6 => stUncorrectable | _ => stAborted

/-- The slot's image on a channel. -/
def slotImage (s : State) (part : Nat) (ch slot : Nat) : List Byte :=
  SMap.get [] (s.partRt part).slots (4 * ch + slot)

/-- The checks of R184 that depend on an image, with the planes already translated: the planes, or why
the run is refused. The channel must be `ch` if one is given. -/
def checkPlanes (s : State) (m : EngCmd) (im d : List Byte) (known : List (Option Nat))
    (ch : Option Nat) : Except Nat (List (Option Nat)) :=
  let named := (List.range 4).filter (imNames im)
  if im.isEmpty || named.any fun p => rdPlane d p = 0 then .error nbSlot
  else
    let planes := (List.range 4).map fun p =>
      match known.getD p none with
      | some a => some a
      | none => if imNames im p then planeOf s m im d p else none
    let at_ := planes.getD (named.headD 0) none
    if named.any fun p => (planes.getD p none).isNone then .error nbRange
    else if 1024 * rdP d < rdRow0 d + rdRows d then .error nbRange
    else if named.any fun p => (planes.getD p none).map chanOf ≠ (match ch with | some c => some c | none => at_.map chanOf)
      then .error nbRange
    else .ok planes

/-! ### Run records (R191) -/

/-- The planes that an image names and that are not known yet are translated: the TLB takes part (R86). -/
def State.tlbPlanes (s : State) (m : EngCmd) (im d : List Byte) (known : List (Option Nat)) : State :=
  ((List.range 4).filter fun p => imNames im p && (known.getD p none).isNone && rdPlane d p % 2 ^ 21 = 0).foldl
    (fun s p => s.engTlb m (rdPlane d p)) s

/-- CYCLES of a record: from leaving QUEUED to FINISH or FAILED (R191). -/
def NbRun.cycles (s : State) (r : NbRun) : Nat :=
  match r.state with
  | .queued => 0
  | .finish => r.since - r.start
  | _ => s.cycle - r.start

/-- The record of a run that ended with a REASON. -/
def recordOf (s : State) (r : NbRun) (reason : Nat) : List Byte :=
  natToBytes 4 ((if reason = 0 then 1 else 2) + 256 * reason) ++ natToBytes 4 r.mpc ++ natToBytes 4 r.susp ++
  natToBytes 4 r.clamp ++ natToBytes 4 r.singular ++ natToBytes 4 r.nanSeen ++
  natToBytes 8 (r.cycles s) ++ List.replicate 32 0 ++
  r.accs.flatMap (fun a => natToBytes 4 a.toNat) ++ r.rows

/-- The record of a run that was refused (R184). -/
def refusedRecord (d : List Byte) (reason : Nat) : List Byte :=
  natToBytes 4 (2 + 256 * reason) ++ List.replicate (572 + min (rdRows d) (1024 * rdP d)) 0

/-- The barrier count of an NBX (R371): the bytes of the planes that its image writes. -/
def nbxBar (m : EngCmd) : Option BarCount :=
  if m.c.getLsbD 24 then some ⟨bitsOf m.c.toNat 0 24, m.count⟩ else none

def nbxCount (im d : List Byte) : Nat := rdRows d * rdW d * ((List.range 4).filter (imWrite im)).length

/-- The cause that a record's failure is logged with. -/
def recordCause : EngStop → Option (Cause × Nat)
  | .park c a => some (c, a)
  | .failed c a => some (c, a)
  | .fail st => some (if st = stDiff then .diffKind else .xlateS1, 0)
  | .logged _ c _ => some (c, 0)
  | _ => none

/-- The first line of a record that has no translation. -/
def recordFails (s : State) (m : EngCmd) (ps : List Piece) : Option (Cause × Nat) :=
  ps.findSome? fun p => if (engWindow s m p.dst.num).isSome then none
    else match engPhys s m .write p.dst.num with
      | .ok _ => none
      | .error x => recordCause x

/-- An NBX whose run has ended: the record in `bytes` is written at STATUS, then the completion sent. One that fails
translation is skipped and logged to S (R191); one that waits at a channel is gone on with. -/
def State.runRecord (s : State) (m : EngCmd) (st : BitVec 8) : State :=
  let status := rdStatus m.block
  let ps := cutRun (m.bytes.length + 1) (.mem status) (.data m.bytes) m.bytes.length
  let skip (s : State) (c : Cause) (a : Nat) : State :=
    (s.logUnit c 0 m.part 1 m.core.val 0 (BitVec.ofNat 64 a) (s.ctxOf m.launch m.core).gang).finishCmd m st (nbxBar m)
  if status = 0 then s.finishCmd m st (nbxBar m)
  else match recordFails s m ps with
    | some (c, a) => skip s c a
    | none =>
      match movePieces [] s m (ps.drop m.moved) with
      | (s', m', none) => s'.finishCmd m' st (nbxBar m')
      | (s', m', some x) => match recordCause x with
        | some (c, _) => skip s' c status
        | none => s'.stopCmd m' (nbxBar m') x

/-- An NBX ends with a REASON and its record. -/
def State.endNbx (s : State) (m : EngCmd) (im record : List Byte) (reason : Nat) : State :=
  let m : EngCmd := { m with
    bytes := record, ended := some (nbStatus reason), chan := none, moved := 0, count := nbxCount im m.block }
  (s.setCmd m).runRecord m (nbStatus reason)

/-! ### Queueing (R184, R185) -/

/-- The lowest channel of a partition. -/
def firstChan (s : State) (part : Nat) : Nat :=
  if h : part < 17 then ((List.range 256).find? fun c => s.parts[part].chans.getLsbD c).getD 0 else 0

/-- A partition that is being destroyed ends its runs (R187). -/
def beingDestroyed (s : State) (part : Nat) : Bool := (s.partRt part).frames.isSome

/-- NBX in its engine: the checks of R184, then the channel's queue; after its run, the rest of its record. -/
def State.runNbx (s : State) (m : EngCmd) : State :=
  match m.ended with
  | some st => s.runRecord m st
  | none =>
    if m.chan.isSome then s
    else
      let d := m.block
      let im := slotImage s m.part (firstChan s m.part) (rdSlot d)
      let refuse (s : State) (reason : Nat) : State := s.endNbx m im (refusedRecord d reason) reason
      if beingDestroyed s m.part then refuse s nbAborted
      else match checkPlanes s m im d [] none with
      | .error e => refuse (s.tlbPlanes m im d []) e
      | .ok planes =>
        let s := s.tlbPlanes m im d []
        let ch : Fin 256 := Fin.ofNat 256 (chanOf ((planes.findSome? id).getD 0))
        if 8 ≤ ((s.nb[ch]).filter fun r => r.state = .queued).length then refuse s nbBusy
        else
          let r : NbRun :=
            { cmd := m.id, part := m.part, desc := d, image := [], planes := planes,
              ipas := ((List.range 4).filter fun p => (planes.getD p none).isSome).flatMap fun p =>
                planeIpas s m.part (rdPlane d p),
              state := .queued, mpc := 0, steps := 0, accs := List.replicate 128 0, clamp := 0, singular := 0,
              nanSeen := 0, susp := 0, rows := List.replicate (rdRows d) 0, start := 0, since := s.cycle, ended := none,
              kill := none, written := 0, quiet := 0 }
          ({ s with nb := s.nb.set ch (s.nb[ch] ++ [r]) }).setCmd { m with chan := some ch }

/-! ### The states of a run (R187, R404) -/

def State.setHead (s : State) (ch : Fin 256) (r : NbRun) : State :=
  { s with nb := s.nb.set ch (r :: (s.nb[ch]).drop 1) }

/-- Write the record of a run that has left its channel, and send its completion. -/
def State.completeRun (s : State) (r : NbRun) (reason : Nat) : State :=
  match s.cmds.find? (·.id = r.cmd) with
  | none => s
  | some m => s.endNbx m r.image (recordOf s r reason) reason

/-- An address lies in a page of a run's planes. -/
def NbRun.inPlanes (r : NbRun) (dpa : Nat) : Bool :=
  r.planes.any fun p => match p with
    | some b => decide (b / 2 ^ 21 = dpa / 2 ^ 21)
    | none => false

/-- Combining entries of the planes' pages are applied (R186). -/
def State.sweepPlanes (s : State) (ch : Fin 256) (r : NbRun) : State := s.applyCombined ch fun e => r.inPlanes e.key.dpa

/-- The context whose events a run's accesses count in. -/
def NbRun.req (s : State) (r : NbRun) : Req :=
  ⟨r.part, r.part, (s.cmds.find? (·.id = r.cmd)).map fun m => (m.launch, m.core), .no⟩

/-- The guard sweep over L2 (R186): every line of the planes' pages leaves, whatever its tag; how many were written
back. -/
def State.guardSweep (s : State) (r : NbRun) : State × Nat :=
  let mine (e : L2Line) : Bool := e.win.isNone && r.inPlanes (64 * e.line)
  (s.flushLines (r.req s) mine, (s.l2.filter fun e => mine e && e.dirty).length)

/-- NB_RUN_DEQUEUE: the run at the head takes its image and is checked again (R178, R187); its guard sweep begins. -/
def execNbRunDequeue (s : State) : Host.Outcome State Fault Refusal :=
  let ch := s.inp.chan
  match s.nb[ch] with
  | [] => .next s
  | r :: rest =>
    let gone : State := { s with nb := s.nb.set ch rest }
    if r.state ≠ .queued then .next s
    else match s.cmds.find? (·.id = r.cmd) with
      | none => .next gone
      | some m =>
        let im := slotImage s r.part ch.val (rdSlot r.desc)
        let r := { r with image := im }
        match checkPlanes s m im r.desc r.planes (some ch.val) with
        | .error e => .next ((gone.tlbPlanes m im r.desc r.planes).completeRun r e)
        | .ok planes =>
          let more := ((List.range 4).filter fun p =>
            (r.planes.getD p none).isNone && (planes.getD p none).isSome).flatMap
              fun p => planeIpas s r.part (rdPlane r.desc p)
          let r' : NbRun := { r with planes := planes }
          let (s, n) := (s.tlbPlanes m im r.desc r.planes).guardSweep r'
          .next (s.setHead ch { r' with
            state := .guard, ipas := r.ipas ++ more, start := s.cycle, since := s.cycle, written := n })

/-- A run enters RUN at a cycle, if its partition has the tokens of its first step; else it waits for them (R187,
R189). -/
def State.enterRun (s : State) (ch : Fin 256) (r : NbRun) (at_ : Nat) : State :=
  if hasTokens s ch r.part 8 then (s.spendTokens ch r.part 8).setHead ch { r with state := .run, since := at_, steps := 0 }
  else s.setHead ch { r with state := .tokenWait, since := at_ }

/-- NB_GUARD_DONE: lines that came in during the sweep leave as well, and take their time; then RUN 32 cycles later, the
image broadcast, MPC zero (R186). -/
def execNbGuardDone (s : State) : Host.Outcome State Fault Refusal :=
  let ch := s.inp.chan
  match (s.nb[ch]).head? with
  | some r =>
    if r.state ≠ .guard then .next s
    else
      let (s, n) := (s.sweepPlanes ch r).guardSweep r
      match r.kill with
      | some e => .next (({ s with nb := s.nb.set ch ((s.nb[ch]).drop 1) } : State).completeRun r e)
      | none =>
        if n ≠ 0 then .next (s.setHead ch { r with written := r.written + n })
        else .next (s.enterRun ch { r with mpc := 0 } (s.cycle + 32))
  | none => .next s

/-- The line of a step whose check codes fail: the REASON. -/
def stepFault (s : State) (r : NbRun) : Option Nat :=
  (stepLines r r.mpc).findSome? fun a => (lineFault s a).map fun c =>
    if c = .checkFail then nbCheck else nbUncorr

/-- A request waits at a channel: an access of a core, a command of an engine, an entry of a sequencer, a
request from outside. -/
def requestWaits (s : State) (ch : Fin 256) : Bool :=
  (s.memq.any fun o => o.result.isNone && !o.onPath && decide (o.due ≤ s.cycle) && Clk.le o.clk s.perf[o.home] &&
    (o.chans s).contains ch && !blockedByOrder s o && !blockedByAfter s o && !o.tokenWaits s) ||
  s.cmds.any (fun m => m.waitAt = some ch) || s.arrivals.any (fun w => w.chan = some ch) ||
  s.rt.toList.any fun r => r.tiles.any fun e => e.waitAt = some ch

/-- The channel step of a run is done: every unit's row step. -/
def State.channelStep (s : State) (ch : Fin 256) (r : NbRun) : State × NbRun :=
  let s := s.sweepPlanes ch r
  let (s, r) := (List.range 32).foldl (unitStep ch r.mpc) (s, r)
  (s, { r with mpc := r.mpc + 1, steps := r.steps + 1 })

/-- NB_ROW_BOUNDARY: the step under way ends, and the run finishes, fails, suspends, waits for tokens or
steps again (R187, R189). -/
def execNbRowBoundary (s : State) : Host.Outcome State Fault Refusal :=
  let ch := s.inp.chan
  match (s.nb[ch]).head? with
  | some r =>
    if r.state ≠ .run then .next s
    else
      let ends (s : State) (r : NbRun) (e : Nat) : State :=
        s.setHead ch { r with state := .finish, since := s.cycle, ended := some e }
      match stepFault s r with
      | some e => .next (ends ((List.range 32).foldl (fun s b => s.closeRow ch b) s) r e)
      | none =>
        let (s, r) := s.channelStep ch r
        match r.kill with
        | some e => .next (ends s r e)
        | none =>
          if nbSteps r ≤ r.mpc then .next (ends s r 0)
          else if 2 ≤ r.steps && requestWaits s ch then
            .next (s.setHead ch { r with state := .suspending, since := s.cycle })
          else if !hasTokens s ch r.part 8 then
            .next (s.setHead ch { r with state := .tokenWait, since := s.cycle })
          else .next ((s.spendTokens ch r.part 8).setHead ch { r with since := s.cycle })
  | none => .next s

/-- The issuing context of a run's command counts an event. -/
def State.countRun (s : State) (r : NbRun) (ev : Fin 16) (n : Nat) : State :=
  match s.cmds.find? (·.id = r.cmd) with
  | some m => s.countCtx m.launch m.core ev n
  | none => s

/-- NB_SUSPEND_DONE: after 56 cycles the banks are the controller's, and a window opens (R187); the suspension
counts in event 13 (R95). A run that is to end hands over at once (R404). -/
def execNbSuspendDone (s : State) : Host.Outcome State Fault Refusal :=
  let ch := s.inp.chan
  match (s.nb[ch]).head? with
  | some r =>
    if r.state ≠ .suspending then .next s
    else .next ((s.countRun r 13 1).setHead ch { r with
      state := .window, since := s.cycle, quiet := s.cycle, susp := r.susp + 1 })
  | none => .next s

/-- NB_WINDOW_CLOSE: the run begins RESUMING (R187, R404). -/
def execNbWindowClose (s : State) : Host.Outcome State Fault Refusal :=
  let ch := s.inp.chan
  match (s.nb[ch]).head? with
  | some r =>
    if r.state ≠ .window then .next s
    else match r.kill with
      | some e => .next (s.setHead ch { r with state := .finish, since := s.cycle, ended := some e })
      | none => .next (s.setHead ch { r with state := .resuming, since := s.cycle })
  | none => .next s

/-- NB_RESUME_DONE: the run re-enters RUN (R187). -/
def execNbResumeDone (s : State) : Host.Outcome State Fault Refusal :=
  let ch := s.inp.chan
  match (s.nb[ch]).head? with
  | some r =>
    if r.state ≠ .resuming then .next s
    else .next (s.enterRun ch r s.cycle)
  | none => .next s

/-- NB_TOKENS_READY: TOKENWAIT ends with 8 tokens, or with a request waiting in SUSPENDING (R187). Its
wait counts as token-wait cycles (R189). -/
def execNbTokensReady (s : State) : Host.Outcome State Fault Refusal :=
  let ch := s.inp.chan
  match (s.nb[ch]).head? with
  | some r =>
    if r.state ≠ .tokenWait then .next s
    else
      let counted := s.countRun r 9 (s.cycle - r.since)
      match r.kill with
      | some e => .next (counted.setHead ch { r with state := .finish, since := s.cycle, ended := some e })
      | none =>
        if requestWaits s ch then
          .next (counted.setHead ch { r with state := .suspending, since := s.cycle })
        else if hasTokens s ch r.part 8 then
          .next ((counted.spendTokens ch r.part 8).setHead ch { r with state := .run, since := s.cycle, steps := 0 })
        else .next s
  | none => .next s

/-- NB_RUN_FINISH: the record is written and the completion sent (R187, R191). -/
def execNbRunFinish (s : State) : Host.Outcome State Fault Refusal :=
  let ch := s.inp.chan
  match s.nb[ch] with
  | r :: rest =>
    match r.state, r.ended with
    | .finish, some e => .next (({ s with nb := s.nb.set ch rest } : State).completeRun r e)
    | _, _ => .next s
  | [] => .next s

/-- What the head of a channel's queue is due to do now, if anything. -/
def nbDue (s : State) (ch : Fin 256) : Option Instr :=
  match (s.nb[ch]).head? with
  | none => none
  | some r =>
    let past (n : Nat) (i : Instr) : Option Instr := if r.since + n ≤ s.cycle then some i else none
    match r.state with
    | .queued => some .nbRunDequeue
    | .guard => past (1536 + 2 * r.written) .nbGuardDone
    | .run => past 160 .nbRowBoundary
    | .tokenWait =>
      if decide (r.since ≤ s.cycle) && (r.kill.isSome || requestWaits s ch || hasTokens s ch r.part 8) then
        some .nbTokensReady
      else none
    | .suspending => past 56 .nbSuspendDone
    | .window =>
      if r.kill.isSome || (!requestWaits s ch && decide (r.quiet + 16 ≤ s.cycle)) || decide (r.since + 4096 ≤ s.cycle)
      then some .nbWindowClose else none
    | .resuming => past 32 .nbResumeDone
    | .finish => past 64 .nbRunFinish

/-! ### Ending runs (R187, R190) -/

/-- PDESTROY or an invalidation ends the runs it names: a queued one at once, any other at its next boundary.
A run in GUARD holds nothing and ends when its sweep does. -/
def State.endRuns (s : State) (p : NbRun → Bool) (reason : Nat) : State :=
  (List.finRange 256).foldl (fun s ch =>
    if (s.nb[ch]).any p then
      let gone := (s.nb[ch]).filter fun r => p r && r.state = .queued
      let kept := ((s.nb[ch]).filter fun r => !(p r && r.state = .queued)).map fun r =>
        if p r && r.kill.isNone then { r with kill := some reason } else r
      let s := { s with nb := s.nb.set ch kept }
      gone.foldl (fun s r => s.completeRun r reason) s
    else s) s

/-- A run rests on an IPA of a range of 64 KiB granules. -/
def NbRun.restsOn (r : NbRun) (part lo hi : Nat) : Bool :=
  r.part = part && r.ipas.any fun g => decide (lo / 65536 ≤ g) && decide (g * 65536 < hi)

/-! ### NBLD, NBX, NBQ -/

def execNbld (g : Fin 64) (a b : SSpec) (s : State) : Host.Outcome State Fault Refusal :=
  finish s ((readS s a 0).bind fun x s => (readS s b 1).bind fun y s =>
    needTag s g <|
    need s (x.toNat ≤ 3) .operandReserved (opndInfo 0 0) <|
    needAddr s y 1 fun e =>
    need s (e.num % 64 = 0) .misaligned e.info <|
    needFootprint s [(e, 128)] <|
    .ok () (s.startOn (newCmd s (.nbld g a b) (some g) x y 0) [(e, 128)]))

/-- An image into a slot of channels of a partition. -/
def State.loadSlot (s : State) (part slot : Nat) (chans : List Nat) (im : List Byte) : State :=
  s.setRt part fun rt => { rt with slots := chans.foldl (fun sl c => SMap.set [] sl (4 * c + slot % 4) im) rt.slots }

/-- NBLD (R392): the image is read, and each owned channel takes it at an instant of its own: some at once, the others
within 3,200 cycles, when the command completes. Which, and how long, are free values. DESIGN CHOICE: log entry 9. -/
def State.runNbld (s : State) (m : EngCmd) : State :=
  let owned := if h : m.part < 17 then (List.range 256).filter fun c => s.parts[m.part].chans.getLsbD c else []
  if m.ended = some stOk then (s.loadSlot m.part m.a.toNat owned m.block).finishCmd m stOk none else
  let e := engAddrOf m.b
  match engRead s m e 64 with
  | .error x => s.stopCmd m none x
  | .ok (lo, s) =>
    match engRead s m (e.plus 64) 64 with
    | .error x => s.stopCmd m none x
    | .ok (hi, s) =>
      let im := lo ++ hi
      if !imageOk im then s.finishCmd m stNbImage none
      else
        let now := owned.filter fun c => Config.raceNew (s.free + c)
        let due := s.cycle + 1 + Config.loadCycles s.free % 3199
        ({ s with free := s.free + 256 } : State).loadSlot m.part m.a.toNat now im
          |>.setCmd { m with block := im, ended := some stOk, due := due, parked := false }

def execNbx (g : Fin 64) (a : SSpec) (c : SOpnd) (s : State) : Host.Outcome State Fault Refusal :=
  finish s ((readS s a 0).bind fun x s => (readSO s c 2).bind fun z s =>
    needTag s g <|
    needBlock s x 64 fun blk =>
    need s (bitsOf z.toNat 25 39 = 0) .operandReserved (opndInfo 0 2) <|
    need s (runDescOk blk) .operandReserved (opndInfo 0 0) <|
    need s (rdStatus blk % 64 = 0) .misaligned (BitVec.ofNat 64 (rdStatus blk)) <|
    .ok () (s.startCmd { newCmd s (.nbx g a c) (some g) x 0 z with block := blk }))

/-- Where the channel holds the line of a target: of a window, the first of the stored lines (R394). DEDUCED: log entry
38. -/
def heldAt (s : State) : Target → Nat
  | .hbm p => p.addr
  | .window i p => ((windowNo s s.pre.part i).bind fun w => (storedPlaces s s.pre.part w p.addr).head?).getD p.addr
  | _ => 0

/-- NBQ: a count of the channel of the line at VA b, as it stands at issue (R394). -/
def execNbq (w : WReg) (a b : SSpec) (s : State) : Host.Outcome State Fault Refusal :=
  finish s ((readS s a 0).bind fun x s => (readS s b 1).bind fun y s =>
    need s (x.toNat ≤ 3) .operandReserved (opndInfo 0 0) <|
    need s (y.toNat % 8 = 0) .misaligned y <|
    match memTarget s .read y 8 with
    | .error c => raise s c y
    | .ok t =>
      let n := SMap.get 0 (s.partRt s.pre.part).nbCounts (4 * chanOf (heldAt s t) + x.toNat % 4)
      .ok () ((s.noteAccess s.issue.core t y.toNat).result (BitVec.ofNat 64 n) 600 w))

end Sys2Proof.Machine
end

