-- ==== Sys2Proof/Machine/Complete.lean ====
section
/-! DEFINITION. The engines at work on a command, its completion and the retry of a parked one (R89, R369-R371). -/

namespace Sys2Proof.Machine

/-- A command that completes by itself: a message's delivery, a queued run, a fabric command, which PACKET_INJECT runs. -/
def EngCmd.elsewhere (m : EngCmd) : Bool :=
  match m.op with
  | .cmsg _ _ _ => true
  | .nbx _ _ _ => m.chan.isSome
  | op => isFabric op

/-- One step of a command of the copy engine: its next line, its completion, or why it stops (R194, R369). -/
def State.runCmd (s : State) (m : EngCmd) : State :=
  match m.op with
  | .cpy _ _ _ _ => s.runCopy m
  | .cpyp _ _ _ _ => s.runCopy m
  | .cstrp _ _ _ _ => s.runCopy m
  | .ctld _ n _ _ => s.runCtld m n
  | .ctst _ n _ _ => s.runCtst m n
  | .cqst _ _ _ _ => s.runCqst m
  | .cfill _ _ _ _ => s.runFill m
  | .czero _ _ _ => s.runFill m
  | .cflush _ _ _ => s.runFlush m
  | .msat _ _ _ _ => s.runMsat m
  | .hsig _ _ _ => s.runHsig m
  | .nbld _ _ _ => s.runNbld m
  | .nbx _ _ _ => s.runNbx m
  | _ => s

/-- The barrier that a command counts at (R371). -/
def EngCmd.bar (m : EngCmd) : Option BarCount :=
  match m.op with
  | .cpy _ _ _ _ | .cpyp _ _ _ _ | .cstrp _ _ _ _ => copyBar m
  | .cfill _ _ _ _ | .czero _ _ _ => cpyBar m.c
  | .ctld _ _ _ _ | .ctst _ _ _ _ => tileBar m
  | .cqst _ _ _ _ => cqstBar m
  | .nbx _ _ _ => nbxBar m
  | _ => none

/-- A command that can run now. -/
def EngCmd.canRun (s : State) (m : EngCmd) : Bool := !m.elsewhere && m.ready s && m.onTurn s

/-- What the surroundings of a step find: the source line at byte `n` of a command has failed (R22, R23). -/
def State.failSource (s : State) (m : EngCmd) (n code : Nat) : State :=
  match (engAddrOf m.b).plus n with
  | .spad o => s.mapCore m.core fun k => { k with badSpad := SMap.set 0 k.badSpad (o / 64) code }
  | .mem a => match engPhys s m .read a with
    | .ok p => if p.host then s else s.failLine m.req.tag p.addr code
    | .error _ => s

/-- COPY_COMPLETE: the command that holds the tag takes its next step, met by what its surroundings add (R369,
R370); where no command of the core holds the tag, its oldest that has none. -/
def execCopyComplete (core : Fin 256) (tag : Fin 64) (e : EngineEnd) (s : State) :
    Host.Outcome State Fault Refusal :=
  let mine := s.cmds.filter fun m => m.core = core && m.canRun s
  match mine.find? (·.tag = some tag) <|> mine.find? (·.tag.isNone) with
  | none => .next s
  | some m =>
    let m : EngCmd := { m with waitAt := none }
    match e with
    | .ok => .next (s.runCmd m)
    | .uncorrectable n => .next ((s.failSource m n 1).runCmd m)
    | .checkFail n => .next ((s.failSource m n 2).runCmd m)
    | .aborted => .next (s.finishCmd m stAborted m.bar)

/-- PARKED_RETRY: a parked command tries its walk again and goes on where it stopped (R89). -/
def execParkedRetry (core : Fin 256) (tag : Fin 64) (s : State) : Host.Outcome State Fault Refusal :=
  match s.cmds.find? (fun m => m.core = core && m.tag = some tag && m.parked && m.ready s) with
  | some m => .next (if isFabric m.op then s.injectNext m else s.runCmd { m with waitAt := none })
  | none => .next s

/-- Parked commands, entries and messages of a partition try again at once: at an S2INV (R89). -/
def State.unpark (s : State) (part : Nat) : State :=
  { s with
    cmds := s.cmds.map fun m => if m.part = part ∧ m.parked then { m with retry := 0 } else m
    memq := s.memq.map fun o => if o.part = part ∧ o.parked.isSome then { o with parked := some 0 } else o
    rt := s.rt.map fun rt =>
      { rt with tiles := rt.tiles.map fun e =>
          if e.part = part ∧ e.parked.isSome then { e with parked := some 0 } else e } }

/-- Parked commands of a launch that ends are completed with XLATE (R89), its entries likewise. -/
def State.dropParked (s : State) (launch : Nat) : State :=
  let s := (s.cmds.filter fun m => m.launch = some launch && m.parked).foldl (fun s m => s.completeCmd m.id stXlate) s
  match s.launchById launch with
  | some l => s.dropParkedEntries l.part launch
  | none => s

end Sys2Proof.Machine
end

