-- ==== Sys2Proof/Machine/Bundle.lean ====
section
/-! DEFINITION. The bundle starts of a code area (R284). -/

namespace Sys2Proof.Machine

/-- Parse a code area in sequence from its first word; none where its last bundle runs past the end
(R284). -/
def parseCode : Nat → Nat → List Nat → Option (List RawBundle)
  | 0, _, _ => none
  | _ + 1, _, [] => some []
  | fuel + 1, at_, h :: ws =>
    let n := bundleWords h - 1
    if ws.length < n then none
    else (parseCode fuel (at_ + 4 * (n + 1)) (ws.drop n)).map fun rest => ⟨at_, h, ws.take n⟩ :: rest

end Sys2Proof.Machine
end

