-- ==== Sys2Proof/Machine/Scan.lean ====
section
/-! DEFINITION. Registration: the kernel header, the checks of an image and the static scan (R64, R65,
R233, R282-R286). -/

namespace Sys2Proof.Machine

/-! ### What an instruction names (R285) -/

/-- A named item. -/
inductive Named where
  | x (n : Nat)
  | v (n : Nat)
  | tile (n : Nat)
  | acc (n : Nat)
  | tag (n : Nat)
  | stream (n : Nat)
  deriving DecidableEq, Repr

def nmX (w : Fin 16) : List Named := [.x w.val]
def nmVec (n : Fin 16) : List Named := [.v n.val]
def nmTile (n : Fin 8) : List Named := [.tile n.val]
def nmAcc (n : Fin 8) : List Named := [.acc n.val]
def nmTag (n : Fin 64) : List Named := [.tag n.val]
def nmStream (n : Fin 8) : List Named := [.stream n.val]

def nmS : SSpec → List Named
  | .x n => nmX n
  | _ => []

def nmSO : SOpnd → List Named
  | .spec s => nmS s
  | .lit _ => []

def nmV : VSpec → List Named
  | .v n => nmVec n
  | .stream n => nmStream n
  | .bcast n => nmX n
  | _ => []

def nmVO : VOpnd → List Named
  | .spec s => nmV s
  | .lit _ => []

/-- The registers, tiles, accumulators, tags and streams that a slot instruction names. -/
def namesOf : Instr → List Named
  | .yield a => nmS a
  | .add a b w _ => nmS a ++ nmSO b ++ nmX w
  | .sub a b w _ => nmS a ++ nmSO b ++ nmX w
  | .mul a b w _ => nmS a ++ nmSO b ++ nmX w
  | .mulh a b w => nmS a ++ nmSO b ++ nmX w
  | .mulhz a b w => nmS a ++ nmSO b ++ nmX w
  | .div a b w _ => nmS a ++ nmSO b ++ nmX w
  | .divz a b w _ => nmS a ++ nmSO b ++ nmX w
  | .rem a b w _ => nmS a ++ nmSO b ++ nmX w
  | .remz a b w _ => nmS a ++ nmSO b ++ nmX w
  | .and a b w => nmS a ++ nmSO b ++ nmX w
  | .or a b w => nmS a ++ nmSO b ++ nmX w
  | .xor a b w => nmS a ++ nmSO b ++ nmX w
  | .andn a b w => nmS a ++ nmSO b ++ nmX w
  | .shl a b w _ => nmS a ++ nmSO b ++ nmX w
  | .shr a b w _ => nmS a ++ nmSO b ++ nmX w
  | .sra a b w _ => nmS a ++ nmSO b ++ nmX w
  | .rot a b w _ => nmS a ++ nmSO b ++ nmX w
  | .clz a w _ => nmS a ++ nmX w
  | .ctz a w _ => nmS a ++ nmX w
  | .popc a w _ => nmS a ++ nmX w
  | .min a b w => nmS a ++ nmSO b ++ nmX w
  | .max a b w => nmS a ++ nmSO b ++ nmX w
  | .minz a b w => nmS a ++ nmSO b ++ nmX w
  | .maxz a b w => nmS a ++ nmSO b ++ nmX w
  | .cmp a b w _ => nmS a ++ nmSO b ++ nmX w
  | .sel a b w c => nmS a ++ nmSO b ++ nmX w ++ nmS c
  | .agen a b w _ => nmS a ++ nmSO b ++ nmX w
  | .bfi a b w v => nmS a ++ nmSO b ++ nmX w ++ nmS v
  | .movx a w _ _ => nmS a ++ nmX w
  | .li w _ => nmX w
  | .addi a w _ => nmS a ++ nmX w
  | .andi a w _ => nmS a ++ nmX w
  | .ori a w _ => nmS a ++ nmX w
  | .xori a w _ => nmS a ++ nmX w
  | .shli a w _ _ => nmS a ++ nmX w
  | .shri a w _ _ => nmS a ++ nmX w
  | .srai a w _ _ => nmS a ++ nmX w
  | .bfx a w _ _ _ => nmS a ++ nmX w
  | .ld a _ w _ _ => nmS a ++ nmX w
  | .st a _ b w _ _ _ => nmS a ++ nmS b ++ nmX w
  | .spl a _ => nmS a
  | .fil w _ => nmX w
  | .amo a _ b w _ _ _ => nmS a ++ nmS b ++ nmX w
  | .amocas a _ b w _ e => nmS a ++ nmS b ++ nmX w ++ nmS e
  | .mqrd a w => nmS a ++ nmX w
  | .mqrel a => nmS a
  | .beqz a _ => nmS a
  | .bnez a _ => nmS a
  | .bltz a _ => nmS a
  | .bgez a _ => nmS a
  | .loop n _ => nmX n
  | .jt a b => nmS a ++ nmSO b
  | .calli a b w => nmS a ++ nmSO b ++ nmX w
  | .ret a => nmS a
  | .twait a w => nmS a ++ nmX w
  | .twany a w => nmS a ++ nmX w
  | .tffr a w => nmS a ++ nmX w
  | .tclr a => nmS a
  | .binit a b => nmS a ++ nmSO b
  | .barr a => nmS a
  | .bwait a b w => nmS a ++ nmSO b ++ nmX w
  | .btest a b w => nmS a ++ nmSO b ++ nmX w
  | .binv a => nmS a
  | .csrr w _ => nmX w
  | .csrw a _ => nmS a
  | .sbindRd a _ s => nmS a ++ nmStream s
  | .sbindWr a _ s => nmS a ++ nmStream s
  | .sunbind s => nmStream s
  | .lnch a w => nmS a ++ nmX w
  | .adjrd a b w _ => nmS a ++ nmSO b ++ nmX w
  | .adjclr a b w _ => nmS a ++ nmSO b ++ nmX w
  | .tlbinvPart a w => nmS a ++ nmX w
  | .tlbinvIpa a b w => nmS a ++ nmSO b ++ nmX w
  | .tlbinvAll w => nmX w
  | .scrub a w => nmS a ++ nmX w
  | .voteRd w => nmX w
  | .voteAbort w => nmX w
  | .voteCommit w => nmX w
  | .wfi a w => nmS a ++ nmX w
  | .vadd a b _ _ => nmV a ++ nmVO b
  | .vsub a b _ _ => nmV a ++ nmVO b
  | .vmul a b _ _ => nmV a ++ nmVO b
  | .vfma a b c _ _ => nmV a ++ nmVO b ++ nmV c
  | .vfms a b c _ _ => nmV a ++ nmVO b ++ nmV c
  | .vfnma a b c _ _ => nmV a ++ nmVO b ++ nmV c
  | .vdiv a b _ _ => nmV a ++ nmVO b
  | .vsqrt a _ _ => nmV a
  | .vrsq a _ _ => nmV a
  | .vrcp a _ _ => nmV a
  | .vexp2 a _ _ => nmV a
  | .vlog2 a _ _ => nmV a
  | .vmin a b _ => nmV a ++ nmVO b
  | .vmax a b _ => nmV a ++ nmVO b
  | .vabs a _ _ => nmV a
  | .vneg a _ _ => nmV a
  | .vcps a b _ => nmV a ++ nmVO b
  | .vand a b _ => nmV a ++ nmVO b
  | .vor a b _ => nmV a ++ nmVO b
  | .vxor a b _ => nmV a ++ nmVO b
  | .vnot a _ => nmV a
  | .vshl a b _ => nmV a ++ nmVO b
  | .vshr a b _ => nmV a ++ nmVO b
  | .vsra a b _ => nmV a ++ nmVO b
  | .vmulh a b _ => nmV a ++ nmVO b
  | .vcmp a b _ _ => nmV a ++ nmVO b
  | .vsel a b c _ => nmV a ++ nmVO b ++ nmV c
  | .vclass a _ => nmV a
  | .vcvt a _ _ _ _ => nmV a
  | .vpack a b _ => nmV a ++ nmVO b
  | .vunpk a _ => nmV a
  | .vscl a b _ _ => nmV a ++ nmVO b
  | .vanc a b _ _ => nmV a ++ nmVO b
  | .vdanc a b _ _ => nmV a ++ nmVO b
  | .vqdec a b c _ _ => nmV a ++ nmVO b ++ nmV c
  | .vbcst a _ => nmV a
  | .viota a _ => nmV a
  | .vperm a b _ => nmV a ++ nmVO b
  | .vslide a b c _ => nmV a ++ nmVO b ++ nmV c
  | .vzip a b _ _ => nmV a ++ nmVO b
  | .vunzip a b _ _ => nmV a ++ nmVO b
  | .vmov a n _ => nmV a ++ nmVec n
  | .vsw a n _ => nmV a ++ nmStream n
  | .vext a b _ => nmV a ++ nmVO b
  | .vrsum a _ _ => nmV a
  | .vrmax a _ => nmV a
  | .vrmin a _ => nmV a
  | .vscan a _ _ => nmV a
  | .vdot a b _ _ => nmV a ++ nmVO b
  | .mpush a _ => nmV a
  | .mset a _ => nmV a
  | .mop z a b _ _ => nmAcc z ++ nmTile a ++ nmTile b
  | .mopz z a b _ _ => nmAcc z ++ nmTile a ++ nmTile b
  | .mr1 z a b _ _ => nmAcc z ++ nmTile a ++ nmTile b
  | .mr1z z a b _ _ => nmAcc z ++ nmTile a ++ nmTile b
  | .mzero z => nmAcc z
  | .macc z s _ => nmAcc z ++ nmAcc s
  | .mscl z _ => nmAcc z
  | .mdrain z _ _ _ _ _ _ _ => nmAcc z
  | .msave z _ _ => nmAcc z
  | .mload z _ _ => nmAcc z
  | .cpy g a b c => nmTag g ++ nmS a ++ nmS b ++ nmSO c
  | .cpyp g a b c => nmTag g ++ nmS a ++ nmS b ++ nmSO c
  | .cstrp g a b c => nmTag g ++ nmS a ++ nmS b ++ nmSO c
  | .ctld g n b c => nmTag g ++ nmTile n ++ nmS b ++ nmSO c
  | .ctst g n b c => nmTag g ++ nmTile n ++ nmS b ++ nmSO c
  | .cqst g _ b c => nmTag g ++ nmS b ++ nmSO c
  | .cfill g a b c => nmTag g ++ nmS a ++ nmS b ++ nmSO c
  | .czero g a c => nmTag g ++ nmS a ++ nmSO c
  | .cpref a c => nmS a ++ nmSO c
  | .cflush g a c => nmTag g ++ nmS a ++ nmSO c
  | .cmsg g a b => nmTag g ++ nmS a ++ nmS b
  | .fwr g a b c => nmTag g ++ nmS a ++ nmS b ++ nmSO c
  | .famo g a b c => nmTag g ++ nmS a ++ nmS b ++ nmSO c
  | .freq g a b c => nmTag g ++ nmS a ++ nmS b ++ nmSO c
  | .flnch g a c => nmTag g ++ nmS a ++ nmSO c
  | .ttset a b => nmS a ++ nmS b
  | .trdy a => nmS a
  | .rcut a => nmS a
  | .rpick a => nmS a
  | .rstat w a => nmX w ++ nmS a
  | .nbld g a b => nmTag g ++ nmS a ++ nmS b
  | .nbx g a c => nmTag g ++ nmS a ++ nmSO c
  | .nbq w a b => nmX w ++ nmS a ++ nmS b
  | .msat g a b c => nmTag g ++ nmS a ++ nmS b ++ nmSO c
  | .hsig a b c => nmS a ++ nmS b ++ nmSO c
  | _ => []

/-! ### Words with reserved fields (R268, R284, R285)

Reserved fields are not checked at registration: a word whose opcode is assigned still names what its other fields name,
and still transfers where it would. -/

/-- A field of a slot word: its lowest bit and its width. -/
abbrev WordField := Nat × Nat

/-- The fields in which the words of a map can name an item (R267). -/
def nameFields : SlotClass → List WordField
  | .s => [(18, 6), (12, 6), (7, 5), (13, 5), (0, 6), (0, 3)]
  | .v => [(18, 6), (12, 6), (6, 6)]
  | .m => [(21, 3), (18, 3), (15, 3)]
  | .c => [(18, 6), (12, 6), (6, 6), (0, 6), (18, 5)]

/-- A word with a field put to a value. -/
def putField (w : Nat) (f : WordField) (v : Nat) : Nat := w - bitsOf w f.1 f.2 * 2 ^ f.1 + v % 2 ^ f.2 * 2 ^ f.1

def decodeNat (cls : SlotClass) (w : Nat) (lit : Option BWord) : Option Instr :=
  match decodeSlot cls (BitVec.ofNat 32 w) lit with
  | .ok i => some i
  | .error _ => none

/-- A word of the same opcode that decodes, with what stands in for operands that have no zero: a loop register, a tile or
queue, a vector register, a stream, a type. -/
def plainWord (cls : SlotClass) (op : Nat) (lit : Option BWord) : Option (Nat × Option BWord) :=
  let fill : List Nat := [0, 17 * 2 ^ 18, 32 * 2 ^ 12, 16 * 2 ^ 6, 32 * 2 ^ 6]
  let words := fill.flatMap fun x => (List.range 16).map fun t => op * 2 ^ 24 + x + 4 * t
  [lit, none].findSome? fun l => (words.find? fun w => (decodeNat cls w l).isSome).map fun w => (w, l)

/-- What a word names in one field: what comes and goes with the field's value. -/
def namesIn (cls : SlotClass) (base : Nat) (lit : Option BWord) (w : Nat) (f : WordField) : List Named :=
  let at_ (v : Nat) : List Named := ((decodeNat cls (putField base f v) lit).map namesOf).getD []
  let v := bitsOf w f.1 f.2
  (at_ v).diff (at_ (v ^^^ 1))

/-- What a slot word names (R285); one whose opcode is unassigned names nothing. -/
def SlotWord.names (w : SlotWord) : List Named :=
  let cls := Slot.cls w.slot
  match decodeNat cls w.word.toNat w.lit with
  | some i => namesOf i
  | none => match plainWord cls (w.word.toNat / 2 ^ 24) w.lit with
    | some (base, l) => (nameFields cls).flatMap (namesIn cls base l w.word.toNat)
    | none => []

/-- The instruction that a slot word is, its distance kept where it transfers. -/
def SlotWord.kind (w : SlotWord) : Option Instr :=
  let cls := Slot.cls w.slot
  let n := w.word.toNat
  let off := [putField n (18, 6) 0, putField n (18, 6) 17]
  (decodeNat cls n w.lit) <|> ([w.lit, none].findSome? fun l => off.findSome? fun x => decodeNat cls x l) <|>
    ((plainWord cls (n / 2 ^ 24) w.lit).bind fun b => decodeNat cls b.1 b.2)

/-- What a bundle names, and what its instructions are. -/
def RawBundle.names (b : RawBundle) : List Named := b.slots.flatMap SlotWord.names

def RawBundle.kinds (b : RawBundle) : List Instr := b.slots.filterMap SlotWord.kind

/-- Refusal of a name that the header does not declare (R285). -/
def nameRefusal (h : KHeader) : Named → Option Nat
  | .x n => if max h.nx 1 ≤ n then some 0x0F else none
  | .v n => if h.nv ≤ n then some 0x0F else none
  | .tile n => if h.tiles.getLsbD n then none else some 0x10
  | .acc n => if h.accs.getLsbD n then none else some 0x10
  | .tag n => if h.tags ≤ n then some 0x11 else none
  | .stream n => if h.streams.getLsbD n then none else some 0x12

/-! ### Transfers and waits (R286, R103) -/

/-- How a bundle can pass control: the distance of a direct target in words, indirect, and whether a backward or
pushing transfer demands a safe point. -/
structure Flow where
  targets : List Int
  indirect : Bool
  transfer : Bool
  needsSp : Bool
  br : Bool
  wait : Bool
  deriving DecidableEq, Repr

def offInt : Off → Int
  | .off18 v => v.toInt
  | .lit v => v.toInt

def Flow.none : Flow := ⟨[], false, false, false, false, false⟩

def flowOf : Instr → Flow
  | .br o => { Flow.none with targets := [offInt o], transfer := true, needsSp := offInt o ≤ 0, br := true }
  | .beqz _ o => cond o
  | .bnez _ o => cond o
  | .bltz _ o => cond o
  | .bgez _ o => cond o
  | .bmz o => cond o
  | .bmnz o => cond o
  | .loop _ o => { Flow.none with targets := [offInt o], transfer := true, needsSp := true }
  | .call o => { Flow.none with targets := [offInt o], transfer := true, needsSp := true }
  | .jt _ _ => { Flow.none with indirect := true, transfer := true, needsSp := true }
  | .calli _ _ _ => { Flow.none with indirect := true, transfer := true, needsSp := true }
  | .ret _ => { Flow.none with indirect := true, transfer := true, needsSp := true }
  | .twait _ _ => { Flow.none with wait := true }
  | .twany _ _ => { Flow.none with wait := true }
  | .bwait _ _ _ => { Flow.none with wait := true }
  | .mfence => { Flow.none with wait := true }
  | _ => Flow.none
where
  cond (o : Off) : Flow := { Flow.none with targets := [offInt o], transfer := true, needsSp := offInt o ≤ 0 }

def RawBundle.flow (b : RawBundle) : Flow :=
  (b.kinds.map flowOf).foldl (fun a f =>
    ⟨a.targets ++ f.targets, a.indirect || f.indirect, a.transfer || f.transfer, a.needsSp || f.needsSp,
     a.br || f.br, a.wait || f.wait⟩) Flow.none

/-- Cost(B) of R286. -/
def RawBundle.cost (b : RawBundle) (f : Flow) : Nat := 1 + hdIdle b.head + if f.transfer then 2 else 0

/-- Out(B) of the bundles before the present one, by offset. -/
abbrev Outs := List (Nat × Nat)

/-- A bundle that transfers to an offset: its Out, known because it comes earlier or is a safe point. -/
def outOf (outs : Outs) (b : RawBundle) (f : Flow) : Nat :=
  match outs.find? (·.1 = b.at_) with
  | some o => o.2
  | none => b.cost f

/-- Arrivals in address order; the largest (R286). -/
def arrivals (all : List (RawBundle × Flow)) (ind : Nat) :
    List (RawBundle × Flow) → Option (RawBundle × Flow) → Outs → Nat → Nat
  | [], _, _, m => m
  | (b, f) :: rest, prev, outs, m =>
    let fromPrev := match prev with
      | some (p, g) => if g.br then 0 else outOf outs p g
      | none => 0
    let jumps := (all.filter fun (x, g) => g.targets.any fun t => (x.at_ : Int) + 4 * t = b.at_).map
      fun (x, g) => outOf outs x g
    let arrive := jumps.foldl max (max ind fromPrev)
    let out := if hdSp b.head then b.cost f else arrive + b.cost f
    arrivals all ind rest (some (b, f)) ((b.at_, out) :: outs) (max m arrive)

/-- Refusal 0x0C (R286). -/
def distanceOk (spdist : Nat) (bs : List RawBundle) : Bool :=
  let all := bs.map fun b => (b, b.flow)
  let ind := ((all.filter fun x => x.2.indirect).map fun x => x.1.cost x.2).foldl max 0
  spdist ≠ 0 && (all.all fun x => !x.2.needsSp || hdSp x.1.head) &&
    decide (arrivals all ind all none [] 0 ≤ spdist)

/-! ### The header (R283) -/

/-- The differentiable region of a table entry (R233). -/
def diffOfEntry (e : List Byte) : Option DiffRegion :=
  if fieldLE e 0 1 = 0 then none
  else some
    { hbm := fieldLE e 0 1 = 2, type := if fieldLE e 1 1 = 0 then .f32 else if fieldLE e 1 1 = 1 then .bf16 else .f16,
      a32 := fieldLE e 2 1 = 1, anchor := signed 16 (fieldLE e 4 2), base := fieldLE e 8 8, len := fieldLE e 16 8,
      adj := fieldLE e 24 8 }

def diffEntries (im : List Byte) : List (List Byte) :=
  (List.range (fieldLE im 31 1)).map fun i => (im.drop (fieldLE im 60 4 + 32 * i)).take 32

/-- What a header declares. -/
def headerOf (im : List Byte) : KHeader :=
  { tandem := (fieldLE im 6 2).testBit 0, entry := fieldLE im 12 4, codeOff := fieldLE im 16 4,
    codeLen := fieldLE im 20 4, quads := fieldLE im 24 1, nx := fieldLE im 25 1, nv := fieldLE im 26 1,
    tiles := BitVec.ofNat 8 (fieldLE im 27 1), accs := BitVec.ofNat 8 (fieldLE im 28 1),
    streams := BitVec.ofNat 8 (fieldLE im 29 1), tags := fieldLE im 30 1,
    polders := BitVec.ofNat 32 (fieldLE im 32 4), barriers := fieldLE im 36 2, mqMax := fieldLE im 38 2,
    q0Max := fieldLE im 40 1, q1Max := fieldLE im 41 1, cqMax := fieldLE im 42 1, moqMax := fieldLE im 43 1,
    sDepth := fieldLE im 44 1, spill := fieldLE im 46 2, spDist := fieldLE im 48 4, lmOff := fieldLE im 52 4,
    lmCount := fieldLE im 56 4, reel := fieldLE im 64 8, diffs := (diffEntries im).filterMap diffOfEntry }

def liveEntries (im : List Byte) : List LiveEntry :=
  (List.range (fieldLE im 56 4)).map fun i =>
    let e := (im.drop (fieldLE im 52 4 + 16 * i)).take 16
    ⟨fieldLE e 0 4, e⟩

/-! ### The checks (R65, R284) -/

/-- The sections of an image beside its header: offset and length (R282). -/
def sections (im : List Byte) : List (Nat × Nat) :=
  [(fieldLE im 16 4, fieldLE im 20 4), (fieldLE im 52 4, 16 * fieldLE im 56 4), (fieldLE im 60 4, 32 * fieldLE im 31 1),
   (fieldLE im 72 4, fieldLE im 76 4)]

def disjoint (a b : Nat × Nat) : Bool := a.2 = 0 || b.2 = 0 || decide (a.1 + a.2 ≤ b.1) || decide (b.1 + b.2 ≤ a.1)

def pairwiseDisjoint : List (Nat × Nat) → Bool
  | [] => true
  | a :: l => l.all (disjoint a) && pairwiseDisjoint l

def sectionsOk (im : List Byte) : Bool :=
  let n := fieldLE im 8 4
  (sections im).all (fun s => s.2 = 0 || decide (s.1 + s.2 ≤ n)) && pairwiseDisjoint ((0, 128) :: sections im)

/-- The code area's bundles, if it parses (R284). -/
def codeOf (im : List Byte) : Option (List RawBundle) :=
  let off := fieldLE im 16 4
  let len := fieldLE im 20 4
  if off % 4 ≠ 0 || len % 4 ≠ 0 || len = 0 then none
  else parseCode (len / 4 + 1) off (wordsOf ((im.drop off).take len))

/-- Undeclared polders that can serve as save polders, counted from 31 downwards (R104). -/
def savePolders (h : KHeader) : Nat := 32 - (declaredPolders h).length

def countBits {n : Nat} (m : BitVec n) : Nat := ((List.range n).filter fun i => m.getLsbD i).length

/-- The live map (R103, R104, R284). -/
def liveOk (h : KHeader) (bs : List RawBundle) (es : List LiveEntry) : Bool :=
  let sps := (bs.filter fun b => hdSp b.head).map (·.at_)
  let within (v n : Nat) : Bool := decide (v < 2 ^ n)
  let sorted := (es.zip (es.drop 1)).all fun (a, b) => decide (a.offset < b.offset)
  sorted && es.all (fun e => sps.contains e.offset) && sps.all (fun o => es.any fun e => e.offset = o) &&
  (es.all fun e =>
    let m := e.masks
    within (fieldLE m 8 2) (max h.nx 1) && !(fieldLE m 8 2).testBit 0 && within (fieldLE m 10 2) h.nv &&
    (BitVec.ofNat 8 (fieldLE m 12 1) &&& ~~~h.tiles) = 0 && (BitVec.ofNat 8 (fieldLE m 13 1) &&& ~~~h.accs) = 0 &&
    (BitVec.ofNat 8 (fieldLE m 14 1) &&& ~~~h.streams) = 0 && within (fieldLE m 15 1) 2 &&
    decide ((countBits (BitVec.ofNat 8 (fieldLE m 12 1)) + countBits (BitVec.ofNat 8 (fieldLE m 13 1)) + 1) / 2 ≤
      savePolders h)) &&
  (decide ((countBits h.tiles + countBits h.accs + 1) / 2 ≤ savePolders h) ||
    bs.all fun b => hdSp b.head || !b.flow.wait)

/-- Bytes of scratchpad that leave the declared polders. -/
def leavesPolders (h : KHeader) (a n : Nat) : Bool := (badPolder h a n).isSome

def DiffRegion.adjLen (r : DiffRegion) : Nat := 4 * (r.len / r.esize)

/-- The differentiable region table (R233). -/
def diffsOk (h : KHeader) (es : List (List Byte)) : Bool :=
  let rs := es.filterMap diffOfEntry
  (es.all fun e =>
    fieldLE e 0 1 ≤ 2 && fieldLE e 3 1 = 0 && fieldLE e 6 2 = 0 &&
    (if fieldLE e 0 1 = 0 then fieldLE e 0 8 = 0 && fieldLE e 8 8 = 0 && fieldLE e 16 8 = 0 && fieldLE e 24 8 = 0
     else fieldLE e 1 1 ≤ 2 && fieldLE e 2 1 ≤ 1 && (fieldLE e 2 1 = 1 || fieldLE e 4 2 = 0) &&
      fieldLE e 8 8 % 64 = 0 && fieldLE e 16 8 ≠ 0 && fieldLE e 16 8 % 64 = 0 && fieldLE e 24 8 % 64 = 0)) &&
  (let of (hbm : Bool) := (rs.filter fun r => r.hbm = hbm).flatMap fun r => [(r.base, r.len), (r.adj, r.adjLen)]
   pairwiseDisjoint (of true) && pairwiseDisjoint (of false)) &&
  rs.all fun r => r.hbm || (!leavesPolders h r.base r.len && !leavesPolders h r.adj r.adjLen)

/-- What a partition has of HBM, the bound of REEL (R65): its channels, less the copies of its registered images (R64). -/
def hbmBytes (s : State) (part : Nat) : Nat :=
  if h : part < 17 then
    countBits s.parts[part].chans * 0x48000000 - (s.parts[part].kernels.map fun k => k.image.length).sum
  else 0

/-- The checks in the order of the refusal codes: the code and the byte offset that offends, or nothing
(R65, R284). `reelCap` bounds REEL. -/
def imageRefusal (im : List Byte) (reelCap : Nat) : Option (Nat × Nat) :=
  let isize := fieldLE im 8 4
  let body := im.take isize
  let h := headerOf im
  let names := match codeOf im with
    | some bs => bs.flatMap fun (b : RawBundle) => b.names.filterMap fun n => (nameRefusal h n).map fun c => (c, b.at_)
    | none => []
  if fieldLE im 0 4 ≠ 0x4B385946 then some (0x01, 0)
  else if fieldLE im 4 2 ≠ 1 then some (0x02, 4)
  else if im.length < isize || isize < 128 || isize % 4 ≠ 0 then some (0x04, 8)
  else if sha3_256 (spliceBytes body 96 (zeros 32)) ≠ (body.drop 96).take 32 then some (0x03, 96)
  else match codeOf im with
  | none => some (0x04, 20)
  | some bs =>
    if !sectionsOk im then some (0x04, 16)
    else if !(bs.any fun b => b.at_ = h.entry) then some (0x04, 12)
    else if h.quads = 0 || 64 < h.quads then some (0x05, 24)
    else if 16 < h.nx then some (0x06, 25)
    else if 16 < h.nv then some (0x06, 26)
    else if 64 < h.q0Max then some (0x07, 40)
    else if 64 < h.q1Max then some (0x07, 41)
    else if 16 < h.cqMax then some (0x07, 42)
    else if 4 < h.moqMax then some (0x07, 43)
    else if 16 < h.sDepth then some (0x07, 44)
    else if 1024 < h.mqMax then some (0x07, 38)
    else if 64 < h.tags then some (0x08, 30)
    else if 16 * (declaredPolders h).length < h.barriers then some (0x09, 36)
    else if h.polders = 0 then some (0x0A, 32)
    else if 16384 < h.spill then some (0x0B, 46)
    else if !distanceOk h.spDist bs then some (0x0C, 48)
    else if !liveOk h bs (liveEntries im) then some (0x0D, 52)
    else if 16 < fieldLE im 31 1 || !diffsOk h (diffEntries im) then some (0x0E, 60)
    else if reelCap < h.reel then some (0x0E, 64)
    else match [0x0F, 0x10, 0x11, 0x12].findSome? fun c => names.find? fun n => n.1 = c with
      | some n => some n
      | none => none

/-- The kernel of an accepted image. -/
def kernelFrom (handle : Nat) (im : List Byte) : Kernel :=
  { handle := handle, hdr := headerOf im, image := im.take (fieldLE im 8 4),
    starts := ((codeOf im).getD []).map (·.at_), live := liveEntries im }

end Sys2Proof.Machine
end

