-- ==== Sys2Proof/Machine/Host.lean ====
section
/-! DEFINITION. The host interface: addresses of a function, register writes, rings, the commands' course, slates,
attestation, summaries, and the host's own accesses (R46-R75). -/

namespace Sys2Proof

/-- An operand field. -/
def Cmd.field (c : Cmd) (o n : Nat) : Nat := fieldLE c.data o n
def Cmd.opc (c : Cmd) : Nat := c.field 0 1

/-- The same fetched command (R59). -/
def Cmd.same (a b : Cmd) : Bool := a.fn = b.fn && a.ring = b.ring && a.serial = b.serial

/-- Bytes of a host access. -/
def HostAccess.len : HostAccess → Nat
  | .read n => n
  | .write bs => bs.length

/-- Every byte not named is zero (R61). -/
def Cmd.zeroBut (c : Cmd) (used : List (Nat × Nat)) : Bool :=
  c.field 1 1 < 4 && c.field 4 4 = 0 &&
  (List.range 56).all fun i => used.any (fun u => decide (u.1 ≤ 8 + i) && decide (8 + i < u.1 + u.2)) ||
    c.field (8 + i) 1 = 0

namespace Machine

/-! ### Addresses of a function (R47, R48, R54) -/

/-- Where an address of a function lies. HOST = 0 is an IPA through stage 2 for a VF and a DPA for PF 0. -/
def fnPlace (s : State) (fn : Fn) (wr : Bool) (a : Nat) : XRes Phys :=
  if a.testBit 63 then
    if fn = 0 || ownedIova s fn.val (a % 2 ^ 63) then .ok ⟨a % 2 ^ 63, true, false, 0⟩ else .error .xlateS2
  else if fn = 0 then
    if presentDpa s a && decide (a < 2 ^ 39) then .ok ⟨a, false, false, 0⟩ else .error .ownership
  else if 2 ^ 39 ≤ a then .error .xlateS2
  else match stage2 s fn.val a with
    | .error c => .error c
    | .ok l =>
      if (wr && !l.wr) || (!wr && !l.rd) then .error .xlateS2
      else if l.host then
        if ownedIova s fn.val (leafAddr l a) then .ok ⟨leafAddr l a, true, false, l.mtype⟩ else .error .xlateS2
      else if ownedDpa s fn.val (leafAddr l a) then .ok ⟨leafAddr l a, false, false, l.mtype⟩ else .error .ownership

/-- Places of a range with their lengths, cut at 64-byte lines. -/
def fnPlaces (s : State) (fn : Fn) (wr : Bool) : Nat → Nat → Nat → XRes (List (Phys × Nat))
  | 0, _, _ => .ok []
  | fuel + 1, a, n =>
    if n = 0 then .ok []
    else
      let t := min n (64 - a % 64)
      match fnPlace s fn wr a, fnPlaces s fn wr fuel (a + t) (n - t) with
      | .ok p, .ok rest => .ok ((p, t) :: rest)
      | .error c, _ => .error c
      | _, .error c => .error c

/-- The device as a requester for a function (R90): the function's tag, in no way of L2. -/
def fnReq (fn : Fn) : Req := ⟨fn.val, fn.val, none, .no⟩

/-- The host as a requester at a function (R90). -/
def hostReq (fn : Fn) : Req := ⟨fn.val, fn.val, none, .any⟩

/-- How a write of so many bytes of a line uses it. -/
def spanUse (wr : Bool) (n : Nat) : LineUse := if !wr then .read else if n = 64 then .full else .part

/-- The channels that an access of places uses. -/
def placeChans (s : State) (q : Req) (wr : Bool) (ps : List (Phys × Nat)) : List (Fin 256) :=
  ps.flatMap fun (p, t) => if p.host then [] else accessChans s q p.addr (p.mtype ≠ 0) (spanUse wr t)

/-- The channel at which an access of a function's range waits (R91, R187). -/
def fnWaits (s : State) (q : Req) (fn : Fn) (wr : Bool) (a n : Nat) : Option (Fin 256) :=
  match fnPlaces s fn wr (n + 1) a n with
  | .error _ => none
  | .ok ps => busyChan s q.part (placeChans s q wr ps)

/-- Bytes of host memory read, or written, for a partition (R71). -/
def State.meterHost (s : State) (q : Req) (wr : Bool) (n : Nat) : State :=
  if q.part = 0 then s else s.meter q.part (if wr then 13 else 12) n

/-- Read places in order; a line's combining entries are applied first (R171). A failed line gives nothing (R22, R23). -/
def State.getPlaces (s : State) (q : Req) : List (Phys × Nat) → XRes (List Byte × State)
  | [] => .ok ([], s)
  | (p, t) :: rest =>
    if p.host then
      match (s.meterHost q false t).getPlaces q rest with
      | .ok (bs, s') => .ok (s.hostMem.readBytes p.addr t ++ bs, s')
      | .error c => .error c
    else match sideFault s q.tag p.addr (p.mtype ≠ 0) with
      | some c => .error c
      | none =>
        let s := (s.applyLine p.addr).access q p.addr (p.mtype ≠ 0) .read
        match s.getPlaces q rest with
        | .ok (bs, s') => .ok (s.look q.tag p.addr t (p.mtype ≠ 0) ++ bs, s')
        | .error c => .error c

/-- The failed line that a write of places would change in part (R22, R23). -/
def placesFault (s : State) (q : Req) (ps : List (Phys × Nat)) : Option Cause :=
  ps.findSome? fun (p, t) => if p.host || t = 64 then none else sideFault s q.tag p.addr (p.mtype ≠ 0)

/-- Write bytes to places in order. -/
def State.putPlaces (s : State) (q : Req) : List (Phys × Nat) → List Byte → State
  | [], _ => s
  | (p, t) :: rest, bs =>
    let s := if p.host then { s.meterHost q true t with hostMem := s.hostMem.writeBytes p.addr (bs.take t) }
      else ((s.applyLine p.addr).access q p.addr (p.mtype ≠ 0) (spanUse true t)).put q.tag p.addr (bs.take t) (p.mtype ≠ 0)
    s.putPlaces q rest (bs.drop t)

/-- Read the bytes of a function's range. -/
def State.reqGet (s : State) (q : Req) (fn : Fn) (a n : Nat) : XRes (List Byte × State) :=
  match fnPlaces s fn false (n + 1) a n with
  | .error c => .error c
  | .ok ps => s.getPlaces q ps

/-- Write bytes to a function's range, all of it or nothing. DESIGN CHOICE: log entry 45. -/
def State.reqPut (s : State) (q : Req) (fn : Fn) (a : Nat) (bs : List Byte) : XRes State :=
  match fnPlaces s fn true (bs.length + 1) a bs.length with
  | .error c => .error c
  | .ok ps => match placesFault s q ps with
    | some c => .error c
    | none => .ok (s.putPlaces q ps bs)

/-- The device reads a function's range for it: entries, images, arguments (R54, R64). -/
def hostGet (s : State) (fn : Fn) (a n : Nat) : XRes (List Byte × State) := s.reqGet (fnReq fn) fn a n

/-- The device writes a function's range for it: completions, slates, reports, summaries. -/
def hostPut (s : State) (fn : Fn) (a : Nat) (bs : List Byte) : XRes State := s.reqPut (fnReq fn) fn a bs

/-- A step waits at a channel, and is taken again in the next cycle (R91, R187). -/
def State.waitAtChan (s : State) (ch : Fin 256) (i : Instr) : State :=
  { s with arrivals := s.arrivals ++ [⟨s.cycle + 1, some ch, ⟨i, s.inp⟩⟩] }

/-! ### Statuses and the course of a command (R61, R62) -/

def csOk : Nat := 0x00
def csBadOpcode : Nat := 0x01
def csBadField : Nat := 0x02
def csNotPermitted : Nat := 0x03
def csXlate : Nat := 0x04
def csNoHandle : Nat := 0x05
def csNoResources : Nat := 0x06
def csRefused : Nat := 0x07
def csUncorrectable : Nat := 0x08
def csCheckFail : Nat := 0x09
def csAborted : Nat := 0x0A
def csTooSmall : Nat := 0x0B
def csBusy : Nat := 0x0C
def csKernelFault : Nat := 0x0D
def csNoSlate : Nat := 0x0E

/-- The status of an address that does not read or write. -/
def csOfCause : Cause → Nat
  | .uncorrectable => csUncorrectable
  | .checkFail => csCheckFail
  | _ => csXlate

/-- Flags of a fault that is no core's: a failed line is H's (R22, R23), the rest is S's. -/
def rasFlag (c : Cause) : BitVec 8 :=
  match c with
  | .uncorrectable => 2
  | .checkFail => 2
  | _ => 0

/-- A command has come to its result. -/
def State.cmdDone (s : State) (c : Cmd) (status r0 r1 : Nat) : State :=
  { s with cmdRuns := s.cmdRuns.map fun (r : CmdRun) => match r.state with
      | .done _ _ _ => r
      | _ => if r.cmd.same c then { r with state := .done status r0 r1 } else r }

/-- An address that the device uses for a function does not read or write: H receives a failed line (R22, R23). -/
def State.ringFault (s : State) (fn : Fn) (a : Nat) (e : Cause) : State :=
  if rasFlag e = 0 then s else s.logUnit e 2 fn.val 7 0 0 (BitVec.ofNat 64 a) 0

/-- A command's address does not read or write: its status says why. -/
def State.cmdFault (s : State) (c : Cmd) (a : Nat) (e : Cause) : State :=
  (s.ringFault c.fn a e).cmdDone c (csOfCause e) 0 0

/-- A command's step goes on once the channels of a range of its function are free, else waits (R91, R187). -/
def State.whenFree (s : State) (i : Instr) (c : Cmd) (wr : Bool) (a n : Nat) (k : State → State) : State :=
  match fnWaits s (fnReq c.fn) c.fn wr a n with
  | some ch => s.waitAtChan ch i
  | none => k s

/-- A command writes its answer to its address and is done. -/
def State.answerCmd (s : State) (i : Instr) (c : Cmd) (a : Nat) (bs : List Byte) (r0 : Nat) : State :=
  s.whenFree i c true a bs.length fun s => match hostPut s c.fn a bs with
    | .error e => s.cmdFault c a e
    | .ok s => s.cmdDone c csOk r0 0

/-- Who may use a command (R63). -/
inductive Who where
  | all | vf | pf
  deriving DecidableEq, Repr

def Who.allows (w : Who) (fn : Fn) : Bool :=
  match w with
  | .all => true
  | .vf => fn ≠ 0
  | .pf => fn = 0

/-- A command's checks up to its fields (R62), then its own course. -/
def State.command (s : State) (w : Who) (used : List (Nat × Nat)) (k : Cmd → State) : State :=
  let c := s.inp.cmd
  if !w.allows c.fn then s.cmdDone c csNotPermitted 0 0
  else if !c.zeroBut used then s.cmdDone c csBadField 0 0
  else k c

/-! ### Slates (R72, R73) -/

/-- The identity key's signature over a digest (R16, R17, R72). -/
def sigBytes (s : State) (digest : List Byte) : List Byte :=
  let d := BitVec.ofNat 256 (bytesToNat digest)
  (List.range 2420).map fun i => Config.signature s.boot.identity d i

/-- A slate. -/
def slateBytes (s : State) (part kind seq us : Nat) (meters : List Word) (prev : List Byte) : List Byte :=
  let head := natToBytes 4 0x534C5448 ++ natToBytes 2 1 ++ natToBytes 1 part ++ natToBytes 1 kind ++
    natToBytes 8 s.boot.count ++ natToBytes 8 seq ++ natToBytes 8 us ++
    meters.flatMap (fun (m : Word) => natToBytes 8 m.toNat) ++ prev ++ zeros 32
  head ++ sigBytes s (sha3_256 head)

/-- The genesis slate of this boot. -/
def State.emitGenesis (s : State) : State :=
  { s with genesis := slateBytes s 0 1 0 0 (List.replicate 16 0) (zeros 32) }

/-- Emit a partition's next slate: chained, kept, and written at SLATE_BASE. -/
def State.emitSlate (s : State) (part kind : Nat) : State :=
  if h : part < 17 then
    let s := s.chargeHold
    let sl := (s.partRt part).slates
    let seq := if kind = 2 then 0 else sl.next
    let prev := if kind = 2 then sha3_256 s.genesis else sl.digest
    let bs := slateBytes s part kind seq s.micros s.parts[part].meters.toList prev
    let sl' : Slates :=
      { next := seq + 1, digest := sha3_256 bs,
        kept := if kind = 2 then [(seq, bs)] else ((seq, bs) :: sl.kept).take 16,
        final := if kind = 3 then some (seq, bs) else none,
        created := if kind = 2 then s.cycle else sl.created, sampled := s.micros }
    let s := s.setRt part fun rt => { rt with slates := sl' }
    let base := s.slateBase[part]
    if base = 0 then s
    else match hostPut s 0 (base.toNat + 4096 * (seq % 256)) bs with
      | .ok s => s
      | .error e => (s.ringFault 0 base.toNat e).raiseErr 0 2
  else s

/-- SLATE (R63, R73): a VF names its own partition, or 0 for the genesis slate, which has SEQ 0 and is the latest; another
SEQ names none. DESIGN CHOICE: log entry 45. -/
def execSlate (s : State) : Host.Outcome State Fault Refusal :=
  .next (s.command .all [(8, 1), (16, 8), (24, 8)] fun c =>
    let part := c.field 8 1
    let seq := c.field 16 8
    if 16 < part then s.cmdDone c csBadField 0 0
    else if c.fn ≠ 0 && part ≠ 0 && part ≠ c.fn.val then s.cmdDone c csNotPermitted 0 0
    else
      let sl := (s.partRt part).slates
      let latest := seq = 2 ^ 64 - 1
      let found : Option (List Byte) :=
        if part = 0 then (if (latest || seq = 0) && !s.genesis.isEmpty then some s.genesis else none)
        else if latest then (sl.kept.head?).map (·.2)
        else match sl.kept.find? (·.1 = seq), sl.final with
          | some x, _ => some x.2
          | none, some f => if f.1 = seq then some f.2 else none
          | none, none => none
      match found with
      | none => s.cmdDone c csNoSlate 0 0
      | some bs => s.answerCmd .slate c (c.field 24 8) bs 0)

/-! ### Attestation (R17, R20) -/

/-- The degraded-unit map as R75 lays it out. -/
def degradedMap (s : State) : List Byte :=
  natToBytes 8 s.degQuads.toNat ++ natToBytes 16 s.degSlices.toNat ++ natToBytes 192 s.degWays.toNat ++
  natToBytes 32 s.degChans.toNat ++ natToBytes 3 s.degPorts.toNat ++ zeros 5

def someDegraded (s : State) : Bool :=
  s.degQuads ≠ 0 || s.degSlices ≠ 0 || s.degWays ≠ 0 || s.degChans ≠ 0 || s.degPorts ≠ 0

def attestReport (s : State) (nonce : List Byte) : List Byte :=
  let head := natToBytes 4 0x41544B48 ++ natToBytes 2 1 ++ natToBytes 2 (someDegraded s).toNat ++ nonce ++
    natToBytes 8 s.boot.count ++ s.boot.digests.flatMap (fun (d : BitVec 256) => natToBytes 32 d.toNat) ++
    s.boot.vers.flatMap (fun (v : BitVec 32) => natToBytes 4 v.toNat) ++ sha3_256 (degradedMap s) ++
    (List.range 1312).map (fun i => Config.publicKey s.boot.identity i)
  head ++ sigBytes s (sha3_256 head)

def execAttest (s : State) : Host.Outcome State Fault Refusal :=
  .next (s.command .all [(8, 32), (40, 8)] fun c =>
    s.answerCmd .attest c (c.field 40 8) (attestReport s ((c.data.drop 8).take 32)) 0)

/-! ### State summary (R74, R75) -/

/-- A fault log entry (R256). -/
def FaultEntry.bytes (e : FaultEntry) : List Byte :=
  natToBytes 1 e.cause.code ++ natToBytes 1 e.flags.toNat ++ natToBytes 1 e.part ++ natToBytes 1 e.unit ++
  natToBytes 2 e.index ++ natToBytes 2 e.detail ++ natToBytes 8 e.time ++ natToBytes 8 e.addr.toNat ++
  natToBytes 4 e.gang.toNat ++ natToBytes 4 e.pc.toNat

/-- Partitions that a function's summary covers. -/
def covered (s : State) (fn : Fn) : List (Fin 17) :=
  (List.finRange 17).filter fun p => p ≠ 0 && s.parts[p].exists_ && (fn = 0 || p = fn)

def sumPart (s : State) (p : Fin 17) : List Byte :=
  let d := s.parts[p]
  natToBytes 1 p.val ++ natToBytes 1 d.kind ++ zeros 6 ++ natToBytes 8 d.quads.toNat ++ natToBytes 16 d.slices.toNat ++
  natToBytes 32 d.chans.toNat ++ natToBytes 4 d.ports.toNat ++ natToBytes 4 d.seqs.toNat ++
  natToBytes 2 d.waymask.toNat ++ natToBytes 1 d.critical.toNat ++ zeros 53

/-- A call-sheet cell. A VF reads another partition's gang as all ones, and its partition as 0. DESIGN CHOICE for the latter:
log entry 45. -/
def sumCell (s : State) (fn : Fn) (i : Fin 16) : List Byte :=
  let c := s.sheet.slots[i]
  let own := fn = 0 || c.part = 0 || c.part = fn.val
  natToBytes 1 i.val ++ natToBytes 1 c.filled.toNat ++ zeros 2 ++ natToBytes 4 c.micros ++
  natToBytes 4 (if own then c.gang.toNat else 0xFFFFFFFF) ++ natToBytes 1 (if own then c.part else 0) ++ zeros 3

/-- Bytes that a gang's spillway holds (R113). -/
def spillHeld (s : State) (g : GangDef) : Nat :=
  match ipaToDpa s g.part g.spill with
  | .ok a => 320 * (s.peekLE g.part (a + 8) 8 - s.peekLE g.part a 8)
  | .error _ => 0

def sumGang (s : State) (g : GangDef) : List Byte :=
  let l := s.launches.find? fun l => l.part = g.part && l.gang = g.gang && l.state ≠ .done
  let inVote := s.votes.any fun v => v.state ≠ .done && (v.outgoing.any (fun o => o = (g.part, g.gang)) || (v.part = g.part && v.incoming = g.gang))
  let st := if inVote then 2
    else match l with
      | some l => if l.state = .running then 0 else 1
      | none => 1
  natToBytes 4 g.gang.toNat ++ natToBytes 2 ((l.map (·.rank)).getD 0) ++ natToBytes 2 ((l.map (·.gsize)).getD 0) ++
  natToBytes 1 st ++ natToBytes 1 g.part ++ zeros 6 ++ natToBytes 8 g.spill ++ natToBytes 8 (spillHeld s g)

def sumRing (r : Ring) : List Byte := (List.range 8).flatMap fun i => natToBytes 8 (ringReg r (8 * i)).toNat

/-- Rings a function has. -/
def ringCount (s : State) (fn : Fn) : Nat := if fn = 0 then 64 else s.parts[fn].rings

def sumCmd (r : CmdRun) : List Byte :=
  natToBytes 64 (bytesToNat r.cmd.data) ++ natToBytes 1 r.cmd.ring.val ++ natToBytes 2 r.cmd.idx ++
  natToBytes 1 (match r.state with | .fetched => 0 | _ => 1) ++ zeros 4

def sumHandle (s : State) (p : Nat) (k : Kernel) : List Byte :=
  natToBytes 2 k.handle ++ natToBytes 1 k.hdr.quads ++ natToBytes 1 k.hdr.tandem.toNat ++
  natToBytes 4 k.image.length ++ (k.image.drop 96).take 32 ++
  natToBytes 4 (s.launches.filter fun l => l.part = p && l.handle = k.handle && l.state = .running).length ++ zeros 4

def sumMeters (s : State) (p : Fin 17) : List Byte :=
  let sl := (s.partRt p.val).slates
  s.parts[p].meters.toList.flatMap (fun (m : Word) => natToBytes 8 m.toNat) ++ natToBytes 8 (sl.next - 1) ++
  natToBytes 8 sl.sampled ++ zeros 16

/-- Sections: type, entry size, entries. Of the outstanding commands, one whose result is ready and only its completion not
yet written is left out: none is given in state 2. DESIGN CHOICE: log entry 45. -/
def sumSections (s : State) (fn : Fn) : List (Nat × Nat × List (List Byte)) :=
  let ps := covered s fn
  let fns := if fn = 0 then (0 : Fn) :: ps else ps
  [(1, 128, ps.map (sumPart s)),
   (2, 16, (List.finRange 16).map (sumCell s fn)),
   (3, 32, (s.gangs.filter fun g => ps.any fun p => p.val = g.part).map (sumGang s)),
   (4, 64, fns.flatMap fun f => (s.fns[f].rings.toList.take (ringCount s f)).map sumRing),
   (5, 72, (s.cmdRuns.filter fun r => fns.contains r.cmd.fn && (match r.state with | .done _ _ _ => false | _ => true)).map sumCmd),
   (6, 48, ps.flatMap fun p => s.parts[p].kernels.map (sumHandle s p.val)),
   (7, 160, ps.map (sumMeters s)),
   (8, 32, s.flog[fn].map FaultEntry.bytes),
   (9, 256, [degradedMap s])]

def pad64 (n : Nat) : Nat := (64 - n % 64) % 64

/-- The directory and the sections behind it, from offset `at_`. -/
def layOut (at_ : Nat) : List (Nat × Nat × List (List Byte)) → List Byte × List Byte
  | [] => ([], [])
  | (t, size, es) :: rest =>
    let body := es.flatten ++ zeros (pad64 (size * es.length))
    let (d, b) := layOut (at_ + body.length) rest
    (natToBytes 2 t ++ natToBytes 2 es.length ++ natToBytes 4 size ++ natToBytes 8 at_ ++ d, body ++ b)

def summaryBytes (s : State) (fn : Fn) : List Byte :=
  let secs := sumSections s fn
  let dirLen := 16 * secs.length
  let first := 64 + dirLen + pad64 dirLen
  let (d, b) := layOut first secs
  let total := first + b.length
  natToBytes 4 0x53554D48 ++ natToBytes 2 1 ++ natToBytes 1 fn.val ++ natToBytes 1 secs.length ++
  natToBytes 8 s.boot.count ++ natToBytes 4 total ++ zeros 4 ++ natToBytes 8 s.cycle ++ zeros 32 ++
  d ++ zeros (pad64 dirLen) ++ b

def execSummary (s : State) : Host.Outcome State Fault Refusal :=
  .next (s.command .all [(8, 8), (16, 4)] fun c =>
    let s := s.chargeHold
    let bs := summaryBytes s c.fn
    if c.field 16 4 < bs.length then s.cmdDone c csTooSmall bs.length 0
    else s.answerCmd .summary c (c.field 8 8) bs bs.length)

def State.updFn (s : State) (fn : Fn) (f : FnRegs → FnRegs) : State :=
  { s with fns := s.fns.set fn (f s.fns[fn]) }

/-- SUMCTL_GO: the snapshot is written to SUMADDR, or SHORT is set (R74). A write that fails writes nothing
and ends DONE with length 0. -/
def State.sumGo (s : State) (fn : Fn) : State :=
  let s := s.chargeHold
  let f := s.fns[fn]
  let bs := summaryBytes s fn
  if f.sumLen.toNat < bs.length then
    s.updFn fn fun f => { f with sumDone := true, sumShort := true, sumLength := bs.length }
  else match hostPut s fn f.sumAddr.toNat bs with
    | .ok s => s.updFn fn fun f => { f with sumDone := true, sumShort := false, sumLength := bs.length }
    | .error e => (s.ringFault fn f.sumAddr.toNat e).updFn fn fun f =>
      { f with sumDone := true, sumShort := false, sumLength := 0 }

def execSumctlGo (fn : Fn) (s : State) : Host.Outcome State Fault Refusal := .next (s.booted fun s => s.sumGo fn)

/-! ### Rings (R53-R60) -/

def State.updRing (s : State) (fn : Fn) (q : Fin 64) (f : Ring → Ring) : State :=
  s.updFn fn fun r => { r with rings := r.rings.set q (f r.rings[q]) }

def ringAt (s : State) (fn : Fn) (q : Fin 64) : Ring := (s.fns[fn]).rings[q]

def Ring.n (r : Ring) : Nat := r.size.toNat / 64

/-- A ring lies in one device-memory range, one host window, or for PF 0 in one channel (R57). -/
def rangeOk (s : State) (fn : Fn) (a : Word) (len : Nat) : Bool :=
  let x := bitsOf a.toNat 0 63
  if fn = 0 then
    a.getLsbD 63 || (decide (x + len ≤ 2 ^ 39) && decide (bitsOf x 0 31 + len ≤ 0x48000000) &&
      !(s.degChans.getLsbD (chanOf x)))
  else
    let p := s.parts[fn]
    (if a.getLsbD 63 then p.iova else p.dranges).any fun r => decide (r.base ≤ x) && decide (x + len ≤ r.base + r.len)

/-- The checks of an enabled block, in the order of the halt reasons (R57, R58). -/
def ringCheck (s : State) (fn : Fn) (r : Ring) : Option Nat :=
  let size := r.size.toNat
  if !(12 ≤ Nat.log2 size && Nat.log2 size ≤ 20 && size = 2 ^ Nat.log2 size) then some 0x01
  else if bitsOf r.base.toNat 0 63 % size ≠ 0 || bitsOf r.cqbase.toNat 0 63 % (size / 2) ≠ 0 then some 0x02
  else if !rangeOk s fn r.base size then some 0x03
  else if !rangeOk s fn r.cqbase (size / 2) then some 0x04
  else if (if fn = 0 then 11 else 10) < bitsOf r.prio.toNat 0 4 then some 0x05
  else if 2 * r.n ≤ r.widx then some 0x06
  else if r.n < (r.widx + 2 * r.n - r.ridx) % (2 * r.n) then some 0x07
  else none

/-- A ring enters HALTED (R58). -/
def State.haltRing (s : State) (fn : Fn) (q : Fin 64) (reason : Nat) : State :=
  (s.updRing fn q fun r => { r with enable := true, state := 2, reason := reason }).raiseErr fn 0

/-- A write to a field of a block as it is stored. -/
def Ring.store (r : Ring) (off : Nat) (v : Word) : Ring :=
  match off with
  | 0x00 => { r with base := v }
  | 0x08 => { r with size := BitVec.ofNat 64 (bitsOf v.toNat 0 21) }
  | 0x10 => { r with widx := bitsOf v.toNat 0 16 }
  | 0x28 => { r with prio := v &&& 0x0FFF000F#64 }
  | 0x30 => { r with cqbase := v }
  | 0x38 => { r with cqridx := bitsOf v.toNat 0 16 }
  | _ => r

/-- A checked write: the block after it stands, ACTIVE or HALTED (R57). -/
def State.checkedWrite (s : State) (fn : Fn) (q : Fin 64) (r : Ring) (doorbell : Bool) : State :=
  match ringCheck s fn r with
  | none => s.updRing fn q fun _ =>
      { r with enable := true, state := 1, reason := 0, cqOk := r.cqbase, nOk := r.n }
  | some e =>
    let old := ringAt s fn q
    (s.updRing fn q fun _ => if doorbell then { r with widx := old.widx } else r).haltRing fn q e

/-- Setting ENABLE (R57, R58). -/
def State.enableRing (s : State) (fn : Fn) (q : Fin 64) : State :=
  let r := ringAt s fn q
  if !ringPresent s fn q.val || r.draining || r.state = 2 then s else s.checkedWrite fn q r false

/-- Clearing ENABLE: DRAINING; fetched commands that have not started are aborted (R58). -/
def State.disableRing (s : State) (fn : Fn) (q : Fin 64) : State :=
  let r := ringAt s fn q
  if !ringPresent s fn q.val || r.draining || r.state = 0 then s
  else
    let s := s.updRing fn q fun r => { r with enable := false, draining := true }
    { s with cmdRuns := s.cmdRuns.map fun (c : CmdRun) =>
        if c.cmd.fn = fn ∧ c.cmd.ring = q ∧ c.state = .fetched then { c with state := .done csAborted 0 0 } else c }

/-- A write to QBASE, QSIZE, QWIDX, QPRIO, CQBASE or CQRIDX. -/
def State.writeRing (s : State) (fn : Fn) (q : Fin 64) (off : Nat) (v : Word) : State :=
  let r := ringAt s fn q
  if !ringPresent s fn q.val || r.draining then s
  else if r.state = 1 then
    if off = 0x00 ∨ off = 0x08 ∨ off = 0x30 then s.haltRing fn q 0x08
    else s.checkedWrite fn q (r.store off v) (off = 0x10)
  else s.updRing fn q fun r => r.store off v

def execQwidxWrite (fn : Fn) (ring : Fin 64) (v : Word) (s : State) : Host.Outcome State Fault Refusal :=
  .next (s.booted fun s => s.writeRing fn ring 0x10 v)

def execRingEnable (fn : Fn) (ring : Fin 64) (s : State) : Host.Outcome State Fault Refusal :=
  .next (s.booted fun s => s.enableRing fn ring)

def execRingDisable (fn : Fn) (ring : Fin 64) (s : State) : Host.Outcome State Fault Refusal :=
  .next (s.booted fun s => s.disableRing fn ring)

def execRingBlockWrite (fn : Fn) (ring : Fin 64) (off : Nat) (v : Word) (s : State) : Host.Outcome State Fault Refusal :=
  .next (s.booted fun s => s.writeRing fn ring off v)

/-- A draining ring whose completions are all written. -/
def ringDrained (s : State) (fn : Fn) (q : Fin 64) : Bool :=
  (ringAt s fn q).draining && !(s.cmdRuns.any fun c => c.cmd.fn = fn && c.cmd.ring = q)

def execRingDrained (fn : Fn) (ring : Fin 64) (s : State) : Host.Outcome State Fault Refusal :=
  if ringDrained s fn ring then
    .next (s.updRing fn ring fun r =>
      { r with state := 0, draining := false, widx := 0, ridx := 0, cqridx := 0, written := 0 })
  else .next s

/-- Address of the entry that a ring fetches next. -/
def Ring.entryAt (r : Ring) : Nat := r.base.toNat + 64 * (r.ridx % r.n)

/-- The next entry can be fetched: it exists, its completion slot is free (R58, R59), and no channel keeps it waiting. -/
def fetchable (s : State) (fn : Fn) (q : Fin 64) : Bool :=
  let r := ringAt s fn q
  r.state = 1 && !r.draining && r.ridx ≠ r.widx && (r.written + 2 * r.n - r.cqridx % (2 * r.n)) % (2 * r.n) ≠ r.n &&
    (fnWaits s (fnReq fn) fn false r.entryAt 64).isNone

def execCommandFetch (fn : Fn) (ring : Fin 64) (s : State) : Host.Outcome State Fault Refusal :=
  if !fetchable s fn ring then .next s
  else
    let r := ringAt s fn ring
    match hostGet s fn r.entryAt 64 with
    | .error e => .next ((s.ringFault fn r.entryAt e).haltRing fn ring (if rasFlag e = 0 then 0x09 else 0x0A))
    | .ok (bs, s) =>
      let s := s.updRing fn ring fun r => { r with ridx := (r.ridx + 1) % (2 * r.n) }
      .next { s with cmdRuns := s.cmdRuns ++ [⟨⟨fn, ring, r.ridx, bs, s.nextId⟩, .fetched⟩], nextId := s.nextId + 1 }

/-- The step of a command, by its opcode and SUB; none where the opcode is unknown (R63, R82, R107). -/
def commandStep (fn : Fn) (opc sub : Nat) : Option (Who × Option Instr) :=
  match opc with
  | 0x00 => some (.all, some .commandNop)
  | 0x01 => some (.vf, some .register)
  | 0x02 => some (.vf, some .unregister)
  | 0x03 => some (.all, some (if fn = 0 then .hKernelLaunch else .launch))
  | 0x04 => some (.vf, some .lperm)
  | 0x05 => some (.all, some .attest)
  | 0x06 => some (.all, some .summary)
  | 0x07 => some (.all, some .slate)
  | 0x20 => some (.pf, some .pcreate)
  | 0x21 => some (.pf, some .pdestroy)
  | 0x22 => some (.pf, some .hdmmap)
  | 0x23 => some (.pf, match sub with
    | 0x01 => some .psetS2inv | 0x02 => some .psetS2root | 0x03 => some .psetQos | 0x04 => some .psetWaymask
    | 0x05 => some .psetWindow | 0x06 => some .psetDrange | 0x07 => some .psetPmbase | _ => none)
  | 0x24 => some (.pf, match sub with
    | 0x01 => some .sheetGangdef | 0x02 => some .sheetCell | 0x03 => some .sheetLength | 0x04 => some .sheetAgeq
    | 0x05 => some .sheetStart | 0x06 => some .sheetStop | 0x07 => some .sheetResolve | 0x08 => some .sheetGangdel
    | _ => none)
  | _ => none

/-- Commands of a ring, oldest first. -/
def ringCmds (s : State) (fn : Fn) (q : Fin 64) : List CmdRun := s.cmdRuns.filter fun c => c.cmd.fn = fn && c.cmd.ring = q

def CmdRun.ended (c : CmdRun) : Bool :=
  match c.state with
  | .done _ _ _ => true
  | _ => false

/-- The first fetched command of a ring, where it may start (R59). -/
def startable (s : State) (fn : Fn) (q : Fin 64) : Option Cmd :=
  let cs := ringCmds s fn q
  match cs.find? (·.state = .fetched) with
  | none => none
  | some c =>
    let before := cs.takeWhile fun d => !(d.cmd.same c.cmd)
    if (c.cmd.field 1 1).testBit 1 && !(before.all CmdRun.ended) then none else some c.cmd

/-- COMMAND_START: the checks of the opcode and of the function; the command's own step follows (R59, R62). -/
def execCommandStart (fn : Fn) (ring : Fin 64) (s : State) : Host.Outcome State Fault Refusal :=
  match startable s fn ring with
  | none => .next s
  | some c =>
    match commandStep fn c.opc (c.field 8 1) with
    | none => .next (s.cmdDone c csBadOpcode 0 0)
    | some (w, step) =>
      if !w.allows fn then .next (s.cmdDone c csNotPermitted 0 0)
      else match step with
        | none => .next (s.cmdDone c csBadField 0 0)
        | some i =>
          let start (d : CmdRun) : CmdRun := if d.cmd.same c then { d with state := .running } else d
          let s : State := { s with cmdRuns := s.cmdRuns.map start }
          .next (s.post i { Input.reset with cmd := c })

/-- There is room for a completion of a ring (R59). -/
def completionRoom (r : Ring) : Bool := (r.written + 2 * r.nOk - r.cqridx % (2 * r.nOk)) % (2 * r.nOk) ≠ r.nOk

/-- Address of a ring's next completion. -/
def Ring.completionAt (r : Ring) : Nat := r.cqOk.toNat + 32 * (r.written % r.nOk)

/-- A ring's next completion can be written: there is room, and no channel keeps it waiting (R91, R187). -/
def completable (s : State) (fn : Fn) (q : Fin 64) : Bool :=
  completionRoom (ringAt s fn q) && (fnWaits s (fnReq fn) fn true (ringAt s fn q).completionAt 32).isNone

/-- A completion record (R61). -/
def completionBytes (c : Cmd) (status r0 r1 phase : Nat) : List Byte :=
  natToBytes 2 (c.field 2 2) ++ natToBytes 1 c.ring.val ++ natToBytes 1 status ++ natToBytes 1 phase ++ zeros 3 ++
  natToBytes 8 r0 ++ natToBytes 8 r1 ++ natToBytes 2 c.idx ++ zeros 6

/-- COMMAND_COMPLETE: the completion record, then the vector if it is asked for (R60); a completion with IRQ on a
PF 0 ring ends a WFI (R312). -/
def execCommandComplete (fn : Fn) (ring : Fin 64) (idx : Nat) (s : State) : Host.Outcome State Fault Refusal :=
  match s.cmdRuns.find? fun c => c.cmd.fn = fn && c.cmd.ring = ring && c.cmd.idx = idx && c.ended with
  | none => .next s
  | some run =>
    let r := ringAt s fn ring
    match run.state with
    | .done status r0 r1 =>
      if !completable s fn ring then .next s
      else
        let c := run.cmd
        let phase := if r.written < r.nOk then 1 else 0
        let s := match hostPut s fn r.completionAt (completionBytes c status r0 r1 phase) with
          | .ok s => s
          | .error e => s.ringFault fn r.completionAt e
        let s := { s with cmdRuns := s.cmdRuns.filter fun d => !(d.cmd.same c && d.ended) }
        let s := s.updRing fn ring fun r => { r with written := (r.written + 1) % (2 * r.nOk) }
        let s := s.meter fn.val 14 1
        let irq : Bool := (c.field 1 1).testBit 0
        let s := if irq && r.prio.getLsbD 27 then s.signal fn (bitsOf r.prio.toNat 16 11) else s
        .next (if irq && fn = 0 then s.wakeWfi 4 else s)
    | _ => .next s

/-! ### Register writes (R4, R50) -/

/-- A write to an MSI-X table word: an unmasked vector that is pending is signalled (R46). -/
def State.writeMsix (s : State) (fn : Fn) (word : Nat) (v : Word) : State :=
  let keep : Word := if word % 2 = 1 then v &&& 0xFFFFFFFF#64 else v
  let s := s.updFn fn fun f => { f with msix := SMap.set 0 f.msix word keep }
  if word % 2 = 0 then s
  else
    let n := word / 2
    let one := BitVec.ofNat 2048 (2 ^ (n % 2048))
    if v.getLsbD 32 then { s with msixMask := s.msixMask.set fn (s.msixMask[fn] ||| one) }
    else
      let s := { s with msixMask := s.msixMask.set fn (s.msixMask[fn] &&& ~~~one) }
      if s.msixPend[fn].getLsbD n then
        ({ s with msixPend := s.msixPend.set fn (s.msixPend[fn] &&& ~~~one) }).signal fn n
      else s

/-- A new power cap (R11): one outside 1,200 to 2,400 W is ignored. -/
def State.writeCap (s : State) (v : Word) : State :=
  let cap := bitsOf v.toNat 0 12
  if 1200 ≤ cap ∧ cap ≤ 2400 then { s with power := { s.power with cap := cap } } else s

/-- A write to a register of a function's window: each goes to its register's behaviour; a range marked PF 0
ignores a VF (R50), and after a refused boot every write is dropped (R14). -/
def State.regWrite (s : State) (fn : Fn) (off : Nat) (v : Word) : State :=
  let entry := (off - 0x4000) / 4
  let off := off / 8 * 8
  let pf : Bool := fn = 0
  if s.boot.failed then s
  else if off = 0x0008 then { s with fnErr := s.fnErr.set fn (s.fnErr[fn] &&& ~~~v) }
  else if off = 0x0010 then { s with fnErrVec := s.fnErrVec.set fn (v &&& 0xFFF#64) }
  else if off = 0x0040 then s.updFn fn fun f => { f with sumAddr := v }
  else if off = 0x0048 then s.updFn fn fun f => { f with sumLen := v &&& 0xFFFFFFFF#64 }
  else if off = 0x0050 then
    let s := if v.getLsbD 2 then s.updFn fn fun f => { f with sumDone := false } else s
    if v.getLsbD 0 then s.sumGo fn else s
  else if off = 0x0F10 then (if pf then s.writeCap v else s)
  else if 0x1000 ≤ off ∧ off < 0x2000 then
    let q : Fin 64 := Fin.ofNat 64 ((off - 0x1000) / 64)
    if off % 64 = 0x20 then (if v.getLsbD 0 then s.enableRing fn q else s.disableRing fn q)
    else s.writeRing fn q (off % 64) v
  else if 0x4000 ≤ off ∧ off < 0x6000 then
    if pf then s.writeRoute entry (v.setWidth 32) else s
  else if 0x6000 ≤ off ∧ off < 0x6140 then
    if pf && off % 16 = 8 then s.writePortCtl (Fin.ofNat 20 ((off - 0x6000) / 16)) v else s
  else if off = 0x6200 then (if pf then s.writeFabId v else s)
  else if 0x6800 ≤ off ∧ off < 0x6880 then
    if pf then s else s.updFn fn fun f => { f with rqbase := f.rqbase.set (Fin.ofNat 16 ((off - 0x6800) / 8)) v }
  else if 0x7800 ≤ off ∧ off < 0x7880 then
    if pf then { s with slateBase := s.slateBase.set (Fin.ofNat 17 ((off - 0x7800) / 8 + 1)) v } else s
  else if 0x8000 ≤ off ∧ off < 0x10000 then s.writeMsix fn ((off - 0x8000) / 8) v
  else s

def execRegisterWrite (fn : Fn) (off : Nat) (v : Word) (s : State) : Host.Outcome State Fault Refusal :=
  .next (s.regWrite fn off v)

def execPwrCapWrite (fn : Fn) (v : Word) (s : State) : Host.Outcome State Fault Refusal := .next (s.regWrite fn 0x0F10 v)

/-! ### Plain commands -/

def execCommandNop (s : State) : Host.Outcome State Fault Refusal :=
  .next (s.command .all [] fun c => s.cmdDone c csOk 0 0)

/-- LPERM (R67): an entry of the launch permission table; VALID 0 removes it. -/
def execLperm (s : State) : Host.Outcome State Fault Refusal :=
  .next (s.command .vf [(8, 4), (12, 4)] fun c =>
    let e : Lperm := ⟨c.field 8 1, c.field 10 2, c.field 12 2, c.field 14 1, c.field 15 1⟩
    if 63 < e.index || 1 < c.field 9 1 || 10 < e.maxPrio || 0x7FF < e.srcMod || 16 < e.srcFn then s.cmdDone c csBadField 0 0
    else
      let s := s.setRt c.fn.val fun rt =>
        let rest := rt.lperm.filter (·.index ≠ e.index)
        { rt with lperm := if c.field 9 1 = 1 then
            (rest.filter (·.index < e.index)) ++ [e] ++ rest.filter (e.index < ·.index) else rest }
      s.cmdDone c csOk 0 0)

/-! ### HDM (R49) -/

/-- The leaves of a partition's stage-1 tables with DIFF set, as IPA ranges. -/
def diffLeaves (s : State) (part : Nat) : Nat → Nat → Nat → List (Nat × Nat)
  | 0, _, _ => []
  | fuel + 1, level, table =>
    (List.range (if level = 3 then 32 else 512)).flatMap fun i =>
      match ipaToDpa s part (table + 8 * i) with
      | .error _ => []
      | .ok d => match parsePte false level (s.peekLE part d 8) with
        | .bad => []
        | .leaf l => if l.diff then [(l.base, l.size)] else []
        | .table t => if t < 2 ^ 39 then diffLeaves s part fuel (level + 1) t else []

/-- A range of IPA holds a compute-capable or a differentiable page. -/
def exposesSpecial (s : State) (part base len : Nat) : Bool :=
  ((List.range (len / 2 ^ 21)).any fun i => match stage2 s part (base + 2 ^ 21 * i) with
    | .ok l => l.mtype = 2
    | .error _ => false) ||
  (diffLeaves s part 4 0 0).any fun (a, n) => decide (a < base + len) && decide (base < a + n)

def overlaps (a n b m : Nat) : Bool := decide (a < b + m) && decide (b < a + n)

/-- HDMMAP (R49). Its BASE is a guest physical address of the partition, as R49 says, although R54 lists its operands among
PF 0's. DESIGN CHOICE: log entry 45. -/
def execHdmmap (s : State) : Host.Outcome State Fault Refusal :=
  .next (s.command .pf [(8, 2), (16, 24)] fun c =>
    let dec := c.field 8 1
    let vf := c.field 9 1
    let e : Hdm := ⟨dec, vf, c.field 16 8, c.field 24 8, c.field 32 8⟩
    if h : vf < 17 then
      let p := s.parts[vf]
      let others := s.hdm.filter (·.decoder ≠ dec)
      if 15 < dec || vf = 0 || !p.exists_ || e.base % 2 ^ 28 ≠ 0 || e.len % 2 ^ 28 ≠ 0 ||
          !(p.dranges.any fun r => decide (r.base ≤ e.base) && decide (e.base + e.len ≤ r.base + r.len)) ||
          (others.any fun d => (d.part = vf && overlaps d.base d.len e.base e.len) || overlaps d.hpa d.len e.hpa e.len) ||
          exposesSpecial s vf e.base e.len then s.cmdDone c csBadField 0 0
      else ({ s with hdm := others ++ [e] }).cmdDone c csOk 0 0
    else s.cmdDone c csBadField 0 0)

/-! ### The host's own accesses (R47, R49) -/

/-- Answer a host access: data or Unsupported Request for a read; a write is dropped. -/
def State.hostRefuse (s : State) (x : HostAccess) : State :=
  match x with
  | .read _ => { s with out := s.out ++ [.unsupported] }
  | .write _ => s

/-- The host's accesses stay in order: the channel at which an earlier one waits. -/
def hostWait (s : State) : Option (Fin 256) :=
  (s.arrivals.find? fun a => a.chan.isSome && match a.ev.instr with
    | .hostBar2Access _ _ _ => true
    | .hostCxlMemAccess _ _ => true
    | _ => false).bind (·.chan)

/-- A host access faults: an entry for S of the partition, or for H where a line has failed (R23, R47). -/
def State.hostFault (s : State) (part a : Nat) (x : HostAccess) (c : Cause) : State :=
  (s.logUnit c (rasFlag c) part 7 0 0 (BitVec.ofNat 64 a) 0).hostRefuse x

/-- A host access at an address of a function (R47, R90); `i` is its step, should it wait (R91, R187). -/
def State.hostAccess (s : State) (i : Instr) (fn : Fn) (a : Nat) (x : HostAccess) : State :=
  let q := hostReq fn
  match x with
  | .read n => match hostWait s <|> fnWaits s q fn false a n with
    | some ch => s.waitAtChan ch i
    | none => match s.reqGet q fn a n with
      | .ok (bs, s) => { s with out := s.out ++ [.hostData bs] }
      | .error c => s.hostFault fn.val a x c
  | .write bs => match hostWait s <|> fnWaits s q fn true a bs.length with
    | some ch => s.waitAtChan ch i
    | none => match s.reqPut q fn a bs with
      | .ok s => s
      | .error c => s.hostFault fn.val a x c

/-- After a refused boot a BAR read returns all ones and a write is dropped (R14). An offset beyond BAR 2's size is no
address of the function (R46). -/
def execHostBar2Access (fn : Fn) (off : Nat) (a : HostAccess) (s : State) : Host.Outcome State Fault Refusal :=
  if s.boot.failed then
    match a with
    | .read n => .next { s with out := s.out ++ [.hostData (List.replicate n 0xFF)] }
    | .write _ => .next s
  else if 2 ^ (s.fns[fn]).bar2 ≤ off then .next (s.hostRefuse a)
  else .next (s.hostAccess (.hostBar2Access fn off a) fn off a)

/-- The host may have cached the exposed lines of a range from here on (R49). -/
def State.hostCaches (s : State) (fn : Fn) (a n : Nat) : State :=
  match fnPlaces s fn false (n + 1) a n with
  | .error _ => s
  | .ok ps => { s with hostLines := ps.foldl (fun m (e : Phys × Nat) =>
      if e.1.host then m else SMap.set 0 m (e.1.addr / 64) 1) s.hostLines }

/-- A range of a partition holds what is never exposed over CXL.mem (R49, R175). -/
def hidden (s : State) (part a n : Nat) : Bool :=
  [a, a + (n - 1)].any fun x => (match stage2 s part x with
    | .ok l => decide (l.mtype = 2)
    | .error _ => false) || (diffLeaves s part 4 0 0).any fun (b, m) => decide (b ≤ x) && decide (x < b + m)

/-- A host access through the decoder of its host physical address (R49); a page that is never exposed, and made so after
HDMMAP, is refused with ACCESS_KIND (DESIGN CHOICE, log entry 45). -/
def execHostCxlMemAccess (hpa : Nat) (a : HostAccess) (s : State) : Host.Outcome State Fault Refusal :=
  match s.hdm.find? fun d => decide (d.hpa ≤ hpa) && decide (hpa + a.len ≤ d.hpa + d.len) with
  | some d =>
    let fn : Fn := Fin.ofNat 17 d.part
    let x := d.base + (hpa - d.hpa)
    .next (if hidden s d.part x a.len then s.hostFault d.part x a .accessKind
      else (s.hostCaches fn x a.len).hostAccess (.hostCxlMemAccess hpa a) fn x a)
  | none => .next (s.hostRefuse a)

end Machine

end Sys2Proof
end

