-- ==== Sys2Proof/Machine/Sched.lean ====
section
/-! DEFINITION. The scheduler: launch queues, placement, pre-emption, halts and resumes, the ends of
launches, and the commands that register and launch kernels (R64-R66, R95-R104, R257-R260, R297, R397). -/

namespace Sys2Proof.Machine

/-- A partition by the argument of its steps. -/
def partNo (p : Fin 16) : Nat := p.val + 1

def partAt (s : State) (part : Nat) : Partition := if h : part < 17 then s.parts[part] else Partition.absent

def State.updPart (s : State) (part : Nat) (f : Partition → Partition) : State :=
  if h : part < 17 then { s with parts := s.parts.set part (f s.parts[part]) } else s

def sliced (s : State) (part : Nat) : Bool := (partAt s part).kind = 1

def State.mapLaunch (s : State) (id : Nat) (f : Launch → Launch) : State :=
  { s with launches := s.launches.map fun l => if l.id = id then f l else l }

/-! ### Waiting, levels and the choice (R97) -/

/-- A launch waits on its quads. -/
def Launch.waits (l : Launch) : Bool := l.state = .queued || l.state = .out

/-- Waiting time counts while the partition holds cells or is fixed (R97). -/
def waitCounts (s : State) (part : Nat) : Bool := !sliced s part || s.sheet.tenant = part

def waitedCycles (s : State) (l : Launch) : Nat :=
  l.waited + if waitCounts s l.part then s.cycle - l.since else 0

/-- The effective level: the base level plus the age in quanta, up to 10 (R97). -/
def effLevel (s : State) (l : Launch) : Nat :=
  if 10 ≤ l.base then l.base else min 10 (l.base + waitedCycles s l / 1600 / s.sheet.ageq)

/-- The three sources of a partition (R97). -/
def sourceKind : LaunchSource → Nat
  | .ring _ => 0 | .inbox => 1 | .lnch => 2

/-- The dispatcher may take the launch; a gang's launch starts by a vote (R108). A LNCH launch must have
entered (R306). -/
def Launch.canStart (l : Launch) (part : Nat) : Bool :=
  l.part = part && !l.hker && l.gang = 0 && l.waits && (l.state = .out || l.source ≠ .lnch || l.entered)

/-- The launch that the dispatcher chooses (R97): at the highest effective level, from the first source after the
one served last, the oldest. -/
def pickLaunch (s : State) (part : Nat) : Option Launch :=
  let cs := s.launches.filter fun l => l.canStart part
  let top := cs.foldl (fun m l => max m (effLevel s l)) 0
  let cs := cs.filter fun l => effLevel s l = top
  let last := (s.partRt part).served
  [1, 2, 3].findSome? fun k => cs.find? fun l => sourceKind l.source = (last + k) % 3

/-- The launch chosen and not yet started. -/
def chosenLaunch (s : State) (part : Nat) : Option Launch :=
  match (s.partRt part).chosen.bind s.launchById with
  | some l => if l.canStart part then some l else none
  | none => none

/-- The partition's launches may be placed now: it is fixed, or its single-module cell is current (R107). -/
def dispatches (s : State) (part : Nat) : Bool :=
  (partAt s part).exists_ &&
    (!sliced s part || (s.sheet.tenant = part && (s.partRt part).resident = some 0))

/-! ### Quads (R98, R99) -/

def busyQuad (s : State) (q : Nat) : Bool := s.launches.any fun l => l.state = .running && l.quads.contains q

/-- A context lies in the shadow storage of a quad (R99, R106). -/
def inShadow (s : State) (q : Nat) : Bool := s.saved.any fun x => x.core.val / 4 = q && x.at_ ≠ .memory

def freeQuads (s : State) (part : Nat) : List Nat :=
  (ownedQuads (partAt s part).quads).filter fun q => !busyQuad s q

/-- Placement: the first die with enough free quads, its lowest; else the lowest across dies (R98). -/
def placeQuads (free : List Nat) (n : Nat) : Option (List Nat) :=
  match [0, 1, 2, 3].find? fun d => decide (n ≤ (free.filter fun q => q / 16 = d).length) with
  | some d => some ((free.filter fun q => q / 16 = d).take n)
  | none => if n ≤ free.length then some (free.take n) else none

/-- The cores of a list of quads, in launch order. -/
def coresOf (quads : List Nat) : List (Fin 256) :=
  quads.flatMap fun q => if h : q < 64 then coresOfQuad ⟨q, h⟩ else []

/-- Its cores have been asked to stop and be saved. -/
def stopping (s : State) (l : Launch) : Bool :=
  (coresOf l.quads).any fun c => (s.coreAt c).stop = some .save || (s.coreAt c).run = .stopped

/-- A running launch that a higher one may pre-empt (R99). -/
def preemptable (s : State) (part level : Nat) (l : Launch) : Bool :=
  l.part = part && l.state = .running && !l.hker && l.gang = 0 && decide (l.eff < level) && !stopping s l &&
    !(l.quads.any fun q => inShadow s q) && l.quads.all fun q => (saveAreaOf s l q).isSome

/-- Victims in order, lowest level first and youngest first within it, until `need` quads would be free. -/
def victims (l : List Launch) (need : Nat) : List Nat :=
  let rec go : Nat → List Launch → Nat → List Nat
    | 0, _, _ => []
    | fuel + 1, l, need =>
      if need = 0 then [] else
      let low := l.foldl (fun m x => min m x.eff) 12
      match (l.filter fun x => x.eff = low).getLast? with
      | none => []
      | some v => v.id :: go fuel (l.filter fun x => x.id ≠ v.id) (need - v.quads.length)
  let vs := go l.length l need
  if need ≤ (l.filter fun x => vs.contains x.id).foldl (fun n x => n + x.quads.length) 0 then vs else []

/-! ### Starting (R87, R100, R101) -/

/-- The memory windows of a partition, as read at a launch start or a gang commit (R172). -/
def windowOf (b : List Byte) : Option (Option Window) :=
  let f := fieldLE b 0 1
  let sf := fieldLE b 1 1
  let ef := fieldLE b 2 1
  if !f.testBit 0 then some none
  else if 8 ≤ f || fieldLE b 3 5 ≠ 0 || fieldLE b 48 16 ≠ 0 || fieldLE b 8 8 % 0x200000 ≠ 0 ||
      fieldLE b 16 8 % 0x200000 ≠ 0 || fieldLE b 24 8 % 64 ≠ 0 || (sf ≠ 1 && fieldLE b 40 8 ≠ 0) ||
      !([(1, 1), (1, 2), (2, 1), (3, 1)].contains (sf, ef)) then none
  else some (some { trapcode := f.testBit 1, wr := f.testBit 2, sfmt := sf, efmt := ef, wbase := fieldLE b 8 8,
                    wlen := fieldLE b 16 8, sbase := fieldLE b 24 8, scale := fieldLE b 32 8, gscale := fieldLE b 40 8 })

/-- The device reads the table at IPA 0x1000, by stage 2 alone. A malformed entry is disabled and logged to S; a
table that does not translate has no window. -/
def State.readWindows (s : State) (part : Nat) : State :=
  match saveDpa s part 0x1000 false with
  | .error _ => s.updPart part fun p => { p with windows := [] }
  | .ok a =>
    let ws := (List.range 16).map fun i => windowOf (s.peek part (a + 64 * i) 64)
    let s := s.updPart part fun p => { p with windows := ws.map fun w => w.getD none }
    (List.range 16).foldl (fun s i => if ws.getD i (some none) = none then
        s.logUnit .xlateS1 0 part 6 i 0 (BitVec.ofNat 64 (0x1000 + 64 * i)) 0 else s) s

/-- What a core keeps when a context leaves it: its scratchpad and last writers, its translations, and the H
handler's address. -/
def Core.bare (k : Core) : Core :=
  { Core.reset with spad := k.spad, writers := k.writers, badSpad := k.badSpad, l1tlb := k.l1tlb, walks := k.walks,
                    trapVec := masked k.trapVec 24 38 }

/-- Code lines of the entry store: 256 bytes from ENTRY (R100). -/
def entryLines (h : Bool) (entry : Nat) : List (Bool × Nat) :=
  ((List.range 5).map fun i => (h, entry / 64 + i)).filter fun e => decide (64 * e.2 < entry + 256)

/-- A core at the start of a launch (R101, R301): everything cleared, the argument block in spill memory. -/
def startCore (s : State) (l : Launch) (lidx : Nat) (k : Core) : Core :=
  let h := l.hdr
  let pc := (if l.hker then l.code else 0) + h.entry
  { k.bare with
    run := .running, launch := some l.id, lidx := lidx, part := l.part, handle := l.handle, hdr := h,
    level := if l.hker then .h else .u, base := if l.hker then .h else .u, pc := BitVec.ofNat 64 pc,
    credits := List.replicate (4 * l.quads.length) (h.mqMax / (4 * l.quads.length)),
    spill := Mem.writeBytes [] 0 l.args, liveBase := BitVec.ofNat 64 h.lmOff,
    gang := l.gang, rank := BitVec.ofNat 11 l.rank, gsize := BitVec.ofNat 12 l.gsize,
    pkgId := BitVec.ofNat 11 (selfMod s), joined := h.tandem, fbuf := entryLines l.hker pc }

/-- TLB entries of a partition leave the sequencers' TLBs (R87). -/
def State.dropSeqTlb (s : State) (part : Nat) : State :=
  { s with seqTlb := s.seqTlb.map fun (l : List TlbEntry) => l.filter fun t => t.part ≠ part }

/-- TLB entries of a partition leave the L1 and L2 TLBs of some quads (R87, R93). -/
def State.dropQuadTlb (s : State) (part : Nat) (quads : List Nat) : State :=
  let keep (l : List TlbEntry) : List TlbEntry := l.filter fun t => t.part ≠ part
  let s := (coresOf quads).foldl (fun s c => s.mapCore c fun k =>
    { k with l1tlb := keep k.l1tlb, walks := k.walks.filter fun w => w.entry.part ≠ part }) s
  quads.foldl (fun s q => if h : q < 64 then { s with l2tlb := s.l2tlb.set q (keep s.l2tlb[q]) } else s) s

/-- Place a launch on quads (R98, R100, R101). -/
def State.placeLaunch (s : State) (l : Launch) (quads : List Nat) : State :=
  let l' := { l with state := .running, quads := quads, eff := effLevel s l, waited := waitedCycles s l,
                     since := s.cycle, entered := true, swapped := false, haltAt := none }
  let s := if l.hker then s else ((s.dropQuadTlb l.part quads).dropSeqTlb l.part).readWindows l.part
  let s := s.mapLaunch l.id fun _ => l'
  ((coresOf quads).zipIdx).foldl (fun s (e : Fin 256 × Nat) => s.mapCore e.1 (startCore s l' e.2)) s

/-! ### Per-tenant counters (R95, R96) -/

/-- Counts of a context since the last update go into its partition's totals. -/
def Core.takePerf (k : Core) (t : Vector (BitVec 64) 16) : Vector (BitVec 64) 16 :=
  Vector.zipWith (fun t (d : BitVec 64 × BitVec 64) => t + BitVec.ofNat 64 (d.1.toNat - d.2.toNat)) t
    (Vector.zipWith Prod.mk k.perf k.perfSeen)

/-- One update: every context's counts since the last one are added, and the sixteen totals go out, each as a store of its
own. -/
def State.perfUpdate (s : State) (part : Nat) : State :=
  let p := partAt s part
  if part = 0 || p.pmbase = 0 then s else
  let mine (k : Core) : Bool := k.part = part && k.launch.isSome
  let t := s.cores.toList.foldl (fun t k => if mine k then k.takePerf t else t) p.totals
  let t := s.saved.foldl (fun t x => if x.ctx.part = part then x.ctx.takePerf t else t) t
  let seen (k : Core) : Core := { k with perfSeen := k.perf }
  let saw (x : Saved) : Saved := if x.ctx.part = part then { x with ctx := seen x.ctx } else x
  let s := { s with cores := s.cores.map fun k => if mine k then seen k else k, saved := s.saved.map saw }
  let s := s.updPart part fun p => { p with totals := t }
  s.setRt part fun r => { r with pmQueue := (t.toList.zipIdx).map fun e => (e.2, e.1), pmAt := s.cycle }

/-- One store of an update, at PMBASE, an IPA. A page that does not translate is skipped and logged to S, a failed line to
H; a store waits for its channel as any write does (R91, R187). -/
def State.perfStore (s : State) (part : Nat) : State :=
  let keep (s : State) (q : List (Nat × Word)) : State := s.setRt part fun r => { r with pmQueue := q, pmAt := s.cycle + 1 }
  match (s.partRt part).pmQueue with
  | [] => s
  | (ev, v) :: rest =>
    let page := (partAt s part).pmbase
    match saveDpa s part page true with
    | .error c => (keep s []).logUnit c 0 part 6 0 0 (BitVec.ofNat 64 page) 0
    | .ok a =>
      let a := a + 8 * ev
      if reqWaits s (pktReq part) a false .part then keep s ((ev, v) :: rest)
      else match tagFault s part a with
        | some c =>
          (keep s (rest.filter fun e => e.1 / 8 ≠ ev / 8)).logUnit c 2 part 6 0 0 (BitVec.ofNat 64 a) 0
        | none => (keep s rest).writeOwn part a (natToBytes 8 v.toNat) .part

/-- Stores of an update are still to be made. -/
def storesLeft (s : State) (part : Nat) : Bool :=
  !(s.partRt part).pmQueue.isEmpty && decide ((s.partRt part).pmAt ≤ s.cycle)

/-- PERF_COUNTER_UPDATE: every 100 us, then a store in a cycle (R96). -/
def execPerfCounterUpdate (part : Fin 16) (s : State) : Host.Outcome State Fault Refusal :=
  let p := partNo part
  let s := if (s.partRt p).pmDue ≤ s.cycle then
      (s.perfUpdate p).setRt p fun r => { r with pmDue := s.cycle + 160000 }
    else s
  .next (if storesLeft s p then s.perfStore p else s)

/-- PERIODIC_SLATE: at each whole second since creation (R73). -/
def execPeriodicSlate (part : Fin 16) (s : State) : Host.Outcome State Fault Refusal :=
  .next (if (partAt s (partNo part)).exists_ then s.emitSlate (partNo part) 0 else s)

/-! ### Ends (R66, R250, R297) -/

/-- A launch ends: its quads are free, its parked commands complete, its command has its result. -/
def State.launchDone (s : State) (id : Nat) : State :=
  match s.launchById id with
  | none => s
  | some l =>
    if l.state = .done then s else
    let s := (s.perfUpdate l.part).dropParked id
    let s := if l.gang = 0 then s else s.chargeHold
    let act := s.activeOf (some id)
    let s := s.mapLaunch id fun l => { l with state := .done, ended := s.cycle, active := act }
    let s := { s with
      cores := s.cores.map fun k => if k.launch = some id then { k with run := .idle, launch := none } else k
      saved := s.saved.filter fun x => x.launch ≠ id }
    let s := if l.gang = 0 then s else s.mapGang l.part l.gang fun d =>
      { d with finished := true, withdrawn := d.withdrawn || l.fault.isSome }
    match l.cmd with
    | none => s
    | some c =>
      let first := l.first.getD 0
      match l.fault with
      | some e => s.cmdDone c csKernelFault first e.toNat
      | none => s.cmdDone c csOk first l.charged

/-- A core's part in its launch is over: stopped for good, or stopped to be saved in a launch that ends. -/
def coreOver (k : Core) (fault : Bool) : Bool :=
  match k.run with
  | .ended => true
  | .dead => true
  | .stopped => fault
  | _ => false

/-- Complete a launch whose cores have all ended. -/
def State.checkLaunch (s : State) (id : Nat) : State :=
  match s.launchById id with
  | none => s
  | some l =>
    let out := !l.fault.isSome && s.saved.any fun x => x.launch = id
    let all := (coresOf l.quads).all fun c =>
      let k := s.coreAt c
      k.launch ≠ some id || coreOver k l.fault.isSome
    if l.state = .running && all && !out then s.launchDone id else s

/-- Core-cycles of a core's launch up to now are charged to it (R63). -/
def State.chargeCore (s : State) (launch : Option Nat) : State :=
  match launch with
  | none => s
  | some id => s.mapLaunch id fun l => { l with charged := l.charged + (s.cycle - l.since) }

/-- After END: the write streams have drained, the core's writes, messages and barrier units are performed, and
its commands have completed (R297). -/
def endReady (s : State) (c : Fin 256) : Bool :=
  let k := s.coreAt c
  (k.streams.toList.all fun (st : Stream) => !(st.bound && st.wr) || st.buf.isEmpty) && writesDone s c &&
    !(s.cmds.any fun m => m.core = c && m.launch = k.launch)

/-- CORE_ENDED: a core after END, or stopped for good, counts as ended for its launch (R66, R297). -/
def execCoreEnded (s : State) : Host.Outcome State Fault Refusal :=
  let c := s.inp.core
  let k := s.coreAt c
  match k.run, k.launch with
  | .ending, some id =>
    if endReady s c then
      .next (((s.mapCore c fun k => { k with run := .ended }).chargeCore k.launch).checkLaunch id)
    else .next s
  | .dead, some id => .next ((s.chargeCore k.launch).checkLaunch id)
  | _, _ => .next s

/-! ### Halts (R103, R104, R213, R347) -/

/-- k indices of the operation in flight whose products are complete. -/
def kComplete (k : Core) (u : Outer) : Nat :=
  let w := Ty.width (k.tiles[u.a]).ty
  ((List.range (u.n + 1)).filter fun n =>
    decide (k.mprog.from_ ≤ n) && decide (12 + rateCycles w (n - k.mprog.from_) ≤ k.mprog.elapsed)).foldl max k.mprog.from_

/-- Where a MOP-family operation stops: at its K-step boundary, or before the k-group with a reserved code
(R347). -/
def stopK (k : Core) (u : Outer) (o : MatOp) : Nat :=
  let w := Ty.width (k.tiles[u.a]).ty
  let step := if w = 32 then 4 else 16
  let point := min u.n ((kComplete k u / step + 1) * step)
  let gl := groupLen w
  let hi := if point = u.n then u.n else point / gl * gl
  match reservedAt k.tiles[u.a] k.tiles[u.b] o.fmte k.mprog.kDone hi with
  | some kk => kk / gl * gl
  | none => hi

/-- The engine's last work before a halt (R347). -/
def Core.engineHalt (k : Core) : Core :=
  match k.mops with
  | [] => k
  | o :: rest =>
    if !k.mprog.started then k else
    let done (k : Core) : Core := { k with mops := rest, mprog := MatProg.reset }
    match outerOf o.op with
    | some u =>
      let hi := stopK k u o
      if hi = u.n then done (k.opEffect o)
      else
        let k := k.advanceOuter u o hi
        { k with mprog := { MatProg.reset with started := true, kDone := hi, from_ := hi } }
    | none =>
      match o.op with
      | .mdrain _ _ _ _ _ _ rows t =>
        let all := drainGroups (drainRows rows) t
        if all ≤ k.mprog.pushed then done k
        else
          let due := { k with mprog := { k.mprog with elapsed := 8 + k.mprog.pushed - k.mprog.from_ } }
          if (engineCause due fun _ => 0).isSome then
            { k with mprog := { k.mprog with elapsed := 0, from_ := k.mprog.pushed, pending := true } }
          else
            let k := due.enginePush
            if k.mprog.pushed = all then done k
            else { k with mprog := { k.mprog with elapsed := 0, from_ := k.mprog.pushed } }
      | _ => done (k.opEffect o)

/-- Halt a core at a stop point: to be saved, or for good (R103, R250). `off` is the stop bundle's offset. -/
def State.haltCore (s : State) (c : Fin 256) (off : Nat) : State :=
  let k := s.coreAt c
  let fault := match k.launch.bind s.launchById with
    | some l => l.fault.isSome
    | none => true
  match k.stop with
  | none => s
  | some why =>
    if why = .noSave || fault then
      ((s.leaveWait c).mapCore c fun k => { k with run := .dead, wait := none, stop := none }).postCore .coreEnded c
    else (s.leaveWait c).mapCore c fun k => { k.engineHalt with run := .stopped, stop := none, stopAt := off }

/-- Ask the running cores of a launch to stop (R103, R250). A YIELD ends (R297). -/
def State.requestStop (s : State) (id : Nat) (why : StopKind) : State :=
  allCores.foldl (fun s c =>
    let k := s.coreAt c
    if k.launch = some id && k.run = .running then
      (s.mapCore c fun k => { k with stop := some why }).wakeYield c .stop
    else s) s

/-- A stopped core has halted: its earlier accesses are performed, its loads have landed, its write streams have
drained, and no report of a failed access waits (R145, R213, R417). -/
def halted (s : State) (c : Fin 256) : Bool :=
  let k := s.coreAt c
  k.run = .stopped && !(s.memq.any fun o => o.core = c) && k.late.isEmpty &&
    (k.loads.all fun l => l.data.isSome && l.err.isNone) &&
    k.streams.toList.all fun (st : Stream) => !(st.bound && st.wr) || st.buf.isEmpty

/-- Every core of a launch has halted or ended, and at least one has halted. -/
def launchHalted (s : State) (l : Launch) : Bool :=
  let cs := (coresOf l.quads).filter fun c => (s.coreAt c).launch = some l.id
  (cs.any fun c => halted s c) &&
    cs.all fun c => halted s c || (s.coreAt c).run = .ended || (s.coreAt c).run = .dead

/-! ### What a save keeps (R103, R104) -/

/-- The live map entry of an offset (R103). -/
def liveEntryAt (im : List Byte) (base count off : Nat) : Option (List Byte) :=
  ((List.range count).map fun i => (im.drop (base + 16 * i)).take 16).find? fun e => e.length = 16 && fieldLE e 0 4 = off

/-- The items that go to the save polders, in order: accumulators, then configured tiles; true for an accumulator. -/
def polderItems (k : Core) (live : LiveMask) : List (Bool × Fin 8) :=
  ((List.finRange 8).filter fun i => live.accs.getLsbD i.val).map (fun i => (true, i)) ++
  ((List.finRange 8).filter fun i => live.tiles.getLsbD i.val && !(k.tiles[i]).released).map fun i => (false, i)

/-- Offset of item n: halves of the undeclared polders from 31 downwards (R104). -/
def polderOff (h : KHeader) (n : Nat) : Option Nat :=
  (((List.range 32).reverse.filter fun p => !h.polders.getLsbD p)[n / 2]?).map fun p => 65536 * p + 32768 * (n % 2)

/-- Write the live accumulators and tiles to the save polders, handing over polders of other contexts first
(R104, R115). -/
def State.saveMatrix (s : State) (c : Fin 256) (live : LiveMask) : Except (Cause × Nat) State :=
  (polderItems (s.coreAt c) live).zipIdx.foldl (fun (r : Except (Cause × Nat) State) (e : (Bool × Fin 8) × Nat) =>
    match r, polderOff (s.coreAt c).hdr e.2 with
    | .error x, _ => .error x
    | .ok s, none => .ok s
    | .ok s, some off =>
      let a : CoreArray := if e.1.1 then .acc e.1.2 else .tile e.1.2
      match (s.coreAt c).failedWord a 0 32768, s.pump c (Fin.ofNat 32 (off / 65536)) with
      | some x, _ => .error (.uncorrectable, x + 2 ^ 63)
      | none, .error x => .error x
      | none, .ok s => .ok (s.mapCore c fun k =>
          k.spadWrite off (if e.1.1 then accBytes k.acc[e.1.2]
            else Mem.readBytes (k.tiles[e.1.2]).bytes 0 16896))) (.ok s)

/-- Reload them. -/
def State.loadMatrix (s : State) (c : Fin 256) (live : LiveMask) : Except (Cause × Nat) State :=
  (polderItems (s.coreAt c) live).zipIdx.foldl (fun (r : Except (Cause × Nat) State) (e : (Bool × Fin 8) × Nat) =>
    match r, polderOff (s.coreAt c).hdr e.2 with
    | .error x, _ => .error x
    | .ok s, none => .ok s
    | .ok s, some off =>
      match s.pump c (Fin.ofNat 32 (off / 65536)) with
      | .error x => .error x
      | .ok s =>
        let n := if e.1.1 then 32768 else 16896
        match (s.coreAt c).failedLine off n with
        | some o => .error (.uncorrectable, o + 2 ^ 63)
        | none => .ok (s.mapCore c fun k =>
          if e.1.1 then k.setAcc e.1.2 (accOfBytes k.spad off)
          else { k with tiles := k.tiles.set e.1.2
                          ⟨(k.tiles[e.1.2]).cfg, Mem.writeBytes [] 0 (k.spad.readBytes off 16896)⟩ })) (.ok s)

/-- A settled take and a settled register. -/
def Take.of {α : Type} (v : α) : Take α := ⟨0, v, v, 0, 0, none⟩

/-- A stream as a context resumes it: read ahead again from the saved position (R258). -/
def Stream.refetch (st : Stream) : Stream := { st with buf := [], moved := st.pos, next := 0 }

/-- A halted context with its results landed and only its live items left (R103, R258). Tiles and accumulators
have gone to the save polders. -/
def Core.liveOnly (k : Core) (live : LiveMask) : Core :=
  let k := { k.landAll with rc := Clk.zero, wc := Clk.zero, loads := [] }
  let b := k.bankU
  { k with
    bankU :=
      ⟨b.takes.zipIdx.map fun e => Take.of (if live.takes.getLsbD e.2 then e.1.final else 0),
       Vector.ofFn fun i => Reg.reset (if live.x.getLsbD i.val then (b.x[i]).final else 0)⟩
    vtakes := k.vtakes.zipIdx.map fun e => Take.of (if live.vtakes.getLsbD e.2 then e.1.final else 0)
    v := Vector.ofFn fun i => Reg.reset (if live.v.getLsbD i.val then (k.v[i]).final else 0)
    streams := Vector.ofFn fun i => if live.streams.getLsbD i.val then (k.streams[i]).refetch else Stream.reset
    q0 := if live.q.getLsbD 0 then k.q0 else []
    q1 := if live.q.getLsbD 1 then k.q1 else []
    tiles := Vector.ofFn fun i => { (k.tiles[i]) with bytes := [] }
    acc := Vector.replicate 8 [], spad := [], badSpad := [], badWords := k.badWords.filter (·.1 = .spill), l1tlb := [], walks := [], fbuf := [] }

/-- The kernel image of a core's launch. -/
def imageOf (s : State) (k : Core) : List Byte := ((kernelOf s k.part k.handle).map (·.image)).getD []

/-- A launch's first cause, where it is met while none of its cores runs: the code alone, since no bundle raised it. DESIGN
CHOICE: log entry 20. -/
def State.noteFault (s : State) (id : Nat) (c : Cause) : State :=
  s.mapLaunch id fun l => if l.fault.isNone then { l with fault := some (BitVec.ofNat 64 c.code) } else l

/-- A launch ends by such a cause. -/
def State.failLaunch (s : State) (id : Nat) (c : Cause) : State := (s.noteFault id c).launchDone id

/-- Save one halted core into its empty bank (R104, R106). The halt was a full FENCE at NMEM: what the core's atomics left in
combining entries is applied (R213). The image is written 10 us after the save: within 20 us of the commit. -/
def State.saveCore (s : State) (l : Launch) (c : Fin 256) : State :=
  let s := s.applyCore c
  let k := s.coreAt c
  let entry := liveEntryAt (imageOf s k) k.liveBase.toNat k.hdr.lmCount k.stopAt
  let live := match entry with
    | some e => liveOfEntry e
    | none => liveAll k.hdr
  match s.saveMatrix c live with
  | .error (e, ipa) =>
    (s.logCore c e 10 (BitVec.ofNat 64 ipa)).noteFault l.id e
  | .ok s =>
    let k := s.coreAt c
    let x : Saved := { launch := l.id, core := c, ctx := k.liveOnly live, at_ := .bank, live := live,
                       atWait := entry.isNone, entry := entry.getD [], home := none, due := s.cycle + 16000 }
    { s.mapCore c fun k => { k.bare with part := k.part, issuedAt := k.issuedAt } with saved := s.saved ++ [x] }

/-- A halted launch leaves its quads (R99, R106): its contexts into shadow storage, the launch to the head of its
source. -/
def State.saveLaunch (s : State) (id : Nat) (swapped : Bool) : State :=
  match s.launchById id with
  | none => s
  | some l =>
    let cs := (coresOf l.quads).filter fun c => (s.coreAt c).launch = some id && halted s c
    let act := s.activeOf (some id)
    let s := (cs.foldl (fun s c => s.saveCore l c) s).perfUpdate l.part
    let bad := match s.launchById id with
      | some l => l.fault.isSome
      | none => false
    if bad then s.launchDone id
    else
      let n := cs.length * (s.cycle - l.since)
      let up (l : Launch) : Launch :=
        { l with state := .out, active := act, since := s.cycle, swapped := swapped, haltAt := none,
                 charged := l.charged + n }
      let gone (k : Core) : Core :=
        if k.launch = some id then { k.bare with part := k.part, issuedAt := k.issuedAt } else k
      { s with cores := s.cores.map gone,
               launches := (s.launches.filter fun x => x.id = id).map up ++ s.launches.filter fun x => x.id ≠ id }

/-! ### Images in a save area (R257-R260) -/

/-- DPA of the image of a context. -/
def imageDpa (s : State) (x : Saved) (wr : Bool) : XRes Nat :=
  match s.launchById x.launch with
  | none => .error .xlateS2
  | some l =>
    match saveAreaOf s l (x.core.val / 4) with
    | none => .error .xlateS2
    | some (d, qi) => saveDpa s l.part (d.save + 0x800000 * d.quads + 0x10000 * (4 * qi + x.core.val % 4)) wr

def State.updSaved (s : State) (x : Saved) (f : Saved → Saved) : State :=
  { s with saved := s.saved.map fun y => if y.launch = x.launch && y.core = x.core then f y else y }

/-- A saved context with a failed word in its spill memory or in shadow storage goes nowhere: the fault is logged to H, and
its launch ends (R21, R23). DESIGN CHOICE: log entry 29. -/
def State.lostCtx (s : State) (x : Saved) : State :=
  ((s.logUnit .uncorrectable 10 x.ctx.part 0 x.core.val 0 0 x.ctx.gang).updSaved x fun y =>
    { y with due := s.cycle + 16000 }).failLaunch x.launch .uncorrectable

/-- Write a context's image from its bank, which is then empty. One that does not translate is logged and tried
again after 10 us. -/
def State.writeback (s : State) (x : Saved) : State :=
  if !x.ctx.badWords.isEmpty then s.lostCtx x else
  match imageDpa s x true with
  | .error c =>
    (s.logUnit c 2 x.ctx.part 0 x.core.val 0 0 x.ctx.gang).updSaved x fun y => { y with due := s.cycle + 16000 }
  | .ok a =>
    let n := (imagePieces s x).foldl (fun n (e : Nat × List Byte) => n + e.2.length) (256 + 2048)
    ((writeImage s x a).updSaved x fun y => { y with at_ := .memory, home := some a }).meter x.ctx.part 8 n

/-- SAVE_WRITEBACK: the oldest image still in a bank is written to its save area (R106). -/
def execSaveWriteback (s : State) : Host.Outcome State Fault Refusal :=
  match s.saved.find? fun x => x.at_ = .bank && decide (x.due ≤ s.cycle) with
  | some x => .next (s.writeback x)
  | none => .next s

/-- The CSR at index `i` of an image's CSR area. -/
def imCsr (im : List Byte) (i : Nat) : Word := BitVec.ofNat 64 (fieldLE im (0x100 + 8 * i) 8)

/-- The saved CSRs against the rules for writing them; those that no program writes must read as they were saved
(R146, R226, R260, R345; DESIGN CHOICE, log entry 20). -/
def imageCsrsOk (k : Core) (im : List Byte) : Bool :=
  let v := imCsr im
  let same (i : Nat) : Bool := (v i).toNat = (imageCsrs k).getD i 0
  let fp := (v 26).toNat
  ((List.range 8).all fun i => tcfgRows (v i) = 0 && v i = 0 || tcfgOk (v i) && v i = masked (v i) 0 20) &&
  v 8 = masked (v 8) 0 7 && v 9 = masked (v 9) 0 3 && decide ((v 9).toNat < 5) && v 11 = masked (v 11) 0 1 &&
  v 12 = masked (v 12) 0 2 && v 13 = masked (v 13) 6 42 && v 14 = masked (v 14) 6 42 && v 15 = masked (v 15) 4 44 &&
  masked (v 16) 24 40 = masked k.trapVec 24 40 && same 17 && v 18 = masked (v 18) 2 38 &&
  v 20 = (masked (v 20) 6 15 ||| masked (v 20) 63 1) && same 21 && same 22 && same 24 &&
  decide ((v 25).toNat ≤ 32) && (fp = 0 || (fp.testBit 7 && decide (1 ≤ bitsOf fp 8 2) && decide (fp < 2 ^ 10)))

/-- One saved matrix op queue entry. -/
def imageMatOp (im : List Byte) (n : Nat) : Option MatOp :=
  let o := 0xE00 + 64 * n
  match decodeSlot .m (BitVec.ofNat 32 (fieldLE im o 4)) none with
  | .error _ => none
  | .ok i =>
    if !(fieldLE im (o + 10) 1).testBit 0 || 128 ≤ fieldLE im (o + 8) 1 || 5 ≤ fieldLE im (o + 9) 1 then none
    else some { op := i, ofs := BitVec.ofNat 32 (fieldLE im (o + 4) 4), fmte := BitVec.ofNat 7 (fieldLE im (o + 8) 1),
                frm := BitVec.ofNat 64 (fieldLE im (o + 9) 1), srseed := BitVec.ofNat 64 (fieldLE im (o + 16) 8) }

/-- The progress record, against the operation's own range (R348). -/
def imageProg (im : List Byte) (ops : List MatOp) : Option MatProg :=
  let o := 0xE00 + 256
  if !(fieldLE im o 1).testBit 0 then some MatProg.reset
  else match ops with
    | [] => none
    | m :: _ =>
      let kd := fieldLE im (o + 4) 4
      let pu := fieldLE im (o + 8) 4
      let pend := (fieldLE im (o + 12) 1).testBit 0
      let ok := match outerOf m.op with
        | some u => decide (kd < u.n) && pu = 0
        | none => match m.op with
          | .mdrain _ _ _ _ _ _ rows t => kd = 0 && decide (pu < drainGroups (drainRows rows) t)
          | _ => false
      if ok then some { started := true, elapsed := 0, kDone := kd, pushed := pu, from_ := kd + pu, pending := pend }
      else none

/-- A vector of an image. -/
def imVec (im : List Byte) (o : Nat) : Vec := BitVec.ofNat 2112 (fieldLE im o 264)

/-- A stream of an image (DESIGN CHOICE, log entry 20). -/
def imStream (im : List Byte) (i : Nat) : Stream :=
  let b := (im.drop (0x800 + 64 * i)).take 64
  let f := fieldLE b 49 1
  if !f.testBit 0 then Stream.reset
  else { Stream.reset with bound := true, wr := f.testBit 1, diff := f.testBit 2, block := b.take 49,
                           pos := fieldLE b 56 8, moved := fieldLE b 56 8 }

/-- The context that an image gives, if it passes the checks of R260. Tags, the copy queue and what no image carries
come from the device's own record. -/
def decodeImage (x : Saved) (im : List Byte) : Option Saved :=
  let k := x.ctx
  let e := (im.drop 32).take 16
  let wait := e = List.replicate 16 0xFF
  let m := if wait then liveAll k.hdr else liveOfEntry e
  let live := { m with tiles := m.tiles &&& k.hdr.tiles, accs := m.accs &&& k.hdr.accs }
  let nq0 := fieldLE im 48 1
  let nq1 := fieldLE im 49 1
  let nmop := fieldLE im 51 1
  let nmask := fieldLE im 53 1
  let w (o i : Nat) : Word := BitVec.ofNat 64 (fieldLE im (o + 8 * i) 8)
  let headOk := fieldLE im 0 4 = 0x43585443 && fieldLE im 4 2 = 1 && fieldLE im 6 1 = k.lidx && fieldLE im 12 2 = k.handle &&
    fieldLE im 80 4 = crc32c ((im.drop 0x100).take 0xF700) && decide (nq0 ≤ 64) && decide (nq1 ≤ 64) &&
    decide (fieldLE im 50 1 ≤ 16) && decide (nmop ≤ 4) && decide (fieldLE im 52 1 ≤ 32) && decide (nmask ≤ 16)
  if !headOk || !imageCsrsOk k im then none
  else match (List.range nmop).mapM (imageMatOp im) with
    | none => none
    | some ops => match imageProg im ops with
      | none => none
      | some pr =>
        let c (i : Nat) : Word := imCsr im i
        let fp := (c 26).toNat
        let ctx : Core :=
          { k with
            pc := BitVec.ofNat 64 (fieldLE im 8 4), icyc := BitVec.ofNat 64 (fieldLE im 16 8),
            holdCyc := BitVec.ofNat 64 (fieldLE im 24 8), lastSp := none,
            wait := if fieldLE im 8 4 = k.pc.toNat then k.wait else none,
            bankU := ⟨(List.range 16).map fun i => Take.of (if live.takes.getLsbD i then w 0x1240 i else 0),
                      Vector.ofFn fun i => Reg.reset (if live.x.getLsbD i.val && i ≠ 0 then w 0x11C0 i.val else 0)⟩,
            vtakes := (List.range 16).map fun i => Take.of (if live.vtakes.getLsbD i then imVec im (0x1300 + 264 * i) else 0),
            v := Vector.ofFn fun i => Reg.reset (if live.v.getLsbD i.val then imVec im (0x2380 + 264 * i.val) else 0),
            streams := Vector.ofFn fun i => if live.streams.getLsbD i.val then imStream im i.val else Stream.reset,
            q0 := if live.q.getLsbD 0 then (List.range nq0).map fun i => imVec im (0x3400 + 264 * i) else [],
            q1 := if live.q.getLsbD 1 then (List.range nq1).map fun i => imVec im (0x7600 + 264 * i) else [],
            tiles := Vector.ofFn fun i => ⟨c i.val, []⟩,
            fmte := c 8, frm := c 9, srseed := c 10, shadowchk := c 11, dmode := c 12, reelBase := c 13, reelLimit := c 14,
            reelPtr := c 15, trapVec := c 16, trapS := ⟨c 17, c 18, c 19⟩, mqBase := c 20,
            ssp := fieldLE im 52 1, fmtp := if fp = 0 then [] else [(BitVec.ofNat 7 fp, bitsOf fp 8 2)],
            mask := ((List.range nmask).map fun i => BitVec.ofNat 512 (fieldLE im (0x300 + 64 * i) 64)).reverse,
            shadow := Vector.ofFn fun i => w 0x700 i.val, mops := ops, mprog := pr,
            credits := (List.range k.credits.length).map fun i => fieldLE im (0xF40 + 2 * i) 2,
            perf := Vector.ofFn fun i => w 0x1140 i.val,
            spill := Mem.writeBytes [] 0 ((im.drop 0xB800).take 16384) }
        some { x with ctx := ctx, live := live }

/-- Stage a context into the alternate bank: from its image, unless it is still in a bank (R106, R260). A refused image
ends its launch. -/
def State.stageCtx (s : State) (x : Saved) : State :=
  match x.at_ with
  | .memory =>
    match imageDpa s x false with
    | .error c => (s.logUnit c 10 x.ctx.part 0 x.core.val 0 0 x.ctx.gang).failLaunch x.launch c
    | .ok a =>
      let s := s.meter x.ctx.part 7 0x10000
      match segFault s x.ctx.part a 0x10000 with
      | some c => (s.logUnit c 10 x.ctx.part 0 x.core.val 0 (BitVec.ofNat 64 a) x.ctx.gang).failLaunch x.launch c
      | none =>
      match decodeImage x (s.peek x.ctx.part a 0x10000) with
      | none => (s.logUnit .imageCheck 8 x.ctx.part 0 x.core.val 0 0 x.ctx.gang).failLaunch x.launch .imageCheck
      | some y => s.updSaved x fun _ => { y with at_ := .staged, home := none }
  | _ => s

/-- Load one staged context into its core (R106): its matrix state comes back from the save polders. -/
def State.loadCtx (s : State) (x : Saved) : State :=
  if !x.ctx.badWords.isEmpty then s.lostCtx x else
  let k := s.coreAt x.core
  let ctx : Core :=
    { x.ctx with run := .running, stop := none, wait := none, spad := k.spad, writers := k.writers, badSpad := k.badSpad, l1tlb := k.l1tlb, walks := [],
                 pkgId := BitVec.ofNat 11 (selfMod s) }
  match (s.setCore x.core ctx).loadMatrix x.core x.live with
  | .ok s => s
  | .error (e, ipa) => (s.logUnit e 10 x.ctx.part 0 x.core.val 0 (BitVec.ofNat 64 ipa) x.ctx.gang).failLaunch x.launch e

/-- A context resumes on the quads it left (R260). Cores that had ended stay ended. -/
def State.resumeLaunch (s : State) (id : Nat) : State :=
  let mine (s : State) : List Saved := s.saved.filter fun x => x.launch = id
  let s := (mine s).foldl (fun s x => s.stageCtx x) s
  match s.launchById id with
  | none => s
  | some l =>
    if l.state = .done then s else
    let xs := mine s
    let s := s.mapLaunch id fun l =>
      { l with state := .running, eff := effLevel s l, waited := waitedCycles s l, since := s.cycle, swapped := false,
               haltAt := none }
    let s := (coresOf l.quads).zipIdx.foldl (fun s (e : Fin 256 × Nat) =>
      if xs.any fun x => x.core = e.1 then s
      else s.mapCore e.1 fun k => { k.bare with run := .ended, launch := some id, lidx := e.2, part := l.part }) s
    let s := { s with saved := s.saved.filter fun x => x.launch ≠ id }
    xs.foldl (fun s x => s.loadCtx x) s

/-! ### DISPATCH (R97-R100) -/

/-- What the dispatcher of a partition does next. -/
inductive Plan where
  /-- A pre-empted launch has halted and leaves its quads. -/
  | leave (id : Nat)
  | start (l : Launch) (quads : List Nat)
  | resume (id : Nat)
  | stop (ids : List Nat)
  | choose
  | wait
  deriving DecidableEq

/-- The plan for the chosen launch: place or resume it, or pre-empt for it. -/
def planFor (s : State) (part : Nat) (l : Launch) : Plan :=
  let free := freeQuads s part
  let level := effLevel s l
  let leaving := ((s.launches.filter fun v => v.part = part && v.state = .running && v.gang = 0 && stopping s v).map (·.quads.length)).foldl (· + ·) 0
  let able := s.launches.filter (preemptable s part level)
  if l.state = .out then
    if l.quads.all free.contains then .resume l.id
    else
      let vs := (able.filter fun v => v.quads.any l.quads.contains).map (·.id)
      if vs.isEmpty then .wait else .stop vs
  else match placeQuads free l.nquads with
    | some qs => .start l qs
    | none =>
      let vs := victims able (l.nquads - free.length - leaving)
      if vs.isEmpty then .wait else .stop vs

/-- A vote that is not decided is halting the partition's single-module launches: they leave at the swap, or go on after
ABORT (R110, R112). -/
def votedOut (s : State) (part : Nat) : Bool :=
  s.votes.any fun v => v.outgoing.contains (part, (0 : BitVec 32)) && v.state ≠ .done

def dispatchPlan (s : State) (part : Nat) : Plan :=
  if votedOut s part then .wait else
  match s.launches.find? fun l => l.part = part && l.state = .running && l.gang = 0 && !l.hker && !l.swapped && launchHalted s l with
  | some l => .leave l.id
  | none =>
    if !dispatches s part then .wait
    else match chosenLaunch s part with
      | some l => planFor s part l
      | none => if (pickLaunch s part).isSome then .choose else .wait

/-- DISPATCH: one act of the dispatcher of a partition. -/
def execDispatch (part : Fin 16) (s : State) : Host.Outcome State Fault Refusal :=
  let p := partNo part
  let s := match dispatchPlan s p with
    | .choose => match pickLaunch s p with
      | some l => s.setRt p fun r => { r with chosen := some l.id, served := sourceKind l.source }
      | none => s
    | _ => s
  match dispatchPlan s p with
  | .leave id => .next (s.saveLaunch id false)
  | .start l qs => .next ((s.setRt p fun r => { r with chosen := none }).placeLaunch l qs)
  | .resume id => .next ((s.setRt p fun r => { r with chosen := none }).resumeLaunch id)
  | .stop ids => .next (ids.foldl (fun s id => s.requestStop id .save) s)
  | .choose => .next s
  | .wait => .next s

/-- A LNCH record whose issuer's earlier writes are performed. -/
def lnchReady (s : State) (part : Nat) : Option Launch :=
  s.launches.find? fun l => l.part = part && l.source = .lnch && !l.entered && l.state = .queued &&
    !(l.after.any fun i => s.memq.any fun o => o.id = i && o.result.isNone)

/-- LNCH_ENTRY: such a launch enters the dispatcher's queue (R306). -/
def execLnchEntry (part : Fin 16) (s : State) : Host.Outcome State Fault Refusal :=
  match lnchReady s (partNo part) with
  | some l => .next (s.mapLaunch l.id fun l => { l with entered := true, since := s.cycle })
  | none => .next s

/-! ### Registration (R64, R65) -/

/-- A new handle: any 16-bit number that no kernel of the partition has, while the table of 256 is not full. Which one is
the `n`-th free choice. DESIGN CHOICE: log entry 9. -/
def freeHandle (p : Partition) (n : Nat) : Option Nat :=
  if 256 ≤ p.kernels.length then none
  else (List.range 257).findSome? fun i =>
    let h := (Config.shadowIndex n + i) % 65536
    if p.kernels.any fun k => k.handle = h then none else some h

/-- REGISTER: the image is read, checked and copied, and the kernel has a handle. The copy counts against the partition's HBM:
one that does not fit has NO_RESOURCES. DESIGN CHOICE: log entry 12. -/
def execRegister (s : State) : Host.Outcome State Fault Refusal :=
  .next (s.command .vf [(8, 8), (16, 4)] fun c =>
    let len := c.field 16 4
    if 0x1000000 < len then s.cmdDone c csBadField 0 0
    else s.whenFree .register c false (c.field 8 8) len fun s => match hostGet s c.fn (c.field 8 8) len with
      | .error e => s.cmdFault c (c.field 8 8) e
      | .ok (im, s) =>
        match imageRefusal im (hbmBytes s c.fn.val), freeHandle s.parts[c.fn] s.free with
        | some (code, off), _ => s.cmdDone c csRefused code off
        | none, none => s.cmdDone c csRefused 0x13 0
        | none, some h =>
          if hbmBytes s c.fn.val < im.length then s.cmdDone c csNoResources 0 0
          else ({ s with free := s.free + 1 }.updPart c.fn.val fun p =>
            { p with kernels := p.kernels ++ [kernelFrom h im] }).cmdDone c csOk h 0)

/-- UNREGISTER: refused while launches of the handle are not done (R63). -/
def execUnregister (s : State) : Host.Outcome State Fault Refusal :=
  .next (s.command .vf [(8, 2)] fun c =>
    let h := c.field 8 2
    if (kernelOf s c.fn.val h).isNone then s.cmdDone c csNoHandle 0 0
    else if s.launches.any fun l => l.part = c.fn.val && l.handle = h && l.state ≠ .done then s.cmdDone c csBusy 0 0
    else (s.updPart c.fn.val fun p => { p with kernels := p.kernels.filter (·.handle ≠ h) }).cmdDone c csOk 0 0)

/-! ### LAUNCH (R66, R108, R397) -/

/-- The member table: module and function of each rank (R66). -/
def membersOf (bs : List Byte) (n : Nat) : List (Nat × Nat) :=
  (List.range n).map fun i => (bitsOf (fieldLE bs (4 * i) 4) 0 11, bitsOf (fieldLE bs (4 * i) 4) 16 5)

/-- A launch as a command asks for it. -/
def launchOfCmd (s : State) (c : Cmd) (h : KHeader) (args : List Byte) (members : List (Nat × Nat)) : Launch :=
  let gang := 1 < c.field 28 2
  let level := bitsOf (ringAt s c.fn c.ring).prio.toNat 0 4
  { id := s.nextId, part := c.fn.val, hker := c.fn = 0, handle := c.field 8 2, hdr := h, source := .ring c.ring,
    state := .queued, entered := true, base := level, eff := level, waited := 0, since := s.cycle, active := 0,
    nquads := if c.field 10 1 = 0 then h.quads else c.field 10 1, quads := [], args := args,
    gang := if gang then BitVec.ofNat 32 (c.field 12 4) else 0, rank := if gang then c.field 26 2 else 0,
    gsize := if gang then c.field 28 2 else 1, members := members, cmd := some c, first := none, charged := 0, swapped := false, voteAt := 0,
    haltAt := none, ended := 0, fault := none, after := [], copies := [], code := Config.codeArea s.nextId }

/-- LAUNCH on a ring of a VF: the limits of R66, then the launch queues. -/
def execLaunch (s : State) : Host.Outcome State Fault Refusal :=
  .next (s.command .vf [(8, 2), (10, 1), (12, 4), (16, 8), (24, 2), (26, 2), (28, 2), (32, 8)] fun c =>
    let n := c.field 24 2
    let size := c.field 28 2
    let gang := BitVec.ofNat 32 (c.field 12 4)
    if 4096 < n || size = 0 || 2048 < size || (1 < size && (size ≤ c.field 26 2 || gang = 0)) then
      s.cmdDone c csBadField 0 0
    else match kernelOf s c.fn.val (c.field 8 2) with
      | none => s.cmdDone c csNoHandle 0 0
      | some k =>
        let quads := if c.field 10 1 = 0 then k.hdr.quads else c.field 10 1
        if k.hdr.spill < n then s.cmdDone c csBadField 0 0
        else if quadCount s c.fn.val < quads then s.cmdDone c csNoResources 0 0
        else if 1 < size && (s.gangDef c.fn.val gang).isNone then s.cmdDone c csNoHandle 0 0
        else
          let table := if size = 1 then 0 else 4 * size
          s.whenFree .launch c false (c.field 16 8) n fun s =>
          s.whenFree .launch c false (c.field 32 8) table fun s =>
          match hostGet s c.fn (c.field 16 8) n with
          | .error e => s.cmdFault c (c.field 16 8) e
          | .ok (args, s) => match hostGet s c.fn (c.field 32 8) table with
            | .error e => s.cmdFault c (c.field 32 8) e
            | .ok (bs, s) =>
              s.queueLaunch (launchOfCmd s c k.hdr args (if size = 1 then [] else membersOf bs size)))

/-- The quad of an H kernel: the highest that is not degraded, not owned, holds no saved context and is free
(R397). -/
def hQuad (s : State) : Option Nat :=
  (List.range 64).reverse.find? fun q => !s.degQuads.getLsbD q && !(s.parts.toList.any fun p => p.quads.getLsbD q) &&
    !busyQuad s q && !inShadow s q

/-- LAUNCH on a PF 0 ring: an H kernel, checked as REGISTER checks, copied to a code area and placed at once
(R397). -/
def execHKernelLaunch (s : State) : Host.Outcome State Fault Refusal :=
  .next (s.command .pf [(8, 2), (10, 1), (12, 4), (16, 8), (24, 2), (26, 2), (28, 2), (32, 8), (40, 8)] fun c =>
    let n := c.field 24 2
    let at_ := c.field 40 8
    if c.field 8 2 ≠ 0 || c.field 28 2 ≠ 1 || 1 < c.field 10 1 || at_ % 64 ≠ 0 || 4096 < n then s.cmdDone c csBadField 0 0
    else if 2 ^ 39 ≤ at_ then s.cmdDone c csXlate 0 0
    else s.whenFree .hKernelLaunch c false at_ 128 fun s => match hostGet s 0 at_ 128 with
      | .error e => s.cmdFault c at_ e
      | .ok (hd, s) =>
        let len := fieldLE hd 8 4
        let all := min 0x1000000 (max 128 len)
        s.whenFree .hKernelLaunch c false at_ all fun s => match hostGet s 0 at_ all with
        | .error e => s.cmdFault c at_ e
        | .ok (im, s) =>
          match imageRefusal im (2 ^ 39) with
          | some (code, off) => s.cmdDone c csRefused code off
          | none =>
            let h := headerOf im
            if (c.field 10 1 = 0 && h.quads ≠ 1) || h.spill < n then s.cmdDone c csBadField 0 0
            else s.whenFree .hKernelLaunch c false (c.field 16 8) n fun s =>
              match hostGet s 0 (c.field 16 8) n, hQuad s with
              | .error e, _ => s.cmdFault c (c.field 16 8) e
              | .ok _, none => s.cmdDone c csNoResources 0 0
              | .ok (args, s), some q =>
                let l := { launchOfCmd s c h args [] with nquads := 1 }
                let s := s.queueLaunch l
                (s.poke 0 l.code (im.take len)).placeLaunch l [q])

end Sys2Proof.Machine
end

