-- ==== Sys2Proof/Machine/Part.lean ====
section
/-! DEFINITION. Partitions: creation, later changes, destruction, and function-level resets (R68-R70, R76, R77,
R81, R82, R88-R94). -/

namespace Sys2Proof.Machine

/-! ### PCREATE (R68, R76, R77, R81) -/

/-- Eight ranges of 16 bytes. -/
def rangesAt (b : List Byte) (o : Nat) : List Range :=
  (List.range 8).map fun i => ⟨fieldLE b (o + 16 * i) 8, fieldLE b (o + 16 * i + 8) 8⟩

/-- Ranges in multiples of a unit, the used ones without overlaps where that is asked. -/
def rangesOk (rs : List Range) (unit limit : Nat) (apart : Bool) : Bool :=
  rs.all (fun r => r.base % unit = 0 && r.len % unit = 0 && decide (r.base + r.len ≤ limit)) &&
    (!apart || pairwiseDisjoint ((rs.filter (·.len ≠ 0)).map fun r => (r.base, r.len)))

/-- The partition that a descriptor describes. -/
def partOfDesc (b : List Byte) : Partition :=
  { exists_ := true, kind := fieldLE b 2 1, critical := fieldLE b 3 1 = 1, waymask := BitVec.ofNat 16 (fieldLE b 4 2),
    rings := fieldLE b 6 1, quads := BitVec.ofNat 64 (fieldLE b 8 8), slices := BitVec.ofNat 128 (fieldLE b 16 16),
    chans := BitVec.ofNat 256 (fieldLE b 32 32), ports := BitVec.ofNat 20 (fieldLE b 64 4),
    seqs := BitVec.ofNat 20 (fieldLE b 68 4), s2root := fieldLE b 72 8, target := fieldLE b 80 4, rate := fieldLE b 84 2,
    pmbase := fieldLE b 88 8, seqsave := fieldLE b 96 8, dranges := rangesAt b 128, iova := rangesAt b 256, kernels := [],
    windows := [], meters := Vector.replicate 16 0, totals := Vector.replicate 16 0 }

/-- Class, TARGET and RATE agree (R81). -/
def qosOk (cls target rate : Nat) : Bool :=
  if cls = 1 then decide (200 ≤ target) && decide (target ≤ 1000000) && rate = 0
  else cls = 0 && target = 0 && decide (1 ≤ rate) && decide (rate ≤ 256)

/-- Bytes of a descriptor that hold a field. -/
def descFields : List (Nat × Nat) :=
  [(0, 7), (8, 64), (72, 14), (88, 16), (128, 256)]

/-- A descriptor's form (R77, R81, R119). -/
def descFormOk (b : List Byte) : Bool :=
  let f (o n : Nat) : Nat := fieldLE b o n
  let saves : Bool := f 2 1 = 1 && f 68 4 ≠ 0
  f 0 2 = 1 && decide (f 2 1 ≤ 1) && qosOk (f 3 1) (f 80 4) (f 84 2) && f 4 2 ≠ 0 && decide (f 4 2 < 4096) &&
    decide (1 ≤ f 6 1) && decide (f 6 1 ≤ 64) && f 8 8 ≠ 0 && f 16 16 ≠ 0 && f 32 32 ≠ 0 && decide (f 64 4 < 2 ^ 20) &&
    decide (f 68 4 < 2 ^ 20) && f 72 8 % 4096 = 0 && decide (f 72 8 < 2 ^ 39) && f 88 8 % 4096 = 0 &&
    decide (f 88 8 < 2 ^ 39) &&
    (if saves then f 96 8 ≠ 0 && f 96 8 % 65536 = 0 && decide (f 96 8 < 2 ^ 39) else f 96 8 = 0) &&
    rangesOk (rangesAt b 128) 0x200000 (2 ^ 39) true && rangesOk (rangesAt b 256) 4096 (2 ^ 63) false &&
    (List.range 512).all fun i => (descFields.any fun r => decide (r.1 ≤ i) && decide (i < r.1 + r.2)) || f i 1 = 0

/-- Two partitions name a quad, slice, port or sequencer in common. -/
def shareUnits (a b : Partition) : Bool :=
  a.quads &&& b.quads ≠ 0 || a.slices &&& b.slices ≠ 0 || a.ports &&& b.ports ≠ 0 || a.seqs &&& b.seqs ≠ 0

/-- PCREATE is refused (R77, R397): a degraded unit, a unit that is not to be shared, one of a partition that
is being destroyed, or the quad of an H kernel. -/
def createRefused (s : State) (p : Partition) : Bool :=
  p.quads &&& s.degQuads ≠ 0 || p.slices &&& s.degSlices ≠ 0 || p.chans &&& s.degChans ≠ 0 ||
    p.ports &&& s.degPorts ≠ 0 || p.seqs &&& s.degPorts ≠ 0 ||
    (s.launches.any fun l => l.hker && l.state = .running && l.quads.any fun q => p.quads.getLsbD q) ||
    (List.finRange 17).any fun i =>
      let o := s.parts[i]
      o.exists_ && ((shareUnits p o && (p.kind = 0 || o.kind = 0)) ||
        ((s.rt[i]).frames.isSome && (shareUnits p o || p.chans &&& o.chans ≠ 0)))

/-- A core that runs another partition's launch: what it holds is not a partition's to clear. DESIGN CHOICE: log entry 23. -/
def Core.foreign (k : Core) (part : Nat) : Bool := k.launch.isSome && k.part ≠ part

/-- The scrub of a partition's quads (R68, R93): every owned core, and the shadow storage on them, but what a live context of
another partition holds. -/
def State.scrubQuads (s : State) (part : Nat) : State :=
  let qs := ownedQuads (partAt s part).quads
  let s := (coresOf qs).foldl (fun s c => s.mapCore c fun k => if k.foreign part then k else k.bare) s
  { s with saved := s.saved.filter fun x => !qs.contains (x.core.val / 4) || x.at_ = .memory ||
      (x.ctx.part ≠ part && (partAt s x.ctx.part).exists_) }

/-- The TLBs of a partition's quads are emptied (R68). -/
def State.emptyTlbs (s : State) (part : Nat) : State :=
  let qs := ownedQuads (partAt s part).quads
  let s := (coresOf qs).foldl (fun s c => s.mapCore c fun k => { k with l1tlb := [], walks := [] }) s
  { s with l2tlb := Vector.ofFn fun i => if qs.contains i.val then [] else s.l2tlb[i] }

/-- Ways of slices are cleared (R90): dirty lines are written back, and every line leaves. -/
def State.clearSlices (s : State) (part : Nat) (slices : BitVec 128) (ways : BitVec 16) : State :=
  s.flushLines (fnReq (Fin.ofNat 17 part)) fun e => slices.getLsbD e.slice && ways.getLsbD e.way

/-- The clearing of designated ways begins (R90, R93): one way of a slice in 2,048 cycles, in sequence, the slices in
parallel. -/
def State.startClear (s : State) (part : Nat) (slices : BitVec 128) (ways : BitVec 16) : State :=
  s.setRt part fun r =>
    { r with clearing := r.clearing ||| slices, clearWays := r.clearWays ||| ways,
             clearAt := s.cycle + 2048 * (List.range 12).countP fun w => (r.clearWays ||| ways).getLsbD w }

/-- The channels of a partition start their counts (R91). The bucket starts full (DESIGN CHOICE, log entry 22). -/
def startQos (p : Partition) (part cycle : Nat) : List QosCount :=
  ((List.finRange 256).filter fun c => p.chans.getLsbD c.val).map fun c =>
    { chan := c, part := part, reads := 0, late := 0, rc := p.rate, tokens := 64 * 8192, filled := cycle, waiting := [] }

def State.dropTlbOf (s : State) (part : Nat) : State := dropTlb s fun t => t.part = part

/-- The partition is made (R68). -/
def State.makePartition (s : State) (part : Nat) (p : Partition) : State :=
  let s := s.updPart part fun _ => p
  let s := s.setRt part fun _ =>
    { PartRt.none with pmDue := s.cycle + 160000, resident := if p.kind = 0 then some 0 else none }
  let others := s.qos.filter fun q => q.part ≠ part
  let s := { s with qos := others ++ startQos p part s.cycle }
  let s := ((s.dropTlbOf part).emptyTlbs part).scrubQuads part
  let s := if p.kind = 0 then s.clearSequencers part else s
  (s.clearSlices part p.slices p.waymask).emitSlate part 2

/-- PCREATE (R68): nothing changes where it is refused. -/
def execPcreate (s : State) : Host.Outcome State Fault Refusal :=
  .next (s.command .pf [(8, 1), (16, 8)] fun c =>
    let part := c.field 8 1
    if part = 0 || 16 < part then s.cmdDone c csBadField 0 0
    else s.whenFree .pcreate c false (c.field 16 8) 512 fun s => match hostGet s 0 (c.field 16 8) 512 with
      | .error e => s.cmdFault c (c.field 16 8) e
      | .ok (b, s) =>
        let p := partOfDesc b
        if !descFormOk b then s.cmdDone c csBadField 0 0
        else if (partAt s part).exists_ || createRefused s p then s.cmdDone c csNoResources 0 0
        else (s.makePartition part p).cmdDone c csOk 0 0)

/-! ### Stopping a partition's launches (R69, R70) -/

/-- Running launches stop at their next safe point without a save; the others are done at once. -/
def State.stopLaunches (s : State) (part : Nat) : State :=
  let mine := s.launches.filter fun l => l.part = part && !l.hker && l.state ≠ .done
  mine.foldl (fun s l =>
    if l.state ≠ .running then s.launchDone l.id
    else
      let s := s.requestStop l.id .noSave
      (coresOf l.quads).foldl (fun s c =>
        if (s.coreAt c).launch = some l.id && (s.coreAt c).run = .stopped then
          (s.mapCore c fun k => { k with run := .dead }).postCore .coreEnded c
        else s) s) s

/-- A completion of the partition's function that there is room for is still to be written. -/
def answersDue (s : State) (part : Nat) : Bool :=
  s.cmdRuns.any fun c => c.cmd.fn.val = part && c.ended && completionRoom (ringAt s c.cmd.fn c.cmd.ring)

/-- No launch of the partition runs, no near-bank run of it is still to end, and the completions that its rings have room for
are written. -/
def partQuiet (s : State) (part : Nat) : Bool :=
  !(s.launches.any fun l => l.part = part && !l.hker && l.state = .running) &&
    !(s.nb.toList.any fun l => l.any fun r => r.part = part && r.kill.isSome) && !answersDue s part

/-- Commands of a function that have not completed are aborted, and its rings fetch no more. -/
def State.abortCmds (s : State) (fn : Fn) : State :=
  let s := s.updFn fn fun f =>
    { f with rings := f.rings.map fun (r : Ring) => if r.state = 0 then r else { r with enable := false, draining := true } }
  { s with cmdRuns := s.cmdRuns.map fun (c : CmdRun) =>
      if c.cmd.fn = fn && !c.ended then { c with state := .done csAborted 0 0 } else c }

/-! ### PDESTROY (R69, R94) -/

/-- The 2 MiB frames that DPA leaves of a partition's stage-2 tables map (R69). -/
def mappedFrames (s : State) (part : Nat) : List Nat :=
  let entry (table i : Nat) : Nat := s.peekLE 0 (table + 8 * i) 8
  let leaf (l : Leaf) : List Nat := if l.host then [] else
    (List.range ((l.size + 0x1FFFFF) / 0x200000)).map fun i => (l.base + 0x200000 * i) / 0x200000
  let inTable3 (t : Nat) : List Nat := (List.range 32).flatMap fun i =>
    match parsePte true 3 (entry t i) with
    | .leaf l => leaf l
    | _ => []
  let inTable2 (t : Nat) : List Nat := (List.range 512).flatMap fun i =>
    match parsePte true 2 (entry t i) with
    | .leaf l => leaf l
    | .table t => inTable3 t
    | _ => []
  let all := (List.range 512).flatMap fun i =>
    match parsePte true 1 (entry (partAt s part).s2root i) with
    | .leaf l => leaf l
    | .table t => inTable2 t
    | _ => []
  (all.filter fun f => ownedDpa s part (0x200000 * f)).eraseDups

/-- Zero a frame: whole lines, so no line of it stays failed (R23), and none stays in L2. -/
def State.zeroFrame (s : State) (f : Nat) : State :=
  let a := 0x200000 * f
  let inFrame (dpa : Nat) : Bool := decide (a ≤ dpa) && decide (dpa < a + 0x200000)
  { s.dropLines fun e => e.win = none && inFrame (64 * e.line) with
           mem := s.mem.zero a 0x200000, badLines := SMap.restrict s.badLines fun l => !inFrame (64 * l),
           comb := s.comb.map fun l => l.filter fun e => !inFrame e.key.dpa }

/-- The start of a destruction: launches stop, entries and near-bank runs end, pending commands abort (R69, R131,
R187). -/
def State.destroyStart (s : State) (part : Nat) : State :=
  let s := s.setRt part fun r => { r with frames := some (mappedFrames s part) }
  let s := match (⟨part % 17, by omega⟩ : Fn) with
    | fn => s.abortCmds fn
  ((s.stopLaunches part).abortEntries part).endRuns (fun r => r.part = part) 7

/-- Cycles of a core's scrub at most (R93; DESIGN CHOICE, log entry 23). -/
def scrubCycles : Nat := 3200

/-- Core-cycles of a partition's cores from their last issues to the end of their clears at a cycle (R94). A core that has
issued nothing in a launch of the partition adds none. DESIGN CHOICE: log entry 23. -/
def scrubWork (s : State) (part upTo : Nat) : Nat :=
  s.cores.toList.foldl (fun n k => match k.issuedAt with
    | some t => if k.part = part then n + (upTo - t) else n
    | none => n) 0

/-- Scrub work is charged: core-cycles to meters 2 and 0, the clearing of slices to meter 2 alone (R94). -/
def State.chargeScrub (s : State) (part cores slices : Nat) : State := (s.meter part 2 (cores + slices)).meter part 0 cores

/-- The end of a destruction: the scrub is charged, the final slate emitted, the memory zeroed, and the ownership
free (R69, R94). -/
def State.destroyEnd (s : State) (part : Nat) : State :=
  let s := s.chargeScrub part (scrubWork s part (s.cycle + scrubCycles)) 0
  let s := if (partAt s part).kind = 0 || s.sheet.last = part then s.clearSequencers part else s
  let s := ((s.dropTlbOf part).scrubQuads part).emitSlate part 3
  let s := (((s.partRt part).frames).getD []).foldl (fun s f => s.zeroFrame f) s
  let s := s.dropLines fun e => e.tag = part && e.win.isSome
  let kept := (s.partRt part).slates
  let s := s.setRt part fun _ => { PartRt.none with slates := kept }
  let s := s.updPart part fun _ => Partition.absent
  let s := { s with
    qos := s.qos.filter (·.part ≠ part), gangs := s.gangs.filter (·.part ≠ part), hdm := s.hdm.filter (·.part ≠ part),
    saved := s.saved.filter fun x => x.ctx.part ≠ part, cmds := s.cmds.filter (·.part ≠ part),
    cmdRuns := s.cmdRuns.filter fun c => c.cmd.fn.val ≠ part,
    sheet := { s.sheet with tenant := if s.sheet.tenant = part then 0 else s.sheet.tenant,
                            last := if s.sheet.last = part then 0 else s.sheet.last } }
  s.updFn ⟨part % 17, by omega⟩ fun f => { f with rings := Vector.replicate 64 Ring.reset }

/-- PDESTROY: it starts, and completes once the launches have stopped; until then it stays running and is taken up
again. -/
def execPdestroy (s : State) : Host.Outcome State Fault Refusal :=
  .next (s.command .pf [(8, 1)] fun c =>
    let part := c.field 8 1
    if part = 0 || 16 < part || !(partAt s part).exists_ then s.cmdDone c csBadField 0 0
    else
      let s := if (s.partRt part).frames.isNone then s.destroyStart part else s
      if partQuiet s part then (s.destroyEnd part).cmdDone c csOk 0 0 else s)

/-! ### Function-level resets (R70) -/

/-- The rings of a function are disabled and their blocks zeroed; nothing completes. -/
def State.resetRings (s : State) (fn : Fn) : State :=
  let s := s.updFn fn fun f => { f with rings := Vector.replicate 64 Ring.reset }
  { s with cmdRuns := s.cmdRuns.filter fun c => c.cmd.fn ≠ fn,
           launches := s.launches.map fun l => match l.cmd with
             | some c => if c.fn = fn then { l with cmd := none } else l
             | none => l }

/-- FLR_VF: the launches stop; once they have, every handle is dropped. -/
def execFlrVf (vf : Fin 16) (s : State) : Host.Outcome State Fault Refusal :=
  let part := partNo vf
  let s :=
    if (s.partRt part).isReset then s
    else
      let s := s.resetRings ⟨part % 17, by omega⟩
      let s := s.setRt part fun r => { r with isReset := true, lperm := [] }
      let leave (d : GangDef) : GangDef := if d.part = part then { d with withdrawn := true } else d
      let s := { s with gangs := s.gangs.map leave }
      (s.stopLaunches part).abortEntries part
  .next (if partQuiet s part then
      (s.updPart part fun p => { p with kernels := [] }).setRt part fun r => { r with isReset := false }
    else s)

/-- FLR_PF0: every partition is destroyed; a partition whose launches still run is taken up again by a PDESTROY of
no ring. The boot counter and PWR_CAP stay (R11, R70). -/
def execFlrPf0 (s : State) : Host.Outcome State Fault Refusal :=
  let s := s.resetRings 0
  .next ((List.finRange 16).foldl (fun s p =>
    let part := partNo p
    if !(partAt s part).exists_ then s
    else
      let s := if (s.partRt part).frames.isNone then s.destroyStart part else s
      if partQuiet s part then s.destroyEnd part else s) s)

/-! ### PSET (R82, R88) -/

/-- A PSET: its SUB and VF, then its own course. -/
def State.pset (s : State) (used : List (Nat × Nat)) (k : Cmd → Nat → State) : State :=
  s.command .pf ([(8, 1), (9, 1)] ++ used) fun c =>
    let part := c.field 9 1
    if part = 0 || 16 < part || !(partAt s part).exists_ then s.cmdDone c csBadField 0 0 else k c part

/-- No access of the partition that used a translation is still under way, and no near-bank run is still to end
(R88, R190). -/
def xlateQuiet (s : State) (part : Nat) : Bool :=
  !(s.memq.any fun o => o.part = part && !o.onPath && o.result.isNone) &&
    !(s.nb.toList.any fun l => l.any fun r => r.part = part && r.kill.isSome)

/-- Every translation of the partition leaves the TLBs and walkers, which covers the range named; near-bank runs that
rest on the range end; parked commands may try again (R88-R90, R190). -/
def State.invalidate (s : State) (part lo hi : Nat) : State :=
  ((s.dropTlbOf part).endRuns (fun r => r.restsOn part lo hi) 4).unpark part

/-- S2INV: it completes once no access that used an old translation is under way. -/
def execPsetS2inv (s : State) : Host.Outcome State Fault Refusal :=
  .next (s.pset [(16, 8), (24, 8)] fun c part =>
    let base := c.field 16 8
    let len := c.field 24 8
    if base % 65536 ≠ 0 || len % 65536 ≠ 0 then s.cmdDone c csBadField 0 0
    else
      let s := if len = 0 then s.invalidate part 0 (2 ^ 39) else s.invalidate part base (base + len)
      if xlateQuiet s part then s.cmdDone c csOk 0 0 else s)

def execPsetS2root (s : State) : Host.Outcome State Fault Refusal :=
  .next (s.pset [(16, 8)] fun c part =>
    let root := c.field 16 8
    if root % 4096 ≠ 0 || 2 ^ 39 ≤ root then s.cmdDone c csBadField 0 0
    else
      let s := (s.updPart part fun p => { p with s2root := root }).invalidate part 0 (2 ^ 39)
      if xlateQuiet s part then s.cmdDone c csOk 0 0 else s)

/-- QOS applies from the next window boundary. -/
def execPsetQos (s : State) : Host.Outcome State Fault Refusal :=
  .next (s.pset [(10, 1), (12, 4), (16, 2)] fun c part =>
    if !qosOk (c.field 10 1) (c.field 12 4) (c.field 16 2) then s.cmdDone c csBadField 0 0
    else (s.setRt part fun r =>
      { r with qosNext := some (c.field 10 1 = 1, c.field 12 4, c.field 16 2) }).cmdDone c csOk 0 0)

/-- WAYMASK: the old designated ways are cleared (R90). -/
def execPsetWaymask (s : State) : Host.Outcome State Fault Refusal :=
  .next (s.pset [(10, 2)] fun c part =>
    let m := c.field 10 2
    if m = 0 || 4096 ≤ m then s.cmdDone c csBadField 0 0
    else
      let old := partAt s part
      let s := s.updPart part fun p => { p with waymask := BitVec.ofNat 16 m }
      (s.startClear part old.slices old.waymask).cmdDone c csOk 0 0)

def execPsetWindow (s : State) : Host.Outcome State Fault Refusal :=
  .next (s.pset [(10, 1), (16, 8), (24, 8)] fun c part =>
    let r : Range := ⟨c.field 16 8, c.field 24 8⟩
    if 8 ≤ c.field 10 1 || !rangesOk [r] 4096 (2 ^ 63) false then s.cmdDone c csBadField 0 0
    else (s.updPart part fun p => { p with iova := setAt p.iova (c.field 10 1) r }).cmdDone c csOk 0 0)

def execPsetDrange (s : State) : Host.Outcome State Fault Refusal :=
  .next (s.pset [(10, 1), (16, 8), (24, 8)] fun c part =>
    let r : Range := ⟨c.field 16 8, c.field 24 8⟩
    if 8 ≤ c.field 10 1 || !rangesOk (setAt (partAt s part).dranges (c.field 10 1) r) 0x200000 (2 ^ 39) true then
      s.cmdDone c csBadField 0 0
    else (s.updPart part fun p => { p with dranges := setAt p.dranges (c.field 10 1) r }).cmdDone c csOk 0 0)

def execPsetPmbase (s : State) : Host.Outcome State Fault Refusal :=
  .next (s.pset [(16, 8)] fun c part =>
    let a := c.field 16 8
    if a % 4096 ≠ 0 || 2 ^ 39 ≤ a then s.cmdDone c csBadField 0 0
    else (s.updPart part fun p => { p with pmbase := a }).cmdDone c csOk 0 0)

/-! ### Windows of quality of service, and designated ways (R90-R92) -/

/-- A critical partition missed its target at a channel in this window. -/
def missedAt (s : State) (ch : Fin 256) : Bool :=
  s.qos.any fun q => q.chan = ch && (partAt s q.part).critical && decide (q.reads < 100 * q.late)

/-- A partition's PSET QOS takes effect: with it the class, TARGET, RATE, and the current rate. -/
def State.applyQos (s : State) (part : Nat) : State :=
  match (s.partRt part).qosNext with
  | none => s
  | some (crit, target, rate) =>
    let s := s.updPart part fun p => { p with critical := crit, target := target, rate := rate }
    s.setRt part fun r => { r with qosNext := none }

/-- QOS_WINDOW_END at a channel (R92): the rates change by what the window showed. Windows are aligned on all
channels and end in their order, so new settings take effect with the last one (R82). With them the current rate of a
best-effort partition is at most the new RATE at once, and one that has been critical starts at RATE with its bucket as it
stands: the manual gives no such step. DESIGN CHOICE: log entry 22. -/
def execQosWindowEnd (channel : Fin 256) (s : State) : Host.Outcome State Fault Refusal :=
  let missed := missedAt s channel
  let step (q : QosCount) : QosCount :=
    if q.chan ≠ channel then q
    else if (partAt s q.part).critical then { q with reads := 0, late := 0 }
    else
      let q := q.fillTo s.cycle
      let rate := (partAt s q.part).rate
      { q with rc := if missed then max (q.rc / 2) 1 else min (q.rc + 32) rate }
  let s := { s with qos := s.qos.map step }
  if channel ≠ 255 then .next s
  else
    let s := (List.finRange 16).foldl (fun s p => s.applyQos (partNo p)) s
    let fix (q : QosCount) : QosCount :=
      let p := partAt s q.part
      if p.critical then { q with rc := 0 } else { q with rc := if q.rc = 0 then p.rate else min q.rc p.rate }
    .next { s with qos := s.qos.map fix }

/-- A slice whose clearing has come to its end. -/
def clearDue (s : State) (part : Nat) (slice : Fin 128) : Bool :=
  (s.partRt part).clearing.getLsbD slice.val && decide ((s.partRt part).clearAt ≤ s.cycle)

/-- DESIGNATED_WAYS_CLEARED: a slice has cleared a partition's designated ways (R90). -/
def execDesignatedWaysCleared (part : Fin 16) (slice : Fin 128) (s : State) : Host.Outcome State Fault Refusal :=
  let p := partNo part
  if !clearDue s p slice then .next s
  else
    let r := s.partRt p
    let one := BitVec.ofNat 128 (2 ^ slice.val)
    let left := r.clearing &&& ~~~one
    .next ((s.clearSlices p one r.clearWays).setRt p fun r =>
      { r with clearing := left, clearWays := if left = 0 then 0 else r.clearWays })

end Sys2Proof.Machine
end

