-- ==== Sys2Proof/Machine/Vote.lean ====
section
/-! DEFINITION. The call sheet, gang votes, levelling, and the swap (R106-R116, R311). -/

namespace Sys2Proof.Machine

/-! ### Cells (R107, R109) -/

/-- The value of a cell for the single-module launches of a VF. -/
def singleCell (part : Nat) : BitVec 32 := BitVec.ofNat 32 (0x80000000 + part)

def isSingle (g : BitVec 32) : Bool := decide (0x80000000 ≤ g.toNat)

def slotAt (s : State) (i : Nat) : SheetSlot := s.sheet.slots[Fin.ofNat 16 i]

def State.setSlot (s : State) (i : Nat) (f : SheetSlot → SheetSlot) : State :=
  { s with sheet := { s.sheet with slots := s.sheet.slots.set (Fin.ofNat 16 i) (f (slotAt s i)) } }

/-- The slot after the current one. -/
def nextSlot (s : State) : Nat := (s.sheet.slot + 1) % 16

/-- A gang has finished here: no launch of it is queued, out or running, and one has completed (R109). -/
def gangDone (s : State) (d : GangDef) : Bool :=
  d.finished && !(s.launches.any fun l => l.part = d.part && l.gang = d.gang && l.state ≠ .done)

/-- What a cell names, unless it is idle (R109): partition and gang. A cell whose gang or partition is gone names
nothing. -/
def cellGang (s : State) (part : Nat) (g : BitVec 32) : Option (Nat × BitVec 32) :=
  if g = 0 || !(partAt s part).exists_ then none
  else if isSingle g then some (part, g)
  else match s.gangDef part g with
    | some d => if gangDone s d then none else some (part, g)
    | none => none

/-- The filler of an idle cell (R109): queued, of the highest rank, then of the lowest identifier. -/
def filler (s : State) : Option (Nat × BitVec 32) :=
  let cs := s.gangs.filter fun d => d.gang ≠ 0 && d.fill ≠ 0 && !gangDone s d &&
    s.launches.any fun l => l.part = d.part && l.gang = d.gang && l.state = .queued
  let top := cs.foldl (fun m d => max m d.fill) 0
  let cs := cs.filter fun d => d.fill = top
  let low := cs.foldl (fun m d => min m d.gang.toNat) (2 ^ 32)
  (cs.find? fun d => d.gang.toNat = low).map fun d => (d.part, d.gang)

/-- What the next slot's cell will name: its own gang, or a filler; true for a filler. -/
def nextCell (s : State) : Option (Nat × BitVec 32) × Bool :=
  let c := slotAt s (nextSlot s)
  match cellGang s c.nextPart c.nextGang with
  | some x => (some x, false)
  | none => match filler s with
    | some x => (some x, true)
    | none => (none, false)

/-! ### Who takes part (R110, R111) -/

/-- Launches that hold the module's sliced quads. -/
def holders (s : State) : List Launch :=
  s.launches.filter fun l => !l.hker && l.state = .running && sliced s l.part

/-- The cell value under which a launch holds its quads. -/
def holdsAs (l : Launch) : BitVec 32 := if l.gang = 0 then singleCell l.part else l.gang

/-- Partitions and gangs that would leave for an incoming cell. -/
def leavers (s : State) (inc : Option (Nat × BitVec 32)) : List (Nat × BitVec 32) :=
  (((holders s).filter fun l => inc ≠ some (l.part, holdsAs l)).map fun l => (l.part, l.gang)).eraseDups

/-- The launch of a gang that is not done. -/
def gangLaunch (s : State) (part : Nat) (g : BitVec 32) : Option Launch :=
  s.launches.find? fun l => l.part = part && l.gang = g && l.state ≠ .done

/-- Modules of a gang, as its launch here names them. -/
def gangModules (s : State) (part : Nat) (g : BitVec 32) : List Nat :=
  if g = 0 || isSingle g then []
  else match gangLaunch s part g with
    | some l => l.members.map (·.1)
    | none => []

/-- Ascending, without repeats. -/
def sortNats (l : List Nat) : List Nat := (l.eraseDups).mergeSort (fun a b => decide (a ≤ b))

/-- The vote group that this module knows of (R110): the members of the gangs that it takes on or gives up. -/
def knownGroup (s : State) (inc : Option (Nat × BitVec 32)) : List Nat :=
  let gs := leavers s inc ++ inc.toList
  sortNats (selfMod s :: gs.flatMap fun (e : Nat × BitVec 32) => gangModules s e.1 e.2)

/-! ### Votes -/

/-- A vote of a gang of a fixed partition (R108). -/
def Vote.fixed (s : State) (v : Vote) : Bool := v.part ≠ 0 && !isSingle v.incoming && !sliced s v.part

/-- The vote of the call sheet that is under way. -/
def sheetVote (s : State) : Option Vote := s.votes.find? fun v => !v.fixed s && v.state ≠ .done

def Vote.is (a b : Vote) : Bool :=
  a.slot = b.slot && a.round = b.round && a.part = b.part && a.incoming = b.incoming && a.since = b.since

def State.setVote (s : State) (v : Vote) : State :=
  { s with votes := s.votes.map fun w => if w.is v then v else w }

def State.dropVote (s : State) (v : Vote) : State := { s with votes := s.votes.filter fun w => !w.is v }

def Vote.others (s : State) (v : Vote) : List Nat := v.group.filter (· ≠ selfMod s)

/-- The level tree (R110). -/
def Vote.place (s : State) (v : Vote) : Nat := indexIn v.group (selfMod s)
def Vote.root (v : Vote) : Nat := v.group.headD 0
def Vote.isRoot (s : State) (v : Vote) : Bool := v.place s = 0
def Vote.parent (s : State) (v : Vote) : Nat := v.group.getD ((v.place s - 1) / 2) 0
def Vote.kids (s : State) (v : Vote) : List Nat :=
  ([2 * v.place s + 1, 2 * v.place s + 2].filter fun i => decide (i < v.group.length)).map fun i => v.group.getD i 0

def phPrepare : Nat := 0
def phOk : Nat := 1
def phRefuse : Nat := 2
def phCommit : Nat := 3
def phAbort : Nat := 4
def phCommitted : Nat := 5

def rfNonpreempt : Nat := 1
def rfHfault : Nat := 2
def rfResources : Nat := 3
def rfSheet : Nat := 4
def rfAbsent : Nat := 5

/-- A VOTE packet (R110). -/
def State.sendVote (s : State) (dst slot : Nat) (round : Bool) (phase reason : Nat) (g : BitVec 32) : State :=
  s.sendControl (ctlOf s 0x10 dst (slot + 2 ^ 4 * phase + 2 ^ 7 * round.toNat + 2 ^ 8 * reason) g.toNat)

def State.tell (s : State) (v : Vote) (to_ : List Nat) (phase reason : Nat) : State :=
  to_.foldl (fun s m => s.sendVote m v.slot v.round phase reason v.incoming) s

/-- A LEVEL packet: a request, or one sum of a report (R110). -/
def State.sendLevel (s : State) (dst sweep : Nat) (received down : Bool) (sum : Nat) : State :=
  s.sendControl (ctlOf s 0x11 dst (sweep % 4096 + 2 ^ 12 * received.toNat + 2 ^ 13 * down.toNat) sum)

/-! ### The module's own check (R111) -/

/-- Launches that leave in a vote. -/
def Vote.leaving (s : State) (v : Vote) : List Launch :=
  s.launches.filter fun l => !l.hker && l.state = .running && v.outgoing.contains (l.part, l.gang)

/-- A core of an outgoing gang runs its handler. -/
def handlerRuns (s : State) (v : Vote) : Bool :=
  (v.leaving s).any fun l => l.gang ≠ 0 && (coresOf l.quads).any fun c =>
    (s.coreAt c).launch = some l.id && (s.coreAt c).run = .running && (s.coreAt c).level ≠ (s.coreAt c).base

/-- A cause for H that a core of the partition has still to raise. -/
def hPending (s : State) (part : Nat) : Bool :=
  s.cores.toList.any fun k => k.part = part && k.run = .running &&
    (k.late.any (fun e => e.1.cls = .toH) || k.loads.any fun l => match l.err with
      | some c => c.cls = .toH
      | none => false)

/-- The incoming gang's launch is queued or switched out, its quads are free once the outgoing contexts have left, and
the module has not withdrawn from the gang. -/
def resourcesReady (s : State) (v : Vote) : Bool :=
  if v.incoming = 0 || isSingle v.incoming then true
  else
    let left := (v.leaving s).flatMap (·.quads)
    let free := (ownedQuads (partAt s v.part).quads).filter fun q => !busyQuad s q || left.contains q
    match s.gangDef v.part v.incoming, gangLaunch s v.part v.incoming with
    | some d, some l =>
      !d.withdrawn && (if l.state = .out then l.quads.all free.contains
        else l.state = .queued && (placeQuads free l.nquads).isSome)
    | _, _ => false

def ownCheck (s : State) (v : Vote) : Option Nat :=
  if handlerRuns s v then some rfNonpreempt
  else if v.outgoing.any fun o => hPending s o.1 then some rfHfault
  else if !resourcesReady s v then some rfResources
  else none

/-! ### Abort, levelling and commit (R111, R112) -/

/-- The partition from whose hands the sliced quads pass at a vote's swap (R93). -/
def switches (s : State) (v : Vote) : Option Nat :=
  let old := s.sheet.last
  if v.fixed s || v.part = 0 || old = 0 || old = v.part then none else some old

/-- Back to RUN: a stop that has been asked for is withdrawn, a stopped core issues again, and the current gangs keep the
slot. Held packets leave again by PACKET_INJECT. The vote for a gang of a fixed partition is held again 100 us later. DESIGN
CHOICE: log entry 17. -/
def State.backToRun (s : State) (v : Vote) : State :=
  let ls := (v.leaving s).map (·.id)
  let later : Bool := v.fixed s
  let kept (l : Launch) : Launch :=
    if ls.contains l.id then { l with haltAt := none }
    else if later && l.part = v.part && l.gang = v.incoming then { l with voteAt := s.cycle + 160000 } else l
  let s := { s with launches := s.launches.map kept }
  let back (k : Core) : Core :=
    match k.launch with
    | some id => if !ls.contains id then k
        else if k.run = .stopped then { k with run := .running, stop := none, wait := none }
        else if k.stop = some .save then { k with stop := none } else k
    | none => k
  let s := { s with cores := s.cores.map back }
  let s := if v.fixed s then s else s.setSlot v.slot fun c => { c with filled := false }
  s.dropVote v

def State.abortVote (s : State) (v : Vote) (send : Bool) (reason : Nat) : State :=
  (if send then s.tell v (v.others s) phAbort reason else s).backToRun v

/-- Own cores of the outgoing gangs have halted. -/
def Vote.halted (s : State) (v : Vote) : Bool := (v.leaving s).all fun l => launchHalted s l

/-- A sweep reaches the module and goes on down the tree (R110); a module that is not the root counts its 2 ms anew (R112). -/
def State.startSweep (s : State) (v : Vote) (n : Nat) : State :=
  let s := s.setVote { v with stalled := v.stalled && v.isRoot s, sweep := n, asked := true, sweepAt := s.cycle, reports := [],
                              reported := v.reported.map fun _ => s.cycle }
  (v.kids s).foldl (fun s k => s.sendLevel k n false true 0) s

/-- Swapping: COMMIT goes down the tree; where the partitions differ the designated ways begin to be cleared, and the scrub's
work is charged: its cores are clear 3,906 cycles after the commit (R90, R93, R94, R106, R111). -/
def State.commitVote (s : State) (v : Vote) : State :=
  let s := s.tell v (v.kids s) phCommit 0
  let s := s.setVote { v with state := .swapping, swapAt := s.cycle, resent := s.cycle, committed := [selfMod s] }
  match switches s v with
  | none => s
  | some old =>
    let p := partAt s old
    let shared := p.slices &&& (partAt s v.part).slices
    let ways := (List.range 12).countP fun w => p.waymask.getLsbD w
    let slices := (List.range 128).countP fun i => shared.getLsbD i
    (s.startClear old shared p.waymask).chargeScrub old (scrubWork s old (s.cycle + 3906)) (2048 * ways * slices)

/-- LEVELLING: stops are requested; the root starts its sweeps. A fixed partition's gang needs none (R108). -/
def State.level (s : State) (v : Vote) : State :=
  let v := { v with state := .levelling }
  let s := (v.leaving s).foldl (fun s l => s.requestStop l.id .save) (s.setVote v)
  if !v.isRoot s then s else if v.fixed s then s.commitVote v else s.startSweep v 1

/-- The incoming gang's launch is not queued here, so that its members are not known (R109): they make themselves known by
their PREPAREs. -/
def Vote.alone (s : State) (v : Vote) : Bool :=
  v.incoming ≠ 0 && !isSingle v.incoming && (gangLaunch s v.part v.incoming).isNone

/-- What a module in PREPARED does after an arrival or a check (R111). -/
def State.decide (s : State) (v : Vote) : State :=
  if v.state ≠ .prepared || v.refused.isSome then s
  else
    let others := v.others s
    match if v.sentOk then none else ownCheck s v with
    | some r =>
      let s := (s.tell v others phRefuse r).setVote { v with refused := some r }
      if others.isEmpty && !v.alone s then s.abortVote { v with refused := some r } false 0 else s
    | none =>
      if !(others.all v.prepares.contains) then s
      else
        let s := if v.sentOk then s else s.tell v others phOk 0
        let v := { v with sentOk := true }
        if others.all v.oks.contains then s.level v else s.setVote v

/-- A PREPARE against the module's own cell (R111). One group may take on several gangs (R402), so a gang is compared
where it is declared here. -/
def prepareFits (s : State) (v : Vote) (g : BitVec 32) : Bool :=
  g = 0 || isSingle g || v.incoming = g || !(s.gangs.any fun d => d.gang = g)

/-- A PREPARE of a member reaches the vote. -/
def State.takePrepare (s : State) (v : Vote) (src : Nat) (g : BitVec 32) : State :=
  let v := { v with prepares := if v.prepares.contains src then v.prepares else v.prepares ++ [src] }
  let s := s.setVote v
  if v.state = .prepared && !v.sentOk && v.refused.isNone && !prepareFits s v g then
    (s.tell v (v.others s) phRefuse rfSheet).setVote { v with refused := some rfSheet }
  else s.decide v

/-- PREPARED: PREPARE goes to the group, and incoming contexts are staged (R106, R111). A gang that is to start counts its
packets from zero (R110). PREPAREs that came early are taken up. -/
def State.prepare (s : State) (slot : Nat) (group : List Nat) (inc : Option (Nat × BitVec 32))
    (outgoing : List (Nat × BitVec 32)) (round : Bool) (early : List (Nat × BitVec 32)) : State :=
  let v : Vote :=
    { slot := slot, round := round, group := group, part := (inc.map (·.1)).getD 0, incoming := (inc.map (·.2)).getD 0,
      outgoing := outgoing, state := .prepared, since := s.cycle, prepares := [], oks := [], sentOk := false,
      refused := none, sweep := 0, asked := false, sweepAt := 0, reports := [], last := none, firstAt := none,
      haltAt := none, reported := none, swapAt := 0, resent := 0, committed := [], stalled := false }
  let kept := s.votes.filter fun w => w.state ≠ .done || (w.isRoot s && !(w.group.all w.committed.contains))
  let s := { s with votes := kept ++ [v] }
  let s := if (gangLaunch s v.part v.incoming).any (·.state = .queued) then
      s.mapGang v.part v.incoming fun d => { d with sent := 0, received := 0 }
    else s
  let s := s.tell v (v.others s) phPrepare 0
  let stage := s.saved.filter fun x => s.launches.any fun l => l.id = x.launch && l.part = v.part && l.state = .out &&
    (if isSingle v.incoming then l.gang = 0 && l.swapped else l.gang = v.incoming)
  let s := stage.foldl (fun s x => s.stageCtx x) s
  let find (s : State) : Option Vote := s.votes.find? (·.is v)
  let s := early.foldl (fun s e => match find s with
    | some v => if v.group.contains e.1 then s.takePrepare v e.1 e.2 else s
    | none => s) s
  match find s with
  | some v => s.decide v
  | none => s

/-! ### SLOT_BOUNDARY (R107-R111) -/

/-- A queued gang launch of a fixed partition with no vote held for it yet (R108). -/
def fixedDue (s : State) : Option Launch :=
  s.launches.find? fun l => l.gang ≠ 0 && !l.hker && l.state = .queued && decide (l.voteAt ≤ s.cycle) && !sliced s l.part &&
    !(s.votes.any fun v => v.state ≠ .done && v.part = l.part && v.incoming = l.gang)

/-- A vote for a gang of a fixed partition: no outgoing gang (R108). -/
def State.fixedVote (s : State) (l : Launch) (early : List (Nat × BitVec 32)) : State :=
  s.prepare 0 (sortNats (selfMod s :: l.members.map (·.1))) (some (l.part, l.gang)) [] false early

/-- The sheet's slot ends here. -/
def slotOver (s : State) : Bool :=
  s.sheet.running && (sheetVote s).isNone &&
    decide (s.sheet.began + 1600 * (slotAt s s.sheet.slot).micros ≤ s.cycle)

/-- Change the partition whose contexts are on the sliced quads: waits are counted only while it holds cells (R97). -/
def State.setTenant (s : State) (part : Nat) : State :=
  let old := s.sheet.tenant
  if old = part then s
  else
    let turn (l : Launch) : Launch :=
      if l.state = .running || !l.waits then l
      else if l.part = old then { l with waited := waitedCycles s l, since := s.cycle }
      else if l.part = part then { l with since := s.cycle } else l
    { s with launches := s.launches.map turn
             sheet := { s.sheet with tenant := part, last := if part = 0 then s.sheet.last else part } }

/-- What the tenant has held is counted, and nothing of it stays resident. -/
def State.leaveTenant (s : State) : State :=
  let s := s.chargeHold
  let old := s.sheet.tenant
  if old = 0 then s else s.setRt old fun r => { r with resident := none }

/-- An idle slot after one whose holder has ended: no partition holds the sliced quads. -/
def State.vacate (s : State) : State := s.leaveTenant.setTenant 0

/-- PREPAREs of modules with which this one has nothing to vote on are refused (R109, R111). -/
def State.refuseAll (s : State) (slot : Nat) (round : Bool) (ms : List (Nat × BitVec 32)) : State :=
  ms.foldl (fun s m => s.sendVote m.1 slot round phRefuse rfSheet 0) s

/-- A PREPARE that an idle cell agrees with: it names no gang of this module's (R110, R111). -/
def fitsIdle (s : State) (m : Nat × BitVec 32) : Bool := m.2 = 0 || !(s.gangs.any fun d => d.gang = m.2)

/-- Slot `n` begins at a cycle with what its cell names; where nothing changes hands no vote is held of its own. PREPAREs
that came early are taken up, or refused. -/
def State.openSlot (s : State) (n began : Nat) (round : Bool) (group : List Nat) : State :=
  let (inc, filled) := nextCell { s with sheet := { s.sheet with slot := (n + 15) % 16 } }
  let s := s.setSlot n fun c => { c with gang := c.nextGang, part := c.nextPart, micros := c.nextMicros, filled := filled }
  let early := s.sheet.early
  let s := { s.chargeHold with sheet := { s.chargeHold.sheet with slot := n, began := began, round := round, early := [] } }
  let out := leavers s inc
  let held := match inc with
    | some (p, g) => (s.sheet.tenant = p && (s.partRt p).resident = some (if isSingle g then 0 else g)) &&
        (isSingle g || (holders s).any fun l => l.part = p && l.gang = g)
    | none => true
  if out.isEmpty && inc.isNone then
    let s := s.vacate.refuseAll n round (early.filter fun m => !fitsIdle s m)
    let fit := early.filter (fitsIdle s)
    if fit.isEmpty then s else s.prepare n (sortNats (selfMod s :: fit.map (·.1))) none [] round fit
  else if held && out.isEmpty then s.refuseAll n round early
  else s.prepare n (sortNats (selfMod s :: group ++ early.map (·.1) ++ knownGroup s inc)) inc out round early

/-- SLOT_BOUNDARY: the end of a slot, or the start of a fixed partition's gang vote where one is due. `group` is the
vote group of R110, of which a module knows its own gangs' members. -/
def execSlotBoundary (group : List Nat) (s : State) : Host.Outcome State Fault Refusal :=
  if slotOver s then
    if s.sheet.stopping then .next { s with sheet := { s.sheet with running := false, stopping := false } }
    else
      let n := nextSlot s
      .next (s.openSlot n (s.sheet.began + 1600 * (slotAt s s.sheet.slot).micros)
        (if n = 0 then !s.sheet.round else s.sheet.round) group)
  else match fixedDue s with
    | some l => .next (s.fixedVote l [])
    | none => .next s

/-! ### VOTE packets (R110-R112) -/

/-- A control packet of a type for this module, and whole (R32). -/
def ctlHere (s : State) (c : Control) (ctype : BitVec 8) : Bool :=
  c.ctype = ctype && c.dst.toNat = selfMod s && c.cccOk

/-- Control packets for this module whose CCC fails are dropped and counted for their port (R32). -/
def State.countBad (s : State) (ctype : BitVec 8) : State :=
  [s.inp.ctl, s.inp.ctl2].foldl (fun s c =>
    if c.ctype = ctype ∧ c.dst.toNat = selfMod s ∧ !c.cccOk then s.countDrop (arrivalPort s c) else s) s

/-- The fields of a VOTE packet for this module. -/
structure VoteMsg where
  src    : Nat
  slot   : Nat
  phase  : Nat
  round  : Bool
  reason : Nat
  gang   : BitVec 32
  deriving DecidableEq, Repr

def voteMsg (s : State) (phase : Nat) : Option VoteMsg :=
  let c := s.inp.ctl
  let a := c.arg16.toNat
  if ctlHere s c 0x10 && bitsOf a 4 3 = phase then
    some ⟨c.src.toNat, bitsOf a 0 4, phase, a.testBit 7, bitsOf a 8 8, c.arg32⟩
  else none

/-- The gang of a packet belongs to a fixed partition here. -/
def fixedGang (s : State) (g : BitVec 32) : Option GangDef :=
  if g = 0 then none else s.gangs.find? fun d => d.gang = g && !sliced s d.part

/-- The vote that a packet belongs to: of the fixed gang it names, or of its slot and round. -/
def voteOf (s : State) (m : VoteMsg) (done : Bool) : Option Vote :=
  let here (v : Vote) : Bool := v.group.contains m.src && decide ((v.state = .done) = (done = true))
  if (fixedGang s m.gang).isSome then s.votes.find? fun v => here v && v.fixed s && v.incoming = m.gang
  else s.votes.find? fun v => here v && !v.fixed s && v.slot = m.slot && v.round = m.round

/-- A PREPARE from a module that this one did not know of as one of the group: the group grows by it (R110), and it hears
what the others have heard. -/
def State.joinVote (s : State) (v : Vote) (m : VoteMsg) : State :=
  let v := { v with group := sortNats (m.src :: v.group) }
  let s := (s.setVote v).tell v [m.src] phPrepare 0
  let s := match v.refused with
    | some r => s.tell v [m.src] phRefuse r
    | none => s
  s.takePrepare v m.src m.gang

/-- A PREPARE for the slot that stands open here, idle and with nothing on the quads, that names no gang of this module's: a
member of a gang that ended here takes part (R110). -/
def idleHere (s : State) (m : VoteMsg) : Bool :=
  s.sheet.running && (sheetVote s).isNone && m.slot = s.sheet.slot && m.round = s.sheet.round && s.sheet.tenant = 0 &&
    (holders s).isEmpty && fitsIdle s (m.src, m.gang)

/-- VOTE_PHASE_PREPARE. One that comes before the module's own boundary is kept for it; one for another slot is
refused. -/
def execVotePhasePrepare (s : State) : Host.Outcome State Fault Refusal :=
  let s := s.countBad 0x10
  match voteMsg s phPrepare with
  | none => .next s
  | some m =>
    let refuse (why : Nat) : State := s.sendVote m.src m.slot m.round phRefuse why 0
    match voteOf s m false with
    | some v => .next (s.takePrepare v m.src m.gang)
    | none => match fixedGang s m.gang with
      | some d => match gangLaunch s d.part m.gang with
        | some l =>
          if l.state = .queued then .next (s.fixedVote l [(m.src, m.gang)])
          else .next (s.sendVote m.src m.slot m.round phRefuse rfResources m.gang)
        | none => .next (s.sendVote m.src m.slot m.round phRefuse rfResources m.gang)
      | none =>
        let n := nextSlot s
        match (sheetVote s).filter fun v => v.state = .prepared && !v.sentOk && v.slot = m.slot && v.round = m.round with
        | some v => .next (s.joinVote v m)
        | none =>
        if s.sheet.running && (sheetVote s).isNone && m.slot = n &&
            (m.round = if n = 0 then !s.sheet.round else s.sheet.round) then
          .next { s with sheet := { s.sheet with early := s.sheet.early ++ [(m.src, m.gang)] } }
        else if idleHere s m then .next (s.prepare m.slot (sortNats [selfMod s, m.src]) none [] m.round [(m.src, m.gang)])
        else .next (refuse rfSheet)

/-- VOTE_PHASE_OK. -/
def execVotePhaseOk (s : State) : Host.Outcome State Fault Refusal :=
  let s := s.countBad 0x10
  match (voteMsg s phOk).bind fun m => (voteOf s m false).map fun v => (m, v) with
  | some (m, v) =>
    let v := { v with oks := if v.oks.contains m.src then v.oks else v.oks ++ [m.src] }
    .next ((s.setVote v).decide v)
  | none => .next s

/-- VOTE_PHASE_REFUSE: acted on only in PREPARED; nothing can withdraw an OK later. -/
def execVotePhaseRefuse (s : State) : Host.Outcome State Fault Refusal :=
  let s := s.countBad 0x10
  match (voteMsg s phRefuse).bind fun m => (voteOf s m false).map fun v => (m, v) with
  | some (m, v) => .next (if v.state = .prepared then s.abortVote v true m.reason else s)
  | none => .next s

/-- VOTE_PHASE_ABORT. -/
def execVotePhaseAbort (s : State) : Host.Outcome State Fault Refusal :=
  let s := s.countBad 0x10
  match (voteMsg s phAbort).bind fun m => voteOf s m false with
  | some v => .next (if v.state = .swapping then s else s.abortVote v false 0)
  | none => .next s

/-- VOTE_PHASE_COMMIT. One that is repeated after the swap is answered again. -/
def execVotePhaseCommit (s : State) : Host.Outcome State Fault Refusal :=
  let s := s.countBad 0x10
  match voteMsg s phCommit with
  | none => .next s
  | some m =>
    match voteOf s m false with
    | some v =>
      if v.state = .levelling || (v.state = .prepared && v.sentOk) then .next (s.commitVote v) else .next s
    | none => match voteOf s m true with
      | some v => .next (s.tell v [m.src] phCommitted 0)
      | none => .next s

/-- VOTE_PHASE_COMMITTED: the root notes the answer. -/
def execVotePhaseCommitted (s : State) : Host.Outcome State Fault Refusal :=
  let s := s.countBad 0x10
  match (voteMsg s phCommitted).bind fun m =>
      ((voteOf s m false).orElse fun _ => voteOf s m true).map fun v => (m, v) with
  | some (m, v) =>
    .next (if v.committed.contains m.src then s else s.setVote { v with committed := v.committed ++ [m.src] })
  | none => .next s

/-- A vote in PREPARED has waited 100 us for some module (R111). -/
def absentDue (s : State) : Option Vote :=
  s.votes.find? fun v => v.state = .prepared && decide (v.since + 160000 ≤ s.cycle)

/-- VOTE_ABSENT. -/
def execVoteAbsent (s : State) : Host.Outcome State Fault Refusal :=
  match absentDue s with
  | some v => .next (s.abortVote v true rfAbsent)
  | none => .next s

/-! ### Sweeps (R110, R112) -/

/-- LEVEL_REQUEST: from the parent, down the tree. A later request restarts the count of R112. -/
def execLevelRequest (s : State) : Host.Outcome State Fault Refusal :=
  let s := s.countBad 0x11
  let c := s.inp.ctl
  match sheetVote s with
  | some v =>
    if ctlHere s c 0x11 && c.arg16.getLsbD 13 && !v.isRoot s && c.src.toNat = v.parent s &&
        (v.state = .levelling || (v.state = .prepared && v.sentOk)) then
      .next (s.startSweep v (bitsOf c.arg16.toNat 0 12))
    else .next s
  | none => .next s

/-- One sum of a child's report. -/
def Vote.noteSum (s : State) (v : Vote) (c : Control) : Vote :=
  let src := c.src.toNat
  let old := (v.reports.find? fun r => r.1 = src).getD (src, none, none)
  let new : Nat × Option Nat × Option Nat :=
    if c.arg16.getLsbD 12 then (src, old.2.1, some c.arg32.toNat) else (src, some c.arg32.toNat, old.2.2)
  if ctlHere s c 0x11 && !c.arg16.getLsbD 13 && (v.kids s).contains src && bitsOf c.arg16.toNat 0 12 = v.sweep % 4096 then
    { v with reports := (v.reports.filter fun r => r.1 ≠ src) ++ [new] }
  else v

/-- The sums of the children that have reported whole. -/
def Vote.childSums (v : Vote) : List (Nat × Nat) :=
  v.reports.filterMap fun r => match r.2.1, r.2.2 with
    | some a, some b => some (a, b)
    | _, _ => none

/-- A report, or at the root a completed sweep, is due: the children have reported and the outgoing cores have halted
(R110). A root that has logged its stall sweeps no more (R112). -/
def Vote.reportReady (s : State) (v : Vote) : Bool :=
  v.state = .levelling && v.asked && !(v.stalled && v.isRoot s) && decide (v.sweepAt < s.cycle) &&
    v.childSums.length = (v.kids s).length && v.halted s

/-- Own counts over the outgoing gangs. -/
def Vote.ownSums (s : State) (v : Vote) : Nat × Nat :=
  (s.gangs.filter fun d => d.gang ≠ 0 && v.outgoing.contains (d.part, d.gang)).foldl
    (fun n d => (n.1 + d.sent.toNat, n.2 + d.received.toNat)) (0, 0)

/-- The report goes up, or the root judges the sweep. -/
def State.report (s : State) (v : Vote) : State :=
  let sums := v.childSums.foldl (fun n e => (n.1 + e.1, n.2 + e.2)) (v.ownSums s)
  let sent := sums.1 % 2 ^ 32
  let received := sums.2 % 2 ^ 32
  let v := { v with asked := false, haltAt := v.haltAt.orElse fun _ => some s.cycle }
  if !v.isRoot s then
    let s := s.setVote { v with reported := some s.cycle }
    (s.sendLevel (v.parent s) v.sweep false false sent).sendLevel (v.parent s) v.sweep true false received
  else
    let v := { v with firstAt := v.firstAt.orElse fun _ => some s.cycle }
    if sent = received && v.last = some (sent, received) then s.commitVote v
    else s.startSweep { v with last := if sent = received then some (sent, received) else none } (v.sweep + 1)

/-- LEVEL_REPORT: a child's report arrives, or the module's own is due. -/
def execLevelReport (s : State) : Host.Outcome State Fault Refusal :=
  let s := s.countBad 0x11
  match sheetVote s with
  | none => .next s
  | some v =>
    let v := (v.noteSum s s.inp.ctl).noteSum s s.inp.ctl2
    let s := s.setVote v
    .next (if v.reportReady s then s.report v else s)

/-- A packet of the module's own that waits at a port, or is held, as what its source keeps of it. -/
structure Captive where
  pkt  : Packet
  info : SentPkt
  part : Nat
  /-- The port at which it waits: it counts as sent. -/
  port : Option (Fin 20)
  deriving DecidableEq, Repr

/-- The module's own packets that wait at its ports, in order. -/
def queuedOwn (s : State) : List Captive :=
  (List.finRange 20).flatMap fun n =>
    ((s.fabric.ports[n]).queue.filter fun e => e.src = 20).filterMap fun e =>
      (s.fabric.sent.find? fun r => r.is e.pkt.dst.toNat e.pkt.sfn.toNat e.pkt.cls.toNat e.pkt.pseq.toNat).map fun r =>
        ⟨e.pkt, r, e.pkt.sfn.toNat, some n⟩

/-- Packets of outgoing gangs still held in the fabric interface 40 us after PREPARE (R113): those at the ports first, as
their streams have them. -/
def captureDue (s : State) : Option Captive :=
  match sheetVote s with
  | none => none
  | some v =>
    if v.state = .levelling && decide (v.since + 64000 ≤ s.cycle) then
      let held : List Captive := s.fabric.held.map fun w => ⟨w.pkt, w.info, w.part, none⟩
      ((queuedOwn s ++ held).find? fun w => w.pkt.gang ≠ 0 && v.outgoing.contains (w.part, w.pkt.gang)).filter fun w =>
        match s.gangDef w.part w.pkt.gang with
        | some d => (spillWaits s w.part d).isNone
        | none => true
    else none

/-- A packet is taken out of the fabric interface. -/
def State.takeCaptive (s : State) (w : Captive) : State :=
  match w.port with
  | none => { s with fabric := { s.fabric with held := s.fabric.held.filter fun e => !(e.pkt = w.pkt && e.info = w.info) } }
  | some n =>
    (s.updPort n fun q => { q with queue := q.queue.filter fun e => !(e.src = 20 && e.pkt = w.pkt) }).takeSent (· = w.info) |>.2

/-- LEVELLING_CAPTURE: the oldest such packet goes into its spillway, counted as sent, as received and as acknowledged;
a full spillway drops it. -/
def execLevellingCapture (s : State) : Host.Outcome State Fault Refusal :=
  match captureDue s with
  | none => .next s
  | some w =>
    let s := s.takeCaptive w
    let s := if w.port.isSome then s else s.gangSent w.part w.pkt.gang
    let s := s.gangReceived w.part w.pkt.gang
    match s.gangDef w.part w.pkt.gang with
    | none => .next (s.packetDropped w.info dropForeign)
    | some d => match spill s w.part d w.pkt with
      | .ok s => .next (s.packetDone w.info stOk)
      | .error why => .next ((s.logSpill w.part w.pkt.gang why).packetDropped w.info dropForeign)

/-- A vote that stalls (R112): 2 ms since the root's first completed sweep, or since another module's latest report. -/
def stallDue (s : State) : Option Vote :=
  s.votes.find? fun v => v.state = .levelling && !v.stalled && (match if v.isRoot s then v.firstAt else v.reported with
    | some t => decide (t + 3200000 ≤ s.cycle)
    | none => false)

/-- VOTE_STALL: logged to H; the module waits, halted. -/
def execVoteStall (s : State) : Host.Outcome State Fault Refusal :=
  match stallDue s with
  | some v =>
    let part := match v.outgoing with
      | o :: _ => o.1
      | [] => v.part
    .next ((s.setVote { v with stalled := true }).logUnit .voteStall 2 part 6 v.slot 0 0 v.incoming)
  | none => .next s

/-- A root still waits for answers 10 us after its latest COMMIT. -/
def resendDue (s : State) : Option Vote :=
  s.votes.find? fun v => (v.state = .swapping || v.state = .done) && v.isRoot s && !(v.group.all v.committed.contains) &&
    decide (v.resent + 16000 ≤ s.cycle)

/-- COMMIT_RESEND. -/
def execCommitResend (s : State) : Host.Outcome State Fault Refusal :=
  match resendDue s with
  | some v =>
    .next ((s.tell v (v.group.filter fun m => !v.committed.contains m) phCommit 0).setVote { v with resent := s.cycle })
  | none => .next s

/-! ### The swap (R106, R114) -/

/-- Records of a spillway, oldest first, and an empty spillway (R113); a record in a failed line is lost and logged (R23). A
record's check codes lie in the side bits of its lines, which an access checks: they are those of its lines. -/
def State.takeRecords (s : State) (part : Nat) (d : GangDef) : List Packet × State :=
  match spillLine s part d 0 with
  | .error _ => ([], s)
  | .ok ctl => match tagFault s part ctl with
  | some c => ([], s.logUnit c 2 part 7 0 0 (BitVec.ofNat 64 ctl) d.gang)
  | none =>
    let head := s.peekLE part ctl 8
    let tail := s.peekLE part (ctl + 8) 8
    let ks := (List.range (min (spillCap d) (tail - head))).map (head + ·)
    let lines (k : Nat) : List Nat := (List.range 5).filterMap fun i =>
      (spillLine s part d (64 + 320 * (k % spillCap d) + 64 * i)).toOption
    let lost (k : Nat) : Bool := (lines k).any fun a => (tagFault s part a).isSome
    let record (k : Nat) : Packet :=
      let bs := (List.range 5).flatMap fun i => match spillLine s part d (64 + 320 * (k % spillCap d) + 64 * i) with
        | .ok a => s.peek part a 64
        | .error _ => zeros 64
      let p := packetOfBytes bs []
      { p with codes := p.flits.map lineCode }
    let ps := (ks.filter fun k => !lost k).map record
    let s := (ks.flatMap lines).foldl (fun s a => s.access (pktReq part) a false .read) s
    let s := (ks.filter lost).foldl (fun s _ => s.logUnit .uncorrectable 2 part 7 0 0 0 d.gang) s
    (ps, if ks.isEmpty then s else s.writeOwn part ctl (natToBytes 8 tail) .atomic)

/-- A record leaves again: applied here, or injected with HOP 0 and its PSEQ (R114). -/
def State.reinject (s : State) (part : Nat) (p : Packet) : State :=
  if p.dst.toNat = selfMod s then s.applyAgain p
  else
    let info : SentPkt := { dst := p.dst.toNat, sfn := p.sfn.toNat, cls := p.cls.toNat, pseq := p.pseq.toNat, gang := p.gang,
                            core := none, launch := none, cmd := none, entry := none }
    let s := { s with fabric := { s.fabric with sent := s.fabric.sent.filter fun r => !r.is info.dst info.sfn info.cls info.pseq } }
    (s.inject { pkt := p.atHop 0, info := info, part := part, seq := false, due := s.cycle }).1

/-- The incoming gang's records, then its launch: resumed on its quads, or placed. Its time runs from the commit (R116). -/
def State.bringGang (s : State) (part : Nat) (g : BitVec 32) (commit : Nat) : State :=
  let s := match s.gangDef part g with
    | some d =>
      let (ps, s) := s.takeRecords part d
      ps.foldl (fun s p => s.reinject part p) s
    | none => s
  match gangLaunch s part g with
  | some l =>
    let s := s.mapLaunch l.id fun l => { l with active := l.active + (s.cycle - commit) }
    if l.state = .out then s.resumeLaunch l.id
    else match placeQuads (freeQuads s part) l.nquads, s.launchById l.id with
      | some qs, some l => s.placeLaunch l qs
      | _, _ => s
  | none => s

/-- The incoming partition's contexts come onto the sliced quads, the sequencers' state first where it lies in the save area
(R118). -/
def State.bringIn (s : State) (v : Vote) : State :=
  let s := s.setRt v.part fun r => { r with resident := some (if isSingle v.incoming then 0 else v.incoming) }
  let s := s.readWindows v.part
  let s := if (s.partRt v.part).seqOut then
      (s.restoreSequencers v.part).setRt v.part fun r => { r with seqOut := false }
    else s
  if isSingle v.incoming then
    (s.launches.filter fun l => l.part = v.part && l.gang = 0 && l.swapped && l.state = .out).foldl
      (fun s l => s.resumeLaunch l.id) s
  else s.bringGang v.part v.incoming v.swapAt

/-- What the last tenant left on its cores and in its quads' TLBs goes, and its sequencers' SRAM, whose state has been
saved (R93). -/
def State.scrubTenant (s : State) (old : Nat) : State :=
  let s := s.dropQuadTlb old (ownedQuads (partAt s old).quads)
  let s := { s with cores := s.cores.map fun (k : Core) => if k.part = old && k.launch.isNone then k.bare else k }
  (s.clearSequencers old).setRt old fun r => { r with seqOut := !(ownedSeqs s old).isEmpty }

/-- A swap that is done: 4,612 cycles after the commit; nothing is swapped for a fixed partition. -/
def swapReady (s : State) : Option Vote :=
  s.votes.find? fun v => v.state = .swapping && decide (v.swapAt + (if v.fixed s then 0 else 4612) ≤ s.cycle) && v.halted s

/-- SWAP_DONE: outgoing contexts are saved, the old tenant's units scrubbed where it changes, the incoming gang's records
handled and its contexts brought in; the new slot is timed from the commit (R107), and COMMITTED goes to the root. -/
def execSwapDone (s : State) : Host.Outcome State Fault Refusal :=
  match swapReady s with
  | none => .next s
  | some v =>
    let s := if v.fixed s then s else s.leaveTenant
    let outs := (v.leaving s).map (·.id)
    let s := s.setVote { v with state := .done, outgoing := [], resent := v.swapAt }
    let s :=
      if v.fixed s then s.bringGang v.part v.incoming v.swapAt
      else
        let s := outs.foldl (fun s id => s.saveLaunch id true) s
        let s := match switches s v with
          | some old => s.scrubTenant old
          | none => s
        let s := s.setTenant v.part
        let s := { s with sheet := { s.sheet with heldAt := v.swapAt, began := max s.sheet.began v.swapAt } }
        if v.part = 0 then s else s.bringIn v
    .next (if v.isRoot s then s else s.tell v [v.root] phCommitted 0)

/-! ### SHEET commands (R107) -/

/-- A SHEET command: its SUB and VF, then its own course. -/
def State.sheetCmd (s : State) (used : List (Nat × Nat)) (k : Cmd → Nat → State) : State :=
  s.command .pf ([(8, 1), (9, 1)] ++ used) fun c => k c (c.field 9 1)

/-- An area lies wholly in one of the partition's device-memory ranges, or in several that adjoin. -/
def inRanges (p : Partition) (base len : Nat) : Bool :=
  (List.range ((len + 0x1FFFFF) / 0x200000 + 1)).all fun i =>
    let a := min (base + 0x200000 * i) (base + len - 1)
    p.dranges.any fun r => decide (r.base ≤ a) && decide (a < r.base + r.len)

def execSheetGangdef (s : State) : Host.Outcome State Fault Refusal :=
  .next (s.sheetCmd [(12, 4), (16, 8), (24, 8), (32, 8), (40, 1), (41, 1)] fun c part =>
    let g := c.field 12 4
    let sp := c.field 16 8
    let sl := c.field 24 8
    let sv := c.field 32 8
    let n := c.field 40 1
    let p := partAt s part
    if part = 0 || 16 < part || !p.exists_ || 0x80000000 ≤ g || sp % 65536 ≠ 0 || sv % 65536 ≠ 0 || sl % 65536 ≠ 0 ||
        sl < 0x100000 || 64 < n || 15 < c.field 41 1 || !inRanges p sp sl || (n ≠ 0 && !inRanges p sv (8448 * 1024 * n)) then
      s.cmdDone c csBadField 0 0
    else
      let old := s.gangDef part (BitVec.ofNat 32 g)
      let d : GangDef :=
        { gang := BitVec.ofNat 32 g, part := part, spill := sp, spillLen := sl, save := sv, quads := n, fill := c.field 41 1,
          sent := (old.map (·.sent)).getD 0, received := (old.map (·.received)).getD 0, finished := false,
          withdrawn := false }
      let rest := s.gangs.filter fun x => !(x.part = d.part && x.gang = d.gang)
      { s with gangs := rest ++ [d] }.cmdDone c csOk 0 0)

def execSheetCell (s : State) : Host.Outcome State Fault Refusal :=
  .next (s.sheetCmd [(10, 1), (12, 4)] fun c vf =>
    let g := BitVec.ofNat 32 (c.field 12 4)
    let part := if isSingle g then g.toNat - 0x80000000 else vf
    if 16 ≤ c.field 10 1 || (g ≠ 0 && !(part ≠ 0 && (partAt s part).exists_ && sliced s part)) then s.cmdDone c csBadField 0 0
    else if g ≠ 0 && !isSingle g && (s.gangDef part g).isNone then s.cmdDone c csNoHandle 0 0
    else (s.setSlot (c.field 10 1) fun x =>
      { x with nextGang := g, nextPart := if g = 0 then 0 else part }).cmdDone c csOk 0 0)

def execSheetLength (s : State) : Host.Outcome State Fault Refusal :=
  .next (s.sheetCmd [(10, 1), (12, 4)] fun c _ =>
    let n := c.field 12 4
    if 16 ≤ c.field 10 1 || n < 100 || 1000000 < n then s.cmdDone c csBadField 0 0
    else (s.setSlot (c.field 10 1) fun x => { x with nextMicros := n }).cmdDone c csOk 0 0)

def execSheetAgeq (s : State) : Host.Outcome State Fault Refusal :=
  .next (s.sheetCmd [(12, 4)] fun c _ =>
    let n := c.field 12 4
    if n < 10 || 10000 < n then s.cmdDone c csBadField 0 0
    else { s with sheet := { s.sheet with ageq := n } }.cmdDone c csOk 0 0)

/-- START: slot 0 begins at once. -/
def execSheetStart (s : State) : Host.Outcome State Fault Refusal :=
  .next (s.sheetCmd [] fun c _ =>
    if s.sheet.running then s.cmdDone c csNoResources 0 0
    else
      let s := s.cmdDone c csOk 0 0
      { s with sheet := { s.sheet with running := true, stopping := false } }.openSlot 0 s.cycle false [])

def execSheetStop (s : State) : Host.Outcome State Fault Refusal :=
  .next (s.sheetCmd [] fun c _ =>
    { s with sheet := { s.sheet with stopping := s.sheet.running } }.cmdDone c csOk 0 0)

/-- The stalled vote, if there is one. -/
def stalledVote (s : State) : Option Vote := s.votes.find? fun v => v.stalled && v.state = .levelling

/-- Resolve a stalled vote: abort it, or commit it (R107, R112, R311). -/
def State.resolve (s : State) (commit : Bool) : State :=
  match stalledVote s with
  | some v => if commit then s.commitVote { v with stalled := false } else s.abortVote v true 0
  | none => s

def execSheetResolve (s : State) : Host.Outcome State Fault Refusal :=
  .next (s.sheetCmd [(10, 1)] fun c _ =>
    if 1 < c.field 10 1 then s.cmdDone c csBadField 0 0
    else (s.resolve (c.field 10 1 = 1)).cmdDone c csOk 0 0)

/-- A gang holds the sliced quads, or is named by a cell. -/
def gangInUse (s : State) (part : Nat) (g : BitVec 32) : Bool :=
  (s.partRt part).resident = some g || (s.launches.any fun l => l.part = part && l.gang = g && l.state = .running) ||
    s.sheet.slots.toList.any fun x => (x.gang = g && x.part = part) || (x.nextGang = g && x.nextPart = part)

def execSheetGangdel (s : State) : Host.Outcome State Fault Refusal :=
  .next (s.sheetCmd [(12, 4)] fun c part =>
    let g := BitVec.ofNat 32 (c.field 12 4)
    if (s.gangDef part g).isNone then s.cmdDone c csNoHandle 0 0
    else if g ≠ 0 && gangInUse s part g then s.cmdDone c csBusy 0 0
    else { s with gangs := s.gangs.filter fun d => !(d.part = part && d.gang = g) }.cmdDone c csOk 0 0)

end Sys2Proof.Machine
end

