-- ==== Sys2Proof/Machine/Power.lean ====
section
/-! DEFINITION. Power, boot, limits of power and temperature, and corrected errors (R7-R23). -/

namespace Sys2Proof.Machine

/-! ### Boot (R12-R20) -/

/-- What is kept without power and through a boot: the fuses, the host, what has left the module, and how hot its dies are
(R10). -/
def State.cold (s : State) (boot : Boot) : State :=
  { State.reset with agenda := s.agenda, inp := s.inp, hostMem := s.hostMem, out := s.out, free := s.free,
                     nextId := s.nextId, hvecBoot := s.hvecBoot, boot := boot,
                     power := { Power.reset with gate := s.power.gate } }

/-- The boot state before step 1 of a boot: the fuses stand, and what the service processor knows to have failed (R20). -/
def Boot.begin (b : Boot) (count : Nat) : Boot :=
  { Boot.reset with powered := true, perst := b.perst, count := count % 2 ^ 64, keys := b.keys, minVers := b.minVers,
                    badCore := b.badCore, secret := b.secret, failedPorts := b.failedPorts }

/-- FCODE of an image that the ROM refuses (R14, R15): its key must be in one of the slots that is not revoked. -/
def imageFault (b : Boot) (i : Nat) (im : FwImage) : Option Nat :=
  let body := BitVec.ofNat 256 (bytesToNat (sha3_256 im.body))
  if !im.readable then some 0x05
  else match b.keys.filter fun k => k.digest = im.keyDigest with
    | [] => some 0x01
    | slots =>
      if slots.all (·.revoked) then some 0x02
      else if im.digest ≠ body || !Config.verifies im.keyDigest body im.version im.sigDigest then some 0x03
      else if im.version.toNat < (b.minVers.getD i 0).toNat then some 0x04
      else none

/-- The quad of a row's physical core (R18): a row with a fused bad core has no spare left. In a row with none the spare
repairs a core that the self-test finds, though the manual has the mapping fused at manufacture. DESIGN CHOICE: log entry
29. -/
def badQuad (row : Nat) (fused found : Option Nat) : Option Nat :=
  match fused, found with
  | some b, some p => if p = b || 17 ≤ p then none else some ((16 * row + (if p < b then p else p - 1)) / 4)
  | _, _ => none

/-- Quads that the self-test leaves degraded (R18, R19). -/
def degradedQuads (b : Boot) (f : BootFindings) : BitVec 64 :=
  (List.range 16).foldl (fun m r =>
    match badQuad r (b.badCore.getD r none) (f.badCore.getD r none) with
    | some q => m ||| BitVec.ofNat 64 (2 ^ q)
    | none => m) f.quads

/-- FCODE of step 4 (R15, R19). Of several failures the boundary between dies is named first, then the quads, then the
channels: the manual gives no order. DESIGN CHOICE: log entry 29. -/
def selfTestFault (quads : BitVec 64) (f : BootFindings) : Option Nat :=
  if f.dieLinkBroken then some 0x08
  else if (List.range 4).any fun d => (List.range 16).all fun i => quads.getLsbD (16 * d + i) then some 0x06
  else if (List.range 4).any fun d => (List.range 256).all fun c => c / 64 ≠ d || f.channels.getLsbD c then some 0x07
  else none

/-- The images in order, up to the first that is refused: how many were loaded, and its fault. -/
def loadImages (b : Boot) (ims : List FwImage) : Nat × Option Nat :=
  match (List.range 4).findSome? fun i => match ims[i]? with
    | none => some (i, 0x05)
    | some im => (imageFault b i im).map fun c => (i, c) with
  | some (i, c) => (i, some c)
  | none => (4, none)

/-- Step 5 (R16): the root key pair from the secret alone, the identity key pair from the secret and the digests, and the root
key's certificate of the identity key. -/
def Boot.identify (b : Boot) (vers : List (BitVec 32)) (digests : List (BitVec 256)) : Boot :=
  let root := Config.rootPair b.secret
  let identity := Config.identityPair b.secret digests
  let key := (List.range 1312).map fun i => Config.publicKey identity i
  { b with stage := 7, vers := vers, digests := digests, root := root, identity := identity,
           certificate := (List.range 2420).map fun i =>
             Config.signature root (BitVec.ofNat 256 (bytesToNat (sha3_256 key))) i }

/-- The boot sequence (R12). A refused image or a failed self-test stops it. -/
def State.bootUp (s : State) (f : BootFindings) : State :=
  let b := s.boot.begin (s.boot.count + 1)
  let fail (stage fcode image : Nat) : State :=
    s.cold { b with stage := stage, failed := true, fcode := fcode, image := image }
  match loadImages b f.images with
  | (i, some c) => fail (if i = 0 then 1 else 2) c i
  | (_, none) =>
    let quads := degradedQuads b f
    match selfTestFault quads f with
    | some c => fail 3 c 0
    | none =>
      let boot := b.identify (f.images.map (·.version))
        (f.romDigest :: f.images.map fun im => BitVec.ofNat 256 (bytesToNat (sha3_256 im.body)))
      let s := s.cold boot
      let absent := f.ports ||| b.failedPorts
      let ports : Vector Port 20 := Vector.ofFn fun i => { Port.reset with absent := absent.getLsbD i.val }
      { s with degQuads := quads, degSlices := f.slices, degWays := f.ways, degChans := f.channels, degPorts := absent,
               fabric := { s.fabric with ports := ports } }.emitGenesis

/-- POWER_ON_RESET. -/
def execPowerOnReset (b : BootFindings) (s : State) : Host.Outcome State Fault Refusal :=
  .next (if s.boot.powered then s.bootUp b else s)

/-- PERST: the whole boot sequence again (R12). -/
def execPerst (b : BootFindings) (s : State) : Host.Outcome State Fault Refusal :=
  .next (if s.boot.powered then { s with boot := { s.boot with perst := true } }.bootUp b else s)

/-- PERST_DEASSERT (R13). -/
def execPerstDeassert (s : State) : Host.Outcome State Fault Refusal :=
  .next { s with boot := { s.boot with perst := false } }

/-- Configuration space answers: from step 6, or where a refused image has stopped the boot (R13, R14). -/
def configOpen (s : State) : Bool := s.boot.stage = 7 || s.boot.failed

/-- HOST_CONFIG_REQUEST (R13, R14, R46): retry status before step 6. After it a register is read, or BAR 2 of a function takes
one of its sizes, 1 GiB to 512 GiB; another size changes nothing. -/
def execHostConfigRequest (r : ConfigReq) (s : State) : Host.Outcome State Fault Refusal :=
  .next (
    if !s.boot.powered then s
    else if !configOpen s then { s with out := s.out ++ [.config true] }
    else
      let s := { s with out := s.out ++ [.config false] }
      match r with
      | .read fn reg => { s with out := s.out ++ [.configData (Config.configWord fn.val reg)] }
      | .resizeBar2 fn k => if 30 ≤ k ∧ k ≤ 39 then s.updFn fn fun f => { f with bar2 := k } else s)

/-! ### Power comes and goes (R7, R10, R12) -/

/-- POWER_APPLIED: the rails rise; the boot follows PWR_OK. -/
def execPowerApplied (s : State) : Host.Outcome State Fault Refusal :=
  .next (if s.boot.powered then s else s.cold (s.boot.begin s.boot.count))

/-- All state is lost but the fuses. -/
def State.powerDown (s : State) (count : Nat) : State :=
  s.cold { s.boot.begin count with powered := false }

/-- POWER_LOSS: a fuse write of the boot counter under way leaves its new value or the one above (R12). -/
def execPowerLoss (fuseWriting oneAbove : Bool) (s : State) : Host.Outcome State Fault Refusal :=
  .next (s.powerDown (s.boot.count + fuseWriting.toNat + (fuseWriting && oneAbove).toNat))

/-- THERMTRIP (R10): the module drives its signal, and loses all state. -/
def execThermtrip (s : State) : Host.Outcome State Fault Refusal :=
  .next (if s.boot.powered then { s with out := s.out ++ [OutMsg.thermtrip] }.powerDown s.boot.count else s)

/-- POWER_WINDOW_END: module power of the window that ends, against the cap it ran under (R10, R11). -/
def execPowerWindowEnd (watts : Nat) (s : State) : Host.Outcome State Fault Refusal :=
  let p := s.power
  let high : Bool := decide (p.inForce < watts)
  .next { s with power := { p with last := watts, exceeded := high, inForce := p.cap,
                                   gated := min 0xFFFF (p.gated + high.toNat) } }

/-- JUNCTION_TEMPERATURE: at 95 degrees a die issues in one cycle of two, at 100 in one of four, and at 110 the module
trips (R10). -/
def execJunctionTemperature (die : Fin 4) (celsius : Nat) (s : State) : Host.Outcome State Fault Refusal :=
  let g := if 100 ≤ celsius then 4 else if 95 ≤ celsius then 2 else 1
  let s := { s with power := { s.power with gate := s.power.gate.set die g } }
  .next (if 110 ≤ celsius then s.post .thermtrip Input.reset else s)

/-- Cycles of which a core's die issues in one (R10). -/
def gateOf (s : State) (c : Fin 256) : Nat := max s.power.gate[dieOf c] (if s.power.exceeded then 2 else 1)

/-! ### Corrected errors (R21, R255) -/

def unitCode : UnitKind → Nat
  | .core => 0 | .copyEngine => 1 | .sequencer => 2 | .slice => 3 | .channel => 4 | .port => 5
  | .serviceProc => 6 | .hostIf => 7

/-- PATROL_SCRUB: a line is read, corrected, or found lost (R21, R23). -/
def execPatrolScrub (dpa : Nat) (found : EccFinding) (s : State) : Host.Outcome State Fault Refusal :=
  let ch := chanOf dpa
  match found with
  | .clean => .next s
  | .corrected => .next (s.noteEcc (4 + 8 * ch))
  | .uncorrectable =>
    .next ({ s with badLines := SMap.set 0 s.badLines (dpa / 64) 1 }.logUnit .uncorrectable 2 0 4 ch 0
      (BitVec.ofNat 64 dpa) 0)

/-- A unit whose corrected errors are due in the fault log, a second after the first. -/
def eccDue (s : State) : Option Nat :=
  (s.ecc.find? fun e => decide (e.2.2 + 1600000000 ≤ s.cycle)).map (·.1)

/-- An error corrected in a unit (R21); one of a core's arrays, or of its copy engine, is its context's (R95). -/
def State.correctedIn (s : State) (unit : UnitKind) (index : Nat) : State :=
  let s := s.noteEcc (unitCode unit + 8 * index)
  match unit with
  | .core | .copyEngine => s.mapCore (Fin.ofNat 256 index) fun k => k.count 14 1
  | _ => s

/-- CORRECTED: one entry for what a unit has corrected, a second after the first; before that, one more error that it has
corrected. -/
def execCorrected (unit : UnitKind) (index : Nat) (s : State) : Host.Outcome State Fault Refusal :=
  let k := unitCode unit + 8 * index
  let e := SMap.get (0, 0) s.ecc k
  .next (if e.1 ≠ 0 ∧ e.2 + 1600000000 ≤ s.cycle then
      { s with ecc := SMap.set (0, 0) s.ecc k (0, 0) }.logUnit .corrected 2 0 (unitCode unit) index (min e.1 0xFFFF) 0 0
    else s.correctedIn unit index)

end Sys2Proof.Machine
end

