-- ==== Sys2Proof/Machine/Hyper.lean ====
section
/-! DEFINITION. The hypervisor's instructions: TLBINV, SCRUB, VOTE and WFI (R309-R312). Each is refused with
PRIVILEGED outside H (R246). -/

namespace Sys2Proof.Machine

/-- Run at H only (R246). -/
def needH {α : Type} (s : State) (k : SlotRes α) : SlotRes α := need s (s.pre.level = .h) .privileged 0 k

/-- The answer to a waiting instruction, which takes it. -/
def takeAnswer (s : State) (v : Word) (w : WReg) : SlotRes Unit :=
  .ok () ((s.upd fun k => { k with answer := none }).result v 1 w)

/-! ### TLBINV (R309) -/

def partExists (s : State) (a : Word) : Bool := a ≠ 0 && decide (a.toNat ≤ 16) && (partAt s a.toNat).exists_

/-- Hold until the invalidation is complete; 1 at once for no partition. -/
def tlbinv (s : State) (kind : Nat) (a b : Word) (w : WReg) : SlotRes Unit :=
  match s.pre.answer with
  | some v => takeAnswer s v w
  | none => if kind ≠ 2 && !partExists s a then .ok () (s.result 1 1 w) else .hold (.tlbinv kind a b)

def execTlbinvPart (a : SSpec) (w : WReg) (s : State) : Host.Outcome State Fault Refusal :=
  finish s (needH s <| (readS s a 0).bind fun x s => tlbinv s 0 x 0 w)

def execTlbinvIpa (a : SSpec) (b : SOpnd) (w : WReg) (s : State) : Host.Outcome State Fault Refusal :=
  finish s (needH s <| (readS s a 0).bind fun x s => (readSO s b 1).bind fun y s => tlbinv s 1 x y w)

def execTlbinvAll (w : WReg) (s : State) : Host.Outcome State Fault Refusal :=
  finish s (needH s <| tlbinv s 2 0 0 w)

/-- The partitions that an invalidation names. -/
def tlbinvParts (s : State) (kind : Nat) (a : Word) : List Nat :=
  if kind = 2 then ((List.range 17).filter fun p => (partAt s p).exists_) else [a.toNat]

/-- The partitions' accesses that used a translation are done (R88). -/
def tlbinvQuiet (s : State) (c : Fin 256) : Bool :=
  match (s.coreAt c).wait with
  | some (.tlbinv kind a _) => (s.coreAt c).answer.isNone && (tlbinvParts s kind a).all (xlateQuiet s)
  | _ => false

/-- TLBINV_COMPLETE: the translations go; once the conditions of R88 hold the core has its result. -/
def execTlbinvComplete (s : State) : Host.Outcome State Fault Refusal :=
  let c := s.inp.core
  match (s.coreAt c).wait with
  | some (.tlbinv kind a b) =>
    let lo := if kind = 1 then b.toNat / 65536 * 65536 else 0
    let hi := if kind = 1 then lo + 65536 else 2 ^ 39
    let s := (tlbinvParts s kind a).foldl (fun s p => s.invalidate p lo hi) s
    .next (if tlbinvQuiet s c then s.mapCore c fun k => { k with answer := some 0 } else s)
  | _ => .next s

/-! ### SCRUB (R310) -/

def execScrub (a : SSpec) (w : WReg) (s : State) : Host.Outcome State Fault Refusal :=
  finish s (needH s <| (readS s a 0).bind fun x s =>
    match s.pre.answer with
    | some v => takeAnswer s v w
    | none =>
      let q := x.toNat
      if 63 < q || s.degQuads.getLsbD q then .ok () (s.result 2 1 w)
      else if busyQuad s q || inShadow s q || (quadOf s.issue.core).val = q then .ok () (s.result 1 1 w)
      else .hold (.scrub q))

/-- The last writer of a polder can still resume: a gang still declared, or a launch that is out. -/
def canResume (s : State) (writer : Nat) : Bool :=
  match s.launchById writer with
  | none => false
  | some l => if l.gang = 0 then l.state = .out else (s.gangDef l.part l.gang).isSome

/-- Pump out what can still resume, polder by polder. -/
def scrubPumps (s : State) (q : Nat) : Except (Cause × Nat) State :=
  ((coresOf [q]).flatMap fun c => (List.finRange 32).map fun p => (c, p)).foldl
    (fun (r : Except (Cause × Nat) State) (e : Fin 256 × Fin 32) => match r with
      | .error x => .error x
      | .ok s => match (s.coreAt e.1).writers[e.2] with
        | none => .ok s
        | some wr => if canResume s wr then pumpOut s e.1 e.2.val wr else .ok s) (.ok s)

/-- The clearing of a quad can finish: every pump-out reaches its save area. -/
def scrubReady (s : State) (c : Fin 256) : Bool :=
  match (s.coreAt c).wait with
  | some (.scrub q) => (s.coreAt c).answer.isNone && (scrubPumps s q).toBool
  | _ => false

/-- SCRUB_COMPLETE: cores, shadow storage, TLBs and polders of the quad are clear. A pump-out that does not translate
loses no byte, and is tried again. -/
def execScrubComplete (s : State) : Host.Outcome State Fault Refusal :=
  let c := s.inp.core
  match (s.coreAt c).wait with
  | some (.scrub q) =>
    match scrubPumps s q with
    | .error _ => .next s
    | .ok s =>
      let clear (k : Core) : Core := { k.bare with spad := [], writers := Vector.replicate 32 none, badSpad := [], l1tlb := [], walks := [] }
      let s := (coresOf [q]).foldl (fun s c => s.mapCore c clear) s
      let s := if h : q < 64 then { s with l2tlb := s.l2tlb.set q [] } else s
      .next (s.mapCore c fun k => { k with answer := some 0 })
  | _ => .next s

/-! ### VOTE (R311) -/

def voteNum : VoteState → Nat
  | .prepared => 1 | .levelling => 2 | .swapping => 3 | .done => 0

/-- The vote state as VOTE.rd reports it. -/
def voteWord (s : State) : Word :=
  match s.votes.find? fun v => v.state ≠ .done with
  | none => 0
  | some v => BitVec.ofNat 64 (voteNum v.state + 2 ^ 3 * v.stalled.toNat + 2 ^ 8 * v.slot)

def execVoteRd (w : WReg) (s : State) : Host.Outcome State Fault Refusal :=
  finish s (needH s <| .ok () (s.result (voteWord s) 1 w))

def execVoteAbort (w : WReg) (s : State) : Host.Outcome State Fault Refusal :=
  finish s (needH s <| .ok () ((s.resolve false).result (voteWord s) 1 w))

def execVoteCommit (w : WReg) (s : State) : Host.Outcome State Fault Refusal :=
  finish s (needH s <| .ok () ((s.resolve true).result (voteWord s) 1 w))

/-! ### WFI (R312) -/

/-- The events that have ended a wait so far, with its time limit. -/
def wfiEvents (k : Core) : Word :=
  k.answer.getD 0 ||| (match k.wait with
    | some (.wfi (some n)) => if n ≤ 1 then 1 else 0
    | _ => 0)

/-- WFI: it holds `a` cycles, or until an event. -/
def execWfi (a : SSpec) (w : WReg) (s : State) : Host.Outcome State Fault Refusal :=
  finish s (needH s <| (readS s a 0).bind fun x s =>
    let ev := wfiEvents s.pre
    if ev ≠ 0 then takeAnswer s ev w
    else match s.pre.wait with
      | some (.wfi (some n)) => .hold (.wfi (some (n - 1)))
      | _ => .hold (.wfi (if x = 0 then none else some x.toNat)))

/-- WFI_WAKE: events reach a waiting core. -/
def execWfiWake (core : Fin 256) (events : BitVec 4) (s : State) : Host.Outcome State Fault Refusal :=
  match (s.coreAt core).wait with
  | some (.wfi _) =>
    .next (s.mapCore core fun k => { k with answer := some (k.answer.getD 0 ||| events.setWidth 64) })
  | _ => .next s

end Sys2Proof.Machine
end

