-- ==== Sys2Proof/Machine/Scalar.lean ====
section
/-! DEFINITION. The integer instructions of the S slot (R287-R292). -/

namespace Sys2Proof.Machine

/-! ### Results -/

/-- A 32-bit result, sign-extended from bit 31 (R287). -/
def sx32 (v : BitVec 32) : Word := v.signExtend 64

def lo32 (a : Word) : BitVec 32 := a.setWidth 32

/-- An operation with its 32-bit form (R287, R288). -/
def formOf (w32 : Bool) (f64 : Word → Word → Word) (f32 : BitVec 32 → BitVec 32 → BitVec 32)
    (a b : Word) : Word :=
  if w32 then sx32 (f32 (lo32 a) (lo32 b)) else f64 a b

def formOf1 (w32 : Bool) (f64 : Word → Word) (f32 : BitVec 32 → BitVec 32) (a : Word) : Word :=
  if w32 then sx32 (f32 (lo32 a)) else f64 a

def addW (w32 : Bool) : Word → Word → Word := formOf w32 (· + ·) (· + ·)
def subW (w32 : Bool) : Word → Word → Word := formOf w32 (· - ·) (· - ·)
def mulW (w32 : Bool) : Word → Word → Word := formOf w32 (· * ·) (· * ·)

/-- Bits [127:64] of the signed and of the unsigned product (R288). -/
def mulhW (a b : Word) : Word := ((a.signExtend 128 * b.signExtend 128).extractLsb' 64 64)
def mulhzW (a b : Word) : Word := ((a.setWidth 128 * b.setWidth 128).extractLsb' 64 64)

/-- Quotients and remainders (R288, R289): signed division rounds toward zero, and the most negative
value by -1 gives itself and remainder 0. -/
def divW (w32 : Bool) : Word → Word → Word := formOf w32 BitVec.sdiv BitVec.sdiv
def divzW (w32 : Bool) : Word → Word → Word := formOf w32 BitVec.udiv BitVec.udiv
def remW (w32 : Bool) : Word → Word → Word := formOf w32 BitVec.srem BitVec.srem
def remzW (w32 : Bool) : Word → Word → Word := formOf w32 BitVec.umod BitVec.umod

/-- The divisor that R289 judges is zero. -/
def divisorZero (w32 : Bool) (b : Word) : Bool := if w32 then lo32 b == 0 else b == 0

/-- Shift amounts: b mod 64, or b mod 32 in the 32-bit form (R288). -/
def shlW (w32 : Bool) : Word → Word → Word :=
  formOf w32 (fun a b => a <<< (b.toNat % 64)) (fun a b => a <<< (b.toNat % 32))
def shrW (w32 : Bool) : Word → Word → Word :=
  formOf w32 (fun a b => a >>> (b.toNat % 64)) (fun a b => a >>> (b.toNat % 32))
def sraW (w32 : Bool) : Word → Word → Word :=
  formOf w32 (fun a b => a.sshiftRight (b.toNat % 64)) (fun a b => a.sshiftRight (b.toNat % 32))
def rotW (w32 : Bool) : Word → Word → Word :=
  formOf w32 (fun a b => a.rotateLeft (b.toNat % 64)) (fun a b => a.rotateLeft (b.toNat % 32))

/-- Leading zero bits among the `n` low bits of a number. -/
def clzNat (v : Nat) : Nat → Nat
  | 0 => 0
  | n + 1 => if v.testBit n then 0 else 1 + clzNat v n

/-- Trailing zero bits among `n` bits from bit `i` up. -/
def ctzNat (v : Nat) (i : Nat) : Nat → Nat
  | 0 => 0
  | n + 1 => if v.testBit i then 0 else 1 + ctzNat v (i + 1) n

/-- Bits set among the `n` low bits. -/
def popNat (v : Nat) : Nat → Nat
  | 0 => 0
  | n + 1 => (if v.testBit n then 1 else 0) + popNat v n

def clzW (w32 : Bool) (a : Word) : Word :=
  BitVec.ofNat 64 (if w32 then clzNat a.toNat 32 else clzNat a.toNat 64)
def ctzW (w32 : Bool) (a : Word) : Word :=
  BitVec.ofNat 64 (if w32 then ctzNat a.toNat 0 32 else ctzNat a.toNat 0 64)
def popcW (w32 : Bool) (a : Word) : Word :=
  BitVec.ofNat 64 (if w32 then popNat a.toNat 32 else popNat a.toNat 64)

def minW (a b : Word) : Word := if b.slt a then b else a
def maxW (a b : Word) : Word := if a.slt b then b else a
def minzW (a b : Word) : Word := if b.ult a then b else a
def maxzW (a b : Word) : Word := if a.ult b then b else a

/-- BFI (R290): bits [pos + len - 1 : pos] of a replaced by v[len - 1 : 0]; bits above 63 dropped. -/
def bfiW (a v b : Word) : Word :=
  let pos := bitsOf b.toNat 0 6
  let len := bitsOf b.toNat 6 6 + 1
  let m := BitVec.ofNat 64 ((2 ^ len - 1) * 2 ^ pos)
  (a &&& ~~~m) ||| ((v <<< pos) &&& m)

/-- BFX (R292): a[pos + len - 1 : pos], zero-extended or sign-extended from its top bit. -/
def bfxW (a : Word) (pos len : Nat) (sext : Bool) : Word :=
  let f := bitsOf a.toNat pos len
  if sext then BitVec.ofInt 64 (signed len f) else BitVec.ofNat 64 f

/-! ### Shapes -/

/-- A two-operand instruction with latency `lat` (R287). -/
def binary (s : State) (a : SSpec) (b : SOpnd) (w : WReg) (lat : Nat) (f : Word → Word → Word) :
    SlotRes Unit :=
  (readS s a 0).bind fun x s => (readSO s b 1).bind fun y s => .ok () (s.result (f x y) lat w)

/-- A one-operand instruction with latency 1. -/
def unary (s : State) (a : SSpec) (w : WReg) (f : Word → Word) : SlotRes Unit :=
  (readS s a 0).bind fun x s => .ok () (s.result (f x) 1 w)

/-- A division: DIV_ZERO where R289 says, else the result after 20 cycles. -/
def division (s : State) (a : SSpec) (b : SOpnd) (w : WReg) (w32 : Bool) (f : Word → Word → Word) :
    SlotRes Unit :=
  (readS s a 0).bind fun x s => (readSO s b 1).bind fun y s =>
    need s (!divisorZero w32 y) .divZero 0 (.ok () (s.result (f x y) 20 w))

/-! ### Meanings -/

def execAdd (a : SSpec) (b : SOpnd) (w : WReg) (w32 : Bool) (s : State) : Host.Outcome State Fault Refusal :=
  finish s (binary s a b w 1 (addW w32))

def execSub (a : SSpec) (b : SOpnd) (w : WReg) (w32 : Bool) (s : State) : Host.Outcome State Fault Refusal :=
  finish s (binary s a b w 1 (subW w32))

def execMul (a : SSpec) (b : SOpnd) (w : WReg) (w32 : Bool) (s : State) : Host.Outcome State Fault Refusal :=
  finish s (binary s a b w 3 (mulW w32))

def execMulh (a : SSpec) (b : SOpnd) (w : WReg) (s : State) : Host.Outcome State Fault Refusal :=
  finish s (binary s a b w 3 mulhW)

def execMulhz (a : SSpec) (b : SOpnd) (w : WReg) (s : State) : Host.Outcome State Fault Refusal :=
  finish s (binary s a b w 3 mulhzW)

def execDiv (a : SSpec) (b : SOpnd) (w : WReg) (w32 : Bool) (s : State) : Host.Outcome State Fault Refusal :=
  finish s (division s a b w w32 (divW w32))

def execDivz (a : SSpec) (b : SOpnd) (w : WReg) (w32 : Bool) (s : State) : Host.Outcome State Fault Refusal :=
  finish s (division s a b w w32 (divzW w32))

def execRem (a : SSpec) (b : SOpnd) (w : WReg) (w32 : Bool) (s : State) : Host.Outcome State Fault Refusal :=
  finish s (division s a b w w32 (remW w32))

def execRemz (a : SSpec) (b : SOpnd) (w : WReg) (w32 : Bool) (s : State) : Host.Outcome State Fault Refusal :=
  finish s (division s a b w w32 (remzW w32))

def execAnd (a : SSpec) (b : SOpnd) (w : WReg) (s : State) : Host.Outcome State Fault Refusal :=
  finish s (binary s a b w 1 (· &&& ·))

def execOr (a : SSpec) (b : SOpnd) (w : WReg) (s : State) : Host.Outcome State Fault Refusal :=
  finish s (binary s a b w 1 (· ||| ·))

def execXor (a : SSpec) (b : SOpnd) (w : WReg) (s : State) : Host.Outcome State Fault Refusal :=
  finish s (binary s a b w 1 (· ^^^ ·))

def execAndn (a : SSpec) (b : SOpnd) (w : WReg) (s : State) : Host.Outcome State Fault Refusal :=
  finish s (binary s a b w 1 (fun x y => x &&& ~~~y))

def execShl (a : SSpec) (b : SOpnd) (w : WReg) (w32 : Bool) (s : State) : Host.Outcome State Fault Refusal :=
  finish s (binary s a b w 1 (shlW w32))

def execShr (a : SSpec) (b : SOpnd) (w : WReg) (w32 : Bool) (s : State) : Host.Outcome State Fault Refusal :=
  finish s (binary s a b w 1 (shrW w32))

def execSra (a : SSpec) (b : SOpnd) (w : WReg) (w32 : Bool) (s : State) : Host.Outcome State Fault Refusal :=
  finish s (binary s a b w 1 (sraW w32))

def execRot (a : SSpec) (b : SOpnd) (w : WReg) (w32 : Bool) (s : State) : Host.Outcome State Fault Refusal :=
  finish s (binary s a b w 1 (rotW w32))

def execClz (a : SSpec) (w : WReg) (w32 : Bool) (s : State) : Host.Outcome State Fault Refusal :=
  finish s (unary s a w (clzW w32))

def execCtz (a : SSpec) (w : WReg) (w32 : Bool) (s : State) : Host.Outcome State Fault Refusal :=
  finish s (unary s a w (ctzW w32))

def execPopc (a : SSpec) (w : WReg) (w32 : Bool) (s : State) : Host.Outcome State Fault Refusal :=
  finish s (unary s a w (popcW w32))

def execMin (a : SSpec) (b : SOpnd) (w : WReg) (s : State) : Host.Outcome State Fault Refusal :=
  finish s (binary s a b w 1 minW)

def execMax (a : SSpec) (b : SOpnd) (w : WReg) (s : State) : Host.Outcome State Fault Refusal :=
  finish s (binary s a b w 1 maxW)

def execMinz (a : SSpec) (b : SOpnd) (w : WReg) (s : State) : Host.Outcome State Fault Refusal :=
  finish s (binary s a b w 1 minzW)

def execMaxz (a : SSpec) (b : SOpnd) (w : WReg) (s : State) : Host.Outcome State Fault Refusal :=
  finish s (binary s a b w 1 maxzW)

/-- CMP.cc: 1 if the condition holds, else 0 (R290). -/
def execCmp (a : SSpec) (b : SOpnd) (w : WReg) (c : Cond) (s : State) : Host.Outcome State Fault Refusal :=
  finish s (binary s a b w 1 (fun x y => if condHolds c x y then 1 else 0))

/-- SEL c, a, b: a if c is not zero, else b (R290). -/
def execSel (a : SSpec) (b : SOpnd) (w : WReg) (c : SSpec) (s : State) : Host.Outcome State Fault Refusal :=
  finish s ((readS s a 0).bind fun x s => (readSO s b 1).bind fun y s => (readS s c 2).bind fun z s =>
    .ok () (s.result (if z = 0 then y else x) 1 w))

/-- AGEN a, b, k: a + b * 2^k (R290). -/
def execAgen (a : SSpec) (b : SOpnd) (w : WReg) (k : Fin 16) (s : State) : Host.Outcome State Fault Refusal :=
  finish s (binary s a b w 1 (fun x y => x + (y <<< k.val)))

def execBfi (a : SSpec) (b : SOpnd) (w : WReg) (v : SSpec) (s : State) : Host.Outcome State Fault Refusal :=
  finish s ((readS s a 0).bind fun x s => (readSO s b 1).bind fun y s => (readS s v 2).bind fun z s =>
    .ok () (s.result (bfiW x z y) 1 w))

/-- The bank that MOVX reaches: that of the level in TRAP_CAUSE.PPRIV of the handler (R291). -/
def movxLevel (k : Core) : Level := pprivOf (k.trapRegs k.level).cause

/-- MOVX (R291): in U a move of A, every other form ILLEGAL_OPCODE; in a handler, the register bank of
the interrupted level. -/
def execMovx (a : SSpec) (w : WReg) (idx : Fin 16) (f : MovxForm) (s : State) :
    Host.Outcome State Fault Refusal :=
  finish s (
    if s.pre.level = .u then
      if f = .rdX ∧ idx = 0 then unary s a w id else raise s .illegalOpcode 0
    else
      let l := movxLevel s.pre
      match f with
      | .rdX => need s (a.toBits == 0) .illegalOpcode 0
          ((readSeen s 0 (s.pre.seeX l idx) (opndInfo (16 + idx.val) 0)).bind fun v s =>
            .ok () (s.result v 1 w))
      | .rdT => need s (a.toBits == 0) .illegalOpcode 0
          ((readSeen s 0 (s.pre.seeTake l idx) (opndInfo idx.val 0)).bind fun v s =>
            .ok () (s.result v 1 w))
      | .wrX => (readS s a 0).bind fun v s =>
          .ok () ((s.result v 1 w).upd fun k => k.writeX l idx v 1))

def execLi (w : WReg) (i : Imm) (s : State) : Host.Outcome State Fault Refusal :=
  finish s (.ok () (s.result (immWord i) 1 w))

def execAddi (a : SSpec) (w : WReg) (i : Imm) (s : State) : Host.Outcome State Fault Refusal :=
  finish s (unary s a w (· + immWord i))

def execAndi (a : SSpec) (w : WReg) (i : Imm) (s : State) : Host.Outcome State Fault Refusal :=
  finish s (unary s a w (· &&& immWord i))

def execOri (a : SSpec) (w : WReg) (i : Imm) (s : State) : Host.Outcome State Fault Refusal :=
  finish s (unary s a w (· ||| immWord i))

def execXori (a : SSpec) (w : WReg) (i : Imm) (s : State) : Host.Outcome State Fault Refusal :=
  finish s (unary s a w (· ^^^ immWord i))

def execShli (a : SSpec) (w : WReg) (w32 : Bool) (n : BitVec 6) (s : State) :
    Host.Outcome State Fault Refusal :=
  finish s (unary s a w (fun x => shlW w32 x (n.setWidth 64)))

def execShri (a : SSpec) (w : WReg) (w32 : Bool) (n : BitVec 6) (s : State) :
    Host.Outcome State Fault Refusal :=
  finish s (unary s a w (fun x => shrW w32 x (n.setWidth 64)))

def execSrai (a : SSpec) (w : WReg) (w32 : Bool) (n : BitVec 6) (s : State) :
    Host.Outcome State Fault Refusal :=
  finish s (unary s a w (fun x => sraW w32 x (n.setWidth 64)))

def execBfx (a : SSpec) (w : WReg) (x : Bool) (len pos : BitVec 6) (s : State) :
    Host.Outcome State Fault Refusal :=
  finish s (unary s a w (fun v => bfxW v pos.toNat (len.toNat + 1) x))

end Sys2Proof.Machine
end

