-- ==== Sys2Proof/Machine/Slots.lean ====
section
/-! DEFINITION. The meaning of a slot instruction inside a bundle: the same definitions that the dispatcher of
whole steps calls. -/

namespace Sys2Proof.Machine

/-- Run one slot's instruction. A step that no slot can hold does nothing here. -/
def runSlot (i : Instr) (s : State) : Host.Outcome State Fault Refusal :=
  match i with
  | .yield a => execYield a s
  | .trap imm => execTrap imm s
  | .add a b w s_ => execAdd a b w s_ s
  | .sub a b w s_ => execSub a b w s_ s
  | .mul a b w s_ => execMul a b w s_ s
  | .mulh a b w => execMulh a b w s
  | .mulhz a b w => execMulhz a b w s
  | .div a b w s_ => execDiv a b w s_ s
  | .divz a b w s_ => execDivz a b w s_ s
  | .rem a b w s_ => execRem a b w s_ s
  | .remz a b w s_ => execRemz a b w s_ s
  | .and a b w => execAnd a b w s
  | .or a b w => execOr a b w s
  | .xor a b w => execXor a b w s
  | .andn a b w => execAndn a b w s
  | .shl a b w s_ => execShl a b w s_ s
  | .shr a b w s_ => execShr a b w s_ s
  | .sra a b w s_ => execSra a b w s_ s
  | .rot a b w s_ => execRot a b w s_ s
  | .clz a w s_ => execClz a w s_ s
  | .ctz a w s_ => execCtz a w s_ s
  | .popc a w s_ => execPopc a w s_ s
  | .min a b w => execMin a b w s
  | .max a b w => execMax a b w s
  | .minz a b w => execMinz a b w s
  | .maxz a b w => execMaxz a b w s
  | .cmp a b w c => execCmp a b w c s
  | .sel a b w c => execSel a b w c s
  | .agen a b w k => execAgen a b w k s
  | .bfi a b w v => execBfi a b w v s
  | .movx a w idx f => execMovx a w idx f s
  | .li w i => execLi w i s
  | .addi a w i => execAddi a w i s
  | .andi a w i => execAndi a w i s
  | .ori a w i => execOri a w i s
  | .xori a w i => execXori a w i s
  | .shli a w s_ n => execShli a w s_ n s
  | .shri a w s_ n => execShri a w s_ n s
  | .srai a w s_ n => execSrai a w s_ n s
  | .bfx a w x len pos => execBfx a w x len pos s
  | .ld a d w land sz => execLd a d w land sz s
  | .st a d b w na sp sz => execSt a d b w na sp sz s
  | .spl a off => execSpl a off s
  | .fil w off => execFil w off s
  | .amo a d b w nr w32 op => execAmo a d b w nr w32 op s
  | .amocas a d b w w32 e => execAmocas a d b w w32 e s
  | .fence scope kind => execFence scope kind s
  | .mqrd a w => execMqrd a w s
  | .mqrel a => execMqrel a s
  | .br o => execBr o s
  | .beqz a o => execBeqz a o s
  | .bnez a o => execBnez a o s
  | .bltz a o => execBltz a o s
  | .bgez a o => execBgez a o s
  | .bmz o => execBmz o s
  | .bmnz o => execBmnz o s
  | .loop n o => execLoop n o s
  | .call o => execCall o s
  | .jt a b => execJt a b s
  | .calli a b w => execCalli a b w s
  | .ret a => execRet a s
  | .twait a w => execTwait a w s
  | .twany a w => execTwany a w s
  | .tffr a w => execTffr a w s
  | .tclr a => execTclr a s
  | .binit a b => execBinit a b s
  | .barr a => execBarr a s
  | .bwait a b w => execBwait a b w s
  | .btest a b w => execBtest a b w s
  | .binv a => execBinv a s
  | .csrr w c => execCsrr w c s
  | .csrw a c => execCsrw a c s
  | .sbindRd a off s_ => execSbindRd a off s_ s
  | .sbindWr a off s_ => execSbindWr a off s_ s
  | .sunbind s_ => execSunbind s_ s
  | .lnch a w => execLnch a w s
  | .adjrd a b w sp => execAdjrd a b w sp s
  | .adjclr a b w sp => execAdjclr a b w sp s
  | .tlbinvPart a w => execTlbinvPart a w s
  | .tlbinvIpa a b w => execTlbinvIpa a b w s
  | .tlbinvAll w => execTlbinvAll w s
  | .scrub a w => execScrub a w s
  | .voteRd w => execVoteRd w s
  | .voteAbort w => execVoteAbort w s
  | .voteCommit w => execVoteCommit w s
  | .wfi a w => execWfi a w s
  | .vadd a b t p => execVadd a b t p s
  | .vsub a b t p => execVsub a b t p s
  | .vmul a b t p => execVmul a b t p s
  | .vfma a b c t p => execVfma a b c t p s
  | .vfms a b c t p => execVfms a b c t p s
  | .vfnma a b c t p => execVfnma a b c t p s
  | .vdiv a b t p => execVdiv a b t p s
  | .vsqrt a t p => execVsqrt a t p s
  | .vrsq a t p => execVrsq a t p s
  | .vrcp a t p => execVrcp a t p s
  | .vexp2 a t p => execVexp2 a t p s
  | .vlog2 a t p => execVlog2 a t p s
  | .vmin a b t => execVmin a b t s
  | .vmax a b t => execVmax a b t s
  | .vabs a t p => execVabs a t p s
  | .vneg a t p => execVneg a t p s
  | .vcps a b t => execVcps a b t s
  | .vand a b t => execVand a b t s
  | .vor a b t => execVor a b t s
  | .vxor a b t => execVxor a b t s
  | .vnot a t => execVnot a t s
  | .vshl a b t => execVshl a b t s
  | .vshr a b t => execVshr a b t s
  | .vsra a b t => execVsra a b t s
  | .vmulh a b t => execVmulh a b t s
  | .vcmp a b c t => execVcmp a b c t s
  | .vsel a b c t => execVsel a b c t s
  | .vclass a t => execVclass a t s
  | .vcvt a td pol m ts => execVcvt a td pol m ts s
  | .vpack a b g => execVpack a b g s
  | .vunpk a g => execVunpk a g s
  | .vscl a b t p => execVscl a b t p s
  | .vanc a b t p => execVanc a b t p s
  | .vdanc a b t p => execVdanc a b t p s
  | .vqdec a b c t p => execVqdec a b c t p s
  | .vbcst a t => execVbcst a t s
  | .viota a t => execViota a t s
  | .vperm a b t => execVperm a b t s
  | .vslide a b c t => execVslide a b c t s
  | .vzip a b t hi => execVzip a b t hi s
  | .vunzip a b t hi => execVunzip a b t hi s
  | .vmov a n t => execVmov a n t s
  | .vsw a n t => execVsw a n t s
  | .vext a b t => execVext a b t s
  | .vrsum a t p => execVrsum a t p s
  | .vrmax a t => execVrmax a t s
  | .vrmin a t => execVrmin a t s
  | .vscan a t p => execVscan a t p s
  | .vdot a b t p => execVdot a b t p s
  | .mpush a t => execMpush a t s
  | .mset a t => execMset a t s
  | .mop z a b k neg => execMop z a b k neg s
  | .mopz z a b k neg => execMopz z a b k neg s
  | .mr1 z a b k neg => execMr1 z a b k neg s
  | .mr1z z a b k neg => execMr1z z a b k neg s
  | .mzero z => execMzero z s
  | .macc z s_ neg => execMacc z s_ neg s
  | .mscl z e => execMscl z e s
  | .mdrain z q pol clr m first rows t => execMdrain z q pol clr m first rows t s
  | .mfmt v => execMfmt v s
  | .msave z h p => execMsave z h p s
  | .mload z h p => execMload z h p s
  | .cpy g a b c => execCpy g a b c s
  | .cpyp g a b c => execCpyp g a b c s
  | .cstrp g a b c => execCstrp g a b c s
  | .ctld g n b c => execCtld g n b c s
  | .ctst g n b c => execCtst g n b c s
  | .cqst g q b c => execCqst g q b c s
  | .cfill g a b c => execCfill g a b c s
  | .czero g a c => execCzero g a c s
  | .cpref a c => execCpref a c s
  | .cflush g a c => execCflush g a c s
  | .cmsg g a b => execCmsg g a b s
  | .fwr g a b c => execFwr g a b c s
  | .famo g a b c => execFamo g a b c s
  | .freq g a b c => execFreq g a b c s
  | .flnch g a c => execFlnch g a c s
  | .ttset a b => execTtset a b s
  | .trdy a => execTrdy a s
  | .rcut a => execRcut a s
  | .rpick a => execRpick a s
  | .rstat w a => execRstat w a s
  | .nbld g a b => execNbld g a b s
  | .nbx g a c => execNbx g a c s
  | .nbq w a b => execNbq w a b s
  | .msat g a b c => execMsat g a b c s
  | .hsig a b c => execHsig a b c s
  | .nop => execNop s
  | .endI => execEndI s
  | .eret => execEret s
  | .dmodeFwd => execDmodeFwd s
  | .dmodeRew => execDmodeRew s
  | .minv => execMinv s
  | .mpop => execMpop s
  | .mfence => execMfence s
  | _ => .next s

end Sys2Proof.Machine
end

