-- ==== Sys2Proof/Machine/Issue.lean ====
section
/-! DEFINITION. A core's issue cycle (R139-R154, R205, R246-R255, R262-R265): what holds it, what refuses its bundle,
and the bundle itself. -/

namespace Sys2Proof.Machine

/-! ### Cycles without a bundle -/

/-- The cores that issue together with a core: a joined quad's (R152, R153). -/
def issueGroup (s : State) (c : Fin 256) : List (Fin 256) :=
  if (s.coreAt c).joined then (coresOfQuad (quadOf c)).filter fun d => (s.coreAt d).run = .running else [c]

/-- A cycle in which a core is held by something other than its own bundle (R10, R143, R153). -/
def State.heldCycle (s : State) (c : Fin 256) : State :=
  let k := s.coreAt c
  ((s.mapCore c fun k => { k with holdCyc := k.holdCyc + 1 }).meter k.part 0 1).meter k.part 1 1

/-- A cycle of a core that is no hold: meter 0 (R71). -/
def State.busyCycle (s : State) (c : Fin 256) : State := s.meter (s.coreAt c).part 0 1

/-- An empty issue cycle: of a folded bundle, after a taken transfer, or under an MFENCE (R154, R265, R346). -/
def Core.emptyCycle (k : Core) : Core :=
  let k := { k with clk := k.clk + 1, skip := k.skip - 1 }
  if engineRuns k then { k.engineOpen.engineClose with icyc := k.icyc + 1 } else k

def State.emptyCycles (s : State) (g : List (Fin 256)) : State :=
  g.foldl (fun s d => (s.mapCore d (·.emptyCycle)).busyCycle d) s

/-- The engine's own lock lets the engine run on; the MFMT delay stands still (R143). -/
def Core.lockCycle (k : Core) : Core :=
  if engineRuns k then { k.engineOpen.engineClose with fmtp := k.fmtp, fmte := k.fmte } else k

/-- Holds of some of a group hold all of it (R153). The wait of an MFENCE is empty issue cycles (R346), where none holds
otherwise. -/
def State.holdGroup (s : State) (g : List (Fin 256)) (holds : List (Fin 256 × Hold)) : State :=
  if holds.all fun e => e.2 = .mfence then (holds.foldl (fun s e => s.holdOn e.1 e.2) s).emptyCycles g
  else g.foldl (fun s d => match holds.find? fun e => e.1 = d ∧ e.2 ≠ .mfence with
    | some e => s.holdOn d e.2
    | none => s.heldCycle d) s

/-- A cycle of a handler's entry, or between ERET and its bundle (R248, R253). Where data of the interrupted context has
not landed, the twelve cycles wait for it. -/
def Core.entryCycle (k : Core) : Core :=
  if k.lateLoad && !engineRuns k && decide (k.entryWait ≤ 11) then k
  else { k with entryWait := k.entryWait - 1 }

/-- One cycle of a YIELD (R297). -/
def Core.yieldCycle (k : Core) : Core :=
  match k.wait with
  | some (.yield n) => { k with wait := if n ≤ 1 then none else some (.yield (n - 1)) }
  | _ => k

/-- The count of a YIELD or a WFI in a cycle whose issue is gated (R10, R297, R312). -/
def Core.gatedCycle (k : Core) : Core :=
  match k.wait with
  | some (.wfi (some n)) => { k with wait := some (.wfi (some (max 1 (n - 1)))) }
  | _ => if k.skip = 0 then k.yieldCycle else k

def isYield : Option Hold → Bool
  | some (.yield _) => true
  | _ => false

/-! ### Refusals (R248, R249, R417) -/

/-- The bundle due of a group is refused: each core with its own cause, or as a sibling (R153). TRAP_ENTRY takes them
next. A cause of the engine, in SLOT 7, leaves its operation as R343 and R349 give. -/
def State.refuse (s : State) (g : List (Fin 256)) (own : List (Fin 256 × Trap)) (blen : Nat) : State :=
  let trapOf (d : Fin 256) : Trap := ((own.find? (·.1 = d)).map (·.2)).getD ⟨.tandemSibling, 6, 0⟩
  let rs : List Refused := g.map fun d => ⟨d, trapOf d, blen⟩
  let s := own.foldl (fun (s : State) (e : Fin 256 × Trap) =>
    if e.2.slot = 7 then s.mapCore e.1 fun k => k.engineOpen.engineTrapped else s) s
  let s := g.foldl (fun (s : State) d => (s.leaveWait d).busyCycle d) s
  { s with agenda := ⟨.trapEntry, Input.reset⟩ :: s.agenda, free := s.free + 1 }.mark (.refused rs)

/-- Those of a joined quad with a cause of their own, then their siblings: a launch keeps its first cause (R250). -/
def ownFirst {α : Type} (own : α → Bool) (l : List α) : List α := l.filter own ++ l.filter fun x => !own x

/-- TRAP_ENTRY: the causes of the bundle refused last are taken (R246-R256). -/
def execTrapEntry (s : State) : Host.Outcome State Fault Refusal :=
  match s.issue.result with
  | .refused l =>
    let h := l.any fun r => (s.coreAt r.core).goesToH r.trap
    .next ((ownFirst (fun r => r.trap.cause ≠ .tandemSibling) l |>.foldl (fun (s : State) (r : Refused) =>
      ({ s with issue := { s.issue with blen := r.blen } }).takeTrapOn r.core h r.trap) s).mark .ok)
  | _ => .next s

/-- A cause that a failed access brings to the bundle due (R417). -/
def accessCause (k : Core) : Option Trap :=
  match k.landedErr with
  | some l => l.err.map fun c => ⟨c, 0, l.addr⟩
  | none => match k.late with
    | (c, a) :: _ => some ⟨c, 0, a⟩
    | [] => none

/-- It is reported once; the access is not repeated (R417). -/
def Core.reported (k : Core) : Core :=
  match k.landedErr with
  | some l => { k with loads := k.loads.filter fun e => e.id ≠ l.id }
  | none => { k with late := k.late.drop 1 }

/-- The cause of the matrix engine in this cycle, with SLOT 7 (R149, R349). -/
def engineTrap (k : Core) (pops : Fin 2 → Nat) : Option Trap :=
  if engineRuns k then (engineCause k.engineOpen pops).map fun c =>
    ⟨c, 7, if c = .uncorrectable then ((pushFault k.engineOpen).map spadInfo).getD 0 else 0⟩ else none

/-- Cores of a group with a cause. -/
def causesOf (g : List (Fin 256)) (f : Fin 256 → Option Trap) : List (Fin 256 × Trap) :=
  g.filterMap fun d => (f d).map fun t => (d, t)

/-- All the causes of R255. -/
def allCauses : List Cause :=
  [.illegalOpcode, .headerReserved, .fetchCheck, .fetchRange, .privileged, .breakpoint, .trapInstr,
   .controlIntegrity, .callDepth, .tandemMismatch, .tandemSibling, .operandReserved, .shadowRead, .queueFull,
   .queueEmpty, .copyqFull, .matqFull, .streamUnbound, .streamEnd, .maskOverflow, .maskUnderflow, .tileConfig,
   .tileBusy, .csrAccess, .spillRange, .xlateS1, .xlateS2, .accessKind, .misaligned, .polderUndeclared,
   .windowCode, .msgTarget, .msgqFull, .msgqEmpty] ++
  [.barrierStore, .barrierRange, .tagBusy, .fabricTimeout, .lnchFull, .barrierState, .cvtOverflow, .intCode,
   .divZero, .typeReserved, .reelFull, .reelEmpty, .reelMismatch, .diffRemote, .diffShape, .diffKind,
   .diffUndeclared, .collEntry, .collSeq, .collCheck, .spillFull, .rankRange, .ownership, .checkFail,
   .uncorrectable, .voteStall, .nestedTrap, .corrected, .imageCheck, .controlDrop]

def Cause.ofCode (n : Nat) : Cause := (allCauses.find? fun c => c.code = n).getD .illegalOpcode

/-- A core stands at the default H handler of the firmware, which ends the launch with the cause it was entered for, and logs it
(R247). -/
def atDefaultHandler (s : State) (k : Core) : Bool :=
  k.level = .h && k.base ≠ .h && k.pc.toNat = 4 * s.hvecBoot.toNat

def State.defaultHandler (s : State) (c : Fin 256) : State :=
  let k := s.coreAt c
  (s.mapCore c fun k => { k with pc := k.trapH.pc }).killCore c (Cause.ofCode (bitsOf k.trapH.cause.toNat 0 7)) k.trapH.cause
    11 k.trapH.info

/-! ### The bundle due -/

/-- A decode error as a cause of its slot (R252, R268). The position of a reserved W is a free value: the manual gives
positions to operands alone. DESIGN CHOICE: log entry 9. -/
def decTrap (s : State) (sl : Slot) : DecErr → Trap
  | .illegalOpcode => ⟨.illegalOpcode, Slot.num sl, 0⟩
  | .operandReserved sp pos =>
    ⟨.operandReserved, Slot.num sl, opndInfo sp (if pos = 3 then Config.shadowIndex s.free % 8 else pos)⟩
  | .typeReserved => ⟨.typeReserved, Slot.num sl, 0⟩

/-- What a level lets the fields of an instruction hold (R291): in U MOVX only moves A, and in a handler its reads hold zero in A. -/
def levelOk (l : Level) : Instr → Bool
  | .movx a _ idx f => if l = .u then f = .rdX && idx = 0 else f = .wrX || a.toBits == 0
  | _ => true

/-- The instructions of a bundle in slot order, or its first decode cause. -/
def decodeSlots (s : State) (l : Level) : List SlotWord → Except Trap (List (Slot × Instr))
  | [] => .ok []
  | w :: ws =>
    match decodeSlot (Slot.cls w.slot) w.word w.lit with
    | .error e => .error (decTrap s w.slot e)
    | .ok i => if !levelOk l i then .error (decTrap s w.slot .illegalOpcode) else match decodeSlots s l ws with
      | .error t => .error t
      | .ok is => .ok ((w.slot, i) :: is)

/-- A failed line of HBM that the fetch of a bundle at H finds (R22, R23). -/
def failedCode (s : State) (b : RawBundle) : Option Trap :=
  (b.lines true).findSome? fun (_, l) => (tagFault s 0 (64 * l)).map fun c => ⟨c, 6, BitVec.ofNat 64 (64 * l)⟩

/-- Fetch causes, in the order of R249, for a bundle that may be fetched. -/
def fetchBundle (s : State) (k : Core) (b : RawBundle) : Except Trap (List (Slot × Instr)) :=
  match (if k.level = .h then failedCode s b else none) with
  | some t => .error t
  | none =>
  if xorBytes b.words ≠ hdChk b.head then .error ⟨.fetchCheck, 6, 0⟩
  else if hdReserved b.head then .error ⟨.headerReserved, 6, 0⟩
  else if hdBrk b.head && !k.brkSkip then .error ⟨.breakpoint, 6, 0⟩
  else decodeSlots s k.level b.slots

/-- Offset of a bundle in words from the start of its image (R227); at H from the code of an H kernel, else from DPA
0. -/
def bundleOfs (s : State) (k : Core) : BitVec 32 :=
  let code := if k.level = .h && k.base = .h then ((k.launch.bind s.launchById).map (·.code)).getD 0 else 0
  BitVec.ofNat 32 ((k.pc.toNat - code) / 4)

/-- Clocks of acquire atomics whose data has arrived (R203). -/
def Core.mergeAcquired (k : Core) : Core :=
  let got := k.loads.filter fun l => l.acquire && l.data.isSome && l.err.isNone
  if got.isEmpty then k
  else
    let rc := got.foldl (fun c l => Clk.max c l.clk) k.rc
    { k with rc := rc, wc := Clk.max k.wc rc }

/-- Open the issue of a bundle on a core: what has landed leaves, the engine's cycle begins, and the operands are
those of this moment (R139). -/
def State.openBundle (s : State) (c : Fin 256) (b : RawBundle) (is : List (Slot × Instr)) : State :=
  let k := (s.coreAt c).mergeLanded.mergeAcquired
  let k := if engineRuns k then k.engineOpen else k
  { s.setCore c { k with wait := none } with
    issue := { core := c, slot := .s, pre := k, ofs := bundleOfs s k, blen := b.len, taken := false, slots := is,
               binds := [], result := .ok } }

/-- Run the slots in order, up to the first that traps or holds. -/
def runSlots : List (Slot × Instr) → State → State
  | [], s => s
  | (sl, i) :: rest, s =>
    match runSlot i { s with issue := { s.issue with slot := sl } } with
    | .next s' => match s'.issue.result with
      | .ok => runSlots rest s'
      | _ => s'
    | _ => s

/-- A vector instruction that pops or pushes a stream. -/
def movesStream : Instr → Bool
  | .vsw _ _ _ => true
  | i => (popsOf.vspecsOf i).any fun v => match v with
    | .stream _ => true
    | _ => false

/-- Memory accesses, in any slot, which an acquire atomic makes wait (R203). -/
def isAccess : Instr → Bool
  | .ld _ _ _ _ _ | .st _ _ _ _ _ _ _ | .amo _ _ _ _ _ _ _ | .amocas _ _ _ _ _ _ | .lnch _ _ | .adjrd _ _ _ _
  | .adjclr _ _ _ _ | .cpy _ _ _ _ | .cpyp _ _ _ _ | .cstrp _ _ _ _ | .ctld _ _ _ _ | .ctst _ _ _ _ | .cqst _ _ _ _
  | .cfill _ _ _ _ | .czero _ _ _ | .cpref _ _ | .cflush _ _ _ | .cmsg _ _ _ | .fwr _ _ _ _ | .famo _ _ _ _
  | .freq _ _ _ _ | .flnch _ _ _ | .nbld _ _ _ | .nbx _ _ _ | .msat _ _ _ _ | .hsig _ _ _ | .msave _ _ _ | .mload _ _ _
  | .binit _ _ | .barr _ | .bwait _ _ _ | .btest _ _ _ | .binv _ | .ttset _ _ | .trdy _ | .rpick _ => true
  | i => movesStream i

/-- An acquire atomic of the core has not landed (R203). -/
def acquiring (s : State) (c : Fin 256) : Bool :=
  ((s.coreAt c).loads.any fun l => l.acquire && l.data.isNone) ||
    s.memq.any fun o => o.core = c && o.acq && o.result.isNone

/-- Vectors of a queue that a bundle pops: operand reads, and a CQST's (R149). -/
def bundlePops (s : State) (q : Fin 2) : Nat :=
  (s.issue.slots.map fun (e : Slot × Instr) => match e.2 with
    | .cqst _ p _ z => if p = q then (match readSO s z 2 with | .ok v _ => qcN v | _ => 0) else 0
    | i => popsOf q i).foldl (· + ·) 0

/-- Close a bundle that issued: stream bindings, the engine's cycle, the next address, and the empty cycles to come
(R154, R253, R265, R303). -/
def State.closeBundle (s : State) (b : RawBundle) : State :=
  let c := s.issue.core
  let pre := s.issue.pre
  let taken := s.issue.taken
  let back : Bool := s.issue.slots.any fun e => e.2 = .eret
  let edge : Bool := s.issue.slots.any fun e => match e.2 with
    | .loop _ _ => true
    | _ => false
  let idle := hdIdle b.head
  let base := engineRuns pre
  let s := s.applyBinds
  let s := if base then s.mapCore c (·.engineClose) else s
  let s := s.mapCore c fun k =>
    { k with pc := if taken then k.pc else pre.pc + BitVec.ofNat 64 (4 * b.len)
             clk := k.clk + 1
             icyc := if base then k.icyc + 1 else k.icyc
             issuedAt := some s.cycle
             skip := if back then 0 else idle + (if taken && !edge then 2 else 0)
             entryWait := if back then k.entryWait + idle else k.entryWait
             brkSkip := back && k.brkSkip
             lastSp := if base && hdSp b.head then some pre.pc.toNat else none
             joined := k.joined && !(hdTnd b.head = 1) }
  let s := s.busyCycle c
  match pre.launch.bind s.launchById with
  | some l => if pre.icyc = 0 && l.first.isNone then s.mapLaunch l.id fun l => { l with first := some s.cycle } else s
  | none => s

/-- A pending stop is taken at a safe point that has issued (R103); not in a handler. -/
def State.stopAtSp (s : State) (b : RawBundle) (c : Fin 256) : State :=
  let k := s.coreAt c
  if hdSp b.head && k.stop.isSome && k.run = .running && k.level = k.base && k.lastSp = some b.at_ then
    (s.mapCore c fun k => { k with wait := none }).haltCore c b.at_
  else s

/-- What a core's bundle came to. -/
inductive IssueEnd where
  | done
  | trap (t : Trap)
  | hold (h : Hold)
  deriving DecidableEq

/-- Run the bundle of one core: how it ended, whether and where it transferred, and the state after it. -/
def runCore (s : State) (c : Fin 256) (b : RawBundle) (is : List (Slot × Instr)) : IssueEnd × Option Word × State :=
  let o := s.openBundle c b is
  if is.any (fun e => isAccess e.2) && acquiring s c then (.hold .acquire, none, s)
  else
    let r := runSlots is o
    let target : Option Word := if r.issue.taken then some (r.coreAt c).pc else none
    match r.issue.result with
    | .held h => (.hold h, none, s)
    | .trapped t => match engineTrap (s.coreAt c) (bundlePops o) with
      | some e => (.trap e, none, s)
      | none => (.trap t, none, s)
    | _ => match engineTrap (s.coreAt c) (bundlePops o) with
      | some e => (.trap e, none, s)
      | none => (.done, target, r.closeBundle b)

/-- Issue a decoded bundle on a group (R139, R153): a hold of any core holds all; where every one is of a core's own MSAVE or
MLOAD their engines run on (R143); a trap of any traps all, and a
transfer that differs between them is TANDEM_MISMATCH on all. -/
def State.issueBundle (s : State) (g : List (Fin 256)) (b : RawBundle) (is : List (Slot × Instr)) : State :=
  let step (acc : List (Fin 256 × IssueEnd × Option Word) × State) (c : Fin 256) :=
    let (e, t, s') := runCore acc.2 c b is
    (acc.1 ++ [(c, e, t)], s')
  let (ends, s') := g.foldl step ([], s)
  let holds : List (Fin 256 × Hold) := ends.filterMap fun e => match e.2.1 with
    | .hold h => some (e.1, h)
    | _ => none
  let real (h : Hold) : Bool := h ≠ .ownLock && h ≠ .mfence
  let held := (holds.find? (real ·.2) <|> holds.find? (·.2 = .mfence) <|> holds.head?).map (·.2)
  let traps : List (Fin 256 × Trap) := ends.filterMap fun e => match e.2.1 with
    | .trap t => some (e.1, t)
    | _ => none
  let noted : State := { s with issue := { s.issue with blen := b.len } }
  match held with
  | some h =>
    let runs : List (Fin 256) := if h = .ownLock then holds.map (·.1) else if h = .mfence then g else []
    let engine := causesOf runs fun d => engineTrap (s.coreAt d) fun _ => 0
    if !engine.isEmpty then noted.refuse g engine b.len
    else
      let s := noted.holdGroup g holds
      let s := if h = .ownLock then holds.foldl (fun s e => s.mapCore e.1 (·.lockCycle)) s else s
      s.mark (.held h)
  | none =>
    if !traps.isEmpty then noted.refuse g traps b.len
    else if ends.any fun e => e.2.2 ≠ (ends.head?.map (·.2.2)).getD none then
      noted.refuse g (g.map fun d => (d, ⟨.tandemMismatch, 0, 0⟩)) b.len
    else g.foldl (fun s c => s.stopAtSp b c) (s'.mark .ok)

/-- REJOIN (R152): a core of a decoupled tandem raises its line and waits; where a sibling has ended it is
TANDEM_MISMATCH. -/
def State.atRejoin (s : State) (c : Fin 256) (b : RawBundle) : State :=
  if (s.coreAt c).lonely then s.refuse [c] [(c, ⟨.tandemMismatch, 6, 0⟩)] b.len
  else (s.holdOn c .rejoin).mapCore c fun k => { k with rejoin := true }

/-- The bundle at the group's address, fetched, checked and issued. -/
def State.issueAt (s : State) (g : List (Fin 256)) (c : Fin 256) : State :=
  let k := s.coreAt c
  if !mayFetch s k then
    s.refuse g (g.map fun d => (d, ⟨.fetchRange, 6, 0⟩)) (1 + Config.shadowIndex s.free % 13)
  else
    let b := bundleAt s c
    if !fetched k b then s.holdGroup g [(c, .fetch)]
    else
      let rejoins := hdTnd b.head = 2 && k.hdr.tandem && !k.joined
      match fetchBundle s k b with
      | .error t => match causesOf g fun d => engineTrap (s.coreAt d) fun _ => 0 with
        | [] => s.refuse g (g.map fun d => (d, t)) b.len
        | own => s.refuse g own b.len
      | .ok is => if rejoins then s.atRejoin c b else s.issueBundle g b is

/-- Whether a tile transfer keeps the MSAVE or MLOAD at work on a core waiting in this cycle (R156). -/
def State.holdSave (s : State) (c : Fin 256) : State :=
  let k := s.coreAt c
  let held : Bool := ownLock k && lockedBanks s c ≠ 0
  if held = k.saveHeld then s else s.mapCore c fun k => { k with saveHeld := held }

/-- One cycle of a group of running cores. -/
def State.groupCycle (s : State) (g : List (Fin 256)) (c : Fin 256) : State :=
  let s := g.foldl State.holdSave s
  let at_ (d : Fin 256) : Core := s.coreAt d
  let n := gateOf s c
  if s.cycle % n ≠ 0 then g.foldl (fun s d => (s.mapCore d (·.gatedCycle)).heldCycle d) s
  else if g.any fun d => 0 < (at_ d).entryWait then
    g.foldl (fun s d => (s.mapCore d (·.entryCycle)).busyCycle d) s
  else if (at_ c).skip = 0 && g.any fun d => isYield (at_ d).wait then
    g.foldl (fun s d => (s.mapCore d (·.yieldCycle)).heldCycle d) s
  else match g.find? fun d => (at_ d).lateLoad with
    | some d => s.holdGroup g [(d, .data)]
    | none =>
      match causesOf g fun d => accessCause (at_ d) with
      | e :: es =>
        let s := (e :: es).foldl (fun s x => s.mapCore x.1 (·.reported)) s
        s.refuse g (e :: es) (bundleAt s c).len
      | [] =>
        if (at_ c).skip ≠ 0 then
          match causesOf g fun d => engineTrap (at_ d) fun _ => 0 with
          | [] => s.emptyCycles g
          | own => s.refuse g own (bundleAt s c).len
        else if g.any fun d => atDefaultHandler s (at_ d) then
          let own (d : Fin 256) : Bool := bitsOf (at_ d).trapH.cause.toNat 0 7 ≠ 0x0A
          (ownFirst own (g.filter fun d => atDefaultHandler s (at_ d))).foldl (fun s d => s.defaultHandler d) s
        else s.issueAt g c

/-- BUNDLE_ISSUE: one issue cycle of a core, with those that are joined to it. A core after END counts core-cycles until
it has ended. -/
def execBundleIssue (core : Fin 256) (s : State) : Host.Outcome State Fault Refusal :=
  match (s.coreAt core).run with
  | .running => .next (s.groupCycle (issueGroup s core) core)
  | .ending => .next (s.busyCycle core)
  | _ => .next s

end Sys2Proof.Machine
end

