-- ==== Sys2Proof/Machine/Steps.lean ====
section
/-! DEFINITION. The core's other steps: fetch, arrival of data, what the homes perform, releases of holds, and stops
(R86, R91, R103, R143, R152, R167, R171, R193-R205, R417). -/

namespace Sys2Proof.Machine

/-! ### Fetch and translation -/

/-- FETCH_LINES_ARRIVE: the lines of the bundle that a core waits for are in its fetch buffer (R143). -/
def execFetchLinesArrive (s : State) : Host.Outcome State Fault Refusal :=
  let c := s.inp.core
  let k := s.coreAt c
  if k.wait = some .fetch then
    let new := ((bundleAt s c).lines (k.level = .h)).filter fun l => !k.fbuf.contains l
    .next (s.mapCore c fun k => { k with fbuf := new ++ k.fbuf, wait := none })
  else .next s

/-- TLB_WALK_DONE: the oldest walk of a core fills its TLBs (R86). -/
def execTlbWalkDone (core : Fin 256) (s : State) : Host.Outcome State Fault Refusal := .next (fillTlb s core)

/-! ### Late reports (R417) -/

def memOpOf (s : State) (id : Nat) : Option MemOp := s.memq.find? (·.id = id)

/-- LOAD_DATA_ARRIVE: the answer of a load or a value-returning atomic reaches its core (R143, R352). -/
def execLoadDataArrive (core : Fin 256) (id : Nat) (s : State) : Host.Outcome State Fault Refusal :=
  match memOpOf s id with
  | some o => .next (if o.core = core then (s.deliverOp o).rouse core else s)
  | none => .next s

def LateFault.cause : LateFault → Cause
  | .checkFail => .checkFail
  | _ => .uncorrectable

/-- Words of each of a core's arrays (R21). -/
def CoreArray.words : CoreArray → Nat
  | .spill => 4096
  | .tile _ => 4224
  | .acc _ => 8192
  | .shadow => 8192

/-- A word of a core's arrays, or of the shadow storage that holds a context of it, has failed. -/
def State.failWord (s : State) (c : Fin 256) (a : CoreArray) (n : Nat) : State :=
  if CoreArray.words a ≤ n then s
  else if a = .shadow then
    { s with saved := s.saved.map fun (x : Saved) =>
        if x.core = c && x.at_ ≠ .memory then { x with ctx := x.ctx.failWord a n } else x }
  else s.mapCore c fun k => k.failWord a n

/-- An access answers with a value. -/
def MemOp.returns (o : MemOp) : Bool :=
  match o.kind with
  | .load _ _ => true
  | .amo _ _ _ ret _ => ret
  | .cas _ _ _ => true
  | _ => false

/-- A line that an access meets has failed: its own, L2's copy of it where the access sees that, or the first of the stored
bytes of a window (R21, R23). -/
def State.failOp (s : State) (o : MemOp) (code : Nat) : State :=
  match o.win with
  | none => if o.side then { s with badLines := SMap.set 0 s.badLines (o.dpa / 64) code } else s.failLine o.tag o.dpa code
  | some i => match (windowNo s o.part i).bind fun w => (storedPlaces s o.part w o.va.toNat).head? with
    | some a => { s with badLines := SMap.set 0 s.badLines (a / 64) code }
    | none => s

/-- UNCORRECTABLE_REPORT: the home of an access still under way finds its line failed; the line keeps its state and the
access is not performed (R22, R23, R417). Or a word of one of the core's own arrays has failed (R21). -/
def execUncorrectableReport (core : Fin 256) (id : Nat) (why : LateFault) (s : State) :
    Host.Outcome State Fault Refusal :=
  let cause := LateFault.cause why
  let code : Nat := if why = .uncorrectable then 1 else 2
  match why, memOpOf s id with
  | .word a n, _ => .next (s.failWord core a n.val)
  | _, none => .next s
  | _, some o =>
    if o.core ≠ core || o.onPath || o.result.isSome then .next s
    else
      let s := s.failOp o code
      .next (if o.returns then
          let s := s.answerBad id cause s.perf[o.home]
          (match memOpOf s id with
            | some o => s.deliverOp o
            | none => s).rouse core
        else (s.reportLate o cause).rouse core)

/-! ### What the homes perform (R91, R193-R204) -/

/-- A write or an atomic. -/
def MemOp.writes (o : MemOp) : Bool :=
  match o.kind with
  | .store _ | .amo _ _ _ _ _ | .cas _ _ _ | .accum _ _ _ => true
  | _ => false

def MemOp.loads (o : MemOp) : Bool :=
  match o.kind with
  | .load _ _ => true
  | _ => false

/-- Lines that an access uses at a channel, as tokens of a bucket that holds 64. -/
def MemOp.tokens (s : State) (o : MemOp) (ch : Fin 256) : Nat := min 64 ((o.chans s).count ch)

/-- The channel at which a best-effort access finds too few tokens, or others that wait (R91); `past` is one where it has
had its turn. -/
def tokenShort (s : State) (o : MemOp) (past : Option (Fin 256)) : Option (Fin 256) :=
  if bestEffort s o.part then
    (o.chans s).find? fun ch => some ch ≠ past && match s.qosAt ch o.part with
      | some q => !q.waiting.isEmpty || !hasTokens s ch o.part (o.tokens s ch)
      | none => false
  else none

/-- An access waits at a channel's ingress for a token. -/
def State.waitToken (s : State) (o : MemOp) (ch : Fin 256) : State :=
  s.updQos ch o.part fun q => { q with waiting := q.waiting ++ [(o.id, s.cycle)] }

/-- A write is performed at its home: the issuing die sees it at once (R201). -/
def State.perform (s : State) (o : MemOp) : State := ((s.performWrite o).seePerformed (dieOf o.core)).rouse o.core

/-- An access is performed or served at its home. -/
def State.atHome (s : State) (o : MemOp) : State := if o.writes then s.perform o else s.serveRead o

/-- An access goes on at its home, or waits for a token. -/
def State.admitOp (s : State) (o : MemOp) (past : Option (Fin 256)) : State :=
  match tokenShort s o past with
  | some ch => s.waitToken o ch
  | none => s.atHome o

/-- WRITE_PERFORM. -/
def execWritePerform (id : Nat) (s : State) : Host.Outcome State Fault Refusal :=
  match memOpOf s id with
  | none => .next s
  | some o => .next (if o.ready s && o.writes then s.admitOp o none else s)

/-- READ_SERVE. -/
def execReadServe (id : Nat) (s : State) : Host.Outcome State Fault Refusal :=
  match memOpOf s id with
  | none => .next s
  | some o => .next (if o.ready s && o.loads then s.admitOp o none else s)

/-- The first request that waits for a token of a partition at a channel, where it need not wait longer: there are tokens for
it, and no near-bank run holds a channel that it uses (R91, R187). -/
def tokenTurn (s : State) (ch : Fin 256) (part : Nat) : Option (Nat × Nat) :=
  match (s.qosAt ch part).bind fun q => q.waiting.head? with
  | none => none
  | some w => match memOpOf s w.1 with
    | none => some w
    | some o => if hasTokens s ch part (o.tokens s ch) && !o.nbWaits s then some w else none

/-- TOKEN_WAIT_END: it goes on; its wait counts in event 9 (R91, R95). -/
def execTokenWaitEnd (channel : Fin 256) (part : Fin 16) (s : State) : Host.Outcome State Fault Refusal :=
  let p := partNo part
  match tokenTurn s channel p with
  | none => .next s
  | some (id, since) =>
    let s := s.updQos channel p fun q => { q with waiting := q.waiting.drop 1 }
    match memOpOf s id with
    | none => .next s
    | some o => .next ((s.countCtx o.launch o.core 9 (s.cycle - since)).admitOp o (some channel))

/-- PERF_BROADCAST: the performed prefix of a die reaches the others (R201). -/
def execPerfBroadcast (die : Fin 4) (s : State) : Host.Outcome State Fault Refusal := .next (s.broadcast die)

/-- Age at which a combining entry is applied (R171). -/
def combineAge : Nat := 256

/-- COMBINING_ENTRY_APPLY: the entries of a channel that have reached their age (R171). -/
def execCombiningEntryApply (channel : Fin 256) (s : State) : Host.Outcome State Fault Refusal :=
  .next (s.applyCombined channel fun e => decide (e.since + combineAge ≤ s.cycle))

/-- A bank's open row has seen no access for 512 cycles (R167). -/
def rowIdle (s : State) (channel : Fin 256) (bank : Fin 32) : Bool :=
  let v := SMap.get 0 s.openRows (32 * channel.val + bank.val)
  v ≠ 0 && decide (v / 32768 + 512 ≤ s.cycle)

/-- DRAM_ROW_CLOSE (R167). -/
def execDramRowClose (channel : Fin 256) (bank : Fin 32) (s : State) : Host.Outcome State Fault Refusal :=
  .next (if rowIdle s channel bank then
      { s with openRows := SMap.set 0 s.openRows (32 * channel.val + bank.val) 0 }
    else s)

/-! ### Ends of holds -/

/-- The FENCE at which a core holds. -/
def fenceAt (s : State) (c : Fin 256) : Option (BitVec 4 × BitVec 2) :=
  if (s.coreAt c).wait = some .fence then
    (bundleAt s c).slots.findSome? fun w => match w.slot, decodeSlot (Slot.cls w.slot) w.word w.lit with
      | .s, .ok (.fence sc kd) => some (sc, kd)
      | _, _ => none
  else none

/-- The conditions of a waiting fence are met. -/
def fenceReleased (s : State) (c : Fin 256) : Bool :=
  match fenceAt s c with
  | some (sc, kd) => fenceMet s c kd.toNat sc.toNat
  | none => false

/-- FENCE_RELEASE: the clocks of the reads it waited for are merged, combining entries applied, and its bundle can
issue (R205, R359). -/
def execFenceRelease (s : State) : Host.Outcome State Fault Refusal :=
  let c := s.inp.core
  match fenceAt s c with
  | none => .next s
  | some (sc, kd) =>
    if !fenceMet s c kd.toNat sc.toNat then .next s
    else
      .next ((s.endFence c sc.toNat).mapCore c fun k => { k with wait := none })

/-- A pending stop of a core can be taken at the YIELD in which it holds: that bundle was a safe point (R297). -/
def yieldStop (k : Core) : Option Nat :=
  if k.stop.isSome && k.level = k.base && isYield k.wait then k.lastSp else none

/-- Halt a core at a stop point, with those that are joined to it (R153). -/
def State.haltGroup (s : State) (c : Fin 256) (off : Nat) : State :=
  (issueGroup s c).foldl (fun s d =>
    (if isYield (s.coreAt d).wait then s.mapCore d fun k => { k with wait := none } else s).haltCore d off) s

/-- End a YIELD, and stop there if a stop is pending and its bundle was a safe point. -/
def State.endYield (s : State) (c : Fin 256) : State :=
  match yieldStop (s.coreAt c) with
  | some off => s.haltGroup c off
  | none => s.mapCore c fun k => { k with wait := none }

/-- YIELD_END: its count, or an event, ends a YIELD (R297). -/
def execYieldEnd (core : Fin 256) (why : YieldWhy) (s : State) : Host.Outcome State Fault Refusal :=
  match (s.coreAt core).wait, why with
  | some (.yield n), .count => .next (if n ≤ 1 then s.endYield core else s)
  | some (.yield _), _ => .next (s.endYield core)
  | _, _ => .next s

/-- REJOIN_MEET: all four lines of a quad are raised; the four go on as one, or each has TANDEM_MISMATCH at its own
bundle (R152). -/
def execRejoinMeet (quad : Fin 64) (s : State) : Host.Outcome State Fault Refusal :=
  let g := coresOfQuad quad
  if !(g.all fun c => (s.coreAt c).rejoin && (s.coreAt c).wait = some .rejoin) then .next s
  else
    let pc := (s.coreAt (g.headD 0)).pc
    let same := g.all fun c => (s.coreAt c).pc = pc
    let s := g.foldl (fun s c => s.mapCore c fun k => { k with rejoin := false, joined := same, wait := none }) s
    if same then .next s
    else .next (g.foldl (fun s c => (s.onBundle c).takeTrapOn c false ⟨.tandemMismatch, 6, 0⟩) s)

/-! ### Stops at waits (R103) -/

/-- The wait of TWAIT, TWANY, BWAIT and MFENCE is a stop point in any bundle, that of a FENCE in a bundle with SP. -/
def waitStops (s : State) (c : Fin 256) : Bool :=
  match (s.coreAt c).wait with
  | some (.tags _) => true
  | some (.barrier _ _) => true
  | some .mfence => true
  | some .fence => (fenceAt s c).isSome && hdSp (bundleAt s c).head
  | _ => false

/-- Where a core with a pending stop can be halted now: the offset of its stop bundle. -/
def stopPoint (s : State) (c : Fin 256) : Option Nat :=
  let k := s.coreAt c
  if k.run = .running && k.stop.isSome && k.level = k.base then
    if waitStops s c then some k.pc.toNat else yieldStop k
  else none

/-- CORE_STOP: a core holds at a stop point while a stop is pending (R103); a joined quad stops as one (R153). -/
def execCoreStop (s : State) : Host.Outcome State Fault Refusal :=
  let c := s.inp.core
  match stopPoint s c with
  | none => .next s
  | some off => .next (s.haltGroup c off)

end Sys2Proof.Machine
end

