-- ==== Sys2Proof/Machine/Ready.lean ====
section
/-! DEFINITION. Which step comes next where the agenda is empty: the cores' issue cycles in turn, then work of the module
that is ready, then the next cycle. DESIGN CHOICE: log entry 7. -/

namespace Sys2Proof.Machine

def evPlain (i : Instr) : Event := ⟨i, Input.reset⟩
def evCore (i : Instr) (c : Fin 256) : Event := ⟨i, { Input.reset with core := c }⟩
def evChan (i : Instr) (ch : Fin 256) : Event := ⟨i, { Input.reset with chan := ch }⟩
def evCmd (i : Instr) (c : Cmd) : Event := ⟨i, { Input.reset with cmd := c }⟩

/-- An event where a condition holds. -/
def evIf (b : Bool) (e : Event) : Option Event := if b then some e else none

/-! ### Memory (R86, R143, R171, R193-R201) -/

/-- What an access of the core side is due to do. -/
def accessEvent (s : State) (o : MemOp) : Option Event :=
  if o.result.isSome then some (evPlain (.loadDataArrive o.core o.id))
  else match o.kind with
    | .msg t _ _ => evIf (nextMessage s t).isSome (evCore .messageDelivery t)
    | .bar w _ _ => evIf (nextBarOp s w).isSome (evCore .barrierApply w)
    | .wake _ => evIf (nextBarOp s o.core).isSome (evCore .barrierApply o.core)
    | .load _ _ => evIf (o.ready s) (evPlain (.readServe o.id))
    | _ => evIf (o.ready s) (evPlain (.writePerform o.id))

/-- A die whose performed writes some die has not seen (R201). -/
def staleDie (s : State) : Option (Fin 4) :=
  (List.finRange 4).find? fun d => (List.finRange 4).any fun e => decide ((s.perf[e])[d] < performedPrefix s d)

def memoryEvent (s : State) : Option Event :=
  s.memq.findSome? (accessEvent s) <|>
  (if s.dieNum.toList.all (· = 0) then none else (staleDie s).map fun d => evPlain (.perfBroadcast d)) <|>
  (s.credRet.find? fun r => decide (r.due ≤ s.cycle)).map (fun r => evCore .creditReturn r.core) <|>
  (s.openRows.find? fun e => decide (e.2 / 32768 + 512 ≤ s.cycle)).map (fun e =>
    evPlain (.dramRowClose (Fin.ofNat 256 (e.1 / 32)) (Fin.ofNat 32 (e.1 % 32)))) <|>
  (s.comb.toList.zipIdx.find? fun e => e.1.any fun x => decide (x.since + combineAge ≤ s.cycle)).map (fun e =>
    evPlain (.combiningEntryApply (Fin.ofNat 256 e.2))) <|>
  s.qos.findSome? fun q => if q.waiting.isEmpty then none
    else evIf (tokenTurn s q.chan q.part).isSome (evPlain (.tokenWaitEnd q.chan (Fin.ofNat 16 (q.part - 1))))

/-! ### Cores (R103, R115, R143, R144, R152, R297, R309, R310) -/

/-- What ends a core's hold. -/
def holdEvent (s : State) (c : Fin 256) (k : Core) : Option Event :=
  match k.wait with
  | some (.polder p _) => some (evPlain (.polderPumpDone c p []))
  | some .fetch => some (evCore .fetchLinesArrive c)
  | some .fence => evIf (fenceReleased s c) (evCore .fenceRelease c)
  | some (.tlbinv _ _ _) => evIf (tlbinvQuiet s c) (evCore .tlbinvComplete c)
  | some (.scrub _) => evIf (scrubReady s c) (evCore .scrubComplete c)
  | some .rejoin =>
    evIf ((coresOfQuad (quadOf c)).all fun d => (s.coreAt d).rejoin && (s.coreAt d).wait = some .rejoin)
      (evPlain (.rejoinMeet (quadOf c)))
  | _ => none

/-- The next movement of a stream of a core. -/
def streamEvent (s : State) (c : Fin 256) (k : Core) : Option Event :=
  if k.streams.toList.all (fun (st : Stream) => !st.bound) then none
  else (List.finRange 8).findSome? fun i =>
    if refillReady s c i then some (evPlain (.streamRefill c i))
    else if drainReady s c i then some (evPlain (.streamDrain c i)) else none

/-- A fabric count that has expired (R40). -/
def timeoutEvent (s : State) (c : Fin 256) (k : Core) : Option Event :=
  (k.fabOut.find? fun e => decide (SMap.get 0 k.fabSince e.1 + 320000 ≤ s.activeOf k.launch)).map fun e =>
    evPlain (.fabricTimeout c (Fin.ofNat 2048 e.1))

/-- What a core that holds a launch, or an H kernel, is due to do beside its issue. -/
def coreEvent (s : State) (c : Fin 256) (k : Core) : Option Event :=
  (if k.walks.isEmpty then none else some (evPlain (.tlbWalkDone c))) <|>
  (match k.run with
    | .running =>
      holdEvent s c k <|> evIf (k.stop.isSome && (stopPoint s c).isSome) (evCore .coreStop c) <|> streamEvent s c k
    | .ending => streamEvent s c k <|> evIf (endReady s c) (evCore .coreEnded c)
    | .stopped => streamEvent s c k
    | _ => none) <|>
  (if k.fabOut.isEmpty then none else timeoutEvent s c k)

def coresEvent (s : State) : Option Event :=
  (s.cores.toList.zip allCores).findSome? fun (e : Core × Fin 256) =>
    match e.1.run with
    | .idle => if e.1.walks.isEmpty then none else coreEvent s e.2 e.1
    | _ => coreEvent s e.2 e.1

/-! ### Engines, the fabric, near-bank runs and collectives (R31, R39, R89, R111, R129, R187, R388) -/

def cmdEvent (s : State) (m : EngCmd) : Option Event :=
  let tag := m.tag.getD 0
  if isFabric m.op then
    if m.parked && m.tag.isSome then evIf (m.ready s) (evPlain (.parkedRetry m.core tag))
    else evIf (nextInject s m.core).isSome (evCore .packetInject m.core)
  else if m.canRun s then
    some (evPlain (if m.parked && m.tag.isSome then .parkedRetry m.core tag else .copyComplete m.core tag .ok))
  else none

def fabricEvent (s : State) : Option Event :=
  (nextHeld s).map (fun _ => evPlain .packetInject) <|>
  (s.fabric.acks.find? fun a => decide (a.since + 256 ≤ s.cycle)).map (fun a =>
    evPlain (.ackTimeout (BitVec.ofNat 11 a.src) (BitVec.ofNat 8 a.sfn) 0 (BitVec.ofNat 2 a.cls))) <|>
  (s.fabric.ports.toList.zipIdx.find? fun e => e.1.up && decide (64 < e.1.recentReplays s.cycle)).map (fun e =>
    evPlain (.replayLimit (Fin.ofNat 20 e.2)))

def nearBankEvent (s : State) : Option Event :=
  (s.nb.toList.zip allCores).findSome? fun (e : List NbRun × Fin 256) =>
    if e.1.isEmpty then none else (nbDue s e.2).map fun i => evChan i e.2

def collEvent (s : State) : Option Event :=
  (List.finRange 16).findSome? fun p =>
    ((s.partRt (partNo p)).tiles.find? (collDue s)).map fun e => evPlain (.collDeadlineCut p (Fin.ofNat 256 e.idx))

/-! ### Rings and commands (R58-R61, R69, R88) -/

def ringEvent (s : State) (fn : Fn) (q : Fin 64) : Option Event :=
  if (ringAt s fn q).state = 0 then none
  else if fetchable s fn q then some (evPlain (.commandFetch fn q))
  else if (startable s fn q).isSome then some (evPlain (.commandStart fn q))
  else if ringDrained s fn q then some (evPlain (.ringDrained fn q))
  else match (ringCmds s fn q).find? CmdRun.ended with
    | some c => evIf (completable s fn q) (evPlain (.commandComplete fn q c.cmd.idx))
    | none => none

/-- A running command whose condition now holds is taken up again. -/
def resumeEvent (s : State) (r : CmdRun) : Option Event :=
  if r.state ≠ .running then none
  else match r.cmd.opc, r.cmd.field 8 1 with
    | 0x21, part => evIf ((s.partRt part).frames.isSome && partQuiet s part) (evCmd .pdestroy r.cmd)
    | 0x23, 0x01 => evIf (xlateQuiet s (r.cmd.field 9 1)) (evCmd .psetS2inv r.cmd)
    | 0x23, 0x02 => evIf (xlateQuiet s (r.cmd.field 9 1)) (evCmd .psetS2root r.cmd)
    | _, _ => none

/-- A PDESTROY that no ring holds: the destruction of a partition by a reset of PF 0 goes on (R70). -/
def destroyCmd (s : State) (part : Nat) : Cmd :=
  ⟨0, 0, 2 ^ 20, BitVec.ofNat 8 0x21 :: zeros 7 ++ natToBytes 1 part ++ zeros 55, s.nextId⟩

def hostEvent (s : State) : Option Event :=
  (List.finRange 17).findSome? (fun fn => (List.finRange 64).findSome? fun q => ringEvent s fn q) <|>
  s.cmdRuns.findSome? (resumeEvent s)

/-! ### The scheduler, votes and partitions (R90, R96-R116) -/

def partEvent (s : State) (p : Fin 16) : Option Event :=
  let part := partNo p
  if !(partAt s part).exists_ then none
  else
    let r := s.partRt part
    evIf (dispatchPlan s part ≠ .wait) (evPlain (.dispatch p)) <|>
    evIf (lnchReady s part).isSome (evPlain (.lnchEntry p)) <|>
    evIf (decide (r.pmDue ≤ s.cycle) || storesLeft s part) (evPlain (.perfCounterUpdate p)) <|>
    evIf (r.isReset && partQuiet s part) (evPlain (.flrVf p)) <|>
    evIf (r.frames.isSome && partQuiet s part && !(s.cmdRuns.any fun c => c.state = .running && c.cmd.opc = 0x21 &&
      c.cmd.field 8 1 = part)) (evCmd .pdestroy (destroyCmd s part)) <|>
    (((List.finRange 128).find? fun sl => clearDue s part sl).map fun sl =>
      evPlain (.designatedWaysCleared p sl))

def voteEvent (s : State) : Option Event :=
  evIf (slotOver s || (fixedDue s).isSome) (evPlain (.slotBoundary [])) <|>
  evIf (absentDue s).isSome (evPlain .voteAbsent) <|>
  evIf (match sheetVote s with
    | some v => v.reportReady s
    | none => false) (evPlain .levelReport) <|>
  evIf (captureDue s).isSome (evPlain .levellingCapture) <|>
  evIf (stallDue s).isSome (evPlain .voteStall) <|>
  evIf (resendDue s).isSome (evPlain .commitResend) <|>
  (swapReady s).map fun _ => evPlain .swapDone

/-- At a switch of tenant the state of its sequencers is saved before the swap ends (R119). -/
def swapEvents (s : State) : List Event :=
  match swapReady s with
  | some v =>
    match switches s v with
    | none => []
    | some old => (List.finRange 20).filterMap fun p =>
      if (ownedSeqs s old).contains p.val then some (evPlain (.sequencerStateSave p)) else none
  | none => []

def savedEvent (s : State) : Option Event :=
  evIf (s.saved.any fun x => x.at_ = .bank && decide (x.due ≤ s.cycle)) (evPlain .saveWriteback)

/-- A unit's corrected errors are due in the log (R21, R255). -/
def eccEvent (s : State) : Option Event :=
  (eccDue s).map fun k => evPlain (.corrected (match k % 8 with
    | 0 => .core | 1 => .copyEngine | 2 => .sequencer | 3 => .slice | 4 => .channel | 5 => .port
    | 6 => .serviceProc | _ => .hostIf) (k / 8))

/-- The module's next piece of ready work. What belongs to partitions and the host waits for boot step 7. -/
def readyEvent (s : State) : Option Event :=
  nearBankEvent s <|> memoryEvent s <|> coresEvent s <|> s.cmds.findSome? (cmdEvent s) <|> fabricEvent s <|>
  eccEvent s <|>
  (if s.boot.stage ≠ 7 then none
   else collEvent s <|> hostEvent s <|> savedEvent s <|> voteEvent s <|> (List.finRange 16).findSome? (partEvent s))

/-! ### Cycles -/

/-- The leader of the group with which a core issues. -/
def leads (s : State) (c : Fin 256) : Bool := (issueGroup s c).head? = some c

/-- A core that takes a part in each cycle. -/
def issues (k : Core) : Bool := k.run = .running || k.run = .ending

/-- The next core in turn, of those that take part in this cycle. -/
def nextCore (s : State) : Option (Fin 256) :=
  ((s.cores.toList.zip allCores).drop s.turn).findSome? fun (e : Core × Fin 256) =>
    if issues e.1 && leads s e.2 then some e.2 else none

/-- What falls on whole periods of the module's clock: the windows of the channels (R92), periodic slates (R73), and the
silent drops of a second (R255). -/
def periodEvents (s : State) : List Event :=
  (if s.cycle % 102400 = 0 && !s.qos.isEmpty then allCores.map fun ch => evPlain (.qosWindowEnd ch) else []) ++
  (if s.boot.stage ≠ 7 then []
   else (List.finRange 16).filterMap fun p =>
    let part := partNo p
    let age := s.cycle - (s.partRt part).slates.created
    evIf ((partAt s part).exists_ && age ≠ 0 && age % 1600000000 = 0) (evPlain (.periodicSlate p))) ++
  (if s.cycle % 1600000000 = 0 then (List.finRange 20).filterMap fun p =>
    evIf ((s.fabric.ports[p]).drops ≠ 0 || !(s.fabric.ports[p]).cutDrops.isEmpty)
      (evPlain (.controlDrop p))
   else [])

/-- A launch's cores have halted: from here on its gang is not active (R116). -/
def State.noteHalts (s : State) : State :=
  let stopped (l : Launch) : Bool := l.state = .running && l.haltAt.isNone && launchHalted s l
  if s.cores.toList.any fun (k : Core) => k.run = .stopped then
    { s with launches := s.launches.map fun l => if stopped l then { l with haltAt := some s.cycle } else l }
  else s

/-- What has reached the module comes to its turn: first what waited at a channel, in its order (R41, R42, R91). -/
def State.release (s : State) : State :=
  let now := s.arrivals.filter fun (a : Arrival) => a.due ≤ s.cycle
  { s with arrivals := s.arrivals.filter fun (a : Arrival) => s.cycle < a.due
           agenda := s.agenda ++ ((now.filter (·.chan.isSome)) ++ now.filter (·.chan.isNone)).map (·.ev) }

/-- A cycle of the module ends: the links have moved a flit, and the next cycle begins. -/
def State.tick (s : State) : State :=
  let s := s.linkCycle.noteHalts
  let s := { s with cycle := s.cycle + 1, turn := 0 }
  { s with agenda := periodEvents s }.release

/-- The next steps of ready work: those of a switch of tenant come with the swap that ends it. -/
def nextEvents (s : State) : List Event :=
  match readyEvent s with
  | some e => if e.instr = .swapDone then swapEvents s ++ [e] else [e]
  | none => []

/-- Take a step of the agenda with what the surroundings put in. A module without power takes none but its own
power-up (R7, R10). -/
def State.entered (s : State) (e : Event) : State := { s with inp := e.inp }

def State.takes (s : State) (i : Instr) : Bool := s.boot.powered || i = .powerApplied

/-- The issue of a core as a step. -/
def issueOf (c : Fin 256) : Event := evCore (.bundleIssue c) c

/-! ### One instruction at an address -/

/-- The bundle that holds one slot word and nothing else, as the bytes of code (R262-R264). -/
def bundleBytes (w : SlotWord) : List Byte :=
  bytesOfWord (BitVec.ofNat 32 (headerFor [w])) ++ bytesOfWord w.word

/-- The slot word of a table word: in the first slot of its class, slot S where no class admits it. -/
def slotWordOf (w : BWord) : SlotWord :=
  match classOfWord (bytesOfWord w) with
  | some (.v, _) => ⟨.v0, w, none⟩
  | some (.m, _) => ⟨.m, w, none⟩
  | some (.c, _) => ⟨.c0, w, none⟩
  | _ => ⟨.s, w, none⟩

/-- A core that runs an H kernel at its address, with nothing that holds it, and its code lines fetched. -/
def Core.placed (k : Core) (pc : Nat) : Core :=
  { k with run := .running, level := .h, base := .h, pc := BitVec.ofNat 64 pc, skip := 0, entryWait := 0, wait := none,
           stop := none, late := [], loads := [], joined := false,
           fbuf := (true, pc / 64) :: (true, (pc + 7) / 64) :: k.fbuf }

/-- Where core 0 fetches, or DPA 0 where no code can be there. -/
def placeAt (s : State) : Nat :=
  let pc := (s.coreAt 0).pc.toNat
  if pc % 4 = 0 && presentDpa s pc && mappedDpa (pc + 7) then pc else 0

/-- The state in which the next step is the issue of one slot word on core 0. -/
def State.place (s : State) (w : SlotWord) : State :=
  let pc := placeAt s
  let s := (s.mapCore 0 fun k => k.placed pc).poke 0 pc (bundleBytes w)
  { s with agenda := [issueOf 0] }

end Sys2Proof.Machine
end

