-- ==== Sys2Proof/Machine/Dispatch.lean ====
section
/-! DEFINITION. Every instruction's meaning, one arm each. -/

namespace Sys2Proof.Machine

/-- What an instruction does. -/
def exec (i : Instr) (s : State) : Host.Outcome State Fault Refusal :=
  match i with
  | .powerOnReset b => Sys2Proof.Machine.execPowerOnReset b s
  | .perst b => Sys2Proof.Machine.execPerst b s
  | .hostConfigRequest r => Sys2Proof.Machine.execHostConfigRequest r s
  | .powerWindowEnd watts => Sys2Proof.Machine.execPowerWindowEnd watts s
  | .junctionTemperature die celsius => Sys2Proof.Machine.execJunctionTemperature die celsius s
  | .pwrCapWrite fn v => Sys2Proof.Machine.execPwrCapWrite fn v s
  | .patrolScrub dpa found => Sys2Proof.Machine.execPatrolScrub dpa found s
  | .corrected unit index => Sys2Proof.Machine.execCorrected unit index s
  | .controlDrop port => Sys2Proof.Machine.execControlDrop port s
  | .flrVf vf => Sys2Proof.Machine.execFlrVf vf s
  | .linkFrameReceive port f => Sys2Proof.Machine.execLinkFrameReceive port f s
  | .linkNakReceive port seq => Sys2Proof.Machine.execLinkNakReceive port seq s
  | .portLossOfLock port => Sys2Proof.Machine.execPortLossOfLock port s
  | .replayLimit port => Sys2Proof.Machine.execReplayLimit port s
  | .retrainDone port ok flight neigh nport => Sys2Proof.Machine.execRetrainDone port ok flight neigh nport s
  | .portEnableWrite fn port v => Sys2Proof.Machine.execPortEnableWrite fn port v s
  | .portRetrain fn port => Sys2Proof.Machine.execPortRetrain fn port s
  | .fabIdWrite fn v => Sys2Proof.Machine.execFabIdWrite fn v s
  | .routeTableWrite fn dest v => Sys2Proof.Machine.execRouteTableWrite fn dest v s
  | .packetForward vc p => Sys2Proof.Machine.execPacketForward vc p s
  | .dataPacketAccept port p => Sys2Proof.Machine.execDataPacketAccept port p s
  | .ackTimeout src sfn dfn cls => Sys2Proof.Machine.execAckTimeout src sfn dfn cls s
  | .fabricTimeout core dest => Sys2Proof.Machine.execFabricTimeout core dest s
  | .slotBoundary group => Sys2Proof.Machine.execSlotBoundary group s
  | .sequencerStateSave port => Sys2Proof.Machine.execSequencerStateSave port s
  | .dispatch part => Sys2Proof.Machine.execDispatch part s
  | .lnchEntry part => Sys2Proof.Machine.execLnchEntry part s
  | .qosWindowEnd channel => Sys2Proof.Machine.execQosWindowEnd channel s
  | .perfCounterUpdate part => Sys2Proof.Machine.execPerfCounterUpdate part s
  | .periodicSlate part => Sys2Proof.Machine.execPeriodicSlate part s
  | .tlbWalkDone core => Sys2Proof.Machine.execTlbWalkDone core s
  | .parkedRetry core tag => Sys2Proof.Machine.execParkedRetry core tag s
  | .hostBar2Access fn off a => Sys2Proof.Machine.execHostBar2Access fn off a s
  | .hostCxlMemAccess hpa a => Sys2Proof.Machine.execHostCxlMemAccess hpa a s
  | .qwidxWrite fn ring v => Sys2Proof.Machine.execQwidxWrite fn ring v s
  | .ringEnable fn ring => Sys2Proof.Machine.execRingEnable fn ring s
  | .ringDisable fn ring => Sys2Proof.Machine.execRingDisable fn ring s
  | .ringDrained fn ring => Sys2Proof.Machine.execRingDrained fn ring s
  | .ringBlockWrite fn ring off v => Sys2Proof.Machine.execRingBlockWrite fn ring off v s
  | .commandFetch fn ring => Sys2Proof.Machine.execCommandFetch fn ring s
  | .commandStart fn ring => Sys2Proof.Machine.execCommandStart fn ring s
  | .commandComplete fn ring idx => Sys2Proof.Machine.execCommandComplete fn ring idx s
  | .sumctlGo fn => Sys2Proof.Machine.execSumctlGo fn s
  | .registerWrite fn off v => Sys2Proof.Machine.execRegisterWrite fn off v s
  | .bundleIssue core => Sys2Proof.Machine.execBundleIssue core s
  | .loadDataArrive core id => Sys2Proof.Machine.execLoadDataArrive core id s
  | .uncorrectableReport core id why => Sys2Proof.Machine.execUncorrectableReport core id why s
  | .rejoinMeet quad => Sys2Proof.Machine.execRejoinMeet quad s
  | .writePerform id => Sys2Proof.Machine.execWritePerform id s
  | .readServe id => Sys2Proof.Machine.execReadServe id s
  | .perfBroadcast die => Sys2Proof.Machine.execPerfBroadcast die s
  | .combiningEntryApply channel => Sys2Proof.Machine.execCombiningEntryApply channel s
  | .dramRowClose channel bank => Sys2Proof.Machine.execDramRowClose channel bank s
  | .polderPumpDone core polder lost => Sys2Proof.Machine.execPolderPumpDone core polder lost s
  | .streamRefill core stream => Sys2Proof.Machine.execStreamRefill core stream s
  | .streamDrain core stream => Sys2Proof.Machine.execStreamDrain core stream s
  | .copyComplete core tag e => Sys2Proof.Machine.execCopyComplete core tag e s
  | .yieldEnd core why => Sys2Proof.Machine.execYieldEnd core why s
  | .wfiWake core events => Sys2Proof.Machine.execWfiWake core events s
  | .collDeadlineCut part entry => Sys2Proof.Machine.execCollDeadlineCut part entry s
  | .yield a => Sys2Proof.Machine.execYield a s
  | .trap imm => Sys2Proof.Machine.execTrap imm s
  | .add a b w s_ => Sys2Proof.Machine.execAdd a b w s_ s
  | .sub a b w s_ => Sys2Proof.Machine.execSub a b w s_ s
  | .mul a b w s_ => Sys2Proof.Machine.execMul a b w s_ s
  | .mulh a b w => Sys2Proof.Machine.execMulh a b w s
  | .mulhz a b w => Sys2Proof.Machine.execMulhz a b w s
  | .div a b w s_ => Sys2Proof.Machine.execDiv a b w s_ s
  | .divz a b w s_ => Sys2Proof.Machine.execDivz a b w s_ s
  | .rem a b w s_ => Sys2Proof.Machine.execRem a b w s_ s
  | .remz a b w s_ => Sys2Proof.Machine.execRemz a b w s_ s
  | .and a b w => Sys2Proof.Machine.execAnd a b w s
  | .or a b w => Sys2Proof.Machine.execOr a b w s
  | .xor a b w => Sys2Proof.Machine.execXor a b w s
  | .andn a b w => Sys2Proof.Machine.execAndn a b w s
  | .shl a b w s_ => Sys2Proof.Machine.execShl a b w s_ s
  | .shr a b w s_ => Sys2Proof.Machine.execShr a b w s_ s
  | .sra a b w s_ => Sys2Proof.Machine.execSra a b w s_ s
  | .rot a b w s_ => Sys2Proof.Machine.execRot a b w s_ s
  | .clz a w s_ => Sys2Proof.Machine.execClz a w s_ s
  | .ctz a w s_ => Sys2Proof.Machine.execCtz a w s_ s
  | .popc a w s_ => Sys2Proof.Machine.execPopc a w s_ s
  | .min a b w => Sys2Proof.Machine.execMin a b w s
  | .max a b w => Sys2Proof.Machine.execMax a b w s
  | .minz a b w => Sys2Proof.Machine.execMinz a b w s
  | .maxz a b w => Sys2Proof.Machine.execMaxz a b w s
  | .cmp a b w c => Sys2Proof.Machine.execCmp a b w c s
  | .sel a b w c => Sys2Proof.Machine.execSel a b w c s
  | .agen a b w k => Sys2Proof.Machine.execAgen a b w k s
  | .bfi a b w v => Sys2Proof.Machine.execBfi a b w v s
  | .movx a w idx f => Sys2Proof.Machine.execMovx a w idx f s
  | .li w i_ => Sys2Proof.Machine.execLi w i_ s
  | .addi a w i_ => Sys2Proof.Machine.execAddi a w i_ s
  | .andi a w i_ => Sys2Proof.Machine.execAndi a w i_ s
  | .ori a w i_ => Sys2Proof.Machine.execOri a w i_ s
  | .xori a w i_ => Sys2Proof.Machine.execXori a w i_ s
  | .shli a w s_ n => Sys2Proof.Machine.execShli a w s_ n s
  | .shri a w s_ n => Sys2Proof.Machine.execShri a w s_ n s
  | .srai a w s_ n => Sys2Proof.Machine.execSrai a w s_ n s
  | .bfx a w x len pos => Sys2Proof.Machine.execBfx a w x len pos s
  | .ld a d w land sz => Sys2Proof.Machine.execLd a d w land sz s
  | .st a d b w na sp sz => Sys2Proof.Machine.execSt a d b w na sp sz s
  | .spl a off => Sys2Proof.Machine.execSpl a off s
  | .fil w off => Sys2Proof.Machine.execFil w off s
  | .amo a d b w nr w32 op => Sys2Proof.Machine.execAmo a d b w nr w32 op s
  | .amocas a d b w w32 e => Sys2Proof.Machine.execAmocas a d b w w32 e s
  | .fence scope kind => Sys2Proof.Machine.execFence scope kind s
  | .mqrd a w => Sys2Proof.Machine.execMqrd a w s
  | .mqrel a => Sys2Proof.Machine.execMqrel a s
  | .br o => Sys2Proof.Machine.execBr o s
  | .beqz a o => Sys2Proof.Machine.execBeqz a o s
  | .bnez a o => Sys2Proof.Machine.execBnez a o s
  | .bltz a o => Sys2Proof.Machine.execBltz a o s
  | .bgez a o => Sys2Proof.Machine.execBgez a o s
  | .bmz o => Sys2Proof.Machine.execBmz o s
  | .bmnz o => Sys2Proof.Machine.execBmnz o s
  | .loop n o => Sys2Proof.Machine.execLoop n o s
  | .call o => Sys2Proof.Machine.execCall o s
  | .jt a b => Sys2Proof.Machine.execJt a b s
  | .calli a b w => Sys2Proof.Machine.execCalli a b w s
  | .ret a => Sys2Proof.Machine.execRet a s
  | .twait a w => Sys2Proof.Machine.execTwait a w s
  | .twany a w => Sys2Proof.Machine.execTwany a w s
  | .tffr a w => Sys2Proof.Machine.execTffr a w s
  | .tclr a => Sys2Proof.Machine.execTclr a s
  | .binit a b => Sys2Proof.Machine.execBinit a b s
  | .barr a => Sys2Proof.Machine.execBarr a s
  | .bwait a b w => Sys2Proof.Machine.execBwait a b w s
  | .btest a b w => Sys2Proof.Machine.execBtest a b w s
  | .binv a => Sys2Proof.Machine.execBinv a s
  | .csrr w c => Sys2Proof.Machine.execCsrr w c s
  | .csrw a c => Sys2Proof.Machine.execCsrw a c s
  | .sbindRd a off s_ => Sys2Proof.Machine.execSbindRd a off s_ s
  | .sbindWr a off s_ => Sys2Proof.Machine.execSbindWr a off s_ s
  | .sunbind s_ => Sys2Proof.Machine.execSunbind s_ s
  | .lnch a w => Sys2Proof.Machine.execLnch a w s
  | .adjrd a b w sp => Sys2Proof.Machine.execAdjrd a b w sp s
  | .adjclr a b w sp => Sys2Proof.Machine.execAdjclr a b w sp s
  | .tlbinvPart a w => Sys2Proof.Machine.execTlbinvPart a w s
  | .tlbinvIpa a b w => Sys2Proof.Machine.execTlbinvIpa a b w s
  | .tlbinvAll w => Sys2Proof.Machine.execTlbinvAll w s
  | .scrub a w => Sys2Proof.Machine.execScrub a w s
  | .voteRd w => Sys2Proof.Machine.execVoteRd w s
  | .voteAbort w => Sys2Proof.Machine.execVoteAbort w s
  | .voteCommit w => Sys2Proof.Machine.execVoteCommit w s
  | .wfi a w => Sys2Proof.Machine.execWfi a w s
  | .vadd a b t p => Sys2Proof.Machine.execVadd a b t p s
  | .vsub a b t p => Sys2Proof.Machine.execVsub a b t p s
  | .vmul a b t p => Sys2Proof.Machine.execVmul a b t p s
  | .vfma a b c t p => Sys2Proof.Machine.execVfma a b c t p s
  | .vfms a b c t p => Sys2Proof.Machine.execVfms a b c t p s
  | .vfnma a b c t p => Sys2Proof.Machine.execVfnma a b c t p s
  | .vdiv a b t p => Sys2Proof.Machine.execVdiv a b t p s
  | .vsqrt a t p => Sys2Proof.Machine.execVsqrt a t p s
  | .vrsq a t p => Sys2Proof.Machine.execVrsq a t p s
  | .vrcp a t p => Sys2Proof.Machine.execVrcp a t p s
  | .vexp2 a t p => Sys2Proof.Machine.execVexp2 a t p s
  | .vlog2 a t p => Sys2Proof.Machine.execVlog2 a t p s
  | .vmin a b t => Sys2Proof.Machine.execVmin a b t s
  | .vmax a b t => Sys2Proof.Machine.execVmax a b t s
  | .vabs a t p => Sys2Proof.Machine.execVabs a t p s
  | .vneg a t p => Sys2Proof.Machine.execVneg a t p s
  | .vcps a b t => Sys2Proof.Machine.execVcps a b t s
  | .vand a b t => Sys2Proof.Machine.execVand a b t s
  | .vor a b t => Sys2Proof.Machine.execVor a b t s
  | .vxor a b t => Sys2Proof.Machine.execVxor a b t s
  | .vnot a t => Sys2Proof.Machine.execVnot a t s
  | .vshl a b t => Sys2Proof.Machine.execVshl a b t s
  | .vshr a b t => Sys2Proof.Machine.execVshr a b t s
  | .vsra a b t => Sys2Proof.Machine.execVsra a b t s
  | .vmulh a b t => Sys2Proof.Machine.execVmulh a b t s
  | .vcmp a b c t => Sys2Proof.Machine.execVcmp a b c t s
  | .vsel a b c t => Sys2Proof.Machine.execVsel a b c t s
  | .vclass a t => Sys2Proof.Machine.execVclass a t s
  | .vcvt a td pol m ts => Sys2Proof.Machine.execVcvt a td pol m ts s
  | .vpack a b g => Sys2Proof.Machine.execVpack a b g s
  | .vunpk a g => Sys2Proof.Machine.execVunpk a g s
  | .vscl a b t p => Sys2Proof.Machine.execVscl a b t p s
  | .vanc a b t p => Sys2Proof.Machine.execVanc a b t p s
  | .vdanc a b t p => Sys2Proof.Machine.execVdanc a b t p s
  | .vqdec a b c t p => Sys2Proof.Machine.execVqdec a b c t p s
  | .vbcst a t => Sys2Proof.Machine.execVbcst a t s
  | .viota a t => Sys2Proof.Machine.execViota a t s
  | .vperm a b t => Sys2Proof.Machine.execVperm a b t s
  | .vslide a b c t => Sys2Proof.Machine.execVslide a b c t s
  | .vzip a b t hi => Sys2Proof.Machine.execVzip a b t hi s
  | .vunzip a b t hi => Sys2Proof.Machine.execVunzip a b t hi s
  | .vmov a n t => Sys2Proof.Machine.execVmov a n t s
  | .vsw a n t => Sys2Proof.Machine.execVsw a n t s
  | .vext a b t => Sys2Proof.Machine.execVext a b t s
  | .vrsum a t p => Sys2Proof.Machine.execVrsum a t p s
  | .vrmax a t => Sys2Proof.Machine.execVrmax a t s
  | .vrmin a t => Sys2Proof.Machine.execVrmin a t s
  | .vscan a t p => Sys2Proof.Machine.execVscan a t p s
  | .vdot a b t p => Sys2Proof.Machine.execVdot a b t p s
  | .mpush a t => Sys2Proof.Machine.execMpush a t s
  | .mset a t => Sys2Proof.Machine.execMset a t s
  | .mop z a b k neg => Sys2Proof.Machine.execMop z a b k neg s
  | .mopz z a b k neg => Sys2Proof.Machine.execMopz z a b k neg s
  | .mr1 z a b k neg => Sys2Proof.Machine.execMr1 z a b k neg s
  | .mr1z z a b k neg => Sys2Proof.Machine.execMr1z z a b k neg s
  | .mzero z => Sys2Proof.Machine.execMzero z s
  | .macc z s_ neg => Sys2Proof.Machine.execMacc z s_ neg s
  | .mscl z e => Sys2Proof.Machine.execMscl z e s
  | .mdrain z q pol clr m first rows t => Sys2Proof.Machine.execMdrain z q pol clr m first rows t s
  | .mfmt v => Sys2Proof.Machine.execMfmt v s
  | .msave z h p => Sys2Proof.Machine.execMsave z h p s
  | .mload z h p => Sys2Proof.Machine.execMload z h p s
  | .cpy g a b c => Sys2Proof.Machine.execCpy g a b c s
  | .cpyp g a b c => Sys2Proof.Machine.execCpyp g a b c s
  | .cstrp g a b c => Sys2Proof.Machine.execCstrp g a b c s
  | .ctld g n b c => Sys2Proof.Machine.execCtld g n b c s
  | .ctst g n b c => Sys2Proof.Machine.execCtst g n b c s
  | .cqst g q b c => Sys2Proof.Machine.execCqst g q b c s
  | .cfill g a b c => Sys2Proof.Machine.execCfill g a b c s
  | .czero g a c => Sys2Proof.Machine.execCzero g a c s
  | .cpref a c => Sys2Proof.Machine.execCpref a c s
  | .cflush g a c => Sys2Proof.Machine.execCflush g a c s
  | .cmsg g a b => Sys2Proof.Machine.execCmsg g a b s
  | .fwr g a b c => Sys2Proof.Machine.execFwr g a b c s
  | .famo g a b c => Sys2Proof.Machine.execFamo g a b c s
  | .freq g a b c => Sys2Proof.Machine.execFreq g a b c s
  | .flnch g a c => Sys2Proof.Machine.execFlnch g a c s
  | .ttset a b => Sys2Proof.Machine.execTtset a b s
  | .trdy a => Sys2Proof.Machine.execTrdy a s
  | .rcut a => Sys2Proof.Machine.execRcut a s
  | .rpick a => Sys2Proof.Machine.execRpick a s
  | .rstat w a => Sys2Proof.Machine.execRstat w a s
  | .nbld g a b => Sys2Proof.Machine.execNbld g a b s
  | .nbx g a c => Sys2Proof.Machine.execNbx g a c s
  | .nbq w a b => Sys2Proof.Machine.execNbq w a b s
  | .msat g a b c => Sys2Proof.Machine.execMsat g a b c s
  | .hsig a b c => Sys2Proof.Machine.execHsig a b c s
  | .powerLoss fuseWriting oneAbove => Sys2Proof.Machine.execPowerLoss fuseWriting oneAbove s
  | .linkTrained port flight neigh nport => Sys2Proof.Machine.execLinkTrained port flight neigh nport s
  | .tokenWaitEnd channel part => Sys2Proof.Machine.execTokenWaitEnd channel part s
  | .designatedWaysCleared part slice => Sys2Proof.Machine.execDesignatedWaysCleared part slice s
  | .powerApplied => Sys2Proof.Machine.execPowerApplied s
  | .thermtrip => Sys2Proof.Machine.execThermtrip s
  | .flrPf0 => Sys2Proof.Machine.execFlrPf0 s
  | .packetInject => Sys2Proof.Machine.execPacketInject s
  | .writePacket => Sys2Proof.Machine.execWritePacket s
  | .atomicPacket => Sys2Proof.Machine.execAtomicPacket s
  | .reqPacket => Sys2Proof.Machine.execReqPacket s
  | .launchPacket => Sys2Proof.Machine.execLaunchPacket s
  | .reducePacket => Sys2Proof.Machine.execReducePacket s
  | .pickupPacket => Sys2Proof.Machine.execPickupPacket s
  | .ackPacket => Sys2Proof.Machine.execAckPacket s
  | .dropPacket => Sys2Proof.Machine.execDropPacket s
  | .lrefusePacket => Sys2Proof.Machine.execLrefusePacket s
  | .votePhasePrepare => Sys2Proof.Machine.execVotePhasePrepare s
  | .votePhaseOk => Sys2Proof.Machine.execVotePhaseOk s
  | .votePhaseRefuse => Sys2Proof.Machine.execVotePhaseRefuse s
  | .votePhaseAbort => Sys2Proof.Machine.execVotePhaseAbort s
  | .votePhaseCommit => Sys2Proof.Machine.execVotePhaseCommit s
  | .votePhaseCommitted => Sys2Proof.Machine.execVotePhaseCommitted s
  | .voteAbsent => Sys2Proof.Machine.execVoteAbsent s
  | .levelRequest => Sys2Proof.Machine.execLevelRequest s
  | .levelReport => Sys2Proof.Machine.execLevelReport s
  | .levellingCapture => Sys2Proof.Machine.execLevellingCapture s
  | .voteStall => Sys2Proof.Machine.execVoteStall s
  | .commitResend => Sys2Proof.Machine.execCommitResend s
  | .coreStop => Sys2Proof.Machine.execCoreStop s
  | .swapDone => Sys2Proof.Machine.execSwapDone s
  | .saveWriteback => Sys2Proof.Machine.execSaveWriteback s
  | .coreEnded => Sys2Proof.Machine.execCoreEnded s
  | .commandNop => Sys2Proof.Machine.execCommandNop s
  | .register => Sys2Proof.Machine.execRegister s
  | .unregister => Sys2Proof.Machine.execUnregister s
  | .launch => Sys2Proof.Machine.execLaunch s
  | .hKernelLaunch => Sys2Proof.Machine.execHKernelLaunch s
  | .lperm => Sys2Proof.Machine.execLperm s
  | .attest => Sys2Proof.Machine.execAttest s
  | .summary => Sys2Proof.Machine.execSummary s
  | .slate => Sys2Proof.Machine.execSlate s
  | .pcreate => Sys2Proof.Machine.execPcreate s
  | .pdestroy => Sys2Proof.Machine.execPdestroy s
  | .hdmmap => Sys2Proof.Machine.execHdmmap s
  | .psetS2inv => Sys2Proof.Machine.execPsetS2inv s
  | .psetS2root => Sys2Proof.Machine.execPsetS2root s
  | .psetQos => Sys2Proof.Machine.execPsetQos s
  | .psetWaymask => Sys2Proof.Machine.execPsetWaymask s
  | .psetWindow => Sys2Proof.Machine.execPsetWindow s
  | .psetDrange => Sys2Proof.Machine.execPsetDrange s
  | .psetPmbase => Sys2Proof.Machine.execPsetPmbase s
  | .sheetGangdef => Sys2Proof.Machine.execSheetGangdef s
  | .sheetCell => Sys2Proof.Machine.execSheetCell s
  | .sheetLength => Sys2Proof.Machine.execSheetLength s
  | .sheetAgeq => Sys2Proof.Machine.execSheetAgeq s
  | .sheetStart => Sys2Proof.Machine.execSheetStart s
  | .sheetStop => Sys2Proof.Machine.execSheetStop s
  | .sheetResolve => Sys2Proof.Machine.execSheetResolve s
  | .sheetGangdel => Sys2Proof.Machine.execSheetGangdel s
  | .fetchLinesArrive => Sys2Proof.Machine.execFetchLinesArrive s
  | .trapEntry => Sys2Proof.Machine.execTrapEntry s
  | .matrixOpComplete => Sys2Proof.Machine.execMatrixOpComplete s
  | .mdrainGroupPush => Sys2Proof.Machine.execMdrainGroupPush s
  | .matrixIntCode => Sys2Proof.Machine.execMatrixIntCode s
  | .mfmtEffect => Sys2Proof.Machine.execMfmtEffect s
  | .messageDelivery => Sys2Proof.Machine.execMessageDelivery s
  | .creditReturn => Sys2Proof.Machine.execCreditReturn s
  | .barrierApply => Sys2Proof.Machine.execBarrierApply s
  | .fenceRelease => Sys2Proof.Machine.execFenceRelease s
  | .nbRunDequeue => Sys2Proof.Machine.execNbRunDequeue s
  | .nbGuardDone => Sys2Proof.Machine.execNbGuardDone s
  | .nbRowBoundary => Sys2Proof.Machine.execNbRowBoundary s
  | .nbSuspendDone => Sys2Proof.Machine.execNbSuspendDone s
  | .nbWindowClose => Sys2Proof.Machine.execNbWindowClose s
  | .nbResumeDone => Sys2Proof.Machine.execNbResumeDone s
  | .nbTokensReady => Sys2Proof.Machine.execNbTokensReady s
  | .nbRunFinish => Sys2Proof.Machine.execNbRunFinish s
  | .cutPacket => Sys2Proof.Machine.execCutPacket s
  | .nop => Sys2Proof.Machine.execNop s
  | .endI => Sys2Proof.Machine.execEndI s
  | .eret => Sys2Proof.Machine.execEret s
  | .dmodeFwd => Sys2Proof.Machine.execDmodeFwd s
  | .dmodeRew => Sys2Proof.Machine.execDmodeRew s
  | .minv => Sys2Proof.Machine.execMinv s
  | .mpop => Sys2Proof.Machine.execMpop s
  | .mfence => Sys2Proof.Machine.execMfence s
  | .perstDeassert => Sys2Proof.Machine.execPerstDeassert s
  | .tlbinvComplete => Sys2Proof.Machine.execTlbinvComplete s
  | .scrubComplete => Sys2Proof.Machine.execScrubComplete s

end Sys2Proof.Machine
end

