-- ==== Sys2Proof/Machine/Step.lean ====
section
/-! DEFINITION. One step of the module, and an instruction placed where the next step fetches it. DESIGN CHOICE: log entry 7. -/

namespace Sys2Proof.Machine

/-- Take one step of the agenda. -/
def takeEvent (s : State) (e : Event) : Host.Outcome State Fault Refusal :=
  if s.takes e.instr then exec e.instr (s.entered e) else .next s

/-- One step: the head of the agenda; without one, the next core in turn, then ready work of the module, then the next
cycle. What comes to pass in a cycle after its issue is seen by the cores in the cycle after it (R143). -/
def step (s : State) : Host.Outcome State Fault Refusal :=
  match s.agenda with
  | e :: rest => takeEvent { s with agenda := rest } e
  | [] =>
    if !s.boot.powered then .fault .noPower
    else match nextCore s with
      | some c => takeEvent { s with turn := c.val + 1 } (issueOf c)
      | none => match nextEvents s with
        | e :: rest => takeEvent { s with agenda := rest } e
        | [] => .next s.tick

/-- The state whose next step fetches and runs the instruction of a table word, as the one slot of a bundle at the
address of core 0. -/
def State.withFetchWord (s : State) (nbits w : Nat) : State :=
  s.place (slotWordOf (BitVec.ofNat 32 (w % 2 ^ nbits)))

end Sys2Proof.Machine
end

