-- ==== Sys2Proof/Safety.lean ====
section
/-! DEFINITION. What the statements say of a step: that it goes on, which state it answers, what it leaves alone; and
what a good state is. -/

namespace Sys2Proof.Machine

/-! ### Outcomes -/

/-- A step that goes on. -/
def Goes (o : Host.Outcome State Fault Refusal) : Prop := ∃ t, o = .next t

/-- The instruction answers this next state. -/
def Runs (i : Instr) (s t : State) : Prop := exec i s = .next t

/-- The instruction answers a next state of which `P` holds. -/
def RunsTo (i : Instr) (s : State) (P : State → Prop) : Prop := ∃ t, exec i s = .next t ∧ P t

/-- The instruction raises this cause at its bundle. -/
def Raises (i : Instr) (s : State) (t : Trap) : Prop :=
  Runs i s ((s.takeTrap s.issue.core t).mark (.trapped t))

/-- The instruction holds its bundle for a cycle. -/
def Holds (i : Instr) (s : State) (h : Hold) : Prop :=
  Runs i s ((s.holdOn s.issue.core h).mark (.held h))

/-- The cause with the number of the slot that acts and a detail (R251, R252). -/
def slotTrap (s : State) (c : Cause) (info : Word) : Trap := ⟨c, Slot.num s.issue.slot, info⟩

/-- The low 32 bits of an integer, sign-extended to 64 bits (R287). -/
def sext32 (n : Int) : Word := (BitVec.ofInt 32 n).signExtend 64

/-- The instruction claims a vector of elements of type `t` with latency `lat`: an active element is `f n` in its width, an
inactive one 0; the scale byte of a granule with an active element is `sc g` where the type carries one, and 0x7F
elsewhere (R315). -/
def VRuns (i : Instr) (s u : State) (t : Ty) (lat : Nat) (f sc : Nat → Nat) : Prop :=
  ∃ v, Runs i s (u.vresult v lat) ∧
    (∀ n < 2048 / Ty.width t, elem (Ty.width t) v n =
      if activeAt s.pre.curMask (Ty.width t) n then f n % 2 ^ Ty.width t else 0) ∧
    (∀ g < 8, granScale v g =
      if carriesScale t && granActive s.pre.curMask (Ty.width t) g then sc g % 256 else 0x7F)

/-- A vector of elements of type `t` moved: an active element is the code of the element that `src` names, an inactive one
0; a granule with an active element takes the scale of the granule that supplies its element 0, where the type carries one
(R315, R328). -/
def Moved (s : State) (t : Ty) (v : Vec) (src : Nat → Vec × Nat) : Prop :=
  let w := Ty.width t
  (∀ n < elemCount w, elem w v n = if activeAt s.pre.curMask w n then elem w (src n).1 (src n).2 else 0) ∧
  ∀ g < 8, granScale v g =
    if carriesScale t && granActive s.pre.curMask w g then
      granScale (src (256 / w * g)).1 (w * (src (256 / w * g)).2 / 256) % 256
    else 0x7F

/-- Granules moved whole, under the mask nibble by nibble: data and scale of the granule that `src` names, or 0 and 0x7F
(R315, R324). -/
def MovedWhole (s : State) (v : Vec) (src : Nat → Option (Vec × Nat)) : Prop :=
  (∀ n < 512, elem 4 v n = if activeAt s.pre.curMask 4 n then
      (match src (n / 64) with | some (q, h) => elem 4 q (64 * h + n % 64) | none => 0)
    else 0) ∧
  ∀ g < 8, granScale v g = if granActive s.pre.curMask 4 g then
      (match src g with | some (q, h) => granScale q h % 256 | none => 0x7F)
    else 0x7F

/-! ### Frames -/

/-- Every byte of HBM reads as before, at its channel and as the accesses of each owner tag see it (R90). -/
def SameMemory (s t : State) : Prop :=
  ∀ a, t.mem.read a = s.mem.read a ∧ ∀ tag, t.peekByte tag a = s.peekByte tag a

/-- Nothing outside the cores differs but the count of free values drawn. -/
def OnlyCores (s t : State) : Prop := ({ t with cores := s.cores, free := s.free } : State) = s

/-- No other core differs. -/
def OtherCores (s t : State) : Prop := ∀ d, d ≠ s.issue.core → t.coreAt d = s.coreAt d

/-- In a core, nothing but the scalar takes and named registers and the count of claims differs. -/
def OnlyBanks (k k' : Core) : Prop :=
  ({ k' with bankU := k.bankU, bankS := k.bankS, bankH := k.bankH, seq := k.seq } : Core) = k

/-- In a core, nothing but the vector takes and the count of claims differs. -/
def OnlyVTakes (k k' : Core) : Prop := ({ k' with vtakes := k.vtakes, seq := k.seq } : Core) = k

/-- A scalar result leaves alone all but a take and `xW` of the level in force. -/
def ScalarFrame (s t : State) (w : WReg) : Prop :=
  OnlyCores s t ∧ OtherCores s t ∧ SameMemory s t ∧ OnlyBanks s.cur t.cur ∧
  (∀ l, l ≠ s.cur.level → t.cur.bank l = s.cur.bank l) ∧
  ∀ n, n ≠ w ∨ n = 0 → (t.cur.bank s.cur.level).x[n] = (s.cur.bank s.cur.level).x[n]

/-- The instructions of the S slot that do nothing but claim a scalar result, with their W. -/
def scalarResult : Instr → Option WReg
  | .add _ _ w _ | .sub _ _ w _ | .mul _ _ w _ | .mulh _ _ w | .mulhz _ _ w | .div _ _ w _ | .divz _ _ w _
  | .rem _ _ w _ | .remz _ _ w _ | .and _ _ w | .or _ _ w | .xor _ _ w | .andn _ _ w | .shl _ _ w _ | .shr _ _ w _
  | .sra _ _ w _ | .rot _ _ w _ | .clz _ w _ | .ctz _ w _ | .popc _ w _ | .min _ _ w | .max _ _ w | .minz _ _ w
  | .maxz _ _ w | .cmp _ _ w _ | .sel _ _ w _ | .agen _ _ w _ | .bfi _ _ w _ | .li w _ | .addi _ w _ | .andi _ w _
  | .ori _ w _ | .xori _ w _ | .shli _ w _ _ | .shri _ w _ _ | .srai _ w _ _ | .bfx _ w _ _ _ | .fil w _
  | .csrr w _ => some w
  | _ => none

/-- The vector instructions that do nothing but read their operands and claim a vector take. -/
def vectorResult : Instr → Bool
  | .vadd _ _ _ _ | .vsub _ _ _ _ | .vmul _ _ _ _ | .vfma _ _ _ _ _ | .vfms _ _ _ _ _ | .vfnma _ _ _ _ _
  | .vdiv _ _ _ _ | .vsqrt _ _ _ | .vrsq _ _ _ | .vrcp _ _ _ | .vexp2 _ _ _ | .vlog2 _ _ _ | .vmin _ _ _ | .vmax _ _ _
  | .vabs _ _ _ | .vneg _ _ _ | .vcps _ _ _ | .vand _ _ _ | .vor _ _ _ | .vxor _ _ _ | .vnot _ _ | .vshl _ _ _
  | .vshr _ _ _ | .vsra _ _ _ | .vmulh _ _ _ | .vcmp _ _ _ _ | .vsel _ _ _ _ | .vclass _ _ | .vcvt _ _ _ _ _
  | .vpack _ _ _ | .vunpk _ _ | .vscl _ _ _ _ | .vanc _ _ _ _ | .vdanc _ _ _ _ | .vqdec _ _ _ _ _ | .vbcst _ _
  | .viota _ _ | .vperm _ _ _ | .vslide _ _ _ _ | .vzip _ _ _ _ | .vunzip _ _ _ _ | .vext _ _ _ | .vrsum _ _ _
  | .vrmax _ _ | .vrmin _ _ | .vscan _ _ _ | .vdot _ _ _ _ => true
  | _ => false

/-- The specifier of an operand, where it is no literal. -/
def VOpnd.spec? : VOpnd → Option VSpec
  | .spec v => some v
  | .lit _ => none

/-- The operands of an instruction of `vectorResult`, a literal apart. -/
def vectorOperands : Instr → List VSpec
  | .vsqrt a _ _ | .vrsq a _ _ | .vrcp a _ _ | .vexp2 a _ _ | .vlog2 a _ _ | .vabs a _ _ | .vneg a _ _
    | .vnot a _ | .vclass a _ | .vcvt a _ _ _ _ | .vunpk a _ | .vbcst a _ | .viota a _ | .vrsum a _ _
    | .vrmax a _ | .vrmin a _ | .vscan a _ _ => [a]
  | .vadd a b _ _ | .vsub a b _ _ | .vmul a b _ _ | .vdiv a b _ _ | .vmin a b _ | .vmax a b _ | .vcps a b _
    | .vand a b _ | .vor a b _ | .vxor a b _ | .vshl a b _ | .vshr a b _ | .vsra a b _ | .vmulh a b _
    | .vcmp a b _ _ | .vpack a b _ | .vscl a b _ _ | .vanc a b _ _ | .vdanc a b _ _ | .vperm a b _
    | .vzip a b _ _ | .vunzip a b _ _ | .vext a b _ | .vdot a b _ _ => a :: (VOpnd.spec? b).toList
  | .vfma a b c _ _ | .vfms a b c _ _ | .vfnma a b c _ _ | .vsel a b c _ | .vqdec a b c _ _ | .vslide a b c _ => a :: c :: (VOpnd.spec? b).toList
  | _ => []

/-- A take, a register or a broadcast: reading it pops nothing. -/
def VSpec.still : VSpec → Bool
  | .take _ | .v _ | .bcast _ => true
  | _ => false

/-! ### Bytes -/

/-- `v` is what `len` bytes at `a` read as, the low byte first, extended to 64 bits (R2, R352). -/
def Loads (m : Mem) (a len : Nat) (sx : Bool) (v : Word) : Prop :=
  ∀ i < 64, v.getLsbD i =
    if i < 8 * len then (m.read (a + i / 8)).getLsbD (i % 8) else sx && (m.read (a + len - 1)).getLsbD 7

/-- `m'` is `m` with the `len` low bytes of `v` at `a`, and every other byte as before. -/
def Stored (m m' : Mem) (a len : Nat) (v : Word) : Prop :=
  ∀ k, m'.read k = if a ≤ k ∧ k < a + len then v.extractLsb' (8 * (k - a)) 8 else m.read k

/-- `t` is `s` with these bytes at `a`, as a tag sees them, and every byte elsewhere as before, at its channel and as the
accesses of each tag see it (R90). -/
def StoredFor (s t : State) (tag a : Nat) (side : Bool) (bs : List Byte) : Prop :=
  t.look tag a bs.length side = bs ∧
  ∀ x, x < a ∨ a + bs.length ≤ x → t.mem.read x = s.mem.read x ∧ ∀ g, t.peekByte g x = s.peekByte g x

/-- The step sends one access of the core being issued on its way, and no other. -/
def Sends (s t : State) (kind : MemKind) (dpa : Nat) (P : MemOp → Prop) : Prop :=
  ∃ op, t.memq = s.memq ++ [op] ∧ op.kind = kind ∧ op.dpa = dpa ∧ op.core = s.issue.core ∧ op.result = none ∧ P op

/-- A load in flight for the core being issued: its access, landing offset and W. -/
def Awaits (s t : State) (id lat : Nat) (w : WReg) : Prop :=
  ∃ l, t.cur.loads = s.cur.loads ++ [l] ∧ l.id = id ∧ l.land = s.cur.clk + lat ∧ l.w = w ∧ l.data = none

/-! ### Queues and commands -/

/-- The operation enters the matrix op queue with what it captures, and nothing else of the machine changes but a
partition's meter (R334). -/
def Enqueues (i : Instr) (s : State) : Prop :=
  RunsTo i s fun t => SameMemory s t ∧ OtherCores s t ∧
    ({ t.cur with mops := s.cur.mops } : Core) = s.cur ∧
    t.cur.mops = s.cur.mops ++ [{ op := i, ofs := s.issue.ofs, fmte := s.pre.fmte.setWidth 7, frm := s.pre.frm,
                                  srseed := s.pre.srseed }]

/-- The first checks of a tagged command pass: its tag is free and the copy queue has room (R149, R367). -/
def TagReady (s : State) (g : Fin 64) : Prop :=
  tagFree s.pre.tags[g] = true ∧ tagFree s.cur.tags[g] = true ∧ s.cur.copyq.length < min 16 s.pre.hdr.cqMax

/-- The command starts: it stands behind the others with its operands, its tag is busy and holds an entry of the copy
queue, and no byte of HBM has changed (R367, R369). -/
def Starts (i : Instr) (s : State) (g : Option (Fin 64)) (x y z : Word) (P : EngCmd → State → Prop) : Prop :=
  RunsTo i s fun t => SameMemory s t ∧ ∃ m, t.cmds = s.cmds ++ [m] ∧ m.op = i ∧ m.tag = g ∧ m.core = s.issue.core ∧
    m.level = s.pre.level ∧ m.a = x ∧ m.b = y ∧ m.c = z ∧ m.parked = false ∧ P m t ∧
    ∀ n, g = some n → t.cur.tags[n] = .busy false ∧ t.cur.copyq = s.cur.copyq ++ [n]

/-- Of the core being issued nothing differs but its tags, its copy queue and the pointer of its tape, and no other core
differs. -/
def OnlyTags (s t : State) : Prop :=
  ({ t.cur with tags := s.cur.tags, copyq := s.cur.copyq, reelPtr := s.cur.reelPtr } : Core) = s.cur ∧ OtherCores s t

/-- How a copy starts, its operands read in `u`, by what its ends are (R377, R241, R242): an ordinary one starts as it is; one from a region is marked;
one into a region reserves its records on the tape, or in REWIND gives them back; ends that mix are refused. -/
def CopyStarts (s u : State) (m : EngCmd) (x y z : Word) : Prop :=
  let dsts := (copyRuns m).map fun r => (r.dst, r.len)
  let srcs := (copyRuns m).map fun r => (r.src, r.len)
  let rew := s.pre.rewinding && diffLevel s.pre
  let size := recordsSize (recordRuns m)
  let starts (P : EngCmd → State → Prop) : Prop :=
    Starts m.op s m.tag x y z fun n t => n.block = m.block ∧ OnlyTags s t ∧ P n t
  footprintBad s.pre (dsts ++ srcs) = none →
  (footDiff s.pre dsts = .plain → footDiff s.pre srcs = .plain →
    starts fun n t => n.diff = diffFoot s.pre (dsts ++ srcs) ∧ n.rewind = false ∧ t.cur.reelPtr = s.cur.reelPtr) ∧
  (∀ r, footDiff s.pre dsts = .plain → footDiff s.pre srcs = .region r →
    starts fun n t => n.diff = true ∧ n.rewind = rew ∧ t.cur.reelPtr = s.cur.reelPtr) ∧
  (∀ r, footDiff s.pre dsts = .region r →
    (footDiff s.pre srcs = .plain ∨ ∃ q, footDiff s.pre srcs = .region q ∧ q.type = r.type) →
    (rew = true → starts fun n t => n.rewind = true ∧ n.reel = s.cur.reelPtr ∧
      t.cur.reelPtr = (s.cur.setReelPtr (reelPtr s.cur + 2 ^ 48 - size % 2 ^ 48)).reelPtr) ∧
    (rew = false → ∀ segs, reserveReel u s.issue.core size = .ok segs → starts fun n t => n.diff = true ∧ n.segs = segs ∧
      t.cur.reelPtr = (s.cur.setReelPtr (reelPtr s.cur + size)).reelPtr)) ∧
  (∀ e, footDiff s.pre dsts = .mixed e ∨ (∀ e', footDiff s.pre dsts ≠ .mixed e') ∧ footDiff s.pre srcs = .mixed e →
    Raises m.op s (slotTrap s .diffShape e.info))

/-- The checks of a tile transfer pass (R368, R378, R379). -/
def TileOk (s : State) (load : Bool) (n : Fin 8) (y z : Word) : Prop :=
  let cfg := (s.pre.tiles[n]).cfg
  engAddrOk s.pre.level y = true ∧ (tcSkew z = true → (engAddrOf y).isSpad = true) ∧ (tcT z = true → tcSkew z = true) ∧
  bitsOf z.toNat 5 3 = 0 ∧ (engAddrOf y).num % (if tcSkew z then 1024 else 64) = 0 ∧
  (tcScl z = true → tcSoff z % 64 = 0) ∧ footprintBad s.pre (tileRanges cfg y z) = none ∧
  (load = false → ∀ r ∈ tileRanges cfg y z, ∀ o, r.1 = .spad o → touchesBarrier s.pre.hdr o r.2 = false) ∧
  (s.pre.tiles[n]).released = false ∧ (tcT z = true → tcfgRows cfg * tileWidth cfg % 32 = 0) ∧
  tileLoading s n = false ∧ (load = true → ∀ o ∈ s.cur.mops, n ∉ tilesNamed o.op)

/-- A packet command starts: its packets count for their destination from its issue (R40). -/
def StartsFabric (i : Instr) (s : State) (g : Fin 64) (x y z : Word) (rank : Nat) : Prop :=
  Starts i s (some g) x y z fun m t =>
    m.pkts = fabPackets m ∧
    let dst := (memberOf s s.cur.launch s.cur.part rank).1
    t.cur.fabOut = if dst = selfMod s then s.cur.fabOut
      else SMap.set 0 s.cur.fabOut dst (SMap.get 0 s.cur.fabOut dst + m.pkts)

/-! ### Issue -/

/-- A core stands alone at a bundle that it issues in this cycle: it runs, nothing delays or stops it, and its address and
code lines are there (R143, R152, R154, R248, R417). -/
def IssuesNow (s : State) (c : Fin 256) : Prop :=
  let k := s.coreAt c
  k.run = .running ∧ k.joined = false ∧ s.cycle % gateOf s c = 0 ∧ k.entryWait = 0 ∧ k.skip = 0 ∧
  isYield k.wait = false ∧ k.lateLoad = false ∧ accessCause k = none ∧ atDefaultHandler s k = false ∧
  mayFetch s k = true ∧ fetched k (bundleAt s c) = true

/-- What the way of an access through TLBs, L2 and channels may change, and nothing else: memory and its lines, tables and
accounts of channels, the fault logs and their signals, and of the cores the walks and the counted events (R71, R86, R90,
R91, R95, R167). -/
def OnlyMemorySide (s t : State) : Prop :=
  ({ t with cores := s.cores, mem := s.mem, hostMem := s.hostMem, badLines := s.badLines, ecc := s.ecc, l2 := s.l2,
            plru := s.plru, hostLines := s.hostLines, comb := s.comb, l2tlb := s.l2tlb, parts := s.parts, nb := s.nb,
            qos := s.qos, openRows := s.openRows, saved := s.saved, flog := s.flog, flogLost := s.flogLost,
            fnErr := s.fnErr, msixPend := s.msixPend, out := s.out, agenda := s.agenda, free := s.free } : State) = s ∧
  ∀ c, ({ t.coreAt c with perf := (s.coreAt c).perf, walks := (s.coreAt c).walks } : Core) = s.coreAt c

/-- Nothing differs in the other cores. -/
def OtherThan (s t : State) (c : Fin 256) : Prop := ∀ d, d ≠ c → t.coreAt d = s.coreAt d

/-! ### The fabric -/

/-- A packet of another module is taken up now: none of its stream waits before it at a channel (R41). -/
def ComesUp (s : State) (p : Packet) : Prop :=
  p.dst.toNat = selfMod s ∧ p.src.toNat ≠ selfMod s ∧ streamWait s p = none ∧ s.fabric.again.contains p = false

/-- A packet of another module, well formed, of a type that its class carries, for a partition that exists and a gang that
is resident (R28, R38). -/
def ArrivesHere (s : State) (p : Packet) : Prop :=
  ComesUp s p ∧ p.hccOk = true ∧ p.flitsOk = true ∧ typeAllowed p.cls.toNat p.type.toNat = true ∧ p.dfn.toNat ≠ 0 ∧
  (∃ h : p.dfn.toNat < 17, (s.parts[p.dfn.toNat]).exists_ = true) ∧ residentGang s p.dfn.toNat p.gang = true

/-- Its lines translate to `ps` (R38). -/
def LinesAt (s : State) (p : Packet) (ps : List Phys) : Prop :=
  packetLines s p.dfn.toNat (if p.type = 0x02 then .atomic else .write) p.addr.toNat (lineCount p) = .ok ps

/-- Its lines translate to `ps`, none of them on a DIFF page, and no channel keeps it waiting (R38, R91, R187). -/
def LinesReady (s : State) (p : Packet) (ps : List Phys) : Prop :=
  LinesAt s p ps ∧ ps.any (·.diff) = false ∧ busyChan s p.dfn.toNat (packetChans s p.dfn.toNat p ps) = none

/-- The packet arrives, is accepted and leaves a state of which `P` holds, with the port by which it came: the instruction
of its type does it, and DATA_PACKET_ACCEPT does. -/
def Accepts (i : Instr) (s : State) (p : Packet) (P : Fin 21 → State → Prop) : Prop :=
  (s.inp.pkt = p → RunsTo i s (P s.inp.port)) ∧
  (∀ n : Fin 20, RunsTo (.dataPacketAccept (some n) p) s (P n.castSucc)) ∧ RunsTo (.dataPacketAccept none p) s (P 20)

/-- A DROP with this reason waits at its port for the source of a packet, behind what was there (R39). -/
def DropLeaves (s t : State) (p : Packet) (reason : Nat) : Prop :=
  ∀ n, routePort s 3 p.src.toNat = some n → Port.use s.fabric.ports[n] = .ready →
    (t.fabric.ports[n]).ctlQueue.getLast? = some ⟨20, false, s.cycle + 20, ctlOf s 0x02 p.src.toNat
      (p.sfn.toNat % 32 + 2 ^ 5 * p.cls.toNat + 2 ^ 8 * reason) p.pseq.toNat⟩

/-! ### Commands of the rings -/

/-- The function may use the command, and every byte outside its fields is zero (R61-R63). -/
def CmdFor (s : State) (w : Who) (used : List (Nat × Nat)) : Prop :=
  w.allows s.inp.cmd.fn = true ∧ s.inp.cmd.zeroBut used = true

/-- The command comes to its result in `u`, and nothing else changes (R61). -/
def EndsIn (i : Instr) (s u : State) (status r0 r1 : Nat) : Prop := Runs i s (u.cmdDone s.inp.cmd status r0 r1)

/-- The command ends OK: its commands stand as in `u` with this one done, and `P` holds. -/
def EndsOk (i : Instr) (s u : State) (r0 : Nat) (P : State → Prop) : Prop :=
  RunsTo i s fun t => t.cmdRuns = (u.cmdDone s.inp.cmd csOk r0 0).cmdRuns ∧ P t

/-! ### Good states -/

/-- Both memories are in their canonical form. -/
def State.memoriesOk (s : State) : Prop := s.mem.wf = true ∧ s.hostMem.wf = true

/-- The power controller's registers hold values that R10 and R11 give them. -/
def State.powerLegal (s : State) : Prop :=
  (1200 ≤ s.power.cap ∧ s.power.cap ≤ 2400) ∧ (1200 ≤ s.power.inForce ∧ s.power.inForce ≤ 2400) ∧
  s.power.gated ≤ 0xFFFF ∧ ∀ d : Fin 4, s.power.gate[d] ∈ [1, 2, 4]

end Sys2Proof.Machine
end

