-- ==== Sys2Proof/Certificates/Slice0/Obligations.lean ====
section
/-! DEFINITION. The statements for the provers. -/

open Sys2Proof Sys2Proof.Machine

/-! ### The S slot: integers -/

/-- R288. The results of the two-operand integer instructions and of their 32-bit forms, each with its latency: the exact
integer of the operands' values, narrowed. `s1` and `s2` are `s`, or `s` with free values drawn where an operand was
read in a shadow (R141, R142). R288. The bitwise instructions and the shifts, by s = b mod 64, or b mod 32 in the
32-bit forms. R288. CLZ, CTZ and POPC count in the operand, or in its low 32 bits: the leading and trailing zeros are
those before the first bit set, 64 or 32 for zero. The model's choices behind it: log entry 9. -/
def Obligations.IntegerAndBitwiseResults : Prop :=
  (∀ (s s1 s2 : State) (a : SSpec) (b : SOpnd) (w : WReg) (x y : Word),
     readS s a 0 = .ok x s1 → readSO s1 b 1 = .ok y s2 →
     Runs (.add a b w false) s (s2.result (BitVec.ofInt 64 (x.toInt + y.toInt)) 1 w) ∧
     Runs (.add a b w true) s (s2.result (sext32 (x.toInt + y.toInt)) 1 w) ∧
     Runs (.sub a b w false) s (s2.result (BitVec.ofInt 64 (x.toInt - y.toInt)) 1 w) ∧
     Runs (.sub a b w true) s (s2.result (sext32 (x.toInt - y.toInt)) 1 w) ∧
     Runs (.mul a b w false) s (s2.result (BitVec.ofInt 64 (x.toInt * y.toInt)) 3 w) ∧
     Runs (.mul a b w true) s (s2.result (sext32 (x.toInt * y.toInt)) 3 w) ∧
     Runs (.mulh a b w) s (s2.result (BitVec.ofInt 64 (x.toInt * y.toInt / 2 ^ 64)) 3 w) ∧
     Runs (.mulhz a b w) s (s2.result (BitVec.ofNat 64 (x.toNat * y.toNat / 2 ^ 64)) 3 w) ∧
     Runs (.min a b w) s (s2.result (BitVec.ofInt 64 (min x.toInt y.toInt)) 1 w) ∧
     Runs (.max a b w) s (s2.result (BitVec.ofInt 64 (max x.toInt y.toInt)) 1 w) ∧
     Runs (.minz a b w) s (s2.result (BitVec.ofNat 64 (min x.toNat y.toNat)) 1 w) ∧
     Runs (.maxz a b w) s (s2.result (BitVec.ofNat 64 (max x.toNat y.toNat)) 1 w)) ∧
  ((∀ (s s1 s2 : State) (a : SSpec) (b : SOpnd) (w : WReg) (x y : Word),
     readS s a 0 = .ok x s1 → readSO s1 b 1 = .ok y s2 →
     Runs (.and a b w) s (s2.result (x &&& y) 1 w) ∧
     Runs (.or a b w) s (s2.result (x ||| y) 1 w) ∧
     Runs (.xor a b w) s (s2.result (x ^^^ y) 1 w) ∧
     Runs (.andn a b w) s (s2.result (x &&& ~~~y) 1 w) ∧
     Runs (.shl a b w false) s (s2.result (BitVec.ofNat 64 (x.toNat * 2 ^ (y.toNat % 64))) 1 w) ∧
     Runs (.shl a b w true) s (s2.result (sext32 (x.toInt * 2 ^ (y.toNat % 32))) 1 w) ∧
     Runs (.shr a b w false) s (s2.result (BitVec.ofNat 64 (x.toNat / 2 ^ (y.toNat % 64))) 1 w) ∧
     Runs (.shr a b w true) s (s2.result (sext32 (x.toNat % 2 ^ 32 / 2 ^ (y.toNat % 32) : Nat)) 1 w) ∧
     Runs (.sra a b w false) s (s2.result (BitVec.ofInt 64 (x.toInt / 2 ^ (y.toNat % 64))) 1 w) ∧
     Runs (.sra a b w true) s (s2.result (sext32 ((x.setWidth 32).toInt / 2 ^ (y.toNat % 32))) 1 w) ∧
     Runs (.rot a b w false) s
       (s2.result ((x <<< (y.toNat % 64)) ||| (x >>> (64 - y.toNat % 64))) 1 w) ∧
     Runs (.rot a b w true) s
       (s2.result ((((x.setWidth 32) <<< (y.toNat % 32)) ||| ((x.setWidth 32) >>> (32 - y.toNat % 32))).signExtend 64)
         1 w)) ∧
   (∀ (s s1 : State) (a : SSpec) (w : WReg) (x : Word) (w32 : Bool), readS s a 0 = .ok x s1 →
     let n := if w32 then 32 else 64
     (∃ z ≤ n, Runs (.clz a w w32) s (s1.result (BitVec.ofNat 64 z) 1 w) ∧
       (∀ i < z, x.getLsbD (n - 1 - i) = false) ∧ (z < n → x.getLsbD (n - 1 - z) = true)) ∧
     (∃ z ≤ n, Runs (.ctz a w w32) s (s1.result (BitVec.ofNat 64 z) 1 w) ∧
       (∀ i < z, x.getLsbD i = false) ∧ (z < n → x.getLsbD z = true)) ∧
     Runs (.popc a w w32) s (s1.result (BitVec.ofNat 64 ((List.range n).countP x.getLsbD)) 1 w)))

/-- R289. A zero divisor, or one whose low 32 bits are zero in a 32-bit form, raises DIV_ZERO, and a bundle whose S slot does
so leaves everything as it was before the bundle, whatever its other slots hold. Otherwise quotients round toward zero and
remainders have the sign of a; the most negative value by -1 gives itself and 0; a = quotient * b + remainder in both
widths. -/
def Obligations.DivisionResultsAndDivZero : Prop :=
  ∀ (s s1 s2 : State) (a : SSpec) (b : SOpnd) (w : WReg) (x y : Word),
    readS s a 0 = .ok x s1 → readSO s1 b 1 = .ok y s2 →
    (y ≠ 0 →
      Runs (.div a b w false) s (s2.result (BitVec.ofInt 64 (x.toInt.tdiv y.toInt)) 20 w) ∧
      Runs (.divz a b w false) s (s2.result (BitVec.ofNat 64 (x.toNat / y.toNat)) 20 w) ∧
      Runs (.rem a b w false) s (s2.result (BitVec.ofInt 64 (x.toInt.tmod y.toInt)) 20 w) ∧
      Runs (.remz a b w false) s (s2.result (BitVec.ofNat 64 (x.toNat % y.toNat)) 20 w)) ∧
    (y.setWidth 32 ≠ 0 →
      Runs (.div a b w true) s (s2.result (sext32 ((x.setWidth 32).toInt.tdiv (y.setWidth 32).toInt)) 20 w) ∧
      Runs (.divz a b w true) s (s2.result (sext32 (x.toNat % 2 ^ 32 / (y.toNat % 2 ^ 32) : Nat)) 20 w) ∧
      Runs (.rem a b w true) s (s2.result (sext32 ((x.setWidth 32).toInt.tmod (y.setWidth 32).toInt)) 20 w) ∧
      Runs (.remz a b w true) s (s2.result (sext32 (x.toNat % 2 ^ 32 % (y.toNat % 2 ^ 32) : Nat)) 20 w)) ∧
    (y = 0 →
      Raises (.div a b w false) s (slotTrap s2 .divZero 0) ∧ Raises (.divz a b w false) s (slotTrap s2 .divZero 0) ∧
      Raises (.rem a b w false) s (slotTrap s2 .divZero 0) ∧ Raises (.remz a b w false) s (slotTrap s2 .divZero 0)) ∧
    (y.setWidth 32 = 0 →
      Raises (.div a b w true) s (slotTrap s2 .divZero 0) ∧ Raises (.divz a b w true) s (slotTrap s2 .divZero 0) ∧
      Raises (.rem a b w true) s (slotTrap s2 .divZero 0) ∧ Raises (.remz a b w true) s (slotTrap s2 .divZero 0)) ∧
    (∀ (u : State) (c : Fin 256) (d : RawBundle) (i : Instr) (rest : List (Slot × Instr)),
      let o := u.openBundle c d ((.s, i) :: rest)
      s = { o with issue := { o.issue with slot := .s } } →
      ((∀ e ∈ (.s, i) :: rest, isAccess e.2 = false) ∨ acquiring u c = false) →
      engineTrap (u.coreAt c) (bundlePops o) = none →
      (y = 0 ∧ (i = .div a b w false ∨ i = .divz a b w false ∨ i = .rem a b w false ∨ i = .remz a b w false) ∨
        y.setWidth 32 = 0 ∧ (i = .div a b w true ∨ i = .divz a b w true ∨ i = .rem a b w true ∨ i = .remz a b w true)) →
      runCore u c d ((.s, i) :: rest) = (.trap (slotTrap s2 .divZero 0), none, u)) ∧
    (y ≠ 0 → BitVec.ofInt 64 (x.toInt.tdiv y.toInt) * y + BitVec.ofInt 64 (x.toInt.tmod y.toInt) = x ∧
      BitVec.ofNat 64 (x.toNat / y.toNat) * y + BitVec.ofNat 64 (x.toNat % y.toNat) = x) ∧
    (∀ p q : BitVec 32, q ≠ 0 → BitVec.ofInt 32 (p.toInt.tdiv q.toInt) * q + BitVec.ofInt 32 (p.toInt.tmod q.toInt) = p ∧
      BitVec.ofNat 32 (p.toNat / q.toNat) * q + BitVec.ofNat 32 (p.toNat % q.toNat) = p) ∧
    (x = BitVec.intMin 64 → y = BitVec.allOnes 64 →
      BitVec.ofInt 64 (x.toInt.tdiv y.toInt) = x ∧ BitVec.ofInt 64 (x.toInt.tmod y.toInt) = 0) ∧
    (x.setWidth 32 = BitVec.intMin 32 → y.setWidth 32 = BitVec.allOnes 32 →
      sext32 ((x.setWidth 32).toInt.tdiv (y.setWidth 32).toInt) = (BitVec.intMin 32).signExtend 64 ∧
      sext32 ((x.setWidth 32).toInt.tmod (y.setWidth 32).toInt) = 0)

/-- R272, R290. CMP gives 1 where its condition holds of the 64-bit values, signed or unsigned, else 0; SEL takes a
where c is not zero; AGEN adds b times a power of two; BFI replaces the bits of the field and drops what lies above
bit 63. R266, R292. The immediate forms, with the immediate or the literal in its place sign-extended. R292. BFX gives
bits [pos + len - 1 : pos] of a, extended with zeros or with copies of its top bit. -/
def Obligations.CompareSelectFieldAndImmediateResults : Prop :=
  (∀ (s s1 s2 s3 : State) (a c : SSpec) (b : SOpnd) (w : WReg) (x y z : Word) (k : Fin 16),
    readS s a 0 = .ok x s1 → readSO s1 b 1 = .ok y s2 → readS s2 c 2 = .ok z s3 →
    (let is (p : Prop) [Decidable p] : State := s2.result (if p then 1 else 0) 1 w
     Runs (.cmp a b w .eq) s (is (x = y)) ∧ Runs (.cmp a b w .ne) s (is (x ≠ y)) ∧
     Runs (.cmp a b w .lt) s (is (x.toInt < y.toInt)) ∧ Runs (.cmp a b w .ge) s (is (y.toInt ≤ x.toInt)) ∧
     Runs (.cmp a b w .le) s (is (x.toInt ≤ y.toInt)) ∧ Runs (.cmp a b w .gt) s (is (y.toInt < x.toInt)) ∧
     Runs (.cmp a b w .zlt) s (is (x.toNat < y.toNat)) ∧ Runs (.cmp a b w .zge) s (is (y.toNat ≤ x.toNat)) ∧
     Runs (.cmp a b w .zle) s (is (x.toNat ≤ y.toNat)) ∧ Runs (.cmp a b w .zgt) s (is (y.toNat < x.toNat))) ∧
    Runs (.sel a b w c) s (s3.result (if z = 0 then y else x) 1 w) ∧
    Runs (.agen a b w k) s (s2.result (x + y * BitVec.ofNat 64 (2 ^ k.val)) 1 w) ∧
    ∃ r, Runs (.bfi a b w c) s (s3.result r 1 w) ∧
      ∀ i < 64, r.getLsbD i =
        if y.toNat % 64 ≤ i ∧ i < y.toNat % 64 + (y.toNat / 64 % 64 + 1) then z.getLsbD (i - y.toNat % 64)
        else x.getLsbD i) ∧
  (∀ (s s1 : State) (a : SSpec) (w : WReg) (x : Word) (i : Imm) (n : BitVec 6), readS s a 0 = .ok x s1 →
    let v : Word := match i with | .imm13 v => v.signExtend 64 | .lit v => v.signExtend 64
    Runs (.li w i) s (s.result v 1 w) ∧
    Runs (.addi a w i) s (s1.result (x + v) 1 w) ∧
    Runs (.andi a w i) s (s1.result (x &&& v) 1 w) ∧
    Runs (.ori a w i) s (s1.result (x ||| v) 1 w) ∧
    Runs (.xori a w i) s (s1.result (x ^^^ v) 1 w) ∧
    Runs (.shli a w false n) s (s1.result (x <<< n.toNat) 1 w) ∧
    Runs (.shli a w true n) s (s1.result (((x.setWidth 32) <<< (n.toNat % 32)).signExtend 64) 1 w) ∧
    Runs (.shri a w false n) s (s1.result (x >>> n.toNat) 1 w) ∧
    Runs (.shri a w true n) s (s1.result (((x.setWidth 32) >>> (n.toNat % 32)).signExtend 64) 1 w) ∧
    Runs (.srai a w false n) s (s1.result (x.sshiftRight n.toNat) 1 w) ∧
    Runs (.srai a w true n) s (s1.result (((x.setWidth 32).sshiftRight (n.toNat % 32)).signExtend 64) 1 w)) ∧
  (∀ (s s1 : State) (a : SSpec) (w : WReg) (x : Word) (sx : Bool) (len pos : BitVec 6), readS s a 0 = .ok x s1 →
    pos.toNat + (len.toNat + 1) ≤ 64 →
    ∃ r, Runs (.bfx a w sx len pos) s (s1.result r 1 w) ∧
      ∀ i < 64, r.getLsbD i =
        if i ≤ len.toNat then x.getLsbD (pos.toNat + i) else sx && x.getLsbD (pos.toNat + len.toNat))

/-- What a scalar result leaves alone (R139, R142): every other core, every byte of memory, every special register,
accumulator, tile and trap register of the core, the program counter, the banks of the other levels and every named
register but `xW`. x0 is never written. For every instruction of `scalarResult`, where it completes. What a vector
result leaves alone (R139, R140), for every instruction of `vectorResult` whose operands are takes, registers or
literals: nothing outside the core, no byte of memory, and in the core everything but the vector takes. -/
def Obligations.ResultInstructionsLeaveTheRestAlone : Prop :=
  (∀ (i : Instr) (w : WReg) (s t : State), scalarResult i = some w → Runs i s t → s.issue.result = .ok →
    t.issue.result = .ok → ScalarFrame s t w) ∧
  (∀ (i : Instr) (s t : State), vectorResult i = true → (∀ v ∈ vectorOperands i, VSpec.still v = true) → Runs i s t →
    t.issue.result = .ok →
    OnlyCores s t ∧ OtherCores s t ∧ SameMemory s t ∧ OnlyVTakes s.cur t.cur)

/-! ### The S slot: transfers of control, core control, traps -/

/-- R293, R294. The branches: each is taken on its own condition, signed where R293 says, on the operand as read at
issue, or on the mask as the bundles before left it; the target is `off` words from the header word. A branch not
taken changes nothing. -/
def Obligations.BranchesTakeTheirConditions : Prop :=
  ∀ (s s1 : State) (a : SSpec) (o : Off) (x : Word), readS s a 0 = .ok x s1 →
    let off : Word := match o with | .off18 v => v.signExtend 64 | .lit v => v.signExtend 64
    let h := s.pre.pc + 4 * off
    Runs (.br o) s (s.transfer h) ∧
    Runs (.beqz a o) s (if x = 0 then s1.transfer h else s1) ∧
    Runs (.bnez a o) s (if x ≠ 0 then s1.transfer h else s1) ∧
    Runs (.bltz a o) s (if x.toInt < 0 then s1.transfer h else s1) ∧
    Runs (.bgez a o) s (if 0 ≤ x.toInt then s1.transfer h else s1) ∧
    Runs (.bmz o) s (if s.pre.mask.headD (BitVec.allOnes 512) = 0 then s.transfer h else s) ∧
    Runs (.bmnz o) s (if s.pre.mask.headD (BitVec.allOnes 512) ≠ 0 then s.transfer h else s) ∧
    (s.transfer h).cur.pc = h ∧ (s.transfer h).issue.taken = true ∧
      ({ (s.transfer h).cur with pc := s.cur.pc } : Core) = s.cur

/-- R295. LOOP writes xN := a - 1 with latency 1, in a take too, and branches when that is not zero, so that from xN = 0 the
counter is zero again after 2^64 rounds and not before; an A field that names no x1 to x15 is an illegal opcode. -/
def Obligations.LoopDecrementsAndBranches : Prop :=
  (∀ (s s1 : State) (n : Fin 16) (o : Off) (x : Word), readS s (.x n) 0 = .ok x s1 →
    let off : Word := match o with | .off18 v => v.signExtend 64 | .lit v => v.signExtend 64
    let t := s1.result (x - 1) 1 n
    Runs (.loop n o) s (if x - 1 ≠ 0 then t.transfer (s.pre.pc + 4 * off) else t)) ∧
  (∀ (w : BWord), w.extractLsb' 24 8 = 0x57 →
    let n := (w.extractLsb' 18 6).toNat
    (17 ≤ n ∧ n ≤ 31 → decodeS w none = .ok (.loop (Fin.ofNat 16 n) (.off18 (w.extractLsb' 0 18))) ∧
      ∀ v, w.extractLsb' 0 18 = 0 → decodeS w (some v) = .ok (.loop (Fin.ofNat 16 n) (.lit v))) ∧
    (¬ (17 ≤ n ∧ n ≤ 31) → ∀ lit, decodeS w lit = .error .illegalOpcode)) ∧
  (∀ m : Nat, 0 < m → m < 2 ^ 64 → (0 : Word) - BitVec.ofNat 64 m ≠ 0) ∧ (0 : Word) - BitVec.ofNat 64 (2 ^ 64) = 0

/-- R151, R296. CALL and CALLI push the address of the bundle after theirs, give it as their result and transfer; RET
pops the top entry and transfers to it. A call at depth 32 raises CALL_DEPTH, a RET at depth 0 or to another address
CONTROL_INTEGRITY. JT only transfers. -/
def Obligations.CallsAndReturnsKeepShadowStack : Prop :=
  ∀ (s s1 s2 : State) (a : SSpec) (b : SOpnd) (w : WReg) (o : Off) (x y : Word),
    readS s a 0 = .ok x s1 → readSO s1 b 1 = .ok y s2 →
    let off : Word := match o with | .off18 v => v.signExtend 64 | .lit v => v.signExtend 64
    let n := s.pre.ssp
    let ra := s.pre.pc + BitVec.ofNat 64 (4 * s.issue.blen)
    let pushed (h : n < 32) (t : State) : State := t.upd fun k => { k with shadow := k.shadow.set n ra, ssp := n + 1 }
    (∀ h : n < 32,
      Runs (.call o) s (((pushed h s).result ra 1 0).transfer (s.pre.pc + 4 * off)) ∧
      Runs (.calli a b w) s (((pushed h s2).result ra 1 w).transfer (x + y))) ∧
    (32 ≤ n → Raises (.call o) s (slotTrap s .callDepth 0) ∧ Raises (.calli a b w) s (slotTrap s2 .callDepth 0)) ∧
    Runs (.jt a b) s (s2.transfer (x + y)) ∧
    (∀ m, n = m + 1 → s.pre.shadow.toList.getD m 0 = x →
      Runs (.ret a) s ((s1.upd fun k => { k with ssp := m }).transfer x)) ∧
    (n = 0 ∨ s.pre.shadow.toList.getD (n - 1) 0 ≠ x → Raises (.ret a) s (slotTrap s1 .controlIntegrity 0))

/-- R297, R298. NOP has no effect; END is the core's last bundle; YIELD holds for Min(a, 65,535) cycles after its bundle;
TRAP raises TRAP_INSTR with its operand sign-extended; ERET in U raises PRIVILEGED. R253. ERET in S or H returns to
the level in PPRIV and to the bundle at TRAP_PC, which issues 3 cycles after it and ignores a BRK once; nothing else
of the machine changes. R291. MOVX: in U a move; in a handler the register bank of the level in TRAP_CAUSE.PPRIV, read
by .RD and written by .WR, where a write to x0 is dropped; every other form in U is an illegal opcode. The model's
choices behind it: log entry 19. -/
def Obligations.CoreControlAndTrapLevelInstructions : Prop :=
  (∀ (s s1 : State) (a : SSpec) (x : Word) (imm : BitVec 13), readS s a 0 = .ok x s1 →
    Runs .nop s s ∧
    RunsTo .endI s (fun t => t.cur.run = .ending ∧ SameMemory s t ∧
      (s.cur.hdr.tandem = false ∨ s.cur.joined = true → t = s.upd fun k => { k with run := .ending })) ∧
    (0 < x.toNat → Runs (.yield a) s (s1.upd fun k => { k with wait := some (.yield (min x.toNat 65535)) })) ∧
    (x = 0 → Runs (.yield a) s s1) ∧
    Raises (.trap imm) s (slotTrap s .trapInstr (imm.signExtend 64)) ∧
    (s.pre.level = .u → Raises .eret s (slotTrap s .privileged 0))) ∧
  (∀ s : State, s.pre.level ≠ .u →
    let r := s.cur.trapRegs s.cur.level
    RunsTo .eret s fun t =>
      t.cur.level = pprivOf r.cause ∧ t.cur.pc = r.pc ∧ t.cur.brkSkip = true ∧ t.cur.entryWait = 2 ∧
      ({ t.cur with level := s.cur.level, pc := s.cur.pc, brkSkip := s.cur.brkSkip, entryWait := s.cur.entryWait } : Core)
        = s.cur ∧
      (∀ d, d ≠ s.issue.core → t.coreAt d = s.coreAt d) ∧ SameMemory s t) ∧
  (∀ (s s1 : State) (a : SSpec) (w : WReg) (x : Word) (idx : Fin 16) (f : MovxForm), readS s a 0 = .ok x s1 →
    (s.pre.level = .u → Runs (.movx a w 0 .rdX) s (s1.result x 1 w)) ∧
    (s.pre.level = .u → f ≠ .rdX ∨ idx ≠ 0 → Raises (.movx a w idx f) s (slotTrap s .illegalOpcode 0)) ∧
    (s.pre.level ≠ .u → ∀ l, l = pprivOf (s.pre.trapRegs s.pre.level).cause →
      (∀ v, s.pre.seeX l idx = .settled v → Runs (.movx (.take 0) w idx .rdX) s (s.result v 1 w)) ∧
      (∀ v, s.pre.seeTake l idx = .settled v → Runs (.movx (.take 0) w idx .rdT) s (s.result v 1 w)) ∧
      Runs (.movx a w idx .wrX) s ((s1.result x 1 w).upd fun k => k.writeX l idx x 1) ∧
      ∀ k : Core, k.writeX l 0 x 1 = k))

/-- R250. Which level takes a cause: an H-class cause goes to H from U and S; another cause goes to S from U where
SOFF is not 0, ends the launch where it is 0, and goes to H from S as NESTED_TRAP with the original cause in
TRAP_INFO; at H the core stops. R248, R251. Trap entry writes TRAP_CAUSE, TRAP_PC and TRAP_INFO of the handler's level alone: the cause's code, its
slot, the interrupted level, JOINED and BLEN in their fields, the pc of the trapping bundle; it selects the handler's
level and puts the pc at its entry. R250. A core whose trap ends its launch stops: where SOFF is 0 in U, or at H, the
core goes dead, the launch keeps its first cause as a TRAP_CAUSE word, and every other running core of it is asked to stop
without a save. R153. Where the cause of one core of a joined quad goes to H, so does a sibling's. The model's choices
behind it: log entries 28, 32. -/
def Obligations.TrapEntrySavesAndEntersOrEndsTheLaunch : Prop :=
  (∀ (k : Core) (t : Trap),
    (t.cause.cls = .toH → k.level ≠ .h → k.trapTo t = .handler .h t.cause t.info) ∧
    (t.cause.cls ≠ .toH → k.level = .u → k.trapVec.toNat % 2 ^ 24 ≠ 0 → k.trapTo t = .handler .s t.cause t.info) ∧
    (t.cause.cls ≠ .toH → k.level = .u → k.trapVec.toNat % 2 ^ 24 = 0 → k.trapTo t = .endLaunch t.cause) ∧
    (t.cause.cls ≠ .toH → k.level = .s →
      ∃ info, k.trapTo t = .handler .h .nestedTrap info ∧ info.toNat % 2 ^ 7 = t.cause.code) ∧
    (k.level = .h → k.trapTo t = .stopCore t.cause)) ∧
  (∀ (k : Core) (cause : Cause) (slot blen : Nat) (info : Word), slot < 8 → blen < 16 →
    (let e := k.enter .s cause slot info blen
     e.level = .s ∧ e.pc.toNat = 4 * (k.trapVec.toNat % 2 ^ 24) ∧ e.trapH = k.trapH ∧
     e.trapS.pc = k.pc &&& 0xFFFFFFFFFC#64 ∧ e.trapS.info = info ∧
     bitsOf e.trapS.cause.toNat 0 7 = cause.code ∧ bitsOf e.trapS.cause.toNat 8 3 = slot ∧
     bitsOf e.trapS.cause.toNat 11 2 = k.level.num ∧ e.trapS.cause.getLsbD 13 = k.joined ∧
     bitsOf e.trapS.cause.toNat 16 4 = blen ∧ pprivOf e.trapS.cause = k.level) ∧
    (let e := k.enter .h cause slot info blen
     e.level = .h ∧ e.pc.toNat = 4 * (k.trapVec.toNat / 2 ^ 24 % 2 ^ 38) ∧ e.trapS = k.trapS ∧
     e.trapH.pc = k.pc &&& 0xFFFFFFFFFC#64 ∧ e.trapH.info = info ∧
     bitsOf e.trapH.cause.toNat 0 7 = cause.code ∧ bitsOf e.trapH.cause.toNat 8 3 = slot ∧
     bitsOf e.trapH.cause.toNat 11 2 = k.level.num ∧ e.trapH.cause.getLsbD 13 = k.joined ∧
     bitsOf e.trapH.cause.toNat 16 4 = blen ∧ pprivOf e.trapH.cause = k.level)) ∧
  (∀ (s : State) (c : Fin 256) (h : Bool) (t : Trap) (id : Nat), (s.coreAt c).launch = some id → t.cause ≠ .fabricTimeout →
    let k := s.coreAt c
    let word := trapCauseWord t.cause t.slot k.level k.joined s.issue.blen
    (k.level = .h ∨ k.level = .u ∧ t.cause.cls ≠ .toH ∧ k.trapVec.toNat % 2 ^ 24 = 0 ∧ h = false →
      let u := s.takeTrapOn c h t
      (u.coreAt c).run = .dead ∧ (u.coreAt c).wait = none ∧
      (∀ d, d ≠ c → (s.coreAt d).launch = some id → (s.coreAt d).run = .running → (u.coreAt d).stop = some .noSave) ∧
      (∀ l ∈ u.launches, l.id = id → l.fault = some word ∨ ∃ l' ∈ s.launches, l'.id = id ∧ l'.fault.isSome ∧ l.fault = l'.fault) ∧
      SameMemory s u) ∧
    (k.level = .s → k.trapWith h t = k.trapTo t) ∧
    (k.level = .u → h = true → ∃ info, k.trapWith h t = .handler .h t.cause info))

/-! ### Memory -/

/-- R351, R352. LD of the scratchpad: the bytes at the offset, low byte first, extended, with latency 4; bytes of a failed
line raise UNCORRECTABLE at the bundle, with TRAP_INFO[63] set (R23, R417); in REWIND the load of an element of a region contributes xW to its cell instead and gives 0. R193, R351, R352. LD of memory at
landing offset `land`: one read of `len` bytes goes to its home with the core's read clock, and the claimed take and
xW wait for it; no byte of memory changes but by the walk of a translation that the TLBs do not hold. In REWIND the load of an element of a region is its contribution to the
adjoint cell. The model's choices behind it: log entry 9. -/
def Obligations.LoadsFromScratchpadAndMemory : Prop :=
  (∀ (s s1 : State) (a : SSpec) (d : Disp) (w : WReg) (sz : LdSz) (x : Word), readS s a 0 = .ok x s1 →
     let n := (x + dispWord d).toNat
     let len := LdSz.bytes sz
     n % len = 0 → badPolder s.pre.hdr n len = none → spadHold s1 n len = none →
     (diffSpad s.pre n len = .plain →
       let u := s1.drainMaybe s.issue.core n len
       (u.cur.failedLine n len = none →
         ∃ v, Loads u.cur.spad n len (LdSz.signed sz) v ∧ Runs (.ld a d w 0 sz) s (u.result v 4 w)) ∧
       (u.cur.failedLine n len ≠ none → Raises (.ld a d w 0 sz) s (slotTrap s .uncorrectable (spadInfo n)))) ∧
     (∀ r, diffSpad s.pre n len = .region r → oneElement r n len = true →
       (s.pre.rewinding = false → s1.cur.failedLine n len = none →
         ∃ v, Loads s1.cur.spad n len (LdSz.signed sz) v ∧ Runs (.ld a d w 0 sz) s (s1.result v 4 w)) ∧
       (s.pre.rewinding = true → spadHold s1 (r.cell n) 4 = none → ∀ v s2, readS s1 (.x w) 0 = .ok v s2 →
         (w ≠ 0 → s2.cur.failedLine (r.cell n) 4 = none) →
         Runs (.ld a d w 0 sz) s
           ((if w = 0 then s2 else s2.upd fun k => k.accumSpad r n (contribution r v)).result 0 4 w))) ∧
     (∀ r, diffSpad s.pre n len = .region r → oneElement r n len = false →
       Raises (.ld a d w 0 sz) s (slotTrap s1 .diffShape (spadInfo (n % 2 ^ 63))))) ∧
  (∀ (s s1 : State) (a : SSpec) (d : Disp) (w : WReg) (land : BitVec 10) (sz : LdSz) (x : Word),
     readS s a 0 = .ok x s1 → land ≠ 0 →
     let addr := x + dispWord d
     let len := LdSz.bytes sz
     addr.toNat % len = 0 →
     (∀ p, memTarget s1 .read addr len = .ok (.hbm p) →
       (diffHbm s.pre p.diff addr.toNat len = .plain ∨
         (∃ r, diffHbm s.pre p.diff addr.toNat len = .region r ∧ oneElement r addr.toNat len = true) ∧
           s.pre.rewinding = false) →
       RunsTo (.ld a d w land sz) s fun t =>
         (Sends s t (.load len (LdSz.signed sz)) p.addr fun op =>
           op.num = 0 ∧ op.clk = s.cur.rc ∧ op.win = none ∧ Awaits s t op.id land.toNat w) ∧
         SameMemory (s1.noteAccess s.issue.core (.hbm p) addr.toNat) t) ∧
     (∀ p r q v s2, memTarget s1 .read addr len = .ok (.hbm p) → diffHbm s.pre p.diff addr.toNat len = .region r →
       oneElement r addr.toNat len = true → s.pre.rewinding = true →
       cellPhys s1 s.issue.core s.pre.part s.pre.level (r.cell addr.toNat) = .ok q → readS s1 (.x w) 0 = .ok v s2 →
       RunsTo (.ld a d w land sz) s fun t => SameMemory s t ∧
         if w = 0 then t = s2.result 0 land.toNat w
         else Sends s t (.accum r.a32 r.anchor (BitVec.ofNat 32 (contribution r v))) q.addr fun op => op.diff = true) ∧
     (∀ i p, memTarget s1 .read addr len = .ok (.window i p) → (diffLevel s.pre && (regionAt s.pre.hdr true addr.toNat len).isSome) = false →
       RunsTo (.ld a d w land sz) s fun t =>
         (Sends s t (.load len (LdSz.signed sz)) p.addr fun op => op.win = some i ∧ Awaits s t op.id land.toNat w) ∧
         SameMemory (s1.noteAccess s.issue.core (.window i p) addr.toNat) t) ∧
     (∀ fn off, memTarget s1 .read addr len = .ok (.reg fn off) →
       Runs (.ld a d w land sz) s (s1.result (regRead s1 fn off) land.toNat w)))

/-- R241, R243, R353. ST to the scratchpad lays the low bytes of its operand at the offset and changes no other byte
of it, nor of memory; its take receives 0. A store to an element of a region first writes its record and moves
REEL_PTR; in REWIND it restores the element from its record, clears the cell and returns its value. -/
def Obligations.ScratchpadStores : Prop :=
  ∀ (s s1 s2 : State) (a b : SSpec) (d : Disp) (w : WReg) (na : Bool) (sz : StSz) (x y : Word),
    readS s a 0 = .ok x s1 → readS s1 b 1 = .ok y s2 →
    let n := (x + dispWord d).toNat
    let len := StSz.bytes sz
    let bs := natToBytes len y.toNat
    let z := recordSize len
    n % len = 0 → badPolder s.pre.hdr n len = none → touchesBarrier s.pre.hdr n len = false → spadHold s2 n len = none →
    (diffSpad s.pre n len = .plain →
      let u := s2.upd fun k => k.drainFor n len
      let t := (u.upd fun k => k.spadWrite n bs).result 0 1 w
      (u.cur.failedPart n len = none →
        Runs (.st a d b w na true sz) s t ∧ Stored (s.cur.drainFor n len).spad t.cur.spad n len y ∧ SameMemory s t) ∧
      (u.cur.failedPart n len ≠ none → Raises (.st a d b w na true sz) s (slotTrap s .uncorrectable (spadInfo n)))) ∧
    (∀ r segs, diffSpad s.pre n len = .region r → oneElement r n len = true → s.pre.rewinding = false →
      reserveReel s2 s.issue.core z = .ok segs →
      RunsTo (.st a d b w na true sz) s fun t =>
        Stored s.cur.spad t.cur.spad n len y ∧ SameMemory s t ∧
        t.cur.reelPtr = (s.cur.setReelPtr (reelPtr s.cur + z)).reelPtr ∧
        ∃ ops, t.memq = s.memq ++ ops ∧ ops.map (·.dpa) = segs.map (·.addr) ∧ ∀ op ∈ ops, op.diff = true) ∧
    (∀ r old start, diffSpad s.pre n len = .region r → oneElement r n len = true → s.pre.rewinding = true →
      spadHold s2 (r.cell n) 4 = none → pendDiff s2 s.issue.core = false →
      s2.cur.failedLine (r.cell n) 4 = none → s2.cur.failedPart n len = none →
      popRecord s2 s2.cur (reelXlate s2 s.issue.core) (reelPtr s.cur) (spadInfo n) len recSt = .ok (old, start) →
      RunsTo (.st a d b w na true sz) s fun t =>
        let c := readClear s.cur.spad r (r.cell n)
        t.cur.spad = c.2.writeBytes n old ∧ t.cur.reelPtr = (s.cur.setReelPtr start).reelPtr ∧ SameMemory s t ∧
        (t.cur.bank s.cur.level).takes.head?.map (·.val) = some (BitVec.ofNat 64 c.1))

/-- R193, R241, R243, R353. ST to memory sends one write of its bytes to the home of the address, numbered on the
issuing die and with the core's write clock, and no byte of memory changes before it is performed but by the walk of a
translation that the TLBs do not hold; a write to an
element of a region carries its reel record, and in REWIND restores the element at once. At H a store to register
space is that register's write. -/
def Obligations.MemoryStores : Prop :=
  ∀ (s s1 s2 : State) (a b : SSpec) (d : Disp) (w : WReg) (na : Bool) (sz : StSz) (x y : Word),
    readS s a 0 = .ok x s1 → readS s1 b 1 = .ok y s2 →
    let addr := x + dispWord d
    let len := StSz.bytes sz
    let bs := natToBytes len y.toNat
    let c := s.issue.core
    addr.toNat % len = 0 →
    (∀ p, memTarget s2 .write addr len = .ok (.hbm p) → diffHbm s.pre p.diff addr.toNat len = .plain →
      RunsTo (.st a d b w na false sz) s fun t => SameMemory (s2.noteAccess c (.hbm p) addr.toNat) t ∧
        Sends s t (.store bs) p.addr fun op =>
          op.num = s.dieNum[dieOf c] + 1 ∧ op.clk = s.cur.wc ∧ op.win = none ∧ op.tape = none ∧ op.na = na) ∧
    (∀ p r segs, memTarget s2 .write addr len = .ok (.hbm p) → diffHbm s.pre p.diff addr.toNat len = .region r →
      oneElement r addr.toNat len = true → s.pre.rewinding = false →
      reserveReel s2 c (recordSize len) = .ok segs →
      RunsTo (.st a d b w na false sz) s fun t =>
        SameMemory ((s2.upd fun k => k.setReelPtr (reelPtr k + recordSize len)).noteAccess c (.hbm p) addr.toNat) t ∧
        (Sends s t (.store bs) p.addr fun op => op.tape = some ⟨addr, recSt, segs⟩ ∧ op.diff = true) ∧
        t.cur.reelPtr = (s.cur.setReelPtr (reelPtr s.cur + recordSize len)).reelPtr) ∧
    (∀ p r q old start, memTarget s2 .write addr len = .ok (.hbm p) → diffHbm s.pre p.diff addr.toNat len = .region r →
      oneElement r addr.toNat len = true → s.pre.rewinding = true →
      cellPhys s2 c s.pre.part s.pre.level (r.cell addr.toNat) = .ok q →
      diffQuiet s2 c (homeDie s2 s.pre.tag p.addr p.mtype) = true →
      let by_ : Req := ⟨s.pre.tag, s.pre.part, some (s.pre.launch, c), if na then .no else .any⟩
      reqWaits s2 by_ q.addr (q.mtype ≠ 0) .atomic = false → reqWaits s2 by_ p.addr (p.mtype ≠ 0) .part = false →
      popRecord s2 s2.cur (reelXlate s2 c) (reelPtr s.cur) addr len recSt = .ok (old, start) →
      sideFault s2 s.pre.tag q.addr (q.mtype ≠ 0) = none → sideFault s2 s.pre.tag p.addr (p.mtype ≠ 0) = none →
      let v := s2.clearCell { by_ with alloc := .any } r q
      let u := (v.2.applyLine p.addr).access by_ p.addr (p.mtype ≠ 0) .part
      RunsTo (.st a d b w na false sz) s fun t =>
        StoredFor u t s.pre.tag p.addr (p.mtype ≠ 0) old ∧
        t.cur.reelPtr = (u.cur.setReelPtr start).reelPtr ∧
        (t.cur.bank s.cur.level).takes.head?.map (·.val) = some (BitVec.ofNat 64 v.1)) ∧
    (∀ i p, memTarget s2 .write addr len = .ok (.window i p) → (diffLevel s.pre && (regionAt s.pre.hdr true addr.toNat len).isSome) = false →
      RunsTo (.st a d b w na false sz) s fun t => SameMemory (s2.noteAccess c (.window i p) addr.toNat) t ∧
        Sends s t (.store bs) p.addr fun op => op.win = some i) ∧
    (∀ (fn : Fin 17) off, memTarget s2 .write addr len = .ok (.reg fn.val off) →
      Runs (.st a d b w na false sz) s ((s2.post (.registerWrite fn off y) Input.reset).result 0 1 w))

/-- R160, R354. SPL writes 8 bytes of spill memory and nothing else; FIL reads them with latency 1, or raises UNCORRECTABLE
where a word of them has failed (R417); an offset beyond the declared bytes raises SPILL_RANGE. What SPL has written FIL reads. R40, R171, R205, R235, R359. FENCE completes
once the accesses it orders have been performed, holding until then: every kind waits for the core's reads, a full
fence for its writes too, as does a release fence at GANG or POD; every kind at GANG or POD waits for the fabric counts,
and raises FABRIC_TIMEOUT where one expired while it waited; one at NMEM or wider waits for the core's contributions to
adjoint cells, and applies the core's combining entries. A fence of the core's own scope waits for nothing. R161, R162, R360, R361. MQRD gives the scratchpad offset of the a-th waiting entry and acquires the
clocks of the entries up to it, or all ones where fewer wait; MQREL drops the first a entries and sends one credit to
each entry's sender, or raises MSGQ_EMPTY where fewer wait. The model's choices behind it: log entries 33, 40. -/
def Obligations.SpillFenceAndMessageQueueEffects : Prop :=
  ((∀ (s s1 : State) (a : SSpec) (w : WReg) (off : BitVec 11) (x : Word), readS s a 0 = .ok x s1 →
     let o := 8 * off.toNat
     (o + 8 ≤ s.pre.spillLimit →
       (s.pre.failedWord .spill o 8 = none →
         ∃ v, Loads s.pre.spill o 8 false v ∧ Runs (.fil w off) s (s.result v 1 w)) ∧
       (∀ n, s.pre.failedWord .spill o 8 = some n → Raises (.fil w off) s (slotTrap s .uncorrectable (spadInfo n))) ∧
       RunsTo (.spl a off) s fun t =>
         Stored s.cur.spill t.cur.spill o 8 x ∧ Loads t.cur.spill o 8 false x ∧ t.cur.failedWord .spill o 8 = none ∧
         ({ t.cur with spill := s.cur.spill, badWords := s.cur.badWords } : Core) = s.cur ∧ OnlyCores s t ∧
         OtherCores s t) ∧
     (s.pre.spillLimit < o + 8 →
       Raises (.spl a off) s (slotTrap s1 .spillRange 0) ∧ Raises (.fil w off) s (slotTrap s .spillRange 0))) ∧
   (∀ (s : State) (scope : BitVec 4) (kind : BitVec 2), kind ≠ 0 → scope.toNat < 9 →
     let c := s.issue.core
     let fab : Prop := 7 ≤ scope.toNat
     let late : Prop := fab ∧ s.cur.fabLate = some s.pre.pc
     let met : Prop := scope = 0 ∨ readsLanded s.cur = true ∧
       (kind = 3 ∨ fab ∧ kind = 2 → writesDone s c = true ∧ streamsDrained s.cur = true) ∧ (fab → s.cur.fabOut = []) ∧
       (5 ≤ scope.toNat → ∀ o ∈ s.memq, o.core = c → ∀ a32 anchor v, o.kind ≠ .accum a32 anchor v)
     (met → ¬ late →
       let t := if scope = 0 then s else s.upd Core.mergeAll
       Runs (.fence scope kind) s (if 5 ≤ scope.toNat then t.applyCore c else t)) ∧
     (¬ met → ¬ late → Holds (.fence scope kind) s .fence) ∧
     (late → Raises (.fence scope kind) s (slotTrap s .fabricTimeout 0)))) ∧
  (∀ (s s1 : State) (a : SSpec) (w : WReg) (x : Word), readS s a 0 = .ok x s1 →
     let k := s.pre
     let waiting := (k.mqTail - k.mqHead).toNat
     let entry := 64 * (k.mqBase.toNat / 64 % 2 ^ 15) + 64 * ((k.mqHead.toNat + x.toNat) % k.hdr.mqMax)
     (x.toNat < waiting → ∃ rc wc,
       Runs (.mqrd a w) s
         ((s1.upd fun k => { k with rc := rc, wc := wc }).result (BitVec.ofNat 64 entry) 1 w) ∧
       ∀ e ∈ s.cur.mqEntries.take (x.toNat + 1), Clk.le e.clk rc = true ∧ Clk.le e.clk wc = true) ∧
     (waiting ≤ x.toNat → Runs (.mqrd a w) s (s1.result (BitVec.allOnes 64) 1 w)) ∧
     (x.toNat ≤ waiting → RunsTo (.mqrel a) s fun t =>
       ({ t.cur with mqHead := s.cur.mqHead, mqEntries := s.cur.mqEntries } : Core) = s.cur ∧
       t.cur.mqHead = s.cur.mqHead + BitVec.ofNat 32 x.toNat ∧ t.cur.mqEntries = s.cur.mqEntries.drop x.toNat ∧
       SameMemory s t ∧ OtherCores s t ∧
       ((∀ e ∈ k.mqEntries.take x.toNat, (launchCore s s.cur.launch e.sender).isSome) →
         t.credRet.map (·.sender) = s.credRet.map (·.sender) ++ (k.mqEntries.take x.toNat).map (·.sender))) ∧
     (waiting < x.toNat → Raises (.mqrel a) s (slotTrap s1 .msgqEmpty 0)))

/-- R202, R355-R358. AMO and AMOCAS on the scratchpad act at once: the element becomes the operation's new value,
nothing else changes, and the old value returns with latency 4 unless NR. On memory they send one atomic to its home,
which waits for the core's earlier accesses where it releases, and the take waits for the old value. -/
def Obligations.AtomicsActOrAreSent : Prop :=
  ∀ (s s1 s2 s3 : State) (a b e : SSpec) (d : Disp) (w : WReg) (nr w32 : Bool) (op : AmoOp) (x y z : Word),
    readS s a 0 = .ok x s1 → readS s1 b 1 = .ok y s2 → readS s2 e 2 = .ok z s3 →
    let t := atomicOf x d
    let len := atomWidth w32
    let adr := BitVec.ofNat 64 t.addr
    t.scope < 9 → t.addr % len = 0 →
    (t.spad = true → badPolder s.pre.hdr t.addr len = none → diffSpad s.pre t.addr len = .plain →
      touchesBarrier s.pre.hdr t.addr len = false →
      let u (s : State) := s.upd fun k => k.drainFor t.addr len
      let old := (u s).cur.spad.readLE t.addr len
      (spadHold s2 t.addr len = none → (u s2).cur.failedLine t.addr len = none →
        let v := (u s2).upd fun k => k.spadWrite t.addr (natToBytes len (amoNew op (8 * len) old y.toNat))
        Runs (.amo a d b w nr w32 op) s (if nr then v else v.result (extend len w32 old) 4 w) ∧
        Stored (u s).cur.spad v.cur.spad t.addr len (BitVec.ofNat 64 (amoNew op (8 * len) old y.toNat))) ∧
      (spadHold s2 t.addr len = none → (u s2).cur.failedLine t.addr len ≠ none →
        Raises (.amo a d b w nr w32 op) s (slotTrap s .uncorrectable (spadInfo t.addr))) ∧
      (spadHold s3 t.addr len = none → (u s3).cur.failedLine t.addr len = none →
        let new := if old = z.toNat % 2 ^ (8 * len) then y.toNat % 2 ^ (8 * len) else old
        Runs (.amocas a d b w w32 e) s
          (((u s3).upd fun k => k.spadWrite t.addr (natToBytes len new)).result (extend len w32 old) 4 w))) ∧
    (∀ p, t.spad = false → (t.releases && decide (7 ≤ t.scope) && !fabricQuiet s.cur) = false →
      (memTarget s2 .atomic adr len = .ok (.hbm p) → diffHbm s.pre p.diff t.addr len = .plain →
        RunsTo (.amo a d b w nr w32 op) s fun q => SameMemory (s2.noteAccess s.issue.core (.hbm p) t.addr) q ∧
          Sends s q (.amo op w32 y (!nr) (t.comm && decide (t.order = 0) && nr && amoCombines op)) p.addr fun o =>
            (t.releases = true → o.after = (s.memq.filter fun m => m.core = s.issue.core).map (·.id)) ∧
            o.acq = (t.acquires && nr) ∧
            (nr = false → Awaits s q o.id (max 1 (4 * t.landq)) w)) ∧
      (memTarget s3 .atomic adr len = .ok (.hbm p) → diffHbm s.pre p.diff t.addr len = .plain →
        RunsTo (.amocas a d b w w32 e) s fun q => SameMemory (s3.noteAccess s.issue.core (.hbm p) t.addr) q ∧
          Sends s q (.cas w32 y z) p.addr fun o => Awaits s q o.id (max 1 (4 * t.landq)) w))

/-- R351, R354, R355. Step 2 and 3 of R351 for loads, stores and atomics: an address that is not a multiple of the
width raises MISALIGNED, and a scratchpad range with a byte in no declared polder POLDER_UNDECLARED, before anything
is read or written. R149, R334, R337, R340, R344. The checks of the M slot: a full queue raises MATQ_FULL; a tile that
is not configured, too many rows of the second, or types that do not pair, TILE_CONFIG, as does an undeclared MACC
source; an undeclared polder POLDER_UNDECLARED. An outer product holds while a transfer still writes a tile of its. -/
def Obligations.AccessAndMatrixIssueChecks : Prop :=
  (∀ (s s1 s2 : State) (a b : SSpec) (d : Disp) (w : WReg) (x y : Word) (na nr w32 : Bool) (lsz : LdSz) (ssz : StSz) (op : AmoOp),
    readS s a 0 = .ok x s1 → readS s1 b 1 = .ok y s2 →
    let n := (x + dispWord d).toNat
    let i := spadInfo (n % 2 ^ 63)
    let t := atomicOf x d
    let ai := if t.spad then spadInfo (t.addr % 2 ^ 63) else BitVec.ofNat 64 t.addr
    (n % (LdSz.bytes lsz) ≠ 0 → Raises (.ld a d w 0 lsz) s (slotTrap s1 .misaligned i)) ∧
    (∀ land, land ≠ 0 → n % (LdSz.bytes lsz) ≠ 0 →
      Raises (.ld a d w land lsz) s (slotTrap s1 .misaligned (x + dispWord d))) ∧
    (n % (StSz.bytes ssz) ≠ 0 → Raises (.st a d b w na true ssz) s (slotTrap s2 .misaligned i) ∧
      Raises (.st a d b w na false ssz) s (slotTrap s2 .misaligned (x + dispWord d))) ∧
    (t.scope < 9 → t.addr % atomWidth w32 ≠ 0 → Raises (.amo a d b w nr w32 op) s (slotTrap s2 .misaligned ai)) ∧
    (∀ k, n % (LdSz.bytes lsz) = 0 → badPolder s.pre.hdr n (LdSz.bytes lsz) = some k →
      Raises (.ld a d w 0 lsz) s (slotTrap s1 .polderUndeclared (spadInfo (k % 2 ^ 63)))) ∧
    (∀ k, n % (StSz.bytes ssz) = 0 → badPolder s.pre.hdr n (StSz.bytes ssz) = some k →
      Raises (.st a d b w na true ssz) s (slotTrap s2 .polderUndeclared (spadInfo (k % 2 ^ 63))))) ∧
  (∀ (s : State) (z y a b : Fin 8) (k : BitVec 8) (neg h : Bool) (p : Fin 32),
    let ta := s.pre.tiles[a]
    let tb := s.pre.tiles[b]
    let free : Prop := tileLoading s a = false ∧ tileLoading s b = false
    (min 4 s.pre.hdr.moqMax ≤ s.cur.mops.length →
      Raises (.mzero z) s (slotTrap s .matqFull 0) ∧
      (s.pre.hdr.accs.getLsbD y.val = true → Raises (.macc z y neg) s (slotTrap s .matqFull 0))) ∧
    (free → tcfgRows ta.cfg = 0 ∨ tcfgRows tb.cfg = 0 ∨ 64 < tcfgRows tb.cfg ∨ pairOk ta.ty tb.ty = false →
      Raises (.mop z a b k neg) s (slotTrap s .tileConfig 0) ∧ Raises (.mr1z z a b k neg) s (slotTrap s .tileConfig 0)) ∧
    (¬ free → Holds (.mop z a b k neg) s .lock ∧ Holds (.mopz z a b k neg) s .lock) ∧
    (s.pre.hdr.accs.getLsbD y.val = false → Raises (.macc z y neg) s (slotTrap s .tileConfig 0)) ∧
    (s.pre.hdr.polders.getLsbD p.val = false →
      Raises (.msave z h p) s (slotTrap s .polderUndeclared (spadInfo (65536 * p.val + 32768 * h.toNat))) ∧
      Raises (.mload z h p) s (slotTrap s .polderUndeclared (spadInfo (65536 * p.val + 32768 * h.toNat)))))

/-! ### Synchronisation, registers, system -/

/-- R149, R362. The tag instructions, over the tags that a names below the header's TAGS. TWAIT holds while any is
busy, then retires the done ones and gives the mask of those that failed; TWANY goes on once one is done or none is
busy and gives the mask of those done; TFFR retires the lowest done one and gives its number and status, or 64; TCLR
frees the done ones and lets the busy ones be free at completion. A retired tag's copy-queue entry is free. -/
def Obligations.TagInstructionsRetireTags : Prop :=
  ∀ (s s1 : State) (a : SSpec) (w : WReg) (x : Word), readS s a 0 = .ok x s1 →
    let named (i : Fin 64) : Bool := x.getLsbD i.val && decide (i.val < s.pre.hdr.tags)
    let st (i : Fin 64) : Option (BitVec 8) := doneStatus s.pre.tags[i]
    let busy : Prop := ∃ i, named i = true ∧ isBusy s.pre.tags[i] = true
    let done : Prop := ∃ i, named i = true ∧ (st i).isSome = true
    let retired (p : Fin 64 → Bool) (t : State) : Prop :=
      (∀ i : Fin 64, t.cur.tags[i] = if p i then .free else s.cur.tags[i]) ∧
      t.cur.copyq = s.cur.copyq.filter fun i => !p i
    let gives (t : State) (m : Word) : Prop := (t.cur.bank s.cur.level).takes.head?.map (·.val) = some m
    let ready (i : Fin 64) : Bool := named i && (st i).isSome
    (busy → Holds (.twait a w) s (.tags x)) ∧
    (¬ busy → RunsTo (.twait a w) s fun t => retired ready t ∧ SameMemory s t ∧
      ∃ m, gives t m ∧ ∀ i : Fin 64, m.getLsbD i.val = (ready i && decide (st i ≠ some 0))) ∧
    (busy → ¬ done → Holds (.twany a w) s (.tags x)) ∧
    (done ∨ ¬ busy → RunsTo (.twany a w) s fun t => retired ready t ∧ SameMemory s t ∧
      ∃ m, gives t m ∧ ∀ i : Fin 64, m.getLsbD i.val = ready i) ∧
    (¬ done → Runs (.tffr a w) s (s1.result 64 1 w)) ∧
    (∀ i v, named i = true → st i = some v → (∀ j, j.val < i.val → ready j = false) →
      RunsTo (.tffr a w) s fun t => retired (· == i) t ∧ gives t (BitVec.ofNat 64 (i.val + 256 * v.toNat)) ∧ SameMemory s t) ∧
    (RunsTo (.tclr a) s fun t => SameMemory s t ∧ OnlyCores s t ∧
      t.cur.copyq = (s.cur.copyq.filter fun i => !ready i) ∧
      ∀ i : Fin 64, t.cur.tags[i] =
        if named i then (match s.pre.tags[i] with | .free => s.cur.tags[i] | .busy _ => .busy true | .done _ => .free)
        else s.cur.tags[i])

/-- R363, R365. The barrier instructions: a reference names a launch core and one of its barriers. BINIT, BARR and
BINV send their operation to the owner, BARR as a numbered write; BTEST sends a test and awaits its word; BWAIT holds
until its word has come and then gives it. A reference beyond the barriers raises BARRIER_RANGE, one to no core of the
launch MSG_TARGET. -/
def Obligations.BarrierInstructionsSendToOwner : Prop :=
  ∀ (s s1 s2 : State) (a : SSpec) (b : SOpnd) (w : WReg) (x y : Word),
    readS s a 0 = .ok x s1 → readSO s1 b 1 = .ok y s2 →
    let index := x.toNat % 2 ^ 16
    let c := s.issue.core
    (∀ off o, barrierOff s.pre.hdr index = some off → x.toNat < 2 ^ 24 →
      launchCore s s.pre.launch (x.toNat / 2 ^ 16 % 2 ^ 8) = some o → regionAt s.pre.hdr false off 64 = none →
      (y ≠ 0 → RunsTo (.binit a b) s fun t => SameMemory s t ∧
        Sends s t (.bar o index (.init y)) 0 fun op => op.due = s.cycle + barLatency c o) ∧
      (RunsTo (.barr a) s fun t => SameMemory s t ∧
        Sends s t (.bar o index .unit) 0 fun op =>
          op.due = s.cycle + barLatency c o ∧ op.num = s.dieNum[dieOf c] + 1 ∧ op.clk = s.cur.wc) ∧
      (RunsTo (.binv a) s fun t => SameMemory s t ∧
        Sends s t (.bar o index .inv) 0 fun op => op.due = s.cycle + barLatency c o) ∧
      (RunsTo (.btest a b w) s fun t => SameMemory s t ∧
        Sends s t (.bar o index (.test (y.setWidth 32) 0)) 0 fun op =>
          op.due = s.cycle + barLatency c o ∧ Awaits s t op.id (btestLatency c o) w) ∧
      (∀ v, s.pre.answer = some v →
        Runs (.bwait a b w) s ((s2.upd fun k => { k with answer := none }).result v 1 w)) ∧
      (s.pre.answer = none → Holds (.bwait a b w) s (.barrier x (y.setWidth 32)))) ∧
    (barrierOff s.pre.hdr index = none ∨ 2 ^ 24 ≤ x.toNat →
      Raises (.barr a) s (slotTrap s1 .barrierRange 0) ∧ Raises (.binv a) s (slotTrap s1 .barrierRange 0) ∧
      Raises (.binit a b) s (slotTrap s2 .barrierRange 0) ∧ Raises (.btest a b w) s (slotTrap s2 .barrierRange 0) ∧
      Raises (.bwait a b w) s (slotTrap s2 .barrierRange 0)) ∧
    (∀ off, barrierOff s.pre.hdr index = some off → x.toNat < 2 ^ 24 →
      launchCore s s.pre.launch (x.toNat / 2 ^ 16 % 2 ^ 8) = none → Raises (.barr a) s (slotTrap s1 .msgTarget 0))

/-- R299-R302. CSRR gives the value of the CSR that its number names, with latency 1. TRAP_CAUSE, TRAP_PC and
TRAP_INFO are those of the level in force and are not for U; SSP is for H alone; otherwise CSR_ACCESS. -/
def Obligations.CsrReadsGiveTheRegister : Prop :=
  ∀ (s : State) (w : WReg),
    let k := s.pre
    let c := s.issue.core
    let n (v : Nat) : Word := BitVec.ofNat 64 v
    let gives (i : BitVec 12) (v : Word) : Prop := Runs (.csrr w i) s (s.result v 1 w)
    let denied (i : BitVec 12) : Prop := Raises (.csrr w i) s (slotTrap s .csrAccess 0)
    gives 0x000 (n c.val) ∧ gives 0x001 (n (c.val / 4)) ∧ gives 0x002 (n (c.val / 64)) ∧
    gives 0x003 (k.pkgId.setWidth 64) ∧ gives 0x004 (k.gang.setWidth 64) ∧ gives 0x005 (k.rank.setWidth 64) ∧
    gives 0x006 (k.gsize.setWidth 64) ∧ gives 0x008 k.icyc ∧ gives 0x009 (n s.cycle) ∧ gives 0x00A k.holdCyc ∧
    (∃ v, gives 0x010 v ∧ ∀ i : Fin 64, v.getLsbD i.val = (doneStatus k.tags[i]).isSome) ∧
    (∀ i : Fin 8, gives (0x020 + BitVec.ofNat 12 i.val) k.tiles[i].cfg) ∧
    gives 0x028 k.fmte ∧ gives 0x029 k.frm ∧ gives 0x02A k.srseed ∧ gives 0x02B k.shadowchk ∧
    gives 0x030 (s.cur.dmode &&& 3 ||| (if pendDiff s c || pendDiffCmd s c then 4 else 0)) ∧
    gives 0x031 k.reelBase ∧ gives 0x032 k.reelLimit ∧ gives 0x033 k.reelPtr ∧
    (k.level = .s → gives 0x040 k.trapS.cause ∧ gives 0x041 k.trapS.pc ∧ gives 0x042 k.trapS.info) ∧
    (k.level = .h → gives 0x040 k.trapH.cause ∧ gives 0x041 k.trapH.pc ∧ gives 0x042 k.trapH.info) ∧
    (k.level = .u → denied 0x040 ∧ denied 0x041 ∧ denied 0x042) ∧
    gives 0x043 k.trapVec ∧ gives 0x050 k.mqBase ∧ gives 0x051 (n k.hdr.mqMax) ∧ gives 0x052 (k.mqHead.setWidth 64) ∧
    gives 0x053 (k.mqTail.setWidth 64) ∧ gives 0x054 (n (k.hdr.mqMax - (k.mqTail - k.mqHead).toNat)) ∧
    gives 0x060 k.liveBase ∧ (k.level = .h → gives 0x070 (n k.ssp)) ∧ (k.level ≠ .h → denied 0x070)

/-- R299, R300. CSRW of a CSR that the table marks ignored has no effect, whatever the level; TRAP_CAUSE is ignored in
a handler. R146, R147, R161, R226, R236, R239, R247, R251, R254, R300, R302. CSRW writes its register's writable bits
and nothing else; a write that the level in force may not make, or a value that the register refuses, raises
CSR_ACCESS and changes nothing. -/
def Obligations.CsrWritesSetWritableBits : Prop :=
  (∀ (s s1 : State) (a : SSpec) (x : Word), readS s a 0 = .ok x s1 →
    (∀ i ∈ [0x000, 0x001, 0x002, 0x003, 0x004, 0x005, 0x006, 0x008, 0x009, 0x00A, 0x010, 0x028, 0x051, 0x052, 0x053, 0x054],
      Runs (.csrw a i) s s1) ∧
    (s.pre.level ≠ .u → Runs (.csrw a 0x040) s s1)) ∧
  (∀ (s s1 : State) (a : SSpec) (x : Word), readS s a 0 = .ok x s1 →
    let k := s.pre
    let sets (i : BitVec 12) (f : Core → Core) : Prop := Runs (.csrw a i) s (s1.upd f)
    let denied (i : BitVec 12) : Prop := Raises (.csrw a i) s (slotTrap s1 .csrAccess 0)
    let inS := k.level ≠ .u
    (x.toNat % 8 < 5 → sets 0x029 fun k => { k with frm := x &&& 7 }) ∧ (5 ≤ x.toNat % 8 → denied 0x029) ∧
    sets 0x02A (fun k => { k with srseed := x }) ∧ sets 0x02B (fun k => { k with shadowchk := x &&& 1 }) ∧
    sets 0x030 (fun k => { k with dmode := if x.getLsbD 1 then k.dmode &&& ~~~2 else k.dmode }) ∧
    (inS → sets 0x031 (fun k => { k with reelBase := x &&& 0xFFFFFFFFFFC0 }) ∧
      sets 0x032 (fun k => { k with reelLimit := x &&& 0xFFFFFFFFFFC0 }) ∧
      sets 0x033 (fun k => { k with reelPtr := x &&& 0xFFFFFFFFFFF0 })) ∧
    (¬ inS → denied 0x031 ∧ denied 0x032 ∧ denied 0x033 ∧ denied 0x040 ∧ denied 0x041 ∧ denied 0x042) ∧
    (k.level = .s → sets 0x041 (fun k => { k with trapS := { k.trapS with pc := x &&& 0xFFFFFFFFFC } }) ∧
      sets 0x042 (fun k => { k with trapS := { k.trapS with info := x } })) ∧
    (k.level = .h → sets 0x041 (fun k => { k with trapH := { k.trapH with pc := x &&& 0xFFFFFFFFFC } }) ∧
      sets 0x042 (fun k => { k with trapH := { k.trapH with info := x } })) ∧
    (k.level = .h → sets 0x043 fun k => { k with trapVec := x &&& 0x3FFFFFFFFFFFFFFF }) ∧
    (k.level = .s ∨ k.level = .u ∧ k.trapVec.toNat % 2 ^ 24 = 0 →
      sets 0x043 fun k => { k with trapVec := (k.trapVec &&& 0x3FFFFFFFFF000000) ||| (x &&& 0xFFFFFF) }) ∧
    (k.level = .u → k.trapVec.toNat % 2 ^ 24 ≠ 0 → denied 0x043) ∧
    (k.level = .h → sets 0x060 fun k => { k with liveBase := x &&& 0xFFFFFFFF }) ∧ (k.level ≠ .h → denied 0x060) ∧
    (k.level = .h → x.toNat % 64 ≤ 32 → sets 0x070 fun k => { k with ssp := x.toNat % 64 }) ∧
    (k.level ≠ .h ∨ 32 < x.toNat % 64 → denied 0x070) ∧
    (k.mqTail = k.mqHead → 64 * (x.toNat / 64 % 2 ^ 15) + 64 * k.hdr.mqMax ≤ 2 ^ 21 →
      badPolder k.hdr (64 * (x.toNat / 64 % 2 ^ 15)) (64 * k.hdr.mqMax) = none →
      regionAt k.hdr false (64 * (x.toNat / 64 % 2 ^ 15)) (64 * k.hdr.mqMax) = none →
      sets 0x050 fun k => { k with mqBase := x &&& 0x80000000001FFFC0 }) ∧
    (k.mqTail ≠ k.mqHead → denied 0x050) ∧
    ∀ i : Fin 8, tileBusy s s.issue.core i = false →
      (x.toNat % 256 = 0 → sets (0x020 + BitVec.ofNat 12 i.val) fun k =>
        { k.renewWords (.tile i) 0 16896 with tiles := k.tiles.set i Tile.reset }) ∧
      (tcfgOk x = true → sets (0x020 + BitVec.ofNat 12 i.val) fun k =>
        { k with tiles := k.tiles.set i { (k.tiles[i]) with cfg := x &&& 0xFFFFF } }) ∧
      (x.toNat % 256 ≠ 0 → tcfgOk x = false →
        Raises (.csrw a (0x020 + BitVec.ofNat 12 i.val)) s (slotTrap s1 .tileConfig 0)))

/-- R303-R305. SBIND binds its stream, at the end of its bundle, to the 64-byte block at its spill offset, with BASE moved
by a and no vector buffered, differentiable where its first vector touches a region; it holds first while a bound
write stream has vectors to drain. SUNBIND releases one, holding likewise, and has no effect on an unbound stream.
R306. LNCH queues a launch of the record at its spill offset in the issuing core's partition, in the LNCH source at
the record's level, and gives 0; a refused record queues nothing and gives its reason. Both results have latency 16. -/
def Obligations.StreamBindingAndLnchEffects : Prop :=
  (∀ (s s1 : State) (a : SSpec) (x : Word) (off : BitVec 8) (i : Fin 8), readS s a 0 = .ok x s1 →
     let b := s.pre.spill.readBytes (64 * off.toNat) 64
     let old := s.pre.streams[i]
     let draining : Prop := old.bound = true ∧ old.wr = true ∧ old.buf ≠ []
     let bindTo (wr : Bool) (t : State) : Prop := ∃ st : Stream,
       t.issue.binds = s.issue.binds ++ [(i, st)] ∧ st.bound = true ∧ st.wr = wr ∧ st.block = b ∧ st.add = x ∧
       st.pos = 0 ∧ st.moved = 0 ∧ st.buf = [] ∧ st.diff = firstTouches s.pre st ∧ st.next = s.cycle + 3 ∧
       t.cores = s.cores ∧ SameMemory s t
     (64 * off.toNat + 64 ≤ s.pre.spillLimit → s.pre.failedWord .spill (64 * off.toNat) 64 = none →
       blockCause b x = none → ¬ draining →
       RunsTo (.sbindRd a off i) s (bindTo false) ∧ RunsTo (.sbindWr a off i) s (bindTo true)) ∧
     (64 * off.toNat + 64 ≤ s.pre.spillLimit → s.pre.failedWord .spill (64 * off.toNat) 64 = none →
       blockCause b x = none → draining →
       Holds (.sbindRd a off i) s (.stream i) ∧ Holds (.sbindWr a off i) s (.stream i)) ∧
     (s.pre.spillLimit < 64 * off.toNat + 64 →
       Raises (.sbindRd a off i) s (slotTrap s1 .spillRange 0) ∧ Raises (.sbindWr a off i) s (slotTrap s1 .spillRange 0)) ∧
     (old.bound = false → Runs (.sunbind i) s s) ∧
     (draining → Holds (.sunbind i) s (.stream i)) ∧
     (old.bound = true → ¬ draining → RunsTo (.sunbind i) s fun t =>
       t.issue.binds = s.issue.binds ++ [(i, Stream.reset)] ∧ t.cores = s.cores ∧ SameMemory s t)) ∧
  (∀ (s s1 : State) (a : SSpec) (w : WReg) (x : Word), readS s a 0 = .ok x s1 →
     let r := s.pre.spill.readBytes x.toNat 64
     let part := s.pre.part
     let waiting := (s.launches.filter fun l => l.part = part && l.state = .queued && l.source = .lnch).length
     x.toNat % 64 = 0 → x.toNat + 64 ≤ s.pre.spillLimit →
     let sound : Prop := s.pre.failedWord .spill x.toNat 64 = none
     (waiting < 16 → sound → recordReason s part 10 r = none → RunsTo (.lnch a w) s fun t =>
       (∃ l, t.launches = s.launches ++ [l] ∧ l.part = part ∧ l.state = .queued ∧ l.source = .lnch ∧
         l.handle = fieldLE r 0 2 ∧ l.base = fieldLE r 2 1 ∧ l.nquads = fieldLE r 3 1 ∧ l.args = (r.drop 8).take (fieldLE r 4 1) ∧
         l.gang = 0 ∧ l.after = (s.memq.filter fun o => o.core = s.issue.core && o.num ≠ 0 && o.result.isNone).map (·.id)) ∧
       t.cur = (s.result 0 16 w).cur ∧ SameMemory s t) ∧
     (waiting < 16 → sound → ∀ c, recordReason s part 10 r = some c → Runs (.lnch a w) s (s1.result (BitVec.ofNat 64 c) 16 w)) ∧
     (16 ≤ waiting → Raises (.lnch a w) s (slotTrap s1 .lnchFull 0)))

/-- R236, R237, R307. DMODE changes MODE and leaves ASAT: once no differentiable access of the core or its engines is
under way and a full fence at CORE would go on, and no differentiable stream is bound; it holds until then. R308.
ADJRD and ADJCLR give the value of the adjoint cell of the element that their address names, as FP32 bits with latency
4, once the core's differentiable accesses are performed; ADJCLR then clears its four bytes, and no other byte of memory
reads differently. The model's choices behind it: log entry 33. -/
def Obligations.DifferentiationEffects : Prop :=
  (∀ s : State,
    let c := s.issue.core
    let quiet : Prop := pendDiff s c = false ∧ pendDiffCmd s c = false ∧
      readsLanded s.cur = true ∧ writesDone s c = true ∧ streamsDrained s.cur = true
    (∀ i : Fin 8, (s.pre.streams[i].bound && s.pre.streams[i].diff) = false) →
    (quiet →
      RunsTo .dmodeFwd s (fun t => t.cur.dmode = s.cur.dmode &&& 2 ∧ t.cur.level = s.cur.level ∧ t.cur.spad = s.cur.spad) ∧
      RunsTo .dmodeRew s (fun t => t.cur.dmode = s.cur.dmode &&& 2 ||| 1 ∧ t.cur.level = s.cur.level ∧
        t.cur.spad = s.cur.spad)) ∧
    (¬ quiet → Holds .dmodeFwd s .fence ∧ Holds .dmodeRew s .fence)) ∧
  (∀ (s s1 s2 : State) (a : SSpec) (b : SOpnd) (w : WReg) (sp : Bool) (x y : Word),
    readS s a 0 = .ok x s1 → readSO s1 b 1 = .ok y s2 → pendDiff s s.issue.core = false →
    pendDiffCmd s s.issue.core = false →
    let value (r : DiffRegion) (n : Nat) : Nat := if r.a32 then fromA32 (signed 32 n) r.anchor .rne else n
    let cell (m : Mem) (r : DiffRegion) (p : Nat) : Nat := value r (m.readLE p 4)
    (∀ r off, adjTarget s2 sp false (x + y) = .ok (.spad r off) → spadHold s2 (r.cell off) 4 = none →
      s2.cur.failedLine (r.cell off) 4 = none →
      Runs (.adjrd a b w sp) s (s2.result (BitVec.ofNat 64 (cell s.cur.spad r (r.cell off))) 4 w)) ∧
    (∀ r off, adjTarget s2 sp true (x + y) = .ok (.spad r off) → spadHold s2 (r.cell off) 4 = none →
      s2.cur.failedLine (r.cell off) 4 = none →
      RunsTo (.adjclr a b w sp) s fun t =>
        (t.cur.bank s.cur.level).takes.head?.map (·.val) = some (BitVec.ofNat 64 (cell s.cur.spad r (r.cell off))) ∧
        Stored s.cur.spad t.cur.spad (r.cell off) 4 0 ∧ SameMemory s t ∧ OtherCores s t) ∧
    (∀ r p (clear : Bool), adjTarget s2 sp clear (x + y) = .ok (.hbm r p) →
      diffQuiet s2 s.issue.core (homeDie s2 s.pre.part p.addr p.mtype) = true →
      let side : Bool := p.mtype ≠ 0
      let q : Req := ⟨s.pre.tag, s.pre.part, some (s.pre.launch, s.issue.core), .any⟩
      let use : LineUse := if clear then .atomic else .read
      reqWaits s2 q p.addr side use = false → sideFault s2 q.tag p.addr side = none →
      let u := (s2.applyLine p.addr).access q p.addr side use
      let v := value r (u.lookLE q.tag p.addr 4 side)
      if clear then ∃ t, StoredFor u t q.tag p.addr side [0, 0, 0, 0] ∧ t.cores = u.cores ∧
        Runs (.adjclr a b w sp) s (t.result (BitVec.ofNat 64 v) 4 w)
      else Runs (.adjrd a b w sp) s (u.result (BitVec.ofNat 64 v) 4 w)))

/-- R246, R273. TLBINV, SCRUB, VOTE and WFI raise PRIVILEGED in U and S, before they read an operand, and change nothing
else. R309-R312. The hypervisor's instructions in H. TLBINV of no partition gives 1, another holds until its answer,
which it gives; SCRUB of no quad or a degraded one gives 2, of a used one 1, and else holds until its answer; VOTE
gives the vote state, and resolves nothing where no vote is stalled; WFI holds until an event and gives its events.
The model's choices behind it: log entry 25. -/
def Obligations.HypervisorInstructionsAreAtHOnly : Prop :=
  (∀ (s : State) (a : SSpec) (b : SOpnd) (w : WReg), s.pre.level ≠ .h →
    ∀ i ∈ [Instr.tlbinvPart a w, .tlbinvIpa a b w, .tlbinvAll w, .scrub a w, .voteRd w, .voteAbort w, .voteCommit w, .wfi a w],
      Raises i s (slotTrap s .privileged 0)) ∧
  (∀ (s s1 s2 : State) (a : SSpec) (b : SOpnd) (w : WReg) (x y : Word), s.pre.level = .h →
    readS s a 0 = .ok x s1 → readSO s1 b 1 = .ok y s2 →
    let noPart : Prop := x = 0 ∨ 16 < x.toNat ∨ (partAt s x.toNat).exists_ = false
    let answered (s : State) (v : Word) : State := (s.upd fun k => { k with answer := none }).result v 1 w
    (∀ v, s.pre.answer = some v →
      Runs (.tlbinvPart a w) s (answered s1 v) ∧ Runs (.tlbinvIpa a b w) s (answered s2 v) ∧
      Runs (.tlbinvAll w) s (answered s v) ∧ Runs (.scrub a w) s (answered s1 v) ∧
      (v ≠ 0 → (∀ n, s.pre.wait ≠ some (.wfi (some n))) → Runs (.wfi a w) s (answered s1 v))) ∧
    (s.pre.answer = none →
      (noPart → Runs (.tlbinvPart a w) s (s1.result 1 1 w) ∧ Runs (.tlbinvIpa a b w) s (s2.result 1 1 w)) ∧
      (¬ noPart → Holds (.tlbinvPart a w) s (.tlbinv 0 x 0) ∧ Holds (.tlbinvIpa a b w) s (.tlbinv 1 x y)) ∧
      Holds (.tlbinvAll w) s (.tlbinv 2 0 0) ∧
      (63 < x.toNat ∨ s.degQuads.getLsbD x.toNat = true → Runs (.scrub a w) s (s1.result 2 1 w)) ∧
      (x.toNat ≤ 63 → s.degQuads.getLsbD x.toNat = false →
        (busyQuad s x.toNat = true ∨ inShadow s x.toNat = true ∨ s.issue.core.val / 4 = x.toNat →
          Runs (.scrub a w) s (s1.result 1 1 w)) ∧
        (busyQuad s x.toNat = false → inShadow s x.toNat = false → s.issue.core.val / 4 ≠ x.toNat →
          Holds (.scrub a w) s (.scrub x.toNat))) ∧
      ((∀ l, s.pre.wait ≠ some (.wfi l)) → Holds (.wfi a w) s (.wfi (if x = 0 then none else some x.toNat))) ∧
      (∀ n, s.pre.wait = some (.wfi (some n)) → n ≤ 1 → Runs (.wfi a w) s (answered s1 1))) ∧
    Runs (.voteRd w) s (s.result (voteWord s) 1 w) ∧
    (s.votes = [] → voteWord s = 0) ∧
    (∃ t, Runs (.voteAbort w) s (t.result (voteWord s) 1 w) ∧ ((∀ v ∈ s.votes, v.stalled = false) → t = s)) ∧
    (∃ t, Runs (.voteCommit w) s (t.result (voteWord s) 1 w) ∧ ((∀ v ∈ s.votes, v.stalled = false) → t = s)))

/-! ### The vector slots -/

/-- R317, R319. The integer vector instructions, element by element: the exact result wrapped to the type for P = 0
and saturated to its range otherwise; VMULH gives the high half. Elements are active by the mask before the bundle. An
active element whose code stands for no integer raises INT_CODE. R127, R318. VADD and VSUB on A32 lanes: the exact
sum, kept within plus and minus 2^31 - 1; both granules of a block of 16 lanes carry the largest request of its lanes
and operands. -/
def Obligations.VectorIntegerResults : Prop :=
  (∀ (s s1 s2 : State) (a : VSpec) (b : VOpnd) (t : Ty) (p : BitVec 2) (x y : Vec), Ty.isFloat t = false → t ≠ .a32 →
    readV s a 0 t = .ok x s1 → readVO s1 b t = .ok y s2 →
    let act (n : Nat) : Prop := n < elemCount (Ty.width t) ∧ activeAt s.pre.curMask (Ty.width t) n = true
    let lo := (intRange t s.pre.fmte.toNat).1
    let hi := (intRange t s.pre.fmte.toNat).2
    let code (q : BitVec 2) (z : Int) : Nat := ((if q = 0 then z else max lo (min hi z)) % 2 ^ Ty.width t).toNat
    (∀ u v : Nat → Int, (∀ n, act n → elemInt t s.pre.fmte x n = .ok (u n)) → (∀ n, act n → elemInt t s.pre.fmte y n = .ok (v n)) →
      VRuns (.vadd a b t p) s s2 t 3 (fun n => code p (u n + v n)) (granScale x) ∧
      VRuns (.vsub a b t p) s s2 t 3 (fun n => code p (u n - v n)) (granScale x) ∧
      VRuns (.vmul a b t p) s s2 t 4 (fun n => code p (u n * v n)) (granScale x) ∧
      VRuns (.vmulh a b t) s s2 t 4 (fun n => code 0 (u n * v n / 2 ^ Ty.width t)) (granScale x) ∧
      VRuns (.vmin a b t) s s2 t 3 (fun n => code 0 (min (u n) (v n))) (granScale x) ∧
      VRuns (.vmax a b t) s s2 t 3 (fun n => code 0 (max (u n) (v n))) (granScale x) ∧
      VRuns (.vabs a t p) s s1 t 3 (fun n => code p (u n).natAbs) (granScale x) ∧
      VRuns (.vneg a t p) s s1 t 3 (fun n => code p (-u n)) (granScale x)) ∧
    ((∃ n, act n ∧ ∃ c, elemInt t s.pre.fmte x n = .error c) →
      Raises (.vadd a b t p) s (slotTrap s2 .intCode 0) ∧ Raises (.vmul a b t p) s (slotTrap s2 .intCode 0) ∧
      Raises (.vneg a t p) s (slotTrap s1 .intCode 0))) ∧
  (∀ (s s1 s2 : State) (a : VSpec) (b : VOpnd) (p : BitVec 2) (x y : Vec),
    readV s a 0 .a32 = .ok x s1 → readVO s1 b .a32 = .ok y s2 →
    let lane (v : Vec) (n : Nat) : Int := (BitVec.ofNat 32 (elem 32 v n)).toInt
    let keep (z : Int) : Nat := (max (-(2 ^ 31 - 1)) (min (2 ^ 31 - 1) z) % 2 ^ 32).toNat
    let exact (sub : Bool) (n : Nat) : Int := if sub then lane x n - lane y n else lane x n + lane y n
    let wants (sub : Bool) (n : Nat) : Nat :=
      if 2 ^ 32 ≤ (exact sub n).natAbs then 2 else if 2 ^ 31 ≤ (exact sub n).natAbs then 1 else 0
    let request (sub : Bool) (k : Nat) : Nat :=
      (((List.range 16).map fun j =>
          if activeAt s.pre.curMask 32 (16 * k + j) then wants sub (16 * k + j) else 0) ++
        [granScale x (2 * k), granScale x (2 * k + 1), granScale y (2 * k), granScale y (2 * k + 1)]).foldl max 0
    VRuns (.vadd a b .a32 p) s s2 .a32 3 (fun n => keep (exact false n)) (fun g => request false (g / 2)) ∧
    VRuns (.vsub a b .a32 p) s s2 .a32 3 (fun n => keep (exact true n)) (fun g => request true (g / 2)))

/-- R213, R214, R226, R316. The floating-point vector instructions: each active element is the exact value of the
operation on the values of its operands' codes, rounded once into the type by the mode that P names for it. A fused
multiply-add rounds once; the sign of an exact zero sum is negative only towards minus infinity. R216, R232, R316.
VMIN, VMAX, VABS, VNEG and VCPS of a floating-point type act on the codes and round nothing: a NaN gives the type's
canonical NaN, -0 stands below +0, and a sign is set, turned or taken from b. The model's choices behind it: log entry
36. -/
def Obligations.VectorFloatResults : Prop :=
  (∀ (s s1 s2 s3 : State) (a c : VSpec) (b : VOpnd) (t : Ty) (p : BitVec 2) (x y z : Vec), Ty.isFloat t = true →
    readV s a 0 t = .ok x s1 → readVO s1 b t = .ok y s2 → readV s2 c 2 t = .ok z s3 →
    let val (v : Vec) (n : Nat) : Val := (Ty.fmt t).decode (elem (Ty.width t) v n)
    let mode (n : Nat) : RMode := pMode s p n
    let rnd (n : Nat) (v : Val) : Nat := (Ty.fmt t).round (mode n) v
    let sum (n : Nat) (u v : Val) : Nat := rnd n (Val.add (decide (mode n = .rdn)) u v)
    let one : Val := .fin false 1 1 0
    VRuns (.vadd a b t p) s s2 t 3 (fun n => sum n (val x n) (val y n)) (granScale x) ∧
    VRuns (.vsub a b t p) s s2 t 3 (fun n => sum n (val x n) (val y n).neg) (granScale x) ∧
    VRuns (.vmul a b t p) s s2 t 4 (fun n => rnd n ((val x n).mul (val y n))) (granScale x) ∧
    VRuns (.vfma a b c t p) s s3 t 5 (fun n => sum n ((val x n).mul (val y n)) (val z n)) (granScale x) ∧
    VRuns (.vfms a b c t p) s s3 t 5 (fun n => sum n ((val x n).mul (val y n)) (val z n).neg) (granScale x) ∧
    VRuns (.vfnma a b c t p) s s3 t 5 (fun n => sum n ((val x n).mul (val y n)).neg (val z n)) (granScale x) ∧
    VRuns (.vdiv a b t p) s s2 t 12 (fun n => rnd n ((val x n).div (val y n))) (granScale x) ∧
    VRuns (.vsqrt a t p) s s1 t 12 (fun n => rnd n (vsqrtVal (val x n))) (granScale x) ∧
    VRuns (.vrsq a t p) s s1 t 12 (fun n => rnd n (vrsqVal (val x n))) (granScale x) ∧
    VRuns (.vrcp a t p) s s1 t 12 (fun n => rnd n (one.div (val x n))) (granScale x) ∧
    VRuns (.vexp2 a t p) s s1 t 8 (fun n => rnd n (vexp2Val (val x n))) (granScale x) ∧
    VRuns (.vlog2 a t p) s s1 t 8 (fun n => rnd n (vlog2Val (val x n))) (granScale x)) ∧
  (∀ (s s1 s2 : State) (a : VSpec) (b : VOpnd) (t : Ty) (p : BitVec 2) (x y : Vec), Ty.isFloat t = true →
    readV s a 0 t = .ok x s1 → readVO s1 b t = .ok y s2 →
    let w := Ty.width t
    let nan (v : Vec) (n : Nat) : Bool := ((Ty.fmt t).decode (elem w v n)).isNan
    let less (n : Nat) : Bool := valLess ((Ty.fmt t).decode (elem w x n)) ((Ty.fmt t).decode (elem w y n))
    let canon := (Ty.fmt t).nan
    let mag (n : Nat) : Nat := elem w x n % 2 ^ (w - 1)
    let top (v : Vec) (n : Nat) : Nat := elem w v n / 2 ^ (w - 1) * 2 ^ (w - 1)
    VRuns (.vmin a b t) s s2 t 3
      (fun n => if nan x n || nan y n then canon else if less n then elem w x n else elem w y n) (granScale x) ∧
    VRuns (.vmax a b t) s s2 t 3
      (fun n => if nan x n || nan y n then canon else if less n then elem w y n else elem w x n) (granScale x) ∧
    VRuns (.vabs a t p) s s1 t 3 (fun n => if nan x n then canon else mag n) (granScale x) ∧
    VRuns (.vneg a t p) s s1 t 3 (fun n => if nan x n then canon else mag n + (2 ^ (w - 1) - top x n)) (granScale x) ∧
    VRuns (.vcps a b t) s s2 t 3
      (fun n => if nan x n || nan y n then canon else mag n + top y n) (granScale x))

/-- R317. The bitwise and shift instructions on element codes of any type; a shift count is b's element modulo the width,
and VSRA copies the sign of a signed type. R272, R320-R322. VCMP gives all ones where its condition holds of the
elements' values, scales included, and 0 elsewhere; VSEL takes a's element, and its granule's scale by the granule's
element 0, where c's is not 0; VCLASS gives the class of each code, 8 under a NaN scale. -/
def Obligations.VectorBitwiseShiftAndCompareResults : Prop :=
  (∀ (s s1 s2 : State) (a : VSpec) (b : VOpnd) (t : Ty) (x y : Vec),
     readV s a 0 t = .ok x s1 → readVO s1 b t = .ok y s2 →
     let w := Ty.width t
     let u (n : Nat) := elem w x n
     let v (n : Nat) := elem w y n
     VRuns (.vand a b t) s s2 t 2 (fun n => u n &&& v n) (granScale x) ∧
     VRuns (.vor a b t) s s2 t 2 (fun n => u n ||| v n) (granScale x) ∧
     VRuns (.vxor a b t) s s2 t 2 (fun n => u n ^^^ v n) (granScale x) ∧
     VRuns (.vnot a t) s s1 t 2 (fun n => 2 ^ w - 1 - u n) (granScale x) ∧
     VRuns (.vshl a b t) s s2 t 3 (fun n => u n * 2 ^ (v n % w)) (granScale x) ∧
     VRuns (.vshr a b t) s s2 t 3 (fun n => u n / 2 ^ (v n % w)) (granScale x) ∧
     VRuns (.vsra a b t) s s2 t 3 (fun n =>
       if t = .s8 ∨ t = .s16 ∨ t = .s32 then ((BitVec.ofNat w (u n)).sshiftRight (v n % w)).toNat
       else u n / 2 ^ (v n % w)) (granScale x)) ∧
  (∀ (s s1 s2 s3 : State) (a c : VSpec) (b : VOpnd) (t : Ty) (k : Cond) (x y z : Vec),
     readV s a 0 t = .ok x s1 → readVO s1 b t = .ok y s2 → readV s2 c 2 t = .ok z s3 →
     let w := Ty.width t
     let act (n : Nat) : Prop := n < elemCount w ∧ activeAt s.pre.curMask w n = true
     (∀ u v : Nat → Val, Ty.isFloat t = true → (∀ n, elemVal t s.pre.fmte x n = .ok (u n)) → (∀ n, elemVal t s.pre.fmte y n = .ok (v n)) →
       VRuns (.vcmp a b k t) s s2 t 2 (fun n => if condVal k (u n) (v n) then 2 ^ w - 1 else 0) fun _ => 0x7F) ∧
     (∀ u v : Nat → Int, Ty.isFloat t = false → (∀ n, act n → elemInt t s.pre.fmte x n = .ok (u n)) →
       (∀ n, act n → elemInt t s.pre.fmte y n = .ok (v n)) →
       VRuns (.vcmp a b k t) s s2 t 2 (fun n => if condInt k (u n) (v n) then 2 ^ w - 1 else 0) fun _ => 0x7F) ∧
     VRuns (.vsel a b c t) s s3 t 2 (fun n => if elem w z n ≠ 0 then elem w x n else elem w y n)
       (fun g => if elem w z (256 / w * g) ≠ 0 then granScale x g else granScale y g) ∧
     VRuns (.vclass a t) s s1 t 2
       (fun n => if Ty.isScaled t && granScale x (w * n / 256) = 0xFF then 8 else classOf (Ty.fmt t) (elem w x n)) fun _ => 0x7F)

/-- R228-R230, R323, R325, R326. The conversions. To a type without scales, each element of the shorter of the two counts
is its source's value converted by its mode and policy, and a conversion that overflows under TRAP raises
CVT_OVERFLOW; to a scaled type each granule's exponent is that of R230 over its own active values, and the codes are
those of the values below it. VSCL puts b's scales on a first; VANC rounds to lanes at their blocks' anchors, and
VDANC from them. R223, R327. VQDEC decodes a vector of 4-bit codes: the value of each code under its group's byte and
the FP32 scale, code 8 as +0, converted to the type with policy SAT; code 8 raises INT_CODE where FMTE forbids it. The
model's choices behind it: log entry 36. -/
def Obligations.VectorConversionResults : Prop :=
  (∀ (s s1 s2 : State) (a : VSpec) (b : VOpnd) (td ts : Ty) (pol : Pol) (m : Rm) (p : BitVec 2) (x y : Vec),
    let wd := Ty.width td
    let count := min (elemCount (Ty.width ts)) (elemCount wd)
    let act (n : Nat) : Bool := activeAt s.pre.curMask wd n
    let granule (g : Nat) : List Nat := (List.range (256 / wd)).map (256 / wd * g + ·)
    let exponent (lim : Nat) (v : Nat → Val) (g : Nat) : Int :=
      mxExponent (Ty.emax td) (((granule g).filter fun n => act n && decide (n < lim)).map v)
    let scaleByte (lim : Nat) (v : Nat → Val) (g : Nat) : Nat :=
      if (granule g).any (fun n => act n && decide (n < lim)) then (exponent lim v g + 127).toNat else 0x7F
    (∀ (u : Nat → Val) (cs : Nat → Nat), readV s a 0 ts = .ok x s1 → (∀ n < count, act n = true → elemVal ts s.pre.fmte x n = .ok (u n)) →
      (Ty.isScaled td = false → (∀ n < count, act n = true →
          (if Ty.isFloat td then (Ty.fmt td).convert (vmode s m n) pol (u n)
           else convertInt td s.pre.fmte.toNat (vmode s m n) pol (u n)) = .code (cs n)) →
        VRuns (.vcvt a td pol m ts) s s1 td 3 (fun n => if n < count then cs n else 0) fun _ => 0x7F) ∧
      (Ty.isScaled td = true → (∀ n < count, act n = true →
          (Ty.fmt td).convert (vmode s m n) pol ((u n).scale (-(exponent count u (n / (256 / wd))))) = .code (cs n)) →
        VRuns (.vcvt a td pol m ts) s s1 td 3 (fun n => if n < count then cs n else 0) (scaleByte count u)) ∧
      (Ty.isScaled td = false → (∃ n < count, act n = true ∧
          (if Ty.isFloat td then (Ty.fmt td).convert (vmode s m n) pol (u n)
           else convertInt td s.pre.fmte.toNat (vmode s m n) pol (u n)) = .overflow) →
        Raises (.vcvt a td pol m ts) s (slotTrap s1 .cvtOverflow 0))) ∧
    (∀ (u : Nat → Val) (cs : Nat → Nat), readV s a 0 td = .ok x s1 → readVO s1 b .z8 = .ok y s2 → Ty.isScaled td = true →
      (∀ n, elemVal td s.pre.fmte x n = .ok (u n)) →
      let v (n : Nat) : Val := (u n).withScale (elem 8 y (n / 32))
      (∀ n < elemCount wd, act n = true →
        (Ty.fmt td).convert (pMode s p n) .sat ((v n).scale (-(exponent (elemCount wd) v (n / (256 / wd))))) = .code (cs n)) →
      VRuns (.vscl a b td p) s s2 td 3 cs (scaleByte (elemCount wd) v)) ∧
    (readV s a 0 ts = .ok x s1 → readVO s1 b .s32 = .ok y s2 →
      let anchor (n : Nat) : Int := (BitVec.ofNat 32 (elem 32 y (n / 16))).toInt
      let lane (n : Nat) := toA32In (pMode s p n) ((Ty.fmt ts).decode (elem (Ty.width ts) x n)) (anchor n)
      VRuns (.vanc a b ts p) s s2 .a32 3 (fun n => ((lane n).1 % 2 ^ 32).toNat) fun g =>
        ((List.range 16).map fun j =>
          if activeAt s.pre.curMask 32 (16 * (g / 2) + j) then (lane (16 * (g / 2) + j)).2 else 0).foldl max 0) ∧
    (readV s a 0 .a32 = .ok x s1 → readVO s1 b .s32 = .ok y s2 →
      let anchor (n : Nat) : Int := (BitVec.ofNat 32 (elem 32 y (n / 16))).toInt
      VRuns (.vdanc a b td p) s s2 td 3 (fun n =>
        if n < 64 then (Ty.fmt td).round (pMode s p n) (a32Val (BitVec.ofNat 32 (elem 32 x n)).toInt (anchor n)) else 0) fun _ => 0x7F)) ∧
  (∀ (s s1 s2 s3 : State) (a c : VSpec) (b : VOpnd) (t : Ty) (p : BitVec 2) (x y z : Vec) (cs : Nat → Nat),
    readV s a 0 .i4 = .ok x s1 → readVO s1 b .z8 = .ok y s2 → readV s2 c 2 .f32 = .ok z s3 →
    Ty.isFloat t = true → Ty.isScaled t = false →
    let w := Ty.width t
    let act (n : Nat) : Prop := n < elemCount w ∧ activeAt s.pre.curMask w n = true
    let trapping : Prop := s.pre.fmte.toNat / 2 ^ 5 % 4 = 3 ∧ ∃ n, act n ∧ elem 4 x n = 8
    let v (n : Nat) : Val :=
      if elem 4 x n = 8 then .fin false 0 1 0 else q16Val (elem 4 x n) (elem 8 y (n / 64)) (fp32.decode (elem 32 z 0))
    (¬ trapping → (∀ n, act n → (Ty.fmt t).convert (pMode s p n) .sat (v n) = .code (cs n)) →
      VRuns (.vqdec a b c t p) s s3 t 3 cs fun _ => 0x7F) ∧
    (trapping → Raises (.vqdec a b c t p) s (slotTrap s3 .intCode 0)))

/-- R315, R324, R328, R329. The movement instructions, each of which completes where its operands read: which element of
which operand supplies each element; a granule takes the scale of the granule that supplies its element 0. VPACK and VUNPK
move whole granules, with their scales; VMOV writes its register too. -/
def Obligations.VectorMovementResults : Prop :=
  (∀ (s s1 : State) (a : VSpec) (t : Ty) (k : Fin 16) (x : Vec), readV s a 0 t = .ok x s1 →
    (∃ v, exec (.vbcst a t) s = .next (s1.vresult v 2) ∧ Moved s t v fun _ => (x, 0)) ∧
    VRuns (.viota a t) s s1 t 2 (fun n => elem (Ty.width t) x 0 + n) (granScale x) ∧
    (∃ v, exec (.vmov a k t) s = .next
        ((s1.upd fun q => { q with v := q.v.set k ((q.v[k]).write q.clk ⟨v, q.clk, q.clk + 2, none⟩) }).vresult v 2) ∧
      Moved s t v fun n => (x, n))) ∧
  (∀ (s s1 : State) (a : VSpec) (t : Ty) (x : Vec), readV s a 0 t = .ok x s1 →
    ∃ v, exec (.viota a t) s = .next (s1.vresult v 2) ∧ elem (Ty.width t) v 0 =
      if activeAt s.pre.curMask (Ty.width t) 0 then elem (Ty.width t) x 0 else 0) ∧
  (∀ (s s1 s2 : State) (a : VSpec) (b : VOpnd) (t : Ty) (hi : Bool) (x y : Vec),
    readV s a 0 t = .ok x s1 → readVO s1 b t = .ok y s2 →
    let w := Ty.width t
    let e := elemCount w
    let half := if hi then e / 2 else 0
    let odd := if hi then 1 else 0
    (∃ v, exec (.vperm a b t) s = .next (s2.vresult v 4) ∧ Moved s t v fun n => (x, elem w y n % e)) ∧
    (∃ v, exec (.vext a b t) s = .next (s2.vresult v 4) ∧ Moved s t v fun _ => (x, elem w y 0 % e)) ∧
    (∃ v, exec (.vzip a b t hi) s = .next (s2.vresult v 4) ∧
      Moved s t v fun n => if n % 2 = 0 then (x, n / 2 + half) else (y, n / 2 + half)) ∧
    (∃ v, exec (.vunzip a b t hi) s = .next (s2.vresult v 4) ∧
      Moved s t v fun n => if n < e / 2 then (x, 2 * n + odd) else (y, 2 * (n - e / 2) + odd))) ∧
  (∀ (s s1 s2 s3 : State) (a c : VSpec) (b : VOpnd) (t : Ty) (x y z : Vec),
    readV s a 0 t = .ok x s1 → readVO s1 b t = .ok y s2 → readV s2 c 2 t = .ok z s3 →
    let e := elemCount (Ty.width t)
    let by_ := min (elem 32 z 0) e
    ∃ v, exec (.vslide a b c t) s = .next (s3.vresult v 4) ∧
      Moved s t v fun n => if n < e - by_ then (x, n + by_) else (y, n - (e - by_))) ∧
  (∀ (s s1 s2 : State) (a : VSpec) (b : VOpnd) (g : Fin 8) (x y : Vec),
    readV s a 0 .f32 = .ok x s1 → readVO s1 b .f32 = .ok y s2 →
    ∃ v, exec (.vpack a b g) s = .next (s2.vresult v 3) ∧
      MovedWhole s v fun i => if i < g.val then some (x, i) else some (y, i - g.val)) ∧
  (∀ (s s1 : State) (a : VSpec) (g : Fin 8) (x : Vec), readV s a 0 .f32 = .ok x s1 →
    ∃ v, exec (.vunpk a g) s = .next (s1.vresult v 3) ∧
      MovedWhole s v fun i => if i < 8 - g.val then some (x, i + g.val) else none)

/-- R231, R232, R332. The reductions over the active elements, each of which completes where its operands read and every
active code stands for a value: VRSUM and VDOT round the exact sum once, or saturate it to 32 bits; VRMAX and VRMIN give
the greatest and least; each puts one code in every element, unmasked. VSCAN gives in each active element the sum of the
active ones up to it. -/
def Obligations.VectorReductionResults : Prop :=
  ∀ (s s1 : State) (a : VSpec) (t : Ty) (p : BitVec 2) (x : Vec), readV s a 0 t = .ok x s1 →
    let w := Ty.width t
    let actives := (List.range (elemCount w)).filter fun n => activeAt s.pre.curMask w n
    let rt := reduceTy t
    let filled (v : Vec) (c : Nat) : Prop :=
      (∀ n < elemCount (Ty.width rt), elem (Ty.width rt) v n = c % 2 ^ Ty.width rt) ∧ ∀ g < 8, granScale v g = 0x7F
    let sum (n : Nat) (l : List Val) : Nat := (Ty.fmt rt).round (pMode s p n) (sumVals (decide (pMode s p n = .rdn)) l)
    let lo := (intRange rt 0).1
    let hi := (intRange rt 0).2
    let isum (l : List Int) : Nat := (max lo (min hi l.sum) % 2 ^ 32).toNat
    let scanned (v : Vec) (f : Nat → Nat) : Prop :=
      (∀ n < elemCount w, elem w v n = if activeAt s.pre.curMask w n then f n % 2 ^ w else 0) ∧ ∀ g < 8, granScale v g = 0x7F
    let upTo (n : Nat) : List Nat := (List.range (n + 1)).filter fun i => activeAt s.pre.curMask w i
    (∀ u : Nat → Val, Ty.isFloat t = true → (∀ n ∈ actives, elemVal t s.pre.fmte x n = .ok (u n)) →
      (∃ r, exec (.vrsum a t p) s = .next (s1.vresult r 6) ∧ filled r (sum 0 (actives.map u))) ∧
      (∃ r, exec (.vrmax a t) s = .next (s1.vresult r 6) ∧
        filled r ((Ty.fmt rt).round .rne (extremeVal true (actives.map u)))) ∧
      (∃ r, exec (.vrmin a t) s = .next (s1.vresult r 6) ∧
        filled r ((Ty.fmt rt).round .rne (extremeVal false (actives.map u)))) ∧
      (∃ r, exec (.vscan a t p) s = .next (s1.vresult r 6) ∧
        scanned r fun n => sum n ((upTo n).map fun i => (Ty.fmt t).decode (elem w x i))) ∧
      ∀ (b : VOpnd) (y : Vec) (s2 : State) (v : Nat → Val), readVO s1 b t = .ok y s2 →
        (∀ n ∈ actives, elemVal t s.pre.fmte y n = .ok (v n)) →
        ∃ r, exec (.vdot a b t p) s = .next (s2.vresult r 6) ∧
          filled r (sum 0 (actives.map fun n => (u n).mul (v n)))) ∧
    (∀ u : Nat → Int, Ty.isFloat t = false → (∀ n ∈ actives, elemInt t s.pre.fmte x n = .ok (u n)) →
      (∃ r, exec (.vrsum a t p) s = .next (s1.vresult r 6) ∧ filled r (isum (actives.map u))) ∧
      (∃ r, exec (.vrmax a t) s = .next (s1.vresult r 6) ∧
        filled r (((actives.map u).foldl max lo % 2 ^ 32).toNat)) ∧
      (∃ r, exec (.vrmin a t) s = .next (s1.vresult r 6) ∧
        filled r (((actives.map u).foldl min hi % 2 ^ 32).toNat)) ∧
      (∃ r, exec (.vscan a t p) s = .next (s1.vresult r 6) ∧
        scanned r fun n => isum ((upTo n).map u)) ∧
      ∀ (b : VOpnd) (y : Vec) (s2 : State) (v : Nat → Int), readVO s1 b t = .ok y s2 →
        (∀ n ∈ actives, elemInt t s.pre.fmte y n = .ok (v n)) →
        ∃ r, exec (.vdot a b t p) s = .next (s2.vresult r 6) ∧ filled r (isum (actives.map fun n => u n * v n)))

/-- R150, R333. The mask stack: MPUSH adds the current mask and the derived one, MSET replaces the top, MINV takes the
rest of the mask below it, MPOP removes it; a seventeenth entry raises MASK_OVERFLOW, a top that is not there
MASK_UNDERFLOW. The derived mask's nibble is 1 where its element's code is not 0. R145, R330. VSW pushes its operand,
with the nibbles and granules that the mask makes active, into the buffer of a bound write stream, in no region, with
a place left; no byte of the scratchpad need change before it drains. A push beyond the pattern raises STREAM_END, one
to a stream not bound for writing STREAM_UNBOUND. -/
def Obligations.MaskStackAndVswEffects : Prop :=
  (∀ s : State,
    let ones := BitVec.allOnes 512
    (∀ top rest, s.cur.mask = top :: rest →
      exec .minv s = .next (s.upd fun k => { k with mask := (rest.headD ones &&& ~~~top) :: rest }) ∧
      exec .mpop s = .next (s.upd fun k => { k with mask := rest })) ∧
    (s.cur.mask = [] → Raises .minv s (slotTrap s .maskUnderflow 0) ∧ Raises .mpop s (slotTrap s .maskUnderflow 0))) ∧
  (∀ (s s1 : State) (a : VSpec) (t : Ty) (x : Vec), readV s a 0 t = .ok x s1 →
    let ones := BitVec.allOnes 512
    ∃ d : BitVec 512, (∀ i < 512, d.getLsbD i = decide (elem (Ty.width t) x (4 * i / Ty.width t) ≠ 0)) ∧
      (s1.cur.mask.length < 16 →
        exec (.mpush a t) s = .next (s1.upd fun k => { k with mask := (k.mask.headD ones &&& d) :: k.mask })) ∧
      (16 ≤ s1.cur.mask.length → Raises (.mpush a t) s (slotTrap s1 .maskOverflow 0)) ∧
      (s1.cur.mask ≠ [] → exec (.mset a t) s = .next (s1.upd fun k => { k with mask := d :: k.mask.tail })) ∧
      (s1.cur.mask = [] → Raises (.mset a t) s (slotTrap s1 .maskUnderflow 0))) ∧
  (∀ (s s1 : State) (a : VSpec) (n : Fin 8) (t : Ty) (x : Vec), readV s a 0 t = .ok x s1 →
    let st := s1.cur.streams[n]
    let i := streamInfo n 2
    (st.bound = true → st.wr = true → st.diff = false → st.pos < blkTotal st.block → vectorCause s.pre st st.pos = none →
      ((st.ranges st.pos).all fun r => !touchesBarrier s.pre.hdr r.1.toNat r.2) = true → st.buf.length < 16 →
      vectorHold s1 st st.pos = none →
      ∃ u, exec (.vsw a n t) s = .next u ∧ SameMemory s u ∧ ∃ v : SVec,
        u.cur.streams[n] = { st with pos := st.pos + 1, buf := st.buf ++ [v] } ∧ v.val = x ∧ v.due = s.cycle + 4 ∧
        ∀ j < 512, v.nib.getLsbD j = activeAt s.pre.curMask (Ty.width t) (4 * j / Ty.width t)) ∧
    (st.bound = false → Raises (.vsw a n t) s (slotTrap s1 .streamUnbound i)) ∧
    (st.bound = true → st.wr = true → st.diff = false → blkTotal st.block ≤ st.pos →
      Raises (.vsw a n t) s (slotTrap s1 .streamEnd i)) ∧
    (st.bound = true → st.wr = true → st.diff = false → st.pos < blkTotal st.block →
      vectorCause s.pre st st.pos = none → ((st.ranges st.pos).all fun r => !touchesBarrier s.pre.hdr r.1.toNat r.2) = true →
      16 ≤ st.buf.length → Holds (.vsw a n t) s (.stream n)))

/-! ### The matrix engine -/

/-- R146, R334, R337, R338, R340, R344. An operation of the M slot enters the matrix op queue with the formats and modes
of its issue where its checks pass: configured tiles of an allowed pair, few enough rows and k for an outer product; a
declared source for MACC; a declared polder, no region and no barrier line for MSAVE and MLOAD. R345, R346. MFMT's
value waits four issue cycles behind those before it. MFENCE goes on where the op queue is empty, and in a handler;
elsewhere it waits, which is no hold. The model's choices behind it: log entry 35. -/
def Obligations.MatrixOperationsEnterTheQueue : Prop :=
  (∀ (s : State) (z y a b q : Fin 8) (k e : BitVec 8) (v : BitVec 7) (neg h : Bool) (p : Fin 32) (qu : Fin 2) (pol : Pol)
    (m : Rm) (first rows : BitVec 4) (t : Ty), s.cur.mops.length < min 4 s.pre.hdr.moqMax →
    let ta := s.pre.tiles[a]
    let tb := s.pre.tiles[b]
    let n := k.toNat + 1
    let off := 65536 * p.val + (if h then 32768 else 0)
    (tileLoading s a = false → tileLoading s b = false → tcfgRows ta.cfg ≠ 0 → tcfgRows tb.cfg ≠ 0 → tcfgRows tb.cfg ≤ 64 →
      n * Ty.width ta.ty ≤ 8 * tcfgRbytes ta.cfg → n * Ty.width tb.ty ≤ 8 * tcfgRbytes tb.cfg → pairOk ta.ty tb.ty = true →
      Enqueues (.mop z a b k neg) s ∧ Enqueues (.mopz z a b k neg) s ∧ Enqueues (.mr1 z a b k neg) s ∧
      Enqueues (.mr1z z a b k neg) s) ∧
    Enqueues (.mzero z) s ∧ (s.pre.hdr.accs.getLsbD y.val = true → Enqueues (.macc z y neg) s) ∧ Enqueues (.mscl z v) s ∧
    Enqueues (.mdrain z qu pol h m first rows t) s ∧
    (s.pre.hdr.polders.getLsbD p.val = true → regionAt s.pre.hdr false off 32768 = none →
      foreignPolder s.cur off 32768 = none →
      Enqueues (.mload z h p) s ∧ (touchesBarrier s.pre.hdr off 32768 = false → Enqueues (.msave z h p) s))) ∧
  (∀ (s : State) (v : BitVec 7),
    Runs (.mfmt v) s (s.upd fun k => { k with fmtp := k.fmtp ++ [(v, 4)] }) ∧
    (s.cur.mops = [] ∨ s.pre.level ≠ s.pre.base → Runs .mfence s s) ∧
    (s.cur.mops ≠ [] → s.pre.level = s.pre.base → Runs .mfence s
      ((s.upd fun k => { k with wait := some .mfence }).mark (.held .mfence))))

/-- R339, R340, R344. MATRIX_OP_COMPLETE on a core whose context runs: the operation in flight whose cycles are over has
its effect on its accumulator, element by element, and leaves the queue; an operation that reads a failed word of a tile or
an accumulator, or an MLOAD of a failed line, has none, and its cause is raised at the next bundle (R23, R417). The elements of an outer product outside the
tiles' rows keep their value, or are zeroed first by the zeroing forms. The model's choices behind it: log entries 29, 35. -/
def Obligations.MatrixCompletionEffects : Prop :=
  ∀ (s : State) (o : MatOp) (rest : List MatOp),
    let c := s.inp.core
    let k := s.coreAt c
    k.level = k.base → k.mops = o :: rest → k.mprog.started = true → opCycles k o ≤ k.mprog.elapsed →
    RunsTo .matrixOpComplete s fun t =>
      let k' := t.coreAt c
      let val (z : Fin 8) (i j : Nat) : BitVec 32 := accGet k.acc[z] i j
      let is (z : Fin 8) (f : Nat → Nat → BitVec 32) : Prop := ∀ i < 128, ∀ j < 64, accGet k'.acc[z] i j = f i j
      k'.mops = rest ∧ k'.mprog = MatProg.reset ∧ SameMemory s t ∧ (∀ d, d ≠ c → t.coreAt d = s.coreAt d) ∧
      (∀ n, k.opFault o = some n → k'.acc = k.acc ∧ k'.spad = k.spad ∧ k'.late = k.late ++ [(.uncorrectable, spadInfo n)]) ∧
      (k.opFault o = none → match o.op with
      | .mzero z => is z fun _ _ => 0
      | .macc z y neg => is z fun i j =>
          let v := fp32.decode (val y i j).toNat
          BitVec.ofNat 32 (fp32.round .rne (Val.add false (fp32.decode (val z i j).toNat) (if neg then v.neg else v)))
      | .mscl z e => is z fun i j => BitVec.ofNat 32 (fp32.round .rne ((fp32.decode (val z i j).toNat).scale e.toInt))
      | .mload z h p =>
          (k.failedLine (65536 * p.val + 32768 * h.toNat) 32768 = none → is z fun i j =>
            BitVec.ofNat 32 (k.spad.readLE (65536 * p.val + 32768 * h.toNat + 256 * i + 4 * j) 4)) ∧
          ∀ n, k.failedLine (65536 * p.val + 32768 * h.toNat) 32768 = some n →
            k'.acc = k.acc ∧ k'.late = k.late ++ [(.uncorrectable, spadInfo n)]
      | .msave z h p => k'.acc = k.acc ∧ ∀ i < 128, ∀ j < 64,
          k'.spad.readLE (65536 * p.val + 32768 * h.toNat + 256 * i + 4 * j) 4 = (val z i j).toNat
      | .mop z a b n _ | .mr1 z a b n _ => ∀ i < 128, ∀ j < 64,
          ¬ (i < tcfgRows k.tiles[a].cfg ∧ j < tcfgRows k.tiles[b].cfg) → k.mprog.kDone ≤ n.toNat + 1 →
          accGet k'.acc[z] i j = val z i j
      | .mopz z a b _ _ | .mr1z z a b _ _ => ∀ i < 128, ∀ j < 64,
          ¬ (i < tcfgRows k.tiles[a].cfg ∧ j < tcfgRows k.tiles[b].cfg) →
          accGet k'.acc[z] i j = if k.mprog.kDone = 0 then 0 else val z i j
      | _ => k'.acc = k.acc)

/-- R231, R339. An outer product inside its tiles' rows: each k-group's exact sum of products is added to the element,
scaled and negated as the operation says, and rounded once; a rank-1 form adds and rounds product by product.
R341-R343, R345, R349. The engine's other steps on a core whose context runs: the row group due is pushed onto its
queue, and its rows cleared where MDRAIN says so; a reserved code due raises INT_CODE with SLOT 7 at the bundle due;
MFMT's values whose cycles are over become FMTE in order. The model's choices behind it: log entry 35. -/
def Obligations.OuterProductsAndMatrixEngineSteps : Prop :=
  (∀ (u : Outer) (ta tb : Tile) (fmte : BitVec 7) (hi : Nat) (z : Acc) (i j : Nat), i < 128 → j < 64 →
     i < tcfgRows ta.cfg → j < tcfgRows tb.cfg →
     let gl := 256 / Ty.width ta.ty
     let start : BitVec 32 := if u.zero then 0 else accGet z i j
     let add (c : BitVec 32) (v : Val) : BitVec 32 :=
       if v.isZero then c else BitVec.ofNat 32 (fp32.round .rne (Val.add false (fp32.decode c.toNat) v))
     let scaled (g : Nat) (v : Val) : Val :=
       let v := tileScaleVal tb (tileScaleVal ta v i g) j g
       if u.neg then v.neg else v
     let ks (g : Nat) : List Nat := (List.range (min hi (gl * (g + 1)) - gl * g)).map (· + gl * g)
     accGet (applyOuter u ta tb fmte 0 hi z) i j =
       (List.range ((hi + gl - 1) / gl)).foldl (fun c g =>
         if u.rank1 then (ks g).foldl (fun c k => add c (scaled g (productAt ta tb fmte i j k))) c
         else add c (scaled g (Val.sum ((ks g).map fun k => productAt ta tb fmte i j k)))) start) ∧
  (∀ s : State,
     let c := s.inp.core
     let k := s.coreAt c
     (∀ p v, k.level = k.base → duePush k = some p → p.vec = .ok v → pushFault k = none →
       (queueOf k p.q).length < queueMax k p.q →
       RunsTo .mdrainGroupPush s fun t =>
         let k' := t.coreAt c
         queueOf k' p.q = queueOf k p.q ++ [v] ∧ queueOf k' (1 - p.q) = queueOf k (1 - p.q) ∧
         k'.mprog.pushed = k.mprog.pushed + 1 ∧ k'.mops = k.mops ∧ SameMemory s t ∧
         (p.clr = false → k'.acc = k.acc) ∧
         (p.clr = true → ∀ i j, j < 64 → accGet k'.acc[p.z] i j =
           if p.rows.1 ≤ i ∧ i < p.rows.1 + p.rows.2 then 0 else accGet k.acc[p.z] i j)) ∧
     (k.level = k.base → (dueIntCode k).isSome → ∃ u : State,
       Runs .matrixIntCode s (u.takeTrap c ⟨.intCode, 7, 0⟩) ∧ (∀ d, d ≠ c → u.coreAt d = s.coreAt d) ∧ SameMemory s u) ∧
     (∀ v, k.fmtp = [(v, 0)] → RunsTo .mfmtEffect s fun t =>
       (t.coreAt c).fmte = v.setWidth 64 ∧ (t.coreAt c).fmtp = [] ∧
       (∀ d, d ≠ c → t.coreAt d = s.coreAt d) ∧ SameMemory s t))

/-! ### The C slots: commands -/

/-- R367, R372-R377. The copies, fills, CPREF and CFLUSH. With their tag free, room in the copy queue and operands in
form, they start: the command stands behind the others with its operands and its block, its tag is busy and no byte of
HBM has changed. Copies into a region reserve their records. A block with a failed word of spill memory is UNCORRECTABLE.
CPREF goes on at once, and changes nothing but what stands in L2 and its accounts. A tag in use is TAG_BUSY, a full
queue COPYQ_FULL. The model's choices behind it: log entry 15. -/
def Obligations.CopyAndFillCommandsStart : Prop :=
  ∀ (s s1 s2 s3 : State) (g : Fin 64) (a b : SSpec) (c : SOpnd) (x y z : Word),
    readS s a 0 = .ok x s1 → readS s1 b 1 = .ok y s2 → readSO s2 c 2 = .ok z s3 →
    (tagFree s.pre.tags[g] = false → Raises (.cpy g a b c) s (slotTrap s .tagBusy 0) ∧
      Raises (.cfill g a b c) s (slotTrap s .tagBusy 0)) ∧
    (tagFree s.pre.tags[g] = true → tagFree s.cur.tags[g] = true → min 16 s.pre.hdr.cqMax ≤ s.cur.copyq.length →
      Raises (.cpy g a b c) s (slotTrap s .copyqFull 0) ∧ Raises (.cfill g a b c) s (slotTrap s .copyqFull 0)) ∧
    (TagReady s g → engAddrOk s.pre.level x = true →
      (engAddrOk s.pre.level y = true →
        (cpyLen z ≠ 0 → bitsOf z.toNat 58 6 = 0 → CopyStarts s s3 (newCmd s3 (.cpy g a b c) (some g) x y z) x y z) ∧
        (z.toNat % 64 = 0 →
          (∀ n, z.toNat + 128 ≤ s.pre.spillLimit → s.pre.failedWord .spill z.toNat 128 = some n →
            Raises (.cpyp g a b c) s (slotTrap s .uncorrectable (spadInfo n))) ∧
          (z.toNat + 128 ≤ s.pre.spillLimit → s.pre.failedWord .spill z.toNat 128 = none → ∀ blk, blk = s.pre.spill.readBytes z.toNat 128 → pairOkForm blk = true →
            CopyStarts s s3 { newCmd s3 (.cpyp g a b c) (some g) x y z with block := blk } x y z) ∧
          (z.toNat + 64 ≤ s.pre.spillLimit → s.pre.failedWord .spill z.toNat 64 = none →
            ∀ blk, blk = s.pre.spill.readBytes z.toNat 64 → stripeOkForm blk = true →
            (engAddrOf x).num % 64 = 0 → (engAddrOf y).num % 2 ^ 21 = 0 →
            CopyStarts s s3 { newCmd s3 (.cstrp g a b c) (some g) x y z with block := blk } x y z))) ∧
      (cpyLen z ≠ 0 → bitsOf z.toNat 58 6 = 0 → footprintBad s.pre [(engAddrOf x, cpyLen z)] = none →
        firstDiff s.pre [(engAddrOf x, cpyLen z)] = none → (engAddrOf x).num % 8 = 0 → cpyLen z % 8 = 0 →
        Starts (.cfill g a b c) s (some g) x y z fun _ t => OnlyTags s t)) ∧
    ∀ (sz : State), readSO s1 c 2 = .ok z sz → engAddrOk s.pre.level x = true → cpyLen z ≠ 0 →
      (TagReady s g → bitsOf z.toNat 58 6 = 0 → footprintBad s.pre [(engAddrOf x, cpyLen z)] = none →
        firstDiff s.pre [(engAddrOf x, cpyLen z)] = none → (engAddrOf x).num % 64 = 0 → cpyLen z % 64 = 0 →
        Starts (.czero g a c) s (some g) x 0 z fun _ t => OnlyTags s t) ∧
      (bitsOf z.toNat 32 32 = 0 →
        (TagReady s g → (engAddrOf x).isSpad = false → Starts (.cflush g a c) s (some g) x 0 z fun _ t => OnlyTags s t) ∧
        (cpyLen z ≤ 2 ^ 20 → RunsTo (.cpref a c) s fun t => OnlyMemorySide s t ∧ ((engAddrOf x).isSpad = true → t = sz)))

/-- R378-R380, R242. The tile and queue transfers start: CTLD on a tile that no operation names, CTST and CQST with the
records of a region reserved, or in REWIND with the records checked, the ranges restored and the cleared cells in the
tile or in the queue. CQST takes its vectors from the queue. A footprint part of which lies in a region is DIFF_SHAPE,
an empty queue QUEUE_EMPTY. The model's choices behind it: log entry 33. -/
def Obligations.TileAndQueueTransfersStart : Prop :=
  ∀ (s s1 s2 : State) (g : Fin 64) (n : Fin 8) (q : Fin 2) (b : SSpec) (c : SOpnd) (y z : Word),
    readS s b 1 = .ok y s1 → readSO s1 c 2 = .ok z s2 → TagReady s g →
    (let cfg := (s.pre.tiles[n]).cfg
     (TileOk s true n y z →
       (∀ r, tileDiff s2 cfg y z = .ok r → Starts (.ctld g n b c) s (some g) 0 y z fun m t =>
         m.diff = diffFoot s.pre (tileRanges cfg y z) ∧ m.rewind = (r.isSome && s.pre.rewinding) ∧ m.cfg = cfg ∧
         m.due = tileDue s cfg y z ∧ OnlyTags s t) ∧
       ∀ info, tileDiff s2 cfg y z = .error info → Raises (.ctld g n b c) s (slotTrap s .diffShape info)) ∧
     (TileOk s false n y z →
       (tileDiff s2 cfg y z = .ok none → Starts (.ctst g n b c) s (some g) 0 y z fun m t =>
         m.diff = diffFoot s.pre (tileRanges cfg y z) ∧ m.cfg = cfg ∧ m.due = tileDue s cfg y z ∧
         t.cur.reelPtr = s.cur.reelPtr ∧ OnlyTags s t) ∧
       (∀ r segs, tileDiff s2 cfg y z = .ok (some r) → s.pre.rewinding = false →
         reserveReel s2 s.issue.core (recordsSize (tileRanges cfg y z)) = .ok segs →
         Starts (.ctst g n b c) s (some g) 0 y z fun m t => m.diff = true ∧ m.segs = segs ∧ OnlyTags s t ∧
           t.cur.reelPtr = (s.cur.setReelPtr (reelPtr s.cur + recordsSize (tileRanges cfg y z))).reelPtr) ∧
       ∀ r, tileDiff s2 cfg y z = .ok (some r) → s.pre.rewinding = true →
         let m := { newCmd s2 (.ctst g n b c) (some g) 0 y z with due := tileDue s2 cfg y z, cfg := cfg }
         if diffDone s2 s.issue.core = false then Holds (.ctst g n b c) s .fence
         else ∀ olds ptr xs v u, popAll s2 s2.cur (reelXlate s2 s.issue.core) recCtst (reelPtr s.cur)
             (tileRanges cfg y z).reverse = .ok (olds, ptr) →
           placesOf s2 m r ((tileElems (s.cur.tiles[n]) y z).map (·.2)) = .ok (xs, v) →
           writeBack (takeAll v m r xs).2 m olds = .ok u →
           RunsTo (.ctst g n b c) s fun t => t.cur.tags[g] = .busy false ∧ SameMemory u t ∧
             t.cur.reelPtr = (u.cur.setReelPtr ptr).reelPtr ∧ t.cur.spad = u.cur.spad ∧
             t.cur.tiles[n] = loadedTile (s.cur.tiles[n])
               ((takeAll v m r xs).1.flatMap fun v => natToBytes r.esize (narrowFrom32 r.type v))
               (List.replicate 512 0x7F))) ∧
    (engAddrOk s.pre.level y = true → qcN z ≠ 0 → qcN z ≤ 64 → bitsOf z.toNat 19 5 = 0 → bitsOf z.toNat 48 16 = 0 →
      let rs := qstRanges y z
      let isRew := s.pre.rewinding && diffLevel s.pre && (match footDiff s.pre rs with | .region _ => true | _ => false)
      (isRew = false → (queueOf s.cur q).length < qcN z →
        Raises (.cqst g q b c) s (slotTrap s .queueEmpty (BitVec.ofNat 64 q.val))) ∧
      (isRew = true ∨ qcN z ≤ (queueOf s.cur q).length → (engAddrOf y).num % 64 = 0 → footprintBad s.pre rs = none →
        (∀ r ∈ rs, ∀ o, r.1 = .spad o → touchesBarrier s.pre.hdr o r.2 = false) →
        (footDiff s.pre rs = .plain → Starts (.cqst g q b c) s (some g) 0 y z fun m t =>
          m.vecs = (queueOf s.cur q).take (qcN z) ∧ queueOf t.cur q = (queueOf s.cur q).drop (qcN z) ∧
          (∀ p, p ≠ q → queueOf t.cur p = queueOf s.cur p) ∧ OtherCores s t) ∧
        (∀ r segs, footDiff s.pre rs = .region r → isRew = false →
          reserveReel s2 s.issue.core (recordsSize rs) = .ok segs → Starts (.cqst g q b c) s (some g) 0 y z fun m t =>
            m.vecs = (queueOf s.cur q).take (qcN z) ∧ m.segs = segs ∧ queueOf t.cur q = (queueOf s.cur q).drop (qcN z) ∧
            t.cur.reelPtr = (s.cur.setReelPtr (reelPtr s.cur + recordsSize rs)).reelPtr) ∧
        (∀ r, footDiff s.pre rs = .region r → isRew = true →
          let m := { newCmd s2 (.cqst g q b c) (some g) 0 y z with vecs := (queueOf s2.cur q).take (qcN z) }
          if queueMax s.pre q < (queueOf s.cur q).length + qcN z then
            Raises (.cqst g q b c) s (slotTrap s .queueFull (BitVec.ofNat 64 q.val))
          else if diffDone s2 s.issue.core = false then Holds (.cqst g q b c) s .fence
          else ∀ olds ptr xs v u, popAll s2 s2.cur (reelXlate s2 s.issue.core) recCqst (reelPtr s.cur) rs.reverse =
              .ok (olds, ptr) →
            placesOf s2 m r (elemsIn r (engAddrOf y).num (256 * qcN z)) = .ok (xs, v) →
            writeBack (takeAll v m r xs).2 m olds = .ok u →
            RunsTo (.cqst g q b c) s fun t => t.cur.tags[g] = .busy false ∧ SameMemory u t ∧
              t.cur.reelPtr = (u.cur.setReelPtr ptr).reelPtr ∧ t.cur.spad = u.cur.spad ∧
              (queueOf t.cur q).length = (queueOf u.cur q).length + qcN z) ∧
        (∀ e, footDiff s.pre rs = .mixed e → Raises (.cqst g q b c) s (slotTrap s .diffShape e.info))))

/-- R162, R381, R392-R396. CMSG takes one credit for its target and sends the 64 bytes as they stand, waits for a credit
on its way, and is MSGQ_FULL where none is; MSAT, HSIG, NBLD and NBX start as commands, HSIG without a tag and behind
the core's writes; NBQ reads a count of the channel of its line. The model's choices behind it: log entry 26. -/
def Obligations.MessageAtomicAndNearBankCommandsStart : Prop :=
  ∀ (s s1 s2 s3 : State) (g : Fin 64) (a b : SSpec) (c : SOpnd) (w : WReg) (x y z : Word),
    readS s a 0 = .ok x s1 → readS s1 b 1 = .ok y s2 → readSO s2 c 2 = .ok z s3 →
    (∀ tgt off, TagReady s g → engAddrOk s.pre.level y = true → engAddrOf y = .spad off →
      launchCore s s.pre.launch x.toNat = some tgt → off % 64 = 0 → footprintBad s.pre [(.spad off, 64)] = none →
      firstDiff s.pre [(.spad off, 64)] = none → spadHold s2 off 64 = none → s2.cur.failedLine off 64 = none →
      let left := s.cur.credits.getD x.toNat 0
      (left ≠ 0 → Starts (.cmsg g a b) s (some g) x y 0 fun m t =>
        t.cur.credits = setAt s.cur.credits x.toNat (left - 1) ∧
        Sends s t (.msg tgt (s.cur.spad.readBytes off 64) m.id) 0 fun o => o.due = s.cycle + msgLatency s.issue.core tgt) ∧
      (left = 0 → creditComing s s.issue.core x.toNat = true → Holds (.cmsg g a b) s .credit) ∧
      (left = 0 → creditComing s s.issue.core x.toNat = false → Raises (.cmsg g a b) s (slotTrap s .msgqFull 0))) ∧
    (TagReady s g → engAddrOk s.pre.level x = true → engAddrOk s.pre.level y = true → (engAddrOf x).isSpad = false →
      (engAddrOf y).isSpad = true → msOk z = true → (engAddrOf x).num % atomWidth (msW32 z) = 0 →
      (engAddrOf y).num % atomWidth (msW32 z) = 0 →
      footprintBad s.pre [(engAddrOf y, atomWidth (msW32 z) * msN z)] = none →
      firstDiff s.pre [(engAddrOf x, atomWidth (msW32 z) * msN z)] = none →
      Starts (.msat g a b c) s (some g) x y z fun _ t => OnlyTags s t) ∧
    (engAddrOk s.pre.level z = true → (engAddrOf z).num % 8 = 0 →
      (z ≠ 0 → footprintBad s.pre [(engAddrOf z, 8)] = none) →
      Starts (.hsig a b c) s none x y z fun m t => m.after = pendingWrites s s.issue.core ∧ t.cores = s.cores ∧
        m.diff = diffFoot s.pre (if z = 0 then [] else [(engAddrOf z, 8)])) ∧
    (TagReady s g → x.toNat ≤ 3 → engAddrOk s.pre.level y = true → (engAddrOf y).num % 64 = 0 →
      footprintBad s.pre [(engAddrOf y, 128)] = none → Starts (.nbld g a b) s (some g) x y 0 fun _ t => OnlyTags s t) ∧
    (∀ sz blk, readSO s1 c 2 = .ok z sz → TagReady s g → x.toNat + 64 ≤ s.pre.spillLimit → x.toNat % 64 = 0 →
      s.pre.failedWord .spill x.toNat 64 = none →
      blk = s.pre.spill.readBytes x.toNat 64 → bitsOf z.toNat 25 39 = 0 → runDescOk blk = true → rdStatus blk % 64 = 0 →
      Starts (.nbx g a c) s (some g) x 0 z fun m t => m.block = blk ∧ OnlyTags s t) ∧
    (∀ p m, x.toNat ≤ 3 → y.toNat % 8 = 0 → memTarget s2 .read y 8 = .ok m → m = .hbm p ∨ (∃ i, m = .window i p) →
      Runs (.nbq w a b) s ((s2.noteAccess s.issue.core m y.toNat).result
        (BitVec.ofNat 64 (SMap.get 0 (s.partRt s.pre.part).nbCounts (4 * chanOf (heldAt s2 m) + x.toNat))) 600 w)) ∧
    (∀ p, heldAt s2 (.hbm p) = p.addr) ∧
    ∀ d, x.toNat ≤ 3 → y.toNat % 8 = 0 → memTarget s2 .read y 8 = .error d →
      Raises (.nbq w a b) s (slotTrap s d y)

/-- R382-R386, R40. FWR, FAMO, FREQ and FLNCH start with a rank below GANG_SIZE and operands in form: the packets of the
command count for their destination at once, unless that is the module itself. A rank that is too large is RANK_RANGE. -/
def Obligations.PacketCommandsStart : Prop :=
  ∀ (s s1 s2 s3 sz : State) (g : Fin 64) (a b : SSpec) (c : SOpnd) (x y z : Word),
    readS s a 0 = .ok x s1 → readS s1 b 1 = .ok y s2 → readSO s2 c 2 = .ok z s3 → readSO s1 c 2 = .ok z sz → TagReady s g →
    let rank := bitsOf z.toNat 0 11
    (x.toNat < 2 ^ 48 → engAddrOk s.pre.level y = true → fabLines z ≠ 0 → bitsOf z.toNat 32 32 = 0 →
      (s.pre.gsize.toNat ≤ rank → Raises (.fwr g a b c) s (slotTrap s .rankRange 0)) ∧
      (rank < s.pre.gsize.toNat → x.toNat % 64 = 0 → (engAddrOf y).num % 64 = 0 →
        footprintBad s.pre [(engAddrOf y, 64 * fabLines z)] = none →
        firstDiff s.pre [(engAddrOf y, 64 * fabLines z)] = none →
        StartsFabric (.fwr g a b c) s g x y z rank)) ∧
    (rank < s.pre.gsize.toNat →
      (x.toNat < 2 ^ 48 → famoOk z = true → x.toNat % atomWidth (z.getLsbD 16) = 0 →
        StartsFabric (.famo g a b c) s g x y z rank) ∧
      (x.toNat < 16 → bitsOf z.toNat 11 53 = 0 → engAddrOk s.pre.level y = true → (engAddrOf y).num % 64 = 0 →
        footprintBad s.pre [(engAddrOf y, 64)] = none → firstDiff s.pre [(engAddrOf y, 64)] = none →
        StartsFabric (.freq g a b c) s g x y z rank) ∧
      (bitsOf z.toNat 11 53 = 0 → engAddrOk s.pre.level x = true → (engAddrOf x).num % 64 = 0 →
        footprintBad s.pre [(engAddrOf x, 64)] = none → firstDiff s.pre [(engAddrOf x, 64)] = none →
        StartsFabric (.flnch g a c) s g x 0 z rank))

/-- R118, R125, R387-R391. In a partition that owns a sequencer: TTSET loads the next sequence number's descriptor into
its entry, TRDY sets it going, RCUT cuts a reduction with a deadline or ends the entry, RPICK asks for the pickup,
RSTAT reads the entry. An entry that is absent, or not in the state its instruction asks for, is COLL_ENTRY. The
model's choices behind it: log entry 27. -/
def Obligations.CollectiveInstructionsActOnTheirEntry : Prop :=
  ∀ (s s1 s2 : State) (a b : SSpec) (w : WReg) (x y : Word) (h : s.pre.part < 17),
    readS s a 0 = .ok x s1 → readS s1 b 1 = .ok y s2 → s.parts[s.pre.part].seqs ≠ 0 → x.toNat < 256 →
    let part := s.pre.part
    let idx := x.toNat
    let last := SMap.get 0xFFFFFFFF (s.partRt part).lastSeq idx
    Runs (.rstat w a) s (s1.result (rstatWord (s.tileEntry part idx)) 64 w) ∧
    (s.tileEntry part idx = none → Raises (.trdy a) s (slotTrap s .collEntry 0) ∧
      Raises (.rcut a) s (slotTrap s .collEntry 0) ∧ Raises (.rpick a) s (slotTrap s .collEntry 0)) ∧
    (∀ e, s.tileEntry part idx = some e →
      (e.fired = true → Raises (.trdy a) s (slotTrap s .collEntry 0)) ∧
      (e.fired = false → ∃ u e', Runs (.trdy a) s (u.collRun part idx) ∧ SameMemory s u ∧ OnlyCores s { u with rt := s.rt } ∧
        u.tileEntry part idx = some e' ∧ e'.fired = true ∧ e'.state = max e.state 1 ∧ e'.seq = e.seq ∧ e'.desc = e.desc ∧
        e'.start = s.activeOf s.pre.launch ∧ e'.core = s.issue.core) ∧
      (e.running = true → Runs (.rcut a) s (if e.op = opReduce ∧ e.sched = 1 ∧ e.deadline ≠ 0 then
          (if e.sent then s1 else s1.cutSlots part e) else s1.collFail part idx rsAborted 0)) ∧
      (e.running = false → Raises (.rcut a) s (slotTrap s .collEntry 0)) ∧
      (e.state = 2 ∨ e.state = 3 → ∃ u, Runs (.rpick a) s (u.collRun part idx) ∧ SameMemory s u ∧
        u.tileEntry part idx = some { e with rpicks := e.rpicks + 1 }) ∧
      (e.state ≠ 2 → e.state ≠ 3 → Raises (.rpick a) s (slotTrap s .collEntry 0))) ∧
    (∀ d, d = s.pre.spill.readBytes y.toNat 64 → y.toNat + 64 ≤ s.pre.spillLimit → y.toNat % 64 = 0 →
      s.pre.failedWord .spill y.toNat 64 = none →
      fieldLE d 4 4 = (last + 1) % 2 ^ 32 → (∀ e, s.tileEntry part idx = some e → 2 ≤ e.state) → descOk d = true →
      (∀ r ∈ sendsTo (fieldLE d 0 1) (fieldLE d 1 1) s.pre.gsize.toNat s.pre.rank.toNat,
        seqReach s part (memberOf s s.pre.launch part r).1 = true) →
      (∀ p ∈ (s.partRt part).early, fieldLE (p.flits.headD []) 4 1 = idx →
        p.opnd.toNat ≠ fieldLE d 4 4) →
      ∃ u e', Runs (.ttset a b) s (u.collRun part idx) ∧ SameMemory s u ∧ OnlyCores s { u with rt := s.rt } ∧
        u.tileEntry part idx = some e' ∧ e'.desc = d ∧ e'.seq = fieldLE d 4 4 ∧ e'.dchk = crc32c (d.take 48) ∧
        e'.state = 0 ∧ e'.fired = false ∧ (u.partRt part).lastSeq = SMap.set 0xFFFFFFFF (s.partRt part).lastSeq idx (fieldLE d 4 4))
/-! ### Cores and memory between bundles -/

/-- R139, R143, R262-R264. A step runs the instruction that its bytes decode to. Where a core that stands alone at a
bundle of one slot is next, and the slot's word with its literal decodes to `i`, the step is `exec i` at the opened
bundle, and then the bundle's close: the pc moves past its words unless `i` transferred. Where the agenda holds a
step, that step is run with what its surroundings put in; an empty agenda gives the next core its turn. The model's
choices behind it: log entries 7, 8. -/
def Obligations.StepRunsDecodedInstruction : Prop :=
  ∀ (s : State), s.boot.powered = true →
    (∀ e rest, s.agenda = e :: rest → step s = exec e.instr { s with agenda := rest, inp := e.inp }) ∧
    (∀ c, s.agenda = [] → nextCore s = some c →
      step s = exec (.bundleIssue c) { s with turn := c.val + 1, inp := (issueOf c).inp }) ∧
    ∀ (c : Fin 256) (rest : List Event) (w : SlotWord) (i : Instr) (u : State), s.agenda = issueOf c :: rest →
      let r : State := ({ s with agenda := rest, inp := (issueOf c).inp } : State).holdSave c
      let b := bundleAt r c
      let o := r.openBundle c b [(w.slot, i)]
      IssuesNow r c → ((r.coreAt c).level = .h → failedCode r b = none) → xorBytes b.words = hdChk b.head → hdReserved b.head = false → hdTnd b.head ≠ 2 →
      (hdBrk b.head = true → (r.coreAt c).brkSkip = true) → b.slots = [w] →
      decodeSlot (Slot.cls w.slot) w.word w.lit = .ok i → (encode i).isSome = true →
      (isAccess i = true → acquiring r c = false) → engineTrap (r.coreAt c) (bundlePops o) = none →
      exec i { o with issue := { o.issue with slot := w.slot } } = .next u → u.issue.result = .ok →
      step s = .next (((u.closeBundle b).mark .ok).stopAtSp b c) ∧
      (u.issue.core = c → ((u.closeBundle b).coreAt c).pc =
        if u.issue.taken then (u.coreAt c).pc else u.issue.pre.pc + BitVec.ofNat 64 (4 * b.len))

/-- R10, R143, R152-R154, R248, R297, R309-R312, R417. A core's cycle without a bundle: an idle core does nothing, an
ending one is counted, a gated one is held, a handler's entry and a YIELD count down, late data holds, a failed access
or a fetch cause refuses the bundle due, a folded bundle passes an empty cycle. TRAP_ENTRY takes the refused cause.
What ends a hold lets the core go on: the code lines, the count or event of a YIELD, an event of WFI, the meeting of
REJOIN, the fence's conditions, the completion of TLBINV and SCRUB; a pending stop halts the core. The model's choices
behind it: log entries 5, 7, 19, 40. -/
def Obligations.CoreCyclesAndHolds : Prop :=
  ∀ (s : State) (c : Fin 256), let k := s.coreAt c
    (k.run ≠ .running → k.run ≠ .ending → Runs (.bundleIssue c) s s) ∧
    (k.run = .ending → Runs (.bundleIssue c) s (s.busyCycle c)) ∧
    (k.run = .running → k.joined = false →
      let h := s.holdSave c
      (s.cycle % gateOf s c ≠ 0 → Runs (.bundleIssue c) s ((h.mapCore c (·.gatedCycle)).heldCycle c)) ∧
      (s.cycle % gateOf s c = 0 →
        (0 < k.entryWait → Runs (.bundleIssue c) s ((h.mapCore c (·.entryCycle)).busyCycle c)) ∧
        (k.entryWait = 0 → k.skip = 0 → ∀ n, k.wait = some (.yield n) → RunsTo (.bundleIssue c) s fun t =>
          (t.coreAt c).wait = (if n ≤ 1 then none else some (.yield (n - 1))) ∧ (t.coreAt c).holdCyc = k.holdCyc + 1 ∧
          (t.coreAt c).clk = k.clk ∧ OtherThan s t c) ∧
        (k.entryWait = 0 → isYield k.wait = false →
          (k.lateLoad = true → Runs (.bundleIssue c) s (h.holdOn c .data)) ∧
          (k.lateLoad = false → ∀ t, accessCause k = some t → RunsTo (.bundleIssue c) s fun u => ∃ n,
            u.issue.result = .refused [⟨c, t, n⟩] ∧ u.agenda = ⟨.trapEntry, Input.reset⟩ :: s.agenda) ∧
          (k.lateLoad = false → accessCause k = none → k.skip ≠ 0 → engineTrap (h.coreAt c) (fun _ => 0) = none →
            Runs (.bundleIssue c) s ((h.mapCore c (·.emptyCycle)).busyCycle c) ∧
            (k.level ≠ k.base → k.emptyCycle = { k with clk := k.clk + 1, skip := k.skip - 1 }))))) ∧
    (∀ t, let h := s.holdSave c
      IssuesNow h c → fetchBundle h (h.coreAt c) (bundleAt h c) = .error t → engineTrap (h.coreAt c) (fun _ => 0) = none →
      RunsTo (.bundleIssue c) s fun u => u.issue.result = .refused [⟨c, t, (bundleAt h c).len⟩] ∧
        u.agenda = ⟨.trapEntry, Input.reset⟩ :: s.agenda ∧ SameMemory s u) ∧
    (∀ t blen l cause info, s.issue.result = .refused [⟨c, t, blen⟩] → t.cause ≠ .fabricTimeout →
      k.trapTo t = .handler l cause info → RunsTo .trapEntry s fun u =>
        u.coreAt c = k.enter l cause t.slot info blen ∧ OtherThan s u c ∧ SameMemory s u ∧ u.issue.result = .ok) ∧
    (∀ n why, k.wait = some (.yield n) → Runs (.yieldEnd c why) s (
      if why = .count ∧ 1 < n then s else match yieldStop k with
        | some off => s.haltGroup c off
        | none => s.mapCore c fun k => { k with wait := none })) ∧
    (∀ n ev, k.wait = some (.wfi n) → Runs (.wfiWake c ev) s
      (s.mapCore c fun k => { k with answer := some (k.answer.getD 0 ||| ev.setWidth 64) })) ∧
    (∀ e ws, k.walks = e :: ws → RunsTo (.tlbWalkDone c) s fun t => (t.coreAt c).walks = ws ∧ e.entry ∈ (t.coreAt c).l1tlb ∧
      e.entry ∈ t.l2tlb[quadOf c] ∧ OtherThan s t c ∧ SameMemory s t) ∧
    (∀ q : Fin 64, (∀ d ∈ coresOfQuad q, (s.coreAt d).rejoin = true ∧ (s.coreAt d).wait = some .rejoin) →
      RunsTo (.rejoinMeet q) s fun t => (∀ d ∈ coresOfQuad q, (t.coreAt d).rejoin = false ∧ (t.coreAt d).wait = none) ∧
        ((∀ d ∈ coresOfQuad q, ∀ e ∈ coresOfQuad q, (s.coreAt d).pc = (s.coreAt e).pc) →
          ∀ d ∈ coresOfQuad q, (t.coreAt d).joined = true ∧ (t.coreAt d).pc = (s.coreAt d).pc) ∧
        ((∃ d ∈ coresOfQuad q, ∃ e ∈ coresOfQuad q, (s.coreAt d).pc ≠ (s.coreAt e).pc) →
          ∀ d ∈ coresOfQuad q, (t.coreAt d).joined = false)) ∧
    (s.inp.core = c →
      (k.wait = some .fetch → RunsTo .fetchLinesArrive s fun t => (t.coreAt c).wait = none ∧
        fetched (t.coreAt c) (bundleAt s c) = true ∧ OtherThan s t c ∧ SameMemory s t) ∧
      (∀ off, stopPoint s c = some off → k.joined = false →
        (k.stop = some .noSave → RunsTo .coreStop s fun t => (t.coreAt c).run = .dead ∧ (t.coreAt c).stop = none) ∧
        (∀ l, k.stop = some .save → k.launch.bind s.launchById = some l → l.fault = none →
          RunsTo .coreStop s fun t => (t.coreAt c).run = .stopped ∧ (t.coreAt c).stop = none ∧
            (t.coreAt c).stopAt = off ∧ OtherThan s t c)) ∧
      (∀ sc kd, fenceAt s c = some (sc, kd) → fenceMet s c kd.toNat sc.toNat = true →
        let u := if sc = 0 then s else s.mapCore c (·.mergeAll)
        let v := if 5 ≤ sc.toNat then u.applyCore c else u
        Runs .fenceRelease s (v.mapCore c fun k => { k with wait := none })) ∧
      (∀ a b, k.wait = some (.tlbinv 0 a b) →
        let u := s.invalidate a.toNat 0 (2 ^ 39)
        Runs .tlbinvComplete s (if tlbinvQuiet u c then u.mapCore c fun k => { k with answer := some 0 } else u)) ∧
      (∀ q u, k.wait = some (.scrub q) → quadOf c ≠ Fin.ofNat 64 q → q < 64 → scrubPumps s q = .ok u →
        RunsTo .scrubComplete s fun t => (t.coreAt c).answer = some 0 ∧ t.mem = u.mem ∧
          ∀ d ∈ coresOf [q], (t.coreAt d).spad = [] ∧ (t.coreAt d).l1tlb = [] ∧
            (t.coreAt d).writers = Vector.replicate 32 none))

/-- R22, R90, R91, R143, R166, R170, R171, R193-R204, R417. What the homes do for the accesses under way. A best-effort
access that finds too few tokens at a channel waits there; an access that is not ready stays. A write that is ready is
performed once the line's combining entries are applied and L2 and the channel have taken part: a store lays its bytes at
its address, as its owner tag sees it, and nowhere else; an atomic that answers writes its new value and answers the old
one. A read that is ready answers what its tag sees there. An answer reaches its core: the take that its load claimed,
while it stands, gets the value. A failed access reaches its core as a cause and is not performed; a failed word of the
core's own arrays fails. A wait that ends counts in event 9. The model's choices behind it: log entries 9, 15, 38. -/
def Obligations.HomesPerformServeAndAnswer : Prop :=
  ∀ (s : State) (id : Nat) (o : MemOp), memOpOf s id = some o →
    let u := (s.applyLine o.dpa).access o.req o.dpa o.side o.use
    (o.ready s = true → ∀ ch, tokenShort s o none = some ch →
      (o.writes = true → Runs (.writePerform id) s (s.waitToken o ch)) ∧
      (o.loads = true → Runs (.readServe id) s (s.waitToken o ch))) ∧
    (o.ready s = false → Runs (.writePerform id) s s ∧ Runs (.readServe id) s s) ∧
    (o.ready s = true → tokenShort s o none = none → o.win = none → sideFault s o.tag o.dpa o.side = none →
      (∀ bs, o.kind = .store bs → o.tape = none → RunsTo (.writePerform id) s fun t =>
        t.memq = s.memq.filter (·.id ≠ o.id) ∧ StoredFor u t o.tag o.dpa o.side bs) ∧
      (∀ op w32 b comm, o.kind = .amo op w32 b true comm →
        let n := atomWidth w32
        let old := u.lookLE o.tag o.dpa n o.side
        RunsTo (.writePerform id) s fun t => (∃ p ∈ t.memq, p.id = o.id ∧
          p.result = some (extend n w32 old, s.perf[o.home])) ∧
          StoredFor u t o.tag o.dpa o.side (natToBytes n (amoNew op (8 * n) old b.toNat))) ∧
      (∀ w32 b e, o.kind = .cas w32 b e →
        let n := atomWidth w32
        let old := u.lookLE o.tag o.dpa n o.side
        RunsTo (.writePerform id) s fun t => (∃ p ∈ t.memq, p.id = o.id ∧
          p.result = some (extend n w32 old, s.perf[o.home])) ∧
          StoredFor u t o.tag o.dpa o.side (natToBytes n
            (if old = e.toNat % 2 ^ (8 * n) then b.toNat % 2 ^ (8 * n) else old))) ∧
      (∀ len sx, o.kind = .load len sx → RunsTo (.readServe id) s fun t => SameMemory u t ∧
        ∃ p ∈ t.memq, p.id = o.id ∧
          p.result = some (extend len sx (u.lookLE o.tag o.dpa len o.side), s.perf[o.home]))) ∧
    (o.ready s = true → tokenShort s o none = none → ∀ f, sideFault s o.tag o.dpa o.side = some f → o.win = none →
      o.tape = none → ∀ bs, o.kind = .store bs → (s.coreAt o.core).run ≠ .stopped →
      RunsTo (.writePerform id) s fun t => SameMemory s t ∧ t.memq = s.memq.filter (·.id ≠ o.id) ∧
        (t.coreAt o.core).late = (s.coreAt o.core).late ++ [(f, o.va)]) ∧
    (∀ v clk l, o.result = some (v, clk) → o.bad = none → (s.coreAt o.core).run ≠ .stopped →
      (s.coreAt o.core).loads.find? (·.id = o.id) = some l → RunsTo (.loadDataArrive o.core id) s fun t =>
        t.memq = s.memq.filter (·.id ≠ o.id) ∧ SameMemory s t ∧ OtherThan s t o.core ∧
        ((t.coreAt o.core).bank l.level).takes = ((s.coreAt o.core).bank l.level).takes.map (fun e =>
          if e.seq = l.seq ∧ e.load.isSome then { e with val := v, load := none } else e)) ∧
    (∀ why, why = .uncorrectable ∨ why = .checkFail → o.onPath = false → o.result = none →
      (s.coreAt o.core).run ≠ .stopped →
      RunsTo (.uncorrectableReport o.core id why) s fun t => SameMemory s t ∧
        (o.win = none → sideFault t o.tag o.dpa o.side = some (LateFault.cause why)) ∧
        (o.returns = false → (t.coreAt o.core).late = (s.coreAt o.core).late ++ [(LateFault.cause why, o.va)]) ∧
        (o.returns = true → ∀ l, (s.coreAt o.core).loads.find? (·.id = o.id) = some l →
          ∃ l' ∈ (t.coreAt o.core).loads, l'.id = o.id ∧ l'.err = some (LateFault.cause why))) ∧
    (∀ (c : Fin 256) (a : CoreArray) (n : Fin 8192), n.val < CoreArray.words a → a ≠ .shadow →
      RunsTo (.uncorrectableReport c id (.word a n)) s fun t => SameMemory s t ∧ OtherThan s t c ∧
        (t.coreAt c).failedWord a (4 * n.val) 4 = some (4 * n.val)) ∧
    (∀ ch (part : Fin 16) since, tokenTurn s ch (part.val + 1) = some (id, since) →
      let u := (s.updQos ch (part.val + 1) fun q => { q with waiting := q.waiting.drop 1 }).countCtx o.launch o.core 9
        (s.cycle - since)
      Runs (.tokenWaitEnd ch part) s (match tokenShort u o (some ch) with
        | some x => u.waitToken o x
        | none => if o.writes then u.perform o else u.serveRead o))

/-- R23, R115, R144, R161-R165, R171, R201, R330, R331, R363-R365, R369-R371, R381. Beside the homes: a broadcast shows a die's
performed prefix to every die; a combining entry of age is applied; an idle row closes; a polder's pump ends its hold, and
leaves an uncorrectable line unwritten and logged;
a stream reads a vector ahead or writes its oldest; a command runs to its completion, or a parked one on; a message
reaches its ring and advances MQ_TAIL; a credit returns; a barrier operation is applied, and an answer reaches its
waiter. The model's choices behind it: log entry 15. -/
def Obligations.MemorySideStepsAct : Prop :=
  ∀ (s : State) (c : Fin 256), let k := s.coreAt c
    (∀ d, RunsTo (.perfBroadcast d) s fun t => (∀ e : Fin 4, (t.perf[e])[d] = performedPrefix s d) ∧
      (∀ e f : Fin 4, f ≠ d → (t.perf[e])[f] = (s.perf[e])[f]) ∧ SameMemory s t) ∧
    (∀ ch, RunsTo (.combiningEntryApply ch) s fun t => (∀ e ∈ t.comb[ch], s.cycle < e.since + combineAge) ∧
      t.mem = ((s.comb[ch]).filter fun e => decide (e.since + combineAge ≤ s.cycle)).foldl (fun m e =>
        let n := atomWidth e.key.w32
        match e.key.op with
        | some op => m.writeBytes e.key.dpa (natToBytes n (amoNew op (8 * n) (m.readLE e.key.dpa n) e.val.toNat))
        | none => m) s.mem) ∧
    (∀ ch b, Runs (.dramRowClose ch b) s (if rowIdle s ch b then
      { s with openRows := SMap.set 0 s.openRows (32 * ch.val + b.val) 0 } else s)) ∧
    (∀ p off lost u, k.wait = some (.polder p off) → (s.findLost c p lost).pump c p = .ok u →
      RunsTo (.polderPumpDone c p lost) s fun t =>
        (t.coreAt c).wait = none ∧ t.mem = u.mem ∧ (t.coreAt c).spad = (u.coreAt c).spad) ∧
    (∀ l a p n, failedIn k p = [n] →
      (∀ i < 64, (pumpLines s c l a p).peekByte l.part (a + 64 * (n % 1024) + i) =
        s.peekByte l.part (a + 64 * (n % 1024) + i)) ∧
      (∀ m < 1024, m ≠ n % 1024 → ∀ i < 64,
        (pumpLines s c l a p).peekByte l.part (a + 64 * m + i) = k.spad.read (65536 * p + 64 * m + i)) ∧
      ∃ e, ((pumpLines s c l a p).flog[(0 : Fn)]).head? = some e ∧ e.cause = .uncorrectable ∧ e.addr = spadInfo (64 * n)) ∧
    (∀ n, refillReady s c n = true → RunsTo (.streamRefill c n) s fun t => OtherThan s t c ∧ SameMemory s t ∧
      let st := k.streams[n]
      (t.coreAt c).streams[n] = { st with moved := st.moved + 1, next := s.cycle + 1,
                                          buf := st.buf ++ [⟨loadVector k.spad st st.moved, 0, 0, 0⟩] }) ∧
    (∀ n v rest, drainReady s c n = true → (k.streams[n]).buf = v :: rest → RunsTo (.streamDrain c n) s fun t =>
      OtherThan s t c ∧ SameMemory s t ∧ (t.coreAt c).spad = (k.storeVector k.streams[n] (k.streams[n]).moved v).spad ∧
      ((t.coreAt c).streams[n]).buf = rest ∧ ((t.coreAt c).streams[n]).moved = (k.streams[n]).moved + 1) ∧
    (∀ g e m, let mine := s.cmds.filter fun m => m.core = c && m.canRun s
      mine.find? (·.tag = some g) = some m ∨ mine.find? (·.tag = some g) = none ∧ mine.find? (·.tag.isNone) = some m →
      let n : EngCmd := { m with waitAt := none }
      Runs (.copyComplete c g e) s (match e with
        | .ok => s.runCmd n
        | .uncorrectable b => (s.failSource n b 1).runCmd n
        | .checkFail b => (s.failSource n b 2).runCmd n
        | .aborted => s.finishCmd n stAborted n.bar)) ∧
    (∀ g m, s.cmds.find? (fun m => m.core = c && m.tag = some g && m.parked && m.ready s) = some m →
      Runs (.parkedRetry c g) s (if isFabric m.op then s.injectNext m else s.runCmd { m with waitAt := none })) ∧
    (∀ (m : EngCmd) st g, s.cmds.find? (·.id = m.id) = some m → m.tag = some g → (s.coreAt m.core).launch = m.launch →
      (s.coreAt m.core).tags[g] = .busy false →
      ((s.completeCmd m.id st).coreAt m.core).tags[g] = .done st ∧
      (s.completeCmd m.id st).cmds = s.cmds.filter (·.id ≠ m.id)) ∧
    (s.inp.core = c →
      (∀ o tgt bytes cmd u, nextMessage s c = some o → o.kind = .msg tgt bytes cmd →
        touchesBarrier k.hdr (k.mqOffset k.mqTail.toNat) 64 = false →
        s.pump c (Fin.ofNat 32 (k.mqOffset k.mqTail.toNat / 65536)) = .ok u →
        RunsTo .messageDelivery s fun t => (t.coreAt c).mqTail = (u.coreAt c).mqTail + 1 ∧
          (t.coreAt c).spad.readBytes (k.mqOffset k.mqTail.toNat) bytes.length = bytes ∧
          t.memq = u.memq.filter (·.id ≠ o.id)) ∧
      (∀ r, nextCredit s c = some r → k.launch = r.launch → RunsTo .creditReturn s fun t =>
        t.credRet = s.credRet.erase r ∧ OtherThan s t c ∧
        (t.coreAt c).credits = setAt k.credits r.target (k.credits.getD r.target 0 + 1)) ∧
      (∀ o v, nextBarOp s c = some o → o.kind = .wake v → k.launch = o.launch → ∀ r p, k.wait = some (.barrier r p) →
        RunsTo .barrierApply s fun t => (t.coreAt c).answer = some v ∧ (t.coreAt c).rc = Clk.max k.rc o.clk ∧
          t.memq = s.memq.filter (·.id ≠ o.id)) ∧
      (∀ o own index op off u, nextBarOp s c = some o → o.kind = .bar own index op →
        barrierOff (s.ctxOf o.launch c).hdr index = some off → s.pumpAs c (Fin.ofNat 32 (off / 65536)) o.launch = .ok u →
        Runs .barrierApply s (if ((u.coreAt c).failedLine off 64).isSome then u.failBar o c off op
          else u.applyBar o c index off op))) ∧
    (∀ (o : MemOp) (index off n : Nat) (clk : Clk), k.launch = o.launch → let b := readBarLine k.spad off
      b.state = 1 → 0 < b.target →
      let t := s.addUnits o.launch c index off n clk
      SameMemory s t ∧ readBarLine (t.coreAt c).spad off =
        if b.count + n < b.target then { b with count := b.count + n }
        else { b with count := (b.count + n) % b.target, phase := (b.phase + (b.count + n) / b.target) % 2 ^ 32
                      waiters := b.waiters - (k.waiters.filter fun w => w.barrier = index &&
                        w.phase.toNat ≠ (b.phase + (b.count + n) / b.target) % 2 ^ 32).length })

/-! ### The fabric -/

/-- R28, R32-R40, R67, R90, R91, R113, R125, R133. A packet at its destination. A WRITE lays its lines down under their
byte enables and changes no other byte; an ATOMIC replaces its operand and nothing else; a request enters its ring and
advances TAIL; a launch record is queued, or refused with reason 1 where no permission matches; blocks reach the
sequencer. What is accepted is acknowledged; what finds its channel busy waits. A packet with a failed header check
vanishes; what fails another check is dropped with its reason. The model's choices behind it: log entries 15, 21, 38. -/
def Obligations.PacketsAtTheirDestination : Prop :=
  ∀ (s : State) (p : Packet), let part := p.dfn.toNat
    (∀ ps, ArrivesHere s p → LinesReady s p ps →
      let w := s.packetWalks part p.addr.toNat ps.length
      (p.type = 0x01 →
        Accepts .writePacket s p (fun _ t => t = (w.writeLines part ps p.be p.flits).settle p .applied) ∧
        ∀ (ph : Phys) m bs, let side : Bool := ph.mtype ≠ 0
          ps = [ph] → p.be = [m] → p.flits = [bs] → (m = BitVec.allOnes 64 ∨ sideFault w part ph.addr side = none) →
          let u := (w.applyLine ph.addr).access (pktReq part) ph.addr side (maskUse m)
          Accepts .writePacket s p fun _ t => StoredFor u t part ph.addr side ((List.range 64).map fun i =>
            if m.getLsbD i then bs.getD i 0 else (u.look part ph.addr 64 side).getD i 0)) ∧
      (∀ op o (ph : Phys), p.type = 0x02 → ps = [ph] → amoOf (bitsOf p.opnd.toNat 0 4) = some op →
        let n := atomWidth (p.opnd.getLsbD 4)
        let a := ph.addr + o
        let side : Bool := ph.mtype ≠ 0
        let v := fieldLE (p.flits.headD []) o n
        atomicAt (p.be.headD 0) n = some o → (amoFloat op = true → p.opnd.getLsbD 4 = true) →
        sideFault w part a side = none →
        if p.opnd.getLsbD 5 && amoCombines op && ph.mtype = 1 then
          Accepts .atomicPacket s p fun _ t =>
            t = (w.combineBy none ⟨a, some op, p.opnd.getLsbD 4, part⟩ op v).settle p .applied
        else
          let u := (w.applyLine a).access (pktReq part) a side .atomic
          Accepts .atomicPacket s p fun _ t =>
            StoredFor u t part a side (natToBytes n (amoNew op (8 * n) (u.lookLE part a n side) v))) ∧
      (∀ (h : part < 17) (ctl rec_ : Phys) bs, p.type = 0x03 → p.flits = [bs] → bs.length = 64 →
        let base := ((s.fns[part]).rqbase.toList.getD (bitsOf p.addr.toNat 0 4) 0).toNat
        let side : Bool := ctl.mtype ≠ 0
        let rside : Bool := rec_.mtype ≠ 0
        let used := accessChans w (pktReq part) ctl.addr side .atomic
        base ≠ 0 → packetLines w part .write base 1 = .ok [ctl] → ctl.diff = false → busyChan w part used = none →
        sideFault w part ctl.addr side = none →
        let u := w.applyLine ctl.addr
        let head := u.lookLE part ctl.addr 8 side
        let tail := u.lookLE part (ctl.addr + 8) 8 side
        let size := u.lookLE part (ctl.addr + 16) 4 side
        packetLines w part .write (base + 64 * (1 + tail % size)) 1 = .ok [rec_] → rec_.diff = false → 16 ≤ size →
        size ≤ 65536 → 2 ^ Nat.log2 size = size → (tail + 2 ^ 64 - head) % 2 ^ 64 < size →
        busyChan w part (used ++ accessChans w (pktReq part) rec_.addr rside .full) = none →
        let x := (u.applyLine rec_.addr).access (pktReq part) rec_.addr rside .full
        let v := u.writeLine part rec_ (BitVec.allOnes 64) bs
        StoredFor x v part rec_.addr rside bs ∧
        Accepts .reqPacket s p fun _ t => StoredFor (v.access (pktReq part) ctl.addr side .atomic) t part (ctl.addr + 8) side
          (natToBytes 8 ((tail + 1) % 2 ^ 64))) ∧
      (p.type = 0x04 → let r := p.flits.headD []
        (lpermFor s part p.src.toNat p.sfn.toNat (fieldLE r 0 2) = none →
          Accepts .launchPacket s p fun _ t => t = s.settle p (.refused 0x01) ∧ t.launches = s.launches) ∧
        ∀ e, lpermFor s part p.src.toNat p.sfn.toNat (fieldLE r 0 2) = some e → recordReason s part e.maxPrio r = none →
          ((waitingIn s part isInbox).filter fun l => !l.entered).length < 16 →
          Accepts .launchPacket s p fun _ t => t.launches = s.launches ++ [launchOfRecord s part .inbox r []]) ∧
      (ps ≠ [] → (ownedSeqs s part).isEmpty = false →
        let done (port : Fin 21) : State := (w.collArrive part p port fun s =>
          s.writeLines part ps (p.be.drop 1) (p.flits.drop 1)).settle p .applied
        (p.type = 0x05 → Accepts .reducePacket s p fun port t => t = done port) ∧
        (p.type = 0x06 → Accepts .pickupPacket s p fun port t => t = done port))) ∧
    (∀ port, ComesUp s p →
      (p.hccOk = false → Runs (.dataPacketAccept port p) s s) ∧
      (p.hccOk = true → p.flitsOk = false →
        RunsTo (.dataPacketAccept port p) s fun t => DropLeaves s t p dropCheck ∧ SameMemory s t) ∧
      (p.hccOk = true → p.flitsOk = true → typeAllowed p.cls.toNat p.type.toNat = false →
        RunsTo (.dataPacketAccept port p) s fun t => DropLeaves s t p dropBadtype ∧ SameMemory s t) ∧
      (p.hccOk = true → p.flitsOk = true → typeAllowed p.cls.toNat p.type.toNat = true →
        ((part = 0 ∨ 17 ≤ part ∨ ∃ h : part < 17, (s.parts[part]).exists_ = false) →
          RunsTo (.dataPacketAccept port p) s fun t => DropLeaves s t p dropNoFunction ∧ SameMemory s t) ∧
        (part ≠ 0 → (∃ h : part < 17, (s.parts[part]).exists_ = true) → residentGang s part p.gang = false →
          (s.gangDef part p.gang = none →
            RunsTo (.dataPacketAccept port p) s fun t => DropLeaves s t p dropForeign ∧ SameMemory s t) ∧
          ∀ d u, s.gangDef part p.gang = some d → spillWaits s part d = none → spill s part d p = .ok u →
            Runs (.dataPacketAccept port p) s (u.settle p .captured)))) ∧
    (∀ port, ArrivesHere s p →
      (∀ x, packetLines s part (if p.type = 0x02 then .atomic else .write) p.addr.toNat (lineCount p) = .error x →
        RunsTo (.dataPacketAccept port p) s fun t => DropLeaves s t p dropXlate ∧ SameMemory s t) ∧
      ∀ ps, LinesAt s p ps →
        (ps.any (·.diff) = true →
          RunsTo (.dataPacketAccept port p) s fun t => DropLeaves s t p dropDiff ∧ SameMemory s t) ∧
        ∀ ch, ps.any (·.diff) = false → busyChan s part (packetChans s part p ps) = some ch →
          RunsTo (.dataPacketAccept port p) s fun t => SameMemory s t ∧ ∃ a, t.arrivals = s.arrivals ++ [a] ∧
            a.due = s.cycle + 1 ∧ a.chan = some ch ∧ a.ev.instr = .dataPacketAccept port p)

/-- R30-R34, R39, R40, R42, R110, R118, R119, R132, R133, R382, R386. A packet leaves and its fate returns. The next
packet of a command takes its place at its port, sealed, with its lines, its destination and the PSEQ of its stream. A
packet for another module goes on with its HOP raised, and is dropped after its fourth hop. An ACK and a DROP take the
packets that they name off the list; an ACK in progress leaves after 256 cycles; a refusal becomes its command's status;
a count of 200 us without an answer is cleared. A CUT climbs to rank 0 or is noted there; a deadline cuts the slots not
delivered. The model's choices behind it: log entries 21, 34, 42. -/
def Obligations.PacketsLeaveAndAreAnswered : Prop :=
  ∀ (s : State), let c := s.inp.ctl
    (∀ w, nextHeld s = some w → gangHeld s w.part w.pkt.gang = false →
      let u : State := { s with fabric := { s.fabric with held := s.fabric.held.erase w } }
      ∀ t, u.transmit w = .ok t → Runs .packetInject s t) ∧
    (∀ m lines u n, nextHeld s = none → nextInject s s.inp.core = some m →
      packetSource s m (fabSource m m.moved).1 (fabSource m m.moved).2 = .ok (lines, u) →
      let dst := (memberOf u m.launch m.part (fabRank m)).1
      let body := fabBody m m.moved lines
      let gang := (u.ctxOf m.launch m.core).gang
      dst < 2048 → dst ≠ selfMod u → gangHeld u m.part gang = false → (∀ w ∈ u.fabric.held, w.pkt.gang ≠ gang) →
      routePort u (BitVec.ofNat 2 (fabClass m)).toNat dst = some n → Port.use u.fabric.ports[n] = .ready →
      (∃ h : m.part < 17, (u.parts[m.part]).ports.getLsbD n.val = true) →
      RunsTo .packetInject s fun t => ∃ p,
        (t.fabric.ports[n]).queue = (u.fabric.ports[n]).queue ++ [⟨20, 0, s.cycle + 60, p⟩] ∧ p.dst.toNat = dst ∧
        p.type = BitVec.ofNat 8 body.1 ∧ p.addr = BitVec.ofNat 64 body.2.1 ∧ p.be = body.2.2.2.1 ∧
        p.flits = body.2.2.2.2 ∧ p.hccOk = true ∧ p.flitsOk = true ∧
        p.pseq = BitVec.ofNat 32 (SMap.get 0 u.fabric.streams (streamKey dst (fabClass m) m.part))) ∧
    (∀ (vc : Fin 6) (p : Packet) n, vc.val < 4 → p.dst.toNat ≠ selfMod s → p.hccOk = true → p.flitsOk = true →
      typeAllowed p.cls.toNat p.type.toNat = true →
      routePort s p.cls.toNat p.dst.toNat = some n → Port.use s.fabric.ports[n] = .ready →
      RunsTo (.packetForward vc p) s fun t => (t.fabric.ports[n]).queue = (s.fabric.ports[n]).queue ++
        [⟨s.inp.port, Fin.ofNat 5 (vc.val + 1), s.cycle + 30, p.atHop (vc.val + 1)⟩] ∧ SameMemory s t) ∧
    (∀ (p : Packet), p.dst.toNat ≠ selfMod s → p.src.toNat ≠ selfMod s → p.hccOk = true → p.flitsOk = true →
      typeAllowed p.cls.toNat p.type.toNat = true →
      RunsTo (.packetForward 4 p) s fun t => DropLeaves s t p dropHops ∧ SameMemory s t) ∧
    (∀ (vc : Fin 5) (p : Packet), p.dst.toNat ≠ selfMod s → p.src.toNat ≠ selfMod s → p.hccOk = true → p.flitsOk = true →
      typeAllowed p.cls.toNat p.type.toNat = false →
      RunsTo (.packetForward vc.castSucc p) s fun t => DropLeaves s t p dropBadtype ∧ SameMemory s t) ∧
    (∀ (p : Packet) n, c.dst.toNat ≠ selfMod s → routePort s 3 c.dst.toNat = some n → c.cccOk = true →
      ctypeKnown c = true → c.hop.toNat < 4 → Port.use s.fabric.ports[n] = .ready →
      RunsTo (.packetForward 5 p) s fun t => (t.fabric.ports[n]).ctlQueue = (s.fabric.ports[n]).ctlQueue ++
        [⟨s.inp.port, s.inp.last, s.cycle + 12, c.atHop (c.hop.toNat + 1)⟩] ∧ SameMemory s t) ∧
    (∀ r, ctlHere s c 0x01 = true → bitsOf c.arg16.toNat 8 8 = 1 →
      s.fabric.sent.find? (·.is c.src.toNat (bitsOf c.arg16.toNat 0 5) (bitsOf c.arg16.toNat 5 2) c.arg32.toNat) = some r →
      Runs .ackPacket s (({ s with fabric := { s.fabric with sent := s.fabric.sent.erase r } } : State).packetDone r stOk)) ∧
    (∀ r, ctlHere s c 0x02 = true →
      s.fabric.sent.find? (·.is c.src.toNat (bitsOf c.arg16.toNat 0 5) (bitsOf c.arg16.toNat 5 2) c.arg32.toNat) = some r →
      let u : State := { s with fabric := { s.fabric with sent := s.fabric.sent.erase r } }
      Runs .dropPacket s (((u.gangReceived r.sfn r.gang).countCtx r.launch (r.core.getD 0) 11
        (if r.core.isSome then 1 else 0)).packetDropped r (bitsOf c.arg16.toNat 8 8))) ∧
    (∀ r m, ctlHere s c 0x03 = true → s.fabric.sent.find? (fun r => r.dst = c.src.toNat && r.cls = 3 &&
        r.pseq = c.arg32.toNat && (match r.cmd with
          | some id => s.cmds.any fun m => m.id = id && (memberOf s m.launch m.part (fabRank m)).2 = bitsOf c.arg16.toNat 0 5
          | none => false)) = some r →
      r.cmd = some m.id → s.cmds.find? (·.id = m.id) = some m → m.status = stOk →
      Runs .lrefusePacket s
        (s.setCmd { m with status := BitVec.ofNat 8 (0x30 + bitsOf c.arg16.toNat 8 8) })) ∧
    (∀ src sfn dfn cls a n,
      s.fabric.acks.find? (fun a => a.src = src.toNat && a.sfn = sfn.toNat && a.cls = cls.toNat) = some a →
      (s.cycle < a.since + 256 → Runs (.ackTimeout src sfn dfn cls) s s) ∧
      (a.since + 256 ≤ s.cycle → a.src ≠ selfMod s → a.src < 2048 → routePort s 3 a.src = some n →
        Port.use s.fabric.ports[n] = .ready → RunsTo (.ackTimeout src sfn dfn cls) s fun t =>
          (t.fabric.ports[n]).ctlQueue = (s.fabric.ports[n]).ctlQueue ++ [⟨20, false, s.cycle + 20,
            ctlOf s 0x01 a.src (a.sfn % 32 + 2 ^ 5 * a.cls + 2 ^ 8 * a.count) a.first⟩] ∧
          t.fabric.acks = s.fabric.acks.filter fun a => !(a.src = src.toNat && a.sfn = sfn.toNat && a.cls = cls.toNat))) ∧
    (∀ (core : Fin 256) (dest : Fin 2048), let k := s.coreAt core
      (s.activeOf k.launch < SMap.get 0 k.fabSince dest.val + 320000 → Runs (.fabricTimeout core dest) s s) ∧
      (SMap.get 0 k.fabOut dest.val ≠ 0 → SMap.get 0 k.fabSince dest.val + 320000 ≤ s.activeOf k.launch →
        RunsTo (.fabricTimeout core dest) s fun t =>
          (t.coreAt core).fabLate = (if k.wait = some .fence then some k.pc else k.fabLate) ∧
          (k.wait = some .fence → (t.coreAt core).wait = none) ∧
          (t.coreAt core).fabOut = SMap.set 0 k.fabOut dest.val 0 ∧ t.fabric.sent = s.fabric.sent.map fun r =>
            if r.core = some core ∧ r.launch = k.launch ∧ r.dst = dest.val then { r with core := none, cmd := none } else r)) ∧
    (∀ (port : Fin 20), (ownedSeqs s s.sheet.last).contains port.val = true →
      Runs (.sequencerStateSave port) s (s.saveSequencer s.sheet.last port.val)) ∧
    (∀ (part : Fin 16) (entry : Fin 256) e, s.tileEntry (part.val + 1) entry.val = some e → collDue s e = true →
      Runs (.collDeadlineCut part entry) s
        (if cutDue s e then s.cutSlots (part.val + 1) e else s.collRun (part.val + 1) entry.val)) ∧
    (c.ctype = 0x12 → c.dst.toNat = selfMod s → c.cccOk = true →
      let part := bitsOf c.arg16.toNat 9 5
      let root := bitsOf c.arg32.toNat 0 11
      ∀ e, s.tileEntry part (bitsOf c.arg16.toNat 0 8) = some e → e.seq % 2 ^ 16 = bitsOf c.arg32.toNat 16 16 →
        let e' := e.noteCut root
        if c.arg16.getLsbD 8 = false ∧ e.rank ≠ 0 then
          Runs .cutPacket s (s.sendSeqControl e.part (cutPacket s e (treeParent e.rank) false root))
        else Runs .cutPacket s (((if c.arg16.getLsbD 8 || e.sent then cutsDown s e' [root] else s).setEntry part e').collRun
          part (bitsOf c.arg16.toNat 0 8)))

/-- R110-R112. Arrivals in a vote. A PREPARE joins its vote, is kept when it comes before the module's boundary, and is
refused for another slot or another gang. With the last OK a member levels and asks its cores to stop. A REFUSE in
PREPARED and an ABORT end the vote: the stopped cores run on. COMMIT starts the swap, and is answered again after it.
A module that stays absent for 100 us ends the vote. A request carries the sweep down, a report carries the sums up,
and two equal sums in a row commit. The model's choices behind it: log entry 16. -/
def Obligations.VotePacketsMoveAVote : Prop :=
  ∀ (s : State) (m : VoteMsg) (v : Vote),
    let noted (w : Vote) : List Vote := s.votes.map fun x => if x.is v then w else x
    let u := s.countBad 0x10
    (voteMsg s phPrepare = some m →
      (voteOf s m false = some v → Runs .votePhasePrepare s (u.takePrepare v m.src m.gang) ∧
        (v.state = .prepared → v.sentOk = false → v.refused = none → prepareFits s v m.gang = false →
          RunsTo .votePhasePrepare s fun t => t.votes = noted { v with
            prepares := if v.prepares.contains m.src then v.prepares else v.prepares ++ [m.src], refused := some rfSheet })) ∧
      (voteOf s m false = none → fixedGang s m.gang = none → sheetVote s = none →
        let round := if nextSlot s = 0 then !s.sheet.round else s.sheet.round
        if s.sheet.running = true ∧ m.slot = nextSlot s ∧ m.round = round then
          RunsTo .votePhasePrepare s fun t => t.sheet.early = s.sheet.early ++ [(m.src, m.gang)] ∧ t.votes = s.votes ∧
            t.cores = s.cores ∧ t.fabric = u.fabric
        else if idleHere u m then
          Runs .votePhasePrepare s (u.prepare m.slot (sortNats [selfMod u, m.src]) none [] m.round [(m.src, m.gang)])
        else Runs .votePhasePrepare s (u.sendVote m.src m.slot m.round phRefuse rfSheet 0)) ∧
      (∀ d l, voteOf s m false = none → fixedGang s m.gang = some d → gangLaunch s d.part m.gang = some l →
        Runs .votePhasePrepare s (if l.state = .queued then u.fixedVote l [(m.src, m.gang)]
          else u.sendVote m.src m.slot m.round phRefuse rfResources m.gang))) ∧
    (voteMsg s phOk = some m → voteOf s m false = some v →
      let oks := if v.oks.contains m.src then v.oks else v.oks ++ [m.src]
      v.state = .prepared → v.refused = none → v.sentOk = true → (v.others s).all v.prepares.contains = true →
      ((v.others s).all oks.contains = false →
        RunsTo .votePhaseOk s fun t => t.votes = noted { v with oks := oks } ∧ t.cores = s.cores) ∧
      ((v.others s).all oks.contains = true → v.isRoot s = false → RunsTo .votePhaseOk s fun t =>
        t.votes = noted { v with oks := oks, state := .levelling } ∧
        ∀ l ∈ v.leaving s, ∀ c, (s.coreAt c).launch = some l.id → (s.coreAt c).run = .running →
          (t.coreAt c).stop = some .save)) ∧
    (voteMsg s phRefuse = some m → voteOf s m false = some v →
      (v.state ≠ .prepared → Runs .votePhaseRefuse s u) ∧
      (v.state = .prepared → RunsTo .votePhaseRefuse s fun t => t.votes = s.votes.filter fun w => !w.is v)) ∧
    (voteMsg s phAbort = some m → voteOf s m false = some v → v.state ≠ .swapping → RunsTo .votePhaseAbort s fun t =>
      t.votes = (s.votes.filter fun w => !w.is v) ∧ SameMemory s t ∧
      ∀ l ∈ v.leaving s, ∀ c, (s.coreAt c).launch = some l.id → (s.coreAt c).run = .stopped →
        (t.coreAt c).run = .running ∧ (t.coreAt c).stop = none) ∧
    (voteMsg s phCommit = some m →
      (voteOf s m false = some v → (v.state = .levelling ∨ v.state = .prepared ∧ v.sentOk = true) →
        RunsTo .votePhaseCommit s fun t => t.votes = noted { v with
          state := .swapping, swapAt := s.cycle, resent := s.cycle, committed := [selfMod s] }) ∧
      (voteOf s m false = none → voteOf s m true = some v →
        Runs .votePhaseCommit s (u.tell v [m.src] phCommitted 0))) ∧
    (voteMsg s phCommitted = some m → voteOf s m false = some v → v.committed.contains m.src = false →
      RunsTo .votePhaseCommitted s fun t => t.votes = noted { v with committed := v.committed ++ [m.src] } ∧
        t.cores = s.cores ∧ SameMemory s t) ∧
    (absentDue s = some v → RunsTo .voteAbsent s fun t => t.votes = s.votes.filter fun w => !w.is v) ∧
    (sheetVote s = some v → let c := s.inp.ctl
      (ctlHere s c 0x11 = true → c.arg16.getLsbD 13 = true → v.isRoot s = false → c.src.toNat = v.parent s →
        v.state = .levelling ∨ v.state = .prepared ∧ v.sentOk = true → RunsTo .levelRequest s fun t =>
          t.votes = noted { v with stalled := false, sweep := bitsOf c.arg16.toNat 0 12, asked := true, sweepAt := s.cycle,
                                   reports := [], reported := v.reported.map fun _ => s.cycle }) ∧
      ∀ w : Vote, w = (v.noteSum s c).noteSum s s.inp.ctl2 →
        ∀ sums : Nat × Nat, sums = w.childSums.foldl (fun n e => (n.1 + e.1, n.2 + e.2)) (w.ownSums s) →
        (w.reportReady s = false → RunsTo .levelReport s fun t => t.votes = noted w ∧ t.cores = s.cores) ∧
        (∀ n, w.reportReady s = true → w.isRoot s = false → w.parent s < 2048 → w.parent s ≠ selfMod s →
          routePort s 3 (w.parent s) = some n → Port.use s.fabric.ports[n] = .ready →
          RunsTo .levelReport s fun t => (t.fabric.ports[n]).ctlQueue = (s.fabric.ports[n]).ctlQueue ++
            [⟨20, false, s.cycle + 20, ctlOf s 0x11 (w.parent s) (w.sweep % 4096) (sums.1 % 2 ^ 32)⟩,
             ⟨20, false, s.cycle + 20, ctlOf s 0x11 (w.parent s) (w.sweep % 4096 + 2 ^ 12) (sums.2 % 2 ^ 32)⟩]) ∧
        (w.reportReady s = true → w.isRoot s = true → RunsTo .levelReport s fun t => ∃ x : Vote, t.votes = noted x ∧
          if sums.1 % 2 ^ 32 = sums.2 % 2 ^ 32 ∧ w.last = some (sums.1 % 2 ^ 32, sums.2 % 2 ^ 32) then x.state = .swapping
          else x.state = .levelling ∧ x.sweep = w.sweep + 1))

/-- R106-R109, R112-R114. The slot and the swap. A boundary's step always goes on: where the slot is over, the next slot of
sixteen begins where the last one ended, or the stopping sheet stops. A packet held for 40 us after PREPARE goes into its spillway. A stalled vote is logged to
H and waits. COMMIT is sent again to those that have not answered. The swap leaves the incoming partition on the
sliced quads. The model's choices behind it: log entry 17. -/
def Obligations.SlotsAndSwaps : Prop :=
  ∀ (s : State) (v : Vote),
    let noted (w : Vote) : List Vote := s.votes.map fun x => if x.is v then w else x
    (∀ group, ∃ t, exec (.slotBoundary group) s = .next t) ∧
    (∀ group, slotOver s = true →
      (s.sheet.stopping = true → RunsTo (.slotBoundary group) s fun t => t.sheet.running = false ∧ t.votes = s.votes ∧
        t.cores = s.cores ∧ SameMemory s t) ∧
      (s.sheet.stopping = false → RunsTo (.slotBoundary group) s fun t => t.sheet.slot = nextSlot s ∧
        t.sheet.began = s.sheet.began + 1600 * (slotAt s s.sheet.slot).micros)) ∧
    (∀ group, slotOver s = false →
      (fixedDue s = none → Runs (.slotBoundary group) s s) ∧
      ∀ l, fixedDue s = some l → Runs (.slotBoundary group) s (s.fixedVote l [])) ∧
    (∀ w d t, captureDue s = some w →
      let a := s.takeCaptive w
      let u := (if w.port.isSome then a else a.gangSent w.part w.pkt.gang).gangReceived w.part w.pkt.gang
      u.gangDef w.part w.pkt.gang = some d → spill u w.part d w.pkt = .ok t →
      Runs .levellingCapture s (t.packetDone w.info stOk)) ∧
    (stallDue s = some v → RunsTo .voteStall s fun t => t.votes = noted { v with stalled := true } ∧
      ∃ e, (t.flog[(0 : Fn)]).head? = some e ∧ e.cause = .voteStall ∧ e.index = v.slot ∧ e.gang = v.incoming) ∧
    (resendDue s = some v → RunsTo .commitResend s fun t => t.votes = noted { v with resent := s.cycle } ∧
      t.cores = s.cores ∧ SameMemory s t) ∧
    (swapReady s = none → Runs .swapDone s s) ∧
    (swapReady s = some v → v.fixed s = false → RunsTo .swapDone s fun t => t.sheet.tenant = v.part ∧
      t.sheet.began = max s.sheet.began v.swapAt ∧ t.votes = noted { v with state := .done, outgoing := [], resent := v.swapAt }) ∧
    (∀ x, s.saved.find? (fun x => x.at_ = .bank && decide (x.due ≤ s.cycle)) = some x →
      Runs .saveWriteback s (s.writeback x) ∧
      ∀ a, x.ctx.badWords = [] → imageDpa s x true = .ok a → RunsTo .saveWriteback s fun t =>
        t.mem = (writeImage s x a).mem ∧ t.l2 = (writeImage s x a).l2 ∧ ∀ y ∈ t.saved, y.launch = x.launch → y.core = x.core → y.at_ = .memory ∧ y.home = some a)

/-! ### The scheduler -/

/-- R66, R90-R92, R96-R101, R103, R106, R297, R306. The dispatcher chooses a launch of the highest effective level, places
it on enough free quads, of one die where one die has them, and starts its cores with everything cleared; it asks the
cores of a launch that it pre-empts to stop. A launch that is queued by LNCH enters when its issuer's writes are
performed. The last core that ends ends the launch. A window changes the rates; the counters of a partition go to its
page; a second ends with a slate. The model's choices behind it: log entry 18. -/
def Obligations.DispatcherAndPeriodicSteps : Prop :=
  ∀ (s : State) (part : Fin 16), let p := partNo part
    (∀ l, pickLaunch s p = some l → l ∈ s.launches ∧ l.canStart p = true ∧
      ∀ m ∈ s.launches, m.canStart p = true → effLevel s m ≤ effLevel s l) ∧
    (∀ free n qs, placeQuads free n = some qs → qs.length = n ∧ (∀ q ∈ qs, q ∈ free) ∧
      ((∃ d, d < 4 ∧ n ≤ (free.filter fun q => q / 16 = d).length) → ∃ d, ∀ q ∈ qs, q / 16 = d)) ∧
    (∀ id, dispatchPlan s p = .leave id → Runs (.dispatch part) s (s.saveLaunch id false)) ∧
    (∀ l qs, dispatchPlan s p = .start l qs → RunsTo (.dispatch part) s fun t => SameMemory s t ∧
      (∀ x ∈ t.launches, x.id = l.id → x.state = .running ∧ x.quads = qs ∧ x.since = s.cycle) ∧
      (∀ c ∈ coresOf qs, let k := t.coreAt c
        k.launch = some l.id ∧ k.run = .running ∧ k.pc = BitVec.ofNat 64 ((if l.hker then l.code else 0) + l.hdr.entry) ∧
        k.bankU = Core.reset.bankU ∧ k.v = Core.reset.v ∧ k.tags = Core.reset.tags ∧ k.mask = Core.reset.mask ∧
        k.spill = Mem.writeBytes [] 0 l.args)) ∧
    (∀ id, dispatchPlan s p = .resume id →
      Runs (.dispatch part) s ((s.setRt p fun r => { r with chosen := none }).resumeLaunch id)) ∧
    (∀ ids, dispatchPlan s p = .stop ids → RunsTo (.dispatch part) s fun t => t.launches = s.launches ∧ SameMemory s t ∧
      ∀ id ∈ ids, ∀ c, (s.coreAt c).launch = some id → (s.coreAt c).run = .running → (t.coreAt c).stop = some .save) ∧
    (dispatchPlan s p = .wait → Runs (.dispatch part) s s) ∧
    (∀ l, dispatchPlan s p = .choose → pickLaunch s p = some l →
      let u := s.setRt p fun r => { r with chosen := some l.id, served := sourceKind l.source }
      (dispatchPlan u p = .wait → Runs (.dispatch part) s u) ∧
      ∀ l' qs, dispatchPlan u p = .start l' qs →
        Runs (.dispatch part) s ((u.setRt p fun r => { r with chosen := none }).placeLaunch l' qs)) ∧
    (∀ l, lnchReady s p = some l → RunsTo (.lnchEntry part) s fun t => t.cores = s.cores ∧ t.mem = s.mem ∧
      ∀ x ∈ t.launches, x.id = l.id → x.entered = true ∧ x.since = s.cycle) ∧
    (∀ c id l, s.inp.core = c → (s.coreAt c).run = .ending → (s.coreAt c).launch = some id →
      (endReady s c = false → Runs .coreEnded s s) ∧
      (endReady s c = true →
        Runs .coreEnded s (((s.mapCore c fun k => { k with run := .ended }).chargeCore (some id)).checkLaunch id) ∧
        (s.launchById id = some l → l.state = .running → l.fault = none → (s.saved.any fun x => x.launch = id) = false →
          (∀ d ∈ coresOf l.quads, d ≠ c → (s.coreAt d).launch ≠ some id ∨ (s.coreAt d).run = .ended ∨
            (s.coreAt d).run = .dead) →
          RunsTo .coreEnded s fun t => (∀ x ∈ t.launches, x.id = id → x.state = .done) ∧
            ∀ d, (s.coreAt d).launch = some id → (t.coreAt d).run = .idle ∧ (t.coreAt d).launch = none))) ∧
    (∀ ch, ch ≠ 255 → RunsTo (.qosWindowEnd ch) s fun t => SameMemory s t ∧ t.cores = s.cores ∧
      (∀ q ∈ s.qos, q.chan = ch → ∃ r ∈ t.qos, r.chan = ch ∧ r.part = q.part ∧
        if (partAt s q.part).critical then r.reads = 0 ∧ r.late = 0
        else r.rc = if missedAt s ch then max (q.rc / 2) 1 else min (q.rc + 32) (partAt s q.part).rate) ∧
      ∀ q ∈ s.qos, q.chan ≠ ch → q ∈ t.qos) ∧
    (∀ crit target rate, (s.partRt p).qosNext = some (crit, target, rate) → RunsTo (.qosWindowEnd 255) s fun t =>
      (partAt t p).critical = crit ∧ (partAt t p).target = target ∧ (partAt t p).rate = rate ∧
      (t.partRt p).qosNext = none) ∧
    ((s.partRt p).pmDue ≤ s.cycle →
      let u := (s.perfUpdate p).setRt p fun r => { r with pmDue := s.cycle + 160000 }
      Runs (.perfCounterUpdate part) s (if storesLeft u p then u.perfStore p else u) ∧
      ((partAt s p).pmbase = 0 → s.perfUpdate p = s) ∧
      ((partAt s p).pmbase ≠ 0 → SameMemory s u ∧ (u.partRt p).pmAt = s.cycle ∧
        (u.partRt p).pmQueue = (partAt u p).totals.toList.zipIdx.map fun e => (e.2, e.1))) ∧
    (s.cycle < (s.partRt p).pmDue → (storesLeft s p = false → Runs (.perfCounterUpdate part) s s) ∧
      ∀ ev v rest, storesLeft s p = true → (s.partRt p).pmQueue = (ev, v) :: rest →
        let page := (partAt s p).pmbase
        (∀ e, saveDpa s p page true = .error e → RunsTo (.perfCounterUpdate part) s fun t =>
          (t.partRt p).pmQueue = [] ∧ SameMemory s t) ∧
        ∀ a, saveDpa s p page true = .ok a → let b := a + 8 * ev
          (reqWaits s (pktReq p) b false .part = true → RunsTo (.perfCounterUpdate part) s fun t =>
            (t.partRt p).pmQueue = (ev, v) :: rest ∧ SameMemory s t) ∧
          (reqWaits s (pktReq p) b false .part = false → tagFault s p b = none →
            let x := ((s.setRt p fun r => { r with pmQueue := rest, pmAt := s.cycle + 1 }).applyLine b).access (pktReq p) b
              false .part
            RunsTo (.perfCounterUpdate part) s fun t =>
              (t.partRt p).pmQueue = rest ∧ StoredFor x t p b false (natToBytes 8 v.toNat))) ∧
    ((partAt s p).exists_ = false → Runs (.periodicSlate part) s s) ∧
    ((partAt s p).exists_ = true → RunsTo (.periodicSlate part) s fun t =>
      (t.partRt p).slates.next = (s.partRt p).slates.next + 1 ∧ (t.partRt p).slates.sampled = s.micros ∧
      t.cores = s.cores) ∧
    (∀ slice, (clearDue s p slice = false → Runs (.designatedWaysCleared part slice) s s) ∧
      (clearDue s p slice = true → RunsTo (.designatedWaysCleared part slice) s fun t =>
        (t.partRt p).clearing = (s.partRt p).clearing &&& ~~~(BitVec.ofNat 128 (2 ^ slice.val)) ∧
        (∀ e ∈ t.l2, e.slice = slice.val → (s.partRt p).clearWays.getLsbD e.way = false) ∧
        ((∀ e ∈ s.l2, e.slice = slice.val → (s.partRt p).clearWays.getLsbD e.way = true → e.dirty = false) →
          t.mem = s.mem ∧ t.cores = s.cores ∧
          t.l2 = s.l2.filter fun e => !(e.slice = slice.val && (s.partRt p).clearWays.getLsbD e.way))))

/-! ### Commands of the rings -/

/-- R61-R63, R68, R69, R76, R77, R81, R93, R94, R397. The partition commands. PCREATE makes the partition that the
descriptor describes and clears its quads; a taken or refused unit is NO_RESOURCES. PDESTROY stops the partition's
launches and completes once they have stopped: its mapped frames read zero and it is gone. HDMMAP sets a decoder.
Function-level resets drop rings, permissions and handles. A stray byte is BAD_FIELD, and a VF may not use these
commands. The model's choices behind it: log entries 12, 23, 25. -/
def Obligations.PartitionCommands : Prop :=
  ∀ (s : State), let c := s.inp.cmd
    (∀ i ∈ [Instr.pcreate, .pdestroy, .hdmmap, .hKernelLaunch, .psetS2inv, .psetS2root, .psetQos, .psetWaymask,
        .psetWindow, .psetDrange, .psetPmbase, .sheetGangdef, .sheetCell, .sheetLength, .sheetAgeq, .sheetStart, .sheetStop,
        .sheetResolve, .sheetGangdel], c.fn ≠ 0 → EndsIn i s s csNotPermitted 0 0) ∧
    (c.fn = 0 → c.zeroBut [(8, 1), (16, 8)] = false → EndsIn .pcreate s s csBadField 0 0) ∧
    (∀ (part : Nat) b u, CmdFor s .pf [(8, 1), (16, 8)] → part = c.field 8 1 →
      (part = 0 ∨ 16 < part → EndsIn .pcreate s s csBadField 0 0) ∧
      (0 < part → part ≤ 16 → fnWaits s (fnReq 0) 0 false (c.field 16 8) 512 = none →
        hostGet s 0 (c.field 16 8) 512 = .ok (b, u) → let p := partOfDesc b
        (descFormOk b = false → EndsIn .pcreate s u csBadField 0 0) ∧
        (descFormOk b = true → ((partAt u part).exists_ = true ∨ createRefused u p = true) →
          EndsIn .pcreate s u csNoResources 0 0) ∧
        (descFormOk b = true → (partAt u part).exists_ = false → createRefused u p = false →
          EndsOk .pcreate s u 0 fun t =>
            ({ partAt t part with meters := p.meters } : Partition) = p ∧
            (∀ q : Fin 64, p.quads.getLsbD q.val = true → ∀ d ∈ coresOfQuad q, (u.coreAt d).foreign part = false →
              (t.coreAt d).launch = none ∧ (t.coreAt d).bankU = Core.reset.bankU ∧
                (t.coreAt d).v = Core.reset.v ∧ (t.coreAt d).spill = Core.reset.spill) ∧
            ∀ d, ∀ e ∈ (t.coreAt d).l1tlb, e.part ≠ part))) ∧
    (∀ part, CmdFor s .pf [(8, 1)] → part = c.field 8 1 →
      ((part = 0 ∨ 16 < part ∨ (partAt s part).exists_ = false) → EndsIn .pdestroy s s csBadField 0 0) ∧
      (0 < part → part ≤ 16 → (partAt s part).exists_ = true → (s.partRt part).frames = none →
        let u := s.destroyStart part
        (partQuiet u part = false → Runs .pdestroy s u ∧ ∀ l ∈ s.launches, l.part = part → l.hker = false →
          l.state = .running → (∀ m ∈ s.launches, m.id = l.id → m = l) →
          ∀ d, (s.coreAt d).launch = some l.id → (s.coreAt d).run = .running → (u.coreAt d).stop = some .noSave) ∧
        (partQuiet u part = true → RunsTo .pdestroy s fun t => (partAt t part).exists_ = false ∧
          (t.partRt part).frames = none ∧ (∀ g ∈ t.gangs, g.part ≠ part) ∧
          (∀ f ∈ mappedFrames s part, ∀ k < 0x200000, t.mem.read (0x200000 * f + k) = 0) ∧
          ∀ d, ∀ e ∈ (t.coreAt d).l1tlb, e.part ≠ part))) ∧
    (CmdFor s .pf [(8, 2), (16, 24)] → ∀ h : c.field 9 1 < 17,
      let e : Hdm := ⟨c.field 8 1, c.field 9 1, c.field 16 8, c.field 24 8, c.field 32 8⟩
      let others := s.hdm.filter (·.decoder ≠ e.decoder)
      e.decoder ≤ 15 → e.part ≠ 0 → (s.parts[c.field 9 1]).exists_ = true → e.base % 2 ^ 28 = 0 → e.len % 2 ^ 28 = 0 →
      (∃ r ∈ (s.parts[c.field 9 1]).dranges, r.base ≤ e.base ∧ e.base + e.len ≤ r.base + r.len) →
      (∀ d ∈ others, (d.part = e.part → overlaps d.base d.len e.base e.len = false) ∧
        overlaps d.hpa d.len e.hpa e.len = false) →
      exposesSpecial s e.part e.base e.len = false →
      EndsOk .hdmmap s s 0 fun t => t.hdm = others ++ [e] ∧ SameMemory s t ∧ t.cores = s.cores) ∧
    (∀ vf : Fin 16, let part := partNo vf
      let n : Fn := ⟨part % 17, by omega⟩
      (s.partRt part).isReset = false → RunsTo (.flrVf vf) s fun t =>
        (t.fns[n]).rings = Vector.replicate 64 Ring.reset ∧ (t.partRt part).lperm = [] ∧
        (∀ g ∈ t.gangs, g.part = part → g.withdrawn = true) ∧
        ((∀ l ∈ s.launches, l.part ≠ part) → (s.nb.toList.any fun l => l.any fun r => r.part = part) = false →
          (t.partRt part).isReset = false ∧ (partAt t part).kernels = []) ∧
        (∀ l ∈ s.launches, l.part = part → l.hker = false → l.state = .running → (∀ m ∈ s.launches, m.id = l.id → m = l) →
          (t.partRt part).isReset = true ∧
          ∀ d, (s.coreAt d).launch = some l.id → (s.coreAt d).run = .running → (t.coreAt d).stop = some .noSave)) ∧
    ((∀ p : Fin 16, (partAt s (partNo p)).exists_ = false) → Runs .flrPf0 s (s.resetRings 0)) ∧
    (RunsTo .flrPf0 s fun t => (t.fns[(0 : Fn)]).rings = Vector.replicate 64 Ring.reset ∧
      ∀ p : Fin 16, (partAt t (partNo p)).exists_ = true → ((t.partRt (partNo p)).frames).isSome = true)

/-- R82, R88-R92, R106, R107, R112. The later changes. PSET S2INV and S2ROOT drop every translation of the partition and
complete once no access that used one is under way; the others set what they name. SHEET GANGDEF declares a gang and
keeps its counts, CELL and LENGTH set what a slot takes up at its next start, START begins slot 0 at once, STOP ends
the sheet at the next boundary, RESOLVE ends a stalled vote, GANGDEL removes a gang that is not in use. The model's
choices behind it: log entry 25. -/
def Obligations.PartitionAndSheetSettings : Prop :=
  ∀ (s : State), let c := s.inp.cmd
    let vf := c.field 9 1
    let pset (used : List (Nat × Nat)) : Prop :=
      CmdFor s .pf ([(8, 1), (9, 1)] ++ used) ∧ 0 < vf ∧ vf ≤ 16 ∧ (partAt s vf).exists_ = true
    (CmdFor s .pf ([(8, 1), (9, 1)] ++ [(16, 8)]) → (vf = 0 ∨ 16 < vf ∨ (partAt s vf).exists_ = false) →
      EndsIn .psetS2root s s csBadField 0 0) ∧
    (∀ u, pset [(16, 8), (24, 8)] → c.field 16 8 % 65536 = 0 → c.field 24 8 % 65536 = 0 →
      u = (if c.field 24 8 = 0 then s.invalidate vf 0 (2 ^ 39)
        else s.invalidate vf (c.field 16 8) (c.field 16 8 + c.field 24 8)) →
      (xlateQuiet u vf = false → Runs .psetS2inv s u) ∧ (xlateQuiet u vf = true → EndsIn .psetS2inv s u csOk 0 0) ∧
      (∀ d, ∀ e ∈ (u.coreAt d).l1tlb, e.part ≠ vf) ∧ ∀ (q : Fin 64), ∀ e ∈ u.l2tlb[q], e.part ≠ vf) ∧
    (pset [(16, 8)] → c.field 16 8 % 4096 = 0 → c.field 16 8 < 2 ^ 39 →
      (RunsTo .psetS2root s fun t => (partAt t vf).s2root = c.field 16 8 ∧ ∀ d, ∀ e ∈ (t.coreAt d).l1tlb, e.part ≠ vf) ∧
      EndsOk .psetPmbase s s 0 fun t => (partAt t vf).pmbase = c.field 16 8 ∧ t.cores = s.cores ∧ SameMemory s t) ∧
    (pset [(10, 1), (12, 4), (16, 2)] → qosOk (c.field 10 1) (c.field 12 4) (c.field 16 2) = true →
      EndsOk .psetQos s s 0 fun t => t.parts = s.parts ∧
        (t.partRt vf).qosNext = some (decide (c.field 10 1 = 1), c.field 12 4, c.field 16 2)) ∧
    (pset [(10, 2)] → c.field 10 2 ≠ 0 → c.field 10 2 < 4096 → EndsOk .psetWaymask s s 0 fun t =>
      (partAt t vf).waymask = BitVec.ofNat 16 (c.field 10 2) ∧ (t.partRt vf).clearing = (s.partRt vf).clearing ||| (partAt s vf).slices ∧
      (t.partRt vf).clearWays = (s.partRt vf).clearWays ||| (partAt s vf).waymask) ∧
    (pset [(10, 1), (16, 8), (24, 8)] → c.field 10 1 < 8 →
      let r : Range := ⟨c.field 16 8, c.field 24 8⟩
      (rangesOk [r] 4096 (2 ^ 63) false = true → EndsOk .psetWindow s s 0 fun t =>
        (partAt t vf).iova = setAt (partAt s vf).iova (c.field 10 1) r ∧ (partAt t vf).dranges = (partAt s vf).dranges) ∧
      (rangesOk (setAt (partAt s vf).dranges (c.field 10 1) r) 0x200000 (2 ^ 39) true = true →
        EndsOk .psetDrange s s 0 fun t => (partAt t vf).dranges = setAt (partAt s vf).dranges (c.field 10 1) r ∧
          (partAt t vf).iova = (partAt s vf).iova)) ∧
    (let sheet (used : List (Nat × Nat)) : Prop := CmdFor s .pf ([(8, 1), (9, 1)] ++ used)
     let g := BitVec.ofNat 32 (c.field 12 4)
     (sheet [(12, 4), (16, 8), (24, 8), (32, 8), (40, 1), (41, 1)] → 0 < vf → vf ≤ 16 → (partAt s vf).exists_ = true →
       c.field 12 4 < 0x80000000 → c.field 16 8 % 65536 = 0 → c.field 32 8 % 65536 = 0 → c.field 24 8 % 65536 = 0 →
       0x100000 ≤ c.field 24 8 → c.field 40 1 ≤ 64 → c.field 41 1 ≤ 15 →
       inRanges (partAt s vf) (c.field 16 8) (c.field 24 8) = true →
       (c.field 40 1 = 0 ∨ inRanges (partAt s vf) (c.field 32 8) (8448 * 1024 * c.field 40 1) = true) →
       EndsOk .sheetGangdef s s 0 fun t => (∃ d, t.gangDef vf g = some d ∧ d.spill = c.field 16 8 ∧
         d.spillLen = c.field 24 8 ∧ d.save = c.field 32 8 ∧ d.quads = c.field 40 1 ∧ d.fill = c.field 41 1 ∧
         d.sent = ((s.gangDef vf g).map (·.sent)).getD 0 ∧ d.received = ((s.gangDef vf g).map (·.received)).getD 0) ∧
         ∀ d ∈ s.gangs, (d.part = vf ∧ d.gang = g) ∨ d ∈ t.gangs) ∧
     (∀ x, sheet [(10, 1), (12, 4)] → c.field 10 1 < 16 → x = (if isSingle g then g.toNat - 0x80000000 else vf) →
       (g ≠ 0 → x ≠ 0 ∧ (partAt s x).exists_ = true ∧ sliced s x = true) →
       (g ≠ 0 → isSingle g = false → (s.gangDef x g).isSome = true) → EndsOk .sheetCell s s 0 fun t =>
         (slotAt t (c.field 10 1)).nextGang = g ∧ (slotAt t (c.field 10 1)).nextPart = (if g = 0 then 0 else x) ∧
         (slotAt t (c.field 10 1)).gang = (slotAt s (c.field 10 1)).gang) ∧
     (sheet [(10, 1), (12, 4)] → c.field 10 1 < 16 → 100 ≤ c.field 12 4 → c.field 12 4 ≤ 1000000 → EndsOk .sheetLength s s 0 fun t =>
         (slotAt t (c.field 10 1)).nextMicros = c.field 12 4 ∧
         (slotAt t (c.field 10 1)).micros = (slotAt s (c.field 10 1)).micros) ∧
     (sheet [(12, 4)] → 10 ≤ c.field 12 4 → c.field 12 4 ≤ 10000 → EndsOk .sheetAgeq s s 0 fun t =>
       t.sheet = { s.sheet with ageq := c.field 12 4 } ∧ t.cores = s.cores ∧ SameMemory s t) ∧
     (sheet [] → (s.sheet.running = true → EndsIn .sheetStart s s csNoResources 0 0) ∧
       (s.sheet.running = false → RunsTo .sheetStart s fun t => t.sheet.running = true ∧ t.sheet.slot = 0 ∧
         t.sheet.began = s.cycle) ∧
       EndsOk .sheetStop s s 0 fun t => t.sheet = { s.sheet with stopping := s.sheet.running }) ∧
     (sheet [(10, 1)] → c.field 10 1 ≤ 1 → (stalledVote s = none → EndsIn .sheetResolve s s csOk 0 0) ∧
       ∀ v, stalledVote s = some v →
         (c.field 10 1 = 0 → RunsTo .sheetResolve s fun t => t.votes = s.votes.filter fun w => !w.is v) ∧
         (c.field 10 1 = 1 → RunsTo .sheetResolve s fun t => ∃ x, x.state = .swapping ∧ x.stalled = false ∧
           t.votes = s.votes.map fun w => if w.is v then x else w)) ∧
     (sheet [(12, 4)] →
       (s.gangDef vf g = none → EndsIn .sheetGangdel s s csNoHandle 0 0) ∧
       ((s.gangDef vf g).isSome = true → g ≠ 0 → gangInUse s vf g = true → EndsIn .sheetGangdel s s csBusy 0 0) ∧
       ((s.gangDef vf g).isSome = true → gangInUse s vf g = false → EndsOk .sheetGangdel s s 0 fun t =>
         t.gangDef vf g = none ∧ ∀ d ∈ s.gangs, (d.part = vf ∧ d.gang = g) ∨ d ∈ t.gangs)))

/-- R17, R20, R61-R67, R72-R75, R108, R397. The commands for kernels and records. REGISTER checks the image and gives it a
new handle, UNREGISTER takes one away, LAUNCH queues a launch with its arguments and members, and on PF 0 places an H
kernel at once; LPERM sets a permission; ATTEST, SUMMARY and SLATE write their records; NOP ends OK. What does not
read or write is XLATE, or names a failed line; a command whose addresses find their channels busy waits. The model's
choices behind it: log entries 9, 11, 12, 24, 30. -/
def Obligations.KernelAndRecordCommands : Prop :=
  ∀ (s : State), let c := s.inp.cmd
    let free (wr : Bool) (a n : Nat) : Prop := fnWaits s (fnReq c.fn) c.fn wr a n = none
    (∀ i ∈ [Instr.register, .unregister, .launch, .lperm], c.fn = 0 → EndsIn i s s csNotPermitted 0 0) ∧
    (c.zeroBut [] = true → EndsIn .commandNop s s csOk 0 0) ∧ (c.zeroBut [] = false → EndsIn .commandNop s s csBadField 0 0) ∧
    (CmdFor s .vf [(8, 8), (16, 4)] → c.field 16 4 ≤ 0x1000000 →
      (∀ ch, fnWaits s (fnReq c.fn) c.fn false (c.field 8 8) (c.field 16 4) = some ch →
        Runs .register s (s.waitAtChan ch .register)) ∧
      (free false (c.field 8 8) (c.field 16 4) →
      (∀ e, hostGet s c.fn (c.field 8 8) (c.field 16 4) = .error e →
        EndsIn .register s (s.ringFault c.fn (c.field 8 8) e) (csOfCause e) 0 0) ∧
      ∀ im u, hostGet s c.fn (c.field 8 8) (c.field 16 4) = .ok (im, u) →
        (∀ code off, imageRefusal im (hbmBytes u c.fn.val) = some (code, off) → EndsIn .register s u csRefused code off) ∧
        (∀ h, imageRefusal im (hbmBytes u c.fn.val) = none → freeHandle u.parts[c.fn] u.free = some h →
          hbmBytes u c.fn.val < im.length → EndsIn .register s u csNoResources 0 0) ∧
        ∀ h, imageRefusal im (hbmBytes u c.fn.val) = none → freeHandle u.parts[c.fn] u.free = some h →
          im.length ≤ hbmBytes u c.fn.val → EndsOk .register s u h fun t => kernelOf t c.fn.val h = some (kernelFrom h im) ∧ t.mem = u.mem ∧
            ∀ n, n ≠ h → kernelOf t c.fn.val n = kernelOf s c.fn.val n)) ∧
    (CmdFor s .vf [(8, 2)] → let h := c.field 8 2
      let used := s.launches.any fun l => l.part = c.fn.val && l.handle = h && l.state ≠ .done
      (kernelOf s c.fn.val h = none → EndsIn .unregister s s csNoHandle 0 0) ∧
      ((kernelOf s c.fn.val h).isSome = true → used = true → EndsIn .unregister s s csBusy 0 0) ∧
      ((kernelOf s c.fn.val h).isSome = true → used = false → EndsOk .unregister s s 0 fun t =>
        kernelOf t c.fn.val h = none ∧ ∀ n, n ≠ h → kernelOf t c.fn.val n = kernelOf s c.fn.val n)) ∧
    (CmdFor s .vf [(8, 2), (10, 1), (12, 4), (16, 8), (24, 2), (26, 2), (28, 2), (32, 8)] →
      let n := c.field 24 2
      let size := c.field 28 2
      n ≤ 4096 → 1 ≤ size → size ≤ 2048 →
      (size = 1 → kernelOf s c.fn.val (c.field 8 2) = none → EndsIn .launch s s csNoHandle 0 0) ∧
      ∀ k args u, kernelOf s c.fn.val (c.field 8 2) = some k → n ≤ k.hdr.spill →
        (if c.field 10 1 = 0 then k.hdr.quads else c.field 10 1) ≤ quadCount s c.fn.val →
        free false (c.field 16 8) n → hostGet s c.fn (c.field 16 8) n = .ok (args, u) →
        (size = 1 → RunsTo .launch s fun t => t.launches = u.launches ++ [launchOfCmd u c k.hdr args []] ∧
          t.nextId = u.nextId + 1 ∧ t.cores = u.cores) ∧
        (∀ bs v, 1 < size → c.field 26 2 < size → BitVec.ofNat 32 (c.field 12 4) ≠ 0 →
          (s.gangDef c.fn.val (BitVec.ofNat 32 (c.field 12 4))).isSome = true →
          free false (c.field 32 8) (4 * size) → hostGet u c.fn (c.field 32 8) (4 * size) = .ok (bs, v) → RunsTo .launch s fun t =>
            t.launches = v.launches ++ [launchOfCmd v c k.hdr args (membersOf bs size)] ∧ t.cores = v.cores)) ∧
    (CmdFor s .pf [(8, 2), (10, 1), (12, 4), (16, 8), (24, 2), (26, 2), (28, 2), (32, 8), (40, 8)] →
      let n := c.field 24 2
      let a := c.field 40 8
      ∀ hd im args u v w, c.field 8 2 = 0 → c.field 28 2 = 1 → c.field 10 1 ≤ 1 → a % 64 = 0 → n ≤ 4096 → a < 2 ^ 39 →
        let all := min 0x1000000 (max 128 (fieldLE hd 8 4))
        free false a 128 → hostGet s 0 a 128 = .ok (hd, u) → fnWaits u (fnReq 0) 0 false a all = none →
        hostGet u 0 a all = .ok (im, v) →
        (∀ code off, imageRefusal im (2 ^ 39) = some (code, off) → EndsIn .hKernelLaunch s v csRefused code off) ∧
        (imageRefusal im (2 ^ 39) = none → (c.field 10 1 = 1 ∨ (headerOf im).quads = 1) → n ≤ (headerOf im).spill →
          fnWaits v (fnReq 0) 0 false (c.field 16 8) n = none → hostGet v 0 (c.field 16 8) n = .ok (args, w) →
          (hQuad v = none → EndsIn .hKernelLaunch s v csNoResources 0 0) ∧
          ∀ q, hQuad v = some q → RunsTo .hKernelLaunch s fun t =>
            (∀ d ∈ coresOf [q], let k := t.coreAt d
              k.launch = some w.nextId ∧ k.level = .h ∧ k.base = .h ∧ k.run = .running ∧
              k.pc = BitVec.ofNat 64 (Config.codeArea w.nextId + (headerOf im).entry)) ∧
            t.peek 0 (Config.codeArea w.nextId) (im.take (fieldLE hd 8 4)).length = im.take (fieldLE hd 8 4))) ∧
    (CmdFor s .vf [(8, 4), (12, 4)] →
      let e : Lperm := ⟨c.field 8 1, c.field 10 2, c.field 12 2, c.field 14 1, c.field 15 1⟩
      e.index ≤ 63 → c.field 9 1 ≤ 1 → e.maxPrio ≤ 10 → e.srcMod ≤ 0x7FF → e.srcFn ≤ 16 → EndsOk .lperm s s 0 fun t =>
        (t.partRt c.fn.val).lperm.find? (·.index = e.index) = (if c.field 9 1 = 1 then some e else none) ∧
        ∀ n, n ≠ e.index → ∀ x, x.index = n → (x ∈ (t.partRt c.fn.val).lperm ↔ x ∈ (s.partRt c.fn.val).lperm)) ∧
    (CmdFor s .all [(8, 32), (40, 8)] → let bs := attestReport s ((c.data.drop 8).take 32)
      free true (c.field 40 8) bs.length →
      (∀ u, hostPut s c.fn (c.field 40 8) bs = .ok u → EndsIn .attest s u csOk 0 0) ∧
      ∀ e, hostPut s c.fn (c.field 40 8) bs = .error e →
        EndsIn .attest s (s.ringFault c.fn (c.field 40 8) e) (csOfCause e) 0 0) ∧
    (CmdFor s .all [(8, 8), (16, 4)] → let v := s.chargeHold
      let bs := summaryBytes v c.fn
      (c.field 16 4 < bs.length → EndsIn .summary s v csTooSmall bs.length 0) ∧
      (bs.length ≤ c.field 16 4 → fnWaits v (fnReq c.fn) c.fn true (c.field 8 8) bs.length = none →
        (∀ u, hostPut v c.fn (c.field 8 8) bs = .ok u → EndsIn .summary s u csOk bs.length 0) ∧
        ∀ e, hostPut v c.fn (c.field 8 8) bs = .error e →
          EndsIn .summary s (v.ringFault c.fn (c.field 8 8) e) (csOfCause e) 0 0)) ∧
    (CmdFor s .all [(8, 1), (16, 8), (24, 8)] → let part := c.field 8 1
      (16 < part → EndsIn .slate s s csBadField 0 0) ∧
      (part ≤ 16 → c.fn ≠ 0 → part ≠ 0 → part ≠ c.fn.val → EndsIn .slate s s csNotPermitted 0 0) ∧
      (part ≤ 16 → part ≠ 0 → (c.fn = 0 ∨ part = c.fn.val) → c.field 16 8 = 2 ^ 64 - 1 →
        ((s.partRt part).slates.kept = [] → EndsIn .slate s s csNoSlate 0 0) ∧
        ∀ n bs rest u, (s.partRt part).slates.kept = (n, bs) :: rest → free true (c.field 24 8) bs.length → hostPut s c.fn (c.field 24 8) bs = .ok u →
          EndsIn .slate s u csOk 0 0) ∧
      (∀ n bs u, part ≤ 16 → part ≠ 0 → (c.fn = 0 ∨ part = c.fn.val) → c.field 16 8 ≠ 2 ^ 64 - 1 →
        (s.partRt part).slates.kept.find? (·.1 = c.field 16 8) = some (n, bs) → free true (c.field 24 8) bs.length →
        hostPut s c.fn (c.field 24 8) bs = .ok u → EndsIn .slate s u csOk 0 0) ∧
      (∀ u, part = 0 → c.field 16 8 = 0 → s.genesis ≠ [] → free true (c.field 24 8) s.genesis.length → hostPut s c.fn (c.field 24 8) s.genesis = .ok u →
        EndsIn .slate s u csOk 0 0))

/-! ### The host's side -/

/-- R53-R62, R312. Rings. A write to a ring that is ACTIVE is checked: it stands, or the ring halts with the reason, and a
doorbell that fails leaves QWIDX as it was; the base, size and completion base of an ACTIVE ring halt it. ENABLE
checks the block, clearing it aborts what has not started, a drained ring starts anew. A command is fetched in order,
starts by its opcode and SUB, and ends with its completion record and its vector. After a refused boot every write is
dropped. The model's choices behind it: log entries 24, 45. -/
def Obligations.RingsAndCommands : Prop :=
  ∀ (s : State) (fn : Fn) (q : Fin 64), let r := ringAt s fn q
    let present : Prop := ringPresent s fn q.val = true ∧ s.boot.failed = false
    (present → r.draining = false →
      (∀ v, let n := r.store 0x10 v
        (r.state = 1 → ringCheck s fn n = none → RunsTo (.qwidxWrite fn q v) s fun t =>
          ringAt t fn q = { n with enable := true, state := 1, reason := 0, cqOk := n.cqbase, nOk := n.n } ∧
          t.cores = s.cores ∧ t.cmdRuns = s.cmdRuns ∧ SameMemory s t) ∧
        (∀ e, r.state = 1 → ringCheck s fn n = some e → RunsTo (.qwidxWrite fn q v) s fun t =>
          ringAt t fn q = { n with widx := r.widx, enable := true, state := 2, reason := e } ∧
          (t.fnErr[fn]).getLsbD 0 = true) ∧
        (r.state ≠ 1 → RunsTo (.qwidxWrite fn q v) s fun t => ringAt t fn q = n ∧ t.cores = s.cores)) ∧
      (∀ off v, r.state ≠ 1 → RunsTo (.ringBlockWrite fn q off v) s fun t => ringAt t fn q = r.store off v) ∧
      (∀ off v, r.state = 1 → (off = 0x00 ∨ off = 0x08 ∨ off = 0x30) → RunsTo (.ringBlockWrite fn q off v) s fun t =>
        ringAt t fn q = { r with enable := true, state := 2, reason := 0x08 }) ∧
      (r.state ≠ 2 → ringCheck s fn r = none → RunsTo (.ringEnable fn q) s fun t =>
        ringAt t fn q = { r with enable := true, state := 1, reason := 0, cqOk := r.cqbase, nOk := r.n }) ∧
      (∀ e, r.state ≠ 2 → ringCheck s fn r = some e → RunsTo (.ringEnable fn q) s fun t =>
        ringAt t fn q = { r with enable := true, state := 2, reason := e } ∧ (t.fnErr[fn]).getLsbD 0 = true) ∧
      (r.state ≠ 0 → RunsTo (.ringDisable fn q) s fun t => ringAt t fn q = { r with enable := false, draining := true } ∧
        ∀ d ∈ t.cmdRuns, d.cmd.fn = fn → d.cmd.ring = q → d.state ≠ .fetched)) ∧
    (ringPresent s fn q.val = false ∨ r.draining = true ∨ s.boot.failed = true → Runs (.ringEnable fn q) s s ∧ Runs (.ringDisable fn q) s s ∧
      ∀ off v, Runs (.ringBlockWrite fn q off v) s s ∧ Runs (.qwidxWrite fn q v) s s) ∧
    (ringDrained s fn q = true → RunsTo (.ringDrained fn q) s fun t => ringAt t fn q =
      { r with state := 0, draining := false, widx := 0, ridx := 0, cqridx := 0, written := 0 } ∧ t.cmdRuns = s.cmdRuns) ∧
    (ringDrained s fn q = false → Runs (.ringDrained fn q) s s) ∧
    (fetchable s fn q = false → Runs (.commandFetch fn q) s s) ∧
    (fetchable s fn q = true →
      (∀ bs u, hostGet s fn (r.base.toNat + 64 * (r.ridx % r.n)) 64 = .ok (bs, u) → RunsTo (.commandFetch fn q) s fun t =>
        t.cmdRuns = s.cmdRuns ++ [⟨⟨fn, q, r.ridx, bs, s.nextId⟩, .fetched⟩] ∧ t.nextId = s.nextId + 1 ∧
        ringAt t fn q = { r with ridx := (r.ridx + 1) % (2 * r.n) } ∧ t.mem = u.mem) ∧
      ∀ e, hostGet s fn (r.base.toNat + 64 * (r.ridx % r.n)) 64 = .error e → RunsTo (.commandFetch fn q) s fun t =>
        ringAt t fn q = { r with enable := true, state := 2,
                                 reason := if e = .uncorrectable ∨ e = .checkFail then 0x0A else 0x09 } ∧
        t.cmdRuns = s.cmdRuns) ∧
    (∀ c, startable s fn q = some c →
      (commandStep fn c.opc (c.field 8 1) = none → Runs (.commandStart fn q) s (s.cmdDone c csBadOpcode 0 0)) ∧
      (∀ w i, commandStep fn c.opc (c.field 8 1) = some (w, i) → w.allows fn = false →
        Runs (.commandStart fn q) s (s.cmdDone c csNotPermitted 0 0)) ∧
      (∀ w i, commandStep fn c.opc (c.field 8 1) = some (w, some i) → w.allows fn = true →
        RunsTo (.commandStart fn q) s fun t => t.agenda = s.agenda ++ [⟨i, { Input.reset with cmd := c }⟩] ∧
          (∀ d ∈ t.cmdRuns, d.cmd.same c = true → d.state = .running) ∧ t.cores = s.cores ∧ SameMemory s t)) ∧
    (∀ run idx status r0 r1, s.cmdRuns.find? (fun c => c.cmd.fn = fn && c.cmd.ring = q && c.cmd.idx = idx && c.ended) = some run →
      run.state = .done status r0 r1 →
      (completable s fn q = false → Runs (.commandComplete fn q idx) s s) ∧
      (completable s fn q = true → let c := run.cmd
        let bs := completionBytes c status r0 r1 (if r.written < r.nOk then 1 else 0)
        RunsTo (.commandComplete fn q idx) s fun t => ringAt t fn q = { r with written := (r.written + 1) % (2 * r.nOk) } ∧
          (∀ d ∈ t.cmdRuns, ¬(d.cmd.same c = true ∧ d.ended = true)) ∧
          (∀ u, hostPut s fn (r.cqOk.toNat + 32 * (r.written % r.nOk)) bs = .ok u →
            t.mem = u.mem ∧ t.hostMem = u.hostMem ∧
            ((c.field 1 1).testBit 0 = true → r.prio.getLsbD 27 = true →
              (s.msixMask[fn]).getLsbD (bitsOf r.prio.toNat 16 11) = false →
              t.out = s.out ++ [.msix fn (bitsOf r.prio.toNat 16 11)]))))

/-- R4, R11-R15, R46-R52, R74. The host's registers and accesses. A write reaches the register at its offset, and a range
of PF 0 ignores a VF. A summary goes to SUMADDR, or is SHORT. A configuration request is answered with retry until the
boot is over; BAR 2 takes one of its sizes. An access through BAR2 or a decoder reads and writes what the function may
reach, once its channels are free; one that does not translate has an entry for S; after a refused boot a BAR reads all
ones and takes no write. The model's choices behind it: log entries 3, 10, 24, 45. -/
def Obligations.HostRegistersAndAccesses : Prop :=
  ∀ (s : State) (fn : Fn) (v : Word),
    (∀ off, s.boot.failed = true → Runs (.registerWrite fn off v) s s) ∧
    (s.boot.failed = false →
      (RunsTo (.registerWrite fn 0x0008 v) s fun t => t.fnErr[fn] = s.fnErr[fn] &&& ~~~v ∧ t.cores = s.cores ∧
        ∀ g, g ≠ fn → t.fnErr[g] = s.fnErr[g]) ∧
      (RunsTo (.registerWrite fn 0x0010 v) s fun t => t.fnErrVec[fn] = v &&& 0xFFF#64 ∧ SameMemory s t) ∧
      (RunsTo (.registerWrite fn 0x0040 v) s fun t => (t.fns[fn]).sumAddr = v) ∧
      (RunsTo (.registerWrite fn 0x0048 v) s fun t => (t.fns[fn]).sumLen = v &&& 0xFFFFFFFF#64) ∧
      (v.getLsbD 0 = true → v.getLsbD 2 = false → Runs (.registerWrite fn 0x0050 v) s (s.sumGo fn)) ∧
      (∀ q : Fin 64, ∀ off, off % 8 = 0 → off < 64 → off ≠ 0x20 →
        Runs (.registerWrite fn (0x1000 + 64 * q.val + off) v) s (s.writeRing fn q off v)) ∧
      (∀ q : Fin 64, Runs (.registerWrite fn (0x1020 + 64 * q.val) v) s
        (if v.getLsbD 0 then s.enableRing fn q else s.disableRing fn q)) ∧
      (∀ dest : Fin 2048, Runs (.registerWrite fn (0x4000 + 4 * dest.val) v) s
        (if fn = 0 then s.writeRoute dest.val (v.setWidth 32) else s)) ∧
      (∀ port : Fin 20, Runs (.registerWrite fn (0x6008 + 16 * port.val) v) s (if fn = 0 then s.writePortCtl port v else s)) ∧
      Runs (.registerWrite fn 0x6200 v) s (if fn = 0 then s.writeFabId v else s) ∧
      (∀ i : Fin 16, fn ≠ 0 → RunsTo (.registerWrite fn (0x6800 + 8 * i.val) v) s fun t => (t.fns[fn]).rqbase[i] = v) ∧
      (∀ i : Fin 16, fn = 0 → RunsTo (.registerWrite fn (0x7800 + 8 * i.val) v) s fun t =>
        t.slateBase[(⟨i.val + 1, by omega⟩ : Fn)] = v) ∧
      (∀ n, n < 2048 → v.getLsbD 32 = true → RunsTo (.registerWrite fn (0x8008 + 16 * n) v) s fun t =>
        (t.msixMask[fn]).getLsbD n = true ∧ t.out = s.out) ∧
      (∀ n, n < 2048 → v.getLsbD 32 = false → RunsTo (.registerWrite fn (0x8008 + 16 * n) v) s fun t =>
        (t.msixMask[fn]).getLsbD n = false ∧ (t.msixPend[fn]).getLsbD n = false ∧
        t.out = if (s.msixPend[fn]).getLsbD n then s.out ++ [.msix fn n] else s.out) ∧
      (∀ cap, cap = bitsOf v.toNat 0 12 → RunsTo (.pwrCapWrite fn v) s fun t => t.cores = s.cores ∧ SameMemory s t ∧
        t.power = if fn = 0 ∧ 1200 ≤ cap ∧ cap ≤ 2400 then { s.power with cap := cap } else s.power)) ∧
    (let u := s.chargeHold
     let f := u.fns[fn]
     let bs := summaryBytes u fn
     s.boot.failed = false →
     (f.sumLen.toNat < bs.length → RunsTo (.sumctlGo fn) s fun t => SameMemory s t ∧ (t.fns[fn]).sumDone = true ∧
       (t.fns[fn]).sumShort = true ∧ (t.fns[fn]).sumLength = bs.length) ∧
     ∀ w, bs.length ≤ f.sumLen.toNat → hostPut u fn f.sumAddr.toNat bs = .ok w → RunsTo (.sumctlGo fn) s fun t =>
       t.mem = w.mem ∧ t.hostMem = w.hostMem ∧ (t.fns[fn]).sumDone = true ∧ (t.fns[fn]).sumShort = false ∧
       (t.fns[fn]).sumLength = bs.length) ∧
    (s.boot.powered = true →
      (configOpen s = false → ∀ r, RunsTo (.hostConfigRequest r) s fun t =>
        t.out = s.out ++ [.config true] ∧ t.fns = s.fns ∧ t.cores = s.cores ∧ SameMemory s t) ∧
      (configOpen s = true →
        (∀ reg, RunsTo (.hostConfigRequest (.read fn reg)) s fun t =>
          t.out = s.out ++ [.config false, .configData (Config.configWord fn.val reg)] ∧ t.fns = s.fns) ∧
        ∀ k, RunsTo (.hostConfigRequest (.resizeBar2 fn k)) s fun t => t.out = s.out ++ [.config false] ∧
          (t.fns[fn]).bar2 = (if 30 ≤ k ∧ k ≤ 39 then k else (s.fns[fn]).bar2) ∧ t.cores = s.cores)) ∧
    (∀ off n bs, s.boot.failed = true →
      (RunsTo (.hostBar2Access fn off (.read n)) s fun t => t.out = s.out ++ [.hostData (List.replicate n 0xFF)]) ∧
      Runs (.hostBar2Access fn off (.write bs)) s s) ∧
    (∀ off, s.boot.failed = false → 2 ^ (s.fns[fn]).bar2 ≤ off →
      (∀ n, RunsTo (.hostBar2Access fn off (.read n)) s fun t => t.out = s.out ++ [.unsupported]) ∧
      ∀ bs, Runs (.hostBar2Access fn off (.write bs)) s s) ∧
    (∀ off, s.boot.failed = false → off < 2 ^ (s.fns[fn]).bar2 → hostWait s = none → let q := hostReq fn
      (∀ n, fnWaits s q fn false off n = none →
        (∀ bs u, s.reqGet q fn off n = .ok (bs, u) → RunsTo (.hostBar2Access fn off (.read n)) s fun t =>
          t.out = u.out ++ [.hostData bs] ∧ t.mem = u.mem) ∧
        ∀ e, s.reqGet q fn off n = .error e → RunsTo (.hostBar2Access fn off (.read n)) s fun t => SameMemory s t ∧
          t.out.getLast? = some .unsupported ∧ (rasFlag e = 0 → ∃ x, (t.flog[fn]).head? = some x ∧ x.cause = e)) ∧
      ∀ bs, fnWaits s q fn true off bs.length = none →
        (∀ u, s.reqPut q fn off bs = .ok u → Runs (.hostBar2Access fn off (.write bs)) s u) ∧
        ∀ e, s.reqPut q fn off bs = .error e → RunsTo (.hostBar2Access fn off (.write bs)) s fun t => SameMemory s t ∧
          (rasFlag e = 0 → ∃ x, (t.flog[fn]).head? = some x ∧ x.cause = e)) ∧
    (∀ off x ch, s.boot.failed = false → off < 2 ^ (s.fns[fn]).bar2 → hostWait s = some ch →
      Runs (.hostBar2Access fn off x) s (s.waitAtChan ch (.hostBar2Access fn off x))) ∧
    (∀ hpa x, let hit := s.hdm.find? fun d => decide (d.hpa ≤ hpa) && decide (hpa + x.len ≤ d.hpa + d.len)
      (∀ d, hit = some d → let f : Fn := Fin.ofNat 17 d.part
        let a := d.base + (hpa - d.hpa)
        (hidden s d.part a x.len = false →
          Runs (.hostCxlMemAccess hpa x) s ((s.hostCaches f a x.len).hostAccess (.hostCxlMemAccess hpa x) f a x)) ∧
        (hidden s d.part a x.len = true → RunsTo (.hostCxlMemAccess hpa x) s fun t => SameMemory s t ∧
          ∀ n, x = .read n → t.out.getLast? = some .unsupported)) ∧
      (hit = none →
        (∀ bs, x = .write bs → Runs (.hostCxlMemAccess hpa x) s s) ∧
        ∀ n, x = .read n → RunsTo (.hostCxlMemAccess hpa x) s fun t => t.out = s.out ++ [.unsupported]))

/-- R24-R32, R43-R45. Links and ports. The far end's flits go out in frames of eight with their trailer, the highest
virtual channel first. A frame whose CRC fails asks for its repetition, the frame due is taken once and its packets go on;
a NAK sends again what has gone since; a lost lock and too many replays retrain a port; a retrain brings it up, or leaves
it down for the boot and the next ones and in the fault log. The registers of ports, routes and identity act for PF 0
alone and after a good boot, and the identity stands while a partition exists. Silent drops are logged and counted anew.
The model's choices behind it: log entries 21, 41. -/
def Obligations.LinksAndPorts : Prop :=
  ∀ (s : State) (port : Fin 20), let p := s.fabric.ports[port]
    let others (t : State) : Prop := ∀ o, o ≠ port → t.fabric.ports[o] = s.fabric.ports[o]
    (∀ e, p.grant s.cycle = some e → e ∈ p.queue ∧ e.ready ≤ s.cycle ∧ 1 + e.pkt.flits.length ≤ p.credit[e.vc.castSucc] ∧
      ∀ vc, e.vc < vc → p.grantIn s.cycle vc = none) ∧
    (p.tx.length < 8 → p.closeFrame = (p, none)) ∧
    (8 ≤ p.tx.length → ∃ f, p.closeFrame.2 = some f ∧ f.flits = p.tx.take 8 ∧ f.seq = p.txSeq ∧ f.ackSeq = p.rxSeq - 1 ∧
      f.nak = p.nak ∧ f.credits.length = 6 ∧ f.crc = frameCrc (p.tx.take 8) ∧ p.closeFrame.1.buffer = p.buffer ++ [f] ∧
      p.closeFrame.1.nak = false ∧ p.closeFrame.1.txSeq = p.txSeq + 1 ∧
      ∀ vc : Fin 6, (p.closeFrame.1.owed)[vc] + (f.credits.getD vc.val 0).toNat = p.owed[vc]) ∧
    (∀ f, p.up = false → Runs (.linkFrameReceive port f) s s) ∧
    (∀ f, p.up = true →
      (frameCrc f.flits ≠ f.crc → RunsTo (.linkFrameReceive port f) s fun t =>
        t.fabric.ports[port] = { p with nak := true } ∧ others t ∧ t.cores = s.cores ∧ SameMemory s t) ∧
      (frameCrc f.flits = f.crc → f.seq ≠ p.rxSeq → RunsTo (.linkFrameReceive port f) s fun t =>
        t.fabric.ports[port] = p.acknowledge f.ackSeq ∧ others t ∧ t.cores = s.cores ∧ SameMemory s t ∧
        t.agenda = s.agenda ++ if f.nak then [evPort (.linkNakReceive port (f.ackSeq + 1)) port] else []) ∧
      (frameCrc f.flits = f.crc → f.seq = p.rxSeq → Goes (exec (.linkFrameReceive port f) s) ∧
        (f.nak = false → (∀ x ∈ f.flits, x.kind = .idle) → RunsTo (.linkFrameReceive port f) s fun t =>
          t.fabric.ports[port] = ({ p.acknowledge f.ackSeq with rxSeq := p.rxSeq + 1 } : Port).regain f.credits ∧
          others t ∧ t.cores = s.cores ∧ SameMemory s t ∧ t.agenda = s.agenda) ∧
        (∀ h rest, f.nak = false → f.flits = h :: rest → (∀ x ∈ rest, x.kind = .idle) → h.kind = .head →
          let q := packetOfBytes h.bytes []
          q.flits = [] → (q.dst.toNat = selfMod s → RunsTo (.linkFrameReceive port f) s fun t => t.agenda = s.agenda ∧
              t.arrivals = s.arrivals ++ [⟨s.cycle + 90, none, evPort (.dataPacketAccept (some port) q) port⟩]) ∧
            (q.dst.toNat ≠ selfMod s → RunsTo (.linkFrameReceive port f) s fun t => t.arrivals = s.arrivals ∧
              t.agenda = s.agenda ++ [evPort (.packetForward h.vc q) port])) ∧
        (∀ h rest c, f.nak = false → f.flits = h :: rest → (∀ x ∈ rest, x.kind = .idle) → h.kind = .ctl →
          controlsOf h = [c] → RunsTo (.linkFrameReceive port f) s fun t =>
            let inp : Input := { Input.reset with ctl := c, ctl2 := Control.zero, port := port.castSucc, last := true }
            (c.cccOk = true → c.dst.toNat = selfMod s → ∀ i, controlStep c = some i →
              t.arrivals = s.arrivals ++ [⟨s.cycle + 8, none, ⟨i, inp⟩⟩]) ∧
            (c.cccOk = true → c.dst.toNat ≠ selfMod s →
              t.agenda = s.agenda ++ [⟨.packetForward 5 Packet.zero, inp⟩]) ∧
            (c.cccOk = false → t.arrivals = s.arrivals ∧ t.agenda = s.agenda ∧
              (t.fabric.ports[port]).drops = p.drops + 1)))) ∧
    (∀ seq, let fs := p.framesFrom seq
      (p.up = true → (∃ f ∈ fs, f.seq = seq) → RunsTo (.linkNakReceive port seq) s fun t =>
        t.fabric.ports[port] = p.noteReplays s.cycle fs.length ∧ others t ∧ SameMemory s t ∧
        t.out = s.out ++ fs.map (OutMsg.frame port)) ∧
      (p.up = false ∨ (∀ f ∈ fs, f.seq ≠ seq) → Runs (.linkNakReceive port seq) s s)) ∧
    (p.absent = false → p.down = false →
      let again (t : State) : Prop := t.fabric.ports[port] = { p with up := false, training := true } ∧ others t ∧
        t.cores = s.cores ∧ SameMemory s t
      RunsTo (.portLossOfLock port) s again ∧
      (s.boot.failed = false → RunsTo (.portRetrain 0 port) s again) ∧
      (64 < p.recentReplays s.cycle → RunsTo (.replayLimit port) s again)) ∧
    (p.recentReplays s.cycle ≤ 64 → Runs (.replayLimit port) s s) ∧
    (∀ flight neigh nport, let up : Port := { p with up := true, training := false, flight := flight, neigh := neigh,
                                                     nport := nport, trained := s.cycle }
      let comesUp (t : State) : Prop := t.fabric.ports[port] = up ∧ others t ∧ t.out = s.out ++ p.buffer.map (OutMsg.frame port)
      (p.training = false → ∀ ok, Runs (.retrainDone port ok flight neigh nport) s s) ∧
      (p.training = true → RunsTo (.retrainDone port true flight neigh nport) s comesUp) ∧
      (p.training = true → RunsTo (.retrainDone port false flight neigh nport) s fun t =>
        let q := t.fabric.ports[port]
        q.down = true ∧ q.up = false ∧ q.queue = [] ∧ q.ctlQueue = [] ∧ q.cur = none ∧
        t.boot.failedPorts.getLsbD port.val = true ∧
        (p.queue = [] → p.cur = none → ∃ e, (t.flog[(0 : Fn)]).head? = some e ∧ e.cause = .uncorrectable ∧ e.unit = 5 ∧
          e.index = port.val)) ∧
      (p.absent = false → p.down = false → p.up = false → RunsTo (.linkTrained port flight neigh nport) s comesUp) ∧
      (p.absent = true ∨ p.down = true ∨ p.up = true → Runs (.linkTrained port flight neigh nport) s s)) ∧
    (∀ fn v dest e, fn ≠ 0 ∨ s.boot.failed = true → Runs (.portEnableWrite fn port v) s s ∧ Runs (.portRetrain fn port) s s ∧
      Runs (.fabIdWrite fn v) s s ∧ Runs (.routeTableWrite fn dest e) s s) ∧
    (s.boot.failed = false → ∀ v, v.getLsbD 1 = false →
      (v.getLsbD 0 = true → RunsTo (.portEnableWrite 0 port v) s fun t =>
        t.fabric.ports[port] = { p with enable := true } ∧ others t ∧ t.out = s.out) ∧
      (v.getLsbD 0 = false → RunsTo (.portEnableWrite 0 port v) s fun t => let q := t.fabric.ports[port]
        q.enable = false ∧ q.queue = [] ∧ q.ctlQueue = [] ∧ q.cur = none)) ∧
    (s.boot.failed = false → ∀ v, ((s.parts.any (·.exists_)) = true → Runs (.fabIdWrite 0 v) s s) ∧
      ((s.parts.any (·.exists_)) = false → RunsTo (.fabIdWrite 0 v) s fun t => t.fabric.fabId = v &&& 0x7FF ∧
        SameMemory s t ∧ ∀ c, (t.coreAt c).pkgId = v.setWidth 11)) ∧
    (s.boot.failed = false → regRead s 0 0x6200 = s.fabric.fabId ∧ (∀ fn : Fin 17, fn ≠ 0 → regRead s fn 0x6200 = 0) ∧
      ∀ fn v, exec (.registerWrite fn 0x6200 v) s = exec (.fabIdWrite fn v) s) ∧ State.reset.fabric.fabId = 0 ∧
    (s.boot.failed = false → ∀ (dest : Fin 2048) e, RunsTo (.routeTableWrite 0 dest e) s fun t => t.cores = s.cores ∧
      t.fabric.routes = SMap.set 0xFFFFF#32 s.fabric.routes dest.val (e &&& 0xFFFFF#32) ∧ t.fabric.ports = s.fabric.ports) ∧
    RunsTo (.controlDrop port) s fun t => (t.fabric.ports[port]).drops = 0 ∧ (t.fabric.ports[port]).cutDrops = [] ∧
      (p.drops ≠ 0 → p.cutDrops = [] → ∃ e, (t.flog[(0 : Fn)]).head? = some e ∧ e.cause = .controlDrop ∧ e.unit = 5 ∧
        e.index = port.val ∧ e.detail = min p.drops 0xFFFF) ∧
      ∀ fn n, p.cutDrops = [(fn, n)] → ∃ e, (t.flog[(0 : Fn)]).head? = some e ∧ e.cause = .controlDrop ∧ e.unit = 2 ∧
        e.index = port.val ∧ e.part = fn ∧ e.detail = min n 0xFFFF

/-- R7-R23, R255. Power, boot and errors. With good images and units the boot runs, counts itself and leaves the module
READY; a refused image or a failed self-test stops it with its code and image. Power applied waits for the boot; power
loss and a trip leave only the fuses. The window's power is judged against the cap in force, a hot die issues in one
cycle of two or four. Patrol counts what it corrects and marks what is lost; corrected errors are logged once and
counted anew. The model's choices behind it: log entries 1, 2, 29. -/
def Obligations.PowerBootAndErrors : Prop :=
  ∀ (s : State) (f : BootFindings),
    (s.boot.powered = false → ∀ i ∈ [Instr.powerOnReset f, .perst f, .thermtrip], Runs i s s) ∧
    (s.boot.powered = true → ∀ i ∈ [Instr.powerOnReset f, .perst f],
      let b := s.boot.begin (s.boot.count + 1)
      (∀ n code, loadImages b f.images = (n, some code) → RunsTo i s fun t => t.boot.failed = true ∧
        t.boot.fcode = code ∧ t.boot.image = n ∧ t.boot.stage = (if n = 0 then 1 else 2) ∧
        t.boot.count = (s.boot.count + 1) % 2 ^ 64 ∧ ∀ a, t.mem.read a = 0) ∧
      (∀ n code, loadImages b f.images = (n, none) → selfTestFault (degradedQuads b f) f = some code → RunsTo i s fun t =>
        t.boot.failed = true ∧ t.boot.fcode = code ∧ t.boot.stage = 3) ∧
      (∀ n, loadImages b f.images = (n, none) → selfTestFault (degradedQuads b f) f = none → RunsTo i s fun t =>
        t.boot.failed = false ∧ t.boot.stage = 7 ∧ t.boot.count = (s.boot.count + 1) % 2 ^ 64 ∧
        t.degQuads = degradedQuads b f ∧ t.degSlices = f.slices ∧ t.degWays = f.ways ∧ t.degChans = f.channels ∧
        t.degPorts = f.ports ||| s.boot.failedPorts ∧ t.cycle = 0 ∧
        (∀ port : Fin 20, (t.fabric.ports[port]).absent = (f.ports ||| s.boot.failedPorts).getLsbD port.val) ∧
        t.boot.secret = s.boot.secret ∧ t.boot.root = Config.rootPair s.boot.secret ∧
        t.boot.identity = Config.identityPair s.boot.secret t.boot.digests ∧ t.boot.digests.head? = some f.romDigest ∧
        t.power.gate = s.power.gate ∧
        (∀ c, t.coreAt c = State.reset.coreAt c) ∧ (∀ part : Fin 17, (t.parts[part]).exists_ = false) ∧
        t.hostMem = s.hostMem ∧ ∀ a, t.mem.read a = 0)) ∧
    (RunsTo .perstDeassert s fun t => t.boot.perst = false ∧ t.cores = s.cores ∧ SameMemory s t) ∧
    (s.boot.powered = true → Runs .powerApplied s s) ∧
    (s.boot.powered = false → RunsTo .powerApplied s fun t => t.boot.powered = true ∧ t.boot.stage = Boot.reset.stage ∧
      t.boot.count = s.boot.count % 2 ^ 64) ∧
    (∀ w one, RunsTo (.powerLoss w one) s fun t => t.boot.powered = false ∧ (∀ a, t.mem.read a = 0) ∧
      t.hostMem = s.hostMem ∧ t.boot.keys = s.boot.keys ∧ t.boot.minVers = s.boot.minVers ∧
      t.boot.badCore = s.boot.badCore ∧
      t.boot.count = (s.boot.count + (if w then if one then 2 else 1 else 0)) % 2 ^ 64) ∧
    (s.boot.powered = true → RunsTo .thermtrip s fun t => t.boot.powered = false ∧ (∀ a, t.mem.read a = 0) ∧
      t.boot.count = s.boot.count % 2 ^ 64 ∧ t.out = s.out ++ [.thermtrip]) ∧
    (∀ watts, RunsTo (.powerWindowEnd watts) s fun t => t.cores = s.cores ∧ SameMemory s t ∧
      t.power.exceeded = decide (s.power.inForce < watts) ∧ t.power.last = watts ∧ t.power.inForce = s.power.cap ∧
      t.power.gated = (if s.power.inForce < watts then min 0xFFFF (s.power.gated + 1) else min 0xFFFF s.power.gated)) ∧
    (∀ (die : Fin 4) celsius, RunsTo (.junctionTemperature die celsius) s fun t => t.cores = s.cores ∧
      t.power.gate[die] = (if 100 ≤ celsius then 4 else if 95 ≤ celsius then 2 else 1) ∧
      (∀ d, d ≠ die → t.power.gate[d] = s.power.gate[d]) ∧
      t.agenda = if 110 ≤ celsius then s.agenda ++ [⟨.thermtrip, Input.reset⟩] else s.agenda) ∧
    (∀ c, s.power.gate[dieOf c] = 1 → gateOf s c = if s.power.exceeded then 2 else 1) ∧
    (∀ dpa, Runs (.patrolScrub dpa .clean) s s ∧
      (RunsTo (.patrolScrub dpa .corrected) s fun t => SameMemory s t ∧ t.badLines = s.badLines ∧
        let k := 4 + 8 * chanOf dpa
        let e := SMap.get (0, 0) s.ecc k
        t.ecc = SMap.set (0, 0) s.ecc k (e.1 + 1, if e.1 = 0 then s.cycle else e.2)) ∧
      RunsTo (.patrolScrub dpa .uncorrectable) s fun t => SameMemory s t ∧
        t.badLines = SMap.set 0 s.badLines (dpa / 64) 1 ∧
        ∃ e, (t.flog[(0 : Fn)]).head? = some e ∧ e.cause = .uncorrectable ∧ e.addr = BitVec.ofNat 64 dpa ∧ e.unit = 4) ∧
    (∀ unit index, let k := unitCode unit + 8 * index
      let n := (SMap.get (0, 0) s.ecc k).1
      let since := (SMap.get (0, 0) s.ecc k).2
      (n = 0 ∨ s.cycle < since + 1600000000 → RunsTo (.corrected unit index) s fun t => SameMemory s t ∧ t.flog = s.flog ∧
        t.ecc = SMap.set (0, 0) s.ecc k (n + 1, if n = 0 then s.cycle else since) ∧
        (unit = .core → ∀ c : Fin 256, index = c.val → t.coreAt c = (s.coreAt c).count 14 1)) ∧
      (n ≠ 0 → since + 1600000000 ≤ s.cycle → RunsTo (.corrected unit index) s fun t =>
        t.ecc = SMap.set (0, 0) s.ecc k (0, 0) ∧ SameMemory s t ∧ t.cores = s.cores ∧
        ∃ e, (t.flog[(0 : Fn)]).head? = some e ∧ e.cause = .corrected ∧ e.unit = unitCode unit ∧ e.index = index ∧
          e.detail = min n 0xFFFF))

/-- R178, R182, R183, R186-R191, R393, R404. A near-bank run on its channel. Each state lasts as long as its rule says. It
leaves the queue with its image for GUARD, or ends where the check fails; the sweep leaves no line of its planes in L2; with
tokens it runs. A boundary does a row step of every unit, then ends it, suspends it for a waiting request, waits for tokens
or goes on; a line that fails its check ends it. The banks are handed over, taken back after the window, and its end writes
the record and sends the completion. The model's choices behind it: log entries 22, 26. -/
def Obligations.NearBankRunSteps : Prop :=
  ∀ (s : State) (ch : Fin 256) (r : NbRun) (rest : List NbRun), s.inp.chan = ch → s.nb[ch] = r :: rest →
    let front (t : State) (x : NbRun) : Prop := (t.nb[ch]).head? = some x
    let heads (t : State) (x : NbRun) : Prop := t.nb[ch] = x :: rest
    let gone (u : State) : State := { u with nb := u.nb.set ch rest }
    let after (st : NbState) (n : Nat) (i : Instr) : Prop := r.state = st → (nbDue s ch = some i ↔ r.since + n ≤ s.cycle)
    let quiet : Prop := requestWaits s ch = false ∧ r.quiet + 16 ≤ s.cycle
    after .guard (1536 + 2 * r.written) .nbGuardDone ∧ after .run 160 .nbRowBoundary ∧ after .suspending 56 .nbSuspendDone ∧
    after .resuming 32 .nbResumeDone ∧ after .finish 64 .nbRunFinish ∧
    (r.state = .window → (nbDue s ch = some .nbWindowClose ↔ r.kill.isSome = true ∨ quiet ∨ r.since + 4096 ≤ s.cycle)) ∧
    (r.state = .queued → nbDue s ch = some .nbRunDequeue ∧
      ((∀ m ∈ s.cmds, m.id ≠ r.cmd) → Runs .nbRunDequeue s (gone s)) ∧
      ∀ m, s.cmds.find? (·.id = r.cmd) = some m →
        let im := slotImage s r.part ch.val (rdSlot r.desc)
        (∀ e, checkPlanes s m im r.desc r.planes (some ch.val) = .error e → Runs .nbRunDequeue s
          (((gone s).tlbPlanes m im r.desc r.planes).completeRun { r with image := im } e)) ∧
        ∀ ps, checkPlanes s m im r.desc r.planes (some ch.val) = .ok ps → RunsTo .nbRunDequeue s fun t =>
          ∃ x, front t x ∧ x.state = .guard ∧ x.image = im ∧ x.planes = ps ∧ x.start = s.cycle ∧ x.since = s.cycle ∧
            x.cmd = r.cmd ∧ x.desc = r.desc ∧ x.rows = r.rows ∧
            ∀ l ∈ t.l2, l.win = none → x.inPlanes (64 * l.line) = false) ∧
    (r.state = .guard → let u := ((s.sweepPlanes ch r).guardSweep r).1
      let n := ((s.sweepPlanes ch r).guardSweep r).2
      (∀ e, r.kill = some e → Runs .nbGuardDone s
        (({ u with nb := u.nb.set ch ((u.nb[ch]).drop 1) } : State).completeRun r e)) ∧
      (r.kill = none → n ≠ 0 → RunsTo .nbGuardDone s fun t => t.mem = u.mem ∧
        front t { r with written := r.written + n }) ∧
      (r.kill = none → n = 0 →
        (hasTokens u ch r.part 8 = true → RunsTo .nbGuardDone s fun t => t.mem = u.mem ∧
          front t { r with state := .run, since := u.cycle + 32, steps := 0, mpc := 0 }) ∧
        (hasTokens u ch r.part 8 = false → RunsTo .nbGuardDone s fun t => t.mem = u.mem ∧
          front t { r with state := .tokenWait, since := u.cycle + 32, mpc := 0 }))) ∧
    (r.state = .run →
      (∀ e, stepFault s r = some e → RunsTo .nbRowBoundary s fun t => SameMemory s t ∧
        heads t { r with state := .finish, since := s.cycle, ended := some e }) ∧
      (stepFault s r = none → let u := (s.channelStep ch r).1
        let x := (s.channelStep ch r).2
        let lasts (P : State → Prop) : Prop := RunsTo .nbRowBoundary s fun t => t.mem = u.mem ∧ P t
        x.mpc = r.mpc + 1 ∧
        (∀ bank < 32, ∀ row, (bankRows r.desc bank)[r.mpc / segsOf r.image r.desc]? = some row →
          SMap.get 0 u.openRows (32 * ch.val + bank) = 0) ∧
        (∀ e, x.kill = some e → lasts fun t => front t { x with state := .finish, since := u.cycle, ended := some e }) ∧
        (x.kill = none → nbSteps x ≤ x.mpc → lasts fun t =>
          front t { x with state := .finish, since := u.cycle, ended := some 0 }) ∧
        (x.kill = none → x.mpc < nbSteps x →
          (2 ≤ x.steps → requestWaits u ch = true → lasts fun t =>
            front t { x with state := .suspending, since := u.cycle }) ∧
          (x.steps < 2 ∨ requestWaits u ch = false →
            (hasTokens u ch x.part 8 = false → lasts fun t => front t { x with state := .tokenWait, since := u.cycle }) ∧
            (hasTokens u ch x.part 8 = true → lasts fun t => front t { x with since := u.cycle }))))) ∧
    (r.state = .suspending → RunsTo .nbSuspendDone s fun t =>
      front t { r with state := .window, since := s.cycle, quiet := s.cycle, susp := r.susp + 1 }) ∧
    (r.state = .window →
      (r.kill = none → RunsTo .nbWindowClose s fun t => SameMemory s t ∧ t.cores = s.cores ∧
        heads t { r with state := .resuming, since := s.cycle }) ∧
      ∀ e, r.kill = some e → RunsTo .nbWindowClose s fun t => SameMemory s t ∧
        heads t { r with state := .finish, since := s.cycle, ended := some e }) ∧
    (r.state = .resuming →
      (hasTokens s ch r.part 8 = true → RunsTo .nbResumeDone s fun t => SameMemory s t ∧ t.cores = s.cores ∧
        heads t { r with state := .run, since := s.cycle, steps := 0 }) ∧
      (hasTokens s ch r.part 8 = false → RunsTo .nbResumeDone s fun t => SameMemory s t ∧ t.cores = s.cores ∧
        heads t { r with state := .tokenWait, since := s.cycle })) ∧
    (r.state = .tokenWait →
      (∀ e, r.kill = some e → RunsTo .nbTokensReady s fun t =>
        front t { r with state := .finish, since := s.cycle, ended := some e }) ∧
      (r.kill = none → requestWaits s ch = true → RunsTo .nbTokensReady s fun t =>
        front t { r with state := .suspending, since := s.cycle }) ∧
      (r.kill = none → requestWaits s ch = false → hasTokens s ch r.part 8 = true → RunsTo .nbTokensReady s fun t =>
        front t { r with state := .run, since := s.cycle, steps := 0 }) ∧
      (r.kill = none → requestWaits s ch = false → hasTokens s ch r.part 8 = false → Runs .nbTokensReady s s)) ∧
    (∀ e, r.state = .finish → r.ended = some e → Runs .nbRunFinish s ((gone s).completeRun r e) ∧
      ∀ m, s.cmds.find? (·.id = r.cmd) = some m → rdStatus m.block = 0 → m.c.getLsbD 24 = false → ∀ g, m.tag = some g →
        (s.coreAt m.core).launch = m.launch → (s.coreAt m.core).tags[g] = .busy false →
        RunsTo .nbRunFinish s fun t => t.nb[ch] = rest ∧ (t.coreAt m.core).tags[g] = .done (nbStatus e))

/-! ### Encodings -/

/-- R262-R277. Decoding undoes encoding: a slot word, its class and its literal, written for a well-formed instruction,
decode to that instruction, with every operand at every value the encoding admits. -/
def Obligations.DecodingUndoesEncoding : Prop :=
  ∀ (i : Instr) (e : Encoded), i.wellFormed = true → encode i = some e → decodeEncoded e = .ok i

/-- R262-R277. What decodes is well formed, and encoding it gives back the class, every bit of the word and the literal: no
bit of a word that decodes is dropped or read twice. -/
def Obligations.EncodingUndoesDecoding : Prop :=
  ∀ (cls : SlotClass) (w : BWord) (lit : Option BWord) (i : Instr), decodeSlot cls w lit = .ok i →
    i.wellFormed = true ∧ encode i = some ⟨cls, w, lit⟩

/-- R266-R277, R286. Words written out from the encoding tables, and the words of the examples of sections 14 and 15, decode
to the instructions they stand for; a zeroed word, an unassigned opcode, a literal beside a field it replaces, SZ 7, a W of
20, vector specifier 42, ZLT of f32 and type 14 are refused under their causes. -/
def Obligations.WordsDecodeToTheirInstructions : Prop :=
  decodeSlot .s 0x31486000 (some 0x000186A0) = .ok (.addi (.x 2) 3 (.lit 100000)) ∧
  decodeSlot .s 0x31486064 none = .ok (.addi (.x 2) 3 (.imm13 100)) ∧
  decodeSlot .s 0x30002003 none = .ok (.li 1 (.imm13 3)) ∧
  decodeSlot .s 0x31443FFF none = .ok (.addi (.x 1) 1 (.imm13 0x1FFF)) ∧
  decodeSlot .s 0x5247FFFE none = .ok (.bnez (.x 1) (.off18 0x3FFFE)) ∧
  decodeSlot .s 0x02000000 none = .ok .endI ∧
  decodeSlot .s 0x12492180 none = .ok (.mul (.x 2) (.spec (.x 2)) 3 false) ∧
  decodeSlot .s 0x40442C03 none = .ok (.ld (.x 1) none 1 0x180 .d) ∧
  decodeSlot .v 0x01020000 none = .ok (.vadd (.take 0) (.spec (.stream 0)) .f32 0) ∧
  decodeSlot .v 0x040410C4 none = .ok (.vfma (.take 1) (.spec (.take 1)) (.take 3) .bf16 0) ∧
  decodeSlot .m 0x01289F81 none = .ok (.mop 1 2 1 63 true) ∧
  decodeSlot .c 0x01154485 none = .ok (.cpy 5 (.x 4) (.x 2) (.spec (.take 5))) ∧
  decodeSlot .s 0 none = .error .illegalOpcode ∧ decodeSlot .v 0 none = .error .illegalOpcode ∧
  decodeSlot .m 0 none = .error .illegalOpcode ∧ decodeSlot .c 0 none = .error .illegalOpcode ∧
  decodeSlot .s 0x06000000 none = .error .illegalOpcode ∧
  decodeSlot .s 0x31486064 (some 7) = .error .illegalOpcode ∧
  decodeSlot .s 0x40440007 none = .error .illegalOpcode ∧
  decodeSlot .s 0x10000A00 none = .error (.operandReserved 20 3) ∧
  decodeSlot .v 0x01A80000 none = .error (.operandReserved 42 0) ∧
  decodeSlot .v 0x30000180 none = .error .typeReserved ∧
  decodeSlot .v 0x01000038 none = .error .typeReserved

/-! ### Results, reset, progress -/

/-- R140-R142. A result claimed at issue cycle c with latency L is take t0, and t0 to t14 become t1 to t15; a W from 1 to 15
writes that named register too and no other. A read at c + L or later gives the result; of the take, a read before it gives
the value of the result claimed 16 claims earlier or the new one, of a register without another write pending its old
value or the new one. x0 reads zero. Once a trap has landed the interrupted context, every
read gives the new value. A read in a shadow raises SHADOW_READ where SHADOWCHK.EN is set, and otherwise gives one of the
candidates; which one is a free value (log entry 9). -/
def Obligations.ResultsLandAndCastShadows : Prop :=
  ∀ (s : State) (v : Word) (lat : Nat) (w : WReg) (c : Nat),
    let k : Core := { s.cur with clk := c }
    let k' : Core := { (s.result v lat w).cur with clk := c }
    let l := s.cur.level
    let done := s.cur.clk + lat
    k'.level = l ∧
    (done ≤ c → k'.seeTake l 0 = .settled v) ∧
    (c < done → ∀ t, (s.cur.bank l).takes[15]? = some t → t.load = none → k'.seeTake l 0 = .shadow [t.val, v]) ∧
    (∀ n : Fin 15, k'.seeTake l ⟨n.val + 1, by omega⟩ = k.seeTake l ⟨n.val, by omega⟩) ∧
    k'.seeX l 0 = .settled 0 ∧ (∀ n, n ≠ w → k'.seeX l n = k.seeX l n) ∧
    (w ≠ 0 → s.cur.clk ≤ c →
      (∀ p ∈ ((s.cur.bank l).x[w]).pend, p.load = none ∧ p.land ≤ c) →
      (done ≤ c → k'.seeX l w = .settled v) ∧
      ∀ old, c < done → k.seeX l w = .settled old → k'.seeX l w = .shadow [old, v]) ∧
    (∀ m, m ≠ l → k'.bank m = s.cur.bank m) ∧
    (∀ m (n : Fin 16), (∀ t, (s.cur.bank m).takes[n.val]? = some t → t.load = none →
        s.cur.landAll.seeTake m n = .settled t.val) ∧
      ((∀ p ∈ ((s.cur.bank m).x[n]).pend, p.load = none) → ∃ y, s.cur.landAll.seeX m n = .settled y)) ∧
    ∀ (d x : Word) (cands : List Word) (info : Word),
      readSeen s d (.settled x) info = .ok x s ∧
      (s.pre.shadowchk.getLsbD 0 = true →
        readSeen s d (.shadow cands) info = .trap (slotTrap s .shadowRead info)) ∧
      (s.pre.shadowchk.getLsbD 0 = false → cands ≠ [] →
        ∃ y ∈ cands, readSeen s d (.shadow cands) info = .ok y { s with free := s.free + 1 })

/-- R7, R11, R12, R29, R37, R44, R45, R51-R56, R107, R139, R140. After reset both memories are in their canonical form, no
core runs, and the registers read as their tables say. Every instruction answers a next state in every state, so that a
step always goes on but where the module has no power and nothing is on the agenda; how power stands at reset is the
model's choice (log entry 1). -/
def Obligations.ResetStateAndProgress : Prop :=
  State.reset.memoriesOk ∧ State.reset.boot.powered = true ∧
  (∀ c : Fin 256, (State.reset.coreAt c).run = .idle ∧
    ∀ l n, (State.reset.coreAt c).seeTake l n = .settled 0 ∧ (State.reset.coreAt c).seeX l n = .settled 0) ∧
  (∀ p : Fin 17, (State.reset.parts[p]).exists_ = false) ∧
  regRead State.reset 0 0x0F10 = 0x960 ∧ regRead State.reset 0 0x6200 = 0 ∧
  (∀ fn : Fin 17, regRead State.reset fn 0 = BitVec.ofNat 64 fn.val ∧ regRead State.reset fn 8 = 0 ∧
    regRead State.reset fn 0x10 = 0 ∧ regRead State.reset fn 0x50 = 0) ∧
  (∀ (fn : Fin 17) (q : Fin 64) (n : Fin 8), regRead State.reset fn (0x1000 + 64 * q.val + 8 * n.val) = 0) ∧
  (∀ d : Fin 1024, regRead State.reset 0 (0x4000 + 8 * d.val) = 0x000FFFFF000FFFFF) ∧
  (∀ p : Fin 20, regRead State.reset 0 (0x6000 + 16 * p.val) = 0 ∧ regRead State.reset 0 (0x6008 + 16 * p.val) = 1) ∧
  (∀ (fn : Fin 17) (q : Fin 16), fn ≠ 0 → regRead State.reset fn (0x6800 + 8 * q.val) = 0) ∧
  State.reset.sheet.ageq = 100 ∧ State.reset.powerLegal ∧
  (∀ (i : Instr) (s : State), Goes (exec i s)) ∧
  (∀ s : State, s.boot.powered = true ∨ s.agenda ≠ [] → Goes (step s)) ∧
  ∀ s : State, s.boot.powered = false → s.agenda = [] → step s = .fault .noPower

/-- R10, R11. Every step keeps the power controller's registers legal: the cap that PWR_CAP holds and the cap in force lie
from 1,200 to 2,400 W, GATED does not pass 0xFFFF, and every die issues in one cycle of one, two or four. -/
def Obligations.EveryStepKeepsPowerRegistersLegal : Prop :=
  ∀ s t : State, s.powerLegal → step s = .next t → t.powerLegal
end

