-- ==== Sys2Proof/Laws/Encoding.lean ====
section
/-! SUPPORT. Packing and unpacking of slot words: a field of a packed word is what was packed, and the fields of a word
pack to it again; codes of operands, types and modes and back (R267-R272). -/

namespace Sys2Proof

theorem packSA_bit (op : BitVec 8) (a : BitVec 6) (b : BitVec 6) (w : BitVec 5) (f : BitVec 7) (n : Nat) :
    (packSA op a b w f).getLsbD n =
      if n < 7 then f.getLsbD n else
      if n < 12 then w.getLsbD (n - 7) else
      if n < 18 then b.getLsbD (n - 12) else
      if n < 24 then a.getLsbD (n - 18) else
      op.getLsbD (n - 24) := by
  show BitVec.getLsbD (w := 8 + 6 + 6 + 5 + 7) (op ++ a ++ b ++ w ++ f) n = _
  simp only [BitVec.getLsbD_append]
  split_ifs <;> first | omega | rfl

@[simp] theorem fOp_packSA (op : BitVec 8) (a : BitVec 6) (b : BitVec 6) (w : BitVec 5) (f : BitVec 7) :
    fOp (packSA op a b w f) = op := by
  apply BitVec.eq_of_getLsbD_eq; intro n hn
  simp only [fOp, BitVec.getLsbD_extractLsb', packSA_bit, hn, decide_true, Bool.true_and]
  split_ifs <;> first | omega | (congr 1; omega)

@[simp] theorem fA_packSA (op : BitVec 8) (a : BitVec 6) (b : BitVec 6) (w : BitVec 5) (f : BitVec 7) :
    fA (packSA op a b w f) = a := by
  apply BitVec.eq_of_getLsbD_eq; intro n hn
  simp only [fA, BitVec.getLsbD_extractLsb', packSA_bit, hn, decide_true, Bool.true_and]
  split_ifs <;> first | omega | (congr 1; omega)

@[simp] theorem fB_packSA (op : BitVec 8) (a : BitVec 6) (b : BitVec 6) (w : BitVec 5) (f : BitVec 7) :
    fB (packSA op a b w f) = b := by
  apply BitVec.eq_of_getLsbD_eq; intro n hn
  simp only [fB, BitVec.getLsbD_extractLsb', packSA_bit, hn, decide_true, Bool.true_and]
  split_ifs <;> first | omega | (congr 1; omega)

@[simp] theorem fW_packSA (op : BitVec 8) (a : BitVec 6) (b : BitVec 6) (w : BitVec 5) (f : BitVec 7) :
    fW (packSA op a b w f) = w := by
  apply BitVec.eq_of_getLsbD_eq; intro n hn
  simp only [fW, BitVec.getLsbD_extractLsb', packSA_bit, hn, decide_true, Bool.true_and]
  split_ifs <;> first | omega | (congr 1; omega)

@[simp] theorem fF_packSA (op : BitVec 8) (a : BitVec 6) (b : BitVec 6) (w : BitVec 5) (f : BitVec 7) :
    fF (packSA op a b w f) = f := by
  apply BitVec.eq_of_getLsbD_eq; intro n hn
  simp only [fF, BitVec.getLsbD_extractLsb', packSA_bit, hn, decide_true, Bool.true_and]
  split_ifs <;> first | omega | (congr 1; omega)

/-- The fields of a word pack to it again. -/
theorem packSA_fields (x : BWord) : packSA (fOp x) (fA x) (fB x) (fW x) (fF x) = x := by
  apply BitVec.eq_of_getLsbD_eq; intro n hn
  simp only [packSA_bit, fOp, fA, fB, fW, fF, BitVec.getLsbD_extractLsb']
  split_ifs with h1 h2 h3 h4
  · rw [show decide (n < 7) = true by simp; omega, Bool.true_and]; congr 1; omega
  · rw [show decide (n - 7 < 5) = true by simp; omega, Bool.true_and]; congr 1; omega
  · rw [show decide (n - 12 < 6) = true by simp; omega, Bool.true_and]; congr 1; omega
  · rw [show decide (n - 18 < 6) = true by simp; omega, Bool.true_and]; congr 1; omega
  · rw [show decide (n - 24 < 8) = true by simp; omega, Bool.true_and]; congr 1; omega

theorem packSI_bit (op : BitVec 8) (a : BitVec 6) (w : BitVec 5) (i : BitVec 13) (n : Nat) :
    (packSI op a w i).getLsbD n =
      if n < 13 then i.getLsbD n else
      if n < 18 then w.getLsbD (n - 13) else
      if n < 24 then a.getLsbD (n - 18) else
      op.getLsbD (n - 24) := by
  show BitVec.getLsbD (w := 8 + 6 + 5 + 13) (op ++ a ++ w ++ i) n = _
  simp only [BitVec.getLsbD_append]
  split_ifs <;> first | omega | rfl

@[simp] theorem fOp_packSI (op : BitVec 8) (a : BitVec 6) (w : BitVec 5) (i : BitVec 13) :
    fOp (packSI op a w i) = op := by
  apply BitVec.eq_of_getLsbD_eq; intro n hn
  simp only [fOp, BitVec.getLsbD_extractLsb', packSI_bit, hn, decide_true, Bool.true_and]
  split_ifs <;> first | omega | (congr 1; omega)

@[simp] theorem fA_packSI (op : BitVec 8) (a : BitVec 6) (w : BitVec 5) (i : BitVec 13) : fA (packSI op a w i) = a := by
  apply BitVec.eq_of_getLsbD_eq; intro n hn
  simp only [fA, BitVec.getLsbD_extractLsb', packSI_bit, hn, decide_true, Bool.true_and]
  split_ifs <;> first | omega | (congr 1; omega)

@[simp] theorem fWi_packSI (op : BitVec 8) (a : BitVec 6) (w : BitVec 5) (i : BitVec 13) :
    fWi (packSI op a w i) = w := by
  apply BitVec.eq_of_getLsbD_eq; intro n hn
  simp only [fWi, BitVec.getLsbD_extractLsb', packSI_bit, hn, decide_true, Bool.true_and]
  split_ifs <;> first | omega | (congr 1; omega)

@[simp] theorem fImm_packSI (op : BitVec 8) (a : BitVec 6) (w : BitVec 5) (i : BitVec 13) :
    fImm (packSI op a w i) = i := by
  apply BitVec.eq_of_getLsbD_eq; intro n hn
  simp only [fImm, BitVec.getLsbD_extractLsb', packSI_bit, hn, decide_true, Bool.true_and]
  split_ifs <;> first | omega | (congr 1; omega)

/-- The fields of a word pack to it again. -/
theorem packSI_fields (x : BWord) : packSI (fOp x) (fA x) (fWi x) (fImm x) = x := by
  apply BitVec.eq_of_getLsbD_eq; intro n hn
  simp only [packSI_bit, fOp, fA, fWi, fImm, BitVec.getLsbD_extractLsb']
  split_ifs with h1 h2 h3
  · rw [show decide (n < 13) = true by simp; omega, Bool.true_and]; congr 1; omega
  · rw [show decide (n - 13 < 5) = true by simp; omega, Bool.true_and]; congr 1; omega
  · rw [show decide (n - 18 < 6) = true by simp; omega, Bool.true_and]; congr 1; omega
  · rw [show decide (n - 24 < 8) = true by simp; omega, Bool.true_and]; congr 1; omega

theorem packSB_bit (op : BitVec 8) (a : BitVec 6) (o : BitVec 18) (n : Nat) :
    (packSB op a o).getLsbD n =
      if n < 18 then o.getLsbD n else
      if n < 24 then a.getLsbD (n - 18) else
      op.getLsbD (n - 24) := by
  show BitVec.getLsbD (w := 8 + 6 + 18) (op ++ a ++ o) n = _
  simp only [BitVec.getLsbD_append]
  split_ifs <;> first | omega | rfl

@[simp] theorem fOp_packSB (op : BitVec 8) (a : BitVec 6) (o : BitVec 18) : fOp (packSB op a o) = op := by
  apply BitVec.eq_of_getLsbD_eq; intro n hn
  simp only [fOp, BitVec.getLsbD_extractLsb', packSB_bit, hn, decide_true, Bool.true_and]
  split_ifs <;> first | omega | (congr 1; omega)

@[simp] theorem fA_packSB (op : BitVec 8) (a : BitVec 6) (o : BitVec 18) : fA (packSB op a o) = a := by
  apply BitVec.eq_of_getLsbD_eq; intro n hn
  simp only [fA, BitVec.getLsbD_extractLsb', packSB_bit, hn, decide_true, Bool.true_and]
  split_ifs <;> first | omega | (congr 1; omega)

@[simp] theorem fOff_packSB (op : BitVec 8) (a : BitVec 6) (o : BitVec 18) : fOff (packSB op a o) = o := by
  apply BitVec.eq_of_getLsbD_eq; intro n hn
  simp only [fOff, BitVec.getLsbD_extractLsb', packSB_bit, hn, decide_true, Bool.true_and]
  split_ifs <;> first | omega | (congr 1; omega)

/-- The fields of a word pack to it again. -/
theorem packSB_fields (x : BWord) : packSB (fOp x) (fA x) (fOff x) = x := by
  apply BitVec.eq_of_getLsbD_eq; intro n hn
  simp only [packSB_bit, fOp, fA, fOff, BitVec.getLsbD_extractLsb']
  split_ifs with h1 h2
  · rw [show decide (n < 18) = true by simp; omega, Bool.true_and]; congr 1; omega
  · rw [show decide (n - 18 < 6) = true by simp; omega, Bool.true_and]; congr 1; omega
  · rw [show decide (n - 24 < 8) = true by simp; omega, Bool.true_and]; congr 1; omega

theorem packVA_bit (op : BitVec 8) (a : BitVec 6) (b : BitVec 6) (c : BitVec 6) (t : BitVec 4) (p : BitVec 2) (n : Nat) :
    (packVA op a b c t p).getLsbD n =
      if n < 2 then p.getLsbD n else
      if n < 6 then t.getLsbD (n - 2) else
      if n < 12 then c.getLsbD (n - 6) else
      if n < 18 then b.getLsbD (n - 12) else
      if n < 24 then a.getLsbD (n - 18) else
      op.getLsbD (n - 24) := by
  show BitVec.getLsbD (w := 8 + 6 + 6 + 6 + 4 + 2) (op ++ a ++ b ++ c ++ t ++ p) n = _
  simp only [BitVec.getLsbD_append]
  split_ifs <;> first | omega | rfl

@[simp] theorem fOp_packVA (op : BitVec 8) (a : BitVec 6) (b : BitVec 6) (c : BitVec 6) (t : BitVec 4) (p : BitVec 2) :
    fOp (packVA op a b c t p) = op := by
  apply BitVec.eq_of_getLsbD_eq; intro n hn
  simp only [fOp, BitVec.getLsbD_extractLsb', packVA_bit, hn, decide_true, Bool.true_and]
  split_ifs <;> first | omega | (congr 1; omega)

@[simp] theorem fA_packVA (op : BitVec 8) (a : BitVec 6) (b : BitVec 6) (c : BitVec 6) (t : BitVec 4) (p : BitVec 2) :
    fA (packVA op a b c t p) = a := by
  apply BitVec.eq_of_getLsbD_eq; intro n hn
  simp only [fA, BitVec.getLsbD_extractLsb', packVA_bit, hn, decide_true, Bool.true_and]
  split_ifs <;> first | omega | (congr 1; omega)

@[simp] theorem fB_packVA (op : BitVec 8) (a : BitVec 6) (b : BitVec 6) (c : BitVec 6) (t : BitVec 4) (p : BitVec 2) :
    fB (packVA op a b c t p) = b := by
  apply BitVec.eq_of_getLsbD_eq; intro n hn
  simp only [fB, BitVec.getLsbD_extractLsb', packVA_bit, hn, decide_true, Bool.true_and]
  split_ifs <;> first | omega | (congr 1; omega)

@[simp] theorem fC_packVA (op : BitVec 8) (a : BitVec 6) (b : BitVec 6) (c : BitVec 6) (t : BitVec 4) (p : BitVec 2) :
    fC (packVA op a b c t p) = c := by
  apply BitVec.eq_of_getLsbD_eq; intro n hn
  simp only [fC, BitVec.getLsbD_extractLsb', packVA_bit, hn, decide_true, Bool.true_and]
  split_ifs <;> first | omega | (congr 1; omega)

@[simp] theorem fT_packVA (op : BitVec 8) (a : BitVec 6) (b : BitVec 6) (c : BitVec 6) (t : BitVec 4) (p : BitVec 2) :
    fT (packVA op a b c t p) = t := by
  apply BitVec.eq_of_getLsbD_eq; intro n hn
  simp only [fT, BitVec.getLsbD_extractLsb', packVA_bit, hn, decide_true, Bool.true_and]
  split_ifs <;> first | omega | (congr 1; omega)

@[simp] theorem fP_packVA (op : BitVec 8) (a : BitVec 6) (b : BitVec 6) (c : BitVec 6) (t : BitVec 4) (p : BitVec 2) :
    fP (packVA op a b c t p) = p := by
  apply BitVec.eq_of_getLsbD_eq; intro n hn
  simp only [fP, BitVec.getLsbD_extractLsb', packVA_bit, hn, decide_true, Bool.true_and]
  split_ifs <;> first | omega | (congr 1; omega)

/-- The fields of a word pack to it again. -/
theorem packVA_fields (x : BWord) : packVA (fOp x) (fA x) (fB x) (fC x) (fT x) (fP x) = x := by
  apply BitVec.eq_of_getLsbD_eq; intro n hn
  simp only [packVA_bit, fOp, fA, fB, fC, fT, fP, BitVec.getLsbD_extractLsb']
  split_ifs with h1 h2 h3 h4 h5
  · rw [show decide (n < 2) = true by simp; omega, Bool.true_and]; congr 1; omega
  · rw [show decide (n - 2 < 4) = true by simp; omega, Bool.true_and]; congr 1; omega
  · rw [show decide (n - 6 < 6) = true by simp; omega, Bool.true_and]; congr 1; omega
  · rw [show decide (n - 12 < 6) = true by simp; omega, Bool.true_and]; congr 1; omega
  · rw [show decide (n - 18 < 6) = true by simp; omega, Bool.true_and]; congr 1; omega
  · rw [show decide (n - 24 < 8) = true by simp; omega, Bool.true_and]; congr 1; omega

theorem packMX_bit (op : BitVec 8) (z : BitVec 3) (a : BitVec 3) (b : BitVec 3) (k : BitVec 8) (f : BitVec 7) (n : Nat) :
    (packMX op z a b k f).getLsbD n =
      if n < 7 then f.getLsbD n else
      if n < 15 then k.getLsbD (n - 7) else
      if n < 18 then b.getLsbD (n - 15) else
      if n < 21 then a.getLsbD (n - 18) else
      if n < 24 then z.getLsbD (n - 21) else
      op.getLsbD (n - 24) := by
  show BitVec.getLsbD (w := 8 + 3 + 3 + 3 + 8 + 7) (op ++ z ++ a ++ b ++ k ++ f) n = _
  simp only [BitVec.getLsbD_append]
  split_ifs <;> first | omega | rfl

@[simp] theorem fOp_packMX (op : BitVec 8) (z : BitVec 3) (a : BitVec 3) (b : BitVec 3) (k : BitVec 8) (f : BitVec 7) :
    fOp (packMX op z a b k f) = op := by
  apply BitVec.eq_of_getLsbD_eq; intro n hn
  simp only [fOp, BitVec.getLsbD_extractLsb', packMX_bit, hn, decide_true, Bool.true_and]
  split_ifs <;> first | omega | (congr 1; omega)

@[simp] theorem fZ_packMX (op : BitVec 8) (z : BitVec 3) (a : BitVec 3) (b : BitVec 3) (k : BitVec 8) (f : BitVec 7) :
    fZ (packMX op z a b k f) = z := by
  apply BitVec.eq_of_getLsbD_eq; intro n hn
  simp only [fZ, BitVec.getLsbD_extractLsb', packMX_bit, hn, decide_true, Bool.true_and]
  split_ifs <;> first | omega | (congr 1; omega)

@[simp] theorem fTA_packMX (op : BitVec 8) (z : BitVec 3) (a : BitVec 3) (b : BitVec 3) (k : BitVec 8) (f : BitVec 7) :
    fTA (packMX op z a b k f) = a := by
  apply BitVec.eq_of_getLsbD_eq; intro n hn
  simp only [fTA, BitVec.getLsbD_extractLsb', packMX_bit, hn, decide_true, Bool.true_and]
  split_ifs <;> first | omega | (congr 1; omega)

@[simp] theorem fTB_packMX (op : BitVec 8) (z : BitVec 3) (a : BitVec 3) (b : BitVec 3) (k : BitVec 8) (f : BitVec 7) :
    fTB (packMX op z a b k f) = b := by
  apply BitVec.eq_of_getLsbD_eq; intro n hn
  simp only [fTB, BitVec.getLsbD_extractLsb', packMX_bit, hn, decide_true, Bool.true_and]
  split_ifs <;> first | omega | (congr 1; omega)

@[simp] theorem fK_packMX (op : BitVec 8) (z : BitVec 3) (a : BitVec 3) (b : BitVec 3) (k : BitVec 8) (f : BitVec 7) :
    fK (packMX op z a b k f) = k := by
  apply BitVec.eq_of_getLsbD_eq; intro n hn
  simp only [fK, BitVec.getLsbD_extractLsb', packMX_bit, hn, decide_true, Bool.true_and]
  split_ifs <;> first | omega | (congr 1; omega)

@[simp] theorem fFL_packMX (op : BitVec 8) (z : BitVec 3) (a : BitVec 3) (b : BitVec 3) (k : BitVec 8) (f : BitVec 7) :
    fFL (packMX op z a b k f) = f := by
  apply BitVec.eq_of_getLsbD_eq; intro n hn
  simp only [fFL, BitVec.getLsbD_extractLsb', packMX_bit, hn, decide_true, Bool.true_and]
  split_ifs <;> first | omega | (congr 1; omega)

/-- The fields of a word pack to it again. -/
theorem packMX_fields (x : BWord) : packMX (fOp x) (fZ x) (fTA x) (fTB x) (fK x) (fFL x) = x := by
  apply BitVec.eq_of_getLsbD_eq; intro n hn
  simp only [packMX_bit, fOp, fZ, fTA, fTB, fK, fFL, BitVec.getLsbD_extractLsb']
  split_ifs with h1 h2 h3 h4 h5
  · rw [show decide (n < 7) = true by simp; omega, Bool.true_and]; congr 1; omega
  · rw [show decide (n - 7 < 8) = true by simp; omega, Bool.true_and]; congr 1; omega
  · rw [show decide (n - 15 < 3) = true by simp; omega, Bool.true_and]; congr 1; omega
  · rw [show decide (n - 18 < 3) = true by simp; omega, Bool.true_and]; congr 1; omega
  · rw [show decide (n - 21 < 3) = true by simp; omega, Bool.true_and]; congr 1; omega
  · rw [show decide (n - 24 < 8) = true by simp; omega, Bool.true_and]; congr 1; omega

theorem packCX_bit (op : BitVec 8) (g : BitVec 6) (a : BitVec 6) (b : BitVec 6) (c : BitVec 6) (n : Nat) :
    (packCX op g a b c).getLsbD n =
      if n < 6 then c.getLsbD n else
      if n < 12 then b.getLsbD (n - 6) else
      if n < 18 then a.getLsbD (n - 12) else
      if n < 24 then g.getLsbD (n - 18) else
      op.getLsbD (n - 24) := by
  show BitVec.getLsbD (w := 8 + 6 + 6 + 6 + 6) (op ++ g ++ a ++ b ++ c) n = _
  simp only [BitVec.getLsbD_append]
  split_ifs <;> first | omega | rfl

@[simp] theorem fOp_packCX (op : BitVec 8) (g : BitVec 6) (a : BitVec 6) (b : BitVec 6) (c : BitVec 6) :
    fOp (packCX op g a b c) = op := by
  apply BitVec.eq_of_getLsbD_eq; intro n hn
  simp only [fOp, BitVec.getLsbD_extractLsb', packCX_bit, hn, decide_true, Bool.true_and]
  split_ifs <;> first | omega | (congr 1; omega)

@[simp] theorem fTag_packCX (op : BitVec 8) (g : BitVec 6) (a : BitVec 6) (b : BitVec 6) (c : BitVec 6) :
    fTag (packCX op g a b c) = g := by
  apply BitVec.eq_of_getLsbD_eq; intro n hn
  simp only [fTag, BitVec.getLsbD_extractLsb', packCX_bit, hn, decide_true, Bool.true_and]
  split_ifs <;> first | omega | (congr 1; omega)

@[simp] theorem fCA_packCX (op : BitVec 8) (g : BitVec 6) (a : BitVec 6) (b : BitVec 6) (c : BitVec 6) :
    fCA (packCX op g a b c) = a := by
  apply BitVec.eq_of_getLsbD_eq; intro n hn
  simp only [fCA, BitVec.getLsbD_extractLsb', packCX_bit, hn, decide_true, Bool.true_and]
  split_ifs <;> first | omega | (congr 1; omega)

@[simp] theorem fCB_packCX (op : BitVec 8) (g : BitVec 6) (a : BitVec 6) (b : BitVec 6) (c : BitVec 6) :
    fCB (packCX op g a b c) = b := by
  apply BitVec.eq_of_getLsbD_eq; intro n hn
  simp only [fCB, BitVec.getLsbD_extractLsb', packCX_bit, hn, decide_true, Bool.true_and]
  split_ifs <;> first | omega | (congr 1; omega)

@[simp] theorem fCC_packCX (op : BitVec 8) (g : BitVec 6) (a : BitVec 6) (b : BitVec 6) (c : BitVec 6) :
    fCC (packCX op g a b c) = c := by
  apply BitVec.eq_of_getLsbD_eq; intro n hn
  simp only [fCC, BitVec.getLsbD_extractLsb', packCX_bit, hn, decide_true, Bool.true_and]
  split_ifs <;> first | omega | (congr 1; omega)

/-- The fields of a word pack to it again. -/
theorem packCX_fields (x : BWord) : packCX (fOp x) (fTag x) (fCA x) (fCB x) (fCC x) = x := by
  apply BitVec.eq_of_getLsbD_eq; intro n hn
  simp only [packCX_bit, fOp, fTag, fCA, fCB, fCC, BitVec.getLsbD_extractLsb']
  split_ifs with h1 h2 h3 h4
  · rw [show decide (n < 6) = true by simp; omega, Bool.true_and]; congr 1; omega
  · rw [show decide (n - 6 < 6) = true by simp; omega, Bool.true_and]; congr 1; omega
  · rw [show decide (n - 12 < 6) = true by simp; omega, Bool.true_and]; congr 1; omega
  · rw [show decide (n - 18 < 6) = true by simp; omega, Bool.true_and]; congr 1; omega
  · rw [show decide (n - 24 < 8) = true by simp; omega, Bool.true_and]; congr 1; omega

@[simp] theorem SSpec.ofBits_toBits (s : SSpec) : SSpec.ofBits s.toBits = some s := by
  cases s with
  | take n => revert n; decide
  | x n => revert n; decide
  | const n => revert n; decide
  | ident r => cases r <;> decide
@[simp] theorem VSpec.ofBits_toBits (s : VSpec) : VSpec.ofBits s.toBits = some s := by
  cases s with
  | take n => revert n; decide
  | v n => revert n; decide
  | stream n => revert n; decide
  | queue n => revert n; decide
  | bcast n => revert n; decide
@[simp] theorem wOfBits_toBits (w : WReg) : wOfBits (wToBits w) = some w := by revert w; decide
@[simp] theorem Ty.ofBits_toBits (t : Ty) : Ty.ofBits t.toBits = some t := by cases t <;> rfl
@[simp] theorem Rm.ofBits_toBits (m : Rm) : Rm.ofBits m.toBits = m := by cases m <;> rfl
@[simp] theorem Pol.ofBits_toBits (p : Pol) : Pol.ofBits p.toBits = p := by cases p <;> rfl
@[simp] theorem Cond.ofCode_code (c : Cond) : Cond.ofCode c.code = some c := by cases c <;> rfl
@[simp] theorem LdSz.ofBits_toBits (z : LdSz) : LdSz.ofBits z.toBits = some z := by cases z <;> rfl
@[simp] theorem StSz.ofBits_toBits (z : StSz) : StSz.ofBits z.toBits = z := by cases z <;> rfl
@[simp] theorem AmoOp.ofCode_code (o : AmoOp) : AmoOp.ofCode o.code = some o := by cases o <;> rfl

/-! A code that reads as something is the code of what it reads as. -/

theorem SSpec.toBits_of {b : BitVec 6} {s : SSpec} (h : SSpec.ofBits b = some s) : s.toBits = b := by
  have : ∀ b : BitVec 6, (SSpec.ofBits b).all (fun s => s.toBits == b) = true := by decide
  simpa [h] using this b
theorem VSpec.toBits_of {b : BitVec 6} {s : VSpec} (h : VSpec.ofBits b = some s) : s.toBits = b := by
  have : ∀ b : BitVec 6, (VSpec.ofBits b).all (fun s => s.toBits == b) = true := by decide
  simpa [h] using this b
theorem wToBits_of {b : BitVec 5} {w : WReg} (h : wOfBits b = some w) : wToBits w = b := by
  have : ∀ b : BitVec 5, (wOfBits b).all (fun s => wToBits s == b) = true := by decide
  simpa [h] using this b
theorem Ty.toBits_of {b : BitVec 4} {t : Ty} (h : Ty.ofBits b = some t) : t.toBits = b := by
  have : ∀ b : BitVec 4, (Ty.ofBits b).all (fun s => s.toBits == b) = true := by decide
  simpa [h] using this b
theorem Rm.toBits_of (b : BitVec 2) : (Rm.ofBits b).toBits = b := by revert b; decide
theorem Pol.toBits_of (b : BitVec 2) : (Pol.ofBits b).toBits = b := by revert b; decide
theorem StSz.toBits_of (b : BitVec 2) : (StSz.ofBits b).toBits = b := by revert b; decide
theorem LdSz.toBits_of {b : BitVec 3} {z : LdSz} (h : LdSz.ofBits b = some z) : z.toBits = b := by
  have : ∀ b : BitVec 3, (LdSz.ofBits b).all (fun s => s.toBits == b) = true := by decide
  simpa [h] using this b

end Sys2Proof
end

