-- ==== Sys2Proof/Laws/Memory.lean ====
section
/-! SUPPORT. The laws of the sparse maps: what a read gives after a write, and that every operation keeps the canonical
form. -/

namespace Sys2Proof

/-! ### The canonical form -/

theorem SMap.wfFrom_mono {α : Type} [DecidableEq α] {d : α} {m : SMap α} {lo lo' : Nat} (h : lo' ≤ lo)
    (hm : SMap.wfFrom d lo m = true) : SMap.wfFrom d lo' m = true := by
  cases m with
  | nil => rfl
  | cons e m =>
    simp only [SMap.wfFrom, Bool.and_eq_true, decide_eq_true_eq] at hm ⊢
    exact ⟨⟨by omega, hm.1.2⟩, hm.2⟩

theorem SMap.erase_wfFrom {α : Type} [DecidableEq α] {d : α} {m : SMap α} {lo : Nat} (k : Nat)
    (hm : SMap.wfFrom d lo m = true) : SMap.wfFrom d lo (SMap.erase m k) = true := by
  induction m generalizing lo with
  | nil => rfl
  | cons e m ih =>
    simp only [SMap.wfFrom, Bool.and_eq_true, decide_eq_true_eq] at hm
    unfold SMap.erase
    split
    · exact SMap.wfFrom_mono (by omega) hm.2
    · simp only [SMap.wfFrom, Bool.and_eq_true, decide_eq_true_eq]
      exact ⟨hm.1, ih hm.2⟩

theorem SMap.insert_wfFrom {α : Type} [DecidableEq α] {d : α} {m : SMap α} {lo k : Nat} {v : α} (hv : v ≠ d)
    (hk : lo ≤ k) (hm : SMap.wfFrom d lo m = true) : SMap.wfFrom d lo (SMap.insert m k v) = true := by
  induction m generalizing lo with
  | nil => simp [SMap.insert, SMap.wfFrom, hv, hk]
  | cons e m ih =>
    simp only [SMap.wfFrom, Bool.and_eq_true, decide_eq_true_eq] at hm
    unfold SMap.insert
    split
    · simp only [SMap.wfFrom, Bool.and_eq_true, decide_eq_true_eq]
      exact ⟨⟨hk, hv⟩, ⟨by omega, hm.1.2⟩, hm.2⟩
    · split
      · simp only [SMap.wfFrom, Bool.and_eq_true, decide_eq_true_eq]
        exact ⟨⟨hk, hv⟩, SMap.wfFrom_mono (by omega) hm.2⟩
      · simp only [SMap.wfFrom, Bool.and_eq_true, decide_eq_true_eq]
        exact ⟨hm.1, ih (by omega) hm.2⟩

theorem SMap.set_wf {α : Type} [DecidableEq α] {d : α} {m : SMap α} (k : Nat) (v : α)
    (hm : SMap.wf d m = true) : SMap.wf d (SMap.set d m k v) = true := by
  unfold SMap.set
  split
  · exact SMap.erase_wfFrom k hm
  · exact SMap.insert_wfFrom ‹_› (Nat.zero_le k) hm

theorem SMap.restrict_wfFrom {α : Type} [DecidableEq α] {d : α} {m : SMap α} {lo : Nat} (p : Nat → Bool)
    (hm : SMap.wfFrom d lo m = true) : SMap.wfFrom d lo (SMap.restrict m p) = true := by
  induction m generalizing lo with
  | nil => rfl
  | cons e m ih =>
    simp only [SMap.wfFrom, Bool.and_eq_true, decide_eq_true_eq] at hm
    have h' := ih hm.2
    unfold SMap.restrict at h' ⊢
    rw [List.filter_cons]
    split
    · simp only [SMap.wfFrom, Bool.and_eq_true, decide_eq_true_eq]
      exact ⟨hm.1, h'⟩
    · exact SMap.wfFrom_mono (by omega) h'

theorem SMap.restrict_wf {α : Type} [DecidableEq α] {d : α} {m : SMap α} (p : Nat → Bool)
    (hm : SMap.wf d m = true) : SMap.wf d (SMap.restrict m p) = true := SMap.restrict_wfFrom p hm

/-! ### Reads after writes -/

theorem SMap.get_of_wfFrom {α : Type} [DecidableEq α] {d : α} {m : SMap α} {lo k : Nat}
    (hm : SMap.wfFrom d lo m = true) (hk : k < lo) : SMap.get d m k = d := by
  induction m generalizing lo with
  | nil => rfl
  | cons e m ih =>
    simp only [SMap.wfFrom, Bool.and_eq_true, decide_eq_true_eq] at hm
    rw [SMap.get, if_neg (by omega)]
    exact ih hm.2 (by omega)

theorem SMap.get_erase_ne {α : Type} (d : α) (m : SMap α) {k j : Nat} (h : j ≠ k) :
    SMap.get d (SMap.erase m k) j = SMap.get d m j := by
  induction m with
  | nil => rfl
  | cons e m ih =>
    unfold SMap.erase
    split
    · subst_vars; rw [SMap.get, if_neg h]
    · simp only [SMap.get, ih]

theorem SMap.get_erase_self {α : Type} [DecidableEq α] {d : α} {m : SMap α} (k : Nat) {lo : Nat}
    (hm : SMap.wfFrom d lo m = true) : SMap.get d (SMap.erase m k) k = d := by
  induction m generalizing lo with
  | nil => rfl
  | cons e m ih =>
    simp only [SMap.wfFrom, Bool.and_eq_true, decide_eq_true_eq] at hm
    unfold SMap.erase
    split
    · exact SMap.get_of_wfFrom hm.2 (by omega)
    · rw [SMap.get, if_neg ‹_›]; exact ih hm.2

theorem SMap.get_insert_self {α : Type} (d : α) (m : SMap α) (k : Nat) (v : α) :
    SMap.get d (SMap.insert m k v) k = v := by
  induction m with
  | nil => simp [SMap.insert, SMap.get]
  | cons e m ih =>
    unfold SMap.insert
    split
    · simp [SMap.get]
    · split
      · simp [SMap.get]
      · rw [SMap.get, if_neg ‹_›]; exact ih

theorem SMap.get_insert_ne {α : Type} (d : α) (m : SMap α) {k j : Nat} (v : α) (h : j ≠ k) :
    SMap.get d (SMap.insert m k v) j = SMap.get d m j := by
  induction m with
  | nil => simp [SMap.insert, SMap.get, h]
  | cons e m ih =>
    unfold SMap.insert
    split
    · rw [SMap.get, if_neg h]
    · split
      · subst_vars; simp [SMap.get, h]
      · simp only [SMap.get, ih]

/-- A read of the key written gives the value written. -/
theorem SMap.get_set_self {α : Type} [DecidableEq α] {d : α} {m : SMap α} (k : Nat) (v : α)
    (hm : SMap.wf d m = true) : SMap.get d (SMap.set d m k v) k = v := by
  unfold SMap.set
  split
  · subst_vars; exact SMap.get_erase_self k hm
  · exact SMap.get_insert_self d m k v

/-- A write leaves every other key alone. -/
theorem SMap.get_set_ne {α : Type} [DecidableEq α] (d : α) (m : SMap α) {k j : Nat} (v : α) (h : j ≠ k) :
    SMap.get d (SMap.set d m k v) j = SMap.get d m j := by
  unfold SMap.set
  split
  · exact SMap.get_erase_ne d m h
  · exact SMap.get_insert_ne d m v h

theorem SMap.get_restrict {α : Type} (d : α) (m : SMap α) (p : Nat → Bool) (k : Nat) :
    SMap.get d (SMap.restrict m p) k = if p k then SMap.get d m k else d := by
  induction m with
  | nil => simp [SMap.restrict, SMap.get]
  | cons e m ih =>
    unfold SMap.restrict at ih ⊢
    rw [List.filter_cons]
    by_cases hk : k = e.1
    · subst hk
      split
      · simp [SMap.get]
      · next hp => rw [ih]; simp [hp]
    · split
      · rw [SMap.get, if_neg hk, ih, SMap.get, if_neg hk]
      · rw [ih, SMap.get, if_neg hk]

theorem SMap.get_append {α : Type} [DecidableEq α] {d : α} (m n : SMap α) (k : Nat)
    (hm : ∀ e ∈ m, e.1 = k → e.2 ≠ d) :
    SMap.get d (m ++ n) k = if SMap.get d m k = d then SMap.get d n k else SMap.get d m k := by
  induction m with
  | nil => simp [SMap.get]
  | cons e m ih =>
    rw [List.cons_append, SMap.get, SMap.get]
    split
    · have := hm e List.mem_cons_self (by omega)
      rw [if_neg this]
    · exact ih fun x hx => hm x (List.mem_cons_of_mem _ hx)

/-! ### Blocks of bytes -/

theorem SMap.wfFrom_append {m n : Mem} {lo hi : Nat} (hm : SMap.wfFrom (0 : Byte) lo m = true)
    (hb : ∀ e ∈ m, e.1 < hi) (hn : SMap.wfFrom (0 : Byte) hi n = true) (hl : lo ≤ hi) :
    SMap.wfFrom (0 : Byte) lo (m ++ n) = true := by
  induction m generalizing lo with
  | nil => exact SMap.wfFrom_mono hl hn
  | cons e m ih =>
    simp only [SMap.wfFrom, Bool.and_eq_true, decide_eq_true_eq, List.cons_append] at hm ⊢
    have := hb e List.mem_cons_self
    exact ⟨hm.1, ih hm.2 (fun x hx => hb x (List.mem_cons_of_mem _ hx)) (by omega)⟩

theorem Mem.cells_wfFrom (a : Nat) (bs : List Byte) : SMap.wfFrom (0 : Byte) a (Mem.cells a bs) = true := by
  induction bs generalizing a with
  | nil => rfl
  | cons b bs ih =>
    unfold Mem.cells
    split
    · exact SMap.wfFrom_mono (by omega) (ih (a + 1))
    · simp only [SMap.wfFrom, Bool.and_eq_true, decide_eq_true_eq]
      exact ⟨⟨Nat.le_refl a, ‹_›⟩, ih (a + 1)⟩

theorem Mem.cells_lt {a : Nat} {bs : List Byte} {e : Nat × Byte} (h : e ∈ Mem.cells a bs) :
    e.1 < a + bs.length := by
  induction bs generalizing a with
  | nil => simp [Mem.cells] at h
  | cons b bs ih =>
    unfold Mem.cells at h
    rw [List.length_cons]
    split at h
    · have := ih h; omega
    · rcases List.mem_cons.1 h with rfl | h
      · simp
      · have := ih h; omega

theorem SMap.restrict_ge_wfFrom {m : Mem} {lo hi : Nat} (hm : SMap.wfFrom (0 : Byte) lo m = true) :
    SMap.wfFrom (0 : Byte) hi (SMap.restrict m fun k => decide (hi ≤ k)) = true := by
  induction m generalizing lo with
  | nil => rfl
  | cons e m ih =>
    simp only [SMap.wfFrom, Bool.and_eq_true, decide_eq_true_eq] at hm
    have h' := ih hm.2
    unfold SMap.restrict at h' ⊢
    rw [List.filter_cons]
    split
    · next hp =>
      simp only [decide_eq_true_eq] at hp
      simp only [SMap.wfFrom, Bool.and_eq_true, decide_eq_true_eq]
      refine ⟨⟨hp, hm.1.2⟩, ?_⟩
      have := SMap.restrict_wfFrom (fun k => decide (hi ≤ k)) hm.2
      exact this
    · exact h'

/-- Writing a block keeps the canonical form. -/
theorem Mem.writeBytes_wf {m : Mem} (a : Nat) (bs : List Byte) (hm : m.wf = true) :
    (m.writeBytes a bs).wf = true := by
  unfold Mem.writeBytes Mem.wf SMap.wf
  rw [List.append_assoc]
  refine SMap.wfFrom_append (hi := a) (SMap.restrict_wfFrom _ hm) ?_ ?_ (Nat.zero_le a)
  · intro e he
    simp only [SMap.restrict, List.mem_filter, decide_eq_true_eq] at he
    exact he.2
  · refine SMap.wfFrom_append (Mem.cells_wfFrom a bs) (fun e he => Mem.cells_lt he) ?_ (Nat.le_add_right a _)
    exact SMap.restrict_ge_wfFrom hm

theorem Mem.write_wf {m : Mem} (a : Nat) (b : Byte) (hm : m.wf = true) : (m.write a b).wf = true :=
  SMap.set_wf a b hm

theorem Mem.zero_wf {m : Mem} (a n : Nat) (hm : m.wf = true) : (m.zero a n).wf = true :=
  SMap.restrict_wf _ hm

theorem Mem.read_cells (a : Nat) (bs : List Byte) (k : Nat) :
    SMap.get 0 (Mem.cells a bs) k = if a ≤ k then bs.getD (k - a) 0 else 0 := by
  induction bs generalizing a with
  | nil => simp [Mem.cells, SMap.get]
  | cons b bs ih =>
    unfold Mem.cells
    rcases Nat.lt_trichotomy k a with h | h | h
    · have h1 : ¬ a ≤ k := by omega
      have h2 : ¬ a + 1 ≤ k := by omega
      rw [if_neg h1]
      split
      · rw [ih, if_neg h2]
      · rw [SMap.get, if_neg (Nat.ne_of_lt h), ih, if_neg h2]
    · subst h
      rw [if_pos (Nat.le_refl k), Nat.sub_self]
      split
      · subst_vars; rw [ih, if_neg (by omega)]; rfl
      · rw [SMap.get, if_pos rfl]; rfl
    · have h1 : a ≤ k := by omega
      have h2 : a + 1 ≤ k := h
      have e : k - a = (k - (a + 1)) + 1 := by omega
      rw [if_pos h1, e, List.getD_cons_succ]
      split
      · rw [ih, if_pos h2]
      · rw [SMap.get, if_neg (Nat.ne_of_gt h), ih, if_pos h2]

/-- A byte after a block has been written: the block's own byte inside it, the old one outside. -/
theorem SMap.get_append_of_not_mem {α : Type} {d : α} (m n : SMap α) (k : Nat) (hm : ∀ e ∈ m, e.1 ≠ k) :
    SMap.get d (m ++ n) k = SMap.get d n k := by
  induction m with
  | nil => rfl
  | cons e m ih =>
    rw [List.cons_append, SMap.get, if_neg (fun h => hm e List.mem_cons_self h.symm)]
    exact ih fun x hx => hm x (List.mem_cons_of_mem _ hx)

theorem SMap.get_append_left {α : Type} {d : α} (m n : SMap α) (k : Nat) (hn : ∀ e ∈ n, e.1 ≠ k) :
    SMap.get d (m ++ n) k = SMap.get d m k := by
  induction m with
  | nil =>
    have := SMap.get_append_of_not_mem (d := d) n [] k hn
    simpa using this
  | cons e m ih => rw [List.cons_append, SMap.get, SMap.get, ih]

/-- A block written reads back, and every other byte reads as before: of any list of cells. -/
theorem Mem.read_writeBytes {m : Mem} (a : Nat) (bs : List Byte) (k : Nat) :
    (m.writeBytes a bs).read k =
      if a ≤ k ∧ k < a + bs.length then bs.getD (k - a) 0 else m.read k := by
  have lo : ∀ {p : Nat → Bool} {n : Mem}, p k = false → ∀ e ∈ SMap.restrict n p, e.1 ≠ k := by
    intro p n hp e he h
    have := (List.mem_filter.1 he).2
    rw [h, hp] at this
    cases this
  have ge : ∀ e ∈ Mem.cells a bs, a ≤ e.1 := by
    intro e he
    have := Mem.cells_wfFrom a bs
    revert this he
    generalize Mem.cells a bs = n
    intro he hw
    induction n generalizing a with
    | nil => cases he
    | cons x n ih =>
      simp only [SMap.wfFrom, Bool.and_eq_true, decide_eq_true_eq] at hw
      rcases List.mem_cons.1 he with rfl | he
      · exact hw.1.1
      · have := ih (x.1 + 1) he hw.2
        omega
  unfold Mem.writeBytes Mem.read
  rw [List.append_assoc]
  by_cases h : k < a
  · rw [SMap.get_append_left, SMap.get_restrict]
    · have : ¬ (a ≤ k ∧ k < a + bs.length) := by omega
      simp [h, this]
    · intro e he
      rcases List.mem_append.1 he with he | he
      · have := ge e he; omega
      · exact lo (by simpa using by omega) e he
  · rw [SMap.get_append_of_not_mem _ _ _ (lo (by simpa using h))]
    by_cases h3 : k < a + bs.length
    · rw [SMap.get_append_left _ _ _ (lo (by simpa using h3)), Mem.read_cells, if_pos (by omega), if_pos (by omega)]
    · rw [SMap.get_append_of_not_mem, SMap.get_restrict]
      · have : ¬ (a ≤ k ∧ k < a + bs.length) := by omega
        simp [this]; omega
      · intro e he hk
        have := Mem.cells_lt he
        omega

theorem Mem.read_write {m : Mem} (a : Nat) (b : Byte) (k : Nat) (hm : m.wf = true) :
    (m.write a b).read k = if k = a then b else m.read k := by
  unfold Mem.read Mem.write
  split
  · subst_vars; exact SMap.get_set_self _ b hm
  · exact SMap.get_set_ne 0 m b ‹_›

/-- A byte after a range has been set to zero. -/
theorem Mem.read_zero (m : Mem) (a n k : Nat) :
    (m.zero a n).read k = if a ≤ k ∧ k < a + n then 0 else m.read k := by
  unfold Mem.zero Mem.read
  rw [SMap.get_restrict]
  by_cases h : a ≤ k ∧ k < a + n
  · rw [if_pos h, if_neg]; simp; omega
  · rw [if_neg h, if_pos]; simp; omega

/-! ### Lists of bytes as numbers -/

@[simp] theorem natToBytes_length (n v : Nat) : (natToBytes n v).length = n := by
  induction n generalizing v with
  | zero => rfl
  | succ n ih => simp [natToBytes, ih]

/-- The bytes of a number make the number again, modulo their width (R2). -/
theorem bytesToNat_natToBytes (n v : Nat) : bytesToNat (natToBytes n v) = v % 256 ^ n := by
  induction n generalizing v with
  | zero => simp [natToBytes, bytesToNat, Nat.mod_one]
  | succ n ih =>
    have := ih (v / 256)
    unfold bytesToNat at this ⊢
    rw [natToBytes, List.foldr_cons, this, Nat.pow_succ', Nat.mod_mul]
    simp

@[simp] theorem Mem.readBytes_length (m : Mem) (a n : Nat) : (m.readBytes a n).length = n := by
  induction n generalizing a with
  | zero => rfl
  | succ n ih => simp [Mem.readBytes, ih]

theorem Mem.readBytes_congr {m m' : Mem} (a n : Nat) (h : ∀ k, a ≤ k → k < a + n → m.read k = m'.read k) :
    m.readBytes a n = m'.readBytes a n := by
  induction n generalizing a with
  | zero => rfl
  | succ n ih =>
    rw [Mem.readBytes, Mem.readBytes, h a (Nat.le_refl a) (by omega), ih (a + 1) fun k h1 h2 => h k (by omega) (by omega)]

/-- Reading a block just written gives the block. -/
theorem Mem.readBytes_writeBytes {m : Mem} (a : Nat) (bs : List Byte) :
    (m.writeBytes a bs).readBytes a bs.length = bs := by
  have key : ∀ (n o : Nat), o + n = bs.length → (m.writeBytes a bs).readBytes (a + o) n = bs.drop o := by
    intro n
    induction n with
    | zero => intro o h; rw [Mem.readBytes, List.drop_eq_nil_of_le (by omega)]
    | succ n ih =>
      intro o h
      have ho : o < bs.length := by omega
      rw [Mem.readBytes, Mem.read_writeBytes a bs (a + o), if_pos (by omega), Nat.add_sub_cancel_left,
        List.drop_eq_getElem_cons ho, Nat.add_assoc, ih (o + 1) (by omega)]
      simp [List.getD, ho]
  simpa using key bs.length 0 (by omega)

/-- A number read where it was just written (R2). -/
theorem Mem.readLE_writeBytes {m : Mem} (a n v : Nat) :
    (m.writeBytes a (natToBytes n v)).readLE a n = v % 256 ^ n := by
  have h := Mem.readBytes_writeBytes (m := m) a (natToBytes n v)
  rw [natToBytes_length] at h
  rw [← bytesToNat_natToBytes n v]
  unfold Mem.readLE bytesToNat
  rw [h]

end Sys2Proof
end

