-- ==== Sys2Proof/Laws/State.lean ====
section
/-! SUPPORT. Which fields of the state the plain updates leave alone, and what they make of the others. -/

namespace Sys2Proof.Machine

variable (s : State)

/-! ### `State.setCore` -/

@[simp] theorem State.setCore_agenda (c : Fin 256) (k : Core) : (s.setCore c k).agenda = s.agenda := rfl
@[simp] theorem State.setCore_inp (c : Fin 256) (k : Core) : (s.setCore c k).inp = s.inp := rfl
@[simp] theorem State.setCore_turn (c : Fin 256) (k : Core) : (s.setCore c k).turn = s.turn := rfl
@[simp] theorem State.setCore_issue (c : Fin 256) (k : Core) : (s.setCore c k).issue = s.issue := rfl
@[simp] theorem State.setCore_free (c : Fin 256) (k : Core) : (s.setCore c k).free = s.free := rfl
@[simp] theorem State.setCore_nextId (c : Fin 256) (k : Core) : (s.setCore c k).nextId = s.nextId := rfl
@[simp] theorem State.setCore_cycle (c : Fin 256) (k : Core) : (s.setCore c k).cycle = s.cycle := rfl
@[simp] theorem State.setCore_mem (c : Fin 256) (k : Core) : (s.setCore c k).mem = s.mem := rfl
@[simp] theorem State.setCore_hostMem (c : Fin 256) (k : Core) : (s.setCore c k).hostMem = s.hostMem := rfl
@[simp] theorem State.setCore_badLines (c : Fin 256) (k : Core) : (s.setCore c k).badLines = s.badLines := rfl
@[simp] theorem State.setCore_ecc (c : Fin 256) (k : Core) : (s.setCore c k).ecc = s.ecc := rfl
@[simp] theorem State.setCore_l2 (c : Fin 256) (k : Core) : (s.setCore c k).l2 = s.l2 := rfl
@[simp] theorem State.setCore_plru (c : Fin 256) (k : Core) : (s.setCore c k).plru = s.plru := rfl
@[simp] theorem State.setCore_hostLines (c : Fin 256) (k : Core) : (s.setCore c k).hostLines = s.hostLines := rfl
@[simp] theorem State.setCore_arrivals (c : Fin 256) (k : Core) : (s.setCore c k).arrivals = s.arrivals := rfl
@[simp] theorem State.setCore_memq (c : Fin 256) (k : Core) : (s.setCore c k).memq = s.memq := rfl
@[simp] theorem State.setCore_comb (c : Fin 256) (k : Core) : (s.setCore c k).comb = s.comb := rfl
@[simp] theorem State.setCore_dieNum (c : Fin 256) (k : Core) : (s.setCore c k).dieNum = s.dieNum := rfl
@[simp] theorem State.setCore_perf (c : Fin 256) (k : Core) : (s.setCore c k).perf = s.perf := rfl
@[simp] theorem State.setCore_credRet (c : Fin 256) (k : Core) : (s.setCore c k).credRet = s.credRet := rfl
@[simp] theorem State.setCore_cmds (c : Fin 256) (k : Core) : (s.setCore c k).cmds = s.cmds := rfl
@[simp] theorem State.setCore_l2tlb (c : Fin 256) (k : Core) : (s.setCore c k).l2tlb = s.l2tlb := rfl
@[simp] theorem State.setCore_seqTlb (c : Fin 256) (k : Core) : (s.setCore c k).seqTlb = s.seqTlb := rfl
@[simp] theorem State.setCore_seqSram (c : Fin 256) (k : Core) : (s.setCore c k).seqSram = s.seqSram := rfl
@[simp] theorem State.setCore_parts (c : Fin 256) (k : Core) : (s.setCore c k).parts = s.parts := rfl
@[simp] theorem State.setCore_rt (c : Fin 256) (k : Core) : (s.setCore c k).rt = s.rt := rfl
@[simp] theorem State.setCore_degQuads (c : Fin 256) (k : Core) : (s.setCore c k).degQuads = s.degQuads := rfl
@[simp] theorem State.setCore_degSlices (c : Fin 256) (k : Core) : (s.setCore c k).degSlices = s.degSlices := rfl
@[simp] theorem State.setCore_degWays (c : Fin 256) (k : Core) : (s.setCore c k).degWays = s.degWays := rfl
@[simp] theorem State.setCore_degChans (c : Fin 256) (k : Core) : (s.setCore c k).degChans = s.degChans := rfl
@[simp] theorem State.setCore_degPorts (c : Fin 256) (k : Core) : (s.setCore c k).degPorts = s.degPorts := rfl
@[simp] theorem State.setCore_boot (c : Fin 256) (k : Core) : (s.setCore c k).boot = s.boot := rfl
@[simp] theorem State.setCore_power (c : Fin 256) (k : Core) : (s.setCore c k).power = s.power := rfl
@[simp] theorem State.setCore_fabric (c : Fin 256) (k : Core) : (s.setCore c k).fabric = s.fabric := rfl
@[simp] theorem State.setCore_fns (c : Fin 256) (k : Core) : (s.setCore c k).fns = s.fns := rfl
@[simp] theorem State.setCore_slateBase (c : Fin 256) (k : Core) : (s.setCore c k).slateBase = s.slateBase := rfl
@[simp] theorem State.setCore_cmdRuns (c : Fin 256) (k : Core) : (s.setCore c k).cmdRuns = s.cmdRuns := rfl
@[simp] theorem State.setCore_hdm (c : Fin 256) (k : Core) : (s.setCore c k).hdm = s.hdm := rfl
@[simp] theorem State.setCore_genesis (c : Fin 256) (k : Core) : (s.setCore c k).genesis = s.genesis := rfl
@[simp] theorem State.setCore_nb (c : Fin 256) (k : Core) : (s.setCore c k).nb = s.nb := rfl
@[simp] theorem State.setCore_qos (c : Fin 256) (k : Core) : (s.setCore c k).qos = s.qos := rfl
@[simp] theorem State.setCore_openRows (c : Fin 256) (k : Core) : (s.setCore c k).openRows = s.openRows := rfl
@[simp] theorem State.setCore_sheet (c : Fin 256) (k : Core) : (s.setCore c k).sheet = s.sheet := rfl
@[simp] theorem State.setCore_votes (c : Fin 256) (k : Core) : (s.setCore c k).votes = s.votes := rfl
@[simp] theorem State.setCore_launches (c : Fin 256) (k : Core) : (s.setCore c k).launches = s.launches := rfl
@[simp] theorem State.setCore_gangs (c : Fin 256) (k : Core) : (s.setCore c k).gangs = s.gangs := rfl
@[simp] theorem State.setCore_saved (c : Fin 256) (k : Core) : (s.setCore c k).saved = s.saved := rfl
@[simp] theorem State.setCore_flog (c : Fin 256) (k : Core) : (s.setCore c k).flog = s.flog := rfl
@[simp] theorem State.setCore_flogLost (c : Fin 256) (k : Core) : (s.setCore c k).flogLost = s.flogLost := rfl
@[simp] theorem State.setCore_fnErr (c : Fin 256) (k : Core) : (s.setCore c k).fnErr = s.fnErr := rfl
@[simp] theorem State.setCore_fnErrVec (c : Fin 256) (k : Core) : (s.setCore c k).fnErrVec = s.fnErrVec := rfl
@[simp] theorem State.setCore_msixMask (c : Fin 256) (k : Core) : (s.setCore c k).msixMask = s.msixMask := rfl
@[simp] theorem State.setCore_msixPend (c : Fin 256) (k : Core) : (s.setCore c k).msixPend = s.msixPend := rfl
@[simp] theorem State.setCore_out (c : Fin 256) (k : Core) : (s.setCore c k).out = s.out := rfl
@[simp] theorem State.setCore_hvecBoot (c : Fin 256) (k : Core) : (s.setCore c k).hvecBoot = s.hvecBoot := rfl

/-! ### `State.mapCore` -/

@[simp] theorem State.mapCore_agenda (c : Fin 256) (f : Core → Core) : (s.mapCore c f).agenda = s.agenda := rfl
@[simp] theorem State.mapCore_inp (c : Fin 256) (f : Core → Core) : (s.mapCore c f).inp = s.inp := rfl
@[simp] theorem State.mapCore_turn (c : Fin 256) (f : Core → Core) : (s.mapCore c f).turn = s.turn := rfl
@[simp] theorem State.mapCore_issue (c : Fin 256) (f : Core → Core) : (s.mapCore c f).issue = s.issue := rfl
@[simp] theorem State.mapCore_free (c : Fin 256) (f : Core → Core) : (s.mapCore c f).free = s.free := rfl
@[simp] theorem State.mapCore_nextId (c : Fin 256) (f : Core → Core) : (s.mapCore c f).nextId = s.nextId := rfl
@[simp] theorem State.mapCore_cycle (c : Fin 256) (f : Core → Core) : (s.mapCore c f).cycle = s.cycle := rfl
@[simp] theorem State.mapCore_mem (c : Fin 256) (f : Core → Core) : (s.mapCore c f).mem = s.mem := rfl
@[simp] theorem State.mapCore_hostMem (c : Fin 256) (f : Core → Core) : (s.mapCore c f).hostMem = s.hostMem := rfl
@[simp] theorem State.mapCore_badLines (c : Fin 256) (f : Core → Core) : (s.mapCore c f).badLines = s.badLines := rfl
@[simp] theorem State.mapCore_ecc (c : Fin 256) (f : Core → Core) : (s.mapCore c f).ecc = s.ecc := rfl
@[simp] theorem State.mapCore_l2 (c : Fin 256) (f : Core → Core) : (s.mapCore c f).l2 = s.l2 := rfl
@[simp] theorem State.mapCore_plru (c : Fin 256) (f : Core → Core) : (s.mapCore c f).plru = s.plru := rfl
@[simp] theorem State.mapCore_hostLines (c : Fin 256) (f : Core → Core) : (s.mapCore c f).hostLines = s.hostLines := rfl
@[simp] theorem State.mapCore_arrivals (c : Fin 256) (f : Core → Core) : (s.mapCore c f).arrivals = s.arrivals := rfl
@[simp] theorem State.mapCore_memq (c : Fin 256) (f : Core → Core) : (s.mapCore c f).memq = s.memq := rfl
@[simp] theorem State.mapCore_comb (c : Fin 256) (f : Core → Core) : (s.mapCore c f).comb = s.comb := rfl
@[simp] theorem State.mapCore_dieNum (c : Fin 256) (f : Core → Core) : (s.mapCore c f).dieNum = s.dieNum := rfl
@[simp] theorem State.mapCore_perf (c : Fin 256) (f : Core → Core) : (s.mapCore c f).perf = s.perf := rfl
@[simp] theorem State.mapCore_credRet (c : Fin 256) (f : Core → Core) : (s.mapCore c f).credRet = s.credRet := rfl
@[simp] theorem State.mapCore_cmds (c : Fin 256) (f : Core → Core) : (s.mapCore c f).cmds = s.cmds := rfl
@[simp] theorem State.mapCore_l2tlb (c : Fin 256) (f : Core → Core) : (s.mapCore c f).l2tlb = s.l2tlb := rfl
@[simp] theorem State.mapCore_seqTlb (c : Fin 256) (f : Core → Core) : (s.mapCore c f).seqTlb = s.seqTlb := rfl
@[simp] theorem State.mapCore_seqSram (c : Fin 256) (f : Core → Core) : (s.mapCore c f).seqSram = s.seqSram := rfl
@[simp] theorem State.mapCore_parts (c : Fin 256) (f : Core → Core) : (s.mapCore c f).parts = s.parts := rfl
@[simp] theorem State.mapCore_rt (c : Fin 256) (f : Core → Core) : (s.mapCore c f).rt = s.rt := rfl
@[simp] theorem State.mapCore_degQuads (c : Fin 256) (f : Core → Core) : (s.mapCore c f).degQuads = s.degQuads := rfl
@[simp] theorem State.mapCore_degSlices (c : Fin 256) (f : Core → Core) : (s.mapCore c f).degSlices = s.degSlices := rfl
@[simp] theorem State.mapCore_degWays (c : Fin 256) (f : Core → Core) : (s.mapCore c f).degWays = s.degWays := rfl
@[simp] theorem State.mapCore_degChans (c : Fin 256) (f : Core → Core) : (s.mapCore c f).degChans = s.degChans := rfl
@[simp] theorem State.mapCore_degPorts (c : Fin 256) (f : Core → Core) : (s.mapCore c f).degPorts = s.degPorts := rfl
@[simp] theorem State.mapCore_boot (c : Fin 256) (f : Core → Core) : (s.mapCore c f).boot = s.boot := rfl
@[simp] theorem State.mapCore_power (c : Fin 256) (f : Core → Core) : (s.mapCore c f).power = s.power := rfl
@[simp] theorem State.mapCore_fabric (c : Fin 256) (f : Core → Core) : (s.mapCore c f).fabric = s.fabric := rfl
@[simp] theorem State.mapCore_fns (c : Fin 256) (f : Core → Core) : (s.mapCore c f).fns = s.fns := rfl
@[simp] theorem State.mapCore_slateBase (c : Fin 256) (f : Core → Core) : (s.mapCore c f).slateBase = s.slateBase := rfl
@[simp] theorem State.mapCore_cmdRuns (c : Fin 256) (f : Core → Core) : (s.mapCore c f).cmdRuns = s.cmdRuns := rfl
@[simp] theorem State.mapCore_hdm (c : Fin 256) (f : Core → Core) : (s.mapCore c f).hdm = s.hdm := rfl
@[simp] theorem State.mapCore_genesis (c : Fin 256) (f : Core → Core) : (s.mapCore c f).genesis = s.genesis := rfl
@[simp] theorem State.mapCore_nb (c : Fin 256) (f : Core → Core) : (s.mapCore c f).nb = s.nb := rfl
@[simp] theorem State.mapCore_qos (c : Fin 256) (f : Core → Core) : (s.mapCore c f).qos = s.qos := rfl
@[simp] theorem State.mapCore_openRows (c : Fin 256) (f : Core → Core) : (s.mapCore c f).openRows = s.openRows := rfl
@[simp] theorem State.mapCore_sheet (c : Fin 256) (f : Core → Core) : (s.mapCore c f).sheet = s.sheet := rfl
@[simp] theorem State.mapCore_votes (c : Fin 256) (f : Core → Core) : (s.mapCore c f).votes = s.votes := rfl
@[simp] theorem State.mapCore_launches (c : Fin 256) (f : Core → Core) : (s.mapCore c f).launches = s.launches := rfl
@[simp] theorem State.mapCore_gangs (c : Fin 256) (f : Core → Core) : (s.mapCore c f).gangs = s.gangs := rfl
@[simp] theorem State.mapCore_saved (c : Fin 256) (f : Core → Core) : (s.mapCore c f).saved = s.saved := rfl
@[simp] theorem State.mapCore_flog (c : Fin 256) (f : Core → Core) : (s.mapCore c f).flog = s.flog := rfl
@[simp] theorem State.mapCore_flogLost (c : Fin 256) (f : Core → Core) : (s.mapCore c f).flogLost = s.flogLost := rfl
@[simp] theorem State.mapCore_fnErr (c : Fin 256) (f : Core → Core) : (s.mapCore c f).fnErr = s.fnErr := rfl
@[simp] theorem State.mapCore_fnErrVec (c : Fin 256) (f : Core → Core) : (s.mapCore c f).fnErrVec = s.fnErrVec := rfl
@[simp] theorem State.mapCore_msixMask (c : Fin 256) (f : Core → Core) : (s.mapCore c f).msixMask = s.msixMask := rfl
@[simp] theorem State.mapCore_msixPend (c : Fin 256) (f : Core → Core) : (s.mapCore c f).msixPend = s.msixPend := rfl
@[simp] theorem State.mapCore_out (c : Fin 256) (f : Core → Core) : (s.mapCore c f).out = s.out := rfl
@[simp] theorem State.mapCore_hvecBoot (c : Fin 256) (f : Core → Core) : (s.mapCore c f).hvecBoot = s.hvecBoot := rfl

/-! ### `State.upd` -/

@[simp] theorem State.upd_agenda (f : Core → Core) : (s.upd f).agenda = s.agenda := rfl
@[simp] theorem State.upd_inp (f : Core → Core) : (s.upd f).inp = s.inp := rfl
@[simp] theorem State.upd_turn (f : Core → Core) : (s.upd f).turn = s.turn := rfl
@[simp] theorem State.upd_issue (f : Core → Core) : (s.upd f).issue = s.issue := rfl
@[simp] theorem State.upd_free (f : Core → Core) : (s.upd f).free = s.free := rfl
@[simp] theorem State.upd_nextId (f : Core → Core) : (s.upd f).nextId = s.nextId := rfl
@[simp] theorem State.upd_cycle (f : Core → Core) : (s.upd f).cycle = s.cycle := rfl
@[simp] theorem State.upd_mem (f : Core → Core) : (s.upd f).mem = s.mem := rfl
@[simp] theorem State.upd_hostMem (f : Core → Core) : (s.upd f).hostMem = s.hostMem := rfl
@[simp] theorem State.upd_badLines (f : Core → Core) : (s.upd f).badLines = s.badLines := rfl
@[simp] theorem State.upd_ecc (f : Core → Core) : (s.upd f).ecc = s.ecc := rfl
@[simp] theorem State.upd_l2 (f : Core → Core) : (s.upd f).l2 = s.l2 := rfl
@[simp] theorem State.upd_plru (f : Core → Core) : (s.upd f).plru = s.plru := rfl
@[simp] theorem State.upd_hostLines (f : Core → Core) : (s.upd f).hostLines = s.hostLines := rfl
@[simp] theorem State.upd_arrivals (f : Core → Core) : (s.upd f).arrivals = s.arrivals := rfl
@[simp] theorem State.upd_memq (f : Core → Core) : (s.upd f).memq = s.memq := rfl
@[simp] theorem State.upd_comb (f : Core → Core) : (s.upd f).comb = s.comb := rfl
@[simp] theorem State.upd_dieNum (f : Core → Core) : (s.upd f).dieNum = s.dieNum := rfl
@[simp] theorem State.upd_perf (f : Core → Core) : (s.upd f).perf = s.perf := rfl
@[simp] theorem State.upd_credRet (f : Core → Core) : (s.upd f).credRet = s.credRet := rfl
@[simp] theorem State.upd_cmds (f : Core → Core) : (s.upd f).cmds = s.cmds := rfl
@[simp] theorem State.upd_l2tlb (f : Core → Core) : (s.upd f).l2tlb = s.l2tlb := rfl
@[simp] theorem State.upd_seqTlb (f : Core → Core) : (s.upd f).seqTlb = s.seqTlb := rfl
@[simp] theorem State.upd_seqSram (f : Core → Core) : (s.upd f).seqSram = s.seqSram := rfl
@[simp] theorem State.upd_parts (f : Core → Core) : (s.upd f).parts = s.parts := rfl
@[simp] theorem State.upd_rt (f : Core → Core) : (s.upd f).rt = s.rt := rfl
@[simp] theorem State.upd_degQuads (f : Core → Core) : (s.upd f).degQuads = s.degQuads := rfl
@[simp] theorem State.upd_degSlices (f : Core → Core) : (s.upd f).degSlices = s.degSlices := rfl
@[simp] theorem State.upd_degWays (f : Core → Core) : (s.upd f).degWays = s.degWays := rfl
@[simp] theorem State.upd_degChans (f : Core → Core) : (s.upd f).degChans = s.degChans := rfl
@[simp] theorem State.upd_degPorts (f : Core → Core) : (s.upd f).degPorts = s.degPorts := rfl
@[simp] theorem State.upd_boot (f : Core → Core) : (s.upd f).boot = s.boot := rfl
@[simp] theorem State.upd_power (f : Core → Core) : (s.upd f).power = s.power := rfl
@[simp] theorem State.upd_fabric (f : Core → Core) : (s.upd f).fabric = s.fabric := rfl
@[simp] theorem State.upd_fns (f : Core → Core) : (s.upd f).fns = s.fns := rfl
@[simp] theorem State.upd_slateBase (f : Core → Core) : (s.upd f).slateBase = s.slateBase := rfl
@[simp] theorem State.upd_cmdRuns (f : Core → Core) : (s.upd f).cmdRuns = s.cmdRuns := rfl
@[simp] theorem State.upd_hdm (f : Core → Core) : (s.upd f).hdm = s.hdm := rfl
@[simp] theorem State.upd_genesis (f : Core → Core) : (s.upd f).genesis = s.genesis := rfl
@[simp] theorem State.upd_nb (f : Core → Core) : (s.upd f).nb = s.nb := rfl
@[simp] theorem State.upd_qos (f : Core → Core) : (s.upd f).qos = s.qos := rfl
@[simp] theorem State.upd_openRows (f : Core → Core) : (s.upd f).openRows = s.openRows := rfl
@[simp] theorem State.upd_sheet (f : Core → Core) : (s.upd f).sheet = s.sheet := rfl
@[simp] theorem State.upd_votes (f : Core → Core) : (s.upd f).votes = s.votes := rfl
@[simp] theorem State.upd_launches (f : Core → Core) : (s.upd f).launches = s.launches := rfl
@[simp] theorem State.upd_gangs (f : Core → Core) : (s.upd f).gangs = s.gangs := rfl
@[simp] theorem State.upd_saved (f : Core → Core) : (s.upd f).saved = s.saved := rfl
@[simp] theorem State.upd_flog (f : Core → Core) : (s.upd f).flog = s.flog := rfl
@[simp] theorem State.upd_flogLost (f : Core → Core) : (s.upd f).flogLost = s.flogLost := rfl
@[simp] theorem State.upd_fnErr (f : Core → Core) : (s.upd f).fnErr = s.fnErr := rfl
@[simp] theorem State.upd_fnErrVec (f : Core → Core) : (s.upd f).fnErrVec = s.fnErrVec := rfl
@[simp] theorem State.upd_msixMask (f : Core → Core) : (s.upd f).msixMask = s.msixMask := rfl
@[simp] theorem State.upd_msixPend (f : Core → Core) : (s.upd f).msixPend = s.msixPend := rfl
@[simp] theorem State.upd_out (f : Core → Core) : (s.upd f).out = s.out := rfl
@[simp] theorem State.upd_hvecBoot (f : Core → Core) : (s.upd f).hvecBoot = s.hvecBoot := rfl

/-! ### `State.mark` -/

@[simp] theorem State.mark_agenda (r : IssueResult) : (s.mark r).agenda = s.agenda := rfl
@[simp] theorem State.mark_inp (r : IssueResult) : (s.mark r).inp = s.inp := rfl
@[simp] theorem State.mark_turn (r : IssueResult) : (s.mark r).turn = s.turn := rfl
@[simp] theorem State.mark_free (r : IssueResult) : (s.mark r).free = s.free := rfl
@[simp] theorem State.mark_nextId (r : IssueResult) : (s.mark r).nextId = s.nextId := rfl
@[simp] theorem State.mark_cycle (r : IssueResult) : (s.mark r).cycle = s.cycle := rfl
@[simp] theorem State.mark_cores (r : IssueResult) : (s.mark r).cores = s.cores := rfl
@[simp] theorem State.mark_mem (r : IssueResult) : (s.mark r).mem = s.mem := rfl
@[simp] theorem State.mark_hostMem (r : IssueResult) : (s.mark r).hostMem = s.hostMem := rfl
@[simp] theorem State.mark_badLines (r : IssueResult) : (s.mark r).badLines = s.badLines := rfl
@[simp] theorem State.mark_ecc (r : IssueResult) : (s.mark r).ecc = s.ecc := rfl
@[simp] theorem State.mark_l2 (r : IssueResult) : (s.mark r).l2 = s.l2 := rfl
@[simp] theorem State.mark_plru (r : IssueResult) : (s.mark r).plru = s.plru := rfl
@[simp] theorem State.mark_hostLines (r : IssueResult) : (s.mark r).hostLines = s.hostLines := rfl
@[simp] theorem State.mark_arrivals (r : IssueResult) : (s.mark r).arrivals = s.arrivals := rfl
@[simp] theorem State.mark_memq (r : IssueResult) : (s.mark r).memq = s.memq := rfl
@[simp] theorem State.mark_comb (r : IssueResult) : (s.mark r).comb = s.comb := rfl
@[simp] theorem State.mark_dieNum (r : IssueResult) : (s.mark r).dieNum = s.dieNum := rfl
@[simp] theorem State.mark_perf (r : IssueResult) : (s.mark r).perf = s.perf := rfl
@[simp] theorem State.mark_credRet (r : IssueResult) : (s.mark r).credRet = s.credRet := rfl
@[simp] theorem State.mark_cmds (r : IssueResult) : (s.mark r).cmds = s.cmds := rfl
@[simp] theorem State.mark_l2tlb (r : IssueResult) : (s.mark r).l2tlb = s.l2tlb := rfl
@[simp] theorem State.mark_seqTlb (r : IssueResult) : (s.mark r).seqTlb = s.seqTlb := rfl
@[simp] theorem State.mark_seqSram (r : IssueResult) : (s.mark r).seqSram = s.seqSram := rfl
@[simp] theorem State.mark_parts (r : IssueResult) : (s.mark r).parts = s.parts := rfl
@[simp] theorem State.mark_rt (r : IssueResult) : (s.mark r).rt = s.rt := rfl
@[simp] theorem State.mark_degQuads (r : IssueResult) : (s.mark r).degQuads = s.degQuads := rfl
@[simp] theorem State.mark_degSlices (r : IssueResult) : (s.mark r).degSlices = s.degSlices := rfl
@[simp] theorem State.mark_degWays (r : IssueResult) : (s.mark r).degWays = s.degWays := rfl
@[simp] theorem State.mark_degChans (r : IssueResult) : (s.mark r).degChans = s.degChans := rfl
@[simp] theorem State.mark_degPorts (r : IssueResult) : (s.mark r).degPorts = s.degPorts := rfl
@[simp] theorem State.mark_boot (r : IssueResult) : (s.mark r).boot = s.boot := rfl
@[simp] theorem State.mark_power (r : IssueResult) : (s.mark r).power = s.power := rfl
@[simp] theorem State.mark_fabric (r : IssueResult) : (s.mark r).fabric = s.fabric := rfl
@[simp] theorem State.mark_fns (r : IssueResult) : (s.mark r).fns = s.fns := rfl
@[simp] theorem State.mark_slateBase (r : IssueResult) : (s.mark r).slateBase = s.slateBase := rfl
@[simp] theorem State.mark_cmdRuns (r : IssueResult) : (s.mark r).cmdRuns = s.cmdRuns := rfl
@[simp] theorem State.mark_hdm (r : IssueResult) : (s.mark r).hdm = s.hdm := rfl
@[simp] theorem State.mark_genesis (r : IssueResult) : (s.mark r).genesis = s.genesis := rfl
@[simp] theorem State.mark_nb (r : IssueResult) : (s.mark r).nb = s.nb := rfl
@[simp] theorem State.mark_qos (r : IssueResult) : (s.mark r).qos = s.qos := rfl
@[simp] theorem State.mark_openRows (r : IssueResult) : (s.mark r).openRows = s.openRows := rfl
@[simp] theorem State.mark_sheet (r : IssueResult) : (s.mark r).sheet = s.sheet := rfl
@[simp] theorem State.mark_votes (r : IssueResult) : (s.mark r).votes = s.votes := rfl
@[simp] theorem State.mark_launches (r : IssueResult) : (s.mark r).launches = s.launches := rfl
@[simp] theorem State.mark_gangs (r : IssueResult) : (s.mark r).gangs = s.gangs := rfl
@[simp] theorem State.mark_saved (r : IssueResult) : (s.mark r).saved = s.saved := rfl
@[simp] theorem State.mark_flog (r : IssueResult) : (s.mark r).flog = s.flog := rfl
@[simp] theorem State.mark_flogLost (r : IssueResult) : (s.mark r).flogLost = s.flogLost := rfl
@[simp] theorem State.mark_fnErr (r : IssueResult) : (s.mark r).fnErr = s.fnErr := rfl
@[simp] theorem State.mark_fnErrVec (r : IssueResult) : (s.mark r).fnErrVec = s.fnErrVec := rfl
@[simp] theorem State.mark_msixMask (r : IssueResult) : (s.mark r).msixMask = s.msixMask := rfl
@[simp] theorem State.mark_msixPend (r : IssueResult) : (s.mark r).msixPend = s.msixPend := rfl
@[simp] theorem State.mark_out (r : IssueResult) : (s.mark r).out = s.out := rfl
@[simp] theorem State.mark_hvecBoot (r : IssueResult) : (s.mark r).hvecBoot = s.hvecBoot := rfl

/-! ### `State.post` -/

@[simp] theorem State.post_inp (i : Instr) (inp : Input) : (s.post i inp).inp = s.inp := rfl
@[simp] theorem State.post_turn (i : Instr) (inp : Input) : (s.post i inp).turn = s.turn := rfl
@[simp] theorem State.post_issue (i : Instr) (inp : Input) : (s.post i inp).issue = s.issue := rfl
@[simp] theorem State.post_free (i : Instr) (inp : Input) : (s.post i inp).free = s.free := rfl
@[simp] theorem State.post_nextId (i : Instr) (inp : Input) : (s.post i inp).nextId = s.nextId := rfl
@[simp] theorem State.post_cycle (i : Instr) (inp : Input) : (s.post i inp).cycle = s.cycle := rfl
@[simp] theorem State.post_cores (i : Instr) (inp : Input) : (s.post i inp).cores = s.cores := rfl
@[simp] theorem State.post_mem (i : Instr) (inp : Input) : (s.post i inp).mem = s.mem := rfl
@[simp] theorem State.post_hostMem (i : Instr) (inp : Input) : (s.post i inp).hostMem = s.hostMem := rfl
@[simp] theorem State.post_badLines (i : Instr) (inp : Input) : (s.post i inp).badLines = s.badLines := rfl
@[simp] theorem State.post_ecc (i : Instr) (inp : Input) : (s.post i inp).ecc = s.ecc := rfl
@[simp] theorem State.post_l2 (i : Instr) (inp : Input) : (s.post i inp).l2 = s.l2 := rfl
@[simp] theorem State.post_plru (i : Instr) (inp : Input) : (s.post i inp).plru = s.plru := rfl
@[simp] theorem State.post_hostLines (i : Instr) (inp : Input) : (s.post i inp).hostLines = s.hostLines := rfl
@[simp] theorem State.post_arrivals (i : Instr) (inp : Input) : (s.post i inp).arrivals = s.arrivals := rfl
@[simp] theorem State.post_memq (i : Instr) (inp : Input) : (s.post i inp).memq = s.memq := rfl
@[simp] theorem State.post_comb (i : Instr) (inp : Input) : (s.post i inp).comb = s.comb := rfl
@[simp] theorem State.post_dieNum (i : Instr) (inp : Input) : (s.post i inp).dieNum = s.dieNum := rfl
@[simp] theorem State.post_perf (i : Instr) (inp : Input) : (s.post i inp).perf = s.perf := rfl
@[simp] theorem State.post_credRet (i : Instr) (inp : Input) : (s.post i inp).credRet = s.credRet := rfl
@[simp] theorem State.post_cmds (i : Instr) (inp : Input) : (s.post i inp).cmds = s.cmds := rfl
@[simp] theorem State.post_l2tlb (i : Instr) (inp : Input) : (s.post i inp).l2tlb = s.l2tlb := rfl
@[simp] theorem State.post_seqTlb (i : Instr) (inp : Input) : (s.post i inp).seqTlb = s.seqTlb := rfl
@[simp] theorem State.post_seqSram (i : Instr) (inp : Input) : (s.post i inp).seqSram = s.seqSram := rfl
@[simp] theorem State.post_parts (i : Instr) (inp : Input) : (s.post i inp).parts = s.parts := rfl
@[simp] theorem State.post_rt (i : Instr) (inp : Input) : (s.post i inp).rt = s.rt := rfl
@[simp] theorem State.post_degQuads (i : Instr) (inp : Input) : (s.post i inp).degQuads = s.degQuads := rfl
@[simp] theorem State.post_degSlices (i : Instr) (inp : Input) : (s.post i inp).degSlices = s.degSlices := rfl
@[simp] theorem State.post_degWays (i : Instr) (inp : Input) : (s.post i inp).degWays = s.degWays := rfl
@[simp] theorem State.post_degChans (i : Instr) (inp : Input) : (s.post i inp).degChans = s.degChans := rfl
@[simp] theorem State.post_degPorts (i : Instr) (inp : Input) : (s.post i inp).degPorts = s.degPorts := rfl
@[simp] theorem State.post_boot (i : Instr) (inp : Input) : (s.post i inp).boot = s.boot := rfl
@[simp] theorem State.post_power (i : Instr) (inp : Input) : (s.post i inp).power = s.power := rfl
@[simp] theorem State.post_fabric (i : Instr) (inp : Input) : (s.post i inp).fabric = s.fabric := rfl
@[simp] theorem State.post_fns (i : Instr) (inp : Input) : (s.post i inp).fns = s.fns := rfl
@[simp] theorem State.post_slateBase (i : Instr) (inp : Input) : (s.post i inp).slateBase = s.slateBase := rfl
@[simp] theorem State.post_cmdRuns (i : Instr) (inp : Input) : (s.post i inp).cmdRuns = s.cmdRuns := rfl
@[simp] theorem State.post_hdm (i : Instr) (inp : Input) : (s.post i inp).hdm = s.hdm := rfl
@[simp] theorem State.post_genesis (i : Instr) (inp : Input) : (s.post i inp).genesis = s.genesis := rfl
@[simp] theorem State.post_nb (i : Instr) (inp : Input) : (s.post i inp).nb = s.nb := rfl
@[simp] theorem State.post_qos (i : Instr) (inp : Input) : (s.post i inp).qos = s.qos := rfl
@[simp] theorem State.post_openRows (i : Instr) (inp : Input) : (s.post i inp).openRows = s.openRows := rfl
@[simp] theorem State.post_sheet (i : Instr) (inp : Input) : (s.post i inp).sheet = s.sheet := rfl
@[simp] theorem State.post_votes (i : Instr) (inp : Input) : (s.post i inp).votes = s.votes := rfl
@[simp] theorem State.post_launches (i : Instr) (inp : Input) : (s.post i inp).launches = s.launches := rfl
@[simp] theorem State.post_gangs (i : Instr) (inp : Input) : (s.post i inp).gangs = s.gangs := rfl
@[simp] theorem State.post_saved (i : Instr) (inp : Input) : (s.post i inp).saved = s.saved := rfl
@[simp] theorem State.post_flog (i : Instr) (inp : Input) : (s.post i inp).flog = s.flog := rfl
@[simp] theorem State.post_flogLost (i : Instr) (inp : Input) : (s.post i inp).flogLost = s.flogLost := rfl
@[simp] theorem State.post_fnErr (i : Instr) (inp : Input) : (s.post i inp).fnErr = s.fnErr := rfl
@[simp] theorem State.post_fnErrVec (i : Instr) (inp : Input) : (s.post i inp).fnErrVec = s.fnErrVec := rfl
@[simp] theorem State.post_msixMask (i : Instr) (inp : Input) : (s.post i inp).msixMask = s.msixMask := rfl
@[simp] theorem State.post_msixPend (i : Instr) (inp : Input) : (s.post i inp).msixPend = s.msixPend := rfl
@[simp] theorem State.post_out (i : Instr) (inp : Input) : (s.post i inp).out = s.out := rfl
@[simp] theorem State.post_hvecBoot (i : Instr) (inp : Input) : (s.post i inp).hvecBoot = s.hvecBoot := rfl

/-! ### `State.result` -/

@[simp] theorem State.result_agenda (v : Word) (lat : Nat) (w : WReg) : (s.result v lat w).agenda = s.agenda := rfl
@[simp] theorem State.result_inp (v : Word) (lat : Nat) (w : WReg) : (s.result v lat w).inp = s.inp := rfl
@[simp] theorem State.result_turn (v : Word) (lat : Nat) (w : WReg) : (s.result v lat w).turn = s.turn := rfl
@[simp] theorem State.result_issue (v : Word) (lat : Nat) (w : WReg) : (s.result v lat w).issue = s.issue := rfl
@[simp] theorem State.result_free (v : Word) (lat : Nat) (w : WReg) : (s.result v lat w).free = s.free := rfl
@[simp] theorem State.result_nextId (v : Word) (lat : Nat) (w : WReg) : (s.result v lat w).nextId = s.nextId := rfl
@[simp] theorem State.result_cycle (v : Word) (lat : Nat) (w : WReg) : (s.result v lat w).cycle = s.cycle := rfl
@[simp] theorem State.result_mem (v : Word) (lat : Nat) (w : WReg) : (s.result v lat w).mem = s.mem := rfl
@[simp] theorem State.result_hostMem (v : Word) (lat : Nat) (w : WReg) : (s.result v lat w).hostMem = s.hostMem := rfl
@[simp] theorem State.result_badLines (v : Word) (lat : Nat) (w : WReg) : (s.result v lat w).badLines = s.badLines := rfl
@[simp] theorem State.result_ecc (v : Word) (lat : Nat) (w : WReg) : (s.result v lat w).ecc = s.ecc := rfl
@[simp] theorem State.result_l2 (v : Word) (lat : Nat) (w : WReg) : (s.result v lat w).l2 = s.l2 := rfl
@[simp] theorem State.result_plru (v : Word) (lat : Nat) (w : WReg) : (s.result v lat w).plru = s.plru := rfl
@[simp] theorem State.result_hostLines (v : Word) (lat : Nat) (w : WReg) : (s.result v lat w).hostLines = s.hostLines := rfl
@[simp] theorem State.result_arrivals (v : Word) (lat : Nat) (w : WReg) : (s.result v lat w).arrivals = s.arrivals := rfl
@[simp] theorem State.result_memq (v : Word) (lat : Nat) (w : WReg) : (s.result v lat w).memq = s.memq := rfl
@[simp] theorem State.result_comb (v : Word) (lat : Nat) (w : WReg) : (s.result v lat w).comb = s.comb := rfl
@[simp] theorem State.result_dieNum (v : Word) (lat : Nat) (w : WReg) : (s.result v lat w).dieNum = s.dieNum := rfl
@[simp] theorem State.result_perf (v : Word) (lat : Nat) (w : WReg) : (s.result v lat w).perf = s.perf := rfl
@[simp] theorem State.result_credRet (v : Word) (lat : Nat) (w : WReg) : (s.result v lat w).credRet = s.credRet := rfl
@[simp] theorem State.result_cmds (v : Word) (lat : Nat) (w : WReg) : (s.result v lat w).cmds = s.cmds := rfl
@[simp] theorem State.result_l2tlb (v : Word) (lat : Nat) (w : WReg) : (s.result v lat w).l2tlb = s.l2tlb := rfl
@[simp] theorem State.result_seqTlb (v : Word) (lat : Nat) (w : WReg) : (s.result v lat w).seqTlb = s.seqTlb := rfl
@[simp] theorem State.result_seqSram (v : Word) (lat : Nat) (w : WReg) : (s.result v lat w).seqSram = s.seqSram := rfl
@[simp] theorem State.result_parts (v : Word) (lat : Nat) (w : WReg) : (s.result v lat w).parts = s.parts := rfl
@[simp] theorem State.result_rt (v : Word) (lat : Nat) (w : WReg) : (s.result v lat w).rt = s.rt := rfl
@[simp] theorem State.result_degQuads (v : Word) (lat : Nat) (w : WReg) : (s.result v lat w).degQuads = s.degQuads := rfl
@[simp] theorem State.result_degSlices (v : Word) (lat : Nat) (w : WReg) : (s.result v lat w).degSlices = s.degSlices := rfl
@[simp] theorem State.result_degWays (v : Word) (lat : Nat) (w : WReg) : (s.result v lat w).degWays = s.degWays := rfl
@[simp] theorem State.result_degChans (v : Word) (lat : Nat) (w : WReg) : (s.result v lat w).degChans = s.degChans := rfl
@[simp] theorem State.result_degPorts (v : Word) (lat : Nat) (w : WReg) : (s.result v lat w).degPorts = s.degPorts := rfl
@[simp] theorem State.result_boot (v : Word) (lat : Nat) (w : WReg) : (s.result v lat w).boot = s.boot := rfl
@[simp] theorem State.result_power (v : Word) (lat : Nat) (w : WReg) : (s.result v lat w).power = s.power := rfl
@[simp] theorem State.result_fabric (v : Word) (lat : Nat) (w : WReg) : (s.result v lat w).fabric = s.fabric := rfl
@[simp] theorem State.result_fns (v : Word) (lat : Nat) (w : WReg) : (s.result v lat w).fns = s.fns := rfl
@[simp] theorem State.result_slateBase (v : Word) (lat : Nat) (w : WReg) : (s.result v lat w).slateBase = s.slateBase := rfl
@[simp] theorem State.result_cmdRuns (v : Word) (lat : Nat) (w : WReg) : (s.result v lat w).cmdRuns = s.cmdRuns := rfl
@[simp] theorem State.result_hdm (v : Word) (lat : Nat) (w : WReg) : (s.result v lat w).hdm = s.hdm := rfl
@[simp] theorem State.result_genesis (v : Word) (lat : Nat) (w : WReg) : (s.result v lat w).genesis = s.genesis := rfl
@[simp] theorem State.result_nb (v : Word) (lat : Nat) (w : WReg) : (s.result v lat w).nb = s.nb := rfl
@[simp] theorem State.result_qos (v : Word) (lat : Nat) (w : WReg) : (s.result v lat w).qos = s.qos := rfl
@[simp] theorem State.result_openRows (v : Word) (lat : Nat) (w : WReg) : (s.result v lat w).openRows = s.openRows := rfl
@[simp] theorem State.result_sheet (v : Word) (lat : Nat) (w : WReg) : (s.result v lat w).sheet = s.sheet := rfl
@[simp] theorem State.result_votes (v : Word) (lat : Nat) (w : WReg) : (s.result v lat w).votes = s.votes := rfl
@[simp] theorem State.result_launches (v : Word) (lat : Nat) (w : WReg) : (s.result v lat w).launches = s.launches := rfl
@[simp] theorem State.result_gangs (v : Word) (lat : Nat) (w : WReg) : (s.result v lat w).gangs = s.gangs := rfl
@[simp] theorem State.result_saved (v : Word) (lat : Nat) (w : WReg) : (s.result v lat w).saved = s.saved := rfl
@[simp] theorem State.result_flog (v : Word) (lat : Nat) (w : WReg) : (s.result v lat w).flog = s.flog := rfl
@[simp] theorem State.result_flogLost (v : Word) (lat : Nat) (w : WReg) : (s.result v lat w).flogLost = s.flogLost := rfl
@[simp] theorem State.result_fnErr (v : Word) (lat : Nat) (w : WReg) : (s.result v lat w).fnErr = s.fnErr := rfl
@[simp] theorem State.result_fnErrVec (v : Word) (lat : Nat) (w : WReg) : (s.result v lat w).fnErrVec = s.fnErrVec := rfl
@[simp] theorem State.result_msixMask (v : Word) (lat : Nat) (w : WReg) : (s.result v lat w).msixMask = s.msixMask := rfl
@[simp] theorem State.result_msixPend (v : Word) (lat : Nat) (w : WReg) : (s.result v lat w).msixPend = s.msixPend := rfl
@[simp] theorem State.result_out (v : Word) (lat : Nat) (w : WReg) : (s.result v lat w).out = s.out := rfl
@[simp] theorem State.result_hvecBoot (v : Word) (lat : Nat) (w : WReg) : (s.result v lat w).hvecBoot = s.hvecBoot := rfl

/-! ### `State.vresult` -/

@[simp] theorem State.vresult_agenda (v : Vec) (lat : Nat) : (s.vresult v lat).agenda = s.agenda := rfl
@[simp] theorem State.vresult_inp (v : Vec) (lat : Nat) : (s.vresult v lat).inp = s.inp := rfl
@[simp] theorem State.vresult_turn (v : Vec) (lat : Nat) : (s.vresult v lat).turn = s.turn := rfl
@[simp] theorem State.vresult_issue (v : Vec) (lat : Nat) : (s.vresult v lat).issue = s.issue := rfl
@[simp] theorem State.vresult_free (v : Vec) (lat : Nat) : (s.vresult v lat).free = s.free := rfl
@[simp] theorem State.vresult_nextId (v : Vec) (lat : Nat) : (s.vresult v lat).nextId = s.nextId := rfl
@[simp] theorem State.vresult_cycle (v : Vec) (lat : Nat) : (s.vresult v lat).cycle = s.cycle := rfl
@[simp] theorem State.vresult_mem (v : Vec) (lat : Nat) : (s.vresult v lat).mem = s.mem := rfl
@[simp] theorem State.vresult_hostMem (v : Vec) (lat : Nat) : (s.vresult v lat).hostMem = s.hostMem := rfl
@[simp] theorem State.vresult_badLines (v : Vec) (lat : Nat) : (s.vresult v lat).badLines = s.badLines := rfl
@[simp] theorem State.vresult_ecc (v : Vec) (lat : Nat) : (s.vresult v lat).ecc = s.ecc := rfl
@[simp] theorem State.vresult_l2 (v : Vec) (lat : Nat) : (s.vresult v lat).l2 = s.l2 := rfl
@[simp] theorem State.vresult_plru (v : Vec) (lat : Nat) : (s.vresult v lat).plru = s.plru := rfl
@[simp] theorem State.vresult_hostLines (v : Vec) (lat : Nat) : (s.vresult v lat).hostLines = s.hostLines := rfl
@[simp] theorem State.vresult_arrivals (v : Vec) (lat : Nat) : (s.vresult v lat).arrivals = s.arrivals := rfl
@[simp] theorem State.vresult_memq (v : Vec) (lat : Nat) : (s.vresult v lat).memq = s.memq := rfl
@[simp] theorem State.vresult_comb (v : Vec) (lat : Nat) : (s.vresult v lat).comb = s.comb := rfl
@[simp] theorem State.vresult_dieNum (v : Vec) (lat : Nat) : (s.vresult v lat).dieNum = s.dieNum := rfl
@[simp] theorem State.vresult_perf (v : Vec) (lat : Nat) : (s.vresult v lat).perf = s.perf := rfl
@[simp] theorem State.vresult_credRet (v : Vec) (lat : Nat) : (s.vresult v lat).credRet = s.credRet := rfl
@[simp] theorem State.vresult_cmds (v : Vec) (lat : Nat) : (s.vresult v lat).cmds = s.cmds := rfl
@[simp] theorem State.vresult_l2tlb (v : Vec) (lat : Nat) : (s.vresult v lat).l2tlb = s.l2tlb := rfl
@[simp] theorem State.vresult_seqTlb (v : Vec) (lat : Nat) : (s.vresult v lat).seqTlb = s.seqTlb := rfl
@[simp] theorem State.vresult_seqSram (v : Vec) (lat : Nat) : (s.vresult v lat).seqSram = s.seqSram := rfl
@[simp] theorem State.vresult_parts (v : Vec) (lat : Nat) : (s.vresult v lat).parts = s.parts := rfl
@[simp] theorem State.vresult_rt (v : Vec) (lat : Nat) : (s.vresult v lat).rt = s.rt := rfl
@[simp] theorem State.vresult_degQuads (v : Vec) (lat : Nat) : (s.vresult v lat).degQuads = s.degQuads := rfl
@[simp] theorem State.vresult_degSlices (v : Vec) (lat : Nat) : (s.vresult v lat).degSlices = s.degSlices := rfl
@[simp] theorem State.vresult_degWays (v : Vec) (lat : Nat) : (s.vresult v lat).degWays = s.degWays := rfl
@[simp] theorem State.vresult_degChans (v : Vec) (lat : Nat) : (s.vresult v lat).degChans = s.degChans := rfl
@[simp] theorem State.vresult_degPorts (v : Vec) (lat : Nat) : (s.vresult v lat).degPorts = s.degPorts := rfl
@[simp] theorem State.vresult_boot (v : Vec) (lat : Nat) : (s.vresult v lat).boot = s.boot := rfl
@[simp] theorem State.vresult_power (v : Vec) (lat : Nat) : (s.vresult v lat).power = s.power := rfl
@[simp] theorem State.vresult_fabric (v : Vec) (lat : Nat) : (s.vresult v lat).fabric = s.fabric := rfl
@[simp] theorem State.vresult_fns (v : Vec) (lat : Nat) : (s.vresult v lat).fns = s.fns := rfl
@[simp] theorem State.vresult_slateBase (v : Vec) (lat : Nat) : (s.vresult v lat).slateBase = s.slateBase := rfl
@[simp] theorem State.vresult_cmdRuns (v : Vec) (lat : Nat) : (s.vresult v lat).cmdRuns = s.cmdRuns := rfl
@[simp] theorem State.vresult_hdm (v : Vec) (lat : Nat) : (s.vresult v lat).hdm = s.hdm := rfl
@[simp] theorem State.vresult_genesis (v : Vec) (lat : Nat) : (s.vresult v lat).genesis = s.genesis := rfl
@[simp] theorem State.vresult_nb (v : Vec) (lat : Nat) : (s.vresult v lat).nb = s.nb := rfl
@[simp] theorem State.vresult_qos (v : Vec) (lat : Nat) : (s.vresult v lat).qos = s.qos := rfl
@[simp] theorem State.vresult_openRows (v : Vec) (lat : Nat) : (s.vresult v lat).openRows = s.openRows := rfl
@[simp] theorem State.vresult_sheet (v : Vec) (lat : Nat) : (s.vresult v lat).sheet = s.sheet := rfl
@[simp] theorem State.vresult_votes (v : Vec) (lat : Nat) : (s.vresult v lat).votes = s.votes := rfl
@[simp] theorem State.vresult_launches (v : Vec) (lat : Nat) : (s.vresult v lat).launches = s.launches := rfl
@[simp] theorem State.vresult_gangs (v : Vec) (lat : Nat) : (s.vresult v lat).gangs = s.gangs := rfl
@[simp] theorem State.vresult_saved (v : Vec) (lat : Nat) : (s.vresult v lat).saved = s.saved := rfl
@[simp] theorem State.vresult_flog (v : Vec) (lat : Nat) : (s.vresult v lat).flog = s.flog := rfl
@[simp] theorem State.vresult_flogLost (v : Vec) (lat : Nat) : (s.vresult v lat).flogLost = s.flogLost := rfl
@[simp] theorem State.vresult_fnErr (v : Vec) (lat : Nat) : (s.vresult v lat).fnErr = s.fnErr := rfl
@[simp] theorem State.vresult_fnErrVec (v : Vec) (lat : Nat) : (s.vresult v lat).fnErrVec = s.fnErrVec := rfl
@[simp] theorem State.vresult_msixMask (v : Vec) (lat : Nat) : (s.vresult v lat).msixMask = s.msixMask := rfl
@[simp] theorem State.vresult_msixPend (v : Vec) (lat : Nat) : (s.vresult v lat).msixPend = s.msixPend := rfl
@[simp] theorem State.vresult_out (v : Vec) (lat : Nat) : (s.vresult v lat).out = s.out := rfl
@[simp] theorem State.vresult_hvecBoot (v : Vec) (lat : Nat) : (s.vresult v lat).hvecBoot = s.hvecBoot := rfl

/-! ### `State.transfer` -/

@[simp] theorem State.transfer_agenda (target : Word) : (s.transfer target).agenda = s.agenda := rfl
@[simp] theorem State.transfer_inp (target : Word) : (s.transfer target).inp = s.inp := rfl
@[simp] theorem State.transfer_turn (target : Word) : (s.transfer target).turn = s.turn := rfl
@[simp] theorem State.transfer_free (target : Word) : (s.transfer target).free = s.free := rfl
@[simp] theorem State.transfer_nextId (target : Word) : (s.transfer target).nextId = s.nextId := rfl
@[simp] theorem State.transfer_cycle (target : Word) : (s.transfer target).cycle = s.cycle := rfl
@[simp] theorem State.transfer_mem (target : Word) : (s.transfer target).mem = s.mem := rfl
@[simp] theorem State.transfer_hostMem (target : Word) : (s.transfer target).hostMem = s.hostMem := rfl
@[simp] theorem State.transfer_badLines (target : Word) : (s.transfer target).badLines = s.badLines := rfl
@[simp] theorem State.transfer_ecc (target : Word) : (s.transfer target).ecc = s.ecc := rfl
@[simp] theorem State.transfer_l2 (target : Word) : (s.transfer target).l2 = s.l2 := rfl
@[simp] theorem State.transfer_plru (target : Word) : (s.transfer target).plru = s.plru := rfl
@[simp] theorem State.transfer_hostLines (target : Word) : (s.transfer target).hostLines = s.hostLines := rfl
@[simp] theorem State.transfer_arrivals (target : Word) : (s.transfer target).arrivals = s.arrivals := rfl
@[simp] theorem State.transfer_memq (target : Word) : (s.transfer target).memq = s.memq := rfl
@[simp] theorem State.transfer_comb (target : Word) : (s.transfer target).comb = s.comb := rfl
@[simp] theorem State.transfer_dieNum (target : Word) : (s.transfer target).dieNum = s.dieNum := rfl
@[simp] theorem State.transfer_perf (target : Word) : (s.transfer target).perf = s.perf := rfl
@[simp] theorem State.transfer_credRet (target : Word) : (s.transfer target).credRet = s.credRet := rfl
@[simp] theorem State.transfer_cmds (target : Word) : (s.transfer target).cmds = s.cmds := rfl
@[simp] theorem State.transfer_l2tlb (target : Word) : (s.transfer target).l2tlb = s.l2tlb := rfl
@[simp] theorem State.transfer_seqTlb (target : Word) : (s.transfer target).seqTlb = s.seqTlb := rfl
@[simp] theorem State.transfer_seqSram (target : Word) : (s.transfer target).seqSram = s.seqSram := rfl
@[simp] theorem State.transfer_parts (target : Word) : (s.transfer target).parts = s.parts := rfl
@[simp] theorem State.transfer_rt (target : Word) : (s.transfer target).rt = s.rt := rfl
@[simp] theorem State.transfer_degQuads (target : Word) : (s.transfer target).degQuads = s.degQuads := rfl
@[simp] theorem State.transfer_degSlices (target : Word) : (s.transfer target).degSlices = s.degSlices := rfl
@[simp] theorem State.transfer_degWays (target : Word) : (s.transfer target).degWays = s.degWays := rfl
@[simp] theorem State.transfer_degChans (target : Word) : (s.transfer target).degChans = s.degChans := rfl
@[simp] theorem State.transfer_degPorts (target : Word) : (s.transfer target).degPorts = s.degPorts := rfl
@[simp] theorem State.transfer_boot (target : Word) : (s.transfer target).boot = s.boot := rfl
@[simp] theorem State.transfer_power (target : Word) : (s.transfer target).power = s.power := rfl
@[simp] theorem State.transfer_fabric (target : Word) : (s.transfer target).fabric = s.fabric := rfl
@[simp] theorem State.transfer_fns (target : Word) : (s.transfer target).fns = s.fns := rfl
@[simp] theorem State.transfer_slateBase (target : Word) : (s.transfer target).slateBase = s.slateBase := rfl
@[simp] theorem State.transfer_cmdRuns (target : Word) : (s.transfer target).cmdRuns = s.cmdRuns := rfl
@[simp] theorem State.transfer_hdm (target : Word) : (s.transfer target).hdm = s.hdm := rfl
@[simp] theorem State.transfer_genesis (target : Word) : (s.transfer target).genesis = s.genesis := rfl
@[simp] theorem State.transfer_nb (target : Word) : (s.transfer target).nb = s.nb := rfl
@[simp] theorem State.transfer_qos (target : Word) : (s.transfer target).qos = s.qos := rfl
@[simp] theorem State.transfer_openRows (target : Word) : (s.transfer target).openRows = s.openRows := rfl
@[simp] theorem State.transfer_sheet (target : Word) : (s.transfer target).sheet = s.sheet := rfl
@[simp] theorem State.transfer_votes (target : Word) : (s.transfer target).votes = s.votes := rfl
@[simp] theorem State.transfer_launches (target : Word) : (s.transfer target).launches = s.launches := rfl
@[simp] theorem State.transfer_gangs (target : Word) : (s.transfer target).gangs = s.gangs := rfl
@[simp] theorem State.transfer_saved (target : Word) : (s.transfer target).saved = s.saved := rfl
@[simp] theorem State.transfer_flog (target : Word) : (s.transfer target).flog = s.flog := rfl
@[simp] theorem State.transfer_flogLost (target : Word) : (s.transfer target).flogLost = s.flogLost := rfl
@[simp] theorem State.transfer_fnErr (target : Word) : (s.transfer target).fnErr = s.fnErr := rfl
@[simp] theorem State.transfer_fnErrVec (target : Word) : (s.transfer target).fnErrVec = s.fnErrVec := rfl
@[simp] theorem State.transfer_msixMask (target : Word) : (s.transfer target).msixMask = s.msixMask := rfl
@[simp] theorem State.transfer_msixPend (target : Word) : (s.transfer target).msixPend = s.msixPend := rfl
@[simp] theorem State.transfer_out (target : Word) : (s.transfer target).out = s.out := rfl
@[simp] theorem State.transfer_hvecBoot (target : Word) : (s.transfer target).hvecBoot = s.hvecBoot := rfl

/-! ### `State.entered` -/

@[simp] theorem State.entered_agenda (e : Event) : (s.entered e).agenda = s.agenda := rfl
@[simp] theorem State.entered_turn (e : Event) : (s.entered e).turn = s.turn := rfl
@[simp] theorem State.entered_issue (e : Event) : (s.entered e).issue = s.issue := rfl
@[simp] theorem State.entered_free (e : Event) : (s.entered e).free = s.free := rfl
@[simp] theorem State.entered_nextId (e : Event) : (s.entered e).nextId = s.nextId := rfl
@[simp] theorem State.entered_cycle (e : Event) : (s.entered e).cycle = s.cycle := rfl
@[simp] theorem State.entered_cores (e : Event) : (s.entered e).cores = s.cores := rfl
@[simp] theorem State.entered_mem (e : Event) : (s.entered e).mem = s.mem := rfl
@[simp] theorem State.entered_hostMem (e : Event) : (s.entered e).hostMem = s.hostMem := rfl
@[simp] theorem State.entered_badLines (e : Event) : (s.entered e).badLines = s.badLines := rfl
@[simp] theorem State.entered_ecc (e : Event) : (s.entered e).ecc = s.ecc := rfl
@[simp] theorem State.entered_l2 (e : Event) : (s.entered e).l2 = s.l2 := rfl
@[simp] theorem State.entered_plru (e : Event) : (s.entered e).plru = s.plru := rfl
@[simp] theorem State.entered_hostLines (e : Event) : (s.entered e).hostLines = s.hostLines := rfl
@[simp] theorem State.entered_arrivals (e : Event) : (s.entered e).arrivals = s.arrivals := rfl
@[simp] theorem State.entered_memq (e : Event) : (s.entered e).memq = s.memq := rfl
@[simp] theorem State.entered_comb (e : Event) : (s.entered e).comb = s.comb := rfl
@[simp] theorem State.entered_dieNum (e : Event) : (s.entered e).dieNum = s.dieNum := rfl
@[simp] theorem State.entered_perf (e : Event) : (s.entered e).perf = s.perf := rfl
@[simp] theorem State.entered_credRet (e : Event) : (s.entered e).credRet = s.credRet := rfl
@[simp] theorem State.entered_cmds (e : Event) : (s.entered e).cmds = s.cmds := rfl
@[simp] theorem State.entered_l2tlb (e : Event) : (s.entered e).l2tlb = s.l2tlb := rfl
@[simp] theorem State.entered_seqTlb (e : Event) : (s.entered e).seqTlb = s.seqTlb := rfl
@[simp] theorem State.entered_seqSram (e : Event) : (s.entered e).seqSram = s.seqSram := rfl
@[simp] theorem State.entered_parts (e : Event) : (s.entered e).parts = s.parts := rfl
@[simp] theorem State.entered_rt (e : Event) : (s.entered e).rt = s.rt := rfl
@[simp] theorem State.entered_degQuads (e : Event) : (s.entered e).degQuads = s.degQuads := rfl
@[simp] theorem State.entered_degSlices (e : Event) : (s.entered e).degSlices = s.degSlices := rfl
@[simp] theorem State.entered_degWays (e : Event) : (s.entered e).degWays = s.degWays := rfl
@[simp] theorem State.entered_degChans (e : Event) : (s.entered e).degChans = s.degChans := rfl
@[simp] theorem State.entered_degPorts (e : Event) : (s.entered e).degPorts = s.degPorts := rfl
@[simp] theorem State.entered_boot (e : Event) : (s.entered e).boot = s.boot := rfl
@[simp] theorem State.entered_power (e : Event) : (s.entered e).power = s.power := rfl
@[simp] theorem State.entered_fabric (e : Event) : (s.entered e).fabric = s.fabric := rfl
@[simp] theorem State.entered_fns (e : Event) : (s.entered e).fns = s.fns := rfl
@[simp] theorem State.entered_slateBase (e : Event) : (s.entered e).slateBase = s.slateBase := rfl
@[simp] theorem State.entered_cmdRuns (e : Event) : (s.entered e).cmdRuns = s.cmdRuns := rfl
@[simp] theorem State.entered_hdm (e : Event) : (s.entered e).hdm = s.hdm := rfl
@[simp] theorem State.entered_genesis (e : Event) : (s.entered e).genesis = s.genesis := rfl
@[simp] theorem State.entered_nb (e : Event) : (s.entered e).nb = s.nb := rfl
@[simp] theorem State.entered_qos (e : Event) : (s.entered e).qos = s.qos := rfl
@[simp] theorem State.entered_openRows (e : Event) : (s.entered e).openRows = s.openRows := rfl
@[simp] theorem State.entered_sheet (e : Event) : (s.entered e).sheet = s.sheet := rfl
@[simp] theorem State.entered_votes (e : Event) : (s.entered e).votes = s.votes := rfl
@[simp] theorem State.entered_launches (e : Event) : (s.entered e).launches = s.launches := rfl
@[simp] theorem State.entered_gangs (e : Event) : (s.entered e).gangs = s.gangs := rfl
@[simp] theorem State.entered_saved (e : Event) : (s.entered e).saved = s.saved := rfl
@[simp] theorem State.entered_flog (e : Event) : (s.entered e).flog = s.flog := rfl
@[simp] theorem State.entered_flogLost (e : Event) : (s.entered e).flogLost = s.flogLost := rfl
@[simp] theorem State.entered_fnErr (e : Event) : (s.entered e).fnErr = s.fnErr := rfl
@[simp] theorem State.entered_fnErrVec (e : Event) : (s.entered e).fnErrVec = s.fnErrVec := rfl
@[simp] theorem State.entered_msixMask (e : Event) : (s.entered e).msixMask = s.msixMask := rfl
@[simp] theorem State.entered_msixPend (e : Event) : (s.entered e).msixPend = s.msixPend := rfl
@[simp] theorem State.entered_out (e : Event) : (s.entered e).out = s.out := rfl
@[simp] theorem State.entered_hvecBoot (e : Event) : (s.entered e).hvecBoot = s.hvecBoot := rfl

/-! ### Cores -/

@[simp] theorem State.coreAt_setCore (c : Fin 256) (k : Core) : (s.setCore c k).coreAt c = k := by
  simp [State.coreAt, State.setCore]

theorem State.coreAt_setCore_ne {c d : Fin 256} (k : Core) (h : d ≠ c) : (s.setCore c k).coreAt d = s.coreAt d := by
  have : c.val ≠ d.val := fun e => h (Fin.ext e.symm)
  simp [State.coreAt, State.setCore, Vector.getElem_set, this]

@[simp] theorem State.coreAt_mapCore (c : Fin 256) (f : Core → Core) : (s.mapCore c f).coreAt c = f (s.coreAt c) :=
  State.coreAt_setCore s c _

theorem State.coreAt_mapCore_ne {c d : Fin 256} (f : Core → Core) (h : d ≠ c) :
    (s.mapCore c f).coreAt d = s.coreAt d := State.coreAt_setCore_ne s _ h

@[simp] theorem State.cur_upd (f : Core → Core) : (s.upd f).cur = f s.cur :=
  State.coreAt_setCore s s.issue.core _

@[simp] theorem State.pre_upd (f : Core → Core) : (s.upd f).pre = s.pre := rfl

@[simp] theorem State.cur_result (v : Word) (lat : Nat) (w : WReg) :
    (s.result v lat w).cur = s.cur.result v lat w none := State.cur_upd s _

@[simp] theorem State.cur_vresult (v : Vec) (lat : Nat) : (s.vresult v lat).cur = s.cur.vresult v lat :=
  State.cur_upd s _

@[simp] theorem State.mark_result (r : IssueResult) : (s.mark r).issue.result = r := rfl

@[simp] theorem State.mark_coreAt (r : IssueResult) (c : Fin 256) : (s.mark r).coreAt c = s.coreAt c := rfl

@[simp] theorem State.post_agenda (i : Instr) (inp : Input) : (s.post i inp).agenda = s.agenda ++ [⟨i, inp⟩] := rfl

/-- What an update of the core being issued leaves alone. -/
theorem State.upd_only_cores (f : Core → Core) : ({ s.upd f with cores := s.cores } : State) = s := rfl

theorem State.upd_coreAt_ne (f : Core → Core) {d : Fin 256} (h : d ≠ s.issue.core) :
    (s.upd f).coreAt d = s.coreAt d := State.coreAt_mapCore_ne s f h

/-! ### Banks -/

@[simp] theorem Core.bank_setBank (k : Core) (l : Level) (b : Bank) : (k.setBank l b).bank l = b := by
  cases l <;> rfl

theorem Core.bank_setBank_ne (k : Core) {l m : Level} (b : Bank) (h : m ≠ l) : (k.setBank l b).bank m = k.bank m := by
  cases l <;> cases m <;> first | rfl | exact absurd rfl h

/-- A bank is all that `setBank` changes. -/
theorem Core.setBank_only (k : Core) (l : Level) (b : Bank) :
    ({ k.setBank l b with bankU := k.bankU, bankS := k.bankS, bankH := k.bankH } : Core) = k := by
  cases l <;> rfl

@[simp] theorem Core.setBank_level (k : Core) (l : Level) (b : Bank) : (k.setBank l b).level = k.level := by
  cases l <;> rfl

/-- What a scalar result makes of the bank in force. -/
theorem Core.bank_result (k : Core) (v : Word) (lat : Nat) (w : WReg) (load : Option Nat) :
    (k.result v lat w load).bank k.level =
      ⟨claimTake (k.bank k.level).takes k.seq 0 v k.clk lat load,
       if w = 0 then (k.bank k.level).x
       else (k.bank k.level).x.set w (((k.bank k.level).x[w]).write k.clk ⟨v, k.clk, k.clk + lat, load⟩)⟩ := by
  unfold Core.result
  cases h : k.level <;> simp [Core.setBank, Core.bank]

theorem Core.bank_result_ne (k : Core) (v : Word) (lat : Nat) (w : WReg) (load : Option Nat) {l : Level}
    (h : l ≠ k.level) : (k.result v lat w load).bank l = k.bank l := by
  unfold Core.result
  cases hk : k.level <;> cases l <;> simp_all [Core.setBank, Core.bank]

/-- A scalar result touches takes, named registers and the count of claims alone. -/
theorem Core.result_only (k : Core) (v : Word) (lat : Nat) (w : WReg) (load : Option Nat) :
    ({ k.result v lat w load with bankU := k.bankU, bankS := k.bankS, bankH := k.bankH, seq := k.seq } : Core) = k := by
  unfold Core.result
  cases k.level <;> rfl

theorem Core.result_x_ne (k : Core) (v : Word) (lat : Nat) (w : WReg) (load : Option Nat) {n : Fin 16}
    (h : n ≠ w ∨ n = 0) : ((k.result v lat w load).bank k.level).x[n] = ((k.bank k.level).x)[n] := by
  rw [Core.bank_result]
  by_cases hw : w = 0
  · simp [hw]
  · have hn : w.val ≠ n.val := by
      rcases h with h | h
      · exact fun e => h (Fin.ext e.symm)
      · subst h; exact fun e => hw (Fin.ext e)
    simp [hw, Vector.getElem_set, hn]

/-- A vector result touches vector takes and the count of claims alone. -/
theorem Core.vresult_only (k : Core) (v : Vec) (lat : Nat) :
    ({ k.vresult v lat with vtakes := k.vtakes, seq := k.seq } : Core) = k := rfl

end Sys2Proof.Machine
end

