-- ==== Sys2Proof/Laws/Slot.lean ====
section
/-! SUPPORT. What the shared operations of a slot instruction do: reading operands, finishing, raising, holding. -/

namespace Sys2Proof.Machine

/-! ### Sequencing -/

@[simp] theorem SlotRes.bind_ok {α β : Type} (a : α) (s : State) (k : α → State → SlotRes β) :
    (SlotRes.ok a s).bind k = k a s := rfl
@[simp] theorem SlotRes.bind_trap {α β : Type} (t : Trap) (k : α → State → SlotRes β) :
    (SlotRes.trap t : SlotRes α).bind k = .trap t := rfl
@[simp] theorem SlotRes.bind_hold {α β : Type} (h : Hold) (k : α → State → SlotRes β) :
    (SlotRes.hold h : SlotRes α).bind k = .hold h := rfl

/-- A sequence that completes has completed its first part. -/
theorem SlotRes.bind_eq_ok {α β : Type} {r : SlotRes α} {k : α → State → SlotRes β} {b : β} {s' : State}
    (h : r.bind k = .ok b s') : ∃ a s1, r = .ok a s1 ∧ k a s1 = .ok b s' :=
  match r, h with
  | .ok a s1, done => ⟨a, s1, rfl, done⟩

@[simp] theorem need_true {α : Type} (s : State) (c : Cause) (info : Word) (k : SlotRes α) :
    need s true c info k = k := rfl
@[simp] theorem need_false {α : Type} (s : State) (c : Cause) (info : Word) (k : SlotRes α) :
    need s false c info k = raise s c info := rfl

theorem need_of {α : Type} {s : State} {b : Bool} {c : Cause} {info : Word} {k : SlotRes α} (h : b = true) :
    need s b c info k = k := by rw [h]; rfl

/-- A condition that lets a slot go on held. -/
theorem need_eq_ok {α : Type} {s : State} {b : Bool} {c : Cause} {info : Word} {k : SlotRes α} {a : α} {s' : State}
    (h : need s b c info k = .ok a s') : b = true ∧ k = .ok a s' := by
  cases b with
  | true => exact ⟨rfl, h⟩
  | false => cases h

@[simp] theorem orHold_none {α : Type} (k : SlotRes α) : orHold none k = k := rfl

/-! ### Outcomes -/

@[simp] theorem finish_ok (s s' : State) : finish s (.ok () s') = .next s' := rfl
@[simp] theorem finish_trap (s : State) (t : Trap) :
    finish s (.trap t) = .next ((s.takeTrap s.issue.core t).mark (.trapped t)) := rfl
@[simp] theorem finish_hold (s : State) (h : Hold) :
    finish s (.hold h) = .next ((s.holdOn s.issue.core h).mark (.held h)) := rfl

/-- A slot instruction always answers a next state. -/
theorem finish_goes (s : State) (r : SlotRes Unit) : Goes (finish s r) := by
  cases r <;> exact ⟨_, rfl⟩

/-- Where the bundle is neither trapped nor held, a slot instruction had its own effect. -/
theorem finish_ok_inv {s t : State} {r : SlotRes Unit} (h : finish s r = .next t) (ht : t.issue.result = .ok) :
    r = .ok () t := by
  cases r with
  | ok a s' => cases h; rfl
  | trap x => cases h; cases ht
  | hold x => cases h; cases ht

/-! ### Operands -/

/-- Reading what is seen draws at most a free value. -/
theorem readSeen_only {α : Type} {s s' : State} {d : α} {x : Seen α} {info : Word} {v : α}
    (h : readSeen s d x info = .ok v s') : ({ s' with free := s.free } : State) = s := by
  unfold readSeen at h
  split at h
  · cases h; rfl
  · split at h <;> cases h
    rfl

/-- A register that has settled is read as it is. -/
theorem readSeen_settled {α : Type} (s : State) (d v : α) (info : Word) :
    readSeen s d (.settled v) info = .ok v s := rfl

/-- Reading a scalar specifier draws at most a free value (R269). -/
theorem readS_only {s s' : State} {sp : SSpec} {pos : Nat} {v : Word} (h : readS s sp pos = .ok v s') :
    ({ s' with free := s.free } : State) = s := by
  unfold readS at h
  cases sp with
  | take n => exact readSeen_only h
  | x n => exact readSeen_only h
  | const n => cases h; rfl
  | ident r => cases h; rfl

theorem readSO_only {s s' : State} {o : SOpnd} {pos : Nat} {v : Word} (h : readSO s o pos = .ok v s') :
    ({ s' with free := s.free } : State) = s := by
  cases o with
  | spec sp => exact readS_only h
  | lit l => cases h; rfl

/-- A constant specifier names its own number (R269). -/
@[simp] theorem readS_const (s : State) (n : Fin 16) (pos : Nat) :
    readS s (.const n) pos = .ok (BitVec.ofNat 64 n.val) s := rfl

/-- A literal is sign-extended (R266). -/
@[simp] theorem readSO_lit (s : State) (v : BWord) (pos : Nat) : readSO s (.lit v) pos = .ok (v.signExtend 64) s := rfl

/-- A change of nothing but the free count keeps the core being issued. -/
theorem State.cur_of_only {s s' : State} (h : ({ s' with free := s.free } : State) = s) : s'.cur = s.cur := by
  rw [← h]; rfl

theorem State.issue_of_only {s s' : State} (h : ({ s' with free := s.free } : State) = s) : s'.issue = s.issue := by
  rw [← h]

end Sys2Proof.Machine
end

