-- ==== Sys2Proof/Laws/Vector.lean ====
section
/-! SUPPORT. Vectors: what an element and a scale byte of a packed vector read as, and what an element-wise instruction
claims. -/

namespace Sys2Proof.Machine

/-! ### Digits -/

theorem packDigits_div (w : Nat) (ds : List Nat) (i : Nat) :
    packDigits w ds / 2 ^ (w * i) = packDigits w (ds.drop i) := by
  induction ds generalizing i with
  | nil => simp [packDigits]
  | cons d ds ih =>
    cases i with
    | zero => simp
    | succ i =>
      have : d % 2 ^ w < 2 ^ w := Nat.mod_lt _ (Nat.two_pow_pos w)
      rw [packDigits, Nat.mul_succ, Nat.add_comm (w * i), Nat.pow_add, ← Nat.div_div_eq_div_mul,
        Nat.add_mul_div_left _ _ (Nat.two_pow_pos w), Nat.div_eq_of_lt this, Nat.zero_add, ih, List.drop_succ_cons]

theorem packDigits_lt (w : Nat) (ds : List Nat) : packDigits w ds < 2 ^ (w * ds.length) := by
  induction ds with
  | nil => simp [packDigits]
  | cons d ds ih =>
    have h : d % 2 ^ w < 2 ^ w := Nat.mod_lt _ (Nat.two_pow_pos w)
    rw [packDigits, List.length_cons, Nat.mul_succ, Nat.add_comm (w * ds.length), Nat.pow_add]
    calc d % 2 ^ w + 2 ^ w * packDigits w ds < 2 ^ w + 2 ^ w * packDigits w ds := by omega
      _ = 2 ^ w * (packDigits w ds + 1) := by ring
      _ ≤ 2 ^ w * 2 ^ (w * ds.length) := Nat.mul_le_mul_left _ ih

/-- The bits of one digit. -/
theorem bitsOf_packDigits {w : Nat} (ds : List Nat) (i r n : Nat) (h : r + n ≤ w) :
    bitsOf (packDigits w ds) (w * i + r) n = ds.getD i 0 % 2 ^ w / 2 ^ r % 2 ^ n := by
  unfold bitsOf
  rw [Nat.pow_add, ← Nat.div_div_eq_div_mul, packDigits_div]
  cases hd : ds.drop i with
  | nil =>
    have : ds.length ≤ i := List.drop_eq_nil_iff.1 hd
    rw [List.getD_eq_getElem?_getD, List.getElem?_eq_none this]
    simp [packDigits]
  | cons d rest =>
    have hi : ds.getD i 0 = d := by
      have : ds[i]? = some d := by
        have := List.getElem?_drop (xs := ds) (i := i) (j := 0)
        rw [hd] at this
        simpa using this.symm
      rw [List.getD_eq_getElem?_getD, this, Option.getD_some]
    rw [hi, packDigits]
    obtain ⟨m, rfl⟩ : ∃ m, w = r + n + m := ⟨w - (r + n), by omega⟩
    rw [Nat.add_assoc r n m, Nat.pow_add 2 r, Nat.mul_assoc, Nat.add_mul_div_left _ _ (Nat.two_pow_pos r), Nat.pow_add 2 n,
      Nat.mul_assoc, Nat.add_mul_mod_self_left]

/-! ### Elements -/

/-- One granule of a packed vector. -/
theorem granule_lt (w : Nat) (es scales : List Nat) (g : Nat) :
    packDigits w ((es.drop (256 / w * g)).take (256 / w)) + 2 ^ 256 * (scales.getD g 0x7F % 256) < 2 ^ 264 := by
  have h1 := packDigits_lt w ((es.drop (256 / w * g)).take (256 / w))
  have h2 : w * ((es.drop (256 / w * g)).take (256 / w)).length ≤ 256 := by
    calc _ ≤ w * (256 / w) := Nat.mul_le_mul_left _ (by simp)
      _ ≤ 256 := Nat.mul_div_le _ _
  have h3 := Nat.pow_le_pow_right (n := 2) (by omega) h2
  have h4 : scales.getD g 0x7F % 256 < 256 := Nat.mod_lt _ (by omega)
  have h5 : (2 : Nat) ^ 264 = 2 ^ 256 * 256 := by rw [show 264 = 256 + 8 from rfl, Nat.pow_add]
  rw [h5]
  generalize (2 : Nat) ^ 256 = X at *
  nlinarith

theorem packVec_toNat (w : Nat) (es scales : List Nat) :
    (packVec w es scales).toNat = packDigits 264 ((List.range 8).map fun g =>
      packDigits w ((es.drop (256 / w * g)).take (256 / w)) + 2 ^ 256 * (scales.getD g 0x7F % 256)) := by
  unfold packVec
  rw [BitVec.toNat_ofNat, Nat.mod_eq_of_lt]
  have := packDigits_lt 264 ((List.range 8).map fun g =>
      packDigits w ((es.drop (256 / w * g)).take (256 / w)) + 2 ^ 256 * (scales.getD g 0x7F % 256))
  simpa using this

theorem packVec_bits {w : Nat} (es scales : List Nat) {g r n : Nat} (hg : g < 8) (h : r + n ≤ 264) :
    bitsOf (packVec w es scales).toNat (264 * g + r) n =
      (packDigits w ((es.drop (256 / w * g)).take (256 / w)) + 2 ^ 256 * (scales.getD g 0x7F % 256)) / 2 ^ r % 2 ^ n := by
  rw [packVec_toNat, bitsOf_packDigits _ _ _ _ h]
  have : (List.map (fun g => packDigits w ((es.drop (256 / w * g)).take (256 / w)) + 2 ^ 256 * (scales.getD g 0x7F % 256))
      (List.range 8)).getD g 0 = packDigits w ((es.drop (256 / w * g)).take (256 / w)) + 2 ^ 256 * (scales.getD g 0x7F % 256) := by
    rw [List.getD_eq_getElem?_getD, List.getElem?_map, List.getElem?_range hg]; rfl
  rw [this, Nat.mod_eq_of_lt (granule_lt w es scales g)]

/-- An element of a packed vector is its code. -/
theorem elem_packVec {w : Nat} (es scales : List Nat) (hw : w ∣ 256) (hp : 0 < w) {n : Nat} (hn : n < 2048 / w) :
    elem w (packVec w es scales) n = es.getD n 0 % 2 ^ w := by
  obtain ⟨q, hq⟩ := hw
  have hq0 : 0 < q := Nat.pos_of_ne_zero (by rintro rfl; omega)
  have hq' : 256 / w = q := by rw [hq, Nat.mul_div_cancel_left _ hp]
  have h2048 : 2048 / w = 8 * q := by
    rw [show 2048 = w * (8 * q) by rw [Nat.mul_left_comm, ← hq], Nat.mul_div_cancel_left _ hp]
  have hdiv : w * n / 256 = n / q := by rw [hq, Nat.mul_div_mul_left _ _ hp]
  have hmod : w * n % 256 = w * (n % q) := by rw [hq, Nat.mul_mod_mul_left]
  have hg : n / q < 8 := by rw [Nat.div_lt_iff_lt_mul hq0]; omega
  have hr : w * (n % q) + w ≤ 256 := by
    have := Nat.mod_lt n hq0
    rw [hq, ← Nat.mul_succ]; exact Nat.mul_le_mul_left _ this
  unfold elem
  rw [hdiv, hmod, packVec_bits es scales hg (by omega), hq']
  have hb := bitsOf_packDigits (w := w) ((es.drop (q * (n / q))).take q) (n % q) 0 w (by omega)
  unfold bitsOf at hb
  have split : ∀ (a b : Nat), (a + 2 ^ 256 * b) / 2 ^ (w * (n % q)) % 2 ^ w = a / 2 ^ (w * (n % q)) % 2 ^ w := by
    intro a b
    obtain ⟨m, hm⟩ : ∃ m, 256 = w * (n % q) + (w + m) := ⟨256 - (w * (n % q) + w), by omega⟩
    rw [hm, Nat.pow_add, Nat.mul_assoc, Nat.add_mul_div_left _ _ (Nat.two_pow_pos _), Nat.pow_add 2 w, Nat.mul_assoc,
      Nat.add_mul_mod_self_left]
  rw [split]
  simp only [Nat.add_zero, Nat.pow_zero, Nat.div_one, Nat.mod_mod] at hb
  rw [hb]
  congr 1
  rw [List.getD_eq_getElem?_getD, List.getD_eq_getElem?_getD, List.getElem?_take_of_lt (Nat.mod_lt n hq0),
    List.getElem?_drop, Nat.div_add_mod]

/-- A scale byte of a packed vector. -/
theorem granScale_packVec {w : Nat} (es scales : List Nat) {g : Nat} (hg : g < 8) :
    granScale (packVec w es scales) g = scales.getD g 0x7F % 256 := by
  unfold granScale
  rw [packVec_bits es scales hg (by omega)]
  have h1 := packDigits_lt w ((es.drop (256 / w * g)).take (256 / w))
  have h2 : w * ((es.drop (256 / w * g)).take (256 / w)).length ≤ 256 := by
    calc _ ≤ w * (256 / w) := Nat.mul_le_mul_left _ (by simp)
      _ ≤ 256 := Nat.mul_div_le _ _
  have h3 := Nat.pow_le_pow_right (n := 2) (by omega) h2
  rw [Nat.add_mul_div_left _ _ (Nat.two_pow_pos 256), Nat.div_eq_of_lt (Nat.lt_of_lt_of_le h1 h3), Nat.zero_add]
  exact Nat.mod_mod _ _

theorem Ty.width_dvd (t : Ty) : Ty.width t ∣ 256 := by cases t <;> decide
theorem Ty.width_pos (t : Ty) : 0 < Ty.width t := by cases t <;> decide

/-! ### Lists of element results -/

theorem collect_ok {α : Type} (l : List α) : collect (l.map .ok) = .ok l := by
  induction l with
  | nil => rfl
  | cons a l ih => simp [collect, ih]

/-- Where every active element has a code, the elements of a result. -/
theorem maskedElems_ok {m : BitVec 512} {w : Nat} {f : Nat → Except Cause Nat} {c : Nat → Nat}
    (h : ∀ n < elemCount w, activeAt m w n = true → f n = .ok (c n)) :
    maskedElems m w f = .ok ((List.range (elemCount w)).map fun n => if activeAt m w n then c n else 0) := by
  unfold maskedElems
  rw [← collect_ok, List.map_map]
  congr 1
  apply List.map_congr_left
  intro n hn
  have := h n (List.mem_range.1 hn)
  simp only [Function.comp_apply]
  split
  · rw [this ‹_›]
  · rfl

/-- What an element-wise computation packs. -/
theorem vmap_ok {s : State} {t : Ty} {f : Nat → Except Cause Nat} {sc c : Nat → Nat}
    (h : ∀ n < elemCount (Ty.width t), activeAt s.pre.curMask (Ty.width t) n = true → f n = .ok (c n)) :
    ∃ v, vmap s t f sc = .ok v ∧
      (∀ n < 2048 / Ty.width t, elem (Ty.width t) v n =
        if activeAt s.pre.curMask (Ty.width t) n then c n % 2 ^ Ty.width t else 0) ∧
      (∀ g < 8, granScale v g =
        if carriesScale t && granActive s.pre.curMask (Ty.width t) g then sc g % 256 else 0x7F) := by
  refine ⟨_, by unfold vmap; rw [maskedElems_ok h], ?_, ?_⟩
  · intro n hn
    rw [elem_packVec _ _ (Ty.width_dvd t) (Ty.width_pos t) hn, List.getD_eq_getElem?_getD, List.getElem?_map,
      List.getElem?_range (show n < elemCount _ from hn)]
    simp only [Option.map_some, Option.getD_some]
    split <;> simp
  · intro g hg
    rw [granScale_packVec _ _ hg]
    unfold outScales maskedScales
    rw [List.getD_eq_getElem?_getD, List.getElem?_map, List.getElem?_range hg]
    simp only [Option.map_some, Option.getD_some]
    cases carriesScale t <;> cases granActive s.pre.curMask (Ty.width t) g <;> simp

/-! ### Element-wise instructions -/

/-- One operand. -/
theorem vun_runs {i : Instr} {s s1 : State} {a : VSpec} {t : Ty} {lat : Nat} {f : Vec → Nat → Except Cause Nat}
    {x : Vec} {c : Nat → Nat} (hi : exec i s = vun s a t lat f) (ha : readV s a 0 t = .ok x s1)
    (hp : s1.pre = s.pre)
    (h : ∀ n < elemCount (Ty.width t), activeAt s.pre.curMask (Ty.width t) n = true → f x n = .ok (c n)) :
    VRuns i s s1 t lat c (granScale x) := by
  obtain ⟨v, hv, h1, h2⟩ := vmap_ok (s := s1) (t := t) (f := f x) (sc := granScale x) (c := c) (by rw [hp]; exact h)
  rw [hp] at h1 h2
  refine ⟨v, ?_, h1, h2⟩
  unfold Runs
  rw [hi]
  simp [vun, ha, vdone, hv]

/-- Two operands. -/
theorem vbin_runs {i : Instr} {s s1 s2 : State} {a : VSpec} {b : VOpnd} {t : Ty} {lat : Nat}
    {f : Vec → Vec → Nat → Except Cause Nat} {x y : Vec} {c : Nat → Nat} (hi : exec i s = vbin s a b t lat f)
    (ha : readV s a 0 t = .ok x s1) (hb : readVO s1 b t = .ok y s2) (hp : s2.pre = s.pre)
    (h : ∀ n < elemCount (Ty.width t), activeAt s.pre.curMask (Ty.width t) n = true → f x y n = .ok (c n)) :
    VRuns i s s2 t lat c (granScale x) := by
  obtain ⟨v, hv, h1, h2⟩ := vmap_ok (s := s2) (t := t) (f := f x y) (sc := granScale x) (c := c) (by rw [hp]; exact h)
  rw [hp] at h1 h2
  refine ⟨v, ?_, h1, h2⟩
  unfold Runs
  rw [hi]
  simp [vbin, ha, hb, vdone, hv]

end Sys2Proof.Machine
end

