-- ==== Sys2Proof/Tests/Slice0.lean ====
section
/-! SUPPORT. Tests. The words and values come from the encoding tables and the worked examples of the manual, or are
worked by hand from its rules; the witnesses show, for each statement of Certificates/Slice0/Obligations.lean with
hypotheses, states and operands that meet them, one for each of its clauses. -/

-- Each test is checked before the next one starts: many at once ask for more memory than the check allows.
set_option Elab.async false
set_option synthInstance.maxSize 4000
set_option synthInstance.maxHeartbeats 400000

namespace Sys2Proof.Tests

open Sys2Proof.Machine

/-! ### States -/

/-- A header that declares everything, one region of the scratchpad and one of HBM. -/
def hdr1 : KHeader :=
  { KHeader.none with
    quads := 1, nx := 16, nv := 16, tiles := 255, accs := 255, streams := 255, tags := 64, polders := BitVec.allOnes 32,
    barriers := 32, mqMax := 8, q0Max := 64, q1Max := 64, cqMax := 16, moqMax := 4, sDepth := 16, spill := 16384,
    diffs := [⟨false, .f32, false, 0, 0x10000, 0x100, 0x20000⟩, ⟨true, .f32, false, 0, 0x100000, 0x1000, 0x200000⟩] }

def page (v n : Nat) (diff : Bool) (mtype : Nat) : TlbEntry := ⟨1, v, n, v, false, true, true, true, true, false, diff, mtype, v⟩

/-- A core that runs launch 1 of partition 1 in U; VAs are DPAs, and the region of HBM lies on pages with DIFF. -/
def core1 : Core :=
  { Core.reset with
    run := .running, launch := some 1, part := 1, hdr := hdr1, reelBase := 0x300000, reelLimit := 0x310000,
    reelPtr := 0x300000, l1tlb := [page 0x100000 0x10000 true 0, page 0x400000 0x10000 false 2, page 0 0x1000000 false 0] }

def part1 : Partition :=
  { Partition.absent with
    exists_ := true, critical := true, rings := 64, quads := 1, slices := BitVec.allOnes 128, chans := BitVec.allOnes 256,
    ports := 1, seqs := 1, dranges := [⟨0, 0x10000000⟩],
    windows := [some ⟨false, true, 1, 1, 0x10000000, 0x1000, 0x500000, 0x600000, 0⟩] }

def launch1 : Launch :=
  { id := 1, part := 1, hker := false, handle := 7, hdr := hdr1, source := .ring 0, state := .running, entered := true,
    base := 3, eff := 3, waited := 0, since := 0, active := 0, nquads := 1, quads := [0], args := [], gang := 0, rank := 0,
    gsize := 1, members := [(0, 1)], cmd := none, first := none, charged := 0, swapped := false, voteAt := 0, haltAt := none, ended := 0,
    fault := none, after := [], copies := [], code := 0 }

/-- A booted module with one partition and one launch, in which core 0, as given, issues a slot. -/
def on (k : Core) : State :=
  { State.reset with
    cores := State.reset.cores.set 0 k, parts := State.reset.parts.set 1 part1, launches := [launch1],
    boot := { Boot.reset with stage := 7 }, issue := { Issue.reset with pre := k } }

def atU : State := on core1
def atS : State := on { core1 with level := .s }
def atH : State := on { core1 with level := .h }

/-- The core with a named register of U. -/
def withX (k : Core) (n : Fin 16) (v : Word) : Core := k.setBank .u { k.bankU with x := k.bankU.x.set n ⟨v, []⟩ }

/-- The state that an instruction answers. -/
def after (o : Host.Outcome State Fault Refusal) : State :=
  match o with
  | .next t => t
  | _ => State.reset

/-- What a slot's operand reads as. -/
def value {α : Type} (d : α) : SlotRes α → α
  | .ok v _ => v
  | _ => d

/-- A computation succeeds. -/
def okOf {α β : Type} (r : Except α β) : Bool :=
  match r with
  | .ok _ => true
  | _ => false

/-- The newest scalar take of core 0 and its landing. -/
def newest (t : State) : Word × Nat :=
  match (t.cur.bank t.cur.level).takes with
  | e :: _ => (e.val, e.land)
  | [] => (0, 0)

/-- The cause that the bundle of core 0 raised. -/
def cause (t : State) : Option Cause :=
  match t.issue.result with
  | .trapped e => some e.cause
  | _ => none

/-- The hold of the bundle of core 0. -/
def hold (t : State) : Option Hold :=
  match t.issue.result with
  | .held h => some h
  | _ => none

def run (i : Instr) (s : State) : State := after (exec i s)

/-! ### Witnesses: the S slot -/

theorem wit_operands (s : State) :
    readS s (.const 7) 0 = .ok 7 s ∧ readSO s (.lit 0x80000000) 1 = .ok 0xFFFFFFFF80000000 s ∧
    readS s (.x 0) 0 = .ok 0 s := ⟨rfl, rfl, rfl⟩

theorem wit_DivisionResultsAndDivZero :
    (readS atU (.const 7) 0 = .ok 7 atU ∧ readSO atU (.lit 2) 1 = .ok 2 atU ∧ (2 : Word) ≠ 0 ∧ (2 : Word).setWidth 32 ≠ 0) ∧
    (readSO atU (.lit 0) 1 = .ok 0 atU) ∧
    (let s := on (withX core1 1 0x100000000)
     readSO s (.spec (.x 1)) 1 = .ok 0x100000000 s ∧ (0x100000000 : Word).setWidth 32 = 0 ∧ (0x100000000 : Word) ≠ 0) ∧
    (let s := on (withX core1 1 (BitVec.intMin 64))
     readS s (.x 1) 0 = .ok (BitVec.intMin 64) s ∧ readSO s (.lit 0xFFFFFFFF) 1 = .ok (BitVec.allOnes 64) s) ∧
    (readS atU (.const 7) 0 = .ok 7 atU ∧ (litWord 0x80000000).setWidth 32 = BitVec.intMin 32) :=
  ⟨⟨rfl, rfl, by decide, by decide⟩, rfl, ⟨rfl, by decide, by decide⟩, ⟨rfl, rfl⟩, rfl, by decide⟩

/-- A bundle of one DIV by zero on a core with nothing under way. -/
theorem wit_DivisionBundle :
    let d : RawBundle := ⟨0, 1, [0x15000000]⟩
    let is : List (Slot × Instr) := [(.s, .div (.const 7) (.lit 0) 0 false)]
    acquiring atU 0 = false ∧ engineTrap (atU.coreAt 0) (bundlePops (atU.openBundle 0 d is)) = none ∧
      isAccess (.div (.const 7) (.lit 0) 0 false) = false := by decide +kernel

theorem wit_CompareSelectFieldAndImmediateResults :
    readS atU (.const 7) 0 = .ok 7 atU ∧ readSO atU (.lit 5) 1 = .ok 5 atU ∧ readS atU (.const 0) 2 = .ok 0 atU ∧
    ((63 : BitVec 6).toNat + ((0 : BitVec 6).toNat + 1) ≤ 64) ∧ ((0 : BitVec 6).toNat + ((63 : BitVec 6).toNat + 1) ≤ 64) :=
  ⟨rfl, rfl, rfl, by decide, by decide⟩

theorem wit_ResultInstructionsLeaveTheRestAlone :
    (scalarResult (.add (.const 7) (.lit 5) 3 false) = some 3 ∧ atU.issue.result = .ok ∧
      (run (.add (.const 7) (.lit 5) 3 false) atU).issue.result = .ok) ∧
    (vectorResult (.vadd (.take 0) (.spec (.v 1)) .s32 0) = true ∧
      (∀ v ∈ vectorOperands (.vadd (.take 0) (.spec (.v 1)) .s32 0), VSpec.still v = true) ∧
      (run (.vadd (.take 0) (.spec (.v 1)) .s32 0) atU).issue.result = .ok) := by decide +kernel

theorem wit_LoopDecrementsAndBranches :
    readS atU (.x 1) 0 = .ok 0 atU ∧ (0x5745FFFE : BWord).extractLsb' 24 8 = 0x57 ∧
    ((0x5745FFFE : BWord).extractLsb' 18 6).toNat = 17 ∧ ((0x577C0000 : BWord).extractLsb' 18 6).toNat = 31 ∧
    ((0x57400000 : BWord).extractLsb' 18 6).toNat = 16 ∧ ((0x57800000 : BWord).extractLsb' 18 6).toNat = 32 :=
  ⟨rfl, by decide, by decide, by decide, by decide, by decide⟩

theorem wit_CallsAndReturnsKeepShadowStack :
    (on { core1 with ssp := 31 }).pre.ssp < 32 ∧ 32 ≤ (on { core1 with ssp := 32 }).pre.ssp ∧
    (on { core1 with ssp := 1, shadow := core1.shadow.set 0 7 }).pre.shadow.toList.getD 0 0 = 7 ∧ atU.pre.ssp = 0 := by
  decide +kernel

theorem wit_CoreControlAndTrapLevelInstructions :
    atU.pre.level = .u ∧ atS.pre.level ≠ .u ∧ atH.pre.level ≠ .u ∧ atU.cur.hdr.tandem = false ∧
    atS.pre.seeX (pprivOf (atS.pre.trapRegs atS.pre.level).cause) 3 = .settled 0 ∧
    atS.pre.seeTake (pprivOf (atS.pre.trapRegs atS.pre.level).cause) 3 = .settled 0 := by decide +kernel

theorem wit_TrapLevels :
    Cause.cls .xlateS2 = .toH ∧ Cause.cls .divZero ≠ .toH ∧ core1.level = .u ∧ core1.trapVec.toNat % 2 ^ 24 = 0 ∧
    ({ core1 with trapVec := 1 } : Core).trapVec.toNat % 2 ^ 24 ≠ 0 := by decide +kernel

theorem wit_TrapEntrySavesAndEntersOrEndsTheLaunch :
    (atU.coreAt 0).launch = some 1 ∧ (atU.coreAt 0).level = .u ∧ (atU.coreAt 0).trapVec.toNat % 2 ^ 24 = 0 ∧
    (atH.coreAt 0).level = .h ∧ (atH.coreAt 0).launch = some 1 := by decide +kernel

/-! ### Witnesses: memory -/

/-- A core in REWIND. -/
def rewind1 : Core := { core1 with dmode := 1 }

/-- A state whose reel of core 0 ends with one record of four bytes at an element. -/
def recorded (addr : Word) (kind : Nat) : State :=
  let s := on { rewind1 with reelPtr := 0x300030 }
  { s with mem := s.mem.writeBytes 0x300000 (reelRecord addr 4 kind [1, 2, 3, 4] false) }

def regionS : DiffRegion := ⟨false, .f32, false, 0, 0x10000, 0x100, 0x20000⟩
def regionM : DiffRegion := ⟨true, .f32, false, 0, 0x100000, 0x1000, 0x200000⟩

theorem wit_LoadsFromScratchpad :
    badPolder atU.pre.hdr 0x1FFFF8 8 = none ∧ spadHold atU 0x1FFFF8 8 = none ∧
    diffSpad atU.pre 0x1FFFF8 8 = .plain ∧ diffSpad atU.pre 0x100FC 4 = .region regionS ∧
    oneElement regionS 0x100FC 4 = true ∧ oneElement regionS 0x10004 8 = false ∧ atU.pre.rewinding = false ∧
    diffSpad (on rewind1).pre 0x10000 4 = .region regionS ∧ (on rewind1).pre.rewinding = true ∧
    spadHold (on rewind1) (regionS.cell 0x10000) 4 = none := by decide +kernel

/-- A core whose last scratchpad line has failed. -/
def failed1 : Core := { core1 with badSpad := [(0x7FFF, 1)] }

theorem wit_FailedLines :
    (atU.cur.failedLine 0x1FFFF8 8 = none ∧ atU.cur.failedPart 0x1FFFF8 8 = none ∧
      (on rewind1).cur.failedLine (regionS.cell 0x10000) 4 = none ∧ (on rewind1).cur.failedPart 0x10000 4 = none ∧
      atU.cur.failedLine (regionS.cell 0x100FC) 4 = none ∧ lineFault atU 0x200FFC = none ∧ lineFault atU 0x100000 = none) ∧
    ((on failed1).cur.failedLine 0x1FFFF8 8 = some 0x1FFFC0 ∧ (on failed1).cur.failedPart 0x1FFFF8 8 = some 0x1FFFC0 ∧
      spadHold (on failed1) 0x1FFFF8 8 = none ∧ diffSpad (on failed1).pre 0x1FFFF8 8 = .plain ∧
      failed1.failedPart 0x1FFFC0 64 = none ∧ (failed1.spadWrite 0x1FFFC0 (zeros 64)).badSpad = []) := by decide +kernel

/-- R23, R417: bytes of a failed line raise UNCORRECTABLE at the bundle, with bit 63 of TRAP_INFO set. -/
theorem test_ld_failed_line :
    (run (.ld (.const 0) (some 0x1FFFF8) 1 0 .d) (on failed1)).issue.result =
      .trapped ⟨.uncorrectable, 0, 0x80000000001FFFF8⟩ := by decide +kernel

theorem wit_LoadsFromMemory :
    memTarget atU .read 0x400000 8 = .ok (.hbm ⟨0x400000, false, false, 2⟩) ∧ diffHbm atU.pre false 0x400000 8 = .plain ∧
    memTarget atU .read 0x100FFC 4 = .ok (.hbm ⟨0x100FFC, false, true, 0⟩) ∧
    diffHbm atU.pre true 0x100FFC 4 = .region regionM ∧ oneElement regionM 0x100FFC 4 = true ∧
    diffHbm (on rewind1).pre true 0x100000 4 = .region regionM ∧
    memTarget atU .read 0x10000FF8 8 = .ok (.window 0 ⟨0x10000FF8, false, false, 0⟩) ∧
    memTarget atH .read 0x8000000000 8 = .ok (.reg 0 0) ∧ (0x8000000000 : Nat) % 8 = 0 ∧
    cellPhys (on rewind1) 0 1 .u (regionM.cell 0x100000) = .ok ⟨0x200000, false, false, 0⟩ := by decide +kernel

theorem wit_ScratchpadStores :
    touchesBarrier atU.pre.hdr 0x1FFFF8 8 = false ∧ touchesBarrier atU.pre.hdr 0x10000 4 = false ∧
    reserveReel atU 0 (recordSize 4) = .ok [⟨0x300000, 48, false⟩] ∧ pendDiff (on rewind1) 0 = false ∧
    (let s := recorded (spadInfo 0x10000) recSt
     diffSpad s.pre 0x10000 4 = .region regionS ∧ s.pre.rewinding = true ∧ spadHold s 0x10000 4 = none ∧
     spadHold s (regionS.cell 0x10000) 4 = none ∧ pendDiff s 0 = false ∧
     s.cur.failedLine (regionS.cell 0x10000) 4 = none ∧ s.cur.failedPart 0x10000 4 = none ∧
     popRecord s s.cur (reelXlate s 0) (reelPtr s.cur) (spadInfo 0x10000) 4 recSt = .ok ([1, 2, 3, 4], 0x300000)) := by decide +kernel

theorem wit_MemoryStores :
    memTarget atU .write 0x400000 8 = .ok (.hbm ⟨0x400000, false, false, 2⟩) ∧
    memTarget atU .write 0x100000 4 = .ok (.hbm ⟨0x100000, false, true, 0⟩) ∧
    memTarget atU .write 0x10000FF8 8 = .ok (.window 0 ⟨0x10000FF8, false, false, 0⟩) ∧
    memTarget atH .write 0x800000FFF8 8 = .ok (.reg ((0 : Fin 17).val) 0xFFF8) ∧
    (let s := recorded 0x100000 recSt
     memTarget s .write 0x100000 4 = .ok (.hbm ⟨0x100000, false, true, 0⟩) ∧ s.pre.rewinding = true ∧
     cellPhys s 0 s.pre.part s.pre.level (regionM.cell 0x100000) = .ok ⟨0x200000, false, false, 0⟩ ∧
     diffQuiet s 0 (homeDie s s.pre.tag 0x100000 0) = true ∧
     (let q : Req := ⟨1, 1, some (some 1, 0), .any⟩
      reqWaits s q 0x200000 false .atomic = false ∧ reqWaits s q 0x100000 false .part = false) ∧
     sideFault s 1 0x200000 false = none ∧ sideFault s 1 0x100000 false = none ∧
     popRecord s s.cur (reelXlate s 0) (reelPtr s.cur) 0x100000 4 recSt = .ok ([1, 2, 3, 4], 0x300000)) := by decide +kernel

/-- Two entries wait, of which the first sender is in the launch. -/
def atMq : State := on { core1 with mqTail := 2, mqEntries := [⟨0, Clk.zero⟩, ⟨0, Clk.zero⟩] }

theorem wit_SpillFenceAndMessageQueueEffects :
    readS atMq (.const 2) 0 = .ok 2 atMq ∧
    8 * (2047 : BitVec 11).toNat + 8 ≤ atU.pre.spillLimit ∧ atU.pre.failedWord .spill (8 * 2047) 8 = none ∧
    (core1.failWord .spill 4094).failedWord .spill (8 * 2047) 8 = some 16376 ∧
    (on { core1 with hdr := { hdr1 with spill := 8 } }).pre.spillLimit < 8 * (1 : BitVec 11).toNat + 8 ∧
    readsLanded atU.cur = true ∧ writesDone atU 0 = true ∧ streamsDrained atU.cur = true ∧ atU.cur.fabOut = [] ∧ atU.memq = [] ∧
    atU.cur.fabLate = none ∧ (on { core1 with fabLate := some 0 }).cur.fabLate = some atU.pre.pc ∧
    readsLanded (run (.ld (.const 0) (some 0x400000) 1 1 .d) atU).cur = false ∧
    (atMq.pre.mqTail - atMq.pre.mqHead).toNat = 2 ∧
    ∀ e ∈ atMq.pre.mqEntries.take 2, (launchCore atMq atMq.cur.launch e.sender).isSome :=
  ⟨rfl, by decide +kernel⟩

theorem wit_AtomicsActOrAreSent :
    (let t := atomicOf 0x80000000000040 none
     t.spad = true ∧ t.scope < 9 ∧ t.addr % 8 = 0 ∧ badPolder atU.pre.hdr t.addr 8 = none ∧
     diffSpad atU.pre t.addr 8 = .plain ∧ touchesBarrier atU.pre.hdr t.addr 8 = false ∧ spadHold atU t.addr 8 = none) ∧
    (let t := atomicOf 0x28000000400000 none
     t.spad = false ∧ t.scope = 8 ∧ t.releases = true ∧ fabricQuiet atU.cur = true ∧
     memTarget atU .atomic 0x400000 4 = .ok (.hbm ⟨0x400000, false, false, 2⟩) ∧
     diffHbm atU.pre false 0x400000 4 = .plain ∧ (t.releases && decide (7 ≤ t.scope) && !fabricQuiet atU.cur) = false) := by decide +kernel

theorem wit_AccessAndMatrixIssueChecks :
    (readS atU (.const 1) 0 = .ok 1 atU) ∧
    (1 : Nat) % LdSz.bytes .hz ≠ 0 ∧ (1 : Nat) % StSz.bytes .h ≠ 0 ∧ (atomicOf 1 none).addr % atomWidth true ≠ 0 ∧
    badPolder { hdr1 with polders := 1 } 0x10000 1 = some 0x10000 ∧ badPolder hdr1 0x200000 1 = some 0x200000 ∧
    (min 4 hdr1.moqMax ≤ [1, 2, 3, 4].length) ∧ tcfgRows atU.pre.tiles[0].cfg = 0 ∧
    (tileLoading atU 0 = false ∧ tileLoading atU 7 = false) ∧ hdr1.accs.getLsbD 7 = true ∧
    ({ hdr1 with accs := 0x7F } : KHeader).accs.getLsbD 7 = false ∧ hdr1.polders.getLsbD 31 = true := ⟨rfl, by decide +kernel⟩

/-! ### Witnesses: synchronisation, registers, system -/

/-- Tag 0 busy, tag 1 done well, tag 63 failed. -/
def atTags : State :=
  on { core1 with tags := ((core1.tags.set 0 (.busy false)).set 1 (.done 0)).set 63 (.done 5), copyq := [0, 1, 63] }

theorem wit_TagInstructionsRetireTags :
    readS atTags (.const 1) 0 = .ok 1 atTags ∧ readS atTags (.const 2) 0 = .ok 2 atTags ∧
    readS atTags (.const 0) 0 = .ok 0 atTags ∧
    isBusy atTags.pre.tags[0] = true ∧ doneStatus atTags.pre.tags[1] = some 0 ∧ doneStatus atTags.pre.tags[63] = some 5 ∧
    doneStatus atTags.pre.tags[2] = none ∧ (63 : Nat) < atTags.pre.hdr.tags := ⟨rfl, rfl, rfl, by decide +kernel⟩

theorem wit_BarrierInstructionsSendToOwner :
    barrierOff atU.pre.hdr 31 = some (65536 + 0xFC00 + 64 * 15) ∧ barrierOff atU.pre.hdr 32 = none ∧
    launchCore atU atU.pre.launch 3 = some 3 ∧ launchCore atU atU.pre.launch 4 = none ∧
    regionAt atU.pre.hdr false (65536 + 0xFC00 + 64 * 15) 64 = none ∧ (0x3001F : Nat) / 2 ^ 16 % 2 ^ 8 = 3 ∧
    (0x3001F : Nat) < 2 ^ 24 ∧ (on { core1 with answer := some 1 }).pre.answer = some 1 ∧ atU.pre.answer = none := by
  decide +kernel

theorem wit_CsrWritesSetWritableBits :
    readS atU (.const 4) 0 = .ok 4 atU ∧ readS atU (.const 5) 0 = .ok 5 atU ∧ (4 : Word).toNat % 8 < 5 ∧
    5 ≤ (5 : Word).toNat % 8 ∧ atU.pre.mqTail = atU.pre.mqHead ∧ atMq.pre.mqTail ≠ atMq.pre.mqHead ∧
    atU.pre.trapVec.toNat % 2 ^ 24 = 0 ∧ (on { core1 with trapVec := 0xFFFFFF }).pre.trapVec.toNat % 2 ^ 24 ≠ 0 ∧
    badPolder hdr1 0x40 512 = none ∧ regionAt hdr1 false 0x40 512 = none ∧ tileBusy atU 0 7 = false ∧
    tcfgOk 0x3_8080 = true ∧ tcfgOk 0x3_8081 = false ∧ tcfgOk 0x8_8080 = false ∧ (0x40 : Nat) % 64 ≤ 32 ∧ 32 < (33 : Nat) % 64 := ⟨rfl, rfl, by decide +kernel⟩

/-- A pattern block of `n` vectors of 256 bytes from `base`. -/
def blockAt (base n : Nat) : List Byte :=
  natToBytes 8 base ++ natToBytes 4 n ++ natToBytes 4 256 ++ natToBytes 4 1 ++ natToBytes 4 0 ++ natToBytes 4 1 ++
    natToBytes 4 0 ++ natToBytes 4 1 ++ natToBytes 4 0 ++ List.replicate 24 0

/-- A write stream whose buffer holds a vector. -/
def full1 : Stream := ⟨true, true, false, blockAt 0x8000 4, 0, 1, 0, 0, [⟨0, 0, 0, 0⟩]⟩

def kernel7 : Kernel := ⟨7, hdr1, [], [0], []⟩

/-- Spill memory with a block at 0 and a launch record at 64, and a registered kernel. -/
def atBlock : State :=
  let k : Core := { core1 with spill := (core1.spill.writeBytes 0 (blockAt 0x8000 4)).writeBytes 64 ([7, 0, 10, 1] ++ List.replicate 60 0) }
  let s := on k
  { s with parts := s.parts.set 1 { part1 with kernels := [kernel7] } }

theorem wit_StreamBindingAndLnchEffects :
    64 * (255 : BitVec 8).toNat + 64 ≤ atBlock.pre.spillLimit ∧ atBlock.pre.failedWord .spill (64 * 255) 64 = none ∧
    atBlock.pre.failedWord .spill 64 64 = none ∧ blockCause (atBlock.pre.spill.readBytes 0 64) 0 = none ∧
    blockCause (atU.pre.spill.readBytes 0 64) 0 = some .streamUnbound ∧
    (full1.bound = true ∧ full1.wr = true ∧ full1.buf ≠ []) ∧ atU.pre.streams[0].bound = false ∧
    recordReason atBlock 1 10 (atBlock.pre.spill.readBytes 64 64) = none ∧
    recordReason atBlock 1 10 (atBlock.pre.spill.readBytes 0 64) = some 3 ∧ (64 : Nat) % 64 = 0 := by decide +kernel

theorem wit_DifferentiationEffects :
    pendDiff atU 0 = false ∧ pendDiffCmd atU 0 = false ∧ readsLanded atU.cur = true ∧ writesDone atU 0 = true ∧
    streamsDrained atU.cur = true ∧ (∀ i : Fin 8, (atU.pre.streams[i].bound && atU.pre.streams[i].diff) = false) ∧
    adjTarget atU true false 0x10000 = .ok (.spad regionS 0x10000) ∧
    adjTarget atU true true 0x100FC = .ok (.spad regionS 0x100FC) ∧ spadHold atU (regionS.cell 0x100FC) 4 = none ∧
    adjTarget atU false false 0x100000 = .ok (.hbm regionM ⟨0x200000, false, false, 0⟩) ∧
    diffQuiet atU 0 (homeDie atU atU.pre.part 0x200000 0) = true ∧
    adjTarget atU false true 0x100FFC = .ok (.hbm regionM ⟨0x200FFC, false, false, 0⟩) ∧
    diffQuiet atU 0 (homeDie atU atU.pre.part 0x200FFC 0) = true ∧
    atU.cur.failedLine (regionS.cell 0x10000) 4 = none ∧ atU.cur.failedLine (regionS.cell 0x100FC) 4 = none ∧
    (let q : Req := ⟨atU.pre.tag, 1, some (some 1, 0), .any⟩
     reqWaits atU q 0x200000 false .read = false ∧ reqWaits atU q 0x200FFC false .atomic = false ∧
     sideFault atU q.tag 0x200000 false = none ∧ sideFault atU q.tag 0x200FFC false = none) := by
  decide +kernel

theorem wit_HypervisorInstructionsAreAtHOnly :
    readS atH (.const 1) 0 = .ok 1 atH ∧ readSO atH (.lit 0x400000) 1 = .ok 0x400000 atH ∧
    atU.pre.level ≠ .h ∧ atS.pre.level ≠ .h ∧ atH.pre.level = .h ∧ (partAt atH 1).exists_ = true ∧ (partAt atH 2).exists_ = false ∧
    (on { core1 with level := .h, answer := some 1 }).pre.answer = some 1 ∧ atH.pre.answer = none ∧
    atH.degQuads.getLsbD 63 = false ∧ busyQuad atH 63 = false ∧ inShadow atH 63 = false ∧ busyQuad atH 0 = true ∧
    atH.pre.wait = none ∧ (on { core1 with level := .h, wait := some (.wfi (some 1)) }).pre.wait = some (.wfi (some 1)) := ⟨rfl, rfl, by decide +kernel⟩

/-! ### Witnesses: the vector slots -/

/-- The core with a v register. -/
def withV (k : Core) (n : Fin 16) (v : Vec) : Core := { k with v := k.v.set n ⟨v, []⟩ }

/-- v1 holds one value in every element of a type, and FMTE makes the code 8 of I4 reserved and lets it trap. -/
def atV (t : Ty) (v : Nat) : State := on (withV { core1 with fmte := 0x70 } 1 (bcastVec t v))

theorem elem_zero (w n : Nat) : elem w 0 n = 0 := by simp [elem, bitsOf]

theorem wit_VectorIntegerResults :
    readV atU (.v 1) 0 .s32 = .ok 0 atU ∧ readVO atU (.lit 5) .s32 = .ok (bcastVec .s32 5) atU ∧
    readV (atV .i4 8) (.v 1) 0 .i4 = .ok (bcastVec .i4 8) (atV .i4 8) ∧ readV atU (.v 1) 0 .a32 = .ok 0 atU ∧
    (∀ n < 64, elemInt .s32 atU.pre.fmte 0 n = .ok 0) ∧
    (∀ n < 64, elemInt .s32 atU.pre.fmte (bcastVec .s32 0x80000000) n = .ok (-(2 ^ 31))) ∧
    activeAt (atV .i4 8).pre.curMask 4 511 = true ∧
    elemInt .i4 (atV .i4 8).pre.fmte (bcastVec .i4 8) 511 = .error .intCode :=
  ⟨rfl, rfl, rfl, rfl, by decide +kernel⟩

theorem wit_VectorFloatResults :
    Ty.isFloat .f32 = true ∧ Ty.isFloat .e2m1 = true ∧ readV atU (.v 1) 0 .f32 = .ok 0 atU ∧
    readVO atU (.lit 0x7FC00000) .f32 = .ok (bcastVec .f32 0x7FC00000) atU ∧ readV atU (.take 0) 2 .f32 = .ok 0 atU :=
  ⟨rfl, rfl, rfl, rfl, rfl⟩

theorem wit_VectorBitwiseShiftAndCompareResults :
    readV atU (.v 1) 0 .s8 = .ok 0 atU ∧ readVO atU (.lit 0xFF) .s8 = .ok (bcastVec .s8 0xFF) atU ∧
    (∀ n, elemVal .f32 atU.pre.fmte 0 n = .ok (fp32.decode 0)) ∧
    (∀ n < 256, elemInt .s8 atU.pre.fmte (bcastVec .s8 0xFF) n = .ok (-1)) := by
  refine ⟨rfl, rfl, fun n => ?_, by decide +kernel⟩
  have h : ∀ w n, elem w 0#2112 n = 0 := elem_zero
  simp [elemVal, h, Ty.isFloat, Ty.isScaled, Ty.fmt]

theorem wit_VectorConversionResults :
    readVO atU (.lit 0x7F) .z8 = .ok (bcastVec .z8 0x7F) atU ∧
    (∀ n < min (elemCount (Ty.width .f32)) (elemCount (Ty.width .bf16)),
      elemVal .f32 atU.pre.fmte 0 n = .ok (fp32.decode 0) ∧
      (Ty.fmt .bf16).convert (vmode atU .rne n) .trap (fp32.decode 0) = .code 0) ∧
    Ty.isScaled .bf16 = false ∧ Ty.isScaled .e4m3 = true ∧
    (Ty.fmt .e4m3).convert (vmode atU .rne 0) .trap ((fp32.decode 0).scale (-(mxExponent (Ty.emax .e4m3) []))) = .code 0 ∧
    (Ty.fmt .f16).convert (vmode atU .rne 0) .trap (fp32.decode 0x7F000000) = .overflow ∧
    (∀ n < 64, elemVal .f32 atU.pre.fmte (bcastVec .f32 0x7F000000) n = .ok (fp32.decode 0x7F000000)) ∧
    ¬ ((atU.pre.fmte.toNat / 2 ^ 5 % 4) = 3) ∧ (atV .i4 8).pre.fmte.toNat / 2 ^ 5 % 4 = 3 ∧
    elem 4 (bcastVec .i4 8) 511 = 8 ∧
    (Ty.fmt .bf16).convert (pMode atU 0 0) .sat (.fin false 0 1 0) = .code 0 :=
  ⟨rfl, by decide +kernel⟩

theorem wit_VectorMovementResults :
    readV atU (.v 1) 0 .e2m1 = .ok 0 atU ∧ readVO atU (.lit 7) .e2m1 = .ok (bcastVec .e2m1 7) atU ∧
    readV atU (.take 15) 2 .e2m1 = .ok 0 atU ∧ readV atU (.v 1) 0 .f32 = .ok 0 atU ∧
    readVO atU (.lit 7) .f32 = .ok (bcastVec .f32 7) atU := ⟨rfl, rfl, rfl, rfl, rfl⟩

theorem wit_VectorReductionResults :
    (∀ n, elemVal .f16 atU.pre.fmte 0 n = .ok (fp16.decode 0)) ∧ Ty.isFloat .f16 = true ∧ Ty.isFloat .s16 = false ∧
    (∀ n < elemCount (Ty.width .s16), elemInt .s16 atU.pre.fmte (bcastVec .s16 0x8000) n = .ok (-(2 ^ 15))) := by
  refine ⟨fun n => ?_, by decide, by decide, by decide +kernel⟩
  have h : ∀ w n, elem w 0#2112 n = 0 := elem_zero
  simp [elemVal, h, Ty.isFloat, Ty.isScaled, Ty.fmt]

/-- A core whose mask stack is full. -/
def atMask (n : Nat) : State := on { core1 with mask := List.replicate n (BitVec.allOnes 512) }

/-- Stream 0 of core 0. -/
def atStream (st : Stream) : State := on { core1 with streams := core1.streams.set 0 st }

/-- A write stream at its vector `pos`, with `n` vectors to drain. -/
def writing (pos n : Nat) : Stream := ⟨true, true, false, blockAt 0x8000 4, 0, pos, 0, 0, List.replicate n ⟨0, 0, 0, 0⟩⟩

theorem wit_MaskStackAndVswEffects :
    readV (atMask 16) (.v 1) 0 .f32 = .ok 0 (atMask 16) ∧ readV (atMask 0) (.v 1) 0 .f32 = .ok 0 (atMask 0) ∧
    (atMask 16).cur.mask.length = 16 ∧ (atMask 15).cur.mask.length < 16 ∧ (atMask 0).cur.mask = [] ∧ (atMask 1).cur.mask ≠ [] ∧
    (let s := atStream (writing 3 15)
     let st := s.cur.streams[(0 : Fin 8)]
     st.bound = true ∧ st.wr = true ∧ st.diff = false ∧ st.pos < blkTotal st.block ∧ vectorCause s.pre st st.pos = none ∧
     ((st.ranges st.pos).all fun r => !touchesBarrier s.pre.hdr r.1.toNat r.2) = true ∧ st.buf.length < 16 ∧
     vectorHold s st st.pos = none) ∧
    atU.cur.streams[(0 : Fin 8)].bound = false ∧
    (let st := (atStream (writing 4 0)).cur.streams[(0 : Fin 8)]
     blkTotal st.block ≤ st.pos) ∧
    16 ≤ ((atStream (writing 3 16)).cur.streams[(0 : Fin 8)]).buf.length := ⟨rfl, rfl, by decide +kernel⟩

/-! ### Witnesses: the matrix engine -/

/-- Tiles 0 and 1 configured: 64 rows of 128 bytes of a type. -/
def withTiles (k : Core) (t : Nat) : Core :=
  let c : BitVec 64 := BitVec.ofNat 64 (64 + 2 ^ 8 * 128 + 2 ^ 16 * t)
  { k with tiles := (k.tiles.set 0 { Tile.reset with cfg := c }).set 1 { Tile.reset with cfg := c } }

theorem wit_MatrixOperationsEnterTheQueue :
    let s := on (withTiles core1 0)
    s.cur.mops.length < min 4 s.pre.hdr.moqMax ∧ tileLoading s 0 = false ∧ tileLoading s 1 = false ∧
    tcfgRows s.pre.tiles[0].cfg ≠ 0 ∧ tcfgRows s.pre.tiles[1].cfg ≠ 0 ∧ tcfgRows s.pre.tiles[1].cfg ≤ 64 ∧
    ((31 : BitVec 8).toNat + 1) * Ty.width s.pre.tiles[0].ty ≤ 8 * tcfgRbytes s.pre.tiles[0].cfg ∧
    ((31 : BitVec 8).toNat + 1) * Ty.width s.pre.tiles[1].ty ≤ 8 * tcfgRbytes s.pre.tiles[1].cfg ∧
    pairOk s.pre.tiles[0].ty s.pre.tiles[1].ty = true ∧ s.pre.hdr.accs.getLsbD 7 = true ∧
    s.pre.hdr.polders.getLsbD 31 = true ∧ regionAt s.pre.hdr false (65536 * 31 + 32768) 32768 = none ∧
    foreignPolder s.cur (65536 * 31 + 32768) 32768 = none ∧ touchesBarrier s.pre.hdr (65536 * 31 + 32768) 32768 = false ∧
    s.cur.mops = [] ∧ s.pre.level = s.pre.base ∧
    (on { core1 with mops := [⟨.mzero 0, 0, 0, 0, 0⟩] }).cur.mops ≠ [] ∧ atS.pre.level ≠ atS.pre.base := by decide +kernel

/-- An operation in flight after `n` engine cycles. -/
def inFlight (i : Instr) (n : Nat) (k : Core) : Core :=
  { k with mops := [⟨i, 0, 0x70, 0, 0⟩], mprog := { MatProg.reset with started := true, elapsed := n } }

theorem wit_MatrixCompletionEffects :
    let k := withTiles core1 0
    ∀ i ∈ [Instr.mzero 0, .macc 0 7 true, .mscl 0 127, .mload 0 true 31, .msave 0 false 0, .mop 0 0 1 31 false, .mr1z 0 0 1 0 true],
      let s := on (inFlight i 1000 k)
      let k := s.coreAt s.inp.core
      k.level = k.base ∧ k.mops = [⟨i, 0, 0x70, 0, 0⟩] ∧ k.mprog.started = true ∧
        opCycles k ⟨i, 0, 0x70, 0, 0⟩ ≤ k.mprog.elapsed ∧ k.opFault ⟨i, 0, 0x70, 0, 0⟩ = none := by decide +kernel

/-- An accumulator and a polder with a failed word and a failed line. -/
theorem wit_FailedOperand :
    (core1.failWord (.acc 7) 0).opFault ⟨.macc 0 7 true, 0, 0x70, 0, 0⟩ ≠ none ∧
    core1.failedLine (65536 * 31 + 32768) 32768 = none ∧
    ({ core1 with badSpad := [(1024 * 31 + 512, 1)] } : Core).failedLine (65536 * 31 + 32768) 32768 ≠ none := by decide +kernel

/-- A tile of I4 whose first byte holds two reserved codes. -/
def badTile : Tile := { Tile.reset with cfg := BitVec.ofNat 64 (64 + 2 ^ 8 * 128 + 2 ^ 16 * 13), bytes := SMap.set 0 [] 0 0x88 }

theorem wit_OuterProductsAndMatrixEngineSteps :
    (0 < tcfgRows (withTiles core1 0).tiles[0].cfg ∧ 63 < tcfgRows (withTiles core1 0).tiles[1].cfg) ∧
    (let k := (on (inFlight (.mdrain 0 0 .sat true .rne 0 0 .f32) 8 core1)).coreAt 0
     k.level = k.base ∧ pushFault k = none ∧ ((duePush k).any fun p =>
       okOf p.vec && decide ((queueOf k p.q).length < queueMax k p.q) && p.clr && p.rows == (0, 1)) = true) ∧
    (dueIntCode (on (inFlight (.mop 0 0 1 0 false) (12 + rateCycles 4 1)
      { core1 with tiles := (core1.tiles.set 0 badTile).set 1 badTile })).pre).isSome = true ∧
    ((on { core1 with fmtp := [(5, 0)] }).coreAt 0).fmtp = [(5, 0)] := by
  decide +kernel

/-! ### Witnesses: the commands -/

/-- Spill memory with the blocks of the commands: a pair at 0, a stripe at 128, a run at 192, a collective at 256. -/
def blocks : Mem :=
  let m := core1.spill.writeBytes 0 (blockAt 0 1 ++ blockAt 0 1)
  let m := m.writeBytes 128 (natToBytes 4 0 ++ natToBytes 4 1 ++ natToBytes 4 64 ++ [6] ++ List.replicate 51 0)
  let m := m.writeBytes 192 ([0, 6, 0, 0] ++ natToBytes 4 0 ++ natToBytes 4 1 ++ List.replicate 52 0)
  m.writeBytes 256 ([1, 1, 0, 0] ++ natToBytes 4 0 ++ natToBytes 8 0x400000 ++ natToBytes 8 0x410000 ++ natToBytes 4 1 ++
    List.replicate 36 0)

/-- The core of the commands: a tile of one row of four FP32, a vector in queue 0, and credits. -/
def core2 : Core :=
  { core1 with spill := blocks, q0 := [0], credits := [1, 0], gsize := 1,
               tiles := core1.tiles.set 0 { Tile.reset with cfg := BitVec.ofNat 64 (1 + 2 ^ 8 * 16) } }

def atC : State := on core2

theorem wit_ready :
    TagReady atC 0 ∧ TagReady atC 63 ∧ tagFree atTags.pre.tags[0] = false ∧
    (min 16 atC.pre.hdr.cqMax ≤ (on { core1 with copyq := List.replicate 16 1 }).cur.copyq.length) := by
  unfold TagReady; decide +kernel

theorem wit_CopyAndFillCommandsStart :
    engAddrOk .u 0x400000 = true ∧ engAddrOk .u (spadInfo 0x1FFFC0) = true ∧ cpyLen 64 ≠ 0 ∧
    bitsOf (64 : Word).toNat 58 6 = 0 ∧ footprintBad atC.pre [(.mem 0x400000, 64), (.spad 0x1FFFC0, 64)] = none ∧
    footDiff atC.pre [(.mem 0x400000, 64)] = .plain ∧ footDiff atC.pre [(.spad 0x10000, 64)] = .region regionS ∧
    footDiff atC.pre [(.spad 0x10000, 64), (.spad 0x8000, 64)] = .mixed (.spad 0x10000) ∧
    firstDiff atC.pre [(.mem 0x400000, 64)] = none ∧ pairOkForm (atC.pre.spill.readBytes 0 128) = true ∧
    (0 : Nat) + 128 ≤ atC.pre.spillLimit ∧ stripeOkForm (atC.pre.spill.readBytes 128 64) = true ∧
    (engAddrOf 0x400000).num % 2 ^ 21 = 0 ∧ (engAddrOf 0x400000).isSpad = false ∧ (engAddrOf (spadInfo 0)).isSpad = true ∧
    (on { core2 with dmode := 1 }).pre.rewinding = true ∧
    reserveReel atC 0 (recordsSize [(.spad 0x10000, 64)]) = .ok [⟨0x300000, 96, false⟩] ∧
    atC.pre.failedWord .spill 0 128 = none ∧ (core2.failWord .spill 0).failedWord .spill 0 128 = some 0 ∧
    atC.pre.failedWord .spill 128 64 = none := by decide +kernel

/-- Core 0 in REWIND with one record of a range at the end of its reel. -/
def recorded2 (addr : Word) (kind len : Nat) : State :=
  let n := recordSize len
  let s := on { core2 with dmode := 1, reelPtr := BitVec.ofNat 64 (0x300000 + n) }
  { s with mem := s.mem.writeBytes 0x300000 (reelRecord addr len kind (List.replicate len 1) false) }

def tookAll (s : State) (m : EngCmd) (kind : Nat) (r : DiffRegion) (rs : List EngRange) (es : List Nat) : Bool :=
  match popAll s s.cur (reelXlate s 0) kind (reelPtr s.cur) rs.reverse, placesOf s m r es with
  | .ok (olds, _), .ok (xs, v) => okOf (writeBack (takeAll v m r xs).2 m olds)
  | _, _ => false

/-- The checks of a plain tile transfer, those over its one range as a Bool. -/
def plainTile (s : State) (load : Bool) (n : Fin 8) (y : Word) : Bool :=
  let cfg := (s.pre.tiles[n]).cfg
  engAddrOk s.pre.level y && (engAddrOf y).num % 64 == 0 && (footprintBad s.pre (tileRanges cfg y 0)).isNone &&
    (load || ((engAddrOf y).isSpad && touchesBarrier s.pre.hdr (engAddrOf y).num (tileFoot cfg 0)) == false) &&
    !(s.pre.tiles[n]).released && !tileLoading s n && (!load || s.cur.mops.isEmpty)

theorem tileOk_of {s : State} {load : Bool} {n : Fin 8} {y : Word} (hm : s.cur.mops = []) (h : plainTile s load n y = true) :
    TileOk s load n y 0 := by
  simp only [plainTile, Bool.and_eq_true, beq_iff_eq, and_assoc] at h
  obtain ⟨h1, h2, h3, h4, h5, h6, _⟩ := h
  refine ⟨h1, by simp [tcSkew], by simp [tcT], by decide, by simpa [tcSkew] using h2, by simp [tcScl],
    by simpa using h3, ?_, by simpa using h5, by simp [tcT], by simpa using h6, by simp [hm]⟩
  rintro rfl r hr o ho
  simp only [tileRanges, tcScl, List.mem_cons] at hr
  obtain rfl | hr := hr
  · revert h4; generalize engAddrOf y = e at *; cases e <;> simp_all [EngAddr.isSpad, EngAddr.num]
  · simp at hr

theorem wit_TileAndQueueTransfersStart :
    (TileOk atC true 0 (spadInfo 0x8000) 0 ∧ TileOk atC false 0 0x400000 0 ∧ TileOk atC false 0 (spadInfo 0x10000) 0) ∧
    (let cfg := (atC.pre.tiles[(0 : Fin 8)]).cfg
     tileDiff atC cfg (spadInfo 0x8000) 0 = .ok none ∧ tileDiff atC cfg (spadInfo 0x10000) 0 = .ok (some regionS) ∧
     okOf (reserveReel atC 0 (recordsSize (tileRanges cfg (spadInfo 0x10000) 0))) = true ∧
     (let s := recorded2 (spadInfo 0x10000) recCtst 16
      let m := { newCmd s (.ctst 1 0 (.const 0) (.lit 0)) (some 1) 0 (spadInfo 0x10000) 0 with
                 due := tileDue s cfg (spadInfo 0x10000) 0, cfg := cfg }
      TileOk s false 0 (spadInfo 0x10000) 0 ∧ pendDiff s 0 = false ∧ pendDiffCmd s 0 = false ∧
      tookAll s m recCtst regionS (tileRanges cfg (spadInfo 0x10000) 0)
        ((tileElems (s.cur.tiles[(0 : Fin 8)]) (spadInfo 0x10000) 0).map (·.2)) = true)) ∧
    (qcN 1 = 1 ∧ qcN 2 = 2 ∧ (queueOf atC.cur 0).length < 2 ∧ qcN 1 ≤ (queueOf atC.cur 0).length ∧
     footDiff atC.pre (qstRanges (spadInfo 0x8000) 1) = .plain ∧
     footDiff atC.pre (qstRanges (spadInfo 0x10000) 1) = .region regionS ∧
     footDiff atC.pre (qstRanges (spadInfo 0x10000) 0x10001) ≠ .plain ∧
     footprintBad atC.pre (qstRanges (spadInfo 0x10000) 1) = none ∧
     touchesBarrier atC.pre.hdr 0x10000 256 = false ∧
     okOf (reserveReel atC 0 (recordsSize (qstRanges (spadInfo 0x10000) 1))) = true ∧
     (let s := recorded2 (spadInfo 0x10000) recCqst 256
      let m := newCmd s (.cqst 1 0 (.const 0) (.lit 1)) (some 1) 0 (spadInfo 0x10000) 1
      tookAll s m recCqst regionS (qstRanges (spadInfo 0x10000) 1) (elemsIn regionS 0x10000 256) = true)) := by
  refine ⟨⟨?_, ?_, ?_⟩, ?_, ?_⟩
  · exact tileOk_of rfl (by decide +kernel)
  · exact tileOk_of rfl (by decide +kernel)
  · exact tileOk_of rfl (by decide +kernel)
  · refine ⟨?_, ?_, ?_, ?tile, ?_⟩
    case tile => exact tileOk_of rfl (by decide +kernel)
    all_goals decide +kernel
  · decide +kernel

theorem wit_MessageAtomicAndNearBankCommandsStart :
    (launchCore atC atC.pre.launch 0 = some 0 ∧ engAddrOf (spadInfo 0x8000) = .spad 0x8000 ∧
     footprintBad atC.pre [(.spad 0x8000, 64)] = none ∧ firstDiff atC.pre [(.spad 0x8000, 64)] = none ∧
     spadHold atC 0x8000 64 = none ∧ atC.cur.failedLine 0x8000 64 = none ∧ atC.cur.credits.getD 0 0 = 1 ∧ atC.cur.credits.getD 1 0 = 0 ∧
     creditComing atC 0 1 = false) ∧
    (let z : Word := 1 + 2 ^ 16
     msOk z = true ∧ (engAddrOf 0x400000).num % atomWidth (msW32 z) = 0 ∧
     footprintBad atC.pre [(engAddrOf (spadInfo 0x8000), atomWidth (msW32 z) * msN z)] = none ∧
     firstDiff atC.pre [(engAddrOf 0x400000, atomWidth (msW32 z) * msN z)] = none) ∧
    (engAddrOk .u 0x400000 = true ∧ footprintBad atC.pre [(engAddrOf 0x400000, 8)] = none) ∧
    footprintBad atC.pre [(engAddrOf 0x400000, 128)] = none ∧
    (runDescOk (atC.pre.spill.readBytes 192 64) = true ∧ rdStatus (atC.pre.spill.readBytes 192 64) % 64 = 0 ∧
     192 + 64 ≤ atC.pre.spillLimit ∧ atC.pre.failedWord .spill 192 64 = none) ∧
    (memTarget atC .read 0x400000 8 = .ok (.hbm ⟨0x400000, false, false, 2⟩)) ∧
    okOf (memTarget atC .read 0xFFFFFFFFFFFFFFF8 8) = false ∧
    memTarget atC .read 0x10000FF8 8 = .ok (.window 0 ⟨0x10000FF8, false, false, 0⟩) := by decide +kernel

theorem wit_PacketCommandsStart :
    (let z : Word := 0x1000
     bitsOf z.toNat 0 11 < atC.pre.gsize.toNat ∧ fabLines z = 1 ∧ bitsOf z.toNat 32 32 = 0 ∧ (0x400000 : Word).toNat < 2 ^ 48 ∧
     footprintBad atC.pre [(engAddrOf (spadInfo 0x8000), 64 * fabLines z)] = none ∧
     firstDiff atC.pre [(engAddrOf (spadInfo 0x8000), 64 * fabLines z)] = none) ∧
    atC.pre.gsize.toNat ≤ bitsOf (0x1001 : Word).toNat 0 11 ∧ famoOk 0x1000 = true ∧
    bitsOf (0 : Word).toNat 11 53 = 0 ∧ (15 : Word).toNat < 16 := by decide +kernel

/-- Entry 0 is set; and then ready. -/
def atSet : State := run (.ttset (.const 0) (.x 1)) (on (withX core2 1 256))
def atReady : State := run (.trdy (.const 0)) atSet

theorem wit_CollectiveInstructionsActOnTheirEntry :
    (let s := on (withX core2 1 256)
     let d := s.pre.spill.readBytes 256 64
     s.pre.part < 17 ∧ s.pre.failedWord .spill 256 64 = none ∧ part1.seqs ≠ 0 ∧ s.tileEntry 1 0 = none ∧ descOk d = true ∧
     fieldLE d 4 4 = (SMap.get 0xFFFFFFFF (s.partRt 1).lastSeq 0 + 1) % 2 ^ 32 ∧
     (∀ r ∈ sendsTo (fieldLE d 0 1) (fieldLE d 1 1) s.pre.gsize.toNat s.pre.rank.toNat,
       seqReach s 1 (memberOf s s.pre.launch 1 r).1 = true) ∧ (s.partRt 1).early = []) ∧
    (atSet.tileEntry 1 0).map (fun e => (e.fired, e.running)) = some (false, false) ∧
    (atReady.tileEntry 1 0).map (fun e => (e.fired, e.running, e.state)) = some (true, true, 1) ∧
    (let s := match atReady.tileEntry 1 0 with
      | some e => atReady.setEntry 1 { e with state := 2 }
      | none => atReady
     (s.tileEntry 1 0).map (fun e => (e.running, e.state)) = some (false, 2)) := by decide +kernel

/-! ### Witnesses: cores and memory between bundles -/

/-- A machine that fetches LI x1, 3 next, at H, with nothing but that bundle on the agenda. -/
def atFetch (w : Nat) : State := { State.reset.withFetchWord 32 w with agenda := [issueOf 0] }

theorem wit_StepRunsDecodedInstruction :
    let s := atFetch 0x30002003
    let r : State := ({ s with agenda := [], inp := (issueOf 0).inp } : State).holdSave 0
    let b := bundleAt r 0
    let w : SlotWord := { slot := .s, word := 0x30002003, lit := none }
    let i : Instr := .li 1 (.imm13 3)
    let o := r.openBundle 0 b [(w.slot, i)]
    s.boot.powered = true ∧ IssuesNow r 0 ∧ failedCode r b = none ∧ xorBytes b.words = hdChk b.head ∧ hdReserved b.head = false ∧ hdTnd b.head ≠ 2 ∧
    hdBrk b.head = false ∧ b.slots = [w] ∧ decodeSlot (Slot.cls w.slot) w.word w.lit = .ok i ∧ (encode i).isSome = true ∧
    isAccess i = false ∧ engineTrap (r.coreAt 0) (bundlePops o) = none ∧
    (let u := after (exec i { o with issue := { o.issue with slot := w.slot } })
     u.issue.result = .ok ∧ u.issue.core = 0 ∧ u.issue.taken = false) ∧
    nextCore { s with agenda := [] } = some 0 := by
  unfold IssuesNow; decide +kernel

/-- Core 0 of a quad at a meeting, and its siblings. -/
def atMeeting : State :=
  let k : Core := { core1 with rejoin := true, wait := some .rejoin }
  { atU with cores := (((atU.cores.set 0 k).set 1 k).set 2 k).set 3 { k with pc := 8 } }

theorem wit_CoreCyclesAndHolds :
    (on { core1 with run := .ending }).coreAt 0 = { core1 with run := .ending } ∧
    (State.reset.coreAt 255).run = .idle ∧
    (atU.cycle % gateOf atU 0 = 0 ∧
      (let s : State := { atU with cycle := 1, power := { atU.power with exceeded := true } }
       s.cycle % gateOf s 0 ≠ 0)) ∧
    (core1.entryWait = 0 ∧ core1.skip = 0 ∧ core1.lateLoad = false ∧ accessCause core1 = none ∧ isYield core1.wait = false) ∧
    (({ core1 with loads := [⟨0, .u, 0, 1, 0, 0, false, none, Clk.zero, none⟩] } : Core).lateLoad = true) ∧
    accessCause { core1 with late := [(.uncorrectable, 8)] } = some ⟨.uncorrectable, 0, 8⟩ ∧
    engineTrap core1 (fun _ => 0) = none ∧
    (let s := atFetch 0xFF000000
     IssuesNow s 0 ∧ (match fetchBundle s (s.coreAt 0) (bundleAt s 0) with
       | .error t => some t.cause
       | .ok _ => none) = some .illegalOpcode) ∧
    (core1.trapTo ⟨.xlateS2, 0, 0⟩ = .handler .h .xlateS2 0) ∧
    (∀ d ∈ coresOfQuad 0, (atMeeting.coreAt d).rejoin = true ∧ (atMeeting.coreAt d).wait = some .rejoin) ∧
    (atMeeting.coreAt 3).pc ≠ (atMeeting.coreAt 0).pc ∧
    Input.reset.core = 0 ∧
    (let s := on { core1 with stop := some .noSave, wait := some (.tags 1) }
     stopPoint s 0 = some 0 ∧ core1.joined = false) ∧
    (let s := on { core1 with stop := some .save, wait := some (.yield 5), lastSp := some 64 }
     stopPoint s 0 = some 64 ∧ ((s.coreAt 0).launch.bind s.launchById).map (·.fault) = some none) ∧
    (let t := atFetch 0x46000013
     let s : State := { t with cores := t.cores.set 0 { t.coreAt 0 with wait := some .fence } }
     fenceAt s 0 = some (4, 3) ∧ fenceMet s 0 3 4 = true) ∧
    (let s := on { core1 with wait := some (.scrub 63) }
     (match scrubPumps s 63 with
      | .ok _ => true
      | .error _ => false) = true) ∧
    (({ core1 with walks := [⟨page 0 1 false 0, 0, true⟩] } : Core).walks ≠ []) ∧
    tlbinvQuiet (on { core1 with wait := some (.tlbinv 0 1 0) }) 0 = true := by
  refine ⟨rfl, ?_⟩
  unfold IssuesNow
  decide +kernel

/-- A load, a store, an atomic and a compare and swap on their way. -/
def loading : State := run (.ld (.const 0) (some 0x400000) 1 1 .d) atU
def storing : State := run (.st (.const 0) (some 0x400000) (.const 3) 1 false false .d) atU
def adding : State := run (.amo (.const 0) (some 0x400000) (.const 3) 1 false false .add) atU
def swapping : State := run (.amocas (.const 0) (some 0x400000) (.const 3) 1 true (.const 0)) atU

/-- The first access of a state is ready, finds its tokens, and its line is sound. -/
def readyOne (s : State) (kind : MemKind) : Bool :=
  match memOpOf s 0 with
  | some o => o.ready s && (tokenShort s o none).isNone && o.win == none && (sideFault s o.tag o.dpa o.side).isNone && o.kind == kind && o.tape.isNone
  | none => false

theorem wit_HomesPerformServeAndAnswer :
    readyOne loading (.load 8 false) = true ∧ readyOne storing (.store [3, 0, 0, 0, 0, 0, 0, 0]) = true ∧
    readyOne adding (.amo .add false 3 true false) = true ∧ readyOne swapping (.cas true 3 0) = true ∧
    (let s : State := { storing with badLines := SMap.set 0 [] (0x400000 / 64) 1 }
     (memOpOf s 0).any (fun o => o.ready s && (sideFault s o.tag o.dpa o.side == some .uncorrectable) && (s.coreAt o.core).run != .stopped)) = true ∧
    (let s := loading.answerOp 0 5 Clk.zero
     (memOpOf s 0).any (fun o => o.result.isSome && o.bad.isNone && ((s.coreAt o.core).loads.any fun l => l.id == o.id))) = true ∧
    (memOpOf storing 0).any (fun o => !o.onPath && o.result.isNone && !o.returns) = true ∧
    (let s : State := { loading with
       parts := loading.parts.set 1 { part1 with critical := false }
       qos := [⟨Fin.ofNat 256 (chanOf 0x400000), 1, 0, 0, 0, 0, 0, []⟩] }
     (memOpOf s 0).any (fun o => o.ready s && (tokenShort s o none).isSome)) = true ∧
    (let s : State := { loading with qos := [⟨0, 1, 0, 0, 0, 8192, 0, [(0, 0)]⟩] }
     tokenTurn s 0 1 = some (0, 0)) := by decide +kernel

/-- A message of core 0 to itself, and a barrier operation on its own barrier 0. -/
def sending : State :=
  run (.cmsg 1 (.const 0) (.x 1)) (on (withX { core2 with mqBase := 0x8000000000000000 } 1 (spadInfo 0x8000)))
def arriving : State := run (.barr (.const 0)) (run (.binit (.const 0) (.lit 2)) atU)

/-- The state `n` cycles later. -/
def later (s : State) (n : Nat) : State := { s with cycle := s.cycle + n }

theorem wit_MemorySideStepsAct :
    (rowIdle { atU with cycle := 512, openRows := SMap.set 0 [] 33 1 } 1 1 = true ∧
      rowIdle { atU with cycle := 511, openRows := SMap.set 0 [] 33 1 } 1 1 = false) ∧
    okOf ((atU.findLost 0 31 []).pump 0 31) = true ∧ failedIn failed1 31 = [0x7FFF] ∧ failedIn failed1 30 = [] ∧
    refillReady (atStream ⟨true, false, false, blockAt 0x8000 4, 0, 0, 3, 0, []⟩) 0 0 = true ∧
    drainReady (atStream (writing 1 1)) 0 0 = true ∧
    (let s := run (.nbld 1 (.const 0) (.x 1)) (on (withX core2 1 0x400000))
     ((s.cmds.filter fun m => m.core = 0 && m.canRun (later s 100000)).find? (·.tag = some 1)).isSome) = true ∧
    (let s := later (run (.hsig (.const 0) (.const 0) (.lit 0)) atC) 100000
     ((s.cmds.filter fun m => m.core = 0 && m.canRun s).find? (·.tag = some 1)).isNone &&
      ((s.cmds.filter fun m => m.core = 0 && m.canRun s).find? (·.tag.isNone)).isSome) = true ∧
    (let s := later sending 1000
     (nextMessage s 0).isSome && !touchesBarrier (s.coreAt 0).hdr ((s.coreAt 0).mqOffset (s.coreAt 0).mqTail.toNat) 64) = true ∧
    (let s := later arriving 1000
     (nextBarOp s 0).isSome) = true ∧
    (let s : State := { atU with credRet := [⟨some 1, 0, 0, 0, 0⟩] }
     (nextCredit s 0).any fun r => (s.coreAt 0).launch == r.launch) = true ∧
    (let s := run (.nbld 1 (.const 0) (.x 1)) (on (withX core2 1 0x400000))
     let t : State := { later s 100000 with cmds := s.cmds.map fun m => { m with parked := true } }
     (t.cmds.find? fun m => m.core = 0 && m.tag = some 1 && m.parked && m.ready t).isSome) = true ∧
    (let s := run .barrierApply (later arriving 1000)
     let b := readBarLine (s.coreAt 0).spad 0xFC00
     b.state = 1 ∧ b.target = 2) := by decide +kernel


/-! ### Witnesses: the fabric and the votes -/

/-- What a bounded computation gives. -/
def fromOk {α β : Type} (d : β) (r : Except α β) : β :=
  match r with
  | .ok x => x
  | _ => d

def errOf {α β : Type} (r : Except α β) : Option α :=
  match r with
  | .error e => some e
  | _ => none

/-- The machine with page tables, VA 0 to 0x3FFFFFFF being DPAs, with a port that leads to module 5, and with room. -/
def paged : State :=
  let up : Port := { Port.reset with up := true }
  let p1 : Partition := { part1 with s2root := 0x700000, kernels := [kernel7] }
  let f : Fabric := { Fabric.reset with routes := SMap.set 0xFFFFF#32 [] 5 0, ports := Fabric.reset.ports.set 0 up }
  { atU with
    parts := State.reset.parts.set 1 p1
    mem := ((Mem.writeBytes [] 0x700000 [0xF]).writeBytes 0 (natToBytes 8 0x701001)).writeBytes 0x701000 [0xF]
    fabric := f }

/-- A packet of module 5 for partition 1, as its source forms it. -/
def incoming (type : BitVec 8) (cls : BitVec 2) (addr : Nat) : Packet :=
  let p : Packet := { Packet.zero with type := type, cls := cls, src := 5, dfn := 1, sfn := 2, addr := BitVec.ofNat 64 addr
                                       be := [0x0F], flits := [zeros 64] }
  p.sealed

/-- An ATOMIC that adds 32 bits, and one that may be combined. -/
def atomicIn : Packet := ({ incoming 2 0 0x400000 with opnd := 0x11 } : Packet).sealed
def combinedIn : Packet := ({ incoming 2 0 0x400000 with opnd := 0x31 } : Packet).sealed

/-- A request queue of 16 records at 0x500000. -/
def queued : State :=
  let f1 : FnRegs := { FnRegs.reset with rqbase := FnRegs.reset.rqbase.set 0 0x500000 }
  { paged with fns := paged.fns.set 1 f1, mem := paged.mem.writeBytes 0x500010 (natToBytes 4 16) }

/-- A launch record that a permission matches. -/
def recordIn : Packet := ({ incoming 4 3 0 with flits := [[7, 0, 0, 1] ++ zeros 60] } : Packet).sealed
def allowed : State := paged.setRt 1 fun r => { r with lperm := [⟨0, 7, 5, 2, 3⟩] }

/-- A gang that is declared here and not resident, with its spillway. -/
def gang9 : GangDef := ⟨9, 1, 0x600000, 0x100000, 0, 0, 0, 0, 0, false, false⟩
def away : State := { paged with gangs := [gang9] }

/-- A packet of two flits, the header of a table entry and a block, for a sequencer. -/
def blocksIn (type : BitVec 8) : Packet :=
  ({ incoming type 0 0x400000 with flits := [zeros 64, zeros 64], be := [0, 0] } : Packet).sealed

/-- The partition is best effort, and has no tokens at a channel. -/
def poor : State :=
  { paged with parts := paged.parts.set 1 { paged.parts[1] with critical := false }
               qos := [⟨Fin.ofNat 256 (chanOf 0x400000), 1, 0, 0, 0, 0, 0, []⟩] }

/-- A page on which every address is differentiable, one near memory, and none. -/
def pageAs (b : Byte) : State := { paged with mem := paged.mem.writeBytes 0x701000 [b] }

/-- A write of one line, and its place. -/
def whole : Packet := incoming 1 0 0x400000
def onePlace (mtype : Nat) : List Phys := [⟨0x400000, false, false, mtype⟩]

theorem wit_PacketsAtTheirDestination :
    (ArrivesHere paged whole ∧ LinesReady paged whole (onePlace 0) ∧ sideFault paged 1 0x400000 false = none) ∧
    (ArrivesHere paged atomicIn ∧ LinesReady paged atomicIn (onePlace 0) ∧ amoOf (bitsOf atomicIn.opnd.toNat 0 4) = some .add ∧
      atomicAt (atomicIn.be.headD 0) 4 = some 0) ∧
    (let s := pageAs 0x4F
     ArrivesHere s combinedIn ∧ LinesReady s combinedIn (onePlace 1) ∧ (combinedIn.opnd.getLsbD 5 && amoCombines .add) = true) ∧
    (let p := incoming 3 2 0
     let used := accessChans queued (pktReq 1) 0x500000 false .atomic
     ArrivesHere queued p ∧ LinesReady queued p [] ∧ (p.flits.headD []).length = 64 ∧
     packetLines queued 1 .write 0x500000 1 = .ok [⟨0x500000, false, false, 0⟩] ∧ busyChan queued 1 used = none ∧
     sideFault queued 1 0x500000 false = none ∧ packetLines queued 1 .write 0x500040 1 = .ok [⟨0x500040, false, false, 0⟩] ∧
     busyChan queued 1 (used ++ accessChans queued (pktReq 1) 0x500040 false .full) = none ∧
     queued.lookLE 1 0x500010 4 false = 16 ∧ (queued.lookLE 1 0x500000 8 false, queued.lookLE 1 0x500008 8 false) = (0, 0)) ∧
    (ArrivesHere allowed recordIn ∧ LinesReady allowed recordIn [] ∧ ArrivesHere paged recordIn ∧
      LinesReady paged recordIn [] ∧ lpermFor paged 1 5 2 7 = none ∧ lpermFor allowed 1 5 2 7 = some ⟨0, 7, 5, 2, 3⟩ ∧
      recordReason allowed 1 3 (recordIn.flits.headD []) = none ∧
      ((waitingIn allowed 1 isInbox).filter fun l => !l.entered).length < 16) ∧
    (ArrivesHere paged (blocksIn 5) ∧ LinesReady paged (blocksIn 5) (onePlace 0) ∧ ArrivesHere paged (blocksIn 6) ∧
      LinesReady paged (blocksIn 6) (onePlace 0) ∧ (ownedSeqs paged 1).isEmpty = false) ∧
    (ComesUp paged whole ∧ whole.hccOk = true ∧ whole.flitsOk = true ∧ typeAllowed 0 1 = true ∧ typeAllowed 2 1 = false ∧
      (let p : Packet := { whole with hcc := whole.hcc + 1 }
       ComesUp paged p ∧ p.hccOk = false) ∧
      (let p : Packet := { whole with codes := [] }
       ComesUp paged p ∧ p.hccOk = true ∧ p.flitsOk = false) ∧
      (paged.parts[2]).exists_ = false ∧ routePort paged 3 5 = some 0 ∧ Port.use paged.fabric.ports[0] = .ready) ∧
    (residentGang away 1 9 = false ∧ away.gangDef 1 9 = some gang9 ∧ spillWaits away 1 gang9 = none ∧
      okOf (spill away 1 gang9 { whole with gang := 9 }) = true ∧ residentGang away 1 8 = false ∧ away.gangDef 1 8 = none) ∧
    (ArrivesHere (pageAs 0) whole ∧ okOf (packetLines (pageAs 0) 1 .write 0x400000 1) = false) ∧
    (ArrivesHere (pageAs 0x2F) whole ∧ LinesAt (pageAs 0x2F) whole [⟨0x400000, false, true, 0⟩]) ∧
    (ArrivesHere poor whole ∧ LinesAt poor whole (onePlace 0) ∧
      busyChan poor 1 (packetChans poor 1 whole (onePlace 0)) = some (Fin.ofNat 256 (chanOf 0x400000))) := by
  unfold ArrivesHere LinesReady LinesAt ComesUp
  decide +kernel

/-- A write for rank 1 on its way, and a packet of it that has left. -/
def member5 : Launch := { launch1 with gsize := 2, members := [(0, 1), (5, 1)] }
def leaving : State :=
  let s := on (withX (withX { core2 with gsize := 2 } 1 (spadInfo 0x8000)) 2 0x1001)
  later (run (.fwr 1 (.const 0) (.x 1) (.spec (.x 2))) { s with
    fabric := paged.fabric, launches := [member5], parts := paged.parts, mem := paged.mem }) 8
def left : State := run .packetInject leaving

def heldPkt : WaitPkt :=
  { pkt := { incoming 1 0 0x400000 with src := 0, dst := 5, sfn := 1, gang := 9 }
    info := ⟨5, 1, 0, 0, 9, some 0, some 1, none, none⟩, part := 1, seq := false, due := 0 }

/-- A control packet of module 5. -/
def ctlIn (ctype : BitVec 8) (a16 : BitVec 16) (a32 : BitVec 32) (s : State) : State :=
  let c : Control := { Control.zero with ctype := ctype, src := 5, arg16 := a16, arg32 := a32 }
  { s with inp := { s.inp with ctl := c.atHop 0 } }

/-- A tree reduction of four ranks, at rank 1, that has not sent its sum. -/
def entryIn (s : State) (f : TileEntry → TileEntry) : State :=
  match atReady.tileEntry 1 0 with
  | some e => s.setEntry 1 (f e)
  | none => s

theorem wit_PacketsLeaveAndAreAnswered :
    (let s := { paged with fabric := { paged.fabric with held := [heldPkt] } }
     (nextHeld s).isSome = true ∧ gangHeld s 1 9 = false ∧ okOf (paged.transmit heldPkt) = true) ∧
    (leaving.fabric.held = [] ∧ (match nextInject leaving 0 with
      | some m => m.part == 1 && okOf (packetSource leaving m (fabSource m m.moved).1 (fabSource m m.moved).2) &&
          (memberOf leaving m.launch m.part (fabRank m)).1 == 5 && fabClass m == 0 && !gangHeld leaving m.part 0
      | none => false) = true ∧ routePort leaving 0 5 = some 0 ∧ (leaving.parts[1]).ports.getLsbD 0 = true) ∧
    (let p : Packet := ({ incoming 1 0 0 with dst := 5, src := 3 } : Packet).sealed
     let q : Packet := { p with cls := 2 }.sealed
     routePort paged 0 5 = some 0 ∧ p.hccOk = true ∧ p.flitsOk = true ∧ typeAllowed 0 1 = true ∧ q.hccOk = true ∧
       q.flitsOk = true ∧ typeAllowed q.cls.toNat q.type.toNat = false ∧ Port.use paged.fabric.ports[0] = .ready) ∧
    (let c : Control := ({ Control.zero with dst := 5, ctype := 1 } : Control).atHop 3
     routePort paged 3 5 = some 0 ∧ c.cccOk = true ∧ ctypeKnown c = true ∧ c.hop.toNat < 4) ∧
    (let s := ctlIn 0x01 0x0101 0 left
     ctlHere s s.inp.ctl 0x01 = true ∧ bitsOf s.inp.ctl.arg16.toNat 8 8 = 1 ∧ (s.fabric.sent.find? (·.is 5 1 0 0)).isSome = true) ∧
    (let s := ctlIn 0x02 0x0501 0 left
     ctlHere s s.inp.ctl 0x02 = true ∧ (s.fabric.sent.find? (·.is 5 1 0 0)).isSome = true) ∧
    (let s := on (withX { core2 with gsize := 2 } 1 (spadInfo 0x8000))
     let s := run .packetInject (later (run (.flnch 1 (.x 1) (.lit 1)) { s with
       fabric := paged.fabric, launches := [member5], parts := paged.parts, mem := paged.mem }) 8)
     let t := ctlIn 0x03 0x0101 0 s
     ctlHere t t.inp.ctl 0x03 = true ∧ (t.fabric.sent.find? fun r => r.dst = 5 && r.cls = 3 && r.pseq = 0 && (match r.cmd with
       | some id => t.cmds.any fun m => m.id = id && (memberOf t m.launch m.part (fabRank m)).2 = 1
       | none => false)).isSome = true ∧ t.cmds.any (fun m => m.status == stOk) = true) ∧
    (let s := { paged with fabric := { paged.fabric with acks := [⟨5, 2, 0, 0, 1, 0⟩] } }
     (s.fabric.acks.find? (fun a => a.src = 5 && a.sfn = 2 && a.cls = 0)).isSome = true ∧
     s.cycle < 0 + 256 ∧ (0 + 256 ≤ (later s 256).cycle)) ∧
    (SMap.get 0 (left.coreAt 0).fabOut 5 = 1 ∧ left.activeOf (some 1) < SMap.get 0 (left.coreAt 0).fabSince 5 + 320000 ∧
      SMap.get 0 ((later left 320000).coreAt 0).fabSince 5 + 320000 ≤ (later left 320000).activeOf (some 1)) ∧
    (ownedSeqs { paged with sheet := { paged.sheet with tenant := 1 } } 1).contains 0 = true ∧
    (let s := entryIn paged fun e => { e with parked := some 0 }
     (s.tileEntry 1 0).any (fun e => collDue s e && !cutDue s e) = true) ∧
    (let s := entryIn (later paged 1600) fun e => { e with
       rank := 0, size := 2, desc := [1, 1] ++ zeros 22 ++ natToBytes 4 1 ++ natToBytes 4 1 ++ zeros 32 }
     (s.tileEntry 1 0).any (fun e => collDue s e && cutDue s e) = true) ∧
    (let s := ctlIn 0x12 0x0200 3 (entryIn paged fun e => { e with rank := 1, size := 4, seq := 0 })
     s.inp.ctl.ctype = 0x12 ∧ s.inp.ctl.cccOk = true ∧ bitsOf s.inp.ctl.arg16.toNat 9 5 = 1 ∧
     (s.tileEntry 1 0).any (fun e => e.seq % 2 ^ 16 == bitsOf s.inp.ctl.arg32.toNat 16 16 && e.rank != 0) = true) := by
  decide +kernel

/-- A partition under the call sheet, its gang 9 on modules 0 and 5, and a vote for it in slot 1. -/
def gangLaunch9 : Launch := { launch1 with id := 2, state := .queued, gang := 9, gsize := 2, members := [(0, 1), (5, 1)], quads := [] }
def vote9 : Vote :=
  { slot := 1, round := false, group := [0, 5], part := 1, incoming := 9, outgoing := [(1, 0)], state := .prepared, since := 0
    prepares := [5], oks := [], sentOk := true, refused := none, sweep := 0, asked := false, sweepAt := 0, reports := []
    last := none, firstAt := none, haltAt := none, reported := none, swapAt := 0, resent := 0, committed := [], stalled := false }
def between (v : Vote) : State :=
  { paged with
    parts := paged.parts.set 1 { paged.parts[1] with kind := 1 }
    launches := [launch1, gangLaunch9], gangs := [gang9], votes := [v]
    sheet := { Sheet.reset with running := true, slot := 0, tenant := 1 } }

/-- A VOTE packet of module 5 for slot 1, naming gang 9. -/
def voteIn (phase : Nat) (s : State) : State := ctlIn 0x10 (BitVec.ofNat 16 (1 + 2 ^ 4 * phase)) 9 s

/-- A vote of the state is the one a packet of a phase belongs to. -/
def votes (s : State) (phase : Nat) (done : Bool) (p : VoteMsg → Vote → Bool) : Bool :=
  match voteMsg s phase with
  | some m => match voteOf s m done with
    | some v => p m v
    | none => false
  | none => false

/-- A packet of a phase belongs to no vote. -/
def noVote (s : State) (phase : Nat) (p : VoteMsg → Bool) : Bool :=
  match voteMsg s phase with
  | some m => (voteOf s m false).isNone && p m
  | none => false

/-- A core of launch 1 that has stopped. -/
def stoppedCores (s : State) : State := { s with cores := s.cores.set 0 { core1 with run := .stopped } }

/-- A vote of module 0 of which it is not the root: it lies below module 5 in a level tree of two. -/
def below : Vote := { vote9 with group := [5, 0] }

theorem wit_VotePacketsMoveAVote :
    votes (voteIn phPrepare (between vote9)) phPrepare false (fun _ _ => true) = true ∧
    (let s := { voteIn phPrepare (between { vote9 with sentOk := false }) with gangs := [{ gang9 with gang := 8 }, gang9] }
     let t := { s with inp := { s.inp with ctl := ({ s.inp.ctl with arg32 := 8 } : Control).atHop 0 } }
     votes t phPrepare false (fun m v => v.state == .prepared && !v.sentOk && v.refused.isNone && !prepareFits t v m.gang) = true) ∧
    (let s := { voteIn phPrepare (between vote9) with votes := [] }
     noVote s phPrepare (fun m => (fixedGang s m.gang).isNone && m.slot == nextSlot s && m.round == s.sheet.round) = true ∧
     sheetVote s = none ∧ nextSlot s = 1) ∧
    (let s : State := { voteIn phPrepare (between vote9) with votes := [], parts := paged.parts }
     noVote s phPrepare (fun m => (fixedGang s m.gang).any fun d => (gangLaunch s d.part m.gang).isSome) = true) ∧
    (let s := { voteIn phOk (between { vote9 with group := [0, 3, 5], prepares := [3, 5] }) with votes :=
       [{ vote9 with group := [0, 3, 5], prepares := [3, 5] }] }
     votes s phOk false (fun _ v => v.state == .prepared && v.sentOk && (v.others s).all v.prepares.contains &&
       !(v.others s).all [5].contains) = true) ∧
    (let s := voteIn phOk (between below)
     votes s phOk false (fun _ v => v.state == .prepared && v.sentOk && (v.others s).all v.prepares.contains &&
       (v.others s).all [5].contains && !v.isRoot s) = true ∧
     (below.leaving s).any (fun l => (s.coreAt 0).launch == some l.id && (s.coreAt 0).run == .running) = true) ∧
    votes (voteIn phRefuse (between vote9)) phRefuse false (fun _ v => v.state == .prepared) = true ∧
    votes (voteIn phRefuse (between { vote9 with state := .levelling })) phRefuse false (fun _ v => v.state != .prepared) = true ∧
    (let s := stoppedCores (voteIn phAbort (between { vote9 with state := .levelling }))
     votes s phAbort false (fun _ v => v.state != .swapping && (v.leaving s).any fun l => (s.coreAt 0).launch == some l.id &&
       (s.coreAt 0).run == .stopped) = true) ∧
    votes (voteIn phCommit (between below)) phCommit false (fun _ v => v.state == .prepared && v.sentOk) = true ∧
    (let s := voteIn phCommit (between { below with state := .done })
     noVote s phCommit (fun _ => true) = true ∧ votes s phCommit true (fun _ _ => true) = true) ∧
    votes (voteIn phCommitted (between { vote9 with state := .swapping, committed := [0] })) phCommitted false
      (fun m v => !v.committed.contains m.src) = true ∧
    (absentDue (later (between vote9) 160000)).isSome = true ∧
    (let s := ctlIn 0x11 0x2001 0 (between below)
     (sheetVote s).any (fun v => ctlHere s s.inp.ctl 0x11 && s.inp.ctl.arg16.getLsbD 13 && !v.isRoot s &&
       s.inp.ctl.src.toNat == v.parent s && v.sentOk) = true) ∧
    (let v : Vote := { below with state := .levelling, asked := true }
     let s := stoppedCores (later (between v) 1)
     (sheetVote s).any (fun v => v.reportReady s && !v.isRoot s && v.parent s == 5) = true ∧ routePort s 3 5 = some 0) ∧
    (let v : Vote := { vote9 with state := .levelling, asked := true, sweep := 2, last := some (0, 0), reports := [(5, some 0, none)] }
     let s := ctlIn 0x11 0x1002 0 (stoppedCores (later (between v) 1))
     (sheetVote s).any (fun v => !v.reportReady s && ((v.noteSum s s.inp.ctl).noteSum s s.inp.ctl2).reportReady s && v.isRoot s) = true) := by
  decide +kernel

theorem wit_SlotsAndSwaps :
    (let s := { later (between vote9) 1600000 with votes := [] }
     slotOver s = true ∧ s.sheet.stopping = false ∧ slotOver { s with sheet := { s.sheet with stopping := true } } = true) ∧
    (slotOver (between vote9) = false ∧ fixedDue (between vote9) = none) ∧
    (fixedDue { between vote9 with votes := [], parts := paged.parts }).isSome = true ∧
    (let v : Vote := { vote9 with state := .levelling, outgoing := [(1, 9)] }
     let s := later (between v) 64000
     let t := { s with fabric := { s.fabric with held := [heldPkt] } }
     (captureDue t).any (fun w =>
       let u := ((t.takeCaptive w).gangSent w.part w.pkt.gang).gangReceived w.part w.pkt.gang
       w.port.isNone && (u.gangDef w.part w.pkt.gang).any fun d => okOf (spill u w.part d w.pkt)) = true) ∧
    (stallDue (later (between { vote9 with state := .levelling, firstAt := some 0 }) 3200000)).isSome = true ∧
    (resendDue (later (between { vote9 with state := .swapping, committed := [0] }) 16000)).isSome = true ∧
    swapReady (between vote9) = none ∧
    (swapReady (stoppedCores (later (between { vote9 with state := .swapping }) 4612))).any
      (fun v => !v.fixed (between vote9)) = true ∧
    (let x : Saved := ⟨1, 0, core1, .bank, liveAll hdr1, false, [], none, 0⟩
     let s := { paged with saved := [x], gangs := [⟨0, 1, 0x600000, 0x100000, 0x800000, 1, 0, 0, 0, false, false⟩],
                           launches := [{ launch1 with state := .out }] }
     (s.saved.find? fun x => x.at_ = .bank && decide (x.due ≤ s.cycle)).any (·.ctx.badWords.isEmpty) = true ∧ okOf (imageDpa s x true) = true) := by
  decide +kernel

/-! ### Witnesses: the scheduler, the commands and the host -/

/-- A machine with a launch that waits, and a free quad. -/
def waiting9 : Launch := { launch1 with id := 2, state := .queued, quads := [] }
def scheduling (l : List Launch) (f : PartRt → PartRt) : State :=
  ({ atU with launches := l, parts := atU.parts.set 1 { part1 with quads := 3 } } : State).setRt 1 f
def chosen2 (r : PartRt) : PartRt := { r with chosen := some 2 }

theorem wit_DispatcherAndPeriodicSteps :
    ((pickLaunch (scheduling [launch1, waiting9] id) 1).map (·.id) = some 2 ∧ placeQuads [3, 17, 18] 2 = some [17, 18] ∧
      placeQuads [3, 17] 2 = some [3, 17]) ∧
    (let s := { scheduling [launch1] id with cores := (atU.cores.set 0 { core1 with run := .stopped }).set 1 { core1 with run := .dead } }
     dispatchPlan s 1 = .leave 1) ∧
    dispatchPlan (scheduling [launch1, waiting9] chosen2) 1 = .start waiting9 [1] ∧
    dispatchPlan (scheduling [launch1, { waiting9 with state := .out, quads := [1] }] chosen2) 1 = .resume 2 ∧
    (let s : State := { scheduling [launch1, { waiting9 with base := 10, hdr := hdr1 }] chosen2 with
       parts := atU.parts, gangs := [⟨0, 1, 0x600000, 0x100000, 0x800000, 1, 0, 0, 0, false, false⟩] }
     dispatchPlan s 1 = .stop [1]) ∧
    dispatchPlan (scheduling [launch1] id) 1 = .wait ∧
    (dispatchPlan (scheduling [launch1, waiting9] id) 1 = .choose ∧
      (let s := scheduling [launch1, { waiting9 with nquads := 2 }] id
       dispatchPlan s 1 = .choose ∧ dispatchPlan (s.setRt 1 fun r => { r with chosen := some 2, served := 0 }) 1 = .wait)) ∧
    (lnchReady (scheduling [launch1, { waiting9 with source := .lnch, entered := false }] id) 1).isSome = true ∧
    (let s := on { core1 with run := .ending }
     (s.coreAt 0).run = .ending ∧ (s.coreAt 0).launch = some 1 ∧ endReady s 0 = true ∧ s.saved = [] ∧
     (∀ d ∈ coresOf [0], d ≠ 0 → (s.coreAt d).launch ≠ some 1) ∧
     endReady (on { core1 with run := .ending, streams := core1.streams.set 0 (writing 1 1) }) 0 = false) ∧
    (let s := { atU with qos := [⟨5, 1, 3, 1, 4, 0, 0, []⟩, ⟨6, 1, 0, 0, 4, 0, 0, []⟩] }
     (partAt s 1).critical = true ∧ (s.qos.any fun q => q.chan == 5) = true) ∧
    ((scheduling [] fun r => { r with qosNext := some (true, 300, 0) }).partRt 1).qosNext.isSome = true ∧
    (partAt atU 1).pmbase = 0 ∧
    (let s : State := { paged with parts := paged.parts.set 1 { paged.parts[1] with pmbase := 0x600000 } }
     let queue (s : State) : State := s.setRt 1 fun r => { r with pmQueue := [(2, 7)], pmDue := 160000 }
     (partAt s 1).pmbase ≠ 0 ∧ (s.partRt 1).pmDue ≤ s.cycle ∧ s.cycle < ((queue s).partRt 1).pmDue ∧
     storesLeft s 1 = false ∧ storesLeft (queue s) 1 = true ∧
     (match saveDpa (queue s) 1 0x600000 true with
      | .ok a => !reqWaits (queue s) (pktReq 1) (a + 16) false .part && (tagFault (queue s) 1 (a + 16)).isNone
      | .error _ => false) = true ∧
     okOf (saveDpa (queue { s with mem := s.mem.writeBytes 0x700000 [0] }) 1 0x600000 true) = false ∧
     (let t := { queue s with qos := [⟨Fin.ofNat 256 (chanOf 0x600010), 1, 0, 0, 0, 0, 0, []⟩]
                              parts := s.parts.set 1 { s.parts[1] with critical := false } }
      reqWaits t (pktReq 1) 0x600010 false .part = true)) ∧
    (let s := ({ atU with l2 := [⟨1, 3, 0, 0, none, 0x10000, zeros 64, false, 0⟩] } : State).setRt 1 fun r =>
       { r with clearing := 8, clearWays := 1 }
     clearDue s 1 3 = true ∧ clearDue s 1 2 = false ∧
       ∀ e ∈ s.l2, e.slice = 3 → (s.partRt 1).clearWays.getLsbD e.way = true → e.dirty = false) ∧
    ((partAt atU 1).exists_ = true ∧ (partAt atU 2).exists_ = false) := by
  decide +kernel

/-- The bytes of a command: fields at their offsets, the rest zero. -/
def bytesOf (n : Nat) (fields : List (Nat × Nat × Nat)) : List Byte :=
  (fields.foldl (fun (m : Mem) f => m.writeBytes f.1 (natToBytes f.2.1 f.2.2)) []).readBytes 0 n

/-- The state in which a command of a function takes its step. -/
def commanded (fn : Fn) (fields : List (Nat × Nat × Nat)) (s : State) : State :=
  let c : Cmd := ⟨fn, 0, 0, bytesOf 64 fields, 1⟩
  { s with inp := { s.inp with cmd := c }, cmdRuns := [⟨c, .running⟩] }

/-- A place of host memory, as an address of PF 0. -/
def hostAt : Nat := 2 ^ 63 + 0x500000

/-- A partition descriptor there, for quad 5. -/
def desc5 (s : State) : State :=
  { s with hostMem := s.hostMem.writeBytes 0x500000 (bytesOf 512 [(0, 1, 1), (3, 1, 1), (4, 2, 1), (6, 1, 1), (8, 8, 32), (16, 16, 2), (32, 32, 2), (80, 4, 300)]) }

/-- Partition 1 as it is asked to go, its launch on no quad. -/
def leaving1 : State := commanded 0 [(8, 1, 1)] { atU with launches := [{ launch1 with quads := [] }] }

theorem foldl_of_fixed {α β : Type} (f : β → α → β) (s : β) (l : List α) (h : ∀ a, f s a = s) : l.foldl f s = s := by
  induction l with
  | nil => rfl
  | cons a l ih => rw [List.foldl_cons, h, ih]

theorem endRuns_of_none (s : State) (p : NbRun → Bool) (n : Nat) (h : ∀ ch : Fin 256, s.nb[ch] = []) : s.endRuns p n = s :=
  foldl_of_fixed _ s _ fun ch => by simp [h ch]

theorem leaving1_not_quiet : partQuiet (leaving1.destroyStart 1) 1 = false := by
  have h : leaving1.destroyStart 1 = (((leaving1.setRt 1 fun r => { r with frames := some (mappedFrames leaving1 1) }).abortCmds
      1).stopLaunches 1).abortEntries 1 := by
    refine endRuns_of_none _ _ _ ?_
    decide +kernel
  rw [h]
  decide +kernel

theorem wit_PartitionCommands :
    (commanded 1 [] atU).inp.cmd.fn ≠ 0 ∧
    (commanded 0 [(30, 1, 1)] atU).inp.cmd.zeroBut [(8, 1), (16, 8)] = false ∧
    CmdFor (commanded 0 [(8, 1, 17)] atU) .pf [(8, 1), (16, 8)] ∧
    (let s := commanded 0 [(8, 1, 2), (16, 8, hostAt)] (desc5 State.reset)
     CmdFor s .pf [(8, 1), (16, 8)] ∧ s.inp.cmd.field 8 1 = 2 ∧ fnWaits s (fnReq 0) 0 false hostAt 512 = none ∧ (match hostGet s 0 hostAt 512 with
      | .ok (b, u) => descFormOk b && !(partAt u 2).exists_ && !createRefused u (partOfDesc b) && (partOfDesc b).quads == 32
      | .error _ => false) = true) ∧
    (let s := commanded 0 [(8, 1, 2), (16, 8, hostAt)] { desc5 State.reset with degQuads := 32 }
     (match hostGet s 0 hostAt 512 with
      | .ok (b, u) => descFormOk b && createRefused u (partOfDesc b)
      | .error _ => false) = true) ∧
    (match hostGet atU 0 hostAt 512 with
      | .ok (b, _) => !descFormOk b
      | .error _ => false) = true ∧
    (CmdFor leaving1 .pf [(8, 1)] ∧ leaving1.inp.cmd.field 8 1 = 1 ∧ (partAt leaving1 1).exists_ = true ∧
     (leaving1.partRt 1).frames = none ∧ (leaving1.coreAt 0).launch = some 1 ∧ (leaving1.coreAt 0).run = .running) ∧
    (let s := commanded 0 [(8, 1, 1)] { atU with launches := [] }
     partQuiet (s.destroyStart 1) 1 = true) ∧
    (let u : State := { atU with parts := State.reset.parts.set 1 { part1 with dranges := [⟨0, 0x20000000⟩] } }
     let s := commanded 0 [(8, 1, 3), (9, 1, 1), (16, 8, 0), (24, 8, 2 ^ 28), (32, 8, 2 ^ 40)] u
     CmdFor s .pf [(8, 2), (16, 24)] ∧ (partAt s 1).exists_ = true ∧ exposesSpecial s 1 0 (2 ^ 28) = false ∧
     (∃ r ∈ (partAt s 1).dranges, r.base ≤ 0 ∧ 2 ^ 28 ≤ r.base + r.len)) ∧
    ((atU.partRt (partNo 0)).isReset = false ∧ partNo 0 = 1 ∧ (∀ l ∈ ({ atU with launches := [] } : State).launches, l.part ≠ 1) ∧
      (atU.nb.toList.any fun l => l.any fun r => r.part = 1) = false) ∧
    (∀ p : Fin 16, (partAt State.reset (partNo p)).exists_ = false) := by
  unfold CmdFor; decide +kernel

/-- A PSET or SHEET command for partition 1, which is under the call sheet where `k` is 1. -/
def setting (k : Nat) (fields : List (Nat × Nat × Nat)) : State :=
  commanded 0 ((9, 1, 1) :: fields) { paged with parts := paged.parts.set 1 { paged.parts[1] with kind := k }, gangs := [gang9] }

theorem wit_PartitionAndSheetSettings :
    CmdFor (commanded 0 [(9, 1, 17)] atU) .pf ([(8, 1), (9, 1)] ++ [(16, 8)]) ∧
    (let s := setting 0 [(16, 8, 0x10000), (24, 8, 0x20000)]
     CmdFor s .pf ([(8, 1), (9, 1)] ++ [(16, 8), (24, 8)]) ∧ (partAt s 1).exists_ = true ∧ s.inp.cmd.field 9 1 = 1 ∧
     s.inp.cmd.field 16 8 % 65536 = 0 ∧ s.inp.cmd.field 24 8 % 65536 = 0 ∧
     xlateQuiet (s.invalidate 1 0x10000 0x30000) 1 = true ∧ xlateQuiet loading 1 = false) ∧
    (let s := setting 0 [(16, 8, 0x7000)]
     CmdFor s .pf ([(8, 1), (9, 1)] ++ [(16, 8)]) ∧ s.inp.cmd.field 16 8 % 4096 = 0 ∧ s.inp.cmd.field 16 8 < 2 ^ 39) ∧
    (let s := setting 0 [(10, 1, 1), (12, 4, 300)]
     CmdFor s .pf ([(8, 1), (9, 1)] ++ [(10, 1), (12, 4), (16, 2)]) ∧
     qosOk (s.inp.cmd.field 10 1) (s.inp.cmd.field 12 4) (s.inp.cmd.field 16 2) = true) ∧
    (let s := setting 0 [(10, 2, 4095)]
     CmdFor s .pf ([(8, 1), (9, 1)] ++ [(10, 2)]) ∧ s.inp.cmd.field 10 2 ≠ 0 ∧ s.inp.cmd.field 10 2 < 4096) ∧
    (let s := setting 0 [(10, 1, 7), (16, 8, 0x20000000), (24, 8, 0x200000)]
     CmdFor s .pf ([(8, 1), (9, 1)] ++ [(10, 1), (16, 8), (24, 8)]) ∧ s.inp.cmd.field 10 1 = 7 ∧
     rangesOk [⟨0x20000000, 0x200000⟩] 4096 (2 ^ 63) false = true ∧
     rangesOk (setAt (partAt s 1).dranges 7 ⟨0x20000000, 0x200000⟩) 0x200000 (2 ^ 39) true = true) ∧
    (let s := setting 1 [(12, 4, 9), (16, 8, 0x100000), (24, 8, 0x100000), (32, 8, 0x200000), (40, 1, 1), (41, 1, 15)]
     CmdFor s .pf ([(8, 1), (9, 1)] ++ [(12, 4), (16, 8), (24, 8), (32, 8), (40, 1), (41, 1)]) ∧
     inRanges (partAt s 1) 0x100000 0x100000 = true ∧ inRanges (partAt s 1) 0x200000 (8448 * 1024) = true) ∧
    (let s := setting 1 [(10, 1, 15), (12, 4, 9)]
     CmdFor s .pf ([(8, 1), (9, 1)] ++ [(10, 1), (12, 4)]) ∧ s.inp.cmd.field 10 1 = 15 ∧ isSingle 9 = false ∧
     sliced s 1 = true ∧ (s.gangDef 1 9).isSome = true) ∧
    (let s := setting 1 [(10, 1, 15), (12, 4, 0x80000001)]
     CmdFor s .pf ([(8, 1), (9, 1)] ++ [(10, 1), (12, 4)]) ∧ isSingle (BitVec.ofNat 32 (s.inp.cmd.field 12 4)) = true ∧
     (BitVec.ofNat 32 (s.inp.cmd.field 12 4)).toNat - 0x80000000 = 1) ∧
    (let s := setting 1 [(10, 1, 0), (12, 4, 1000000)]
     CmdFor s .pf ([(8, 1), (9, 1)] ++ [(10, 1), (12, 4)]) ∧ 100 ≤ s.inp.cmd.field 12 4 ∧ s.inp.cmd.field 12 4 ≤ 1000000) ∧
    (let s := setting 1 [(12, 4, 10)]
     CmdFor s .pf ([(8, 1), (9, 1)] ++ [(12, 4)]) ∧ 10 ≤ s.inp.cmd.field 12 4 ∧ s.inp.cmd.field 12 4 ≤ 10000) ∧
    (let s := setting 1 []
     CmdFor s .pf ([(8, 1), (9, 1)] ++ []) ∧ s.sheet.running = false) ∧
    (let s := { setting 1 [(10, 1, 1)] with votes := [{ vote9 with stalled := true, state := .levelling }] }
     CmdFor s .pf ([(8, 1), (9, 1)] ++ [(10, 1)]) ∧ s.inp.cmd.field 10 1 ≤ 1 ∧ (stalledVote s).isSome = true ∧ stalledVote atU = none) ∧
    (let s := setting 1 [(12, 4, 9)]
     (s.gangDef 1 9).isSome = true ∧ gangInUse s 1 9 = false ∧ s.gangDef 1 8 = none ∧
     gangInUse (s.setRt 1 fun r => { r with resident := some 9 }) 1 9 = true) := by
  unfold CmdFor; decide +kernel

/-- A kernel image of one bundle, END, with its digest as SHA3-256 of FIPS 202 gives it. -/
def image1 : List Byte :=
  bytesOf 136 [(0, 4, 0x4B385946), (4, 2, 1), (8, 4, 136), (12, 4, 128), (16, 4, 128), (20, 4, 8), (24, 1, 1), (32, 4, 1), (48, 4, 1000),
    (96, 32, 0x3698ff37efa954f139eb4e6515bf6d2238cbac2d67b71e6720dc940795c0abb4), (128, 4, 0x02000001), (132, 4, 0x02000000)]

theorem test_image_accepted : imageRefusal image1 (2 ^ 39) = none := by decide +kernel

/-- Partition 1 with a window on host memory, and the image there. -/
def hosted : State := { paged with parts := paged.parts.set 1 { paged.parts[1] with iova := [⟨0x500000, 0x200000⟩] } }
def imaged : State := { hosted with hostMem := Mem.writeBytes [] 0x500000 image1 }

/-- The image read back by a function, as REGISTER reads it. -/
def readsImage (s : State) (fn : Fn) : Bool :=
  match hostGet s fn hostAt 136 with
  | .ok (im, _) => im == image1 && (fnWaits s (fnReq fn) fn false hostAt 136).isNone
  | .error _ => false

/-- A range that a function reads, or a place that takes bytes, with no channel to wait at. -/
def gets (s : State) (fn : Fn) (n : Nat) : Bool :=
  okOf (hostGet s fn hostAt n) && (fnWaits s (fnReq fn) fn false hostAt n).isNone
def puts (s : State) (fn : Fn) (bs : List Byte) : Bool :=
  okOf (hostPut s fn hostAt bs) && (fnWaits s (fnReq fn) fn true hostAt bs.length).isNone

theorem wit_KernelAndRecordCommands :
    ((commanded 0 [] atU).inp.cmd.fn = 0 ∧ (commanded 0 [] atU).inp.cmd.zeroBut [] = true ∧
      (commanded 0 [(63, 1, 1)] atU).inp.cmd.zeroBut [] = false) ∧
    (let s := commanded 1 [(8, 8, hostAt), (16, 4, 136)] imaged
     CmdFor s .vf [(8, 8), (16, 4)] ∧ s.inp.cmd.field 16 4 = 136 ∧ readsImage s 1 = true ∧
     okOf (hostGet s 1 0x8000000000000000 136) = false ∧
     (let u : State := { s with parts := s.parts.set 1 { s.parts[1] with chans := 0 } }
      hbmBytes u 1 = 0 ∧ imageRefusal image1 (hbmBytes u 1) = none) ∧ 136 ≤ hbmBytes s 1 ∧
     fnWaits { poor with mem := poor.mem } (fnReq 1) 1 false 0x400000 64 = some (Fin.ofNat 256 (chanOf 0x400000))) ∧
    (match freeHandle part1 0 with
      | some _ => true
      | none => false) = true ∧
    (imageRefusal (zeros 136) (2 ^ 39)).isSome = true ∧
    (let s := commanded 1 [(8, 2, 7)] paged
     CmdFor s .vf [(8, 2)] ∧ (kernelOf s 1 7).isSome = true ∧ kernelOf s 1 8 = none ∧
     (s.launches.any fun l => l.part = 1 && l.handle = 7 && l.state ≠ .done) = true ∧
     (({ s with launches := [] } : State).launches.any fun l => l.part = 1 && l.handle = 7 && l.state ≠ .done) = false) ∧
    (let s := commanded 1 [(8, 2, 7), (10, 1, 1), (16, 8, hostAt), (24, 2, 4096), (28, 2, 1)] hosted
     CmdFor s .vf [(8, 2), (10, 1), (12, 4), (16, 8), (24, 2), (26, 2), (28, 2), (32, 8)] ∧
     (kernelOf s 1 7).any (fun k => decide (4096 ≤ k.hdr.spill)) = true ∧ 1 ≤ quadCount s 1 ∧ gets s 1 4096 = true) ∧
    (let s := commanded 1 [(8, 2, 7), (12, 4, 9), (26, 2, 1), (28, 2, 2), (16, 8, hostAt), (32, 8, hostAt)] { hosted with gangs := [gang9] }
     CmdFor s .vf [(8, 2), (10, 1), (12, 4), (16, 8), (24, 2), (26, 2), (28, 2), (32, 8)] ∧ s.inp.cmd.field 26 2 < 2 ∧
     (s.gangDef 1 9).isSome = true ∧ gets s 1 0 = true ∧ gets s 1 8 = true) ∧
    (let s := commanded 0 [(10, 1, 1), (16, 8, hostAt), (28, 2, 1), (40, 8, hostAt)] imaged
     CmdFor s .pf [(8, 2), (10, 1), (12, 4), (16, 8), (24, 2), (26, 2), (28, 2), (32, 8), (40, 8)] ∧ readsImage s 0 = true ∧
     fieldLE image1 8 4 = 136 ∧ hQuad s = some 63 ∧ gets s 0 128 = true ∧ gets s 0 0 = true) ∧
    (let s := commanded 1 [(8, 1, 63), (9, 1, 1), (10, 2, 0x7FF), (12, 2, 7), (14, 1, 16), (15, 1, 10)] atU
     CmdFor s .vf [(8, 4), (12, 4)] ∧ s.inp.cmd.field 8 1 = 63 ∧ s.inp.cmd.field 10 2 = 7 + 2040) ∧
    (let s := commanded 0 [(8, 8, 5), (40, 8, hostAt)] atU
     CmdFor s .all [(8, 32), (40, 8)] ∧ puts s 0 (attestReport s ((s.inp.cmd.data.drop 8).take 32)) = true ∧
     okOf (hostPut s 1 hostAt (attestReport s ((s.inp.cmd.data.drop 8).take 32))) = false) ∧
    (let s := commanded 0 [(8, 8, hostAt), (16, 4, 0x100000)] atU
     CmdFor s .all [(8, 8), (16, 4)] ∧ (summaryBytes s.chargeHold 0).length ≤ s.inp.cmd.field 16 4 ∧
     puts s.chargeHold 0 (summaryBytes s.chargeHold 0) = true ∧ 0 < (summaryBytes s.chargeHold 0).length) ∧
    (let s := commanded 1 [(8, 1, 1), (16, 8, 2 ^ 64 - 1), (24, 8, hostAt)] hosted
     let kept := s.setRt 1 fun r => { r with slates := { r.slates with kept := [(0, zeros 64)] } }
     CmdFor s .all [(8, 1), (16, 8), (24, 8)] ∧ (s.partRt 1).slates.kept = [] ∧ (kept.partRt 1).slates.kept = [(0, zeros 64)] ∧
     puts kept 1 (zeros 64) = true ∧
     (kept.partRt 1).slates.kept.find? (·.1 = 0) = some (0, zeros 64)) ∧
    (let s := commanded 0 [(24, 8, hostAt)] { atU with genesis := zeros 64 }
     CmdFor s .all [(8, 1), (16, 8), (24, 8)] ∧ s.genesis ≠ [] ∧ puts s 0 s.genesis = true) := by
  unfold CmdFor; decide +kernel

/-- Function 1 with ring 0 ACTIVE: 64 entries at 0x500000, completions at 0x502000, one command to fetch. -/
def ring1 : Ring :=
  { Ring.reset with base := 0x500000, size := 4096, widx := 1, enable := true, state := 1, cqbase := 0x502000, cqOk := 0x502000, nOk := 64
                    prio := 0x08010000 }
def ringed (r : Ring) : State :=
  let f1 : FnRegs := { FnRegs.reset with rings := FnRegs.reset.rings.set 0 r }
  { paged with fns := paged.fns.set 1 f1, msixMask := Vector.replicate 17 0 }
def nop1 : Cmd := ⟨1, 0, 0, bytesOf 64 [(1, 1, 1)], 1⟩

theorem wit_RingsAndCommands :
    (let s := ringed ring1
     ringPresent s 1 0 = true ∧ ring1.draining = false ∧ ringCheck s 1 (ring1.store 0x10 64) = none ∧
     (ringCheck s 1 (ring1.store 0x10 128)).isSome = true ∧ fetchable s 1 0 = true ∧
     fetchable (ringed Ring.reset) 1 0 = false) ∧
    (let s := ringed { ring1 with base := BitVec.ofNat 64 hostAt }
     fetchable s 1 0 = true ∧ okOf (hostGet s 1 hostAt 64) = false ∧
     (let t : State := { s with parts := hosted.parts }
      fetchable t 1 0 = true ∧ okOf (hostGet t 1 hostAt 64) = true)) ∧
    (let r := { Ring.reset with base := 0x500000, size := 4096, cqbase := 0x502000 }
     let s := ringed r
     r.state ≠ 1 ∧ ringPresent s 1 0 = true ∧ ringCheck s 1 r = none ∧ (ringCheck s 1 Ring.reset).isSome = true) ∧
    (ringPresent State.reset 1 0 = false ∧ ringDrained (ringed { ring1 with draining := true }) 1 0 = true ∧
      ringDrained (ringed ring1) 1 0 = false) ∧
    (let s := { ringed ring1 with cmdRuns := [⟨nop1, .fetched⟩] }
     startable s 1 0 = some nop1 ∧ commandStep 1 nop1.opc 0 = some (.all, some .commandNop) ∧ Who.allows .all 1 = true ∧
     commandStep 1 0x2F 0 = none ∧ commandStep 1 0x20 0 = some (.pf, some .pcreate) ∧ Who.allows .pf 1 = false) ∧
    (let s := { ringed ring1 with cmdRuns := [⟨nop1, .done 0 0 0⟩] }
     (s.cmdRuns.find? fun c => c.cmd.fn = 1 && c.cmd.ring = 0 && c.cmd.idx = 0 && c.ended).isSome = true ∧
     completionRoom ring1 = true ∧ completionRoom { ring1 with written := 64 } = false ∧
     (nop1.field 1 1).testBit 0 = true ∧
     completable s 1 0 = true ∧ completable { s with fns := (ringed { ring1 with written := 64 }).fns } 1 0 = false ∧
     okOf (hostPut { s with parts := hosted.parts } 1 hostAt (completionBytes nop1 0 0 0 1)) = true ∧ ring1.prio.getLsbD 27 = true ∧ (s.msixMask[1]).getLsbD (bitsOf ring1.prio.toNat 16 11) = false) := by
  decide +kernel

theorem wit_HostRegistersAndAccesses :
    (({ Boot.reset with failed := true } : Boot).failed = true ∧ State.reset.boot.failed = false ∧ State.reset.boot.powered = true) ∧
    ((1 : Word).getLsbD 0 = true ∧ (1 : Word).getLsbD 2 = false ∧ (0x100000000 : Word).getLsbD 32 = true) ∧
    (8 % 8 = 0 ∧ 56 < 64 ∧ bitsOf (1200 : Word).toNat 0 12 = 1200) ∧
    ((atU.chargeHold.fns[(0 : Fn)]).sumLen.toNat < (summaryBytes atU.chargeHold 0).length) ∧
    (let u := hosted.chargeHold
     u.boot.failed = false ∧ okOf (hostPut u 1 hostAt (zeros 64)) = true) ∧
    (configOpen { State.reset with boot := { State.reset.boot with stage := 3 } } = false ∧
      configOpen { State.reset with boot := { State.reset.boot with stage := 7 } } = true) ∧
    (let q := hostReq 1
     0x500000 < 2 ^ (paged.fns[1]).bar2 ∧ 2 ^ (paged.fns[1]).bar2 ≤ 2 ^ 39 ∧ hostWait paged = none ∧
     fnWaits paged q 1 false 0x500000 64 = none ∧ okOf (paged.reqPut q 1 0x500000 (zeros 64)) = true ∧
     fnWaits paged q 1 true 0x500000 64 = none ∧ okOf (atU.reqGet q 1 0x500000 64) = false ∧
     okOf (atU.reqPut q 1 0x500000 (zeros 64)) = false) ∧
    (let s := { paged with hdm := [⟨0, 1, 0, 2 ^ 28, 2 ^ 40⟩] }
     (s.hdm.find? fun d => decide (d.hpa ≤ 2 ^ 40) && decide (2 ^ 40 < d.hpa + d.len)).isSome = true ∧
     (s.hdm.find? fun d => decide (d.hpa ≤ 2 ^ 40 + 2 ^ 28) && decide (2 ^ 40 + 2 ^ 28 < d.hpa + d.len)) = none) := by
  decide +kernel

/-! ### Witnesses: links, power, near-bank runs, encodings, results -/

/-- A frame with its CRC, and flits that start one: a header of a packet without data, and a control flit. -/
def frameOf (fs : List Flit) : Frame := ⟨fs, 0, 0, false, List.replicate 6 0, frameCrc fs⟩
def headTo (dst : BitVec 11) : Flit := ⟨.head, 0, headerFlit ({ Packet.zero with dst := dst } : Packet), 0⟩
def ackTo (dst : BitVec 11) : Control := ({ Control.zero with ctype := 1, dst := dst } : Control).atHop 0
def linkUp : Port := { Port.reset with up := true }

theorem wit_LinksAndPorts :
    (let q : Port := { linkUp with queue := [⟨20, 0, 0, Packet.zero⟩, ⟨3, 2, 0, incoming 1 0 0⟩] }
     (q.grant 0).any (fun e => e.vc == 2) = true ∧ q.tx.length < 8 ∧
     8 ≤ ({ linkUp with tx := List.replicate 9 idleFlit } : Port).tx.length) ∧
    (let f := frameOf [idleFlit]
     frameCrc f.flits = f.crc ∧ f.seq = linkUp.rxSeq ∧ f.nak = false ∧ (∀ x ∈ f.flits, x.kind = .idle) ∧
     f.seq ≠ ({ linkUp with rxSeq := 1 } : Port).rxSeq ∧ frameCrc f.flits ≠ ({ f with crc := f.crc + 1 } : Frame).crc ∧
     linkUp.up = true ∧ Port.reset.up = false) ∧
    (let here := frameOf [headTo 0, idleFlit]
     let on_ := frameOf [headTo 5, idleFlit]
     (packetOfBytes (headTo 0).bytes []).flits = [] ∧ (packetOfBytes (headTo 0).bytes []).dst.toNat = selfMod atU ∧
     (packetOfBytes (headTo 5).bytes []).flits = [] ∧ (packetOfBytes (headTo 5).bytes []).dst.toNat ≠ selfMod atU ∧
     frameCrc here.flits = here.crc ∧ frameCrc on_.flits = on_.crc ∧ idleFlit.kind = .idle) ∧
    (let bad : Control := { ackTo 0 with ccc := 0 }
     controlsOf (controlFlit [ackTo 0]) = [ackTo 0] ∧ (ackTo 0).cccOk = true ∧ (ackTo 0).dst.toNat = selfMod atU ∧
     (controlStep (ackTo 0)).isSome = true ∧ controlsOf (controlFlit [ackTo 5]) = [ackTo 5] ∧ (ackTo 5).cccOk = true ∧
     (ackTo 5).dst.toNat ≠ selfMod atU ∧ controlsOf (controlFlit [bad]) = [bad] ∧ bad.cccOk = false ∧
     (controlFlit [ackTo 0]).kind = .ctl) ∧
    (let q : Port := { linkUp with buffer := [frameOf [idleFlit]] }
     (∃ f ∈ q.framesFrom 0, f.seq = 0) ∧ (∀ f ∈ linkUp.framesFrom 0, f.seq ≠ 0)) ∧
    (let q (n : Nat) : Port := { linkUp with replays := [(0, n)] }
     Port.reset.absent = false ∧ Port.reset.down = false ∧ Port.reset.queue = [] ∧ Port.reset.cur = none ∧
     64 < (q 65).recentReplays 0 ∧ (q 64).recentReplays 0 ≤ 64 ∧ (q 65).recentReplays 1600000 ≤ 64) ∧
    (({ Port.reset with training := true } : Port).training = true ∧ Port.reset.training = false ∧ State.reset.boot.failed = false) ∧
    ((1 : Word).getLsbD 1 = false ∧ (1 : Word).getLsbD 0 = true ∧ (0 : Word).getLsbD 0 = false) ∧
    ((atU.parts.any (·.exists_)) = true ∧ (State.reset.parts.any (·.exists_)) = false) ∧
    (({ Port.reset with drops := 1 } : Port).drops ≠ 0 ∧ ({ Port.reset with cutDrops := [(1, 1)] } : Port).cutDrops = [(1, 1)]) := by
  decide +kernel

/-- Flash in which the first image cannot be read, and flash in which the images can be. -/
def findings (readable : Bool) : BootFindings :=
  ⟨List.replicate 4 ⟨[], BitVec.ofNat 256 (bytesToNat (sha3_256 [])), 0, 0, 0, readable⟩, 0, List.replicate 16 none, 0, 0, 0, 0, 0, false⟩

/-- Boot state in whose fuses the key of that flash stands. -/
def fused : Boot := { Boot.reset with keys := [⟨0, false⟩] }

theorem wit_PowerBootAndErrors :
    (State.reset.boot.powered = true ∧ (State.reset.powerDown 0).boot.powered = false) ∧
    loadImages (State.reset.boot.begin 1) (findings false).images = (0, some 5) ∧
    selfTestFault (degradedQuads fused (findings true)) (findings true) = none ∧
    selfTestFault (degradedQuads fused { findings true with dieLinkBroken := true }) { findings true with dieLinkBroken := true } = some 8 ∧
    State.reset.power.gate[dieOf 0] = 1 ∧
    (SMap.get (0, 0) State.reset.ecc 4).1 = 0 ∧ (SMap.get (0, 0) (SMap.set (0, 0) State.reset.ecc 4 (1, 0)) 4).1 ≠ 0 := by
  decide +kernel

/-- Where a signature verifies, all four images load. What verifies is a free value (log entry 2), so that no more can be
shown. -/
theorem wit_images_load (h : Config.verifies 0 (BitVec.ofNat 256 (bytesToNat (sha3_256 []))) 0 0 = true) :
    loadImages fused (findings true).images = (4, none) := by
  have h0 (i : Nat) (hi : i < 4) : imageFault fused i ⟨[], BitVec.ofNat 256 (bytesToNat (sha3_256 [])), 0, 0, 0, true⟩ = none := by
    have hv : (fused.minVers.getD i 0).toNat = 0 := by
      rcases i with _ | _ | _ | _ | i <;> rfl
    have hk : (fused.keys.filter fun k => k.digest = (0 : BitVec 256)) = [⟨0, false⟩] := rfl
    unfold imageFault
    generalize BitVec.ofNat 256 (bytesToNat (sha3_256 [])) = d at h
    simp only [hk, h, hv]
    simp
  unfold loadImages
  split
  · next i c hs =>
    obtain ⟨j, hj, hm⟩ := List.exists_of_findSome?_eq_some hs
    have hj : j < 4 := List.mem_range.mp hj
    have hg : (findings true).images[j]? = some ⟨[], BitVec.ofNat 256 (bytesToNat (sha3_256 [])), 0, 0, 0, true⟩ := by
      rw [findings, List.getElem?_replicate, if_pos hj]
    rw [hg] at hm
    simp only [h0 j hj, Option.map_none, reduceCtorEq] at hm
  · rfl

/-- A near-bank run of one row of partition 1 on channel 0. -/
def nbRun (st : NbState) : NbRun :=
  { cmd := 0, part := 1, desc := blocks.readBytes 192 64, image := zeros 64, planes := List.replicate 4 none, ipas := [], state := st
    mpc := 0, steps := 0, accs := List.replicate 128 0, clamp := 0, singular := 0, nanSeen := 0, susp := 0, rows := []
    start := 0, since := 0, ended := none, kill := none, written := 0, quiet := 0 }
def nbAt (r : NbRun) : State := { atU with nb := atU.nb.set 0 [r] }

/-- The command of that run. -/
def nbCmd : Option EngCmd := (run (.nbld 1 (.const 0) (.x 1)) (on (withX core2 1 0x400000))).cmds.head?
def nbPlanes (s : State) (im : List Byte) : Bool :=
  nbCmd.any fun m => okOf (checkPlanes s m im (nbRun .queued).desc (nbRun .queued).planes (some 0))

/-- What the next step of a run is, and whether its time has come. -/
def nbNext (r : NbRun) (n : Nat) : Option Instr := nbDue (later (nbAt r) n) 0

theorem wit_NearBankRunSteps :
    ((nbAt (nbRun .queued)).inp.chan = 0 ∧ (nbAt (nbRun .queued)).nb[0] = [nbRun .queued]) ∧
    (nbNext { nbRun .guard with written := 3 } 1542 = some .nbGuardDone ∧ nbNext { nbRun .guard with written := 3 } 1541 = none ∧
      nbNext (nbRun .window) 16 = some .nbWindowClose ∧ nbNext (nbRun .window) 15 = none ∧
      nbNext { nbRun .window with quiet := 4090 } 4096 = some .nbWindowClose ∧
      nbNext { nbRun .window with kill := some 7 } 0 = some .nbWindowClose) ∧
    (let s := (nbAt (nbRun .queued)).setRt 1 fun r => { r with slots := SMap.set [] r.slots 0 (zeros 64) }
     nbPlanes s (slotImage s 1 0 (rdSlot (nbRun .queued).desc)) = true) ∧
    (nbPlanes atU (slotImage atU 1 0 0) = false ∧ nbCmd.isSome = true) ∧
    ((nbRun .guard).kill = none ∧ ({ nbRun .guard with kill := some 7 } : NbRun).kill = some 7 ∧
      (((nbAt (nbRun .guard)).sweepPlanes 0 (nbRun .guard)).guardSweep (nbRun .guard)).2 = 0) ∧
    (let s := nbAt (nbRun .run)
     let x := (s.channelStep 0 (nbRun .run)).2
     stepFault s (nbRun .run) = none ∧ x.kill = none ∧ nbSteps x ≤ x.mpc + 63 ∧ requestWaits s 0 = false) ∧
    (let r := { nbRun .run with mpc := nbSteps (nbRun .run) - 1 }
     let x := ((nbAt r).channelStep 0 r).2
     x.kill = none ∧ nbSteps x ≤ x.mpc) ∧
    (let r := { nbRun .run with mpc := 0, steps := 1, desc := [0, 6, 0, 0] ++ natToBytes 4 0 ++ natToBytes 4 64 ++ zeros 52 }
     let x := ((nbAt r).channelStep 0 r).2
     x.kill = none ∧ x.mpc < nbSteps x ∧ 2 ≤ x.steps ∧
     requestWaits { nbAt r with arrivals := [⟨0, some 0, ⟨.commandNop, Input.reset⟩⟩] } 0 = true) ∧
    (let s := { nbAt (nbRun .tokenWait) with
       parts := atU.parts.set 1 { part1 with critical := false }, qos := [⟨0, 1, 0, 0, 0, 0, 0, []⟩] }
     requestWaits s 0 = false ∧ hasTokens s 0 1 8 = false ∧ hasTokens (nbAt (nbRun .tokenWait)) 0 1 8 = true) ∧
    (let s := run (.nbld 1 (.const 0) (.x 1)) (on (withX core2 1 0x400000))
     let r : NbRun := { nbRun .finish with ended := some 0, cmd := (s.cmds.map (·.id)).headD 0 }
     (s.cmds.find? fun m => m.id = r.cmd).any (fun m => m.tag == some 1 && !m.c.getLsbD 24 && rdStatus m.block == 0 &&
       (s.coreAt m.core).launch == m.launch && (s.coreAt m.core).tags[1] == .busy false) = true) := by
  decide +kernel

theorem wit_encodings :
    (Instr.li 1 (.imm13 3)).wellFormed = true ∧ encode (.li 1 (.imm13 3)) = some ⟨.s, 0x30002003, none⟩ ∧
    decodeSlot .s 0x30002003 none = .ok (.li 1 (.imm13 3)) := by decide +kernel

theorem wit_ResultsLandAndCastShadows :
    ((atU.cur.bank .u).takes[15]?.any (·.load.isNone) = true ∧ atU.cur.clk + 16 ≤ 16 ∧ 0 < atU.cur.clk + 16) ∧
    ((∀ p ∈ ((atU.cur.bank .u).x[(1 : Fin 16)]).pend, p.load = none ∧ p.land ≤ 0) ∧
      ({ atU.cur with clk := 0 } : Core).seeX .u 1 = .settled 0) ∧
    ((∀ n : Fin 16, (atU.cur.bank .u).takes[n.val]?.all (·.load.isNone) = true) ∧
      (on { core1 with shadowchk := 1 }).pre.shadowchk.getLsbD 0 = true ∧ atU.pre.shadowchk.getLsbD 0 = false) := by
  decide +kernel

theorem wit_EveryStepKeepsPowerRegistersLegal : State.reset.powerLegal := by
  unfold State.powerLegal; decide +kernel

/-! ### Decoding: words written out from the tables of section 14 -/

theorem test_decode_scalar :
    decodeSlot .s 0x30004007 none = .ok (.li 2 (.imm13 7)) ∧                      -- 30 | A 0 | W 2 | IMM13 7
    decodeSlot .s 0x10514001 none = .ok (.add (.x 4) (.spec (.x 4)) 0 true) ∧     -- 10 | A x4 = 20 | B 20 | W 0 | F 1
    decodeSlot .s 0x28452082 none = .ok (.cmp (.x 1) (.spec (.x 2)) 1 .lt) := by  -- 28 | 17 | 18 | W 1 | F 2
  decide +kernel

theorem test_decode_control :
    decodeSlot .s 0x58000004 none = .ok (.call (.off18 4)) ∧          -- 58 | A 0 | OFF18 4
    decodeSlot .s 0x5B040000 none = .ok (.ret (.take 1)) ∧            -- 5B | A t1 = 1
    decodeSlot .s 0x5747FFFF none = .ok (.loop 1 (.off18 0x3FFFF)) ∧  -- 57 | A x1 = 17 | OFF18 -1
    decodeSlot .s 0x03840000 none = .ok (.yield (.const 1)) := by     -- 03 | A constant 1 = 33
  decide +kernel

theorem test_decode_memory :
    decodeSlot .s 0x46000013 none = .ok (.fence 4 3) ∧
    decodeSlot .s 0x60440080 none = .ok (.twait (.x 1) 1) ∧           -- 60 | A x1 = 17 | W 1
    decodeSlot .s 0x70002043 none = .ok (.csrr 1 0x043) := by         -- 70 | W 1 | CSR 043
  decide +kernel

theorem test_decode_vector :
    decodeSlot .v 0x30452080 none = .ok (.vcmp (.v 1) (.spec (.v 2)) .lt .f32) ∧  -- 30 | v1 = 17 | v2 = 18 | LT = 2 | f32
    decodeSlot .v 0x70440028 none = .ok (.mpush (.v 1) .s32) := by                -- 70 | v1 | T s32 = 10
  decide +kernel

theorem test_decode_matrix :
    decodeSlot .m 0x28000000 none = .ok .mfence ∧
    decodeSlot .m 0x18000070 none = .ok (.mfmt 0x70) ∧                -- 18 | FL 70
    decodeSlot .m 0x08A00000 none = .ok (.mzero 5) := by              -- 08 | Z 5
  decide +kernel

theorem test_decode_copy :
    decodeSlot .c 0x07154485 none = .ok (.cfill 5 (.x 4) (.x 2) (.spec (.take 5))) ∧  -- 07 | tag 5 | x4 | x2 | t5
    decodeSlot .c 0x31012000 none = .ok (.trdy (.x 2)) ∧                               -- 31 | TAG 0 | A x2 = 18
    decodeSlot .c 0x41154005 none = .ok (.nbx 5 (.x 4) (.spec (.take 5))) := by        -- 41 | tag 5 | x4 | - | t5
  decide +kernel

/-- The check byte of a header is the XOR of the bytes of the words behind it (R263). -/
theorem test_header_check : headerFor [⟨.s, 0x30004007, none⟩] = 0x77000001 ∧ headerFor [⟨.s, 0x5B040000, none⟩] = 0x5F000001 := by
  decide +kernel

/-! ### Terms that are not well formed -/

theorem test_ill_formed :
    [Instr.vsqrt (.take 0) .s32 0, .vcmp (.take 0) (.spec (.take 1)) .zlt .f32, .vcvt (.take 0) .a32 .sat .rne .f32,
      .cmp (.const 0) (.spec (.const 0)) 0 .un, .bfx (.const 0) 0 false 1 63, .st (.const 0) none (.const 0) 0 true true .d,
      .amo (.const 0) none (.const 0) 1 true false .add, .amo (.const 0) none (.const 0) 0 false false .fadd, .loop 0 (.off18 0),
      .csrr 1 7, .csrw (.const 0) 0x80, .vadd (.take 0) (.spec (.take 1)) .s32 2, .vabs (.take 0) .f32 1, .vrsum (.take 0) .s32 1,
      .vpack (.take 0) (.spec (.take 1)) 0, .mdrain 0 0 .sat false .rne 15 1 .f32,
      .powerOnReset { findings true with images := [] }, .perst { findings true with badCore := [] },
      .linkFrameReceive 0 ⟨[], 0, 0, false, [], 0⟩, .dataPacketAccept none { Packet.zero with flits := [[]] }].all
      (fun i => !i.wellFormed) = true := by decide +kernel

theorem test_well_formed :
    [Instr.vsqrt (.take 0) .f32 0, .vcmp (.take 0) (.spec (.take 1)) .zlt .z32, .cmp (.const 0) (.spec (.const 0)) 0 .lt,
      .bfx (.const 0) 0 false 0 63, .amo (.const 0) none (.const 0) 0 true false .add, .loop 1 (.off18 0), .csrr 1 6,
      .vadd (.take 0) (.spec (.take 1)) .s32 1, .mdrain 0 0 .sat false .rne 15 0 .f32, .dataPacketAccept none (incoming 1 0 0)].all
      (·.wellFormed) = true := by decide +kernel

/-! ### Values: the example of R288 (x4 = 0x0000_0000_8000_0001), and values worked by hand from the rules -/

/-- The result that an instruction claims, x4 being 0x80000001. -/
def gives (i : Instr) : Word := (newest (run i (on (withX core1 4 0x80000001)))).1

theorem test_add_w : gives (.add (.x 4) (.spec (.x 4)) 0 true) = 2 := by decide +kernel
theorem test_sra_w : gives (.sra (.x 4) (.lit 1) 0 true) = 0xFFFFFFFFC0000000 := by decide +kernel
theorem test_div_w : gives (.div (.x 4) (.lit 2) 0 true) = 0xFFFFFFFFC0000001 := by decide +kernel
theorem test_rem_w : gives (.rem (.x 4) (.lit 2) 0 true) = 0xFFFFFFFFFFFFFFFF := by decide +kernel
theorem test_shr : gives (.shr (.x 4) (.lit 31) 0 false) = 1 := by decide +kernel
theorem test_clz : gives (.clz (.x 4) 0 false) = 32 ∧ gives (.clz (.x 4) 0 true) = 0 := by decide +kernel
theorem test_popc : gives (.popc (.x 4) 0 false) = 2 := by decide +kernel

/-- A shift takes its count modulo 64; the most negative value divided by -1 is itself (R289). -/
theorem test_corners :
    gives (.shl (.const 1) (.lit 64) 0 false) = 1 ∧
    (newest (run (.div (.x 5) (.lit 0xFFFFFFFF) 0 false) (on (withX core1 5 0x8000000000000000)))).1 = 0x8000000000000000 := by
  decide +kernel

/-- A division by zero raises its cause and claims nothing (R289). -/
theorem test_div_zero : cause (run (.div (.x 4) (.const 0 |> .spec) 0 false) atU) = some .divZero := by decide +kernel

/-- The word placed where core 0 fetches is the instruction that the next step issues (the word of LI x1, 3). -/
theorem test_withFetchWord :
    ((after (step (State.reset.withFetchWord 32 0x30002003))).issue.slots) = [(.s, .li 1 (.imm13 3))] := by decide +kernel
end Sys2Proof.Tests
end

section
/-! Results land and cast shadows (R140-R142, R248, R254): what a read of a take and of a named register gives after a
claim, before and after the landing, and after a trap has landed everything. -/

namespace Sys2Proof.Machine

/-! ### The pending writes of a named register (R142) -/

theorem Pend.elapsed_iff {α : Type} (p : Pend α) (clk : Nat) :
    p.elapsed clk = true ↔ p.load = none ∧ p.land ≤ clk := by
  simp [Pend.elapsed]

theorem Pend.elapsed_mono {α : Type} {p : Pend α} {clk c : Nat} (hc : clk ≤ c) (h : p.elapsed clk = true) :
    p.elapsed c = true := by
  obtain ⟨hload, hland⟩ := (p.elapsed_iff clk).1 h
  exact (p.elapsed_iff c).2 ⟨hload, hland.trans hc⟩

theorem Reg.settle_cons_elapsed {α : Type} (cur : α) {clk : Nat} {p : Pend α} (l : List (Pend α))
    (h : p.elapsed clk = true) : Reg.settle cur clk (p :: l) = Reg.settle p.val clk l := by
  simp [Reg.settle, h]

theorem Reg.settle_cons_pending {α : Type} (cur : α) {clk : Nat} {p : Pend α} (l : List (Pend α))
    (h : ¬p.elapsed clk = true) : Reg.settle cur clk (p :: l) = ⟨cur, p :: l⟩ := by
  simp [Reg.settle, h]

/-- Writes that have all elapsed leave nothing pending. -/
theorem Reg.settle_of_elapsed {α : Type} (cur : α) (clk : Nat) (l : List (Pend α))
    (h : ∀ p ∈ l, p.load = none ∧ p.land ≤ clk) : ∃ y, Reg.settle cur clk l = ⟨y, []⟩ := by
  induction l generalizing cur with
  | nil => exact ⟨cur, rfl⟩
  | cons p l ih =>
    obtain ⟨hp, hl⟩ := List.forall_mem_cons.1 h
    rw [Reg.settle_cons_elapsed cur l ((p.elapsed_iff clk).2 hp)]
    exact ih p.val hl

/-- Where a list of writes leaves nothing pending, the writes behind it are settled from its last value. -/
theorem Reg.settle_append {α : Type} {cur y : α} {clk : Nat} {l : List (Pend α)} (m : List (Pend α))
    (h : Reg.settle cur clk l = ⟨y, []⟩) : Reg.settle cur clk (l ++ m) = Reg.settle y clk m := by
  induction l generalizing cur with
  | nil => cases h; rfl
  | cons p l ih =>
    by_cases hp : p.elapsed clk = true
    · rw [Reg.settle_cons_elapsed cur l hp] at h
      rw [List.cons_append, Reg.settle_cons_elapsed cur _ hp]
      exact ih h
    · rw [Reg.settle_cons_pending cur l hp] at h
      cases h

/-- Settling early does not change what is settled later. -/
theorem Reg.settle_settle {α : Type} (cur : α) {clk c : Nat} (hc : clk ≤ c) (l : List (Pend α)) :
    Reg.settle (Reg.settle cur clk l).cur c (Reg.settle cur clk l).pend = Reg.settle cur c l := by
  induction l generalizing cur with
  | nil => rfl
  | cons p l ih =>
    by_cases hp : p.elapsed clk = true
    · rw [Reg.settle_cons_elapsed cur l hp, Reg.settle_cons_elapsed cur l (Pend.elapsed_mono hc hp)]
      exact ih p.val
    · rw [Reg.settle_cons_pending cur l hp]

/-- A register is seen settled just where nothing is left pending. -/
theorem Reg.see_eq_settled_iff {α : Type} (r : Reg α) (clk : Nat) (v : α) :
    r.see clk = .settled v ↔ Reg.settle r.cur clk r.pend = ⟨v, []⟩ := by
  rcases h : Reg.settle r.cur clk r.pend with ⟨y, _ | ⟨p, l⟩⟩ <;> simp [Reg.see, h]

/-- A write added to a register of which every other write has elapsed by the read is alone there (R142). -/
theorem Reg.settle_write {α : Type} {r : Reg α} {clk c : Nat} {y : α} (p : Pend α) (hc : clk ≤ c)
    (h : Reg.settle r.cur c r.pend = ⟨y, []⟩) :
    Reg.settle (r.write clk p).cur c (r.write clk p).pend = Reg.settle y c [p] :=
  Reg.settle_append [p] ((Reg.settle_settle r.cur hc r.pend).trans h)

/-- Once it has elapsed too, a read gives the value written. -/
theorem Reg.see_write_elapsed {α : Type} {r : Reg α} {clk c : Nat} {p : Pend α} (hc : clk ≤ c)
    (h : ∀ q ∈ r.pend, q.load = none ∧ q.land ≤ c) (hp : p.elapsed c = true) :
    (r.write clk p).see c = .settled p.val := by
  obtain ⟨y, hy⟩ := Reg.settle_of_elapsed r.cur c r.pend h
  rw [Reg.see_eq_settled_iff, Reg.settle_write p hc hy, Reg.settle_cons_elapsed y [] hp]
  rfl

/-- Before it lands, a read gives the value that the register had or the one written. -/
theorem Reg.see_write_pending {α : Type} {r : Reg α} {clk c : Nat} {p : Pend α} {old : α} (hc : clk ≤ c)
    (h : r.see c = .settled old) (hload : p.load = none) (hland : c < p.land) :
    (r.write clk p).see c = .shadow [old, p.val] := by
  have hp : ¬p.elapsed c = true := fun e => absurd ((p.elapsed_iff c).1 e).2 (Nat.not_le.2 hland)
  have hs := (Reg.settle_write p hc ((r.see_eq_settled_iff c old).1 h)).trans (Reg.settle_cons_pending old [] hp)
  simp [Reg.see, hs, hload]

/-- Once a trap has landed its writes, a register without a load on its way is seen settled (R248). -/
theorem Reg.see_landNow {α : Type} (r : Reg α) (clk : Nat) (h : ∀ p ∈ r.pend, p.load = none) :
    ∃ y, (r.landNow clk).see clk = .settled y := by
  have hl : ∀ p ∈ r.pend.map (Pend.landNow clk), p.load = none ∧ p.land ≤ clk := by
    intro p hp
    obtain ⟨q, hq, rfl⟩ := List.mem_map.1 hp
    exact ⟨h q hq, Nat.min_le_right q.land clk⟩
  obtain ⟨y, hy⟩ := Reg.settle_of_elapsed r.cur clk _ hl
  refine ⟨y, (Reg.see_eq_settled_iff _ clk y).2 ?_⟩
  rw [Reg.landNow, hy]
  rfl

/-! ### Takes (R140, R141) -/

theorem Take.see_landed {α : Type} {t : Take α} {clk : Nat} (hload : t.load = none) (hland : t.land ≤ clk) :
    t.see clk = .settled t.val := by
  simp [Take.see, hload, hland]

theorem Take.see_pending {α : Type} {t : Take α} {clk : Nat} (hload : t.load = none) (hland : clk < t.land) :
    t.see clk = .shadow [t.old, t.val] := by
  simp [Take.see, hload, Nat.not_le.2 hland]

theorem Take.see_landNow {α : Type} (t : Take α) (clk : Nat) (h : t.load = none) :
    (t.landNow clk).see clk = .settled t.val :=
  Take.see_landed (t := t.landNow clk) h (Nat.min_le_right t.land clk)

/-- Until it lands, the newest take holds the result claimed 16 claims earlier. -/
theorem claimTake_cons {α : Type} {takes : List (Take α)} {t : Take α} (h : takes[15]? = some t) (hload : t.load = none)
    (seq : Nat) (z v : α) (clk lat : Nat) (load : Option Nat) :
    claimTake takes seq z v clk lat load = ⟨seq, t.val, v, clk, clk + lat, load⟩ :: takes.take 15 := by
  simp [claimTake, h, hload]

/-- A claim makes take n of every take before it take n + 1. -/
theorem claimTake_getD_succ {α : Type} (takes : List (Take α)) (seq : Nat) (z v : α) (clk lat : Nat) (load : Option Nat)
    {n : Nat} (hn : n < 15) (d : Take α) :
    (claimTake takes seq z v clk lat load).getD (n + 1) d = takes.getD n d := by
  simp [claimTake, List.getD_eq_getElem?_getD, hn]

/-! ### A core read at a later issue cycle -/

theorem Core.bank_withClk (k : Core) (c : Nat) (l : Level) : ({ k with clk := c } : Core).bank l = k.bank l := by
  cases l <;> rfl

theorem Core.seeTake_withClk (k : Core) (c : Nat) (l : Level) (n : Fin 16) :
    ({ k with clk := c } : Core).seeTake l n = ((k.bank l).takes.getD n.val (Take.reset Word 0)).see c := by
  rw [Core.seeTake, Core.bank_withClk]

theorem Core.seeX_withClk (k : Core) (c : Nat) (l : Level) {n : Fin 16} (hn : n ≠ 0) :
    ({ k with clk := c } : Core).seeX l n = ((k.bank l).x[n]).see c := by
  rw [Core.seeX, if_neg hn, Core.bank_withClk]

@[simp] theorem Core.seeX_zero (k : Core) (l : Level) : k.seeX l 0 = .settled 0 := rfl

@[simp] theorem Core.level_result (k : Core) (v : Word) (lat : Nat) (w : WReg) (load : Option Nat) :
    (k.result v lat w load).level = k.level :=
  Core.setBank_level k k.level _

/-! ### What a claimed scalar result leaves to read -/

section
variable (k : Core) (v : Word) (lat : Nat) (w : WReg) (c : Nat)

theorem Core.takes_result :
    ((k.result v lat w none).bank k.level).takes = claimTake (k.bank k.level).takes k.seq 0 v k.clk lat none := by
  rw [Core.bank_result]

theorem Core.x_result (hw : w ≠ 0) :
    ((k.result v lat w none).bank k.level).x[w] =
      ((k.bank k.level).x[w]).write k.clk ⟨v, k.clk, k.clk + lat, none⟩ := by
  simp [Core.bank_result, hw]

theorem Core.seeTake_zero_result_landed (hc : k.clk + lat ≤ c) :
    ({ k.result v lat w none with clk := c } : Core).seeTake k.level 0 = .settled v := by
  rw [Core.seeTake_withClk, Core.takes_result]
  exact Take.see_landed rfl hc

theorem Core.seeTake_zero_result_pending (hc : c < k.clk + lat) {t : Take Word}
    (ht : (k.bank k.level).takes[15]? = some t) (hload : t.load = none) :
    ({ k.result v lat w none with clk := c } : Core).seeTake k.level 0 = .shadow [t.val, v] := by
  rw [Core.seeTake_withClk, Core.takes_result, claimTake_cons ht hload]
  exact Take.see_pending rfl hc

theorem Core.seeTake_succ_result (n : Fin 15) :
    ({ k.result v lat w none with clk := c } : Core).seeTake k.level ⟨n.val + 1, by omega⟩ =
      ({ k with clk := c } : Core).seeTake k.level ⟨n.val, by omega⟩ := by
  rw [Core.seeTake_withClk, Core.seeTake_withClk, Core.takes_result, claimTake_getD_succ (hn := n.isLt)]

theorem Core.seeX_result_ne {n : Fin 16} (hn : n ≠ w) :
    ({ k.result v lat w none with clk := c } : Core).seeX k.level n = ({ k with clk := c } : Core).seeX k.level n := by
  by_cases h0 : n = 0
  · rw [h0, Core.seeX_zero, Core.seeX_zero]
  · rw [Core.seeX_withClk _ c _ h0, Core.seeX_withClk _ c _ h0, Core.result_x_ne k v lat w none (.inl hn)]

theorem Core.seeX_result_landed (hw : w ≠ 0) (hclk : k.clk ≤ c)
    (hpend : ∀ p ∈ ((k.bank k.level).x[w]).pend, p.load = none ∧ p.land ≤ c) (hc : k.clk + lat ≤ c) :
    ({ k.result v lat w none with clk := c } : Core).seeX k.level w = .settled v := by
  rw [Core.seeX_withClk _ c _ hw, Core.x_result k v lat w hw]
  exact Reg.see_write_elapsed hclk hpend ((Pend.elapsed_iff _ c).2 ⟨rfl, hc⟩)

theorem Core.seeX_result_pending (hw : w ≠ 0) (hclk : k.clk ≤ c) {old : Word} (hc : c < k.clk + lat)
    (hold : ({ k with clk := c } : Core).seeX k.level w = .settled old) :
    ({ k.result v lat w none with clk := c } : Core).seeX k.level w = .shadow [old, v] := by
  rw [Core.seeX_withClk _ c _ hw] at hold ⊢
  rw [Core.x_result k v lat w hw]
  exact Reg.see_write_pending hclk hold rfl hc

end

/-! ### After a trap has landed the interrupted context (R248) -/

theorem Core.bank_landAll (k : Core) (l : Level) : k.landAll.bank l = (k.bank l).landNow k.clk := by
  cases l <;> rfl

theorem Core.seeTake_landAll (k : Core) (l : Level) (n : Fin 16) {t : Take Word}
    (ht : (k.bank l).takes[n.val]? = some t) (hload : t.load = none) : k.landAll.seeTake l n = .settled t.val := by
  have hland : (k.landAll.bank l).takes.getD n.val (Take.reset Word 0) = t.landNow k.clk := by
    simp [Core.bank_landAll, Bank.landNow, List.getD_eq_getElem?_getD, ht]
  rw [Core.seeTake, hland]
  exact Take.see_landNow t k.clk hload

theorem Core.seeX_landAll (k : Core) (l : Level) (n : Fin 16)
    (h : ∀ p ∈ ((k.bank l).x[n]).pend, p.load = none) : ∃ y, k.landAll.seeX l n = .settled y := by
  by_cases h0 : n = 0
  · exact ⟨0, by rw [h0, Core.seeX_zero]⟩
  · have hx : (k.landAll.bank l).x[n] = ((k.bank l).x[n]).landNow k.clk := by
      simp [Core.bank_landAll, Bank.landNow]
    rw [Core.seeX, if_neg h0, hx]
    exact Reg.see_landNow _ k.clk h

/-! ### Reads in a shadow (R141, R254) -/

/-- Whatever the free value is, it names one of the candidates. -/
theorem pick_mem {α : Type} (d : α) (n : Nat) {cands : List α} (h : cands ≠ []) : pick d n cands ∈ cands := by
  have hlt : Config.shadowIndex n % cands.length < cands.length := Nat.mod_lt _ (List.length_pos_of_ne_nil h)
  rw [pick, List.getD_eq_getElem _ _ hlt]
  exact List.getElem_mem hlt

theorem readSeen_shadow_checked {α : Type} {s : State} (d : α) (cands : List α) (info : Word)
    (h : s.pre.shadowchk.getLsbD 0 = true) :
    readSeen s d (.shadow cands) info = .trap (slotTrap s .shadowRead info) := by
  rw [readSeen, if_pos h]
  rfl

theorem readSeen_shadow_free {α : Type} {s : State} (d : α) (cands : List α) (info : Word)
    (h : s.pre.shadowchk.getLsbD 0 = false) :
    readSeen s d (.shadow cands) info = .ok (pick d s.free cands) { s with free := s.free + 1 } := by
  rw [readSeen, if_neg (Bool.eq_false_iff.1 h)]

/-- Settles O58, from the rules above on the core being issued: the claimed take and the others, the register written and
the others, the other banks, then landing everything, then reading what is seen. -/
theorem resultsLandAndCastShadows : Obligations.ResultsLandAndCastShadows := by
  intro s v lat w c
  simp only [State.cur_result]
  refine ⟨s.cur.level_result v lat w none, s.cur.seeTake_zero_result_landed v lat w c, ?_,
    s.cur.seeTake_succ_result v lat w c, Core.seeX_zero _ _, fun n hn => s.cur.seeX_result_ne v lat w c hn, ?_, ?_, ?_, ?_⟩
  · intro hc t ht hload
    exact s.cur.seeTake_zero_result_pending v lat w c hc ht hload
  · intro hw hclk hpend
    exact ⟨s.cur.seeX_result_landed v lat w c hw hclk hpend,
      fun old hc hold => s.cur.seeX_result_pending v lat w c hw hclk hc hold⟩
  · intro m hm
    rw [Core.bank_withClk, Core.bank_result_ne _ _ _ _ _ hm]
  · intro m n
    exact ⟨fun t ht hload => s.cur.seeTake_landAll m n ht hload, s.cur.seeX_landAll m n⟩
  · intro d x cands info
    exact ⟨readSeen_settled s d x info, readSeen_shadow_checked d cands info,
      fun hen hne => ⟨_, pick_mem d s.free hne, readSeen_shadow_free d cands info hen⟩⟩

end Sys2Proof.Machine
end

section
/-! Divisions of the S slot (R139, R288, R289): what one writes, and how a divisor of zero refuses the whole bundle. -/

namespace Sys2Proof.Machine

/-! ### Quotients and remainders at any width -/

theorem sdiv_eq_ofInt_tdiv {n : Nat} (p q : BitVec n) : p.sdiv q = BitVec.ofInt n (p.toInt.tdiv q.toInt) :=
  BitVec.eq_of_toInt_eq (by rw [BitVec.toInt_sdiv, BitVec.toInt_ofInt])

theorem srem_eq_ofInt_tmod {n : Nat} (p q : BitVec n) : p.srem q = BitVec.ofInt n (p.toInt.tmod q.toInt) := by
  rw [← BitVec.toInt_srem, BitVec.ofInt_toInt]

/-- a = quotient * b + remainder, signed, modulo the width. -/
theorem ofInt_tdiv_mul_add_ofInt_tmod {n : Nat} (p q : BitVec n) :
    BitVec.ofInt n (p.toInt.tdiv q.toInt) * q + BitVec.ofInt n (p.toInt.tmod q.toInt) = p := by
  calc BitVec.ofInt n (p.toInt.tdiv q.toInt) * q + BitVec.ofInt n (p.toInt.tmod q.toInt)
      = BitVec.ofInt n (p.toInt.tdiv q.toInt * q.toInt + p.toInt.tmod q.toInt) := by
        rw [BitVec.ofInt_add, BitVec.ofInt_mul, BitVec.ofInt_toInt]
    _ = p := by rw [Int.tdiv_mul_add_tmod, BitVec.ofInt_toInt]

/-- a = quotient * b + remainder, unsigned. -/
theorem ofNat_div_mul_add_ofNat_mod {n : Nat} (p q : BitVec n) :
    BitVec.ofNat n (p.toNat / q.toNat) * q + BitVec.ofNat n (p.toNat % q.toNat) = p := by
  calc BitVec.ofNat n (p.toNat / q.toNat) * q + BitVec.ofNat n (p.toNat % q.toNat)
      = BitVec.ofNat n (p.toNat / q.toNat * q.toNat + p.toNat % q.toNat) := by
        rw [BitVec.ofNat_add, BitVec.ofNat_mul, BitVec.ofNat_toNat, BitVec.setWidth_eq]
    _ = p := by rw [Nat.div_add_mod', BitVec.ofNat_toNat, BitVec.setWidth_eq]

/-- The quotient that does not fit wraps to the most negative value itself. -/
theorem ofInt_tdiv_intMin_allOnes (n : Nat) :
    BitVec.ofInt n ((BitVec.intMin n).toInt.tdiv (BitVec.allOnes n).toInt) = BitVec.intMin n := by
  rw [← sdiv_eq_ofInt_tdiv, ← BitVec.neg_one_eq_allOnes, BitVec.intMin_sdiv_neg_one]

theorem tmod_toInt_allOnes {n : Nat} (hn : 0 < n) (z : Int) : z.tmod (BitVec.allOnes n).toInt = 0 := by
  rw [BitVec.toInt_allOnes, if_pos hn, Int.tmod_neg, Int.tmod_one]

/-! ### The value a division writes (R288, R289) -/

section
variable (x y : Word)

theorem divW_64 : divW false x y = BitVec.ofInt 64 (x.toInt.tdiv y.toInt) := sdiv_eq_ofInt_tdiv x y
theorem divzW_64 : divzW false x y = BitVec.ofNat 64 (x.toNat / y.toNat) := BitVec.udiv_def
theorem remW_64 : remW false x y = BitVec.ofInt 64 (x.toInt.tmod y.toInt) := srem_eq_ofInt_tmod x y
theorem remzW_64 : remzW false x y = BitVec.ofNat 64 (x.toNat % y.toNat) := BitVec.umod_def

theorem divW_32 : divW true x y = sext32 ((x.setWidth 32).toInt.tdiv (y.setWidth 32).toInt) :=
  congrArg sx32 (sdiv_eq_ofInt_tdiv (lo32 x) (lo32 y))

theorem remW_32 : remW true x y = sext32 ((x.setWidth 32).toInt.tmod (y.setWidth 32).toInt) :=
  congrArg sx32 (srem_eq_ofInt_tmod (lo32 x) (lo32 y))

theorem sx32_ofNat (m : Nat) : sx32 (BitVec.ofNat 32 m) = sext32 m := by rw [sext32, BitVec.ofInt_natCast, sx32]

theorem divzW_32 : divzW true x y = sext32 (x.toNat % 2 ^ 32 / (y.toNat % 2 ^ 32) : Nat) := by
  rw [← sx32_ofNat, ← BitVec.toNat_setWidth, ← BitVec.toNat_setWidth]
  exact congrArg sx32 (BitVec.udiv_def (x := lo32 x) (y := lo32 y))

theorem remzW_32 : remzW true x y = sext32 (x.toNat % 2 ^ 32 % (y.toNat % 2 ^ 32) : Nat) := by
  rw [← sx32_ofNat, ← BitVec.toNat_setWidth, ← BitVec.toNat_setWidth]
  exact congrArg sx32 (BitVec.umod_def (x := lo32 x) (y := lo32 y))

end

/-! ### A division whose operands read -/

section
variable {s s1 s2 : State} {a : SSpec} {b : SOpnd} {x y : Word} (hx : readS s a 0 = .ok x s1) (hy : readSO s1 b 1 = .ok y s2)
include hx hy

theorem division_ok (w : WReg) {w32 : Bool} (f : Word → Word → Word) (h : divisorZero w32 y = false) :
    division s a b w w32 f = .ok () (s2.result (f x y) 20 w) := by
  simp [division, hx, hy, h]

theorem division_divZero (w : WReg) {w32 : Bool} (f : Word → Word → Word) (h : divisorZero w32 y = true) :
    division s a b w w32 f = .trap (slotTrap s2 .divZero 0) := by
  simp [division, hx, hy, h, raise, slotTrap]

/-- What each of the four writes where the divisor is not zero. -/
theorem divisions_run (w : WReg) {w32 : Bool} (h : divisorZero w32 y = false) :
    Runs (.div a b w w32) s (s2.result (divW w32 x y) 20 w) ∧
    Runs (.divz a b w w32) s (s2.result (divzW w32 x y) 20 w) ∧
    Runs (.rem a b w w32) s (s2.result (remW w32 x y) 20 w) ∧
    Runs (.remz a b w w32) s (s2.result (remzW w32 x y) 20 w) := by
  have run (f : Word → Word → Word) : finish s (division s a b w w32 f) = .next (s2.result (f x y) 20 w) := by
    rw [division_ok hx hy w f h, finish_ok]
  exact ⟨run _, run _, run _, run _⟩

/-- Each of the four refuses a divisor of zero as a slot of a bundle. -/
theorem divisions_runSlot (w : WReg) {w32 : Bool} (h : divisorZero w32 y = true) :
    ∀ i, i = .div a b w w32 ∨ i = .divz a b w w32 ∨ i = .rem a b w w32 ∨ i = .remz a b w w32 →
      runSlot i s = finish s (.trap (slotTrap s2 .divZero 0)) := by
  have trap (f : Word → Word → Word) :
      finish s (division s a b w w32 f) = finish s (.trap (slotTrap s2 .divZero 0)) := by
    rw [division_divZero hx hy w f h]
  rintro i (rfl | rfl | rfl | rfl) <;> exact trap _

/-- What each of the four raises as an instruction of its own. -/
theorem divisions_raise (w : WReg) {w32 : Bool} (h : divisorZero w32 y = true) :
    Raises (.div a b w w32) s (slotTrap s2 .divZero 0) ∧ Raises (.divz a b w w32) s (slotTrap s2 .divZero 0) ∧
    Raises (.rem a b w w32) s (slotTrap s2 .divZero 0) ∧ Raises (.remz a b w w32) s (slotTrap s2 .divZero 0) :=
  have refused := divisions_runSlot hx hy w h
  ⟨refused _ (.inl rfl), refused _ (.inr (.inl rfl)), refused _ (.inr (.inr (.inl rfl))),
    refused _ (.inr (.inr (.inr rfl)))⟩

end

/-! ### A bundle whose first slot traps (R139) -/

/-- No slot behind one that traps runs. -/
theorem runSlots_cons_trap {s : State} {sl : Slot} {i : Instr} {t : Trap} (rest : List (Slot × Instr))
    (h : runSlot i { s with issue := { s.issue with slot := sl } } =
      finish { s with issue := { s.issue with slot := sl } } (.trap t)) :
    (runSlots ((sl, i) :: rest) s).issue.result = .trapped t := by
  rw [runSlots, h, finish_trap]
  rfl

/-- A bundle with a slot that traps is refused with that cause and leaves the state as it was, where it need not wait for an
acquire (R203) and the matrix engine has no cause of its own (R249). -/
theorem runCore_of_trapped {s : State} {c : Fin 256} {d : RawBundle} {is : List (Slot × Instr)} {t : Trap}
    (hacq : (∀ e ∈ is, isAccess e.2 = false) ∨ acquiring s c = false)
    (heng : engineTrap (s.coreAt c) (bundlePops (s.openBundle c d is)) = none)
    (ht : (runSlots is (s.openBundle c d is)).issue.result = .trapped t) :
    runCore s c d is = (.trap t, none, s) := by
  have hgo : ¬((is.any fun e => isAccess e.2) && acquiring s c) = true := by
    rw [Bool.and_eq_true, List.any_eq_true]
    rintro ⟨⟨e, hmem, hacc⟩, hwait⟩
    rcases hacq with h | h
    · rw [h e hmem] at hacc
      cases hacc
    · rw [h] at hwait
      cases hwait
  simp only [runCore, if_neg hgo, ht, heng]

/-- Settles O2: the values and causes are those of the shared `division`, a bundle with a trapping slot is refused whole, and
the identities are those of truncated division, narrowed to the width. -/
theorem divisionResultsAndDivZero : Obligations.DivisionResultsAndDivZero := by
  intro s s1 s2 a b w x y hx hy
  have zero32 : y.setWidth 32 = 0 → divisorZero true y = true := fun h => beq_iff_eq.2 h
  have zero64 : y = 0 → divisorZero false y = true := fun h => beq_iff_eq.2 h
  refine ⟨fun h => ?_, fun h => ?_, fun h => divisions_raise hx hy w (zero64 h),
    fun h => divisions_raise hx hy w (zero32 h), ?_,
    fun _ => ⟨ofInt_tdiv_mul_add_ofInt_tmod x y, ofNat_div_mul_add_ofNat_mod x y⟩,
    fun p q _ => ⟨ofInt_tdiv_mul_add_ofInt_tmod p q, ofNat_div_mul_add_ofNat_mod p q⟩, ?_, ?_⟩
  · rw [← divW_64, ← divzW_64, ← remW_64, ← remzW_64]
    exact divisions_run hx hy w (beq_eq_false_iff_ne.2 h)
  · rw [← divW_32, ← divzW_32, ← remW_32, ← remzW_32]
    exact divisions_run hx hy w (beq_eq_false_iff_ne.2 h)
  · intro u c d i rest o hs hacq heng hi
    have hslot : runSlot i s = finish s (.trap (slotTrap s2 .divZero 0)) := by
      rcases hi with ⟨h, hi⟩ | ⟨h, hi⟩
      · exact divisions_runSlot hx hy w (zero64 h) i hi
      · exact divisions_runSlot hx hy w (zero32 h) i hi
    exact runCore_of_trapped hacq heng (runSlots_cons_trap rest (hs ▸ hslot))
  · rintro rfl rfl
    exact ⟨ofInt_tdiv_intMin_allOnes 64, by rw [tmod_toInt_allOnes (by decide)]; rfl⟩
  · intro hx32 hy32
    rw [hx32, hy32, sext32, sext32, ofInt_tdiv_intMin_allOnes, tmod_toInt_allOnes (by decide)]
    exact ⟨rfl, rfl⟩

end Sys2Proof.Machine
end

section
/-! LOOP (R295): its words, its step, and how many rounds its counter makes. -/

namespace Sys2Proof.Machine

/-- The row of LOOP in the S map. -/
theorem decodeS_loop {w : BWord} (h : fOp w = 0x57) (lit : Option BWord) :
    decodeS w lit = needI ((lit.isNone || fOff w == 0) && 17 ≤ (fA w).toNat && (fA w).toNat < 32)
      (.ok (.loop (Fin.ofNat 16 (fA w).toNat) (offOf w lit))) := by
  rw [decodeS, h]
  rfl

/-- An A field of 17 to 31 names its counter. -/
theorem decodeS_loop_ok {w : BWord} (h : fOp w = 0x57) {lit : Option BWord} (hA : 17 ≤ (fA w).toNat ∧ (fA w).toNat ≤ 31)
    (hlit : lit = none ∨ fOff w = 0) : decodeS w lit = .ok (.loop (Fin.ofNat 16 (fA w).toNat) (offOf w lit)) := by
  obtain ⟨hlo, hhi⟩ := hA
  have hoff : (lit.isNone || fOff w == 0) = true := by
    rcases hlit with rfl | h0
    · rfl
    · rw [h0, beq_self_eq_true, Bool.or_true]
  rw [decodeS_loop h, hoff, decide_eq_true hlo, decide_eq_true (Nat.lt_succ_of_le hhi)]
  rfl

/-- Any other A field is an illegal opcode. -/
theorem decodeS_loop_illegal {w : BWord} (h : fOp w = 0x57) (hA : ¬(17 ≤ (fA w).toNat ∧ (fA w).toNat ≤ 31))
    (lit : Option BWord) : decodeS w lit = .error .illegalOpcode := by
  rw [decodeS_loop h, needI, if_neg]
  simp only [Bool.and_eq_true, decide_eq_true_eq]
  omega

/-- The operands of a bundle stay those of its issue while one of them is read (R139). -/
theorem readS_pre {s s' : State} {sp : SSpec} {pos : Nat} {v : Word} (h : readS s sp pos = .ok v s') : s'.pre = s.pre :=
  congrArg Issue.pre (State.issue_of_only (readS_only h))

/-- The step of LOOP, once its counter is read. -/
theorem execLoop_of_read {s s1 : State} {n : Fin 16} {x : Word} (o : Off) (h : readS s (.x n) 0 = .ok x s1) :
    execLoop n o s =
      .next (if x - 1 = 0 then s1.result (x - 1) 1 n else (s1.result (x - 1) 1 n).transfer (sbTarget s o)) := by
  have htarget : sbTarget (s1.result (x - 1) 1 n) o = sbTarget s o := by
    rw [sbTarget, sbTarget, State.result, State.pre_upd, readS_pre h]
  rw [execLoop, h, SlotRes.bind_ok, ← htarget]
  rfl

/-- A counter that starts at zero is not zero again before 2^64 rounds. -/
theorem zero_sub_ofNat_ne_zero {m : Nat} (hpos : 0 < m) (hlt : m < 2 ^ 64) : (0 : Word) - BitVec.ofNat 64 m ≠ 0 := by
  bv_omega

/-- Settles O6: the step from the counter read, the words from LOOP's row of the S map, the rounds from arithmetic modulo
2^64. -/
theorem loopDecrementsAndBranches : Obligations.LoopDecrementsAndBranches := by
  refine ⟨?_, ?_, fun m => zero_sub_ofNat_ne_zero, by decide⟩
  · intro s s1 n o x h
    simp only [ne_eq, ite_not]
    cases o with
    | off18 v => exact execLoop_of_read (.off18 v) h
    | lit v => exact execLoop_of_read (.lit v) h
  · intro w hop
    exact ⟨fun hA => ⟨decodeS_loop_ok hop hA (.inl rfl), fun v hoff => decodeS_loop_ok hop hA (.inr hoff)⟩,
      fun hA => decodeS_loop_illegal hop hA⟩

end Sys2Proof.Machine
end

section
/-! Encoding and decoding undo each other (R262-R277): one lemma for each format of the decoder says which instructions it
reads and which words those are, and the rows of a map are settled by their formats. -/

namespace Sys2Proof

/-! ### Parts of a word -/

/-- Neighbouring parts of a word make one part. -/
theorem extract_append {n : Nat} (x : BitVec n) (s a b : Nat) :
    x.extractLsb' (s + b) a ++ x.extractLsb' s b = x.extractLsb' s (a + b) :=
  BitVec.extractLsb'_append_extractLsb'_eq_extractLsb' rfl

/-- A bit of a word as a part of it. -/
theorem bit1_getLsbD {n : Nat} (x : BitVec n) (i : Nat) : bit1 (x.getLsbD i) = x.extractLsb' i 1 := by
  apply BitVec.eq_of_getLsbD_eq
  intro j hj
  obtain rfl : j = 0 := by omega
  simp [bit1]

/-- A part of a part that is zero is zero. -/
theorem extract_zero_of {n s l s' l' : Nat} {x : BitVec n} (h : x.extractLsb' s l = 0) (hs : s ≤ s') (hl : s' + l' ≤ s + l) :
    x.extractLsb' s' l' = 0 := by
  apply BitVec.eq_of_getLsbD_eq
  intro i hi
  have hbit : (x.extractLsb' s l).getLsbD (s' - s + i) = false := by rw [h]; simp
  simp only [BitVec.getLsbD_extractLsb', show s' - s + i < l by omega, show s + (s' - s + i) = s' + i by omega] at hbit
  simpa [hi] using hbit

/-- A part of a part of a word. -/
theorem extract_extract {n s l s' l' : Nat} (x : BitVec n) (h : s' + l' ≤ l) :
    (x.extractLsb' s l).extractLsb' s' l' = x.extractLsb' (s + s') l' := by
  apply BitVec.eq_of_getLsbD_eq
  intro i hi
  simp [hi, show s' + i < l by omega, Nat.add_assoc]

/-- A word with zeros above its low bits. -/
theorem zero_append_extract {m n : Nat} {x : BitVec (m + n)} (h : x.extractLsb' n m = 0) : 0#m ++ x.extractLsb' 0 n = x := by
  have hx := extract_append x 0 m n
  rw [Nat.zero_add] at hx
  rw [show 0#m = x.extractLsb' n m from h.symm, hx, BitVec.extractLsb'_eq_self]

/-- The same, where one bit lies above. -/
theorem zero1_append_extract {n : Nat} {x : BitVec (1 + n)} (h : x.getLsbD n = false) : 0#1 ++ x.extractLsb' 0 n = x :=
  zero_append_extract (by rw [← bit1_getLsbD, h]; rfl)

theorem ofNat_toFin {n : Nat} (x : BitVec n) : BitVec.ofNat n x.toFin.val = x := by simp

/-! ### What the checks of the decoder pass on -/

theorem needI_ok {b : Bool} {k : Dec} {i : Instr} (h : needI b k = .ok i) : b = true ∧ k = .ok i := by
  cases b with
  | true => exact ⟨rfl, h⟩
  | false => cases h

theorem needT_ok {b : Bool} {k : Dec} {i : Instr} (h : needT b k = .ok i) : b = true ∧ k = .ok i := by
  cases b with
  | true => exact ⟨rfl, h⟩
  | false => cases h

theorem orErr_ok {α : Type} {e : DecErr} {o : Option α} {k : α → Dec} {i : Instr} (h : orErr e o k = .ok i) :
    ∃ a, o = some a ∧ k a = .ok i := by
  cases o with
  | some a => exact ⟨a, rfl, h⟩
  | none => cases h

theorem withS_ok {pos : Nat} {b : BitVec 6} {k : SSpec → Dec} {i : Instr} (h : withS pos b k = .ok i) :
    ∃ a, a.toBits = b ∧ k a = .ok i := by
  obtain ⟨a, ha, hk⟩ := orErr_ok h
  exact ⟨a, SSpec.toBits_of ha, hk⟩

theorem withV_ok {pos : Nat} {b : BitVec 6} {k : VSpec → Dec} {i : Instr} (h : withV pos b k = .ok i) :
    ∃ a, a.toBits = b ∧ k a = .ok i := by
  obtain ⟨a, ha, hk⟩ := orErr_ok h
  exact ⟨a, VSpec.toBits_of ha, hk⟩

theorem withW_ok {b : BitVec 5} {k : WReg → Dec} {i : Instr} (h : withW b k = .ok i) :
    ∃ r, wToBits r = b ∧ k r = .ok i := by
  obtain ⟨r, hr, hk⟩ := orErr_ok h
  exact ⟨r, wToBits_of hr, hk⟩

theorem withT_ok {w : BWord} {k : Ty → Dec} {i : Instr} (h : withT w k = .ok i) : ∃ t, t.toBits = fT w ∧ k t = .ok i := by
  obtain ⟨t, ht, hk⟩ := orErr_ok h
  exact ⟨t, Ty.toBits_of ht, hk⟩

theorem litOk_iff {b : BitVec 6} {lit : Option BWord} : litOk b lit = true ↔ ∀ v, lit = some v → b = 0 := by
  cases lit <;> simp [litOk]

theorem withSO_ok {pos : Nat} {b : BitVec 6} {lit : Option BWord} {k : SOpnd → Dec} {i : Instr} (hlit : litOk b lit = true)
    (h : withSO pos b lit k = .ok i) : ∃ o : SOpnd, o.bits = b ∧ o.litOf = lit ∧ k o = .ok i := by
  cases lit with
  | some v => exact ⟨.lit v, (litOk_iff.1 hlit v rfl).symm, rfl, h⟩
  | none =>
    obtain ⟨a, ha, hk⟩ := withS_ok h
    exact ⟨.spec a, ha, rfl, hk⟩

theorem withVO_ok {pos : Nat} {b : BitVec 6} {lit : Option BWord} {k : VOpnd → Dec} {i : Instr} (hlit : litOk b lit = true)
    (h : withVO pos b lit k = .ok i) : ∃ o : VOpnd, o.bits = b ∧ o.litOf = lit ∧ k o = .ok i := by
  cases lit with
  | some v => exact ⟨.lit v, (litOk_iff.1 hlit v rfl).symm, rfl, h⟩
  | none =>
    obtain ⟨a, ha, hk⟩ := withV_ok h
    exact ⟨.spec a, ha, rfl, hk⟩

theorem checked_ok {j i : Instr} (h : checked j = .ok i) : fieldsOk j = true ∧ typesOk j = true ∧ j = i := by
  obtain ⟨hf, h⟩ := needI_ok h
  obtain ⟨ht, h⟩ := needT_ok h
  cases h
  exact ⟨hf, ht, rfl⟩

theorem offOf_bits {w : BWord} {lit : Option BWord} (h : (lit.isNone || fOff w == 0) = true) :
    (offOf w lit).bits = fOff w ∧ (offOf w lit).litOf = lit := by
  cases lit with
  | none => exact ⟨rfl, rfl⟩
  | some l => exact ⟨(by simpa using h : fOff w = 0).symm, rfl⟩

theorem flag_of {f : BitVec 7} (h : f.extractLsb' 1 6 = 0) : 0#6 ++ bit1 (f.getLsbD 0) = f := by
  rw [bit1_getLsbD, show 0#6 = f.extractLsb' (0 + 1) 6 from h.symm, extract_append]
  exact BitVec.extractLsb'_eq_self

theorem fOp_of {w : BWord} {n : Nat} (h : (fOp w).toNat = n) : BitVec.ofNat 8 n = fOp w := by
  rw [← h, BitVec.ofNat_toNat, BitVec.setWidth_eq]

/-! ### What a format reads -/

/-- A decoded instruction is well formed, and its encoding is the word and the literal that it was read from. -/
def Reads (cls : SlotClass) (w : BWord) (lit : Option BWord) (i : Instr) : Prop :=
  i.wellFormed = true ∧ encode i = some ⟨cls, w, lit⟩

theorem Instr.wellFormed_of {i : Instr} (htypes : typesOk i = true) (hfields : fieldsOk i = true) (hstep : stepOk i = true) :
    i.wellFormed = true := by
  rw [Instr.wellFormed, htypes, hfields, hstep]
  rfl

/-- An instruction is written so, whatever it is read from. -/
def Writes (i : Instr) (e : Encoded) : Prop := i.wellFormed = true ∧ encode i = some e

theorem Writes.reads {cls : SlotClass} {w : BWord} {lit : Option BWord} {i : Instr} {e : Encoded} (h : Writes i e)
    (he : e = ⟨cls, w, lit⟩) : Reads cls w lit i := ⟨h.1, he ▸ h.2⟩

section
variable {w : BWord} {lit : Option BWord} {i : Instr} {n : Nat} (hop : (fOp w).toNat = n)
include hop

theorem saBinW_reads {k : SSpec → SOpnd → WReg → Bool → Instr} (hd : saBinW w lit k = .ok i)
    (row : ∀ a b r s, Writes (k a b r s) (encSAw (BitVec.ofNat 8 n) a b r s)) : Reads .s w lit i := by
  obtain ⟨hf, h⟩ := needI_ok hd
  simp only [Bool.and_eq_true, beq_iff_eq] at hf
  obtain ⟨hf, hlit⟩ := hf
  obtain ⟨a, ha, h⟩ := withS_ok h
  obtain ⟨b, hb, hl, h⟩ := withSO_ok hlit h
  obtain ⟨r, hr, h⟩ := withW_ok h
  cases h
  refine (row ..).reads ?_
  rw [encSAw, ha, hb, hr, hl, flag_of hf, fOp_of hop, packSA_fields]

theorem saBin_reads {k : SSpec → SOpnd → WReg → Instr} (hd : saBin w lit k = .ok i)
    (row : ∀ a b r, Writes (k a b r) (encSA (BitVec.ofNat 8 n) a b r 0)) : Reads .s w lit i := by
  obtain ⟨hf, h⟩ := needI_ok hd
  simp only [Bool.and_eq_true, beq_iff_eq] at hf
  obtain ⟨hf, hlit⟩ := hf
  obtain ⟨a, ha, h⟩ := withS_ok h
  obtain ⟨b, hb, hl, h⟩ := withSO_ok hlit h
  obtain ⟨r, hr, h⟩ := withW_ok h
  cases h
  refine (row ..).reads ?_
  rw [encSA, ha, hb, hr, hl, ← hf, fOp_of hop, packSA_fields]

theorem saUnW_reads {k : SSpec → WReg → Bool → Instr} (hd : saUnW w lit k = .ok i)
    (row : ∀ a r s, Writes (k a r s) (encSAu (BitVec.ofNat 8 n) a r (0#6 ++ bit1 s))) : Reads .s w lit i := by
  obtain ⟨hf, h⟩ := needI_ok hd
  simp only [Bool.and_eq_true, beq_iff_eq, Option.isNone_iff_eq_none] at hf
  obtain ⟨⟨hf, hb⟩, rfl⟩ := hf
  obtain ⟨a, ha, h⟩ := withS_ok h
  obtain ⟨r, hr, h⟩ := withW_ok h
  cases h
  refine (row ..).reads ?_
  rw [encSAu, ha, hr, flag_of hf, ← hb, fOp_of hop, packSA_fields]

theorem saUn_reads {k : SSpec → WReg → Instr} (hd : saUn w lit k = .ok i)
    (row : ∀ a r, Writes (k a r) (encSAu (BitVec.ofNat 8 n) a r 0)) : Reads .s w lit i := by
  obtain ⟨hf, h⟩ := needI_ok hd
  simp only [Bool.and_eq_true, beq_iff_eq, Option.isNone_iff_eq_none] at hf
  obtain ⟨⟨hf, hb⟩, rfl⟩ := hf
  obtain ⟨a, ha, h⟩ := withS_ok h
  obtain ⟨r, hr, h⟩ := withW_ok h
  cases h
  refine (row ..).reads ?_
  rw [encSAu, ha, hr, ← hf, ← hb, fOp_of hop, packSA_fields]

theorem saUnN_reads {k : SSpec → Instr} (hd : saUnN w lit k = .ok i)
    (row : ∀ a, Writes (k a) ⟨.s, packSA (BitVec.ofNat 8 n) a.toBits 0 0 0, none⟩) : Reads .s w lit i := by
  obtain ⟨hf, h⟩ := needI_ok hd
  simp only [Bool.and_eq_true, beq_iff_eq, Option.isNone_iff_eq_none] at hf
  obtain ⟨⟨⟨hf, hb⟩, hr⟩, rfl⟩ := hf
  obtain ⟨a, ha, h⟩ := withS_ok h
  cases h
  refine (row ..).reads ?_
  have hw := packSA_fields w
  rw [hf, hb, hr] at hw
  rw [ha, fOp_of hop, hw]

theorem saBinN_reads {k : SSpec → SOpnd → Instr} (hd : saBinN w lit k = .ok i)
    (row : ∀ a b, Writes (k a b) (encSA (BitVec.ofNat 8 n) a b 0 0)) : Reads .s w lit i := by
  obtain ⟨hf, h⟩ := needI_ok hd
  simp only [Bool.and_eq_true, beq_iff_eq] at hf
  obtain ⟨⟨hf, hr⟩, hlit⟩ := hf
  obtain ⟨a, ha, h⟩ := withS_ok h
  obtain ⟨b, hb, hl, h⟩ := withSO_ok hlit h
  cases h
  refine (row ..).reads ?_
  rw [encSA, ha, hb, hl, show wToBits 0 = fW w from hr.symm, ← hf, fOp_of hop, packSA_fields]

theorem siImm_reads {k : SSpec → WReg → Imm → Instr} (hd : siImm w lit k = .ok i)
    (row : ∀ a r m, a.toBits = fA w → Writes (k a r m) ⟨.s, packSI (BitVec.ofNat 8 n) a.toBits (wToBits r) m.bits, m.litOf⟩) :
    Reads .s w lit i := by
  obtain ⟨hf, h⟩ := needI_ok hd
  obtain ⟨a, ha, h⟩ := withS_ok h
  obtain ⟨r, hr, h⟩ := withW_ok h
  cases h
  refine (row a r _ ha).reads ?_
  cases lit with
  | none =>
    show Encoded.mk .s (packSI _ a.toBits (wToBits r) (fImm w)) none = _
    rw [ha, hr, fOp_of hop, packSI_fields]
  | some v =>
    have himm : (0 : BitVec 13) = fImm w := (by simpa using hf : fImm w = 0).symm
    show Encoded.mk .s (packSI _ a.toBits (wToBits r) 0) (some v) = _
    rw [ha, hr, himm, fOp_of hop, packSI_fields]

theorem siShift_reads {k : SSpec → WReg → Bool → BitVec 6 → Instr} (hd : siShift w lit k = .ok i)
    (row : ∀ a r s m, Writes (k a r s m) (encSIx (BitVec.ofNat 8 n) a.toBits (wToBits r) (0#6 ++ bit1 s ++ m))) :
    Reads .s w lit i := by
  obtain ⟨hf, h⟩ := needI_ok hd
  simp only [Bool.and_eq_true, beq_iff_eq, Option.isNone_iff_eq_none] at hf
  obtain ⟨hf, rfl⟩ := hf
  obtain ⟨a, ha, h⟩ := withS_ok h
  obtain ⟨r, hr, h⟩ := withW_ok h
  cases h
  refine (row ..).reads ?_
  have himm : 0#6 ++ bit1 ((fImm w).getLsbD 6) ++ (fImm w).extractLsb' 0 6 = fImm w := by
    rw [bit1_getLsbD, show 0#6 = (fImm w).extractLsb' (6 + 1) 6 from hf.symm, extract_append]
    exact (extract_append (fImm w) 0 7 6).trans BitVec.extractLsb'_eq_self
  rw [encSIx, ha, hr, himm, fOp_of hop, packSI_fields]

theorem sbA_reads {k : SSpec → Off → Instr} (hd : sbA w lit k = .ok i)
    (row : ∀ a o, Writes (k a o) (encSB (BitVec.ofNat 8 n) a.toBits o)) : Reads .s w lit i := by
  obtain ⟨hf, h⟩ := needI_ok hd
  obtain ⟨a, ha, h⟩ := withS_ok h
  obtain ⟨hbits, hl⟩ := offOf_bits hf
  cases h
  refine (row ..).reads ?_
  rw [encSB, ha, hbits, hl, fOp_of hop, packSB_fields]

theorem sbN_reads {k : Off → Instr} (hd : sbN w lit k = .ok i)
    (row : ∀ o, Writes (k o) (encSB (BitVec.ofNat 8 n) 0 o)) : Reads .s w lit i := by
  obtain ⟨hf, h⟩ := needI_ok hd
  simp only [Bool.and_eq_true, beq_iff_eq] at hf
  obtain ⟨hbits, hl⟩ := offOf_bits hf.1
  cases h
  refine (row ..).reads ?_
  rw [encSB, ← hf.2, hbits, hl, fOp_of hop, packSB_fields]

/-- A word with nothing below its opcode. -/
theorem bare_reads {j : Instr} {cls : SlotClass} (hd : bare w lit j = .ok i)
    (row : Writes j ⟨cls, BitVec.ofNat 8 n ++ 0#24, none⟩) : Reads cls w lit i := by
  obtain ⟨hf, h⟩ := needI_ok hd
  simp only [Bool.and_eq_true, beq_iff_eq, Option.isNone_iff_eq_none] at hf
  obtain ⟨hf, rfl⟩ := hf
  obtain rfl := Except.ok.inj h
  refine row.reads ?_
  rw [fOp_of hop, show 0#24 = w.extractLsb' 0 24 from hf.symm]
  exact congrArg (Encoded.mk cls · none) ((extract_append w 0 8 24).trans BitVec.extractLsb'_eq_self)

theorem vaAB_reads {pz : Bool} {k : VSpec → VOpnd → Ty → BitVec 2 → Instr} (hd : vaAB w lit pz k = .ok i)
    (row : ∀ a b t, (pz = true → fP w = 0) → stepOk (k a b t (fP w)) = true ∧
      encode (k a b t (fP w)) = some (encV2 (BitVec.ofNat 8 n) a b t (fP w))) : Reads .v w lit i := by
  obtain ⟨hf, h⟩ := needI_ok hd
  simp only [Bool.and_eq_true, Bool.or_eq_true, beq_iff_eq, Bool.not_eq_true'] at hf
  obtain ⟨⟨⟨hc, hlit⟩, hp⟩, -⟩ := hf
  obtain ⟨a, ha, h⟩ := withV_ok h
  obtain ⟨b, hb, hl, h⟩ := withVO_ok hlit h
  obtain ⟨t, ht, h⟩ := withT_ok h
  obtain ⟨hfields, htypes, rfl⟩ := checked_ok h
  obtain ⟨hs, he⟩ := row a b t fun hz => hp.resolve_left (by simp [hz])
  refine ⟨Instr.wellFormed_of htypes hfields hs, he.trans ?_⟩
  rw [encV2, ha, hb, hl, ← hc, ht, fOp_of hop, packVA_fields]

theorem vaABC_reads {pz : Bool} {k : VSpec → VOpnd → VSpec → Ty → BitVec 2 → Instr} (hd : vaABC w lit pz k = .ok i)
    (row : ∀ a b c t, (pz = true → fP w = 0) → stepOk (k a b c t (fP w)) = true ∧
      encode (k a b c t (fP w)) = some (encV3 (BitVec.ofNat 8 n) a b c t (fP w))) : Reads .v w lit i := by
  obtain ⟨hf, h⟩ := needI_ok hd
  simp only [Bool.and_eq_true, Bool.or_eq_true, beq_iff_eq, Bool.not_eq_true'] at hf
  obtain ⟨hlit, hp⟩ := hf
  obtain ⟨a, ha, h⟩ := withV_ok h
  obtain ⟨b, hb, hl, h⟩ := withVO_ok hlit h
  obtain ⟨c, hc, h⟩ := withV_ok h
  obtain ⟨t, ht, h⟩ := withT_ok h
  obtain ⟨hfields, htypes, rfl⟩ := checked_ok h
  obtain ⟨hs, he⟩ := row a b c t fun hz => hp.resolve_left (by simp [hz])
  refine ⟨Instr.wellFormed_of htypes hfields hs, he.trans ?_⟩
  rw [encV3, ha, hb, hl, hc, ht, fOp_of hop, packVA_fields]

theorem vaA_reads {pz : Bool} {k : VSpec → Ty → BitVec 2 → Instr} (hd : vaA w lit pz k = .ok i)
    (row : ∀ a t, (pz = true → fP w = 0) → stepOk (k a t (fP w)) = true ∧
      encode (k a t (fP w)) = some (encV1 (BitVec.ofNat 8 n) a t (fP w))) : Reads .v w lit i := by
  obtain ⟨hf, h⟩ := needI_ok hd
  simp only [Bool.and_eq_true, Bool.or_eq_true, beq_iff_eq, Bool.not_eq_true', Option.isNone_iff_eq_none] at hf
  obtain ⟨⟨⟨⟨hc, hb⟩, rfl⟩, hp⟩, -⟩ := hf
  obtain ⟨a, ha, h⟩ := withV_ok h
  obtain ⟨t, ht, h⟩ := withT_ok h
  obtain ⟨hfields, htypes, rfl⟩ := checked_ok h
  obtain ⟨hs, he⟩ := row a t fun hz => hp.resolve_left (by simp [hz])
  refine ⟨Instr.wellFormed_of htypes hfields hs, he.trans ?_⟩
  have hw := packVA_fields w
  rw [hc, hb] at hw
  rw [encV1, ha, ht, fOp_of hop, hw]

theorem mxOuter_reads {k : Fin 8 → Fin 8 → Fin 8 → BitVec 8 → Bool → Instr} (hd : mxOuter w k = .ok i)
    (row : ∀ z a b m s, Writes (k z a b m s) (encMX (BitVec.ofNat 8 n) z a b m (0#6 ++ bit1 s))) : Reads .m w none i := by
  obtain ⟨hf, h⟩ := needI_ok hd
  rw [beq_iff_eq] at hf
  cases h
  refine (row ..).reads ?_
  rw [encMX, ofNat_toFin, ofNat_toFin, ofNat_toFin, flag_of hf, fOp_of hop, packMX_fields]

theorem cxABC_reads {k : Fin 64 → SSpec → SSpec → SOpnd → Instr} (hd : cxABC w lit k = .ok i)
    (row : ∀ g a b c, Writes (k g a b c) (encCX (BitVec.ofNat 8 n) g a.toBits b.toBits c)) : Reads .c w lit i := by
  obtain ⟨hlit, h⟩ := needI_ok hd
  obtain ⟨a, ha, h⟩ := withS_ok h
  obtain ⟨b, hb, h⟩ := withS_ok h
  obtain ⟨c, hc, hl, h⟩ := withSO_ok hlit h
  cases h
  refine (row ..).reads ?_
  rw [encCX, ofNat_toFin, ha, hb, hc, hl, fOp_of hop, packCX_fields]

theorem cxAC_reads {k : Fin 64 → SSpec → SOpnd → Instr} (hd : cxAC w lit k = .ok i)
    (row : ∀ g a c, Writes (k g a c) (encCX (BitVec.ofNat 8 n) g a.toBits 0 c)) : Reads .c w lit i := by
  obtain ⟨hf, h⟩ := needI_ok hd
  simp only [Bool.and_eq_true, beq_iff_eq] at hf
  obtain ⟨hlit, hb⟩ := hf
  obtain ⟨a, ha, h⟩ := withS_ok h
  obtain ⟨c, hc, hl, h⟩ := withSO_ok hlit h
  cases h
  refine (row ..).reads ?_
  rw [encCX, ofNat_toFin, ha, ← hb, hc, hl, fOp_of hop, packCX_fields]

theorem cxAB_reads {k : Fin 64 → SSpec → SSpec → Instr} (hd : cxAB w lit k = .ok i)
    (row : ∀ g a b, Writes (k g a b) (encCX0 (BitVec.ofNat 8 n) (BitVec.ofNat 6 g.val) a.toBits b.toBits)) :
    Reads .c w lit i := by
  obtain ⟨hf, h⟩ := needI_ok hd
  simp only [Bool.and_eq_true, beq_iff_eq, Option.isNone_iff_eq_none] at hf
  obtain ⟨rfl, hc⟩ := hf
  obtain ⟨a, ha, h⟩ := withS_ok h
  obtain ⟨b, hb, h⟩ := withS_ok h
  cases h
  refine (row ..).reads ?_
  rw [encCX0, ofNat_toFin, ha, hb, ← hc, fOp_of hop, packCX_fields]

theorem cxA_reads {k : SSpec → Instr} (hd : cxA w lit k = .ok i)
    (row : ∀ a, Writes (k a) (encCX0 (BitVec.ofNat 8 n) 0 a.toBits 0)) : Reads .c w lit i := by
  obtain ⟨hf, h⟩ := needI_ok hd
  simp only [Bool.and_eq_true, beq_iff_eq, Option.isNone_iff_eq_none] at hf
  obtain ⟨⟨⟨rfl, hg⟩, hb⟩, hc⟩ := hf
  obtain ⟨a, ha, h⟩ := withS_ok h
  cases h
  refine (row ..).reads ?_
  have hw := packCX_fields w
  rw [hg, hb, hc] at hw
  rw [encCX0, ha, fOp_of hop, hw]

end


/-! ### The rows of the S map that have a format of their own -/

theorem Cond.code_of {n : Nat} {c : Cond} (h : Cond.ofCode n = some c) : c.code = n := by
  unfold Cond.ofCode at h
  split at h <;> cases h <;> rfl

theorem AmoOp.code_of {n : Nat} {o : AmoOp} (h : AmoOp.ofCode n = some o) : o.code = n := by
  unfold AmoOp.ofCode at h
  split at h <;> cases h <;> rfl

section
variable {w : BWord} {lit : Option BWord} {i : Instr}

theorem trap_reads (hop : (fOp w).toNat = 0x04) (hd : decodeS w lit = .ok i) : Reads .s w lit i := by
  rw [decodeS, hop] at hd
  obtain ⟨hf, h⟩ := needI_ok hd
  simp only [Bool.and_eq_true, beq_iff_eq, Option.isNone_iff_eq_none] at hf
  obtain ⟨⟨ha, hr⟩, rfl⟩ := hf
  cases h
  refine Writes.reads ⟨rfl, rfl⟩ ?_
  rw [encSIx, ← ha, ← hr, show (0x04 : BitVec 8) = fOp w from fOp_of hop, packSI_fields]

theorem cmp_reads (hop : (fOp w).toNat = 0x28) (hd : decodeS w lit = .ok i) : Reads .s w lit i := by
  rw [decodeS, hop] at hd
  obtain ⟨hf, h⟩ := needI_ok hd
  rw [Bool.and_eq_true, decide_eq_true_eq] at hf
  obtain ⟨hlt, hlit⟩ := hf
  obtain ⟨c, hc, h⟩ := orErr_ok h
  obtain ⟨a, ha, h⟩ := withS_ok h
  obtain ⟨b, hb, hl, h⟩ := withSO_ok hlit h
  obtain ⟨r, hr, h⟩ := withW_ok h
  cases h
  have hcode := Cond.code_of hc
  have hfields : c ≠ .un ∧ c ≠ .ord := by
    rw [← hcode] at hlt
    constructor <;> rintro rfl <;> exact absurd hlt (by decide)
  refine Writes.reads ⟨by simp [Instr.wellFormed, fieldsOk, typesOk, stepOk, hfields], rfl⟩ ?_
  rw [encSA, ha, hb, hr, hl, hcode, BitVec.ofNat_toNat, BitVec.setWidth_eq, show (0x28 : BitVec 8) = fOp w from fOp_of hop, packSA_fields]

theorem sel_reads (hop : (fOp w).toNat = 0x29) (hd : decodeS w lit = .ok i) : Reads .s w lit i := by
  rw [decodeS, hop] at hd
  obtain ⟨hf, h⟩ := needI_ok hd
  rw [Bool.and_eq_true, beq_iff_eq] at hf
  obtain ⟨hf, hlit⟩ := hf
  obtain ⟨a, ha, h⟩ := withS_ok h
  obtain ⟨b, hb, hl, h⟩ := withSO_ok hlit h
  obtain ⟨r, hr, h⟩ := withW_ok h
  obtain ⟨c, hc, h⟩ := withS_ok h
  cases h
  refine Writes.reads ⟨rfl, rfl⟩ ?_
  rw [encSA, ha, hb, hr, hl, hc, zero1_append_extract (x := fF w) (n := 6) hf, show (0x29 : BitVec 8) = fOp w from fOp_of hop, packSA_fields]

theorem agen_reads (hop : (fOp w).toNat = 0x2A) (hd : decodeS w lit = .ok i) : Reads .s w lit i := by
  rw [decodeS, hop] at hd
  obtain ⟨hf, h⟩ := needI_ok hd
  rw [Bool.and_eq_true, beq_iff_eq] at hf
  obtain ⟨hf, hlit⟩ := hf
  obtain ⟨a, ha, h⟩ := withS_ok h
  obtain ⟨b, hb, hl, h⟩ := withSO_ok hlit h
  obtain ⟨r, hr, h⟩ := withW_ok h
  cases h
  refine Writes.reads ⟨rfl, rfl⟩ ?_
  rw [encSA, ha, hb, hr, hl, ofNat_toFin, zero_append_extract (x := fF w) (m := 3) (n := 4) hf, show (0x2A : BitVec 8) = fOp w from fOp_of hop, packSA_fields]

theorem bfi_reads (hop : (fOp w).toNat = 0x2B) (hd : decodeS w lit = .ok i) : Reads .s w lit i := by
  rw [decodeS, hop] at hd
  obtain ⟨hf, h⟩ := needI_ok hd
  rw [Bool.and_eq_true, beq_iff_eq] at hf
  obtain ⟨hf, hlit⟩ := hf
  obtain ⟨a, ha, h⟩ := withS_ok h
  obtain ⟨b, hb, hl, h⟩ := withSO_ok hlit h
  obtain ⟨r, hr, h⟩ := withW_ok h
  obtain ⟨v, hv, h⟩ := withS_ok h
  cases h
  refine Writes.reads ⟨rfl, rfl⟩ ?_
  rw [encSA, ha, hb, hr, hl, hv, zero1_append_extract (x := fF w) (n := 6) hf, show (0x2B : BitVec 8) = fOp w from fOp_of hop, packSA_fields]

/-- The code of a form of MOVX (R291). -/
def MovxForm.code : MovxForm → BitVec 2
  | .rdX => 0
  | .rdT => 2
  | .wrX => 1

theorem encode_movx (a : SSpec) (r : WReg) (k : Fin 16) (m : MovxForm) :
    encode (.movx a r k m) = some (encSAu 0x2C a r (0#1 ++ BitVec.ofNat 4 k.val ++ m.code)) := by
  cases m <;> rfl

theorem movx_field : ∀ f : BitVec 7, f.getLsbD 6 = false → f.extractLsb' 0 2 ≠ 3 →
    0#1 ++ BitVec.ofNat 4 (f.extractLsb' 2 4).toFin.val ++
      (if f.getLsbD 0 then MovxForm.wrX else if f.getLsbD 1 then .rdT else .rdX).code = f := by
  decide

theorem movx_reads (hop : (fOp w).toNat = 0x2C) (hd : decodeS w lit = .ok i) : Reads .s w lit i := by
  rw [decodeS, hop] at hd
  obtain ⟨hf, h⟩ := needI_ok hd
  simp only [Bool.and_eq_true, beq_iff_eq, bne_iff_ne, Option.isNone_iff_eq_none] at hf
  obtain ⟨⟨⟨hf, hb⟩, rfl⟩, hform⟩ := hf
  obtain ⟨a, ha, h⟩ := withS_ok h
  obtain ⟨r, hr, h⟩ := withW_ok h
  cases h
  refine Writes.reads ⟨rfl, encode_movx ..⟩ ?_
  rw [movx_field (fF w) hf hform, encSAu, ha, hr, ← hb, show (0x2C : BitVec 8) = fOp w from fOp_of hop, packSA_fields]

theorem li_reads (hop : (fOp w).toNat = 0x30) (hd : decodeS w lit = .ok i) : Reads .s w lit i := by
  rw [decodeS, hop] at hd
  obtain ⟨hf, h⟩ := needI_ok hd
  rw [beq_iff_eq] at hf
  exact siImm_reads hop h fun a r m ha => ⟨rfl, by rw [ha, hf]; rfl⟩

theorem bfx_reads (hop : (fOp w).toNat = 0x38) (hd : decodeS w lit = .ok i) : Reads .s w lit i := by
  rw [decodeS, hop] at hd
  obtain ⟨hf, h⟩ := needI_ok hd
  rw [Bool.and_eq_true, Option.isNone_iff_eq_none] at hf
  obtain ⟨rfl, hlen⟩ := hf
  obtain ⟨a, ha, h⟩ := withS_ok h
  obtain ⟨r, hr, h⟩ := withW_ok h
  cases h
  have himm : bit1 ((fImm w).getLsbD 12) ++ (fImm w).extractLsb' 6 6 ++ (fImm w).extractLsb' 0 6 = fImm w := by
    rw [bit1_getLsbD, show (fImm w).extractLsb' 12 1 ++ (fImm w).extractLsb' 6 6 = (fImm w).extractLsb' 6 7 from
      extract_append (fImm w) 6 1 6]
    exact (extract_append (fImm w) 0 7 6).trans BitVec.extractLsb'_eq_self
  refine Writes.reads ⟨Instr.wellFormed_of rfl hlen rfl, rfl⟩ ?_
  rw [encSIx, ha, hr, himm, show (0x38 : BitVec 8) = fOp w from fOp_of hop, packSI_fields]

theorem ld_reads (hop : (fOp w).toNat = 0x40) (hd : decodeS w lit = .ok i) : Reads .s w lit i := by
  rw [decodeS, hop] at hd
  obtain ⟨z, hz, h⟩ := orErr_ok hd
  obtain ⟨a, ha, h⟩ := withS_ok h
  obtain ⟨r, hr, h⟩ := withW_ok h
  cases h
  refine Writes.reads ⟨rfl, rfl⟩ ?_
  have hw : 0x40#8 ++ fA w ++ fWi w ++ fLand w ++ fSz w = w := by
    rw [show 0x40#8 = fOp w from fOp_of hop, show fOp w ++ fA w = w.extractLsb' 18 14 from extract_append w 18 8 6,
      show w.extractLsb' 18 14 ++ fWi w = w.extractLsb' 13 19 from extract_append w 13 14 5,
      show w.extractLsb' 13 19 ++ fLand w = w.extractLsb' 3 29 from extract_append w 3 19 10]
    exact (extract_append w 0 29 3).trans BitVec.extractLsb'_eq_self
  rw [ha, hr, LdSz.toBits_of hz, hw]

theorem st_field : ∀ f : BitVec 7, f.extractLsb' 4 3 = 0 →
    0#3 ++ bit1 (f.getLsbD 3) ++ bit1 (f.getLsbD 2) ++ f.extractLsb' 0 2 = f := by
  decide

theorem st_reads (hop : (fOp w).toNat = 0x41) (hd : decodeS w lit = .ok i) : Reads .s w lit i := by
  rw [decodeS, hop] at hd
  obtain ⟨hf, h⟩ := needI_ok hd
  rw [Bool.and_eq_true, beq_iff_eq] at hf
  obtain ⟨a, ha, h⟩ := withS_ok h
  obtain ⟨b, hb, h⟩ := withS_ok h
  obtain ⟨r, hr, h⟩ := withW_ok h
  cases h
  refine Writes.reads ⟨Instr.wellFormed_of rfl hf.2 rfl, rfl⟩ ?_
  rw [ha, hb, hr, StSz.toBits_of, st_field _ hf.1, show (0x41 : BitVec 8) = fOp w from fOp_of hop, packSA_fields]

theorem spl_reads (hop : (fOp w).toNat = 0x42) (hd : decodeS w lit = .ok i) : Reads .s w lit i := by
  rw [decodeS, hop] at hd
  obtain ⟨hf, h⟩ := needI_ok hd
  simp only [Bool.and_eq_true, beq_iff_eq, Option.isNone_iff_eq_none] at hf
  obtain ⟨⟨hf, hr⟩, rfl⟩ := hf
  obtain ⟨a, ha, h⟩ := withS_ok h
  cases h
  refine Writes.reads ⟨rfl, rfl⟩ ?_
  rw [encSIx, ha, ← hr, zero_append_extract (x := fImm w) (m := 2) (n := 11) hf, show (0x42 : BitVec 8) = fOp w from fOp_of hop, packSI_fields]

theorem fil_reads (hop : (fOp w).toNat = 0x43) (hd : decodeS w lit = .ok i) : Reads .s w lit i := by
  rw [decodeS, hop] at hd
  obtain ⟨hf, h⟩ := needI_ok hd
  simp only [Bool.and_eq_true, beq_iff_eq, Option.isNone_iff_eq_none] at hf
  obtain ⟨⟨hf, ha⟩, rfl⟩ := hf
  obtain ⟨r, hr, h⟩ := withW_ok h
  cases h
  refine Writes.reads ⟨rfl, rfl⟩ ?_
  rw [encSIx, hr, ← ha, zero_append_extract (x := fImm w) (m := 2) (n := 11) hf, show (0x43 : BitVec 8) = fOp w from fOp_of hop, packSI_fields]

theorem amo_field : ∀ f : BitVec 7, f.getLsbD 6 = false →
    0#1 ++ bit1 (f.getLsbD 5) ++ bit1 (f.getLsbD 4) ++ f.extractLsb' 0 4 = f := by
  decide

theorem wToBits_eq_zero : ∀ r : WReg, wToBits r = 0 → r = 0 := by decide

theorem amo_reads (hop : (fOp w).toNat = 0x44) (hd : decodeS w lit = .ok i) : Reads .s w lit i := by
  rw [decodeS, hop] at hd
  obtain ⟨o, ho, h⟩ := orErr_ok hd
  obtain ⟨hf, h⟩ := needI_ok h
  simp only [Bool.and_eq_true, beq_iff_eq] at hf
  obtain ⟨⟨hf, hnr⟩, hfloat⟩ := hf
  obtain ⟨a, ha, h⟩ := withS_ok h
  obtain ⟨b, hb, h⟩ := withS_ok h
  obtain ⟨r, hr, h⟩ := withW_ok h
  cases h
  have hnr' : (!(fF w).getLsbD 5 || decide (r = 0)) = true := by
    rw [Bool.or_eq_true] at hnr ⊢
    exact hnr.imp_right fun h0 => decide_eq_true (wToBits_eq_zero r (hr.trans (beq_iff_eq.1 h0)))
  refine Writes.reads ⟨Instr.wellFormed_of rfl (Bool.and_eq_true_iff.2 ⟨hnr', hfloat⟩) rfl, rfl⟩ ?_
  rw [ha, hb, hr, AmoOp.code_of ho, BitVec.ofNat_toNat, BitVec.setWidth_eq, amo_field _ hf,
    show (0x44 : BitVec 8) = fOp w from fOp_of hop, packSA_fields]

theorem amocas_reads (hop : (fOp w).toNat = 0x45) (hd : decodeS w lit = .ok i) : Reads .s w lit i := by
  rw [decodeS, hop] at hd
  obtain ⟨a, ha, h⟩ := withS_ok hd
  obtain ⟨b, hb, h⟩ := withS_ok h
  obtain ⟨r, hr, h⟩ := withW_ok h
  obtain ⟨e, he, h⟩ := withS_ok h
  cases h
  have hfield : bit1 ((fF w).getLsbD 6) ++ (fF w).extractLsb' 0 6 = fF w := by
    rw [bit1_getLsbD]
    exact (extract_append (fF w) 0 1 6).trans BitVec.extractLsb'_eq_self
  refine Writes.reads ⟨rfl, rfl⟩ ?_
  rw [ha, hb, hr, he, hfield, show (0x45 : BitVec 8) = fOp w from fOp_of hop, packSA_fields]

theorem fence_field : ∀ f : BitVec 7, f.getLsbD 6 = false → 0#1 ++ f.extractLsb' 2 4 ++ f.extractLsb' 0 2 = f := by decide

theorem fence_reads (hop : (fOp w).toNat = 0x46) (hd : decodeS w lit = .ok i) : Reads .s w lit i := by
  rw [decodeS, hop] at hd
  obtain ⟨hf, h⟩ := needI_ok hd
  simp only [Bool.and_eq_true, beq_iff_eq, Option.isNone_iff_eq_none] at hf
  obtain ⟨⟨⟨⟨ha, hb⟩, hr⟩, hf⟩, rfl⟩ := hf
  cases h
  refine Writes.reads ⟨rfl, rfl⟩ ?_
  have hw := packSA_fields w
  rw [ha, hb, hr] at hw
  rw [fence_field _ hf, show (0x46 : BitVec 8) = fOp w from fOp_of hop, hw]

theorem loop_field : ∀ a : BitVec 6, 17 ≤ a.toNat → a.toNat < 32 →
    BitVec.ofNat 6 (16 + (Fin.ofNat 16 a.toNat).val) = a ∧ Fin.ofNat 16 a.toNat ≠ 0 := by
  decide

theorem loop_reads (hop : (fOp w).toNat = 0x57) (hd : decodeS w lit = .ok i) : Reads .s w lit i := by
  rw [decodeS, hop] at hd
  obtain ⟨hf, h⟩ := needI_ok hd
  simp only [Bool.and_eq_true, decide_eq_true_eq] at hf
  obtain ⟨⟨hoff, hlo⟩, hhi⟩ := hf
  obtain ⟨hbits, hl⟩ := offOf_bits hoff
  cases h
  obtain ⟨hfield, hne⟩ := loop_field (fA w) hlo hhi
  refine Writes.reads ⟨Instr.wellFormed_of rfl (decide_eq_true hne) rfl, rfl⟩ ?_
  rw [encSB, hfield, hbits, hl, show (0x57 : BitVec 8) = fOp w from fOp_of hop, packSB_fields]

theorem csrr_reads (hop : (fOp w).toNat = 0x70) (hd : decodeS w lit = .ok i) : Reads .s w lit i := by
  rw [decodeS, hop] at hd
  obtain ⟨hf, h⟩ := needI_ok hd
  simp only [Bool.and_eq_true, beq_iff_eq, Option.isNone_iff_eq_none] at hf
  obtain ⟨⟨⟨ha, hf⟩, rfl⟩, hcsr⟩ := hf
  obtain ⟨r, hr, h⟩ := withW_ok h
  cases h
  refine Writes.reads ⟨Instr.wellFormed_of rfl hcsr rfl, rfl⟩ ?_
  rw [encSIx, hr, ← ha, zero1_append_extract (x := fImm w) (n := 12) hf, show (0x70 : BitVec 8) = fOp w from fOp_of hop, packSI_fields]

theorem csrw_reads (hop : (fOp w).toNat = 0x71) (hd : decodeS w lit = .ok i) : Reads .s w lit i := by
  rw [decodeS, hop] at hd
  obtain ⟨hf, h⟩ := needI_ok hd
  simp only [Bool.and_eq_true, beq_iff_eq, Option.isNone_iff_eq_none] at hf
  obtain ⟨⟨⟨hr, hf⟩, rfl⟩, hcsr⟩ := hf
  obtain ⟨a, ha, h⟩ := withS_ok h
  cases h
  refine Writes.reads ⟨Instr.wellFormed_of rfl hcsr rfl, rfl⟩ ?_
  rw [encSIx, ha, ← hr, zero1_append_extract (x := fImm w) (n := 12) hf, show (0x71 : BitVec 8) = fOp w from fOp_of hop, packSI_fields]

theorem sbind_reads (hop : (fOp w).toNat = 0x72) (hd : decodeS w lit = .ok i) : Reads .s w lit i := by
  rw [decodeS, hop] at hd
  obtain ⟨hf, h⟩ := needI_ok hd
  simp only [Bool.and_eq_true, beq_iff_eq, Option.isNone_iff_eq_none] at hf
  obtain ⟨⟨hr, hf⟩, rfl⟩ := hf
  obtain ⟨a, ha, h⟩ := withS_ok h
  have himm : 0#1 ++ (fImm w).extractLsb' 4 8 ++ bit1 ((fImm w).getLsbD 3) ++
      BitVec.ofNat 3 ((fImm w).extractLsb' 0 3).toFin.val = fImm w := by
    have htop : 0#1 = (fImm w).extractLsb' 12 1 := by rw [← bit1_getLsbD, hf]; rfl
    rw [ofNat_toFin, bit1_getLsbD, htop,
      show (fImm w).extractLsb' 12 1 ++ (fImm w).extractLsb' 4 8 = (fImm w).extractLsb' 4 9 from extract_append (fImm w) 4 1 8,
      show (fImm w).extractLsb' 4 9 ++ (fImm w).extractLsb' 3 1 = (fImm w).extractLsb' 3 10 from extract_append (fImm w) 3 9 1]
    exact (extract_append (fImm w) 0 10 3).trans BitVec.extractLsb'_eq_self
  have henc : encSIx 0x72 a.toBits 0 (fImm w) = ⟨.s, w, none⟩ := by
    rw [encSIx, ha, ← hr, show (0x72 : BitVec 8) = fOp w from fOp_of hop, packSI_fields]
  split at h
  · next hwr =>
    cases h
    rw [hwr] at himm
    exact ⟨rfl, congrArg some ((congrArg (encSIx 0x72 a.toBits 0) himm).trans henc)⟩
  · next hrd =>
    cases h
    rw [Bool.eq_false_of_not_eq_true hrd] at himm
    exact ⟨rfl, congrArg some ((congrArg (encSIx 0x72 a.toBits 0) himm).trans henc)⟩

theorem sunbind_reads (hop : (fOp w).toNat = 0x73) (hd : decodeS w lit = .ok i) : Reads .s w lit i := by
  rw [decodeS, hop] at hd
  obtain ⟨hf, h⟩ := needI_ok hd
  simp only [Bool.and_eq_true, beq_iff_eq, Option.isNone_iff_eq_none] at hf
  obtain ⟨hf, rfl⟩ := hf
  cases h
  have ha : fA w = 0 := extract_zero_of hf (by decide) (by decide)
  have hr : fWi w = 0 := extract_zero_of hf (by decide) (by decide)
  have himm : (fImm w).extractLsb' 3 10 = 0 :=
    (extract_extract w (by decide)).trans (extract_zero_of hf (by decide) (by decide))
  refine Writes.reads ⟨rfl, rfl⟩ ?_
  have hw := packSI_fields w
  rw [ha, hr] at hw
  rw [encSIx, ofNat_toFin, zero_append_extract (x := fImm w) (m := 10) (n := 3) himm, show (0x73 : BitVec 8) = fOp w from fOp_of hop, hw]

theorem dmode_reads (hop : (fOp w).toNat = 0x75) (hd : decodeS w lit = .ok i) : Reads .s w lit i := by
  rw [decodeS, hop] at hd
  obtain ⟨hf, h⟩ := needI_ok hd
  simp only [Bool.and_eq_true, beq_iff_eq, Option.isNone_iff_eq_none] at hf
  obtain ⟨hf, rfl⟩ := hf
  cases h
  have hw : 0x75#8 ++ 0#23 ++ bit1 (w.getLsbD 0) = w := by
    rw [bit1_getLsbD, show 0x75#8 = fOp w from fOp_of hop, show 0#23 = w.extractLsb' 1 23 from hf.symm,
      show fOp w ++ w.extractLsb' 1 23 = w.extractLsb' 1 31 from extract_append w 1 8 23]
    exact (extract_append w 0 31 1).trans BitVec.extractLsb'_eq_self
  refine ⟨by split <;> rfl, ?_⟩
  rw [← congrArg (Encoded.mk .s · none) hw]
  cases w.getLsbD 0 <;> rfl

theorem fF_of {n : Nat} (h : (fF w).toNat = n) : BitVec.ofNat 7 n = fF w := by
  rw [← h, BitVec.ofNat_toNat, BitVec.setWidth_eq]

theorem tlbinv_reads (hop : (fOp w).toNat = 0x7C) (hd : decodeS w lit = .ok i) : Reads .s w lit i := by
  rw [decodeS, hop] at hd
  change (match (fF w).toNat with | 0 => _ | 1 => _ | 2 => _ | _ => _) = Except.ok i at hd
  split at hd
  case h_1 hF =>
    obtain ⟨hf, h⟩ := needI_ok hd
    rw [Bool.and_eq_true, beq_iff_eq, Option.isNone_iff_eq_none] at hf
    obtain ⟨hb, rfl⟩ := hf
    obtain ⟨a, ha, h⟩ := withS_ok h
    obtain ⟨r, hr, h⟩ := withW_ok h
    cases h
    refine Writes.reads ⟨rfl, rfl⟩ ?_
    rw [encSAu, ha, hr, ← hb, show (0 : BitVec 7) = fF w from fF_of hF, show (0x7C : BitVec 8) = fOp w from fOp_of hop, packSA_fields]
  case h_2 hF =>
    obtain ⟨hlit, h⟩ := needI_ok hd
    obtain ⟨a, ha, h⟩ := withS_ok h
    obtain ⟨b, hb, hl, h⟩ := withSO_ok hlit h
    obtain ⟨r, hr, h⟩ := withW_ok h
    cases h
    refine Writes.reads ⟨rfl, rfl⟩ ?_
    rw [encSA, ha, hb, hr, hl, show (1 : BitVec 7) = fF w from fF_of hF, show (0x7C : BitVec 8) = fOp w from fOp_of hop, packSA_fields]
  case h_3 hF =>
    obtain ⟨hf, h⟩ := needI_ok hd
    simp only [Bool.and_eq_true, beq_iff_eq, Option.isNone_iff_eq_none] at hf
    obtain ⟨⟨ha, hb⟩, rfl⟩ := hf
    obtain ⟨r, hr, h⟩ := withW_ok h
    cases h
    refine Writes.reads ⟨rfl, rfl⟩ ?_
    have hw := packSA_fields w
    rw [ha, hb] at hw
    rw [hr, show (2 : BitVec 7) = fF w from fF_of hF, show (0x7C : BitVec 8) = fOp w from fOp_of hop, hw]
  case h_4 => cases hd

theorem vote_reads (hop : (fOp w).toNat = 0x7E) (hd : decodeS w lit = .ok i) : Reads .s w lit i := by
  rw [decodeS, hop] at hd
  obtain ⟨hf, h⟩ := needI_ok hd
  simp only [Bool.and_eq_true, beq_iff_eq, Option.isNone_iff_eq_none] at hf
  obtain ⟨⟨ha, hb⟩, rfl⟩ := hf
  have henc : ∀ {r n}, wToBits r = fW w → (fF w).toNat = n →
      Encoded.mk .s (packSA 0x7E 0 0 (wToBits r) (BitVec.ofNat 7 n)) none = ⟨.s, w, none⟩ := by
    intro r n hr hF
    have hw := packSA_fields w
    rw [ha, hb] at hw
    rw [hr, fF_of hF, show (0x7E : BitVec 8) = fOp w from fOp_of hop, hw]
  split at h
  case h_1 hF => obtain ⟨r, hr, h⟩ := withW_ok h; cases h; exact Writes.reads ⟨rfl, rfl⟩ (henc hr hF)
  case h_2 hF => obtain ⟨r, hr, h⟩ := withW_ok h; cases h; exact Writes.reads ⟨rfl, rfl⟩ (henc hr hF)
  case h_3 hF => obtain ⟨r, hr, h⟩ := withW_ok h; cases h; exact Writes.reads ⟨rfl, rfl⟩ (henc hr hF)
  case h_4 => cases h

end

/-- What decodes in the S map reads back. -/
theorem decodeS_reads {w : BWord} {lit : Option BWord} {i : Instr} (hd : decodeS w lit = .ok i) : Reads .s w lit i := by
  have h := hd
  unfold decodeS at h
  split at h
  any_goals ((with_reducible refine saBinW_reads ‹_› h ?_); exact fun _ _ _ _ => ⟨rfl, rfl⟩)
  any_goals ((with_reducible refine saBin_reads ‹_› h ?_); exact fun _ _ _ => ⟨rfl, rfl⟩)
  any_goals ((with_reducible refine saUnW_reads ‹_› h ?_); exact fun _ _ _ => ⟨rfl, rfl⟩)
  any_goals ((with_reducible refine saUn_reads ‹_› h ?_); exact fun _ _ => ⟨rfl, rfl⟩)
  any_goals ((with_reducible refine saUnN_reads ‹_› h ?_); exact fun _ => ⟨rfl, rfl⟩)
  any_goals ((with_reducible refine saBinN_reads ‹_› h ?_); exact fun _ _ => ⟨rfl, rfl⟩)
  any_goals ((with_reducible refine siImm_reads ‹_› h ?_); exact fun _ _ _ _ => ⟨rfl, rfl⟩)
  any_goals ((with_reducible refine siShift_reads ‹_› h ?_); exact fun _ _ _ _ => ⟨rfl, rfl⟩)
  any_goals ((with_reducible refine sbA_reads ‹_› h ?_); exact fun _ _ => ⟨rfl, rfl⟩)
  any_goals ((with_reducible refine sbN_reads ‹_› h ?_); exact fun _ => ⟨rfl, rfl⟩)
  any_goals ((with_reducible refine bare_reads ‹_› h ?_); exact ⟨rfl, rfl⟩)
  next hop => exact trap_reads hop hd
  next hop => exact cmp_reads hop hd
  next hop => exact sel_reads hop hd
  next hop => exact agen_reads hop hd
  next hop => exact bfi_reads hop hd
  next hop => exact movx_reads hop hd
  next hop => exact li_reads hop hd
  next hop => exact bfx_reads hop hd
  next hop => exact ld_reads hop hd
  next hop => exact st_reads hop hd
  next hop => exact spl_reads hop hd
  next hop => exact fil_reads hop hd
  next hop => exact amo_reads hop hd
  next hop => exact amocas_reads hop hd
  next hop => exact fence_reads hop hd
  next hop => exact loop_reads hop hd
  next hop => exact csrr_reads hop hd
  next hop => exact csrw_reads hop hd
  next hop => exact sbind_reads hop hd
  next hop => exact sunbind_reads hop hd
  next hop => exact dmode_reads hop hd
  next hop => exact tlbinv_reads hop hd
  next hop => exact vote_reads hop hd
  next => cases h

/-! ### The rows of the V map that have a format of their own -/

section
variable {w : BWord} {lit : Option BWord} {i : Instr}

theorem vcmp_reads (hop : (fOp w).toNat = 0x30) (hd : decodeV w lit = .ok i) : Reads .v w lit i := by
  rw [decodeV, hop] at hd
  obtain ⟨c, hc, h⟩ := orErr_ok hd
  obtain ⟨hf, h⟩ := needI_ok h
  rw [Bool.and_eq_true, beq_iff_eq] at hf
  obtain ⟨hlit, hp⟩ := hf
  obtain ⟨a, ha, h⟩ := withV_ok h
  obtain ⟨b, hb, hl, h⟩ := withVO_ok hlit h
  obtain ⟨t, ht, h⟩ := withT_ok h
  obtain ⟨hfields, htypes, rfl⟩ := checked_ok h
  refine Writes.reads ⟨Instr.wellFormed_of htypes hfields rfl, rfl⟩ ?_
  rw [ha, hb, hl, ht, ← hp, Cond.code_of hc, BitVec.ofNat_toNat, BitVec.setWidth_eq,
    show (0x30 : BitVec 8) = fOp w from fOp_of hop, packVA_fields]

theorem vcvt_reads (hop : (fOp w).toNat = 0x40) (hd : decodeV w lit = .ok i) : Reads .v w lit i := by
  rw [decodeV, hop] at hd
  obtain ⟨hf, h⟩ := needI_ok hd
  simp only [Bool.and_eq_true, beq_iff_eq, Option.isNone_iff_eq_none] at hf
  obtain ⟨⟨hz, hp⟩, rfl⟩ := hf
  obtain ⟨a, ha, h⟩ := withV_ok h
  obtain ⟨td, htd, h⟩ := orErr_ok h
  obtain ⟨ts, hts, h⟩ := withT_ok h
  obtain ⟨hfields, htypes, rfl⟩ := checked_ok h
  refine Writes.reads ⟨Instr.wellFormed_of htypes hfields rfl, rfl⟩ ?_
  have hw : 0x40#8 ++ fA w ++ w.extractLsb' 14 4 ++ w.extractLsb' 12 2 ++ w.extractLsb' 10 2 ++ 0#4 ++ fT w ++ 0#2 = w := by
    rw [show 0x40#8 = fOp w from fOp_of hop, show 0#4 = w.extractLsb' 6 4 from hz.symm,
      show 0#2 = w.extractLsb' 0 2 from hp.symm,
      show fOp w ++ fA w = w.extractLsb' 18 14 from extract_append w 18 8 6,
      show w.extractLsb' 18 14 ++ w.extractLsb' 14 4 = w.extractLsb' 14 18 from extract_append w 14 14 4,
      show w.extractLsb' 14 18 ++ w.extractLsb' 12 2 = w.extractLsb' 12 20 from extract_append w 12 18 2,
      show w.extractLsb' 12 20 ++ w.extractLsb' 10 2 = w.extractLsb' 10 22 from extract_append w 10 20 2,
      show w.extractLsb' 10 22 ++ w.extractLsb' 6 4 = w.extractLsb' 6 26 from extract_append w 6 22 4,
      show w.extractLsb' 6 26 ++ fT w = w.extractLsb' 2 30 from extract_append w 2 26 4]
    exact (extract_append w 0 30 2).trans BitVec.extractLsb'_eq_self
  rw [ha, Ty.toBits_of htd, Pol.toBits_of, Rm.toBits_of, hts, hw]

/-- The granule counts that VPACK and VUNPK take (R324). -/
theorem granule_field : ∀ t : BitVec 4, t ≠ 0 → t.toNat < 8 →
    BitVec.ofNat 4 (Fin.ofNat 8 t.toNat).val = t ∧ Fin.ofNat 8 t.toNat ≠ 0 := by
  decide

theorem vpack_reads (hop : (fOp w).toNat = 0x41) (hd : decodeV w lit = .ok i) : Reads .v w lit i := by
  rw [decodeV, hop] at hd
  obtain ⟨hf, h⟩ := needI_ok hd
  simp only [Bool.and_eq_true, beq_iff_eq, bne_iff_ne] at hf
  obtain ⟨⟨⟨⟨hc, hp⟩, hlit⟩, hne⟩, -⟩ := hf
  obtain ⟨a, ha, h⟩ := withV_ok h
  obtain ⟨b, hb, hl, h⟩ := withVO_ok hlit h
  obtain ⟨hlt, h⟩ := needT_ok h
  cases h
  obtain ⟨hfield, hg⟩ := granule_field (fT w) hne (of_decide_eq_true hlt)
  refine Writes.reads ⟨Instr.wellFormed_of rfl (decide_eq_true hg) rfl, rfl⟩ ?_
  have hw := packVA_fields w
  rw [hc, hp] at hw
  rw [ha, hb, hl, hfield, show (0x41 : BitVec 8) = fOp w from fOp_of hop, hw]

theorem vunpk_reads (hop : (fOp w).toNat = 0x42) (hd : decodeV w lit = .ok i) : Reads .v w lit i := by
  rw [decodeV, hop] at hd
  obtain ⟨hf, h⟩ := needI_ok hd
  simp only [Bool.and_eq_true, beq_iff_eq, bne_iff_ne, Option.isNone_iff_eq_none] at hf
  obtain ⟨⟨⟨⟨⟨hc, hb⟩, hp⟩, rfl⟩, hne⟩, -⟩ := hf
  obtain ⟨a, ha, h⟩ := withV_ok h
  obtain ⟨hlt, h⟩ := needT_ok h
  cases h
  obtain ⟨hfield, hg⟩ := granule_field (fT w) hne (of_decide_eq_true hlt)
  refine Writes.reads ⟨Instr.wellFormed_of rfl (decide_eq_true hg) rfl, rfl⟩ ?_
  have hw := packVA_fields w
  rw [hc, hb, hp] at hw
  rw [ha, hfield, show (0x42 : BitVec 8) = fOp w from fOp_of hop, hw]

/-- The half that VZIP and VUNZIP name is the low bit of P (R328). -/
theorem half_field : ∀ p : BitVec 2, p.getLsbD 1 = false → 0#1 ++ bit1 (p.getLsbD 0) = p := by decide

theorem vzip_reads (hop : (fOp w).toNat = 0x54) (hd : decodeV w lit = .ok i) : Reads .v w lit i := by
  rw [decodeV, hop] at hd
  obtain ⟨hp, h⟩ := needI_ok hd
  exact vaAB_reads hop h fun a b t _ => ⟨rfl, congrArg (some <| encV2 _ a b t ·) (half_field (fP w) (beq_iff_eq.1 hp))⟩

theorem vunzip_reads (hop : (fOp w).toNat = 0x55) (hd : decodeV w lit = .ok i) : Reads .v w lit i := by
  rw [decodeV, hop] at hd
  obtain ⟨hp, h⟩ := needI_ok hd
  exact vaAB_reads hop h fun a b t _ => ⟨rfl, congrArg (some <| encV2 _ a b t ·) (half_field (fP w) (beq_iff_eq.1 hp))⟩

theorem vmov_field : ∀ c : BitVec 6, 16 ≤ c.toNat → c.toNat < 32 → BitVec.ofNat 6 (16 + (Fin.ofNat 16 c.toNat).val) = c := by
  decide

theorem vmov_reads (hop : (fOp w).toNat = 0x56) (hd : decodeV w lit = .ok i) : Reads .v w lit i := by
  rw [decodeV, hop] at hd
  obtain ⟨hf, h⟩ := needI_ok hd
  simp only [Bool.and_eq_true, beq_iff_eq, decide_eq_true_eq, Option.isNone_iff_eq_none] at hf
  obtain ⟨⟨⟨⟨hb, hp⟩, rfl⟩, hlo⟩, hhi⟩ := hf
  obtain ⟨a, ha, h⟩ := withV_ok h
  obtain ⟨t, ht, h⟩ := withT_ok h
  cases h
  refine Writes.reads ⟨rfl, rfl⟩ ?_
  have hw := packVA_fields w
  rw [hb, hp] at hw
  rw [ha, vmov_field (fC w) hlo hhi, ht, show (0x56 : BitVec 8) = fOp w from fOp_of hop, hw]

theorem vsw_field : ∀ c : BitVec 6, 32 ≤ c.toNat → c.toNat < 40 → BitVec.ofNat 6 (32 + (Fin.ofNat 8 c.toNat).val) = c := by
  decide

theorem vsw_reads (hop : (fOp w).toNat = 0x57) (hd : decodeV w lit = .ok i) : Reads .v w lit i := by
  rw [decodeV, hop] at hd
  obtain ⟨hf, h⟩ := needI_ok hd
  simp only [Bool.and_eq_true, beq_iff_eq, decide_eq_true_eq, Option.isNone_iff_eq_none] at hf
  obtain ⟨⟨⟨⟨hb, hp⟩, rfl⟩, hlo⟩, hhi⟩ := hf
  obtain ⟨a, ha, h⟩ := withV_ok h
  obtain ⟨t, ht, h⟩ := withT_ok h
  cases h
  refine Writes.reads ⟨rfl, rfl⟩ ?_
  have hw := packVA_fields w
  rw [hb, hp] at hw
  rw [ha, vsw_field (fC w) hlo hhi, ht, show (0x57 : BitVec 8) = fOp w from fOp_of hop, hw]

end

/-- What decodes in the V map reads back. -/
theorem decodeV_reads {w : BWord} {lit : Option BWord} {i : Instr} (hd : decodeV w lit = .ok i) : Reads .v w lit i := by
  have h := hd
  unfold decodeV at h
  split at h
  any_goals ((with_reducible refine vaAB_reads (pz := false) ‹_› h ?_); exact fun _ _ _ _ => ⟨rfl, rfl⟩)
  any_goals ((with_reducible refine vaAB_reads (pz := true) ‹_› h ?_); exact fun _ _ _ hp => ⟨rfl, by rw [hp rfl]; rfl⟩)
  any_goals ((with_reducible refine vaABC_reads (pz := false) ‹_› h ?_); exact fun _ _ _ _ _ => ⟨rfl, rfl⟩)
  any_goals ((with_reducible refine vaABC_reads (pz := true) ‹_› h ?_); exact fun _ _ _ _ hp => ⟨rfl, by rw [hp rfl]; rfl⟩)
  any_goals ((with_reducible refine vaA_reads (pz := false) ‹_› h ?_); exact fun _ _ _ => ⟨rfl, rfl⟩)
  any_goals ((with_reducible refine vaA_reads (pz := true) ‹_› h ?_); exact fun _ _ hp => ⟨rfl, by rw [hp rfl]; rfl⟩)
  any_goals ((with_reducible refine bare_reads ‹_› h ?_); exact ⟨rfl, rfl⟩)
  next hop => exact vcmp_reads hop hd
  next hop => exact vcvt_reads hop hd
  next hop => exact vpack_reads hop hd
  next hop => exact vunpk_reads hop hd
  next hop => exact vzip_reads hop hd
  next hop => exact vunzip_reads hop hd
  next hop => exact vmov_reads hop hd
  next hop => exact vsw_reads hop hd
  next => cases h

/-! ### The rows of the M map that have a format of their own -/

section
variable {w : BWord} {i : Instr}

theorem mzero_reads (hop : (fOp w).toNat = 0x08) (hd : decodeM w none = .ok i) : Reads .m w none i := by
  rw [decodeM, hop] at hd
  obtain ⟨hf, h⟩ := needI_ok (needI_ok hd).2
  rw [beq_iff_eq] at hf
  cases h
  have ha : fTA w = 0 := extract_zero_of hf (by decide) (by decide)
  have hb : fTB w = 0 := extract_zero_of hf (by decide) (by decide)
  have hk : fK w = 0 := extract_zero_of hf (by decide) (by decide)
  have hl : fFL w = 0 := extract_zero_of hf (by decide) (by decide)
  refine Writes.reads ⟨rfl, rfl⟩ ?_
  have hw := packMX_fields w
  rw [ha, hb, hk, hl] at hw
  rw [encMX, ofNat_toFin, show (0x08 : BitVec 8) = fOp w from fOp_of hop]
  exact congrArg (Encoded.mk .m · none) hw

theorem macc_reads (hop : (fOp w).toNat = 0x09) (hd : decodeM w none = .ok i) : Reads .m w none i := by
  rw [decodeM, hop] at hd
  obtain ⟨hf, h⟩ := needI_ok (needI_ok hd).2
  rw [beq_iff_eq] at hf
  cases h
  have hb : fTB w = 0 := extract_zero_of hf (by decide) (by decide)
  have hk : fK w = 0 := extract_zero_of hf (by decide) (by decide)
  have hl : (fFL w).extractLsb' 1 6 = 0 := (extract_extract w (by decide)).trans (extract_zero_of hf (by decide) (by decide))
  have hneg : w.getLsbD 0 = (fFL w).getLsbD 0 := by simp [fFL]
  refine Writes.reads ⟨rfl, rfl⟩ ?_
  have hw := packMX_fields w
  rw [hb, hk] at hw
  rw [encMX, ofNat_toFin, ofNat_toFin, hneg, flag_of hl, show (0x09 : BitVec 8) = fOp w from fOp_of hop]
  exact congrArg (Encoded.mk .m · none) hw

theorem mscl_reads (hop : (fOp w).toNat = 0x0A) (hd : decodeM w none = .ok i) : Reads .m w none i := by
  rw [decodeM, hop] at hd
  obtain ⟨hf, h⟩ := needI_ok (needI_ok hd).2
  rw [beq_iff_eq] at hf
  cases h
  have ha : fTA w = 0 := extract_zero_of hf (by decide) (by decide)
  have hb : fTB w = 0 := extract_zero_of hf (by decide) (by decide)
  have hk : fK w = 0 := extract_zero_of hf (by decide) (by decide)
  refine Writes.reads ⟨rfl, rfl⟩ ?_
  have hw := packMX_fields w
  rw [ha, hb, hk] at hw
  rw [encMX, ofNat_toFin, show (0x0A : BitVec 8) = fOp w from fOp_of hop]
  exact congrArg (Encoded.mk .m · none) hw

theorem mdrain_reads (hop : (fOp w).toNat = 0x10) (hd : decodeM w none = .ok i) : Reads .m w none i := by
  rw [decodeM, hop] at hd
  obtain ⟨hf, h⟩ := needI_ok (needI_ok hd).2
  rw [Bool.and_eq_true, beq_iff_eq] at hf
  obtain ⟨t, ht, h⟩ := orErr_ok h
  obtain ⟨hfields, htypes, rfl⟩ := checked_ok h
  refine Writes.reads ⟨Instr.wellFormed_of htypes hfields rfl, rfl⟩ ?_
  have hw : 0x10#8 ++ fZ w ++ w.extractLsb' 20 1 ++ w.extractLsb' 18 2 ++ w.extractLsb' 17 1 ++ w.extractLsb' 15 2 ++
      w.extractLsb' 11 4 ++ w.extractLsb' 7 4 ++ 0#3 ++ w.extractLsb' 0 4 = w := by
    rw [show 0x10#8 = fOp w from fOp_of hop, show 0#3 = w.extractLsb' 4 3 from hf.1.symm,
      show fOp w ++ fZ w = w.extractLsb' 21 11 from extract_append w 21 8 3,
      show w.extractLsb' 21 11 ++ w.extractLsb' 20 1 = w.extractLsb' 20 12 from extract_append w 20 11 1,
      show w.extractLsb' 20 12 ++ w.extractLsb' 18 2 = w.extractLsb' 18 14 from extract_append w 18 12 2,
      show w.extractLsb' 18 14 ++ w.extractLsb' 17 1 = w.extractLsb' 17 15 from extract_append w 17 14 1,
      show w.extractLsb' 17 15 ++ w.extractLsb' 15 2 = w.extractLsb' 15 17 from extract_append w 15 15 2,
      show w.extractLsb' 15 17 ++ w.extractLsb' 11 4 = w.extractLsb' 11 21 from extract_append w 11 17 4,
      show w.extractLsb' 11 21 ++ w.extractLsb' 7 4 = w.extractLsb' 7 25 from extract_append w 7 21 4,
      show w.extractLsb' 7 25 ++ w.extractLsb' 4 3 = w.extractLsb' 4 28 from extract_append w 4 25 3]
    exact (extract_append w 0 28 4).trans BitVec.extractLsb'_eq_self
  rw [ofNat_toFin, ofNat_toFin, bit1_getLsbD, Pol.toBits_of, Rm.toBits_of, Ty.toBits_of ht, hw]

theorem mfmt_reads (hop : (fOp w).toNat = 0x18) (hd : decodeM w none = .ok i) : Reads .m w none i := by
  rw [decodeM, hop] at hd
  obtain ⟨hf, h⟩ := needI_ok (needI_ok hd).2
  rw [beq_iff_eq] at hf
  cases h
  have hz : fZ w = 0 := extract_zero_of hf (by decide) (by decide)
  have ha : fTA w = 0 := extract_zero_of hf (by decide) (by decide)
  have hb : fTB w = 0 := extract_zero_of hf (by decide) (by decide)
  have hk : fK w = 0 := extract_zero_of hf (by decide) (by decide)
  refine Writes.reads ⟨rfl, rfl⟩ ?_
  have hw := packMX_fields w
  rw [hz, ha, hb, hk] at hw
  rw [encMX, show (0x18 : BitVec 8) = fOp w from fOp_of hop]
  exact congrArg (Encoded.mk .m · none) hw

/-- The fields of MSAVE and MLOAD: a half and a polder below it (R345). -/
theorem polder_field : ∀ f : BitVec 7, f.getLsbD 6 = false → 0#1 ++ bit1 (f.getLsbD 5) ++ f.extractLsb' 0 5 = f := by decide

/-- The word of MSAVE and MLOAD. -/
theorem polder_word (hf : w.extractLsb' 6 15 = 0) :
    encMX (fOp w) (fZ w).toFin 0 0 0 (0#1 ++ bit1 (w.getLsbD 5) ++ BitVec.ofNat 5 (w.extractLsb' 0 5).toFin.val) =
      ⟨.m, w, none⟩ := by
  have ha : fTA w = 0 := extract_zero_of hf (by decide) (by decide)
  have hb : fTB w = 0 := extract_zero_of hf (by decide) (by decide)
  have hk : fK w = 0 := extract_zero_of hf (by decide) (by decide)
  have hl : (fFL w).getLsbD 6 = false := by
    have h6 := congrArg (BitVec.getLsbD · 0) hf
    simpa [fFL] using h6
  have hhalf : w.getLsbD 5 = (fFL w).getLsbD 5 := by simp [fFL]
  have hpol : (fFL w).extractLsb' 0 5 = w.extractLsb' 0 5 := extract_extract w (by decide)
  have hw := packMX_fields w
  rw [ha, hb, hk] at hw
  rw [encMX, ofNat_toFin (fZ w), ofNat_toFin (w.extractLsb' 0 5), hhalf, ← hpol, polder_field _ hl]
  exact congrArg (Encoded.mk .m · none) hw

theorem msave_reads (hop : (fOp w).toNat = 0x20) (hd : decodeM w none = .ok i) : Reads .m w none i := by
  rw [decodeM, hop] at hd
  obtain ⟨hf, h⟩ := needI_ok (needI_ok hd).2
  cases h
  refine Writes.reads ⟨rfl, rfl⟩ ?_
  rw [show (0x20 : BitVec 8) = fOp w from fOp_of hop, polder_word (beq_iff_eq.1 hf)]

theorem mload_reads (hop : (fOp w).toNat = 0x21) (hd : decodeM w none = .ok i) : Reads .m w none i := by
  rw [decodeM, hop] at hd
  obtain ⟨hf, h⟩ := needI_ok (needI_ok hd).2
  cases h
  refine Writes.reads ⟨rfl, rfl⟩ ?_
  rw [show (0x21 : BitVec 8) = fOp w from fOp_of hop, polder_word (beq_iff_eq.1 hf)]

theorem mfence_reads (hop : (fOp w).toNat = 0x28) (hd : decodeM w none = .ok i) : Reads .m w none i := by
  rw [decodeM, hop] at hd
  obtain ⟨hf, h⟩ := needI_ok (needI_ok hd).2
  refine bare_reads (j := .mfence) hop ?_ ⟨rfl, rfl⟩
  rw [bare, hf]
  exact h

end

/-- What decodes in the M map reads back. -/
theorem decodeM_reads {w : BWord} {lit : Option BWord} {i : Instr} (hd : decodeM w lit = .ok i) : Reads .m w lit i := by
  obtain rfl := Option.isNone_iff_eq_none.1 (needI_ok hd).1
  obtain ⟨-, h⟩ := needI_ok hd
  split at h
  any_goals ((with_reducible refine mxOuter_reads ‹_› h ?_); exact fun _ _ _ _ _ => ⟨rfl, rfl⟩)
  next hop => exact mzero_reads hop hd
  next hop => exact macc_reads hop hd
  next hop => exact mscl_reads hop hd
  next hop => exact mdrain_reads hop hd
  next hop => exact mfmt_reads hop hd
  next hop => exact msave_reads hop hd
  next hop => exact mload_reads hop hd
  next hop => exact mfence_reads hop hd
  next => cases h

/-! ### The rows of the C map that have a format of their own -/

section
variable {w : BWord} {lit : Option BWord} {i : Instr}

/-- A tile in the place of operand A (R378). -/
theorem tile_field {a : BitVec 6} (h : a.extractLsb' 3 3 = 4) : 4#3 ++ BitVec.ofNat 3 (a.extractLsb' 0 3).toFin.val = a := by
  rw [ofNat_toFin, show 4#3 = a.extractLsb' 3 3 from h.symm]
  exact (extract_append a 0 3 3).trans BitVec.extractLsb'_eq_self

/-- A queue in the place of operand A (R381). -/
theorem queue_field {a : BitVec 6} (h : a.extractLsb' 1 5 = 16) : 16#5 ++ BitVec.ofNat 1 (a.extractLsb' 0 1).toFin.val = a := by
  rw [ofNat_toFin, show 16#5 = a.extractLsb' 1 5 from h.symm]
  exact (extract_append a 0 5 1).trans BitVec.extractLsb'_eq_self

/-- A result register in the place of a tag (R391, R394). -/
theorem result_field (h : w.getLsbD 23 = false) : 0#1 ++ w.extractLsb' 18 5 = fTag w := by
  rw [show 0#1 = w.extractLsb' 23 1 by rw [← bit1_getLsbD, h]; rfl]
  exact extract_append w 18 1 5

theorem ctld_reads (hop : (fOp w).toNat = 0x04) (hd : decodeC w lit = .ok i) : Reads .c w lit i := by
  rw [decodeC, hop] at hd
  obtain ⟨hf, h⟩ := needI_ok hd
  rw [Bool.and_eq_true, beq_iff_eq] at hf
  obtain ⟨b, hb, h⟩ := withS_ok h
  obtain ⟨c, hc, hl, h⟩ := withSO_ok hf.2 h
  cases h
  refine Writes.reads ⟨rfl, rfl⟩ ?_
  rw [encCX, ofNat_toFin, tile_field hf.1, hb, hc, hl, show (0x04 : BitVec 8) = fOp w from fOp_of hop, packCX_fields]

theorem ctst_reads (hop : (fOp w).toNat = 0x05) (hd : decodeC w lit = .ok i) : Reads .c w lit i := by
  rw [decodeC, hop] at hd
  obtain ⟨hf, h⟩ := needI_ok hd
  rw [Bool.and_eq_true, beq_iff_eq] at hf
  obtain ⟨b, hb, h⟩ := withS_ok h
  obtain ⟨c, hc, hl, h⟩ := withSO_ok hf.2 h
  cases h
  refine Writes.reads ⟨rfl, rfl⟩ ?_
  rw [encCX, ofNat_toFin, tile_field hf.1, hb, hc, hl, show (0x05 : BitVec 8) = fOp w from fOp_of hop, packCX_fields]

theorem cqst_reads (hop : (fOp w).toNat = 0x06) (hd : decodeC w lit = .ok i) : Reads .c w lit i := by
  rw [decodeC, hop] at hd
  obtain ⟨hf, h⟩ := needI_ok hd
  rw [Bool.and_eq_true, beq_iff_eq] at hf
  obtain ⟨b, hb, h⟩ := withS_ok h
  obtain ⟨c, hc, hl, h⟩ := withSO_ok hf.2 h
  cases h
  refine Writes.reads ⟨rfl, rfl⟩ ?_
  rw [encCX, ofNat_toFin, queue_field hf.1, hb, hc, hl, show (0x06 : BitVec 8) = fOp w from fOp_of hop, packCX_fields]

theorem cpref_reads (hop : (fOp w).toNat = 0x09) (hd : decodeC w lit = .ok i) : Reads .c w lit i := by
  rw [decodeC, hop] at hd
  obtain ⟨hf, h⟩ := needI_ok hd
  simp only [Bool.and_eq_true, beq_iff_eq] at hf
  obtain ⟨⟨hlit, hg⟩, hb⟩ := hf
  obtain ⟨a, ha, h⟩ := withS_ok h
  obtain ⟨c, hc, hl, h⟩ := withSO_ok hlit h
  cases h
  refine Writes.reads ⟨rfl, rfl⟩ ?_
  rw [encCX, show BitVec.ofNat 6 (0 : Fin 64).val = fTag w from hg.symm, ha, ← hb, hc, hl,
    show (0x09 : BitVec 8) = fOp w from fOp_of hop, packCX_fields]

theorem ttset_reads (hop : (fOp w).toNat = 0x30) (hd : decodeC w lit = .ok i) : Reads .c w lit i := by
  rw [decodeC, hop] at hd
  obtain ⟨hf, h⟩ := needI_ok hd
  simp only [Bool.and_eq_true, beq_iff_eq, Option.isNone_iff_eq_none] at hf
  obtain ⟨⟨rfl, hg⟩, hc⟩ := hf
  obtain ⟨a, ha, h⟩ := withS_ok h
  obtain ⟨b, hb, h⟩ := withS_ok h
  cases h
  refine Writes.reads ⟨rfl, rfl⟩ ?_
  have hw := packCX_fields w
  rw [hg, hc] at hw
  rw [encCX0, ha, hb, show (0x30 : BitVec 8) = fOp w from fOp_of hop, hw]

theorem rstat_reads (hop : (fOp w).toNat = 0x34) (hd : decodeC w lit = .ok i) : Reads .c w lit i := by
  rw [decodeC, hop] at hd
  obtain ⟨hf, h⟩ := needI_ok hd
  simp only [Bool.and_eq_true, beq_iff_eq, Option.isNone_iff_eq_none] at hf
  obtain ⟨⟨⟨rfl, hg⟩, hb⟩, hc⟩ := hf
  obtain ⟨r, hr, h⟩ := withW_ok h
  obtain ⟨a, ha, h⟩ := withS_ok h
  cases h
  refine Writes.reads ⟨rfl, rfl⟩ ?_
  have hw := packCX_fields w
  rw [hb, hc] at hw
  rw [encCX0, hr, result_field hg, ha, show (0x34 : BitVec 8) = fOp w from fOp_of hop, hw]

theorem nbq_reads (hop : (fOp w).toNat = 0x42) (hd : decodeC w lit = .ok i) : Reads .c w lit i := by
  rw [decodeC, hop] at hd
  obtain ⟨hf, h⟩ := needI_ok hd
  simp only [Bool.and_eq_true, beq_iff_eq, Option.isNone_iff_eq_none] at hf
  obtain ⟨⟨rfl, hg⟩, hc⟩ := hf
  obtain ⟨r, hr, h⟩ := withW_ok h
  obtain ⟨a, ha, h⟩ := withS_ok h
  obtain ⟨b, hb, h⟩ := withS_ok h
  cases h
  refine Writes.reads ⟨rfl, rfl⟩ ?_
  rw [encCX0, hr, result_field hg, ha, hb, ← hc, show (0x42 : BitVec 8) = fOp w from fOp_of hop, packCX_fields]

theorem hsig_reads (hop : (fOp w).toNat = 0x50) (hd : decodeC w lit = .ok i) : Reads .c w lit i := by
  rw [decodeC, hop] at hd
  obtain ⟨hf, h⟩ := needI_ok hd
  rw [Bool.and_eq_true, beq_iff_eq] at hf
  obtain ⟨a, ha, h⟩ := withS_ok h
  obtain ⟨b, hb, h⟩ := withS_ok h
  obtain ⟨c, hc, hl, h⟩ := withSO_ok hf.1 h
  cases h
  refine Writes.reads ⟨rfl, rfl⟩ ?_
  rw [encCX, show BitVec.ofNat 6 (0 : Fin 64).val = fTag w from hf.2.symm, ha, hb, hc, hl,
    show (0x50 : BitVec 8) = fOp w from fOp_of hop, packCX_fields]

end

/-- What decodes in the C map reads back. -/
theorem decodeC_reads {w : BWord} {lit : Option BWord} {i : Instr} (hd : decodeC w lit = .ok i) : Reads .c w lit i := by
  have h := hd
  unfold decodeC at h
  split at h
  any_goals ((with_reducible refine cxABC_reads ‹_› h ?_); exact fun _ _ _ _ => ⟨rfl, rfl⟩)
  any_goals ((with_reducible refine cxAC_reads ‹_› h ?_); exact fun _ _ _ => ⟨rfl, rfl⟩)
  any_goals ((with_reducible refine cxAB_reads ‹_› h ?_); exact fun _ _ _ => ⟨rfl, rfl⟩)
  any_goals ((with_reducible refine cxA_reads ‹_› h ?_); exact fun _ => ⟨rfl, rfl⟩)
  next hop => exact ctld_reads hop hd
  next hop => exact ctst_reads hop hd
  next hop => exact cqst_reads hop hd
  next hop => exact cpref_reads hop hd
  next hop => exact ttset_reads hop hd
  next hop => exact rstat_reads hop hd
  next hop => exact nbq_reads hop hd
  next hop => exact hsig_reads hop hd
  next => cases h

/-! ### Decoding what was encoded -/

@[simp] theorem needI_true (k : Dec) : needI true k = k := rfl
@[simp] theorem needT_true (k : Dec) : needT true k = k := rfl
@[simp] theorem orErr_some {α : Type} (e : DecErr) (a : α) (k : α → Dec) : orErr e (some a) k = k a := rfl
@[simp] theorem withS_toBits (pos : Nat) (x : SSpec) (k : SSpec → Dec) : withS pos x.toBits k = k x := by simp [withS]
@[simp] theorem withV_toBits (pos : Nat) (x : VSpec) (k : VSpec → Dec) : withV pos x.toBits k = k x := by simp [withV]
@[simp] theorem withW_toBits (r : WReg) (k : WReg → Dec) : withW (wToBits r) k = k r := by simp [withW]

/-- The operand zero of a row that has none. -/
@[simp] theorem litOk_none (b : BitVec 6) : litOk b none = true := rfl
@[simp] theorem litOk_SOpnd (o : SOpnd) : litOk o.bits o.litOf = true := by cases o <;> rfl
@[simp] theorem litOk_VOpnd (o : VOpnd) : litOk o.bits o.litOf = true := by cases o <;> rfl

@[simp] theorem withSO_bits (pos : Nat) (o : SOpnd) (k : SOpnd → Dec) : withSO pos o.bits o.litOf k = k o := by
  cases o with
  | spec x => exact withS_toBits pos x _
  | lit v => rfl

@[simp] theorem withVO_bits (pos : Nat) (o : VOpnd) (k : VOpnd → Dec) : withVO pos o.bits o.litOf k = k o := by
  cases o with
  | spec x => exact withV_toBits pos x _
  | lit v => rfl

@[simp] theorem extract_flag (s : Bool) : (0#6 ++ bit1 s).extractLsb' 1 6 = 0#6 := by cases s <;> rfl
@[simp] theorem getLsbD_flag (s : Bool) : (0#6 ++ bit1 s).getLsbD 0 = s := by cases s <;> rfl

theorem checked_of {i : Instr} (h : i.wellFormed = true) : checked i = .ok i := by
  simp only [Instr.wellFormed, Bool.and_eq_true] at h
  simp [checked, h]

section
variable {op : BitVec 8} {a : SSpec} {b : SOpnd} {r : WReg} {s : Bool} {m : Imm} {o : Off}

theorem saBinW_decodes {k : SSpec → SOpnd → WReg → Bool → Instr}
    (row : ∀ w lit, fOp w = op → decodeS w lit = saBinW w lit k) : decodeEncoded (encSAw op a b r s) = .ok (k a b r s) := by
  rw [decodeEncoded, encSAw, decodeSlot, row _ _ (fOp_packSA ..)]
  simp only [saBinW, fA_packSA, fB_packSA, fW_packSA, fF_packSA, extract_flag, getLsbD_flag, litOk_SOpnd, withS_toBits,
    withSO_bits, withW_toBits]
  rfl

theorem saBin_decodes {k : SSpec → SOpnd → WReg → Instr}
    (row : ∀ w lit, fOp w = op → decodeS w lit = saBin w lit k) : decodeEncoded (encSA op a b r 0) = .ok (k a b r) := by
  rw [decodeEncoded, encSA, decodeSlot, row _ _ (fOp_packSA ..)]
  simp [saBin]

theorem saUnW_decodes {k : SSpec → WReg → Bool → Instr} (row : ∀ w lit, fOp w = op → decodeS w lit = saUnW w lit k) :
    decodeEncoded (encSAu op a r (0#6 ++ bit1 s)) = .ok (k a r s) := by
  rw [decodeEncoded, encSAu, decodeSlot, row _ _ (fOp_packSA ..)]
  simp only [saUnW, fA_packSA, fB_packSA, fW_packSA, fF_packSA, extract_flag, getLsbD_flag, withS_toBits, withW_toBits]
  rfl

theorem saUn_decodes {k : SSpec → WReg → Instr} (row : ∀ w lit, fOp w = op → decodeS w lit = saUn w lit k) :
    decodeEncoded (encSAu op a r 0) = .ok (k a r) := by
  rw [decodeEncoded, encSAu, decodeSlot, row _ _ (fOp_packSA ..)]
  simp [saUn]

theorem saUnN_decodes {k : SSpec → Instr} (row : ∀ w lit, fOp w = op → decodeS w lit = saUnN w lit k) :
    decodeEncoded (encSAu op a 0 0) = .ok (k a) := by
  rw [decodeEncoded, encSAu, decodeSlot, row _ _ (fOp_packSA ..)]
  simp [saUnN, wToBits]

theorem saBinN_decodes {k : SSpec → SOpnd → Instr} (row : ∀ w lit, fOp w = op → decodeS w lit = saBinN w lit k) :
    decodeEncoded (encSA op a b 0 0) = .ok (k a b) := by
  rw [decodeEncoded, encSA, decodeSlot, row _ _ (fOp_packSA ..)]
  simp [saBinN, wToBits]

theorem siImm_decodes {k : SSpec → WReg → Imm → Instr} (row : ∀ w lit, fOp w = op → decodeS w lit = siImm w lit k) :
    decodeEncoded (encSI op a r m) = .ok (k a r m) := by
  rw [decodeEncoded, encSI, decodeSlot, row _ _ (fOp_packSI ..)]
  cases m <;> simp [siImm, Imm.bits, Imm.litOf]

theorem siShift_decodes {k : SSpec → WReg → Bool → BitVec 6 → Instr} {n : BitVec 6}
    (row : ∀ w lit, fOp w = op → decodeS w lit = siShift w lit k) :
    decodeEncoded (encSIx op a.toBits (wToBits r) (0#6 ++ bit1 s ++ n)) = .ok (k a r s n) := by
  have hs : (0#6 ++ bit1 s ++ n).getLsbD 6 = s := by
    rw [BitVec.getLsbD_append]
    cases s <;> rfl
  have hz : (0#6 ++ bit1 s ++ n).extractLsb' 7 6 = 0 := by
    rw [BitVec.extractLsb'_append_eq_of_le (by decide), BitVec.extractLsb'_append_eq_left]
    rfl
  rw [decodeEncoded, encSIx, decodeSlot, row _ _ (fOp_packSI ..)]
  simp only [siShift, fA_packSI, fWi_packSI, fImm_packSI, hs, hz, BitVec.extractLsb'_append_eq_right, withS_toBits,
    withW_toBits]
  rfl

theorem offOf_packSB (x : BitVec 6) (o : Off) : offOf (packSB op x o.bits) o.litOf = o := by
  cases o with
  | off18 v => simp [offOf, Off.litOf, Off.bits]
  | lit v => rfl

theorem sbLit_ok (o : Off) : (o.litOf.isNone || o.bits == 0) = true := by cases o <;> rfl

theorem sbA_decodes {k : SSpec → Off → Instr} (row : ∀ w lit, fOp w = op → decodeS w lit = sbA w lit k) :
    decodeEncoded (encSB op a.toBits o) = .ok (k a o) := by
  rw [decodeEncoded, encSB, decodeSlot, row _ _ (fOp_packSB ..)]
  simp only [sbA, fA_packSB, fOff_packSB, offOf_packSB, sbLit_ok, withS_toBits, needI_true]

theorem sbN_decodes {k : Off → Instr} (row : ∀ w lit, fOp w = op → decodeS w lit = sbN w lit k) :
    decodeEncoded (encSB op 0 o) = .ok (k o) := by
  rw [decodeEncoded, encSB, decodeSlot, row _ _ (fOp_packSB ..)]
  simp only [sbN, fA_packSB, fOff_packSB, offOf_packSB, sbLit_ok]
  rfl

end

section
variable {op : BitVec 8} {a c : VSpec} {b : VOpnd} {t : Ty} {p : BitVec 2}

/-- The field checks of a row that look at no operand. -/
theorem preFields_of {i : Ty → Instr} {w : BWord} (hT : fT w = t.toBits) (h : fieldsOk (i t) = true) :
    preFields w i = true := by
  simp [preFields, hT, h]

theorem vaAB_pack {pz : Bool} {k : VSpec → VOpnd → Ty → BitVec 2 → Instr} (hp : pz = false ∨ p = 0)
    (hk : (k a b t p).wellFormed = true) (hfields : fieldsOk (k (.take 0) (.spec (.take 0)) t p) = fieldsOk (k a b t p)) :
    vaAB (packVA op a.toBits b.bits 0 t.toBits p) b.litOf pz k = .ok (k a b t p) := by
  have hpre : preFields (packVA op a.toBits b.bits 0 t.toBits p) (fun u => k (.take 0) (.spec (.take 0)) u p) = true := by
    simp only [Instr.wellFormed, Bool.and_eq_true] at hk
    exact preFields_of (fT_packVA ..) (hfields.trans hk.1.2)
  have hpz : (!pz || p == 0) = true := by rcases hp with rfl | rfl <;> simp
  simp only [vaAB, withT, fA_packVA, fB_packVA, fC_packVA, fT_packVA, fP_packVA, litOk_VOpnd, hpre, hpz, withV_toBits,
    withVO_bits, Ty.ofBits_toBits, orErr_some, checked_of hk]
  rfl

theorem vaAB_decodes {k : VSpec → VOpnd → Ty → BitVec 2 → Instr} (hk : (k a b t p).wellFormed = true)
    (hfields : fieldsOk (k (.take 0) (.spec (.take 0)) t p) = fieldsOk (k a b t p))
    (row : ∀ w lit, fOp w = op → decodeV w lit = vaAB w lit false k) : decodeEncoded (encV2 op a b t p) = .ok (k a b t p) := by
  rw [decodeEncoded, encV2, decodeSlot, row _ _ (fOp_packVA ..)]
  exact vaAB_pack (.inl rfl) hk hfields

theorem vaAB_zero_decodes {k : VSpec → VOpnd → Ty → Instr} (hk : (k a b t).wellFormed = true)
    (hfields : fieldsOk (k (.take 0) (.spec (.take 0)) t) = fieldsOk (k a b t))
    (row : ∀ w lit, fOp w = op → decodeV w lit = vaAB w lit true fun a b t _ => k a b t) :
    decodeEncoded (encV2 op a b t 0) = .ok (k a b t) := by
  rw [decodeEncoded, encV2, decodeSlot, row _ _ (fOp_packVA ..)]
  exact vaAB_pack (k := fun a b t _ => k a b t) (.inr rfl) hk hfields

theorem vaABC_pack {pz : Bool} {k : VSpec → VOpnd → VSpec → Ty → BitVec 2 → Instr} (hp : pz = false ∨ p = 0)
    (hk : (k a b c t p).wellFormed = true) :
    vaABC (packVA op a.toBits b.bits c.toBits t.toBits p) b.litOf pz k = .ok (k a b c t p) := by
  have hpz : (!pz || p == 0) = true := by rcases hp with rfl | rfl <;> simp
  simp only [vaABC, withT, fA_packVA, fB_packVA, fC_packVA, fT_packVA, fP_packVA, litOk_VOpnd, hpz, withV_toBits,
    withVO_bits, Ty.ofBits_toBits, orErr_some, checked_of hk]
  rfl

theorem vaABC_decodes {k : VSpec → VOpnd → VSpec → Ty → BitVec 2 → Instr} (hk : (k a b c t p).wellFormed = true)
    (row : ∀ w lit, fOp w = op → decodeV w lit = vaABC w lit false k) :
    decodeEncoded (encV3 op a b c t p) = .ok (k a b c t p) := by
  rw [decodeEncoded, encV3, decodeSlot, row _ _ (fOp_packVA ..)]
  exact vaABC_pack (.inl rfl) hk

theorem vaABC_zero_decodes {k : VSpec → VOpnd → VSpec → Ty → Instr} (hk : (k a b c t).wellFormed = true)
    (row : ∀ w lit, fOp w = op → decodeV w lit = vaABC w lit true fun a b c t _ => k a b c t) :
    decodeEncoded (encV3 op a b c t 0) = .ok (k a b c t) := by
  rw [decodeEncoded, encV3, decodeSlot, row _ _ (fOp_packVA ..)]
  exact vaABC_pack (k := fun a b c t _ => k a b c t) (.inr rfl) hk

theorem vaA_pack {pz : Bool} {k : VSpec → Ty → BitVec 2 → Instr} (hp : pz = false ∨ p = 0)
    (hk : (k a t p).wellFormed = true) (hfields : fieldsOk (k (.take 0) t p) = fieldsOk (k a t p)) :
    vaA (packVA op a.toBits 0 0 t.toBits p) none pz k = .ok (k a t p) := by
  have hpre : preFields (packVA op a.toBits 0 0 t.toBits p) (fun u => k (.take 0) u p) = true := by
    simp only [Instr.wellFormed, Bool.and_eq_true] at hk
    exact preFields_of (fT_packVA ..) (hfields.trans hk.1.2)
  have hpz : (!pz || p == 0) = true := by rcases hp with rfl | rfl <;> simp
  simp only [vaA, withT, fA_packVA, fB_packVA, fC_packVA, fT_packVA, fP_packVA, hpre, hpz, withV_toBits, Ty.ofBits_toBits,
    orErr_some, checked_of hk]
  rfl

theorem vaA_decodes {k : VSpec → Ty → BitVec 2 → Instr} (hk : (k a t p).wellFormed = true)
    (hfields : fieldsOk (k (.take 0) t p) = fieldsOk (k a t p))
    (row : ∀ w lit, fOp w = op → decodeV w lit = vaA w lit false k) : decodeEncoded (encV1 op a t p) = .ok (k a t p) := by
  rw [decodeEncoded, encV1, decodeSlot, row _ _ (fOp_packVA ..)]
  exact vaA_pack (.inl rfl) hk hfields

theorem vaA_zero_decodes {k : VSpec → Ty → Instr} (hk : (k a t).wellFormed = true)
    (hfields : fieldsOk (k (.take 0) t) = fieldsOk (k a t))
    (row : ∀ w lit, fOp w = op → decodeV w lit = vaA w lit true fun a t _ => k a t) :
    decodeEncoded (encV1 op a t 0) = .ok (k a t) := by
  rw [decodeEncoded, encV1, decodeSlot, row _ _ (fOp_packVA ..)]
  exact vaA_pack (k := fun a t _ => k a t) (.inr rfl) hk hfields

end

section
variable {op : BitVec 8}

@[simp] theorem toFin_ofNat {n : Nat} (x : Fin (2 ^ n)) : (BitVec.ofNat n x.val).toFin = x := by
  simp

theorem mxOuter_decodes {k : Fin 8 → Fin 8 → Fin 8 → BitVec 8 → Bool → Instr} {z a b : Fin 8} {m : BitVec 8} {s : Bool}
    (row : ∀ w, fOp w = op → decodeM w none = mxOuter w k) :
    decodeEncoded (encMX op z a b m (0#6 ++ bit1 s)) = .ok (k z a b m s) := by
  rw [decodeEncoded, encMX, decodeSlot, row _ (fOp_packMX ..)]
  simp only [mxOuter, fZ_packMX, fTA_packMX, fTB_packMX, fK_packMX, fFL_packMX, extract_flag, getLsbD_flag,
    toFin_ofNat (n := 3) z, toFin_ofNat (n := 3) a, toFin_ofNat (n := 3) b]
  rfl

variable {g : Fin 64} {a b : SSpec} {c : SOpnd}

theorem cxABC_decodes {k : Fin 64 → SSpec → SSpec → SOpnd → Instr}
    (row : ∀ w lit, fOp w = op → decodeC w lit = cxABC w lit k) :
    decodeEncoded (encCX op g a.toBits b.toBits c) = .ok (k g a b c) := by
  rw [decodeEncoded, encCX, decodeSlot, row _ _ (fOp_packCX ..)]
  simp only [cxABC, fTag_packCX, fCA_packCX, fCB_packCX, fCC_packCX, litOk_SOpnd, withS_toBits, withSO_bits,
    toFin_ofNat (n := 6) g, needI_true]

theorem cxAC_decodes {k : Fin 64 → SSpec → SOpnd → Instr} (row : ∀ w lit, fOp w = op → decodeC w lit = cxAC w lit k) :
    decodeEncoded (encCX op g a.toBits 0 c) = .ok (k g a c) := by
  rw [decodeEncoded, encCX, decodeSlot, row _ _ (fOp_packCX ..)]
  simp only [cxAC, fTag_packCX, fCA_packCX, fCB_packCX, fCC_packCX, litOk_SOpnd, withS_toBits, withSO_bits,
    toFin_ofNat (n := 6) g]
  rfl

theorem cxAB_decodes {k : Fin 64 → SSpec → SSpec → Instr} (row : ∀ w lit, fOp w = op → decodeC w lit = cxAB w lit k) :
    decodeEncoded (encCX0 op (BitVec.ofNat 6 g.val) a.toBits b.toBits) = .ok (k g a b) := by
  rw [decodeEncoded, encCX0, decodeSlot, row _ _ (fOp_packCX ..)]
  simp only [cxAB, fTag_packCX, fCA_packCX, fCB_packCX, fCC_packCX, withS_toBits, toFin_ofNat (n := 6) g]
  rfl

theorem cxA_decodes {k : SSpec → Instr} (row : ∀ w lit, fOp w = op → decodeC w lit = cxA w lit k) :
    decodeEncoded (encCX0 op 0 a.toBits 0) = .ok (k a) := by
  rw [decodeEncoded, encCX0, decodeSlot, row _ _ (fOp_packCX ..)]
  simp only [cxA, fTag_packCX, fCA_packCX, fCB_packCX, fCC_packCX, withS_toBits]
  rfl

end

/-! ### Rows with a format of their own -/

section
variable {a : SSpec} {b : SOpnd} {r : WReg}

theorem cmp_decodes {c : Cond} (hw : (Instr.cmp a b r c).wellFormed = true) :
    decodeEncoded (encSA 0x28 a b r (BitVec.ofNat 7 c.code)) = .ok (.cmp a b r c) := by
  have hlt : decide ((BitVec.ofNat 7 c.code).toNat < 10) = true := by
    cases c
    case un | ord => cases hw
    all_goals rfl
  have hc : Cond.ofCode (BitVec.ofNat 7 c.code).toNat = some c := by cases c <;> rfl
  rw [decodeEncoded, encSA, decodeSlot, decodeS, fOp_packSA]
  change needI _ _ = _
  simp only [fA_packSA, fB_packSA, fW_packSA, fF_packSA, hlt, hc, litOk_SOpnd, orErr_some, withS_toBits, withSO_bits,
    withW_toBits]
  rfl

/-- A specifier in the low bits of F. -/
theorem spec_field (c : SSpec) :
    (0#1 ++ c.toBits).getLsbD 6 = false ∧ (0#1 ++ c.toBits).extractLsb' 0 6 = c.toBits :=
  ⟨by rw [BitVec.getLsbD_append]; rfl, BitVec.extractLsb'_append_eq_right⟩

theorem sel_decodes {c : SSpec} : decodeEncoded (encSA 0x29 a b r (0#1 ++ c.toBits)) = .ok (.sel a b r c) := by
  rw [decodeEncoded, encSA, decodeSlot, decodeS, fOp_packSA]
  change needI _ _ = _
  simp only [fA_packSA, fB_packSA, fW_packSA, fF_packSA, spec_field, litOk_SOpnd, withS_toBits, withSO_bits, withW_toBits]
  rfl

theorem bfi_decodes {v : SSpec} : decodeEncoded (encSA 0x2B a b r (0#1 ++ v.toBits)) = .ok (.bfi a b r v) := by
  rw [decodeEncoded, encSA, decodeSlot, decodeS, fOp_packSA]
  change needI _ _ = _
  simp only [fA_packSA, fB_packSA, fW_packSA, fF_packSA, spec_field, litOk_SOpnd, withS_toBits, withSO_bits, withW_toBits]
  rfl

theorem agen_decodes {k : Fin 16} :
    decodeEncoded (encSA 0x2A a b r (0#3 ++ BitVec.ofNat 4 k.val)) = .ok (.agen a b r k) := by
  have hz : (0#3 ++ BitVec.ofNat 4 k.val).extractLsb' 4 3 = 0 := BitVec.extractLsb'_append_eq_left
  have hk : (0#3 ++ BitVec.ofNat 4 k.val).extractLsb' 0 4 = BitVec.ofNat 4 k.val := BitVec.extractLsb'_append_eq_right
  rw [decodeEncoded, encSA, decodeSlot, decodeS, fOp_packSA]
  change needI _ _ = _
  simp only [fA_packSA, fB_packSA, fW_packSA, fF_packSA, hz, hk, toFin_ofNat (n := 4) k, litOk_SOpnd, withS_toBits,
    withSO_bits, withW_toBits]
  rfl

theorem movx_bits : ∀ (k : Fin 16) (m : MovxForm), let f := 0#1 ++ BitVec.ofNat 4 k.val ++ m.code
    f.getLsbD 6 = false ∧ (f.extractLsb' 0 2 != 3) = true ∧ (f.extractLsb' 2 4).toFin = k ∧
      (if f.getLsbD 0 then MovxForm.wrX else if f.getLsbD 1 then .rdT else .rdX) = m := by
  intro k m
  cases m <;> revert k <;> decide

theorem movx_decodes {k : Fin 16} {m : MovxForm} :
    decodeEncoded (encSAu 0x2C a r (0#1 ++ BitVec.ofNat 4 k.val ++ m.code)) = .ok (.movx a r k m) := by
  obtain ⟨htop, hform, hk, hm⟩ := movx_bits k m
  rw [decodeEncoded, encSAu, decodeSlot, decodeS, fOp_packSA]
  change needI _ _ = _
  simp only [fA_packSA, fB_packSA, fW_packSA, fF_packSA, htop, hform, hk, hm, withS_toBits, withW_toBits]
  rfl

theorem li_decodes {m : Imm} : decodeEncoded ⟨.s, packSI 0x30 0 (wToBits r) m.bits, m.litOf⟩ = .ok (.li r m) := by
  rw [decodeEncoded, decodeSlot, decodeS, fOp_packSI]
  change needI _ _ = _
  rw [fA_packSI]
  cases m <;> simp [siImm, Imm.bits, Imm.litOf, show withS 0 0#6 = fun k => k (.take 0) from rfl]

theorem bfx_decodes {x : Bool} {len pos : BitVec 6} (hw : (Instr.bfx a r x len pos).wellFormed = true) :
    decodeEncoded (encSIx 0x38 a.toBits (wToBits r) (bit1 x ++ len ++ pos)) = .ok (.bfx a r x len pos) := by
  have hlen : decide (pos.toNat + len.toNat + 1 ≤ 64) = true := by
    simp only [Instr.wellFormed, Bool.and_eq_true] at hw
    exact hw.1.2
  have hx : (bit1 x ++ len ++ pos).getLsbD 12 = x := by
    rw [BitVec.getLsbD_append, BitVec.getLsbD_append]
    cases x <;> rfl
  have h6 : (bit1 x ++ len ++ pos).extractLsb' 6 6 = len := by
    rw [BitVec.extractLsb'_append_eq_of_le (by decide)]
    exact BitVec.extractLsb'_append_eq_right
  have h0 : (bit1 x ++ len ++ pos).extractLsb' 0 6 = pos := BitVec.extractLsb'_append_eq_right
  rw [decodeEncoded, encSIx, decodeSlot, decodeS, fOp_packSI]
  change needI _ _ = _
  simp only [fA_packSI, fWi_packSI, fImm_packSI, hx, h6, h0, hlen, withS_toBits, withW_toBits]
  rfl

theorem trap_decodes {m : BitVec 13} : decodeEncoded (encSIx 0x04 0 0 m) = .ok (.trap m) := by
  rw [decodeEncoded, encSIx, decodeSlot, decodeS, fOp_packSI]
  change needI _ _ = _
  simp only [fA_packSI, fWi_packSI, fImm_packSI]
  rfl

/-- The word of LD as an SI word (R352). -/
theorem ld_word (op : BitVec 8) (x : BitVec 6) (y : BitVec 5) (land : BitVec 10) (z : BitVec 3) :
    (op ++ x ++ y ++ land ++ z : BitVec 32) = packSI op x y (land ++ z) := by
  rw [packSI, BitVec.append_assoc]
  rfl

theorem ld_decodes {d : Option BWord} {land : BitVec 10} {z : LdSz} :
    decodeEncoded ⟨.s, 0x40#8 ++ a.toBits ++ wToBits r ++ land ++ z.toBits, d⟩ = .ok (.ld a d r land z) := by
  have hz : fSz (packSI 0x40#8 a.toBits (wToBits r) (land ++ z.toBits)) = z.toBits := by
    have h := extract_extract (l := 13) (packSI 0x40#8 a.toBits (wToBits r) (land ++ z.toBits)) (s := 0) (s' := 0) (l' := 3) (by decide)
    exact h.symm.trans ((congrArg (BitVec.extractLsb' 0 3) (fImm_packSI ..)).trans BitVec.extractLsb'_append_eq_right)
  have hl : fLand (packSI 0x40#8 a.toBits (wToBits r) (land ++ z.toBits)) = land := by
    have h := extract_extract (l := 13) (packSI 0x40#8 a.toBits (wToBits r) (land ++ z.toBits)) (s := 0) (s' := 3) (l' := 10) (by decide)
    exact h.symm.trans ((congrArg (BitVec.extractLsb' 3 10) (fImm_packSI ..)).trans BitVec.extractLsb'_append_eq_left)
  rw [ld_word, decodeEncoded, decodeSlot, decodeS, fOp_packSI]
  change orErr _ _ _ = _
  simp only [fA_packSI, fWi_packSI, hz, hl, LdSz.ofBits_toBits, orErr_some, withS_toBits, withW_toBits]

theorem st_bits : ∀ (na sp : Bool) (z : StSz), let f := 0#3 ++ bit1 na ++ bit1 sp ++ z.toBits
    f.extractLsb' 4 3 = 0 ∧ f.getLsbD 3 = na ∧ f.getLsbD 2 = sp ∧ f.extractLsb' 0 2 = z.toBits := by
  intro na sp z
  cases na <;> cases sp <;> cases z <;> decide

theorem st_decodes {d : Option BWord} {b : SSpec} {na sp : Bool} {z : StSz} (hw : (Instr.st a d b r na sp z).wellFormed = true) :
    decodeEncoded ⟨.s, packSA 0x41 a.toBits b.toBits (wToBits r) (0#3 ++ bit1 na ++ bit1 sp ++ z.toBits), d⟩ =
      .ok (.st a d b r na sp z) := by
  have hbits : (!(na && sp)) = true := by
    simp only [Instr.wellFormed, Bool.and_eq_true] at hw
    exact hw.1.2
  obtain ⟨hz, hna, hsp, hsz⟩ := st_bits na sp z
  rw [decodeEncoded, decodeSlot, decodeS, fOp_packSA]
  change needI _ _ = _
  simp only [fA_packSA, fB_packSA, fW_packSA, fF_packSA, hz, hna, hsp, hsz, hbits, StSz.ofBits_toBits, withS_toBits,
    withW_toBits]
  rfl

theorem pad2_bits (off : BitVec 11) :
    (0#2 ++ off).extractLsb' 11 2 = 0 ∧ (0#2 ++ off).extractLsb' 0 11 = off :=
  ⟨BitVec.extractLsb'_append_eq_left, BitVec.extractLsb'_append_eq_right⟩

theorem spl_decodes {off : BitVec 11} : decodeEncoded (encSIx 0x42 a.toBits 0 (0#2 ++ off)) = .ok (.spl a off) := by
  rw [decodeEncoded, encSIx, decodeSlot, decodeS, fOp_packSI]
  change needI _ _ = _
  simp only [fA_packSI, fWi_packSI, fImm_packSI, pad2_bits, withS_toBits]
  rfl

theorem fil_decodes {off : BitVec 11} : decodeEncoded (encSIx 0x43 0 (wToBits r) (0#2 ++ off)) = .ok (.fil r off) := by
  rw [decodeEncoded, encSIx, decodeSlot, decodeS, fOp_packSI]
  change needI _ _ = _
  simp only [fA_packSI, fWi_packSI, fImm_packSI, pad2_bits, withW_toBits]
  rfl

theorem amo_bits : ∀ (nr w32 : Bool) (o : AmoOp), let f := 0#1 ++ bit1 nr ++ bit1 w32 ++ BitVec.ofNat 4 o.code
    f.getLsbD 6 = false ∧ f.getLsbD 5 = nr ∧ f.getLsbD 4 = w32 ∧ AmoOp.ofCode (f.extractLsb' 0 4).toNat = some o := by
  intro nr w32 o
  cases nr <;> cases w32 <;> cases o <;> decide

theorem amo_decodes {d : Option BWord} {b : SSpec} {nr w32 : Bool} {o : AmoOp}
    (hw : (Instr.amo a d b r nr w32 o).wellFormed = true) :
    decodeEncoded ⟨.s, packSA 0x44 a.toBits b.toBits (wToBits r) (0#1 ++ bit1 nr ++ bit1 w32 ++ BitVec.ofNat 4 o.code), d⟩ =
      .ok (.amo a d b r nr w32 o) := by
  simp only [Instr.wellFormed, fieldsOk, Bool.and_eq_true, Bool.or_eq_true, decide_eq_true_eq, Bool.not_eq_true'] at hw
  obtain ⟨⟨-, hnr, hfloat⟩, -⟩ := hw
  have hnr' : (!nr || wToBits r == 0) = true := by rcases hnr with rfl | rfl <;> simp [wToBits]
  have hfloat' : (!o.isFloat || w32) = true := by rcases hfloat with h | rfl <;> simp [*]
  obtain ⟨hz, hn, h32, ho⟩ := amo_bits nr w32 o
  rw [decodeEncoded, decodeSlot, decodeS, fOp_packSA]
  change orErr _ _ _ = _
  simp only [fA_packSA, fB_packSA, fW_packSA, fF_packSA, hz, hn, h32, ho, hnr', hfloat', orErr_some, withS_toBits,
    withW_toBits]
  rfl

theorem amocas_decodes {d : Option BWord} {b e : SSpec} {w32 : Bool} :
    decodeEncoded ⟨.s, packSA 0x45 a.toBits b.toBits (wToBits r) (bit1 w32 ++ e.toBits), d⟩ =
      .ok (.amocas a d b r w32 e) := by
  have h32 : (bit1 w32 ++ e.toBits).getLsbD 6 = w32 := by
    rw [BitVec.getLsbD_append]
    cases w32 <;> rfl
  have he : (bit1 w32 ++ e.toBits).extractLsb' 0 6 = e.toBits := BitVec.extractLsb'_append_eq_right
  rw [decodeEncoded, decodeSlot, decodeS, fOp_packSA]
  change withS _ _ _ = _
  simp only [fA_packSA, fB_packSA, fW_packSA, fF_packSA, h32, he, withS_toBits, withW_toBits]

theorem fence_bits : ∀ (scope : BitVec 4) (kind : BitVec 2), let f := 0#1 ++ scope ++ kind
    f.getLsbD 6 = false ∧ f.extractLsb' 2 4 = scope ∧ f.extractLsb' 0 2 = kind := by
  decide

theorem fence_decodes {scope : BitVec 4} {kind : BitVec 2} :
    decodeEncoded ⟨.s, packSA 0x46 0 0 0 (0#1 ++ scope ++ kind), none⟩ = .ok (.fence scope kind) := by
  obtain ⟨hz, hs, hk⟩ := fence_bits scope kind
  rw [decodeEncoded, decodeSlot, decodeS, fOp_packSA]
  change needI _ _ = _
  simp only [fA_packSA, fB_packSA, fW_packSA, fF_packSA, hz, hs, hk]
  rfl

theorem loop_bits : ∀ n : Fin 16, n ≠ 0 → 17 ≤ (BitVec.ofNat 6 (16 + n.val)).toNat ∧
    (BitVec.ofNat 6 (16 + n.val)).toNat < 32 ∧ Fin.ofNat 16 (BitVec.ofNat 6 (16 + n.val)).toNat = n := by
  decide

theorem loop_decodes {n : Fin 16} {o : Off} (hw : (Instr.loop n o).wellFormed = true) :
    decodeEncoded (encSB 0x57 (BitVec.ofNat 6 (16 + n.val)) o) = .ok (.loop n o) := by
  simp only [Instr.wellFormed, fieldsOk, Bool.and_eq_true, decide_eq_true_eq] at hw
  obtain ⟨hlo, hhi, hn⟩ := loop_bits n hw.1.2
  rw [decodeEncoded, encSB, decodeSlot, decodeS, fOp_packSB]
  change needI _ _ = _
  simp only [fA_packSB, fOff_packSB, offOf_packSB, sbLit_ok, hlo, hhi, hn]
  rfl

theorem csr_bits (c : BitVec 12) : (0#1 ++ c).getLsbD 12 = false ∧ (0#1 ++ c).extractLsb' 0 12 = c :=
  ⟨by rw [BitVec.getLsbD_append]; rfl, BitVec.extractLsb'_append_eq_right⟩

theorem csrr_decodes {c : BitVec 12} (hw : (Instr.csrr r c).wellFormed = true) :
    decodeEncoded (encSIx 0x70 0 (wToBits r) (0#1 ++ c)) = .ok (.csrr r c) := by
  simp only [Instr.wellFormed, fieldsOk, Bool.and_eq_true] at hw
  rw [decodeEncoded, encSIx, decodeSlot, decodeS, fOp_packSI]
  change needI _ _ = _
  simp only [fA_packSI, fWi_packSI, fImm_packSI, csr_bits, hw.1.2, withW_toBits]
  rfl

theorem csrw_decodes {c : BitVec 12} (hw : (Instr.csrw a c).wellFormed = true) :
    decodeEncoded (encSIx 0x71 a.toBits 0 (0#1 ++ c)) = .ok (.csrw a c) := by
  simp only [Instr.wellFormed, fieldsOk, Bool.and_eq_true] at hw
  rw [decodeEncoded, encSIx, decodeSlot, decodeS, fOp_packSI]
  change needI _ _ = _
  simp only [fA_packSI, fWi_packSI, fImm_packSI, csr_bits, hw.1.2, withS_toBits]
  rfl

theorem sbind_bits (off : BitVec 8) (x : Bool) (n : Fin 8) : let f := 0#1 ++ off ++ bit1 x ++ BitVec.ofNat 3 n.val
    f.getLsbD 12 = false ∧ f.getLsbD 3 = x ∧ f.extractLsb' 4 8 = off ∧ (f.extractLsb' 0 3).toFin = n := by
  refine ⟨?_, ?_, ?_, ?_⟩
  · simp only [BitVec.getLsbD_append]
    rfl
  · simp only [BitVec.getLsbD_append]
    cases x <;> rfl
  · rw [BitVec.extractLsb'_append_eq_of_le (by decide), BitVec.extractLsb'_append_eq_of_le (by decide)]
    exact BitVec.extractLsb'_append_eq_right
  · rw [BitVec.extractLsb'_append_eq_right]
    exact toFin_ofNat (n := 3) n

theorem sbindRd_decodes {off : BitVec 8} {n : Fin 8} :
    decodeEncoded (encSIx 0x72 a.toBits 0 (0#1 ++ off ++ 0#1 ++ BitVec.ofNat 3 n.val)) = .ok (.sbindRd a off n) := by
  obtain ⟨hz, hx, hoff, hn⟩ := sbind_bits off false n
  rw [decodeEncoded, encSIx, decodeSlot, decodeS, fOp_packSI]
  change needI _ _ = _
  rw [show (0#1 : BitVec 1) ++ off ++ 0#1 = 0#1 ++ off ++ bit1 false from rfl]
  simp only [fA_packSI, fWi_packSI, fImm_packSI, hz, hx, hoff, hn, withS_toBits]
  rfl

theorem sbindWr_decodes {off : BitVec 8} {n : Fin 8} :
    decodeEncoded (encSIx 0x72 a.toBits 0 (0#1 ++ off ++ 1#1 ++ BitVec.ofNat 3 n.val)) = .ok (.sbindWr a off n) := by
  obtain ⟨hz, hx, hoff, hn⟩ := sbind_bits off true n
  rw [decodeEncoded, encSIx, decodeSlot, decodeS, fOp_packSI]
  change needI _ _ = _
  rw [show (0#1 : BitVec 1) ++ off ++ 1#1 = 0#1 ++ off ++ bit1 true from rfl]
  simp only [fA_packSI, fWi_packSI, fImm_packSI, hz, hx, hoff, hn, withS_toBits]
  rfl

theorem sunbind_decodes {n : Fin 8} : decodeEncoded (encSIx 0x73 0 0 (0#10 ++ BitVec.ofNat 3 n.val)) = .ok (.sunbind n) := by
  revert n
  decide

theorem dmodeFwd_decodes : decodeEncoded (encSIx 0x75 0 0 0) = .ok .dmodeFwd := by decide
theorem dmodeRew_decodes : decodeEncoded (encSIx 0x75 0 0 1) = .ok .dmodeRew := by decide

theorem tlbinvPart_decodes : decodeEncoded (encSAu 0x7C a r 0) = .ok (.tlbinvPart a r) := by
  rw [decodeEncoded, encSAu, decodeSlot, decodeS, fOp_packSA, fF_packSA]
  change needI _ _ = _
  simp only [fA_packSA, fB_packSA, fW_packSA, withS_toBits, withW_toBits]
  rfl

theorem tlbinvIpa_decodes : decodeEncoded (encSA 0x7C a b r 1) = .ok (.tlbinvIpa a b r) := by
  rw [decodeEncoded, encSA, decodeSlot, decodeS, fOp_packSA, fF_packSA]
  change needI _ _ = _
  simp only [fA_packSA, fB_packSA, fW_packSA, litOk_SOpnd, withS_toBits, withSO_bits, withW_toBits]
  rfl

theorem tlbinvAll_decodes : decodeEncoded ⟨.s, packSA 0x7C 0 0 (wToBits r) 2, none⟩ = .ok (.tlbinvAll r) := by
  rw [decodeEncoded, decodeSlot, decodeS, fOp_packSA, fF_packSA]
  change needI _ _ = _
  simp only [fA_packSA, fB_packSA, fW_packSA, withW_toBits]
  rfl

theorem voteRd_decodes : decodeEncoded ⟨.s, packSA 0x7E 0 0 (wToBits r) 0, none⟩ = .ok (.voteRd r) := by
  revert r
  decide
theorem voteAbort_decodes : decodeEncoded ⟨.s, packSA 0x7E 0 0 (wToBits r) 1, none⟩ = .ok (.voteAbort r) := by
  revert r
  decide
theorem voteCommit_decodes : decodeEncoded ⟨.s, packSA 0x7E 0 0 (wToBits r) 2, none⟩ = .ok (.voteCommit r) := by
  revert r
  decide

end

section
variable {a : VSpec} {b : VOpnd} {t : Ty}

theorem vcmp_decodes {c : Cond} (hw : (Instr.vcmp a b c t).wellFormed = true) :
    decodeEncoded ⟨.v, packVA 0x30 a.toBits b.bits (BitVec.ofNat 6 c.code) t.toBits 0, b.litOf⟩ = .ok (.vcmp a b c t) := by
  have hc : Cond.ofCode (BitVec.ofNat 6 c.code).toNat = some c := by cases c <;> rfl
  rw [decodeEncoded, decodeSlot, decodeV, fOp_packVA]
  change orErr _ _ _ = _
  simp only [fA_packVA, fB_packVA, fC_packVA, fP_packVA, fT_packVA, withT, hc, orErr_some, litOk_VOpnd, withV_toBits,
    withVO_bits, Ty.ofBits_toBits, checked_of hw]
  rfl

/-- The fields of a VCVT word (R323). -/
theorem vcvt_fields (op : BitVec 8) (x : BitVec 6) (td : BitVec 4) (pol rm : BitVec 2) (ts : BitVec 4) :
    let w : BWord := op ++ x ++ td ++ pol ++ rm ++ 0#4 ++ ts ++ 0#2
    fOp w = op ∧ fA w = x ∧ w.extractLsb' 14 4 = td ∧ w.extractLsb' 12 2 = pol ∧ w.extractLsb' 10 2 = rm ∧
      w.extractLsb' 6 4 = 0 ∧ fT w = ts ∧ fP w = 0 := by
  refine ⟨?_, ?_, ?_, ?_, ?_, ?_, ?_, ?_⟩ <;>
    simp (disch := decide) only [fOp, fA, fT, fP, BitVec.extractLsb'_append_eq_of_le, Nat.reduceSub,
      BitVec.extractLsb'_append_eq_left, BitVec.extractLsb'_append_eq_right, BitVec.extractLsb'_eq_self]
  all_goals rfl

theorem vcvt_decodes {td ts : Ty} {pol : Pol} {rm : Rm} (hw : (Instr.vcvt a td pol rm ts).wellFormed = true) :
    decodeEncoded ⟨.v, 0x40#8 ++ a.toBits ++ td.toBits ++ pol.toBits ++ rm.toBits ++ 0#4 ++ ts.toBits ++ 0#2, none⟩ =
      .ok (.vcvt a td pol rm ts) := by
  obtain ⟨hop, ha, htd, hpol, hrm, hz, hts, hp⟩ := vcvt_fields 0x40#8 a.toBits td.toBits pol.toBits rm.toBits ts.toBits
  rw [decodeEncoded, decodeSlot, decodeV, hop]
  change needI _ _ = _
  simp only [ha, htd, hpol, hrm, hz, hts, hp, withT, withV_toBits, Ty.ofBits_toBits, Pol.ofBits_toBits, Rm.ofBits_toBits,
    orErr_some, checked_of hw]
  rfl

theorem granule_bits : ∀ g : Fin 8, g ≠ 0 → let f := BitVec.ofNat 4 g.val
    (f != 0) = true ∧ (!(decide (8 ≤ f.toNat) && decide (f.toNat < 14))) = true ∧ f.toNat < 8 ∧ Fin.ofNat 8 f.toNat = g := by
  decide

theorem vpack_decodes {g : Fin 8} (hw : (Instr.vpack a b g).wellFormed = true) :
    decodeEncoded ⟨.v, packVA 0x41 a.toBits b.bits 0 (BitVec.ofNat 4 g.val) 0, b.litOf⟩ = .ok (.vpack a b g) := by
  simp only [Instr.wellFormed, fieldsOk, Bool.and_eq_true, decide_eq_true_eq] at hw
  obtain ⟨hne, hge, hlt, hg⟩ := granule_bits g hw.1.2
  rw [decodeEncoded, decodeSlot, decodeV, fOp_packVA]
  change needI _ _ = _
  simp only [fA_packVA, fB_packVA, fC_packVA, fP_packVA, fT_packVA, hne, hge, hlt, hg, litOk_VOpnd, withV_toBits,
    withVO_bits]
  rfl

theorem vunpk_decodes {g : Fin 8} (hw : (Instr.vunpk a g).wellFormed = true) :
    decodeEncoded ⟨.v, packVA 0x42 a.toBits 0 0 (BitVec.ofNat 4 g.val) 0, none⟩ = .ok (.vunpk a g) := by
  simp only [Instr.wellFormed, fieldsOk, Bool.and_eq_true, decide_eq_true_eq] at hw
  obtain ⟨hne, hge, hlt, hg⟩ := granule_bits g hw.1.2
  rw [decodeEncoded, decodeSlot, decodeV, fOp_packVA]
  change needI _ _ = _
  simp only [fA_packVA, fB_packVA, fC_packVA, fP_packVA, fT_packVA, hne, hge, hlt, hg, withV_toBits]
  rfl

theorem half_bits : ∀ hi : Bool, (0#1 ++ bit1 hi).getLsbD 1 = false ∧ (0#1 ++ bit1 hi).getLsbD 0 = hi := by decide

theorem vzip_decodes {hi : Bool} (hw : (Instr.vzip a b t hi).wellFormed = true) :
    decodeEncoded (encV2 0x54 a b t (0#1 ++ bit1 hi)) = .ok (.vzip a b t hi) := by
  obtain ⟨hz, hh⟩ := half_bits hi
  rw [decodeEncoded, encV2, decodeSlot, decodeV, fOp_packVA]
  change needI _ _ = _
  rw [fP_packVA, hz]
  have h := vaAB_pack (op := 0x54) (a := a) (b := b) (t := t) (p := 0#1 ++ bit1 hi) (pz := false)
    (k := fun a b t p => .vzip a b t (p.getLsbD 0)) (.inl rfl) (by simpa only [hh] using hw) rfl
  rwa [hh] at h

theorem vunzip_decodes {hi : Bool} (hw : (Instr.vunzip a b t hi).wellFormed = true) :
    decodeEncoded (encV2 0x55 a b t (0#1 ++ bit1 hi)) = .ok (.vunzip a b t hi) := by
  obtain ⟨hz, hh⟩ := half_bits hi
  rw [decodeEncoded, encV2, decodeSlot, decodeV, fOp_packVA]
  change needI _ _ = _
  rw [fP_packVA, hz]
  have h := vaAB_pack (op := 0x55) (a := a) (b := b) (t := t) (p := 0#1 ++ bit1 hi) (pz := false)
    (k := fun a b t p => .vunzip a b t (p.getLsbD 0)) (.inl rfl) (by simpa only [hh] using hw) rfl
  rwa [hh] at h

theorem vmov_bits : ∀ n : Fin 16, 16 ≤ (BitVec.ofNat 6 (16 + n.val)).toNat ∧
    (BitVec.ofNat 6 (16 + n.val)).toNat < 32 ∧ Fin.ofNat 16 (BitVec.ofNat 6 (16 + n.val)).toNat = n := by
  decide

theorem vmov_decodes {n : Fin 16} :
    decodeEncoded ⟨.v, packVA 0x56 a.toBits 0 (BitVec.ofNat 6 (16 + n.val)) t.toBits 0, none⟩ = .ok (.vmov a n t) := by
  obtain ⟨hlo, hhi, hn⟩ := vmov_bits n
  rw [decodeEncoded, decodeSlot, decodeV, fOp_packVA]
  change needI _ _ = _
  simp only [fA_packVA, fB_packVA, fC_packVA, fP_packVA, fT_packVA, withT, hlo, hhi, hn, withV_toBits, Ty.ofBits_toBits,
    orErr_some]
  rfl

theorem vsw_bits : ∀ n : Fin 8, 32 ≤ (BitVec.ofNat 6 (32 + n.val)).toNat ∧
    (BitVec.ofNat 6 (32 + n.val)).toNat < 40 ∧ Fin.ofNat 8 (BitVec.ofNat 6 (32 + n.val)).toNat = n := by
  decide

theorem vsw_decodes {n : Fin 8} :
    decodeEncoded ⟨.v, packVA 0x57 a.toBits 0 (BitVec.ofNat 6 (32 + n.val)) t.toBits 0, none⟩ = .ok (.vsw a n t) := by
  obtain ⟨hlo, hhi, hn⟩ := vsw_bits n
  rw [decodeEncoded, decodeSlot, decodeV, fOp_packVA]
  change needI _ _ = _
  simp only [fA_packVA, fB_packVA, fC_packVA, fP_packVA, fT_packVA, withT, hlo, hhi, hn, withV_toBits, Ty.ofBits_toBits,
    orErr_some]
  rfl

end

section
variable {z : Fin 8}

theorem mzero_decodes : decodeEncoded (encMX 0x08 z 0 0 0 0) = .ok (.mzero z) := by
  revert z
  decide

/-- Above the negation bit an MX word without B and K is zero up to A. -/
theorem packMX_zero_flag (op : BitVec 8) (z x : BitVec 3) (s : Bool) :
    (packMX op z x 0 0 (0#6 ++ bit1 s)).extractLsb' 1 17 = 0 := by
  apply BitVec.eq_of_getLsbD_eq
  intro n hn
  rw [BitVec.getLsbD_extractLsb', packMX_bit, BitVec.getLsbD_append]
  split_ifs <;> first | omega | simp

/-- Between its low field and Z an MX word with neither A, B nor K is zero. -/
theorem packMX_zero_middle (op : BitVec 8) (z : BitVec 3) (f : BitVec 7) : (packMX op z 0 0 0 f).extractLsb' 7 14 = 0 := by
  apply BitVec.eq_of_getLsbD_eq
  intro n hn
  rw [BitVec.getLsbD_extractLsb', packMX_bit]
  split_ifs <;> first | omega | simp

theorem macc_decodes {x : Fin 8} {neg : Bool} : decodeEncoded (encMX 0x09 z x 0 0 (0#6 ++ bit1 neg)) = .ok (.macc z x neg) := by
  rw [decodeEncoded, encMX, decodeSlot, decodeM, fOp_packMX]
  change needI _ _ = _
  have hneg : (packMX 0x09 (BitVec.ofNat 3 z.val) (BitVec.ofNat 3 x.val) 0 0 (0#6 ++ bit1 neg)).getLsbD 0 = neg := by
    rw [packMX_bit]
    exact getLsbD_flag neg
  rw [show BitVec.ofNat 3 (0 : Fin 8).val = 0 from rfl]
  simp only [fZ_packMX, fTA_packMX, packMX_zero_flag, hneg, toFin_ofNat (n := 3) z, toFin_ofNat (n := 3) x]
  rfl

theorem mscl_decodes {e : BitVec 7} : decodeEncoded (encMX 0x0A z 0 0 0 e) = .ok (.mscl z e) := by
  rw [decodeEncoded, encMX, decodeSlot, decodeM, fOp_packMX]
  change needI _ _ = _
  rw [show BitVec.ofNat 3 (0 : Fin 8).val = 0 from rfl]
  simp only [fZ_packMX, fFL_packMX, packMX_zero_middle, toFin_ofNat (n := 3) z]
  rfl

theorem mfmt_decodes {v : BitVec 7} : decodeEncoded (encMX 0x18 0 0 0 0 v) = .ok (.mfmt v) := by
  revert v
  decide

theorem mfence_decodes : decodeEncoded (encMX 0x28 0 0 0 0 0) = .ok .mfence := by decide

/-- The fields of MSAVE and MLOAD (R345). -/
theorem polder_bits (op : BitVec 8) (z : BitVec 3) (h : Bool) (p : Fin 32) :
    let w := packMX op z 0 0 0 (0#1 ++ bit1 h ++ BitVec.ofNat 5 p.val)
    w.extractLsb' 6 15 = 0 ∧ w.getLsbD 5 = h ∧ (w.extractLsb' 0 5).toFin = p := by
  refine ⟨?_, ?_, ?_⟩
  · apply BitVec.eq_of_getLsbD_eq
    intro n hn
    rw [BitVec.getLsbD_extractLsb', packMX_bit, BitVec.getLsbD_append, BitVec.getLsbD_append]
    split_ifs <;> first | omega | simp
  · rw [packMX_bit, BitVec.getLsbD_append, BitVec.getLsbD_append]
    cases h <;> rfl
  · have he := extract_extract (l := 7) (packMX op z 0 0 0 (0#1 ++ bit1 h ++ BitVec.ofNat 5 p.val)) (s := 0) (s' := 0)
      (l' := 5) (by decide)
    rw [← he, show (packMX op z 0 0 0 (0#1 ++ bit1 h ++ BitVec.ofNat 5 p.val)).extractLsb' 0 7 = _ from fFL_packMX ..,
      BitVec.extractLsb'_append_eq_right]
    exact toFin_ofNat (n := 5) p

theorem msave_decodes {h : Bool} {p : Fin 32} :
    decodeEncoded (encMX 0x20 z 0 0 0 (0#1 ++ bit1 h ++ BitVec.ofNat 5 p.val)) = .ok (.msave z h p) := by
  obtain ⟨hz, hh, hp⟩ := polder_bits 0x20 (BitVec.ofNat 3 z.val) h p
  rw [decodeEncoded, encMX, decodeSlot, decodeM, fOp_packMX]
  change needI _ _ = _
  rw [show BitVec.ofNat 3 (0 : Fin 8).val = 0 from rfl]
  simp only [fZ_packMX, hz, hh, hp, toFin_ofNat (n := 3) z]
  rfl

theorem mload_decodes {h : Bool} {p : Fin 32} :
    decodeEncoded (encMX 0x21 z 0 0 0 (0#1 ++ bit1 h ++ BitVec.ofNat 5 p.val)) = .ok (.mload z h p) := by
  obtain ⟨hz, hh, hp⟩ := polder_bits 0x21 (BitVec.ofNat 3 z.val) h p
  rw [decodeEncoded, encMX, decodeSlot, decodeM, fOp_packMX]
  change needI _ _ = _
  rw [show BitVec.ofNat 3 (0 : Fin 8).val = 0 from rfl]
  simp only [fZ_packMX, hz, hh, hp, toFin_ofNat (n := 3) z]
  rfl

/-- The fields of an MDRAIN word (R341). -/
theorem mdrain_fields (op : BitVec 8) (z : BitVec 3) (q clr : BitVec 1) (pol rm : BitVec 2) (first rows t : BitVec 4) :
    let w : BWord := op ++ z ++ q ++ pol ++ clr ++ rm ++ first ++ rows ++ 0#3 ++ t
    fOp w = op ∧ fZ w = z ∧ w.extractLsb' 20 1 = q ∧ w.extractLsb' 18 2 = pol ∧ w.extractLsb' 17 1 = clr ∧
      w.extractLsb' 15 2 = rm ∧ w.extractLsb' 11 4 = first ∧ w.extractLsb' 7 4 = rows ∧ w.extractLsb' 4 3 = 0 ∧
      w.extractLsb' 0 4 = t := by
  refine ⟨?_, ?_, ?_, ?_, ?_, ?_, ?_, ?_, ?_, ?_⟩ <;>
    simp (disch := decide) only [fOp, fZ, BitVec.extractLsb'_append_eq_of_le, Nat.reduceSub,
      BitVec.extractLsb'_append_eq_left, BitVec.extractLsb'_append_eq_right, BitVec.extractLsb'_eq_self]
  all_goals rfl

theorem mdrain_decodes {q : Fin 2} {pol : Pol} {clr : Bool} {rm : Rm} {first rows : BitVec 4} {t : Ty}
    (hw : (Instr.mdrain z q pol clr rm first rows t).wellFormed = true) :
    decodeEncoded ⟨.m, 0x10#8 ++ BitVec.ofNat 3 z.val ++ BitVec.ofNat 1 q.val ++ pol.toBits ++ bit1 clr ++ rm.toBits ++
      first ++ rows ++ 0#3 ++ t.toBits, none⟩ = .ok (.mdrain z q pol clr rm first rows t) := by
  obtain ⟨hop, hz, hq, hpol, hclr, hrm, hfirst, hrows, hzero, ht⟩ :=
    mdrain_fields 0x10#8 (BitVec.ofNat 3 z.val) (BitVec.ofNat 1 q.val) (bit1 clr) pol.toBits rm.toBits first rows t.toBits
  have hlen : decide (first.toNat + rows.toNat + 1 ≤ 16) = true := by
    simp only [Instr.wellFormed, Bool.and_eq_true] at hw
    exact hw.1.2
  have hclr' : BitVec.getLsbD (0x10#8 ++ BitVec.ofNat 3 z.val ++ BitVec.ofNat 1 q.val ++ pol.toBits ++ bit1 clr ++
      rm.toBits ++ first ++ rows ++ 0#3 ++ t.toBits) 17 = clr := by
    have h := (bit1_getLsbD _ 17).trans hclr
    revert h
    generalize BitVec.getLsbD _ 17 = x
    cases x <;> cases clr <;> decide
  rw [decodeEncoded, decodeSlot, decodeM, hop]
  change needI _ _ = _
  simp only [hz, hq, hpol, hclr', hrm, hfirst, hrows, hzero, ht, hlen, toFin_ofNat (n := 3) z, toFin_ofNat (n := 1) q,
    Ty.ofBits_toBits, Pol.ofBits_toBits, Rm.ofBits_toBits, orErr_some, checked_of hw]
  rfl

end

section
variable {g : Fin 64} {a b : SSpec} {c : SOpnd} {r : WReg}

theorem tile_bits (n : Fin 8) : (4#3 ++ BitVec.ofNat 3 n.val).extractLsb' 3 3 = 4 ∧
    ((4#3 ++ BitVec.ofNat 3 n.val).extractLsb' 0 3).toFin = n := by
  revert n
  decide

theorem ctld_decodes {n : Fin 8} :
    decodeEncoded (encCX 0x04 g (4#3 ++ BitVec.ofNat 3 n.val) b.toBits c) = .ok (.ctld g n b c) := by
  obtain ⟨h4, hn⟩ := tile_bits n
  rw [decodeEncoded, encCX, decodeSlot, decodeC, fOp_packCX]
  change needI _ _ = _
  simp only [fTag_packCX, fCA_packCX, fCB_packCX, fCC_packCX, h4, hn, litOk_SOpnd, withS_toBits, withSO_bits,
    toFin_ofNat (n := 6) g]
  rfl

theorem ctst_decodes {n : Fin 8} :
    decodeEncoded (encCX 0x05 g (4#3 ++ BitVec.ofNat 3 n.val) b.toBits c) = .ok (.ctst g n b c) := by
  obtain ⟨h4, hn⟩ := tile_bits n
  rw [decodeEncoded, encCX, decodeSlot, decodeC, fOp_packCX]
  change needI _ _ = _
  simp only [fTag_packCX, fCA_packCX, fCB_packCX, fCC_packCX, h4, hn, litOk_SOpnd, withS_toBits, withSO_bits,
    toFin_ofNat (n := 6) g]
  rfl

theorem queue_bits (q : Fin 2) : (16#5 ++ BitVec.ofNat 1 q.val).extractLsb' 1 5 = 16 ∧
    ((16#5 ++ BitVec.ofNat 1 q.val).extractLsb' 0 1).toFin = q := by
  revert q
  decide

theorem cqst_decodes {q : Fin 2} :
    decodeEncoded (encCX 0x06 g (16#5 ++ BitVec.ofNat 1 q.val) b.toBits c) = .ok (.cqst g q b c) := by
  obtain ⟨h16, hq⟩ := queue_bits q
  rw [decodeEncoded, encCX, decodeSlot, decodeC, fOp_packCX]
  change needI _ _ = _
  simp only [fTag_packCX, fCA_packCX, fCB_packCX, fCC_packCX, h16, hq, litOk_SOpnd, withS_toBits, withSO_bits,
    toFin_ofNat (n := 6) g]
  rfl

theorem cpref_decodes : decodeEncoded (encCX 0x09 0 a.toBits 0 c) = .ok (.cpref a c) := by
  rw [decodeEncoded, encCX, decodeSlot, decodeC, fOp_packCX]
  change needI _ _ = _
  simp only [fTag_packCX, fCA_packCX, fCB_packCX, fCC_packCX, litOk_SOpnd, withS_toBits, withSO_bits]
  rfl

theorem ttset_decodes : decodeEncoded (encCX0 0x30 0 a.toBits b.toBits) = .ok (.ttset a b) := by
  rw [decodeEncoded, encCX0, decodeSlot, decodeC, fOp_packCX]
  change needI _ _ = _
  simp only [fTag_packCX, fCA_packCX, fCB_packCX, fCC_packCX, withS_toBits]
  rfl

/-- A result register in a tag's place. -/
theorem result_bits (op : BitVec 8) (r : WReg) (x y : BitVec 6) :
    (packCX op (0#1 ++ wToBits r) x y 0).getLsbD 23 = false ∧
      (packCX op (0#1 ++ wToBits r) x y 0).extractLsb' 18 5 = wToBits r := by
  constructor
  · simp only [packCX_bit, BitVec.getLsbD_append]
    rfl
  · have h := extract_extract (l := 6) (packCX op (0#1 ++ wToBits r) x y 0) (s := 18) (s' := 0) (l' := 5) (by decide)
    exact h.symm.trans ((congrArg (BitVec.extractLsb' 0 5) (fTag_packCX ..)).trans BitVec.extractLsb'_append_eq_right)

theorem rstat_decodes : decodeEncoded (encCX0 0x34 (0#1 ++ wToBits r) a.toBits 0) = .ok (.rstat r a) := by
  obtain ⟨hz, hr⟩ := result_bits 0x34 r a.toBits 0
  rw [decodeEncoded, encCX0, decodeSlot, decodeC, fOp_packCX]
  change needI _ _ = _
  simp only [fCA_packCX, fCB_packCX, fCC_packCX, hz, hr, withS_toBits, withW_toBits]
  rfl

theorem nbq_decodes : decodeEncoded (encCX0 0x42 (0#1 ++ wToBits r) a.toBits b.toBits) = .ok (.nbq r a b) := by
  obtain ⟨hz, hr⟩ := result_bits 0x42 r a.toBits b.toBits
  rw [decodeEncoded, encCX0, decodeSlot, decodeC, fOp_packCX]
  change needI _ _ = _
  simp only [fCA_packCX, fCB_packCX, fCC_packCX, hz, hr, withS_toBits, withW_toBits]
  rfl

theorem hsig_decodes : decodeEncoded (encCX 0x50 0 a.toBits b.toBits c) = .ok (.hsig a b c) := by
  rw [decodeEncoded, encCX, decodeSlot, decodeC, fOp_packCX]
  change needI _ _ = _
  simp only [fTag_packCX, fCA_packCX, fCB_packCX, fCC_packCX, litOk_SOpnd, withS_toBits, withSO_bits]
  rfl

end

/-! ### The four maps -/

/-- What is written in the S map decodes to its instruction. -/
theorem decodeS_encode {i : Instr} {w : BWord} {lit : Option BWord} (hw : i.wellFormed = true)
    (he : encode i = some ⟨.s, w, lit⟩) : decodeS w lit = .ok i := by
  cases i <;> cases he
  case add | sub | mul | div | divz | rem | remz | shl | shr | sra | rot | adjrd | adjclr =>
    exact saBinW_decodes fun w lit h => by rw [decodeS, h]; rfl
  case mulh | mulhz | and | or | xor | andn | min | max | minz | maxz | calli | bwait | btest =>
    exact saBin_decodes fun w lit h => by rw [decodeS, h]; rfl
  case clz | ctz | popc => exact saUnW_decodes fun w lit h => by rw [decodeS, h]; rfl
  case mqrd | twait | twany | tffr | lnch | scrub | wfi => exact saUn_decodes fun w lit h => by rw [decodeS, h]; rfl
  case mqrel | ret | tclr | barr | binv | yield => exact saUnN_decodes fun w lit h => by rw [decodeS, h]; rfl
  case jt | binit => exact saBinN_decodes fun w lit h => by rw [decodeS, h]; rfl
  case nop | endI | eret => decide
  case addi | andi | ori | xori => exact siImm_decodes fun w lit h => by rw [decodeS, h]; rfl
  case shli | shri | srai => exact siShift_decodes fun w lit h => by rw [decodeS, h]; rfl
  case beqz | bnez | bltz | bgez => exact sbA_decodes fun w lit h => by rw [decodeS, h]; rfl
  case br | bmz | bmnz | call => exact sbN_decodes fun w lit h => by rw [decodeS, h]; rfl
  case cmp => exact cmp_decodes hw
  case sel => exact sel_decodes
  case agen => exact agen_decodes
  case bfi => exact bfi_decodes
  case movx a r k m =>
    cases m with
    | rdX => exact movx_decodes (m := .rdX)
    | rdT => exact movx_decodes (m := .rdT)
    | wrX => exact movx_decodes (m := .wrX)
  case li => exact li_decodes
  case bfx => exact bfx_decodes hw
  case trap => exact trap_decodes
  case ld => exact ld_decodes
  case st => exact st_decodes hw
  case spl => exact spl_decodes
  case fil => exact fil_decodes
  case amo => exact amo_decodes hw
  case amocas => exact amocas_decodes
  case fence => exact fence_decodes
  case loop => exact loop_decodes hw
  case csrr => exact csrr_decodes hw
  case csrw => exact csrw_decodes hw
  case sbindRd => exact sbindRd_decodes
  case sbindWr => exact sbindWr_decodes
  case sunbind => exact sunbind_decodes
  case dmodeFwd => exact dmodeFwd_decodes
  case dmodeRew => exact dmodeRew_decodes
  case tlbinvPart => exact tlbinvPart_decodes
  case tlbinvIpa => exact tlbinvIpa_decodes
  case tlbinvAll => exact tlbinvAll_decodes
  case voteRd => exact voteRd_decodes
  case voteAbort => exact voteAbort_decodes
  case voteCommit => exact voteCommit_decodes

/-- What is written in the V map decodes to its instruction. -/
theorem decodeV_encode {i : Instr} {w : BWord} {lit : Option BWord} (hw : i.wellFormed = true)
    (he : encode i = some ⟨.v, w, lit⟩) : decodeV w lit = .ok i := by
  cases i <;> cases he
  case vadd | vsub | vmul | vdiv | vscl | vanc | vdanc | vdot =>
    exact vaAB_decodes hw rfl fun w lit h => by rw [decodeV, h]; rfl
  case vmin | vmax | vcps | vand | vor | vxor | vshl | vshr | vsra | vmulh | vperm | vext =>
    exact vaAB_zero_decodes hw rfl fun w lit h => by rw [decodeV, h]; rfl
  case vfma | vfms | vfnma | vqdec => exact vaABC_decodes hw fun w lit h => by rw [decodeV, h]; rfl
  case vsel | vslide => exact vaABC_zero_decodes hw fun w lit h => by rw [decodeV, h]; rfl
  case vsqrt | vrsq | vrcp | vexp2 | vlog2 | vabs | vneg | vrsum | vscan =>
    exact vaA_decodes hw rfl fun w lit h => by rw [decodeV, h]; rfl
  case vnot | vclass | vbcst | viota | vrmax | vrmin | mpush | mset =>
    exact vaA_zero_decodes hw rfl fun w lit h => by rw [decodeV, h]; rfl
  case minv | mpop => decide
  case vcmp => exact vcmp_decodes hw
  case vcvt => exact vcvt_decodes hw
  case vpack => exact vpack_decodes hw
  case vunpk => exact vunpk_decodes hw
  case vzip => exact vzip_decodes hw
  case vunzip => exact vunzip_decodes hw
  case vmov => exact vmov_decodes
  case vsw => exact vsw_decodes

/-- What is written in the M map decodes to its instruction. -/
theorem decodeM_encode {i : Instr} {w : BWord} {lit : Option BWord} (hw : i.wellFormed = true)
    (he : encode i = some ⟨.m, w, lit⟩) : decodeM w lit = .ok i := by
  cases i <;> cases he
  case mop | mopz | mr1 | mr1z => exact mxOuter_decodes fun w h => by rw [decodeM, h]; rfl
  case mzero => exact mzero_decodes
  case macc => exact macc_decodes
  case mscl => exact mscl_decodes
  case mdrain => exact mdrain_decodes hw
  case mfmt => exact mfmt_decodes
  case msave => exact msave_decodes
  case mload => exact mload_decodes
  case mfence => exact mfence_decodes

/-- What is written in the C map decodes to its instruction. -/
theorem decodeC_encode {i : Instr} {w : BWord} {lit : Option BWord} (hw : i.wellFormed = true)
    (he : encode i = some ⟨.c, w, lit⟩) : decodeC w lit = .ok i := by
  cases i <;> cases he
  case cpy | cpyp | cstrp | cfill | fwr | famo | freq | msat => exact cxABC_decodes fun w lit h => by rw [decodeC, h]; rfl
  case czero | cflush | flnch | nbx => exact cxAC_decodes fun w lit h => by rw [decodeC, h]; rfl
  case cmsg | nbld => exact cxAB_decodes fun w lit h => by rw [decodeC, h]; rfl
  case trdy | rcut | rpick => exact cxA_decodes fun w lit h => by rw [decodeC, h]; rfl
  case ctld => exact ctld_decodes
  case ctst => exact ctst_decodes
  case cqst => exact cqst_decodes
  case cpref => exact cpref_decodes
  case ttset => exact ttset_decodes
  case rstat => exact rstat_decodes
  case nbq => exact nbq_decodes
  case hsig => exact hsig_decodes

/-- Settles O55: each of the four maps reads what the encoder writes in it. -/
theorem decodingUndoesEncoding : Obligations.DecodingUndoesEncoding := by
  intro i e hw he
  obtain ⟨cls, w, lit⟩ := e
  cases cls with
  | s => exact decodeS_encode hw he
  | v => exact decodeV_encode hw he
  | m => exact decodeM_encode hw he
  | c => exact decodeC_encode hw he

/-- Settles O56: a word that decodes reads back in each of the four maps. -/
theorem encodingUndoesDecoding : Obligations.EncodingUndoesDecoding := by
  intro cls w lit i h
  cases cls with
  | s => exact decodeS_reads h
  | v => exact decodeV_reads h
  | m => exact decodeM_reads h
  | c => exact decodeC_reads h

end Sys2Proof
end

section
/-! The integer instructions of the S slot (R266, R272, R287, R288, R290, R292): the value each of them writes, and the
shared shape of their steps. -/

namespace Sys2Proof.Machine

/-! ### The steps, once their operands are read -/

/-- An instruction of two operands writes its function of them. -/
theorem binary_runs {i : Instr} {s s1 s2 : State} {a : SSpec} {b : SOpnd} {w : WReg} {x y v : Word} {lat : Nat}
    {f : Word → Word → Word} (hx : readS s a 0 = .ok x s1) (hy : readSO s1 b 1 = .ok y s2)
    (hi : exec i s = finish s (binary s a b w lat f)) (hv : f x y = v) : Runs i s (s2.result v lat w) := by
  rw [Runs, hi, binary, hx, SlotRes.bind_ok, hy, SlotRes.bind_ok, hv, finish_ok]

/-- An instruction of one operand writes its function of it. -/
theorem unary_runs {i : Instr} {s s1 : State} {a : SSpec} {w : WReg} {x v : Word} {f : Word → Word}
    (hx : readS s a 0 = .ok x s1) (hi : exec i s = finish s (unary s a w f)) (hv : f x = v) :
    Runs i s (s1.result v 1 w) := by
  rw [Runs, hi, unary, hx, SlotRes.bind_ok, hv, finish_ok]

/-! ### Sums, differences and products -/

/-- A 32-bit result from an integer that its low halves make modulo 2^32. -/
theorem sx32_eq_sext32 {v : BitVec 32} {z : Int} (h : v = BitVec.ofInt 32 z) : sx32 v = sext32 z := by
  rw [h, sx32, sext32]

/-- The low half of a word is its integer narrowed. -/
theorem lo32_eq_ofInt (x : Word) : lo32 x = BitVec.ofInt 32 x.toInt :=
  BitVec.eq_of_toInt_eq (by rw [lo32, BitVec.toInt_setWidth, BitVec.toInt_ofInt, BitVec.toInt_eq_toNat_bmod,
    Int.bmod_bmod_of_dvd (by decide)])

theorem ofInt_sub {n : Nat} (p q : Int) : BitVec.ofInt n (p - q) = BitVec.ofInt n p - BitVec.ofInt n q := by
  rw [Int.sub_eq_add_neg, BitVec.ofInt_add, BitVec.ofInt_neg, BitVec.sub_eq_add_neg]

section
variable (x y : Word)

theorem addW_64 : addW false x y = BitVec.ofInt 64 (x.toInt + y.toInt) := by
  rw [BitVec.ofInt_add, BitVec.ofInt_toInt, BitVec.ofInt_toInt]; rfl

theorem subW_64 : subW false x y = BitVec.ofInt 64 (x.toInt - y.toInt) := by
  rw [ofInt_sub, BitVec.ofInt_toInt, BitVec.ofInt_toInt]; rfl

theorem mulW_64 : mulW false x y = BitVec.ofInt 64 (x.toInt * y.toInt) := by
  rw [BitVec.ofInt_mul, BitVec.ofInt_toInt, BitVec.ofInt_toInt]; rfl

theorem addW_32 : addW true x y = sext32 (x.toInt + y.toInt) :=
  sx32_eq_sext32 (by rw [BitVec.ofInt_add, ← lo32_eq_ofInt, ← lo32_eq_ofInt])

theorem subW_32 : subW true x y = sext32 (x.toInt - y.toInt) :=
  sx32_eq_sext32 (by rw [ofInt_sub, ← lo32_eq_ofInt, ← lo32_eq_ofInt])

theorem mulW_32 : mulW true x y = sext32 (x.toInt * y.toInt) :=
  sx32_eq_sext32 (by rw [BitVec.ofInt_mul, ← lo32_eq_ofInt, ← lo32_eq_ofInt])

theorem mulhzW_eq : mulhzW x y = BitVec.ofNat 64 (x.toNat * y.toNat / 2 ^ 64) := by
  apply BitVec.eq_of_toNat_eq
  have hx := x.isLt
  have hy := y.isLt
  have hlt : x.toNat * y.toNat < 2 ^ 128 := by nlinarith
  rw [mulhzW, BitVec.extractLsb'_toNat, BitVec.toNat_mul, BitVec.toNat_setWidth, BitVec.toNat_setWidth,
    Nat.mod_eq_of_lt (show x.toNat < 2 ^ 128 by omega), Nat.mod_eq_of_lt (show y.toNat < 2 ^ 128 by omega),
    Nat.mod_eq_of_lt hlt, Nat.shiftRight_eq_div_pow, BitVec.toNat_ofNat]

theorem mulhW_eq : mulhW x y = BitVec.ofInt 64 (x.toInt * y.toInt / 2 ^ 64) := by
  have hp : x.signExtend 128 * y.signExtend 128 = BitVec.ofInt 128 (x.toInt * y.toInt) := by
    rw [BitVec.ofInt_mul, BitVec.signExtend, BitVec.signExtend]
  rw [mulhW, hp]
  apply BitVec.eq_of_toNat_eq
  rw [BitVec.extractLsb'_toNat, BitVec.toNat_ofInt, BitVec.toNat_ofInt, Nat.shiftRight_eq_div_pow]
  omega

/-! ### The lesser and the greater -/

theorem minW_eq : minW x y = BitVec.ofInt 64 (min x.toInt y.toInt) := by
  rw [minW, BitVec.slt_eq_decide]
  by_cases h : y.toInt < x.toInt
  · rw [if_pos (by simpa using h), min_eq_right h.le, BitVec.ofInt_toInt]
  · rw [if_neg (by simpa using h), min_eq_left (not_lt.1 h), BitVec.ofInt_toInt]

theorem maxW_eq : maxW x y = BitVec.ofInt 64 (max x.toInt y.toInt) := by
  rw [maxW, BitVec.slt_eq_decide]
  by_cases h : x.toInt < y.toInt
  · rw [if_pos (by simpa using h), max_eq_right h.le, BitVec.ofInt_toInt]
  · rw [if_neg (by simpa using h), max_eq_left (not_lt.1 h), BitVec.ofInt_toInt]

theorem minzW_eq : minzW x y = BitVec.ofNat 64 (min x.toNat y.toNat) := by
  rw [minzW, BitVec.ult_eq_decide]
  by_cases h : y.toNat < x.toNat
  · rw [if_pos (by simpa using h), Nat.min_eq_right h.le, BitVec.ofNat_toNat, BitVec.setWidth_eq]
  · rw [if_neg (by simpa using h), Nat.min_eq_left (Nat.le_of_not_lt h), BitVec.ofNat_toNat, BitVec.setWidth_eq]

theorem maxzW_eq : maxzW x y = BitVec.ofNat 64 (max x.toNat y.toNat) := by
  rw [maxzW, BitVec.ult_eq_decide]
  by_cases h : x.toNat < y.toNat
  · rw [if_pos (by simpa using h), Nat.max_eq_right h.le, BitVec.ofNat_toNat, BitVec.setWidth_eq]
  · rw [if_neg (by simpa using h), Nat.max_eq_left (Nat.le_of_not_lt h), BitVec.ofNat_toNat, BitVec.setWidth_eq]

/-! ### Shifts -/

/-- A 32-bit shift amount is that of the whole word. -/
theorem lo32_toNat_mod : (lo32 y).toNat % 32 = y.toNat % 32 := by
  rw [lo32, BitVec.toNat_setWidth]; omega

theorem lo32_toNat : (lo32 x).toNat = x.toNat % 2 ^ 32 := BitVec.toNat_setWidth _ _

theorem ushiftRight_eq_ofNat_div {n : Nat} (p : BitVec n) (k : Nat) : p >>> k = BitVec.ofNat n (p.toNat / 2 ^ k) := by
  apply BitVec.eq_of_toNat_eq
  rw [BitVec.toNat_ushiftRight, Nat.shiftRight_eq_div_pow, BitVec.toNat_ofNat,
    Nat.mod_eq_of_lt (lt_of_le_of_lt (Nat.div_le_self _ _) p.isLt)]

theorem shlW_64 : shlW false x y = BitVec.ofNat 64 (x.toNat * 2 ^ (y.toNat % 64)) :=
  BitVec.eq_of_toNat_eq (by rw [shlW, formOf]; simp [Nat.shiftLeft_eq])

theorem shlW_32 : shlW true x y = sext32 (x.toInt * 2 ^ (y.toNat % 32)) := by
  refine sx32_eq_sext32 ?_
  beta_reduce
  rw [lo32_toNat_mod, BitVec.shiftLeft_eq_mul_twoPow, BitVec.ofInt_mul, lo32_eq_ofInt]
  congr 1
  apply BitVec.eq_of_toNat_eq
  rw [BitVec.toNat_twoPow, BitVec.toNat_ofInt]
  norm_cast

theorem shrW_64 : shrW false x y = BitVec.ofNat 64 (x.toNat / 2 ^ (y.toNat % 64)) := by
  rw [shrW, formOf, if_neg (by simp), ushiftRight_eq_ofNat_div]

theorem shrW_32 : shrW true x y = sext32 (x.toNat % 2 ^ 32 / 2 ^ (y.toNat % 32) : Nat) := by
  refine sx32_eq_sext32 ?_
  beta_reduce
  rw [lo32_toNat_mod, BitVec.ofInt_natCast, ← lo32_toNat, ushiftRight_eq_ofNat_div]

theorem sraW_64 : sraW false x y = BitVec.ofInt 64 (x.toInt / 2 ^ (y.toNat % 64)) := by
  rw [sraW, formOf, if_neg (by simp), BitVec.sshiftRight, Int.shiftRight_eq_div_pow]
  norm_cast

theorem sraW_32 : sraW true x y = sext32 ((x.setWidth 32).toInt / 2 ^ (y.toNat % 32)) := by
  refine sx32_eq_sext32 ?_
  beta_reduce
  rw [lo32_toNat_mod, BitVec.sshiftRight, Int.shiftRight_eq_div_pow]
  norm_cast

theorem rotW_64 : rotW false x y = (x <<< (y.toNat % 64)) ||| (x >>> (64 - y.toNat % 64)) := by
  rw [rotW, formOf, if_neg (by simp), BitVec.rotateLeft, Nat.mod_mod, BitVec.rotateLeftAux]

theorem rotW_32 : rotW true x y =
    (((x.setWidth 32) <<< (y.toNat % 32)) ||| ((x.setWidth 32) >>> (32 - y.toNat % 32))).signExtend 64 := by
  have h : ∀ p : BitVec 32, ∀ n : Nat, p.rotateLeft (n % 32) = (p <<< (n % 32)) ||| (p >>> (32 - n % 32)) := by
    intro p n
    rw [BitVec.rotateLeft, Nat.mod_mod, BitVec.rotateLeftAux]
  rw [rotW, formOf, if_pos rfl, lo32_toNat_mod, h]
  rfl

end

/-! ### Counts of bits -/

theorem clzNat_le (v n : Nat) : clzNat v n ≤ n := by
  induction n with
  | zero => exact Nat.le_refl 0
  | succ n ih => rw [clzNat]; split <;> omega

/-- The leading zeros are those bits down to the first one set. -/
theorem clzNat_spec (v n : Nat) :
    (∀ i < clzNat v n, v.testBit (n - 1 - i) = false) ∧ (clzNat v n < n → v.testBit (n - 1 - clzNat v n) = true) := by
  induction n with
  | zero => simp [clzNat]
  | succ n ih =>
    rw [clzNat]
    split
    · next h => exact ⟨fun i hi => absurd hi (Nat.not_lt_zero i), fun _ => h⟩
    · next h =>
      obtain ⟨zeros, one⟩ := ih
      constructor
      · intro i hi
        cases i with
        | zero => exact eq_false_of_ne_true h
        | succ i => rw [show n + 1 - 1 - (i + 1) = n - 1 - i by omega]; exact zeros i (by omega)
      · intro hlt
        rw [show n + 1 - 1 - (1 + clzNat v n) = n - 1 - clzNat v n by omega]
        exact one (by omega)

theorem ctzNat_le (v n : Nat) : ∀ i, ctzNat v i n ≤ n := by
  induction n with
  | zero => exact fun _ => Nat.le_refl 0
  | succ n ih => intro i; have := ih (i + 1); rw [ctzNat]; split <;> omega

/-- The trailing zeros are those bits up to the first one set. -/
theorem ctzNat_spec (v n : Nat) : ∀ i,
    (∀ j < ctzNat v i n, v.testBit (i + j) = false) ∧ (ctzNat v i n < n → v.testBit (i + ctzNat v i n) = true) := by
  induction n with
  | zero => simp [ctzNat]
  | succ n ih =>
    intro i
    rw [ctzNat]
    split
    · next h => exact ⟨fun j hj => absurd hj (Nat.not_lt_zero j), fun _ => h⟩
    · next h =>
      obtain ⟨zeros, one⟩ := ih (i + 1)
      constructor
      · intro j hj
        cases j with
        | zero => exact eq_false_of_ne_true h
        | succ j => rw [show i + (j + 1) = i + 1 + j by omega]; exact zeros j (by omega)
      · intro hlt
        rw [show i + (1 + ctzNat v (i + 1) n) = i + 1 + ctzNat v (i + 1) n by omega]
        exact one (by omega)

theorem popNat_eq_countP (v n : Nat) : popNat v n = (List.range n).countP v.testBit := by
  induction n with
  | zero => rfl
  | succ n ih =>
    rw [popNat, List.range_succ, List.countP_append, ← ih, List.countP_singleton, Nat.add_comm]

section
variable {s s1 : State} {a : SSpec} {x : Word} (hx : readS s a 0 = .ok x s1) (w : WReg) (w32 : Bool)
include hx

theorem clz_runs : Runs (.clz a w w32) s (s1.result (BitVec.ofNat 64 (clzNat x.toNat (if w32 then 32 else 64))) 1 w) :=
  unary_runs hx rfl (by cases w32 <;> rfl)

theorem ctz_runs :
    Runs (.ctz a w w32) s (s1.result (BitVec.ofNat 64 (ctzNat x.toNat 0 (if w32 then 32 else 64))) 1 w) :=
  unary_runs hx rfl (by cases w32 <;> rfl)

theorem popc_runs : Runs (.popc a w w32) s (s1.result (BitVec.ofNat 64 (popNat x.toNat (if w32 then 32 else 64))) 1 w) :=
  unary_runs hx rfl (by cases w32 <;> rfl)

end

/-- Settles O1: each instruction is `binary` or `unary` of a function of the operands, and that function is the exact integer
narrowed, a count of bits, or bitwise by definition. -/
theorem integerAndBitwiseResults : Obligations.IntegerAndBitwiseResults := by
  refine ⟨?_, ?_, ?_⟩
  · intro s s1 s2 a b w x y hx hy
    exact ⟨binary_runs hx hy rfl (addW_64 x y), binary_runs hx hy rfl (addW_32 x y),
      binary_runs hx hy rfl (subW_64 x y), binary_runs hx hy rfl (subW_32 x y),
      binary_runs hx hy rfl (mulW_64 x y), binary_runs hx hy rfl (mulW_32 x y),
      binary_runs hx hy rfl (mulhW_eq x y), binary_runs hx hy rfl (mulhzW_eq x y),
      binary_runs hx hy rfl (minW_eq x y), binary_runs hx hy rfl (maxW_eq x y),
      binary_runs hx hy rfl (minzW_eq x y), binary_runs hx hy rfl (maxzW_eq x y)⟩
  · intro s s1 s2 a b w x y hx hy
    exact ⟨binary_runs hx hy rfl rfl, binary_runs hx hy rfl rfl, binary_runs hx hy rfl rfl, binary_runs hx hy rfl rfl,
      binary_runs hx hy rfl (shlW_64 x y), binary_runs hx hy rfl (shlW_32 x y),
      binary_runs hx hy rfl (shrW_64 x y), binary_runs hx hy rfl (shrW_32 x y),
      binary_runs hx hy rfl (sraW_64 x y), binary_runs hx hy rfl (sraW_32 x y),
      binary_runs hx hy rfl (rotW_64 x y), binary_runs hx hy rfl (rotW_32 x y)⟩
  · intro s s1 a w x w32 hx n
    obtain ⟨clzZeros, clzOne⟩ := clzNat_spec x.toNat n
    obtain ⟨ctzZeros, ctzOne⟩ := ctzNat_spec x.toNat n 0
    simp only [BitVec.testBit_toNat, Nat.zero_add] at clzZeros clzOne ctzZeros ctzOne
    refine ⟨⟨_, clzNat_le x.toNat n, clz_runs hx w w32, clzZeros, clzOne⟩,
      ⟨_, ctzNat_le x.toNat n 0, ctz_runs hx w w32, ctzZeros, ctzOne⟩, ?_⟩
    have h := popc_runs hx w w32
    rwa [popNat_eq_countP, show x.toNat.testBit = x.getLsbD from funext fun i => BitVec.testBit_toNat x] at h

/-! ### Compare, select and fields (R272, R290) -/

/-- Where CMP's condition decides the proposition `p`, its result is 1 or 0 by `p`. -/
theorem cmp_value {c : Cond} {x y : Word} {p : Prop} [Decidable p] (h : condHolds c x y = decide p) :
    (if condHolds c x y then 1 else 0 : Word) = if p then 1 else 0 := by
  simp only [h, decide_eq_true_eq]

/-- A value read past a second operand. -/
theorem three_run {i : Instr} {s s1 s2 s3 : State} {a c : SSpec} {b : SOpnd} {w : WReg} {x y z : Word}
    {f : Word → Word → Word → Word} (hx : readS s a 0 = .ok x s1) (hy : readSO s1 b 1 = .ok y s2)
    (hz : readS s2 c 2 = .ok z s3)
    (hi : exec i s = finish s ((readS s a 0).bind fun x s => (readSO s b 1).bind fun y s => (readS s c 2).bind fun z s =>
      .ok () (s.result (f x y z) 1 w))) : Runs i s (s3.result (f x y z) 1 w) := by
  rw [Runs, hi, hx, SlotRes.bind_ok, hy, SlotRes.bind_ok, hz, SlotRes.bind_ok, finish_ok]

theorem shiftLeft_eq_mul_ofNat (y : Word) (k : Nat) : y <<< k = y * BitVec.ofNat 64 (2 ^ k) := by
  rw [BitVec.shiftLeft_eq_mul_twoPow]
  exact congrArg (y * ·) (BitVec.eq_of_toNat_eq (by rw [BitVec.toNat_twoPow, BitVec.toNat_ofNat]))

/-- The bits of the mask of a field. -/
theorem getLsbD_fieldMask {pos len i : Nat} (hi : i < 64) :
    (BitVec.ofNat 64 ((2 ^ len - 1) * 2 ^ pos)).getLsbD i = decide (pos ≤ i ∧ i < pos + len) := by
  rw [BitVec.getLsbD_ofNat, Nat.testBit_mul_two_pow, Nat.testBit_two_pow_sub_one, Bool.eq_iff_iff]
  simp only [Bool.and_eq_true, decide_eq_true_eq]
  omega

theorem getLsbD_bfiW (a v b : Word) {i : Nat} (hi : i < 64) :
    (bfiW a v b).getLsbD i =
      if b.toNat % 64 ≤ i ∧ i < b.toNat % 64 + (b.toNat / 64 % 64 + 1) then v.getLsbD (i - b.toNat % 64)
      else a.getLsbD i := by
  have hpos : bitsOf b.toNat 0 6 = b.toNat % 64 := by simp [bitsOf]
  have hlen : bitsOf b.toNat 6 6 = b.toNat / 64 % 64 := by simp [bitsOf]
  rw [bfiW, hpos, hlen, BitVec.getLsbD_or, BitVec.getLsbD_and, BitVec.getLsbD_and, BitVec.getLsbD_not,
    getLsbD_fieldMask hi, BitVec.getLsbD_shiftLeft]
  by_cases h : b.toNat % 64 ≤ i ∧ i < b.toNat % 64 + (b.toNat / 64 % 64 + 1)
  · simp [h, hi]
  · simp [h, hi]

/-- A field of a word as a number. -/
theorem bitsOf_toNat {n : Nat} (x : BitVec n) (lo len : Nat) : bitsOf x.toNat lo len = (x.extractLsb' lo len).toNat := by
  rw [BitVec.extractLsb'_toNat, Nat.shiftRight_eq_div_pow]
  rfl

/-- `signed` is the integer that the bits stand for in two's complement. -/
theorem signed_toNat {n : Nat} (x : BitVec n) (hn : 0 < n) : signed n x.toNat = x.toInt := by
  obtain ⟨m, rfl⟩ := Nat.exists_eq_add_of_lt hn
  have := x.isLt
  rw [signed, BitVec.toInt_eq_toNat_cond, Nat.mod_eq_of_lt x.isLt]
  simp only [Nat.zero_add, Nat.add_sub_cancel, Nat.pow_succ]
  split <;> split <;> omega

theorem bfxW_zeros (a : Word) (pos len : Nat) : bfxW a pos len false = (a.extractLsb' pos len).setWidth 64 := by
  rw [bfxW, bitsOf_toNat, if_neg Bool.false_ne_true, BitVec.ofNat_toNat]

theorem bfxW_sign (a : Word) (pos : Nat) {len : Nat} (h : 0 < len) :
    bfxW a pos len true = (a.extractLsb' pos len).signExtend 64 := by
  rw [bfxW, bitsOf_toNat, signed_toNat _ h]
  rfl

theorem getLsbD_bfxW (a : Word) (sx : Bool) (pos len : Nat) {i : Nat} (hi : i < 64) :
    (bfxW a pos (len + 1) sx).getLsbD i =
      if i ≤ len then a.getLsbD (pos + i) else sx && a.getLsbD (pos + len) := by
  cases sx with
  | false =>
    rw [bfxW_zeros, BitVec.getLsbD_setWidth, BitVec.getLsbD_extractLsb']
    by_cases h : i ≤ len <;> simp [hi, h, Nat.lt_succ_iff]
  | true =>
    rw [bfxW_sign a pos (Nat.succ_pos len), BitVec.getLsbD_signExtend, BitVec.msb_eq_getLsbD_last,
      BitVec.getLsbD_extractLsb', BitVec.getLsbD_extractLsb']
    by_cases h : i ≤ len <;> simp [hi, h, Nat.lt_succ_iff]

/-! ### Immediate forms (R266, R292) -/

theorem setWidth_toNat_mod_64 (n : BitVec 6) : (n.setWidth 64).toNat % 64 = n.toNat := by
  rw [BitVec.toNat_setWidth]; omega

theorem lo32_setWidth_toNat_mod (n : BitVec 6) : (lo32 (n.setWidth 64)).toNat % 32 = n.toNat % 32 := by
  rw [lo32_toNat_mod, BitVec.toNat_setWidth]; omega

section
variable (x : Word) (n : BitVec 6)

theorem shlW_imm_64 : shlW false x (n.setWidth 64) = x <<< n.toNat :=
  congrArg (x <<< ·) (setWidth_toNat_mod_64 n)

theorem shrW_imm_64 : shrW false x (n.setWidth 64) = x >>> n.toNat :=
  congrArg (x >>> ·) (setWidth_toNat_mod_64 n)

theorem sraW_imm_64 : sraW false x (n.setWidth 64) = x.sshiftRight n.toNat :=
  congrArg x.sshiftRight (setWidth_toNat_mod_64 n)

theorem shlW_imm_32 : shlW true x (n.setWidth 64) = ((x.setWidth 32) <<< (n.toNat % 32)).signExtend 64 :=
  congrArg (fun m => sx32 (lo32 x <<< m)) (lo32_setWidth_toNat_mod n)

theorem shrW_imm_32 : shrW true x (n.setWidth 64) = ((x.setWidth 32) >>> (n.toNat % 32)).signExtend 64 :=
  congrArg (fun m => sx32 (lo32 x >>> m)) (lo32_setWidth_toNat_mod n)

theorem sraW_imm_32 : sraW true x (n.setWidth 64) = ((x.setWidth 32).sshiftRight (n.toNat % 32)).signExtend 64 :=
  congrArg (fun m => sx32 ((lo32 x).sshiftRight m)) (lo32_setWidth_toNat_mod n)

end

/-- Settles O3: each condition of CMP decides its comparison; the fields of BFI and BFX are read bit by bit; the immediate
forms are those of O1 with the immediate extended. -/
theorem compareSelectFieldAndImmediateResults : Obligations.CompareSelectFieldAndImmediateResults := by
  refine ⟨?_, ?_, ?_⟩
  · intro s s1 s2 s3 a c b w x y z k hx hy hz
    have cmp {cc : Cond} {p : Prop} [Decidable p] (h : condHolds cc x y = decide p) :
        Runs (.cmp a b w cc) s (s2.result (if p then 1 else 0) 1 w) := binary_runs hx hy rfl (cmp_value h)
    refine ⟨⟨cmp rfl, cmp ?_, cmp BitVec.slt_eq_decide, cmp BitVec.sle_eq_decide, cmp BitVec.sle_eq_decide,
      cmp BitVec.slt_eq_decide, cmp BitVec.ult_eq_decide, cmp BitVec.ule_eq_decide, cmp BitVec.ule_eq_decide,
      cmp BitVec.ult_eq_decide⟩, ?_, ?_, ?_⟩
    · rw [condHolds, bne, decide_not]
      rfl
    · exact three_run (f := fun x y z => if z = 0 then y else x) hx hy hz rfl
    · exact binary_runs hx hy rfl (by rw [shiftLeft_eq_mul_ofNat])
    · exact ⟨_, three_run (f := fun x y z => bfiW x z y) hx hy hz rfl, fun i hi => getLsbD_bfiW x z y hi⟩
  · intro s s1 a w x i n hx v
    have hv : immWord i = v := by cases i <;> rfl
    exact ⟨hv ▸ rfl, unary_runs hx rfl (by rw [hv]), unary_runs hx rfl (by rw [hv]),
      unary_runs hx rfl (by rw [hv]), unary_runs hx rfl (by rw [hv]),
      unary_runs hx rfl (shlW_imm_64 x n), unary_runs hx rfl (shlW_imm_32 x n),
      unary_runs hx rfl (shrW_imm_64 x n), unary_runs hx rfl (shrW_imm_32 x n),
      unary_runs hx rfl (sraW_imm_64 x n), unary_runs hx rfl (sraW_imm_32 x n)⟩
  · intro s s1 a w x sx len pos hx _
    exact ⟨_, unary_runs hx rfl rfl, fun i hi => getLsbD_bfxW x sx pos.toNat len.toNat hi⟩

end Sys2Proof.Machine
end

section
/-! Transfers of control, core control and the trap levels (R151, R250, R253, R291, R293-R298). -/

namespace Sys2Proof.Machine

/-! ### The state past an operand -/

theorem readS_issue {s s' : State} {sp : SSpec} {pos : Nat} {v : Word} (h : readS s sp pos = .ok v s') :
    s'.issue = s.issue := State.issue_of_only (readS_only h)

theorem readSO_issue {s s' : State} {o : SOpnd} {pos : Nat} {v : Word} (h : readSO s o pos = .ok v s') :
    s'.issue = s.issue := State.issue_of_only (readSO_only h)

theorem readSO_pre {s s' : State} {o : SOpnd} {pos : Nat} {v : Word} (h : readSO s o pos = .ok v s') :
    s'.pre = s.pre := congrArg Issue.pre (readSO_issue h)

/-- An instruction that comes to this state runs to it. -/
theorem runs_of_ok {i : Instr} {s t : State} {r : SlotRes Unit} (hi : exec i s = finish s r) (hr : r = .ok () t) :
    Runs i s t := by
  rw [Runs, hi, hr, finish_ok]

/-- An instruction that comes to this cause raises it. -/
theorem raises_of_trap {i : Instr} {s : State} {r : SlotRes Unit} {t : Trap} (hi : exec i s = finish s r)
    (hr : r = .trap t) : Raises i s t := by
  rw [Raises, Runs, hi, hr, finish_trap]

/-- An instruction that comes to this hold holds. -/
theorem holds_of_hold {i : Instr} {s : State} {r : SlotRes Unit} {h : Hold} (hi : exec i s = finish s r)
    (hr : r = .hold h) : Holds i s h := by
  rw [Holds, Runs, hi, hr, finish_hold]

/-- The slot that acts is the same after an operand has been read. -/
theorem slotTrap_of_issue {s s' : State} (h : s'.issue = s.issue) (c : Cause) (info : Word) :
    slotTrap s' c info = slotTrap s c info := by
  rw [slotTrap, slotTrap, h]

/-! ### Branches (R293, R294) -/

/-- A distance in words from the header word, of either form. -/
theorem sbTarget_eq (s : State) (o : Off) :
    sbTarget s o = s.pre.pc + 4 * (match o with | .off18 v => v.signExtend 64 | .lit v => v.signExtend 64) := by
  cases o <;> rfl

/-- A branch is taken where its condition holds of its operand. -/
theorem branchOn_runs {i : Instr} {s s1 : State} {a : SSpec} {o : Off} {x : Word} {p : Word → Bool} {q : Prop}
    [Decidable q] (h : readS s a 0 = .ok x s1) (hi : exec i s = finish s (branchOn s a o p)) (hp : p x = decide q) :
    Runs i s (if q then s1.transfer (sbTarget s o) else s1) := by
  have htarget : sbTarget s1 o = sbTarget s o := by rw [sbTarget, sbTarget, readS_pre h]
  refine runs_of_ok hi ?_
  simp only [branchOn, h, SlotRes.bind_ok, hp, htarget, decide_eq_true_eq]

theorem transfer_cur (s : State) (h : Word) : (s.transfer h).cur = (fun k : Core => { k with pc := h }) s.cur :=
  State.cur_upd s fun k => { k with pc := h }

/-- Settles O5: each branch is `branchOn` its condition, or tests the mask. -/
theorem branchesTakeTheirConditions : Obligations.BranchesTakeTheirConditions := by
  intro s s1 a o x hx off h
  have htarget : sbTarget s o = h := sbTarget_eq s o
  simp only [← htarget]
  refine ⟨rfl, branchOn_runs hx rfl rfl, branchOn_runs hx rfl (by rw [bne, decide_not]; rfl),
    branchOn_runs hx rfl BitVec.slt_eq_decide, branchOn_runs hx rfl ?_, rfl, ?_, ?_, rfl, ?_⟩
  · rw [BitVec.slt_eq_decide, ← decide_not]
    exact decide_eq_decide.2 Int.not_lt
  · exact runs_of_ok rfl (by rw [ite_not])
  · rw [transfer_cur]
  · rw [transfer_cur]

/-! ### Calls and returns (R151, R296) -/

/-- A call past its operands: what stands in the state that issues is what the call pushes. -/
theorem doCall_of_lt {s s' : State} (hi : s'.issue = s.issue) (target : Word) (w : WReg) (h : s.pre.ssp < 32) :
    doCall s' target w = .ok () (((s'.upd fun k =>
      { k with shadow := k.shadow.set s.pre.ssp (returnAddr s), ssp := s.pre.ssp + 1 }).result (returnAddr s) 1 w).transfer
        target) := by
  have hpre : s'.pre = s.pre := congrArg Issue.pre hi
  have hra : returnAddr s' = returnAddr s := by rw [returnAddr, returnAddr, hpre, hi]
  have h' : s'.pre.ssp < 32 := by rw [hpre]; exact h
  rw [doCall, dif_pos h', hra]
  simp only [hpre]

theorem doCall_of_ge {s s' : State} (hi : s'.issue = s.issue) (target : Word) (w : WReg) (h : 32 ≤ s.pre.ssp) :
    doCall s' target w = .trap (slotTrap s' .callDepth 0) := by
  rw [doCall, dif_neg (by rw [State.pre, hi]; exact Nat.not_lt.2 h)]
  rfl

/-- Settles O7: `doCall` pushes or refuses, and RET compares the top entry with its operand. -/
theorem callsAndReturnsKeepShadowStack : Obligations.CallsAndReturnsKeepShadowStack := by
  intro s s1 s2 a b w o x y hx hy off n ra pushed
  have htarget : sbTarget s o = s.pre.pc + 4 * off := sbTarget_eq s o
  have hi2 : s2.issue = s.issue := (readSO_issue hy).trans (readS_issue hx)
  have hpre1 : s1.pre = s.pre := readS_pre hx
  have calli (w : WReg) : exec (.calli a b w) s = finish s (doCall s2 (x + y) w) := by
    change finish s ((readS s a 0).bind fun x s => (readSO s b 1).bind fun y s => doCall s (x + y) w) = _
    rw [hx, SlotRes.bind_ok, hy, SlotRes.bind_ok]
  have ret : exec (.ret a) s = finish s (if n = 0 then .trap (slotTrap s1 .controlIntegrity 0) else
      need s1 (s.pre.shadow.toList.getD (n - 1) 0 == x) .controlIntegrity 0
        (.ok () ((s1.upd fun k => { k with ssp := n - 1 }).transfer x))) := by
    change finish s ((readS s a 0).bind _) = _
    rw [hx, SlotRes.bind_ok, hpre1]
    rfl
  refine ⟨fun h => ⟨?_, ?_⟩, fun h => ⟨?_, ?_⟩, ?_, fun m hm hmem => ?_, fun h => ?_⟩
  · rw [← htarget]
    exact runs_of_ok rfl (doCall_of_lt rfl _ 0 h)
  · exact runs_of_ok (calli w) (doCall_of_lt hi2 _ w h)
  · exact raises_of_trap rfl (doCall_of_ge rfl _ 0 h)
  · exact raises_of_trap (calli w) (doCall_of_ge hi2 _ w h)
  · exact runs_of_ok rfl (by rw [hx, SlotRes.bind_ok, hy, SlotRes.bind_ok])
  · refine runs_of_ok ret ?_
    rw [if_neg (by omega), show n - 1 = m by omega, hmem, beq_self_eq_true, need_true]
  · refine raises_of_trap ret ?_
    rcases Nat.eq_zero_or_pos n with h0 | hpos
    · rw [if_pos h0]
    · rw [if_neg (by omega), beq_eq_false_iff_ne.2 (h.resolve_left (by omega)), need_false]
      rfl

/-! ### What leaves memory alone -/

/-- Memory reads as before where HBM and L2 stand as before. -/
theorem SameMemory.of_eq {s t : State} (hm : t.mem = s.mem) (hl : t.l2 = s.l2) : SameMemory s t := by
  intro a
  refine ⟨by rw [hm], fun tag => ?_⟩
  have hat : t.l2At tag (a / 64) = s.l2At tag (a / 64) := by rw [State.l2At, State.l2At, hl]
  rw [State.peekByte, State.peekByte, hat, hm]

theorem SameMemory.refl (s : State) : SameMemory s s := SameMemory.of_eq rfl rfl

theorem SameMemory.trans {s t u : State} (h : SameMemory s t) (h' : SameMemory t u) : SameMemory s u := fun a =>
  ⟨(h' a).1.trans (h a).1, fun tag => ((h' a).2 tag).trans ((h a).2 tag)⟩

/-! ### A change made to several cores -/

section
variable (f : Core → Core)

theorem foldl_mapCore_only (l : List (Fin 256)) (s : State) :
    ({ l.foldl (fun s c => s.mapCore c f) s with cores := s.cores } : State) = s := by
  induction l generalizing s with
  | nil => rfl
  | cons c l ih =>
    have h := congrArg (fun u : State => ({ u with cores := s.cores } : State)) (ih (s.mapCore c f))
    exact h

theorem foldl_mapCore_coreAt_of_not_mem {l : List (Fin 256)} {d : Fin 256} (h : d ∉ l) (s : State) :
    (l.foldl (fun s c => s.mapCore c f) s).coreAt d = s.coreAt d := by
  induction l generalizing s with
  | nil => rfl
  | cons c l ih =>
    rw [List.mem_cons, not_or] at h
    rw [List.foldl_cons, ih h.2, State.coreAt_mapCore_ne s f h.1]

/-- What the change keeps of every core, the changes together keep. -/
theorem foldl_mapCore_coreAt_keeps {α : Type} (g : Core → α) (hg : ∀ k, g (f k) = g k) (l : List (Fin 256)) (s : State)
    (d : Fin 256) : g ((l.foldl (fun s c => s.mapCore c f) s).coreAt d) = g (s.coreAt d) := by
  induction l generalizing s with
  | nil => rfl
  | cons c l ih =>
    rw [List.foldl_cons, ih]
    by_cases h : d = c
    · rw [h, State.coreAt_mapCore, hg]
    · rw [State.coreAt_mapCore_ne s f h]

end

/-! ### A core that leaves its quad (R152) -/

theorem State.leaveQuad_only (s : State) (c : Fin 256) : ({ s.leaveQuad c with cores := s.cores } : State) = s := by
  unfold State.leaveQuad
  dsimp only
  split
  · exact foldl_mapCore_only _ _ s
  · rfl

@[simp] theorem State.leaveQuad_coreAt_self (s : State) (c : Fin 256) : (s.leaveQuad c).coreAt c = s.coreAt c := by
  unfold State.leaveQuad
  dsimp only
  split
  · exact foldl_mapCore_coreAt_of_not_mem _ (by simp) s
  · rfl

theorem State.leaveQuad_coreAt_keeps {α : Type} (g : Core → α) (hg : ∀ k : Core, g { k with lonely := true } = g k)
    (s : State) (c d : Fin 256) : g ((s.leaveQuad c).coreAt d) = g (s.coreAt d) := by
  unfold State.leaveQuad
  dsimp only
  split
  · exact foldl_mapCore_coreAt_keeps _ g hg _ s d
  · rfl

theorem State.leaveQuad_of_together (s : State) {c : Fin 256}
    (h : (s.coreAt c).hdr.tandem = false ∨ (s.coreAt c).joined = true) : s.leaveQuad c = s := by
  unfold State.leaveQuad
  dsimp only
  rw [if_neg]
  rcases h with h | h <;> simp [h]

@[simp] theorem State.leaveQuad_mem (s : State) (c : Fin 256) : (s.leaveQuad c).mem = s.mem :=
  (congrArg State.mem (s.leaveQuad_only c) :)
@[simp] theorem State.leaveQuad_l2 (s : State) (c : Fin 256) : (s.leaveQuad c).l2 = s.l2 :=
  (congrArg State.l2 (s.leaveQuad_only c) :)
@[simp] theorem State.leaveQuad_issue (s : State) (c : Fin 256) : (s.leaveQuad c).issue = s.issue :=
  (congrArg State.issue (s.leaveQuad_only c) :)
@[simp] theorem State.leaveQuad_launches (s : State) (c : Fin 256) : (s.leaveQuad c).launches = s.launches :=
  (congrArg State.launches (s.leaveQuad_only c) :)

/-! ### Core control and trap levels (R253, R291, R297, R298) -/

/-- END makes its core an ending one, and only leaves the quad besides. -/
theorem endI_runsTo (s : State) : RunsTo .endI s fun t => t.cur.run = .ending ∧ SameMemory s t ∧
    (s.cur.hdr.tandem = false ∨ s.cur.joined = true → t = s.upd fun k => { k with run := .ending }) := by
  have hcur : (s.upd fun k => { k with run := .ending }).coreAt s.issue.core = (fun k : Core => { k with run := .ending }) s.cur :=
    State.cur_upd s fun k => { k with run := .ending }
  refine ⟨(s.upd fun k => { k with run := .ending }).leaveQuad s.issue.core, rfl, ?_,
    SameMemory.of_eq (State.leaveQuad_mem _ _) (State.leaveQuad_l2 _ _), fun h => State.leaveQuad_of_together _ ?_⟩
  · rw [State.cur, State.leaveQuad_issue, show (s.upd fun k => { k with run := .ending }).issue.core = s.issue.core from rfl,
      State.leaveQuad_coreAt_self, hcur]
  · rw [hcur]
    exact h

/-- ERET returns to the level and the bundle of the handler's trap registers, and nothing else changes. -/
theorem eret_runsTo (s : State) (h : s.pre.level ≠ .u) :
    RunsTo .eret s fun t => t.cur = s.cur.eret ∧ (∀ d, d ≠ s.issue.core → t.coreAt d = s.coreAt d) ∧ SameMemory s t :=
  ⟨({ s.upd (·.eret) with issue := { s.issue with taken := true } } : State),
    runs_of_ok rfl (by rw [need_of (decide_eq_true h)]), State.cur_upd s (·.eret),
    fun _ hd => State.upd_coreAt_ne s (·.eret) hd, SameMemory.of_eq rfl rfl⟩

theorem eret_raises (s : State) (h : s.pre.level = .u) : Raises .eret s (slotTrap s .privileged 0) :=
  raises_of_trap rfl (by rw [decide_eq_false (by rw [h]; simp), need_false]; rfl)

/-- What MOVX comes to in U (R291). -/
theorem movx_atU {s : State} (hu : s.pre.level = .u) (a : SSpec) (w : WReg) (idx : Fin 16) (f : MovxForm) :
    exec (.movx a w idx f) s = finish s (if f = .rdX ∧ idx = 0 then unary s a w id else raise s .illegalOpcode 0) := by
  change finish s _ = _
  rw [if_pos hu]

/-- What MOVX comes to in a handler, by its form (R291). -/
theorem movx_rdX {s : State} (hu : s.pre.level ≠ .u) {w : WReg} {idx : Fin 16} {v : Word}
    (h : s.pre.seeX (movxLevel s.pre) idx = .settled v) : Runs (.movx (.take 0) w idx .rdX) s (s.result v 1 w) := by
  refine runs_of_ok rfl ?_
  rw [if_neg hu]
  simp only [h, readSeen_settled, SlotRes.bind_ok]
  rfl

theorem movx_rdT {s : State} (hu : s.pre.level ≠ .u) {w : WReg} {idx : Fin 16} {v : Word}
    (h : s.pre.seeTake (movxLevel s.pre) idx = .settled v) : Runs (.movx (.take 0) w idx .rdT) s (s.result v 1 w) := by
  refine runs_of_ok rfl ?_
  rw [if_neg hu]
  simp only [h, readSeen_settled, SlotRes.bind_ok]
  rfl

theorem movx_wrX {s s1 : State} (hu : s.pre.level ≠ .u) {a : SSpec} {x : Word} (hx : readS s a 0 = .ok x s1) (w : WReg)
    (idx : Fin 16) : Runs (.movx a w idx .wrX) s ((s1.result x 1 w).upd fun k => k.writeX (movxLevel s.pre) idx x 1) := by
  refine runs_of_ok rfl ?_
  rw [if_neg hu]
  simp only [hx, SlotRes.bind_ok]

/-- Settles O8, form by form. -/
theorem coreControlAndTrapLevelInstructions : Obligations.CoreControlAndTrapLevelInstructions := by
  refine ⟨?_, ?_, ?_⟩
  · intro s s1 a x imm hx
    refine ⟨rfl, endI_runsTo s, fun hpos => ?_, fun h0 => ?_, rfl, eret_raises s⟩
    · refine runs_of_ok rfl ?_
      rw [hx, SlotRes.bind_ok]
      dsimp only
      rw [if_neg (by omega)]
    · refine runs_of_ok rfl ?_
      rw [hx, SlotRes.bind_ok, h0]
      rfl
  · intro s hu r
    obtain ⟨t, ht, hcur, hothers, hmem⟩ := eret_runsTo s hu
    exact ⟨t, ht, by rw [hcur]; rfl, by rw [hcur]; rfl, by rw [hcur]; rfl, by rw [hcur]; rfl, by rw [hcur]; rfl, hothers, hmem⟩
  · intro s s1 a w x idx f hx
    refine ⟨fun hu => ?_, fun hu hform => ?_, fun hu l hl => ?_⟩
    · exact runs_of_ok (movx_atU hu a w 0 .rdX) (by rw [if_pos ⟨rfl, rfl⟩, unary, hx, SlotRes.bind_ok, id])
    · exact raises_of_trap (movx_atU hu a w idx f) (by rw [if_neg (by tauto)]; rfl)
    · obtain rfl : l = movxLevel s.pre := hl
      exact ⟨fun v => movx_rdX hu, fun v => movx_rdT hu, movx_wrX hu hx w idx, fun k => rfl⟩

end Sys2Proof.Machine
end

section
/-! Trap entry and the end of a launch by a trap (R66, R152, R153, R247-R252, R256). -/

namespace Sys2Proof.Machine

/-! ### What logging a fault leaves alone -/

/-- Nothing but the fault logs, their signals and the steps posted for their waiters differs (R46, R52, R256, R312). -/
def OnlyLogs (s t : State) : Prop :=
  ({ t with flog := s.flog, flogLost := s.flogLost, fnErr := s.fnErr, msixPend := s.msixPend, out := s.out,
            agenda := s.agenda } : State) = s

theorem OnlyLogs.refl (s : State) : OnlyLogs s s := rfl

theorem OnlyLogs.trans {s t u : State} (h : OnlyLogs s t) (h' : OnlyLogs t u) : OnlyLogs s u := by
  have h2 := congrArg (fun v : State => { v with
    flog := s.flog, flogLost := s.flogLost, fnErr := s.fnErr, msixPend := s.msixPend, out := s.out,
    agenda := s.agenda }) h'
  exact h2.trans h

theorem OnlyLogs.ite {s t u : State} {c : Prop} [Decidable c] (ht : OnlyLogs s t) (hu : OnlyLogs s u) :
    OnlyLogs s (if c then t else u) := by
  split
  · exact ht
  · exact hu

section
variable {s t : State} (h : OnlyLogs s t)
include h

theorem OnlyLogs.cores : t.cores = s.cores := (congrArg State.cores h :)
theorem OnlyLogs.mem : t.mem = s.mem := (congrArg State.mem h :)
theorem OnlyLogs.l2 : t.l2 = s.l2 := (congrArg State.l2 h :)
theorem OnlyLogs.launches : t.launches = s.launches := (congrArg State.launches h :)
theorem OnlyLogs.power : t.power = s.power := (congrArg State.power h :)
theorem OnlyLogs.coreAt (c : Fin 256) : t.coreAt c = s.coreAt c := by rw [State.coreAt, State.coreAt, h.cores]

end

theorem State.signal_logs (s : State) (fn : Fn) (v : Nat) : OnlyLogs s (s.signal fn v) := by
  unfold State.signal
  split <;> rfl

theorem State.post_logs (s : State) (i : Instr) (inp : Input) : OnlyLogs s (s.post i inp) := rfl

/-- Steps that each leave alone all but the logs do so together. -/
theorem foldl_logs {α : Type} (f : State → α → State) (hf : ∀ s a, OnlyLogs s (f s a)) (l : List α) (s : State) :
    OnlyLogs s (l.foldl f s) := by
  induction l generalizing s with
  | nil => exact OnlyLogs.refl s
  | cons a l ih => exact (hf s a).trans (ih (f s a))

theorem State.wakeWfi_logs (s : State) (ev : BitVec 4) : OnlyLogs s (s.wakeWfi ev) := by
  refine foldl_logs _ (fun s c => ?_) _ s
  split
  · exact State.post_logs s _ _
  · exact OnlyLogs.refl s

theorem State.raiseErr_logs (s : State) (fn : Fn) (bit : Nat) : OnlyLogs s (s.raiseErr fn bit) := by
  unfold State.raiseErr
  refine OnlyLogs.ite (OnlyLogs.refl s) ?_
  extract_lets raised woken v
  have hraised : OnlyLogs s raised := rfl
  have hwoken : OnlyLogs raised woken := OnlyLogs.ite (raised.wakeWfi_logs 8) (OnlyLogs.refl raised)
  exact (hraised.trans hwoken).trans (OnlyLogs.ite (woken.signal_logs fn _) (OnlyLogs.refl woken))

theorem State.logOne_logs (s : State) (fn : Fn) (e : FaultEntry) : OnlyLogs s (s.logOne fn e) := by
  unfold State.logOne
  extract_lets old e' logged
  have hlogged : OnlyLogs s logged := rfl
  exact hlogged.trans (logged.raiseErr_logs fn 1)

theorem State.logFault_logs (s : State) (e : FaultEntry) : OnlyLogs s (s.logFault e) := by
  unfold State.logFault
  extract_lets own all
  have hown : OnlyLogs s own := by
    unfold own
    split
    · exact OnlyLogs.ite (OnlyLogs.refl s) (s.logOne_logs _ e)
    · exact OnlyLogs.refl s
  have hall : OnlyLogs own all := own.logOne_logs 0 e
  exact (hown.trans hall).trans (OnlyLogs.ite (all.wakeWfi_logs 2) (OnlyLogs.refl all))

theorem State.logCore_logs (s : State) (c : Fin 256) (cause : Cause) (flags : BitVec 8) (info : Word) :
    OnlyLogs s (s.logCore c cause flags info) := s.logFault_logs _

theorem State.logUnit_logs (s : State) (cause : Cause) (flags : BitVec 8) (part unit index detail : Nat) (addr : Word)
    (gang : BitVec 32) : OnlyLogs s (s.logUnit cause flags part unit index detail addr gang) := s.logFault_logs _

/-! ### Which level takes a cause (R250) -/

theorem Cause.code_lt (c : Cause) : c.code < 128 := by cases c <;> decide

theorem Level.num_lt (l : Level) : l.num < 3 := by cases l <;> decide

theorem Core.soff_eq (k : Core) : k.soff = k.trapVec.toNat % 2 ^ 24 := by rw [Core.soff, bitsOf, pow_zero, Nat.div_one]

section
variable {k : Core} {t : Trap}

theorem Core.trapTo_toH (hcls : t.cause.cls = .toH) (hlevel : k.level ≠ .h) : k.trapTo t = .handler .h t.cause t.info := by
  unfold Core.trapTo
  rw [hcls]
  cases h : k.level with
  | u => rfl
  | s => rfl
  | h => exact absurd h hlevel

theorem Core.trapTo_atU (hcls : t.cause.cls ≠ .toH) (hlevel : k.level = .u) :
    k.trapTo t = if k.soff = 0 then .endLaunch t.cause else .handler .s t.cause t.info := by
  unfold Core.trapTo
  rw [hlevel]
  cases h : t.cause.cls with
  | toH => exact absurd h hcls
  | _ => rfl

theorem Core.trapTo_atS (hcls : t.cause.cls ≠ .toH) (hlevel : k.level = .s) :
    k.trapTo t = .handler .h .nestedTrap (nestedInfo t .s) := by
  unfold Core.trapTo
  rw [hlevel]
  cases h : t.cause.cls with
  | toH => exact absurd h hcls
  | _ => rfl

theorem Core.trapTo_atH (hlevel : k.level = .h) : k.trapTo t = .stopCore t.cause := by
  unfold Core.trapTo
  rw [hlevel]

theorem nestedInfo_code (t : Trap) (l : Level) : (nestedInfo t l).toNat % 2 ^ 7 = t.cause.code := by
  have := t.cause.code_lt
  rw [nestedInfo, BitVec.toNat_ofNat]
  omega

/-- At S no sibling changes what becomes of a cause. -/
theorem Core.trapWith_atS (h : Bool) (hlevel : k.level = .s) : k.trapWith h t = k.trapTo t := by
  unfold Core.trapWith
  by_cases hcls : t.cause.cls = .toH
  · rw [Core.trapTo_toH hcls (by rw [hlevel]; decide)]
  · rw [Core.trapTo_atS hcls hlevel]

/-- At U a sibling at the H handler takes the core there (R153). -/
theorem Core.trapWith_atU_joins (hlevel : k.level = .u) : ∃ info, k.trapWith true t = .handler .h t.cause info := by
  refine ⟨t.info, ?_⟩
  unfold Core.trapWith
  by_cases hcls : t.cause.cls = .toH
  · rw [Core.trapTo_toH hcls (by rw [hlevel]; decide)]
  · rw [Core.trapTo_atU hcls hlevel]
    by_cases h0 : k.soff = 0
    · rw [if_pos h0]; rfl
    · rw [if_neg h0]; rfl

end

/-! ### What trap entry writes (R248, R251) -/

section
variable {cause : Cause} {slot blen : Nat} (hs : slot < 8) (hb : blen < 16) (l : Level) (j : Bool)
include hs hb

/-- The fields of TRAP_CAUSE. -/
theorem trapCauseWord_fields :
    bitsOf (trapCauseWord cause slot l j blen).toNat 0 7 = cause.code ∧
    bitsOf (trapCauseWord cause slot l j blen).toNat 8 3 = slot ∧
    bitsOf (trapCauseWord cause slot l j blen).toNat 11 2 = l.num ∧
    (trapCauseWord cause slot l j blen).getLsbD 13 = j ∧
    bitsOf (trapCauseWord cause slot l j blen).toNat 16 4 = blen ∧ pprivOf (trapCauseWord cause slot l j blen) = l := by
  have hcode := cause.code_lt
  have hnum := l.num_lt
  have hj : j.toNat ≤ 1 := Bool.toNat_le j
  have hword : (trapCauseWord cause slot l j blen).toNat =
      cause.code + 2 ^ 8 * slot + 2 ^ 11 * l.num + 2 ^ 13 * j.toNat + 2 ^ 16 * blen := by
    rw [trapCauseWord, BitVec.toNat_ofNat]
    omega
  have hppriv : bitsOf (trapCauseWord cause slot l j blen).toNat 11 2 = l.num := by rw [hword, bitsOf]; omega
  refine ⟨by rw [hword, bitsOf]; omega, by rw [hword, bitsOf]; omega, hppriv, ?_, by rw [hword, bitsOf]; omega, ?_⟩
  · rw [← BitVec.testBit_toNat, hword, Nat.testBit_eq_decide_div_mod_eq]
    cases j <;> simp only [Bool.toNat_true, Bool.toNat_false, decide_eq_true_eq, decide_eq_false_iff_not] at * <;> omega
  · rw [pprivOf, hppriv]
    cases l <;> rfl

end

/-! ### A core that stops for good (R66, R250) -/

section
variable (s : State) (c : Fin 256) (cause : Cause) (word : Word) (flags : BitVec 8) (info : Word)

/-- The state in which a core that dies ends its launch. -/
def State.deathLogged : State := (s.logCore c cause flags info).leaveQuad c

theorem State.deathLogged_coreAt_self : (s.deathLogged c cause flags info).coreAt c = s.coreAt c :=
  (State.leaveQuad_coreAt_self _ c).trans ((s.logCore_logs c cause flags info).coreAt c)

theorem State.deathLogged_coreAt_keeps {α : Type} (g : Core → α) (hg : ∀ k : Core, g { k with lonely := true } = g k)
    (d : Fin 256) : g ((s.deathLogged c cause flags info).coreAt d) = g (s.coreAt d) := by
  rw [State.deathLogged, State.leaveQuad_coreAt_keeps g hg, (s.logCore_logs c cause flags info).coreAt]

theorem State.deathLogged_launches : (s.deathLogged c cause flags info).launches = s.launches :=
  (State.leaveQuad_launches _ c).trans (s.logCore_logs c cause flags info).launches

theorem State.endLaunch_mem (l : Option Nat) : (s.endLaunch l word).mem = s.mem := by cases l <;> rfl
theorem State.endLaunch_l2 (l : Option Nat) : (s.endLaunch l word).l2 = s.l2 := by cases l <;> rfl

/-- A core of the launch that ends, while it runs, is asked to stop without a save. -/
theorem State.endLaunch_coreAt (id : Nat) (d : Fin 256) : (s.endLaunch (some id) word).coreAt d =
    (fun k : Core => if k.launch = some id ∧ k.run = .running then { k with stop := some .noSave } else k) (s.coreAt d) :=
  Vector.getElem_map _ d.isLt

theorem State.killCore_eq : s.killCore c cause word flags info =
    (((s.deathLogged c cause flags info).endLaunch (s.coreAt c).launch word).mapCore c
      fun k => { k with run := .dead, wait := none, stop := none }).postCore .coreEnded c := rfl

theorem State.coreAt_postCore (i : Instr) (c d : Fin 256) : (s.postCore i c).coreAt d = s.coreAt d := rfl

theorem State.killCore_memory : SameMemory s (s.killCore c cause word flags info) := by
  refine SameMemory.of_eq ?_ ?_
  · calc (s.killCore c cause word flags info).mem
        = ((s.deathLogged c cause flags info).endLaunch (s.coreAt c).launch word).mem := rfl
      _ = s.mem := by rw [State.endLaunch_mem, State.deathLogged, State.leaveQuad_mem, (s.logCore_logs c cause flags info).mem]
  · calc (s.killCore c cause word flags info).l2
        = ((s.deathLogged c cause flags info).endLaunch (s.coreAt c).launch word).l2 := rfl
      _ = s.l2 := by rw [State.endLaunch_l2, State.deathLogged, State.leaveQuad_l2, (s.logCore_logs c cause flags info).l2]

/-- The core itself is dead and waits for nothing. -/
theorem State.killCore_self : ((s.killCore c cause word flags info).coreAt c).run = .dead ∧
    ((s.killCore c cause word flags info).coreAt c).wait = none := by
  rw [State.killCore_eq, State.coreAt_postCore, State.coreAt_mapCore]
  exact ⟨rfl, rfl⟩

/-- Another running core of the launch is asked to stop without a save. -/
theorem State.killCore_other {id : Nat} (hid : (s.coreAt c).launch = some id) {d : Fin 256} (hd : d ≠ c)
    (hl : (s.coreAt d).launch = some id) (hr : (s.coreAt d).run = .running) :
    ((s.killCore c cause word flags info).coreAt d).stop = some .noSave := by
  rw [State.killCore_eq, State.coreAt_postCore, State.coreAt_mapCore_ne _ _ hd, hid, State.endLaunch_coreAt]
  beta_reduce
  rw [if_pos]
  exact ⟨(s.deathLogged_coreAt_keeps c cause flags info Core.launch (fun _ => rfl) d).trans hl,
    (s.deathLogged_coreAt_keeps c cause flags info Core.run (fun _ => rfl) d).trans hr⟩

/-- The launch keeps its first cause. -/
theorem State.killCore_fault {id : Nat} (hid : (s.coreAt c).launch = some id) {l : Launch}
    (hl : l ∈ (s.killCore c cause word flags info).launches) (he : l.id = id) :
    l.fault = some word ∨ ∃ l' ∈ s.launches, l'.id = id ∧ l'.fault.isSome ∧ l.fault = l'.fault := by
  have hlaunches : (s.killCore c cause word flags info).launches =
      s.launches.map fun l => if l.id = id ∧ l.fault.isNone then { l with fault := some word } else l := by
    calc (s.killCore c cause word flags info).launches
        = ((s.deathLogged c cause flags info).endLaunch (s.coreAt c).launch word).launches := rfl
      _ = _ := by rw [hid, State.endLaunch, s.deathLogged_launches]
  rw [hlaunches] at hl
  obtain ⟨l', hmem, rfl⟩ := List.mem_map.1 hl
  by_cases hfirst : l'.id = id ∧ l'.fault.isNone
  · exact .inl (by rw [if_pos hfirst])
  · rw [if_neg hfirst] at he ⊢
    have hsome : l'.fault.isSome := by
      rw [← Option.not_isNone, Bool.not_eq_true', ← Bool.not_eq_true]
      exact fun hn => hfirst ⟨he, hn⟩
    exact .inr ⟨l', hmem, he, hsome, rfl⟩

end

/-- Where the cause ends the launch, the core is killed with its cause as a TRAP_CAUSE word. -/
theorem takeTrapOn_kills {s : State} {c : Fin 256} {h : Bool} {t : Trap} (hfab : t.cause ≠ .fabricTimeout)
    (hend : (s.coreAt c).level = .h ∨
      (s.coreAt c).level = .u ∧ t.cause.cls ≠ .toH ∧ (s.coreAt c).trapVec.toNat % 2 ^ 24 = 0 ∧ h = false) :
    ∃ flags, s.takeTrapOn c h t = s.killCore c t.cause
      (trapCauseWord t.cause t.slot (s.coreAt c).level (s.coreAt c).joined s.issue.blen) flags t.info := by
  rcases hend with hlevel | ⟨hlevel, hcls, hsoff, rfl⟩
  · refine ⟨10, ?_⟩
    have hto : (s.coreAt c).trapWith h t = .stopCore t.cause := by rw [Core.trapWith, Core.trapTo_atH hlevel]
    simp only [State.takeTrapOn, if_neg hfab, hto]
  · refine ⟨8, ?_⟩
    have hto : (s.coreAt c).trapWith false t = .endLaunch t.cause := by
      rw [Core.trapWith, Core.trapTo_atU hcls hlevel, Core.soff_eq, if_pos hsoff]
      rfl
    simp only [State.takeTrapOn, if_neg hfab, hto]

/-- Settles O9: the table of R250 level by level, the fields of the words that entry writes, and `killCore` where the launch
ends. -/
theorem trapEntrySavesAndEntersOrEndsTheLaunch : Obligations.TrapEntrySavesAndEntersOrEndsTheLaunch := by
  refine ⟨?_, ?_, ?_⟩
  · intro k t
    refine ⟨Core.trapTo_toH, fun hcls hl hs => ?_, fun hcls hl hs => ?_,
      fun hcls hl => ⟨_, Core.trapTo_atS hcls hl, nestedInfo_code t .s⟩, Core.trapTo_atH⟩
    · rw [Core.trapTo_atU hcls hl, Core.soff_eq, if_neg hs]
    · rw [Core.trapTo_atU hcls hl, Core.soff_eq, if_pos hs]
  · intro k cause slot blen info hs hb
    have fields := trapCauseWord_fields (cause := cause) hs hb k.level k.joined
    have hsoff : (BitVec.ofNat 64 (4 * k.soff)).toNat = 4 * (k.trapVec.toNat % 2 ^ 24) := by
      rw [BitVec.toNat_ofNat, Core.soff_eq]; omega
    have hhvec : (BitVec.ofNat 64 (4 * k.hvec)).toNat = 4 * (k.trapVec.toNat / 2 ^ 24 % 2 ^ 38) := by
      rw [BitVec.toNat_ofNat, Core.hvec, bitsOf]; omega
    exact ⟨⟨rfl, hsoff, rfl, rfl, rfl, fields⟩, rfl, hhvec, rfl, rfl, rfl, fields⟩
  · intro s c h t id hid hfab k word
    refine ⟨fun hend => ?_, fun hl => Core.trapWith_atS h hl, fun hl hh => hh ▸ Core.trapWith_atU_joins hl⟩
    obtain ⟨flags, hkill⟩ := takeTrapOn_kills hfab hend
    rw [hkill]
    obtain ⟨hrun, hwait⟩ := s.killCore_self c t.cause word flags t.info
    exact ⟨hrun, hwait, fun d hd hl hr => s.killCore_other c t.cause word flags t.info hid hd hl hr,
      fun l hl he => s.killCore_fault c t.cause word flags t.info hid hl he, s.killCore_memory c t.cause word flags t.info⟩

end Sys2Proof.Machine
end

section
/-! What a result instruction leaves alone (R139, R140, R142): it draws at most free values for its operands and then makes
one claim. -/

namespace Sys2Proof.Machine

/-! ### Reading operands draws at most free values -/

/-- Nothing but the count of free values drawn differs. -/
def OnlyFree (s t : State) : Prop := ({ t with free := s.free } : State) = s

theorem OnlyFree.refl (s : State) : OnlyFree s s := rfl

theorem OnlyFree.trans {s t u : State} (h : OnlyFree s t) (h' : OnlyFree t u) : OnlyFree s u := by
  have h2 := congrArg (fun v : State => { v with free := s.free }) h'
  exact h2.trans h

section
variable {s t : State} (h : OnlyFree s t)
include h

theorem OnlyFree.cores : t.cores = s.cores := (congrArg State.cores h :)
theorem OnlyFree.mem : t.mem = s.mem := (congrArg State.mem h :)
theorem OnlyFree.l2 : t.l2 = s.l2 := (congrArg State.l2 h :)
theorem OnlyFree.issue : t.issue = s.issue := (congrArg State.issue h :)
theorem OnlyFree.coreAt (c : Fin 256) : t.coreAt c = s.coreAt c := by rw [State.coreAt, State.coreAt, h.cores]
theorem OnlyFree.cur : t.cur = s.cur := State.cur_of_only h

end

/-- Reading a take, a register or a broadcast of one draws at most a free value. -/
theorem readV_only {s s' : State} {sp : VSpec} {pos : Nat} {t : Ty} {v : Vec} (hs : VSpec.still sp = true)
    (h : readV s sp pos t = .ok v s') : OnlyFree s s' := by
  unfold readV at h
  cases sp with
  | take n => exact readSeen_only h
  | v n => exact readSeen_only h
  | stream n => cases hs
  | queue q => cases hs
  | bcast n =>
    obtain ⟨x, s1, hx, hok⟩ := SlotRes.bind_eq_ok h
    rw [← (SlotRes.ok.inj hok).2]
    exact readSeen_only hx

/-- The same of an operand that a literal may replace. -/
theorem readVO_only {s s' : State} {o : VOpnd} {t : Ty} {v : Vec} (hs : ∀ sp ∈ (VOpnd.spec? o).toList, VSpec.still sp = true)
    (h : readVO s o t = .ok v s') : OnlyFree s s' := by
  cases o with
  | spec sp => exact readV_only (hs sp (by simp [VOpnd.spec?])) h
  | lit l => exact (SlotRes.ok.inj h).2 ▸ OnlyFree.refl s

/-! ### Operands, then a claim -/

/-- Where a slot instruction completes, it has drawn at most free values and then done what `R` says. -/
def ReadsThen (R : State → State → Prop) (s : State) (r : SlotRes Unit) : Prop :=
  ∀ t, r = .ok () t → ∃ s', OnlyFree s s' ∧ R s' t

section
variable {R : State → State → Prop} {s : State}

theorem readsThen_trap (t : Trap) : ReadsThen R s (.trap t) := fun _ h => nomatch h

theorem readsThen_ok {t : State} (h : R s t) : ReadsThen R s (.ok () t) := by
  rintro _ ⟨⟩
  exact ⟨s, OnlyFree.refl s, h⟩

theorem readsThen_need {b : Bool} {c : Cause} {info : Word} {r : SlotRes Unit} (h : ReadsThen R s r) :
    ReadsThen R s (need s b c info r) := by
  cases b with
  | true => exact h
  | false => exact readsThen_trap _

/-- One more operand before the claim. -/
theorem readsThen_bind {α : Type} {r : SlotRes α} {k : α → State → SlotRes Unit}
    (hr : ∀ x s', r = .ok x s' → OnlyFree s s') (hk : ∀ x s', ReadsThen R s' (k x s')) : ReadsThen R s (r.bind k) := by
  intro t ht
  obtain ⟨x, s1, hx, hok⟩ := SlotRes.bind_eq_ok ht
  obtain ⟨s', hs', hR⟩ := hk x s1 t hok
  exact ⟨s', (hr x s1 hx).trans hs', hR⟩

end

/-! ### Scalar results -/

/-- A scalar result of W is claimed. -/
def ClaimsX (w : WReg) (s t : State) : Prop := ∃ v lat, t = s.result v lat w

section
variable (s : State) (a c : SSpec) (b : SOpnd) (w : WReg)

theorem unary_claims (f : Word → Word) : ReadsThen (ClaimsX w) s (unary s a w f) :=
  readsThen_bind (fun _ _ h => readS_only h) fun _ _ => readsThen_ok ⟨_, _, rfl⟩

theorem binary_claims (lat : Nat) (f : Word → Word → Word) : ReadsThen (ClaimsX w) s (binary s a b w lat f) :=
  readsThen_bind (fun _ _ h => readS_only h) fun _ _ =>
    readsThen_bind (fun _ _ h => readSO_only h) fun _ _ => readsThen_ok ⟨_, _, rfl⟩

theorem division_claims (w32 : Bool) (f : Word → Word → Word) : ReadsThen (ClaimsX w) s (division s a b w w32 f) :=
  readsThen_bind (fun _ _ h => readS_only h) fun _ _ =>
    readsThen_bind (fun _ _ h => readSO_only h) fun _ _ => readsThen_need (readsThen_ok ⟨_, _, rfl⟩)

theorem ternary_claims (f : Word → Word → Word → Word) : ReadsThen (ClaimsX w) s
    ((readS s a 0).bind fun x s => (readSO s b 1).bind fun y s => (readS s c 2).bind fun z s =>
      .ok () (s.result (f x y z) 1 w)) :=
  readsThen_bind (fun _ _ h => readS_only h) fun _ _ => readsThen_bind (fun _ _ h => readSO_only h) fun _ _ =>
    readsThen_bind (fun _ _ h => readS_only h) fun _ _ => readsThen_ok ⟨_, _, rfl⟩

theorem fil_claims (off : BitVec 11) : ∃ r, exec (.fil w off) s = finish s r ∧ ReadsThen (ClaimsX w) s r := by
  refine ⟨_, rfl, readsThen_need ?_⟩
  unfold soundSpill
  split
  · exact readsThen_trap _
  · exact readsThen_ok ⟨_, _, rfl⟩

theorem csrr_claims (n : BitVec 12) : ∃ r, exec (.csrr w n) s = finish s r ∧ ReadsThen (ClaimsX w) s r := by
  refine ⟨_, rfl, ?_⟩
  split
  · exact readsThen_ok ⟨_, _, rfl⟩
  · exact readsThen_trap _

end

/-- Every instruction of `scalarResult` reads its operands and claims its result. -/
theorem scalarResult_claims {i : Instr} {w : WReg} (h : scalarResult i = some w) (s : State) :
    ∃ r, exec i s = finish s r ∧ ReadsThen (ClaimsX w) s r := by
  cases i <;> cases h
  case fil off => exact fil_claims s w off
  case csrr c => exact csrr_claims s w c
  case sel a b c => exact ⟨_, rfl, ternary_claims s a c b w fun x y z => if z = 0 then y else x⟩
  case bfi a b c => exact ⟨_, rfl, ternary_claims s a c b w fun x y z => bfiW x z y⟩
  case li => exact ⟨_, rfl, readsThen_ok ⟨_, _, rfl⟩⟩
  case div => exact ⟨_, rfl, division_claims _ _ _ _ _ _⟩
  case divz => exact ⟨_, rfl, division_claims _ _ _ _ _ _⟩
  case rem => exact ⟨_, rfl, division_claims _ _ _ _ _ _⟩
  case remz => exact ⟨_, rfl, division_claims _ _ _ _ _ _⟩
  any_goals exact ⟨_, rfl, binary_claims _ _ _ _ _ _⟩
  all_goals exact ⟨_, rfl, unary_claims _ _ _ _⟩

/-! ### Vector results -/

/-- A vector result is claimed. -/
def ClaimsV (s t : State) : Prop := ∃ v lat, t = s.vresult v lat

theorem vdone_claims (s : State) (r : Except Cause Vec) (lat : Nat) : ReadsThen ClaimsV s (vdone s r lat) := by
  cases r with
  | ok v => exact readsThen_ok ⟨v, lat, rfl⟩
  | error c => exact readsThen_trap _

theorem vresult_claims (s : State) (v : Vec) (lat : Nat) : ReadsThen ClaimsV s (.ok () (s.vresult v lat)) :=
  readsThen_ok ⟨v, lat, rfl⟩

section
variable {R : State → State → Prop} {s : State} {a c : VSpec} {b : VOpnd} {t t' t'' : Ty}

/-- One operand, two or three, that draw at most free values. -/
theorem readsThen_one {k : Vec → State → SlotRes Unit} (ha : ∀ v ∈ [a], VSpec.still v = true)
    (hk : ∀ x s, ReadsThen R s (k x s)) : ReadsThen R s ((readV s a 0 t).bind k) :=
  readsThen_bind (fun _ _ h => readV_only (ha a (by simp)) h) hk

theorem readsThen_two {k : Vec → Vec → State → SlotRes Unit}
    (hab : ∀ v ∈ a :: (VOpnd.spec? b).toList, VSpec.still v = true) (hk : ∀ x y s, ReadsThen R s (k x y s)) :
    ReadsThen R s ((readV s a 0 t).bind fun x s => (readVO s b t').bind (k x)) :=
  readsThen_bind (fun _ _ h => readV_only (hab a (by simp)) h) fun x _ =>
    readsThen_bind (fun _ _ h => readVO_only (fun v hv => hab v (by simp [hv])) h) (hk x)

theorem readsThen_three {k : Vec → Vec → Vec → State → SlotRes Unit}
    (habc : ∀ v ∈ a :: c :: (VOpnd.spec? b).toList, VSpec.still v = true) (hk : ∀ x y z s, ReadsThen R s (k x y z s)) :
    ReadsThen R s ((readV s a 0 t).bind fun x s => (readVO s b t').bind fun y s => (readV s c 2 t'').bind (k x y)) :=
  readsThen_bind (fun _ _ h => readV_only (habc a (by simp)) h) fun x _ =>
    readsThen_bind (fun _ _ h => readVO_only (fun v hv => habc v (by simp [hv])) h) fun y _ =>
      readsThen_bind (fun _ _ h => readV_only (habc c (by simp)) h) (hk x y)

end

/-- Every instruction of `vectorResult` reads its operands and claims its result. -/
theorem vectorResult_claims {i : Instr} (h : vectorResult i = true) (s : State)
    (hs : ∀ v ∈ vectorOperands i, VSpec.still v = true) : ∃ r, exec i s = finish s r ∧ ReadsThen ClaimsV s r := by
  cases i <;> cases h
  case vadd a b t p =>
    by_cases h32 : t = .a32
    · exact ⟨_, if_pos h32, readsThen_two hs fun _ _ _ => vdone_claims _ _ _⟩
    · exact ⟨_, if_neg h32, readsThen_two hs fun _ _ _ => vdone_claims _ _ _⟩
  case vsub a b t p =>
    by_cases h32 : t = .a32
    · exact ⟨_, if_pos h32, readsThen_two hs fun _ _ _ => vdone_claims _ _ _⟩
    · exact ⟨_, if_neg h32, readsThen_two hs fun _ _ _ => vdone_claims _ _ _⟩
  case vpack => exact ⟨_, rfl, readsThen_two hs fun _ _ _ => vresult_claims _ _ _⟩
  case vunpk => exact ⟨_, rfl, readsThen_one hs fun _ _ => vresult_claims _ _ _⟩
  any_goals exact ⟨_, rfl, readsThen_one hs fun _ _ => vdone_claims _ _ _⟩
  any_goals exact ⟨_, rfl, readsThen_two hs fun _ _ _ => vdone_claims _ _ _⟩
  all_goals exact ⟨_, rfl, readsThen_three hs fun _ _ _ _ => vdone_claims _ _ _⟩

/-! ### The frames -/

theorem claimsX_frame {s s' t : State} {w : WReg} (hs : OnlyFree s s') (h : ClaimsX w s' t) : ScalarFrame s t w := by
  obtain ⟨v, lat, rfl⟩ := h
  have honly : OnlyCores s (s'.result v lat w) := by
    have h2 := congrArg (fun u : State => { u with cores := s.cores }) hs
    exact h2
  refine ⟨honly, fun d hd => ?_, SameMemory.of_eq hs.mem hs.l2, ?_, fun l hl => ?_, fun n hn => ?_⟩
  · rw [State.result, State.upd_coreAt_ne _ _ (by rw [hs.issue]; exact hd), hs.coreAt]
  · rw [State.cur_result, hs.cur]
    exact Core.result_only _ _ _ _ _
  · rw [State.cur_result, hs.cur]
    exact Core.bank_result_ne _ _ _ _ _ hl
  · rw [State.cur_result, hs.cur]
    exact Core.result_x_ne _ _ _ _ _ hn

theorem claimsV_frame {s s' t : State} (hs : OnlyFree s s') (h : ClaimsV s' t) :
    OnlyCores s t ∧ OtherCores s t ∧ SameMemory s t ∧ OnlyVTakes s.cur t.cur := by
  obtain ⟨v, lat, rfl⟩ := h
  have honly : OnlyCores s (s'.vresult v lat) := by
    have h2 := congrArg (fun u : State => { u with cores := s.cores }) hs
    exact h2
  refine ⟨honly, fun d hd => ?_, SameMemory.of_eq hs.mem hs.l2, ?_⟩
  · rw [State.vresult, State.upd_coreAt_ne _ _ (by rw [hs.issue]; exact hd), hs.coreAt]
  · rw [State.cur_vresult, hs.cur]
    exact Core.vresult_only _ _ _

/-- Settles O4: a result instruction draws free values and claims one take, whose frame is known. -/
theorem resultInstructionsLeaveTheRestAlone : Obligations.ResultInstructionsLeaveTheRestAlone := by
  constructor
  · intro i w s t hi hrun _ hok
    obtain ⟨r, hexec, hclaims⟩ := scalarResult_claims hi s
    obtain ⟨s', hs, h⟩ := hclaims t (finish_ok_inv (hexec.symm.trans hrun) hok)
    exact claimsX_frame hs h
  · intro i s t hi hstill hrun hok
    obtain ⟨r, hexec, hclaims⟩ := vectorResult_claims hi s hstill
    obtain ⟨s', hs, h⟩ := hclaims t (finish_ok_inv (hexec.symm.trans hrun) hok)
    exact claimsV_frame hs h

end Sys2Proof.Machine
end

section
/-! Words written out from the encoding tables. -/

namespace Sys2Proof.Machine

/-- Settles O57: each word is decoded by evaluation. -/
theorem wordsDecodeToTheirInstructions : Obligations.WordsDecodeToTheirInstructions := by
  unfold Obligations.WordsDecodeToTheirInstructions
  decide +kernel

end Sys2Proof.Machine
end

section
/-! A step runs the instruction that its bytes decode to (R139, R143, R262-R264): what the engine's cycle and the close of a
bundle leave alone, and the issue of a bundle of one slot on a core that stands alone. -/

namespace Sys2Proof.Machine

/-! ### What the matrix engine and the streams of a core change -/

/-- Of a core nothing differs but what the matrix engine and the write streams work on: queues, accumulators, the op queue
and its progress, FMTE, streams, the scratchpad with its writers and failed lines, failed words and late causes. -/
def OnlyEngine (k k' : Core) : Prop :=
  ({ k' with q0 := k.q0, q1 := k.q1, acc := k.acc, mops := k.mops, mprog := k.mprog, saves := k.saves,
             unlocking := k.unlocking, fmte := k.fmte, fmtp := k.fmtp, streams := k.streams, spad := k.spad,
             writers := k.writers, badSpad := k.badSpad, badWords := k.badWords, late := k.late } : Core) = k

theorem OnlyEngine.refl (k : Core) : OnlyEngine k k := rfl

theorem OnlyEngine.trans {k k' k'' : Core} (h : OnlyEngine k k') (h' : OnlyEngine k' k'') : OnlyEngine k k'' := by
  have h2 := congrArg (fun v : Core => { v with
    q0 := k.q0, q1 := k.q1, acc := k.acc, mops := k.mops, mprog := k.mprog, saves := k.saves,
    unlocking := k.unlocking, fmte := k.fmte, fmtp := k.fmtp, streams := k.streams, spad := k.spad,
    writers := k.writers, badSpad := k.badSpad, badWords := k.badWords, late := k.late }) h'
  exact h2.trans h

theorem OnlyEngine.ite {k k' k'' : Core} {c : Prop} [Decidable c] (h : OnlyEngine k k') (h' : OnlyEngine k k'') :
    OnlyEngine k (if c then k' else k'') := by
  split
  · exact h
  · exact h'

theorem OnlyEngine.foldl {α : Type} (f : Core → α → Core) (hf : ∀ k a, OnlyEngine k (f k a)) (l : List α) (k : Core) :
    OnlyEngine k (l.foldl f k) := by
  induction l generalizing k with
  | nil => exact OnlyEngine.refl k
  | cons a l ih => exact (hf k a).trans (ih (f k a))

section
variable {k k' : Core} (h : OnlyEngine k k')
include h

theorem OnlyEngine.pc : k'.pc = k.pc := (congrArg Core.pc h :)
theorem OnlyEngine.level : k'.level = k.level := (congrArg Core.level h :)

end

section
variable (k : Core)

theorem Core.spadWrite_engine (off : Nat) (bs : List Byte) : OnlyEngine k (k.spadWrite off bs) := rfl

theorem Core.putVector_engine (st : Stream) (n : Nat) (v : SVec) : OnlyEngine k (k.putVector st n v) := by
  unfold Core.putVector
  extract_lets bad a data a' scales
  have hdata : OnlyEngine k data := k.spadWrite_engine _ _
  have hscales : OnlyEngine data scales := OnlyEngine.ite (data.spadWrite_engine _ _) (OnlyEngine.refl data)
  have hbad : OnlyEngine scales { scales with badSpad := bad } := rfl
  exact (hdata.trans hscales).trans hbad

theorem Core.storeVector_engine (st : Stream) (n : Nat) (v : SVec) : OnlyEngine k (k.storeVector st n v) := by
  unfold Core.storeVector
  split
  · exact rfl
  · exact k.putVector_engine st n v

theorem Core.drainAll_engine (i : Fin 8) : OnlyEngine k (k.drainAll i) := by
  unfold Core.drainAll
  extract_lets st stored
  have hstored : OnlyEngine k stored := OnlyEngine.foldl _ (fun k e => k.storeVector_engine st _ _) _ k
  exact OnlyEngine.ite (OnlyEngine.refl k) (hstored.trans rfl)

theorem Core.drainFor_engine (off len : Nat) : OnlyEngine k (k.drainFor off len) :=
  OnlyEngine.foldl _ (fun k i => OnlyEngine.ite (k.drainAll_engine i) (OnlyEngine.refl k)) _ k

theorem Core.opResult_engine (o : MatOp) : OnlyEngine k (k.opResult o) := by
  unfold Core.opResult
  split
  · exact rfl
  · split
    case h_5 z h p =>
      dsimp only
      split <;> rfl
    all_goals exact rfl

theorem Core.opRenews_engine (o : MatOp) : OnlyEngine k (k.opRenews o) := by
  unfold Core.opRenews
  split
  · exact rfl
  · split <;> rfl

theorem Core.opEffect_engine (o : MatOp) : OnlyEngine k (k.opEffect o) := by
  unfold Core.opEffect
  split
  · exact rfl
  · exact (k.opResult_engine o).trans (Core.opRenews_engine _ o)

theorem Core.opComplete_engine : OnlyEngine k k.opComplete := by
  unfold Core.opComplete
  split
  · exact OnlyEngine.ite ((k.opEffect_engine _).trans rfl) (OnlyEngine.refl k)
  · exact OnlyEngine.refl k

theorem Core.fmtEffect_engine : OnlyEngine k k.fmtEffect := by
  refine OnlyEngine.foldl _ (fun k e => ?_) _ k
  exact OnlyEngine.ite rfl (OnlyEngine.refl k)

theorem Core.withSaves_engine (n : Nat) : OnlyEngine k { k with saves := n } := rfl

theorem Core.opStart_engine : OnlyEngine k k.opStart := by
  unfold Core.opStart
  split
  · exact OnlyEngine.refl k
  · refine OnlyEngine.ite (OnlyEngine.refl k) ?_
    extract_lets _ started
    have hstarted : OnlyEngine k started := rfl
    split
    · exact (hstarted.trans (started.drainFor_engine _ 32768)).trans (Core.withSaves_engine _ _)
    · exact hstarted

theorem Core.engineOpen_engine : OnlyEngine k k.engineOpen :=
  (k.fmtEffect_engine.trans (Core.opComplete_engine _)).trans (Core.opStart_engine _)

theorem Core.enginePush_engine : OnlyEngine k k.enginePush := by
  unfold Core.enginePush
  split
  · split
    · extract_lets queued cleared
      have hqueued : OnlyEngine k queued := OnlyEngine.ite rfl rfl
      have hcleared : OnlyEngine queued cleared := OnlyEngine.ite rfl (OnlyEngine.refl queued)
      exact (hqueued.trans hcleared).trans rfl
    · exact OnlyEngine.refl k
  · exact OnlyEngine.refl k

theorem Core.engineClose_engine : OnlyEngine k k.engineClose := by
  unfold Core.engineClose
  extract_lets pushed fmt unlocked
  have hpushed : OnlyEngine k pushed := k.enginePush_engine
  have hunlocked : OnlyEngine pushed unlocked := rfl
  exact (hpushed.trans hunlocked).trans (OnlyEngine.ite rfl (OnlyEngine.refl unlocked))

end

/-! ### The operands of a bundle and its close -/

/-- The core that a bundle's operands are read from is at its level. -/
theorem State.openBundle_level (s : State) (c : Fin 256) (b : RawBundle) (is : List (Slot × Instr)) :
    (s.openBundle c b is).pre.level = (s.coreAt c).level := by
  change (if engineRuns (s.coreAt c).mergeLanded.mergeAcquired then (s.coreAt c).mergeLanded.mergeAcquired.engineOpen
    else (s.coreAt c).mergeLanded.mergeAcquired).level = _
  have hlevel : (s.coreAt c).mergeLanded.mergeAcquired.level = (s.coreAt c).level := by
    unfold Core.mergeAcquired
    dsimp only
    split <;> rfl
  split
  · exact (Core.engineOpen_engine _).level.trans hlevel
  · exact hlevel

/-- A change of the core being issued changes its other fields alone. -/
theorem State.foldl_upd_cores {α : Type} (f : α → Core → Core) (l : List α) (s : State) :
    ({ l.foldl (fun s a => s.upd (f a)) s with cores := s.cores } : State) = s := by
  induction l generalizing s with
  | nil => rfl
  | cons a l ih =>
    have h := congrArg (fun u : State => ({ u with cores := s.cores } : State)) (ih (s.upd (f a)))
    exact h

theorem State.applyBinds_only (s : State) : ({ s.applyBinds with cores := s.cores } : State) = s :=
  State.foldl_upd_cores (fun (e : Fin 8 × Stream) k => (k.drainAll e.1).setStream e.1 e.2) _ s

theorem State.applyBinds_pc (s : State) (c : Fin 256) : (s.applyBinds.coreAt c).pc = (s.coreAt c).pc := by
  unfold State.applyBinds
  generalize s.issue.binds = l
  induction l generalizing s with
  | nil => rfl
  | cons e l ih =>
    rw [List.foldl_cons, ih]
    by_cases h : c = s.issue.core
    · subst h
      exact (congrArg Core.pc (State.cur_upd s _)).trans (Core.drainAll_engine _ e.1).pc
    · rw [State.upd_coreAt_ne s _ h]

theorem State.meter_coreAt (s : State) (part : Nat) (m : Fin 16) (n : Nat) (c : Fin 256) :
    (s.meter part m n).coreAt c = s.coreAt c := by
  unfold State.meter
  split
  · split <;> rfl
  · rfl

theorem State.mapLaunch_coreAt (s : State) (id : Nat) (f : Launch → Launch) (c : Fin 256) :
    (s.mapLaunch id f).coreAt c = s.coreAt c := rfl

/-! ### The one slot of the bundle -/

/-- In a slot an instruction has the meaning that it has as a step. -/
theorem runSlot_eq_exec {i : Instr} (h : (encode i).isSome = true) (s : State) : runSlot i s = exec i s := by
  cases i
  any_goals cases h
  all_goals rfl

/-- An instruction that completes is one that its level lets stand (R291). -/
theorem levelOk_of_completes {i : Instr} {s u : State} (h : exec i s = .next u) (hok : u.issue.result = .ok) :
    levelOk s.pre.level i = true := by
  unfold levelOk
  split
  · next a w idx f =>
    have hr := finish_ok_inv h hok
    by_cases hu : s.pre.level = .u
    · rw [if_pos hu] at hr ⊢
      by_cases hf : f = .rdX ∧ idx = 0
      · simp [hf]
      · rw [if_neg hf] at hr
        cases hr
    · rw [if_neg hu] at hr ⊢
      cases f with
      | rdX => simpa using (need_eq_ok hr).1
      | rdT => simpa using (need_eq_ok hr).1
      | wrX => rfl
  · rfl

theorem runSlots_single {sl : Slot} {i : Instr} {o u : State} (hi : (encode i).isSome = true)
    (h : exec i { o with issue := { o.issue with slot := sl } } = .next u) (hok : u.issue.result = .ok) :
    runSlots [(sl, i)] o = u := by
  rw [runSlots, runSlot_eq_exec hi, h]
  dsimp only
  rw [hok]
  rfl

/-- A bundle of one slot that completes, where no acquire keeps it waiting and the engine has no cause. -/
theorem runCore_single {r u : State} {c : Fin 256} {b : RawBundle} {sl : Slot} {i : Instr}
    (hacq : isAccess i = true → acquiring r c = false)
    (heng : engineTrap (r.coreAt c) (bundlePops (r.openBundle c b [(sl, i)])) = none) (hi : (encode i).isSome = true)
    (h : exec i { r.openBundle c b [(sl, i)] with issue := { (r.openBundle c b [(sl, i)]).issue with slot := sl } } = .next u)
    (hok : u.issue.result = .ok) :
    runCore r c b [(sl, i)] = (.done, if u.issue.taken then some (u.coreAt c).pc else none, u.closeBundle b) := by
  have hgo : ¬(([(sl, i)].any fun e => isAccess e.2) && acquiring r c) = true := by
    simpa using hacq
  simp only [runCore, if_neg hgo, runSlots_single hi h hok, hok, heng]

theorem issueBundle_single {r u : State} {c : Fin 256} {b : RawBundle} {is : List (Slot × Instr)} {x : Option Word}
    (h : runCore r c b is = (.done, x, u)) : r.issueBundle [c] b is = (u.mark .ok).stopAtSp b c := by
  simp [State.issueBundle, h]

/-- The bundle of one slot decodes to its instruction. -/
theorem fetchBundle_single {r : State} {k : Core} {b : RawBundle} {w : SlotWord} {i : Instr}
    (hcode : k.level = .h → failedCode r b = none) (hchk : xorBytes b.words = hdChk b.head) (hres : hdReserved b.head = false)
    (hbrk : hdBrk b.head = true → k.brkSkip = true) (hslots : b.slots = [w])
    (hdec : decodeSlot (Slot.cls w.slot) w.word w.lit = .ok i) (hlevel : levelOk k.level i = true) :
    fetchBundle r k b = .ok [(w.slot, i)] := by
  have hfail : (if k.level = .h then failedCode r b else none) = none := by
    split
    · next h => exact hcode h
    · rfl
  have hskip : (hdBrk b.head && !k.brkSkip) = false := by
    cases hb : hdBrk b.head with
    | true => rw [hbrk hb]; rfl
    | false => rfl
  simp [fetchBundle, hfail, hchk, hres, hskip, hslots, decodeSlots, hdec, hlevel]

/-! ### A core that stands alone (R143) -/

theorem State.holdSave_keeps {α : Type} (g : Core → α) (hg : ∀ (k : Core) (b : Bool), g { k with saveHeld := b } = g k)
    (s : State) (c d : Fin 256) : g ((s.holdSave c).coreAt d) = g (s.coreAt d) := by
  unfold State.holdSave
  dsimp only
  split
  · rfl
  · by_cases h : d = c
    · subst h
      rw [State.coreAt_mapCore]
      exact hg _ _
    · rw [State.coreAt_mapCore_ne _ _ h]

/-- Its cycle is the issue of the bundle at its address. -/
theorem groupCycle_issues {s : State} {c : Fin 256} (h : IssuesNow (s.holdSave c) c) :
    s.groupCycle [c] c = (s.holdSave c).issueAt [c] c := by
  obtain ⟨_, _, hgate, hentry, hskip, hyield, hlate, hcause, hdefault, _, _⟩ := h
  simp [State.groupCycle, hgate, hentry, hskip, hyield, hlate, causesOf, hcause, hdefault]

theorem issueAt_issues {r : State} {c : Fin 256} (h : IssuesNow r c) (htnd : hdTnd (bundleAt r c).head ≠ 2)
    {is : List (Slot × Instr)} (hf : fetchBundle r (r.coreAt c) (bundleAt r c) = .ok is) :
    r.issueAt [c] c = r.issueBundle [c] (bundleAt r c) is := by
  obtain ⟨_, _, _, _, _, _, _, _, _, hmay, hfetched⟩ := h
  simp [State.issueAt, hmay, hfetched, hf, htnd]

/-- The issue step of a core that stands alone is its cycle. -/
theorem bundleIssue_alone {s : State} {c : Fin 256} (h : IssuesNow (s.holdSave c) c) :
    exec (.bundleIssue c) s = .next (s.groupCycle [c] c) := by
  obtain ⟨hrun, hjoined, _⟩ := h
  have hrun' : (s.coreAt c).run = .running := (State.holdSave_keeps Core.run (fun _ _ => rfl) s c c).symm.trans hrun
  have hjoined' : (s.coreAt c).joined = false := (State.holdSave_keeps Core.joined (fun _ _ => rfl) s c c).symm.trans hjoined
  change execBundleIssue c s = _
  rw [execBundleIssue, hrun']
  simp [issueGroup, hjoined']

/-! ### The close -/

/-- The close of a bundle moves the pc past its words, unless an instruction transferred (R294). -/
theorem State.closeBundle_pc (u : State) (b : RawBundle) : ((u.closeBundle b).coreAt u.issue.core).pc =
    if u.issue.taken then u.cur.pc else u.issue.pre.pc + BitVec.ofNat 64 (4 * b.len) := by
  unfold State.closeBundle
  extract_lets c pre taken back edge idle base bound closed moved busy
  have hclosed : (closed.coreAt c).pc = (u.coreAt c).pc := by
    have hbound : (bound.coreAt c).pc = (u.coreAt c).pc := u.applyBinds_pc c
    have hengine : ∀ p : Prop, ∀ [Decidable p],
        ((if p then bound.mapCore c (·.engineClose) else bound).coreAt c).pc = (bound.coreAt c).pc := by
      intro p _
      split
      · rw [State.coreAt_mapCore]
        exact (Core.engineClose_engine _).pc
      · rfl
    exact (hengine _).trans hbound
  have hmoved : (moved.coreAt c).pc = if taken then (u.coreAt c).pc else pre.pc + BitVec.ofNat 64 (4 * b.len) := by
    rw [show moved.coreAt c = _ from State.coreAt_mapCore closed c _]
    rw [← hclosed]
  have hbusy : busy.coreAt c = moved.coreAt c := State.meter_coreAt _ _ _ _ _
  have hlaunch : ∀ t : State, t.coreAt c = busy.coreAt c →
      (t.coreAt c).pc = if taken then u.cur.pc else pre.pc + BitVec.ofNat 64 (4 * b.len) := by
    intro t ht
    rw [ht, hbusy, hmoved]
    rfl
  refine hlaunch _ ?_
  split
  · split <;> rfl
  · rfl

/-- Settles O38: the agenda's step and the next core's turn by definition; the bundle of one slot goes through the issue of a
core that stands alone. -/
theorem stepRunsDecodedInstruction : Obligations.StepRunsDecodedInstruction := by
  intro s hpow
  have takes : ∀ (t : State) (i : Instr), t.boot = s.boot → t.takes i = true := by
    intro t i ht
    rw [State.takes, ht, hpow]
    rfl
  have runs : ∀ e rest, s.agenda = e :: rest → step s = exec e.instr { s with agenda := rest, inp := e.inp } := by
    intro e rest he
    rw [step, he]
    exact if_pos (takes _ _ rfl)
  refine ⟨runs, fun c hempty hnext => ?_, ?_⟩
  · rw [step, hempty]
    simp only [hpow, hnext]
    exact if_pos (takes _ _ rfl)
  · intro c rest w i u hagenda r b o hnow hcode hchk hres htnd hbrk hslots hdec hi hacq heng hexec hok
    have hlevel : levelOk (r.coreAt c).level i = true := by
      have h := levelOk_of_completes hexec hok
      rwa [show (State.pre { o with issue := { o.issue with slot := w.slot } }).level = (r.coreAt c).level from
        r.openBundle_level c b [(w.slot, i)]] at h
    refine ⟨?_, fun hcore => ?_⟩
    · rw [runs _ _ hagenda]
      refine (bundleIssue_alone hnow).trans (congrArg _ ?_)
      rw [groupCycle_issues hnow, issueAt_issues hnow htnd
        (fetchBundle_single hcode hchk hres hbrk hslots hdec hlevel)]
      exact issueBundle_single (runCore_single hacq heng hi hexec hok)
    · have h := u.closeBundle_pc b
      rwa [State.cur, hcore] at h

end Sys2Proof.Machine
end

section
/-! What the way of an access through TLBs, L2 and channels leaves alone (R71, R86, R90, R91, R95, R166, R167, R174): one
lemma for each operation on the memory side. -/

namespace Sys2Proof.Machine

/-! ### The frame -/

theorem OnlyMemorySide.refl (s : State) : OnlyMemorySide s s := ⟨rfl, fun _ => rfl⟩

theorem OnlyMemorySide.trans {s t u : State} (h : OnlyMemorySide s t) (h' : OnlyMemorySide t u) : OnlyMemorySide s u := by
  obtain ⟨hs, hc⟩ := h
  obtain ⟨hs', hc'⟩ := h'
  refine ⟨?_, fun c => ?_⟩
  · have h2 := congrArg (fun v : State => { v with
      cores := s.cores, mem := s.mem, hostMem := s.hostMem, badLines := s.badLines, ecc := s.ecc, l2 := s.l2,
      plru := s.plru, hostLines := s.hostLines, comb := s.comb, l2tlb := s.l2tlb, parts := s.parts, nb := s.nb,
      qos := s.qos, openRows := s.openRows, saved := s.saved, flog := s.flog, flogLost := s.flogLost,
      fnErr := s.fnErr, msixPend := s.msixPend, out := s.out, agenda := s.agenda, free := s.free }) hs'
    exact h2.trans hs
  · have h2 := congrArg (fun k : Core => { k with perf := (s.coreAt c).perf, walks := (s.coreAt c).walks }) (hc' c)
    exact h2.trans (hc c)

theorem OnlyMemorySide.ite {s t u : State} {c : Prop} [Decidable c] (ht : OnlyMemorySide s t) (hu : OnlyMemorySide s u) :
    OnlyMemorySide s (if c then t else u) := by
  split
  · exact ht
  · exact hu

/-- Operations on the memory side make one together. -/
theorem OnlyMemorySide.foldl {α : Type} (f : State → α → State) (hf : ∀ s a, OnlyMemorySide s (f s a)) (l : List α)
    (s : State) : OnlyMemorySide s (l.foldl f s) := by
  induction l generalizing s with
  | nil => exact OnlyMemorySide.refl s
  | cons a l ih => exact (hf s a).trans (ih (f s a))

theorem OnlyLogs.memorySide {s t : State} (h : OnlyLogs s t) : OnlyMemorySide s t := by
  refine ⟨?_, fun c => by rw [h.coreAt]⟩
  have h2 := congrArg (fun v : State => { v with
    cores := s.cores, mem := s.mem, hostMem := s.hostMem, badLines := s.badLines, ecc := s.ecc, l2 := s.l2,
    plru := s.plru, hostLines := s.hostLines, comb := s.comb, l2tlb := s.l2tlb, parts := s.parts, nb := s.nb,
    qos := s.qos, openRows := s.openRows, saved := s.saved, free := s.free }) h
  exact h2

/-- A change of one core's counts and walks. -/
theorem State.mapCore_memorySide (s : State) (c : Fin 256) (f : Core → Core)
    (hf : ({ f (s.coreAt c) with perf := (s.coreAt c).perf, walks := (s.coreAt c).walks } : Core) = s.coreAt c) :
    OnlyMemorySide s (s.mapCore c f) := by
  refine ⟨rfl, fun d => ?_⟩
  by_cases h : d = c
  · subst h
    rw [State.coreAt_mapCore]
    exact hf
  · rw [State.coreAt_mapCore_ne s f h]

section
variable {s t : State} (h : OnlyMemorySide s t)
include h

theorem OnlyMemorySide.memq : t.memq = s.memq := (congrArg State.memq h.1 :)
theorem OnlyMemorySide.cmds : t.cmds = s.cmds := (congrArg State.cmds h.1 :)
theorem OnlyMemorySide.nextId : t.nextId = s.nextId := (congrArg State.nextId h.1 :)
theorem OnlyMemorySide.issue : t.issue = s.issue := (congrArg State.issue h.1 :)
theorem OnlyMemorySide.dieNum : t.dieNum = s.dieNum := (congrArg State.dieNum h.1 :)
theorem OnlyMemorySide.power : t.power = s.power := (congrArg State.power h.1 :)
theorem OnlyMemorySide.cycle : t.cycle = s.cycle := (congrArg State.cycle h.1 :)

/-- A core keeps all but its counts and walks. -/
theorem OnlyMemorySide.coreAt_keeps {α : Type} (g : Core → α)
    (hg : ∀ (k : Core) p w, g { k with perf := p, walks := w } = g k) (c : Fin 256) : g (t.coreAt c) = g (s.coreAt c) :=
  (hg (t.coreAt c) (s.coreAt c).perf (s.coreAt c).walks).symm.trans (congrArg g (h.2 c))

theorem OnlyMemorySide.cur_keeps {α : Type} (g : Core → α)
    (hg : ∀ (k : Core) p w, g { k with perf := p, walks := w } = g k) : g t.cur = g s.cur := by
  rw [State.cur, State.cur, h.issue]
  exact h.coreAt_keeps g hg s.issue.core

end

section
variable (s : State)

/-! ### Counts and accounts of a channel -/

theorem State.meter_memorySide (part : Nat) (m : Fin 16) (n : Nat) : OnlyMemorySide s (s.meter part m n) := by
  unfold State.meter
  split
  · exact OnlyMemorySide.ite (OnlyMemorySide.refl s) ⟨rfl, fun _ => rfl⟩
  · exact OnlyMemorySide.refl s

theorem State.poke_memorySide (tag a : Nat) (bs : List Byte) : OnlyMemorySide s (s.poke tag a bs) :=
  OnlyMemorySide.ite ⟨rfl, fun _ => rfl⟩ ⟨rfl, fun _ => rfl⟩

theorem State.put_memorySide (tag a : Nat) (bs : List Byte) (side : Bool) : OnlyMemorySide s (s.put tag a bs side) :=
  OnlyMemorySide.ite ⟨rfl, fun _ => rfl⟩ (s.poke_memorySide tag a bs)

theorem State.countCtx_memorySide (l : Option Nat) (c : Fin 256) (ev : Fin 16) (n : Nat) :
    OnlyMemorySide s (s.countCtx l c ev n) := by
  unfold State.countCtx
  refine OnlyMemorySide.ite (s.mapCore_memorySide c _ rfl) ?_
  split
  · exact OnlyMemorySide.refl s
  · extract_lets counted
    have hcounted : OnlyMemorySide s counted := ⟨rfl, fun _ => rfl⟩
    split
    · exact hcounted
    · extract_lets ok o poked
      have hpoked : OnlyMemorySide s poked := hcounted.trans (counted.poke_memorySide _ _ _)
      exact OnlyMemorySide.ite (hpoked.trans (poked.poke_memorySide _ _ _)) hpoked

theorem State.note_memorySide (q : Req) (ev : Fin 16) (n : Nat) : OnlyMemorySide s (s.note q ev n) := by
  unfold State.note
  split
  · exact s.countCtx_memorySide _ _ ev n
  · exact OnlyMemorySide.refl s

theorem State.openRow_memorySide (dpa : Nat) : OnlyMemorySide s (s.openRow dpa) := ⟨rfl, fun _ => rfl⟩

theorem State.updQos_memorySide (ch : Fin 256) (part : Nat) (f : QosCount → QosCount) :
    OnlyMemorySide s (s.updQos ch part f) := ⟨rfl, fun _ => rfl⟩

theorem State.spendTokens_memorySide (ch : Fin 256) (part n : Nat) : OnlyMemorySide s (s.spendTokens ch part n) :=
  OnlyMemorySide.ite (s.updQos_memorySide ch part _) (OnlyMemorySide.refl s)

theorem State.noteWindow_memorySide (ch : Fin 256) : OnlyMemorySide s (s.noteWindow ch) := by
  unfold State.noteWindow
  split
  · exact OnlyMemorySide.ite ⟨rfl, fun _ => rfl⟩ (OnlyMemorySide.refl s)
  · exact OnlyMemorySide.refl s

theorem State.withFree_memorySide (n : Nat) : OnlyMemorySide s { s with free := n } := ⟨rfl, fun _ => rfl⟩

theorem State.channelUse_memorySide (dpa part : Nat) (rd : Bool) : OnlyMemorySide s (s.channelUse dpa part rd) := by
  unfold State.channelUse
  extract_lets ch used slow
  have hused : OnlyMemorySide s used := (s.openRow_memorySide dpa).trans (State.noteWindow_memorySide _ ch)
  exact OnlyMemorySide.ite (hused.trans (used.spendTokens_memorySide ch part 1))
    (OnlyMemorySide.ite (hused.trans ((used.withFree_memorySide _).trans (State.updQos_memorySide _ ch part _))) hused)

theorem State.noteEcc_memorySide (k : Nat) : OnlyMemorySide s (s.noteEcc k) := ⟨rfl, fun _ => rfl⟩

theorem State.correctRead_memorySide (q : Req) (dpa : Nat) : OnlyMemorySide s (s.correctRead q dpa) := by
  unfold State.correctRead
  extract_lets found drawn
  have hdrawn : OnlyMemorySide s drawn := s.withFree_memorySide _
  exact OnlyMemorySide.ite (hdrawn.trans ((drawn.noteEcc_memorySide _).trans (State.note_memorySide _ q 14 1))) hdrawn

theorem State.hbmRead_memorySide (q : Req) (dpa : Nat) : OnlyMemorySide s (s.hbmRead q dpa) :=
  (((s.channelUse_memorySide dpa q.part true).trans (State.meter_memorySide _ q.part 7 64)).trans
    (State.note_memorySide _ q 7 1)).trans (State.correctRead_memorySide _ q dpa)

theorem State.hbmWrite_memorySide (q : Req) (dpa : Nat) : OnlyMemorySide s (s.hbmWrite q dpa) :=
  ((s.channelUse_memorySide dpa q.part false).trans (State.meter_memorySide _ q.part 8 64)).trans
    (State.note_memorySide _ q 8 1)

theorem State.snoop_memorySide (q : Req) (dpa : Nat) : OnlyMemorySide s (s.snoop q dpa) := by
  unfold State.snoop
  refine OnlyMemorySide.ite ?_ (OnlyMemorySide.refl s)
  exact OnlyMemorySide.trans (t := { s with hostLines := SMap.set 0 s.hostLines (dpa / 64) 0 }) ⟨rfl, fun _ => rfl⟩
    (State.note_memorySide _ q 15 1)

theorem State.touchWay_memorySide (slice set w : Nat) : OnlyMemorySide s (s.touchWay slice set w) := ⟨rfl, fun _ => rfl⟩

/-! ### Windows -/

theorem writeVa_memorySide (part va : Nat) (b : Byte) : OnlyMemorySide s (writeVa s part va b) := by
  unfold writeVa
  split
  · exact OnlyMemorySide.refl s
  · exact OnlyMemorySide.ite ⟨rfl, fun _ => rfl⟩ (s.put_memorySide _ _ _ _)

theorem writeCode_memorySide (part : Nat) (w : Window) (e c : Nat) : OnlyMemorySide s (writeCode s part w e c) := by
  unfold writeCode
  refine OnlyMemorySide.ite (writeVa_memorySide s _ _ _) ?_
  extract_lets va
  split
  · exact OnlyMemorySide.refl s
  · exact writeVa_memorySide s _ _ _

theorem encodeBlock_memorySide (part : Nat) (w : Window) (e : Nat) (vs : List Val) :
    OnlyMemorySide s (encodeBlock s part w e vs) := by
  unfold encodeBlock
  refine OnlyMemorySide.ite ?_ (OnlyMemorySide.foldl _ (fun s o => ?_) _ s)
  · split
    · exact OnlyMemorySide.refl s
    · exact (writeVa_memorySide s _ _ _).trans (OnlyMemorySide.foldl _ (fun s i => writeCode_memorySide s _ _ _ _) _ _)
  · exact (writeVa_memorySide s _ _ _).trans (OnlyMemorySide.foldl _ (fun s i => writeCode_memorySide s _ _ _ _) _ _)

theorem State.logUnit_memorySide (cause : Cause) (flags : BitVec 8) (part unit index detail : Nat) (addr : Word)
    (gang : BitVec 32) : OnlyMemorySide s (s.logUnit cause flags part unit index detail addr gang) :=
  (s.logUnit_logs cause flags part unit index detail addr gang).memorySide

theorem windowWrite_memorySide (part : Nat) (w : Window) (off : Nat) (bs : List Byte) :
    OnlyMemorySide s (windowWrite s part w off bs) := by
  unfold windowWrite
  extract_lets esz first last
  refine OnlyMemorySide.ite (OnlyMemorySide.refl s) (OnlyMemorySide.foldl _ (fun s i => ?_) _ s)
  dsimp only
  split
  · exact s.logUnit_memorySide _ _ _ _ _ _ _ _
  · split
    · exact encodeBlock_memorySide s _ _ _ _
    · exact s.logUnit_memorySide _ _ _ _ _ _ _ _
    · exact OnlyMemorySide.refl s

/-! ### Lines of L2 -/

theorem State.writeBack_memorySide (q : Req) (e : L2Line) : OnlyMemorySide s (s.writeBack q e) := by
  unfold State.writeBack
  refine OnlyMemorySide.ite (OnlyMemorySide.refl s) ?_
  extract_lets noted
  have hnoted : OnlyMemorySide s noted := s.note_memorySide q 2 1
  split
  next written _ _ =>
    have hwritten : OnlyMemorySide noted written := ⟨rfl, fun _ => rfl⟩
    exact (hnoted.trans hwritten).trans (written.hbmWrite_memorySide _ _)
  · split
    · extract_lets charged
      have hcharged : OnlyMemorySide noted charged := OnlyMemorySide.foldl _ (fun s a => s.hbmWrite_memorySide _ a) _ _
      exact (hnoted.trans hcharged).trans (windowWrite_memorySide charged _ _ _ _)
    · exact hnoted

theorem State.flushLines_memorySide (q : Req) (p : L2Line → Bool) : OnlyMemorySide s (s.flushLines q p) :=
  OnlyMemorySide.trans (t := { s with l2 := s.l2.filter fun e => !p e }) ⟨rfl, fun _ => rfl⟩
    (OnlyMemorySide.foldl _ (fun s e => s.writeBack_memorySide q e) _ _)

theorem State.dropLines_memorySide (p : L2Line → Bool) : OnlyMemorySide s (s.dropLines p) := ⟨rfl, fun _ => rfl⟩

theorem State.withL2_memorySide (l : List L2Line) : OnlyMemorySide s { s with l2 := l } := ⟨rfl, fun _ => rfl⟩

theorem State.allocate_memorySide (q : Req) (win : Option Nat) (a : Nat) (data : List Byte) (bad : Nat) :
    OnlyMemorySide s (s.allocate q win a data bad) := by
  unfold State.allocate
  dsimp only
  split
  · exact OnlyMemorySide.refl s
  · exact ((s.flushLines_memorySide q _).trans (State.withL2_memorySide _ _)).trans (State.touchWay_memorySide _ _ _ _)

theorem State.channelAccess_memorySide (q : Req) (dpa : Nat) (u : LineUse) : OnlyMemorySide s (s.channelAccess q dpa u) := by
  cases u with
  | read => exact s.hbmRead_memorySide q dpa
  | atomic => exact (s.hbmRead_memorySide q dpa).trans (State.hbmWrite_memorySide _ q dpa)
  | part => exact s.hbmWrite_memorySide q dpa
  | full => exact s.hbmWrite_memorySide q dpa

theorem State.access_memorySide (q : Req) (dpa : Nat) (side : Bool) (u : LineUse) :
    OnlyMemorySide s (s.access q dpa side u) := by
  unfold State.access
  extract_lets snooped
  have hsnooped : OnlyMemorySide s snooped := s.snoop_memorySide q dpa
  refine OnlyMemorySide.ite (hsnooped.trans (snooped.channelAccess_memorySide q dpa u)) ?_
  split
  · exact (hsnooped.trans (snooped.note_memorySide q 0 1)).trans (State.touchWay_memorySide _ _ _ _)
  next missed line filled _ _ =>
    have hmissed : OnlyMemorySide s missed := hsnooped.trans (snooped.note_memorySide q 1 1)
    split
    · exact hmissed.trans (missed.channelAccess_memorySide q dpa u)
    · have hfilled : OnlyMemorySide missed filled :=
        OnlyMemorySide.ite (OnlyMemorySide.refl missed) (missed.hbmRead_memorySide q dpa)
      exact (hmissed.trans hfilled).trans
        (OnlyMemorySide.ite (OnlyMemorySide.refl filled) (filled.allocate_memorySide q none line _ 0))

theorem State.accessWin_memorySide (q : Req) (i : Nat) (w : Window) (va : Nat) :
    OnlyMemorySide s (s.accessWin q i w va) := by
  unfold State.accessWin
  extract_lets snooped
  have hsnooped : OnlyMemorySide s snooped := OnlyMemorySide.foldl _ (fun s a => s.snoop_memorySide q a) _ s
  split
  · exact (hsnooped.trans (snooped.note_memorySide q 0 1)).trans (State.touchWay_memorySide _ _ _ _)
  next missed line read _ _ =>
    have hmissed : OnlyMemorySide s missed := hsnooped.trans (snooped.note_memorySide q 1 1)
    have hread : OnlyMemorySide s read := hmissed.trans (OnlyMemorySide.foldl _ (fun s a => s.hbmRead_memorySide q a) _ missed)
    split
    · exact hread.trans (read.allocate_memorySide q (some i) line _ 0)
    · exact hread

theorem State.pokeWin_memorySide (q : Req) (i : Nat) (w : Window) (va : Nat) (bs : List Byte) :
    OnlyMemorySide s (s.pokeWin q i w va bs) := by
  unfold State.pokeWin
  split
  · exact s.withL2_memorySide _
  · exact (OnlyMemorySide.foldl _ (fun s a => s.hbmWrite_memorySide q a) _ s).trans (windowWrite_memorySide _ _ _ _ _)

/-! ### Walks -/

theorem State.tableReads_memorySide (q : Req) (part va : Nat) : OnlyMemorySide s (s.tableReads q part va) :=
  OnlyMemorySide.foldl _ (fun s (x : Nat × Nat) => s.access_memorySide { q with tag := x.1, alloc := .any } x.2 false .read) _ s

theorem State.walkFor_memorySide (q : Req) (part va : Nat) : OnlyMemorySide s (s.walkFor q part va) :=
  ((s.note_memorySide q 5 1).trans (State.note_memorySide _ q 6 _)).trans
    ((State.withFree_memorySide _ _).trans (State.tableReads_memorySide _ q part va))

theorem noteMiss_memorySide (c : Fin 256) (part va : Nat) : OnlyMemorySide s (noteMiss s c part va) := by
  unfold noteMiss
  extract_lets q
  split
  next first _ _ _ _ _ =>
    refine OnlyMemorySide.ite (OnlyMemorySide.refl s) ?_
    extract_lets own second walked
    have hfirst : OnlyMemorySide s first := s.note_memorySide q 3 1
    have hsecond : OnlyMemorySide first second :=
      OnlyMemorySide.ite (first.note_memorySide q 4 1) (OnlyMemorySide.refl first)
    have hwalked : OnlyMemorySide second walked :=
      OnlyMemorySide.ite (second.walkFor_memorySide q part va) (OnlyMemorySide.refl second)
    exact ((hfirst.trans hsecond).trans hwalked).trans (walked.mapCore_memorySide c _ rfl)
  · exact ((s.note_memorySide q 3 1).trans (State.note_memorySide _ q 4 1)).trans (State.walkFor_memorySide _ q part va)

theorem State.noteAccess_memorySide (c : Fin 256) (t : Target) (a : Nat) : OnlyMemorySide s (s.noteAccess c t a) := by
  unfold State.noteAccess
  extract_lets k
  split
  · exact OnlyMemorySide.ite (OnlyMemorySide.refl s) (noteMiss_memorySide s c _ _)
  · split
    · exact OnlyMemorySide.foldl _ (fun s v => noteMiss_memorySide s c _ v) _ s
    · exact OnlyMemorySide.refl s
  · exact OnlyMemorySide.refl s

theorem State.fillL2Tlb_memorySide (q : Fin 64) (t : TlbEntry) : OnlyMemorySide s (s.fillL2Tlb q t) := ⟨rfl, fun _ => rfl⟩

theorem State.noteQuad_memorySide (q : Req) (c : Fin 256) (part va : Nat) : OnlyMemorySide s (s.noteQuad q c part va) := by
  unfold State.noteQuad
  split
  · exact OnlyMemorySide.ite (((s.note_memorySide q 4 1).trans (State.walkFor_memorySide _ q part va)).trans
      (State.fillL2Tlb_memorySide _ _ _)) (OnlyMemorySide.refl s)
  · exact (s.note_memorySide q 4 1).trans (State.walkFor_memorySide _ q part va)

end

end Sys2Proof.Machine
end

section
/-! Loads (R193, R351, R352): the bytes as a value, the access that is sent, and where the load lands. -/

namespace Sys2Proof.Machine

/-! ### Bytes read as a number (R2, R352) -/

theorem readLE_succ (m : Mem) (a n : Nat) : m.readLE a (n + 1) = 2 ^ 8 * m.readLE (a + 1) n + (m.read a).toNat := by
  rw [Mem.readLE, Mem.readBytes, List.foldr_cons, Mem.readLE]
  omega

/-- The bits of bytes read low byte first. -/
theorem testBit_readLE (m : Mem) (n : Nat) : ∀ a i,
    (m.readLE a n).testBit i = if i < 8 * n then (m.read (a + i / 8)).getLsbD (i % 8) else false := by
  induction n with
  | zero => intro a i; simp [Mem.readLE, Mem.readBytes]
  | succ n ih =>
    intro a i
    rw [readLE_succ, Nat.testBit_two_pow_mul_add _ (m.read a).isLt]
    by_cases h : i < 8
    · rw [if_pos h, if_pos (by omega), Nat.div_eq_of_lt h, Nat.mod_eq_of_lt h, BitVec.testBit_toNat, Nat.add_zero]
    · rw [if_neg h, ih]
      have hdiv : a + 1 + (i - 8) / 8 = a + i / 8 := by omega
      have hmod : (i - 8) % 8 = i % 8 := by omega
      rw [hdiv, hmod]
      by_cases hn : i - 8 < 8 * n
      · rw [if_pos hn, if_pos (by omega)]
      · rw [if_neg hn, if_neg (by omega)]

theorem readLE_lt (m : Mem) (a n : Nat) : m.readLE a n < 2 ^ (8 * n) := by
  apply Nat.lt_pow_two_of_testBit
  intro i hi
  rw [testBit_readLE, if_neg (by omega)]

/-- A loaded value is its bytes, extended (R352). -/
theorem loads_extend (m : Mem) (a : Nat) {len : Nat} (sx : Bool) (h : 0 < len) :
    Loads m a len sx (extend len sx (m.readLE a len)) := by
  intro i hi
  have hlast : a + (8 * len - 1) / 8 = a + len - 1 := by omega
  have hbit : (8 * len - 1) % 8 = 7 := by omega
  cases sx with
  | false =>
    rw [extend, if_neg Bool.false_ne_true, BitVec.getLsbD_ofNat, testBit_readLE]
    simp [hi]
  | true =>
    have hv : m.readLE a len = (BitVec.ofNat (8 * len) (m.readLE a len)).toNat := by
      rw [BitVec.toNat_ofNat, Nat.mod_eq_of_lt (readLE_lt m a len)]
    rw [extend, if_pos rfl, hv, signed_toNat _ (by omega), ← BitVec.signExtend, BitVec.getLsbD_signExtend,
      BitVec.msb_eq_getLsbD_last]
    simp only [BitVec.getLsbD_ofNat, testBit_readLE, hlast, hbit]
    by_cases h' : i < 8 * len
    · simp [hi, h']
    · simp [hi, h', h]

theorem LdSz.bytes_pos (sz : LdSz) : 0 < LdSz.bytes sz := by cases sz <;> decide

/-! ### The access that is sent (R193, R201) -/

/-- The access that `send` forms, with the clock of its core. -/
def State.formedOp (s : State) (c : Fin 256) (kind : MemKind) (p : Phys) (va : Word) (o : OpOpts) : MemOp :=
  let k := s.coreAt c
  { id := s.nextId, core := c, launch := k.launch, part := k.part, kind := kind, dpa := p.addr, va := va,
    tag := k.tag, na := o.na, home := homeDie s k.tag p.addr p.mtype, side := Decidable.decide (p.mtype ≠ 0),
    ms := Decidable.decide (p.mtype = 1), win := o.win, num := if o.write then s.dieNum[dieOf c] + 1 else 0,
    clk := if o.write then k.wc else k.rc, due := o.due, after := o.after, acq := o.acq, diff := o.diff,
    tape := o.tape, parked := none, bad := none, result := none }

/-- The access that `send` puts at the end of the queue: an honoured commutative atomic carries no clock (R204). -/
def State.sentOp (s : State) (c : Fin 256) (kind : MemKind) (p : Phys) (va : Word) (o : OpOpts) : MemOp :=
  let op := s.formedOp c kind p va o
  if op.commutes then { op with clk := Clk.zero } else op

section
variable (s : State) (c : Fin 256) (kind : MemKind) (p : Phys) (va : Word) (o : OpOpts)

theorem State.send_id : (s.send c kind p va o).1 = s.nextId := rfl

theorem State.send_memq : (s.send c kind p va o).2.memq = s.memq ++ [s.sentOp c kind p va o] := by
  unfold State.send State.sentOp State.formedOp State.numberWrite
  cases o.write <;> rfl

theorem State.sentOp_keeps {α : Type} (g : MemOp → α) (hg : ∀ (op : MemOp) x, g { op with clk := x } = g op) :
    g (s.sentOp c kind p va o) = g (s.formedOp c kind p va o) := by
  unfold State.sentOp
  dsimp only
  split
  · exact hg _ _
  · rfl

/-- Sending touches the queue, the numbers given and the write clock of the core. -/
theorem State.send_only : ({ (s.send c kind p va o).2 with
    memq := s.memq, nextId := s.nextId, dieNum := s.dieNum, cores := s.cores } : State) = s := by
  unfold State.send State.numberWrite
  cases o.write <;> rfl

theorem State.send_coreAt_keeps {α : Type} (g : Core → α) (hg : ∀ (k : Core) w, g { k with wc := w } = g k) (d : Fin 256) :
    g ((s.send c kind p va o).2.coreAt d) = g (s.coreAt d) := by
  unfold State.send State.numberWrite
  cases o.write with
  | false => rfl
  | true =>
    by_cases h : d = c
    · subst h
      exact (congrArg g (State.coreAt_setCore _ d _)).trans (hg _ _)
    · exact congrArg g (State.coreAt_setCore_ne _ _ h)

theorem State.send_issue : (s.send c kind p va o).2.issue = s.issue := (congrArg State.issue (s.send_only c kind p va o) :)
theorem State.send_mem : (s.send c kind p va o).2.mem = s.mem := (congrArg State.mem (s.send_only c kind p va o) :)
theorem State.send_l2 : (s.send c kind p va o).2.l2 = s.l2 := (congrArg State.l2 (s.send_only c kind p va o) :)
theorem State.send_power : (s.send c kind p va o).2.power = s.power := (congrArg State.power (s.send_only c kind p va o) :)

theorem State.send_memory : SameMemory s (s.send c kind p va o).2 :=
  SameMemory.of_eq (s.send_mem c kind p va o) (s.send_l2 c kind p va o)

@[simp] theorem State.sentOp_id : (s.sentOp c kind p va o).id = s.nextId :=
  s.sentOp_keeps c kind p va o MemOp.id fun _ _ => rfl
@[simp] theorem State.sentOp_kind : (s.sentOp c kind p va o).kind = kind :=
  s.sentOp_keeps c kind p va o MemOp.kind fun _ _ => rfl
@[simp] theorem State.sentOp_dpa : (s.sentOp c kind p va o).dpa = p.addr :=
  s.sentOp_keeps c kind p va o MemOp.dpa fun _ _ => rfl
@[simp] theorem State.sentOp_core : (s.sentOp c kind p va o).core = c :=
  s.sentOp_keeps c kind p va o MemOp.core fun _ _ => rfl
@[simp] theorem State.sentOp_win : (s.sentOp c kind p va o).win = o.win :=
  s.sentOp_keeps c kind p va o MemOp.win fun _ _ => rfl
@[simp] theorem State.sentOp_diff : (s.sentOp c kind p va o).diff = o.diff :=
  s.sentOp_keeps c kind p va o MemOp.diff fun _ _ => rfl
@[simp] theorem State.sentOp_tape : (s.sentOp c kind p va o).tape = o.tape :=
  s.sentOp_keeps c kind p va o MemOp.tape fun _ _ => rfl
@[simp] theorem State.sentOp_na : (s.sentOp c kind p va o).na = o.na :=
  s.sentOp_keeps c kind p va o MemOp.na fun _ _ => rfl
@[simp] theorem State.sentOp_acq : (s.sentOp c kind p va o).acq = o.acq :=
  s.sentOp_keeps c kind p va o MemOp.acq fun _ _ => rfl
@[simp] theorem State.sentOp_after : (s.sentOp c kind p va o).after = o.after :=
  s.sentOp_keeps c kind p va o MemOp.after fun _ _ => rfl
@[simp] theorem State.sentOp_due : (s.sentOp c kind p va o).due = o.due :=
  s.sentOp_keeps c kind p va o MemOp.due fun _ _ => rfl
@[simp] theorem State.sentOp_result : (s.sentOp c kind p va o).result = none :=
  s.sentOp_keeps c kind p va o MemOp.result fun _ _ => rfl
theorem State.sentOp_num : (s.sentOp c kind p va o).num = if o.write then s.dieNum[dieOf c] + 1 else 0 :=
  s.sentOp_keeps c kind p va o MemOp.num fun _ _ => rfl

end

/-- A load or a store carries the clock of its core. -/
theorem State.sentOp_clk_load (s : State) (c : Fin 256) (len : Nat) (sx : Bool) (p : Phys) (va : Word) (o : OpOpts) :
    (s.sentOp c (.load len sx) p va o).clk = if o.write then (s.coreAt c).wc else (s.coreAt c).rc := rfl

theorem State.sentOp_clk_store (s : State) (c : Fin 256) (bs : List Byte) (p : Phys) (va : Word) (o : OpOpts) :
    (s.sentOp c (.store bs) p va o).clk = if o.write then (s.coreAt c).wc else (s.coreAt c).rc := rfl

/-! ### Where an access of the S slot lands (R351) -/

section
variable {α : Type} {s : State} {kind : AccKind} {a : Word} {len : Nat} {k : Target → Word → SlotRes α}

theorem reach_spad (hal : a.toNat % len = 0) (hp : badPolder s.pre.hdr a.toNat len = none) :
    reach s true kind a len k = k (.spad a.toNat) (spadInfo (a.toNat % 2 ^ 63)) := by
  simp [reach, hal, hp]

theorem reach_mem (hal : a.toNat % len = 0) {t : Target} (ht : memTarget s kind a len = .ok t) :
    reach s false kind a len k = k t (addrInfo a) := by
  simp [reach, hal, ht]

end

theorem orHold_of {α : Type} {h : Option Hold} {k : SlotRes α} (hn : h = none) : orHold h k = k := by rw [hn, orHold_none]

theorem soundSpad_ok {α : Type} {s : State} {off len : Nat} {k : SlotRes α} (h : s.cur.failedLine off len = none) :
    soundSpad s off len k = k := by
  rw [soundSpad, h]

theorem soundSpad_trap {α : Type} {s : State} {off len : Nat} {k : SlotRes α} (h : s.cur.failedLine off len ≠ none) :
    soundSpad s off len k = .trap (slotTrap s .uncorrectable (spadInfo off)) := by
  obtain ⟨x, hx⟩ := Option.ne_none_iff_exists'.1 h
  rw [soundSpad, hx]
  rfl

/-- The differentiable check of an access of the scratchpad. -/
theorem diffOf_spad (s : State) (n a len : Nat) : diffOf s (.spad n) a len false =
    match diffSpad s.pre n len with
    | .region r => if oneElement r n len then .region r else .refuse .diffShape
    | x => x := rfl

theorem diffOf_hbm (s : State) (p : Phys) (a len : Nat) : diffOf s (.hbm p) a len false =
    match diffHbm s.pre p.diff a len with
    | .region r => if oneElement r a len then .region r else .refuse .diffShape
    | x => x := rfl

/-! ### A load that waits for its data (R352) -/

theorem State.awaitLoad_memq (s : State) (id lat : Nat) (w : WReg) (a : Word) (acq : Bool) :
    (s.awaitLoad id lat w a acq).memq = s.memq := rfl

theorem State.awaitLoad_memory (s : State) (id lat : Nat) (w : WReg) (a : Word) (acq : Bool) :
    SameMemory s (s.awaitLoad id lat w a acq) := SameMemory.of_eq rfl rfl

theorem Core.result_loads (k : Core) (v : Word) (lat : Nat) (w : WReg) (l : Option Nat) : (k.result v lat w l).loads = k.loads :=
  (congrArg Core.loads (k.result_only v lat w l) :)

theorem State.awaitLoad_awaits {s t : State} (hl : t.cur.loads = s.cur.loads) (hc : t.cur.clk = s.cur.clk) (id lat : Nat)
    (w : WReg) (a : Word) (acq : Bool) : Awaits s (t.awaitLoad id lat w a acq) id lat w := by
  refine ⟨{ id := id, level := t.cur.level, seq := t.cur.seq, w := w, land := t.cur.clk + lat, addr := a, acquire := acq,
            data := none, clk := Clk.zero, err := none }, ?_, rfl, by rw [hc], rfl, rfl⟩
  rw [State.awaitLoad, State.cur_upd, ← hl]
  exact congrArg (· ++ _) (t.cur.result_loads 0 lat w (some id))

/-- A load that is sent: the read goes to its home and the load waits for it; memory stays but for the way of the
translation. -/
theorem load_sends {s s1 n : State} (hs : OnlyFree s s1) (hn : OnlyMemorySide s1 n) (len : Nat) (sx : Bool) (p : Phys)
    (va : Word) (o : OpOpts) (ho : o.write = false) (lat : Nat) (w : WReg) :
    let t := (n.send s1.issue.core (.load len sx) p va o).2.awaitLoad (n.send s1.issue.core (.load len sx) p va o).1 lat w va
      false
    Sends s t (.load len sx) p.addr (fun op => op.num = 0 ∧ op.clk = s.cur.rc ∧ op.win = o.win ∧ Awaits s t op.id lat w) ∧
      SameMemory n t := by
  intro t
  have hcore : s1.issue.core = s.issue.core := by rw [hs.issue]
  have hmemq : t.memq = s.memq ++ [n.sentOp s1.issue.core (.load len sx) p va o] := by
    rw [State.awaitLoad_memq, State.send_memq, hn.memq, show s1.memq = s.memq from (congrArg State.memq hs :)]
  have hcur : ∀ {α : Type} (g : Core → α), (∀ (k : Core) x, g { k with wc := x } = g k) →
      (∀ (k : Core) x y, g { k with perf := x, walks := y } = g k) →
      g (n.send s1.issue.core (.load len sx) p va o).2.cur = g s.cur := by
    intro α g hwc hside
    rw [State.cur, State.send_issue, State.send_coreAt_keeps _ _ _ _ _ _ g hwc, ← State.cur, hn.cur_keeps g hside, hs.cur]
  refine ⟨⟨_, hmemq, State.sentOp_kind .., State.sentOp_dpa .., by rw [State.sentOp_core, hcore], State.sentOp_result ..,
    by rw [State.sentOp_num, ho]; rfl, ?_, State.sentOp_win .., ?_⟩, ?_⟩
  · rw [State.sentOp_clk_load, ho, if_neg Bool.false_ne_true, hn.coreAt_keeps Core.rc (fun _ _ _ => rfl), ← State.cur, hs.cur]
  · rw [State.sentOp_id, ← State.send_id]
    exact State.awaitLoad_awaits (hcur Core.loads (fun _ _ => rfl) fun _ _ _ => rfl)
      (hcur Core.clk (fun _ _ => rfl) fun _ _ _ => rfl) _ _ _ _ _
  · exact (n.send_memory _ _ _ _ _).trans (State.awaitLoad_memory _ _ _ _ _ _)

/-! ### LD of the scratchpad -/

section
variable {s s1 : State} {a : SSpec} {d : Disp} {w : WReg} {sz : LdSz} {x : Word} (hx : readS s a 0 = .ok x s1)
  (hal : (x + dispWord d).toNat % LdSz.bytes sz = 0)
  (hp : badPolder s.pre.hdr (x + dispWord d).toNat (LdSz.bytes sz) = none)
include hx hal hp

/-- What a load of the scratchpad comes to, by what the differentiable check finds. -/
theorem ld_spad_plain (hplain : diffSpad s.pre (x + dispWord d).toNat (LdSz.bytes sz) = .plain)
    (hh : spadHold s1 (x + dispWord d).toNat (LdSz.bytes sz) = none) :
    exec (.ld a d w 0 sz) s = finish s (
      let n := (x + dispWord d).toNat
      let u := s1.drainMaybe s1.issue.core n (LdSz.bytes sz)
      soundSpad u n (LdSz.bytes sz) (.ok () (u.result (extend (LdSz.bytes sz) (LdSz.signed sz)
        (u.cur.spad.readLE n (LdSz.bytes sz))) 4 w))) := by
  have hpre : s1.pre = s.pre := readS_pre hx
  change finish s ((readS s a 0).bind _) = _
  rw [hx, SlotRes.bind_ok]
  dsimp only
  rw [decide_eq_true rfl, reach_spad hal (hpre ▸ hp)]
  simp only [diffOf_spad, hpre, hplain, hh, orHold_none]

theorem ld_spad_region {r : DiffRegion} (hr : diffSpad s.pre (x + dispWord d).toNat (LdSz.bytes sz) = .region r)
    (hone : oneElement r (x + dispWord d).toNat (LdSz.bytes sz) = true)
    (hh : spadHold s1 (x + dispWord d).toNat (LdSz.bytes sz) = none) :
    exec (.ld a d w 0 sz) s = finish s (
      let n := (x + dispWord d).toNat
      if s.pre.rewinding then orHold (spadHold s1 (r.cell n) 4) (ldRewindSpad s1 r n w)
      else soundSpad s1 n (LdSz.bytes sz) (.ok () (s1.result (extend (LdSz.bytes sz) (LdSz.signed sz)
        (s1.cur.spad.readLE n (LdSz.bytes sz))) 4 w))) := by
  have hpre : s1.pre = s.pre := readS_pre hx
  change finish s ((readS s a 0).bind _) = _
  rw [hx, SlotRes.bind_ok]
  dsimp only
  rw [decide_eq_true rfl, reach_spad hal (hpre ▸ hp)]
  simp only [diffOf_spad, hpre, hr, hone, hh, orHold_none, if_true]

theorem ld_spad_shape {r : DiffRegion} (hr : diffSpad s.pre (x + dispWord d).toNat (LdSz.bytes sz) = .region r)
    (hone : oneElement r (x + dispWord d).toNat (LdSz.bytes sz) = false) :
    Raises (.ld a d w 0 sz) s (slotTrap s1 .diffShape (spadInfo ((x + dispWord d).toNat % 2 ^ 63))) := by
  have hpre : s1.pre = s.pre := readS_pre hx
  refine raises_of_trap rfl ?_
  rw [hx, SlotRes.bind_ok]
  dsimp only
  rw [decide_eq_true rfl, reach_spad hal (hpre ▸ hp)]
  simp only [diffOf_spad, hpre, hr, hone, Bool.false_eq_true, if_false]
  rfl

end

/-- The contribution of a rewind load to a cell of the scratchpad (R242). -/
theorem ldRewindSpad_ok {s s2 : State} {r : DiffRegion} {n : Nat} {w : WReg} {v : Word} (hv : readS s (.x w) 0 = .ok v s2)
    (hf : w ≠ 0 → s2.cur.failedLine (r.cell n) 4 = none) : ldRewindSpad s r n w =
      .ok () ((if w = 0 then s2 else s2.upd fun k => k.accumSpad r n (contribution r v)).result 0 4 w) := by
  rw [ldRewindSpad, hv, SlotRes.bind_ok]
  by_cases hw : w = 0
  · rw [if_pos hw, if_pos hw]
  · rw [if_neg hw, if_neg hw, soundSpad_ok (hf hw)]

theorem State.drainMaybe_issue (s : State) (c : Fin 256) (off len : Nat) : (s.drainMaybe c off len).issue = s.issue := by
  unfold State.drainMaybe
  split
  · dsimp only
    split <;> rfl
  · rfl

/-! ### LD of memory -/

section
variable {s s1 : State} {a : SSpec} {d : Disp} {w : WReg} {sz : LdSz} {x : Word} {land : BitVec 10}
  (hx : readS s a 0 = .ok x s1) (hland : land ≠ 0) (hal : (x + dispWord d).toNat % LdSz.bytes sz = 0)
include hx hland hal

theorem ld_hbm_plain {p : Phys} (ht : memTarget s1 .read (x + dispWord d) (LdSz.bytes sz) = .ok (.hbm p)) (diff : Bool)
    (hdiff : diffHbm s.pre p.diff (x + dispWord d).toNat (LdSz.bytes sz) = .plain ∧ diff = false ∨
      (∃ r, diffHbm s.pre p.diff (x + dispWord d).toNat (LdSz.bytes sz) = .region r ∧
        oneElement r (x + dispWord d).toNat (LdSz.bytes sz) = true) ∧ s.pre.rewinding = false ∧ diff = true) :
    Runs (.ld a d w land sz) s (
      let n := s1.noteAccess s1.issue.core (.hbm p) (x + dispWord d).toNat
      let sent := n.send s1.issue.core (.load (LdSz.bytes sz) (LdSz.signed sz)) p (x + dispWord d) { write := false, diff := diff }
      sent.2.awaitLoad sent.1 land.toNat w (x + dispWord d) false) := by
  have hpre : s1.pre = s.pre := readS_pre hx
  have hissue : ∀ t, (s1.noteAccess s1.issue.core t (x + dispWord d).toNat).issue = s1.issue := fun t =>
    (State.noteAccess_memorySide s1 _ _ _).issue
  refine runs_of_ok rfl ?_
  rw [hx, SlotRes.bind_ok]
  dsimp only
  rw [decide_eq_false hland, reach_mem hal ht]
  rcases hdiff with ⟨hplain, rfl⟩ | ⟨⟨r, hr, hone⟩, hrew, rfl⟩
  · simp only [diffOf_hbm, hpre, hplain]
  · simp only [diffOf_hbm, hpre, hr, hone, hrew, if_true]

theorem ld_window {p : Phys} {i : Nat} (ht : memTarget s1 .read (x + dispWord d) (LdSz.bytes sz) = .ok (.window i p))
    (hdiff : (diffLevel s.pre && (regionAt s.pre.hdr true (x + dispWord d).toNat (LdSz.bytes sz)).isSome) = false) :
    Runs (.ld a d w land sz) s (
      let n := s1.noteAccess s1.issue.core (.window i p) (x + dispWord d).toNat
      let sent := n.send s1.issue.core (.load (LdSz.bytes sz) (LdSz.signed sz)) p (x + dispWord d) { write := false, win := some i }
      sent.2.awaitLoad sent.1 land.toNat w (x + dispWord d) false) := by
  have hpre : s1.pre = s.pre := readS_pre hx
  refine runs_of_ok rfl ?_
  rw [hx, SlotRes.bind_ok]
  dsimp only
  rw [decide_eq_false hland, reach_mem hal ht]
  simp only [diffOf, hpre, hdiff, Bool.false_eq_true, if_false]

theorem ld_reg {fn off : Nat} (ht : memTarget s1 .read (x + dispWord d) (LdSz.bytes sz) = .ok (.reg fn off)) :
    Runs (.ld a d w land sz) s (s1.result (regRead s1 fn off) land.toNat w) := by
  refine runs_of_ok rfl ?_
  rw [hx, SlotRes.bind_ok]
  dsimp only
  rw [decide_eq_false hland, reach_mem hal ht]
  rfl

/-- In REWIND the load of an element of a region is its contribution to the adjoint cell. -/
theorem ld_hbm_rewind {p q : Phys} {r : DiffRegion} {v : Word} {s2 : State}
    (ht : memTarget s1 .read (x + dispWord d) (LdSz.bytes sz) = .ok (.hbm p))
    (hr : diffHbm s.pre p.diff (x + dispWord d).toNat (LdSz.bytes sz) = .region r)
    (hone : oneElement r (x + dispWord d).toNat (LdSz.bytes sz) = true) (hrew : s.pre.rewinding = true)
    (hq : cellPhys s1 s1.issue.core s1.pre.part s1.pre.level (r.cell (x + dispWord d).toNat) = .ok q)
    (hv : readS s1 (.x w) 0 = .ok v s2) :
    Runs (.ld a d w land sz) s ((if w = 0 then s2 else
      (s2.send s2.issue.core (.accum r.a32 r.anchor (BitVec.ofNat 32 (contribution r v))) q
        (BitVec.ofNat 64 (r.cell (x + dispWord d).toNat)) { write := true, diff := true }).2).result 0 land.toNat w) := by
  have hpre : s1.pre = s.pre := readS_pre hx
  refine runs_of_ok rfl ?_
  rw [hx, SlotRes.bind_ok]
  dsimp only
  rw [decide_eq_false hland, reach_mem hal ht]
  simp only [diffOf_hbm, hpre, hr, hone, hrew, if_true]
  rw [ldRewindHbm, hq]
  dsimp only
  rw [hv, SlotRes.bind_ok]

end

theorem State.result_memory (s : State) (v : Word) (lat : Nat) (w : WReg) : SameMemory s (s.result v lat w) :=
  SameMemory.of_eq rfl rfl

theorem OnlyFree.memory {s t : State} (h : OnlyFree s t) : SameMemory s t := SameMemory.of_eq h.mem h.l2

/-- What the contribution of a load sends. -/
theorem accum_sends {s s2 : State} (hs : OnlyFree s s2) (kind : MemKind) (q : Phys) (va : Word) (lat : Nat) (w : WReg) :
    let t := (s2.send s2.issue.core kind q va { write := true, diff := true }).2.result 0 lat w
    Sends s t kind q.addr (fun op => op.diff = true) ∧ SameMemory s t := by
  intro t
  have hdiff : (s2.sentOp s2.issue.core kind q va { write := true, diff := true }).diff = true := State.sentOp_diff ..
  refine ⟨⟨_, ?_, State.sentOp_kind .., State.sentOp_dpa .., (State.sentOp_core ..).trans (congrArg Issue.core hs.issue),
    State.sentOp_result .., hdiff⟩, (hs.memory.trans (s2.send_memory _ _ _ _ _)).trans (State.result_memory _ _ _ _)⟩
  calc t.memq
    _ = (s2.send s2.issue.core kind q va { write := true, diff := true }).2.memq := rfl
    _ = _ := (s2.send_memq ..).trans (congrArg (· ++ _) (congrArg State.memq hs :))

/-- Settles O10, by where the address lands and what the differentiable check finds there. -/
theorem loadsFromScratchpadAndMemory : Obligations.LoadsFromScratchpadAndMemory := by
  unfold Obligations.LoadsFromScratchpadAndMemory
  constructor
  · intro s s1 a d w sz x hx n len hal hp hh
    have hissue := readS_issue hx
    refine ⟨?_, fun r hr hone => ?_, fun r hr hone => ld_spad_shape hx hal hp hr hone⟩
    · intro hplain u
      have hexec := ld_spad_plain (w := w) hx hal hp hplain hh
      rw [hissue] at hexec
      refine ⟨fun hok => ⟨_, loads_extend _ _ _ (LdSz.bytes_pos sz), runs_of_ok hexec (soundSpad_ok hok)⟩, fun hbad => ?_⟩
      refine raises_of_trap hexec ((soundSpad_trap hbad).trans (congrArg _ ?_))
      exact slotTrap_of_issue ((State.drainMaybe_issue ..).trans hissue) ..
    · have hexec := ld_spad_region (w := w) hx hal hp hr hone hh
      refine ⟨fun hrew hok => ⟨_, loads_extend _ _ _ (LdSz.bytes_pos sz), runs_of_ok hexec ?_⟩,
        fun hrew hcell v s2 hv hf => runs_of_ok hexec ?_⟩
      · dsimp only
        rw [hrew, if_neg Bool.false_ne_true, soundSpad_ok hok]
      · dsimp only
        rw [hrew, if_pos rfl, orHold_of hcell, ldRewindSpad_ok hv hf]
  · intro s s1 a d w land sz x hx hland addr len hal
    have hfree := readS_only hx
    have hissue := readS_issue hx
    have hn := fun t => State.noteAccess_memorySide s1 s1.issue.core t addr.toNat
    refine ⟨fun p ht hdiff => ?_, fun p r q v s2 ht hr hone hrew hq hv => ?_, fun i p ht hdiff => ?_,
      fun fn off ht => ld_reg hx hland hal ht⟩
    · rw [← hissue]
      rcases hdiff with hplain | ⟨hreg, hrew⟩
      · exact ⟨_, ld_hbm_plain hx hland hal ht false (.inl ⟨hplain, rfl⟩),
          hissue ▸ load_sends hfree (hn _) len _ p _ _ rfl _ w⟩
      · exact ⟨_, ld_hbm_plain hx hland hal ht true (.inr ⟨hreg, hrew, rfl⟩),
          hissue ▸ load_sends hfree (hn _) len _ p _ _ rfl _ w⟩
    · have hpre : s1.pre = s.pre := readS_pre hx
      refine ⟨_, ld_hbm_rewind hx hland hal ht hr hone hrew (by rw [hissue, hpre]; exact hq) hv, ?_⟩
      have hfree2 : OnlyFree s s2 := OnlyFree.trans hfree (readS_only hv)
      dsimp only
      by_cases hw : w = 0
      · rw [if_pos hw, if_pos hw]
        exact ⟨hfree2.memory.trans (State.result_memory _ _ _ _), rfl⟩
      · rw [if_neg hw, if_neg hw]
        exact (accum_sends hfree2 _ _ _ _ _).symm
    · rw [← hissue]
      obtain ⟨⟨op, hq, hk, ha, hc, hr, hP⟩, hm⟩ := load_sends hfree (hn (.window i p)) len (LdSz.signed sz) p addr
        { write := false, win := some i } rfl land.toNat w
      exact ⟨_, ld_window hx hland hal ht hdiff, ⟨op, hq, hk, ha, hissue ▸ hc, hr, hP.2.2⟩, hm⟩

end Sys2Proof.Machine
end

section
/-! Stores (R193, R241, R243, R353): bytes written, the accesses that are sent, and elements restored in REWIND. -/

namespace Sys2Proof.Machine

/-! ### Bytes written (R2) -/

theorem natToBytes_getD : ∀ (n v : Nat) {i : Nat}, i < n → (natToBytes n v).getD i 0 = BitVec.ofNat 8 (v / 256 ^ i)
  | n + 1, v, 0, _ => by simp [natToBytes]
  | n + 1, v, i + 1, h => by
    have ih := natToBytes_getD n (v / 256) (i := i) (by omega)
    rw [natToBytes, List.getD_cons_succ, ih, Nat.div_div_eq_div_mul, Nat.pow_succ']

/-- The low bytes of a word laid at an address. -/
theorem stored_writeBytes (m : Mem) (a n : Nat) (v : Word) : Stored m (m.writeBytes a (natToBytes n v.toNat)) a n v := by
  intro k
  rw [Mem.read_writeBytes, natToBytes_length]
  by_cases h : a ≤ k ∧ k < a + n
  · rw [if_pos h, if_pos h, natToBytes_getD _ _ (by omega)]
    apply BitVec.eq_of_toNat_eq
    rw [BitVec.extractLsb'_toNat, BitVec.toNat_ofNat, Nat.shiftRight_eq_div_pow, Nat.pow_mul]
  · rw [if_neg h, if_neg h]

/-! ### Bytes written as a tag does (R90) -/

/-- A byte of a line after a write that falls into it. -/
theorem L2Line.write_getD (e : L2Line) (a : Nat) (bs : List Byte) {j : Nat} (hj : j < 64) :
    (e.write a bs).data.getD j 0 =
      if a ≤ 64 * e.line + j ∧ 64 * e.line + j < a + bs.length then bs.getD (64 * e.line + j - a) 0 else e.data.getD j 0 := by
  simp [L2Line.write, List.getD, hj]

/-- The lines that a tag's write leaves L2 with. -/
def State.poked (s : State) (tag a : Nat) (bs : List Byte) (e : L2Line) : L2Line :=
  if e.meets tag a bs.length then e.write a bs else e

theorem State.poke_l2 (s : State) (tag a : Nat) (bs : List Byte) : (s.poke tag a bs).l2 = s.l2.map (s.poked tag a bs) := by
  unfold State.poke
  split
  case isTrue => rfl
  case isFalse h =>
    have hno : ∀ e ∈ s.l2, e.meets tag a bs.length = false := by
      simpa only [List.any_eq_true, not_exists, not_and, Bool.not_eq_true] using h
    calc s.l2
      _ = s.l2.map id := s.l2.map_id.symm
      _ = s.l2.map (s.poked tag a bs) := List.map_congr_left fun e he => by simp [State.poked, hno e he]

theorem State.poked_key (s : State) (tag a : Nat) (bs : List Byte) (e : L2Line) :
    (s.poked tag a bs e).tag = e.tag ∧ (s.poked tag a bs e).win = e.win ∧ (s.poked tag a bs e).line = e.line := by
  unfold State.poked
  split <;> exact ⟨rfl, rfl, rfl⟩

/-- L2 holds the same lines after a tag's write. -/
theorem State.l2At_poke (s : State) (tag a : Nat) (bs : List Byte) (g l : Nat) :
    (s.poke tag a bs).l2At g l = (s.l2At g l).map (s.poked tag a bs) := by
  unfold State.l2At
  rw [State.poke_l2, List.find?_map]
  congr 2
  funext e
  obtain ⟨htag, hwin, hline⟩ := s.poked_key tag a bs e
  rw [Function.comp_apply, htag, hwin, hline]

theorem State.l2At_key {s : State} {g l : Nat} {e : L2Line} (h : s.l2At g l = some e) :
    e.tag = g ∧ e.win = none ∧ e.line = l ∧ e ∈ s.l2 := by
  have hp := List.find?_some h
  have hm := List.mem_of_find?_eq_some h
  simp only [Bool.and_eq_true, decide_eq_true_eq] at hp
  exact ⟨hp.1.1, hp.1.2, hp.2, hm⟩

/-- The channel's bytes after a tag's write: those of lines that L2 holds under it stay. -/
theorem State.read_poke (s : State) (tag a : Nat) (bs : List Byte) (x : Nat) :
    (s.poke tag a bs).mem.read x =
      if (a ≤ x ∧ x < a + bs.length) ∧ s.l2At tag (x / 64) = none then bs.getD (x - a) 0 else s.mem.read x := by
  unfold State.poke
  split
  case isTrue =>
    rw [Mem.read_writeBytes]
    have hlen : (s.missedBytes tag a bs).length = bs.length := by simp [State.missedBytes]
    rw [hlen]
    by_cases h : a ≤ x ∧ x < a + bs.length
    · have hax : a + (x - a) = x := by omega
      have hlt : x - a < bs.length := by omega
      rw [if_pos h]
      cases hl : s.l2At tag (x / 64) <;> simp [State.missedBytes, List.getD, hlt, hax, h, hl]
    · rw [if_neg h, if_neg fun h' => h h'.1]
  case isFalse hno =>
    rw [Mem.read_writeBytes]
    by_cases h : a ≤ x ∧ x < a + bs.length
    · have hnone : s.l2At tag (x / 64) = none := by
        by_contra hsome
        obtain ⟨e, he⟩ := Option.ne_none_iff_exists'.1 hsome
        obtain ⟨htag, hwin, hline, hmem⟩ := State.l2At_key he
        refine hno (List.any_eq_true.2 ⟨e, hmem, ?_⟩)
        simp only [L2Line.meets, htag, hwin, hline, decide_true, Bool.true_and, Bool.and_eq_true, decide_eq_true_eq]
        omega
      rw [if_pos h, if_pos ⟨h, hnone⟩]
    · rw [if_neg h, if_neg fun h' => h h'.1]

/-- What a tag sees of a byte after a tag's write. -/
theorem State.peekByte_poke (s : State) (tag a : Nat) (bs : List Byte) (g x : Nat) (hg : g = tag ∨ x < a ∨ a + bs.length ≤ x) :
    (s.poke tag a bs).peekByte g x = if a ≤ x ∧ x < a + bs.length then bs.getD (x - a) 0 else s.peekByte g x := by
  unfold State.peekByte
  rw [State.l2At_poke]
  cases hl : s.l2At g (x / 64) with
  | none =>
    rw [Option.map_none]
    dsimp only
    rw [State.read_poke]
    by_cases h : a ≤ x ∧ x < a + bs.length
    · have hgt : g = tag := by omega
      rw [if_pos h, if_pos ⟨h, hgt ▸ hl⟩]
    · rw [if_neg h, if_neg fun h' => h h'.1]
  | some e =>
    obtain ⟨htag, hwin, hline, hmem⟩ := State.l2At_key hl
    have hx : 64 * e.line + x % 64 = x := by omega
    rw [Option.map_some]
    dsimp only
    unfold State.poked
    by_cases hmeet : e.meets tag a bs.length = true
    · rw [if_pos hmeet, L2Line.write_getD _ _ _ (Nat.mod_lt _ (by decide)), hx]
    · rw [if_neg hmeet, if_neg]
      intro h
      have hgt : g = tag := by omega
      refine hmeet ?_
      simp only [L2Line.meets, htag, hwin, hgt, decide_true, Bool.true_and, Bool.and_eq_true, decide_eq_true_eq]
      omega

/-- Bytes as a tag sees them, one by one. -/
theorem State.peek_eq (s : State) (tag a n : Nat) : s.peek tag a n = (List.range n).map fun i => s.peekByte tag (a + i) := by
  unfold State.peek
  split
  case isFalse => rfl
  case isTrue h =>
    have hl2 : s.l2 = [] := List.isEmpty_iff.1 h
    have hbyte : ∀ x, s.peekByte tag x = s.mem.read x := fun x => by simp [State.peekByte, State.l2At, hl2]
    simp only [hbyte]
    clear h hl2 hbyte
    induction n generalizing a with
    | zero => rfl
    | succ n ih =>
      rw [Mem.readBytes, ih, List.range_succ_eq_map, List.map_cons, List.map_map, Nat.add_zero]
      congr 2
      funext i
      simp only [Function.comp_apply, Nat.succ_eq_add_one]
      congr 1
      omega

/-- A tag that writes bytes sees them, and nothing else differs (R90, R166). -/
theorem State.put_storedFor (s : State) (tag a : Nat) (bs : List Byte) (side : Bool) :
    StoredFor s (s.put tag a bs side) tag a side bs := by
  cases side with
  | true =>
    refine ⟨Mem.readBytes_writeBytes a bs, fun x hx => ?_⟩
    have hread : (s.mem.writeBytes a bs).read x = s.mem.read x := by rw [Mem.read_writeBytes, if_neg (by omega)]
    refine ⟨hread, fun g => ?_⟩
    change (match s.l2At g (x / 64) with | some e => e.data.getD (x % 64) 0 | none => (s.mem.writeBytes a bs).read x) =
      match s.l2At g (x / 64) with | some e => e.data.getD (x % 64) 0 | none => s.mem.read x
    rw [hread]
  | false =>
    refine ⟨?_, fun x hx => ⟨?_, fun g => ?_⟩⟩
    · change (s.poke tag a bs).peek tag a bs.length = bs
      rw [State.peek_eq]
      apply List.ext_getElem (by simp)
      intro i hi _
      have hlt : i < bs.length := by simpa using hi
      rw [List.getElem_map, List.getElem_range, State.peekByte_poke _ _ _ _ _ _ (.inl rfl), if_pos (by omega),
        Nat.add_sub_cancel_left]
      simp [List.getD, hlt]
    · exact (s.read_poke tag a bs x).trans (if_neg (by omega))
    · exact (s.peekByte_poke tag a bs g x (.inr hx)).trans (if_neg (by omega))

theorem StoredFor.of_eq {s t t' : State} {tag a : Nat} {side : Bool} {bs : List Byte} (h : StoredFor s t tag a side bs)
    (hm : t'.mem = t.mem) (hl : t'.l2 = t.l2) : StoredFor s t' tag a side bs := by
  unfold StoredFor State.look State.peek State.peekByte State.l2At at *
  rw [hm, hl]
  exact h

/-! ### Accesses sent (R193, R201) -/

/-- What sending accesses of cores may change: the queue, the numbers given and the write clocks of cores. -/
def OnlySent (s t : State) : Prop :=
  ({ t with memq := s.memq, nextId := s.nextId, dieNum := s.dieNum, cores := s.cores } : State) = s ∧
  ∀ d, ({ t.coreAt d with wc := (s.coreAt d).wc } : Core) = s.coreAt d

theorem OnlySent.refl (s : State) : OnlySent s s := ⟨rfl, fun _ => rfl⟩

theorem OnlySent.trans {s t u : State} (h : OnlySent s t) (h' : OnlySent t u) : OnlySent s u := by
  obtain ⟨hs, hc⟩ := h
  obtain ⟨hs', hc'⟩ := h'
  refine ⟨?_, fun d => ?_⟩
  · have h2 := congrArg (fun v : State => { v with
      memq := s.memq, nextId := s.nextId, dieNum := s.dieNum, cores := s.cores }) hs'
    exact h2.trans hs
  · have h2 := congrArg (fun k : Core => { k with wc := (s.coreAt d).wc }) (hc' d)
    exact h2.trans (hc d)

section
variable {s t : State} (h : OnlySent s t)
include h
theorem OnlySent.issue : t.issue = s.issue := (congrArg State.issue h.1 :)
theorem OnlySent.mem : t.mem = s.mem := (congrArg State.mem h.1 :)
theorem OnlySent.l2 : t.l2 = s.l2 := (congrArg State.l2 h.1 :)
theorem OnlySent.power : t.power = s.power := (congrArg State.power h.1 :)
theorem OnlySent.memory : SameMemory s t := SameMemory.of_eq h.mem h.l2
theorem OnlySent.coreAt_keeps {α : Type} (g : Core → α) (hg : ∀ (k : Core) w, g { k with wc := w } = g k) (d : Fin 256) :
    g (t.coreAt d) = g (s.coreAt d) := (hg (t.coreAt d) _).symm.trans (congrArg g (h.2 d))
theorem OnlySent.cur_keeps {α : Type} (g : Core → α) (hg : ∀ (k : Core) w, g { k with wc := w } = g k) :
    g t.cur = g s.cur := by
  rw [State.cur, State.cur, h.issue]
  exact h.coreAt_keeps g hg _
end

theorem State.send_sent (s : State) (c : Fin 256) (kind : MemKind) (p : Phys) (va : Word) (o : OpOpts) :
    OnlySent s (s.send c kind p va o).2 := by
  refine ⟨s.send_only c kind p va o, fun d => ?_⟩
  exact s.send_coreAt_keeps c kind p va o (fun k => ({ k with wc := (s.coreAt d).wc } : Core)) (fun _ _ => rfl) d

theorem State.sendRecord_sent (c : Fin 256) : ∀ (segs : List Seg) (rec : List Byte) (s : State),
    OnlySent s (s.sendRecord c segs rec)
  | [], _, s => OnlySent.refl s
  | g :: rest, rec, s => 
    (s.send_sent c (.store (rec.take g.len)) ⟨g.addr, false, false, g.side.toNat⟩ 0 { write := true, diff := true }).trans
      (State.sendRecord_sent c rest (rec.drop g.len) _)

/-- The accesses of a record: one for each of its segments (R241). -/
theorem State.sendRecord_memq (c : Fin 256) : ∀ (segs : List Seg) (rec : List Byte) (s : State),
    ∃ ops, (s.sendRecord c segs rec).memq = s.memq ++ ops ∧ ops.map (·.dpa) = segs.map (·.addr) ∧ ∀ op ∈ ops, op.diff = true
  | [], _, s => ⟨[], (List.append_nil _).symm, rfl, fun _ h => nomatch h⟩
  | g :: rest, rec, s => by
    let kind : MemKind := .store (rec.take g.len)
    let p : Phys := ⟨g.addr, false, false, g.side.toNat⟩
    let o : OpOpts := { write := true, diff := true }
    obtain ⟨ops, hq, ha, hd⟩ := State.sendRecord_memq c rest (rec.drop g.len) (s.send c kind p 0 o).2
    refine ⟨s.sentOp c kind p 0 o :: ops, ?_, ?_, ?_⟩
    · calc (s.sendRecord c (g :: rest) rec).memq
        _ = (s.send c kind p 0 o).2.memq ++ ops := hq
        _ = _ := by rw [State.send_memq, List.append_assoc]; rfl
    · rw [List.map_cons, List.map_cons, ha, State.sentOp_dpa]
    · exact List.forall_mem_cons.2 ⟨State.sentOp_diff s c kind p 0 o, hd⟩

/-! ### What the state shows after a result -/

section
variable (s : State) (v : Word) (lat : Nat) (w : WReg)
theorem State.cur_result_keeps {α : Type} (g : Core → α) (hg : ∀ (k : Core) u b h n,
    g { k with bankU := u, bankS := b, bankH := h, seq := n } = g k) : g (s.result v lat w).cur = g s.cur := by
  rw [State.cur_result, ← hg _ s.cur.bankU s.cur.bankS s.cur.bankH s.cur.seq, Core.result_only]
theorem State.result_take {l : Level} (hl : s.cur.level = l) :
    ((s.result v lat w).cur.bank l).takes.head?.map (·.val) = some v := by
  rw [State.cur_result, ← hl, Core.bank_result]
  rfl
end

/-! ### ST to the scratchpad -/

theorem soundPart_ok {α : Type} {s : State} {off len : Nat} {k : SlotRes α} (h : s.cur.failedPart off len = none) :
    soundPart s off len k = k := by
  rw [soundPart, h]

theorem soundPart_trap {α : Type} {s : State} {off len : Nat} {k : SlotRes α} (h : s.cur.failedPart off len ≠ none) :
    soundPart s off len k = .trap (slotTrap s .uncorrectable (spadInfo off)) := by
  obtain ⟨x, hx⟩ := Option.ne_none_iff_exists'.1 h
  rw [soundPart, hx]
  rfl

section
variable {s s1 s2 : State} {a b : SSpec} {d : Disp} {w : WReg} {na : Bool} {sz : StSz} {x y : Word}
  (hx : readS s a 0 = .ok x s1) (hy : readS s1 b 1 = .ok y s2) (hal : (x + dispWord d).toNat % StSz.bytes sz = 0)
include hx hy hal

section
variable (hp : badPolder s.pre.hdr (x + dispWord d).toNat (StSz.bytes sz) = none)
  (hb : touchesBarrier s.pre.hdr (x + dispWord d).toNat (StSz.bytes sz) = false)
  (hh : spadHold s2 (x + dispWord d).toNat (StSz.bytes sz) = none)
include hp hb hh

theorem st_spad_plain (hplain : diffSpad s.pre (x + dispWord d).toNat (StSz.bytes sz) = .plain) :
    exec (.st a d b w na true sz) s = finish s (
      let n := (x + dispWord d).toNat
      let u := s2.upd (·.drainFor n (StSz.bytes sz))
      soundPart u n (StSz.bytes sz)
        (.ok () ((u.upd fun k => k.spadWrite n (natToBytes (StSz.bytes sz) y.toNat)).result 0 1 w))) := by
  have hpre : s2.pre = s.pre := (readS_pre hy).trans (readS_pre hx)
  change finish s ((readS s a 0).bind _) = _
  rw [hx, SlotRes.bind_ok, hy, SlotRes.bind_ok]
  dsimp only
  rw [reach_spad hal (hpre ▸ hp)]
  simp only [diffOf_spad, hpre, hplain, hb, hh, orHold_none, Bool.not_false, need_true]

theorem st_spad_region {r : DiffRegion} (hr : diffSpad s.pre (x + dispWord d).toNat (StSz.bytes sz) = .region r)
    (hone : oneElement r (x + dispWord d).toNat (StSz.bytes sz) = true) :
    exec (.st a d b w na true sz) s = finish s (
      let n := (x + dispWord d).toNat
      if s.pre.rewinding then orHold (spadHold s2 (r.cell n) 4)
        (stRewind s2 r (.spad n) (x + dispWord d) (StSz.bytes sz) na w)
      else stTaped s2 (.spad n) (x + dispWord d) (natToBytes (StSz.bytes sz) y.toNat) na w) := by
  have hpre : s2.pre = s.pre := (readS_pre hy).trans (readS_pre hx)
  change finish s ((readS s a 0).bind _) = _
  rw [hx, SlotRes.bind_ok, hy, SlotRes.bind_ok]
  dsimp only
  rw [reach_spad hal (hpre ▸ hp)]
  simp only [diffOf_spad, hpre, hr, hone, hb, hh, orHold_none, Bool.not_false, need_true, if_true]

end

end

/-- What a store to an element of the scratchpad leaves: its record under way, the bytes laid down (R241). -/
theorem stTaped_spad {s : State} {n : Nat} {addr : Word} {bs : List Byte} {na : Bool} {w : WReg} {segs : List Seg}
    (h : reserveReel s s.issue.core (recordSize bs.length) = .ok segs) :
    ∃ t, stTaped s (.spad n) addr bs na w = .ok () t ∧ t.cur.spad = s.cur.spad.writeBytes n bs ∧ SameMemory s t ∧
      t.cur.reelPtr = (s.cur.setReelPtr (reelPtr s.cur + recordSize bs.length)).reelPtr ∧
      ∃ ops, t.memq = s.memq ++ ops ∧ ops.map (·.dpa) = segs.map (·.addr) ∧ ∀ op ∈ ops, op.diff = true := by
  rw [stTaped, h]
  dsimp only
  generalize hm : (s.upd fun k => k.setReelPtr (reelPtr k + recordSize bs.length)) = m
  generalize reelRecord (spadInfo n) bs.length recSt (m.cur.spad.readBytes n bs.length) (m.cur.failedLine n bs.length).isSome
    = rec
  have hsent : OnlySent m (m.sendRecord s.issue.core segs rec) := State.sendRecord_sent _ _ _ _
  have hmcur : m.cur = s.cur.setReelPtr (reelPtr s.cur + recordSize bs.length) := by rw [← hm, State.cur_upd]
  refine ⟨_, rfl, ?_, ?_, ?_, ?_⟩
  · rw [State.cur_result_keeps _ _ _ _ Core.spad (fun _ _ _ _ _ => rfl), State.cur_upd]
    change (m.sendRecord s.issue.core segs rec).cur.spad.writeBytes n bs = _
    rw [hsent.cur_keeps Core.spad (fun _ _ => rfl), hmcur]
    rfl
  · refine SameMemory.trans (t := m) (SameMemory.of_eq ?_ ?_) (SameMemory.trans hsent.memory (SameMemory.of_eq rfl rfl))
    · rw [← hm]; rfl
    · rw [← hm]; rfl
  · rw [State.cur_result_keeps _ _ _ _ Core.reelPtr (fun _ _ _ _ _ => rfl), State.cur_upd]
    change (m.sendRecord s.issue.core segs rec).cur.reelPtr = _
    rw [hsent.cur_keeps Core.reelPtr (fun _ _ => rfl), hmcur]
  · have hmemq : m.memq = s.memq := by rw [← hm]; rfl
    rw [← hmemq]
    exact State.sendRecord_memq _ _ _ _

theorem stRewind_spad {s : State} {r : DiffRegion} {n len start : Nat} {addr : Word} {old : List Byte} {na : Bool} {w : WReg}
    (hpend : pendDiff s s.issue.core = false)
    (hrec : popRecord s s.cur (reelXlate s s.issue.core) (reelPtr s.cur) (spadInfo n) len recSt = .ok (old, start))
    (hcell : s.cur.failedLine (r.cell n) 4 = none) (hpart : s.cur.failedPart n len = none) :
    ∃ t, stRewind s r (.spad n) addr len na w = .ok () t ∧
      t.cur.spad = (readClear s.cur.spad r (r.cell n)).2.writeBytes n old ∧
      t.cur.reelPtr = (s.cur.setReelPtr start).reelPtr ∧ SameMemory s t ∧
      (t.cur.bank s.cur.level).takes.head?.map (·.val) =
        some (BitVec.ofNat 64 (readClear s.cur.spad r (r.cell n)).1) := by
  rw [stRewind]
  simp only [hpend, Bool.false_eq_true, if_false, hrec]
  rw [soundSpad_ok hcell, soundPart_ok hpart]
  refine ⟨_, rfl, ?_, ?_, SameMemory.of_eq rfl rfl, ?_⟩
  · rw [State.cur_result_keeps _ _ _ _ Core.spad (fun _ _ _ _ _ => rfl), State.cur_upd]
    rfl
  · rw [State.cur_result_keeps _ _ _ _ Core.reelPtr (fun _ _ _ _ _ => rfl), State.cur_upd]
    rfl
  · exact State.result_take _ _ 4 w (by rw [State.cur_upd]; rfl)

theorem readsTwo_only {s s1 s2 : State} {a b : SSpec} {x y : Word} {m n : Nat} (hx : readS s a m = .ok x s1)
    (hy : readS s1 b n = .ok y s2) : OnlyFree s s2 := OnlyFree.trans (readS_only hx) (readS_only hy)

theorem readsTwo_issue {s s1 s2 : State} {a b : SSpec} {x y : Word} {m n : Nat} (hx : readS s a m = .ok x s1)
    (hy : readS s1 b n = .ok y s2) : s2.issue = s.issue := (readS_issue hy).trans (readS_issue hx)

/-- Settles O11, by what the differentiable check finds at the offset. -/
theorem scratchpadStores : Obligations.ScratchpadStores := by
  unfold Obligations.ScratchpadStores
  intro s s1 s2 a b d w na sz x y hx hy n len bs z hal hp hb hh
  have hfree := readsTwo_only hx hy
  have hissue := readsTwo_issue hx hy
  have hcur : s2.cur = s.cur := hfree.cur
  have hlen : bs.length = len := natToBytes_length _ _
  refine ⟨?_, fun r segs hr hone hrew hres => ?_, fun r old start hr hone hrew hcell hpend hf hpart hrec => ?_⟩
  · intro hplain u t
    have hexec := st_spad_plain (w := w) (na := na) hx hy hal hp hb hh hplain
    refine ⟨fun hok => ⟨runs_of_ok hexec (soundPart_ok hok), ?_, ?_⟩, fun hbad => ?_⟩
    · have ht : t.cur.spad = (s.cur.drainFor n len).spad.writeBytes n bs := by
        rw [State.cur_result_keeps _ _ _ _ Core.spad (fun _ _ _ _ _ => rfl), State.cur_upd, State.cur_upd, hcur]
        rfl
      rw [ht]
      exact stored_writeBytes _ _ _ _
    · exact SameMemory.trans hfree.memory (SameMemory.of_eq rfl rfl)
    · refine raises_of_trap hexec ((soundPart_trap hbad).trans (congrArg _ ?_))
      exact slotTrap_of_issue hissue ..
  · have hexec := st_spad_region (w := w) (na := na) hx hy hal hp hb hh hr hone
    obtain ⟨t, htaped, hspad, hmem, hreel, hops⟩ := stTaped_spad (s := s2) (n := n) (addr := x + dispWord d) (bs := bs)
      (na := na) (w := w) (segs := segs) (by rw [hlen, hissue]; exact hres)
    refine ⟨t, runs_of_ok hexec ?_, ?_, SameMemory.trans hfree.memory hmem, ?_, ?_⟩
    · dsimp only
      rw [hrew, if_neg Bool.false_ne_true, htaped]
    · rw [hspad, hcur]
      exact stored_writeBytes _ _ _ _
    · rw [hreel, hcur, hlen]
    · rw [← show s2.memq = s.memq from (congrArg State.memq hfree :)]
      exact hops
  · have hexec := st_spad_region (w := w) (na := na) hx hy hal hp hb hh hr hone
    obtain ⟨t, hrew', hspad, hreel, hmem, htake⟩ := stRewind_spad (addr := x + dispWord d) (na := na) (w := w)
      (hissue.symm ▸ hpend) (by rw [hissue, hcur]; exact hcur ▸ hrec) hf hpart
    refine ⟨t, runs_of_ok hexec ?_, ?_, ?_, SameMemory.trans hfree.memory hmem, ?_⟩
    · dsimp only
      rw [hrew, if_pos rfl, orHold_of hcell, hrew']
    · rw [hspad, hcur]
    · rw [hreel, hcur]
    · rw [← hcur]
      exact htake

end Sys2Proof.Machine
end

section
/-! Stores to memory (R193, R241, R243, R353): the write that is sent, its record, and the element restored in REWIND. -/

namespace Sys2Proof.Machine

/-! ### Combining entries and adjoint cells at their homes (R171, R235) -/

theorem State.applyEntry_memorySide (s : State) (e : CombEntry) : OnlyMemorySide s (s.applyEntry e) := by
  unfold State.applyEntry
  dsimp only
  split
  next op _ =>
    have hwrite : OnlyMemorySide s { s with
      mem := s.mem.writeBytes e.key.dpa (natToBytes (atomWidth e.key.w32)
        (amoNew op (8 * atomWidth e.key.w32) (s.mem.readLE e.key.dpa (atomWidth e.key.w32)) e.val.toNat)) } :=
      ⟨rfl, fun _ => rfl⟩
    exact hwrite.trans (State.channelAccess_memorySide _ _ _ _)
  next => exact OnlyMemorySide.refl s

theorem State.applyCombined_memorySide (s : State) (ch : Fin 256) (p : CombEntry → Bool) :
    OnlyMemorySide s (s.applyCombined ch p) := by
  have hcomb : OnlyMemorySide s { s with comb := s.comb.set ch ((s.comb[ch]).filter fun e => !p e) } := ⟨rfl, fun _ => rfl⟩
  exact hcomb.trans (OnlyMemorySide.foldl _ State.applyEntry_memorySide _ _)

theorem State.applyLine_memorySide (s : State) (dpa : Nat) : OnlyMemorySide s (s.applyLine dpa) :=
  s.applyCombined_memorySide _ _

theorem State.applyCore_memorySide (s : State) (c : Fin 256) : OnlyMemorySide s (s.applyCore c) :=
  OnlyMemorySide.foldl _ (fun s _ => OnlyMemorySide.ite (OnlyMemorySide.refl s) (s.applyCombined_memorySide _ _)) _ _

theorem State.clearCell_memorySide (s : State) (q : Req) (r : DiffRegion) (p : Phys) : OnlyMemorySide s (s.clearCell q r p).2 :=
  ((s.applyLine_memorySide _).trans (State.access_memorySide _ _ _ _ _)).trans (State.put_memorySide _ _ _ _ _)

/-! ### Stores sent -/

/-- A store that is sent: the write goes to its home behind what was under way, and memory stays. -/
theorem store_sends {s n : State} (hq : n.memq = s.memq) (hi : n.issue = s.issue) (hnum : n.dieNum = s.dieNum)
    (hwc : n.cur.wc = s.cur.wc) (bs : List Byte) (p : Phys) (va : Word) (o : OpOpts) (ho : o.write = true) (w : WReg) :
    let t := (n.send s.issue.core (.store bs) p va o).2.result 0 1 w
    Sends s t (.store bs) p.addr (fun op => op.num = s.dieNum[dieOf s.issue.core] + 1 ∧ op.clk = s.cur.wc ∧ op.win = o.win ∧
      op.tape = o.tape ∧ op.na = o.na ∧ op.diff = o.diff) ∧ SameMemory n t ∧ t.cur.reelPtr = n.cur.reelPtr := by
  intro t
  have hmemq : t.memq = s.memq ++ [n.sentOp s.issue.core (.store bs) p va o] := by
    rw [← hq]
    exact n.send_memq _ _ _ _ _
  refine ⟨⟨_, hmemq, State.sentOp_kind .., State.sentOp_dpa .., State.sentOp_core .., State.sentOp_result .., ?_, ?_,
    State.sentOp_win .., State.sentOp_tape .., State.sentOp_na .., State.sentOp_diff ..⟩, ?_, ?_⟩
  · rw [State.sentOp_num, ho, if_pos rfl, hnum]
  · rw [State.sentOp_clk_store, ho, if_pos rfl, ← hi]
    exact hwc.trans rfl
  · exact (n.send_memory _ _ _ _ _).trans (State.result_memory _ _ _ _)
  · rw [State.cur_result_keeps _ _ _ _ Core.reelPtr (fun _ _ _ _ _ => rfl)]
    exact (n.send_sent _ _ _ _ _).cur_keeps Core.reelPtr fun _ _ => rfl

section
variable {s s1 s2 : State} {a b : SSpec} {d : Disp} {w : WReg} {na : Bool} {sz : StSz} {x y : Word}
  (hx : readS s a 0 = .ok x s1) (hy : readS s1 b 1 = .ok y s2) (hal : (x + dispWord d).toNat % StSz.bytes sz = 0)
include hx hy hal

theorem st_hbm_plain {p : Phys} (ht : memTarget s2 .write (x + dispWord d) (StSz.bytes sz) = .ok (.hbm p))
    (hplain : diffHbm s.pre p.diff (x + dispWord d).toNat (StSz.bytes sz) = .plain) :
    Runs (.st a d b w na false sz) s (((s2.noteAccess s2.issue.core (.hbm p) (x + dispWord d).toNat).send s2.issue.core
      (.store (natToBytes (StSz.bytes sz) y.toNat)) p (x + dispWord d) { write := true, na := na }).2.result 0 1 w) := by
  have hpre : s2.pre = s.pre := (readS_pre hy).trans (readS_pre hx)
  have hissue := fun t => (State.noteAccess_memorySide s2 s2.issue.core t (x + dispWord d).toNat).issue
  refine runs_of_ok rfl ?_
  rw [hx, SlotRes.bind_ok, hy, SlotRes.bind_ok]
  dsimp only
  rw [reach_mem hal ht]
  simp only [diffOf_hbm, hpre, hplain]

theorem st_window {p : Phys} {i : Nat} (ht : memTarget s2 .write (x + dispWord d) (StSz.bytes sz) = .ok (.window i p))
    (hdiff : (diffLevel s.pre && (regionAt s.pre.hdr true (x + dispWord d).toNat (StSz.bytes sz)).isSome) = false) :
    Runs (.st a d b w na false sz) s (((s2.noteAccess s2.issue.core (.window i p) (x + dispWord d).toNat).send s2.issue.core
      (.store (natToBytes (StSz.bytes sz) y.toNat)) p (x + dispWord d)
      { write := true, win := some i, na := na }).2.result 0 1 w) := by
  have hpre : s2.pre = s.pre := (readS_pre hy).trans (readS_pre hx)
  refine runs_of_ok rfl ?_
  rw [hx, SlotRes.bind_ok, hy, SlotRes.bind_ok]
  dsimp only
  rw [reach_mem hal ht]
  simp only [diffOf, hpre, hdiff, Bool.false_eq_true, if_false]

theorem st_reg {fn : Fin 17} {off : Nat} (ht : memTarget s2 .write (x + dispWord d) (StSz.bytes sz) = .ok (.reg fn.val off)) :
    Runs (.st a d b w na false sz) s ((s2.post (.registerWrite fn off y) Input.reset).result 0 1 w) := by
  refine runs_of_ok rfl ?_
  rw [hx, SlotRes.bind_ok, hy, SlotRes.bind_ok]
  dsimp only
  rw [reach_mem hal ht]
  simp only [diffOf, fn.isLt, dif_pos]

theorem st_hbm_region {p : Phys} {r : DiffRegion}
    (ht : memTarget s2 .write (x + dispWord d) (StSz.bytes sz) = .ok (.hbm p))
    (hr : diffHbm s.pre p.diff (x + dispWord d).toNat (StSz.bytes sz) = .region r)
    (hone : oneElement r (x + dispWord d).toNat (StSz.bytes sz) = true) :
    exec (.st a d b w na false sz) s = finish s (
      if s.pre.rewinding then stRewind s2 r (.hbm p) (x + dispWord d) (StSz.bytes sz) na w
      else stTaped s2 (.hbm p) (x + dispWord d) (natToBytes (StSz.bytes sz) y.toNat) na w) := by
  have hpre : s2.pre = s.pre := (readS_pre hy).trans (readS_pre hx)
  change finish s ((readS s a 0).bind _) = _
  rw [hx, SlotRes.bind_ok, hy, SlotRes.bind_ok]
  dsimp only
  rw [reach_mem hal ht]
  simp only [diffOf_hbm, hpre, hr, hone, if_true]

end

theorem stTaped_hbm {s : State} {p : Phys} {addr : Word} {bs : List Byte} {na : Bool} {w : WReg} {segs : List Seg}
    (h : reserveReel s s.issue.core (recordSize bs.length) = .ok segs) :
    stTaped s (.hbm p) addr bs na w = .ok () ((((s.upd fun k => k.setReelPtr (reelPtr k + recordSize bs.length)).noteAccess
      s.issue.core (.hbm p) addr.toNat).send s.issue.core (.store bs) p addr
        { write := true, diff := true, tape := some ⟨addr, recSt, segs⟩, na := na }).2.result 0 1 w) := by
  rw [stTaped, h]

/-- Who restores an element: the core, for its context. -/
def storeReq (s : State) (na : Bool) : Req := ⟨s.pre.tag, s.pre.part, some (s.pre.launch, s.issue.core), if na then .no else .any⟩

theorem stRewind_hbm {s : State} {r : DiffRegion} {p q : Phys} {addr : Word} {len start : Nat} {old : List Byte} {na : Bool}
    {w : WReg} (hq : cellPhys s s.issue.core s.pre.part s.pre.level (r.cell addr.toNat) = .ok q)
    (hquiet : diffQuiet s s.issue.core (homeDie s s.pre.tag p.addr p.mtype) = true)
    (hcell : reqWaits s (storeReq s na) q.addr (q.mtype ≠ 0) .atomic = false)
    (helem : reqWaits s (storeReq s na) p.addr (p.mtype ≠ 0) .part = false)
    (hrec : popRecord s s.cur (reelXlate s s.issue.core) (reelPtr s.cur) addr len recSt = .ok (old, start))
    (hsc : sideFault s s.pre.tag q.addr (q.mtype ≠ 0) = none) (hse : sideFault s s.pre.tag p.addr (p.mtype ≠ 0) = none) :
    stRewind s r (.hbm p) addr len na w =
      let v := s.clearCell { storeReq s na with alloc := .any } r q
      let u := (v.2.applyLine p.addr).access (storeReq s na) p.addr (p.mtype ≠ 0) .part
      .ok () (((u.put s.pre.tag p.addr old (p.mtype ≠ 0)).upd fun k => k.setReelPtr start).result (BitVec.ofNat 64 v.1) 4 w) := by
  unfold storeReq at *
  rw [stRewind, hq]
  simp only [hquiet, hcell, helem, hrec, hsc, hse, Bool.not_true, Bool.or_false, Bool.false_eq_true, if_false]

/-- Settles O12, by what the address reaches. -/
theorem memoryStores : Obligations.MemoryStores := by
  unfold Obligations.MemoryStores
  intro s s1 s2 a b d w na sz x y hx hy addr len bs c hal
  have hfree := readsTwo_only hx hy
  have hissue := readsTwo_issue hx hy
  have hpre : s2.pre = s.pre := (readS_pre hy).trans (readS_pre hx)
  have hcur : s2.cur = s.cur := hfree.cur
  have hlen : bs.length = len := natToBytes_length _ _
  have hside := fun t => State.noteAccess_memorySide s2 c t addr.toNat
  have hmemq : s2.memq = s.memq := (congrArg State.memq hfree :)
  have hnum : s2.dieNum = s.dieNum := (congrArg State.dieNum hfree :)
  have hsends := fun (t : Target) (p : Phys) (o : OpOpts) (ho : o.write = true) => store_sends (s := s)
    (n := s2.noteAccess c t addr.toNat) ((hside t).memq.trans hmemq) ((hside t).issue.trans hissue)
    ((hside t).dieNum.trans hnum) (((hside t).cur_keeps Core.wc fun _ _ _ => rfl).trans (congrArg Core.wc hcur)) bs p addr o
    ho w
  refine ⟨fun p ht hplain => ?_, fun p r segs ht hr hone hrew hres => ?_,
    fun p r q old start ht hr hone hrew hq hquiet => ?_, fun i p ht hdiff => ?_, fun fn off ht => st_reg hx hy hal ht⟩
  · obtain ⟨⟨op, hop, hk, ha, hc, hr, hn, hclk, hw, htape, hna, _⟩, hm, _⟩ := hsends (.hbm p) p { write := true, na := na } rfl
    refine ⟨_, st_hbm_plain hx hy hal ht hplain, ?_⟩
    rw [hissue]
    exact ⟨hm, op, hop, hk, ha, hc, hr, hn, hclk, hw, htape, hna⟩
  · have hexec := st_hbm_region (w := w) (na := na) hx hy hal ht hr hone
    rw [hrew, if_neg Bool.false_ne_true, stTaped_hbm (segs := segs) (by rw [natToBytes_length, hissue]; exact hres)] at hexec
    rw [natToBytes_length, hissue] at hexec
    have hn := State.noteAccess_memorySide (s2.upd fun k => k.setReelPtr (reelPtr k + recordSize len)) c (.hbm p) addr.toNat
    have hncur : ∀ {α : Type} (g : Core → α), (∀ (k : Core) x y, g { k with perf := x, walks := y } = g k) →
        g ((s2.upd fun k => k.setReelPtr (reelPtr k + recordSize len)).noteAccess c (.hbm p) addr.toNat).cur =
          g (s.cur.setReelPtr (reelPtr s.cur + recordSize len)) := fun g hg => by
      rw [hn.cur_keeps g hg, State.cur_upd, hcur]
    obtain ⟨⟨op, hop, hk, ha, hc, hr, _, _, _, htape, _, hd⟩, hm, hreel⟩ := store_sends (s := s) (hn.memq.trans hmemq)
      (hn.issue.trans hissue) (hn.dieNum.trans hnum) (hncur Core.wc fun _ _ _ => rfl) bs p addr
      { write := true, diff := true, tape := some ⟨addr, recSt, segs⟩, na := na } rfl w
    exact ⟨_, hexec, hm, ⟨op, hop, hk, ha, hc, hr, htape, hd⟩, hreel.trans (hncur Core.reelPtr fun _ _ _ => rfl)⟩
  · intro by_ hcell helem hrec hsc hse v u
    have hexec := st_hbm_region (w := w) (na := na) hx hy hal ht hr hone
    have hreq : storeReq s2 na = by_ := by rw [storeReq, hpre, hissue]
    rw [hrew, if_pos rfl, stRewind_hbm (by rw [hissue, hpre]; exact hq) (by rw [hissue, hpre]; exact hquiet)
      (by rw [hreq]; exact hcell) (by rw [hreq]; exact helem) (by rw [hissue, hcur]; exact hcur ▸ hrec)
      (by rw [hpre]; exact hsc) (by rw [hpre]; exact hse)] at hexec
    dsimp only at hexec
    rw [hreq, hpre] at hexec
    have hu : OnlyMemorySide s2 u :=
      ((s2.clearCell_memorySide _ r q).trans (State.applyLine_memorySide _ _)).trans (State.access_memorySide _ _ _ _ _)
    have hput := State.put_memorySide u s.pre.tag p.addr old (p.mtype ≠ 0)
    refine ⟨_, hexec, ?_, ?_, ?_⟩
    · exact (State.put_storedFor u s.pre.tag p.addr old (p.mtype ≠ 0)).of_eq rfl rfl
    · rw [State.cur_result_keeps _ _ _ _ Core.reelPtr (fun _ _ _ _ _ => rfl), State.cur_upd]
      rfl
    · refine State.result_take _ _ 4 w ?_
      rw [State.cur_upd, ← hcur, ← (hu.trans hput).cur_keeps Core.level fun _ _ _ => rfl]
      rfl
  · obtain ⟨⟨op, hop, hk, ha, hc, hr, _, _, hw, _⟩, hm, _⟩ := hsends (.window i p) p
      { write := true, win := some i, na := na } rfl
    refine ⟨_, st_window hx hy hal ht hdiff, ?_⟩
    rw [hissue]
    exact ⟨hm, op, hop, hk, ha, hc, hr, hw⟩

end Sys2Proof.Machine
end

section
/-! Spill memory, fences and the message queue (R160-R162, R205, R354, R359-R361). -/

namespace Sys2Proof.Machine

/-- A condition that fails lets a slot raise its cause. -/
theorem need_of_not {α : Type} {s : State} {b : Bool} {c : Cause} {info : Word} {k : SlotRes α} (h : b = false) :
    need s b c info k = .trap (slotTrap s c info) := by rw [h]; rfl

/-! ### Spill memory (R354) -/

theorem soundSpill_ok {α : Type} {s : State} {off len : Nat} {k : SlotRes α} (h : s.pre.failedWord .spill off len = none) :
    soundSpill s off len k = k := by rw [soundSpill, h]

theorem soundSpill_trap {α : Type} {s : State} {off len n : Nat} {k : SlotRes α} (h : s.pre.failedWord .spill off len = some n) :
    soundSpill s off len k = .trap (slotTrap s .uncorrectable (spadInfo n)) := by
  rw [soundSpill, h]
  rfl

/-- Whole words written are sound. -/
theorem Core.failedWord_renewWords (k : Core) (a : CoreArray) (o len : Nat) (ho : o % 4 = 0) (hl : len % 4 = 0) :
    (k.renewWords a o len).failedWord a o len = none := by
  simp only [Core.failedWord, Core.renewWords, Option.map_eq_none_iff, List.find?_eq_none, List.mem_filter]
  rintro e ⟨-, he⟩ h
  simp only [Bool.and_eq_true, decide_eq_true_eq, Bool.not_eq_true', Bool.and_eq_false_iff, decide_eq_false_iff_not] at h he
  obtain ⟨⟨ha, hlt⟩, hle⟩ := h
  simp only [ha, not_true_eq_false, false_or] at he
  omega

/-- A word written reads back. -/
theorem loads_writeBytes_word (m : Mem) (o : Nat) (x : Word) : Loads (m.writeBytes o (natToBytes 8 x.toNat)) o 8 false x := by
  have h := loads_extend (m.writeBytes o (natToBytes 8 x.toNat)) o (len := 8) false (by decide)
  have hv : extend 8 false ((m.writeBytes o (natToBytes 8 x.toNat)).readLE o 8) = x := by
    rw [extend, if_neg Bool.false_ne_true, Mem.readLE_writeBytes]
    apply BitVec.eq_of_toNat_eq
    rw [BitVec.toNat_ofNat, Nat.mod_mod_of_dvd _ (by decide), Nat.mod_eq_of_lt x.isLt]
  rwa [hv] at h

section
variable {s s1 : State} {a : SSpec} {x : Word} (hx : readS s a 0 = .ok x s1)
include hx

theorem spl_runs {off : BitVec 11} (ho : 8 * off.toNat + 8 ≤ s.pre.spillLimit) :
    Runs (.spl a off) s (s1.upd fun k => ({ k.renewWords .spill (8 * off.toNat) 8 with
      spill := k.spill.writeBytes (8 * off.toNat) (natToBytes 8 x.toNat) } : Core)) := by
  refine runs_of_ok rfl ?_
  rw [hx, SlotRes.bind_ok]
  dsimp only
  rw [readS_pre hx, need_of (decide_eq_true ho)]

theorem spl_range {off : BitVec 11} (ho : s.pre.spillLimit < 8 * off.toNat + 8) :
    Raises (.spl a off) s (slotTrap s1 .spillRange 0) := by
  refine raises_of_trap rfl ?_
  rw [hx, SlotRes.bind_ok]
  dsimp only
  rw [readS_pre hx, need_of_not (decide_eq_false (by omega))]

end

/-! ### Fences (R205, R359) -/

theorem accumsDone_iff (s : State) (c : Fin 256) :
    accumsDone s c = true ↔ ∀ o ∈ s.memq, o.core = c → ∀ a32 anchor v, o.kind ≠ .accum a32 anchor v := by
  unfold accumsDone
  simp only [Bool.not_eq_true', List.any_eq_false, Bool.and_eq_true, decide_eq_true_eq, not_and]
  refine forall₂_congr fun o _ => imp_congr_right fun _ => ?_
  cases o.kind <;> simp

theorem fenceMet_iff (s : State) (c : Fin 256) (kind : BitVec 2) (scope : BitVec 4) :
    fenceMet s c kind.toNat scope.toNat = true ↔ scope = 0 ∨ readsLanded (s.coreAt c) = true ∧
      (kind = 3 ∨ 7 ≤ scope.toNat ∧ kind = 2 → writesDone s c = true ∧ streamsDrained (s.coreAt c) = true) ∧
      (7 ≤ scope.toNat → (s.coreAt c).fabOut = []) ∧
      (5 ≤ scope.toNat → ∀ o ∈ s.memq, o.core = c → ∀ a32 anchor v, o.kind ≠ .accum a32 anchor v) := by
  have hk3 : kind.toNat = 3 ↔ kind = 3 := by rw [← BitVec.toNat_inj]; rfl
  have hk2 : kind.toNat = 2 ↔ kind = 2 := by rw [← BitVec.toNat_inj]; rfl
  have hs0 : scope.toNat = 0 ↔ scope = 0 := by rw [← BitVec.toNat_inj]; rfl
  unfold fenceMet
  by_cases h0 : scope = 0
  · simp [h0]
  · simp only [hk3, hk2, hs0, h0, if_false, false_or, Bool.and_eq_true, Bool.or_eq_true, Bool.not_eq_true',
      Bool.or_eq_false_iff, Bool.and_eq_false_iff, decide_eq_true_eq, decide_eq_false_iff_not, fabricQuiet,
      List.isEmpty_iff, accumsDone_iff]
    rw [and_assoc, and_assoc]
    refine and_congr_right fun _ => and_congr ?_ (and_congr ?_ ?_)
    · rw [imp_iff_not_or, not_or, not_and_or]
    · exact (imp_iff_not_or).symm
    · rw [imp_iff_not_or, Nat.not_le]

section
variable {s : State} {scope : BitVec 4} {kind : BitVec 2} (hk : kind ≠ 0) (hs : scope.toNat < 9)
include hk hs

theorem fence_exec : exec (.fence scope kind) s = finish s (
    if 7 ≤ scope.toNat && s.cur.fabLate = some s.pre.pc then raise s .fabricTimeout 0
    else if !fenceMet s s.issue.core kind.toNat scope.toNat then .hold .fence
    else .ok () (s.endFence s.issue.core scope.toNat)) := by
  have hok : (decide (kind.toNat ≠ 0) && decide (scope.toNat < 9)) = true := by
    have : kind.toNat ≠ 0 := fun h => hk (BitVec.eq_of_toNat_eq h)
    simp [this, hs]
  change finish s (need s _ _ _ _) = _
  rw [need_of hok]

theorem fence_runs (hlate : ¬ (7 ≤ scope.toNat ∧ s.cur.fabLate = some s.pre.pc))
    (hmet : fenceMet s s.issue.core kind.toNat scope.toNat = true) :
    Runs (.fence scope kind) s (s.endFence s.issue.core scope.toNat) := by
  refine runs_of_ok (fence_exec hk hs) ?_
  rw [if_neg (by simpa using hlate), hmet]
  rfl

theorem fence_holds (hlate : ¬ (7 ≤ scope.toNat ∧ s.cur.fabLate = some s.pre.pc))
    (hmet : ¬ fenceMet s s.issue.core kind.toNat scope.toNat = true) : Holds (.fence scope kind) s .fence := by
  refine holds_of_hold (fence_exec hk hs) ?_
  rw [if_neg (by simpa using hlate), Bool.eq_false_iff.2 hmet]
  rfl

theorem fence_late (hlate : 7 ≤ scope.toNat ∧ s.cur.fabLate = some s.pre.pc) :
    Raises (.fence scope kind) s (slotTrap s .fabricTimeout 0) := by
  refine raises_of_trap (fence_exec hk hs) ?_
  rw [if_pos (by simpa using hlate)]
  rfl

end

theorem State.endFence_eq (s : State) (scope : BitVec 4) : s.endFence s.issue.core scope.toNat =
    let t := if scope = 0 then s else s.upd Core.mergeAll
    if 5 ≤ scope.toNat then t.applyCore s.issue.core else t := by
  have hs0 : scope.toNat = 0 ↔ scope = 0 := by rw [← BitVec.toNat_inj]; rfl
  unfold State.endFence
  by_cases h0 : scope = 0
  · subst h0
    rfl
  · simp only [hs0, h0, if_false]
    rfl

/-! ### The message queue (R161, R162) -/

theorem Clk.le_iff (a b : Clk) : Clk.le a b = true ↔ ∀ (i : Nat) (h : i < 4), a[i] ≤ b[i] := by
  simp [Clk.le, List.all_eq_true, List.mem_iff_getElem]

theorem Clk.getElem_max (a b : Clk) (i : Nat) (h : i < 4) : (Clk.max a b)[i] = Nat.max a[i] b[i] := by
  simp [Clk.max]

theorem Clk.le_max_left (a b : Clk) : Clk.le a (Clk.max a b) = true :=
  (Clk.le_iff _ _).2 fun i h => (Clk.getElem_max a b i h) ▸ Nat.le_max_left _ _

theorem Clk.le_max_right (a b : Clk) : Clk.le b (Clk.max a b) = true :=
  (Clk.le_iff _ _).2 fun i h => (Clk.getElem_max a b i h) ▸ Nat.le_max_right _ _

theorem Clk.le_trans {a b c : Clk} (h : Clk.le a b = true) (h' : Clk.le b c = true) : Clk.le a c = true :=
  (Clk.le_iff _ _).2 fun i hi => Nat.le_trans ((Clk.le_iff _ _).1 h i hi) ((Clk.le_iff _ _).1 h' i hi)

/-- The clocks of entries acquired: the read and the write clock have passed each (R201). -/
theorem Core.acquire_all (es : List MqEntry) : ∀ k : Core, ∃ rc wc : Clk,
    es.foldl (fun k e => k.acquireClk e.clk) k = (fun k : Core => { k with rc := rc, wc := wc }) k ∧
      Clk.le k.rc rc = true ∧ Clk.le k.wc wc = true ∧ ∀ e ∈ es, Clk.le e.clk rc = true ∧ Clk.le e.clk wc = true := by
  induction es with
  | nil =>
    intro k
    have hrefl : ∀ a : Clk, Clk.le a a = true := fun a => (Clk.le_iff _ _).2 fun _ _ => Nat.le_refl _
    exact ⟨k.rc, k.wc, rfl, hrefl _, hrefl _, fun _ h => nomatch h⟩
  | cons e es ih =>
    intro k
    obtain ⟨rc, wc, hk, hrc, hwc, hes⟩ := ih (k.acquireClk e.clk)
    have hec : Clk.le e.clk rc = true := Clk.le_trans (Clk.le_max_right k.rc e.clk) hrc
    have hew : Clk.le e.clk wc = true :=
      Clk.le_trans (Clk.le_max_right k.rc e.clk) (Clk.le_trans (Clk.le_max_right k.wc _) hwc)
    exact ⟨rc, wc, hk, Clk.le_trans (Clk.le_max_left _ _) hrc, Clk.le_trans (Clk.le_max_left _ _) hwc,
      List.forall_mem_cons.2 ⟨⟨hec, hew⟩, hes⟩⟩

/-- Credits on their way, by a list of entries (R162). -/
theorem State.returnCredits_eq (s : State) (c : Fin 256) (es : List MqEntry) : ∃ l : List CreditRet,
    s.returnCredits c es = (fun s : State => { s with credRet := s.credRet ++ l }) s ∧
      ((∀ e ∈ es, (launchCore s (s.coreAt c).launch e.sender).isSome = true) → l.map (·.sender) = es.map (·.sender)) := by
  unfold State.returnCredits
  dsimp only
  generalize s.coreAt c = k
  induction es generalizing s with
  | nil => exact ⟨[], by simp, fun _ => rfl⟩
  | cons e es ih =>
    rw [List.foldl_cons]
    cases hl : launchCore s k.launch e.sender with
    | none =>
      obtain ⟨l, hs, _⟩ := ih s
      exact ⟨l, hs, fun h => absurd (h e List.mem_cons_self) (by rw [hl]; exact Bool.false_ne_true)⟩
    | some o =>
      let r : CreditRet := { launch := k.launch, sender := e.sender, target := k.lidx, core := o, due := s.cycle + msgLatency c o }
      obtain ⟨l, hs, hall⟩ := ih { s with credRet := s.credRet ++ [r] }
      refine ⟨r :: l, ?_, fun h => ?_⟩
      · exact hs.trans (by simp only [List.append_assoc, List.singleton_append])
      · rw [List.map_cons, List.map_cons, hall fun e' he' => h e' (List.mem_cons_of_mem _ he')]

theorem State.upd_congr {s : State} {f g : Core → Core} (h : f s.cur = g s.cur) : s.upd f = s.upd g :=
  congrArg (s.setCore s.issue.core) h

/-- A core whose first entries are released. -/
def Core.mqRelease (k : Core) (n : Nat) : Core :=
  { k with mqHead := k.mqHead + BitVec.ofNat 32 n, mqEntries := k.mqEntries.drop n }

section
variable {s s1 : State} {a : SSpec} {x : Word} (hx : readS s a 0 = .ok x s1)
include hx

theorem mqrd_waiting {w : WReg} (h : x.toNat < s.pre.mqWaiting) : ∃ rc wc,
    Runs (.mqrd a w) s ((s1.upd fun k => { k with rc := rc, wc := wc }).result
      (BitVec.ofNat 64 (s.pre.mqOffset (s.pre.mqHead.toNat + x.toNat))) 1 w) ∧
      ∀ e ∈ s1.cur.mqEntries.take (x.toNat + 1), Clk.le e.clk rc = true ∧ Clk.le e.clk wc = true := by
  obtain ⟨rc, wc, hk, _, _, hes⟩ := Core.acquire_all (s1.cur.mqEntries.take (x.toNat + 1)) s1.cur
  refine ⟨rc, wc, runs_of_ok rfl ?_, hes⟩
  rw [hx, SlotRes.bind_ok]
  dsimp only
  rw [readS_pre hx, if_pos h, State.upd_congr (g := fun k => { k with rc := rc, wc := wc }) hk, State.pre_upd, readS_pre hx]

theorem mqrd_empty {w : WReg} (h : s.pre.mqWaiting ≤ x.toNat) : Runs (.mqrd a w) s (s1.result (BitVec.allOnes 64) 1 w) := by
  refine runs_of_ok rfl ?_
  rw [hx, SlotRes.bind_ok]
  dsimp only
  rw [readS_pre hx, if_neg (by omega)]

theorem mqrel_runs (h : x.toNat ≤ s.pre.mqWaiting) : Runs (.mqrel a) s ((s1.upd fun k => k.mqRelease x.toNat).returnCredits s1.issue.core
      (s.pre.mqEntries.take x.toNat)) := by
  refine runs_of_ok rfl ?_
  rw [hx, SlotRes.bind_ok]
  dsimp only
  rw [readS_pre hx, need_of (decide_eq_true h)]
  rfl

theorem mqrel_empty (h : s.pre.mqWaiting < x.toNat) : Raises (.mqrel a) s (slotTrap s1 .msgqEmpty 0) := by
  refine raises_of_trap rfl ?_
  rw [hx, SlotRes.bind_ok]
  dsimp only
  rw [readS_pre hx, need_of_not (decide_eq_false (by omega))]

end

/-- Settles O13, part by part. -/
theorem spillFenceAndMessageQueueEffects : Obligations.SpillFenceAndMessageQueueEffects := by
  unfold Obligations.SpillFenceAndMessageQueueEffects
  refine ⟨⟨?_, ?_⟩, ?_⟩
  · intro s s1 a w off x hx o
    have hfree : OnlyFree s s1 := readS_only hx
    refine ⟨fun ho => ⟨fun hok => ⟨_, loads_extend _ _ _ (by decide), ?_⟩, fun n hn => ?_, _, spl_runs hx ho, ?_⟩,
      fun ho => ⟨spl_range hx ho, ?_⟩⟩
    · refine runs_of_ok rfl ?_
      rw [need_of (decide_eq_true ho), soundSpill_ok hok]
      rfl
    · refine raises_of_trap rfl ?_
      rw [need_of (decide_eq_true ho), soundSpill_trap hn]
    · dsimp only
      rw [State.cur_upd, hfree.cur]
      refine ⟨stored_writeBytes _ _ _ _, loads_writeBytes_word _ _ _, ?_, rfl, ?_, ?_⟩
      · exact Core.failedWord_renewWords s.cur .spill _ 8 (by omega) rfl
      · have hcores := congrArg (fun v : State => { v with cores := s.cores }) hfree
        exact hcores
      · intro d hd
        rw [State.upd_coreAt_ne _ _ (by rw [hfree.issue]; exact hd), hfree.coreAt]
    · refine raises_of_trap rfl ?_
      rw [need_of_not (decide_eq_false (by omega))]
  · intro s scope kind hk hs c fab late met
    have hmet : met ↔ fenceMet s c kind.toNat scope.toNat = true := (fenceMet_iff s c kind scope).symm
    refine ⟨fun h hlate => ?_, fun h hlate => fence_holds hk hs hlate (fun h' => h (hmet.2 h')), fun h => fence_late hk hs h⟩
    have hruns := fence_runs hk hs hlate (hmet.1 h)
    rw [State.endFence_eq] at hruns
    exact hruns
  · intro s s1 a w x hx k waiting entry
    have hfree : OnlyFree s s1 := readS_only hx
    refine ⟨fun h => ?_, fun h => mqrd_empty hx h, fun h => ⟨_, mqrel_runs hx h, ?_⟩, fun h => mqrel_empty hx h⟩
    · obtain ⟨rc, wc, hruns, hes⟩ := mqrd_waiting (w := w) hx h
      exact ⟨rc, wc, hruns, by rw [← hfree.cur]; exact hes⟩
    · obtain ⟨l, ht, hall⟩ := State.returnCredits_eq (s1.upd fun k => k.mqRelease x.toNat) s1.issue.core
        (s.pre.mqEntries.take x.toNat)
      have hcred : s1.credRet = s.credRet := (congrArg State.credRet hfree :)
      have hlaunch : ∀ lch j, launchCore (s1.upd fun k => k.mqRelease x.toNat) lch j = launchCore s lch j := fun lch j => by
        unfold launchCore
        rw [State.upd_launches, show s1.launches = s.launches from (congrArg State.launches hfree :)]
      have hcur : (s1.upd fun k => k.mqRelease x.toNat).cur = s.cur.mqRelease x.toNat := by rw [State.cur_upd, hfree.cur]
      have hone : (s1.upd fun k => k.mqRelease x.toNat).coreAt s1.issue.core = s.cur.mqRelease x.toNat := hcur
      generalize hu : (s1.upd fun k => k.mqRelease x.toNat) = u at *
      have hmem : SameMemory s u := by rw [← hu]; exact SameMemory.of_eq hfree.mem hfree.l2
      have hothers : OtherCores s u := fun d hd => by
        rw [← hu, State.upd_coreAt_ne _ _ (by rw [hfree.issue]; exact hd), hfree.coreAt]
      have hucred : u.credRet = s.credRet := by rw [← hu]; exact hcred
      rw [ht]
      have hkeep : ((fun s : State => { s with credRet := s.credRet ++ l }) u).cur = s.cur.mqRelease x.toNat := hcur
      rw [hkeep]
      refine ⟨rfl, rfl, rfl, hmem, hothers, fun hsome => ?_⟩
      rw [← hucred, ← hall fun e he => ?_]
      · exact List.map_append
      · rw [hlaunch, hone]
        exact hsome e he

end Sys2Proof.Machine
end

section
/-! Atomics (R202, R355-R358): what they do to the scratchpad at once, and what they send to memory. -/

namespace Sys2Proof.Machine

theorem atomicOf_addr_toNat (x : Word) (d : Disp) : (BitVec.ofNat 64 (atomicOf x d).addr).toNat = (atomicOf x d).addr := by
  rw [BitVec.toNat_ofNat, Nat.mod_eq_of_lt]
  exact Nat.lt_trans (Nat.mod_lt _ (by decide)) (by decide)

section
variable {s : State} {x : Word} {d : Disp} {w : WReg} {w32 ret : Bool} {new : Nat → Nat} {kind : Atomic → MemKind}
  (hscope : (atomicOf x d).scope < 9) (hal : (atomicOf x d).addr % atomWidth w32 = 0)
include hscope hal

/-- An atomic on the scratchpad comes to what its bytes give, unless it touches a failed line. -/
theorem atomic_spad (hspad : (atomicOf x d).spad = true)
    (hp : badPolder s.pre.hdr (atomicOf x d).addr (atomWidth w32) = none)
    (hplain : diffSpad s.pre (atomicOf x d).addr (atomWidth w32) = .plain)
    (hb : touchesBarrier s.pre.hdr (atomicOf x d).addr (atomWidth w32) = false)
    (hh : spadHold s (atomicOf x d).addr (atomWidth w32) = none) :
    atomic s x d w w32 ret new kind =
      let n := (atomicOf x d).addr
      let u := s.upd (·.drainFor n (atomWidth w32))
      let old := u.cur.spad.readLE n (atomWidth w32)
      let v := u.upd fun k => k.spadWrite n (natToBytes (atomWidth w32) (new old))
      soundSpad u n (atomWidth w32) (.ok () (if ret then v.result (extend (atomWidth w32) w32 old) 4 w else v)) := by
  have haddr := atomicOf_addr_toNat x d
  rw [atomic, need_of (decide_eq_true hscope), hspad, reach_spad (by rw [haddr]; exact hal) (by rw [haddr]; exact hp), haddr]
  simp only [diffOf, hplain, hb, hh, orHold_none, Bool.not_false, need_true]

/-- An atomic on memory goes to its home, unless it waits for the fabric counts. -/
theorem atomic_hbm (hspad : (atomicOf x d).spad = false)
    (hquiet : ((atomicOf x d).releases && decide (7 ≤ (atomicOf x d).scope) && !fabricQuiet s.cur) = false) {p : Phys}
    (ht : memTarget s .atomic (BitVec.ofNat 64 (atomicOf x d).addr) (atomWidth w32) = .ok (.hbm p))
    (hplain : diffHbm s.pre p.diff (atomicOf x d).addr (atomWidth w32) = .plain) :
    atomic s x d w w32 ret new kind =
      let t := atomicOf x d
      let a := BitVec.ofNat 64 t.addr
      let sent := (s.noteAccess s.issue.core (.hbm p) t.addr).send s.issue.core (kind t) p a
        { write := true, after := releaseAfter s t, acq := t.acquires && !ret }
      .ok () (if ret then sent.2.awaitLoad sent.1 (max 1 (4 * t.landq)) w a t.acquires else sent.2) := by
  have haddr := atomicOf_addr_toNat x d
  rw [atomic, need_of (decide_eq_true hscope), hspad, reach_mem (by rw [haddr]; exact hal) ht]
  simp only [diffOf, hplain, hquiet, Bool.false_eq_true, if_false]

end

/-- An atomic that is sent: it waits behind what was under way, and memory stays. -/
theorem atomic_sends {s n : State} (hq : n.memq = s.memq) (hi : n.issue = s.issue) (hl : n.cur.loads = s.cur.loads)
    (hc : n.cur.clk = s.cur.clk) (kind : MemKind) (p : Phys) (va : Word) (o : OpOpts) (ret acq : Bool) (lat : Nat) (w : WReg) :
    let sent := n.send s.issue.core kind p va o
    let t := if ret then sent.2.awaitLoad sent.1 lat w va acq else sent.2
    SameMemory n t ∧ Sends s t kind p.addr fun op => op.after = o.after ∧ op.acq = o.acq ∧
      (ret = true → Awaits s t op.id lat w) := by
  intro sent t
  have hsent := n.send_sent s.issue.core kind p va o
  have hcur : ∀ {α : Type} (g : Core → α), (∀ (k : Core) x, g { k with wc := x } = g k) → g sent.2.cur = g n.cur :=
    fun g hg => hsent.cur_keeps g hg
  have hmemq : t.memq = s.memq ++ [n.sentOp s.issue.core kind p va o] := by
    rw [← hq, ← n.send_memq]
    cases ret <;> rfl
  refine ⟨?_, _, hmemq, State.sentOp_kind .., State.sentOp_dpa .., State.sentOp_core .., State.sentOp_result ..,
    State.sentOp_after .., State.sentOp_acq .., fun h => ?_⟩
  · refine SameMemory.trans hsent.memory ?_
    cases ret
    · exact SameMemory.refl _
    · exact State.awaitLoad_memory _ _ _ _ _ _
  · subst h
    rw [State.sentOp_id, ← n.send_id]
    exact State.awaitLoad_awaits ((hcur Core.loads fun _ _ => rfl).trans hl) ((hcur Core.clk fun _ _ => rfl).trans hc) _ _ _ _ _

theorem releaseAfter_of {s s' : State} {t : Atomic} (hq : s'.memq = s.memq) (hi : s'.issue = s.issue) (h : t.releases = true) :
    releaseAfter s' t = (s.memq.filter fun m => m.core = s.issue.core).map (·.id) := by
  rw [releaseAfter, if_pos h, hq, hi]

section
variable {s s1 s2 s3 : State} {a b e : SSpec} {d : Disp} {w : WReg} {nr w32 : Bool} {op : AmoOp} {x y z : Word}
  (hx : readS s a 0 = .ok x s1) (hy : readS s1 b 1 = .ok y s2)
include hx hy

theorem amo_exec : exec (.amo a d b w nr w32 op) s = finish s (atomic s2 x d w w32 (!nr)
    (fun old => amoNew op (8 * atomWidth w32) old y.toNat)
    (fun t => .amo op w32 y (!nr) (t.honoured op (!nr)))) := by
  change finish s ((readS s a 0).bind _) = _
  rw [hx, SlotRes.bind_ok, hy, SlotRes.bind_ok]

theorem amocas_exec (hz : readS s2 e 2 = .ok z s3) : exec (.amocas a d b w w32 e) s = finish s (atomic s3 x d w w32 true
    (fun old => if old = z.toNat % 2 ^ (8 * atomWidth w32) then y.toNat % 2 ^ (8 * atomWidth w32) else old)
    (fun _ => .cas w32 y z)) := by
  change finish s ((readS s a 0).bind _) = _
  rw [hx, SlotRes.bind_ok, hy, SlotRes.bind_ok, hz, SlotRes.bind_ok]

end

/-- What sits at an address after the new value of an atomic has been laid there. -/
theorem stored_atomic (m : Mem) (a n v : Nat) (hn : n ≤ 8) :
    Stored m (m.writeBytes a (natToBytes n v)) a n (BitVec.ofNat 64 v) := by
  intro k
  rw [Mem.read_writeBytes, natToBytes_length]
  by_cases h : a ≤ k ∧ k < a + n
  · rw [if_pos h, if_pos h, natToBytes_getD _ _ (by omega)]
    apply BitVec.eq_of_toNat_eq
    rw [BitVec.extractLsb'_toNat, BitVec.toNat_ofNat, BitVec.toNat_ofNat, Nat.shiftRight_eq_div_pow,
      show 256 ^ (k - a) = 2 ^ (8 * (k - a)) from (Nat.pow_mul 2 8 _).symm]
    apply Nat.eq_of_testBit_eq
    intro i
    simp only [Nat.testBit_mod_two_pow, Nat.testBit_div_two_pow]
    by_cases hi : i < 8
    · simp [hi, show i + 8 * (k - a) < 64 by omega]
    · simp [hi]
  · rw [if_neg h, if_neg h]

/-- Settles O14, by where the atomic's address lands. -/
theorem atomicsActOrAreSent : Obligations.AtomicsActOrAreSent := by
  unfold Obligations.AtomicsActOrAreSent
  intro s s1 s2 s3 a b e d w nr w32 op x y z hx hy hz t len adr hscope hal
  have hfree := readsTwo_only hx hy
  have hfree3 : OnlyFree s s3 := OnlyFree.trans hfree (readS_only hz)
  have hissue := readsTwo_issue hx hy
  have hissue3 := (readS_issue hz).trans hissue
  have hpre : s2.pre = s.pre := (readS_pre hy).trans (readS_pre hx)
  have hpre3 : s3.pre = s.pre := (readS_pre hz).trans hpre
  have hamo := amo_exec (w := w) (nr := nr) (w32 := w32) (op := op) (d := d) hx hy
  have hcas := amocas_exec (w := w) (w32 := w32) (d := d) hx hy hz
  refine ⟨fun hspad hp hplain hb => ?_, fun p hspad hquiet => ?_⟩
  · intro u old
    have hdrain : (u s2).cur = (u s).cur := by
      change (s2.upd _).cur = (s.upd _).cur
      rw [State.cur_upd, State.cur_upd, hfree.cur]
    have hdrain3 : (u s3).cur = (u s).cur := by
      change (s3.upd _).cur = (s.upd _).cur
      rw [State.cur_upd, State.cur_upd, hfree3.cur]
    refine ⟨fun hh hok => ?_, fun hh hbad => ?_, fun hh hok => ?_⟩
    · intro v
      have hspadv : v.cur.spad = (u s).cur.spad.writeBytes t.addr (natToBytes len (amoNew op (8 * len) old y.toNat)) := by
        change ((u s2).upd _).cur.spad = _
        rw [State.cur_upd, hdrain]
        rfl
      refine ⟨runs_of_ok hamo ?_, ?_⟩
      · rw [atomic_spad hscope hal hspad (hpre ▸ hp) (hpre ▸ hplain) (hpre ▸ hb) hh]
        dsimp only
        rw [soundSpad_ok hok, show (s2.upd _).cur = (u s).cur from hdrain]
        cases nr <;> rfl
      · rw [hspadv]
        exact stored_atomic _ _ _ _ (by change atomWidth w32 ≤ 8; cases w32 <;> decide)
    · refine raises_of_trap hamo ?_
      rw [atomic_spad hscope hal hspad (hpre ▸ hp) (hpre ▸ hplain) (hpre ▸ hb) hh]
      exact (soundSpad_trap hbad).trans (congrArg _ (slotTrap_of_issue hissue ..))
    · refine runs_of_ok hcas ?_
      rw [atomic_spad hscope hal hspad (hpre3 ▸ hp) (hpre3 ▸ hplain) (hpre3 ▸ hb) hh]
      dsimp only
      rw [soundSpad_ok hok, show (s3.upd _).cur = (u s).cur from hdrain3]
      rfl
  · have hmemq : s2.memq = s.memq := (congrArg State.memq hfree :)
    have hmemq3 : s3.memq = s.memq := (congrArg State.memq hfree3 :)
    have hquiet2 : (t.releases && decide (7 ≤ t.scope) && !fabricQuiet s2.cur) = false := by rw [hfree.cur]; exact hquiet
    have hquiet3 : (t.releases && decide (7 ≤ t.scope) && !fabricQuiet s3.cur) = false := by rw [hfree3.cur]; exact hquiet
    have hn := State.noteAccess_memorySide s2 s.issue.core (.hbm p) t.addr
    have hn3 := State.noteAccess_memorySide s3 s.issue.core (.hbm p) t.addr
    refine ⟨fun ht hplain => ?_, fun ht hplain => ?_⟩
    · obtain ⟨hm, o, ho, hk, ha, hc, hr, hafter, hacq, hwait⟩ := atomic_sends (s := s) (hn.memq.trans hmemq)
        (hn.issue.trans hissue) ((hn.cur_keeps Core.loads fun _ _ _ => rfl).trans (congrArg Core.loads hfree.cur))
        ((hn.cur_keeps Core.clk fun _ _ _ => rfl).trans (congrArg Core.clk hfree.cur))
        (.amo op w32 y (!nr) (t.honoured op (!nr))) p adr
        { write := true, after := releaseAfter s2 t, acq := t.acquires && !(!nr) } (!nr) t.acquires (max 1 (4 * t.landq)) w
      have hstep := atomic_hbm (w := w) (ret := !nr) (new := fun old => amoNew op (8 * atomWidth w32) old y.toNat)
        (kind := fun t => .amo op w32 y (!nr) (t.honoured op (!nr))) hscope hal hspad hquiet2 ht (hpre ▸ hplain)
      rw [hissue] at hstep
      refine ⟨_, runs_of_ok hamo hstep, ?_⟩
      refine ⟨hm, o, ho, ?_, ha, hc, hr, ?_, ?_, ?_⟩
      · rw [hk, Atomic.honoured, Bool.not_not]
      · exact fun hrel => hafter.trans (releaseAfter_of hmemq hissue hrel)
      · rw [hacq, Bool.not_not]
      · exact fun hnr => hwait (by rw [hnr]; rfl)
    · obtain ⟨hm, o, ho, hk, ha, hc, hr, hafter, hacq, hwait⟩ := atomic_sends (s := s) (hn3.memq.trans hmemq3)
        (hn3.issue.trans hissue3) ((hn3.cur_keeps Core.loads fun _ _ _ => rfl).trans (congrArg Core.loads hfree3.cur))
        ((hn3.cur_keeps Core.clk fun _ _ _ => rfl).trans (congrArg Core.clk hfree3.cur)) (.cas w32 y z) p adr
        { write := true, after := releaseAfter s3 t, acq := t.acquires && !true } true t.acquires (max 1 (4 * t.landq)) w
      have hstep := atomic_hbm (w := w) (ret := true)
        (new := fun old => if old = z.toNat % 2 ^ (8 * atomWidth w32) then y.toNat % 2 ^ (8 * atomWidth w32) else old)
        (kind := fun _ => .cas w32 y z) hscope hal hspad hquiet3 ht (hpre3 ▸ hplain)
      rw [hissue3] at hstep
      exact ⟨_, runs_of_ok hcas hstep, hm, o, ho, hk, ha, hc, hr, hwait rfl⟩

end Sys2Proof.Machine
end

section
/-! The checks of loads, stores and atomics (R351, R354, R355) and of the M slot (R149, R334, R337, R338, R340, R344). -/

namespace Sys2Proof.Machine

/-! ### Addresses (R351) -/

section
variable {α : Type} {s : State} {kind : AccKind} {a : Word} {len : Nat} {k : Target → Word → SlotRes α}

theorem reach_misaligned (spad : Bool) (hal : a.toNat % len ≠ 0) : reach s spad kind a len k =
    .trap (slotTrap s .misaligned (if spad then spadInfo (a.toNat % 2 ^ 63) else addrInfo a)) := by
  rw [reach]
  exact need_of_not (decide_eq_false hal)

theorem reach_undeclared {n : Nat} (hal : a.toNat % len = 0) (hp : badPolder s.pre.hdr a.toNat len = some n) :
    reach s true kind a len k = .trap (slotTrap s .polderUndeclared (spadInfo (n % 2 ^ 63))) := by
  rw [reach]
  refine (need_of (decide_eq_true hal)).trans ?_
  rw [if_pos rfl, hp]
  rfl

end

section
variable {s s1 s2 : State} {a b : SSpec} {d : Disp} {w : WReg} {x y : Word} (hx : readS s a 0 = .ok x s1)
include hx

theorem ld_misaligned {land : BitVec 10} {sz : LdSz} (h : (x + dispWord d).toNat % LdSz.bytes sz ≠ 0) :
    Raises (.ld a d w land sz) s (slotTrap s1 .misaligned
      (if land = 0 then spadInfo ((x + dispWord d).toNat % 2 ^ 63) else x + dispWord d)) := by
  refine raises_of_trap rfl ?_
  rw [hx, SlotRes.bind_ok]
  refine (reach_misaligned _ h).trans ?_
  simp only [decide_eq_true_eq, addrInfo]

theorem ld_undeclared {sz : LdSz} {n : Nat} (h : (x + dispWord d).toNat % LdSz.bytes sz = 0)
    (hp : badPolder s.pre.hdr (x + dispWord d).toNat (LdSz.bytes sz) = some n) :
    Raises (.ld a d w 0 sz) s (slotTrap s1 .polderUndeclared (spadInfo (n % 2 ^ 63))) := by
  refine raises_of_trap rfl ?_
  rw [hx, SlotRes.bind_ok]
  exact reach_undeclared h ((readS_pre hx).symm ▸ hp)

variable (hy : readS s1 b 1 = .ok y s2)
include hy

theorem st_misaligned {na sp : Bool} {sz : StSz} (h : (x + dispWord d).toNat % StSz.bytes sz ≠ 0) :
    Raises (.st a d b w na sp sz) s (slotTrap s2 .misaligned
      (if sp then spadInfo ((x + dispWord d).toNat % 2 ^ 63) else x + dispWord d)) := by
  refine raises_of_trap rfl ?_
  rw [hx, SlotRes.bind_ok, hy, SlotRes.bind_ok]
  exact reach_misaligned sp h

theorem st_undeclared {na : Bool} {sz : StSz} {n : Nat} (h : (x + dispWord d).toNat % StSz.bytes sz = 0)
    (hp : badPolder s.pre.hdr (x + dispWord d).toNat (StSz.bytes sz) = some n) :
    Raises (.st a d b w na true sz) s (slotTrap s2 .polderUndeclared (spadInfo (n % 2 ^ 63))) := by
  refine raises_of_trap rfl ?_
  rw [hx, SlotRes.bind_ok, hy, SlotRes.bind_ok]
  exact reach_undeclared h (((readS_pre hy).trans (readS_pre hx)).symm ▸ hp)

theorem amo_misaligned {nr w32 : Bool} {op : AmoOp} (hscope : (atomicOf x d).scope < 9)
    (h : (atomicOf x d).addr % atomWidth w32 ≠ 0) :
    Raises (.amo a d b w nr w32 op) s (slotTrap s2 .misaligned (if (atomicOf x d).spad then
      spadInfo ((atomicOf x d).addr % 2 ^ 63) else BitVec.ofNat 64 (atomicOf x d).addr)) := by
  refine raises_of_trap (amo_exec hx hy) ?_
  have haddr := atomicOf_addr_toNat x d
  rw [atomic, need_of (decide_eq_true hscope)]
  refine (reach_misaligned _ (by rw [haddr]; exact h)).trans ?_
  rw [haddr, addrInfo]

end

/-! ### The M slot -/

/-- A check whose failure raises the cause that what follows it would raise. -/
theorem need_else {α : Type} {s : State} {b : Bool} {c : Cause} {info : Word} {k : SlotRes α}
    (h : b = true → k = .trap (slotTrap s c info)) : need s b c info k = .trap (slotTrap s c info) := by
  cases b with
  | true => exact h rfl
  | false => rfl

section
variable {s : State}

theorem enqueue_full (i : Instr) (h : min 4 s.pre.hdr.moqMax ≤ s.cur.mops.length) :
    enqueue s i = .trap (slotTrap s .matqFull 0) := by
  rw [enqueue]
  exact need_of_not (decide_eq_false (by omega))

section
variable {i : Instr} {u : Outer} (hu : outerOf i = some u)
include hu

theorem issueOuter_loading (h : ¬ (tileLoading s u.a = false ∧ tileLoading s u.b = false)) :
    issueOuter s i = .hold .lock := by
  have hor : (tileLoading s u.a || tileLoading s u.b) = true := by simpa [Classical.or_iff_not_imp_left] using h
  rw [issueOuter, hu]
  dsimp only
  rw [hor, if_pos rfl]

/-- A tile that is not configured, too many rows of the second, or types that do not pair (R337). -/
theorem issueOuter_config (hfree : tileLoading s u.a = false ∧ tileLoading s u.b = false)
    (h : tcfgRows (s.pre.tiles[u.a]).cfg = 0 ∨ tcfgRows (s.pre.tiles[u.b]).cfg = 0 ∨ 64 < tcfgRows (s.pre.tiles[u.b]).cfg ∨
      pairOk (s.pre.tiles[u.a]).ty (s.pre.tiles[u.b]).ty = false) :
    issueOuter s i = .trap (slotTrap s .tileConfig 0) := by
  have hnone : (tileLoading s u.a || tileLoading s u.b) = false := by rw [hfree.1, hfree.2]; rfl
  rw [issueOuter, hu]
  dsimp only
  rw [hnone, if_neg Bool.false_ne_true]
  refine need_else fun hrows => need_else fun h64 => need_else fun _ => need_of_not ?_
  simp only [Tile.released, Bool.and_eq_true, Bool.not_eq_true', decide_eq_false_iff_not] at hrows
  have hle : tcfgRows (s.pre.tiles[u.b]).cfg ≤ 64 := of_decide_eq_true h64
  rcases h with h | h | h | h
  · exact absurd h hrows.1
  · exact absurd h hrows.2
  · exact absurd hle (by omega)
  · exact h

end

theorem issueSave_undeclared (i : Instr) (save h : Bool) {p : Fin 32} (hp : s.pre.hdr.polders.getLsbD p.val = false) :
    issueSave s i save h p = .trap (slotTrap s .polderUndeclared (spadInfo (65536 * p.val + 32768 * h.toNat))) := by
  rw [issueSave]
  exact need_of_not hp

end

/-- Settles O15, check by check. -/
theorem accessAndMatrixIssueChecks : Obligations.AccessAndMatrixIssueChecks := by
  unfold Obligations.AccessAndMatrixIssueChecks
  constructor
  · intro s s1 s2 a b d w x y na nr w32 lsz ssz op hx hy n i t ai
    refine ⟨fun h => ld_misaligned hx h, fun land hland h => ?_, fun h => ⟨st_misaligned hx hy h, st_misaligned hx hy h⟩,
      fun hscope h => amo_misaligned hx hy hscope h, fun k h hp => ld_undeclared hx h hp, fun k h hp => st_undeclared hx hy h hp⟩
    have hraises := ld_misaligned (w := w) (land := land) hx h
    rwa [if_neg hland] at hraises
  · intro s z y a b k neg h p ta tb free
    refine ⟨fun hfull => ⟨raises_of_trap rfl (enqueue_full _ hfull), fun hacc => raises_of_trap rfl ?_⟩,
      fun hfree hbad => ⟨raises_of_trap rfl (issueOuter_config rfl hfree hbad), raises_of_trap rfl (issueOuter_config rfl hfree hbad)⟩,
      fun hfree => ⟨holds_of_hold rfl (issueOuter_loading rfl hfree), holds_of_hold rfl (issueOuter_loading rfl hfree)⟩,
      fun hacc => raises_of_trap rfl (need_of_not hacc),
      fun hp => ⟨raises_of_trap rfl (issueSave_undeclared _ _ _ hp), raises_of_trap rfl (issueSave_undeclared _ _ _ hp)⟩⟩
    exact (need_of hacc).trans (enqueue_full _ hfull)

end Sys2Proof.Machine
end

section
/-! Completion tags (R149, R362): which tags a mask names, and what retiring tags does. -/

namespace Sys2Proof.Machine

theorem mem_tagsOf {k : Core} {a : Word} {t : Fin 64} :
    t ∈ tagsOf k a ↔ (a.getLsbD t.val && decide (t.val < k.hdr.tags)) = true := by
  simp [tagsOf]

/-- The mask of a list of tags has their bits. -/
theorem getLsbD_maskOf (l : List (Fin 64)) (i : Fin 64) : (maskOf l).getLsbD i.val = decide (i ∈ l) := by
  have hfold : ∀ (l : List (Fin 64)) (m : Word),
      (l.foldl (fun (m : Word) t => m ||| BitVec.ofNat 64 (2 ^ t.val)) m).getLsbD i.val = (m.getLsbD i.val || decide (i ∈ l)) := by
    intro l
    induction l with
    | nil => simp
    | cons t l ih =>
      intro m
      have hbit : (BitVec.ofNat 64 (2 ^ t.val)).getLsbD i.val = decide (i = t) := by
        rw [BitVec.getLsbD_ofNat, Nat.testBit_two_pow]
        simp [i.isLt, eq_comm, Fin.ext_iff]
      rw [List.foldl_cons, ih, BitVec.getLsbD_or, hbit, Bool.or_assoc]
      congr 1
      simp
  rw [maskOf, hfold]
  simp

/-! ### Tags retired -/

/-- What retiring and clearing tags may change. -/
def OnlyTagBits (k k' : Core) : Prop := ({ k' with tags := k.tags, copyq := k.copyq } : Core) = k

theorem OnlyTagBits.trans {k k' k'' : Core} (h : OnlyTagBits k k') (h' : OnlyTagBits k' k'') : OnlyTagBits k k'' := by
  have h2 := congrArg (fun x : Core => { x with tags := k.tags, copyq := k.copyq }) h'
  exact h2.trans h

theorem Core.retire_all (l : List (Fin 64)) : ∀ k : Core, OnlyTagBits k (l.foldl Core.retire k) ∧
    (l.foldl Core.retire k).copyq = k.copyq.filter (fun i => !decide (i ∈ l)) ∧
    ∀ i : Fin 64, (l.foldl Core.retire k).tags[i] = if i ∈ l then .free else k.tags[i] := by
  induction l with
  | nil => exact fun k => ⟨rfl, by simp, fun i => by simp⟩
  | cons t l ih =>
    intro k
    obtain ⟨honly, hq, htags⟩ := ih (k.retire t)
    refine ⟨OnlyTagBits.trans (k' := k.retire t) rfl honly, ?_, fun i => ?_⟩
    · rw [List.foldl_cons, hq, Core.retire, List.filter_filter]
      refine List.filter_congr fun i _ => ?_
      by_cases h : i = t <;> simp [h]
    · rw [List.foldl_cons, htags]
      by_cases hi : i ∈ l
      · simp [hi]
      · by_cases ht : i = t
        · subst ht
          simp [Core.retire, hi]
        · have hne : t.val ≠ i.val := fun h => ht (Fin.ext h.symm)
          simp [Core.retire, hi, ht, hne]

/-- What TCLR makes of a tag in this state: nothing where it is free. -/
def clearTag (k : Core) (t : Fin 64) : TagState → Core
  | .done _ => k.retire t
  | .busy _ => { k with tags := k.tags.set t (.busy true) }
  | .free => k

theorem clearTag_only (k : Core) (t : Fin 64) (x : TagState) : OnlyTagBits k (clearTag k t x) := by
  cases x <;> rfl

theorem clearTag_copyq (k : Core) (t : Fin 64) (x : TagState) :
    (clearTag k t x).copyq = k.copyq.filter fun i => !(decide (i = t) && (doneStatus x).isSome) := by
  cases x <;> simp [clearTag, doneStatus, Core.retire]

/-- The state that TCLR gives a tag that had `y`, by the state that the bundle found. -/
def clearedTag (x y : TagState) : TagState :=
  match x with
  | .free => y
  | .busy _ => .busy true
  | .done _ => .free

theorem clearTag_tags (k : Core) (t i : Fin 64) (x : TagState) :
    (clearTag k t x).tags[i] = if i = t then clearedTag x k.tags[i] else k.tags[i] := by
  by_cases h : i = t
  · subst h
    cases x <;> simp [clearTag, clearedTag, Core.retire]
  · have hne : t.val ≠ i.val := fun h' => h (Fin.ext h'.symm)
    cases x <;> simp [clearTag, Core.retire, h, hne]

theorem clearTags_all (x : Fin 64 → TagState) (l : List (Fin 64)) : ∀ k : Core,
    OnlyTagBits k (l.foldl (fun k t => clearTag k t (x t)) k) ∧
    (l.foldl (fun k t => clearTag k t (x t)) k).copyq =
      k.copyq.filter (fun i => !(decide (i ∈ l) && (doneStatus (x i)).isSome)) ∧
    ∀ i : Fin 64, (l.foldl (fun k t => clearTag k t (x t)) k).tags[i] =
      if i ∈ l then clearedTag (x i) k.tags[i] else k.tags[i] := by
  induction l with
  | nil => exact fun k => ⟨rfl, by simp, fun i => by simp⟩
  | cons t l ih =>
    intro k
    obtain ⟨honly, hq, htags⟩ := ih (clearTag k t (x t))
    refine ⟨(clearTag_only k t (x t)).trans honly, ?_, fun i => ?_⟩
    · rw [List.foldl_cons, hq, clearTag_copyq, List.filter_filter]
      refine List.filter_congr fun i _ => ?_
      by_cases h : i = t
      · subst h
        cases (doneStatus (x i)).isSome <;> simp
      · simp [h]
    · rw [List.foldl_cons, htags, clearTag_tags]
      by_cases ht : i = t
      · subst ht
        by_cases hi : i ∈ l
        · cases hx : x i <;> simp [hi, clearedTag]
        · simp [hi]
      · simp [ht]

/-! ### The tag instructions -/

/-- A tag that a mask names and that is done. -/
theorem mem_doneTags {s : State} {x : Word} {i : Fin 64} : i ∈ doneTags s x ↔
    ((x.getLsbD i.val && decide (i.val < s.pre.hdr.tags)) && (doneStatus s.pre.tags[i]).isSome) = true := by
  rw [doneTags, List.mem_filter, mem_tagsOf, ← Bool.and_eq_true]

section
variable {s s1 : State} {a : SSpec} {w : WReg} {x : Word} (hx : readS s a 0 = .ok x s1)
include hx

/-- What retiring done tags leaves: they are free, the mask of some of them is the result, memory stays. -/
theorem retireTags_shows (shown : List (Fin 64)) (l : List (Fin 64)) :
    ∃ t, retireTags s1 l shown w = .ok () t ∧ (∀ i : Fin 64, t.cur.tags[i] = if i ∈ l then .free else s.cur.tags[i]) ∧
      t.cur.copyq = s.cur.copyq.filter (fun i => !decide (i ∈ l)) ∧ SameMemory s t ∧
      (t.cur.bank s.cur.level).takes.head?.map (·.val) = some (maskOf shown) := by
  have hfree : OnlyFree s s1 := readS_only hx
  obtain ⟨honly, hq, htags⟩ := Core.retire_all l s.cur
  refine ⟨_, rfl, fun i => ?_, ?_, SameMemory.of_eq hfree.mem hfree.l2, ?_⟩
  · rw [State.cur_result_keeps _ _ _ _ (fun k => k.tags[i]) (fun _ _ _ _ _ => rfl), State.cur_upd, hfree.cur]
    exact htags i
  · rw [State.cur_result_keeps _ _ _ _ Core.copyq (fun _ _ _ _ _ => rfl), State.cur_upd, hfree.cur]
    exact hq
  · refine State.result_take _ _ 1 w ?_
    rw [State.cur_upd, hfree.cur]
    exact (congrArg Core.level honly :)

theorem twait_holds (h : ∃ i ∈ tagsOf s.pre x, isBusy s.pre.tags[i] = true) : Holds (.twait a w) s (.tags x) := by
  refine holds_of_hold rfl ?_
  rw [hx, SlotRes.bind_ok]
  rw [readS_pre hx, if_pos (List.any_eq_true.2 h)]

theorem twait_retires (h : ¬ ∃ i ∈ tagsOf s.pre x, isBusy s.pre.tags[i] = true) : exec (.twait a w) s = finish s
    (retireTags s1 (doneTags s x) ((doneTags s x).filter fun t => doneStatus s.pre.tags[t] ≠ some stOk) w) := by
  change finish s ((readS s a 0).bind _) = _
  rw [hx, SlotRes.bind_ok]
  rw [doneTags, doneTags, readS_pre hx, if_neg (fun h' => h (List.any_eq_true.1 h'))]

theorem twany_holds (hbusy : ∃ i ∈ tagsOf s.pre x, isBusy s.pre.tags[i] = true)
    (hdone : ¬ ∃ i ∈ tagsOf s.pre x, (doneStatus s.pre.tags[i]).isSome = true) : Holds (.twany a w) s (.tags x) := by
  refine holds_of_hold rfl ?_
  rw [hx, SlotRes.bind_ok]
  dsimp only
  rw [readS_pre hx, List.any_eq_true.2 hbusy, Bool.eq_false_iff.2 fun h => hdone (List.any_eq_true.1 h)]
  rfl

theorem twany_retires (h : (∃ i ∈ tagsOf s.pre x, (doneStatus s.pre.tags[i]).isSome = true) ∨
      ¬ ∃ i ∈ tagsOf s.pre x, isBusy s.pre.tags[i] = true) :
    exec (.twany a w) s = finish s (retireTags s1 (doneTags s x) (doneTags s x) w) := by
  change finish s ((readS s a 0).bind _) = _
  rw [hx, SlotRes.bind_ok]
  dsimp only
  rw [doneTags, doneTags, readS_pre hx, if_pos]
  rcases h with h | h
  · rw [List.any_eq_true.2 h, Bool.true_or]
  · rw [Bool.eq_false_iff.2 fun h' => h (List.any_eq_true.1 h'), Bool.not_false, Bool.or_true]

theorem tffr_none (h : ¬ ∃ i ∈ tagsOf s.pre x, (doneStatus s.pre.tags[i]).isSome = true) :
    Runs (.tffr a w) s (s1.result 64 1 w) := by
  have hnone : ((tagsOf s.pre x).find? fun t => (doneStatus s.pre.tags[t]).isSome) = none := by
    rw [List.find?_eq_none]
    exact fun i hi hd => h ⟨i, hi, hd⟩
  refine runs_of_ok rfl ?_
  rw [hx, SlotRes.bind_ok]
  dsimp only
  rw [readS_pre hx, hnone]

theorem tffr_some {i : Fin 64} {v : BitVec 8} (hi : i ∈ tagsOf s.pre x) (hv : doneStatus s.pre.tags[i] = some v)
    (hfirst : ∀ j : Fin 64, j.val < i.val → j ∉ doneTags s x) :
    Runs (.tffr a w) s ((s1.upd fun k => k.retire i).result (BitVec.ofNat 64 (i.val + 256 * v.toNat)) 1 w) := by
  have hsome : ((tagsOf s.pre x).find? fun t => (doneStatus s.pre.tags[t]).isSome) = some i := by
    rw [tagsOf, List.find?_filter, List.find?_eq_some_iff_getElem]
    rw [mem_tagsOf] at hi
    refine ⟨by rw [hi, hv]; rfl, i.val, by simp [i.isLt], by simp, fun j hj => ?_⟩
    have hnot := hfirst ⟨j, by omega⟩ hj
    rw [mem_doneTags, Bool.and_eq_true] at hnot
    rw [List.getElem_finRange, Bool.not_eq_true']
    exact decide_eq_false hnot
  refine runs_of_ok rfl ?_
  rw [hx, SlotRes.bind_ok]
  dsimp only
  rw [readS_pre hx, hsome]
  dsimp only
  rw [hv]
  rfl

theorem tclr_runs : Runs (.tclr a) s
    (s1.upd fun k => (tagsOf s.pre x).foldl (fun k t => clearTag k t s.pre.tags[t]) k) := by
  refine runs_of_ok rfl ?_
  rw [hx, SlotRes.bind_ok]
  rw [readS_pre hx]
  rfl

end

/-- Settles O16, instruction by instruction. -/
theorem tagInstructionsRetireTags : Obligations.TagInstructionsRetireTags := by
  unfold Obligations.TagInstructionsRetireTags
  intro s s1 a w x hx named st busy done retired gives ready
  have hfree : OnlyFree s s1 := readS_only hx
  have hbusy : busy ↔ ∃ i ∈ tagsOf s.pre x, isBusy s.pre.tags[i] = true := exists_congr fun i => and_congr mem_tagsOf.symm Iff.rfl
  have hdone : done ↔ ∃ i ∈ tagsOf s.pre x, (doneStatus s.pre.tags[i]).isSome = true :=
    exists_congr fun i => and_congr mem_tagsOf.symm Iff.rfl
  have hready : ∀ i, decide (i ∈ doneTags s x) = ready i := fun i => by
    rw [Bool.eq_iff_iff, decide_eq_true_iff, mem_doneTags]
  have hnamed : ∀ i, decide (i ∈ tagsOf s.pre x) = named i := fun i => by
    rw [Bool.eq_iff_iff, decide_eq_true_iff, mem_tagsOf]
  have hretired : ∀ t : State, (∀ i : Fin 64, t.cur.tags[i] = if i ∈ doneTags s x then .free else s.cur.tags[i]) →
      t.cur.copyq = s.cur.copyq.filter (fun i => !decide (i ∈ doneTags s x)) → retired ready t := fun t htags hq => by
    refine ⟨fun i => ?_, by rw [hq]; simp only [hready]⟩
    rw [htags, ← hready]
    simp only [decide_eq_true_eq]
  refine ⟨fun h => twait_holds hx (hbusy.1 h), fun h => ?_, fun h hd => twany_holds hx (hbusy.1 h) (fun h' => hd (hdone.2 h')),
    fun h => ?_, fun h => tffr_none hx (fun h' => h (hdone.2 h')), fun i v hn hv hfirst => ?_, ?_⟩
  · obtain ⟨t, ht, htags, hq, hm, htake⟩ := retireTags_shows (w := w) hx
      ((doneTags s x).filter fun t => doneStatus s.pre.tags[t] ≠ some stOk) (doneTags s x)
    refine ⟨t, runs_of_ok (twait_retires hx fun h' => h (hbusy.2 h')) ht, hretired t htags hq, hm, _, htake, fun i => ?_⟩
    rw [getLsbD_maskOf, ← hready]
    simp only [stOk, st, List.mem_filter, Bool.decide_and, Bool.decide_eq_true]
    rfl
  · obtain ⟨t, ht, htags, hq, hm, htake⟩ := retireTags_shows (w := w) hx (doneTags s x) (doneTags s x)
    refine ⟨t, runs_of_ok (twany_retires hx (h.imp hdone.1 fun hb h' => hb (hbusy.2 h'))) ht, hretired t htags hq, hm, _,
      htake, fun i => ?_⟩
    rw [getLsbD_maskOf, hready]
  · refine ⟨_, tffr_some hx (mem_tagsOf.2 hn) hv fun j hj h => ?_, ⟨fun j => ?_, ?_⟩, ?_, SameMemory.of_eq hfree.mem hfree.l2⟩
    · have hj' := hfirst j hj
      rw [← hready, decide_eq_false_iff_not] at hj'
      exact hj' h
    · rw [State.cur_result_keeps _ _ _ _ (fun k => k.tags[j]) (fun _ _ _ _ _ => rfl), State.cur_upd, hfree.cur]
      refine ((Core.retire_all [i] s.cur).2.2 j).trans ?_
      simp
    · rw [State.cur_result_keeps _ _ _ _ Core.copyq (fun _ _ _ _ _ => rfl), State.cur_upd, hfree.cur]
      refine (Core.retire_all [i] s.cur).2.1.trans (List.filter_congr fun j _ => ?_)
      rw [Bool.eq_iff_iff]
      simp
    · exact State.result_take _ _ 1 w (by rw [State.cur_upd, hfree.cur]; rfl)
  · obtain ⟨honly, hq, htags⟩ := clearTags_all (fun t => s.pre.tags[t]) (tagsOf s.pre x) s.cur
    have hcores := congrArg (fun v : State => { v with cores := s.cores }) hfree
    refine ⟨_, tclr_runs hx, SameMemory.of_eq hfree.mem hfree.l2, hcores, ?_, fun i => ?_⟩
    · rw [State.cur_upd, hfree.cur, hq]
      refine List.filter_congr fun i _ => ?_
      rw [hnamed]
    · rw [State.cur_upd, hfree.cur, htags]
      change (if i ∈ tagsOf s.pre x then _ else _) = if named i = true then _ else _
      simp only [mem_tagsOf]
      cases s.pre.tags[i] <;> rfl

end Sys2Proof.Machine
end

section
/-! The barrier instructions (R363, R365): what a reference names, and what is sent to its owner. -/

namespace Sys2Proof.Machine

theorem launchCore_of_free {s s' : State} (h : OnlyFree s s') (l : Option Nat) (j : Nat) : launchCore s' l j = launchCore s l j := by
  unfold launchCore
  rw [show s'.launches = s.launches from (congrArg State.launches h :)]

section
variable {α : Type} {s : State} {r : Word} {k : Fin 256 → Nat → SlotRes α}

theorem barRef_ok {off : Nat} {o : Fin 256} (hb : barrierOff s.pre.hdr (r.toNat % 2 ^ 16) = some off) (hr : r.toNat < 2 ^ 24)
    (ho : launchCore s s.pre.launch (r.toNat / 2 ^ 16 % 2 ^ 8) = some o) (hd : regionAt s.pre.hdr false off 64 = none) :
    barRef s r k = k o (r.toNat % 2 ^ 16) := by
  have hindex : bitsOf r.toNat 0 16 = r.toNat % 2 ^ 16 := by rw [bitsOf, Nat.pow_zero, Nat.div_one]
  rw [barRef]
  rw [hindex, hb, decide_eq_true hr]
  dsimp only
  rw [bitsOf, ho, hd]
  simp

theorem barRef_range (h : barrierOff s.pre.hdr (r.toNat % 2 ^ 16) = none ∨ 2 ^ 24 ≤ r.toNat) :
    barRef s r k = .trap (slotTrap s .barrierRange 0) := by
  have hindex : bitsOf r.toNat 0 16 = r.toNat % 2 ^ 16 := by rw [bitsOf, Nat.pow_zero, Nat.div_one]
  rw [barRef]
  rw [hindex]
  rcases h with h | h
  · rw [h]
    rfl
  · rw [decide_eq_false (by omega)]
    cases barrierOff s.pre.hdr (r.toNat % 2 ^ 16) <;> rfl

theorem barRef_target {off : Nat} (hb : barrierOff s.pre.hdr (r.toNat % 2 ^ 16) = some off) (hr : r.toNat < 2 ^ 24)
    (ho : launchCore s s.pre.launch (r.toNat / 2 ^ 16 % 2 ^ 8) = none) : barRef s r k = .trap (slotTrap s .msgTarget 0) := by
  have hindex : bitsOf r.toNat 0 16 = r.toNat % 2 ^ 16 := by rw [bitsOf, Nat.pow_zero, Nat.div_one]
  rw [barRef]
  rw [hindex, hb, decide_eq_true hr]
  dsimp only
  rw [bitsOf, ho]
  rfl

end

/-- What an operation on its way to a barrier is (R363). -/
theorem sendBar_sends {s n : State} (h : OnlyFree s n) (o : Fin 256) (index : Nat) (op : BarOp) (write : Bool) :
    SameMemory s (n.sendBar o index op write).2 ∧
    Sends s (n.sendBar o index op write).2 (.bar o index op) 0 fun m =>
      m.due = s.cycle + barLatency s.issue.core o ∧ m.id = n.nextId ∧ m.num = (if write then s.dieNum[dieOf s.issue.core] + 1 else 0) ∧
      m.clk = if write then s.cur.wc else s.cur.rc := by
  have hmemq : n.memq = s.memq := (congrArg State.memq h :)
  have hnum : n.dieNum = s.dieNum := (congrArg State.dieNum h :)
  have hcycle : n.cycle = s.cycle := (congrArg State.cycle h :)
  refine ⟨SameMemory.trans h.memory (n.send_memory _ _ _ _ _), _, (n.send_memq _ _ _ _ _).trans (congrArg (· ++ _) hmemq),
    State.sentOp_kind .., State.sentOp_dpa .., (State.sentOp_core ..).trans (congrArg Issue.core h.issue),
    State.sentOp_result .., ?_, State.sentOp_id .., ?_, ?_⟩
  · rw [State.sentOp_due, hcycle, h.issue]
  · rw [State.sentOp_num, hnum, h.issue]
  · change (if write then n.cur.wc else n.cur.rc) = _
    rw [h.cur]

section
variable {s s1 s2 : State} {a : SSpec} {b : SOpnd} {w : WReg} {x y : Word} (hx : readS s a 0 = .ok x s1)
include hx

/-- An instruction of one operand that goes through a barrier reference. -/
theorem barr_exec : exec (.barr a) s = finish s (barRef s1 x fun o index => .ok () (s1.sendBar o index .unit true).2) := by
  change finish s ((readS s a 0).bind _) = _
  rw [hx, SlotRes.bind_ok]

theorem binv_exec : exec (.binv a) s = finish s (barRef s1 x fun o index => .ok () (s1.sendBar o index .inv false).2) := by
  change finish s ((readS s a 0).bind _) = _
  rw [hx, SlotRes.bind_ok]

variable (hy : readSO s1 b 1 = .ok y s2)
include hy

theorem binit_exec : exec (.binit a b) s = finish s (barRef s2 x fun o index =>
    need s2 (y ≠ 0) .barrierRange 0 (.ok () (s2.sendBar o index (.init y) false).2)) := by
  change finish s ((readS s a 0).bind _) = _
  rw [hx, SlotRes.bind_ok, hy, SlotRes.bind_ok]

theorem btest_exec : exec (.btest a b w) s = finish s (barRef s2 x fun o index =>
    let sent := s2.sendBar o index (.test (y.setWidth 32) 0) false
    .ok () (sent.2.awaitLoad sent.1 (btestLatency sent.2.issue.core o) w x false)) := by
  change finish s ((readS s a 0).bind _) = _
  rw [hx, SlotRes.bind_ok, hy, SlotRes.bind_ok]

end

/-- Settles O17, by what the reference names. -/
theorem barrierInstructionsSendToOwner : Obligations.BarrierInstructionsSendToOwner := by
  unfold Obligations.BarrierInstructionsSendToOwner
  intro s s1 s2 a b w x y hx hy index c
  have hfree : OnlyFree s s1 := readS_only hx
  have hfree2 : OnlyFree s s2 := OnlyFree.trans hfree (readSO_only hy)
  have hpre : s1.pre = s.pre := readS_pre hx
  have hpre2 : s2.pre = s.pre := (readSO_pre hy).trans hpre
  refine ⟨fun off o hb hr ho hd => ?_, fun hrange => ?_, fun off hb hr ho => ?_⟩
  · have href : ∀ {k : Fin 256 → Nat → SlotRes Unit}, barRef s1 x k = k o index := fun {k} =>
      barRef_ok (hpre.symm ▸ hb) hr (by rw [launchCore_of_free hfree, hpre]; exact ho) (hpre.symm ▸ hd)
    have href2 : ∀ {k : Fin 256 → Nat → SlotRes Unit}, barRef s2 x k = k o index := fun {k} =>
      barRef_ok (hpre2.symm ▸ hb) hr (by rw [launchCore_of_free hfree2, hpre2]; exact ho) (hpre2.symm ▸ hd)
    refine ⟨fun hne => ?_, ?_, ?_, ?_, fun v hv => ?_, fun hv => ?_⟩
    · obtain ⟨hm, op, hq, hk, ha, hc, hres, hdue, _⟩ := sendBar_sends hfree2 o index (.init y) false
      exact ⟨_, runs_of_ok (binit_exec hx hy) (href2.trans (need_of (decide_eq_true hne))), hm, op, hq, hk, ha, hc, hres, hdue⟩
    · obtain ⟨hm, op, hq, hk, ha, hc, hres, hdue, _, hnum, hclk⟩ := sendBar_sends hfree o index .unit true
      exact ⟨_, runs_of_ok (barr_exec hx) href, hm, op, hq, hk, ha, hc, hres, hdue, hnum, hclk⟩
    · obtain ⟨hm, op, hq, hk, ha, hc, hres, hdue, _⟩ := sendBar_sends hfree o index .inv false
      exact ⟨_, runs_of_ok (binv_exec hx) href, hm, op, hq, hk, ha, hc, hres, hdue⟩
    · obtain ⟨hm, op, hq, hk, ha, hc, hres, hdue, hid, _⟩ := sendBar_sends hfree2 o index (.test (y.setWidth 32) 0) false
      have hsent : OnlySent s2 (s2.sendBar o index (.test (y.setWidth 32) 0) false).2 := State.send_sent ..
      refine ⟨_, runs_of_ok (btest_exec hx hy) href2, SameMemory.trans hm (State.awaitLoad_memory _ _ _ _ _ _), op, hq, hk, ha,
        hc, hres, hdue, ?_⟩
      rw [hid, show (s2.sendBar o index (.test (y.setWidth 32) 0) false).2.issue.core = c from
        congrArg Issue.core (hsent.issue.trans hfree2.issue)]
      exact State.awaitLoad_awaits ((hsent.cur_keeps Core.loads fun _ _ => rfl).trans (congrArg Core.loads hfree2.cur))
        ((hsent.cur_keeps Core.clk fun _ _ => rfl).trans (congrArg Core.clk hfree2.cur)) _ _ _ _ _
    · refine runs_of_ok rfl ?_
      rw [hx, SlotRes.bind_ok, hy, SlotRes.bind_ok]
      refine href2.trans ?_
      rw [hpre2, hv]
    · refine holds_of_hold rfl ?_
      rw [hx, SlotRes.bind_ok, hy, SlotRes.bind_ok]
      refine href2.trans ?_
      rw [hpre2, hv]
  · have hrange1 := hpre.symm ▸ hrange
    have hrange2 := hpre2.symm ▸ hrange
    exact ⟨raises_of_trap (barr_exec hx) (barRef_range hrange1), raises_of_trap (binv_exec hx) (barRef_range hrange1),
      raises_of_trap (binit_exec hx hy) (barRef_range hrange2), raises_of_trap (btest_exec hx hy) (barRef_range hrange2),
      raises_of_trap rfl (by rw [hx, SlotRes.bind_ok, hy, SlotRes.bind_ok]; exact barRef_range hrange2)⟩
  · exact raises_of_trap (barr_exec hx) (barRef_target (hpre.symm ▸ hb) hr (by rw [launchCore_of_free hfree, hpre]; exact ho))

end Sys2Proof.Machine
end

section
/-! The CSRs (R299-R302): what a read gives and what a write sets. -/

namespace Sys2Proof.Machine

/-! ### Reads (R300, R301) -/

theorem csrr_runs {s : State} {w : WReg} {i : BitVec 12} {v : Word} (h : csrRead s i.toNat = some v) :
    Runs (.csrr w i) s (s.result v 1 w) := by
  refine runs_of_ok rfl ?_
  rw [h]

theorem csrr_denied {s : State} {w : WReg} {i : BitVec 12} (h : csrRead s i.toNat = none) :
    Raises (.csrr w i) s (slotTrap s .csrAccess 0) := by
  refine raises_of_trap rfl ?_
  rw [h]
  rfl

/-- A mask with the bit of a tag, where the tag is done. -/
def Core.markDone (k : Core) (m : Word) (t : Fin 64) : Word :=
  if (doneStatus k.tags[t]).isSome then m ||| BitVec.ofNat 64 (2 ^ t.val) else m

theorem Core.tagDone_eq (k : Core) : k.tagDone = (List.finRange 64).foldl k.markDone 0 := by
  unfold Core.tagDone
  congr 1
  funext m t
  rw [Core.markDone]
  cases k.tags[t] <;> rfl

theorem Core.getLsbD_markDone (k : Core) (m : Word) (t i : Fin 64) : (k.markDone m t).getLsbD i.val =
    (m.getLsbD i.val || (decide (i = t) && (doneStatus k.tags[i]).isSome)) := by
  have hbit : (BitVec.ofNat 64 (2 ^ t.val)).getLsbD i.val = decide (i = t) := by
    rw [BitVec.getLsbD_ofNat, Nat.testBit_two_pow]
    simp [i.isLt, eq_comm, Fin.ext_iff]
  unfold Core.markDone
  by_cases h : i = t
  · subst h
    cases (doneStatus k.tags[i]).isSome with
    | true => rw [if_pos rfl, BitVec.getLsbD_or, hbit, Bool.and_true]
    | false => rw [if_neg Bool.false_ne_true, Bool.and_false, Bool.or_false]
  · split
    · rw [BitVec.getLsbD_or, hbit]
      simp [h]
    · simp [h]

/-- TAG_DONE has a bit for each tag that is done. -/
theorem Core.getLsbD_tagDone (k : Core) (i : Fin 64) : k.tagDone.getLsbD i.val = (doneStatus k.tags[i]).isSome := by
  have hfold : ∀ (l : List (Fin 64)) (m : Word), (l.foldl k.markDone m).getLsbD i.val =
      (m.getLsbD i.val || (decide (i ∈ l) && (doneStatus k.tags[i]).isSome)) := by
    intro l
    induction l with
    | nil => simp
    | cons t l ih =>
      intro m
      rw [List.foldl_cons, ih, k.getLsbD_markDone, Bool.or_assoc, ← Bool.and_or_distrib_right]
      congr 2
      simp
  rw [k.tagDone_eq, hfold]
  simp

/-- Settles O18, register by register. -/
theorem csrReadsGiveTheRegister : Obligations.CsrReadsGiveTheRegister := by
  unfold Obligations.CsrReadsGiveTheRegister
  intro s w k c n gives denied
  have hlevel : ∀ {i : BitVec 12} {f : TrapRegs → Word},
      csrRead s i.toNat = (if k.level = .u then none else some (f (k.trapRegs k.level))) →
      (k.level = .s → gives i (f k.trapS)) ∧ (k.level = .h → gives i (f k.trapH)) ∧ (k.level = .u → denied i) := by
    intro i f h
    refine ⟨fun hl => csrr_runs ?_, fun hl => csrr_runs ?_, fun hl => csrr_denied ?_⟩
    · rw [h, hl]; rfl
    · rw [h, hl]; rfl
    · rw [h, hl]; rfl
  obtain ⟨hs0, hh0, hu0⟩ := hlevel (i := 0x040) (f := TrapRegs.cause) rfl
  obtain ⟨hs1, hh1, hu1⟩ := hlevel (i := 0x041) (f := TrapRegs.pc) rfl
  obtain ⟨hs2, hh2, hu2⟩ := hlevel (i := 0x042) (f := TrapRegs.info) rfl
  refine ⟨csrr_runs rfl, csrr_runs rfl, csrr_runs rfl, csrr_runs rfl, csrr_runs rfl, csrr_runs rfl, csrr_runs rfl,
    csrr_runs rfl, csrr_runs rfl, csrr_runs rfl, ⟨_, csrr_runs rfl, k.getLsbD_tagDone⟩, fun i => csrr_runs ?_, csrr_runs rfl,
    csrr_runs rfl, csrr_runs rfl, csrr_runs rfl, csrr_runs rfl, csrr_runs rfl, csrr_runs rfl, csrr_runs rfl,
    fun hl => ⟨hs0 hl, hs1 hl, hs2 hl⟩, fun hl => ⟨hh0 hl, hh1 hl, hh2 hl⟩, fun hl => ⟨hu0 hl, hu1 hl, hu2 hl⟩,
    csrr_runs rfl, csrr_runs rfl, csrr_runs rfl, csrr_runs rfl, csrr_runs rfl, csrr_runs rfl, csrr_runs rfl,
    fun hl => csrr_runs ((if_pos hl : _)), fun hl => csrr_denied (if_neg hl)⟩
  fin_cases i <;> rfl

/-! ### Writes (R300) -/

/-- A field of a register is what a mask leaves (R4). -/
theorem masked_eq_and (v m : Word) (lo width : Nat)
    (h : ∀ i : Fin 64, m.getLsbD i.val = (decide (lo ≤ i.val) && decide (i.val < lo + width))) :
    masked v lo width = v &&& m := by
  apply BitVec.eq_of_getLsbD_eq
  intro i hi
  rw [BitVec.getLsbD_and, h ⟨i, hi⟩, masked, bitsOf, BitVec.getLsbD_ofNat, Nat.testBit_two_pow_mul,
    Nat.testBit_mod_two_pow, Nat.testBit_div_two_pow]
  by_cases hlo : lo ≤ i
  · have hsub : i - lo + lo = i := by omega
    have hlt : i - lo < width ↔ i < lo + width := by omega
    simp [hi, hlo, hsub, hlt, BitVec.testBit_toNat, Bool.and_comm]
  · simp [hlo]

section
variable {s s1 : State} {a : SSpec} {x : Word} (hx : readS s a 0 = .ok x s1) {i : BitVec 12}
include hx

theorem csrw_runs {t : State} (h : csrWrite s1 i.toNat x = .ok () t) : Runs (.csrw a i) s t := by
  refine runs_of_ok rfl ?_
  rw [hx, SlotRes.bind_ok, h]

theorem csrw_raises {c : Cause} (h : csrWrite s1 i.toNat x = .trap (slotTrap s1 c 0)) :
    Raises (.csrw a i) s (slotTrap s1 c 0) := by
  refine raises_of_trap rfl ?_
  rw [hx, SlotRes.bind_ok, h]

end

section
variable {s : State} (f : TrapRegs → TrapRegs)

theorem writeTrapReg_u (h : s.pre.level = .u) : writeTrapReg s f = .trap (slotTrap s .csrAccess 0) := by
  rw [writeTrapReg, h]
  rfl

theorem writeTrapReg_s (h : s.pre.level = .s) :
    writeTrapReg s f = .ok () (s.upd fun k => { k with trapS := f k.trapS }) := by
  rw [writeTrapReg, h]

theorem writeTrapReg_h (h : s.pre.level = .h) :
    writeTrapReg s f = .ok () (s.upd fun k => { k with trapH := f k.trapH }) := by
  rw [writeTrapReg, h]

/-- TRAP_VEC: both fields in H, SOFF elsewhere (R247, R413). -/
theorem writeTrapVec_h (v : Word) (h : s.pre.level = .h) : writeTrapVec s v =
    .ok () (s.upd fun k => { k with trapVec := v &&& 0x3FFFFFFFFFFFFFFF }) := by
  rw [← masked_eq_and v 0x3FFFFFFFFFFFFFFF 0 62 (by decide), writeTrapVec, h]

theorem writeTrapVec_low (v : Word) (h : s.pre.level = .s ∨ s.pre.level = .u ∧ s.pre.trapVec.toNat % 2 ^ 24 = 0) :
    writeTrapVec s v = .ok () (s.upd fun k =>
      { k with trapVec := (k.trapVec &&& 0x3FFFFFFFFF000000) ||| (v &&& 0xFFFFFF) }) := by
  have hset : s.upd (fun k => { k with trapVec := masked k.trapVec 24 38 ||| masked v 0 24 }) =
      s.upd fun k => { k with trapVec := (k.trapVec &&& 0x3FFFFFFFFF000000) ||| (v &&& 0xFFFFFF) } := by
    refine State.upd_congr ?_
    rw [masked_eq_and _ 0x3FFFFFFFFF000000 24 38 (by decide), masked_eq_and v 0xFFFFFF 0 24 (by decide)]
  have hsoff : s.pre.soff = s.pre.trapVec.toNat % 2 ^ 24 := by rw [Core.soff, bitsOf, Nat.pow_zero, Nat.div_one]
  rw [writeTrapVec]
  rcases h with h | ⟨h, hzero⟩
  · rw [h]
    exact congrArg _ hset
  · rw [h]
    exact (need_of (decide_eq_true (hsoff.trans hzero))).trans (congrArg _ hset)

theorem writeTrapVec_denied (v : Word) (h : s.pre.level = .u) (hv : s.pre.trapVec.toNat % 2 ^ 24 ≠ 0) :
    writeTrapVec s v = .trap (slotTrap s .csrAccess 0) := by
  have hsoff : s.pre.soff = s.pre.trapVec.toNat % 2 ^ 24 := by rw [Core.soff, bitsOf, Nat.pow_zero, Nat.div_one]
  rw [writeTrapVec, h]
  exact need_of_not (decide_eq_false (hsoff ▸ hv))

theorem writeMqBase_ok (v : Word) (hq : s.pre.mqTail = s.pre.mqHead)
    (hlen : 64 * (v.toNat / 64 % 2 ^ 15) + 64 * s.pre.hdr.mqMax ≤ 2 ^ 21)
    (hp : badPolder s.pre.hdr (64 * (v.toNat / 64 % 2 ^ 15)) (64 * s.pre.hdr.mqMax) = none)
    (hd : regionAt s.pre.hdr false (64 * (v.toNat / 64 % 2 ^ 15)) (64 * s.pre.hdr.mqMax) = none) :
    writeMqBase s v = .ok () (s.upd fun k => { k with mqBase := v &&& 0x80000000001FFFC0 }) := by
  have hbase : bitsOf v.toNat 6 15 = v.toNat / 64 % 2 ^ 15 := rfl
  have hmask : masked v 6 15 ||| masked v 63 1 = v &&& 0x80000000001FFFC0 := by
    rw [masked_eq_and v 0x1FFFC0 6 15 (by decide), masked_eq_and v 0x8000000000000000 63 1 (by decide),
      ← BitVec.and_or_distrib_left]
    rfl
  rw [writeMqBase, hbase, hmask]
  refine (need_of (decide_eq_true hq)).trans ((need_of (decide_eq_true hlen)).trans ?_)
  rw [hp, hd]
  rfl

end

section
variable {s : State} (t : Fin 8) (v : Word) (hb : tileBusy s s.issue.core t = false)
include hb

theorem writeTcfg_release (h : v.toNat % 256 = 0) : writeTcfg s t v =
    .ok () (s.upd fun k => { k.renewWords (.tile t) 0 16896 with tiles := k.tiles.set t Tile.reset }) := by
  have hrows : tcfgRows v = 0 := by rw [tcfgRows, bitsOf, Nat.pow_zero, Nat.div_one]; exact h
  rw [writeTcfg]
  refine (need_of (by rw [hb]; rfl)).trans ?_
  rw [if_pos hrows]

theorem writeTcfg_set (h : tcfgOk v = true) : writeTcfg s t v =
    .ok () (s.upd fun k => { k with tiles := k.tiles.set t { (k.tiles[t]) with cfg := v &&& 0xFFFFF } }) := by
  have hrows : tcfgRows v ≠ 0 := by
    simp only [tcfgOk, Bool.and_eq_true, decide_eq_true_eq] at h
    omega
  rw [writeTcfg]
  refine (need_of (by rw [hb]; rfl)).trans ?_
  rw [if_neg hrows, need_of h, masked_eq_and v 0xFFFFF 0 20 (by decide)]

theorem writeTcfg_refused (hr : v.toNat % 256 ≠ 0) (h : tcfgOk v = false) :
    writeTcfg s t v = .trap (slotTrap s .tileConfig 0) := by
  have hrows : tcfgRows v ≠ 0 := by rw [tcfgRows, bitsOf, Nat.pow_zero, Nat.div_one]; exact hr
  rw [writeTcfg]
  refine (need_of (by rw [hb]; rfl)).trans ?_
  rw [if_neg hrows, need_of_not h]

end

theorem csrWrite_pc (s : State) (v : Word) : csrWrite s (0x041 : BitVec 12).toNat v =
    writeTrapReg s fun r => { r with pc := v &&& 0xFFFFFFFFFC } := by
  rw [← masked_eq_and v 0xFFFFFFFFFC 2 38 (by decide)]
  rfl

theorem csrWrite_info (s : State) (v : Word) : csrWrite s (0x042 : BitVec 12).toNat v =
    writeTrapReg s fun r => { r with info := v } := rfl

theorem csrWrite_vec (s : State) (v : Word) : csrWrite s (0x043 : BitVec 12).toNat v = writeTrapVec s v := rfl

theorem csrWrite_queue (s : State) (v : Word) : csrWrite s (0x050 : BitVec 12).toNat v = writeMqBase s v := rfl

theorem tileBusy_of_free {s s' : State} (h : OnlyFree s s') (c : Fin 256) (t : Fin 8) : tileBusy s' c t = tileBusy s c t := by
  rw [tileBusy, tileBusy, h.coreAt, h.issue, show s'.cmds = s.cmds from (congrArg State.cmds h :)]

/-- The numbers of the tile configurations. -/
theorem csrWrite_tile (s : State) (t : Fin 8) (v : Word) :
    csrWrite s (0x020 + BitVec.ofNat 12 t.val).toNat v = writeTcfg s t v := by
  fin_cases t <;> rfl

/-- Settles O19, register by register. -/
theorem csrWritesSetWritableBits : Obligations.CsrWritesSetWritableBits := by
  unfold Obligations.CsrWritesSetWritableBits
  refine ⟨fun s s1 a x hx => ⟨fun i hi => csrw_runs hx ?_, fun hl => csrw_runs hx ?_⟩, ?_⟩
  · simp only [List.mem_cons, List.not_mem_nil, or_false] at hi
    rcases hi with rfl | rfl | rfl | rfl | rfl | rfl | rfl | rfl | rfl | rfl | rfl | rfl | rfl | rfl | rfl | rfl <;> rfl
  · exact need_of (decide_eq_true ((readS_pre hx).symm ▸ hl))
  · intro s s1 a x hx k sets denied inS
    have hpre : s1.pre = k := readS_pre hx
    have hlow3 : bitsOf x.toNat 0 3 = x.toNat % 8 := by rw [bitsOf, Nat.pow_zero, Nat.div_one]; rfl
    have hlow6 : bitsOf x.toNat 0 6 = x.toNat % 64 := by rw [bitsOf, Nat.pow_zero, Nat.div_one]; rfl
    refine ⟨fun h => csrw_runs hx ?_, fun h => csrw_raises hx ?_, csrw_runs hx rfl, csrw_runs hx ?_, csrw_runs hx rfl,
      fun h => ⟨csrw_runs hx ?_, csrw_runs hx ?_, csrw_runs hx ?_⟩, fun h => ?_, fun h => ?_, fun h => ?_,
      fun h => csrw_runs hx ?_, fun h => csrw_runs hx ?_, fun h hv => csrw_raises hx ?_, fun h => csrw_runs hx ?_,
      fun h => csrw_raises hx ?_, fun h hle => csrw_runs hx ?_, fun h => csrw_raises hx ?_,
      fun hq hb hp hr => csrw_runs hx ?_, fun h => csrw_raises hx ?_, fun i hb => ?_⟩
    · exact (need_of (decide_eq_true (by rw [hlow3]; exact h))).trans (by rw [masked_eq_and x 7 0 3 (by decide)])
    · exact need_of_not (decide_eq_false (by rw [hlow3]; omega))
    · exact congrArg (SlotRes.ok ()) (by rw [masked_eq_and x 1 0 1 (by decide)])
    · exact (need_of (decide_eq_true (hpre ▸ h))).trans (by rw [masked_eq_and x 0xFFFFFFFFFFC0 6 42 (by decide)])
    · exact (need_of (decide_eq_true (hpre ▸ h))).trans (by rw [masked_eq_and x 0xFFFFFFFFFFC0 6 42 (by decide)])
    · exact (need_of (decide_eq_true (hpre ▸ h))).trans (by rw [masked_eq_and x 0xFFFFFFFFFFF0 4 44 (by decide)])
    · have hu : s1.pre.level = .u := hpre ▸ not_not.1 h
      have hno : decide (s1.pre.level ≠ .u) = false := decide_eq_false (not_not.2 hu)
      refine ⟨csrw_raises hx (need_of_not hno), csrw_raises hx (need_of_not hno), csrw_raises hx (need_of_not hno),
        csrw_raises hx (need_of_not hno), csrw_raises hx ((csrWrite_pc s1 x).trans (writeTrapReg_u _ hu)),
        csrw_raises hx ((csrWrite_info s1 x).trans (writeTrapReg_u _ hu))⟩
    · exact ⟨csrw_runs hx ((csrWrite_pc s1 x).trans (writeTrapReg_s _ (hpre ▸ h))),
        csrw_runs hx ((csrWrite_info s1 x).trans (writeTrapReg_s _ (hpre ▸ h)))⟩
    · exact ⟨csrw_runs hx ((csrWrite_pc s1 x).trans (writeTrapReg_h _ (hpre ▸ h))),
        csrw_runs hx ((csrWrite_info s1 x).trans (writeTrapReg_h _ (hpre ▸ h)))⟩
    · exact (csrWrite_vec s1 x).trans (writeTrapVec_h x (hpre ▸ h))
    · exact (csrWrite_vec s1 x).trans (writeTrapVec_low x (hpre ▸ h))
    · exact (csrWrite_vec s1 x).trans (writeTrapVec_denied x (hpre ▸ h) (hpre ▸ hv))
    · exact (need_of (decide_eq_true (hpre ▸ h))).trans (by rw [masked_eq_and x 0xFFFFFFFF 0 32 (by decide)])
    · exact need_of_not (decide_eq_false (hpre ▸ h))
    · refine (need_of ?_).trans (by rw [hlow6])
      rw [hlow6, hpre, decide_eq_true h, decide_eq_true hle]
      rfl
    · refine need_of_not ?_
      rw [hlow6, hpre]
      rcases h with h | h
      · rw [decide_eq_false h, Bool.false_and]
      · rw [decide_eq_false (p := x.toNat % 64 ≤ 32) (by omega), Bool.and_false]
    · exact (csrWrite_queue s1 x).trans (writeMqBase_ok x (hpre ▸ hq) (hpre ▸ hb) (hpre ▸ hp) (hpre ▸ hr))
    · exact need_of_not (decide_eq_false (hpre ▸ h))
    · have hbusy : tileBusy s1 s1.issue.core i = false := by
        rw [readS_issue hx, tileBusy_of_free (readS_only hx)]
        exact hb
      have hset := csrWrite_tile s1 i x
      exact ⟨fun h => csrw_runs hx (hset.trans (writeTcfg_release i x hbusy h)),
        fun h => csrw_runs hx (hset.trans (writeTcfg_set i x hbusy h)),
        fun hr h => csrw_raises hx (hset.trans (writeTcfg_refused i x hbusy hr h))⟩

end Sys2Proof.Machine
end

section
/-! Stream bindings (R303-R305) and launches from a core (R306). -/

namespace Sys2Proof.Machine

/-- What differs at most in the free values drawn is the state with another count of them. -/
theorem OnlyFree.exists_eq {s s' : State} (h : OnlyFree s s') : ∃ n, s' = (fun s : State => { s with free := n }) s :=
  ⟨s'.free, (congrArg (fun v : State => { v with free := s'.free }) h :)⟩

/-! ### SBIND and SUNBIND -/

/-- What a stream is bound to (R303). -/
def boundTo (s : State) (wr : Bool) (a : Word) (off : Nat) : Stream :=
  { bound := true, wr := wr, diff := false, block := readBlock s.pre off, add := a, pos := 0, moved := 0,
    next := s.cycle + 3, buf := [] }

section
variable {s : State} {wr : Bool} {a : Word} {off : Nat} {i : Fin 8}

theorem doBind_range (h : s.pre.spillLimit < off + 64) : doBind s wr a off i = .trap (slotTrap s .spillRange 0) := by
  rw [doBind]
  exact need_of_not (decide_eq_false (by omega))

variable (h : off + 64 ≤ s.pre.spillLimit) (hsound : s.pre.failedWord .spill off 64 = none)
  (hb : blockCause (s.pre.spill.readBytes off 64) a = none)
include h hsound hb

theorem doBind_binds (hd : ((s.pre.streams[i]).bound && (s.pre.streams[i]).wr && !(s.pre.streams[i]).buf.isEmpty) = false) :
    doBind s wr a off i = .ok () (s.bindLater i ((fun st : Stream =>
      { st with diff := firstTouches s.pre (boundTo s wr a off) }) (boundTo s wr a off))) := by
  have hb' : blockCause (readBlock s.pre off) a = none := hb
  rw [doBind]
  refine (need_of (decide_eq_true h)).trans ((soundSpill_ok hsound).trans ?_)
  rw [hb']
  exact if_neg (by rw [hd]; exact Bool.false_ne_true)

theorem doBind_holds (hd : ((s.pre.streams[i]).bound && (s.pre.streams[i]).wr && !(s.pre.streams[i]).buf.isEmpty) = true) :
    doBind s wr a off i = .hold (.stream i) := by
  have hb' : blockCause (readBlock s.pre off) a = none := hb
  rw [doBind]
  refine (need_of (decide_eq_true h)).trans ((soundSpill_ok hsound).trans ?_)
  rw [hb']
  exact if_pos hd

end

/-- A bound write stream that has vectors to drain. -/
theorem draining_iff (st : Stream) : (st.bound && st.wr && !st.buf.isEmpty) = true ↔
    st.bound = true ∧ st.wr = true ∧ st.buf ≠ [] := by
  rw [Bool.and_eq_true, Bool.and_eq_true, Bool.not_eq_true', List.isEmpty_eq_false_iff, and_assoc]

/-! ### LNCH -/

theorem isLnch_eq (x : LaunchSource) : isLnch x = decide (x = .lnch) := by cases x <;> rfl

theorem waitingIn_lnch (s : State) (part : Nat) :
    waitingIn s part isLnch = s.launches.filter fun l => l.part = part && l.state = .queued && l.source = .lnch := by
  rw [waitingIn]
  exact List.filter_congr fun l _ => by rw [isLnch_eq]

section
variable {s s1 : State} {a : SSpec} {w : WReg} {x : Word} (hx : readS s a 0 = .ok x s1)
include hx

theorem sbindRd_exec (off : BitVec 8) (i : Fin 8) :
    exec (.sbindRd a off i) s = finish s (doBind s1 false x (64 * off.toNat) i) := by
  change finish s ((readS s a 0).bind _) = _
  rw [hx, SlotRes.bind_ok]

theorem sbindWr_exec (off : BitVec 8) (i : Fin 8) :
    exec (.sbindWr a off i) s = finish s (doBind s1 true x (64 * off.toNat) i) := by
  change finish s ((readS s a 0).bind _) = _
  rw [hx, SlotRes.bind_ok]

variable (hal : x.toNat % 64 = 0) (hrange : x.toNat + 64 ≤ s.pre.spillLimit)
include hal hrange

theorem lnch_full (h : 16 ≤ (waitingIn s s.pre.part isLnch).length) : Raises (.lnch a w) s (slotTrap s1 .lnchFull 0) := by
  obtain ⟨n, rfl⟩ := OnlyFree.exists_eq (readS_only hx)
  refine raises_of_trap rfl ?_
  rw [hx, SlotRes.bind_ok]
  refine (need_of (decide_eq_true hal)).trans ((need_of (decide_eq_true hrange)).trans (need_of_not (decide_eq_false ?_)))
  exact Nat.not_lt.2 h

variable (hroom : (waitingIn s s.pre.part isLnch).length < 16) (hsound : s.pre.failedWord .spill x.toNat 64 = none)
include hroom hsound

theorem lnch_refused {c : Nat} (hc : recordReason s s.pre.part 10 (s.pre.spill.readBytes x.toNat 64) = some c) :
    Runs (.lnch a w) s (s1.result (BitVec.ofNat 64 c) 16 w) := by
  obtain ⟨n, rfl⟩ := OnlyFree.exists_eq (readS_only hx)
  refine runs_of_ok rfl ?_
  rw [hx, SlotRes.bind_ok]
  refine (need_of (decide_eq_true hal)).trans ((need_of (decide_eq_true hrange)).trans ((need_of (decide_eq_true hroom)).trans
    ((soundSpill_ok hsound).trans ?_)))
  change (match recordReason s s.pre.part 10 (s.pre.spill.readBytes x.toNat 64) with
    | some c => _
    | none => _) = _
  rw [hc]

theorem lnch_queues (hc : recordReason s s.pre.part 10 (s.pre.spill.readBytes x.toNat 64) = none) :
    Runs (.lnch a w) s ((s1.queueLaunch (launchOfRecord s1 s.pre.part .lnch (s.pre.spill.readBytes x.toNat 64)
      ((s.memq.filter fun o => o.core = s.issue.core && o.num ≠ 0 && o.result.isNone).map (·.id)))).result 0 16 w) := by
  obtain ⟨n, rfl⟩ := OnlyFree.exists_eq (readS_only hx)
  refine runs_of_ok rfl ?_
  rw [hx, SlotRes.bind_ok]
  refine (need_of (decide_eq_true hal)).trans ((need_of (decide_eq_true hrange)).trans ((need_of (decide_eq_true hroom)).trans
    ((soundSpill_ok hsound).trans ?_)))
  change (match recordReason s s.pre.part 10 (s.pre.spill.readBytes x.toNat 64) with
    | some c => _
    | none => _) = _
  rw [hc]
  rfl

end

/-- Settles O20, by what the block, the stream and the record allow. -/
theorem streamBindingAndLnchEffects : Obligations.StreamBindingAndLnchEffects := by
  unfold Obligations.StreamBindingAndLnchEffects
  constructor
  · intro s s1 a x off i hx b old draining bindTo
    have hpre : s1.pre = s.pre := readS_pre hx
    have hfree : OnlyFree s s1 := readS_only hx
    have hbinds : ∀ wr, 64 * off.toNat + 64 ≤ s.pre.spillLimit → s.pre.failedWord .spill (64 * off.toNat) 64 = none →
        blockCause b x = none → ¬ draining → ∃ t, doBind s1 wr x (64 * off.toNat) i = .ok () t ∧ bindTo wr t := by
      intro wr hr hs hb hd
      refine ⟨_, doBind_binds (hpre ▸ hr) (hpre ▸ hs) (hpre ▸ hb) ?_,
        (fun st : Stream => { st with diff := firstTouches s1.pre (boundTo s1 wr x (64 * off.toNat)) })
          (boundTo s1 wr x (64 * off.toNat)), ?_, rfl, rfl, ?_, rfl, rfl, rfl, rfl, ?_, ?_, ?_, ?_⟩
      · rw [hpre]
        exact Bool.eq_false_iff.2 fun h => hd ((draining_iff _).1 h)
      · rw [← hfree.issue]
        rfl
      · exact congrArg (fun k => readBlock k (64 * off.toNat)) hpre
      · rw [← hpre]
        rfl
      · rw [← show s1.cycle = s.cycle from (congrArg State.cycle hfree :)]
        rfl
      · exact hfree.cores
      · exact SameMemory.of_eq hfree.mem hfree.l2
    have hholds : ∀ wr, 64 * off.toNat + 64 ≤ s.pre.spillLimit → s.pre.failedWord .spill (64 * off.toNat) 64 = none →
        blockCause b x = none → draining → doBind s1 wr x (64 * off.toNat) i = .hold (.stream i) := by
      intro wr hr hs hb hd
      refine doBind_holds (hpre ▸ hr) (hpre ▸ hs) (hpre ▸ hb) ?_
      rw [hpre]
      exact (draining_iff _).2 hd
    refine ⟨fun hr hs hb hd => ?_, fun hr hs hb hd => ?_, fun hr => ?_, fun hu => runs_of_ok rfl ?_, fun hd => holds_of_hold rfl ?_,
      fun hbound hd => ?_⟩
    · obtain ⟨t, ht, hrd⟩ := hbinds false hr hs hb hd
      obtain ⟨t', ht', hwr⟩ := hbinds true hr hs hb hd
      exact ⟨⟨t, runs_of_ok (sbindRd_exec hx off i) ht, hrd⟩, t', runs_of_ok (sbindWr_exec hx off i) ht', hwr⟩
    · exact ⟨holds_of_hold (sbindRd_exec hx off i) (hholds false hr hs hb hd),
        holds_of_hold (sbindWr_exec hx off i) (hholds true hr hs hb hd)⟩
    · exact ⟨raises_of_trap (sbindRd_exec hx off i) (doBind_range (hpre ▸ hr)),
        raises_of_trap (sbindWr_exec hx off i) (doBind_range (hpre ▸ hr))⟩
    · exact if_pos (by rw [show (s.pre.streams[i]).bound = false from hu]; rfl)
    · obtain ⟨hb, hw, hbuf⟩ := hd
      refine (if_neg ?_).trans (if_pos ?_)
      · rw [show (s.pre.streams[i]).bound = true from hb]
        exact Bool.false_ne_true
      · rw [show (s.pre.streams[i]).wr = true from hw, List.isEmpty_eq_false_iff.2 hbuf]
        rfl
    · refine ⟨s.bindLater i Stream.reset, runs_of_ok rfl ((if_neg ?_).trans (if_neg ?_)), rfl, rfl, SameMemory.of_eq rfl rfl⟩
      · rw [show (s.pre.streams[i]).bound = true from hbound]
        exact Bool.false_ne_true
      · intro h
        refine hd ((draining_iff _).1 ?_)
        rw [Bool.and_eq_true] at h
        rw [show (s.pre.streams[i]).bound = true from hbound, Bool.true_and, h.1, h.2]
        rfl
  · intro s s1 a w x hx r part waiting hal hrange sound
    have hfree : OnlyFree s s1 := readS_only hx
    have hwait : (waitingIn s s.pre.part isLnch).length = waiting := by rw [waitingIn_lnch]
    refine ⟨fun hroom hs hr => ⟨_, lnch_queues hx hal hrange (hwait ▸ hroom) hs hr,
        ⟨launchOfRecord s1 part .lnch r ((s.memq.filter fun o => o.core = s.issue.core && o.num ≠ 0 && o.result.isNone).map (·.id)),
          ?_, rfl, rfl, rfl, rfl, rfl, rfl, rfl, rfl, rfl⟩, ?_, SameMemory.of_eq hfree.mem hfree.l2⟩,
      fun hroom hs c hr => lnch_refused hx hal hrange (hwait ▸ hroom) hs hr, fun hfull => lnch_full hx hal hrange (hwait ▸ hfull)⟩
    · rw [← show s1.launches = s.launches from (congrArg State.launches hfree :)]
      rfl
    · rw [State.cur_result, State.cur_result, ← hfree.cur]
      rfl

end Sys2Proof.Machine
end

section
/-! The rewind mode and the adjoint cells (R236, R237, R307, R308). -/

namespace Sys2Proof.Machine

/-! ### DMODE -/

/-- What DMODE waits for: a full fence at CORE and the differentiable accesses of the core and its engines (R237). -/
theorem dmode_waits_iff (s : State) (c : Fin 256) : (diffDone s c && fenceMet s c 3 1) = true ↔
    pendDiff s c = false ∧ pendDiffCmd s c = false ∧ readsLanded (s.coreAt c) = true ∧ writesDone s c = true ∧
      streamsDrained (s.coreAt c) = true := by
  have hfence := fenceMet_iff s c 3 1
  have h3 : (3 : BitVec 2).toNat = 3 := rfl
  have h1 : (1 : BitVec 4).toNat = 1 := rfl
  rw [h3, h1] at hfence
  rw [Bool.and_eq_true, hfence, diffDone, Bool.and_eq_true, Bool.not_eq_true', Bool.not_eq_true']
  simp [and_assoc]

section
variable {s : State} (hstreams : ∀ i : Fin 8, ((s.pre.streams[i]).bound && (s.pre.streams[i]).diff) = false) (rew : Bool)
include hstreams

theorem setMode_eq : setMode s rew = if !(diffDone s s.issue.core && fenceMet s s.issue.core 3 1) then .hold .fence
    else .ok () (((s.applyCore s.issue.core).upd Core.mergeAll).upd fun k =>
      { k with dmode := k.dmode &&& 2 ||| (if rew then 1 else 0) }) := by
  have hnone : ((List.finRange 8).find? fun i => (s.pre.streams[i]).bound && (s.pre.streams[i]).diff) = none :=
    List.find?_eq_none.2 fun i _ => Bool.eq_false_iff.1 (hstreams i)
  rw [setMode, hnone]

/-- What DMODE leaves: the mode, with the level and the scratchpad as they were. -/
theorem setMode_sets (hq : (diffDone s s.issue.core && fenceMet s s.issue.core 3 1) = true) : ∃ t, setMode s rew = .ok () t ∧
    t.cur.dmode = s.cur.dmode &&& 2 ||| (if rew then 1 else 0) ∧ t.cur.level = s.cur.level ∧ t.cur.spad = s.cur.spad := by
  have happly := s.applyCore_memorySide s.issue.core
  refine ⟨_, (setMode_eq hstreams rew).trans (if_neg (by rw [hq]; exact Bool.false_ne_true)), ?_⟩
  rw [State.cur_upd, State.cur_upd]
  have hmode : (s.applyCore s.issue.core).cur.dmode = s.cur.dmode := happly.cur_keeps Core.dmode fun _ _ _ => rfl
  have hlevel : (s.applyCore s.issue.core).cur.level = s.cur.level := happly.cur_keeps Core.level fun _ _ _ => rfl
  have hspad : (s.applyCore s.issue.core).cur.spad = s.cur.spad := happly.cur_keeps Core.spad fun _ _ _ => rfl
  generalize (s.applyCore s.issue.core).cur = k at hmode hlevel hspad
  rw [← hmode, ← hlevel, ← hspad]
  exact ⟨rfl, rfl, rfl⟩

theorem setMode_holds (hq : ¬ (diffDone s s.issue.core && fenceMet s s.issue.core 3 1) = true) : setMode s rew = .hold .fence :=
  (setMode_eq hstreams rew).trans (if_pos (by rw [Bool.eq_false_iff.2 hq]; rfl))

end

/-! ### ADJRD and ADJCLR -/

section
variable {s s1 s2 : State} {a : SSpec} {b : SOpnd} {w : WReg} {sp : Bool} {x y : Word} (hx : readS s a 0 = .ok x s1)
  (hy : readSO s1 b 1 = .ok y s2)
include hx hy

theorem adjrd_exec : exec (.adjrd a b w sp) s = finish s (adjAccess s2 sp false (x + y) w) := by
  change finish s ((readS s a 0).bind _) = _
  rw [hx, SlotRes.bind_ok, hy, SlotRes.bind_ok]

theorem adjclr_exec : exec (.adjclr a b w sp) s = finish s (adjAccess s2 sp true (x + y) w) := by
  change finish s ((readS s a 0).bind _) = _
  rw [hx, SlotRes.bind_ok, hy, SlotRes.bind_ok]

end

section
variable {s : State} {sp clear : Bool} {a : Word} {w : WReg} (hdone : diffDone s s.issue.core = true) {r : DiffRegion}
include hdone

theorem adjAccess_spad {off : Nat} (ht : adjTarget s sp clear a = .ok (.spad r off)) (hh : spadHold s (r.cell off) 4 = none)
    (hf : s.cur.failedLine (r.cell off) 4 = none) : adjAccess s sp clear a w = .ok () ((if clear then
        s.upd fun k => { k with spad := (readClear s.cur.spad r (r.cell off)).2 } else s).result
      (BitVec.ofNat 64 (readClear s.cur.spad r (r.cell off)).1) 4 w) := by
  rw [adjAccess, ht]
  dsimp only
  rw [hdone]
  exact (orHold_of hh).trans (soundSpad_ok hf)

/-- Who reads or clears a cell of memory: the core, for its context. -/
def cellReq (s : State) : Req := ⟨s.pre.tag, s.pre.part, some (s.pre.launch, s.issue.core), .any⟩

theorem adjAccess_hbm {p : Phys} (ht : adjTarget s sp clear a = .ok (.hbm r p))
    (hq : diffQuiet s s.issue.core (homeDie s s.pre.part p.addr p.mtype) = true)
    (hw : reqWaits s (cellReq s) p.addr (p.mtype ≠ 0) (if clear then .atomic else .read) = false)
    (hf : sideFault s s.pre.tag p.addr (p.mtype ≠ 0) = none) : adjAccess s sp clear a w =
      .ok () ((if clear then s.clearCell (cellReq s) r p else s.seeCell (cellReq s) r p).2.result
        (BitVec.ofNat 64 (if clear then s.clearCell (cellReq s) r p else s.seeCell (cellReq s) r p).1) 4 w) := by
  unfold cellReq at *
  rw [adjAccess, ht]
  dsimp only
  rw [hdone, hq, hw, hf]
  rfl

end

theorem State.put_cores (s : State) (tag a : Nat) (bs : List Byte) (side : Bool) : (s.put tag a bs side).cores = s.cores := by
  cases side with
  | true => rfl
  | false =>
    unfold State.put State.poke
    rw [if_neg Bool.false_ne_true]
    split <;> rfl

/-- Settles O21, instruction by instruction. -/
theorem differentiationEffects : Obligations.DifferentiationEffects := by
  unfold Obligations.DifferentiationEffects
  constructor
  · intro s c quiet hstreams
    have hquiet : quiet ↔ (diffDone s s.issue.core && fenceMet s s.issue.core 3 1) = true := (dmode_waits_iff s c).symm
    refine ⟨fun h => ?_, fun h => ?_⟩
    · obtain ⟨t, ht, hmode, hrest⟩ := setMode_sets hstreams false (hquiet.1 h)
      obtain ⟨u, hu, hmode', hrest'⟩ := setMode_sets hstreams true (hquiet.1 h)
      exact ⟨⟨t, runs_of_ok rfl ht, hmode.trans (by simp), hrest⟩, u, runs_of_ok rfl hu, hmode', hrest'⟩
    · exact ⟨holds_of_hold rfl (setMode_holds hstreams false fun h' => h (hquiet.2 h')),
        holds_of_hold rfl (setMode_holds hstreams true fun h' => h (hquiet.2 h'))⟩
  · intro s s1 s2 a b w sp x y hx hy hp hpc value cell
    have hfree : OnlyFree s s2 := OnlyFree.trans (readS_only hx) (readSO_only hy)
    have hissue : s2.issue = s.issue := hfree.issue
    have hpre : s2.pre = s.pre := (readSO_pre hy).trans (readS_pre hx)
    have hdone : diffDone s2 s2.issue.core = true := by
      obtain ⟨n, rfl⟩ := hfree.exists_eq
      change (!pendDiff s s.issue.core && !pendDiffCmd s s.issue.core) = true
      rw [hp, hpc]
      rfl
    refine ⟨fun r off ht hh hf => ?_, fun r off ht hh hf => ?_, fun r p clear ht hq => ?_⟩
    · refine runs_of_ok (adjrd_exec hx hy) ((adjAccess_spad hdone ht hh hf).trans ?_)
      rw [if_neg Bool.false_ne_true, hfree.cur]
      rfl
    · refine ⟨_, runs_of_ok (adjclr_exec hx hy) (adjAccess_spad hdone ht hh hf), ?_, ?_, ?_, ?_⟩
      · rw [if_pos rfl, hfree.cur]
        exact State.result_take _ _ 4 w (by rw [State.cur_upd, hfree.cur])
      · rw [if_pos rfl, State.cur_result_keeps _ _ _ _ Core.spad (fun _ _ _ _ _ => rfl), State.cur_upd, hfree.cur]
        exact stored_writeBytes s.cur.spad (r.cell off) 4 0
      · exact SameMemory.of_eq hfree.mem hfree.l2
      · intro d hd
        have hd' : d ≠ s2.issue.core := by rw [hissue]; exact hd
        rw [if_pos rfl]
        exact (State.upd_coreAt_ne (s2.upd _) _ hd').trans ((State.upd_coreAt_ne s2 _ hd').trans (hfree.coreAt d))
    · intro side q use hw hf u v
      have hreq : cellReq s2 = q := by rw [cellReq, hpre, hissue]
      have hstep := adjAccess_hbm (w := w) hdone ht (by rw [hissue, hpre]; exact hq) (by rw [hreq]; exact hw)
        (by rw [hpre]; exact hf)
      rw [hreq] at hstep
      cases clear with
      | true =>
        refine ⟨_, State.put_storedFor u q.tag p.addr [0, 0, 0, 0] side, State.put_cores _ _ _ _ _, ?_⟩
        exact runs_of_ok (adjclr_exec hx hy) hstep
      | false => exact runs_of_ok (adjrd_exec hx hy) hstep

end Sys2Proof.Machine
end

section
/-! The hypervisor's instructions (R246, R273, R309-R312). -/

namespace Sys2Proof.Machine

theorem needH_u {α : Type} {s : State} (k : SlotRes α) (h : s.pre.level ≠ .h) : needH s k = .trap (slotTrap s .privileged 0) := by
  rw [needH]
  exact need_of_not (decide_eq_false h)

theorem needH_h {α : Type} {s : State} (k : SlotRes α) (h : s.pre.level = .h) : needH s k = k := by
  rw [needH]
  exact need_of (decide_eq_true h)

/-! ### TLBINV -/

section
variable {s : State} {kind : Nat} {x y : Word} {w : WReg}

theorem tlbinv_answered {v : Word} (h : s.pre.answer = some v) :
    tlbinv s kind x y w = .ok () ((s.upd fun k => { k with answer := none }).result v 1 w) := by
  rw [tlbinv, h]
  rfl

theorem tlbinv_noPart (h : s.pre.answer = none) (hk : kind ≠ 2) (hp : partExists s x = false) :
    tlbinv s kind x y w = .ok () (s.result 1 1 w) := by
  rw [tlbinv, h]
  exact if_pos (by rw [hp, decide_eq_true hk]; rfl)

theorem tlbinv_holds (h : s.pre.answer = none) (hp : kind = 2 ∨ partExists s x = true) :
    tlbinv s kind x y w = .hold (.tlbinv kind x y) := by
  rw [tlbinv, h]
  refine if_neg ?_
  rcases hp with hp | hp <;> simp [hp]

end

theorem partExists_iff (s : State) (x : Word) : partExists s x = false ↔
    x = 0 ∨ 16 < x.toNat ∨ (partAt s x.toNat).exists_ = false := by
  rw [partExists, Bool.and_eq_false_iff, Bool.and_eq_false_iff, decide_eq_false_iff_not, decide_eq_false_iff_not, not_not,
    Nat.not_le, or_assoc]

/-! ### VOTE -/

theorem State.resolve_noStall (s : State) (commit : Bool) (h : ∀ v ∈ s.votes, v.stalled = false) : s.resolve commit = s := by
  have hnone : stalledVote s = none :=
    List.find?_eq_none.2 fun v hv => by rw [h v hv, Bool.false_and]; exact Bool.false_ne_true
  rw [State.resolve, hnone]

theorem voteWord_nil {s : State} (h : s.votes = []) : voteWord s = 0 := by
  rw [voteWord, h]
  rfl

/-! ### WFI -/

theorem wfiEvents_answer {k : Core} {v : Word} (h : k.answer = some v) (hw : ∀ n, k.wait ≠ some (.wfi (some n))) :
    wfiEvents k = v := by
  have hzero : (match k.wait with
      | some (.wfi (some n)) => if n ≤ 1 then (1 : Word) else 0
      | _ => 0) = 0 := by
    split
    · exact absurd ‹_› (hw _)
    · rfl
  rw [wfiEvents, h]
  exact (congrArg (v ||| ·) hzero).trans BitVec.or_zero

theorem wfiEvents_first {k : Core} (h : k.answer = none) (hw : ∀ l, k.wait ≠ some (.wfi l)) : wfiEvents k = 0 := by
  have hzero : (match k.wait with
      | some (.wfi (some n)) => if n ≤ 1 then (1 : Word) else 0
      | _ => 0) = 0 := by
    split
    · exact absurd ‹_› (hw _)
    · rfl
  rw [wfiEvents, h]
  exact (congrArg ((0 : Word) ||| ·) hzero).trans BitVec.or_zero

theorem wfiEvents_time {k : Core} {n : Nat} (h : k.answer = none) (hw : k.wait = some (.wfi (some n))) (hn : n ≤ 1) :
    wfiEvents k = 1 := by
  rw [wfiEvents, h, hw]
  exact congrArg ((0 : Word) ||| ·) (if_pos hn)

section
variable {s s1 s2 : State} {a : SSpec} {b : SOpnd} {w : WReg} {x y : Word} (hl : s.pre.level = .h)
include hl

theorem tlbinvAll_exec : exec (.tlbinvAll w) s = finish s (tlbinv s 2 0 0 w) := congrArg (finish s) (needH_h _ hl)

theorem voteRd_runs : Runs (.voteRd w) s (s.result (voteWord s) 1 w) := runs_of_ok rfl (needH_h _ hl)

theorem voteAbort_runs : Runs (.voteAbort w) s ((s.resolve false).result (voteWord s) 1 w) := runs_of_ok rfl (needH_h _ hl)

theorem voteCommit_runs : Runs (.voteCommit w) s ((s.resolve true).result (voteWord s) 1 w) := runs_of_ok rfl (needH_h _ hl)

variable (hx : readS s a 0 = .ok x s1)
include hx

theorem tlbinvPart_exec : exec (.tlbinvPart a w) s = finish s (tlbinv s1 0 x 0 w) := by
  refine congrArg (finish s) ((needH_h _ hl).trans ?_)
  rw [hx, SlotRes.bind_ok]

theorem tlbinvIpa_exec (hy : readSO s1 b 1 = .ok y s2) : exec (.tlbinvIpa a b w) s = finish s (tlbinv s2 1 x y w) := by
  refine congrArg (finish s) ((needH_h _ hl).trans ?_)
  rw [hx, SlotRes.bind_ok, hy, SlotRes.bind_ok]

theorem scrub_answered {v : Word} (h : s.pre.answer = some v) :
    Runs (.scrub a w) s ((s1.upd fun k => { k with answer := none }).result v 1 w) := by
  refine runs_of_ok rfl ((needH_h _ hl).trans ?_)
  rw [hx, SlotRes.bind_ok, readS_pre hx, h]
  rfl

/-- SCRUB of a quad, while no answer has come: by what the quad is (R310). -/
theorem scrub_starts (h : s.pre.answer = none) : exec (.scrub a w) s = finish s (
    if 63 < x.toNat || s.degQuads.getLsbD x.toNat then .ok () (s1.result 2 1 w)
    else if busyQuad s x.toNat || inShadow s x.toNat || s.issue.core.val / 4 = x.toNat then .ok () (s1.result 1 1 w)
    else .hold (.scrub x.toNat)) := by
  obtain ⟨n, rfl⟩ := OnlyFree.exists_eq (readS_only hx)
  refine congrArg (finish s) ((needH_h _ hl).trans ?_)
  rw [hx, SlotRes.bind_ok, readS_pre hx, h]
  rfl

theorem wfi_ends {ev : Word} (h : wfiEvents s.pre = ev) (hev : ev ≠ 0) :
    Runs (.wfi a w) s ((s1.upd fun k => { k with answer := none }).result ev 1 w) := by
  refine runs_of_ok rfl ((needH_h _ hl).trans ?_)
  rw [hx, SlotRes.bind_ok, readS_pre hx, h]
  exact if_pos hev

theorem wfi_begins (h : s.pre.answer = none) (hw : ∀ l, s.pre.wait ≠ some (.wfi l)) :
    Holds (.wfi a w) s (.wfi (if x = 0 then none else some x.toNat)) := by
  refine holds_of_hold rfl ((needH_h _ hl).trans ?_)
  rw [hx, SlotRes.bind_ok, readS_pre hx, wfiEvents_first h hw]
  refine (if_neg (fun h' => h' rfl)).trans ?_
  split
  · exact absurd ‹_› (hw _)
  · rfl

end

/-- Settles O22, instruction by instruction. -/
theorem hypervisorInstructionsAreAtHOnly : Obligations.HypervisorInstructionsAreAtHOnly := by
  unfold Obligations.HypervisorInstructionsAreAtHOnly
  constructor
  · intro s a b w hl i hi
    simp only [List.mem_cons, List.not_mem_nil, or_false] at hi
    rcases hi with rfl | rfl | rfl | rfl | rfl | rfl | rfl | rfl <;> exact raises_of_trap rfl (needH_u _ hl)
  · intro s s1 s2 a b w x y hl hx hy noPart answered
    have hpre : s1.pre = s.pre := readS_pre hx
    have hpre2 : s2.pre = s.pre := (readSO_pre hy).trans hpre
    have hfree : OnlyFree s s1 := readS_only hx
    have hfree2 : OnlyFree s s2 := OnlyFree.trans hfree (readSO_only hy)
    have hexists : ∀ u, OnlyFree s u → (partExists u x = false ↔ noPart) := by
      rintro u hu
      obtain ⟨n, rfl⟩ := hu.exists_eq
      exact partExists_iff s x
    have hpart : ∀ u, OnlyFree s u → ¬ noPart → partExists u x = true := fun u hu h =>
      Bool.not_eq_false _ ▸ fun h' => h ((hexists u hu).1 h')
    refine ⟨fun v hv => ?_, fun hv => ?_, voteRd_runs hl, voteWord_nil, ?_, ?_⟩
    · refine ⟨runs_of_ok (tlbinvPart_exec hl hx) (tlbinv_answered (hpre ▸ hv)),
        runs_of_ok (tlbinvIpa_exec hl hx hy) (tlbinv_answered (hpre2 ▸ hv)), runs_of_ok (tlbinvAll_exec hl) (tlbinv_answered hv),
        scrub_answered hl hx hv, fun hne hw => wfi_ends hl hx (wfiEvents_answer hv hw) hne⟩
    · refine ⟨fun hno => ?_, fun hsome => ?_, holds_of_hold (tlbinvAll_exec hl) (tlbinv_holds hv (.inl rfl)), fun hq => ?_,
        fun hle hdeg => ⟨fun hbusy => ?_, fun hb hs hc => ?_⟩, fun hw => wfi_begins hl hx hv hw,
        fun n hw hn => wfi_ends hl hx (wfiEvents_time hv hw hn) (by decide)⟩
      · exact ⟨runs_of_ok (tlbinvPart_exec hl hx) (tlbinv_noPart (hpre ▸ hv) (by decide) ((hexists s1 hfree).2 hno)),
          runs_of_ok (tlbinvIpa_exec hl hx hy) (tlbinv_noPart (hpre2 ▸ hv) (by decide) ((hexists s2 hfree2).2 hno))⟩
      · exact ⟨holds_of_hold (tlbinvPart_exec hl hx) (tlbinv_holds (hpre ▸ hv) (.inr (hpart s1 hfree hsome))),
          holds_of_hold (tlbinvIpa_exec hl hx hy) (tlbinv_holds (hpre2 ▸ hv) (.inr (hpart s2 hfree2 hsome)))⟩
      · exact runs_of_ok (scrub_starts hl hx hv) (if_pos (by simpa using hq))
      · refine runs_of_ok (scrub_starts hl hx hv) ((if_neg ?_).trans (if_pos ?_))
        · simp [hdeg, hle]
        · simpa [or_assoc] using hbusy
      · refine holds_of_hold (scrub_starts hl hx hv) ((if_neg ?_).trans (if_neg ?_))
        · simp [hdeg, hle]
        · simp [hb, hs, hc]
    · exact ⟨_, voteAbort_runs hl, fun h => State.resolve_noStall s false h⟩
    · exact ⟨_, voteCommit_runs hl, fun h => State.resolve_noStall s true h⟩

end Sys2Proof.Machine
end

section
/-! What the vector slots share (R145, R149, R269, R313-R315): operands read, elements computed, results claimed. -/

namespace Sys2Proof.Machine

/-! ### Where a slot goes on, how its state follows -/

/-- Wherever this part of a slot goes on, its state stands so to the one before. -/
def Leads {α : Type} (R : State → State → Prop) (s : State) (r : SlotRes α) : Prop := ∀ a t, r = .ok a t → R s t

section
variable {α β : Type} {R : State → State → Prop} {s : State}

theorem leads_trap (t : Trap) : Leads R s (.trap t : SlotRes α) := fun _ _ h => nomatch h
theorem leads_hold (h : Hold) : Leads R s (.hold h : SlotRes α) := fun _ _ h' => nomatch h'
theorem leads_ok {a : α} {t : State} (h : R s t) : Leads R s (.ok a t) := fun _ _ h' => (SlotRes.ok.inj h').2 ▸ h

theorem leads_need {b : Bool} {c : Cause} {info : Word} {r : SlotRes α} (h : Leads R s r) : Leads R s (need s b c info r) := by
  cases b with
  | true => exact h
  | false => exact leads_trap _

theorem leads_orHold {h : Option Hold} {r : SlotRes α} (hr : Leads R s r) : Leads R s (orHold h r) := by
  cases h with
  | none => exact hr
  | some x => exact leads_hold x

theorem leads_ite {c : Prop} [Decidable c] {r r' : SlotRes α} (h : Leads R s r) (h' : Leads R s r') :
    Leads R s (if c then r else r') := by
  split
  · exact h
  · exact h'

theorem leads_soundSpad {off len : Nat} {r : SlotRes α} (h : Leads R s r) : Leads R s (soundSpad s off len r) := by
  unfold soundSpad
  split
  · exact leads_trap _
  · exact h

theorem leads_soundRanges {rs : List (Word × Nat)} {r : SlotRes α} (h : Leads R s r) : Leads R s (soundRanges s rs r) := by
  unfold soundRanges
  split
  · exact leads_trap _
  · exact h

theorem leads_bind (htrans : ∀ s t u, R s t → R t u → R s u) {r : SlotRes α} {k : α → State → SlotRes β}
    (hr : Leads R s r) (hk : ∀ a t, Leads R t (k a t)) : Leads R s (r.bind k) := by
  intro b u hu
  obtain ⟨a, t, ht, hb⟩ := SlotRes.bind_eq_ok hu
  exact htrans s t u (hr a t ht) (hk a t b u hb)

end

theorem OnlyCores.trans {s t u : State} (h : OnlyCores s t) (h' : OnlyCores t u) : OnlyCores s u := by
  have h2 := congrArg (fun v : State => { v with cores := s.cores, free := s.free }) h'
  exact h2.trans h

theorem OnlyFree.onlyCores {s t : State} (h : OnlyFree s t) : OnlyCores s t := by
  have h2 := congrArg (fun v : State => { v with cores := s.cores }) h
  exact h2

theorem OnlyCores.issue {s t : State} (h : OnlyCores s t) : t.issue = s.issue := (congrArg State.issue h :)

/-! ### Operands -/

theorem popRewind_leads (s : State) (st : Stream) (i : Fin 8) (pos : Nat) : Leads OnlyCores s (popRewind s st i pos) := by
  unfold popRewind
  dsimp only
  split
  · exact leads_trap _
  · refine leads_ite (leads_hold _) ?_
    split
    · exact leads_trap _
    · exact leads_orHold (leads_soundSpad (leads_soundRanges (leads_ok rfl)))

theorem popStream_leads (s : State) (i : Fin 8) (pos : Nat) : Leads OnlyCores s (popStream s i pos) := by
  unfold popStream
  refine leads_need (leads_need ?_)
  split
  · exact leads_trap _
  · refine leads_ite (leads_orHold (popRewind_leads s _ i pos)) ?_
    split
    · exact leads_ok rfl
    · split
      · exact leads_hold _
      · split
        · exact leads_trap _
        · exact leads_hold _

theorem popQueue_leads (s : State) (q : Fin 2) (info : Word) : Leads OnlyCores s (popQueue s q info) := by
  unfold popQueue
  split
  · exact leads_trap _
  · exact leads_ok rfl

theorem readSeen_leads {α : Type} (s : State) (d : α) (x : Seen α) (info : Word) : Leads OnlyCores s (readSeen s d x info) :=
  fun _ _ h => OnlyFree.onlyCores (readSeen_only h)

/-- Reading a vector operand touches the cores alone. -/
theorem readV_leads (s : State) (sp : VSpec) (pos : Nat) (t : Ty) : Leads OnlyCores s (readV s sp pos t) := by
  unfold readV
  cases sp with
  | take n => exact readSeen_leads _ _ _ _
  | v n => exact readSeen_leads _ _ _ _
  | stream i => exact popStream_leads s i pos
  | queue q => exact popQueue_leads s q _
  | bcast n =>
    exact leads_bind (R := OnlyCores) (fun _ _ _ => OnlyCores.trans) (readSeen_leads _ _ _ _) fun _ _ => leads_ok rfl

theorem readVO_leads (s : State) (o : VOpnd) (t : Ty) : Leads OnlyCores s (readVO s o t) := by
  cases o with
  | spec sp => exact readV_leads s sp 1 t
  | lit v => exact leads_ok rfl

section
variable {s s1 s2 s3 : State} {a c : VSpec} {b : VOpnd} {t t' t'' : Ty} {x y z : Vec} {pos pos' : Nat}

theorem readV_issue (h : readV s a pos t = .ok x s1) : s1.issue = s.issue := (readV_leads s a pos t x s1 h).issue
theorem readVO_issue (h : readVO s b t = .ok x s1) : s1.issue = s.issue := (readVO_leads s b t x s1 h).issue

/-- What is read at issue stays as it was, whatever operands are read. -/
theorem readV_pre (h : readV s a pos t = .ok x s1) : s1.pre = s.pre := congrArg Issue.pre (readV_issue h)
theorem readVO_pre (h : readVO s b t = .ok x s1) : s1.pre = s.pre := congrArg Issue.pre (readVO_issue h)

end

/-! ### Elements -/

theorem elem_lt (w : Nat) (v : Vec) (n : Nat) : elem w v n < 2 ^ w := Nat.mod_lt _ (Nat.two_pow_pos _)

/-- The first cause among elements that raise none other. -/
theorem collect_error {α : Type} {c : Cause} : ∀ {l : List (Except Cause α)}, (∀ e ∈ l, ∀ c', e = .error c' → c' = c) →
    (∃ e ∈ l, ∃ c', e = .error c') → collect l = .error c
  | [], _, h => absurd h (by simp)
  | .error c' :: l, hall, _ => by rw [collect, hall _ List.mem_cons_self c' rfl]
  | .ok a :: l, hall, h => by
    have hrest : ∃ e ∈ l, ∃ c', e = .error c' := by
      obtain ⟨e, he, c', hc⟩ := h
      rcases List.mem_cons.1 he with rfl | he
      · cases hc
      · exact ⟨e, he, c', hc⟩
    rw [collect, collect_error (fun e he => hall e (List.mem_cons_of_mem _ he)) hrest]

/-- An active element that raises a cause makes the result raise it, where no element raises another. -/
theorem vmap_error {s : State} {t : Ty} {f : Nat → Except Cause Nat} {sc : Nat → Nat} {c : Cause}
    (hall : ∀ n c', f n = .error c' → c' = c)
    (h : ∃ n, n < elemCount (Ty.width t) ∧ activeAt s.pre.curMask (Ty.width t) n = true ∧ ∃ c', f n = .error c') :
    vmap s t f sc = .error c := by
  unfold vmap maskedElems
  rw [collect_error]
  · intro e he c' hc
    obtain ⟨n, -, hn⟩ := List.mem_map.1 he
    split at hn
    · exact hall n c' (hn.trans hc)
    · rw [← hn] at hc
      cases hc
  · obtain ⟨n, hn, hact, c', hc⟩ := h
    refine ⟨_, List.mem_map.2 ⟨n, List.mem_range.2 hn, rfl⟩, c', ?_⟩
    rw [if_pos hact, hc]

/-! ### Results claimed -/

/-- The same result by elements that agree in their width. -/
theorem VRuns.congr {i : Instr} {s u : State} {t : Ty} {lat : Nat} {f f' sc sc' : Nat → Nat} (h : VRuns i s u t lat f sc)
    (hf : ∀ n < 2048 / Ty.width t, activeAt s.pre.curMask (Ty.width t) n = true → f n % 2 ^ Ty.width t = f' n % 2 ^ Ty.width t)
    (hsc : ∀ g < 8, sc g % 256 = sc' g % 256) : VRuns i s u t lat f' sc' := by
  obtain ⟨v, hv, he, hg⟩ := h
  refine ⟨v, hv, fun n hn => ?_, fun g hg' => ?_⟩
  · rw [he n hn]
    split
    · exact hf n hn ‹_›
    · rfl
  · rw [hg g hg', hsc g hg']

/-- An element-wise computation that claims its result. -/
theorem vmap_runs {i : Instr} {s u : State} {t : Ty} {lat : Nat} {f : Nat → Except Cause Nat} {c sc : Nat → Nat}
    (hi : exec i s = finish s (vdone u (vmap u t f sc) lat)) (hp : u.pre = s.pre)
    (h : ∀ n < elemCount (Ty.width t), activeAt s.pre.curMask (Ty.width t) n = true → f n = .ok (c n)) :
    VRuns i s u t lat c sc := by
  obtain ⟨v, hv, he, hg⟩ := vmap_ok (s := u) (t := t) (f := f) (sc := sc) (c := c) (by rw [hp]; exact h)
  rw [hp] at he hg
  refine ⟨v, runs_of_ok hi ?_, he, hg⟩
  unfold vdone
  rw [hv]

theorem vmap_raises {i : Instr} {s u : State} {t : Ty} {lat : Nat} {f : Nat → Except Cause Nat} {sc : Nat → Nat} {c : Cause}
    (hi : exec i s = finish s (vdone u (vmap u t f sc) lat)) (hp : u.pre = s.pre) (hall : ∀ n c', f n = .error c' → c' = c)
    (h : ∃ n, n < elemCount (Ty.width t) ∧ activeAt s.pre.curMask (Ty.width t) n = true ∧ ∃ c', f n = .error c') :
    Raises i s (slotTrap u c 0) := by
  refine raises_of_trap hi ?_
  unfold vdone
  rw [vmap_error hall (by rw [hp]; exact h)]
  rfl

section
variable {i : Instr} {s s1 s2 s3 : State} {a c : VSpec} {b : VOpnd} {t : Ty} {lat : Nat} {x y z : Vec}

theorem vun_exec {f : Vec → Nat → Except Cause Nat} (hi : exec i s = vun s a t lat f) (ha : readV s a 0 t = .ok x s1) :
    exec i s = finish s (vdone s1 (vmap s1 t (f x) (granScale x)) lat) := by
  rw [hi, vun, ha, SlotRes.bind_ok]

theorem vbin_exec {f : Vec → Vec → Nat → Except Cause Nat} (hi : exec i s = vbin s a b t lat f)
    (ha : readV s a 0 t = .ok x s1) (hb : readVO s1 b t = .ok y s2) :
    exec i s = finish s (vdone s2 (vmap s2 t (f x y) (granScale x)) lat) := by
  rw [hi, vbin, ha, SlotRes.bind_ok, hb, SlotRes.bind_ok]

theorem vter_exec {f : Vec → Vec → Vec → Nat → Except Cause Nat} (hi : exec i s = vter s a b c t lat f)
    (ha : readV s a 0 t = .ok x s1) (hb : readVO s1 b t = .ok y s2) (hc : readV s2 c 2 t = .ok z s3) :
    exec i s = finish s (vdone s3 (vmap s3 t (f x y z) (granScale x)) lat) := by
  rw [hi, vter, ha, SlotRes.bind_ok, hb, SlotRes.bind_ok, hc, SlotRes.bind_ok]

end

end Sys2Proof.Machine
end

section
/-! The integer vector instructions (R127, R317-R319). -/

namespace Sys2Proof.Machine

/-! ### Integer elements -/

/-- The code of an exact integer result, wrapped for P = 0 and saturated otherwise (R317). -/
def intCodeOf (s : State) (t : Ty) (q : BitVec 2) (z : Int) : Nat :=
  ((if q = 0 then z else max (intRange t s.pre.fmte.toNat).1 (min (intRange t s.pre.fmte.toNat).2 z)) % 2 ^ Ty.width t).toNat

theorem intResult_eq (s : State) (t : Ty) (q : BitVec 2) (z : Int) : intResult s t q z = intCodeOf s t q z := by
  simp only [intResult, intCodeOf, intToCode, satRange]
  push_cast
  rfl

section
variable {s : State} {t : Ty} {q : BitVec 2} {x y : Vec} {n : Nat}

theorem elemInt_error {c : Cause} {fmte : BitVec 64} (h : elemInt t fmte x n = .error c) : c = .intCode := by
  unfold elemInt at h
  split at h <;> cases h
  rfl

theorem ibin_ok {f : Int → Int → Int} {u v : Int} (hu : elemInt t s.pre.fmte x n = .ok u)
    (hv : elemInt t s.pre.fmte y n = .ok v) : ibin s t q f x y n = .ok (intCodeOf s t q (f u v)) := by
  rw [ibin, hu, hv, ← intResult_eq]

theorem iun_ok {f : Int → Int} {u : Int} (hu : elemInt t s.pre.fmte x n = .ok u) :
    iun s t q f x n = .ok (intCodeOf s t q (f u)) := by
  rw [iun, hu, ← intResult_eq]

theorem ibin_error {f : Int → Int → Int} {c : Cause} (h : ibin s t q f x y n = .error c) : c = .intCode := by
  unfold ibin at h
  split at h
  · cases h
  · cases h
    exact elemInt_error ‹_›
  · cases h
    exact elemInt_error ‹_›

theorem iun_error {f : Int → Int} {c : Cause} (h : iun s t q f x n = .error c) : c = .intCode := by
  unfold iun at h
  split at h
  · cases h
  · cases h
    exact elemInt_error ‹_›

theorem ibin_of_error {f : Int → Int → Int} {c : Cause} (h : elemInt t s.pre.fmte x n = .error c) :
    ibin s t q f x y n = .error c := by
  rw [ibin, h]

theorem iun_of_error {f : Int → Int} {c : Cause} (h : elemInt t s.pre.fmte x n = .error c) :
    iun s t q f x n = .error c := by
  rw [iun, h]

end

section
variable {i : Instr} {s s1 s2 : State} {a : VSpec} {b : VOpnd} {t : Ty} {x y : Vec} (hx : readV s a 0 t = .ok x s1)
include hx

/-- An integer instruction of one operand, where every active element stands for an integer. -/
theorem iun_runs {lat : Nat} {f : Int → Int} {q : BitVec 2} {u : Nat → Int} (hi : exec i s = vun s a t lat fun x n => iun s t q f x n)
    (hu : ∀ n, n < elemCount (Ty.width t) ∧ activeAt s.pre.curMask (Ty.width t) n = true → elemInt t s.pre.fmte x n = .ok (u n)) :
    VRuns i s s1 t lat (fun n => intCodeOf s t q (f (u n))) (granScale x) :=
  vmap_runs (vun_exec hi hx) (readV_pre hx) fun n hn hact => iun_ok (hu n ⟨hn, hact⟩)

theorem iun_raises {lat : Nat} {f : Int → Int} {q : BitVec 2} (hi : exec i s = vun s a t lat fun x n => iun s t q f x n)
    (h : ∃ n, (n < elemCount (Ty.width t) ∧ activeAt s.pre.curMask (Ty.width t) n = true) ∧ ∃ c, elemInt t s.pre.fmte x n = .error c) :
    Raises i s (slotTrap s1 .intCode 0) := by
  obtain ⟨n, ⟨hn, hact⟩, c, hc⟩ := h
  exact vmap_raises (vun_exec hi hx) (readV_pre hx) (fun _ _ => iun_error) ⟨n, hn, hact, c, iun_of_error hc⟩

variable (hy : readVO s1 b t = .ok y s2)
include hy

theorem ibin_runs {lat : Nat} {f : Int → Int → Int} {q : BitVec 2} {u v : Nat → Int}
    (hi : exec i s = vbin s a b t lat fun x y n => ibin s t q f x y n)
    (hu : ∀ n, n < elemCount (Ty.width t) ∧ activeAt s.pre.curMask (Ty.width t) n = true → elemInt t s.pre.fmte x n = .ok (u n))
    (hv : ∀ n, n < elemCount (Ty.width t) ∧ activeAt s.pre.curMask (Ty.width t) n = true → elemInt t s.pre.fmte y n = .ok (v n)) :
    VRuns i s s2 t lat (fun n => intCodeOf s t q (f (u n) (v n))) (granScale x) :=
  vmap_runs (vbin_exec hi hx hy) ((readVO_pre hy).trans (readV_pre hx)) fun n hn hact =>
    ibin_ok (hu n ⟨hn, hact⟩) (hv n ⟨hn, hact⟩)

theorem ibin_raises {lat : Nat} {f : Int → Int → Int} {q : BitVec 2}
    (hi : exec i s = vbin s a b t lat fun x y n => ibin s t q f x y n)
    (h : ∃ n, (n < elemCount (Ty.width t) ∧ activeAt s.pre.curMask (Ty.width t) n = true) ∧ ∃ c, elemInt t s.pre.fmte x n = .error c) :
    Raises i s (slotTrap s2 .intCode 0) := by
  obtain ⟨n, ⟨hn, hact⟩, c, hc⟩ := h
  exact vmap_raises (vbin_exec hi hx hy) ((readVO_pre hy).trans (readV_pre hx)) (fun _ _ => ibin_error)
    ⟨n, hn, hact, c, ibin_of_error hc⟩

end

/-! ### A32 lanes (R127, R318) -/

theorem signed_eq_toInt (w c : Nat) (hw : 0 < w) : signed w c = (BitVec.ofNat w c).toInt := by
  rw [← signed_toNat _ hw, BitVec.toNat_ofNat, signed, signed, Nat.mod_mod]

theorem sumRequest_of_lt {z : Int} : ∀ (fuel k : Nat), z.natAbs < 2 ^ (31 + k) → sumRequest z fuel k = k
  | 0, _, _ => rfl
  | _ + 1, _, h => if_neg (Nat.not_le.2 h)

/-- What a sum of two lanes is kept within, and what it asks of the anchor. -/
theorem a32Sum_eq {z : Int} (h : z.natAbs ≤ 2 ^ 32) : a32Sum z = (max (-(2 ^ 31 - 1)) (min (2 ^ 31 - 1) z),
    if 2 ^ 32 ≤ z.natAbs then 2 else if 2 ^ 31 ≤ z.natAbs then 1 else 0) := by
  unfold a32Sum
  by_cases hbig : 2 ^ 31 - 1 < z.natAbs
  · rw [if_pos hbig]
    refine Prod.ext ?_ ?_
    · dsimp only
      split <;> omega
    · by_cases h32 : 2 ^ 32 ≤ z.natAbs
      · rw [if_pos h32]
        exact (if_pos h32).trans (sumRequest_of_lt 63 2 (show z.natAbs < 2 ^ 33 by omega))
      · have h31 : 2 ^ 31 ≤ z.natAbs := by omega
        rw [if_neg h32, if_pos h31]
        exact sumRequest_of_lt 64 1 (show z.natAbs < 2 ^ 32 by omega)
  · rw [if_neg hbig]
    refine Prod.ext ?_ ?_
    · dsimp only
      omega
    · rw [if_neg (by omega), if_neg (by omega)]

theorem natAbs_toInt_le (x : BitVec 32) : x.toInt.natAbs ≤ 2 ^ 31 := by
  have h1 := BitVec.toInt_lt (x := x)
  have h2 := BitVec.le_toInt (x := x)
  omega

theorem foldl_max_le (l : List Nat) (b : Nat) : l.foldl max b = max b (l.foldl max 0) := by
  induction l generalizing b with
  | nil => simp
  | cons a l ih => rw [List.foldl_cons, List.foldl_cons, ih, ih (max 0 a), Nat.zero_max, Nat.max_assoc]

/-- The signed value of a lane. -/
def laneInt (v : Vec) (n : Nat) : Int := (BitVec.ofNat 32 (elem 32 v n)).toInt

/-- The exact sum or difference of two lanes. -/
def a32Exact (x y : Vec) (sub : Bool) (n : Nat) : Int := if sub then laneInt x n - laneInt y n else laneInt x n + laneInt y n

theorem a32Exact_natAbs_le (x y : Vec) (sub : Bool) (n : Nat) : (a32Exact x y sub n).natAbs ≤ 2 ^ 32 := by
  have h1 := natAbs_toInt_le (BitVec.ofNat 32 (elem 32 x n))
  have h2 := natAbs_toInt_le (BitVec.ofNat 32 (elem 32 y n))
  unfold a32Exact laneInt
  split <;> omega

/-- VADD and VSUB on lanes: the sums kept within their range, the largest request in both granules of a block. -/
theorem va32_eq (s : State) (sub : Bool) (x y : Vec) : va32 s sub x y = vmap s .a32
    (fun n => .ok (max (-(2 ^ 31 - 1)) (min (2 ^ 31 - 1) (a32Exact x y sub n)) % 2 ^ 32).toNat)
    fun g => (((List.range 16).map fun j =>
        if activeAt s.pre.curMask 32 (16 * (g / 2) + j) then
          (if 2 ^ 32 ≤ (a32Exact x y sub (16 * (g / 2) + j)).natAbs then 2
            else if 2 ^ 31 ≤ (a32Exact x y sub (16 * (g / 2) + j)).natAbs then 1 else 0) else 0) ++
      [granScale x (2 * (g / 2)), granScale x (2 * (g / 2) + 1), granScale y (2 * (g / 2)),
        granScale y (2 * (g / 2) + 1)]).foldl max 0 := by
  have hlane : ∀ n, a32Sum (if sub then signed 32 (elem 32 x n) - signed 32 (elem 32 y n)
      else signed 32 (elem 32 x n) + signed 32 (elem 32 y n)) =
      (max (-(2 ^ 31 - 1)) (min (2 ^ 31 - 1) (a32Exact x y sub n)),
        if 2 ^ 32 ≤ (a32Exact x y sub n).natAbs then 2 else if 2 ^ 31 ≤ (a32Exact x y sub n).natAbs then 1 else 0) := fun n => by
    rw [signed_eq_toInt 32 _ (by decide), signed_eq_toInt 32 _ (by decide)]
    exact a32Sum_eq (a32Exact_natAbs_le x y sub n)
  unfold va32
  simp only [hlane]
  refine congrArg₂ (vmap s .a32) rfl (funext fun g => ?_)
  rw [List.foldl_append]
  exact (foldl_max_le _ _).symm

section
variable {s s1 s2 : State} {a : VSpec} {b : VOpnd} {p : BitVec 2} {x y : Vec} (hx : readV s a 0 .a32 = .ok x s1)
  (hy : readVO s1 b .a32 = .ok y s2)
include hx hy

theorem vadd_a32_exec : exec (.vadd a b .a32 p) s = finish s (vdone s2 (va32 s2 false x y) 3) := by
  change execVadd a b .a32 p s = _
  rw [execVadd, if_pos rfl, hx, SlotRes.bind_ok, hy, SlotRes.bind_ok]

theorem vsub_a32_exec : exec (.vsub a b .a32 p) s = finish s (vdone s2 (va32 s2 true x y) 3) := by
  change execVsub a b .a32 p s = _
  rw [execVsub, if_pos rfl, hx, SlotRes.bind_ok, hy, SlotRes.bind_ok]

end

/-- Settles O23, instruction by instruction. -/
theorem vectorIntegerResults : Obligations.VectorIntegerResults := by
  unfold Obligations.VectorIntegerResults
  constructor
  · intro s s1 s2 a b t p x y hf ha32 hx hy act lo hi code
    have hadd : exec (.vadd a b t p) s = vbin s a b t 3 fun x y n => ibin s t p (· + ·) x y n :=
      (if_neg ha32).trans (by simp only [hf, Bool.false_eq_true, if_false])
    have hmul : exec (.vmul a b t p) s = vbin s a b t 4 fun x y n => ibin s t p (· * ·) x y n := by
      change vbin s a b t 4 _ = _
      simp only [hf, Bool.false_eq_true, if_false]
    have hneg : exec (.vneg a t p) s = vun s a t 3 fun x n => iun s t p (fun v => -v) x n := by
      change vun s a t 3 _ = _
      simp only [hf, Bool.false_eq_true, if_false]
    refine ⟨fun u v hu hv => ⟨ibin_runs hx hy hadd hu hv, ibin_runs hx hy (f := (· - ·)) ?_ hu hv, ibin_runs hx hy hmul hu hv, ?_,
      ibin_runs hx hy (f := min) ?_ hu hv, ibin_runs hx hy (f := max) ?_ hu hv,
      iun_runs hx (f := fun v => (v.natAbs : Int)) ?_ hu, iun_runs hx hneg hu⟩,
      fun h => ⟨ibin_raises hx hy hadd h, ibin_raises hx hy hmul h, iun_raises hx hneg h⟩⟩
    · exact (if_neg ha32).trans (by simp only [hf, Bool.false_eq_true, if_false])
    · have hh := ibin_runs (q := 0) (lat := 4) (i := .vmulh a b t) (f := fun u v => u * v / (2 ^ Ty.width t : Nat)) hx hy rfl hu hv
      push_cast at hh
      exact hh
    · change vbin s a b t 3 _ = _
      simp only [hf, Bool.false_eq_true, if_false]
    · change vbin s a b t 3 _ = _
      simp only [hf, Bool.false_eq_true, if_false]
    · change vun s a t 3 _ = _
      simp only [hf, Bool.false_eq_true, if_false]
  · intro s s1 s2 a b p x y hx hy lane keep exact wants request
    have hpre : s2.pre = s.pre := (readVO_pre hy).trans (readV_pre hx)
    refine ⟨?_, ?_⟩
    · refine vmap_runs ((vadd_a32_exec hx hy).trans ?_) hpre fun n _ _ => rfl
      rw [va32_eq, hpre]
      rfl
    · refine vmap_runs ((vsub_a32_exec hx hy).trans ?_) hpre fun n _ _ => rfl
      rw [va32_eq, hpre]
      rfl

end Sys2Proof.Machine
end

section
/-! The floating-point vector instructions (R213, R214, R216, R226, R232, R316). -/

namespace Sys2Proof.Machine

theorem isRdn_eq (m : RMode) : isRdn m = decide (m = .rdn) := by cases m <;> rfl

section
variable {i : Instr} {s s1 s2 s3 : State} {a c : VSpec} {b : VOpnd} {t : Ty} {lat : Nat} {x y z : Vec}
  (hx : readV s a 0 t = .ok x s1)
include hx

/-- An instruction of one operand whose elements always have a code. -/
theorem vun_codes {f : Vec → Nat → Except Cause Nat} {r : Vec → Nat → Nat} (hi : exec i s = vun s a t lat f)
    (hf : ∀ x n, f x n = .ok (r x n)) : VRuns i s s1 t lat (r x) (granScale x) :=
  vmap_runs (vun_exec hi hx) (readV_pre hx) fun n _ _ => hf x n

variable (hy : readVO s1 b t = .ok y s2)
include hy

theorem vbin_codes {f : Vec → Vec → Nat → Except Cause Nat} {r : Vec → Vec → Nat → Nat} (hi : exec i s = vbin s a b t lat f)
    (hf : ∀ x y n, f x y n = .ok (r x y n)) : VRuns i s s2 t lat (r x y) (granScale x) :=
  vmap_runs (vbin_exec hi hx hy) ((readVO_pre hy).trans (readV_pre hx)) fun n _ _ => hf x y n

theorem vter_codes {f : Vec → Vec → Vec → Nat → Except Cause Nat} {r : Vec → Vec → Vec → Nat → Nat}
    (hi : exec i s = vter s a b c t lat f) (hz : readV s2 c 2 t = .ok z s3) (hf : ∀ x y z n, f x y z n = .ok (r x y z n)) :
    VRuns i s s3 t lat (r x y z) (granScale x) :=
  vmap_runs (vter_exec hi hx hy hz) ((readV_pre hz).trans ((readVO_pre hy).trans (readV_pre hx))) fun n _ _ => hf x y z n

end

/-! ### Codes that are moved, not rounded -/

theorem two_pow_width_pred (t : Ty) : 2 ^ Ty.width t = 2 * 2 ^ (Ty.width t - 1) := by
  rw [← Nat.pow_succ', Nat.succ_eq_add_one, Nat.sub_add_cancel (Ty.width_pos t)]

/-- The sign bit of a code, at its place. -/
theorem signBit_eq (t : Ty) (x : Vec) (n : Nat) : elem (Ty.width t) x n / 2 ^ (Ty.width t - 1) * 2 ^ (Ty.width t - 1) =
    if 2 ^ (Ty.width t - 1) ≤ elem (Ty.width t) x n then 2 ^ (Ty.width t - 1) else 0 := by
  have hlt := elem_lt (Ty.width t) x n
  rw [two_pow_width_pred] at hlt
  split
  · rw [Nat.div_eq_of_lt_le (k := 1) (by omega) (by omega), Nat.one_mul]
  · rw [Nat.div_eq_of_lt (by omega), Nat.zero_mul]

theorem fmin_eq (t : Ty) (x y : Vec) (n : Nat) : fminmax false t x y n =
    if (fcode t x n).isNan || (fcode t y n).isNan then (Ty.fmt t).nan
    else if valLess (fcode t x n) (fcode t y n) then elem (Ty.width t) x n else elem (Ty.width t) y n := by
  unfold fminmax
  dsimp only
  cases valLess (fcode t x n) (fcode t y n) <;> rfl

theorem fmax_eq (t : Ty) (x y : Vec) (n : Nat) : fminmax true t x y n =
    if (fcode t x n).isNan || (fcode t y n).isNan then (Ty.fmt t).nan
    else if valLess (fcode t x n) (fcode t y n) then elem (Ty.width t) y n else elem (Ty.width t) x n := rfl

/-- The sign that VNEG sets: what the sign bit lacks of being set. -/
theorem flippedSign_eq (t : Ty) (x : Vec) (n : Nat) :
    (if !decide (2 ^ (Ty.width t - 1) ≤ elem (Ty.width t) x n) then 2 ^ (Ty.width t - 1) else 0) =
      2 ^ (Ty.width t - 1) - elem (Ty.width t) x n / 2 ^ (Ty.width t - 1) * 2 ^ (Ty.width t - 1) := by
  rw [signBit_eq]
  by_cases h : 2 ^ (Ty.width t - 1) ≤ elem (Ty.width t) x n <;> simp [h]

theorem vcps_code (t : Ty) (x y : Vec) (n : Nat) :
    (if (fcode t y n).isNan then Except.ok (Ty.fmt t).nan
      else .ok (withSign t x n fun _ => decide (2 ^ (Ty.width t - 1) ≤ elem (Ty.width t) y n)) : Except Cause Nat) =
    .ok (if (fcode t x n).isNan || (fcode t y n).isNan then (Ty.fmt t).nan
      else elem (Ty.width t) x n % 2 ^ (Ty.width t - 1) +
        elem (Ty.width t) y n / 2 ^ (Ty.width t - 1) * 2 ^ (Ty.width t - 1)) := by
  rw [signBit_eq]
  unfold withSign
  cases (fcode t x n).isNan <;> cases (fcode t y n).isNan <;> simp

/-- Settles O24, instruction by instruction. -/
theorem vectorFloatResults : Obligations.VectorFloatResults := by
  unfold Obligations.VectorFloatResults
  constructor
  · intro s s1 s2 s3 a c b t p x y z hf hx hy hz val mode rnd sum one
    have ha32 : t ≠ .a32 := fun h => by rw [h] at hf; cases hf
    have hsum : ∀ n u v, froundP s t p n (faddP s p n u v) = .ok (sum n u v) := fun n u v => by
      rw [froundP, faddP, isRdn_eq]
    refine ⟨vbin_codes (r := fun x y n => sum n (val x n) (val y n)) hx hy ((if_neg ha32).trans ?_) fun x y n => hsum n _ _,
      vbin_codes (r := fun x y n => sum n (val x n) (val y n).neg) hx hy ((if_neg ha32).trans ?_) fun x y n => hsum n _ _,
      vbin_codes (r := fun x y n => rnd n ((val x n).mul (val y n))) hx hy (f := fun x y n =>
        froundP s t p n ((fcode t x n).mul (fcode t y n))) ?_ fun x y n => rfl,
      vter_codes (r := fun x y z n => sum n ((val x n).mul (val y n)) (val z n)) hx hy rfl hz fun x y z n => hsum n _ _,
      vter_codes (r := fun x y z n => sum n ((val x n).mul (val y n)) (val z n).neg) hx hy rfl hz fun x y z n => hsum n _ _,
      vter_codes (r := fun x y z n => sum n ((val x n).mul (val y n)).neg (val z n)) hx hy rfl hz fun x y z n => hsum n _ _,
      vbin_codes (r := fun x y n => rnd n ((val x n).div (val y n))) hx hy rfl fun x y n => rfl,
      vun_codes (r := fun x n => rnd n (vsqrtVal (val x n))) hx rfl fun x n => rfl,
      vun_codes (r := fun x n => rnd n (vrsqVal (val x n))) hx rfl fun x n => rfl,
      vun_codes (r := fun x n => rnd n (one.div (val x n))) hx rfl fun x n => rfl,
      vun_codes (r := fun x n => rnd n (vexp2Val (val x n))) hx rfl fun x n => rfl,
      vun_codes (r := fun x n => rnd n (vlog2Val (val x n))) hx rfl fun x n => rfl⟩
    · simp only [hf, if_true]
      rfl
    · simp only [hf, if_true]
      rfl
    · change vbin s a b t 4 _ = _
      simp only [hf, if_true]
  · intro s s1 s2 a b t p x y hf hx hy w nan less canon mag top
    have hmin : ∀ x y n, (if Ty.isFloat t then Except.ok (fminmax false t x y n) else ibin s t 0 min x y n) = .ok _ :=
      fun x y n => (if_pos hf).trans (congrArg _ (fmin_eq t x y n))
    have hmax : ∀ x y n, (if Ty.isFloat t then Except.ok (fminmax true t x y n) else ibin s t 0 max x y n) = .ok _ :=
      fun x y n => (if_pos hf).trans (congrArg _ (fmax_eq t x y n))
    have hneg : ∀ x n, (if Ty.isFloat t then Except.ok (withSign t x n not) else iun s t p (fun v => -v) x n) = .ok _ :=
      fun x n => (if_pos hf).trans (congrArg (fun k => Except.ok (if (fcode t x n).isNan then (Ty.fmt t).nan
        else elem (Ty.width t) x n % 2 ^ (Ty.width t - 1) + k)) (flippedSign_eq t x n))
    exact ⟨vbin_codes hx hy rfl hmin, vbin_codes hx hy rfl hmax, vun_codes (r := fun x n => withSign t x n fun _ => false) hx rfl fun x n => if_pos hf,
      vun_codes hx rfl hneg, vbin_codes hx hy rfl (vcps_code t)⟩

end Sys2Proof.Machine
end

section
/-! The bitwise, shift, compare, select and class instructions (R317, R320-R322). -/

namespace Sys2Proof.Machine

/-- An arithmetic shift of a code, by its signed value (R317). -/
theorem intToCode_signed_div (w x n : Nat) (hw : 0 < w) :
    intToCode w (signed w x / (2 ^ n : Nat)) = ((BitVec.ofNat w x).sshiftRight n).toNat := by
  rw [signed_eq_toInt w x hw, BitVec.sshiftRight, BitVec.toNat_ofInt, Int.shiftRight_eq_div_pow]
  rfl

theorem signedTy_iff (t : Ty) : signedTy t = true ↔ t = .s8 ∨ t = .s16 ∨ t = .s32 := by
  cases t <;> simp [signedTy]

section
variable {i : Instr} {s s1 s2 s3 : State} {a c : VSpec} {b : VOpnd} {t t' t'' : Ty} {pos : Nat} {x y z : Vec}
  (hx : readV s a 0 t = .ok x s1)
include hx

/-- What an instruction does once its first operand is read. -/
theorem exec_readV {k : Vec → State → SlotRes Unit} (hi : exec i s = finish s ((readV s a 0 t).bind k)) :
    exec i s = finish s (k x s1) := by
  rw [hi, hx, SlotRes.bind_ok]

variable (hy : readVO s1 b t' = .ok y s2)
include hy

theorem exec_readVO {k : Vec → Vec → State → SlotRes Unit}
    (hi : exec i s = finish s ((readV s a 0 t).bind fun x s => (readVO s b t').bind (k x))) :
    exec i s = finish s (k x y s2) := by
  rw [hi, hx, SlotRes.bind_ok, hy, SlotRes.bind_ok]

theorem exec_readV3 {k : Vec → Vec → Vec → State → SlotRes Unit} (hz : readV s2 c 2 t'' = .ok z s3)
    (hi : exec i s = finish s ((readV s a 0 t).bind fun x s => (readVO s b t').bind fun y s => (readV s c 2 t'').bind (k x y))) :
    exec i s = finish s (k x y z s3) := by
  rw [hi, hx, SlotRes.bind_ok, hy, SlotRes.bind_ok, hz, SlotRes.bind_ok]

end

section
variable {s s1 s2 : State} {a : VSpec} {b : VOpnd} {t : Ty} {k : Cond} {x y : Vec}
  (hx : readV s a 0 t = .ok x s1) (hy : readVO s1 b t = .ok y s2)
include hx hy

theorem vbits_runs {i : Instr} {f : Nat → Nat → Nat} (hi : exec i s = vbits a b t f s) :
    VRuns i s s2 t 2 (fun n => f (elem (Ty.width t) x n) (elem (Ty.width t) y n)) (granScale x) :=
  vbin_codes (r := fun x y n => f (elem (Ty.width t) x n) (elem (Ty.width t) y n)) hx hy hi fun _ _ _ => rfl

/-- A shift writes the low bits of what it gives. -/
theorem vshift_runs {i : Instr} {f : Nat → Nat → Nat} (hi : exec i s = vshift a b t f s) :
    VRuns i s s2 t 3 (fun n => f (elem (Ty.width t) x n) (elem (Ty.width t) y n % Ty.width t)) (granScale x) :=
  (vbin_codes (r := fun x y n => f (elem (Ty.width t) x n) (elem (Ty.width t) y n % Ty.width t) % 2 ^ Ty.width t)
    hx hy hi fun _ _ _ => rfl).congr (fun _ _ _ => Nat.mod_mod _ _) fun _ _ => rfl

theorem vcmp_float {u v : Nat → Val} (hf : Ty.isFloat t = true) (hu : ∀ n, elemVal t s.pre.fmte x n = .ok (u n))
    (hv : ∀ n, elemVal t s.pre.fmte y n = .ok (v n)) :
    VRuns (.vcmp a b k t) s s2 t 2 (fun n => if condVal k (u n) (v n) then 2 ^ Ty.width t - 1 else 0) fun _ => 0x7F := by
  have hp : s2.pre = s.pre := (readVO_pre hy).trans (readV_pre hx)
  have hi := exec_readVO (i := .vcmp a b k t) hx hy rfl
  refine vmap_runs hi hp fun n _ _ => ?_
  rw [if_pos hf, hp, hu n, hv n]

theorem vcmp_int {u v : Nat → Int} (hf : Ty.isFloat t = false)
    (hu : ∀ n, n < elemCount (Ty.width t) ∧ activeAt s.pre.curMask (Ty.width t) n = true → elemInt t s.pre.fmte x n = .ok (u n))
    (hv : ∀ n, n < elemCount (Ty.width t) ∧ activeAt s.pre.curMask (Ty.width t) n = true → elemInt t s.pre.fmte y n = .ok (v n)) :
    VRuns (.vcmp a b k t) s s2 t 2 (fun n => if condInt k (u n) (v n) then 2 ^ Ty.width t - 1 else 0) fun _ => 0x7F := by
  have hp : s2.pre = s.pre := (readVO_pre hy).trans (readV_pre hx)
  have hi := exec_readVO (i := .vcmp a b k t) hx hy rfl
  refine vmap_runs hi hp fun n hn hact => ?_
  rw [if_neg (by rw [hf]; decide), hp, hu n ⟨hn, hact⟩, hv n ⟨hn, hact⟩]

end

theorem vsel_runs {s s1 s2 s3 : State} {a c : VSpec} {b : VOpnd} {t : Ty} {x y z : Vec} (hx : readV s a 0 t = .ok x s1)
    (hy : readVO s1 b t = .ok y s2) (hz : readV s2 c 2 t = .ok z s3) :
    VRuns (.vsel a b c t) s s3 t 2 (fun n => if elem (Ty.width t) z n ≠ 0 then elem (Ty.width t) x n else elem (Ty.width t) y n)
      fun g => if elem (Ty.width t) z (256 / Ty.width t * g) ≠ 0 then granScale x g else granScale y g := by
  have hi := exec_readV3 (i := .vsel a b c t) hx hy hz rfl
  exact vmap_runs hi ((readV_pre hz).trans ((readVO_pre hy).trans (readV_pre hx))) fun n _ _ => rfl

theorem vclass_runs {s s1 : State} {a : VSpec} {t : Ty} {x : Vec} (hx : readV s a 0 t = .ok x s1) :
    VRuns (.vclass a t) s s1 t 2 (fun n => if Ty.isScaled t && granScale x (Ty.width t * n / 256) = 0xFF then 8
      else classOf (Ty.fmt t) (elem (Ty.width t) x n)) fun _ => 0x7F := by
  have hi := exec_readV (i := .vclass a t) hx rfl
  exact vmap_runs hi (readV_pre hx) fun n _ _ => (apply_ite Except.ok _ _ _).symm

/-- Settles O25, instruction by instruction. -/
theorem vectorBitwiseShiftAndCompareResults : Obligations.VectorBitwiseShiftAndCompareResults := by
  unfold Obligations.VectorBitwiseShiftAndCompareResults
  constructor
  · intro s s1 s2 a b t x y hx hy w u v
    refine ⟨vbits_runs (f := (· &&& ·)) hx hy rfl, vbits_runs (f := (· ||| ·)) hx hy rfl, vbits_runs (f := (· ^^^ ·)) hx hy rfl,
      vun_codes (r := fun x n => 2 ^ Ty.width t - 1 - elem (Ty.width t) x n) hx rfl fun _ _ => rfl, vshift_runs (f := fun x n => x * 2 ^ n) hx hy rfl, vshift_runs (f := fun x n => x / 2 ^ n) hx hy rfl,
      (vshift_runs (f := fun x n => if signedTy t then intToCode (Ty.width t) (signed (Ty.width t) x / (2 ^ n : Nat))
        else x / 2 ^ n) hx hy rfl).congr (fun n _ _ => ?_) fun _ _ => rfl⟩
    simp only [signedTy_iff, intToCode_signed_div _ _ _ (Ty.width_pos t)]
    rfl
  · intro s s1 s2 s3 a c b t k x y z hx hy hz w act
    exact ⟨fun u v hf hu hv => vcmp_float hx hy hf hu hv, fun u v hf hu hv => vcmp_int hx hy hf hu hv,
      vsel_runs hx hy hz, vclass_runs hx⟩

end Sys2Proof.Machine
end

section
/-! The conversions (R228-R230, R323, R325-R327). -/

namespace Sys2Proof.Machine

/-- The elements of a granule of a type. -/
def granuleElems (t : Ty) (g : Nat) : List Nat := (List.range (256 / Ty.width t)).map (256 / Ty.width t * g + ·)

theorem elemCount_eq (t : Ty) : elemCount (Ty.width t) = 8 * (256 / Ty.width t) := by cases t <;> decide

/-- A granule's part of a list over the elements. -/
theorem granule_segment {α : Type} (t : Ty) (f : Nat → α) {g : Nat} (hg : g < 8) :
    ((((List.range (elemCount (Ty.width t))).map f).drop (256 / Ty.width t * g)).take (256 / Ty.width t)) =
      (granuleElems t g).map f := by
  unfold granuleElems
  rw [elemCount_eq]
  generalize 256 / Ty.width t = q
  have hle : q * g + q ≤ 8 * q := by
    calc q * g + q = q * (g + 1) := (Nat.mul_succ q g).symm
      _ ≤ q * 8 := Nat.mul_le_mul_left q hg
      _ = 8 * q := Nat.mul_comm q 8
  refine List.ext_getElem ?_ fun n h1 h2 => ?_
  · have h : q ≤ 8 * q - q * g := by omega
    simp [h]
  · simp

/-- The value of each converted element: an active one below the limit. -/
def converted (s : State) (t : Ty) (lim : Nat) (u : Nat → Val) (n : Nat) : Option Val :=
  if activeAt s.pre.curMask (Ty.width t) n && decide (n < lim) then some (u n) else none

/-- The exponent of a granule over its own converted values (R230). -/
def granExponent (s : State) (t : Ty) (lim : Nat) (u : Nat → Val) (g : Nat) : Int :=
  mxExponent (Ty.emax t) (((granuleElems t g).filter fun n => activeAt s.pre.curMask (Ty.width t) n && decide (n < lim)).map u)

theorem filterMap_converted (s : State) (t : Ty) (lim : Nat) (u : Nat → Val) (l : List Nat) :
    (l.map (converted s t lim u)).filterMap id =
      (l.filter fun n => activeAt s.pre.curMask (Ty.width t) n && decide (n < lim)).map u := by
  induction l with
  | nil => rfl
  | cons n l ih =>
    rw [List.map_cons, List.filterMap_cons, List.filter_cons, ih]
    by_cases h : (activeAt s.pre.curMask (Ty.width t) n && decide (n < lim)) = true <;> simp [converted, h]

/-- One element converted, its granule's exponent taken off first in a scaled type. -/
def convertOne (s : State) (t : Ty) (pol : Pol) (mode : Nat → RMode) (e : Nat → Int) (n : Nat) (v : Val) : Conv :=
  if Ty.isScaled t then (Ty.fmt t).convert (mode n) pol (v.scale (-(e (n / (256 / Ty.width t)))))
  else if Ty.isFloat t then (Ty.fmt t).convert (mode n) pol v
  else convertInt t s.pre.fmte.toNat (mode n) pol v

theorem zip_range_map {α β : Type} (l : Nat) (f : Nat → α) (k : α × Nat → β) :
    ((((List.range l).map f).zip (List.range ((List.range l).map f).length)).map k) = (List.range l).map fun n => k (f n, n) := by
  refine List.ext_getElem ?_ fun n h1 h2 => ?_ <;> simp

/-- Elements that all go on. -/
theorem collect_map_ok {α β : Type} {f : α → Except Cause β} {r : α → β} {l : List α} (h : ∀ n ∈ l, f n = .ok (r n)) :
    collect (l.map f) = .ok (l.map r) := by
  rw [← collect_ok, List.map_map]
  exact congrArg collect (List.map_congr_left h)

theorem exponents_getD (s : State) (t : Ty) (lim : Nat) (u : Nat → Val) {g : Nat} (hg : g < 8) :
    ((List.range 8).map fun g => mxExponent (Ty.emax t)
      (((((List.range (elemCount (Ty.width t))).map (converted s t lim u)).drop (256 / Ty.width t * g)).take
        (256 / Ty.width t)).filterMap id)).getD g 0 = granExponent s t lim u g := by
  rw [List.getD_eq_getElem?_getD, List.getElem?_map, List.getElem?_range hg, Option.map_some, Option.getD_some,
    granule_segment t _ hg, filterMap_converted]
  rfl

theorem granule_unconverted (s : State) (t : Ty) (lim : Nat) (u : Nat → Val) {g : Nat} (hg : g < 8) :
    ((((List.range (elemCount (Ty.width t))).map (converted s t lim u)).drop (256 / Ty.width t * g)).take
      (256 / Ty.width t)).all (·.isNone) =
      !(granuleElems t g).any fun n => activeAt s.pre.curMask (Ty.width t) n && decide (n < lim) := by
  rw [granule_segment t _ hg, List.all_map, List.not_any_eq_all_not]
  refine congrArg _ (funext fun n => ?_)
  simp only [Function.comp_apply, converted]
  split <;> simp [*]

def ConvOut.isNan : ConvOut → Bool
  | .nanScale => true
  | _ => false

/-- What becomes of one element. -/
def convertedCode (s : State) (t : Ty) (pol : Pol) (mode : Nat → RMode) (lim : Nat) (u : Nat → Val) (n : Nat) :
    Except Cause ConvOut :=
  if activeAt s.pre.curMask (Ty.width t) n && decide (n < lim) then
    convOut (convertOne s t pol mode (granExponent s t lim u) n (u n))
  else .ok (.code 0)

/-- The scale byte of a granule (R230). -/
def convertedScale (s : State) (t : Ty) (lim : Nat) (u : Nat → Val) (es : List ConvOut) (g : Nat) : Nat :=
  if Ty.isScaled t then
    if (granuleElems t g).any (fun n => activeAt s.pre.curMask (Ty.width t) n && decide (n < lim)) then
      if ((es.drop (256 / Ty.width t * g)).take (256 / Ty.width t)).any ConvOut.isNan then 0xFF
      else (granExponent s t lim u g + 127).toNat
    else 0x7F
  else 0x7F

section
variable {s : State} {t : Ty} {pol : Pol} {mode : Nat → RMode} {x : Nat → Option (Except Cause Val)} {lim : Nat}
  {u : Nat → Val} (hx : ∀ n < elemCount (Ty.width t), activeAt s.pre.curMask (Ty.width t) n = true →
      x n = if n < lim then some (.ok (u n)) else none)
include hx

/-- A conversion whose active elements have values. -/
theorem convertElems_eq : convertElems s t pol mode x =
    (collect ((List.range (elemCount (Ty.width t))).map (convertedCode s t pol mode lim u))).map fun es =>
      packVec (Ty.width t) (es.map (·.get)) ((List.range 8).map (convertedScale s t lim u es)) := by
  unfold convertElems
  dsimp only
  rw [collect_map_ok (r := converted s t lim u) fun n hn => ?_]
  rotate_left
  · unfold converted
    by_cases ha : activeAt s.pre.curMask (Ty.width t) n = true
    · rw [if_pos ha, hx n (List.mem_range.1 hn) ha]
      by_cases hl : n < lim <;> simp [ha, hl]
    · simp [ha]
  dsimp only
  rw [zip_range_map, List.map_congr_left (g := convertedCode s t pol mode lim u)]
  · cases collect ((List.range (elemCount (Ty.width t))).map (convertedCode s t pol mode lim u)) with
    | error c => rfl
    | ok es =>
      dsimp only [Except.map]
      refine congrArg Except.ok (congrArg (packVec _ _) (List.map_congr_left fun g hg => ?_))
      have hg := List.mem_range.1 hg
      rw [exponents_getD s t lim u hg, granule_unconverted s t lim u hg]
      unfold convertedScale
      cases (granuleElems t g).any fun n => activeAt s.pre.curMask (Ty.width t) n && decide (n < lim) <;> rfl
  · intro n hn
    have hg : n / (256 / Ty.width t) < 8 := by
      have hn := List.mem_range.1 hn
      rw [elemCount_eq] at hn
      exact Nat.div_lt_of_lt_mul (by omega)
    dsimp only
    rw [exponents_getD s t lim u hg]
    unfold convertedCode converted convertOne
    by_cases h : (activeAt s.pre.curMask (Ty.width t) n && decide (n < lim)) = true
    · simp only [if_pos h, apply_ite convOut]
    · simp only [if_neg h]

/-- A conversion whose elements all have a code. -/
theorem convertElems_ok {cs : Nat → Nat} (hc : ∀ n < lim, activeAt s.pre.curMask (Ty.width t) n = true →
      convertOne s t pol mode (granExponent s t lim u) n (u n) = .code (cs n)) :
    ∃ v, convertElems s t pol mode x = .ok v ∧
      (∀ n < 2048 / Ty.width t, elem (Ty.width t) v n =
        if activeAt s.pre.curMask (Ty.width t) n then (if n < lim then cs n else 0) % 2 ^ Ty.width t else 0) ∧
      ∀ g < 8, granScale v g = (if Ty.isScaled t then
        if (granuleElems t g).any (fun n => activeAt s.pre.curMask (Ty.width t) n && decide (n < lim)) then
          (granExponent s t lim u g + 127).toNat else 0x7F
        else 0x7F) % 256 := by
  have hcodes : ∀ n ∈ List.range (elemCount (Ty.width t)), convertedCode s t pol mode lim u n =
      .ok (.code (if activeAt s.pre.curMask (Ty.width t) n && decide (n < lim) then cs n else 0)) := by
    intro n _
    unfold convertedCode
    by_cases h : (activeAt s.pre.curMask (Ty.width t) n && decide (n < lim)) = true
    · rw [if_pos h, if_pos h]
      simp only [Bool.and_eq_true, decide_eq_true_eq] at h
      rw [hc n h.2 h.1]
      rfl
    · rw [if_neg h, if_neg h]
  refine ⟨_, (convertElems_eq hx).trans (congrArg _ (collect_map_ok hcodes)), fun n hn => ?_, fun g hg => ?_⟩
  · rw [elem_packVec _ _ (Ty.width_dvd t) (Ty.width_pos t) hn, List.getD_eq_getElem?_getD, List.getElem?_map, List.getElem?_map,
      List.getElem?_range (show n < elemCount _ from hn)]
    cases h : activeAt s.pre.curMask (Ty.width t) n <;> simp [h, ConvOut.get]
  · rw [granScale_packVec _ _ hg, List.getD_eq_getElem?_getD, List.getElem?_map, List.getElem?_range hg, Option.map_some,
      Option.getD_some]
    unfold convertedScale
    have hnan : ((((List.range (elemCount (Ty.width t))).map fun n => ConvOut.code
        (if activeAt s.pre.curMask (Ty.width t) n && decide (n < lim) then cs n else 0)).drop (256 / Ty.width t * g)).take
        (256 / Ty.width t)).any ConvOut.isNan = false := by
      rw [List.any_eq_false]
      intro e he
      obtain ⟨n, -, rfl⟩ := List.mem_map.1 (List.mem_of_mem_drop (List.mem_of_mem_take he))
      exact Bool.false_ne_true
    rw [hnan]
    rfl

/-- A conversion that overflows under TRAP. -/
theorem convertElems_overflow (h : ∃ n < elemCount (Ty.width t), activeAt s.pre.curMask (Ty.width t) n = true ∧ n < lim ∧
      convertOne s t pol mode (granExponent s t lim u) n (u n) = .overflow) :
    convertElems s t pol mode x = .error .cvtOverflow := by
  rw [convertElems_eq hx, collect_error (c := .cvtOverflow)]
  · rfl
  · intro e he c hc
    obtain ⟨n, -, rfl⟩ := List.mem_map.1 he
    unfold convertedCode at hc
    split at hc
    · unfold convOut at hc
      split at hc <;> cases hc
      rfl
    · cases hc
  · obtain ⟨n, hn, hact, hl, ho⟩ := h
    refine ⟨_, List.mem_map.2 ⟨n, List.mem_range.2 hn, rfl⟩, .cvtOverflow, ?_⟩
    unfold convertedCode
    rw [if_pos (by simp [hact, hl]), ho]
    rfl

end

theorem granActive_of_any {s : State} {t : Ty} {lim g : Nat}
    (h : (granuleElems t g).any (fun n => activeAt s.pre.curMask (Ty.width t) n && decide (n < lim)) = true) :
    granActive s.pre.curMask (Ty.width t) g = true := by
  obtain ⟨n, hn, hact⟩ := List.any_eq_true.1 h
  obtain ⟨j, hj, rfl⟩ := List.mem_map.1 hn
  exact List.any_eq_true.2 ⟨j, hj, (Bool.and_eq_true _ _ ▸ hact).1⟩

theorem vmode_issue {s u : State} (h : u.issue = s.issue) : vmode u = vmode s := by
  unfold vmode State.pre
  rw [h]

theorem pMode_issue {s u : State} (h : u.issue = s.issue) : pMode u = pMode s := by
  unfold pMode
  rw [vmode_issue h]

theorem convertElems_pre {s u : State} (h : u.pre = s.pre) : convertElems u = convertElems s := by
  unfold convertElems
  rw [h]

section
variable {i : Instr} {s s1 : State} {t : Ty} {lat : Nat} {pol : Pol} {mode : Nat → RMode} {x : Nat → Option (Except Cause Val)} {lim : Nat}
  {u : Nat → Val} (hi : exec i s = finish s (vdone s1 (convertElems s t pol mode x) lat))
  (hx : ∀ n < elemCount (Ty.width t), activeAt s.pre.curMask (Ty.width t) n = true →
      x n = if n < lim then some (.ok (u n)) else none)
include hi hx

/-- An instruction that converts, where every element has a code. -/
theorem convert_runs {cs : Nat → Nat} (hc : ∀ n < lim, activeAt s.pre.curMask (Ty.width t) n = true →
      convertOne s t pol mode (granExponent s t lim u) n (u n) = .code (cs n)) :
    VRuns i s s1 t lat (fun n => if n < lim then cs n else 0) fun g => if Ty.isScaled t then
        if (granuleElems t g).any (fun n => activeAt s.pre.curMask (Ty.width t) n && decide (n < lim)) then
          (granExponent s t lim u g + 127).toNat else 0x7F
        else 0x7F := by
  obtain ⟨v, hv, he, hg⟩ := convertElems_ok hx hc
  refine ⟨v, runs_of_ok hi ?_, he, fun g hg8 => ?_⟩
  · unfold vdone
    rw [hv]
  · rw [hg g hg8]
    by_cases hs : Ty.isScaled t = true
    · by_cases ha : (granuleElems t g).any (fun n => activeAt s.pre.curMask (Ty.width t) n && decide (n < lim)) = true
      · rw [if_pos (show (carriesScale t && _) = true by rw [granActive_of_any ha, carriesScale, hs]; rfl)]
      · simp only [if_pos hs, if_neg ha, Nat.reduceMod, ite_self]
    · simp only [if_neg hs, Nat.reduceMod, ite_self]

theorem convert_overflows (h : ∃ n < lim, activeAt s.pre.curMask (Ty.width t) n = true ∧
      convertOne s t pol mode (granExponent s t lim u) n (u n) = .overflow) (hlim : lim ≤ elemCount (Ty.width t)) :
    Raises i s (slotTrap s1 .cvtOverflow 0) := by
  obtain ⟨n, hn, hact, ho⟩ := h
  refine raises_of_trap hi ?_
  unfold vdone
  rw [convertElems_overflow hx ⟨n, Nat.lt_of_lt_of_le hn hlim, hact, hn, ho⟩]
  rfl

end

/-! ### The instructions -/

section
variable {s s1 s2 : State} {a : VSpec} {b : VOpnd} {x y : Vec}

theorem vcvt_exec {td ts : Ty} {pol : Pol} {m : Rm} (hx : readV s a 0 ts = .ok x s1) : exec (.vcvt a td pol m ts) s =
    finish s (vdone s1 (convertElems s td pol (vmode s m) fun n =>
      if n < min (elemCount (Ty.width ts)) (elemCount (Ty.width td)) then some (elemVal ts s.pre.fmte x n) else none) 3) := by
  have hi := exec_readV (i := .vcvt a td pol m ts) hx rfl
  rw [hi, vmode_issue (readV_issue hx), convertElems_pre (readV_pre hx), readV_pre hx]

theorem vscl_exec {t : Ty} {p : BitVec 2} {u : Nat → Val} (hx : readV s a 0 t = .ok x s1) (hy : readVO s1 b .z8 = .ok y s2)
    (hu : ∀ n, elemVal t s.pre.fmte x n = .ok (u n)) : exec (.vscl a b t p) s =
    finish s (vdone s2 (convertElems s t .sat (pMode s p) fun n => some (.ok ((u n).withScale (elem 8 y (n / 32))))) 3) := by
  have hp : s2.pre = s.pre := (readVO_pre hy).trans (readV_pre hx)
  have hi := exec_readVO (i := .vscl a b t p) hx hy rfl
  rw [hi, pMode_issue ((readVO_issue hy).trans (readV_issue hx)), convertElems_pre hp, hp]
  refine congrArg (fun f => finish s (vdone s2 (convertElems s t .sat (pMode s p) f) 3)) (funext fun n => ?_)
  rw [hu n]

/-- The lane of an element and the request that it raises (R326). -/
theorem anchorOf_eq (v : Vec) (n : Nat) : anchorOf v n = (BitVec.ofNat 32 (elem 32 v (n / 16))).toInt :=
  signed_eq_toInt 32 _ (by decide)

theorem vanc_runs {t : Ty} {p : BitVec 2} (hx : readV s a 0 t = .ok x s1) (hy : readVO s1 b .s32 = .ok y s2) :
    VRuns (.vanc a b t p) s s2 .a32 3 (fun n => intToCode 32 (toA32In (pMode s p n) (fcode t x n) (anchorOf y n)).1) fun g =>
      ((List.range 16).map fun j => if activeAt s.pre.curMask 32 (16 * (g / 2) + j) then
        (toA32In (pMode s p (16 * (g / 2) + j)) (fcode t x (16 * (g / 2) + j)) (anchorOf y (16 * (g / 2) + j))).2 else 0).foldl max 0 := by
  have hi := exec_readVO (i := .vanc a b t p) hx hy rfl
  have hs := (readVO_issue hy).trans (readV_issue hx)
  have hp : s2.pre = s.pre := congrArg Issue.pre hs
  rw [pMode_issue hs, hp] at hi
  exact vmap_runs hi hp fun n _ _ => rfl

theorem vdanc_runs {t : Ty} {p : BitVec 2} (hx : readV s a 0 .a32 = .ok x s1) (hy : readVO s1 b .s32 = .ok y s2) :
    VRuns (.vdanc a b t p) s s2 t 3 (fun n => if n < 64 then
      (Ty.fmt t).round (pMode s p n) (a32Val (signed 32 (elem 32 x n)) (anchorOf y n)) else 0) fun _ => 0x7F := by
  have hi := exec_readVO (i := .vdanc a b t p) hx hy rfl
  have hs := (readVO_issue hy).trans (readV_issue hx)
  rw [pMode_issue hs] at hi
  exact vmap_runs hi (congrArg Issue.pre hs) fun n _ _ => (apply_ite Except.ok _ _ _).symm

end

/-- The value of a 4-bit code under its group's byte and the FP32 scale, code 8 standing for +0 (R327). -/
def q16Elem (x y z : Vec) (n : Nat) : Val :=
  if elem 4 x n = 8 then .fin false 0 1 0 else q16Val (elem 4 x n) (elem 8 y (n / 64)) (fp32.decode (elem 32 z 0))

section
variable {s s1 s2 s3 : State} {a c : VSpec} {b : VOpnd} {t : Ty} {p : BitVec 2} {x y z : Vec}
  (hx : readV s a 0 .i4 = .ok x s1) (hy : readVO s1 b .z8 = .ok y s2) (hz : readV s2 c 2 .f32 = .ok z s3)
include hx hy hz

theorem vqdec_exec : exec (.vqdec a b c t p) s = finish s (vdone s3 (convertElems s t .sat (pMode s p) fun n =>
    if elem 4 x n = 8 ∧ bitsOf s.pre.fmte.toNat 5 2 = 3 then some (.error .intCode) else some (.ok (q16Elem x y z n))) 3) := by
  have hs : s3.issue = s.issue := (readV_issue hz).trans ((readVO_issue hy).trans (readV_issue hx))
  have hp : s3.pre = s.pre := congrArg Issue.pre hs
  have hi := exec_readV3 (i := .vqdec a b c t p) hx hy hz rfl
  rw [hi, pMode_issue hs, convertElems_pre hp, hp]
  refine congrArg (fun f => finish s (vdone s3 (convertElems s t .sat (pMode s p) f) 3)) (funext fun n => ?_)
  unfold q16Elem
  by_cases h8 : elem 4 x n = 8
  · simp only [h8, if_true, true_and]
  · simp only [h8, if_false, false_and]

end

/-- An active element that raises INT_CODE keeps a conversion from starting. -/
theorem convertElems_intCode {s : State} {t : Ty} {pol : Pol} {mode : Nat → RMode} {x : Nat → Option (Except Cause Val)}
    (hall : ∀ n c, x n = some (.error c) → c = .intCode)
    (h : ∃ n < elemCount (Ty.width t), activeAt s.pre.curMask (Ty.width t) n = true ∧ x n = some (.error .intCode)) :
    convertElems s t pol mode x = .error .intCode := by
  unfold convertElems
  dsimp only
  rw [collect_error (c := .intCode)]
  · intro e he c hc
    obtain ⟨n, -, rfl⟩ := List.mem_map.1 he
    split at hc
    · split at hc
      · cases hc
      · cases hc
        exact hall n _ ‹_›
      · cases hc
    · cases hc
  · obtain ⟨n, hn, hact, hc⟩ := h
    refine ⟨_, List.mem_map.2 ⟨n, List.mem_range.2 hn, rfl⟩, .intCode, ?_⟩
    rw [if_pos hact, hc]

section
variable {s s1 s2 s3 : State} {a c : VSpec} {b : VOpnd} {t : Ty} {p : BitVec 2} {x y z : Vec}
  (hx : readV s a 0 .i4 = .ok x s1) (hy : readVO s1 b .z8 = .ok y s2) (hz : readV s2 c 2 .f32 = .ok z s3)
include hx hy hz

theorem vqdec_runs {cs : Nat → Nat} (hf : Ty.isFloat t = true) (hns : Ty.isScaled t = false)
    (hnt : ¬ (s.pre.fmte.toNat / 2 ^ 5 % 4 = 3 ∧
      ∃ n, (n < elemCount (Ty.width t) ∧ activeAt s.pre.curMask (Ty.width t) n = true) ∧ elem 4 x n = 8))
    (hc : ∀ n, n < elemCount (Ty.width t) ∧ activeAt s.pre.curMask (Ty.width t) n = true →
      (Ty.fmt t).convert (pMode s p n) .sat (q16Elem x y z n) = .code (cs n)) :
    VRuns (.vqdec a b c t p) s s3 t 3 cs fun _ => 0x7F := by
  have hval : ∀ n < elemCount (Ty.width t), activeAt s.pre.curMask (Ty.width t) n = true →
      (if elem 4 x n = 8 ∧ bitsOf s.pre.fmte.toNat 5 2 = 3 then some (.error .intCode) else some (.ok (q16Elem x y z n))) =
        if n < elemCount (Ty.width t) then some (Except.ok (q16Elem x y z n) : Except Cause Val) else none := fun n hn hact => by
    rw [if_neg fun h => hnt ⟨h.2, n, ⟨hn, hact⟩, h.1⟩, if_pos hn]
  refine (convert_runs (vqdec_exec hx hy hz) hval (cs := cs) fun n hn hact => ?_).congr (fun n hn _ => ?_) fun g _ => ?_
  · unfold convertOne
    rw [hns, if_neg Bool.false_ne_true, if_pos hf]
    exact hc n ⟨hn, hact⟩
  · rw [if_pos (show n < elemCount _ from hn)]
  · rw [hns, if_neg Bool.false_ne_true]

theorem vqdec_raises {n : Nat} (h5 : s.pre.fmte.toNat / 2 ^ 5 % 4 = 3) (hn : n < elemCount (Ty.width t))
    (hact : activeAt s.pre.curMask (Ty.width t) n = true) (h8 : elem 4 x n = 8) :
    Raises (.vqdec a b c t p) s (slotTrap s3 .intCode 0) := by
  refine raises_of_trap (vqdec_exec hx hy hz) ?_
  unfold vdone
  rw [convertElems_intCode (fun n c h => ?_) ⟨n, hn, hact, if_pos ⟨h8, h5⟩⟩]
  · rfl
  · split at h <;> cases h
    rfl

end

/-- Settles O26, instruction by instruction. -/
theorem vectorConversionResults : Obligations.VectorConversionResults := by
  unfold Obligations.VectorConversionResults
  constructor
  · intro s s1 s2 a b td ts pol m p x y wd count act granule exponent scaleByte
    refine ⟨?_, ?_, ?_, ?_⟩
    · intro u cs hx hu
      have hx' : ∀ n < elemCount wd, act n = true → (if n < count then some (elemVal ts s.pre.fmte x n) else none) =
          if n < count then some (.ok (u n)) else none := by
        intro n _ hact
        split
        · rw [hu n ‹_› hact]
        · rfl
      refine ⟨fun hns hc => ?_, fun hs hc => ?_, fun hns hov => ?_⟩
      · refine (convert_runs (vcvt_exec hx) hx' (cs := cs) fun n hn hact => ?_).congr (fun _ _ _ => rfl) fun g _ => ?_
        · unfold convertOne
          rw [hns, if_neg Bool.false_ne_true]
          exact hc n hn hact
        · rw [hns, if_neg Bool.false_ne_true]
      · refine (convert_runs (vcvt_exec hx) hx' (cs := cs) fun n hn hact => ?_).congr (fun _ _ _ => rfl) fun g _ => ?_
        · unfold convertOne
          rw [if_pos hs]
          exact hc n hn hact
        · rw [if_pos hs]
          rfl
      · refine convert_overflows (vcvt_exec hx) hx' ?_ (Nat.min_le_right _ _)
        obtain ⟨n, hn, hact, ho⟩ := hov
        refine ⟨n, hn, hact, ?_⟩
        unfold convertOne
        rw [hns, if_neg Bool.false_ne_true]
        exact ho
    · intro u cs hx hy hs hu v hc
      refine (convert_runs (u := v) (vscl_exec hx hy hu) (lim := elemCount wd) (fun n hn _ => (if_pos hn).symm) (cs := cs)
        fun n hn hact => ?_).congr (fun n hn _ => by rw [if_pos (show n < elemCount wd from hn)]) fun g _ => ?_
      · unfold convertOne
        rw [if_pos hs]
        exact hc n hn hact
      · rw [if_pos hs]
        rfl
    · intro hx hy anchor lane
      refine (vanc_runs hx hy).congr (fun n _ _ => ?_) fun g _ => ?_
      · rw [anchorOf_eq]
        rfl
      · simp only [anchorOf_eq]
        rfl
    · intro hx hy anchor
      refine (vdanc_runs hx hy).congr (fun n _ _ => ?_) fun g _ => rfl
      rw [anchorOf_eq, signed_eq_toInt 32 _ (by decide)]
  · intro s s1 s2 s3 a c b t p x y z cs hx hy hz hf hns w act trapping v
    exact ⟨fun hnt hc => vqdec_runs hx hy hz hf hns hnt hc, fun ⟨h5, n, ⟨hn, hact⟩, h8⟩ => vqdec_raises hx hy hz h5 hn hact h8⟩

end Sys2Proof.Machine
end

section
/-! The movement instructions (R315, R324, R328, R329). -/

namespace Sys2Proof.Machine

/-- What a movement packs. -/
theorem vmove_ok (s : State) (t : Ty) (src : Nat → Vec × Nat) : ∃ v, vmove s t src = .ok v ∧ Moved s t v src := by
  obtain ⟨v, hv, he, hg⟩ := vmap_ok (s := s) (t := t) (f := fun n => .ok (elem (Ty.width t) (src n).1 (src n).2))
    (sc := fun g => granScale (src (256 / Ty.width t * g)).1 (granOf (Ty.width t) (src (256 / Ty.width t * g)).2)) fun n _ _ => rfl
  refine ⟨v, hv, fun n hn => ?_, hg⟩
  rw [he n hn, Nat.mod_eq_of_lt (elem_lt _ _ _)]

theorem Moved.pre {s u : State} {t : Ty} {v : Vec} {src : Nat → Vec × Nat} (h : Moved u t v src) (hp : u.pre = s.pre) :
    Moved s t v src := by
  unfold Moved at h ⊢
  rwa [hp] at h

/-- A movement that claims its result. -/
theorem vmove_runs {i : Instr} {s u : State} {t : Ty} {lat : Nat} {src : Nat → Vec × Nat}
    (hi : exec i s = finish s (vdone u (vmove u t src) lat)) (hp : u.pre = s.pre) :
    ∃ v, exec i s = .next (u.vresult v lat) ∧ Moved s t v src := by
  obtain ⟨v, hv, hm⟩ := vmove_ok u t src
  refine ⟨v, runs_of_ok hi ?_, hm.pre hp⟩
  unfold vdone
  rw [hv]

/-- Granules moved whole. -/
theorem moveGranules_moved (s : State) (src : Nat → Option (Vec × Nat)) : MovedWhole s (moveGranules s src) src := by
  constructor
  · intro n hn
    unfold moveGranules
    rw [elem_packVec _ _ (by decide) (by decide) hn, List.getD_eq_getElem?_getD, List.getElem?_map, List.getElem?_range hn]
    simp only [Option.map_some, Option.getD_some]
    cases activeAt s.pre.curMask 4 n with
    | false => rfl
    | true =>
      cases src (n / 64) with
      | none => rfl
      | some q => exact Nat.mod_eq_of_lt (elem_lt 4 q.1 _)
  · intro g hg
    unfold moveGranules maskedScales
    rw [granScale_packVec _ _ hg, List.getD_eq_getElem?_getD, List.getElem?_map, List.getElem?_range hg]
    simp only [Option.map_some, Option.getD_some]
    cases granActive s.pre.curMask 4 g with
    | false => rfl
    | true => cases src g <;> rfl

theorem MovedWhole.pre {s u : State} {v : Vec} {src : Nat → Option (Vec × Nat)} (h : MovedWhole u v src) (hp : u.pre = s.pre) :
    MovedWhole s v src := by
  unfold MovedWhole at h ⊢
  rwa [hp] at h

section
variable {s s1 s2 s3 : State} {a c : VSpec} {b : VOpnd} {t : Ty} {x y z : Vec}

theorem viota_runs (hx : readV s a 0 t = .ok x s1) :
    VRuns (.viota a t) s s1 t 2 (fun n => elem (Ty.width t) x 0 + n) (granScale x) :=
  (vun_codes (r := fun x n => (elem (Ty.width t) x 0 + n) % 2 ^ Ty.width t) hx rfl fun _ _ => rfl).congr
    (fun _ _ _ => Nat.mod_mod _ _) fun _ _ => rfl

/-- VMOV writes its register and its take. -/
theorem vmov_runs {k : Fin 16} (hx : readV s a 0 t = .ok x s1) : ∃ v, exec (.vmov a k t) s = .next
      ((s1.upd fun q => { q with v := q.v.set k ((q.v[k]).write q.clk ⟨v, q.clk, q.clk + 2, none⟩) }).vresult v 2) ∧
    Moved s t v fun n => (x, n) := by
  have hi := exec_readV (i := .vmov a k t) hx rfl
  obtain ⟨v, hv, hm⟩ := vmove_ok s1 t fun n => (x, n)
  rw [hv] at hi
  exact ⟨v, hi, hm.pre (readV_pre hx)⟩

end

/-- Settles O27, instruction by instruction. -/
theorem vectorMovementResults : Obligations.VectorMovementResults := by
  unfold Obligations.VectorMovementResults
  refine ⟨?_, ?_, ?_, ?_, ?_, ?_⟩
  · intro s s1 a t k x hx
    exact ⟨vmove_runs (exec_readV (i := .vbcst a t) hx rfl) (readV_pre hx), viota_runs hx, vmov_runs hx⟩
  · intro s s1 a t x hx
    obtain ⟨v, hv, he, -⟩ := viota_runs hx
    refine ⟨v, hv, ?_⟩
    rw [he 0 (by cases t <;> decide)]
    dsimp only
    rw [Nat.add_zero, Nat.mod_eq_of_lt (elem_lt _ _ _)]
  · intro s s1 s2 a b t hi x y hx hy w e half odd
    have hp : s2.pre = s.pre := (readVO_pre hy).trans (readV_pre hx)
    exact ⟨vmove_runs (exec_readVO (i := .vperm a b t) hx hy rfl) hp, vmove_runs (exec_readVO (i := .vext a b t) hx hy rfl) hp,
      vmove_runs (exec_readVO (i := .vzip a b t hi) hx hy rfl) hp, vmove_runs (exec_readVO (i := .vunzip a b t hi) hx hy rfl) hp⟩
  · intro s s1 s2 s3 a c b t x y z hx hy hz e by_
    exact vmove_runs (exec_readV3 (i := .vslide a b c t) hx hy hz rfl) ((readV_pre hz).trans ((readVO_pre hy).trans (readV_pre hx)))
  · intro s s1 s2 a b g x y hx hy
    exact ⟨_, exec_readVO (i := .vpack a b g) hx hy rfl, (moveGranules_moved s2 _).pre ((readVO_pre hy).trans (readV_pre hx))⟩
  · intro s s1 a g x hx
    exact ⟨_, exec_readV (i := .vunpk a g) hx rfl, (moveGranules_moved s1 _).pre (readV_pre hx)⟩

end Sys2Proof.Machine
end

section
/-! The reductions (R231, R232, R332). -/

namespace Sys2Proof.Machine

/-- The elements that a reduction takes in. -/
def activeElems (s : State) (t : Ty) : List Nat :=
  (List.range (elemCount (Ty.width t))).filter fun n => activeAt s.pre.curMask (Ty.width t) n

theorem reduceVec_elem (t : Ty) (c : Nat) {n : Nat} (hn : n < elemCount (Ty.width (reduceTy t))) :
    elem (Ty.width (reduceTy t)) (reduceVec t c) n = c % 2 ^ Ty.width (reduceTy t) := by
  unfold reduceVec
  dsimp only
  rw [elem_packVec _ _ (Ty.width_dvd _) (Ty.width_pos _) hn, List.getD_eq_getElem?_getD, List.getElem?_replicate, if_pos hn]
  rfl

theorem reduceVec_scale (t : Ty) (c : Nat) {g : Nat} (hg : g < 8) : granScale (reduceVec t c) g = 0x7F := by
  unfold reduceVec
  rw [granScale_packVec _ _ hg, List.getD_eq_getElem?_getD, List.getElem?_replicate, if_pos hg]
  rfl

theorem satSum_eq (t : Ty) (z : Int) : satSum t z =
    (max (intRange (reduceTy t) 0).1 (min (intRange (reduceTy t) 0).2 z) % 2 ^ 32).toNat := rfl

theorem roundSum_eq (s : State) (t : Ty) (p : BitVec 2) (n : Nat) (l : List Val) : roundSum s t p n l =
    (Ty.fmt (reduceTy t)).round (pMode s p n) (sumVals (decide (pMode s p n = .rdn)) l) := by
  rw [roundSum, isRdn_eq]

section
variable {i : Instr} {s s1 : State} {t : Ty} {c : Nat} {r : Except Cause Vec}

/-- A reduction that claims its one code. -/
theorem reduce_runs (hi : exec i s = finish s (vdone s1 r 6)) (hr : r = .ok (reduceVec t c)) :
    ∃ v, exec i s = .next (s1.vresult v 6) ∧ (∀ n < elemCount (Ty.width (reduceTy t)),
      elem (Ty.width (reduceTy t)) v n = c % 2 ^ Ty.width (reduceTy t)) ∧ ∀ g < 8, granScale v g = 0x7F := by
  refine ⟨reduceVec t c, runs_of_ok hi ?_, fun _ => reduceVec_elem t c, fun _ => reduceVec_scale t c⟩
  unfold vdone
  rw [hr]

end

section
variable {s : State} {t : Ty} {p : BitVec 2} {x : Vec}

theorem activeVals_ok {u : Nat → Val} (hu : ∀ n ∈ activeElems s t, elemVal t s.pre.fmte x n = .ok (u n)) :
    activeVals s t x = .ok ((activeElems s t).map u) := collect_map_ok hu

theorem activeInts_ok {u : Nat → Int} (hu : ∀ n ∈ activeElems s t, elemInt t s.pre.fmte x n = .ok (u n)) :
    activeInts s t x = .ok ((activeElems s t).map u) := collect_map_ok hu

theorem reduceSum_float {l : List Val} {ints : Except Cause (List Int)} (hf : Ty.isFloat t = true) :
    reduceSum s t p (.ok l) ints = .ok (reduceVec t (roundSum s t p 0 l)) :=
  if_neg (by simp [isIntTy, hf])

theorem reduceSum_int {l : List Int} {vals : Except Cause (List Val)} (hf : Ty.isFloat t = false) :
    reduceSum s t p vals (.ok l) = .ok (reduceVec t (satSum t l.sum)) := by
  rw [List.sum_eq_foldl]
  exact if_pos (by simp [isIntTy, hf])

theorem reduceExtreme_float {l : List Val} (big : Bool) (hf : Ty.isFloat t = true) (hl : activeVals s t x = .ok l) :
    reduceExtreme s big t x = .ok (reduceVec t ((Ty.fmt (reduceTy t)).round .rne (extremeVal big l))) := by
  unfold reduceExtreme
  rw [if_neg (by simp [isIntTy, hf]), hl]

theorem reduceExtreme_int {l : List Int} (big : Bool) (hf : Ty.isFloat t = false) (hl : activeInts s t x = .ok l) :
    reduceExtreme s big t x = .ok (reduceVec t (intToCode 32 (extremeInt big t l))) := by
  unfold reduceExtreme
  rw [if_pos (by simp [isIntTy, hf]), hl]

end
section
variable {s s1 s2 : State} {a : VSpec} {b : VOpnd} {t : Ty} {p : BitVec 2} {x y : Vec}

/-- What the active elements and the modes are, the operands' reads leave. -/
theorem reduce_pre {u : State} (h : u.issue = s.issue) : activeVals u = activeVals s ∧ activeInts u = activeInts s ∧
    reduceSum u = reduceSum s ∧ reduceExtreme u = reduceExtreme s ∧ roundSum u = roundSum s := by
  have hp : u.pre = s.pre := congrArg Issue.pre h
  have hv : activeVals u = activeVals s := by unfold activeVals; rw [hp]
  have hn : activeInts u = activeInts s := by unfold activeInts; rw [hp]
  have hr : roundSum u = roundSum s := by unfold roundSum; rw [pMode_issue h]
  refine ⟨hv, hn, ?_, ?_, hr⟩
  · unfold reduceSum
    rw [hr]
  · unfold reduceExtreme
    rw [hv, hn]

theorem vrsum_exec (hx : readV s a 0 t = .ok x s1) : exec (.vrsum a t p) s =
    finish s (vdone s1 (reduceSum s t p (activeVals s t x) (activeInts s t x)) 6) := by
  have hi := exec_readV (i := .vrsum a t p) hx rfl
  obtain ⟨hv, hn, hs, -, -⟩ := reduce_pre (readV_issue hx)
  rw [hi, hv, hn, hs]

theorem vrmax_exec (hx : readV s a 0 t = .ok x s1) : exec (.vrmax a t) s =
    finish s (vdone s1 (reduceExtreme s true t x) 6) := by
  have hi := exec_readV (i := .vrmax a t) hx rfl
  obtain ⟨-, -, -, he, -⟩ := reduce_pre (readV_issue hx)
  rw [hi, he]

theorem vrmin_exec (hx : readV s a 0 t = .ok x s1) : exec (.vrmin a t) s =
    finish s (vdone s1 (reduceExtreme s false t x) 6) := by
  have hi := exec_readV (i := .vrmin a t) hx rfl
  obtain ⟨-, -, -, he, -⟩ := reduce_pre (readV_issue hx)
  rw [hi, he]

theorem vdot_exec (hx : readV s a 0 t = .ok x s1) (hy : readVO s1 b t = .ok y s2) : exec (.vdot a b t p) s =
    finish s (vdone s2 (reduceSum s t p (products Val.mul (activeVals s t x) (activeVals s t y))
      (products (· * ·) (activeInts s t x) (activeInts s t y))) 6) := by
  have hi := exec_readVO (i := .vdot a b t p) hx hy rfl
  obtain ⟨hv, hn, hs, -, -⟩ := reduce_pre ((readVO_issue hy).trans (readV_issue hx))
  rw [hi, hv, hn, hs]

/-- The active elements up to one (R332). -/
def activeUpTo (s : State) (t : Ty) (n : Nat) : List Nat :=
  (List.range (n + 1)).filter fun i => activeAt s.pre.curMask (Ty.width t) i

theorem activeUpTo_subset {n : Nat} (hn : n < elemCount (Ty.width t)) : ∀ i ∈ activeUpTo s t n, i ∈ activeElems s t := by
  intro i hi
  obtain ⟨hlt, hact⟩ := List.mem_filter.1 hi
  have hlt := List.mem_range.1 hlt
  exact List.mem_filter.2 ⟨List.mem_range.2 (by omega), hact⟩

theorem vscan_float (hf : Ty.isFloat t = true) (hx : readV s a 0 t = .ok x s1) : VRuns (.vscan a t p) s s1 t 6
    (fun n => roundSum s t p n ((activeUpTo s t n).map fun i => fcode t x i)) fun _ => 0x7F := by
  have hi := exec_readV (i := .vscan a t p) hx rfl
  have hp := readV_pre hx
  obtain ⟨-, -, -, -, hr⟩ := reduce_pre (readV_issue hx)
  rw [hr, hp] at hi
  exact vmap_runs hi hp fun n _ _ => if_neg (by simp [isIntTy, hf])

theorem vscan_int {u : Nat → Int} (hf : Ty.isFloat t = false) (hx : readV s a 0 t = .ok x s1)
    (hu : ∀ n ∈ activeElems s t, elemInt t s.pre.fmte x n = .ok (u n)) : VRuns (.vscan a t p) s s1 t 6
    (fun n => satSum t ((activeUpTo s t n).map u).sum) fun _ => 0x7F := by
  have hi := exec_readV (i := .vscan a t p) hx rfl
  have hp := readV_pre hx
  refine vmap_runs hi hp fun n hn _ => ?_
  rw [if_pos (by simp [isIntTy, hf]), hp]
  have hl := collect_map_ok fun i hi => hu i (activeUpTo_subset hn i hi)
  unfold activeUpTo at hl
  rw [hl, List.sum_eq_foldl]
  rfl

end

/-- A scan's scale bytes are those of a type that has none. -/
theorem VRuns.plain {i : Instr} {s s1 : State} {t : Ty} {lat : Nat} {f : Nat → Nat} (h : VRuns i s s1 t lat f fun _ => 0x7F) :
    ∃ v, exec i s = .next (s1.vresult v lat) ∧ (∀ n < elemCount (Ty.width t), elem (Ty.width t) v n =
      if activeAt s.pre.curMask (Ty.width t) n then f n % 2 ^ Ty.width t else 0) ∧ ∀ g < 8, granScale v g = 0x7F := by
  obtain ⟨v, hv, he, hg⟩ := h
  refine ⟨v, hv, he, fun g h8 => ?_⟩
  rw [hg g h8]
  split <;> rfl

/-- Settles O28, type by type and instruction by instruction. -/
theorem vectorReductionResults : Obligations.VectorReductionResults := by
  unfold Obligations.VectorReductionResults
  intro s s1 a t p x hx w actives rt filled sum lo hi isum scanned upTo
  constructor
  · intro u hf hu
    have hl := activeVals_ok hu
    refine ⟨reduce_runs (c := sum 0 (actives.map u)) (vrsum_exec hx) ?_, reduce_runs (vrmax_exec hx) (reduceExtreme_float true hf hl),
      reduce_runs (vrmin_exec hx) (reduceExtreme_float false hf hl), ?_, fun b y s2 v hy hv =>
      reduce_runs (c := sum 0 (actives.map fun n => (u n).mul (v n))) (vdot_exec hx hy) ?_⟩
    · rw [hl, reduceSum_float hf, roundSum_eq]
      rfl
    · have h := (vscan_float (p := p) hf hx).plain
      simp only [roundSum_eq] at h
      exact h
    · rw [hl, activeVals_ok hv]
      refine (reduceSum_float hf).trans ?_
      rw [roundSum_eq, List.zipWith_map, List.zipWith_self]
      rfl
  · intro u hf hu
    have hl := activeInts_ok hu
    refine ⟨reduce_runs (c := isum (actives.map u)) (vrsum_exec hx) ?_,
      reduce_runs (vrmax_exec hx) (reduceExtreme_int true hf hl), reduce_runs (vrmin_exec hx) (reduceExtreme_int false hf hl),
      (vscan_int hf hx hu).plain, fun b y s2 v hy hv =>
      reduce_runs (c := isum (actives.map fun n => u n * v n)) (vdot_exec hx hy) ?_⟩
    · rw [hl, reduceSum_int hf]
      rfl
    · rw [hl, activeInts_ok hv]
      refine (reduceSum_int hf).trans ?_
      rw [List.zipWith_map, List.zipWith_self]
      rfl

end Sys2Proof.Machine
end

section
/-! The mask stack and stream writes (R145, R150, R330, R333). -/

namespace Sys2Proof.Machine

/-- The bits of a row of flags. -/
theorem getLsbD_packDigits (ds : List Nat) {n j : Nat} (hj : j < n) :
    (BitVec.ofNat n (packDigits 1 ds)).getLsbD j = decide (ds.getD j 0 % 2 = 1) := by
  have h := bitsOf_packDigits (w := 1) ds j 0 1 (by omega)
  unfold bitsOf at h
  rw [BitVec.getLsbD_ofNat, decide_eq_true hj, Bool.true_and, Nat.testBit_eq_decide_div_mod_eq]
  refine decide_eq_decide.2 (iff_of_eq (congrArg (· = 1) ?_))
  simpa using h

theorem derivedMask_getLsbD (t : Ty) (x : Vec) {i : Nat} (hi : i < 512) :
    (derivedMask t x).getLsbD i = decide (elem (Ty.width t) x (4 * i / Ty.width t) ≠ 0) := by
  unfold derivedMask
  rw [getLsbD_packDigits _ hi, List.getD_eq_getElem?_getD, List.getElem?_map, List.getElem?_range hi, Option.map_some, Option.getD_some]
  split <;> simp [*]

theorem pushMask_getLsbD (m : BitVec 512) (w : Nat) {i : Nat} (hi : i < 512) :
    (pushMask m w).1.getLsbD i = activeAt m w (4 * i / w) := by
  unfold pushMask
  dsimp only
  rw [getLsbD_packDigits _ hi, List.getD_eq_getElem?_getD, List.getElem?_map, List.getElem?_range hi, Option.map_some, Option.getD_some]
  split <;> simp [*]

/-! ### The mask stack -/

theorem mask_top (s : State) : (∀ top rest, s.cur.mask = top :: rest →
      exec .minv s = .next (s.upd fun k => { k with mask := (rest.headD (BitVec.allOnes 512) &&& ~~~top) :: rest }) ∧
      exec .mpop s = .next (s.upd fun k => { k with mask := rest })) ∧
    (s.cur.mask = [] → Raises .minv s (slotTrap s .maskUnderflow 0) ∧ Raises .mpop s (slotTrap s .maskUnderflow 0)) := by
  constructor
  · intro top rest h
    constructor
    · change execMinv s = _
      unfold execMinv
      rw [h, finish_ok]
    · change execMpop s = _
      unfold execMpop
      rw [h, finish_ok]
  · intro h
    constructor
    · refine raises_of_trap (i := .minv) rfl ?_
      rw [h]
      rfl
    · refine raises_of_trap (i := .mpop) rfl ?_
      rw [h]
      rfl

section
variable {s s1 : State} {a : VSpec} {t : Ty} {x : Vec} (hx : readV s a 0 t = .ok x s1)
include hx

theorem mpush_runs (h : s1.cur.mask.length < 16) : exec (.mpush a t) s =
    .next (s1.upd fun k => { k with mask := (k.mask.headD (BitVec.allOnes 512) &&& derivedMask t x) :: k.mask }) :=
  runs_of_ok (exec_readV (i := .mpush a t) hx rfl) (need_of (decide_eq_true h))

theorem mpush_raises (h : 16 ≤ s1.cur.mask.length) : Raises (.mpush a t) s (slotTrap s1 .maskOverflow 0) :=
  raises_of_trap (exec_readV (i := .mpush a t) hx rfl) (need_of_not (decide_eq_false (Nat.not_lt.2 h)))

theorem mset_runs (h : s1.cur.mask ≠ []) : exec (.mset a t) s =
    .next (s1.upd fun k => { k with mask := derivedMask t x :: k.mask.tail }) := by
  have hi := exec_readV (i := .mset a t) hx rfl
  obtain ⟨top, rest, hm⟩ := List.exists_cons_of_ne_nil h
  rw [hi, hm, finish_ok]
  refine congrArg _ (State.upd_congr ?_)
  rw [hm]
  rfl

theorem mset_raises (h : s1.cur.mask = []) : Raises (.mset a t) s (slotTrap s1 .maskUnderflow 0) := by
  refine raises_of_trap (exec_readV (i := .mset a t) hx rfl) ?_
  rw [h]
  rfl

end

/-! ### Stream writes -/

/-- The other streams that a stored vector's ranges drain (R145). -/
def Core.drainOthers (k : Core) (i : Fin 8) (ranges : List (Word × Nat)) : Core :=
  ranges.foldl (fun k (a, len) => (List.finRange 8).foldl (fun k j =>
    if j ≠ i ∧ (k.streams[j]).overlaps a.toNat len then k.drainAll j else k) k) k

section
variable {s : State} {i : Fin 8} {v : SVec} (hbound : (s.cur.streams[i]).bound = true) (hwr : (s.cur.streams[i]).wr = true)
  (hdiff : (s.cur.streams[i]).diff = false)
include hbound hwr hdiff

theorem pushStream_end (h : blkTotal (s.cur.streams[i]).block ≤ (s.cur.streams[i]).pos) :
    pushStream s i v = .trap (slotTrap s .streamEnd (streamInfo i 2)) := by
  unfold pushStream
  dsimp only
  rw [hdiff, hbound, hwr]
  exact need_of_not (decide_eq_false (Nat.not_lt.2 h))

variable (hpos : (s.cur.streams[i]).pos < blkTotal (s.cur.streams[i]).block)
  (hcause : vectorCause s.pre (s.cur.streams[i]) (s.cur.streams[i]).pos = none)
  (hbar : (((s.cur.streams[i]).ranges (s.cur.streams[i]).pos).all fun r => !touchesBarrier s.pre.hdr r.1.toNat r.2) = true)
include hpos hcause hbar

/-- A push into a bound write stream in no region, its checks passed. -/
theorem pushStream_checked : pushStream s i v = if 16 ≤ (s.cur.streams[i]).buf.length then .hold (.stream i)
    else match vectorHold s (s.cur.streams[i]) (s.cur.streams[i]).pos with
      | some (.polder p o) => .hold (.polder p o)
      | _ => .ok () ((s.upd fun k => k.drainOthers i ((s.cur.streams[i]).ranges (s.cur.streams[i]).pos)).upd fun k => k.setStream i
          { s.cur.streams[i] with pos := (s.cur.streams[i]).pos + 1,
                                  buf := (s.cur.streams[i]).buf ++ [{ v with due := s.cycle + 4 }] }) := by
  have hnone : ((s.cur.streams[i]).ranges (s.cur.streams[i]).pos).find? (fun (a, len) => touchesBarrier s.pre.hdr a.toNat len) = none := by
    rw [List.find?_eq_none]
    intro r hr h
    rw [List.all_eq_true] at hbar
    have := hbar r hr
    simp_all
  unfold pushStream Stream.index
  dsimp only
  rw [hdiff, hbound, hwr]
  refine (need_of rfl).trans ((need_of (decide_eq_true hpos)).trans ?_)
  rw [Bool.false_and, if_neg Bool.false_ne_true, hcause]
  dsimp only
  rw [hnone]
  rfl

theorem pushStream_full (h : 16 ≤ (s.cur.streams[i]).buf.length) : pushStream s i v = .hold (.stream i) := by
  rw [pushStream_checked hbound hwr hdiff hpos hcause hbar, if_pos h]

theorem pushStream_ok (h : (s.cur.streams[i]).buf.length < 16)
    (hhold : vectorHold s (s.cur.streams[i]) (s.cur.streams[i]).pos = none) : pushStream s i v =
      .ok () ((s.upd fun k => k.drainOthers i ((s.cur.streams[i]).ranges (s.cur.streams[i]).pos)).upd fun k => k.setStream i
          { s.cur.streams[i] with pos := (s.cur.streams[i]).pos + 1,
                                  buf := (s.cur.streams[i]).buf ++ [{ v with due := s.cycle + 4 }] }) := by
  rw [pushStream_checked hbound hwr hdiff hpos hcause hbar, if_neg (Nat.not_le.2 h), hhold]

end

theorem pushStream_unbound {s : State} {i : Fin 8} {v : SVec} (h : (s.cur.streams[i]).bound = false) :
    pushStream s i v = .trap (slotTrap s .streamUnbound (streamInfo i 2)) := by
  unfold pushStream
  dsimp only
  rw [h]
  rfl

theorem OnlyCores.memory {s t : State} (h : OnlyCores s t) : SameMemory s t :=
  SameMemory.of_eq (congrArg State.mem h :) (congrArg State.l2 h :)

theorem OnlyCores.cycle {s t : State} (h : OnlyCores s t) : t.cycle = s.cycle := (congrArg State.cycle h :)

/-- Settles O29, the mask stack first. -/
theorem maskStackAndVswEffects : Obligations.MaskStackAndVswEffects := by
  unfold Obligations.MaskStackAndVswEffects
  refine ⟨fun s => mask_top s, fun s s1 a t x hx => ⟨derivedMask t x, fun i => derivedMask_getLsbD t x, mpush_runs hx,
    mpush_raises hx, mset_runs hx, mset_raises hx⟩, ?_⟩
  intro s s1 a n t x hx st i
  have hi := exec_readV (i := .vsw a n t) hx rfl
  have hs : OnlyCores s s1 := readV_leads s a 0 t x s1 hx
  have hp : s1.pre = s.pre := readV_pre hx
  rw [← hp]
  refine ⟨fun hb hw hd hpos hc hbar hbuf hhold => ?_, fun hb => raises_of_trap hi (pushStream_unbound hb),
    fun hb hw hd hpos => raises_of_trap hi (pushStream_end hb hw hd hpos),
    fun hb hw hd hpos hc hbar hbuf => holds_of_hold hi (pushStream_full hb hw hd hpos hc hbar hbuf)⟩
  refine ⟨_, runs_of_ok hi (pushStream_ok hb hw hd hpos hc hbar hbuf hhold), hs.memory.trans (SameMemory.of_eq rfl rfl),
    { val := x, nib := (pushMask s1.pre.curMask (Ty.width t)).1, gran := (pushMask s1.pre.curMask (Ty.width t)).2,
      due := s1.cycle + 4 }, ?_, rfl, ?_, fun j hj => pushMask_getLsbD _ _ hj⟩
  · rw [State.cur_upd]
    exact Vector.getElem_set_self _
  · exact congrArg (· + 4) hs.cycle

end Sys2Proof.Machine
end

section
/-! The M slot at issue (R334-R346): operations that enter the queue. -/

namespace Sys2Proof.Machine

theorem State.meter_mem (s : State) (part : Nat) (m : Fin 16) (n : Nat) : (s.meter part m n).mem = s.mem := by
  unfold State.meter
  split
  · split <;> rfl
  · rfl

theorem State.meter_l2 (s : State) (part : Nat) (m : Fin 16) (n : Nat) : (s.meter part m n).l2 = s.l2 := by
  unfold State.meter
  split
  · split <;> rfl
  · rfl

theorem State.meter_cur (s : State) (part : Nat) (m : Fin 16) (n : Nat) : (s.meter part m n).cur = s.cur := by
  rw [State.cur, State.cur, (State.meter_memorySide s part m n).issue, State.meter_coreAt]

/-- An operation with what it captures at its issue (R334). -/
def matOpOf (s : State) (i : Instr) : MatOp :=
  { op := i, ofs := s.issue.ofs, fmte := s.pre.fmte.setWidth 7, frm := s.pre.frm, srseed := s.pre.srseed }

section
variable {s : State} (hroom : s.cur.mops.length < min 4 s.pre.hdr.moqMax)
include hroom

theorem enqueue_ok (i : Instr) : enqueue s i = .ok () (s.upd fun k => { k with mops := k.mops ++ [matOpOf s i] }) := by
  unfold enqueue
  exact need_of (decide_eq_true hroom)

/-- An operation whose checks pass. -/
theorem enqueues_of {i : Instr} {r : SlotRes Unit} (hi : exec i s = finish s r) (hr : r = enqueue s i) : Enqueues i s := by
  refine ⟨_, runs_of_ok hi (hr.trans (enqueue_ok hroom i)), SameMemory.of_eq rfl rfl, fun d hd => State.upd_coreAt_ne _ _ hd, ?_, ?_⟩
  · rw [State.cur_upd]
  · rw [State.cur_upd]
    rfl

/-- An outer product whose checks pass: its meter counts too. -/
theorem enqueues_outer {i : Instr} {u : Outer} (hi : exec i s = finish s (issueOuter s i)) (hu : outerOf i = some u)
    (hla : tileLoading s u.a = false) (hlb : tileLoading s u.b = false) (hra : tcfgRows (s.pre.tiles[u.a]).cfg ≠ 0)
    (hrb : tcfgRows (s.pre.tiles[u.b]).cfg ≠ 0) (h64 : tcfgRows (s.pre.tiles[u.b]).cfg ≤ 64)
    (hna : u.n * Ty.width (s.pre.tiles[u.a]).ty ≤ 8 * tcfgRbytes (s.pre.tiles[u.a]).cfg)
    (hnb : u.n * Ty.width (s.pre.tiles[u.b]).ty ≤ 8 * tcfgRbytes (s.pre.tiles[u.b]).cfg)
    (hpair : pairOk (s.pre.tiles[u.a]).ty (s.pre.tiles[u.b]).ty = true) : Enqueues i s := by
  have hr : issueOuter s i = .ok () ((s.upd fun k => { k with mops := k.mops ++ [matOpOf s i] }).meter s.pre.part
      (macMeter (Ty.width (s.pre.tiles[u.a]).ty)) (tcfgRows (s.pre.tiles[u.a]).cfg * tcfgRows (s.pre.tiles[u.b]).cfg * u.n)) := by
    unfold issueOuter
    rw [hu]
    dsimp only
    rw [hla, hlb, Bool.or_self, if_neg Bool.false_ne_true]
    refine (need_of ?_).trans ((need_of (decide_eq_true h64)).trans ((need_of ?_).trans ((need_of hpair).trans ?_)))
    · exact (Bool.and_eq_true _ _).mpr ⟨by simpa [Tile.released] using hra, by simpa [Tile.released] using hrb⟩
    · exact (Bool.and_eq_true _ _).mpr ⟨decide_eq_true hna, decide_eq_true hnb⟩
    · rw [enqueue_ok hroom]
      rfl
  refine ⟨_, runs_of_ok hi hr, SameMemory.of_eq (State.meter_mem _ _ _ _) (State.meter_l2 _ _ _ _), fun d hd => ?_, ?_, ?_⟩
  · rw [State.meter_coreAt, State.upd_coreAt_ne _ _ hd]
  · rw [State.meter_cur, State.cur_upd]
  · rw [State.meter_cur, State.cur_upd]
    rfl

/-- An MSAVE or MLOAD whose checks pass (R344). -/
theorem enqueues_save {i : Instr} {save h : Bool} {p : Fin 32} (hi : exec i s = finish s (issueSave s i save h p))
    (hpol : s.pre.hdr.polders.getLsbD p.val = true) (hreg : regionAt s.pre.hdr false (65536 * p.val + (if h then 32768 else 0)) 32768 = none)
    (hfor : foreignPolder s.cur (65536 * p.val + (if h then 32768 else 0)) 32768 = none)
    (hbar : (save && touchesBarrier s.pre.hdr (65536 * p.val + (if h then 32768 else 0)) 32768) = false) : Enqueues i s := by
  refine enqueues_of hroom hi ?_
  have hoff : (if h then 32768 else 0) = 32768 * h.toNat := by cases h <;> rfl
  rw [hoff] at hreg hfor hbar
  unfold issueSave
  dsimp only
  rw [hbar, hreg, hfor]
  exact (need_of hpol).trans ((need_of rfl).trans (need_of rfl))

end

theorem mfence_runs {s : State} (h : s.cur.mops = [] ∨ s.pre.level ≠ s.pre.base) : Runs .mfence s s := by
  refine runs_of_ok (i := .mfence) rfl (if_neg ?_)
  rcases h with h | h <;> simp [h, engineRuns]

theorem mfence_waits {s : State} (h : s.cur.mops ≠ []) (hl : s.pre.level = s.pre.base) : Runs .mfence s
    ((s.upd fun k => { k with wait := some .mfence }).mark (.held .mfence)) := by
  have hw : (engineRuns s.pre && !s.cur.mops.isEmpty) = true := by simp [engineRuns, hl, h]
  change finish s (if (engineRuns s.pre && !s.cur.mops.isEmpty) = true then .hold .mfence else .ok () s) = _
  rw [if_pos hw]
  rfl

/-- Settles O30, form by form. -/
theorem matrixOperationsEnterTheQueue : Obligations.MatrixOperationsEnterTheQueue := by
  unfold Obligations.MatrixOperationsEnterTheQueue
  constructor
  · intro s z y a b q k e v neg h p qu pol m first rows t hroom ta tb n off
    exact ⟨fun hla hlb hra hrb h64 hna hnb hp => ⟨enqueues_outer hroom rfl rfl hla hlb hra hrb h64 hna hnb hp,
        enqueues_outer hroom rfl rfl hla hlb hra hrb h64 hna hnb hp, enqueues_outer hroom rfl rfl hla hlb hra hrb h64 hna hnb hp,
        enqueues_outer hroom rfl rfl hla hlb hra hrb h64 hna hnb hp⟩,
      enqueues_of hroom rfl rfl, fun hacc => enqueues_of hroom rfl (need_of hacc), enqueues_of hroom rfl rfl,
      enqueues_of hroom rfl rfl, fun hpol hreg hfor => ⟨enqueues_save hroom rfl hpol hreg hfor rfl,
        fun hbar => enqueues_save hroom rfl hpol hreg hfor (by rw [hbar]; rfl)⟩⟩
  · exact fun s v => ⟨runs_of_ok rfl rfl, mfence_runs, mfence_waits⟩

end Sys2Proof.Machine
end

section
/-! What the matrix engine does to its accumulators (R339, R340, R344). -/

namespace Sys2Proof.Machine

/-! ### Accumulators -/

theorem SMap.get_filterMap {α : Type} [DecidableEq α] (d : α) (f : Nat → α) (l : List Nat) (k : Nat) :
    SMap.get d (l.filterMap fun n => if f n = d then none else some (n, f n)) k = if k ∈ l then f k else d := by
  induction l with
  | nil => rfl
  | cons a l ih =>
    rw [List.filterMap_cons]
    by_cases ha : f a = d
    · rw [if_pos ha]
      refine ih.trans ?_
      by_cases hk : k = a
      · subst hk
        simp [ha]
      · simp [hk]
    · rw [if_neg ha]
      change (if k = a then f a else SMap.get d _ k) = _
      by_cases hk : k = a
      · subst hk
        simp
      · rw [if_neg hk, ih]
        simp [hk]

theorem accGet_accOf (f : Nat → Nat → BitVec 32) {i j : Nat} (hi : i < 128) (hj : j < 64) : accGet (accOf f) i j = f i j := by
  have h := SMap.get_filterMap (0 : BitVec 32) (fun n => f (n / 64) (n % 64)) (List.range 8192) (64 * i + j)
  rw [if_pos (List.mem_range.2 (by omega)), show (64 * i + j) / 64 = i by omega, show (64 * i + j) % 64 = j by omega] at h
  exact h

theorem accGet_zero (i j : Nat) : accGet [] i j = 0 := rfl

/-! ### Bytes of an accumulator -/

theorem readBytes_add (m : Mem) : ∀ (i a n : Nat), (m.readBytes a (i + n)).drop i = m.readBytes (a + i) n
  | 0, a, n => by rw [Nat.zero_add]; rfl
  | i + 1, a, n => by
    rw [Nat.add_right_comm i 1 n, Mem.readBytes, List.drop_succ_cons, readBytes_add m i (a + 1) n, Nat.add_assoc a 1 i,
      Nat.add_comm 1 i]

theorem readBytes_take (m : Mem) : ∀ (n a k : Nat), (m.readBytes a (n + k)).take n = m.readBytes a n
  | 0, _, _ => rfl
  | n + 1, a, k => by
    rw [Nat.add_right_comm n 1 k, Mem.readBytes, List.take_succ_cons, readBytes_take m n (a + 1) k, Mem.readBytes]

/-- Part of a block of bytes as written. -/
theorem readBytes_writeBytes_part {m : Mem} (a : Nat) (bs : List Byte) {i n : Nat} (h : i + n ≤ bs.length) :
    (m.writeBytes a bs).readBytes (a + i) n = (bs.drop i).take n := by
  obtain ⟨r, hr⟩ := Nat.exists_eq_add_of_le h
  have hall := Mem.readBytes_writeBytes (m := m) a bs
  rw [hr, Nat.add_assoc] at hall
  calc _ = (((m.writeBytes a bs).readBytes a (i + (n + r))).drop i).take n := by rw [readBytes_add, readBytes_take]
    _ = _ := by rw [hall]

theorem flatMap_drop {α β : Type} {g : α → List β} {w : Nat} (hg : ∀ a, (g a).length = w) :
    ∀ (l : List α) (n : Nat), (l.flatMap g).drop (w * n) = (l.drop n).flatMap g
  | _, 0 => rfl
  | [], n + 1 => by simp
  | a :: l, n + 1 => by
    rw [List.flatMap_cons, Nat.mul_succ, Nat.add_comm, ← List.drop_drop, List.drop_left' (hg a), flatMap_drop hg l n,
      List.drop_succ_cons]

theorem flatMap_length {α β : Type} {g : α → List β} {w : Nat} (hg : ∀ a, (g a).length = w) (l : List α) :
    (l.flatMap g).length = w * l.length := by
  induction l with
  | nil => rfl
  | cons a l ih => rw [List.flatMap_cons, List.length_append, hg, ih, List.length_cons, Nat.mul_succ, Nat.add_comm]

theorem accBytes_length (a : Acc) : (accBytes a).length = 32768 := by
  unfold accBytes
  rw [flatMap_length (w := 4) fun _ => natToBytes_length _ _, List.length_range]

/-- An element of an accumulator as MSAVE lays it out. -/
theorem readLE_accBytes (m : Mem) (off : Nat) (a : Acc) {i j : Nat} (hi : i < 128) (hj : j < 64) :
    (m.writeBytes off (accBytes a)).readLE (off + 256 * i + 4 * j) 4 = (accGet a i j).toNat := by
  have hpart := readBytes_writeBytes_part (m := m) off (accBytes a) (i := 4 * (64 * i + j)) (n := 4)
    (by rw [accBytes_length]; omega)
  have hbytes : ((accBytes a).drop (4 * (64 * i + j))).take 4 = natToBytes 4 (accGet a i j).toNat := by
    unfold accBytes
    rw [flatMap_drop (w := 4) fun _ => natToBytes_length _ _]
    rw [List.drop_eq_getElem_cons (by simp; omega), List.flatMap_cons, List.take_left' (natToBytes_length _ _), List.getElem_range]
    rfl
  rw [show off + 256 * i + 4 * j = off + 4 * (64 * i + j) by omega]
  change bytesToNat (Mem.readBytes _ _ _) = _
  rw [hpart, hbytes, bytesToNat_natToBytes]
  exact Nat.mod_eq_of_lt (accGet a i j).isLt

/-! ### Operations -/

theorem Core.setAcc_acc (k : Core) (z : Fin 8) (a : Acc) : (k.setAcc z a).acc[z] = a := Vector.getElem_set_self _

/-- The operations of the outer product family. -/
theorem outerOf_some {i : Instr} {u : Outer} (h : outerOf i = some u) : ∃ z a b k neg,
    i = .mop z a b k neg ∨ i = .mopz z a b k neg ∨ i = .mr1 z a b k neg ∨ i = .mr1z z a b k neg := by
  unfold outerOf at h
  split at h
  · exact ⟨_, _, _, _, _, .inl rfl⟩
  · exact ⟨_, _, _, _, _, .inr (.inl rfl)⟩
  · exact ⟨_, _, _, _, _, .inr (.inr (.inl rfl))⟩
  · exact ⟨_, _, _, _, _, .inr (.inr (.inr rfl))⟩
  · cases h

/-- The operation in flight whose cycles are over. -/
theorem Core.opComplete_eq {k : Core} {o : MatOp} {rest : List MatOp} (hm : k.mops = o :: rest)
    (hs : k.mprog.started = true) (hc : opCycles k o ≤ k.mprog.elapsed) :
    k.opComplete = { k.opEffect o with mops := rest, mprog := MatProg.reset, unlocking := (saveOff o.op).isSome } := by
  unfold Core.opComplete
  rw [hm]
  exact if_pos (by rw [hs, decide_eq_true hc]; rfl)

theorem Core.opRenews_keeps {α : Type} (g : Core → α) (hg : ∀ (k : Core) w, g { k with badWords := w } = g k) (k : Core)
    (o : MatOp) : g (k.opRenews o) = g k := by
  unfold Core.opRenews
  split
  · exact hg _ _
  · split
    · exact hg _ _
    · exact hg _ _
    · rfl

theorem applyOuter_outside (u : Outer) (ta tb : Tile) (fmte : BitVec 7) (lo hi : Nat) (z : Acc) {i j : Nat} (h128 : i < 128)
    (h64 : j < 64) (h : ¬ (i < tcfgRows ta.cfg ∧ j < tcfgRows tb.cfg)) :
    accGet (applyOuter u ta tb fmte lo hi z) i j = if u.zero = true ∧ lo = 0 then 0 else accGet z i j := by
  unfold applyOuter
  dsimp only
  rw [accGet_accOf _ h128 h64, if_neg h]
  by_cases hz : u.zero = true ∧ lo = 0
  · rw [if_pos hz, if_pos (by simp [hz])]
    rfl
  · rw [if_neg hz, if_neg (by simpa using hz)]

theorem Core.opResult_outer (k : Core) {o : MatOp} {u : Outer} (h : outerOf o.op = some u) :
    k.opResult o = k.advanceOuter u o u.n := by
  unfold Core.opResult
  rw [h]

/-- An outer product leaves the elements outside its tiles' rows, or has zeroed them first. -/
theorem Core.opResult_outside (k : Core) {o : MatOp} {u : Outer} (h : outerOf o.op = some u) {i j : Nat} (hi : i < 128)
    (hj : j < 64) (hout : ¬ (i < tcfgRows (k.tiles[u.a]).cfg ∧ j < tcfgRows (k.tiles[u.b]).cfg)) :
    accGet (k.opResult o).acc[u.z] i j = if u.zero = true ∧ k.mprog.kDone = 0 then 0 else accGet k.acc[u.z] i j := by
  rw [k.opResult_outer h, ← applyOuter_outside u _ _ o.fmte k.mprog.kDone u.n _ hi hj hout]
  exact congrArg (fun a => accGet a i j) (k.setAcc_acc _ _)

theorem Core.opEffect_fault {k : Core} {o : MatOp} {n : Nat} (h : k.opFault o = some n) : k.opEffect o = k.lateFault n := by
  unfold Core.opEffect
  rw [h]

theorem Core.opEffect_keeps {α : Type} (g : Core → α) (hg : ∀ (k : Core) w, g { k with badWords := w } = g k) {k : Core}
    {o : MatOp} (h : k.opFault o = none) : g (k.opEffect o) = g (k.opResult o) := by
  unfold Core.opEffect
  rw [h]
  exact Core.opRenews_keeps g hg _ _

section
variable {k : Core} {o : MatOp}

theorem Core.opResult_mzero {z : Fin 8} (h : o.op = .mzero z) : k.opResult o = k.setAcc z [] := by
  unfold Core.opResult
  rw [h]
  rfl

theorem Core.opResult_macc {z y : Fin 8} {neg : Bool} (h : o.op = .macc z y neg) {i j : Nat} (hi : i < 128) (hj : j < 64) :
    accGet (k.opResult o).acc[z] i j = BitVec.ofNat 32 (fp32.round .rne (Val.add false (fp32.decode (accGet k.acc[z] i j).toNat)
      (if neg then (fp32.decode (accGet k.acc[y] i j).toNat).neg else fp32.decode (accGet k.acc[y] i j).toNat))) := by
  unfold Core.opResult
  rw [h]
  exact (congrArg (fun a => accGet a i j) (k.setAcc_acc z _)).trans (accGet_accOf _ hi hj)

theorem Core.opResult_mscl {z : Fin 8} {e : BitVec 7} (h : o.op = .mscl z e) {i j : Nat} (hi : i < 128) (hj : j < 64) :
    accGet (k.opResult o).acc[z] i j =
      BitVec.ofNat 32 (fp32.round .rne ((fp32.decode (accGet k.acc[z] i j).toNat).scale e.toInt)) := by
  unfold Core.opResult
  rw [h]
  exact (congrArg (fun a => accGet a i j) (k.setAcc_acc z _)).trans (accGet_accOf _ hi hj)

theorem Core.opResult_mload {z : Fin 8} {h : Bool} {p : Fin 32} (hop : o.op = .mload z h p)
    (hok : k.failedLine (65536 * p.val + 32768 * h.toNat) 32768 = none) {i j : Nat} (hi : i < 128) (hj : j < 64) :
    accGet (k.opResult o).acc[z] i j =
      BitVec.ofNat 32 (k.spad.readLE (65536 * p.val + 32768 * h.toNat + 256 * i + 4 * j) 4) := by
  unfold Core.opResult
  rw [hop]
  dsimp only [outerOf]
  rw [hok]
  exact (congrArg (fun a => accGet a i j) (k.setAcc_acc z _)).trans (accGet_accOf _ hi hj)

theorem Core.opResult_mload_failed {z : Fin 8} {h : Bool} {p : Fin 32} (hop : o.op = .mload z h p) {n : Nat}
    (hbad : k.failedLine (65536 * p.val + 32768 * h.toNat) 32768 = some n) : k.opResult o = k.lateFault n := by
  unfold Core.opResult
  rw [hop]
  dsimp only [outerOf]
  rw [hbad]

theorem Core.opResult_msave {z : Fin 8} {h : Bool} {p : Fin 32} (hop : o.op = .msave z h p) :
    k.opResult o = k.spadWrite (65536 * p.val + 32768 * h.toNat) (accBytes k.acc[z]) := by
  unfold Core.opResult
  rw [hop]
  rfl

end

/-- Settles O31, operation by operation. -/
theorem matrixCompletionEffects : Obligations.MatrixCompletionEffects := by
  unfold Obligations.MatrixCompletionEffects
  intro s o rest c k hl hm hs hc
  have hk : (s.mapCore c (·.opComplete)).coreAt c =
      { k.opEffect o with mops := rest, mprog := MatProg.reset, unlocking := (saveOff o.op).isSome } := by
    rw [State.coreAt_mapCore]
    exact Core.opComplete_eq hm hs hc
  have hexec : exec .matrixOpComplete s = .next (s.mapCore c (·.opComplete)) :=
    congrArg _ (if_pos (decide_eq_true hl))
  refine ⟨_, hexec, ?_⟩
  beta_reduce
  intro k' val is
  have hacc : k'.acc = (k.opEffect o).acc := (congrArg Core.acc hk :)
  have hspad : k'.spad = (k.opEffect o).spad := (congrArg Core.spad hk :)
  have hlate : k'.late = (k.opEffect o).late := (congrArg Core.late hk :)
  refine ⟨(congrArg Core.mops hk :), (congrArg Core.mprog hk :), SameMemory.of_eq rfl rfl, fun d hd => State.coreAt_mapCore_ne s _ hd,
    fun n hn => ?_, fun hn => ?_⟩
  · rw [hacc, hspad, hlate, Core.opEffect_fault hn]
    exact ⟨rfl, rfl, rfl⟩
  · rw [Core.opEffect_keeps Core.acc (fun _ _ => rfl) hn] at hacc
    rw [Core.opEffect_keeps Core.spad (fun _ _ => rfl) hn] at hspad
    rw [Core.opEffect_keeps Core.late (fun _ _ => rfl) hn] at hlate
    have hget : ∀ (z : Fin 8) (i j : Nat), accGet k'.acc[z] i j = accGet (k.opResult o).acc[z] i j := fun z i j => by rw [hacc]
    split
    case h_1 z hop =>
      intro i hi j hj
      rw [hget, Core.opResult_mzero hop, Core.setAcc_acc]
      rfl
    case h_2 z y neg hop => exact fun i hi j hj => (hget z i j).trans (Core.opResult_macc hop hi hj)
    case h_3 z e hop => exact fun i hi j hj => (hget z i j).trans (Core.opResult_mscl hop hi hj)
    case h_4 z h p hop =>
      refine ⟨fun hok i hi j hj => (hget z i j).trans (Core.opResult_mload hop hok hi hj), fun n hbad => ?_⟩
      rw [hacc, hlate, Core.opResult_mload_failed hop hbad]
      exact ⟨rfl, rfl⟩
    case h_5 z h p hop =>
      rw [hacc, hspad, Core.opResult_msave hop]
      exact ⟨rfl, fun i hi j hj => readLE_accBytes _ _ _ hi hj⟩
    case h_6 z a b n neg hop =>
      exact fun i hi j hj hout _ => (hget z i j).trans ((k.opResult_outside (u := ⟨z, a, b, _, _, false, _⟩) (by rw [hop]; rfl)
        hi hj hout).trans (if_neg fun h => Bool.false_ne_true h.1))
    case h_7 z a b n neg hop =>
      exact fun i hi j hj hout _ => (hget z i j).trans ((k.opResult_outside (u := ⟨z, a, b, _, _, false, _⟩) (by rw [hop]; rfl)
        hi hj hout).trans (if_neg fun h => Bool.false_ne_true h.1))
    case h_8 z a b n neg hop =>
      exact fun i hi j hj hout => (hget z i j).trans ((k.opResult_outside (u := ⟨z, a, b, _, _, true, _⟩) (by rw [hop]; rfl)
        hi hj hout).trans (if_congr (and_iff_right rfl) rfl rfl))
    case h_9 z a b n neg hop =>
      exact fun i hi j hj hout => (hget z i j).trans ((k.opResult_outside (u := ⟨z, a, b, _, _, true, _⟩) (by rw [hop]; rfl)
        hi hj hout).trans (if_congr (and_iff_right rfl) rfl rfl))
    case h_10 hzero hmacc hmscl hload hsave hmop hmr1 hmopz hmr1z =>
      have hout : outerOf o.op = none := by
        cases hu : outerOf o.op with
        | none => rfl
        | some u =>
          obtain ⟨z, a, b, n, neg, h | h | h | h⟩ := outerOf_some hu
          · exact absurd h (hmop z a b n neg)
          · exact absurd h (hmopz z a b n neg)
          · exact absurd h (hmr1 z a b n neg)
          · exact absurd h (hmr1z z a b n neg)
      rw [hacc]
      unfold Core.opResult
      rw [hout]
      dsimp only
      split
      · exact absurd ‹_› (hzero _)
      · exact absurd ‹_› (hmacc _ _ _)
      · exact absurd ‹_› (hmscl _ _)
      · exact absurd ‹_› (hsave _ _ _)
      · exact absurd ‹_› (hload _ _ _)
      · rfl

end Sys2Proof.Machine
end

section
/-! Outer products inside their tiles' rows, and the matrix engine's own steps (R231, R339-R349). -/

namespace Sys2Proof.Machine

theorem applyOuter_inside (u : Outer) (ta tb : Tile) (fmte : BitVec 7) (hi : Nat) (z : Acc) {i j : Nat} (h128 : i < 128)
    (h64 : j < 64) (hi' : i < tcfgRows ta.cfg) (hj' : j < tcfgRows tb.cfg) :
    accGet (applyOuter u ta tb fmte 0 hi z) i j =
      (List.range ((hi + 256 / Ty.width ta.ty - 1) / (256 / Ty.width ta.ty))).foldl (fun c g =>
        addGroup u ta tb fmte i j g (256 / Ty.width ta.ty * g) (min hi (256 / Ty.width ta.ty * (g + 1))) c)
        (if u.zero then 0 else accGet z i j) := by
  unfold applyOuter groupLen
  dsimp only
  rw [accGet_accOf _ h128 h64, if_pos ⟨hi', hj'⟩, Nat.zero_div, Nat.sub_zero, List.foldl_map]
  cases u.zero <;> rfl

/-! ### Pushes of an MDRAIN -/

section
variable {k : Core} {p : Push} {v : Vec} (hp : duePush k = some p) (hv : p.vec = .ok v)
include hp hv

theorem engineCause_none (hf : pushFault k = none) (hroom : (queueOf k p.q).length < queueMax k p.q) :
    engineCause k (fun _ => 0) = none := by
  unfold engineCause
  rw [hp, hf]
  dsimp only
  rw [if_neg (by decide), hv]
  exact if_neg (by omega)

/-- The core after the push due. -/
theorem Core.enginePush_eq : queueOf k.enginePush p.q = queueOf k p.q ++ [v] ∧
    queueOf k.enginePush (1 - p.q) = queueOf k (1 - p.q) ∧ k.enginePush.mprog.pushed = k.mprog.pushed + 1 ∧
    k.enginePush.mops = k.mops ∧ (p.clr = false → k.enginePush.acc = k.acc) ∧
    (p.clr = true → k.enginePush.acc = k.acc.set p.z (clearRows k.acc[p.z] p.rows.1 p.rows.2)) := by
  unfold Core.enginePush
  rw [hp]
  obtain ⟨q, vec, z, rows, clr⟩ := p
  obtain rfl : vec = .ok v := hv
  dsimp only
  cases clr with
  | false => fin_cases q <;> exact ⟨rfl, rfl, rfl, rfl, fun _ => rfl, fun h => nomatch h⟩
  | true => fin_cases q <;> exact ⟨rfl, rfl, rfl, rfl, (fun h => nomatch h), fun _ => rfl⟩

end

theorem accGet_clearRows (z : Acc) (lo n : Nat) {i j : Nat} (hj : j < 64) :
    accGet (clearRows z lo n) i j = if lo ≤ i ∧ i < lo + n then 0 else accGet z i j := by
  unfold accGet clearRows
  rw [SMap.get_restrict]
  by_cases h : lo ≤ i ∧ i < lo + n
  · rw [if_pos h, if_neg]
    simp
    omega
  · rw [if_neg h, if_pos]
    simp
    omega

/-- The one MFMT whose cycles are over. -/
theorem Core.fmtEffect_due {k : Core} {v : BitVec 7} (h : k.fmtp = [(v, 0)]) :
    k.fmtEffect = { k with fmte := v.setWidth 64, fmtp := [] } := by
  unfold Core.fmtEffect
  rw [h]
  change { k with fmte := v.setWidth 64, fmtp := k.fmtp.filter (·.2 ≠ 0) } = _
  rw [h]
  rfl

/-- Settles O32, step by step. -/
theorem outerProductsAndMatrixEngineSteps : Obligations.OuterProductsAndMatrixEngineSteps := by
  unfold Obligations.OuterProductsAndMatrixEngineSteps
  constructor
  · intro u ta tb fmte hi z i j h128 h64 hi' hj' gl start add scaled ks
    exact applyOuter_inside u ta tb fmte hi z h128 h64 hi' hj'
  · intro s c k
    refine ⟨fun p v hl hp hv hf hroom => ?_, fun hl hd => ?_, fun v hv => ?_⟩
    · obtain ⟨hq, hq', hpushed, hmops, hkeep, hclr⟩ := Core.enginePush_eq hp hv
      have hexec : exec .mdrainGroupPush s = .next (s.mapCore c (·.enginePush)) := by
        refine congrArg _ (if_pos ?_)
        rw [engineCause_none hp hv hf hroom]
        exact (Bool.and_true _).trans (decide_eq_true hl)
      refine ⟨_, hexec, ?_⟩
      beta_reduce
      rw [State.coreAt_mapCore]
      refine ⟨hq, hq', hpushed, hmops, SameMemory.of_eq rfl rfl, hkeep, fun hc i j hj => ?_⟩
      rw [hclr hc]
      exact (congrArg (fun a => accGet a i j) (Vector.getElem_set_self _)).trans (accGet_clearRows _ _ _ hj)
    · exact ⟨_, congrArg _ (if_pos ((Bool.and_eq_true _ _).mpr ⟨decide_eq_true hl, hd⟩)),
        fun d hd => (show State.coreAt (s.mapCore c fun k => { k.engineTrapped with skip := 0 }) d = s.coreAt d from
          State.coreAt_mapCore_ne s _ hd), SameMemory.of_eq rfl rfl⟩
    · refine ⟨_, rfl, ?_⟩
      beta_reduce
      rw [State.coreAt_mapCore, Core.fmtEffect_due hv]
      exact ⟨rfl, rfl, fun d hd => State.coreAt_mapCore_ne s _ hd, SameMemory.of_eq rfl rfl⟩

end Sys2Proof.Machine
end

section
/-! What starts a command of the C slots (R366-R369). -/

namespace Sys2Proof.Machine

/-! ### A command enters -/

section
variable (s : State) (m : EngCmd)

theorem State.startCmd_cmds : (s.startCmd m).cmds = s.cmds ++ [m] := by
  unfold State.startCmd
  dsimp only
  split <;> rfl

theorem State.startCmd_mem : (s.startCmd m).mem = s.mem := by
  unfold State.startCmd
  dsimp only
  split <;> rfl

theorem State.startCmd_l2 : (s.startCmd m).l2 = s.l2 := by
  unfold State.startCmd
  dsimp only
  split <;> rfl

theorem State.startCmd_issue : (s.startCmd m).issue = s.issue := by
  unfold State.startCmd
  dsimp only
  split <;> rfl

theorem State.startCmd_memory : SameMemory s (s.startCmd m) := SameMemory.of_eq (s.startCmd_mem m) (s.startCmd_l2 m)

theorem State.startCmd_ne {d : Fin 256} (h : d ≠ s.issue.core) : (s.startCmd m).coreAt d = s.coreAt d := by
  unfold State.startCmd
  dsimp only
  split
  · exact State.upd_coreAt_ne _ _ h
  · rfl

variable {m}

/-- A tagged command's tag is busy, and it holds an entry of the copy queue. -/
theorem State.startCmd_cur {g : Fin 64} (h : m.tag = some g) :
    (s.startCmd m).cur = { s.cur with tags := s.cur.tags.set g (.busy false), copyq := s.cur.copyq ++ [g] } := by
  unfold State.startCmd
  dsimp only
  rw [h]
  exact State.cur_upd _ _

theorem State.startCmd_untagged (h : m.tag = none) : (s.startCmd m).cores = s.cores := by
  unfold State.startCmd
  dsimp only
  rw [h]

end

/-! ### What a command's start leaves -/

/-- A state in which a command has come to stand behind the others, its core changed in nothing but its tags, its copy queue and
the pointer of its tape. -/
def Entered (s : State) (m : EngCmd) (g : Fin 64) (t : State) : Prop :=
  SameMemory s t ∧ t.cmds = s.cmds ++ [m] ∧ t.issue = s.issue ∧ OnlyTags s t ∧
    t.cur.tags[g] = .busy false ∧ t.cur.copyq = s.cur.copyq ++ [g]

theorem OnlyFree.cmds {s t : State} (h : OnlyFree s t) : t.cmds = s.cmds := (congrArg State.cmds h :)
theorem OnlyFree.pre {s t : State} (h : OnlyFree s t) : t.pre = s.pre := congrArg Issue.pre h.issue

section
variable {s u : State} {m : EngCmd} {g : Fin 64}

/-- The start of a command, free values drawn before it. -/
theorem startCmd_entered (hu : OnlyFree s u) (hg : m.tag = some g) : Entered s m g (u.startCmd m) := by
  refine ⟨hu.memory.trans (u.startCmd_memory m), ?_, (u.startCmd_issue m).trans hu.issue, ⟨?_, fun d hd => ?_⟩, ?_, ?_⟩
  · rw [u.startCmd_cmds m, hu.cmds]
  · rw [u.startCmd_cur hg, hu.cur]
  · rw [u.startCmd_ne m (hu.issue.symm ▸ hd), hu.coreAt]
  · rw [u.startCmd_cur hg]
    exact Vector.getElem_set_self _
  · rw [u.startCmd_cur hg, hu.cur]

theorem startCmd_reelPtr (hu : OnlyFree s u) (hg : m.tag = some g) : (u.startCmd m).cur.reelPtr = s.cur.reelPtr := by
  rw [u.startCmd_cur hg, hu.cur]

/-- A command that moves the pointer of the tape too. -/
theorem Entered.tape {t : State} (h : Entered s m g t) (n : Nat) : Entered s m g (t.upd fun k => k.setReelPtr n) := by
  obtain ⟨hmem, hcmds, hissue, ⟨hcur, hother⟩, htag, hq⟩ := h
  refine ⟨hmem.trans (SameMemory.of_eq rfl rfl), hcmds, hissue, ⟨?_, fun d hd => ?_⟩, ?_, ?_⟩
  · rw [State.cur_upd]
    exact hcur
  · rw [State.upd_coreAt_ne _ _ (hissue.symm ▸ hd), hother d hd]
  · rw [State.cur_upd]
    exact htag
  · rw [State.cur_upd]
    exact hq

/-- A command with its operands that has entered. -/
theorem Entered.starts {i : Instr} {t : State} {x y z : Word} {P : EngCmd → State → Prop} (he : exec i s = .next t)
    (h : Entered s m g t) (hm : m.op = i ∧ m.tag = some g ∧ m.core = s.issue.core ∧ m.level = s.pre.level ∧ m.a = x ∧ m.b = y ∧
      m.c = z ∧ m.parked = false) (hP : P m t) : Starts i s (some g) x y z P := by
  obtain ⟨hmem, hcmds, -, -, htag, hq⟩ := h
  obtain ⟨hop, hg, hcore, hlevel, ha, hb, hc, hpark⟩ := hm
  refine ⟨t, he, hmem, m, hcmds, hop, hg, hcore, hlevel, ha, hb, hc, hpark, hP, fun n hn => ?_⟩
  cases hn
  exact ⟨htag, hq⟩

end

/-- What a new command carries. -/
theorem newCmd_fields {s u : State} (hu : OnlyFree s u) (i : Instr) (g : Option (Fin 64)) (x y z : Word) :
    (newCmd u i g x y z).op = i ∧ (newCmd u i g x y z).tag = g ∧ (newCmd u i g x y z).core = s.issue.core ∧
      (newCmd u i g x y z).level = s.pre.level ∧ (newCmd u i g x y z).a = x ∧ (newCmd u i g x y z).b = y ∧
      (newCmd u i g x y z).c = z ∧ (newCmd u i g x y z).parked = false :=
  ⟨rfl, rfl, congrArg Issue.core hu.issue, congrArg Core.level hu.pre, rfl, rfl, rfl, rfl⟩

/-! ### Its checks -/

section
variable {α : Type} {s u : State} {g : Fin 64} {k : SlotRes α} (hu : OnlyFree s u)
include hu

theorem needTag_ready (h : TagReady s g) : needTag u g k = k := by
  obtain ⟨hpre, hcur, hq⟩ := h
  unfold needTag
  rw [hu.pre, hu.cur]
  exact (need_of (by rw [hpre, hcur]; rfl)).trans (need_of (decide_eq_true hq))

theorem needTag_busy (h : tagFree s.pre.tags[g] = false) : needTag u g k = .trap (slotTrap s .tagBusy 0) := by
  unfold needTag
  rw [hu.pre, h]
  exact (need_of_not rfl).trans (by rw [slotTrap_of_issue hu.issue])

theorem needTag_full (h : tagFree s.pre.tags[g] = true) (h' : tagFree s.cur.tags[g] = true)
    (hq : min 16 s.pre.hdr.cqMax ≤ s.cur.copyq.length) : needTag u g k = .trap (slotTrap s .copyqFull 0) := by
  unfold needTag
  rw [hu.pre, hu.cur, h, h']
  exact (need_of rfl).trans ((need_of_not (decide_eq_false (Nat.not_lt.2 hq))).trans (by rw [slotTrap_of_issue hu.issue]))

theorem needAddr_ok {x : Word} {pos : Nat} {k : EngAddr → SlotRes α} (h : engAddrOk s.pre.level x = true) :
    needAddr u x pos k = k (engAddrOf x) := by
  unfold needAddr
  rw [hu.pre]
  exact need_of h

theorem needFootprint_ok {rs : List EngRange} (h : footprintBad s.pre rs = none) : needFootprint u rs k = k := by
  unfold needFootprint
  rw [hu.pre, h]

theorem needNoDiff_ok {rs : List EngRange} {c : Cause} (h : firstDiff s.pre rs = none) : needNoDiff u rs c k = k := by
  unfold needNoDiff
  rw [hu.pre, h]

theorem needBlock_ok {off : Word} {len : Nat} {k : List Byte → SlotRes α} (hlim : off.toNat + len ≤ s.pre.spillLimit)
    (ha : off.toNat % 64 = 0) (hs : s.pre.failedWord .spill off.toNat len = none) :
    needBlock u off len k = k (s.pre.spill.readBytes off.toNat len) := by
  unfold needBlock
  rw [hu.pre]
  exact (need_of (decide_eq_true hlim)).trans ((need_of (decide_eq_true ha)).trans (soundSpill_ok (by rw [hu.pre]; exact hs)))

theorem needBlock_failed {off : Word} {len n : Nat} {k : List Byte → SlotRes α} (hlim : off.toNat + len ≤ s.pre.spillLimit)
    (ha : off.toNat % 64 = 0) (hs : s.pre.failedWord .spill off.toNat len = some n) :
    needBlock u off len k = .trap (slotTrap s .uncorrectable (spadInfo n)) := by
  unfold needBlock
  rw [hu.pre]
  refine (need_of (decide_eq_true hlim)).trans ((need_of (decide_eq_true ha)).trans ((soundSpill_trap (n := n) ?_).trans ?_))
  · rw [hu.pre]
    exact hs
  · rw [slotTrap_of_issue hu.issue]

end

end Sys2Proof.Machine
end

section
/-! Copies, fills, CPREF and CFLUSH at issue (R372-R377). -/

namespace Sys2Proof.Machine

/-- The ends of a copy, as its checks see them. -/
def copyDsts (m : EngCmd) : List EngRange := (copyRuns m).map fun r => (r.dst, r.len)
def copySrcs (m : EngCmd) : List EngRange := (copyRuns m).map fun r => (r.src, r.len)

/-- A copy that goes into a region: its records reserved, or in REWIND given back. -/
def copyTapes (k : Core) (d e : EndDiff) : Prop :=
  ∃ r, d = .region r ∧ (e = .plain ∨ ∃ q, e = .region q ∧ q.type = r.type)

section
variable {s u : State} {m : EngCmd} {g : Fin 64} {x y z : Word} (hu : OnlyFree s u)
  (hfoot : footprintBad s.pre (copyDsts m ++ copySrcs m) = none)
include hu hfoot

theorem issueCopy_plain (hd : footDiff s.pre (copyDsts m) = .plain) (he : footDiff s.pre (copySrcs m) = .plain) :
    issueCopy u m = .ok () (u.startCmd { m with diff := diffFoot s.pre (copyDsts m ++ copySrcs m) }) := by
  unfold copyDsts copySrcs at *
  unfold issueCopy
  dsimp only
  rw [needFootprint_ok hu hfoot, hu.pre, hd, he]

theorem issueCopy_from {r : DiffRegion} (hd : footDiff s.pre (copyDsts m) = .plain)
    (he : footDiff s.pre (copySrcs m) = .region r) :
    issueCopy u m = .ok () (u.startCmd { m with rewind := s.pre.rewinding && diffLevel s.pre, diff := true }) := by
  unfold copyDsts copySrcs at *
  unfold issueCopy
  dsimp only
  rw [needFootprint_ok hu hfoot, hu.pre, hd, he]

theorem issueCopy_into (h : copyTapes s.pre (footDiff s.pre (copyDsts m)) (footDiff s.pre (copySrcs m))) :
    issueCopy u m = issueCopy.tape u (s.pre.rewinding && diffLevel s.pre)
      { m with diff := diffFoot s.pre (copyDsts m ++ copySrcs m) } := by
  obtain ⟨r, hd, he | ⟨q, he, hq⟩⟩ := h
  · unfold copyDsts copySrcs at *
    unfold issueCopy
    dsimp only
    rw [needFootprint_ok hu hfoot, hu.pre, hd, he]
  · unfold copyDsts copySrcs at *
    unfold issueCopy
    dsimp only
    rw [needFootprint_ok hu hfoot, hu.pre, hd, he]
    exact if_neg fun h => h hq

theorem issueCopy_mixed {e : EngAddr} (h : footDiff s.pre (copyDsts m) = .mixed e ∨
      (∀ e', footDiff s.pre (copyDsts m) ≠ .mixed e') ∧ footDiff s.pre (copySrcs m) = .mixed e) :
    issueCopy u m = .trap (slotTrap s .diffShape e.info) := by
  unfold copyDsts copySrcs at *
  unfold issueCopy
  dsimp only
  rw [needFootprint_ok hu hfoot, hu.pre, ← slotTrap_of_issue hu.issue]
  rcases h with hd | ⟨hd, he⟩
  · rw [hd]
    rfl
  · rw [he]
    cases hf : footDiff s.pre ((copyRuns m).map fun r => (r.dst, r.len)) with
    | plain => rfl
    | region r => rfl
    | mixed e' => exact absurd hf (hd e')

end

section
variable {s u : State} {m : EngCmd}

theorem tape_rewind (hu : OnlyFree s u) : issueCopy.tape u true m =
    .ok () ((u.startCmd { m with rewind := true, diff := true, reel := s.cur.reelPtr }).upd fun k =>
      k.setReelPtr (reelPtr s.cur + 2 ^ 48 - recordsSize (recordRuns m) % 2 ^ 48)) := by
  unfold issueCopy.tape
  dsimp only
  rw [if_pos rfl, hu.cur]

theorem tape_reserve {segs : List Seg} (hu : OnlyFree s u)
    (h : reserveReel u s.issue.core (recordsSize (recordRuns m)) = .ok segs) : issueCopy.tape u false m =
    .ok () ((u.startCmd { m with diff := true, reel := s.cur.reelPtr, segs := segs }).upd fun k =>
      k.setReelPtr (reelPtr s.cur + recordsSize (recordRuns m))) := by
  unfold issueCopy.tape
  dsimp only
  rw [if_neg Bool.false_ne_true, hu.issue, h, hu.cur]

end

/-- A command with its operands, as it was handed over. -/
def Carries (s : State) (m : EngCmd) (x y z : Word) : Prop :=
  m.core = s.issue.core ∧ m.level = s.pre.level ∧ m.a = x ∧ m.b = y ∧ m.c = z ∧ m.parked = false

theorem Entered.startsAs {s t : State} {m : EngCmd} {g : Fin 64} {x y z : Word} {P : EngCmd → State → Prop} {i : Instr}
    {g' : Option (Fin 64)} (h : Entered s m g t) (he : exec i s = .next t) (hi : m.op = i) (hg : m.tag = g') (hg' : g' = some g)
    (hm : Carries s m x y z) (hP : P m t) : Starts i s g' x y z P := by
  subst hg'
  exact h.starts he ⟨hi, hg, hm⟩ hP

/-- How a copy starts, by what its ends are. -/
theorem issueCopy_starts {s u : State} {m : EngCmd} {g : Fin 64} {x y z : Word} (hu : OnlyFree s u)
    (hi : exec m.op s = finish s (issueCopy u m)) (hg : m.tag = some g) (hm : Carries s m x y z) (hr : m.rewind = false) :
    CopyStarts s u m x y z := by
  unfold CopyStarts
  intro dsts srcs rew size starts hfoot
  refine ⟨fun hd he => ?_, fun r hd he => ?_, fun r hd he => ⟨fun hrew => ?_, fun hrew segs hsegs => ?_⟩, fun e h => ?_⟩
  · have hs := issueCopy_plain hu hfoot hd he
    have hent := startCmd_entered (m := { m with diff := diffFoot s.pre (copyDsts m ++ copySrcs m) }) hu hg
    exact hent.startsAs (runs_of_ok hi hs) rfl rfl hg hm ⟨rfl, hent.2.2.2.1, rfl, hr, startCmd_reelPtr hu hg⟩
  · have hs := issueCopy_from hu hfoot hd he
    have hent := startCmd_entered (m := { m with rewind := s.pre.rewinding && diffLevel s.pre, diff := true }) hu hg
    exact hent.startsAs (runs_of_ok hi hs) rfl rfl hg hm ⟨rfl, hent.2.2.2.1, rfl, rfl, startCmd_reelPtr hu hg⟩
  · have hs := issueCopy_into hu hfoot ⟨r, hd, he⟩
    rw [show (s.pre.rewinding && diffLevel s.pre) = true from hrew, tape_rewind hu] at hs
    have hent := (startCmd_entered (m := { m with diff := true, rewind := true, reel := s.cur.reelPtr }) hu hg).tape
      (reelPtr s.cur + 2 ^ 48 - recordsSize (recordRuns m) % 2 ^ 48)
    exact hent.startsAs (runs_of_ok hi hs) rfl rfl hg hm ⟨rfl, hent.2.2.2.1, rfl, rfl, by rw [State.cur_upd]; rfl⟩
  · have hs := issueCopy_into hu hfoot ⟨r, hd, he⟩
    rw [show (s.pre.rewinding && diffLevel s.pre) = false from hrew] at hs
    have hs := hs.trans (tape_reserve hu hsegs)
    have hent := (startCmd_entered (m := { m with diff := true, reel := s.cur.reelPtr, segs := segs }) hu hg).tape
      (reelPtr s.cur + recordsSize (recordRuns m))
    exact hent.startsAs (runs_of_ok hi hs) rfl rfl hg hm ⟨rfl, hent.2.2.2.1, rfl, rfl, by rw [State.cur_upd]; rfl⟩
  · exact raises_of_trap hi (issueCopy_mixed hu hfoot h)

/-! ### Fills, prefetches and flushes -/

section
variable {α : Type} {i : Instr} {s s1 s2 s3 : State} {a b : SSpec} {c : SOpnd} {x y z : Word}
  (hx : readS s a 0 = .ok x s1)
include hx

/-- What an instruction does once its operands are read. -/
theorem exec_readS_readSO {k : Word → Word → State → SlotRes Unit} (hz : readSO s1 c 2 = .ok z s2)
    (hi : exec i s = finish s ((readS s a 0).bind fun x s => (readSO s c 2).bind (k x))) :
    exec i s = finish s (k x z s2) := by
  rw [hi, hx, SlotRes.bind_ok, hz, SlotRes.bind_ok]

theorem exec_readS3 {k : Word → Word → Word → State → SlotRes Unit} (hy : readS s1 b 1 = .ok y s2) (hz : readSO s2 c 2 = .ok z s3)
    (hi : exec i s = finish s ((readS s a 0).bind fun x s => (readS s b 1).bind fun y s => (readSO s c 2).bind (k x y))) :
    exec i s = finish s (k x y z s3) := by
  rw [hi, hx, SlotRes.bind_ok, hy, SlotRes.bind_ok, hz, SlotRes.bind_ok]

end

theorem newCmd_carries {s u : State} (hu : OnlyFree s u) (i : Instr) (g : Option (Fin 64)) (x y z : Word) :
    Carries s (newCmd u i g x y z) x y z :=
  ⟨congrArg Issue.core hu.issue, congrArg Core.level hu.pre, rfl, rfl, rfl, rfl⟩

/-- A command that starts on a footprint. -/
theorem startOn_starts {s u : State} {i : Instr} {g : Fin 64} {x y z : Word} {rs : List EngRange} {r : SlotRes Unit} (hu : OnlyFree s u)
    (hi : exec i s = finish s r) (hr : r = .ok () (u.startOn (newCmd u i (some g) x y z) rs)) :
    Starts i s (some g) x y z fun _ t => OnlyTags s t := by
  have hent := startCmd_entered (g := g)
    (m := { newCmd u i (some g) x y z with diff := (newCmd u i (some g) x y z).diff || diffFoot u.pre rs }) hu rfl
  exact hent.startsAs (runs_of_ok hi hr) rfl rfl rfl (newCmd_carries hu i (some g) x y z) hent.2.2.2.1

/-- A command that starts without one. -/
theorem startCmd_starts {s u : State} {i : Instr} {g : Fin 64} {x y z : Word} {r : SlotRes Unit} (hu : OnlyFree s u)
    (hi : exec i s = finish s r) (hr : r = .ok () (u.startCmd (newCmd u i (some g) x y z))) :
    Starts i s (some g) x y z fun _ t => OnlyTags s t := by
  have hent := startCmd_entered (g := g) (m := newCmd u i (some g) x y z) hu rfl
  exact hent.startsAs (runs_of_ok hi hr) rfl rfl rfl (newCmd_carries hu i (some g) x y z) hent.2.2.2.1

section
variable (s : State)

theorem State.applyStored_memorySide (part : Nat) (w : Window) (va : Nat) : OnlyMemorySide s (s.applyStored part w va) :=
  OnlyMemorySide.foldl _ (fun s a => s.applyLine_memorySide a) _ s

theorem State.engTlb_memorySide (m : EngCmd) (a : Nat) : OnlyMemorySide s (s.engTlb m a) :=
  OnlyMemorySide.ite (OnlyMemorySide.refl s) (s.noteQuad_memorySide _ _ _ _)

theorem State.engTlbWin_memorySide (m : EngCmd) (w : Window) (a : Nat) : OnlyMemorySide s (s.engTlbWin m w a) :=
  OnlyMemorySide.foldl _ (fun s v => s.engTlb_memorySide m v) _ s

theorem State.prefetch_memorySide (m : EngCmd) (a : Nat) : OnlyMemorySide s (s.prefetch m a) := by
  unfold State.prefetch
  split
  · exact OnlyMemorySide.ite (OnlyMemorySide.refl s)
      (((s.engTlbWin_memorySide m _ a).trans (State.applyStored_memorySide _ _ _ a)).trans (State.accessWin_memorySide _ _ _ _ a))
  · split
    · exact OnlyMemorySide.refl s
    · exact OnlyMemorySide.ite (OnlyMemorySide.refl s)
        (((s.engTlb_memorySide m a).trans (State.applyLine_memorySide _ _)).trans (State.access_memorySide _ _ _ _ _))

end

theorem OnlyFree.memorySide {s t : State} (h : OnlyFree s t) : OnlyMemorySide s t := by
  obtain ⟨n, rfl⟩ := h.exists_eq
  exact s.withFree_memorySide n

section
variable {s s1 s2 s3 : State} {g : Fin 64} {a b : SSpec} {c : SOpnd} {x y z : Word} (hx : readS s a 0 = .ok x s1)
include hx

section
variable (hy : readS s1 b 1 = .ok y s2) (hz : readSO s2 c 2 = .ok z s3)
include hy hz

theorem reads_only : OnlyFree s s3 :=
  OnlyFree.trans (OnlyFree.trans (readS_only hx) (readS_only hy)) (readSO_only hz)

theorem cpy_exec : exec (.cpy g a b c) s = finish s (needTag s3 g <|
    need s3 (cpyLen z ≠ 0 && bitsOf z.toNat 58 6 = 0) .operandReserved (opndInfo 0 2) <|
    needAddr s3 x 0 fun _ => needAddr s3 y 1 fun _ => issueCopy s3 (newCmd s3 (.cpy g a b c) (some g) x y z)) :=
  exec_readS3 (i := .cpy g a b c) hx hy hz rfl

theorem cfill_exec : exec (.cfill g a b c) s = finish s (needTag s3 g <|
    need s3 (cpyLen z ≠ 0 && bitsOf z.toNat 58 6 = 0) .operandReserved (opndInfo 0 2) <|
    needAddr s3 x 0 fun ea =>
    need s3 (ea.num % 8 = 0 && cpyLen z % 8 = 0) .misaligned ea.info <|
    needFootprint s3 [(ea, cpyLen z)] <| needNoDiff s3 [(ea, cpyLen z)] .diffKind <|
    .ok () (s3.startOn (newCmd s3 (.cfill g a b c) (some g) x y z) [(ea, cpyLen z)])) :=
  exec_readS3 (i := .cfill g a b c) hx hy hz rfl

theorem cpyp_exec : exec (.cpyp g a b c) s = finish s (needTag s3 g <| needBlock s3 z 128 fun blk =>
    need s3 (pairOkForm blk) .operandReserved (opndInfo 0 2) <|
    needAddr s3 x 0 fun _ => needAddr s3 y 1 fun _ =>
    issueCopy s3 { newCmd s3 (.cpyp g a b c) (some g) x y z with block := blk }) :=
  exec_readS3 (i := .cpyp g a b c) hx hy hz rfl

theorem cstrp_exec : exec (.cstrp g a b c) s = finish s (needTag s3 g <| needBlock s3 z 64 fun blk =>
    need s3 (stripeOkForm blk) .operandReserved (opndInfo 0 2) <|
    needAddr s3 x 0 fun _ => needAddr s3 y 1 fun eb =>
    need s3 ((engAddrOf x).num % 64 = 0) .misaligned (engAddrOf x).info <|
    need s3 (eb.num % 2 ^ 21 = 0) .misaligned eb.info <|
    issueCopy s3 { newCmd s3 (.cstrp g a b c) (some g) x y z with block := blk }) :=
  exec_readS3 (i := .cstrp g a b c) hx hy hz rfl

theorem cpy_starts (hready : TagReady s g) (hax : engAddrOk s.pre.level x = true) (hay : engAddrOk s.pre.level y = true)
    (hlen : cpyLen z ≠ 0) (hform : bitsOf z.toNat 58 6 = 0) :
    CopyStarts s s3 (newCmd s3 (.cpy g a b c) (some g) x y z) x y z := by
  have hu := reads_only hx hy hz
  refine issueCopy_starts hu (g := g) ((cpy_exec hx hy hz).trans (congrArg (finish s) ?_)) rfl (newCmd_carries hu _ _ x y z) rfl
  rw [needTag_ready hu hready]
  refine (need_of ((Bool.and_eq_true _ _).mpr ⟨decide_eq_true hlen, decide_eq_true hform⟩)).trans ?_
  rw [needAddr_ok hu hax, needAddr_ok hu hay]

theorem cpyp_raises (hready : TagReady s g) (ha : z.toNat % 64 = 0) {n : Nat} (hlim : z.toNat + 128 ≤ s.pre.spillLimit)
    (hf : s.pre.failedWord .spill z.toNat 128 = some n) : Raises (.cpyp g a b c) s (slotTrap s .uncorrectable (spadInfo n)) := by
  have hu := reads_only hx hy hz
  exact raises_of_trap (cpyp_exec hx hy hz) ((needTag_ready hu hready).trans (needBlock_failed hu hlim ha hf))

theorem cpyp_starts (hready : TagReady s g) (hax : engAddrOk s.pre.level x = true) (hay : engAddrOk s.pre.level y = true)
    (ha : z.toNat % 64 = 0) (hlim : z.toNat + 128 ≤ s.pre.spillLimit) (hf : s.pre.failedWord .spill z.toNat 128 = none)
    (hform : pairOkForm (s.pre.spill.readBytes z.toNat 128) = true) :
    CopyStarts s s3 { newCmd s3 (.cpyp g a b c) (some g) x y z with block := s.pre.spill.readBytes z.toNat 128 } x y z := by
  have hu := reads_only hx hy hz
  refine issueCopy_starts hu (g := g) ((cpyp_exec hx hy hz).trans (congrArg (finish s) ?_)) rfl (newCmd_carries hu (.cpyp g a b c) (some g) x y z) rfl
  rw [needTag_ready hu hready, needBlock_ok hu hlim ha hf]
  refine (need_of hform).trans ?_
  rw [needAddr_ok hu hax, needAddr_ok hu hay]

theorem cstrp_starts (hready : TagReady s g) (hax : engAddrOk s.pre.level x = true) (hay : engAddrOk s.pre.level y = true)
    (ha : z.toNat % 64 = 0) (hlim : z.toNat + 64 ≤ s.pre.spillLimit) (hf : s.pre.failedWord .spill z.toNat 64 = none)
    (hform : stripeOkForm (s.pre.spill.readBytes z.toNat 64) = true) (hx64 : (engAddrOf x).num % 64 = 0)
    (hy21 : (engAddrOf y).num % 2 ^ 21 = 0) :
    CopyStarts s s3 { newCmd s3 (.cstrp g a b c) (some g) x y z with block := s.pre.spill.readBytes z.toNat 64 } x y z := by
  have hu := reads_only hx hy hz
  refine issueCopy_starts hu (g := g) ((cstrp_exec hx hy hz).trans (congrArg (finish s) ?_)) rfl (newCmd_carries hu (.cstrp g a b c) (some g) x y z) rfl
  rw [needTag_ready hu hready, needBlock_ok hu hlim ha hf]
  refine (need_of hform).trans ?_
  rw [needAddr_ok hu hax, needAddr_ok hu hay]
  exact (need_of (decide_eq_true hx64)).trans (need_of (decide_eq_true hy21))

theorem cfill_starts (hready : TagReady s g) (hax : engAddrOk s.pre.level x = true) (hlen : cpyLen z ≠ 0)
    (hform : bitsOf z.toNat 58 6 = 0) (hfoot : footprintBad s.pre [(engAddrOf x, cpyLen z)] = none)
    (hdiff : firstDiff s.pre [(engAddrOf x, cpyLen z)] = none) (hx8 : (engAddrOf x).num % 8 = 0) (hz8 : cpyLen z % 8 = 0) :
    Starts (.cfill g a b c) s (some g) x y z fun _ t => OnlyTags s t := by
  have hu := reads_only hx hy hz
  refine startOn_starts hu (cfill_exec hx hy hz) ?_ (rs := [(engAddrOf x, cpyLen z)])
  rw [needTag_ready hu hready]
  refine (need_of ((Bool.and_eq_true _ _).mpr ⟨decide_eq_true hlen, decide_eq_true hform⟩)).trans ?_
  rw [needAddr_ok hu hax]
  refine (need_of ((Bool.and_eq_true _ _).mpr ⟨decide_eq_true hx8, decide_eq_true hz8⟩)).trans ?_
  rw [needFootprint_ok hu hfoot, needNoDiff_ok hu hdiff]

end

section
variable {sz : State} (hz : readSO s1 c 2 = .ok z sz) (hax : engAddrOk s.pre.level x = true) (hlen : cpyLen z ≠ 0)
include hz hax hlen

theorem czero_starts (hready : TagReady s g) (hform : bitsOf z.toNat 58 6 = 0)
    (hfoot : footprintBad s.pre [(engAddrOf x, cpyLen z)] = none) (hdiff : firstDiff s.pre [(engAddrOf x, cpyLen z)] = none)
    (hx64 : (engAddrOf x).num % 64 = 0) (hz64 : cpyLen z % 64 = 0) :
    Starts (.czero g a c) s (some g) x 0 z fun _ t => OnlyTags s t := by
  have hu : OnlyFree s sz := OnlyFree.trans (readS_only hx) (readSO_only hz)
  refine startOn_starts hu (exec_readS_readSO (i := .czero g a c) hx hz rfl) ?_ (rs := [(engAddrOf x, cpyLen z)])
  rw [needTag_ready hu hready]
  refine (need_of ((Bool.and_eq_true _ _).mpr ⟨decide_eq_true hlen, decide_eq_true hform⟩)).trans ?_
  rw [needAddr_ok hu hax]
  refine (need_of ((Bool.and_eq_true _ _).mpr ⟨decide_eq_true hx64, decide_eq_true hz64⟩)).trans ?_
  rw [needFootprint_ok hu hfoot, needNoDiff_ok hu hdiff]

theorem cflush_starts (hready : TagReady s g) (hform : bitsOf z.toNat 32 32 = 0) (hs : (engAddrOf x).isSpad = false) :
    Starts (.cflush g a c) s (some g) x 0 z fun _ t => OnlyTags s t := by
  have hu : OnlyFree s sz := OnlyFree.trans (readS_only hx) (readSO_only hz)
  refine startCmd_starts hu (exec_readS_readSO (i := .cflush g a c) hx hz rfl) ?_
  rw [needTag_ready hu hready]
  refine (need_of ((Bool.and_eq_true _ _).mpr ⟨decide_eq_true hlen, decide_eq_true hform⟩)).trans ?_
  rw [needAddr_ok hu hax, hs]
  rfl

theorem cpref_runs (hform : bitsOf z.toNat 32 32 = 0) (hmax : cpyLen z ≤ 2 ^ 20) :
    RunsTo (.cpref a c) s fun t => OnlyMemorySide s t ∧ ((engAddrOf x).isSpad = true → t = sz) := by
  have hu : OnlyFree s sz := OnlyFree.trans (readS_only hx) (readSO_only hz)
  have hi := exec_readS_readSO (i := .cpref a c) hx hz rfl
  have hneed : (decide (cpyLen z ≠ 0) && decide (cpyLen z ≤ 2 ^ 20) && decide (bitsOf z.toNat 32 32 = 0)) = true := by
    rw [decide_eq_true hlen, decide_eq_true hmax, decide_eq_true hform]
    rfl
  refine ⟨_, runs_of_ok hi ((need_of hneed).trans (needAddr_ok hu hax)), ?_, fun hs => ?_⟩
  · cases engAddrOf x with
    | spad o => exact hu.memorySide
    | mem o => exact hu.memorySide.trans (OnlyMemorySide.foldl _ (fun s p => s.prefetch_memorySide _ _) _ sz)
  · cases he : engAddrOf x with
    | spad o => rfl
    | mem o =>
      rw [he] at hs
      cases hs

end

end

/-- Settles O33, command by command. -/
theorem copyAndFillCommandsStart : Obligations.CopyAndFillCommandsStart := by
  unfold Obligations.CopyAndFillCommandsStart
  intro s s1 s2 s3 g a b c x y z hx hy hz
  have hu := reads_only hx hy hz
  refine ⟨fun h => ⟨raises_of_trap (cpy_exec hx hy hz) (needTag_busy hu h), raises_of_trap (cfill_exec hx hy hz) (needTag_busy hu h)⟩,
    fun h h' hq => ⟨raises_of_trap (cpy_exec hx hy hz) (needTag_full hu h h' hq),
      raises_of_trap (cfill_exec hx hy hz) (needTag_full hu h h' hq)⟩,
    fun hready hax => ⟨fun hay => ⟨cpy_starts hx hy hz hready hax hay, fun ha => ⟨fun n => cpyp_raises hx hy hz hready ha,
      fun hlim hf blk hblk hform => ?_, fun hlim hf blk hblk hform hx64 hy21 => ?_⟩⟩, cfill_starts hx hy hz hready hax⟩,
    fun sz hz' hax hlen => ⟨czero_starts hx hz' hax hlen, fun hform => ⟨fun hready hs => cflush_starts hx hz' hax hlen hready hform hs,
      cpref_runs hx hz' hax hlen hform⟩⟩⟩
  · subst hblk
    exact cpyp_starts hx hy hz hready hax hay ha hlim hf hform
  · subst hblk
    exact cstrp_starts hx hy hz hready hax hay ha hlim hf hform hx64 hy21

end Sys2Proof.Machine
end

section
/-! Tile and queue transfers at issue (R242, R378-R380). -/

namespace Sys2Proof.Machine

/-! ### How a command starts -/

/-- A state in which a tagged command with its operands has come to stand behind the others. -/
theorem starts_of_state {s t : State} {i : Instr} {m : EngCmd} {g : Fin 64} {x y z : Word} {P : EngCmd → State → Prop}
    (he : exec i s = .next t) (hmem : SameMemory s t) (hcmds : t.cmds = s.cmds ++ [m]) (htag : t.cur.tags[g] = .busy false)
    (hq : t.cur.copyq = s.cur.copyq ++ [g]) (hop : m.op = i) (hg : m.tag = some g) (hm : Carries s m x y z) (hP : P m t) :
    Starts i s (some g) x y z P := by
  obtain ⟨hcore, hlevel, ha, hb, hc, hpark⟩ := hm
  refine ⟨t, he, hmem, m, hcmds, hop, hg, hcore, hlevel, ha, hb, hc, hpark, hP, fun n hn => ?_⟩
  cases hn
  exact ⟨htag, hq⟩

theorem exec_readS_readSO_at {i : Instr} {s s1 s2 : State} {b : SSpec} {c : SOpnd} {y z : Word} {p p' : Nat}
    {k : Word → Word → State → SlotRes Unit} (hy : readS s b p = .ok y s1) (hz : readSO s1 c p' = .ok z s2)
    (hi : exec i s = finish s ((readS s b p).bind fun y s => (readSO s c p').bind (k y))) :
    exec i s = finish s (k y z s2) := by
  rw [hi, hy, SlotRes.bind_ok, hz, SlotRes.bind_ok]

/-! ### Tile transfers -/

theorem tileLoading_free {s u : State} (hu : OnlyFree s u) (n : Fin 8) : tileLoading u n = tileLoading s n := by
  unfold tileLoading
  rw [hu.cmds, hu.issue]

theorem OnlyFree.cycle {s u : State} (hu : OnlyFree s u) : u.cycle = s.cycle := (congrArg State.cycle hu :)

theorem tileDue_free {s u : State} (hu : OnlyFree s u) (cfg : BitVec 64) (y z : Word) : tileDue u cfg y z = tileDue s cfg y z := by
  unfold tileDue
  rw [hu.cycle]

/-- No range of a footprint meets a barrier line. -/
theorem barrier_free {h : KHeader} {rs : List EngRange} (hb : ∀ r ∈ rs, ∀ o, r.1 = .spad o → touchesBarrier h o r.2 = false) :
    (rs.all fun (x, len) => match x with
      | .spad o => !touchesBarrier h o len
      | .mem _ => true) = true := by
  rw [List.all_eq_true]
  rintro ⟨x, len⟩ hr
  cases x with
  | spad o =>
    change (!touchesBarrier h o len) = true
    rw [hb _ hr o rfl]
    rfl
  | mem a => rfl

section
variable {s u : State} {load : Bool} {n : Fin 8} {y z : Word} (hu : OnlyFree s u)
include hu

theorem tileChecks_ok (h : TileOk s load n y z) {k : BitVec 64 → SlotRes Unit} :
    tileChecks u load n y z k = k (s.pre.tiles[n]).cfg := by
  obtain ⟨hay, hskew, htt, hbits, hal, hscl, hfoot, hbar, hrel, hpad, hload, hnamed⟩ := h
  unfold tileChecks
  dsimp only
  rw [needAddr_ok hu hay, hu.pre]
  refine (need_of ?_).trans ((need_of (decide_eq_true hal)).trans ((need_of ?_).trans ?_))
  · rw [decide_eq_true hbits]
    cases hs : tcSkew z <;> cases ht : tcT z <;> simp_all
  · cases hs : tcScl z
    · rfl
    · simpa using hscl hs
  · rw [needFootprint_ok hu hfoot]
    refine (need_of ?_).trans ((need_of ?_).trans (need_of ?_))
    · cases load with
      | true => rfl
      | false => exact barrier_free (hbar rfl)
    · rw [hrel]
      cases ht : tcT z
      · rfl
      · simpa using hpad ht
    · rw [tileLoading_free hu, hload, hu.cur]
      cases load with
      | false => rfl
      | true => simpa using hnamed rfl

end

/-- A command with what it carries that starts on a footprint. -/
theorem startOn_starts_of {s u : State} {i : Instr} {m : EngCmd} {g : Fin 64} {x y z : Word} {rs : List EngRange}
    {r : SlotRes Unit} {P : EngCmd → State → Prop} (hu : OnlyFree s u) (hi : exec i s = finish s r)
    (hr : r = .ok () (u.startOn m rs)) (hop : m.op = i) (hg : m.tag = some g) (hm : Carries s m x y z)
    (hP : OnlyTags s (u.startOn m rs) → (u.startOn m rs).cur.reelPtr = s.cur.reelPtr →
      P { m with diff := m.diff || diffFoot s.pre rs } (u.startOn m rs)) : Starts i s (some g) x y z P := by
  have hent := startCmd_entered (g := g) (m := { m with diff := m.diff || diffFoot u.pre rs }) hu hg
  have hnew : P { m with diff := m.diff || diffFoot u.pre rs } (u.startOn m rs) := by
    rw [hu.pre]
    exact hP hent.2.2.2.1 (startCmd_reelPtr hu hg)
  exact hent.startsAs (runs_of_ok hi hr) hop hg rfl hm hnew

/-! ### Ranges restored in REWIND -/

section
variable {s : State} {m : EngCmd} {r : DiffRegion} {kind : Nat} {rs : List EngRange} {elems : List Nat}
  {k : List Byte → State → SlotRes Unit}

theorem restoreAt_holds (h : diffDone s s.issue.core = false) : restoreAt s m r kind rs elems k = .hold .fence := by
  unfold restoreAt
  exact if_pos (by simpa [diffDone, Classical.or_iff_not_imp_left] using h)

theorem restoreAt_ok {olds : List (EngAddr × List Byte)} {ptr : Nat} {xs : List CellPlace} {v u : State}
    (h : diffDone s s.issue.core = true)
    (hpop : popAll s s.cur (reelXlate s s.issue.core) kind (reelPtr s.cur) rs.reverse = .ok (olds, ptr))
    (hplace : placesOf s m r elems = .ok (xs, v)) (hback : writeBack (takeAll v m r xs).2 m olds = .ok u) :
    restoreAt s m r kind rs elems k = k ((takeAll v m r xs).1.flatMap fun v => natToBytes r.esize (narrowFrom32 r.type v))
      (u.upd fun k => k.setReelPtr ptr) := by
  unfold restoreAt
  dsimp only
  rw [if_neg (by simpa [diffDone] using h), hpop]
  dsimp only
  rw [hplace]
  dsimp only
  rw [hback]

theorem ctstRewind_holds {n : Fin 8} (h : diffDone s s.issue.core = false) : ctstRewind s m n r rs = .hold .fence := by
  unfold ctstRewind
  exact restoreAt_holds h

theorem ctstRewind_ok {n : Fin 8} {olds : List (EngAddr × List Byte)} {ptr : Nat} {xs : List CellPlace} {v u : State}
    (h : diffDone s s.issue.core = true)
    (hpop : popAll s s.cur (reelXlate s s.issue.core) recCtst (reelPtr s.cur) rs.reverse = .ok (olds, ptr))
    (hplace : placesOf s m r ((tileElems (s.cur.tiles[n]) m.b m.c).map (·.2)) = .ok (xs, v))
    (hback : writeBack (takeAll v m r xs).2 m olds = .ok u) :
    ctstRewind s m n r rs = .ok () (((u.upd fun k => k.setReelPtr ptr).upd fun k => { k.renewWords (.tile n) 0 16896 with
      tiles := k.tiles.set n (loadedTile (s.cur.tiles[n])
        ((takeAll v m r xs).1.flatMap fun v => natToBytes r.esize (narrowFrom32 r.type v)) (List.replicate 512 0x7F)) }).startCmd
      { m with rewind := true, diff := true }) := by
  unfold ctstRewind
  exact restoreAt_ok h hpop hplace hback

end

section
variable {s s1 s2 : State} {g : Fin 64} {n : Fin 8} {b : SSpec} {c : SOpnd} {y z : Word} (hy : readS s b 1 = .ok y s1)
  (hz : readSO s1 c 2 = .ok z s2)
include hy hz

theorem readsAt_only : OnlyFree s s2 := OnlyFree.trans (readS_only hy) (readSO_only hz)

section
variable (hready : TagReady s g)
include hready

theorem ctld_ok (h : TileOk s true n y z) {r : Option DiffRegion} (hd : tileDiff s2 (s.pre.tiles[n]).cfg y z = .ok r) :
    Starts (.ctld g n b c) s (some g) 0 y z fun m t =>
      m.diff = diffFoot s.pre (tileRanges (s.pre.tiles[n]).cfg y z) ∧ m.rewind = (r.isSome && s.pre.rewinding) ∧
      m.cfg = (s.pre.tiles[n]).cfg ∧ m.due = tileDue s (s.pre.tiles[n]).cfg y z ∧ OnlyTags s t := by
  have hu := readsAt_only hy hz
  have hi := exec_readS_readSO_at (i := .ctld g n b c) hy hz rfl
  rw [needTag_ready hu hready, tileChecks_ok hu h, hd] at hi
  refine startOn_starts_of hu hi rfl rfl rfl (newCmd_carries hu (.ctld g n b c) (some g) 0 y z) fun ht _ => ⟨rfl, ?_, rfl, ?_, ht⟩
  · exact congrArg (r.isSome && ·.rewinding) hu.pre
  · exact tileDue_free hu _ y z

theorem ctld_shape (h : TileOk s true n y z) {info : Word} (hd : tileDiff s2 (s.pre.tiles[n]).cfg y z = .error info) :
    Raises (.ctld g n b c) s (slotTrap s .diffShape info) := by
  have hu := readsAt_only hy hz
  have hi := exec_readS_readSO_at (i := .ctld g n b c) hy hz rfl
  rw [needTag_ready hu hready, tileChecks_ok hu h, hd] at hi
  rw [← slotTrap_of_issue hu.issue]
  exact raises_of_trap hi rfl

/-- What a CTST does once its checks have passed. -/
theorem ctst_exec (h : TileOk s false n y z) : exec (.ctst g n b c) s = finish s (
    match tileDiff s2 (s.pre.tiles[n]).cfg y z with
    | .error info => raise s2 .diffShape info
    | .ok none => .ok () (s2.startOn { newCmd s2 (.ctst g n b c) (some g) 0 y z with
        due := tileDue s2 (s.pre.tiles[n]).cfg y z, cfg := (s.pre.tiles[n]).cfg } (tileRanges (s.pre.tiles[n]).cfg y z))
    | .ok (some r) =>
      if s2.pre.rewinding then ctstRewind s2 { newCmd s2 (.ctst g n b c) (some g) 0 y z with
        due := tileDue s2 (s.pre.tiles[n]).cfg y z, cfg := (s.pre.tiles[n]).cfg } n r (tileRanges (s.pre.tiles[n]).cfg y z)
      else match reserveReel s2 s2.issue.core (recordsSize (tileRanges (s.pre.tiles[n]).cfg y z)) with
        | .error (e, info) => raise s2 e info
        | .ok segs =>
          .ok () ((s2.startCmd { newCmd s2 (.ctst g n b c) (some g) 0 y z with
            due := tileDue s2 (s.pre.tiles[n]).cfg y z, cfg := (s.pre.tiles[n]).cfg, diff := true, segs := segs }).upd fun k =>
            k.setReelPtr (reelPtr k + recordsSize (tileRanges (s.pre.tiles[n]).cfg y z)))) := by
  have hu := readsAt_only hy hz
  have hi := exec_readS_readSO_at (i := .ctst g n b c) hy hz rfl
  rw [needTag_ready hu hready, tileChecks_ok hu h] at hi
  exact hi

theorem ctst_plain (h : TileOk s false n y z) (hd : tileDiff s2 (s.pre.tiles[n]).cfg y z = .ok none) :
    Starts (.ctst g n b c) s (some g) 0 y z fun m t =>
      m.diff = diffFoot s.pre (tileRanges (s.pre.tiles[n]).cfg y z) ∧ m.cfg = (s.pre.tiles[n]).cfg ∧
      m.due = tileDue s (s.pre.tiles[n]).cfg y z ∧ t.cur.reelPtr = s.cur.reelPtr ∧ OnlyTags s t := by
  have hu := readsAt_only hy hz
  have hi := ctst_exec hy hz hready h
  rw [hd] at hi
  exact startOn_starts_of hu hi rfl rfl rfl (newCmd_carries hu (.ctst g n b c) (some g) 0 y z) fun ht hr =>
    ⟨rfl, rfl, tileDue_free hu _ y z, hr, ht⟩

theorem ctst_taped (h : TileOk s false n y z) {r : DiffRegion} {segs : List Seg}
    (hd : tileDiff s2 (s.pre.tiles[n]).cfg y z = .ok (some r)) (hrew : s.pre.rewinding = false)
    (hsegs : reserveReel s2 s.issue.core (recordsSize (tileRanges (s.pre.tiles[n]).cfg y z)) = .ok segs) :
    Starts (.ctst g n b c) s (some g) 0 y z fun m t => m.diff = true ∧ m.segs = segs ∧ OnlyTags s t ∧
      t.cur.reelPtr = (s.cur.setReelPtr (reelPtr s.cur + recordsSize (tileRanges (s.pre.tiles[n]).cfg y z))).reelPtr := by
  have hu := readsAt_only hy hz
  have hi := ctst_exec hy hz hready h
  rw [hd, hu.pre, hrew, hu.issue, hsegs] at hi
  have hent := (startCmd_entered (g := g) (m := { newCmd s2 (.ctst g n b c) (some g) 0 y z with
    due := tileDue s2 (s.pre.tiles[n]).cfg y z, cfg := (s.pre.tiles[n]).cfg, diff := true, segs := segs }) hu rfl).tape
    (reelPtr s.cur + recordsSize (tileRanges (s.pre.tiles[n]).cfg y z))
  have hptr := State.upd_congr (s := s2.startCmd { newCmd s2 (.ctst g n b c) (some g) 0 y z with
    due := tileDue s2 (s.pre.tiles[n]).cfg y z, cfg := (s.pre.tiles[n]).cfg, diff := true, segs := segs })
    (f := fun k => k.setReelPtr (reelPtr k + recordsSize (tileRanges (s.pre.tiles[n]).cfg y z)))
    (g := fun k => k.setReelPtr (reelPtr s.cur + recordsSize (tileRanges (s.pre.tiles[n]).cfg y z)))
    (by dsimp only; unfold reelPtr; rw [startCmd_reelPtr hu rfl])
  exact hent.startsAs (runs_of_ok (hi.trans (congrArg (fun t => finish s (.ok () t)) hptr)) rfl) rfl rfl rfl
    (newCmd_carries hu (.ctst g n b c) (some g) 0 y z) ⟨rfl, rfl, hent.2.2.2.1, by rw [State.cur_upd]; rfl⟩

theorem ctst_rewinds (h : TileOk s false n y z) {r : DiffRegion} (hd : tileDiff s2 (s.pre.tiles[n]).cfg y z = .ok (some r))
    (hrew : s.pre.rewinding = true) : exec (.ctst g n b c) s = finish s (ctstRewind s2
      { newCmd s2 (.ctst g n b c) (some g) 0 y z with
        due := tileDue s2 (s.pre.tiles[n]).cfg y z, cfg := (s.pre.tiles[n]).cfg } n r (tileRanges (s.pre.tiles[n]).cfg y z)) := by
  have hi := ctst_exec hy hz hready h
  rw [hd, (readsAt_only hy hz).pre, hrew] at hi
  exact hi

theorem ctst_restores (h : TileOk s false n y z) {r : DiffRegion} (hd : tileDiff s2 (s.pre.tiles[n]).cfg y z = .ok (some r))
    (hrew : s.pre.rewinding = true) (hdone : diffDone s2 s.issue.core = true) {olds : List (EngAddr × List Byte)} {ptr : Nat}
    {xs : List CellPlace} {v u : State} {m : EngCmd} (hm : m = { newCmd s2 (.ctst g n b c) (some g) 0 y z with
      due := tileDue s2 (s.pre.tiles[n]).cfg y z, cfg := (s.pre.tiles[n]).cfg })
    (hpop : popAll s2 s2.cur (reelXlate s2 s.issue.core) recCtst (reelPtr s.cur)
      (tileRanges (s.pre.tiles[n]).cfg y z).reverse = .ok (olds, ptr))
    (hplace : placesOf s2 m r ((tileElems (s.cur.tiles[n]) y z).map (·.2)) = .ok (xs, v))
    (hback : writeBack (takeAll v m r xs).2 m olds = .ok u) : RunsTo (.ctst g n b c) s fun t =>
      t.cur.tags[g] = .busy false ∧ SameMemory u t ∧ t.cur.reelPtr = (u.cur.setReelPtr ptr).reelPtr ∧
      t.cur.spad = u.cur.spad ∧ t.cur.tiles[n] = loadedTile (s.cur.tiles[n])
        ((takeAll v m r xs).1.flatMap fun v => natToBytes r.esize (narrowFrom32 r.type v)) (List.replicate 512 0x7F) := by
  have hu := readsAt_only hy hz
  have hi := ctst_rewinds hy hz hready h hd hrew
  rw [← hm] at hi
  have hb : m.b = y := by rw [hm]; rfl
  have hc : m.c = z := by rw [hm]; rfl
  have hg : m.tag = some g := by rw [hm]; rfl
  rw [← hu.issue] at hdone hpop
  rw [← hu.cur] at hpop hplace ⊢
  rw [← hb, ← hc] at hplace
  refine ⟨_, runs_of_ok hi (ctstRewind_ok hdone hpop hplace hback), ?_⟩
  beta_reduce
  rw [State.startCmd_cur _ (show EngCmd.tag { m with rewind := true, diff := true } = some g from hg), State.cur_upd, State.cur_upd]
  exact ⟨Vector.getElem_set_self _, SameMemory.trans (SameMemory.of_eq rfl rfl) (State.startCmd_memory _ _), rfl, rfl,
    Vector.getElem_set_self _⟩

end

end

/-! ### Queue transfers -/

def EndDiff.isRegion : EndDiff → Bool
  | .region _ => true
  | _ => false

/-- A CQST in REWIND goes the other way. -/
def cqstRew (k : Core) (rs : List EngRange) : Bool := k.rewinding && diffLevel k && (footDiff k rs).isRegion

/-- A queue without its first vectors. -/
def Core.popRows (k : Core) (q : Fin 2) (n : Nat) : Core :=
  if q = 0 then { k with q0 := k.q0.drop n } else { k with q1 := k.q1.drop n }

theorem Core.popRows_queueOf (k : Core) (q : Fin 2) (n : Nat) : queueOf (k.popRows q n) q = (queueOf k q).drop n := by
  fin_cases q <;> rfl

theorem Core.popRows_other (k : Core) {p q : Fin 2} (n : Nat) (h : p ≠ q) : queueOf (k.popRows q n) p = queueOf k p := by
  fin_cases q <;> fin_cases p
  · exact absurd rfl h
  · rfl
  · rfl
  · exact absurd rfl h

theorem Core.popRows_keeps {α : Type} (f : Core → α) (hf : ∀ (k : Core) a b, f { k with q0 := a, q1 := b } = f k) (k : Core)
    (q : Fin 2) (n : Nat) : f (k.popRows q n) = f k := by
  unfold Core.popRows
  split
  · exact hf k (k.q0.drop n) k.q1
  · exact hf k k.q0 (k.q1.drop n)

/-- The rows of bytes as vectors. -/
def rowsOf (data : List Byte) (n : Nat) : List Vec :=
  (List.range n).map fun i => vecOf ((data.drop (256 * i)).take 256) (List.replicate 8 0x7F)

theorem rowsOf_length (data : List Byte) (n : Nat) : (rowsOf data n).length = n := by simp [rowsOf]

/-- A queue with vectors behind it. -/
def Core.pushRows (k : Core) (q : Fin 2) (rows : List Vec) : Core :=
  if q = 0 then { k with q0 := k.q0 ++ rows } else { k with q1 := k.q1 ++ rows }

theorem Core.pushRows_queueOf (k : Core) (q : Fin 2) (rows : List Vec) : queueOf (k.pushRows q rows) q = queueOf k q ++ rows := by
  fin_cases q <;> rfl

theorem Core.pushRows_keeps {α : Type} (f : Core → α) (hf : ∀ (k : Core) a b, f { k with q0 := a, q1 := b } = f k) (k : Core)
    (q : Fin 2) (rows : List Vec) : f (k.pushRows q rows) = f k := by
  unfold Core.pushRows
  split
  · exact hf k (k.q0 ++ rows) k.q1
  · exact hf k k.q0 (k.q1 ++ rows)

/-- What a CQST does once its checks have passed. -/
def cqstMoves (s : State) (m : EngCmd) (q : Fin 2) (rs : List EngRange) : SlotRes Unit :=
  match footDiff s.pre rs with
  | .mixed x => raise s .diffShape x.info
  | .plain => .ok () ((s.upd fun k => k.popRows q (qcN m.c)).startOn m rs)
  | .region r =>
    if cqstRew s.pre rs then cqstRewind s m q r rs
    else match reserveReel s s.issue.core (recordsSize rs) with
      | .error (c, info) => raise s c info
      | .ok segs => .ok () (((s.upd fun k => k.popRows q (qcN m.c)).startCmd { m with diff := true, segs := segs }).upd fun k =>
          k.setReelPtr (reelPtr k + recordsSize rs))

/-- A CQST with the vectors that it takes. -/
def cqstCmd (s : State) (g : Fin 64) (q : Fin 2) (b : SSpec) (c : SOpnd) (y z : Word) : EngCmd :=
  { newCmd s (.cqst g q b c) (some g) 0 y z with vecs := (queueOf s.cur q).take (qcN z) }

section
variable {s s1 s2 : State} {g : Fin 64} {q : Fin 2} {b : SSpec} {c : SOpnd} {y z : Word} (hy : readS s b 1 = .ok y s1)
  (hz : readSO s1 c 2 = .ok z s2)
include hy hz

theorem cqst_exec : exec (.cqst g q b c) s = finish s (needTag s2 g <| needAddr s2 y 1 fun e =>
    need s2 (qcN z ≠ 0 && qcN z ≤ 64 && bitsOf z.toNat 19 5 = 0 && bitsOf z.toNat 48 16 = 0) .operandReserved (opndInfo 0 2) <|
    need s2 (cqstRew s2.pre (qstRanges y z) || qcN z ≤ (queueOf s2.cur q).length) .queueEmpty (BitVec.ofNat 64 q.val) <|
    need s2 (e.num % 64 = 0) .misaligned e.info <|
    needFootprint s2 (qstRanges y z) <|
    need s2 ((qstRanges y z).all fun (x, len) => match x with
      | .spad o => !touchesBarrier s2.pre.hdr o len
      | .mem _ => true) .barrierStore e.info <|
    cqstMoves s2 (cqstCmd s2 g q b c y z) q (qstRanges y z)) := by
  have hi := exec_readS_readSO_at (i := .cqst g q b c) hy hz rfl
  exact hi

section
variable (hready : TagReady s g) (hay : engAddrOk s.pre.level y = true) (hn : qcN z ≠ 0) (h64 : qcN z ≤ 64)
  (h19 : bitsOf z.toNat 19 5 = 0) (h48 : bitsOf z.toNat 48 16 = 0)
include hready hay hn h64 h19 h48

theorem cqst_empty (hrew : cqstRew s.pre (qstRanges y z) = false) (hq : (queueOf s.cur q).length < qcN z) :
    Raises (.cqst g q b c) s (slotTrap s .queueEmpty (BitVec.ofNat 64 q.val)) := by
  have hu := readsAt_only hy hz
  refine raises_of_trap (cqst_exec hy hz) ?_
  rw [needTag_ready hu hready, needAddr_ok hu hay, ← slotTrap_of_issue hu.issue]
  refine (need_of ?_).trans (need_of_not ?_)
  · rw [decide_eq_true hn, decide_eq_true h64, decide_eq_true h19, decide_eq_true h48]
    rfl
  · rw [hu.pre, hrew, hu.cur]
    exact decide_eq_false (Nat.not_le.2 hq)

theorem cqst_ready (hq : cqstRew s.pre (qstRanges y z) = true ∨ qcN z ≤ (queueOf s.cur q).length)
    (h64a : (engAddrOf y).num % 64 = 0) (hfoot : footprintBad s.pre (qstRanges y z) = none)
    (hbar : ∀ r ∈ qstRanges y z, ∀ o, r.1 = .spad o → touchesBarrier s.pre.hdr o r.2 = false) :
    exec (.cqst g q b c) s = finish s (cqstMoves s2 (cqstCmd s2 g q b c y z) q (qstRanges y z)) := by
  have hu := readsAt_only hy hz
  rw [cqst_exec hy hz]
  refine congrArg (finish s) ?_
  rw [needTag_ready hu hready, needAddr_ok hu hay]
  refine (need_of ?_).trans ((need_of ?_).trans ((need_of (decide_eq_true h64a)).trans ?_))
  · rw [decide_eq_true hn, decide_eq_true h64, decide_eq_true h19, decide_eq_true h48]
    rfl
  · rw [hu.pre, hu.cur]
    rcases hq with hq | hq
    · rw [hq]
      rfl
    · rw [decide_eq_true hq, Bool.or_true]
  · rw [needFootprint_ok hu hfoot]
    exact need_of (barrier_free (by rw [hu.pre]; exact hbar))

end

end

/-! ### Its moves -/

section
variable {s u : State} {m : EngCmd} {g : Fin 64} {q : Fin 2} {n : Nat} (hu : OnlyFree s u)
include hu

/-- The core of a CQST that has started: its vectors taken from the queue. -/
theorem popped_cur (hg : m.tag = some g) : ((u.upd fun k => k.popRows q n).startCmd m).cur =
    { s.cur.popRows q n with tags := s.cur.tags.set g (.busy false), copyq := s.cur.copyq ++ [g] } := by
  rw [State.startCmd_cur _ hg, State.cur_upd, hu.cur, Core.popRows_keeps Core.tags (fun _ _ _ => rfl),
    Core.popRows_keeps Core.copyq fun _ _ _ => rfl]

theorem popped_cmds : ((u.upd fun k => k.popRows q n).startCmd m).cmds = s.cmds ++ [m] :=
  (State.startCmd_cmds _ m).trans (congrArg (· ++ [m]) hu.cmds)

theorem popped_memory : SameMemory s ((u.upd fun k => k.popRows q n).startCmd m) :=
  (hu.memory.trans (SameMemory.of_eq rfl rfl)).trans (State.startCmd_memory _ m)

theorem popped_others : OtherCores s ((u.upd fun k => k.popRows q n).startCmd m) := fun d hd => by
  have hd' : d ≠ u.issue.core := hu.issue.symm ▸ hd
  rw [State.startCmd_ne _ m (show d ≠ (u.upd fun k => k.popRows q n).issue.core from hd'), State.upd_coreAt_ne _ _ hd', hu.coreAt]

end

section
variable {s s2 : State} {g : Fin 64} {q : Fin 2} {b : SSpec} {c : SOpnd} {y z : Word} {rs : List EngRange} (hu : OnlyFree s s2)
  (hi : exec (.cqst g q b c) s = finish s (cqstMoves s2 (cqstCmd s2 g q b c y z) q rs))
include hu hi

theorem cqst_plain (hd : footDiff s.pre rs = .plain) : Starts (.cqst g q b c) s (some g) 0 y z fun m t =>
    m.vecs = (queueOf s.cur q).take (qcN z) ∧ queueOf t.cur q = (queueOf s.cur q).drop (qcN z) ∧
    (∀ p, p ≠ q → queueOf t.cur p = queueOf s.cur p) ∧ OtherCores s t := by
  have hr : cqstMoves s2 (cqstCmd s2 g q b c y z) q rs =
      .ok () ((s2.upd fun k => k.popRows q (qcN z)).startOn (cqstCmd s2 g q b c y z) rs) := by
    unfold cqstMoves
    rw [hu.pre, hd]
    rfl
  have hcur := popped_cur (q := q) (n := qcN z) hu (m := { cqstCmd s2 g q b c y z with
    diff := (cqstCmd s2 g q b c y z).diff || diffFoot (s2.upd fun k => k.popRows q (qcN z)).pre rs }) (g := g) rfl
  refine starts_of_state (runs_of_ok hi hr) (popped_memory hu) (popped_cmds hu) ?_ ?_ rfl rfl
    (newCmd_carries hu (.cqst g q b c) (some g) 0 y z) ⟨?_, ?_, fun p hp => ?_, popped_others hu⟩
  · unfold State.startOn
    rw [hcur]
    exact Vector.getElem_set_self _
  · unfold State.startOn
    rw [hcur]
  · exact congrArg (fun k => (queueOf k q).take (qcN z)) hu.cur
  · unfold State.startOn
    rw [hcur]
    exact Core.popRows_queueOf _ _ _
  · unfold State.startOn
    rw [hcur]
    exact Core.popRows_other _ _ hp

theorem cqst_taped {r : DiffRegion} {segs : List Seg} (hd : footDiff s.pre rs = .region r) (hrew : cqstRew s.pre rs = false)
    (hsegs : reserveReel s2 s.issue.core (recordsSize rs) = .ok segs) : Starts (.cqst g q b c) s (some g) 0 y z fun m t =>
      m.vecs = (queueOf s.cur q).take (qcN z) ∧ m.segs = segs ∧ queueOf t.cur q = (queueOf s.cur q).drop (qcN z) ∧
      t.cur.reelPtr = (s.cur.setReelPtr (reelPtr s.cur + recordsSize rs)).reelPtr := by
  have hr : cqstMoves s2 (cqstCmd s2 g q b c y z) q rs = .ok () (((s2.upd fun k => k.popRows q (qcN z)).startCmd
      { cqstCmd s2 g q b c y z with diff := true, segs := segs }).upd fun k => k.setReelPtr (reelPtr k + recordsSize rs)) := by
    unfold cqstMoves
    rw [hu.pre, hd, hrew, hu.issue, hsegs]
    rfl
  have hcur := popped_cur (q := q) (n := qcN z) hu
    (m := { cqstCmd s2 g q b c y z with diff := true, segs := segs }) (g := g) rfl
  refine starts_of_state (runs_of_ok hi hr) ((popped_memory hu).trans (SameMemory.of_eq rfl rfl)) (popped_cmds hu) ?_ ?_ rfl rfl
    (newCmd_carries hu (.cqst g q b c) (some g) 0 y z) ⟨?_, rfl, ?_, ?_⟩
  · rw [State.cur_upd, hcur]
    exact Vector.getElem_set_self _
  · rw [State.cur_upd, hcur]
    rfl
  · exact congrArg (fun k => (queueOf k q).take (qcN z)) hu.cur
  · rw [State.cur_upd, hcur]
    exact Core.popRows_queueOf _ _ _
  · rw [State.cur_upd, hcur]
    unfold Core.setReelPtr reelPtr
    dsimp only
    rw [Core.popRows_keeps Core.reelPtr fun _ _ _ => rfl]

theorem cqst_mixed {e : EngAddr} (hd : footDiff s.pre rs = .mixed e) :
    Raises (.cqst g q b c) s (slotTrap s .diffShape e.info) := by
  rw [← slotTrap_of_issue hu.issue]
  refine raises_of_trap hi ?_
  unfold cqstMoves
  rw [hu.pre, hd]
  rfl

section
variable {r : DiffRegion} (hd : footDiff s.pre rs = .region r) (hrew : cqstRew s.pre rs = true)
include hd hrew

theorem cqst_rewinds : exec (.cqst g q b c) s = finish s (cqstRewind s2 (cqstCmd s2 g q b c y z) q r rs) := by
  rw [hi]
  unfold cqstMoves
  rw [hu.pre, hd, hrew]
  rfl

theorem cqst_full (h : queueMax s.pre q < (queueOf s.cur q).length + qcN z) :
    Raises (.cqst g q b c) s (slotTrap s .queueFull (BitVec.ofNat 64 q.val)) := by
  rw [← slotTrap_of_issue hu.issue]
  refine raises_of_trap (cqst_rewinds hu hi hd hrew) ?_
  unfold cqstRewind
  rw [hu.pre, hu.cur]
  exact need_of_not (decide_eq_false (Nat.not_le.2 h))

variable (hroom : (queueOf s.cur q).length + qcN z ≤ queueMax s.pre q)
include hroom

theorem cqst_holds (hdone : diffDone s2 s.issue.core = false) : Holds (.cqst g q b c) s .fence := by
  refine holds_of_hold (cqst_rewinds hu hi hd hrew) ?_
  unfold cqstRewind
  rw [hu.pre, hu.cur]
  exact (need_of (decide_eq_true hroom)).trans (restoreAt_holds (by rw [hu.issue]; exact hdone))

theorem cqst_restores (hdone : diffDone s2 s.issue.core = true) {olds : List (EngAddr × List Byte)} {ptr : Nat}
    {xs : List CellPlace} {v u : State} (hpop : popAll s2 s2.cur (reelXlate s2 s.issue.core) recCqst (reelPtr s.cur)
      rs.reverse = .ok (olds, ptr))
    (hplace : placesOf s2 (cqstCmd s2 g q b c y z) r (elemsIn r (engAddrOf y).num (256 * qcN z)) = .ok (xs, v))
    (hback : writeBack (takeAll v (cqstCmd s2 g q b c y z) r xs).2 (cqstCmd s2 g q b c y z) olds = .ok u) :
    RunsTo (.cqst g q b c) s fun t => t.cur.tags[g] = .busy false ∧ SameMemory u t ∧
      t.cur.reelPtr = (u.cur.setReelPtr ptr).reelPtr ∧ t.cur.spad = u.cur.spad ∧
      (queueOf t.cur q).length = (queueOf u.cur q).length + qcN z := by
  have hr : cqstRewind s2 (cqstCmd s2 g q b c y z) q r rs = .ok () (((u.upd fun k => k.setReelPtr ptr).upd fun k =>
      k.pushRows q (rowsOf ((takeAll v (cqstCmd s2 g q b c y z) r xs).1.flatMap fun v =>
        natToBytes r.esize (narrowFrom32 r.type v)) (qcN z))).startCmd
      { cqstCmd s2 g q b c y z with rewind := true, diff := true }) := by
    unfold cqstRewind
    rw [hu.pre, hu.cur]
    refine (need_of (decide_eq_true hroom)).trans (restoreAt_ok (by rw [hu.issue]; exact hdone) ?_ hplace hback)
    rw [hu.issue, hu.cur]
    rw [hu.cur] at hpop
    exact hpop
  refine ⟨_, runs_of_ok (cqst_rewinds hu hi hd hrew) hr, ?_⟩
  beta_reduce
  rw [State.startCmd_cur (g := g) (m := { cqstCmd s2 g q b c y z with rewind := true, diff := true }) _ rfl, State.cur_upd, State.cur_upd]
  refine ⟨Vector.getElem_set_self _, SameMemory.trans (SameMemory.of_eq rfl rfl) (State.startCmd_memory _ _),
    Core.pushRows_keeps Core.reelPtr (fun _ _ _ => rfl) _ _ _, Core.pushRows_keeps Core.spad (fun _ _ _ => rfl) _ _ _, ?_⟩
  refine (congrArg List.length (Core.pushRows_queueOf (u.cur.setReelPtr ptr) q _)).trans ?_
  rw [List.length_append, rowsOf_length]
  rfl

end

end

/-- Settles O34, transfer by transfer. -/
theorem tileAndQueueTransfersStart : Obligations.TileAndQueueTransfersStart := by
  unfold Obligations.TileAndQueueTransfersStart
  intro s s1 s2 g n q b c y z hy hz hready
  have hu := readsAt_only hy hz
  constructor
  · intro cfg
    refine ⟨fun h => ⟨fun r hd => ctld_ok hy hz hready h hd, fun info hd => ctld_shape hy hz hready h hd⟩,
      fun h => ⟨fun hd => ctst_plain hy hz hready h hd, fun r segs hd hrew hsegs => ctst_taped hy hz hready h hd hrew hsegs, ?_⟩⟩
    intro r hd hrew m
    split
    · next hdone =>
      exact holds_of_hold (ctst_rewinds hy hz hready h hd hrew) (ctstRewind_holds (by rw [hu.issue]; exact hdone))
    · next hdone =>
      intro olds ptr xs v u hpop hplace hback
      exact ctst_restores hy hz hready h hd hrew (Bool.eq_true_of_not_eq_false hdone) rfl hpop hplace hback
  · intro hay hn h64 h19 h48 rs isRew
    have hrew : isRew = cqstRew s.pre rs := rfl
    clear_value isRew
    subst hrew
    refine ⟨cqst_empty hy hz hready hay hn h64 h19 h48, fun hq h64a hfoot hbar => ?_⟩
    have hi := cqst_ready hy hz hready hay hn h64 h19 h48 hq h64a hfoot hbar
    refine ⟨cqst_plain hu hi, fun r segs hd hrew hsegs => cqst_taped hu hi hd hrew hsegs, ?_, fun e hd => cqst_mixed hu hi hd⟩
    intro r hd hrew m
    split
    · exact cqst_full hu hi hd hrew ‹_›
    · next hroom =>
      have hroom := Nat.not_lt.1 hroom
      split
      · exact cqst_holds hu hi hd hrew hroom ‹_›
      · next hdone =>
        intro olds ptr xs v u hpop hplace hback
        exact cqst_restores hu hi hd hrew hroom (Bool.eq_true_of_not_eq_false hdone) hpop hplace hback

end Sys2Proof.Machine
end

section
/-! Messages, atomics of the memory side, host signals and near-bank commands at issue (R162, R381, R392-R396). -/

namespace Sys2Proof.Machine

theorem exec_readS2 {i : Instr} {s s1 s2 : State} {a b : SSpec} {x y : Word} {k : Word → Word → State → SlotRes Unit}
    (hx : readS s a 0 = .ok x s1) (hy : readS s1 b 1 = .ok y s2)
    (hi : exec i s = finish s ((readS s a 0).bind fun x s => (readS s b 1).bind (k x))) : exec i s = finish s (k x y s2) := by
  rw [hi, hx, SlotRes.bind_ok, hy, SlotRes.bind_ok]

/-! ### CMSG -/

theorem OnlyFree.memq {s u : State} (hu : OnlyFree s u) : u.memq = s.memq := (congrArg State.memq hu :)

theorem creditComing_free {s u : State} (hu : OnlyFree s u) (t : Nat) :
    creditComing u u.issue.core t = creditComing s s.issue.core t := by
  unfold creditComing
  rw [show u.credRet = s.credRet from (congrArg State.credRet hu :), hu.issue, hu.coreAt]

theorem State.send_cmds (s : State) (c : Fin 256) (kind : MemKind) (p : Phys) (va : Word) (o : OpOpts) :
    (s.send c kind p va o).2.cmds = s.cmds := (congrArg State.cmds (s.send_only c kind p va o) :)

theorem State.startCmd_memq (s : State) (m : EngCmd) : (s.startCmd m).memq = s.memq := by
  unfold State.startCmd
  dsimp only
  split <;> rfl

theorem State.startCmd_cycle (s : State) (m : EngCmd) : (s.startCmd m).cycle = s.cycle := by
  unfold State.startCmd
  dsimp only
  split <;> rfl

/-- A message command with its bytes. -/
def cmsgCmd (s : State) (g : Fin 64) (a b : SSpec) (x y : Word) (off : Nat) : EngCmd :=
  { newCmd s (.cmsg g a b) (some g) x y 0 with bytes := s.cur.spad.readBytes off 64 }

/-- The message leaves: its command has started, a credit is taken. -/
def cmsgSend (s : State) (m : EngCmd) (x : Word) (t : Fin 256) (off : Nat) : State :=
  let u := (s.startOn m [(.spad off, 64)]).upd fun k =>
    { k with credits := setAt k.credits x.toNat (s.cur.credits.getD x.toNat 0 - 1) }
  (u.send u.issue.core (.msg t m.bytes m.id) ⟨0, false, false, 0⟩ 0
    { write := true, due := u.cycle + msgLatency u.issue.core t }).2

section
variable {s u : State} {m : EngCmd} {g : Fin 64} {x : Word} {t : Fin 256} {off : Nat} (hu : OnlyFree s u) (hg : m.tag = some g)
include hu

theorem cmsgSend_memory : SameMemory s (cmsgSend u m x t off) :=
  (hu.memory.trans (State.startCmd_memory u _)).trans (SameMemory.trans (SameMemory.of_eq rfl rfl) (State.send_memory _ _ _ _ _ _))

theorem cmsgSend_cmds : (cmsgSend u m x t off).cmds = s.cmds ++ [{ m with diff := m.diff || diffFoot s.pre [(.spad off, 64)] }] := by
  refine (State.send_cmds _ _ _ _ _ _).trans ((State.startCmd_cmds u _).trans ?_)
  rw [hu.cmds, hu.pre]

theorem cmsgSend_sends : Sends s (cmsgSend u m x t off) (.msg t m.bytes m.id) 0 fun o =>
    o.due = s.cycle + msgLatency s.issue.core t := by
  have hissue : (u.startOn m [(.spad off, 64)]).issue = s.issue := (State.startCmd_issue u _).trans hu.issue
  refine ⟨_, (State.send_memq _ _ _ _ _ _).trans (congrArg (· ++ [_]) ((State.startCmd_memq u _).trans hu.memq)),
    State.sentOp_kind _ _ _ _ _ _, State.sentOp_dpa _ _ _ _ _ _, (State.sentOp_core _ _ _ _ _ _).trans (congrArg Issue.core hissue),
    State.sentOp_result _ _ _ _ _ _, (State.sentOp_due _ _ _ _ _ _).trans ?_⟩
  exact congrArg₂ (· + ·) ((State.startCmd_cycle u _).trans hu.cycle) (congrArg (msgLatency · t) (congrArg Issue.core hissue))

include hg

theorem cmsgSend_cur {α : Type} (f : Core → α) (hf : ∀ (k : Core) w, f { k with wc := w } = f k) :
    f (cmsgSend u m x t off).cur = f { s.cur with
      tags := s.cur.tags.set g (.busy false)
      copyq := s.cur.copyq ++ [g]
      credits := setAt s.cur.credits x.toNat (s.cur.credits.getD x.toNat 0 - 1) } := by
  have hcur := u.startCmd_cur (m := { m with diff := m.diff || diffFoot u.pre [(.spad off, 64)] }) hg
  refine ((State.send_sent _ _ _ _ _ _).cur_keeps f hf).trans (congrArg f ?_)
  rw [State.cur_upd]
  unfold State.startOn
  rw [hcur, hu.cur]

end

section
variable {s s1 s2 : State} {g : Fin 64} {a b : SSpec} {x y : Word} {t : Fin 256} {off : Nat} (hx : readS s a 0 = .ok x s1)
  (hy : readS s1 b 1 = .ok y s2) (hready : TagReady s g) (hay : engAddrOk s.pre.level y = true) (hoff : engAddrOf y = .spad off)
  (ht : launchCore s s.pre.launch x.toNat = some t) (hal : off % 64 = 0) (hfoot : footprintBad s.pre [(.spad off, 64)] = none)
  (hdiff : firstDiff s.pre [(.spad off, 64)] = none) (hhold : spadHold s2 off 64 = none)
  (hline : s2.cur.failedLine off 64 = none)
include hx hy hready hay hoff ht hal hfoot hdiff hhold hline

theorem cmsg_checked : exec (.cmsg g a b) s = finish s (
    if s2.cur.credits.getD x.toNat 0 = 0 then
      if creditComing s2 s2.issue.core x.toNat then .hold .credit else raise s2 .msgqFull 0
    else .ok () (cmsgSend s2 (cmsgCmd s2 g a b x y off) x t off)) := by
  have hu : OnlyFree s s2 := readsTwo_only hx hy
  have hi := exec_readS2 (i := .cmsg g a b) hx hy rfl
  rw [needTag_ready hu hready, needAddr_ok hu hay, hoff] at hi
  dsimp only at hi
  rw [hu.pre, launchCore_of_free hu, ht] at hi
  dsimp only at hi
  rw [need_of (decide_eq_true hal), needFootprint_ok hu hfoot, needNoDiff_ok hu hdiff, orHold_of hhold, soundSpad_ok hline] at hi
  exact hi

theorem cmsg_holds (h0 : s.cur.credits.getD x.toNat 0 = 0) (hc : creditComing s s.issue.core x.toNat = true) :
    Holds (.cmsg g a b) s .credit := by
  have hu : OnlyFree s s2 := readsTwo_only hx hy
  refine holds_of_hold (cmsg_checked hx hy hready hay hoff ht hal hfoot hdiff hhold hline) ?_
  rw [hu.cur, if_pos h0, creditComing_free hu]
  exact if_pos hc

theorem cmsg_full (h0 : s.cur.credits.getD x.toNat 0 = 0) (hc : creditComing s s.issue.core x.toNat = false) :
    Raises (.cmsg g a b) s (slotTrap s .msgqFull 0) := by
  have hu : OnlyFree s s2 := readsTwo_only hx hy
  refine raises_of_trap (cmsg_checked hx hy hready hay hoff ht hal hfoot hdiff hhold hline) ?_
  rw [hu.cur, if_pos h0, creditComing_free hu, ← slotTrap_of_issue hu.issue]
  exact if_neg (by rw [hc]; exact Bool.false_ne_true)

theorem cmsg_starts (h0 : s.cur.credits.getD x.toNat 0 ≠ 0) : Starts (.cmsg g a b) s (some g) x y 0 fun m u =>
    u.cur.credits = setAt s.cur.credits x.toNat (s.cur.credits.getD x.toNat 0 - 1) ∧
    Sends s u (.msg t (s.cur.spad.readBytes off 64) m.id) 0 fun o => o.due = s.cycle + msgLatency s.issue.core t := by
  have hu : OnlyFree s s2 := readsTwo_only hx hy
  have hi := cmsg_checked hx hy hready hay hoff ht hal hfoot hdiff hhold hline
  rw [hu.cur, if_neg h0] at hi
  refine starts_of_state (runs_of_ok hi rfl) (cmsgSend_memory hu) (cmsgSend_cmds hu) ?_ ?_ rfl rfl
    (newCmd_carries hu (.cmsg g a b) (some g) x y 0) ⟨cmsgSend_cur hu rfl Core.credits fun _ _ => rfl, ?_⟩
  · rw [cmsgSend_cur hu rfl Core.tags fun _ _ => rfl]
    exact Vector.getElem_set_self _
  · exact cmsgSend_cur hu rfl Core.copyq fun _ _ => rfl
  · have hsends := cmsgSend_sends (m := cmsgCmd s2 g a b x y off) (x := x) (t := t) (off := off) hu
    rw [show (cmsgCmd s2 g a b x y off).bytes = s.cur.spad.readBytes off 64 from congrArg (fun k : Core => k.spad.readBytes off 64) hu.cur]
      at hsends
    exact hsends

end

/-! ### Memory-side atomics, host signals, near-bank commands -/

section
variable {s s1 s2 s3 : State} {g : Fin 64} {a b : SSpec} {c : SOpnd} {w : WReg} {x y z : Word} (hx : readS s a 0 = .ok x s1)
  (hy : readS s1 b 1 = .ok y s2)
include hx hy

theorem msat_starts (hz : readSO s2 c 2 = .ok z s3) (hready : TagReady s g) (hax : engAddrOk s.pre.level x = true)
    (hay : engAddrOk s.pre.level y = true) (hxs : (engAddrOf x).isSpad = false) (hys : (engAddrOf y).isSpad = true)
    (hok : msOk z = true) (hxa : (engAddrOf x).num % atomWidth (msW32 z) = 0) (hya : (engAddrOf y).num % atomWidth (msW32 z) = 0)
    (hfoot : footprintBad s.pre [(engAddrOf y, atomWidth (msW32 z) * msN z)] = none)
    (hdiff : firstDiff s.pre [(engAddrOf x, atomWidth (msW32 z) * msN z)] = none) :
    Starts (.msat g a b c) s (some g) x y z fun _ t => OnlyTags s t := by
  have hu := reads_only hx hy hz
  refine startOn_starts hu (exec_readS3 (i := .msat g a b c) hx hy hz rfl) ?_
    (rs := [(engAddrOf x, atomWidth (msW32 z) * msN z), (engAddrOf y, atomWidth (msW32 z) * msN z)])
  rw [needTag_ready hu hready, needAddr_ok hu hax, needAddr_ok hu hay, hxs, hys]
  refine (need_of rfl).trans ((need_of rfl).trans ((need_of hok).trans ((need_of (decide_eq_true hxa)).trans
    ((need_of (decide_eq_true hya)).trans ?_))))
  rw [needFootprint_ok hu hfoot, needNoDiff_ok hu hdiff]

theorem hsig_starts (hz : readSO s2 c 2 = .ok z s3) (haz : engAddrOk s.pre.level z = true) (h8 : (engAddrOf z).num % 8 = 0)
    (hfoot : z ≠ 0 → footprintBad s.pre [(engAddrOf z, 8)] = none) :
    Starts (.hsig a b c) s none x y z fun m t => m.after = pendingWrites s s.issue.core ∧ t.cores = s.cores ∧
      m.diff = diffFoot s.pre (if z = 0 then [] else [(engAddrOf z, 8)]) := by
  have hu := reads_only hx hy hz
  have hi := exec_readS3 (i := .hsig a b c) hx hy hz rfl
  have hfoot' : footprintBad s.pre (if z = 0 then [] else [(engAddrOf z, 8)]) = none := by
    split
    · rfl
    · exact hfoot ‹_›
  rw [needAddr_ok hu haz, need_of (decide_eq_true h8), needFootprint_ok hu hfoot'] at hi
  have hpend : pendingWrites s3 s3.issue.core = pendingWrites s s.issue.core := by
    unfold pendingWrites
    rw [hu.memq, hu.issue]
  refine ⟨_, hi, hu.memory.trans (State.startCmd_memory s3 _), _, (State.startCmd_cmds s3 _).trans (congrArg (· ++ [_]) hu.cmds),
    rfl, rfl, congrArg Issue.core hu.issue, congrArg Core.level hu.pre, rfl, rfl, rfl, rfl,
    ⟨hpend, (State.startCmd_untagged s3 rfl).trans hu.cores, ?_⟩, fun n hn => nomatch hn⟩
  exact congrArg (fun k => diffFoot k (if z = 0 then [] else [(engAddrOf z, 8)])) hu.pre

theorem nbld_starts (hready : TagReady s g) (h3 : x.toNat ≤ 3) (hay : engAddrOk s.pre.level y = true)
    (h64 : (engAddrOf y).num % 64 = 0) (hfoot : footprintBad s.pre [(engAddrOf y, 128)] = none) :
    Starts (.nbld g a b) s (some g) x y 0 fun _ t => OnlyTags s t := by
  have hu : OnlyFree s s2 := readsTwo_only hx hy
  refine startOn_starts hu (exec_readS2 (i := .nbld g a b) hx hy rfl) ?_ (rs := [(engAddrOf y, 128)])
  rw [needTag_ready hu hready]
  refine (need_of (decide_eq_true h3)).trans ?_
  rw [needAddr_ok hu hay]
  refine (need_of (decide_eq_true h64)).trans ?_
  rw [needFootprint_ok hu hfoot]

theorem nbq_checked (h3 : x.toNat ≤ 3) (h8 : y.toNat % 8 = 0) : exec (.nbq w a b) s = finish s (
    match memTarget s2 .read y 8 with
    | .error c => raise s2 c y
    | .ok t => .ok () ((s2.noteAccess s2.issue.core t y.toNat).result
        (BitVec.ofNat 64 (SMap.get 0 (s2.partRt s2.pre.part).nbCounts (4 * chanOf (heldAt s2 t) + x.toNat % 4))) 600 w)) := by
  have hi := exec_readS2 (i := .nbq w a b) hx hy rfl
  rw [need_of (decide_eq_true h3), need_of (decide_eq_true h8)] at hi
  exact hi

theorem nbq_runs (h3 : x.toNat ≤ 3) (h8 : y.toNat % 8 = 0) {m : Target} (hm : memTarget s2 .read y 8 = .ok m) :
    Runs (.nbq w a b) s ((s2.noteAccess s.issue.core m y.toNat).result
      (BitVec.ofNat 64 (SMap.get 0 (s.partRt s.pre.part).nbCounts (4 * chanOf (heldAt s2 m) + x.toNat))) 600 w) := by
  have hu : OnlyFree s s2 := readsTwo_only hx hy
  have hi := nbq_checked (w := w) hx hy h3 h8
  have hrt : s2.partRt s2.pre.part = s.partRt s.pre.part := by
    rw [hu.pre]
    unfold State.partRt
    rw [show s2.rt = s.rt from (congrArg State.rt hu :)]
  rw [hm, hrt, hu.issue, Nat.mod_eq_of_lt (by omega)] at hi
  exact runs_of_ok hi rfl

theorem nbq_raises (h3 : x.toNat ≤ 3) (h8 : y.toNat % 8 = 0) {d : Cause} (hm : memTarget s2 .read y 8 = .error d) :
    Raises (.nbq w a b) s (slotTrap s d y) := by
  have hu : OnlyFree s s2 := readsTwo_only hx hy
  have hi := nbq_checked (w := w) hx hy h3 h8
  rw [hm] at hi
  rw [← slotTrap_of_issue hu.issue]
  exact raises_of_trap hi rfl

end

theorem nbx_starts {s s1 sz : State} {g : Fin 64} {a : SSpec} {c : SOpnd} {x z : Word} (hx : readS s a 0 = .ok x s1)
    (hz : readSO s1 c 2 = .ok z sz) (hready : TagReady s g) (hlim : x.toNat + 64 ≤ s.pre.spillLimit) (ha : x.toNat % 64 = 0)
    (hf : s.pre.failedWord .spill x.toNat 64 = none) (hzr : bitsOf z.toNat 25 39 = 0)
    (hok : runDescOk (s.pre.spill.readBytes x.toNat 64) = true) (hst : rdStatus (s.pre.spill.readBytes x.toNat 64) % 64 = 0) :
    Starts (.nbx g a c) s (some g) x 0 z fun m t => m.block = s.pre.spill.readBytes x.toNat 64 ∧ OnlyTags s t := by
  have hu : OnlyFree s sz := OnlyFree.trans (readS_only hx) (readSO_only hz)
  have hi := exec_readS_readSO (i := .nbx g a c) hx hz rfl
  rw [needTag_ready hu hready, needBlock_ok hu hlim ha hf, need_of (decide_eq_true hzr), need_of hok,
    need_of (decide_eq_true hst)] at hi
  have hent := startCmd_entered (g := g)
    (m := { newCmd sz (.nbx g a c) (some g) x 0 z with block := s.pre.spill.readBytes x.toNat 64 }) hu rfl
  exact hent.startsAs (runs_of_ok hi rfl) rfl rfl rfl (newCmd_carries hu (.nbx g a c) (some g) x 0 z) ⟨rfl, hent.2.2.2.1⟩

/-- Settles O35, command by command. -/
theorem messageAtomicAndNearBankCommandsStart : Obligations.MessageAtomicAndNearBankCommandsStart := by
  unfold Obligations.MessageAtomicAndNearBankCommandsStart
  intro s s1 s2 s3 g a b c w x y z hx hy hz
  refine ⟨fun tgt off hready hay hoff ht hal hfoot hdiff hhold hline =>
      ⟨cmsg_starts hx hy hready hay hoff ht hal hfoot hdiff hhold hline,
        cmsg_holds hx hy hready hay hoff ht hal hfoot hdiff hhold hline,
        cmsg_full hx hy hready hay hoff ht hal hfoot hdiff hhold hline⟩,
    msat_starts hx hy hz, hsig_starts hx hy hz, nbld_starts hx hy, fun sz blk hz' hready hlim ha hf hblk hzr hok hst => ?_,
    fun p m h3 h8 hm _ => nbq_runs hx hy h3 h8 hm, fun _ => rfl, fun d h3 h8 hm => nbq_raises hx hy h3 h8 hm⟩
  subst hblk
  exact nbx_starts hx hz' hready hlim ha hf hzr hok hst

end Sys2Proof.Machine
end

section
/-! The fabric commands at issue (R40, R382-R386). -/

namespace Sys2Proof.Machine

theorem selfMod_free {s u : State} (hu : OnlyFree s u) : selfMod u = selfMod s := by
  unfold selfMod
  rw [show u.fabric = s.fabric from (congrArg State.fabric hu :)]

theorem memberOf_free {s u : State} (hu : OnlyFree s u) (l : Option Nat) (p r : Nat) : memberOf u l p r = memberOf s l p r := by
  unfold memberOf State.launchById
  rw [selfMod_free hu, show u.launches = s.launches from (congrArg State.launches hu :)]

/-- What the start of a fabric command leaves in the counts of its core. -/
def Core.counted (k : Core) (now dst n : Nat) : Core :=
  { k with
    fabSince := if SMap.get 0 k.fabOut dst = 0 then SMap.set 0 k.fabSince dst now else k.fabSince
    fabOut := SMap.set 0 k.fabOut dst (SMap.get 0 k.fabOut dst + n) }

/-- The destination of a command. -/
def fabDst (s : State) (m : EngCmd) : Nat := (memberOf s m.launch m.part (fabRank m)).1

theorem startFabric_eq (s : State) (m : EngCmd) (rs : List EngRange) : startFabric s m rs =
    .ok () (if fabDst s m = selfMod (s.startOn { m with pkts := fabPackets m } rs) then s.startOn { m with pkts := fabPackets m } rs
      else (s.startOn { m with pkts := fabPackets m } rs).upd fun k =>
        k.counted (s.activeOf m.launch) (fabDst s m) (fabPackets m)) := rfl

theorem State.startCmd_fabric (s : State) (m : EngCmd) : (s.startCmd m).fabric = s.fabric := by
  unfold State.startCmd
  dsimp only
  split <;> rfl

/-- The start of a packet command: it enters with its packets, which count for their destination. -/
theorem startFabric_starts {s u : State} {i : Instr} {g : Fin 64} {x y z : Word} {rs : List EngRange} (hu : OnlyFree s u)
    (hi : exec i s = finish s (startFabric u (newCmd u i (some g) x y z) rs)) :
    StartsFabric i s g x y z (bitsOf z.toNat 0 11) := by
  have hent := startCmd_entered (g := g) (m := { newCmd u i (some g) x y z with
    pkts := fabPackets (newCmd u i (some g) x y z)
    diff := (newCmd u i (some g) x y z).diff || diffFoot u.pre rs }) hu rfl
  have hcur := u.startCmd_cur (g := g) (m := { newCmd u i (some g) x y z with
    pkts := fabPackets (newCmd u i (some g) x y z)
    diff := (newCmd u i (some g) x y z).diff || diffFoot u.pre rs }) rfl
  have hself : selfMod (u.startOn { newCmd u i (some g) x y z with pkts := fabPackets (newCmd u i (some g) x y z) } rs) = selfMod s := by
    rw [← selfMod_free hu]
    exact congrArg (fun f : Fabric => f.fabId.toNat % 2048) (State.startCmd_fabric _ _)
  have hdst : fabDst u (newCmd u i (some g) x y z) = (memberOf s s.cur.launch s.cur.part (bitsOf z.toNat 0 11)).1 := by
    rw [← memberOf_free hu, ← hu.cur]
    rfl
  rw [startFabric_eq, hself, hdst] at hi
  generalize hd : (memberOf s s.cur.launch s.cur.part (bitsOf z.toNat 0 11)).1 = dst at hi
  unfold StartsFabric
  obtain ⟨hmem, hcmds, -, -, htag, hq⟩ := hent
  split at hi
  case isTrue hs =>
    refine starts_of_state (runs_of_ok hi rfl) hmem hcmds htag hq rfl rfl (newCmd_carries hu i (some g) x y z) ⟨rfl, ?_⟩
    dsimp only
    rw [hd, if_pos hs]
    exact (congrArg Core.fabOut hcur).trans (congrArg Core.fabOut hu.cur :)
  case isFalse hs =>
    refine starts_of_state (runs_of_ok hi rfl) (hmem.trans (SameMemory.of_eq rfl rfl)) hcmds ?_ ?_ rfl rfl
      (newCmd_carries hu i (some g) x y z) ⟨rfl, ?_⟩
    · rw [State.cur_upd]
      exact htag
    · rw [State.cur_upd]
      exact hq
    · dsimp only
      rw [hd, if_neg hs, State.cur_upd]
      refine (congrArg (fun k : Core => (k.counted _ dst _).fabOut) hcur).trans ?_
      rw [hu.cur]
      rfl

theorem bitsOf_high {n k : Nat} (w : Nat) (h : n < 2 ^ k) : bitsOf n k w = 0 := by
  unfold bitsOf
  rw [Nat.div_eq_of_lt h, Nat.zero_mod]

section
variable {s s1 s2 s3 : State} {g : Fin 64} {a b : SSpec} {c : SOpnd} {x y z : Word} (hx : readS s a 0 = .ok x s1)
  (hy : readS s1 b 1 = .ok y s2) (hz : readSO s2 c 2 = .ok z s3) (hready : TagReady s g)
include hx hy hz hready

/-- FWR once its tag is free and its operands are in form. -/
theorem fwr_checked (hxr : x.toNat < 2 ^ 48) (hay : engAddrOk s.pre.level y = true) (hlen : fabLines z ≠ 0)
    (hzr : bitsOf z.toNat 32 32 = 0) : exec (.fwr g a b c) s = finish s (
      needRank s3 (bitsOf z.toNat 0 11) <|
      need s3 (x.toNat % 64 = 0) .misaligned x <|
      need s3 ((engAddrOf y).num % 64 = 0) .misaligned (engAddrOf y).info <|
      needFootprint s3 [(engAddrOf y, 64 * fabLines z)] <|
      needNoDiff s3 [(engAddrOf y, 64 * fabLines z)] .diffRemote <|
      startFabric s3 (newCmd s3 (.fwr g a b c) (some g) x y z) [(engAddrOf y, 64 * fabLines z)]) := by
  have hu := reads_only hx hy hz
  have hi := exec_readS3 (i := .fwr g a b c) hx hy hz rfl
  rw [needTag_ready hu hready, need_of (decide_eq_true (bitsOf_high 16 hxr)), needAddr_ok hu hay,
    need_of (by simp [hlen, hzr])] at hi
  exact hi

theorem fwr_rank (hxr : x.toNat < 2 ^ 48) (hay : engAddrOk s.pre.level y = true) (hlen : fabLines z ≠ 0)
    (hzr : bitsOf z.toNat 32 32 = 0) (hr : s.pre.gsize.toNat ≤ bitsOf z.toNat 0 11) :
    Raises (.fwr g a b c) s (slotTrap s .rankRange 0) := by
  have hu := reads_only hx hy hz
  have hi := fwr_checked hx hy hz hready hxr hay hlen hzr
  unfold needRank at hi
  rw [hu.pre, need_of_not (decide_eq_false (Nat.not_lt.2 hr)), slotTrap_of_issue hu.issue] at hi
  exact raises_of_trap hi rfl

theorem fwr_starts (hxr : x.toNat < 2 ^ 48) (hay : engAddrOk s.pre.level y = true) (hlen : fabLines z ≠ 0)
    (hzr : bitsOf z.toNat 32 32 = 0) (hr : bitsOf z.toNat 0 11 < s.pre.gsize.toNat) (hxa : x.toNat % 64 = 0)
    (hya : (engAddrOf y).num % 64 = 0) (hfoot : footprintBad s.pre [(engAddrOf y, 64 * fabLines z)] = none)
    (hdiff : firstDiff s.pre [(engAddrOf y, 64 * fabLines z)] = none) :
    StartsFabric (.fwr g a b c) s g x y z (bitsOf z.toNat 0 11) := by
  have hu := reads_only hx hy hz
  have hi := fwr_checked hx hy hz hready hxr hay hlen hzr
  unfold needRank at hi
  rw [hu.pre, need_of (decide_eq_true hr), need_of (decide_eq_true hxa), need_of (decide_eq_true hya), needFootprint_ok hu hfoot,
    needNoDiff_ok hu hdiff] at hi
  exact startFabric_starts hu hi

theorem famo_starts (hr : bitsOf z.toNat 0 11 < s.pre.gsize.toNat) (hxr : x.toNat < 2 ^ 48) (hform : famoOk z = true)
    (hxa : x.toNat % atomWidth (z.getLsbD 16) = 0) : StartsFabric (.famo g a b c) s g x y z (bitsOf z.toNat 0 11) := by
  have hu := reads_only hx hy hz
  have hi := exec_readS3 (i := .famo g a b c) hx hy hz rfl
  unfold needRank at hi
  rw [needTag_ready hu hready, need_of (decide_eq_true (bitsOf_high 16 hxr)), need_of hform, hu.pre, need_of (decide_eq_true hr),
    need_of (decide_eq_true hxa)] at hi
  exact startFabric_starts hu hi

theorem freq_starts (hr : bitsOf z.toNat 0 11 < s.pre.gsize.toNat) (hxr : x.toNat < 16) (hzr : bitsOf z.toNat 11 53 = 0)
    (hay : engAddrOk s.pre.level y = true) (hya : (engAddrOf y).num % 64 = 0)
    (hfoot : footprintBad s.pre [(engAddrOf y, 64)] = none) (hdiff : firstDiff s.pre [(engAddrOf y, 64)] = none) :
    StartsFabric (.freq g a b c) s g x y z (bitsOf z.toNat 0 11) := by
  have hu := reads_only hx hy hz
  have hi := exec_readS3 (i := .freq g a b c) hx hy hz rfl
  unfold needRank at hi
  rw [needTag_ready hu hready, need_of (decide_eq_true (bitsOf_high (k := 4) 60 hxr)), needAddr_ok hu hay,
    need_of (decide_eq_true hzr), hu.pre, need_of (decide_eq_true hr), need_of (decide_eq_true hya), needFootprint_ok hu hfoot,
    needNoDiff_ok hu hdiff] at hi
  exact startFabric_starts hu hi

end

theorem flnch_starts {s s1 s2 : State} {g : Fin 64} {a : SSpec} {c : SOpnd} {x z : Word} (hx : readS s a 0 = .ok x s1)
    (hz : readSO s1 c 2 = .ok z s2) (hready : TagReady s g) (hr : bitsOf z.toNat 0 11 < s.pre.gsize.toNat)
    (hzr : bitsOf z.toNat 11 53 = 0) (hax : engAddrOk s.pre.level x = true) (hxa : (engAddrOf x).num % 64 = 0)
    (hfoot : footprintBad s.pre [(engAddrOf x, 64)] = none) (hdiff : firstDiff s.pre [(engAddrOf x, 64)] = none) :
    StartsFabric (.flnch g a c) s g x 0 z (bitsOf z.toNat 0 11) := by
  have hu : OnlyFree s s2 := OnlyFree.trans (readS_only hx) (readSO_only hz)
  have hi := exec_readS_readSO (i := .flnch g a c) hx hz rfl
  unfold needRank at hi
  rw [needTag_ready hu hready, needAddr_ok hu hax, need_of (decide_eq_true hzr), hu.pre, need_of (decide_eq_true hr),
    need_of (decide_eq_true hxa), needFootprint_ok hu hfoot, needNoDiff_ok hu hdiff] at hi
  exact startFabric_starts hu hi

/-- Settles O36, command by command. -/
theorem packetCommandsStart : Obligations.PacketCommandsStart := by
  unfold Obligations.PacketCommandsStart
  intro s s1 s2 s3 sz g a b c x y z hx hy hz hsz hready
  refine ⟨fun hxr hay hlen hzr => ⟨fwr_rank hx hy hz hready hxr hay hlen hzr, fun hr => fwr_starts hx hy hz hready hxr hay hlen hzr hr⟩,
    fun hr => ⟨famo_starts hx hy hz hready hr, freq_starts hx hy hz hready hr, flnch_starts hx hsz hready hr⟩⟩

end Sys2Proof.Machine
end

section
/-! The collective instructions (R118, R125, R387-R391). -/

namespace Sys2Proof.Machine

/-! ### The tile table -/

/-- Nothing but the partitions' running state differs. -/
def OnlyRt (s t : State) : Prop := ({ t with rt := s.rt } : State) = s

theorem OnlyRt.trans {s t u : State} (h : OnlyRt s t) (h' : OnlyRt t u) : OnlyRt s u := by
  have h2 := congrArg (fun v : State => { v with rt := s.rt }) h'
  exact h2.trans h

/-- What differs in the running state alone, and free values drawn before it. -/
theorem OnlyRt.after {s t u : State} (h : OnlyFree s t) (h' : OnlyRt t u) : SameMemory s u ∧ OnlyCores s { u with rt := s.rt } := by
  refine ⟨h.memory.trans (SameMemory.of_eq (congrArg State.mem h' :) (congrArg State.l2 h' :)), ?_⟩
  have h2 := congrArg (fun v : State => ({ v with cores := s.cores, free := s.free, rt := s.rt } : State)) h'
  have h3 := congrArg (fun v : State => ({ v with rt := s.rt } : State)) h.onlyCores
  exact h2.trans h3

section
variable (s : State) (p : Nat)

theorem State.setRt_only (f : PartRt → PartRt) : OnlyRt s (s.setRt p f) := by
  unfold State.setRt
  split <;> rfl

theorem State.partRt_setRt {p : Nat} (h : p < 17) (f : PartRt → PartRt) : (s.setRt p f).partRt p = f (s.partRt p) := by
  unfold State.partRt State.setRt
  simp only [h, ↓reduceDIte, Vector.getElem_set_self]

theorem State.tileEntry_setEntry {p : Nat} (h : p < 17) (e : TileEntry) : (s.setEntry p e).tileEntry p e.idx = some e := by
  unfold State.tileEntry State.setEntry
  rw [s.partRt_setRt h]
  exact List.find?_cons_of_pos (decide_eq_true rfl)

theorem State.setRt_tileEntry {p : Nat} (h : p < 17) (f : PartRt → PartRt) (hf : ∀ r, (f r).tiles = r.tiles) (i : Nat) :
    (s.setRt p f).tileEntry p i = s.tileEntry p i := by
  unfold State.tileEntry
  rw [s.partRt_setRt h, hf]

theorem State.atSequencer_tileEntry {p : Nat} (h : p < 17) (port : Fin 21) (i : Nat) :
    (s.atSequencer p port).tileEntry p i = s.tileEntry p i := by
  unfold State.atSequencer
  apply State.setRt_tileEntry s h
  intro r
  rfl

theorem State.atSequencer_only (port : Fin 21) : OnlyRt s (s.atSequencer p port) := s.setRt_only p _
theorem State.setEntry_only (e : TileEntry) : OnlyRt s (s.setEntry p e) := s.setRt_only p _

end

theorem State.tileEntry_idx {s : State} {p i : Nat} {e : TileEntry} (h : s.tileEntry p i = some e) : e.idx = i := by
  have hfound := List.find?_some h
  simpa using hfound

section
variable {s u : State} (hu : OnlyFree s u)
include hu

theorem partRt_free (p : Nat) : u.partRt p = s.partRt p := by
  unfold State.partRt
  rw [show u.rt = s.rt from (congrArg State.rt hu :)]

theorem tileEntry_free (p i : Nat) : u.tileEntry p i = s.tileEntry p i := by
  unfold State.tileEntry
  rw [partRt_free hu]

theorem activeOf_free (l : Option Nat) : u.activeOf l = s.activeOf l := by
  unfold State.activeOf State.launchById
  rw [show u.launches = s.launches from (congrArg State.launches hu :), hu.cycle]

theorem seqReach_free (p m : Nat) : seqReach u p m = seqReach s p m := by
  unfold seqReach selfMod routePort routeEntry
  rw [show u.fabric = s.fabric from (congrArg State.fabric hu :), show u.parts = s.parts from (congrArg State.parts hu :)]

/-- A partition with a sequencer has a table. -/
theorem needTable_ok {α : Type} {a : Word} {k : SlotRes α} (h : s.pre.part < 17) (hs : s.parts[s.pre.part].seqs ≠ 0)
    (ha : a.toNat < 256) : needTable u a k = k := by
  unfold needTable
  rw [hu.pre, show u.parts = s.parts from (congrArg State.parts hu :)]
  simp only [h, ↓reduceDIte]
  exact need_of (Bool.and_eq_true_iff.2 ⟨decide_eq_true hs, decide_eq_true ha⟩)

end

/-! ### The instructions on an entry -/

theorem exec_readS1 {i : Instr} {s s1 : State} {a : SSpec} {x : Word} {k : Word → State → SlotRes Unit}
    (hx : readS s a 0 = .ok x s1) (hi : exec i s = finish s ((readS s a 0).bind k)) : exec i s = finish s (k x s1) := by
  rw [hi, hx, SlotRes.bind_ok]

section
variable {s s1 : State} {a : SSpec} {x : Word} (hx : readS s a 0 = .ok x s1) (h : s.pre.part < 17)
  (hs : s.parts[s.pre.part].seqs ≠ 0) (ha : x.toNat < 256)
include hx h hs ha

theorem rstat_runs (w : WReg) : Runs (.rstat w a) s (s1.result (rstatWord (s.tileEntry s.pre.part x.toNat)) 64 w) := by
  have hu : OnlyFree s s1 := readS_only hx
  have hi := exec_readS1 (i := .rstat w a) hx rfl
  rw [needTable_ok hu h hs ha, hu.pre] at hi
  rw [tileEntry_free hu] at hi
  exact runs_of_ok hi rfl

/-- An entry that TRDY sets going for the core being issued. -/
def TileEntry.firedBy (e : TileEntry) (s : State) (after : List Nat) : TileEntry :=
  { e with
    fired := true
    state := max e.state 1
    start := s.activeOf s.pre.launch
    launch := s.pre.launch
    core := s.issue.core
    hdr := s.pre.hdr
    after := after
    rc := s.pre.rc }

/-- TRDY once the table is there. -/
theorem trdy_exec : exec (.trdy a) s = finish s (match s.tileEntry s.pre.part x.toNat with
    | none => raise s1 .collEntry 0
    | some e => need s1 (!e.fired) .collEntry 0 (.ok () (((s1.setEntry s.pre.part
        (e.firedBy s (pendingWrites s1 s.issue.core))).atSequencer s.pre.part 20).collRun s.pre.part x.toNat))) := by
  have hu : OnlyFree s s1 := readS_only hx
  have hi := exec_readS1 (i := .trdy a) hx rfl
  rw [needTable_ok hu h hs ha, hu.pre] at hi
  dsimp only at hi
  rw [tileEntry_free hu, activeOf_free hu, hu.issue] at hi
  exact hi

/-- RCUT once the table is there. -/
theorem rcut_exec : exec (.rcut a) s = finish s (match s.tileEntry s.pre.part x.toNat with
    | none => raise s1 .collEntry 0
    | some e => need s1 e.running .collEntry 0 (.ok () (if e.op = opReduce ∧ e.sched = 1 ∧ e.deadline ≠ 0 then
        (if e.sent then s1 else s1.cutSlots s.pre.part e) else s1.collFail s.pre.part x.toNat rsAborted 0))) := by
  have hu : OnlyFree s s1 := readS_only hx
  have hi := exec_readS1 (i := .rcut a) hx rfl
  rw [needTable_ok hu h hs ha, hu.pre] at hi
  dsimp only at hi
  rw [tileEntry_free hu] at hi
  exact hi

/-- RPICK once the table is there. -/
theorem rpick_exec : exec (.rpick a) s = finish s (match s.tileEntry s.pre.part x.toNat with
    | none => raise s1 .collEntry 0
    | some e => need s1 (e.state = 2 || e.state = 3) .collEntry 0 (.ok () (((s1.setEntry s.pre.part
        { e with rpicks := e.rpicks + 1 }).atSequencer s.pre.part 20).collRun s.pre.part x.toNat))) := by
  have hu : OnlyFree s s1 := readS_only hx
  have hi := exec_readS1 (i := .rpick a) hx rfl
  rw [needTable_ok hu h hs ha, hu.pre] at hi
  dsimp only at hi
  rw [tileEntry_free hu] at hi
  exact hi

theorem coll_absent (he : s.tileEntry s.pre.part x.toNat = none) : Raises (.trdy a) s (slotTrap s .collEntry 0) ∧
    Raises (.rcut a) s (slotTrap s .collEntry 0) ∧ Raises (.rpick a) s (slotTrap s .collEntry 0) := by
  have hu : OnlyFree s s1 := readS_only hx
  have h1 := trdy_exec hx h hs ha
  have h2 := rcut_exec hx h hs ha
  have h3 := rpick_exec hx h hs ha
  rw [he] at h1 h2 h3
  rw [← slotTrap_of_issue hu.issue]
  exact ⟨raises_of_trap h1 rfl, raises_of_trap h2 rfl, raises_of_trap h3 rfl⟩

variable {e : TileEntry} (he : s.tileEntry s.pre.part x.toNat = some e)
include he

theorem trdy_raises (hf : e.fired = true) : Raises (.trdy a) s (slotTrap s .collEntry 0) := by
  have hu : OnlyFree s s1 := readS_only hx
  have hi := trdy_exec hx h hs ha
  rw [he] at hi
  dsimp only at hi
  rw [need_of_not (by rw [hf]; rfl), slotTrap_of_issue hu.issue] at hi
  exact raises_of_trap hi rfl

theorem trdy_fires (hf : e.fired = false) : ∃ u e', Runs (.trdy a) s (u.collRun s.pre.part x.toNat) ∧ SameMemory s u ∧
    OnlyCores s { u with rt := s.rt } ∧ u.tileEntry s.pre.part x.toNat = some e' ∧ e'.fired = true ∧
    e'.state = max e.state 1 ∧ e'.seq = e.seq ∧ e'.desc = e.desc ∧ e'.start = s.activeOf s.pre.launch ∧
    e'.core = s.issue.core := by
  have hu : OnlyFree s s1 := readS_only hx
  have hi := trdy_exec hx h hs ha
  rw [he] at hi
  dsimp only at hi
  rw [need_of (by rw [hf]; rfl)] at hi
  have hidx := State.tileEntry_idx he
  obtain ⟨hmem, hcores⟩ := OnlyRt.after hu ((s1.setEntry_only s.pre.part
    (e.firedBy s (pendingWrites s1 s.issue.core))).trans
    (State.atSequencer_only _ s.pre.part 20))
  refine ⟨_, e.firedBy s (pendingWrites s1 s.issue.core), runs_of_ok hi rfl, hmem, hcores, ?_, rfl, rfl, rfl, rfl, rfl, rfl⟩
  rw [State.atSequencer_tileEntry _ h, ← hidx]
  exact State.tileEntry_setEntry s1 h (e.firedBy s (pendingWrites s1 s.issue.core))

theorem rcut_runs (hr : e.running = true) : Runs (.rcut a) s (if e.op = opReduce ∧ e.sched = 1 ∧ e.deadline ≠ 0 then
    (if e.sent then s1 else s1.cutSlots s.pre.part e) else s1.collFail s.pre.part x.toNat rsAborted 0) := by
  have hi := rcut_exec hx h hs ha
  rw [he] at hi
  dsimp only at hi
  rw [need_of hr] at hi
  exact runs_of_ok hi rfl

theorem rcut_raises (hr : e.running = false) : Raises (.rcut a) s (slotTrap s .collEntry 0) := by
  have hu : OnlyFree s s1 := readS_only hx
  have hi := rcut_exec hx h hs ha
  rw [he] at hi
  dsimp only at hi
  rw [need_of_not hr, slotTrap_of_issue hu.issue] at hi
  exact raises_of_trap hi rfl

theorem rpick_asks (hst : e.state = 2 ∨ e.state = 3) : ∃ u, Runs (.rpick a) s (u.collRun s.pre.part x.toNat) ∧
    SameMemory s u ∧ u.tileEntry s.pre.part x.toNat = some { e with rpicks := e.rpicks + 1 } := by
  have hu : OnlyFree s s1 := readS_only hx
  have hi := rpick_exec hx h hs ha
  rw [he] at hi
  dsimp only at hi
  rw [need_of (by simpa using hst)] at hi
  have hidx := State.tileEntry_idx he
  refine ⟨_, runs_of_ok hi rfl, (OnlyRt.after hu ((s1.setEntry_only _ _).trans (State.atSequencer_only _ _ _))).1, ?_⟩
  rw [State.atSequencer_tileEntry _ h, ← hidx]
  exact State.tileEntry_setEntry s1 h { e with rpicks := e.rpicks + 1 }

theorem rpick_raises (h2 : e.state ≠ 2) (h3 : e.state ≠ 3) : Raises (.rpick a) s (slotTrap s .collEntry 0) := by
  have hu : OnlyFree s s1 := readS_only hx
  have hi := rpick_exec hx h hs ha
  rw [he] at hi
  dsimp only at hi
  rw [need_of_not (by simp [h2, h3]), slotTrap_of_issue hu.issue] at hi
  exact raises_of_trap hi rfl

end

/-! ### TTSET -/

/-- The members of a core's gang. -/
def gangMembers (s : State) (launch : Option Nat) (part : Nat) : List (Nat × Nat) :=
  match launch.bind s.launchById with
  | some l => if l.gsize ≤ 1 then [(selfMod s, part)] else l.members
  | none => [(selfMod s, part)]

theorem gangMembers_getD (s : State) (launch : Option Nat) (part r : Nat) :
    (gangMembers s launch part).getD r (selfMod s, part) = memberOf s launch part r := by
  have hself : [(selfMod s, part)].getD r (selfMod s, part) = (selfMod s, part) := by
    cases r <;> rfl
  unfold gangMembers memberOf
  cases launch.bind s.launchById with
  | none => exact hself
  | some l =>
    dsimp only
    split
    · exact hself
    · rfl

/-- The entry that a TTSET loads. -/
def ttsetEntry (s : State) (idx : Nat) (d : List Byte) : TileEntry :=
  { idx := idx, desc := d, seq := fieldLE d 4 4, dchk := crc32c (d.take 48), state := 0, reason := 0, drop := 0,
    fired := false, launch := s.pre.launch, part := s.pre.part, gang := s.pre.gang, rank := s.pre.rank.toNat,
    size := max s.pre.gsize.toNat 1, members := gangMembers s s.pre.launch s.pre.part, base := 0, present := 0, pending := 0,
    ckerr := 0, stale := 0, resc := List.replicate (fieldLE d 24 4) 0, start := 0, active := 0, ins := [], rough := [],
    cut := [], cuts := [], missing := none, done := 0, sent := false, passed := [], picks := [], folded := [], after := [],
    parked := none, waitAt := none, waitTill := 0, rc := Clk.zero, zeroed := false, report := false, rpicks := 0,
    core := s.issue.core, hdr := s.pre.hdr }

/-- The next number of an index, and what came early for it is taken up. -/
def ttsetNote (idx : Nat) (d : List Byte) (r : PartRt) : PartRt :=
  { r with
    lastSeq := SMap.set 0xFFFFFFFF r.lastSeq idx (fieldLE d 4 4)
    early := r.early.filter fun p => !(fieldLE (p.flits.headD []) 4 1 = idx && p.opnd.toNat = fieldLE d 4 4) }

/-- A TTSET whose descriptor is accepted. -/
def ttsetOk (s : State) (idx : Nat) (d : List Byte) : Bool :=
  fieldLE d 4 4 = (SMap.get 0xFFFFFFFF (s.partRt s.pre.part).lastSeq idx + 1) % 2 ^ 32 &&
    !(match s.tileEntry s.pre.part idx with
      | some e => decide (e.state < 2)
      | none => false) && descOk d &&
    (sendsTo (fieldLE d 0 1) (fieldLE d 1 1) s.pre.gsize.toNat s.pre.rank.toNat).all fun r =>
      seqReach s s.pre.part ((gangMembers s s.pre.launch s.pre.part).getD r (selfMod s, s.pre.part)).1

/-- The table with the new entry. -/
def ttsetLoad (s : State) (idx : Nat) (d : List Byte) : State :=
  (s.setEntry s.pre.part (ttsetEntry s idx d)).setRt s.pre.part (ttsetNote idx d)

theorem ttset_eq (s s1 s2 : State) (a b : SSpec) (x y : Word) (hx : readS s a 0 = .ok x s1) (hy : readS s1 b 1 = .ok y s2) :
    exec (.ttset a b) s = finish s (needBlock s2 y 64 fun d => needTable s2 x <|
      need s2 (ttsetOk s2 x.toNat d) .collEntry 0 <|
      .ok () ((((s2.partRt s2.pre.part).early.filter fun p =>
          fieldLE (p.flits.headD []) 4 1 = x.toNat && p.opnd.toNat = fieldLE d 4 4).foldl
        (fun s p => s.collArrive s2.pre.part p 20 id)
        (((ttsetLoad s2 x.toNat d).atSequencer s2.pre.part 20).collRun s2.pre.part x.toNat)))) :=
  exec_readS2 (i := .ttset a b) hx hy rfl

theorem ttsetOk_of {s u : State} (hu : OnlyFree s u) {idx : Nat} {d : List Byte}
    (hseq : fieldLE d 4 4 = (SMap.get 0xFFFFFFFF (s.partRt s.pre.part).lastSeq idx + 1) % 2 ^ 32)
    (hprior : ∀ e, s.tileEntry s.pre.part idx = some e → 2 ≤ e.state) (hd : descOk d = true)
    (hreach : ∀ r ∈ sendsTo (fieldLE d 0 1) (fieldLE d 1 1) s.pre.gsize.toNat s.pre.rank.toNat,
      seqReach s s.pre.part (memberOf s s.pre.launch s.pre.part r).1 = true) : ttsetOk u idx d = true := by
  have hall : ((sendsTo (fieldLE d 0 1) (fieldLE d 1 1) u.pre.gsize.toNat u.pre.rank.toNat).all fun r =>
      seqReach u u.pre.part ((gangMembers u u.pre.launch u.pre.part).getD r (selfMod u, u.pre.part)).1) = true := by
    rw [List.all_eq_true]
    intro r hr
    rw [hu.pre] at hr ⊢
    rw [gangMembers_getD, memberOf_free hu, seqReach_free hu]
    exact hreach r hr
  unfold ttsetOk
  rw [hall, hd, hu.pre, partRt_free hu, tileEntry_free hu, hseq]
  cases he : s.tileEntry s.pre.part idx with
  | none => simp
  | some e =>
    have h2 : ¬ e.state < 2 := Nat.not_lt.2 (hprior e he)
    simp [h2]

/-- What the loaded table holds. -/
theorem ttsetLoad_entry {s : State} (h : s.pre.part < 17) (idx : Nat) (d : List Byte) :
    OnlyRt s (ttsetLoad s idx d) ∧ (ttsetLoad s idx d).tileEntry s.pre.part idx = some (ttsetEntry s idx d) ∧
      ((ttsetLoad s idx d).partRt s.pre.part).lastSeq =
        SMap.set 0xFFFFFFFF (s.partRt s.pre.part).lastSeq idx (fieldLE d 4 4) := by
  unfold ttsetLoad
  refine ⟨(s.setEntry_only _ _).trans (State.setRt_only _ _ _), ?_, ?_⟩
  · rw [State.setRt_tileEntry _ h (ttsetNote idx d) (fun _ => rfl)]
    exact s.tileEntry_setEntry h (ttsetEntry s idx d)
  · rw [State.partRt_setRt _ h]
    unfold State.setEntry
    rw [State.partRt_setRt _ h]
    rfl

/-- TTSET of the next number. -/
theorem ttset_loads {s s1 s2 : State} {a b : SSpec} {x y : Word} (hx : readS s a 0 = .ok x s1) (hy : readS s1 b 1 = .ok y s2)
    (h : s.pre.part < 17) (hs : s.parts[s.pre.part].seqs ≠ 0) (ha : x.toNat < 256) {d : List Byte}
    (hd : d = s.pre.spill.readBytes y.toNat 64) (hlim : y.toNat + 64 ≤ s.pre.spillLimit) (hya : y.toNat % 64 = 0)
    (hf : s.pre.failedWord .spill y.toNat 64 = none)
    (hseq : fieldLE d 4 4 = (SMap.get 0xFFFFFFFF (s.partRt s.pre.part).lastSeq x.toNat + 1) % 2 ^ 32)
    (hprior : ∀ e, s.tileEntry s.pre.part x.toNat = some e → 2 ≤ e.state) (hok : descOk d = true)
    (hreach : ∀ r ∈ sendsTo (fieldLE d 0 1) (fieldLE d 1 1) s.pre.gsize.toNat s.pre.rank.toNat,
      seqReach s s.pre.part (memberOf s s.pre.launch s.pre.part r).1 = true)
    (hearly : ∀ p ∈ (s.partRt s.pre.part).early, fieldLE (p.flits.headD []) 4 1 = x.toNat → p.opnd.toNat ≠ fieldLE d 4 4) :
    ∃ u e', Runs (.ttset a b) s (u.collRun s.pre.part x.toNat) ∧ SameMemory s u ∧ OnlyCores s { u with rt := s.rt } ∧
      u.tileEntry s.pre.part x.toNat = some e' ∧ e'.desc = d ∧ e'.seq = fieldLE d 4 4 ∧ e'.dchk = crc32c (d.take 48) ∧
      e'.state = 0 ∧ e'.fired = false ∧
      (u.partRt s.pre.part).lastSeq = SMap.set 0xFFFFFFFF (s.partRt s.pre.part).lastSeq x.toNat (fieldLE d 4 4) := by
  have hu : OnlyFree s s2 := readsTwo_only hx hy
  have hi := ttset_eq s s1 s2 a b x y hx hy
  have hnone : ((s.partRt s.pre.part).early.filter fun p =>
      fieldLE (p.flits.headD []) 4 1 = x.toNat && p.opnd.toNat = fieldLE d 4 4) = [] := by
    rw [List.filter_eq_nil_iff]
    intro p hp
    simpa using hearly p hp
  rw [needBlock_ok hu hlim hya hf, ← hd, needTable_ok hu h hs ha, need_of (ttsetOk_of hu hseq hprior hok hreach), hu.pre,
    partRt_free hu, hnone, List.foldl_nil] at hi
  obtain ⟨honly, hentry, hlast⟩ := ttsetLoad_entry (s := s2) (by rw [hu.pre]; exact h) x.toNat d
  rw [hu.pre] at hentry hlast
  obtain ⟨hmem, hcores⟩ := OnlyRt.after hu (honly.trans (State.atSequencer_only _ s.pre.part 20))
  refine ⟨_, ttsetEntry s2 x.toNat d, runs_of_ok hi rfl, hmem, hcores, ?_, rfl, rfl, rfl, rfl, rfl, ?_⟩
  · rw [State.atSequencer_tileEntry _ h]
    exact hentry
  · unfold State.atSequencer
    rw [State.partRt_setRt _ h, ← partRt_free hu]
    exact hlast

/-- Settles O37, instruction by instruction. -/
theorem collectiveInstructionsActOnTheirEntry : Obligations.CollectiveInstructionsActOnTheirEntry := by
  unfold Obligations.CollectiveInstructionsActOnTheirEntry
  intro s s1 s2 a b w x y h hx hy hs ha part idx last
  refine ⟨rstat_runs hx h hs ha w, coll_absent hx h hs ha, fun e he => ⟨trdy_raises hx h hs ha he, trdy_fires hx h hs ha he,
      rcut_runs hx h hs ha he, rcut_raises hx h hs ha he, rpick_asks hx h hs ha he, rpick_raises hx h hs ha he⟩,
    fun d hd hlim hya hf hseq hprior hok hreach hearly => ttset_loads hx hy h hs ha hd hlim hya hf hseq hprior hok hreach hearly⟩

end Sys2Proof.Machine
end

section
/-! A core's cycle without a bundle, the refusal of the bundle due, and what ends a hold (R10, R143, R152-R154, R248, R297,
R309-R312, R417). -/

namespace Sys2Proof.Machine

/-! ### Leaving a wait, and a bundle that is refused -/

section
variable (s : State) (c : Fin 256)

theorem State.leaveWait_only :
    ({ s.leaveWait c with memq := s.memq, nextId := s.nextId, cores := s.cores } : State) = s := by
  unfold State.leaveWait
  split
  · dsimp only
    split <;> rfl
  · rfl

theorem State.leaveWait_agenda : (s.leaveWait c).agenda = s.agenda := (congrArg State.agenda (s.leaveWait_only c) :)
theorem State.leaveWait_memory : SameMemory s (s.leaveWait c) :=
  SameMemory.of_eq (congrArg State.mem (s.leaveWait_only c) :) (congrArg State.l2 (s.leaveWait_only c) :)

theorem State.leaveWait_ne {d : Fin 256} (h : d ≠ c) : (s.leaveWait c).coreAt d = s.coreAt d := by
  unfold State.leaveWait
  split
  · dsimp only
    split
    · exact State.coreAt_mapCore_ne _ (fun k => { k with answer := none }) h
    · exact State.coreAt_mapCore_ne _ (fun k => { k with answer := none }) h
  · rfl

theorem State.leaveWait_self {α : Type} (g : Core → α) (hg : ∀ (k : Core), g { k with answer := none } = g k) :
    g ((s.leaveWait c).coreAt c) = g (s.coreAt c) := by
  have hmap : ∀ v : State, g ((v.mapCore c fun k => { k with answer := none }).coreAt c) = g (v.coreAt c) := fun v =>
    (congrArg g (v.coreAt_mapCore c _)).trans (hg _)
  unfold State.leaveWait
  split
  · dsimp only
    split
    · exact hmap { s with memq := _ }
    · exact hmap { s with memq := _ }
  · rfl

theorem State.meter_agenda (part : Nat) (m : Fin 16) (n : Nat) : (s.meter part m n).agenda = s.agenda := by
  unfold State.meter
  split
  · split <;> rfl
  · rfl

theorem State.meter_memory (part : Nat) (m : Fin 16) (n : Nat) : SameMemory s (s.meter part m n) :=
  SameMemory.of_eq (s.meter_mem part m n) (s.meter_l2 part m n)

/-- The refusal of one core's bundle due: TRAP_ENTRY takes its cause next. -/
theorem State.refuse_one (t : Trap) (n : Nat) : ∃ v : State, s.refuse [c] [(c, t)] n =
      ({ v with agenda := ⟨.trapEntry, Input.reset⟩ :: v.agenda, free := v.free + 1 } : State).mark (.refused [⟨c, t, n⟩]) ∧
    v.agenda = s.agenda ∧ SameMemory s v := by
  let w : State := if t.slot = 7 then s.mapCore c fun k => k.engineOpen.engineTrapped else s
  have hw : w.agenda = s.agenda ∧ SameMemory s w := by
    by_cases h7 : t.slot = 7
    · rw [show w = s.mapCore c fun k => k.engineOpen.engineTrapped from if_pos h7]
      exact ⟨rfl, SameMemory.of_eq rfl rfl⟩
    · rw [show w = s from if_neg h7]
      exact ⟨rfl, SameMemory.refl s⟩
  refine ⟨(w.leaveWait c).busyCycle c, ?_, ?_, ?_⟩
  · simp [State.refuse, w]
  · rw [State.busyCycle, State.meter_agenda, State.leaveWait_agenda, hw.1]
  · exact (hw.2.trans (w.leaveWait_memory c)).trans (State.meter_memory _ _ _ _)

end

/-! ### The cycles of a core that stands alone -/

theorem State.holdSave_only (s : State) (c : Fin 256) : ({ s.holdSave c with cores := s.cores } : State) = s := by
  unfold State.holdSave
  dsimp only
  split <;> rfl

theorem State.holdSave_ne (s : State) {c d : Fin 256} (h : d ≠ c) : (s.holdSave c).coreAt d = s.coreAt d := by
  unfold State.holdSave
  dsimp only
  split
  · rfl
  · exact State.coreAt_mapCore_ne _ _ h

section
variable {s : State} {c : Fin 256}

theorem bundleIssue_runs {t : State} (hr : (s.coreAt c).run = .running) (hj : (s.coreAt c).joined = false)
    (h : s.groupCycle [c] c = t) : Runs (.bundleIssue c) s t := by
  change execBundleIssue c s = _
  rw [execBundleIssue, hr]
  simp [issueGroup, hj, h]

theorem bundleIssue_idle (hr : (s.coreAt c).run ≠ .running) (he : (s.coreAt c).run ≠ .ending) : Runs (.bundleIssue c) s s := by
  change execBundleIssue c s = _
  unfold execBundleIssue
  cases h : (s.coreAt c).run
  case running => exact absurd h hr
  case ending => exact absurd h he
  all_goals rfl

theorem bundleIssue_ending (he : (s.coreAt c).run = .ending) : Runs (.bundleIssue c) s (s.busyCycle c) := by
  change execBundleIssue c s = _
  rw [execBundleIssue, he]

theorem gateOf_holdSave : (s.holdSave c).cycle % gateOf (s.holdSave c) c = s.cycle % gateOf s c := by
  unfold gateOf
  rw [show (s.holdSave c).cycle = s.cycle from (congrArg State.cycle (s.holdSave_only c) :),
    show (s.holdSave c).power = s.power from (congrArg State.power (s.holdSave_only c) :)]

theorem groupCycle_gated (h : s.cycle % gateOf s c ≠ 0) :
    s.groupCycle [c] c = ((s.holdSave c).mapCore c (·.gatedCycle)).heldCycle c := by
  rw [← gateOf_holdSave] at h
  simp [State.groupCycle, h]

variable (hgate : s.cycle % gateOf s c = 0)
include hgate

theorem groupCycle_entry (h : 0 < (s.coreAt c).entryWait) :
    s.groupCycle [c] c = ((s.holdSave c).mapCore c (·.entryCycle)).busyCycle c := by
  rw [← gateOf_holdSave] at hgate
  rw [← State.holdSave_keeps Core.entryWait (fun _ _ => rfl) s c c] at h
  simp [State.groupCycle, hgate, h]

variable (hentry : (s.coreAt c).entryWait = 0)
include hentry

theorem groupCycle_yield (hskip : (s.coreAt c).skip = 0) (hy : isYield (s.coreAt c).wait = true) :
    s.groupCycle [c] c = ((s.holdSave c).mapCore c (·.yieldCycle)).heldCycle c := by
  rw [← gateOf_holdSave] at hgate
  rw [← State.holdSave_keeps Core.entryWait (fun _ _ => rfl) s c c] at hentry
  rw [← State.holdSave_keeps Core.skip (fun _ _ => rfl) s c c] at hskip
  rw [← State.holdSave_keeps (fun k => isYield k.wait) (fun _ _ => rfl) s c c] at hy
  simp [State.groupCycle, hgate, hentry, hskip, hy]

variable (hy : isYield (s.coreAt c).wait = false)
include hy

theorem groupCycle_late (hl : (s.coreAt c).lateLoad = true) : s.groupCycle [c] c = (s.holdSave c).holdOn c .data := by
  rw [← gateOf_holdSave] at hgate
  rw [← State.holdSave_keeps Core.entryWait (fun _ _ => rfl) s c c] at hentry
  rw [← State.holdSave_keeps (fun k => isYield k.wait) (fun _ _ => rfl) s c c] at hy
  rw [← State.holdSave_keeps Core.lateLoad (fun _ _ => rfl) s c c] at hl
  simp [State.groupCycle, hgate, hentry, hy, hl, State.holdGroup]

variable (hl : (s.coreAt c).lateLoad = false)
include hl

theorem groupCycle_failed {t : Trap} (ha : accessCause (s.coreAt c) = some t) : s.groupCycle [c] c =
    ((s.holdSave c).mapCore c (·.reported)).refuse [c] [(c, t)] (bundleAt ((s.holdSave c).mapCore c (·.reported)) c).len := by
  rw [← gateOf_holdSave] at hgate
  rw [← State.holdSave_keeps Core.entryWait (fun _ _ => rfl) s c c] at hentry
  rw [← State.holdSave_keeps (fun k => isYield k.wait) (fun _ _ => rfl) s c c] at hy
  rw [← State.holdSave_keeps Core.lateLoad (fun _ _ => rfl) s c c] at hl
  rw [← State.holdSave_keeps accessCause (fun _ _ => rfl) s c c] at ha
  simp [State.groupCycle, hgate, hentry, hy, hl, causesOf, ha]

theorem groupCycle_folded (ha : accessCause (s.coreAt c) = none) (hskip : (s.coreAt c).skip ≠ 0)
    (he : engineTrap ((s.holdSave c).coreAt c) (fun _ => 0) = none) :
    s.groupCycle [c] c = ((s.holdSave c).mapCore c (·.emptyCycle)).busyCycle c := by
  rw [← gateOf_holdSave] at hgate
  rw [← State.holdSave_keeps Core.entryWait (fun _ _ => rfl) s c c] at hentry
  rw [← State.holdSave_keeps (fun k => isYield k.wait) (fun _ _ => rfl) s c c] at hy
  rw [← State.holdSave_keeps Core.lateLoad (fun _ _ => rfl) s c c] at hl
  rw [← State.holdSave_keeps accessCause (fun _ _ => rfl) s c c] at ha
  rw [← State.holdSave_keeps Core.skip (fun _ _ => rfl) s c c] at hskip
  simp [State.groupCycle, hgate, hentry, hy, hl, causesOf, ha, hskip, he, State.emptyCycles]

end

/-- A cycle of a core that is held counts in its HOLD_CYC alone. -/
theorem State.heldCycle_self (s : State) (c : Fin 256) :
    (s.heldCycle c).coreAt c = { s.coreAt c with holdCyc := (s.coreAt c).holdCyc + 1 } := by
  unfold State.heldCycle
  dsimp only
  rw [State.meter_coreAt, State.meter_coreAt, State.coreAt_mapCore]

theorem State.heldCycle_ne (s : State) {c d : Fin 256} (h : d ≠ c) : (s.heldCycle c).coreAt d = s.coreAt d := by
  unfold State.heldCycle
  dsimp only
  rw [State.meter_coreAt, State.meter_coreAt, State.coreAt_mapCore_ne _ _ h]

/-- A cycle of a YIELD. -/
theorem yield_cycle {s : State} {c : Fin 256} {n : Nat} (hw : (s.coreAt c).wait = some (.yield n)) :
    let t := ((s.holdSave c).mapCore c (·.yieldCycle)).heldCycle c
    (t.coreAt c).wait = (if n ≤ 1 then none else some (.yield (n - 1))) ∧ (t.coreAt c).holdCyc = (s.coreAt c).holdCyc + 1 ∧
      (t.coreAt c).clk = (s.coreAt c).clk ∧ OtherThan s t c := by
  intro t
  have hw' : ((s.holdSave c).coreAt c).wait = some (.yield n) :=
    (State.holdSave_keeps Core.wait (fun _ _ => rfl) s c c).trans hw
  have ht : t.coreAt c = { (s.holdSave c).coreAt c with
      wait := if n ≤ 1 then none else some (.yield (n - 1))
      holdCyc := ((s.holdSave c).coreAt c).holdCyc + 1 } := by
    rw [show t.coreAt c = _ from State.heldCycle_self _ c, State.coreAt_mapCore]
    unfold Core.yieldCycle
    rw [hw']
  refine ⟨by rw [ht], ?_, ?_, fun d hd => ?_⟩
  · rw [ht]
    exact congrArg (· + 1) (State.holdSave_keeps Core.holdCyc (fun _ _ => rfl) s c c)
  · rw [ht]
    exact State.holdSave_keeps Core.clk (fun _ _ => rfl) s c c
  · rw [State.heldCycle_ne _ hd, State.coreAt_mapCore_ne _ _ hd, State.holdSave_ne s hd]

theorem isYield_of {w : Option Hold} {n : Nat} (h : w = some (.yield n)) : isYield w = true := by
  rw [h]
  rfl

/-- In a handler an empty issue cycle leaves the engine alone. -/
theorem Core.emptyCycle_handler {k : Core} (h : k.level ≠ k.base) :
    k.emptyCycle = { k with clk := k.clk + 1, skip := k.skip - 1 } :=
  if_neg (by simpa [engineRuns] using h)

/-- A fetch cause refuses the bundle due. -/
theorem fetch_refused {s : State} {c : Fin 256} {t : Trap} (h : IssuesNow (s.holdSave c) c)
    (hf : fetchBundle (s.holdSave c) ((s.holdSave c).coreAt c) (bundleAt (s.holdSave c) c) = .error t)
    (he : engineTrap ((s.holdSave c).coreAt c) (fun _ => 0) = none) : RunsTo (.bundleIssue c) s fun u =>
      u.issue.result = .refused [⟨c, t, (bundleAt (s.holdSave c) c).len⟩] ∧
      u.agenda = ⟨.trapEntry, Input.reset⟩ :: s.agenda ∧ SameMemory s u := by
  have hcycle : s.groupCycle [c] c = (s.holdSave c).refuse [c] [(c, t)] (bundleAt (s.holdSave c) c).len := by
    rw [groupCycle_issues h]
    obtain ⟨_, _, _, _, _, _, _, _, _, hmay, hfetched⟩ := h
    simp [State.issueAt, hmay, hfetched, hf, causesOf, he]
  obtain ⟨v, hv, hagenda, hmem⟩ := (s.holdSave c).refuse_one c t (bundleAt (s.holdSave c) c).len
  refine ⟨_, (bundleIssue_alone h).trans (congrArg _ (hcycle.trans hv)), rfl, ?_, ?_⟩
  · exact congrArg (_ :: ·) (hagenda.trans (congrArg State.agenda (s.holdSave_only c) :))
  · have h0 : SameMemory s (s.holdSave c) :=
      SameMemory.of_eq (congrArg State.mem (s.holdSave_only c) :) (congrArg State.l2 (s.holdSave_only c) :)
    exact (h0.trans hmem).trans (SameMemory.of_eq rfl rfl)

/-! ### TRAP_ENTRY (R248) -/

theorem Core.trapWith_handler {k : Core} {t : Trap} {l : Level} {cause : Cause} {info : Word}
    (h : k.trapTo t = .handler l cause info) : k.trapWith (k.goesToH t) t = .handler l cause info := by
  unfold Core.trapWith Core.goesToH
  rw [h]
  cases l <;> rfl

theorem State.takeTrapOn_enters (s : State) {c : Fin 256} {t : Trap} {l : Level} {cause : Cause} {info : Word}
    (hfab : t.cause ≠ .fabricTimeout) (h : (s.coreAt c).trapTo t = .handler l cause info) :
    s.takeTrapOn c ((s.coreAt c).goesToH t) t = s.mapCore c fun k => k.enter l cause t.slot info s.issue.blen := by
  unfold State.takeTrapOn
  dsimp only
  rw [if_neg hfab, Core.trapWith_handler h]

theorem trapEntry_enters {s : State} {c : Fin 256} {t : Trap} {blen : Nat} {l : Level} {cause : Cause} {info : Word}
    (hr : s.issue.result = .refused [⟨c, t, blen⟩]) (hfab : t.cause ≠ .fabricTimeout)
    (h : (s.coreAt c).trapTo t = .handler l cause info) : RunsTo .trapEntry s fun u =>
      u.coreAt c = (s.coreAt c).enter l cause t.slot info blen ∧ OtherThan s u c ∧ SameMemory s u ∧ u.issue.result = .ok := by
  have htake := State.takeTrapOn_enters { s with issue := { s.issue with blen := blen } } hfab h
  have hexec : exec .trapEntry s = .next ((({ s with issue := { s.issue with blen := blen } } : State).mapCore c fun k =>
      k.enter l cause t.slot info blen).mark .ok) := by
    rw [← htake]
    change execTrapEntry s = _
    unfold execTrapEntry
    rw [hr]
    by_cases hs : t.cause = .tandemSibling
    · simp [ownFirst, hs]
      rfl
    · simp [ownFirst, hs]
      rfl
  have hself : ∀ (v : State) (f : Core → Core), ((v.mapCore c f).mark .ok).coreAt c = f (v.coreAt c) :=
    fun v f => v.coreAt_mapCore c f
  have hother : ∀ (v : State) (f : Core → Core) (d : Fin 256), d ≠ c → ((v.mapCore c f).mark .ok).coreAt d = v.coreAt d :=
    fun v f d hd => v.coreAt_mapCore_ne f hd
  exact ⟨_, hexec, hself _ _, fun d hd => hother _ _ d hd, SameMemory.of_eq rfl rfl, rfl⟩

/-! ### Ends of holds -/

section
variable {s : State} {c : Fin 256}

theorem yieldEnd_runs {n : Nat} {why : YieldWhy} (hw : (s.coreAt c).wait = some (.yield n)) : Runs (.yieldEnd c why) s (
    if why = .count ∧ 1 < n then s else match yieldStop (s.coreAt c) with
      | some off => s.haltGroup c off
      | none => s.mapCore c fun k => { k with wait := none }) := by
  change execYieldEnd c why s = _
  unfold execYieldEnd
  rw [hw]
  by_cases hcount : why = .count
  · subst hcount
    by_cases hn : 1 < n
    · rw [if_pos ⟨rfl, hn⟩]
      simp [Nat.not_le.2 hn]
    · rw [if_neg (fun h => hn h.2)]
      simp only [Nat.not_lt.1 hn, ↓reduceIte]
      rfl
  · rw [if_neg (fun h => hcount h.1)]
    cases why
    case count => exact absurd rfl hcount
    all_goals rfl

theorem wfiWake_runs {n : Option Nat} {ev : BitVec 4} (hw : (s.coreAt c).wait = some (.wfi n)) : Runs (.wfiWake c ev) s
    (s.mapCore c fun k => { k with answer := some (k.answer.getD 0 ||| ev.setWidth 64) }) := by
  change execWfiWake c ev s = _
  unfold execWfiWake
  rw [hw]

theorem mem_tlbInsert (e : TlbEntry) (l : List TlbEntry) : e ∈ tlbInsert e l := by
  unfold tlbInsert
  split
  · next h => exact List.contains_iff_mem.1 h
  · dsimp only
    split
    · exact List.mem_cons_self
    · split <;> exact List.mem_cons_self

theorem tlbWalkDone_fills {e : Walk} {ws : List Walk} (h : (s.coreAt c).walks = e :: ws) : RunsTo (.tlbWalkDone c) s fun t =>
    (t.coreAt c).walks = ws ∧ e.entry ∈ (t.coreAt c).l1tlb ∧ e.entry ∈ t.l2tlb[quadOf c] ∧ OtherThan s t c ∧ SameMemory s t := by
  have hfill : fillTlb s c = (s.mapCore c fun k => { k with walks := ws, l1tlb := (e.entry :: k.l1tlb).take 512 }).fillL2Tlb
      (quadOf c) e.entry := by
    unfold fillTlb
    rw [h]
  refine ⟨fillTlb s c, rfl, ?_⟩
  rw [hfill]
  have hself : ((s.mapCore c fun k => { k with walks := ws, l1tlb := (e.entry :: k.l1tlb).take 512 }).fillL2Tlb
      (quadOf c) e.entry).coreAt c = { s.coreAt c with walks := ws, l1tlb := (e.entry :: (s.coreAt c).l1tlb).take 512 } :=
    s.coreAt_mapCore c fun k => { k with walks := ws, l1tlb := (e.entry :: k.l1tlb).take 512 }
  refine ⟨by rw [hself], ?_, ?_, fun d hd => ?_, SameMemory.of_eq rfl rfl⟩
  · rw [hself]
    exact List.mem_cons_self
  · exact (Vector.getElem_set_self (xs := s.l2tlb) (quadOf c).isLt).symm ▸ mem_tlbInsert e.entry s.l2tlb[quadOf c]
  · exact s.coreAt_mapCore_ne (fun k => { k with walks := ws, l1tlb := (e.entry :: k.l1tlb).take 512 }) hd

end

/-! ### REJOIN (R152) -/

/-- What a core keeps when causes are taken around it: it has left REJOIN, alone. -/
def Core.apart (k : Core) : Prop := k.rejoin = false ∧ k.wait = none ∧ k.joined = false

theorem Core.enter_apart {k : Core} (h : k.apart) (l : Level) (cause : Cause) (slot : Nat) (info : Word) (blen : Nat) :
    (k.enter l cause slot info blen).apart := by
  have hland : k.landAll.rejoin = k.rejoin ∧ k.landAll.joined = k.joined := ⟨rfl, rfl⟩
  unfold Core.enter
  dsimp only
  split
  · exact ⟨hland.1.trans h.1, rfl, hland.2.trans h.2.2⟩
  · exact ⟨hland.1.trans h.1, rfl, hland.2.trans h.2.2⟩

theorem State.mapCore_apart {s : State} {c d : Fin 256} {f : Core → Core} (hf : ∀ k : Core, k.apart → (f k).apart)
    (h : (s.coreAt d).apart) : ((s.mapCore c f).coreAt d).apart := by
  by_cases hd : d = c
  · subst hd
    rw [State.coreAt_mapCore]
    exact hf _ h
  · rw [State.coreAt_mapCore_ne _ _ hd]
    exact h

theorem State.killCore_apart {s : State} {c d : Fin 256} {cause : Cause} {word info : Word} {flags : BitVec 8}
    (h : (s.coreAt d).apart) : ((s.killCore c cause word flags info).coreAt d).apart := by
  rw [State.killCore_eq, State.coreAt_postCore]
  refine State.mapCore_apart (fun k hk => ⟨hk.1, rfl, hk.2.2⟩) ?_
  have hlog : ((s.deathLogged c cause flags info).coreAt d).apart := by
    have hkeep := s.deathLogged_coreAt_keeps c cause flags info (fun k => (k.rejoin, k.wait, k.joined)) (fun _ => rfl) d
    simp only [Prod.mk.injEq] at hkeep
    obtain ⟨hr, hw, hj⟩ := hkeep
    exact ⟨hr.trans h.1, hw.trans h.2.1, hj.trans h.2.2⟩
  cases hl : (s.coreAt c).launch with
  | none => exact hlog
  | some id =>
    rw [State.endLaunch_coreAt]
    beta_reduce
    split
    · exact hlog
    · exact hlog

theorem State.takeTrapOn_apart {s : State} {c d : Fin 256} {b : Bool} {t : Trap} (h : (s.coreAt d).apart) :
    ((s.takeTrapOn c b t).coreAt d).apart := by
  have hlate : ((if t.cause = .fabricTimeout then s.mapCore c fun k => { k with fabLate := none } else s).coreAt d).apart := by
    split
    · exact State.mapCore_apart (fun k hk => hk) h
    · exact h
  unfold State.takeTrapOn
  dsimp only
  split
  · exact State.mapCore_apart (fun k hk => Core.enter_apart hk _ _ _ _ _) hlate
  · exact State.killCore_apart hlate
  · exact State.killCore_apart hlate

theorem foldl_takeTrapOn_apart {d : Fin 256} {t : Trap} (l : List (Fin 256)) (s : State) (h : (s.coreAt d).apart) :
    ((l.foldl (fun s c => (s.onBundle c).takeTrapOn c false t) s).coreAt d).apart := by
  induction l generalizing s with
  | nil => exact h
  | cons c l ih => exact ih _ (State.takeTrapOn_apart (s := s.onBundle c) h)

/-- A change of every core of a list. -/
theorem State.foldl_mapCore (f : Core → Core) {l : List (Fin 256)} (hl : l.Nodup) (s : State) (d : Fin 256) :
    (l.foldl (fun s c => s.mapCore c f) s).coreAt d = if d ∈ l then f (s.coreAt d) else s.coreAt d := by
  induction l generalizing s with
  | nil => rfl
  | cons c l ih =>
    obtain ⟨hc, hl⟩ := List.nodup_cons.1 hl
    rw [List.foldl_cons, ih hl]
    by_cases hd : d = c
    · subst hd
      rw [if_neg hc, if_pos List.mem_cons_self, State.coreAt_mapCore]
    · rw [State.coreAt_mapCore_ne _ _ hd]
      simp [hd]

theorem coresOfQuad_nodup (q : Fin 64) : (coresOfQuad q).Nodup := by
  simp [coresOfQuad]

/-- A core of a quad goes on from REJOIN. -/
def Core.rejoined (same : Bool) (k : Core) : Core := { k with rejoin := false, joined := same, wait := none }

theorem rejoinMeet_ends {s : State} {q : Fin 64}
    (h : ∀ d ∈ coresOfQuad q, (s.coreAt d).rejoin = true ∧ (s.coreAt d).wait = some .rejoin) :
    RunsTo (.rejoinMeet q) s fun t => (∀ d ∈ coresOfQuad q, (t.coreAt d).rejoin = false ∧ (t.coreAt d).wait = none) ∧
      ((∀ d ∈ coresOfQuad q, ∀ e ∈ coresOfQuad q, (s.coreAt d).pc = (s.coreAt e).pc) →
        ∀ d ∈ coresOfQuad q, (t.coreAt d).joined = true ∧ (t.coreAt d).pc = (s.coreAt d).pc) ∧
      ((∃ d ∈ coresOfQuad q, ∃ e ∈ coresOfQuad q, (s.coreAt d).pc ≠ (s.coreAt e).pc) →
        ∀ d ∈ coresOfQuad q, (t.coreAt d).joined = false) := by
  have hall : ((coresOfQuad q).all fun c => (s.coreAt c).rejoin && (s.coreAt c).wait = some .rejoin) = true := by
    rw [List.all_eq_true]
    intro d hd
    simp [h d hd]
  let same : Bool := (coresOfQuad q).all fun c => (s.coreAt c).pc = (s.coreAt ((coresOfQuad q).headD 0)).pc
  let u := (coresOfQuad q).foldl (fun s c => s.mapCore c (Core.rejoined same)) s
  have hexec : exec (.rejoinMeet q) s = if same then .next u else .next ((coresOfQuad q).foldl
      (fun s c => (s.onBundle c).takeTrapOn c false ⟨.tandemMismatch, 6, 0⟩) u) := by
    change execRejoinMeet q s = _
    unfold execRejoinMeet
    dsimp only
    rw [hall]
    rfl
  have hu : ∀ d ∈ coresOfQuad q, u.coreAt d = (s.coreAt d).rejoined same := fun d hd => by
    rw [show u.coreAt d = _ from State.foldl_mapCore _ (coresOfQuad_nodup q) s d, if_pos hd]
  have hhead : (coresOfQuad q).headD 0 ∈ coresOfQuad q := by simp [coresOfQuad]
  by_cases hsame : same = true
  · rw [if_pos hsame] at hexec
    have hpc := List.all_eq_true.1 hsame
    refine ⟨_, hexec, fun d hd => ?_, fun _ d hd => ?_, ?_⟩
    · rw [hu d hd]
      exact ⟨rfl, rfl⟩
    · rw [hu d hd]
      exact ⟨hsame, rfl⟩
    · rintro ⟨d, hd, e, he, hne⟩
      exact absurd ((of_decide_eq_true (hpc d hd)).trans (of_decide_eq_true (hpc e he)).symm) hne
  · rw [if_neg hsame] at hexec
    have hapart : ∀ d ∈ coresOfQuad q, (u.coreAt d).apart := fun d hd => by
      rw [hu d hd]
      exact ⟨rfl, rfl, Bool.eq_false_iff.2 hsame⟩
    refine ⟨_, hexec, fun d hd => ?_, fun hpc => ?_, fun _ d hd => ?_⟩
    · obtain ⟨hr, hw, -⟩ := foldl_takeTrapOn_apart (t := ⟨.tandemMismatch, 6, 0⟩) (coresOfQuad q) u (hapart d hd)
      exact ⟨hr, hw⟩
    · exact absurd (List.all_eq_true.2 fun d hd => decide_eq_true (hpc d hd _ hhead)) hsame
    · exact (foldl_takeTrapOn_apart (t := ⟨.tandemMismatch, 6, 0⟩) (coresOfQuad q) u (hapart d hd)).2.2

/-! ### Ends of holds that name their core in the input -/

section
variable {s : State} {c : Fin 256} (hc : s.inp.core = c)
include hc

theorem fetchLinesArrive_ends (hw : (s.coreAt c).wait = some .fetch) : RunsTo .fetchLinesArrive s fun t =>
    (t.coreAt c).wait = none ∧ fetched (t.coreAt c) (bundleAt s c) = true ∧ OtherThan s t c ∧ SameMemory s t := by
  let new := ((bundleAt s c).lines ((s.coreAt c).level = .h)).filter fun l => !(s.coreAt c).fbuf.contains l
  have hexec : exec .fetchLinesArrive s = .next (s.mapCore c fun k => { k with fbuf := new ++ k.fbuf, wait := none }) := by
    change execFetchLinesArrive s = _
    unfold execFetchLinesArrive
    dsimp only
    rw [hc, if_pos hw]
  have hself := s.coreAt_mapCore c fun k => { k with fbuf := new ++ k.fbuf, wait := none }
  refine ⟨_, hexec, by rw [hself], ?_, fun d hd => s.coreAt_mapCore_ne _ hd, SameMemory.of_eq rfl rfl⟩
  rw [hself]
  unfold fetched
  rw [List.all_eq_true]
  intro l hl
  by_cases hin : (s.coreAt c).fbuf.contains l = true
  · exact List.contains_iff_mem.2 (List.mem_append_right _ (List.contains_iff_mem.1 hin))
  · exact List.contains_iff_mem.2 (List.mem_append_left _ (List.mem_filter.2 ⟨hl, by simpa using hin⟩))

theorem fenceRelease_runs {sc : BitVec 4} {kd : BitVec 2} (hf : fenceAt s c = some (sc, kd))
    (hm : fenceMet s c kd.toNat sc.toNat = true) :
    let u := if sc = 0 then s else s.mapCore c (·.mergeAll)
    let v := if 5 ≤ sc.toNat then u.applyCore c else u
    Runs .fenceRelease s (v.mapCore c fun k => { k with wait := none }) := by
  intro u v
  have hend : s.endFence c sc.toNat = v := by
    have hs0 : sc.toNat = 0 ↔ sc = 0 := by rw [← BitVec.toNat_inj]; rfl
    unfold State.endFence
    by_cases h0 : sc = 0
    · subst h0
      rfl
    · rw [if_neg fun h => h0 (hs0.1 h)]
      simp only [v, u, if_neg h0]
  change execFenceRelease s = _
  unfold execFenceRelease
  dsimp only
  rw [hc, hf]
  dsimp only
  rw [hm, hend]
  rfl

theorem tlbinvComplete_runs {a b : Word} (hw : (s.coreAt c).wait = some (.tlbinv 0 a b)) :
    let u := s.invalidate a.toNat 0 (2 ^ 39)
    Runs .tlbinvComplete s (if tlbinvQuiet u c then u.mapCore c fun k => { k with answer := some 0 } else u) := by
  intro u
  change execTlbinvComplete s = _
  unfold execTlbinvComplete
  dsimp only
  rw [hc, hw]
  rfl

end

/-! ### Stops (R103) -/

section
variable {s : State} {c : Fin 256}

theorem haltGroup_alone (hj : (s.coreAt c).joined = false) (off : Nat) : s.haltGroup c off =
    (if isYield (s.coreAt c).wait then s.mapCore c fun k => { k with wait := none } else s).haltCore c off := by
  simp [State.haltGroup, issueGroup, hj]

theorem coreStop_runs (hc : s.inp.core = c) {off : Nat} (hstop : stopPoint s c = some off) :
    exec .coreStop s = .next (s.haltGroup c off) := by
  change execCoreStop s = _
  unfold execCoreStop
  dsimp only
  rw [hc, hstop]

/-- A core that stops without a save is dead. -/
theorem State.haltCore_dead {off : Nat} (h : (s.coreAt c).stop = some .noSave) :
    ((s.haltCore c off).coreAt c).run = .dead ∧ ((s.haltCore c off).coreAt c).stop = none := by
  unfold State.haltCore
  dsimp only
  rw [h]
  dsimp only
  rw [if_pos (by simp)]
  rw [State.coreAt_postCore, State.coreAt_mapCore]
  exact ⟨rfl, rfl⟩

/-- A core that stops with a save stands at its stop point. -/
theorem State.haltCore_saved {off : Nat} {l : Launch} (h : (s.coreAt c).stop = some .save)
    (hl : (s.coreAt c).launch.bind s.launchById = some l) (hf : l.fault = none) :
    ((s.haltCore c off).coreAt c).run = .stopped ∧ ((s.haltCore c off).coreAt c).stop = none ∧
      ((s.haltCore c off).coreAt c).stopAt = off ∧ OtherThan s (s.haltCore c off) c := by
  have hhalt : s.haltCore c off =
      (s.leaveWait c).mapCore c fun k => { k.engineHalt with run := .stopped, stop := none, stopAt := off } := by
    unfold State.haltCore
    dsimp only
    rw [h, hl]
    dsimp only
    exact if_neg (by simp [hf])
  rw [hhalt]
  refine ⟨?_, ?_, ?_, fun d hd => ?_⟩
  · rw [State.coreAt_mapCore]
  · rw [State.coreAt_mapCore]
  · rw [State.coreAt_mapCore]
  · rw [State.coreAt_mapCore_ne _ _ hd, State.leaveWait_ne s c hd]

/-- What a core that waits in a YIELD is before it is halted. -/
theorem unyield_keeps {α : Type} (g : Core → α) (hg : ∀ k : Core, g { k with wait := none } = g k) :
    g ((if isYield (s.coreAt c).wait then s.mapCore c fun k => { k with wait := none } else s).coreAt c) = g (s.coreAt c) := by
  split
  · rw [State.coreAt_mapCore]
    exact hg _
  · rfl

theorem coreStop_dead (hc : s.inp.core = c) {off : Nat} (hstop : stopPoint s c = some off) (hj : (s.coreAt c).joined = false)
    (h : (s.coreAt c).stop = some .noSave) :
    RunsTo .coreStop s fun t => (t.coreAt c).run = .dead ∧ (t.coreAt c).stop = none := by
  refine ⟨_, coreStop_runs hc hstop, ?_⟩
  rw [haltGroup_alone hj]
  exact State.haltCore_dead ((unyield_keeps Core.stop fun _ => rfl).trans h)

theorem coreStop_saved (hc : s.inp.core = c) {off : Nat} (hstop : stopPoint s c = some off) (hj : (s.coreAt c).joined = false)
    {l : Launch} (h : (s.coreAt c).stop = some .save) (hl : (s.coreAt c).launch.bind s.launchById = some l)
    (hf : l.fault = none) : RunsTo .coreStop s fun t => (t.coreAt c).run = .stopped ∧ (t.coreAt c).stop = none ∧
      (t.coreAt c).stopAt = off ∧ OtherThan s t c := by
  refine ⟨_, coreStop_runs hc hstop, ?_⟩
  rw [haltGroup_alone hj]
  have hlaunch : ((if isYield (s.coreAt c).wait then s.mapCore c fun k => { k with wait := none } else s).coreAt c).launch.bind
      (if isYield (s.coreAt c).wait then s.mapCore c fun k => { k with wait := none } else s).launchById = some l := by
    rw [unyield_keeps Core.launch fun _ => rfl]
    split
    · exact hl
    · exact hl
  obtain ⟨hrun, hstop', hat, hother⟩ := State.haltCore_saved (off := off)
    ((unyield_keeps Core.stop fun _ => rfl).trans h) hlaunch hf
  refine ⟨hrun, hstop', hat, fun d hd => (hother d hd).trans ?_⟩
  split
  · exact s.coreAt_mapCore_ne _ hd
  · rfl

end

/-! ### SCRUB (R310) -/

/-- A core that SCRUB has cleared. -/
def Core.scrubbed (k : Core) : Core :=
  { k.bare with spad := [], writers := Vector.replicate 32 none, badSpad := [], l1tlb := [], walks := [] }

theorem scrubComplete_clears {s u : State} {c : Fin 256} {q : Nat} (hc : s.inp.core = c)
    (hw : (s.coreAt c).wait = some (.scrub q)) (hq : quadOf c ≠ Fin.ofNat 64 q) (hlt : q < 64) (hp : scrubPumps s q = .ok u) :
    RunsTo .scrubComplete s fun t => (t.coreAt c).answer = some 0 ∧ t.mem = u.mem ∧
      ∀ d ∈ coresOf [q], (t.coreAt d).spad = [] ∧ (t.coreAt d).l1tlb = [] ∧
        (t.coreAt d).writers = Vector.replicate 32 none := by
  have hcores : coresOf [q] = coresOfQuad ⟨q, hlt⟩ := by
    simp [coresOf, hlt]
  have hnot : c ∉ coresOf [q] := by
    intro hin
    have hval : c.val / 4 = q := by
      rw [hcores] at hin
      simp only [coresOfQuad, List.mem_cons, Fin.ext_iff, List.not_mem_nil, or_false] at hin
      omega
    refine hq (Fin.ext ?_)
    simp only [quadOf, Fin.val_ofNat]
    omega
  let v := (coresOf [q]).foldl (fun s c => s.mapCore c Core.scrubbed) u
  let w : State := { v with l2tlb := v.l2tlb.set q [] }
  have hexec : exec .scrubComplete s = .next (w.mapCore c fun k => { k with answer := some 0 }) := by
    change execScrubComplete s = _
    unfold execScrubComplete
    dsimp only
    rw [hc, hw]
    dsimp only
    rw [hp]
    dsimp only
    rw [dif_pos hlt]
    rfl
  have hv : ∀ l : List (Fin 256), ∀ u : State, (l.foldl (fun s c => s.mapCore c Core.scrubbed) u).mem = u.mem := fun l => by
    induction l with
    | nil => exact fun _ => rfl
    | cons c l ih => exact fun u => ih _
  refine ⟨_, hexec, by rw [State.coreAt_mapCore], hv _ _, fun d hd => ?_⟩
  have hdc : d ≠ c := fun h => hnot (h ▸ hd)
  have hd' : (w.mapCore c fun k => { k with answer := some 0 }).coreAt d = (u.coreAt d).scrubbed := by
    rw [State.coreAt_mapCore_ne _ _ hdc]
    refine (State.foldl_mapCore _ (hcores ▸ coresOfQuad_nodup _) u d).trans (if_pos hd)
  rw [hd']
  exact ⟨rfl, rfl, rfl⟩

/-- Settles O39, a cycle or an end of a hold at a time. -/
theorem coreCyclesAndHolds : Obligations.CoreCyclesAndHolds := by
  unfold Obligations.CoreCyclesAndHolds
  intro s c k
  refine ⟨bundleIssue_idle, bundleIssue_ending, fun hr hj => ?_, ?_, fun t blen l cause info hr hfab h => trapEntry_enters hr hfab h,
    fun n why => yieldEnd_runs, fun n ev => wfiWake_runs, fun e ws => tlbWalkDone_fills, fun q => rejoinMeet_ends,
    fun hc => ⟨fetchLinesArrive_ends hc, fun off hstop hj => ⟨coreStop_dead hc hstop hj, fun l => coreStop_saved hc hstop hj⟩,
      fun sc kd => fenceRelease_runs hc, fun a b => tlbinvComplete_runs hc, fun q u => scrubComplete_clears hc⟩⟩
  · intro h
    refine ⟨fun hg => bundleIssue_runs hr hj (groupCycle_gated hg), fun hg => ⟨fun he => ?_, fun he hs n hw => ?_, fun he hy => ?_⟩⟩
    · exact bundleIssue_runs hr hj (groupCycle_entry hg he)
    · exact ⟨_, bundleIssue_runs hr hj (groupCycle_yield hg he hs (isYield_of hw)), yield_cycle hw⟩
    · refine ⟨fun hl => bundleIssue_runs hr hj (groupCycle_late hg he hy hl), fun hl t ha => ?_, fun hl ha hs htrap => ?_⟩
      · obtain ⟨v, hv, hagenda, -⟩ := State.refuse_one ((s.holdSave c).mapCore c (·.reported)) c t
          (bundleAt ((s.holdSave c).mapCore c (·.reported)) c).len
        refine ⟨_, bundleIssue_runs hr hj ((groupCycle_failed hg he hy hl ha).trans hv), _, rfl, ?_⟩
        exact congrArg (_ :: ·) (hagenda.trans (congrArg State.agenda (s.holdSave_only c) :))
      · exact ⟨bundleIssue_runs hr hj (groupCycle_folded hg he hy hl ha hs htrap), Core.emptyCycle_handler⟩
  · intro t h
    exact fetch_refused

end Sys2Proof.Machine
end

section
/-! What the homes do for the accesses under way, and what reaches a core from there (R22, R90, R91, R143, R166, R170, R171,
R193-R204, R417). -/

namespace Sys2Proof.Machine

theorem memOpOf_id {s : State} {id : Nat} {o : MemOp} (h : memOpOf s id = some o) : o.id = id := by
  have hfound := List.find?_some h
  simpa using hfound

theorem memOpOf_mem {s : State} {id : Nat} {o : MemOp} (h : memOpOf s id = some o) : o ∈ s.memq := List.mem_of_find?_eq_some h

theorem OnlyMemorySide.perf {s t : State} (h : OnlyMemorySide s t) : t.perf = s.perf := (congrArg State.perf h.1 :)

/-! ### A report that wakes a stopped core -/

theorem State.rouse_only (s : State) (c : Fin 256) : ({ s.rouse c with cores := s.cores } : State) = s := by
  unfold State.rouse
  dsimp only
  split <;> rfl

theorem State.rouse_running {s : State} {c : Fin 256} (h : (s.coreAt c).run ≠ .stopped) : s.rouse c = s := by
  unfold State.rouse
  dsimp only
  rw [if_neg]
  simp [h]

/-- What an access does at its home beside its effect. -/
def State.homeDone (s : State) (o : MemOp) : State := (s.seePerformed (dieOf o.core)).rouse o.core

theorem State.perform_eq (s : State) (o : MemOp) : s.perform o = (s.performWrite o).homeDone o := rfl

section
variable (s : State) (o : MemOp)

theorem State.homeDone_only : ({ s.homeDone o with cores := s.cores, perf := s.perf } : State) = s := by
  have h := congrArg (fun v : State => { v with cores := s.cores, perf := s.perf }) ((s.seePerformed (dieOf o.core)).rouse_only o.core)
  exact h.trans rfl

theorem State.homeDone_memq : (s.homeDone o).memq = s.memq := (congrArg State.memq (s.homeDone_only o) :)
theorem State.homeDone_mem : (s.homeDone o).mem = s.mem := (congrArg State.mem (s.homeDone_only o) :)
theorem State.homeDone_l2 : (s.homeDone o).l2 = s.l2 := (congrArg State.l2 (s.homeDone_only o) :)

theorem State.homeDone_running {s : State} {o : MemOp} (h : (s.coreAt o.core).run ≠ .stopped) (d : Fin 256) :
    (s.homeDone o).coreAt d = s.coreAt d := by
  rw [State.homeDone, State.rouse_running (s := s.seePerformed (dieOf o.core)) h]
  rfl

end

/-! ### Admission -/

section
variable {s : State} {id : Nat} {o : MemOp} (ho : memOpOf s id = some o)
include ho

theorem writePerform_exec (hr : o.ready s = true) (hw : o.writes = true) :
    exec (.writePerform id) s = .next (s.admitOp o none) := by
  change execWritePerform id s = _
  unfold execWritePerform
  rw [ho]
  dsimp only
  rw [hr, hw]
  rfl

theorem readServe_exec (hr : o.ready s = true) (hl : o.loads = true) :
    exec (.readServe id) s = .next (s.admitOp o none) := by
  change execReadServe id s = _
  unfold execReadServe
  rw [ho]
  dsimp only
  rw [hr, hl]
  rfl

theorem admit_waits (hr : o.ready s = true) {ch : Fin 256} (ht : tokenShort s o none = some ch) :
    (o.writes = true → Runs (.writePerform id) s (s.waitToken o ch)) ∧
    (o.loads = true → Runs (.readServe id) s (s.waitToken o ch)) := by
  have hadmit : s.admitOp o none = s.waitToken o ch := by
    unfold State.admitOp
    rw [ht]
  rw [← hadmit]
  exact ⟨fun hw => writePerform_exec ho hr hw, fun hl => readServe_exec ho hr hl⟩

theorem unready_stays (hr : o.ready s = false) : Runs (.writePerform id) s s ∧ Runs (.readServe id) s s := by
  constructor
  · change execWritePerform id s = _
    unfold execWritePerform
    rw [ho]
    dsimp only
    rw [hr]
    rfl
  · change execReadServe id s = _
    unfold execReadServe
    rw [ho]
    dsimp only
    rw [hr]
    rfl

variable (hr : o.ready s = true) (ht : tokenShort s o none = none)
include hr ht

theorem write_performs (hw : o.writes = true) : exec (.writePerform id) s = .next ((s.performWrite o).homeDone o) := by
  rw [writePerform_exec ho hr hw]
  unfold State.admitOp
  rw [ht]
  unfold State.atHome
  dsimp only
  rw [hw]
  rfl

theorem read_serves (hl : o.loads = true) (hw : o.writes = false) : exec (.readServe id) s = .next (s.serveRead o) := by
  rw [readServe_exec ho hr hl]
  unfold State.admitOp
  rw [ht]
  unfold State.atHome
  dsimp only
  rw [hw]
  rfl

end

/-! ### Effects at the home -/

/-- An answered access carries its answer. -/
theorem answered_mem {s u : State} {o : MemOp} {v : Word} {clk : Clk} (ho : o ∈ s.memq) (hu : u.memq = s.memq) :
    ∃ p ∈ (u.answerOp o.id v clk).memq, p.id = o.id ∧ p.result = some (v, clk) := by
  refine ⟨{ o with result := some (v, clk) }, ?_, rfl, rfl⟩
  have hmap := List.mem_map_of_mem (f := fun p : MemOp => if p.id = o.id then { p with result := some (v, clk) } else p)
    (hu ▸ ho : o ∈ u.memq)
  rw [if_pos rfl] at hmap
  exact hmap

section
variable {s : State} {id : Nat} {o : MemOp} (hw : o.win = none) (hf : sideFault s o.tag o.dpa o.side = none)

theorem State.atLine_memorySide (s : State) (o : MemOp) : OnlyMemorySide s (s.atLine o) :=
  (s.applyLine_memorySide o.dpa).trans (State.access_memorySide _ _ _ _ _)

include hf in
theorem sound_at : (if o.tape.isSome || o.win.isSome then none else sideFault s o.tag o.dpa o.side) = none := by
  split
  · rfl
  · exact hf

include hw hf

/-- A store that finds its line sound. -/
theorem performWrite_store {bs : List Byte} (hk : o.kind = .store bs) (htape : o.tape = none) :
    s.performWrite o = ((s.atLine o).homePut o bs).dropOp o.id := by
  unfold State.performWrite
  dsimp only
  rw [hk, sound_at hf, hw]
  dsimp only
  unfold State.writeTape
  rw [htape]
  rfl

/-- An atomic that answers and finds its line sound. -/
theorem performWrite_amo {op : AmoOp} {w32 comm : Bool} {b : Word} (hk : o.kind = .amo op w32 b true comm) :
    s.performWrite o = ((s.atLine o).modify o (atomWidth w32) fun old => amoNew op (8 * atomWidth w32) old b.toNat).answerOp o.id
      (extend (atomWidth w32) w32 ((s.atLine o).homeLE o (atomWidth w32))) s.perf[o.home] := by
  have hperf : ((s.atLine o).modify o (atomWidth w32) fun old => amoNew op (8 * atomWidth w32) old b.toNat).perf = s.perf :=
    ((s.atLine_memorySide o).trans (State.put_memorySide _ _ _ _ _)).perf
  unfold State.performWrite
  dsimp only
  rw [hk, sound_at hf]
  dsimp only
  rw [hperf]
  simp

theorem performWrite_cas {w32 : Bool} {b e : Word} (hk : o.kind = .cas w32 b e) :
    s.performWrite o = ((s.atLine o).modify o (atomWidth w32) fun old =>
        if old = e.toNat % 2 ^ (8 * atomWidth w32) then b.toNat % 2 ^ (8 * atomWidth w32) else old).answerOp o.id
      (extend (atomWidth w32) w32 ((s.atLine o).homeLE o (atomWidth w32))) s.perf[o.home] := by
  have hperf : ((s.atLine o).modify o (atomWidth w32) fun old =>
      if old = e.toNat % 2 ^ (8 * atomWidth w32) then b.toNat % 2 ^ (8 * atomWidth w32) else old).perf = s.perf :=
    ((s.atLine_memorySide o).trans (State.put_memorySide _ _ _ _ _)).perf
  unfold State.performWrite
  dsimp only
  rw [hk, sound_at hf]
  dsimp only
  rw [hperf]

theorem serveRead_load {len : Nat} {sx : Bool} (hk : o.kind = .load len sx) :
    s.serveRead o = (s.atLine o).answerOp o.id (extend len sx ((s.atLine o).homeLE o len)) s.perf[o.home] := by
  unfold State.serveRead
  dsimp only
  rw [hk, hw, hf]
  dsimp only
  rw [(s.atLine_memorySide o).perf]

end

section
variable {s : State} {id : Nat} {o : MemOp} (ho : memOpOf s id = some o) (hr : o.ready s = true)
  (ht : tokenShort s o none = none) (hw : o.win = none)
include ho hr ht hw

section
variable (hf : sideFault s o.tag o.dpa o.side = none)
include hf

theorem store_performed {bs : List Byte} (hk : o.kind = .store bs) (htape : o.tape = none) : RunsTo (.writePerform id) s fun t =>
    t.memq = s.memq.filter (·.id ≠ o.id) ∧ StoredFor (s.atLine o) t o.tag o.dpa o.side bs := by
  have hexec := write_performs ho hr ht (by unfold MemOp.writes; rw [hk])
  rw [performWrite_store hw hf hk htape] at hexec
  refine ⟨_, hexec, ?_, ?_⟩
  · rw [State.homeDone_memq]
    exact congrArg (List.filter _) ((s.atLine_memorySide o).trans (State.put_memorySide _ _ _ _ _)).memq
  · exact (State.put_storedFor (s.atLine o) o.tag o.dpa bs o.side).of_eq (State.homeDone_mem _ o) (State.homeDone_l2 _ o)

/-- An atomic that answers: its new value is stored, its old one answered. -/
theorem answer_performed {n : Nat} {f : Nat → Nat} {v : Word} {clk : Clk} (hwrites : o.writes = true)
    (hp : s.performWrite o = ((s.atLine o).modify o n f).answerOp o.id v clk) : RunsTo (.writePerform id) s fun t =>
      (∃ p ∈ t.memq, p.id = o.id ∧ p.result = some (v, clk)) ∧
      StoredFor (s.atLine o) t o.tag o.dpa o.side (natToBytes n (f ((s.atLine o).lookLE o.tag o.dpa n o.side))) := by
  have hexec := write_performs ho hr ht hwrites
  rw [hp] at hexec
  refine ⟨_, hexec, ?_, ?_⟩
  · rw [State.homeDone_memq]
    exact answered_mem (memOpOf_mem ho) ((s.atLine_memorySide o).trans (State.put_memorySide _ _ _ _ _)).memq
  · exact (State.put_storedFor (s.atLine o) o.tag o.dpa _ o.side).of_eq (State.homeDone_mem _ o) (State.homeDone_l2 _ o)

theorem load_served {len : Nat} {sx : Bool} (hk : o.kind = .load len sx) : RunsTo (.readServe id) s fun t =>
    SameMemory (s.atLine o) t ∧ ∃ p ∈ t.memq, p.id = o.id ∧
      p.result = some (extend len sx ((s.atLine o).lookLE o.tag o.dpa len o.side), s.perf[o.home]) := by
  have hexec := read_serves ho hr ht (by unfold MemOp.loads; rw [hk]) (by unfold MemOp.writes; rw [hk])
  rw [serveRead_load hw hf hk] at hexec
  exact ⟨_, hexec, SameMemory.of_eq rfl rfl, answered_mem (memOpOf_mem ho) (s.atLine_memorySide o).memq⟩

end

/-- A store that finds its line failed is not performed. -/
theorem store_fails {bs : List Byte} {f : Cause} (hf : sideFault s o.tag o.dpa o.side = some f) (htape : o.tape = none)
    (hk : o.kind = .store bs) (hrun : (s.coreAt o.core).run ≠ .stopped) : RunsTo (.writePerform id) s fun t =>
      SameMemory s t ∧ t.memq = s.memq.filter (·.id ≠ o.id) ∧
        (t.coreAt o.core).late = (s.coreAt o.core).late ++ [(f, o.va)] := by
  have hexec := write_performs ho hr ht (by unfold MemOp.writes; rw [hk])
  have hp : s.performWrite o = s.reportLate o f := by
    unfold State.performWrite
    dsimp only
    rw [hk, if_neg (by rw [htape, hw]; exact Bool.false_ne_true), hf, hw]
  have hself : (s.reportLate o f).coreAt o.core =
      { s.coreAt o.core with late := (s.coreAt o.core).late ++ [(f, o.va)] } :=
    (s.dropOp o.id).coreAt_mapCore o.core fun k => { k with late := k.late ++ [(f, o.va)] }
  rw [hp] at hexec
  refine ⟨_, hexec, SameMemory.of_eq (State.homeDone_mem _ o) (State.homeDone_l2 _ o), State.homeDone_memq _ o, ?_⟩
  rw [State.homeDone_running (by rw [hself]; exact hrun), hself]

end

/-! ### Data at the core -/

/-- What a delivery writes: nothing where the access has failed. -/
def deliveredValue (v : Word) : Option Cause → Option Word
  | none => some v
  | some .windowCode => some v
  | some _ => none

theorem Core.deliver_found {k : Core} {id : Nat} {v : Word} {clk : Clk} {bad : Option Cause} {l : Load}
    (h : k.loads.find? (·.id = id) = some l) : k.deliver id v clk bad =
      { k.setBank l.level ⟨(k.bank l.level).takes.map (deliverTake l.seq (deliveredValue v bad)),
          (k.bank l.level).x.map (deliverReg id (deliveredValue v bad))⟩ with
        loads := k.loads.map fun e => if e.id = id then { e with data := some v, clk := clk, err := bad } else e } := by
  unfold Core.deliver
  rw [h]
  rfl

theorem Core.bank_withLoads (k : Core) (l : Level) (ls : List Load) : ({ k with loads := ls } : Core).bank l = k.bank l := by
  cases l <;> rfl

theorem Core.setBank_run (k : Core) (l : Level) (b : Bank) : (k.setBank l b).run = k.run := by
  cases l <;> rfl

/-- A delivery leaves how the core runs. -/
theorem Core.deliver_run (k : Core) (id : Nat) (v : Word) (clk : Clk) (bad : Option Cause) : (k.deliver id v clk bad).run = k.run := by
  unfold Core.deliver
  split
  · rfl
  · exact k.setBank_run _ _

theorem loadDataArrive_delivers {s : State} {id : Nat} {o : MemOp} (ho : memOpOf s id = some o) {v : Word} {clk : Clk} {l : Load}
    (hres : o.result = some (v, clk)) (hbad : o.bad = none) (hrun : (s.coreAt o.core).run ≠ .stopped)
    (hl : (s.coreAt o.core).loads.find? (·.id = o.id) = some l) : RunsTo (.loadDataArrive o.core id) s fun t =>
      t.memq = s.memq.filter (·.id ≠ o.id) ∧ SameMemory s t ∧ OtherThan s t o.core ∧
      ((t.coreAt o.core).bank l.level).takes = ((s.coreAt o.core).bank l.level).takes.map (fun e =>
        if e.seq = l.seq ∧ e.load.isSome then { e with val := v, load := none } else e) := by
  have hself : ((s.dropOp o.id).mapCore o.core fun k => k.deliver o.id v clk none).coreAt o.core =
      (s.coreAt o.core).deliver o.id v clk none := State.coreAt_mapCore _ _ _
  have hexec : exec (.loadDataArrive o.core id) s = .next ((s.dropOp o.id).mapCore o.core fun k => k.deliver o.id v clk none) := by
    change execLoadDataArrive o.core id s = _
    unfold execLoadDataArrive
    rw [ho]
    dsimp only
    unfold State.deliverOp
    rw [if_pos rfl, hres, hbad]
    dsimp only
    rw [State.rouse_running (by rw [hself, Core.deliver_run]; exact hrun)]
  refine ⟨_, hexec, rfl, SameMemory.of_eq rfl rfl, fun d hd => State.coreAt_mapCore_ne _ _ hd, ?_⟩
  rw [hself, Core.deliver_found hl, Core.bank_withLoads, Core.bank_setBank]
  rfl

/-! ### Failed lines and words (R21-R23, R417) -/

theorem SMap.get_set_of_ne {α : Type} [DecidableEq α] {d v : α} (h : v ≠ d) (m : SMap α) (k : Nat) :
    SMap.get d (SMap.set d m k v) k = v := by
  unfold SMap.set
  rw [if_neg h]
  exact SMap.get_insert_self d m k v

theorem peekByte_of_same {s t : State} (hm : t.mem = s.mem)
    (hl : ∀ tag line, (t.l2At tag line).map L2Line.data = (s.l2At tag line).map L2Line.data) : SameMemory s t := by
  intro a
  refine ⟨by rw [hm], fun tag => ?_⟩
  have hat := hl tag (a / 64)
  unfold State.peekByte
  rw [hm]
  cases ht : t.l2At tag (a / 64) with
  | none =>
    rw [ht] at hat
    rw [Option.map_eq_none_iff.1 hat.symm]
  | some e =>
    rw [ht] at hat
    obtain ⟨e', he', hdata⟩ := Option.map_eq_some_iff.1 hat.symm
    rw [he']
    dsimp only
    rw [hdata]

/-- The cause that a line's code stands for. -/
def codeCause : Nat → Option Cause
  | 0 => none
  | 1 => some .uncorrectable
  | _ => some .checkFail

section
variable (s : State) (tag dpa code : Nat)

/-- L2 with the line of a tag marked as failed. -/
theorem State.failLine_l2At (t line : Nat) (h : (s.l2At tag (dpa / 64)).isSome = true) :
    (s.failLine tag dpa code).l2At t line = (s.l2At t line).map fun e =>
      if e.tag = tag ∧ e.win = none ∧ e.line = dpa / 64 then { e with bad := code } else e := by
  unfold State.failLine
  rw [if_pos h]
  unfold State.l2At
  dsimp only
  rw [List.find?_map]
  congr 2
  funext e
  dsimp only [Function.comp]
  split <;> rfl

theorem State.failLine_memory : SameMemory s (s.failLine tag dpa code) := by
  by_cases h : (s.l2At tag (dpa / 64)).isSome = true
  · refine peekByte_of_same ?_ fun t line => ?_
    · unfold State.failLine
      rw [if_pos h]
    · rw [s.failLine_l2At tag dpa code t line h, Option.map_map]
      congr 1
      funext e
      dsimp only [Function.comp]
      split <;> rfl
  · unfold State.failLine
    rw [if_neg h]
    exact SameMemory.of_eq rfl rfl

/-- What a tag sees of a line that has failed. -/
theorem tagFault_failLine (h0 : code ≠ 0) : tagFault (s.failLine tag dpa code) tag dpa = codeCause code := by
  unfold tagFault
  by_cases h : (s.l2At tag (dpa / 64)).isSome = true
  · rw [s.failLine_l2At tag dpa code tag (dpa / 64) h]
    obtain ⟨e, he⟩ := Option.isSome_iff_exists.1 h
    have hprop := List.find?_some he
    simp only [Bool.and_eq_true, decide_eq_true_eq] at hprop
    obtain ⟨⟨htag, hwin⟩, hline⟩ := hprop
    rw [he, Option.map_some, if_pos ⟨htag, hwin, hline⟩]
    rfl
  · have hat : (s.failLine tag dpa code).l2At tag (dpa / 64) = none := by
      unfold State.failLine
      rw [if_neg h]
      exact Option.not_isSome_iff_eq_none.1 h
    rw [hat]
    unfold State.failLine lineFault
    rw [if_neg h]
    dsimp only
    rw [SMap.get_set_of_ne h0]
    rfl

end

/-- The code of a failed line and its cause. -/
def failCode (why : LateFault) : Nat := if why = .uncorrectable then 1 else 2

section
variable {s : State} {o : MemOp} {why : LateFault} (hwhy : why = .uncorrectable ∨ why = .checkFail)

theorem State.failOp_memory (s : State) (o : MemOp) (code : Nat) : SameMemory s (s.failOp o code) := by
  unfold State.failOp
  split
  · split
    · exact SameMemory.of_eq rfl rfl
    · exact s.failLine_memory _ _ _
  · split
    · exact SameMemory.of_eq rfl rfl
    · exact SameMemory.refl s

theorem State.failOp_only (s : State) (o : MemOp) (code : Nat) :
    ({ s.failOp o code with l2 := s.l2, badLines := s.badLines } : State) = s := by
  unfold State.failOp State.failLine
  split
  · split
    · rfl
    · split <;> rfl
  · split <;> rfl

include hwhy

theorem failCode_cause : failCode why ≠ 0 ∧ codeCause (failCode why) = some (LateFault.cause why) := by
  rcases hwhy with rfl | rfl
  · exact ⟨by decide, rfl⟩
  · exact ⟨by decide, rfl⟩

theorem sideFault_failOp (hw : o.win = none) :
    sideFault (s.failOp o (failCode why)) o.tag o.dpa o.side = some (LateFault.cause why) := by
  obtain ⟨h0, hcause⟩ := failCode_cause hwhy
  unfold State.failOp sideFault
  rw [hw]
  dsimp only
  cases o.side with
  | true =>
    rw [if_pos rfl, if_pos rfl]
    unfold lineFault
    dsimp only
    rw [SMap.get_set_of_ne h0]
    exact hcause
  | false =>
    rw [if_neg Bool.false_ne_true, if_neg Bool.false_ne_true, tagFault_failLine _ _ _ _ h0]
    exact hcause

omit hwhy in
theorem sideFault_congr {s t : State} (hl : t.l2 = s.l2) (hb : t.badLines = s.badLines) (tag dpa : Nat) (side : Bool) :
    sideFault t tag dpa side = sideFault s tag dpa side := by
  unfold sideFault tagFault lineFault State.l2At
  rw [hl, hb]

omit hwhy in
/-- An access that has failed answers with its cause. -/
theorem memOpOf_answerBad {s : State} {id : Nat} {o : MemOp} (ho : memOpOf s id = some o) (c : Cause) (clk : Clk) :
    memOpOf (s.answerBad id c clk) id = some { o with result := some (0, clk), bad := some c } := by
  have hid := memOpOf_id ho
  have hfind : ∀ (f : MemOp → MemOp) (l : List MemOp), (∀ p, (f p).id = p.id) →
      (l.map f).find? (·.id = id) = (l.find? (·.id = id)).map f := fun f l hf => by
    rw [List.find?_map]
    congr 2
    funext p
    exact congrArg (fun n => decide (n = id)) (hf p)
  unfold memOpOf State.answerBad State.answerOp State.markBad
  dsimp only
  rw [hfind _ _ fun p => by split <;> rfl, hfind _ _ fun p => by split <;> rfl,
    show s.memq.find? (·.id = id) = some o from ho, Option.map_some, Option.map_some, if_pos hid, if_pos hid]

variable {id : Nat} (ho : memOpOf s id = some o) (hpath : o.onPath = false) (hres : o.result = none)
  (hrun : (s.coreAt o.core).run ≠ .stopped)

theorem report_exec (hpath : o.onPath = false) (hres : o.result = none) (ho : memOpOf s id = some o) :
    exec (.uncorrectableReport o.core id why) s = .next (
      if o.returns then
        (match memOpOf ((s.failOp o (failCode why)).answerBad id (LateFault.cause why) s.perf[o.home]) id with
          | some p => ((s.failOp o (failCode why)).answerBad id (LateFault.cause why) s.perf[o.home]).deliverOp p
          | none => (s.failOp o (failCode why)).answerBad id (LateFault.cause why) s.perf[o.home]).rouse o.core
      else ((s.failOp o (failCode why)).reportLate o (LateFault.cause why)).rouse o.core) := by
  have hperf : (s.failOp o (failCode why)).perf = s.perf := (congrArg State.perf (s.failOp_only o (failCode why)) :)
  rw [← hperf]
  change execUncorrectableReport o.core id why s = _
  unfold execUncorrectableReport
  dsimp only
  rcases hwhy with rfl | rfl
  · rw [ho]
    dsimp only
    rw [if_neg (by simp [hpath, hres])]
    rfl
  · rw [ho]
    dsimp only
    rw [if_neg (by simp [hpath, hres])]
    rfl

include ho hpath hres hrun

/-- A failed access that answers. -/
theorem report_answers (hret : o.returns = true) : exec (.uncorrectableReport o.core id why) s = .next
    ((((s.failOp o (failCode why)).answerBad id (LateFault.cause why) s.perf[o.home]).dropOp o.id).mapCore o.core fun k =>
      k.deliver o.id 0 s.perf[o.home] (some (LateFault.cause why))) := by
  have hcores : (s.failOp o (failCode why)).cores = s.cores := (congrArg State.cores (s.failOp_only o (failCode why)) :)
  have hmemq : (s.failOp o (failCode why)).memq = s.memq := (congrArg State.memq (s.failOp_only o (failCode why)) :)
  have hop : memOpOf (s.failOp o (failCode why)) id = some o := by
    unfold memOpOf
    rw [hmemq]
    exact ho
  rw [report_exec hwhy hpath hres ho, if_pos hret, memOpOf_answerBad hop]
  dsimp only
  unfold State.deliverOp
  dsimp only
  rw [State.rouse_running]
  rw [State.coreAt_mapCore, Core.deliver_run]
  change ((s.failOp o (failCode why)).cores[o.core]).run ≠ .stopped
  rw [hcores]
  exact hrun

/-- One that does not. -/
theorem report_late (hret : o.returns = false) : exec (.uncorrectableReport o.core id why) s = .next
    (((s.failOp o (failCode why)).dropOp o.id).mapCore o.core fun k =>
      { k with late := k.late ++ [(LateFault.cause why, o.va)] }) := by
  have hcores : (s.failOp o (failCode why)).cores = s.cores := (congrArg State.cores (s.failOp_only o (failCode why)) :)
  rw [report_exec hwhy hpath hres ho, if_neg (by rw [hret]; exact Bool.false_ne_true)]
  unfold State.reportLate
  rw [State.rouse_running]
  rw [State.coreAt_mapCore]
  change ((s.failOp o (failCode why)).cores[o.core]).run ≠ .stopped
  rw [hcores]
  exact hrun

omit hwhy ho hpath hres hrun in
theorem failOp_coreAt (c : Fin 256) (code : Nat) : (s.failOp o code).coreAt c = s.coreAt c :=
  congrArg (fun v : Vector Core 256 => v[c]) (congrArg State.cores (s.failOp_only o code) :)

omit hwhy ho hpath hres hrun in
/-- A state with the memory of one in which the access's line has failed. -/
theorem failed_memory {w t : State} {code : Nat} (h : w = s.failOp o code) (hm : t.mem = w.mem) (hl : t.l2 = w.l2) :
    SameMemory s t := by
  subst h
  exact (s.failOp_memory o code).trans (SameMemory.of_eq hm hl)

theorem report_answers_ends (hret : o.returns = true) : RunsTo (.uncorrectableReport o.core id why) s fun t => SameMemory s t ∧
    (o.win = none → sideFault t o.tag o.dpa o.side = some (LateFault.cause why)) ∧
    ∀ l, (s.coreAt o.core).loads.find? (·.id = o.id) = some l →
      ∃ l' ∈ (t.coreAt o.core).loads, l'.id = o.id ∧ l'.err = some (LateFault.cause why) := by
  have hat := failOp_coreAt (s := s) (o := o) o.core (failCode why)
  have hexec := report_answers hwhy ho hpath hres hrun hret
  have hfault := fun hw => sideFault_failOp (s := s) (o := o) hwhy hw
  generalize hv : s.failOp o (failCode why) = w at *
  refine ⟨_, hexec, failed_memory hv.symm rfl rfl, fun hw => (sideFault_congr (s := w) rfl rfl _ _ _).trans (hfault hw),
    fun l hl => ?_⟩
  rw [State.coreAt_mapCore]
  change ∃ l' ∈ ((w.coreAt o.core).deliver o.id 0 s.perf[o.home] (some (LateFault.cause why))).loads, _
  rw [hat, Core.deliver_found hl]
  have hid : l.id = o.id := by simpa using List.find?_some hl
  have hin := List.mem_map_of_mem (f := fun e : Load => if e.id = o.id then
    { e with data := some 0, clk := s.perf[o.home], err := some (LateFault.cause why) } else e) (List.mem_of_find?_eq_some hl)
  rw [if_pos hid] at hin
  exact ⟨_, hin, hid, rfl⟩

theorem report_late_ends (hret : o.returns = false) : RunsTo (.uncorrectableReport o.core id why) s fun t => SameMemory s t ∧
    (o.win = none → sideFault t o.tag o.dpa o.side = some (LateFault.cause why)) ∧
    (t.coreAt o.core).late = (s.coreAt o.core).late ++ [(LateFault.cause why, o.va)] := by
  have hat := failOp_coreAt (s := s) (o := o) o.core (failCode why)
  have hexec := report_late hwhy ho hpath hres hrun hret
  have hfault := fun hw => sideFault_failOp (s := s) (o := o) hwhy hw
  generalize hv : s.failOp o (failCode why) = w at *
  refine ⟨_, hexec, failed_memory hv.symm rfl rfl, fun hw => (sideFault_congr (s := w) rfl rfl _ _ _).trans (hfault hw), ?_⟩
  rw [State.coreAt_mapCore]
  exact congrArg (fun k : Core => k.late ++ [(LateFault.cause why, o.va)]) hat

theorem report_ends : RunsTo (.uncorrectableReport o.core id why) s fun t => SameMemory s t ∧
    (o.win = none → sideFault t o.tag o.dpa o.side = some (LateFault.cause why)) ∧
    (o.returns = false → (t.coreAt o.core).late = (s.coreAt o.core).late ++ [(LateFault.cause why, o.va)]) ∧
    (o.returns = true → ∀ l, (s.coreAt o.core).loads.find? (·.id = o.id) = some l →
      ∃ l' ∈ (t.coreAt o.core).loads, l'.id = o.id ∧ l'.err = some (LateFault.cause why)) := by
  cases hret : o.returns with
  | true =>
    obtain ⟨t, hexec, hmem, hfault, hload⟩ := report_answers_ends hwhy ho hpath hres hrun hret
    exact ⟨t, hexec, hmem, hfault, fun h => (by cases h), fun _ => hload⟩
  | false =>
    obtain ⟨t, hexec, hmem, hfault, hlate⟩ := report_late_ends hwhy ho hpath hres hrun hret
    exact ⟨t, hexec, hmem, hfault, fun _ => hlate, fun h => (by cases h)⟩

end

/-- A word of a core's arrays has failed. -/
theorem word_fails (s : State) (id : Nat) (c : Fin 256) {a : CoreArray} {n : Fin 8192} (hn : n.val < CoreArray.words a)
    (ha : a ≠ .shadow) : RunsTo (.uncorrectableReport c id (.word a n)) s fun t => SameMemory s t ∧ OtherThan s t c ∧
      (t.coreAt c).failedWord a (4 * n.val) 4 = some (4 * n.val) := by
  have hexec : exec (.uncorrectableReport c id (.word a n)) s = .next (s.mapCore c fun k => k.failWord a n.val) := by
    change Host.Outcome.next (s.failWord c a n.val) = _
    unfold State.failWord
    rw [if_neg (by omega), if_neg ha]
  refine ⟨_, hexec, SameMemory.of_eq rfl rfl, fun d hd => State.coreAt_mapCore_ne _ _ hd, ?_⟩
  rw [State.coreAt_mapCore]
  unfold Core.failedWord Core.failWord
  dsimp only
  rw [List.find?_cons_of_pos (by simp)]
  rfl

/-- A wait for a token that ends. -/
theorem tokenWaitEnd_runs {s : State} {id : Nat} {o : MemOp} (ho : memOpOf s id = some o) {ch : Fin 256} {part : Fin 16}
    {since : Nat} (h : tokenTurn s ch (part.val + 1) = some (id, since)) :
    let u := (s.updQos ch (part.val + 1) fun q => { q with waiting := q.waiting.drop 1 }).countCtx o.launch o.core 9
      (s.cycle - since)
    Runs (.tokenWaitEnd ch part) s (match tokenShort u o (some ch) with
      | some x => u.waitToken o x
      | none => if o.writes then u.perform o else u.serveRead o) := by
  intro u
  change execTokenWaitEnd ch part s = _
  unfold execTokenWaitEnd
  dsimp only
  rw [show partNo part = part.val + 1 from rfl, h]
  dsimp only
  rw [show memOpOf (s.updQos ch (part.val + 1) fun q => { q with waiting := q.waiting.drop 1 }) id = some o from ho]
  rfl

/-- Settles O40, an access at a time. -/
theorem homesPerformServeAndAnswer : Obligations.HomesPerformServeAndAnswer := by
  unfold Obligations.HomesPerformServeAndAnswer
  intro s id o ho u
  refine ⟨fun hr ch => admit_waits ho hr, unready_stays ho, fun hr ht hw hf => ⟨fun bs => store_performed ho hr ht hw hf, ?_, ?_,
      fun len sx => load_served ho hr ht hw hf⟩, fun hr ht f hf hw htape bs hk hrun => store_fails ho hr ht hw hf htape hk hrun,
    fun v clk l hres hbad hrun => loadDataArrive_delivers ho hres hbad hrun, fun why hwhy hpath hres hrun =>
      report_ends hwhy ho hpath hres hrun, fun c a n hn ha => word_fails s id c hn ha, fun ch part since => tokenWaitEnd_runs ho⟩
  · intro op w32 b comm hk n old
    exact answer_performed ho hr ht hw hf (by unfold MemOp.writes; rw [hk]) (performWrite_amo hw hf hk)
  · intro w32 b e hk n old
    exact answer_performed ho hr ht hw hf (by unfold MemOp.writes; rw [hk]) (performWrite_cas hw hf hk)

end Sys2Proof.Machine
end

section
/-! The steps of the memory side beside the homes (R23, R115, R144, R161-R165, R171, R201, R330, R331, R363-R365, R369-R371,
R381). -/

namespace Sys2Proof.Machine

/-! ### Broadcasts, combining entries, open rows -/

theorem perfBroadcast_shows (s : State) (d : Fin 4) : RunsTo (.perfBroadcast d) s fun t =>
    (∀ e : Fin 4, (t.perf[e])[d] = performedPrefix s d) ∧ (∀ e f : Fin 4, f ≠ d → (t.perf[e])[f] = (s.perf[e])[f]) ∧
      SameMemory s t := by
  refine ⟨_, rfl, fun e => ?_, fun e f hf => ?_, SameMemory.of_eq rfl rfl⟩
  · unfold State.broadcast
    simp
  · have hne : d.val ≠ f.val := fun h => hf (Fin.ext h.symm)
    unfold State.broadcast
    simp [hne]

/-- Neither a byte of a channel nor a combining entry differs. -/
def KeepsEntries (s t : State) : Prop := t.mem = s.mem ∧ t.comb = s.comb

theorem KeepsEntries.trans {s t u : State} (h : KeepsEntries s t) (h' : KeepsEntries t u) : KeepsEntries s u :=
  ⟨h'.1.trans h.1, h'.2.trans h.2⟩

theorem KeepsEntries.ite {s t u : State} {c : Prop} [Decidable c] (ht : KeepsEntries s t) (hu : KeepsEntries s u) :
    KeepsEntries s (if c then t else u) := by
  split
  · exact ht
  · exact hu

section
variable (s : State)

theorem KeepsEntries.refl : KeepsEntries s s := ⟨rfl, rfl⟩

theorem State.meter_entries (part : Nat) (m : Fin 16) (n : Nat) : KeepsEntries s (s.meter part m n) := by
  unfold State.meter
  split
  · split
    · exact .refl s
    · exact ⟨rfl, rfl⟩
  · exact .refl s

theorem State.note_entries {q : Req} (hq : q.ctx = none) (ev : Fin 16) (n : Nat) : KeepsEntries s (s.note q ev n) := by
  unfold State.note
  rw [hq]
  exact .refl s

theorem State.noteWindow_entries (ch : Fin 256) : KeepsEntries s (s.noteWindow ch) := by
  unfold State.noteWindow
  split
  · exact .ite ⟨rfl, rfl⟩ (.refl s)
  · exact .refl s

theorem State.channelUse_entries (dpa part : Nat) (rd : Bool) : KeepsEntries s (s.channelUse dpa part rd) := by
  unfold State.channelUse
  extract_lets ch used slow
  have hused : KeepsEntries s used := KeepsEntries.trans ⟨rfl, rfl⟩ (State.noteWindow_entries _ ch)
  exact .ite (hused.trans (.ite ⟨rfl, rfl⟩ (.refl used))) (.ite (hused.trans ⟨rfl, rfl⟩) hused)

theorem State.correctRead_entries {q : Req} (hq : q.ctx = none) (dpa : Nat) : KeepsEntries s (s.correctRead q dpa) :=
  .ite (KeepsEntries.trans ⟨rfl, rfl⟩ (State.note_entries _ hq 14 1)) ⟨rfl, rfl⟩

theorem State.hbmRead_entries {q : Req} (hq : q.ctx = none) (dpa : Nat) : KeepsEntries s (s.hbmRead q dpa) :=
  (((s.channelUse_entries _ _ _).trans (State.meter_entries _ _ _ _)).trans (State.note_entries _ hq _ _)).trans
    (State.correctRead_entries _ hq _)

theorem State.hbmWrite_entries {q : Req} (hq : q.ctx = none) (dpa : Nat) : KeepsEntries s (s.hbmWrite q dpa) :=
  ((s.channelUse_entries _ _ _).trans (State.meter_entries _ _ _ _)).trans (State.note_entries _ hq _ _)

end

/-- What the application of an entry makes of a memory. -/
def CombEntry.appliedTo (e : CombEntry) (m : Mem) : Mem :=
  match e.key.op with
  | some op => m.writeBytes e.key.dpa (natToBytes (atomWidth e.key.w32)
      (amoNew op (8 * atomWidth e.key.w32) (m.readLE e.key.dpa (atomWidth e.key.w32)) e.val.toNat))
  | none => m

theorem State.applyEntry_entries (s : State) (e : CombEntry) :
    (s.applyEntry e).mem = e.appliedTo s.mem ∧ (s.applyEntry e).comb = s.comb := by
  unfold State.applyEntry CombEntry.appliedTo
  cases e.key.op with
  | none => exact ⟨rfl, rfl⟩
  | some op =>
    have hread := State.hbmRead_entries { s with
      mem := s.mem.writeBytes e.key.dpa (natToBytes (atomWidth e.key.w32)
        (amoNew op (8 * atomWidth e.key.w32) (s.mem.readLE e.key.dpa (atomWidth e.key.w32)) e.val.toNat)) }
      (q := ⟨0, e.key.part, none, .no⟩) rfl e.key.dpa
    exact hread.trans (State.hbmWrite_entries _ (q := ⟨0, e.key.part, none, .no⟩) rfl e.key.dpa)

theorem foldl_applyEntry (es : List CombEntry) (s : State) :
    (es.foldl State.applyEntry s).mem = es.foldl (fun m e => e.appliedTo m) s.mem ∧
      (es.foldl State.applyEntry s).comb = s.comb := by
  induction es generalizing s with
  | nil => exact ⟨rfl, rfl⟩
  | cons e es ih =>
    obtain ⟨hm, hc⟩ := s.applyEntry_entries e
    obtain ⟨ihm, ihc⟩ := ih (s.applyEntry e)
    exact ⟨ihm.trans (by rw [hm]; rfl), ihc.trans hc⟩

theorem combiningEntryApply_applies (s : State) (ch : Fin 256) : RunsTo (.combiningEntryApply ch) s fun t =>
    (∀ e ∈ t.comb[ch], s.cycle < e.since + combineAge) ∧
      t.mem = ((s.comb[ch]).filter fun e => decide (e.since + combineAge ≤ s.cycle)).foldl (fun m e => e.appliedTo m) s.mem := by
  refine ⟨_, rfl, fun e he => ?_, ?_⟩
  · unfold State.applyCombined at he
    dsimp only at he
    rw [(foldl_applyEntry _ _).2] at he
    have hin : e ∈ (s.comb[ch]).filter fun e => !decide (e.since + combineAge ≤ s.cycle) := by simpa using he
    have hage := (List.mem_filter.1 hin).2
    simp only [Bool.not_eq_true', decide_eq_false_iff_not, not_le] at hage
    exact hage
  · exact (foldl_applyEntry _ _).1

/-! ### The pump of a polder -/

theorem polderPumpDone_ends {s u : State} {c : Fin 256} {p : Fin 32} {off : Nat} {lost : List (Fin 1024)}
    (hw : (s.coreAt c).wait = some (.polder p off)) (hp : (s.findLost c p lost).pump c p = .ok u) :
    RunsTo (.polderPumpDone c p lost) s fun t =>
      (t.coreAt c).wait = none ∧ t.mem = u.mem ∧ (t.coreAt c).spad = (u.coreAt c).spad := by
  have hexec : exec (.polderPumpDone c p lost) s = .next (u.mapCore c fun k => { k with wait := none }) := by
    change execPolderPumpDone c p lost s = _
    unfold execPolderPumpDone
    rw [hw]
    dsimp only
    rw [if_neg (fun h => h rfl), hp]
  refine ⟨_, hexec, ?_, rfl, ?_⟩
  · rw [State.coreAt_mapCore]
  · rw [State.coreAt_mapCore]

theorem getD_readBytes (m : Mem) (a n : Nat) {i : Nat} (h : i < n) : (m.readBytes a n).getD i 0 = m.read (a + i) := by
  induction n generalizing a i with
  | zero => omega
  | succ n ih =>
    rw [Mem.readBytes]
    cases i with
    | zero => rfl
    | succ i =>
      rw [List.getD_cons_succ, ih (a + 1) (by omega)]
      congr 1
      omega

/-- The lines of a polder, but those that have failed, at an address. -/
def State.putLines (s : State) (tag a : Nat) (spad : Mem) (p : Nat) (bad : List Nat) (l : List Nat) : State :=
  l.foldl (fun (s : State) i => if bad.contains (1024 * p + i) then s
    else s.poke tag (a + 64 * i) (spad.readBytes (65536 * p + 64 * i) 64)) s

/-- What a tag sees of the place of one line. -/
theorem State.putLines_peek (tag a : Nat) (spad : Mem) (p : Nat) (bad : List Nat) {m i : Nat} (hi : i < 64) (l : List Nat)
    (s : State) : (s.putLines tag a spad p bad l).peekByte tag (a + 64 * m + i) =
      if m ∈ l ∧ bad.contains (1024 * p + m) = false then spad.read (65536 * p + 64 * m + i)
      else s.peekByte tag (a + 64 * m + i) := by
  induction l generalizing s with
  | nil => simp [State.putLines]
  | cons n l ih =>
    unfold State.putLines at ih ⊢
    rw [List.foldl_cons, ih]
    by_cases hl : m ∈ l ∧ bad.contains (1024 * p + m) = false
    · rw [if_pos hl, if_pos ⟨List.mem_cons_of_mem _ hl.1, hl.2⟩]
    · rw [if_neg hl]
      by_cases hn : n = m
      · subst hn
        cases hb : bad.contains (1024 * p + n) with
        | true => simp
        | false =>
          rw [if_neg Bool.false_ne_true, if_pos ⟨List.mem_cons_self, rfl⟩, State.peekByte_poke _ _ _ _ _ _ (.inl rfl),
            Mem.readBytes_length, if_pos (by omega), Nat.add_sub_cancel_left, getD_readBytes _ _ _ hi]
      · have hcons : ¬(m ∈ n :: l ∧ bad.contains (1024 * p + m) = false) :=
          fun h => hl ⟨(List.mem_cons.1 h.1).resolve_left (Ne.symm hn), h.2⟩
        rw [if_neg hcons]
        split
        · rfl
        · rw [State.peekByte_poke _ _ _ _ _ _ (.inl rfl), Mem.readBytes_length, if_neg (by omega)]

theorem State.wakeWfi_flog (s : State) (ev : BitVec 4) : (s.wakeWfi ev).flog = s.flog := by
  unfold State.wakeWfi
  generalize allCores = l
  induction l generalizing s with
  | nil => rfl
  | cons c l ih =>
    refine (ih _).trans ?_
    beta_reduce
    split <;> rfl

theorem State.signal_flog (s : State) (fn : Fn) (v : Nat) : (s.signal fn v).flog = s.flog := by
  unfold State.signal
  split <;> rfl

theorem State.raiseErr_flog (s : State) (fn : Fn) (bit : Nat) : (s.raiseErr fn bit).flog = s.flog := by
  unfold State.raiseErr
  split
  · rfl
  · extract_lets raised woken v
    have hraised : raised.flog = s.flog := rfl
    have hwoken : woken.flog = raised.flog := by
      by_cases h0 : fn = 0
      · rw [show woken = raised.wakeWfi 8 from if_pos h0, State.wakeWfi_flog]
      · rw [show woken = raised from if_neg h0]
    split
    · rw [State.signal_flog, hwoken, hraised]
    · rw [hwoken, hraised]

/-- An entry that H takes heads PF 0's log, marked where entries before it were lost. -/
theorem State.logUnit_enters (s : State) (cause : Cause) (part unit index detail : Nat) (addr : Word) (gang : BitVec 32) :
    ∃ e, ((s.logUnit cause 2 part unit index detail addr gang).flog[(0 : Fn)]).head? = some e ∧
      { e with flags := 2 } = (⟨cause, 2, part, unit, index, detail, s.micros, addr, gang, 0⟩ : FaultEntry) := by
  have hone : ∀ (u : State) (e : FaultEntry), ∃ e', ((u.logOne 0 e).flog[(0 : Fn)]).head? = some e' ∧
      { e' with flags := e.flags } = e := fun u e => by
    unfold State.logOne
    dsimp only
    rw [State.raiseErr_flog]
    refine ⟨_, congrArg List.head? (Vector.getElem_set_self (xs := u.flog) (i := 0) (by decide)), ?_⟩
    split <;> rfl
  unfold State.logUnit State.logFault
  dsimp only
  rw [if_pos (by decide), State.wakeWfi_flog]
  exact hone _ _

theorem State.logUnit_head (s : State) (cause : Cause) (part unit index detail : Nat) (addr : Word) (gang : BitVec 32) :
    ∃ e, ((s.logUnit cause 2 part unit index detail addr gang).flog[(0 : Fn)]).head? = some e ∧ e.cause = cause ∧
      e.addr = addr := by
  obtain ⟨e, hhead, he⟩ := s.logUnit_enters cause part unit index detail addr gang
  exact ⟨e, hhead, (congrArg FaultEntry.cause he :), (congrArg FaultEntry.addr he :)⟩

theorem pumpLines_one (s : State) (c : Fin 256) (l : Launch) (a p n : Nat) (h : failedIn (s.coreAt c) p = [n]) :
    pumpLines s c l a p = (s.putLines l.part a (s.coreAt c).spad p [n] (List.range 1024)).logUnit .uncorrectable 2 l.part 0 c.val
      0x02 (spadInfo (64 * n)) l.gang := by
  unfold pumpLines
  dsimp only
  rw [h]
  rfl

/-- A failed line lies in its polder. -/
theorem failedIn_line {k : Core} {p n : Nat} (h : failedIn k p = [n]) : n = 1024 * p + n % 1024 := by
  have hin : n ∈ failedIn k p := h ▸ List.mem_singleton_self n
  have hp : n / 1024 = p := by simpa using (List.mem_filter.1 hin).2
  omega

theorem pumpLines_leaves (s : State) (c : Fin 256) (l : Launch) (a p n : Nat) (h : failedIn (s.coreAt c) p = [n]) :
    (∀ i < 64, (pumpLines s c l a p).peekByte l.part (a + 64 * (n % 1024) + i) =
      s.peekByte l.part (a + 64 * (n % 1024) + i)) ∧
    (∀ m < 1024, m ≠ n % 1024 → ∀ i < 64,
      (pumpLines s c l a p).peekByte l.part (a + 64 * m + i) = (s.coreAt c).spad.read (65536 * p + 64 * m + i)) ∧
    ∃ e, ((pumpLines s c l a p).flog[(0 : Fn)]).head? = some e ∧ e.cause = .uncorrectable ∧ e.addr = spadInfo (64 * n) := by
  have hline := failedIn_line h
  have hpeek : ∀ x, (pumpLines s c l a p).peekByte l.part x =
      (s.putLines l.part a (s.coreAt c).spad p [n] (List.range 1024)).peekByte l.part x := fun x => by
    rw [pumpLines_one s c l a p n h]
    have hlogs : OnlyLogs _ _ := (s.putLines l.part a (s.coreAt c).spad p [n] (List.range 1024)).logUnit_logs .uncorrectable 2
      l.part 0 c.val 0x02 (spadInfo (64 * n)) l.gang
    exact (SameMemory.of_eq hlogs.mem hlogs.l2 x).2 l.part
  refine ⟨fun i hi => ?_, fun m hm hne i hi => ?_, ?_⟩
  · rw [hpeek, State.putLines_peek _ _ _ _ _ hi, if_neg]
    rw [← hline]
    simp
  · rw [hpeek, State.putLines_peek _ _ _ _ _ hi, if_pos]
    refine ⟨List.mem_range.2 hm, ?_⟩
    have hother : 1024 * p + m ≠ n := by omega
    simp [hother]
  · rw [pumpLines_one s c l a p n h]
    exact State.logUnit_head _ _ _ _ _ _ _ _

/-! ### Streams -/

theorem streamRefill_reads {s : State} {c : Fin 256} {n : Fin 8} (h : refillReady s c n = true) :
    RunsTo (.streamRefill c n) s fun t => OtherThan s t c ∧ SameMemory s t ∧
      let st := (s.coreAt c).streams[n]
      (t.coreAt c).streams[n] = { st with
        moved := st.moved + 1
        next := s.cycle + 1
        buf := st.buf ++ [⟨loadVector (s.coreAt c).spad st st.moved, 0, 0, 0⟩] } := by
  have hexec : exec (.streamRefill c n) s = _ := (if_neg (by rw [h]; exact Bool.false_ne_true) : execStreamRefill c n s = _)
  refine ⟨_, hexec, fun d hd => State.coreAt_mapCore_ne _ _ hd, SameMemory.of_eq rfl rfl, ?_⟩
  rw [State.coreAt_mapCore]
  exact Vector.getElem_set_self _

/-- A core that its stream has been drained of a vector. -/
def Core.drainOne (k : Core) (n : Fin 8) (v : SVec) (rest : List SVec) (cycle : Nat) : Core :=
  (k.storeVector k.streams[n] (k.streams[n]).moved v).setStream n
    { k.streams[n] with moved := (k.streams[n]).moved + 1, next := cycle + 1, buf := rest }

theorem State.rouse_ne (s : State) {c d : Fin 256} (h : d ≠ c) : (s.rouse c).coreAt d = s.coreAt d := by
  unfold State.rouse
  dsimp only
  split
  · exact State.coreAt_mapCore_ne _ _ h
  · rfl

theorem State.rouse_keeps {α : Type} (g : Core → α)
    (hg : ∀ k : Core, g { k with run := .running, stop := some .save, wait := none } = g k) (s : State) (c : Fin 256) :
    g ((s.rouse c).coreAt c) = g (s.coreAt c) := by
  unfold State.rouse
  dsimp only
  split
  · rw [State.coreAt_mapCore]
    exact hg _
  · rfl

theorem streamDrain_writes {s : State} {c : Fin 256} {n : Fin 8} {v : SVec} {rest : List SVec} (h : drainReady s c n = true)
    (hb : ((s.coreAt c).streams[n]).buf = v :: rest) : RunsTo (.streamDrain c n) s fun t =>
      OtherThan s t c ∧ SameMemory s t ∧ (t.coreAt c).spad =
        ((s.coreAt c).storeVector (s.coreAt c).streams[n] ((s.coreAt c).streams[n]).moved v).spad ∧
      ((t.coreAt c).streams[n]).buf = rest ∧ ((t.coreAt c).streams[n]).moved = ((s.coreAt c).streams[n]).moved + 1 := by
  have hmap : (s.setCore c ((s.coreAt c).drainOne n v rest s.cycle)) = s.mapCore c fun k =>
      match (k.streams[n]).buf with
      | v :: rest => k.drainOne n v rest s.cycle
      | [] => k := by
    unfold State.mapCore
    beta_reduce
    rw [hb]
  have hexec : exec (.streamDrain c n) s = .next ((s.setCore c ((s.coreAt c).drainOne n v rest s.cycle)).rouse c) := by
    rw [hmap]
    exact (if_neg (by rw [h]; exact Bool.false_ne_true) : execStreamDrain c n s = _)
  have hself := s.coreAt_setCore c ((s.coreAt c).drainOne n v rest s.cycle)
  have hstream : ((s.coreAt c).drainOne n v rest s.cycle).streams[n] = { (s.coreAt c).streams[n] with
      moved := ((s.coreAt c).streams[n]).moved + 1, next := s.cycle + 1, buf := rest } := Vector.getElem_set_self _
  refine ⟨_, hexec, fun d hd => ?_, ?_, ?_, ?_, ?_⟩
  · rw [State.rouse_ne _ hd, State.coreAt_setCore_ne _ _ hd]
  · exact SameMemory.trans (SameMemory.of_eq rfl rfl)
      (SameMemory.of_eq (congrArg State.mem (State.rouse_only _ c) :) (congrArg State.l2 (State.rouse_only _ c) :))
  · rw [State.rouse_keeps Core.spad fun _ => rfl, hself]
    rfl
  · rw [State.rouse_keeps (fun k => (k.streams[n]).buf) fun _ => rfl, hself, hstream]
  · rw [State.rouse_keeps (fun k => (k.streams[n]).moved) fun _ => rfl, hself, hstream]

/-! ### Commands -/

section
variable {s : State} {c : Fin 256} {g : Fin 64} {m : EngCmd}

theorem copyComplete_runs {e : EngineEnd}
    (h : (s.cmds.filter fun m => m.core = c && m.canRun s).find? (·.tag = some g) = some m ∨
      (s.cmds.filter fun m => m.core = c && m.canRun s).find? (·.tag = some g) = none ∧
        (s.cmds.filter fun m => m.core = c && m.canRun s).find? (·.tag.isNone) = some m) :
    Runs (.copyComplete c g e) s (match e with
      | .ok => s.runCmd { m with waitAt := none }
      | .uncorrectable b => (s.failSource { m with waitAt := none } b 1).runCmd { m with waitAt := none }
      | .checkFail b => (s.failSource { m with waitAt := none } b 2).runCmd { m with waitAt := none }
      | .aborted => s.finishCmd { m with waitAt := none } stAborted ({ m with waitAt := none } : EngCmd).bar) := by
  have hfind : ((s.cmds.filter fun m => m.core = c && m.canRun s).find? (·.tag = some g) <|>
      (s.cmds.filter fun m => m.core = c && m.canRun s).find? (·.tag.isNone)) = some m := by
    rcases h with h | ⟨h, h'⟩
    · rw [h]
      rfl
    · rw [h, h']
      rfl
  change execCopyComplete c g e s = _
  unfold execCopyComplete
  dsimp only
  rw [hfind]
  cases e <;> rfl

theorem parkedRetry_runs (h : s.cmds.find? (fun m => m.core = c && m.tag = some g && m.parked && m.ready s) = some m) :
    Runs (.parkedRetry c g) s (if isFabric m.op then s.injectNext m else s.runCmd { m with waitAt := none }) := by
  change execParkedRetry c g s = _
  unfold execParkedRetry
  rw [h]

theorem State.wakeYield_only (s : State) (c : Fin 256) (why : YieldWhy) :
    ({ s.wakeYield c why with agenda := s.agenda } : State) = s := by
  unfold State.wakeYield
  split <;> rfl

theorem State.wakeYield_coreAt (s : State) (c d : Fin 256) (why : YieldWhy) : (s.wakeYield c why).coreAt d = s.coreAt d :=
  congrArg (fun v : Vector Core 256 => v[d]) (congrArg State.cores (s.wakeYield_only c why) :)

/-- A context that is on its core changes there. -/
theorem State.updCtx_here {l : Option Nat} {f : Core → Core} (h : (s.coreAt c).launch = l) : s.updCtx l c f = s.mapCore c f :=
  if_pos h

theorem completeCmd_done {st : BitVec 8} (hf : s.cmds.find? (·.id = m.id) = some m) (hg : m.tag = some g)
    (hl : (s.coreAt m.core).launch = m.launch) (ht : (s.coreAt m.core).tags[g] = .busy false) :
    ((s.completeCmd m.id st).coreAt m.core).tags[g] = .done st ∧ (s.completeCmd m.id st).cmds = s.cmds.filter (·.id ≠ m.id) := by
  have hdone : s.completeCmd m.id st = (({ s with cmds := s.cmds.filter (·.id ≠ m.id) } : State).mapCore m.core fun k =>
      k.tagComplete g st).wakeYield m.core .tag := by
    unfold State.completeCmd
    rw [hf]
    dsimp only
    rw [hg]
    dsimp only
    rw [State.updCtx_here (s := { s with cmds := s.cmds.filter (·.id ≠ m.id) }) hl]
  rw [hdone]
  refine ⟨?_, (congrArg State.cmds (State.wakeYield_only _ _ _) :)⟩
  rw [State.wakeYield_coreAt, State.coreAt_mapCore]
  change ((s.coreAt m.core).tagComplete g st).tags[g] = _
  unfold Core.tagComplete
  rw [ht]
  exact Vector.getElem_set_self _

end

/-! ### Messages and credits (R162, R163) -/

/-- A context that is out changes in its bank and its image alone. -/
theorem State.updCtx_away (s : State) {l : Option Nat} {c : Fin 256} {f : Core → Core} (h : (s.coreAt c).launch ≠ l) :
    OnlyMemorySide s (s.updCtx l c f) := by
  unfold State.updCtx
  rw [if_neg h]
  split
  · exact OnlyMemorySide.refl s
  · extract_lets y saved
    have hsaved : OnlyMemorySide s saved := ⟨rfl, fun _ => rfl⟩
    split
    · exact hsaved
    · dsimp only
      have hpokes : ∀ b1 b2 b3 a1 a2 a3 t, OnlyMemorySide s (((saved.poke t a1 b1).poke t a2 b2).poke t a3 b3) :=
        fun b1 b2 b3 a1 a2 a3 t => ((hsaved.trans (saved.poke_memorySide t a1 b1)).trans (State.poke_memorySide _ t a2 b2)).trans
          (State.poke_memorySide _ t a3 b3)
      exact OnlyMemorySide.ite ((hpokes _ _ _ _ _ _ _).trans (State.poke_memorySide _ _ _ _)) (hpokes _ _ _ _ _ _ _)

/-- A change of a context leaves what of every core the change leaves. -/
theorem State.updCtx_keeps {α : Type} (g : Core → α) (hg : ∀ (k : Core) p w, g { k with perf := p, walks := w } = g k)
    {f : Core → Core} (hf : ∀ k, g (f k) = g k) (s : State) (l : Option Nat) (c d : Fin 256) :
    g ((s.updCtx l c f).coreAt d) = g (s.coreAt d) ∧ (s.updCtx l c f).memq = s.memq := by
  by_cases h : (s.coreAt c).launch = l
  · rw [State.updCtx_here h]
    refine ⟨?_, rfl⟩
    by_cases hd : d = c
    · subst hd
      rw [State.coreAt_mapCore, hf]
    · rw [State.coreAt_mapCore_ne _ _ hd]
  · exact ⟨(s.updCtx_away h).coreAt_keeps g hg d, (s.updCtx_away h).memq⟩

theorem completeCmd_keeps {α : Type} (g : Core → α) (hg : ∀ (k : Core) p w, g { k with perf := p, walks := w } = g k)
    (ht : ∀ (k : Core) t st, g (k.tagComplete t st) = g k) (s : State) (id : Nat) (st : BitVec 8) (d : Fin 256) :
    g ((s.completeCmd id st).coreAt d) = g (s.coreAt d) ∧ (s.completeCmd id st).memq = s.memq := by
  unfold State.completeCmd
  split
  · exact ⟨rfl, rfl⟩
  · next m _ =>
    dsimp only
    split
    · next t _ =>
      obtain ⟨hcore, hmemq⟩ := State.updCtx_keeps g hg (f := fun k => k.tagComplete t st) (fun k => ht k t st)
        { s with cmds := s.cmds.filter (·.id ≠ id) } m.launch m.core d
      refine ⟨?_, (congrArg State.memq (State.wakeYield_only _ _ _) :).trans hmemq⟩
      rw [State.wakeYield_coreAt]
      exact hcore
    · exact ⟨rfl, rfl⟩

theorem Core.tagComplete_keeps {α : Type} (g : Core → α) (hg : ∀ (k : Core) t q, g { k with tags := t, copyq := q } = g k)
    (k : Core) (t : Fin 64) (st : BitVec 8) : g (k.tagComplete t st) = g k := by
  unfold Core.tagComplete
  split
  · exact hg k _ _
  · exact hg k _ k.copyq

section
variable {s : State} {c : Fin 256} (hc : s.inp.core = c)
include hc

/-- A core that has taken a message. -/
def Core.gotMessage (k : Core) (off : Nat) (bytes : List Byte) (e : MqEntry) : Core :=
  { k.spadWrite off bytes with mqTail := k.mqTail + 1, mqEntries := k.mqEntries ++ [e] }

theorem messageDelivery_lands {o : MemOp} {tgt : Fin 256} {bytes : List Byte} {cmd : Nat} {u : State}
    (ho : nextMessage s c = some o) (hk : o.kind = .msg tgt bytes cmd)
    (hb : touchesBarrier (s.coreAt c).hdr ((s.coreAt c).mqOffset (s.coreAt c).mqTail.toNat) 64 = false)
    (hp : s.pump c (Fin.ofNat 32 ((s.coreAt c).mqOffset (s.coreAt c).mqTail.toNat / 65536)) = .ok u) :
    RunsTo .messageDelivery s fun t => (t.coreAt c).mqTail = (u.coreAt c).mqTail + 1 ∧
      (t.coreAt c).spad.readBytes ((s.coreAt c).mqOffset (s.coreAt c).mqTail.toNat) bytes.length = bytes ∧
      t.memq = u.memq.filter (·.id ≠ o.id) := by
  let off := (s.coreAt c).mqOffset (s.coreAt c).mqTail.toNat
  let v := (u.dropOp o.id).mapCore c fun k => k.gotMessage off bytes ⟨(u.coreAt o.core).lidx, o.clk⟩
  have hexec : exec .messageDelivery s = .next ((v.completeCmd cmd stOk).wakeYield c .delivery) := by
    change execMessageDelivery s = _
    unfold execMessageDelivery
    dsimp only
    rw [hc, ho]
    dsimp only
    rw [hk]
    dsimp only
    rw [hb, if_neg Bool.false_ne_true, hp]
    rfl
  have hself : v.coreAt c = (u.coreAt c).gotMessage off bytes ⟨(u.coreAt o.core).lidx, o.clk⟩ := State.coreAt_mapCore _ _ _
  refine ⟨_, hexec, ?_, ?_, ?_⟩
  · rw [State.wakeYield_coreAt, (completeCmd_keeps Core.mqTail (fun _ _ _ => rfl)
      (Core.tagComplete_keeps Core.mqTail fun _ _ _ => rfl) v cmd stOk c).1, hself]
    rfl
  · rw [State.wakeYield_coreAt, (completeCmd_keeps Core.spad (fun _ _ _ => rfl)
      (Core.tagComplete_keeps Core.spad fun _ _ _ => rfl) v cmd stOk c).1, hself]
    exact Mem.readBytes_writeBytes off bytes
  · refine (congrArg State.memq (State.wakeYield_only _ _ _) :).trans ?_
    rw [(completeCmd_keeps Core.spad (fun _ _ _ => rfl) (Core.tagComplete_keeps Core.spad fun _ _ _ => rfl) v cmd stOk c).2]
    rfl

theorem creditReturn_arrives {r : CreditRet} (hr : nextCredit s c = some r) (hl : (s.coreAt c).launch = r.launch) :
    RunsTo .creditReturn s fun t => t.credRet = s.credRet.erase r ∧ OtherThan s t c ∧
      (t.coreAt c).credits = setAt (s.coreAt c).credits r.target ((s.coreAt c).credits.getD r.target 0 + 1) := by
  have hexec : exec .creditReturn s = .next (({ s with credRet := s.credRet.erase r } : State).mapCore c fun k =>
      { k with credits := setAt k.credits r.target (k.credits.getD r.target 0 + 1) }) := by
    change execCreditReturn s = _
    unfold execCreditReturn
    dsimp only
    rw [hc, hr]
    dsimp only
    rw [State.updCtx_here (s := { s with credRet := s.credRet.erase r }) hl]
  refine ⟨_, hexec, rfl, fun d hd => State.coreAt_mapCore_ne _ _ hd, ?_⟩
  rw [State.coreAt_mapCore]
  rfl

/-! ### Barriers (R164, R363-R365) -/

theorem barrierApply_wakes {o : MemOp} {v : Word} (ho : nextBarOp s c = some o) (hk : o.kind = .wake v)
    (hl : (s.coreAt c).launch = o.launch) {r : Word} {p : BitVec 32} (hw : (s.coreAt c).wait = some (.barrier r p)) :
    RunsTo .barrierApply s fun t => (t.coreAt c).answer = some v ∧ (t.coreAt c).rc = Clk.max (s.coreAt c).rc o.clk ∧
      t.memq = s.memq.filter (·.id ≠ o.id) := by
  have hexec : exec .barrierApply s = .next ((s.dropOp o.id).mapCore c fun k =>
      match k.wait with
      | some (.barrier _ _) => { k.acquireClk o.clk with answer := some v }
      | _ => k) := by
    change execBarrierApply s = _
    unfold execBarrierApply
    dsimp only
    rw [hc, ho]
    dsimp only
    rw [hk]
    dsimp only
    rw [State.updCtx_here (s := s.dropOp o.id) hl] <;> rfl
  have hself : ((s.dropOp o.id).mapCore c fun k =>
      match k.wait with
      | some (.barrier _ _) => { k.acquireClk o.clk with answer := some v }
      | _ => k).coreAt c = { (s.coreAt c).acquireClk o.clk with answer := some v } := by
    rw [State.coreAt_mapCore]
    change (match (s.coreAt c).wait with
      | some (.barrier _ _) => _
      | _ => _) = _
    rw [hw]
    rfl
  exact ⟨_, hexec, by rw [hself], by rw [hself]; rfl, rfl⟩

theorem barrierApply_runs {o : MemOp} {own : Fin 256} {index off : Nat} {op : BarOp} {u : State}
    (ho : nextBarOp s c = some o) (hk : o.kind = .bar own index op)
    (hoff : barrierOff (s.ctxOf o.launch c).hdr index = some off)
    (hp : s.pumpAs c (Fin.ofNat 32 (off / 65536)) o.launch = .ok u) :
    Runs .barrierApply s (if ((u.coreAt c).failedLine off 64).isSome then u.failBar o c off op else u.applyBar o c index off op) := by
  change execBarrierApply s = _
  unfold execBarrierApply
  dsimp only
  rw [hc, ho]
  dsimp only
  rw [hk]
  dsimp only
  rw [hoff]
  dsimp only
  rw [hp]
  dsimp only
  split <;> rfl

end

/-- The bytes of a barrier line. -/
def barBytes (b : BarLine) : List Byte :=
  natToBytes 8 b.target ++ natToBytes 8 b.count ++ natToBytes 4 b.phase ++ natToBytes 1 b.state ++ [0, 0, 0] ++
    natToBytes 4 b.waiters

/-- Fields that fit are read as they were written. -/
theorem readBarLine_write (m : Mem) (off : Nat) {b : BarLine} (ht : b.target < 2 ^ 64) (hc : b.count < 2 ^ 64)
    (hp : b.phase < 2 ^ 32) (hs : b.state < 2 ^ 8) (hw : b.waiters < 2 ^ 32) :
    readBarLine (m.writeBytes off (barBytes b)) off = b := by
  have hlen : (barBytes b).length = 28 := by simp [barBytes]
  have hfield : ∀ i n v, i + n ≤ 28 → ((barBytes b).drop i).take n = natToBytes n v → v < 256 ^ n →
      (m.writeBytes off (barBytes b)).readLE (off + i) n = v := fun i n v hin hbytes hv => by
    have hread := readBytes_writeBytes_part (m := m) off (barBytes b) (i := i) (n := n) (by rw [hlen]; exact hin)
    have hle : (m.writeBytes off (barBytes b)).readLE (off + i) n = bytesToNat (natToBytes n v) := by
      rw [← hbytes, ← hread]
      rfl
    rw [hle, bytesToNat_natToBytes, Nat.mod_eq_of_lt hv]
  unfold readBarLine
  have h1 := hfield 0 8 b.target (by omega) (by simp [barBytes, natToBytes]) (by omega)
  have h2 := hfield 8 8 b.count (by omega) (by simp [barBytes, natToBytes]) (by omega)
  have h3 := hfield 16 4 b.phase (by omega) (by simp [barBytes, natToBytes]) (by omega)
  have h4 := hfield 20 1 b.state (by omega) (by simp [barBytes, natToBytes]) (by omega)
  have h5 := hfield 24 4 b.waiters (by omega) (by simp [barBytes, natToBytes]) (by omega)
  rw [Nat.add_zero] at h1
  rw [h1, h2, h3, h4, h5]

/-- Every field of a barrier line fits its place. -/
theorem readBarLine_fits (m : Mem) (off : Nat) : (readBarLine m off).target < 2 ^ 64 ∧ (readBarLine m off).count < 2 ^ 64 ∧
    (readBarLine m off).phase < 2 ^ 32 ∧ (readBarLine m off).waiters < 2 ^ 32 :=
  ⟨readLE_lt m off 8, readLE_lt m (off + 8) 8, readLE_lt m (off + 16) 4, readLE_lt m (off + 24) 4⟩

/-- Answers under way leave what they do not send. -/
theorem State.wakeWaiters_keeps {α : Type} (g : State → α) (hg : ∀ (s : State) n q, g { s with nextId := n, memq := q } = g s)
    (s : State) (l : Option Nat) (owner : Fin 256) (ws : List Waiter) (v : Word) (clk : Clk) :
    g (s.wakeWaiters l owner ws v clk) = g s := by
  unfold State.wakeWaiters
  induction ws generalizing s with
  | nil => rfl
  | cons w ws ih =>
    rw [List.foldl_cons, ih]
    exact hg s _ _

/-- A barrier line of a context on its core, with what goes beside it, and the waiters that are woken. -/
theorem barrier_set (s : State) {l : Option Nat} {c : Fin 256} (hl : (s.coreAt c).launch = l) (off : Nat) {b : BarLine}
    {f : Core → Core} (hf : ∀ k, (f k).spad = k.spad) (ht : b.target < 2 ^ 64) (hc : b.count < 2 ^ 64)
    (hp : b.phase < 2 ^ 32) (hs : b.state < 2 ^ 8) (hw : b.waiters < 2 ^ 32) :
    SameMemory s (((s.wakeYield c .barrier).setBar l c off b).updCtx l c f) ∧
      readBarLine ((((s.wakeYield c .barrier).setBar l c off b).updCtx l c f).coreAt c).spad off = b := by
  have hbar : ((s.wakeYield c .barrier).setBar l c off b).coreAt c = (s.coreAt c).spadWriteBy l off (barBytes b) := by
    unfold State.setBar
    rw [State.coreAt_mapCore, State.wakeYield_coreAt]
    rfl
  rw [State.updCtx_here (by rw [hbar]; exact hl)]
  refine ⟨?_, ?_⟩
  · exact SameMemory.of_eq (congrArg State.mem (s.wakeYield_only c .barrier) :) (congrArg State.l2 (s.wakeYield_only c .barrier) :)
  · rw [State.coreAt_mapCore, hf, hbar]
    exact readBarLine_write _ off ht hc hp hs hw

/-- A barrier to which units are added. -/
theorem addUnits_counts (s : State) {c : Fin 256} {l : Option Nat} {index off n : Nat} {clk : Clk}
    (hl : (s.coreAt c).launch = l) (hs : (readBarLine (s.coreAt c).spad off).state = 1)
    (ht : 0 < (readBarLine (s.coreAt c).spad off).target) :
    let b := readBarLine (s.coreAt c).spad off
    let t := s.addUnits l c index off n clk
    SameMemory s t ∧ readBarLine (t.coreAt c).spad off =
      if b.count + n < b.target then { b with count := b.count + n }
      else { b with
        count := (b.count + n) % b.target
        phase := (b.phase + (b.count + n) / b.target) % 2 ^ 32
        waiters := b.waiters - ((s.coreAt c).waiters.filter fun w => w.barrier = index &&
          w.phase.toNat ≠ (b.phase + (b.count + n) / b.target) % 2 ^ 32).length } := by
  intro b t
  obtain ⟨hft, hfc, hfp, hfw⟩ := readBarLine_fits (s.coreAt c).spad off
  have hctx : s.ctxOf l c = s.coreAt c := by
    unfold State.ctxOf State.ctx
    rw [if_pos hl]
    rfl
  have hstate : b.state < 2 ^ 8 := by
    rw [show b.state = 1 from hs]
    decide
  by_cases hlt : b.count + n < b.target
  · have hadd : t = ((s.wakeYield c .barrier).setBar l c off { b with count := b.count + n }).updCtx l c fun k =>
        { k with barClk := SMap.set Clk.zero k.barClk index (Clk.max (SMap.get Clk.zero (s.coreAt c).barClk index) clk) } := by
      change s.addUnits l c index off n clk = _
      unfold State.addUnits
      rw [hctx]
      dsimp only
      rw [if_neg (fun h => h hs), if_pos (.inl hlt)]
    rw [hadd, if_pos hlt]
    exact barrier_set s hl off (b := { b with count := b.count + n }) (fun _ => rfl) hft (Nat.lt_trans hlt hft) hfp hstate hfw
  · let phase := (b.phase + (b.count + n) / b.target) % 2 ^ 32
    let out := (s.coreAt c).waiters.filter fun w => w.barrier = index && w.phase.toNat ≠ phase
    let b' : BarLine := { b with count := (b.count + n) % b.target, phase := phase, waiters := b.waiters - out.length }
    let acc := Clk.max (SMap.get Clk.zero (s.coreAt c).barClk index) clk
    let u := ((s.wakeYield c .barrier).setBar l c off b').updCtx l c fun k =>
      { k with
        barClk := SMap.set Clk.zero k.barClk index Clk.zero
        flipClk := SMap.set Clk.zero k.flipClk index acc
        waiters := k.waiters.filter fun w => !(w.barrier = index && w.phase.toNat ≠ phase) }
    have hadd : t = u.wakeWaiters l c out (barAnswer 0 phase) acc := by
      change s.addUnits l c index off n clk = _
      unfold State.addUnits
      rw [hctx]
      dsimp only
      rw [if_neg (fun h => h hs), if_neg (fun h => h.elim hlt ht.ne')]
    have hcount : (b.count + n) % b.target < 2 ^ 64 := Nat.lt_trans (Nat.mod_lt _ ht) hft
    have hphase : phase < 2 ^ 32 := Nat.mod_lt _ (by decide)
    have hwait : b.waiters - out.length < 2 ^ 32 := Nat.lt_of_le_of_lt (Nat.sub_le _ _) hfw
    obtain ⟨hmem, hline⟩ := barrier_set s hl off (b := b') (f := fun k =>
      { k with
        barClk := SMap.set Clk.zero k.barClk index Clk.zero
        flipClk := SMap.set Clk.zero k.flipClk index acc
        waiters := k.waiters.filter fun w => !(w.barrier = index && w.phase.toNat ≠ phase) })
      (fun _ => rfl) hft hcount hphase hstate hwait
    rw [hadd, if_neg hlt]
    refine ⟨hmem.trans (SameMemory.of_eq ?_ ?_), ?_⟩
    · exact State.wakeWaiters_keeps State.mem (fun _ _ _ => rfl) u l c out _ acc
    · exact State.wakeWaiters_keeps State.l2 (fun _ _ _ => rfl) u l c out _ acc
    · rw [State.wakeWaiters_keeps (fun s => s.coreAt c) (fun _ _ _ => rfl) u l c out _ acc]
      exact hline

/-- Settles O41, a step at a time. -/
theorem memorySideStepsAct : Obligations.MemorySideStepsAct := by
  unfold Obligations.MemorySideStepsAct
  intro s c k
  refine ⟨perfBroadcast_shows s, combiningEntryApply_applies s, fun _ _ => rfl, fun p off lost u => polderPumpDone_ends,
    fun l a p n => pumpLines_leaves s c l a p n, fun n => streamRefill_reads, fun n v rest => streamDrain_writes,
    fun g e m => copyComplete_runs, fun g m => parkedRetry_runs, fun m st g => completeCmd_done,
    fun hc => ⟨fun o tgt bytes cmd u => messageDelivery_lands hc, fun r => creditReturn_arrives hc,
      fun o v ho hk hl r p => barrierApply_wakes hc ho hk hl, fun o own index op off u => barrierApply_runs hc⟩,
    fun o index off n clk => addUnits_counts s⟩

end Sys2Proof.Machine
end

section
/-! Packets of the fabric at their destination (R28, R32-R40, R67, R90, R91, R113, R125, R133): the checks of a packet in
order, what its type does with its lines, and the acknowledgement, the wait or the DROP that follows. -/

namespace Sys2Proof.Machine

/-! ### The sequencers that a partition owns

The way of an access changes a partition's meters only. -/

/-- Every partition owns the same sequencers. -/
def KeepsOwners (s t : State) : Prop := ∀ p : Fin 17, (t.parts[p]).seqs = (s.parts[p]).seqs

theorem KeepsOwners.refl (s : State) : KeepsOwners s s := fun _ => rfl

theorem KeepsOwners.trans {s t u : State} (h : KeepsOwners s t) (h' : KeepsOwners t u) : KeepsOwners s u :=
  fun p => (h' p).trans (h p)

theorem KeepsOwners.ite {s t u : State} {c : Prop} [Decidable c] (ht : KeepsOwners s t) (hu : KeepsOwners s u) :
    KeepsOwners s (if c then t else u) := by
  split
  · exact ht
  · exact hu

theorem KeepsOwners.foldl {α : Type} (f : State → α → State) (hf : ∀ s a, KeepsOwners s (f s a)) (l : List α) (s : State) :
    KeepsOwners s (l.foldl f s) := by
  induction l generalizing s with
  | nil => exact KeepsOwners.refl s
  | cons a l ih => exact (hf s a).trans (ih (f s a))

theorem KeepsOwners.owned {s t : State} (h : KeepsOwners s t) (part : Nat) : ownedSeqs t part = ownedSeqs s part := by
  unfold ownedSeqs
  split
  next hp => rw [show (t.parts[part]).seqs = (s.parts[part]).seqs from h ⟨part, hp⟩]
  · rfl

theorem OnlyLogs.owners {s t : State} (h : OnlyLogs s t) : KeepsOwners s t := by
  have hparts : t.parts = s.parts := (congrArg State.parts h :)
  intro p
  rw [hparts]

section
variable (s : State)

theorem State.meter_owners (part : Nat) (m : Fin 16) (n : Nat) : KeepsOwners s (s.meter part m n) := by
  unfold State.meter
  split
  next h =>
    refine KeepsOwners.ite (KeepsOwners.refl s) fun p => ?_
    by_cases hp : part = p
    · subst hp
      simp
    · simp [Vector.getElem_set_ne, hp]
  · exact KeepsOwners.refl s

theorem State.noteWindow_owners (ch : Fin 256) : KeepsOwners s (s.noteWindow ch) := by
  unfold State.noteWindow
  split
  · exact KeepsOwners.ite (fun _ => rfl) (KeepsOwners.refl s)
  · exact KeepsOwners.refl s

theorem State.put_owners (tag a : Nat) (bs : List Byte) (side : Bool) : KeepsOwners s (s.put tag a bs side) :=
  KeepsOwners.ite (fun _ => rfl) (KeepsOwners.ite (fun _ => rfl) (fun _ => rfl))

theorem State.channelUse_owners (dpa part : Nat) (rd : Bool) : KeepsOwners s (s.channelUse dpa part rd) := by
  unfold State.channelUse
  extract_lets ch used slow
  have hused : KeepsOwners s used := KeepsOwners.trans (fun _ => rfl) (State.noteWindow_owners _ ch)
  exact KeepsOwners.ite (hused.trans (KeepsOwners.ite (fun _ => rfl) (fun _ => rfl)))
    (KeepsOwners.ite (hused.trans (fun _ => rfl)) hused)

theorem writeVa_owners (part va : Nat) (b : Byte) : KeepsOwners s (writeVa s part va b) := by
  unfold writeVa
  split
  · exact KeepsOwners.refl s
  · exact KeepsOwners.ite (fun _ => rfl) (s.put_owners _ _ _ _)

theorem writeCode_owners (part : Nat) (w : Window) (e c : Nat) : KeepsOwners s (writeCode s part w e c) := by
  unfold writeCode
  refine KeepsOwners.ite (writeVa_owners s _ _ _) ?_
  extract_lets va
  split
  · exact KeepsOwners.refl s
  · exact writeVa_owners s _ _ _

theorem encodeBlock_owners (part : Nat) (w : Window) (e : Nat) (vs : List Val) :
    KeepsOwners s (encodeBlock s part w e vs) := by
  unfold encodeBlock
  refine KeepsOwners.ite ?_ (KeepsOwners.foldl _ (fun s o => ?_) _ s)
  · split
    · exact KeepsOwners.refl s
    · exact (writeVa_owners s _ _ _).trans (KeepsOwners.foldl _ (fun s i => writeCode_owners s _ _ _ _) _ _)
  · exact (writeVa_owners s _ _ _).trans (KeepsOwners.foldl _ (fun s i => writeCode_owners s _ _ _ _) _ _)

theorem windowWrite_owners (part : Nat) (w : Window) (off : Nat) (bs : List Byte) :
    KeepsOwners s (windowWrite s part w off bs) := by
  unfold windowWrite
  extract_lets esz first last
  refine KeepsOwners.ite (KeepsOwners.refl s) (KeepsOwners.foldl _ (fun s i => ?_) _ s)
  dsimp only
  split
  · exact (s.logUnit_logs _ _ _ _ _ _ _ _).owners
  · split
    · exact encodeBlock_owners s _ _ _ _
    · exact (s.logUnit_logs _ _ _ _ _ _ _ _).owners
    · exact KeepsOwners.refl s

/-! An access of no core. -/

variable {q : Req} (hq : q.ctx = none)
include hq

theorem State.note_owners (ev : Fin 16) (n : Nat) : KeepsOwners s (s.note q ev n) := by
  unfold State.note
  rw [hq]
  exact KeepsOwners.refl s

theorem State.hbmRead_owners (dpa : Nat) : KeepsOwners s (s.hbmRead q dpa) :=
  (((s.channelUse_owners dpa q.part true).trans (State.meter_owners _ q.part 7 64)).trans
    (State.note_owners _ hq 7 1)).trans
    (KeepsOwners.ite (KeepsOwners.trans (fun _ => rfl) (State.note_owners _ hq 14 1)) (fun _ => rfl))

theorem State.hbmWrite_owners (dpa : Nat) : KeepsOwners s (s.hbmWrite q dpa) :=
  ((s.channelUse_owners dpa q.part false).trans (State.meter_owners _ q.part 8 64)).trans (State.note_owners _ hq 8 1)

theorem State.snoop_owners (dpa : Nat) : KeepsOwners s (s.snoop q dpa) :=
  KeepsOwners.ite (KeepsOwners.trans (t := { s with hostLines := SMap.set 0 s.hostLines (dpa / 64) 0 }) (fun _ => rfl)
    (State.note_owners _ hq 15 1)) (KeepsOwners.refl s)

theorem State.writeBack_owners (e : L2Line) : KeepsOwners s (s.writeBack q e) := by
  unfold State.writeBack
  refine KeepsOwners.ite (KeepsOwners.refl s) ?_
  extract_lets noted
  have hnoted : KeepsOwners s noted := s.note_owners hq 2 1
  split
  next written _ _ =>
    have hwritten : KeepsOwners noted written := fun _ => rfl
    exact (hnoted.trans hwritten).trans (written.hbmWrite_owners (q := { q with part := e.tag }) hq _)
  · split
    · extract_lets charged
      have hcharged : KeepsOwners noted charged := KeepsOwners.foldl _
        (fun s a => s.hbmWrite_owners (q := { q with part := e.tag }) hq a) _ _
      exact (hnoted.trans hcharged).trans (windowWrite_owners charged _ _ _ _)
    · exact hnoted

theorem State.allocate_owners (win : Option Nat) (a : Nat) (data : List Byte) (bad : Nat) :
    KeepsOwners s (s.allocate q win a data bad) := by
  unfold State.allocate
  dsimp only
  split
  · exact KeepsOwners.refl s
  · refine KeepsOwners.trans ?_ (fun _ => rfl)
    exact KeepsOwners.trans (fun _ => rfl) (KeepsOwners.foldl _ (fun s e => s.writeBack_owners hq e) _ _)

theorem State.channelAccess_owners (dpa : Nat) (u : LineUse) : KeepsOwners s (s.channelAccess q dpa u) := by
  cases u with
  | read => exact s.hbmRead_owners hq dpa
  | atomic => exact (s.hbmRead_owners hq dpa).trans (State.hbmWrite_owners _ hq dpa)
  | part => exact s.hbmWrite_owners hq dpa
  | full => exact s.hbmWrite_owners hq dpa

theorem State.access_owners (dpa : Nat) (side : Bool) (u : LineUse) : KeepsOwners s (s.access q dpa side u) := by
  unfold State.access
  extract_lets snooped
  have hsnooped : KeepsOwners s snooped := s.snoop_owners hq dpa
  refine KeepsOwners.ite (hsnooped.trans (snooped.channelAccess_owners hq dpa u)) ?_
  split
  · exact (hsnooped.trans (snooped.note_owners hq 0 1)).trans (fun _ => rfl)
  next missed line filled _ _ =>
    have hmissed : KeepsOwners s missed := hsnooped.trans (snooped.note_owners hq 1 1)
    split
    · exact hmissed.trans (missed.channelAccess_owners hq dpa u)
    · have hfilled : KeepsOwners missed filled := KeepsOwners.ite (KeepsOwners.refl missed) (missed.hbmRead_owners hq dpa)
      exact (hmissed.trans hfilled).trans
        (KeepsOwners.ite (KeepsOwners.refl filled) (filled.allocate_owners hq none line _ 0))

end

theorem State.packetWalks_owners (s : State) (part va n : Nat) : KeepsOwners s (s.packetWalks part va n) :=
  KeepsOwners.foldl _ (fun s _ => KeepsOwners.foldl _ (fun s _ => s.access_owners (by rfl) _ _ _) _ s) _ s

/-! ### How a packet ends at its destination -/

/-- Nothing but the gangs' counts, the partitions' meters and the fabric interface differs. -/
def OnlyPackets (s t : State) : Prop := ({ t with gangs := s.gangs, parts := s.parts, fabric := s.fabric } : State) = s

theorem OnlyPackets.refl (s : State) : OnlyPackets s s := rfl

theorem OnlyPackets.trans {s t u : State} (h : OnlyPackets s t) (h' : OnlyPackets t u) : OnlyPackets s u :=
  Eq.trans (b := ({ t with gangs := s.gangs, parts := s.parts, fabric := s.fabric } : State))
    (congrArg (fun v : State => { v with gangs := s.gangs, parts := s.parts, fabric := s.fabric }) h') h

theorem OnlyPackets.ite {s t u : State} {c : Prop} [Decidable c] (ht : OnlyPackets s t) (hu : OnlyPackets s u) :
    OnlyPackets s (if c then t else u) := by
  split
  · exact ht
  · exact hu

section
variable {s t : State} (h : OnlyPackets s t)
include h

theorem OnlyPackets.mem : t.mem = s.mem := (congrArg State.mem h :)
theorem OnlyPackets.l2 : t.l2 = s.l2 := (congrArg State.l2 h :)
theorem OnlyPackets.launches : t.launches = s.launches := (congrArg State.launches h :)
theorem OnlyPackets.memory : SameMemory s t := SameMemory.of_eq h.mem h.l2

end

/-- Nothing but the fabric interface differs. -/
def OnlyFabric (s t : State) : Prop := ({ t with fabric := s.fabric } : State) = s

theorem OnlyFabric.refl (s : State) : OnlyFabric s s := rfl

theorem OnlyFabric.trans {s t u : State} (h : OnlyFabric s t) (h' : OnlyFabric t u) : OnlyFabric s u :=
  Eq.trans (b := ({ t with fabric := s.fabric } : State)) (congrArg (fun v : State => { v with fabric := s.fabric }) h') h

theorem OnlyFabric.ite {s t u : State} {c : Prop} [Decidable c] (ht : OnlyFabric s t) (hu : OnlyFabric s u) :
    OnlyFabric s (if c then t else u) := by
  split
  · exact ht
  · exact hu

theorem OnlyFabric.exists_eq {s t : State} (h : OnlyFabric s t) : ∃ f, t = { s with fabric := f } :=
  ⟨t.fabric, (congrArg (fun v : State => { v with fabric := t.fabric }) h :)⟩

theorem OnlyFabric.packets {s t : State} (h : OnlyFabric s t) : OnlyPackets s t := by
  obtain ⟨f, rfl⟩ := h.exists_eq
  rfl

section
variable (s : State) (p : Packet)

theorem State.meter_packets (part : Nat) (m : Fin 16) (n : Nat) : OnlyPackets s (s.meter part m n) := by
  unfold State.meter
  split
  · exact OnlyPackets.ite rfl rfl
  · rfl

theorem State.returnFlits_fabric (src : Fin 21) (vc : Fin 6) (n : Nat) : OnlyFabric s (s.returnFlits src vc n) := by
  unfold State.returnFlits
  split <;> rfl

theorem State.emitControl_fabric (n : Fin 20) (e : OutCtl) : OnlyFabric s (s.emitControl n e) := by
  unfold State.emitControl
  split
  · exact OnlyFabric.trans (t := s.countDrop n) rfl (State.returnFlits_fabric _ _ _ _)
  · rfl

theorem State.sendControl_fabric (c : Control) : OnlyFabric s (s.sendControl c) := by
  unfold State.sendControl
  refine OnlyFabric.ite rfl ?_
  split
  · rfl
  · exact s.emitControl_fabric _ _

/-- A control packet with a way out stands behind the others at its port. -/
theorem State.sendControl_queued {s : State} {c : Control} {n : Fin 20} (hself : c.dst.toNat ≠ selfMod s)
    (hn : routePort s 3 c.dst.toNat = some n) (huse : Port.use s.fabric.ports[n] = .ready) :
    ((s.sendControl c).fabric.ports[n]).ctlQueue = (s.fabric.ports[n]).ctlQueue ++ [⟨20, false, s.cycle + 20, c⟩] := by
  rw [State.sendControl, if_neg hself, hn]
  dsimp only
  rw [State.emitControl, huse]
  simp [State.updPort, injectCtlLatency]

theorem State.ackPacket_packets : OnlyPackets s (s.ackPacket p) := by
  have hset (u : State) (f : List AckRun → List AckRun) : OnlyPackets u (u.setAcks f) := rfl
  unfold State.ackPacket
  extract_lets mine fresh rest
  split
  · exact hset s _
  · refine OnlyPackets.ite (OnlyPackets.ite ?_ (hset s _)) ?_
    · exact (s.sendControl_fabric _).packets.trans (hset _ _)
    · exact (s.sendControl_fabric _).packets.trans (hset _ _)

/-- A packet that is not dropped ends with its counts and its acknowledgement alone. -/
theorem State.settle_packets {f : Fate} (hf : ∀ r, f ≠ .drop r) : OnlyPackets s (s.settle p f) := by
  have hgot : OnlyPackets s ((s.gangReceived p.dfn.toNat p.gang).meter p.dfn.toNat 10 (64 * p.flits.length)) :=
    OnlyPackets.trans (t := s.gangReceived p.dfn.toNat p.gang) rfl (State.meter_packets _ _ _ _)
  unfold State.settle
  cases f with
  | drop r => exact absurd rfl (hf r)
  | silent => rfl
  | waits => rfl
  | applied => exact hgot.trans (State.ackPacket_packets _ p)
  | captured => exact hgot.trans (State.ackPacket_packets _ p)
  | refused r => exact (hgot.trans (State.sendControl_fabric _ _).packets).trans (State.ackPacket_packets _ p)

/-- What is stored before a packet is acknowledged stays stored. -/
theorem StoredFor.settle {s t : State} {tag a : Nat} {side : Bool} {bs : List Byte} (h : StoredFor s t tag a side bs)
    (p : Packet) : StoredFor s (t.settle p .applied) tag a side bs :=
  have hs := t.settle_packets p (f := .applied) (fun _ => nofun)
  h.of_eq hs.mem hs.l2

/-- The fabric's numbers, routes and what waits at its ports for the fabric's control stand, as does memory. -/
structure SameRoutes (s t : State) : Prop where
  number : selfMod t = selfMod s
  route : ∀ cls dst, routePort t cls dst = routePort s cls dst
  cycle : t.cycle = s.cycle
  use : ∀ n : Fin 20, Port.use t.fabric.ports[n] = Port.use s.fabric.ports[n]
  queued : ∀ n : Fin 20, (t.fabric.ports[n]).ctlQueue = (s.fabric.ports[n]).ctlQueue
  memory : SameMemory s t

theorem SameRoutes.refl (s : State) : SameRoutes s s :=
  ⟨rfl, fun _ _ => rfl, rfl, fun _ => rfl, fun _ => rfl, SameMemory.refl s⟩

theorem SameRoutes.trans {s t u : State} (h : SameRoutes s t) (h' : SameRoutes t u) : SameRoutes s u :=
  ⟨h'.number.trans h.number, fun c d => (h'.route c d).trans (h.route c d), h'.cycle.trans h.cycle,
    fun n => (h'.use n).trans (h.use n), fun n => (h'.queued n).trans (h.queued n), h.memory.trans h'.memory⟩

theorem OnlyLogs.routes {s t : State} (h : OnlyLogs s t) : SameRoutes s t := by
  have hfab : t.fabric = s.fabric := (congrArg State.fabric h :)
  refine ⟨?_, fun cls dst => ?_, (congrArg State.cycle h :), fun n => by rw [hfab], fun n => by rw [hfab],
    SameMemory.of_eq h.mem h.l2⟩
  · rw [selfMod, selfMod, hfab]
  · rw [routePort, routePort, routeEntry, routeEntry, hfab]

/-- The source of a dropped packet of another module is told by its port (R39). -/
theorem State.dropPacket_leaves {s u : State} {p : Packet} (hu : SameRoutes s u) (hsrc : p.src.toNat ≠ selfMod s) (r : Nat) :
    DropLeaves s (u.dropPacket p r) p r ∧ SameMemory s (u.dropPacket p r) := by
  have hself := hu.number
  have hdrop : u.dropPacket p r =
      u.sendControl (ctlOf u 0x02 p.src.toNat (p.sfn.toNat % 32 + 2 ^ 5 * p.cls.toNat + 2 ^ 8 * r) p.pseq.toNat) := by
    rw [State.dropPacket, hself, if_neg hsrc]
  have hctl : ctlOf u 0x02 p.src.toNat (p.sfn.toNat % 32 + 2 ^ 5 * p.cls.toNat + 2 ^ 8 * r) p.pseq.toNat =
      ctlOf s 0x02 p.src.toNat (p.sfn.toNat % 32 + 2 ^ 5 * p.cls.toNat + 2 ^ 8 * r) p.pseq.toNat := by
    rw [ctlOf, ctlOf, hself]
  rw [hdrop, hctl]
  refine ⟨fun n hn huse => ?_, hu.memory.trans (State.sendControl_fabric u _).packets.memory⟩
  generalize hc : ctlOf s 0x02 p.src.toNat (p.sfn.toNat % 32 + 2 ^ 5 * p.cls.toNat + 2 ^ 8 * r) p.pseq.toNat = c
  have hdst : c.dst.toNat = p.src.toNat := by
    rw [← hc]
    simp [ctlOf, Control.atHop]
  rw [State.sendControl_queued (by rw [hdst, hself]; exact hsrc) (by rw [hdst, hu.route]; exact hn)
    (by rw [hu.use]; exact huse), hu.queued, hu.cycle, List.getLast?_concat]

end

/-! ### The checks in order (R38) -/

section
variable {s : State} {p : Packet}

/-- A packet that comes up ends as its fate says. -/
theorem State.acceptPacket_ends (hc : ComesUp s p) {port : Fin 21} {f : Fate} {u : State} (hfate : s.fateOf port p = (f, u))
    (hf : ∀ ch, f ≠ .waits ch) : s.acceptPacket port p = u.settle p f := by
  obtain ⟨hdst, hsrc, hstream, hagain⟩ := hc
  rw [State.acceptPacket, if_neg (not_not_intro hdst), hstream]
  dsimp only
  rw [if_neg (by simp only [hagain, Bool.false_eq_true, not_false_eq_true]), if_neg hsrc, hfate]
  cases f with
  | waits ch => exact absurd rfl (hf ch)
  | _ => rfl

theorem State.acceptPacket_waits (hc : ComesUp s p) {port : Fin 21} {ch : Fin 256} {u : State}
    (hfate : s.fateOf port p = (.waits ch, u)) : s.acceptPacket port p = s.deferPacket port p ch := by
  obtain ⟨hdst, hsrc, hstream, hagain⟩ := hc
  rw [State.acceptPacket, if_neg (not_not_intro hdst), hstream]
  dsimp only
  rw [if_neg (by simp only [hagain, Bool.false_eq_true, not_false_eq_true]), if_neg hsrc, hfate]

/-- The port by which DATA_PACKET_ACCEPT says that a packet came. -/
def cameBy : Option (Fin 20) → Fin 21
  | some n => n.castSucc
  | none => 20

theorem exec_dataPacketAccept (port : Option (Fin 20)) :
    exec (.dataPacketAccept port p) s = .next (s.acceptPacket (cameBy port) p) := by
  cases port <;> rfl

theorem accept_runsTo {port : Option (Fin 20)} {P : State → Prop} (h : P (s.acceptPacket (cameBy port) p)) :
    RunsTo (.dataPacketAccept port p) s P := ⟨_, exec_dataPacketAccept port, h⟩

/-- The step of a packet's type and DATA_PACKET_ACCEPT both accept it. -/
theorem accepts_of {i : Instr} {type : BitVec 8} (hi : exec i s = .next (s.arriveAs type)) (ht : p.type = type)
    {P : Fin 21 → State → Prop} (h : ∀ port, P port (s.acceptPacket port p)) : Accepts i s p P := by
  refine ⟨fun hp => ⟨_, hi, ?_⟩, fun n => accept_runsTo (h _), accept_runsTo (h _)⟩
  rw [State.arriveAs, hp, if_pos ht]
  exact h _

/-- A packet that is dropped leaves its DROP. -/
theorem accept_drops (hc : ComesUp s p) (port : Option (Fin 20)) {u : State} {r : Nat} (hu : OnlyLogs s u)
    (hfate : s.fateOf (cameBy port) p = (.drop r, u)) :
    RunsTo (.dataPacketAccept port p) s fun t => DropLeaves s t p r ∧ SameMemory s t := by
  refine accept_runsTo ?_
  rw [State.acceptPacket_ends hc hfate (fun _ => nofun)]
  exact State.dropPacket_leaves hu.routes hc.2.1 r

section
variable (hh : p.hccOk = true) (hf : p.flitsOk = true) (port : Fin 21)
include hh hf

theorem fateOf_badType (ht : typeAllowed p.cls.toNat p.type.toNat = false) :
    s.fateOf port p = (.drop dropBadtype, s) := by
  simp only [State.fateOf, hh, hf, typeOk, ht, Bool.not_true, Bool.not_false, Bool.false_eq_true, if_false, if_true]

variable (ht : typeAllowed p.cls.toNat p.type.toNat = true)
include ht

theorem fateOf_noFunction (hn : p.dfn.toNat = 0 ∨ 17 ≤ p.dfn.toNat ∨
    ∃ h : p.dfn.toNat < 17, (s.parts[p.dfn.toNat]).exists_ = false) : s.fateOf port p = (.drop dropNoFunction, s) := by
  simp only [State.fateOf, hh, hf, typeOk, ht, Bool.not_true, Bool.false_eq_true, if_false]
  by_cases h : p.dfn.toNat < 17
  · rw [dif_pos h, if_pos]
    rcases hn with h0 | h17 | ⟨_, he⟩
    · exact .inl h0
    · omega
    · exact .inr (by simp [he])
  · rw [dif_neg h]

section
variable (h0 : p.dfn.toNat ≠ 0) (h17 : p.dfn.toNat < 17) (he : (s.parts[p.dfn.toNat]).exists_ = true)
include h0 he

theorem fateOf_foreign (hr : residentGang s p.dfn.toNat p.gang = false) (hg : s.gangDef p.dfn.toNat p.gang = none) :
    s.fateOf port p = (.drop dropForeign, s) := by
  simp only [State.fateOf, hh, hf, typeOk, ht, Bool.not_true, Bool.false_eq_true, if_false, dif_pos h17, he, h0, or_self, hr,
    Bool.not_false, if_true, hg]

theorem fateOf_captured {d : GangDef} {u : State} (hr : residentGang s p.dfn.toNat p.gang = false)
    (hg : s.gangDef p.dfn.toNat p.gang = some d) (hw : spillWaits s p.dfn.toNat d = none)
    (hs : spill s p.dfn.toNat d p = .ok u) : s.fateOf port p = (.captured, u) := by
  simp only [State.fateOf, hh, hf, typeOk, ht, Bool.not_true, Bool.false_eq_true, if_false, dif_pos h17, he, h0, or_self, hr,
    Bool.not_false, if_true, hg, hw, hs]

end

end

/-- Where the packet is for a resident gang its fate is that of its lines. -/
theorem fateOf_arrives (ha : ArrivesHere s p) (port : Fin 21) :
    s.fateOf port p =
      match packetLines s p.dfn.toNat (if p.type = 0x02 then .atomic else .write) p.addr.toNat (lineCount p) with
      | .error (c, a) => (.drop dropXlate, s.logUnit c 0 p.dfn.toNat 5 0 dropXlate (BitVec.ofNat 64 a) p.gang)
      | .ok ps =>
        if ps.any (·.diff) then (.drop dropDiff, s)
        else match busyChan s p.dfn.toNat (packetChans s p.dfn.toNat p ps) with
          | some ch => (.waits ch, s)
          | none => (s.packetWalks p.dfn.toNat p.addr.toNat ps.length).applyPacket p.dfn.toNat port p ps := by
  obtain ⟨-, hh, hf, ht, h0, ⟨h17, he⟩, hr⟩ := ha
  simp only [State.fateOf, hh, hf, typeOk, ht, Bool.not_true, Bool.false_eq_true, if_false, dif_pos h17, he, h0, or_self, hr]
    <;> rfl

/-- With its lines ready the packet is applied. -/
theorem fateOf_ready (ha : ArrivesHere s p) {ps : List Phys} (hl : LinesReady s p ps) (port : Fin 21) :
    s.fateOf port p = (s.packetWalks p.dfn.toNat p.addr.toNat ps.length).applyPacket p.dfn.toNat port p ps := by
  obtain ⟨hat, hdiff, hbusy⟩ := hl
  unfold LinesAt at hat
  rw [fateOf_arrives ha, hat]
  dsimp only
  rw [hdiff, if_neg Bool.false_ne_true, hbusy]

/-- A packet that writes no line has no line to translate. -/
theorem LinesReady.empty {ps : List Phys} (hl : LinesReady s p ps) (h : lineCount p = 0) : ps = [] := by
  have hat := hl.1
  rw [LinesAt, h, packetLines] at hat
  exact (Except.ok.inj hat).symm

end

/-! ### What each type of packet does -/

section
variable {s : State} {p : Packet} (ha : ArrivesHere s p) {ps : List Phys} (hl : LinesReady s p ps)
include ha hl

/-- The state in which a packet's lines are applied: the walks of its lines have been made. -/
theorem accept_applied {f : Fate} {u : State} {port : Fin 21} (hf : ∀ ch, f ≠ .waits ch)
    (happ : (s.packetWalks p.dfn.toNat p.addr.toNat ps.length).applyPacket p.dfn.toNat port p ps = (f, u)) :
    s.acceptPacket port p = u.settle p f :=
  State.acceptPacket_ends ha.1 ((fateOf_ready ha hl port).trans happ) hf

/-- A WRITE lays its lines down (R35). -/
theorem accept_write (ht : p.type = 0x01) (port : Fin 21) : s.acceptPacket port p =
    ((s.packetWalks p.dfn.toNat p.addr.toNat ps.length).writeLines p.dfn.toNat ps p.be p.flits).settle p .applied := by
  refine accept_applied ha hl (fun _ => nofun) ?_
  unfold State.applyPacket
  rw [ht]
  rfl

/-- Blocks for a partition with a sequencer reach it (R125, R133). -/
theorem accept_blocks (ht : p.type = 0x05 ∨ p.type = 0x06) (hps : ps ≠ [])
    (hown : (ownedSeqs s p.dfn.toNat).isEmpty = false) (port : Fin 21) :
    s.acceptPacket port p = ((s.packetWalks p.dfn.toNat p.addr.toNat ps.length).collArrive p.dfn.toNat p port fun s =>
      s.writeLines p.dfn.toNat ps (p.be.drop 1) (p.flits.drop 1)).settle p .applied := by
  refine accept_applied ha hl (fun _ => nofun) ?_
  have howned := (s.packetWalks_owners p.dfn.toNat p.addr.toNat ps.length).owned p.dfn.toNat
  cases ps with
  | nil => exact absurd rfl hps
  | cons ph ps =>
    rcases ht with ht | ht
    all_goals
      unfold State.applyPacket
      rw [ht]
      change (if (ownedSeqs _ _).isEmpty then _ else _) = _
      rw [howned, if_neg (by simp only [hown, Bool.false_eq_true, not_false_eq_true])]

omit ha hl in
/-- A line under its mask, its word not failed or wholly replaced. -/
theorem State.writeLine_sound {w : State} {part : Nat} {ph : Phys} {m : BitVec 64} {bs : List Byte}
    (h : m = BitVec.allOnes 64 ∨ sideFault w part ph.addr (ph.mtype ≠ 0) = none) :
    let u := (w.applyLine ph.addr).access (pktReq part) ph.addr (ph.mtype ≠ 0) (maskUse m)
    w.writeLine part ph m bs =
      u.put part ph.addr (mergeLine m bs (u.look part ph.addr 64 (ph.mtype ≠ 0))) (ph.mtype ≠ 0) := by
  intro u
  have hnone : (if maskUse m = .full then none else sideFault w part ph.addr (ph.mtype ≠ 0)) = none := by
    rcases h with h | h
    · rw [if_pos (by rw [maskUse, if_pos h])]
    · rw [h, ite_self]
  rw [State.writeLine]
  dsimp only
  rw [hnone]

omit ha hl in
/-- The bytes under the mask are those of the line, and the others stay (R35). -/
theorem State.writeLine_stored {w : State} {part : Nat} {ph : Phys} {m : BitVec 64} {bs : List Byte}
    (h : m = BitVec.allOnes 64 ∨ sideFault w part ph.addr (ph.mtype ≠ 0) = none) :
    let u := (w.applyLine ph.addr).access (pktReq part) ph.addr (ph.mtype ≠ 0) (maskUse m)
    StoredFor u (w.writeLine part ph m bs) part ph.addr (ph.mtype ≠ 0) (mergeLine m bs (u.look part ph.addr 64 (ph.mtype ≠ 0))) := by
  intro u
  rw [State.writeLine_sound h]
  exact State.put_storedFor u _ _ _ _

omit ha hl in
/-- A line written whole is the new one. -/
theorem mergeLine_all {bs old : List Byte} (h : bs.length = 64) : mergeLine (BitVec.allOnes 64) bs old = bs := by
  apply List.ext_getElem (by simp [mergeLine, h])
  intro i hi hi'
  have hlt : i < 64 := by simpa [mergeLine] using hi
  have hbit : (BitVec.allOnes 64).getLsbD i = true := by rw [BitVec.getLsbD_allOnes, decide_eq_true hlt]
  simp only [mergeLine, List.getElem_map, List.getElem_range, hbit, if_true]
  exact (List.getElem_eq_getD 0).symm

/-- An ATOMIC whose operand and mask name an operation at an offset, on a word that stands (R35). -/
theorem accept_atomic {op : AmoOp} {o : Nat} {ph : Phys} (ht : p.type = 0x02) (hps : ps = [ph])
    (hop : amoOf (bitsOf p.opnd.toNat 0 4) = some op)
    (hat : atomicAt (p.be.headD 0) (atomWidth (p.opnd.getLsbD 4)) = some o)
    (hfl : amoFloat op = true → p.opnd.getLsbD 4 = true)
    (hfault : sideFault (s.packetWalks p.dfn.toNat p.addr.toNat ps.length) p.dfn.toNat (ph.addr + o) (ph.mtype ≠ 0) = none)
    (port : Fin 21) :
    let w := s.packetWalks p.dfn.toNat p.addr.toNat ps.length
    let n := atomWidth (p.opnd.getLsbD 4)
    let a := ph.addr + o
    let v := fieldLE (p.flits.headD []) o n
    let u := (w.applyLine a).access (pktReq p.dfn.toNat) a (ph.mtype ≠ 0) .atomic
    s.acceptPacket port p = (if p.opnd.getLsbD 5 && amoCombines op && ph.mtype = 1 then
        w.combineBy none ⟨a, some op, p.opnd.getLsbD 4, p.dfn.toNat⟩ op v
      else u.put p.dfn.toNat a (natToBytes n (amoNew op (8 * n) (u.lookLE p.dfn.toNat a n (ph.mtype ≠ 0)) v))
        (ph.mtype ≠ 0)).settle p .applied := by
  intro w n a v u
  refine accept_applied ha hl (fun _ => nofun) ?_
  subst hps
  have hwide : (amoFloat op && !p.opnd.getLsbD 4) = false := by
    cases hx : amoFloat op with
    | false => rfl
    | true => rw [hfl hx]; rfl
  have hpa : packetAtomic p = some (op, o, p.opnd.getLsbD 4) := by
    rw [packetAtomic, hop, hat]
    dsimp only
    rw [hwide, if_neg Bool.false_ne_true]
  unfold State.applyPacket
  rw [ht]
  change State.applyAtomic _ _ _ _ = _
  rw [State.applyAtomic, hpa]
  dsimp only
  rw [hfault]
  dsimp only
  split <;> rfl

end

/-! ### Requests and launch records -/

section
variable {s : State} {p : Packet} (ha : ArrivesHere s p) {ps : List Phys} (hl : LinesReady s p ps)
include ha hl

/-- A launch record reaches the inbox of its partition (R67). -/
theorem accept_launch (ht : p.type = 0x04) {f : Fate} {u : State} (hf : ∀ ch, f ≠ .waits ch)
    (happ : s.applyLaunch p.dfn.toNat p = (f, u)) (port : Fin 21) : s.acceptPacket port p = u.settle p f := by
  have hps : ps = [] := hl.empty (by rw [lineCount, ht]; rfl)
  subst hps
  refine accept_applied ha hl hf ?_
  unfold State.applyPacket
  rw [ht]
  exact happ

theorem accept_request (ht : p.type = 0x03) {f : Fate} {u : State} (hf : ∀ ch, f ≠ .waits ch)
    (happ : s.applyReq p.dfn.toNat p = (f, u)) (port : Fin 21) : s.acceptPacket port p = u.settle p f := by
  have hps : ps = [] := hl.empty (by rw [lineCount, ht]; rfl)
  subst hps
  refine accept_applied ha hl hf ?_
  unfold State.applyPacket
  rw [ht]
  exact happ

end

section
variable {s : State} {p : Packet} {part : Nat}

theorem applyLaunch_refused (h : lpermFor s part p.src.toNat p.sfn.toNat (fieldLE (p.flits.headD []) 0 2) = none) :
    s.applyLaunch part p = (.refused 0x01, s) := by
  rw [State.applyLaunch, h]

theorem applyLaunch_queued {e : Lperm}
    (h : lpermFor s part p.src.toNat p.sfn.toNat (fieldLE (p.flits.headD []) 0 2) = some e)
    (hr : recordReason s part e.maxPrio (p.flits.headD []) = none)
    (hroom : ((waitingIn s part isInbox).filter fun l => !l.entered).length < 16) :
    s.applyLaunch part p = (.applied, s.queueLaunch (launchOfRecord s part .inbox (p.flits.headD []) [])) := by
  rw [State.applyLaunch, h]
  dsimp only
  rw [hr]
  dsimp only
  rw [if_neg (by omega)]

/-- A request's record enters its ring and the queue's TAIL goes on (R37). -/
theorem applyReq_queued {h17 : part < 17} {ctl rec_ : Phys} {bs : List Byte} (hflits : p.flits = [bs])
    (hbase : ((s.fns[part]).rqbase.toList.getD (bitsOf p.addr.toNat 0 4) 0).toNat ≠ 0)
    (hctl : packetLines s part .write ((s.fns[part]).rqbase.toList.getD (bitsOf p.addr.toNat 0 4) 0).toNat 1 = .ok [ctl])
    (hcd : ctl.diff = false)
    (hbusy : busyChan s part (accessChans s (pktReq part) ctl.addr (ctl.mtype ≠ 0) .atomic) = none)
    (hsound : sideFault s part ctl.addr (ctl.mtype ≠ 0) = none) :
    let u := s.applyLine ctl.addr
    let side : Bool := ctl.mtype ≠ 0
    let head := u.lookLE part ctl.addr 8 side
    let tail := u.lookLE part (ctl.addr + 8) 8 side
    let size := u.lookLE part (ctl.addr + 16) 4 side
    packetLines s part .write (((s.fns[part]).rqbase.toList.getD (bitsOf p.addr.toNat 0 4) 0).toNat +
      64 * (1 + tail % size)) 1 = .ok [rec_] →
    rec_.diff = false → reqSizeOk size = true → (tail + 2 ^ 64 - head) % 2 ^ 64 < size →
    busyChan s part (accessChans s (pktReq part) ctl.addr side .atomic ++
      accessChans s (pktReq part) rec_.addr (rec_.mtype ≠ 0) .full) = none →
    s.applyReq part p = (.applied,
      (((u.writeLine part rec_ (BitVec.allOnes 64) bs).access (pktReq part) ctl.addr side .atomic).put part (ctl.addr + 8)
        (natToBytes 8 ((tail + 1) % 2 ^ 64)) side)) := by
  intro u side head tail size hrec hrd hsize hroom hbusy2
  have hfree : ¬ size ≤ (tail + 2 ^ 64 - head) % 2 ^ 64 := Nat.not_le.2 hroom
  rw [State.applyReq, dif_pos h17]
  dsimp only
  rw [if_neg hbase, hctl]
  dsimp only
  rw [hcd, hbusy, hsound]
  dsimp only
  rw [hsize, Bool.not_true, if_neg Bool.false_ne_true, hrec]
  dsimp only
  rw [List.any_cons, hrd, List.any_nil, Bool.or_self, if_neg Bool.false_ne_true, if_neg hfree, List.flatMap_cons,
    List.flatMap_nil, List.append_nil, hbusy2, hflits]
  rfl

end

/-- A packet of one line stores it under its mask. -/
theorem accept_write_one {w : State} {part : Nat} {ps : List Phys} {ph : Phys} {m : BitVec 64} {bs : List Byte}
    (hps : ps = [ph]) (h : m = BitVec.allOnes 64 ∨ sideFault w part ph.addr (ph.mtype ≠ 0) = none) :
    let u := (w.applyLine ph.addr).access (pktReq part) ph.addr (ph.mtype ≠ 0) (maskUse m)
    StoredFor u (w.writeLines part ps [m] [bs]) part ph.addr (ph.mtype ≠ 0) ((List.range 64).map fun i =>
      if m.getLsbD i then bs.getD i 0 else (u.look part ph.addr 64 (ph.mtype ≠ 0)).getD i 0) := by
  rw [hps]
  exact State.writeLine_stored h

/-- Settles O42, by the fate that the checks give a packet (`State.fateOf`) and what settles it: each type's effect, each
check's DROP, the capture in a spillway and the wait at a channel. -/
theorem packetsAtTheirDestination : Obligations.PacketsAtTheirDestination := by
  unfold Obligations.PacketsAtTheirDestination
  intro s p part
  refine ⟨fun ps ha hl => ?_, fun port hc => ?_, fun port ha => ?_⟩
  · intro w
    refine ⟨fun ht => ⟨?_, ?_⟩, ?_, ?_, ?_, ?_⟩
    · exact accepts_of rfl ht fun port => accept_write ha hl ht port
    · intro ph m bs side hps hbe hflits hm u
      refine accepts_of rfl ht fun port => ?_
      rw [accept_write ha hl ht port, hbe, hflits]
      exact (accept_write_one hps hm).settle p
    · intro op o ph ht hps hop n a side v hat hfl hfault
      have hacc := accept_atomic ha hl ht hps hop hat hfl hfault
      split
      next hcomb => exact accepts_of rfl ht fun port => by rw [hacc port, if_pos hcomb]
      next hcomb =>
        intro u
        refine accepts_of rfl ht fun port => ?_
        rw [hacc port, if_neg hcomb]
        exact (State.put_storedFor u part a _ side).settle p
    · intro h17 ctl rec_ bs ht hflits hbs base side rside used hbase hctl hcd hbusy hsound u head tail size hrec hrd hlo hhi
        hpow hroom hbusy2 x v
      have hps : ps = [] := hl.empty (by rw [lineCount, ht]; rfl)
      subst hps
      have hsize : reqSizeOk size = true := by
        rw [reqSizeOk, decide_eq_true hlo, decide_eq_true hhi, decide_eq_true hpow]
        rfl
      refine ⟨?_, accepts_of rfl ht fun port => ?_⟩
      · have hline := State.writeLine_stored (w := u) (part := part) (ph := rec_) (bs := bs) (.inl rfl)
        dsimp only at hline
        rw [mergeLine_all hbs] at hline
        exact hline
      · rw [accept_request ha hl ht (by nofun)
          (applyReq_queued hflits hbase hctl hcd hbusy hsound hrec hrd hsize hroom hbusy2) port]
        exact (State.put_storedFor _ part (ctl.addr + 8) _ side).settle p
    · intro ht r
      refine ⟨fun hnone => accepts_of rfl ht fun port => ?_, fun e he hr hroom => accepts_of rfl ht fun port => ?_⟩
      · have hacc := accept_launch ha hl ht (by nofun) (applyLaunch_refused hnone) port
        exact ⟨hacc, hacc ▸ (s.settle_packets p (by nofun)).launches⟩
      · rw [accept_launch ha hl ht (by nofun) (applyLaunch_queued he hr hroom) port]
        exact (State.settle_packets _ p (by nofun)).launches
    · intro hps hown done
      exact ⟨fun ht => accepts_of rfl ht fun port => accept_blocks ha hl (.inl ht) hps hown port,
        fun ht => accepts_of rfl ht fun port => accept_blocks ha hl (.inr ht) hps hown port⟩
  · refine ⟨fun hh => ?_, fun hh hf => ?_, fun hh hf ht => ?_, fun hh hf ht => ⟨fun hn => ?_, fun h0 he hr => ⟨fun hg => ?_, ?_⟩⟩⟩
    · have hfate : s.fateOf (cameBy port) p = (.silent, s) := by
        rw [State.fateOf, hh]
        rfl
      exact (exec_dataPacketAccept port).trans (congrArg Host.Outcome.next (State.acceptPacket_ends hc hfate fun _ => nofun))
    · refine accept_drops hc port (s.logUnit_logs .checkFail 2 0 5 0 dropCheck 0 p.gang) ?_
      rw [State.fateOf, hh, hf]
      rfl
    · exact accept_drops hc port (OnlyLogs.refl s) (fateOf_badType hh hf _ ht)
    · exact accept_drops hc port (OnlyLogs.refl s) (fateOf_noFunction hh hf _ ht hn)
    · obtain ⟨h17, he⟩ := he
      exact accept_drops hc port (OnlyLogs.refl s) (fateOf_foreign hh hf _ ht h0 h17 he hr hg)
    · obtain ⟨h17, he⟩ := he
      intro d u hg hw hs
      exact (exec_dataPacketAccept port).trans (congrArg Host.Outcome.next
        (State.acceptPacket_ends hc (fateOf_captured hh hf _ ht h0 h17 he hr hg hw hs) fun _ => nofun))
  · refine ⟨fun x hx => ?_, fun ps hat => ⟨fun hd => ?_, fun ch hd hbusy => ?_⟩⟩
    · obtain ⟨c, a⟩ := x
      refine accept_drops ha.1 port (s.logUnit_logs c 0 part 5 0 dropXlate (BitVec.ofNat 64 a) p.gang) ?_
      rw [fateOf_arrives ha, hx]
    · refine accept_drops ha.1 port (OnlyLogs.refl s) ?_
      unfold LinesAt at hat
      rw [fateOf_arrives ha, hat]
      dsimp only
      rw [hd, if_pos rfl]
    · have hfate : s.fateOf (cameBy port) p = (.waits ch, s) := by
        unfold LinesAt at hat
        rw [fateOf_arrives ha, hat]
        dsimp only
        rw [hd, if_neg Bool.false_ne_true, hbusy]
      refine accept_runsTo ?_
      rw [State.acceptPacket_waits ha.1 hfate]
      refine ⟨SameMemory.of_eq rfl rfl, _, rfl, rfl, rfl, ?_⟩
      cases port <;> simp [cameBy]

end Sys2Proof.Machine
end

section
/-! Packets on their way and their answers (R30-R34, R39, R40, R42, R110, R118, R119, R132, R133, R382, R386): injection,
forwarding, the control packets that end a packet, and what a sequencer hears of a cut. -/

namespace Sys2Proof.Machine

/-! ### What neither passes time nor sets power

What engines, homes and the fabric do within a cycle. -/

/-- The clock and the power controller stand as they were. -/
def Steady (s t : State) : Prop := t.cycle = s.cycle ∧ t.power = s.power

theorem Steady.refl (s : State) : Steady s s := ⟨rfl, rfl⟩

theorem Steady.trans {s t u : State} (h : Steady s t) (h' : Steady t u) : Steady s u :=
  ⟨h'.1.trans h.1, h'.2.trans h.2⟩

theorem Steady.ite {s t u : State} {c : Prop} [Decidable c] (ht : Steady s t) (hu : Steady s u) :
    Steady s (if c then t else u) := by
  split
  · exact ht
  · exact hu

theorem Steady.foldl {α : Type} (f : State → α → State) (hf : ∀ s a, Steady s (f s a)) (l : List α) (s : State) :
    Steady s (l.foldl f s) := by
  induction l generalizing s with
  | nil => exact Steady.refl s
  | cons a l ih => exact (hf s a).trans (ih (f s a))

theorem OnlyLogs.steady {s t : State} (h : OnlyLogs s t) : Steady s t := ⟨(congrArg State.cycle h :), h.power⟩

theorem OnlyMemorySide.steady {s t : State} (h : OnlyMemorySide s t) : Steady s t := ⟨h.cycle, h.power⟩

/-- A fold that an error ends stays at it. -/
theorem foldl_error {ε σ α : Type} (f : Except ε σ → α → Except ε σ) (hf : ∀ e a, f (.error e) a = .error e) (l : List α)
    (e : ε) : l.foldl f (.error e) = .error e := by
  induction l with
  | nil => rfl
  | cons a l ih => rw [List.foldl_cons, hf, ih]

/-! ### The source of a packet (R115, R382) -/

section
variable {s t : State}

theorem pumpLines_steady (s : State) (c : Fin 256) (l : Launch) (a p : Nat) : Steady s (pumpLines s c l a p) := by
  have hpoke (u : State) (x : Nat) (bs : List Byte) : Steady u (u.poke l.part x bs) := (u.poke_memorySide _ _ _).steady
  unfold pumpLines
  dsimp only
  split
  · exact hpoke s _ _
  · exact (Steady.foldl _ (fun u i => Steady.ite (Steady.refl u) (hpoke u _ _)) _ s).trans
      (Steady.foldl _ (fun u n => (u.logUnit_logs _ _ _ _ _ _ _ _).steady) _ _)

theorem pumpOut_steady {c : Fin 256} {p w : Nat} (h : pumpOut s c p w = .ok t) : Steady s t := by
  unfold pumpOut at h
  split at h
  · exact Except.ok.inj h ▸ Steady.refl s
  · next l _ =>
    split at h
    · exact Except.ok.inj h ▸ Steady.refl s
    · dsimp only at h
      split at h
      · cases h
      · next a _ =>
        have hmeter := (State.meter_memorySide (pumpLines s c l a p) l.part 8 65536).steady
        exact Except.ok.inj h ▸ ((pumpLines_steady s c l a p).trans hmeter).trans ⟨rfl, rfl⟩

theorem pumpIn_steady {c : Fin 256} {p : Nat} {who : Option Nat} (h : pumpIn s c p who = .ok t) : Steady s t := by
  unfold pumpIn at h
  dsimp only at h
  split at h
  · exact Except.ok.inj h ▸ ⟨rfl, rfl⟩
  · split at h
    · exact Except.ok.inj h ▸ ⟨rfl, rfl⟩
    · split at h
      · exact Except.ok.inj h ▸ ⟨rfl, rfl⟩
      · split at h
        · cases h
        · split at h
          · cases h
          · exact Except.ok.inj h ▸ ⟨rfl, rfl⟩

theorem State.pumpAs_steady {c : Fin 256} {p : Fin 32} {who : Option Nat} (h : s.pumpAs c p who = .ok t) : Steady s t := by
  unfold State.pumpAs at h
  split at h
  · exact Except.ok.inj h ▸ Steady.refl s
  · split at h
    · exact Except.ok.inj h ▸ Steady.refl s
    · split at h
      · cases h
      · next u hout =>
        split at h
        · cases h
        · next v hin =>
          exact Except.ok.inj h ▸ ((pumpOut_steady hout).trans (pumpIn_steady hin)).trans ⟨rfl, rfl⟩

theorem State.pumpRange_steady {c : Fin 256} {who : Option Nat} {off len : Nat} (h : s.pumpRange c who off len = .ok t) :
    Steady s t := by
  unfold State.pumpRange at h
  generalize poldersOf off len = l at h
  induction l generalizing s with
  | nil => exact Except.ok.inj h ▸ Steady.refl s
  | cons p l ih =>
    rw [List.foldl_cons] at h
    dsimp only at h
    cases hp : s.pumpAs c (Fin.ofNat 32 p) who with
    | ok u =>
      rw [hp] at h
      exact (State.pumpAs_steady hp).trans (ih h)
    | error e =>
      rw [hp] at h
      rw [foldl_error _ (fun _ _ => rfl) l e] at h
      cases h

theorem State.reachSpad_steady {m : EngCmd} {o n : Nat} (h : s.reachSpad m o n = .ok t) : Steady s t := by
  unfold State.reachSpad at h
  split at h
  · cases h
  · split at h
    · cases h
    · next u hu =>
      exact Except.ok.inj h ▸ (State.pumpRange_steady hu).trans (Steady.ite ⟨rfl, rfl⟩ (Steady.refl u))

theorem engRead_steady {m : EngCmd} {e : EngAddr} {n : Nat} {bs : List Byte} (h : engRead s m e n = .ok (bs, t)) :
    Steady s t := by
  unfold engRead at h
  split at h
  · split at h
    · cases h
    · next u hu =>
      split at h
      · cases h
      · cases h
        exact State.reachSpad_steady hu
  next a =>
    split at h
    next i w _ =>
      split at h
      · cases h
      · split at h
        · cases h
        · dsimp only at h
          split at h
          · split at h
            · cases h
            · cases h
              exact (((s.engTlbWin_memorySide m w a).trans (State.applyStored_memorySide _ _ _ a)).trans
                (State.accessWin_memorySide _ _ _ _ a)).steady
          · cases h
    · split at h
      · cases h
      · split at h
        · cases h
        · split at h
          · cases h
            exact ((s.engTlb_memorySide m a).trans (State.meter_memorySide _ _ _ _)).steady
          · dsimp only at h
            split at h
            · cases h
            · cases h
            · cases h
              exact (((s.engTlb_memorySide m a).trans (State.applyLine_memorySide _ _)).trans
                (State.access_memorySide _ _ _ _ _)).steady

theorem packetSource_steady {m : EngCmd} {e : EngAddr} {n : Nat} {lines : List (List Byte)}
    (h : packetSource s m e n = .ok (lines, t)) : Steady s t := by
  induction n generalizing lines t with
  | zero =>
    cases h
    exact Steady.refl s
  | succ n ih =>
    rw [packetSource] at h
    cases hr : packetSource s m e n with
    | error x =>
      rw [hr] at h
      cases h
    | ok r =>
      obtain ⟨l, u⟩ := r
      rw [hr] at h
      change (if onDiffPage u m (e.plus (64 * n)) then .error (.fail stDiff)
        else (engRead u m (e.plus (64 * n)) 64).map fun x => (l ++ [x.1], x.2)) = _ at h
      split at h
      · cases h
      · cases hread : engRead u m (e.plus (64 * n)) 64 with
        | error x =>
          rw [hread] at h
          cases h
        | ok x =>
          obtain ⟨bs, v⟩ := x
          rw [hread] at h
          cases h
          exact (ih hr).trans (engRead_steady hread)

end

/-! ### Injection (R30, R31, R42, R382) -/

/-- A packet as its source seals it holds its check codes (R33, R34). -/
theorem Packet.sealed_ok (p : Packet) : p.sealed.hccOk = true ∧ p.sealed.flitsOk = true :=
  ⟨decide_eq_true rfl, decide_eq_true rfl⟩

/-- The next packet of a command, before it is sealed. -/
def EngCmd.packetOf (m : EngCmd) (u : State) (lines : List (List Byte)) : Packet :=
  let body := fabBody m m.moved lines
  let member := memberOf u m.launch m.part (fabRank m)
  { Packet.zero with
    type := BitVec.ofNat 8 body.1, cls := BitVec.ofNat 2 (fabClass m), dst := BitVec.ofNat 11 member.1,
    src := BitVec.ofNat 11 (selfMod u), dfn := BitVec.ofNat 8 member.2, sfn := BitVec.ofNat 8 m.part,
    gang := (u.ctxOf m.launch m.core).gang,
    pseq := BitVec.ofNat 32 (SMap.get 0 u.fabric.streams (streamKey member.1 (fabClass m) m.part)),
    addr := BitVec.ofNat 64 body.2.1, be := body.2.2.2.1,
    opnd := BitVec.ofNat 32 body.2.2.1, flits := body.2.2.2.2 }

/-- What the source keeps of that packet. -/
def EngCmd.sentOf (m : EngCmd) (u : State) : SentPkt :=
  let dst := (memberOf u m.launch m.part (fabRank m)).1
  { dst := dst, sfn := m.part, cls := fabClass m,
    pseq := SMap.get 0 u.fabric.streams (streamKey dst (fabClass m) m.part), gang := (u.ctxOf m.launch m.core).gang,
    core := some m.core, launch := m.launch, cmd := some m.id, entry := none }

/-- The packet as it is injected. -/
def EngCmd.waiting (m : EngCmd) (u : State) (lines : List (List Byte)) : WaitPkt :=
  { pkt := (m.packetOf u lines).sealed, info := m.sentOf u, part := m.part, seq := false, due := u.cycle }

/-- The state in which it is injected: its stream and its command have gone on. -/
def EngCmd.moveOn (m : EngCmd) (u : State) : State :=
  (u.takePseq (memberOf u m.launch m.part (fabRank m)).1 (fabClass m) m.part).2.setCmd
    { m with moved := m.moved + 1, parked := false }

section
variable {s u : State} {m : EngCmd} {lines : List (List Byte)}

theorem State.injectNext_sends
    (hsrc : packetSource s m (fabSource m m.moved).1 (fabSource m m.moved).2 = .ok (lines, u)) {t : State}
    (hin : (m.moveOn u).inject (m.waiting u lines) = (t, none)) : s.injectNext m = t := by
  unfold State.injectNext
  dsimp only
  rw [hsrc]
  dsimp only
  split
  · exact congrArg Prod.fst hin
  next hv => exact absurd ((congrArg Prod.snd hin).symm.trans hv) nofun

/-- A packet whose gang injects and whose stream is not held is sent now. -/
theorem State.inject_now {w : WaitPkt} {t : State} (hg : gangHeld s w.part w.pkt.gang = false)
    (hh : ∀ e ∈ s.fabric.held, e.pkt.gang ≠ w.pkt.gang) (ht : s.transmit w = .ok t) : s.inject w = (t, none) := by
  have hany : (s.fabric.held.any fun e => e.pkt.gang = w.pkt.gang && samePacketStream e.pkt w.pkt) = false :=
    List.any_eq_false.2 fun e he => by simp [hh e he]
  rw [State.inject, hg, hany, Bool.or_self, if_neg Bool.false_ne_true, State.sendNow, ht]

/-- A packet has left by a port: its gang has counted it and its record is kept. -/
def State.sentBy (s : State) (n : Fin 20) (w : WaitPkt) : State :=
  let v := (s.gangSent w.part w.pkt.gang).updPort n fun q =>
    { q with queue := q.queue ++ [⟨20, 0, s.cycle + injectLatency, w.pkt⟩] }
  { v with fabric := { v.fabric with sent := v.fabric.sent ++ [w.info] } }.meter w.part 9 (64 * w.pkt.flits.length)

theorem State.sentBy_queue (s : State) (n : Fin 20) (w : WaitPkt) : ((s.sentBy n w).fabric.ports[n]).queue =
    (s.fabric.ports[n]).queue ++ [⟨20, 0, s.cycle + 60, w.pkt⟩] := by
  unfold State.sentBy
  extract_lets v
  have hfab := (congrArg State.fabric
    (State.meter_memorySide { v with fabric := { v.fabric with sent := v.fabric.sent ++ [w.info] } } w.part 9
      (64 * w.pkt.flits.length)).1 :)
  rw [hfab]
  simp [v, State.updPort, State.gangSent, State.mapGang, injectLatency]

/-- At its first hop it stands behind the others of its port (R29-R31). -/
theorem State.transmit_queued {w : WaitPkt} {n : Fin 20} (hdst : w.pkt.dst.toNat ≠ selfMod s)
    (hn : routePort s w.pkt.cls.toNat w.pkt.dst.toNat = some n) (hown : ownsPort s w.part n w.seq = true)
    (huse : Port.use s.fabric.ports[n] = .ready) : s.transmit w = .ok (s.sentBy n w) := by
  have huse' : Port.use (s.gangSent w.part w.pkt.gang).fabric.ports[n] = .ready := huse
  unfold State.transmit
  dsimp only
  rw [if_neg hdst, hn]
  dsimp only
  rw [hown, Bool.not_true, if_neg Bool.false_ne_true, State.emitData, huse']
  rfl

end

/-! ### Forwarding (R30, R32, R34) -/

section
variable (s : State)

/-- A port that goes on with its use and its control packets leaves routes and queues as they are. -/
theorem State.updPort_routes (n : Fin 20) (f : Port → Port) (hu : ∀ q, Port.use (f q) = Port.use q)
    (hq : ∀ q, (f q).ctlQueue = q.ctlQueue) : SameRoutes s (s.updPort n f) := by
  have hport (m : Fin 20) : (s.updPort n f).fabric.ports[m] =
      if n.val = m.val then f s.fabric.ports[n] else s.fabric.ports[m] := by
    simp only [State.updPort, Fin.getElem_fin, Vector.getElem_set]
  refine ⟨rfl, fun _ _ => rfl, rfl, fun m => ?_, fun m => ?_, SameMemory.of_eq rfl rfl⟩
  · rw [hport m]
    split
    next hm => exact (hu _).trans (congrArg (fun i => Port.use s.fabric.ports[i]) (Fin.ext hm))
    · rfl
  · rw [hport m]
    split
    next hm => exact (hq _).trans (congrArg (fun i => (s.fabric.ports[i]).ctlQueue) (Fin.ext hm))
    · rfl

theorem State.returnFlits_routes (src : Fin 21) (vc : Fin 6) (n : Nat) : SameRoutes s (s.returnFlits src vc n) := by
  unfold State.returnFlits
  split
  · exact s.updPort_routes _ _ (fun _ => rfl) (fun _ => rfl)
  · exact SameRoutes.refl s

variable {s} {p : Packet}

section
variable (hdst : p.dst.toNat ≠ selfMod s) (hh : p.hccOk = true) (hf : p.flitsOk = true)
include hdst hh hf

theorem forward_passes {vc : Fin 6} {n : Fin 20} (hvc : vc.val < 4) (ht : typeAllowed p.cls.toNat p.type.toNat = true)
    (hn : routePort s p.cls.toNat p.dst.toNat = some n) (huse : Port.use s.fabric.ports[n] = .ready) :
    RunsTo (.packetForward vc p) s fun t => (t.fabric.ports[n]).queue = (s.fabric.ports[n]).queue ++
      [⟨s.inp.port, Fin.ofNat 5 (vc.val + 1), s.cycle + 30, p.atHop (vc.val + 1)⟩] ∧ SameMemory s t := by
  have hexec : exec (.packetForward vc p) s = .next (s.updPort n fun q => { q with
      queue := q.queue ++ [⟨s.inp.port, Fin.ofNat 5 (vc.val + 1), s.cycle + 30, p.atHop (vc.val + 1)⟩] }) := by
    change execPacketForward vc p s = _
    unfold execPacketForward
    rw [if_neg (by omega), if_neg hdst]
    unfold State.forwardData
    simp only [hh, hf, typeOk, ht, Bool.not_true, Bool.false_eq_true, if_false]
    rw [if_neg (by omega), hn]
    dsimp only
    rw [State.emitData, huse]
    rfl
  refine ⟨_, hexec, ?_, SameMemory.of_eq rfl rfl⟩
  simp [State.updPort]

variable (hsrc : p.src.toNat ≠ selfMod s)
include hsrc

/-- A packet that is not forwarded leaves its buffer, and its source is told. -/
theorem forward_drops {vc : Fin 6} {r : Nat} (hvc : vc.val ≠ 5)
    (h : s.forwardData vc.val p = (s.leaveBuffer s.inp.port vc.val p).dropPacket p r) :
    RunsTo (.packetForward vc p) s fun t => DropLeaves s t p r ∧ SameMemory s t := by
  have hexec : exec (.packetForward vc p) s = .next ((s.leaveBuffer s.inp.port vc.val p).dropPacket p r) := by
    change execPacketForward vc p s = _
    unfold execPacketForward
    rw [if_neg hvc, if_neg hdst, h]
  exact ⟨_, hexec, State.dropPacket_leaves (s.returnFlits_routes _ _ _) hsrc r⟩

theorem forward_lastHop (ht : typeAllowed p.cls.toNat p.type.toNat = true) :
    RunsTo (.packetForward 4 p) s fun t => DropLeaves s t p dropHops ∧ SameMemory s t := by
  refine forward_drops hdst hh hf hsrc (by decide) ?_
  unfold State.forwardData
  simp only [hh, hf, typeOk, ht, Bool.not_true, Bool.false_eq_true, if_false]
  rfl

theorem forward_badType {vc : Fin 5} (ht : typeAllowed p.cls.toNat p.type.toNat = false) :
    RunsTo (.packetForward vc.castSucc p) s fun t => DropLeaves s t p dropBadtype ∧ SameMemory s t := by
  have hvc : vc.castSucc.val ≠ 5 := Nat.ne_of_lt vc.isLt
  refine forward_drops hdst hh hf hsrc hvc ?_
  unfold State.forwardData
  simp only [hh, hf, typeOk, ht, Bool.not_true, Bool.not_false, Bool.false_eq_true, if_false, if_true]

end

theorem forward_control {n : Fin 20} (hdst : s.inp.ctl.dst.toNat ≠ selfMod s)
    (hn : routePort s 3 s.inp.ctl.dst.toNat = some n) (hok : s.inp.ctl.cccOk = true) (hk : ctypeKnown s.inp.ctl = true)
    (hhop : s.inp.ctl.hop.toNat < 4) (huse : Port.use s.fabric.ports[n] = .ready) :
    RunsTo (.packetForward 5 p) s fun t => (t.fabric.ports[n]).ctlQueue = (s.fabric.ports[n]).ctlQueue ++
      [⟨s.inp.port, s.inp.last, s.cycle + 12, s.inp.ctl.atHop (s.inp.ctl.hop.toNat + 1)⟩] ∧ SameMemory s t := by
  have hexec : exec (.packetForward 5 p) s = .next (s.updPort n fun q => { q with ctlQueue := q.ctlQueue ++
      [⟨s.inp.port, s.inp.last, s.cycle + 12, s.inp.ctl.atHop (s.inp.ctl.hop.toNat + 1)⟩] }) := by
    change execPacketForward 5 p s = _
    unfold execPacketForward
    rw [if_pos (by decide), if_neg hdst]
    unfold State.forwardControl
    rw [hok, hk, decide_eq_false (by omega), hn]
    simp only [Bool.not_true, Bool.or_self, Bool.false_eq_true, if_false]
    rw [State.emitControl, huse]
    rfl
  refine ⟨_, hexec, ?_, SameMemory.of_eq rfl rfl⟩
  simp [State.updPort]

end

/-! ### Answers (R39, R40, R386) -/

section
variable {s : State} {r : SentPkt}

theorem State.takeSent_found {f : SentPkt → Bool} (h : s.fabric.sent.find? f = some r) :
    s.takeSent f = (some r, { s with fabric := { s.fabric with sent := s.fabric.sent.erase r } }) := by
  rw [State.takeSent, h]

theorem onControl_here {ctype : BitVec 8} (h : ctlHere s s.inp.ctl ctype = true) (k : Control → State) :
    onControl s ctype k = .next (k s.inp.ctl) := by
  simp only [ctlHere, Bool.and_eq_true, decide_eq_true_eq] at h
  obtain ⟨⟨hty, hd⟩, hok⟩ := h
  unfold onControl
  rw [if_neg (by simp [hty, hd]), hok]
  rfl

theorem ackPacket_takes (h : ctlHere s s.inp.ctl 0x01 = true) (hone : bitsOf s.inp.ctl.arg16.toNat 8 8 = 1)
    (hr : s.fabric.sent.find? (·.is s.inp.ctl.src.toNat (bitsOf s.inp.ctl.arg16.toNat 0 5)
      (bitsOf s.inp.ctl.arg16.toNat 5 2) s.inp.ctl.arg32.toNat) = some r) :
    Runs .ackPacket s (({ s with fabric := { s.fabric with sent := s.fabric.sent.erase r } } : State).packetDone r stOk) := by
  have hseq : (s.inp.ctl.arg32.toNat + 0) % 2 ^ 32 = s.inp.ctl.arg32.toNat := Nat.mod_eq_of_lt s.inp.ctl.arg32.isLt
  change execAckPacket s = _
  unfold execAckPacket
  rw [onControl_here h]
  dsimp only
  rw [hone, List.range_one, List.foldl_cons, List.foldl_nil, hseq, State.takeSent_found hr]

theorem dropPacket_takes (h : ctlHere s s.inp.ctl 0x02 = true)
    (hr : s.fabric.sent.find? (·.is s.inp.ctl.src.toNat (bitsOf s.inp.ctl.arg16.toNat 0 5)
      (bitsOf s.inp.ctl.arg16.toNat 5 2) s.inp.ctl.arg32.toNat) = some r) :
    Runs .dropPacket s (((({ s with fabric := { s.fabric with sent := s.fabric.sent.erase r } } : State).gangReceived r.sfn
      r.gang).countCtx r.launch (r.core.getD 0) 11 (if r.core.isSome then 1 else 0)).packetDropped r
        (bitsOf s.inp.ctl.arg16.toNat 8 8)) := by
  have hp := List.find?_some hr
  have hany : (s.fabric.sent.any fun r => r.is s.inp.ctl.src.toNat (bitsOf s.inp.ctl.arg16.toNat 0 5)
      (bitsOf s.inp.ctl.arg16.toNat 5 2) s.inp.ctl.arg32.toNat) = true :=
    List.any_eq_true.2 ⟨r, List.mem_of_find?_eq_some hr, hp⟩
  change execDropPacket s = _
  unfold execDropPacket
  rw [onControl_here h]
  dsimp only
  rw [hany, if_pos rfl, State.takeSent_found hr]

/-- A refusal's command has the refusal's reason for its status where it had none. -/
theorem State.launchRefused_ok {m : EngCmd} (hm : s.cmds.find? (·.id = m.id) = some m) (hst : m.status = stOk) (reason : Nat) :
    s.launchRefused m.id reason = s.setCmd { m with status := BitVec.ofNat 8 (0x30 + reason) } := by
  rw [State.launchRefused, hm]
  dsimp only
  rw [if_pos hst]

theorem ackTimeout_waits {src : BitVec 11} {sfn dfn : BitVec 8} {cls : BitVec 2} {a : AckRun}
    (ha : s.fabric.acks.find? (fun a => a.src = src.toNat && a.sfn = sfn.toNat && a.cls = cls.toNat) = some a)
    (hw : s.cycle < a.since + 256) : Runs (.ackTimeout src sfn dfn cls) s s := by
  change execAckTimeout src sfn dfn cls s = _
  unfold execAckTimeout
  dsimp only
  rw [ha]
  dsimp only
  rw [if_neg (by omega)]

theorem ackTimeout_leaves {src : BitVec 11} {sfn dfn : BitVec 8} {cls : BitVec 2} {a : AckRun} {n : Fin 20}
    (ha : s.fabric.acks.find? (fun a => a.src = src.toNat && a.sfn = sfn.toNat && a.cls = cls.toNat) = some a)
    (hdue : a.since + 256 ≤ s.cycle) (hself : a.src ≠ selfMod s) (hlt : a.src < 2048)
    (hn : routePort s 3 a.src = some n) (huse : Port.use s.fabric.ports[n] = .ready) :
    RunsTo (.ackTimeout src sfn dfn cls) s fun t =>
      (t.fabric.ports[n]).ctlQueue = (s.fabric.ports[n]).ctlQueue ++ [⟨20, false, s.cycle + 20,
        ctlOf s 0x01 a.src (a.sfn % 32 + 2 ^ 5 * a.cls + 2 ^ 8 * a.count) a.first⟩] ∧
      t.fabric.acks = s.fabric.acks.filter fun a => !(a.src = src.toNat && a.sfn = sfn.toNat && a.cls = cls.toNat) := by
  generalize hc : ctlOf s 0x01 a.src (a.sfn % 32 + 2 ^ 5 * a.cls + 2 ^ 8 * a.count) a.first = c
  have hdst : c.dst.toNat = a.src := by
    rw [← hc]
    simpa [ctlOf, Control.atHop] using hlt
  have hexec : exec (.ackTimeout src sfn dfn cls) s = .next ((s.sendControl c).setAcks fun l =>
      l.filter fun a => !(a.src = src.toNat && a.sfn = sfn.toNat && a.cls = cls.toNat)) := by
    change execAckTimeout src sfn dfn cls s = _
    unfold execAckTimeout
    dsimp only
    rw [ha]
    dsimp only
    rw [if_pos hdue, State.sendAck, hc]
  refine ⟨_, hexec, State.sendControl_queued (by rw [hdst]; exact hself) (by rw [hdst]; exact hn) huse, ?_⟩
  change (s.sendControl c).fabric.acks.filter _ = _
  rw [State.sendControl, hdst, if_neg hself, hn]
  dsimp only
  rw [State.emitControl, huse]
  rfl

end

/-- A refusal's command gets its status (R386). -/
theorem State.refusal_sets {s : State} {r : SentPkt} {m : EngCmd} {o : Option SentPkt} (ho : o = some r) (hr : r.cmd = some m.id)
    (hm : s.cmds.find? (·.id = m.id) = some m) (hst : m.status = stOk) (reason : Nat) :
    (match o.bind (·.cmd) with
      | some id => s.launchRefused id reason
      | none => s) = s.setCmd { m with status := BitVec.ofNat 8 (0x30 + reason) } := by
  subst ho
  rw [Option.bind_some, hr]
  exact State.launchRefused_ok hm hst reason

/-! ### Counts that time out (R40, R116) -/

theorem State.updCtx_fabric (s : State) (l : Option Nat) (c : Fin 256) (f : Core → Core) :
    (s.updCtx l c f).fabric = s.fabric := by
  by_cases h : (s.coreAt c).launch = l
  · rw [State.updCtx_here h]
    rfl
  · exact (congrArg State.fabric (s.updCtx_away (f := f) h).1 :)

theorem completeCmd_fabric (s : State) (id : Nat) (st : BitVec 8) : (s.completeCmd id st).fabric = s.fabric := by
  unfold State.completeCmd
  split
  · rfl
  · dsimp only
    split
    · exact (congrArg State.fabric (State.wakeYield_only _ _ _) :).trans (State.updCtx_fabric _ _ _ _)
    · rfl

section
variable {α : Type} (g : Core → α) (hg : ∀ (k : Core) p w, g { k with perf := p, walks := w } = g k)
  (ht : ∀ (k : Core) t st, g (k.tagComplete t st) = g k)
include hg ht

theorem cmdPacketDone_keeps (s : State) (id : Nat) (st : BitVec 8) (n : Nat) (d : Fin 256) :
    g ((s.cmdPacketDone id st n).coreAt d) = g (s.coreAt d) ∧ (s.cmdPacketDone id st n).fabric = s.fabric := by
  unfold State.cmdPacketDone
  split
  · exact ⟨rfl, rfl⟩
  · dsimp only
    split
    · exact ⟨(completeCmd_keeps g hg ht _ _ _ d).1, completeCmd_fabric _ _ _⟩
    · exact ⟨rfl, rfl⟩

/-- Ending the packets of a list as timed out. -/
theorem timedOut_keeps (l : List SentPkt) (s : State) (d : Fin 256) :
    g ((l.foldl (fun s r => match r.cmd with
      | some id => s.cmdPacketDone id stFabricTimeout 1
      | none => s) s).coreAt d) = g (s.coreAt d) ∧
    (l.foldl (fun s r => match r.cmd with
      | some id => s.cmdPacketDone id stFabricTimeout 1
      | none => s) s).fabric = s.fabric := by
  induction l generalizing s with
  | nil => exact ⟨rfl, rfl⟩
  | cons r l ih =>
    rw [List.foldl_cons]
    cases r.cmd with
    | none => exact ih s
    | some id =>
      obtain ⟨hcore, hfab⟩ := ih (s.cmdPacketDone id stFabricTimeout 1)
      obtain ⟨hcore', hfab'⟩ := cmdPacketDone_keeps g hg ht s id stFabricTimeout 1 d
      exact ⟨hcore.trans hcore', hfab.trans hfab'⟩

end

section
variable {s : State} {core : Fin 256} {dest : Fin 2048}

theorem fabricTimeout_waits (h : s.activeOf (s.coreAt core).launch < SMap.get 0 (s.coreAt core).fabSince dest.val + 320000) :
    Runs (.fabricTimeout core dest) s s := if_pos (.inr h)

/-- The packet counts in a core's context for a destination. -/
def SentPkt.countsFor (r : SentPkt) (core : Fin 256) (launch : Option Nat) (dst : Nat) : Bool :=
  r.core = some core && r.launch = launch && r.dst = dst

/-- The packets that a timed-out count named name their core no longer. -/
def State.forgetSent (s : State) (core : Fin 256) (launch : Option Nat) (dst : Nat) : State :=
  let forget (r : SentPkt) : SentPkt := if r.countsFor core launch dst then { r with core := none, cmd := none } else r
  { s with fabric := { s.fabric with sent := s.fabric.sent.map forget } }

/-- The core whose count is cleared: a fence that waited is late. -/
def Core.timedOut (k : Core) (d : Nat) : Core :=
  { k with fabOut := SMap.set 0 k.fabOut d 0, fabSince := SMap.set 0 k.fabSince d 0,
           fabLate := if k.wait = some .fence then some k.pc else k.fabLate,
           wait := if k.wait = some .fence then none else k.wait }

theorem fabricTimeout_clears (hout : SMap.get 0 (s.coreAt core).fabOut dest.val ≠ 0)
    (hdue : SMap.get 0 (s.coreAt core).fabSince dest.val + 320000 ≤ s.activeOf (s.coreAt core).launch) :
    RunsTo (.fabricTimeout core dest) s fun t =>
      (t.coreAt core).fabLate =
        (if (s.coreAt core).wait = some .fence then some (s.coreAt core).pc else (s.coreAt core).fabLate) ∧
      ((s.coreAt core).wait = some .fence → (t.coreAt core).wait = none) ∧
      (t.coreAt core).fabOut = SMap.set 0 (s.coreAt core).fabOut dest.val 0 ∧
      t.fabric.sent = s.fabric.sent.map fun r =>
        if r.core = some core ∧ r.launch = (s.coreAt core).launch ∧ r.dst = dest.val then { r with core := none, cmd := none }
        else r := by
  let lost := s.fabric.sent.filter (·.countsFor core (s.coreAt core).launch dest.val)
  let v := (s.forgetSent core (s.coreAt core).launch dest.val).mapCore core (·.timedOut dest.val)
  have hexec : exec (.fabricTimeout core dest) s = .next (lost.foldl (fun s r => match r.cmd with
      | some id => s.cmdPacketDone id stFabricTimeout 1
      | none => s) v) := if_neg (not_or.2 ⟨hout, Nat.not_lt.2 hdue⟩)
  obtain ⟨hcore, hfab⟩ := timedOut_keeps (fun k => (k.fabLate, k.wait, k.fabOut)) (fun _ _ _ => rfl)
    (Core.tagComplete_keeps (fun k => (k.fabLate, k.wait, k.fabOut)) fun _ _ _ => rfl) lost v core
  have hv : v.coreAt core = (s.coreAt core).timedOut dest.val :=
    State.coreAt_mapCore _ core _
  rw [hv] at hcore
  obtain ⟨hlate, hwait, hout'⟩ := by simpa only [Prod.mk.injEq] using hcore
  refine ⟨_, hexec, hlate, fun hf => hwait.trans (if_pos hf), hout', ?_⟩
  rw [hfab]
  change s.fabric.sent.map _ = _
  congr 1
  funext r
  simp only [SentPkt.countsFor, Bool.and_eq_true, decide_eq_true_eq, and_assoc]

end

/-! ### Cuts (R132, R133) -/

theorem TileEntry.refresh_sent (e : TileEntry) : e.refresh.sent = e.sent := by
  unfold TileEntry.refresh
  split <;> rfl

theorem TileEntry.noteCut_sent (e : TileEntry) (root : Nat) : (e.noteCut root).sent = e.sent := TileEntry.refresh_sent _

section
variable {s : State} {e : TileEntry}

theorem deadlineCut_runs {part : Fin 16} {entry : Fin 256} (he : s.tileEntry (part.val + 1) entry.val = some e)
    (hd : collDue s e = true) : Runs (.collDeadlineCut part entry) s
      (if cutDue s e then s.cutSlots (part.val + 1) e else s.collRun (part.val + 1) entry.val) := by
  change execCollDeadlineCut part entry s = _
  unfold execCollDeadlineCut
  dsimp only
  rw [he]
  dsimp only
  rw [hd, Bool.not_true, if_neg Bool.false_ne_true]
  split <;> rfl

variable (hty : s.inp.ctl.ctype = 0x12) (hdst : s.inp.ctl.dst.toNat = selfMod s) (hok : s.inp.ctl.cccOk = true)
  (he : s.tileEntry (bitsOf s.inp.ctl.arg16.toNat 9 5) (bitsOf s.inp.ctl.arg16.toNat 0 8) = some e)
  (hseq : e.seq % 2 ^ 16 = bitsOf s.inp.ctl.arg32.toNat 16 16)
include hty hdst hok he hseq

/-- A CUT that meets its entry. -/
theorem execCutPacket_meets :
    let part := bitsOf s.inp.ctl.arg16.toNat 9 5
    let idx := bitsOf s.inp.ctl.arg16.toNat 0 8
    let root := bitsOf s.inp.ctl.arg32.toNat 0 11
    execCutPacket s = .next (if s.inp.ctl.arg16.getLsbD 8 then
        ((cutsDown s (e.noteCut root) [root]).setEntry part (e.noteCut root)).collRun part idx
      else if e.rank = 0 then
        ((if e.sent then cutsDown s (e.noteCut root) [root] else s).setEntry part (e.noteCut root)).collRun part idx
      else cutUp s e root) := by
  intro part idx root
  unfold execCutPacket
  dsimp only
  rw [if_neg (by simp [hty, hdst]), hok, Bool.not_true, if_neg Bool.false_ne_true, he]
  dsimp only
  rw [if_neg (not_not_intro hseq)]
  rw [TileEntry.noteCut_sent]
  split
  · rfl
  · split <;> rfl

end

/-- Settles O43: injection and forwarding put a packet behind its port's others, an answer takes the record it names, and the
collective steps are those of their entries. -/
theorem packetsLeaveAndAreAnswered : Obligations.PacketsLeaveAndAreAnswered := by
  unfold Obligations.PacketsLeaveAndAreAnswered
  intro s c
  refine ⟨?_, ?_, ?_, ?_, ?_, ?_, ?_, ?_, ?_, ?_, ?_, ?_, ?_, ?_⟩
  · intro w hw _ u t ht
    change execPacketInject s = _
    unfold execPacketInject
    rw [hw]
    dsimp only
    rw [show ({ s with fabric := { s.fabric with held := s.fabric.held.erase w } } : State).sendNow w = (t, none) by
      rw [State.sendNow, show State.transmit _ w = .ok t from ht]]
  · intro m lines u n hheld hm hsrc dst body gang hlt hself hgang hfree hn huse hown
    obtain ⟨h17, hbit⟩ := hown
    have hdst : (m.packetOf u lines).sealed.dst.toNat = dst := Nat.mod_eq_of_lt hlt
    have hports : ownsPort (m.moveOn u) m.part n false = true := by
      rw [ownsPort, dif_pos h17]
      exact Bool.and_eq_true_iff.2 ⟨hbit, rfl⟩
    have htrans : (m.moveOn u).transmit (m.waiting u lines) = .ok ((m.moveOn u).sentBy n (m.waiting u lines)) := by
      refine State.transmit_queued (fun h => hself (hdst.symm.trans h)) ?_ hports huse
      change routePort u _ (m.packetOf u lines).sealed.dst.toNat = some n
      rw [hdst]
      exact hn
    refine ⟨(m.moveOn u).sentBy n (m.waiting u lines), ?_, (m.packetOf u lines).sealed, ?_, hdst, rfl, rfl, rfl, rfl,
      (Packet.sealed_ok _).1, (Packet.sealed_ok _).2, rfl⟩
    · change execPacketInject s = _
      unfold execPacketInject
      rw [hheld, hm]
      exact congrArg Host.Outcome.next (State.injectNext_sends hsrc (State.inject_now hgang hfree htrans))
    · rw [State.sentBy_queue, ← (packetSource_steady hsrc).1]
      rfl
  · intro vc p n hvc hdst hh hf ht hn huse
    exact forward_passes hdst hh hf hvc ht hn huse
  · intro p hdst hsrc hh hf ht
    exact forward_lastHop hdst hh hf hsrc ht
  · intro vc p hdst hsrc hh hf ht
    exact forward_badType hdst hh hf hsrc ht
  · intro p n hdst hn hok hk hhop huse
    exact forward_control hdst hn hok hk hhop huse
  · intro r h hone hr
    exact ackPacket_takes h hone hr
  · intro r h hr
    exact dropPacket_takes h hr
  · intro r m h hr hcmd hm hst
    change execLrefusePacket s = _
    unfold execLrefusePacket
    rw [onControl_here h]
    exact congrArg Host.Outcome.next (State.refusal_sets hr hcmd hm hst _)
  · intro src sfn dfn cls a n ha
    exact ⟨ackTimeout_waits ha, fun hdue hself hlt hn huse => ackTimeout_leaves ha hdue hself hlt hn huse⟩
  · intro core dest
    exact ⟨fabricTimeout_waits, fabricTimeout_clears⟩
  · intro port hport
    exact if_pos hport
  · intro part entry e he hd
    exact deadlineCut_runs he hd
  · intro hty hdst hok part root e he hseq e'
    have hexec := execCutPacket_meets hty hdst hok he hseq
    split
    next hup =>
      obtain ⟨hbit, hrank⟩ := hup
      refine hexec.trans (congrArg Host.Outcome.next ?_)
      rw [hbit, if_neg Bool.false_ne_true, if_neg hrank]
      rfl
    next hdown =>
      refine hexec.trans (congrArg Host.Outcome.next ?_)
      cases hbit : c.arg16.getLsbD 8 with
      | true => rfl
      | false =>
        have hrank : e.rank = 0 := by_contra fun h => hdown ⟨hbit, h⟩
        rw [if_neg Bool.false_ne_true, if_pos hrank]
        rfl

end Sys2Proof.Machine
end

section
/-! Arrivals in a vote (R110-R112): the packets of a vote and of a sweep, and what they make of the vote. -/

namespace Sys2Proof.Machine

/-! ### What a vote's packets leave alone

Control packets change the fabric interface alone; the counts of those dropped change no route and no queue. -/

section
variable (s : State)

theorem OnlyFabric.foldl {α : Type} (f : State → α → State) (hf : ∀ s a, OnlyFabric s (f s a)) (l : List α) (s : State) :
    OnlyFabric s (l.foldl f s) := by
  induction l generalizing s with
  | nil => rfl
  | cons a l ih => exact (hf s a).trans (ih (f s a))

theorem State.sendVote_fabric (dst slot : Nat) (round : Bool) (phase reason : Nat) (g : BitVec 32) :
    OnlyFabric s (s.sendVote dst slot round phase reason g) := s.sendControl_fabric _

theorem State.tell_fabric (v : Vote) (l : List Nat) (phase reason : Nat) : OnlyFabric s (s.tell v l phase reason) :=
  OnlyFabric.foldl _ (fun s m => s.sendVote_fabric m v.slot v.round phase reason v.incoming) l s

theorem State.sendLevel_fabric (dst sweep : Nat) (received down : Bool) (sum : Nat) :
    OnlyFabric s (s.sendLevel dst sweep received down sum) := s.sendControl_fabric _

/-- Counting a control packet whose check fails. -/
theorem State.countBadOne_only (ctype : BitVec 8) (c : Control) :
    let t := if c.ctype = ctype ∧ c.dst.toNat = selfMod s ∧ !c.cccOk then s.countDrop (arrivalPort s c) else s
    OnlyFabric s t ∧ SameRoutes s t := by
  intro t
  unfold t
  split
  · exact ⟨rfl, s.updPort_routes _ _ (fun _ => rfl) (fun _ => rfl)⟩
  · exact ⟨rfl, SameRoutes.refl s⟩

theorem State.countBad_only (ctype : BitVec 8) : OnlyFabric s (s.countBad ctype) ∧ SameRoutes s (s.countBad ctype) := by
  have h1 := s.countBadOne_only ctype s.inp.ctl
  have h2 := State.countBadOne_only (if s.inp.ctl.ctype = ctype ∧ s.inp.ctl.dst.toNat = selfMod s ∧ !s.inp.ctl.cccOk then
    s.countDrop (arrivalPort s s.inp.ctl) else s) ctype s.inp.ctl2
  exact ⟨h1.1.trans h2.1, h1.2.trans h2.2⟩

end

/-! ### What a vote reads of the machine -/

section
variable {s u : State} (hu : OnlyFabric s u)
include hu

theorem OnlyFabric.votes : u.votes = s.votes := (congrArg State.votes hu :)
theorem OnlyFabric.cores : u.cores = s.cores := (congrArg State.cores hu :)
theorem OnlyFabric.cycle : u.cycle = s.cycle := (congrArg State.cycle hu :)
theorem OnlyFabric.memory : SameMemory s u := hu.packets.memory
theorem OnlyFabric.coreAt (c : Fin 256) : u.coreAt c = s.coreAt c := congrArg (fun v : Vector Core 256 => v[c]) hu.cores

theorem OnlyFabric.leaving (v : Vote) : v.leaving u = v.leaving s := by
  obtain ⟨f, rfl⟩ := hu.exists_eq
  rfl

theorem OnlyFabric.voteOf (m : VoteMsg) (done : Bool) : voteOf u m done = voteOf s m done := by
  obtain ⟨f, rfl⟩ := hu.exists_eq
  rfl

theorem OnlyFabric.sheetVote : sheetVote u = sheetVote s := by
  obtain ⟨f, rfl⟩ := hu.exists_eq
  rfl

theorem OnlyFabric.fixedGang (g : BitVec 32) : fixedGang u g = fixedGang s g := by
  obtain ⟨f, rfl⟩ := hu.exists_eq
  rfl

theorem OnlyFabric.gangLaunch (part : Nat) (g : BitVec 32) : gangLaunch u part g = gangLaunch s part g := by
  obtain ⟨f, rfl⟩ := hu.exists_eq
  rfl

theorem OnlyFabric.prepareFits (v : Vote) (g : BitVec 32) : prepareFits u v g = prepareFits s v g := by
  obtain ⟨f, rfl⟩ := hu.exists_eq
  rfl

theorem OnlyFabric.sheet : u.sheet = s.sheet := (congrArg State.sheet hu :)

theorem OnlyFabric.nextSlot : nextSlot u = nextSlot s := by rw [Machine.nextSlot, Machine.nextSlot, hu.sheet]

variable (hn : selfMod u = selfMod s)
include hn

theorem OnlyFabric.ctlHere (c : Control) (ctype : BitVec 8) : ctlHere u c ctype = ctlHere s c ctype := by
  rw [Machine.ctlHere, Machine.ctlHere, hn]

theorem OnlyFabric.voteMsg (phase : Nat) : voteMsg u phase = voteMsg s phase := by
  have hinp : u.inp = s.inp := (congrArg State.inp hu :)
  rw [Machine.voteMsg, Machine.voteMsg, hinp, hu.ctlHere hn]

theorem OnlyFabric.others (v : Vote) : v.others u = v.others s := by rw [Vote.others, Vote.others, hn]

theorem OnlyFabric.place (v : Vote) : v.place u = v.place s := by rw [Vote.place, Vote.place, hn]

theorem OnlyFabric.isRoot (v : Vote) : v.isRoot u = v.isRoot s := by rw [Vote.isRoot, Vote.isRoot, hu.place hn]

theorem OnlyFabric.parent (v : Vote) : v.parent u = v.parent s := by rw [Vote.parent, Vote.parent, hu.place hn]

theorem OnlyFabric.kids (v : Vote) : v.kids u = v.kids s := by rw [Vote.kids, Vote.kids, hu.place hn]

end

/-! ### A vote in the list of votes -/

/-- The votes with one of them changed. -/
def votesWith (s : State) (v w : Vote) : List Vote := s.votes.map fun x => if x.is v then w else x

section
variable {s : State} {v w w' : Vote}

theorem Vote.is_congr (h : w.is v = true) (x : Vote) : x.is w = x.is v := by
  simp only [Vote.is, Bool.and_eq_true, decide_eq_true_eq] at h
  obtain ⟨⟨⟨⟨hslot, hround⟩, hpart⟩, hinc⟩, hsince⟩ := h
  rw [Vote.is, Vote.is, hslot, hround, hpart, hinc, hsince]

theorem State.setVote_votes (s : State) (h : w.is v = true) : (s.setVote w).votes = votesWith s v w := by
  change (s.votes.map fun x => if x.is w then w else x) = _
  simp only [Vote.is_congr h]
  rfl

theorem OnlyFabric.votesWith_eq {u : State} (hu : OnlyFabric s u) : votesWith u v w = votesWith s v w := by
  rw [votesWith, votesWith, hu.votes]

end

/-! ### Stops that are asked for (R111) -/

/-- A core of a launch that runs is asked to stop. -/
def Core.asked (k : Core) (id : Nat) (why : StopKind) : Core :=
  if k.launch = some id ∧ k.run = .running then { k with stop := some why } else k

theorem Core.asked_launch (k : Core) (id : Nat) (why : StopKind) : (k.asked id why).launch = k.launch := by
  unfold Core.asked
  split <;> rfl

theorem Core.asked_run (k : Core) (id : Nat) (why : StopKind) : (k.asked id why).run = k.run := by
  unfold Core.asked
  split <;> rfl

theorem Core.asked_asked (k : Core) (id : Nat) (why : StopKind) : (k.asked id why).asked id why = k.asked id why := by
  unfold Core.asked
  by_cases h : k.launch = some id ∧ k.run = .running
  · simp only [if_pos h]
  · simp only [if_neg h]

/-- Nothing but the cores and the agenda differs. -/
def OnlyStops (s t : State) : Prop := ({ t with cores := s.cores, agenda := s.agenda } : State) = s

/-- A core's turn in a request to stop. -/
def stopOne (id : Nat) (why : StopKind) (s : State) (c : Fin 256) : State :=
  if (s.coreAt c).launch = some id && (s.coreAt c).run = .running then
    (s.mapCore c fun k => { k with stop := some why }).wakeYield c .stop
  else s

section
variable (id : Nat) (why : StopKind) (s : State)

theorem stopOne_coreAt (c d : Fin 256) :
    (stopOne id why s c).coreAt d = if d = c then (s.coreAt d).asked id why else s.coreAt d := by
  unfold stopOne Core.asked
  by_cases h : (s.coreAt c).launch = some id ∧ (s.coreAt c).run = .running
  · rw [if_pos (by simpa using h), State.wakeYield_coreAt]
    by_cases hd : d = c
    · subst hd
      rw [State.coreAt_mapCore, if_pos rfl, if_pos h]
    · rw [State.coreAt_mapCore_ne _ _ hd, if_neg hd]
  · rw [if_neg (by simpa using h)]
    by_cases hd : d = c
    · subst hd
      rw [if_pos rfl, if_neg h]
    · rw [if_neg hd]

theorem stopOne_only (c : Fin 256) : OnlyStops s (stopOne id why s c) := by
  unfold stopOne
  split
  · have h := State.wakeYield_only (s.mapCore c fun k => { k with stop := some why }) c .stop
    exact congrArg (fun v : State => { v with cores := s.cores, agenda := s.agenda }) h
  · rfl

theorem OnlyStops.trans {s t u : State} (h : OnlyStops s t) (h' : OnlyStops t u) : OnlyStops s u :=
  Eq.trans (b := ({ t with cores := s.cores, agenda := s.agenda } : State))
    (congrArg (fun v : State => { v with cores := s.cores, agenda := s.agenda }) h') h

theorem foldl_stopOne (l : List (Fin 256)) (d : Fin 256) :
    (l.foldl (stopOne id why) s).coreAt d = (if d ∈ l then (s.coreAt d).asked id why else s.coreAt d) ∧
      OnlyStops s (l.foldl (stopOne id why) s) := by
  induction l generalizing s with
  | nil => exact ⟨(if_neg (by simp)).symm, rfl⟩
  | cons c l ih =>
    obtain ⟨hcore, honly⟩ := ih (stopOne id why s c)
    refine ⟨?_, (stopOne_only id why s c).trans honly⟩
    rw [List.foldl_cons, hcore, stopOne_coreAt]
    by_cases hd : d = c
    · rw [if_pos hd, Core.asked_asked, ite_self, if_pos (List.mem_cons.2 (.inl hd))]
    · rw [if_neg hd]
      simp only [List.mem_cons, hd, false_or]

/-- Every core of the launch that runs is asked to stop, and nothing else changes. -/
theorem State.requestStop_asks (d : Fin 256) :
    (s.requestStop id why).coreAt d = (s.coreAt d).asked id why ∧ OnlyStops s (s.requestStop id why) := by
  obtain ⟨hcore, honly⟩ := foldl_stopOne id why s allCores d
  have hmem : d ∈ allCores := List.mem_finRange d
  rw [if_pos hmem] at hcore
  exact ⟨hcore, honly⟩

/-- Several launches are asked in turn. -/
def State.askIds (s : State) (ids : List Nat) (why : StopKind) : State := ids.foldl (fun s id => s.requestStop id why) s

theorem State.askIds_asks (ids : List Nat) (c : Fin 256) :
    OnlyStops s (s.askIds ids why) ∧ ((s.askIds ids why).coreAt c).launch = (s.coreAt c).launch ∧
      ((s.coreAt c).run = .running → ((s.coreAt c).stop = some why ∨ ∃ id ∈ ids, (s.coreAt c).launch = some id) →
        ((s.askIds ids why).coreAt c).stop = some why) := by
  induction ids generalizing s with
  | nil => exact ⟨rfl, rfl, fun _ h => h.resolve_right (by simp)⟩
  | cons id ids ih =>
    have hcons : s.askIds (id :: ids) why = (s.requestStop id why).askIds ids why := List.foldl_cons ..
    obtain ⟨hcore, honly⟩ := s.requestStop_asks id why c
    obtain ⟨honly', hlaunch, hstop⟩ := ih (s.requestStop id why)
    rw [hcore, Core.asked_launch] at hlaunch
    rw [hcons]
    refine ⟨OnlyStops.trans honly honly', hlaunch, fun hr h => hstop (by rw [hcore, Core.asked_run]; exact hr) ?_⟩
    rw [hcore, Core.asked_launch]
    by_cases hl : (s.coreAt c).launch = some id
    · left
      rw [Core.asked, if_pos ⟨hl, hr⟩]
    · rw [Core.asked, if_neg fun h => hl h.1]
      exact h.imp_right fun ⟨m, hm, hml⟩ => ⟨m, (List.mem_cons.1 hm).resolve_left fun e => hl (e ▸ hml), hml⟩

def State.askAll (s : State) (ls : List Launch) (why : StopKind) : State := ls.foldl (fun s l => s.requestStop l.id why) s

theorem State.askAll_eq (ls : List Launch) : s.askAll ls why = s.askIds (ls.map (·.id)) why := by
  rw [State.askAll, State.askIds, List.foldl_map]

theorem State.askAll_asks (ls : List Launch) (c : Fin 256) :
    OnlyStops s (s.askAll ls why) ∧ ((s.askAll ls why).coreAt c).launch = (s.coreAt c).launch ∧
      ((s.coreAt c).run = .running → ((s.coreAt c).stop = some why ∨ ∃ l ∈ ls, (s.coreAt c).launch = some l.id) →
        ((s.askAll ls why).coreAt c).stop = some why) := by
  rw [State.askAll_eq]
  obtain ⟨honly, hlaunch, hstop⟩ := s.askIds_asks why (ls.map (·.id)) c
  refine ⟨honly, hlaunch, fun hr h => hstop hr (h.imp_right fun ⟨l, hl, hlc⟩ => ⟨l.id, List.mem_map_of_mem hl, hlc⟩)⟩

end

/-! ### Ends of a vote (R111) -/

section
variable {s u : State} {v w : Vote}

/-- Commitment: the vote swaps from now. -/
def Vote.committedAt (w : Vote) (s : State) : Vote :=
  { w with state := .swapping, swapAt := s.cycle, resent := s.cycle, committed := [selfMod s] }

theorem State.setRt_votes (s : State) (part : Nat) (f : PartRt → PartRt) : (s.setRt part f).votes = s.votes := by
  unfold State.setRt
  split <;> rfl

theorem State.meter_votes (s : State) (part : Nat) (m : Fin 16) (n : Nat) : (s.meter part m n).votes = s.votes :=
  (congrArg State.votes (s.meter_memorySide part m n).1 :)

/-- The number of a module stands while it sends. -/
theorem State.sendControl_number (s : State) (c : Control) : selfMod (s.sendControl c) = selfMod s := by
  unfold State.sendControl
  split
  · rfl
  · split
    · rfl
    · unfold State.emitControl State.returnFlits
      split
      · split <;> rfl
      · rfl

theorem State.tell_number (s : State) (v : Vote) (l : List Nat) (phase reason : Nat) :
    selfMod (s.tell v l phase reason) = selfMod s := by
  unfold State.tell
  induction l generalizing s with
  | nil => rfl
  | cons m l ih => exact (ih _).trans (s.sendControl_number _)

/-- Setting a vote gives in both states the same votes. -/
def SetsAlike (s a : State) (v : Vote) : Prop := ∀ y, votesWith a v y = votesWith s v y

theorem OnlyFabric.setsAlike (hu : OnlyFabric s u) (v : Vote) : SetsAlike s u v := fun _ => hu.votesWith_eq

theorem SetsAlike.setVote {a : State} (ha : SetsAlike s a v) (hw : w.is v = true) : SetsAlike s (a.setVote w) v := by
  intro y
  refine Eq.trans ?_ (ha y)
  rw [votesWith, a.setVote_votes hw, votesWith, List.map_map, votesWith]
  congr 1
  funext x
  simp only [Function.comp_apply]
  by_cases hx : x.is v = true
  · rw [if_pos hx, if_pos hw, if_pos hx]
  · rw [if_neg hx, if_neg hx]

theorem SetsAlike.fabric {a b : State} (ha : SetsAlike s a v) (hb : OnlyFabric a b) : SetsAlike s b v :=
  fun y => hb.votesWith_eq.trans (ha y)

theorem SetsAlike.setVote_votes {a : State} (ha : SetsAlike s a v) (hw : w.is v = true) :
    (a.setVote w).votes = votesWith s v w := (a.setVote_votes hw).trans (ha w)

theorem State.commitVote_votes {a : State} (ha : SetsAlike s a v) (h : w.is v = true) :
    (a.commitVote w).votes = votesWith s v (w.committedAt a) := by
  have hsent := a.tell_fabric w (w.kids a) phCommit 0
  have hnum := a.tell_number w (w.kids a) phCommit 0
  have hset : ((a.tell w (w.kids a) phCommit 0).setVote { w with
      state := .swapping, swapAt := (a.tell w (w.kids a) phCommit 0).cycle,
      resent := (a.tell w (w.kids a) phCommit 0).cycle, committed := [selfMod (a.tell w (w.kids a) phCommit 0)] }).votes =
      votesWith s v (w.committedAt a) := by
    rw [hsent.cycle, hnum]
    exact (ha.fabric hsent).setVote_votes h
  unfold State.commitVote
  dsimp only
  split
  · exact hset
  · rw [State.chargeScrub, State.meter_votes, State.meter_votes, State.startClear, State.setRt_votes]
    exact hset

/-- A core of a vote that ends runs on. -/
def Core.back (k : Core) (ls : List Nat) : Core :=
  match k.launch with
  | some id => if !ls.contains id then k
      else if k.run = .stopped then { k with run := .running, stop := none, wait := none }
      else if k.stop = some .save then { k with stop := none } else k
  | none => k

theorem Core.back_stopped {k : Core} {ls : List Nat} {id : Nat} (hl : k.launch = some id) (hin : ls.contains id = true)
    (hrun : k.run = .stopped) : (k.back ls).run = .running ∧ (k.back ls).stop = none := by
  unfold Core.back
  split
  next id' h =>
    obtain rfl : id = id' := Option.some.inj (hl.symm.trans h)
    rw [hin, Bool.not_true, if_neg Bool.false_ne_true, if_pos hrun]
    exact ⟨rfl, rfl⟩
  next h => cases hl.symm.trans h

theorem State.backToRun_ends (s : State) (v : Vote) : (s.backToRun v).votes = (s.votes.filter fun w => !w.is v) ∧
    SameMemory s (s.backToRun v) ∧
    ∀ c, (s.backToRun v).coreAt c = (s.coreAt c).back ((v.leaving s).map (·.id)) := by
  have hcore (t : State) (f : Core → Core) (c : Fin 256) :
      ({ t with cores := t.cores.map f } : State).coreAt c = f (t.coreAt c) := by
    simp [State.coreAt]
  unfold State.backToRun
  dsimp only
  split
  · exact ⟨rfl, SameMemory.of_eq rfl rfl, fun c => hcore _ _ c⟩
  · exact ⟨rfl, SameMemory.of_eq rfl rfl, fun c => hcore _ _ c⟩

end

/-! ### PREPARE (R110, R111) -/

section
variable {s u : State} {m : VoteMsg} {v : Vote}

/-- A vote takes a PREPARE in. -/
def Vote.prepared (v : Vote) (src : Nat) : Vote :=
  { v with prepares := if v.prepares.contains src then v.prepares else v.prepares ++ [src] }

/-- A PREPARE that does not fit is refused. -/
theorem State.takePrepare_refuses (hu : OnlyFabric s u) {src : Nat} {g : BitVec 32} (hst : v.state = .prepared)
    (hs : v.sentOk = false) (hr : v.refused = none) (hf : prepareFits s v g = false) :
    (u.takePrepare v src g).votes = votesWith s v { v.prepared src with refused := some rfSheet } := by
  have hself : (v.prepared src).is v = true := by simp [Vote.prepared, Vote.is]
  have hfits : prepareFits (u.setVote (v.prepared src)) (v.prepared src) g = false := (hu.prepareFits v g).trans hf
  have htake : u.takePrepare v src g = ((u.setVote (v.prepared src)).tell (v.prepared src)
      ((v.prepared src).others (u.setVote (v.prepared src))) phRefuse rfSheet).setVote
        { v.prepared src with refused := some rfSheet } := by
    unfold State.takePrepare
    dsimp only
    refine if_pos ?_
    change (Decidable.decide (v.state = .prepared) && !v.sentOk && v.refused.isNone &&
      !prepareFits (u.setVote (v.prepared src)) (v.prepared src) g) = true
    rw [hst, hs, hr, hfits]
    rfl
  rw [htake]
  exact (((hu.setsAlike v).setVote hself).fabric ((u.setVote (v.prepared src)).tell_fabric _ _ _ _)).setVote_votes
    (by simp [Vote.prepared, Vote.is])

section
variable (hm : voteMsg s phPrepare = some m)
include hm

theorem prepare_joins (hv : voteOf s m false = some v) :
    Runs .votePhasePrepare s ((s.countBad 0x10).takePrepare v m.src m.gang) := by
  obtain ⟨hu, hr⟩ := s.countBad_only 0x10
  change execVotePhasePrepare s = _
  unfold execVotePhasePrepare
  dsimp only
  rw [hu.voteMsg hr.number, hm]
  dsimp only
  rw [hu.voteOf, hv]

variable (hv : voteOf s m false = none)
include hv

theorem prepare_fixed {d : GangDef} {l : Launch} (hg : fixedGang s m.gang = some d)
    (hl : gangLaunch s d.part m.gang = some l) :
    Runs .votePhasePrepare s (if l.state = .queued then (s.countBad 0x10).fixedVote l [(m.src, m.gang)]
      else (s.countBad 0x10).sendVote m.src m.slot m.round phRefuse rfResources m.gang) := by
  obtain ⟨hu, hr⟩ := s.countBad_only 0x10
  change execVotePhasePrepare s = _
  unfold execVotePhasePrepare
  dsimp only
  rw [hu.voteMsg hr.number, hm]
  dsimp only
  rw [hu.voteOf, hv]
  dsimp only
  rw [hu.fixedGang, hg]
  dsimp only
  rw [hu.gangLaunch, hl]
  dsimp only
  split <;> rfl

/-- A PREPARE of the call sheet that belongs to no vote here is kept for the next slot, taken up by an idle one, or
refused. -/
theorem prepare_early (hg : fixedGang s m.gang = none) (hsheet : sheetVote s = none) :
    let u := s.countBad 0x10
    exec .votePhasePrepare s = .next
      (if s.sheet.running = true ∧ m.slot = nextSlot s ∧
          m.round = (if nextSlot s = 0 then !s.sheet.round else s.sheet.round) then
        { u with sheet := { s.sheet with early := s.sheet.early ++ [(m.src, m.gang)] } }
      else if idleHere u m then u.prepare m.slot (sortNats [selfMod u, m.src]) none [] m.round [(m.src, m.gang)]
      else u.sendVote m.src m.slot m.round phRefuse rfSheet 0) := by
  obtain ⟨hu, hr⟩ := s.countBad_only 0x10
  intro u
  change execVotePhasePrepare s = _
  unfold execVotePhasePrepare
  dsimp only
  rw [hu.voteMsg hr.number, hm]
  dsimp only
  rw [hu.voteOf, hv]
  dsimp only
  rw [hu.fixedGang, hg]
  dsimp only
  rw [hu.sheetVote, hsheet]
  dsimp only [Option.filter_none, Option.isNone_none]
  rw [hu.nextSlot, hu.sheet]
  simp only [Bool.and_eq_true, decide_eq_true_eq, and_true, and_assoc]
  generalize (if nextSlot s = 0 then !s.sheet.round else s.sheet.round) = round
  by_cases h : s.sheet.running = true ∧ m.slot = nextSlot s ∧ m.round = round
  · rw [if_pos h, if_pos h]
  · rw [if_neg h, if_neg h]
    split <;> rfl

end

end

/-! ### OK, REFUSE, ABORT, COMMIT and COMMITTED (R111, R112) -/

section
variable {s : State} {m : VoteMsg} {v : Vote}

/-- A vote takes an OK in. -/
def Vote.okBy (v : Vote) (src : Nat) : Vote := { v with oks := if v.oks.contains src then v.oks else v.oks ++ [src] }

theorem Vote.okBy_is (v : Vote) (src : Nat) : (v.okBy src).is v = true := by simp [Vote.okBy, Vote.is]

theorem exec_ok (hm : voteMsg s phOk = some m) (hv : voteOf s m false = some v) : exec .votePhaseOk s =
    .next (((s.countBad 0x10).setVote (v.okBy m.src)).decide (v.okBy m.src)) := by
  obtain ⟨hu, hr⟩ := s.countBad_only 0x10
  change execVotePhaseOk s = _
  unfold execVotePhaseOk
  dsimp only
  rw [hu.voteMsg hr.number, hm, Option.bind_some, hu.voteOf, hv]
  rfl

/-- A module that has sent its OK and has all PREPAREs waits for the others' OKs, or levels. -/
theorem State.decide_sent {t : State} {w : Vote} (hst : w.state = .prepared) (hr : w.refused = none) (hs : w.sentOk = true)
    (hp : (w.others t).all w.prepares.contains = true) :
    t.decide w = if (w.others t).all w.oks.contains then t.level w else t.setVote w := by
  have hw : ({ w with sentOk := true } : Vote) = w := by
    cases w
    simp_all
  unfold State.decide
  rw [if_neg (by simp [hst, hr])]
  dsimp only
  rw [if_pos hs]
  dsimp only
  rw [hp, Bool.not_true, if_neg Bool.false_ne_true, if_pos hs]
  simp only [hw]

/-- The vote levels. -/
def Vote.levelling (w : Vote) : Vote := { w with state := .levelling }

/-- A member that levels asks the cores of what leaves to stop. -/
theorem State.level_member {t : State} {w : Vote} (hroot : w.isRoot t = false) :
    t.level w = (t.setVote w.levelling).askAll (w.leaving t) .save := by
  have hself : selfMod ((t.setVote w.levelling).askAll (w.leaving t) .save) = selfMod t :=
    (congrArg (fun v : State => selfMod v) ((t.setVote w.levelling).askAll_asks .save (w.leaving t) 0).1 :)
  have hnot : w.levelling.isRoot ((t.setVote w.levelling).askAll (w.leaving t) .save) = false := by
    rw [← hroot, Vote.isRoot, Vote.isRoot, Vote.place, Vote.place, hself]
    rfl
  unfold State.level
  dsimp only
  change (if !w.levelling.isRoot ((t.setVote w.levelling).askAll (w.leaving t) .save) then
    (t.setVote w.levelling).askAll (w.leaving t) .save else _) = _
  rw [hnot]
  rfl

section
variable (hm : voteMsg s phOk = some m) (hv : voteOf s m false = some v) (hst : v.state = .prepared) (hr : v.refused = none)
  (hs : v.sentOk = true) (hp : (v.others s).all v.prepares.contains = true)
include hm hv hst hr hs hp

/-- The OK is taken in and judged. -/
theorem exec_ok_judged : let u := (s.countBad 0x10).setVote (v.okBy m.src)
    exec .votePhaseOk s = .next (if (v.others s).all (v.okBy m.src).oks.contains then u.level (v.okBy m.src)
      else u.setVote (v.okBy m.src)) := by
  obtain ⟨hu, hroutes⟩ := s.countBad_only 0x10
  intro u
  have hothers : (v.okBy m.src).others u = v.others s := hu.others hroutes.number v
  rw [exec_ok hm hv]
  change Host.Outcome.next (u.decide (v.okBy m.src)) = _
  rw [State.decide_sent (w := v.okBy m.src) hst hr hs (by rw [hothers]; exact hp), hothers]

theorem ok_waits (hwait : (v.others s).all (v.okBy m.src).oks.contains = false) :
    RunsTo .votePhaseOk s fun t => t.votes = votesWith s v (v.okBy m.src) ∧ t.cores = s.cores := by
  obtain ⟨hu, -⟩ := s.countBad_only 0x10
  have hexec := exec_ok_judged hm hv hst hr hs hp
  dsimp only at hexec
  rw [hwait, if_neg Bool.false_ne_true] at hexec
  exact ⟨_, hexec, ((hu.setsAlike v).setVote (v.okBy_is _)).setVote_votes (v.okBy_is _), hu.cores⟩

theorem ok_levels (hall : (v.others s).all (v.okBy m.src).oks.contains = true) (hroot : v.isRoot s = false) :
    RunsTo .votePhaseOk s fun t => t.votes = votesWith s v (v.okBy m.src).levelling ∧
      ∀ l ∈ v.leaving s, ∀ c, (s.coreAt c).launch = some l.id → (s.coreAt c).run = .running →
        (t.coreAt c).stop = some .save := by
  obtain ⟨hu, hroutes⟩ := s.countBad_only 0x10
  have hexec := exec_ok_judged hm hv hst hr hs hp
  dsimp only at hexec
  have hmember : (v.okBy m.src).isRoot ((s.countBad 0x10).setVote (v.okBy m.src)) = false :=
    (hu.isRoot hroutes.number v).trans hroot
  rw [hall, if_pos rfl, State.level_member hmember] at hexec
  let a := ((s.countBad 0x10).setVote (v.okBy m.src)).setVote (v.okBy m.src).levelling
  have hvotes : a.votes = votesWith s v (v.okBy m.src).levelling :=
    ((hu.setsAlike v).setVote (v.okBy_is m.src)).setVote_votes (v.okBy_is m.src)
  have hasks (c : Fin 256) := a.askAll_asks .save (v.leaving s) c
  refine ⟨a.askAll (v.leaving s) .save, ?_, (congrArg State.votes (hasks 0).1 :).trans hvotes, fun l hl c hlaunch hrun => ?_⟩
  · rw [hexec, ← hu.leaving]
    rfl
  · have hcore : a.coreAt c = s.coreAt c := hu.coreAt c
    obtain ⟨-, -, hstop⟩ := hasks c
    rw [hcore] at hstop
    exact hstop hrun (.inr ⟨l, hl, hlaunch⟩)

end

theorem exec_refuse (hm : voteMsg s phRefuse = some m) (hv : voteOf s m false = some v) : exec .votePhaseRefuse s =
    .next (if v.state = .prepared then (s.countBad 0x10).abortVote v true m.reason else s.countBad 0x10) := by
  obtain ⟨hu, hr⟩ := s.countBad_only 0x10
  change execVotePhaseRefuse s = _
  unfold execVotePhaseRefuse
  dsimp only
  rw [hu.voteMsg hr.number, hm, Option.bind_some, hu.voteOf, hv]
  rfl

/-- A vote that is aborted leaves the list. -/
theorem OnlyFabric.abortVote_votes {u : State} (hu : OnlyFabric s u) (send : Bool) (reason : Nat) :
    (u.abortVote v send reason).votes = s.votes.filter fun w => !w.is v := by
  unfold State.abortVote
  rw [(State.backToRun_ends _ v).1]
  split
  · rw [(hu.trans (u.tell_fabric v _ phAbort reason)).votes]
  · rw [hu.votes]

theorem abort_ends (hm : voteMsg s phAbort = some m) (hv : voteOf s m false = some v) (hst : v.state ≠ .swapping) :
    RunsTo .votePhaseAbort s fun t => t.votes = (s.votes.filter fun w => !w.is v) ∧ SameMemory s t ∧
      ∀ l ∈ v.leaving s, ∀ c, (s.coreAt c).launch = some l.id → (s.coreAt c).run = .stopped →
        (t.coreAt c).run = .running ∧ (t.coreAt c).stop = none := by
  obtain ⟨hu, hr⟩ := s.countBad_only 0x10
  have hexec : exec .votePhaseAbort s = .next ((s.countBad 0x10).abortVote v false 0) := by
    change execVotePhaseAbort s = _
    unfold execVotePhaseAbort
    dsimp only
    rw [hu.voteMsg hr.number, hm, Option.bind_some, hu.voteOf, hv]
    dsimp only
    rw [if_neg hst]
  obtain ⟨-, hmem, hcore⟩ := (s.countBad 0x10).backToRun_ends v
  refine ⟨_, hexec, hu.abortVote_votes false 0, hu.memory.trans hmem, fun l hl c hlaunch hrun => ?_⟩
  have hin : ((v.leaving (s.countBad 0x10)).map (·.id)).contains l.id = true := by
    rw [hu.leaving, List.contains_iff_mem]
    exact List.mem_map_of_mem hl
  have hback : ((s.countBad 0x10).abortVote v false 0).coreAt c =
      (s.coreAt c).back ((v.leaving (s.countBad 0x10)).map (·.id)) := (hcore c).trans (by rw [hu.coreAt])
  rw [hback]
  exact Core.back_stopped hlaunch hin hrun

theorem commit_swaps (hm : voteMsg s phCommit = some m) (hv : voteOf s m false = some v)
    (hst : v.state = .levelling ∨ v.state = .prepared ∧ v.sentOk = true) :
    RunsTo .votePhaseCommit s fun t => t.votes = votesWith s v (v.committedAt s) := by
  obtain ⟨hu, hr⟩ := s.countBad_only 0x10
  have hexec : exec .votePhaseCommit s = .next ((s.countBad 0x10).commitVote v) := by
    change execVotePhaseCommit s = _
    unfold execVotePhaseCommit
    dsimp only
    rw [hu.voteMsg hr.number, hm]
    dsimp only
    rw [hu.voteOf, hv]
    dsimp only
    rw [if_pos (by simpa using hst)]
  have hat : v.committedAt (s.countBad 0x10) = v.committedAt s := by
    rw [Vote.committedAt, Vote.committedAt, hu.cycle, hr.number]
  refine ⟨_, hexec, ?_⟩
  rw [← hat]
  exact State.commitVote_votes (hu.setsAlike v) (by simp [Vote.is])

theorem commit_again (hm : voteMsg s phCommit = some m) (hv : voteOf s m false = none) (hd : voteOf s m true = some v) :
    Runs .votePhaseCommit s ((s.countBad 0x10).tell v [m.src] phCommitted 0) := by
  obtain ⟨hu, hr⟩ := s.countBad_only 0x10
  change execVotePhaseCommit s = _
  unfold execVotePhaseCommit
  dsimp only
  rw [hu.voteMsg hr.number, hm]
  dsimp only
  rw [hu.voteOf, hv]
  dsimp only
  rw [hu.voteOf, hd]

theorem committed_noted (hm : voteMsg s phCommitted = some m) (hv : voteOf s m false = some v)
    (hc : v.committed.contains m.src = false) : RunsTo .votePhaseCommitted s fun t =>
      t.votes = votesWith s v { v with committed := v.committed ++ [m.src] } ∧ t.cores = s.cores ∧ SameMemory s t := by
  obtain ⟨hu, hr⟩ := s.countBad_only 0x10
  have hexec : exec .votePhaseCommitted s =
      .next ((s.countBad 0x10).setVote { v with committed := v.committed ++ [m.src] }) := by
    change execVotePhaseCommitted s = _
    unfold execVotePhaseCommitted
    dsimp only
    rw [hu.voteMsg hr.number, hm, Option.bind_some, hu.voteOf, hv]
    dsimp only [Option.orElse_some, Option.map_some]
    rw [hc, if_neg Bool.false_ne_true]
  exact ⟨_, hexec, (hu.setsAlike v).setVote_votes (by simp [Vote.is]), hu.cores, hu.memory⟩

theorem absent_ends (hv : absentDue s = some v) :
    RunsTo .voteAbsent s fun t => t.votes = s.votes.filter fun w => !w.is v := by
  have hexec : exec .voteAbsent s = .next (s.abortVote v true rfAbsent) := by
    change execVoteAbsent s = _
    unfold execVoteAbsent
    rw [hv]
  exact ⟨_, hexec, (OnlyFabric.refl s).abortVote_votes true rfAbsent⟩

end

/-! ### Sweeps (R110, R112) -/

section
variable {s u : State} {v w : Vote}

theorem Vote.noteSum_is (s : State) (w : Vote) (c : Control) (v : Vote) : (w.noteSum s c).is v = w.is v := by
  unfold Vote.noteSum
  dsimp only
  split <;> rfl

/-- A sweep that starts is in its vote. -/
theorem State.startSweep_votes {a : State} {n : Nat} {x : Vote} (ha : SetsAlike s a v) (hx : x.is v = true) : (a.startSweep x n).votes = votesWith s v { x with
      stalled := x.stalled && x.isRoot a, sweep := n, asked := true, sweepAt := a.cycle, reports := [],
      reported := x.reported.map fun _ => a.cycle } := by
  unfold State.startSweep
  dsimp only
  rw [(OnlyFabric.foldl _ (fun s k => s.sendLevel_fabric k n false true 0) _ _).votes]
  exact ha.setVote_votes hx

theorem levelRequest_sweeps (hv : sheetVote s = some v) (hc : ctlHere s s.inp.ctl 0x11 = true)
    (hreq : s.inp.ctl.arg16.getLsbD 13 = true) (hroot : v.isRoot s = false) (hsrc : s.inp.ctl.src.toNat = v.parent s)
    (hst : v.state = .levelling ∨ v.state = .prepared ∧ v.sentOk = true) : RunsTo .levelRequest s fun t =>
      t.votes = votesWith s v { v with stalled := false, sweep := bitsOf s.inp.ctl.arg16.toNat 0 12, asked := true,
                                       sweepAt := s.cycle, reports := [], reported := v.reported.map fun _ => s.cycle } := by
  obtain ⟨hu, hr⟩ := s.countBad_only 0x11
  have hinp : (s.countBad 0x11).inp = s.inp := (congrArg State.inp hu :)
  have hexec : exec .levelRequest s = .next ((s.countBad 0x11).startSweep v (bitsOf s.inp.ctl.arg16.toNat 0 12)) := by
    change execLevelRequest s = _
    unfold execLevelRequest
    dsimp only
    rw [hu.sheetVote, hv, hinp]
    dsimp only
    rw [hu.ctlHere hr.number, hc, hreq, hu.isRoot hr.number, hroot, hu.parent hr.number, decide_eq_true hsrc, if_pos]
    simpa using hst
  refine ⟨_, hexec, ?_⟩
  have hvotes := State.startSweep_votes (n := bitsOf s.inp.ctl.arg16.toNat 0 12) (hu.setsAlike v)
    (show v.is v = true by simp [Vote.is])
  rw [hu.isRoot hr.number, hroot, Bool.and_false, hu.cycle] at hvotes
  exact hvotes

/-- A control packet with a way out stands at its port, and nothing else changes. -/
theorem State.sendControl_at {c : Control} {n : Fin 20} (hself : c.dst.toNat ≠ selfMod s)
    (hn : routePort s 3 c.dst.toNat = some n) (huse : Port.use s.fabric.ports[n] = .ready) :
    s.sendControl c = s.updPort n fun q => { q with ctlQueue := q.ctlQueue ++ [⟨20, false, s.cycle + 20, c⟩] } := by
  rw [State.sendControl, if_neg hself, hn]
  dsimp only
  rw [State.emitControl, huse]
  rfl

/-- The two sums of a report stand at the port towards the parent, one behind the other (R110). -/
theorem State.sendLevels_queued {a : State} {n : Fin 20} {dst sweep x y : Nat} (hlt : dst < 2048) (hself : dst ≠ selfMod a)
    (hn : routePort a 3 dst = some n) (huse : Port.use a.fabric.ports[n] = .ready) :
    (((a.sendLevel dst sweep false false x).sendLevel dst sweep true false y).fabric.ports[n]).ctlQueue =
      (a.fabric.ports[n]).ctlQueue ++ [⟨20, false, a.cycle + 20, ctlOf a 0x11 dst (sweep % 4096) x⟩,
        ⟨20, false, a.cycle + 20, ctlOf a 0x11 dst (sweep % 4096 + 2 ^ 12) y⟩] := by
  have hdst (arg : Nat) (z : Nat) : (ctlOf a 0x11 dst arg z).dst.toNat = dst := Nat.mod_eq_of_lt hlt
  have hfirst : a.sendLevel dst sweep false false x = a.updPort n fun q => { q with
      ctlQueue := q.ctlQueue ++ [⟨20, false, a.cycle + 20, ctlOf a 0x11 dst (sweep % 4096) x⟩] } :=
    State.sendControl_at (by rw [hdst]; exact hself) (by rw [hdst]; exact hn) huse
  rw [hfirst]
  refine (State.sendControl_queued (n := n) ?_ ?_ ?_).trans ?_
  · exact fun h => hself ((hdst _ _).symm.trans h)
  · exact (congrArg (routePort a 3) (hdst _ _)).trans hn
  · simpa [State.updPort, Port.use] using huse
  · simp [State.updPort]
    rfl

/-- The sums over a module's subtree (R110). -/
def Vote.sums (w : Vote) (s : State) : Nat × Nat := w.childSums.foldl (fun n e => (n.1 + e.1, n.2 + e.2)) (w.ownSums s)

/-- A vote whose sweep is judged: the halt is noted, and nothing is asked any more. -/
def Vote.judged (w : Vote) (cycle : Nat) : Vote :=
  { w with asked := false, haltAt := w.haltAt.orElse fun _ => some cycle }

/-- At the root the first completed sweep is noted too, and equal sums. -/
def Vote.judgedRoot (w : Vote) (cycle : Nat) (last : Option (Nat × Nat)) : Vote :=
  { w.judged cycle with firstAt := w.firstAt.orElse fun _ => some cycle, last := last }

section
variable (hu : OnlyFabric s u) (hr : SameRoutes s u)
include hu hr

theorem State.report_goesUp {n : Fin 20} (hroot : w.isRoot s = false) (hlt : w.parent s < 2048)
    (hself : w.parent s ≠ selfMod s) (hn : routePort s 3 (w.parent s) = some n)
    (huse : Port.use s.fabric.ports[n] = .ready) :
    (((u.setVote w).report w).fabric.ports[n]).ctlQueue = (s.fabric.ports[n]).ctlQueue ++
      [⟨20, false, s.cycle + 20, ctlOf s 0x11 (w.parent s) (w.sweep % 4096) ((w.sums s).1 % 2 ^ 32)⟩,
       ⟨20, false, s.cycle + 20, ctlOf s 0x11 (w.parent s) (w.sweep % 4096 + 2 ^ 12) ((w.sums s).2 % 2 ^ 32)⟩] := by
  let a := u.setVote w
  let b := a.setVote { w.judged a.cycle with reported := some a.cycle }
  have hnumber : selfMod b = selfMod s := hr.number
  have hnot : (w.judged a.cycle).isRoot a = false := (hu.isRoot hr.number w).trans hroot
  have hpar : (w.judged a.cycle).parent b = w.parent s := hu.parent hr.number w
  have hsums : (w.judged a.cycle).sums a = w.sums s := by
    obtain ⟨f, rfl⟩ := hu.exists_eq
    rfl
  have hreport : a.report w = (b.sendLevel ((w.judged a.cycle).parent b) w.sweep false false
      (((w.judged a.cycle).sums a).1 % 2 ^ 32)).sendLevel ((w.judged a.cycle).parent b) w.sweep true false
        (((w.judged a.cycle).sums a).2 % 2 ^ 32) := if_pos (congrArg Bool.not hnot)
  have hctl (ty d y z : Nat) : ctlOf b ty d y z = ctlOf s ty d y z := by
    rw [ctlOf, ctlOf, hnumber]
  rw [hreport, hpar, hsums]
  refine (State.sendLevels_queued hlt ?_ ?_ ?_).trans ?_
  · rw [hnumber]
    exact hself
  · exact (hr.route 3 _).trans hn
  · exact (hr.use n).trans huse
  · rw [hctl, hctl, show (b.fabric.ports[n]).ctlQueue = _ from hr.queued n, show b.cycle = s.cycle from hr.cycle]

theorem State.report_atRoot (his : w.is v = true) (hroot : w.isRoot s = true) (hlev : w.state = .levelling) :
    ∃ x : Vote, ((u.setVote w).report w).votes = votesWith s v x ∧
      if (w.sums s).1 % 2 ^ 32 = (w.sums s).2 % 2 ^ 32 ∧ w.last = some ((w.sums s).1 % 2 ^ 32, (w.sums s).2 % 2 ^ 32) then
        x.state = .swapping
      else x.state = .levelling ∧ x.sweep = w.sweep + 1 := by
  let a := u.setVote w
  have halike : SetsAlike s a v := (hu.setsAlike v).setVote his
  have hyes : (w.judged a.cycle).isRoot a = true := (hu.isRoot hr.number w).trans hroot
  have hsums : (w.judged a.cycle).sums a = w.sums s := by
    obtain ⟨f, rfl⟩ := hu.exists_eq
    rfl
  generalize hp : (w.sums s).1 % 2 ^ 32 = p
  generalize hq : (w.sums s).2 % 2 ^ 32 = q
  rw [← hsums] at hp hq
  have hreport : a.report w = if p = q ∧ w.last = some (p, q) then a.commitVote (w.judgedRoot a.cycle w.last)
      else a.startSweep (w.judgedRoot a.cycle (if p = q then some (p, q) else none)) (w.sweep + 1) := by
    rw [← hp, ← hq]
    refine (if_neg ?_).trans ?_
    · exact fun h => Bool.false_ne_true ((congrArg Bool.not hyes).symm.trans h)
    · simp only [Bool.and_eq_true, decide_eq_true_eq]
      rfl
  rw [show (u.setVote w).report w = _ from hreport]
  split
  next h => exact ⟨_, State.commitVote_votes halike his, rfl⟩
  next h => exact ⟨_, State.startSweep_votes halike his, hlev, rfl⟩

end

section
variable {n : Fin 20} (hv : sheetVote s = some v) (hw : w = (v.noteSum s s.inp.ctl).noteSum s s.inp.ctl2)
include hv hw

/-- A report reaches its vote, and is judged. -/
theorem exec_levelReport : let a := (s.countBad 0x11).setVote w
    exec .levelReport s = .next (if w.reportReady s then a.report w else a) ∧ w.is v = true := by
  obtain ⟨hu, hr⟩ := s.countBad_only 0x11
  have hinp : (s.countBad 0x11).inp = s.inp := (congrArg State.inp hu :)
  have hnote (x : Vote) (c : Control) : x.noteSum (s.countBad 0x11) c = x.noteSum s c := by
    unfold Vote.noteSum
    rw [hu.ctlHere hr.number, hu.kids hr.number]
  have hready : w.reportReady ((s.countBad 0x11).setVote w) = w.reportReady s := by
    have hhalted : w.halted ((s.countBad 0x11).setVote w) = w.halted s := by
      obtain ⟨f, hf⟩ := hu.exists_eq
      rw [hf]
      rfl
    have hroot : w.isRoot ((s.countBad 0x11).setVote w) = w.isRoot s := hu.isRoot hr.number w
    have hkids : w.kids ((s.countBad 0x11).setVote w) = w.kids s := hu.kids hr.number w
    have hcycle : ((s.countBad 0x11).setVote w).cycle = s.cycle := hu.cycle
    rw [Vote.reportReady, Vote.reportReady, hhalted, hroot, hkids, hcycle]
  refine ⟨?_, ?_⟩
  · change execLevelReport s = _
    unfold execLevelReport
    dsimp only
    rw [hu.sheetVote, hv]
    dsimp only
    rw [hinp, hnote, hnote, ← hw, hready]
  · rw [hw, Vote.noteSum_is, Vote.noteSum_is]
    simp [Vote.is]

theorem levelReport_waits (hready : w.reportReady s = false) :
    RunsTo .levelReport s fun t => t.votes = votesWith s v w ∧ t.cores = s.cores := by
  obtain ⟨hu, -⟩ := s.countBad_only 0x11
  obtain ⟨hexec, his⟩ := exec_levelReport hv hw
  rw [hready, if_neg Bool.false_ne_true] at hexec
  exact ⟨_, hexec, (hu.setsAlike v).setVote_votes his, hu.cores⟩

theorem levelReport_goesUp (hready : w.reportReady s = true) (hroot : w.isRoot s = false) (hlt : w.parent s < 2048)
    (hself : w.parent s ≠ selfMod s) (hn : routePort s 3 (w.parent s) = some n)
    (huse : Port.use s.fabric.ports[n] = .ready) :
    RunsTo .levelReport s fun t => (t.fabric.ports[n]).ctlQueue = (s.fabric.ports[n]).ctlQueue ++
      [⟨20, false, s.cycle + 20, ctlOf s 0x11 (w.parent s) (w.sweep % 4096) ((w.sums s).1 % 2 ^ 32)⟩,
       ⟨20, false, s.cycle + 20, ctlOf s 0x11 (w.parent s) (w.sweep % 4096 + 2 ^ 12) ((w.sums s).2 % 2 ^ 32)⟩] := by
  obtain ⟨hu, hr⟩ := s.countBad_only 0x11
  obtain ⟨hexec, -⟩ := exec_levelReport hv hw
  rw [hready, if_pos rfl] at hexec
  exact ⟨_, hexec, State.report_goesUp hu hr hroot hlt hself hn huse⟩

theorem levelReport_atRoot (hready : w.reportReady s = true) (hroot : w.isRoot s = true) :
    RunsTo .levelReport s fun t => ∃ x : Vote, t.votes = votesWith s v x ∧
      if (w.sums s).1 % 2 ^ 32 = (w.sums s).2 % 2 ^ 32 ∧ w.last = some ((w.sums s).1 % 2 ^ 32, (w.sums s).2 % 2 ^ 32) then
        x.state = .swapping
      else x.state = .levelling ∧ x.sweep = w.sweep + 1 := by
  obtain ⟨hu, hr⟩ := s.countBad_only 0x11
  obtain ⟨hexec, his⟩ := exec_levelReport hv hw
  rw [hready, if_pos rfl] at hexec
  have hlev : w.state = .levelling := by
    simp only [Vote.reportReady, Bool.and_eq_true, decide_eq_true_eq] at hready
    obtain ⟨⟨⟨⟨⟨hst, -⟩, -⟩, -⟩, -⟩, -⟩ := hready
    exact hst
  exact ⟨_, hexec, State.report_atRoot hu hr his hroot hlev⟩

end

end

/-- Settles O44, by what each arrival makes of its vote in the list of votes (`votesWith`). -/
theorem votePacketsMoveAVote : Obligations.VotePacketsMoveAVote := by
  unfold Obligations.VotePacketsMoveAVote
  intro s m v noted u
  obtain ⟨hu, hr⟩ := s.countBad_only 0x10
  refine ⟨fun hm => ⟨fun hv => ⟨prepare_joins hm hv, fun hst hs hr hf => ?_⟩, fun hv hg hsheet => ?_,
      fun d l hv hg hl => prepare_fixed hm hv hg hl⟩,
    fun hm hv => ?_, fun hm hv => ⟨fun hst => ?_, fun hst => ?_⟩, fun hm hv hst => abort_ends hm hv hst,
    fun hm => ⟨fun hv hst => commit_swaps hm hv hst, fun hv hd => commit_again hm hv hd⟩,
    fun hm hv hc => committed_noted hm hv hc, fun hv => absent_ends hv, fun hv => ?_⟩
  · exact ⟨_, prepare_joins hm hv, State.takePrepare_refuses hu hst hs hr hf⟩
  · intro round
    have hexec := prepare_early hm hv hg hsheet
    split
    next h =>
      refine ⟨_, hexec.trans (congrArg Host.Outcome.next (if_pos h)), rfl, hu.votes, hu.cores, rfl⟩
    next h =>
      have hexec' := hexec.trans (congrArg Host.Outcome.next (if_neg h))
      split
      next hidle => exact hexec'.trans (congrArg Host.Outcome.next (if_pos hidle))
      next hidle => exact hexec'.trans (congrArg Host.Outcome.next (if_neg hidle))
  · intro oks hst hr hs hp
    exact ⟨fun hwait => ok_waits hm hv hst hr hs hp hwait, fun hall hroot => ok_levels hm hv hst hr hs hp hall hroot⟩
  · exact (exec_refuse hm hv).trans (congrArg Host.Outcome.next (if_neg hst))
  · exact ⟨_, (exec_refuse hm hv).trans (congrArg Host.Outcome.next (if_pos hst)), hu.abortVote_votes true m.reason⟩
  · intro c
    refine ⟨fun hc hreq hroot hsrc hst => levelRequest_sweeps hv hc hreq hroot hsrc hst, fun w hw sums hsums => ?_⟩
    obtain rfl : sums = w.sums s := hsums
    exact ⟨levelReport_waits hv hw, fun n hready hroot hlt hself hn huse => levelReport_goesUp hv hw hready hroot hlt hself hn huse,
      levelReport_atRoot hv hw⟩

end Sys2Proof.Machine
end

section
/-! Power, boot, limits of power and temperature, and corrected errors (R7-R23, R255). -/

namespace Sys2Proof.Machine

/-! ### The boot -/

section
variable (s : State) (f : BootFindings)

theorem State.bootUp_refused {n code : Nat}
    (h : loadImages (s.boot.begin (s.boot.count + 1)) f.images = (n, some code)) :
    s.bootUp f = s.cold { s.boot.begin (s.boot.count + 1) with
      stage := if n = 0 then 1 else 2, failed := true, fcode := code, image := n } := by
  unfold State.bootUp
  dsimp only
  rw [h]

theorem State.bootUp_faulty {n code : Nat}
    (h : loadImages (s.boot.begin (s.boot.count + 1)) f.images = (n, none))
    (hfault : selfTestFault (degradedQuads (s.boot.begin (s.boot.count + 1)) f) f = some code) :
    s.bootUp f = s.cold { s.boot.begin (s.boot.count + 1) with stage := 3, failed := true, fcode := code, image := 0 } := by
  unfold State.bootUp
  dsimp only
  rw [h]
  dsimp only
  rw [hfault]

/-- The boot state once its identity is derived. -/
def State.bootedAs : Boot :=
  (s.boot.begin (s.boot.count + 1)).identify (f.images.map (·.version))
    (f.romDigest :: f.images.map fun im => BitVec.ofNat 256 (bytesToNat (sha3_256 im.body)))

/-- The ports of a module whose boot has found some of them absent. -/
def bootPorts (absent : BitVec 20) : Vector Port 20 :=
  Vector.ofFn fun i => { Port.reset with absent := absent.getLsbD i.val }

theorem bootPorts_absent (absent : BitVec 20) (port : Fin 20) :
    ((bootPorts absent)[port]).absent = absent.getLsbD port.val := by
  unfold bootPorts
  simp only [Fin.getElem_fin, Vector.getElem_ofFn]

/-- The module that a good boot leaves (R12). -/
def State.bootedWith : State :=
  ({ s.cold (s.bootedAs f) with
      degQuads := degradedQuads (s.boot.begin (s.boot.count + 1)) f, degSlices := f.slices, degWays := f.ways,
      degChans := f.channels, degPorts := f.ports ||| s.boot.failedPorts,
      fabric := { Fabric.reset with ports := bootPorts (f.ports ||| s.boot.failedPorts) } } : State).emitGenesis

theorem State.bootUp_good {n : Nat}
    (h : loadImages (s.boot.begin (s.boot.count + 1)) f.images = (n, none))
    (hgood : selfTestFault (degradedQuads (s.boot.begin (s.boot.count + 1)) f) f = none) :
    s.bootUp f = s.bootedWith f := by
  unfold State.bootUp
  dsimp only
  rw [h]
  dsimp only
  rw [hgood]
  rfl

end

/-- PERST# stands as `p`. -/
def State.withPerst (s : State) (p : Bool) : State := { s with boot := { s.boot with perst := p } }

/-- A boot is that of the state with PERST# as its cause leaves it. -/
theorem boot_exec {s : State} {f : BootFindings} (h : s.boot.powered = true) {i : Instr}
    (hi : i ∈ [Instr.powerOnReset f, .perst f]) :
    ∃ p, exec i s = .next ((s.withPerst p).bootUp f) := by
  rcases List.mem_cons.1 hi with rfl | hi
  · exact ⟨s.boot.perst, congrArg Host.Outcome.next (if_pos h)⟩
  · obtain rfl := List.mem_singleton.1 hi
    exact ⟨true, congrArg Host.Outcome.next (if_pos h)⟩

theorem unpowered_runs {s : State} {f : BootFindings} (h : s.boot.powered = false) :
    ∀ i ∈ [Instr.powerOnReset f, .perst f, .thermtrip], Runs i s s := by
  have hoff : ¬ s.boot.powered = true := by simp [h]
  have honly : ∀ t : State, (if s.boot.powered then t else s) = s := fun t => if_neg hoff
  intro i hi
  rcases List.mem_cons.1 hi with rfl | hi
  · exact congrArg Host.Outcome.next (honly _)
  rcases List.mem_cons.1 hi with rfl | hi
  · exact congrArg Host.Outcome.next (honly _)
  obtain rfl := List.mem_singleton.1 hi
  exact congrArg Host.Outcome.next (honly _)

/-! ### Power comes and goes -/

theorem powerApplied_waits {s : State} (h : s.boot.powered = false) :
    RunsTo .powerApplied s fun t => t.boot.powered = true ∧ t.boot.stage = Boot.reset.stage ∧
      t.boot.count = s.boot.count % 2 ^ 64 :=
  ⟨_, congrArg Host.Outcome.next (if_neg (by simp [h])), rfl, rfl, rfl⟩

theorem powerLoss_leavesFuses (s : State) (w one : Bool) :
    RunsTo (.powerLoss w one) s fun t => t.boot.powered = false ∧ (∀ a, t.mem.read a = 0) ∧
      t.hostMem = s.hostMem ∧ t.boot.keys = s.boot.keys ∧ t.boot.minVers = s.boot.minVers ∧
      t.boot.badCore = s.boot.badCore ∧
      t.boot.count = (s.boot.count + (if w then if one then 2 else 1 else 0)) % 2 ^ 64 := by
  refine ⟨_, rfl, rfl, fun _ => rfl, rfl, rfl, rfl, rfl, ?_⟩
  have hadds : s.boot.count + w.toNat + (w && one).toNat = s.boot.count + (if w then if one then 2 else 1 else 0) := by
    cases w <;> cases one <;> rfl
  exact congrArg (· % 2 ^ 64) hadds

theorem thermtrip_loses {s : State} (h : s.boot.powered = true) :
    RunsTo .thermtrip s fun t => t.boot.powered = false ∧ (∀ a, t.mem.read a = 0) ∧
      t.boot.count = s.boot.count % 2 ^ 64 ∧ t.out = s.out ++ [.thermtrip] :=
  ⟨_, congrArg Host.Outcome.next (if_pos h), rfl, fun _ => rfl, rfl, rfl⟩

/-! ### Power and temperature -/

theorem powerWindowEnd_judges (s : State) (watts : Nat) :
    RunsTo (.powerWindowEnd watts) s fun t => t.cores = s.cores ∧ SameMemory s t ∧
      t.power.exceeded = Decidable.decide (s.power.inForce < watts) ∧ t.power.last = watts ∧ t.power.inForce = s.power.cap ∧
      t.power.gated = (if s.power.inForce < watts then min 0xFFFF (s.power.gated + 1) else min 0xFFFF s.power.gated) := by
  refine ⟨_, rfl, rfl, SameMemory.of_eq rfl rfl, rfl, rfl, rfl, ?_⟩
  by_cases hhigh : s.power.inForce < watts
  · rw [if_pos hhigh]
    simp [hhigh]
  · rw [if_neg hhigh]
    simp [hhigh]

theorem junctionTemperature_gates (s : State) (die : Fin 4) (celsius : Nat) :
    RunsTo (.junctionTemperature die celsius) s fun t => t.cores = s.cores ∧
      t.power.gate[die] = (if 100 ≤ celsius then 4 else if 95 ≤ celsius then 2 else 1) ∧
      (∀ d, d ≠ die → t.power.gate[d] = s.power.gate[d]) ∧
      t.agenda = if 110 ≤ celsius then s.agenda ++ [⟨.thermtrip, Input.reset⟩] else s.agenda := by
  have hset : ∀ g d, d ≠ die → (s.power.gate.set die g)[d] = s.power.gate[d] := fun g d hd =>
    Vector.getElem_set_ne die.isLt d.isLt fun h => hd (Fin.ext h.symm)
  refine ⟨_, rfl, ?_⟩
  by_cases hhot : 110 ≤ celsius
  · rw [if_pos hhot, if_pos hhot]
    exact ⟨rfl, Vector.getElem_set_self die.isLt, hset _, rfl⟩
  · rw [if_neg hhot, if_neg hhot]
    exact ⟨rfl, Vector.getElem_set_self die.isLt, hset _, rfl⟩

theorem gateOf_cool {s : State} {c : Fin 256} (h : s.power.gate[dieOf c] = 1) :
    gateOf s c = if s.power.exceeded then 2 else 1 := by
  unfold gateOf
  rw [h]
  split <;> rfl

/-! ### Corrected errors -/

theorem OnlyLogs.badLines {s t : State} (h : OnlyLogs s t) : t.badLines = s.badLines := (congrArg State.badLines h :)
theorem OnlyLogs.ecc {s t : State} (h : OnlyLogs s t) : t.ecc = s.ecc := (congrArg State.ecc h :)


theorem patrolScrub_marks (s : State) (dpa : Nat) :
    RunsTo (.patrolScrub dpa .uncorrectable) s fun t => SameMemory s t ∧
      t.badLines = SMap.set 0 s.badLines (dpa / 64) 1 ∧
      ∃ e, (t.flog[(0 : Fn)]).head? = some e ∧ e.cause = .uncorrectable ∧ e.addr = BitVec.ofNat 64 dpa ∧ e.unit = 4 := by
  let u : State := { s with badLines := SMap.set 0 s.badLines (dpa / 64) 1 }
  have hlogs : OnlyLogs _ _ := u.logUnit_logs .uncorrectable 2 0 4 (chanOf dpa) 0 (BitVec.ofNat 64 dpa) 0
  obtain ⟨e, hhead, he⟩ := u.logUnit_enters .uncorrectable 0 4 (chanOf dpa) 0 (BitVec.ofNat 64 dpa) 0
  exact ⟨_, rfl, SameMemory.of_eq hlogs.mem hlogs.l2, hlogs.badLines, e, hhead, (congrArg FaultEntry.cause he :),
    (congrArg FaultEntry.addr he :), (congrArg FaultEntry.unit he :)⟩

section
variable {s : State} {unit : UnitKind} {index : Nat}

theorem corrected_counts (h : (SMap.get (0, 0) s.ecc (unitCode unit + 8 * index)).1 = 0 ∨
      s.cycle < (SMap.get (0, 0) s.ecc (unitCode unit + 8 * index)).2 + 1600000000) :
    RunsTo (.corrected unit index) s fun t => SameMemory s t ∧ t.flog = s.flog ∧
      t.ecc = SMap.set (0, 0) s.ecc (unitCode unit + 8 * index)
        ((SMap.get (0, 0) s.ecc (unitCode unit + 8 * index)).1 + 1,
          if (SMap.get (0, 0) s.ecc (unitCode unit + 8 * index)).1 = 0 then s.cycle
          else (SMap.get (0, 0) s.ecc (unitCode unit + 8 * index)).2) ∧
      (unit = .core → ∀ c : Fin 256, index = c.val → t.coreAt c = (s.coreAt c).count 14 1) := by
  have hexec : exec (.corrected unit index) s = .next (s.correctedIn unit index) := by
    refine congrArg Host.Outcome.next (if_neg ?_)
    rintro ⟨hne, hlate⟩
    rcases h with h | h
    · exact hne h
    · omega
  refine ⟨_, hexec, ?_⟩
  have hcore : ∀ n, ((s.noteEcc n).mapCore (Fin.ofNat 256 index) fun k => k.count 14 1).ecc = (s.noteEcc n).ecc ∧
      ∀ c : Fin 256, index = c.val → ((s.noteEcc n).mapCore (Fin.ofNat 256 index) fun k => k.count 14 1).coreAt c =
        (s.coreAt c).count 14 1 := fun n => by
    refine ⟨rfl, fun c hc => ?_⟩
    obtain rfl : Fin.ofNat 256 index = c := Fin.ext (Nat.mod_eq_of_lt (hc ▸ c.isLt) |>.trans hc)
    exact State.coreAt_mapCore _ _ _
  unfold State.correctedIn
  cases unit with
  | core => exact ⟨SameMemory.of_eq rfl rfl, rfl, rfl, fun _ => (hcore _).2⟩
  | copyEngine => exact ⟨SameMemory.of_eq rfl rfl, rfl, rfl, nofun⟩
  | sequencer => exact ⟨SameMemory.of_eq rfl rfl, rfl, rfl, nofun⟩
  | slice => exact ⟨SameMemory.of_eq rfl rfl, rfl, rfl, nofun⟩
  | channel => exact ⟨SameMemory.of_eq rfl rfl, rfl, rfl, nofun⟩
  | port => exact ⟨SameMemory.of_eq rfl rfl, rfl, rfl, nofun⟩
  | serviceProc => exact ⟨SameMemory.of_eq rfl rfl, rfl, rfl, nofun⟩
  | hostIf => exact ⟨SameMemory.of_eq rfl rfl, rfl, rfl, nofun⟩

theorem corrected_logs (hne : (SMap.get (0, 0) s.ecc (unitCode unit + 8 * index)).1 ≠ 0)
    (hlate : (SMap.get (0, 0) s.ecc (unitCode unit + 8 * index)).2 + 1600000000 ≤ s.cycle) :
    RunsTo (.corrected unit index) s fun t =>
      t.ecc = SMap.set (0, 0) s.ecc (unitCode unit + 8 * index) (0, 0) ∧ SameMemory s t ∧ t.cores = s.cores ∧
      ∃ e, (t.flog[(0 : Fn)]).head? = some e ∧ e.cause = .corrected ∧ e.unit = unitCode unit ∧ e.index = index ∧
        e.detail = min (SMap.get (0, 0) s.ecc (unitCode unit + 8 * index)).1 0xFFFF := by
  let u : State := { s with ecc := SMap.set (0, 0) s.ecc (unitCode unit + 8 * index) (0, 0) }
  have hlogs : OnlyLogs _ _ := u.logUnit_logs .corrected 2 0 (unitCode unit) index
    (min (SMap.get (0, 0) s.ecc (unitCode unit + 8 * index)).1 0xFFFF) 0 0
  obtain ⟨e, hhead, he⟩ := u.logUnit_enters .corrected 0 (unitCode unit) index
    (min (SMap.get (0, 0) s.ecc (unitCode unit + 8 * index)).1 0xFFFF) 0 0
  exact ⟨_, congrArg Host.Outcome.next (if_pos ⟨hne, hlate⟩), hlogs.ecc, SameMemory.of_eq hlogs.mem hlogs.l2,
    hlogs.cores, e, hhead, (congrArg FaultEntry.cause he :), (congrArg FaultEntry.unit he :),
    (congrArg FaultEntry.index he :), (congrArg FaultEntry.detail he :)⟩

end

/-- Settles O53, clause by clause: a boot from what `State.bootUp` comes to in its three cases. -/
theorem powerBootAndErrors : Obligations.PowerBootAndErrors := by
  unfold Obligations.PowerBootAndErrors
  intro s f
  refine ⟨unpowered_runs, fun hon i hi => ?_, ⟨_, rfl, rfl, rfl, SameMemory.of_eq rfl rfl⟩,
    fun hon => congrArg Host.Outcome.next (if_pos hon), powerApplied_waits, powerLoss_leavesFuses s, thermtrip_loses,
    powerWindowEnd_judges s, junctionTemperature_gates s, fun _ => gateOf_cool,
    fun dpa => ⟨rfl, ⟨_, rfl, SameMemory.of_eq rfl rfl, rfl, rfl⟩, patrolScrub_marks s dpa⟩,
    fun unit index => ⟨corrected_counts, corrected_logs⟩⟩
  obtain ⟨p, hexec⟩ := boot_exec hon hi
  refine ⟨fun n code himages => ⟨_, hexec, ?_⟩, fun n code himages hfault => ⟨_, hexec, ?_⟩,
    fun n himages hgood => ⟨_, hexec, ?_⟩⟩
  · rw [(s.withPerst p).bootUp_refused f himages]
    exact ⟨rfl, rfl, rfl, rfl, rfl, fun _ => rfl⟩
  · rw [(s.withPerst p).bootUp_faulty f himages hfault]
    exact ⟨rfl, rfl, rfl⟩
  · rw [(s.withPerst p).bootUp_good f himages hgood]
    exact ⟨rfl, rfl, rfl, rfl, rfl, rfl, rfl, rfl, rfl, bootPorts_absent _, rfl, rfl, rfl, rfl, rfl, fun _ => rfl,
      fun part => congrArg Partition.exists_ (Vector.getElem_replicate part.isLt), rfl, fun _ => rfl⟩

end Sys2Proof.Machine
end

section
/-! The calm part of the state: what neither an instruction of a core nor the memory, the engines or the fabric changes. Time,
power, the boot, the registers of the host, the call sheet and its votes; and of the ports what a packet's way leaves alone. -/

namespace Sys2Proof.Machine

/-- A port but for what packets on their way change: credits that are owed, counts of drops, and the queues of a port that
carries packets. -/
def Port.still (q : Port) : Port :=
  { q with owed := Vector.replicate 6 0, drops := 0, cutDrops := [],
           queue := if q.use = .dead then q.queue else [], ctlQueue := if q.use = .dead then q.ctlQueue else [] }

/-- What ordinary steps leave alone. -/
structure Calm where
  inp : Input
  turn : Nat
  cycle : Nat
  degQuads : BitVec 64
  degSlices : BitVec 128
  degWays : BitVec 1536
  degChans : BitVec 256
  degPorts : BitVec 20
  boot : Boot
  power : Power
  fabId : BitVec 64
  ports : Vector Port 20
  fns : Vector FnRegs 17
  slateBase : Vector Word 17
  cmdRuns : List CmdRun
  hdm : List Hdm
  genesis : List Byte
  sheet : Sheet
  votes : List Vote
  msixMask : Vector (BitVec 2048) 17
  hvecBoot : BitVec 38

def State.calm (s : State) : Calm :=
  { inp := s.inp, turn := s.turn, cycle := s.cycle, degQuads := s.degQuads, degSlices := s.degSlices, degWays := s.degWays,
    degChans := s.degChans, degPorts := s.degPorts, boot := s.boot, power := s.power, fabId := s.fabric.fabId,
    ports := s.fabric.ports.map Port.still, fns := s.fns, slateBase := s.slateBase, cmdRuns := s.cmdRuns, hdm := s.hdm,
    genesis := s.genesis, sheet := s.sheet, votes := s.votes, msixMask := s.msixMask, hvecBoot := s.hvecBoot }

/-- An update of any other field. -/
@[simp] theorem State.calm_mk (s : State) (x_agenda x_issue x_free x_nextId x_cores x_mem x_hostMem x_badLines x_ecc x_l2
    x_plru x_hostLines x_arrivals x_memq x_comb x_dieNum x_perf x_credRet x_cmds x_l2tlb x_seqTlb x_seqSram x_parts x_rt x_nb
    x_qos x_openRows x_launches x_gangs x_saved x_flog x_flogLost x_fnErr x_fnErrVec x_msixPend x_out) :
    (State.mk x_agenda s.inp s.turn x_issue x_free x_nextId s.cycle x_cores x_mem x_hostMem x_badLines x_ecc x_l2
      x_plru x_hostLines x_arrivals x_memq x_comb x_dieNum x_perf x_credRet x_cmds x_l2tlb x_seqTlb x_seqSram
      x_parts x_rt s.degQuads s.degSlices s.degWays s.degChans s.degPorts s.boot s.power s.fabric s.fns s.slateBase
      s.cmdRuns s.hdm s.genesis x_nb x_qos x_openRows s.sheet s.votes x_launches x_gangs x_saved x_flog x_flogLost
      x_fnErr x_fnErrVec s.msixMask x_msixPend x_out s.hvecBoot).calm = s.calm := rfl

/-- An update of the fabric interface beside its ports, and of any other field. -/
@[simp] theorem State.calm_mkFabric (s : State) (x_agenda x_issue x_free x_nextId x_cores x_mem x_hostMem x_badLines x_ecc x_l2
    x_plru x_hostLines x_arrivals x_memq x_comb x_dieNum x_perf x_credRet x_cmds x_l2tlb x_seqTlb x_seqSram x_parts x_rt x_nb
    x_qos x_openRows x_launches x_gangs x_saved x_flog x_flogLost x_fnErr x_fnErrVec x_msixPend x_out
    x_routes x_streams x_sent x_held x_again x_own x_acks) :
    (State.mk x_agenda s.inp s.turn x_issue x_free x_nextId s.cycle x_cores x_mem x_hostMem x_badLines x_ecc x_l2
      x_plru x_hostLines x_arrivals x_memq x_comb x_dieNum x_perf x_credRet x_cmds x_l2tlb x_seqTlb x_seqSram
      x_parts x_rt s.degQuads s.degSlices s.degWays s.degChans s.degPorts s.boot s.power
      (Fabric.mk s.fabric.fabId s.fabric.ports x_routes x_streams x_sent x_held x_again x_own x_acks) s.fns s.slateBase
      s.cmdRuns s.hdm s.genesis x_nb x_qos x_openRows s.sheet s.votes x_launches x_gangs x_saved x_flog x_flogLost
      x_fnErr x_fnErrVec s.msixMask x_msixPend x_out s.hvecBoot).calm = s.calm := rfl

@[simp] theorem State.calm_ite {c : Prop} [Decidable c] (s t : State) : (if c then s else t).calm = if c then s.calm else t.calm :=
  apply_ite _ _ _ _

@[simp] theorem State.calm_dite {c : Prop} [Decidable c] (s : c → State) (t : ¬ c → State) :
    (if h : c then s h else t h).calm = if h : c then (s h).calm else (t h).calm :=
  apply_dite _ _ _ _

@[simp] theorem State.foldl_calm {α : Type} {f : State → α → State} (hf : ∀ s a, (f s a).calm = s.calm) (l : List α) (s : State) :
    (l.foldl f s).calm = s.calm := by
  induction l generalizing s with
  | nil => rfl
  | cons a l ih => exact (ih (f s a)).trans (hf s a)

/-! ### The resting part

Most of these steps leave more alone: where each core stands, the launches, the gangs but for their counts, the partitions but
for their meters, what a partition waits for, and which near-bank runs are to end. -/

/-- Where a core stands in its launch. -/
structure Standing where
  launch : Option Nat
  run : RunState
  stop : Option StopKind

@[simp] def Core.standing (k : Core) : Standing := ⟨k.launch, k.run, k.stop⟩

/-- A launch but for the polders that its save area holds. -/
def Launch.still (l : Launch) : Launch := { l with copies := [] }

/-- A gang but for its counts of packets. -/
def GangDef.still (g : GangDef) : GangDef := { g with sent := 0, received := 0 }

/-- A partition but for its meters. -/
def Partition.still (p : Partition) : Partition := { p with meters := Vector.replicate 16 0 }

/-- What a partition's function waits for: its permissions, its reset and the frames of its destruction. -/
def PartRt.pending (r : PartRt) : List Lperm × Bool × Option (List Nat) := (r.lperm, r.isReset, r.frames)

/-- A near-bank run's partition, and what is to end it. -/
def NbRun.owed (r : NbRun) : Nat × Option Nat := (r.part, r.kill)

structure Rest where
  calm : Calm
  cores : Vector Standing 256
  launches : List Launch
  gangs : List GangDef
  parts : Vector Partition 17
  rts : Vector (List Lperm × Bool × Option (List Nat)) 17
  runs : Vector (List (Nat × Option Nat)) 256

def State.rest (s : State) : Rest :=
  { calm := s.calm, cores := s.cores.map Core.standing, launches := s.launches.map Launch.still, gangs := s.gangs.map GangDef.still,
    parts := s.parts.map Partition.still, rts := s.rt.map PartRt.pending, runs := s.nb.map (List.map NbRun.owed) }

theorem State.calm_of_rest {s t : State} (h : t.rest = s.rest) : t.calm = s.calm := congrArg Rest.calm h

/-- An update of any other field. -/
@[simp] theorem State.rest_mk (s : State) (x_agenda x_issue x_free x_nextId x_mem x_hostMem x_badLines x_ecc x_l2
    x_plru x_hostLines x_arrivals x_memq x_comb x_dieNum x_perf x_credRet x_cmds x_l2tlb x_seqTlb x_seqSram
    x_qos x_openRows x_saved x_flog x_flogLost x_fnErr x_fnErrVec x_msixPend x_out) :
    (State.mk x_agenda s.inp s.turn x_issue x_free x_nextId s.cycle s.cores x_mem x_hostMem x_badLines x_ecc x_l2
      x_plru x_hostLines x_arrivals x_memq x_comb x_dieNum x_perf x_credRet x_cmds x_l2tlb x_seqTlb x_seqSram
      s.parts s.rt s.degQuads s.degSlices s.degWays s.degChans s.degPorts s.boot s.power s.fabric s.fns s.slateBase
      s.cmdRuns s.hdm s.genesis s.nb x_qos x_openRows s.sheet s.votes s.launches s.gangs x_saved x_flog x_flogLost
      x_fnErr x_fnErrVec s.msixMask x_msixPend x_out s.hvecBoot).rest = s.rest := rfl

/-- An update of the fabric interface beside its ports, and of any other field. -/
@[simp] theorem State.rest_mkFabric (s : State) (x_agenda x_issue x_free x_nextId x_mem x_hostMem x_badLines x_ecc x_l2
    x_plru x_hostLines x_arrivals x_memq x_comb x_dieNum x_perf x_credRet x_cmds x_l2tlb x_seqTlb x_seqSram
    x_qos x_openRows x_saved x_flog x_flogLost x_fnErr x_fnErrVec x_msixPend x_out
    x_routes x_streams x_sent x_held x_again x_own x_acks) :
    (State.mk x_agenda s.inp s.turn x_issue x_free x_nextId s.cycle s.cores x_mem x_hostMem x_badLines x_ecc x_l2
      x_plru x_hostLines x_arrivals x_memq x_comb x_dieNum x_perf x_credRet x_cmds x_l2tlb x_seqTlb x_seqSram
      s.parts s.rt s.degQuads s.degSlices s.degWays s.degChans s.degPorts s.boot s.power
      (Fabric.mk s.fabric.fabId s.fabric.ports x_routes x_streams x_sent x_held x_again x_own x_acks) s.fns s.slateBase
      s.cmdRuns s.hdm s.genesis s.nb x_qos x_openRows s.sheet s.votes s.launches s.gangs x_saved x_flog x_flogLost
      x_fnErr x_fnErrVec s.msixMask x_msixPend x_out s.hvecBoot).rest = s.rest := rfl

@[simp] theorem State.rest_ite {c : Prop} [Decidable c] (s t : State) : (if c then s else t).rest = if c then s.rest else t.rest :=
  apply_ite _ _ _ _

@[simp] theorem State.rest_dite {c : Prop} [Decidable c] (s : c → State) (t : ¬ c → State) :
    (if h : c then s h else t h).rest = if h : c then (s h).rest else (t h).rest :=
  apply_dite _ _ _ _

@[simp] theorem State.foldl_rest {α : Type} {f : State → α → State} (hf : ∀ s a, (f s a).rest = s.rest) (l : List α) (s : State) :
    (l.foldl f s).rest = s.rest := by
  induction l generalizing s with
  | nil => rfl
  | cons a l ih => exact (ih (f s a)).trans (hf s a)

/-! ### Where a slot or a step goes on -/

/-- The calm part of where a slot goes on; where it does not, the one given. -/
def SlotRes.calm {α : Type} (d : Calm) : SlotRes α → Calm
  | .ok _ t => t.calm
  | .trap _ => d
  | .hold _ => d

section
variable {α β : Type} {s : State} {d : Calm}

@[simp] theorem SlotRes.calm_ok (a : α) (t : State) : (SlotRes.ok a t).calm d = t.calm := rfl
@[simp] theorem SlotRes.calm_trap (t : Trap) : (SlotRes.trap t : SlotRes α).calm d = d := rfl
@[simp] theorem SlotRes.calm_hold (h : Hold) : (SlotRes.hold h : SlotRes α).calm d = d := rfl
@[simp] theorem raise_calm (c : Cause) (info : Word) : (raise s c info : SlotRes α).calm d = d := rfl

@[simp] theorem SlotRes.calm_ite {c : Prop} [Decidable c] (r r' : SlotRes α) :
    (if c then r else r').calm d = if c then r.calm d else r'.calm d :=
  apply_ite _ _ _ _

@[simp] theorem SlotRes.calm_dite {c : Prop} [Decidable c] (r : c → SlotRes α) (r' : ¬ c → SlotRes α) :
    (if h : c then r h else r' h).calm d = if h : c then (r h).calm d else (r' h).calm d :=
  apply_dite _ _ _ _

@[simp] theorem need_calm (b : Bool) (c : Cause) (info : Word) (r : SlotRes α) :
    (need s b c info r).calm d = if b then r.calm d else d := by
  cases b <;> rfl

theorem SlotRes.calm_bind {r : SlotRes α} {k : α → State → SlotRes β} (hr : r.calm s.calm = s.calm)
    (hk : ∀ a t, (k a t).calm t.calm = t.calm) : (r.bind k).calm s.calm = s.calm := by
  cases r with
  | ok a t => exact (congrArg (SlotRes.calm · (k a t)) hr.symm).trans ((hk a t).trans hr)
  | trap t => rfl
  | hold h => rfl

/-- A step goes on, and leaves the calm part as it is. -/
def KeepsCalm (s : State) (o : Host.Outcome State Fault Refusal) : Prop := ∃ t, o = .next t ∧ t.calm = s.calm

theorem keepsCalm_next {s t : State} (h : t.calm = s.calm) : KeepsCalm s (.next t) := ⟨t, rfl, h⟩

theorem KeepsCalm.from {s t : State} {o : Host.Outcome State Fault Refusal} (h : KeepsCalm t o) (hst : t.calm = s.calm) :
    KeepsCalm s o :=
  h.imp fun _ hu => ⟨hu.1, hu.2.trans hst⟩

end

/-- The calm part of what a function that can fail answers, by way of `g`. -/
def okCalm {ε α : Type} (g : α → State) (d : Calm) : Except ε α → Calm
  | .ok a => (g a).calm
  | .error _ => d

section
variable {ε α : Type} {g : α → State} {d : Calm}

@[simp] theorem okCalm_ok (a : α) : okCalm g d (.ok a : Except ε α) = (g a).calm := rfl
@[simp] theorem okCalm_error (e : ε) : okCalm g d (.error e : Except ε α) = d := rfl

@[simp] theorem okCalm_ite {c : Prop} [Decidable c] (r r' : Except ε α) :
    okCalm g d (if c then r else r') = if c then okCalm g d r else okCalm g d r' :=
  apply_ite _ _ _ _

theorem okCalm_eq {r : Except ε α} {a : α} (h : okCalm g d r = d) (hr : r = .ok a) : (g a).calm = d := by
  subst hr
  exact h

theorem okCalm_map {β : Type} {h : β → State} {r : Except ε α} {f : α → β} (hr : okCalm g d r = d)
    (hf : ∀ a, (h (f a)).calm = (g a).calm) : okCalm h d (r.map f) = d := by
  cases r with
  | error e => rfl
  | ok a => exact (hf a).trans hr

theorem okCalm_bind {β : Type} {h : β → State} {r : Except ε α} {f : α → Except ε β} (hr : okCalm g d r = d)
    (hf : ∀ a, okCalm h (g a).calm (f a) = (g a).calm) : okCalm h d (r.bind f) = d := by
  cases r with
  | error e => rfl
  | ok a => exact (congrArg (okCalm h · (f a)) hr.symm).trans ((hf a).trans hr)

/-- The first failure of a list of steps ends them all. -/
theorem okCalm_foldl {α : Type} {f : Except ε State → α → Except ε State} {e : State}
    (hf : ∀ s a, okCalm id s.calm (f (.ok s) a) = s.calm) (herr : ∀ x a, f (.error x) a = .error x) (l : List α) :
    okCalm id e.calm (l.foldl f (.ok e)) = e.calm := by
  induction l generalizing e with
  | nil => rfl
  | cons a l ih =>
    rw [List.foldl_cons]
    have hstep := hf e a
    cases hfa : f (.ok e) a with
    | error x =>
      rw [foldl_error f herr]
      rfl
    | ok t =>
      rw [hfa] at hstep
      have hte : t.calm = e.calm := hstep
      exact hte ▸ ih

end
/-- The resting part of what a function that can fail answers, by way of `g`. -/
def okRest {ε α : Type} (g : α → State) (d : Rest) : Except ε α → Rest
  | .ok a => (g a).rest
  | .error _ => d

section
variable {ε α : Type} {g : α → State} {d : Rest}

@[simp] theorem okRest_ok (a : α) : okRest g d (.ok a : Except ε α) = (g a).rest := rfl
@[simp] theorem okRest_error (e : ε) : okRest g d (.error e : Except ε α) = d := rfl

@[simp] theorem okRest_ite {c : Prop} [Decidable c] (r r' : Except ε α) :
    okRest g d (if c then r else r') = if c then okRest g d r else okRest g d r' :=
  apply_ite _ _ _ _

theorem okRest_eq {r : Except ε α} {a : α} (h : okRest g d r = d) (hr : r = .ok a) : (g a).rest = d := by
  subst hr
  exact h

theorem okRest_map {β : Type} {h : β → State} {r : Except ε α} {f : α → β} (hr : okRest g d r = d)
    (hf : ∀ a, (h (f a)).rest = (g a).rest) : okRest h d (r.map f) = d := by
  cases r with
  | error e => rfl
  | ok a => exact (hf a).trans hr

/-- The first failure of a list of steps ends them all. -/
theorem okRest_foldl {α : Type} {f : Except ε State → α → Except ε State} {e : State}
    (hf : ∀ s a, okRest id s.rest (f (.ok s) a) = s.rest) (herr : ∀ x a, f (.error x) a = .error x) (l : List α) :
    okRest id e.rest (l.foldl f (.ok e)) = e.rest := by
  induction l generalizing e with
  | nil => rfl
  | cons a l ih =>
    rw [List.foldl_cons]
    have hstep := hf e a
    cases hfa : f (.ok e) a with
    | error x =>
      rw [foldl_error f herr]
      rfl
    | ok t =>
      rw [hfa] at hstep
      have hte : t.rest = e.rest := hstep
      exact hte ▸ ih

theorem okCalm_of_rest {r : Except ε α} (h : okRest g d r = d) : okCalm g d.calm r = d.calm := by
  cases r with
  | error e => rfl
  | ok a => exact congrArg Rest.calm h

end

/-- The resting part of where a sequencer's work stands. -/
def CollOut.rest {α : Type} : CollOut α → Rest
  | .ok _ t => t.rest
  | .stop _ t => t.rest

section
variable {α β : Type} {s : State}

@[simp] theorem CollOut.rest_ok (a : α) (t : State) : (CollOut.ok a t).rest = t.rest := rfl
@[simp] theorem CollOut.rest_stop (x : CollStop) (t : State) : (CollOut.stop x t : CollOut α).rest = t.rest := rfl

@[simp] theorem CollOut.rest_ite {c : Prop} [Decidable c] (r r' : CollOut α) :
    (if c then r else r').rest = if c then r.rest else r'.rest :=
  apply_ite _ _ _ _

theorem CollOut.rest_bind {r : CollOut α} {k : α → State → CollOut β} (hr : r.rest = s.rest)
    (hk : ∀ a t, (k a t).rest = t.rest) : (r.bind k).rest = s.rest := by
  cases r with
  | ok a t => exact (hk a t).trans hr
  | stop x t => exact hr

theorem CollOut.rest_foldl {k : β → α → State → CollOut α} (hk : ∀ b a t, (k b a t).rest = t.rest) (l : List β)
    (r : CollOut α) : (l.foldl (fun r b => r.bind (k b)) r).rest = r.rest := by
  induction l generalizing r with
  | nil => rfl
  | cons b l ih =>
    cases r with
    | ok a t => exact (ih _).trans (hk b a t)
    | stop x t => exact ih _

end

/-! ### Operations on cores and registers -/

@[simp] theorem State.setCore_calm (s : State) (c : Fin 256) (k : Core) : (State.setCore s c k).calm = s.calm := by
  unfold State.setCore
  simp

@[simp] theorem State.mapCore_calm (s : State) (c : Fin 256) (f : Core → Core) : (State.mapCore s c f).calm = s.calm := by
  unfold State.mapCore
  simp

/-- A vector's part that an element keeps. -/
theorem map_set_of_eq {α β : Type} {n i : Nat} (v : Vector α n) (g : α → β) (h : i < n) {x : α} (hx : g x = g v[i]) :
    (v.set i x h).map g = v.map g := by
  ext1 j hj
  by_cases hij : i = j
  · subst hij
    simpa using hx
  · simp [hij]

theorem OnlyEngine.standing {k k' : Core} (h : OnlyEngine k k') : k'.standing = k.standing := (congrArg Core.standing h :)

theorem State.mapCore_rest (s : State) (c : Fin 256) {f : Core → Core} (hf : ∀ k, (f k).standing = k.standing) :
    (s.mapCore c f).rest = s.rest :=
  congrArg (fun cores => ({ s.rest with cores := cores } : Rest)) (map_set_of_eq s.cores Core.standing c.isLt (hf _))

@[simp] theorem State.upd_calm (s : State) (f : Core → Core) : (State.upd s f).calm = s.calm := by
  unfold State.upd
  simp

theorem OnlyMemorySide.calm {s t : State} (h : OnlyMemorySide s t) : t.calm = s.calm := (congrArg State.calm h.1 :)

@[simp] theorem State.post_rest (s : State) (i : Instr) (inp : Input) : (State.post s i inp).rest = s.rest := by
  unfold State.post
  simp

@[simp] theorem State.post_calm (s : State) (i : Instr) (inp : Input) : (State.post s i inp).calm = s.calm :=
  State.calm_of_rest (State.post_rest ..)

@[simp] theorem State.postCore_rest (s : State) (i : Instr) (c : Fin 256) : (State.postCore s i c).rest = s.rest := by
  unfold State.postCore
  simp

@[simp] theorem State.postCore_calm (s : State) (i : Instr) (c : Fin 256) : (State.postCore s i c).calm = s.calm :=
  State.calm_of_rest (State.postCore_rest ..)

@[simp] theorem State.meter_rest (s : State) (part : Nat) (m : Fin 16) (n : Nat) : (State.meter s part m n).rest = s.rest := by
  unfold State.meter
  split
  next hp =>
    split
    · rfl
    · exact congrArg (fun parts => ({ s.rest with parts := parts } : Rest)) (map_set_of_eq s.parts Partition.still hp rfl)
  · rfl

@[simp] theorem State.meter_calm (s : State) (part : Nat) (m : Fin 16) (n : Nat) : (State.meter s part m n).calm = s.calm :=
  State.calm_of_rest (State.meter_rest ..)

@[simp] theorem State.signal_rest (s : State) (fn : Fn) (v : Nat) : (State.signal s fn v).rest = s.rest := by
  unfold State.signal
  simp

@[simp] theorem State.signal_calm (s : State) (fn : Fn) (v : Nat) : (State.signal s fn v).calm = s.calm :=
  State.calm_of_rest (State.signal_rest ..)

@[simp] theorem State.wakeWfi_rest (s : State) (ev : BitVec 4) : (s.wakeWfi ev).rest = s.rest :=
  State.foldl_rest (fun s c => by split <;> simp) allCores s

@[simp] theorem State.wakeWfi_calm (s : State) (ev : BitVec 4) : (s.wakeWfi ev).calm = s.calm :=
  State.calm_of_rest (State.wakeWfi_rest ..)

@[simp] theorem State.wakeYield_rest (s : State) (c : Fin 256) (why : YieldWhy) : (State.wakeYield s c why).rest = s.rest := by
  unfold State.wakeYield
  split <;> simp

@[simp] theorem State.wakeYield_calm (s : State) (c : Fin 256) (why : YieldWhy) : (State.wakeYield s c why).calm = s.calm :=
  State.calm_of_rest (State.wakeYield_rest ..)

@[simp] theorem State.raiseErr_rest (s : State) (fn : Fn) (bit : Nat) : (State.raiseErr s fn bit).rest = s.rest := by
  unfold State.raiseErr
  simp

@[simp] theorem State.raiseErr_calm (s : State) (fn : Fn) (bit : Nat) : (State.raiseErr s fn bit).calm = s.calm :=
  State.calm_of_rest (State.raiseErr_rest ..)

@[simp] theorem State.logOne_rest (s : State) (fn : Fn) (e : FaultEntry) : (State.logOne s fn e).rest = s.rest := by
  unfold State.logOne
  simp

@[simp] theorem State.logOne_calm (s : State) (fn : Fn) (e : FaultEntry) : (State.logOne s fn e).calm = s.calm :=
  State.calm_of_rest (State.logOne_rest ..)

@[simp] theorem State.logFault_rest (s : State) (e : FaultEntry) : (State.logFault s e).rest = s.rest := by
  unfold State.logFault
  simp

@[simp] theorem State.logFault_calm (s : State) (e : FaultEntry) : (State.logFault s e).calm = s.calm :=
  State.calm_of_rest (State.logFault_rest ..)

@[simp] theorem State.logCore_calm (s : State) (c : Fin 256) (cause : Cause) (flags : BitVec 8) (info : Word) :
    (State.logCore s c cause flags info).calm = s.calm := by
  unfold State.logCore
  simp

@[simp] theorem State.logUnit_rest (s : State) (cause : Cause) (flags : BitVec 8) (part unit index detail : Nat) (addr : Word) (gang : BitVec 32) :
    (State.logUnit s cause flags part unit index detail addr gang).rest = s.rest := by
  unfold State.logUnit
  simp

@[simp] theorem State.logUnit_calm (s : State) (cause : Cause) (flags : BitVec 8) (part unit index detail : Nat) (addr : Word) (gang : BitVec 32) :
    (State.logUnit s cause flags part unit index detail addr gang).calm = s.calm :=
  State.calm_of_rest (State.logUnit_rest ..)

theorem readSeen_calm {α : Type} (s : State) (x : α) (v : Seen α) (info : Word) :
    (readSeen s x v info).calm s.calm = s.calm := by
  unfold readSeen
  split <;> simp

@[simp] theorem State.result_calm (s : State) (v : Word) (lat : Nat) (w : WReg) : (State.result s v lat w).calm = s.calm := by
  unfold State.result
  simp

@[simp] theorem State.vresult_calm (s : State) (v : Vec) (lat : Nat) : (State.vresult s v lat).calm = s.calm := by
  unfold State.vresult
  simp

@[simp] theorem State.endLaunch_calm (s : State) (launch : Option Nat) (cause : Word) :
    (State.endLaunch s launch cause).calm = s.calm := by
  unfold State.endLaunch
  split <;> simp

@[simp] theorem State.leaveQuad_calm (s : State) (c : Fin 256) : (State.leaveQuad s c).calm = s.calm := by
  unfold State.leaveQuad
  simp

@[simp] theorem State.killCore_calm (s : State) (c : Fin 256) (cause : Cause) (word : Word) (flags : BitVec 8) (info : Word) :
    (State.killCore s c cause word flags info).calm = s.calm := by
  unfold State.killCore
  simp

@[simp] theorem State.takeTrapOn_calm (s : State) (c : Fin 256) (h : Bool) (t : Trap) :
    (State.takeTrapOn s c h t).calm = s.calm := by
  unfold State.takeTrapOn
  dsimp only
  split <;> simp

@[simp] theorem State.takeTrap_calm (s : State) (c : Fin 256) (t : Trap) : (State.takeTrap s c t).calm = s.calm := by
  unfold State.takeTrap
  simp

/-! ### L2 -/

@[simp] theorem State.poke_rest (s : State) (tag a : Nat) (bs : List Byte) : (State.poke s tag a bs).rest = s.rest := by
  unfold State.poke
  simp

@[simp] theorem State.poke_calm (s : State) (tag a : Nat) (bs : List Byte) : (State.poke s tag a bs).calm = s.calm :=
  State.calm_of_rest (State.poke_rest ..)

@[simp] theorem State.put_rest (s : State) (tag a : Nat) (bs : List Byte) (side : Bool) :
    (State.put s tag a bs side).rest = s.rest := by
  unfold State.put
  simp

@[simp] theorem State.put_calm (s : State) (tag a : Nat) (bs : List Byte) (side : Bool) :
    (State.put s tag a bs side).calm = s.calm :=
  State.calm_of_rest (State.put_rest ..)

@[simp] theorem State.pokeSegs_calm (s : State) (tag : Nat) (l : List Seg) (bs : List Byte) :
    (s.pokeSegs tag l bs).calm = s.calm := by
  induction l generalizing s bs with
  | nil => rfl
  | cons g rest ih => exact (ih _ _).trans (State.put_calm _ _ _ _ _)

@[simp] theorem State.failLine_calm (s : State) (tag dpa code : Nat) : (State.failLine s tag dpa code).calm = s.calm := by
  unfold State.failLine
  simp

@[simp] theorem State.countCtx_rest (s : State) (launch : Option Nat) (c : Fin 256) (ev : Fin 16) (n : Nat) :
    (State.countCtx s launch c ev n).rest = s.rest := by
  unfold State.countCtx
  split
  · exact s.mapCore_rest c fun _ => rfl
  · (repeat' split) <;> simp

@[simp] theorem State.countCtx_calm (s : State) (launch : Option Nat) (c : Fin 256) (ev : Fin 16) (n : Nat) :
    (State.countCtx s launch c ev n).calm = s.calm :=
  State.calm_of_rest (State.countCtx_rest ..)

@[simp] theorem State.openRow_rest (s : State) (dpa : Nat) : (State.openRow s dpa).rest = s.rest := by
  unfold State.openRow
  simp

@[simp] theorem State.openRow_calm (s : State) (dpa : Nat) : (State.openRow s dpa).calm = s.calm :=
  State.calm_of_rest (State.openRow_rest ..)

@[simp] theorem State.updQos_rest (s : State) (ch : Fin 256) (part : Nat) (f : QosCount → QosCount) :
    (State.updQos s ch part f).rest = s.rest := by
  unfold State.updQos
  simp

@[simp] theorem State.updQos_calm (s : State) (ch : Fin 256) (part : Nat) (f : QosCount → QosCount) :
    (State.updQos s ch part f).calm = s.calm :=
  State.calm_of_rest (State.updQos_rest ..)

@[simp] theorem State.spendTokens_rest (s : State) (ch : Fin 256) (part n : Nat) :
    (State.spendTokens s ch part n).rest = s.rest := by
  unfold State.spendTokens
  simp

@[simp] theorem State.spendTokens_calm (s : State) (ch : Fin 256) (part n : Nat) :
    (State.spendTokens s ch part n).calm = s.calm :=
  State.calm_of_rest (State.spendTokens_rest ..)

@[simp] theorem State.noteWindow_rest (s : State) (ch : Fin 256) : (State.noteWindow s ch).rest = s.rest := by
  unfold State.noteWindow
  split
  next r hr =>
    split
    · obtain ⟨rest, hruns⟩ := List.head?_eq_some_iff.mp hr
      refine congrArg (fun runs => ({ s.rest with runs := runs } : Rest)) (map_set_of_eq s.nb (List.map NbRun.owed) ch.isLt ?_)
      have hruns' : s.nb[ch.val] = r :: rest := hruns
      rw [hruns', hruns]
      rfl
    · rfl
  · rfl

@[simp] theorem State.noteWindow_calm (s : State) (ch : Fin 256) : (State.noteWindow s ch).calm = s.calm :=
  State.calm_of_rest (State.noteWindow_rest ..)

@[simp] theorem State.channelUse_rest (s : State) (dpa part : Nat) (rd : Bool) :
    (State.channelUse s dpa part rd).rest = s.rest := by
  unfold State.channelUse
  simp

@[simp] theorem State.channelUse_calm (s : State) (dpa part : Nat) (rd : Bool) :
    (State.channelUse s dpa part rd).calm = s.calm :=
  State.calm_of_rest (State.channelUse_rest ..)

@[simp] theorem State.note_rest (s : State) (q : Req) (ev : Fin 16) (n : Nat) : (State.note s q ev n).rest = s.rest := by
  unfold State.note
  split <;> simp

@[simp] theorem State.note_calm (s : State) (q : Req) (ev : Fin 16) (n : Nat) : (State.note s q ev n).calm = s.calm :=
  State.calm_of_rest (State.note_rest ..)

@[simp] theorem State.noteEcc_rest (s : State) (k : Nat) : (State.noteEcc s k).rest = s.rest := by
  unfold State.noteEcc
  simp

@[simp] theorem State.noteEcc_calm (s : State) (k : Nat) : (State.noteEcc s k).calm = s.calm :=
  State.calm_of_rest (State.noteEcc_rest ..)

@[simp] theorem State.correctRead_rest (s : State) (q : Req) (dpa : Nat) : (State.correctRead s q dpa).rest = s.rest := by
  unfold State.correctRead
  simp

@[simp] theorem State.correctRead_calm (s : State) (q : Req) (dpa : Nat) : (State.correctRead s q dpa).calm = s.calm :=
  State.calm_of_rest (State.correctRead_rest ..)

@[simp] theorem State.hbmRead_rest (s : State) (q : Req) (dpa : Nat) : (State.hbmRead s q dpa).rest = s.rest := by
  unfold State.hbmRead
  simp

@[simp] theorem State.hbmRead_calm (s : State) (q : Req) (dpa : Nat) : (State.hbmRead s q dpa).calm = s.calm :=
  State.calm_of_rest (State.hbmRead_rest ..)

@[simp] theorem State.hbmWrite_rest (s : State) (q : Req) (dpa : Nat) : (State.hbmWrite s q dpa).rest = s.rest := by
  unfold State.hbmWrite
  simp

@[simp] theorem State.hbmWrite_calm (s : State) (q : Req) (dpa : Nat) : (State.hbmWrite s q dpa).calm = s.calm :=
  State.calm_of_rest (State.hbmWrite_rest ..)

@[simp] theorem State.snoop_rest (s : State) (q : Req) (dpa : Nat) : (State.snoop s q dpa).rest = s.rest := by
  unfold State.snoop
  simp

@[simp] theorem State.snoop_calm (s : State) (q : Req) (dpa : Nat) : (State.snoop s q dpa).calm = s.calm :=
  State.calm_of_rest (State.snoop_rest ..)

@[simp] theorem State.touchWay_rest (s : State) (slice set w : Nat) : (State.touchWay s slice set w).rest = s.rest := by
  unfold State.touchWay
  simp

@[simp] theorem State.touchWay_calm (s : State) (slice set w : Nat) : (State.touchWay s slice set w).calm = s.calm :=
  State.calm_of_rest (State.touchWay_rest ..)

/-! ### Translation -/

@[simp] theorem State.fillL2Tlb_rest (s : State) (q : Fin 64) (t : TlbEntry) : (State.fillL2Tlb s q t).rest = s.rest := by
  unfold State.fillL2Tlb
  simp

@[simp] theorem State.fillL2Tlb_calm (s : State) (q : Fin 64) (t : TlbEntry) : (State.fillL2Tlb s q t).calm = s.calm :=
  State.calm_of_rest (State.fillL2Tlb_rest ..)

@[simp] theorem fillTlb_calm (s : State) (c : Fin 256) : (fillTlb s c).calm = s.calm := by
  unfold fillTlb
  split <;> simp

@[simp] theorem dropTlb_calm (s : State) (p : TlbEntry → Bool) : (dropTlb s p).calm = s.calm := by
  unfold dropTlb
  simp

@[simp] theorem State.fillSeqTlb_rest (s : State) (q : Fin 20) (t : TlbEntry) : (State.fillSeqTlb s q t).rest = s.rest := by
  unfold State.fillSeqTlb
  simp

@[simp] theorem State.fillSeqTlb_calm (s : State) (q : Fin 20) (t : TlbEntry) : (State.fillSeqTlb s q t).calm = s.calm :=
  State.calm_of_rest (State.fillSeqTlb_rest ..)

/-! ### Memory windows -/

@[simp] theorem writeVa_rest (s : State) (part : Nat) (va : Nat) (b : Byte) : (writeVa s part va b).rest = s.rest := by
  unfold writeVa
  split <;> simp

@[simp] theorem writeVa_calm (s : State) (part : Nat) (va : Nat) (b : Byte) : (writeVa s part va b).calm = s.calm :=
  State.calm_of_rest (writeVa_rest ..)

@[simp] theorem writeCode_rest (s : State) (part : Nat) (w : Window) (e c : Nat) : (writeCode s part w e c).rest = s.rest := by
  unfold writeCode
  dsimp only
  (repeat' split) <;> simp

@[simp] theorem writeCode_calm (s : State) (part : Nat) (w : Window) (e c : Nat) : (writeCode s part w e c).calm = s.calm :=
  State.calm_of_rest (writeCode_rest ..)

@[simp] theorem encodeBlock_rest (s : State) (part : Nat) (w : Window) (e : Nat) (vs : List Val) :
    (encodeBlock s part w e vs).rest = s.rest := by
  unfold encodeBlock
  split
  · split
    · rfl
    · exact (State.foldl_rest (fun s i => writeCode_rest s _ _ _ _) _ _).trans (writeVa_rest s _ _ _)
  · exact State.foldl_rest (fun s o => (State.foldl_rest (fun s i => writeCode_rest s _ _ _ _) _ _).trans (writeVa_rest s _ _ _)) _ s

@[simp] theorem encodeBlock_calm (s : State) (part : Nat) (w : Window) (e : Nat) (vs : List Val) :
    (encodeBlock s part w e vs).calm = s.calm :=
  State.calm_of_rest (encodeBlock_rest ..)

@[simp] theorem windowWrite_rest (s : State) (part : Nat) (w : Window) (off : Nat) (bs : List Byte) :
    (windowWrite s part w off bs).rest = s.rest := by
  unfold windowWrite
  extract_lets esz first last
  split
  · rfl
  · refine State.foldl_rest (fun s i => ?_) _ s
    dsimp only
    split
    · simp
    · split <;> simp

@[simp] theorem windowWrite_calm (s : State) (part : Nat) (w : Window) (off : Nat) (bs : List Byte) :
    (windowWrite s part w off bs).calm = s.calm :=
  State.calm_of_rest (windowWrite_rest ..)

/-! ### Lines -/

@[simp] theorem State.writeBack_rest (s : State) (q : Req) (e : L2Line) : (s.writeBack q e).rest = s.rest := by
  unfold State.writeBack
  split
  · rfl
  · dsimp only
    split
    · simp
    · split <;> simp

@[simp] theorem State.writeBack_calm (s : State) (q : Req) (e : L2Line) : (s.writeBack q e).calm = s.calm :=
  State.calm_of_rest (State.writeBack_rest ..)

@[simp] theorem State.flushLines_rest (s : State) (q : Req) (p : L2Line → Bool) : (State.flushLines s q p).rest = s.rest := by
  unfold State.flushLines
  simp

@[simp] theorem State.flushLines_calm (s : State) (q : Req) (p : L2Line → Bool) : (State.flushLines s q p).calm = s.calm :=
  State.calm_of_rest (State.flushLines_rest ..)

@[simp] theorem State.dropLines_rest (s : State) (p : L2Line → Bool) : (State.dropLines s p).rest = s.rest := by
  unfold State.dropLines
  simp

@[simp] theorem State.dropLines_calm (s : State) (p : L2Line → Bool) : (State.dropLines s p).calm = s.calm :=
  State.calm_of_rest (State.dropLines_rest ..)

@[simp] theorem State.allocate_rest (s : State) (q : Req) (win : Option Nat) (a : Nat) (data : List Byte) (bad : Nat) :
    (State.allocate s q win a data bad).rest = s.rest := by
  unfold State.allocate
  dsimp only
  split <;> simp

@[simp] theorem State.allocate_calm (s : State) (q : Req) (win : Option Nat) (a : Nat) (data : List Byte) (bad : Nat) :
    (State.allocate s q win a data bad).calm = s.calm :=
  State.calm_of_rest (State.allocate_rest ..)

@[simp] theorem State.channelAccess_rest (s : State) (q : Req) (dpa : Nat) (u : LineUse) :
    (State.channelAccess s q dpa u).rest = s.rest := by
  unfold State.channelAccess
  split <;> simp

@[simp] theorem State.channelAccess_calm (s : State) (q : Req) (dpa : Nat) (u : LineUse) :
    (State.channelAccess s q dpa u).calm = s.calm :=
  State.calm_of_rest (State.channelAccess_rest ..)

@[simp] theorem State.access_rest (s : State) (q : Req) (dpa : Nat) (side : Bool) (u : LineUse) :
    (State.access s q dpa side u).rest = s.rest := by
  unfold State.access
  dsimp only
  (repeat' split) <;> simp

@[simp] theorem State.access_calm (s : State) (q : Req) (dpa : Nat) (side : Bool) (u : LineUse) :
    (State.access s q dpa side u).calm = s.calm :=
  State.calm_of_rest (State.access_rest ..)

@[simp] theorem State.accessWin_rest (s : State) (q : Req) (i : Nat) (w : Window) (va : Nat) :
    (State.accessWin s q i w va).rest = s.rest := by
  unfold State.accessWin
  dsimp only
  (repeat' split) <;> simp

@[simp] theorem State.accessWin_calm (s : State) (q : Req) (i : Nat) (w : Window) (va : Nat) :
    (State.accessWin s q i w va).calm = s.calm :=
  State.calm_of_rest (State.accessWin_rest ..)

@[simp] theorem State.pokeWin_rest (s : State) (q : Req) (i : Nat) (w : Window) (va : Nat) (bs : List Byte) :
    (s.pokeWin q i w va bs).rest = s.rest := by
  unfold State.pokeWin
  split <;> simp

@[simp] theorem State.pokeWin_calm (s : State) (q : Req) (i : Nat) (w : Window) (va : Nat) (bs : List Byte) :
    (s.pokeWin q i w va bs).calm = s.calm :=
  State.calm_of_rest (State.pokeWin_rest ..)

@[simp] theorem State.tableReads_rest (s : State) (q : Req) (part va : Nat) : (State.tableReads s q part va).rest = s.rest := by
  unfold State.tableReads
  simp

@[simp] theorem State.tableReads_calm (s : State) (q : Req) (part va : Nat) : (State.tableReads s q part va).calm = s.calm :=
  State.calm_of_rest (State.tableReads_rest ..)

@[simp] theorem State.walkFor_rest (s : State) (q : Req) (part va : Nat) : (State.walkFor s q part va).rest = s.rest := by
  unfold State.walkFor
  simp

@[simp] theorem State.walkFor_calm (s : State) (q : Req) (part va : Nat) : (State.walkFor s q part va).calm = s.calm :=
  State.calm_of_rest (State.walkFor_rest ..)

@[simp] theorem noteMiss_calm (s : State) (c : Fin 256) (part va : Nat) : (noteMiss s c part va).calm = s.calm := by
  unfold noteMiss
  split <;> simp

@[simp] theorem State.noteQuad_rest (s : State) (q : Req) (c : Fin 256) (part va : Nat) :
    (State.noteQuad s q c part va).rest = s.rest := by
  unfold State.noteQuad
  split <;> simp

@[simp] theorem State.noteQuad_calm (s : State) (q : Req) (c : Fin 256) (part va : Nat) :
    (State.noteQuad s q c part va).calm = s.calm :=
  State.calm_of_rest (State.noteQuad_rest ..)

@[simp] theorem State.noteSeq_rest (s : State) (q : Req) (p : Fin 20) (part va : Nat) :
    (State.noteSeq s q p part va).rest = s.rest := by
  unfold State.noteSeq
  split <;> simp

@[simp] theorem State.noteSeq_calm (s : State) (q : Req) (p : Fin 20) (part va : Nat) :
    (State.noteSeq s q p part va).calm = s.calm :=
  State.calm_of_rest (State.noteSeq_rest ..)

/-! ### Accesses -/

@[simp] theorem State.seePerformed_calm (s : State) (d : Fin 4) : (State.seePerformed s d).calm = s.calm := by
  unfold State.seePerformed
  simp

@[simp] theorem State.broadcast_calm (s : State) (d : Fin 4) : (State.broadcast s d).calm = s.calm := by
  unfold State.broadcast
  simp

@[simp] theorem State.numberWrite_calm (s : State) (c : Fin 256) : (s.numberWrite c).2.2.calm = s.calm := rfl

@[simp] theorem State.applyEntry_rest (s : State) (e : CombEntry) : (State.applyEntry s e).rest = s.rest := by
  unfold State.applyEntry
  split <;> simp

@[simp] theorem State.applyEntry_calm (s : State) (e : CombEntry) : (State.applyEntry s e).calm = s.calm :=
  State.calm_of_rest (State.applyEntry_rest ..)

@[simp] theorem State.applyCombined_rest (s : State) (ch : Fin 256) (p : CombEntry → Bool) :
    (State.applyCombined s ch p).rest = s.rest := by
  unfold State.applyCombined
  simp

@[simp] theorem State.applyCombined_calm (s : State) (ch : Fin 256) (p : CombEntry → Bool) :
    (State.applyCombined s ch p).calm = s.calm :=
  State.calm_of_rest (State.applyCombined_rest ..)

@[simp] theorem State.applyLine_rest (s : State) (dpa : Nat) : (State.applyLine s dpa).rest = s.rest := by
  unfold State.applyLine
  simp

@[simp] theorem State.applyLine_calm (s : State) (dpa : Nat) : (State.applyLine s dpa).calm = s.calm :=
  State.calm_of_rest (State.applyLine_rest ..)

@[simp] theorem State.applyCore_calm (s : State) (c : Fin 256) : (State.applyCore s c).calm = s.calm := by
  unfold State.applyCore
  simp

@[simp] theorem State.combineBy_calm (s : State) (c : Option (Fin 256)) (key : CombKey) (op : AmoOp) (v : Nat) :
    (s.combineBy c key op v).calm = s.calm := by
  unfold State.combineBy
  extract_lets ch es merged joined full e
  have hfull : full.calm = s.calm := by
    unfold full
    clear_value es
    split
    · cases es with
      | nil => rfl
      | cons e rest => exact State.applyEntry_calm _ _
    · rfl
  split
  · split <;> rfl
  · exact hfull

@[simp] theorem State.combine_calm (s : State) (c : Fin 256) (key : CombKey) (op : AmoOp) (v : Nat) :
    (State.combine s c key op v).calm = s.calm := by
  unfold State.combine
  simp

@[simp] theorem State.dropOp_calm (s : State) (id : Nat) : (State.dropOp s id).calm = s.calm := by
  unfold State.dropOp
  simp

@[simp] theorem State.answerOp_calm (s : State) (id : Nat) (v : Word) (clk : Clk) :
    (State.answerOp s id v clk).calm = s.calm := by
  unfold State.answerOp
  simp

@[simp] theorem State.markBad_calm (s : State) (id : Nat) (c : Cause) : (State.markBad s id c).calm = s.calm := by
  unfold State.markBad
  simp

@[simp] theorem State.answerBad_calm (s : State) (id : Nat) (c : Cause) (clk : Clk) :
    (State.answerBad s id c clk).calm = s.calm := by
  unfold State.answerBad
  simp

@[simp] theorem State.homePut_calm (s : State) (o : MemOp) (bs : List Byte) : (State.homePut s o bs).calm = s.calm := by
  unfold State.homePut
  simp

@[simp] theorem State.atLine_calm (s : State) (o : MemOp) : (State.atLine s o).calm = s.calm := by
  unfold State.atLine
  simp

@[simp] theorem State.applyStored_rest (s : State) (part : Nat) (w : Window) (va : Nat) :
    (State.applyStored s part w va).rest = s.rest := by
  unfold State.applyStored
  simp

@[simp] theorem State.applyStored_calm (s : State) (part : Nat) (w : Window) (va : Nat) :
    (State.applyStored s part w va).calm = s.calm :=
  State.calm_of_rest (State.applyStored_rest ..)

@[simp] theorem State.serveRead_calm (s : State) (o : MemOp) : (State.serveRead s o).calm = s.calm := by
  unfold State.serveRead
  dsimp only
  (repeat' split) <;> simp

@[simp] theorem State.reportLate_calm (s : State) (o : MemOp) (c : Cause) : (State.reportLate s o c).calm = s.calm := by
  unfold State.reportLate
  simp

@[simp] theorem State.rouse_calm (s : State) (c : Fin 256) : (State.rouse s c).calm = s.calm := by
  unfold State.rouse
  simp

@[simp] theorem State.writeTape_calm (s : State) (o : MemOp) (len : Nat) : (s.writeTape o len).calm = s.calm := by
  unfold State.writeTape
  split <;> simp

@[simp] theorem State.modify_calm (s : State) (o : MemOp) (n : Nat) (f : Nat → Nat) : (State.modify s o n f).calm = s.calm := by
  unfold State.modify
  simp

@[simp] theorem State.performWrite_calm (s : State) (o : MemOp) : (State.performWrite s o).calm = s.calm := by
  unfold State.performWrite
  dsimp only
  (repeat' split) <;> simp

@[simp] theorem State.deliverOp_calm (s : State) (o : MemOp) : (State.deliverOp s o).calm = s.calm := by
  unfold State.deliverOp
  split <;> simp

/-! ### Regions -/

@[simp] theorem State.send_calm (s : State) (c : Fin 256) (kind : MemKind) (p : Phys) (va : Word) (o : OpOpts) :
    (s.send c kind p va o).2.calm = s.calm := by
  unfold State.send
  dsimp only
  split <;> rfl

@[simp] theorem State.clearCell_calm (s : State) (q : Req) (r : DiffRegion) (p : Phys) :
    (s.clearCell q r p).2.calm = s.calm := by
  unfold State.clearCell
  simp

@[simp] theorem State.seeCell_calm (s : State) (q : Req) (r : DiffRegion) (p : Phys) : (s.seeCell q r p).2.calm = s.calm := by
  unfold State.seeCell
  simp

@[simp] theorem State.sendRecord_calm (s : State) (c : Fin 256) (segs : List Seg) (rec : List Byte) :
    (s.sendRecord c segs rec).calm = s.calm := by
  induction segs generalizing s rec with
  | nil => rfl
  | cons g rest ih => exact by simp only [State.sendRecord, ih, State.send_calm]

/-! ### Holds -/

@[simp] theorem State.startWait_calm (s : State) (c : Fin 256) (h : Hold) : (s.startWait c h).calm = s.calm := by
  unfold State.startWait
  (repeat' split) <;> simp

@[simp] theorem State.leaveWait_calm (s : State) (c : Fin 256) : (s.leaveWait c).calm = s.calm := by
  unfold State.leaveWait
  split
  · dsimp only
    split <;> simp
  · rfl

@[simp] theorem State.holdOn_calm (s : State) (c : Fin 256) (h : Hold) : (s.holdOn c h).calm = s.calm := by
  unfold State.holdOn
  simp

@[simp] theorem State.mark_calm (s : State) (r : IssueResult) : (State.mark s r).calm = s.calm := by
  unfold State.mark
  simp

theorem finish_calm {s : State} {r : SlotRes Unit} (h : r.calm s.calm = s.calm) : KeepsCalm s (finish s r) := by
  cases r with
  | ok a t => exact keepsCalm_next h
  | trap t => exact keepsCalm_next (by simp)
  | hold h => exact keepsCalm_next (by simp)

end Sys2Proof.Machine
end

section
/-! The calm part through what instructions of the S slot are made of. -/

namespace Sys2Proof.Machine

/-! ### Operands -/

theorem readS_calm (s : State) (sp : SSpec) (pos : Nat) : (readS s sp pos).calm s.calm = s.calm := by
  unfold readS
  cases sp with
  | take n => exact readSeen_calm _ _ _ _
  | x n => exact readSeen_calm _ _ _ _
  | const n => rfl
  | ident r => rfl

theorem readSO_calm (s : State) (o : SOpnd) (pos : Nat) : (readSO s o pos).calm s.calm = s.calm := by
  cases o with
  | spec sp => exact readS_calm s sp pos
  | lit v => rfl

/-! ### Transfers of control -/

@[simp] theorem State.transfer_calm (s : State) (target : Word) : (State.transfer s target).calm = s.calm := by
  unfold State.transfer
  simp

theorem branchOn_calm (s : State) (a : SSpec) (o : Off) (p : Word → Bool) : (branchOn s a o p).calm s.calm = s.calm :=
  SlotRes.calm_bind (readS_calm s a 0) fun x s => by simp

theorem doCall_calm (s : State) (target : Word) (w : WReg) : (doCall s target w).calm s.calm = s.calm := by
  unfold doCall
  simp

/-! ### Fetch -/

@[simp] theorem State.onBundle_calm (s : State) (c : Fin 256) : (State.onBundle s c).calm = s.calm := by
  unfold State.onBundle
  simp

/-! ### Images -/

@[simp] theorem writeImage_calm (s : State) (x : Saved) (a : Nat) : (writeImage s x a).calm = s.calm := by
  unfold writeImage
  simp

theorem State.updCtx_rest (s : State) (launch : Option Nat) (c : Fin 256) {f : Core → Core}
    (hf : ∀ k, (f k).standing = k.standing) : (State.updCtx s launch c f).rest = s.rest := by
  unfold State.updCtx
  split
  · exact s.mapCore_rest c hf
  · (repeat' split) <;> simp

@[simp] theorem State.updCtx_calm (s : State) (launch : Option Nat) (c : Fin 256) (f : Core → Core) :
    (State.updCtx s launch c f).calm = s.calm := by
  unfold State.updCtx
  (repeat' split) <;> simp

/-! ### Patterns -/

@[simp] theorem State.drainMaybe_calm (s : State) (c : Fin 256) (off len : Nat) :
    (State.drainMaybe s c off len).calm = s.calm := by
  unfold State.drainMaybe
  simp

/-! ### Loads, stores and atomics -/

@[simp] theorem State.noteAccess_calm (s : State) (c : Fin 256) (t : Target) (a : Nat) :
    (State.noteAccess s c t a).calm = s.calm := by
  unfold State.noteAccess
  dsimp only
  (repeat' split) <;> simp

@[simp] theorem orHold_calm {α : Type} {d : Calm} (h : Option Hold) (r : SlotRes α) :
    (orHold h r).calm d = if h.isSome then d else r.calm d := by
  cases h <;> rfl

theorem reach_calm {α : Type} {d : Calm} {s : State} {spad : Bool} {kind : AccKind} {a : Word} {len : Nat}
    {k : Target → Word → SlotRes α} (hk : ∀ t info, (k t info).calm d = d) : (reach s spad kind a len k).calm d = d := by
  unfold reach
  (repeat' split) <;> simp [hk]

@[simp] theorem State.awaitLoad_calm (s : State) (id : Nat) (lat : Nat) (w : WReg) (a : Word) (acquire : Bool) :
    (State.awaitLoad s id lat w a acquire).calm = s.calm := by
  unfold State.awaitLoad
  simp

@[simp] theorem soundSpad_calm {α : Type} {d : Calm} (s : State) (off len : Nat) (r : SlotRes α) :
    (soundSpad s off len r).calm d = if (s.cur.failedLine off len).isSome then d else r.calm d := by
  unfold soundSpad
  split <;> simp [*]

@[simp] theorem soundSpill_calm {α : Type} {d : Calm} (s : State) (off len : Nat) (r : SlotRes α) :
    (soundSpill s off len r).calm d = if (s.pre.failedWord .spill off len).isSome then d else r.calm d := by
  unfold soundSpill
  split <;> simp [*]

@[simp] theorem soundPart_calm {α : Type} {d : Calm} (s : State) (off len : Nat) (r : SlotRes α) :
    (soundPart s off len r).calm d = if (s.cur.failedPart off len).isSome then d else r.calm d := by
  unfold soundPart
  split <;> simp [*]

theorem ldRewindSpad_calm (s : State) (r : DiffRegion) (off : Nat) (w : WReg) :
    (ldRewindSpad s r off w).calm s.calm = s.calm :=
  SlotRes.calm_bind (readS_calm s (.x w) 0) fun v s => by simp

theorem ldRewindHbm_calm (s : State) (r : DiffRegion) (a : Word) (w : WReg) (land : Nat) :
    (ldRewindHbm s r a w land).calm s.calm = s.calm := by
  unfold ldRewindHbm
  dsimp only
  split
  · rfl
  · exact SlotRes.calm_bind (readS_calm s (.x w) 0) fun v s => by simp

theorem stRewind_calm (s : State) (r : DiffRegion) (t : Target) (addr : Word) (len : Nat) (na : Bool) (w : WReg) :
    (stRewind s r t addr len na w).calm s.calm = s.calm := by
  unfold stRewind
  dsimp only
  (repeat' split) <;> simp

theorem stTaped_calm (s : State) (t : Target) (addr : Word) (bs : List Byte) (na : Bool) (w : WReg) :
    (stTaped s t addr bs na w).calm s.calm = s.calm := by
  unfold stTaped
  dsimp only
  (repeat' split) <;> simp

theorem atomic_calm (s : State) (x : Word) (d : Disp) (w : WReg) (w32 ret : Bool) (new : Nat → Nat) (kind : Atomic → MemKind) :
    (atomic s x d w w32 ret new kind).calm s.calm = s.calm := by
  unfold atomic
  dsimp only
  rw [need_calm]
  split
  · refine reach_calm fun tgt info => ?_
    (repeat' split) <;> simp
  · rfl

@[simp] theorem State.endFence_calm (s : State) (c : Fin 256) (scope : Nat) : (State.endFence s c scope).calm = s.calm := by
  unfold State.endFence
  simp

/-! ### Polders -/

@[simp] theorem State.setCopies_rest (s : State) (id : Nat) (f : List Nat → List Nat) :
    (State.setCopies s id f).rest = s.rest := by
  have hsame : (s.setCopies id f).launches.map Launch.still = s.launches.map Launch.still := by
    unfold State.setCopies
    rw [List.map_map]
    refine List.map_congr_left fun l _ => ?_
    dsimp only [Function.comp]
    split <;> rfl
  exact congrArg (fun launches => ({ s.rest with launches := launches } : Rest)) hsame

@[simp] theorem State.setCopies_calm (s : State) (id : Nat) (f : List Nat → List Nat) :
    (State.setCopies s id f).calm = s.calm :=
  State.calm_of_rest (State.setCopies_rest ..)

@[simp] theorem pumpLines_rest (s : State) (c : Fin 256) (l : Launch) (a p : Nat) : (pumpLines s c l a p).rest = s.rest := by
  unfold pumpLines
  dsimp only
  split <;> simp

@[simp] theorem pumpLines_calm (s : State) (c : Fin 256) (l : Launch) (a p : Nat) : (pumpLines s c l a p).calm = s.calm :=
  State.calm_of_rest (pumpLines_rest ..)

theorem pumpOut_rest (s : State) (c : Fin 256) (p w : Nat) : okRest id s.rest (pumpOut s c p w) = s.rest := by
  unfold pumpOut
  dsimp only
  (repeat' split) <;> simp

theorem pumpOut_calm (s : State) (c : Fin 256) (p w : Nat) : okCalm id s.calm (pumpOut s c p w) = s.calm :=
  okCalm_of_rest (pumpOut_rest ..)

theorem pumpIn_rest (s : State) (c : Fin 256) (p : Nat) (who : Option Nat) :
    okRest id s.rest (pumpIn s c p who) = s.rest := by
  unfold pumpIn
  extract_lets zero
  have hzero : zero.rest = s.rest := s.mapCore_rest c fun _ => rfl
  clear_value zero
  split
  · exact hzero
  · split
    · exact hzero
    · split
      · exact hzero
      · dsimp only
        split
        · rfl
        · split
          · rfl
          · rw [okRest_ok, id, State.setCopies_rest, State.mapCore_rest, hzero]
            exact fun _ => rfl

theorem pumpIn_calm (s : State) (c : Fin 256) (p : Nat) (who : Option Nat) :
    okCalm id s.calm (pumpIn s c p who) = s.calm :=
  okCalm_of_rest (pumpIn_rest ..)

theorem State.pumpAs_rest (s : State) (c : Fin 256) (p : Fin 32) (who : Option Nat) :
    okRest id s.rest (s.pumpAs c p who) = s.rest := by
  unfold State.pumpAs
  split
  · rfl
  · split
    · rfl
    · split
      · rfl
      next u hout =>
        have hu : u.rest = s.rest := okRest_eq (pumpOut_rest s c p.val _) hout
        split
        · rfl
        next v hin =>
          have hv : v.rest = u.rest := okRest_eq (pumpIn_rest u c p.val who) hin
          rw [okRest_ok, id, State.mapCore_rest, hv, hu]
          exact fun _ => rfl

theorem State.pumpAs_calm (s : State) (c : Fin 256) (p : Fin 32) (who : Option Nat) :
    okCalm id s.calm (s.pumpAs c p who) = s.calm :=
  okCalm_of_rest (State.pumpAs_rest ..)

theorem State.pump_calm (s : State) (c : Fin 256) (p : Fin 32) : okCalm id s.calm (s.pump c p) = s.calm :=
  s.pumpAs_calm c p _

theorem State.pumpRange_rest (s : State) (c : Fin 256) (who : Option Nat) (off len : Nat) :
    okRest id s.rest (s.pumpRange c who off len) = s.rest := by
  unfold State.pumpRange
  exact okRest_foldl (fun s p => s.pumpAs_rest c _ who) (fun _ _ => rfl) _

theorem State.pumpRange_calm (s : State) (c : Fin 256) (who : Option Nat) (off len : Nat) :
    okCalm id s.calm (s.pumpRange c who off len) = s.calm :=
  okCalm_of_rest (State.pumpRange_rest ..)

@[simp] theorem State.findLost_calm (s : State) (c : Fin 256) (p : Fin 32) (lost : List (Fin 1024)) :
    (State.findLost s c p lost).calm = s.calm := by
  unfold State.findLost
  simp

/-! ### Messages, tags and barriers -/

@[simp] theorem State.returnCredits_calm (s : State) (c : Fin 256) (es : List MqEntry) :
    (s.returnCredits c es).calm = s.calm :=
  State.foldl_calm (fun s e => by split <;> rfl) es s

@[simp] theorem State.parkOp_calm (s : State) (o : MemOp) (c : Fin 256) (cause : Cause) (ipa : Nat) :
    (State.parkOp s o c cause ipa).calm = s.calm := by
  unfold State.parkOp
  simp

@[simp] theorem State.completeCmd_rest (s : State) (id : Nat) (status : BitVec 8) :
    (State.completeCmd s id status).rest = s.rest := by
  unfold State.completeCmd
  split
  · rfl
  · dsimp only
    split
    · exact (State.wakeYield_rest _ _ _).trans (State.updCtx_rest _ _ _ fun k => k.tagComplete_keeps Core.standing (fun _ _ _ => rfl) _ _)
    · rfl

@[simp] theorem State.completeCmd_calm (s : State) (id : Nat) (status : BitVec 8) :
    (State.completeCmd s id status).calm = s.calm :=
  State.calm_of_rest (State.completeCmd_rest ..)

theorem retireTags_calm (s : State) (done shown : List (Fin 64)) (w : WReg) :
    (retireTags s done shown w).calm s.calm = s.calm := by
  unfold retireTags
  simp

@[simp] theorem State.wakeWaiters_calm (s : State) (l : Option Nat) (owner : Fin 256) (ws : List Waiter) (v : Word) (clk : Clk) :
    (s.wakeWaiters l owner ws v clk).calm = s.calm :=
  State.foldl_calm (fun s w => by simp) ws s

@[simp] theorem State.setBar_calm (s : State) (l : Option Nat) (owner : Fin 256) (off : Nat) (b : BarLine) :
    (State.setBar s l owner off b).calm = s.calm := by
  unfold State.setBar
  simp

@[simp] theorem State.logBarrier_calm (s : State) (l : Option Nat) (owner : Fin 256) (index : Nat) :
    (State.logBarrier s l owner index).calm = s.calm := by
  unfold State.logBarrier
  simp

@[simp] theorem State.addUnits_calm (s : State) (l : Option Nat) (owner : Fin 256) (index off n : Nat) (clk : Clk) :
    (State.addUnits s l owner index off n clk).calm = s.calm := by
  unfold State.addUnits
  simp

@[simp] theorem State.releaseAll_calm (s : State) (l : Option Nat) (owner : Fin 256) (index : Nat) (v : Word) :
    (State.releaseAll s l owner index v).calm = s.calm := by
  unfold State.releaseAll
  simp

@[simp] theorem State.applyBar_calm (s : State) (o : MemOp) (owner : Fin 256) (index off : Nat) (op : BarOp) :
    (State.applyBar s o owner index off op).calm = s.calm := by
  unfold State.applyBar
  split <;> simp

@[simp] theorem State.failBar_calm (s : State) (o : MemOp) (owner : Fin 256) (off : Nat) (op : BarOp) :
    (State.failBar s o owner off op).calm = s.calm := by
  unfold State.failBar
  split <;> simp

theorem barRef_calm {α : Type} {d : Calm} {s : State} {r : Word} {k : Fin 256 → Nat → SlotRes α}
    (hk : ∀ o index, (k o index).calm d = d) : (barRef s r k).calm d = d := by
  unfold barRef
  dsimp only
  (repeat' split) <;> simp [hk]

@[simp] theorem State.sendBar_calm (s : State) (o : Fin 256) (index : Nat) (op : BarOp) (write : Bool) :
    (s.sendBar o index op write).2.calm = s.calm :=
  State.send_calm _ _ _ _ _ _

/-! ### Streams -/

@[simp] theorem State.bindLater_calm (s : State) (i : Fin 8) (st : Stream) : (State.bindLater s i st).calm = s.calm := by
  unfold State.bindLater
  simp

theorem doBind_calm (s : State) (wr : Bool) (a : Word) (off : Nat) (i : Fin 8) : (doBind s wr a off i).calm s.calm = s.calm := by
  unfold doBind
  dsimp only
  (repeat' split) <;> simp

@[simp] theorem State.applyBinds_calm (s : State) : (State.applyBinds s).calm = s.calm := by
  unfold State.applyBinds
  simp

@[simp] theorem soundRanges_calm {α : Type} {d : Calm} (s : State) (rs : List (Word × Nat)) (r : SlotRes α) :
    (soundRanges s rs r).calm d = if (rs.findSome? fun (a, n) => s.cur.failedPart a.toNat n).isSome then d else r.calm d := by
  unfold soundRanges
  split <;> simp [*]

theorem popRewind_calm (s : State) (st : Stream) (i : Fin 8) (pos : Nat) : (popRewind s st i pos).calm s.calm = s.calm := by
  unfold popRewind
  dsimp only
  (repeat' split) <;> simp

theorem popStream_calm (s : State) (i : Fin 8) (pos : Nat) : (popStream s i pos).calm s.calm = s.calm := by
  unfold popStream
  dsimp only
  (repeat' split) <;> simp [popRewind_calm]

theorem pushTaped_calm (s : State) (st : Stream) (i : Fin 8) (v : SVec) : (pushTaped s st i v).calm s.calm = s.calm := by
  unfold pushTaped
  dsimp only
  (repeat' split) <;> simp

theorem pushRewind_calm (s : State) (st : Stream) (i : Fin 8) (v : SVec) : (pushRewind s st i v).calm s.calm = s.calm := by
  unfold pushRewind
  dsimp only
  (repeat' split) <;> simp

theorem pushStream_calm (s : State) (i : Fin 8) (v : SVec) : (pushStream s i v).calm s.calm = s.calm := by
  unfold pushStream
  dsimp only
  (repeat' split) <;> simp [pushTaped_calm, pushRewind_calm]

/-! ### CSRs -/

theorem writeTcfg_calm (s : State) (t : Fin 8) (v : Word) : (writeTcfg s t v).calm s.calm = s.calm := by
  unfold writeTcfg
  simp

theorem writeMqBase_calm (s : State) (v : Word) : (writeMqBase s v).calm s.calm = s.calm := by
  unfold writeMqBase
  dsimp only
  (repeat' split) <;> simp

theorem writeTrapVec_calm (s : State) (v : Word) : (writeTrapVec s v).calm s.calm = s.calm := by
  unfold writeTrapVec
  dsimp only
  (repeat' split) <;> simp

theorem writeTrapReg_calm (s : State) (f : TrapRegs → TrapRegs) : (writeTrapReg s f).calm s.calm = s.calm := by
  unfold writeTrapReg
  split <;> simp

theorem csrWrite_calm (s : State) (n : Nat) (v : Word) : (csrWrite s n v).calm s.calm = s.calm := by
  unfold csrWrite
  (repeat' split) <;> simp [writeTcfg_calm, writeMqBase_calm, writeTrapVec_calm, writeTrapReg_calm]

@[simp] theorem State.queueLaunch_calm (s : State) (l : Launch) : (State.queueLaunch s l).calm = s.calm := by
  unfold State.queueLaunch
  simp

theorem setMode_calm (s : State) (rew : Bool) : (setMode s rew).calm s.calm = s.calm := by
  unfold setMode
  (repeat' split) <;> simp

theorem adjAccess_calm (s : State) (sp clear : Bool) (a : Word) (w : WReg) : (adjAccess s sp clear a w).calm s.calm = s.calm := by
  unfold adjAccess
  dsimp only
  (repeat' split) <;> simp

end Sys2Proof.Machine
end

section
/-! The calm part through vector instructions, the matrix engine and the copy engine. -/

namespace Sys2Proof.Machine

/-! ### Vector results -/

theorem popQueue_calm (s : State) (q : Fin 2) (info : Word) : (popQueue s q info).calm s.calm = s.calm := by
  unfold popQueue
  split <;> simp

theorem readV_calm (s : State) (sp : VSpec) (pos : Nat) (t : Ty) : (readV s sp pos t).calm s.calm = s.calm := by
  unfold readV
  cases sp with
  | take n => exact readSeen_calm _ _ _ _
  | v n => exact readSeen_calm _ _ _ _
  | stream i => exact popStream_calm s i pos
  | queue q => exact popQueue_calm s q _
  | bcast n => exact SlotRes.calm_bind (readSeen_calm _ _ _ _) fun _ _ => rfl

theorem readVO_calm (s : State) (o : VOpnd) (t : Ty) : (readVO s o t).calm s.calm = s.calm := by
  cases o with
  | spec sp => exact readV_calm s sp 1 t
  | lit v => rfl

theorem vdone_calm (s : State) (r : Except Cause Vec) (lat : Nat) : (vdone s r lat).calm s.calm = s.calm := by
  cases r <;> simp [vdone]

theorem vun_calm (s : State) (a : VSpec) (t : Ty) (lat : Nat) (f : Vec → Nat → Except Cause Nat) :
    KeepsCalm s (vun s a t lat f) :=
  finish_calm (SlotRes.calm_bind (readV_calm s a 0 t) fun _ s => vdone_calm s _ lat)

theorem vbin_calm (s : State) (a : VSpec) (b : VOpnd) (t : Ty) (lat : Nat) (f : Vec → Vec → Nat → Except Cause Nat) :
    KeepsCalm s (vbin s a b t lat f) :=
  finish_calm (SlotRes.calm_bind (readV_calm s a 0 t) fun _ s => SlotRes.calm_bind (readVO_calm s b t) fun _ s =>
    vdone_calm s _ lat)

theorem vter_calm (s : State) (a : VSpec) (b : VOpnd) (c : VSpec) (t : Ty) (lat : Nat)
    (f : Vec → Vec → Vec → Nat → Except Cause Nat) : KeepsCalm s (vter s a b c t lat f) :=
  finish_calm (SlotRes.calm_bind (readV_calm s a 0 t) fun _ s => SlotRes.calm_bind (readVO_calm s b t) fun _ s =>
    SlotRes.calm_bind (readV_calm s c 2 t) fun _ s => vdone_calm s _ lat)

/-! ### The matrix engine -/

theorem enqueue_calm (s : State) (i : Instr) : (enqueue s i).calm s.calm = s.calm := by
  unfold enqueue
  simp

theorem issueOuter_calm (s : State) (i : Instr) : (issueOuter s i).calm s.calm = s.calm := by
  unfold issueOuter
  have hin : ∀ f : State → State, (∀ t, (f t).calm = t.calm) →
      ((enqueue s i).bind fun _ t => .ok () (f t)).calm s.calm = s.calm := fun f hf =>
    SlotRes.calm_bind (enqueue_calm s i) fun _ t => hf t
  split
  · rfl
  · simp [hin]

theorem issueSave_calm (s : State) (i : Instr) (save h : Bool) (p : Fin 32) : (issueSave s i save h p).calm s.calm = s.calm := by
  unfold issueSave
  dsimp only
  split <;> simp [enqueue_calm]

/-! ### Ranges of the copy engine -/

theorem needAddr_calm {α : Type} {d : Calm} {s : State} {x : Word} {pos : Nat} {k : EngAddr → SlotRes α}
    (hk : ∀ e, (k e).calm d = d) : (needAddr s x pos k).calm d = d := by
  unfold needAddr
  simp [hk]

@[simp] theorem needFootprint_calm {α : Type} {d : Calm} (s : State) (rs : List EngRange) (r : SlotRes α) :
    (needFootprint s rs r).calm d = if (footprintBad s.pre rs).isSome then d else r.calm d := by
  unfold needFootprint
  split <;> simp [*]

theorem needTag_calm {α : Type} {d : Calm} {s : State} {g : Fin 64} {r : SlotRes α} (hr : r.calm d = d) :
    (needTag s g r).calm d = d := by
  unfold needTag
  simp [hr]

theorem needBlock_calm {α : Type} {d : Calm} {s : State} {off : Word} {len : Nat} {k : List Byte → SlotRes α}
    (hk : ∀ bs, (k bs).calm d = d) : (needBlock s off len k).calm d = d := by
  unfold needBlock
  simp [hk]

@[simp] theorem State.startCmd_calm (s : State) (m : EngCmd) : (State.startCmd s m).calm = s.calm := by
  unfold State.startCmd
  split <;> simp

@[simp] theorem State.startOn_calm (s : State) (m : EngCmd) (rs : List EngRange) : (State.startOn s m rs).calm = s.calm := by
  unfold State.startOn
  simp

@[simp] theorem State.setCmd_rest (s : State) (m : EngCmd) : (State.setCmd s m).rest = s.rest := by
  unfold State.setCmd
  simp

@[simp] theorem State.setCmd_calm (s : State) (m : EngCmd) : (State.setCmd s m).calm = s.calm :=
  State.calm_of_rest (State.setCmd_rest ..)

@[simp] theorem State.engTlb_rest (s : State) (m : EngCmd) (a : Nat) : (State.engTlb s m a).rest = s.rest := by
  unfold State.engTlb
  simp

@[simp] theorem State.engTlb_calm (s : State) (m : EngCmd) (a : Nat) : (State.engTlb s m a).calm = s.calm :=
  State.calm_of_rest (State.engTlb_rest ..)

theorem State.reachSpad_rest (s : State) (m : EngCmd) (o n : Nat) : okRest id s.rest (s.reachSpad m o n) = s.rest := by
  unfold State.reachSpad
  split
  · rfl
  · split
    · rfl
    next u hu =>
      have hu : u.rest = s.rest := okRest_eq (s.pumpRange_rest m.core m.launch o n) hu
      have hdrained : (u.mapCore m.core (·.drainFor o n)).rest = u.rest :=
        u.mapCore_rest m.core fun k => (k.drainFor_engine o n).standing
      simp [hdrained, hu]

theorem State.reachSpad_calm (s : State) (m : EngCmd) (o n : Nat) : okCalm id s.calm (s.reachSpad m o n) = s.calm :=
  okCalm_of_rest (State.reachSpad_rest ..)

@[simp] theorem State.engTlbWin_rest (s : State) (m : EngCmd) (w : Window) (a : Nat) :
    (State.engTlbWin s m w a).rest = s.rest := by
  unfold State.engTlbWin
  simp

@[simp] theorem State.engTlbWin_calm (s : State) (m : EngCmd) (w : Window) (a : Nat) :
    (State.engTlbWin s m w a).calm = s.calm :=
  State.calm_of_rest (State.engTlbWin_rest ..)

theorem engRead_rest (s : State) (m : EngCmd) (e : EngAddr) (n : Nat) : okRest (·.2) s.rest (engRead s m e n) = s.rest := by
  unfold engRead
  cases e with
  | spad o =>
    dsimp only
    split
    · rfl
    next u hu =>
      have hu : u.rest = s.rest := okRest_eq (s.reachSpad_rest m o n) hu
      simp [hu]
  | mem a =>
    dsimp only
    (repeat' split) <;> simp

theorem engRead_calm (s : State) (m : EngCmd) (e : EngAddr) (n : Nat) : okCalm (·.2) s.calm (engRead s m e n) = s.calm :=
  okCalm_of_rest (engRead_rest ..)

theorem engWrite_rest (s : State) (m : EngCmd) (e : EngAddr) (bs : List Byte) : okRest id s.rest (engWrite s m e bs) = s.rest := by
  unfold engWrite
  cases e with
  | spad o =>
    dsimp only
    split
    · rfl
    · split
      · rfl
      next u hu =>
        have hu : u.rest = s.rest := okRest_eq (s.reachSpad_rest m o bs.length) hu
        have hwritten : (u.mapCore m.core fun k => k.spadWriteBy m.launch o bs).rest = u.rest :=
          u.mapCore_rest m.core fun _ => rfl
        simp [hwritten, hu]
  | mem a =>
    dsimp only
    (repeat' split) <;> simp

theorem engWrite_calm (s : State) (m : EngCmd) (e : EngAddr) (bs : List Byte) : okCalm id s.calm (engWrite s m e bs) = s.calm :=
  okCalm_of_rest (engWrite_rest ..)

theorem movePiece_rest (s : State) (m : EngCmd) (own : List EngRange) (p : Piece) :
    okRest (·.1) s.rest (movePiece s m own p) = s.rest := by
  unfold movePiece
  split
  · exact okRest_map (engWrite_rest s m p.dst _) fun _ => rfl
  next e _ =>
    split
    · rfl
    next now u hu =>
      have hu : u.rest = s.rest := okRest_eq (engRead_rest s m e p.len) hu
      extract_lets bs drawn kept
      have hkept : okRest (·.1) s.rest kept = s.rest := by
        unfold kept
        split
        · refine okRest_map (g := fun r : List Byte × State => r.2) ?_ fun _ => rfl
          have hread := engRead_rest drawn m p.dst p.len
          rwa [show drawn.rest = s.rest from hu] at hread
        · exact hu
      clear_value kept
      cases kept with
      | error x => rfl
      | ok x =>
        have hx : x.1.rest = s.rest := hkept
        exact hx ▸ okRest_map (engWrite_rest x.1 x.2 p.dst bs) fun _ => rfl

theorem movePiece_calm (s : State) (m : EngCmd) (own : List EngRange) (p : Piece) :
    okCalm (·.1) s.calm (movePiece s m own p) = s.calm :=
  okCalm_of_rest (movePiece_rest ..)

theorem movePieces_rest (own : List EngRange) (s : State) (m : EngCmd) (ps : List Piece) :
    (movePieces own s m ps).1.rest = s.rest := by
  induction ps generalizing s m with
  | nil => rfl
  | cons p ps ih =>
    unfold movePieces
    split
    next u m' hu =>
      have hu : u.rest = s.rest := okRest_eq (movePiece_rest s m own p) hu
      exact (ih u _).trans hu
    · rfl

theorem movePieces_calm (own : List EngRange) (s : State) (m : EngCmd) (ps : List Piece) :
    (movePieces own s m ps).1.calm = s.calm :=
  State.calm_of_rest (movePieces_rest ..)

@[simp] theorem State.sendCount_rest (s : State) (l : Option Nat) (part : Nat) (from_ owner : Fin 256) (index n : Nat) :
    (State.sendCount s l part from_ owner index n).rest = s.rest := by
  unfold State.sendCount
  simp

@[simp] theorem State.sendCount_calm (s : State) (l : Option Nat) (part : Nat) (from_ owner : Fin 256) (index n : Nat) :
    (State.sendCount s l part from_ owner index n).calm = s.calm :=
  State.calm_of_rest (State.sendCount_rest ..)

@[simp] theorem State.finishCmd_rest (s : State) (m : EngCmd) (st : BitVec 8) (bar : Option BarCount) :
    (State.finishCmd s m st bar).rest = s.rest := by
  unfold State.finishCmd
  (repeat' split) <;> simp

@[simp] theorem State.finishCmd_calm (s : State) (m : EngCmd) (st : BitVec 8) (bar : Option BarCount) :
    (State.finishCmd s m st bar).calm = s.calm :=
  State.calm_of_rest (State.finishCmd_rest ..)

@[simp] theorem State.parkCmd_rest (s : State) (m : EngCmd) (c : Cause) (addr : Nat) :
    (State.parkCmd s m c addr).rest = s.rest := by
  unfold State.parkCmd
  simp

@[simp] theorem State.parkCmd_calm (s : State) (m : EngCmd) (c : Cause) (addr : Nat) :
    (State.parkCmd s m c addr).calm = s.calm :=
  State.calm_of_rest (State.parkCmd_rest ..)

@[simp] theorem State.waitCmd_rest (s : State) (m : EngCmd) (ch : Fin 256) : (State.waitCmd s m ch).rest = s.rest := by
  unfold State.waitCmd
  simp

@[simp] theorem State.waitCmd_calm (s : State) (m : EngCmd) (ch : Fin 256) : (State.waitCmd s m ch).calm = s.calm :=
  State.calm_of_rest (State.waitCmd_rest ..)

@[simp] theorem State.stopCmd_rest (s : State) (m : EngCmd) (bar : Option BarCount) (x : EngStop) :
    (s.stopCmd m bar x).rest = s.rest := by
  cases x <;> simp [State.stopCmd]

@[simp] theorem State.stopCmd_calm (s : State) (m : EngCmd) (bar : Option BarCount) (x : EngStop) :
    (s.stopCmd m bar x).calm = s.calm :=
  State.calm_of_rest (State.stopCmd_rest ..)

@[simp] theorem State.lineMoved_calm (s : State) (m : EngCmd) (last : Bool) : (State.lineMoved s m last).calm = s.calm := by
  unfold State.lineMoved
  simp

@[simp] theorem State.runPieces_calm (s : State) (m : EngCmd) (own : List EngRange) (ps : List Piece) (bar : Option BarCount) :
    (s.runPieces m own ps bar).calm = s.calm := by
  unfold State.runPieces
  split
  · simp
  · dsimp only
    split <;> simp [movePieces_calm]

/-! ### Copies -/

@[simp] theorem needNoDiff_calm {α : Type} {d : Calm} (s : State) (rs : List EngRange) (c : Cause) (r : SlotRes α) :
    (needNoDiff s rs c r).calm d = if (firstDiff s.pre rs).isSome then d else r.calm d := by
  unfold needNoDiff
  split <;> simp [*]

theorem issueCopy_calm (s : State) (m : EngCmd) : (issueCopy s m).calm s.calm = s.calm := by
  have htape : ∀ rew m, (issueCopy.tape s rew m).calm s.calm = s.calm := fun rew m => by
    unfold issueCopy.tape
    dsimp only
    (repeat' split) <;> simp
  unfold issueCopy
  dsimp only
  (repeat' split) <;> simp [htape]

theorem tapeRecords_calm (s : State) (m : EngCmd) (kind : Nat) (segs : List Seg) (rs : List EngRange) :
    okCalm id s.calm (tapeRecords s m kind segs rs) = s.calm := by
  induction rs generalizing s segs with
  | nil => simp [tapeRecords]
  | cons x rest ih =>
    obtain ⟨e, n⟩ := x
    unfold tapeRecords
    split
    · rfl
    next old bad _ =>
      dsimp only
      have hrest := ih (s.pokeSegs m.req.tag (sliceSegs segs 0 (recordSize n)) (reelRecord e.info n kind old bad))
        (sliceSegs segs (recordSize n) ((segs.map (·.len)).foldl (· + ·) 0 - recordSize n))
      rwa [State.pokeSegs_calm] at hrest

theorem State.taped_calm (s : State) (m : EngCmd) (kind : Nat) (rs : List EngRange) :
    okCalm (·.1) s.calm (s.taped m kind rs) = s.calm := by
  unfold State.taped
  split
  · rfl
  · exact okCalm_map (tapeRecords_calm s m kind m.segs rs) fun _ => rfl

theorem cellPlace_calm (s : State) (m : EngCmd) (r : DiffRegion) (a : Nat) :
    okCalm (·.2) s.calm (cellPlace s m r a) = s.calm := by
  unfold cellPlace
  dsimp only
  split
  · split
    · rfl
    next u hu =>
      have hu : u.calm = s.calm := okCalm_eq (s.reachSpad_calm m _ 4) hu
      simp [hu]
  · (repeat' split) <;> simp

@[simp] theorem takeCell_calm (s : State) (m : EngCmd) (r : DiffRegion) (x : CellPlace) : (takeCell s m r x).2.calm = s.calm := by
  cases x <;> simp [takeCell]

@[simp] theorem giveCell_calm (s : State) (m : EngCmd) (r : DiffRegion) (x : CellPlace) (v : Nat) :
    (giveCell s m r x v).calm = s.calm := by
  cases x <;> simp [giveCell]

theorem placesOf_calm (s : State) (m : EngCmd) (r : DiffRegion) (l : List Nat) :
    okCalm (·.2) s.calm (placesOf s m r l) = s.calm := by
  induction l generalizing s with
  | nil => rfl
  | cons a rest ih =>
    unfold placesOf
    split
    · rfl
    next x u hu =>
      have hu : u.calm = s.calm := okCalm_eq (cellPlace_calm s m r a) hu
      exact hu ▸ okCalm_map (ih u) fun _ => rfl

theorem writeRange_calm (s : State) (m : EngCmd) (e : EngAddr) (bs : List Byte) :
    okCalm id s.calm (writeRange s m e bs) = s.calm := by
  refine okCalm_foldl (fun s p => ?_) (fun _ _ => rfl) _
  split
  next t d ht _ =>
    cases ht
    exact engWrite_calm s m p.dst d
  · rfl

theorem writeBack_calm (s : State) (m : EngCmd) (olds : List (EngAddr × List Byte)) :
    okCalm id s.calm (writeBack s m olds) = s.calm :=
  okCalm_foldl (fun s x => writeRange_calm s m x.1 x.2) (fun _ _ => rfl) _

@[simp] theorem giveAll_calm (s : State) (m : EngCmd) (r : DiffRegion) (xs : List CellPlace) (vs : List Nat) :
    (giveAll s m r xs vs).calm = s.calm := by
  unfold giveAll
  simp

@[simp] theorem takeAll_calm (s : State) (m : EngCmd) (r : DiffRegion) (xs : List CellPlace) :
    (takeAll s m r xs).2.calm = s.calm := by
  have hall : ∀ acc : List Nat × State, (xs.foldl (fun (acc : List Nat × State) x =>
      let (v, s) := takeCell acc.2 m r x
      (acc.1 ++ [v], s)) acc).2.calm = acc.2.calm := by
    induction xs with
    | nil => exact fun _ => rfl
    | cons x xs ih => exact fun acc => (ih _).trans (takeCell_calm acc.2 m r x)
  exact hall ([], s)

theorem readLines_calm (m : EngCmd) (s : State) (ps : List Piece) : okCalm (·.2) s.calm (readLines m s ps) = s.calm := by
  induction ps generalizing s with
  | nil => rfl
  | cons p ps ih =>
    unfold readLines
    split
    · rfl
    next b u hu =>
      have hu : u.calm = s.calm := okCalm_eq (engRead_calm s m p.dst p.len) hu
      exact hu ▸ okCalm_map (ih u) fun _ => rfl

theorem reversePiece_calm (s : State) (m : EngCmd) (ps : List Piece) (dr sr : Option DiffRegion) (old : List Byte) (d x : EngAddr)
    (n : Nat) : okCalm id s.calm (reversePiece s m ps dr sr old d x n) = s.calm := by
  unfold reversePiece
  split
  next q =>
    dsimp only
    split
    · rfl
    next xs u hu =>
      have hu : u.calm = s.calm := okCalm_eq (placesOf_calm s m q _) hu
      split
      · rfl
      next v hv =>
        have hv : v.calm = u.calm := (okCalm_eq (writeRange_calm _ m d old) hv).trans (takeAll_calm u m q xs)
        have hall : ∀ (l : List (EngAddr × Byte)) (r : EngRes State), okCalm id s.calm r = s.calm →
            okCalm id s.calm (l.foldl (fun r b => r.bind fun s => engWrite s m b.1 [b.2]) r) = s.calm := fun l => by
          induction l with
          | nil => exact fun r hr => hr
          | cons b l ih => exact fun r hr => ih _ (okCalm_bind hr fun t => engWrite_calm t m b.1 [b.2])
        refine hall _ _ ?_
        exact (hv.trans hu) ▸ writeRange_calm v m _ _
  next q p =>
    dsimp only
    split
    · rfl
    next xs u hu =>
      have hu : u.calm = s.calm := okCalm_eq (placesOf_calm s m q _) hu
      split
      · rfl
      next ys v hv =>
        have hv : v.calm = u.calm := okCalm_eq (placesOf_calm u m p _) hv
        have hw := writeRange_calm (takeAll v m q xs).2 m d old
        rw [takeAll_calm, hv, hu] at hw
        exact okCalm_map hw fun t => giveAll_calm t m p ys _
  next p =>
    dsimp only
    split
    · rfl
    next ys u hu =>
      have hu : u.calm = s.calm := okCalm_eq (placesOf_calm s m p _) hu
      exact hu ▸ okCalm_map (readLines_calm m u _) fun r => giveAll_calm r.2 m p ys _
  · rfl

@[simp] theorem State.reverseCopy_calm (s : State) (m : EngCmd) : (s.reverseCopy m).calm = s.calm := by
  unfold State.reverseCopy
  split
  · simp
  · dsimp only
    split
    · simp
    · split
      · simp
      · split
        · simp
        next x _ =>
          split
          next u hu =>
            have hu : u.calm = s.calm := okCalm_eq (reversePiece_calm s _ _ _ _ _ _ x _) hu
            simp [hu]
          · simp

@[simp] theorem State.runCopy_calm (s : State) (m : EngCmd) : (s.runCopy m).calm = s.calm := by
  unfold State.runCopy
  extract_lets page
  clear_value page
  split
  · simp
  · simp
  · split
    · simp
    · split
      · simp
      next u m' hu =>
        have hu : u.calm = s.calm := okCalm_eq (s.taped_calm m recCopy _) hu
        simp [hu]

@[simp] theorem State.prefetch_calm (s : State) (m : EngCmd) (a : Nat) : (State.prefetch s m a).calm = s.calm := by
  unfold State.prefetch
  (repeat' split) <;> simp

@[simp] theorem State.runFill_calm (s : State) (m : EngCmd) : (s.runFill m).calm = s.calm := State.runPieces_calm _ _ _ _ _

theorem flushLine_calm (s : State) (m : EngCmd) (a : Nat) : okCalm id s.calm (flushLine s m a) = s.calm := by
  unfold flushLine
  (repeat' split) <;> simp

@[simp] theorem State.runFlush_calm (s : State) (m : EngCmd) : (s.runFlush m).calm = s.calm := by
  unfold State.runFlush
  split
  · simp
  · split
    · simp
    next p rest _ =>
      split
      next u hu =>
        have hu : u.calm = s.calm := okCalm_eq (flushLine_calm s m p.dst.num) hu
        simp [hu]
      · simp

theorem tileChecks_calm {d : Calm} {s : State} {load : Bool} {n : Fin 8} {y z : Word} {k : BitVec 64 → SlotRes Unit}
    (hk : ∀ cfg, (k cfg).calm d = d) : (tileChecks s load n y z k).calm d = d := by
  unfold tileChecks
  refine needAddr_calm fun e => ?_
  simp [hk]

@[simp] theorem State.runCtld_calm (s : State) (m : EngCmd) (n : Fin 8) : (s.runCtld m n).calm = s.calm := by
  unfold State.runCtld
  split
  · simp
  · dsimp only
    split
    · split
      · simp
      next r _ =>
        split
        · simp
        next xs u hu =>
          have hu : u.calm = s.calm := okCalm_eq (placesOf_calm s m r _) hu
          simp [hu]
    · split
      · simp
      next bs u hu =>
        have hu : u.calm = s.calm := okCalm_eq (readLines_calm m s _) hu
        split
        · simp [hu]
        · exact ((State.lineMoved_calm _ _ _).trans (State.updCtx_calm _ _ _ _)).trans hu

@[simp] theorem raiseStop_calm {α : Type} {d : Calm} (s : State) (m : EngCmd) (data : Bool) (x : EngStop) :
    (raiseStop s m data x : SlotRes α).calm d = d := by
  unfold raiseStop
  split <;> rfl

theorem restoreAt_calm {s : State} {m : EngCmd} {r : DiffRegion} {kind : Nat} {rs : List EngRange} {elems : List Nat}
    {k : List Byte → State → SlotRes Unit} (hk : ∀ bs t, (k bs t).calm t.calm = t.calm) :
    (restoreAt s m r kind rs elems k).calm s.calm = s.calm := by
  unfold restoreAt
  dsimp only
  split
  · rfl
  · split
    · rfl
    next olds ptr _ =>
      split
      · simp
      next xs u hu =>
        have hu : u.calm = s.calm := okCalm_eq (placesOf_calm s m r elems) hu
        split
        · simp
        next v hv =>
          have hv : (v.upd fun k => k.setReelPtr ptr).calm = s.calm := by
            have hv : v.calm = (takeAll u m r xs).2.calm := okCalm_eq (writeBack_calm _ m olds) hv
            simp [hv, hu]
          exact hv ▸ hk _ _

theorem ctstRewind_calm (s : State) (m : EngCmd) (n : Fin 8) (r : DiffRegion) (rs : List EngRange) :
    (ctstRewind s m n r rs).calm s.calm = s.calm := by
  unfold ctstRewind
  exact restoreAt_calm fun _ t => (State.startCmd_calm _ _).trans (State.upd_calm _ _)

@[simp] theorem State.runCtst_calm (s : State) (m : EngCmd) (n : Fin 8) : (s.runCtst m n).calm = s.calm := by
  unfold State.runCtst
  split
  · simp
  · simp
  · dsimp only
    split
    · simp
    · split
      · simp
      next u m' hu =>
        have hu : u.calm = s.calm := okCalm_eq (s.taped_calm m recCtst _) hu
        split
        · simp [hu]
        next o _ =>
          split
          · simp [hu]
          next v hv =>
            have hv : v.calm = u.calm := okCalm_eq (u.reachSpad_calm m' o _) hv
            split
            · simp [hv, hu]
            · have hmoved := fun ps => movePieces_calm [] v m' ps
              split
              next w _ hw =>
                have hw : w.calm = v.calm := (congrArg (fun r => State.calm r.1) hw.symm :).trans (hmoved _)
                simp [hw, hv, hu]
              next w _ _ hw =>
                have hw : w.calm = v.calm := (congrArg (fun r => State.calm r.1) hw.symm :).trans (hmoved _)
                simp [hw, hv, hu]

theorem cqstRewind_calm (s : State) (m : EngCmd) (q : Fin 2) (r : DiffRegion) (rs : List EngRange) :
    (cqstRewind s m q r rs).calm s.calm = s.calm := by
  have hrest := fun rs elems => restoreAt_calm (s := s) (m := m) (r := r) (kind := recCqst) (rs := rs) (elems := elems)
    (k := fun data t => .ok () ((t.upd fun k =>
      let rows := (List.range (qcN m.c)).map fun i => vecOf ((data.drop (256 * i)).take 256) (List.replicate 8 0x7F)
      if q = 0 then { k with q0 := k.q0 ++ rows } else { k with q1 := k.q1 ++ rows }).startCmd
      { m with rewind := true, diff := true })) fun _ t => by simp
  unfold cqstRewind
  dsimp only
  rw [need_calm]
  split
  · exact hrest _ _
  · rfl

@[simp] theorem State.runCqst_calm (s : State) (m : EngCmd) : (s.runCqst m).calm = s.calm := by
  unfold State.runCqst
  split
  · simp
  · split
    · simp
    next u m' hu =>
      have hu : u.calm = s.calm := okCalm_eq (s.taped_calm m recCqst _) hu
      simp [hu]

/-! ### Messages and signals -/

theorem msatElem_calm (s : State) (m : EngCmd) (op : AmoOp) (j : Nat) : okCalm id s.calm (msatElem s m op j) = s.calm := by
  unfold msatElem
  dsimp only
  split
  · rfl
  · split
    · rfl
    · split
      · rfl
      · split
        · rfl
        · split
          · rfl
          · split
            · rfl
            next bs u hu =>
              have hu : u.calm = s.calm := okCalm_eq (engRead_calm s m _ _) hu
              split
              · rfl
              · simp [hu]

theorem msatElems_calm (m : EngCmd) (op : AmoOp) (s : State) (j n : Nat) : (msatElems m op s j n).1.calm = s.calm := by
  induction n generalizing s j with
  | zero => rfl
  | succ n ih =>
    unfold msatElems
    split
    next u hu =>
      have hu : u.calm = s.calm := okCalm_eq (msatElem_calm s m op j) hu
      exact (ih u _).trans hu
    · rfl

@[simp] theorem State.runMsat_calm (s : State) (m : EngCmd) : (s.runMsat m).calm = s.calm := by
  unfold State.runMsat
  split
  · simp
  · simp
  · dsimp only
    split <;> simp [msatElems_calm]

@[simp] theorem State.drainStreams_calm (s : State) (m : EngCmd) : (State.drainStreams s m).calm = s.calm := by
  unfold State.drainStreams
  simp

@[simp] theorem State.runHsig_calm (s : State) (m : EngCmd) : (s.runHsig m).calm = s.calm := by
  unfold State.runHsig
  extract_lets u fn send log
  have hu : u.calm = s.calm := State.drainStreams_calm s m
  have hsend : ∀ t, (send t).calm = t.calm := fun t => (State.finishCmd_calm _ _ _ _).trans (State.signal_calm _ _ _)
  have hlog : ∀ t c st a, (log t c st a).calm = t.calm := fun t c st a => State.logUnit_calm _ _ _ _ _ _ _ _ _
  clear_value send log
  split
  · rw [hsend, hu]
  · have hr := engWrite_calm u m (engAddrOf m.c) (natToBytes 8 m.b.toNat)
    generalize engWrite u m (engAddrOf m.c) (natToBytes 8 m.b.toNat) = r at hr ⊢
    have hstopped : ∀ o : Option (Cause × Option Nat), (send (match o with
        | some (c, _) => log u c 0 (engAddrOf m.c).num
        | none => u)).calm = s.calm := fun o => by
      rw [hsend]
      cases o with
      | none => exact hu
      | some x => exact (hlog _ _ _ _).trans hu
    cases r with
    | ok t => exact (hsend t).trans (Eq.trans hr hu)
    | error x =>
      cases x with
      | wait ch => exact (State.waitCmd_calm _ _ _).trans hu
      | lock => exact (State.setCmd_calm _ _).trans hu
      | park c a => exact (hsend _).trans ((State.logUnit_calm _ _ _ _ _ _ _ _ _).trans hu)
      | failed c a => exact hstopped (stopCause true (.failed c a))
      | fail st => exact hstopped (stopCause true (.fail st))
      | logged st c flags => exact hstopped (stopCause true (.logged st c flags))

end Sys2Proof.Machine
end

section
/-! The calm part through the links, the fabric interface and the sequencers. -/

namespace Sys2Proof.Machine

/-! ### Links -/

theorem State.updPort_calm {s : State} {n : Fin 20} {f : Port → Port}
    (h : (f (s.fabric.ports[n])).still = (s.fabric.ports[n]).still) : (s.updPort n f).calm = s.calm := by
  have hports : (s.fabric.ports.set n (f s.fabric.ports[n])).map Port.still = s.fabric.ports.map Port.still := by
    ext1 i hi
    by_cases hn : n.val = i
    · subst hn
      simpa using h
    · simp [hn]
  unfold State.updPort State.calm
  dsimp only
  rw [hports]

theorem State.updPort_rest {s : State} {n : Fin 20} {f : Port → Port}
    (h : (f (s.fabric.ports[n])).still = (s.fabric.ports[n]).still) : (s.updPort n f).rest = s.rest :=
  congrArg (fun calm => ({ s.rest with calm := calm } : Rest)) (State.updPort_calm h)

theorem State.emitData_rest {s t : State} {n : Fin 20} {e : OutPkt} (h : s.emitData n e = some t) : t.rest = s.rest := by
  unfold State.emitData at h
  split at h
  · cases h
  next huse =>
    cases h
    refine State.updPort_rest ?_
    have hlive : ¬ (s.fabric.ports[n]).use = .dead := huse
    unfold Port.still
    rw [if_neg hlive, if_neg hlive, if_neg (show ¬ Port.use { s.fabric.ports[n] with
      queue := (s.fabric.ports[n]).queue ++ [e] } = .dead from hlive), if_neg (show ¬ Port.use { s.fabric.ports[n] with
      queue := (s.fabric.ports[n]).queue ++ [e] } = .dead from hlive)]

theorem State.emitData_calm {s t : State} {n : Fin 20} {e : OutPkt} (h : s.emitData n e = some t) : t.calm = s.calm :=
  State.calm_of_rest (State.emitData_rest h)

@[simp] theorem State.countDrop_rest (s : State) (n : Fin 20) : (s.countDrop n).rest = s.rest := State.updPort_rest rfl

@[simp] theorem State.countDrop_calm (s : State) (n : Fin 20) : (s.countDrop n).calm = s.calm :=
  State.calm_of_rest (State.countDrop_rest ..)

@[simp] theorem State.returnFlits_rest (s : State) (src : Fin 21) (vc : Fin 6) (n : Nat) : (s.returnFlits src vc n).rest = s.rest := by
  unfold State.returnFlits
  split
  · exact State.updPort_rest rfl
  · rfl

@[simp] theorem State.returnFlits_calm (s : State) (src : Fin 21) (vc : Fin 6) (n : Nat) : (s.returnFlits src vc n).calm = s.calm :=
  State.calm_of_rest (State.returnFlits_rest ..)

@[simp] theorem State.emitControl_rest (s : State) (n : Fin 20) (e : OutCtl) : (s.emitControl n e).rest = s.rest := by
  unfold State.emitControl
  split
  · simp
  next huse =>
    refine State.updPort_rest ?_
    have hlive : ¬ (s.fabric.ports[n]).use = .dead := huse
    unfold Port.still
    rw [if_neg hlive, if_neg hlive, if_neg (show ¬ Port.use { s.fabric.ports[n] with
      ctlQueue := (s.fabric.ports[n]).ctlQueue ++ [e] } = .dead from hlive), if_neg (show ¬ Port.use { s.fabric.ports[n] with
      ctlQueue := (s.fabric.ports[n]).ctlQueue ++ [e] } = .dead from hlive)]

@[simp] theorem State.emitControl_calm (s : State) (n : Fin 20) (e : OutCtl) : (s.emitControl n e).calm = s.calm :=
  State.calm_of_rest (State.emitControl_rest ..)

@[simp] theorem State.sendControl_rest (s : State) (c : Control) : (State.sendControl s c).rest = s.rest := by
  unfold State.sendControl
  (repeat' split) <;> simp

@[simp] theorem State.sendControl_calm (s : State) (c : Control) : (State.sendControl s c).calm = s.calm :=
  State.calm_of_rest (State.sendControl_rest ..)

/-! ### Packets of commands -/

@[simp] theorem State.takePseq_rest (s : State) (dst cls sfn : Nat) : (s.takePseq dst cls sfn).2.rest = s.rest := rfl

@[simp] theorem State.takePseq_calm (s : State) (dst cls sfn : Nat) : (s.takePseq dst cls sfn).2.calm = s.calm :=
  State.calm_of_rest (State.takePseq_rest ..)

@[simp] theorem State.mapGang_calm (s : State) (part : Nat) (g : BitVec 32) (f : GangDef → GangDef) :
    (State.mapGang s part g f).calm = s.calm := by
  unfold State.mapGang
  simp

theorem State.mapGang_rest (s : State) (part : Nat) (g : BitVec 32) {f : GangDef → GangDef} (hf : ∀ d, (f d).still = d.still) :
    (State.mapGang s part g f).rest = s.rest := by
  have hsame : (s.mapGang part g f).gangs.map GangDef.still = s.gangs.map GangDef.still := by
    unfold State.mapGang
    rw [List.map_map]
    refine List.map_congr_left fun d _ => ?_
    dsimp only [Function.comp]
    split
    · exact hf d
    · rfl
  exact congrArg (fun gangs => ({ s.rest with gangs := gangs } : Rest)) hsame

@[simp] theorem State.gangSent_rest (s : State) (part : Nat) (g : BitVec 32) : (State.gangSent s part g).rest = s.rest :=
  s.mapGang_rest part g fun _ => rfl

@[simp] theorem State.gangSent_calm (s : State) (part : Nat) (g : BitVec 32) : (State.gangSent s part g).calm = s.calm :=
  State.calm_of_rest (State.gangSent_rest ..)

@[simp] theorem State.gangReceived_rest (s : State) (part : Nat) (g : BitVec 32) :
    (State.gangReceived s part g).rest = s.rest :=
  s.mapGang_rest part g fun _ => rfl

@[simp] theorem State.gangReceived_calm (s : State) (part : Nat) (g : BitVec 32) :
    (State.gangReceived s part g).calm = s.calm :=
  State.calm_of_rest (State.gangReceived_rest ..)

@[simp] theorem State.lowerCount_calm (s : State) (launch : Option Nat) (core : Fin 256) (dst n : Nat) (answered : Bool) :
    (State.lowerCount s launch core dst n answered).calm = s.calm := by
  unfold State.lowerCount
  simp

@[simp] theorem State.cmdPacketDone_calm (s : State) (id : Nat) (st : BitVec 8) (n : Nat) :
    (State.cmdPacketDone s id st n).calm = s.calm := by
  unfold State.cmdPacketDone
  split <;> simp

@[simp] theorem State.packetEnded_calm (s : State) (r : SentPkt) (st : BitVec 8) (answered : Bool) :
    (State.packetEnded s r st answered).calm = s.calm := by
  unfold State.packetEnded
  (repeat' split) <;> simp

@[simp] theorem State.packetDone_calm (s : State) (r : SentPkt) (st : BitVec 8) : (State.packetDone s r st).calm = s.calm := by
  unfold State.packetDone
  simp

@[simp] theorem State.sendOwn_rest (s : State) (w : WaitPkt) : (State.sendOwn s w).rest = s.rest := by
  unfold State.sendOwn
  simp

@[simp] theorem State.sendOwn_calm (s : State) (w : WaitPkt) : (State.sendOwn s w).calm = s.calm :=
  State.calm_of_rest (State.sendOwn_rest ..)

theorem State.transmit_rest (s : State) (w : WaitPkt) : okRest id s.rest (s.transmit w) = s.rest := by
  unfold State.transmit
  dsimp only
  split
  · simp
  · split
    · rfl
    · split
      · rfl
      · split
        · rfl
        next t ht =>
          have ht : t.rest = s.rest := (State.emitData_rest ht).trans (State.gangSent_rest _ _ _)
          simp [ht]

theorem State.transmit_calm (s : State) (w : WaitPkt) : okCalm id s.calm (s.transmit w) = s.calm :=
  okCalm_of_rest (State.transmit_rest ..)

@[simp] theorem State.sendNow_rest (s : State) (w : WaitPkt) : (s.sendNow w).1.rest = s.rest := by
  unfold State.sendNow
  split
  next t ht => exact okRest_eq (g := id) (s.transmit_rest w) ht
  · simp
  · rfl

@[simp] theorem State.sendNow_calm (s : State) (w : WaitPkt) : (s.sendNow w).1.calm = s.calm :=
  State.calm_of_rest (State.sendNow_rest ..)

@[simp] theorem State.inject_rest (s : State) (w : WaitPkt) : (s.inject w).1.rest = s.rest := by
  unfold State.inject
  split
  · rfl
  · exact s.sendNow_rest w

@[simp] theorem State.inject_calm (s : State) (w : WaitPkt) : (s.inject w).1.calm = s.calm :=
  State.calm_of_rest (State.inject_rest ..)

theorem startFabric_calm (s : State) (m : EngCmd) (rs : List EngRange) : (startFabric s m rs).calm s.calm = s.calm := by
  unfold startFabric
  simp

@[simp] theorem needRank_calm {α : Type} {d : Calm} (s : State) (r : Nat) (k : SlotRes α) :
    (needRank s r k).calm d = if r < s.pre.gsize.toNat then k.calm d else d := by
  unfold needRank
  simp

theorem packetSource_calm (s : State) (m : EngCmd) (e : EngAddr) (n : Nat) :
    okCalm (·.2) s.calm (packetSource s m e n) = s.calm := by
  induction n with
  | zero => rfl
  | succ n ih =>
    unfold packetSource
    refine okCalm_bind ih fun r => ?_
    dsimp only
    split
    · rfl
    · exact okCalm_map (engRead_calm r.2 m _ 64) fun _ => rfl

@[simp] theorem State.abandon_calm (s : State) (m : EngCmd) (st : BitVec 8) : (State.abandon s m st).calm = s.calm := by
  unfold State.abandon
  simp

@[simp] theorem State.stopFabric_calm (s : State) (m : EngCmd) (x : EngStop) : (s.stopFabric m x).calm = s.calm := by
  cases x <;> simp [State.stopFabric]

@[simp] theorem State.injectNext_calm (s : State) (m : EngCmd) : (s.injectNext m).calm = s.calm := by
  unfold State.injectNext
  dsimp only
  split
  · simp
  next lines u hu =>
    have hu : u.calm = s.calm := okCalm_eq (packetSource_calm s m _ _) hu
    split <;> simp [hu]

/-! ### Sequencers -/

@[simp] theorem State.setRt_calm (s : State) (part : Nat) (f : PartRt → PartRt) : (State.setRt s part f).calm = s.calm := by
  unfold State.setRt
  simp

theorem State.setRt_rest (s : State) (part : Nat) {f : PartRt → PartRt} (hf : ∀ r, (f r).pending = r.pending) :
    (State.setRt s part f).rest = s.rest := by
  unfold State.setRt
  split
  next hp => exact congrArg (fun rts => ({ s.rest with rts := rts } : Rest)) (map_set_of_eq s.rt PartRt.pending hp (hf _))
  · rfl

@[simp] theorem State.logSeq_rest (s : State) (c : Cause) (part idx : Nat) (addr : Nat) (g : BitVec 32) :
    (State.logSeq s c part idx addr g).rest = s.rest := by
  unfold State.logSeq
  simp

@[simp] theorem State.logSeq_calm (s : State) (c : Cause) (part idx : Nat) (addr : Nat) (g : BitVec 32) :
    (State.logSeq s c part idx addr g).calm = s.calm :=
  State.calm_of_rest (State.logSeq_rest ..)

theorem collPhys_rest (s : State) (part : Nat) (kind : AccKind) (va : Nat) : (collPhys s part kind va).rest = s.rest := by
  unfold collPhys
  dsimp only
  (repeat' split) <;> simp

theorem collAdmit_rest (s : State) (part : Nat) (chans : List (Fin 256)) : (collAdmit s part chans).rest = s.rest := by
  unfold collAdmit
  dsimp only
  split
  · rfl
  · rw [CollOut.rest_ok, State.setRt_rest]
    exact fun _ => rfl

theorem collRead_rest (s : State) (part va : Nat) : (collRead s part va).rest = s.rest :=
  CollOut.rest_bind (collPhys_rest s part .read va) fun p s => CollOut.rest_bind (collAdmit_rest s part _) fun _ s => by
    dsimp only
    split <;> simp

theorem collWrite_rest (s : State) (part va : Nat) (bs : List Byte) : (collWrite s part va bs).rest = s.rest :=
  CollOut.rest_bind (collPhys_rest s part .write va) fun p s => CollOut.rest_bind (collAdmit_rest s part _) fun _ s => by simp

theorem collWrites_rest (s : State) (part : Nat) (l : List (Nat × List Byte)) : (collWrites s part l).rest = s.rest := by
  induction l generalizing s with
  | nil => rfl
  | cons x l ih => exact CollOut.rest_bind (collWrite_rest s part x.1 x.2) fun _ s => ih s

theorem readSrc_rest (s : State) (part : Nat) (e : TileEntry) (off b : Nat) : (readSrc s part e off b).rest = s.rest :=
  CollOut.rest_bind (collRead_rest s part _) fun _ _ => rfl

theorem readSrcs_rest (s : State) (part : Nat) (e : TileEntry) (off : Nat) (l : List Nat) :
    (readSrcs s part e off l).rest = s.rest := by
  induction l generalizing s with
  | nil => rfl
  | cons b l ih =>
    exact CollOut.rest_bind (readSrc_rest s part e off b) fun _ s => CollOut.rest_bind (ih s) fun _ _ => rfl

theorem sendGroup_rest (s : State) (part : Nat) (e : TileEntry) (dst : Nat) (pick : Bool) (h : Head) (addr : Nat)
    (bs : List CollIn) : (sendGroup s part e dst pick h addr bs).rest = s.rest := by
  unfold sendGroup
  dsimp only
  split <;> simp

theorem sendBlocks_rest (s : State) (part : Nat) (e : TileEntry) (dst : Nat) (pick : Bool) (h : Head) (addr : Nat → Nat)
    (bs : List CollIn) : (sendBlocks s part e dst pick h addr bs).rest = s.rest :=
  CollOut.rest_foldl (fun _ _ s => sendGroup_rest s part e dst pick h _ _) _ _

@[simp] theorem checkBlocks_rest (s : State) (part : Nat) (e : TileEntry) (addr : Nat → Nat) (bs : List CollIn) :
    (checkBlocks s part e addr bs).1.rest = s.rest := by
  unfold checkBlocks
  suffices hall : ∀ (l : List CollIn) (r : State × TileEntry), (l.foldl (fun r b =>
      (r.1.logSeq .collCheck part e.idx (addr b.block) e.gang, { r.2 with ckerr := r.2.ckerr + 1 })) r).1.rest = r.1.rest from
    hall _ _
  intro l
  induction l with
  | nil => exact fun _ => rfl
  | cons b l ih => exact fun r => (ih _).trans (State.logSeq_rest _ _ _ _ _ _)

theorem ringStep_rest (s : State) (part t : Nat) (e : TileEntry) : (ringStep s part t e).rest = s.rest := by
  unfold ringStep
  dsimp only
  split
  · rfl
  · generalize (if t = 0 then some [] else e.inputs (t - 1) _ _) = prev
    cases prev with
    | none => rfl
    | some xs =>
      dsimp only
      split
      · refine CollOut.rest_bind (readSrcs_rest s part e 0 _) fun own s => ?_
        split
        · refine CollOut.rest_bind (collWrites_rest s part _) fun _ s => ?_
          exact CollOut.rest_bind ((sendBlocks_rest _ part _ _ _ _ _ _).trans (checkBlocks_rest _ _ _ _ _)) fun _ _ => rfl
        · exact CollOut.rest_bind (sendBlocks_rest s part e _ _ _ _ _) fun _ _ => rfl
      · exact CollOut.rest_bind (sendBlocks_rest s part e _ _ _ _ _) fun _ _ => rfl

theorem gatherStep_rest (s : State) (part t : Nat) (e : TileEntry) : (gatherStep s part t e).rest = s.rest := by
  have hsend : ∀ (s : State) (e' e'' : TileEntry) (dst : Nat) (h : Head) (addr : Nat → Nat) (bs : List CollIn),
      ((sendBlocks s part e' dst false h addr bs).bind fun _ s => .ok e'' s).rest = s.rest := fun s e' e'' dst h addr bs =>
    CollOut.rest_bind (sendBlocks_rest s part e' dst false h addr bs) fun _ _ => rfl
  unfold gatherStep
  dsimp only
  split
  · rfl
  · split
    · refine CollOut.rest_bind (readSrcs_rest s part e 0 _) fun bs s => ?_
      exact CollOut.rest_bind (collWrites_rest s part _) fun _ s => hsend s _ _ _ _ _ _
    · split
      · rfl
      · exact hsend s _ _ _ _ _ _

@[simp] theorem State.sendSeqControl_rest (s : State) (part : Nat) (c : Control) :
    (State.sendSeqControl s part c).rest = s.rest := by
  unfold State.sendSeqControl
  split <;> simp

@[simp] theorem State.sendSeqControl_calm (s : State) (part : Nat) (c : Control) :
    (State.sendSeqControl s part c).calm = s.calm :=
  State.calm_of_rest (State.sendSeqControl_rest ..)

@[simp] theorem cutsDown_rest (s : State) (e : TileEntry) (roots : List Nat) : (cutsDown s e roots).rest = s.rest :=
  State.foldl_rest (fun s j => State.foldl_rest (fun s r => State.sendSeqControl_rest _ _ _) roots s) _ s

@[simp] theorem cutsDown_calm (s : State) (e : TileEntry) (roots : List Nat) : (cutsDown s e roots).calm = s.calm :=
  State.calm_of_rest (cutsDown_rest ..)

@[simp] theorem cutUp_rest (s : State) (e : TileEntry) (root : Nat) : (cutUp s e root).rest = s.rest := by
  unfold cutUp
  simp

@[simp] theorem cutUp_calm (s : State) (e : TileEntry) (root : Nat) : (cutUp s e root).calm = s.calm :=
  State.calm_of_rest (cutUp_rest ..)

theorem sendDown_rest (s : State) (part : Nat) (e : TileEntry) (pick : Bool) (h : Head) (addr : Nat → Nat) (bs : List CollIn) :
    (sendDown s part e pick h addr bs).rest = s.rest :=
  CollOut.rest_foldl (fun _ _ s => sendBlocks_rest s part e _ pick h addr bs) _ _

theorem treeRoot_rest (s : State) (part : Nat) (e : TileEntry) (bs : List CollIn) : (treeRoot s part e bs).rest = s.rest := by
  unfold treeRoot
  refine CollOut.rest_bind (collWrites_rest s part _) fun _ s => ?_
  dsimp only
  exact CollOut.rest_bind ((sendDown_rest _ part _ false _ _ bs).trans (checkBlocks_rest _ _ _ _ _)) fun _ s =>
    cutsDown_rest s _ _

theorem treeUp_rest (s : State) (part : Nat) (e : TileEntry) : (treeUp s part e).rest = s.rest := by
  unfold treeUp
  dsimp only
  split
  · rfl
  · split
    · split
      · exact CollOut.rest_bind (readSrcs_rest s part e 0 _) fun bs s => treeRoot_rest s part e bs
      · rfl
    · split
      · rfl
      · refine CollOut.rest_bind (readSrcs_rest s part e 0 _) fun own s => ?_
        split
        · exact treeRoot_rest s part e _
        · exact CollOut.rest_bind (sendBlocks_rest s part e _ _ _ _ _) fun _ _ => rfl

theorem treeLate_rest (s : State) (part j : Nat) (e : TileEntry) : (treeLate s part j e).rest = s.rest := by
  unfold treeLate
  split
  · rfl
  · split
    · rfl
    · dsimp only
      split
      · exact CollOut.rest_bind (sendDown_rest s part e _ _ _ _) fun _ _ => rfl
      · exact CollOut.rest_bind (sendBlocks_rest s part e _ _ _ _ _) fun _ _ => rfl

theorem treeDown_rest (s : State) (part : Nat) (e : TileEntry) : (treeDown s part e).rest = s.rest := by
  unfold treeDown
  dsimp only
  split
  · rfl
  · split
    · rfl
    · exact CollOut.rest_foldl (fun _ e s => CollOut.rest_bind (sendDown_rest s part e _ _ _ _) fun _ _ => rfl) _ _

theorem pickBlock_rest (s : State) (part : Nat) (e : TileEntry) (b : CollIn) : (pickBlock s part e b).rest = s.rest :=
  CollOut.rest_bind (collRead_rest s part _) fun _ s => CollOut.rest_bind (collWrite_rest s part _ _) fun _ _ => rfl

theorem treePick_rest (s : State) (part : Nat) (e : TileEntry) : (treePick s part e).rest = s.rest := by
  refine CollOut.rest_foldl (fun p e s => ?_) _ _
  dsimp only
  split
  · rfl
  · exact CollOut.rest_bind (CollOut.rest_foldl (fun b e s => pickBlock_rest s part e b) _ _) fun _ _ => rfl

theorem a2aFinal_rest (s : State) (part d src : Nat) (e : TileEntry) (bs : List CollIn) :
    (a2aFinal s part d src e bs).rest = s.rest := by
  unfold a2aFinal
  split
  · exact CollOut.rest_bind (collWrites_rest s part _) fun _ _ => rfl
  · exact CollOut.rest_bind (sendBlocks_rest s part e _ _ _ _ _) fun _ _ => rfl

theorem a2aOwn_rest (s : State) (part d : Nat) (e : TileEntry) : (a2aOwn s part d e).rest = s.rest := by
  unfold a2aOwn
  dsimp only
  split
  · rfl
  · refine CollOut.rest_bind (readSrcs_rest s part e _ _) fun bs s => ?_
    split
    · exact a2aFinal_rest s part _ _ _ bs
    · exact CollOut.rest_bind (sendBlocks_rest s part e _ _ _ _ _) fun _ _ => rfl

theorem a2aStage2_rest (s : State) (part place : Nat) (e : TileEntry) : (a2aStage2 s part place e).rest = s.rest := by
  unfold a2aStage2
  dsimp only
  split
  · rfl
  · split
    · rfl
    · exact a2aFinal_rest s part _ _ _ _

theorem runSteps_rest {f : Nat → TileEntry → State → CollOut TileEntry} (hf : ∀ t e s, (f t e s).rest = s.rest) (l : List Nat)
    (e : TileEntry) (s : State) : (runSteps f l e s).rest = s.rest :=
  CollOut.rest_foldl hf l _

theorem collStarted_rest (s : State) (part : Nat) (e : TileEntry) : (collStarted s part e).rest = s.rest := by
  unfold collStarted
  dsimp only
  split
  · split
    · rfl
    · exact CollOut.rest_bind (readSrcs_rest s part e 0 _) fun _ s => CollOut.rest_bind (collWrites_rest s part _) fun _ _ => rfl
  · split
    · exact CollOut.rest_bind (runSteps_rest (fun d e s => a2aOwn_rest s part d e) _ _ _) fun e s =>
        runSteps_rest (fun p e s => a2aStage2_rest s part p e) _ _ _
    · split
      · exact runSteps_rest (fun t e s => gatherStep_rest s part t e) _ _ _
      · split
        · exact runSteps_rest (fun t e s => ringStep_rest s part t e) _ _ _
        · exact CollOut.rest_bind (treeUp_rest s part e) fun e s => runSteps_rest (fun j e s => treeLate_rest s part j e) _ _ _

@[simp] theorem collCount_rest (s : State) (part : Nat) (e : TileEntry) : (collCount s part e).rest = s.rest := by
  unfold collCount
  dsimp only
  (repeat' split) <;> simp

theorem collReport_rest (s : State) (part : Nat) (e : TileEntry) : (collReport s part e).rest = s.rest := by
  unfold collReport
  split
  · rfl
  · exact CollOut.rest_bind (collWrites_rest s part _) fun _ s => collCount_rest s part e

theorem foldBlock_rest (s : State) (part : Nat) (e : TileEntry) (b : Nat) : (foldBlock s part e b).rest = s.rest := by
  unfold foldBlock
  refine CollOut.rest_bind (collRead_rest s part _) fun _ s => CollOut.rest_bind (collRead_rest s part _) fun _ s => ?_
  dsimp only
  exact CollOut.rest_bind (collWrites_rest s part _) fun _ s => checkBlocks_rest s part e _ _

theorem collFold_rest (s : State) (part : Nat) (e : TileEntry) : (collFold s part e).rest = s.rest := by
  unfold collFold
  split
  · rfl
  · exact CollOut.rest_bind (CollOut.rest_foldl (fun b e s => foldBlock_rest s part e b) _ _) fun _ _ => rfl

theorem collFolds_rest (s : State) (part n : Nat) (e : TileEntry) : (collFolds s part n e).rest = s.rest := by
  induction n with
  | zero => rfl
  | succ n ih =>
    refine CollOut.rest_bind ih fun e s => ?_
    split
    · rfl
    · exact CollOut.rest_bind (collFold_rest s part _) fun e s => collReport_rest s part e

theorem collBody_rest (s : State) (part : Nat) (e : TileEntry) : (collBody s part e).rest = s.rest := by
  have hzero : ∀ e' l, (if e.zeroed then CollOut.ok e s else (collWrites s part l).bind fun _ s => .ok e' s).rest = s.rest :=
    fun e' l => by
      split
      · rfl
      · exact CollOut.rest_bind (collWrites_rest s part l) fun _ _ => rfl
  refine CollOut.rest_bind (hzero _ _) fun e s => ?_
  extract_lets isOpen e' run
  have hrun : run.rest = s.rest := by
    unfold run
    split
    · rfl
    · refine CollOut.rest_bind ?_ fun e s => CollOut.rest_bind ?_ fun e s => CollOut.rest_bind ?_ fun e s => rfl
      · split
        · exact treeDown_rest s part _
        · rfl
      · split
        · exact collStarted_rest s part e
        · rfl
      · split
        · exact treePick_rest s part e
        · rfl
  refine CollOut.rest_bind hrun fun e s => CollOut.rest_bind (collReport_rest s part e) fun e s => ?_
  split
  · rfl
  · exact collFolds_rest s part _ e

@[simp] theorem State.setEntry_rest (s : State) (part : Nat) (e : TileEntry) : (State.setEntry s part e).rest = s.rest :=
  s.setRt_rest part fun _ => rfl

@[simp] theorem State.setEntry_calm (s : State) (part : Nat) (e : TileEntry) : (State.setEntry s part e).calm = s.calm :=
  State.calm_of_rest (State.setEntry_rest ..)

@[simp] theorem State.parkEntry_rest (s : State) (part : Nat) (e : TileEntry) (c : Cause) (a : Nat) :
    (State.parkEntry s part e c a).rest = s.rest := by
  unfold State.parkEntry
  simp

@[simp] theorem State.parkEntry_calm (s : State) (part : Nat) (e : TileEntry) (c : Cause) (a : Nat) :
    (State.parkEntry s part e c a).calm = s.calm :=
  State.calm_of_rest (State.parkEntry_rest ..)

@[simp] theorem State.waitEntry_rest (s : State) (part : Nat) (e : TileEntry) (ch : Fin 256) :
    (State.waitEntry s part e ch).rest = s.rest := by
  unfold State.waitEntry
  simp

@[simp] theorem State.waitEntry_calm (s : State) (part : Nat) (e : TileEntry) (ch : Fin 256) :
    (State.waitEntry s part e ch).calm = s.calm :=
  State.calm_of_rest (State.waitEntry_rest ..)

@[simp] theorem State.takeEntry_rest (s : State) (part : Nat) (e : TileEntry) : (State.takeEntry s part e).rest = s.rest :=
  s.setRt_rest part fun _ => rfl

@[simp] theorem State.takeEntry_calm (s : State) (part : Nat) (e : TileEntry) : (State.takeEntry s part e).calm = s.calm :=
  State.calm_of_rest (State.takeEntry_rest ..)

@[simp] theorem State.reportEntry_rest (s : State) (part : Nat) (e : TileEntry) : (s.reportEntry part e).rest = s.rest := by
  have hreport := collReport_rest (s.takeEntry part e) part e
  rw [State.takeEntry_rest] at hreport
  unfold State.reportEntry
  split
  next h => simpa [h] using hreport
  · simp
  · simp
  next h => simpa [h] using hreport

@[simp] theorem State.reportEntry_calm (s : State) (part : Nat) (e : TileEntry) : (s.reportEntry part e).calm = s.calm :=
  State.calm_of_rest (State.reportEntry_rest ..)

@[simp] theorem State.collRun_rest (s : State) (part idx : Nat) : (s.collRun part idx).rest = s.rest := by
  unfold State.collRun
  split
  · rfl
  next e _ =>
    have hbody := collBody_rest (s.takeEntry part e) part { e with waitAt := none }
    rw [State.takeEntry_rest] at hbody
    dsimp only
    split
    next h => simpa [h] using hbody
    · simp
    · simp
    next h => simpa [h] using hbody
    next h => simpa [h] using hbody

@[simp] theorem State.collRun_calm (s : State) (part idx : Nat) : (s.collRun part idx).calm = s.calm :=
  State.calm_of_rest (State.collRun_rest ..)

@[simp] theorem State.collFail_rest (s : State) (part idx reason drop : Nat) :
    (State.collFail s part idx reason drop).rest = s.rest := by
  unfold State.collFail
  split <;> simp

@[simp] theorem State.collFail_calm (s : State) (part idx reason drop : Nat) :
    (State.collFail s part idx reason drop).calm = s.calm :=
  State.calm_of_rest (State.collFail_rest ..)

@[simp] theorem State.collLost_calm (s : State) (part : Nat) (en : Nat × Nat) (reason drop : Nat) :
    (State.collLost s part en reason drop).calm = s.calm := by
  unfold State.collLost
  split <;> simp

@[simp] theorem State.dropParkedEntries_rest (s : State) (part launch : Nat) :
    (State.dropParkedEntries s part launch).rest = s.rest := by
  unfold State.dropParkedEntries
  simp

@[simp] theorem State.dropParkedEntries_calm (s : State) (part launch : Nat) :
    (State.dropParkedEntries s part launch).calm = s.calm :=
  State.calm_of_rest (State.dropParkedEntries_rest ..)

@[simp] theorem useReduce_rest (s : State) (part : Nat) (e : TileEntry) (p : Packet) : (useReduce s part e p).1.rest = s.rest := by
  unfold useReduce
  dsimp only
  split <;> simp

@[simp] theorem useReduce_calm (s : State) (part : Nat) (e : TileEntry) (p : Packet) : (useReduce s part e p).1.calm = s.calm :=
  State.calm_of_rest (useReduce_rest ..)

theorem usePickup_rest (s : State) (part : Nat) (e : TileEntry) (p : Packet) : (usePickup s part e p).rest = s.rest := by
  unfold usePickup
  dsimp only
  split
  · exact CollOut.rest_bind (sendBlocks_rest s part e _ _ _ _ _) fun _ _ => rfl
  · exact CollOut.rest_bind (sendDown_rest s part e _ _ _ _) fun _ _ => rfl

@[simp] theorem State.atSequencer_calm (s : State) (part : Nat) (port : Fin 21) :
    (State.atSequencer s part port).calm = s.calm := by
  unfold State.atSequencer
  simp

theorem State.collArrive_calm (s : State) (part : Nat) (p : Packet) (port : Fin 21) {write : State → State}
    (hw : ∀ s, (write s).calm = s.calm) : (s.collArrive part p port write).calm = s.calm := by
  unfold State.collArrive
  extract_lets u head idx seq dchk isPick w last bad
  have hu : u.calm = s.calm := State.atSequencer_calm s part port
  have hwrite : ∀ t, (w t).calm = t.calm := fun t => by
    unfold w
    split
    · rfl
    · exact hw t
  have hbad : ∀ t, (bad t).calm = t.calm := fun t => (State.collFail_calm _ _ _ _ _).trans (State.logSeq_calm _ _ _ _ _ _)
  clear_value w bad
  split
  next e _ =>
    split
    · split
      · have hpick : (usePickup u part e p).rest.calm = s.calm := (congrArg Rest.calm (usePickup_rest u part e p)).trans hu
        have hcalm (t : State) : t.rest.calm = t.calm := rfl
        split
        next h => simpa [h, hcalm] using hpick
        next h => simpa [h, hcalm] using hpick
        next h => simpa [h, hcalm] using hpick
      · simp [useReduce_calm, hwrite, hu]
    · split
      · simp [hwrite, hu]
      · split
        · simp [hu]
        · rw [hbad, hu]
  · split
    · simp [hwrite, hu]
    · rw [hbad, hu]

@[simp] theorem needTable_calm {α : Type} {d : Calm} {s : State} {a : Word} {k : SlotRes α} (hk : k.calm d = d) :
    (needTable s a k).calm d = d := by
  unfold needTable
  simp [hk]

@[simp] theorem State.cutSlots_calm (s : State) (part : Nat) (e : TileEntry) : (State.cutSlots s part e).calm = s.calm := by
  unfold State.cutSlots
  simp

@[simp] theorem State.abortEntries_rest (s : State) (part : Nat) : (State.abortEntries s part).rest = s.rest := by
  unfold State.abortEntries
  simp

@[simp] theorem State.abortEntries_calm (s : State) (part : Nat) : (State.abortEntries s part).calm = s.calm :=
  State.calm_of_rest (State.abortEntries_rest ..)

@[simp] theorem State.seqFault_calm (s : State) (part port : Nat) (c : Option Cause) :
    (State.seqFault s part port c).calm = s.calm := by
  unfold State.seqFault
  split <;> simp

@[simp] theorem State.saveSequencer_calm (s : State) (part port : Nat) : (s.saveSequencer part port).calm = s.calm := by
  unfold State.saveSequencer
  extract_lets r
  have hr : okCalm id s.calm r = s.calm := by
    refine okCalm_foldl (fun s p => ?_) (fun _ _ => rfl) _
    dsimp only
    split <;> simp
  clear_value r
  cases r with
  | ok t => exact hr
  | error c => exact State.seqFault_calm _ _ _ _

@[simp] theorem State.clearSequencers_rest (s : State) (part : Nat) : (State.clearSequencers s part).rest = s.rest := by
  unfold State.clearSequencers
  dsimp only
  rw [State.setRt_rest]
  · simp
  · exact fun _ => rfl

@[simp] theorem State.clearSequencers_calm (s : State) (part : Nat) : (State.clearSequencers s part).calm = s.calm :=
  State.calm_of_rest (State.clearSequencers_rest ..)

@[simp] theorem State.restoreSequencers_calm (s : State) (part : Nat) : (State.restoreSequencers s part).calm = s.calm := by
  unfold State.restoreSequencers
  dsimp only
  split <;> simp

/-! ### Packets that arrive -/

@[simp] theorem State.packetDropped_calm (s : State) (r : SentPkt) (reason : Nat) :
    (State.packetDropped s r reason).calm = s.calm := by
  unfold State.packetDropped
  split <;> simp

@[simp] theorem State.takeSent_calm (s : State) (p : SentPkt → Bool) : (s.takeSent p).2.calm = s.calm := by
  unfold State.takeSent
  split <;> rfl

@[simp] theorem State.dropPacket_calm (s : State) (p : Packet) (reason : Nat) : (s.dropPacket p reason).calm = s.calm := by
  unfold State.dropPacket
  split
  · split
    next r t ht =>
      have ht : t.calm = s.calm := (congrArg (fun r => State.calm r.2) ht.symm :).trans (s.takeSent_calm _)
      simp [ht]
    next t ht => exact (congrArg (fun r => State.calm r.2) ht.symm :).trans (s.takeSent_calm _)
  · simp

@[simp] theorem State.sendAck_calm (s : State) (a : AckRun) : (State.sendAck s a).calm = s.calm := by
  unfold State.sendAck
  simp

@[simp] theorem State.setAcks_calm (s : State) (f : List AckRun → List AckRun) : (State.setAcks s f).calm = s.calm := by
  unfold State.setAcks
  simp

@[simp] theorem State.ackPacket_calm (s : State) (p : Packet) : (State.ackPacket s p).calm = s.calm := by
  unfold State.ackPacket
  dsimp only
  split <;> simp

@[simp] theorem State.launchRefused_calm (s : State) (id reason : Nat) : (State.launchRefused s id reason).calm = s.calm := by
  unfold State.launchRefused
  split <;> simp

@[simp] theorem State.writeOwn_calm (s : State) (part a : Nat) (bs : List Byte) (u : LineUse) :
    (State.writeOwn s part a bs u).calm = s.calm := by
  unfold State.writeOwn
  simp

theorem spill_calm (s : State) (part : Nat) (d : GangDef) (p : Packet) : okCalm id s.calm (spill s part d p) = s.calm := by
  unfold spill
  split
  · rfl
  next ctl _ =>
    split
    · rfl
    · dsimp only
      split
      · rfl
      · generalize hr : List.foldl _ _ (List.range 5) = r
        have hr : okCalm id s.calm r = s.calm := by
          subst hr
          refine okCalm_foldl (fun s i => ?_) (fun _ _ => rfl) _
          dsimp only
          split <;> simp
        cases r with
        | error c => rfl
        | ok t => exact (State.writeOwn_calm _ _ _ _ _).trans hr

@[simp] theorem State.logSpill_calm (s : State) (part : Nat) (g : BitVec 32) (why : Option Cause) :
    (State.logSpill s part g why).calm = s.calm := by
  unfold State.logSpill
  split <;> simp

@[simp] theorem State.writeLine_calm (s : State) (part : Nat) (p : Phys) (be : BitVec 64) (bs : List Byte) :
    (State.writeLine s part p be bs).calm = s.calm := by
  unfold State.writeLine
  dsimp only
  split <;> simp

@[simp] theorem State.writeLines_calm (s : State) (part : Nat) (ps : List Phys) (be : List (BitVec 64)) (ls : List (List Byte)) :
    (State.writeLines s part ps be ls).calm = s.calm := by
  unfold State.writeLines
  simp

@[simp] theorem State.applyAtomic_calm (s : State) (part : Nat) (ph : Phys) (p : Packet) :
    (s.applyAtomic part ph p).2.calm = s.calm := by
  unfold State.applyAtomic
  split
  · rfl
  · dsimp only
    split
    · simp
    · split <;> simp

@[simp] theorem State.applyReq_calm (s : State) (part : Nat) (p : Packet) : (s.applyReq part p).2.calm = s.calm := by
  unfold State.applyReq
  extract_lets base xl
  have hxl : ∀ c a, (xl c a).2.calm = s.calm := fun c a => State.logUnit_calm _ _ _ _ _ _ _ _ _
  clear_value xl
  split
  · rfl
  · split
    · exact hxl _ _
    · rfl
    · dsimp only
      split
      · rfl
      · rfl
      · simp
      · split
        · simp
        · split
          · exact hxl _ _
          · split
            · rfl
            · split
              · simp
              · split <;> simp

@[simp] theorem State.applyLaunch_calm (s : State) (part : Nat) (p : Packet) : (s.applyLaunch part p).2.calm = s.calm := by
  unfold State.applyLaunch
  dsimp only
  split
  · rfl
  next e _ =>
    generalize (match recordReason s part e.maxPrio (p.flits.headD []) with
      | some 0x01 => some 0x01
      | some 0x02 => some 0x02
      | some 0x03 => some 0x03
      | x => if 16 ≤ ((waitingIn s part isInbox).filter fun l : Launch => !l.entered).length then some 0x04 else x) = why
    split <;> simp

@[simp] theorem State.packetWalks_calm (s : State) (part va n : Nat) : (State.packetWalks s part va n).calm = s.calm := by
  unfold State.packetWalks
  simp

@[simp] theorem State.applyPacket_calm (s : State) (part : Nat) (port : Fin 21) (p : Packet) (ps : List Phys) :
    (s.applyPacket part port p ps).2.calm = s.calm := by
  unfold State.applyPacket
  split
  · simp
  · simp
  · simp
  · simp
  · rfl
  · split
    · simp
    · exact s.collArrive_calm part p port (write := fun s => s.writeLines part _ (p.be.drop 1) (p.flits.drop 1))
        fun t => State.writeLines_calm t part _ _ _

@[simp] theorem State.fateOf_calm (s : State) (port : Fin 21) (p : Packet) : (s.fateOf port p).2.calm = s.calm := by
  unfold State.fateOf
  dsimp only
  split
  · rfl
  · split
    · simp
    · split
      · rfl
      · split
        · split
          · rfl
          · split
            · split
              · rfl
              next d _ =>
                split
                · rfl
                · split
                  next t ht => exact okCalm_eq (g := id) (spill_calm s _ d p) ht
                  · simp
            · split
              · simp
              · split
                · rfl
                · split <;> simp
        · rfl

@[simp] theorem State.settle_calm (s : State) (p : Packet) (f : Fate) : (State.settle s p f).calm = s.calm := by
  unfold State.settle
  split <;> simp

@[simp] theorem State.settleOwn_calm (s : State) (w : WaitPkt) (f : Fate) : (State.settleOwn s w f).calm = s.calm := by
  unfold State.settleOwn
  (repeat' split) <;> simp

@[simp] theorem State.deferPacket_calm (s : State) (port : Fin 21) (p : Packet) (ch : Fin 256) :
    (State.deferPacket s port p ch).calm = s.calm := by
  unfold State.deferPacket
  simp

@[simp] theorem State.settleAgain_calm (s : State) (p : Packet) (f : Fate) : (State.settleAgain s p f).calm = s.calm := by
  unfold State.settleAgain
  split <;> simp

@[simp] theorem State.applyAgain_calm (s : State) (p : Packet) : (s.applyAgain p).calm = s.calm := by
  have hfate := s.fateOf_calm 20 p
  unfold State.applyAgain
  split
  · simp
  next h => simpa [h] using hfate

@[simp] theorem State.acceptPacket_calm (s : State) (port : Fin 21) (p : Packet) : (s.acceptPacket port p).calm = s.calm := by
  have hfate := s.fateOf_calm port p
  unfold State.acceptPacket
  split
  · rfl
  · split
    · simp
    · split
      · simp
      · split
        · split
          · rfl
          · split
            · rfl
            · split
              · simp
              next h => simpa [h] using hfate
        · split
          · simp
          next h => simpa [h] using hfate

@[simp] theorem State.arriveAs_calm (s : State) (type : BitVec 8) : (State.arriveAs s type).calm = s.calm := by
  unfold State.arriveAs
  simp

@[simp] theorem State.injectFailed_calm (s : State) (w : WaitPkt) (f : SendFail) : (State.injectFailed s w f).calm = s.calm := by
  unfold State.injectFailed
  (repeat' split) <;> simp

@[simp] theorem State.leaveBuffer_calm (s : State) (src : Fin 21) (vc : Nat) (p : Packet) :
    (State.leaveBuffer s src vc p).calm = s.calm := by
  unfold State.leaveBuffer
  simp

@[simp] theorem State.forwardData_calm (s : State) (vc : Nat) (p : Packet) : (s.forwardData vc p).calm = s.calm := by
  unfold State.forwardData
  dsimp only
  split
  · simp
  · split
    · simp
    · split
      · simp
      · split
        · simp
        · split
          · simp
          · split
            · simp
            next t ht => exact State.emitData_calm ht

@[simp] theorem State.loseControl_calm (s : State) (c : Control) : (State.loseControl s c).calm = s.calm := by
  unfold State.loseControl
  simp

@[simp] theorem State.forwardControl_calm (s : State) (c : Control) : (State.forwardControl s c).calm = s.calm := by
  unfold State.forwardControl
  (repeat' split) <;> simp

@[simp] theorem State.arriveAt_calm (s : State) (due : Nat) (e : Event) : (State.arriveAt s due e).calm = s.calm := by
  unfold State.arriveAt
  simp

@[simp] theorem State.nextWork_calm (s : State) (e : Event) : (State.nextWork s e).calm = s.calm := by
  unfold State.nextWork
  simp

@[simp] theorem State.packetCame_calm (s : State) (port : Fin 20) (fs : List Flit) :
    (State.packetCame s port fs).calm = s.calm := by
  unfold State.packetCame
  split <;> simp

@[simp] theorem State.controlCame_calm (s : State) (port : Fin 20) (c d : Control) (last : Bool) :
    (State.controlCame s port c d last).calm = s.calm := by
  unfold State.controlCame
  (repeat' split) <;> simp

@[simp] theorem State.controlsCame_calm (s : State) (port : Fin 20) (cs : List Control) :
    (s.controlsCame port cs).calm = s.calm := by
  fun_induction State.controlsCame s port cs with
  | case1 s => rfl
  | case2 s c => simp
  | case3 s c d rest h ih => simpa using ih
  | case4 s c d rest h ih => simpa using ih

@[simp] theorem State.writeRoute_calm (s : State) (dest : Nat) (v : BitVec 32) : (State.writeRoute s dest v).calm = s.calm := by
  unfold State.writeRoute
  simp

end Sys2Proof.Machine
end

section
/-! Near-bank runs; and what the host's registers, the scheduler and the partition commands leave alone. -/

namespace Sys2Proof.Machine

/-! ### Near-bank runs -/

@[simp] theorem State.addNbCount_calm (s : State) (part : Nat) (ch : Fin 256) (kind n : Nat) :
    (State.addNbCount s part ch kind n).calm = s.calm := by
  unfold State.addNbCount
  simp

@[simp] theorem State.closeRow_calm (s : State) (ch : Fin 256) (bank : Nat) : (State.closeRow s ch bank).calm = s.calm := by
  unfold State.closeRow
  simp

theorem unitStep_calm (ch : Fin 256) (k : Nat) (acc : State × NbRun) (bank : Nat) :
    (unitStep ch k acc bank).1.calm = acc.1.calm := by
  unfold unitStep
  dsimp only
  split
  · rfl
  · simp

@[simp] theorem State.tlbPlanes_calm (s : State) (m : EngCmd) (im d : List Byte) (known : List (Option Nat)) :
    (State.tlbPlanes s m im d known).calm = s.calm := by
  unfold State.tlbPlanes
  simp

@[simp] theorem State.runRecord_rest (s : State) (m : EngCmd) (st : BitVec 8) : (s.runRecord m st).rest = s.rest := by
  unfold State.runRecord
  dsimp only
  split
  · simp
  · split
    · simp
    · have hmoved := movePieces_rest [] s m ((cutRun (m.bytes.length + 1) (.mem (rdStatus m.block)) (.data m.bytes)
        m.bytes.length).drop m.moved)
      split
      next h => simpa [h] using hmoved
      next h =>
        split
        · simpa [h] using hmoved
        · simpa [h] using hmoved

@[simp] theorem State.runRecord_calm (s : State) (m : EngCmd) (st : BitVec 8) : (s.runRecord m st).calm = s.calm :=
  State.calm_of_rest (State.runRecord_rest ..)

@[simp] theorem State.endNbx_rest (s : State) (m : EngCmd) (im record : List Byte) (reason : Nat) :
    (State.endNbx s m im record reason).rest = s.rest := by
  unfold State.endNbx
  simp

@[simp] theorem State.endNbx_calm (s : State) (m : EngCmd) (im record : List Byte) (reason : Nat) :
    (State.endNbx s m im record reason).calm = s.calm :=
  State.calm_of_rest (State.endNbx_rest ..)

@[simp] theorem State.runNbx_calm (s : State) (m : EngCmd) : (State.runNbx s m).calm = s.calm := by
  unfold State.runNbx
  dsimp only
  (repeat' split) <;> simp

@[simp] theorem State.setHead_calm (s : State) (ch : Fin 256) (r : NbRun) : (State.setHead s ch r).calm = s.calm := by
  unfold State.setHead
  simp

@[simp] theorem State.completeRun_rest (s : State) (r : NbRun) (reason : Nat) : (State.completeRun s r reason).rest = s.rest := by
  unfold State.completeRun
  split <;> simp

@[simp] theorem State.completeRun_calm (s : State) (r : NbRun) (reason : Nat) : (State.completeRun s r reason).calm = s.calm :=
  State.calm_of_rest (State.completeRun_rest ..)

@[simp] theorem State.sweepPlanes_calm (s : State) (ch : Fin 256) (r : NbRun) : (State.sweepPlanes s ch r).calm = s.calm := by
  unfold State.sweepPlanes
  simp

@[simp] theorem State.guardSweep_calm (s : State) (r : NbRun) : (s.guardSweep r).1.calm = s.calm := State.flushLines_calm _ _ _

@[simp] theorem State.enterRun_calm (s : State) (ch : Fin 256) (r : NbRun) (at_ : Nat) :
    (State.enterRun s ch r at_).calm = s.calm := by
  unfold State.enterRun
  simp

@[simp] theorem State.channelStep_calm (s : State) (ch : Fin 256) (r : NbRun) : (s.channelStep ch r).1.calm = s.calm := by
  have hunits : ∀ (l : List Nat) (acc : State × NbRun), (l.foldl (unitStep ch r.mpc) acc).1.calm = acc.1.calm := fun l => by
    induction l with
    | nil => exact fun _ => rfl
    | cons b l ih => exact fun acc => (ih _).trans (unitStep_calm ch r.mpc acc b)
  unfold State.channelStep
  generalize List.range 32 = l
  exact (hunits l _).trans (State.sweepPlanes_calm s ch r)

@[simp] theorem State.countRun_calm (s : State) (r : NbRun) (ev : Fin 16) (n : Nat) :
    (State.countRun s r ev n).calm = s.calm := by
  unfold State.countRun
  split <;> simp

@[simp] theorem State.endRuns_calm (s : State) (p : NbRun → Bool) (reason : Nat) : (State.endRuns s p reason).calm = s.calm := by
  unfold State.endRuns
  simp

@[simp] theorem State.loadSlot_calm (s : State) (part slot : Nat) (chans : List Nat) (im : List Byte) :
    (State.loadSlot s part slot chans im).calm = s.calm := by
  unfold State.loadSlot
  simp

@[simp] theorem State.runNbld_calm (s : State) (m : EngCmd) : (s.runNbld m).calm = s.calm := by
  unfold State.runNbld
  dsimp only
  split
  · simp
  · split
    · simp
    next lo u hu =>
      have hu : u.calm = s.calm := okCalm_eq (engRead_calm s m _ 64) hu
      split
      · simp [hu]
      next hi v hv =>
        have hv : v.calm = u.calm := okCalm_eq (engRead_calm u m _ 64) hv
        split <;> simp [hv, hu]

/-! ### Completions -/

@[simp] theorem State.runCmd_calm (s : State) (m : EngCmd) : (State.runCmd s m).calm = s.calm := by
  unfold State.runCmd
  split <;> simp

@[simp] theorem State.failSource_calm (s : State) (m : EngCmd) (n code : Nat) : (State.failSource s m n code).calm = s.calm := by
  unfold State.failSource
  (repeat' split) <;> simp

@[simp] theorem State.unpark_calm (s : State) (part : Nat) : (State.unpark s part).calm = s.calm := by
  unfold State.unpark
  simp

@[simp] theorem State.dropParked_calm (s : State) (launch : Nat) : (State.dropParked s launch).calm = s.calm := by
  unfold State.dropParked
  dsimp only
  split <;> simp

/-! ### What the scheduler leaves alone

The scheduler, the partition commands and the host's registers change more than an instruction does, but neither power nor,
up to the functions of the call sheet itself, the sheet and its votes. -/

/-- What the functions below those of the call sheet leave alone: power, the sheet but for its account of held time, and the
votes. -/
structure Kept where
  power : Power
  sheet : Sheet
  votes : List Vote

def Calm.kept (c : Calm) : Kept := ⟨c.power, { c.sheet with heldAt := 0, carry := [] }, c.votes⟩

/-- What the call sheet's own steps leave alone, but for those that begin a slot or swap: power, and the slot with its
beginning. -/
structure Pace where
  power : Power
  slot : Nat
  began : Nat

def Kept.pace (k : Kept) : Pace := ⟨k.power, k.sheet.slot, k.sheet.began⟩

@[simp] theorem State.kept_mk (s : State)
    (x_agenda x_inp x_turn x_issue x_free x_nextId x_cycle x_cores x_mem x_hostMem x_badLines x_ecc x_l2 x_plru
    x_hostLines x_arrivals x_memq x_comb x_dieNum x_perf x_credRet x_cmds x_l2tlb x_seqTlb x_seqSram x_parts x_rt
    x_degQuads x_degSlices x_degWays x_degChans x_degPorts x_boot x_fabric x_fns x_slateBase x_cmdRuns x_hdm x_genesis
    x_nb x_qos x_openRows x_launches x_gangs x_saved x_flog x_flogLost x_fnErr x_fnErrVec x_msixMask x_msixPend x_out
    x_hvecBoot) :
    (State.mk
      x_agenda x_inp x_turn x_issue x_free x_nextId x_cycle x_cores x_mem x_hostMem x_badLines x_ecc x_l2 x_plru
      x_hostLines x_arrivals x_memq x_comb x_dieNum x_perf x_credRet x_cmds x_l2tlb x_seqTlb x_seqSram x_parts x_rt
      x_degQuads x_degSlices x_degWays x_degChans x_degPorts x_boot s.power x_fabric x_fns x_slateBase x_cmdRuns x_hdm
      x_genesis x_nb x_qos x_openRows s.sheet s.votes x_launches x_gangs x_saved x_flog x_flogLost x_fnErr x_fnErrVec
      x_msixMask x_msixPend x_out x_hvecBoot).calm.kept = s.calm.kept := rfl

@[simp] theorem State.pace_mk (s : State)
    (x_agenda x_inp x_turn x_issue x_free x_nextId x_cycle x_cores x_mem x_hostMem x_badLines x_ecc x_l2 x_plru
    x_hostLines x_arrivals x_memq x_comb x_dieNum x_perf x_credRet x_cmds x_l2tlb x_seqTlb x_seqSram x_parts x_rt
    x_degQuads x_degSlices x_degWays x_degChans x_degPorts x_boot x_fabric x_fns x_slateBase x_cmdRuns x_hdm x_genesis
    x_nb x_qos x_openRows x_votes x_launches x_gangs x_saved x_flog x_flogLost x_fnErr x_fnErrVec x_msixMask x_msixPend
    x_out x_hvecBoot) :
    (State.mk
      x_agenda x_inp x_turn x_issue x_free x_nextId x_cycle x_cores x_mem x_hostMem x_badLines x_ecc x_l2 x_plru
      x_hostLines x_arrivals x_memq x_comb x_dieNum x_perf x_credRet x_cmds x_l2tlb x_seqTlb x_seqSram x_parts x_rt
      x_degQuads x_degSlices x_degWays x_degChans x_degPorts x_boot s.power x_fabric x_fns x_slateBase x_cmdRuns x_hdm
      x_genesis x_nb x_qos x_openRows s.sheet x_votes x_launches x_gangs x_saved x_flog x_flogLost x_fnErr x_fnErrVec
      x_msixMask x_msixPend x_out x_hvecBoot).calm.kept.pace = s.calm.kept.pace := rfl

@[simp] theorem State.pace_mkSheet (s : State)
    (x_agenda x_inp x_turn x_issue x_free x_nextId x_cycle x_cores x_mem x_hostMem x_badLines x_ecc x_l2 x_plru
    x_hostLines x_arrivals x_memq x_comb x_dieNum x_perf x_credRet x_cmds x_l2tlb x_seqTlb x_seqSram x_parts x_rt
    x_degQuads x_degSlices x_degWays x_degChans x_degPorts x_boot x_fabric x_fns x_slateBase x_cmdRuns x_hdm x_genesis
    x_nb x_qos x_openRows x_running x_stopping x_round x_slots x_ageq x_tenant x_last x_early x_heldAt x_carry x_votes
    x_launches x_gangs x_saved x_flog x_flogLost x_fnErr x_fnErrVec x_msixMask
    x_msixPend x_out x_hvecBoot) :
    (State.mk
      x_agenda x_inp x_turn x_issue x_free x_nextId x_cycle x_cores x_mem x_hostMem x_badLines x_ecc x_l2 x_plru
      x_hostLines x_arrivals x_memq x_comb x_dieNum x_perf x_credRet x_cmds x_l2tlb x_seqTlb x_seqSram x_parts x_rt
      x_degQuads x_degSlices x_degWays x_degChans x_degPorts x_boot s.power x_fabric x_fns x_slateBase x_cmdRuns x_hdm
      x_genesis x_nb x_qos x_openRows (Sheet.mk x_running x_stopping s.sheet.slot s.sheet.began x_round x_slots x_ageq
      x_tenant x_last x_early x_heldAt x_carry) x_votes x_launches x_gangs x_saved x_flog x_flogLost x_fnErr x_fnErrVec
      x_msixMask x_msixPend x_out x_hvecBoot).calm.kept.pace = s.calm.kept.pace := rfl

theorem State.power_eq (s : State) : s.power = s.calm.kept.pace.power := rfl

@[simp] theorem Calm.kept_ite {c : Prop} [Decidable c] (a b : Calm) : (if c then a else b).kept = if c then a.kept else b.kept :=
  apply_ite _ _ _ _

@[simp] theorem Calm.kept_dite {c : Prop} [Decidable c] (a : c → Calm) (b : ¬ c → Calm) :
    (if h : c then a h else b h).kept = if h : c then (a h).kept else (b h).kept :=
  apply_dite _ _ _ _

@[simp] theorem Kept.pace_ite {c : Prop} [Decidable c] (a b : Kept) :
    (if c then a else b).pace = if c then a.pace else b.pace :=
  apply_ite _ _ _ _

@[simp] theorem Kept.pace_dite {c : Prop} [Decidable c] (a : c → Kept) (b : ¬ c → Kept) :
    (if h : c then a h else b h).pace = if h : c then (a h).pace else (b h).pace :=
  apply_dite _ _ _ _

@[simp] theorem State.foldl_kept {α : Type} {f : State → α → State} (hf : ∀ s a, (f s a).calm.kept = s.calm.kept) (l : List α)
    (s : State) : (l.foldl f s).calm.kept = s.calm.kept := by
  induction l generalizing s with
  | nil => rfl
  | cons a l ih => exact (ih (f s a)).trans (hf s a)

@[simp] theorem State.foldl_pace {α : Type} {f : State → α → State}
    (hf : ∀ s a, (f s a).calm.kept.pace = s.calm.kept.pace) (l : List α) (s : State) :
    (l.foldl f s).calm.kept.pace = s.calm.kept.pace := by
  induction l generalizing s with
  | nil => rfl
  | cons a l ih => exact (ih (f s a)).trans (hf s a)

@[simp] theorem State.chargeHold_kept (s : State) : s.chargeHold.calm.kept = s.calm.kept := by
  unfold State.chargeHold
  dsimp only
  split
  · rfl
  · exact (congrArg Calm.kept (State.meter_calm _ _ _ _)).trans rfl

@[simp] theorem State.updPort_kept (s : State) (n : Fin 20) (f : Port → Port) : (s.updPort n f).calm.kept = s.calm.kept := rfl

/-! ### The host -/

@[simp] theorem State.meterHost_calm (s : State) (q : Req) (wr : Bool) (n : Nat) : (State.meterHost s q wr n).calm = s.calm := by
  unfold State.meterHost
  simp

theorem State.getPlaces_calm (q : Req) (l : List (Phys × Nat)) (s : State) :
    okCalm (fun r : List Byte × State => r.2) s.calm (s.getPlaces q l) = s.calm := by
  induction l generalizing s with
  | nil => rfl
  | cons e rest ih =>
    unfold State.getPlaces
    split
    · have h := ih (s.meterHost q false e.2)
      split
      next hr => exact (okCalm_eq h hr :).trans (by simp)
      · rfl
    · split
      · rfl
      · dsimp only
        have h := ih ((s.applyLine e.1.addr).access q e.1.addr (e.1.mtype ≠ 0) .read)
        split
        next hr => exact (okCalm_eq h hr :).trans (by simp)
        · rfl

@[simp] theorem State.putPlaces_calm (q : Req) (l : List (Phys × Nat)) (bs : List Byte) (s : State) :
    (s.putPlaces q l bs).calm = s.calm := by
  induction l generalizing s bs with
  | nil => rfl
  | cons e rest ih =>
    unfold State.putPlaces
    refine (ih _ _).trans ?_
    dsimp only
    split <;> simp

theorem State.reqGet_calm (s : State) (q : Req) (fn : Fn) (a n : Nat) :
    okCalm (fun r : List Byte × State => r.2) s.calm (s.reqGet q fn a n) = s.calm := by
  unfold State.reqGet
  split
  · rfl
  · exact State.getPlaces_calm q _ s

theorem State.reqPut_calm (s : State) (q : Req) (fn : Fn) (a : Nat) (bs : List Byte) :
    okCalm id s.calm (s.reqPut q fn a bs) = s.calm := by
  unfold State.reqPut
  split
  · rfl
  · split
    · rfl
    · exact State.putPlaces_calm q _ bs s

theorem hostGet_calm {s t : State} {fn : Fn} {a n : Nat} {bs : List Byte} (h : hostGet s fn a n = .ok (bs, t)) :
    t.calm = s.calm :=
  okCalm_eq (State.reqGet_calm s (fnReq fn) fn a n) h

theorem hostPut_calm {s t : State} {fn : Fn} {a : Nat} {bs : List Byte} (h : hostPut s fn a bs = .ok t) : t.calm = s.calm :=
  okCalm_eq (State.reqPut_calm s (fnReq fn) fn a bs) h

@[simp] theorem State.waitAtChan_calm (s : State) (ch : Fin 256) (i : Instr) : (State.waitAtChan s ch i).calm = s.calm := by
  unfold State.waitAtChan
  simp

@[simp] theorem State.cmdDone_kept (s : State) (c : Cmd) (status r0 r1 : Nat) :
    (State.cmdDone s c status r0 r1).calm.kept = s.calm.kept := by
  unfold State.cmdDone
  simp

@[simp] theorem State.ringFault_calm (s : State) (fn : Fn) (a : Nat) (e : Cause) : (State.ringFault s fn a e).calm = s.calm := by
  unfold State.ringFault
  simp

@[simp] theorem State.cmdFault_kept (s : State) (c : Cmd) (a : Nat) (e : Cause) :
    (State.cmdFault s c a e).calm.kept = s.calm.kept := by
  unfold State.cmdFault
  simp

theorem State.whenFree_kept (s : State) (i : Instr) (c : Cmd) (wr : Bool) (a n : Nat) {k : State → State}
    (hk : ∀ t, (k t).calm.kept = t.calm.kept) : (s.whenFree i c wr a n k).calm.kept = s.calm.kept := by
  unfold State.whenFree
  split
  · simp
  · exact hk s

@[simp] theorem State.answerCmd_kept (s : State) (i : Instr) (c : Cmd) (a : Nat) (bs : List Byte) (r0 : Nat) :
    (s.answerCmd i c a bs r0).calm.kept = s.calm.kept := by
  refine s.whenFree_kept i c true a bs.length fun t => ?_
  split
  · simp
  next h => simp [hostPut_calm h]

theorem State.command_kept (s : State) (w : Who) (used : List (Nat × Nat)) {k : Cmd → State}
    (hk : ∀ c, (k c).calm.kept = s.calm.kept) : (s.command w used k).calm.kept = s.calm.kept := by
  unfold State.command
  dsimp only
  split
  · simp
  · split
    · simp
    · exact hk _

theorem State.command_pace (s : State) (w : Who) (used : List (Nat × Nat)) {k : Cmd → State}
    (hk : ∀ c, (k c).calm.kept.pace = s.calm.kept.pace) : (s.command w used k).calm.kept.pace = s.calm.kept.pace := by
  unfold State.command
  dsimp only
  split
  · simp
  · split
    · simp
    · exact hk _

theorem State.whenFree_pace (s : State) (i : Instr) (c : Cmd) (wr : Bool) (a n : Nat) {k : State → State}
    (hk : ∀ t, (k t).calm.kept.pace = t.calm.kept.pace) :
    (s.whenFree i c wr a n k).calm.kept.pace = s.calm.kept.pace := by
  unfold State.whenFree
  split
  · simp
  · exact hk s

@[simp] theorem State.emitGenesis_kept (s : State) : (State.emitGenesis s).calm.kept = s.calm.kept := by
  unfold State.emitGenesis
  simp

@[simp] theorem State.emitSlate_kept (s : State) (part kind : Nat) : (s.emitSlate part kind).calm.kept = s.calm.kept := by
  unfold State.emitSlate
  split
  · extract_lets u sl seq prev bs sl' w base
    have hw : w.calm.kept = s.calm.kept := by simp [w, u]
    clear_value w bs
    split
    · exact hw
    · split
      next h => exact (congrArg Calm.kept (hostPut_calm h)).trans hw
      · simpa using hw
  · rfl

@[simp] theorem State.updFn_kept (s : State) (fn : Fn) (f : FnRegs → FnRegs) : (State.updFn s fn f).calm.kept = s.calm.kept := by
  unfold State.updFn
  simp

@[simp] theorem State.sumGo_kept (s : State) (fn : Fn) : (s.sumGo fn).calm.kept = s.calm.kept := by
  unfold State.sumGo
  extract_lets u f bs
  have hu : u.calm.kept = s.calm.kept := State.chargeHold_kept s
  clear_value u bs
  split
  · simpa using hu
  · split
    next h => simpa [hostPut_calm h] using hu
    · simpa using hu

@[simp] theorem State.updRing_kept (s : State) (fn : Fn) (q : Fin 64) (f : Ring → Ring) :
    (State.updRing s fn q f).calm.kept = s.calm.kept := by
  unfold State.updRing
  simp

@[simp] theorem State.haltRing_kept (s : State) (fn : Fn) (q : Fin 64) (reason : Nat) :
    (State.haltRing s fn q reason).calm.kept = s.calm.kept := by
  unfold State.haltRing
  simp

@[simp] theorem State.checkedWrite_kept (s : State) (fn : Fn) (q : Fin 64) (r : Ring) (doorbell : Bool) :
    (State.checkedWrite s fn q r doorbell).calm.kept = s.calm.kept := by
  unfold State.checkedWrite
  split <;> simp

@[simp] theorem State.enableRing_kept (s : State) (fn : Fn) (q : Fin 64) : (State.enableRing s fn q).calm.kept = s.calm.kept := by
  unfold State.enableRing
  simp

@[simp] theorem State.disableRing_kept (s : State) (fn : Fn) (q : Fin 64) :
    (State.disableRing s fn q).calm.kept = s.calm.kept := by
  unfold State.disableRing
  simp

@[simp] theorem State.writeRing_kept (s : State) (fn : Fn) (q : Fin 64) (off : Nat) (v : Word) :
    (State.writeRing s fn q off v).calm.kept = s.calm.kept := by
  unfold State.writeRing
  simp

@[simp] theorem State.writeMsix_kept (s : State) (fn : Fn) (word : Nat) (v : Word) :
    (State.writeMsix s fn word v).calm.kept = s.calm.kept := by
  unfold State.writeMsix
  simp

@[simp] theorem State.hostRefuse_calm (s : State) (x : HostAccess) : (State.hostRefuse s x).calm = s.calm := by
  unfold State.hostRefuse
  split <;> simp

@[simp] theorem State.hostFault_calm (s : State) (part a : Nat) (x : HostAccess) (c : Cause) :
    (State.hostFault s part a x c).calm = s.calm := by
  unfold State.hostFault
  simp

@[simp] theorem State.hostAccess_calm (s : State) (i : Instr) (fn : Fn) (a : Nat) (x : HostAccess) :
    (s.hostAccess i fn a x).calm = s.calm := by
  unfold State.hostAccess
  dsimp only
  split
  · split
    · simp
    · split
      next h => exact (okCalm_eq (s.reqGet_calm _ fn a _) h :)
      · simp
  · split
    · simp
    · split
      next h => exact (okCalm_eq (g := id) (s.reqPut_calm _ fn a _) h :)
      · simp

@[simp] theorem State.hostCaches_calm (s : State) (fn : Fn) (a n : Nat) : (State.hostCaches s fn a n).calm = s.calm := by
  unfold State.hostCaches
  split <;> simp

/-! ### The scheduler -/

@[simp] theorem State.updPart_calm (s : State) (part : Nat) (f : Partition → Partition) :
    (State.updPart s part f).calm = s.calm := by
  unfold State.updPart
  simp

@[simp] theorem State.mapLaunch_calm (s : State) (id : Nat) (f : Launch → Launch) : (State.mapLaunch s id f).calm = s.calm := by
  unfold State.mapLaunch
  simp

@[simp] theorem State.readWindows_calm (s : State) (part : Nat) : (State.readWindows s part).calm = s.calm := by
  unfold State.readWindows
  split <;> simp

@[simp] theorem State.dropSeqTlb_calm (s : State) (part : Nat) : (State.dropSeqTlb s part).calm = s.calm := by
  unfold State.dropSeqTlb
  simp

@[simp] theorem State.dropQuadTlb_calm (s : State) (part : Nat) (quads : List Nat) :
    (State.dropQuadTlb s part quads).calm = s.calm := by
  unfold State.dropQuadTlb
  simp

@[simp] theorem State.placeLaunch_calm (s : State) (l : Launch) (quads : List Nat) :
    (State.placeLaunch s l quads).calm = s.calm := by
  unfold State.placeLaunch
  simp

@[simp] theorem State.perfUpdate_calm (s : State) (part : Nat) : (State.perfUpdate s part).calm = s.calm := by
  unfold State.perfUpdate
  simp

@[simp] theorem State.perfStore_calm (s : State) (part : Nat) : (State.perfStore s part).calm = s.calm := by
  unfold State.perfStore
  dsimp only
  (repeat' split) <;> simp

@[simp] theorem State.launchDone_kept (s : State) (id : Nat) : (State.launchDone s id).calm.kept = s.calm.kept := by
  unfold State.launchDone
  (repeat' split) <;> simp

@[simp] theorem State.checkLaunch_kept (s : State) (id : Nat) : (s.checkLaunch id).calm.kept = s.calm.kept := by
  unfold State.checkLaunch
  split
  · rfl
  · dsimp only
    split
    · exact State.launchDone_kept s id
    · rfl

@[simp] theorem State.chargeCore_calm (s : State) (launch : Option Nat) : (State.chargeCore s launch).calm = s.calm := by
  unfold State.chargeCore
  split <;> simp

@[simp] theorem State.haltCore_calm (s : State) (c : Fin 256) (off : Nat) : (State.haltCore s c off).calm = s.calm := by
  unfold State.haltCore
  dsimp only
  split <;> simp

@[simp] theorem State.requestStop_calm (s : State) (id : Nat) (why : StopKind) : (State.requestStop s id why).calm = s.calm := by
  unfold State.requestStop
  simp

theorem State.saveMatrix_calm (s : State) (c : Fin 256) (live : LiveMask) :
    okCalm id s.calm (s.saveMatrix c live) = s.calm := by
  refine okCalm_foldl (fun s a => ?_) (fun _ _ => rfl) _
  dsimp only
  split
  · rfl
  next heq _ =>
    cases heq
    rfl
  next heq _ =>
    cases heq
    split
    · rfl
    · rfl
    next hp => exact (State.mapCore_calm _ _ _).trans (okCalm_eq (g := id) (State.pump_calm s _ _) hp)

theorem State.loadMatrix_calm (s : State) (c : Fin 256) (live : LiveMask) :
    okCalm id s.calm (s.loadMatrix c live) = s.calm := by
  refine okCalm_foldl (fun s a => ?_) (fun _ _ => rfl) _
  dsimp only
  split
  · rfl
  next heq _ =>
    cases heq
    rfl
  next heq _ =>
    cases heq
    split
    · rfl
    next hp =>
      split
      · rfl
      · exact (State.mapCore_calm _ _ _).trans (okCalm_eq (g := id) (State.pump_calm s _ _) hp)

@[simp] theorem State.noteFault_calm (s : State) (id : Nat) (c : Cause) : (State.noteFault s id c).calm = s.calm := by
  unfold State.noteFault
  simp

@[simp] theorem State.failLaunch_kept (s : State) (id : Nat) (c : Cause) : (s.failLaunch id c).calm.kept = s.calm.kept :=
  (State.launchDone_kept _ id).trans (congrArg Calm.kept (State.noteFault_calm s id c))

@[simp] theorem State.saveCore_calm (s : State) (l : Launch) (c : Fin 256) : (s.saveCore l c).calm = s.calm := by
  unfold State.saveCore
  extract_lets u k entry live
  have hu : u.calm = s.calm := State.applyCore_calm s c
  clear_value u live
  split
  · simpa using hu
  next h => simpa using (okCalm_eq (g := id) (u.saveMatrix_calm c live) h).trans hu

@[simp] theorem State.saveLaunch_kept (s : State) (id : Nat) (swapped : Bool) :
    (s.saveLaunch id swapped).calm.kept = s.calm.kept := by
  unfold State.saveLaunch
  split
  · rfl
  · extract_lets cs act u bad n up gone
    have hu : u.calm.kept = s.calm.kept := by simp [u]
    clear_value u bad
    split
    · simpa using hu
    · exact hu

@[simp] theorem State.updSaved_calm (s : State) (x : Saved) (f : Saved → Saved) : (State.updSaved s x f).calm = s.calm := by
  unfold State.updSaved
  simp

@[simp] theorem State.lostCtx_kept (s : State) (x : Saved) : (State.lostCtx s x).calm.kept = s.calm.kept := by
  unfold State.lostCtx
  simp

@[simp] theorem State.writeback_kept (s : State) (x : Saved) : (State.writeback s x).calm.kept = s.calm.kept := by
  unfold State.writeback
  (repeat' split) <;> simp

@[simp] theorem State.stageCtx_kept (s : State) (x : Saved) : (State.stageCtx s x).calm.kept = s.calm.kept := by
  unfold State.stageCtx
  dsimp only
  (repeat' split) <;> simp

@[simp] theorem State.loadCtx_kept (s : State) (x : Saved) : (s.loadCtx x).calm.kept = s.calm.kept := by
  unfold State.loadCtx
  split
  · simp
  · dsimp only
    split
    next h =>
      exact congrArg Calm.kept ((okCalm_eq (g := id) (State.loadMatrix_calm _ _ _) h).trans (State.setCore_calm _ _ _))
    · simp

@[simp] theorem State.resumeLaunch_kept (s : State) (id : Nat) : (s.resumeLaunch id).calm.kept = s.calm.kept := by
  unfold State.resumeLaunch
  extract_lets mine u xs v
  have hu : u.calm.kept = s.calm.kept := by simp [u]
  have hv : v.calm.kept = u.calm.kept := by simp [v]
  clear_value v u
  split
  · exact hu
  · split
    · exact hu
    · extract_lets w x
      have hw : w.calm.kept = v.calm.kept := State.foldl_kept (fun s e => by simp) _ _
      clear_value w
      exact (State.foldl_kept State.loadCtx_kept xs x).trans (hw.trans (hv.trans hu))

/-! ### Partitions -/

@[simp] theorem State.scrubQuads_calm (s : State) (part : Nat) : (State.scrubQuads s part).calm = s.calm := by
  unfold State.scrubQuads
  simp

@[simp] theorem State.emptyTlbs_calm (s : State) (part : Nat) : (State.emptyTlbs s part).calm = s.calm := by
  unfold State.emptyTlbs
  simp

@[simp] theorem State.clearSlices_calm (s : State) (part : Nat) (slices : BitVec 128) (ways : BitVec 16) :
    (State.clearSlices s part slices ways).calm = s.calm := by
  unfold State.clearSlices
  simp

@[simp] theorem State.startClear_calm (s : State) (part : Nat) (slices : BitVec 128) (ways : BitVec 16) :
    (State.startClear s part slices ways).calm = s.calm := by
  unfold State.startClear
  simp

@[simp] theorem State.dropTlbOf_calm (s : State) (part : Nat) : (State.dropTlbOf s part).calm = s.calm := by
  unfold State.dropTlbOf
  simp

@[simp] theorem State.makePartition_kept (s : State) (part : Nat) (p : Partition) :
    (s.makePartition part p).calm.kept = s.calm.kept := by
  unfold State.makePartition
  simp

@[simp] theorem State.stopLaunches_kept (s : State) (part : Nat) : (s.stopLaunches part).calm.kept = s.calm.kept := by
  refine State.foldl_kept (fun s l => ?_) _ s
  split
  · simp
  · dsimp only
    rw [State.foldl_calm (fun s c => by simp)]
    simp

@[simp] theorem State.abortCmds_kept (s : State) (fn : Fn) : (State.abortCmds s fn).calm.kept = s.calm.kept := by
  unfold State.abortCmds
  simp

@[simp] theorem State.zeroFrame_calm (s : State) (f : Nat) : (State.zeroFrame s f).calm = s.calm := by
  unfold State.zeroFrame
  simp

@[simp] theorem State.destroyStart_kept (s : State) (part : Nat) : (s.destroyStart part).calm.kept = s.calm.kept := by
  unfold State.destroyStart
  simp

@[simp] theorem State.chargeScrub_calm (s : State) (part cores slices : Nat) :
    (State.chargeScrub s part cores slices).calm = s.calm := by
  unfold State.chargeScrub
  simp

@[simp] theorem State.destroyEnd_pace (s : State) (part : Nat) :
    (s.destroyEnd part).calm.kept.pace = s.calm.kept.pace := by
  unfold State.destroyEnd
  extract_lets a b c d e kept none f g
  have hg : g.calm.kept.pace = s.calm.kept.pace := by simp [g, f, e, d, c, b, a]
  clear_value g
  exact (congrArg Kept.pace (State.updFn_kept _ _ _)).trans hg

@[simp] theorem State.resetRings_kept (s : State) (fn : Fn) : (s.resetRings fn).calm.kept = s.calm.kept :=
  State.updFn_kept s fn fun f => { f with rings := Vector.replicate 64 Ring.reset }

theorem State.pset_kept (s : State) (used : List (Nat × Nat)) {k : Cmd → Nat → State}
    (hk : ∀ c part, (k c part).calm.kept = s.calm.kept) : (s.pset used k).calm.kept = s.calm.kept := by
  refine s.command_kept _ _ fun c => ?_
  dsimp only
  split
  · simp
  · exact hk _ _

@[simp] theorem State.invalidate_calm (s : State) (part lo hi : Nat) : (State.invalidate s part lo hi).calm = s.calm := by
  unfold State.invalidate
  simp

@[simp] theorem State.applyQos_calm (s : State) (part : Nat) : (State.applyQos s part).calm = s.calm := by
  unfold State.applyQos
  split <;> simp

end Sys2Proof.Machine
end

section
/-! What the call sheet, its votes and a core's issue leave alone. -/

namespace Sys2Proof.Machine

/-! ### Votes -/

@[simp] theorem State.setSlot_pace (s : State) (i : Nat) (f : SheetSlot → SheetSlot) :
    (State.setSlot s i f).calm.kept.pace = s.calm.kept.pace := by
  unfold State.setSlot
  simp

@[simp] theorem State.setVote_pace (s : State) (v : Vote) : (State.setVote s v).calm.kept.pace = s.calm.kept.pace := by
  unfold State.setVote
  simp

@[simp] theorem State.dropVote_pace (s : State) (v : Vote) : (State.dropVote s v).calm.kept.pace = s.calm.kept.pace := by
  unfold State.dropVote
  simp

@[simp] theorem State.sendVote_calm (s : State) (dst slot : Nat) (round : Bool) (phase reason : Nat) (g : BitVec 32) :
    (State.sendVote s dst slot round phase reason g).calm = s.calm := by
  unfold State.sendVote
  simp

@[simp] theorem State.tell_calm (s : State) (v : Vote) (to_ : List Nat) (phase reason : Nat) :
    (State.tell s v to_ phase reason).calm = s.calm := by
  unfold State.tell
  simp

@[simp] theorem State.sendLevel_calm (s : State) (dst sweep : Nat) (received down : Bool) (sum : Nat) :
    (State.sendLevel s dst sweep received down sum).calm = s.calm := by
  unfold State.sendLevel
  simp

@[simp] theorem State.backToRun_pace (s : State) (v : Vote) : (State.backToRun s v).calm.kept.pace = s.calm.kept.pace := by
  unfold State.backToRun
  simp

@[simp] theorem State.abortVote_pace (s : State) (v : Vote) (send : Bool) (reason : Nat) :
    (State.abortVote s v send reason).calm.kept.pace = s.calm.kept.pace := by
  unfold State.abortVote
  simp

@[simp] theorem State.startSweep_pace (s : State) (v : Vote) (n : Nat) :
    (State.startSweep s v n).calm.kept.pace = s.calm.kept.pace := by
  unfold State.startSweep
  simp

@[simp] theorem State.commitVote_pace (s : State) (v : Vote) : (State.commitVote s v).calm.kept.pace = s.calm.kept.pace := by
  unfold State.commitVote
  dsimp only
  split <;> simp

@[simp] theorem State.level_pace (s : State) (v : Vote) : (State.level s v).calm.kept.pace = s.calm.kept.pace := by
  unfold State.level
  simp

@[simp] theorem State.decide_pace (s : State) (v : Vote) : (State.decide s v).calm.kept.pace = s.calm.kept.pace := by
  unfold State.decide
  (repeat' split) <;> simp

@[simp] theorem State.takePrepare_pace (s : State) (v : Vote) (src : Nat) (g : BitVec 32) :
    (State.takePrepare s v src g).calm.kept.pace = s.calm.kept.pace := by
  unfold State.takePrepare
  simp

@[simp] theorem State.prepare_pace (s : State) (slot : Nat) (group : List Nat) (inc : Option (Nat × BitVec 32))
    (outgoing : List (Nat × BitVec 32)) (round : Bool) (early : List (Nat × BitVec 32)) :
    (s.prepare slot group inc outgoing round early).calm.kept.pace = s.calm.kept.pace := by
  unfold State.prepare
  extract_lets v kept a b c stage d find e
  have hb : b.calm.kept.pace = s.calm.kept.pace := by simp [b, a]
  clear_value b
  have hd : d.calm.kept.pace = s.calm.kept.pace := by simpa [d, c] using hb
  clear_value d
  have he : e.calm.kept.pace = d.calm.kept.pace :=
    State.foldl_pace (fun s e => by split <;> simp) early d
  clear_value e
  split
  · exact (State.decide_pace e _).trans (he.trans hd)
  · exact he.trans hd

@[simp] theorem State.fixedVote_pace (s : State) (l : Launch) (early : List (Nat × BitVec 32)) :
    (State.fixedVote s l early).calm.kept.pace = s.calm.kept.pace := by
  unfold State.fixedVote
  simp

@[simp] theorem State.setTenant_pace (s : State) (part : Nat) : (State.setTenant s part).calm.kept.pace = s.calm.kept.pace := by
  unfold State.setTenant
  simp

@[simp] theorem State.leaveTenant_kept (s : State) : (State.leaveTenant s).calm.kept = s.calm.kept := by
  unfold State.leaveTenant
  simp

@[simp] theorem State.vacate_pace (s : State) : (State.vacate s).calm.kept.pace = s.calm.kept.pace := by
  unfold State.vacate
  simp

@[simp] theorem State.refuseAll_calm (s : State) (slot : Nat) (round : Bool) (ms : List (Nat × BitVec 32)) :
    (State.refuseAll s slot round ms).calm = s.calm := by
  unfold State.refuseAll
  simp

theorem State.openSlot_pace (s : State) (n began : Nat) (round : Bool) (group : List Nat) :
    (s.openSlot n began round group).calm.kept.pace = ⟨s.power, n, began⟩ := by
  unfold State.openSlot
  split
  next inc filled _ =>
    extract_lets a early src sh b out held c fit
    have hb : b.calm.kept.pace = ⟨s.power, n, began⟩ := by
      have hp : a.chargeHold.calm.kept.pace = a.calm.kept.pace := congrArg Kept.pace a.chargeHold_kept
      exact congrArg (fun p : Pace => (⟨p.power, n, began⟩ : Pace)) hp
    clear_value b
    have hc : c.calm.kept.pace = b.calm.kept.pace := by simp [c]
    clear_value c
    split
    · split
      · exact hc.trans hb
      · exact (State.prepare_pace _ _ _ _ _ _ _).trans (hc.trans hb)
    · split
      · simpa using hb
      · exact (State.prepare_pace _ _ _ _ _ _ _).trans hb

@[simp] theorem State.countBad_calm (s : State) (ctype : BitVec 8) : (State.countBad s ctype).calm = s.calm := by
  unfold State.countBad
  simp

@[simp] theorem State.joinVote_pace (s : State) (v : Vote) (m : VoteMsg) :
    (State.joinVote s v m).calm.kept.pace = s.calm.kept.pace := by
  unfold State.joinVote
  dsimp only
  split <;> simp

@[simp] theorem State.report_pace (s : State) (v : Vote) : (State.report s v).calm.kept.pace = s.calm.kept.pace := by
  unfold State.report
  simp

@[simp] theorem State.takeCaptive_kept (s : State) (w : Captive) : (s.takeCaptive w).calm.kept = s.calm.kept := by
  unfold State.takeCaptive
  split
  · rfl
  · exact (congrArg Calm.kept (State.takeSent_calm _ _)).trans (State.updPort_kept _ _ _)

@[simp] theorem State.takeRecords_calm (s : State) (part : Nat) (d : GangDef) : (s.takeRecords part d).2.calm = s.calm := by
  unfold State.takeRecords
  split
  · rfl
  · split
    · simp
    · dsimp only
      split <;> simp

@[simp] theorem State.reinject_calm (s : State) (part : Nat) (p : Packet) : (State.reinject s part p).calm = s.calm := by
  unfold State.reinject
  simp

@[simp] theorem State.bringGang_kept (s : State) (part : Nat) (g : BitVec 32) (commit : Nat) :
    (s.bringGang part g commit).calm.kept = s.calm.kept := by
  unfold State.bringGang
  extract_lets u
  have hu : u.calm.kept = s.calm.kept := by
    simp only [u]
    split
    · simp
    · rfl
  clear_value u
  split
  · dsimp only
    split
    · simpa using hu
    · split
      · simpa using hu
      · simpa using hu
  · exact hu

@[simp] theorem State.bringIn_kept (s : State) (v : Vote) : (s.bringIn v).calm.kept = s.calm.kept := by
  unfold State.bringIn
  extract_lets a b c
  have hc : c.calm.kept = s.calm.kept := by
    simp only [c, b, a]
    split <;> simp
  clear_value c
  split
  · exact (State.foldl_kept (fun s (l : Launch) => State.resumeLaunch_kept s l.id) _ c).trans hc
  · exact (State.bringGang_kept c _ _ _).trans hc

@[simp] theorem State.scrubTenant_calm (s : State) (old : Nat) : (State.scrubTenant s old).calm = s.calm := by
  unfold State.scrubTenant
  simp

theorem State.sheetCmd_kept (s : State) (used : List (Nat × Nat)) {k : Cmd → Nat → State}
    (hk : ∀ c part, (k c part).calm.kept = s.calm.kept) : (s.sheetCmd used k).calm.kept = s.calm.kept :=
  s.command_kept _ _ fun _ => hk _ _

theorem State.sheetCmd_pace (s : State) (used : List (Nat × Nat)) {k : Cmd → Nat → State}
    (hk : ∀ c part, (k c part).calm.kept.pace = s.calm.kept.pace) : (s.sheetCmd used k).calm.kept.pace = s.calm.kept.pace :=
  s.command_pace _ _ fun _ => hk _ _

@[simp] theorem State.resolve_pace (s : State) (commit : Bool) : (State.resolve s commit).calm.kept.pace = s.calm.kept.pace := by
  unfold State.resolve
  split <;> simp

/-! ### Corrected errors -/

@[simp] theorem State.correctedIn_calm (s : State) (unit : UnitKind) (index : Nat) :
    (State.correctedIn s unit index).calm = s.calm := by
  unfold State.correctedIn
  split <;> simp

/-! ### The hypervisor -/

theorem scrubPumps_calm (s : State) (q : Nat) : okCalm id s.calm (scrubPumps s q) = s.calm := by
  refine okCalm_foldl (fun s a => ?_) (fun _ _ => rfl) _
  dsimp only
  split
  · rfl
  · split
    · exact pumpOut_calm s _ _ _
    · rfl

/-! ### Issue -/

@[simp] theorem State.heldCycle_calm (s : State) (c : Fin 256) : (State.heldCycle s c).calm = s.calm := by
  unfold State.heldCycle
  simp

@[simp] theorem State.busyCycle_calm (s : State) (c : Fin 256) : (State.busyCycle s c).calm = s.calm := by
  unfold State.busyCycle
  simp

@[simp] theorem State.emptyCycles_calm (s : State) (g : List (Fin 256)) : (State.emptyCycles s g).calm = s.calm := by
  unfold State.emptyCycles
  simp

@[simp] theorem State.holdGroup_calm (s : State) (g : List (Fin 256)) (holds : List (Fin 256 × Hold)) :
    (s.holdGroup g holds).calm = s.calm := by
  unfold State.holdGroup
  split
  · simp
  · exact State.foldl_calm (fun s d => by split <;> simp) _ _

@[simp] theorem State.refuse_calm (s : State) (g : List (Fin 256)) (own : List (Fin 256 × Trap)) (blen : Nat) :
    (State.refuse s g own blen).calm = s.calm := by
  unfold State.refuse
  simp

@[simp] theorem State.defaultHandler_calm (s : State) (c : Fin 256) : (State.defaultHandler s c).calm = s.calm := by
  unfold State.defaultHandler
  simp

@[simp] theorem State.openBundle_calm (s : State) (c : Fin 256) (b : RawBundle) (is : List (Slot × Instr)) :
    (State.openBundle s c b is).calm = s.calm := by
  unfold State.openBundle
  simp

@[simp] theorem State.closeBundle_calm (s : State) (b : RawBundle) : (State.closeBundle s b).calm = s.calm := by
  unfold State.closeBundle
  dsimp only
  split <;> simp

@[simp] theorem State.stopAtSp_calm (s : State) (b : RawBundle) (c : Fin 256) : (State.stopAtSp s b c).calm = s.calm := by
  unfold State.stopAtSp
  simp

@[simp] theorem State.atRejoin_calm (s : State) (c : Fin 256) (b : RawBundle) : (State.atRejoin s c b).calm = s.calm := by
  unfold State.atRejoin
  simp

@[simp] theorem State.holdSave_calm (s : State) (c : Fin 256) : (State.holdSave s c).calm = s.calm := by
  unfold State.holdSave
  simp

/-! ### Steps of a core -/

@[simp] theorem State.failWord_calm (s : State) (c : Fin 256) (a : CoreArray) (n : Nat) :
    (State.failWord s c a n).calm = s.calm := by
  unfold State.failWord
  simp

@[simp] theorem State.failOp_calm (s : State) (o : MemOp) (code : Nat) : (State.failOp s o code).calm = s.calm := by
  unfold State.failOp
  (repeat' split) <;> simp

@[simp] theorem State.waitToken_calm (s : State) (o : MemOp) (ch : Fin 256) : (State.waitToken s o ch).calm = s.calm := by
  unfold State.waitToken
  simp

@[simp] theorem State.perform_calm (s : State) (o : MemOp) : (State.perform s o).calm = s.calm := by
  unfold State.perform
  simp

@[simp] theorem State.atHome_calm (s : State) (o : MemOp) : (State.atHome s o).calm = s.calm := by
  unfold State.atHome
  simp

@[simp] theorem State.admitOp_calm (s : State) (o : MemOp) (past : Option (Fin 256)) :
    (State.admitOp s o past).calm = s.calm := by
  unfold State.admitOp
  split <;> simp

@[simp] theorem State.haltGroup_calm (s : State) (c : Fin 256) (off : Nat) : (State.haltGroup s c off).calm = s.calm := by
  unfold State.haltGroup
  simp

@[simp] theorem State.endYield_calm (s : State) (c : Fin 256) : (State.endYield s c).calm = s.calm := by
  unfold State.endYield
  split <;> simp

/-! ### Ends of a cycle -/

@[simp] theorem State.noteHalts_calm (s : State) : (State.noteHalts s).calm = s.calm := by
  unfold State.noteHalts
  simp

@[simp] theorem State.release_calm (s : State) : (State.release s).calm = s.calm := by
  unfold State.release
  simp

@[simp] theorem State.entered_kept (s : State) (e : Event) : (s.entered e).calm.kept = s.calm.kept := rfl

@[simp] theorem State.place_calm (s : State) (w : SlotWord) : (State.place s w).calm = s.calm := by
  unfold State.place
  simp

end Sys2Proof.Machine
end

section
/-! What each instruction leaves alone: power, and the slot of the call sheet. -/

namespace Sys2Proof.Machine

/-! ### Steps that go on

An instruction goes on, and leaves power and the slot of the call sheet alone; the few steps that do not are stated after. -/

/-- A step goes on, and leaves power and the slot of the call sheet with its beginning as they are. -/
def KeepsPace (s : State) (o : Host.Outcome State Fault Refusal) : Prop := ∃ t, o = .next t ∧ t.calm.kept.pace = s.calm.kept.pace

theorem keepsPace_next {s t : State} (h : t.calm.kept.pace = s.calm.kept.pace) : KeepsPace s (.next t) := ⟨t, rfl, h⟩

theorem KeepsCalm.pace {s : State} {o : Host.Outcome State Fault Refusal} (h : KeepsCalm s o) : KeepsPace s o :=
  h.imp fun _ ht => ⟨ht.1, congrArg (fun c : Calm => c.kept.pace) ht.2⟩

theorem keepsPace_finish {s : State} {r : SlotRes Unit} (h : r.calm s.calm = s.calm) : KeepsPace s (finish s r) :=
  (finish_calm h).pace

theorem okCalm_state {ε : Type} {r : Except ε State} {d : Calm} {t : State} (h : okCalm id d r = d) (hr : r = .ok t) :
    t.calm = d :=
  okCalm_eq (g := id) h hr

theorem keepsPace_command {s : State} {w : Who} {used : List (Nat × Nat)} {k : Cmd → State}
    (hk : ∀ c, (k c).calm.kept.pace = s.calm.kept.pace) : KeepsPace s (.next (s.command w used k)) :=
  keepsPace_next (s.command_pace w used hk)

theorem State.pset_pace (s : State) (used : List (Nat × Nat)) {k : Cmd → Nat → State}
    (hk : ∀ c part, (k c part).calm.kept.pace = s.calm.kept.pace) : (s.pset used k).calm.kept.pace = s.calm.kept.pace := by
  refine s.command_pace _ _ fun c => ?_
  dsimp only
  split
  · simp
  · exact hk _ _

/-! The shapes that instructions share. -/

theorem binary_calm (s : State) (a : SSpec) (b : SOpnd) (w : WReg) (lat : Nat) (f : Word → Word → Word) :
    (binary s a b w lat f).calm s.calm = s.calm :=
  SlotRes.calm_bind (readS_calm _ _ _) fun _ _ => SlotRes.calm_bind (readSO_calm _ _ _) fun _ _ => by simp

theorem unary_calm (s : State) (a : SSpec) (w : WReg) (f : Word → Word) : (unary s a w f).calm s.calm = s.calm :=
  SlotRes.calm_bind (readS_calm _ _ _) fun _ _ => by simp

theorem division_calm (s : State) (a : SSpec) (b : SOpnd) (w : WReg) (w32 : Bool) (f : Word → Word → Word) :
    (division s a b w w32 f).calm s.calm = s.calm :=
  SlotRes.calm_bind (readS_calm _ _ _) fun _ _ => SlotRes.calm_bind (readSO_calm _ _ _) fun _ _ => by simp

theorem vbits_calm (a : VSpec) (b : VOpnd) (t : Ty) (f : Nat → Nat → Nat) (s : State) : KeepsCalm s (vbits a b t f s) :=
  vbin_calm ..

theorem vshift_calm (a : VSpec) (b : VOpnd) (t : Ty) (f : Nat → Nat → Nat) (s : State) : KeepsCalm s (vshift a b t f s) :=
  vbin_calm ..

theorem needH_calm {α : Type} {s : State} {d : Calm} {r : SlotRes α} (hr : r.calm d = d) : (needH s r).calm d = d := by
  simp [needH, hr]

theorem takeAnswer_calm (s : State) (v : Word) (w : WReg) : (takeAnswer s v w).calm s.calm = s.calm := by
  simp [takeAnswer]

theorem tlbinv_calm (s : State) (kind : Nat) (a b : Word) (w : WReg) : (tlbinv s kind a b w).calm s.calm = s.calm := by
  unfold tlbinv
  split
  · exact takeAnswer_calm _ _ _
  · simp

theorem onControl_pace {s : State} {ctype : BitVec 8} {k : Control → State} (hk : ∀ c, (k c).calm = s.calm) :
    KeepsPace s (onControl s ctype k) := by
  unfold onControl
  dsimp only
  split
  · exact keepsPace_next rfl
  · split
    · exact keepsPace_next (by simp)
    · exact keepsPace_next (by simp [hk])

/-! What changes a port's ways, or the module's number, leaves the rest alone. -/

@[simp] theorem State.booted_kept (s : State) {k : State → State} (hk : (k s).calm.kept = s.calm.kept) :
    (s.booted k).calm.kept = s.calm.kept := by
  unfold State.booted
  split
  · rfl
  · exact hk

@[simp] theorem State.retrain_kept (s : State) (port : Fin 20) : (s.retrain port).calm.kept = s.calm.kept := rfl

@[simp] theorem State.portUp_kept (s : State) (port : Fin 20) (flight : BitVec 8) (neigh : BitVec 11) (nport : BitVec 5) :
    (s.portUp port flight neigh nport).calm.kept = s.calm.kept := rfl

@[simp] theorem State.dropQueues_kept (s : State) (port : Fin 20) : (s.dropQueues port).calm.kept = s.calm.kept := by
  unfold State.dropQueues
  dsimp only
  refine (State.foldl_kept (fun s e => by simp) _ _).trans ?_
  split <;> simp

@[simp] theorem State.takeFlit_kept (s : State) (port : Fin 20) (f : Flit) : (s.takeFlit port f).calm.kept = s.calm.kept := by
  unfold State.takeFlit
  extract_lets got
  have hgot : ∀ fs, (got fs).calm.kept = s.calm.kept := fun fs => by
    simp only [got]
    split <;> simp
  clear_value got
  split
  · rfl
  · split <;> simp
  · exact hgot _
  · split
    · rfl
    · exact hgot _

@[simp] theorem State.writePortCtl_kept (s : State) (port : Fin 20) (v : Word) :
    (s.writePortCtl port v).calm.kept = s.calm.kept := by
  unfold State.writePortCtl
  dsimp only
  split <;> split <;> simp

@[simp] theorem State.writeFabId_kept (s : State) (v : Word) : (s.writeFabId v).calm.kept = s.calm.kept := by
  unfold State.writeFabId
  split <;> rfl

@[simp] theorem State.sendCycle_kept (s : State) (n : Fin 20) : (s.sendCycle n).calm.kept = s.calm.kept := by
  unfold State.sendCycle
  dsimp only
  split
  · rfl
  · split <;> simp

@[simp] theorem State.linkCycle_kept (s : State) : s.linkCycle.calm.kept = s.calm.kept := by
  unfold State.linkCycle
  split
  · exact State.foldl_kept State.sendCycle_kept _ _
  · rfl

/-! A check that a slot makes goes on with the rest, or refuses. -/

section
variable {α : Type} {d : Calm} {s : State} {r : SlotRes α}

theorem need_keeps {b : Bool} {c : Cause} {info : Word} (hr : r.calm d = d) : (need s b c info r).calm d = d := by
  simp [hr]

theorem needFootprint_keeps {rs : List EngRange} (hr : r.calm d = d) : (needFootprint s rs r).calm d = d := by
  simp [hr]

end

/-! ### Transfers of control -/

theorem execBr_pace (o : Off) (s : State) : KeepsPace s (execBr o s) :=
  keepsPace_finish (rfl)

theorem execBeqz_pace (a : SSpec) (o : Off) (s : State) : KeepsPace s (execBeqz a o s) :=
  keepsPace_finish (branchOn_calm ..)

theorem execBnez_pace (a : SSpec) (o : Off) (s : State) : KeepsPace s (execBnez a o s) :=
  keepsPace_finish (branchOn_calm ..)

theorem execBltz_pace (a : SSpec) (o : Off) (s : State) : KeepsPace s (execBltz a o s) :=
  keepsPace_finish (branchOn_calm ..)

theorem execBgez_pace (a : SSpec) (o : Off) (s : State) : KeepsPace s (execBgez a o s) :=
  keepsPace_finish (branchOn_calm ..)

theorem execBmz_pace (o : Off) (s : State) : KeepsPace s (execBmz o s) := by
  refine keepsPace_finish ?_
  simp

theorem execBmnz_pace (o : Off) (s : State) : KeepsPace s (execBmnz o s) := by
  refine keepsPace_finish ?_
  simp

theorem execLoop_pace (n : Fin 16) (o : Off) (s : State) : KeepsPace s (execLoop n o s) := by
  refine keepsPace_finish (SlotRes.calm_bind (readS_calm _ _ _) fun x s => ?_)
  simp

theorem execCall_pace (o : Off) (s : State) : KeepsPace s (execCall o s) :=
  keepsPace_finish (doCall_calm ..)

theorem execCalli_pace (a : SSpec) (b : SOpnd) (w : WReg) (s : State) : KeepsPace s (execCalli a b w s) :=
  keepsPace_finish (SlotRes.calm_bind (readS_calm _ _ _) fun x s => SlotRes.calm_bind (readSO_calm _ _ _) fun y s =>
    doCall_calm ..)

theorem execJt_pace (a : SSpec) (b : SOpnd) (s : State) : KeepsPace s (execJt a b s) :=
  keepsPace_finish (SlotRes.calm_bind (readS_calm _ _ _) fun x s => SlotRes.calm_bind (readSO_calm _ _ _) fun y s => rfl)

theorem execRet_pace (a : SSpec) (s : State) : KeepsPace s (execRet a s) := by
  refine keepsPace_finish (SlotRes.calm_bind (readS_calm _ _ _) fun x s => ?_)
  simp

theorem execNop_pace (s : State) : KeepsPace s (execNop s) :=
  keepsPace_finish (rfl)

theorem execEndI_pace (s : State) : KeepsPace s (execEndI s) := by
  unfold execEndI
  dsimp only
  obtain ⟨t, ht, hpace⟩ := keepsPace_finish (s := s.upd fun k => { k with run := .ending })
    (r := .ok () ((s.upd fun k => { k with run := .ending }).leaveQuad s.issue.core)) (by simp)
  exact ⟨t, ht, hpace.trans (by simp)⟩

theorem execYield_pace (a : SSpec) (s : State) : KeepsPace s (execYield a s) := by
  refine keepsPace_finish (SlotRes.calm_bind (readS_calm _ _ _) fun x s => ?_)
  simp

theorem execTrap_pace (i : BitVec 13) (s : State) : KeepsPace s (execTrap i s) :=
  keepsPace_finish (rfl)

theorem execEret_pace (s : State) : KeepsPace s (execEret s) := by
  refine keepsPace_finish ?_
  simp

/-! ### Loads, stores and atomics -/

theorem execLd_pace (a : SSpec) (d : Disp) (w : WReg) (land : BitVec 10) (sz : LdSz) (s : State) :
    KeepsPace s (execLd a d w land sz s) := by
  refine keepsPace_finish (SlotRes.calm_bind (readS_calm _ _ _) fun x s => reach_calm fun t info => ?_)
  split
  · rfl
  · split
    · simp [ldRewindSpad_calm]
    · simp
  · simp
  · simp
  · rfl
  · split
    · exact ldRewindHbm_calm ..
    · simp
  · simp

theorem execSt_pace (a : SSpec) (d : Disp) (b : SSpec) (w : WReg) (na sp : Bool) (sz : StSz) (s : State) :
    KeepsPace s (execSt a d b w na sp sz s) := by
  refine keepsPace_finish (SlotRes.calm_bind (readS_calm _ _ _) fun x s => SlotRes.calm_bind (readS_calm _ _ _) fun y s =>
    reach_calm fun t info => ?_)
  split
  · rfl
  · split
    · split <;> simp [stRewind_calm, stTaped_calm]
    · split
      · exact stRewind_calm ..
      · exact stTaped_calm ..
  · split
    · simp
    · simp
    · simp
    · dsimp only
      split <;> simp

theorem execSpl_pace (a : SSpec) (off : BitVec 11) (s : State) : KeepsPace s (execSpl a off s) := by
  refine keepsPace_finish (SlotRes.calm_bind (readS_calm _ _ _) fun x s => ?_)
  simp

theorem execFil_pace (w : WReg) (off : BitVec 11) (s : State) : KeepsPace s (execFil w off s) := by
  refine keepsPace_finish ?_
  simp

theorem execAmo_pace (a : SSpec) (d : Disp) (b : SSpec) (w : WReg) (nr w32 : Bool) (op : AmoOp) (s : State) :
    KeepsPace s (execAmo a d b w nr w32 op s) :=
  keepsPace_finish (SlotRes.calm_bind (readS_calm _ _ _) fun x s => SlotRes.calm_bind (readS_calm _ _ _) fun y s => atomic_calm ..)

theorem execAmocas_pace (a : SSpec) (d : Disp) (b : SSpec) (w : WReg) (w32 : Bool) (e : SSpec) (s : State) :
    KeepsPace s (execAmocas a d b w w32 e s) :=
  keepsPace_finish (SlotRes.calm_bind (readS_calm _ _ _) fun x s => SlotRes.calm_bind (readS_calm _ _ _) fun y s =>
    SlotRes.calm_bind (readS_calm _ _ _) fun z s => atomic_calm ..)

theorem execFence_pace (scope : BitVec 4) (kind : BitVec 2) (s : State) : KeepsPace s (execFence scope kind s) := by
  refine keepsPace_finish ?_
  simp

/-! ### Polders -/

theorem execPolderPumpDone_pace (core : Fin 256) (polder : Fin 32) (lost : List (Fin 1024)) (s : State) :
    KeepsPace s (execPolderPumpDone core polder lost s) := by
  unfold execPolderPumpDone
  split
  · split
    · exact keepsPace_next rfl
    · dsimp only
      split
      next hp =>
        have hp := okCalm_state (State.pump_calm (s.findLost core polder lost) core polder) hp
        exact keepsPace_next (by simp [hp])
      · split
        · exact keepsPace_next (by simp)
        · exact keepsPace_next (by simp)
  · exact keepsPace_next rfl

/-! ### Messages, tags and barriers -/

theorem execMqrd_pace (a : SSpec) (w : WReg) (s : State) : KeepsPace s (execMqrd a w s) := by
  refine keepsPace_finish (SlotRes.calm_bind (readS_calm _ _ _) fun x s => ?_)
  simp

theorem execMqrel_pace (a : SSpec) (s : State) : KeepsPace s (execMqrel a s) := by
  refine keepsPace_finish (SlotRes.calm_bind (readS_calm _ _ _) fun x s => ?_)
  simp

theorem execCreditReturn_pace (s : State) : KeepsPace s (execCreditReturn s) := by
  unfold execCreditReturn
  dsimp only
  (repeat' split) <;> exact keepsPace_next (by simp)

theorem execMessageDelivery_pace (s : State) : KeepsPace s (execMessageDelivery s) := by
  unfold execMessageDelivery
  dsimp only
  split
  · exact keepsPace_next rfl
  next o _ =>
    split
    · split
      · exact keepsPace_next (by simp)
      · split
        · exact keepsPace_next (by simp)
        next hp =>
          have hp := okCalm_state (State.pump_calm s _ _) hp
          exact keepsPace_next (by simp [hp])
    · exact keepsPace_next rfl

theorem execTwait_pace (a : SSpec) (w : WReg) (s : State) : KeepsPace s (execTwait a w s) := by
  refine keepsPace_finish (SlotRes.calm_bind (readS_calm _ _ _) fun x s => ?_)
  split <;> simp [retireTags_calm]

theorem execTwany_pace (a : SSpec) (w : WReg) (s : State) : KeepsPace s (execTwany a w s) := by
  refine keepsPace_finish (SlotRes.calm_bind (readS_calm _ _ _) fun x s => ?_)
  dsimp only
  split <;> simp [retireTags_calm]

theorem execTffr_pace (a : SSpec) (w : WReg) (s : State) : KeepsPace s (execTffr a w s) := by
  refine keepsPace_finish (SlotRes.calm_bind (readS_calm _ _ _) fun x s => ?_)
  dsimp only
  (repeat' split) <;> simp

theorem execTclr_pace (a : SSpec) (s : State) : KeepsPace s (execTclr a s) :=
  keepsPace_finish (SlotRes.calm_bind (readS_calm _ _ _) fun x s => rfl)

theorem execBarrierApply_pace (s : State) : KeepsPace s (execBarrierApply s) := by
  unfold execBarrierApply
  dsimp only
  split
  · exact keepsPace_next rfl
  next o _ =>
    split
    · exact keepsPace_next (by simp)
    · split
      · exact keepsPace_next (by simp)
      · split
        · exact keepsPace_next (by simp)
        next hp =>
          have hp := okCalm_state (State.pumpAs_calm s _ _ _) hp
          split
          · exact keepsPace_next (by simp [hp])
          · exact keepsPace_next (by simp [hp])
    · exact keepsPace_next rfl

theorem execBinit_pace (a : SSpec) (b : SOpnd) (s : State) : KeepsPace s (execBinit a b s) := by
  refine keepsPace_finish (SlotRes.calm_bind (readS_calm _ _ _) fun x s => SlotRes.calm_bind (readSO_calm _ _ _) fun y s => ?_)
  simp only [needTag, needAddr, needBlock, needTable, barRef, needH]
  (repeat' split) <;> simp

theorem execBarr_pace (a : SSpec) (s : State) : KeepsPace s (execBarr a s) := by
  refine keepsPace_finish (SlotRes.calm_bind (readS_calm _ _ _) fun x s => ?_)
  simp only [needTag, needAddr, needBlock, needTable, barRef, needH]
  (repeat' split) <;> simp

theorem execBinv_pace (a : SSpec) (s : State) : KeepsPace s (execBinv a s) := by
  refine keepsPace_finish (SlotRes.calm_bind (readS_calm _ _ _) fun x s => ?_)
  simp only [needTag, needAddr, needBlock, needTable, barRef, needH]
  (repeat' split) <;> simp

theorem execBwait_pace (a : SSpec) (b : SOpnd) (w : WReg) (s : State) : KeepsPace s (execBwait a b w s) := by
  refine keepsPace_finish (SlotRes.calm_bind (readS_calm _ _ _) fun x s => SlotRes.calm_bind (readSO_calm _ _ _) fun y s => ?_)
  simp only [needTag, needAddr, needBlock, needTable, barRef, needH]
  (repeat' split) <;> simp

theorem execBtest_pace (a : SSpec) (b : SOpnd) (w : WReg) (s : State) : KeepsPace s (execBtest a b w s) := by
  refine keepsPace_finish (SlotRes.calm_bind (readS_calm _ _ _) fun x s => SlotRes.calm_bind (readSO_calm _ _ _) fun y s => ?_)
  simp only [needTag, needAddr, needBlock, needTable, barRef, needH]
  (repeat' split) <;> simp

/-! ### Streams -/

theorem execSbindRd_pace (a : SSpec) (off : BitVec 8) (i : Fin 8) (s : State) : KeepsPace s (execSbindRd a off i s) :=
  keepsPace_finish (SlotRes.calm_bind (readS_calm _ _ _) fun x s => doBind_calm ..)

theorem execSbindWr_pace (a : SSpec) (off : BitVec 8) (i : Fin 8) (s : State) : KeepsPace s (execSbindWr a off i s) :=
  keepsPace_finish (SlotRes.calm_bind (readS_calm _ _ _) fun x s => doBind_calm ..)

theorem execSunbind_pace (i : Fin 8) (s : State) : KeepsPace s (execSunbind i s) := by
  refine keepsPace_finish ?_
  simp

theorem execStreamRefill_pace (core : Fin 256) (stream : Fin 8) (s : State) :
    KeepsPace s (execStreamRefill core stream s) := by
  unfold execStreamRefill
  split <;> exact keepsPace_next (by simp)

theorem execStreamDrain_pace (core : Fin 256) (stream : Fin 8) (s : State) :
    KeepsPace s (execStreamDrain core stream s) := by
  unfold execStreamDrain
  split <;> exact keepsPace_next (by simp)

/-! ### CSRs -/

theorem execCsrr_pace (w : WReg) (c : BitVec 12) (s : State) : KeepsPace s (execCsrr w c s) := by
  refine keepsPace_finish ?_
  (repeat' split) <;> simp

theorem execCsrw_pace (a : SSpec) (c : BitVec 12) (s : State) : KeepsPace s (execCsrw a c s) :=
  keepsPace_finish (SlotRes.calm_bind (readS_calm _ _ _) fun x s => csrWrite_calm ..)

theorem execLnch_pace (a : SSpec) (w : WReg) (s : State) : KeepsPace s (execLnch a w s) := by
  refine keepsPace_finish (SlotRes.calm_bind (readS_calm _ _ _) fun x s => ?_)
  dsimp only
  (repeat' split) <;> simp

theorem execDmodeFwd_pace (s : State) : KeepsPace s (execDmodeFwd s) :=
  keepsPace_finish (setMode_calm ..)

theorem execDmodeRew_pace (s : State) : KeepsPace s (execDmodeRew s) :=
  keepsPace_finish (setMode_calm ..)

theorem execAdjrd_pace (a : SSpec) (b : SOpnd) (w : WReg) (sp : Bool) (s : State) : KeepsPace s (execAdjrd a b w sp s) :=
  keepsPace_finish (SlotRes.calm_bind (readS_calm _ _ _) fun x s => SlotRes.calm_bind (readSO_calm _ _ _) fun y s =>
    adjAccess_calm ..)

theorem execAdjclr_pace (a : SSpec) (b : SOpnd) (w : WReg) (sp : Bool) (s : State) :
    KeepsPace s (execAdjclr a b w sp s) :=
  keepsPace_finish (SlotRes.calm_bind (readS_calm _ _ _) fun x s => SlotRes.calm_bind (readSO_calm _ _ _) fun y s =>
    adjAccess_calm ..)

/-! ### Vector results -/

theorem vun_pace (s : State) (a : VSpec) (t : Ty) (lat : Nat) (f : Vec → Nat → Except Cause Nat) :
    KeepsPace s (vun s a t lat f) :=
  keepsPace_finish (SlotRes.calm_bind (readV_calm _ _ _ _) fun x s => vdone_calm ..)

theorem vbin_pace (s : State) (a : VSpec) (b : VOpnd) (t : Ty) (lat : Nat) (f : Vec → Vec → Nat → Except Cause Nat) :
    KeepsPace s (vbin s a b t lat f) :=
  keepsPace_finish (SlotRes.calm_bind (readV_calm _ _ _ _) fun x s => SlotRes.calm_bind (readVO_calm _ _ _) fun y s =>
    vdone_calm ..)

theorem vter_pace (s : State) (a : VSpec) (b : VOpnd) (c : VSpec) (t : Ty) (lat : Nat) (f : Vec → Vec → Vec → Nat → Except Cause Nat) :
    KeepsPace s (vter s a b c t lat f) :=
  keepsPace_finish (SlotRes.calm_bind (readV_calm _ _ _ _) fun x s => SlotRes.calm_bind (readVO_calm _ _ _) fun y s =>
    SlotRes.calm_bind (readV_calm _ _ _ _) fun z s => vdone_calm ..)

theorem execVadd_pace (a : VSpec) (b : VOpnd) (t : Ty) (p : BitVec 2) (s : State) : KeepsPace s (execVadd a b t p s) := by
  unfold execVadd
  split
  · exact keepsPace_finish (SlotRes.calm_bind (readV_calm _ _ _ _) fun x s => SlotRes.calm_bind (readVO_calm _ _ _) fun y s =>
      vdone_calm ..)
  · exact (vbin_calm ..).pace

theorem execVsub_pace (a : VSpec) (b : VOpnd) (t : Ty) (p : BitVec 2) (s : State) : KeepsPace s (execVsub a b t p s) := by
  unfold execVsub
  split
  · exact keepsPace_finish (SlotRes.calm_bind (readV_calm _ _ _ _) fun x s => SlotRes.calm_bind (readVO_calm _ _ _) fun y s =>
      vdone_calm ..)
  · exact (vbin_calm ..).pace

theorem execVmul_pace (a : VSpec) (b : VOpnd) (t : Ty) (p : BitVec 2) (s : State) : KeepsPace s (execVmul a b t p s) :=
  (vbin_calm ..).pace

theorem execVfma_pace (a : VSpec) (b : VOpnd) (c : VSpec) (t : Ty) (p : BitVec 2) (s : State) :
    KeepsPace s (execVfma a b c t p s) :=
  (vter_calm ..).pace

theorem execVfms_pace (a : VSpec) (b : VOpnd) (c : VSpec) (t : Ty) (p : BitVec 2) (s : State) :
    KeepsPace s (execVfms a b c t p s) :=
  (vter_calm ..).pace

theorem execVfnma_pace (a : VSpec) (b : VOpnd) (c : VSpec) (t : Ty) (p : BitVec 2) (s : State) :
    KeepsPace s (execVfnma a b c t p s) :=
  (vter_calm ..).pace

theorem execVdiv_pace (a : VSpec) (b : VOpnd) (t : Ty) (p : BitVec 2) (s : State) : KeepsPace s (execVdiv a b t p s) :=
  (vbin_calm ..).pace

theorem execVsqrt_pace (a : VSpec) (t : Ty) (p : BitVec 2) (s : State) : KeepsPace s (execVsqrt a t p s) :=
  (vun_calm ..).pace

theorem execVrsq_pace (a : VSpec) (t : Ty) (p : BitVec 2) (s : State) : KeepsPace s (execVrsq a t p s) :=
  (vun_calm ..).pace

theorem execVrcp_pace (a : VSpec) (t : Ty) (p : BitVec 2) (s : State) : KeepsPace s (execVrcp a t p s) :=
  (vun_calm ..).pace

theorem execVexp2_pace (a : VSpec) (t : Ty) (p : BitVec 2) (s : State) : KeepsPace s (execVexp2 a t p s) :=
  (vun_calm ..).pace

theorem execVlog2_pace (a : VSpec) (t : Ty) (p : BitVec 2) (s : State) : KeepsPace s (execVlog2 a t p s) :=
  (vun_calm ..).pace

theorem execVmin_pace (a : VSpec) (b : VOpnd) (t : Ty) (s : State) : KeepsPace s (execVmin a b t s) :=
  (vbin_calm ..).pace

theorem execVmax_pace (a : VSpec) (b : VOpnd) (t : Ty) (s : State) : KeepsPace s (execVmax a b t s) :=
  (vbin_calm ..).pace

theorem execVabs_pace (a : VSpec) (t : Ty) (p : BitVec 2) (s : State) : KeepsPace s (execVabs a t p s) :=
  (vun_calm ..).pace

theorem execVneg_pace (a : VSpec) (t : Ty) (p : BitVec 2) (s : State) : KeepsPace s (execVneg a t p s) :=
  (vun_calm ..).pace

theorem execVcps_pace (a : VSpec) (b : VOpnd) (t : Ty) (s : State) : KeepsPace s (execVcps a b t s) :=
  (vbin_calm ..).pace

theorem execVand_pace (a : VSpec) (b : VOpnd) (t : Ty) (s : State) : KeepsPace s (execVand a b t s) :=
  (vbits_calm ..).pace

theorem execVor_pace (a : VSpec) (b : VOpnd) (t : Ty) (s : State) : KeepsPace s (execVor a b t s) :=
  (vbits_calm ..).pace

theorem execVxor_pace (a : VSpec) (b : VOpnd) (t : Ty) (s : State) : KeepsPace s (execVxor a b t s) :=
  (vbits_calm ..).pace

theorem execVnot_pace (a : VSpec) (t : Ty) (s : State) : KeepsPace s (execVnot a t s) :=
  (vun_calm ..).pace

theorem execVshl_pace (a : VSpec) (b : VOpnd) (t : Ty) (s : State) : KeepsPace s (execVshl a b t s) :=
  (vshift_calm ..).pace

theorem execVshr_pace (a : VSpec) (b : VOpnd) (t : Ty) (s : State) : KeepsPace s (execVshr a b t s) :=
  (vshift_calm ..).pace

theorem execVsra_pace (a : VSpec) (b : VOpnd) (t : Ty) (s : State) : KeepsPace s (execVsra a b t s) :=
  (vshift_calm ..).pace

theorem execVmulh_pace (a : VSpec) (b : VOpnd) (t : Ty) (s : State) : KeepsPace s (execVmulh a b t s) :=
  (vbin_calm ..).pace

theorem execVcmp_pace (a : VSpec) (b : VOpnd) (c : Cond) (t : Ty) (s : State) : KeepsPace s (execVcmp a b c t s) :=
  keepsPace_finish (SlotRes.calm_bind (readV_calm _ _ _ _) fun x s => SlotRes.calm_bind (readVO_calm _ _ _) fun y s =>
    vdone_calm ..)

theorem execVsel_pace (a : VSpec) (b : VOpnd) (c : VSpec) (t : Ty) (s : State) : KeepsPace s (execVsel a b c t s) :=
  keepsPace_finish (SlotRes.calm_bind (readV_calm _ _ _ _) fun x s => SlotRes.calm_bind (readVO_calm _ _ _) fun y s =>
    SlotRes.calm_bind (readV_calm _ _ _ _) fun z s => vdone_calm ..)

theorem execVclass_pace (a : VSpec) (t : Ty) (s : State) : KeepsPace s (execVclass a t s) :=
  keepsPace_finish (SlotRes.calm_bind (readV_calm _ _ _ _) fun x s => vdone_calm ..)

/-! ### Conversions and movement -/

theorem execVcvt_pace (a : VSpec) (td : Ty) (pol : Pol) (m : Rm) (ts : Ty) (s : State) :
    KeepsPace s (execVcvt a td pol m ts s) :=
  keepsPace_finish (SlotRes.calm_bind (readV_calm _ _ _ _) fun x s => vdone_calm ..)

theorem execVpack_pace (a : VSpec) (b : VOpnd) (g : Fin 8) (s : State) : KeepsPace s (execVpack a b g s) :=
  keepsPace_finish (SlotRes.calm_bind (readV_calm _ _ _ _) fun x s => SlotRes.calm_bind (readVO_calm _ _ _) fun y s => rfl)

theorem execVunpk_pace (a : VSpec) (g : Fin 8) (s : State) : KeepsPace s (execVunpk a g s) :=
  keepsPace_finish (SlotRes.calm_bind (readV_calm _ _ _ _) fun x s => rfl)

theorem execVscl_pace (a : VSpec) (b : VOpnd) (t : Ty) (p : BitVec 2) (s : State) : KeepsPace s (execVscl a b t p s) :=
  keepsPace_finish (SlotRes.calm_bind (readV_calm _ _ _ _) fun x s => SlotRes.calm_bind (readVO_calm _ _ _) fun y s =>
    vdone_calm ..)

theorem execVanc_pace (a : VSpec) (b : VOpnd) (t : Ty) (p : BitVec 2) (s : State) : KeepsPace s (execVanc a b t p s) :=
  keepsPace_finish (SlotRes.calm_bind (readV_calm _ _ _ _) fun x s => SlotRes.calm_bind (readVO_calm _ _ _) fun y s =>
    vdone_calm ..)

theorem execVdanc_pace (a : VSpec) (b : VOpnd) (t : Ty) (p : BitVec 2) (s : State) : KeepsPace s (execVdanc a b t p s) :=
  keepsPace_finish (SlotRes.calm_bind (readV_calm _ _ _ _) fun x s => SlotRes.calm_bind (readVO_calm _ _ _) fun y s =>
    vdone_calm ..)

theorem execVqdec_pace (a : VSpec) (b : VOpnd) (c : VSpec) (t : Ty) (p : BitVec 2) (s : State) :
    KeepsPace s (execVqdec a b c t p s) :=
  keepsPace_finish (SlotRes.calm_bind (readV_calm _ _ _ _) fun x s => SlotRes.calm_bind (readVO_calm _ _ _) fun y s =>
    SlotRes.calm_bind (readV_calm _ _ _ _) fun z s => vdone_calm ..)

theorem execVbcst_pace (a : VSpec) (t : Ty) (s : State) : KeepsPace s (execVbcst a t s) :=
  keepsPace_finish (SlotRes.calm_bind (readV_calm _ _ _ _) fun x s => vdone_calm ..)

theorem execViota_pace (a : VSpec) (t : Ty) (s : State) : KeepsPace s (execViota a t s) :=
  (vun_calm ..).pace

theorem execVperm_pace (a : VSpec) (b : VOpnd) (t : Ty) (s : State) : KeepsPace s (execVperm a b t s) :=
  keepsPace_finish (SlotRes.calm_bind (readV_calm _ _ _ _) fun x s => SlotRes.calm_bind (readVO_calm _ _ _) fun y s =>
    vdone_calm ..)

theorem execVext_pace (a : VSpec) (b : VOpnd) (t : Ty) (s : State) : KeepsPace s (execVext a b t s) :=
  keepsPace_finish (SlotRes.calm_bind (readV_calm _ _ _ _) fun x s => SlotRes.calm_bind (readVO_calm _ _ _) fun y s =>
    vdone_calm ..)

theorem execVslide_pace (a : VSpec) (b : VOpnd) (c : VSpec) (t : Ty) (s : State) : KeepsPace s (execVslide a b c t s) :=
  keepsPace_finish (SlotRes.calm_bind (readV_calm _ _ _ _) fun x s => SlotRes.calm_bind (readVO_calm _ _ _) fun y s =>
    SlotRes.calm_bind (readV_calm _ _ _ _) fun z s => vdone_calm ..)

theorem execVzip_pace (a : VSpec) (b : VOpnd) (t : Ty) (hi : Bool) (s : State) : KeepsPace s (execVzip a b t hi s) :=
  keepsPace_finish (SlotRes.calm_bind (readV_calm _ _ _ _) fun x s => SlotRes.calm_bind (readVO_calm _ _ _) fun y s =>
    vdone_calm ..)

theorem execVunzip_pace (a : VSpec) (b : VOpnd) (t : Ty) (hi : Bool) (s : State) : KeepsPace s (execVunzip a b t hi s) :=
  keepsPace_finish (SlotRes.calm_bind (readV_calm _ _ _ _) fun x s => SlotRes.calm_bind (readVO_calm _ _ _) fun y s =>
    vdone_calm ..)

theorem execVmov_pace (a : VSpec) (n : Fin 16) (t : Ty) (s : State) : KeepsPace s (execVmov a n t s) := by
  refine keepsPace_finish (SlotRes.calm_bind (readV_calm _ _ _ _) fun x s => ?_)
  dsimp only
  (repeat' split) <;> simp

theorem execVsw_pace (a : VSpec) (n : Fin 8) (t : Ty) (s : State) : KeepsPace s (execVsw a n t s) :=
  keepsPace_finish (SlotRes.calm_bind (readV_calm _ _ _ _) fun x s => pushStream_calm ..)

theorem execVrsum_pace (a : VSpec) (t : Ty) (p : BitVec 2) (s : State) : KeepsPace s (execVrsum a t p s) :=
  keepsPace_finish (SlotRes.calm_bind (readV_calm _ _ _ _) fun x s => vdone_calm ..)

theorem execVdot_pace (a : VSpec) (b : VOpnd) (t : Ty) (p : BitVec 2) (s : State) : KeepsPace s (execVdot a b t p s) :=
  keepsPace_finish (SlotRes.calm_bind (readV_calm _ _ _ _) fun x s => SlotRes.calm_bind (readVO_calm _ _ _) fun y s =>
    vdone_calm ..)

theorem execVrmax_pace (a : VSpec) (t : Ty) (s : State) : KeepsPace s (execVrmax a t s) :=
  keepsPace_finish (SlotRes.calm_bind (readV_calm _ _ _ _) fun x s => vdone_calm ..)

theorem execVrmin_pace (a : VSpec) (t : Ty) (s : State) : KeepsPace s (execVrmin a t s) :=
  keepsPace_finish (SlotRes.calm_bind (readV_calm _ _ _ _) fun x s => vdone_calm ..)

theorem execVscan_pace (a : VSpec) (t : Ty) (p : BitVec 2) (s : State) : KeepsPace s (execVscan a t p s) :=
  keepsPace_finish (SlotRes.calm_bind (readV_calm _ _ _ _) fun x s => vdone_calm ..)

theorem execMpush_pace (a : VSpec) (t : Ty) (s : State) : KeepsPace s (execMpush a t s) := by
  refine keepsPace_finish (SlotRes.calm_bind (readV_calm _ _ _ _) fun x s => ?_)
  simp

theorem execMset_pace (a : VSpec) (t : Ty) (s : State) : KeepsPace s (execMset a t s) := by
  refine keepsPace_finish (SlotRes.calm_bind (readV_calm _ _ _ _) fun x s => ?_)
  (repeat' split) <;> simp

theorem execMinv_pace (s : State) : KeepsPace s (execMinv s) := by
  refine keepsPace_finish ?_
  (repeat' split) <;> simp

theorem execMpop_pace (s : State) : KeepsPace s (execMpop s) := by
  refine keepsPace_finish ?_
  (repeat' split) <;> simp

/-! ### The matrix engine -/

theorem execMatrixOpComplete_pace (s : State) : KeepsPace s (execMatrixOpComplete s) := by
  unfold execMatrixOpComplete
  exact keepsPace_next (by simp)

theorem execMdrainGroupPush_pace (s : State) : KeepsPace s (execMdrainGroupPush s) := by
  unfold execMdrainGroupPush
  exact keepsPace_next (by simp)

theorem execMatrixIntCode_pace (s : State) : KeepsPace s (execMatrixIntCode s) := by
  unfold execMatrixIntCode
  exact keepsPace_next (by simp)

theorem execMfmtEffect_pace (s : State) : KeepsPace s (execMfmtEffect s) := by
  unfold execMfmtEffect
  exact keepsPace_next (by simp)

theorem execMop_pace (z a b : Fin 8) (k : BitVec 8) (neg : Bool) (s : State) : KeepsPace s (execMop z a b k neg s) :=
  keepsPace_finish (issueOuter_calm ..)

theorem execMopz_pace (z a b : Fin 8) (k : BitVec 8) (neg : Bool) (s : State) : KeepsPace s (execMopz z a b k neg s) :=
  keepsPace_finish (issueOuter_calm ..)

theorem execMr1_pace (z a b : Fin 8) (k : BitVec 8) (neg : Bool) (s : State) : KeepsPace s (execMr1 z a b k neg s) :=
  keepsPace_finish (issueOuter_calm ..)

theorem execMr1z_pace (z a b : Fin 8) (k : BitVec 8) (neg : Bool) (s : State) : KeepsPace s (execMr1z z a b k neg s) :=
  keepsPace_finish (issueOuter_calm ..)

theorem execMzero_pace (z : Fin 8) (s : State) : KeepsPace s (execMzero z s) :=
  keepsPace_finish (enqueue_calm ..)

theorem execMacc_pace (z y : Fin 8) (neg : Bool) (s : State) : KeepsPace s (execMacc z y neg s) :=
  keepsPace_finish (by simp [enqueue_calm])

theorem execMscl_pace (z : Fin 8) (e : BitVec 7) (s : State) : KeepsPace s (execMscl z e s) :=
  keepsPace_finish (enqueue_calm ..)

theorem execMdrain_pace (z : Fin 8) (q : Fin 2) (pol : Pol) (clr : Bool) (m : Rm) (first rows : BitVec 4) (t : Ty) (s : State) :
    KeepsPace s (execMdrain z q pol clr m first rows t s) :=
  keepsPace_finish (enqueue_calm ..)

theorem execMfmt_pace (v : BitVec 7) (s : State) : KeepsPace s (execMfmt v s) :=
  keepsPace_finish (rfl)

theorem execMsave_pace (z : Fin 8) (h : Bool) (p : Fin 32) (s : State) : KeepsPace s (execMsave z h p s) :=
  keepsPace_finish (issueSave_calm ..)

theorem execMload_pace (z : Fin 8) (h : Bool) (p : Fin 32) (s : State) : KeepsPace s (execMload z h p s) :=
  keepsPace_finish (issueSave_calm ..)

theorem execMfence_pace (s : State) : KeepsPace s (execMfence s) := by
  refine keepsPace_finish ?_
  simp

/-! ### Copies -/

theorem execCpy_pace (g : Fin 64) (a b : SSpec) (c : SOpnd) (s : State) : KeepsPace s (execCpy g a b c s) := by
  refine keepsPace_finish (SlotRes.calm_bind (readS_calm _ _ _) fun x s => SlotRes.calm_bind (readS_calm _ _ _) fun y s =>
    SlotRes.calm_bind (readSO_calm _ _ _) fun z s => ?_)
  simp [needTag, needAddr, needBlock, issueCopy_calm]

theorem execCpyp_pace (g : Fin 64) (a b : SSpec) (c : SOpnd) (s : State) : KeepsPace s (execCpyp g a b c s) := by
  refine keepsPace_finish (SlotRes.calm_bind (readS_calm _ _ _) fun x s => SlotRes.calm_bind (readS_calm _ _ _) fun y s =>
    SlotRes.calm_bind (readSO_calm _ _ _) fun z s => ?_)
  simp [needTag, needAddr, needBlock, issueCopy_calm]

theorem execCstrp_pace (g : Fin 64) (a b : SSpec) (c : SOpnd) (s : State) : KeepsPace s (execCstrp g a b c s) := by
  refine keepsPace_finish (SlotRes.calm_bind (readS_calm _ _ _) fun x s => SlotRes.calm_bind (readS_calm _ _ _) fun y s =>
    SlotRes.calm_bind (readSO_calm _ _ _) fun z s => ?_)
  simp [needTag, needAddr, needBlock, issueCopy_calm]

theorem execCfill_pace (g : Fin 64) (a b : SSpec) (c : SOpnd) (s : State) : KeepsPace s (execCfill g a b c s) := by
  refine keepsPace_finish (SlotRes.calm_bind (readS_calm _ _ _) fun x s => SlotRes.calm_bind (readS_calm _ _ _) fun y s =>
    SlotRes.calm_bind (readSO_calm _ _ _) fun z s => ?_)
  simp [needTag, needAddr, needBlock, needTable, barRef, needH]

theorem execCzero_pace (g : Fin 64) (a : SSpec) (c : SOpnd) (s : State) : KeepsPace s (execCzero g a c s) := by
  refine keepsPace_finish (SlotRes.calm_bind (readS_calm _ _ _) fun x s => SlotRes.calm_bind (readSO_calm _ _ _) fun z s => ?_)
  simp [needTag, needAddr, needBlock, needTable, barRef, needH]

theorem execCpref_pace (a : SSpec) (c : SOpnd) (s : State) : KeepsPace s (execCpref a c s) := by
  refine keepsPace_finish (SlotRes.calm_bind (readS_calm _ _ _) fun x s => SlotRes.calm_bind (readSO_calm _ _ _) fun z s => ?_)
  simp only [needTag, needAddr, needBlock, needTable, barRef, needH]
  (repeat' split) <;> simp

theorem execCflush_pace (g : Fin 64) (a : SSpec) (c : SOpnd) (s : State) : KeepsPace s (execCflush g a c s) := by
  refine keepsPace_finish (SlotRes.calm_bind (readS_calm _ _ _) fun x s => SlotRes.calm_bind (readSO_calm _ _ _) fun z s => ?_)
  simp [needTag, needAddr, needBlock, needTable, barRef, needH]

theorem execCtld_pace (g : Fin 64) (n : Fin 8) (b : SSpec) (c : SOpnd) (s : State) :
    KeepsPace s (execCtld g n b c s) := by
  refine keepsPace_finish (SlotRes.calm_bind (readS_calm _ _ _) fun y s => SlotRes.calm_bind (readSO_calm _ _ _) fun z s =>
    needTag_calm (tileChecks_calm fun cfg => ?_))
  split <;> simp

theorem execCtst_pace (g : Fin 64) (n : Fin 8) (b : SSpec) (c : SOpnd) (s : State) :
    KeepsPace s (execCtst g n b c s) := by
  refine keepsPace_finish (SlotRes.calm_bind (readS_calm _ _ _) fun y s => SlotRes.calm_bind (readSO_calm _ _ _) fun z s =>
    needTag_calm (tileChecks_calm fun cfg => ?_))
  dsimp only
  split
  · rfl
  · simp
  · split
    · exact ctstRewind_calm ..
    · split <;> simp

theorem execCqst_pace (g : Fin 64) (q : Fin 2) (b : SSpec) (c : SOpnd) (s : State) :
    KeepsPace s (execCqst g q b c s) := by
  refine keepsPace_finish (SlotRes.calm_bind (readS_calm _ _ _) fun y s => SlotRes.calm_bind (readSO_calm _ _ _) fun z s =>
    needTag_calm (needAddr_calm fun e => need_keeps (need_keeps (need_keeps (needFootprint_keeps (need_keeps ?_))))))
  dsimp only
  split
  · rfl
  · simp
  · cases hres : reserveReel s s.issue.core (recordsSize (qstRanges y z)) <;> simp [cqstRewind_calm]

/-! ### Messages and signals -/

theorem execCmsg_pace (g : Fin 64) (a b : SSpec) (s : State) : KeepsPace s (execCmsg g a b s) := by
  refine keepsPace_finish (SlotRes.calm_bind (readS_calm _ _ _) fun x s => SlotRes.calm_bind (readS_calm _ _ _) fun y s => ?_)
  simp only [needTag, needAddr, needBlock, needTable, barRef, needH]
  (repeat' split) <;> simp

theorem execMsat_pace (g : Fin 64) (a b : SSpec) (c : SOpnd) (s : State) : KeepsPace s (execMsat g a b c s) := by
  refine keepsPace_finish (SlotRes.calm_bind (readS_calm _ _ _) fun x s => SlotRes.calm_bind (readS_calm _ _ _) fun y s =>
    SlotRes.calm_bind (readSO_calm _ _ _) fun z s => ?_)
  simp [needTag, needAddr, needBlock, needTable, barRef, needH]

theorem execHsig_pace (a b : SSpec) (c : SOpnd) (s : State) : KeepsPace s (execHsig a b c s) := by
  refine keepsPace_finish (SlotRes.calm_bind (readS_calm _ _ _) fun x s => SlotRes.calm_bind (readS_calm _ _ _) fun y s =>
    SlotRes.calm_bind (readSO_calm _ _ _) fun z s => ?_)
  simp [needTag, needAddr, needBlock, needTable, barRef, needH]

/-! ### Packets of commands -/

theorem execFwr_pace (g : Fin 64) (a b : SSpec) (c : SOpnd) (s : State) : KeepsPace s (execFwr g a b c s) := by
  refine keepsPace_finish (SlotRes.calm_bind (readS_calm _ _ _) fun x s => SlotRes.calm_bind (readS_calm _ _ _) fun y s =>
    SlotRes.calm_bind (readSO_calm _ _ _) fun z s => ?_)
  simp [needTag, needAddr, needBlock, startFabric_calm]

theorem execFamo_pace (g : Fin 64) (a b : SSpec) (c : SOpnd) (s : State) : KeepsPace s (execFamo g a b c s) := by
  refine keepsPace_finish (SlotRes.calm_bind (readS_calm _ _ _) fun x s => SlotRes.calm_bind (readS_calm _ _ _) fun y s =>
    SlotRes.calm_bind (readSO_calm _ _ _) fun z s => ?_)
  simp [needTag, needAddr, needBlock, startFabric_calm]

theorem execFreq_pace (g : Fin 64) (a b : SSpec) (c : SOpnd) (s : State) : KeepsPace s (execFreq g a b c s) := by
  refine keepsPace_finish (SlotRes.calm_bind (readS_calm _ _ _) fun x s => SlotRes.calm_bind (readS_calm _ _ _) fun y s =>
    SlotRes.calm_bind (readSO_calm _ _ _) fun z s => ?_)
  simp [needTag, needAddr, needBlock, startFabric_calm]

theorem execFlnch_pace (g : Fin 64) (a : SSpec) (c : SOpnd) (s : State) : KeepsPace s (execFlnch g a c s) := by
  refine keepsPace_finish (SlotRes.calm_bind (readS_calm _ _ _) fun x s => SlotRes.calm_bind (readSO_calm _ _ _) fun z s => ?_)
  simp [needTag, needAddr, startFabric_calm]

theorem execFabricTimeout_pace (core : Fin 256) (dest : Fin 2048) (s : State) :
    KeepsPace s (execFabricTimeout core dest s) := by
  unfold execFabricTimeout
  extract_lets k d mine lost forget u v w
  have hw : w.calm = s.calm := State.mapCore_calm v core _
  clear_value w
  split
  · exact keepsPace_next rfl
  · refine keepsPace_next (congrArg (fun c : Calm => c.kept.pace) ?_)
    exact (State.foldl_calm (fun s r => by split <;> simp) lost w).trans hw

/-! ### Sequencers -/

theorem execTtset_pace (a b : SSpec) (s : State) : KeepsPace s (execTtset a b s) := by
  refine keepsPace_finish (SlotRes.calm_bind (readS_calm _ _ _) fun x s => SlotRes.calm_bind (readS_calm _ _ _) fun y s =>
    needBlock_calm fun d => needTable_calm (need_keeps ?_))
  exact (State.foldl_calm (fun s p => s.collArrive_calm _ p 20 fun _ => rfl) _ _).trans (by simp)

theorem execTrdy_pace (a : SSpec) (s : State) : KeepsPace s (execTrdy a s) := by
  refine keepsPace_finish (SlotRes.calm_bind (readS_calm _ _ _) fun x s => ?_)
  simp only [needTag, needAddr, needBlock, needTable, barRef, needH]
  (repeat' split) <;> simp

theorem execRcut_pace (a : SSpec) (s : State) : KeepsPace s (execRcut a s) := by
  refine keepsPace_finish (SlotRes.calm_bind (readS_calm _ _ _) fun x s => ?_)
  simp only [needTag, needAddr, needBlock, needTable, barRef, needH]
  (repeat' split) <;> simp

theorem execRpick_pace (a : SSpec) (s : State) : KeepsPace s (execRpick a s) := by
  refine keepsPace_finish (SlotRes.calm_bind (readS_calm _ _ _) fun x s => ?_)
  simp only [needTag, needAddr, needBlock, needTable, barRef, needH]
  (repeat' split) <;> simp

theorem execRstat_pace (w : WReg) (a : SSpec) (s : State) : KeepsPace s (execRstat w a s) := by
  refine keepsPace_finish (SlotRes.calm_bind (readS_calm _ _ _) fun x s => ?_)
  simp

theorem execCollDeadlineCut_pace (part : Fin 16) (entry : Fin 256) (s : State) :
    KeepsPace s (execCollDeadlineCut part entry s) := by
  unfold execCollDeadlineCut
  dsimp only
  (repeat' split) <;> exact keepsPace_next (by simp)

theorem execCutPacket_pace (s : State) : KeepsPace s (execCutPacket s) := by
  unfold execCutPacket
  dsimp only
  (repeat' split) <;> exact keepsPace_next (by simp)

theorem execSequencerStateSave_pace (port : Fin 20) (s : State) : KeepsPace s (execSequencerStateSave port s) := by
  unfold execSequencerStateSave
  dsimp only
  (repeat' split) <;> exact keepsPace_next (by simp)

/-! ### Packets that arrive -/

theorem execAckTimeout_pace (src : BitVec 11) (sfn _dfn : BitVec 8) (cls : BitVec 2) (s : State) :
    KeepsPace s (execAckTimeout src sfn _dfn cls s) := by
  unfold execAckTimeout
  dsimp only
  (repeat' split) <;> exact keepsPace_next (by simp)

theorem execAckPacket_pace (s : State) : KeepsPace s (execAckPacket s) := by
  refine onControl_pace fun c => State.foldl_calm (fun s i => ?_) _ _
  split
  next r t ht =>
    have ht : t.calm = s.calm := (congrArg (fun r => State.calm r.2) ht.symm :).trans (s.takeSent_calm _)
    simp [ht]
  next t ht => exact (congrArg (fun r => State.calm r.2) ht.symm :).trans (s.takeSent_calm _)

theorem execDropPacket_pace (s : State) : KeepsPace s (execDropPacket s) := by
  refine onControl_pace fun c => ?_
  dsimp only
  split
  next r t ht =>
    have ht : t.calm = s.calm := (congrArg (fun r => State.calm r.2) ht.symm :).trans (s.takeSent_calm _)
    simp [ht]
  next t ht => exact (congrArg (fun r => State.calm r.2) ht.symm :).trans (s.takeSent_calm _)

theorem execLrefusePacket_pace (s : State) : KeepsPace s (execLrefusePacket s) := by
  refine onControl_pace fun c => ?_
  dsimp only
  split
  · simp
  · rfl

theorem execDataPacketAccept_pace (port : Option (Fin 20)) (p : Packet) (s : State) :
    KeepsPace s (execDataPacketAccept port p s) := by
  unfold execDataPacketAccept
  exact keepsPace_next (by simp)

theorem execWritePacket_pace (s : State) : KeepsPace s (execWritePacket s) := by
  unfold execWritePacket
  exact keepsPace_next (by simp)

theorem execAtomicPacket_pace (s : State) : KeepsPace s (execAtomicPacket s) := by
  unfold execAtomicPacket
  exact keepsPace_next (by simp)

theorem execReqPacket_pace (s : State) : KeepsPace s (execReqPacket s) := by
  unfold execReqPacket
  exact keepsPace_next (by simp)

theorem execLaunchPacket_pace (s : State) : KeepsPace s (execLaunchPacket s) := by
  unfold execLaunchPacket
  exact keepsPace_next (by simp)

theorem execReducePacket_pace (s : State) : KeepsPace s (execReducePacket s) := by
  unfold execReducePacket
  exact keepsPace_next (by simp)

theorem execPickupPacket_pace (s : State) : KeepsPace s (execPickupPacket s) := by
  unfold execPickupPacket
  exact keepsPace_next (by simp)

theorem execPacketInject_pace (s : State) : KeepsPace s (execPacketInject s) := by
  unfold execPacketInject
  split
  next w _ =>
    have hsend := State.sendNow_calm { s with fabric := { s.fabric with held := s.fabric.held.erase w } } w
    split
    next t ht => exact keepsPace_next (congrArg (fun c : Calm => c.kept.pace) ((congrArg (fun r => State.calm r.1) ht.symm :).trans hsend))
    next t f ht =>
      have ht : t.calm = s.calm := (congrArg (fun r => State.calm r.1) ht.symm :).trans hsend
      exact keepsPace_next (by simp [ht])
  · split
    · exact keepsPace_next (by simp)
    · exact keepsPace_next rfl

theorem execPacketForward_pace (vc : Fin 6) (p : Packet) (s : State) : KeepsPace s (execPacketForward vc p s) := by
  unfold execPacketForward
  split <;> exact keepsPace_next (by simp)

theorem execLinkFrameReceive_pace (port : Fin 20) (f : Frame) (s : State) :
    KeepsPace s (execLinkFrameReceive port f s) := by
  unfold execLinkFrameReceive
  dsimp only
  (repeat' split) <;> (refine keepsPace_next ?_; simp)

theorem execLinkNakReceive_pace (port : Fin 20) (seq : BitVec 12) (s : State) :
    KeepsPace s (execLinkNakReceive port seq s) := by
  unfold execLinkNakReceive
  dsimp only
  (repeat' split) <;> exact keepsPace_next (by simp)

theorem execPortLossOfLock_pace (port : Fin 20) (s : State) : KeepsPace s (execPortLossOfLock port s) := by
  unfold execPortLossOfLock
  (refine keepsPace_next ?_; simp)

theorem execReplayLimit_pace (port : Fin 20) (s : State) : KeepsPace s (execReplayLimit port s) := by
  unfold execReplayLimit
  (refine keepsPace_next ?_; simp)

theorem execRetrainDone_pace (port : Fin 20) (ok : Bool) (flight : BitVec 8) (neigh : BitVec 11) (nport : BitVec 5) (s : State) :
    KeepsPace s (execRetrainDone port ok flight neigh nport s) := by
  unfold execRetrainDone
  (repeat' split) <;> (refine keepsPace_next ?_; simp)

theorem execLinkTrained_pace (port : Fin 20) (flight : BitVec 8) (neigh : BitVec 11) (nport : BitVec 5) (s : State) :
    KeepsPace s (execLinkTrained port flight neigh nport s) := by
  unfold execLinkTrained
  (refine keepsPace_next ?_; simp)

theorem execPortEnableWrite_pace (fn : Fn) (port : Fin 20) (v : Word) (s : State) :
    KeepsPace s (execPortEnableWrite fn port v s) := by
  unfold execPortEnableWrite
  (refine keepsPace_next ?_; simp)

theorem execPortRetrain_pace (fn : Fn) (port : Fin 20) (s : State) : KeepsPace s (execPortRetrain fn port s) := by
  unfold execPortRetrain
  (refine keepsPace_next ?_; simp)

theorem execFabIdWrite_pace (fn : Fn) (v : Word) (s : State) : KeepsPace s (execFabIdWrite fn v s) := by
  unfold execFabIdWrite
  (refine keepsPace_next ?_; simp)

theorem execRouteTableWrite_pace (fn : Fn) (dest : Fin 2048) (v : BitVec 32) (s : State) :
    KeepsPace s (execRouteTableWrite fn dest v s) := by
  unfold execRouteTableWrite
  (refine keepsPace_next ?_; simp)

theorem execControlDrop_pace (port : Fin 20) (s : State) : KeepsPace s (execControlDrop port s) := by
  unfold execControlDrop
  exact keepsPace_next (by simp)

/-! ### Near-bank runs -/

theorem execNbRunDequeue_pace (s : State) : KeepsPace s (execNbRunDequeue s) := by
  unfold execNbRunDequeue
  dsimp only
  (repeat' split) <;> exact keepsPace_next (by simp)

theorem execNbGuardDone_pace (s : State) : KeepsPace s (execNbGuardDone s) := by
  unfold execNbGuardDone
  dsimp only
  (repeat' split) <;> exact keepsPace_next (by simp)

theorem execNbRowBoundary_pace (s : State) : KeepsPace s (execNbRowBoundary s) := by
  unfold execNbRowBoundary
  dsimp only
  (repeat' split) <;> exact keepsPace_next (by simp)

theorem execNbSuspendDone_pace (s : State) : KeepsPace s (execNbSuspendDone s) := by
  unfold execNbSuspendDone
  dsimp only
  (repeat' split) <;> exact keepsPace_next (by simp)

theorem execNbWindowClose_pace (s : State) : KeepsPace s (execNbWindowClose s) := by
  unfold execNbWindowClose
  dsimp only
  (repeat' split) <;> exact keepsPace_next (by simp)

theorem execNbResumeDone_pace (s : State) : KeepsPace s (execNbResumeDone s) := by
  unfold execNbResumeDone
  dsimp only
  (repeat' split) <;> exact keepsPace_next (by simp)

theorem execNbTokensReady_pace (s : State) : KeepsPace s (execNbTokensReady s) := by
  unfold execNbTokensReady
  dsimp only
  (repeat' split) <;> exact keepsPace_next (by simp)

theorem execNbRunFinish_pace (s : State) : KeepsPace s (execNbRunFinish s) := by
  unfold execNbRunFinish
  dsimp only
  (repeat' split) <;> exact keepsPace_next (by simp)

theorem execNbld_pace (g : Fin 64) (a b : SSpec) (s : State) : KeepsPace s (execNbld g a b s) := by
  refine keepsPace_finish (SlotRes.calm_bind (readS_calm _ _ _) fun x s => SlotRes.calm_bind (readS_calm _ _ _) fun y s => ?_)
  simp [needTag, needAddr, needBlock, needTable, barRef, needH]

theorem execNbx_pace (g : Fin 64) (a : SSpec) (c : SOpnd) (s : State) : KeepsPace s (execNbx g a c s) := by
  refine keepsPace_finish (SlotRes.calm_bind (readS_calm _ _ _) fun x s => SlotRes.calm_bind (readSO_calm _ _ _) fun z s => ?_)
  simp [needTag, needAddr, needBlock, needTable, barRef, needH]

theorem execNbq_pace (w : WReg) (a b : SSpec) (s : State) : KeepsPace s (execNbq w a b s) := by
  refine keepsPace_finish (SlotRes.calm_bind (readS_calm _ _ _) fun x s => SlotRes.calm_bind (readS_calm _ _ _) fun y s => ?_)
  dsimp only
  (repeat' split) <;> simp

/-! ### Completions -/

theorem execCopyComplete_pace (core : Fin 256) (tag : Fin 64) (e : EngineEnd) (s : State) :
    KeepsPace s (execCopyComplete core tag e s) := by
  unfold execCopyComplete
  dsimp only
  (repeat' split) <;> exact keepsPace_next (by simp)

theorem execParkedRetry_pace (core : Fin 256) (tag : Fin 64) (s : State) : KeepsPace s (execParkedRetry core tag s) := by
  unfold execParkedRetry
  split <;> exact keepsPace_next (by simp)

/-! ### The host -/

theorem execSlate_pace (s : State) : KeepsPace s (execSlate s) := by
  refine keepsPace_command fun c => ?_
  dsimp only
  (repeat' split) <;> simp

theorem execAttest_pace (s : State) : KeepsPace s (execAttest s) := by
  refine keepsPace_command fun c => ?_
  simp

theorem execSummary_pace (s : State) : KeepsPace s (execSummary s) := by
  refine keepsPace_command fun c => ?_
  simp

theorem execSumctlGo_pace (fn : Fn) (s : State) : KeepsPace s (execSumctlGo fn s) := by
  unfold execSumctlGo
  (refine keepsPace_next ?_; simp)

theorem execQwidxWrite_pace (fn : Fn) (ring : Fin 64) (v : Word) (s : State) :
    KeepsPace s (execQwidxWrite fn ring v s) := by
  unfold execQwidxWrite
  (refine keepsPace_next ?_; simp)

theorem execRingEnable_pace (fn : Fn) (ring : Fin 64) (s : State) : KeepsPace s (execRingEnable fn ring s) := by
  unfold execRingEnable
  (refine keepsPace_next ?_; simp)

theorem execRingDisable_pace (fn : Fn) (ring : Fin 64) (s : State) : KeepsPace s (execRingDisable fn ring s) := by
  unfold execRingDisable
  (refine keepsPace_next ?_; simp)

theorem execRingBlockWrite_pace (fn : Fn) (ring : Fin 64) (off : Nat) (v : Word) (s : State) :
    KeepsPace s (execRingBlockWrite fn ring off v s) := by
  unfold execRingBlockWrite
  (refine keepsPace_next ?_; simp)

theorem execRingDrained_pace (fn : Fn) (ring : Fin 64) (s : State) : KeepsPace s (execRingDrained fn ring s) := by
  unfold execRingDrained
  split <;> exact keepsPace_next (by simp)

theorem execCommandFetch_pace (fn : Fn) (ring : Fin 64) (s : State) : KeepsPace s (execCommandFetch fn ring s) := by
  unfold execCommandFetch
  split
  · exact keepsPace_next rfl
  · dsimp only
    split
    · exact keepsPace_next (by simp)
    next hg => exact keepsPace_next (by simp [hostGet_calm hg])

theorem execCommandStart_pace (fn : Fn) (ring : Fin 64) (s : State) : KeepsPace s (execCommandStart fn ring s) := by
  unfold execCommandStart
  (repeat' split) <;> exact keepsPace_next (by simp)

theorem execCommandComplete_pace (fn : Fn) (ring : Fin 64) (idx : Nat) (s : State) :
    KeepsPace s (execCommandComplete fn ring idx s) := by
  unfold execCommandComplete
  split
  · exact keepsPace_next rfl
  · extract_lets r c phase irq
    split
    · split
      · exact keepsPace_next rfl
      · extract_lets u v w m x
        have hu : u.calm.kept.pace = s.calm.kept.pace := by
          simp only [u]
          split
          next h => exact congrArg (fun c : Calm => c.kept.pace) (hostPut_calm h)
          · simp
        clear_value u
        have hx : x.calm.kept.pace = s.calm.kept.pace := by
          have hm : m.calm.kept.pace = u.calm.kept.pace := by simp [m, w, v]
          simp [x, hm, hu]
        clear_value x
        exact keepsPace_next (by simp [hx])
    · exact keepsPace_next rfl

theorem execCommandNop_pace (s : State) : KeepsPace s (execCommandNop s) := by
  refine keepsPace_command fun c => ?_
  simp

theorem execLperm_pace (s : State) : KeepsPace s (execLperm s) := by
  refine keepsPace_command fun c => ?_
  simp

theorem execHdmmap_pace (s : State) : KeepsPace s (execHdmmap s) := by
  refine keepsPace_command fun c => ?_
  simp

theorem execHostBar2Access_pace (fn : Fn) (off : Nat) (a : HostAccess) (s : State) :
    KeepsPace s (execHostBar2Access fn off a s) := by
  unfold execHostBar2Access
  (repeat' split) <;> exact keepsPace_next (by simp)

theorem execHostCxlMemAccess_pace (hpa : Nat) (a : HostAccess) (s : State) :
    KeepsPace s (execHostCxlMemAccess hpa a s) := by
  unfold execHostCxlMemAccess
  split <;> exact keepsPace_next (by simp)

/-! ### The scheduler -/

theorem execPerfCounterUpdate_pace (part : Fin 16) (s : State) : KeepsPace s (execPerfCounterUpdate part s) := by
  unfold execPerfCounterUpdate
  exact keepsPace_next (by simp)

theorem execPeriodicSlate_pace (part : Fin 16) (s : State) : KeepsPace s (execPeriodicSlate part s) := by
  unfold execPeriodicSlate
  exact keepsPace_next (by simp)

theorem execCoreEnded_pace (s : State) : KeepsPace s (execCoreEnded s) := by
  unfold execCoreEnded
  dsimp only
  (repeat' split) <;> exact keepsPace_next (by simp)

theorem execSaveWriteback_pace (s : State) : KeepsPace s (execSaveWriteback s) := by
  unfold execSaveWriteback
  split <;> exact keepsPace_next (by simp)

theorem execDispatch_pace (part : Fin 16) (s : State) : KeepsPace s (execDispatch part s) := by
  unfold execDispatch
  dsimp only
  (repeat' split) <;> exact keepsPace_next (by simp)

theorem execLnchEntry_pace (part : Fin 16) (s : State) : KeepsPace s (execLnchEntry part s) := by
  unfold execLnchEntry
  split <;> exact keepsPace_next (by simp)

theorem execRegister_pace (s : State) : KeepsPace s (execRegister s) := by
  refine keepsPace_command fun c => ?_
  dsimp only
  split
  · simp
  · refine s.whenFree_pace _ c _ _ _ fun t => ?_
    split
    · simp
    next hg =>
      have hg := hostGet_calm hg
      split
      · simp [hg]
      · simp [hg]
      · split <;> simp [hg]

theorem execUnregister_pace (s : State) : KeepsPace s (execUnregister s) := by
  refine keepsPace_command fun c => ?_
  simp

theorem execLaunch_pace (s : State) : KeepsPace s (execLaunch s) := by
  refine keepsPace_command fun c => ?_
  extract_lets n size gang table
  split
  · simp
  · split
    · simp
    · extract_lets quads
      clear_value quads table
      split
      · simp
      · split
        · simp
        · split
          · simp
          · refine s.whenFree_pace _ c _ _ _ fun t => t.whenFree_pace _ c _ _ _ fun u => ?_
            split
            · simp
            next hg =>
              have hg := hostGet_calm hg
              split
              · simp [hg]
              next hg' => simp [hostGet_calm hg', hg]

theorem execHKernelLaunch_pace (s : State) : KeepsPace s (execHKernelLaunch s) := by
  refine keepsPace_command fun c => ?_
  dsimp only
  split
  · simp
  · split
    · simp
    · refine s.whenFree_pace _ c _ _ _ fun t => ?_
      split
      · simp
      next u hg =>
        have hg := hostGet_calm hg
        refine (u.whenFree_pace _ c _ _ _ fun v => ?_).trans (by simp [hg])
        split
        · simp
        next w hw =>
          have hw := hostGet_calm hw
          split
          · simp [hw]
          · split
            · simp [hw]
            · refine (w.whenFree_pace _ c _ _ _ fun x => ?_).trans (by simp [hw])
              split
              · simp
              next hx _ => simp [hostGet_calm hx]
              next hx _ => simp [hostGet_calm hx]

/-! ### Partitions -/

theorem execPcreate_pace (s : State) : KeepsPace s (execPcreate s) := by
  refine keepsPace_command fun c => ?_
  dsimp only
  split
  · simp
  · refine s.whenFree_pace _ c _ _ _ fun t => ?_
    split
    · simp
    next hg =>
      have hg := hostGet_calm hg
      split
      · simp [hg]
      · split <;> simp [hg]

theorem execPdestroy_pace (s : State) : KeepsPace s (execPdestroy s) := by
  refine keepsPace_command fun c => ?_
  simp

theorem execFlrVf_pace (vf : Fin 16) (s : State) : KeepsPace s (execFlrVf vf s) := by
  unfold execFlrVf
  exact keepsPace_next (by simp)

theorem execFlrPf0_pace (s : State) : KeepsPace s (execFlrPf0 s) := by
  unfold execFlrPf0
  exact keepsPace_next (by simp)

theorem execPsetS2inv_pace (s : State) : KeepsPace s (execPsetS2inv s) := by
  refine keepsPace_next (s.pset_pace _ fun c part => ?_)
  simp

theorem execPsetS2root_pace (s : State) : KeepsPace s (execPsetS2root s) := by
  refine keepsPace_next (s.pset_pace _ fun c part => ?_)
  simp

theorem execPsetQos_pace (s : State) : KeepsPace s (execPsetQos s) := by
  refine keepsPace_next (s.pset_pace _ fun c part => ?_)
  simp

theorem execPsetWaymask_pace (s : State) : KeepsPace s (execPsetWaymask s) := by
  refine keepsPace_next (s.pset_pace _ fun c part => ?_)
  simp

theorem execPsetWindow_pace (s : State) : KeepsPace s (execPsetWindow s) := by
  refine keepsPace_next (s.pset_pace _ fun c part => ?_)
  simp

theorem execPsetDrange_pace (s : State) : KeepsPace s (execPsetDrange s) := by
  refine keepsPace_next (s.pset_pace _ fun c part => ?_)
  simp

theorem execPsetPmbase_pace (s : State) : KeepsPace s (execPsetPmbase s) := by
  refine keepsPace_next (s.pset_pace _ fun c part => ?_)
  simp

theorem execQosWindowEnd_pace (channel : Fin 256) (s : State) : KeepsPace s (execQosWindowEnd channel s) := by
  unfold execQosWindowEnd
  split <;> exact keepsPace_next (by simp)

theorem execDesignatedWaysCleared_pace (part : Fin 16) (slice : Fin 128) (s : State) :
    KeepsPace s (execDesignatedWaysCleared part slice s) := by
  unfold execDesignatedWaysCleared
  dsimp only
  (repeat' split) <;> exact keepsPace_next (by simp)

/-! ### Votes -/

theorem execVotePhasePrepare_pace (s : State) : KeepsPace s (execVotePhasePrepare s) := by
  unfold execVotePhasePrepare
  dsimp only
  (repeat' split) <;> exact keepsPace_next (by simp)

theorem execVotePhaseOk_pace (s : State) : KeepsPace s (execVotePhaseOk s) := by
  unfold execVotePhaseOk
  dsimp only
  (repeat' split) <;> exact keepsPace_next (by simp)

theorem execVotePhaseRefuse_pace (s : State) : KeepsPace s (execVotePhaseRefuse s) := by
  unfold execVotePhaseRefuse
  dsimp only
  (repeat' split) <;> exact keepsPace_next (by simp)

theorem execVotePhaseAbort_pace (s : State) : KeepsPace s (execVotePhaseAbort s) := by
  unfold execVotePhaseAbort
  dsimp only
  (repeat' split) <;> exact keepsPace_next (by simp)

theorem execVotePhaseCommit_pace (s : State) : KeepsPace s (execVotePhaseCommit s) := by
  unfold execVotePhaseCommit
  dsimp only
  (repeat' split) <;> exact keepsPace_next (by simp)

theorem execVotePhaseCommitted_pace (s : State) : KeepsPace s (execVotePhaseCommitted s) := by
  unfold execVotePhaseCommitted
  dsimp only
  (repeat' split) <;> exact keepsPace_next (by simp)

theorem execVoteAbsent_pace (s : State) : KeepsPace s (execVoteAbsent s) := by
  unfold execVoteAbsent
  split <;> exact keepsPace_next (by simp)

theorem execLevelRequest_pace (s : State) : KeepsPace s (execLevelRequest s) := by
  unfold execLevelRequest
  dsimp only
  (repeat' split) <;> exact keepsPace_next (by simp)

theorem execLevelReport_pace (s : State) : KeepsPace s (execLevelReport s) := by
  unfold execLevelReport
  dsimp only
  (repeat' split) <;> exact keepsPace_next (by simp)

theorem execLevellingCapture_pace (s : State) : KeepsPace s (execLevellingCapture s) := by
  unfold execLevellingCapture
  split
  · exact keepsPace_next rfl
  next w _ =>
    extract_lets u v x
    have hx : x.calm.kept.pace = s.calm.kept.pace := by simp [x, v, u]
    clear_value x
    split
    · exact keepsPace_next (by simp [hx])
    next d _ =>
      have hspill := spill_calm x w.part d w.pkt
      split
      next t ht => exact keepsPace_next (by simp [okCalm_state hspill ht, hx])
      · exact keepsPace_next (by simp [hx])

theorem execVoteStall_pace (s : State) : KeepsPace s (execVoteStall s) := by
  unfold execVoteStall
  split <;> exact keepsPace_next (by simp)

theorem execCommitResend_pace (s : State) : KeepsPace s (execCommitResend s) := by
  unfold execCommitResend
  split <;> exact keepsPace_next (by simp)

theorem execSheetGangdef_pace (s : State) : KeepsPace s (execSheetGangdef s) := by
  refine keepsPace_next (s.sheetCmd_pace _ fun c part => ?_)
  simp

theorem execSheetCell_pace (s : State) : KeepsPace s (execSheetCell s) := by
  refine keepsPace_next (s.sheetCmd_pace _ fun c part => ?_)
  simp

theorem execSheetLength_pace (s : State) : KeepsPace s (execSheetLength s) := by
  refine keepsPace_next (s.sheetCmd_pace _ fun c part => ?_)
  simp

theorem execSheetAgeq_pace (s : State) : KeepsPace s (execSheetAgeq s) := by
  refine keepsPace_next (s.sheetCmd_pace _ fun c part => ?_)
  simp

theorem execSheetStop_pace (s : State) : KeepsPace s (execSheetStop s) := by
  refine keepsPace_next (s.sheetCmd_pace _ fun c part => ?_)
  simp

theorem execSheetResolve_pace (s : State) : KeepsPace s (execSheetResolve s) := by
  refine keepsPace_next (s.sheetCmd_pace _ fun c part => ?_)
  simp

theorem execSheetGangdel_pace (s : State) : KeepsPace s (execSheetGangdel s) := by
  refine keepsPace_next (s.sheetCmd_pace _ fun c part => ?_)
  simp

/-! ### Corrected errors -/

theorem execPerstDeassert_pace (s : State) : KeepsPace s (execPerstDeassert s) := by
  unfold execPerstDeassert
  exact keepsPace_next (by simp)

theorem execHostConfigRequest_pace (r : ConfigReq) (s : State) : KeepsPace s (execHostConfigRequest r s) := by
  unfold execHostConfigRequest
  (repeat' split) <;> (refine keepsPace_next ?_; simp)

theorem execPatrolScrub_pace (dpa : Nat) (found : EccFinding) (s : State) : KeepsPace s (execPatrolScrub dpa found s) := by
  unfold execPatrolScrub
  split <;> exact keepsPace_next (by simp)

theorem execCorrected_pace (unit : UnitKind) (index : Nat) (s : State) : KeepsPace s (execCorrected unit index s) := by
  unfold execCorrected
  exact keepsPace_next (by simp)

/-! ### The hypervisor -/

theorem execTlbinvPart_pace (a : SSpec) (w : WReg) (s : State) : KeepsPace s (execTlbinvPart a w s) :=
  keepsPace_finish (needH_calm (SlotRes.calm_bind (readS_calm _ _ _) fun x s => tlbinv_calm ..))

theorem execTlbinvIpa_pace (a : SSpec) (b : SOpnd) (w : WReg) (s : State) : KeepsPace s (execTlbinvIpa a b w s) :=
  keepsPace_finish (needH_calm (SlotRes.calm_bind (readS_calm _ _ _) fun x s => SlotRes.calm_bind (readSO_calm _ _ _) fun y s =>
    tlbinv_calm ..))

theorem execTlbinvAll_pace (w : WReg) (s : State) : KeepsPace s (execTlbinvAll w s) :=
  keepsPace_finish (needH_calm (tlbinv_calm ..))

theorem execTlbinvComplete_pace (s : State) : KeepsPace s (execTlbinvComplete s) := by
  unfold execTlbinvComplete
  dsimp only
  (repeat' split) <;> exact keepsPace_next (by simp)

theorem execScrub_pace (a : SSpec) (w : WReg) (s : State) : KeepsPace s (execScrub a w s) := by
  refine keepsPace_finish (needH_calm (SlotRes.calm_bind (readS_calm _ _ _) fun x s => ?_))
  dsimp only
  split
  · exact takeAnswer_calm ..
  · simp

theorem execScrubComplete_pace (s : State) : KeepsPace s (execScrubComplete s) := by
  unfold execScrubComplete
  extract_lets c clear
  split
  · split
    · exact keepsPace_next rfl
    next u hu =>
      have hu := okCalm_state (scrubPumps_calm s _) hu
      extract_lets v w
      have hv : v.calm = s.calm := by simpa [v] using hu
      have hw : w.calm = v.calm := by simp [w]
      exact keepsPace_next (by simp [hw, hv])
  · exact keepsPace_next rfl

theorem execVoteRd_pace (w : WReg) (s : State) : KeepsPace s (execVoteRd w s) := by
  refine keepsPace_finish ?_
  simp [needTag, needAddr, needBlock, needTable, barRef, needH]

theorem execVoteAbort_pace (w : WReg) (s : State) : KeepsPace s (execVoteAbort w s) := by
  unfold execVoteAbort needH need
  split
  · exact keepsPace_next ((congrArg (fun c : Calm => c.kept.pace) (State.result_calm _ _ _ _)).trans (s.resolve_pace false))
  · exact keepsPace_finish rfl

theorem execVoteCommit_pace (w : WReg) (s : State) : KeepsPace s (execVoteCommit w s) := by
  unfold execVoteCommit needH need
  split
  · exact keepsPace_next ((congrArg (fun c : Calm => c.kept.pace) (State.result_calm _ _ _ _)).trans (s.resolve_pace true))
  · exact keepsPace_finish rfl

theorem execWfi_pace (a : SSpec) (w : WReg) (s : State) : KeepsPace s (execWfi a w s) := by
  refine keepsPace_finish (needH_calm (SlotRes.calm_bind (readS_calm _ _ _) fun x s => ?_))
  dsimp only
  split
  · exact takeAnswer_calm ..
  · split <;> rfl

theorem execWfiWake_pace (core : Fin 256) (events : BitVec 4) (s : State) : KeepsPace s (execWfiWake core events s) := by
  unfold execWfiWake
  split <;> exact keepsPace_next (by simp)

/-! ### Scalar -/

theorem execAdd_pace (a : SSpec) (b : SOpnd) (w : WReg) (w32 : Bool) (s : State) : KeepsPace s (execAdd a b w w32 s) :=
  keepsPace_finish (binary_calm ..)

theorem execSub_pace (a : SSpec) (b : SOpnd) (w : WReg) (w32 : Bool) (s : State) : KeepsPace s (execSub a b w w32 s) :=
  keepsPace_finish (binary_calm ..)

theorem execMul_pace (a : SSpec) (b : SOpnd) (w : WReg) (w32 : Bool) (s : State) : KeepsPace s (execMul a b w w32 s) :=
  keepsPace_finish (binary_calm ..)

theorem execMulh_pace (a : SSpec) (b : SOpnd) (w : WReg) (s : State) : KeepsPace s (execMulh a b w s) :=
  keepsPace_finish (binary_calm ..)

theorem execMulhz_pace (a : SSpec) (b : SOpnd) (w : WReg) (s : State) : KeepsPace s (execMulhz a b w s) :=
  keepsPace_finish (binary_calm ..)

theorem execDiv_pace (a : SSpec) (b : SOpnd) (w : WReg) (w32 : Bool) (s : State) : KeepsPace s (execDiv a b w w32 s) :=
  keepsPace_finish (division_calm ..)

theorem execDivz_pace (a : SSpec) (b : SOpnd) (w : WReg) (w32 : Bool) (s : State) : KeepsPace s (execDivz a b w w32 s) :=
  keepsPace_finish (division_calm ..)

theorem execRem_pace (a : SSpec) (b : SOpnd) (w : WReg) (w32 : Bool) (s : State) : KeepsPace s (execRem a b w w32 s) :=
  keepsPace_finish (division_calm ..)

theorem execRemz_pace (a : SSpec) (b : SOpnd) (w : WReg) (w32 : Bool) (s : State) : KeepsPace s (execRemz a b w w32 s) :=
  keepsPace_finish (division_calm ..)

theorem execAnd_pace (a : SSpec) (b : SOpnd) (w : WReg) (s : State) : KeepsPace s (execAnd a b w s) :=
  keepsPace_finish (binary_calm ..)

theorem execOr_pace (a : SSpec) (b : SOpnd) (w : WReg) (s : State) : KeepsPace s (execOr a b w s) :=
  keepsPace_finish (binary_calm ..)

theorem execXor_pace (a : SSpec) (b : SOpnd) (w : WReg) (s : State) : KeepsPace s (execXor a b w s) :=
  keepsPace_finish (binary_calm ..)

theorem execAndn_pace (a : SSpec) (b : SOpnd) (w : WReg) (s : State) : KeepsPace s (execAndn a b w s) :=
  keepsPace_finish (binary_calm ..)

theorem execShl_pace (a : SSpec) (b : SOpnd) (w : WReg) (w32 : Bool) (s : State) : KeepsPace s (execShl a b w w32 s) :=
  keepsPace_finish (binary_calm ..)

theorem execShr_pace (a : SSpec) (b : SOpnd) (w : WReg) (w32 : Bool) (s : State) : KeepsPace s (execShr a b w w32 s) :=
  keepsPace_finish (binary_calm ..)

theorem execSra_pace (a : SSpec) (b : SOpnd) (w : WReg) (w32 : Bool) (s : State) : KeepsPace s (execSra a b w w32 s) :=
  keepsPace_finish (binary_calm ..)

theorem execRot_pace (a : SSpec) (b : SOpnd) (w : WReg) (w32 : Bool) (s : State) : KeepsPace s (execRot a b w w32 s) :=
  keepsPace_finish (binary_calm ..)

theorem execClz_pace (a : SSpec) (w : WReg) (w32 : Bool) (s : State) : KeepsPace s (execClz a w w32 s) :=
  keepsPace_finish (unary_calm ..)

theorem execCtz_pace (a : SSpec) (w : WReg) (w32 : Bool) (s : State) : KeepsPace s (execCtz a w w32 s) :=
  keepsPace_finish (unary_calm ..)

theorem execPopc_pace (a : SSpec) (w : WReg) (w32 : Bool) (s : State) : KeepsPace s (execPopc a w w32 s) :=
  keepsPace_finish (unary_calm ..)

theorem execMin_pace (a : SSpec) (b : SOpnd) (w : WReg) (s : State) : KeepsPace s (execMin a b w s) :=
  keepsPace_finish (binary_calm ..)

theorem execMax_pace (a : SSpec) (b : SOpnd) (w : WReg) (s : State) : KeepsPace s (execMax a b w s) :=
  keepsPace_finish (binary_calm ..)

theorem execMinz_pace (a : SSpec) (b : SOpnd) (w : WReg) (s : State) : KeepsPace s (execMinz a b w s) :=
  keepsPace_finish (binary_calm ..)

theorem execMaxz_pace (a : SSpec) (b : SOpnd) (w : WReg) (s : State) : KeepsPace s (execMaxz a b w s) :=
  keepsPace_finish (binary_calm ..)

theorem execCmp_pace (a : SSpec) (b : SOpnd) (w : WReg) (c : Cond) (s : State) : KeepsPace s (execCmp a b w c s) :=
  keepsPace_finish (binary_calm ..)

theorem execSel_pace (a : SSpec) (b : SOpnd) (w : WReg) (c : SSpec) (s : State) : KeepsPace s (execSel a b w c s) :=
  keepsPace_finish (SlotRes.calm_bind (readS_calm _ _ _) fun x s => SlotRes.calm_bind (readSO_calm _ _ _) fun y s =>
    SlotRes.calm_bind (readS_calm _ _ _) fun z s => rfl)

theorem execAgen_pace (a : SSpec) (b : SOpnd) (w : WReg) (k : Fin 16) (s : State) : KeepsPace s (execAgen a b w k s) :=
  keepsPace_finish (binary_calm ..)

theorem execBfi_pace (a : SSpec) (b : SOpnd) (w : WReg) (v : SSpec) (s : State) : KeepsPace s (execBfi a b w v s) :=
  keepsPace_finish (SlotRes.calm_bind (readS_calm _ _ _) fun x s => SlotRes.calm_bind (readSO_calm _ _ _) fun y s =>
    SlotRes.calm_bind (readS_calm _ _ _) fun z s => rfl)

theorem execMovx_pace (a : SSpec) (w : WReg) (idx : Fin 16) (f : MovxForm) (s : State) :
    KeepsPace s (execMovx a w idx f s) := by
  refine keepsPace_finish ?_
  split
  · split
    · exact unary_calm ..
    · rfl
  · dsimp only
    split
    · exact need_keeps (SlotRes.calm_bind (readSeen_calm _ _ _ _) fun v s => by simp)
    · exact need_keeps (SlotRes.calm_bind (readSeen_calm _ _ _ _) fun v s => by simp)
    · exact SlotRes.calm_bind (readS_calm _ _ _) fun v s => by simp

theorem execLi_pace (w : WReg) (i : Imm) (s : State) : KeepsPace s (execLi w i s) :=
  keepsPace_finish (rfl)

theorem execAddi_pace (a : SSpec) (w : WReg) (i : Imm) (s : State) : KeepsPace s (execAddi a w i s) :=
  keepsPace_finish (unary_calm ..)

theorem execAndi_pace (a : SSpec) (w : WReg) (i : Imm) (s : State) : KeepsPace s (execAndi a w i s) :=
  keepsPace_finish (unary_calm ..)

theorem execOri_pace (a : SSpec) (w : WReg) (i : Imm) (s : State) : KeepsPace s (execOri a w i s) :=
  keepsPace_finish (unary_calm ..)

theorem execXori_pace (a : SSpec) (w : WReg) (i : Imm) (s : State) : KeepsPace s (execXori a w i s) :=
  keepsPace_finish (unary_calm ..)

theorem execShli_pace (a : SSpec) (w : WReg) (w32 : Bool) (n : BitVec 6) (s : State) :
    KeepsPace s (execShli a w w32 n s) :=
  keepsPace_finish (unary_calm ..)

theorem execShri_pace (a : SSpec) (w : WReg) (w32 : Bool) (n : BitVec 6) (s : State) :
    KeepsPace s (execShri a w w32 n s) :=
  keepsPace_finish (unary_calm ..)

theorem execSrai_pace (a : SSpec) (w : WReg) (w32 : Bool) (n : BitVec 6) (s : State) :
    KeepsPace s (execSrai a w w32 n s) :=
  keepsPace_finish (unary_calm ..)

theorem execBfx_pace (a : SSpec) (w : WReg) (x : Bool) (len pos : BitVec 6) (s : State) :
    KeepsPace s (execBfx a w x len pos s) :=
  keepsPace_finish (unary_calm ..)

/-! ### Issue -/

theorem execTrapEntry_pace (s : State) : KeepsPace s (execTrapEntry s) := by
  unfold execTrapEntry
  split <;> exact keepsPace_next (by simp)

/-! ### Steps of a core -/

theorem execFetchLinesArrive_pace (s : State) : KeepsPace s (execFetchLinesArrive s) := by
  unfold execFetchLinesArrive
  dsimp only
  (repeat' split) <;> exact keepsPace_next (by simp)

theorem execTlbWalkDone_pace (core : Fin 256) (s : State) : KeepsPace s (execTlbWalkDone core s) := by
  unfold execTlbWalkDone
  exact keepsPace_next (by simp)

theorem execLoadDataArrive_pace (core : Fin 256) (id : Nat) (s : State) : KeepsPace s (execLoadDataArrive core id s) := by
  unfold execLoadDataArrive
  split <;> exact keepsPace_next (by simp)

theorem execUncorrectableReport_pace (core : Fin 256) (id : Nat) (why : LateFault) (s : State) :
    KeepsPace s (execUncorrectableReport core id why s) := by
  unfold execUncorrectableReport
  dsimp only
  (repeat' split) <;> (refine keepsPace_next ?_; simp)

theorem execWritePerform_pace (id : Nat) (s : State) : KeepsPace s (execWritePerform id s) := by
  unfold execWritePerform
  split <;> exact keepsPace_next (by simp)

theorem execReadServe_pace (id : Nat) (s : State) : KeepsPace s (execReadServe id s) := by
  unfold execReadServe
  split <;> exact keepsPace_next (by simp)

theorem execTokenWaitEnd_pace (channel : Fin 256) (part : Fin 16) (s : State) :
    KeepsPace s (execTokenWaitEnd channel part s) := by
  unfold execTokenWaitEnd
  dsimp only
  (repeat' split) <;> exact keepsPace_next (by simp)

theorem execPerfBroadcast_pace (die : Fin 4) (s : State) : KeepsPace s (execPerfBroadcast die s) := by
  unfold execPerfBroadcast
  exact keepsPace_next (by simp)

theorem execCombiningEntryApply_pace (channel : Fin 256) (s : State) : KeepsPace s (execCombiningEntryApply channel s) := by
  unfold execCombiningEntryApply
  exact keepsPace_next (by simp)

theorem execDramRowClose_pace (channel : Fin 256) (bank : Fin 32) (s : State) :
    KeepsPace s (execDramRowClose channel bank s) := by
  unfold execDramRowClose
  exact keepsPace_next (by simp)

theorem execFenceRelease_pace (s : State) : KeepsPace s (execFenceRelease s) := by
  unfold execFenceRelease
  dsimp only
  (repeat' split) <;> exact keepsPace_next (by simp)

theorem execYieldEnd_pace (core : Fin 256) (why : YieldWhy) (s : State) : KeepsPace s (execYieldEnd core why s) := by
  unfold execYieldEnd
  split <;> exact keepsPace_next (by simp)

theorem execRejoinMeet_pace (quad : Fin 64) (s : State) : KeepsPace s (execRejoinMeet quad s) := by
  unfold execRejoinMeet
  dsimp only
  (repeat' split) <;> exact keepsPace_next (by simp)

theorem execCoreStop_pace (s : State) : KeepsPace s (execCoreStop s) := by
  unfold execCoreStop
  dsimp only
  (repeat' split) <;> exact keepsPace_next (by simp)

end Sys2Proof.Machine
end

section
/-! Every step leaves the power controller's registers legal (O60), and every instruction goes on (O59). -/

namespace Sys2Proof.Machine

/-- The steps that leave power and the slot of the call sheet alone. Those that may not: the host's registers, the call sheet's
own steps, the coming and going of power, and, since it is made of others, a core's issue cycle. -/
def paced : Instr → Bool
  | .registerWrite _ _ _ | .pwrCapWrite _ _ | .slotBoundary _ | .swapDone | .sheetStart | .powerOnReset _ | .perst _ |
  .powerApplied | .powerLoss _ _ | .thermtrip | .powerWindowEnd _ | .junctionTemperature _ _ | .bundleIssue _ => false
  | _ => true

theorem exec_pace (s : State) : ∀ i : Instr, paced i = true → KeepsPace s (exec i s)
  | .powerOnReset _, h => nomatch h
  | .perst _, h => nomatch h
  | .hostConfigRequest r, _ => execHostConfigRequest_pace r s
  | .powerWindowEnd _, h => nomatch h
  | .junctionTemperature _ _, h => nomatch h
  | .pwrCapWrite _ _, h => nomatch h
  | .patrolScrub dpa found, _ => execPatrolScrub_pace dpa found s
  | .corrected unit index, _ => execCorrected_pace unit index s
  | .controlDrop port, _ => execControlDrop_pace port s
  | .flrVf vf, _ => execFlrVf_pace vf s
  | .linkFrameReceive port f, _ => execLinkFrameReceive_pace port f s
  | .linkNakReceive port seq, _ => execLinkNakReceive_pace port seq s
  | .portLossOfLock port, _ => execPortLossOfLock_pace port s
  | .replayLimit port, _ => execReplayLimit_pace port s
  | .retrainDone port ok flight neigh nport, _ => execRetrainDone_pace port ok flight neigh nport s
  | .portEnableWrite fn port v, _ => execPortEnableWrite_pace fn port v s
  | .portRetrain fn port, _ => execPortRetrain_pace fn port s
  | .fabIdWrite fn v, _ => execFabIdWrite_pace fn v s
  | .routeTableWrite fn dest v, _ => execRouteTableWrite_pace fn dest v s
  | .packetForward vc p, _ => execPacketForward_pace vc p s
  | .dataPacketAccept port p, _ => execDataPacketAccept_pace port p s
  | .ackTimeout src sfn dfn cls, _ => execAckTimeout_pace src sfn dfn cls s
  | .fabricTimeout core dest, _ => execFabricTimeout_pace core dest s
  | .slotBoundary _, h => nomatch h
  | .sequencerStateSave port, _ => execSequencerStateSave_pace port s
  | .dispatch part, _ => execDispatch_pace part s
  | .lnchEntry part, _ => execLnchEntry_pace part s
  | .qosWindowEnd channel, _ => execQosWindowEnd_pace channel s
  | .perfCounterUpdate part, _ => execPerfCounterUpdate_pace part s
  | .periodicSlate part, _ => execPeriodicSlate_pace part s
  | .tlbWalkDone core, _ => execTlbWalkDone_pace core s
  | .parkedRetry core tag, _ => execParkedRetry_pace core tag s
  | .hostBar2Access fn off a, _ => execHostBar2Access_pace fn off a s
  | .hostCxlMemAccess hpa a, _ => execHostCxlMemAccess_pace hpa a s
  | .qwidxWrite fn ring v, _ => execQwidxWrite_pace fn ring v s
  | .ringEnable fn ring, _ => execRingEnable_pace fn ring s
  | .ringDisable fn ring, _ => execRingDisable_pace fn ring s
  | .ringDrained fn ring, _ => execRingDrained_pace fn ring s
  | .ringBlockWrite fn ring off v, _ => execRingBlockWrite_pace fn ring off v s
  | .commandFetch fn ring, _ => execCommandFetch_pace fn ring s
  | .commandStart fn ring, _ => execCommandStart_pace fn ring s
  | .commandComplete fn ring idx, _ => execCommandComplete_pace fn ring idx s
  | .sumctlGo fn, _ => execSumctlGo_pace fn s
  | .registerWrite _ _ _, h => nomatch h
  | .bundleIssue _, h => nomatch h
  | .loadDataArrive core id, _ => execLoadDataArrive_pace core id s
  | .uncorrectableReport core id why, _ => execUncorrectableReport_pace core id why s
  | .rejoinMeet quad, _ => execRejoinMeet_pace quad s
  | .writePerform id, _ => execWritePerform_pace id s
  | .readServe id, _ => execReadServe_pace id s
  | .perfBroadcast die, _ => execPerfBroadcast_pace die s
  | .combiningEntryApply channel, _ => execCombiningEntryApply_pace channel s
  | .dramRowClose channel bank, _ => execDramRowClose_pace channel bank s
  | .polderPumpDone core polder lost, _ => execPolderPumpDone_pace core polder lost s
  | .streamRefill core stream, _ => execStreamRefill_pace core stream s
  | .streamDrain core stream, _ => execStreamDrain_pace core stream s
  | .copyComplete core tag e, _ => execCopyComplete_pace core tag e s
  | .yieldEnd core why, _ => execYieldEnd_pace core why s
  | .wfiWake core events, _ => execWfiWake_pace core events s
  | .collDeadlineCut part entry, _ => execCollDeadlineCut_pace part entry s
  | .yield a, _ => execYield_pace a s
  | .trap imm, _ => execTrap_pace imm s
  | .add a b w s_, _ => execAdd_pace a b w s_ s
  | .sub a b w s_, _ => execSub_pace a b w s_ s
  | .mul a b w s_, _ => execMul_pace a b w s_ s
  | .mulh a b w, _ => execMulh_pace a b w s
  | .mulhz a b w, _ => execMulhz_pace a b w s
  | .div a b w s_, _ => execDiv_pace a b w s_ s
  | .divz a b w s_, _ => execDivz_pace a b w s_ s
  | .rem a b w s_, _ => execRem_pace a b w s_ s
  | .remz a b w s_, _ => execRemz_pace a b w s_ s
  | .and a b w, _ => execAnd_pace a b w s
  | .or a b w, _ => execOr_pace a b w s
  | .xor a b w, _ => execXor_pace a b w s
  | .andn a b w, _ => execAndn_pace a b w s
  | .shl a b w s_, _ => execShl_pace a b w s_ s
  | .shr a b w s_, _ => execShr_pace a b w s_ s
  | .sra a b w s_, _ => execSra_pace a b w s_ s
  | .rot a b w s_, _ => execRot_pace a b w s_ s
  | .clz a w s_, _ => execClz_pace a w s_ s
  | .ctz a w s_, _ => execCtz_pace a w s_ s
  | .popc a w s_, _ => execPopc_pace a w s_ s
  | .min a b w, _ => execMin_pace a b w s
  | .max a b w, _ => execMax_pace a b w s
  | .minz a b w, _ => execMinz_pace a b w s
  | .maxz a b w, _ => execMaxz_pace a b w s
  | .cmp a b w c, _ => execCmp_pace a b w c s
  | .sel a b w c, _ => execSel_pace a b w c s
  | .agen a b w k, _ => execAgen_pace a b w k s
  | .bfi a b w v, _ => execBfi_pace a b w v s
  | .movx a w idx f, _ => execMovx_pace a w idx f s
  | .li w i_, _ => execLi_pace w i_ s
  | .addi a w i_, _ => execAddi_pace a w i_ s
  | .andi a w i_, _ => execAndi_pace a w i_ s
  | .ori a w i_, _ => execOri_pace a w i_ s
  | .xori a w i_, _ => execXori_pace a w i_ s
  | .shli a w s_ n, _ => execShli_pace a w s_ n s
  | .shri a w s_ n, _ => execShri_pace a w s_ n s
  | .srai a w s_ n, _ => execSrai_pace a w s_ n s
  | .bfx a w x len pos, _ => execBfx_pace a w x len pos s
  | .ld a d w land sz, _ => execLd_pace a d w land sz s
  | .st a d b w na sp sz, _ => execSt_pace a d b w na sp sz s
  | .spl a off, _ => execSpl_pace a off s
  | .fil w off, _ => execFil_pace w off s
  | .amo a d b w nr w32 op, _ => execAmo_pace a d b w nr w32 op s
  | .amocas a d b w w32 e, _ => execAmocas_pace a d b w w32 e s
  | .fence scope kind, _ => execFence_pace scope kind s
  | .mqrd a w, _ => execMqrd_pace a w s
  | .mqrel a, _ => execMqrel_pace a s
  | .br o, _ => execBr_pace o s
  | .beqz a o, _ => execBeqz_pace a o s
  | .bnez a o, _ => execBnez_pace a o s
  | .bltz a o, _ => execBltz_pace a o s
  | .bgez a o, _ => execBgez_pace a o s
  | .bmz o, _ => execBmz_pace o s
  | .bmnz o, _ => execBmnz_pace o s
  | .loop n o, _ => execLoop_pace n o s
  | .call o, _ => execCall_pace o s
  | .jt a b, _ => execJt_pace a b s
  | .calli a b w, _ => execCalli_pace a b w s
  | .ret a, _ => execRet_pace a s
  | .twait a w, _ => execTwait_pace a w s
  | .twany a w, _ => execTwany_pace a w s
  | .tffr a w, _ => execTffr_pace a w s
  | .tclr a, _ => execTclr_pace a s
  | .binit a b, _ => execBinit_pace a b s
  | .barr a, _ => execBarr_pace a s
  | .bwait a b w, _ => execBwait_pace a b w s
  | .btest a b w, _ => execBtest_pace a b w s
  | .binv a, _ => execBinv_pace a s
  | .csrr w c, _ => execCsrr_pace w c s
  | .csrw a c, _ => execCsrw_pace a c s
  | .sbindRd a off s_, _ => execSbindRd_pace a off s_ s
  | .sbindWr a off s_, _ => execSbindWr_pace a off s_ s
  | .sunbind s_, _ => execSunbind_pace s_ s
  | .lnch a w, _ => execLnch_pace a w s
  | .adjrd a b w sp, _ => execAdjrd_pace a b w sp s
  | .adjclr a b w sp, _ => execAdjclr_pace a b w sp s
  | .tlbinvPart a w, _ => execTlbinvPart_pace a w s
  | .tlbinvIpa a b w, _ => execTlbinvIpa_pace a b w s
  | .tlbinvAll w, _ => execTlbinvAll_pace w s
  | .scrub a w, _ => execScrub_pace a w s
  | .voteRd w, _ => execVoteRd_pace w s
  | .voteAbort w, _ => execVoteAbort_pace w s
  | .voteCommit w, _ => execVoteCommit_pace w s
  | .wfi a w, _ => execWfi_pace a w s
  | .vadd a b t p, _ => execVadd_pace a b t p s
  | .vsub a b t p, _ => execVsub_pace a b t p s
  | .vmul a b t p, _ => execVmul_pace a b t p s
  | .vfma a b c t p, _ => execVfma_pace a b c t p s
  | .vfms a b c t p, _ => execVfms_pace a b c t p s
  | .vfnma a b c t p, _ => execVfnma_pace a b c t p s
  | .vdiv a b t p, _ => execVdiv_pace a b t p s
  | .vsqrt a t p, _ => execVsqrt_pace a t p s
  | .vrsq a t p, _ => execVrsq_pace a t p s
  | .vrcp a t p, _ => execVrcp_pace a t p s
  | .vexp2 a t p, _ => execVexp2_pace a t p s
  | .vlog2 a t p, _ => execVlog2_pace a t p s
  | .vmin a b t, _ => execVmin_pace a b t s
  | .vmax a b t, _ => execVmax_pace a b t s
  | .vabs a t p, _ => execVabs_pace a t p s
  | .vneg a t p, _ => execVneg_pace a t p s
  | .vcps a b t, _ => execVcps_pace a b t s
  | .vand a b t, _ => execVand_pace a b t s
  | .vor a b t, _ => execVor_pace a b t s
  | .vxor a b t, _ => execVxor_pace a b t s
  | .vnot a t, _ => execVnot_pace a t s
  | .vshl a b t, _ => execVshl_pace a b t s
  | .vshr a b t, _ => execVshr_pace a b t s
  | .vsra a b t, _ => execVsra_pace a b t s
  | .vmulh a b t, _ => execVmulh_pace a b t s
  | .vcmp a b c t, _ => execVcmp_pace a b c t s
  | .vsel a b c t, _ => execVsel_pace a b c t s
  | .vclass a t, _ => execVclass_pace a t s
  | .vcvt a td pol m ts, _ => execVcvt_pace a td pol m ts s
  | .vpack a b g, _ => execVpack_pace a b g s
  | .vunpk a g, _ => execVunpk_pace a g s
  | .vscl a b t p, _ => execVscl_pace a b t p s
  | .vanc a b t p, _ => execVanc_pace a b t p s
  | .vdanc a b t p, _ => execVdanc_pace a b t p s
  | .vqdec a b c t p, _ => execVqdec_pace a b c t p s
  | .vbcst a t, _ => execVbcst_pace a t s
  | .viota a t, _ => execViota_pace a t s
  | .vperm a b t, _ => execVperm_pace a b t s
  | .vslide a b c t, _ => execVslide_pace a b c t s
  | .vzip a b t hi, _ => execVzip_pace a b t hi s
  | .vunzip a b t hi, _ => execVunzip_pace a b t hi s
  | .vmov a n t, _ => execVmov_pace a n t s
  | .vsw a n t, _ => execVsw_pace a n t s
  | .vext a b t, _ => execVext_pace a b t s
  | .vrsum a t p, _ => execVrsum_pace a t p s
  | .vrmax a t, _ => execVrmax_pace a t s
  | .vrmin a t, _ => execVrmin_pace a t s
  | .vscan a t p, _ => execVscan_pace a t p s
  | .vdot a b t p, _ => execVdot_pace a b t p s
  | .mpush a t, _ => execMpush_pace a t s
  | .mset a t, _ => execMset_pace a t s
  | .mop z a b k neg, _ => execMop_pace z a b k neg s
  | .mopz z a b k neg, _ => execMopz_pace z a b k neg s
  | .mr1 z a b k neg, _ => execMr1_pace z a b k neg s
  | .mr1z z a b k neg, _ => execMr1z_pace z a b k neg s
  | .mzero z, _ => execMzero_pace z s
  | .macc z s_ neg, _ => execMacc_pace z s_ neg s
  | .mscl z e, _ => execMscl_pace z e s
  | .mdrain z q pol clr m first rows t, _ => execMdrain_pace z q pol clr m first rows t s
  | .mfmt v, _ => execMfmt_pace v s
  | .msave z h p, _ => execMsave_pace z h p s
  | .mload z h p, _ => execMload_pace z h p s
  | .cpy g a b c, _ => execCpy_pace g a b c s
  | .cpyp g a b c, _ => execCpyp_pace g a b c s
  | .cstrp g a b c, _ => execCstrp_pace g a b c s
  | .ctld g n b c, _ => execCtld_pace g n b c s
  | .ctst g n b c, _ => execCtst_pace g n b c s
  | .cqst g q b c, _ => execCqst_pace g q b c s
  | .cfill g a b c, _ => execCfill_pace g a b c s
  | .czero g a c, _ => execCzero_pace g a c s
  | .cpref a c, _ => execCpref_pace a c s
  | .cflush g a c, _ => execCflush_pace g a c s
  | .cmsg g a b, _ => execCmsg_pace g a b s
  | .fwr g a b c, _ => execFwr_pace g a b c s
  | .famo g a b c, _ => execFamo_pace g a b c s
  | .freq g a b c, _ => execFreq_pace g a b c s
  | .flnch g a c, _ => execFlnch_pace g a c s
  | .ttset a b, _ => execTtset_pace a b s
  | .trdy a, _ => execTrdy_pace a s
  | .rcut a, _ => execRcut_pace a s
  | .rpick a, _ => execRpick_pace a s
  | .rstat w a, _ => execRstat_pace w a s
  | .nbld g a b, _ => execNbld_pace g a b s
  | .nbx g a c, _ => execNbx_pace g a c s
  | .nbq w a b, _ => execNbq_pace w a b s
  | .msat g a b c, _ => execMsat_pace g a b c s
  | .hsig a b c, _ => execHsig_pace a b c s
  | .powerLoss _ _, h => nomatch h
  | .linkTrained port flight neigh nport, _ => execLinkTrained_pace port flight neigh nport s
  | .tokenWaitEnd channel part, _ => execTokenWaitEnd_pace channel part s
  | .designatedWaysCleared part slice, _ => execDesignatedWaysCleared_pace part slice s
  | .powerApplied, h => nomatch h
  | .thermtrip, h => nomatch h
  | .flrPf0, _ => execFlrPf0_pace s
  | .packetInject, _ => execPacketInject_pace s
  | .writePacket, _ => execWritePacket_pace s
  | .atomicPacket, _ => execAtomicPacket_pace s
  | .reqPacket, _ => execReqPacket_pace s
  | .launchPacket, _ => execLaunchPacket_pace s
  | .reducePacket, _ => execReducePacket_pace s
  | .pickupPacket, _ => execPickupPacket_pace s
  | .ackPacket, _ => execAckPacket_pace s
  | .dropPacket, _ => execDropPacket_pace s
  | .lrefusePacket, _ => execLrefusePacket_pace s
  | .votePhasePrepare, _ => execVotePhasePrepare_pace s
  | .votePhaseOk, _ => execVotePhaseOk_pace s
  | .votePhaseRefuse, _ => execVotePhaseRefuse_pace s
  | .votePhaseAbort, _ => execVotePhaseAbort_pace s
  | .votePhaseCommit, _ => execVotePhaseCommit_pace s
  | .votePhaseCommitted, _ => execVotePhaseCommitted_pace s
  | .voteAbsent, _ => execVoteAbsent_pace s
  | .levelRequest, _ => execLevelRequest_pace s
  | .levelReport, _ => execLevelReport_pace s
  | .levellingCapture, _ => execLevellingCapture_pace s
  | .voteStall, _ => execVoteStall_pace s
  | .commitResend, _ => execCommitResend_pace s
  | .coreStop, _ => execCoreStop_pace s
  | .swapDone, h => nomatch h
  | .saveWriteback, _ => execSaveWriteback_pace s
  | .coreEnded, _ => execCoreEnded_pace s
  | .commandNop, _ => execCommandNop_pace s
  | .register, _ => execRegister_pace s
  | .unregister, _ => execUnregister_pace s
  | .launch, _ => execLaunch_pace s
  | .hKernelLaunch, _ => execHKernelLaunch_pace s
  | .lperm, _ => execLperm_pace s
  | .attest, _ => execAttest_pace s
  | .summary, _ => execSummary_pace s
  | .slate, _ => execSlate_pace s
  | .pcreate, _ => execPcreate_pace s
  | .pdestroy, _ => execPdestroy_pace s
  | .hdmmap, _ => execHdmmap_pace s
  | .psetS2inv, _ => execPsetS2inv_pace s
  | .psetS2root, _ => execPsetS2root_pace s
  | .psetQos, _ => execPsetQos_pace s
  | .psetWaymask, _ => execPsetWaymask_pace s
  | .psetWindow, _ => execPsetWindow_pace s
  | .psetDrange, _ => execPsetDrange_pace s
  | .psetPmbase, _ => execPsetPmbase_pace s
  | .sheetGangdef, _ => execSheetGangdef_pace s
  | .sheetCell, _ => execSheetCell_pace s
  | .sheetLength, _ => execSheetLength_pace s
  | .sheetAgeq, _ => execSheetAgeq_pace s
  | .sheetStart, h => nomatch h
  | .sheetStop, _ => execSheetStop_pace s
  | .sheetResolve, _ => execSheetResolve_pace s
  | .sheetGangdel, _ => execSheetGangdel_pace s
  | .fetchLinesArrive, _ => execFetchLinesArrive_pace s
  | .trapEntry, _ => execTrapEntry_pace s
  | .matrixOpComplete, _ => execMatrixOpComplete_pace s
  | .mdrainGroupPush, _ => execMdrainGroupPush_pace s
  | .matrixIntCode, _ => execMatrixIntCode_pace s
  | .mfmtEffect, _ => execMfmtEffect_pace s
  | .messageDelivery, _ => execMessageDelivery_pace s
  | .creditReturn, _ => execCreditReturn_pace s
  | .barrierApply, _ => execBarrierApply_pace s
  | .fenceRelease, _ => execFenceRelease_pace s
  | .nbRunDequeue, _ => execNbRunDequeue_pace s
  | .nbGuardDone, _ => execNbGuardDone_pace s
  | .nbRowBoundary, _ => execNbRowBoundary_pace s
  | .nbSuspendDone, _ => execNbSuspendDone_pace s
  | .nbWindowClose, _ => execNbWindowClose_pace s
  | .nbResumeDone, _ => execNbResumeDone_pace s
  | .nbTokensReady, _ => execNbTokensReady_pace s
  | .nbRunFinish, _ => execNbRunFinish_pace s
  | .cutPacket, _ => execCutPacket_pace s
  | .nop, _ => execNop_pace s
  | .endI, _ => execEndI_pace s
  | .eret, _ => execEret_pace s
  | .dmodeFwd, _ => execDmodeFwd_pace s
  | .dmodeRew, _ => execDmodeRew_pace s
  | .minv, _ => execMinv_pace s
  | .mpop, _ => execMpop_pace s
  | .mfence, _ => execMfence_pace s
  | .perstDeassert, _ => execPerstDeassert_pace s
  | .tlbinvComplete, _ => execTlbinvComplete_pace s
  | .scrubComplete, _ => execScrubComplete_pace s

/-! ### A core's issue cycle -/

/-- A slot runs an instruction of its own, and nothing for any other. -/
theorem runSlot_eq (i : Instr) (s : State) : runSlot i s = .next s ∨ (paced i = true ∧ runSlot i s = exec i s) := by
  cases i <;> first | exact .inl rfl | exact .inr ⟨rfl, rfl⟩

theorem runSlot_pace (i : Instr) (s : State) : KeepsPace s (runSlot i s) := by
  obtain h | ⟨hi, h⟩ := runSlot_eq i s
  · exact h ▸ keepsPace_next rfl
  · exact h ▸ exec_pace s i hi

@[simp] theorem runSlots_pace (l : List (Slot × Instr)) (s : State) : (runSlots l s).calm.kept.pace = s.calm.kept.pace := by
  induction l generalizing s with
  | nil => rfl
  | cons e rest ih =>
    obtain ⟨t, ht, hpace⟩ := runSlot_pace e.2 { s with issue := { s.issue with slot := e.1 } }
    have hpace : t.calm.kept.pace = s.calm.kept.pace := hpace
    unfold runSlots
    rw [ht]
    dsimp only
    split
    · exact (ih t).trans hpace
    · exact hpace

@[simp] theorem runCore_pace (s : State) (c : Fin 256) (b : RawBundle) (is : List (Slot × Instr)) :
    (runCore s c b is).2.2.calm.kept.pace = s.calm.kept.pace := by
  unfold runCore
  extract_lets o r target
  have hr : r.calm.kept.pace = s.calm.kept.pace := by simp [r, o]
  clear_value r o
  split
  · rfl
  · split
    · rfl
    · split <;> rfl
    · split
      · rfl
      · simpa using hr

@[simp] theorem State.issueBundle_pace (s : State) (g : List (Fin 256)) (b : RawBundle) (is : List (Slot × Instr)) :
    (s.issueBundle g b is).calm.kept.pace = s.calm.kept.pace := by
  unfold State.issueBundle
  extract_lets step real src noted
  have hstep : ∀ (l : List (Fin 256)) acc, (l.foldl step acc).2.calm.kept.pace = acc.2.calm.kept.pace := fun l => by
    induction l with
    | nil => exact fun _ => rfl
    | cons c l ih => exact fun acc => (ih _).trans (runCore_pace acc.2 c b is)
  have hnoted : noted.calm.kept.pace = s.calm.kept.pace := rfl
  clear_value noted step
  split
  next ends u hfold =>
    have hu : u.calm.kept.pace = s.calm.kept.pace :=
      (congrArg (fun r : _ × State => r.2.calm.kept.pace) hfold.symm :).trans (hstep g ([], s))
    dsimp only
    split
    · split
      · simpa using hnoted
      · simpa using hnoted
    · split
      · simpa using hnoted
      · split
        · simpa using hnoted
        · simpa using hu

@[simp] theorem State.issueAt_pace (s : State) (g : List (Fin 256)) (c : Fin 256) :
    (s.issueAt g c).calm.kept.pace = s.calm.kept.pace := by
  unfold State.issueAt
  dsimp only
  split
  · simp
  · split
    · simp
    · split
      · split <;> simp
      · split <;> simp

@[simp] theorem State.groupCycle_pace (s : State) (g : List (Fin 256)) (c : Fin 256) :
    (s.groupCycle g c).calm.kept.pace = s.calm.kept.pace := by
  unfold State.groupCycle
  extract_lets u at_ n
  have hu : u.calm.kept.pace = s.calm.kept.pace := congrArg (fun c : Calm => c.kept.pace) (State.foldl_calm State.holdSave_calm g s)
  clear_value at_ u
  refine Eq.trans ?_ hu
  (repeat' split) <;> simp

theorem execBundleIssue_pace (core : Fin 256) (s : State) : KeepsPace s (execBundleIssue core s) := by
  unfold execBundleIssue
  split
  · exact keepsPace_next (State.groupCycle_pace s _ core)
  · exact keepsPace_next (by simp)
  · exact keepsPace_next rfl

@[simp] theorem State.tick_kept (s : State) : s.tick.calm.kept = s.calm.kept := by
  unfold State.tick
  simp

/-! ### The power controller's registers -/

/-- A step goes on, and leaves the power controller's registers legal where they were. -/
def KeepsLegal (s : State) (o : Host.Outcome State Fault Refusal) : Prop := ∃ t, o = .next t ∧ (s.powerLegal → t.powerLegal)

theorem keepsLegal_next {s t : State} (h : s.powerLegal → t.powerLegal) : KeepsLegal s (.next t) := ⟨t, rfl, h⟩

/-- They are legal by what power is alone. -/
theorem State.powerLegal.of_power {s t : State} (h : s.powerLegal) (hpower : t.power = s.power) : t.powerLegal := by
  unfold State.powerLegal at h ⊢
  rw [hpower]
  exact h

theorem State.powerLegal.of_pace {s t : State} (h : s.powerLegal) (hpace : t.calm.kept.pace = s.calm.kept.pace) : t.powerLegal :=
  h.of_power (congrArg Pace.power hpace :)

theorem KeepsPace.legal {s : State} {o : Host.Outcome State Fault Refusal} (h : KeepsPace s o) : KeepsLegal s o :=
  h.imp fun _ ht => ⟨ht.1, fun hs => hs.of_pace ht.2⟩

theorem State.writeCap_legal (s : State) (v : Word) (hs : s.powerLegal) : (s.writeCap v).powerLegal := by
  unfold State.writeCap
  dsimp only
  split
  next hcap => exact ⟨hcap, hs.2⟩
  · exact hs

theorem State.regWrite_legal (s : State) (fn : Fn) (off : Nat) (v : Word) (hs : s.powerLegal) :
    (s.regWrite fn off v).powerLegal := by
  have keep : ∀ {t : State}, t.calm.kept = s.calm.kept → t.powerLegal := fun ht => hs.of_pace (congrArg Kept.pace ht)
  unfold State.regWrite
  extract_lets entry off pf u q
  refine iteInduction (fun _ => hs) fun _ => iteInduction (fun _ => keep rfl) fun _ => iteInduction (fun _ => keep rfl)
    fun _ => iteInduction (fun _ => keep (by simp)) fun _ => iteInduction (fun _ => keep (by simp))
    fun _ => iteInduction (fun _ => keep ?_) fun _ => iteInduction (fun _ => ?_) fun _ => keep ?_
  · have hu : u.calm.kept = s.calm.kept := by simp [u]
    clear_value u
    split
    · exact (State.sumGo_kept u fn).trans hu
    · exact hu
  · split
    · exact s.writeCap_legal v hs
    · exact hs
  · (repeat' split) <;> simp

/-- What a module keeps through the loss of its power: the limits of temperature; the power controller starts anew. -/
theorem State.cold_legal (s : State) (boot : Boot) (hs : s.powerLegal) : (s.cold boot).powerLegal := by
  obtain ⟨-, -, -, hgate⟩ := hs
  exact ⟨(by decide : 1200 ≤ Power.reset.cap ∧ Power.reset.cap ≤ 2400),
    (by decide : 1200 ≤ Power.reset.inForce ∧ Power.reset.inForce ≤ 2400), (by decide : Power.reset.gated ≤ 0xFFFF), hgate⟩

theorem State.bootUp_legal (s : State) (f : BootFindings) (hs : s.powerLegal) : (s.bootUp f).powerLegal := by
  unfold State.bootUp
  extract_lets b fail quads boot u absent ports
  split
  · exact s.cold_legal _ hs
  · split
    · exact s.cold_legal _ hs
    · exact (s.cold_legal boot hs : u.powerLegal).of_pace ((congrArg Kept.pace (State.emitGenesis_kept _)).trans rfl)

theorem State.powerDown_legal (s : State) (count : Nat) (hs : s.powerLegal) : (s.powerDown count).powerLegal :=
  s.cold_legal _ hs

theorem State.openSlot_legal (s : State) (n began : Nat) (round : Bool) (group : List Nat) (hs : s.powerLegal) :
    (s.openSlot n began round group).powerLegal :=
  hs.of_power (congrArg Pace.power (s.openSlot_pace n began round group) :)

theorem State.powerLegal.iteOf {c : Prop} [Decidable c] {s t u : State} (hs : s.powerLegal) (ht : s.powerLegal → t.powerLegal)
    (hu : s.powerLegal → u.powerLegal) : (if c then t else u).powerLegal :=
  iteInduction (fun _ => ht hs) fun _ => hu hs

theorem execSlotBoundary_legal (group : List Nat) (s : State) : KeepsLegal s (execSlotBoundary group s) := by
  unfold execSlotBoundary
  split
  · split
    · exact keepsLegal_next fun hs => hs.of_power rfl
    · exact keepsLegal_next (s.openSlot_legal _ _ _ group)
  · split
    next l _ => exact keepsLegal_next fun hs => hs.of_pace (s.fixedVote_pace l [])
    · exact keepsLegal_next id

theorem execSheetStart_legal (s : State) : KeepsLegal s (execSheetStart s) := by
  refine keepsLegal_next fun hs => ?_
  unfold State.sheetCmd State.command
  have hdone : ∀ c st r0 r1, (s.cmdDone c st r0 r1).powerLegal := fun c st r0 r1 => hs.of_power rfl
  dsimp only
  refine iteInduction (fun _ => hdone ..) fun _ => iteInduction (fun _ => hdone ..) fun _ => iteInduction (fun _ => hdone ..)
    fun _ => ?_
  exact State.openSlot_legal _ _ _ _ _ (hs.of_power rfl)

theorem execSwapDone_legal (s : State) : KeepsLegal s (execSwapDone s) := by
  unfold execSwapDone
  split
  · exact keepsLegal_next id
  next v _ =>
    extract_lets u outs w x y z src q r
    have hw : w.calm.kept.pace = s.calm.kept.pace := by simp [w, u]
    have hx : x.calm.kept = w.calm.kept := by simp [x]
    have hy : y.calm.kept = x.calm.kept := by
      simp only [y]
      split <;> simp
    have hz : z.calm.kept.pace = y.calm.kept.pace := y.setTenant_pace v.part
    clear_value w x y z
    have hq : q.power = w.power := (congrArg Pace.power hz :).trans (congrArg Kept.power (hy.trans hx) :)
    have hr : r.power = w.power := by
      simp only [r]
      split
      · exact (congrArg Kept.power (w.bringGang_kept _ _ _) :)
      · split
        · exact hq
        · exact (congrArg Kept.power (q.bringIn_kept v) :).trans hq
    clear_value r
    refine keepsLegal_next fun hs => ?_
    have hr : r.powerLegal := (hs.of_pace hw).of_power hr
    split
    · exact hr
    · exact hr.of_pace (congrArg (fun c : Calm => c.kept.pace) (State.tell_calm _ _ _ _ _))

/-- A hotter die issues in one cycle of two, or of four. -/
theorem execJunctionTemperature_legal (die : Fin 4) (celsius : Nat) (s : State) :
    KeepsLegal s (execJunctionTemperature die celsius s) := by
  refine keepsLegal_next fun hs => ?_
  obtain ⟨hcap, hforce, hgated, hgate⟩ := hs
  have hlegal : ∀ g ∈ [1, 2, 4], ({ s with power := { s.power with gate := s.power.gate.set die g } } : State).powerLegal :=
    fun g hg => ⟨hcap, hforce, hgated, fun d => by
      by_cases hd : die = d
      · subst hd
        simpa using hg
      · have hne : die.val ≠ d.val := fun h => hd (Fin.ext h)
        simpa [Vector.getElem_set_ne _ _ hne] using hgate d⟩
  have hg : (if 100 ≤ celsius then 4 else if 95 ≤ celsius then 2 else 1) ∈ [1, 2, 4] := by
    split
    · simp
    · split <;> simp
  split
  · exact (hlegal _ hg).of_power rfl
  · exact hlegal _ hg

theorem execPowerWindowEnd_legal (watts : Nat) (s : State) : KeepsLegal s (execPowerWindowEnd watts s) :=
  keepsLegal_next fun ⟨hcap, _, _, hgate⟩ => ⟨hcap, hcap, Nat.min_le_left _ _, hgate⟩

theorem execPowerOnReset_legal (b : BootFindings) (s : State) : KeepsLegal s (execPowerOnReset b s) :=
  keepsLegal_next fun hs => iteInduction (fun _ => s.bootUp_legal b hs) fun _ => hs

theorem execPerst_legal (b : BootFindings) (s : State) : KeepsLegal s (execPerst b s) :=
  keepsLegal_next fun hs => iteInduction (fun _ => State.bootUp_legal _ b (hs.of_power rfl)) fun _ => hs

theorem execPowerApplied_legal (s : State) : KeepsLegal s (execPowerApplied s) :=
  keepsLegal_next fun hs => iteInduction (fun _ => hs) fun _ => s.cold_legal _ hs

theorem execThermtrip_legal (s : State) : KeepsLegal s (execThermtrip s) :=
  keepsLegal_next fun hs => iteInduction (fun _ => State.powerDown_legal _ _ (hs.of_power rfl)) fun _ => hs

/-- Every instruction goes on, and leaves the power controller's registers legal. -/
theorem exec_legal (i : Instr) (s : State) : KeepsLegal s (exec i s) := by
  by_cases hi : paced i = true
  · exact (exec_pace s i hi).legal
  · cases i with
    | registerWrite fn off v => exact keepsLegal_next (s.regWrite_legal fn off v)
    | pwrCapWrite fn v => exact keepsLegal_next (s.regWrite_legal fn 0x0F10 v)
    | slotBoundary group => exact execSlotBoundary_legal group s
    | swapDone => exact execSwapDone_legal s
    | sheetStart => exact execSheetStart_legal s
    | powerOnReset b => exact execPowerOnReset_legal b s
    | perst b => exact execPerst_legal b s
    | powerApplied => exact execPowerApplied_legal s
    | powerLoss w a => exact keepsLegal_next (s.powerDown_legal _)
    | thermtrip => exact execThermtrip_legal s
    | powerWindowEnd w => exact execPowerWindowEnd_legal w s
    | junctionTemperature d c => exact execJunctionTemperature_legal d c s
    | bundleIssue c => exact (execBundleIssue_pace c s).legal
    | _ => exact absurd rfl hi

theorem exec_goes (i : Instr) (s : State) : Goes (exec i s) :=
  let ⟨t, ht, _⟩ := exec_legal i s
  ⟨t, ht⟩

theorem takeEvent_legal (s : State) (e : Event) : KeepsLegal s (takeEvent s e) := by
  unfold takeEvent
  split
  · obtain ⟨t, ht, hlegal⟩ := exec_legal e.instr (s.entered e)
    exact ⟨t, ht, fun hs => hlegal (hs.of_power rfl)⟩
  · exact keepsLegal_next id

/-- A step goes on, and leaves them legal, but where the module has no power and nothing is on the agenda. -/
theorem step_legal (s : State) (h : s.boot.powered = true ∨ s.agenda ≠ []) : KeepsLegal s (step s) := by
  unfold step
  split
  next e rest _ => exact (takeEvent_legal { s with agenda := rest } e).imp fun t ht => ⟨ht.1, fun hs => ht.2 (hs.of_power rfl)⟩
  next hnil =>
    have hpow : s.boot.powered = true := h.resolve_right (fun hne => hne hnil)
    rw [if_neg (by simp [hpow])]
    split
    next c _ => exact (takeEvent_legal { s with turn := c.val + 1 } _).imp fun t ht => ⟨ht.1, fun hs => ht.2 (hs.of_power rfl)⟩
    · split
      next e rest _ =>
        exact (takeEvent_legal { s with agenda := rest } e).imp fun t ht => ⟨ht.1, fun hs => ht.2 (hs.of_power rfl)⟩
      · exact keepsLegal_next fun hs => hs.of_pace (congrArg Kept.pace s.tick_kept)

theorem step_unpowered (s : State) (hpow : s.boot.powered = false) (hnil : s.agenda = []) : step s = .fault .noPower := by
  unfold step
  rw [hnil]
  simp [hpow]

/-- Settles O60, by what each instruction leaves alone. -/
theorem everyStepKeepsPowerRegistersLegal : Obligations.EveryStepKeepsPowerRegistersLegal := by
  unfold Obligations.EveryStepKeepsPowerRegistersLegal
  intro s t hs hstep
  by_cases h : s.boot.powered = true ∨ s.agenda ≠ []
  · obtain ⟨u, hu, hlegal⟩ := step_legal s h
    obtain rfl : u = t := by simpa [hu] using hstep
    exact hlegal hs
  · obtain ⟨hpow, hnil⟩ := not_or.mp h
    rw [step_unpowered s (Bool.eq_false_iff.mpr hpow) (not_not.mp hnil)] at hstep
    cases hstep

/-! ### The state after reset -/

theorem State.reset_coreAt (c : Fin 256) : State.reset.coreAt c = Core.reset :=
  Vector.getElem_replicate _

theorem Core.reset_seeTake (l : Level) (n : Fin 16) : Core.reset.seeTake l n = .settled 0 := by
  cases l <;> (revert n; decide)

theorem Core.reset_seeX (l : Level) (n : Fin 16) : Core.reset.seeX l n = .settled 0 := by
  cases l <;> (revert n; decide)

theorem State.reset_fns (fn : Fin 17) : State.reset.fns[fn] = FnRegs.reset := Vector.getElem_replicate _

theorem State.reset_parts (fn : Fin 17) : State.reset.parts[fn] = Partition.absent := Vector.getElem_replicate _

/-- No boot has been refused, so a register is read. -/
theorem regRead_reset (fn : Fin 17) {off : Nat} (hoff : off % 8 = 0) : regRead State.reset fn off = fnRead State.reset fn off := by
  unfold regRead
  rw [dif_pos fn.isLt, show off / 8 * 8 = off by omega]
  rfl

theorem routeEntry_reset (d : Nat) : routeEntry State.reset d = 0xFFFFF#32 := rfl

/-- Every register of a ring is zero at reset. -/
theorem ringReg_reset (n : Fin 8) : ringReg Ring.reset (8 * n.val) = 0 := by
  revert n
  decide

theorem regRead_reset_ring (fn : Fin 17) (q : Fin 64) (n : Fin 8) :
    regRead State.reset fn (0x1000 + 64 * q.val + 8 * n.val) = 0 := by
  have hq := q.isLt
  have hn := n.isLt
  rw [regRead_reset fn (by omega)]
  unfold fnRead
  extract_lets pf f m
  have hf : f = FnRegs.reset := State.reset_fns fn
  have hring : ∀ i, (Vector.replicate 64 Ring.reset).toList.getD i Ring.reset = Ring.reset := fun i => by
    rw [Vector.toList_replicate, List.getD_eq_getElem?_getD, List.getElem?_getD_replicate_default_eq]
  rw [if_neg (by omega), if_neg (by omega), if_neg (by omega), if_neg (by omega), if_neg (by omega), if_neg (by omega),
    if_neg (by omega), if_neg (by omega), if_neg (by omega), if_neg (by omega), if_pos (by omega)]
  split
  · rw [hf]
    exact (congrArg₂ ringReg (hring _) (by omega)).trans (ringReg_reset n)
  · rfl

theorem regRead_reset_route (d : Fin 1024) : regRead State.reset 0 (0x4000 + 8 * d.val) = 0x000FFFFF000FFFFF := by
  have hd := d.isLt
  refine (regRead_reset 0 (by omega)).trans ?_
  unfold fnRead
  extract_lets pf f m
  rw [if_neg (by omega), if_neg (by omega), if_neg (by omega), if_neg (by omega), if_neg (by omega), if_neg (by omega),
    if_neg (by omega), if_neg (by omega), if_neg (by omega), if_neg (by omega), if_neg (by omega), if_pos (by omega)]
  exact (if_pos rfl).trans
    (by decide : BitVec.ofNat 64 ((0xFFFFF#32).toNat + 2 ^ 32 * (0xFFFFF#32).toNat) = 0x000FFFFF000FFFFF)

theorem State.reset_powerLegal : State.reset.powerLegal := by
  unfold State.powerLegal
  decide

/-- Settles O59, by what each instruction answers. -/
theorem resetStateAndProgress : Obligations.ResetStateAndProgress := by
  unfold Obligations.ResetStateAndProgress
  refine ⟨⟨rfl, rfl⟩, rfl, fun c => ⟨?_, fun l n => ⟨?_, ?_⟩⟩, fun p => ?_, by decide, by decide, by decide, regRead_reset_ring,
    regRead_reset_route, by decide, by decide, rfl, State.reset_powerLegal, exec_goes, fun s h => ?_, step_unpowered⟩
  · rw [State.reset_coreAt]
    rfl
  · rw [State.reset_coreAt]
    exact Core.reset_seeTake l n
  · rw [State.reset_coreAt]
    exact Core.reset_seeX l n
  · rw [State.reset_parts]
    rfl
  · obtain ⟨t, ht, -⟩ := step_legal s h
    exact ⟨t, ht⟩

end Sys2Proof.Machine
end

section
/-! The slot and the swap (O45). -/

namespace Sys2Proof.Machine

theorem Vote.is_self (v : Vote) : v.is v = true := by simp [Vote.is]

section
variable {s : State} {v : Vote}

/-! ### The end of a slot -/

theorem State.openSlot_began (s : State) (n began : Nat) (round : Bool) (group : List Nat) :
    (s.openSlot n began round group).sheet.slot = n ∧ (s.openSlot n began round group).sheet.began = began :=
  ⟨(congrArg Pace.slot (s.openSlot_pace n began round group) :), (congrArg Pace.began (s.openSlot_pace n began round group) :)⟩

theorem slotBoundary_stops (group : List Nat) (hover : slotOver s = true) (hstop : s.sheet.stopping = true) :
    Runs (.slotBoundary group) s { s with sheet := { s.sheet with running := false, stopping := false } } := by
  change execSlotBoundary group s = _
  unfold execSlotBoundary
  rw [if_pos hover, if_pos hstop]

theorem slotBoundary_opens (group : List Nat) (hover : slotOver s = true) (hstop : s.sheet.stopping = false) :
    RunsTo (.slotBoundary group) s fun t => t.sheet.slot = nextSlot s ∧
      t.sheet.began = s.sheet.began + 1600 * (slotAt s s.sheet.slot).micros := by
  refine ⟨_, ?_, s.openSlot_began (nextSlot s) _ (if nextSlot s = 0 then !s.sheet.round else s.sheet.round) group⟩
  change execSlotBoundary group s = _
  unfold execSlotBoundary
  rw [if_pos hover, if_neg (by simp [hstop])]

theorem slotBoundary_idle (group : List Nat) (hover : slotOver s = false) (hdue : fixedDue s = none) :
    Runs (.slotBoundary group) s s := by
  change execSlotBoundary group s = _
  unfold execSlotBoundary
  rw [if_neg (by simp [hover]), hdue]

theorem slotBoundary_fixed (group : List Nat) (hover : slotOver s = false) {l : Launch} (hdue : fixedDue s = some l) :
    Runs (.slotBoundary group) s (s.fixedVote l []) := by
  change execSlotBoundary group s = _
  unfold execSlotBoundary
  rw [if_neg (by simp [hover]), hdue]

/-! ### Levelling, stalls and answers -/

theorem levellingCapture_spills {w : Captive} {d : GangDef} {t : State} (hdue : captureDue s = some w)
    (hdef : ((if w.port.isSome then s.takeCaptive w else (s.takeCaptive w).gangSent w.part w.pkt.gang).gangReceived w.part
      w.pkt.gang).gangDef w.part w.pkt.gang = some d)
    (hspill : spill ((if w.port.isSome then s.takeCaptive w else (s.takeCaptive w).gangSent w.part w.pkt.gang).gangReceived
      w.part w.pkt.gang) w.part d w.pkt = .ok t) : Runs .levellingCapture s (t.packetDone w.info stOk) := by
  change execLevellingCapture s = _
  unfold execLevellingCapture
  rw [hdue]
  dsimp only
  rw [hdef]
  dsimp only
  rw [hspill]

theorem voteStall_logs (hdue : stallDue s = some v) :
    RunsTo .voteStall s fun t => t.votes = votesWith s v { v with stalled := true } ∧
      ∃ e, (t.flog[(0 : Fn)]).head? = some e ∧ e.cause = .voteStall ∧ e.index = v.slot ∧ e.gang = v.incoming := by
  obtain ⟨part, hexec⟩ : ∃ part, execVoteStall s = .next ((s.setVote { v with stalled := true }).logUnit .voteStall 2 part 6 v.slot
      0 0 v.incoming) := by
    unfold execVoteStall
    rw [hdue]
    exact ⟨_, rfl⟩
  refine ⟨_, hexec, ?_, ?_⟩
  · exact (congrArg Calm.votes (State.logUnit_calm _ _ _ _ _ _ _ _ _) :).trans (s.setVote_votes (Vote.is_self v))
  · obtain ⟨e, hhead, he⟩ := (s.setVote { v with stalled := true }).logUnit_enters .voteStall part 6 v.slot 0 0 v.incoming
    exact ⟨e, hhead, (congrArg FaultEntry.cause he :), (congrArg FaultEntry.index he :), (congrArg FaultEntry.gang he :)⟩

theorem commitResend_tells (hdue : resendDue s = some v) :
    RunsTo .commitResend s fun t => t.votes = votesWith s v { v with resent := s.cycle } ∧ t.cores = s.cores ∧ SameMemory s t := by
  have hsent := State.tell_fabric (s := s) v (v.group.filter fun m => !v.committed.contains m) phCommit 0
  refine ⟨_, ?_, (hsent.setsAlike v).setVote_votes (Vote.is_self v), hsent.cores, hsent.memory⟩
  change execCommitResend s = _
  unfold execCommitResend
  rw [hdue]

/-! ### The swap -/

theorem State.setTenant_sheet (s : State) (part : Nat) :
    (s.setTenant part).sheet.tenant = part ∧ (s.setTenant part).sheet.began = s.sheet.began ∧
      (s.setTenant part).votes = s.votes := by
  unfold State.setTenant
  dsimp only
  split
  next h => exact ⟨h, rfl, rfl⟩
  · exact ⟨rfl, rfl, rfl⟩

/-- What leaves the sheet and the votes alone leaves the slot's beginning and its tenant. -/
theorem sheet_of_kept {t u : State} (h : t.calm.kept = u.calm.kept) :
    t.sheet.tenant = u.sheet.tenant ∧ t.sheet.began = u.sheet.began ∧ t.votes = u.votes :=
  ⟨(congrArg (fun k : Kept => k.sheet.tenant) h :), (congrArg (fun k : Kept => k.sheet.began) h :),
    (congrArg Kept.votes h :)⟩

theorem swapDone_waits (hready : swapReady s = none) : Runs .swapDone s s := by
  change execSwapDone s = _
  unfold execSwapDone
  rw [hready]

/-- A meter counts beside what its partition is. -/
theorem partAt_meter (s : State) (part : Nat) (m : Fin 16) (n p : Nat) :
    (partAt (s.meter part m n) p).kind = (partAt s p).kind := by
  unfold State.meter
  split
  next hpart =>
    split
    · rfl
    · unfold partAt
      dsimp only
      by_cases hp : p < 17
      · rw [dif_pos hp, dif_pos hp]
        by_cases hsame : part = p
        · subst hsame
          exact (congrArg Partition.kind (Vector.getElem_set_self _) :)
        · exact (congrArg Partition.kind (Vector.getElem_set_ne _ _ hsame) :)
      · rw [dif_neg hp, dif_neg hp]
  · rfl

theorem Vote.fixed_of_kind {t : State} (h : (partAt t v.part).kind = (partAt s v.part).kind) : v.fixed t = v.fixed s := by
  unfold Vote.fixed sliced
  rw [h]

theorem partAt_chargeHold (s : State) (p : Nat) : (partAt s.chargeHold p).kind = (partAt s p).kind := by
  unfold State.chargeHold
  extract_lets h upTo n h'
  split
  · rfl
  · exact (partAt_meter _ _ _ _ _).trans rfl

theorem partAt_setRt (s : State) (part : Nat) (f : PartRt → PartRt) (p : Nat) : partAt (s.setRt part f) p = partAt s p := by
  unfold State.setRt
  split <;> rfl

theorem partAt_leaveTenant (s : State) (p : Nat) : (partAt s.leaveTenant p).kind = (partAt s p).kind := by
  unfold State.leaveTenant
  dsimp only
  split
  · exact partAt_chargeHold s p
  · rw [partAt_setRt]
    exact partAt_chargeHold s p

theorem swapDone_swaps (hready : swapReady s = some v) (hfixed : v.fixed s = false) :
    RunsTo .swapDone s fun t => t.sheet.tenant = v.part ∧ t.sheet.began = max s.sheet.began v.swapAt ∧
      t.votes = votesWith s v { v with state := .done, outgoing := [], resent := v.swapAt } := by
  obtain ⟨t, ht, hsheet⟩ : ∃ t, execSwapDone s = .next t ∧ t.sheet.tenant = v.part ∧
      t.sheet.began = max s.sheet.began v.swapAt ∧
      t.votes = votesWith s v { v with state := .done, outgoing := [], resent := v.swapAt } := by
    unfold execSwapDone
    split
    next h => cases hready.symm.trans h
    next v' h =>
      obtain rfl : v = v' := Option.some.inj (hready.symm.trans h)
      extract_lets u outs w x y z src q r
      have hleft : u.calm.kept = s.calm.kept := by simp [u]
      have hwfix : v.fixed w = false := by
        refine (Vote.fixed_of_kind ?_).trans hfixed
        simp only [w, u, hfixed]
        exact partAt_leaveTenant s v.part
      obtain ⟨-, hbegan, hvotes⟩ := sheet_of_kept hleft
      have hwbegan : w.sheet.began = s.sheet.began := hbegan
      have hwvotes : w.votes = votesWith s v { v with state := .done, outgoing := [], resent := v.swapAt } :=
        (u.setVote_votes (w := { v with state := .done, outgoing := [], resent := v.swapAt }) (Vote.is_self v)).trans
          (by rw [votesWith, hvotes, votesWith])
      have hx : x.calm.kept = w.calm.kept := by simp [x]
      have hy : y.calm.kept = x.calm.kept := by
        simp only [y]
        split <;> simp
      obtain ⟨htenant, hzbegan, hzvotes⟩ := y.setTenant_sheet v.part
      obtain ⟨-, hybegan, hyvotes⟩ := sheet_of_kept (hy.trans hx)
      have hq : q.sheet.tenant = v.part ∧ q.sheet.began = max s.sheet.began v.swapAt ∧ q.votes = w.votes :=
        ⟨htenant, congrArg (max · v.swapAt) (hzbegan.trans (hybegan.trans hwbegan)), hzvotes.trans hyvotes⟩
      clear_value q w
      have hr : r.calm.kept = q.calm.kept := by
        simp only [r, hwfix, Bool.false_eq_true, if_false]
        split <;> simp
      clear_value r
      have hend : ∀ t : State, t.calm.kept = r.calm.kept → t.sheet.tenant = v.part ∧
          t.sheet.began = max s.sheet.began v.swapAt ∧
          t.votes = votesWith s v { v with state := .done, outgoing := [], resent := v.swapAt } := fun t ht => by
        obtain ⟨hten, hbeg, hvot⟩ := sheet_of_kept (ht.trans hr)
        exact ⟨hten.trans hq.1, hbeg.trans hq.2.1, hvot.trans (hq.2.2.trans hwvotes)⟩
      refine ⟨_, rfl, hend _ ?_⟩
      split <;> simp
  exact ⟨t, ht, hsheet⟩

/-! ### Images that go to memory -/

theorem State.meter_saved (s : State) (part : Nat) (m : Fin 16) (n : Nat) : (s.meter part m n).saved = s.saved := by
  unfold State.meter
  split
  · split <;> rfl
  · rfl

theorem saveWriteback_writes {x : Saved} (hx : s.saved.find? (fun x => x.at_ = .bank && Decidable.decide (x.due ≤ s.cycle)) = some x) :
    Runs .saveWriteback s (s.writeback x) := by
  change execSaveWriteback s = _
  unfold execSaveWriteback
  rw [hx]

theorem State.writeback_memory {x : Saved} {a : Nat} (hgood : x.ctx.badWords = []) (ha : imageDpa s x true = .ok a) :
    (s.writeback x).mem = (writeImage s x a).mem ∧ (s.writeback x).l2 = (writeImage s x a).l2 ∧
      ∀ y ∈ (s.writeback x).saved, y.launch = x.launch → y.core = x.core → y.at_ = .memory ∧ y.home = some a := by
  have hback : ∃ part n, s.writeback x =
      ((writeImage s x a).updSaved x fun y => { y with at_ := .memory, home := some a }).meter part 8 n := by
    unfold State.writeback
    rw [if_neg (by simp [hgood]), ha]
    exact ⟨_, _, rfl⟩
  obtain ⟨part, n, hback⟩ := hback
  rw [hback]
  generalize writeImage s x a = u
  refine ⟨State.meter_mem _ part 8 n, State.meter_l2 _ part 8 n, fun y hy hlaunch hcore => ?_⟩
  rw [State.meter_saved] at hy
  obtain ⟨y', -, rfl⟩ := List.mem_map.mp hy
  by_cases hsame : (y'.launch = x.launch && y'.core = x.core) = true
  · rw [if_pos hsame]
    exact ⟨rfl, rfl⟩
  · rw [if_neg hsame] at hlaunch hcore
    exact absurd (by simp [hlaunch, hcore]) hsame

end

/-- Settles O45: the slot's beginning and the tenant by what the functions below the call sheet's leave alone. -/
theorem slotsAndSwaps : Obligations.SlotsAndSwaps := by
  unfold Obligations.SlotsAndSwaps
  intro s v
  refine ⟨fun group => ?_, fun group hover => ⟨fun hstop => ?_, slotBoundary_opens group hover⟩,
    fun group hover => ⟨slotBoundary_idle group hover, fun l => slotBoundary_fixed group hover⟩, ?_, voteStall_logs,
    commitResend_tells, swapDone_waits, swapDone_swaps, ?_⟩
  · exact exec_goes (.slotBoundary group) s
  · exact ⟨_, slotBoundary_stops group hover hstop, rfl, rfl, rfl, SameMemory.of_eq rfl rfl⟩
  · intro w d t hdue
    dsimp only
    intro hdef hspill
    exact levellingCapture_spills hdue hdef hspill
  · exact fun x hx => ⟨saveWriteback_writes hx, fun a hgood ha => ⟨_, saveWriteback_writes hx, State.writeback_memory hgood ha⟩⟩

end Sys2Proof.Machine
end

section
/-! A row step over a bank that is listed twice as open (R167, R183). -/

namespace Sys2Proof.Machine

section
variable {s : State} {ch : Fin 256} {k bank : Nat} {r : NbRun}

theorem State.meter_openRows (part : Nat) (m : Fin 16) (n : Nat) : (s.meter part m n).openRows = s.openRows := by
  unfold State.meter
  split
  · split <;> rfl
  · rfl

theorem State.addNbCount_openRows (part kind n : Nat) : (s.addNbCount part ch kind n).openRows = s.openRows :=
  (congrArg State.openRows (State.setRt_only s part _) :)

/-- A unit's row step closes its bank's row. -/
theorem unitStep_closes {row : Nat} (h : (bankRows r.desc bank)[k / segsOf r.image r.desc]? = some row) :
    (unitStep ch k (s, r) bank).1.openRows = SMap.set 0 s.openRows (32 * ch.val + bank) 0 ∧
      (unitStep ch k (s, r) bank).2.desc = r.desc := by
  unfold unitStep
  dsimp only
  rw [h]
  dsimp only
  refine ⟨?_, rfl⟩
  rw [State.meter_openRows, State.addNbCount_openRows, State.addNbCount_openRows, State.addNbCount_openRows,
    State.addNbCount_openRows]
  rfl

/-- A bank without a row of the run does nothing. -/
theorem unitStep_idle (h : bankRows r.desc bank = []) : unitStep ch k (s, r) bank = (s, r) := by
  unfold unitStep
  dsimp only
  rw [h]
  rfl

theorem unitSteps_idle {l : List Nat} (h : ∀ b ∈ l, bankRows r.desc b = []) :
    l.foldl (unitStep ch k) (s, r) = (s, r) := by
  induction l with
  | nil => rfl
  | cons b l ih =>
    rw [List.foldl_cons, unitStep_idle (h b List.mem_cons_self)]
    exact ih fun b hb => h b (List.mem_cons_of_mem _ hb)

/-- With no entry to combine at its channel a run's sweep changes no open row. -/
theorem State.sweepPlanes_openRows (h : s.comb[ch] = []) : (s.sweepPlanes ch r).openRows = s.openRows := by
  unfold State.sweepPlanes State.applyCombined
  rw [h]
  rfl

/-- A run whose only row lies in bank 0 closes that bank's row and no other. -/
theorem State.channelStep_openRows {row : Nat} (hcomb : s.comb[ch] = [])
    (h0 : (bankRows r.desc 0)[r.mpc / segsOf r.image r.desc]? = some row)
    (hb : ∀ b ∈ List.range' 1 31, bankRows r.desc b = []) :
    (s.channelStep ch r).1.openRows = SMap.set 0 s.openRows (32 * ch.val) 0 := by
  have hstep := unitStep_closes (s := s.sweepPlanes ch r) (ch := ch) h0
  have hrange : List.range 32 = 0 :: List.range' 1 31 := rfl
  unfold State.channelStep
  rw [hrange]
  dsimp only
  rw [List.foldl_cons]
  generalize unitStep ch r.mpc (s.sweepPlanes ch r, r) 0 = acc at hstep ⊢
  obtain ⟨u, x⟩ := acc
  obtain ⟨hrows, hdesc⟩ := hstep
  rw [unitSteps_idle fun b hmem => (congrArg (bankRows · b) hdesc).trans (hb b hmem)]
  dsimp only
  rw [hrows, State.sweepPlanes_openRows hcomb, Nat.add_zero]

end

/-! ### The counterexample -/

/-- A run in RUN of one row, in bank 0, with no plane. -/
def oneRowRun : NbRun where
  cmd := 0
  part := 0
  desc := [0, 0, 0, 0, 0, 0, 0, 0, 1]
  image := []
  planes := []
  ipas := []
  state := .run
  mpc := 0
  steps := 0
  accs := []
  clamp := 0
  singular := 0
  nanSeen := 0
  susp := 0
  rows := []
  start := 0
  since := 0
  ended := none
  kill := none
  written := 0
  quiet := 0

/-- That run at the head of channel 0, whose bank 0 the map of open rows lists twice. -/
def twiceOpen : State := { State.reset with nb := Vector.replicate 256 [oneRowRun], openRows := [(0, 1), (0, 1)] }

/-- Refutes O54: a row step closes the row of its bank by erasing the bank's entry from the map of open rows. In a state
whose map lists the bank twice, which is not the map's canonical form, the second entry remains and the row reads as open. -/
theorem not_nearBankRunSteps : ¬ Obligations.NearBankRunSteps := by
  unfold Obligations.NearBankRunSteps
  intro h
  have hnb : twiceOpen.nb[(0 : Fin 256)] = [oneRowRun] := Vector.getElem_replicate _
  have hcomb : twiceOpen.comb[(0 : Fin 256)] = [] := Vector.getElem_replicate _
  have hfault : stepFault twiceOpen oneRowRun = none := by decide
  have hrow : (bankRows oneRowRun.desc 0)[oneRowRun.mpc / segsOf oneRowRun.image oneRowRun.desc]? = some 0 := by decide
  have hidle : ∀ b ∈ List.range' 1 31, bankRows oneRowRun.desc b = [] := by decide
  obtain ⟨-, -, -, -, -, -, -, -, hrun, -⟩ := h twiceOpen 0 oneRowRun [] rfl hnb
  obtain ⟨-, hclosed, -⟩ := (hrun rfl).2 hfault
  have hopen := hclosed 0 (by omega) 0 hrow
  rw [State.channelStep_openRows hcomb hrow hidle] at hopen
  exact absurd hopen (by decide)

end Sys2Proof.Machine
end

section
/-! Links and ports (R24-R32, R43-R45): arbitration, frames, replay, training, and the registers of ports and routes. -/

namespace Sys2Proof.Machine

/-! ### One port's state -/

/-- Nothing but one port differs. -/
def OnlyPort (n : Fin 20) (s t : State) : Prop := ∃ q, t = s.updPort n fun _ => q

section
variable {s t : State} {n : Fin 20}

@[simp] theorem State.updPort_here (f : Port → Port) : (s.updPort n f).fabric.ports[n] = f s.fabric.ports[n] :=
  Vector.getElem_set_self _

theorem State.updPort_away (f : Port → Port) {o : Fin 20} (ho : o ≠ n) :
    (s.updPort n f).fabric.ports[o] = s.fabric.ports[o] :=
  Vector.getElem_set_ne n.isLt o.isLt fun h => ho (Fin.ext h.symm)

@[simp] theorem State.updPort_updPort (f g : Port → Port) : (s.updPort n f).updPort n g = s.updPort n fun q => g (f q) := by
  unfold State.updPort
  dsimp only
  simp only [Fin.getElem_fin, Vector.getElem_set_self, Vector.set_set]

theorem State.updPort_only (f : Port → Port) : OnlyPort n s (s.updPort n f) := ⟨f s.fabric.ports[n], rfl⟩

theorem OnlyPort.refl (s : State) : OnlyPort n s s := by
  refine ⟨s.fabric.ports[n], ?_⟩
  unfold State.updPort
  dsimp only
  rw [Fin.getElem_fin, Vector.set_getElem_self]

theorem OnlyPort.trans {u : State} (h : OnlyPort n s t) (h' : OnlyPort n t u) : OnlyPort n s u := by
  obtain ⟨q, rfl⟩ := h
  obtain ⟨q', rfl⟩ := h'
  exact ⟨q', State.updPort_updPort _ _⟩

section
variable (h : OnlyPort n s t)
include h

theorem OnlyPort.fabric : OnlyFabric s t := by
  obtain ⟨q, rfl⟩ := h
  rfl

theorem OnlyPort.away (o : Fin 20) (ho : o ≠ n) : t.fabric.ports[o] = s.fabric.ports[o] := by
  obtain ⟨q, rfl⟩ := h
  exact State.updPort_away _ ho

theorem OnlyPort.selfMod : selfMod t = selfMod s := by
  obtain ⟨q, rfl⟩ := h
  rfl

theorem OnlyPort.agenda : t.agenda = s.agenda := (congrArg State.agenda h.fabric :)
theorem OnlyPort.arrivals : t.arrivals = s.arrivals := (congrArg State.arrivals h.fabric :)
theorem OnlyPort.cycle : t.cycle = s.cycle := (congrArg State.cycle h.fabric :)

end

theorem State.returnFlits_only (vc : Fin 6) (k : Nat) : OnlyPort n s (s.returnFlits n.castSucc vc k) := by
  unfold State.returnFlits
  rw [dif_pos (show n.castSucc.val < 20 from n.isLt)]
  exact State.updPort_only _

theorem State.returnFlits_drops (vc : Fin 6) (k : Nat) :
    ((s.returnFlits n.castSucc vc k).fabric.ports[n]).drops = (s.fabric.ports[n]).drops := by
  unfold State.returnFlits
  rw [dif_pos (show n.castSucc.val < 20 from n.isLt)]
  exact (congrArg Port.drops (State.updPort_here (s := s) (n := n) fun q => q.owe vc k) :)

end

/-! ### Arbitration and frames (R25, R43) -/

section
variable {p : Port} {cycle : Nat}

theorem Port.grantIn_some {vc : Fin 5} {e : OutPkt} (h : p.grantIn cycle vc = some e) :
    e.vc = vc ∧ e ∈ p.queue ∧ e.ready ≤ cycle ∧ 1 + e.pkt.flits.length ≤ p.credit[vc.castSucc] := by
  unfold Port.grantIn at h
  split at h
  · cases h
  · obtain ⟨src, -, hsrc⟩ := List.exists_of_findSome?_eq_some h
    split at hsrc
    next x hx =>
      have hvc := List.find?_some hx
      simp only [Bool.and_eq_true, decide_eq_true_eq] at hvc
      split at hsrc
      next hready =>
        obtain rfl := Option.some.inj hsrc
        simp only [Bool.and_eq_true, decide_eq_true_eq] at hready
        exact ⟨hvc.1, List.mem_of_find?_eq_some hx, hready.1, hready.2⟩
      · cases hsrc
    · cases hsrc

/-- The packet granted is of the highest virtual channel that has one. -/
theorem Port.grant_highest {e : OutPkt} (h : p.grant cycle = some e) :
    p.grantIn cycle e.vc = some e ∧ ∀ vc, e.vc < vc → p.grantIn cycle vc = none := by
  obtain ⟨l, vc, l', hl, hvc, hbefore⟩ := List.findSome?_eq_some_iff.mp h
  obtain rfl := (Port.grantIn_some hvc).1
  refine ⟨hvc, fun w hw => hbefore w ?_⟩
  have hsorted : List.Pairwise (· > ·) (l ++ e.vc :: l') := hl ▸ (by decide : List.Pairwise (· > ·) [4, 3, 2, 1, (0 : Fin 5)])
  have hmem : w ∈ l ++ e.vc :: l' := hl ▸ (by decide : ∀ w : Fin 5, w ∈ [4, 3, 2, 1, (0 : Fin 5)]) w
  have hlate : ∀ x ∈ l', e.vc > x := (List.pairwise_cons.mp (List.pairwise_append.mp hsorted).2.1).1
  rcases List.mem_append.mp hmem with h | h
  · exact h
  · rcases List.mem_cons.mp h with rfl | h
    · exact absurd hw (lt_irrefl _)
    · exact absurd hw (lt_asymm (hlate w h))

theorem Port.closeFrame_short (h : p.tx.length < 8) : p.closeFrame = (p, none) := if_pos h

/-- The frame that eight flits fill. -/
def Port.frameOf (p : Port) : Frame :=
  { flits := p.tx.take 8, seq := p.txSeq, ackSeq := p.rxSeq - 1, nak := p.nak,
    credits := p.owed.toList.map fun n => BitVec.ofNat 8 (min n 255), crc := frameCrc (p.tx.take 8) }

theorem Port.closeFrame_full (h : 8 ≤ p.tx.length) :
    p.closeFrame = ({ p with
      tx := p.tx.drop 8, txSeq := p.txSeq + 1, buffer := p.buffer ++ [p.frameOf], nak := false
      owesAck := false, owed := p.owed.map fun n => n - min n 255 }, some p.frameOf) :=
  if_neg (by omega)

/-- The credits that a frame returns are those no longer owed. -/
theorem Port.frameOf_credits (vc : Fin 6) :
    (p.owed.map fun n => n - min n 255)[vc] + (p.frameOf.credits.getD vc.val 0).toNat = p.owed[vc] := by
  have hlen : vc.val < (p.owed.toList.map fun n => BitVec.ofNat 8 (min n 255)).length := by simp
  have hcredit : p.frameOf.credits.getD vc.val 0 = BitVec.ofNat 8 (min p.owed[vc] 255) := by
    unfold Port.frameOf
    dsimp only
    rw [List.getD_eq_getElem _ _ hlen]
    simp
  rw [hcredit, Fin.getElem_fin, Vector.getElem_map, BitVec.toNat_ofNat, Nat.mod_eq_of_lt (by omega), Fin.getElem_fin]
  omega

end

/-! ### Frames received (R25, R30, R32, R33) -/

section
variable {s : State} {port : Fin 20} {f : Frame}

theorem linkFrame_down (h : (s.fabric.ports[port]).up = false) : Runs (.linkFrameReceive port f) s s :=
  (if_pos (by rw [h]; rfl) : execLinkFrameReceive port f s = _)

theorem linkFrame_damaged (h : (s.fabric.ports[port]).up = true) (hcrc : frameCrc f.flits ≠ f.crc) :
    Runs (.linkFrameReceive port f) s (s.updPort port fun q => { q with nak := true }) := by
  change execLinkFrameReceive port f s = _
  unfold execLinkFrameReceive
  dsimp only
  rw [h, if_neg (by decide), if_pos hcrc]

/-- What a sound frame's trailer says: the frames acknowledged leave the buffer, and a NAK is taken up. -/
def State.trailerIn (s : State) (port : Fin 20) (f : Frame) : State :=
  if f.nak then (s.updPort port fun q => q.acknowledge f.ackSeq).nextWork (evPort (.linkNakReceive port (f.ackSeq + 1)) port)
  else s.updPort port fun q => q.acknowledge f.ackSeq

/-- The port after the frame due: its number is passed, and credits come back. -/
def Port.passed (q : Port) (num : BitVec 12) (acks : Bool) (f : Frame) : Port :=
  ({ q with rxSeq := num + 1, owesAck := acks || f.flits.any fun x => x.kind ≠ .idle } : Port).regain f.credits

theorem linkFrame_sound (h : (s.fabric.ports[port]).up = true) (hcrc : frameCrc f.flits = f.crc) :
    exec (.linkFrameReceive port f) s = .next (if f.seq ≠ (s.fabric.ports[port]).rxSeq then s.trailerIn port f else
      f.flits.foldl (fun s x => s.takeFlit port x) ((s.trailerIn port f).updPort port fun q =>
        ({ q with rxSeq := q.rxSeq + 1, owesAck := q.owesAck || f.flits.any fun x => x.kind ≠ .idle } : Port).regain
          f.credits)) := by
  change execLinkFrameReceive port f s = _
  unfold execLinkFrameReceive
  dsimp only
  rw [h, if_neg (by decide), if_neg (by simpa using hcrc), ← apply_ite]
  rfl

/-- A frame seen before changes only what its trailer says. -/
theorem linkFrame_repeated (h : (s.fabric.ports[port]).up = true) (hcrc : frameCrc f.flits = f.crc)
    (hseq : f.seq ≠ (s.fabric.ports[port]).rxSeq) : Runs (.linkFrameReceive port f) s (s.trailerIn port f) := by
  have hexec := linkFrame_sound h hcrc
  rwa [if_pos hseq] at hexec

/-- The port once the frame due has been taken. -/
def State.frameIn (s : State) (port : Fin 20) (f : Frame) : State :=
  s.updPort port fun q => ({ q.acknowledge f.ackSeq with
    rxSeq := q.rxSeq + 1, owesAck := q.owesAck || f.flits.any fun x => x.kind ≠ .idle } : Port).regain f.credits

theorem linkFrame_due (h : (s.fabric.ports[port]).up = true) (hcrc : frameCrc f.flits = f.crc)
    (hseq : f.seq = (s.fabric.ports[port]).rxSeq) (hnak : f.nak = false) :
    Runs (.linkFrameReceive port f) s (f.flits.foldl (fun s x => s.takeFlit port x) (s.frameIn port f)) := by
  have hexec := linkFrame_sound h hcrc
  rw [if_neg (by simpa using hseq)] at hexec
  unfold State.trailerIn at hexec
  rw [hnak, if_neg (by decide), State.updPort_updPort] at hexec
  exact hexec

theorem State.takeFlits_idle {l : List Flit} (h : ∀ x ∈ l, x.kind = .idle) :
    l.foldl (fun s x => s.takeFlit port x) s = s := by
  induction l with
  | nil => rfl
  | cons x l ih =>
    have hx : s.takeFlit port x = s := by
      unfold State.takeFlit
      rw [h x List.mem_cons_self]
    rw [List.foldl_cons, hx]
    exact ih fun y hy => h y (List.mem_cons_of_mem _ hy)

/-- A frame whose one flit that is not idle comes first does what that flit does. -/
theorem State.takeFlits_first {x : Flit} {rest : List Flit} (h : ∀ y ∈ rest, y.kind = .idle) :
    (x :: rest).foldl (fun s x => s.takeFlit port x) s = s.takeFlit port x := State.takeFlits_idle h

end

/-! ### The flits of a frame -/

section
variable {s : State} {port : Fin 20} {x : Flit}

/-- The number of lines that a header states. -/
theorem packetOfBytes_flits {b : List Byte} {codes : List (BitVec 32)} (h : (packetOfBytes b codes).flits = []) :
    min 4 (bitsOf (fieldLE b 1 1) 5 3) = 0 :=
  List.range_eq_nil.mp (List.map_eq_nil_iff.mp h)

/-- A header flit of a packet without lines is the packet. -/
theorem State.takeFlit_head (hk : x.kind = .head) (hq : (packetOfBytes x.bytes []).flits = []) :
    s.takeFlit port x = (s.updPort port fun q => { q with rx := [] }).packetCame port [x] := by
  unfold State.takeFlit
  rw [hk]
  exact if_pos (by rw [List.map_cons, List.headD_cons, packetOfBytes_flits hq]; rfl)

theorem State.packetCame_here (h : (packetOfBytes x.bytes []).dst.toNat = selfMod s) :
    (s.packetCame port [x]).agenda = s.agenda ∧
      (s.packetCame port [x]).arrivals = s.arrivals ++
        [⟨s.cycle + 90, none, evPort (.dataPacketAccept (some port) (packetOfBytes x.bytes [])) port⟩] := by
  have hbytes : x.bytes ++ ([] : List Flit).flatMap (·.bytes) = x.bytes := List.append_nil _
  unfold State.packetCame
  dsimp only
  rw [hbytes, List.map_nil, if_pos h]
  generalize packetOfBytes x.bytes [] = p
  have hleft : OnlyPort port s (s.leaveBuffer port.castSucc x.vc.val p) := State.returnFlits_only _ _
  refine ⟨hleft.agenda, ?_⟩
  rw [← hleft.arrivals]
  rfl

theorem State.packetCame_on (h : (packetOfBytes x.bytes []).dst.toNat ≠ selfMod s) :
    (s.packetCame port [x]).arrivals = s.arrivals ∧
      (s.packetCame port [x]).agenda = s.agenda ++ [evPort (.packetForward x.vc (packetOfBytes x.bytes [])) port] := by
  have hbytes : x.bytes ++ ([] : List Flit).flatMap (·.bytes) = x.bytes := List.append_nil _
  unfold State.packetCame
  dsimp only
  rw [hbytes, List.map_nil, if_neg h]
  exact ⟨rfl, rfl⟩

/-- The input with which a control packet comes by a port. -/
def ctlInput (port : Fin 20) (c : Control) : Input :=
  { Input.reset with ctl := c, ctl2 := Control.zero, port := port.castSucc, last := true }

/-- The state once a control flit has left the link's buffer. -/
def State.ctlTaken (s : State) (port : Fin 20) (c : Control) : State :=
  if passesOn s c then s else s.returnFlits port.castSucc 5 1

theorem State.ctlTaken_only (c : Control) : OnlyPort port s (s.ctlTaken port c) := by
  unfold State.ctlTaken
  split
  · exact OnlyPort.refl s
  · exact State.returnFlits_only _ _

theorem State.takeFlit_control {c : Control} (hk : x.kind = .ctl) (hc : controlsOf x = [c]) :
    s.takeFlit port x = (s.ctlTaken port c).controlCame port c Control.zero true := by
  unfold State.takeFlit State.ctlTaken
  rw [hk]
  dsimp only
  rw [hc, List.any_cons, List.any_nil, Bool.or_false]
  rfl

theorem State.controlCame_here {c : Control} {i : Instr} (hok : c.cccOk = true) (hdst : c.dst.toNat = Machine.selfMod s)
    (hi : controlStep c = some i) :
    s.controlCame port c Control.zero true = s.arriveAt (s.cycle + 8) ⟨i, ctlInput port c⟩ := by
  have hhere : passesOn s c = false := by simp [passesOn, hok, hdst]
  unfold State.controlCame
  dsimp only
  rw [hhere, if_neg (by decide), hok, if_pos rfl, hi]
  rfl

theorem State.controlCame_on {c : Control} (hok : c.cccOk = true) (hdst : c.dst.toNat ≠ Machine.selfMod s) :
    s.controlCame port c Control.zero true = s.nextWork ⟨.packetForward 5 Packet.zero, ctlInput port c⟩ := by
  have hon : passesOn s c = true := by simp [passesOn, hok, hdst]
  unfold State.controlCame
  dsimp only
  rw [hon, if_pos rfl]
  rfl

theorem State.controlCame_damaged {c : Control} (hok : c.cccOk = false) :
    s.controlCame port c Control.zero true = s.countDrop port := by
  have hhere : passesOn s c = false := by simp [passesOn, hok]
  unfold State.controlCame
  dsimp only
  rw [hhere, if_neg (by decide), hok, if_neg (by decide)]

end

/-! ### Replay and training (R25-R27) -/

section
variable {s : State} {port : Fin 20}

theorem linkNak_replays {seq : BitVec 12} (h : (s.fabric.ports[port]).up = true)
    (hf : ∃ f ∈ (s.fabric.ports[port]).framesFrom seq, f.seq = seq) :
    Runs (.linkNakReceive port seq) s { s.updPort port fun q =>
        q.noteReplays s.cycle ((s.fabric.ports[port]).framesFrom seq).length with
      out := s.out ++ ((s.fabric.ports[port]).framesFrom seq).map (OutMsg.frame port) } := by
  have hany : (((s.fabric.ports[port]).framesFrom seq).any fun f => f.seq = seq) = true := by
    simpa [List.any_eq_true] using hf
  change execLinkNakReceive port seq s = _
  unfold execLinkNakReceive
  dsimp only
  rw [h, hany, if_neg (by decide)]
  rfl

theorem linkNak_ignored {seq : BitVec 12}
    (h : (s.fabric.ports[port]).up = false ∨ ∀ f ∈ (s.fabric.ports[port]).framesFrom seq, f.seq ≠ seq) :
    Runs (.linkNakReceive port seq) s s := by
  refine (if_pos ?_ : execLinkNakReceive port seq s = _)
  rcases h with h | h
  · exact Or.inl (by rw [h]; rfl)
  · refine Or.inr ?_
    simpa [List.any_eq_true] using h

theorem State.retrain_starts (ha : (s.fabric.ports[port]).absent = false) (hd : (s.fabric.ports[port]).down = false) :
    (s.retrain port).fabric.ports[port] = { s.fabric.ports[port] with up := false, training := true } := by
  unfold State.retrain
  rw [State.updPort_here, if_neg (by rw [ha, hd]; decide)]

/-- A port comes up with what its training learned, and its buffer goes out again. -/
theorem State.portUp_comes (flight : BitVec 8) (neigh : BitVec 11) (nport : BitVec 5) :
    (s.portUp port flight neigh nport).fabric.ports[port] =
        { s.fabric.ports[port] with
          up := true, training := false, flight := flight, neigh := neigh, nport := nport, trained := s.cycle } ∧
      (∀ o, o ≠ port → (s.portUp port flight neigh nport).fabric.ports[o] = s.fabric.ports[o]) ∧
      (s.portUp port flight neigh nport).out = s.out ++ (s.fabric.ports[port]).buffer.map (OutMsg.frame port) := by
  unfold State.portUp
  dsimp only
  rw [State.updPort_here]
  exact ⟨rfl, fun o ho => State.updPort_away _ ho, rfl⟩

/-- Ports that agree but for packets on their way agree in their queues, where one of them carries none. -/
theorem Port.still_dead {q q' : Port} (h : q.still = q'.still) (hdead : q'.use = .dead) :
    q.queue = q'.queue ∧ q.ctlQueue = q'.ctlQueue ∧ q.cur = q'.cur := by
  have huse : q.use = q'.use := (congrArg Port.use h :)
  have hqueue := congrArg Port.queue h
  have hctl := congrArg Port.ctlQueue h
  unfold Port.still at hqueue hctl
  dsimp only at hqueue hctl
  rw [if_pos hdead, if_pos (huse.trans hdead)] at hqueue hctl
  exact ⟨hqueue, hctl, (congrArg Port.cur h :)⟩

theorem State.portsStill {s t : State} (h : t.calm = s.calm) (n : Fin 20) :
    (t.fabric.ports[n]).still = (s.fabric.ports[n]).still := by
  have hports := congrArg (fun c : Calm => c.ports[n]) h
  simpa [State.calm] using hports

/-- The port whose packets are dropped, before they leave the buffers in which they came. -/
def Port.emptied (q : Port) : Port :=
  { q with queue := [], ctlQueue := [], cur := none, drops := q.drops + q.ctlQueue.length }

theorem State.dropQueues_calm : (s.dropQueues port).calm = (s.updPort port Port.emptied).calm := by
  unfold State.dropQueues
  dsimp only
  rw [State.foldl_calm (fun u e => by rw [State.dropPacket_calm, State.leaveBuffer_calm])]
  split
  · rw [State.dropPacket_calm, State.returnFlits_calm, State.foldl_calm fun u e => State.returnFlits_calm _ _ _ _]
    rfl
  · rw [State.foldl_calm fun u e => State.returnFlits_calm _ _ _ _]
    rfl

/-- A port that carries no packets holds none once its queues are dropped. -/
theorem State.dropQueues_empties (hdead : (s.fabric.ports[port]).use = .dead) :
    let q := (s.dropQueues port).fabric.ports[port]
    q.queue = [] ∧ q.ctlQueue = [] ∧ q.cur = none ∧ q.up = (s.fabric.ports[port]).up ∧
      q.down = (s.fabric.ports[port]).down ∧ q.enable = (s.fabric.ports[port]).enable := by
  have hstill := State.portsStill (State.dropQueues_calm (s := s) (port := port)) port
  rw [State.updPort_here] at hstill
  obtain ⟨hqueue, hctl, hcur⟩ := Port.still_dead hstill hdead
  exact ⟨hqueue, hctl, hcur, (congrArg Port.up hstill :), (congrArg Port.down hstill :), (congrArg Port.enable hstill :)⟩

/-- Without a data packet at the port nothing but the fabric interface changes. -/
theorem State.dropQueues_fabric (hq : (s.fabric.ports[port]).queue = []) (hc : (s.fabric.ports[port]).cur = none) :
    OnlyFabric s (s.dropQueues port) := by
  unfold State.dropQueues
  dsimp only
  rw [hq, hc]
  exact OnlyFabric.trans (t := s.updPort port Port.emptied) rfl
    (OnlyFabric.foldl _ (fun u e => State.returnFlits_fabric u _ _ _) _ _)

/-- The port is down for the rest of the boot, and marked so for the next ones. -/
def State.portLost (s : State) (port : Fin 20) : State :=
  { s.updPort port fun q => { q with up := false, training := false, down := true } with
    boot := { s.boot with failedPorts := s.boot.failedPorts ||| BitVec.ofNat 20 (2 ^ port.val) } }

theorem retrainDone_fails (h : (s.fabric.ports[port]).training = true) (flight : BitVec 8) (neigh : BitVec 11) (nport : BitVec 5) :
    Runs (.retrainDone port false flight neigh nport) s
      (((s.portLost port).logUnit .uncorrectable 2 0 5 port.val 0 0 0).dropQueues port) := by
  change execRetrainDone port false flight neigh nport s = _
  unfold execRetrainDone
  rw [h]
  rfl

theorem retrainDone_up (h : (s.fabric.ports[port]).training = true) (flight : BitVec 8) (neigh : BitVec 11) (nport : BitVec 5) :
    Runs (.retrainDone port true flight neigh nport) s (s.portUp port flight neigh nport) := by
  change execRetrainDone port true flight neigh nport s = _
  unfold execRetrainDone
  rw [h]
  rfl

theorem retrainDone_idle (h : (s.fabric.ports[port]).training = false) (ok : Bool) (flight : BitVec 8) (neigh : BitVec 11)
    (nport : BitVec 5) : Runs (.retrainDone port ok flight neigh nport) s s :=
  (if_pos (by rw [h]; rfl) : execRetrainDone port ok flight neigh nport s = _)

theorem failedPorts_set (b : BitVec 20) (n : Fin 20) : (b ||| BitVec.ofNat 20 (2 ^ n.val)).getLsbD n.val = true := by
  rw [BitVec.getLsbD_or, BitVec.getLsbD_ofNat, Nat.testBit_two_pow_self]
  simp

theorem State.logUnit_fabric (c : Cause) (flags : BitVec 8) (part unit index detail : Nat) (addr : Word) (gang : BitVec 32) :
    (s.logUnit c flags part unit index detail addr gang).fabric = s.fabric :=
  (congrArg State.fabric (s.logUnit_logs c flags part unit index detail addr gang) :)

end

/-! ### Registers of ports, routes and identity (R27, R29, R44, R45) -/

section
variable {s : State} {port : Fin 20}

theorem State.booted_up {k : State → State} (h : s.boot.failed = false) : s.booted k = k s :=
  if_neg (by rw [h]; decide)

theorem State.booted_vf {fn : Fn} {k : State → State} (h : fn ≠ 0 ∨ s.boot.failed = true) :
    s.booted (fun s => if fn = 0 then k s else s) = s := by
  unfold State.booted
  split
  · rfl
  next hup => exact if_neg (h.resolve_right hup)

theorem State.writePortCtl_on {v : Word} (h0 : v.getLsbD 0 = true) (h1 : v.getLsbD 1 = false) :
    s.writePortCtl port v = s.updPort port fun q => { q with enable := true } := by
  unfold State.writePortCtl
  dsimp only
  rw [h0, h1, if_pos rfl, if_neg (by decide)]

theorem State.writePortCtl_off {v : Word} (h0 : v.getLsbD 0 = false) (h1 : v.getLsbD 1 = false) :
    s.writePortCtl port v = (s.updPort port fun q => { q with enable := false }).dropQueues port := by
  unfold State.writePortCtl
  dsimp only
  rw [h0, h1, if_neg (by decide), if_neg (by decide)]

/-- A port that is not enabled carries no packets. -/
theorem Port.use_disabled {q : Port} (h : q.enable = false) : q.use = .dead := by
  unfold Port.use
  rw [h, if_pos (by simp)]

theorem Port.use_down {q : Port} (h : q.down = true) : q.use = .dead := by
  unfold Port.use
  rw [h, if_pos (by simp)]

theorem State.writeFabId_sets {v : Word} (h : (s.parts.any (·.exists_)) = false) :
    s.writeFabId v = { s with
      fabric := { s.fabric with fabId := v &&& 0x7FF }, cores := s.cores.map fun k => { k with pkgId := v.setWidth 11 } } :=
  if_neg (by rw [h]; decide)

theorem fabId_read (h : s.boot.failed = false) : regRead s 0 0x6200 = s.fabric.fabId := by
  unfold regRead
  rw [dif_pos (by decide), h, if_neg (by simp)]
  rfl

theorem fabId_read_vf (h : s.boot.failed = false) {fn : Fin 17} (hfn : fn ≠ 0) : regRead s fn 0x6200 = 0 := by
  unfold regRead
  rw [dif_pos fn.isLt, h, if_neg (by simp)]
  unfold fnRead
  simp [hfn]

theorem fabId_write (h : s.boot.failed = false) (fn : Fn) (v : Word) :
    exec (.registerWrite fn 0x6200 v) s = exec (.fabIdWrite fn v) s := by
  change execRegisterWrite fn 0x6200 v s = execFabIdWrite fn v s
  unfold execRegisterWrite execFabIdWrite
  rw [State.booted_up h]
  unfold State.regWrite
  simp [h]

end

/-! ### Silent drops (R32, R133, R255) -/

section
variable {s : State} {port : Fin 20}

/-- The port with its counts of silent drops begun anew. -/
def State.dropsTaken (s : State) (port : Fin 20) : State := s.updPort port fun q => { q with drops := 0, cutDrops := [] }

/-- The entry of a port's own silent drops. -/
def State.dropsLogged (s : State) (port : Fin 20) : State :=
  if (s.fabric.ports[port]).drops = 0 then s.dropsTaken port
  else (s.dropsTaken port).logUnit .controlDrop 2 0 5 port.val (min (s.fabric.ports[port]).drops 0xFFFF) 0 0

theorem controlDrop_runs : Runs (.controlDrop port) s ((s.fabric.ports[port]).cutDrops.foldl
    (fun s e => s.logUnit .controlDrop 2 e.1 2 port.val (min e.2 0xFFFF) 0 0) (s.dropsLogged port)) := rfl

theorem State.dropsLogged_fabric : (s.dropsLogged port).fabric = (s.dropsTaken port).fabric := by
  unfold State.dropsLogged
  split
  · rfl
  · exact State.logUnit_fabric _ _ _ _ _ _ _ _

theorem State.cutsLogged_fabric (l : List (Nat × Nat)) (u : State) :
    (l.foldl (fun s e => s.logUnit .controlDrop 2 e.1 2 port.val (min e.2 0xFFFF) 0 0) u).fabric = u.fabric := by
  induction l generalizing u with
  | nil => rfl
  | cons e l ih => exact (ih _).trans (State.logUnit_fabric _ _ _ _ _ _ _ _)

/-- An entry of silent drops heads PF 0's log. -/
theorem State.dropEntry_heads (u : State) (part unit index n : Nat) :
    ∃ e, ((u.logUnit .controlDrop 2 part unit index n 0 0).flog[(0 : Fn)]).head? = some e ∧ e.cause = .controlDrop ∧
      e.unit = unit ∧ e.index = index ∧ e.part = part ∧ e.detail = n := by
  obtain ⟨e, hhead, he⟩ := u.logUnit_enters .controlDrop part unit index n 0 0
  exact ⟨e, hhead, (congrArg FaultEntry.cause he :), (congrArg FaultEntry.unit he :), (congrArg FaultEntry.index he :),
    (congrArg FaultEntry.part he :), (congrArg FaultEntry.detail he :)⟩

end

/-- Settles O52, each behaviour by the branch of the model's step that it names. -/
theorem linksAndPorts : Obligations.LinksAndPorts := by
  unfold Obligations.LinksAndPorts
  intro s port
  extract_lets p others _ again
  have hothers {t : State} (h : OnlyPort port s t) : others t := h.away
  refine ⟨?grant, Port.closeFrame_short, ?close, fun f hup => linkFrame_down hup, ?frames, ?nak, ?retrain, ?calmReplays, ?training,
    ?vf, ?enable, ?fabId, ?identity, rfl, ?route, ?drops⟩
  case grant =>
    intro e he
    obtain ⟨hin, hno⟩ := Port.grant_highest he
    obtain ⟨-, hmem, hready, hcredit⟩ := Port.grantIn_some hin
    exact ⟨hmem, hready, hcredit, hno⟩
  case close =>
    intro hlen
    rw [Port.closeFrame_full hlen]
    exact ⟨_, rfl, rfl, rfl, rfl, rfl, by simp [Port.frameOf], rfl, rfl, rfl, rfl, Port.frameOf_credits⟩
  case frames =>
    intro f hup
    have hin : OnlyPort port s (s.frameIn port f) := State.updPort_only _
    refine ⟨fun hcrc => ?_, fun hcrc hseq => ?_, fun hcrc hseq => ⟨⟨_, linkFrame_sound hup hcrc⟩, ?_, ?_, ?_⟩⟩
    · exact ⟨_, linkFrame_damaged hup hcrc, State.updPort_here _, hothers (State.updPort_only _), rfl, SameMemory.of_eq rfl rfl⟩
    · refine ⟨_, linkFrame_repeated hup hcrc hseq, ?_⟩
      have hacked := hothers (State.updPort_only fun q => q.acknowledge f.ackSeq)
      unfold State.trailerIn
      split
      · exact ⟨State.updPort_here (n := port) fun q => q.acknowledge f.ackSeq, hacked, rfl, SameMemory.of_eq rfl rfl, rfl⟩
      · exact ⟨State.updPort_here (n := port) fun q => q.acknowledge f.ackSeq, hacked, rfl, SameMemory.of_eq rfl rfl, (List.append_nil _).symm⟩
    · intro hnak hidle
      have hrun := linkFrame_due hup hcrc hseq hnak
      rw [State.takeFlits_idle hidle] at hrun
      have hquiet : (f.flits.any fun x => x.kind ≠ .idle) = false := by
        simpa [List.any_eq_false] using hidle
      refine ⟨_, hrun, ?_, hothers hin, rfl, SameMemory.of_eq rfl rfl, rfl⟩
      unfold State.frameIn
      rw [State.updPort_here, hquiet, Bool.or_false]
      rfl
    · intro h rest hnak hflits hidle hkind q hq
      have hrun := linkFrame_due hup hcrc hseq hnak
      rw [hflits, State.takeFlits_first hidle, State.takeFlit_head hkind hq] at hrun
      have hrx : OnlyPort port s ((s.frameIn port f).updPort port fun q => { q with rx := [] }) :=
        hin.trans (State.updPort_only _)
      generalize (s.frameIn port f).updPort port (fun q => { q with rx := [] }) = u at hrun hrx
      refine ⟨fun hdst => ⟨_, hrun, ?_⟩, fun hdst => ⟨_, hrun, ?_⟩⟩
      · rw [← hrx.selfMod] at hdst
        obtain ⟨hagenda, harrivals⟩ := State.packetCame_here (port := port) hdst
        rw [hagenda, harrivals, hrx.agenda, hrx.arrivals, hrx.cycle]
        exact ⟨rfl, rfl⟩
      · rw [← hrx.selfMod] at hdst
        obtain ⟨harrivals, hagenda⟩ := State.packetCame_on (port := port) hdst
        rw [hagenda, harrivals, hrx.agenda, hrx.arrivals]
        exact ⟨rfl, rfl⟩
    · intro h rest c hnak hflits hidle hkind hc
      have hrun := linkFrame_due hup hcrc hseq hnak
      rw [hflits, State.takeFlits_first hidle, State.takeFlit_control hkind hc] at hrun
      have htaken : OnlyPort port s ((s.frameIn port f).ctlTaken port c) := hin.trans (State.ctlTaken_only c)
      refine ⟨_, hrun, fun hok hdst i hi => ?_, fun hok hdst => ?_, fun hok => ?_⟩
      · rw [← htaken.selfMod] at hdst
        rw [State.controlCame_here hok hdst hi, ← htaken.arrivals, ← htaken.cycle]
        rfl
      · rw [← htaken.selfMod] at hdst
        rw [State.controlCame_on hok hdst, ← htaken.agenda]
        rfl
      · rw [State.controlCame_damaged hok]
        refine ⟨htaken.arrivals, htaken.agenda, ?_⟩
        have hback : passesOn (s.frameIn port f) c = false := by simp [passesOn, hok]
        unfold State.countDrop State.ctlTaken
        rw [State.updPort_here, hback, if_neg (by decide)]
        dsimp only
        rw [State.returnFlits_drops]
        exact congrArg (· + 1) (congrArg Port.drops (State.updPort_here (s := s) (n := port) _) :)
  case nak =>
    intro seq
    extract_lets fs
    have hreplayed := hothers (State.updPort_only fun q => q.noteReplays s.cycle fs.length)
    exact ⟨fun hup hf => ⟨_, linkNak_replays hup hf,
      State.updPort_here (n := port) fun q => q.noteReplays s.cycle fs.length, hreplayed, SameMemory.of_eq rfl rfl, rfl⟩,
      linkNak_ignored⟩
  case retrain =>
    intro ha hd
    have hagain : again (s.retrain port) :=
      ⟨State.retrain_starts ha hd, hothers (State.updPort_only _), rfl, SameMemory.of_eq rfl rfl⟩
    refine ⟨⟨_, rfl, hagain⟩, fun hboot => ⟨_, ?_, hagain⟩, fun hmany => ⟨_, ?_, hagain⟩⟩
    · exact congrArg Host.Outcome.next (State.booted_up hboot)
    · exact congrArg Host.Outcome.next (if_pos hmany)
  case calmReplays => exact fun hfew => congrArg Host.Outcome.next (if_neg (Nat.not_lt.mpr hfew))
  case training =>
    intro flight neigh nport
    extract_lets up comesUp
    have hup : comesUp (s.portUp port flight neigh nport) := State.portUp_comes flight neigh nport
    refine ⟨fun h ok => retrainDone_idle h ok flight neigh nport, fun h => ⟨_, retrainDone_up h flight neigh nport, hup⟩,
      fun h => ⟨_, retrainDone_fails h flight neigh nport, ?_⟩, fun ha hd hu => ⟨_, ?_, hup⟩, fun h => ?_⟩
    · have hfab := (s.portLost port).logUnit_fabric .uncorrectable 2 0 5 port.val 0 0 0
      have hlost : (s.portLost port).fabric.ports[port] = { p with up := false, training := false, down := true } :=
        State.updPort_here (s := s) (n := port) fun q => { q with up := false, training := false, down := true }
      obtain ⟨e, hhead, he⟩ := (s.portLost port).logUnit_enters .uncorrectable 0 5 port.val 0 0 0
      have hcalm := (s.portLost port).logUnit_calm .uncorrectable 2 0 5 port.val 0 0 0
      generalize (s.portLost port).logUnit .uncorrectable 2 0 5 port.val 0 0 0 = u at hfab hhead hcalm
      have hport : u.fabric.ports[port] = { p with up := false, training := false, down := true } := by rw [hfab, hlost]
      obtain ⟨hqueue, hctl, hcur, hup', hdown, -⟩ := State.dropQueues_empties (s := u) (port := port)
        (Port.use_down (by rw [hport]))
      rw [hport] at hup' hdown
      refine ⟨hdown, hup', hqueue, hctl, hcur, ?_, fun hq hc => ?_⟩
      · have hboot := congrArg Calm.boot ((State.dropQueues_calm (s := u) (port := port)).trans rfl)
        have hlostBoot := congrArg Calm.boot hcalm
        have hbits : (u.dropQueues port).boot.failedPorts = s.boot.failedPorts ||| BitVec.ofNat 20 (2 ^ port.val) :=
          congrArg Boot.failedPorts (hboot.trans hlostBoot)
        rw [hbits]
        exact failedPorts_set _ _
      · have honly := State.dropQueues_fabric (s := u) (port := port) (by rw [hport]; exact hq) (by rw [hport]; exact hc)
        rw [(congrArg State.flog honly :)]
        exact ⟨e, hhead, (congrArg FaultEntry.cause he :), (congrArg FaultEntry.unit he :), (congrArg FaultEntry.index he :)⟩
    · have hstarts : ¬ (p.absent || p.down || p.up) = true := by rw [ha, hd, hu]; decide
      exact congrArg Host.Outcome.next (if_neg hstarts)
    · have hstays : (p.absent || p.down || p.up) = true := by
        rcases h with h | h | h <;> simp [h]
      exact congrArg Host.Outcome.next (if_pos hstays)
  case vf =>
    intro fn v dest e h
    exact ⟨congrArg Host.Outcome.next (State.booted_vf h), congrArg Host.Outcome.next (State.booted_vf h),
      congrArg Host.Outcome.next (State.booted_vf h), congrArg Host.Outcome.next (State.booted_vf h)⟩
  case enable =>
    intro hboot v h1
    have hexec : exec (.portEnableWrite 0 port v) s = .next (s.writePortCtl port v) :=
      congrArg Host.Outcome.next (State.booted_up hboot)
    refine ⟨fun h0 => ⟨_, hexec, ?_⟩, fun h0 => ⟨_, hexec, ?_⟩⟩
    · rw [State.writePortCtl_on h0 h1]
      exact ⟨State.updPort_here _, hothers (State.updPort_only _), rfl⟩
    · rw [State.writePortCtl_off h0 h1]
      have hport : (s.updPort port fun q => { q with enable := false }).fabric.ports[port] = { p with enable := false } :=
        State.updPort_here _
      obtain ⟨hqueue, hctl, hcur, -, -, henable⟩ := State.dropQueues_empties
        (s := s.updPort port fun q => { q with enable := false }) (port := port) (Port.use_disabled (by rw [hport]))
      rw [hport] at henable
      exact ⟨henable, hqueue, hctl, hcur⟩
  case fabId =>
    intro hboot v
    have hexec : exec (.fabIdWrite 0 v) s = .next (s.writeFabId v) := congrArg Host.Outcome.next (State.booted_up hboot)
    refine ⟨fun h => hexec.trans (congrArg Host.Outcome.next (if_pos h)), fun h => ⟨_, hexec, ?_⟩⟩
    rw [State.writeFabId_sets h]
    refine ⟨rfl, SameMemory.of_eq rfl rfl, fun c => ?_⟩
    exact congrArg Core.pkgId (Vector.getElem_map (xs := s.cores) _ c.isLt)
  case identity => exact fun hboot => ⟨fabId_read hboot, fun fn hfn => fabId_read_vf hboot hfn, fun fn v => fabId_write hboot fn v⟩
  case route =>
    intro hboot dest e
    exact ⟨_, congrArg Host.Outcome.next (State.booted_up hboot), rfl, rfl, rfl⟩
  case drops =>
    have hport : ((s.dropsTaken port).fabric.ports[port]) = { p with drops := 0, cutDrops := [] } := State.updPort_here _
    refine ⟨_, controlDrop_runs, ?_, ?_, fun hdrops hcuts => ?_, fun fn n hcuts => ?_⟩
    · rw [State.cutsLogged_fabric, State.dropsLogged_fabric, hport]
    · rw [State.cutsLogged_fabric, State.dropsLogged_fabric, hport]
    · change ∃ e, (List.head? (State.flog (p.cutDrops.foldl _ _))[(0 : Fn)]) = some e ∧ _
      rw [hcuts]
      unfold State.dropsLogged
      rw [if_neg hdrops]
      obtain ⟨e, hhead, hcause, hunit, hindex, -, hdetail⟩ :=
        (s.dropsTaken port).dropEntry_heads 0 5 port.val (min p.drops 0xFFFF)
      exact ⟨e, hhead, hcause, hunit, hindex, hdetail⟩
    · change ∃ e, (List.head? (State.flog (p.cutDrops.foldl _ _))[(0 : Fn)]) = some e ∧ _
      rw [hcuts]
      exact (s.dropsLogged port).dropEntry_heads fn 2 port.val (min n 0xFFFF)

end Sys2Proof.Machine
end

section
/-! What an invalidation leaves in a quad's TLB (R86, R88, R190, R191): a near-bank run that it ends while queued writes its
record, and the record's translation is taken up anew. -/

namespace Sys2Proof.Machine

section
variable {s : State}

theorem tlbInsert_mem (t : TlbEntry) (l : List TlbEntry) : t ∈ tlbInsert t l := by
  unfold tlbInsert
  split
  next h => simpa using h
  · dsimp only
    split
    · exact List.mem_cons_self
    · split
      · exact List.mem_cons_self
      · exact List.mem_cons_self

/-- After an access the quad's TLB holds the entry that the access found. -/
theorem State.noteQuad_holds {q : Req} {c : Fin 256} {part va : Nat} {t : TlbEntry} {miss : Bool}
    (h : lookupQuad s (quadOf c) part va = .ok (t, miss)) : t ∈ (s.noteQuad q c part va).l2tlb[quadOf c] := by
  have hnoted : s.noteQuad q c part va =
      if miss then ((s.note q 4 1).walkFor q part va).fillL2Tlb (quadOf c) t else s := by
    unfold State.noteQuad
    rw [h]
  rw [hnoted]
  split
  · generalize (s.note q 4 1).walkFor q part va = u
    have hset : (u.fillL2Tlb (quadOf c) t).l2tlb[quadOf c] = tlbInsert t u.l2tlb[quadOf c] := Vector.getElem_set_self _
    rw [hset]
    exact tlbInsert_mem _ _
  next hhit =>
    unfold lookupQuad at h
    split at h
    next x hx =>
      obtain ⟨rfl, -⟩ := Prod.mk.inj (Except.ok.inj h)
      exact List.mem_of_find?_eq_some hx
    · cases hw : walk s part va with
      | error e => rw [hw] at h; cases h
      | ok x =>
        rw [hw] at h
        exact absurd (Prod.mk.inj (Except.ok.inj h)).2.symm hhit

theorem State.meter_l2tlb (part : Nat) (m : Fin 16) (n : Nat) : (s.meter part m n).l2tlb = s.l2tlb := by
  unfold State.meter
  split
  · split <;> rfl
  · rfl

/-- A command without a tag completes and leaves the TLBs. -/
theorem State.completeCmd_l2tlb (h : ∀ m ∈ s.cmds, m.tag = none) (id : Nat) (st : BitVec 8) :
    (s.completeCmd id st).l2tlb = s.l2tlb := by
  unfold State.completeCmd
  split
  · rfl
  next m hm =>
    rw [h m (List.mem_of_find?_eq_some hm)]

/-- An engine's write to a host page is made at once. -/
theorem engWrite_host {m : EngCmd} {a : Nat} {p : Phys} (hwin : engWindow s m a = none)
    (hp : engPhys s m .write a = .ok p) (hhost : p.host = true) (bs : List Byte) (hd : engDiff s m p.diff a bs.length = true) :
    engWrite s m (.mem a) bs =
      .ok { (s.engTlb m a).meter m.part 13 bs.length with hostMem := s.hostMem.writeBytes p.addr bs } := by
  unfold engWrite
  dsimp only
  rw [hwin]
  dsimp only
  rw [hp]
  dsimp only
  rw [hd, hhost, if_neg (by decide), if_pos rfl]

/-- A record of one piece that translates is written, and the command completes. -/
theorem State.runRecord_one {t : State} {m : EngCmd} {st : BitVec 8} {d : EngAddr} {bs : List Byte} {n : Nat}
    (h0 : rdStatus m.block ≠ 0) (hmoved : m.moved = 0)
    (hcut : cutRun (m.bytes.length + 1) (.mem (rdStatus m.block)) (.data m.bytes) m.bytes.length = [⟨d, .data bs, n⟩])
    (hfails : recordFails s m [⟨d, .data bs, n⟩] = none) (hw : engWrite s m d bs = .ok t) :
    s.runRecord m st = t.finishCmd { m with moved := m.moved + 1 } st (nbxBar { m with moved := m.moved + 1 }) := by
  have hmove : movePieces [] s m [⟨d, .data bs, n⟩] = (t, { m with moved := m.moved + 1 }, none) := by
    simp only [movePieces, movePiece, hw]
    rfl
  unfold State.runRecord
  dsimp only
  rw [hcut, hfails, if_neg h0, hmoved, List.drop_zero]
  dsimp only
  rw [hmove, hmoved]

/-- Where the last channel alone has a run, queued and named, it ends at once. -/
theorem State.endRuns_last {p : NbRun → Bool} {reason : Nat} {r : NbRun} (hnone : ∀ ch : Fin 256, ch ≠ 255 → s.nb[ch] = [])
    (hlast : s.nb[(255 : Fin 256)] = [r]) (hp : p r = true) (hq : r.state = .queued) :
    s.endRuns p reason = ({ s with nb := s.nb.set (255 : Fin 256) [] } : State).completeRun r reason := by
  have hsplit : List.finRange 256 = (List.finRange 255).map Fin.castSucc ++ [255] := List.finRange_succ_last
  have hidle (l : List (Fin 255)) (f : State → Fin 256 → State) (hf : ∀ ch : Fin 256, ch ≠ 255 → f s ch = s) :
      (l.map Fin.castSucc).foldl f s = s := by
    induction l with
    | nil => rfl
    | cons c l ih =>
      rw [List.map_cons, List.foldl_cons, hf _ (Fin.castSucc_lt_last c).ne]
      exact ih
  unfold State.endRuns
  rw [hsplit, List.foldl_append, hidle]
  · rw [List.foldl_cons, List.foldl_nil, hlast]
    simp [hp, hq]
  · intro ch hch
    rw [hnone ch hch]
    rfl

end

/-! ### The counterexample -/

/-- PSET S2INV of everything in partition 1. -/
def invalidateAll : Cmd := ⟨0, 0, 0, zeros 9 ++ [1] ++ zeros 54, 0⟩

/-- An NBX of partition 1 whose record goes to VA 0x40400000. -/
def runCommand : EngCmd :=
  { newCmd State.reset .nop none 0 0 0 with
    id := 5, level := .u, part := 1, block := zeros 48 ++ natToBytes 8 0x40400000 ++ zeros 8 }

/-- Its run, queued, which rests on the first granule of the partition. -/
def queuedRun : NbRun := { oneRowRun with cmd := 5, part := 1, ipas := [0], state := .queued }

/-- Tables that map the first two GiB of VA to IPA, the first GiB of IPA to the same DPAs and the second to the host. -/
def hostTables : Mem :=
  (((Mem.writeBytes [] 0x700000 (natToBytes 8 0xF)).writeBytes 0x700008 (natToBytes 8 0x800000004000000F)).writeBytes 0
    (natToBytes 8 0x701001)).writeBytes 0x701008 (natToBytes 8 0x4000000F)

/-- The partition with that run at the head of channel 255, and the command that invalidates it. -/
def restingRun : State :=
  { State.reset with
    parts := State.reset.parts.set 1 { Partition.absent with
      exists_ := true, chans := BitVec.allOnes 256, s2root := 0x700000, iova := [⟨0x40000000, 0x40000000⟩] }
    mem := hostTables, nb := State.reset.nb.set (255 : Fin 256) [queuedRun], cmds := [runCommand]
    inp := { Input.reset with cmd := invalidateAll } }

/-- The state from which the run's end is taken: the translations have left, and the run its channel. -/
def invalidatedRun : State := { restingRun.dropTlbOf 1 with nb := (restingRun.dropTlbOf 1).nb.set (255 : Fin 256) [] }

/-- The command once its run has ended, with its record. -/
def endedRun : EngCmd :=
  { runCommand with
    bytes := recordOf invalidatedRun queuedRun 4, ended := some (nbStatus 4), chan := none, moved := 0
    count := nbxCount queuedRun.image runCommand.block }

/-- The state in which that record is written. -/
def recordState : State := invalidatedRun.setCmd endedRun

/-- The entry that the record's address is translated by. -/
def recordEntry : TlbEntry :=
  { part := 1, vbase := 0x40000000, size := 0x40000000, base := 0x40000000, host := true, rd := true, wr := true,
    rd2 := true, wr2 := true, so := false, diff := false, mtype := 0, ibase := 0x40000000 }

theorem recordState_lookup : lookupQuad recordState (quadOf endedRun.core) 1 0x40400000 = .ok (recordEntry, true) := by
  decide +kernel

theorem recordState_phys : engPhys recordState endedRun .write 0x40400000 = .ok ⟨0x40400000, true, false, 0⟩ := by
  decide +kernel

theorem recordState_window : engWindow recordState endedRun 0x40400000 = none :=
  Option.isNone_iff_eq_none.mp (by decide +kernel)

theorem recordState_cut : cutRun (endedRun.bytes.length + 1) (.mem (rdStatus endedRun.block)) (.data endedRun.bytes)
    endedRun.bytes.length = [⟨.mem 0x40400000, .data endedRun.bytes, 64⟩] := by
  decide +kernel

theorem recordState_diff : engDiff recordState endedRun false 0x40400000 endedRun.bytes.length = true := by decide +kernel

theorem recordState_sound :
    recordFails recordState endedRun [⟨.mem 0x40400000, .data endedRun.bytes, 64⟩] = none := by
  unfold recordFails
  rw [List.findSome?_cons]
  dsimp only
  rw [show EngAddr.num (.mem 0x40400000) = 0x40400000 from rfl, recordState_window, recordState_phys]
  rfl

theorem restingRun_invalidated : restingRun.invalidate 1 0 (2 ^ 39) = (recordState.runRecord endedRun (nbStatus 4)).unpark 1 := by
  have hnone : ∀ ch : Fin 256, ch ≠ 255 → (restingRun.dropTlbOf 1).nb[ch] = [] := fun ch hch =>
    (Vector.getElem_set_ne (Fin.isLt 255) ch.isLt fun h => hch (Fin.ext h.symm)).trans (Vector.getElem_replicate _)
  have hlast : (restingRun.dropTlbOf 1).nb[(255 : Fin 256)] = [queuedRun] := Vector.getElem_set_self _
  have hfind : invalidatedRun.cmds.find? (·.id = queuedRun.cmd) = some runCommand := by decide
  unfold State.invalidate
  rw [State.endRuns_last hnone hlast (by decide) rfl]
  change (invalidatedRun.completeRun queuedRun 4).unpark 1 = _
  unfold State.completeRun
  rw [hfind]
  rfl

/-- The record's translation stands in the quad's TLB once the invalidation is over. -/
theorem recordEntry_stays :
    recordEntry ∈ (restingRun.invalidate 1 0 (2 ^ 39)).l2tlb[quadOf endedRun.core] := by
  have hwrite := engWrite_host recordState_window recordState_phys rfl endedRun.bytes recordState_diff
  rw [restingRun_invalidated, State.runRecord_one (by decide) rfl recordState_cut recordState_sound hwrite]
  have hheld := State.noteQuad_holds (q := endedRun.req) recordState_lookup
  have hcmds : (recordState.noteQuad endedRun.req endedRun.core 1 0x40400000).cmds = [endedRun] :=
    (congrArg State.cmds (State.engTlb_memorySide (s := recordState) endedRun 0x40400000).1 :)
  have htlb : recordState.engTlb endedRun 0x40400000 = recordState.noteQuad endedRun.req endedRun.core 1 0x40400000 :=
    if_neg (by decide)
  rw [htlb]
  generalize recordState.noteQuad endedRun.req endedRun.core 1 0x40400000 = u at hheld hcmds
  have htags : ∀ m ∈ ({ u.meter endedRun.part 13 endedRun.bytes.length with
      hostMem := recordState.hostMem.writeBytes 0x40400000 endedRun.bytes } : State).cmds, m.tag = none := by
    intro m hm
    rw [(congrArg State.cmds (u.meter_memorySide endedRun.part 13 endedRun.bytes.length).1 : _), hcmds] at hm
    rw [List.mem_singleton.mp hm]
    rfl
  change recordEntry ∈ (State.l2tlb (State.completeCmd _ _ _))[quadOf endedRun.core]
  rw [State.completeCmd_l2tlb htags]
  change recordEntry ∈ (u.meter endedRun.part 13 endedRun.bytes.length).l2tlb[quadOf endedRun.core]
  rw [State.meter_l2tlb]
  exact hheld

/-- Refutes O48: an invalidation first drops every translation of the partition and then ends the near-bank runs that rest
on the range. A queued run ends at once; its record is written through the tables, and that translation stays in the L2 TLB of
its quad. -/
theorem not_partitionAndSheetSettings : ¬ Obligations.PartitionAndSheetSettings := by
  unfold Obligations.PartitionAndSheetSettings
  intro h
  obtain ⟨-, hinv, -⟩ := h restingRun
  have hcmd : CmdFor restingRun .pf ([(8, 1), (9, 1)] ++ [(16, 8), (24, 8)]) := ⟨by decide, by decide +kernel⟩
  have hvf : 0 < restingRun.inp.cmd.field 9 1 ∧ restingRun.inp.cmd.field 9 1 ≤ 16 ∧
      (partAt restingRun (restingRun.inp.cmd.field 9 1)).exists_ = true := by decide +kernel
  obtain ⟨-, -, -, hgone⟩ := hinv (restingRun.invalidate 1 0 (2 ^ 39)) ⟨hcmd, hvf⟩ (by decide +kernel) (by decide +kernel) rfl
  exact hgone _ _ recordEntry_stays rfl

end Sys2Proof.Machine
end

section
/-! What the device's own accesses leave alone (R47, R54, R90, R91, R171): a requester without a context that allocates in no
way of L2 changes memory and its accounts, and nothing else. -/

namespace Sys2Proof.Machine

/-- Memory, its lines, its accounts and its free values differ, and nothing else; of a partition, its meters alone. -/
def OnlyDevice (s t : State) : Prop :=
  ({ t with
    mem := s.mem, hostMem := s.hostMem, badLines := s.badLines, ecc := s.ecc, l2 := s.l2, plru := s.plru, comb := s.comb,
    nb := s.nb, qos := s.qos, openRows := s.openRows, parts := s.parts, free := s.free } : State) = s ∧
  ∀ p : Fin 17, ({ t.parts[p] with meters := (s.parts[p]).meters } : Partition) = s.parts[p]

section
variable {s t u : State}

theorem OnlyDevice.refl (s : State) : OnlyDevice s s := ⟨rfl, fun _ => rfl⟩

theorem OnlyDevice.trans (h : OnlyDevice s t) (h' : OnlyDevice t u) : OnlyDevice s u := by
  obtain ⟨hs, hp⟩ := h
  obtain ⟨hs', hp'⟩ := h'
  refine ⟨?_, fun p => ?_⟩
  · have h2 := congrArg (fun v : State => { v with
      mem := s.mem, hostMem := s.hostMem, badLines := s.badLines, ecc := s.ecc, l2 := s.l2, plru := s.plru, comb := s.comb,
      nb := s.nb, qos := s.qos, openRows := s.openRows, parts := s.parts, free := s.free }) hs'
    exact h2.trans hs
  · have h2 := congrArg (fun x : Partition => { x with meters := (s.parts[p]).meters }) (hp' p)
    exact h2.trans (hp p)

theorem OnlyDevice.ite {c : Prop} [Decidable c] (ht : OnlyDevice s t) (hu : OnlyDevice s u) :
    OnlyDevice s (if c then t else u) := by
  split
  · exact ht
  · exact hu

theorem OnlyDevice.foldl {α : Type} (f : State → α → State) (hf : ∀ s a, OnlyDevice s (f s a)) (l : List α) (s : State) :
    OnlyDevice s (l.foldl f s) := by
  induction l generalizing s with
  | nil => exact OnlyDevice.refl s
  | cons a l ih => exact (hf s a).trans (ih (f s a))

section
variable (h : OnlyDevice s t)
include h

theorem OnlyDevice.cores : t.cores = s.cores := (congrArg State.cores h.1 :)
theorem OnlyDevice.coreAt (c : Fin 256) : t.coreAt c = s.coreAt c := congrArg (fun v : Vector Core 256 => v[c]) h.cores
theorem OnlyDevice.fns : t.fns = s.fns := (congrArg State.fns h.1 :)
theorem OnlyDevice.cmdRuns : t.cmdRuns = s.cmdRuns := (congrArg State.cmdRuns h.1 :)
theorem OnlyDevice.nextId : t.nextId = s.nextId := (congrArg State.nextId h.1 :)
theorem OnlyDevice.out : t.out = s.out := (congrArg State.out h.1 :)
theorem OnlyDevice.launches : t.launches = s.launches := (congrArg State.launches h.1 :)
theorem OnlyDevice.rt : t.rt = s.rt := (congrArg State.rt h.1 :)
theorem OnlyDevice.partRt (p : Nat) : t.partRt p = s.partRt p := by rw [State.partRt, State.partRt, h.rt]
theorem OnlyDevice.gangs : t.gangs = s.gangs := (congrArg State.gangs h.1 :)
theorem OnlyDevice.cycle : t.cycle = s.cycle := (congrArg State.cycle h.1 :)
theorem OnlyDevice.inp : t.inp = s.inp := (congrArg State.inp h.1 :)
theorem OnlyDevice.msixMask : t.msixMask = s.msixMask := (congrArg State.msixMask h.1 :)

/-- A partition keeps all but its meters. -/
theorem OnlyDevice.part_keeps {α : Type} (g : Partition → α) (hg : ∀ (x : Partition) m, g { x with meters := m } = g x)
    (p : Fin 17) : g t.parts[p] = g s.parts[p] :=
  (hg t.parts[p] (s.parts[p]).meters).symm.trans (congrArg g (h.2 p))

end

/-! ### Memory and its accounts -/

section
variable (s)

theorem State.meter_device (part : Nat) (m : Fin 16) (n : Nat) : OnlyDevice s (s.meter part m n) := by
  unfold State.meter
  split
  next hp =>
    refine OnlyDevice.ite (OnlyDevice.refl s) ⟨rfl, fun p => ?_⟩
    dsimp only
    by_cases hpart : part = p.val
    · subst hpart
      rw [Fin.getElem_fin, Vector.getElem_set_self]
      rfl
    · rw [Fin.getElem_fin, Vector.getElem_set_ne hp p.isLt hpart]
      rfl
  · exact OnlyDevice.refl s

theorem State.poke_device (tag a : Nat) (bs : List Byte) : OnlyDevice s (s.poke tag a bs) :=
  OnlyDevice.ite ⟨rfl, fun _ => rfl⟩ ⟨rfl, fun _ => rfl⟩

theorem State.put_device (tag a : Nat) (bs : List Byte) (side : Bool) : OnlyDevice s (s.put tag a bs side) :=
  OnlyDevice.ite ⟨rfl, fun _ => rfl⟩ (s.poke_device tag a bs)

theorem State.noteWindow_device (ch : Fin 256) : OnlyDevice s (s.noteWindow ch) := by
  unfold State.noteWindow
  split
  · exact OnlyDevice.ite ⟨rfl, fun _ => rfl⟩ (OnlyDevice.refl s)
  · exact OnlyDevice.refl s

theorem State.updQos_device (ch : Fin 256) (part : Nat) (f : QosCount → QosCount) : OnlyDevice s (s.updQos ch part f) :=
  ⟨rfl, fun _ => rfl⟩

theorem State.withFree_device (n : Nat) : OnlyDevice s { s with free := n } := ⟨rfl, fun _ => rfl⟩

theorem State.openRow_device (dpa : Nat) : OnlyDevice s (s.openRow dpa) := ⟨rfl, fun _ => rfl⟩

theorem State.touchWay_device (slice set w : Nat) : OnlyDevice s (s.touchWay slice set w) := ⟨rfl, fun _ => rfl⟩

theorem State.channelUse_device (dpa part : Nat) (rd : Bool) : OnlyDevice s (s.channelUse dpa part rd) := by
  unfold State.channelUse
  extract_lets ch used slow
  have hused : OnlyDevice s used := (s.openRow_device dpa).trans (State.noteWindow_device _ ch)
  refine OnlyDevice.ite (hused.trans (OnlyDevice.ite (used.updQos_device ch part _) (OnlyDevice.refl used)))
    (OnlyDevice.ite (hused.trans ((used.withFree_device _).trans (State.updQos_device _ ch part _))) hused)

end

/-! ### Accesses without a context -/

section
variable (s) {q : Req} (hq : q.ctx = none)
include hq

theorem State.note_device (ev : Fin 16) (n : Nat) : s.note q ev n = s := by
  unfold State.note
  rw [hq]

theorem State.hbmWrite_device (dpa : Nat) : OnlyDevice s (s.hbmWrite q dpa) := by
  unfold State.hbmWrite
  rw [State.note_device _ hq]
  exact (s.channelUse_device dpa q.part false).trans (State.meter_device _ q.part 8 64)

theorem State.correctRead_device (dpa : Nat) : OnlyDevice s (s.correctRead q dpa) := by
  unfold State.correctRead
  extract_lets found drawn
  have hdrawn : OnlyDevice s drawn := s.withFree_device _
  refine OnlyDevice.ite ?_ hdrawn
  rw [State.note_device _ hq]
  exact hdrawn.trans ⟨rfl, fun _ => rfl⟩

theorem State.hbmRead_device (dpa : Nat) : OnlyDevice s (s.hbmRead q dpa) := by
  unfold State.hbmRead
  rw [State.note_device _ hq]
  exact ((s.channelUse_device dpa q.part true).trans (State.meter_device _ q.part 7 64)).trans (State.correctRead_device _ hq dpa)

theorem State.channelAccess_device (dpa : Nat) (u : LineUse) : OnlyDevice s (s.channelAccess q dpa u) := by
  cases u
  · exact s.hbmRead_device hq dpa
  · exact s.hbmWrite_device hq dpa
  · exact s.hbmWrite_device hq dpa
  · exact (s.hbmRead_device hq dpa).trans (State.hbmWrite_device _ hq dpa)

theorem State.snoop_device (dpa : Nat) : s.snoop q dpa = s := if_neg (by rw [hq]; simp)

end

theorem treeWay_none (t : Nat) {ok : Nat → Bool} (h : ∀ w, ok w = false) (fuel node lo hi : Nat) :
    treeWay t ok fuel node lo hi = none := by
  induction fuel generalizing node lo hi with
  | zero => rfl
  | succ fuel ih =>
    unfold treeWay
    split
    · rw [h lo]
      rfl
    · dsimp only
      rw [ih, ih, ite_self]
      rfl

/-- A requester that allocates in no way has no way for a line. -/
theorem State.newWay_none (s : State) {q : Req} (ha : q.alloc = .no) (slice set : Nat) : s.newWay q slice set = none := by
  have hways : ∀ w, waysFor s q slice w = false := fun w => by
    unfold waysFor
    rw [ha, Bool.and_false]
  unfold State.newWay
  dsimp only
  rw [List.find?_eq_none.mpr fun w _ => by rw [hways w, Bool.false_and]; exact Bool.false_ne_true]
  exact treeWay_none _ hways _ _ _ _

theorem State.applyEntry_device (s : State) (e : CombEntry) : OnlyDevice s (s.applyEntry e) := by
  unfold State.applyEntry
  dsimp only
  split
  next op _ =>
    have hwrite : OnlyDevice s { s with
      mem := s.mem.writeBytes e.key.dpa (natToBytes (atomWidth e.key.w32)
        (amoNew op (8 * atomWidth e.key.w32) (s.mem.readLE e.key.dpa (atomWidth e.key.w32)) e.val.toNat)) } :=
      ⟨rfl, fun _ => rfl⟩
    exact hwrite.trans (State.channelAccess_device _ rfl _ _)
  next => exact OnlyDevice.refl s

theorem State.applyLine_device (s : State) (dpa : Nat) : OnlyDevice s (s.applyLine dpa) := by
  unfold State.applyLine State.applyCombined
  dsimp only
  refine OnlyDevice.trans ?_ (OnlyDevice.foldl _ State.applyEntry_device _ _)
  exact ⟨rfl, fun _ => rfl⟩

section
variable (s) {q : Req} (hq : q.ctx = none) (ha : q.alloc = .no)
include hq ha

theorem State.access_device (dpa : Nat) (side : Bool) (u : LineUse) : OnlyDevice s (s.access q dpa side u) := by
  unfold State.access
  dsimp only
  rw [State.snoop_device _ hq]
  refine OnlyDevice.ite (s.channelAccess_device hq _ _) ?_
  split
  · rw [State.note_device _ hq]
    exact s.touchWay_device _ _ _
  · rw [State.note_device _ hq, State.newWay_none _ ha]
    exact s.channelAccess_device hq _ _

theorem State.getPlaces_device {ps : List (Phys × Nat)} {bs : List Byte} (h : s.getPlaces q ps = .ok (bs, t)) :
    OnlyDevice s t := by
  induction ps generalizing s bs with
  | nil =>
    obtain ⟨-, rfl⟩ := Prod.mk.inj (Except.ok.inj h)
    exact OnlyDevice.refl s
  | cons e ps ih =>
    obtain ⟨p, n⟩ := e
    unfold State.getPlaces at h
    split at h
    · split at h
      next bs' u hu =>
        obtain ⟨-, rfl⟩ := Prod.mk.inj (Except.ok.inj h)
        exact (OnlyDevice.ite (OnlyDevice.refl s) (s.meter_device _ _ _)).trans (ih _ hu)
      · cases h
    · split at h
      · cases h
      · dsimp only at h
        split at h
        next bs' u hu =>
          obtain ⟨-, rfl⟩ := Prod.mk.inj (Except.ok.inj h)
          exact ((s.applyLine_device _).trans (State.access_device _ hq ha _ _ _)).trans (ih _ hu)
        · cases h

theorem State.putPlaces_device (ps : List (Phys × Nat)) (bs : List Byte) : OnlyDevice s (s.putPlaces q ps bs) := by
  induction ps generalizing s bs with
  | nil => exact OnlyDevice.refl s
  | cons e ps ih =>
    obtain ⟨p, n⟩ := e
    refine OnlyDevice.trans (OnlyDevice.ite ?_ ?_) (ih _ _)
    · exact OnlyDevice.trans (t := s.meterHost q true n) (OnlyDevice.ite (OnlyDevice.refl s) (s.meter_device _ _ _))
        ⟨rfl, fun _ => rfl⟩
    · exact ((s.applyLine_device _).trans (State.access_device _ hq ha _ _ _)).trans (State.put_device _ _ _ _ _)

end

/-! ### A function's ranges -/

theorem hostGet_device {fn : Fn} {a n : Nat} {bs : List Byte} (h : hostGet s fn a n = .ok (bs, t)) : OnlyDevice s t := by
  unfold hostGet State.reqGet at h
  split at h
  · cases h
  · exact s.getPlaces_device rfl rfl h

theorem hostPut_device {fn : Fn} {a : Nat} {bs : List Byte} (h : hostPut s fn a bs = .ok t) : OnlyDevice s t := by
  unfold hostPut State.reqPut at h
  split at h
  · cases h
  · split at h
    · cases h
    · exact Except.ok.inj h ▸ s.putPlaces_device rfl rfl _ _

end

end Sys2Proof.Machine
end

section
/-! The host's registers and accesses (R4, R11-R15, R46-R52, R74). -/

namespace Sys2Proof.Machine

/-! ### Register writes (R50) -/

section
variable {s : State} {fn : Fn} {v : Word} (hup : s.boot.failed = false)
include hup

theorem regWrite_fnErr : s.regWrite fn 0x0008 v = { s with fnErr := s.fnErr.set fn (s.fnErr[fn] &&& ~~~v) } := by
  unfold State.regWrite
  simp [hup]

theorem regWrite_fnErrVec : s.regWrite fn 0x0010 v = { s with fnErrVec := s.fnErrVec.set fn (v &&& 0xFFF#64) } := by
  unfold State.regWrite
  simp [hup]

theorem regWrite_sumAddr : s.regWrite fn 0x0040 v = s.updFn fn fun f => { f with sumAddr := v } := by
  unfold State.regWrite
  simp [hup]

theorem regWrite_sumLen : s.regWrite fn 0x0048 v = s.updFn fn fun f => { f with sumLen := v &&& 0xFFFFFFFF#64 } := by
  unfold State.regWrite
  simp [hup]

theorem regWrite_sumGo (h0 : v.getLsbD 0 = true) (h2 : v.getLsbD 2 = false) : s.regWrite fn 0x0050 v = s.sumGo fn := by
  unfold State.regWrite
  have h2' : ¬ v.getLsbD 2 = true := by rw [h2]; decide
  simp only [hup, h0, if_neg h2']
  rfl

theorem regWrite_pwrCap : s.regWrite fn 0x0F10 v = if fn = 0 then s.writeCap v else s := by
  unfold State.regWrite
  simp [hup]

theorem regWrite_fabId : s.regWrite fn 0x6200 v = if fn = 0 then s.writeFabId v else s := by
  unfold State.regWrite
  simp [hup]

/-- A write to a ring's block. -/
theorem regWrite_ring (q : Fin 64) {off : Nat} (h8 : off % 8 = 0) (h64 : off < 64) :
    s.regWrite fn (0x1000 + 64 * q.val + off) v =
      if off = 0x20 then (if v.getLsbD 0 then s.enableRing fn q else s.disableRing fn q) else s.writeRing fn q off v := by
  generalize hx : 0x1000 + 64 * q.val + off = x
  have haligned : (x) / 8 * 8 = x := by omega
  have hq : Fin.ofNat 64 ((x - 0x1000) / 64) = q := Fin.ext (by simp only [Fin.val_ofNat]; omega)
  have hoff : (x) % 64 = off := by omega
  unfold State.regWrite
  dsimp only
  simp only [haligned, hup, Bool.false_eq_true, if_false]
  rw [if_neg (by omega), if_neg (by omega), if_neg (by omega), if_neg (by omega),
    if_neg (by omega), if_neg (by omega), if_pos (by omega), hq, hoff]

theorem regWrite_ringEnable (q : Fin 64) :
    s.regWrite fn (0x1020 + 64 * q.val) v = if v.getLsbD 0 then s.enableRing fn q else s.disableRing fn q := by
  have hoff : 0x1020 + 64 * q.val = 0x1000 + 64 * q.val + 0x20 := by omega
  rw [hoff, regWrite_ring hup q (by decide) (by decide), if_pos rfl]

theorem regWrite_route (dest : Fin 2048) :
    s.regWrite fn (0x4000 + 4 * dest.val) v = if fn = 0 then s.writeRoute dest.val (v.setWidth 32) else s := by
  generalize hx : 0x4000 + 4 * dest.val = x
  have hentry : (x - 0x4000) / 4 = dest.val := by omega
  unfold State.regWrite
  dsimp only
  simp only [hentry, hup, Bool.false_eq_true, if_false]
  rw [if_neg (by omega), if_neg (by omega), if_neg (by omega), if_neg (by omega),
    if_neg (by omega), if_neg (by omega), if_neg (by omega), if_pos (by omega)]
  simp

theorem regWrite_port (port : Fin 20) :
    s.regWrite fn (0x6008 + 16 * port.val) v = if fn = 0 then s.writePortCtl port v else s := by
  generalize hx : 0x6008 + 16 * port.val = x
  have haligned : (x) / 8 * 8 = x := by omega
  have hport : Fin.ofNat 20 ((x - 0x6000) / 16) = port := Fin.ext (by simp only [Fin.val_ofNat]; omega)
  have hoff : (x) % 16 = 8 := by omega
  unfold State.regWrite
  dsimp only
  simp only [haligned, hup, Bool.false_eq_true, if_false]
  rw [if_neg (by omega), if_neg (by omega), if_neg (by omega), if_neg (by omega),
    if_neg (by omega), if_neg (by omega), if_neg (by omega), if_neg (by omega), if_pos (by omega), hport, hoff]
  simp

theorem regWrite_rqbase (i : Fin 16) (hfn : fn ≠ 0) :
    s.regWrite fn (0x6800 + 8 * i.val) v = s.updFn fn fun f => { f with rqbase := f.rqbase.set i v } := by
  generalize hx : 0x6800 + 8 * i.val = x
  have haligned : (x) / 8 * 8 = x := by omega
  have hi : Fin.ofNat 16 ((x - 0x6800) / 8) = i := Fin.ext (by simp only [Fin.val_ofNat]; omega)
  unfold State.regWrite
  dsimp only
  simp only [haligned, hup, Bool.false_eq_true, if_false]
  rw [if_neg (by omega), if_neg (by omega), if_neg (by omega), if_neg (by omega),
    if_neg (by omega), if_neg (by omega), if_neg (by omega), if_neg (by omega), if_neg (by omega), if_neg (by omega),
    if_pos (by omega)]
  simp only [hi]
  simp [hfn]

theorem regWrite_slateBase (i : Fin 16) :
    s.regWrite 0 (0x7800 + 8 * i.val) v = { s with slateBase := s.slateBase.set (⟨i.val + 1, by omega⟩ : Fn) v } := by
  generalize hx : 0x7800 + 8 * i.val = x
  have haligned : (x) / 8 * 8 = x := by omega
  have hi : Fin.ofNat 17 ((x - 0x7800) / 8 + 1) = (⟨i.val + 1, by omega⟩ : Fn) :=
    Fin.ext (by simp only [Fin.val_ofNat]; omega)
  unfold State.regWrite
  dsimp only
  simp only [haligned, hup, Bool.false_eq_true, if_false]
  rw [if_neg (by omega), if_neg (by omega), if_neg (by omega), if_neg (by omega),
    if_neg (by omega), if_neg (by omega), if_neg (by omega), if_neg (by omega), if_neg (by omega), if_neg (by omega),
    if_neg (by omega), if_pos (by omega)]
  simp only [hi]
  rfl

theorem regWrite_msix {n : Nat} (hn : n < 2048) : s.regWrite fn (0x8008 + 16 * n) v = s.writeMsix fn (2 * n + 1) v := by
  generalize hx : 0x8008 + 16 * n = x
  have haligned : (x) / 8 * 8 = x := by omega
  have hword : (x - 0x8000) / 8 = 2 * n + 1 := by omega
  unfold State.regWrite
  dsimp only
  simp only [haligned, hup, Bool.false_eq_true, if_false]
  rw [if_neg (by omega), if_neg (by omega), if_neg (by omega), if_neg (by omega),
    if_neg (by omega), if_neg (by omega), if_neg (by omega), if_neg (by omega), if_neg (by omega), if_neg (by omega),
    if_neg (by omega), if_neg (by omega), if_pos (by omega)]
  simp only [hword]

end

section
variable {s : State} {fn : Fn} {v : Word}

@[simp] theorem State.updFn_here (f : FnRegs → FnRegs) : (s.updFn fn f).fns[fn] = f s.fns[fn] := Vector.getElem_set_self _

theorem State.updFn_away (f : FnRegs → FnRegs) {g : Fn} (hg : g ≠ fn) : (s.updFn fn f).fns[g] = s.fns[g] :=
  Vector.getElem_set_ne fn.isLt g.isLt fun h => hg (Fin.ext h.symm)

/-! ### MSI-X table (R46) -/

/-- The bit of a vector among 2,048. -/
theorem vectorBit {n : Nat} (hn : n < 2048) : (BitVec.ofNat 2048 (2 ^ (n % 2048))).getLsbD n = true := by
  rw [Nat.mod_eq_of_lt hn, BitVec.getLsbD_ofNat, Nat.testBit_two_pow_self]
  simp [hn]

/-- The table word as it is stored. -/
def State.msixStored (s : State) (fn : Fn) (n : Nat) (v : Word) : State :=
  s.updFn fn fun f => { f with msix := SMap.set 0 f.msix (2 * n + 1) (v &&& 0xFFFFFFFF#64) }

theorem State.writeMsix_masks {n : Nat} (hv : v.getLsbD 32 = true) : s.writeMsix fn (2 * n + 1) v =
    { s.msixStored fn n v with
      msixMask := s.msixMask.set fn (s.msixMask[fn] ||| BitVec.ofNat 2048 (2 ^ (n % 2048))) } := by
  have hodd : (2 * n + 1) % 2 = 1 := by omega
  have hn : (2 * n + 1) / 2 = n := by omega
  unfold State.writeMsix
  dsimp only
  rw [hodd, if_pos rfl, if_neg (by decide), hn, hv, if_pos rfl]
  rfl

/-- The vector is unmasked. -/
def State.unmask (s : State) (fn : Fn) (n : Nat) (v : Word) : State :=
  { s.msixStored fn n v with
    msixMask := s.msixMask.set fn (s.msixMask[fn] &&& ~~~(BitVec.ofNat 2048 (2 ^ (n % 2048)))) }

theorem State.writeMsix_unmasks {n : Nat} (hv : v.getLsbD 32 = false) : s.writeMsix fn (2 * n + 1) v =
    if s.msixPend[fn].getLsbD n then
      ({ s.unmask fn n v with
         msixPend := s.msixPend.set fn (s.msixPend[fn] &&& ~~~(BitVec.ofNat 2048 (2 ^ (n % 2048)))) }).signal fn n
    else s.unmask fn n v := by
  have hodd : (2 * n + 1) % 2 = 1 := by omega
  have hn : (2 * n + 1) / 2 = n := by omega
  unfold State.writeMsix
  dsimp only
  rw [hodd, if_pos rfl, if_neg (by decide), hn, hv, if_neg (by decide)]
  rfl

theorem clearedBit (b : BitVec 2048) {n : Nat} (hn : n < 2048) :
    (b &&& ~~~(BitVec.ofNat 2048 (2 ^ (n % 2048)))).getLsbD n = false := by
  rw [BitVec.getLsbD_and, BitVec.getLsbD_not, vectorBit hn]
  simp

theorem State.signal_unmasked {n : Nat} (h : (s.msixMask[fn]).getLsbD n = false) :
    s.signal fn n = { s with out := s.out ++ [.msix fn n] } := by
  unfold State.signal
  rw [h, if_neg (by decide)]

theorem State.unmask_mask {n : Nat} (hn : n < 2048) : ((s.unmask fn n v).msixMask[fn]).getLsbD n = false := by
  have hmask : (s.unmask fn n v).msixMask[fn] = s.msixMask[fn] &&& ~~~(BitVec.ofNat 2048 (2 ^ (n % 2048))) :=
    Vector.getElem_set_self _
  rw [hmask]
  exact clearedBit _ hn

/-- An unmasked vector that is pending is signalled, and is pending no more. -/
theorem State.writeMsix_signals {n : Nat} (hn : n < 2048) (hv : v.getLsbD 32 = false) :
    ((s.writeMsix fn (2 * n + 1) v).msixMask[fn]).getLsbD n = false ∧
    ((s.writeMsix fn (2 * n + 1) v).msixPend[fn]).getLsbD n = false ∧
    (s.writeMsix fn (2 * n + 1) v).out = if (s.msixPend[fn]).getLsbD n then s.out ++ [.msix fn n] else s.out := by
  have hmask := State.unmask_mask (s := s) (fn := fn) (v := v) hn
  rw [State.writeMsix_unmasks hv]
  split
  next hp =>
    rw [State.signal_unmasked (by exact hmask)]
    refine ⟨hmask, ?_, rfl⟩
    have hpend : (s.msixPend.set fn (s.msixPend[fn] &&& ~~~(BitVec.ofNat 2048 (2 ^ (n % 2048)))))[fn] =
        s.msixPend[fn] &&& ~~~(BitVec.ofNat 2048 (2 ^ (n % 2048))) := Vector.getElem_set_self _
    exact (congrArg (BitVec.getLsbD · n) hpend).trans (clearedBit _ hn)
  next hp => exact ⟨hmask, Bool.eq_false_iff.mpr hp, rfl⟩

theorem State.writeCap_power : (s.writeCap v).power =
      (if 1200 ≤ bitsOf v.toNat 0 12 ∧ bitsOf v.toNat 0 12 ≤ 2400 then { s.power with cap := bitsOf v.toNat 0 12 } else s.power) ∧
    (s.writeCap v).cores = s.cores ∧ SameMemory s (s.writeCap v) := by
  unfold State.writeCap
  dsimp only
  split
  · exact ⟨rfl, rfl, SameMemory.of_eq rfl rfl⟩
  · exact ⟨rfl, rfl, SameMemory.refl s⟩

/-! ### Summaries (R74) -/

theorem State.chargeHold_memory : SameMemory s s.chargeHold := by
  unfold State.chargeHold
  dsimp only
  split
  · exact SameMemory.of_eq rfl rfl
  · exact SameMemory.trans (t := { s with sheet := _ }) (SameMemory.of_eq rfl rfl) (State.meter_memory _ _ _ _)

theorem State.sumGo_short
    (h : ((s.chargeHold).fns[fn]).sumLen.toNat < (summaryBytes s.chargeHold fn).length) :
    s.sumGo fn = s.chargeHold.updFn fn fun f =>
      { f with sumDone := true, sumShort := true, sumLength := (summaryBytes s.chargeHold fn).length } := if_pos h

theorem State.sumGo_written {w : State}
    (h : (summaryBytes s.chargeHold fn).length ≤ ((s.chargeHold).fns[fn]).sumLen.toNat)
    (hw : hostPut s.chargeHold fn ((s.chargeHold).fns[fn]).sumAddr.toNat (summaryBytes s.chargeHold fn) = .ok w) :
    s.sumGo fn = w.updFn fn fun f =>
      { f with sumDone := true, sumShort := false, sumLength := (summaryBytes s.chargeHold fn).length } := by
  unfold State.sumGo
  dsimp only
  rw [if_neg (by omega), hw]

/-! ### The host's accesses (R47, R49) -/

theorem State.hostAccess_waits {i : Instr} {a : Nat} {x : HostAccess} {ch : Fin 256} (h : hostWait s = some ch) :
    s.hostAccess i fn a x = s.waitAtChan ch i := by
  unfold State.hostAccess
  cases x <;> simp [h]

theorem State.hostAccess_read {i : Instr} {a n : Nat} (hw : hostWait s = none) (hf : fnWaits s (hostReq fn) fn false a n = none) :
    s.hostAccess i fn a (.read n) = match s.reqGet (hostReq fn) fn a n with
      | .ok (bs, u) => { u with out := u.out ++ [.hostData bs] }
      | .error c => s.hostFault fn.val a (.read n) c := by
  unfold State.hostAccess
  dsimp only
  rw [hw, hf]
  rfl

theorem State.hostAccess_write {i : Instr} {a : Nat} {bs : List Byte} (hw : hostWait s = none)
    (hf : fnWaits s (hostReq fn) fn true a bs.length = none) :
    s.hostAccess i fn a (.write bs) = match s.reqPut (hostReq fn) fn a bs with
      | .ok u => u
      | .error c => s.hostFault fn.val a (.write bs) c := by
  unfold State.hostAccess
  dsimp only
  rw [hw, hf]
  rfl

theorem State.hostRefuse_memory (x : HostAccess) : SameMemory s (s.hostRefuse x) ∧ (s.hostRefuse x).flog = s.flog := by
  cases x
  · exact ⟨SameMemory.of_eq rfl rfl, rfl⟩
  · exact ⟨SameMemory.refl s, rfl⟩

/-- An entry that S takes heads its function's log. -/
theorem State.logUnit_toS (c : Cause) (part unit index detail : Nat) (addr : Word) (gang : BitVec 32) (hp : part < 17) :
    ∃ e, ((s.logUnit c 0 part unit index detail addr gang).flog[(⟨part, hp⟩ : Fn)]).head? = some e ∧ e.cause = c := by
  have hone (u : State) (g : Fn) (x : FaultEntry) : ∃ e, ((u.logOne g x).flog[g]).head? = some e ∧ e.cause = x.cause := by
    unfold State.logOne
    dsimp only
    rw [State.raiseErr_flog]
    refine ⟨_, congrArg List.head? (Vector.getElem_set_self (xs := u.flog) (i := g.val) g.isLt), ?_⟩
    split <;> rfl
  have haway (u : State) (g : Fn) (x : FaultEntry) (hg : g ≠ 0) : (u.logOne 0 x).flog[g] = u.flog[g] := by
    unfold State.logOne
    dsimp only
    rw [State.raiseErr_flog]
    exact Vector.getElem_set_ne (Fin.isLt 0) g.isLt fun h => hg (Fin.ext h.symm)
  unfold State.logUnit State.logFault
  dsimp only
  rw [if_neg (by decide)]
  by_cases h0 : part = 0
  · subst h0
    exact hone _ 0 _
  · rw [haway _ _ _ fun h => h0 (congrArg Fin.val h), dif_pos ⟨Nat.pos_of_ne_zero h0, hp⟩, if_neg (by decide)]
    exact hone s ⟨part, hp⟩ _

/-- A host access that fails changes no byte of memory; one that S takes has an entry. -/
theorem State.hostFault_logs (a : Nat) (x : HostAccess) (c : Cause) : SameMemory s (s.hostFault fn.val a x c) ∧
    (rasFlag c = 0 → ∃ e, ((s.hostFault fn.val a x c).flog[fn]).head? = some e ∧ e.cause = c) := by
  unfold State.hostFault
  obtain ⟨hmem, hflog⟩ := State.hostRefuse_memory
    (s := s.logUnit c (rasFlag c) fn.val 7 0 0 (BitVec.ofNat 64 a) 0) x
  refine ⟨SameMemory.trans ?_ hmem, fun h0 => ?_⟩
  · have honly := s.logUnit_logs c (rasFlag c) fn.val 7 0 0 (BitVec.ofNat 64 a) 0
    exact SameMemory.of_eq honly.mem honly.l2
  · rw [hflog, h0]
    exact State.logUnit_toS c fn.val 7 0 0 (BitVec.ofNat 64 a) 0 fn.isLt

theorem State.hostFault_refuses (part a n : Nat) (c : Cause) :
    (s.hostFault part a (.read n) c).out.getLast? = some .unsupported := List.getLast?_concat

theorem hostCxl_hit {hpa : Nat} {x : HostAccess} {d : Hdm}
    (h : s.hdm.find? (fun d => Decidable.decide (d.hpa ≤ hpa) && Decidable.decide (hpa + x.len ≤ d.hpa + d.len)) = some d) :
    exec (.hostCxlMemAccess hpa x) s = .next (if hidden s d.part (d.base + (hpa - d.hpa)) x.len then
        s.hostFault d.part (d.base + (hpa - d.hpa)) x .accessKind
      else (s.hostCaches (Fin.ofNat 17 d.part) (d.base + (hpa - d.hpa)) x.len).hostAccess (.hostCxlMemAccess hpa x)
        (Fin.ofNat 17 d.part) (d.base + (hpa - d.hpa)) x) := by
  change execHostCxlMemAccess hpa x s = _
  unfold execHostCxlMemAccess
  rw [h]

theorem hostCxl_miss {hpa : Nat} {x : HostAccess}
    (h : s.hdm.find? (fun d => Decidable.decide (d.hpa ≤ hpa) && Decidable.decide (hpa + x.len ≤ d.hpa + d.len)) = none) :
    Runs (.hostCxlMemAccess hpa x) s (s.hostRefuse x) := by
  change execHostCxlMemAccess hpa x s = _
  unfold execHostCxlMemAccess
  rw [h]

/-- BAR 2 of a function takes one of its sizes; another changes nothing. -/
def State.resized (s : State) (fn : Fn) (k : Nat) : State :=
  if 30 ≤ k ∧ k ≤ 39 then s.updFn fn fun f => { f with bar2 := k } else s

theorem State.resized_bar2 (k : Nat) :
    ((s.resized fn k).fns[fn]).bar2 = if 30 ≤ k ∧ k ≤ 39 then k else (s.fns[fn]).bar2 := by
  unfold State.resized
  split
  · exact congrArg FnRegs.bar2 (State.updFn_here _)
  · rfl

theorem State.resized_rest (k : Nat) : (s.resized fn k).out = s.out ∧ (s.resized fn k).cores = s.cores := by
  unfold State.resized
  split <;> exact ⟨rfl, rfl⟩

theorem hostConfig_retries {r : ConfigReq} (hp : s.boot.powered = true) (hclosed : configOpen s = false) :
    Runs (.hostConfigRequest r) s { s with out := s.out ++ [.config true] } := by
  change execHostConfigRequest r s = _
  unfold execHostConfigRequest
  rw [hp, hclosed]
  rfl

theorem hostConfig_reads {reg : Nat} (hp : s.boot.powered = true) (hopen : configOpen s = true) :
    Runs (.hostConfigRequest (.read fn reg)) s
      { s with out := s.out ++ [.config false] ++ [.configData (Config.configWord fn.val reg)] } := by
  change execHostConfigRequest (.read fn reg) s = _
  unfold execHostConfigRequest
  rw [hp, hopen]
  rfl

theorem hostConfig_resizes {k : Nat} (hp : s.boot.powered = true) (hopen : configOpen s = true) :
    Runs (.hostConfigRequest (.resizeBar2 fn k)) s (({ s with out := s.out ++ [.config false] } : State).resized fn k) := by
  change execHostConfigRequest (.resizeBar2 fn k) s = _
  unfold execHostConfigRequest
  rw [hp, hopen]
  rfl

theorem hostBar2_inside {off : Nat} {x : HostAccess} (hup : s.boot.failed = false) (hin : off < 2 ^ (s.fns[fn]).bar2) :
    Runs (.hostBar2Access fn off x) s (s.hostAccess (.hostBar2Access fn off x) fn off x) := by
  change execHostBar2Access fn off x s = _
  unfold execHostBar2Access
  rw [hup, if_neg (by decide), if_neg (by omega)]

theorem hostBar2_beyond {off : Nat} {x : HostAccess} (hup : s.boot.failed = false) (hout : 2 ^ (s.fns[fn]).bar2 ≤ off) :
    Runs (.hostBar2Access fn off x) s (s.hostRefuse x) := by
  change execHostBar2Access fn off x s = _
  unfold execHostBar2Access
  rw [hup, if_neg (by decide), if_pos hout]

end

/-- Settles O51, register by register and access by access. -/
theorem hostRegistersAndAccesses : Obligations.HostRegistersAndAccesses := by
  unfold Obligations.HostRegistersAndAccesses
  intro s fn v
  refine ⟨fun off hf => ?refused, fun hup => ?writes, ?summary, fun hp => ?config, fun off n bs hf => ?ones,
    fun off hup hout => ?beyond, fun off hup hin hw => ?inside, fun off x ch hup hin hw => ?waits, fun hpa x => ?decoder⟩
  case refused =>
    refine congrArg Host.Outcome.next ?_
    unfold State.regWrite
    exact if_pos hf
  case writes =>
    refine ⟨⟨_, rfl, ?_⟩, ⟨_, rfl, ?_⟩, ⟨_, rfl, ?_⟩, ⟨_, rfl, ?_⟩, fun h0 h2 => congrArg Host.Outcome.next (regWrite_sumGo hup h0 h2),
      fun q off h8 h64 h20 => ?_, fun q => ?_, fun dest => congrArg Host.Outcome.next (regWrite_route hup dest),
      fun port => congrArg Host.Outcome.next (regWrite_port hup port), congrArg Host.Outcome.next (regWrite_fabId hup),
      fun i hfn => ⟨_, rfl, ?_⟩, fun i hfn => ⟨_, rfl, ?_⟩, fun n hn hv => ⟨_, rfl, ?_⟩, fun n hn hv => ⟨_, rfl, ?_⟩,
      fun cap hcap => ⟨_, rfl, ?_⟩⟩
    · rw [regWrite_fnErr hup]
      exact ⟨Vector.getElem_set_self _, rfl, fun g hg => Vector.getElem_set_ne fn.isLt g.isLt fun h => hg (Fin.ext h.symm)⟩
    · rw [regWrite_fnErrVec hup]
      exact ⟨Vector.getElem_set_self _, SameMemory.of_eq rfl rfl⟩
    · rw [regWrite_sumAddr hup]
      exact congrArg FnRegs.sumAddr (State.updFn_here _)
    · rw [regWrite_sumLen hup]
      exact congrArg FnRegs.sumLen (State.updFn_here _)
    · exact congrArg Host.Outcome.next ((regWrite_ring hup q h8 h64).trans (if_neg h20))
    · exact congrArg Host.Outcome.next ((regWrite_ringEnable hup q))
    · rw [regWrite_rqbase hup i hfn]
      exact (congrArg (fun f : FnRegs => f.rqbase[i]) (State.updFn_here _)).trans (Vector.getElem_set_self _)
    · subst hfn
      rw [regWrite_slateBase hup]
      exact Vector.getElem_set_self _
    · rw [regWrite_msix hup hn, State.writeMsix_masks hv]
      refine ⟨?_, rfl⟩
      have hmask : (s.msixMask.set fn (s.msixMask[fn] ||| BitVec.ofNat 2048 (2 ^ (n % 2048))))[fn] =
          s.msixMask[fn] ||| BitVec.ofNat 2048 (2 ^ (n % 2048)) := Vector.getElem_set_self _
      refine (congrArg (BitVec.getLsbD · n) hmask).trans ?_
      change BitVec.getLsbD (_ ||| _) n = true
      rw [BitVec.getLsbD_or, vectorBit hn, Bool.or_true]
    · rw [regWrite_msix hup hn]
      exact State.writeMsix_signals hn hv
    · subst hcap
      obtain ⟨hpower, hcores, hmem⟩ := State.writeCap_power (s := s) (v := v)
      rw [regWrite_pwrCap hup]
      split
      next h0 =>
        refine ⟨hcores, hmem, hpower.trans ?_⟩
        simp [h0]
      next h0 =>
        refine ⟨rfl, SameMemory.refl s, ?_⟩
        simp [h0]
  case summary =>
    intro u f bs hup
    have hexec : exec (.sumctlGo fn) s = .next (s.sumGo fn) := congrArg Host.Outcome.next (State.booted_up hup)
    refine ⟨fun hshort => ⟨_, hexec, ?_⟩, fun w hlen hw => ⟨_, hexec, ?_⟩⟩
    · rw [State.sumGo_short hshort]
      refine ⟨State.chargeHold_memory.trans (SameMemory.of_eq rfl rfl), ?_⟩
      rw [State.updFn_here]
      exact ⟨rfl, rfl, rfl⟩
    · rw [State.sumGo_written hlen hw]
      dsimp only
      rw [State.updFn_here]
      exact ⟨rfl, rfl, rfl, rfl, rfl⟩
  case config =>
    refine ⟨fun hclosed r => ⟨_, hostConfig_retries hp hclosed, rfl, rfl, rfl, SameMemory.of_eq rfl rfl⟩,
      fun hopen => ⟨fun reg => ⟨_, hostConfig_reads hp hopen, List.append_assoc _ _ _, rfl⟩,
        fun k => ⟨_, hostConfig_resizes hp hopen, ?_⟩⟩⟩
    obtain ⟨hout, hcores⟩ := State.resized_rest (s := { s with out := s.out ++ [.config false] }) (fn := fn) k
    exact ⟨hout, State.resized_bar2 k, hcores⟩
  case ones =>
    exact ⟨⟨_, (if_pos hf : execHostBar2Access fn off (.read n) s = _), rfl⟩,
      (if_pos hf : execHostBar2Access fn off (.write bs) s = _)⟩
  case beyond => exact ⟨fun n => ⟨_, hostBar2_beyond hup hout, rfl⟩, fun bs => hostBar2_beyond hup hout⟩
  case inside =>
    intro q
    refine ⟨fun n hf => ⟨fun bs u hu => ⟨_, hostBar2_inside hup hin, ?_⟩, fun e he => ⟨_, hostBar2_inside hup hin, ?_⟩⟩,
      fun bs hf => ⟨fun u hu => ?_, fun e he => ⟨_, hostBar2_inside hup hin, ?_⟩⟩⟩
    · rw [State.hostAccess_read hw hf, hu]
      exact ⟨rfl, rfl⟩
    · rw [State.hostAccess_read hw hf, he]
      obtain ⟨hmem, hlog⟩ := State.hostFault_logs (s := s) (fn := fn) off (.read n) e
      exact ⟨hmem, State.hostFault_refuses _ _ _ _, hlog⟩
    · refine (hostBar2_inside hup hin).trans (congrArg Host.Outcome.next ?_)
      rw [State.hostAccess_write hw hf, hu]
    · rw [State.hostAccess_write hw hf, he]
      exact State.hostFault_logs off (.write bs) e
  case waits => exact (hostBar2_inside hup hin).trans (congrArg Host.Outcome.next (State.hostAccess_waits hw))
  case decoder =>
    intro hit
    refine ⟨fun d hd => ?_, fun hno => ⟨fun bs hx => ?_, fun n hx => ⟨_, hostCxl_miss hno, ?_⟩⟩⟩
    · have hexec := hostCxl_hit hd
      refine ⟨fun hh => hexec.trans (congrArg Host.Outcome.next (if_neg (by rw [hh]; decide))), fun hh => ⟨_, hexec, ?_⟩⟩
      rw [if_pos hh]
      unfold State.hostFault
      refine ⟨SameMemory.trans ?_ (State.hostRefuse_memory x).1, fun n hx => ?_⟩
      · have honly := s.logUnit_logs .accessKind (rasFlag .accessKind) d.part 7 0 0
          (BitVec.ofNat 64 (d.base + (hpa - d.hpa))) 0
        exact SameMemory.of_eq honly.mem honly.l2
      · subst hx
        exact List.getLast?_concat
    · subst hx
      exact hostCxl_miss hno
    · subst hx
      rfl

end Sys2Proof.Machine
end

section
/-! Rings and their commands (R53-R62): writes to a block, halts, drains, fetch, start and completion. -/

namespace Sys2Proof.Machine

section
variable {s : State} {fn : Fn} {q : Fin 64}

/-! ### A ring's block -/

@[simp] theorem ringAt_updRing (f : Ring → Ring) : ringAt (s.updRing fn q f) fn q = f (ringAt s fn q) :=
  (congrArg (fun r : FnRegs => r.rings[q]) (State.updFn_here _)).trans (Vector.getElem_set_self _)

theorem ringAt_of_fns {t : State} (h : t.fns = s.fns) : ringAt t fn q = ringAt s fn q := by rw [ringAt, ringAt, h]

/-- Every other field of the state is as it was. -/
theorem State.updRing_only (f : Ring → Ring) : ({ s.updRing fn q f with fns := s.fns } : State) = s := rfl

/-! ### Error bits (R52) -/

/-- Nothing but the agenda differs. -/
def OnlyAgenda (s t : State) : Prop := ({ t with agenda := s.agenda } : State) = s

theorem OnlyAgenda.trans {s t u : State} (h : OnlyAgenda s t) (h' : OnlyAgenda t u) : OnlyAgenda s u :=
  Eq.trans (b := ({ t with agenda := s.agenda } : State)) (congrArg (fun v : State => { v with agenda := s.agenda }) h') h

theorem OnlyAgenda.fns {s t : State} (h : OnlyAgenda s t) : t.fns = s.fns := (congrArg State.fns h :)
theorem OnlyAgenda.fnErr {s t : State} (h : OnlyAgenda s t) : t.fnErr = s.fnErr := (congrArg State.fnErr h :)
theorem OnlyAgenda.cmdRuns {s t : State} (h : OnlyAgenda s t) : t.cmdRuns = s.cmdRuns := (congrArg State.cmdRuns h :)
theorem OnlyAgenda.mem {s t : State} (h : OnlyAgenda s t) : t.mem = s.mem := (congrArg State.mem h :)
theorem OnlyAgenda.hostMem {s t : State} (h : OnlyAgenda s t) : t.hostMem = s.hostMem := (congrArg State.hostMem h :)
theorem OnlyAgenda.out {s t : State} (h : OnlyAgenda s t) : t.out = s.out := (congrArg State.out h :)

theorem OnlyLogs.fns {s t : State} (h : OnlyLogs s t) : t.fns = s.fns := (congrArg State.fns h :)
theorem OnlyLogs.cmdRuns {s t : State} (h : OnlyLogs s t) : t.cmdRuns = s.cmdRuns := (congrArg State.cmdRuns h :)
theorem OnlyLogs.hostMem {s t : State} (h : OnlyLogs s t) : t.hostMem = s.hostMem := (congrArg State.hostMem h :)

theorem State.meter_hostMem (s : State) (p : Nat) (ch : Fin 16) (n : Nat) : (s.meter p ch n).hostMem = s.hostMem := by
  unfold State.meter
  split
  · split <;> rfl
  · rfl

/-- Waking cores posts their steps, and changes nothing else. -/
theorem State.wakeWfi_only (s : State) (ev : BitVec 4) : OnlyAgenda s (s.wakeWfi ev) := by
  unfold State.wakeWfi
  generalize allCores = l
  induction l generalizing s with
  | nil => rfl
  | cons c l ih =>
    rw [List.foldl_cons]
    refine OnlyAgenda.trans ?_ (ih _)
    split <;> rfl

/-- The bit of an error that is raised stands. -/
theorem State.raiseErr_stands {bit : Nat} (hb : bit < 64) : ((s.raiseErr fn bit).fnErr[fn]).getLsbD bit = true := by
  unfold State.raiseErr
  split
  next hset => exact hset
  · extract_lets raised woken v
    have hraised : (raised.fnErr[fn]).getLsbD bit = true := by
      have hself : raised.fnErr[fn] = s.fnErr[fn] ||| BitVec.ofNat 64 (2 ^ bit) := Vector.getElem_set_self _
      rw [hself, BitVec.getLsbD_or, BitVec.getLsbD_ofNat, Nat.testBit_two_pow_self]
      simp [hb]
    have hwoken : OnlyAgenda raised woken := by
      unfold woken
      split
      · exact State.wakeWfi_only raised 8
      · rfl
    have hsignal : (woken.signal fn (bitsOf v.toNat 0 11)).fnErr = woken.fnErr := by
      unfold State.signal
      split <;> rfl
    have hend (t : State) (ht : t.fnErr = woken.fnErr) : (t.fnErr[fn]).getLsbD bit = true :=
      (congrArg (fun e : Vector Word 17 => (e[fn]).getLsbD bit) (ht.trans hwoken.fnErr)).trans hraised
    split
    · exact hend _ hsignal
    · exact hend _ rfl

/-! ### Writes to a ring (R57, R58) -/

/-- The block of a ring that passes its checks. -/
def Ring.active (r : Ring) : Ring := { r with enable := true, state := 1, reason := 0, cqOk := r.cqbase, nOk := r.n }

/-- The block of a ring that has halted. -/
def Ring.halted (r : Ring) (reason : Nat) : Ring := { r with enable := true, state := 2, reason := reason }

theorem State.haltRing_halts (reason : Nat) :
    ringAt (s.haltRing fn q reason) fn q = (ringAt s fn q).halted reason ∧
      ((s.haltRing fn q reason).fnErr[fn]).getLsbD 0 = true := by
  unfold State.haltRing
  refine ⟨?_, State.raiseErr_stands (by decide)⟩
  have hlogs := State.raiseErr_logs (s.updRing fn q fun r => { r with enable := true, state := 2, reason := reason }) fn 0
  rw [ringAt_of_fns hlogs.fns, ringAt_updRing]
  rfl

theorem State.checkedWrite_stands {r : Ring} (doorbell : Bool) (h : ringCheck s fn r = none) :
    s.checkedWrite fn q r doorbell = s.updRing fn q fun _ => r.active := by
  unfold State.checkedWrite
  rw [h]
  rfl

theorem State.checkedWrite_halts {r : Ring} {e : Nat} (doorbell : Bool) (h : ringCheck s fn r = some e) :
    ringAt (s.checkedWrite fn q r doorbell) fn q =
        (if doorbell then { r with widx := (ringAt s fn q).widx } else r).halted e ∧
      ((s.checkedWrite fn q r doorbell).fnErr[fn]).getLsbD 0 = true := by
  have hhalts := State.haltRing_halts (fn := fn) (q := q)
    (s := s.updRing fn q fun _ => if doorbell then { r with widx := (ringAt s fn q).widx } else r) e
  rw [ringAt_updRing] at hhalts
  unfold State.checkedWrite
  rw [h]
  exact hhalts

section
variable (hp : ringPresent s fn q.val = true) (hd : (ringAt s fn q).draining = false)
include hp hd

theorem State.writeRing_open (off : Nat) (v : Word) : s.writeRing fn q off v =
    if (ringAt s fn q).state = 1 then
      if off = 0x00 ∨ off = 0x08 ∨ off = 0x30 then s.haltRing fn q 0x08
      else s.checkedWrite fn q ((ringAt s fn q).store off v) (off = 0x10)
    else s.updRing fn q fun r => r.store off v := by
  unfold State.writeRing
  dsimp only
  rw [hp, hd, if_neg (by decide)]

theorem State.enableRing_open (h2 : (ringAt s fn q).state ≠ 2) :
    s.enableRing fn q = s.checkedWrite fn q (ringAt s fn q) false := by
  unfold State.enableRing
  dsimp only
  rw [hp, hd, if_neg (by simpa using h2)]

/-- A ring that drains, and the commands that it has fetched and not started aborted. -/
theorem State.disableRing_open (h0 : (ringAt s fn q).state ≠ 0) :
    ringAt (s.disableRing fn q) fn q = { ringAt s fn q with enable := false, draining := true } ∧
      ∀ d ∈ (s.disableRing fn q).cmdRuns, d.cmd.fn = fn → d.cmd.ring = q → d.state ≠ .fetched := by
  unfold State.disableRing
  dsimp only
  rw [hp, hd, if_neg (by simpa using h0)]
  refine ⟨ringAt_updRing (s := s) fun r => { r with enable := false, draining := true }, fun d hmem hfn hq => ?_⟩
  obtain ⟨c, -, rfl⟩ := List.mem_map.mp hmem
  split
  · simp
  next hno =>
    rw [if_neg hno] at hfn hq
    exact fun hstate => hno ⟨hfn, hq, hstate⟩

end

/-- A ring that is absent or drains takes no write. -/
theorem State.ring_closed (h : ringPresent s fn q.val = false ∨ (ringAt s fn q).draining = true) :
    s.enableRing fn q = s ∧ s.disableRing fn q = s ∧ ∀ off v, s.writeRing fn q off v = s := by
  have hclosed : (!ringPresent s fn q.val || (ringAt s fn q).draining) = true := by
    rcases h with h | h <;> simp [h]
  unfold State.enableRing State.disableRing State.writeRing
  dsimp only
  exact ⟨if_pos (by simp [hclosed]), if_pos (by simp [hclosed]), fun off v => if_pos hclosed⟩

/-! ### Fetch and start (R58, R59, R62) -/

theorem State.ringFault_logs (a : Nat) (e : Cause) : OnlyLogs s (s.ringFault fn a e) :=
  OnlyLogs.ite (OnlyLogs.refl s) (s.logUnit_logs _ _ _ _ _ _ _ _)

theorem rasFlag_eq (e : Cause) :
    (if rasFlag e = 0 then 0x09 else 0x0A) = if e = .uncorrectable ∨ e = .checkFail then 0x0A else 0x09 := by
  cases e <;> rfl

theorem commandFetch_reads {bs : List Byte} {u : State} (hf : fetchable s fn q = true)
    (hget : hostGet s fn (ringAt s fn q).entryAt 64 = .ok (bs, u)) :
    Runs (.commandFetch fn q) s { u.updRing fn q fun r => { r with ridx := (r.ridx + 1) % (2 * r.n) } with
      cmdRuns := u.cmdRuns ++ [⟨⟨fn, q, (ringAt s fn q).ridx, bs, u.nextId⟩, .fetched⟩], nextId := u.nextId + 1 } := by
  change execCommandFetch fn q s = _
  unfold execCommandFetch
  dsimp only
  rw [hf, if_neg (by decide), hget]
  rfl

theorem commandFetch_fails {e : Cause} (hf : fetchable s fn q = true)
    (hget : hostGet s fn (ringAt s fn q).entryAt 64 = .error e) :
    Runs (.commandFetch fn q) s
      ((s.ringFault fn (ringAt s fn q).entryAt e).haltRing fn q (if rasFlag e = 0 then 0x09 else 0x0A)) := by
  change execCommandFetch fn q s = _
  unfold execCommandFetch
  dsimp only
  rw [hf, if_neg (by decide), hget]

section
variable {c : Cmd} (hc : startable s fn q = some c)
include hc

theorem commandStart_unknown (h : commandStep fn c.opc (c.field 8 1) = none) :
    Runs (.commandStart fn q) s (s.cmdDone c csBadOpcode 0 0) := by
  change execCommandStart fn q s = _
  unfold execCommandStart
  rw [hc]
  dsimp only
  rw [h]

theorem commandStart_refused {w : Who} {i : Option Instr} (h : commandStep fn c.opc (c.field 8 1) = some (w, i))
    (hw : w.allows fn = false) : Runs (.commandStart fn q) s (s.cmdDone c csNotPermitted 0 0) := by
  change execCommandStart fn q s = _
  unfold execCommandStart
  rw [hc]
  dsimp only
  rw [h]
  dsimp only
  rw [hw]
  rfl

/-- The command runs. -/
def CmdRun.started (c : Cmd) (d : CmdRun) : CmdRun := if d.cmd.same c then { d with state := .running } else d

theorem commandStart_posts {w : Who} {i : Instr} (h : commandStep fn c.opc (c.field 8 1) = some (w, some i))
    (hw : w.allows fn = true) : Runs (.commandStart fn q) s
      (({ s with cmdRuns := s.cmdRuns.map (CmdRun.started c) } : State).post i { Input.reset with cmd := c }) := by
  change execCommandStart fn q s = _
  unfold execCommandStart
  rw [hc]
  dsimp only
  rw [h]
  dsimp only
  rw [hw]
  rfl

end

theorem CmdRun.started_running {c : Cmd} {d : CmdRun} (h : (d.started c).cmd.same c = true) : (d.started c).state = .running := by
  unfold CmdRun.started at h ⊢
  split
  · rfl
  next hno =>
    rw [if_neg hno] at h
    exact absurd h hno

/-! ### Completion (R60, R61) -/

/-- The state once the record of a completion has been written, or has failed. -/
def State.recorded (s : State) (fn : Fn) (a : Nat) (bs : List Byte) : State :=
  match hostPut s fn a bs with
  | .ok s => s
  | .error e => s.ringFault fn a e

/-- The end of a completion behind its record: the command leaves, the ring moves on, and the vector is signalled. -/
def State.completed (s : State) (fn : Fn) (q : Fin 64) (r : Ring) (c : Cmd) : State :=
  let s := { s with cmdRuns := s.cmdRuns.filter fun d => !(d.cmd.same c && d.ended) }
  let s := s.updRing fn q fun r => { r with written := (r.written + 1) % (2 * r.nOk) }
  let s := s.meter fn.val 14 1
  let irq : Bool := (c.field 1 1).testBit 0
  let s := if irq && r.prio.getLsbD 27 then s.signal fn (bitsOf r.prio.toNat 16 11) else s
  if irq && fn = 0 then s.wakeWfi 4 else s

theorem commandComplete_runs {idx status r0 r1 : Nat} {run : CmdRun}
    (hfind : s.cmdRuns.find? (fun c => c.cmd.fn = fn && c.cmd.ring = q && c.cmd.idx = idx && c.ended) = some run)
    (hrun : run.state = .done status r0 r1) :
    exec (.commandComplete fn q idx) s = .next (if !completable s fn q then s else
      (s.recorded fn (ringAt s fn q).completionAt (completionBytes run.cmd status r0 r1
        (if (ringAt s fn q).written < (ringAt s fn q).nOk then 1 else 0))).completed fn q (ringAt s fn q) run.cmd) := by
  change execCommandComplete fn q idx s = _
  unfold execCommandComplete
  rw [hfind]
  dsimp only
  rw [hrun]
  dsimp only
  rw [← apply_ite]
  rfl

theorem State.recorded_ok {a : Nat} {bs : List Byte} {u : State} (h : hostPut s fn a bs = .ok u) : s.recorded fn a bs = u := by
  rw [State.recorded, h]

theorem State.recorded_fns (a : Nat) (bs : List Byte) : (s.recorded fn a bs).fns = s.fns := by
  unfold State.recorded
  split
  next u hu => exact (hostPut_device hu).fns
  next e _ => exact (State.ringFault_logs (s := s) (fn := fn) a e).fns

/-- What wakes and signals at the end of a completion. -/
theorem State.completed_frame (r : Ring) (c : Cmd) :
    (s.completed fn q r c).fns =
        (s.updRing fn q fun r => { r with written := (r.written + 1) % (2 * r.nOk) }).fns ∧
      (s.completed fn q r c).cmdRuns = s.cmdRuns.filter (fun d => !(d.cmd.same c && d.ended)) ∧
      (s.completed fn q r c).mem = s.mem ∧ (s.completed fn q r c).hostMem = s.hostMem ∧
      ((c.field 1 1).testBit 0 = true → r.prio.getLsbD 27 = true →
        (s.msixMask[fn]).getLsbD (bitsOf r.prio.toNat 16 11) = false →
        (s.completed fn q r c).out = s.out ++ [.msix fn (bitsOf r.prio.toNat 16 11)]) := by
  unfold State.completed
  extract_lets left moved metered irq signalled
  have hmoved : OnlyDevice moved metered := State.meter_device _ _ _ _
  have hsignalled : OnlyLogs metered signalled :=
    OnlyLogs.ite (State.signal_logs _ _ _) (OnlyLogs.refl metered)
  have hmem : metered.mem = moved.mem := State.meter_mem _ _ _ _
  have hhost : metered.hostMem = moved.hostMem := State.meter_hostMem _ _ _ _
  have hwoken : OnlyAgenda signalled (if irq && fn = 0 then signalled.wakeWfi 4 else signalled) := by
    split
    · exact State.wakeWfi_only _ _
    · rfl
  generalize (if irq && fn = 0 then signalled.wakeWfi 4 else signalled) = t at hwoken
  refine ⟨?_, ?_, ?_, ?_, fun hirq hprio hmask => ?_⟩
  · exact (hwoken.fns.trans hsignalled.fns).trans hmoved.fns
  · exact (hwoken.cmdRuns.trans hsignalled.cmdRuns).trans hmoved.cmdRuns
  · exact (hwoken.mem.trans hsignalled.mem).trans hmem
  · exact (hwoken.hostMem.trans hsignalled.hostMem).trans hhost
  · have hsig : signalled = metered.signal fn (bitsOf r.prio.toNat 16 11) := if_pos (by rw [show irq = true from hirq, hprio]; rfl)
    have hopen : (metered.msixMask[fn]).getLsbD (bitsOf r.prio.toNat 16 11) = false := by
      rw [hmoved.msixMask]
      exact hmask
    rw [hwoken.out, hsig, State.signal_unmasked hopen, hmoved.out]
    rfl

end

/-- Settles O50, step by step of a ring and its commands. -/
theorem ringsAndCommands : Obligations.RingsAndCommands := by
  unfold Obligations.RingsAndCommands
  intro s fn q r present
  refine ⟨fun hpresent hdrain => ?writes, fun hclosed => ?closed, fun h => ⟨_, (if_pos h : execRingDrained fn q s = _), ?drained, rfl⟩,
    fun h => (if_neg (by rw [h]; decide) : execRingDrained fn q s = _),
    fun h => (if_pos (by rw [h]; rfl) : execCommandFetch fn q s = _), fun hf => ⟨fun bs u hget => ?fetched, fun e hget => ?failed⟩,
    fun c hc => ⟨fun h => commandStart_unknown hc h, fun w i h hw => commandStart_refused hc h hw, fun w i h hw => ?started⟩,
    fun run idx status r0 r1 hfind hrun => ?complete⟩
  case drained => exact ringAt_updRing _
  case writes =>
    obtain ⟨hp, hup⟩ := hpresent
    have hwrite (off : Nat) (v : Word) : exec (.ringBlockWrite fn q off v) s = .next (s.writeRing fn q off v) :=
      congrArg Host.Outcome.next (State.booted_up hup)
    have hbell (v : Word) : exec (.qwidxWrite fn q v) s = .next (s.writeRing fn q 0x10 v) :=
      congrArg Host.Outcome.next (State.booted_up hup)
    have henable : exec (.ringEnable fn q) s = .next (s.enableRing fn q) := congrArg Host.Outcome.next (State.booted_up hup)
    have hdisable : exec (.ringDisable fn q) s = .next (s.disableRing fn q) := congrArg Host.Outcome.next (State.booted_up hup)
    have hopen := State.writeRing_open hp hdrain
    refine ⟨?bells,
      fun off v h1 => ⟨_, hwrite off v, ?_⟩, fun off v h1 hoff => ⟨_, hwrite off v, ?_⟩, fun h2 hcheck => ⟨_, henable, ?_⟩,
      fun e h2 hcheck => ⟨_, henable, ?_⟩, fun h0 => ⟨_, hdisable, State.disableRing_open hp hdrain h0⟩⟩
    case bells =>
      intro v n
      refine ⟨fun h1 hcheck => ⟨_, hbell v, ?_⟩, fun e h1 hcheck => ⟨_, hbell v, ?_⟩, fun h1 => ⟨_, hbell v, ?_⟩⟩
      · rw [hopen, if_pos h1, if_neg (by decide), State.checkedWrite_stands _ hcheck]
        exact ⟨ringAt_updRing _, rfl, rfl, SameMemory.of_eq rfl rfl⟩
      · rw [hopen, if_pos h1, if_neg (by decide)]
        exact State.checkedWrite_halts (q := q) true hcheck
      · rw [hopen, if_neg h1]
        exact ⟨ringAt_updRing _, rfl⟩
    · rw [hopen, if_neg h1]
      exact ringAt_updRing _
    · rw [hopen, if_pos h1, if_pos hoff]
      exact (State.haltRing_halts 0x08).1
    · rw [State.enableRing_open hp hdrain h2, State.checkedWrite_stands _ hcheck]
      exact ringAt_updRing _
    · rw [State.enableRing_open hp hdrain h2]
      exact State.checkedWrite_halts (q := q) false hcheck
  case closed =>
    have hstay (k : State → State) (hk : s.boot.failed = false → k s = s) : s.booted k = s := by
      unfold State.booted
      split
      · rfl
      next hup => exact hk (Bool.eq_false_iff.mpr hup)
    have hring : s.boot.failed = false → s.enableRing fn q = s ∧ s.disableRing fn q = s ∧ ∀ off v, s.writeRing fn q off v = s :=
      fun hup => State.ring_closed (by
        rcases hclosed with h | h | h
        · exact Or.inl h
        · exact Or.inr h
        · rw [h] at hup
          cases hup)
    exact ⟨congrArg Host.Outcome.next (hstay _ fun hup => (hring hup).1), congrArg Host.Outcome.next (hstay _ fun hup => (hring hup).2.1),
      fun off v => ⟨congrArg Host.Outcome.next (hstay _ fun hup => (hring hup).2.2 off v),
        congrArg Host.Outcome.next (hstay _ fun hup => (hring hup).2.2 0x10 v)⟩⟩
  case fetched =>
    have honly := hostGet_device hget
    refine ⟨_, commandFetch_reads hf hget, ?_, congrArg (· + 1) honly.nextId, ?_, rfl⟩
    · exact congrArg₂ (fun (l : List CmdRun) n => l ++ [(⟨⟨fn, q, r.ridx, bs, n⟩, .fetched⟩ : CmdRun)]) honly.cmdRuns honly.nextId
    · have hmoved := ringAt_updRing (s := u) (fn := fn) (q := q) fun r => { r with ridx := (r.ridx + 1) % (2 * r.n) }
      rw [ringAt_of_fns honly.fns] at hmoved
      exact hmoved
  case failed =>
    have hlogs := State.ringFault_logs (s := s) (fn := fn) r.entryAt e
    refine ⟨_, commandFetch_fails hf hget, ?_, ?_⟩
    · rw [(State.haltRing_halts _).1, ringAt_of_fns hlogs.fns, rasFlag_eq]
      rfl
    · have hhalt := State.raiseErr_logs ((s.ringFault fn r.entryAt e).updRing fn q fun r =>
        { r with enable := true, state := 2, reason := if rasFlag e = 0 then 0x09 else 0x0A }) fn 0
      exact hhalt.cmdRuns.trans hlogs.cmdRuns
  case started =>
    refine ⟨_, commandStart_posts hc h hw, rfl, fun d hd hsame => ?_, rfl, SameMemory.of_eq rfl rfl⟩
    obtain ⟨d, -, rfl⟩ := List.mem_map.mp hd
    exact CmdRun.started_running hsame
  case complete =>
    refine ⟨fun h => (commandComplete_runs hfind hrun).trans (congrArg Host.Outcome.next (if_pos (by rw [h]; rfl))), fun h => ?_⟩
    intro c bs
    have hexec : exec (.commandComplete fn q idx) s = .next ((s.recorded fn r.completionAt bs).completed fn q r c) :=
      (commandComplete_runs hfind hrun).trans (congrArg Host.Outcome.next (if_neg (by rw [h]; decide)))
    obtain ⟨hfns, hruns, hmem, hhost, hout⟩ :=
      State.completed_frame (s := s.recorded fn r.completionAt bs) (fn := fn) (q := q) r c
    refine ⟨_, hexec, ?_, fun d hd => ?_, fun u hput => ?_⟩
    · rw [ringAt_of_fns hfns, ringAt_updRing, ringAt_of_fns (State.recorded_fns _ _)]
    · rw [hruns] at hd
      have hkept := (List.mem_filter.mp hd).2
      rw [Bool.not_eq_true', Bool.and_eq_false_iff] at hkept
      rintro ⟨hsame, hended⟩
      rcases hkept with h | h
      · exact absurd (h.symm.trans hsame) (by decide)
      · exact absurd (h.symm.trans hended) (by decide)
    · have hrec : s.recorded fn r.completionAt bs = u := State.recorded_ok hput
      rw [hrec] at hmem hhost hout ⊢
      have honly := hostPut_device hput
      refine ⟨hmem, hhost, fun hirq hprio hmask => ?_⟩
      rw [hout hirq hprio (honly.msixMask ▸ hmask), honly.out]

end Sys2Proof.Machine
end

section
/-! Commands for kernels and records (R61-R66, R72-R75, R397): a command's checks, its waits and its answer, and the cores of a
launch that is placed. -/

namespace Sys2Proof.Machine

section
variable {s : State}

/-! ### A command's course (R61, R62, R91) -/

section
variable {w : Who} {used : List (Nat × Nat)} {k : Cmd → State}

theorem State.command_for (h : CmdFor s w used) : s.command w used k = k s.inp.cmd := by
  obtain ⟨hwho, hzero⟩ := h
  unfold State.command
  dsimp only
  rw [hwho, hzero, if_neg (by decide), if_neg (by decide)]

theorem State.command_refused (h : w.allows s.inp.cmd.fn = false) :
    s.command w used k = s.cmdDone s.inp.cmd csNotPermitted 0 0 := by
  unfold State.command
  dsimp only
  rw [h]
  rfl

theorem State.command_stray (hw : w.allows s.inp.cmd.fn = true) (h : s.inp.cmd.zeroBut used = false) :
    s.command w used k = s.cmdDone s.inp.cmd csBadField 0 0 := by
  unfold State.command
  dsimp only
  rw [hw, h]
  rfl

end

section
variable {i : Instr} {c : Cmd} {wr : Bool} {a n : Nat} {k : State → State}

theorem State.whenFree_free (h : fnWaits s (fnReq c.fn) c.fn wr a n = none) : s.whenFree i c wr a n k = k s := by
  rw [State.whenFree, h]

theorem State.whenFree_waits {ch : Fin 256} (h : fnWaits s (fnReq c.fn) c.fn wr a n = some ch) :
    s.whenFree i c wr a n k = s.waitAtChan ch i := by
  rw [State.whenFree, h]

end

theorem fnWaits_empty (q : Req) (fn : Fn) (wr : Bool) (a : Nat) : fnWaits s q fn wr a 0 = none := rfl

theorem hostGet_empty (fn : Fn) (a : Nat) : hostGet s fn a 0 = .ok ([], s) := rfl

section
variable {i : Instr} {c : Cmd} {a r0 : Nat} {bs : List Byte} (hfree : fnWaits s (fnReq c.fn) c.fn true a bs.length = none)
include hfree

theorem State.answerCmd_ok {u : State} (h : hostPut s c.fn a bs = .ok u) : s.answerCmd i c a bs r0 = u.cmdDone c csOk r0 0 := by
  rw [State.answerCmd, State.whenFree_free hfree, h]

theorem State.answerCmd_fails {e : Cause} (h : hostPut s c.fn a bs = .error e) :
    s.answerCmd i c a bs r0 = (s.ringFault c.fn a e).cmdDone c (csOfCause e) 0 0 := by
  rw [State.answerCmd, State.whenFree_free hfree, h]
  rfl

end

/-! ### Kernels of a partition (R64) -/

theorem State.updPart_here (p : Fin 17) (f : Partition → Partition) : (s.updPart p.val f).parts[p] = f s.parts[p] := by
  have hset : s.updPart p.val f = { s with parts := s.parts.set p.val (f s.parts[p.val]) } := dif_pos p.isLt
  rw [hset]
  exact Vector.getElem_set_self _

/-- Every other field of the state is as it was. -/
theorem State.updPart_only (p : Nat) (f : Partition → Partition) : ({ s.updPart p f with parts := s.parts } : State) = s := by
  unfold State.updPart
  split <;> rfl

/-- What becomes of the commands depends on the commands alone. -/
theorem State.cmdDone_runs {t : State} (h : t.cmdRuns = s.cmdRuns) (c : Cmd) (status r0 r1 : Nat) :
    (t.cmdDone c status r0 r1).cmdRuns = (s.cmdDone c status r0 r1).cmdRuns := by
  unfold State.cmdDone
  rw [h] <;> rfl

theorem kernelOf_fn (p : Fn) (h : Nat) : kernelOf s p.val h = (s.parts[p]).kernels.find? (·.handle = h) := dif_pos p.isLt

/-- A handle that is free is that of no kernel of the partition. -/
theorem freeHandle_new {p : Partition} {n h : Nat} (hfree : freeHandle p n = some h) : ∀ k ∈ p.kernels, k.handle ≠ h := by
  unfold freeHandle at hfree
  split at hfree
  · cases hfree
  · obtain ⟨i, -, hi⟩ := List.exists_of_findSome?_eq_some hfree
    dsimp only at hi
    split at hi
    · cases hi
    next hnone =>
      injection hi with hi
      subst hi
      intro k hk heq
      exact hnone (List.any_eq_true.mpr ⟨k, hk, decide_eq_true heq⟩)

section
variable {l : List Kernel} {k : Kernel} {h : Nat}

theorem find_append_new (hnew : ∀ x ∈ l, x.handle ≠ h) (hk : k.handle = h) : (l ++ [k]).find? (·.handle = h) = some k := by
  rw [List.find?_append, List.find?_eq_none.mpr (by simpa using hnew)]
  simp [hk]

theorem find_append_other {n : Nat} (hk : k.handle ≠ n) : (l ++ [k]).find? (·.handle = n) = l.find? (·.handle = n) := by
  rw [List.find?_append]
  simp [hk]

theorem find_filter_gone : (l.filter (·.handle ≠ h)).find? (·.handle = h) = none := by
  simp [List.find?_eq_none]

theorem find_filter_other {n : Nat} (hn : n ≠ h) : (l.filter (·.handle ≠ h)).find? (·.handle = n) = l.find? (·.handle = n) := by
  rw [List.find?_filter]
  congr 1
  funext x
  by_cases hx : x.handle = n
  · simp [hx, hn]
  · simp [hx]

end

/-! ### A launch on its cores (R98, R100, R101) -/

section
variable {l : Launch}

/-- The cores of a launch start, in its order. -/
def State.startAll (s : State) (l : Launch) (cs : List (Fin 256 × Nat)) : State :=
  cs.foldl (fun s (e : Fin 256 × Nat) => s.mapCore e.1 (startCore s l e.2)) s

theorem State.startAll_only (cs : List (Fin 256 × Nat)) (s : State) :
    ({ s.startAll l cs with cores := s.cores } : State) = s := by
  induction cs generalizing s with
  | nil => rfl
  | cons e cs ih => exact (congrArg (fun t : State => { t with cores := s.cores }) (ih (s.mapCore e.1 (startCore s l e.2))) :)

/-- A core of the list has been started. -/
theorem State.startAll_starts {d : Fin 256} {cs : List (Fin 256 × Nat)} (hd : d ∈ cs.map Prod.fst) :
    ∃ r i k, (s.startAll l cs).coreAt d = startCore r l i k := by
  have hstart (cs : List (Fin 256 × Nat)) : ∀ s : State,
      (d ∈ cs.map Prod.fst ∨ ∃ r i k, s.coreAt d = startCore r l i k) →
        ∃ r i k, (s.startAll l cs).coreAt d = startCore r l i k := by
    induction cs with
    | nil =>
      intro s h
      rcases h with h | h
      · cases h
      · exact h
    | cons e cs ih =>
      intro s h
      refine ih _ ?_
      by_cases he : d = e.1
      · subst he
        exact Or.inr ⟨s, e.2, s.coreAt e.1, State.coreAt_mapCore _ _ _⟩
      · rw [State.coreAt_mapCore_ne _ _ he]
        refine h.imp_left fun hmem => ?_
        rw [List.map_cons, List.mem_cons] at hmem
        exact hmem.resolve_left he
  exact hstart cs s (Or.inl hd)

/-- A launch as it stands once it is placed. -/
def Launch.placed (l : Launch) (s : State) (quads : List Nat) : Launch :=
  { l with state := .running, quads := quads, eff := effLevel s l, waited := waitedCycles s l,
           since := s.cycle, entered := true, swapped := false, haltAt := none }

/-- What a start drops and reads first: nothing, of an H kernel. -/
def State.readied (s : State) (l : Launch) (quads : List Nat) : State :=
  if l.hker then s else ((s.dropQuadTlb l.part quads).dropSeqTlb l.part).readWindows l.part

theorem State.placeLaunch_eq (quads : List Nat) : s.placeLaunch l quads =
    ((s.readied l quads).mapLaunch l.id fun _ => l.placed s quads).startAll (l.placed s quads) (coresOf quads).zipIdx := rfl

theorem mem_zipIdx_fst {d : Fin 256} {cs : List (Fin 256)} (h : d ∈ cs) : d ∈ cs.zipIdx.map Prod.fst := by
  rwa [List.zipIdx_map_fst]

/-- The cores of the quads have been started. -/
theorem State.placeLaunch_starts {quads : List Nat} {d : Fin 256} (hd : d ∈ coresOf quads) :
    ∃ r i k, (s.placeLaunch l quads).coreAt d = startCore r (l.placed s quads) i k :=
  State.startAll_starts (mem_zipIdx_fst hd)

theorem State.placeLaunch_memory {quads : List Nat} (hl : l.hker = true) :
    (s.placeLaunch l quads).mem = s.mem ∧ (s.placeLaunch l quads).l2 = s.l2 := by
  have hready : s.readied l quads = s := if_pos hl
  have honly := State.startAll_only (l := l.placed s quads) (coresOf quads).zipIdx (s.mapLaunch l.id fun _ => l.placed s quads)
  rw [State.placeLaunch_eq, hready]
  exact ⟨(congrArg State.mem honly :), (congrArg State.l2 honly :)⟩

end

/-- Bytes that have been laid down read back. -/
theorem State.peek_poke (tag a : Nat) (bs : List Byte) : (s.poke tag a bs).peek tag a bs.length = bs := by
  rw [State.peek_eq]
  apply List.ext_getElem (by simp)
  intro i hi _
  have hlt : i < bs.length := by simpa using hi
  rw [List.getElem_map, List.getElem_range, State.peekByte_poke _ _ _ _ _ _ (.inl rfl), if_pos (by omega),
    Nat.add_sub_cancel_left]
  simp [List.getD, hlt]

theorem State.peek_of_eq {t : State} (hm : t.mem = s.mem) (hl : t.l2 = s.l2) (tag a n : Nat) : t.peek tag a n = s.peek tag a n := by
  unfold State.peek State.peekByte State.l2At
  rw [hm, hl]

/-! ### REGISTER and UNREGISTER (R64, R65) -/

/-- REGISTER once its image has been read. -/
def State.registerImage (s : State) (c : Cmd) (im : List Byte) : State :=
  match imageRefusal im (hbmBytes s c.fn.val), freeHandle s.parts[c.fn] s.free with
  | some (code, off), _ => s.cmdDone c csRefused code off
  | none, none => s.cmdDone c csRefused 0x13 0
  | none, some h =>
    if hbmBytes s c.fn.val < im.length then s.cmdDone c csNoResources 0 0
    else ({ s with free := s.free + 1 }.updPart c.fn.val fun p =>
      { p with kernels := p.kernels ++ [kernelFrom h im] }).cmdDone c csOk h 0

section
variable {c : Cmd} {im : List Byte}

theorem State.registerImage_refused {code off : Nat} (h : imageRefusal im (hbmBytes s c.fn.val) = some (code, off)) :
    s.registerImage c im = s.cmdDone c csRefused code off := by
  rw [State.registerImage, h]

section
variable {h : Nat} (himage : imageRefusal im (hbmBytes s c.fn.val) = none) (hfree : freeHandle s.parts[c.fn] s.free = some h)
include himage hfree

theorem State.registerImage_full (hroom : hbmBytes s c.fn.val < im.length) :
    s.registerImage c im = s.cmdDone c csNoResources 0 0 := by
  rw [State.registerImage, himage, hfree]
  exact if_pos hroom

/-- The partition with the kernel that REGISTER makes. -/
def Partition.withKernel (p : Partition) (k : Kernel) : Partition := { p with kernels := p.kernels ++ [k] }

theorem State.registerImage_ok (hroom : im.length ≤ hbmBytes s c.fn.val) : s.registerImage c im =
    (({ s with free := s.free + 1 } : State).updPart c.fn.val fun p => p.withKernel (kernelFrom h im)).cmdDone c csOk h 0 := by
  rw [State.registerImage, himage, hfree]
  exact if_neg (by omega)

end

end

section
variable (hcmd : CmdFor s .vf [(8, 8), (16, 4)]) (hlen : s.inp.cmd.field 16 4 ≤ 0x1000000)
include hcmd hlen

theorem register_waits {ch : Fin 256}
    (hwait : fnWaits s (fnReq s.inp.cmd.fn) s.inp.cmd.fn false (s.inp.cmd.field 8 8) (s.inp.cmd.field 16 4) = some ch) :
    Runs .register s (s.waitAtChan ch .register) := by
  change execRegister s = _
  unfold execRegister
  rw [State.command_for hcmd]
  dsimp only
  rw [if_neg (by omega), State.whenFree_waits hwait]

section
variable (hfree : fnWaits s (fnReq s.inp.cmd.fn) s.inp.cmd.fn false (s.inp.cmd.field 8 8) (s.inp.cmd.field 16 4) = none)
include hfree

theorem register_fails {e : Cause} (hget : hostGet s s.inp.cmd.fn (s.inp.cmd.field 8 8) (s.inp.cmd.field 16 4) = .error e) :
    EndsIn .register s (s.ringFault s.inp.cmd.fn (s.inp.cmd.field 8 8) e) (csOfCause e) 0 0 := by
  change execRegister s = _
  unfold execRegister
  rw [State.command_for hcmd]
  dsimp only
  rw [if_neg (by omega), State.whenFree_free hfree, hget]
  rfl

theorem register_reads {im : List Byte} {u : State}
    (hget : hostGet s s.inp.cmd.fn (s.inp.cmd.field 8 8) (s.inp.cmd.field 16 4) = .ok (im, u)) :
    Runs .register s (u.registerImage s.inp.cmd im) := by
  change execRegister s = _
  unfold execRegister
  rw [State.command_for hcmd]
  dsimp only
  rw [if_neg (by omega), State.whenFree_free hfree, hget]
  rfl

end
end

/-- The kernels of a partition once REGISTER has added one. -/
theorem kernelOf_registered {u : State} {c : Cmd} {im : List Byte} {h : Nat} (hu : OnlyDevice s u)
    (hfree : freeHandle u.parts[c.fn] u.free = some h) :
    let t := (({ u with free := u.free + 1 } : State).updPart c.fn.val fun p => p.withKernel (kernelFrom h im)).cmdDone c csOk h 0
    kernelOf t c.fn.val h = some (kernelFrom h im) ∧ ∀ n, n ≠ h → kernelOf t c.fn.val n = kernelOf s c.fn.val n := by
  intro t
  have hparts : t.parts[c.fn] = (u.parts[c.fn]).withKernel (kernelFrom h im) :=
    State.updPart_here (s := { u with free := u.free + 1 }) c.fn _
  have hkept : (u.parts[c.fn]).kernels = (s.parts[c.fn]).kernels := hu.part_keeps Partition.kernels (fun _ _ => rfl) c.fn
  rw [kernelOf_fn, hparts]
  refine ⟨find_append_new (freeHandle_new hfree) rfl, fun n hn => ?_⟩
  rw [kernelOf_fn, kernelOf_fn, hparts, ← hkept]
  exact find_append_other (Ne.symm hn)

/-- The partition without the kernels of a handle. -/
def Partition.withoutKernel (p : Partition) (h : Nat) : Partition := { p with kernels := p.kernels.filter (·.handle ≠ h) }

section
variable (hcmd : CmdFor s .vf [(8, 2)])
include hcmd

theorem unregister_goes : Runs .unregister s
    (let c := s.inp.cmd
    if (kernelOf s c.fn.val (c.field 8 2)).isNone then s.cmdDone c csNoHandle 0 0
    else if s.launches.any fun l => l.part = c.fn.val && l.handle = c.field 8 2 && l.state ≠ .done then s.cmdDone c csBusy 0 0
    else (s.updPart c.fn.val fun p => p.withoutKernel (c.field 8 2)).cmdDone c csOk 0 0) := by
  change execUnregister s = _
  unfold execUnregister
  rw [State.command_for hcmd]
  rfl

end

theorem kernelOf_unregistered (c : Cmd) (h : Nat) :
    let t := (s.updPart c.fn.val fun p => p.withoutKernel h).cmdDone c csOk 0 0
    kernelOf t c.fn.val h = none ∧ ∀ n, n ≠ h → kernelOf t c.fn.val n = kernelOf s c.fn.val n := by
  intro t
  have hparts : t.parts[c.fn] = (s.parts[c.fn]).withoutKernel h := State.updPart_here c.fn _
  rw [kernelOf_fn, hparts]
  refine ⟨find_filter_gone, fun n hn => ?_⟩
  rw [kernelOf_fn, kernelOf_fn, hparts]
  exact find_filter_other hn

/-! ### LAUNCH (R66, R397) -/

section
variable {u : State} {k : Kernel} {args : List Byte}
  (hcmd : CmdFor s .vf [(8, 2), (10, 1), (12, 4), (16, 8), (24, 2), (26, 2), (28, 2), (32, 8)])
  (hn : s.inp.cmd.field 24 2 ≤ 4096) (hone : 1 ≤ s.inp.cmd.field 28 2) (hmax : s.inp.cmd.field 28 2 ≤ 2048)
include hcmd hn hone hmax

theorem launch_unknown (hsize : s.inp.cmd.field 28 2 = 1) (hk : kernelOf s s.inp.cmd.fn.val (s.inp.cmd.field 8 2) = none) :
    EndsIn .launch s s csNoHandle 0 0 := by
  change execLaunch s = _
  unfold execLaunch
  rw [State.command_for hcmd]
  dsimp only
  rw [if_neg (by simp; omega), hk]

section
variable (hk : kernelOf s s.inp.cmd.fn.val (s.inp.cmd.field 8 2) = some k) (hspill : s.inp.cmd.field 24 2 ≤ k.hdr.spill)
  (hquads : (if s.inp.cmd.field 10 1 = 0 then k.hdr.quads else s.inp.cmd.field 10 1) ≤ quadCount s s.inp.cmd.fn.val)
  (hfree : fnWaits s (fnReq s.inp.cmd.fn) s.inp.cmd.fn false (s.inp.cmd.field 16 8) (s.inp.cmd.field 24 2) = none)
  (hget : hostGet s s.inp.cmd.fn (s.inp.cmd.field 16 8) (s.inp.cmd.field 24 2) = .ok (args, u))
include hk hspill hquads hfree hget

theorem launch_single (hsize : s.inp.cmd.field 28 2 = 1) :
    Runs .launch s (u.queueLaunch (launchOfCmd u s.inp.cmd k.hdr args [])) := by
  change execLaunch s = _
  unfold execLaunch
  rw [State.command_for hcmd]
  dsimp only
  rw [if_neg (by simp; omega), hk]
  dsimp only
  rw [if_neg (by omega), if_neg (by omega), if_neg (by simp [hsize]), if_pos hsize, State.whenFree_free hfree,
    State.whenFree_free (fnWaits_empty _ _ _ _), hget]
  dsimp only
  rw [hostGet_empty]
  dsimp only
  rw [if_pos hsize]

theorem launch_gang {bs : List Byte} {v : State} (hsize : 1 < s.inp.cmd.field 28 2)
    (hrank : s.inp.cmd.field 26 2 < s.inp.cmd.field 28 2) (hgang : BitVec.ofNat 32 (s.inp.cmd.field 12 4) ≠ 0)
    (hdef : (s.gangDef s.inp.cmd.fn.val (BitVec.ofNat 32 (s.inp.cmd.field 12 4))).isSome = true)
    (htable : fnWaits s (fnReq s.inp.cmd.fn) s.inp.cmd.fn false (s.inp.cmd.field 32 8) (4 * s.inp.cmd.field 28 2) = none)
    (hmembers : hostGet u s.inp.cmd.fn (s.inp.cmd.field 32 8) (4 * s.inp.cmd.field 28 2) = .ok (bs, v)) :
    Runs .launch s (v.queueLaunch (launchOfCmd v s.inp.cmd k.hdr args (membersOf bs (s.inp.cmd.field 28 2)))) := by
  change execLaunch s = _
  unfold execLaunch
  rw [State.command_for hcmd]
  dsimp only
  rw [if_neg (by simp only [Bool.or_eq_true, Bool.and_eq_true, decide_eq_true_eq, hgang, or_false]; omega), hk]
  dsimp only
  have hnone : (s.gangDef s.inp.cmd.fn.val (BitVec.ofNat 32 (s.inp.cmd.field 12 4))).isNone = false := by
    rw [← Option.not_isSome, hdef]
    rfl
  rw [if_neg (by omega), if_neg (by omega), if_neg (by simp [hnone]), if_neg (by omega), State.whenFree_free hfree,
    State.whenFree_free htable, hget]
  dsimp only
  rw [hmembers]
  dsimp only
  rw [if_neg (by omega)]

end
end

/-- An H kernel as it is placed: on one quad. -/
def hLaunchOf (s : State) (c : Cmd) (im args : List Byte) : Launch :=
  { launchOfCmd s c (headerOf im) args [] with nquads := 1 }

/-- The state with the code of an H kernel in its code area, and the launch placed. -/
def State.placeH (s : State) (c : Cmd) (im args : List Byte) (len q : Nat) : State :=
  ((s.queueLaunch (hLaunchOf s c im args)).poke 0 (hLaunchOf s c im args).code (im.take len)).placeLaunch (hLaunchOf s c im args) [q]

section
variable {hd im args : List Byte} {u v w : State}
  (hcmd : CmdFor s .pf [(8, 2), (10, 1), (12, 4), (16, 8), (24, 2), (26, 2), (28, 2), (32, 8), (40, 8)])
  (hhandle : s.inp.cmd.field 8 2 = 0) (hsize : s.inp.cmd.field 28 2 = 1) (hq : s.inp.cmd.field 10 1 ≤ 1)
  (ha : s.inp.cmd.field 40 8 % 64 = 0) (hn : s.inp.cmd.field 24 2 ≤ 4096) (hhigh : s.inp.cmd.field 40 8 < 2 ^ 39)
  (hfree : fnWaits s (fnReq s.inp.cmd.fn) s.inp.cmd.fn false (s.inp.cmd.field 40 8) 128 = none)
  (hget : hostGet s 0 (s.inp.cmd.field 40 8) 128 = .ok (hd, u))
  (hfree' : fnWaits u (fnReq 0) 0 false (s.inp.cmd.field 40 8) (min 0x1000000 (max 128 (fieldLE hd 8 4))) = none)
  (hget' : hostGet u 0 (s.inp.cmd.field 40 8) (min 0x1000000 (max 128 (fieldLE hd 8 4))) = .ok (im, v))
include hcmd hhandle hsize hq ha hn hhigh hfree hget hfree' hget'

theorem hKernelLaunch_refused {code off : Nat} (himage : imageRefusal im (2 ^ 39) = some (code, off)) :
    EndsIn .hKernelLaunch s v csRefused code off := by
  have hfn : s.inp.cmd.fn = 0 := of_decide_eq_true hcmd.1
  rw [← hfn] at hfree'
  change execHKernelLaunch s = _
  unfold execHKernelLaunch
  rw [State.command_for hcmd]
  dsimp only
  rw [if_neg (by simp [hhandle, hsize, ha]; omega), if_neg (by omega), State.whenFree_free hfree, hget]
  dsimp only
  rw [State.whenFree_free hfree', hget']
  dsimp only
  rw [himage]

section
variable (himage : imageRefusal im (2 ^ 39) = none) (hquads : s.inp.cmd.field 10 1 = 1 ∨ (headerOf im).quads = 1)
  (hspill : s.inp.cmd.field 24 2 ≤ (headerOf im).spill)
  (hargs : fnWaits v (fnReq 0) 0 false (s.inp.cmd.field 16 8) (s.inp.cmd.field 24 2) = none)
  (hread : hostGet v 0 (s.inp.cmd.field 16 8) (s.inp.cmd.field 24 2) = .ok (args, w))
include himage hquads hspill hargs hread

theorem hKernelLaunch_goes : exec .hKernelLaunch s = .next (match hQuad v with
    | none => v.cmdDone s.inp.cmd csNoResources 0 0
    | some q => w.placeH s.inp.cmd im args (fieldLE hd 8 4) q) := by
  have hfn : s.inp.cmd.fn = 0 := of_decide_eq_true hcmd.1
  rw [← hfn] at hfree' hargs
  change execHKernelLaunch s = _
  unfold execHKernelLaunch
  rw [State.command_for hcmd]
  dsimp only
  rw [if_neg (by simp [hhandle, hsize, ha]; omega), if_neg (by omega), State.whenFree_free hfree, hget]
  dsimp only
  rw [State.whenFree_free hfree', hget']
  dsimp only
  rw [himage]
  dsimp only
  rw [if_neg (by simp; omega), State.whenFree_free hargs, hread]
  cases hQuad v <;> rfl

end
end

/-- What a placed H kernel's cores start with, and where its code lies. -/
theorem State.placeH_places (w : State) {c : Cmd} (hc : c.fn = 0) (im args : List Byte) (len q : Nat) :
    let t := w.placeH c im args len q
    (∀ d ∈ coresOf [q], let k := t.coreAt d
      k.launch = some w.nextId ∧ k.level = .h ∧ k.base = .h ∧ k.run = .running ∧
      k.pc = BitVec.ofNat 64 (Config.codeArea w.nextId + (headerOf im).entry)) ∧
    t.peek 0 (Config.codeArea w.nextId) (im.take len).length = im.take len := by
  intro t
  have hh : (hLaunchOf w c im args).hker = true := decide_eq_true hc
  refine ⟨fun d hd => ?_, ?_⟩
  · obtain ⟨r, i, k, hk⟩ := State.placeLaunch_starts (l := hLaunchOf w c im args)
      (s := (w.queueLaunch (hLaunchOf w c im args)).poke 0 (hLaunchOf w c im args).code (im.take len)) hd
    intro k'
    have hk' : k' = startCore r _ i k := hk
    rw [hk']
    have hlevel : (if (hLaunchOf w c im args).hker then Level.h else Level.u) = .h := if_pos hh
    have hcode : (if (hLaunchOf w c im args).hker then (hLaunchOf w c im args).code else 0) = Config.codeArea w.nextId := if_pos hh
    refine ⟨rfl, hlevel, hlevel, rfl, ?_⟩
    exact congrArg (fun n => BitVec.ofNat 64 (n + (headerOf im).entry)) hcode
  · obtain ⟨hmem, hl2⟩ := State.placeLaunch_memory
      (s := (w.queueLaunch (hLaunchOf w c im args)).poke 0 (hLaunchOf w c im args).code (im.take len)) (quads := [q]) hh
    exact (State.peek_of_eq hmem hl2 _ _ _).trans (State.peek_poke _ _ _)

/-! ### LPERM (R66) -/

/-- The permissions with one entry renewed, or removed. -/
def lpermWith (l : List Lperm) (e : Lperm) (on : Prop) [Decidable on] : List Lperm :=
  let rest := l.filter (·.index ≠ e.index)
  if on then (rest.filter (·.index < e.index)) ++ [e] ++ rest.filter (e.index < ·.index) else rest

section
variable (l : List Lperm) (e : Lperm) {on : Prop} [Decidable on]

theorem lpermWith_find : (lpermWith l e on).find? (·.index = e.index) = if on then some e else none := by
  unfold lpermWith
  have hrest : (l.filter (·.index ≠ e.index)).find? (·.index = e.index) = none := by simp [List.find?_eq_none]
  split
  · have hlow : ((l.filter (·.index ≠ e.index)).filter (·.index < e.index)).find? (·.index = e.index) = none :=
      List.find?_eq_none.mpr fun x hx => List.find?_eq_none.mp hrest x (List.mem_filter.mp hx).1
    rw [List.append_assoc, List.find?_append, hlow]
    simp
  · exact hrest

theorem mem_lpermWith {x : Lperm} (hx : x.index ≠ e.index) : x ∈ lpermWith l e on ↔ x ∈ l := by
  unfold lpermWith
  split
  · have hne : x ≠ e := fun h => hx (congrArg Lperm.index h)
    simp only [List.mem_append, List.mem_filter, List.mem_singleton, hne, or_false, decide_eq_true_eq]
    constructor
    · rintro (h | h) <;> exact h.1.1
    · exact fun h => (Nat.lt_or_gt_of_ne hx).imp (fun hlt => ⟨⟨h, hx⟩, hlt⟩) fun hgt => ⟨⟨h, hx⟩, hgt⟩
  · simp [List.mem_filter, hx]

end

theorem lperm_sets (hcmd : CmdFor s .vf [(8, 4), (12, 4)]) {e : Lperm}
    (he : e = ⟨s.inp.cmd.field 8 1, s.inp.cmd.field 10 2, s.inp.cmd.field 12 2, s.inp.cmd.field 14 1, s.inp.cmd.field 15 1⟩)
    (hindex : e.index ≤ 63) (hone : s.inp.cmd.field 9 1 ≤ 1) (hprio : e.maxPrio ≤ 10) (hmod : e.srcMod ≤ 0x7FF) (hfn : e.srcFn ≤ 16) :
    Runs .lperm s ((s.setRt s.inp.cmd.fn.val fun rt =>
      { rt with lperm := lpermWith rt.lperm e (s.inp.cmd.field 9 1 = 1) }).cmdDone s.inp.cmd csOk 0 0) := by
  subst he
  change execLperm s = _
  unfold execLperm
  rw [State.command_for hcmd]
  dsimp only at hindex hprio hmod hfn ⊢
  rw [if_neg (by simp only [Bool.or_eq_true, decide_eq_true_eq]; omega)]
  rfl

/-! ### SLATE (R63, R73) -/

/-- The slate that SLATE names. -/
def slateFound (s : State) (part seq : Nat) : Option (List Byte) :=
  let sl := (s.partRt part).slates
  if part = 0 then (if (seq = 2 ^ 64 - 1 || seq = 0) && !s.genesis.isEmpty then some s.genesis else none)
  else if seq = 2 ^ 64 - 1 then (sl.kept.head?).map (·.2)
  else match sl.kept.find? (·.1 = seq), sl.final with
    | some x, _ => some x.2
    | none, some f => if f.1 = seq then some f.2 else none
    | none, none => none

section
variable (hcmd : CmdFor s .all [(8, 1), (16, 8), (24, 8)])
include hcmd

theorem slate_beyond (h : 16 < s.inp.cmd.field 8 1) : EndsIn .slate s s csBadField 0 0 := by
  change execSlate s = _
  unfold execSlate
  rw [State.command_for hcmd]
  exact congrArg Host.Outcome.next (if_pos h)

section
variable (h : s.inp.cmd.field 8 1 ≤ 16)
include h

theorem slate_foreign (hfn : s.inp.cmd.fn ≠ 0) (h0 : s.inp.cmd.field 8 1 ≠ 0) (hother : s.inp.cmd.field 8 1 ≠ s.inp.cmd.fn.val) :
    EndsIn .slate s s csNotPermitted 0 0 := by
  change execSlate s = _
  unfold execSlate
  rw [State.command_for hcmd]
  dsimp only
  rw [if_neg (by omega), if_pos (by simp [hfn, h0, hother])]

theorem slate_goes (hown : s.inp.cmd.field 8 1 = 0 ∨ s.inp.cmd.fn = 0 ∨ s.inp.cmd.field 8 1 = s.inp.cmd.fn.val) :
    exec .slate s = .next (match slateFound s (s.inp.cmd.field 8 1) (s.inp.cmd.field 16 8) with
      | none => s.cmdDone s.inp.cmd csNoSlate 0 0
      | some bs => s.answerCmd .slate s.inp.cmd (s.inp.cmd.field 24 8) bs 0) := by
  have hpermit : ¬(s.inp.cmd.fn ≠ 0 && s.inp.cmd.field 8 1 ≠ 0 && s.inp.cmd.field 8 1 ≠ s.inp.cmd.fn.val) = true := by
    rcases hown with h | h | h <;> simp [h]
  change execSlate s = _
  unfold execSlate
  rw [State.command_for hcmd]
  dsimp only
  rw [if_neg (by omega), if_neg hpermit]
  unfold slateFound <;> rfl

theorem slate_missing (hown : s.inp.cmd.field 8 1 = 0 ∨ s.inp.cmd.fn = 0 ∨ s.inp.cmd.field 8 1 = s.inp.cmd.fn.val)
    (hfound : slateFound s (s.inp.cmd.field 8 1) (s.inp.cmd.field 16 8) = none) : EndsIn .slate s s csNoSlate 0 0 := by
  unfold EndsIn Runs
  rw [slate_goes hcmd h hown, hfound]

theorem slate_answers (hown : s.inp.cmd.field 8 1 = 0 ∨ s.inp.cmd.fn = 0 ∨ s.inp.cmd.field 8 1 = s.inp.cmd.fn.val)
    {bs : List Byte} {u : State} (hfound : slateFound s (s.inp.cmd.field 8 1) (s.inp.cmd.field 16 8) = some bs)
    (hfree : fnWaits s (fnReq s.inp.cmd.fn) s.inp.cmd.fn true (s.inp.cmd.field 24 8) bs.length = none)
    (hput : hostPut s s.inp.cmd.fn (s.inp.cmd.field 24 8) bs = .ok u) : EndsIn .slate s u csOk 0 0 := by
  unfold EndsIn Runs
  rw [slate_goes hcmd h hown, hfound]
  exact congrArg Host.Outcome.next (State.answerCmd_ok hfree hput)

end
end

end

/-- Settles O49, command by command. -/
theorem kernelAndRecordCommands : Obligations.KernelAndRecordCommands := by
  unfold Obligations.KernelAndRecordCommands
  intro s c free
  refine ⟨?refusals, fun h => ?nop, fun h => ?nopStray, fun hcmd hlen => ?register, fun hcmd => ?unregister, fun hcmd => ?launch,
    fun hcmd => ?hKernel, fun hcmd => ?lperm, fun hcmd => ?attest, fun hcmd => ?summary, fun hcmd => ?slate⟩
  case refusals =>
    intro i hi hfn
    have hwho : Who.allows .vf s.inp.cmd.fn = false := by
      rw [show s.inp.cmd.fn = 0 from hfn]
      rfl
    fin_cases hi <;> exact congrArg Host.Outcome.next (State.command_refused hwho)
  case nop => exact congrArg Host.Outcome.next (State.command_for ⟨rfl, h⟩)
  case nopStray => exact congrArg Host.Outcome.next (State.command_stray rfl h)
  case register =>
    refine ⟨fun ch hwait => register_waits hcmd hlen hwait, fun hfree => ⟨fun e hget => register_fails hcmd hlen hfree hget,
      fun im u hget => ?_⟩⟩
    have hexec := register_reads hcmd hlen hfree hget
    refine ⟨fun code off himage => ?_, fun h himage hh hroom => ?_, fun h himage hh hroom => ⟨_, hexec, ?_⟩⟩
    · exact hexec.trans (congrArg Host.Outcome.next (State.registerImage_refused himage))
    · exact hexec.trans (congrArg Host.Outcome.next (State.registerImage_full himage hh hroom))
    · rw [State.registerImage_ok himage hh hroom]
      have hu := hostGet_device hget
      have hkernels := kernelOf_registered (im := im) hu hh
      have honly := State.updPart_only (s := { u with free := u.free + 1 }) s.inp.cmd.fn.val fun p => p.withKernel (kernelFrom h im)
      exact ⟨State.cmdDone_runs (congrArg State.cmdRuns honly :) _ _ _ _, hkernels.1, (congrArg State.mem honly :), hkernels.2⟩
  case unregister =>
    intro h used
    have hexec := unregister_goes hcmd
    dsimp only at hexec
    have hknown (hsome : (kernelOf s s.inp.cmd.fn.val (s.inp.cmd.field 8 2)).isSome = true) :
        ¬(kernelOf s s.inp.cmd.fn.val (s.inp.cmd.field 8 2)).isNone = true := by
      rw [← Option.not_isSome, hsome]
      decide
    refine ⟨fun hnone => ?_, fun hsome hused => ?_, fun hsome hused => ?_⟩
    · exact hexec.trans (congrArg Host.Outcome.next (if_pos (by rw [hnone]; rfl)))
    · exact hexec.trans (congrArg Host.Outcome.next ((if_neg (hknown hsome)).trans (if_pos hused)))
    · have hfree : ¬used = true := by
        rw [hused]
        decide
      refine ⟨_, hexec.trans (congrArg Host.Outcome.next ((if_neg (hknown hsome)).trans (if_neg hfree))), ?_, ?_⟩
      · exact State.cmdDone_runs (congrArg State.cmdRuns (State.updPart_only _ _) :) _ _ _ _
      exact kernelOf_unregistered s.inp.cmd (s.inp.cmd.field 8 2)
  case launch =>
    intro n size hn hone hmax
    refine ⟨fun hsize hk => launch_unknown hcmd hn hone hmax hsize hk, fun k args u hk hspill hquads hfree hget =>
      ⟨fun hsize => ?_, fun bs v hsize hrank hgang hdef htable hmembers => ?_⟩⟩
    · exact ⟨_, launch_single hcmd hn hone hmax hk hspill hquads hfree hget hsize, rfl, rfl, rfl⟩
    · exact ⟨_, launch_gang hcmd hn hone hmax hk hspill hquads hfree hget hsize hrank hgang hdef htable hmembers, rfl, rfl⟩
  case hKernel =>
    intro n a hd im args u v w hhandle hsize hq ha hn hhigh all hfree hget hfree' hget'
    have hc : s.inp.cmd.fn = 0 := of_decide_eq_true hcmd.1
    refine ⟨fun code off himage => hKernelLaunch_refused hcmd hhandle hsize hq ha hn hhigh hfree hget hfree' hget' himage,
      fun himage hquads hspill hargs hread => ?_⟩
    have hexec := hKernelLaunch_goes hcmd hhandle hsize hq ha hn hhigh hfree hget hfree' hget' himage hquads hspill hargs hread
    refine ⟨fun hnone => ?_, fun q hsome => ⟨_, ?_, State.placeH_places w hc im args (fieldLE hd 8 4) q⟩⟩
    · rw [hnone] at hexec
      exact hexec
    · rw [hsome] at hexec
      exact hexec
  case lperm =>
    intro e hindex hone hprio hmod hfn
    refine ⟨_, lperm_sets hcmd rfl hindex hone hprio hmod hfn, State.cmdDone_runs (congrArg State.cmdRuns (State.setRt_only _ _ _) :) _ _ _ _, ?_⟩
    have hrt : ((s.setRt s.inp.cmd.fn.val fun rt =>
        { rt with lperm := lpermWith rt.lperm e (s.inp.cmd.field 9 1 = 1) }).partRt s.inp.cmd.fn.val).lperm =
        lpermWith (s.partRt s.inp.cmd.fn.val).lperm e (s.inp.cmd.field 9 1 = 1) := by
      rw [State.partRt_setRt _ s.inp.cmd.fn.isLt]
    refine ⟨(congrArg (List.find? fun x => x.index = e.index) hrt).trans (lpermWith_find _ _), fun n hn x hx => ?_⟩
    exact (iff_of_eq (congrArg (x ∈ ·) hrt)).trans (mem_lpermWith _ _ (hx ▸ hn))
  case attest =>
    intro bs hfree
    have hexec : exec .attest s = .next (s.answerCmd .attest s.inp.cmd (s.inp.cmd.field 40 8) bs 0) :=
      congrArg Host.Outcome.next (State.command_for hcmd)
    exact ⟨fun u hput => hexec.trans (congrArg Host.Outcome.next (State.answerCmd_ok hfree hput)),
      fun e hput => hexec.trans (congrArg Host.Outcome.next (State.answerCmd_fails hfree hput))⟩
  case summary =>
    intro v bs
    have hexec : exec .summary s = .next (if s.inp.cmd.field 16 4 < bs.length then v.cmdDone s.inp.cmd csTooSmall bs.length 0
        else v.answerCmd .summary s.inp.cmd (s.inp.cmd.field 8 8) bs bs.length) :=
      congrArg Host.Outcome.next (State.command_for hcmd)
    refine ⟨fun hsmall => hexec.trans (congrArg Host.Outcome.next (if_pos hsmall)), fun hfits hfree => ?_⟩
    rw [if_neg (Nat.not_lt.mpr hfits)] at hexec
    exact ⟨fun u hput => hexec.trans (congrArg Host.Outcome.next (State.answerCmd_ok hfree hput)),
      fun e hput => hexec.trans (congrArg Host.Outcome.next (State.answerCmd_fails hfree hput))⟩
  case slate =>
    intro part
    refine ⟨fun h => slate_beyond hcmd h, fun h hfn h0 hother => slate_foreign hcmd h hfn h0 hother,
      fun h h0 hown hlatest => ⟨fun hnone => slate_missing hcmd h (Or.inr hown) ?_, fun n bs rest u hkept hfree hput =>
        slate_answers hcmd h (Or.inr hown) ?_ hfree hput⟩,
      fun n bs u h h0 hown hseq hkept hfree hput => slate_answers hcmd h (Or.inr hown) ?_ hfree hput,
      fun u h0 hseq hgen hfree hput => slate_answers hcmd (Nat.le_trans (Nat.le_of_eq h0) (Nat.zero_le _)) (Or.inl h0) ?_ hfree hput⟩
    · unfold slateFound
      dsimp only
      rw [if_neg h0, if_pos hlatest, show (s.partRt (s.inp.cmd.field 8 1)).slates.kept = [] from hnone]
      rfl
    · unfold slateFound
      dsimp only
      rw [if_neg h0, if_pos hlatest, show (s.partRt (s.inp.cmd.field 8 1)).slates.kept = (n, bs) :: rest from hkept]
      rfl
    · unfold slateFound
      dsimp only
      rw [if_neg h0, if_neg hseq, show (s.partRt (s.inp.cmd.field 8 1)).slates.kept.find? _ = some (n, bs) from hkept]
    · unfold slateFound
      dsimp only
      rw [if_pos h0, if_pos (by simp [show s.inp.cmd.field 16 8 = 0 from hseq, hgen])]

end Sys2Proof.Machine
end

section
/-! The dispatcher and the periodic steps (R66, R90-R92, R96-R101, R106, R297, R306). -/

namespace Sys2Proof.Machine

/-! ### The choice and the placement (R97, R98) -/

theorem le_foldl_max {α : Type} (f : α → Nat) (l : List α) (m : Nat) :
    m ≤ l.foldl (fun m x => max m (f x)) m ∧ ∀ x ∈ l, f x ≤ l.foldl (fun m x => max m (f x)) m := by
  induction l generalizing m with
  | nil => simp
  | cons a l ih =>
    obtain ⟨hm, hl⟩ := ih (max m (f a))
    refine ⟨Nat.le_trans (Nat.le_max_left _ _) hm, fun x hx => ?_⟩
    rcases List.mem_cons.mp hx with rfl | hx
    · exact Nat.le_trans (Nat.le_max_right _ _) hm
    · exact hl x hx

section
variable {s : State} {p : Nat} {l : Launch}

/-- The launch chosen may start, and none that may start is of a higher effective level. -/
theorem pickLaunch_highest (h : pickLaunch s p = some l) : l ∈ s.launches ∧ l.canStart p = true ∧
    ∀ m ∈ s.launches, m.canStart p = true → effLevel s m ≤ effLevel s l := by
  unfold pickLaunch at h
  extract_lets cs top highest last at h
  obtain ⟨k, -, hk⟩ := List.exists_of_findSome?_eq_some h
  obtain ⟨hcs, htop⟩ := List.mem_filter.mp (List.mem_of_find?_eq_some hk)
  obtain ⟨hl, hstart⟩ := List.mem_filter.mp hcs
  refine ⟨hl, hstart, fun m hm hms => ?_⟩
  rw [of_decide_eq_true htop]
  exact (le_foldl_max (effLevel s) cs 0).2 m (List.mem_filter.mpr ⟨hm, hms⟩)

theorem placeQuads_places {free qs : List Nat} {n : Nat} (h : placeQuads free n = some qs) :
    qs.length = n ∧ (∀ q ∈ qs, q ∈ free) ∧
      ((∃ d, d < 4 ∧ n ≤ (free.filter fun q => q / 16 = d).length) → ∃ d, ∀ q ∈ qs, q / 16 = d) := by
  unfold placeQuads at h
  split at h
  next d hd =>
    injection h with h
    subst h
    have hfound := List.find?_some hd
    have hroom : n ≤ (free.filter fun q => q / 16 = d).length := of_decide_eq_true hfound
    have hmem : ∀ q ∈ (free.filter fun q => q / 16 = d).take n, q ∈ free ∧ q / 16 = d := fun q hq => by
      obtain ⟨hfree, hdie⟩ := List.mem_filter.mp (List.mem_of_mem_take hq)
      exact ⟨hfree, of_decide_eq_true hdie⟩
    exact ⟨List.length_take_of_le hroom, fun q hq => (hmem q hq).1, fun _ => ⟨d, fun q hq => (hmem q hq).2⟩⟩
  next hnone =>
    split at h
    next hroom =>
      injection h with h
      subst h
      refine ⟨List.length_take_of_le hroom, fun q hq => List.mem_of_mem_take hq, fun ⟨d, hd, hdie⟩ => ?_⟩
      refine absurd hdie fun hdie => List.find?_eq_none.mp hnone d (by simp; omega) (decide_eq_true hdie)
    · cases h

/-! ### One act of the dispatcher (R97-R100) -/

/-- What the dispatcher does by a plan. -/
def State.actOn (s : State) (p : Nat) : Plan → State
  | .leave id => s.saveLaunch id false
  | .start l qs => (s.setRt p fun r => { r with chosen := none }).placeLaunch l qs
  | .resume id => (s.setRt p fun r => { r with chosen := none }).resumeLaunch id
  | .stop ids => s.askIds ids .save
  | .choose => s
  | .wait => s

section
variable {part : Fin 16}

theorem dispatch_acts {plan : Plan} (h : dispatchPlan s (partNo part) = plan) (hplan : plan ≠ .choose) :
    Runs (.dispatch part) s (s.actOn (partNo part) plan) := by
  change execDispatch part s = _
  unfold execDispatch
  dsimp only
  cases plan with
  | choose => exact absurd rfl hplan
  | _ =>
    rw [h]
    dsimp only
    rw [h]
    rfl

theorem dispatch_chooses (h : dispatchPlan s (partNo part) = .choose) (hpick : pickLaunch s (partNo part) = some l) :
    let u := s.setRt (partNo part) fun r => { r with chosen := some l.id, served := sourceKind l.source }
    Runs (.dispatch part) s (u.actOn (partNo part) (dispatchPlan u (partNo part))) := by
  intro u
  change execDispatch part s = _
  unfold execDispatch
  dsimp only
  rw [h]
  dsimp only
  rw [hpick]
  cases hplan : dispatchPlan u (partNo part) <;> rfl

end

theorem lnchEntry_enters {part : Fin 16} (h : lnchReady s (partNo part) = some l) :
    Runs (.lnchEntry part) s (s.mapLaunch l.id fun l => { l with entered := true, since := s.cycle }) := by
  change execLnchEntry part s = _
  unfold execLnchEntry
  rw [h]

/-! ### A start (R100, R101) -/

theorem foldl_keeps {α β : Type} (g : State → β) {f : State → α → State} (hf : ∀ s a, g (f s a) = g s) (l : List α) (s : State) :
    g (l.foldl f s) = g s := by
  induction l generalizing s with
  | nil => rfl
  | cons a l ih => exact (ih (f s a)).trans (hf s a)

/-- Both the memory and the lines of L2. -/
def State.held (s : State) : Mem × List L2Line := (s.mem, s.l2)

theorem State.memory_of_held {t : State} (h : t.held = s.held) : SameMemory s t := by
  obtain ⟨hm, hl⟩ := Prod.mk.inj h
  exact SameMemory.of_eq hm hl

theorem OnlyLogs.held {t : State} (h : OnlyLogs s t) : t.held = s.held := congrArg₂ Prod.mk h.mem h.l2

theorem State.dropQuadTlb_held (part : Nat) (quads : List Nat) : (s.dropQuadTlb part quads).held = s.held := by
  unfold State.dropQuadTlb
  extract_lets keep dropped
  refine (foldl_keeps State.held (fun s q => ?_) quads dropped).trans (foldl_keeps State.held (fun s c => ?_) _ s)
  · split <;> rfl
  · rfl

theorem State.readWindows_held (part : Nat) : (s.readWindows part).held = s.held := by
  have hupd (f : Partition → Partition) : (s.updPart part f).held = s.held := by
    unfold State.updPart
    split <;> rfl
  unfold State.readWindows
  split
  · exact hupd _
  · refine (foldl_keeps State.held (fun s i => ?_) _ _).trans (hupd _)
    split
    · exact (s.logUnit_logs _ _ _ _ _ _ _ _).held
    · rfl

theorem State.readied_held (quads : List Nat) : (s.readied l quads).held = s.held := by
  unfold State.readied
  split
  · rfl
  · exact (State.readWindows_held _).trans (State.dropQuadTlb_held _ _)

theorem State.placeLaunch_held (quads : List Nat) : (s.placeLaunch l quads).held = s.held := by
  rw [State.placeLaunch_eq]
  have honly := State.startAll_only (l := l.placed s quads) (coresOf quads).zipIdx
    ((s.readied l quads).mapLaunch l.id fun _ => l.placed s quads)
  exact (congrArg State.held honly :).trans (State.readied_held quads)

theorem State.placeLaunch_launch (quads : List Nat) {x : Launch} (hx : x ∈ (s.placeLaunch l quads).launches) (hid : x.id = l.id) :
    x = l.placed s quads := by
  have honly := State.startAll_only (l := l.placed s quads) (coresOf quads).zipIdx
    ((s.readied l quads).mapLaunch l.id fun _ => l.placed s quads)
  rw [State.placeLaunch_eq, (congrArg State.launches honly :)] at hx
  obtain ⟨y, -, rfl⟩ := List.mem_map.mp hx
  dsimp only at hid ⊢
  split
  · rfl
  next hne =>
    rw [if_neg hne] at hid
    exact absurd hid hne

theorem State.setRt_held (part : Nat) (f : PartRt → PartRt) : (s.setRt part f).held = s.held :=
  (congrArg State.held (s.setRt_only part f) :)

/-! ### The end of a launch (R66, R297) -/

theorem State.launchById_mapLaunch {id : Nat} {f : Launch → Launch} (hf : ∀ l, (f l).id = l.id) :
    (s.mapLaunch id f).launchById id = (s.launchById id).map f := by
  unfold State.launchById State.mapLaunch
  dsimp only
  induction s.launches with
  | nil => rfl
  | cons l ls ih =>
    by_cases hl : l.id = id
    · simp [hl, hf]
    · simp [hl, ih]

theorem State.perfUpdate_standing (part : Nat) (d : Fin 256) :
    ((s.perfUpdate part).coreAt d).standing = (s.coreAt d).standing := by
  unfold State.perfUpdate
  extract_lets p mine t t' seen saw counted upd
  split
  · rfl
  · have hupd : upd.cores = counted.cores := (congrArg State.cores (counted.updPart_only part _) :)
    have hset : (upd.setRt part fun r =>
        { r with pmQueue := t'.toList.zipIdx.map fun e => (e.2, e.1), pmAt := upd.cycle }).cores = counted.cores :=
      (congrArg State.cores (upd.setRt_only part _) :).trans hupd
    unfold State.coreAt
    rw [hset]
    have hcore : counted.cores[d] = if mine s.cores[d] then seen s.cores[d] else s.cores[d] := Vector.getElem_map _ d.isLt
    rw [hcore]
    split <;> rfl

theorem State.chargeHold_cores : s.chargeHold.cores = s.cores := by
  unfold State.chargeHold
  extract_lets h upTo n h'
  split
  · rfl
  · exact (State.meter_device _ _ _ _).cores

theorem standing_of_rest {t : State} (h : t.rest = s.rest) (d : Fin 256) : (t.coreAt d).standing = (s.coreAt d).standing := by
  have hcores : t.cores.map Core.standing = s.cores.map Core.standing := congrArg Rest.cores h
  have hd := congrArg (fun v : Vector Standing 256 => v[d]) hcores
  rw [Fin.getElem_fin, Fin.getElem_fin, Vector.getElem_map, Vector.getElem_map] at hd
  exact hd

theorem State.dropParked_rest (id : Nat) : (s.dropParked id).rest = s.rest := by
  unfold State.dropParked
  dsimp only
  split <;> simp

/-- What ends with a launch before its state does: its parked commands, with its counters brought up to date. -/
def State.settled (s : State) (l : Launch) (id : Nat) : State :=
  let s := (s.perfUpdate l.part).dropParked id
  if l.gang = 0 then s else s.chargeHold

theorem State.settled_standing (l : Launch) (id : Nat) (d : Fin 256) :
    ((s.settled l id).coreAt d).standing = (s.coreAt d).standing := by
  have hdrop := standing_of_rest ((s.perfUpdate l.part).dropParked_rest id) d
  have hperf := hdrop.trans (State.perfUpdate_standing _ _)
  unfold State.settled
  dsimp only
  split
  · exact hperf
  · rw [State.coreAt, State.chargeHold_cores]
    exact hperf

/-- The launch done, and its cores idle. -/
def State.released (s : State) (id act : Nat) : State :=
  let s := s.mapLaunch id fun l => { l with state := .done, ended := s.cycle, active := act }
  { s with cores := s.cores.map fun k => if k.launch = some id then { k with run := .idle, launch := none } else k
           saved := s.saved.filter fun x => x.launch ≠ id }

/-- A launch's gang and its command have its result. -/
def State.reported (s : State) (l : Launch) : State :=
  let s := if l.gang = 0 then s else s.mapGang l.part l.gang fun d =>
    { d with finished := true, withdrawn := d.withdrawn || l.fault.isSome }
  match l.cmd with
  | none => s
  | some c => match l.fault with
    | some e => s.cmdDone c csKernelFault (l.first.getD 0) e.toNat
    | none => s.cmdDone c csOk (l.first.getD 0) l.charged

theorem State.launchDone_eq {id : Nat} (hl : s.launchById id = some l) (hstate : l.state ≠ .done) :
    s.launchDone id = ((s.settled l id).released id ((s.settled l id).activeOf (some id))).reported l := by
  unfold State.launchDone
  rw [hl]
  dsimp only
  rw [if_neg hstate]
  rfl

/-- Nothing but the gangs and the commands differs. -/
def OnlyReports (s t : State) : Prop := ({ t with gangs := s.gangs, cmdRuns := s.cmdRuns } : State) = s

theorem OnlyReports.done {t : State} (h : OnlyReports s t) (c : Cmd) (status r0 r1 : Nat) : OnlyReports s (t.cmdDone c status r0 r1) := h

theorem State.reported_only : OnlyReports s (s.reported l) := by
  unfold State.reported
  extract_lets gone
  have hgone : OnlyReports s gone := by
    unfold gone
    split <;> rfl
  clear_value gone
  split
  · exact hgone
  · split
    · exact hgone.done _ _ _ _
    · exact hgone.done _ _ _ _

/-- The launch is done, and its cores are idle. -/
theorem State.launchDone_ends {id : Nat} (hl : s.launchById id = some l) (hstate : l.state ≠ .done) :
    (∀ x ∈ (s.launchDone id).launches, x.id = id → x.state = .done) ∧
      ∀ d, (s.coreAt d).launch = some id → ((s.launchDone id).coreAt d).run = .idle ∧ ((s.launchDone id).coreAt d).launch = none := by
  rw [State.launchDone_eq hl hstate]
  generalize (s.settled l id).activeOf (some id) = act
  have hrest (d : Fin 256) := State.settled_standing (s := s) l id d
  generalize s.settled l id = u at hrest
  have honly := State.reported_only (s := u.released id act) (l := l)
  refine ⟨fun x hx hid => ?_, fun d hd => ?_⟩
  · rw [(congrArg State.launches honly :)] at hx
    obtain ⟨y, -, rfl⟩ := List.mem_map.mp hx
    dsimp only at hid ⊢
    split
    · rfl
    next hne =>
      rw [if_neg hne] at hid
      exact absurd hid hne
  · have hcore : ((u.released id act).reported l).coreAt d = (u.released id act).coreAt d :=
      (congrArg (fun t : State => t.coreAt d) honly :)
    have hidle : (u.released id act).coreAt d =
        if (u.coreAt d).launch = some id then { u.coreAt d with run := .idle, launch := none } else u.coreAt d :=
      Vector.getElem_map _ d.isLt
    have hlaunch : (u.coreAt d).launch = some id := (congrArg Standing.launch (hrest d) :).trans hd
    rw [hcore, hidle, if_pos hlaunch]
    exact ⟨rfl, rfl⟩

/-- A launch whose other cores are over ends with its last one. -/
theorem State.checkLaunch_last {id : Nat} (hl : s.launchById id = some l) (hstate : l.state = .running) (hfault : l.fault = none)
    (hsaved : (s.saved.any fun x => x.launch = id) = false)
    (hover : ∀ d ∈ coresOf l.quads, (s.coreAt d).launch ≠ some id ∨ (s.coreAt d).run = .ended ∨ (s.coreAt d).run = .dead) :
    s.checkLaunch id = s.launchDone id := by
  unfold State.checkLaunch
  rw [hl]
  dsimp only
  have hall : ((coresOf l.quads).all fun c => (s.coreAt c).launch ≠ some id || coreOver (s.coreAt c) l.fault.isSome) = true := by
    rw [List.all_eq_true]
    intro d hd
    rw [Bool.or_eq_true, decide_eq_true_eq]
    refine (hover d hd).imp_right fun h => ?_
    unfold coreOver
    rcases h with h | h <;> rw [h]
  rw [hall, hsaved, hstate, hfault]
  rfl

/-- The core after its END, and its core-cycles charged. -/
def State.coreOut (s : State) (c : Fin 256) (id : Nat) : State :=
  (s.mapCore c fun k => { k with run := .ended }).chargeCore (some id)

theorem State.coreOut_coreAt (c : Fin 256) (id : Nat) (d : Fin 256) :
    ((s.coreOut c id).coreAt d).launch = (s.coreAt d).launch ∧
      ((s.coreOut c id).coreAt d).run = if d = c then .ended else (s.coreAt d).run := by
  have hcore : (s.coreOut c id).coreAt d = (s.mapCore c fun k => { k with run := .ended }).coreAt d := rfl
  rw [hcore]
  by_cases hd : d = c
  · subst hd
    rw [State.coreAt_mapCore, if_pos rfl]
    exact ⟨rfl, rfl⟩
  · rw [State.coreAt_mapCore_ne _ _ hd, if_neg hd]
    exact ⟨rfl, rfl⟩

/-- A launch with a core's cycles up to `cycle` charged. -/
def Launch.charging (cycle : Nat) (l : Launch) : Launch := { l with charged := l.charged + (cycle - l.since) }

section
variable {c : Fin 256} {id : Nat} (hc : s.inp.core = c) (hrun : (s.coreAt c).run = .ending) (hid : (s.coreAt c).launch = some id)
include hc hrun hid

theorem coreEnded_waits (h : endReady s c = false) : Runs .coreEnded s s := by
  subst hc
  change execCoreEnded s = _
  unfold execCoreEnded
  dsimp only
  rw [hrun, hid, h]
  rfl

theorem coreEnded_ends (h : endReady s c = true) : Runs .coreEnded s ((s.coreOut c id).checkLaunch id) := by
  subst hc
  change execCoreEnded s = _
  unfold execCoreEnded
  dsimp only
  rw [hrun, hid, h]
  rfl

theorem coreEnded_last (h : endReady s c = true) (hl : s.launchById id = some l) (hstate : l.state = .running)
    (hfault : l.fault = none) (hsaved : (s.saved.any fun x => x.launch = id) = false)
    (hover : ∀ d ∈ coresOf l.quads, d ≠ c → (s.coreAt d).launch ≠ some id ∨ (s.coreAt d).run = .ended ∨ (s.coreAt d).run = .dead) :
    RunsTo .coreEnded s fun t => (∀ x ∈ t.launches, x.id = id → x.state = .done) ∧
      ∀ d, (s.coreAt d).launch = some id → (t.coreAt d).run = .idle ∧ (t.coreAt d).launch = none := by
  have hmapped : (s.coreOut c id).launchById id = some (l.charging s.cycle) := by
    change ((s.mapCore c fun k => { k with run := .ended }).mapLaunch id (Launch.charging s.cycle)).launchById id = _
    rw [State.launchById_mapLaunch (f := Launch.charging s.cycle) fun _ => rfl]
    exact congrArg (Option.map (Launch.charging s.cycle)) hl
  have hcheck := State.checkLaunch_last hmapped hstate hfault hsaved fun d hd => by
    obtain ⟨hlaunch, hdrun⟩ := State.coreOut_coreAt (s := s) c id d
    rw [hlaunch, hdrun]
    by_cases hdc : d = c
    · rw [if_pos hdc]
      exact Or.inr (Or.inl rfl)
    · rw [if_neg hdc]
      exact hover d hd hdc
  obtain ⟨hdone, hidle⟩ := State.launchDone_ends hmapped (show l.state ≠ .done by rw [hstate]; decide)
  refine ⟨_, coreEnded_ends hc hrun hid h, ?_⟩
  rw [hcheck]
  exact ⟨hdone, fun d hd => hidle d ((State.coreOut_coreAt c id d).1.trans hd)⟩

end

/-! ### Windows of quality of service (R91, R92) -/

/-- A best-effort partition's rate, or a critical one's counts, at the end of a window. -/
def QosCount.windowed (s : State) (ch : Fin 256) (q : QosCount) : QosCount :=
  if q.chan ≠ ch then q
  else if (partAt s q.part).critical then { q with reads := 0, late := 0 }
  else
    let q := q.fillTo s.cycle
    { q with rc := if missedAt s ch then max (q.rc / 2) 1 else min (q.rc + 32) (partAt s q.part).rate }

section
variable {ch : Fin 256}

theorem qosWindowEnd_steps (h : ch ≠ 255) :
    Runs (.qosWindowEnd ch) s { s with qos := s.qos.map (QosCount.windowed s ch) } := by
  change execQosWindowEnd ch s = _
  unfold execQosWindowEnd
  exact if_pos h

theorem QosCount.windowed_here (q : QosCount) (h : q.chan = ch) : (q.windowed s ch).chan = ch ∧ (q.windowed s ch).part = q.part ∧
    if (partAt s q.part).critical then (q.windowed s ch).reads = 0 ∧ (q.windowed s ch).late = 0
    else (q.windowed s ch).rc = if missedAt s ch then max (q.rc / 2) 1 else min (q.rc + 32) (partAt s q.part).rate := by
  unfold QosCount.windowed
  rw [if_neg (by simpa using h)]
  split
  · exact ⟨h, rfl, rfl, rfl⟩
  · exact ⟨h, rfl, rfl⟩

end

/-- The settings of a partition's PSET QOS take effect with a window's end. -/
def State.windowSet (s : State) (l : List (Fin 16)) : State := l.foldl (fun s p => s.applyQos (partNo p)) s

theorem partNo_lt (p : Fin 16) : partNo p < 17 := by
  unfold partNo
  omega

theorem partNo_inj {p q : Fin 16} (h : partNo p = partNo q) : p = q := by
  unfold partNo at h
  exact Fin.ext (by omega)

theorem partAt_updPart {p : Nat} (hp : p < 17) (f : Partition → Partition) : partAt (s.updPart p f) p = f (partAt s p) := by
  unfold partAt State.updPart
  rw [dif_pos hp, dif_pos hp, dif_pos hp]
  exact Vector.getElem_set_self _

theorem partAt_updPart_ne {p q : Nat} (h : q ≠ p) (f : Partition → Partition) : partAt (s.updPart p f) q = partAt s q := by
  unfold partAt State.updPart
  split
  next hq =>
    split
    next hp => exact Vector.getElem_set_ne hp hq (Ne.symm h)
    · rfl
  · rfl

theorem State.partRt_setRt_ne {p q : Nat} (h : q ≠ p) (f : PartRt → PartRt) : (s.setRt p f).partRt q = s.partRt q := by
  unfold State.partRt State.setRt
  split
  next hq =>
    split
    next hp => exact Vector.getElem_set_ne hp hq (Ne.symm h)
    · rfl
  · rfl

theorem State.partRt_updPart (p : Nat) (f : Partition → Partition) (q : Nat) : (s.updPart p f).partRt q = s.partRt q :=
  (congrArg (fun t : State => t.partRt q) (s.updPart_only p f) :)

theorem State.applyQos_away {p q : Nat} (h : q ≠ p) :
    partAt (s.applyQos p) q = partAt s q ∧ (s.applyQos p).partRt q = s.partRt q := by
  unfold State.applyQos
  split
  · exact ⟨rfl, rfl⟩
  · rw [partAt_setRt, partAt_updPart_ne h, State.partRt_setRt_ne h, State.partRt_updPart]
    exact ⟨rfl, rfl⟩

/-- What a partition's next settings are, and its present ones once they are taken up. -/
theorem State.applyQos_here {p : Nat} (hp : p < 17) {crit : Bool} {target rate : Nat}
    (h : (s.partRt p).qosNext = some (crit, target, rate)) :
    partAt (s.applyQos p) p = { partAt s p with critical := crit, target := target, rate := rate } ∧
      ((s.applyQos p).partRt p).qosNext = none := by
  unfold State.applyQos
  rw [h]
  dsimp only
  rw [partAt_setRt, partAt_updPart hp, State.partRt_setRt _ hp]
  exact ⟨rfl, rfl⟩

theorem State.windowSet_away {l : List (Fin 16)} {p : Fin 16} (h : p ∉ l) :
    partAt (s.windowSet l) (partNo p) = partAt s (partNo p) ∧ (s.windowSet l).partRt (partNo p) = s.partRt (partNo p) := by
  induction l generalizing s with
  | nil => exact ⟨rfl, rfl⟩
  | cons q l ih =>
    rw [List.mem_cons, not_or] at h
    obtain ⟨hq, hl⟩ := h
    obtain ⟨hpart, hrt⟩ := ih (s := s.applyQos (partNo q)) hl
    obtain ⟨hpart', hrt'⟩ := State.applyQos_away (s := s) (p := partNo q) (q := partNo p) fun e => hq (partNo_inj e)
    exact ⟨hpart.trans hpart', hrt.trans hrt'⟩

theorem State.windowSet_here {l : List (Fin 16)} (hl : l.Nodup) {p : Fin 16} (hp : p ∈ l) {crit : Bool} {target rate : Nat}
    (h : (s.partRt (partNo p)).qosNext = some (crit, target, rate)) :
    partAt (s.windowSet l) (partNo p) = { partAt s (partNo p) with critical := crit, target := target, rate := rate } ∧
      ((s.windowSet l).partRt (partNo p)).qosNext = none := by
  induction l generalizing s with
  | nil => cases hp
  | cons q l ih =>
    obtain ⟨hq, hl⟩ := List.nodup_cons.mp hl
    have hcons : s.windowSet (q :: l) = (s.applyQos (partNo q)).windowSet l := rfl
    rw [hcons]
    by_cases hpq : p = q
    · subst hpq
      obtain ⟨hpart, hrt⟩ := State.windowSet_away (s := s.applyQos (partNo p)) hq
      obtain ⟨hpart', hrt'⟩ := State.applyQos_here (partNo_lt p) h
      rw [hpart, hrt]
      exact ⟨hpart', hrt'⟩
    · obtain ⟨hpart, hrt⟩ := State.applyQos_away (s := s) (p := partNo q) (q := partNo p) fun e => hpq (partNo_inj e)
      obtain ⟨hset, hnone⟩ := ih (s := s.applyQos (partNo q)) hl ((List.mem_cons.mp hp).resolve_left hpq) (hrt ▸ h)
      exact ⟨hset.trans (by rw [hpart]), hnone⟩

def State.withQos (s : State) (qos : List QosCount) : State := { s with qos := qos }

theorem State.withQos_partAt (qos : List QosCount) (p : Nat) : partAt (s.withQos qos) p = partAt s p := rfl
theorem State.withQos_partRt (qos : List QosCount) (p : Nat) : (s.withQos qos).partRt p = s.partRt p := rfl

/-- A rate under the settings that stand. -/
def QosCount.renewed (s : State) (q : QosCount) : QosCount :=
  if (partAt s q.part).critical then { q with rc := 0 }
  else { q with rc := if q.rc = 0 then (partAt s q.part).rate else min q.rc (partAt s q.part).rate }

/-- The last channel's window: rates step, and new settings take effect. -/
theorem qosWindowEnd_last :
    let u := (s.withQos (s.qos.map (QosCount.windowed s 255))).windowSet (List.finRange 16)
    Runs (.qosWindowEnd 255) s (u.withQos (u.qos.map (QosCount.renewed u))) := by
  intro u
  change execQosWindowEnd 255 s = _
  unfold execQosWindowEnd
  exact if_neg (by decide)

/-- A partition's new settings stand at the window's end, and none are left to come. -/
theorem windowSet_settings {part : Fin 16} {crit : Bool} {target rate : Nat}
    (h : (s.partRt (partNo part)).qosNext = some (crit, target, rate)) (qos : List QosCount) :
    let t := ((s.withQos (s.qos.map (QosCount.windowed s 255))).windowSet (List.finRange 16)).withQos qos
    (partAt t (partNo part)).critical = crit ∧ (partAt t (partNo part)).target = target ∧ (partAt t (partNo part)).rate = rate ∧
      (t.partRt (partNo part)).qosNext = none := by
  intro t
  have hnext : ((s.withQos (s.qos.map (QosCount.windowed s 255))).partRt (partNo part)).qosNext = some (crit, target, rate) := by
    rw [State.withQos_partRt]
    exact h
  obtain ⟨hpart, hnone⟩ := State.windowSet_here (List.nodup_finRange 16) (List.mem_finRange part) hnext
  unfold t
  rw [State.withQos_partAt, State.withQos_partRt, hpart]
  exact ⟨rfl, rfl, rfl, hnone⟩

/-! ### Counters of a partition (R95, R96) -/

section
variable {part : Fin 16}

/-- The update of a partition's counters, with the next one due. -/
def State.perfRound (s : State) (p : Nat) : State := (s.perfUpdate p).setRt p fun r => { r with pmDue := s.cycle + 160000 }

theorem State.updPart_held (p : Nat) (f : Partition → Partition) : (s.updPart p f).held = s.held :=
  (congrArg State.held (s.updPart_only p f) :)

theorem State.perfRound_updates {p : Nat} (hp : p < 17) (h0 : p ≠ 0) (hbase : (partAt s p).pmbase ≠ 0) :
    (s.perfRound p).held = s.held ∧ ((s.perfRound p).partRt p).pmAt = s.cycle ∧
      ((s.perfRound p).partRt p).pmQueue = (partAt (s.perfRound p) p).totals.toList.zipIdx.map fun e => (e.2, e.1) := by
  unfold State.perfRound
  rw [State.partRt_setRt _ hp, partAt_setRt, State.setRt_held]
  dsimp only
  unfold State.perfUpdate
  extract_lets q mine t t' seen saw counted upd
  have hgo : ¬((p = 0 : Bool) || (q.pmbase = 0 : Bool)) = true := by simp [h0, show q.pmbase ≠ 0 from hbase]
  rw [if_neg hgo, State.setRt_held, State.partRt_setRt _ hp, partAt_setRt]
  have hupd : upd.held = s.held := State.updPart_held (s := counted) p _
  have htotals : (partAt upd p).totals = t' := congrArg Partition.totals (partAt_updPart (s := counted) hp _)
  have hcycle : upd.cycle = s.cycle := (congrArg State.cycle (counted.updPart_only p _) :)
  rw [htotals]
  exact ⟨hupd, hcycle, rfl⟩

theorem State.perfUpdate_none {p : Nat} (h : (partAt s p).pmbase = 0) : s.perfUpdate p = s := by
  unfold State.perfUpdate
  exact if_pos (by simp [h])

theorem perfCounterUpdate_due (h : (s.partRt (partNo part)).pmDue ≤ s.cycle) :
    Runs (.perfCounterUpdate part) s (if storesLeft (s.perfRound (partNo part)) (partNo part) then
      (s.perfRound (partNo part)).perfStore (partNo part) else s.perfRound (partNo part)) := by
  change execPerfCounterUpdate part s = _
  unfold execPerfCounterUpdate
  dsimp only
  rw [if_pos h]
  rfl

theorem perfCounterUpdate_early (h : s.cycle < (s.partRt (partNo part)).pmDue) :
    Runs (.perfCounterUpdate part) s (if storesLeft s (partNo part) then s.perfStore (partNo part) else s) := by
  change execPerfCounterUpdate part s = _
  unfold execPerfCounterUpdate
  have hlate : ¬(s.partRt (partNo part)).pmDue ≤ s.cycle := by omega
  dsimp only
  rw [if_neg hlate]

/-- The stores of an update that are left. -/
def State.keepStores (s : State) (p : Nat) (q : List (Nat × Word)) : State :=
  s.setRt p fun r => { r with pmQueue := q, pmAt := s.cycle + 1 }

section
variable {p ev : Nat} {v : Word} {rest : List (Nat × Word)} (hq : (s.partRt p).pmQueue = (ev, v) :: rest)
include hq

theorem State.perfStore_fails {e : Cause} (h : saveDpa s p (partAt s p).pmbase true = .error e) : s.perfStore p =
    (s.keepStores p []).logUnit e 0 p 6 0 0 (BitVec.ofNat 64 (partAt s p).pmbase) 0 := by
  unfold State.perfStore
  dsimp only
  rw [hq]
  dsimp only
  rw [h]
  rfl

section
variable {a : Nat} (h : saveDpa s p (partAt s p).pmbase true = .ok a)
include h

theorem State.perfStore_waits (hwait : reqWaits s (pktReq p) (a + 8 * ev) false .part = true) :
    s.perfStore p = s.keepStores p ((ev, v) :: rest) := by
  unfold State.perfStore
  dsimp only
  rw [hq]
  dsimp only
  rw [h]
  exact if_pos hwait

theorem State.perfStore_stores (hwait : reqWaits s (pktReq p) (a + 8 * ev) false .part = false)
    (hgood : tagFault s p (a + 8 * ev) = none) :
    s.perfStore p = (s.keepStores p rest).writeOwn p (a + 8 * ev) (natToBytes 8 v.toNat) .part := by
  unfold State.perfStore
  dsimp only
  rw [hq]
  dsimp only
  rw [h]
  dsimp only
  rw [hwait, if_neg (by decide), hgood]
  rfl

end
end

theorem State.keepStores_queue {p : Nat} (hp : p < 17) (q : List (Nat × Word)) :
    ((s.keepStores p q).partRt p).pmQueue = q := by
  rw [State.keepStores, State.partRt_setRt _ hp]

end

/-- A store of an update leaves the others to come. -/
theorem State.writeOwn_queue {p : Nat} (hp : p < 17) (q : List (Nat × Word)) (a : Nat) (bs : List Byte) :
    (((s.keepStores p q).writeOwn p a bs .part).partRt p).pmQueue = q := by
  have happly := (s.keepStores p q).applyLine_memorySide a
  have hside := happly.trans (State.access_memorySide _ (pktReq p) a false .part)
  have hrt : ((s.keepStores p q).writeOwn p a bs .part).rt = (s.keepStores p q).rt :=
    ((State.poke_device _ p a bs).rt).trans (congrArg State.rt hside.1 :)
  rw [State.partRt, hrt]
  exact State.keepStores_queue hp q

/-! ### Slates (R73) -/

theorem State.chargeHold_rt : s.chargeHold.rt = s.rt := by
  unfold State.chargeHold
  extract_lets h upTo n h'
  split
  · rfl
  · exact (State.meter_device _ _ _ _).rt

theorem State.chargeHold_cycle : s.chargeHold.cycle = s.cycle := by
  unfold State.chargeHold
  extract_lets h upTo n h'
  split
  · rfl
  · exact (State.meter_device _ _ _ _).cycle

theorem OnlyLogs.rt {t : State} (h : OnlyLogs s t) : t.rt = s.rt := (congrArg State.rt h :)

/-- A partition's slate: the number of the next one, and the microsecond of its sample. -/
theorem State.emitSlate_next {p : Nat} (hp : p < 17) :
    ((s.emitSlate p 0).partRt p).slates.next = (s.partRt p).slates.next + 1 ∧
      ((s.emitSlate p 0).partRt p).slates.sampled = s.micros ∧ (s.emitSlate p 0).cores = s.cores := by
  unfold State.emitSlate
  rw [dif_pos hp]
  extract_lets u sl seq prev bs sl' w base
  have hcores : w.cores = s.cores := (congrArg State.cores (u.setRt_only p _) :).trans State.chargeHold_cores
  have hslates : (w.partRt p).slates = sl' := congrArg PartRt.slates (State.partRt_setRt _ hp _)
  have hnext : sl'.next = (s.partRt p).slates.next + 1 := by
    have hrt : u.partRt p = s.partRt p := by rw [State.partRt, State.partRt, State.chargeHold_rt]
    exact congrArg (fun r : PartRt => r.slates.next + 1) hrt
  have hsampled : sl'.sampled = s.micros := congrArg (· / 1600) State.chargeHold_cycle
  clear_value w
  have hall (t : State) (hc : t.cores = w.cores) (hr : t.rt = w.rt) : (t.partRt p).slates.next = (s.partRt p).slates.next + 1 ∧
      (t.partRt p).slates.sampled = s.micros ∧ t.cores = s.cores := by
    have hrt : t.partRt p = w.partRt p := by rw [State.partRt, State.partRt, hr]
    rw [hrt, hslates]
    exact ⟨hnext, hsampled, hc.trans hcores⟩
  split
  · exact hall w rfl rfl
  · split
    next t ht => exact hall t (hostPut_device ht).cores (hostPut_device ht).rt
    next e _ =>
      have hlogs := (w.ringFault_logs (fn := 0) base.toNat e).trans (State.raiseErr_logs _ 0 2)
      exact hall _ hlogs.cores hlogs.rt

/-! ### Designated ways (R90) -/

/-- The slice and the way of every line, and the cores. -/
def State.places (s : State) : List (Nat × Nat) × Vector Core 256 := (s.l2.map fun e => (e.slice, e.way), s.cores)

theorem State.places_of_eq {t : State} (hl : t.l2 = s.l2) (hc : t.cores = s.cores) : t.places = s.places := by
  rw [State.places, State.places, hl, hc]

theorem State.poke_places (tag a : Nat) (bs : List Byte) : (s.poke tag a bs).places = s.places := by
  have hkeys : (s.poke tag a bs).l2.map (fun e => (e.slice, e.way)) = s.l2.map fun e => (e.slice, e.way) := by
    rw [State.poke_l2, List.map_map]
    refine List.map_congr_left fun e _ => ?_
    dsimp only [Function.comp, State.poked]
    split <;> rfl
  exact congrArg₂ Prod.mk hkeys (State.poke_device _ tag a bs).cores

theorem State.put_places (tag a : Nat) (bs : List Byte) (side : Bool) : (s.put tag a bs side).places = s.places := by
  unfold State.put
  split
  · rfl
  · exact State.poke_places _ _ _

theorem writeVa_places (part va : Nat) (b : Byte) : (writeVa s part va b).places = s.places := by
  unfold writeVa
  split
  · rfl
  · split
    · rfl
    · exact State.put_places _ _ _ _

theorem writeCode_places (part : Nat) (w : Window) (e c : Nat) : (writeCode s part w e c).places = s.places := by
  unfold writeCode
  split
  · exact writeVa_places _ _ _
  · dsimp only
    split
    · rfl
    · exact writeVa_places _ _ _

theorem encodeBlock_places (part : Nat) (w : Window) (e : Nat) (vs : List Val) : (encodeBlock s part w e vs).places = s.places := by
  have hcodes (l : List Nat) (u : State) (f g : Nat → Nat) :
      (l.foldl (fun s i => writeCode s part w (f i) (g i)) u).places = u.places :=
    foldl_keeps State.places (fun u i => writeCode_places part w _ _) l u
  unfold encodeBlock
  split
  · split
    · rfl
    · exact (hcodes _ _ _ _).trans (writeVa_places _ _ _)
  · exact foldl_keeps State.places (fun u o => (hcodes _ _ _ _).trans (writeVa_places _ _ _)) _ s

theorem OnlyLogs.places {t : State} (h : OnlyLogs s t) : t.places = s.places := State.places_of_eq h.l2 h.cores

theorem windowWrite_places (part : Nat) (w : Window) (off : Nat) (bs : List Byte) : (windowWrite s part w off bs).places = s.places := by
  unfold windowWrite
  extract_lets esz first last
  split
  · rfl
  · refine foldl_keeps State.places (fun u i => ?_) _ s
    dsimp only
    split
    · exact (u.logUnit_logs _ _ _ _ _ _ _ _).places
    · split
      · exact encodeBlock_places _ _ _ _
      · exact (u.logUnit_logs _ _ _ _ _ _ _ _).places
      · rfl

theorem State.noteWindow_l2 (ch : Fin 256) : (s.noteWindow ch).l2 = s.l2 := by
  unfold State.noteWindow
  split
  · split <;> rfl
  · rfl

theorem State.channelUse_l2 (dpa part : Nat) (rd : Bool) : (s.channelUse dpa part rd).l2 = s.l2 := by
  unfold State.channelUse
  extract_lets ch u slow
  have hu : u.l2 = s.l2 := State.noteWindow_l2 ch
  have hspent : (u.spendTokens ch part 1).l2 = u.l2 := by
    unfold State.spendTokens
    split <;> rfl
  clear_value u
  split
  · exact hspent.trans hu
  · split <;> exact hu

section
variable {q : Req} (hq : q.ctx = none)
include hq

theorem State.hbmWrite_l2 (dpa : Nat) : (s.hbmWrite q dpa).l2 = s.l2 := by
  unfold State.hbmWrite
  rw [State.note_device _ hq, State.meter_l2, State.channelUse_l2]

theorem State.writeBack_places (e : L2Line) : (s.writeBack q e).places = s.places := by
  have hhbm (u : State) (tag dpa : Nat) : (u.hbmWrite { q with part := tag } dpa).places = u.places :=
    State.places_of_eq (State.hbmWrite_l2 (q := { q with part := tag }) hq dpa) (State.hbmWrite_device u (q := { q with part := tag }) hq dpa).cores
  unfold State.writeBack
  split
  · rfl
  · rw [State.note_device _ hq]
    dsimp only
    split
    · exact hhbm _ _ _
    · split
      · exact (windowWrite_places _ _ _ _).trans (foldl_keeps State.places (fun u a => hhbm u _ _) _ s)
      · rfl

/-- The lines that leave are gone. -/
theorem State.flushLines_places (p : L2Line → Bool) :
    (s.flushLines q p).places = ((s.l2.filter fun e => !p e).map (fun e => (e.slice, e.way)), s.cores) := by
  unfold State.flushLines
  exact foldl_keeps State.places (fun u e => State.writeBack_places hq e) _ _

end

/-- Clean lines leave without a trace. -/
theorem State.flushLines_clean (q : Req) {p : L2Line → Bool} (h : ∀ e ∈ s.l2, p e = true → e.dirty = false) :
    s.flushLines q p = { s with l2 := s.l2.filter fun e => !p e } := by
  unfold State.flushLines
  have hclean : ∀ l : List L2Line, (∀ e ∈ l, e.dirty = false) → ∀ u : State, l.foldl (fun s e => s.writeBack q e) u = u := by
    intro l
    induction l with
    | nil => exact fun _ _ => rfl
    | cons e l ih =>
      intro hl u
      have he : u.writeBack q e = u := if_pos (by rw [hl e List.mem_cons_self]; rfl)
      rw [List.foldl_cons, he]
      exact ih (fun x hx => hl x (List.mem_cons_of_mem e hx)) u
  exact hclean _ (fun e he => h e (List.mem_filter.mp he).1 (List.mem_filter.mp he).2) _

theorem oneSlice (slice : Fin 128) (i : Nat) : (BitVec.ofNat 128 (2 ^ slice.val)).getLsbD i = decide (i = slice.val) := by
  rw [BitVec.getLsbD_ofNat, Nat.testBit_two_pow]
  by_cases h : slice.val = i
  · subst h
    simp
  · simp [h, Ne.symm h]

section
variable {part : Fin 16} {slice : Fin 128}

/-- The lines of a slice in a partition's designated ways. -/
def designated (s : State) (part : Fin 16) (slice : Fin 128) (e : L2Line) : Bool :=
  e.slice = slice.val && (s.partRt (partNo part)).clearWays.getLsbD e.way

theorem designated_slice {e : L2Line} (h : designated s part slice e = true) :
    e.slice = slice.val ∧ (s.partRt (partNo part)).clearWays.getLsbD e.way = true := by
  unfold designated at h
  rw [Bool.and_eq_true, decide_eq_true_eq] at h
  exact h

theorem State.clearSlices_one : s.clearSlices (partNo part) (BitVec.ofNat 128 (2 ^ slice.val)) (s.partRt (partNo part)).clearWays =
    s.flushLines (fnReq (Fin.ofNat 17 (partNo part))) (designated s part slice) := by
  unfold State.clearSlices
  congr 1
  funext e
  rw [oneSlice]
  rfl

theorem designatedWaysCleared_waits (h : clearDue s (partNo part) slice = false) : Runs (.designatedWaysCleared part slice) s s := by
  change execDesignatedWaysCleared part slice s = _
  unfold execDesignatedWaysCleared
  dsimp only
  rw [h]
  rfl

theorem designatedWaysCleared_clears (h : clearDue s (partNo part) slice = true) :
    Runs (.designatedWaysCleared part slice) s ((s.flushLines (fnReq (Fin.ofNat 17 (partNo part))) (designated s part slice)).setRt
      (partNo part) fun r => { r with
        clearing := (s.partRt (partNo part)).clearing &&& ~~~(BitVec.ofNat 128 (2 ^ slice.val))
        clearWays := if (s.partRt (partNo part)).clearing &&& ~~~(BitVec.ofNat 128 (2 ^ slice.val)) = 0 then 0 else r.clearWays }) := by
  change execDesignatedWaysCleared part slice s = _
  unfold execDesignatedWaysCleared
  dsimp only
  rw [h, if_neg (by decide), State.clearSlices_one]

theorem flush_leaves_none {e : L2Line} (he : e ∈ (s.flushLines (fnReq (Fin.ofNat 17 (partNo part))) (designated s part slice)).l2)
    (hslice : e.slice = slice.val) : (s.partRt (partNo part)).clearWays.getLsbD e.way = false := by
  have hplaces := State.flushLines_places (s := s) (q := fnReq (Fin.ofNat 17 (partNo part))) rfl (designated s part slice)
  have hmem : (e.slice, e.way) ∈ (s.flushLines (fnReq (Fin.ofNat 17 (partNo part))) (designated s part slice)).places.1 :=
    List.mem_map_of_mem (f := fun e : L2Line => (e.slice, e.way)) he
  rw [hplaces] at hmem
  obtain ⟨x, hx, hkey⟩ := List.mem_map.mp hmem
  obtain ⟨hxs, hxw⟩ := Prod.mk.inj hkey
  have hkept := (List.mem_filter.mp hx).2
  unfold designated at hkept
  rw [hxs, hxw, hslice] at hkept
  simpa using hkept

end

end

/-- Settles O46, step by step of the dispatcher and of the periodic ones. -/
theorem dispatcherAndPeriodicSteps : Obligations.DispatcherAndPeriodicSteps := by
  unfold Obligations.DispatcherAndPeriodicSteps
  intro s part p
  have hp : p < 17 := partNo_lt part
  have hp0 : p ≠ 0 := Nat.succ_ne_zero _
  refine ⟨fun l h => pickLaunch_highest h, fun free n qs h => placeQuads_places h, fun id h => dispatch_acts h (by nofun),
    fun l qs h => ⟨_, dispatch_acts h (by nofun), ?start⟩, fun id h => dispatch_acts h (by nofun),
    fun ids h => ⟨_, dispatch_acts h (by nofun), ?stop⟩, fun h => dispatch_acts h (by nofun), fun l h hpick => ?choose,
    fun l h => ?lnch, fun c id l hc hrun hid => ⟨fun h => coreEnded_waits hc hrun hid h, fun h => ⟨coreEnded_ends hc hrun hid h,
      fun hl hstate hfault hsaved hover => coreEnded_last hc hrun hid h hl hstate hfault hsaved hover⟩⟩,
    fun ch hch => ⟨_, qosWindowEnd_steps hch, ?window⟩, fun crit target rate h => ⟨_, qosWindowEnd_last, ?settings⟩,
    fun h => ?perfDue, fun h => ?perfEarly, fun h => congrArg Host.Outcome.next (if_neg (by rw [h]; decide)), fun h => ?slate, fun slice => ?ways⟩
  case start =>
    have hcycle : (s.setRt p fun r => { r with chosen := none }).cycle = s.cycle := (congrArg State.cycle (s.setRt_only p _) :)
    refine ⟨State.memory_of_held ((State.placeLaunch_held qs).trans (State.setRt_held p _)), fun x hx hid => ?_, fun c hc => ?_⟩
    · rw [State.placeLaunch_launch qs hx hid]
      exact ⟨rfl, rfl, hcycle⟩
    · obtain ⟨r, i, k, hk⟩ := State.placeLaunch_starts (s := s.setRt p fun r => { r with chosen := none }) (l := l) hc
      intro k'
      have hk' : k' = startCore r _ i k := hk
      rw [hk']
      exact ⟨rfl, rfl, rfl, rfl, rfl, rfl, rfl, rfl⟩
  case stop =>
    obtain ⟨honly, -⟩ := s.askIds_asks .save ids 0
    refine ⟨(congrArg State.launches honly :), SameMemory.of_eq (congrArg State.mem honly :) (congrArg State.l2 honly :),
      fun id hid c hlaunch hrun => (s.askIds_asks .save ids c).2.2 hrun (Or.inr ⟨id, hid, hlaunch⟩)⟩
  case choose =>
    intro u
    have hexec : Runs (.dispatch part) s (u.actOn p (dispatchPlan u p)) := dispatch_chooses h hpick
    refine ⟨fun hwait => ?_, fun l' qs hstart => ?_⟩
    · rw [hwait] at hexec
      exact hexec
    · rw [hstart] at hexec
      exact hexec
  case lnch =>
    refine ⟨_, lnchEntry_enters h, rfl, rfl, fun x hx hid => ?_⟩
    obtain ⟨y, -, rfl⟩ := List.mem_map.mp hx
    dsimp only at hid ⊢
    split
    · exact ⟨rfl, rfl⟩
    next hne =>
      rw [if_neg hne] at hid
      exact absurd hid hne
  case window =>
    refine ⟨SameMemory.of_eq rfl rfl, rfl, fun q hq hqc => ⟨q.windowed s ch, List.mem_map_of_mem hq, q.windowed_here hqc⟩,
      fun q hq hqc => ?_⟩
    have hkept : q.windowed s ch = q := if_pos hqc
    exact hkept ▸ List.mem_map_of_mem hq
  case settings => exact windowSet_settings h _
  case perfDue =>
    refine ⟨perfCounterUpdate_due h, fun hbase => State.perfUpdate_none hbase, fun hbase => ?_⟩
    obtain ⟨hheld, hat_, hqueue⟩ := State.perfRound_updates hp hp0 hbase
    exact ⟨State.memory_of_held hheld, hat_, hqueue⟩
  case perfEarly =>
    have hexec := perfCounterUpdate_early h
    refine ⟨fun hnone => ?_, fun ev v rest hsome hq => ?_⟩
    · rw [hnone] at hexec
      exact hexec
    · rw [if_pos hsome] at hexec
      intro page
      refine ⟨fun e he => ⟨_, hexec, ?_⟩, fun a ha => ?_⟩
      · rw [State.perfStore_fails hq he]
        have hlogs := (s.keepStores p []).logUnit_logs e 0 p 6 0 0 (BitVec.ofNat 64 (partAt s p).pmbase) 0
        refine ⟨?_, State.memory_of_held (hlogs.held.trans (State.setRt_held p _))⟩
        rw [State.partRt, hlogs.rt]
        exact State.keepStores_queue hp []
      · intro b
        refine ⟨fun hwait => ⟨_, hexec, ?_⟩, fun hgo hgood => ?_⟩
        · rw [State.perfStore_waits hq ha hwait]
          exact ⟨State.keepStores_queue hp _, State.memory_of_held (State.setRt_held p _)⟩
        · intro x
          refine ⟨_, hexec, ?_⟩
          rw [State.perfStore_stores hq ha hgo hgood]
          exact ⟨State.writeOwn_queue hp rest _ _, x.put_storedFor p b (natToBytes 8 v.toNat) false⟩
  case slate =>
    have hexec : exec (.periodicSlate part) s = .next (s.emitSlate p 0) := congrArg Host.Outcome.next (if_pos h)
    exact ⟨_, hexec, State.emitSlate_next hp⟩
  case ways =>
    refine ⟨fun h => designatedWaysCleared_waits h, fun h => ⟨_, designatedWaysCleared_clears h, ?_⟩⟩
    have hset (u : State) (f : PartRt → PartRt) : (u.setRt p f).l2 = u.l2 := (congrArg State.l2 (u.setRt_only p f) :)
    refine ⟨?_, fun e he hslice => flush_leaves_none ((hset _ _) ▸ he) hslice, fun hclean => ?_⟩
    · exact congrArg PartRt.clearing (State.partRt_setRt _ hp _)
    · rw [State.flushLines_clean _ fun e he hdes => hclean e he (designated_slice hdes).1 (designated_slice hdes).2]
      have honly := State.setRt_only { s with l2 := s.l2.filter fun e => !designated s part slice e } p fun r => { r with
        clearing := (s.partRt p).clearing &&& ~~~(BitVec.ofNat 128 (2 ^ slice.val))
        clearWays := if (s.partRt p).clearing &&& ~~~(BitVec.ofNat 128 (2 ^ slice.val)) = 0 then 0 else r.clearWays }
      exact ⟨(congrArg State.mem honly :), (congrArg State.cores honly :), (congrArg State.l2 honly :)⟩

end Sys2Proof.Machine
end

section
/-! The stop of a partition's launches (R69, R70): what it asks for, and what it leaves alone. -/

namespace Sys2Proof.Machine

/-! ### What a stop of launches leaves alone -/

/-- Registers and rings, what partitions wait for, which partitions exist; gangs only withdraw, and no command is new. -/
structure Stopping (s t : State) : Prop where
  fns : t.fns = s.fns
  pending : t.rt.map PartRt.pending = s.rt.map PartRt.pending
  living : t.parts.map Partition.exists_ = s.parts.map Partition.exists_
  gangs : ∀ g ∈ t.gangs, ∃ g' ∈ s.gangs, g'.part = g.part ∧ (g'.withdrawn = true → g.withdrawn = true)
  cmds : ∀ c ∈ t.cmdRuns, ∃ c' ∈ s.cmdRuns, c'.cmd = c.cmd

section
variable {s t u : State}

theorem Stopping.of_eq (hfns : t.fns = s.fns) (hrt : t.rt = s.rt) (hparts : t.parts = s.parts) (hgangs : t.gangs = s.gangs)
    (hcmds : t.cmdRuns = s.cmdRuns) : Stopping s t :=
  ⟨hfns, by rw [hrt], by rw [hparts], fun g hg => ⟨g, hgangs ▸ hg, rfl, id⟩, fun c hc => ⟨c, hcmds ▸ hc, rfl⟩⟩

theorem Stopping.refl (s : State) : Stopping s s := Stopping.of_eq rfl rfl rfl rfl rfl

theorem Stopping.trans (h : Stopping s t) (h' : Stopping t u) : Stopping s u := by
  refine ⟨h'.fns.trans h.fns, h'.pending.trans h.pending, h'.living.trans h.living, fun g hg => ?_, fun c hc => ?_⟩
  · obtain ⟨g', hg', hpart', hleft'⟩ := h'.gangs g hg
    obtain ⟨g'', hg'', hpart'', hleft''⟩ := h.gangs g' hg'
    exact ⟨g'', hg'', hpart''.trans hpart', fun hw => hleft' (hleft'' hw)⟩
  · obtain ⟨c', hc', hcmd'⟩ := h'.cmds c hc
    obtain ⟨c'', hc'', hcmd''⟩ := h.cmds c' hc'
    exact ⟨c'', hc'', hcmd''.trans hcmd'⟩

theorem Stopping.foldl {α : Type} (f : State → α → State) (hf : ∀ s a, Stopping s (f s a)) (l : List α) (s : State) :
    Stopping s (l.foldl f s) := by
  induction l generalizing s with
  | nil => exact Stopping.refl s
  | cons a l ih => exact (hf s a).trans (ih (f s a))

theorem Stopping.ite {c : Prop} [Decidable c] (ht : Stopping s t) (hu : Stopping s u) : Stopping s (if c then t else u) := by
  split
  · exact ht
  · exact hu

theorem Stopping.of_rest (h : t.rest = s.rest) : Stopping s t := by
  have hparts : t.parts.map Partition.still = s.parts.map Partition.still := congrArg Rest.parts h
  have hgangs : t.gangs.map GangDef.still = s.gangs.map GangDef.still := congrArg Rest.gangs h
  have hcmds : t.cmdRuns = s.cmdRuns := congrArg (fun r : Rest => r.calm.cmdRuns) h
  refine ⟨congrArg (fun r : Rest => r.calm.fns) h, congrArg Rest.rts h, ?_, fun g hg => ?_, fun c hc => ⟨c, hcmds ▸ hc, rfl⟩⟩
  · have hliving := congrArg (fun v : Vector Partition 17 => v.map Partition.exists_) hparts
    rw [Vector.map_map, Vector.map_map] at hliving
    exact hliving
  · have hmem : g.still ∈ s.gangs.map GangDef.still := hgangs ▸ List.mem_map_of_mem hg
    obtain ⟨g', hg', hsame⟩ := List.mem_map.mp hmem
    have hpart : g'.part = g.part := (congrArg GangDef.part hsame :)
    have hleft : g'.withdrawn = g.withdrawn := (congrArg GangDef.withdrawn hsame :)
    exact ⟨g', hg', hpart, fun hw => hleft ▸ hw⟩

theorem Stopping.exists_ (h : Stopping s t) (p : Nat) : (partAt t p).exists_ = (partAt s p).exists_ := by
  unfold partAt
  split
  next hp =>
    have hliving := congrArg (fun v : Vector Bool 17 => v[p]) h.living
    rw [Vector.getElem_map, Vector.getElem_map] at hliving
    exact hliving
  · rfl

theorem Stopping.partRt_pending (h : Stopping s t) (p : Nat) : (t.partRt p).pending = (s.partRt p).pending := by
  unfold State.partRt
  split
  next hp =>
    have hpending := congrArg (fun v : Vector (List Lperm × Bool × Option (List Nat)) 17 => v[p]) h.pending
    rw [Vector.getElem_map, Vector.getElem_map] at hpending
    exact hpending
  · rfl

theorem Stopping.lperm (h : Stopping s t) (p : Nat) : (t.partRt p).lperm = (s.partRt p).lperm := congrArg (·.1) (h.partRt_pending p)
theorem Stopping.isReset (h : Stopping s t) (p : Nat) : (t.partRt p).isReset = (s.partRt p).isReset :=
  congrArg (·.2.1) (h.partRt_pending p)
theorem Stopping.frames (h : Stopping s t) (p : Nat) : (t.partRt p).frames = (s.partRt p).frames :=
  congrArg (·.2.2) (h.partRt_pending p)

theorem OnlyStops.stopping (h : OnlyStops s t) : Stopping s t :=
  Stopping.of_eq (congrArg State.fns h :) (congrArg State.rt h :) (congrArg State.parts h :) (congrArg State.gangs h :)
    (congrArg State.cmdRuns h :)

theorem State.setRt_stopping (p : Nat) {f : PartRt → PartRt} (hf : ∀ r, (f r).pending = r.pending) : Stopping s (s.setRt p f) :=
  Stopping.of_rest (s.setRt_rest p hf)

theorem State.updPart_stopping (p : Nat) {f : Partition → Partition} (hf : ∀ x, (f x).exists_ = x.exists_) :
    Stopping s (s.updPart p f) := by
  unfold State.updPart
  split
  next hp =>
    exact ⟨rfl, rfl, map_set_of_eq s.parts Partition.exists_ hp (hf _), fun g hg => ⟨g, hg, rfl, id⟩, fun c hc => ⟨c, hc, rfl⟩⟩
  · exact Stopping.refl s

/-! ### The end of a launch -/

theorem State.perfUpdate_stopping (part : Nat) : Stopping s (s.perfUpdate part) := by
  unfold State.perfUpdate
  extract_lets p mine total total' seen saw counted upd
  have hcounted : Stopping s counted := Stopping.of_eq rfl rfl rfl rfl rfl
  refine Stopping.ite (Stopping.refl s) ((hcounted.trans (State.updPart_stopping part ?_)).trans (State.setRt_stopping part ?_))
  · exact fun _ => rfl
  · exact fun _ => rfl

theorem State.chargeHold_stopping : Stopping s s.chargeHold := by
  unfold State.chargeHold
  extract_lets h upTo n h'
  refine Stopping.ite (Stopping.of_eq rfl rfl rfl rfl rfl) ?_
  have hheld : Stopping s { s with sheet := h' } := Stopping.of_eq rfl rfl rfl rfl rfl
  exact hheld.trans (Stopping.of_rest (State.meter_rest _ _ _ _))

theorem State.settled_stopping (l : Launch) (id : Nat) : Stopping s (s.settled l id) := by
  have hdrop : Stopping s ((s.perfUpdate l.part).dropParked id) :=
    (State.perfUpdate_stopping l.part).trans (Stopping.of_rest (State.dropParked_rest id))
  exact Stopping.ite hdrop (hdrop.trans State.chargeHold_stopping)

theorem State.cmdDone_stopping (c : Cmd) (status r0 r1 : Nat) : Stopping s (s.cmdDone c status r0 r1) := by
  refine ⟨rfl, rfl, rfl, fun g hg => ⟨g, hg, rfl, id⟩, fun d hd => ?_⟩
  obtain ⟨d', hd', rfl⟩ := List.mem_map.mp hd
  refine ⟨d', hd', ?_⟩
  split
  · rfl
  · split <;> rfl

theorem State.mapGang_stopping (part : Nat) (g : BitVec 32) {f : GangDef → GangDef}
    (hf : ∀ d, (f d).part = d.part ∧ (d.withdrawn = true → (f d).withdrawn = true)) : Stopping s (s.mapGang part g f) := by
  refine ⟨rfl, rfl, rfl, fun d hd => ?_, fun c hc => ⟨c, hc, rfl⟩⟩
  obtain ⟨d', hd', rfl⟩ := List.mem_map.mp hd
  refine ⟨d', hd', ?_⟩
  split
  · exact ⟨(hf d').1.symm, (hf d').2⟩
  · exact ⟨rfl, id⟩

theorem State.reported_stopping (l : Launch) : Stopping s (s.reported l) := by
  unfold State.reported
  extract_lets gone
  have hgone : Stopping s gone := by
    refine Stopping.ite (Stopping.refl s) (State.mapGang_stopping _ _ fun d => ⟨rfl, fun hw => ?_⟩)
    simp [hw]
  clear_value gone
  split
  · exact hgone
  · split
    · exact hgone.trans (State.cmdDone_stopping _ _ _ _)
    · exact hgone.trans (State.cmdDone_stopping _ _ _ _)

theorem State.launchDone_stopping (id : Nat) : Stopping s (s.launchDone id) := by
  cases hl : s.launchById id with
  | none =>
    have hsame : s.launchDone id = s := by rw [State.launchDone, hl]
    rw [hsame]
    exact Stopping.refl s
  | some l =>
    by_cases hstate : l.state = .done
    · have hsame : s.launchDone id = s := by
        rw [State.launchDone, hl]
        exact if_pos hstate
      rw [hsame]
      exact Stopping.refl s
    · rw [State.launchDone_eq hl hstate]
      have hreleased (u : State) (act : Nat) : Stopping u (u.released id act) := Stopping.of_eq rfl rfl rfl rfl rfl
      exact ((State.settled_stopping l id).trans (hreleased _ _)).trans (State.reported_stopping l)

/-- What a launch is known by. -/
def Launch.mark (l : Launch) : Nat × Nat × Bool × LaunchState := (l.id, l.part, l.hker, l.state)

theorem State.settled_launches (l : Launch) (id : Nat) : (s.settled l id).launches.map Launch.still = s.launches.map Launch.still := by
  have hperf : (s.perfUpdate l.part).launches = s.launches := by
    unfold State.perfUpdate
    extract_lets p mine total total' seen saw counted upd
    split
    · rfl
    · exact (congrArg State.launches (upd.setRt_only l.part _) :).trans (congrArg State.launches (counted.updPart_only l.part _) :)
  have hdrop : ((s.perfUpdate l.part).dropParked id).launches.map Launch.still = s.launches.map Launch.still :=
    (congrArg Rest.launches ((s.perfUpdate l.part).dropParked_rest id)).trans (congrArg (List.map Launch.still) hperf)
  unfold State.settled
  dsimp only
  split
  · exact hdrop
  · have hcharge (u : State) : u.chargeHold.launches = u.launches := by
      unfold State.chargeHold
      extract_lets h upTo n h'
      split
      · rfl
      · exact (State.meter_device _ _ _ _).launches
    rw [hcharge]
    exact hdrop

/-- The cores and the launches of another launch stand as they did. -/
theorem State.launchDone_others (id : Nat) :
    (∀ d, (s.coreAt d).launch ≠ some id → ((s.launchDone id).coreAt d).standing = (s.coreAt d).standing) ∧
      ∀ x ∈ s.launches, x.id ≠ id → ∃ x' ∈ (s.launchDone id).launches, x'.mark = x.mark := by
  cases hl : s.launchById id with
  | none =>
    have hsame : s.launchDone id = s := by rw [State.launchDone, hl]
    rw [hsame]
    exact ⟨fun _ _ => rfl, fun x hx _ => ⟨x, hx, rfl⟩⟩
  | some l =>
    by_cases hstate : l.state = .done
    · have hsame : s.launchDone id = s := by
        rw [State.launchDone, hl]
        exact if_pos hstate
      rw [hsame]
      exact ⟨fun _ _ => rfl, fun x hx _ => ⟨x, hx, rfl⟩⟩
    · rw [State.launchDone_eq hl hstate]
      generalize (s.settled l id).activeOf (some id) = act
      have hrest (d : Fin 256) := State.settled_standing (s := s) l id d
      have hlaunches := State.settled_launches (s := s) l id
      generalize s.settled l id = u at hrest hlaunches
      have honly := State.reported_only (s := u.released id act) (l := l)
      refine ⟨fun d hd => ?_, fun x hx hid => ?_⟩
      · have hcore : ((u.released id act).reported l).coreAt d = (u.released id act).coreAt d :=
          (congrArg (fun t : State => t.coreAt d) honly :)
        have hsame : (u.released id act).coreAt d =
            if (u.coreAt d).launch = some id then { u.coreAt d with run := .idle, launch := none } else u.coreAt d :=
          Vector.getElem_map _ d.isLt
        have hlaunch : (u.coreAt d).launch = (s.coreAt d).launch := (congrArg Standing.launch (hrest d) :)
        rw [hcore, hsame, if_neg (by rw [hlaunch]; exact hd)]
        exact hrest d
      · have hmem : x.still ∈ u.launches.map Launch.still := hlaunches ▸ List.mem_map_of_mem hx
        obtain ⟨y, hy, hsame⟩ := List.mem_map.mp hmem
        have hmark : y.mark = x.mark := (congrArg Launch.mark hsame :)
        have hyid : y.id = x.id := congrArg (·.1) hmark
        refine ⟨y, ?_, hmark⟩
        rw [(congrArg State.launches honly :)]
        refine List.mem_map.mpr ⟨y, hy, ?_⟩
        exact if_neg (by rw [hyid]; exact hid)

/-! ### The stop of a partition's launches (R69, R70) -/

/-- A core that has stopped to be saved is over. -/
def State.killStopped (s : State) (id : Nat) (c : Fin 256) : State :=
  if (s.coreAt c).launch = some id && (s.coreAt c).run = .stopped then
    (s.mapCore c fun k => { k with run := .dead }).postCore .coreEnded c
  else s

/-- One launch stops: a running one is asked to, another is done. -/
def State.stopStep (s : State) (l : Launch) : State :=
  if l.state ≠ .running then s.launchDone l.id
  else (coresOf l.quads).foldl (fun s c => s.killStopped l.id c) (s.requestStop l.id .noSave)

/-- The launches of a partition that are to stop. -/
def stoppable (s : State) (part : Nat) : List Launch := s.launches.filter fun l => l.part = part && !l.hker && l.state ≠ .done

theorem State.stopLaunches_eq (part : Nat) : s.stopLaunches part = (stoppable s part).foldl State.stopStep s := rfl

theorem State.killStopped_only (id : Nat) (c : Fin 256) : OnlyStops s (s.killStopped id c) := by
  unfold State.killStopped
  split <;> rfl

theorem OnlyStops.refl (s : State) : OnlyStops s s := rfl

theorem OnlyStops.foldl {α : Type} (f : State → α → State) (hf : ∀ s a, OnlyStops s (f s a)) (l : List α) (s : State) :
    OnlyStops s (l.foldl f s) := by
  induction l generalizing s with
  | nil => exact OnlyStops.refl s
  | cons a l ih => exact OnlyStops.trans (hf s a) (ih (f s a))

theorem State.killStopped_running (id : Nat) (c : Fin 256) {d : Fin 256} (h : (s.coreAt d).run = .running) :
    (s.killStopped id c).coreAt d = s.coreAt d := by
  unfold State.killStopped
  split
  next hstopped =>
    rw [Bool.and_eq_true, decide_eq_true_eq, decide_eq_true_eq] at hstopped
    have hd : d ≠ c := fun hdc => by
      rw [hdc, hstopped.2] at h
      cases h
    change (s.mapCore c fun k => { k with run := .dead }).coreAt d = s.coreAt d
    exact State.coreAt_mapCore_ne s _ hd
  · rfl

theorem State.foldl_killStopped_running (id : Nat) (l : List (Fin 256)) {d : Fin 256} (h : (s.coreAt d).run = .running) :
    (l.foldl (fun s c => s.killStopped id c) s).coreAt d = s.coreAt d := by
  induction l generalizing s with
  | nil => rfl
  | cons c l ih =>
    have hstep := s.killStopped_running id c h
    exact (ih (s := s.killStopped id c) (by rw [hstep]; exact h)).trans hstep

/-- The request that a running launch gets. -/
def State.stopRunning (s : State) (l : Launch) : State :=
  (coresOf l.quads).foldl (fun s c => s.killStopped l.id c) (s.requestStop l.id .noSave)

theorem State.stopRunning_only (l : Launch) : OnlyStops s (s.stopRunning l) :=
  OnlyStops.trans (s.requestStop_asks l.id .noSave 0).2 (OnlyStops.foldl _ (fun s c => s.killStopped_only l.id c) _ _)

theorem State.stopRunning_core (l : Launch) {d : Fin 256} (h : (s.coreAt d).run = .running) :
    (s.stopRunning l).coreAt d = (s.coreAt d).asked l.id .noSave := by
  have hasked := (s.requestStop_asks l.id .noSave d).1
  refine (State.foldl_killStopped_running l.id _ ?_).trans hasked
  rw [hasked, Core.asked_run]
  exact h

theorem State.stopStep_stopping (l : Launch) : Stopping s (s.stopStep l) :=
  Stopping.ite (State.launchDone_stopping l.id) (State.stopRunning_only l).stopping

theorem State.stopLaunches_stopping (part : Nat) : Stopping s (s.stopLaunches part) :=
  Stopping.foldl _ (fun _ l => State.stopStep_stopping l) _ s

/-- A running core of another launch keeps its standing, one of a launch that runs is asked to stop. -/
theorem State.stopStep_core (m : Launch) {d : Fin 256} {id : Nat} (hrun : (s.coreAt d).run = .running)
    (hlaunch : (s.coreAt d).launch = some id) (hm : m.id = id → m.state = .running) :
    ((s.stopStep m).coreAt d).launch = some id ∧ ((s.stopStep m).coreAt d).run = .running ∧
      ((s.stopStep m).coreAt d).stop = if m.id = id then some .noSave else (s.coreAt d).stop := by
  unfold State.stopStep
  split
  next hnot =>
    have hid : m.id ≠ id := fun h => hnot (hm h)
    have hne : (s.coreAt d).launch ≠ some m.id := fun h => hid (Option.some.inj (h.symm.trans hlaunch))
    have hsame := (State.launchDone_others m.id).1 d hne
    rw [if_neg hid]
    exact ⟨(congrArg Standing.launch hsame :).trans hlaunch, (congrArg Standing.run hsame :).trans hrun, (congrArg Standing.stop hsame :)⟩
  · rw [show (coresOf m.quads).foldl (fun s c => s.killStopped m.id c) (s.requestStop m.id .noSave) = s.stopRunning m from rfl,
      State.stopRunning_core m hrun, Core.asked_launch, Core.asked_run]
    refine ⟨hlaunch, hrun, ?_⟩
    unfold Core.asked
    by_cases hid : m.id = id
    · rw [if_pos hid, if_pos ⟨hid ▸ hlaunch, hrun⟩]
    · rw [if_neg hid, if_neg fun h => hid (Option.some.inj (h.1.symm.trans hlaunch))]

theorem State.stopStep_launch (m : Launch) {x : Launch} (hx : x ∈ s.launches) (hm : m.id = x.id → m.state = .running) :
    ∃ x' ∈ (s.stopStep m).launches, x'.mark = x.mark := by
  unfold State.stopStep
  split
  next hnot => exact (State.launchDone_others m.id).2 x hx fun h => hnot (hm h.symm)
  · have honly : OnlyStops s (s.stopRunning m) := State.stopRunning_only m
    have hsame : (s.stopRunning m).launches = s.launches := (congrArg State.launches honly :)
    exact ⟨x, hsame ▸ hx, rfl⟩

/-- A launch's running core through the stop of a list of launches, of which those with the launch's number run. -/
theorem State.foldl_stopStep_core (ms : List Launch) {d : Fin 256} {id : Nat} (hms : ∀ m ∈ ms, m.id = id → m.state = .running)
    (hrun : (s.coreAt d).run = .running) (hlaunch : (s.coreAt d).launch = some id)
    (hasked : (s.coreAt d).stop = some .noSave ∨ ∃ m ∈ ms, m.id = id) :
    ((ms.foldl State.stopStep s).coreAt d).stop = some .noSave := by
  induction ms generalizing s with
  | nil => exact hasked.resolve_right (by simp)
  | cons m ms ih =>
    obtain ⟨hlaunch', hrun', hstop'⟩ := s.stopStep_core m hrun hlaunch (hms m List.mem_cons_self)
    refine ih (s := s.stopStep m) (fun x hx => hms x (List.mem_cons_of_mem m hx)) hrun' hlaunch' ?_
    rw [hstop']
    by_cases hid : m.id = id
    · exact Or.inl (if_pos hid)
    · rw [if_neg hid]
      refine hasked.imp_right fun ⟨x, hx, hxid⟩ => ⟨x, (List.mem_cons.mp hx).resolve_left fun h => hid (h ▸ hxid), hxid⟩

theorem State.foldl_stopStep_launch (ms : List Launch) {x : Launch} (hms : ∀ m ∈ ms, m.id = x.id → m.state = .running)
    (hx : x ∈ s.launches) : ∃ x' ∈ (ms.foldl State.stopStep s).launches, x'.mark = x.mark := by
  induction ms generalizing s x with
  | nil => exact ⟨x, hx, rfl⟩
  | cons m ms ih =>
    obtain ⟨y, hy, hmark⟩ := s.stopStep_launch m hx (hms m List.mem_cons_self)
    have hid : y.id = x.id := congrArg (·.1) hmark
    obtain ⟨z, hz, hmark'⟩ := ih (s := s.stopStep m) (x := y) (fun k hk hkid => hms k (List.mem_cons_of_mem m hk) (hkid.trans hid)) hy
    exact ⟨z, hz, hmark'.trans hmark⟩

section
variable {part : Nat} {l : Launch} (hl : l ∈ s.launches) (hpart : l.part = part) (hker : l.hker = false) (hstate : l.state = .running)
  (huniq : ∀ m ∈ s.launches, m.id = l.id → m = l)
include hl hpart hker hstate huniq

theorem stoppable_running : (∀ m ∈ stoppable s part, m.id = l.id → m.state = .running) ∧ l ∈ stoppable s part := by
  refine ⟨fun m hm hid => ?_, List.mem_filter.mpr ⟨hl, ?_⟩⟩
  · rw [huniq m (List.mem_filter.mp hm).1 hid]
    exact hstate
  · rw [hpart, hker, hstate]
    simp

/-- The running cores of a running launch are asked to stop without a save. -/
theorem State.stopLaunches_asks {d : Fin 256} (hlaunch : (s.coreAt d).launch = some l.id) (hrun : (s.coreAt d).run = .running) :
    ((s.stopLaunches part).coreAt d).stop = some .noSave := by
  obtain ⟨hms, hmem⟩ := stoppable_running hl hpart hker hstate huniq
  exact State.foldl_stopStep_core _ hms hrun hlaunch (Or.inr ⟨l, hmem, rfl⟩)

/-- The launch still runs. -/
theorem State.stopLaunches_runs : ∃ x ∈ (s.stopLaunches part).launches, x.mark = l.mark :=
  State.foldl_stopStep_launch _ (stoppable_running hl hpart hker hstate huniq).1 hl

end

theorem State.stopLaunches_none {part : Nat} (h : ∀ l ∈ s.launches, l.part ≠ part) : s.stopLaunches part = s := by
  have hnone : stoppable s part = [] := List.filter_eq_nil_iff.mpr fun l hl => by simp [h l hl]
  rw [State.stopLaunches_eq, hnone]
  rfl

end
end Sys2Proof.Machine
end

section
/-! Partitions: how one is made and destroyed, and what a function-level reset leaves (R68-R70, R93, R94). -/

namespace Sys2Proof.Machine

/-! ### The clearing of cores -/

section
variable {s : State} {P : Core → Prop} {f : Core → Core} (hf : ∀ k, P k → P (f k))
include hf

theorem mapCore_keeps (c : Fin 256) {d : Fin 256} (h : P (s.coreAt d)) : P ((s.mapCore c f).coreAt d) := by
  by_cases hd : d = c
  · rw [hd] at h ⊢
    rw [State.coreAt_mapCore]
    exact hf _ h
  · rw [State.coreAt_mapCore_ne s f hd]
    exact h

theorem foldl_mapCore_keeps (l : List (Fin 256)) {d : Fin 256} (h : P (s.coreAt d)) :
    P ((l.foldl (fun s c => s.mapCore c f) s).coreAt d) := by
  induction l generalizing s with
  | nil => exact h
  | cons c l ih => exact ih (mapCore_keeps hf c h)

/-- What an update gives a core of the list, its repetitions keep. -/
theorem foldl_mapCore_gives {l : List (Fin 256)} {d : Fin 256} (hd : d ∈ l) (h : P (f (s.coreAt d))) :
    P ((l.foldl (fun s c => s.mapCore c f) s).coreAt d) := by
  induction l generalizing s with
  | nil => cases hd
  | cons c l ih =>
    by_cases hdc : d = c
    · refine foldl_mapCore_keeps (s := s.mapCore c f) hf l ?_
      rw [hdc, State.coreAt_mapCore, ← hdc]
      exact h
    · refine ih (s := s.mapCore c f) ((List.mem_cons.mp hd).resolve_left hdc) ?_
      rw [State.coreAt_mapCore_ne s f hdc]
      exact h

end

theorem mem_coresOf {m : BitVec 64} {q : Fin 64} (hq : m.getLsbD q.val = true) {d : Fin 256} (hd : d ∈ coresOfQuad q) :
    d ∈ coresOf (ownedQuads m) := by
  refine List.mem_flatMap.mpr ⟨q.val, List.mem_filter.mpr ⟨List.mem_range.mpr q.isLt, hq⟩, ?_⟩
  rw [dif_pos q.isLt]
  exact hd

/-- No translation of the partition stands in a core's TLB. -/
def Core.forgot (part : Nat) (k : Core) : Prop := ∀ e ∈ k.l1tlb, e.part ≠ part

/-- A core without a launch, whose registers and spill memory are those of reset. -/
def Core.Cleared (k : Core) : Prop :=
  k.launch = none ∧ k.bankU = Core.reset.bankU ∧ k.v = Core.reset.v ∧ k.spill = Core.reset.spill

/-- A core whose TLB and walkers are empty. -/
def Core.untranslated (k : Core) : Core := { k with l1tlb := [], walks := [] }

/-- A core as a scrub leaves it. -/
def Core.scrub (part : Nat) (k : Core) : Core := if k.foreign part then k else k.bare

theorem Core.scrub_forgot {part : Nat} (k : Core) (h : k.forgot part) : (k.scrub part).forgot part := by
  unfold Core.scrub
  split
  · exact h
  · exact h

theorem Core.scrub_cleared {part : Nat} {k : Core} (h : k.foreign part = false) : (k.scrub part).Cleared := by
  rw [Core.scrub, h]
  exact ⟨rfl, rfl, rfl, rfl⟩

theorem Core.foreign_of_cleared {part : Nat} {k : Core} (h : k.Cleared) : k.foreign part = false := by
  rw [Core.foreign, h.1]
  rfl

section
variable {s : State} {part : Nat}

/-- A core of which a partition's translations have left the TLB and the walkers. -/
def Core.without (part : Nat) (k : Core) : Core :=
  { k with l1tlb := k.l1tlb.filter (fun t => !decide (t.part = part)), walks := k.walks.filter (fun w => !decide (w.entry.part = part)) }

theorem State.dropTlbOf_coreAt (d : Fin 256) : (s.dropTlbOf part).coreAt d = (s.coreAt d).without part :=
  Vector.getElem_map (xs := s.cores) (Core.without part) d.isLt

theorem State.dropTlbOf_forgets (d : Fin 256) : ((s.dropTlbOf part).coreAt d).forgot part := by
  intro e he
  rw [State.dropTlbOf_coreAt] at he
  simpa using (List.mem_filter.mp he).2

theorem State.dropTlbOf_foreign (d : Fin 256) : ((s.dropTlbOf part).coreAt d).foreign part = (s.coreAt d).foreign part := by
  rw [State.dropTlbOf_coreAt]
  rfl

theorem State.emptyTlbs_coreAt (d : Fin 256) : (s.emptyTlbs part).coreAt d =
    ((coresOf (ownedQuads (partAt s part).quads)).foldl (fun s c => s.mapCore c Core.untranslated) s).coreAt d := by
  unfold State.emptyTlbs
  dsimp only [State.coreAt]
  rfl

theorem State.emptyTlbs_forgets {d : Fin 256} (h : (s.coreAt d).forgot part) : ((s.emptyTlbs part).coreAt d).forgot part := by
  rw [State.emptyTlbs_coreAt]
  refine foldl_mapCore_keeps (P := Core.forgot part) (fun k _ e he => ?_) _ h
  cases he

theorem State.emptyTlbs_foreign {d : Fin 256} (h : (s.coreAt d).foreign part = false) :
    ((s.emptyTlbs part).coreAt d).foreign part = false := by
  rw [State.emptyTlbs_coreAt]
  exact foldl_mapCore_keeps (P := fun k => k.foreign part = false) (f := Core.untranslated) (fun _ hk => hk) _ h

theorem State.scrubQuads_coreAt (d : Fin 256) : (s.scrubQuads part).coreAt d =
    ((coresOf (ownedQuads (partAt s part).quads)).foldl (fun s c => s.mapCore c (Core.scrub part)) s).coreAt d := by
  unfold State.scrubQuads
  dsimp only [State.coreAt]
  rfl

theorem State.scrubQuads_forgets {d : Fin 256} (h : (s.coreAt d).forgot part) : ((s.scrubQuads part).coreAt d).forgot part := by
  rw [State.scrubQuads_coreAt]
  exact foldl_mapCore_keeps (P := Core.forgot part) Core.scrub_forgot _ h

theorem State.scrubQuads_clears {q : Fin 64} (hq : (partAt s part).quads.getLsbD q.val = true) {d : Fin 256} (hd : d ∈ coresOfQuad q)
    (h : (s.coreAt d).foreign part = false) : ((s.scrubQuads part).coreAt d).Cleared := by
  rw [State.scrubQuads_coreAt]
  exact foldl_mapCore_gives (P := Core.Cleared) (fun k hk => Core.scrub_cleared (Core.foreign_of_cleared hk)) (mem_coresOf hq hd)
    (Core.scrub_cleared h)

/-! ### What clearing leaves alone -/

/-- Commands and rings, what partitions wait for, and the partitions but for their meters. -/
def State.manor (s : State) : List CmdRun × Vector FnRegs 17 × Vector (List Lperm × Bool × Option (List Nat)) 17 × Vector Partition 17 :=
  (s.cmdRuns, s.fns, s.rt.map PartRt.pending, s.parts.map Partition.still)

theorem State.manor_of_rest {t : State} (h : t.rest = s.rest) : t.manor = s.manor := by
  have hcmds : t.cmdRuns = s.cmdRuns := congrArg (fun r : Rest => r.calm.cmdRuns) h
  have hfns : t.fns = s.fns := congrArg (fun r : Rest => r.calm.fns) h
  have hrts : t.rt.map PartRt.pending = s.rt.map PartRt.pending := congrArg Rest.rts h
  have hparts : t.parts.map Partition.still = s.parts.map Partition.still := congrArg Rest.parts h
  rw [State.manor, State.manor, hcmds, hfns, hrts, hparts]

theorem OnlyDevice.manor {t : State} (h : OnlyDevice s t) : t.manor = s.manor := by
  have hparts : t.parts.map Partition.still = s.parts.map Partition.still := by
    refine Vector.ext fun i hi => ?_
    rw [Vector.getElem_map, Vector.getElem_map]
    exact h.part_keeps Partition.still (fun _ _ => rfl) ⟨i, hi⟩
  rw [State.manor, State.manor, h.cmdRuns, h.fns, h.rt, hparts]

theorem OnlyLogs.manor {t : State} (h : OnlyLogs s t) : t.manor = s.manor := (congrArg State.manor h :)

theorem State.setRt_manor (p : Nat) {f : PartRt → PartRt} (hf : ∀ r, (f r).pending = r.pending) : (s.setRt p f).manor = s.manor :=
  State.manor_of_rest (s.setRt_rest p hf)

theorem State.mapCore_manor (c : Fin 256) (f : Core → Core) : (s.mapCore c f).manor = s.manor := rfl

theorem State.dropTlbOf_manor : (s.dropTlbOf part).manor = s.manor := rfl

theorem State.emptyTlbs_manor : (s.emptyTlbs part).manor = s.manor := by
  unfold State.emptyTlbs
  dsimp only [State.manor]
  exact foldl_keeps State.manor (fun u c => u.mapCore_manor c Core.untranslated) _ s

theorem State.scrubQuads_manor : (s.scrubQuads part).manor = s.manor := by
  unfold State.scrubQuads
  dsimp only [State.manor]
  exact foldl_keeps State.manor (fun u c => u.mapCore_manor c (Core.scrub part)) _ s

theorem State.chargeHold_manor : s.chargeHold.manor = s.manor := by
  unfold State.chargeHold
  extract_lets h upTo n h'
  split
  · rfl
  · exact (State.meter_device _ _ _ _).manor

/-- A slate leaves the cores alone, and what its partition waits for. -/
theorem State.emitSlate_manor (kind : Nat) : (s.emitSlate part kind).manor = s.manor ∧ (s.emitSlate part kind).cores = s.cores := by
  unfold State.emitSlate
  split
  · extract_lets u sl seq prev bs sl' w base
    have hw : w.manor = s.manor ∧ w.cores = s.cores := by
      refine ⟨(State.setRt_manor part ?_).trans State.chargeHold_manor,
        (congrArg State.cores (u.setRt_only part _) :).trans State.chargeHold_cores⟩
      exact fun _ => rfl
    clear_value w
    split
    · exact hw
    · split
      next t ht => exact ⟨(hostPut_device ht).manor.trans hw.1, (hostPut_device ht).cores.trans hw.2⟩
      next e _ =>
        have hlogs := (w.ringFault_logs (fn := 0) base.toNat e).trans (State.raiseErr_logs _ 0 2)
        exact ⟨hlogs.manor.trans hw.1, hlogs.cores.trans hw.2⟩
  · exact ⟨rfl, rfl⟩

theorem State.clearSequencers_manor : (s.clearSequencers part).manor = s.manor := State.manor_of_rest (s.clearSequencers_rest part)

theorem State.clearSequencers_cores : (s.clearSequencers part).cores = s.cores := by
  unfold State.clearSequencers State.setRt
  dsimp only
  split <;> rfl

theorem State.clearSlices_manor (slices : BitVec 128) (ways : BitVec 16) :
    (s.clearSlices part slices ways).manor = s.manor ∧ (s.clearSlices part slices ways).cores = s.cores :=
  ⟨State.manor_of_rest (s.flushLines_rest _ _), congrArg Prod.snd (State.flushLines_places (q := fnReq (Fin.ofNat 17 part)) rfl _)⟩

theorem State.cmdRuns_of_manor {t : State} (h : t.manor = s.manor) : t.cmdRuns = s.cmdRuns := congrArg (·.1) h
theorem State.fns_of_manor {t : State} (h : t.manor = s.manor) : t.fns = s.fns := congrArg (·.2.1) h

theorem State.pending_of_manor {t : State} (h : t.manor = s.manor) (p : Nat) : (t.partRt p).pending = (s.partRt p).pending := by
  have hrts : t.rt.map PartRt.pending = s.rt.map PartRt.pending := congrArg (·.2.2.1) h
  unfold State.partRt
  split
  next hp =>
    have hat := congrArg (fun v : Vector (List Lperm × Bool × Option (List Nat)) 17 => v[p]) hrts
    rw [Vector.getElem_map, Vector.getElem_map] at hat
    exact hat
  · rfl

theorem State.still_of_manor {t : State} (h : t.manor = s.manor) (p : Nat) : (partAt t p).still = (partAt s p).still := by
  have hparts : t.parts.map Partition.still = s.parts.map Partition.still := congrArg (·.2.2.2) h
  unfold partAt
  split
  next hp =>
    have hat := congrArg (fun v : Vector Partition 17 => v[p]) hparts
    rw [Vector.getElem_map, Vector.getElem_map] at hat
    exact hat
  · rfl

/-! ### The making of a partition (R68) -/

/-- A partition's clearing once its units are its own. -/
def State.cleared (s : State) (part : Nat) : State := ((s.dropTlbOf part).emptyTlbs part).scrubQuads part

theorem State.cleared_manor : (s.cleared part).manor = s.manor := State.scrubQuads_manor.trans State.emptyTlbs_manor

theorem State.cleared_forgets (d : Fin 256) : ((s.cleared part).coreAt d).forgot part :=
  State.scrubQuads_forgets (State.emptyTlbs_forgets (State.dropTlbOf_forgets d))

theorem State.cleared_clears {q : Fin 64} (hq : (partAt s part).quads.getLsbD q.val = true) {d : Fin 256} (hd : d ∈ coresOfQuad q)
    (h : (s.coreAt d).foreign part = false) : ((s.cleared part).coreAt d).Cleared := by
  have hquads : (partAt ((s.dropTlbOf part).emptyTlbs part) part).quads = (partAt s part).quads :=
    (congrArg Partition.quads (State.still_of_manor (t := (s.dropTlbOf part).emptyTlbs part) State.emptyTlbs_manor part) :)
  exact State.scrubQuads_clears (hquads ▸ hq) hd (State.emptyTlbs_foreign ((State.dropTlbOf_foreign d).trans h))

/-- The partition as it is declared, before its units are cleared. -/
def State.founded (s : State) (part : Nat) (p : Partition) : State :=
  let s := s.updPart part fun _ => p
  let s := s.setRt part fun _ =>
    { PartRt.none with pmDue := s.cycle + 160000, resident := if p.kind = 0 then some 0 else none }
  { s with qos := (s.qos.filter fun q => q.part ≠ part) ++ startQos p part s.cycle }

theorem State.founded_cores (p : Partition) : (s.founded part p).cores = s.cores := by
  unfold State.founded
  dsimp only
  exact (congrArg State.cores (State.setRt_only (s := s.updPart part fun _ => p) (p := part) _) :).trans
    (congrArg State.cores (s.updPart_only part _) :)

theorem State.founded_cmdRuns (p : Partition) : (s.founded part p).cmdRuns = s.cmdRuns := by
  unfold State.founded
  dsimp only
  exact (congrArg State.cmdRuns (State.setRt_only (s := s.updPart part fun _ => p) (p := part) _) :).trans
    (congrArg State.cmdRuns (s.updPart_only part _) :)

theorem State.founded_part (hp : part < 17) (p : Partition) : partAt (s.founded part p) part = p := by
  unfold State.founded
  exact (partAt_setRt _ _ _ _).trans (partAt_updPart hp _)

theorem State.makePartition_eq (p : Partition) : s.makePartition part p =
    ((if p.kind = 0 then ((s.founded part p).cleared part).clearSequencers part else (s.founded part p).cleared part).clearSlices
      part p.slices p.waymask).emitSlate part 2 := rfl

theorem State.makePartition_keeps (p : Partition) : (s.makePartition part p).manor = (s.founded part p).manor ∧
    (s.makePartition part p).cores = ((s.founded part p).cleared part).cores := by
  rw [State.makePartition_eq]
  generalize s.founded part p = u
  have hseq : (if p.kind = 0 then (u.cleared part).clearSequencers part else u.cleared part).manor = u.manor ∧
      (if p.kind = 0 then (u.cleared part).clearSequencers part else u.cleared part).cores = (u.cleared part).cores := by
    split
    · exact ⟨State.clearSequencers_manor.trans State.cleared_manor, State.clearSequencers_cores⟩
    · exact ⟨State.cleared_manor, rfl⟩
  obtain ⟨hslices, hslicesCores⟩ := State.clearSlices_manor (s := if p.kind = 0 then (u.cleared part).clearSequencers part else u.cleared part)
    (part := part) p.slices p.waymask
  obtain ⟨hslate, hslateCores⟩ := State.emitSlate_manor (s := (if p.kind = 0 then (u.cleared part).clearSequencers part else
    u.cleared part).clearSlices part p.slices p.waymask) (part := part) 2
  exact ⟨hslate.trans (hslices.trans hseq.1), hslateCores.trans (hslicesCores.trans hseq.2)⟩

theorem Partition.metered {p p' : Partition} (h : p'.still = p.still) : ({ p' with meters := p.meters } : Partition) = p :=
  (congrArg (fun x : Partition => { x with meters := p.meters }) h :)

theorem State.makePartition_makes (hp : part < 17) (p : Partition) :
    ({ partAt (s.makePartition part p) part with meters := p.meters } : Partition) = p ∧
      (s.makePartition part p).cmdRuns = s.cmdRuns ∧ (∀ d, ((s.makePartition part p).coreAt d).forgot part) ∧
      ∀ q : Fin 64, p.quads.getLsbD q.val = true → ∀ d ∈ coresOfQuad q, (s.coreAt d).foreign part = false →
        ((s.makePartition part p).coreAt d).Cleared := by
  obtain ⟨hmanor, hcores⟩ := State.makePartition_keeps (s := s) (part := part) p
  have hcore (d : Fin 256) : (s.makePartition part p).coreAt d = ((s.founded part p).cleared part).coreAt d :=
    congrArg (fun v : Vector Core 256 => v[d]) hcores
  have hpart : partAt (s.founded part p) part = p := State.founded_part hp p
  refine ⟨Partition.metered ?_, (State.cmdRuns_of_manor hmanor).trans (State.founded_cmdRuns p), fun d => ?_, fun q hq d hd h => ?_⟩
  · rw [State.still_of_manor hmanor part, hpart]
  · rw [hcore]
    exact State.cleared_forgets d
  · have hsame : (s.founded part p).coreAt d = s.coreAt d := congrArg (fun v : Vector Core 256 => v[d]) (State.founded_cores p)
    rw [hcore]
    exact State.cleared_clears (hpart.symm ▸ hq) hd (hsame.symm ▸ h)

end

section
variable {s u : State} {c : Cmd} {part : Nat} {b : List Byte}

theorem fn_of_pf (h : Who.pf.allows s.inp.cmd.fn = true) : s.inp.cmd.fn = 0 := of_decide_eq_true h

/-- The commands that are PF 0's alone. -/
theorem partition_command_refused {i : Instr}
    (hi : i ∈ [Instr.pcreate, .pdestroy, .hdmmap, .hKernelLaunch, .psetS2inv, .psetS2root, .psetQos, .psetWaymask,
        .psetWindow, .psetDrange, .psetPmbase, .sheetGangdef, .sheetCell, .sheetLength, .sheetAgeq, .sheetStart, .sheetStop,
        .sheetResolve, .sheetGangdel])
    (hfn : s.inp.cmd.fn ≠ 0) : EndsIn i s s csNotPermitted 0 0 := by
  have hwho : Who.pf.allows s.inp.cmd.fn = false := decide_eq_false hfn
  fin_cases hi <;> exact congrArg Host.Outcome.next (State.command_refused hwho)

/-! ### PCREATE -/

theorem pcreate_stray (hfn : s.inp.cmd.fn = 0) (h : s.inp.cmd.zeroBut [(8, 1), (16, 8)] = false) : EndsIn .pcreate s s csBadField 0 0 :=
  congrArg Host.Outcome.next (State.command_stray (decide_eq_true hfn) h)

/-- What PCREATE does with a descriptor. -/
def State.created (s : State) (c : Cmd) (part : Nat) (p : Partition) (b : List Byte) : State :=
  if !descFormOk b then s.cmdDone c csBadField 0 0
  else if (partAt s part).exists_ || createRefused s p then s.cmdDone c csNoResources 0 0
  else (s.makePartition part p).cmdDone c csOk 0 0

theorem pcreate_noPart (h : CmdFor s .pf [(8, 1), (16, 8)]) (hpart : part = s.inp.cmd.field 8 1) (hno : part = 0 ∨ 16 < part) :
    EndsIn .pcreate s s csBadField 0 0 := by
  refine congrArg Host.Outcome.next ((State.command_for h).trans ?_)
  dsimp only
  rw [← hpart]
  exact if_pos (by simpa using hno)

theorem pcreate_reads (h : CmdFor s .pf [(8, 1), (16, 8)]) (hpart : part = s.inp.cmd.field 8 1) (h0 : 0 < part) (h16 : part ≤ 16)
    (hfree : fnWaits s (fnReq 0) 0 false (s.inp.cmd.field 16 8) 512 = none)
    (hget : hostGet s 0 (s.inp.cmd.field 16 8) 512 = .ok (b, u)) :
    Runs .pcreate s (u.created s.inp.cmd part (partOfDesc b) b) := by
  have hfn := fn_of_pf h.1
  have hwait : fnWaits s (fnReq s.inp.cmd.fn) s.inp.cmd.fn false (s.inp.cmd.field 16 8) 512 = none := by
    rw [hfn]
    exact hfree
  refine congrArg Host.Outcome.next ((State.command_for h).trans ?_)
  dsimp only
  rw [← hpart, if_neg (by simp; omega), State.whenFree_free hwait, hget]
  rfl

theorem pcreate_makes (hp : part < 17) (hform : descFormOk b = true) (hnew : (partAt u part).exists_ = false)
    (hok : createRefused u (partOfDesc b) = false) :
    u.created c part (partOfDesc b) b = (u.makePartition part (partOfDesc b)).cmdDone c csOk 0 0 := by
  unfold State.created
  rw [hform, hnew, hok]
  rfl

/-! ### HDMMAP (R49) -/

theorem hdmmap_sets (h : CmdFor s .pf [(8, 2), (16, 24)]) (hvf : s.inp.cmd.field 9 1 < 17) {e : Hdm}
    (he : e = ⟨s.inp.cmd.field 8 1, s.inp.cmd.field 9 1, s.inp.cmd.field 16 8, s.inp.cmd.field 24 8, s.inp.cmd.field 32 8⟩)
    (hdec : e.decoder ≤ 15) (hpart : e.part ≠ 0) (hlives : (s.parts[s.inp.cmd.field 9 1]).exists_ = true)
    (hbase : e.base % 2 ^ 28 = 0) (hlen : e.len % 2 ^ 28 = 0)
    (hin : ∃ r ∈ (s.parts[s.inp.cmd.field 9 1]).dranges, r.base ≤ e.base ∧ e.base + e.len ≤ r.base + r.len)
    (hapart : ∀ d ∈ s.hdm.filter (·.decoder ≠ e.decoder), (d.part = e.part → overlaps d.base d.len e.base e.len = false) ∧
      overlaps d.hpa d.len e.hpa e.len = false)
    (hspecial : exposesSpecial s e.part e.base e.len = false) :
    Runs .hdmmap s (({ s with hdm := s.hdm.filter (fun d : Hdm => d.decoder ≠ e.decoder) ++ [e] }).cmdDone s.inp.cmd csOk 0 0) := by
  have hranges : ((s.parts[s.inp.cmd.field 9 1]).dranges.any fun r => decide (r.base ≤ e.base) &&
      decide (e.base + e.len ≤ r.base + r.len)) = true := by
    simpa using hin
  have hoverlaps : ((s.hdm.filter fun d => d.decoder ≠ e.decoder).any fun d => (d.part = e.part && overlaps d.base d.len e.base e.len) ||
      overlaps d.hpa d.len e.hpa e.len) = false := by
    refine List.any_eq_false.mpr fun d hd => ?_
    obtain ⟨hipa, hhpa⟩ := hapart d hd
    rw [hhpa]
    by_cases hsame : d.part = e.part
    · simp [hipa hsame]
    · simp [hsame]
  refine congrArg Host.Outcome.next ((State.command_for h).trans ?_)
  dsimp only
  rw [dif_pos hvf]
  subst he
  dsimp only at hdec hpart hbase hlen hranges hoverlaps hspecial
  rw [if_neg]
  rw [hlives, hranges, hoverlaps, hspecial, hbase, hlen]
  simp [hpart, hdec]

end

/-! ### The start of a destruction (R69) -/

section
variable {s : State} {part : Nat}

theorem State.endRuns_stopping (p : NbRun → Bool) (reason : Nat) : Stopping s (s.endRuns p reason) := by
  unfold State.endRuns
  refine Stopping.foldl _ (fun u ch => ?_) _ s
  dsimp only
  refine Stopping.ite ?_ (Stopping.refl u)
  have hkept (l : List NbRun) : Stopping u { u with nb := u.nb.set ch l } := Stopping.of_eq rfl rfl rfl rfl rfl
  exact (hkept _).trans (Stopping.foldl _ (fun v r => Stopping.of_rest (v.completeRun_rest r reason)) _ _)

theorem State.endRuns_standing (p : NbRun → Bool) (reason : Nat) (d : Fin 256) :
    ((s.endRuns p reason).coreAt d).standing = (s.coreAt d).standing := by
  unfold State.endRuns
  refine foldl_keeps (fun u : State => (u.coreAt d).standing) (fun u ch => ?_) _ s
  dsimp only
  split
  · exact foldl_keeps (fun u : State => (u.coreAt d).standing) (fun v r => standing_of_rest (v.completeRun_rest r reason) d) _ _
  · rfl

theorem State.abortCmds_away {fn n : Fn} (h : n ≠ fn) : (s.abortCmds fn).fns[n] = s.fns[n] := by
  unfold State.abortCmds
  dsimp only
  exact State.updFn_away _ h

/-- A destruction is noted with the frames to be zeroed, and the function's commands are aborted. -/
def State.condemned (s : State) (part : Nat) : State :=
  (s.setRt part fun r => { r with frames := some (mappedFrames s part) }).abortCmds ⟨part % 17, by omega⟩

theorem State.destroyStart_eq :
    s.destroyStart part = (((s.condemned part).stopLaunches part).abortEntries part).endRuns (fun r => r.part = part) 7 := rfl

theorem State.condemned_cores : (s.condemned part).cores = s.cores := by
  unfold State.condemned State.setRt
  split <;> rfl

theorem State.condemned_launches : (s.condemned part).launches = s.launches := by
  unfold State.condemned State.setRt
  split <;> rfl

theorem State.condemned_rt (q : Nat) : (s.condemned part).partRt q = (s.setRt part fun r =>
    { r with frames := some (mappedFrames s part) }).partRt q := rfl

theorem State.condemned_part (q : Nat) : partAt (s.condemned part) q = partAt s q := partAt_setRt s part _ q

theorem State.condemned_fns {n : Fn} (h : n.val ≠ part % 17) : (s.condemned part).fns[n] = s.fns[n] := by
  have hfns : (s.setRt part fun r => { r with frames := some (mappedFrames s part) }).fns = s.fns :=
    (congrArg State.fns (State.setRt_only (s := s) (p := part) _) :)
  exact (State.abortCmds_away fun hn => h (congrArg Fin.val hn)).trans (congrArg (fun v : Vector FnRegs 17 => v[n]) hfns)

theorem State.destroyStart_stopping : Stopping (s.condemned part) (s.destroyStart part) :=
  ((State.stopLaunches_stopping part).trans (Stopping.of_rest (State.abortEntries_rest _ part))).trans (State.endRuns_stopping _ 7)

theorem State.destroyStart_standing (d : Fin 256) :
    ((s.destroyStart part).coreAt d).standing = (((s.condemned part).stopLaunches part).coreAt d).standing :=
  (State.endRuns_standing _ 7 d).trans (standing_of_rest (State.abortEntries_rest _ part) d)

theorem State.destroyStart_frames (hp : part < 17) : ((s.destroyStart part).partRt part).frames = some (mappedFrames s part) := by
  rw [State.destroyStart_stopping.frames part, State.condemned_rt, State.partRt_setRt s hp]

theorem State.destroyStart_others {q : Nat} (h : q ≠ part) : ((s.destroyStart part).partRt q).frames = (s.partRt q).frames := by
  rw [State.destroyStart_stopping.frames q, State.condemned_rt, State.partRt_setRt_ne h]

theorem State.destroyStart_exists (q : Nat) : (partAt (s.destroyStart part) q).exists_ = (partAt s q).exists_ := by
  rw [State.destroyStart_stopping.exists_ q, State.condemned_part]

theorem State.destroyStart_fns {n : Fn} (h : n.val ≠ part % 17) : (s.destroyStart part).fns[n] = s.fns[n] :=
  (congrArg (fun v : Vector FnRegs 17 => v[n]) State.destroyStart_stopping.fns).trans (State.condemned_fns h)

theorem stop_of_standing {k k' : Core} (h : k.standing = k'.standing) : k.stop = k'.stop := congrArg Standing.stop h

/-- The running cores of a running launch are asked to stop. -/
theorem State.destroyStart_asks {l : Launch} (hl : l ∈ s.launches) (hpart : l.part = part) (hker : l.hker = false)
    (hstate : l.state = .running) (huniq : ∀ m ∈ s.launches, m.id = l.id → m = l) {d : Fin 256}
    (hlaunch : (s.coreAt d).launch = some l.id) (hrun : (s.coreAt d).run = .running) :
    ((s.destroyStart part).coreAt d).stop = some .noSave := by
  have hlaunches : (s.condemned part).launches = s.launches := State.condemned_launches
  have hcore : (s.condemned part).coreAt d = s.coreAt d := congrArg (fun v : Vector Core 256 => v[d]) State.condemned_cores
  have hstanding : ((s.destroyStart part).coreAt d).standing = (((s.condemned part).stopLaunches part).coreAt d).standing :=
    State.destroyStart_standing d
  generalize s.condemned part = u at hlaunches hcore hstanding
  rw [← hlaunches] at hl huniq
  rw [← hcore] at hlaunch hrun
  exact (stop_of_standing hstanding).trans (State.stopLaunches_asks hl hpart hker hstate huniq hlaunch hrun)

/-! ### The end of a destruction (R69, R94) -/

/-- The scrub of a destruction: its work charged, its units cleared, and its last slate. -/
def State.emptied (s : State) (part : Nat) : State :=
  let s := s.chargeScrub part (scrubWork s part (s.cycle + scrubCycles)) 0
  let s := if (partAt s part).kind = 0 || s.sheet.last = part then s.clearSequencers part else s
  ((s.dropTlbOf part).scrubQuads part).emitSlate part 3

/-- The frames of a destruction zeroed, and its lines in L2 gone. -/
def State.razed (s : State) (part : Nat) : State :=
  (((s.partRt part).frames.getD []).foldl (fun s f => s.zeroFrame f) s).dropLines fun e => e.tag = part && e.win.isSome

/-- A partition's place without it. -/
def State.vacated (s : State) (part : Nat) : State :=
  let kept := (s.partRt part).slates
  let s := s.setRt part fun _ => { PartRt.none with slates := kept }
  let s := s.updPart part fun _ => Partition.absent
  let s := { s with
    qos := s.qos.filter (·.part ≠ part), gangs := s.gangs.filter (·.part ≠ part), hdm := s.hdm.filter (·.part ≠ part),
    saved := s.saved.filter fun x => x.ctx.part ≠ part, cmds := s.cmds.filter (·.part ≠ part),
    cmdRuns := s.cmdRuns.filter fun c => c.cmd.fn.val ≠ part,
    sheet := { s.sheet with tenant := if s.sheet.tenant = part then 0 else s.sheet.tenant,
                            last := if s.sheet.last = part then 0 else s.sheet.last } }
  s.updFn ⟨part % 17, by omega⟩ fun f => { f with rings := Vector.replicate 64 Ring.reset }

theorem State.destroyEnd_eq : s.destroyEnd part = ((s.emptied part).razed part).vacated part := rfl

theorem State.chargeScrub_rest (cores slices : Nat) : (s.chargeScrub part cores slices).rest = s.rest :=
  (State.meter_rest _ _ _ _).trans (State.meter_rest _ _ _ _)

theorem State.emptied_keeps : (s.emptied part).manor = s.manor ∧ ∀ d, ((s.emptied part).coreAt d).forgot part := by
  unfold State.emptied
  extract_lets charged clear
  have hcharged : charged.manor = s.manor := State.manor_of_rest (State.chargeScrub_rest _ _)
  have hclear : clear.manor = charged.manor := by
    dsimp only [clear]
    split
    · exact State.clearSequencers_manor
    · rfl
  clear_value clear charged
  obtain ⟨hslate, hcores⟩ := State.emitSlate_manor (s := (clear.dropTlbOf part).scrubQuads part) (part := part) 3
  refine ⟨hslate.trans (State.scrubQuads_manor.trans (hclear.trans hcharged)), fun d => ?_⟩
  have hcore : (((clear.dropTlbOf part).scrubQuads part).emitSlate part 3).coreAt d = ((clear.dropTlbOf part).scrubQuads part).coreAt d :=
    congrArg (fun v : Vector Core 256 => v[d]) hcores
  rw [hcore]
  exact State.scrubQuads_forgets (State.dropTlbOf_forgets d)

theorem State.foldl_zeroFrame_zero (l : List Nat) {a : Nat} (h : s.mem.read a = 0) :
    (l.foldl (fun s f => s.zeroFrame f) s).mem.read a = 0 := by
  induction l generalizing s with
  | nil => exact h
  | cons f l ih =>
    refine ih (s := s.zeroFrame f) ((Mem.read_zero _ _ _ _).trans ?_)
    split
    · rfl
    · exact h

/-- The frames zeroed read zero. -/
theorem State.foldl_zeroFrame_reads {l : List Nat} {f : Nat} (hf : f ∈ l) {k : Nat} (hk : k < 0x200000) :
    (l.foldl (fun s f => s.zeroFrame f) s).mem.read (0x200000 * f + k) = 0 := by
  induction l generalizing s with
  | nil => cases hf
  | cons g l ih =>
    by_cases hfg : f = g
    · refine State.foldl_zeroFrame_zero (s := s.zeroFrame g) l ((Mem.read_zero _ _ _ _).trans (if_pos ?_))
      omega
    · exact ih (s := s.zeroFrame g) ((List.mem_cons.mp hf).resolve_left hfg)

theorem State.razed_manor : (s.razed part).manor = s.manor := foldl_keeps State.manor (f := State.zeroFrame) (fun _ _ => rfl) _ s
theorem State.razed_cores : (s.razed part).cores = s.cores := foldl_keeps State.cores (f := State.zeroFrame) (fun _ _ => rfl) _ s

theorem State.razed_zero {fs : List Nat} (hfs : (s.partRt part).frames = some fs) {f : Nat} (hf : f ∈ fs) {k : Nat} (hk : k < 0x200000) :
    (s.razed part).mem.read (0x200000 * f + k) = 0 := by
  have hall : (s.partRt part).frames.getD [] = fs := by
    rw [hfs]
    rfl
  unfold State.razed
  rw [hall]
  exact State.foldl_zeroFrame_reads hf hk

/-- A partition's registers at their start but for its slates. -/
def PartRt.vacant (kept : Slates) : PartRt := { PartRt.none with slates := kept }

/-- A partition's place, absent, and its registers at their start but for its slates. -/
def State.absented (s : State) (part : Nat) : State :=
  (s.setRt part fun _ => PartRt.vacant (s.partRt part).slates).updPart part fun _ => Partition.absent

theorem State.absented_only : ({ s.absented part with rt := s.rt, parts := s.parts } : State) = s := by
  have hparts := State.updPart_only (s := s.setRt part fun _ => PartRt.vacant (s.partRt part).slates) part fun _ => Partition.absent
  have hrt := State.setRt_only (s := s) (p := part) fun _ => PartRt.vacant (s.partRt part).slates
  have hsame := congrArg (fun t : State => { t with rt := s.rt, parts := s.parts }) hparts
  exact hsame.trans (congrArg (fun t : State => { t with parts := s.parts }) hrt)

theorem State.absented_part (hp : part < 17) : partAt (s.absented part) part = Partition.absent := partAt_updPart hp _

theorem State.absented_rt (hp : part < 17) : (s.absented part).partRt part = PartRt.vacant (s.partRt part).slates :=
  (State.partRt_updPart part _ part).trans (State.partRt_setRt s hp fun _ => PartRt.vacant (s.partRt part).slates)

theorem State.absented_others {q : Nat} (h : q ≠ part) : partAt (s.absented part) q = partAt s q ∧
    (s.absented part).partRt q = s.partRt q :=
  ⟨(partAt_updPart_ne h _).trans (partAt_setRt _ _ _ _),
    (State.partRt_updPart part _ q).trans (State.partRt_setRt_ne h fun _ => PartRt.vacant (s.partRt part).slates)⟩

theorem State.vacated_parts (q : Nat) : partAt (s.vacated part) q = partAt (s.absented part) q := rfl
theorem State.vacated_rt (q : Nat) : (s.vacated part).partRt q = (s.absented part).partRt q := rfl

theorem State.vacated_gone {g : GangDef} (hg : g ∈ (s.vacated part).gangs) : g.part ≠ part := of_decide_eq_true (List.mem_filter.mp hg).2

theorem State.vacated_mem : (s.vacated part).mem = s.mem := (congrArg State.mem (State.absented_only (s := s) (part := part)) :)
theorem State.vacated_cores : (s.vacated part).cores = s.cores := (congrArg State.cores (State.absented_only (s := s) (part := part)) :)

theorem State.vacated_fns {n : Fn} (h : n.val ≠ part % 17) : (s.vacated part).fns[n] = s.fns[n] := by
  have hfns : (s.absented part).fns = s.fns := (congrArg State.fns (State.absented_only (s := s) (part := part)) :)
  unfold State.vacated
  dsimp only
  exact (State.updFn_away _ fun hn => h (congrArg Fin.val hn)).trans (congrArg (fun v : Vector FnRegs 17 => v[n]) hfns)

theorem State.destroyEnd_manor : ((s.emptied part).razed part).manor = s.manor := State.razed_manor.trans State.emptied_keeps.1

theorem State.destroyEnd_absent (hp : part < 17) : (partAt (s.destroyEnd part) part).exists_ = false ∧
    ((s.destroyEnd part).partRt part).frames = none ∧ ∀ g ∈ (s.destroyEnd part).gangs, g.part ≠ part := by
  rw [State.destroyEnd_eq]
  refine ⟨?_, ?_, fun g hg => State.vacated_gone hg⟩
  · rw [State.vacated_parts, State.absented_part hp]
    rfl
  · rw [State.vacated_rt, State.absented_rt hp]
    rfl

theorem State.destroyEnd_others {q : Nat} (h : q ≠ part) : (partAt (s.destroyEnd part) q).exists_ = (partAt s q).exists_ ∧
    ((s.destroyEnd part).partRt q).frames = (s.partRt q).frames := by
  rw [State.destroyEnd_eq, State.vacated_parts, State.vacated_rt, (State.absented_others h).1, (State.absented_others h).2]
  exact ⟨(congrArg Partition.exists_ (State.still_of_manor State.destroyEnd_manor q) :),
    congrArg (·.2.2) (State.pending_of_manor State.destroyEnd_manor q)⟩

theorem State.destroyEnd_fns {n : Fn} (h : n.val ≠ part % 17) : (s.destroyEnd part).fns[n] = s.fns[n] := by
  rw [State.destroyEnd_eq]
  exact (State.vacated_fns h).trans (congrArg (fun v : Vector FnRegs 17 => v[n]) (State.fns_of_manor State.destroyEnd_manor))

theorem State.destroyEnd_zero {fs : List Nat} (hfs : (s.partRt part).frames = some fs) {f : Nat} (hf : f ∈ fs) {k : Nat}
    (hk : k < 0x200000) : (s.destroyEnd part).mem.read (0x200000 * f + k) = 0 := by
  have hemptied : ((s.emptied part).partRt part).frames = some fs :=
    (congrArg (·.2.2) (State.pending_of_manor State.emptied_keeps.1 part) :).trans hfs
  rw [State.destroyEnd_eq, State.vacated_mem]
  exact State.razed_zero hemptied hf hk

theorem State.destroyEnd_forgets (d : Fin 256) : ((s.destroyEnd part).coreAt d).forgot part := by
  have hcore : (s.destroyEnd part).coreAt d = (s.emptied part).coreAt d :=
    congrArg (fun v : Vector Core 256 => v[d]) (State.vacated_cores.trans State.razed_cores)
  rw [hcore]
  exact State.emptied_keeps.2 d

/-! ### PDESTROY -/

theorem pdestroy_noPart (h : CmdFor s .pf [(8, 1)]) (hpart : part = s.inp.cmd.field 8 1)
    (hno : part = 0 ∨ 16 < part ∨ (partAt s part).exists_ = false) : EndsIn .pdestroy s s csBadField 0 0 := by
  refine congrArg Host.Outcome.next ((State.command_for h).trans ?_)
  dsimp only
  rw [← hpart]
  exact if_pos (by simpa [or_assoc] using hno)

section
variable (h : CmdFor s .pf [(8, 1)]) (hpart : part = s.inp.cmd.field 8 1) (h0 : 0 < part) (h16 : part ≤ 16)
  (hlives : (partAt s part).exists_ = true) (hfirst : (s.partRt part).frames = none)
include h hpart h0 h16 hlives hfirst

theorem pdestroy_starts : Runs .pdestroy s (if partQuiet (s.destroyStart part) part then
    ((s.destroyStart part).destroyEnd part).cmdDone s.inp.cmd csOk 0 0 else s.destroyStart part) := by
  refine congrArg Host.Outcome.next ((State.command_for h).trans ?_)
  dsimp only
  rw [← hpart, hlives, hfirst, if_neg (by simp; omega)]
  rfl

theorem pdestroy_waits (hbusy : partQuiet (s.destroyStart part) part = false) : Runs .pdestroy s (s.destroyStart part) := by
  have hrun := pdestroy_starts h hpart h0 h16 hlives hfirst
  rwa [hbusy, if_neg (by decide)] at hrun

theorem pdestroy_ends (hquiet : partQuiet (s.destroyStart part) part = true) : RunsTo .pdestroy s fun t =>
    (partAt t part).exists_ = false ∧ (t.partRt part).frames = none ∧ (∀ g ∈ t.gangs, g.part ≠ part) ∧
      (∀ f ∈ mappedFrames s part, ∀ k < 0x200000, t.mem.read (0x200000 * f + k) = 0) ∧ ∀ d, (t.coreAt d).forgot part := by
  have hrun := pdestroy_starts h hpart h0 h16 hlives hfirst
  rw [hquiet, if_pos rfl] at hrun
  have hp : part < 17 := by omega
  obtain ⟨hexists, hframes, hgangs⟩ := State.destroyEnd_absent (s := s.destroyStart part) hp
  exact ⟨_, hrun, hexists, hframes, hgangs, fun f hf k hk => State.destroyEnd_zero (State.destroyStart_frames hp) hf hk,
    fun d => State.destroyEnd_forgets d⟩

end

end

/-! ### The reset of a virtual function (R70) -/

/-- A launch without the command that asked for it, where that was the function's. -/
def Launch.unasked (fn : Fn) (l : Launch) : Launch :=
  match l.cmd with
  | some c => if c.fn = fn then { l with cmd := none } else l
  | none => l

theorem Launch.unasked_mark (fn : Fn) (l : Launch) : (l.unasked fn).mark = l.mark := by
  unfold Launch.unasked
  split
  · split <;> rfl
  · rfl

/-- A gang's definition, withdrawn where it is the partition's. -/
def GangDef.left (part : Nat) (d : GangDef) : GangDef := if d.part = part then { d with withdrawn := true } else d

theorem GangDef.left_part (part : Nat) (d : GangDef) : (d.left part).part = d.part := by
  unfold GangDef.left
  split <;> rfl

theorem GangDef.left_withdrawn {part : Nat} {d : GangDef} (h : d.part = part) : (d.left part).withdrawn = true := by
  rw [GangDef.left, if_pos h]

section
variable {s : State} {part : Nat}

theorem State.resetRings_launches (fn : Fn) : (s.resetRings fn).launches = s.launches.map (Launch.unasked fn) := rfl
theorem State.resetRings_cmdRuns (fn : Fn) : (s.resetRings fn).cmdRuns = s.cmdRuns.filter fun c => c.cmd.fn ≠ fn := rfl

theorem State.resetRings_rings (fn : Fn) : ((s.resetRings fn).fns[fn]).rings = Vector.replicate 64 Ring.reset :=
  congrArg FnRegs.rings (State.updFn_here (s := s) (fn := fn) fun f => { f with rings := Vector.replicate 64 Ring.reset })

/-- The reset of a function begins: its rings, permissions and gangs go. -/
def State.resetting (s : State) (part : Nat) : State :=
  let s := (s.resetRings ⟨part % 17, by omega⟩).setRt part fun r => { r with isReset := true, lperm := [] }
  { s with gangs := s.gangs.map (GangDef.left part) }

theorem State.resetting_only : ({ s.resetting part with rt := s.rt, gangs := s.gangs } : State) = s.resetRings ⟨part % 17, by omega⟩ := by
  unfold State.resetting
  exact (congrArg (fun t : State => { t with gangs := s.gangs })
    (State.setRt_only (s := s.resetRings ⟨part % 17, by omega⟩) (p := part) fun r => { r with isReset := true, lperm := [] }) :)

theorem State.resetting_launches : (s.resetting part).launches = s.launches.map (Launch.unasked ⟨part % 17, by omega⟩) :=
  (congrArg State.launches (State.resetting_only (s := s) (part := part)) :)

theorem State.resetting_cores : (s.resetting part).cores = s.cores :=
  (congrArg State.cores (State.resetting_only (s := s) (part := part)) :)

theorem State.resetting_nb : (s.resetting part).nb = s.nb :=
  (congrArg State.nb (State.resetting_only (s := s) (part := part)) :)

theorem State.resetting_cmdRuns : (s.resetting part).cmdRuns = s.cmdRuns.filter fun c => c.cmd.fn ≠ ⟨part % 17, by omega⟩ :=
  (congrArg State.cmdRuns (State.resetting_only (s := s) (part := part)) :)

theorem State.resetting_rings : ((s.resetting part).fns[(⟨part % 17, by omega⟩ : Fn)]).rings = Vector.replicate 64 Ring.reset := by
  have hfns : (s.resetting part).fns = (s.resetRings ⟨part % 17, by omega⟩).fns :=
    (congrArg State.fns (State.resetting_only (s := s) (part := part)) :)
  exact (congrArg (fun v : Vector FnRegs 17 => (v[(⟨part % 17, by omega⟩ : Fn)]).rings) hfns).trans (State.resetRings_rings _)

theorem State.resetting_rt (hp : part < 17) : ((s.resetting part).partRt part).isReset = true ∧ ((s.resetting part).partRt part).lperm = [] := by
  have hrt := State.partRt_setRt (s.resetRings ⟨part % 17, by omega⟩) hp fun r => { r with isReset := true, lperm := [] }
  exact ⟨congrArg PartRt.isReset hrt, congrArg PartRt.lperm hrt⟩

theorem State.resetting_gangs {g : GangDef} (hg : g ∈ (s.resetting part).gangs) (hpart : g.part = part) : g.withdrawn = true := by
  obtain ⟨g', -, rfl⟩ := List.mem_map.mp hg
  exact GangDef.left_withdrawn ((g'.left_part part).symm.trans hpart)

/-- The partition's launches stop and its entries are aborted. -/
def State.vfStopped (s : State) (part : Nat) : State := ((s.resetting part).stopLaunches part).abortEntries part

/-- Every handle of the partition is dropped. -/
def State.dropKernels (s : State) (part : Nat) : State := s.updPart part fun p => { p with kernels := [] }

theorem State.dropKernels_rt (q : Nat) : (s.dropKernels part).partRt q = s.partRt q := State.partRt_updPart _ _ _

/-- The handles are dropped and the reset ends once the partition is quiet. -/
def State.vfSettled (s : State) (part : Nat) : State :=
  if partQuiet s part then (s.dropKernels part).setRt part fun r => { r with isReset := false } else s

theorem flrVf_resets {vf : Fin 16} (h : (s.partRt (partNo vf)).isReset = false) :
    Runs (.flrVf vf) s ((s.vfStopped (partNo vf)).vfSettled (partNo vf)) := by
  change execFlrVf vf s = _
  unfold execFlrVf
  dsimp only
  rw [h]
  rfl

theorem State.vfStopped_stopping : Stopping (s.resetting part) (s.vfStopped part) :=
  (State.stopLaunches_stopping part).trans (Stopping.of_rest (State.abortEntries_rest _ part))

theorem State.vfSettled_keeps (hp : part < 17) : (s.vfSettled part).fns = s.fns ∧ (s.vfSettled part).gangs = s.gangs ∧
    ((s.vfSettled part).partRt part).lperm = (s.partRt part).lperm ∧ (s.vfSettled part).cores = s.cores := by
  unfold State.vfSettled
  split
  · have hrt := State.setRt_only (s := s.dropKernels part) (p := part) fun r => { r with isReset := false }
    have hpart := State.updPart_only (s := s) part fun p => { p with kernels := [] }
    refine ⟨(congrArg State.fns hrt :).trans (congrArg State.fns hpart :), (congrArg State.gangs hrt :).trans (congrArg State.gangs hpart :),
      (congrArg PartRt.lperm (State.partRt_setRt _ hp _)).trans (congrArg PartRt.lperm (State.dropKernels_rt part) :),
      (congrArg State.cores hrt :).trans (congrArg State.cores hpart :)⟩
  · exact ⟨rfl, rfl, rfl, rfl⟩

theorem State.vfSettled_quiet (hp : part < 17) (h : partQuiet s part = true) :
    ((s.vfSettled part).partRt part).isReset = false ∧ (partAt (s.vfSettled part) part).kernels = [] := by
  rw [State.vfSettled, if_pos h]
  refine ⟨congrArg PartRt.isReset (State.partRt_setRt _ hp _), ?_⟩
  rw [partAt_setRt, State.dropKernels, partAt_updPart hp]

theorem State.vfSettled_busy (h : partQuiet s part = false) : s.vfSettled part = s := by
  rw [State.vfSettled, h]
  rfl

theorem partQuiet_of_none (hl : ∀ l ∈ s.launches, l.part ≠ part)
    (hr : (s.nb.toList.any fun l => l.any fun r => r.part = part && r.kill.isSome) = false)
    (hc : ∀ c ∈ s.cmdRuns, c.cmd.fn.val ≠ part) : partQuiet s part = true := by
  have hlaunches : (s.launches.any fun l => l.part = part && !l.hker && l.state = .running) = false :=
    List.any_eq_false.mpr fun l hmem => by simp [hl l hmem]
  have hanswers : answersDue s part = false := List.any_eq_false.mpr fun c hmem => by simp [hc c hmem]
  rw [partQuiet, hlaunches, hr, hanswers]
  rfl

theorem partQuiet_of_running {l : Launch} (hl : l ∈ s.launches) (hpart : l.part = part) (hker : l.hker = false)
    (hstate : l.state = .running) : partQuiet s part = false := by
  have hlaunches : (s.launches.any fun l => l.part = part && !l.hker && l.state = .running) = true :=
    List.any_eq_true.mpr ⟨l, hl, by rw [hpart, hker, hstate]; simp⟩
  rw [partQuiet, hlaunches]
  rfl

theorem dueRuns_eq (s : State) (part : Nat) : (s.nb.toList.any fun l => l.any fun r => r.part = part && r.kill.isSome) =
    s.rest.runs.toList.any fun l => l.any fun o => o.1 = part && o.2.isSome := by
  rw [State.rest, Vector.toList_map, List.any_map]
  simp only [Function.comp_def, List.any_map, NbRun.owed]
  rfl

/-- Without a launch and a near-bank run the reset ends at once. -/
theorem State.vfStopped_quiet (hp : part < 17) (hl : ∀ l ∈ s.launches, l.part ≠ part)
    (hr : (s.nb.toList.any fun l => l.any fun r => r.part = part) = false) : partQuiet (s.vfStopped part) part = true := by
  have hothers : ∀ l ∈ (s.resetting part).launches, l.part ≠ part := fun l hmem => by
    rw [State.resetting_launches] at hmem
    obtain ⟨l', hl', rfl⟩ := List.mem_map.mp hmem
    have hmark : (l'.unasked ⟨part % 17, by omega⟩).part = l'.part := congrArg (·.2.1) (l'.unasked_mark _)
    rw [hmark]
    exact hl l' hl'
  have hrest : (s.vfStopped part).rest = (s.resetting part).rest := by
    rw [State.vfStopped, State.stopLaunches_none hothers, State.abortEntries_rest]
  have hcmds : (s.vfStopped part).cmdRuns = s.cmdRuns.filter fun c => c.cmd.fn ≠ ⟨part % 17, by omega⟩ :=
    (congrArg (fun r : Rest => r.calm.cmdRuns) hrest :).trans State.resetting_cmdRuns
  refine partQuiet_of_none (fun l hmem => ?_) ?_ fun c hc => ?_
  · have hstill : (s.vfStopped part).launches.map Launch.still = (s.resetting part).launches.map Launch.still := congrArg Rest.launches hrest
    have hmem' : l.still ∈ (s.resetting part).launches.map Launch.still := hstill ▸ List.mem_map_of_mem hmem
    obtain ⟨l', hl', hsame⟩ := List.mem_map.mp hmem'
    have hpart : l'.part = l.part := (congrArg Launch.part hsame :)
    exact hpart ▸ hothers l' hl'
  · have hruns : (s.vfStopped part).rest.runs = s.rest.runs := (congrArg Rest.runs hrest).trans
      (congrArg (Vector.map (List.map NbRun.owed)) State.resetting_nb)
    rw [dueRuns_eq, hruns, ← dueRuns_eq]
    refine List.any_eq_false.mpr fun l hmem => ?_
    refine Bool.not_eq_true _ ▸ List.any_eq_false.mpr fun r hrun => ?_
    have hnone := List.any_eq_false.mp (Bool.eq_false_of_not_eq_true (List.any_eq_false.mp hr l hmem)) r hrun
    exact fun hdue => hnone (Bool.and_eq_true_iff.mp hdue).1
  · rw [hcmds] at hc
    have hfn := of_decide_eq_true (List.mem_filter.mp hc).2
    exact fun hval => hfn (Fin.ext (hval.trans (Nat.mod_eq_of_lt hp).symm))

/-- With a running launch the reset waits, and the launch's running cores are asked to stop. -/
theorem State.vfStopped_waits {l : Launch} (hl : l ∈ s.launches) (hpart : l.part = part) (hker : l.hker = false)
    (hstate : l.state = .running) (huniq : ∀ m ∈ s.launches, m.id = l.id → m = l) :
    partQuiet (s.vfStopped part) part = false ∧ ∀ d, (s.coreAt d).launch = some l.id → (s.coreAt d).run = .running →
      ((s.vfStopped part).coreAt d).stop = some .noSave := by
  have hmark := l.unasked_mark ⟨part % 17, by omega⟩
  have hlaunches := State.resetting_launches (s := s) (part := part)
  have hcores := State.resetting_cores (s := s) (part := part)
  have hrest : (s.vfStopped part).rest = ((s.resetting part).stopLaunches part).rest := State.abortEntries_rest _ part
  generalize s.resetting part = u at hlaunches hcores hrest
  generalize hx : l.unasked ⟨part % 17, by omega⟩ = x at hmark
  obtain ⟨hid, hxpart, hxker, hxstate⟩ : x.id = l.id ∧ x.part = l.part ∧ x.hker = l.hker ∧ x.state = l.state := by
    simpa [Launch.mark] using hmark
  have hxmem : x ∈ u.launches := by
    rw [hlaunches, ← hx]
    exact List.mem_map_of_mem hl
  have hxuniq : ∀ m ∈ u.launches, m.id = x.id → m = x := fun m hm hmid => by
    rw [hlaunches] at hm
    obtain ⟨m', hm', rfl⟩ := List.mem_map.mp hm
    have hmid' : (m'.unasked ⟨part % 17, by omega⟩).id = m'.id := congrArg (·.1) (m'.unasked_mark _)
    rw [← hx, huniq m' hm' (hmid'.symm.trans (hmid.trans hid))]
  have hxpart' := hxpart.trans hpart
  have hxker' := hxker.trans hker
  have hxstate' := hxstate.trans hstate
  constructor
  · obtain ⟨y, hy, hymark⟩ := State.stopLaunches_runs hxmem hxpart' hxker' hxstate' hxuniq
    have hstill : (s.vfStopped part).launches.map Launch.still = (u.stopLaunches part).launches.map Launch.still := congrArg Rest.launches hrest
    have hmem : y.still ∈ (s.vfStopped part).launches.map Launch.still := hstill ▸ List.mem_map_of_mem hy
    obtain ⟨z, hz, hsame⟩ := List.mem_map.mp hmem
    have hzmark : z.mark = x.mark := (congrArg Launch.mark hsame :).trans hymark
    obtain ⟨-, hzpart, hzker, hzstate⟩ : z.id = x.id ∧ z.part = x.part ∧ z.hker = x.hker ∧ z.state = x.state := by
      simpa [Launch.mark] using hzmark
    exact partQuiet_of_running hz (hzpart.trans hxpart') (hzker.trans hxker') (hzstate.trans hxstate')
  · intro d hlaunch hrun
    have hcore : u.coreAt d = s.coreAt d := congrArg (fun v : Vector Core 256 => v[d]) hcores
    rw [← hcore] at hlaunch hrun
    exact (stop_of_standing (standing_of_rest hrest d)).trans
      (State.stopLaunches_asks hxmem hxpart' hxker' hxstate' hxuniq (hlaunch.trans (congrArg some hid.symm)) hrun)

end

/-! ### The reset of PF 0 (R70) -/

section
variable {s : State} {part q : Nat}

/-- A destruction is under way, or starts. -/
def State.condemn (s : State) (part : Nat) : State := if (s.partRt part).frames.isNone then s.destroyStart part else s

/-- A reset of PF 0 at one partition. -/
def State.flrPart (s : State) (part : Nat) : State :=
  if !(partAt s part).exists_ then s
  else if partQuiet (s.condemn part) part then (s.condemn part).destroyEnd part else s.condemn part

theorem flrPf0_destroys : Runs .flrPf0 s ((List.finRange 16).foldl (fun s p => s.flrPart (partNo p)) (s.resetRings 0)) := rfl

theorem State.flrPart_absent (h : (partAt s part).exists_ = false) : s.flrPart part = s := by
  rw [State.flrPart, h]
  rfl

theorem State.foldl_flrPart_absent (l : List (Fin 16)) (h : ∀ p ∈ l, (partAt s (partNo p)).exists_ = false) :
    l.foldl (fun s p => s.flrPart (partNo p)) s = s := by
  induction l with
  | nil => rfl
  | cons p l ih =>
    rw [List.foldl_cons, State.flrPart_absent (h p List.mem_cons_self)]
    exact ih fun p hp => h p (List.mem_cons_of_mem _ hp)

theorem State.condemn_others (h : q ≠ part) : (partAt (s.condemn part) q).exists_ = (partAt s q).exists_ ∧
    ((s.condemn part).partRt q).frames = (s.partRt q).frames := by
  unfold State.condemn
  split
  · exact ⟨State.destroyStart_exists q, State.destroyStart_others h⟩
  · exact ⟨rfl, rfl⟩

theorem State.condemn_frames (hp : part < 17) : ((s.condemn part).partRt part).frames.isSome = true := by
  unfold State.condemn
  split
  · rw [State.destroyStart_frames hp]
    rfl
  next hsome => exact Option.isSome_iff_ne_none.mpr fun hnone => hsome (by rw [hnone]; rfl)

theorem State.condemn_fns {n : Fn} (h : n.val ≠ part % 17) : (s.condemn part).fns[n] = s.fns[n] := by
  unfold State.condemn
  split
  · exact State.destroyStart_fns h
  · rfl

/-- The other partitions, and the registers of other functions, stand. -/
theorem State.flrPart_others (h : q ≠ part) : (partAt (s.flrPart part) q).exists_ = (partAt s q).exists_ ∧
    ((s.flrPart part).partRt q).frames = (s.partRt q).frames := by
  unfold State.flrPart
  split
  · exact ⟨rfl, rfl⟩
  · split
    · exact ⟨(State.destroyEnd_others h).1.trans (State.condemn_others h).1, (State.destroyEnd_others h).2.trans (State.condemn_others h).2⟩
    · exact State.condemn_others h

theorem State.flrPart_fns {n : Fn} (h : n.val ≠ part % 17) : (s.flrPart part).fns[n] = s.fns[n] := by
  unfold State.flrPart
  split
  · rfl
  · split
    · exact (State.destroyEnd_fns h).trans (State.condemn_fns h)
    · exact State.condemn_fns h

/-- A partition that still exists is under destruction. -/
def State.doomed (s : State) (part : Nat) : Prop := (partAt s part).exists_ = true → ((s.partRt part).frames).isSome = true

theorem State.flrPart_dooms (hp : part < 17) : (s.flrPart part).doomed part := by
  unfold State.flrPart State.doomed
  split
  next hnot => exact fun hlives => absurd hlives (by simpa using hnot)
  · split
    · rw [(State.destroyEnd_absent hp).1]
      exact fun hlives => absurd hlives Bool.false_ne_true
    · exact fun _ => State.condemn_frames hp

theorem State.flrPart_keeps (h : q ≠ part) (hdoomed : s.doomed q) : (s.flrPart part).doomed q := by
  obtain ⟨hexists, hframes⟩ := State.flrPart_others (s := s) h
  unfold State.doomed
  rw [hexists, hframes]
  exact hdoomed

theorem State.foldl_flrPart_dooms (l : List (Fin 16)) {p : Fin 16} (h : p ∈ l ∨ s.doomed (partNo p)) :
    (l.foldl (fun s p => s.flrPart (partNo p)) s).doomed (partNo p) := by
  induction l generalizing s with
  | nil => exact h.resolve_left (by simp)
  | cons q l ih =>
    refine ih (s := s.flrPart (partNo q)) ?_
    by_cases hpq : p = q
    · exact Or.inr (hpq ▸ State.flrPart_dooms (partNo_lt p))
    · exact h.imp (fun hmem => (List.mem_cons.mp hmem).resolve_left hpq) (State.flrPart_keeps fun hno => hpq (partNo_inj hno))

theorem State.foldl_flrPart_fns (l : List (Fin 16)) :
    (l.foldl (fun s p => s.flrPart (partNo p)) s).fns[(0 : Fn)] = s.fns[(0 : Fn)] := by
  refine foldl_keeps (fun u : State => u.fns[(0 : Fn)]) (fun u p => State.flrPart_fns ?_) l s
  have hp := p.isLt
  simp only [partNo, Fin.coe_ofNat_eq_mod]
  omega

end

/-- Settles O47: a partition is known through its making, its destruction and its function's reset by what each step leaves of
the registers, of the frames to be zeroed, and of the standing of cores and launches. -/
theorem partitionCommands : Obligations.PartitionCommands := by
  unfold Obligations.PartitionCommands
  intro s
  refine ⟨fun i hi hfn => partition_command_refused hi hfn, fun hfn h => pcreate_stray hfn h, fun part b u h hpart => ?_,
    fun part h hpart => ?_, fun h hvf => ?_, fun vf => ?_, fun h => ?_, ?_⟩
  case refine_1 =>
    refine ⟨fun hno => pcreate_noPart h hpart hno, fun h0 h16 hfree hget => ?_⟩
    have hrun := pcreate_reads h hpart h0 h16 hfree hget
    have hp : part < 17 := by omega
    refine ⟨fun hform => ?_, fun hform hno => ?_, fun hform hnew hok => ?_⟩
    · rw [State.created, hform] at hrun
      exact hrun
    · rw [State.created, hform, if_neg (by decide), if_pos (Bool.or_eq_true_iff.mpr hno)] at hrun
      exact hrun
    · rw [pcreate_makes hp hform hnew hok] at hrun
      obtain ⟨hpart, hcmds, hforgot, hclear⟩ := State.makePartition_makes (s := u) hp (partOfDesc b)
      exact ⟨_, hrun, State.cmdDone_runs hcmds _ _ _ _, hpart, hclear, hforgot⟩
  case refine_2 =>
    refine ⟨fun hno => pdestroy_noPart h hpart hno, fun h0 h16 hlives hfirst => ⟨fun hbusy => ⟨?_, ?_⟩, fun hquiet => ?_⟩⟩
    · exact pdestroy_waits h hpart h0 h16 hlives hfirst hbusy
    · exact fun l hl hlpart hker hstate huniq d hlaunch hrun => State.destroyStart_asks hl hlpart hker hstate huniq hlaunch hrun
    · exact pdestroy_ends h hpart h0 h16 hlives hfirst hquiet
  case refine_3 =>
    intro e others hdec hpart hlives hbase hlen hin hapart hspecial
    exact ⟨_, hdmmap_sets h hvf rfl hdec hpart hlives hbase hlen hin hapart hspecial, rfl, rfl, SameMemory.of_eq rfl rfl, rfl⟩
  case refine_4 =>
    intro part n hreset
    have hp : part < 17 := partNo_lt vf
    obtain ⟨hfns, hgangs, hlperm, hcores⟩ := State.vfSettled_keeps (s := s.vfStopped part) hp
    refine ⟨_, flrVf_resets hreset, ?_, ?_, fun g hg hgpart => ?_, fun hnone hruns => ?_, fun l hl hpart hker hstate huniq => ?_⟩
    · exact (congrArg (fun v : Vector FnRegs 17 => (v[n]).rings) (hfns.trans State.vfStopped_stopping.fns)).trans State.resetting_rings
    · exact (hlperm.trans (State.vfStopped_stopping.lperm part)).trans (State.resetting_rt hp).2
    · obtain ⟨g', hg', hsame, hleft⟩ := State.vfStopped_stopping.gangs g (hgangs ▸ hg)
      exact hleft (State.resetting_gangs hg' (hsame.trans hgpart))
    · exact State.vfSettled_quiet hp (State.vfStopped_quiet hp hnone hruns)
    · obtain ⟨hbusy, hasks⟩ := State.vfStopped_waits hl hpart hker hstate huniq
      rw [State.vfSettled_busy hbusy]
      exact ⟨(State.vfStopped_stopping.isReset part).trans (State.resetting_rt hp).1, hasks⟩
  case refine_5 =>
    exact flrPf0_destroys.trans (congrArg Host.Outcome.next (State.foldl_flrPart_absent _ fun p _ => h p))
  case refine_6 =>
    exact ⟨_, flrPf0_destroys, (congrArg FnRegs.rings (State.foldl_flrPart_fns _)).trans (State.resetRings_rings 0),
      fun p => State.foldl_flrPart_dooms _ (Or.inl (List.mem_finRange p))⟩

end Sys2Proof.Machine
end
